-- ==== Sys2Proof/Word.lean ====
section
/-! DEFINITION. The word types the manual treats as bits. -/

namespace Sys2Proof

/-- One byte of memory. -/
abbrev Byte := BitVec 8

/-- A lane register element or an instruction word (R30, R44). -/
abbrev Word := BitVec 32

/-- A uniform register, special register or memory word of 64 bits (R30, R33). -/
abbrev DWord := BitVec 64

/-- A lane mask: bit l stands for lane l (R27). -/
abbrev Mask := BitVec 64

/-- A virtual address within a context: 57 bits (R39). -/
abbrev VAddr := BitVec 57

/-- A notification, a packet or a key: 256 bits. -/
abbrev Bits256 := BitVec 256

end Sys2Proof
end

