-- ==== Sys2Proof/Syntax.lean ====
section
/-! DEFINITION. The instructions: one inductive, one constructor per row of the opcode table; before it, what some of
the rows without words carry. -/

namespace Sys2Proof

/-- The four remote operations (R397), in the order of TCAUSE bits 50:48 (R404). -/
inductive RemoteKind where
  | put | get | ratom | notify
deriving DecidableEq, Repr, Inhabited

/-- A router's notice to a requester: a link on the way has failed (R378), or a packet has been dropped (R382). -/
inductive Notice where
  | failure | error
deriving DecidableEq, Repr, Inhabited

/-- A packet of a remote operation (R382, R396, R398, R403): its routing header's fields, then what the home needs, or
what a reply brings back; or a notice about one. -/
structure RemotePacket where
  dpanel : Nat := 0
  disl : Nat := 0
  spanel : Nat := 0
  sisl : Nat := 0
  hop : Nat := 0
  route : Nat := 0
  /-- It has just arrived over an edge link. -/
  edge : Bool := false
  /-- It is an acknowledgement or a response. -/
  reply : Bool := false
  /-- It is a notice to the requester of the operation and part. -/
  notice : Option Notice := none
  /-- The requester's number of the operation, and which part of it this is. -/
  op : Nat := 0
  part : Nat := 0
  kind : RemoteKind := .put
  rseq : Nat := 0
  ctx : Nat := 0
  va : Nat := 0
  len : Nat := 0
  rne : Bool := false
  rctr : Nat := 0
  /-- The last part of its operation. -/
  final : Bool := true
  aop : Nat := 0
  small : Bool := false
  val : DWord := 0
  expect : DWord := 0
  data : List Byte := []
  /-- Offsets of the data bytes that lay in poisoned quarters (R311). -/
  marks : List Nat := []
  /-- STATUS of the REMOTE fault a reply reports; 0 on success. -/
  status : Nat := 0
  bad : Bool := false
deriving DecidableEq, Repr, Inhabited

/-- What a bucket message holds (R412 to R415). -/
inductive BucketBody where
  | scalesUp (l : List Byte)
  | scalesDown (l : List Byte)
  | valuesUp (l : List Word)
  | result (l : List Word)
  | failure
deriving DecidableEq, Repr, Inhabited

/-- A message between the islands of a bucket's tree (R415). -/
structure BucketMsg where
  source : Nat := 0
  ctx : Nat := 0
  bid : Nat := 0
  bq32 : Bool := false
  count : Nat := 0
  /-- The sender's own parent. -/
  parent : Nat := 63
  body : BucketBody := .failure
deriving DecidableEq, Repr, Inhabited

/-- A key-control message of an edge link (R389, R391): an encapsulation key, or the ciphertext that answers one, each
with its sender's device key and signature; or RETIRE. -/
inductive KeyMsg where
  | encap (peer msg sig : List Byte)
  | cipher (peer msg sig : List Byte)
  | retire
deriving DecidableEq, Repr, Inhabited

/-- A retraining trigger at a port (R377): the loss of lock on a waveguide, 0 to 8 transmit and 9 to 17 receive, or a trigger
without a loss. -/
structure LinkTrigger where
  port : Nat := 0
  lost : Option Nat := none
deriving DecidableEq, Repr, Inhabited

/-- What an uncorrectable error strikes (R418, R420, R421). -/
inductive Struck where
  /-- A register element of a group: kind 0 V, 1 S, 2 P, 3 C. -/
  | register (grp kind reg lane sub : Nat)
  /-- A 32-byte word of a team's memory, or of a tile. -/
  | team (team : Nat) (tile : Option Nat) (word : Nat) (scrub : Bool)
  /-- A sector of a line, or of a save area. -/
  | line (sector : Nat)
  /-- A copy of a sector in an L1, named as in the home's record. -/
  | copy (l1 sector : Nat)
  /-- A home record, race metadata of a shared VC, or a walk-cache entry. -/
  | shared
  /-- The router's table copy, the sequencer, the fault record queue, the management core, or the die (R424). -/
  | island
deriving DecidableEq, Repr, Inhabited

/-- What boot's own checks find (R13, R16, R19, R20, R374): firmware of each control die, the sections of the store, the
HBM4E stacks and the UCIe modules that do not train, by site and number, the physical banks and the ports that self-test
finds failed, and the mesh links, by site and port, that train. -/
structure BootFindings where
  fw0 : Bool := true
  fw1 : Bool := true
  factoryOk : Bool := true
  fieldOk : Bool := true
  hbm : List (Nat × Nat) := []
  ucie : List (Nat × Nat) := []
  banks : List (Nat × Nat) := []
  ports : List (Nat × Nat) := []
  links : List (Nat × Nat) := []
deriving DecidableEq, Repr, Inhabited

/-- One constructor per row of spec/opcode_table.json. The rows with words carry the fields of their
words (R48, R57), bit for bit; the other rows are whole steps of the machine's other agents and completions,
and carry what says where they happen. The rows that only the world outside brings about stand last. -/
inductive Instr where
  /-- IADD (R105). Adds two lane operands of the selected integer type, wrapping, in every lane of the fragment. -/
  | iadd (st : BitVec 2) (d a b : BitVec 7) (m : BitVec 2)
  /-- ISUB (R105). Subtracts the second lane operand from the first, wrapping. -/
  | isub (st : BitVec 2) (d a b : BitVec 7) (m : BitVec 2)
  /-- IMUL (R105). Writes the low half of the product of two lane operands. -/
  | imul (st : BitVec 2) (d a b : BitVec 7) (m : BitVec 2)
  /-- IMULH (R105). Writes the high half of the signed or unsigned product of two lane operands. -/
  | imulh (st : BitVec 2) (d a b : BitVec 7) (m : BitVec 2)
  /-- IMAD (R105). Writes a times b plus the old destination, wrapping. -/
  | imad (st : BitVec 2) (d a b : BitVec 7) (m : BitVec 2)
  /-- IMIN (R105). Writes the lesser of two lane operands by the type's signedness. -/
  | imin (st : BitVec 2) (d a b : BitVec 7) (m : BitVec 2)
  /-- IMAX (R105). Writes the greater of two lane operands by the type's signedness. -/
  | imax (st : BitVec 2) (d a b : BitVec 7) (m : BitVec 2)
  /-- IADDSAT (R105). Adds two lane operands with saturation to the type's range. -/
  | iaddsat (st : BitVec 2) (d a b : BitVec 7) (m : BitVec 2)
  /-- AND (R105). Writes the bitwise AND of two lane operands. -/
  | and (st : BitVec 2) (d a b : BitVec 7) (m : BitVec 2)
  /-- OR (R105). Writes the bitwise OR of two lane operands. -/
  | or (st : BitVec 2) (d a b : BitVec 7) (m : BitVec 2)
  /-- XOR (R105). Writes the bitwise XOR of two lane operands. -/
  | xor (st : BitVec 2) (d a b : BitVec 7) (m : BitVec 2)
  /-- ANDN (R105). Writes a AND NOT b in every lane. -/
  | andn (st : BitVec 2) (d a b : BitVec 7) (m : BitVec 2)
  /-- SHL (R105). Shifts the lane operand left by an unsigned register count. -/
  | shl (st : BitVec 2) (d a b : BitVec 7) (m : BitVec 2)
  /-- SHR (R105). Shifts the lane operand right, arithmetic or logical by type. -/
  | shr (st : BitVec 2) (d a b : BitVec 7) (m : BitVec 2)
  /-- ICMP (R109). Compares two lane integers under a condition and writes a predicate. -/
  | icmp (st : BitVec 2) (p : BitVec 3) (c : BitVec 4) (a b : BitVec 7) (m : BitVec 2)
  /-- IUN (R106). Applies a unary integer sub-operation to a lane operand. -/
  | iun (st : BitVec 2) (d a u : BitVec 7) (m : BitVec 2)
  /-- IADDI (R107). Adds a sign-extended 9-bit immediate to a 32-bit lane operand. -/
  | iaddi (st : BitVec 2) (d a : BitVec 7) (i : BitVec 9)
  /-- ANDI (R107). ANDs a lane operand with a sign-extended immediate. -/
  | andi (st : BitVec 2) (d a : BitVec 7) (i : BitVec 9)
  /-- ORI (R107). ORs a lane operand with a sign-extended immediate. -/
  | ori (st : BitVec 2) (d a : BitVec 7) (i : BitVec 9)
  /-- XORI (R107). XORs a lane operand with a sign-extended immediate. -/
  | xori (st : BitVec 2) (d a : BitVec 7) (i : BitVec 9)
  /-- SHLI (R108). Shifts a 32-bit lane operand left by an immediate count. -/
  | shli (st : BitVec 2) (d a : BitVec 7) (n : BitVec 5)
  /-- SHRI (R108). Shifts a 32-bit lane operand right by an immediate count, arithmetic when A is set. -/
  | shri (st : BitVec 2) (d a : BitVec 7) (h : BitVec 1) (n : BitVec 5)
  /-- ICMPI (R110). Compares a lane operand with a sign-extended immediate as I32 or N32 and writes a predicate. -/
  | icmpi (st : BitVec 2) (p : BitVec 3) (c : BitVec 4) (a : BitVec 7) (i : BitVec 9)
  /-- MOVL (R112). Writes a zero-extended 16-bit immediate to a lane register. -/
  | movl (st : BitVec 2) (d : BitVec 7) (i : BitVec 16)
  /-- MOVH (R112). Writes a 16-bit immediate to the upper half of a lane register, keeping the lower half. -/
  | movh (st : BitVec 2) (d : BitVec 7) (i : BitVec 16)
  /-- SEL (R113). Selects one of two lane registers by a predicate P0 to P3. -/
  | sel (st : BitVec 2) (d a b : BitVec 7) (p : BitVec 2)
  /-- SHFL (R116). Moves 32-bit values between lanes with the source lane or distance in a register. -/
  | shfl (st : BitVec 2) (d a b : BitVec 7) (m : BitVec 2)
  /-- SHFLI (R116). Moves 32-bit values between lanes with an immediate lane or distance. -/
  | shfli (st : BitVec 2) (d a : BitVec 7) (m : BitVec 2) (n : BitVec 6)
  /-- LANEV (R114). Writes each lane's own lane number. -/
  | lanev (st : BitVec 2) (d : BitVec 7)
  /-- PLOG (R111). Combines two predicates through a 4-bit truth table. -/
  | plog (st : BitVec 2) (p : BitVec 3) (t : BitVec 4) (x y : BitVec 3)
  /-- VOTE (R117). Writes ANY, ALL or EQ of a predicate across the fragment to a predicate. -/
  | vote (st : BitVec 2) (p : BitVec 3) (c : BitVec 4) (x : BitVec 3)
  /-- VOTE_BALLOT (R117). Writes the fragment's predicate mask to an even register pair. -/
  | voteBallot (st : BitVec 2) (x : BitVec 3) (b : BitVec 7)
  /-- REDUX (R118). Reduces a lane register across the fragment and writes the result to every lane. -/
  | redux (st : BitVec 2) (d a b : BitVec 7) (m : BitVec 2)
  /-- FADD (R131). Adds two floating operands with one rounding. -/
  | fadd (st : BitVec 2) (d a b : BitVec 7) (m : BitVec 2)
  /-- FSUB (R131). Subtracts two floating operands with one rounding. -/
  | fsub (st : BitVec 2) (d a b : BitVec 7) (m : BitVec 2)
  /-- FMUL (R131). Multiplies two floating operands with one rounding. -/
  | fmul (st : BitVec 2) (d a b : BitVec 7) (m : BitVec 2)
  /-- FMA (R131). Writes a times b plus the old destination with one rounding. -/
  | fma (st : BitVec 2) (d a b : BitVec 7) (m : BitVec 2)
  /-- FMIN (R132). Writes the lesser floating operand, or the canonical NaN. -/
  | fmin (st : BitVec 2) (d a b : BitVec 7) (m : BitVec 2)
  /-- FMAX (R132). Writes the greater floating operand, or the canonical NaN. -/
  | fmax (st : BitVec 2) (d a b : BitVec 7) (m : BitVec 2)
  /-- FDIV (R131). Divides two floating operands with one rounding. -/
  | fdiv (st : BitVec 2) (d a b : BitVec 7) (m : BitVec 2)
  /-- FCMP (R133). Compares two floating operands under a condition and writes a predicate. -/
  | fcmp (st : BitVec 2) (p : BitVec 3) (c : BitVec 4) (a b : BitVec 7) (m : BitVec 2)
  /-- FUN (R135). Applies a unary floating sub-operation, including CLASS, to a lane operand. -/
  | funOp (st : BitVec 2) (d a u : BitVec 7) (m : BitVec 2)
  /-- FSCL (R134). Scales a floating operand by a power of two given as an I32 register. -/
  | fscl (st : BitVec 2) (d a b : BitVec 7) (m : BitVec 2)
  /-- CVT (R139). Converts a value between floating and integer formats, optionally saturating. -/
  | cvt (st : BitVec 2) (d a : BitVec 7) (t u : BitVec 4) (x : BitVec 1)
  /-- BQNT (R141). Quantises F32 blocks into a packed block format and writes their E8M0 scales. -/
  | bqnt (st : BitVec 2) (d a : BitVec 7) (c : BitVec 6) (f : BitVec 2)
  /-- BDQ (R142). Widens packed blocks to F32 using their scales. -/
  | bdq (st : BitVec 2) (d a : BitVec 7) (c : BitVec 6) (f : BitVec 2)
  /-- FEEDW (R145). Pushes an entry of lane values to feed queue Q0 or Q2. -/
  | feedw (st : BitVec 2) (q : BitVec 1) (a b : BitVec 7) (m : BitVec 2)
  /-- FEEDR (R147). Pops the oldest result entry of Q1 or Q3 into a lane register. -/
  | feedr (st : BitVec 2) (d : BitVec 7) (q : BitVec 1) (m : BitVec 2)
  /-- LD (R301). Loads from global memory through a translation register in every performing lane. -/
  | ld (st : BitVec 2) (d a : BitVec 7) (t w : BitVec 3) (q : BitVec 2) (x : BitVec 1)
  /-- ST (R301). Stores to global memory through a translation register in every performing lane. -/
  | st (st : BitVec 2) (d a : BitVec 7) (t w : BitVec 3) (q : BitVec 2) (x : BitVec 1)
  /-- LDT (R303). Loads from team memory at a per-lane team address. -/
  | ldt (st : BitVec 2) (d a : BitVec 7) (w : BitVec 3) (x : BitVec 1)
  /-- STT (R303). Stores to team memory at a per-lane team address. -/
  | stt (st : BitVec 2) (d a : BitVec 7) (w : BitVec 3) (x : BitVec 1)
  /-- ATOM (R307). Two-word lane atomic read-modify-write on global memory at the home. -/
  | atom (st : BitVec 2) (d a : BitVec 7) (t w : BitVec 3) (q : BitVec 2) (x : BitVec 1) (data : BitVec 7) (aop : BitVec 4) (sem : BitVec 2) (scope : BitVec 3) (sc : BitVec 1)
  /-- ACAS (R307). Two-word lane compare-and-swap on global memory at the home. -/
  | acas (st : BitVec 2) (d a : BitVec 7) (t w : BitVec 3) (q : BitVec 2) (x : BitVec 1) (data cmp : BitVec 7) (sem : BitVec 2) (scope : BitVec 3) (sc : BitVec 1)
  /-- ATOMT (R308). Two-word lane atomic on team memory. -/
  | atomt (st : BitVec 2) (d a : BitVec 7) (w : BitVec 3) (x : BitVec 1) (data : BitVec 7) (aop : BitVec 4) (sem : BitVec 2) (scope : BitVec 3) (sc : BitVec 1)
  /-- ACP16 (R229). Copies 16 bytes per lane from global to team memory, counted on a core barrier. -/
  | acp16 (st : BitVec 2) (d a : BitVec 7) (t : BitVec 3) (b : BitVec 6)
  /-- PRF (R304). Prefetches the line of each lane's address into the VC and L1, dropping every fault. -/
  | prf (st : BitVec 2) (a : BitVec 7) (t w : BitVec 3) (q : BitVec 2) (x : BitVec 1)
  /-- LDA (R302). Loads with acquire at the named scope in every lane. -/
  | lda (st : BitVec 2) (d a : BitVec 7) (t w : BitVec 3) (c : BitVec 2) (x : BitVec 1)
  /-- STA (R302). Stores with release at the named scope in every lane. -/
  | sta (st : BitVec 2) (d a : BitVec 7) (t w : BitVec 3) (c : BitVec 2) (x : BitVec 1)
  /-- MMA (R173). Accumulates one product of vector-register fragments into a tile with one rounding. -/
  | mma (st : BitVec 2) (h : BitVec 1) (t : BitVec 5) (a : BitVec 4) (y : BitVec 3) (b : BitVec 4) (z : BitVec 1) (n : BitVec 2)
  /-- TLD (R182). Reads a tile's rows into 32 vector registers. -/
  | tld (st : BitVec 2) (h : BitVec 1) (t : BitVec 5) (a : BitVec 4)
  /-- TST (R182). Writes a tile's rows from 32 vector registers. -/
  | tst (st : BitVec 2) (h : BitVec 1) (t : BitVec 5) (a : BitVec 4)
  /-- UADD (R120). Adds two uniform registers. -/
  | uadd (st : BitVec 2) (d a b : BitVec 6) (m : BitVec 4)
  /-- USUB (R120). Subtracts two uniform registers. -/
  | usub (st : BitVec 2) (d a b : BitVec 6) (m : BitVec 4)
  /-- UMUL (R120). Multiplies two uniform registers, low half. -/
  | umul (st : BitVec 2) (d a b : BitVec 6) (m : BitVec 4)
  /-- UMULH (R120). Multiplies two uniform registers, high half. -/
  | umulh (st : BitVec 2) (d a b : BitVec 6) (m : BitVec 4)
  /-- UAND (R120). Bitwise AND of two uniform registers. -/
  | uand (st : BitVec 2) (d a b : BitVec 6) (m : BitVec 4)
  /-- UOR (R120). Bitwise OR of two uniform registers. -/
  | uor (st : BitVec 2) (d a b : BitVec 6) (m : BitVec 4)
  /-- UXOR (R120). Bitwise XOR of two uniform registers. -/
  | uxor (st : BitVec 2) (d a b : BitVec 6) (m : BitVec 4)
  /-- USHL (R120). Shifts a uniform register left. -/
  | ushl (st : BitVec 2) (d a b : BitVec 6) (m : BitVec 4)
  /-- USHR (R120). Shifts a uniform register right by type. -/
  | ushr (st : BitVec 2) (d a b : BitVec 6) (m : BitVec 4)
  /-- UMIN (R120). Writes the lesser of two uniform registers. -/
  | umin (st : BitVec 2) (d a b : BitVec 6) (m : BitVec 4)
  /-- UMAX (R120). Writes the greater of two uniform registers. -/
  | umax (st : BitVec 2) (d a b : BitVec 6) (m : BitVec 4)
  /-- UCMP (R121). Compares two uniform registers and writes a condition register. -/
  | ucmp (st : BitVec 2) (c : BitVec 3) (a b : BitVec 6) (m : BitVec 4)
  /-- USEL (R122). Selects one of two uniform registers by a condition register. -/
  | usel (st : BitVec 2) (d a b : BitVec 6) (c : BitVec 3)
  /-- UADDI (R123). Adds a sign-extended 10-bit immediate to a uniform register. -/
  | uaddi (st : BitVec 2) (d a : BitVec 6) (i : BitVec 10)
  /-- UANDI (R123). ANDs a uniform register with a sign-extended immediate. -/
  | uandi (st : BitVec 2) (d a : BitVec 6) (i : BitVec 10)
  /-- UCMPI (R124). Compares a uniform register with an immediate and writes a condition register. -/
  | ucmpi (st : BitVec 2) (c n : BitVec 3) (a : BitVec 6) (i : BitVec 10)
  /-- UMOVI (R125). Two-word move of a 32-bit immediate into a uniform register, zero- or sign-extended or into the high half. -/
  | umovi (st : BitVec 2) (d : BitVec 6) (h : BitVec 2) (imm : BitVec 32)
  /-- UUN (R126). Applies a unary integer sub-operation to a uniform register. -/
  | uun (st : BitVec 2) (d a u : BitVec 6) (m : BitVec 4)
  /-- CLOG (R127). Combines two condition registers through a truth table. -/
  | clog (st : BitVec 2) (c x y : BitVec 3) (t : BitVec 4)
  /-- ULD (R305). Loads global memory once for the group into a uniform register. -/
  | uld (st : BitVec 2) (d a : BitVec 6) (t w : BitVec 3) (q : BitVec 2) (x : BitVec 1)
  /-- UST (R305). Stores a uniform register to global memory once for the group. -/
  | ust (st : BitVec 2) (d a : BitVec 6) (t w : BitVec 3) (q : BitVec 2) (x : BitVec 1)
  /-- UATOM (R309). Performs one atomic or CAS for the group at a virtual address held in a uniform register. -/
  | uatom (st : BitVec 2) (d a : BitVec 6) (o : BitVec 4) (e c : BitVec 2) (k z : BitVec 1)
  /-- BRA (R193). Branches the issuing fragment unconditionally. -/
  | bra (st : BitVec 2) (f : BitVec 18)
  /-- BRC (R193). Branches the fragment on a condition register, optionally negated. -/
  | brc (st : BitVec 2) (c : BitVec 3) (n : BitVec 1) (f : BitVec 18)
  /-- BRP (R193). Branches on a per-lane predicate, splitting the fragment when lanes disagree. -/
  | brp (st : BitVec 2) (p : BitVec 3) (n : BitVec 1) (f : BitVec 18)
  /-- BRX (R193). Branches to a byte address held in a uniform register. -/
  | brx (st : BitVec 2) (a : BitVec 6)
  /-- CALL (R193). Writes the return address to S62 and branches. -/
  | call (st : BitVec 2) (f : BitVec 18)
  /-- RET (R193). Branches to the address in S62. -/
  | ret (st : BitVec 2)
  /-- EXIT (R196). Removes the fragment's lanes from the group, draining when the last lane exits. -/
  | exit (st : BitVec 2)
  /-- YIELD (R197). Resets the group's ready time to the next clock. -/
  | yield (st : BitVec 2)
  /-- NOP (R195). Has no effect beyond its stall count. -/
  | nop (st : BitVec 2)
  /-- WAIT (R198). Holds the fragment until earlier operations of the named classes complete. -/
  | wait (st : BitVec 2) (k : BitVec 10)
  /-- SLEEP (R199). Holds the fragment for 16 times n clocks. -/
  | sleep (st : BitVec 2) (n : BitVec 10)
  /-- BPT (R200). Enters the handler as a breakpoint with its code, resuming after it. -/
  | bpt (st : BitVec 2) (k : BitVec 10)
  /-- TRAP (R325). Enters the handler as a software trap with its code. -/
  | trap (st : BitVec 2) (k : BitVec 10)
  /-- TRET (R326). Returns from handler mode after converging and checking TSTAT and TMASK. -/
  | tret (st : BitVec 2)
  /-- TFENCE (R327). Waits for every earlier operation, then delivers a held fault or an enabled ARITH. -/
  | tfence (st : BitVec 2)
  /-- MFENCE (R310). Orders the lanes' accesses as a full, acquire or release fence at a scope. -/
  | mfence (st k : BitVec 2) (c : BitVec 3)
  /-- RGROW (R202). Claims register file space to grow the group's allotment. -/
  | rgrow (st : BitVec 2) (n : BitVec 10)
  /-- RSHRINK (R202). Shrinks the group's allotment and returns registers to the pool. -/
  | rshrink (st : BitVec 2) (n : BitVec 10)
  /-- TRLD (R244). Loads a translation register from a base address and length. -/
  | trld (st : BitVec 2) (t : BitVec 3) (a b : BitVec 6)
  /-- TRINV (R245). Privileged invalidation of translations of a context over a range, optionally draining pins. -/
  | trinv (st : BitVec 2) (a b : BitVec 6) (p : BitVec 1)
  /-- RDSR (R329). Reads a special register into a uniform register. -/
  | rdsr (st : BitVec 2) (d n : BitVec 6)
  /-- WRSR (R329). Writes a uniform register to a special register by its field map. -/
  | wrsr (st : BitVec 2) (n a : BitVec 6)
  /-- FLGS (R328). Reads FLAGS into a uniform register. -/
  | flgs (st : BitVec 2) (d : BitVec 6) (m : BitVec 5)
  /-- FLGS_CLR (R328). Reads FLAGS and clears the masked flags in one step. -/
  | flgsClr (st : BitVec 2) (d : BitVec 6) (m : BitVec 5)
  /-- FLGS_SET (R328). Reads FLAGS and sets the masked flags in one step. -/
  | flgsSet (st : BitVec 2) (d : BitVec 6) (m : BitVec 5)
  /-- BINIT (R216). Arms an Idle barrier with an arrival count. -/
  | binit (st : BitVec 2) (n : BitVec 6) (t : BitVec 1) (k : BitVec 15)
  /-- BARV (R217). Arrives at a barrier with k arrivals after earlier accesses are performed, returning the phase. -/
  | barv (st : BitVec 2) (n : BitVec 6) (t : BitVec 1) (d : BitVec 6) (k : BitVec 9)
  /-- BEXP (R218). Adds a register count of expected bytes to a barrier's PEND. -/
  | bexp (st : BitVec 2) (n : BitVec 6) (t : BitVec 1) (a : BitVec 6)
  /-- BEXP_IMM (R218). Adds an immediate count of expected bytes to a barrier's PEND. -/
  | bexpImm (st : BitVec 2) (n : BitVec 6) (t : BitVec 1) (i : BitVec 14)
  /-- BWAIT (R219). Branches when a barrier phase is done, or waits on the barrier. -/
  | bwait (st : BitVec 2) (n : BitVec 6) (t : BitVec 1) (a : BitVec 6) (f : BitVec 9)
  /-- BTRY (R220). Writes whether a barrier phase is done to a condition register without waiting. -/
  | btry (st : BitVec 2) (n : BitVec 6) (t : BitVec 1) (a : BitVec 6) (c : BitVec 3)
  /-- BINV (R221). Returns a barrier to Idle when no fragment waits and no engine operation names it. -/
  | binv (st : BitVec 2) (n : BitVec 6) (t : BitVec 1)
  /-- TCOPY (R227). Starts an engine copy of a tensor box from global to team memory. -/
  | tcopy (st : BitVec 2) (c : BitVec 3) (n : BitVec 1) (e d : BitVec 6)
  /-- TSTO (R227). Starts an engine store of a team-memory box to a global tensor. -/
  | tsto (st : BitVec 2) (c : BitVec 3) (n : BitVec 1) (e d : BitVec 6)
  /-- TPREF (R226). Prefetches a tensor box's lines into their VC without faults. -/
  | tpref (st : BitVec 2) (c : BitVec 3) (n : BitVec 1) (e : BitVec 6)
  /-- MMAP (R177). Drives a core pair's arrays to accumulate a 128 by 256 product from team memory, with an optional epilogue. -/
  | mmap (st : BitVec 2) (c : BitVec 3) (n : BitVec 1) (e : BitVec 6) (b : BitVec 1) (p : BitVec 2) (l z : BitVec 1) (y : BitVec 3)
  /-- MMSC (R172). Sets the group's MMA scale base registers. -/
  | mmsc (st : BitVec 2) (a b : BitVec 6)
  /-- TZERO (R183). Zeroes a run of tiles. -/
  | tzero (st : BitVec 2) (t n : BitVec 5)
  /-- TEPI (R184). Converts a tile through an epilogue and writes it to team memory. -/
  | tepi (st : BitVec 2) (t : BitVec 5) (e : BitVec 6) (f : BitVec 3) (p : BitVec 2) (a : BitVec 1)
  /-- CHAIN (R155). Issues the following 2 to 8 link words as one fused online expression. -/
  | chain (st : BitVec 2) (l : BitVec 3) (k : BitVec 8)
  /-- PUT (R398). Copies local bytes to a fabric address on another island. -/
  | put (st : BitVec 2) (d : BitVec 6) (b : BitVec 4)
  /-- GET (R398). Copies bytes from a fabric address into local memory. -/
  | get (st : BitVec 2) (d : BitVec 6) (b : BitVec 4)
  /-- RATOM (R398). Performs a relaxed atomic at a remote home and returns the old value. -/
  | ratom (st : BitVec 2) (d : BitVec 6) (b : BitVec 4) (e : BitVec 6) (o : BitVec 4) (z : BitVec 1)
  /-- NOTIFY (R398). Adds to a notify counter on a destination island. -/
  | notify (st : BitVec 2) (d : BitVec 6) (b : BitVec 4)
  /-- WAITN (R409). Branches when a notify counter meets a condition, or waits on it. -/
  | waitn (st : BitVec 2) (c v : BitVec 6) (f : BitVec 10)
  /-- RFENCE (R410). Waits for every earlier remote operation and delivers a held remote fault. -/
  | rfence (st : BitVec 2)
  /-- COLL (R416). Starts a collective bucket on this island from memory to memory. -/
  | coll (st : BitVec 2) (d a : BitVec 6)
  /-- COLW (R417). Starts a collective bucket bound to the group's feed stream. -/
  | colw (st : BitVec 2) (d a : BitVec 6)
  /-- QPUSH (R372). Appends a 64-byte packet to a device-fed queue. -/
  | qpush (st : BitVec 2) (d a b : BitVec 6)
  /-- PFENCE (R387). Privileged fence of an optical port, waiting for its requests to drain. -/
  | pfence (st : BitVec 2) (d a : BitVec 6)
  /-- PFENCE_REL (R387). Lifts the fence of an optical port, to Up or Training. -/
  | pfenceRel (st : BitVec 2) (d a : BitVec 6)
  /-- VCDEF (R264). Privileged definition of a virtual cache from its CDR. -/
  | vcdef (st : BitVec 2) (d a : BitVec 6)
  /-- VCRSZ (R264). Privileged resize of a virtual cache to a new deckle. -/
  | vcrsz (st : BitVec 2) (d a : BitVec 6)
  /-- VCRET (R265). Privileged retirement of a virtual cache, draining its lines. -/
  | vcret (st : BitVec 2) (d a : BitVec 6)
  /-- VCQ (R271). Returns a VC's state word or its resize counts. -/
  | vcq (st : BitVec 2) (d a : BitVec 6)
  /-- VCWB (R272). Writes back dirty lines of a virtual range, keeping them clean. -/
  | vcwb (st : BitVec 2) (a b c : BitVec 6) (x : BitVec 1)
  /-- VCINV (R272). Writes back and drops the lines of a virtual range from every L1 and VC. -/
  | vcinv (st : BitVec 2) (a b c : BitVec 6) (x : BitVec 1)
  /-- MONR (R429). Reads one field of a monitor. -/
  | monr (st : BitVec 2) (d n : BitVec 6) (f : BitVec 5)
  /-- MONC_CFG (R428). Configures a monitor's source, base and shift, sets its owner and clears it. -/
  | moncCfg (st : BitVec 2) (n a : BitVec 6)
  /-- MONC_CLR (R428). Clears a monitor. -/
  | moncClr (st : BitVec 2) (n : BitVec 6)
  /-- MONC_REL (R428). Releases a monitor, setting its source free. -/
  | moncRel (st : BitVec 2) (n : BitVec 6)
  /-- ROUTE_MAP_INVALIDATE (R380). The topology master writes VALID 0 for a quarantined island in every other island's route map. -/
  | routeMapInvalidate (island : Nat)
  /-- CONTEXT_STATE_PROPAGATE (R317). A context entering Faulted or Terminated on one island enters the same state on its other islands. -/
  | contextStatePropagate
  /-- STALL_COUNT_EXPIRY (R45). A pending stall count runs out and the group may issue again. -/
  | stallCountExpiry (grp : Nat)
  /-- SLEEP_EXPIRY (R199). A SLEEP delay runs out and its fragment's hold ends. -/
  | sleepExpiry (grp frag : Nat)
  /-- WAIT_HOLD_END (R198). The operations a WAIT names complete and its fragment proceeds. -/
  | waitHoldEnd (grp frag : Nat)
  /-- MFENCE_HOLD_END (R310). The accesses an MFENCE waits for are performed or returned and its fragment proceeds. -/
  | mfenceHoldEnd (grp frag : Nat)
  /-- RGROW_CLAIM_SERVED (R203). A waiting register claim is served from the pool in age order. -/
  | rgrowClaimServed (island core : Nat)
  /-- CLAIM_DEADLOCK (R204). After 64 idle clocks with unservable claims, the core spills groups until the oldest claim is served. -/
  | claimDeadlock (island core : Nat)
  /-- TRAP_ENTRY (R322). A fault or software trap enters the handler after the group's chains and MMAP retire. -/
  | trapEntry (grp : Nat)
  /-- EXIT_DRAIN_END (R196). The group's last issued operations complete after its last lane exits and it becomes Exited. -/
  | exitDrainEnd (grp : Nat)
  /-- CHAIN_RETIRE (R157). A chain finishes in every lane and commits its writes, flags and cut count at once. -/
  | chainRetire (grp frag : Nat)
  /-- MMA_RETIRE (R173). An MMA's tiles are written and its flags added. -/
  | mmaRetire (grp op : Nat)
  /-- MMAP_BLOCK_COMPLETE (R177). One K block of an MMAP is accumulated into the 32 tiles. -/
  | mmapBlockComplete (grp : Nat)
  /-- MMAP_RETIRE (R179). An MMAP finishes its last block and epilogue, clears PROG and adds its flags and cuts. -/
  | mmapRetire (grp : Nat)
  /-- BARV_ARRIVAL (R217). A BARV's arrival reaches the barrier once its group's earlier accesses are performed. -/
  | barvArrival (grp frag : Nat)
  /-- ENGINE_LANDING (R227). A TCOPY or TSTO lands, releasing locks, counting bytes at its barrier and writing its status. -/
  | engineLanding (island op : Nat)
  /-- ACP16_LANDING (R229). An ACP16's last lane copy is written and its bytes are counted at the barrier. -/
  | acp16Landing (island op : Nat)
  /-- BARRIER_TIMEOUT (R233). A barrier's TIMER reaches the time-out and the barrier enters TimedOut. -/
  | barrierTimeout (tm key : Nat)
  /-- FAULT_RECORD_ENQUEUE (R249). A record waiting for room enters the fault record ring and interrupts the management core. -/
  | faultRecordEnqueue (island : Nat)
  /-- VC_CLAIM_DRAINED (R262). A Defined VC's claimed banks are drained by VC 0 and it becomes Active. -/
  | vcClaimDrained (island vn : Nat)
  /-- VC_SWEEP_LINE (R266). The resize sweep moves a line from the old map into the new, or writes it back and drops it. -/
  | vcSweepLine (island vn : Nat)
  /-- VC_RESIZE_END (R262). The old map empties and the VC becomes Active or Failed with its new deckle. -/
  | vcResizeEnd (island vn : Nat)
  /-- VC_DRAIN_START (R265). A retiring VC's drain begins once every earlier access and engine operation through it is done. -/
  | vcDrainStart (island vn : Nat)
  /-- VC_DRAIN_END (R265). A draining VC holds no line and becomes Retired, returning its banks to VC 0. -/
  | vcDrainEnd (island vn : Nat)
  /-- LOAD_RETURN (R300). A load or value-returning atomic writes its destination. -/
  | loadReturn (grp op : Nat)
  /-- STORE_PERFORMED (R290). A store is performed at its scope once every invalidation is acknowledged. -/
  | storePerformed (grp op : Nat)
  /-- HOME_OWNERSHIP_REQUEST (R291). Ownership requests reaching a home are ordered by the rotating pointer and handed over. -/
  | homeOwnershipRequest (island slice sector : Nat) (cores : List Nat)
  /-- PROTECTION_REFUSAL (R331). A request refused after its issuer's checks freezes its master and writes a KIND 3 record. -/
  | protectionRefusal (island agent mk home ctx core slot : Nat) (pc mask : DWord)
  /-- PLACE (R319). Copies a context's descriptor and reserves its quads. -/
  | place (island ctx : Nat)
  /-- HALT (R333). Halts a context's partition, waiting for issued instructions to complete or stop. -/
  | halt (island ctx : Nat)
  /-- HALT_COMPLETE (R334). The halted image moves to the shadow reservation (Parked) or to HBM (Saved). -/
  | haltComplete (island ctx : Nat)
  /-- SAVE (R334). Writes a Parked image to HBM and frees the reservation. -/
  | save (island ctx : Nat)
  /-- RESUME (R334). Returns a Parked image to the same cores. -/
  | resume (island ctx : Nat)
  /-- RESTORE (R338). Checks a saved image against the descriptor and begins placing it on the partition. -/
  | restore (island ctx : Nat)
  /-- RESTORE_COMPLETE (R339). The restored image is running or resident and BUSY falls. -/
  | restoreComplete (island ctx : Nat)
  /-- TERMINATE (R332). Terminates a context, exiting its groups and freeing its tiles and barriers. -/
  | terminate (island ctx : Nat)
  /-- RELEASE (R316). Restarts a context Faulted by a freeze or HEARTBEAT on the same cores. -/
  | release (island ctx : Nat)
  /-- UNPLACE (R316). Frees a Resident context's quads. -/
  | unplace (island ctx : Nat)
  /-- PROGRESS_BEAT (R340). Each BEATP interval a core beats if it held no group or made legitimate progress. -/
  | progressBeat (island core : Nat)
  /-- HEARTBEAT (R341). A core missing two beats is halted and its context enters Faulted. -/
  | heartbeat (island core : Nat)
  /-- TEAM_PLACEMENT (R349). The next team of a waiting grid is placed when a place fits and budgets allow. -/
  | teamPlacement (island ctx : Nat)
  /-- CREATE (R357). Checks QBASE and QCFG and creates the queue. -/
  | create (queue : Nat) (base cfg : DWord)
  /-- ENABLE (R357). Enables a created or disabled queue. -/
  | enable (queue : Nat)
  /-- DRAIN (R357). Stops a queue reading and starting packets. -/
  | drain (queue : Nat)
  /-- RESET (R357). Moves a queue in Error to Disabled past its failed packet. -/
  | reset (queue : Nat)
  /-- DESTROY (R357). Frees a created or disabled queue number. -/
  | destroy (queue : Nat)
  /-- QTAIL_WRITE (R356). A host write of QTAIL publishes packets or sends the queue to Error. -/
  | qtailWrite (queue : Nat) (val : Word)
  /-- QUEUE_PACKET_READ (R358). The command processor reads and accepts the next packet of a chosen queue. -/
  | queuePacketRead
  /-- LAUNCH (R362). Writes arguments and begins one grid per named island. -/
  | launch (queue : Nat)
  /-- WAIT_PACKET (R363). Blocks the queue until a counter meets a condition. -/
  | waitPacket (queue : Nat)
  /-- WAIT_PACKET_TIMEOUT (R363). An unmet WAIT packet fails after its time-out. -/
  | waitPacketTimeout (queue : Nat)
  /-- SIGNAL (R364). Adds to a notify counter as a panel-scope release. -/
  | signal (queue : Nat)
  /-- COPY (R365). Copies bytes between host and fabric addresses. -/
  | copy (queue : Nat)
  /-- VCDEF_PACKET (R366). Applies VCDEF, VCRSZ or VCRET on an island from a privileged queue. -/
  | vcdefPacket (queue : Nat)
  /-- ORDER (R367). Starts when every earlier packet of the queue is complete. -/
  | order (queue : Nat)
  /-- STAMP (R368). Reads panel time into a monitor and optionally writes it to memory. -/
  | stamp (queue : Nat)
  /-- PACKET_COMPLETE (R361). A packet completes and increments its completion counter as a release. -/
  | packetComplete (pkt : Nat)
  /-- LINK_TRAINING_COMPLETE (R374). Both ends agree and the link becomes Up with SEQ and ACK at zero. -/
  | linkTrainingComplete (island port : Nat) (ints cas floats : Bool) (inner : Nat)
  /-- LINK_TRAINING_TIMEOUT (R374). Training does not complete within 1 ms, or keys or waveguides fail, and the link becomes Failed. -/
  | linkTrainingTimeout (island port : Nat)
  /-- LINK_RETRAINING_TRIGGER (R377). Loss of lock, repeated replays or many discards pause the link into Retraining. -/
  | linkRetrainingTrigger (island : Nat) (trigger : LinkTrigger)
  /-- LINK_RELOCK (R374). Both ends relock within 20 µs and the link replays from the oldest unacknowledged flit. -/
  | linkRelock (island port : Nat)
  /-- LINK_RETRAINING_TIMEOUT (R374). The 20 µs retraining bound passes and the link becomes Failed. -/
  | linkRetrainingTimeout (island port : Nat)
  /-- LINK_RETRY_TIMER (R374). 1 ms after failing, a port tries training again. -/
  | linkRetryTimer (island port : Nat)
  /-- FLIT_IDLE (R375). An idle flit is received and its ACK accepted. -/
  | flitIdle (island port : Nat) (flit : List Byte)
  /-- FLIT_REQUEST (R376). A request flit is checked and accepted in SEQ order or discarded. -/
  | flitRequest (island port : Nat) (flit : List Byte) (pkt : Option RemotePacket)
  /-- FLIT_RESPONSE (R376). A response flit is checked and accepted in SEQ order or discarded. -/
  | flitResponse (island port : Nat) (flit : List Byte) (pkt : Option RemotePacket)
  /-- FLIT_NAK (R376). A NAK makes the sender replay every buffered flit after the named SEQ. -/
  | flitNak (island port : Nat) (flit : List Byte)
  /-- FLIT_KEY_CONTROL (R389). A key-control flit carries a key exchange message or RETIRE. -/
  | flitKeyControl (island port : Nat) (flit : List Byte) (msg : KeyMsg)
  /-- ROUTER_PACKET (R382). A router forwards, delivers or drops a packet by its routing header and route entry. -/
  | routerPacket (island k : Nat)
  /-- ROUTE_FAILURE_NOTICE (R378). A requester receiving a route-failure notice reissues the operation. -/
  | routeFailureNotice (island op part : Nat)
  /-- ROUTE_ERROR_NOTICE (R402). A route-error notice fails the operation with REMOTE 0x18. -/
  | routeErrorNotice (island op : Nat)
  /-- REPLACEMENT_ROUTE (R381). The topology master writes a replacement route into a pool entry and renames the cell. -/
  | replacementRoute (src dst entry : Nat) (hops : List Nat) (alt : Bool)
  /-- ROUTE_ENTRY_REUSE (R381). An entry unnamed for 100 µs returns to the pool. -/
  | routeEntryReuse (entry : Nat)
  /-- KEY_ROLLOVER_START (R391). A slot's TXC reaching 2^32, ten minutes, or a command starts a key exchange into the empty slot. -/
  | keyRolloverStart (island port : Nat) (command : Bool)
  /-- KEY_EXCHANGE_RETRY (R391). A failed rollover exchange is retried after 1 s. -/
  | keyExchangeRetry (island port : Nat)
  /-- ROLLOVER_RETIRE (R391). When no old-slot flit remains buffered, the sender sends RETIRE and both ends erase the old slot. -/
  | rolloverRetire (island port : Nat)
  /-- KEY_SLOT_EXHAUSTED (R391). A slot's TXC reaching 2^36 sends the edge link to Failed. -/
  | keySlotExhausted (island port : Nat)
  /-- XCELL_COMPLETE (R386). A cell write finishes and XCST BUSY falls with its status and wear. -/
  | xcellComplete (island : Nat)
  /-- PFENCE_DRAIN_END (R387). A fenced port drains or 100 µs pass and PFENCE writes its status. -/
  | pfenceDrainEnd (grp frag : Nat)
  /-- REMOTE_PACKET_AT_HOME (R403). A remote packet is performed at the destination, filtered for duplicates and checked there. -/
  | remotePacketAtHome (island : Nat)
  /-- REMOTE_ACK (R399). An acknowledgement releases locks, writes S[d] and increments LCTR. -/
  | remoteAck (island : Nat)
  /-- REMOTE_TIMEOUT (R402). No acknowledgement 50 µs after a send reissues the operation or fails it after four sends. -/
  | remoteTimeout (island op : Nat)
  /-- RFENCE_HOLD_END (R410). Every earlier remote operation is acknowledged or failed and RFENCE proceeds or delivers a fault. -/
  | rfenceHoldEnd (grp frag : Nat)
  /-- WAITN_TIMEOUT (R409). A WAITN waiting the barrier time-out takes REMOTE 0x1A. -/
  | waitnTimeout (grp frag : Nat)
  /-- BUCKET_MESSAGE (R415). A collective message matched by context and bid is combined in the tree. -/
  | bucketMessage (island : Nat)
  /-- BUCKET_COMPLETE (R414). An island writes dst, its watermark record and increments nctr. -/
  | bucketComplete (island bucket : Nat)
  /-- BUCKET_FAILURE (R415). A bucket fails on an island, notifies neighbours and writes a failed watermark. -/
  | bucketFailure (island bucket status : Nat)
  /-- BUCKET_TIMEOUT (R415). A bucket not complete within the barrier time-out fails with 0x1C. -/
  | bucketTimeout (island bucket : Nat)
  /-- SPECIAL_FUNCTION_ENTRY_TAKEN (R148). The special-function engine takes a Q0 entry when Q1 has room for its result. -/
  | specialFunctionEntryTaken (grp win : Nat)
  /-- SPECIAL_FUNCTION_RESULT (R146). The engine places a correctly rounded result entry in the pushing window's Q1. -/
  | specialFunctionResult (grp win : Nat)
  /-- FEED_TIMEOUT (R148). A wait on full Q2 or empty Q3 reaches the barrier time-out and takes FEED 0x04. -/
  | feedTimeout (grp frag : Nat)
  /-- SELF_CHECK_DONE (R422). The failing die is held in reset and the other continues from the last compared state. -/
  | selfCheckDone (ok0 ok1 : Bool)
  /-- MONITOR_PERIODIC_SAMPLE (R426). A periodic source takes its sample each µs or each 10 µs. -/
  | monitorPeriodicSample (island src : Nat)
  /-- TILE_MOVE_RETIRE (R169). A TLD, TST or TEPI finishes moving a tile's data and retires, ending the tile's Draining state or its write. -/
  | tileMoveRetire (grp op : Nat)
  /-- TPREF_LANDING (R236). A TPREF's line fills into its VC are done and the operation has landed. -/
  | tprefLanding (grp op : Nat)
  /-- POWER_GOOD (R19). Power good starts the boot sequence run by the active panel control die. -/
  | powerGood (found : BootFindings)
  /-- ATTESTATION_REQUEST (R26). A nonce request through the attestation mailbox returns a signed report. -/
  | attestationRequest (nonce : List Byte)
  /-- CLAIM (R16). A CLAIM command enrols the first owner key while none is enrolled. -/
  | claim (key : List Byte)
  /-- OWNER_KEY_CHANGE (R16). An owner-signed command changes the owner key list. -/
  | ownerKeyChange (add : Bool) (key signer sig : List Byte)
  /-- PEER_KEY_ADD (R16). An owner-signed command enrols a peer panel key. -/
  | peerKeyAdd (key signer sig : List Byte)
  /-- PEER_KEY_REMOVE (R16). An owner-signed command removes a peer panel key. -/
  | peerKeyRemove (key signer sig : List Byte)
  /-- PANEL_NUMBER_CHANGE (R15). An owner-signed mailbox request changes the panel number in the field section. -/
  | panelNumberChange (number : Nat) (signer sig : List Byte)
  /-- FATAL_ISLAND_EVENT (R17). A fatal event quarantines an island, dropping it from routes and faulting its contexts. -/
  | fatalIslandEvent (island : Nat)
  /-- REGISTER_POISON (R209). An uncorrectable error in a register element marks it poisoned. -/
  | registerPoison (grp kind reg lane sub : Nat)
  /-- DIGIT_RESIDUE_MISMATCH (R162). A residue mismatch in a digit unit re-runs the chain, or raises UNCORR on the second. -/
  | digitResidueMismatch (grp frag : Nat)
  /-- ARRAY_RESIDUE_MISMATCH (R185). A matrix residue mismatch recomputes the block, or raises UNCORR on the second. -/
  | arrayResidueMismatch (grp op tile : Nat)
  /-- FRPLAY_REPLAY (R250). Unparks a fragment and reissues its instruction for its unfinished lanes. -/
  | frplayReplay (island token : Nat)
  /-- FRPLAY_HANDLER (R250). Unparks a fragment into the context's handler with PAGE. -/
  | frplayHandler (island token : Nat)
  /-- FRPLAY_TERMINATE (R250). Terminates the context of a parked fragment. -/
  | frplayTerminate (island token : Nat)
  /-- FRPLAY_NONE (R250). An FRPLAY write with action 0b11 is ignored. -/
  | frplayNone (island token : Nat)
  /-- BANK_FAILURE (R268). A failing bank is recorded, its lines dealt with and its shares removed from the VC. -/
  | bankFailure (island bank : Nat) (lost : List Nat)
  /-- HBM_UNCORRECTABLE_ERROR (R311). An uncorrectable HBM error poisons its 64-byte sector. -/
  | hbmUncorrectableError (island sector : Nat)
  /-- HOST_CXL_MEM_ACCESS (R393). A host CXL.mem access to device memory is served from whatever VC holds the line or from HBM. -/
  | hostCxlMemAccess (port off : Nat) (write : Option (List Byte))
  /-- HOST_BACK_INVALIDATION (R294). A back-invalidation makes one device sector host-shared or host-owned. -/
  | hostBackInvalidation (island sector : Nat) (owned : Bool)
  /-- HOST_CXL_CACHE_SNOOP (R294). A host snoop acts on one cached sector of host memory. -/
  | hostCxlCacheSnoop (island sector : Nat) (take : Option (Nat × List Byte))
  /-- BEATP_WRITE (R318). A write of BEATP sets the beat period, or 100 µs when out of range. -/
  | beatpWrite (island : Nat) (val : DWord)
  /-- XCELL_SET (R386). Sets a switch cell, remapping a worn row first. -/
  | xcellSet (island row col : Nat)
  /-- XCELL_RESET (R386). Resets a switch cell unless it would cut an undrained port. -/
  | xcellReset (island row col : Nat)
  /-- HPCTL_WRITE (R395). Control-die firmware clears FROZEN to release a host port function. -/
  | hpctlWrite (port : Nat)
  /-- NCVAL_WRITE (R408). Replaces the selected counter's value and releases satisfied waiters. -/
  | ncvalWrite (island : Nat) (val : DWord)
  /-- UNCORRECTABLE_ERROR (R420). An uncorrectable error is contained to a context or faults the island's contexts or the island. -/
  | uncorrectableError (island : Nat) (struck : Struck)
  /-- TEAM_MEMORY_ERROR (R421). An uncorrectable error in team memory or a tile zeroes its word and holds UNCORR 0x05. -/
  | teamMemoryError (team : Nat) (tile : Option Nat) (word : Nat) (scrub : Bool)
  /-- LOCKSTEP_MISMATCH (R422). A mismatch between control dies stops the command processor for a self-check. -/
  | lockstepMismatch
  /-- POWER_THROTTLE (R424). Power above PWRLIM or temperature above 105 °C lowers the core clock one step. -/
  | powerThrottle (island : Nat)
  /-- CLOCK_RECOVERY_STEP (R424). The core clock rises one step, at most per 100 µs. -/
  | clockRecoveryStep (island : Nat)
  /-- OVER_TEMPERATURE (R424). Reaching 115 °C quarantines the island. -/
  | overTemperature (island : Nat)
  /-- PWRLIM_WRITE (R424). Sets the island power limit, or 1,050 W when out of range. -/
  | pwrlimWrite (island : Nat) (val : DWord)
  /-- PANEL_MONITOR_CFG_WRITE (R427). A host write of a panel bank CFG sets its source and clears it. -/
  | panelMonitorCfgWrite (mon : Nat) (val : DWord)
  /-- PANEL_MONITOR_CLR_WRITE (R427). A host write of 1 to CLR clears a panel bank monitor. -/
  | panelMonitorClrWrite (mon : Nat)
  /-- SYSTEM_REGISTER_WRITE (R33). A write to a register with no behaviour of its own stores its writable fields. -/
  | systemRegisterWrite (island num : Nat) (val : DWord)
  /-- ORDERLY_SHUTDOWN (R385). At orderly shutdown the switch-cell wear counters are written to the field section. -/
  | orderlyShutdown
  /-- HOST_PORT_LINK_CHANGE (R393). A host port's CXL link goes down or comes up, changing which ports carry host memory requests. -/
  | hostPortLinkChange (port : Nat) (up : Bool)
deriving DecidableEq, Repr, Inhabited

end Sys2Proof
end

