-- ==== Sys2Proof/WellFormed.lean ====
section
/-! DEFINITION. Which instructions are well formed: the codes and fields that R63 and the entries accept. -/

namespace Sys2Proof

/-- The conversions of R138: DST t and SRC u. -/
def cvtPair (t u : Nat) : Bool := t ≠ 7 && u ≠ 7 && (if u < 7 then t ≠ u else t < 7)

/-- The size, request, scope and SC fields of a lane atomic (R52). -/
def atomForm (w q scope sc : Nat) : Bool :=
  (w = 2 || w = 3) && (q = 0 || q = 3) && scope ≤ 4 && (sc = 0 || scope = 3)

/-- The register counts RGROW and RSHRINK accept (R201). -/
def regCount (n : Nat) : Bool := n ≠ 0 && n % 8 = 0 && n ≤ 128

/-- The special-register numbers below 0x20 that are assigned, and the system range (R33). -/
def specialNumber (n : Nat) : Bool := n ≤ 10 || (16 ≤ n && n ≤ 21) || 32 ≤ n

/-- The encoding check of R63 beyond reserved fields and opcodes, which the decoder checks. -/
def wellFormed (i : Instr) : Bool :=
  match i with
  | .icmp _ _ c _ _ _ => c.toNat ≤ 5
  | .iun _ _ _ u m => u.toNat ≤ 8 && (u.toNat ≠ 0 || m.toNat % 2 = 0)
  | .icmpi _ _ c _ _ => c.toNat ≤ 5 || (8 ≤ c.toNat && c.toNat ≤ 13)
  | .vote _ _ c _ => c.toNat ≤ 2
  | .redux _ _ _ b _ => b.toNat ≤ 5
  | .fcmp _ _ c _ _ m => c.toNat ≤ 12 && (m.toNat = 0 || m.toNat = 3)
  | .funOp _ _ _ u _ => u.toNat ≤ 9
  | .cvt _ _ _ t u _ => cvtPair t.toNat u.toNat
  | .feedw _ q _ b m => if q.toNat = 0 then b.toNat ≤ 6 && m.toNat ≠ 3 else b.toNat = 0
  | .ld _ _ _ _ w _ _ => w.toNat ≠ 7
  | .st _ _ _ _ w _ _ => w.toNat ≤ 4
  | .ldt _ _ _ w _ => w.toNat ≠ 7
  | .stt _ _ _ w _ => w.toNat ≤ 4
  | .atom _ _ _ _ w q _ _ aop _ scope sc => atomForm w.toNat q.toNat scope.toNat sc.toNat && aop.toNat ≤ 13
  | .acas _ _ _ _ w q _ _ _ _ scope sc => atomForm w.toNat q.toNat scope.toNat sc.toNat
  | .atomt _ _ _ w _ _ aop _ scope sc => atomForm w.toNat 0 scope.toNat sc.toNat && scope.toNat ≤ 1 && aop.toNat ≤ 13
  | .prf _ _ _ w _ _ => w.toNat ≤ 4
  | .lda _ _ _ _ w _ _ => w.toNat ≠ 7
  | .sta _ _ _ _ w _ _ => w.toNat ≤ 4
  | .mma _ _ _ _ y _ _ _ => y.toNat ≠ 7
  | .uadd _ _ _ _ m => m.toNat ≤ 3
  | .usub _ _ _ _ m => m.toNat ≤ 3
  | .umul _ _ _ _ m => m.toNat ≤ 3
  | .umulh _ _ _ _ m => m.toNat ≤ 3
  | .uand _ _ _ _ m => m.toNat ≤ 3
  | .uor _ _ _ _ m => m.toNat ≤ 3
  | .uxor _ _ _ _ m => m.toNat ≤ 3
  | .ushl _ _ _ _ m => m.toNat ≤ 3
  | .ushr _ _ _ _ m => m.toNat ≤ 3
  | .umin _ _ _ _ m => m.toNat ≤ 3
  | .umax _ _ _ _ m => m.toNat ≤ 3
  | .ucmp _ _ _ _ m => m.toNat ≤ 5 || (8 ≤ m.toNat && m.toNat ≤ 13)
  | .umovi _ _ h _ => h.toNat ≠ 3
  | .uun _ _ _ u m => u.toNat ≤ 8 && m.toNat ≤ 3 && (u.toNat ≠ 0 || m.toNat % 2 = 0)
  | .uld _ _ _ _ w _ _ => w.toNat ≠ 7
  | .ust _ _ _ _ w _ _ => w.toNat ≤ 4
  | .uatom _ _ _ o _ c k _ => o.toNat ≠ 15 && (k.toNat = 0 || c.toNat = 2)
  | .wait _ k => k.toNat < 64
  | .mfence _ k c => k.toNat ≠ 3 && c.toNat ≤ 4
  | .rgrow _ n => regCount n.toNat
  | .rshrink _ n => regCount n.toNat
  | .rdsr _ _ n => specialNumber n.toNat
  | .wrsr _ n _ => specialNumber n.toNat
  | .binit _ _ _ k => k.toNat ≠ 0
  | .mmap _ _ _ _ _ p l _ y => y.toNat ≠ 7 && (p.toNat = 0 || (l.toNat = 1 && y.toNat ≠ 4))
  | .tepi _ _ _ f p a => f.toNat ≤ 5 && (f.toNat ≠ 5 || (p.toNat = 0 && a.toNat = 0))
  | .chain _ l k => l.toNat ≠ 0 && k.toNat < 2 ^ (l.toNat + 1)
  | .ratom _ _ _ e o _ => o.toNat ≠ 15 && (o.toNat = 14 || e.toNat = 0)
  | .vcwb _ _ _ c x => x.toNat = 1 || c.toNat = 0
  | .vcinv _ _ _ c x => x.toNat = 1 || c.toNat = 0
  | .monr _ _ _ f => f.toNat ≤ 4 || (8 ≤ f.toNat && f.toNat ≤ 23)
  | .iadd .. | .isub .. | .imul .. | .imulh .. | .imad .. | .imin .. | .imax .. | .iaddsat .. | .and .. | .or .. 
  | .xor .. | .andn .. | .shl .. | .shr .. | .iaddi .. | .andi .. | .ori .. | .xori .. | .shli .. | .shri .. 
  | .movl .. | .movh .. | .sel .. | .shfl .. | .shfli .. | .lanev .. | .plog .. | .voteBallot .. | .fadd .. | .fsub .. 
  | .fmul .. | .fma .. | .fmin .. | .fmax .. | .fdiv .. | .fscl .. | .bqnt .. | .bdq .. | .feedr .. | .acp16 .. 
  | .tld .. | .tst .. | .usel .. | .uaddi .. | .uandi .. | .ucmpi .. | .clog .. | .bra .. | .brc .. | .brp .. 
  | .brx .. | .call .. | .ret .. | .exit .. | .yield .. | .nop .. | .sleep .. | .bpt .. | .trap .. | .tret .. 
  | .tfence .. | .trld .. | .trinv .. | .flgs .. | .flgsClr .. | .flgsSet .. | .barv .. | .bexp .. | .bexpImm .. 
  | .bwait .. | .btry .. | .binv .. | .tcopy .. | .tsto .. | .tpref .. | .mmsc .. | .tzero .. | .put .. | .get .. 
  | .notify .. | .waitn .. | .rfence .. | .coll .. | .colw .. | .qpush .. | .pfence .. | .pfenceRel .. | .vcdef .. 
  | .vcrsz .. | .vcret .. | .vcq .. | .moncCfg .. | .moncClr .. | .moncRel .. | .powerGood .. | .attestationRequest .. 
  | .claim .. | .ownerKeyChange .. | .peerKeyAdd .. | .peerKeyRemove .. | .panelNumberChange .. | .fatalIslandEvent .. 
  | .routeMapInvalidate .. | .contextStatePropagate .. | .stallCountExpiry .. | .sleepExpiry .. | .waitHoldEnd .. 
  | .mfenceHoldEnd .. | .rgrowClaimServed .. | .claimDeadlock .. | .registerPoison .. | .trapEntry .. 
  | .exitDrainEnd .. | .chainRetire .. | .digitResidueMismatch .. | .mmaRetire .. | .mmapBlockComplete .. 
  | .mmapRetire .. | .arrayResidueMismatch .. | .barvArrival .. | .engineLanding .. | .acp16Landing .. 
  | .barrierTimeout .. | .faultRecordEnqueue .. | .frplayReplay .. | .frplayHandler .. | .frplayTerminate .. 
  | .frplayNone .. | .vcClaimDrained .. | .vcSweepLine .. | .vcResizeEnd .. | .vcDrainStart .. | .vcDrainEnd .. 
  | .bankFailure .. | .hbmUncorrectableError .. | .loadReturn .. | .storePerformed .. | .homeOwnershipRequest .. 
  | .hostCxlMemAccess .. | .hostBackInvalidation .. | .hostCxlCacheSnoop .. | .protectionRefusal .. | .place .. 
  | .halt .. | .haltComplete .. | .save .. | .resume .. | .restore .. | .restoreComplete .. | .terminate .. 
  | .release .. | .unplace .. | .progressBeat .. | .heartbeat .. | .beatpWrite .. | .teamPlacement .. | .create .. 
  | .enable .. | .drain .. | .reset .. | .destroy .. | .qtailWrite .. | .queuePacketRead .. | .launch .. 
  | .waitPacket .. | .waitPacketTimeout .. | .signal .. | .copy .. | .vcdefPacket .. | .order .. | .stamp .. 
  | .packetComplete .. | .linkTrainingComplete .. | .linkTrainingTimeout .. | .linkRetrainingTrigger .. 
  | .linkRelock .. | .linkRetrainingTimeout .. | .linkRetryTimer .. | .flitIdle .. | .flitRequest .. 
  | .flitResponse .. | .flitNak .. | .flitKeyControl .. | .routerPacket .. | .routeFailureNotice .. 
  | .routeErrorNotice .. | .replacementRoute .. | .routeEntryReuse .. | .keyRolloverStart .. | .keyExchangeRetry .. 
  | .rolloverRetire .. | .keySlotExhausted .. | .xcellSet .. | .xcellReset .. | .xcellComplete .. | .pfenceDrainEnd .. 
  | .hpctlWrite .. | .remotePacketAtHome .. | .remoteAck .. | .remoteTimeout .. | .rfenceHoldEnd .. | .waitnTimeout .. 
  | .ncvalWrite .. | .bucketMessage .. | .bucketComplete .. | .bucketFailure .. | .bucketTimeout .. 
  | .specialFunctionEntryTaken .. | .specialFunctionResult .. | .feedTimeout .. | .uncorrectableError .. 
  | .teamMemoryError .. | .lockstepMismatch .. | .selfCheckDone .. | .powerThrottle .. | .clockRecoveryStep .. 
  | .overTemperature .. | .pwrlimWrite .. | .monitorPeriodicSample .. | .panelMonitorCfgWrite .. 
  | .panelMonitorClrWrite .. | .systemRegisterWrite .. | .tileMoveRetire .. | .tprefLanding .. | .orderlyShutdown .. 
  | .hostPortLinkChange .. => true

/-- The instruction has words: it is one of the rows the decoder can answer. -/
def hasWords (i : Instr) : Bool :=
  match i with
  | .powerGood .. | .attestationRequest .. | .claim .. | .ownerKeyChange .. | .peerKeyAdd .. | .peerKeyRemove .. 
  | .panelNumberChange .. | .fatalIslandEvent .. | .routeMapInvalidate .. | .contextStatePropagate .. 
  | .stallCountExpiry .. | .sleepExpiry .. | .waitHoldEnd .. | .mfenceHoldEnd .. | .rgrowClaimServed .. 
  | .claimDeadlock .. | .registerPoison .. | .trapEntry .. | .exitDrainEnd .. | .chainRetire .. 
  | .digitResidueMismatch .. | .mmaRetire .. | .mmapBlockComplete .. | .mmapRetire .. | .arrayResidueMismatch .. 
  | .barvArrival .. | .engineLanding .. | .acp16Landing .. | .barrierTimeout .. | .faultRecordEnqueue .. 
  | .frplayReplay .. | .frplayHandler .. | .frplayTerminate .. | .frplayNone .. | .vcClaimDrained .. | .vcSweepLine .. 
  | .vcResizeEnd .. | .vcDrainStart .. | .vcDrainEnd .. | .bankFailure .. | .hbmUncorrectableError .. | .loadReturn .. 
  | .storePerformed .. | .homeOwnershipRequest .. | .hostCxlMemAccess .. | .hostBackInvalidation .. 
  | .hostCxlCacheSnoop .. | .protectionRefusal .. | .place .. | .halt .. | .haltComplete .. | .save .. | .resume .. 
  | .restore .. | .restoreComplete .. | .terminate .. | .release .. | .unplace .. | .progressBeat .. | .heartbeat .. 
  | .beatpWrite .. | .teamPlacement .. | .create .. | .enable .. | .drain .. | .reset .. | .destroy .. 
  | .qtailWrite .. | .queuePacketRead .. | .launch .. | .waitPacket .. | .waitPacketTimeout .. | .signal .. | .copy .. 
  | .vcdefPacket .. | .order .. | .stamp .. | .packetComplete .. | .linkTrainingComplete .. | .linkTrainingTimeout .. 
  | .linkRetrainingTrigger .. | .linkRelock .. | .linkRetrainingTimeout .. | .linkRetryTimer .. | .flitIdle .. 
  | .flitRequest .. | .flitResponse .. | .flitNak .. | .flitKeyControl .. | .routerPacket .. | .routeFailureNotice .. 
  | .routeErrorNotice .. | .replacementRoute .. | .routeEntryReuse .. | .keyRolloverStart .. | .keyExchangeRetry .. 
  | .rolloverRetire .. | .keySlotExhausted .. | .xcellSet .. | .xcellReset .. | .xcellComplete .. | .pfenceDrainEnd .. 
  | .hpctlWrite .. | .remotePacketAtHome .. | .remoteAck .. | .remoteTimeout .. | .rfenceHoldEnd .. | .waitnTimeout .. 
  | .ncvalWrite .. | .bucketMessage .. | .bucketComplete .. | .bucketFailure .. | .bucketTimeout .. 
  | .specialFunctionEntryTaken .. | .specialFunctionResult .. | .feedTimeout .. | .uncorrectableError .. 
  | .teamMemoryError .. | .lockstepMismatch .. | .selfCheckDone .. | .powerThrottle .. | .clockRecoveryStep .. 
  | .overTemperature .. | .pwrlimWrite .. | .monitorPeriodicSample .. | .panelMonitorCfgWrite .. 
  | .panelMonitorClrWrite .. | .systemRegisterWrite .. | .tileMoveRetire .. | .tprefLanding .. | .orderlyShutdown .. 
  | .hostPortLinkChange .. => false
  | .iadd .. | .isub .. | .imul .. | .imulh .. | .imad .. | .imin .. | .imax .. | .iaddsat .. | .and .. | .or .. 
  | .xor .. | .andn .. | .shl .. | .shr .. | .icmp .. | .iun .. | .iaddi .. | .andi .. | .ori .. | .xori .. | .shli .. 
  | .shri .. | .icmpi .. | .movl .. | .movh .. | .sel .. | .shfl .. | .shfli .. | .lanev .. | .plog .. | .vote .. 
  | .voteBallot .. | .redux .. | .fadd .. | .fsub .. | .fmul .. | .fma .. | .fmin .. | .fmax .. | .fdiv .. | .fcmp .. 
  | .funOp .. | .fscl .. | .cvt .. | .bqnt .. | .bdq .. | .feedw .. | .feedr .. | .ld .. | .st .. | .ldt .. | .stt .. 
  | .atom .. | .acas .. | .atomt .. | .acp16 .. | .prf .. | .lda .. | .sta .. | .mma .. | .tld .. | .tst .. | .uadd .. 
  | .usub .. | .umul .. | .umulh .. | .uand .. | .uor .. | .uxor .. | .ushl .. | .ushr .. | .umin .. | .umax .. 
  | .ucmp .. | .usel .. | .uaddi .. | .uandi .. | .ucmpi .. | .umovi .. | .uun .. | .clog .. | .uld .. | .ust .. 
  | .uatom .. | .bra .. | .brc .. | .brp .. | .brx .. | .call .. | .ret .. | .exit .. | .yield .. | .nop .. | .wait .. 
  | .sleep .. | .bpt .. | .trap .. | .tret .. | .tfence .. | .mfence .. | .rgrow .. | .rshrink .. | .trld .. 
  | .trinv .. | .rdsr .. | .wrsr .. | .flgs .. | .flgsClr .. | .flgsSet .. | .binit .. | .barv .. | .bexp .. 
  | .bexpImm .. | .bwait .. | .btry .. | .binv .. | .tcopy .. | .tsto .. | .tpref .. | .mmap .. | .mmsc .. | .tzero .. 
  | .tepi .. | .chain .. | .put .. | .get .. | .ratom .. | .notify .. | .waitn .. | .rfence .. | .coll .. | .colw .. 
  | .qpush .. | .pfence .. | .pfenceRel .. | .vcdef .. | .vcrsz .. | .vcret .. | .vcq .. | .vcwb .. | .vcinv .. 
  | .monr .. | .moncCfg .. | .moncClr .. | .moncRel .. => true

end Sys2Proof
end

