-- ==== Sys2Proof/Decode.lean ====
section
/-! DEFINITION. The decoder, total on any bytes (R44 to R63), and after it the encoder. -/

namespace Sys2Proof

/-- Bits hi down to lo of a number. -/
def bits (w hi lo : Nat) : Nat := w / 2 ^ lo % 2 ^ (hi + 1 - lo)

/-- The bit vector of n bits that the number x leaves. -/
abbrev bv (n x : Nat) : BitVec n := BitVec.ofNat n x

/-- Why bytes are not an instruction. -/
inductive Reject where
  /-- Fewer bytes than the instruction has. -/
  | truncated
  /-- An unassigned opcode (R63). -/
  | unassigned
  /-- A nonzero field that is reserved (R63). -/
  | reserved
  /-- A code the entry does not accept (R63). -/
  | code
  /-- A feed queue named in the wrong direction: an operand case, STATUS 0x01 (R64, R145, R147). -/
  | operand
deriving DecidableEq, Repr

/-- The instruction i when every listed field of w is zero. -/
def resv (w : Nat) (l : List (Nat × Nat)) (i : Instr) : Except Reject Instr :=
  if l.all fun p => bits w p.1 p.2 = 0 then .ok i else .error .reserved

/-- The operand case of R64, once the encoding check of the listed fields has passed. -/
def operandCase (w : Nat) (l : List (Nat × Nat)) : Except Reject Instr :=
  if l.all fun p => bits w p.1 p.2 = 0 then .error .operand else .error .reserved

/-- The lane opcode map (R53, R54, R56). -/
def decodeLane (w w2 : Nat) : Except Reject Instr :=
  match bits w 28 23 with
  | 0x0 => .ok (.iadd (bv 2 (bits w 30 29)) (bv 7 (bits w 22 16)) (bv 7 (bits w 15 9)) (bv 7 (bits w 8 2)) (bv 2 (bits w 1 0)))
  | 0x1 => .ok (.isub (bv 2 (bits w 30 29)) (bv 7 (bits w 22 16)) (bv 7 (bits w 15 9)) (bv 7 (bits w 8 2)) (bv 2 (bits w 1 0)))
  | 0x2 => .ok (.imul (bv 2 (bits w 30 29)) (bv 7 (bits w 22 16)) (bv 7 (bits w 15 9)) (bv 7 (bits w 8 2)) (bv 2 (bits w 1 0)))
  | 0x3 => .ok (.imulh (bv 2 (bits w 30 29)) (bv 7 (bits w 22 16)) (bv 7 (bits w 15 9)) (bv 7 (bits w 8 2)) (bv 2 (bits w 1 0)))
  | 0x4 => .ok (.imad (bv 2 (bits w 30 29)) (bv 7 (bits w 22 16)) (bv 7 (bits w 15 9)) (bv 7 (bits w 8 2)) (bv 2 (bits w 1 0)))
  | 0x5 => .ok (.imin (bv 2 (bits w 30 29)) (bv 7 (bits w 22 16)) (bv 7 (bits w 15 9)) (bv 7 (bits w 8 2)) (bv 2 (bits w 1 0)))
  | 0x6 => .ok (.imax (bv 2 (bits w 30 29)) (bv 7 (bits w 22 16)) (bv 7 (bits w 15 9)) (bv 7 (bits w 8 2)) (bv 2 (bits w 1 0)))
  | 0x7 => .ok (.iaddsat (bv 2 (bits w 30 29)) (bv 7 (bits w 22 16)) (bv 7 (bits w 15 9)) (bv 7 (bits w 8 2)) (bv 2 (bits w 1 0)))
  | 0x8 => .ok (.and (bv 2 (bits w 30 29)) (bv 7 (bits w 22 16)) (bv 7 (bits w 15 9)) (bv 7 (bits w 8 2)) (bv 2 (bits w 1 0)))
  | 0x9 => .ok (.or (bv 2 (bits w 30 29)) (bv 7 (bits w 22 16)) (bv 7 (bits w 15 9)) (bv 7 (bits w 8 2)) (bv 2 (bits w 1 0)))
  | 0xa => .ok (.xor (bv 2 (bits w 30 29)) (bv 7 (bits w 22 16)) (bv 7 (bits w 15 9)) (bv 7 (bits w 8 2)) (bv 2 (bits w 1 0)))
  | 0xb => .ok (.andn (bv 2 (bits w 30 29)) (bv 7 (bits w 22 16)) (bv 7 (bits w 15 9)) (bv 7 (bits w 8 2)) (bv 2 (bits w 1 0)))
  | 0xc => .ok (.shl (bv 2 (bits w 30 29)) (bv 7 (bits w 22 16)) (bv 7 (bits w 15 9)) (bv 7 (bits w 8 2)) (bv 2 (bits w 1 0)))
  | 0xd => .ok (.shr (bv 2 (bits w 30 29)) (bv 7 (bits w 22 16)) (bv 7 (bits w 15 9)) (bv 7 (bits w 8 2)) (bv 2 (bits w 1 0)))
  | 0xe => .ok (.icmp (bv 2 (bits w 30 29)) (bv 3 (bits w 22 20)) (bv 4 (bits w 19 16)) (bv 7 (bits w 15 9)) (bv 7 (bits w 8 2)) (bv 2 (bits w 1 0)))
  | 0xf => .ok (.iun (bv 2 (bits w 30 29)) (bv 7 (bits w 22 16)) (bv 7 (bits w 15 9)) (bv 7 (bits w 8 2)) (bv 2 (bits w 1 0)))
  | 0x10 => .ok (.iaddi (bv 2 (bits w 30 29)) (bv 7 (bits w 22 16)) (bv 7 (bits w 15 9)) (bv 9 (bits w 8 0)))
  | 0x11 => .ok (.andi (bv 2 (bits w 30 29)) (bv 7 (bits w 22 16)) (bv 7 (bits w 15 9)) (bv 9 (bits w 8 0)))
  | 0x12 => .ok (.ori (bv 2 (bits w 30 29)) (bv 7 (bits w 22 16)) (bv 7 (bits w 15 9)) (bv 9 (bits w 8 0)))
  | 0x13 => .ok (.xori (bv 2 (bits w 30 29)) (bv 7 (bits w 22 16)) (bv 7 (bits w 15 9)) (bv 9 (bits w 8 0)))
  | 0x14 => resv w [(8, 5)] (.shli (bv 2 (bits w 30 29)) (bv 7 (bits w 22 16)) (bv 7 (bits w 15 9)) (bv 5 (bits w 4 0)))
  | 0x15 => resv w [(8, 6)] (.shri (bv 2 (bits w 30 29)) (bv 7 (bits w 22 16)) (bv 7 (bits w 15 9)) (bv 1 (bits w 5 5)) (bv 5 (bits w 4 0)))
  | 0x16 => .ok (.icmpi (bv 2 (bits w 30 29)) (bv 3 (bits w 22 20)) (bv 4 (bits w 19 16)) (bv 7 (bits w 15 9)) (bv 9 (bits w 8 0)))
  | 0x17 => .ok (.movl (bv 2 (bits w 30 29)) (bv 7 (bits w 22 16)) (bv 16 (bits w 15 0)))
  | 0x18 => .ok (.movh (bv 2 (bits w 30 29)) (bv 7 (bits w 22 16)) (bv 16 (bits w 15 0)))
  | 0x19 => .ok (.sel (bv 2 (bits w 30 29)) (bv 7 (bits w 22 16)) (bv 7 (bits w 15 9)) (bv 7 (bits w 8 2)) (bv 2 (bits w 1 0)))
  | 0x1a => .ok (.shfl (bv 2 (bits w 30 29)) (bv 7 (bits w 22 16)) (bv 7 (bits w 15 9)) (bv 7 (bits w 8 2)) (bv 2 (bits w 1 0)))
  | 0x1b => resv w [(6, 6)] (.shfli (bv 2 (bits w 30 29)) (bv 7 (bits w 22 16)) (bv 7 (bits w 15 9)) (bv 2 (bits w 8 7)) (bv 6 (bits w 5 0)))
  | 0x1c => resv w [(15, 0)] (.lanev (bv 2 (bits w 30 29)) (bv 7 (bits w 22 16)))
  | 0x1d => resv w [(15, 12), (8, 5), (1, 0)] (.plog (bv 2 (bits w 30 29)) (bv 3 (bits w 22 20)) (bv 4 (bits w 19 16)) (bv 3 (bits w 11 9)) (bv 3 (bits w 4 2)))
  | 0x1e => if bits w 19 16 = 3 then resv w [(22, 20), (15, 12), (1, 0)] (.voteBallot (bv 2 (bits w 30 29)) (bv 3 (bits w 11 9)) (bv 7 (bits w 8 2)))
    else resv w [(15, 12), (8, 0)] (.vote (bv 2 (bits w 30 29)) (bv 3 (bits w 22 20)) (bv 4 (bits w 19 16)) (bv 3 (bits w 11 9)))
  | 0x1f => .ok (.redux (bv 2 (bits w 30 29)) (bv 7 (bits w 22 16)) (bv 7 (bits w 15 9)) (bv 7 (bits w 8 2)) (bv 2 (bits w 1 0)))
  | 0x20 => .ok (.fadd (bv 2 (bits w 30 29)) (bv 7 (bits w 22 16)) (bv 7 (bits w 15 9)) (bv 7 (bits w 8 2)) (bv 2 (bits w 1 0)))
  | 0x21 => .ok (.fsub (bv 2 (bits w 30 29)) (bv 7 (bits w 22 16)) (bv 7 (bits w 15 9)) (bv 7 (bits w 8 2)) (bv 2 (bits w 1 0)))
  | 0x22 => .ok (.fmul (bv 2 (bits w 30 29)) (bv 7 (bits w 22 16)) (bv 7 (bits w 15 9)) (bv 7 (bits w 8 2)) (bv 2 (bits w 1 0)))
  | 0x23 => .ok (.fma (bv 2 (bits w 30 29)) (bv 7 (bits w 22 16)) (bv 7 (bits w 15 9)) (bv 7 (bits w 8 2)) (bv 2 (bits w 1 0)))
  | 0x24 => .ok (.fmin (bv 2 (bits w 30 29)) (bv 7 (bits w 22 16)) (bv 7 (bits w 15 9)) (bv 7 (bits w 8 2)) (bv 2 (bits w 1 0)))
  | 0x25 => .ok (.fmax (bv 2 (bits w 30 29)) (bv 7 (bits w 22 16)) (bv 7 (bits w 15 9)) (bv 7 (bits w 8 2)) (bv 2 (bits w 1 0)))
  | 0x26 => .ok (.fdiv (bv 2 (bits w 30 29)) (bv 7 (bits w 22 16)) (bv 7 (bits w 15 9)) (bv 7 (bits w 8 2)) (bv 2 (bits w 1 0)))
  | 0x27 => .ok (.fcmp (bv 2 (bits w 30 29)) (bv 3 (bits w 22 20)) (bv 4 (bits w 19 16)) (bv 7 (bits w 15 9)) (bv 7 (bits w 8 2)) (bv 2 (bits w 1 0)))
  | 0x28 => .ok (.funOp (bv 2 (bits w 30 29)) (bv 7 (bits w 22 16)) (bv 7 (bits w 15 9)) (bv 7 (bits w 8 2)) (bv 2 (bits w 1 0)))
  | 0x29 => .ok (.fscl (bv 2 (bits w 30 29)) (bv 7 (bits w 22 16)) (bv 7 (bits w 15 9)) (bv 7 (bits w 8 2)) (bv 2 (bits w 1 0)))
  | 0x2a => .ok (.cvt (bv 2 (bits w 30 29)) (bv 7 (bits w 22 16)) (bv 7 (bits w 15 9)) (bv 4 (bits w 8 5)) (bv 4 (bits w 4 1)) (bv 1 (bits w 0 0)))
  | 0x2b => resv w [(2, 2)] (.bqnt (bv 2 (bits w 30 29)) (bv 7 (bits w 22 16)) (bv 7 (bits w 15 9)) (bv 6 (bits w 8 3)) (bv 2 (bits w 1 0)))
  | 0x2c => resv w [(2, 2)] (.bdq (bv 2 (bits w 30 29)) (bv 7 (bits w 22 16)) (bv 7 (bits w 15 9)) (bv 6 (bits w 8 3)) (bv 2 (bits w 1 0)))
  | 0x2d => if bits w 16 16 = 1 then operandCase w [(22, 18)] else resv w [(22, 18)] (.feedw (bv 2 (bits w 30 29)) (bv 1 (bits w 17 17)) (bv 7 (bits w 15 9)) (bv 7 (bits w 8 2)) (bv 2 (bits w 1 0)))
  | 0x2e => if bits w 9 9 = 0 then operandCase w [(15, 11), (8, 2)] else resv w [(15, 11), (8, 2)] (.feedr (bv 2 (bits w 30 29)) (bv 7 (bits w 22 16)) (bv 1 (bits w 10 10)) (bv 2 (bits w 1 0)))
  | 0x30 => .ok (.ld (bv 2 (bits w 30 29)) (bv 7 (bits w 22 16)) (bv 7 (bits w 15 9)) (bv 3 (bits w 8 6)) (bv 3 (bits w 5 3)) (bv 2 (bits w 2 1)) (bv 1 (bits w 0 0)))
  | 0x31 => .ok (.st (bv 2 (bits w 30 29)) (bv 7 (bits w 22 16)) (bv 7 (bits w 15 9)) (bv 3 (bits w 8 6)) (bv 3 (bits w 5 3)) (bv 2 (bits w 2 1)) (bv 1 (bits w 0 0)))
  | 0x32 => resv w [(8, 6), (2, 1)] (.ldt (bv 2 (bits w 30 29)) (bv 7 (bits w 22 16)) (bv 7 (bits w 15 9)) (bv 3 (bits w 5 3)) (bv 1 (bits w 0 0)))
  | 0x33 => resv w [(8, 6), (2, 1)] (.stt (bv 2 (bits w 30 29)) (bv 7 (bits w 22 16)) (bv 7 (bits w 15 9)) (bv 3 (bits w 5 3)) (bv 1 (bits w 0 0)))
  | 0x34 => resv w2 [(24, 18), (7, 0)]
      (.atom (bv 2 (bits w 30 29)) (bv 7 (bits w 22 16)) (bv 7 (bits w 15 9)) (bv 3 (bits w 8 6)) (bv 3 (bits w 5 3))
        (bv 2 (bits w 2 1)) (bv 1 (bits w 0 0)) (bv 7 (bits w2 31 25)) (bv 4 (bits w2 17 14)) (bv 2 (bits w2 13 12))
        (bv 3 (bits w2 11 9)) (bv 1 (bits w2 8 8)))
  | 0x35 => resv w2 [(17, 14), (7, 0)]
      (.acas (bv 2 (bits w 30 29)) (bv 7 (bits w 22 16)) (bv 7 (bits w 15 9)) (bv 3 (bits w 8 6)) (bv 3 (bits w 5 3))
        (bv 2 (bits w 2 1)) (bv 1 (bits w 0 0)) (bv 7 (bits w2 31 25)) (bv 7 (bits w2 24 18)) (bv 2 (bits w2 13 12))
        (bv 3 (bits w2 11 9)) (bv 1 (bits w2 8 8)))
  | 0x36 => if bits w 8 6 ≠ 0 ∨ bits w 2 1 ≠ 0 then .error .reserved else
      resv w2 [(24, 18), (7, 0)]
      (.atomt (bv 2 (bits w 30 29)) (bv 7 (bits w 22 16)) (bv 7 (bits w 15 9)) (bv 3 (bits w 5 3)) (bv 1 (bits w 0 0))
        (bv 7 (bits w2 31 25)) (bv 4 (bits w2 17 14)) (bv 2 (bits w2 13 12)) (bv 3 (bits w2 11 9)) (bv 1 (bits w2 8 8)))
  | 0x37 => .ok (.acp16 (bv 2 (bits w 30 29)) (bv 7 (bits w 22 16)) (bv 7 (bits w 15 9)) (bv 3 (bits w 8 6)) (bv 6 (bits w 5 0)))
  | 0x38 => resv w [(22, 16)] (.prf (bv 2 (bits w 30 29)) (bv 7 (bits w 15 9)) (bv 3 (bits w 8 6)) (bv 3 (bits w 5 3)) (bv 2 (bits w 2 1)) (bv 1 (bits w 0 0)))
  | 0x39 => .ok (.lda (bv 2 (bits w 30 29)) (bv 7 (bits w 22 16)) (bv 7 (bits w 15 9)) (bv 3 (bits w 8 6)) (bv 3 (bits w 5 3)) (bv 2 (bits w 2 1)) (bv 1 (bits w 0 0)))
  | 0x3a => .ok (.sta (bv 2 (bits w 30 29)) (bv 7 (bits w 22 16)) (bv 7 (bits w 15 9)) (bv 3 (bits w 8 6)) (bv 3 (bits w 5 3)) (bv 2 (bits w 2 1)) (bv 1 (bits w 0 0)))
  | 0x3b => resv w [(21, 21), (4, 3)] (.mma (bv 2 (bits w 30 29)) (bv 1 (bits w 22 22)) (bv 5 (bits w 20 16)) (bv 4 (bits w 15 12)) (bv 3 (bits w 11 9)) (bv 4 (bits w 8 5)) (bv 1 (bits w 2 2)) (bv 2 (bits w 1 0)))
  | 0x3c => resv w [(21, 21), (11, 0)] (.tld (bv 2 (bits w 30 29)) (bv 1 (bits w 22 22)) (bv 5 (bits w 20 16)) (bv 4 (bits w 15 12)))
  | 0x3d => resv w [(21, 21), (11, 0)] (.tst (bv 2 (bits w 30 29)) (bv 1 (bits w 22 22)) (bv 5 (bits w 20 16)) (bv 4 (bits w 15 12)))
  | _ => .error .unassigned

/-- The uniform opcode map (R59, R60). -/
def decodeUniform (w w2 : Nat) : Except Reject Instr :=
  match bits w 28 22 with
  | 0x0 => .ok (.uadd (bv 2 (bits w 30 29)) (bv 6 (bits w 21 16)) (bv 6 (bits w 15 10)) (bv 6 (bits w 9 4)) (bv 4 (bits w 3 0)))
  | 0x1 => .ok (.usub (bv 2 (bits w 30 29)) (bv 6 (bits w 21 16)) (bv 6 (bits w 15 10)) (bv 6 (bits w 9 4)) (bv 4 (bits w 3 0)))
  | 0x2 => .ok (.umul (bv 2 (bits w 30 29)) (bv 6 (bits w 21 16)) (bv 6 (bits w 15 10)) (bv 6 (bits w 9 4)) (bv 4 (bits w 3 0)))
  | 0x3 => .ok (.umulh (bv 2 (bits w 30 29)) (bv 6 (bits w 21 16)) (bv 6 (bits w 15 10)) (bv 6 (bits w 9 4)) (bv 4 (bits w 3 0)))
  | 0x4 => .ok (.uand (bv 2 (bits w 30 29)) (bv 6 (bits w 21 16)) (bv 6 (bits w 15 10)) (bv 6 (bits w 9 4)) (bv 4 (bits w 3 0)))
  | 0x5 => .ok (.uor (bv 2 (bits w 30 29)) (bv 6 (bits w 21 16)) (bv 6 (bits w 15 10)) (bv 6 (bits w 9 4)) (bv 4 (bits w 3 0)))
  | 0x6 => .ok (.uxor (bv 2 (bits w 30 29)) (bv 6 (bits w 21 16)) (bv 6 (bits w 15 10)) (bv 6 (bits w 9 4)) (bv 4 (bits w 3 0)))
  | 0x7 => .ok (.ushl (bv 2 (bits w 30 29)) (bv 6 (bits w 21 16)) (bv 6 (bits w 15 10)) (bv 6 (bits w 9 4)) (bv 4 (bits w 3 0)))
  | 0x8 => .ok (.ushr (bv 2 (bits w 30 29)) (bv 6 (bits w 21 16)) (bv 6 (bits w 15 10)) (bv 6 (bits w 9 4)) (bv 4 (bits w 3 0)))
  | 0x9 => .ok (.umin (bv 2 (bits w 30 29)) (bv 6 (bits w 21 16)) (bv 6 (bits w 15 10)) (bv 6 (bits w 9 4)) (bv 4 (bits w 3 0)))
  | 0xa => .ok (.umax (bv 2 (bits w 30 29)) (bv 6 (bits w 21 16)) (bv 6 (bits w 15 10)) (bv 6 (bits w 9 4)) (bv 4 (bits w 3 0)))
  | 0xb => resv w [(21, 19)] (.ucmp (bv 2 (bits w 30 29)) (bv 3 (bits w 18 16)) (bv 6 (bits w 15 10)) (bv 6 (bits w 9 4)) (bv 4 (bits w 3 0)))
  | 0xc => resv w [(3, 3)] (.usel (bv 2 (bits w 30 29)) (bv 6 (bits w 21 16)) (bv 6 (bits w 15 10)) (bv 6 (bits w 9 4)) (bv 3 (bits w 2 0)))
  | 0xd => .ok (.uaddi (bv 2 (bits w 30 29)) (bv 6 (bits w 21 16)) (bv 6 (bits w 15 10)) (bv 10 (bits w 9 0)))
  | 0xe => .ok (.uandi (bv 2 (bits w 30 29)) (bv 6 (bits w 21 16)) (bv 6 (bits w 15 10)) (bv 10 (bits w 9 0)))
  | 0xf => .ok (.ucmpi (bv 2 (bits w 30 29)) (bv 3 (bits w 21 19)) (bv 3 (bits w 18 16)) (bv 6 (bits w 15 10)) (bv 10 (bits w 9 0)))
  | 0x10 => resv w [(13, 0)] (.umovi (bv 2 (bits w 30 29)) (bv 6 (bits w 21 16)) (bv 2 (bits w 15 14)) (bv 32 w2))
  | 0x11 => .ok (.uun (bv 2 (bits w 30 29)) (bv 6 (bits w 21 16)) (bv 6 (bits w 15 10)) (bv 6 (bits w 9 4)) (bv 4 (bits w 3 0)))
  | 0x12 => resv w [(21, 19), (15, 13), (9, 7)] (.clog (bv 2 (bits w 30 29)) (bv 3 (bits w 18 16)) (bv 3 (bits w 12 10)) (bv 3 (bits w 6 4)) (bv 4 (bits w 3 0)))
  | 0x18 => resv w [(0, 0)] (.uld (bv 2 (bits w 30 29)) (bv 6 (bits w 21 16)) (bv 6 (bits w 15 10)) (bv 3 (bits w 9 7)) (bv 3 (bits w 6 4)) (bv 2 (bits w 3 2)) (bv 1 (bits w 1 1)))
  | 0x19 => resv w [(0, 0)] (.ust (bv 2 (bits w 30 29)) (bv 6 (bits w 21 16)) (bv 6 (bits w 15 10)) (bv 3 (bits w 9 7)) (bv 3 (bits w 6 4)) (bv 2 (bits w 3 2)) (bv 1 (bits w 1 1)))
  | 0x1a => .ok (.uatom (bv 2 (bits w 30 29)) (bv 6 (bits w 21 16)) (bv 6 (bits w 15 10)) (bv 4 (bits w 9 6)) (bv 2 (bits w 5 4)) (bv 2 (bits w 3 2)) (bv 1 (bits w 1 1)) (bv 1 (bits w 0 0)))
  | 0x20 => resv w [(21, 18)] (.bra (bv 2 (bits w 30 29)) (bv 18 (bits w 17 0)))
  | 0x21 => .ok (.brc (bv 2 (bits w 30 29)) (bv 3 (bits w 21 19)) (bv 1 (bits w 18 18)) (bv 18 (bits w 17 0)))
  | 0x22 => .ok (.brp (bv 2 (bits w 30 29)) (bv 3 (bits w 21 19)) (bv 1 (bits w 18 18)) (bv 18 (bits w 17 0)))
  | 0x23 => resv w [(21, 16), (9, 0)] (.brx (bv 2 (bits w 30 29)) (bv 6 (bits w 15 10)))
  | 0x24 => resv w [(21, 18)] (.call (bv 2 (bits w 30 29)) (bv 18 (bits w 17 0)))
  | 0x25 => resv w [(21, 0)] (.ret (bv 2 (bits w 30 29)))
  | 0x26 => resv w [(21, 0)] (.exit (bv 2 (bits w 30 29)))
  | 0x27 => resv w [(21, 0)] (.yield (bv 2 (bits w 30 29)))
  | 0x28 => resv w [(21, 0)] (.nop (bv 2 (bits w 30 29)))
  | 0x29 => resv w [(21, 10)] (.wait (bv 2 (bits w 30 29)) (bv 10 (bits w 9 0)))
  | 0x2a => resv w [(21, 10)] (.sleep (bv 2 (bits w 30 29)) (bv 10 (bits w 9 0)))
  | 0x2b => resv w [(21, 10)] (.bpt (bv 2 (bits w 30 29)) (bv 10 (bits w 9 0)))
  | 0x2c => resv w [(21, 10)] (.trap (bv 2 (bits w 30 29)) (bv 10 (bits w 9 0)))
  | 0x2d => resv w [(21, 0)] (.tret (bv 2 (bits w 30 29)))
  | 0x2e => resv w [(21, 0)] (.tfence (bv 2 (bits w 30 29)))
  | 0x2f => resv w [(21, 10), (7, 3)] (.mfence (bv 2 (bits w 30 29)) (bv 2 (bits w 9 8)) (bv 3 (bits w 2 0)))
  | 0x30 => resv w [(21, 10)] (.rgrow (bv 2 (bits w 30 29)) (bv 10 (bits w 9 0)))
  | 0x31 => resv w [(21, 10)] (.rshrink (bv 2 (bits w 30 29)) (bv 10 (bits w 9 0)))
  | 0x34 => resv w [(6, 0)] (.trld (bv 2 (bits w 30 29)) (bv 3 (bits w 21 19)) (bv 6 (bits w 18 13)) (bv 6 (bits w 12 7)))
  | 0x35 => resv w [(21, 19), (5, 0)] (.trinv (bv 2 (bits w 30 29)) (bv 6 (bits w 18 13)) (bv 6 (bits w 12 7)) (bv 1 (bits w 6 6)))
  | 0x36 => resv w [(9, 0)] (.rdsr (bv 2 (bits w 30 29)) (bv 6 (bits w 21 16)) (bv 6 (bits w 15 10)))
  | 0x37 => resv w [(9, 0)] (.wrsr (bv 2 (bits w 30 29)) (bv 6 (bits w 21 16)) (bv 6 (bits w 15 10)))
  | 0x38 => if bits w 1 0 = 0 then resv w [(15, 13), (7, 2)] (.flgs (bv 2 (bits w 30 29)) (bv 6 (bits w 21 16)) (bv 5 (bits w 12 8)))
    else if bits w 1 0 = 1 then resv w [(15, 13), (7, 2)] (.flgsClr (bv 2 (bits w 30 29)) (bv 6 (bits w 21 16)) (bv 5 (bits w 12 8)))
    else if bits w 1 0 = 2 then resv w [(15, 13), (7, 2)] (.flgsSet (bv 2 (bits w 30 29)) (bv 6 (bits w 21 16)) (bv 5 (bits w 12 8)))
    else .error .code
  | 0x40 => .ok (.binit (bv 2 (bits w 30 29)) (bv 6 (bits w 21 16)) (bv 1 (bits w 15 15)) (bv 15 (bits w 14 0)))
  | 0x41 => .ok (.barv (bv 2 (bits w 30 29)) (bv 6 (bits w 21 16)) (bv 1 (bits w 15 15)) (bv 6 (bits w 14 9)) (bv 9 (bits w 8 0)))
  | 0x42 => if bits w 14 14 = 0 then resv w [(7, 0)] (.bexp (bv 2 (bits w 30 29)) (bv 6 (bits w 21 16)) (bv 1 (bits w 15 15)) (bv 6 (bits w 13 8)))
    else .ok (.bexpImm (bv 2 (bits w 30 29)) (bv 6 (bits w 21 16)) (bv 1 (bits w 15 15)) (bv 14 (bits w 13 0)))
  | 0x43 => .ok (.bwait (bv 2 (bits w 30 29)) (bv 6 (bits w 21 16)) (bv 1 (bits w 15 15)) (bv 6 (bits w 14 9)) (bv 9 (bits w 8 0)))
  | 0x44 => resv w [(5, 0)] (.btry (bv 2 (bits w 30 29)) (bv 6 (bits w 21 16)) (bv 1 (bits w 15 15)) (bv 6 (bits w 14 9)) (bv 3 (bits w 8 6)))
  | 0x45 => resv w [(14, 0)] (.binv (bv 2 (bits w 30 29)) (bv 6 (bits w 21 16)) (bv 1 (bits w 15 15)))
  | 0x48 => resv w [(5, 0)] (.tcopy (bv 2 (bits w 30 29)) (bv 3 (bits w 21 19)) (bv 1 (bits w 18 18)) (bv 6 (bits w 17 12)) (bv 6 (bits w 11 6)))
  | 0x49 => resv w [(5, 0)] (.tsto (bv 2 (bits w 30 29)) (bv 3 (bits w 21 19)) (bv 1 (bits w 18 18)) (bv 6 (bits w 17 12)) (bv 6 (bits w 11 6)))
  | 0x4a => resv w [(11, 0)] (.tpref (bv 2 (bits w 30 29)) (bv 3 (bits w 21 19)) (bv 1 (bits w 18 18)) (bv 6 (bits w 17 12)))
  | 0x50 => resv w [(10, 10), (2, 0)] (.mmap (bv 2 (bits w 30 29)) (bv 3 (bits w 21 19)) (bv 1 (bits w 18 18)) (bv 6 (bits w 17 12)) (bv 1 (bits w 11 11)) (bv 2 (bits w 9 8)) (bv 1 (bits w 7 7)) (bv 1 (bits w 6 6)) (bv 3 (bits w 5 3)))
  | 0x51 => resv w [(9, 0)] (.mmsc (bv 2 (bits w 30 29)) (bv 6 (bits w 21 16)) (bv 6 (bits w 15 10)))
  | 0x52 => resv w [(11, 0)] (.tzero (bv 2 (bits w 30 29)) (bv 5 (bits w 21 17)) (bv 5 (bits w 16 12)))
  | 0x53 => resv w [(4, 0)] (.tepi (bv 2 (bits w 30 29)) (bv 5 (bits w 21 17)) (bv 6 (bits w 16 11)) (bv 3 (bits w 10 8)) (bv 2 (bits w 7 6)) (bv 1 (bits w 5 5)))
  | 0x58 => resv w [(18, 8)] (.chain (bv 2 (bits w 30 29)) (bv 3 (bits w 21 19)) (bv 8 (bits w 7 0)))
  | 0x60 => resv w [(11, 0)] (.put (bv 2 (bits w 30 29)) (bv 6 (bits w 21 16)) (bv 4 (bits w 15 12)))
  | 0x61 => resv w [(11, 0)] (.get (bv 2 (bits w 30 29)) (bv 6 (bits w 21 16)) (bv 4 (bits w 15 12)))
  | 0x62 => resv w [(0, 0)] (.ratom (bv 2 (bits w 30 29)) (bv 6 (bits w 21 16)) (bv 4 (bits w 15 12)) (bv 6 (bits w 11 6)) (bv 4 (bits w 5 2)) (bv 1 (bits w 1 1)))
  | 0x63 => resv w [(11, 0)] (.notify (bv 2 (bits w 30 29)) (bv 6 (bits w 21 16)) (bv 4 (bits w 15 12)))
  | 0x64 => .ok (.waitn (bv 2 (bits w 30 29)) (bv 6 (bits w 21 16)) (bv 6 (bits w 15 10)) (bv 10 (bits w 9 0)))
  | 0x65 => resv w [(21, 0)] (.rfence (bv 2 (bits w 30 29)))
  | 0x66 => resv w [(9, 0)] (.coll (bv 2 (bits w 30 29)) (bv 6 (bits w 21 16)) (bv 6 (bits w 15 10)))
  | 0x67 => resv w [(9, 0)] (.colw (bv 2 (bits w 30 29)) (bv 6 (bits w 21 16)) (bv 6 (bits w 15 10)))
  | 0x68 => resv w [(3, 0)] (.qpush (bv 2 (bits w 30 29)) (bv 6 (bits w 21 16)) (bv 6 (bits w 15 10)) (bv 6 (bits w 9 4)))
  | 0x69 => if bits w 9 9 = 0 then resv w [(8, 0)] (.pfence (bv 2 (bits w 30 29)) (bv 6 (bits w 21 16)) (bv 6 (bits w 15 10)))
    else resv w [(8, 0)] (.pfenceRel (bv 2 (bits w 30 29)) (bv 6 (bits w 21 16)) (bv 6 (bits w 15 10)))
  | 0x70 => resv w [(9, 0)] (.vcdef (bv 2 (bits w 30 29)) (bv 6 (bits w 21 16)) (bv 6 (bits w 15 10)))
  | 0x71 => resv w [(9, 0)] (.vcrsz (bv 2 (bits w 30 29)) (bv 6 (bits w 21 16)) (bv 6 (bits w 15 10)))
  | 0x72 => resv w [(9, 0)] (.vcret (bv 2 (bits w 30 29)) (bv 6 (bits w 21 16)) (bv 6 (bits w 15 10)))
  | 0x73 => resv w [(9, 0)] (.vcq (bv 2 (bits w 30 29)) (bv 6 (bits w 21 16)) (bv 6 (bits w 15 10)))
  | 0x74 => resv w [(2, 0)] (.vcwb (bv 2 (bits w 30 29)) (bv 6 (bits w 21 16)) (bv 6 (bits w 15 10)) (bv 6 (bits w 9 4)) (bv 1 (bits w 3 3)))
  | 0x75 => resv w [(2, 0)] (.vcinv (bv 2 (bits w 30 29)) (bv 6 (bits w 21 16)) (bv 6 (bits w 15 10)) (bv 6 (bits w 9 4)) (bv 1 (bits w 3 3)))
  | 0x78 => resv w [(4, 0)] (.monr (bv 2 (bits w 30 29)) (bv 6 (bits w 21 16)) (bv 6 (bits w 15 10)) (bv 5 (bits w 9 5)))
  | 0x79 => if bits w 9 8 = 0 then resv w [(7, 0)] (.moncCfg (bv 2 (bits w 30 29)) (bv 6 (bits w 21 16)) (bv 6 (bits w 15 10)))
    else if bits w 9 8 = 1 then resv w [(15, 10), (7, 0)] (.moncClr (bv 2 (bits w 30 29)) (bv 6 (bits w 21 16)))
    else if bits w 9 8 = 2 then resv w [(15, 10), (7, 0)] (.moncRel (bv 2 (bits w 30 29)) (bv 6 (bits w 21 16)))
    else .error .code
  | _ => .error .unassigned

/-- The first word has the form of a two-word instruction (R61): ATOM, ACAS, ATOMT or UMOVI. -/
def twoWord (w : Nat) : Bool :=
  (bits w 31 31 = 0 && 0x34 ≤ bits w 28 23 && bits w 28 23 ≤ 0x36) || (bits w 31 31 = 1 && bits w 28 22 = 0x10)

/-- The instruction of a first word w and, where it has two, a second word w2 (R44, R63). -/
def decodeWords (w w2 : Nat) : Except Reject Instr :=
  match (if bits w 31 31 = 0 then decodeLane w w2 else decodeUniform w w2) with
  | .ok i => if wellFormed i then .ok i else .error .code
  | .error e => .error e

/-- The number whose little-endian bytes are listed (R3). -/
def leNat : List Byte → Nat
  | [] => 0
  | b :: bs => b.toNat + 256 * leNat bs

/-- The n low bytes of x, little-endian (R3). -/
def leBytes (x : Nat) : Nat → List Byte
  | 0 => []
  | n + 1 => BitVec.ofNat 8 x :: leBytes (x / 256) n

/-- The instruction at the head of the bytes, and the bytes after it. -/
def decode (bs : List Byte) : Except Reject (Instr × List Byte) :=
  if bs.length < 4 then .error .truncated
  else
    let w := leNat (bs.take 4)
    if twoWord w then
      if bs.length < 8 then .error .truncated
      else match decodeWords w (leNat ((bs.drop 4).take 4)) with
        | .ok i => .ok (i, bs.drop 8)
        | .error e => .error e
    else match decodeWords w 0 with
      | .ok i => .ok (i, bs.drop 4)
      | .error e => .error e

/-- A word: the fixed bits and the fields, each a value and the place of its lowest bit. -/
def word (base : Nat) (fields : List (Nat × Nat)) : Nat :=
  fields.foldr (fun f acc => f.1 * 2 ^ f.2 + acc) base

/-- The words of an instruction (R48, R52, R57); a row without words has none. -/
def encode (i : Instr) : List Nat :=
  match i with
  | .iadd st d a b m =>
    [word 0x0 [(st.toNat, 29), (d.toNat, 16), (a.toNat, 9), (b.toNat, 2), (m.toNat, 0)]]
  | .isub st d a b m =>
    [word 0x800000 [(st.toNat, 29), (d.toNat, 16), (a.toNat, 9), (b.toNat, 2), (m.toNat, 0)]]
  | .imul st d a b m =>
    [word 0x1000000 [(st.toNat, 29), (d.toNat, 16), (a.toNat, 9), (b.toNat, 2), (m.toNat, 0)]]
  | .imulh st d a b m =>
    [word 0x1800000 [(st.toNat, 29), (d.toNat, 16), (a.toNat, 9), (b.toNat, 2), (m.toNat, 0)]]
  | .imad st d a b m =>
    [word 0x2000000 [(st.toNat, 29), (d.toNat, 16), (a.toNat, 9), (b.toNat, 2), (m.toNat, 0)]]
  | .imin st d a b m =>
    [word 0x2800000 [(st.toNat, 29), (d.toNat, 16), (a.toNat, 9), (b.toNat, 2), (m.toNat, 0)]]
  | .imax st d a b m =>
    [word 0x3000000 [(st.toNat, 29), (d.toNat, 16), (a.toNat, 9), (b.toNat, 2), (m.toNat, 0)]]
  | .iaddsat st d a b m =>
    [word 0x3800000 [(st.toNat, 29), (d.toNat, 16), (a.toNat, 9), (b.toNat, 2), (m.toNat, 0)]]
  | .and st d a b m =>
    [word 0x4000000 [(st.toNat, 29), (d.toNat, 16), (a.toNat, 9), (b.toNat, 2), (m.toNat, 0)]]
  | .or st d a b m =>
    [word 0x4800000 [(st.toNat, 29), (d.toNat, 16), (a.toNat, 9), (b.toNat, 2), (m.toNat, 0)]]
  | .xor st d a b m =>
    [word 0x5000000 [(st.toNat, 29), (d.toNat, 16), (a.toNat, 9), (b.toNat, 2), (m.toNat, 0)]]
  | .andn st d a b m =>
    [word 0x5800000 [(st.toNat, 29), (d.toNat, 16), (a.toNat, 9), (b.toNat, 2), (m.toNat, 0)]]
  | .shl st d a b m =>
    [word 0x6000000 [(st.toNat, 29), (d.toNat, 16), (a.toNat, 9), (b.toNat, 2), (m.toNat, 0)]]
  | .shr st d a b m =>
    [word 0x6800000 [(st.toNat, 29), (d.toNat, 16), (a.toNat, 9), (b.toNat, 2), (m.toNat, 0)]]
  | .icmp st p c a b m =>
    [word 0x7000000 [(st.toNat, 29), (p.toNat, 20), (c.toNat, 16), (a.toNat, 9), (b.toNat, 2), (m.toNat, 0)]]
  | .iun st d a u m =>
    [word 0x7800000 [(st.toNat, 29), (d.toNat, 16), (a.toNat, 9), (u.toNat, 2), (m.toNat, 0)]]
  | .iaddi st d a i =>
    [word 0x8000000 [(st.toNat, 29), (d.toNat, 16), (a.toNat, 9), (i.toNat, 0)]]
  | .andi st d a i =>
    [word 0x8800000 [(st.toNat, 29), (d.toNat, 16), (a.toNat, 9), (i.toNat, 0)]]
  | .ori st d a i =>
    [word 0x9000000 [(st.toNat, 29), (d.toNat, 16), (a.toNat, 9), (i.toNat, 0)]]
  | .xori st d a i =>
    [word 0x9800000 [(st.toNat, 29), (d.toNat, 16), (a.toNat, 9), (i.toNat, 0)]]
  | .shli st d a n =>
    [word 0xa000000 [(st.toNat, 29), (d.toNat, 16), (a.toNat, 9), (n.toNat, 0)]]
  | .shri st d a h n =>
    [word 0xa800000 [(st.toNat, 29), (d.toNat, 16), (a.toNat, 9), (h.toNat, 5), (n.toNat, 0)]]
  | .icmpi st p c a i =>
    [word 0xb000000 [(st.toNat, 29), (p.toNat, 20), (c.toNat, 16), (a.toNat, 9), (i.toNat, 0)]]
  | .movl st d i =>
    [word 0xb800000 [(st.toNat, 29), (d.toNat, 16), (i.toNat, 0)]]
  | .movh st d i =>
    [word 0xc000000 [(st.toNat, 29), (d.toNat, 16), (i.toNat, 0)]]
  | .sel st d a b p =>
    [word 0xc800000 [(st.toNat, 29), (d.toNat, 16), (a.toNat, 9), (b.toNat, 2), (p.toNat, 0)]]
  | .shfl st d a b m =>
    [word 0xd000000 [(st.toNat, 29), (d.toNat, 16), (a.toNat, 9), (b.toNat, 2), (m.toNat, 0)]]
  | .shfli st d a m n =>
    [word 0xd800000 [(st.toNat, 29), (d.toNat, 16), (a.toNat, 9), (m.toNat, 7), (n.toNat, 0)]]
  | .lanev st d =>
    [word 0xe000000 [(st.toNat, 29), (d.toNat, 16)]]
  | .plog st p t x y =>
    [word 0xe800000 [(st.toNat, 29), (p.toNat, 20), (t.toNat, 16), (x.toNat, 9), (y.toNat, 2)]]
  | .vote st p c x =>
    [word 0xf000000 [(st.toNat, 29), (p.toNat, 20), (c.toNat, 16), (x.toNat, 9)]]
  | .voteBallot st x b =>
    [word 0xf030000 [(st.toNat, 29), (x.toNat, 9), (b.toNat, 2)]]
  | .redux st d a b m =>
    [word 0xf800000 [(st.toNat, 29), (d.toNat, 16), (a.toNat, 9), (b.toNat, 2), (m.toNat, 0)]]
  | .fadd st d a b m =>
    [word 0x10000000 [(st.toNat, 29), (d.toNat, 16), (a.toNat, 9), (b.toNat, 2), (m.toNat, 0)]]
  | .fsub st d a b m =>
    [word 0x10800000 [(st.toNat, 29), (d.toNat, 16), (a.toNat, 9), (b.toNat, 2), (m.toNat, 0)]]
  | .fmul st d a b m =>
    [word 0x11000000 [(st.toNat, 29), (d.toNat, 16), (a.toNat, 9), (b.toNat, 2), (m.toNat, 0)]]
  | .fma st d a b m =>
    [word 0x11800000 [(st.toNat, 29), (d.toNat, 16), (a.toNat, 9), (b.toNat, 2), (m.toNat, 0)]]
  | .fmin st d a b m =>
    [word 0x12000000 [(st.toNat, 29), (d.toNat, 16), (a.toNat, 9), (b.toNat, 2), (m.toNat, 0)]]
  | .fmax st d a b m =>
    [word 0x12800000 [(st.toNat, 29), (d.toNat, 16), (a.toNat, 9), (b.toNat, 2), (m.toNat, 0)]]
  | .fdiv st d a b m =>
    [word 0x13000000 [(st.toNat, 29), (d.toNat, 16), (a.toNat, 9), (b.toNat, 2), (m.toNat, 0)]]
  | .fcmp st p c a b m =>
    [word 0x13800000 [(st.toNat, 29), (p.toNat, 20), (c.toNat, 16), (a.toNat, 9), (b.toNat, 2), (m.toNat, 0)]]
  | .funOp st d a u m =>
    [word 0x14000000 [(st.toNat, 29), (d.toNat, 16), (a.toNat, 9), (u.toNat, 2), (m.toNat, 0)]]
  | .fscl st d a b m =>
    [word 0x14800000 [(st.toNat, 29), (d.toNat, 16), (a.toNat, 9), (b.toNat, 2), (m.toNat, 0)]]
  | .cvt st d a t u x =>
    [word 0x15000000 [(st.toNat, 29), (d.toNat, 16), (a.toNat, 9), (t.toNat, 5), (u.toNat, 1), (x.toNat, 0)]]
  | .bqnt st d a c f =>
    [word 0x15800000 [(st.toNat, 29), (d.toNat, 16), (a.toNat, 9), (c.toNat, 3), (f.toNat, 0)]]
  | .bdq st d a c f =>
    [word 0x16000000 [(st.toNat, 29), (d.toNat, 16), (a.toNat, 9), (c.toNat, 3), (f.toNat, 0)]]
  | .feedw st q a b m =>
    [word 0x16800000 [(st.toNat, 29), (q.toNat, 17), (a.toNat, 9), (b.toNat, 2), (m.toNat, 0)]]
  | .feedr st d q m =>
    [word 0x17000200 [(st.toNat, 29), (d.toNat, 16), (q.toNat, 10), (m.toNat, 0)]]
  | .ld st d a t w q x =>
    [word 0x18000000 [(st.toNat, 29), (d.toNat, 16), (a.toNat, 9), (t.toNat, 6), (w.toNat, 3), (q.toNat, 1), (x.toNat, 0)]]
  | .st st d a t w q x =>
    [word 0x18800000 [(st.toNat, 29), (d.toNat, 16), (a.toNat, 9), (t.toNat, 6), (w.toNat, 3), (q.toNat, 1), (x.toNat, 0)]]
  | .ldt st d a w x =>
    [word 0x19000000 [(st.toNat, 29), (d.toNat, 16), (a.toNat, 9), (w.toNat, 3), (x.toNat, 0)]]
  | .stt st d a w x =>
    [word 0x19800000 [(st.toNat, 29), (d.toNat, 16), (a.toNat, 9), (w.toNat, 3), (x.toNat, 0)]]
  | .atom st d a t w q x data aop sem scope sc =>
    [word 0x1a000000 [(st.toNat, 29), (d.toNat, 16), (a.toNat, 9), (t.toNat, 6), (w.toNat, 3), (q.toNat, 1), (x.toNat, 0)],
      word 0 [(data.toNat, 25), (aop.toNat, 14), (sem.toNat, 12), (scope.toNat, 9), (sc.toNat, 8)]]
  | .acas st d a t w q x data cmp sem scope sc =>
    [word 0x1a800000 [(st.toNat, 29), (d.toNat, 16), (a.toNat, 9), (t.toNat, 6), (w.toNat, 3), (q.toNat, 1), (x.toNat, 0)],
      word 0 [(data.toNat, 25), (cmp.toNat, 18), (sem.toNat, 12), (scope.toNat, 9), (sc.toNat, 8)]]
  | .atomt st d a w x data aop sem scope sc =>
    [word 0x1b000000 [(st.toNat, 29), (d.toNat, 16), (a.toNat, 9), (w.toNat, 3), (x.toNat, 0)],
      word 0 [(data.toNat, 25), (aop.toNat, 14), (sem.toNat, 12), (scope.toNat, 9), (sc.toNat, 8)]]
  | .acp16 st d a t b =>
    [word 0x1b800000 [(st.toNat, 29), (d.toNat, 16), (a.toNat, 9), (t.toNat, 6), (b.toNat, 0)]]
  | .prf st a t w q x =>
    [word 0x1c000000 [(st.toNat, 29), (a.toNat, 9), (t.toNat, 6), (w.toNat, 3), (q.toNat, 1), (x.toNat, 0)]]
  | .lda st d a t w c x =>
    [word 0x1c800000 [(st.toNat, 29), (d.toNat, 16), (a.toNat, 9), (t.toNat, 6), (w.toNat, 3), (c.toNat, 1), (x.toNat, 0)]]
  | .sta st d a t w c x =>
    [word 0x1d000000 [(st.toNat, 29), (d.toNat, 16), (a.toNat, 9), (t.toNat, 6), (w.toNat, 3), (c.toNat, 1), (x.toNat, 0)]]
  | .mma st h t a y b z n =>
    [word 0x1d800000 [(st.toNat, 29), (h.toNat, 22), (t.toNat, 16), (a.toNat, 12), (y.toNat, 9), (b.toNat, 5), (z.toNat, 2), (n.toNat, 0)]]
  | .tld st h t a =>
    [word 0x1e000000 [(st.toNat, 29), (h.toNat, 22), (t.toNat, 16), (a.toNat, 12)]]
  | .tst st h t a =>
    [word 0x1e800000 [(st.toNat, 29), (h.toNat, 22), (t.toNat, 16), (a.toNat, 12)]]
  | .uadd st d a b m =>
    [word 0x80000000 [(st.toNat, 29), (d.toNat, 16), (a.toNat, 10), (b.toNat, 4), (m.toNat, 0)]]
  | .usub st d a b m =>
    [word 0x80400000 [(st.toNat, 29), (d.toNat, 16), (a.toNat, 10), (b.toNat, 4), (m.toNat, 0)]]
  | .umul st d a b m =>
    [word 0x80800000 [(st.toNat, 29), (d.toNat, 16), (a.toNat, 10), (b.toNat, 4), (m.toNat, 0)]]
  | .umulh st d a b m =>
    [word 0x80c00000 [(st.toNat, 29), (d.toNat, 16), (a.toNat, 10), (b.toNat, 4), (m.toNat, 0)]]
  | .uand st d a b m =>
    [word 0x81000000 [(st.toNat, 29), (d.toNat, 16), (a.toNat, 10), (b.toNat, 4), (m.toNat, 0)]]
  | .uor st d a b m =>
    [word 0x81400000 [(st.toNat, 29), (d.toNat, 16), (a.toNat, 10), (b.toNat, 4), (m.toNat, 0)]]
  | .uxor st d a b m =>
    [word 0x81800000 [(st.toNat, 29), (d.toNat, 16), (a.toNat, 10), (b.toNat, 4), (m.toNat, 0)]]
  | .ushl st d a b m =>
    [word 0x81c00000 [(st.toNat, 29), (d.toNat, 16), (a.toNat, 10), (b.toNat, 4), (m.toNat, 0)]]
  | .ushr st d a b m =>
    [word 0x82000000 [(st.toNat, 29), (d.toNat, 16), (a.toNat, 10), (b.toNat, 4), (m.toNat, 0)]]
  | .umin st d a b m =>
    [word 0x82400000 [(st.toNat, 29), (d.toNat, 16), (a.toNat, 10), (b.toNat, 4), (m.toNat, 0)]]
  | .umax st d a b m =>
    [word 0x82800000 [(st.toNat, 29), (d.toNat, 16), (a.toNat, 10), (b.toNat, 4), (m.toNat, 0)]]
  | .ucmp st c a b m =>
    [word 0x82c00000 [(st.toNat, 29), (c.toNat, 16), (a.toNat, 10), (b.toNat, 4), (m.toNat, 0)]]
  | .usel st d a b c =>
    [word 0x83000000 [(st.toNat, 29), (d.toNat, 16), (a.toNat, 10), (b.toNat, 4), (c.toNat, 0)]]
  | .uaddi st d a i =>
    [word 0x83400000 [(st.toNat, 29), (d.toNat, 16), (a.toNat, 10), (i.toNat, 0)]]
  | .uandi st d a i =>
    [word 0x83800000 [(st.toNat, 29), (d.toNat, 16), (a.toNat, 10), (i.toNat, 0)]]
  | .ucmpi st c n a i =>
    [word 0x83c00000 [(st.toNat, 29), (c.toNat, 19), (n.toNat, 16), (a.toNat, 10), (i.toNat, 0)]]
  | .umovi st d h imm =>
    [word 0x84000000 [(st.toNat, 29), (d.toNat, 16), (h.toNat, 14)], imm.toNat]
  | .uun st d a u m =>
    [word 0x84400000 [(st.toNat, 29), (d.toNat, 16), (a.toNat, 10), (u.toNat, 4), (m.toNat, 0)]]
  | .clog st c x y t =>
    [word 0x84800000 [(st.toNat, 29), (c.toNat, 16), (x.toNat, 10), (y.toNat, 4), (t.toNat, 0)]]
  | .uld st d a t w q x =>
    [word 0x86000000 [(st.toNat, 29), (d.toNat, 16), (a.toNat, 10), (t.toNat, 7), (w.toNat, 4), (q.toNat, 2), (x.toNat, 1)]]
  | .ust st d a t w q x =>
    [word 0x86400000 [(st.toNat, 29), (d.toNat, 16), (a.toNat, 10), (t.toNat, 7), (w.toNat, 4), (q.toNat, 2), (x.toNat, 1)]]
  | .uatom st d a o e c k z =>
    [word 0x86800000 [(st.toNat, 29), (d.toNat, 16), (a.toNat, 10), (o.toNat, 6), (e.toNat, 4), (c.toNat, 2), (k.toNat, 1), (z.toNat, 0)]]
  | .bra st f =>
    [word 0x88000000 [(st.toNat, 29), (f.toNat, 0)]]
  | .brc st c n f =>
    [word 0x88400000 [(st.toNat, 29), (c.toNat, 19), (n.toNat, 18), (f.toNat, 0)]]
  | .brp st p n f =>
    [word 0x88800000 [(st.toNat, 29), (p.toNat, 19), (n.toNat, 18), (f.toNat, 0)]]
  | .brx st a =>
    [word 0x88c00000 [(st.toNat, 29), (a.toNat, 10)]]
  | .call st f =>
    [word 0x89000000 [(st.toNat, 29), (f.toNat, 0)]]
  | .ret st =>
    [word 0x89400000 [(st.toNat, 29)]]
  | .exit st =>
    [word 0x89800000 [(st.toNat, 29)]]
  | .yield st =>
    [word 0x89c00000 [(st.toNat, 29)]]
  | .nop st =>
    [word 0x8a000000 [(st.toNat, 29)]]
  | .wait st k =>
    [word 0x8a400000 [(st.toNat, 29), (k.toNat, 0)]]
  | .sleep st n =>
    [word 0x8a800000 [(st.toNat, 29), (n.toNat, 0)]]
  | .bpt st k =>
    [word 0x8ac00000 [(st.toNat, 29), (k.toNat, 0)]]
  | .trap st k =>
    [word 0x8b000000 [(st.toNat, 29), (k.toNat, 0)]]
  | .tret st =>
    [word 0x8b400000 [(st.toNat, 29)]]
  | .tfence st =>
    [word 0x8b800000 [(st.toNat, 29)]]
  | .mfence st k c =>
    [word 0x8bc00000 [(st.toNat, 29), (k.toNat, 8), (c.toNat, 0)]]
  | .rgrow st n =>
    [word 0x8c000000 [(st.toNat, 29), (n.toNat, 0)]]
  | .rshrink st n =>
    [word 0x8c400000 [(st.toNat, 29), (n.toNat, 0)]]
  | .trld st t a b =>
    [word 0x8d000000 [(st.toNat, 29), (t.toNat, 19), (a.toNat, 13), (b.toNat, 7)]]
  | .trinv st a b p =>
    [word 0x8d400000 [(st.toNat, 29), (a.toNat, 13), (b.toNat, 7), (p.toNat, 6)]]
  | .rdsr st d n =>
    [word 0x8d800000 [(st.toNat, 29), (d.toNat, 16), (n.toNat, 10)]]
  | .wrsr st n a =>
    [word 0x8dc00000 [(st.toNat, 29), (n.toNat, 16), (a.toNat, 10)]]
  | .flgs st d m =>
    [word 0x8e000000 [(st.toNat, 29), (d.toNat, 16), (m.toNat, 8)]]
  | .flgsClr st d m =>
    [word 0x8e000001 [(st.toNat, 29), (d.toNat, 16), (m.toNat, 8)]]
  | .flgsSet st d m =>
    [word 0x8e000002 [(st.toNat, 29), (d.toNat, 16), (m.toNat, 8)]]
  | .binit st n t k =>
    [word 0x90000000 [(st.toNat, 29), (n.toNat, 16), (t.toNat, 15), (k.toNat, 0)]]
  | .barv st n t d k =>
    [word 0x90400000 [(st.toNat, 29), (n.toNat, 16), (t.toNat, 15), (d.toNat, 9), (k.toNat, 0)]]
  | .bexp st n t a =>
    [word 0x90800000 [(st.toNat, 29), (n.toNat, 16), (t.toNat, 15), (a.toNat, 8)]]
  | .bexpImm st n t i =>
    [word 0x90804000 [(st.toNat, 29), (n.toNat, 16), (t.toNat, 15), (i.toNat, 0)]]
  | .bwait st n t a f =>
    [word 0x90c00000 [(st.toNat, 29), (n.toNat, 16), (t.toNat, 15), (a.toNat, 9), (f.toNat, 0)]]
  | .btry st n t a c =>
    [word 0x91000000 [(st.toNat, 29), (n.toNat, 16), (t.toNat, 15), (a.toNat, 9), (c.toNat, 6)]]
  | .binv st n t =>
    [word 0x91400000 [(st.toNat, 29), (n.toNat, 16), (t.toNat, 15)]]
  | .tcopy st c n e d =>
    [word 0x92000000 [(st.toNat, 29), (c.toNat, 19), (n.toNat, 18), (e.toNat, 12), (d.toNat, 6)]]
  | .tsto st c n e d =>
    [word 0x92400000 [(st.toNat, 29), (c.toNat, 19), (n.toNat, 18), (e.toNat, 12), (d.toNat, 6)]]
  | .tpref st c n e =>
    [word 0x92800000 [(st.toNat, 29), (c.toNat, 19), (n.toNat, 18), (e.toNat, 12)]]
  | .mmap st c n e b p l z y =>
    [word 0x94000000 [(st.toNat, 29), (c.toNat, 19), (n.toNat, 18), (e.toNat, 12), (b.toNat, 11), (p.toNat, 8), (l.toNat, 7), (z.toNat, 6), (y.toNat, 3)]]
  | .mmsc st a b =>
    [word 0x94400000 [(st.toNat, 29), (a.toNat, 16), (b.toNat, 10)]]
  | .tzero st t n =>
    [word 0x94800000 [(st.toNat, 29), (t.toNat, 17), (n.toNat, 12)]]
  | .tepi st t e f p a =>
    [word 0x94c00000 [(st.toNat, 29), (t.toNat, 17), (e.toNat, 11), (f.toNat, 8), (p.toNat, 6), (a.toNat, 5)]]
  | .chain st l k =>
    [word 0x96000000 [(st.toNat, 29), (l.toNat, 19), (k.toNat, 0)]]
  | .put st d b =>
    [word 0x98000000 [(st.toNat, 29), (d.toNat, 16), (b.toNat, 12)]]
  | .get st d b =>
    [word 0x98400000 [(st.toNat, 29), (d.toNat, 16), (b.toNat, 12)]]
  | .ratom st d b e o z =>
    [word 0x98800000 [(st.toNat, 29), (d.toNat, 16), (b.toNat, 12), (e.toNat, 6), (o.toNat, 2), (z.toNat, 1)]]
  | .notify st d b =>
    [word 0x98c00000 [(st.toNat, 29), (d.toNat, 16), (b.toNat, 12)]]
  | .waitn st c v f =>
    [word 0x99000000 [(st.toNat, 29), (c.toNat, 16), (v.toNat, 10), (f.toNat, 0)]]
  | .rfence st =>
    [word 0x99400000 [(st.toNat, 29)]]
  | .coll st d a =>
    [word 0x99800000 [(st.toNat, 29), (d.toNat, 16), (a.toNat, 10)]]
  | .colw st d a =>
    [word 0x99c00000 [(st.toNat, 29), (d.toNat, 16), (a.toNat, 10)]]
  | .qpush st d a b =>
    [word 0x9a000000 [(st.toNat, 29), (d.toNat, 16), (a.toNat, 10), (b.toNat, 4)]]
  | .pfence st d a =>
    [word 0x9a400000 [(st.toNat, 29), (d.toNat, 16), (a.toNat, 10)]]
  | .pfenceRel st d a =>
    [word 0x9a400200 [(st.toNat, 29), (d.toNat, 16), (a.toNat, 10)]]
  | .vcdef st d a =>
    [word 0x9c000000 [(st.toNat, 29), (d.toNat, 16), (a.toNat, 10)]]
  | .vcrsz st d a =>
    [word 0x9c400000 [(st.toNat, 29), (d.toNat, 16), (a.toNat, 10)]]
  | .vcret st d a =>
    [word 0x9c800000 [(st.toNat, 29), (d.toNat, 16), (a.toNat, 10)]]
  | .vcq st d a =>
    [word 0x9cc00000 [(st.toNat, 29), (d.toNat, 16), (a.toNat, 10)]]
  | .vcwb st a b c x =>
    [word 0x9d000000 [(st.toNat, 29), (a.toNat, 16), (b.toNat, 10), (c.toNat, 4), (x.toNat, 3)]]
  | .vcinv st a b c x =>
    [word 0x9d400000 [(st.toNat, 29), (a.toNat, 16), (b.toNat, 10), (c.toNat, 4), (x.toNat, 3)]]
  | .monr st d n f =>
    [word 0x9e000000 [(st.toNat, 29), (d.toNat, 16), (n.toNat, 10), (f.toNat, 5)]]
  | .moncCfg st n a =>
    [word 0x9e400000 [(st.toNat, 29), (n.toNat, 16), (a.toNat, 10)]]
  | .moncClr st n =>
    [word 0x9e400100 [(st.toNat, 29), (n.toNat, 16)]]
  | .moncRel st n =>
    [word 0x9e400200 [(st.toNat, 29), (n.toNat, 16)]]
  | .powerGood ..
  | .attestationRequest ..
  | .claim ..
  | .ownerKeyChange ..
  | .peerKeyAdd ..
  | .peerKeyRemove ..
  | .panelNumberChange ..
  | .fatalIslandEvent ..
  | .routeMapInvalidate ..
  | .contextStatePropagate ..
  | .stallCountExpiry ..
  | .sleepExpiry ..
  | .waitHoldEnd ..
  | .mfenceHoldEnd ..
  | .rgrowClaimServed ..
  | .claimDeadlock ..
  | .registerPoison ..
  | .trapEntry ..
  | .exitDrainEnd ..
  | .chainRetire ..
  | .digitResidueMismatch ..
  | .mmaRetire ..
  | .mmapBlockComplete ..
  | .mmapRetire ..
  | .arrayResidueMismatch ..
  | .barvArrival ..
  | .engineLanding ..
  | .acp16Landing ..
  | .barrierTimeout ..
  | .faultRecordEnqueue ..
  | .frplayReplay ..
  | .frplayHandler ..
  | .frplayTerminate ..
  | .frplayNone ..
  | .vcClaimDrained ..
  | .vcSweepLine ..
  | .vcResizeEnd ..
  | .vcDrainStart ..
  | .vcDrainEnd ..
  | .bankFailure ..
  | .hbmUncorrectableError ..
  | .loadReturn ..
  | .storePerformed ..
  | .homeOwnershipRequest ..
  | .hostCxlMemAccess ..
  | .hostBackInvalidation ..
  | .hostCxlCacheSnoop ..
  | .protectionRefusal ..
  | .place ..
  | .halt ..
  | .haltComplete ..
  | .save ..
  | .resume ..
  | .restore ..
  | .restoreComplete ..
  | .terminate ..
  | .release ..
  | .unplace ..
  | .progressBeat ..
  | .heartbeat ..
  | .beatpWrite ..
  | .teamPlacement ..
  | .create ..
  | .enable ..
  | .drain ..
  | .reset ..
  | .destroy ..
  | .qtailWrite ..
  | .queuePacketRead ..
  | .launch ..
  | .waitPacket ..
  | .waitPacketTimeout ..
  | .signal ..
  | .copy ..
  | .vcdefPacket ..
  | .order ..
  | .stamp ..
  | .packetComplete ..
  | .linkTrainingComplete ..
  | .linkTrainingTimeout ..
  | .linkRetrainingTrigger ..
  | .linkRelock ..
  | .linkRetrainingTimeout ..
  | .linkRetryTimer ..
  | .flitIdle ..
  | .flitRequest ..
  | .flitResponse ..
  | .flitNak ..
  | .flitKeyControl ..
  | .routerPacket ..
  | .routeFailureNotice ..
  | .routeErrorNotice ..
  | .replacementRoute ..
  | .routeEntryReuse ..
  | .keyRolloverStart ..
  | .keyExchangeRetry ..
  | .rolloverRetire ..
  | .keySlotExhausted ..
  | .xcellSet ..
  | .xcellReset ..
  | .xcellComplete ..
  | .pfenceDrainEnd ..
  | .hpctlWrite ..
  | .remotePacketAtHome ..
  | .remoteAck ..
  | .remoteTimeout ..
  | .rfenceHoldEnd ..
  | .waitnTimeout ..
  | .ncvalWrite ..
  | .bucketMessage ..
  | .bucketComplete ..
  | .bucketFailure ..
  | .bucketTimeout ..
  | .specialFunctionEntryTaken ..
  | .specialFunctionResult ..
  | .feedTimeout ..
  | .uncorrectableError ..
  | .teamMemoryError ..
  | .lockstepMismatch ..
  | .selfCheckDone ..
  | .powerThrottle ..
  | .clockRecoveryStep ..
  | .overTemperature ..
  | .pwrlimWrite ..
  | .monitorPeriodicSample ..
  | .panelMonitorCfgWrite ..
  | .panelMonitorClrWrite ..
  | .systemRegisterWrite ..
  | .tileMoveRetire ..
  | .tprefLanding ..
  | .orderlyShutdown ..
  | .hostPortLinkChange .. => []

/-- The bytes of an instruction, as they lie in memory (R44). -/
def encodeBytes (i : Instr) : List Byte := (encode i).flatMap fun w => leBytes w 4

/-- The length of an instruction in bytes; zero for a row without words. -/
def instrBytes (i : Instr) : Nat := 4 * (encode i).length

/-- The instruction the decoder reads from an instruction whose bits are w, numbered as spec/opcode_table.json
numbers them; every bit above nbits is zero. -/
def decodeTableWord (nbits w : Nat) : Option Instr :=
  match decode (leBytes (w % 2 ^ nbits) 8) with
  | .ok (i, _) => some i
  | .error _ => none

end Sys2Proof
end

