-- ==== Sys2Proof/Config.lean ====
section
/-! DEFINITION. What one implementation fixes and the spec leaves open: free values, constants with no body, so
that no proof can lean on what they are. -/

namespace Sys2Proof

/-- Clocks that pass on a core at a step, beyond those the spec's interlocks fix (R8; log 4). -/
opaque Config.lostClocks : Nat → Nat

/-- Nanoseconds that panel time advances at a step (R368; log 4). -/
opaque Config.panelNanos : Nat → Nat

/-- The hashes of a line's placement: its share, its bank, its set (R256, R258; log 6). -/
opaque Config.lineHash : Nat → Nat → Nat

/-- Whether the resize sweep moves a line or drops it (R266; log 8). -/
opaque Config.sweepMoves : Nat → Bool

/-- A time that a monitor samples: a latency, a wait, a round trip (R426; log 4). -/
opaque Config.sampled : Nat → Nat

/-- The power a monitor samples, in W (R426; log 4). -/
opaque Config.watts : Nat → Nat

/-- The temperature of a die, in °C (R424; log 4). -/
opaque Config.temperature : Nat → Nat

/-- Which of several unequal entries of a wide page serves an access (R239; log 6). -/
opaque Config.wideEntry : Nat → Nat

/-- Which of the translations an island may still hold an access uses (R241; log 7). -/
opaque Config.heldTranslation : Nat → Nat

/-- Whether race metadata has survived to this access (R284; log 13). -/
opaque Config.metadataKept : Nat → Bool

/-- The bytes of the destination of a failed bucket (R411, R415; log 6). -/
opaque Config.undefinedByte : Nat → BitVec 8

/-- A 64-bit value that the spec leaves open (log 6). -/
opaque Config.freeWord : Nat → BitVec 64

/-- Bytes of HBM traffic of a context in the last 10 µs (R371; log 4). -/
opaque Config.hbmBytes : Nat → Nat

/-- Watts of a context, averaged over the last 100 µs (R371; log 4). -/
opaque Config.contextWatts : Nat → Nat

/-- How far a chain has come when it is saved (R161 to R164; log 6). -/
opaque Config.chainDigits : Nat → BitVec 64

/-- The bytes that are measured of a unit: 0 the control-die firmware, 1 the island management firmware, 2 the store, whose
contents are the argument (R26; log 10). -/
opaque Config.measured : Nat → List (BitVec 8) → List (BitVec 8)

/-- The bytes of a mailbox command that are signed, by its kind and its argument (R15, R16; log 10). -/
opaque Config.command : Nat → List (BitVec 8) → List (BitVec 8)

/-- The signature of a message by the panel's key (R26; log 10). -/
opaque Config.sign : List (BitVec 8) → List (BitVec 8)

/-- Whether a signature over a message verifies under a key (R16, R389; log 10). -/
opaque Config.verify : List (BitVec 8) → List (BitVec 8) → List (BitVec 8) → Bool

/-- An encapsulation key, or the ciphertext that answers one, signed, that the panel sends in an exchange: by its number and
the far end's message (R389; log 10). -/
opaque Config.keyMessage : Nat → List (BitVec 8) → List (BitVec 8)

/-- The AES key that an exchange derives for a direction: by the exchange's number, the far end's message, and whether the
direction is towards this panel (R389; log 10). -/
opaque Config.linkKey : Nat → List (BitVec 8) → Bool → BitVec 256

/-- The salt that it derives for the direction (R389; log 10). -/
opaque Config.linkSalt : Nat → List (BitVec 8) → Bool → BitVec 32

/-- The encrypted payload and the tag of a flit: of the key, the nonce (salt and count), the header, and the payload
(R390; log 10). -/
opaque Config.seal : BitVec 256 → BitVec 32 → Nat → List (BitVec 8) → List (BitVec 8) → List (BitVec 8)

/-- Whether a received flit's tag verifies under the key and nonce (R390; log 10). -/
opaque Config.tagOk : BitVec 256 → BitVec 32 → Nat → List (BitVec 8) → Bool

end Sys2Proof
end

