-- ==== Sys2Proof/Machine/State.lean ====
section
/-! DEFINITION. The state of the machine as plain data, the reasons a step can stop, and the state right after
reset. -/

namespace Sys2Proof.Machine

open Sys2Proof

/-- The one reason a step can stop with a fault. -/
inductive Fault where
  /-- Raised by exec when an instruction with words is executed in a state in which no fragment issues it. It is
  the model's own, and safe: step never does it, since step names the issuing fragment first. -/
  | noIssuer
deriving DecidableEq, Repr

/-- Why the model gives an instruction no meaning. -/
inductive Refusal where
  /-- Raised by an arm of exec that has no meaning yet. Safe: it stops. -/
  | notModelled (mnemonic : String)
deriving DecidableEq, Repr

/-- A finite table by number: keys strictly rising, a key that is absent holds the type's default. -/
abbrev Tbl (α : Type) := List (Nat × α)

/-- A byte memory: (address, byte) pairs, addresses strictly rising, no zero byte listed (log 2). -/
abbrev Memory := List Host.Cell

/-! ## The group (R27 to R38, R186 to R210) -/

/-- Lane rows of one vector register: element l is lane l; a lane past the end holds zero. -/
abbrev Row := List Word

/-- Poison marks of one vector register: lanes whose bits 15:0 and whose bits 31:16 are marked (R209). -/
structure VMark where
  lo : Mask := 0
  hi : Mask := 0
deriving DecidableEq, Repr, Inhabited

/-- One element of the register file that an operation writes late. -/
inductive Elem where
  /-- V[r] of a lane. -/
  | v (r lane : Nat)
  /-- S[r]. -/
  | s (r : Nat)
  /-- P[r] of a lane. -/
  | p (r lane : Nat)
  /-- C[r]. -/
  | c (r : Nat)
deriving DecidableEq, Repr, Inhabited

/-- A write on its way to a register element; `bad` marks the written sub-elements poisoned (R311). -/
structure RegWrite where
  elem : Elem
  val : DWord
  bad : Bool := false
deriving DecidableEq, Repr, Inhabited

/-- A translation register (R242). -/
structure TReg where
  e : Bool := false
  cv : Bool := false
  base : DWord := 0
  vcx : Nat := 0
  pbase : Nat := 0
  rights : BitVec 8 := 0
  limit : DWord := 0
  /-- Bytes of the base page, by which an engine knows the page it pins (R252; log 26). -/
  size : Nat := 65536
deriving DecidableEq, Repr, Inhabited

/-- The cause of a fault or trap, and where (R36, R320). -/
structure Cause where
  cls : BitVec 8
  status : BitVec 8 := 0
  info : Word := 0
  lane : Option Nat := none
deriving DecidableEq, Repr, Inhabited

/-- Why a fragment holds after issue (R189). -/
inductive Hold where
  /-- It does not hold. -/
  | none
  /-- A chain in flight (R158). -/
  | chain
  /-- An MMAP in flight (R178). -/
  | mmap
  /-- WAIT of the classes in k; operations with numbers below `before` count (R198). -/
  | waitOps (k : BitVec 10) (before : Nat)
  /-- SLEEP, and the clock of the group at which its time is over (R199). -/
  | sleep (till : Nat)
  /-- MFENCE: kind, scope, operations issued before it (R310). -/
  | mfence (kind : BitVec 2) (scope : BitVec 3) (before : Nat)
  /-- BARV, waiting for the group's accesses before its arrival (R217). -/
  | barv (bar arrivals : Nat) (d : Nat) (before : Nat)
  /-- BWAIT on a phase, and its continuation (R219). -/
  | bwait (bar : Nat) (phase : Word) (cont : VAddr)
  /-- WAITN: counter, value, condition, continuation (R409). -/
  | waitn (ctr : Nat) (val : DWord) (cond : BitVec 2) (cont : VAddr)
  /-- RGROW, claiming up to n registers per lane (R202). -/
  | rgrow (n : Nat)
  /-- TFENCE (R327). -/
  | tfence (before : Nat)
  /-- RFENCE (R410). -/
  | rfence (before : Nat)
  /-- PFENCE of a port (R387). -/
  | pfence (port : Nat) (d : Nat)
  /-- TRINV draining pins (R245). -/
  | trinv (lo hi ctx : Nat) (frames : List (Nat × Nat)) (drain : Bool) (before : Nat)
deriving DecidableEq, Repr, Inhabited

/-- One fragment of a group (R186, R187). Slot 0 or 1 is resident, 2 is spilled. -/
structure Frag where
  mask : Mask := 0
  pc : VAddr := 0
  slot : Nat := 2
  parked : Option Nat := none
  handler : Bool := false
  hold : Hold := .none
  /-- It has offered its instruction and waits without issuing (R191, R148). -/
  waiting : Bool := false
  /-- Its wait is that of a convergent instruction for the group's other lanes (R191, R336). -/
  conv : Bool := false
  /-- Time in ns that it has waited at its WAITN while its context's partition ran (R409). -/
  waited : Nat := 0
  /-- It waits for room in Q2 or for an entry in Q3, since this panel time (R148). -/
  feedSince : Option Nat := none
  /-- The cause of a fault attributed to it, which it takes when it would next issue: the group was waiting to enter its handler
  for another (R162, R250, R322). -/
  due : Option DWord := none
deriving DecidableEq, Repr, Inhabited

/-- One entry of a feed queue (R144, R145): lane mask, format, function, rounding mode, one value per lane. -/
structure FeedEntry where
  /-- The number of its FEEDW among the operations issued (R198). -/
  id : Nat := 0
  mask : Mask := 0
  fmt : BitVec 2 := 0
  fn : BitVec 7 := 0
  rm : BitVec 2 := 0
  vals : List DWord := []
  /-- Flags each lane's result raises when it is popped and written (R147). -/
  flgs : List (BitVec 5) := []
deriving DecidableEq, Repr, Inhabited

/-- One window of the four feed queues, oldest entry first, and the results the engine owes it (R32, R144). -/
structure FeedWindow where
  q0 : List FeedEntry := []
  q1 : List FeedEntry := []
  q2 : List FeedEntry := []
  q3 : List FeedEntry := []
  /-- The entry the special-function engine has taken and not yet answered. -/
  taken : List FeedEntry := []
  /-- The Q2 entries that the collective engine has taken and not yet answered in Q3 (R417). -/
  due : List FeedEntry := []
deriving DecidableEq, Repr, Inhabited

/-- The classes of WAIT (R198). -/
inductive OpClass where
  | load | store | copy | remote | matrix | feed
deriving DecidableEq, Repr, Inhabited

/-- What an operation carries from its issue to its completion, beside its register writes. -/
inductive Payload where
  | none
  /-- An MMA: tile, half, type, zero flag, rounding mode, one A and one B image per lane or column, their scales
  (R170 to R173). -/
  | mma (tile : Nat) (half : BitVec 1) (ty : BitVec 3) (zero : Bool) (rm : BitVec 2) (a b : List Bits256) (sa sb : List Byte)
  /-- A TLD of a tile. -/
  | tld (tile : Nat)
  /-- A TST: tile, half, and the captured row of each lane of the operation's mask. -/
  | tst (tile : Nat) (half : BitVec 1) (rows : List (Nat × List Word))
  /-- A TEPI of a tile, and the flags it raises. -/
  | tepi (tile : Nat) (flags : BitVec 5)
  /-- An engine operation of the island, by number. -/
  | engine (id : Nat)
  /-- A remote operation of the island, by number. -/
  | remote (id : Nat)
deriving DecidableEq, Repr, Inhabited

/-- An operation the group has issued and that has not completed (R198). -/
structure FlightOp where
  id : Nat
  cls : OpClass
  mask : Mask := 0
  pc : VAddr := 0
  /-- An atomic: a release fence waits for it as for a store (R310). -/
  atomic : Bool := false
  writes : List RegWrite := []
  payload : Payload := .none
  /-- Tiles whose block a residue mismatch has already recomputed (R185). -/
  rerun : List Nat := []
deriving DecidableEq, Repr, Inhabited

/-- The stream of a link in a lane: its class code (R164), the sign, magnitude m × 2^e of a finite nonzero value, the digits
that it needs, and the flags that it gives; a compare streams one digit. -/
structure StreamVal where
  cls : Nat := 6
  neg : Bool := false
  mag : Nat := 0
  exp : Int := 0
  need : Nat := 0
  flg : BitVec 5 := 0
  /-- Clocks since the header's issue (R161): of its first digit, of its decision, and of its cut. -/
  start : Nat := 0
  decided : Option Nat := none
  cutAt : Option Nat := none
deriving DecidableEq, Repr, Inhabited

/-- A chain in flight (R155 to R165). -/
structure ChainRec where
  id : Nat := 0
  pc : VAddr := 0
  mask : Mask := 0
  rm : BitVec 2 := 0
  writes : List RegWrite := []
  flags : BitVec 5 := 0
  cuts : Nat := 0
  /-- The number of links, and the sinks of the header word. -/
  links : Nat := 0
  sinks : BitVec 8 := 0
  /-- The cut links of each lane: bit j - 1 for link j (R160). -/
  cutIn : Tbl Nat := []
  /-- The streams of its links, by lane (R164). -/
  streams : Tbl (List StreamVal) := []
  /-- A residue mismatch has already made it run again (R162). -/
  rerun : Bool := false
  /-- Digit clocks that had elapsed when it was last saved (R164). -/
  clk : Nat := 0
deriving DecidableEq, Repr, Inhabited

/-- An MMAP in flight (R177 to R179). -/
structure MmapRec where
  id : Nat := 0
  pc : VAddr := 0
  mask : Mask := 0
  word0 : DWord := 0
  word1 : DWord := 0
  rm : BitVec 2 := 0
  /-- The fields of the instruction: base, epilogue, LAST, Z, TYPE. -/
  base : Nat := 0
  epi : BitVec 2 := 0
  last : Bool := false
  zero : Bool := false
  ty : BitVec 3 := 0
  /-- K blocks completed. -/
  done : Nat := 0
  /-- It goes on from PROG, on saved words (R179). -/
  resumed : Bool := false
  flags : BitVec 5 := 0
  cuts : Nat := 0
  /-- Tiles whose current block has been recomputed (R185). -/
  rerun : List Nat := []
deriving DecidableEq, Repr, Inhabited

/-- A fixed-latency result still to come: the register, the lanes, and the clock of the group when it is ready (R46). -/
structure Pending where
  reg : Elem
  mask : Mask := 0
  ready : Nat := 0
deriving DecidableEq, Repr, Inhabited

/-- A held fault: TCAUSE, the PC it is attributed to, and whether a remote operation gave it (R327, R410). -/
structure HeldFault where
  cause : DWord
  pc : VAddr
  remote : Bool := false
deriving DecidableEq, Repr, Inhabited

/-- A trap entry that waits for the group's chains and MMAP (R322). -/
structure TrapReq where
  cause : DWord
  tspc : VAddr
  mask : Mask
  /-- The entry of the held list that is surfaced, and that the trap's entry removes (R327, R410). -/
  drop : Option HeldFault := none
deriving DecidableEq, Repr, Inhabited

/-- The states of a group in its slot (R192). -/
inductive GroupState where
  | active | spilled | exited
deriving DecidableEq, Repr, Inhabited

/-- The writable special registers of a group (R33, R36). -/
structure SpecialRegs where
  prog : DWord := 0
  flags : DWord := 0
  fpctl : DWord := 0
  tcause : DWord := 0
  tspc : DWord := 0
  tstat : DWord := 0
  tmask : DWord := 0
  cutcnt : DWord := 0
  xlflag : DWord := 0
deriving DecidableEq, Repr, Inhabited

/-- What is fixed for the group's lifetime (R34, R37): its place and its kernel's header values. -/
structure Ident where
  ctx : Nat := 0
  kern : Word := 0
  teamId : Word := 0
  groupId : Nat := 0
  /-- The core, island and slot it stands on. -/
  core : Nat := 0
  island : Nat := 0
  slot : Nat := 0
  /-- What CORE and ISLAND read: the values at its start (R37, R339). -/
  coreReg : Nat := 0
  islandReg : Nat := 0
  /-- The team record it belongs to. -/
  team : Nat := 0
  /-- The grid record it belongs to. -/
  grid : Nat := 0
  /-- 0 W16, 1 W32, 2 W64. -/
  width : BitVec 2 := 0
  priv : Bool := false
  /-- It runs on the island management core (R318). -/
  mgmt : Bool := false
  sbchk : Bool := false
  pool : Bool := false
  /-- Header base and maximum of registers per lane. -/
  base : Nat := 8
  max : Nat := 8
  handlerPc : Option VAddr := none
  /-- The VCX of the traffic to its save area: binding slot 5 of its kernel (R345). -/
  areaVcx : Option Nat := none
deriving DecidableEq, Repr, Inhabited

/-- The register file of a group, with its poison marks (R30, R209). -/
structure Regs where
  v : Tbl Row := []
  s : Tbl DWord := []
  p : Tbl Mask := []
  c : BitVec 8 := 0
  t : Tbl TReg := []
  badV : Tbl VMark := []
  badS : DWord := 0
  badP : Tbl Mask := []
  badC : BitVec 8 := 0
deriving DecidableEq, Repr, Inhabited

/-- For each thread, how many of its stretches of accesses happen before: a lane's accesses between two of its releases are one
stretch (R278; log 13). -/
abbrev Clock := Tbl Nat

/-- A release that a value carries: what happens before its acquires, its scope, and its group by thread and place; none is the
host (R277, R293). -/
structure Rel where
  clk : Clock := []
  scope : Nat := 0
  who : Option (Nat × Ident) := none
deriving DecidableEq, Repr, Inhabited

/-- What a lane knows: the accesses of others that happen before its next, its own stretches, the scopes of release fences since
its last store, and the releases that its last load or atomic read (R277; log 13). -/
structure Past where
  know : Clock := []
  own : Nat := 0
  fences : List Nat := []
  read : List Rel := []
deriving DecidableEq, Repr, Inhabited

/-- One group (R27). -/
structure Group where
  state : GroupState := .active
  halted : Bool := false
  ident : Ident := {}
  regs : Regs := {}
  special : SpecialRegs := {}
  msa : BitVec 6 := 63
  msb : BitVec 6 := 63
  allot : Nat := 8
  frags : List Frag := []
  /-- Lanes that EXIT has removed (R191). -/
  exitedLanes : Mask := 0
  hmode : Bool := false
  hset : Mask := 0
  win0 : FeedWindow := {}
  win1 : FeedWindow := {}
  /-- The stream that a COLW bound to the program window, by its bucket's number (R417). -/
  stream : Option Nat := none
  held : List HeldFault := []
  ops : List FlightOp := []
  chains : List ChainRec := []
  /-- Rounding mode a saved chain restarts with (R164): header PC, mask, rm. -/
  chainRm : List (VAddr × Mask × BitVec 2) := []
  mmap : Option MmapRec := none
  mmapSaved : Option (DWord × DWord × BitVec 2) := none
  trapReq : Option TrapReq := none
  /-- The last live lane has exited and the drain of R196 is under way: the EXIT's PC and mask. -/
  draining : Option (VAddr × Mask) := none
  /-- A stall count still pending (R45). -/
  stall : Nat := 0
  /-- The group's own clock, for R46 and R47: the earliest clock of its next issue. -/
  clk : Nat := 0
  score : List Pending := []
  /-- When it last became ready, and whether it is (R205, R206). -/
  ready : Nat := 0
  isReady : Bool := false
  /-- It has been held or has waited since its last issue, so that clocks have passed (R47; log 15). -/
  idle : Bool := false
  /-- The order in which it started on its core (R203). -/
  age : Nat := 0
  /-- For happens-before (log 13): its number as a thread, the step before which every access happens before its own, what its
  lanes know from its launch, and what each lane knows besides. -/
  thread : Nat := 0
  floor : Nat := 0
  base : Clock := []
  past : Tbl Past := []
deriving DecidableEq, Repr, Inhabited

/-- The fragment that issues the instruction being executed: the group's key and the fragment's place in its list. -/
structure Issuer where
  grp : Nat
  frag : Nat
deriving DecidableEq, Repr, Inhabited

/-! ## The team (R27, R40, R166 to R170, R211 to R214) -/

/-- The states of a barrier (R214). -/
inductive BarState where
  | idle | armed | complete | invalid | timedOut
deriving DecidableEq, Repr, Inhabited

/-- A hardware barrier (R212). -/
structure Bar where
  state : BarState := .idle
  ph : Word := 0
  expect : Nat := 0
  remain : Nat := 0
  pend : Int := 0
  eng : Nat := 0
  /-- The scope in which an instruction last named it (R234). -/
  teamScope : Bool := false
  /-- TIMER, in ns (R232). -/
  timer : Nat := 0
  /-- What the arrivals of the present phase release, and those of the phases done (R213; log 13). -/
  arrived : Clock := []
  released : Clock := []
deriving DecidableEq, Repr, Inhabited

/-- The states of an accumulator tile (R169). -/
inductive TileState where
  | zeroed | accumulating | finished | draining
deriving DecidableEq, Repr, Inhabited

/-- An accumulator tile: 1,024 elements of 32 bits by number, zeros unlisted (R166). -/
structure Tile where
  state : TileState := .zeroed
  /-- A Draining tile goes back to Zeroed. -/
  wasZero : Bool := false
  elems : Tbl Word := []
  /-- Lost 32-byte words, by element number / 8 (R421). -/
  dead : List Nat := []
deriving DecidableEq, Repr, Inhabited

/-- A team of groups on 1, 2 or 4 cores of one quad. -/
structure Team where
  island : Nat := 0
  ctx : Nat := 0
  grid : Nat := 0
  kern : Word := 0
  teamId : Word := 0
  /-- Its cores, in the order of R40. -/
  cores : List Nat := []
  width : BitVec 2 := 0
  pool : Bool := false
  /-- Team memory per core in bytes, tiles per core, barriers per core. -/
  tmem : Nat := 0
  ntiles : Nat := 0
  nbars : Nat := 0
  /-- The barrier time-out in µs: 1000 where the header says 0. -/
  bartime : Nat := 1000
  /-- Base registers per lane (R29). -/
  regBase : Nat := 8
  mem : Memory := []
  /-- 32-byte words lost to an uncorrectable error (R421). -/
  dead : List Nat := []
  /-- By core index × 32 + tile number. -/
  tiles : Tbl Tile := []
  /-- By core index × 64 + barrier number. -/
  bars : Tbl Bar := []
  /-- Keys of its groups, by GROUPID. -/
  groups : List Nat := []
  /-- GROUPIDs that have exited (R222). -/
  exited : List Nat := []
deriving DecidableEq, Repr, Inhabited

/-! ## The island -/

/-- The states of a context on an island (R316). -/
inductive CtxState where
  | built | resident | running | halting | parked | saved | faulted | terminated
deriving DecidableEq, Repr, Inhabited

/-- Why a context is Faulted (R319, R331, R341). -/
inductive FaultedBy where
  | none | freeze | heartbeat | uncorr | quarantine | lostBank
deriving DecidableEq, Repr, Inhabited

/-- What a group in an image had for happens-before: its place (partition-relative core and slot), by which its return knows it,
its thread's number, and the fields of Group of these names (log 13). -/
structure KeptGroup where
  core : Nat := 0
  slot : Nat := 0
  kern : Word := 0
  teamId : Word := 0
  thread : Nat := 0
  floor : Nat := 0
  base : Clock := []
  past : Tbl Past := []
deriving DecidableEq, Repr, Inhabited

/-- What the groups and the barriers of a context in its image had for happens-before; the barriers by their team's kernel, its
TEAMID and its grid (log 13). -/
structure Kept where
  groups : List KeptGroup := []
  bars : List (Word × Word × Nat × Tbl Bar) := []
deriving DecidableEq, Repr, Inhabited

/-- A context on an island: its state and the copy of its descriptor (R314 to R316). -/
structure Context where
  state : CtxState := .built
  priv : Bool := false
  shrink : Bool := false
  qmask : DWord := 0
  saveBase : Nat := 0
  shadow : Nat := 63
  pwb : Nat := 0
  bwb : Nat := 0
  nfirst : Nat := 0
  ncnt : Nat := 0
  faultedBy : FaultedBy := .none
  /-- The halt has ended and the image has been taken (R333, R334). -/
  captured : Bool := false
  /-- A RESTORE has been accepted and is under way (R319). -/
  restoring : Bool := false
  /-- It has entered Faulted from Saved: its image is in HBM, and it stands on no quads (R317). -/
  unseated : Bool := false
  /-- A refused request has frozen its partition (R331). -/
  frozen : Bool := false
  /-- What its groups and barriers had for happens-before when its image was taken (log 13). -/
  kept : Kept := {}
  /-- Panel time of its latest HBM traffic by the command processor, an engine or a remote operation (R371). -/
  trafficAt : Option Nat := none
  /-- Buckets completed or failed (CSEQ, R414). -/
  cseq : Nat := 0
  /-- Releases written while the context was off its cores: token and action (R251). -/
  released : List (Nat × Nat) := []
deriving DecidableEq, Repr, Inhabited

/-- An outstanding park (R247, R248). -/
structure Park where
  grp : Nat := 0
  ctx : Nat := 0
  mask : Mask := 0
  /-- Its last record, words 0 to 11. -/
  record : List DWord := []
deriving DecidableEq, Repr, Inhabited

/-- An entry an island holds in a TLB or walk cache: the entry, its level and address, and the virtual range it
covers (R240, R241). -/
structure TlbEntry where
  ctx : Nat := 0
  level : Nat := 0
  va : Nat := 0
  size : Nat := 0
  entry : DWord := 0
  addr : Nat := 0
deriving DecidableEq, Repr, Inhabited

/-- An entry of a context's VC table that an island holds in a cache (R257). -/
structure VctEntry where
  ctx : Nat := 0
  vcx : Nat := 0
  val : Byte := 0
deriving DecidableEq, Repr, Inhabited

/-! ## Virtual caches (R255 to R268) -/

/-- A share: banks of one slice (R255). -/
structure Share where
  slice : Nat := 0
  first : Nat := 0
  banks : Nat := 0
deriving DecidableEq, Repr, Inhabited

/-- The states of a VC (R262). -/
inductive VcState where
  | undefined | defined | active | resizing | draining | retired | failed
deriving DecidableEq, Repr, Inhabited

/-- The definition of a VC, from its CDR (R259). -/
structure VcDef where
  owner : Nat := 0
  shadow : Bool := false
  rc : Bool := false
  affine : Bool := false
  fifo : Bool := false
  policy : BitVec 2 := 0
  waysCode : BitVec 3 := 0
  lineCode : BitVec 2 := 0
deriving DecidableEq, Repr, Inhabited

/-- A VC of an island (R262). -/
structure Vc where
  state : VcState := .undefined
  /-- Object-table index of the record that defined it. -/
  record : Nat := 0
  spec : VcDef := {}
  /-- The deckle, and while Resizing the new map N (R266). -/
  deckle : List Share := []
  /-- The old map O while Resizing. -/
  oldMap : List Share := []
  /-- Banks claimed from VC 0 that VC 0 has not yet drained. -/
  claim : List Nat := []
  /-- The new map had a share when the resize began. -/
  hadShare : Bool := false
  shrunk : Bool := false
  psn : Bool := false
  mva : Nat := 0
  mvs : Nat := 0
  swb : Nat := 0
  /-- The counter to increment when the step under way ends. -/
  notify : Option Nat := none
  /-- Banks of removed shares that return to VC 0 when the shrink or drain ends (R268). -/
  owed : List Nat := []
  /-- The retiring VC's drain has begun (R265); operations below this number count before it. -/
  draining : Bool := false
  before : Nat := 0
deriving DecidableEq, Repr, Inhabited

/-- A recorded access to bytes of a sector (R283): its first byte and their number, its thread and stretch, its group's place. -/
structure RaceRec where
  lo : Nat := 0
  n : Nat := 0
  thread : Nat := 0
  count : Nat := 0
  write : Bool := false
  /-- The scope of an atomic or of an LDA or STA. -/
  scope : Option Nat := none
  who : Ident := {}
  step : Nat := 0
deriving DecidableEq, Repr, Inhabited

/-- A 64-byte sector that a VC holds: its place, its line, and its metadata (R258, R261, R283). -/
structure Sector where
  vc : Nat := 0
  bank : Nat := 0
  /-- First sector of its line. -/
  line : Nat := 0
  /-- It lies in the old map of a Resizing VC. -/
  old : Bool := false
  dirty : Bool := false
  /-- Its line's way in its set, and order of filling. -/
  way : Nat := 0
  filled : Nat := 0
  races : List RaceRec := []
deriving DecidableEq, Repr, Inhabited

/-- Host state of a sector of device memory (R288). -/
inductive HostSt where
  | none | shared | owned
deriving DecidableEq, Repr, Inhabited

/-- CXL.cache state of a sector of host memory (R288). -/
inductive CxlSt where
  | invalid | shared | exclusive | modified
deriving DecidableEq, Repr, Inhabited

/-- Ownership requests that reach the home of a sector in one clock (R291): the step of the latest, PTR before them, and the core
and the L1 of each, in their order. -/
structure Tie where
  step : Nat := 0
  ptr : Nat := 0
  asked : List (Nat × Nat) := []
deriving DecidableEq, Repr, Inhabited

/-- The home's record of a sector (R288); an L1 is named by its core, or by 256 + its quad when pooled. -/
structure Home where
  shr : List Nat := []
  ownl : Option Nat := none
  /-- The owner has stored in its copy, which is dirty (R289, R418). -/
  wrote : Bool := false
  hst : HostSt := .none
  cxl : CxlSt := .invalid
  /-- L1s that hold an SI copy, which the home does not record. -/
  si : List Nat := []
  tie : Tie := {}
deriving DecidableEq, Repr, Inhabited

/-- A location for happens-before: the releases that its value carries, and the lanes of each group that have accessed it (R276,
R278; log 13). -/
structure Spot where
  rels : List Rel := []
  lanes : Tbl Mask := []
deriving DecidableEq, Repr, Inhabited

/-- The engines that take range locks (R230, R231). -/
inductive Engine where
  | tcopy | tsto | acp16 | get | put
deriving DecidableEq, Repr, Inhabited

/-- An entry of the range-lock table (R230): keyed by context or by team, a byte range of global or team memory. -/
structure RangeLock where
  op : Nat := 0
  engine : Engine := .tcopy
  team : Bool := false
  owner : Nat := 0
  lo : Nat := 0
  hi : Nat := 0
  dest : Bool := true
deriving DecidableEq, Repr, Inhabited

/-- An entry of the page-lock table (R252): a frame, its size, its pin count, and where it was mapped. -/
structure Pin where
  frame : Nat := 0
  size : Nat := 0
  count : Nat := 0
  /-- Contexts and virtual addresses at which it was pinned. -/
  maps : List (Nat × Nat) := []
deriving DecidableEq, Repr, Inhabited

/-- The entry whose D the first write through a translation sets: its address, the value walked, and the context and the
virtual address that it translates (R240). -/
structure DirtyRef where
  addr : Nat := 0
  entry : DWord := 0
  ctx : Nat := 0
  va : Nat := 0
deriving DecidableEq, Repr, Inhabited

/-- A piece of at most 64 bytes of an engine's work: its virtual and physical address and VC, the last two none where its
elements are out of bounds; its team address; its bits. -/
structure EnginePiece where
  va : Nat := 0
  phys : Option Nat := none
  vn : Nat := 0
  taddr : Nat := 0
  bits : Nat := 0
  dirtyAt : Option DirtyRef := none
deriving DecidableEq, Repr, Inhabited

/-- An engine operation in flight: TCOPY, TSTO, TPREF or ACP16 (R227, R229). -/
structure EngineOp where
  kind : Engine := .tcopy
  grp : Nat := 0
  /-- The age of the issuing group, which tells it from a later group in its slot. -/
  age : Nat := 0
  pc : VAddr := 0
  ctx : Nat := 0
  team : Nat := 0
  pieces : List EnginePiece := []
  /-- Team spans written as zero before the pieces of a TCOPY land. -/
  clear : List (Nat × Nat) := []
  count : Nat := 0
  /-- The key of its barrier in its team. -/
  bar : Nat := 0
  d : Nat := 63
  pins : List Nat := []
  /-- The team's memory and its lost words, where its context has been terminated before the landing (R332). -/
  own : Option (Memory × List Nat) := none
deriving DecidableEq, Repr, Inhabited

/-- The poison marks and the bytes of one island's HBM, and its system registers of memory management. -/
structure IslandMem where
  bytes : Memory := []
  /-- Marked 16-byte quarters, by address / 16 (R311). -/
  poison : List Nat := []
  /-- Sectors whose data a table read finds uncorrectable are those with a marked quarter (R241). -/
  objBase : Nat := 0
  ctxBase : Nat := 0
  frqBase : Nat := 0
  frqHead : Nat := 0
  frqTail : Nat := 0
  /-- Records that wait for room, oldest first (R249). -/
  frqWait : List (List DWord) := []
  nextToken : Nat := 1
  parks : Tbl Park := []
  tlb : List TlbEntry := []
  vct : List VctEntry := []
  vcs : Tbl Vc := []
  /-- Banks in the failed set (R256), by 24 × slice + bank. -/
  failed : List Nat := []
  /-- Uncorrectable errors found in banks: bank, sector where one is named, panel time (R419). -/
  bankErrors : List (Nat × Option Nat × Nat) := []
  /-- Sectors held by a VC, by physical address / 64. -/
  sectors : Tbl Sector := []
  /-- Lines filled so far, and the replacement tree of each set, by VC, share and set (R258). -/
  fills : Nat := 0
  trees : Tbl Nat := []
  home : Tbl Home := []
  /-- The rotating pointer of a home slice (R291). -/
  ptr : Tbl Nat := []
  /-- Tickets the sequencer has given (R286). -/
  ticket : Nat := 0
  locks : List RangeLock := []
  /-- Instructions that wait for entries of the range-lock table, in the order in which they asked (R230): group, its age, PC. -/
  lockQueue : List (Nat × Nat × VAddr) := []
  pins : List Pin := []
  engines : Tbl EngineOp := []
deriving DecidableEq, Repr, Inhabited

/-! ## Remote operations, buckets, links, monitors -/

/-- A part of a remote operation that one packet carries, sent and not yet acknowledged (R403). -/
structure RemotePart where
  rseq : Nat := 0
  off : Nat := 0
  len : Nat := 0
  /-- The last part of its operation. -/
  final : Bool := true
  /-- A send attempt has found no qualifying route and waits for one (R402). -/
  waiting : Bool := false
  /-- Sends so far, real or counted, and the panel time of the last (R402). -/
  sends : Nat := 0
  lastSend : Nat := 0
deriving DecidableEq, Repr, Inhabited

/-- A remote operation that is neither acknowledged nor failed (R396 to R403). -/
structure RemoteOp where
  kind : RemoteKind := .put
  grp : Nat := 0
  age : Nat := 0
  pc : VAddr := 0
  ctx : Nat := 0
  panel : Nat := 0
  isl : Nat := 0
  /-- FA bits 56:0 and LOC. -/
  va : Nat := 0
  loc : DWord := 0
  len : Nat := 0
  rne : Bool := false
  rctr : Nat := 0
  lne : Bool := false
  lctr : Nat := 0
  aop : Nat := 0
  small : Bool := false
  expect : DWord := 0
  d : Nat := 63
  /-- The local pieces of PUT and GET, translated at issue; a piece's team address is its offset. -/
  pieces : List EnginePiece := []
  pins : List Nat := []
  /-- The parts sent and not acknowledged. -/
  parts : List RemotePart := []
  /-- Bytes whose parts have been sent at least once, and whether a part is still to be sent first. -/
  next : Nat := 0
  todo : Bool := true
  /-- Panel time of its first send (R426). -/
  since : Option Nat := none
  /-- RATOM's old value, when it has returned, and whether poisoned data was met (R227, R398). -/
  old : DWord := 0
  bad : Bool := false
  /-- Quarters that the marks of a GET's data have marked (R312, R398). -/
  soiled : List Nat := []
deriving DecidableEq, Repr, Inhabited

/-- A packet performed at its home: source panel and island, RSEQ, the old value (R403). -/
structure Performed where
  panel : Nat := 0
  isl : Nat := 0
  rseq : Nat := 0
  old : DWord := 0
  bad : Bool := false
deriving DecidableEq, Repr, Inhabited

/-- A bucket running on an island's collective engine (R411 to R417). -/
structure Bucket where
  ctx : Nat := 0
  bid : Nat := 0
  bq32 : Bool := false
  count : Nat := 0
  parent : Nat := 63
  children : List Nat := []
  nne : Bool := false
  nctr : Nat := 0
  /-- It gives a group's stream in place of src and dst. -/
  streamed : Bool := false
  dst : List EnginePiece := []
  wmark : List EnginePiece := []
  scratch : List EnginePiece := []
  pins : List Nat := []
  /-- The issuing kernel's barrier time-out in µs, and the panel time of acceptance. -/
  bartime : Nat := 1000
  since : Nat := 0
  /-- Inputs so far, in element order. -/
  inputs : List Word := []
  /-- Scales received from each child, and those formed at the root or received from the parent. -/
  upScales : List (Nat × List Byte) := []
  downScales : Option (List Byte) := none
  /-- The scales have been sent up. -/
  sentScales : Bool := false
  /-- Node values or sums received from each child so far, in element order. -/
  upValues : List (Nat × List Word) := []
  /-- Node values formed and sent up so far. -/
  sent : Nat := 0
  /-- Results formed or received so far. -/
  results : List Word := []
  /-- A STATUS of R415 that the bucket is to fail with. -/
  failing : Option Nat := none
  /-- The sender of a stray message, which is told too. -/
  stray : Option Nat := none
deriving DecidableEq, Repr, Inhabited

/-- A collective stream of a group (R417): elements taken from Q2, results so far, elements answered in Q3. -/
structure Stream where
  count : Nat := 0
  taken : Nat := 0
  results : List Word := []
  given : Nat := 0
  /-- The entries taken and not yet answered, while the group is off its cores (R406, R417). -/
  owed : List FeedEntry := []
deriving DecidableEq, Repr, Inhabited

/-- The states of an optical port (R374). -/
inductive LinkState where
  | dark | training | up | retraining | fenced | failed | quarantined
deriving DecidableEq, Repr, Inhabited

/-- A flit to be placed in a replay buffer (R376): its KIND, the packet it belongs to, whether it is that packet's last, and
its payload. -/
structure FlitPiece where
  kind : Nat := 1
  pkt : Option RemotePacket := none
  last : Bool := true
  payload : List Byte := []
deriving DecidableEq, Repr, Inhabited

/-- A flit in a replay buffer (R376, R390): SEQ, KIND, key slot and its count, the packet it belongs to, whether it is that
packet's last, its 64 bytes as they first went out, and how often it has been replayed (R377). -/
structure BufferedFlit where
  seq : Nat := 0
  kind : Nat := 1
  ks : Nat := 0
  txc : Nat := 0
  pkt : Option RemotePacket := none
  last : Bool := true
  bytes : List Byte := []
  replays : Nat := 0
  /-- It was placed during a retraining, and goes out for the first time after the replay (R374). -/
  paused : Bool := false
deriving DecidableEq, Repr, Inhabited

/-- What an exchange derives for one direction of an edge link (R389): an AES key and a salt. -/
structure LinkKey where
  key : BitVec 256 := 0
  salt : Word := 0
deriving DecidableEq, Repr, Inhabited

/-- A key slot of an edge link (R389 to R391): its key for each direction. -/
structure KeySlot where
  tx : Option LinkKey := none
  rx : Option LinkKey := none
  /-- Flits sealed and flits accepted under it. -/
  txc : Nat := 0
  rxc : Nat := 0
  /-- Panel time at which it was loaded. -/
  loaded : Nat := 0
deriving DecidableEq, Repr, Inhabited

/-- An optical port (R373 to R378). -/
structure Port where
  state : LinkState := .dark
  /-- An edge fibre link, and the bundle its light leads to (R383). -/
  edge : Bool := false
  bundle : Nat := 0
  /-- The island and port at the far end, on this panel. -/
  peer : Option (Nat × Nat) := none
  /-- Waveguides that do not work: 0 to 8 transmit, 9 to 17 receive (R12, R373). -/
  lost : List Nat := []
  /-- SEQ and ACK (R374, R375): the last SEQ given, and the SEQ of the last flit accepted in order. -/
  seq : Nat := 0
  ack : Nat := 0
  buffer : List BufferedFlit := []
  /-- Flits of a packet that has left the router and for which the buffer had no room yet (R376). -/
  placing : List FlitPiece := []
  /-- The NAKs due, one for each discarded flit, oldest first: the SEQ accepted last before it (R376). -/
  naks : List Nat := []
  /-- Panel times of discards (R377). -/
  discards : List Nat := []
  /-- Panel time of the retraining trigger or of the start of training. -/
  since : Nat := 0
  /-- Panel times of entries into Failed (R452). -/
  failures : List Nat := []
  /-- The classes of atomics that the far end advertises, for the link and for its panel's internal routes (R380). -/
  cap : Nat := 7
  /-- Requests sent through the port without their response yet, by requester and part (R387). -/
  owed : List (Nat × Nat × Nat × Nat) := []
  fencedAt : Nat := 0
  /-- A retraining goes on under its own bound while the port is Fenced, or Up again (R374). -/
  relock : Bool := false
  /-- The port has gone Dark under its fence, which PFENCE.REL lifts (R388; log 48). -/
  fence : Bool := false
  /-- The last PFENCE returned 0x00 (R387). -/
  drained : Bool := false
  /-- The port's circuit has changed since the fence. -/
  changed : Bool := false
  slot0 : KeySlot := {}
  slot1 : KeySlot := {}
  curSlot : Nat := 0
  /-- A key exchange into the empty slot is under way, or waits for its retry (R391). -/
  rolling : Bool := false
  retry : Bool := false
  retryAt : Nat := 0
  /-- The other slot holds new keys that this end does not seal under yet (R391). -/
  fresh : Bool := false
  /-- At training: the far end's encapsulation key has been answered, and its ciphertext has come; and the flits of KIND 4
  sent in clear (R389). -/
  asked : Bool := false
  answered : Bool := false
  clear : List (List Byte) := []
  /-- SEQ whose tag has failed once (R390). -/
  tagFail : Option Nat := none
deriving DecidableEq, Repr, Inhabited

/-- The switch matrix of an optical engine die (R384 to R386): cells by 16 × physical row + column. -/
structure Matrix where
  rowMap : List Nat := List.range 16
  spares : List Nat := [16, 17]
  set : List Nat := []
  wear : Tbl Nat := []
  worn : List Nat := []
  busy : Bool := false
  /-- The write under way: ACT, COL, ROW. -/
  act : Nat := 0
  col : Nat := 0
  row : Nat := 0
  lastWear : Nat := 0
  lastRow : Nat := 0
  status : Nat := 0
deriving DecidableEq, Repr, Inhabited

/-- A monitor (R425, R427). -/
structure Monitor where
  src : Nat := 0
  base : Nat := 0
  sh : Nat := 0
  owner : Nat := 0
  min : Nat := 0xFFFFFFFF
  max : Nat := 0
  count : Nat := 0
  sum : Nat := 0
  bins : Tbl Nat := []
deriving DecidableEq, Repr, Inhabited

/-- What a core keeps: CLOCK (R36), CHTAG (R165), and its progress beats (R340). -/
structure Core where
  clock : Nat := 0
  chtag : Word := 0x01640001
  /-- It has beaten in this interval. -/
  moved : Bool := true
  missed : Nat := 0
  /-- Panel time at which it last issued an instruction (R371). -/
  issued : Option Nat := none
deriving DecidableEq, Repr, Inhabited

/-- One island, by logical number. -/
structure Island where
  site : Nat := 0
  /-- The physical quads that its logical quads stand on, by logical number (R12). -/
  quads : List Nat := List.range 64
  mem : IslandMem := {}
  ctxs : Tbl Context := []
  /-- Notify counters and NCSEL (R407, R408). -/
  ncs : Tbl DWord := []
  ncsel : Nat := 0
  /-- What the increments of each counter release, and what its SC atomics do (R277, R286; log 13). -/
  ncClk : Tbl Clock := []
  scClk : Clock := []
  /-- CTXST: BUSY, CTX, STATUS (R318). -/
  ctxBusy : Bool := false
  ctxCtx : Nat := 0
  ctxStatus : Nat := 0
  /-- BUSY has fallen since the last command: the interrupt that the management core is given (R319). -/
  busyFell : Bool := false
  beatp : Nat := 100
  cores : Tbl Core := []
  remotes : Tbl RemoteOp := []
  /-- Next RSEQ towards each destination, by 64 × panel + island (R403). -/
  rseq : Tbl Nat := []
  /-- Packets performed here, newest first, at most 1,024 of each source (R403). -/
  performed : List Performed := []
  buckets : Tbl Bucket := []
  /-- Streams of groups, by the number of their bucket, and the contexts and bids whose last bucket has ended. -/
  streams : Tbl Stream := []
  ended : List (Nat × Nat) := []
  ports : Tbl Port := []
  /-- Packets that its router has delivered to it, oldest first. -/
  inbox : List RemotePacket := []
  matrix : Matrix := {}
  /-- The cells of its route map: by destination island, and by 64 + destination panel (R380). -/
  cells : Tbl DWord := []
  monitors : Tbl Monitor := []
  pwrlim : Nat := 1050
  mhz : Nat := 2000
  /-- Panel time of the last step of the clock (R424). -/
  clockStep : Nat := 0
deriving DecidableEq, Repr, Inhabited

/-- A WAIT packet that is the next packet of its queue (R363). -/
structure QueueWait where
  island : Nat := 0
  ctr : Nat := 0
  cond : BitVec 2 := 0
  val : DWord := 0
  /-- The condition has held at some moment since. -/
  met : Bool := false
deriving DecidableEq, Repr, Inhabited

/-- The states of a site (R17); `powerOn`: populated, and not yet probed in this boot. -/
inductive SiteState where
  | powerOn | unpopulated | disabled | probing | ready | assigned | quarantined
deriving DecidableEq, Repr, Inhabited

/-- A site: its state and, once numbered, its logical number (R17, R23). -/
structure Site where
  state : SiteState := .powerOn
  logical : Option Nat := none
deriving DecidableEq, Repr, Inhabited

/-- Why boot has quarantined a site (R17, R451). -/
inductive QuarantineReason where
  | notHealthy | unreachable
deriving DecidableEq, Repr, Inhabited

/-- A circuit of the circuit plan (R19, R383, R384): its ends and its cells, by site, logical row and column. A bundle of the
fibre field has an express port of its primary site, and a reserve port of its secondary site, taken when the primary site is
not numbered. -/
inductive Circuit where
  | express (one two : Nat × Nat) (cells : List (Nat × Nat × Nat))
  | bundle (number port reserve : Nat) (cells cells2 : List (Nat × Nat × Nat))
deriving DecidableEq, Repr, Inhabited

/-- Where an express waveguide bundle of the glass leads (R384): to a pass-through row, to an express port, or to a fibre
bundle. -/
inductive GlassEnd where
  | row (site row : Nat)
  | port (site port : Nat)
  | bundle (number : Nat)
deriving DecidableEq, Repr, Inhabited

/-- The edge sites, clockwise from the north-west corner (R11, R383). -/
def edgeRing : List Nat :=
  [0, 1, 2, 3, 4, 5, 6, 7, 15, 23, 31, 39, 47, 55, 63, 62, 61, 60, 59, 58, 57, 56, 48, 40, 32, 24, 16, 8]

/-- The primary site of each of the 32 fibre bundles, clockwise: two bundles for a corner site, one for another edge site
(R11, R383). -/
def bundleSites : List Nat :=
  [0, 0, 1, 2, 3, 4, 5, 6, 7, 7, 15, 23, 31, 39, 47, 55, 63, 63, 62, 61, 60, 59, 58, 57, 56, 56, 48, 40, 32, 24, 16, 8]

/-- The secondary site of each bundle: the next edge site clockwise (R383). -/
def secondarySites : List Nat :=
  [1, 1, 2, 3, 4, 5, 6, 7, 15, 15, 23, 31, 39, 47, 55, 63, 62, 62, 61, 60, 59, 58, 57, 56, 48, 48, 40, 32, 24, 16, 8, 0]

/-- The primary site of a bundle. -/
def primarySite (n : Nat) : Nat := bundleSites.getD n 0

/-- The secondary site of a bundle. -/
def secondarySite (n : Nat) : Nat := secondarySites.getD n 0

/-- How many bundles of its site stand before a bundle: 1 for the second of a corner site. -/
def placeAtSite (n : Nat) : Nat := ((List.range n).filter fun m => primarySite m = primarySite n).length

/-- The circuit plan of a shipped panel: every bundle on X0, or X1, of its primary site, with X6, or X7, of its secondary site
in reserve, each by the cell of that row and the column of the same number (log 1). -/
def shippedPlan : List Circuit :=
  (List.range 32).map fun n =>
    let j := placeAtSite n
    .bundle n (4 + j) (10 + j) [(primarySite n, j, j)] [(secondarySite n, 6 + j, 6 + j)]

/-- The glass of a shipped panel, by 16 × site + column: the columns that the plan's circuits use lead to their bundles
(log 1). -/
def shippedGlass : Tbl GlassEnd :=
  (List.range 64).flatMap fun p =>
    let cols := fun (col : Nat) (sites : List Nat) =>
      (sites.zipIdx.filter fun x => x.1 = p).zipIdx.map fun x => (16 * p + col + x.2, GlassEnd.bundle x.1.2)
    cols 0 bundleSites ++ cols 6 secondarySites

/-- A route entry (R379): hop count and hops. -/
structure Route where
  k : Nat := 0
  hops : List Nat := []
deriving DecidableEq, Repr, Inhabited

/-- The configuration store (R14 to R16): of the factory section the populated sites, those named disabled, and the defects
of the others; the circuit plan; then the field section. -/
structure Store where
  populated : List Nat := List.range 64
  disabled : List Nat := []
  /-- The defect map (R14): disabled physical cores and banks by site and number, waveguides by site, port and number (0 to 8
  transmit, 9 to 17 receive), switch cells by site, physical row and column. -/
  badCores : List (Nat × Nat) := []
  badBanks : List (Nat × Nat) := []
  badGuides : List (Nat × Nat × Nat) := []
  badCells : List (Nat × Nat × Nat) := []
  plan : List Circuit := shippedPlan
  number : Nat := 0
  owners : List (List Byte) := []
  peers : List (List Byte) := []
  /-- Units that failed in service: physical banks by site and number, ports by site and port, sites; wear counters written. -/
  banks : List (Nat × Nat) := []
  ports : List (Nat × Nat) := []
  sites : List Nat := []
  /-- Sites that boot has quarantined, and why. -/
  reasons : List (Nat × QuarantineReason) := []
  wear : List (Nat × Nat × Nat) := []
deriving DecidableEq, Repr, Inhabited

/-- The states of a queue (R355, R358). -/
inductive QueueState where
  | none | created | enabled | running | blocked | draining | disabled | error
deriving DecidableEq, Repr, Inhabited

/-- A command queue (R355). -/
structure Queue where
  state : QueueState := .none
  base : Nat := 0
  cfg : DWord := 0
  head : Word := 0
  tail : Word := 0
  status : Nat := 0
  fisl : Nat := 0
  failIdx : Word := 0
  /-- The failure was a packet's (R357). -/
  failPacket : Bool := false
  /-- The next packet, read and accepted by its checks, while it waits to start (R360). -/
  next : Option (List DWord) := none
  /-- Panel time at which it became the next packet (R363). -/
  since : Nat := 0
deriving DecidableEq, Repr, Inhabited

/-- A packet that has started (R360 to R368). -/
structure QueuePacket where
  queue : Nat := 0
  index : Word := 0
  words : List DWord := []
  /-- The context it acts for. -/
  ctx : Nat := 0
  /-- Panel time of its start (R368). -/
  time : Nat := 0
  /-- It has started, and its accesses still wait (R365, R368). -/
  todo : Bool := false
  /-- Its grids, by key, of a LAUNCH. -/
  grids : List Nat := []
deriving DecidableEq, Repr, Inhabited

/-- The states of a grid (R352). -/
inductive GridState where
  | failed | dispatching | running | complete | aborted
deriving DecidableEq, Repr, Inhabited

/-- A grid of teams on an island (R344, R352). -/
structure Grid where
  state : GridState := .dispatching
  island : Nat := 0
  ctx : Nat := 0
  kern : Word := 0
  packet : Nat := 0
  /-- Order of acceptance (R349). -/
  order : Nat := 0
  nteam : Nat := 0
  next : Nat := 0
  /-- Teams placed and not yet exited. -/
  live : Nat := 0
  /-- The header's fields. -/
  entry : VAddr := 0
  handler : Option VAddr := none
  width : BitVec 2 := 0
  rbase : Nat := 8
  rmax : Nat := 8
  lanes : Nat := 16
  tmem : Nat := 0
  tiles : Nat := 0
  bars : Nat := 0
  pool : Bool := false
  sbchk : Bool := false
  pair : Bool := false
  /-- The VCX of binding slot 5 (R345). -/
  areaVcx : Option Nat := none
  bartime : Nat := 1000
  /-- Cores of a team (R347). -/
  k : Nat := 1
  /-- S0 to S7 and T0 of every group (R351). -/
  args : List DWord := []
  t0 : TReg := {}
  /-- What happens before its groups' first instructions (R353; log 13). -/
  clk : Clock := []
deriving DecidableEq, Repr, Inhabited

/-- A boot under way (R19): what its checks find, and how many of its stages are over. -/
structure BootRun where
  found : BootFindings := {}
  stage : Nat := 0
deriving DecidableEq, Repr, Inhabited

/-- The panel: what lies outside the islands. -/
structure Panel where
  /-- BOOTST (R22). -/
  phase : Nat := 0
  ncount : Nat := 0
  error : Nat := 0
  single : Bool := false
  /-- The boot under way. -/
  boot : Option BootRun := none
  sites : Tbl Site := []
  /-- The store that this boot goes by, and, where its field section was rejected, what stands in the medium meanwhile (R15,
  R16). -/
  store : Store := {}
  shelved : Option Store := none
  /-- What the releases at panel scope so far release (R278, R353; log 13). -/
  clk : Clock := []
  /-- The panel number of this boot (R25). -/
  number : Nat := 0
  /-- The field section was rejected at boot (R15). -/
  rejected : Bool := false
  /-- The switch matrices as the last boot found them, by site: a cell holds its state without power (R384). -/
  matrices : Tbl Matrix := []
  /-- Where the columns of each site's matrix lead in the glass, by 16 × site + column (R384). -/
  glass : Tbl GlassEnd := shippedGlass
  /-- The dies differ and check themselves (R422); the die in charge is 0 or 1. -/
  checking : Bool := false
  /-- Panel time at which the self-check began, while it has not ended. -/
  checkedSince : Option Nat := none
  active : Nat := 0
  /-- The last attestation report. -/
  report : List Byte := []
  /-- PTIME in ns (R368). -/
  ptime : Nat := 0
  /-- FROZEN of each host port (R395), and the ports that are down (R393). -/
  frozen : List Nat := []
  down : List Nat := []
  /-- Requests that a frozen host port has refused. -/
  refused : Nat := 0
  /-- The topology table (R379), and pool entries that no cell names, with the time since when (R381). -/
  routes : Tbl Route := []
  unnamed : List (Nat × Nat) := []
  queues : Tbl Queue := []
  /-- The queue last served at each PRIO (R370). -/
  served : Tbl Nat := []
  started : Tbl QueuePacket := []
  grids : Tbl Grid := []
  /-- WAIT packets that are next, by queue number. -/
  waits : Tbl QueueWait := []
  /-- Panel bank monitors (R427). -/
  monitors : Tbl Monitor := []
  /-- Packets in routers, by the island that holds them. -/
  routed : List (Nat × RemotePacket) := []
  /-- Bucket messages on their way, by destination (R415). -/
  mail : List (Nat × BucketMsg) := []
deriving DecidableEq, Repr, Inhabited

/-- The whole machine. -/
structure State where
  /-- Events due next: what timing or the outside world brings (R8; log 3). -/
  agenda : List Instr := []
  /-- Steps taken (model's own; the index of the free values, log 4). -/
  tick : Nat := 0
  /-- Number of the next operation to issue (model's own, log 3). -/
  seq : Nat := 0
  /-- The issuing fragment (model's own, log 3). -/
  cur : Option Issuer := none
  islands : Tbl Island := []
  groups : Tbl Group := []
  teams : Tbl Team := []
  panel : Panel := {}
  /-- Host memory by physical address, and its poisoned 16-byte quarters (R238). -/
  hostMem : Memory := []
  hostPoison : List Nat := []
  /-- Locations for happens-before (log 13). -/
  spots : Tbl Spot := []
  /-- Contexts whose new state other islands are still to be told: context, island, and why it is Faulted, none when it
  is Terminated (R317). -/
  propagate : List (Nat × Nat × Option FaultedBy) := []
deriving DecidableEq, Repr, Inhabited

/-- The machine right after reset: before power good, nothing numbered, nothing placed. -/
def State.reset : State := {}

end Sys2Proof.Machine
end

