-- ==== Sys2Proof/Machine/Sparse.lean ====
section
/-! DEFINITION. Finite tables and byte memories as sorted lists: reading, writing, removing. -/

namespace Sys2Proof.Machine

open Sys2Proof

/-- The entry at key k, if there is one. -/
def tblGet? {α : Type} : Tbl α → Nat → Option α
  | [], _ => none
  | (k', v) :: t, k => if k' = k then some v else tblGet? t k

/-- The entry at key k, or the default of its type. -/
def tblGet {α : Type} [Inhabited α] (t : Tbl α) (k : Nat) : α := (tblGet? t k).getD default

/-- The table with v at key k, keys kept rising. -/
def tblSet {α : Type} : Tbl α → Nat → α → Tbl α
  | [], k, v => [(k, v)]
  | (k', v') :: t, k, v =>
    if k < k' then (k, v) :: (k', v') :: t
    else if k = k' then (k, v) :: t
    else (k', v') :: tblSet t k v

/-- The table without key k. -/
def tblDel {α : Type} : Tbl α → Nat → Tbl α
  | [], _ => []
  | (k', v') :: t, k => if k' = k then tblDel t k else (k', v') :: tblDel t k

/-- The table with the entry at k changed by f, from the default where k is absent. -/
def tblMod {α : Type} [Inhabited α] (t : Tbl α) (k : Nat) (f : α → α) : Tbl α :=
  tblSet t k (f (tblGet t k))

/-- The table with the entry at k changed by f, and unchanged where k is absent. -/
def tblAdj {α : Type} (t : Tbl α) (k : Nat) (f : α → α) : Tbl α :=
  match tblGet? t k with
  | some v => tblSet t k (f v)
  | none => t

/-- Keys strictly rising. -/
def tblSorted {α : Type} : Tbl α → Bool
  | [] => true
  | [_] => true
  | (k, _) :: (k', v') :: t => k < k' && tblSorted ((k', v') :: t)

/-- The canonical form of a byte memory: addresses strictly rising, no listed byte zero (log 2). -/
def Memory.wf (m : Memory) : Bool := tblSorted m && m.all fun c => c.2 != 0#8

/-- The byte at address a; an unlisted byte reads zero (log 2). -/
def memGet (m : Memory) (a : Nat) : Byte := (tblGet? m a).getD 0

/-- The memory with byte b at address a, in canonical form. -/
def memSet (m : Memory) (a : Nat) (b : Byte) : Memory :=
  if b = 0 then tblDel m a else tblSet m a b

/-- The bytes at a, a + 1, … in memory order. -/
def memBytes (m : Memory) (a : Nat) : Nat → List Byte
  | 0 => []
  | n + 1 => memGet m a :: memBytes m (a + 1) n

/-- The memory with the listed bytes at a, a + 1, … -/
def memPut (m : Memory) (a : Nat) : List Byte → Memory
  | [] => m
  | b :: bs => memPut (memSet m a b) (a + 1) bs

/-- The cells of bytes laid out from a. -/
def cellsFrom (a : Nat) : List Byte → Memory
  | [] => []
  | b :: bs => if b = 0 then cellsFrom (a + 1) bs else (a, b) :: cellsFrom (a + 1) bs

/-- The memory with a long run of bytes written from a. -/
def memBlit (m : Memory) (a : Nat) (bs : List Byte) : Memory :=
  (m.filter fun c => c.1 < a) ++ cellsFrom a bs ++ m.filter fun c => a + bs.length ≤ c.1

/-- The cells of a memory from lo to hi − 1. -/
def memWindow (m : Memory) (lo hi : Nat) : Memory := m.filter fun c => lo ≤ c.1 && c.1 < hi

/-- The n-byte little-endian number at address a. -/
def memNat (m : Memory) (a n : Nat) : Nat := leNat (memBytes m a n)

/-- The memory with x stored little-endian in n bytes at address a. -/
def memPutNat (m : Memory) (a x n : Nat) : Memory := memPut m a (leBytes x n)

/-- The list without the first entry equal to x. -/
def dropFirst {α : Type} [DecidableEq α] (x : α) : List α → List α
  | [] => []
  | y :: t => if y = x then t else y :: dropFirst x t

end Sys2Proof.Machine
end

