-- ==== Sys2Proof/Machine/Bits.lean ====
section
/-! DEFINITION. Bit fields, sign extension, lane masks. -/

namespace Sys2Proof.Machine

open Sys2Proof

/-- Bit i of a number. -/
def bit (w i : Nat) : Bool := w / 2 ^ i % 2 = 1

/-- The number x of n bits read as two's complement. -/
def signed (x n : Nat) : Int := if x < 2 ^ (n - 1) then x else (x : Int) - (2 ^ n : Nat)

/-- The integer x modulo 2^n as a number. -/
def wrap (x : Int) (n : Nat) : Nat := (x % (2 ^ n : Nat)).toNat

/-- All lanes of a group, in ascending order. -/
def lanes64 : List Nat := List.range 64

/-- The lanes of a mask, ascending. -/
def lanesOf (m : Mask) : List Nat := lanes64.filter fun l => m.getLsbD l

/-- Lane l is in the mask. -/
def inMask (m : Mask) (l : Nat) : Bool := m.getLsbD l

/-- The mask of the lanes for which f holds. -/
def maskOf (f : Nat → Bool) : Mask :=
  lanes64.foldl (fun (acc : Mask) l => if f l then acc ||| (1#64 <<< l) else acc) 0#64

/-- The mask of one lane. -/
def laneBit (l : Nat) : Mask := 1#64 <<< l

/-- The mask of lanes 0 to w − 1. -/
def fullMask (w : Nat) : Mask := BitVec.ofNat 64 (2 ^ w - 1)

/-- The number of lanes in a width code (R34). -/
def widthLanes (w : BitVec 2) : Nat := 16 * 2 ^ w.toNat

/-- The lowest lane of a mask. -/
def lowestLane (m : Mask) : Option Nat := lanes64.find? fun l => m.getLsbD l

/-- How many bits of the list hold. -/
def countTrue (l : List Bool) : Nat := (l.filter id).length

/-- The number of 1 bits among the n low bits of x. -/
def popCount (x n : Nat) : Nat := countTrue ((List.range n).map fun i => bit x i)

/-- The number of 0 bits above the highest 1 bit among the n low bits of x. -/
def leadZeros (x n : Nat) : Nat := if x = 0 then n else n - 1 - Nat.log2 x

/-- Bit i of the result is bit n − 1 − i of x. -/
def bitReverse (x n : Nat) : Nat :=
  (List.range n).foldl (fun acc i => if bit x i then acc + 2 ^ (n - 1 - i) else acc) 0

/-- Bitwise exclusive-or of numbers listed. -/
def xorAll (l : List Nat) : Nat := l.foldl (fun a b => a ^^^ b) 0

/-- Rounds a up to a multiple of n. -/
def roundUp (a n : Nat) : Nat := (a + n - 1) / n * n

/-- The address p + n within the 57-bit space (R193). -/
def pcAdd (p : VAddr) (n : Nat) : VAddr := p + BitVec.ofNat 57 n

/-- Element i of a list, or the default. -/
def nth {α : Type} [Inhabited α] (l : List α) (i : Nat) : α := l.getD i default

/-- The list with element i changed by f. -/
def modNth {α : Type} (l : List α) (i : Nat) (f : α → α) : List α :=
  l.zipIdx.map fun p => if p.2 = i then f p.1 else p.1

end Sys2Proof.Machine
end

