-- ==== Sys2Proof/Machine/Num.lean ====
section
/-! DEFINITION. Extended values, rounding and exact results (R82 to R100). -/

namespace Sys2Proof.Machine

open Sys2Proof

/-- An extended value (R82). A nonzero real is (−1)^neg × m × 2^e with m > 0: every value a unit rounds is dyadic,
or stands for its rounding to odd far below every rounding point (R94; log 12). -/
inductive Ext where
  | nan (signalling : Bool)
  | inf (neg : Bool)
  | zero (neg : Bool)
  | real (neg : Bool) (m : Nat) (e : Int)
deriving DecidableEq, Repr, Inhabited

/-- The floating-point formats (R84). -/
inductive FFmt where
  | f64 | f32 | f16 | bf16 | e4m3 | e5m2 | e2m1
deriving DecidableEq, Repr, Inhabited

/-- Width of the fraction field (R84). -/
def fracBits : FFmt → Nat
  | .f64 => 52 | .f32 => 23 | .f16 => 10 | .bf16 => 7 | .e4m3 => 3 | .e5m2 => 2 | .e2m1 => 1

/-- Width of the exponent field (R84). -/
def expBits : FFmt → Nat
  | .f64 => 11 | .f32 => 8 | .f16 => 5 | .bf16 => 8 | .e4m3 => 4 | .e5m2 => 5 | .e2m1 => 2

/-- Exponent bias (R84). -/
def expBias : FFmt → Nat
  | .f64 => 1023 | .f32 => 127 | .f16 => 15 | .bf16 => 127 | .e4m3 => 7 | .e5m2 => 15 | .e2m1 => 1

/-- Smallest normal exponent (R84). -/
def expMin (f : FFmt) : Int := 1 - (expBias f : Int)

/-- Largest exponent (R84). -/
def expMax : FFmt → Int
  | .f64 => 1023 | .f32 => 127 | .f16 => 15 | .bf16 => 127 | .e4m3 => 8 | .e5m2 => 15 | .e2m1 => 2

/-- Largest significand at the largest exponent, as an integer of fracBits + 1 bits (R85). -/
def maxSig (f : FFmt) : Nat := if f = .e4m3 then 14 else 2 ^ (fracBits f + 1) - 1

/-- The format has infinities (R85). -/
def hasInf : FFmt → Bool
  | .e4m3 => false | .e2m1 => false | _ => true

/-- Bits of an encoding (R84). -/
def fmtBits (f : FFmt) : Nat := 1 + expBits f + fracBits f

/-- The canonical NaN (R85); E2M1 has none. -/
def canonicalNan (f : FFmt) : Nat :=
  match f with
  | .e4m3 => 0x7F
  | .e2m1 => 0
  | f => (2 ^ expBits f - 1) * 2 ^ fracBits f + 2 ^ (fracBits f - 1)

/-- The encoding of infinity, sign clear (R85). -/
def infCode (f : FFmt) : Nat := (2 ^ expBits f - 1) * 2 ^ fracBits f

/-- The encoding of the largest finite value, sign clear (R85). -/
def maxCode (f : FFmt) : Nat :=
  match f with
  | .e4m3 => 0x7E
  | .e2m1 => 0x7
  | f => infCode f - 1

/-- The code c with the sign put in. -/
def withSign (f : FFmt) (neg : Bool) (c : Nat) : Nat :=
  if neg then c + 2 ^ (fmtBits f - 1) else c

/-- DEC: the extended value of an encoding (R84 to R86). -/
def dec (f : FFmt) (b : Nat) : Ext :=
  let neg := bit b (fmtBits f - 1)
  let e := bits b (fmtBits f - 2) (fracBits f)
  let fr := b % 2 ^ fracBits f
  if hasInf f && e = 2 ^ expBits f - 1 then
    if fr = 0 then .inf neg else .nan (!(bit b (fracBits f - 1)))
  else if f = .e4m3 && b % 128 = 127 then .nan false
  else if e = 0 then
    if fr = 0 then .zero neg else .real neg fr (expMin f - fracBits f)
  else .real neg (2 ^ fracBits f + fr) ((e : Int) - expBias f - fracBits f)

/-- The rounding modes, coded as FPCTL.RM, and round to odd (R90). -/
inductive RMode where
  | rne | rz | ru | rd | ro
deriving DecidableEq, Repr, Inhabited

/-- The mode of an RM code (R36). -/
def rmode (rm : BitVec 2) : RMode :=
  match rm.toNat with
  | 0 => .rne | 1 => .rz | 2 => .ru | _ => .rd

/-- The five flags NV, DZ, OF, UF, NX: bit 4 down to bit 0 (R36, R97). -/
abbrev Flg := BitVec 5

def flgNV : Flg := 16
def flgDZ : Flg := 8
def flgOF : Flg := 4
def flgUF : Flg := 2
def flgNX : Flg := 1

/-- The integer that magnitude m × 2^(−sh) of a sign rounds to (R91), and whether it was exact. -/
def roundShift (mode : RMode) (neg : Bool) (m sh : Nat) : Nat × Bool :=
  if sh = 0 then (m, true)
  else
    let tiny := m = 0 || sh > Nat.log2 m + 1
    let n := if tiny then 0 else m / 2 ^ sh
    let r := if tiny then m else m % 2 ^ sh
    let exact := r = 0
    let above := !tiny && r > 2 ^ (sh - 1)
    let tie := !tiny && r = 2 ^ (sh - 1)
    let up := match mode with
      | .rne => above || (tie && n % 2 = 1)
      | .rz => false
      | .ru => !neg && !exact
      | .rd => neg && !exact
      | .ro => !exact && n % 2 = 0
    (if up then n + 1 else n, exact)

/-- ROUNDQ of (−1)^neg × m × 2^e to a multiple of 2^q: the multiple's magnitude, and whether it is exact (R91). -/
def roundQ (mode : RMode) (neg : Bool) (m : Nat) (e q : Int) : Nat × Bool :=
  if q ≤ e then (m * 2 ^ (e - q).toNat, true) else roundShift mode neg m (q - e).toNat

/-- floor(log2) of m × 2^e. -/
def expOf (m : Nat) (e : Int) : Int := (Nat.log2 m : Int) + e

/-- An encoding and the flags raised on the way. -/
abbrev Rounded := Nat × Flg

/-- OVERFLOW of R92: the table's result, with the replacements for formats without infinity. -/
def overflowCode (f : FFmt) (mode : RMode) (neg : Bool) : Nat :=
  let toInf := match mode with
    | .rne => true
    | .rz => false
    | .ru => !neg
    | .rd => neg
    | .ro => false
  if toInf then
    match f with
    | .e4m3 => 0x7F
    | .e2m1 => withSign f neg 0x7
    | f => withSign f neg (infCode f)
  else withSign f neg (maxCode f)

/-- The value rounded at a format's precision lies above its largest finite value: its rounded significand k at
exponent field base x (R92). -/
def overflows (f : FFmt) (x : Int) (k : Nat) : Bool :=
  x > expMax f || (x = expMax f && k > maxSig f)

/-- The RND case of a nonzero real, with whether the overflow case was taken (R92). -/
def rndReal (f : FFmt) (mode : RMode) (neg : Bool) (m : Nat) (e : Int) : Rounded × Bool :=
  let x := expOf m e
  let p : Int := fracBits f
  if x > expMax f then ((overflowCode f mode neg, flgOF ||| flgNX), true)
  else
    let x' := max x (expMin f)
    let (k, exact) := roundQ mode neg m e (x' - p)
    if overflows f x' k then ((overflowCode f mode neg, flgOF ||| flgNX), true)
    else
      let code := withSign f neg ((x' - expMin f).toNat * 2 ^ fracBits f + k)
      if exact then ((code, 0), false)
      else
        let (k', _) := roundQ mode neg m e (x - p)
        let tiny := x < expMin f - 1 || (x = expMin f - 1 && k' < 2 ^ (fracBits f + 1))
        ((code, if tiny then flgUF ||| flgNX else flgNX), false)

/-- RND into a floating-point format (R92), with whether its overflow case was taken. -/
def rndFull (f : FFmt) (mode : RMode) (x : Ext) : Rounded × Bool :=
  match x with
  | .nan sg =>
    let fl : Flg := if sg then flgNV else 0
    if f = .e2m1 then ((0, flgNV), false) else ((canonicalNan f, fl), false)
  | .inf neg =>
    match f with
    | .e4m3 => ((0x7F, flgNV), false)
    | .e2m1 => ((withSign f neg 0x7, flgNV), false)
    | f => ((withSign f neg (infCode f), 0), false)
  | .zero neg => ((withSign f neg 0, 0), false)
  | .real neg m e => rndReal f mode neg m e

/-- RND (R92). -/
def rnd (f : FFmt) (mode : RMode) (x : Ext) : Rounded := (rndFull f mode x).1

/-- SATRND (R139): the overflow case and infinities of a format without them give the largest finite value. -/
def satRnd (f : FFmt) (mode : RMode) (x : Ext) : Rounded :=
  match x with
  | .inf neg =>
    if hasInf f then (let r := rnd f mode x; r) else (withSign f neg (maxCode f), flgNV)
  | .real neg _ _ =>
    let r := rndFull f mode x
    if r.2 then (withSign f neg (maxCode f), r.1.2) else r.1
  | _ => rnd f mode x

/-- RND into an integer format of n bits, signed or not: the bit pattern of n bits (R93). -/
def rndInt (sg : Bool) (n : Nat) (mode : RMode) (x : Ext) : Rounded :=
  let hi : Int := if sg then 2 ^ (n - 1) - 1 else 2 ^ n - 1
  let lo : Int := if sg then -(2 ^ (n - 1)) else 0
  match x with
  | .nan _ => (0, flgNV)
  | .inf neg => (wrap (if neg then lo else hi) n, flgNV)
  | .zero _ => (0, 0)
  | .real neg m e =>
    if expOf m e > 64 then (wrap (if neg then lo else hi) n, flgNV)
    else
      let (k, exact) := roundQ mode neg m e 0
      let v : Int := if neg then -(k : Int) else k
      if v > hi then (wrap hi n, flgNV)
      else if v < lo then (wrap lo n, flgNV)
      else (wrap v n, if exact then 0 else flgNX)

/-- RO64 (R94). -/
def ro64 (x : Ext) : Ext :=
  match x with
  | .real neg m e =>
    let q := expOf m e - 63
    if q ≤ e then x else .real neg (roundQ .ro neg m e q).1 q
  | x => x

/-- The value of an integer. -/
def extOfInt (i : Int) : Ext := if i = 0 then .zero false else .real (i < 0) i.natAbs 0

/-- The sign of a value; a NaN has none. -/
def extNeg : Ext → Bool
  | .nan _ => false
  | .inf n => n
  | .zero n => n
  | .real n _ _ => n

/-- −x (a NaN stays). -/
def extNegate : Ext → Ext
  | .nan s => .nan s
  | .inf n => .inf (!n)
  | .zero n => .zero (!n)
  | .real n m e => .real (!n) m e

/-- |x| (a NaN stays). -/
def extAbs : Ext → Ext
  | .nan s => .nan s
  | .inf _ => .inf false
  | .zero _ => .zero false
  | .real _ m e => .real false m e

def isNan : Ext → Bool
  | .nan _ => true
  | _ => false

def isSnan : Ext → Bool
  | .nan s => s
  | _ => false

def isInf : Ext → Bool
  | .inf _ => true
  | _ => false

def isZero : Ext → Bool
  | .zero _ => true
  | _ => false

/-- An exact value and the flags EXACT raises. -/
abbrev Exact := Ext × Flg

/-- NV when a signalling NaN stands among the operands (R86). -/
def snanFlag (l : List Ext) : Flg := if l.any isSnan then flgNV else 0

/-- The product x × y as a term: NV for 0 × ∞ and signalling NaNs, NaN results quiet (R95). -/
def exactMul (x y : Ext) : Exact :=
  let fl := snanFlag [x, y]
  let neg := extNeg x != extNeg y
  match x, y with
  | .nan _, _ => (.nan false, fl)
  | _, .nan _ => (.nan false, fl)
  | .inf _, .zero _ => (.nan false, flgNV)
  | .zero _, .inf _ => (.nan false, flgNV)
  | .inf _, _ => (.inf neg, 0)
  | _, .inf _ => (.inf neg, 0)
  | .zero _, _ => (.zero neg, 0)
  | _, .zero _ => (.zero neg, 0)
  | .real _ m e, .real _ m' e' => (.real neg (m * m') (e + e'), 0)

/-- The least exponent among the nonzero reals listed. -/
def minExp : List Ext → Option Int
  | [] => none
  | .real _ _ e :: t => some (match minExp t with | some e' => min e e' | none => e)
  | _ :: t => minExp t

/-- The sum of the nonzero reals listed, in units of 2^q, where q is at most every exponent. -/
def sumAt (q : Int) : List Ext → Int
  | [] => 0
  | .real neg m e :: t =>
    let v : Int := (m * 2 ^ (e - q).toNat : Nat)
    (if neg then -v else v) + sumAt q t
  | _ :: t => sumAt q t

/-- The sign of an exact zero: −0 when every term is −0, or in RD when the terms differ in sign (R95). -/
def zeroSign (mode : RMode) (l : List Ext) : Bool :=
  let negs := l.map extNeg
  if negs.all id then true else if negs.all (!·) then false else mode = .rd

/-- The exact sum of terms (R95). -/
def exactSum (mode : RMode) (l : List Ext) : Exact :=
  let clash := l.any (· = .inf false) && l.any (· = .inf true)
  let fl := snanFlag l ||| (if clash then flgNV else 0)
  if l.any isNan || clash then (.nan false, fl)
  else if l.any (· = .inf false) then (.inf false, fl)
  else if l.any (· = .inf true) then (.inf true, fl)
  else match minExp l with
    | none => (.zero (zeroSign mode l), fl)
    | some q =>
      let s := sumAt q l
      if s = 0 then (.zero (zeroSign mode l), fl) else (.real (s < 0) s.natAbs q, fl)

def exactAdd (mode : RMode) (x y : Ext) : Exact := exactSum mode [x, y]

def exactSub (mode : RMode) (x y : Ext) : Exact := exactSum mode [x, extNegate y]

/-- x × y + z, with every invalid case examined (R95). -/
def exactFma (mode : RMode) (x y z : Ext) : Exact :=
  let p := exactMul x y
  let s := exactSum mode [p.1, z]
  (s.1, p.2 ||| s.2)

/-- The integer square root by bits, from bit i down. -/
def isqrtFrom (x : Nat) : Nat → Nat → Nat
  | 0, r => r
  | i + 1, r => isqrtFrom x i (if (r + 2 ^ i) * (r + 2 ^ i) ≤ x then r + 2 ^ i else r)

/-- floor(√x). -/
def isqrt (x : Nat) : Nat := isqrtFrom x (Nat.log2 x / 2 + 1) 0

/-- m / m' × 2^e to at least n significant bits, rounded to odd where it is not exact (log 12). -/
def divOdd (n m m' : Nat) : Nat × Int :=
  let k := n + Nat.log2 m' - Nat.log2 m
  let q := m * 2 ^ k / m'
  (if m * 2 ^ k % m' = 0 then q else if q % 2 = 0 then q + 1 else q, -(k : Int))

/-- √(m × 2^e) to at least n significant bits, rounded to odd where it is not exact (log 12). -/
def sqrtOdd (n m : Nat) (e : Int) : Nat × Int :=
  let m1 := if e % 2 = 0 then m else 2 * m
  let e1 := if e % 2 = 0 then e else e - 1
  let k := n
  let y := m1 * 2 ^ (2 * k)
  let r := isqrt y
  (if r * r = y then r else if r % 2 = 0 then r + 1 else r, e1 / 2 - k)

/-- x / y (R95); an inexact quotient stands rounded to odd at 70 bits or more (log 12). -/
def exactDiv (x y : Ext) : Exact :=
  let fl := snanFlag [x, y]
  let neg := extNeg x != extNeg y
  match x, y with
  | .nan _, _ => (.nan false, fl)
  | _, .nan _ => (.nan false, fl)
  | .inf _, .inf _ => (.nan false, flgNV)
  | .zero _, .zero _ => (.nan false, flgNV)
  | .inf _, _ => (.inf neg, 0)
  | _, .inf _ => (.zero neg, 0)
  | .zero _, _ => (.zero neg, 0)
  | .real .., .zero _ => (.inf neg, flgDZ)
  | .real _ m e, .real _ m' e' =>
    let (q, k) := divOdd 70 m m'
    (.real neg q (e - e' + k), 0)

/-- √x (R95); an inexact root stands rounded to odd at 70 bits or more (log 12). -/
def exactSqrt (x : Ext) : Exact :=
  match x with
  | .nan sg => (.nan false, if sg then flgNV else 0)
  | .inf true => (.nan false, flgNV)
  | .inf false => (.inf false, 0)
  | .zero n => (.zero n, 0)
  | .real true _ _ => (.nan false, flgNV)
  | .real false m e =>
    let (r, k) := sqrtOdd 70 m e
    (.real false r k, 0)

/-- x × 2^n, as an exact value. -/
def scale2 (x : Ext) (n : Int) : Ext :=
  match x with
  | .real neg m e => .real neg m (e + n)
  | x => x

/-- The value of an E8M0 scale, none for NaN (R87). -/
def scaleExp (s : Nat) : Option Int := if s = 255 then none else some ((s : Int) - 127)

/-- c + g × Σ a[k] × b[k] (R95), with g = 2^gx, or NaN. -/
def exactDot (mode : RMode) (c : Ext) (ab : List (Ext × Ext)) (gx : Option Int) : Exact :=
  let prods := ab.map fun p => exactMul p.1 p.2
  let terms := prods.map fun p => p.1
  let fl := prods.foldl (fun acc p => acc ||| p.2) (snanFlag [c])
  let all := c :: terms
  let clash := all.any (· = .inf false) && all.any (· = .inf true)
  let fl := if clash then fl ||| flgNV else fl
  match gx with
  | none => (.nan false, fl)
  | some g =>
    let s := exactSum mode (c :: terms.map fun t => scale2 t g)
    (s.1, fl ||| s.2)

/-- −1, 0 or 1 as x is less than, equal to or greater than y; neither a NaN. Zeros are equal. -/
def extCmp (x y : Ext) : Int :=
  let key : Ext → Int
    | .nan _ => 0
    | .inf n => if n then -2 else 2
    | .zero _ => 0
    | .real n _ _ => if n then -1 else 1
  match x, y with
  | .real n m e, .real n' m' e' =>
    if n != n' then (if n then -1 else 1)
    else
      let lx := expOf m e
      let ly := expOf m' e'
      let c : Int :=
        if lx < ly then -1 else if ly < lx then 1
        else
          let q := min e e'
          let a := m * 2 ^ (e - q).toNat
          let b := m' * 2 ^ (e' - q).toNat
          if a < b then -1 else if a = b then 0 else 1
      if n then -c else c
  | x, y => if key x < key y then -1 else if key x = key y then 0 else 1

/-- x is less than y in the order of FMIN and FMAX, where −0 < +0 (R132). -/
def extLess (x y : Ext) : Bool :=
  match x, y with
  | .zero a, .zero b => a && !b
  | x, y => extCmp x y < 0

/-- x rounded to an integer value, the sign of x kept on zero, and whether it was exact (R91, R135). -/
def roundInt (mode : RMode) (x : Ext) : Ext × Bool :=
  match x with
  | .real neg m e =>
    if 0 ≤ e then (x, true)
    else
      let (k, exact) := roundQ mode neg m e 0
      (if k = 0 then .zero neg else .real neg k 0, exact)
  | x => (x, true)

/-- EB of R96: 8 for E4M3, 15 for E5M2, 2 for E2M1, 23 for BQ32. -/
def blockExp (bf : BitVec 2) : Int :=
  match bf.toNat with
  | 0 => 8 | 1 => 15 | 2 => 2 | _ => 23

/-- BLOCKSCALE (R96). -/
def blockScale (bf : BitVec 2) (v : List Ext) : Nat :=
  if v.any fun x => isNan x || isInf x then 255
  else
    let lg := v.foldl (fun (acc : Option Int) x =>
      match x with
      | .real _ m e =>
        match acc with
        | some a => some (max a (expOf m e))
        | none => some (expOf m e)
      | _ => acc) none
    match lg with
    | none => 0
    | some l => (min (max (l - blockExp bf + 127) 0) 254).toNat

end Sys2Proof.Machine
end

