-- ==== Sys2Proof/Machine/Operands.lean ====
section
/-! DEFINITION. Reading and writing the register file: every operand form of lane and uniform instructions
(R30, R31, R49, R57, R101). -/

namespace Sys2Proof.Machine

open Sys2Proof

/-! ## Vector registers -/

/-- V[r] of lane l. -/
def readV (g : Regs) (r l : Nat) : Word := (tblGet g.v r).getD l 0

/-- The pair V[r], V[r + 1] of lane l, V[r] in the low half (R3). -/
def readPair (g : Regs) (r l : Nat) : Nat := (readV g r l).toNat + 2 ^ 32 * (readV g (r + 1) l).toNat

/-- V[r] of every lane of the mask set to f, and its poison marks there cleared (R209). -/
def writeV (g : Regs) (r : Nat) (m : Mask) (f : Nat → Word) : Regs :=
  { g with
    v := tblSet g.v r (lanes64.map fun l => if inMask m l then f l else readV g r l)
    badV := tblAdj g.badV r fun b => { lo := b.lo &&& ~~~m, hi := b.hi &&& ~~~m } }

/-- Lanes of the mask of V[r] marked poisoned in both sub-elements. -/
def poisonV (g : Regs) (r : Nat) (m : Mask) : Regs :=
  if m = 0 then g
  else { g with badV := tblMod g.badV r fun b => { lo := b.lo ||| m, hi := b.hi ||| m } }

/-- The pair V[r], V[r + 1] of every lane of the mask set to the 64-bit pattern f. -/
def writePair (g : Regs) (r : Nat) (m : Mask) (f : Nat → Nat) : Regs :=
  writeV (writeV g r m fun l => bv 32 (f l)) (r + 1) m fun l => bv 32 (f l / 2 ^ 32)

/-! ## Predicates -/

/-- The lanes in which P[r] holds; P7 holds in every lane (R30). -/
def readP (g : Regs) (r : Nat) : Mask := if r = 7 then BitVec.allOnes 64 else tblGet g.p r

/-- P[r] of every lane of the mask taken from val; a write to P7 is ignored (R30). -/
def writeP (g : Regs) (r : Nat) (m val : Mask) : Regs :=
  if r = 7 then g
  else { g with
    p := tblSet g.p r ((tblGet g.p r &&& ~~~m) ||| (val &&& m))
    badP := tblAdj g.badP r fun b => b &&& ~~~m }

/-! ## Uniform registers -/

/-- S[r]; S63 reads zero (R30). -/
def readS (g : Regs) (r : Nat) : DWord := if r = 63 then 0 else tblGet g.s r

/-- S[r] set to x; a write to S63 is ignored (R30). -/
def writeS (g : Regs) (r : Nat) (x : DWord) : Regs :=
  if r = 63 then g
  else { g with s := tblSet g.s r x, badS := g.badS &&& ~~~(1#64 <<< r) }

/-- S[r] marked poisoned. -/
def poisonS (g : Regs) (r : Nat) : Regs :=
  if r = 63 then g else { g with badS := g.badS ||| (1#64 <<< r) }

/-- C[r]; C7 reads one (R30). -/
def readC (g : Regs) (r : Nat) : Bool := if r = 7 then true else g.c.getLsbD r

/-- C[r] set to x; a write to C7 is ignored (R30). -/
def writeC (g : Regs) (r : Nat) (x : Bool) : Regs :=
  if r = 7 then g
  else { g with
    c := if x then g.c ||| (1#8 <<< r) else g.c &&& ~~~(1#8 <<< r)
    badC := g.badC &&& ~~~(1#8 <<< r) }

/-! ## Typed operands -/

/-- WID of a lane type code (R49). -/
def laneWid (m : BitVec 2) : Nat := if m.toNat < 2 then 32 else 64

/-- SGN of a lane type code (R49). -/
def laneSgn (m : BitVec 2) : Bool := m.toNat % 2 = 0

/-- WID of a uniform type code (R57). -/
def uniWid (m : BitVec 4) : Nat := if m.toNat < 2 then 64 else 32

/-- SGN of a uniform type code (R57). -/
def uniSgn (m : BitVec 4) : Bool := m.toNat % 2 = 0

/-- The pattern x of w bits as an integer. -/
def asInt (sg : Bool) (w x : Nat) : Int := if sg then signed x w else x

/-- The bit pattern RDV reads: V[r], or the pair for a 64-bit type. -/
def rdvBits (g : Regs) (r l : Nat) (m : BitVec 2) : Nat :=
  if m.toNat < 2 then (readV g r l).toNat else readPair g r l

/-- RDV: V[r] of lane l as an integer of type m. -/
def rdv (g : Regs) (r l : Nat) (m : BitVec 2) : Int := asInt (laneSgn m) (laneWid m) (rdvBits g r l m)

/-- WRV in every lane of the mask: f modulo 2^WID(m). -/
def wrv (g : Regs) (r : Nat) (k : Mask) (m : BitVec 2) (f : Nat → Int) : Regs :=
  if m.toNat < 2 then writeV g r k fun l => bv 32 (wrap (f l) 32)
  else writePair g r k fun l => wrap (f l) 64

/-- RDS: the low WID(m) bits of S[r] as an integer of type m. -/
def rds (g : Regs) (r : Nat) (m : BitVec 4) : Int :=
  asInt (uniSgn m) (uniWid m) ((readS g r).toNat % 2 ^ uniWid m)

/-- The 64-bit value WRS writes: z modulo 2^WID(m), extended by SGN(m). -/
def wrsVal (m : BitVec 4) (z : Int) : DWord :=
  BitVec.ofInt 64 (asInt (uniSgn m) (uniWid m) (wrap z (uniWid m)))

/-- WRS. -/
def wrs (g : Regs) (r : Nat) (m : BitVec 4) (z : Int) : Regs := writeS g r (wrsVal m z)

/-- One late write of a register element (a load return, a chain commit). -/
def applyWrite (g : Regs) (w : RegWrite) : Regs :=
  match w.elem with
  | .v r l =>
    let g := writeV g r (laneBit l) fun _ => w.val.truncate 32
    if w.bad then poisonV g r (laneBit l) else g
  | .s r =>
    let g := writeS g r w.val
    if w.bad then poisonS g r else g
  | .p r l => writeP g r (laneBit l) (if w.val = 0 then 0 else laneBit l)
  | .c r => writeC g r (w.val ≠ 0)

/-- Late writes in order. -/
def applyWrites (g : Regs) (ws : List RegWrite) : Regs := ws.foldl applyWrite g

end Sys2Proof.Machine
end

