-- ==== Sys2Proof/Machine/Flags.lean ====
section
/-! DEFINITION. FLAGS, FPCTL and GSTAT: the flag computations and the status word (R34, R36, R97). -/

namespace Sys2Proof.Machine

open Sys2Proof

/-- FLAGS with the given flags raised (R97). -/
def raise (x : SpecialRegs) (f : Flg) : SpecialRegs :=
  { x with flags := x.flags ||| f.setWidth 64 }

/-- The five flags FLAGS holds. -/
def flagsOf (x : SpecialRegs) : Flg := x.flags.truncate 5

/-- The rounding mode code FPCTL.RM (R36). -/
def rmOf (x : SpecialRegs) : BitVec 2 := x.fpctl.truncate 2

/-- The rounding mode in force (R90). -/
def modeOf (x : SpecialRegs) : RMode := rmode (rmOf x)

/-- The trap enables of FPCTL, in the order of FLAGS (R36). -/
def enablesOf (x : SpecialRegs) : Flg := (x.fpctl >>> 8).truncate 5

/-- Flags raised in any of the listed results (R97). -/
def orFlags (l : List Flg) : Flg := l.foldl (fun a b => a ||| b) 0

/-- XLFLAG.XL set (R115). -/
def setXl (x : SpecialRegs) : SpecialRegs := { x with xlflag := x.xlflag ||| 1 }

/-- CUTCNT with n more digits, modulo 2^64 (R36). -/
def addCuts (x : SpecialRegs) (n : Nat) : SpecialRegs := { x with cutcnt := x.cutcnt + BitVec.ofNat 64 n }

/-- Privileged code (R10): a context's that its descriptor marks so, and a management core's own. -/
def privileged (id : Ident) : Bool := id.priv || id.mgmt

/-- GSTAT (R34), from the fields that hold it. -/
def gstat (g : Group) : DWord :=
  BitVec.ofNat 64 (
    g.frags.length * 2 ^ 32 + g.allot * 2 ^ 24 + g.ident.width.toNat * 2 ^ 16
    + (if privileged g.ident then 128 else 0) + (if g.ident.sbchk then 64 else 0) + (if g.ident.pool then 32 else 0)
    + (if g.hmode then 6 else 0) + (if g.frags.any fun f => f.parked.isSome then 1 else 0))

/-- TCAUSE of a cause (R36); bit 63 marks a fault surfaced by TFENCE or the drain of EXIT (R321). -/
def causeWord (c : Cause) (surfaced : Bool) : DWord :=
  BitVec.ofNat 64 (
    (if surfaced then 2 ^ 63 else 0) + c.info.toNat % 2 ^ 31 * 2 ^ 32
    + (match c.lane with | some l => 2 ^ 23 + l % 64 * 2 ^ 16 | none => 0)
    + c.status.toNat * 2 ^ 8 + c.cls.toNat)

/-- TSPC of a virtual address (R36). -/
def pcWord (p : VAddr) : DWord := BitVec.ofNat 64 (p.toNat / 4 * 4)

end Sys2Proof.Machine
end

