-- ==== Sys2Proof/Machine/Monitors.lean ====
section
/-! DEFINITION. A monitor: its clearing, and a sample entered (R425). -/

namespace Sys2Proof.Machine

open Sys2Proof

/-- x, or the largest number of n bits (R425). -/
def saturate (n x : Nat) : Nat := min x (2 ^ n - 1)

/-- The monitor cleared: MIN all ones, every count zero (R425). -/
def clearMonitor (m : Monitor) : Monitor := { src := m.src, base := m.base, sh := m.sh, owner := m.owner }

/-- The bin of a sample (R425). -/
def binOf (m : Monitor) (v : Nat) : Nat := if v < m.base then 0 else min 15 ((v - m.base) / 2 ^ m.sh)

/-- A sample entered (R425). -/
def enterSample (m : Monitor) (v : Nat) : Monitor :=
  let v := saturate 32 v
  { m with
    bins := tblMod m.bins (binOf m v) fun x => saturate 32 (x + 1)
    count := saturate 64 (m.count + 1), sum := saturate 64 (m.sum + v), min := min m.min v, max := max m.max v }

/-- A sample of a source of an owner enters the monitors configured for them (R426). -/
def sampleOwned (l : Tbl Monitor) (src owner v : Nat) : Tbl Monitor :=
  l.map fun p => if p.2.src = src && p.2.owner = owner then (p.1, enterSample p.2 v) else p

/-- A sample of a source of the island enters the monitors configured for it. -/
def sampleSource (l : Tbl Monitor) (src v : Nat) : Tbl Monitor :=
  l.map fun p => if p.2.src = src then (p.1, enterSample p.2 v) else p

end Sys2Proof.Machine
end

