-- ==== Sys2Proof/Machine/Ops.lean ====
section
/-! DEFINITION. The named operations of a group: its fragments, the faults and traps it takes and returns from,
and the order of checks at issue. -/

namespace Sys2Proof.Machine

open Sys2Proof

/-- What a meaning answers. -/
abbrev Out := Host.Outcome State Fault Refusal

/-! ## Access to the parts of the state -/

/-- The key of the group in a slot of a core; core 256 is the management core (R318). -/
def groupKey (island core slot : Nat) : Nat := island * 2 ^ 15 + core * 64 + slot

def grpOf (s : State) (k : Nat) : Group := tblGet s.groups k

def setGrp (s : State) (k : Nat) (g : Group) : State := { s with groups := tblSet s.groups k g }

def modGrp (s : State) (k : Nat) (f : Group → Group) : State :=
  { s with groups := tblAdj s.groups k f }

def islOf (s : State) (i : Nat) : Island := tblGet s.islands i

def setIsl (s : State) (i : Nat) (x : Island) : State := { s with islands := tblSet s.islands i x }

def modIsl (s : State) (i : Nat) (f : Island → Island) : State :=
  { s with islands := tblAdj s.islands i f }

def modMem (s : State) (i : Nat) (f : IslandMem → IslandMem) : State :=
  modIsl s i fun x => { x with mem := f x.mem }

def teamOf (s : State) (t : Nat) : Team := tblGet s.teams t

def modTeam (s : State) (t : Nat) (f : Team → Team) : State :=
  { s with teams := tblAdj s.teams t f }

def ctxOf (s : State) (i c : Nat) : Context := tblGet (islOf s i).ctxs c

def modCtx (s : State) (i c : Nat) (f : Context → Context) : State :=
  modIsl s i fun x => { x with ctxs := tblAdj x.ctxs c f }

/-- The context has HBM traffic on the island now (R371). -/
def noteTraffic (s : State) (i c : Nat) : State := modCtx s i c fun x => { x with trafficAt := some s.panel.ptime }

/-- A group stands on its context's partition on an island; the management core's groups stand on none (R318). -/
def onPartition (i c : Nat) (g : Group) : Bool := g.ident.island = i && g.ident.ctx = c && !g.ident.mgmt

/-- The groups of a context on an island. -/
def ctxGroups (s : State) (i c : Nat) : List (Nat × Group) := s.groups.filter fun p => onPartition i c p.2

/-- The island has been quarantined in this boot (R17). -/
def quarantined (s : State) (i : Nat) : Bool := (tblGet s.panel.sites (islOf s i).site).state = .quarantined

/-- The state of an island's site: Assigned while it holds a partition, else Ready (R17). A Saved context, which stands on no
quads, still counts as one, since RESTORE brings it back: the model's choice (log 27). -/
def noteSite (s : State) (i : Nat) : State :=
  let x := islOf s i
  let held := x.ctxs.any fun p => p.2.state ≠ .built && p.2.state ≠ .terminated
  { s with panel := { s.panel with sites := tblAdj s.panel.sites x.site fun t =>
      if t.state = .ready || t.state = .assigned then { t with state := if held then .assigned else .ready } else t } }

/-- A context is running on its island, as it must be for its samples to be taken (R425). -/
def ctxRuns (s : State) (i c : Nat) : Bool := (ctxOf s i c).state = .running

/-- A sample of a source of a context (R425, R426). -/
def sampleCtx (s : State) (i src c v : Nat) : State :=
  if ctxRuns s i c then modIsl s i fun x => { x with monitors := sampleOwned x.monitors src c v } else s

/-- Samples of n waits of a context that end at this step; their lengths are free (log 4). -/
def sampleWaits (s : State) (i src c : Nat) : Nat → State
  | 0 => s
  | n + 1 => sampleWaits (sampleCtx s i src c (Config.sampled (s.tick * 64 + n))) i src c n

/-! ## The issuing fragment -/

/-- The issuing group and fragment, as an instruction sees them. -/
structure Cx where
  key : Nat
  ix : Nat
  g : Group
  f : Frag
deriving DecidableEq, Repr, Inhabited

/-- The issuing fragment, where there is one. -/
def issuing (s : State) : Option Cx :=
  match s.cur with
  | none => none
  | some ⟨k, i⟩ =>
    match tblGet? s.groups k with
    | none => none
    | some g =>
      match g.frags[i]? with
      | none => none
      | some f => some { key := k, ix := i, g := g, f := f }

/-- The lanes of a group's width. -/
def lanesIn (g : Group) : Nat := widthLanes g.ident.width

/-! ## Fragments (R186 to R190) -/

/-- Two fragments that R189 merges: equal PCs, neither parked nor holding, no fault due to either, and both of one mode
(R323). -/
def mergeable (a b : Frag) : Bool :=
  a.pc = b.pc && a.parked.isNone && b.parked.isNone && a.hold = .none && b.hold = .none && a.due.isNone && b.due.isNone
    && a.handler = b.handler

/-- b merged into the first fragment of the list it merges with, or put at the end. -/
def mergeInto (b : Frag) : List Frag → List Frag
  | [] => [b]
  | a :: t =>
    if mergeable a b then
      { a with
        mask := a.mask ||| b.mask, slot := min a.slot b.slot, waiting := a.waiting && b.waiting, conv := a.conv || b.conv
        feedSince := a.feedSince.or b.feedSince } :: t
    else a :: mergeInto b t

/-- R189 applied to all fragments. -/
def mergeAll (l : List Frag) : List Frag := l.foldl (fun acc b => mergeInto b acc) []

/-- The fragment may stand in a resident slot: it is unparked and, in handler mode, a handler fragment (R188, R323). -/
def mayReside (hmode : Bool) (f : Frag) : Bool := f.parked.isNone && (!hmode || f.handler)

/-- The fragment never spills: it holds at a chain or an MMAP in its slot (R188), or it waits at a BWAIT there (R219). In
handler mode the fragments held outside it keep no slot from the handler's (R323; log 15). -/
def pinnedSlot (hmode : Bool) (f : Frag) : Bool :=
  f.slot < 2 &&
    match f.hold with
    | .chain => true
    | .mmap => true
    | .bwait .. => !hmode || f.handler
    | _ => false

/-- How many fragments of the list that compete for a slot come before fragment i: lower PC first, then lower index. -/
def rankOf (hmode : Bool) (l : List Frag) (i : Nat) (f : Frag) : Nat :=
  (l.zipIdx.filter fun p => mayReside hmode p.1 && !pinnedSlot hmode p.1
    && (p.1.pc.toNat < f.pc.toNat || (p.1.pc = f.pc && p.2 < i))).length

/-- The fragments that R188 makes resident. -/
def chosen (hmode : Bool) (l : List Frag) (i : Nat) (f : Frag) : Bool :=
  pinnedSlot hmode f || (mayReside hmode f && rankOf hmode l i f + (l.filter (pinnedSlot hmode)).length < 2)

/-- Slots: a resident fragment keeps its slot, a filled one takes a free one, the others are spilled (R188). -/
def seatAll (hmode : Bool) (l : List Frag) : List Frag :=
  let marked := l.zipIdx.map fun p => (p.1, chosen hmode l p.2 p.1)
  let kept := (marked.filter fun p => p.2 && p.1.slot < 2).map fun p => p.1.slot
  let seat := fun (acc : List Nat × List Frag) (p : Frag × Bool) =>
    if !p.2 then (acc.1, acc.2 ++ [{ p.1 with slot := 2 }])
    else if p.1.slot < 2 then (acc.1, acc.2 ++ [p.1])
    else
      let k := if acc.1.contains 0 then 1 else 0
      (k :: acc.1, acc.2 ++ [{ p.1 with slot := k }])
  (marked.foldl seat (kept, [])).2

/-- R189 and R188 after a change to the group's fragments. -/
def settle (g : Group) : Group := { g with frags := seatAll g.hmode (mergeAll g.frags) }

/-- Fragment i of the group changed by f; then R189 and R188. -/
def modFrag (g : Group) (i : Nat) (f : Frag → Frag) : Group :=
  settle { g with frags := modNth g.frags i f }

/-- The issuing fragment's PC moved on by n bytes, and R189 and R188 applied. -/
def advance (n i : Nat) (g : Group) : Group := modFrag g i fun f => { f with pc := pcAdd f.pc n, feedSince := none }

/-- Every fragment offers its instruction again: something it may have waited for has changed. -/
def wake (g : Group) : Group := { g with frags := g.frags.map fun f => { f with waiting := false } }

/-- The lanes of a mask have issued an instruction: their fragments stand at no convergent one that they wait at (R336). -/
def leaveConv (m : Mask) (g : Group) : Group :=
  { g with frags := g.frags.map fun f => if f.mask &&& m = 0 then f else { f with conv := false } }

/-- All groups offer again. -/
def wakeAll (s : State) : State := { s with groups := s.groups.map fun p => (p.1, wake p.2) }

/-- All lanes of the group's fragments. -/
def liveLanes (g : Group) : Mask := g.frags.foldl (fun m f => m ||| f.mask) 0

/-- The lanes of the handler fragments. -/
def handlerLanes (g : Group) : Mask :=
  g.frags.foldl (fun m f => if f.handler then m ||| f.mask else m) 0

/-! ## Records for firmware (R249, R330) -/

/-- Records the ring holds (R249). -/
def frqCount (m : IslandMem) : Nat := (m.frqTail + 4096 - m.frqHead % 4096) % 4096

/-- A record's 128 bytes: its words, then zeros. -/
def recordBytes (ws : List DWord) : List Byte :=
  (List.range 16).flatMap fun i => leBytes (ws.getD i 0).toNat 8

/-- The record written at FRQTAIL, which moves on. -/
def frqWrite (m : IslandMem) (ws : List DWord) : IslandMem :=
  { m with
    bytes := memPut m.bytes (m.frqBase + 128 * m.frqTail) (recordBytes ws)
    frqTail := (m.frqTail + 1) % 4096 }

/-- A record enters the ring, or waits behind the records that wait for room (R249). -/
def enqueueRecord (s : State) (isl : Nat) (ws : List DWord) : State :=
  modMem s isl fun m =>
    if m.frqWait = [] && frqCount m < 4095 then frqWrite m ws else { m with frqWait := m.frqWait ++ [ws] }

/-- The longest run of waiting records that now fits enters the ring. -/
def frqAdmit : Nat → IslandMem → IslandMem
  | 0, m => m
  | n + 1, m =>
    match m.frqWait with
    | [] => m
    | ws :: t => if frqCount m < 4095 then frqAdmit n { frqWrite m ws with frqWait := t } else m

/-- Words 0 to 6 of an escalation record (R330). -/
def escalationRecord (kind slot core ctx : Nat) (cause pc mask tcause tspc master : DWord) : List DWord :=
  [BitVec.ofNat 64 (2 ^ 63 + kind * 2 ^ 60 + slot % 64 * 2 ^ 40 + core % 256 * 2 ^ 32 + ctx % 65536 * 2 ^ 16
      + cause.toNat % 65536),
   cause, pc, mask, tcause, tspc, master]

/-! ## Termination and escalation (R324, R332) -/

/-- An engine operation of a team that ends keeps the team memory that it is still to read (R332). -/
def ownTeam (s : State) (i c : Nat) (o : EngineOp) : EngineOp :=
  let t := teamOf s o.team
  if o.own.isNone && (tblGet? s.teams o.team).isSome && t.island = i && t.ctx = c then { o with own := some (t.mem, t.dead) }
  else o

/-- The context's groups leave their slots and its teams end on one island (R332). Engine operations in flight stay
and land; held faults are discarded with the groups. -/
def discardGroups (s : State) (i c : Nat) : State :=
  let s := modMem s i fun m => { m with engines := m.engines.map fun p => (p.1, ownTeam s i c p.2) }
  { s with
    groups := s.groups.filter fun p => !onPartition i c p.2
    teams := s.teams.filter fun p => !(p.2.island = i && p.2.ctx = c) }

/-- BUSY falls where the command under way is the context's, and the management core is to be interrupted (R319). -/
def busyEnds (c : Nat) (x : Island) : Island :=
  if x.ctxBusy && x.ctxCtx = c then { x with ctxBusy := false, busyFell := true } else x

/-- The management core is interrupted: BUSY has fallen (R319), or FRQTAIL differs from FRQHEAD (R249). What the core does on
an interrupt no rule gives, so nothing in the model reads this (log 37). -/
def mgmtInterrupt (s : State) (i : Nat) : Bool :=
  let x := islOf s i
  x.busyFell || x.mem.frqTail ≠ x.mem.frqHead

/-- The HEAD value of the oldest started packet of a queue that has an Aborted grid (R362). -/
def abortedIdx (s : State) (n : Nat) : Option Word :=
  (s.panel.started.find? fun p => p.2.queue = n
    && p.2.grids.any fun k => (tblGet s.panel.grids k).state = .aborted).map (·.2.index)

/-- A queue whose context enters Terminated (R358): a packet with an Aborted grid is the failed one, where there is
one (R362). -/
def queueTerminated (s : State) (c n : Nat) (q : Queue) : Queue :=
  if q.cfg.toNat / 2 ^ 32 % 2 ^ 16 = c && q.state ≠ .none && q.state ≠ .disabled && q.state ≠ .error then
    let x := abortedIdx s n
    { q with state := .error, status := 9, failIdx := x.getD q.head, failPacket := x.isSome, next := none }
  else q

/-- A grid whose context enters Terminated on its island (R352). -/
def gridTerminated (i c : Nat) (g : Grid) : Grid :=
  if g.island = i && g.ctx = c && (g.state = .dispatching || g.state = .running) then { g with state := .aborted } else g

/-- Queues, grids and monitors of a context that enters Terminated (R352, R358, R425). -/
def endWork (s : State) (i c : Nat) : State :=
  let s := modIsl s i fun x => { x with
    monitors := x.monitors.map fun p =>
      if p.2.src ≠ 0 && p.2.owner = c then (p.1, clearMonitor { p.2 with src := 0 }) else p }
  let s : State := { s with panel := { s.panel with grids := s.panel.grids.map fun p => (p.1, gridTerminated i c p.2) } }
  { s with panel := { s.panel with
      queues := s.panel.queues.map fun p => (p.1, queueTerminated s c p.1 p.2)
      waits := s.panel.waits.filter fun p => (tblGet s.panel.queues p.1).cfg.toNat / 2 ^ 32 % 2 ^ 16 ≠ c } }

/-- The context enters Terminated on one island (R332). Its outstanding parks end with it. -/
def terminateHere (s : State) (i c : Nat) : State :=
  let s := endWork (discardGroups s i c) i c
  let s := modCtx s i c fun x => { x with
    state := .terminated, released := [], restoring := false, captured := false, unseated := false }
  let s := modIsl s i (busyEnds c)
  noteSite (modMem s i fun m => { m with parks := m.parks.filter fun p => p.2.ctx ≠ c }) i

/-- The context enters Terminated on this island, and the other islands are to be told (R317). -/
def terminateCtx (s : State) (i c : Nat) : State :=
  let s := terminateHere s i c
  { s with propagate := s.propagate ++ [(c, i, none)] }

/-- A fault that cannot enter a handler: a record, and the context's termination (R324, R330). -/
def escalate (s : State) (k : Nat) (g : Group) (kind : Nat) (cause : DWord) (pc : VAddr) (mask : Mask) : State :=
  let z : DWord := 0
  let r := escalationRecord kind g.ident.slot g.ident.core g.ident.ctx cause (pcWord pc) mask
    (if kind = 0 then g.special.tcause else z) (if kind = 0 then g.special.tspc else z) z
  let _ := k
  terminateCtx (enqueueRecord s g.ident.island r) g.ident.island g.ident.ctx

/-! ## Taking a trap and returning from one (R322 to R326) -/

/-- The fragments without the lanes of a mask; a fragment left with no lane ceases to exist (R186). -/
def withoutLanes (m : Mask) (l : List Frag) : List Frag :=
  (l.map fun f => { f with mask := f.mask &&& ~~~m }).filter fun f => f.mask ≠ 0

/-- Steps 2 to 4 of R322: the saved registers, handler mode, the empty handler window, the handler fragment at the
handler entry in place of the fragment that faulted. A fragment that is held from now on waits for no feed queue meanwhile
(log 15). -/
def enterHandler (g : Group) (r : TrapReq) (entry : VAddr) : Group :=
  let st := gstat g
  settle { g with
    special := { g.special with
      tcause := r.cause, tspc := pcWord r.tspc, tstat := st, tmask := r.mask }
    hset := r.mask
    hmode := true
    win1 := {}
    trapReq := none
    held := match r.drop with
      | some h => dropFirst h g.held
      | none => g.held
    frags := (withoutLanes r.mask g.frags).map (fun f => { f with feedSince := none }) ++ [{ mask := r.mask, pc := entry, handler := true }] }

/-- The fragment belongs to the group's mode: one of the other mode is held, with its PC and its record (R323). -/
def inMode (g : Group) (f : Frag) : Bool := f.handler = g.hmode

/-- The group must still retire a chain or an MMAP before a trap can enter (R322, step 1). -/
def entryBlocked (g : Group) : Bool := g.chains ≠ [] || g.mmap.isSome

/-- A fault or software trap is delivered: to the handler, at once or when the group's chains and MMAP have retired, or by
escalation (R322, R324), with the PC that a held entry keeps (R185, R330). While another trap waits to enter, it is not taken:
its instruction has had no effect, and comes to it again. -/
def deliverReq (s : State) (k : Nat) (r : TrapReq) : State :=
  let g := grpOf s k
  let pc := match r.drop with
    | some h => h.pc
    | none => r.tspc
  if g.hmode then escalate s k g 0 r.cause pc r.mask
  else if g.trapReq.isSome then s
  else
    match g.ident.handlerPc with
    | none => escalate s k g 1 r.cause pc r.mask
    | some entry =>
      if entryBlocked g then setGrp s k { g with trapReq := some r }
      else setGrp s k (enterHandler g r entry)

/-- A fault or software trap of a fragment with the given mask is delivered. -/
def deliver (s : State) (k : Nat) (cause : DWord) (tspc : VAddr) (mask : Mask) : State :=
  deliverReq s k { cause := cause, tspc := tspc, mask := mask }

/-- A fault attributed to fragment j, which does not come of itself again: while another trap waits to enter, it is due to the
fragment (R162, R250, R322). -/
def blame (s : State) (k j : Nat) (cause : DWord) : State :=
  let g := grpOf s k
  let f := nth g.frags j
  if g.trapReq.isSome && !g.hmode then setGrp s k (modFrag g j fun f => { f with due := some cause })
  else deliver s k cause f.pc f.mask

/-- A precise fault of the issuing fragment: TSPC its PC, TMASK its mask, nothing else changed. -/
def takeFault (s : State) (cx : Cx) (c : Cause) : State :=
  deliver s cx.key (causeWord c false) cx.f.pc cx.f.mask

/-- The return of R326: lanes of TMASK resume at TSPC, the other lanes of H at TSPC + 4, the handler window is
emptied, and the held fragments go on; every fixed-latency result has been written by then (R47). -/
def returnFromHandler (g : Group) (again skip : Mask) : Group :=
  let pc : VAddr := g.special.tspc.truncate 57
  let mk := fun (m : Mask) (p : VAddr) => if m = 0 then [] else [{ mask := m, pc := p : Frag }]
  settle { g with
    frags := (g.frags.filter fun f => !f.handler) ++ mk again pc ++ mk skip (pcAdd pc 4)
    hmode := false
    hset := 0
    win1 := {}
    score := [] }

/-- A fault found late goes to the held list; when it is full the newest entry's bit 62 is set (R327). -/
def holdEntry (g : Group) (h : HeldFault) : Group :=
  if g.held.length < 4 then { g with held := g.held ++ [h] }
  else { g with held := modNth g.held 3 fun h => { h with cause := h.cause ||| (1#64 <<< 62) } }

/-- A fault found late that no remote operation gave. -/
def holdFault (g : Group) (cause : DWord) (pc : VAddr) : Group := holdEntry g { cause := cause, pc := pc }

/-! ## Issue (R46, R47, R64, R191, R209) -/

/-- A V or P element an instruction reads in a lane: which sub-elements of which lane's register (R209). -/
structure LaneUse where
  isP : Bool := false
  reg : Nat := 0
  lane : Nat := 0
  lo : Bool := true
  hi : Bool := true
deriving DecidableEq, Repr, Inhabited

/-- An S or C register an instruction reads. -/
structure UniUse where
  isC : Bool := false
  reg : Nat := 0
deriving DecidableEq, Repr, Inhabited

/-- What the checks at issue need to know of an instruction. -/
structure Form where
  /-- Its stall count. -/
  st : BitVec 2 := 0
  /-- Issued to a lane pipe, for two cycles at W64 (R28). -/
  lane : Bool := true
  /-- The fixed latency of its results; 0 where it is variable (R46). -/
  lat : Nat := 0
  /-- A privileged encoding (R62). -/
  priv : Bool := false
  /-- Clocks the group offers nothing in after it (YIELD, R197). -/
  extra : Nat := 0
  /-- An encoding case of ILLEGAL that depends on the issuing group or core, STATUS 0x00 (R33, R48). -/
  bad0 : Cx → Bool := fun _ => false
  /-- An operand case of ILLEGAL (R64, item 4). -/
  bad : Cx → Bool := fun _ => false
  /-- A poisoned element read takes REGPOISON; not where the entry leaves item 7 of R64 out (R180, R226). -/
  heeds : Bool := true
  /-- S and C registers read, in operand order. -/
  uni : List UniUse := []
  /-- V and P elements read for a lane, in operand order. -/
  uses : Cx → Nat → List LaneUse := fun _ _ => []
  /-- Registers written; the lane of an element is ignored. -/
  dsts : List Elem := []
  /-- A convergent instruction (R191). -/
  conv : Bool := false

/-- What the body of an instruction answers, after the checks of R64 up to item 7. -/
inductive Res where
  /-- It issued; the state after its effect. -/
  | ok (s : State)
  /-- A precise fault found in execution. -/
  | flt (c : Cause)
  /-- A precise fault; table walks have changed the state. -/
  | fltAt (s : State) (c : Cause)
  /-- It waits without issuing. -/
  | wait
  /-- It waits without issuing; table walks have changed the state. -/
  | waitAt (s : State)
  /-- It did not issue, and the state changes all the same (a park). -/
  | out (s : State)

/-- The elements an instruction reads, with the lanes of its fragment. -/
def readElems (fm : Form) (cx : Cx) : List Elem :=
  (fm.uni.map fun u => if u.isC then .c u.reg else .s u.reg)
    ++ (lanesOf cx.f.mask).flatMap fun l =>
      (fm.uses cx l).map fun u => if u.isP then .p u.reg u.lane else .v u.reg u.lane

/-- The elements an instruction writes. -/
def writeElems (fm : Form) (cx : Cx) : List Elem :=
  fm.dsts.flatMap fun e =>
    match e with
    | .v r _ => (lanesOf cx.f.mask).map fun l => .v r l
    | .p r _ => (lanesOf cx.f.mask).map fun l => .p r l
    | e => [e]

/-- The uniform register that a hold writes when it ends. -/
def Hold.writes : Hold → List Nat
  | .barv _ _ d _ => [d]
  | .pfence _ d => [d]
  | _ => []

/-- An operation of the group, or a chain, is still to write one of the elements (R46). -/
def pendingIn (g : Group) (es : List Elem) : Bool :=
  (g.ops.any fun o => o.writes.any fun w => es.contains w.elem)
    || (g.chains.any fun c => c.writes.any fun w => es.contains w.elem)
    || g.frags.any fun f => f.hold.writes.any fun d => d ≠ 63 && es.contains (.s d)

/-- A fixed-latency result is pending for the element at clock t. -/
def scoreHit (t : Nat) (p : Pending) (e : Elem) : Bool :=
  p.ready > t &&
    match p.reg, e with
    | .v r _, .v r' l => r = r' && inMask p.mask l
    | .p r _, .p r' l => r = r' && inMask p.mask l
    | .s r, .s r' => r = r'
    | .c r, .c r' => r = r'
    | _, _ => false

/-- The clock at which every fixed-latency result among the elements is ready. -/
def scoreReady (g : Group) (t : Nat) (es : List Elem) : Nat :=
  g.score.foldl (fun acc p => if es.any (scoreHit t p) then max acc p.ready else acc) t

/-- INFO of REGPOISON (R210): kind, register, sub-element. -/
def poisonInfo (kind reg sub : Nat) : Word := BitVec.ofNat 32 (kind * 2 ^ 10 + reg * 2 ^ 3 + sub * 2 ^ 2)

/-- The REGPOISON a marked S or C register gives. -/
def uniPoison (g : Regs) (u : UniUse) : Option Cause :=
  if u.isC then
    if u.reg < 7 && g.badC.getLsbD u.reg then some { cls := 0x05, info := poisonInfo 3 u.reg 0 } else none
  else
    if u.reg < 63 && g.badS.getLsbD u.reg then some { cls := 0x05, info := poisonInfo 1 u.reg 0 } else none

/-- The REGPOISON a marked element of a lane gives: sub-element 0 before 1. -/
def lanePoison (g : Regs) (u : LaneUse) : Option Cause :=
  if u.isP then
    if u.reg < 7 && inMask (tblGet g.badP u.reg) u.lane then
      some { cls := 0x05, info := poisonInfo 2 u.reg 0, lane := some u.lane }
    else none
  else
    let b := tblGet g.badV u.reg
    if u.lo && inMask b.lo u.lane then some { cls := 0x05, info := poisonInfo 0 u.reg 0, lane := some u.lane }
    else if u.hi && inMask b.hi u.lane then some { cls := 0x05, info := poisonInfo 0 u.reg 1, lane := some u.lane }
    else none

/-- The first poisoned element read, in the order of R209. -/
def firstPoison (fm : Form) (cx : Cx) : Option Cause :=
  if !fm.heeds then none
  else match fm.uni.findSome? (uniPoison cx.g.regs) with
  | some c => some c
  | none =>
    (lanesOf cx.f.mask).findSome? fun l => (fm.uses cx l).findSome? (lanePoison cx.g.regs)

/-- What a convergent instruction finds (R191). -/
inductive Meet where
  | go | wait | fault (status : BitVec 8)
deriving DecidableEq, Repr

/-- The cases of R191, in their order. -/
def meet (cx : Cx) : Meet :=
  if cx.g.exitedLanes ≠ 0 then .fault 1
  else if cx.f.mask = fullMask (lanesIn cx.g) then .go
  else if cx.g.frags.any fun f => f.parked.isSome || f.pc.toNat < cx.f.pc.toNat then .wait
  else .fault 0

/-- Clocks that arbitration may cost the group at this step: none while no other group is on its core (R47; log 15). -/
def lostHere (s : State) (cx : Cx) : Nat :=
  if s.groups.any fun p => p.1 ≠ cx.key && p.2.ident.core = cx.g.ident.core
      && p.2.ident.island = cx.g.ident.island then Config.lostClocks (2 * s.tick) else 0

/-- Clocks that have passed while the group was held or waited: none where it did neither since its last issue (log 15). -/
def idleHere (s : State) (cx : Cx) : Nat := if cx.g.idle then Config.lostClocks (2 * s.tick + 1) else 0

/-- The core's clock (R36). -/
def coreClock (s : State) (cx : Cx) : Nat := (tblGet (islOf s cx.g.ident.island).cores cx.g.ident.core).clock

/-- The clock in which the instruction would issue: its group's next, and none that its core has passed (R38, R45). -/
def issueClock (s : State) (cx : Cx) : Nat := max cx.g.clk (coreClock s cx) + lostHere s cx + idleHere s cx

/-- How far the checks of R64 let an instruction come. -/
inductive Gate where
  | pass | wait | fault (c : Cause)
deriving DecidableEq, Repr

/-- Items 3 to 7 of R64, in their order, for an instruction whose encoding is legal. -/
def gate (fm : Form) (s : State) (cx : Cx) : Gate :=
  if fm.priv && !privileged cx.g.ident then .fault { cls := 0x02 }
  else if fm.bad0 cx then .fault { cls := 0x01 }
  else if fm.bad cx then .fault { cls := 0x01, status := 1 }
  else if pendingIn cx.g (readElems fm cx ++ writeElems fm cx) then .wait
  else if cx.g.ident.sbchk && scoreReady cx.g (issueClock s cx) (readElems fm cx) > issueClock s cx then
    .fault { cls := 0x03 }
  else
    match if fm.conv then meet cx else .go with
    | .fault st => .fault { cls := 0x04, status := st }
    | .wait => .wait
    | .go =>
      match firstPoison fm cx with
      | some c => .fault c
      | none => .pass

/-- Clocks between the first and the last issue cycle (R28). -/
def extraCycle (fm : Form) (g : Group) : Nat := if fm.lane && g.ident.width = 2 then 1 else 0

/-- A register that ignores writes (R30). -/
def hardwired (e : Elem) : Bool :=
  match e with
  | .s r => r = 63
  | .p r _ => r = 7
  | .c r => r = 7
  | .v .. => false

/-- Two elements are of one register. -/
def sameReg (a b : Elem) : Bool :=
  match a, b with
  | .v r _, .v r' _ => r = r'
  | .p r _, .p r' _ => r = r'
  | .s r, .s r' => r = r'
  | .c r, .c r' => r = r'
  | _, _ => false

/-- A pending result once an instruction writes registers in the lanes of a mask: what it overwrites is pending no more. -/
def overwritten (dsts : List Elem) (mask : Mask) (p : Pending) : Option Pending :=
  if !dsts.any (sameReg p.reg) then some p
  else
    match p.reg with
    | .s _ => none
    | .c _ => none
    | _ => if p.mask &&& ~~~mask = 0 then none else some { p with mask := p.mask &&& ~~~mask }

/-- The scoreboard and clock of the group after an issue at clock t (R45, R46). -/
def bookIssue (fm : Form) (t : Nat) (mask : Mask) (tick : Nat) (g : Group) : Group :=
  let last := t + extraCycle fm g
  wake <| leaveConv mask { g with
    clk := last + fm.st.toNat + 1 + fm.extra
    stall := fm.st.toNat
    ready := tick + fm.extra
    isReady := fm.st = 0
    idle := false
    score := ((g.score.filter fun p => p.ready > last).filterMap (overwritten fm.dsts mask))
      ++ (if fm.lat = 0 then [] else (fm.dsts.filter fun e => !hardwired e).map fun e => { reg := e, mask := mask, ready := last + fm.lat }) }

/-- A core's clock and progress after an issue at clock t and panel time `now` (R36, R340). -/
def bookCore (t now : Nat) (x : Core) : Core := { x with clock := max x.clock t, moved := true, issued := some now }

/-- The group and core after an issue. -/
def bookAll (fm : Form) (cx : Cx) (t : Nat) (s : State) : State :=
  let lost := lostHere s cx
  let id := cx.g.ident
  let s := if lost = 0 then s else sampleCtx s id.island 5 id.ctx lost
  let s := modGrp s cx.key (bookIssue fm t cx.f.mask s.tick)
  modIsl s cx.g.ident.island fun x => { x with cores := tblMod x.cores cx.g.ident.core (bookCore t s.panel.ptime) }

/-- The issuing fragment waits without issuing. -/
def markWaiting (s : State) (cx : Cx) : State :=
  modGrp s cx.key fun g => { g with frags := modNth g.frags cx.ix fun f => { f with waiting := true } }

/-- The issuing fragment waits without issuing; at a convergent instruction the wait is noted as such (R191). -/
def waitIssue (fm : Form) (s : State) (cx : Cx) : State :=
  modGrp s cx.key fun g => { g with frags := modNth g.frags cx.ix fun f =>
    { f with waiting := true, conv := fm.conv && decide (meet cx = .wait) } }

/-- The clock at which the instruction issues: its operands ready (R46). -/
def readyClock (fm : Form) (s : State) (cx : Cx) : Nat :=
  scoreReady cx.g (issueClock s cx) (readElems fm cx)

/-- An instruction of the issuing fragment: the checks of R64, its body, and what issue itself does. -/
def issue (fm : Form) (body : Cx → State → Res) (s : State) : Out :=
  match issuing s with
  | none => .fault .noIssuer
  | some cx =>
    match gate fm s cx with
    | .fault c => .next (takeFault s cx c)
    | .wait => .next (waitIssue fm s cx)
    | .pass =>
      match body cx s with
      | .ok s' => .next (bookAll fm cx (readyClock fm s cx) s')
      | .flt c => .next (takeFault s cx c)
      | .fltAt s' c => .next (takeFault s' cx c)
      | .wait => .next (markWaiting s cx)
      | .waitAt s' => .next (markWaiting s' cx)
      | .out s' => .next s'

/-- An instruction whose form depends on the state and the issuing group. -/
def issueWith (mk : State → Cx → Form) (body : Cx → State → Res) (s : State) : Out :=
  match issuing s with
  | none => .fault .noIssuer
  | some cx => issue (mk s cx) body s

/-! ## Operand cases shared by many instructions (R31) -/

/-- A V operand of n registers from r: beyond the allotment, or not aligned to its span. -/
def badV (cx : Cx) (r n : Nat) : Bool := r % n ≠ 0 || cx.g.allot < r + n

/-- Registers a lane type occupies. -/
def laneRegs (m : BitVec 2) : Nat := if m.toNat < 2 then 1 else 2

/-- The V elements of an operand of n registers from r, in lane l, register by register: R209 does not order the registers of one
operand (log 15). -/
def vUse (r n l : Nat) : List LaneUse := (List.range n).map fun i => { reg := r + i, lane := l }

/-- The P element of register r in lane l. -/
def pUse (r l : Nat) : LaneUse := { isP := true, reg := r, lane := l }

/-- Destination elements of n registers from r. -/
def vDst (r n : Nat) : List Elem := (List.range n).map fun i => .v (r + i) 0

def sUse (r : Nat) : UniUse := { reg := r }

def cUse (r : Nat) : UniUse := { isC := true, reg := r }

/-- The group's registers changed by f, the fragment moved past n bytes. -/
def finish (n : Nat) (f : Regs → Regs) (cx : Cx) (s : State) : Res :=
  .ok (setGrp s cx.key (advance n cx.ix { cx.g with regs := f cx.g.regs }))

end Sys2Proof.Machine
end

