-- ==== Sys2Proof/Machine/Translate.lean ====
section
/-! DEFINITION. Physical memory, page tables, the walk, held translations, translation registers (R237 to R245). -/

namespace Sys2Proof.Machine

open Sys2Proof

/-! ## Physical memory (R238, R311) -/

/-- The first physical address past HBM. -/
def hbmEnd : Nat := 0x6000000000

/-- The first physical address of host memory. -/
def hostBase : Nat := 0x8000000000000

/-- The first physical address past host memory. -/
def hostEnd : Nat := 0x10000000000000

def isHost (p : Nat) : Bool := hostBase ≤ p

/-- A host port is up (R393). -/
def hostUp (s : State) : Bool := (List.range 4).any fun p => !s.panel.down.contains p

/-- Memory at an address can be reached now: it is the island's own, or a host port that is up reaches the host's (R393). -/
def reachable (s : State) (p : Nat) : Bool := !isHost p || hostUp s

/-- The span [a, a + n) lies in HBM or in host memory (R238). -/
def physOk (a n : Nat) : Bool := a + n ≤ hbmEnd || (hostBase ≤ a && a + n ≤ hostEnd)

/-- n bytes at a physical address of an island. -/
def physBytes (s : State) (i p n : Nat) : List Byte :=
  if isHost p then memBytes s.hostMem p n else memBytes (islOf s i).mem.bytes p n

/-- The n-byte little-endian number at a physical address. -/
def physNat (s : State) (i p n : Nat) : Nat := leNat (physBytes s i p n)

/-- The state with bytes written at a physical address of an island. -/
def physPut (s : State) (i p : Nat) (bs : List Byte) : State :=
  if isHost p then { s with hostMem := memPut s.hostMem p bs }
  else modMem s i fun m => { m with bytes := memPut m.bytes p bs }

/-- The 16-byte quarter that holds p is marked poisoned (R311). -/
def marked (s : State) (i p : Nat) : Bool :=
  if isHost p then s.hostPoison.contains (p / 16) else (islOf s i).mem.poison.contains (p / 16)

/-- The marks of the given quarters cleared (R312). -/
def clearMarks (s : State) (i : Nat) (qs : List Nat) : State :=
  let s := { s with hostPoison := s.hostPoison.filter fun q => !qs.contains q }
  modMem s i fun m => { m with poison := m.poison.filter fun q => !qs.contains q }

/-- The marks of the given quarters of the island's HBM, or of host memory, set. -/
def setMarks (s : State) (i : Nat) (qs : List Nat) : State :=
  let h := qs.filter fun q => isHost (q * 16)
  let d := qs.filter fun q => !isHost (q * 16)
  let s := { s with hostPoison := (s.hostPoison.filter fun q => !h.contains q) ++ h }
  modMem s i fun m => { m with poison := (m.poison.filter fun q => !d.contains q) ++ d }

/-! ## Entries (R238, R239) -/

/-- The kinds of access that TRANSLATE knows (R241). -/
inductive Acc where
  | read | write | atomic | fetch
deriving DecidableEq, Repr

/-- The access writes. -/
def Acc.writes : Acc → Bool
  | .write => true
  | .atomic => true
  | .read => false
  | .fetch => false

/-- Bits hi to lo of an entry. -/
def ent (e : DWord) (hi lo : Nat) : Nat := bits e.toNat hi lo

/-- The bytes that an entry of a level covers are 2^shift. -/
def levelShift (lvl : Nat) : Nat :=
  match lvl with
  | 0 => 16
  | 1 => 29
  | 2 => 42
  | _ => 55

/-- The physical frame an entry names. -/
def frameOf (e : DWord) : Nat := ent e 51 16 * 65536

/-- Bytes of the page of a leaf. -/
def leafSize (e : DWord) : Nat :=
  match ent e 57 56 with
  | 0 => 2 ^ 16
  | 1 => 2 ^ 21
  | _ => 2 ^ 29

/-- A valid entry of a level is malformed (R239). -/
def malformed (lvl : Nat) (e : DWord) : Bool :=
  let sz := ent e 57 56
  if bit e.toNat 1 then
    ent e 55 52 ≠ 0 || ent e 15 10 ≠ 0 || bit e.toNat 8 || lvl ≥ 2 || sz = 3
      || (lvl = 1 && sz ≠ 2) || (lvl = 0 && sz ≠ 0 && sz ≠ 1)
      || frameOf e % leafSize e ≠ 0 || (bit e.toNat 9 && bit e.toNat 3)
      || !physOk (frameOf e) (leafSize e)
  else
    lvl = 0 || ent e 63 52 ≠ 0 || ent e 15 2 ≠ 0 || hbmEnd ≤ frameOf e

/-- Where a walk ends. -/
inductive WalkEnd where
  /-- A leaf: the entry, its address, its level. -/
  | leaf (e : DWord) (addr lvl : Nat)
  /-- PAGE with the status, at the level of the entry that failed. -/
  | page (status lvl : Nat)
deriving DecidableEq, Repr

/-- The index of a virtual address at a level (R237). -/
def levelIndex (lvl va : Nat) : Nat :=
  match lvl with
  | 0 => bits va 28 16
  | 1 => bits va 41 29
  | 2 => bits va 54 42
  | _ => bits va 56 55

/-- The 64-bit entry at a physical address of HBM. -/
def entryAt (s : State) (i a : Nat) : DWord := BitVec.ofNat 64 (memNat (islOf s i).mem.bytes a 8)

/-- The entries of a 2 MiB page that may serve an access when they are unequal (R239): well-formed 2 MiB leaves among
the 32, with their addresses. -/
def wideEntries (s : State) (i a : Nat) : List (DWord × Nat) :=
  let base := a / 256 * 256
  ((List.range 32).map fun j => (entryAt s i (base + 8 * j), base + 8 * j)).filter fun p =>
    bit p.1.toNat 0 && bit p.1.toNat 1 && !malformed 0 p.1 && ent p.1 57 56 = 1 && !marked s i p.2

/-- The entry without A and D. -/
def plainEntry (e : DWord) : DWord := e &&& ~~~(0xC0#64)

/-- The leaf at a level, or for a 2 MiB page one of its entries when they differ (R239). -/
def leafAt (s : State) (i : Nat) (e : DWord) (a lvl : Nat) : WalkEnd :=
  if lvl = 0 && ent e 57 56 = 1 then
    let ws := wideEntries s i a
    if ws.all fun p => plainEntry p.1 = plainEntry e then .leaf e a lvl
    else
      let p := ws.getD (Config.wideEntry s.tick % ws.length) (e, a)
      .leaf p.1 p.2 lvl
  else .leaf e a lvl

/-- The address of the entry a walk reads at a level, in a table at the given address. -/
def entryAddr (table lvl va : Nat) : Nat := table + 8 * levelIndex lvl va

/-- A walk from a level on, its table at an address: where it ends, and the entries on its path (R240, R241). -/
def walkFrom (s : State) (i va : Nat) : Nat → Nat → WalkEnd × List (Nat × Nat × DWord)
  | 0, table =>
    let a := entryAddr table 0 va
    let e := entryAt s i a
    if marked s i a then (.page 4 0, [])
    else if !bit e.toNat 0 then (.page 1 0, [])
    else if malformed 0 e then (.page 3 0, [])
    else (leafAt s i e a 0, [(0, a, e)])
  | n + 1, table =>
    let a := entryAddr table (n + 1) va
    let e := entryAt s i a
    if marked s i a then (.page 4 (n + 1), [])
    else if !bit e.toNat 0 then (.page 1 (n + 1), [])
    else if malformed (n + 1) e then (.page 3 (n + 1), [])
    else if bit e.toNat 1 then (leafAt s i e a (n + 1), [((n + 1), a, e)])
    else
      let r := walkFrom s i va n (frameOf e)
      (r.1, ((n + 1), a, e) :: r.2)

/-- The physical address of a context's descriptor (R314). -/
def descAddr (s : State) (i c : Nat) : Nat := (islOf s i).mem.ctxBase + 512 * c

/-- A fresh walk of a context's tables on an island. -/
def walk (s : State) (i c va : Nat) : WalkEnd × List (Nat × Nat × DWord) :=
  walkFrom s i va 3 (descAddr s i c)

/-! ## Rights (R241) -/

/-- The rights of a leaf refuse the access: the fault class and status, in the order of R241. -/
def refuse (e : DWord) (acc : Acc) (priv : Bool) : Option (Bool × Nat) :=
  if bit e.toNat 5 && !priv then some (false, 3)
  else if bit e.toNat 9 && acc.writes then some (true, 2)
  else
    let r := bit e.toNat 2
    let w := bit e.toNat 3
    let x := bit e.toNat 4
    let ok := match acc with
      | .read => r
      | .write => w
      | .atomic => r && w
      | .fetch => x
    if ok then none else some (false, 2)

/-- A translated location: physical address, VCX, the page's frame and size, and the entry whose D the first write sets. -/
structure Loc where
  phys : Nat := 0
  vcx : Nat := 0
  frame : Nat := 0
  size : Nat := 65536
  dirtyAt : Option DirtyRef := none
deriving DecidableEq, Repr, Inhabited

/-- What an address comes to. -/
inductive Trans where
  | ok (l : Loc)
  | prot (status : Nat)
  | page (status lvl size : Nat)
deriving DecidableEq, Repr

/-- The location of a context's virtual address under a leaf. -/
def locOf (c va : Nat) (e : DWord) (addr : Nat) : Loc :=
  let n := leafSize e
  { phys := frameOf e + va % n
    vcx := ent e 63 58
    frame := frameOf e
    size := n
    dirtyAt := if bit e.toNat 7 then none else some { addr := addr, entry := e, ctx := c, va := va } }

/-- The outcome of a walk's end for an access. A PAGE that a leaf gives is on its page; where the walk found no leaf, on the
64 KiB of the address (R248; log 18). -/
def transOf (c va : Nat) (acc : Acc) (priv : Bool) : WalkEnd → Trans
  | .page st lvl => .page st lvl 65536
  | .leaf e a lvl =>
    match refuse e acc priv with
    | some (true, st) => .page st lvl (leafSize e)
    | some (false, st) => .prot st
    | none => .ok (locOf c va e a)

/-! ## Held translations (R240, R241) -/

/-- The held entries of a context that cover an address. -/
def heldFor (s : State) (i c va : Nat) : List TlbEntry :=
  (islOf s i).mem.tlb.filter fun t => t.ctx = c && t.va ≤ va && va < t.va + t.size

/-- What TRANSLATE may use: where it ends, the entries read on the way, and whether it walked to its end (R240, R241). -/
structure Found where
  stop : WalkEnd
  path : List (Nat × Nat × DWord) := []
  walked : Bool := true
deriving DecidableEq, Repr

/-- A fresh walk. -/
def freshUse (s : State) (i c va : Nat) : Found :=
  let r := walk s i c va
  { stop := r.1, path := r.2 }

/-- The use of a held entry: a leaf as it stands, or a walk on from a table entry. -/
def heldUse (s : State) (i va : Nat) (t : TlbEntry) : Found :=
  if bit t.entry.toNat 1 then { stop := .leaf t.entry t.addr t.level, walked := false }
  else
    match t.level with
    | 0 => { stop := .page 3 0 }
    | n + 1 =>
      let r := walkFrom s i va n (frameOf t.entry)
      { stop := r.1, path := r.2 }

/-- A held leaf permits the access: rights, and D for a write, whose update would find the entry changed (R240). -/
def heldPermits (acc : Acc) (priv : Bool) : WalkEnd → Bool
  | .page .. => false
  | .leaf e _ _ => (refuse e acc priv).isNone && (!acc.writes || bit e.toNat 7)

/-- A held end and the fresh one give an access one outcome: the same leaf, whose A and D it leaves as they are. -/
def sameEnd (acc : Acc) : WalkEnd → WalkEnd → Bool
  | .leaf a _ _, .leaf b _ _ => plainEntry a = plainEntry b && bit b.toNat 6 && (!acc.writes || bit b.toNat 7)
  | .page a b, .page c d => a = c && b = d
  | _, _ => false

/-- What an access may use: the fresh walk, and held entries that permit it and differ (R241; log 7). -/
def usesFor (s : State) (i c va : Nat) (acc : Acc) (priv : Bool) : List Found :=
  let fresh := freshUse s i c va
  let held := (heldFor s i c va).map (heldUse s i va)
  fresh :: held.filter fun h => heldPermits acc priv h.stop && !sameEnd acc h.stop fresh.stop

/-- The virtual range of an entry of a level. -/
def coverOf (lvl va : Nat) (e : DWord) : Nat × Nat :=
  let n := if bit e.toNat 1 then leafSize e else 2 ^ levelShift lvl
  (va / n * n, n)

/-- The entries of a path, held from now on (R240). -/
def holdPath (c va : Nat) (p : List (Nat × Nat × DWord)) (l : List TlbEntry) : List TlbEntry :=
  p.foldl (fun acc x =>
    let r := coverOf x.1 va x.2.2
    let t : TlbEntry := { ctx := c, level := x.1, va := r.1, size := r.2, entry := x.2.2 ||| 0x40, addr := x.2.1 }
    let t := if bit t.entry.toNat 1 then t else { t with entry := x.2.2 }
    if acc.contains t then acc else acc ++ [t]) l

/-- The entry with a bit set, unless it is already. -/
def setEntryBit (s : State) (i a b : Nat) : State :=
  let e := entryAt s i a
  if bit e.toNat b then s
  else modMem s i fun m => { m with bytes := memPutNat m.bytes a (e.toNat + 2 ^ b) 8 }

/-- A walk sets A in the leaf it reaches (R240). -/
def setAccessed (s : State) (i : Nat) : WalkEnd → State
  | .leaf _ a _ => setEntryBit s i a 6
  | .page .. => s

/-- What TRANSLATE uses for an access (R241; log 7). -/
def chosenUse (s : State) (i c va : Nat) (acc : Acc) (priv : Bool) (salt : Nat) : Found :=
  match usesFor s i c va acc priv with
  | [] => freshUse s i c va
  | [x] => x
  | x :: t => (x :: t).getD (Config.heldTranslation (s.tick * 64 + salt) % (t.length + 1)) x

/-- TRANSLATE (R241) up to the rights: the end the access uses, and the state after its walk, which sets A in the leaf that it
reaches (R240). -/
def walkHeld (s : State) (i c va : Nat) (acc : Acc) (priv : Bool) (salt : Nat) : State × WalkEnd :=
  let x := chosenUse s i c va acc priv salt
  let s := if x.walked then setAccessed s i x.stop else s
  (modMem s i fun m => { m with tlb := holdPath c va x.path m.tlb }, x.stop)

/-- TRANSLATE(va, acc) (R241). -/
def translate (s : State) (i c : Nat) (priv : Bool) (va : Nat) (acc : Acc) (salt : Nat) : State × Trans :=
  let r := walkHeld s i c va acc priv salt
  (r.1, transOf c va acc priv r.2)

/-- The first write through a translation sets D in the entry, if that still holds the value walked, its A set; a D that another
write has set needs no second one. Else the walk starts again, and D is set in the leaf that now gives the same place (R240). The
write itself is made where it was translated: an engine takes no fault after issue (R241, R252; log 7). -/
def setDirty (s : State) (i phys : Nat) : Option DirtyRef → State
  | none => s
  | some d =>
    if entryAt s i d.addr ||| 0x80#64 = d.entry ||| 0xC0#64 then setEntryBit s i d.addr 7
    else
      let r := walkHeld s i d.ctx d.va .write true 0
      match r.2 with
      | .leaf e a _ => if frameOf e + d.va % leafSize e = phys then setEntryBit r.1 i a 7 else r.1
      | .page .. => r.1

/-! ## Translation registers (R242 to R245) -/

/-- T[t]; a register that nothing has written is empty (R242). -/
def readT (g : Regs) (t : Nat) : TReg := (tblGet? g.t t).getD { e := true }

def writeT (g : Regs) (t : Nat) (x : TReg) : Regs := { g with t := tblSet g.t t x }

/-- The register's cached translation permits the access without TRANSLATE (R243). -/
def tPermits (t : TReg) (acc : Acc) (priv : Bool) : Bool :=
  let r := t.rights
  let read := r.getLsbD 0
  let write := r.getLsbD 1 && r.getLsbD 4 && !r.getLsbD 3
  (!r.getLsbD 2 || priv) &&
    match acc with
    | .read => read
    | .write => write
    | .atomic => read && write
    | .fetch => false

/-- The location that a cached translation gives at an offset below LIMIT: on the base page (R243). -/
def tLoc (t : TReg) (o : Nat) : Loc :=
  { phys := t.pbase + o, vcx := t.vcx, frame := t.pbase - t.base.toNat % t.size, size := t.size }

/-- ADDR(t, o, acc) (R243). -/
def addrOf (s : State) (i c : Nat) (priv : Bool) (t : TReg) (o : Nat) (acc : Acc) (salt : Nat) : State × Trans :=
  if t.e then (s, .prot 4)
  else if t.cv && o < t.limit.toNat && tPermits t acc priv then (s, .ok (tLoc t o))
  else if t.base.toNat + o ≥ 2 ^ 57 then (s, .prot 1)
  else translate s i c priv (t.base.toNat + o) acc salt

/-! ## The context's VC table (R257) -/

/-- The entry of a context's VC table that an access uses: the one in memory, or a held one (R257; log 7). -/
def vctEntry (s : State) (i c vcx salt : Nat) : State × Byte :=
  let fresh := memGet (islOf s i).mem.bytes (descAddr s i c + 0x20 + vcx)
  let held := ((islOf s i).mem.vct.filter fun v => v.ctx = c && v.vcx = vcx && v.val ≠ fresh).map (·.val)
  let b := if held = [] then fresh
    else (fresh :: held).getD (Config.heldTranslation (s.tick * 64 + salt) % (held.length + 1)) fresh
  let t : VctEntry := { ctx := c, vcx := vcx, val := fresh }
  (modMem s i fun m => if m.vct.contains t then m else { m with vct := m.vct ++ [t] }, b)

end Sys2Proof.Machine
end

