-- ==== Sys2Proof/Machine/Lines.lean ====
section
/-! DEFINITION. Where lines are kept: banks, shares, placement, moves, home records, range locks
(R230, R231, R255 to R261, R269, R288 to R292). None of it holds a value: memory does (R281). -/

namespace Sys2Proof.Machine

open Sys2Proof

/-! ## Banks (R255, R256) -/

/-- The banks of a share, by 24 × slice + bank. -/
def shareBanks (h : Share) : List Nat := (List.range h.banks).map fun i => 24 * h.slice + h.first + i

/-- The banks of a deckle. -/
def deckleBanks (d : List Share) : List Nat := d.flatMap shareBanks

/-- Banks a VC keeps from VC 0. -/
def vcBanks (v : Vc) : List Nat := deckleBanks v.deckle ++ deckleBanks v.oldMap ++ v.owed

/-- A bank is in VC 0. -/
def bankFree (m : IslandMem) (b : Nat) : Bool :=
  !m.failed.contains b && m.vcs.all fun p => !(vcBanks p.2).contains b

/-- How many banks VC 0 holds. -/
def freeBanks (m : IslandMem) : Nat :=
  6144 - (m.failed ++ m.vcs.flatMap fun p => vcBanks p.2).eraseDups.length

/-- VC 0's definition (R256). -/
def vcZero : Vc :=
  { state := .active
    spec := { owner := 0xFFFF, waysCode := 3, lineCode := 1 } }

/-- A VC of an island, VC 0 included. -/
def vcOf (m : IslandMem) (v : Nat) : Vc := if v = 0 then vcZero else tblGet m.vcs v

/-- 64-byte sectors of a line. -/
def lineSectors (v : Vc) : Nat := 2 ^ v.spec.lineCode.toNat

/-! ## Placement and eviction (R258) -/

/-- Distance of two logical quads. -/
def quadDistance (a b : Nat) : Nat :=
  (Int.natAbs ((a / 8 : Nat) - (b / 8 : Nat) : Int)) + Int.natAbs ((a % 8 : Nat) - (b % 8 : Nat) : Int)

/-- The index of the share nearest to a core's quad, ties to the lower index. -/
def nearestShare (d : List Share) (core : Nat) : Nat :=
  (d.zipIdx.foldl (fun (best : Option (Nat × Nat)) p =>
    let x := quadDistance (p.1.slice / 4) (core / 4)
    match best with
    | some b => if x < b.1 then some (x, p.2) else some b
    | none => some (x, p.2)) none).elim 0 (·.2)

/-- The first bank of VC 0 from b on. -/
def seekBank (m : IslandMem) : Nat → Nat → Nat
  | 0, b => b
  | n + 1, b => if bankFree m b then b else seekBank m n ((b + 1) % 6144)

/-- The map that fills go to: O while claimed banks of N still hold lines of VC 0 (R266). -/
def fillMap (v : Vc) : List Share := if v.state = .resizing && v.claim ≠ [] then v.oldMap else v.deckle

/-- The bank a line is placed in, where the VC has a share (R258). -/
def placeBank (m : IslandMem) (vn core line : Nat) : Option Nat :=
  if vn = 0 then some (seekBank m 6144 (Config.lineHash line 0 % 6144))
  else
    let v := vcOf m vn
    match fillMap v with
    | [] => none
    | h :: t =>
      let d := h :: t
      let k := if v.spec.affine then nearestShare d core
        else if t = [] then 0 else Config.lineHash line 0 % d.length
      let x := nth d k
      some (24 * x.slice + x.first + Config.lineHash line 2 % x.banks)

/-- The map by which a line of a VC lies: N, or O while claimed banks of N still hold lines of VC 0, and for the lines that remain
in O (R266). -/
def byOld (v : Vc) (old : Bool) : Bool := old || (v.state = .resizing && v.claim ≠ [])

/-- The share that holds a bank by a map, of a VC other than VC 0. -/
def shareAt (v : Vc) (old : Bool) (b : Nat) : Option Share :=
  (if byOld v old then v.oldMap ++ v.deckle else v.deckle ++ v.oldMap).find? fun h => (shareBanks h).contains b

/-- Two banks lie in one share of a VC; each bank of VC 0 stands alone. -/
def sameShare (v : Vc) (vn : Nat) (old : Bool) (a b : Nat) : Bool :=
  a = b || (vn ≠ 0 && (shareAt v old a).any fun h => (shareBanks h).contains b)

/-- Banks of the share that holds a bank. -/
def shareSize (v : Vc) (vn : Nat) (old : Bool) (b : Nat) : Nat := if vn = 0 then 1 else ((shareAt v old b).map (·.banks)).getD 1

/-- The first bank of the share that holds a bank. -/
def shareBase (v : Vc) (vn : Nat) (old : Bool) (b : Nat) : Nat :=
  if vn = 0 then b else ((shareAt v old b).map fun h => 24 * h.slice + h.first).getD b

/-- Lines that the share of a bank holds: 15 of 16 with race checking on (R258). -/
def shareLines (v : Vc) (vn : Nat) (old : Bool) (b : Nat) : Nat :=
  let n := shareSize v vn old b * 65536 / (64 * lineSectors v)
  if v.spec.rc then n / 16 * 15 else n

/-- Ways of a VC. -/
def vcWays (v : Vc) : Nat := 2 ^ v.spec.waysCode.toNat

/-- Sets of the share that holds a bank: the last may have fewer ways than the others (R258; log 8). -/
def shareSets (v : Vc) (vn : Nat) (old : Bool) (b : Nat) : Nat := max 1 ((shareLines v vn old b + vcWays v - 1) / vcWays v)

/-- The set of a line in the share of a bank: which one is not architectural (R258). -/
def setOf (v : Vc) (vn : Nat) (old : Bool) (b line : Nat) : Nat := Config.lineHash line 1 % shareSets v vn old b

/-- Ways of a set. -/
def setWays (v : Vc) (vn : Nat) (old : Bool) (b set : Nat) : Nat := min (vcWays v) (shareLines v vn old b - set * vcWays v)

/-- A line of a set: its first sector, its order of filling, its way. -/
structure SetLine where
  line : Nat := 0
  filled : Nat := 0
  way : Nat := 0
deriving DecidableEq, Repr, Inhabited

/-- The other lines of the set a line falls into. -/
def setLines (m : IslandMem) (vn : Nat) (old : Bool) (bank line : Nat) : List SetLine :=
  let v := vcOf m vn
  let same := m.sectors.filter fun p =>
    p.2.vc = vn && sameShare v vn old bank p.2.bank && p.2.line ≠ line && setOf v vn old bank p.2.line = setOf v vn old bank line
  (same.map fun p => { line := p.2.line, filled := p.2.filled, way := p.2.way }).eraseDups

/-- The number of a set's replacement tree. -/
def treeKey (v : Vc) (vn : Nat) (old : Bool) (bank line : Nat) : Nat :=
  (vn * 6144 + shareBase v vn old bank) * 2 ^ 20 + setOf v vn old bank line

/-- A tree over 2^n ways after a use of one: every node on the way to it points to its other side (R258). -/
def treeUse (n way t : Nat) : Nat :=
  (List.range n).foldl (fun t j =>
    let node := 2 ^ j + way / 2 ^ (n - j)
    let t := if bit t node then t - 2 ^ node else t
    if bit way (n - 1 - j) then t else t + 2 ^ node) t

/-- The way that a tree over 2^n ways points to. -/
def treeWay (n t : Nat) : Nat := (List.range n).foldl (fun w j => 2 * w + if bit t (2 ^ j + w) then 1 else 0) 0

/-- A use of a line at a place, in its set's tree. -/
def useWay (m : IslandMem) (vn : Nat) (old : Bool) (bank line way : Nat) : IslandMem :=
  let v := vcOf m vn
  let n := Nat.log2 (setWays v vn old bank (setOf v vn old bank line))
  { m with trees := tblMod m.trees (treeKey v vn old bank line) (treeUse n way) }

/-- A line of a VC dropped. -/
def dropLine (m : IslandMem) (vn line : Nat) : IslandMem :=
  { m with sectors := m.sectors.filter fun p => !(p.2.vc = vn && p.2.line = line) }

/-- The line that a full set of 2^n ways gives up: the earliest filled under FIFO, else the one its tree points to (R258; how
the tree starts, and that every use turns it, is log 8). -/
def victimOf (v : Vc) (n tree : Nat) (ls : List SetLine) : SetLine :=
  let first := ls.headD {}
  if v.spec.fifo then ls.foldl (fun b x => if x.filled < b.filled then x else b) first
  else (ls.find? fun x => x.way = treeWay n tree).getD first

/-- Room for a line at a bank, and its way there: a free one, or that of the line which a full set evicts (R258, R260). -/
def makeRoom (m : IslandMem) (vn : Nat) (old : Bool) (bank line : Nat) : IslandMem × Nat :=
  let v := vcOf m vn
  let ls := setLines m vn old bank line
  let ways := setWays v vn old bank (setOf v vn old bank line)
  match (List.range ways).find? fun w => ls.all fun x => x.way ≠ w with
  | some w => (m, w)
  | none =>
    let x := victimOf v (Nat.log2 ways) (tblGet m.trees (treeKey v vn old bank line)) ls
    (dropLine m vn x.line, x.way)

/-- A sector brought into a line at a place, with what it carries (R261). -/
def bringSector (vn bank line : Nat) (old : Bool) (way : Nat) (sec : Nat) (m : IslandMem) : IslandMem :=
  let x := tblGet m.sectors sec
  let y := { x with vc := vn, bank := bank, line := line, old := old, way := way, filled := m.fills }
  { m with sectors := tblSet m.sectors sec y }

/-- A line of the old map at a bank stays where it is under the new one (R266; log 22). -/
def staysPut (m : IslandMem) (vn : Nat) (v : Vc) (o n : List Share) (bank line : Nat) : Bool :=
  let both := n.filter o.contains
  (deckleBanks both).contains bank
    && (v.spec.affine || (match placeBank { m with vcs := tblAdj m.vcs vn fun v => { v with claim := [] } } vn 0 line with
        | some b => both.any fun h => (shareBanks h).contains b && (shareBanks h).contains bank
        | none => false))

/-- A line brought into a VC at its place, or written back and dropped where the VC has no share (R261, R266). -/
def fillLine (m : IslandMem) (vn core line : Nat) : IslandMem :=
  let v := vcOf m vn
  let n := lineSectors v
  match placeBank m vn core line with
  | none => dropLine m vn line
  | some b =>
    let r := makeRoom m vn false b line
    let old := v.state = .resizing && v.claim ≠ [] && !staysPut m vn v v.oldMap v.deckle b line
    let m := (List.range n).foldl (fun m j => bringSector vn b line old r.2 (line + j) m) { r.1 with fills := m.fills + 1 }
    useWay m vn old b line r.2

/-- One line moved on access into the new map (R266). -/
def countMove (m : IslandMem) (vn : Nat) : IslandMem :=
  { m with vcs := tblAdj m.vcs vn fun v => { v with mva := v.mva + 1 } }

/-- A held sector marked dirty. -/
def markDirty (m : IslandMem) (sec : Nat) : IslandMem :=
  { m with sectors := tblAdj m.sectors sec fun x => { x with dirty := true } }

/-- The lines after an access through a VC (R260, R261, R266). -/
def touchLines (m : IslandMem) (vn core sec : Nat) (wr : Bool) : IslandMem :=
  let v := vcOf m vn
  let n := lineSectors v
  let line := sec / n * n
  let keepsDirty := wr && v.spec.policy ≠ 1
  match tblGet? m.sectors sec with
  | some x =>
    let m :=
      if x.vc ≠ vn then fillLine m vn core line
      else if x.old && v.claim = [] then countMove (fillLine m vn core line) vn
      else useWay m vn x.old x.bank line x.way
    if keepsDirty then markDirty m sec else m
  | none =>
    if !wr || v.spec.policy = 0 then
      let m := fillLine m vn core line
      if keepsDirty then markDirty m sec else m
    else m

/-- A sector's line after an access through a VC (R260, R261): what is held and where, never a value; a resize counts the
lines that move (R266). -/
def vcTouch (m : IslandMem) (vn core sec : Nat) (wr : Bool) : IslandMem :=
  let x := touchLines m vn core sec wr
  { m with
    sectors := x.sectors, trees := x.trees, fills := x.fills
    vcs := if (vcOf m vn).state = .resizing then x.vcs else m.vcs }

/-! ## Home records and L1 copies (R288 to R290, R294) -/

/-- The L1 of a core: its own, or its quad's when pooled (R288). -/
def l1Of (pool : Bool) (core : Nat) : Nat := if pool then 256 + core / 4 else core

/-- The kinds of access a home sees. -/
inductive HomeAct where
  | load | store | atomic
deriving DecidableEq, Repr

/-- Whether an L1 holds a copy that its own store updates. -/
def holdsCopy (h : Home) (l1 : Nat) : Bool := h.shr.contains l1 || h.si.contains l1 || h.ownl = some l1

/-- Where copies of a sector lie after an access of an L1 by request type (R289). -/
def copiesAfter (h : Home) (l1 : Nat) (q : BitVec 2) (act : HomeAct) : Home :=
  let others := fun (l : List Nat) => l.filter (· ≠ l1)
  let keptOwner := if h.ownl = some l1 then h.ownl else none
  match act, q.toNat with
  | .load, 0 =>
    if h.ownl = some l1 then h else { h with ownl := none, shr := others h.shr ++ [l1], si := others h.si }
  | .load, 1 => { h with ownl := some l1, shr := [], si := others h.si }
  | .load, 2 => if holdsCopy h l1 then { h with ownl := keptOwner } else { h with ownl := none, si := h.si ++ [l1] }
  | .load, _ => { h with ownl := none }
  | .store, 1 => { h with ownl := some l1, shr := [], si := others h.si }
  | .store, 3 => { h with ownl := none, shr := [], si := [] }
  | .store, _ => { h with ownl := none, shr := if holdsCopy h l1 then [l1] else [], si := others h.si }
  | .atomic, _ => { h with ownl := none, shr := [], si := others h.si }

/-- The home record after an access of an L1 by request type (R289): the owner's copy is dirty once it has stored in it; a recall
brings the writes of an owner home, so that the next owner's copy is clean (log 50). -/
def homeAfter (h : Home) (l1 : Nat) (q : BitVec 2) (act : HomeAct) : Home :=
  let x := copiesAfter h l1 q act
  { x with wrote := x.ownl = some l1 && ((act = .store && q = 1) || (h.ownl = some l1 && h.wrote)) }

/-- The host's states of the sector after an access of the device (R288, R294, R306). -/
def hostAfter (host : Bool) (h : Home) (q : BitVec 2) (act : HomeAct) : Home :=
  let takes := act ≠ .load || q = 1
  if host then
    { h with cxl := if act ≠ .load then .modified
        else if q = 1 then (if h.cxl = .modified then .modified else .exclusive)
        else if h.cxl = .invalid then .shared else h.cxl }
  else { h with hst := if takes then .none else if h.hst = .owned then .shared else h.hst }

/-- A sector after an access: its line, its home record, its L1 copies. -/
def cacheAccess (m : IslandMem) (vn core l1 sec : Nat) (q : BitVec 2) (act : HomeAct) : IslandMem :=
  let wr := act ≠ .load
  let m :=
    if q ≠ 3 then vcTouch m vn core sec wr
    else if act = .store then { m with sectors := tblDel m.sectors sec }
    else if act = .load then { m with sectors := tblAdj m.sectors sec fun x => { x with dirty := false } }
    else m
  { m with home := tblMod m.home sec fun h => hostAfter (isHost (sec * 64)) (homeAfter h l1 q act) q act }

/-! ## Ownership requests (R291) -/

/-- The home slice of a sector: a free function of its address (R261; log 6). -/
def homeSlice (sec : Nat) : Nat := Config.lineHash sec 4 % 256

/-- The place of a core in cyclic order from a pointer. -/
def rankFrom (ptr core : Nat) : Nat := (core + 256 - ptr % 256) % 256

/-- A request at this step reaches the home in the clock of those before it: it comes at the next step, from another L1, and after
them in the cyclic order, so that the steps come in the order in which the home serves them (log 50). -/
def sameClock (t : Tie) (step core l1 : Nat) : Bool :=
  match t.asked.getLast? with
  | none => false
  | some x => t.step + 1 = step && (t.asked.all fun y => y.2 ≠ l1) && rankFrom t.ptr x.1 < rankFrom t.ptr core

/-- The requests of one clock at a sector, that of a core's L1 at this step the last. -/
def tieAt (m : IslandMem) (slice sec step core l1 : Nat) : Tie :=
  let t := (tblGet m.home sec).tie
  if sameClock t step core l1 then { t with step := step, asked := t.asked ++ [(core, l1)] }
  else { step := step, ptr := tblGet m.ptr slice % 256, asked := [(core, l1)] }

/-- The request of a core's L1 for ownership of a sector: the owner hands over to it, and PTR passes the winner where several L1s
ask in one clock. -/
def askOwner (slice sec step core l1 : Nat) (m : IslandMem) : IslandMem :=
  let t := tieAt m slice sec step core l1
  { m with
    home := tblMod m.home sec fun h => { h with ownl := some l1, tie := t }
    ptr := match t.asked with
      | w :: _ :: _ => tblSet m.ptr slice ((w.1 + 1) % 256)
      | _ => m.ptr }

/-- An acquire at team scope or wider drops the L1's SI copies (R289, R310). -/
def dropSi (m : IslandMem) (l1 : Nat) : IslandMem :=
  { m with home := m.home.map fun p => (p.1, { p.2 with si := p.2.si.filter (· ≠ l1) }) }

/-! ## The VC of an access (R269) -/

/-- What a VC answers to an access. -/
inductive VcAns where
  | ok (vn : Nat)
  | waits
  | fault (status vn : Nat)
deriving DecidableEq, Repr

/-- The cases of R269 for a context's access through an entry of its VC table; `wr` a store, atomic or landing. -/
def vcCheck (m : IslandMem) (c : Nat) (b : Byte) (wr : Bool) : VcAns :=
  let vn := b.toNat % 64
  let v := vcOf m vn
  if b.toNat ≥ 64 then .fault 7 vn
  else if vn = 63 || v.state = .undefined || v.state = .draining || v.state = .retired then .fault 1 vn
  else if v.state = .defined then .waits
  else if vn ≠ 0 && v.state = .active && v.deckle = [] then .fault 2 vn
  else if v.state = .failed then .fault 3 vn
  else if v.spec.owner ≠ c && v.spec.owner ≠ 0xFFFF then .fault 4 vn
  else if v.spec.shadow then .fault 5 vn
  else if wr && v.spec.policy = 3 then .fault 6 vn
  else .ok vn

/-- INFO of VCFAULT (R270). -/
def vcInfo (vcx vn : Nat) : Word := BitVec.ofNat 32 (vn * 2 ^ 8 + vcx)

/-! ## Range locks (R230, R231) -/

/-- The spans [a, a + n) and [lo, hi] share a byte. -/
def overlaps (a n lo hi : Nat) : Bool := a ≤ hi && lo < a + n

/-- TCAUSE code of an engine (R231). -/
def engineCode : Engine → Nat
  | .tcopy => 0 | .tsto => 1 | .acp16 => 2 | .get => 3 | .put => 4

/-- The lock an access of a program meets: its status and engine (R231). -/
def lockHit (m : IslandMem) (team : Bool) (owner a n : Nat) (wr : Bool) : Option (Nat × Nat) :=
  (m.locks.find? fun k => k.team = team && k.owner = owner && overlaps a n k.lo k.hi && (k.dest || wr)).map
    fun k => (if k.dest then 1 else 2, engineCode k.engine)

end Sys2Proof.Machine
end

