-- ==== Sys2Proof/Machine/Order.lean ====
section
/-! DEFINITION. Happens-before, and the races that it leaves (R274 to R287): what each lane knows of the accesses before it,
what a location's value carries, and the metadata of a checked VC. Every access has a thread, its lane, and a count; a clock
holds for each thread the accesses that happen before. Nothing here holds a value, and none of it exists before a VC with race
checking does (log 13). -/

namespace Sys2Proof.Machine

open Sys2Proof

/-! ## Clocks -/

/-- The later of two clocks, thread by thread. -/
def joinClock (a b : Clock) : Clock := b.foldl (fun a p => if tblGet a p.1 < p.2 then tblSet a p.1 p.2 else a) a

/-- The thread of a lane of a group. -/
def threadOf (g : Group) (l : Nat) : Nat := g.thread * 64 + l

def pastOf (g : Group) (l : Nat) : Past := tblGet g.past l

/-- The accesses of other lanes that happen before what a lane does next. -/
def knownBy (g : Group) (l : Nat) : Clock := joinClock g.base (pastOf g l).know

/-- What happens before a later access that a lane's release reaches: what it knows, and its own accesses. -/
def laneClock (g : Group) (l : Nat) : Clock := tblSet (knownBy g l) (threadOf g l) ((pastOf g l).own + 1)

/-- The clocks of the lanes of a mask together. -/
def maskClock (g : Group) (m : Mask) : Clock := (lanesOf m).foldl (fun c l => joinClock c (laneClock g l)) []

/-- The pasts of the lanes of a mask changed. -/
def modPast (m : Mask) (f : Past → Past) (g : Group) : Group :=
  { g with past := (lanesOf m).foldl (fun t l => tblMod t l f) g.past }

/-- The lanes' clocks have been given out: their accesses from now on are not covered by them. -/
def givenOut (m : Mask) (g : Group) : Group := modPast m (fun x => { x with own := x.own + 1 }) g

/-- The lanes learn a clock. -/
def learn (c : Clock) (m : Mask) (g : Group) : Group :=
  if c = [] then g else modPast m (fun x => { x with know := joinClock x.know c }) g

/-- The lanes of a mask synchronise with one another: a uniform access stands in the program order of each (R276). -/
def shareLanes (m : Mask) (g : Group) : Group := givenOut m (learn (maskClock g m) m g)

/-- A VC that checks races is defined on some island: only then is there metadata to compare with (R283). -/
def tracked (s : State) : Bool :=
  s.islands.any fun p => p.2.mem.vcs.any fun v => v.2.spec.rc && v.2.state ≠ .undefined && v.2.state ≠ .retired

/-! ## Scopes (R275) -/

/-- Group h lies in the scope instance of g; scopes 0 group to 4 panel. -/
def reaches (scope : Nat) (g h : Ident) : Bool :=
  match scope with
  | 0 => false
  | 1 => g.island = h.island && g.team = h.team
  | 2 => g.island = h.island && g.core = h.core
  | 3 => g.island = h.island
  | _ => true

/-- A release reaches a group: its own, or one in the instance of its scope. -/
def relReaches (r : Rel) (g : Group) : Bool :=
  match r.who with
  | none => true
  | some x => x.1 = g.thread || reaches r.scope x.2 g.ident

/-- An acquire of a group at a scope synchronises with a release whose value it reads (R278). -/
def syncsWith (y : Nat) (g : Group) (r : Rel) : Bool :=
  match r.who with
  | none => 4 ≤ y
  | some x => x.1 = g.thread || (reaches r.scope x.2 g.ident && reaches y g.ident x.2)

/-! ## Locations (R274) -/

/-- A byte of global memory as a location. -/
def physSpot (i p : Nat) : Nat := if isHost p then p else (i + 1) * 2 ^ 57 + p

/-- A byte of a team's memory as a location. -/
def teamSpot (tm a : Nat) : Nat := (tm + 1) * 2 ^ 64 + a

/-- n locations from one on. -/
def spotsFrom (k n : Nat) : List Nat := (List.range n).map fun j => k + j

/-- The releases that the values of locations carry: the last write's, or those of the atomics that follow a release (R278). -/
def relsAt (s : State) (ks : List Nat) : List Rel := (ks.flatMap fun k => (tblGet s.spots k).rels).eraseDups

/-- The lanes of a group that have accessed one of the locations. -/
def lanesAt (s : State) (g : Group) (ks : List Nat) : Mask :=
  ks.foldl (fun m k => m ||| tblGet (tblGet s.spots k).lanes g.thread) 0

/-- The clocks of releases joined to a clock. -/
def joinRels (c : Clock) (rs : List Rel) : Clock := rs.foldl (fun c r => joinClock c r.clk) c

/-- A release entered among those of a value. -/
def addRel (r : Rel) : List Rel → List Rel
  | [] => [r]
  | x :: t =>
    if x.who = r.who && x.scope = r.scope then { x with clk := joinClock x.clk r.clk } :: t else x :: addRel r t

/-- What happens before an access of a lane to locations, whatever it acquires: program order, the group's earlier accesses to
the same locations (R276), and of an SC atomic the atomics of lower tickets (R286). -/
def pastAt (s : State) (g : Group) (l : Nat) (ks : List Nat) (sc : Bool) : Clock :=
  joinClock (joinClock (knownBy g l) (maskClock g (lanesAt s g ks &&& ~~~(laneBit l))))
    (if sc then (islOf s g.ident.island).scClk else [])

/-- One lane's access as happens-before sees it. -/
structure Touch where
  spots : List Nat := []
  reads : Bool := false
  wrote : Bool := false
  /-- The scopes at which it is a release and an acquire. -/
  rel : Option Nat := none
  acq : Option Nat := none
  sc : Bool := false

/-- A lane's access takes effect: it acquires what it reads; where it wrote, it is the release that its entry or a fence before
it makes it (R277, R278). -/
def touch (t : Touch) (key l : Nat) (s : State) : State :=
  let g := grpOf s key
  let m := laneBit l
  let rs := if t.reads then relsAt s t.spots else []
  let c := joinRels (pastAt s g l t.spots t.sc) (rs.filter fun r => t.acq.any fun y => syncsWith y g r)
  let scopes := if t.wrote then t.rel.toList ++ (pastOf g l).fences else []
  let g := modPast m (fun x => { x with
    know := c
    read := if t.reads then rs else x.read
    fences := if t.wrote then [] else x.fences }) (givenOut (lanesAt s g t.spots &&& ~~~m) g)
  let out := laneClock g l
  let place := fun (x : Spot) => { x with
    rels := if t.wrote then
        scopes.foldl (fun rs y => addRel { clk := out, scope := y, who := some (g.thread, g.ident) } rs) (if t.reads then x.rels else [])
      else x.rels
    lanes := tblMod x.lanes g.thread fun k => k ||| m }
  let s := setGrp s key (if scopes = [] && !t.sc then g else givenOut m g)
  let s := { s with spots := t.spots.foldl (fun t k => tblMod t k place) s.spots }
  let s := if t.sc then modIsl s g.ident.island fun x => { x with scClk := joinClock x.scClk out } else s
  if scopes.any fun y => 4 ≤ y then { s with panel := { s.panel with clk := joinClock s.panel.clk out } } else s

/-- Accesses of lanes to team memory, n bytes each. -/
def touchTeam (cx : Cx) (n : Nat) (reads wrote : Bool) (rel acq : Option Nat) (l : List (Option Nat × Nat)) (s : State) : State :=
  if tracked s then
    l.foldl (fun s p =>
      touch { spots := spotsFrom (teamSpot cx.g.ident.team p.2) n, reads := reads, wrote := wrote, rel := rel, acq := acq }
        cx.key (p.1.getD 0) s) s
  else s

/-! ## Releases and acquires that name no location (R213, R277, R353, R372, R409) -/

/-- A release at panel scope by the lanes of a mask. -/
def panelRelease (s : State) (key : Nat) (m : Mask) : State :=
  if tracked s then
    let g := grpOf s key
    modGrp { s with panel := { s.panel with clk := joinClock s.panel.clk (maskClock g m) } } key (givenOut m)
  else s

/-- The lanes of a fence: the next store or atomic of each is a release, the last load or atomic of each was an acquire. -/
def fencePast (g : Group) (rel acq : Bool) (scope : Nat) (x : Past) : Past :=
  { x with
    fences := if rel then x.fences ++ [scope] else x.fences
    know := if acq then joinRels x.know (x.read.filter (syncsWith scope g)) else x.know }

/-- A fence by the lanes of a mask. -/
def fenceLanes (rel acq : Bool) (scope key : Nat) (m : Mask) (s : State) : State :=
  if tracked s then modGrp s key fun g => modPast m (fencePast g rel acq scope) g else s

/-- The host stores at locations: it may have read every release at panel scope before (R293). -/
def hostTouch (s : State) (ks : List Nat) : State :=
  if tracked s then
    { s with spots := ks.foldl (fun t k => tblMod t k fun x => { x with rels := [{ clk := s.panel.clk, scope := 4 }] }) s.spots }
  else s

/-! ## Races (R280 to R285) -/

/-- Both accesses are atomics whose scopes reach the other group (R280). -/
def bothAtomic (a b : Option Nat) (g h : Ident) : Bool :=
  match a, b with
  | some x, some y => reaches x g h && reaches y h g
  | _, _ => false

/-- What happens before an access about to be made through a hit; what a value read carries is counted in at every scope, since
a fence to come may make the read an acquire (R277). -/
def priorClock (s : State) (cx : Cx) (reads sc : Bool) (lane : Option Nat) (ks : List Nat) : Clock :=
  let ls := match lane with | some l => [l] | none => lanesOf cx.f.mask
  let c := ls.foldl (fun c l => joinClock c (pastAt s cx.g l ks sc)) []
  if reads then joinRels c ((relsAt s ks).filter fun r => relReaches r cx.g) else c

/-- A recorded access and one of n bytes at p of the group form a data race (R280). -/
def formsRace (g : Group) (c : Clock) (p n : Nat) (wr : Bool) (scope : Option Nat) (r : RaceRec) : Bool :=
  r.lo < p % 64 + n && p % 64 < r.lo + r.n && (wr || r.write) && r.thread / 64 ≠ g.thread
    && !(r.step < g.floor || r.count ≤ tblGet c r.thread) && !bothAtomic r.scope scope r.who g.ident

/-- The recorded access that an access through a VC races with (R283, R284), where its metadata has survived. -/
def raceWith (s : State) (cx : Cx) (lane : Option Nat) (vn p n : Nat) (wr reads sc : Bool) (scope : Option Nat) : Option RaceRec :=
  let m := (islOf s cx.g.ident.island).mem
  if !(vcOf m vn).spec.rc then none
  else
    let c := priorClock s cx reads sc lane (spotsFrom (physSpot cx.g.ident.island p) n)
    ((tblGet m.sectors (p / 64)).races.find? (formsRace cx.g c p n wr scope)).filter fun _ => Config.metadataKept s.tick

/-- STATUS of RACE (R285). -/
def raceStatus (before now : Bool) : Nat := if before && now then 3 else if before then 1 else 2

/-- INFO of RACE (R285). -/
def raceInfo (r : RaceRec) : Word := BitVec.ofNat 32 (r.who.core % 256 * 2 ^ 6 + r.who.slot % 64)

/-- The access of a lane recorded in the sector's metadata (R283). -/
def recordAccess (s : State) (cx : Cx) (l vn p n : Nat) (wr : Bool) (scope : Option Nat) : State :=
  let g := grpOf s cx.key
  let r : RaceRec := { lo := p % 64, n := n, thread := threadOf g l, count := (pastOf g l).own + 1, write := wr, scope := scope
                       who := g.ident, step := s.tick }
  let covers := fun (o : RaceRec) =>
    o.thread = r.thread && o.write = wr && o.scope = scope && r.lo ≤ o.lo && o.lo + o.n ≤ r.lo + n
  modMem s g.ident.island fun m =>
    if !(vcOf m vn).spec.rc then m
    else { m with sectors := tblAdj m.sectors (p / 64) fun x => { x with races := (x.races.filter fun o => !covers o) ++ [r] } }

end Sys2Proof.Machine
end

