-- ==== Sys2Proof/Machine/Access.lean ====
section
/-! DEFINITION. The checks of an access to global or team memory in their order, parking, and the notes an access
leaves behind (R246 to R251, R296 to R300). -/

namespace Sys2Proof.Machine

open Sys2Proof

/-! ## Addresses asked for -/

/-- One address an instruction asks for: a lane, or none for a uniform access; a translation register and an offset. -/
structure Req where
  lane : Option Nat := none
  t : TReg := {}
  o : Nat := 0
deriving DecidableEq, Repr, Inhabited

/-- The virtual address of a request (R243). -/
def Req.va (r : Req) : Nat := r.t.base.toNat + r.o

/-- One translated address: the lane, the virtual address, the location, the VC. -/
structure Hit where
  lane : Option Nat := none
  va : Nat := 0
  loc : Loc := {}
  vn : Nat := 0
deriving DecidableEq, Repr, Inhabited

/-- One address with a PAGE fault: the lane, the virtual address, STATUS and LEVEL, and the bytes of its page. -/
structure Miss where
  lane : Option Nat := none
  va : Nat := 0
  status : Nat := 0
  level : Nat := 0
  size : Nat := 65536
deriving DecidableEq, Repr, Inhabited

/-- How an access is to be checked. -/
structure Want where
  acc : Acc := .read
  /-- Bytes. -/
  n : Nat := 4
  q : BitVec 2 := 0
  /-- Scope of an atomic, or of an LDA or STA. -/
  scope : Option Nat := none
  /-- It is a release or an acquire at that scope; it is an SC atomic (R277, R286). -/
  rel : Bool := false
  acq : Bool := false
  sc : Bool := false

/-- What the checks of R298 answer. -/
inductive Checked where
  | fault (s : State) (c : Cause)
  | wait (s : State)
  | go (s : State) (hits : List Hit) (misses : List Miss)

/-- A fresh index for the free choices of one lane. -/
def saltOf (l : Option Nat) : Nat := l.getD 0

/-- The first misaligned address (R297). -/
def misaligned (n : Nat) (rs : List Req) : Option Cause :=
  (rs.find? fun r => r.va % n ≠ 0).map fun r => { cls := 0x08, status := 1, lane := r.lane }

/-- Every request translated, in order (R246). -/
def translateAll (i c : Nat) (priv : Bool) (acc : Acc) : State → List Req → State × List (Req × Trans)
  | s, [] => (s, [])
  | s, r :: rs =>
    let x := addrOf s i c priv r.t r.o acc (saltOf r.lane)
    let y := translateAll i c priv acc x.1 rs
    (y.1, (r, x.2) :: y.2)

/-- The lowest lane's PROT (R246). -/
def firstProt (l : List (Req × Trans)) : Option Cause :=
  l.findSome? fun p =>
    match p.2 with
    | .prot st => some { cls := 0x11, status := BitVec.ofNat 8 st, lane := p.1.lane }
    | _ => none

/-- The translated addresses. -/
def hitsOf (l : List (Req × Trans)) : List Hit :=
  l.filterMap fun p =>
    match p.2 with
    | .ok x => some { lane := p.1.lane, va := p.1.va, loc := x }
    | _ => none

/-- The addresses with PAGE faults. -/
def missesOf (l : List (Req × Trans)) : List Miss :=
  l.filterMap fun p =>
    match p.2 with
    | .page st lvl n => some { lane := p.1.lane, va := p.1.va, status := st, level := lvl, size := n }
    | _ => none

/-- What a VC answers for an address: an access to host memory that it lets go waits while no host port is up (R393; log 41). -/
def hostAns (s : State) (p : Nat) : VcAns → VcAns
  | .ok vn => if reachable s p then .ok vn else .waits
  | a => a

/-- The VC of every translated address, in order (R269). -/
def vcAll (i c : Nat) (wr : Bool) : State → List Hit → State × List (Hit × VcAns)
  | s, [] => (s, [])
  | s, h :: hs =>
    let e := vctEntry s i c h.loc.vcx (saltOf h.lane)
    let a := hostAns s h.loc.phys (vcCheck (islOf e.1 i).mem c e.2 wr)
    let y := vcAll i c wr e.1 hs
    (y.1, ({ h with vn := e.2.toNat % 64 }, a) :: y.2)

/-- The lowest lane's VCFAULT (R270). -/
def firstVcFault (l : List (Hit × VcAns)) : Option Cause :=
  l.findSome? fun p =>
    match p.2 with
    | .fault st vn => some { cls := 0x13, status := BitVec.ofNat 8 st, info := vcInfo p.1.loc.vcx vn, lane := p.1.lane }
    | _ => none

/-- The lowest lane's RANGELOCK (R231). -/
def firstLock (m : IslandMem) (team : Bool) (owner n : Nat) (wr : Bool) (l : List (Option Nat × Nat)) : Option Cause :=
  l.findSome? fun p => (lockHit m team owner p.2 n wr).map fun k =>
    { cls := 0x12, status := BitVec.ofNat 8 k.1, info := BitVec.ofNat 32 k.2, lane := p.1 }

/-- The lowest lane's RACE (R284). -/
def firstRace (s : State) (cx : Cx) (w : Want) (l : List Hit) : Option Cause :=
  l.findSome? fun h =>
    (raceWith s cx h.lane h.vn h.loc.phys w.n w.acc.writes (w.acc ≠ .write) w.sc w.scope).map fun r =>
      { cls := 0x14, status := BitVec.ofNat 8 (raceStatus r.write w.acc.writes), info := raceInfo r, lane := h.lane }

/-- Steps 2 to 7 of R298 for addresses in global memory. -/
def checkGlobal (s : State) (cx : Cx) (w : Want) (rs : List Req) : Checked :=
  let id := cx.g.ident
  match misaligned w.n rs with
  | some c => .fault s c
  | none =>
    let t := translateAll id.island id.ctx (privileged id) w.acc s rs
    match firstProt t.2 with
    | some c => .fault t.1 c
    | none =>
      let v := vcAll id.island id.ctx w.acc.writes t.1 (hitsOf t.2)
      let hits := v.2.map (·.1)
      match firstVcFault v.2 with
      | some c => .fault v.1 c
      | none =>
        if v.2.any fun p => p.2 = .waits then .wait v.1
        else
          match firstLock (islOf v.1 id.island).mem false id.ctx w.n w.acc.writes (hits.map fun h => (h.lane, h.va)) with
          | some c => .fault v.1 c
          | none =>
            match if w.q = 3 then none else firstRace v.1 cx w hits with
            | some c => .fault v.1 c
            | none => .go v.1 hits (missesOf t.2)

/-! ## Parking (R247, R248) -/

/-- A page of a park's records: the lowest faulting address on it and the lanes that fault there. -/
structure PageMiss where
  va : Nat := 0
  mask : Mask := 0
  status : Nat := 0
  level : Nat := 0
  size : Nat := 65536
deriving DecidableEq, Repr, Inhabited

/-- The lanes a miss stands for: its lane, or the whole fragment. -/
def missMask (f : Mask) (m : Miss) : Mask :=
  match m.lane with
  | some l => laneBit l
  | none => f

/-- One miss entered among the pages so far, in the order of their lowest faulting lanes (R248; log 18). -/
def addMiss (f : Mask) (m : Miss) : List PageMiss → List PageMiss
  | [] => [{ va := m.va, mask := missMask f m, status := m.status, level := m.level, size := m.size }]
  | p :: ps =>
    if p.size = m.size && p.va / p.size = m.va / p.size then
      { p with va := min p.va m.va, mask := p.mask ||| missMask f m } :: ps
    else p :: addMiss f m ps

/-- The pages of a park. -/
def pagesOf (f : Mask) (ms : List Miss) : List PageMiss := ms.foldl (fun acc m => addMiss f m acc) []

/-- The kinds of park (R248). -/
inductive ParkKind where
  | lane | uniform | fetch
deriving DecidableEq, Repr

def parkCode : ParkKind → Nat
  | .lane => 0 | .uniform => 1 | .fetch => 2

/-- One record of a park (R248). -/
def parkRecord (id : Ident) (token : Nat) (pc : VAddr) (umask : Mask) (kind : ParkKind) (acc : Acc) (ps : List PageMiss)
    (more : Bool) : List DWord :=
  let p0 := nth ps 0
  let w0 := (if more then 2 ^ 55 else 0) + ps.length * 2 ^ 52 + p0.level * 2 ^ 50
    + (if acc = .atomic then 2 ^ 49 else 0) + (if acc.writes then 2 ^ 48 else 0) + parkCode kind * 2 ^ 46
    + id.slot % 64 * 2 ^ 40 + id.core % 256 * 2 ^ 32 + id.ctx % 65536 * 2 ^ 16 + p0.status * 2 ^ 8 + 0x10
  [BitVec.ofNat 64 w0, BitVec.ofNat 64 (id.teamId.toNat * 2 ^ 32 + token % 2 ^ 32), pcWord pc, umask]
    ++ (List.range 4).flatMap fun j =>
      match ps[j]? with
      | some p => [BitVec.ofNat 64 p.va, p.mask]
      | none => [0, 0]

/-- The records of a park, four pages to a record; the fuel is the number of pages. -/
def parkRecords (id : Ident) (token : Nat) (pc : VAddr) (umask : Mask) (kind : ParkKind) (acc : Acc) :
    Nat → List PageMiss → List (List DWord)
  | 0, _ => []
  | n + 1, ps =>
    if ps.length ≤ 4 then [parkRecord id token pc umask kind acc ps false]
    else parkRecord id token pc umask kind acc (ps.take 4) true
      :: parkRecords id token pc umask kind acc n (ps.drop 4)

/-- The token of the island's next park. -/
def freshToken (m : IslandMem) : IslandMem := { m with nextToken := (m.nextToken + 1) % 2 ^ 32 }

/-- The fragment split, its unfinished lanes parked at its PC and the rest past the instruction's n bytes (R247). -/
def parkSplit (i n : Nat) (u : Mask) (token : Nat) (g : Group) : Group :=
  match g.frags[i]? with
  | none => g
  | some f =>
    if u = f.mask then settle { g with frags := modNth g.frags i fun f => { f with parked := some token, slot := 2, waiting := false } }
    else
      settle { g with
        frags := modNth g.frags i (fun f => { f with mask := f.mask &&& ~~~u, pc := pcAdd f.pc n })
          ++ [{ mask := u, pc := f.pc, parked := some token, handler := f.handler }] }

/-- The records queued and the park entered in the island's list (R248, R249). -/
def writePark (s : State) (key : Nat) (id : Ident) (token : Nat) (umask : Mask) (rs : List (List DWord)) : State :=
  let s := rs.foldl (fun s r => enqueueRecord s id.island r) s
  modMem s id.island fun m => freshToken { m with
    parks := tblSet m.parks token { grp := key, ctx := id.ctx, mask := umask, record := rs.getLastD [] } }

/-- The lanes of misses park (R247): the state, with the group's other lanes past the instruction. -/
def park (s : State) (cx : Cx) (kind : ParkKind) (acc : Acc) (n : Nat) (ms : List Miss) : State :=
  let u := ms.foldl (fun a m => a ||| missMask cx.f.mask m) 0
  let token := (islOf s cx.g.ident.island).mem.nextToken
  let ps := pagesOf cx.f.mask ms
  let rs := parkRecords cx.g.ident token cx.f.pc u kind acc ps.length ps
  let s := modGrp s cx.key fun g => wake (parkSplit cx.ix n u token g)
  writePark s cx.key cx.g.ident token u rs

/-! ## Ending a park (R250) -/

/-- The place of a parked fragment in its group. -/
def parkedAt (g : Group) (token : Nat) : Option Nat :=
  (g.frags.zipIdx.find? fun p => p.1.parked = some token).map (·.2)

/-- The park is no longer outstanding. -/
def dropPark (s : State) (i token : Nat) : State :=
  modMem s i fun m => { m with parks := tblDel m.parks token }

/-- ACT 0b00 (R250): the fragment is unparked, and issues again. -/
def replayPark (s : State) (i token : Nat) : State :=
  match tblGet? (islOf s i).mem.parks token with
  | none => s
  | some p =>
    let s := modGrp s p.grp fun g =>
      match parkedAt g token with
      | some j => wake (modFrag g j fun f => { f with parked := none })
      | none => g
    dropPark s i token

/-- ACT 0b01 (R250): the fragment is unparked into the handler with PAGE. -/
def handlePark (s : State) (i token : Nat) : State :=
  match tblGet? (islOf s i).mem.parks token with
  | none => s
  | some p =>
    let g := grpOf s p.grp
    match parkedAt g token with
    | none => dropPark s i token
    | some j =>
      let s := setGrp (dropPark s i token) p.grp { g with frags := modNth g.frags j fun f => { f with parked := none } }
      let st := ((p.record.getD 0 0).toNat / 2 ^ 8) % 256
      blame s p.grp j (causeWord { cls := 0x10, status := BitVec.ofNat 8 st, info := BitVec.ofNat 32 token } false)

/-- ACT 0b10 (R250): the context is terminated. -/
def terminatePark (s : State) (i token : Nat) : State :=
  match tblGet? (islOf s i).mem.parks token with
  | none => s
  | some p => terminateCtx s i p.ctx

/-- The context of a park is off its cores, so that its release is recorded (R251). -/
def offCores (x : CtxState) : Bool := x = .parked || x = .saved || x = .faulted

/-- A write to FRPLAY: token and action (R250, R251). -/
def releasePark (s : State) (i token act : Nat) : State :=
  match tblGet? (islOf s i).mem.parks token with
  | none => s
  | some p =>
    if act = 3 then s
    else if offCores (ctxOf s i p.ctx).state then
      modCtx s i p.ctx fun x => { x with released := (x.released.filter fun r => r.1 ≠ token) ++ [(token, act)] }
    else if act = 2 then terminatePark s i token
    else if act = 0 then replayPark s i token
    else handlePark s i token

/-- FRPLAY_REPLAY (R250). -/
def execFrplayReplay (island token : Nat) (s : State) : Out := .next (releasePark s island token 0)

/-- FRPLAY_HANDLER (R250). -/
def execFrplayHandler (island token : Nat) (s : State) : Out := .next (releasePark s island token 1)

/-- FRPLAY_TERMINATE (R250). -/
def execFrplayTerminate (island token : Nat) (s : State) : Out := .next (releasePark s island token 2)

/-- FRPLAY_NONE (R250). -/
def execFrplayNone (island token : Nat) (s : State) : Out := .next (releasePark s island token 3)

/-- FAULT_RECORD_ENQUEUE (R249): records that wait enter as far as there is room. -/
def execFaultRecordEnqueue (island : Nat) (s : State) : Out :=
  .next (modMem s island fun m => frqAdmit m.frqWait.length m)

/-! ## What an access leaves behind -/

/-- An access in happens-before and in race metadata (R276, R278, R283). A uniform one stands in the program order of every lane
of its fragment. -/
def orderAccess (cx : Cx) (w : Want) (wrote : Bool) (h : Hit) (s : State) : State :=
  if !tracked s then s
  else
    let l := h.lane.getD ((lanesOf cx.f.mask).headD 0)
    let both := fun (s : State) => if h.lane.isNone then modGrp s cx.key (shareLanes cx.f.mask) else s
    let s := both s
    let s := if w.q = 3 then s else recordAccess s cx l h.vn h.loc.phys w.n w.acc.writes w.scope
    both (touch { spots := spotsFrom (physSpot cx.g.ident.island h.loc.phys) w.n, reads := w.acc ≠ .write, wrote := wrote
                  rel := if w.rel then w.scope else none, acq := if w.acq then w.scope else none, sc := w.sc } cx.key l s)

/-- An access of the group at the caches and the home of its sector (R260, R289): one of type OWN asks for ownership where its L1
does not have it (R291). -/
def reachHome (cx : Cx) (q : BitVec 2) (act : HomeAct) (h : Hit) (s : State) : State :=
  let id := cx.g.ident
  let l1 := l1Of id.pool id.core
  let sec := h.loc.phys / 64
  modMem s id.island fun m =>
    let r := cacheAccess m h.vn id.core l1 sec q act
    if q = 1 && act ≠ .atomic && (tblGet m.home sec).ownl ≠ some l1 then
      askOwner (homeSlice sec) sec s.tick id.core l1 r
    else r

/-- An access of the group to a sector, in caches, home record, race metadata and happens-before; `wrote` is false of a load, and
of an atomic that wrote nothing (R260, R283, R289, R307). -/
def noteAccess (cx : Cx) (w : Want) (act : HomeAct) (wrote : Bool) (h : Hit) (s : State) : State :=
  orderAccess cx w wrote h (reachHome cx w.q act h s)

/-- The bytes at a hit. -/
def hitBytes (s : State) (i : Nat) (h : Hit) (n : Nat) : List Byte := physBytes s i h.loc.phys n

/-- The bytes stored at a hit: D is set, and a whole quarter's mark is cleared (R240, R312). -/
def storeHit (i : Nat) (h : Hit) (bs : List Byte) (s : State) : State :=
  let s := setDirty s i h.loc.phys h.loc.dirtyAt
  let s := physPut s i h.loc.phys bs
  if bs.length = 16 then clearMarks s i [h.loc.phys / 16] else s

/-- An acquire at team scope or wider of a group (R289). -/
def acquireL1 (s : State) (id : Ident) : State := modMem s id.island fun m => dropSi m (l1Of id.pool id.core)

/-- An access or fence at a scope, 0 group to 4 panel, that is an acquire where `acq` says so (R289). -/
def acquireAt (s : State) (cx : Cx) (acq : Bool) (scope : Nat) : State :=
  if acq && scope ≥ 1 then acquireL1 s cx.g.ident else s

/-- A fence of the issuing fragment at a scope (R277, R289). -/
def synchronise (s : State) (cx : Cx) (rel acq : Bool) (scope : Nat) : State :=
  acquireAt (fenceLanes rel acq scope cx.key cx.f.mask s) cx acq scope

/-- An acquire of what a clock releases, at a scope (R213, R409). -/
def acquireClock (s : State) (cx : Cx) (c : Clock) (scope : Nat) : State :=
  acquireAt (modGrp s cx.key (learn c cx.f.mask)) cx true scope

/-! ## Asking for range locks (R230) -/

/-- The instruction that asks for entries of the range-lock table. -/
def askerOf (cx : Cx) : Nat × Nat × VAddr := (cx.key, cx.g.age, cx.f.pc)

/-- An instruction that has asked still waits there to issue: one whose group is spilled, off its core or held in the other mode
gives up its place meanwhile (log 8). -/
def stillAsks (s : State) (i : Nat) (x : Nat × Nat × VAddr) : Bool :=
  match tblGet? s.groups x.1 with
  | none => false
  | some g =>
    g.ident.island = i && g.age = x.2.1 && g.state = .active && (g.ident.mgmt || ctxRuns s i g.ident.ctx)
      && g.frags.any fun f => f.pc = x.2.2 && f.parked.isNone && f.hold = .none && inMode g f

/-- The instructions that wait for entries of the table, in the order in which they asked. -/
def askers (s : State) (i : Nat) : List (Nat × Nat × VAddr) := (islOf s i).mem.lockQueue.filter (stillAsks s i)

/-- The table grants n entries to the issuing instruction: it holds them all, and none that asked before still waits (R230). -/
def locksGranted (s : State) (cx : Cx) (n : Nat) : Bool :=
  let i := cx.g.ident.island
  n = 0 || ((islOf s i).mem.locks.length + n ≤ 256 && (askers s i).takeWhile (· ≠ askerOf cx) = [])

/-- The issuing instruction waits for entries in its turn. -/
def askLocks (s : State) (cx : Cx) : State :=
  let q := askers s cx.g.ident.island
  modMem s cx.g.ident.island fun m => { m with lockQueue := if q.contains (askerOf cx) then q else q ++ [askerOf cx] }

/-- Entries of the issuing instruction's operation n. -/
def takeLocks (s : State) (cx : Cx) (n : Nat) (locks : List RangeLock) : State :=
  modMem s cx.g.ident.island fun m => { m with
    locks := m.locks ++ locks.map fun k => { k with op := n }, lockQueue := m.lockQueue.filter (· ≠ askerOf cx) }

/-- The operation the group now has in flight, numbered in order of issue (R198). -/
def addOp (s : State) (k : Nat) (o : FlightOp) : State :=
  { modGrp s k (fun g => { g with ops := g.ops ++ [{ o with id := s.seq }] }) with seq := s.seq + 1 }

end Sys2Proof.Machine
end

