-- ==== Sys2Proof/Machine/LaneInt.lean ====
section
/-! DEFINITION. Lane integer, compare, predicate, move and cross-lane instructions (R101 to R118). -/

namespace Sys2Proof.Machine

open Sys2Proof

/-! ## Arithmetic on integers -/

/-- SHIFTL (R105). -/
def shiftL (w : Nat) (x : Int) (c : Nat) : Int := if c ≥ w then 0 else x * 2 ^ c

/-- SHIFTR (R105): x read by type, so floor division is arithmetic for a negative x. -/
def shiftR (w : Nat) (x : Int) (c : Nat) (s : Bool) : Int :=
  if c ≥ w then (if s && x < 0 then -1 else 0) else x / (2 ^ c : Nat)

/-- MINV (R83). -/
def minv (sg : Bool) (w : Nat) : Int := if sg then -(2 ^ (w - 1) : Nat) else 0

/-- MAXV (R83). -/
def maxv (sg : Bool) (w : Nat) : Int := if sg then (2 ^ (w - 1) : Nat) - 1 else (2 ^ w : Nat) - 1

/-- A bitwise operation on the patterns of w bits. -/
def bitwise (w : Nat) (f : Nat → Nat → Nat) (x y : Int) : Int := f (wrap x w) (wrap y w)

/-- The conditions EQ, NE, LT, LE, GT, GE by code (R50). -/
def intCond (c : Nat) (x y : Int) : Bool :=
  match c with
  | 0 => x = y
  | 1 => x ≠ y
  | 2 => x < y
  | 3 => x ≤ y
  | 4 => x > y
  | _ => x ≥ y

/-- The unary sub-operations of R106 on w bits: x the integer, u its pattern. -/
def unary (code w : Nat) (x : Int) : Int :=
  let u := wrap x w
  match code with
  | 0 => x.natAbs
  | 1 => -x
  | 2 => popCount u w
  | 3 => leadZeros u w
  | 4 => bitReverse u w
  | 5 => signed (u % 2 ^ 8) 8
  | 6 => signed (u % 2 ^ 16) 16
  | 7 => (u % 2 ^ 8 : Nat)
  | _ => (u % 2 ^ 16 : Nat)

/-! ## Two-operand lane family (R105) -/

/-- The form of a two-operand lane instruction. IMAD reads V[a], V[b] and then V[d], the order of its pseudocode (the assembly
form names d first): the model's choice of the operand order of R209 (log 15). -/
def laneBinForm (st : BitVec 2) (d a b : BitVec 7) (m : BitVec 2) (readsD : Bool) : Form :=
  let n := laneRegs m
  { st := st, lat := 4
    bad := fun cx => badV cx d.toNat n || badV cx a.toNat n || badV cx b.toNat n
    uses := fun _ l => vUse a.toNat n l ++ vUse b.toNat n l ++ (if readsD then vUse d.toNat n l else [])
    dsts := vDst d.toNat n }

/-- The operands of a lane: x and y by type, the shift count c, and the old d. -/
structure LaneArgs where
  x : Int
  y : Int
  c : Nat
  old : Int
deriving DecidableEq, Repr

def laneArgs (g : Regs) (d a b : BitVec 7) (m : BitVec 2) (l : Nat) : LaneArgs :=
  { x := rdv g a.toNat l m, y := rdv g b.toNat l m, c := rdvBits g b.toNat l m, old := rdv g d.toNat l m }

/-- The registers after a two-operand lane instruction: z in every lane of the mask, every operand read first. -/
def laneBinRegs (g : Regs) (k : Mask) (d a b : BitVec 7) (m : BitVec 2) (z : LaneArgs → Int) : Regs :=
  wrv g d.toNat k m fun l => z (laneArgs g d a b m l)

/-- A two-operand lane instruction with result z. -/
def laneBin (st : BitVec 2) (d a b : BitVec 7) (m : BitVec 2) (readsD : Bool) (z : LaneArgs → Int) : State → Out :=
  issue (laneBinForm st d a b m readsD) fun cx => finish 4 (fun g => laneBinRegs g cx.f.mask d a b m z) cx

/-- IADD (R105). -/
def execIadd (st : BitVec 2) (d a b : BitVec 7) (m : BitVec 2) (s : State) : Out :=
  laneBin st d a b m false (fun r => r.x + r.y) s

/-- ISUB (R105). -/
def execIsub (st : BitVec 2) (d a b : BitVec 7) (m : BitVec 2) (s : State) : Out :=
  laneBin st d a b m false (fun r => r.x - r.y) s

/-- IMUL (R105). -/
def execImul (st : BitVec 2) (d a b : BitVec 7) (m : BitVec 2) (s : State) : Out :=
  laneBin st d a b m false (fun r => r.x * r.y) s

/-- IMULH (R105). -/
def execImulh (st : BitVec 2) (d a b : BitVec 7) (m : BitVec 2) (s : State) : Out :=
  laneBin st d a b m false (fun r => r.x * r.y / (2 ^ laneWid m : Nat)) s

/-- IMAD (R105). -/
def execImad (st : BitVec 2) (d a b : BitVec 7) (m : BitVec 2) (s : State) : Out :=
  laneBin st d a b m true (fun r => r.x * r.y + r.old) s

/-- IMIN (R105). -/
def execImin (st : BitVec 2) (d a b : BitVec 7) (m : BitVec 2) (s : State) : Out :=
  laneBin st d a b m false (fun r => min r.x r.y) s

/-- IMAX (R105). -/
def execImax (st : BitVec 2) (d a b : BitVec 7) (m : BitVec 2) (s : State) : Out :=
  laneBin st d a b m false (fun r => max r.x r.y) s

/-- IADDSAT (R105). -/
def execIaddsat (st : BitVec 2) (d a b : BitVec 7) (m : BitVec 2) (s : State) : Out :=
  laneBin st d a b m false
    (fun r => min (max (r.x + r.y) (minv (laneSgn m) (laneWid m))) (maxv (laneSgn m) (laneWid m))) s

/-- AND (R105). -/
def execAnd (st : BitVec 2) (d a b : BitVec 7) (m : BitVec 2) (s : State) : Out :=
  laneBin st d a b m false (fun r => bitwise (laneWid m) (· &&& ·) r.x r.y) s

/-- OR (R105). -/
def execOr (st : BitVec 2) (d a b : BitVec 7) (m : BitVec 2) (s : State) : Out :=
  laneBin st d a b m false (fun r => bitwise (laneWid m) (· ||| ·) r.x r.y) s

/-- XOR (R105). -/
def execXor (st : BitVec 2) (d a b : BitVec 7) (m : BitVec 2) (s : State) : Out :=
  laneBin st d a b m false (fun r => bitwise (laneWid m) (· ^^^ ·) r.x r.y) s

/-- ANDN (R105): x AND NOT y. -/
def execAndn (st : BitVec 2) (d a b : BitVec 7) (m : BitVec 2) (s : State) : Out :=
  laneBin st d a b m false
    (fun r => bitwise (laneWid m) (fun x y => x &&& (2 ^ laneWid m - 1 - y)) r.x r.y) s

/-- SHL (R105). -/
def execShl (st : BitVec 2) (d a b : BitVec 7) (m : BitVec 2) (s : State) : Out :=
  laneBin st d a b m false (fun r => shiftL (laneWid m) r.x r.c) s

/-- SHR (R105). -/
def execShr (st : BitVec 2) (d a b : BitVec 7) (m : BitVec 2) (s : State) : Out :=
  laneBin st d a b m false (fun r => shiftR (laneWid m) r.x r.c (laneSgn m)) s

/-! ## Compares (R109, R110) -/

/-- The form of a lane compare: two V operands, a predicate written. -/
def laneCmpForm (st : BitVec 2) (lat : Nat) (p : BitVec 3) (a b : BitVec 7) (n : Nat) : Form :=
  { st := st, lat := lat
    bad := fun cx => badV cx a.toNat n || badV cx b.toNat n
    uses := fun _ l => vUse a.toNat n l ++ vUse b.toNat n l
    dsts := [.p p.toNat 0] }

/-- ICMP (R109). -/
def execIcmp (st : BitVec 2) (p : BitVec 3) (c : BitVec 4) (a b : BitVec 7) (m : BitVec 2) (s : State) : Out :=
  issue (laneCmpForm st 4 p a b (laneRegs m)) (fun cx =>
    finish 4 (fun g => writeP g p.toNat cx.f.mask
      (maskOf fun l => intCond c.toNat (rdv g a.toNat l m) (rdv g b.toNat l m))) cx) s

/-- The form of a lane instruction with one V operand and an immediate. -/
def laneImmForm (st : BitVec 2) (a : BitVec 7) (dsts : List Elem) (d : Option (BitVec 7)) : Form :=
  { st := st, lat := 4
    bad := fun cx => badV cx a.toNat 1 || (match d with | some d => badV cx d.toNat 1 | none => false)
    uses := fun _ l => vUse a.toNat 1 l
    dsts := dsts }

/-- ICMPI (R110): the condition's code below 8 compares as I32, from 8 as N32. -/
def execIcmpi (st : BitVec 2) (p : BitVec 3) (c : BitVec 4) (a : BitVec 7) (i : BitVec 9) (s : State) : Out :=
  let sg := c.toNat < 8
  let y := asInt sg 32 (i.signExtend 32).toNat
  issue (laneImmForm st a [.p p.toNat 0] none) (fun cx =>
    finish 4 (fun g => writeP g p.toNat cx.f.mask
      (maskOf fun l => intCond (c.toNat % 8) (asInt sg 32 (readV g a.toNat l).toNat) y)) cx) s

/-! ## Unary and immediate forms (R106 to R108) -/

/-- The form of a lane instruction with one V operand, both of n registers. -/
def laneUnForm (st : BitVec 2) (lat : Nat) (d a : BitVec 7) (n : Nat) : Form :=
  { st := st, lat := lat
    bad := fun cx => badV cx d.toNat n || badV cx a.toNat n
    uses := fun _ l => vUse a.toNat n l
    dsts := vDst d.toNat n }

/-- IUN (R106). -/
def execIun (st : BitVec 2) (d a u : BitVec 7) (m : BitVec 2) (s : State) : Out :=
  issue (laneUnForm st 4 d a (laneRegs m))
    (fun cx => finish 4 (fun g =>
      wrv g d.toNat cx.f.mask m fun l => unary u.toNat (laneWid m) (rdv g a.toNat l m)) cx) s

/-- A 32-bit lane instruction V[d] := f(V[a]). -/
def laneImm (st : BitVec 2) (d a : BitVec 7) (f : Word → Word) : State → Out :=
  issue (laneImmForm st a (vDst d.toNat 1) (some d)) fun cx =>
    finish 4 (fun g => writeV g d.toNat cx.f.mask fun l => f (readV g a.toNat l)) cx

/-- IADDI (R107). -/
def execIaddi (st : BitVec 2) (d a : BitVec 7) (i : BitVec 9) (s : State) : Out :=
  laneImm st d a (fun x => x + i.signExtend 32) s

/-- ANDI (R107). -/
def execAndi (st : BitVec 2) (d a : BitVec 7) (i : BitVec 9) (s : State) : Out :=
  laneImm st d a (fun x => x &&& i.signExtend 32) s

/-- ORI (R107). -/
def execOri (st : BitVec 2) (d a : BitVec 7) (i : BitVec 9) (s : State) : Out :=
  laneImm st d a (fun x => x ||| i.signExtend 32) s

/-- XORI (R107). -/
def execXori (st : BitVec 2) (d a : BitVec 7) (i : BitVec 9) (s : State) : Out :=
  laneImm st d a (fun x => x ^^^ i.signExtend 32) s

/-- SHLI (R108). -/
def execShli (st : BitVec 2) (d a : BitVec 7) (n : BitVec 5) (s : State) : Out :=
  laneImm st d a (fun x => x <<< n.toNat) s

/-- SHRI (R108): arithmetic when h is set. -/
def execShri (st : BitVec 2) (d a : BitVec 7) (h : BitVec 1) (n : BitVec 5) (s : State) : Out :=
  laneImm st d a (fun x => if h = 1 then x.sshiftRight n.toNat else x >>> n.toNat) s

/-! ## Moves, select, lane number, predicate logic (R111 to R114) -/

/-- The form of a lane instruction that reads nothing: MOVL, LANEV. -/
def laneSetForm (st : BitVec 2) (d : BitVec 7) : Form :=
  { st := st, lat := 4, bad := fun cx => badV cx d.toNat 1, dsts := vDst d.toNat 1 }

/-- MOVL (R112): reads nothing. -/
def execMovl (st : BitVec 2) (d : BitVec 7) (i : BitVec 16) (s : State) : Out :=
  issue (laneSetForm st d)
    (fun cx => finish 4 (fun g => writeV g d.toNat cx.f.mask fun _ => i.setWidth 32) cx) s

/-- The form of MOVH, which reads V[d], both its sub-elements (R112; log 15). -/
def movhForm (st : BitVec 2) (d : BitVec 7) : Form := { laneSetForm st d with uses := fun _ => vUse d.toNat 1 }

/-- MOVH (R112). -/
def execMovh (st : BitVec 2) (d : BitVec 7) (i : BitVec 16) (s : State) : Out :=
  issue (movhForm st d)
    (fun cx => finish 4 (fun g =>
      writeV g d.toNat cx.f.mask fun l => i ++ (readV g d.toNat l).truncate 16) cx) s

/-- The form of SEL: P[p], then the selected register. -/
def selForm (st : BitVec 2) (d a b : BitVec 7) (p : BitVec 2) : Form :=
  { st := st, lat := 4
    bad := fun cx => badV cx d.toNat 1 || badV cx a.toNat 1 || badV cx b.toNat 1
    uses := fun cx l => pUse p.toNat l ::
      vUse (if inMask (readP cx.g.regs p.toNat) l then a.toNat else b.toNat) 1 l
    dsts := vDst d.toNat 1 }

/-- SEL (R113): reads P[p], then only the selected register. -/
def execSel (st : BitVec 2) (d a b : BitVec 7) (p : BitVec 2) (s : State) : Out :=
  issue (selForm st d a b p)
    (fun cx => finish 4 (fun g => writeV g d.toNat cx.f.mask fun l =>
      if inMask (readP g p.toNat) l then readV g a.toNat l else readV g b.toNat l) cx) s

/-- LANEV (R114). -/
def execLanev (st : BitVec 2) (d : BitVec 7) (s : State) : Out :=
  issue (laneSetForm st d)
    (fun cx => finish 4 (fun g => writeV g d.toNat cx.f.mask fun l => bv 32 l) cx) s

/-- Bit (2 × a + b) of a truth table (R111, R127). -/
def truth (t : BitVec 4) (a b : Bool) : Bool :=
  t.getLsbD ((if a then 2 else 0) + (if b then 1 else 0))

/-- The form of PLOG. -/
def plogForm (st : BitVec 2) (p x y : BitVec 3) : Form :=
  { st := st, lat := 4, uses := fun _ l => [pUse x.toNat l, pUse y.toNat l], dsts := [.p p.toNat 0] }

/-- PLOG (R111). -/
def execPlog (st : BitVec 2) (p : BitVec 3) (t : BitVec 4) (x y : BitVec 3) (s : State) : Out :=
  issue (plogForm st p x y)
    (fun cx => finish 4 (fun g => writeP g p.toNat cx.f.mask
      (maskOf fun l => truth t (inMask (readP g x.toNat) l) (inMask (readP g y.toNat) l))) cx) s

/-! ## Cross-lane instructions (R115 to R118) -/

/-- The fragment does not hold every lane of the group (R115). -/
def partialFrag (cx : Cx) : Bool := cx.f.mask ≠ fullMask (lanesIn cx.g)

/-- Like finish, for a cross-lane instruction: a partial fragment sets XLFLAG (R115). -/
def finishCross (f : Regs → Regs) (cx : Cx) (s : State) : Res :=
  let x := if partialFrag cx then setXl cx.g.special else cx.g.special
  .ok (setGrp s cx.key (advance 4 cx.ix { cx.g with regs := f cx.g.regs, special := x }))

/-- The lane SHFL reads for lane l: mode, lane or distance k (R116); l itself where the source is outside. -/
def shflSource (cx : Cx) (mode : BitVec 2) (k l : Nat) : Nat :=
  let src : Int := match mode.toNat with
    | 0 => k
    | 1 => (l : Int) - k
    | 2 => l + k
    | _ => (l ^^^ k : Nat)
  if 0 ≤ src && src < lanesIn cx.g && inMask cx.f.mask src.toNat then src.toNat else l

/-- The form of SHFL and SHFLI: for each destination lane the source element of V[a], then the distance V[b], in the order in
which the assembly form names them (R209; log 15). -/
def shflForm (st : BitVec 2) (d a : BitVec 7) (b : Option (BitVec 7)) (mode : BitVec 2) (k : Cx → Nat → Nat) : Form :=
  { st := st
    bad := fun cx => badV cx d.toNat 1 || badV cx a.toNat 1 || (match b with | some b => badV cx b.toNat 1 | none => false)
    uses := fun cx l => [{ reg := a.toNat, lane := shflSource cx mode (k cx l) l }]
      ++ (match b with | some b => vUse b.toNat 1 l | none => [])
    dsts := vDst d.toNat 1 }

/-- SHFL (R116). -/
def execShfl (st : BitVec 2) (d a b : BitVec 7) (m : BitVec 2) (s : State) : Out :=
  let k := fun (cx : Cx) l => (readV cx.g.regs b.toNat l).toNat
  issue (shflForm st d a (some b) m k) (fun cx =>
    finishCross (fun g => writeV g d.toNat cx.f.mask fun l => readV g a.toNat (shflSource cx m (k cx l) l)) cx) s

/-- SHFLI (R116). -/
def execShfli (st : BitVec 2) (d a : BitVec 7) (m : BitVec 2) (n : BitVec 6) (s : State) : Out :=
  issue (shflForm st d a none m fun _ _ => n.toNat) (fun cx =>
    finishCross (fun g => writeV g d.toNat cx.f.mask fun l => readV g a.toNat (shflSource cx m n.toNat l)) cx) s

/-- What VOTE writes (R117): ANY, ALL or EQ of the predicate over the fragment. -/
def voteResult (c : BitVec 4) (pa mask : Mask) : Bool :=
  let t := pa &&& mask
  match c.toNat with
  | 0 => t ≠ 0
  | 1 => t = mask
  | _ => t = mask || t = 0

/-- The form of VOTE. -/
def voteForm (st : BitVec 2) (p x : BitVec 3) : Form :=
  { st := st, uses := fun _ l => [pUse x.toNat l], dsts := [.p p.toNat 0] }

/-- The form of VOTE.BALLOT: an even pair is written. -/
def ballotForm (st : BitVec 2) (x : BitVec 3) (b : BitVec 7) : Form :=
  { st := st
    bad := fun cx => badV cx b.toNat 2
    uses := fun _ l => [pUse x.toNat l]
    dsts := vDst b.toNat 2 }

/-- VOTE (R117). -/
def execVote (st : BitVec 2) (p : BitVec 3) (c : BitVec 4) (x : BitVec 3) (s : State) : Out :=
  issue (voteForm st p x)
    (fun cx => finishCross (fun g => writeP g p.toNat cx.f.mask
      (if voteResult c (readP g x.toNat) cx.f.mask then BitVec.allOnes 64 else 0)) cx) s

/-- VOTE.BALLOT (R117): the fragment's mask of the predicate, in an even pair. -/
def execVoteBallot (st : BitVec 2) (x : BitVec 3) (b : BitVec 7) (s : State) : Out :=
  issue (ballotForm st x b)
    (fun cx => finishCross (fun g =>
      writePair g b.toNat cx.f.mask fun _ => (readP g x.toNat &&& cx.f.mask).toNat) cx) s

/-- One combination of REDUX, from its identity (R118). -/
def reduxFold (op w : Nat) (sg : Bool) (l : List Int) : Int :=
  match op with
  | 0 => l.foldl (· + ·) 0
  | 1 => l.foldl min (maxv sg w)
  | 2 => l.foldl max (minv sg w)
  | 3 => l.foldl (bitwise w (· &&& ·)) (2 ^ w - 1 : Nat)
  | 4 => l.foldl (bitwise w (· ||| ·)) 0
  | _ => l.foldl (bitwise w (· ^^^ ·)) 0

/-- REDUX (R118). -/
def execRedux (st : BitVec 2) (d a b : BitVec 7) (m : BitVec 2) (s : State) : Out :=
  issue (laneUnForm st 0 d a (laneRegs m))
    (fun cx => finishCross (fun g =>
      let z := reduxFold b.toNat (laneWid m) (laneSgn m) ((lanesOf cx.f.mask).map fun l => rdv g a.toNat l m)
      wrv g d.toNat cx.f.mask m fun _ => z) cx) s

end Sys2Proof.Machine
end

