-- ==== Sys2Proof/Machine/Uniform.lean ====
section
/-! DEFINITION. The uniform ALU (R119 to R127). -/

namespace Sys2Proof.Machine

open Sys2Proof

/-- The form of a uniform ALU instruction. -/
def uniForm (st : BitVec 2) (reads : List UniUse) (dst : Elem) : Form :=
  { st := st, lane := false, lat := 2, uni := reads, dsts := [dst] }

/-- The operands of a two-operand uniform instruction and its shift count (R120). -/
structure UniArgs where
  x : Int
  y : Int
  c : Nat
deriving DecidableEq, Repr

def uniArgs (g : Regs) (a b : BitVec 6) (m : BitVec 4) : UniArgs :=
  { x := rds g a.toNat m, y := rds g b.toNat m, c := (readS g b.toNat).toNat % 2 ^ uniWid m }

/-- A two-operand uniform instruction with result z (R120). -/
def uniBin (st : BitVec 2) (d a b : BitVec 6) (m : BitVec 4) (z : UniArgs → Int) : State → Out :=
  issue (uniForm st [sUse a.toNat, sUse b.toNat] (.s d.toNat)) fun cx =>
    finish 4 (fun g => wrs g d.toNat m (z (uniArgs g a b m))) cx

/-- UADD (R120). -/
def execUadd (st : BitVec 2) (d a b : BitVec 6) (m : BitVec 4) (s : State) : Out :=
  uniBin st d a b m (fun r => r.x + r.y) s

/-- USUB (R120). -/
def execUsub (st : BitVec 2) (d a b : BitVec 6) (m : BitVec 4) (s : State) : Out :=
  uniBin st d a b m (fun r => r.x - r.y) s

/-- UMUL (R120). -/
def execUmul (st : BitVec 2) (d a b : BitVec 6) (m : BitVec 4) (s : State) : Out :=
  uniBin st d a b m (fun r => r.x * r.y) s

/-- UMULH (R120). -/
def execUmulh (st : BitVec 2) (d a b : BitVec 6) (m : BitVec 4) (s : State) : Out :=
  uniBin st d a b m (fun r => r.x * r.y / (2 ^ uniWid m : Nat)) s

/-- UAND (R120). -/
def execUand (st : BitVec 2) (d a b : BitVec 6) (m : BitVec 4) (s : State) : Out :=
  uniBin st d a b m (fun r => bitwise (uniWid m) (· &&& ·) r.x r.y) s

/-- UOR (R120). -/
def execUor (st : BitVec 2) (d a b : BitVec 6) (m : BitVec 4) (s : State) : Out :=
  uniBin st d a b m (fun r => bitwise (uniWid m) (· ||| ·) r.x r.y) s

/-- UXOR (R120). -/
def execUxor (st : BitVec 2) (d a b : BitVec 6) (m : BitVec 4) (s : State) : Out :=
  uniBin st d a b m (fun r => bitwise (uniWid m) (· ^^^ ·) r.x r.y) s

/-- USHL (R120). -/
def execUshl (st : BitVec 2) (d a b : BitVec 6) (m : BitVec 4) (s : State) : Out :=
  uniBin st d a b m (fun r => shiftL (uniWid m) r.x r.c) s

/-- USHR (R120). -/
def execUshr (st : BitVec 2) (d a b : BitVec 6) (m : BitVec 4) (s : State) : Out :=
  uniBin st d a b m (fun r => shiftR (uniWid m) r.x r.c (uniSgn m)) s

/-- UMIN (R120). -/
def execUmin (st : BitVec 2) (d a b : BitVec 6) (m : BitVec 4) (s : State) : Out :=
  uniBin st d a b m (fun r => min r.x r.y) s

/-- UMAX (R120). -/
def execUmax (st : BitVec 2) (d a b : BitVec 6) (m : BitVec 4) (s : State) : Out :=
  uniBin st d a b m (fun r => max r.x r.y) s

/-- S[a] read as I64 or as N64. -/
def s64 (g : Regs) (sg : Bool) (a : Nat) : Int := asInt sg 64 (readS g a).toNat

/-- UCMP (R121): codes below 8 compare as I64, from 8 as N64. -/
def execUcmp (st : BitVec 2) (c : BitVec 3) (a b : BitVec 6) (m : BitVec 4) (s : State) : Out :=
  let sg := m.toNat < 8
  issue (uniForm st [sUse a.toNat, sUse b.toNat] (.c c.toNat)) (fun cx =>
    finish 4 (fun g => writeC g c.toNat
      (intCond (m.toNat % 8) (s64 g sg a.toNat) (s64 g sg b.toNat))) cx) s

/-- USEL (R122). That it reads both S registers, for REGPOISON and for R46, whichever it selects, is the model's choice: R122
does not say (log 15). -/
def execUsel (st : BitVec 2) (d a b : BitVec 6) (c : BitVec 3) (s : State) : Out :=
  issue (uniForm st [cUse c.toNat, sUse a.toNat, sUse b.toNat] (.s d.toNat)) (fun cx =>
    finish 4 (fun g => writeS g d.toNat
      (if readC g c.toNat then readS g a.toNat else readS g b.toNat)) cx) s

/-- UADDI (R123). -/
def execUaddi (st : BitVec 2) (d a : BitVec 6) (i : BitVec 10) (s : State) : Out :=
  issue (uniForm st [sUse a.toNat] (.s d.toNat)) (fun cx =>
    finish 4 (fun g => writeS g d.toNat (readS g a.toNat + i.signExtend 64)) cx) s

/-- UANDI (R123). -/
def execUandi (st : BitVec 2) (d a : BitVec 6) (i : BitVec 10) (s : State) : Out :=
  issue (uniForm st [sUse a.toNat] (.s d.toNat)) (fun cx =>
    finish 4 (fun g => writeS g d.toNat (readS g a.toNat &&& i.signExtend 64)) cx) s

/-- The conditions of UCMPI: codes 0 to 5 as I64; 6 is LT and 7 is GE, as N64 (R124). -/
def ucmpiCond (n : Nat) (x y : DWord) : Bool :=
  if n = 6 then x < y else if n = 7 then y ≤ x else intCond n (signed x.toNat 64) (signed y.toNat 64)

/-- UCMPI (R124). -/
def execUcmpi (st : BitVec 2) (c n : BitVec 3) (a : BitVec 6) (i : BitVec 10) (s : State) : Out :=
  issue (uniForm st [sUse a.toNat] (.c c.toNat)) (fun cx =>
    finish 4 (fun g => writeC g c.toNat (ucmpiCond n.toNat (readS g a.toNat) (i.signExtend 64))) cx) s

/-- UMOVI (R125): zero-extended, sign-extended, or to the high half with the low half kept. -/
def execUmovi (st : BitVec 2) (d : BitVec 6) (h : BitVec 2) (imm : BitVec 32) (s : State) : Out :=
  issue (uniForm st (if h = 2 then [sUse d.toNat] else []) (.s d.toNat)) (fun cx =>
    finish 8 (fun g => writeS g d.toNat
      (if h = 0 then imm.setWidth 64
       else if h = 1 then imm.signExtend 64
       else imm ++ (readS g d.toNat).truncate 32)) cx) s

/-- UUN (R126). -/
def execUun (st : BitVec 2) (d a u : BitVec 6) (m : BitVec 4) (s : State) : Out :=
  issue (uniForm st [sUse a.toNat] (.s d.toNat)) (fun cx =>
    finish 4 (fun g => wrs g d.toNat m (unary u.toNat (uniWid m) (rds g a.toNat m))) cx) s

/-- CLOG (R127). -/
def execClog (st : BitVec 2) (c x y : BitVec 3) (t : BitVec 4) (s : State) : Out :=
  issue (uniForm st [cUse x.toNat, cUse y.toNat] (.c c.toNat)) (fun cx =>
    finish 4 (fun g => writeC g c.toNat (truth t (readC g x.toNat) (readC g y.toNat))) cx) s

end Sys2Proof.Machine
end

