-- ==== Sys2Proof/Machine/Branch.lean ====
section
/-! DEFINITION. Branches, exit, waits, traps and returns, register allotment (R193 to R204, R322 to R328). -/

namespace Sys2Proof.Machine

open Sys2Proof

/-- The form of a uniform control instruction that reads the listed registers. -/
def ctlForm (st : BitVec 2) (reads : List UniUse) : Form := { st := st, lane := false, uni := reads }

/-- The group changed by f, as the effect of an instruction. -/
def okGrp (s : State) (cx : Cx) (g : Group) : Res := .ok (setGrp s cx.key g)

/-- The issuing fragment goes on at p (R189 and R188 applied). -/
def jump (p : VAddr) (i : Nat) (g : Group) : Group := modFrag g i fun f => { f with pc := p, feedSince := none }

/-- The target of a UB branch at pc (R58, R193). -/
def branchTarget (pc : VAddr) (off : BitVec 18) : VAddr := pc + (off.signExtend 57) <<< 2

/-! ## Branches (R193) -/

/-- BRA (R193). -/
def execBra (st : BitVec 2) (f : BitVec 18) (s : State) : Out :=
  issue (ctlForm st []) (fun cx s => okGrp s cx (jump (branchTarget cx.f.pc f) cx.ix cx.g)) s

/-- The form of CALL. -/
def callForm (st : BitVec 2) : Form := { ctlForm st [] with dsts := [.s 62] }

/-- CALL (R193, R194): S62 receives the return address. -/
def execCall (st : BitVec 2) (f : BitVec 18) (s : State) : Out :=
  issue (callForm st) (fun cx s =>
    okGrp s cx (jump (branchTarget cx.f.pc f) cx.ix
      { cx.g with regs := writeS cx.g.regs 62 ((pcAdd cx.f.pc 4).setWidth 64) })) s

/-- BRC (R193). -/
def execBrc (st : BitVec 2) (c : BitVec 3) (n : BitVec 1) (f : BitVec 18) (s : State) : Out :=
  issue (ctlForm st [cUse c.toNat]) (fun cx s =>
    okGrp s cx (jump (if readC cx.g.regs c.toNat != (n = 1) then branchTarget cx.f.pc f else pcAdd cx.f.pc 4)
      cx.ix cx.g)) s

/-- A branch to the address in a register (R193): ALIGN, then PROT. -/
def branchTo (t : DWord) (cx : Cx) (s : State) : Res :=
  if t.toNat % 4 ≠ 0 then .flt { cls := 0x08, status := 1 }
  else if t.toNat ≥ 2 ^ 57 then .flt { cls := 0x11, status := 1 }
  else okGrp s cx (jump (t.truncate 57) cx.ix cx.g)

/-- BRX (R193). -/
def execBrx (st : BitVec 2) (a : BitVec 6) (s : State) : Out :=
  issue (ctlForm st [sUse a.toNat]) (fun cx s => branchTo (readS cx.g.regs a.toNat) cx s) s

/-- RET (R193). -/
def execRet (st : BitVec 2) (s : State) : Out :=
  issue (ctlForm st [sUse 62]) (fun cx s => branchTo (readS cx.g.regs 62) cx s) s

/-- The fragments after a BRP of fragment i whose lanes t branch to p (R193). -/
def splitBranch (t : Mask) (p : VAddr) (i : Nat) (g : Group) : Group :=
  match g.frags[i]? with
  | none => g
  | some f =>
    if t = f.mask then jump p i g
    else if t = 0 then jump (pcAdd f.pc 4) i g
    else
      settle { g with
        frags := modNth g.frags i (fun f => { f with mask := f.mask &&& ~~~t, pc := pcAdd f.pc 4 })
          ++ [{ mask := t, pc := p, handler := f.handler }] }

/-- The form of BRP: P[p] of each lane is read. -/
def brpForm (st : BitVec 2) (p : BitVec 3) : Form := { ctlForm st [] with uses := fun _ l => [pUse p.toNat l] }

/-- BRP (R193). -/
def execBrp (st : BitVec 2) (p : BitVec 3) (n : BitVec 1) (f : BitVec 18) (s : State) : Out :=
  issue (brpForm st p) (fun cx s =>
    let pv := readP cx.g.regs p.toNat
    let t := cx.f.mask &&& (if n = 1 then ~~~pv else pv)
    okGrp s cx (splitBranch t (branchTarget cx.f.pc f) cx.ix cx.g)) s

/-! ## Completion of what a group has issued (R198) -/

/-- The bit of WAIT's k that names a class (R198). -/
def classBit : OpClass → Nat
  | .load => 0 | .store => 1 | .copy => 2 | .remote => 3 | .matrix => 4 | .feed => 5

/-- Every operation numbered below `before` of the classes in k is complete. -/
def opsDone (g : Group) (k : BitVec 10) (before : Nat) : Bool :=
  g.ops.all fun o => !(k.getLsbD (classBit o.cls)) || o.id ≥ before

/-- The results of a window's entries numbered below `before` are in Q1 or Q3 (R198, class 5). -/
def windowDone (w : FeedWindow) (before : Nat) : Bool :=
  [w.q0, w.taken, w.q2, w.due].all fun l => l.all fun e => e.id ≥ before

/-- Every entry of the group numbered below `before` has its result. -/
def feedDone (g : Group) (before : Nat) : Bool := windowDone g.win0 before && windowDone g.win1 before

/-- WAIT's condition (R198). -/
def waitDone (g : Group) (k : BitVec 10) (before : Nat) : Bool :=
  opsDone g k before && (!k.getLsbD 5 || feedDone g before)

/-- TFENCE's condition: every class, every chain, the MMAP (R327). -/
def fenceDone (g : Group) (before : Nat) : Bool :=
  waitDone g 63 before && (g.chains.all fun c => c.id ≥ before) && g.mmap.isNone

/-- A hold ends: the fragment goes on, and is compared at its PC (R189). -/
def endHold (i : Nat) (g : Group) : Group := modFrag g i fun f => { f with hold := .none }

/-- The fragment holds, standing past its instruction. -/
def holdAfter (h : Hold) (i : Nat) (g : Group) : Group :=
  modFrag g i fun f => { f with hold := h, pc := pcAdd f.pc 4 }

/-! ## Exit (R196) -/

/-- A context with no live group left is Resident again (R316). -/
def restResident (s : State) (i c : Nat) : State :=
  if ctxGroups s i c = [] then
    modCtx s i c fun x => if x.state = .running then { x with state := .resident } else x
  else s

/-- A team of the grid has ended; a Running grid with no team left is Complete (R352). -/
def teamEnded (g : Grid) : Grid :=
  let g := { g with live := g.live - 1 }
  if g.state = .running && g.live = 0 then { g with state := .complete } else g

/-- The group becomes Exited: its slot is freed, its team records it, and a team with no group left ends (R29, R192,
R352). Its accesses are covered by its grid's completion (R353). -/
def exitGroup (s : State) (k : Nat) : State :=
  let id := (grpOf s k).ident
  let s := panelRelease s k (fullMask 64)
  let s := match (grpOf s k).stream with
    | some n => modIsl s id.island fun x => { x with streams := tblDel x.streams n }
    | none => s
  let s := { s with groups := tblDel s.groups k }
  let s := modTeam s id.team fun t => { t with exited := t.exited ++ [id.groupId] }
  let s := if s.groups.any fun p => p.2.ident.team = id.team then s
    else { s with
      teams := tblDel s.teams id.team
      panel := { s.panel with grids := tblAdj s.panel.grids id.grid teamEnded } }
  restResident (wakeAll s) id.island id.ctx

/-- The flags whose enables are set (R327). -/
def arithFlags (g : Group) : Flg := flagsOf g.special &&& enablesOf g.special

/-- TCAUSE of ARITH (R327). -/
def arithCause (fl : Flg) : DWord := causeWord { cls := 0x07, info := fl.setWidth 32 } true

/-- What a TFENCE or the drain of EXIT surfaces: the oldest held fault, else an enabled flag (R327). -/
def surfaced (g : Group) : Option DWord :=
  match g.held with
  | h :: _ => some (h.cause ||| (1#64 <<< 63))
  | [] => if arithFlags g ≠ 0 then some (arithCause (arithFlags g)) else none

/-- Surfaces it at the PC, with the mask; a held fault leaves the list at the entry (R322, R327). -/
def surface (s : State) (k : Nat) (cause : DWord) (pc : VAddr) (mask : Mask) : State :=
  deliverReq s k { cause := cause, tspc := pc, mask := mask, drop := (grpOf s k).held.head? }

/-- The end of a group's last EXIT, once everything it issued is complete: a fault is taken with the exiting lanes
live again, or the group becomes Exited (R196). -/
def drainEnd (s : State) (k : Nat) (pc : VAddr) (mask : Mask) : State :=
  let g := grpOf s k
  match surfaced g with
  | some c =>
    let s := setGrp s k { g with draining := none, exitedLanes := g.exitedLanes &&& ~~~mask }
    surface s k c pc mask
  | none => exitGroup s k

/-- After lanes have left: the drain begins, and ends at once when nothing is outstanding (R196). -/
def afterExit (s : State) (k : Nat) (pc : VAddr) (mask : Mask) : State :=
  let g := grpOf s k
  if g.frags ≠ [] then s
  else if fenceDone g s.seq then drainEnd s k pc mask
  else setGrp s k { g with draining := some (pc, mask) }

/-- A handler fragment with a lower PC exists (R196, R326). -/
def lowerHandler (cx : Cx) : Bool := cx.g.frags.any fun f => f.handler && f.pc.toNat < cx.f.pc.toNat

/-- EXIT (R196). -/
def execExit (st : BitVec 2) (s : State) : Out :=
  issue (ctlForm st []) (fun cx s =>
    let g := cx.g
    if g.hmode then
      if lowerHandler cx then .wait
      else if cx.f.mask ≠ handlerLanes g then .flt { cls := 0x04 }
      else
        let gone : Mask := liveLanes g &&& g.special.tmask
        let g' := returnFromHandler g 0 (handlerLanes g &&& ~~~gone)
        let g' := settle { g' with frags := withoutLanes gone g'.frags, exitedLanes := g.exitedLanes ||| gone }
        .ok (afterExit (setGrp s cx.key g') cx.key cx.f.pc gone)
    else
      let g' := settle { g with
        frags := withoutLanes cx.f.mask g.frags
        exitedLanes := g.exitedLanes ||| cx.f.mask }
      .ok (afterExit (setGrp s cx.key g') cx.key cx.f.pc cx.f.mask)) s

/-- EXIT_DRAIN_END (R196). -/
def execExitDrainEnd (grp : Nat) (s : State) : Out :=
  let g := grpOf s grp
  match g.draining with
  | some (pc, m) => if fenceDone g s.seq then .next (drainEnd s grp pc m) else .next s
  | none => .next s

/-! ## Yield, no operation, waits (R195 to R199) -/

/-- The form of YIELD: the group offers nothing in the next clock (R197). -/
def yieldForm (st : BitVec 2) : Form := { ctlForm st [] with extra := 1 }

/-- YIELD (R197). -/
def execYield (st : BitVec 2) (s : State) : Out :=
  issue (yieldForm st) (fun cx => finish 4 id cx) s

/-- NOP (R195). -/
def execNop (st : BitVec 2) (s : State) : Out :=
  issue (ctlForm st []) (fun cx => finish 4 id cx) s

/-- WAIT (R198). -/
def execWait (st : BitVec 2) (k : BitVec 10) (s : State) : Out :=
  issue (ctlForm st []) (fun cx s =>
    if waitDone cx.g k s.seq then finish 4 id cx s
    else okGrp s cx (holdAfter (.waitOps k s.seq) cx.ix cx.g)) s

/-- WAIT_HOLD_END (R198). -/
def execWaitHoldEnd (grp frag : Nat) (s : State) : Out :=
  let g := grpOf s grp
  let f := nth g.frags frag
  match f.hold with
  | .waitOps k b => if waitDone g k b && inMode g f then .next (modGrp s grp fun g => wake (endHold frag g)) else .next s
  | _ => .next s

/-- The form of SLEEP. -/
def sleepForm (st : BitVec 2) (n : BitVec 10) : Form := { ctlForm st [] with extra := if n = 0 then 1 else 0 }

/-- SLEEP (R199): the group's next clock after it lies 16 × n clocks on; SLEEP 0 acts as YIELD. -/
def execSleep (st : BitVec 2) (n : BitVec 10) (s : State) : Out :=
  issue (sleepForm st n) (fun cx s =>
    if n = 0 then finish 4 id cx s
    else okGrp s cx (holdAfter (.sleep (issueClock s cx + 1 + 16 * n.toNat)) cx.ix cx.g)) s

/-- SLEEP_EXPIRY (R199): at least the clocks of the SLEEP have passed. -/
def execSleepExpiry (grp frag : Nat) (s : State) : Out :=
  let f := nth (grpOf s grp).frags frag
  match f.hold with
  | .sleep till =>
    if inMode (grpOf s grp) f then .next (modGrp s grp fun g => wake (endHold frag { g with clk := max g.clk till })) else .next s
  | _ => .next s

/-- STALL_COUNT_EXPIRY (R45). -/
def execStallCountExpiry (grp : Nat) (s : State) : Out :=
  .next (modGrp s grp fun g => { g with stall := 0 })

/-! ## Traps and returns (R200, R322 to R327) -/

/-- A software trap: TSPC holds the address after the instruction (R200, R325). -/
def softTrap (st : BitVec 2) (status : BitVec 8) (code : BitVec 10) : State → Out :=
  issue (ctlForm st []) fun cx s =>
    .ok (deliver s cx.key (causeWord { cls := 0, status := status, info := code.setWidth 32 } false)
      (pcAdd cx.f.pc 4) cx.f.mask)

/-- BPT (R200). -/
def execBpt (st : BitVec 2) (k : BitVec 10) (s : State) : Out := softTrap st 1 k s

/-- TRAP (R325). -/
def execTrap (st : BitVec 2) (k : BitVec 10) (s : State) : Out := softTrap st 0 k s

/-- TRAP_ENTRY (R322): the group's chains and MMAP have retired. -/
def execTrapEntry (grp : Nat) (s : State) : Out :=
  let g := grpOf s grp
  match g.trapReq, g.ident.handlerPc with
  | some r, some entry => if entryBlocked g then .next s else .next (setGrp s grp (enterHandler g r entry))
  | _, _ => .next s

/-- TSTAT's reserved bits (R34, R35). -/
def tstatReserved : DWord := 0xFFFFFF0000FCFF18

/-- TSTAT and TMASK pass the checks of TRET (R326). -/
def statusWordOk (g : Group) : Bool :=
  g.special.tstat &&& tstatReserved = 0 && g.special.tstat &&& 6 = 0 && g.special.tmask &&& ~~~g.hset = 0

/-- TRET (R326). -/
def execTret (st : BitVec 2) (s : State) : Out :=
  issue (ctlForm st []) (fun cx s =>
    let g := cx.g
    if !g.hmode then .flt { cls := 0x01, status := 4 }
    else if lowerHandler cx then .wait
    else if cx.f.mask ≠ handlerLanes g then .flt { cls := 0x04 }
    else if !statusWordOk g then
      .out (escalate s cx.key g 2 (causeWord { cls := 0x19 } false) cx.f.pc cx.f.mask)
    else
      let h := handlerLanes g
      okGrp s cx (returnFromHandler g (h &&& g.special.tmask) (h &&& ~~~g.special.tmask))) s

/-- The number below which operations count for the TFENCE the fragment stands at. -/
def fenceMark (cx : Cx) (s : State) : Nat :=
  match cx.f.hold with
  | .tfence b => b
  | _ => s.seq

/-- TFENCE (R327): it holds at its own PC, and delivers or proceeds when it issues again. -/
def execTfence (st : BitVec 2) (s : State) : Out :=
  issue (ctlForm st []) (fun cx s =>
    let b := fenceMark cx s
    if !fenceDone cx.g b then okGrp s cx (modFrag cx.g cx.ix fun f => { f with hold := .tfence b })
    else
      let s := setGrp s cx.key { cx.g with frags := modNth cx.g.frags cx.ix fun f => { f with hold := .none } }
      match surfaced cx.g with
      | some c => .ok (surface s cx.key c cx.f.pc cx.f.mask)
      | none => .ok (modGrp s cx.key (advance 4 cx.ix))) s

/-! ## FLAGS in one step (R328) -/

/-- Everything earlier that can set flags or cut digits has retired (R38). -/
def flagsSettled (g : Group) : Bool :=
  g.chains = [] && g.mmap.isNone && g.ops.all fun o => o.cls ≠ .matrix

/-- The form of FLGS. -/
def flgsForm (st : BitVec 2) (d : BitVec 6) : Form := { ctlForm st [] with dsts := [.s d.toNat] }

/-- FLGS and its updates: S[d] the old FLAGS, then FLAGS by f (R328). -/
def flgsOp (st : BitVec 2) (d : BitVec 6) (f : DWord → DWord) : State → Out :=
  issue (flgsForm st d) fun cx s =>
    if !flagsSettled cx.g then .wait
    else
      let old := cx.g.special.flags
      okGrp s cx (advance 4 cx.ix { cx.g with
        regs := writeS cx.g.regs d.toNat old
        special := { cx.g.special with flags := f old } })

/-- FLGS (R328); the mask is ignored. -/
def execFlgs (st : BitVec 2) (d : BitVec 6) (m : BitVec 5) (s : State) : Out :=
  let _ := m
  flgsOp st d id s

/-- FLGS.CLR (R328). R97 says that no instruction but a WRSR of FLAGS clears a flag; the model follows R328, which gives this
instruction (log 15). -/
def execFlgsClr (st : BitVec 2) (d : BitVec 6) (m : BitVec 5) (s : State) : Out :=
  flgsOp st d (fun x => x &&& ~~~(m.setWidth 64)) s

/-- FLGS.SET (R328). -/
def execFlgsSet (st : BitVec 2) (d : BitVec 6) (m : BitVec 5) (s : State) : Out :=
  flgsOp st d (fun x => x ||| m.setWidth 64) s

/-! ## Register allotment (R201 to R203) -/

/-- Bytes of the group's registers above its base, or of n registers per lane. -/
def regBytes (g : Group) (n : Nat) : Nat := lanesIn g * n * 4

/-- Groups of one core, with their keys. -/
def coreGroups (s : State) (i c : Nat) : List (Nat × Group) :=
  s.groups.filter fun p => p.2.ident.island = i && p.2.ident.core = c

/-- Groups of an n-group team that its core ix of k takes (R348). -/
def groupsOn (n k ix : Nat) : Nat := ((List.range n).filter fun g => g % k = ix).length

/-- Lanes a team holds on one of its cores until its last group exits (R29). -/
def teamLanes (t : Team) (core : Nat) : Nat :=
  groupsOn t.groups.length t.cores.length ((t.cores.findIdx? (· = core)).getD 0) * widthLanes t.width

/-- The core's register pool in bytes (R203): 384 KiB less the base reservations of resident teams and what groups
hold above their base; a spilled group holds neither. -/
def poolBytes (s : State) (i c : Nat) : Nat :=
  let teams := s.teams.filter fun t => t.2.island = i && t.2.cores.contains c
  let gs := coreGroups s i c
  let spilled := (gs.filter fun p => p.2.state = .spilled).map fun p => regBytes p.2 p.2.ident.base
  let used := (teams.map fun t => teamLanes t.2 c * t.2.regBase * 4)
    ++ (gs.filter fun p => p.2.state ≠ .spilled).map fun p => regBytes p.2 (p.2.allot - p.2.ident.base)
  393216 + spilled.sum - used.sum

/-- The allotment a group claims: an RGROW held in one of its fragments. Where two of its fragments claim at once, the first
in the list of fragments is served first: the spec does not say which, and this is the model's choice (log 15). -/
def claimOf (g : Group) : Option Nat :=
  g.frags.findSome? fun f => match f.hold with | .rgrow n => some n | _ => none

/-- The bytes a group's waiting claim needs: a return claim when it is spilled (R203, R204). -/
def claimBytes (g : Group) : Option Nat :=
  if g.state = .spilled then some (regBytes g ((claimOf g).getD g.allot))
  else (claimOf g).map fun n => regBytes g (n - g.allot)

/-- The oldest waiting claim of a core: group key and bytes (R203). -/
def oldestClaim (s : State) (i c : Nat) : Option (Nat × Nat) :=
  let cl := (coreGroups s i c).filterMap fun p => (claimBytes p.2).map fun b => (p.2.age, p.1, b)
  let low := cl.foldl (fun (acc : Option (Nat × Nat × Nat)) x =>
    match acc with
    | some a => if x.1 < a.1 then some x else some a
    | none => some x) none
  low.map fun x => (x.2.1, x.2.2)

/-- Registers n0 to n − 1 set to zero without poison in every lane (R202). -/
def zeroRegs (g : Regs) (n0 : Nat) : Regs :=
  { g with
    v := g.v.filter fun p => p.1 < n0
    badV := g.badV.filter fun p => p.1 < n0 }

/-- The allotment grown to n: the new registers are zero, the claiming fragment proceeds (R202). A claim that the group's other
claim has met already changes nothing, as an RGROW of that n (R201; log 15). -/
def growTo (n i : Nat) (g : Group) : Group :=
  modFrag (if n ≤ g.allot then g else { g with regs := zeroRegs g.regs g.allot, allot := n }) i fun f =>
    { f with hold := .none, pc := pcAdd f.pc 4 }

/-- The form of RGROW. -/
def growForm (st : BitVec 2) (n : BitVec 10) : Form := { ctlForm st [] with bad := fun cx => n.toNat > cx.g.ident.max }

/-- RGROW (R201, R202): the claim is served at once when the pool holds it and no older claim waits. -/
def execRgrow (st : BitVec 2) (n : BitVec 10) (s : State) : Out :=
  issue (growForm st n) (fun cx s =>
    if n.toNat ≤ cx.g.allot then finish 4 id cx s
    else
      let older := (oldestClaim s cx.g.ident.island cx.g.ident.core).any fun p => (grpOf s p.1).age < cx.g.age
      if !older && regBytes cx.g (n.toNat - cx.g.allot) ≤ poolBytes s cx.g.ident.island cx.g.ident.core then
        okGrp s cx (growTo n.toNat cx.ix cx.g)
      else okGrp s cx (modFrag cx.g cx.ix fun f => { f with hold := .rgrow n.toNat })) s

/-- The write of a late result names a register from n up. -/
def writesFrom (n : Nat) (w : RegWrite) : Bool :=
  match w.elem with
  | .v r _ => r ≥ n
  | _ => false

/-- The form of RSHRINK. -/
def shrinkForm (st : BitVec 2) (n : BitVec 10) : Form :=
  { ctlForm st [] with bad := fun cx => n.toNat < cx.g.ident.base, conv := true }

/-- RSHRINK (R201, R202). -/
def execRshrink (st : BitVec 2) (n : BitVec 10) (s : State) : Out :=
  issue (shrinkForm st n) (fun cx s =>
    if n.toNat ≥ cx.g.allot then finish 4 id cx s
    else if cx.g.chains ≠ [] || cx.g.ops.any fun o => o.writes.any (writesFrom n.toNat) then .wait
    else
      .ok (wakeAll (setGrp s cx.key
        (advance 4 cx.ix { cx.g with regs := zeroRegs cx.g.regs n.toNat, allot := n.toNat })))) s

/-! ## Poison marks (R209) -/

/-- REGISTER_POISON (R209): kind 0 V, 1 S, 2 P, 3 C. -/
def execRegisterPoison (grp kind reg lane sub : Nat) (s : State) : Out :=
  .next (modGrp s grp fun g =>
    let r := g.regs
    { g with regs := match kind with
      | 0 => { r with badV := tblMod r.badV (reg % 128) fun b =>
          if sub = 0 then { b with lo := b.lo ||| laneBit (lane % 64) } else { b with hi := b.hi ||| laneBit (lane % 64) } }
      | 1 => poisonS r (reg % 64)
      | 2 => if reg % 8 = 7 then r else { r with badP := tblMod r.badP (reg % 8) fun b => b ||| laneBit (lane % 64) }
      | _ => if reg % 8 = 7 then r else { r with badC := r.badC ||| (1#8 <<< (reg % 8)) } })

end Sys2Proof.Machine
end

