-- ==== Sys2Proof/Machine/Float.lean ====
section
/-! DEFINITION. Floating-point arithmetic, conversion and block quantisation (R128 to R143). -/

namespace Sys2Proof.Machine

open Sys2Proof

/-! ## Operands in the online pipe -/

/-- EF: the element format of a format code (R49). -/
def efmt (m : BitVec 2) : FFmt :=
  match m.toNat with
  | 0 => .f32 | 1 => .f16 | 2 => .bf16 | _ => .f64

/-- The format code holds two values in each lane. -/
def packed (m : BitVec 2) : Bool := m = 1 || m = 2

/-- The encoding RDF reads for half h (R49). -/
def rdfBits (g : Regs) (r l : Nat) (m : BitVec 2) (h : Nat) : Nat :=
  if m = 3 then readPair g r l
  else if packed m then (readV g r l).toNat / 2 ^ (16 * h) % 2 ^ 16
  else (readV g r l).toNat

/-- RDF. -/
def rdf (g : Regs) (r l : Nat) (m : BitVec 2) (h : Nat) : Ext := dec (efmt m) (rdfBits g r l m h)

/-- V registers a format code's operand occupies. -/
def fmtRegs (m : BitVec 2) : Nat := if m = 3 then 2 else 1

/-- A lane's result from those of its halves, flags of either half raised (R97). -/
def halves (m : BitVec 2) (f : Nat → Rounded) : Rounded :=
  if packed m then
    let a := f 0
    let b := f 1
    (a.1 + 2 ^ 16 * b.1, a.2 ||| b.2)
  else f 0

/-- The lane results of a mask, as a row of 64. -/
def laneResults (k : Mask) (f : Nat → Rounded) : List Rounded :=
  lanes64.map fun l => if inMask k l then f l else (0, 0)

/-- WRF of whole lane results. -/
def writeF (g : Regs) (d : Nat) (k : Mask) (m : BitVec 2) (r : List Rounded) : Regs :=
  if m = 3 then writePair g d k fun l => (r.getD l (0, 0)).1
  else writeV g d k fun l => bv 32 (r.getD l (0, 0)).1

/-- The flags raised in any lane. -/
def laneFlags (r : List Rounded) : Flg := orFlags (r.map fun x => x.2)

/-- Registers changed by f, flags raised, the fragment moved on. -/
def finishFlags (fl : Flg) (f : Regs → Regs) (cx : Cx) (s : State) : Res :=
  .ok (setGrp s cx.key (advance 4 cx.ix { cx.g with regs := f cx.g.regs, special := raise cx.g.special fl }))

/-- The form of a floating lane instruction with one or two operands. FMA reads V[a], V[b] and then V[d], the order of its
pseudocode (the assembly form names d first): the model's choice of the operand order of R209 (log 15). -/
def floatForm (st : BitVec 2) (d a : BitVec 7) (b : Option (BitVec 7)) (m : BitVec 2) (readsD : Bool) : Form :=
  let n := fmtRegs m
  { st := st
    bad := fun cx => badV cx d.toNat n || badV cx a.toNat n || (match b with | some b => badV cx b.toNat n | none => false)
    uses := fun _ l => vUse a.toNat n l ++ (match b with | some b => vUse b.toNat n l | none => [])
      ++ (if readsD then vUse d.toNat n l else [])
    dsts := vDst d.toNat n }

/-- A floating instruction whose lane result is z of the mode and the operands' encodings a, b and d. -/
def floatOp (st : BitVec 2) (d a : BitVec 7) (b : Option (BitVec 7)) (m : BitVec 2) (readsD : Bool)
    (z : RMode → Nat → Nat → Nat → Rounded) : State → Out :=
  issue (floatForm st d a b m readsD) fun cx =>
    let g := cx.g.regs
    let md := modeOf cx.g.special
    let r := laneResults cx.f.mask fun l =>
      halves m fun h =>
        z md (rdfBits g a.toNat l m h) (match b with | some b => rdfBits g b.toNat l m h | none => 0)
          (rdfBits g d.toNat l m h)
    finishFlags (laneFlags r) (fun g => writeF g d.toNat cx.f.mask m r) cx

/-! ## Arithmetic (R131 to R134) -/

/-- RND of an exact result, with the flags of both. -/
def rndExact (f : FFmt) (mode : RMode) (x : Exact) : Rounded :=
  let r := rnd f mode x.1
  (r.1, r.2 ||| x.2)

/-- FADD (R131). -/
def execFadd (st : BitVec 2) (d a b : BitVec 7) (m : BitVec 2) (s : State) : Out :=
  let f := efmt m
  floatOp st d a (some b) m false (fun md x y _ => rndExact f md (exactAdd md (dec f x) (dec f y))) s

/-- FSUB (R131). -/
def execFsub (st : BitVec 2) (d a b : BitVec 7) (m : BitVec 2) (s : State) : Out :=
  let f := efmt m
  floatOp st d a (some b) m false (fun md x y _ => rndExact f md (exactSub md (dec f x) (dec f y))) s

/-- FMUL (R131). -/
def execFmul (st : BitVec 2) (d a b : BitVec 7) (m : BitVec 2) (s : State) : Out :=
  let f := efmt m
  floatOp st d a (some b) m false (fun md x y _ => rndExact f md (exactMul (dec f x) (dec f y))) s

/-- FMA (R131): a × b + d. -/
def execFma (st : BitVec 2) (d a b : BitVec 7) (m : BitVec 2) (s : State) : Out :=
  let f := efmt m
  floatOp st d a (some b) m true (fun md x y z => rndExact f md (exactFma md (dec f x) (dec f y) (dec f z))) s

/-- FDIV (R131). -/
def execFdiv (st : BitVec 2) (d a b : BitVec 7) (m : BitVec 2) (s : State) : Out :=
  let f := efmt m
  floatOp st d a (some b) m false (fun md x y _ => rndExact f md (exactDiv (dec f x) (dec f y))) s

/-- The selection of R132 between two encodings. -/
def minMax (f : FFmt) (isMin : Bool) (x y : Nat) : Rounded :=
  let ex := dec f x
  let ey := dec f y
  let e :=
    if isNan ex && isNan ey then canonicalNan f
    else if isNan ex then y
    else if isNan ey then x
    else if isMin then (if extLess ey ex then y else x)
    else if extLess ex ey then y else x
  (e, snanFlag [ex, ey])

/-- FMIN (R132). -/
def execFmin (st : BitVec 2) (d a b : BitVec 7) (m : BitVec 2) (s : State) : Out :=
  floatOp st d a (some b) m false (fun _ x y _ => minMax (efmt m) true x y) s

/-- FMAX (R132). -/
def execFmax (st : BitVec 2) (d a b : BitVec 7) (m : BitVec 2) (s : State) : Out :=
  floatOp st d a (some b) m false (fun _ x y _ => minMax (efmt m) false x y) s

/-- The conditions of FCMP by code (R50). -/
def floatCond (c : Nat) (x y : Ext) : Bool :=
  let un := isNan x || isNan y
  let o := extCmp x y
  match c with
  | 0 => !un && o = 0
  | 1 => un || o ≠ 0
  | 2 => !un && o < 0
  | 3 => !un && o ≤ 0
  | 4 => !un && o > 0
  | 5 => !un && o ≥ 0
  | 6 => !un
  | 7 => un
  | 8 => un || o < 0
  | 9 => un || o ≤ 0
  | 10 => un || o > 0
  | 11 => un || o ≥ 0
  | _ => un || o = 0

/-- FCMP (R133). -/
def execFcmp (st : BitVec 2) (p : BitVec 3) (c : BitVec 4) (a b : BitVec 7) (m : BitVec 2) (s : State) : Out :=
  issue (laneCmpForm st 0 p a b (fmtRegs m)) (fun cx =>
    let g := cx.g.regs
    let x := fun l => rdf g a.toNat l m 0
    let y := fun l => rdf g b.toNat l m 0
    let fl := orFlags ((lanesOf cx.f.mask).map fun l => snanFlag [x l, y l])
    finishFlags fl (fun g => writeP g p.toNat cx.f.mask (maskOf fun l => floatCond c.toNat (x l) (y l))) cx) s

/-- The form of FSCL. -/
def fsclForm (st : BitVec 2) (d a b : BitVec 7) (m : BitVec 2) : Form :=
  let n := fmtRegs m
  { st := st
    bad := fun cx => badV cx d.toNat n || badV cx a.toNat n || badV cx b.toNat 1
    uses := fun _ l => vUse a.toNat n l ++ vUse b.toNat 1 l
    dsts := vDst d.toNat n }

/-- FSCL (R134): V[b] is a single I32 register in every format, for both halves. -/
def execFscl (st : BitVec 2) (d a b : BitVec 7) (m : BitVec 2) (s : State) : Out :=
  let f := efmt m
  issue (fsclForm st d a b m)
    (fun cx =>
      let g := cx.g.regs
      let md := modeOf cx.g.special
      let r := laneResults cx.f.mask fun l =>
        halves m fun h => rnd f md (scale2 (rdf g a.toNat l m h) (rdv g b.toNat l 0))
      finishFlags (laneFlags r) (fun g => writeF g d.toNat cx.f.mask m r) cx) s

/-! ## FUN (R135, R136) -/

/-- The class mask of an encoding (R136). -/
def classMask (f : FFmt) (b : Nat) : Nat :=
  let sub := bits b (fmtBits f - 2) (fracBits f) = 0
  match dec f b with
  | .nan sg => if sg then 1 else 2
  | .inf n => if n then 4 else 512
  | .zero n => if n then 32 else 64
  | .real n _ _ => if n then (if sub then 16 else 8) else (if sub then 128 else 256)

/-- An integral rounding of R135, with NX where the sub-operation raises it. -/
def funRound (f : FFmt) (mode : RMode) (nx : Bool) (x : Ext) : Rounded :=
  let r := roundInt mode x
  let o := rnd f mode r.1
  (o.1, if nx && !r.2 then o.2 ||| flgNX else o.2)

/-- The sub-operations of R135 other than CLASS, on an encoding. -/
def funResult (f : FFmt) (md : RMode) (code b : Nat) : Rounded :=
  let x := dec f b
  match code with
  | 0 => rndExact f md (exactSqrt x)
  | 1 => rnd f md (extAbs x)
  | 2 => rnd f md (extNegate x)
  | 3 => if isNan x then rnd f md x else rnd f md (if extCmp x (.zero false) > 0 then x else .zero false)
  | 4 => funRound f .rd false x
  | 5 => funRound f .ru false x
  | 6 => funRound f .rz false x
  | 7 => funRound f md true x
  | _ =>
    if isNan x || isZero x then rnd f md x else rnd f md (.real (extNeg x) 1 0)

/-- Registers FUN writes: CLASS writes one (R136). -/
def funRegs (u : BitVec 7) (m : BitVec 2) : Nat := if u = 9 then 1 else fmtRegs m

/-- The form of FUN. -/
def funForm (st : BitVec 2) (d a u : BitVec 7) (m : BitVec 2) : Form :=
  { st := st
    bad := fun cx => badV cx d.toNat (funRegs u m) || badV cx a.toNat (fmtRegs m)
    uses := fun _ l => vUse a.toNat (fmtRegs m) l
    dsts := vDst d.toNat (funRegs u m) }

/-- FUN (R135). CLASS of F64 writes one register, which may be any (R136). -/
def execFunOp (st : BitVec 2) (d a u : BitVec 7) (m : BitVec 2) (s : State) : Out :=
  let f := efmt m
  let cls := u = 9
  issue (funForm st d a u m)
    (fun cx =>
      let g := cx.g.regs
      let md := modeOf cx.g.special
      let r := laneResults cx.f.mask fun l =>
        halves m fun h =>
          let b := rdfBits g a.toNat l m h
          if cls then (classMask f b, 0) else funResult f md u.toNat b
      finishFlags (laneFlags r)
        (fun g => writeF g d.toNat cx.f.mask (if cls then 0 else m) r) cx) s

/-! ## Conversion (R137 to R139) -/

/-- The floating format of a CVT code below 7 (R56). -/
def cvtFmt (c : Nat) : FFmt :=
  match c with
  | 0 => .f32 | 1 => .f16 | 2 => .bf16 | 3 => .f64 | 4 => .e4m3 | 5 => .e5m2 | _ => .e2m1

/-- Width in bits of a CVT format code (R56). -/
def cvtBits (c : Nat) : Nat :=
  if c < 8 then fmtBits (cvtFmt c) else 8 * 2 ^ (c % 4)

/-- An integer format code is signed. -/
def cvtSigned (c : Nat) : Bool := c < 12

/-- Registers a CVT operand of a format occupies (R137). -/
def cvtRegs (c : Nat) : Nat := if cvtBits c = 64 then 2 else 1

/-- The value of a CVT source (R139); bits above the format are ignored. -/
def cvtSource (u x : Nat) : Ext :=
  let b := x % 2 ^ cvtBits u
  if u < 8 then dec (cvtFmt u) b else extOfInt (asInt (cvtSigned u) (cvtBits u) b)

/-- A CVT result, extended to 32 bits where it is a narrow integer (R137, R139). -/
def cvtResult (t : Nat) (sat : Bool) (md : RMode) (x : Ext) : Rounded :=
  if t < 8 then (if sat then satRnd (cvtFmt t) md x else rnd (cvtFmt t) md x)
  else
    let n := cvtBits t
    let r := rndInt (cvtSigned t) n md x
    (if n < 32 && cvtSigned t then wrap (signed r.1 n) 32 else r.1, r.2)

/-- The form of CVT. -/
def cvtForm (st : BitVec 2) (d a : BitVec 7) (t u : BitVec 4) : Form :=
  { st := st
    bad := fun cx => badV cx d.toNat (cvtRegs t.toNat) || badV cx a.toNat (cvtRegs u.toNat)
    uses := fun _ l => (vUse a.toNat (cvtRegs u.toNat) l).map fun e => { e with hi := cvtBits u.toNat > 16 }
    dsts := vDst d.toNat (cvtRegs t.toNat) }

/-- CVT (R139). A source of 16 bits or fewer reads sub-element 0 alone (R209). -/
def execCvt (st : BitVec 2) (d a : BitVec 7) (t u : BitVec 4) (x : BitVec 1) (s : State) : Out :=
  let nd := cvtRegs t.toNat
  let na := cvtRegs u.toNat
  issue (cvtForm st d a t u)
    (fun cx =>
      let g := cx.g.regs
      let md := modeOf cx.g.special
      let r := laneResults cx.f.mask fun l =>
        cvtResult t.toNat (x = 1) md
          (cvtSource u.toNat (if na = 2 then readPair g a.toNat l else (readV g a.toNat l).toNat))
      finishFlags (laneFlags r) (fun g => writeF g d.toNat cx.f.mask (if nd = 2 then 3 else 0) r) cx) s

/-! ## Block quantisation (R140 to R143) -/

/-- NB, P and G of R140 for a block format and a width of w lanes. -/
structure BlockShape where
  nb : Nat
  p : Nat
  g : Nat
deriving DecidableEq, Repr

def blockShape (bf : BitVec 2) (w : Nat) : BlockShape :=
  match bf.toNat with
  | 2 => { nb := w / 16, p := 1, g := 8 }
  | 3 => { nb := 1, p := 128 / w, g := 128 / w }
  | _ => if w = 16 then { nb := 1, p := 2, g := 8 } else if w = 32 then { nb := 1, p := 1, g := 4 }
    else { nb := 2, p := 1, g := 4 }

/-- Bits of an element of a block format (R89). -/
def blockElemBits (bf : BitVec 2) : Nat :=
  match bf.toNat with
  | 2 => 4 | 3 => 32 | _ => 8

/-- The element format of a block format other than BQ32. -/
def blockFmt (bf : BitVec 2) : FFmt :=
  match bf.toNat with
  | 0 => .e4m3 | 1 => .e5m2 | _ => .e2m1

/-- The register offset and lane of element i of block k on the F32 side (R140). -/
def widePlace (sh : BlockShape) (w k i : Nat) : Nat × Nat := (k * (sh.g / sh.nb) + i / w, i % w)

/-- The register offset, lane and lowest bit of element i of block k on the packed side (R89). -/
def packedPlace (bf : BitVec 2) (w k i : Nat) : Nat × Nat × Nat :=
  let o := (128 * k + i) * blockElemBits bf
  (o / 32 / w, o / 32 % w, o % 32)

/-- The element read on the packed side. -/
def packedElem (g : Regs) (a w : Nat) (bf : BitVec 2) (k i : Nat) : Nat :=
  let p := packedPlace bf w k i
  (readV g (a + p.1) p.2.1).toNat / 2 ^ p.2.2 % 2 ^ blockElemBits bf

/-- The value of a block element (R88). -/
def blockValue (bf : BitVec 2) (q : Nat) : Ext :=
  if bf = 3 then extOfInt (signed q 32) else dec (blockFmt bf) q

/-- One quantised element and whether it differs from its scaled value (R141). -/
def quantise (bf : BitVec 2) (md : RMode) (sc : Nat) (v : Ext) : Nat × Bool :=
  if sc = 255 then (if bf.toNat < 2 then canonicalNan (blockFmt bf) else 0, false)
  else
    let x := scale2 v (127 - (sc : Int))
    if bf = 3 then
      let r := rndInt true 32 md x
      (r.1, r.2 ≠ 0)
    else
      let r := rndFull (blockFmt bf) md x
      (if r.2 then withSign (blockFmt bf) (extNeg x) (maxCode (blockFmt bf)) else r.1.1, r.1.2 &&& flgNX ≠ 0)

/-- The 128 values of block k of the F32 side; an element outside the mask is +0 (R141). -/
def wideValues (g : Regs) (k : Mask) (a w : Nat) (sh : BlockShape) (blk : Nat) : List Ext :=
  (List.range 128).map fun i =>
    let p := widePlace sh w blk i
    if inMask k p.2 then dec .f32 (readV g (a + p.1) p.2).toNat else .zero false

/-- What BQNT computes: the scales by block, and the quantised elements by block (R141). -/
structure Quantised where
  scales : List Nat
  elems : List (List (Nat × Bool))
  invalid : Bool
deriving DecidableEq, Repr

def quantised (g : Regs) (k : Mask) (a w : Nat) (bf : BitVec 2) (md : RMode) : Quantised :=
  let sh := blockShape bf w
  let vals := (List.range sh.nb).map fun blk => wideValues g k a w sh blk
  let scs := vals.map fun v => blockScale bf v
  { scales := scs
    elems := (vals.zip scs).map fun p => p.1.map fun v => quantise bf md p.2 v
    invalid := vals.any fun v => v.any fun x => isInf x || isSnan x }

/-- The packed word of register offset r and lane l. -/
def packedWord (q : Quantised) (bf : BitVec 2) (w r l : Nat) : Nat × Bool :=
  let b := blockElemBits bf
  let n := 32 / b
  let first := (r * w + l) * n
  (List.range n).foldl (fun (acc : Nat × Bool) j =>
    let e := (q.elems.getD ((first + j) / 128) []).getD ((first + j) % 128) (0, false)
    (acc.1 + e.1 % 2 ^ b * 2 ^ (b * j), acc.2 || e.2)) (0, false)

/-- S[s] with bytes 0 up replaced by the scales (R141). -/
def withScales (x : DWord) (scs : List Nat) : DWord :=
  BitVec.ofNat 64 (leNat ((leBytes x.toNat 8).zipIdx.map fun p => (scs.map fun n => bv 8 n).getD p.2 p.1))

/-- Registers d to d + n − 1, lane l of offset r set to f r l. -/
def writeSpan (g : Regs) (d n : Nat) (k : Mask) (f : Nat → Nat → Nat) : Regs :=
  (List.range n).foldl (fun g r => writeV g (d + r) k fun l => bv 32 (f r l)) g

/-- The form of BQNT. -/
def bqntForm (st : BitVec 2) (d a : BitVec 7) (c : BitVec 6) (f : BitVec 2) (_ : State) (cx : Cx) : Form :=
  let sh := blockShape f (lanesIn cx.g)
  { st := st
    bad := fun cx => badV cx d.toNat sh.p || badV cx a.toNat sh.g
    uni := [sUse c.toNat]
    uses := fun _ l => vUse a.toNat sh.g l
    dsts := vDst d.toNat sh.p ++ [.s c.toNat] }

/-- BQNT (R141). -/
def execBqnt (st : BitVec 2) (d a : BitVec 7) (c : BitVec 6) (f : BitVec 2) (s : State) : Out :=
  let shp := fun (cx : Cx) => blockShape f (lanesIn cx.g)
  issueWith (bqntForm st d a c f)
    (fun cx s =>
      let w := lanesIn cx.g
      let k := cx.f.mask
      let q := quantised cx.g.regs k a.toNat w f (modeOf cx.g.special)
      let p := (shp cx).p
      let nx := (List.range p).any fun r => (lanesOf k).any fun l => (packedWord q f w r l).2
      let fl : Flg := (if q.invalid then flgNV else 0) ||| (if nx then flgNX else 0)
      let x := if partialFrag cx then setXl cx.g.special else cx.g.special
      .ok (setGrp s cx.key (advance 4 cx.ix { cx.g with
        regs := writeS (writeSpan cx.g.regs d.toNat p k fun r l => (packedWord q f w r l).1)
          c.toNat (withScales (readS cx.g.regs c.toNat) q.scales)
        special := raise x fl }))) s

/-- One widened element (R142). -/
def widen (md : RMode) (sc : Nat) (x : Ext) : Rounded :=
  if sc = 255 then (0x7FC00000, 0) else rnd .f32 md (scale2 x ((sc : Int) - 127))

/-- The widened element of register offset r and lane l of BDQ's destination (R142). -/
def widenAt (g : Regs) (k : Mask) (a w : Nat) (bf : BitVec 2) (scs : DWord) (md : RMode) (r l : Nat) : Rounded :=
  let sh := blockShape bf w
  let per := sh.g / sh.nb
  let blk := r / per
  let i := r % per * w + l
  let held := inMask k (packedPlace bf w blk i).2.1
  widen md (scs.toNat / 2 ^ (8 * blk) % 256)
    (if held then blockValue bf (packedElem g a w bf blk i) else .zero false)

/-- Element j of the packed word of register offset r and lane l is read: its scale is not 0xFF, and its F32 place lies in
the mask (R142). -/
def bdqReads (k : Mask) (w : Nat) (bf : BitVec 2) (scs : DWord) (r l j : Nat) : Bool :=
  let n := (r * w + l) * (32 / blockElemBits bf) + j
  scs.toNat / 2 ^ (8 * (n / 128)) % 256 ≠ 255 && inMask k (widePlace (blockShape bf w) w (n / 128) (n % 128)).2

/-- The packed sub-elements that BDQ reads in a lane: those of the elements it reads (R142, R209; log 15). -/
def bdqUses (cx : Cx) (a w : Nat) (bf : BitVec 2) (scs : DWord) (l : Nat) : List LaneUse :=
  let b := blockElemBits bf
  (List.range (blockShape bf w).p).filterMap fun r =>
    let js := (List.range (32 / b)).filter (bdqReads cx.f.mask w bf scs r l)
    if js = [] then none
    else some { reg := a + r, lane := l, lo := js.any fun j => b * j < 16, hi := js.any fun j => 16 < b * j + b }

/-- The form of BDQ. -/
def bdqForm (st : BitVec 2) (d a : BitVec 7) (c : BitVec 6) (f : BitVec 2) (_ : State) (cx : Cx) : Form :=
  let sh := blockShape f (lanesIn cx.g)
  { st := st
    bad := fun cx => badV cx d.toNat sh.g || badV cx a.toNat sh.p
    uni := [sUse c.toNat]
    uses := fun cx => bdqUses cx a.toNat (lanesIn cx.g) f (readS cx.g.regs c.toNat)
    dsts := vDst d.toNat sh.g }

/-- BDQ (R142). -/
def execBdq (st : BitVec 2) (d a : BitVec 7) (c : BitVec 6) (f : BitVec 2) (s : State) : Out :=
  let shp := fun (cx : Cx) => blockShape f (lanesIn cx.g)
  issueWith (bdqForm st d a c f)
    (fun cx s =>
      let w := lanesIn cx.g
      let k := cx.f.mask
      let g0 := cx.g.regs
      let el := widenAt g0 k a.toNat w f (readS g0 c.toNat) (modeOf cx.g.special)
      let n := (shp cx).g
      let fl := orFlags ((List.range n).flatMap fun r => (lanesOf k).map fun l => (el r l).2)
      let x := if partialFrag cx then setXl cx.g.special else cx.g.special
      .ok (setGrp s cx.key (advance 4 cx.ix { cx.g with
        regs := writeSpan g0 d.toNat n k fun r l => (el r l).1
        special := raise x fl }))) s

end Sys2Proof.Machine
end

