-- ==== Sys2Proof/Machine/Memory.lean ====
section
/-! DEFINITION. Loads, stores, atomics, prefetch, fences (R295 to R311) and their completions. -/

namespace Sys2Proof.Machine

open Sys2Proof

/-! ## Sizes (R51, R305) -/

/-- Bytes of a size code. -/
def sizeBytes (w : BitVec 3) : Nat :=
  match w.toNat with
  | 0 => 1 | 1 => 2 | 2 => 4 | 3 => 8 | 4 => 16 | 5 => 1 | 6 => 2 | _ => 4

/-- V registers of a size code. -/
def sizeRegs (w : BitVec 3) : Nat := max 1 (sizeBytes w / 4)

/-- The 32-bit words a load writes from the bytes it read, extended by w. -/
def loadWords (w : BitVec 3) (bs : List Byte) : List Word :=
  if w.toNat < 5 then
    (List.range (sizeRegs w)).map fun j => BitVec.ofNat 32 (leNat ((bs.drop (4 * j)).take 4))
  else [BitVec.ofInt 32 (signed (leNat bs) (8 * bs.length))]

/-- The bytes a store takes from the words of its register span. -/
def storeBytes (n : Nat) (ws : List Word) : List Byte := (ws.flatMap fun x => leBytes x.toNat 4).take n

/-- The words of a register span in a lane. -/
def spanWords (g : Regs) (d n l : Nat) : List Word := (List.range n).map fun j => readV g (d + j) l

/-- The 64 or 128 bits of ULD as values of S[d] and S[d + 1] (R305). -/
def uniLoadWords (w : BitVec 3) (bs : List Byte) : List DWord :=
  match w.toNat with
  | 4 => [BitVec.ofNat 64 (leNat (bs.take 8)), BitVec.ofNat 64 (leNat (bs.drop 8))]
  | 5 => [BitVec.ofInt 64 (signed (leNat bs) 8)]
  | 6 => [BitVec.ofInt 64 (signed (leNat bs) 16)]
  | _ => [BitVec.ofNat 64 (leNat bs)]

/-! ## Requests and outcomes -/

/-- The offset register of a lane, scaled by the size when x = 1 (R296). -/
def laneOffset (g : Regs) (a : BitVec 7) (x : BitVec 1) (n l : Nat) : Nat :=
  (readV g a.toNat l).toNat * (if x = 1 then n else 1)

/-- The addresses of a lane instruction. -/
def laneReqs (cx : Cx) (a : BitVec 7) (t : BitVec 3) (x : BitVec 1) (n : Nat) : List Req :=
  (lanesOf cx.f.mask).map fun l =>
    { lane := some l, t := readT cx.g.regs t.toNat, o := laneOffset cx.g.regs a x n l }

/-- The lanes of a list of hits. -/
def hitMask (hs : List Hit) : Mask := hs.foldl (fun m h => m ||| laneBit (h.lane.getD 0)) 0

/-- The fragment after an instruction of n bytes whose missing lanes park (R247). -/
def passOrPark (s : State) (cx : Cx) (acc : Acc) (n : Nat) (ms : List Miss) : State :=
  if ms = [] then modGrp s cx.key (advance n cx.ix) else park s cx .lane acc n ms

/-- A lane memory instruction of n bytes: its checks, then its effect on the lanes that perform. -/
def laneAccess (cx : Cx) (s : State) (w : Want) (rs : List Req) (n : Nat)
    (effect : State → List Hit → State) : Res :=
  match checkGlobal s cx w rs with
  | .fault s c => .fltAt s c
  | .wait s => .waitAt s
  | .go s hs ms =>
    if hs = [] then .out (park s cx .lane w.acc n ms)
    else .ok (passOrPark (effect s hs) cx w.acc n ms)

/-- A uniform access: its checks, parking of the whole fragment, else its effect (R298). -/
def uniAccess (cx : Cx) (s : State) (w : Want) (r : Req) (effect : State → Hit → State) : Res :=
  match checkGlobal s cx w [r] with
  | .fault s c => .fltAt s c
  | .wait s => .waitAt s
  | .go s hs ms =>
    match hs with
    | h :: _ => .ok (modGrp (effect s h) cx.key (advance 4 cx.ix))
    | [] => .out (park s cx .uniform w.acc 4 ms)

/-! ## Lane loads and stores (R301, R302) -/

/-- The writes of a load in one lane; a marked quarter gives poisoned zeros (R311). -/
def loadWrites (s : State) (i : Nat) (d : Nat) (w : BitVec 3) (h : Hit) : List RegWrite :=
  let bad := marked s i h.loc.phys
  let ws := loadWords w (hitBytes s i h (sizeBytes w))
  ws.zipIdx.map fun p =>
    { elem := .v (d + p.2) (h.lane.getD 0), val := if bad then 0 else p.1.setWidth 64, bad := bad }

/-- The form of a load to V[d…] at an offset in V[a]. -/
def loadForm (st : BitVec 2) (d a : BitVec 7) (w : BitVec 3) : Form :=
  { st := st
    bad := fun cx => badV cx d.toNat (sizeRegs w) || badV cx a.toNat 1
    uses := fun _ l => vUse a.toNat 1 l
    dsts := vDst d.toNat (sizeRegs w) }

/-- The form of a store of V[d…]: only the bytes stored are read (R301). -/
def storeForm (st : BitVec 2) (d a : BitVec 7) (w : BitVec 3) : Form :=
  { st := st
    bad := fun cx => badV cx d.toNat (sizeRegs w) || badV cx a.toNat 1
    uses := fun _ l =>
      (if sizeBytes w < 4 then [{ reg := d.toNat, lane := l, hi := false }] else vUse d.toNat (sizeRegs w) l)
        ++ vUse a.toNat 1 l }

/-- What a load does in the lanes that perform. -/
def loadEffect (cx : Cx) (d : BitVec 7) (w : BitVec 3) (wt : Want) (s : State) (hs : List Hit) : State :=
  let i := cx.g.ident.island
  let ws := hs.flatMap (loadWrites s i d.toNat w)
  let s := hs.foldl (fun s h => noteAccess cx wt .load false h s) s
  addOp s cx.key { id := 0, cls := .load, mask := hitMask hs, writes := ws }

/-- What a store does in the lanes that perform, in ascending lane order (R299). -/
def storeEffect (cx : Cx) (d : BitVec 7) (w : BitVec 3) (wt : Want) (s : State) (hs : List Hit) : State :=
  let one := fun (s : State) (h : Hit) =>
    noteAccess cx wt .store true h
      (storeHit cx.g.ident.island h (storeBytes (sizeBytes w) (spanWords cx.g.regs d.toNat (sizeRegs w) (h.lane.getD 0))) s)
  addOp (hs.foldl one s) cx.key { id := 0, cls := .store, mask := hitMask hs }

/-- LD (R301). -/
def execLd (st : BitVec 2) (d a : BitVec 7) (t w : BitVec 3) (q : BitVec 2) (x : BitVec 1) (s : State) : Out :=
  let wt : Want := { acc := .read, n := sizeBytes w, q := q }
  issue (loadForm st d a w) (fun cx s =>
    laneAccess cx s wt (laneReqs cx a t x (sizeBytes w)) 4 (loadEffect cx d w wt)) s

/-- ST (R301). -/
def execSt (st : BitVec 2) (d a : BitVec 7) (t w : BitVec 3) (q : BitVec 2) (x : BitVec 1) (s : State) : Out :=
  let wt : Want := { acc := .write, n := sizeBytes w, q := q }
  issue (storeForm st d a w) (fun cx s =>
    laneAccess cx s wt (laneReqs cx a t x (sizeBytes w)) 4 (storeEffect cx d w wt)) s

/-- The scope code of LDA and STA in the numbering of R275: 1 team to 4 panel (R302). -/
def lmScope (q : BitVec 2) : Nat := q.toNat + 1

/-- LDA (R302). -/
def execLda (st : BitVec 2) (d a : BitVec 7) (t w : BitVec 3) (q : BitVec 2) (x : BitVec 1) (s : State) : Out :=
  let wt : Want := { acc := .read, n := sizeBytes w, scope := some (lmScope q), acq := true }
  issue (loadForm st d a w) (fun cx s =>
    laneAccess cx s wt (laneReqs cx a t x (sizeBytes w)) 4 fun s hs =>
      acquireAt (loadEffect cx d w wt s hs) cx true (lmScope q)) s

/-- STA (R302). -/
def execSta (st : BitVec 2) (d a : BitVec 7) (t w : BitVec 3) (q : BitVec 2) (x : BitVec 1) (s : State) : Out :=
  let wt : Want := { acc := .write, n := sizeBytes w, scope := some (lmScope q), rel := true }
  issue (storeForm st d a w) (fun cx s =>
    laneAccess cx s wt (laneReqs cx a t x (sizeBytes w)) 4 (storeEffect cx d w wt)) s

/-- The form of PRF. -/
def prfForm (st : BitVec 2) (a : BitVec 7) : Form :=
  { st := st, bad := fun cx => badV cx a.toNat 1, uses := fun _ l => vUse a.toNat 1 l }

/-- PRF (R304): every fault of steps 2 to 7 is dropped, lane by lane. -/
def execPrf (st : BitVec 2) (a : BitVec 7) (t w : BitVec 3) (q : BitVec 2) (x : BitVec 1) (s : State) : Out :=
  issue (prfForm st a) (fun cx s =>
    let id := cx.g.ident
    let tr := translateAll id.island id.ctx (privileged id) .read s (laneReqs cx a t x (sizeBytes w))
    let v := vcAll id.island id.ctx false tr.1 (hitsOf tr.2)
    let one := fun (s : State) (p : Hit × VcAns) =>
      match if (lockHit (islOf s id.island).mem false id.ctx p.1.va (sizeBytes w) false).isSome then .waits else p.2 with
      | .ok vn =>
        if q = 3 then modMem s id.island fun m => vcTouch m vn id.core (p.1.loc.phys / 64) false
        else reachHome cx q .load { p.1 with vn := vn } s
      | _ => s
    .ok (modGrp (v.2.foldl one v.1) cx.key (advance 4 cx.ix))) s

/-! ## Team memory (R40, R303, R308, R421) -/

/-- Team memory after writes: a lost word reads as zero until one instruction's writes cover it whole (R421). -/
def teamPut (t : Team) (ws : List (Nat × List Byte)) : Team :=
  let m := ws.foldl (fun m w => memPut m w.1 w.2) t.mem
  let covered := fun (k : Nat) => (List.range 32).all fun j =>
    ws.any fun w => w.1 ≤ 32 * k + j && 32 * k + j < w.1 + w.2.length
  let left := t.dead.filter fun k => !covered k
  { t with
    mem := left.foldl (fun m k => memPut m (32 * k) (List.replicate 32 0)) m
    dead := left }

/-- One of the spans touches a lost word. -/
def touchesDead (t : Team) (spans : List (Nat × Nat)) : Bool :=
  t.dead.any fun k => spans.any fun p => p.1 < 32 * k + 32 && 32 * k < p.1 + p.2

/-- UNCORR for lost team data is held for a group (R421). -/
def holdLost (s : State) (k : Nat) (pc : VAddr) : State :=
  modGrp s k fun g => holdFault g (causeWord { cls := 0x1C, status := 5 } false) pc

/-- A group's read of team memory, where it meets lost words. -/
def noteDead (s : State) (k tm : Nat) (pc : VAddr) (spans : List (Nat × Nat)) : State :=
  if touchesDead (teamOf s tm) spans then holdLost s k pc else s

/-- Bytes of a team's memory (R40). -/
def teamExtent (t : Team) : Nat := t.cores.length * t.tmem

/-- The team addresses of a lane instruction. -/
def teamAddrs (cx : Cx) (a : BitVec 7) (x : BitVec 1) (n : Nat) : List (Option Nat × Nat) :=
  (lanesOf cx.f.mask).map fun l => (some l, laneOffset cx.g.regs a x n l)

/-- Steps 2, 3 and 5 of R298 for team addresses. -/
def checkTeam (s : State) (cx : Cx) (n : Nat) (wr : Bool) (l : List (Option Nat × Nat)) : Option Cause :=
  match l.find? fun p => p.2 % n ≠ 0 with
  | some p => some { cls := 0x08, status := 1, lane := p.1 }
  | none =>
    match l.find? fun p => p.2 + n > teamExtent (teamOf s cx.g.ident.team) with
    | some p => some { cls := 0x11, status := 2, lane := p.1 }
    | none => firstLock (islOf s cx.g.ident.island).mem true cx.g.ident.team n wr l

/-- The form of a checked access to team memory. -/
def teamAccess (cx : Cx) (s : State) (n len : Nat) (wr : Bool) (l : List (Option Nat × Nat))
    (effect : State → State) : Res :=
  match checkTeam s cx n wr l with
  | some c => .flt c
  | none => .ok (modGrp (effect s) cx.key (advance len cx.ix))

/-- LDT (R303). -/
def execLdt (st : BitVec 2) (d a : BitVec 7) (w : BitVec 3) (x : BitVec 1) (s : State) : Out :=
  issue (loadForm st d a w) (fun cx s =>
    let n := sizeBytes w
    let l := teamAddrs cx a x n
    teamAccess cx s n 4 false l fun s =>
      let m := (teamOf s cx.g.ident.team).mem
      let ws := l.flatMap fun p =>
        (loadWords w (memBytes m p.2 n)).zipIdx.map fun y =>
          ({ elem := .v (d.toNat + y.2) (p.1.getD 0), val := y.1.setWidth 64 } : RegWrite)
      let s := noteDead s cx.key cx.g.ident.team cx.f.pc (l.map fun p => (p.2, n))
      addOp (touchTeam cx n true false none none l s) cx.key { id := 0, cls := .load, mask := cx.f.mask, writes := ws }) s

/-- STT (R303). -/
def execStt (st : BitVec 2) (d a : BitVec 7) (w : BitVec 3) (x : BitVec 1) (s : State) : Out :=
  issue (storeForm st d a w) (fun cx s =>
    let n := sizeBytes w
    let l := teamAddrs cx a x n
    teamAccess cx s n 4 true l fun s =>
      let s := modTeam s cx.g.ident.team fun t => teamPut t (l.map fun p =>
        (p.2, storeBytes n (spanWords cx.g.regs d.toNat (sizeRegs w) (p.1.getD 0))))
      addOp (touchTeam cx n false true none none l s) cx.key { id := 0, cls := .store, mask := cx.f.mask }) s

/-! ## Atomics (R306 to R309) -/

/-- AOPF on values of 8 × n bits (R306). -/
def aopf (op : Nat) (n old v : Nat) : Nat :=
  let b := 8 * n
  let f : FFmt := if n = 4 then .f32 else .f64
  match op with
  | 0 => (old + v) % 2 ^ b
  | 1 => if signed v b < signed old b then v else old
  | 2 => if signed v b > signed old b then v else old
  | 3 => min old v
  | 4 => max old v
  | 5 => old &&& v
  | 6 => old ||| v
  | 7 => old ^^^ v
  | 8 => v
  | 9 => if old ≥ v then 0 else old + 1
  | 10 => if old = 0 || old > v then v else old - 1
  | 11 => (rndExact f .rne (exactAdd .rne (dec f old) (dec f v))).1
  | 12 => (minMax f true old v).1
  | _ => (minMax f false old v).1

/-- What an atomic writes: an operation on old and its operand, or a swap where old is as expected. -/
inductive AtomAct where
  | op (code v : Nat)
  | cas (new expected : Nat)
deriving DecidableEq, Repr

/-- The value written, if any, over an old value of n bytes. -/
def atomNew (a : AtomAct) (n old : Nat) : Option Nat :=
  match a with
  | .op code v => some (aopf code n old v)
  | .cas new e => if old = e then some new else none

/-- One atomic at a hit: the state after it, the old value, and whether the quarter was marked and nothing done. -/
def atomHit (cx : Cx) (wt : Want) (a : AtomAct) (s : State) (h : Hit) : State × Nat × Bool :=
  let i := cx.g.ident.island
  if marked s i h.loc.phys then (s, 0, true)
  else
    let old := leNat (hitBytes s i h wt.n)
    let new := atomNew a wt.n old
    let s' := match new with
      | some x => storeHit i h (leBytes x wt.n) s
      | none => s
    (noteAccess cx wt .atomic new.isSome h s', old, false)

/-- The writes of an atomic's old value of n bytes to V[d…]. -/
def oldWrites (d n lane old : Nat) (bad : Bool) : List RegWrite :=
  (List.range (n / 4)).map fun j =>
    { elem := .v (d + j) lane, val := BitVec.ofNat 64 (old / 2 ^ (32 * j) % 2 ^ 32), bad := bad }

/-- The atomics of the lanes that perform, in ascending lane order, and their writes (R299). -/
def atomLanes (cx : Cx) (wt : Want) (d : Nat) (act : Nat → AtomAct) :
    State → List Hit → State × List RegWrite
  | s, [] => (s, [])
  | s, h :: hs =>
    let l := h.lane.getD 0
    let r := atomHit cx wt (act l) s h
    let y := atomLanes cx wt d act r.1 hs
    (y.1, oldWrites d wt.n l r.2.1 r.2.2 ++ y.2)

/-- Whether SEM and SC make an atomic an acquire or a release (R286, R287). -/
def semAcq (sem : BitVec 2) (sc : BitVec 1) : Bool := sem.getLsbD 0 || sc = 1
def semRel (sem : BitVec 2) (sc : BitVec 1) : Bool := sem.getLsbD 1 || sc = 1

/-- Tickets of the island's sequencer (R286). -/
def takeTickets (s : State) (i n : Nat) (sc : BitVec 1) : State :=
  if sc = 1 then modMem s i fun m => { m with ticket := m.ticket + n } else s

/-- The form of a lane atomic. -/
def atomForm (st : BitVec 2) (d a data : BitVec 7) (cmp : Option (BitVec 7)) (w : BitVec 3) : Form :=
  let n := sizeRegs w
  { st := st
    bad := fun cx => badV cx d.toNat n || badV cx a.toNat 1 || badV cx data.toNat n
      || cmp.any fun c => badV cx c.toNat n
    uses := fun _ l => vUse data.toNat n l ++ (match cmp with | some c => vUse c.toNat n l | none => []) ++ vUse a.toNat 1 l
    dsts := vDst d.toNat n }

/-- The value of n bytes in V[r…] of a lane. -/
def spanValue (g : Regs) (r n l : Nat) : Nat := if n = 8 then readPair g r l else (readV g r l).toNat

/-- ATOM and ACAS, by what each lane's atomic does. -/
def laneAtomic (st : BitVec 2) (d a : BitVec 7) (t w : BitVec 3) (q : BitVec 2) (x : BitVec 1) (data : BitVec 7)
    (cmp : Option (BitVec 7)) (sem : BitVec 2) (scope : BitVec 3) (sc : BitVec 1) (act : Regs → Nat → AtomAct) :
    State → Out :=
  let wt : Want := { acc := .atomic, n := sizeBytes w, q := q, scope := some scope.toNat, rel := semRel sem sc
                     acq := semAcq sem sc, sc := sc = 1 }
  issue (atomForm st d a data cmp w) fun cx s =>
    laneAccess cx s wt (laneReqs cx a t x wt.n) 8 fun s hs =>
      let s := takeTickets s cx.g.ident.island hs.length sc
      let r := atomLanes cx wt d.toNat (act cx.g.regs) s hs
      let s := addOp r.1 cx.key { id := 0, cls := .load, mask := hitMask hs, atomic := true, writes := r.2 }
      acquireAt s cx (semAcq sem sc) scope.toNat

/-- ATOM (R307). -/
def execAtom (st : BitVec 2) (d a : BitVec 7) (t w : BitVec 3) (q : BitVec 2) (x : BitVec 1) (data : BitVec 7)
    (aop : BitVec 4) (sem : BitVec 2) (scope : BitVec 3) (sc : BitVec 1) (s : State) : Out :=
  laneAtomic st d a t w q x data none sem scope sc
    (fun g l => .op aop.toNat (spanValue g data.toNat (sizeBytes w) l)) s

/-- ACAS (R307). -/
def execAcas (st : BitVec 2) (d a : BitVec 7) (t w : BitVec 3) (q : BitVec 2) (x : BitVec 1) (data cmp : BitVec 7)
    (sem : BitVec 2) (scope : BitVec 3) (sc : BitVec 1) (s : State) : Out :=
  laneAtomic st d a t w q x data (some cmp) sem scope sc
    (fun g l => .cas (spanValue g data.toNat (sizeBytes w) l) (spanValue g cmp.toNat (sizeBytes w) l)) s

/-- The atomics of ATOMT on team memory, in ascending lane order: the memory and the writes (R308). A lost word goes on reading
zero for the later lanes, since no lane's write covers it whole (R421). -/
def atomTeam (g : Regs) (dead : List Nat) (d data n op : Nat) : Memory → List (Option Nat × Nat) → Memory × List RegWrite
  | m, [] => (m, [])
  | m, p :: ps =>
    let l := p.1.getD 0
    let old := memNat m p.2 n
    let put := if dead.contains (p.2 / 32) then m else memPutNat m p.2 (aopf op n old (spanValue g data n l)) n
    let r := atomTeam g dead d data n op put ps
    (r.1, oldWrites d n l old false ++ r.2)

/-- ATOMT (R308). -/
def execAtomt (st : BitVec 2) (d a : BitVec 7) (w : BitVec 3) (x : BitVec 1) (data : BitVec 7) (aop : BitVec 4)
    (sem : BitVec 2) (scope : BitVec 3) (sc : BitVec 1) (s : State) : Out :=
  issue (atomForm st d a data none w) (fun cx s =>
    let n := sizeBytes w
    let l := teamAddrs cx a x n
    teamAccess cx s n 8 true l fun s =>
      let team := teamOf s cx.g.ident.team
      let r := atomTeam cx.g.regs team.dead d.toNat data.toNat n aop.toNat team.mem l
      let s := noteDead s cx.key cx.g.ident.team cx.f.pc (l.map fun p => (p.2, n))
      let s := modTeam s cx.g.ident.team fun t => teamPut { t with mem := r.1 } []
      let s := addOp s cx.key { id := 0, cls := .load, mask := cx.f.mask, atomic := true, writes := r.2 }
      let at_ := fun (b : Bool) => if b then some scope.toNat else none
      let s := touchTeam cx n true true (at_ (semRel sem sc)) (at_ (semAcq sem sc)) l s
      acquireAt s cx (semAcq sem sc) scope.toNat) s

/-! ## Uniform accesses (R305, R309) -/

/-- S registers of a size code. -/
def uniRegs (w : BitVec 3) : Nat := if w = 4 then 2 else 1

/-- The operand case of a Q-sized uniform access: d even and at most 60 (R305). -/
def badUniPair (w : BitVec 3) (d : BitVec 6) : Bool := w = 4 && (d.toNat % 2 ≠ 0 || d.toNat > 60)

/-- The operand registers of UATOM: a even, and at most 60 (R309). -/
def badUatom (a : BitVec 6) : Bool := a.toNat % 2 ≠ 0 || a.toNat > 60

/-- The address of a uniform access (R296). -/
def uniReq (cx : Cx) (a : BitVec 6) (t : BitVec 3) (x : BitVec 1) (n : Nat) : Req :=
  { t := readT cx.g.regs t.toNat
    o := (readS cx.g.regs a.toNat).toNat % 2 ^ 32 * (if x = 1 then n else 1) }

/-- The form of ULD. -/
def uldForm (st : BitVec 2) (d a : BitVec 6) (w : BitVec 3) : Form :=
  { st := st
    lane := false
    bad := fun _ => badUniPair w d
    uni := [sUse a.toNat]
    dsts := (List.range (uniRegs w)).map fun j => .s (d.toNat + j) }

/-- The form of UST. -/
def ustForm (st : BitVec 2) (d a : BitVec 6) (w : BitVec 3) : Form :=
  { st := st
    lane := false
    bad := fun _ => badUniPair w d
    uni := ((List.range (uniRegs w)).map fun j => sUse (d.toNat + j)) ++ [sUse a.toNat] }

/-- ULD (R305). -/
def execUld (st : BitVec 2) (d a : BitVec 6) (t w : BitVec 3) (q : BitVec 2) (x : BitVec 1) (s : State) : Out :=
  let wt : Want := { acc := .read, n := sizeBytes w, q := q }
  issue (uldForm st d a w) (fun cx s =>
    uniAccess cx s wt (uniReq cx a t x wt.n) fun s h =>
      let i := cx.g.ident.island
      let bad := marked s i h.loc.phys
      let ws := (uniLoadWords w (hitBytes s i h wt.n)).zipIdx.map fun p =>
        ({ elem := .s (d.toNat + p.2), val := if bad then 0 else p.1, bad := bad } : RegWrite)
      addOp (noteAccess cx wt .load false h s) cx.key { id := 0, cls := .load, mask := cx.f.mask, writes := ws }) s

/-- The bytes UST stores from S[d…] (R305). -/
def uniStoreBytes (g : Regs) (d : BitVec 6) (w : BitVec 3) : List Byte :=
  (((List.range (uniRegs w)).flatMap fun j => leBytes (readS g (d.toNat + j)).toNat 8)).take (sizeBytes w)

/-- UST (R305). -/
def execUst (st : BitVec 2) (d a : BitVec 6) (t w : BitVec 3) (q : BitVec 2) (x : BitVec 1) (s : State) : Out :=
  let wt : Want := { acc := .write, n := sizeBytes w, q := q }
  issue (ustForm st d a w) (fun cx s =>
    uniAccess cx s wt (uniReq cx a t x wt.n) fun s h =>
      let s := storeHit cx.g.ident.island h (uniStoreBytes cx.g.regs d w) s
      addOp (noteAccess cx wt .store true h s) cx.key { id := 0, cls := .store, mask := cx.f.mask }) s

/-- Bytes of UATOM's operands: SZ 0 D, 1 W (R309). -/
def uatomBytes (z : BitVec 1) : Nat := if z = 1 then 4 else 8

/-- What UATOM's atomic does (R309). -/
def uatomAct (g : Regs) (a : BitVec 6) (o : BitVec 4) (z : BitVec 1) : AtomAct :=
  let v := (readS g (a.toNat + 1)).toNat % 2 ^ (8 * uatomBytes z)
  if o = 14 then .cas v ((readS g (a.toNat + 2)).toNat % 2 ^ (8 * uatomBytes z)) else .op o.toNat v

/-- UNCORR for an atomic without a return that met a marked quarter is held (R311). -/
def holdUncorr (s : State) (cx : Cx) : State :=
  modGrp s cx.key fun g => holdFault g (causeWord { cls := 0x1C, status := 1 } false) cx.f.pc

/-- The form of UATOM. -/
def uatomForm (st : BitVec 2) (d a : BitVec 6) (o : BitVec 4) : Form :=
  { st := st
    lane := false
    bad := fun _ => badUatom a
    uni := [sUse a.toNat, sUse (a.toNat + 1)] ++ (if o = 14 then [sUse (a.toNat + 2)] else [])
    dsts := [.s d.toNat] }

/-- UATOM (R309). -/
def execUatom (st : BitVec 2) (d a : BitVec 6) (o : BitVec 4) (e c : BitVec 2) (k z : BitVec 1) (s : State) : Out :=
  let n := uatomBytes z
  let sc := c.toNat + 1
  let wt : Want := { acc := .atomic, n := n, scope := some sc, rel := semRel e k, acq := semAcq e k, sc := k = 1 }
  issue (uatomForm st d a o) (fun cx s =>
    uniAccess cx s wt { t := { base := readS cx.g.regs a.toNat } } fun s h =>
      let s := takeTickets s cx.g.ident.island 1 k
      let r := atomHit cx wt (uatomAct cx.g.regs a o z) s h
      let s := if d = 63 && r.2.2 then holdUncorr r.1 cx else r.1
      let ws : List RegWrite := if d = 63 then []
        else [{ elem := .s d.toNat, val := BitVec.ofNat 64 r.2.1, bad := r.2.2 }]
      let s := addOp s cx.key { id := 0, cls := if d = 63 then .store else .load, mask := cx.f.mask, atomic := true, writes := ws }
      acquireAt s cx (semAcq e k) sc) s

/-! ## Completions (R290, R300) -/

/-- The operation of a group with a number and a class. -/
def opWith (g : Group) (cls : OpClass) (id : Nat) : Option FlightOp :=
  g.ops.find? fun o => o.id = id && o.cls = cls

/-- A late write is made unless its lane has exited (R196). -/
def keepsWrite (g : Group) (w : RegWrite) : Bool :=
  match w.elem with
  | .v _ l => !inMask g.exitedLanes l
  | .p _ l => !inMask g.exitedLanes l
  | _ => true

/-- The operation is complete, and its register writes are made. -/
def retireOp (g : Group) (o : FlightOp) : Group :=
  wake { g with ops := g.ops.filter (fun x => x.id ≠ o.id), regs := applyWrites g.regs (o.writes.filter (keepsWrite g)) }

/-- LOAD_RETURN (R300): the load or atomic writes its destination. -/
def execLoadReturn (grp op : Nat) (s : State) : Out :=
  let g := grpOf s grp
  match opWith g .load op with
  | some o => .next (modGrp (sampleWaits s g.ident.island 1 g.ident.ctx 1) grp fun g => retireOp g o)
  | none => .next s

/-- STORE_PERFORMED (R290). -/
def execStorePerformed (grp op : Nat) (s : State) : Out :=
  match opWith (grpOf s grp) .store op with
  | some o => .next (modGrp s grp fun g => retireOp g o)
  | none => .next s

/-! ## Fences (R310) -/

/-- An operation that a fence of the kind waits for, for the lanes of a mask. -/
def fenceWaits (kind : BitVec 2) (mask : Mask) (before : Nat) (o : FlightOp) : Bool :=
  o.id < before && o.mask &&& mask ≠ 0 &&
    ((kind ≠ 1 && (o.cls = .store || (o.cls = .load && o.atomic))) || (kind ≠ 2 && o.cls = .load))

/-- The fence's condition. -/
def mfenceDone (g : Group) (kind : BitVec 2) (mask : Mask) (before : Nat) : Bool :=
  !(g.ops.any (fenceWaits kind mask before))

/-- The fence's acquire and release take effect (R277, R310). -/
def mfenceSync (s : State) (cx : Cx) (kind : BitVec 2) (scope : Nat) : State :=
  synchronise s cx (kind ≠ 1) (kind ≠ 2) scope

/-- MFENCE (R310). -/
def execMfence (st k : BitVec 2) (c : BitVec 3) (s : State) : Out :=
  issue (ctlForm st []) (fun cx s =>
    if mfenceDone cx.g k cx.f.mask s.seq then
      .ok (modGrp (mfenceSync s cx k c.toNat) cx.key (advance 4 cx.ix))
    else okGrp s cx (holdAfter (.mfence k c s.seq) cx.ix cx.g)) s

/-- MFENCE_HOLD_END (R310): the hold ends in whatever mode the group then is (R333). -/
def execMfenceHoldEnd (grp frag : Nat) (s : State) : Out :=
  let g := grpOf s grp
  let f := nth g.frags frag
  match f.hold with
  | .mfence k c b =>
    if mfenceDone g k f.mask b then
      let cx : Cx := { key := grp, ix := frag, g := g, f := f }
      .next (modGrp (mfenceSync s cx k c.toNat) grp fun g => wake (endHold frag g))
    else .next s
  | _ => .next s

/-! ## Translation registers (R244) -/

/-- The image of a translation register that frames n bytes at a context's address, under the leaf of a walk (R244). -/
def tOfLeaf (c va n : Nat) (e : DWord) (addr : Nat) : TReg :=
  let l := locOf c va e addr
  { e := false, cv := true, base := BitVec.ofNat 64 va, vcx := l.vcx, pbase := l.phys
    rights := BitVec.ofNat 8 (ent e 2 2 + 2 * ent e 3 3 + 4 * ent e 5 5 + 8 * ent e 9 9 + 16 * ent e 7 7)
    limit := BitVec.ofNat 64 (min n (l.size - va % l.size)), size := l.size }

/-- TRLD (R244): a walk as for a read that takes only its PAGE faults. -/
def execTrld (st : BitVec 2) (t : BitVec 3) (a b : BitVec 6) (s : State) : Out :=
  issue (ctlForm st [sUse a.toNat, sUse b.toNat]) (fun cx s =>
    let va := (readS cx.g.regs a.toNat).toNat
    let len := (readS cx.g.regs b.toNat).toNat
    let id := cx.g.ident
    if va ≥ 2 ^ 57 then .flt { cls := 0x11, status := 1 }
    else
      let r := walkHeld s id.island id.ctx va .read (privileged id) 0
      match r.2 with
      | .page st lvl => .out (park r.1 cx .uniform .read 4 [{ va := va, status := st, level := lvl }])
      | .leaf e addr _ =>
        .ok (modGrp r.1 cx.key fun g => advance 4 cx.ix { g with regs := writeT g.regs t.toNat (tOfLeaf id.ctx va len e addr) })) s

/-- Stores and atomics of the group that are not yet performed. -/
def storesDone (g : Group) (before : Nat) : Bool :=
  !(g.ops.any fun o => o.id < before && (o.cls = .store || (o.cls = .load && o.atomic)))

end Sys2Proof.Machine
end

