-- ==== Sys2Proof/Machine/Objects.lean ====
section
/-! DEFINITION. The object table and tensor layout records (R42, R223). -/

namespace Sys2Proof.Machine

open Sys2Proof

/-- The physical address of an object-table entry. -/
def objAddr (s : State) (i idx : Nat) : Nat := (islOf s i).mem.objBase + 64 * idx

/-- The eight 64-bit words of an entry. -/
def objWords (s : State) (i idx : Nat) : List DWord :=
  (List.range 8).map fun j => BitVec.ofNat 64 (memNat (islOf s i).mem.bytes (objAddr s i idx + 8 * j) 8)

/-- Bits hi to lo of word j of an entry. -/
def objField (ws : List DWord) (j hi lo : Nat) : Nat := bits (ws.getD j 0).toNat hi lo

/-- The use an instruction makes of an entry. -/
inductive ObjUse where
  | read | write | both
deriving DecidableEq, Repr

/-- The entry may be used by a context as an entry of the kind (R42). -/
def objUsable (ws : List DWord) (kind ctx : Nat) (u : ObjUse) : Bool :=
  objField ws 0 7 0 = kind && (objField ws 0 31 16 = ctx || objField ws 0 31 16 = 0xFFFF)
    && (u = .write || objField ws 0 8 8 = 1) && (u = .read || objField ws 0 9 9 = 1)

/-- OBJTAB with a status for an entry (R320). -/
def objFault (idx st : Nat) : Cause := { cls := 0x17, status := BitVec.ofNat 8 st, info := BitVec.ofNat 32 idx }

/-! ## Tensor layout records (R223) -/

structure Tensor where
  /-- Element bits. -/
  e : Nat := 8
  base : Nat := 0
  ext : List Nat := []
  str : List Nat := []
  pitch : Nat := 0
  box : List Nat := []
  scale : Nat := 0
  taddr : Nat := 0
deriving DecidableEq, Repr, Inhabited

/-- The fields of a record. -/
def tensorOf (ws : List DWord) : Tensor :=
  { e := 4 * 2 ^ objField ws 0 39 37
    base := objField ws 1 56 0
    ext := (List.range 4).map fun i => objField ws 2 (16 * i + 15) (16 * i) + 1
    str := [0, objField ws 3 47 0, objField ws 4 47 0, objField ws 5 47 0]
    pitch := objField ws 6 47 32
    box := (List.range 4).map fun i => objField ws 6 (8 * i + 7) (8 * i) + 1
    scale := objField ws 7 63 32
    taddr := objField ws 7 31 0 }

/-- A reserved field of the record is nonzero, or a reserved code is used. -/
def tensorReserved (ws : List DWord) : Bool :=
  objField ws 0 63 40 ≠ 0 || objField ws 0 36 32 ≠ 0 || objField ws 0 15 10 ≠ 0 || objField ws 0 39 37 > 4
    || objField ws 1 63 57 ≠ 0 || objField ws 3 63 48 ≠ 0 || objField ws 4 63 48 ≠ 0 || objField ws 5 63 48 ≠ 0
    || objField ws 6 63 48 ≠ 0

/-- The box row is no multiple of 128 bits, or longer than the pitch. -/
def tensorRow (t : Tensor) : Bool := nth t.box 0 * t.e % 128 ≠ 0 || nth t.box 0 * t.e > 8 * t.pitch

/-- BASE, PITCH or a stride in use is no multiple of 16. -/
def tensorAlign (t : Tensor) : Bool :=
  t.base % 16 ≠ 0 || t.pitch % 16 ≠ 0 || [1, 2, 3].any fun i => nth t.ext i > 1 && nth t.str i % 16 ≠ 0

/-- The OBJTAB an instruction takes for a tensor layout record (R42, R223). -/
def tensorFault (ws : List DWord) (idx ctx : Nat) (u : ObjUse) : Option Cause :=
  let t := tensorOf ws
  if !objUsable ws 0x01 ctx u then some (objFault idx 0)
  else if tensorReserved ws then some (objFault idx 0x10)
  else if tensorRow t then some (objFault idx 0x11)
  else if tensorAlign t then some (objFault idx 0x12)
  else none

end Sys2Proof.Machine
end

