-- ==== Sys2Proof/Machine/Tile.lean ====
section
/-! DEFINITION. Accumulator tiles: MMA, MMAP, TLD, TST, TZERO, TEPI, MMSC, and their completions (R166 to R185). -/

namespace Sys2Proof.Machine

open Sys2Proof

/-! ## Tiles (R166, R169) -/

/-- The place of a core in its team (R40). -/
def coreIx (t : Team) (core : Nat) : Nat := (t.cores.findIdx? (· = core)).getD 0

/-- The key of tile i on a core of a team. -/
def tileKey (t : Team) (core i : Nat) : Nat := coreIx t core * 32 + i

def tileOf (t : Team) (k : Nat) : Tile := tblGet t.tiles k

def modTile (s : State) (tm k : Nat) (f : Tile → Tile) : State :=
  modTeam s tm fun t => { t with tiles := tblMod t.tiles k f }

/-- Element (r, n) of a tile. -/
def tileElem (x : Tile) (r n : Nat) : Word := tblGet x.elems (r * 32 + n)

/-- The elements of a tile from a function of row and column; zeros are unlisted. -/
def elemsOf (f : Nat → Nat → Word) : Tbl Word :=
  (List.range 1024).filterMap fun k =>
    let x := f (k / 32) (k % 32)
    if x = 0 then none else some (k, x)

/-- A lost word of the tile lies in one of the rows (R421). -/
def tileLost (x : Tile) (rows : Nat → Bool) : Bool := x.dead.any fun k => rows (k / 4)

/-- The lost words of the rows are covered by a write. -/
def coverRows (x : Tile) (rows : Nat → Bool) : Tile := { x with dead := x.dead.filter fun k => !rows (k / 4) }

/-- UNCORR is held for the group when one of the tiles has lost data in the rows of it that are read (R421). -/
def noteTiles (s : State) (k tm : Nat) (pc : VAddr) (ks : List Nat) (rows : Nat → Nat → Bool) : State :=
  if ks.any fun t => tileLost (tileOf (teamOf s tm) t) (rows t) then holdLost s k pc else s

/-! ## The order of a tile (R167, R168) -/

/-- Tiles, by number, that an operation names on its group's core: first and count. -/
def payloadTiles (w : BitVec 2) (p : Payload) : List Nat :=
  let two := fun (t : Nat) => if w = 2 then [t, t + 1] else [t]
  match p with
  | .mma t .. => two t
  | .tld t => two t
  | .tst t .. => two t
  | .tepi t _ => [t]
  | _ => []

/-- The operation writes its tiles (MMA, TST); TLD and TEPI read them. -/
def payloadWrites : Payload → Bool
  | .mma .. => true
  | .tst .. => true
  | _ => false

/-- The operation is an MMA or a move of a tile. -/
def payloadMma : Payload → Bool
  | .mma .. => true
  | _ => false

/-- An operation in a tile's order: its number, its tile keys, and what it does to them. -/
structure TileUse where
  id : Nat := 0
  keys : List Nat := []
  writes : Bool := false
  tst : Bool := false
deriving DecidableEq, Repr, Inhabited

/-- The leader's core index of a pair, and the tiles of an MMAP (R175). -/
def pairKeys (t : Team) (core base : Nat) : List Nat :=
  let c := coreIx t core
  (List.range 16).map (fun i => c * 32 + base + i) ++ (List.range 16).map fun i => (c + 1) * 32 + base + i

/-- The operations of one group in its team's tile orders. -/
def groupUses (t : Team) (g : Group) : List TileUse :=
  (g.ops.filterMap fun o =>
    match payloadTiles g.ident.width o.payload with
    | [] => none
    | l => some { id := o.id, keys := l.map (tileKey t g.ident.core), writes := payloadWrites o.payload,
                  tst := !payloadMma o.payload && payloadWrites o.payload })
    ++ match g.mmap with
      | some m => [{ id := m.id, keys := pairKeys t g.ident.core m.base, writes := true }]
      | none => []

/-- The operations in a team's tile orders. -/
def teamUses (s : State) (tm : Nat) : List TileUse :=
  let t := teamOf s tm
  (s.groups.filter fun p => p.2.ident.team = tm).flatMap fun p => groupUses t p.2

/-- An operation numbered below id, of the kind f, stands in the order of one of the tiles. -/
def earlier (s : State) (tm : Nat) (ks : List Nat) (id : Nat) (f : TileUse → Bool) : Bool :=
  (teamUses s tm).any fun u => u.id < id && f u && u.keys.any ks.contains

/-- MMA and MMAP wait for reads; TLD and TEPI for writes; TST and TZERO for anything (R168). -/
def waitsForReads (u : TileUse) : Bool := !u.writes
def waitsForWrites (u : TileUse) : Bool := u.writes
def waitsForAny (_ : TileUse) : Bool := true

/-- A core's array runs an MMAP of some group (R178). -/
def arrayBusy (s : State) (i core : Nat) : Bool :=
  s.groups.any fun p => p.2.ident.island = i && p.2.mmap.isSome
    && (p.2.ident.core = core || nth (teamOf s p.2.ident.team).cores (coreIx (teamOf s p.2.ident.team) p.2.ident.core + 1) = core)

/-- Tiles enter state Accumulating (R169). -/
def beginWrite (s : State) (tm : Nat) (ks : List Nat) : State :=
  ks.foldl (fun s k => modTile s tm k fun x => { x with state := .accumulating }) s

/-- Tiles enter state Draining (R169). -/
def beginRead (s : State) (tm : Nat) (ks : List Nat) : State :=
  ks.foldl (fun s k => modTile s tm k fun x =>
    if x.state = .draining then x else { x with state := .draining, wasZero := x.state = .zeroed }) s

/-- The last write of a tile's order has retired (R169). -/
def endWrite (s : State) (tm : Nat) (ks : List Nat) : State :=
  ks.foldl (fun s k =>
    if (teamUses s tm).any fun u => u.writes && u.keys.contains k then s
    else modTile s tm k fun x => { x with state := .finished }) s

/-- The last read of a tile's order has retired (R169). -/
def endRead (s : State) (tm : Nat) (ks : List Nat) : State :=
  ks.foldl (fun s k =>
    if (teamUses s tm).any fun u => u.keys.contains k then s
    else modTile s tm k fun x => { x with state := if x.wasZero then .zeroed else .finished }) s

/-! ## Element types (R170, R173) -/

/-- Bits of an A and a B element of a TYPE. -/
def typeBits (y : BitVec 3) : Nat := match y.toNat with | 5 => 4 | 6 => 16 | _ => 8

/-- Elements of a 32-byte image. -/
def imageElems (y : BitVec 3) : Nat := 256 / typeBits y

/-- The floating format of the A elements and of the B elements of a TYPE. -/
def typeA (y : BitVec 3) : FFmt :=
  match y.toNat with | 0 => .e4m3 | 1 => .e5m2 | 2 => .e4m3 | 3 => .e5m2 | 5 => .e2m1 | _ => .bf16
def typeB (y : BitVec 3) : FFmt :=
  match y.toNat with | 0 => .e4m3 | 1 => .e5m2 | 2 => .e5m2 | 3 => .e4m3 | 5 => .e2m1 | _ => .bf16

/-- The TYPE reads scales (R173). -/
def scaled (y : BitVec 3) : Bool := y ≠ 4 && y ≠ 6

/-- Encodings of the n elements of b bits in an image. -/
def imageList (x b n : Nat) : List Nat := (List.range n).map fun k => bits x (b * k + b - 1) (b * k)

/-- One accumulate of R173 and R177: the bits of the new element, the flags, and the exact value where it is a float. -/
structure Accum where
  val : Nat
  flags : Flg := 0
  exact : Ext := .nan false
deriving DecidableEq, Repr, Inhabited

/-- The combined exponent of two scales, none for NaN. -/
def scalePair (sa sb : Nat) : Option Int :=
  match scaleExp sa, scaleExp sb with
  | some x, some y => some (x + y)
  | _, _ => none

/-- Σ a[k] × b[k] over I8 elements. -/
def dotInt (a b : List Nat) : Int := ((a.zip b).map fun p => signed p.1 8 * signed p.2 8).sum

/-- One accumulate into an element: the accumulator's bits, the elements' encodings, the scales. -/
def accumulate (y : BitVec 3) (md : RMode) (acc : Nat) (a b : List Nat) (sa sb : Nat) : Accum :=
  if y = 4 then
    let x := signed acc 32 + dotInt a b
    if x > 2 ^ 31 - 1 then { val := 2 ^ 31 - 1, flags := flgOF }
    else if x < -(2 ^ 31 : Int) then { val := 2 ^ 31, flags := flgOF }
    else { val := wrap x 32 }
  else
    let g := if scaled y then scalePair sa sb else some 0
    let ab := (a.map (dec (typeA y))).zip (b.map (dec (typeB y)))
    let x := exactDot md (dec .f32 acc) ab g
    let r := rndExact .f32 md x
    { val := r.1, flags := r.2, exact := x.1 }

/-! ## MMSC (R172) -/

/-- A value a scale base may have. -/
def scaleBaseOk (a : BitVec 6) : Bool := a = 63 || (a.toNat % 8 = 0 && a.toNat ≤ 48)

/-- The form of MMSC. -/
def mmscForm (st : BitVec 2) (a b : BitVec 6) : Form :=
  { ctlForm st [] with bad := fun _ => !scaleBaseOk a || !scaleBaseOk b }

/-- MMSC (R172). -/
def execMmsc (st : BitVec 2) (a b : BitVec 6) (s : State) : Out :=
  issue (mmscForm st a b) (fun cx s =>
    okGrp s cx (advance 4 cx.ix { cx.g with msa := a, msb := b })) s

/-! ## MMA (R170, R173, R174) -/

/-- Registers of the B fragment (R170). -/
def bSpan (g : Group) : Nat := if g.ident.width = 0 then 16 else 8

/-- S registers of the scale spans (R172). -/
def scaleSpanA (g : Group) : Nat := lanesIn g / 8
def scaleSpanB (g : Group) : Nat := if g.ident.width = 2 then 8 else 4

/-- A tile operand beyond the allocation, or odd at W64 (R174). -/
def badTile (s : State) (cx : Cx) (t : Nat) : Bool :=
  let n := (teamOf s cx.g.ident.team).ntiles
  if cx.g.ident.width = 2 then t % 2 ≠ 0 || t + 2 > n else t ≥ n

/-- The span of a scale base passes S62. -/
def badScale (base : BitVec 6) (n : Nat) : Bool := base ≠ 63 && base.toNat + n > 63

/-- The operand cases of MMA (R174). -/
def badMma (s : State) (cx : Cx) (t : BitVec 5) (a b : BitVec 4) (y : BitVec 3) : Bool :=
  badTile s cx t.toNat || cx.g.allot < a.toNat * 8 + 8 || cx.g.allot < b.toNat * 8 + bSpan cx.g
    || (scaled y && (badScale cx.g.msa (scaleSpanA cx.g) || badScale cx.g.msb (scaleSpanB cx.g)))

/-- The scale registers MMA reads, A's before B's. -/
def scaleUses (g : Group) (y : BitVec 3) : List UniUse :=
  if !scaled y then []
  else
    (if g.msa = 63 then [] else (List.range (scaleSpanA g)).map fun i => sUse (g.msa.toNat + i))
      ++ if g.msb = 63 then [] else (List.range (scaleSpanB g)).map fun i => sUse (g.msb.toNat + i)

/-- The form of an MMA. -/
def mmaForm (st : BitVec 2) (h : BitVec 1) (t : BitVec 5) (a b : BitVec 4) (y : BitVec 3) (s : State) (cx : Cx) : Form :=
  { st := st
    bad0 := fun cx => h = 1 && cx.g.ident.width ≠ 0
    bad := fun cx => badMma s cx t a b y
    uni := scaleUses cx.g y
    uses := fun cx l => vUse (a.toNat * 8) 8 l ++ vUse (b.toNat * 8) (bSpan cx.g) l
    conv := true }

/-- The 32-byte image in eight registers of a lane (R170). -/
def imageAt (g : Regs) (r l : Nat) : Bits256 :=
  BitVec.ofNat 256 (((List.range 8).map fun i => (readV g (r + i) l).toNat * 2 ^ (32 * i)).sum)

/-- Scale byte k of a base (R172). -/
def scaleAt (g : Regs) (base : BitVec 6) (k : Nat) : Byte :=
  if base = 63 then 0x7F else BitVec.ofNat 8 ((readS g (base.toNat + k / 8)).toNat / 2 ^ (8 * (k % 8)))

/-- B column images: by lane, or by column at W16 (R170). -/
def bImages (g : Group) (b : Nat) : List Bits256 :=
  if g.ident.width = 0 then (List.range 32).map fun n => imageAt g.regs (b + 8 * (n / 16)) (n % 16)
  else (List.range (lanesIn g)).map fun l => imageAt g.regs b l

/-- What an MMA captures at issue. -/
def mmaPayload (cx : Cx) (h : BitVec 1) (t : BitVec 5) (a b : BitVec 4) (y : BitVec 3) (z : BitVec 1) : Payload :=
  let g := cx.g
  let ia := (List.range (lanesIn g)).map fun l => imageAt g.regs (a.toNat * 8) l
  let ib := bImages g (b.toNat * 8)
  .mma t.toNat h y (z = 1) (rmOf g.special) ia ib
    ((List.range ia.length).map fun k => scaleAt g.regs g.msa k) ((List.range ib.length).map fun k => scaleAt g.regs g.msb k)

/-- MMA (R173); HINT changes nothing. -/
def execMma (st : BitVec 2) (h : BitVec 1) (t : BitVec 5) (a : BitVec 4) (y : BitVec 3) (b : BitVec 4) (z : BitVec 1)
    (n : BitVec 2) (s : State) : Out :=
  let _ := n
  issueWith (mmaForm st h t a b y) (fun cx s =>
    let p := mmaPayload cx h t a b y z
    let ks := (payloadTiles cx.g.ident.width p).map (tileKey (teamOf s cx.g.ident.team) cx.g.ident.core)
    if earlier s cx.g.ident.team ks s.seq waitsForReads || arrayBusy s cx.g.ident.island cx.g.ident.core then .wait
    else
      let s := beginWrite s cx.g.ident.team ks
      let s := addOp s cx.key { id := 0, cls := .matrix, mask := cx.f.mask, pc := cx.f.pc, payload := p }
      .ok (modGrp s cx.key (advance 4 cx.ix))) s

/-- The accumulate of element (r, n) of tile u of an MMA: lanes hold A rows and B columns from `off` on. -/
def mmaElem (y : BitVec 3) (z : Bool) (md : RMode) (a b : List Bits256) (sa sb : List Byte) (x : Tile) (ar bc r n : Nat) :
    Accum :=
  let k := imageElems y
  let w := typeBits y
  accumulate y md (if z then 0 else (tileElem x r n).toNat) (imageList (nth a ar).toNat w k) (imageList (nth b bc).toNat w k)
    (nth sa ar).toNat (nth sb bc).toNat

/-- The rows of a tile an MMA covers, as the lane that holds each (R170). -/
def mmaRow (w : BitVec 2) (half : BitVec 1) (u r : Nat) : Option Nat :=
  if w = 0 then (if r / 16 = half.toNat then some (r % 16) else none)
  else some (32 * u + r)

/-- The accumulates of one tile of an MMA: u the tile within the operation. -/
def mmaTile (w : BitVec 2) (half : BitVec 1) (y : BitVec 3) (z : Bool) (rm : BitVec 2) (a b : List Bits256) (sa sb : List Byte)
    (u : Nat) (x : Tile) : Tile × Flg :=
  let rows := (List.range 32).map fun r =>
    (List.range 32).map fun n =>
      match mmaRow w half u r with
      | some l => mmaElem y z (rmode rm) a b sa sb x l (if w = 2 then 32 * u + n else n) r n
      | none => { val := (tileElem x r n).toNat }
  ({ coverRows x (fun r => (mmaRow w half u r).isSome) with
      elems := elemsOf fun r n => BitVec.ofNat 32 (nth (nth rows r) n).val },
   orFlags (rows.flatMap fun l => l.map fun e => e.flags))

/-- The operation with a number in a group. -/
def opAt (g : Group) (id : Nat) : Option FlightOp := g.ops.find? fun o => o.id = id

/-- The operation leaves the group's list, without effect. -/
def dropOp (s : State) (k id : Nat) : State :=
  modGrp s k fun g => wake { g with ops := g.ops.filter fun o => o.id ≠ id }

/-- The tiles of an operation written by f of the tile's place in it, and the flags raised. -/
def writeTiles (s : State) (tm : Nat) (ks : List Nat) (f : Nat → Tile → Tile × Flg) : State × Flg :=
  ks.zipIdx.foldl (fun acc p =>
    let r := f p.2 (tileOf (teamOf acc.1 tm) p.1)
    (modTile acc.1 tm p.1 fun _ => r.1, acc.2 ||| r.2)) (s, 0)

/-- MMA_RETIRE (R173): in the order of its tiles. -/
def execMmaRetire (grp op : Nat) (s : State) : Out :=
  let g := grpOf s grp
  match opAt g op with
  | none => .next s
  | some o =>
    match o.payload with
    | .mma t half y z rm a b sa sb =>
      let tm := g.ident.team
      let ks := (payloadTiles g.ident.width (.mma t half y z rm a b sa sb)).map (tileKey (teamOf s tm) g.ident.core)
      if earlier s tm ks op waitsForAny then .next s
      else
        let s := if z then s else noteTiles s grp tm o.pc ks fun _ r => (mmaRow g.ident.width half 0 r).isSome
        let r := writeTiles s tm ks (mmaTile g.ident.width half y z rm a b sa sb)
        let s := modGrp r.1 grp fun g => { g with special := raise g.special r.2 }
        .next (wakeAll (endWrite (dropOp s grp op) tm ks))
    | _ => .next s

/-! ## TLD, TST, TZERO (R171, R182, R183) -/

/-- The tile of a lane and its row (R170, R171). -/
def laneRow (w : BitVec 2) (half : BitVec 1) (l : Nat) : Nat × Nat :=
  if w = 0 then (0, 16 * half.toNat + l) else (l / 32, l % 32)

/-- The form of TLD and TST. -/
def moveForm (st : BitVec 2) (h : BitVec 1) (t : BitVec 5) (a : BitVec 4) (load : Bool) (s : State) (_ : Cx) : Form :=
  { st := st
    bad0 := fun cx => h = 1 && cx.g.ident.width ≠ 0
    bad := fun cx => badTile s cx t.toNat || a.toNat > 12 || cx.g.allot < a.toNat * 8 + 32
    uses := fun _ l => if load then [] else vUse (a.toNat * 8) 32 l
    dsts := if load then vDst (a.toNat * 8) 32 else [] }

/-- The row of a tile that a lane of TLD reads: the tile's key and the row. -/
def laneReads (team : Team) (core : Nat) (w : BitVec 2) (half : BitVec 1) (t l : Nat) : Nat × Nat :=
  (tileKey team core (t + (laneRow w half l).1), (laneRow w half l).2)

/-- TLD (R182). -/
def execTld (st : BitVec 2) (h : BitVec 1) (t : BitVec 5) (a : BitVec 4) (s : State) : Out :=
  issueWith (moveForm st h t a true) (fun cx s =>
    let tm := cx.g.ident.team
    let team := teamOf s tm
    let ks := (payloadTiles cx.g.ident.width (.tld t.toNat)).map (tileKey team cx.g.ident.core)
    if earlier s tm ks s.seq waitsForWrites then .wait
    else
      let ws := (lanesOf cx.f.mask).flatMap fun l =>
        let p := laneReads team cx.g.ident.core cx.g.ident.width h t.toNat l
        (List.range 32).map fun n =>
          ({ elem := .v (a.toNat * 8 + n) l, val := (tileElem (tileOf team p.1) p.2 n).setWidth 64 } : RegWrite)
      let s := noteTiles s cx.key tm cx.f.pc ks fun k r =>
        (lanesOf cx.f.mask).any fun l => laneReads team cx.g.ident.core cx.g.ident.width h t.toNat l = (k, r)
      let s := beginRead s tm ks
      let s := addOp s cx.key { id := 0, cls := .matrix, mask := cx.f.mask, pc := cx.f.pc, writes := ws, payload := .tld t.toNat }
      .ok (modGrp s cx.key (advance 4 cx.ix))) s

/-- TST (R182). -/
def execTst (st : BitVec 2) (h : BitVec 1) (t : BitVec 5) (a : BitVec 4) (s : State) : Out :=
  issueWith (moveForm st h t a false) (fun cx s =>
    let tm := cx.g.ident.team
    let rows := (lanesOf cx.f.mask).map fun l => (l, spanWords cx.g.regs (a.toNat * 8) 32 l)
    let p : Payload := .tst t.toNat h rows
    let ks := (payloadTiles cx.g.ident.width p).map (tileKey (teamOf s tm) cx.g.ident.core)
    if earlier s tm ks s.seq waitsForAny then .wait
    else
      let s := beginWrite s tm ks
      let s := addOp s cx.key { id := 0, cls := .matrix, mask := cx.f.mask, pc := cx.f.pc, payload := p }
      .ok (modGrp s cx.key (advance 4 cx.ix))) s

/-- A tile after the rows of a TST, u the tile within the operation. -/
def tstTile (w : BitVec 2) (half : BitVec 1) (rows : List (Nat × List Word)) (u : Nat) (x : Tile) : Tile × Flg :=
  let row := fun (r : Nat) => (rows.find? fun p => laneRow w half p.1 = (u, r)).map (·.2)
  ({ coverRows x (fun r => (row r).isSome) with
      elems := elemsOf fun r n =>
        match row r with
        | some l => nth l n
        | none => tileElem x r n }, 0)

/-- TILE_MOVE_RETIRE (R169): a TLD, TST or TEPI retires. -/
def execTileMoveRetire (grp op : Nat) (s : State) : Out :=
  let g := grpOf s grp
  let tm := g.ident.team
  match opAt g op with
  | none => .next s
  | some o =>
    let ks := (payloadTiles g.ident.width o.payload).map (tileKey (teamOf s tm) g.ident.core)
    match o.payload with
    | .tld _ => .next (wakeAll (endRead (modGrp s grp fun g => retireOp g o) tm ks))
    | .tst _ half rows =>
      if earlier s tm ks op waitsForAny then .next s
      else
        let r := writeTiles s tm ks (tstTile g.ident.width half rows)
        .next (wakeAll (endWrite (dropOp r.1 grp op) tm ks))
    | .tepi _ fl =>
      let s := modGrp s grp fun g => { g with special := raise g.special fl }
      .next (wakeAll (endRead (dropOp s grp op) tm ks))
    | _ => .next s

/-- The form of TZERO. -/
def tzeroForm (st : BitVec 2) (t n : BitVec 5) (s : State) (_ : Cx) : Form :=
  { ctlForm st [] with bad := fun cx => t.toNat + (n.toNat + 1) > (teamOf s cx.g.ident.team).ntiles }

/-- TZERO (R183). -/
def execTzero (st : BitVec 2) (t n : BitVec 5) (s : State) : Out :=
  let cnt := n.toNat + 1
  issueWith (tzeroForm st t n) (fun cx s =>
    let tm := cx.g.ident.team
    let ks := (List.range cnt).map fun i => tileKey (teamOf s tm) cx.g.ident.core (t.toNat + i)
    if earlier s tm ks s.seq waitsForAny then .wait
    else
      let s := ks.foldl (fun s k => modTile s tm k fun _ => {}) s
      .ok (modGrp s cx.key (advance 4 cx.ix))) s

/-! ## Epilogues (R181) -/

/-- EPI(x) on the bits of an F32 value. -/
def epiValue (p : BitVec 2) (lo hi x : Nat) : Rounded :=
  let ex := dec .f32 x
  let el := dec .f32 lo
  let eh := dec .f32 hi
  let nan := canonicalNan .f32
  match p.toNat with
  | 0 => (x, 0)
  | 1 => (if isNan ex then nan else if extCmp ex (.zero false) > 0 then x else 0, snanFlag [ex])
  | 2 =>
    if isNan ex || isNan el || isNan eh then (nan, snanFlag [ex, el, eh])
    else ((minMax .f32 true (minMax .f32 false x lo).1 hi).1, 0)
  | _ =>
    if isNan ex || isNan el then (nan, snanFlag [ex, el])
    else (if extCmp ex el > 0 then x else 0, 0)

/-- A value is finite. -/
def isFinite (x : Ext) : Bool := !isNan x && !isInf x

/-- DECIDED of an exact value before rounding. -/
def epiDecided (p : BitVec 2) (lo hi : Nat) (y : Ext) : Bool :=
  let el := dec .f32 lo
  let eh := dec .f32 hi
  isFinite y && match p.toNat with
    | 0 => false
    | 1 => extCmp y (.zero false) < 0
    | 2 => !isNan el && !isNan eh && (extCmp y el < 0 || extCmp y eh > 0)
    | _ => !isNan el && extCmp y el < 0

/-! ## TEPI (R184) -/

/-- Bytes of an element of an OF code. -/
def ofBytes (f : BitVec 3) : Nat := match f.toNat with | 0 => 4 | 1 => 2 | 2 => 2 | 5 => 4 | _ => 1

/-- The floating format of an OF code. -/
def ofFmt (f : BitVec 3) : FFmt := match f.toNat with | 0 => .f32 | 1 => .bf16 | 2 => .f16 | 3 => .e4m3 | _ => .e5m2

/-- The bytes TEPI writes for one element, and its flags. -/
def tepiElem (f : BitVec 3) (p : BitVec 2) (sat : Bool) (md : RMode) (lo hi x : Nat) : Rounded :=
  if f = 5 then (x, 0)
  else
    let e := epiValue p lo hi x
    let v := dec .f32 e.1
    let r := if sat then satRnd (ofFmt f) md v else rnd (ofFmt f) md v
    (r.1, e.2 ||| snanFlag [v] ||| r.2)

/-- The bounds of an epilogue in an operand word (R176, R184). -/
def epiLo (w : DWord) : Nat := w.toNat % 2 ^ 32
def epiHi (w : DWord) : Nat := w.toNat / 2 ^ 32

/-- The rows TEPI writes: team address and bytes, with the flags. Where the pitch is smaller than a row, rows overlap, and the
spec does not say whose bytes stay: the later row's do, the model's choice (log 15). -/
def tepiRows (f : BitVec 3) (p : BitVec 2) (sat : Bool) (md : RMode) (w1 : DWord) (addr pitch : Nat) (x : Tile) :
    List (Nat × List Byte) × Flg :=
  let rows := (List.range 32).map fun r =>
    (List.range 32).map fun n => tepiElem f p sat md (epiLo w1) (epiHi w1) (tileElem x r n).toNat
  ((List.range 32).map fun r => (addr + r * pitch, (nth rows r).flatMap fun e => leBytes e.1 (ofBytes f)),
   orFlags (rows.flatMap fun l => l.map fun e => e.2))

/-- The form of TEPI. -/
def tepiForm (st : BitVec 2) (t : BitVec 5) (e : BitVec 6) (p : BitVec 2) (s : State) (_ : Cx) : Form :=
  { ctlForm st ([sUse e.toNat] ++ if p = 0 then [] else [sUse (e.toNat + 1)]) with
    bad := fun cx => e.toNat % 2 ≠ 0 || t.toNat ≥ (teamOf s cx.g.ident.team).ntiles }

/-- TEPI (R184). -/
def execTepi (st : BitVec 2) (t : BitVec 5) (e : BitVec 6) (f : BitVec 3) (p : BitVec 2) (a : BitVec 1) (s : State) : Out :=
  issueWith (tepiForm st t e p) (fun cx s =>
    let tm := cx.g.ident.team
    let team := teamOf s tm
    let w0 := (readS cx.g.regs e.toNat).toNat
    let w1 := readS cx.g.regs (e.toNat + 1)
    let addr := bits w0 31 0
    let pitch := bits w0 47 32
    let row := 32 * ofBytes f
    let spans := (List.range 32).map fun r => (none, addr + r * pitch)
    let ks := [tileKey team cx.g.ident.core t.toNat]
    if bits w0 63 48 ≠ 0 then .flt { cls := 0x01, status := 2 }
    else if addr % 16 ≠ 0 || pitch % 16 ≠ 0 then .flt { cls := 0x08, status := 1 }
    else if addr + 31 * pitch + row > teamExtent team then .flt { cls := 0x11, status := 2 }
    else
      match firstLock (islOf s cx.g.ident.island).mem true tm row true spans with
      | some c => .flt c
      | none =>
        if earlier s tm ks s.seq waitsForWrites then .wait
        else
          let r := tepiRows f p (a = 1) (modeOf cx.g.special) w1 addr pitch (tileOf team (nth ks 0))
          let s := noteTiles s cx.key tm cx.f.pc ks fun _ _ => true
          let s := modTeam s tm fun t => teamPut t r.1
          let s := beginRead s tm ks
          let s := addOp s cx.key { id := 0, cls := .matrix, mask := cx.f.mask, pc := cx.f.pc, payload := .tepi t.toNat r.2 }
          .ok (modGrp s cx.key (advance 4 cx.ix))) s

/-! ## MMAP (R175 to R180) -/

/-- K blocks of an operand word (R176). -/
def mmapBlocks (w0 : DWord) : Nat := bits w0.toNat 37 32 + 1

/-- An operand of MMAP: the team address of byte 0 of row x, the bytes of a row, and its scales. -/
structure MmapOperand where
  t : Tensor
  rows : Nat
  wid : Nat
deriving DecidableEq, Repr

/-- The team addresses an operand occupies: rows, and with scales the scale bytes (R177). -/
def operandSpans (o : MmapOperand) (nk : Nat) (sc : Bool) : List (Nat × Nat) :=
  ((List.range o.rows).map fun m => (o.t.taddr + m * o.t.pitch, 128 * nk * o.wid / 8))
    ++ if sc then [(o.t.scale, o.rows * nk)] else []

/-- The two operands of MMAP from its records. -/
def mmapOperands (s : State) (i : Nat) (w0 : DWord) (y : BitVec 3) : MmapOperand × MmapOperand :=
  ({ t := tensorOf (objWords s i (bits w0.toNat 15 0)), rows := 128, wid := typeBits y },
   { t := tensorOf (objWords s i (bits w0.toNat 31 16)), rows := 256, wid := typeBits y })

/-- The operand spans of both. -/
def mmapSpans (s : State) (i : Nat) (w0 : DWord) (y : BitVec 3) : List (Nat × Nat) :=
  let o := mmapOperands s i w0 y
  operandSpans o.1 (mmapBlocks w0) (scaled y) ++ operandSpans o.2 (mmapBlocks w0) (scaled y)

/-- The issuing core leads a pair (R175). -/
def isLeader (t : Team) (core : Nat) : Bool := coreIx t core % 2 = 0 && coreIx t core + 1 < t.cores.length

/-- The first range lock that the operand reads of MMAP meet (R231). -/
def spansLock (m : IslandMem) (tm : Nat) (l : List (Nat × Nat)) : Option Cause :=
  l.findSome? fun p => (lockHit m true tm p.1 p.2 false).map fun k =>
    { cls := 0x12, status := BitVec.ofNat 8 k.1, info := BitVec.ofNat 32 k.2 }

/-- The execution cases of R180 and R231, in their order. Where both tensor records are unusable, R180 does not say which one
the cause names: A's record is looked at first, the model's choice (log 15). -/
def mmapFault (s : State) (cx : Cx) (w0 : DWord) (y : BitVec 3) : Option Cause :=
  let id := cx.g.ident
  let team := teamOf s id.team
  let ra := bits w0.toNat 15 0
  let rb := bits w0.toNat 31 16
  if bits w0.toNat 63 38 ≠ 0 then some { cls := 0x01, status := 2 }
  else if !isLeader team id.core then some { cls := 0x01, status := 3 }
  else
    match tensorFault (objWords s id.island ra) ra id.ctx .read with
    | some c => some c
    | none =>
      match tensorFault (objWords s id.island rb) rb id.ctx .read with
      | some c => some c
      | none =>
        if (mmapSpans s id.island w0 y).any fun p => p.1 + p.2 > teamExtent team then some { cls := 0x11, status := 2 }
        else spansLock (islOf s id.island).mem id.team (mmapSpans s id.island w0 y)

/-- PROG says that a stopped long instruction goes on, and from which unit (R36). -/
def progValid (g : Group) : Bool := bit g.special.prog.toNat 63
def progIndex (g : Group) : Nat := bits g.special.prog.toNat 31 0

/-- The condition of MMAP and of the copy engines: C[sel], negated by N. -/
def condTrue (g : Regs) (c : BitVec 3) (n : BitVec 1) : Bool := readC g c.toNat != (n = 1)

/-- The record an MMAP starts with: from its registers, or where PROG is valid from the saved words (R179; log 19). -/
def mmapStart (cx : Cx) (id : Nat) (e : BitVec 6) (b : BitVec 1) (p : BitVec 2) (l z : BitVec 1) (y : BitVec 3) : MmapRec :=
  let fresh : MmapRec := { id := id, pc := cx.f.pc, mask := cx.f.mask, word0 := readS cx.g.regs e.toNat
                           word1 := readS cx.g.regs (e.toNat + 1), rm := rmOf cx.g.special
                           base := if b = 1 then 16 else 0, epi := p, last := l = 1, zero := z = 1, ty := y }
  if !progValid cx.g then fresh
  else
    let w := cx.g.mmapSaved.getD (fresh.word0, fresh.word1, fresh.rm)
    { fresh with word0 := w.1, word1 := w.2.1, rm := w.2.2, done := progIndex cx.g, resumed := true }

/-- The group with an MMAP in flight, its fragment holding at it (R178). -/
def mmapIssue (s : State) (cx : Cx) (m : MmapRec) : State :=
  let tm := cx.g.ident.team
  let s := beginWrite s tm (pairKeys (teamOf s tm) cx.g.ident.core m.base)
  let s := modGrp s cx.key fun g => modFrag { g with mmap := some m } cx.ix fun f => { f with hold := .mmap }
  { s with seq := s.seq + 1 }

/-- The form of MMAP; with a false condition it takes no REGPOISON (R180). -/
def mmapForm (st : BitVec 2) (c : BitVec 3) (n : BitVec 1) (e : BitVec 6) (b : BitVec 1) (p : BitVec 2) (l : BitVec 1)
    (s : State) (cx : Cx) : Form :=
  let reads := if progValid cx.g || !condTrue cx.g.regs c n then []
    else [sUse e.toNat] ++ if l = 1 && p ≠ 0 then [sUse (e.toNat + 1)] else []
  { ctlForm st ((if progValid cx.g then [] else [cUse c.toNat]) ++ reads) with
    bad := fun cx => e.toNat % 2 ≠ 0 || (if b = 1 then 16 else 0) + 16 > (teamOf s cx.g.ident.team).ntiles
    heeds := progValid cx.g || condTrue cx.g.regs c n
    conv := true }

/-- MMAP (R177 to R180). -/
def execMmap (st : BitVec 2) (c : BitVec 3) (n : BitVec 1) (e : BitVec 6) (b : BitVec 1) (p : BitVec 2) (l z : BitVec 1)
    (y : BitVec 3) (s : State) : Out :=
  issueWith (mmapForm st c n e b p l) (fun cx s =>
    if !progValid cx.g && !condTrue cx.g.regs c n then finish 4 id cx s
    else if cx.g.mmap.isSome then .wait
    else
      let m := mmapStart cx s.seq e b p l z y
      match mmapFault s cx m.word0 y with
      | some c => .flt c
      | none =>
        if earlier s cx.g.ident.team (pairKeys (teamOf s cx.g.ident.team) cx.g.ident.core m.base) s.seq waitsForReads then .wait
        else .ok (mmapIssue s cx m)) s

/-- The encodings of the 128 elements of block j of row x of an operand. -/
def blockElems (mem : Memory) (o : MmapOperand) (x j : Nat) : List Nat :=
  let a := o.t.taddr + x * o.t.pitch + 128 * j * o.wid / 8
  imageList (memNat mem a (128 * o.wid / 8)) o.wid 128

/-- The scale of row or column x in block j. -/
def blockScaleAt (mem : Memory) (o : MmapOperand) (x j : Nat) : Nat := (memGet mem (o.t.scale + o.rows * j + x)).toNat

/-- What one block leaves in an element: its bits, flags, and whether the epilogue decided it (R177). -/
structure BlockOut where
  val : Nat := 0
  flags : Flg := 0
  cut : Bool := false
deriving DecidableEq, Repr, Inhabited

/-- One accumulate of block j, with the epilogue after the last block. -/
def blockElem (m : MmapRec) (nk j acc : Nat) (a b : List Nat) (sa sb : Nat) : BlockOut :=
  let x := accumulate m.ty (rmode m.rm) (if j = 0 && m.zero then 0 else acc) a b sa sb
  if m.last && j + 1 = nk && m.epi ≠ 0 then
    let r := epiValue m.epi (epiLo m.word1) (epiHi m.word1) x.val
    { val := r.1, flags := x.flags ||| r.2, cut := epiDecided m.epi (epiLo m.word1) (epiHi m.word1) x.exact }
  else { val := x.val, flags := x.flags }

/-- Block j of an MMAP over the tile of index i of the pair's 32: the tile after it, flags, decided elements (R175). The two
object-table records are read at every block; when they are read is not stated, and this is the model's choice (log 15). -/
def blockTile (s : State) (g : Group) (m : MmapRec) (j i : Nat) (x : Tile) : Tile × Flg × Nat :=
  let mem := (teamOf s g.ident.team).mem
  let o := mmapOperands s g.ident.island m.word0 m.ty
  let m0 := 32 * (i % 16 / 4)
  let n0 := 128 * (i / 16) + 32 * (i % 4)
  let ra := (List.range 32).map fun r => (blockElems mem o.1 (m0 + r) j, blockScaleAt mem o.1 (m0 + r) j)
  let rb := (List.range 32).map fun n => (blockElems mem o.2 (n0 + n) j, blockScaleAt mem o.2 (n0 + n) j)
  let rows := (ra.zipIdx).map fun p =>
    rb.zipIdx.map fun q => blockElem m (mmapBlocks m.word0) j (tileElem x p.2 q.2).toNat p.1.1 q.1.1 p.1.2 q.1.2
  let all := rows.flatMap id
  ({ coverRows x (fun _ => true) with elems := elemsOf fun r n => BitVec.ofNat 32 (nth (nth rows r) n).val },
   orFlags (all.map (·.flags)), (all.filter (·.cut)).length)

/-- The MMAP stands first in the order of its tiles, and its array is not driven by an earlier one (R167, R178). -/
def mmapTurn (s : State) (g : Group) (m : MmapRec) : Bool :=
  let tm := g.ident.team
  !(earlier s tm (pairKeys (teamOf s tm) g.ident.core m.base) m.id waitsForAny)
    && !(s.groups.any fun p => match p.2.mmap with
        | some o => o.id < m.id && p.2.ident.island = g.ident.island && p.2.ident.core = g.ident.core
        | none => false)

/-- One K block accumulated into the 32 tiles (R177). -/
def mmapBlock (s : State) (k : Nat) (g : Group) (m : MmapRec) : State :=
  let tm := g.ident.team
  let ks := pairKeys (teamOf s tm) g.ident.core m.base
  let s := noteDead s k tm m.pc (mmapSpans s g.ident.island m.word0 m.ty)
  let s := if m.done = 0 && m.zero then s else noteTiles s k tm m.pc ks fun _ _ => true
  let r := ks.zipIdx.foldl (fun (acc : State × Flg × Nat) p =>
    let x := blockTile s g m m.done p.2 (tileOf (teamOf s tm) p.1)
    (modTile acc.1 tm p.1 fun _ => x.1, acc.2.1 ||| x.2.1, acc.2.2 + x.2.2)) (s, 0, 0)
  modGrp r.1 k fun g => { g with
    mmap := some { m with done := m.done + 1, flags := m.flags ||| r.2.1, cuts := m.cuts + 12 * r.2.2, rerun := [] } }

/-- MMAP_BLOCK_COMPLETE (R177). -/
def execMmapBlockComplete (grp : Nat) (s : State) : Out :=
  let g := grpOf s grp
  match g.mmap with
  | none => .next s
  | some m => .next (if m.done < mmapBlocks m.word0 && mmapTurn s g m then mmapBlock s grp g m else s)

/-- The fragment that holds at the group's MMAP. -/
def mmapFrag (g : Group) : Nat := ((g.frags.zipIdx.find? fun p => p.1.hold = .mmap).map (·.2)).getD 0

/-- MMAP_RETIRE (R179): after the last block, PROG is cleared, flags and cuts are added, and the fragment goes on. -/
def execMmapRetire (grp : Nat) (s : State) : Out :=
  let g := grpOf s grp
  match g.mmap with
  | none => .next s
  | some m =>
    if m.done < mmapBlocks m.word0 then .next s
    else
      let ks := pairKeys (teamOf s g.ident.team) g.ident.core m.base
      let x := { addCuts (raise g.special m.flags) m.cuts with prog := 0 }
      let s := setGrp s grp (wake (modFrag { g with mmap := none, mmapSaved := none, special := x } (mmapFrag g) fun f =>
        { f with hold := .none, pc := pcAdd f.pc 4 }))
      .next (wakeAll (endWrite s g.ident.team ks))

/-- An MMAP stopped part way: its blocks' flags added, PROG and the saved words set, its fragment at the MMAP (R179,
R185). -/
def mmapStop (s : State) (k : Nat) (m : MmapRec) : State :=
  let g := grpOf s k
  let prog : DWord := BitVec.ofNat 64 (2 ^ 63 + m.done)
  let ks := pairKeys (teamOf s g.ident.team) g.ident.core m.base
  let g' := { g with
    mmap := none
    mmapSaved := some (m.word0, m.word1, m.rm)
    special := { raise g.special m.flags with prog := prog } }
  endWrite (setGrp s k (modFrag g' (mmapFrag g) fun f => { f with hold := .none })) g.ident.team ks

/-! ## Residue mismatches (R185) -/

/-- A mismatch in an MMA's block on a tile: recomputed once, then UNCORR is held and the MMA writes nothing. -/
def mmaMismatch (s : State) (k : Nat) (o : FlightOp) (tile : Nat) : State :=
  let g := grpOf s k
  if !o.rerun.contains tile then
    modGrp s k fun g => { g with ops := g.ops.map fun x => if x.id = o.id then { x with rerun := x.rerun ++ [tile] } else x }
  else
    let ks := (payloadTiles g.ident.width o.payload).map (tileKey (teamOf s g.ident.team) g.ident.core)
    let s := modGrp s k fun g => holdFault g (causeWord { cls := 0x1C, status := 2 } false) o.pc
    wakeAll (endWrite (dropOp s k o.id) g.ident.team ks)

/-- ARRAY_RESIDUE_MISMATCH (R185): of an MMA by its number, or of the group's MMAP. -/
def execArrayResidueMismatch (grp op tile : Nat) (s : State) : Out :=
  let g := grpOf s grp
  match g.mmap with
  | some m =>
    if m.id = op then
      if m.done ≥ mmapBlocks m.word0 then .next s
      else if !m.rerun.contains tile then
        .next (modGrp s grp fun g => { g with mmap := some { m with rerun := m.rerun ++ [tile] } })
      else
        .next (blame (mmapStop s grp m) grp (mmapFrag g) (causeWord { cls := 0x1C, status := 2 } false))
    else
      match opAt g op with
      | some o => .next (if payloadMma o.payload then mmaMismatch s grp o tile else s)
      | none => .next s
  | none =>
    match opAt g op with
    | some o => .next (if payloadMma o.payload then mmaMismatch s grp o tile else s)
    | none => .next s

end Sys2Proof.Machine
end

