-- ==== Sys2Proof/Machine/Barrier.lean ====
section
/-! DEFINITION. Barriers: arming, arriving, waiting, landing, the watchdog and its snapshot (R211 to R222, R232 to
R235). -/

namespace Sys2Proof.Machine

open Sys2Proof

/-! ## A barrier and its check (R212 to R214) -/

/-- The key of barrier n of a team: on the naming core, or with `.TEAM` on the team's first core (R211). -/
def barKey (t : Team) (core : Nat) (tm : Bool) (n : Nat) : Nat := (if tm then 0 else coreIx t core) * 64 + n

def barOf (s : State) (tm key : Nat) : Bar := tblGet (teamOf s tm).bars key

def setBar (s : State) (tm key : Nat) (b : Bar) : State :=
  modTeam s tm fun t => { t with bars := tblSet t.bars key b }

/-- DONE(q) (R212). -/
def phaseDone (b : Bar) (q : Word) : Bool :=
  let d := (b.ph - q).toNat
  1 ≤ d && d ≤ 2 ^ 31

/-- The fragment waits on a barrier of its team. -/
def waitsOn (key : Nat) (f : Frag) : Bool :=
  match f.hold with
  | .bwait k _ _ => k = key
  | _ => false

/-- A fragment of a group of the team waits on the barrier. -/
def anyWaiter (s : State) (tm key : Nat) : Bool :=
  s.groups.any fun p => p.2.ident.team = tm && p.2.frags.any (waitsOn key)

/-- The fragment waits on the barrier for a phase that is done. -/
def releases (key : Nat) (b : Bar) (f : Frag) : Bool :=
  match f.hold with
  | .bwait k q _ => k = key && phaseDone b q
  | _ => false

/-- A group lets the fragments that wait on a barrier go: none of its fragments is parked (R247). -/
def unparked (g : Group) : Bool := g.frags.all fun f => f.parked.isNone

/-- The fragment goes on at the continuation of its BWAIT or WAITN (R219, R409). -/
def goOn (f : Frag) : Frag :=
  match f.hold with
  | .bwait _ _ next => { f with hold := .none, pc := next, waited := 0 }
  | .waitn _ _ _ next => { f with hold := .none, pc := next, waited := 0 }
  | _ => f

/-- A group whose waiting fragments a completed phase releases: each acquires and goes on at its continuation (R219). -/
def releaseGroup (key : Nat) (b : Bar) (tick : Nat) (g : Group) : Group :=
  if unparked g && g.frags.any (releases key b) then
    let m := g.frags.foldl (fun m f => if releases key b f then m ||| f.mask else m) 0
    wake (settle { learn b.released m g with
      frags := g.frags.map (fun f => if releases key b f then goOn f else f)
      ready := tick })
  else g

/-- The L1 copies of type SI that the acquires of the released groups drop (R289), and the samples of their waits
(R426). -/
def releaseAcquires (s : State) (tm key : Nat) (b : Bar) : State :=
  s.groups.foldl (fun s p =>
    if p.2.ident.team = tm && unparked p.2 && p.2.frags.any (releases key b) then
      sampleWaits (acquireL1 s p.2.ident) p.2.ident.island 2 p.2.ident.ctx (p.2.frags.filter (releases key b)).length
    else s) s

/-- The check of R213 after a change to REMAIN or PEND. -/
def barCheck (s : State) (tm key : Nat) : State :=
  let b := barOf s tm key
  if b.state = .armed && b.remain = 0 && b.pend = 0 then
    let b := { b with
      ph := b.ph + 1, remain := b.expect, timer := 0, state := .complete, arrived := [], released := joinClock b.released b.arrived }
    let s := setBar (releaseAcquires s tm key b) tm key b
    { s with groups := s.groups.map fun p =>
        if p.2.ident.team = tm then (p.1, releaseGroup key b s.tick p.2) else p }
  else s

/-! ## The watchdog (R233 to R235) -/

/-- Bits of the GROUPIDs listed. -/
def groupBits (l : List Nat) : Nat := l.eraseDups.foldl (fun a g => a + 2 ^ (g % 256)) 0

/-- The 16 words of a number of 1,024 bits. -/
def wordsOf (x : Nat) : List DWord := (List.range 16).map fun i => BitVec.ofNat 64 (x / 2 ^ (64 * i))

/-- The ISLAND register of groups on an island (R37). -/
def islandReg (s : State) (i : Nat) : Nat := s.panel.number % 1024 * 2 ^ 16 + i % 64

/-- The snapshot of R234, as a number of 1,024 bits. -/
def snapshotBits (s : State) (tm key : Nat) (b : Bar) (status : Nat) : Nat :=
  let t := teamOf s tm
  let waiting := (s.groups.filter fun p => p.2.ident.team = tm && p.2.frags.any (waitsOn key)).map fun p => p.2.ident.groupId
  let st := if b.state = .timedOut then 4 else 3
  0x18 + status * 2 ^ 8 + t.ctx % 65536 * 2 ^ 16 + t.kern.toNat * 2 ^ 32 + t.teamId.toNat * 2 ^ 64
    + nth t.cores (key / 64) % 256 * 2 ^ 96 + key % 64 * 2 ^ 104 + (if b.teamScope then 1 else 0) * 2 ^ 110
    + st * 2 ^ 112 + b.ph.toNat * 2 ^ 128 + b.expect * 2 ^ 160 + b.remain * 2 ^ 176 + wrap b.pend 40 * 2 ^ 192
    + b.eng * 2 ^ 232 + b.timer / 1000 % 2 ^ 32 * 2 ^ 256 + islandReg s t.island * 2 ^ 288
    + groupBits waiting * 2 ^ 512 + groupBits t.exited * 2 ^ 768

/-- The barrier enters TimedOut or Invalid: its snapshot is queued and the context terminates (R234, R235). -/
def barFail (s : State) (tm key : Nat) (b : Bar) (status : Nat) : State :=
  let t := teamOf s tm
  let s := setBar s tm key b
  let s := enqueueRecord s t.island (wordsOf (snapshotBits s tm key b status))
  terminateCtx s t.island t.ctx

/-- TIMER runs: the barrier is Armed, or Complete with a fragment that waits on it (R232). -/
def timerRuns (s : State) (tm key : Nat) (b : Bar) : Bool :=
  b.state = .armed || (b.state = .complete && anyWaiter s tm key)

/-- TIMER after n ns more (R232). -/
def countTimer (n : Nat) (b : Bar) : Bar := { b with timer := b.timer + n }

/-- n ns pass for the barriers of a team. -/
def countTeam (n : Nat) (s : State) (tm : Nat) (t : Team) : Team :=
  { t with bars := t.bars.map fun b => if timerRuns s tm b.1 b.2 then (b.1, countTimer n b.2) else b }

/-- The time in ns that a step may take, of n: no TIMER that counts goes more than 10 µs beyond its time-out, by which time the
barrier has stopped (R232, R233). -/
def timeRoom (s : State) (n : Nat) : Nat :=
  s.teams.foldl (fun n p =>
    if ctxRuns s p.2.island p.2.ctx then
      p.2.bars.foldl (fun n b => if timerRuns s p.1 b.1 b.2 then min n (1000 * p.2.bartime + 10000 - b.2.timer) else n) n
    else n) n

/-- n ns pass for the barriers of every team whose context's partition runs (R232). -/
def countTimers (n : Nat) (s : State) : State :=
  { s with
    teams := s.teams.map fun p => if ctxRuns s p.2.island p.2.ctx then (p.1, countTeam n s p.1 p.2) else p }

/-- TIMER has reached the time-out (R233). -/
def timerLate (s : State) (tm key : Nat) : Bool :=
  let b := barOf s tm key
  timerRuns s tm key b && 1000 * (teamOf s tm).bartime ≤ b.timer

/-- BARRIER_TIMEOUT (R233): TIMER has reached the time-out of a barrier that is Armed, or Complete with a waiter. -/
def execBarrierTimeout (tm key : Nat) (s : State) : Out :=
  if timerLate s tm key then .next (barFail s tm key { barOf s tm key with state := .timedOut } 1) else .next s

/-! ## Events at a barrier (R214, R217, R218, R227) -/

/-- BARV, BEXP or a landing reaches a Complete barrier. -/
def rearm (b : Bar) : Bar := if b.state = .complete then { b with state := .armed, timer := 0 } else b

/-- n bytes more, or fewer, are due (R218, R227). -/
def barPend (s : State) (tm key : Nat) (b : Bar) (n : Int) : State :=
  let b := rearm b
  if b.pend + n > 2 ^ 39 - 1 || b.pend + n < -(2 ^ 39 : Int) then barFail s tm key { b with state := .invalid } 3
  else barCheck (setBar s tm key { b with pend := b.pend + n }) tm key

/-- A landing of n bytes (R227). -/
def barLand (s : State) (tm key n : Nat) : State :=
  match tblGet? s.teams tm with
  | none => s
  | some _ =>
    let b := barOf s tm key
    barPend s tm key { b with eng := b.eng - 1 } (-(n : Int))

/-! ## The instructions (R215 to R221) -/

/-- The barrier an instruction names. -/
def namedBar (s : State) (cx : Cx) (t : BitVec 1) (n : BitVec 6) : Nat :=
  barKey (teamOf s cx.g.ident.team) cx.g.ident.core (t = 1) n.toNat

/-- The form of a barrier instruction: its index is checked (R215). -/
def barForm (st : BitVec 2) (n : BitVec 6) (reads : List UniUse) (dsts : List Elem) (s : State) (_ : Cx) : Form :=
  { ctlForm st reads with
    bad := fun cx => n.toNat ≥ (teamOf s cx.g.ident.team).nbars
    dsts := dsts }

/-- Another fragment of the group holds at a BARV on the barrier, which comes before in program order (R213). -/
def barvAhead (cx : Cx) (key : Nat) : Bool :=
  cx.g.frags.any fun f => match f.hold with | .barv k _ _ _ => k = key | _ => false

/-- ILLEGAL, STATUS 0x03 (R215). -/
def wrongState : Res := .flt { cls := 0x01, status := 3 }

/-- The fragment goes on past the instruction. -/
def pass (s : State) (cx : Cx) : Res := .ok (modGrp s cx.key (advance 4 cx.ix))

/-- BINIT (R216). -/
def execBinit (st : BitVec 2) (n : BitVec 6) (t : BitVec 1) (k : BitVec 15) (s : State) : Out :=
  issueWith (barForm st n [] []) (fun cx s =>
    let tm := cx.g.ident.team
    let key := namedBar s cx t n
    let b := barOf s tm key
    if barvAhead cx key then .wait
    else if b.state = .idle then
      pass (setBar s tm key { state := .armed, expect := k.toNat, remain := k.toNat, teamScope := t = 1 }) cx
    else if (b.state = .armed || b.state = .complete) && b.expect = k.toNat then pass s cx
    else wrongState) s

/-- An arrival of k at a barrier, which is not Idle (R217): none where it goes beyond REMAIN. -/
def arrive (s : State) (tm key k : Nat) (b : Bar) : State :=
  let b := rearm b
  if k > b.remain then barFail s tm key { b with state := .invalid } 2
  else barCheck (setBar s tm key { b with remain := b.remain - k }) tm key

/-- Accesses of the group issued before the BARV are performed. -/
def accessesDone (g : Group) (before : Nat) : Bool :=
  !(g.ops.any fun o => o.id < before && (o.cls = .load || o.cls = .store))

/-- What a group has accessed so far is released with the present phase of a barrier: by an arrival its lanes' accesses, by an
engine operation's issue the group's (R213, R226). -/
def barRelease (s : State) (key : Nat) (m : Mask) (b : Bar) : State × Bar :=
  if tracked s then (modGrp s key (givenOut m), { b with arrived := joinClock b.arrived (maskClock (grpOf s key) m) }) else (s, b)

/-- A BARV's arrival: S[d] receives the phase, the group has released, the fragment goes on (R217). -/
def barvAct (s : State) (cx : Cx) (key k d : Nat) : State :=
  let tm := cx.g.ident.team
  let b := barOf s tm key
  let s := modGrp s cx.key fun g =>
    wake (modFrag { g with regs := writeS g.regs d (b.ph.setWidth 64) } cx.ix fun f => { f with hold := .none, pc := pcAdd f.pc 4 })
  let r := barRelease s cx.key cx.f.mask b
  arrive r.1 tm key k r.2

/-- BARV (R217). -/
def execBarv (st : BitVec 2) (n : BitVec 6) (t : BitVec 1) (d : BitVec 6) (k : BitVec 9) (s : State) : Out :=
  issueWith (barForm st n [] [.s d.toNat]) (fun cx s =>
    let tm := cx.g.ident.team
    let key := namedBar s cx t n
    if barvAhead cx key || cx.g.frags.any fun f => f.parked.isSome then .wait
    else if accessesDone cx.g s.seq then
      if (barOf s tm key).state = .idle then wrongState
      else .ok (barvAct (setBar s tm key { barOf s tm key with teamScope := t = 1 }) cx key (k.toNat + 1) d.toNat)
    else okGrp s cx (modFrag cx.g cx.ix fun f => { f with hold := .barv key (k.toNat + 1) d.toNat s.seq })) s

/-- BARV_ARRIVAL (R217): its instruction has issued, and arrives in whatever mode the group then is (R333). -/
def execBarvArrival (grp frag : Nat) (s : State) : Out :=
  let g := grpOf s grp
  let f := nth g.frags frag
  match f.hold with
  | .barv key k d before =>
    if !accessesDone g before || !unparked g then .next s
    else
      let cx : Cx := { key := grp, ix := frag, g := g, f := f }
      if (barOf s g.ident.team key).state = .idle then
        let s := modGrp s grp fun g => { g with frags := modNth g.frags frag fun f => { f with hold := .none } }
        .next (takeFault s cx { cls := 0x01, status := 3 })
      else .next (barvAct s cx key k d)
  | _ => .next s

/-- BEXP and its immediate form: n more bytes are due (R218). -/
def bexpOp (st : BitVec 2) (n : BitVec 6) (t : BitVec 1) (reads : List UniUse) (count : Regs → Nat) : State → Out :=
  issueWith (barForm st n reads []) fun cx s =>
    let tm := cx.g.ident.team
    let key := namedBar s cx t n
    let b := barOf s tm key
    if barvAhead cx key then .wait
    else if b.state = .idle then wrongState
    else .ok (barPend (modGrp s cx.key (advance 4 cx.ix)) tm key { b with teamScope := t = 1 } (count cx.g.regs))

/-- BEXP (R218). -/
def execBexp (st : BitVec 2) (n : BitVec 6) (t : BitVec 1) (a : BitVec 6) (s : State) : Out :=
  bexpOp st n t [sUse a.toNat] (fun g => (readS g a.toNat).toNat) s

/-- BEXP with an immediate (R218): 16 bytes a unit. -/
def execBexpImm (st : BitVec 2) (n : BitVec 6) (t : BitVec 1) (i : BitVec 14) (s : State) : Out :=
  bexpOp st n t [] (fun _ => 16 * i.toNat) s

/-- The continuation of a BWAIT or WAITN at pc: off words on. -/
def continuation {w : Nat} (pc : VAddr) (off : BitVec w) : VAddr := pc + (off.signExtend 57) <<< 2

/-- BWAIT (R219). -/
def execBwait (st : BitVec 2) (n : BitVec 6) (t : BitVec 1) (a : BitVec 6) (f : BitVec 9) (s : State) : Out :=
  issueWith (barForm st n [sUse a.toNat] []) (fun cx s =>
    let tm := cx.g.ident.team
    let key := namedBar s cx t n
    let b := barOf s tm key
    let q : Word := (readS cx.g.regs a.toNat).truncate 32
    let dest := continuation cx.f.pc f
    if barvAhead cx key || cx.g.frags.any fun f => f.parked.isSome then .wait
    else if b.state = .idle then wrongState
    else if phaseDone b q then
      .ok (modGrp (acquireClock s cx b.released (if t = 1 then 1 else 2)) cx.key (jump dest cx.ix))
    else
      .ok (modGrp s cx.key fun g => modFrag g cx.ix fun f => { f with hold := .bwait key q dest })) s

/-- BTRY (R220). -/
def execBtry (st : BitVec 2) (n : BitVec 6) (t : BitVec 1) (a : BitVec 6) (c : BitVec 3) (s : State) : Out :=
  issueWith (barForm st n [sUse a.toNat] [.c c.toNat]) (fun cx s =>
    let key := namedBar s cx t n
    let b := barOf s cx.g.ident.team key
    let done := phaseDone b ((readS cx.g.regs a.toNat).truncate 32)
    if barvAhead cx key then .wait
    else if b.state = .idle then wrongState
    else
      let s := if done then acquireClock s cx b.released (if t = 1 then 1 else 2) else s
      .ok (modGrp s cx.key fun g => advance 4 cx.ix { g with regs := writeC g.regs c.toNat done })) s

/-- BINV (R221). -/
def execBinv (st : BitVec 2) (n : BitVec 6) (t : BitVec 1) (s : State) : Out :=
  issueWith (barForm st n [] []) (fun cx s =>
    let tm := cx.g.ident.team
    let key := namedBar s cx t n
    let b := barOf s tm key
    if barvAhead cx key then .wait
    else if b.state = .idle then pass s cx
    else if anyWaiter s tm key || b.eng ≠ 0 then wrongState
    else pass (setBar s tm key {}) cx) s

end Sys2Proof.Machine
end

