-- ==== Sys2Proof/Machine/Engine.lean ====
section
/-! DEFINITION. The copy engines: TCOPY, TSTO, TPREF, ACP16, their pins and locks, and their landings (R224 to R230,
R252). -/

namespace Sys2Proof.Machine

open Sys2Proof

/-! ## Boxes (R223, R226) -/

/-- One row of a box: its team address, its global address, and its in-bounds bits. -/
structure BoxRow where
  taddr : Nat := 0
  gaddr : Nat := 0
  bits : Nat := 0
deriving DecidableEq, Repr, Inhabited

/-- The origin coordinate i of an operand word (R225). -/
def originOf (c : DWord) (i : Nat) : Nat := bits c.toNat (16 * i + 15) (16 * i)

/-- Bits of a row of the box. -/
def rowBits (t : Tensor) : Nat := nth t.box 0 * t.e

/-- Rows of the box. -/
def rowCount (t : Tensor) : Nat := nth t.box 1 * nth t.box 2 * nth t.box 3

/-- Row number j of the box: b1 fastest, then b2, then b3 (R226). Its global address is that of the byte which holds its first
element; of 4-bit elements from an odd one on, the bits of that byte's first element are counted in. -/
def boxRow (t : Tensor) (c : DWord) (ta j : Nat) : BoxRow :=
  let b := [0, j % nth t.box 1, j / nth t.box 1 % nth t.box 2, j / nth t.box 1 / nth t.box 2]
  let k := fun (i : Nat) => originOf c i + nth b i
  let inside := [1, 2, 3].all fun i => k i < nth t.ext i
  { taddr := ta + j * t.pitch
    gaddr := t.base + nth t.str 1 * k 1 + nth t.str 2 * k 2 + nth t.str 3 * k 3 + originOf c 0 * t.e / 8
    bits := if inside && originOf c 0 < nth t.ext 0 then
        min (nth t.box 0) (nth t.ext 0 - originOf c 0) * t.e + originOf c 0 * t.e % 8 else 0 }

/-- The rows of the box. -/
def boxRows (t : Tensor) (c : DWord) (ta : Nat) : List BoxRow := (List.range (rowCount t)).map (boxRow t c ta)

/-- Bytes the operation counts (R226). -/
def boxCount (t : Tensor) : Nat := nth t.box 0 * rowCount t * t.e / 8

/-- A piece of a row, before translation: global address, team address, bits. -/
structure RawPiece where
  gaddr : Nat := 0
  taddr : Nat := 0
  bits : Nat := 0
deriving DecidableEq, Repr, Inhabited

/-- A span of bits cut at 64-byte boundaries of global memory; the fuel bounds the pieces. -/
def cutPieces : Nat → Nat → Nat → Nat → List RawPiece
  | 0, _, _, _ => []
  | n + 1, g, t, b =>
    if b = 0 then []
    else
      let k := min b (8 * (64 - g % 64))
      { gaddr := g, taddr := t, bits := k } :: cutPieces n (g + k / 8) (t + k / 8) (b - k)

/-- The pieces of the in-bounds elements of the box. -/
def boxPieces (rows : List BoxRow) : List RawPiece :=
  rows.flatMap fun r => cutPieces (r.bits / 8 / 64 + 2) r.gaddr r.taddr r.bits

/-- Bytes that n bits touch. -/
def bytesOf (n : Nat) : Nat := (n + 7) / 8

/-- The lowest and the highest global byte of the pieces. -/
def globalSpan (ps : List RawPiece) : Option (Nat × Nat) :=
  ps.foldl (fun (acc : Option (Nat × Nat)) p =>
    let hi := p.gaddr + bytesOf p.bits - 1
    match acc with
    | some a => some (min a.1 p.gaddr, max a.2 hi)
    | none => some (p.gaddr, hi)) none

/-! ## Pins (R252) -/

/-- The distinct pages of hits, by the translations that they use: frame, size, and the address they are mapped at. -/
def pinPages (hs : List Hit) : List (Nat × Nat × Nat) :=
  hs.foldl (fun acc h =>
    if acc.any fun x => x.1 = h.loc.frame then acc
    else acc ++ [(h.loc.frame, h.loc.size, h.va / h.loc.size * h.loc.size)]) []

/-- One page pinned once more. -/
def pinOne (c : Nat) (x : Nat × Nat × Nat) (l : List Pin) : List Pin :=
  if l.any fun p => p.frame = x.1 then
    l.map fun p => if p.frame = x.1 then
      { p with count := p.count + 1, maps := if p.maps.contains (c, x.2.2) then p.maps else p.maps ++ [(c, x.2.2)] } else p
  else l ++ [{ frame := x.1, size := x.2.1, count := 1, maps := [(c, x.2.2)] }]

/-- The page-lock table can take the pages. -/
def pinsFit (m : IslandMem) (ps : List (Nat × Nat × Nat)) : Bool :=
  let fresh := ps.filter fun x => !(m.pins.any fun p => p.frame = x.1)
  m.pins.length + fresh.length ≤ 1024 && m.pins.all fun p => p.count < 65535 || !(ps.any fun x => x.1 = p.frame)

/-- The pages pinned. -/
def pinAll (s : State) (i c : Nat) (ps : List (Nat × Nat × Nat)) : State :=
  modMem s i fun m => { m with pins := ps.foldl (fun l x => pinOne c x l) m.pins }

/-- The pages unpinned at a landing; an entry whose count reaches zero leaves the table. -/
def unpin (s : State) (i : Nat) (frames : List Nat) : State :=
  modMem s i fun m => { m with
    pins := (m.pins.map fun p => if frames.contains p.frame then { p with count := p.count - 1 } else p).filter fun p =>
      p.count ≠ 0 }

/-! ## Issue of an engine operation -/

/-- The check of an engine's global addresses at issue (R228 item 9, R270): no range lock and no race. -/
def checkEngine (s : State) (cx : Cx) (acc : Acc) (wr : Bool) (rs : List Req) : Checked :=
  let id := cx.g.ident
  let t := translateAll id.island id.ctx (privileged id) acc s rs
  match firstProt t.2 with
  | some c => .fault t.1 c
  | none =>
    let v := vcAll id.island id.ctx wr t.1 (hitsOf t.2)
    match firstVcFault v.2 with
    | some c => .fault v.1 c
    | none =>
      if v.2.any fun p => p.2 = .waits then .wait v.1 else .go v.1 (v.2.map (·.1)) (missesOf t.2)

/-- The operation issued, after every earlier access of its group (R226): its locks, pins, ENG of its barrier, its record and its place among the group's operations. -/
def startEngine (s : State) (cx : Cx) (o : EngineOp) (locks : List RangeLock) (pins : List (Nat × Nat × Nat))
    (writes : List RegWrite) (mask : Mask) : State :=
  let id := cx.g.ident
  let n := s.seq
  let o := { o with grp := cx.key, age := cx.g.age, pc := cx.f.pc, ctx := id.ctx, team := id.team, pins := pins.map (·.1) }
  let s := takeLocks (pinAll s id.island id.ctx pins) cx n locks
  let s := modMem s id.island fun m => { m with engines := tblSet m.engines n o }
  let s := if tracked s then modGrp s cx.key (shareLanes (fullMask (lanesIn cx.g))) else s
  let r := barRelease s cx.key (fullMask (lanesIn cx.g)) (barOf s id.team o.bar)
  let s := setBar r.1 id.team o.bar { r.2 with eng := r.2.eng + 1 }
  addOp s cx.key { id := n, cls := .copy, mask := mask, pc := cx.f.pc, writes := writes, payload := .engine n }

/-- The fields of the second operand word (R225). -/
def opRec (w : DWord) : Nat := bits w.toNat 15 0
def opBar (w : DWord) : Nat := bits w.toNat 21 16
def opTm (w : DWord) : Bool := bit w.toNat 22
def opTa (w : DWord) : Nat := bits w.toNat 63 32

/-- The reads of a copy instruction: its condition, and its operand words when that is true (R226). -/
def copyReads (cx : Cx) (c : BitVec 3) (n : BitVec 1) (e : BitVec 6) : List UniUse :=
  [cUse c.toNat] ++ if condTrue cx.g.regs c n then [sUse e.toNat, sUse (e.toNat + 1)] else []

/-- The form of TCOPY, TSTO and TPREF; with a false condition it takes no REGPOISON (R226). -/
def copyForm (st : BitVec 2) (c : BitVec 3) (n : BitVec 1) (e : BitVec 6) (d : Option (BitVec 6)) (_ : State) (cx : Cx) :
    Form :=
  { ctlForm st (copyReads cx c n e) with
    bad := fun _ => e.toNat % 2 ≠ 0
    heeds := condTrue cx.g.regs c n
    dsts := if condTrue cx.g.regs c n then (match d with | some d => [.s d.toNat] | none => []) else [] }

/-- The team spans of a box image. -/
def imageSpans (t : Tensor) (ta : Nat) : List (Nat × Nat) :=
  (List.range (rowCount t)).map fun j => (ta + j * t.pitch, rowBits t / 8)

/-- The last team byte of a box image, plus one. -/
def imageEnd (t : Tensor) (ta : Nat) : Nat := ta + (rowCount t - 1) * t.pitch + rowBits t / 8

/-- Items 3 to 8 of R228. -/
def copyFault (s : State) (cx : Cx) (c w : DWord) (use : ObjUse) : Option Cause :=
  let id := cx.g.ident
  let team := teamOf s id.team
  let ws := objWords s id.island (opRec w)
  let t := tensorOf ws
  if bits w.toNat 31 23 ≠ 0 then some { cls := 0x01, status := 2 }
  else
    match tensorFault ws (opRec w) id.ctx use with
    | some c => some c
    | none =>
      if opBar w ≥ team.nbars then some { cls := 0x01, status := 1 }
      else if (barOf s id.team (barKey team id.core (opTm w) (opBar w))).state = .idle then some { cls := 0x01, status := 3 }
      else if opTa w % 16 ≠ 0 || originOf c 0 * t.e % 128 ≠ 0 then some { cls := 0x08, status := 1 }
      else if imageEnd t (opTa w) > teamExtent team then some { cls := 0x11, status := 2 }
      else none

/-- The locks of TCOPY and TSTO (R230). -/
def copyLocks (kind : Engine) (cx : Cx) (t : Tensor) (ta : Nat) (ps : List RawPiece) : List RangeLock :=
  let tcopy := kind = .tcopy
  [{ engine := kind, team := true, owner := cx.g.ident.team, lo := ta, hi := imageEnd t ta - 1, dest := tcopy }]
    ++ match globalSpan ps with
      | some g => [{ engine := kind, team := false, owner := cx.g.ident.ctx, lo := g.1, hi := g.2, dest := !tcopy }]
      | none => []

/-- The translated pieces of an operation. -/
def enginePieces (hs : List Hit) (ps : List RawPiece) : List EnginePiece :=
  (hs.zip ps).map fun x =>
    { va := x.1.va, phys := some x.1.loc.phys, vn := x.1.vn, taddr := x.2.taddr, bits := x.2.bits, dirtyAt := x.1.loc.dirtyAt }

/-- The requests of pieces: whole addresses of the context. -/
def pieceReqs (ps : List RawPiece) : List Req := ps.map fun p => { t := { base := 0 }, o := p.gaddr }

/-- TCOPY and TSTO with a true condition (R227, R228). -/
def copyBody (kind : Engine) (e d : BitVec 6) (cx : Cx) (s : State) : Res :=
  let id := cx.g.ident
  let tcopy := kind = .tcopy
  let c := readS cx.g.regs e.toNat
  let w := readS cx.g.regs (e.toNat + 1)
  let t := tensorOf (objWords s id.island (opRec w))
  let key := barKey (teamOf s id.team) id.core (opTm w) (opBar w)
  let ps := boxPieces (boxRows t c (opTa w))
  let locks := copyLocks kind cx t (opTa w) ps
  if (barOf s id.team key).eng = 255 || barvAhead cx key then .wait
  else if !locksGranted s cx locks.length then .waitAt (askLocks s cx)
  else
    match copyFault s cx c w (if tcopy then .read else .write) with
    | some c => .flt c
    | none =>
      match checkEngine s cx (if tcopy then .read else .write) (!tcopy) (pieceReqs ps) with
      | .fault s c => .fltAt s c
      | .wait s => .waitAt s
      | .go s hs ms =>
        if ms ≠ [] then .out (park s cx .uniform (if tcopy then .read else .write) 4 ms)
        else
          let pins := pinPages hs
          if !pinsFit (islOf s id.island).mem pins then .waitAt s
          else
            let o : EngineOp := { kind := kind, pieces := enginePieces hs ps, count := boxCount t, bar := key, d := d.toNat
                                  clear := if tcopy then imageSpans t (opTa w) else [] }
            let ws : List RegWrite := if d = 63 then [] else [{ elem := .s d.toNat, val := BitVec.ofNat 64 (boxCount t) }]
            .ok (modGrp (startEngine s cx o locks pins ws cx.f.mask) cx.key (advance 4 cx.ix))

/-- TCOPY (R226, R227). -/
def execTcopy (st : BitVec 2) (c : BitVec 3) (n : BitVec 1) (e d : BitVec 6) (s : State) : Out :=
  issueWith (copyForm st c n e (some d)) (fun cx s =>
    if condTrue cx.g.regs c n then copyBody .tcopy e d cx s else finish 4 id cx s) s

/-- TSTO (R226, R227). -/
def execTsto (st : BitVec 2) (c : BitVec 3) (n : BitVec 1) (e d : BitVec 6) (s : State) : Out :=
  issueWith (copyForm st c n e (some d)) (fun cx s =>
    if condTrue cx.g.regs c n then copyBody .tsto e d cx s else finish 4 id cx s) s

/-- TPREF (R226): it fills the VC, and drops every fault of its global accesses. -/
def execTpref (st : BitVec 2) (c : BitVec 3) (n : BitVec 1) (e : BitVec 6) (s : State) : Out :=
  issueWith (copyForm st c n e none) (fun cx s =>
    if !condTrue cx.g.regs c n then finish 4 id cx s
    else
      let id := cx.g.ident
      let o := readS cx.g.regs e.toNat
      let idx := opRec (readS cx.g.regs (e.toNat + 1))
      let ws := objWords s id.island idx
      match tensorFault ws idx id.ctx .read with
      | some c => .flt c
      | none =>
        let ps := boxPieces (boxRows (tensorOf ws) o 0)
        let tr := translateAll id.island id.ctx (privileged id) .read s (pieceReqs ps)
        let v := vcAll id.island id.ctx false tr.1 (hitsOf tr.2)
        let one := fun (s : State) (p : Hit × VcAns) =>
          match p.2 with
          | .ok vn => modMem s id.island fun m => vcTouch m vn id.core (p.1.loc.phys / 64) false
          | _ => s
        let s := addOp (v.2.foldl one v.1) cx.key { id := 0, cls := .copy, mask := cx.f.mask, pc := cx.f.pc }
        .ok (modGrp s cx.key (advance 4 cx.ix))) s

/-- TPREF_LANDING (R236): the fills are done. -/
def execTprefLanding (grp op : Nat) (s : State) : Out :=
  match opWith (grpOf s grp) .copy op with
  | some o => .next (if o.payload = .none then modGrp s grp fun g => retireOp g o else s)
  | none => .next s

/-! ## ACP16 (R229) -/

/-- The source and destination of each lane. -/
def acpLanes (cx : Cx) (d a : BitVec 7) (t : BitVec 3) : List (Req × Nat) :=
  (lanesOf cx.f.mask).map fun l =>
    ({ lane := some l, t := readT cx.g.regs t.toNat, o := (readV cx.g.regs a.toNat l).toNat }, (readV cx.g.regs d.toNat l).toNat)

/-- The lowest lane whose source or destination is misaligned. -/
def acpAlign (ls : List (Req × Nat)) : Option Cause :=
  (ls.find? fun p => p.1.va % 16 ≠ 0 || p.2 % 16 ≠ 0).map fun p => { cls := 0x08, status := 1, lane := p.1.lane }

/-- The lowest lane whose destination lies beyond the team's extent. -/
def acpExtent (t : Team) (ls : List (Req × Nat)) : Option Cause :=
  (ls.find? fun p => p.2 + 16 > teamExtent t).map fun p => { cls := 0x11, status := 2, lane := p.1.lane }

/-- The PROT of the lower lane of two. -/
def lowerLane (a b : Option Cause) : Option Cause :=
  match a, b with
  | some x, some y => if y.lane.getD 0 < x.lane.getD 0 then some y else some x
  | some x, none => some x
  | none, y => y

/-- The destination of a lane. -/
def acpDest (ls : List (Req × Nat)) (lane : Option Nat) : Nat :=
  ((ls.find? fun p => p.1.lane = lane).map (·.2)).getD 0

/-- The lock of ACP16: lowest to highest destination byte of the lanes it copies (R230). -/
def acpLock (cx : Cx) (ds : List Nat) : RangeLock :=
  { engine := .acp16, team := true, owner := cx.g.ident.team
    lo := ds.foldl min (ds.headD 0), hi := ds.foldl max 0 + 15, dest := true }

/-- The form of ACP16. -/
def acpForm (st : BitVec 2) (d a : BitVec 7) (b : BitVec 6) (s : State) (_ : Cx) : Form :=
  { st := st
    bad := fun cx => badV cx d.toNat 1 || badV cx a.toNat 1 || b.toNat ≥ (teamOf s cx.g.ident.team).nbars
    uses := fun _ l => vUse d.toNat 1 l ++ vUse a.toNat 1 l }

/-- The effect of ACP16 on the lanes that translated. -/
def acpStart (cx : Cx) (s : State) (ls : List (Req × Nat)) (key : Nat) (hs : List Hit) (pins : List (Nat × Nat × Nat)) :
    State :=
  let ds := hs.map fun h => acpDest ls h.lane
  let ps := hs.map fun h => ({ gaddr := h.va, taddr := acpDest ls h.lane, bits := 128 } : RawPiece)
  let o : EngineOp := { kind := .acp16, pieces := enginePieces hs ps, count := 16 * hs.length, bar := key }
  startEngine s cx o [acpLock cx ds] pins [] (hitMask hs)

/-- ACP16 (R229). -/
def execAcp16 (st : BitVec 2) (d a : BitVec 7) (t : BitVec 3) (b : BitVec 6) (s : State) : Out :=
  issueWith (acpForm st d a b) (fun cx s =>
    let id := cx.g.ident
    let team := teamOf s id.team
    let key := barKey team id.core false b.toNat
    let ls := acpLanes cx d a t
    if (barOf s id.team key).eng = 255 || barvAhead cx key then .wait
    else if !locksGranted s cx 1 then .waitAt (askLocks s cx)
    else if (barOf s id.team key).state = .idle then wrongState
    else
      match acpAlign ls with
      | some c => .flt c
      | none =>
        let tr := translateAll id.island id.ctx (privileged id) .read s (ls.map (·.1))
        match lowerLane (firstProt tr.2) (acpExtent team ls) with
        | some c => .fltAt tr.1 c
        | none =>
          let v := vcAll id.island id.ctx false tr.1 (hitsOf tr.2)
          match firstVcFault v.2 with
          | some c => .fltAt v.1 c
          | none =>
            if v.2.any fun p => p.2 = .waits then .waitAt v.1
            else
              let hs := v.2.map (·.1)
              let ms := missesOf tr.2
              let pins := pinPages hs
              if hs = [] then .out (park v.1 cx .lane .read 4 ms)
              else if !pinsFit (islOf v.1 id.island).mem pins then .waitAt v.1
              else .ok (passOrPark (acpStart cx v.1 ls key hs pins) cx .read 4 ms)) s

/-! ## Landing (R227, R229, R311, R312) -/

/-- The bytes of a piece of global memory, with poisoned quarters read as zero, and whether any was. -/
def pieceData (s : State) (i p n : Nat) : List Byte × Bool :=
  let bs := (List.range n).map fun j =>
    if marked s i (p + j) then (0#8, true) else ((physBytes s i (p + j) 1).headD 0, false)
  (bs.map (·.1), bs.any (·.2))

/-- Bytes with the bits beyond the n low ones zero. -/
def trimBits (bs : List Byte) (n : Nat) : List Byte :=
  if n % 8 = 0 then bs else bs.zipIdx.map fun p => if p.2 = n / 8 then p.1 &&& 0x0F else p.1

/-- The writes of a TCOPY or ACP16 into team memory, and whether data was poisoned. -/
def landReads (s : State) (i : Nat) (ps : List EnginePiece) : List (Nat × List Byte) × Bool :=
  let l := ps.map fun p =>
    let n := bytesOf p.bits
    match p.phys with
    | some a =>
      let d := pieceData s i a n
      ((p.taddr, trimBits d.1 p.bits), d.2)
    | none => ((p.taddr, List.replicate n (0 : Byte)), false)
  (l.map (·.1), l.any (·.2))

/-- Quarters that n bytes at p cover whole. -/
def wholeQuarters (p n : Nat) : List Nat :=
  (List.range (n / 16 + 1)).filterMap fun j =>
    let q := p / 16 + j
    if p ≤ 16 * q && 16 * q + 16 ≤ p + n then some q else none

/-- One piece of a TSTO stored: its bytes, D, the sector's place, and whole quarters' marks cleared (R240, R312). -/
def landStore (i core : Nat) (m : Memory) (s : State) (p : EnginePiece) : State :=
  match p.phys with
  | none => s
  | some a =>
    let n := bytesOf p.bits
    let bs := memBytes m p.taddr n
    let old := physBytes s i (a + n - 1) 1
    let bs := if p.bits % 8 = 0 then bs
      else bs.zipIdx.map fun x => if x.2 = n - 1 then (x.1 &&& 0x0F) ||| (old.headD 0 &&& 0xF0) else x.1
    let s := setDirty s i a p.dirtyAt
    let s := clearMarks (physPut s i a bs) i (wholeQuarters a (p.bits / 8))
    modMem s i fun x => cacheAccess x p.vn core 1024 (a / 64) 0 .store

/-- The status word of a landing that met poisoned data (R227). -/
def badStatus : DWord := 0x800000000000011C

/-- The data of an operation moved: the state, and whether poisoned data was met. A TSTO whose team has ended stores the
team memory that it keeps; nothing is left to receive what other operations read (R332). -/
def landData (s : State) (i : Nat) (o : EngineOp) : State × Bool :=
  let core := (tblGet s.groups o.grp).ident.core
  match tblGet? s.teams o.team with
  | none =>
    match o.own with
    | some x => (if o.kind = .tsto then o.pieces.foldl (landStore i core x.1) s else s, false)
    | none => (s, false)
  | some t =>
    if o.kind = .tsto then
      let s := if touchesDead t (o.pieces.map fun p => (p.taddr, bytesOf p.bits)) then holdLost s o.grp o.pc else s
      (o.pieces.foldl (landStore i core t.mem) s, false)
    else
      let r := landReads s i o.pieces
      let s := o.pieces.foldl (fun s p => match p.phys with
        | some a => modMem s i fun x => vcTouch x p.vn core (a / 64) false
        | none => s) s
      (modTeam s o.team fun t => teamPut t ((o.clear.map fun c => (c.1, List.replicate c.2 (0 : Byte))) ++ r.1), r.2)

/-- The issuing group's own record of the operation ends: the status in S[d], and UNCORR held where data was poisoned. -/
def landGroup (s : State) (n : Nat) (o : EngineOp) (bad : Bool) : State :=
  match tblGet? s.groups o.grp with
  | none => s
  | some g =>
    if g.age ≠ o.age then s
    else
      let v := if bad then badStatus else BitVec.ofNat 64 o.count
      let g := if bad then holdFault g (causeWord { cls := 0x1C, status := 1 } false) o.pc else g
      setGrp s o.grp (wake { g with
        ops := g.ops.filter fun x => x.id ≠ n
        regs := if o.kind = .acp16 then g.regs else writeS g.regs o.d v })

/-- A landing, in the order of R227: data, locks, barrier, status, pins. -/
def land (s : State) (i n : Nat) (o : EngineOp) : State :=
  let r := landData s i o
  let s := modMem r.1 i fun m => { m with
    locks := m.locks.filter fun k => k.op ≠ n
    engines := tblDel m.engines n }
  let s := barLand s o.team o.bar o.count
  let s := landGroup s n o r.2
  wakeAll (unpin s i o.pins)

/-- The memory of all pieces can be reached now (R393). -/
def piecesReach (s : State) (ps : List EnginePiece) : Bool := ps.all fun p => p.phys.all (reachable s)

/-- ENGINE_LANDING (R227). -/
def execEngineLanding (island op : Nat) (s : State) : Out :=
  match tblGet? (islOf s island).mem.engines op with
  | some o => .next (if o.kind = .acp16 || !piecesReach s o.pieces then s else land s island op o)
  | none => .next s

/-- ACP16_LANDING (R229). -/
def execAcp16Landing (island op : Nat) (s : State) : Out :=
  match tblGet? (islOf s island).mem.engines op with
  | some o => .next (if o.kind = .acp16 && piecesReach s o.pieces then land s island op o else s)
  | none => .next s

end Sys2Proof.Machine
end

