-- ==== Sys2Proof/Machine/Special.lean ====
section
/-! DEFINITION. The functions of the special-function engine (R146): each value is enclosed between two dyadic
numbers at rising precision until both round alike (log 11). Fixed-point numbers here are integers in units
of 2^(−q). -/

namespace Sys2Proof.Machine

open Sys2Proof

/-- The functions of the engine, coded as FEEDW's b (R56). -/
inductive SpecialFn where
  | exp2 | log2 | sin | cos | tanh | rsqrt | erf
deriving DecidableEq, Repr, Inhabited

def specialFn (b : Nat) : SpecialFn :=
  match b with
  | 0 => .exp2 | 1 => .log2 | 2 => .sin | 3 => .cos | 4 => .tanh | 5 => .rsqrt | _ => .erf

/-- a × b in fixed point, rounded down. -/
def fxMul (q : Nat) (a b : Int) : Int := a * b / (2 ^ q : Nat)

/-- m × 2^e in fixed point, rounded down. -/
def fxOf (q m : Nat) (e : Int) : Int :=
  let k := e + q
  if 0 ≤ k then (m * 2 ^ k.toNat : Nat) else (m / 2 ^ (-k).toNat : Nat)

/-- Σ of the terms p/(2k + 1), where p starts at p and is divided by d at each step, with alternating signs when
alt holds. -/
def fxArcSum (alt : Bool) (d : Nat) : Nat → Nat → Int → Int
  | 0, _, _ => 0
  | fuel + 1, k, p =>
    let t := p / (2 * k + 1 : Nat)
    t + (if alt then -1 else 1) * fxArcSum alt d fuel (k + 1) (p / (d : Int))

/-- ln 2 = 2 artanh(1/3). -/
def fxLn2 (q : Nat) : Int := 2 * fxArcSum false 9 (q / 3 + 2) 0 ((2 ^ q : Nat) / 3)

/-- π by Machin's formula. -/
def fxPi (q : Nat) : Int :=
  16 * fxArcSum true 25 (q / 4 + 2) 0 ((2 ^ q : Nat) / 5)
    - 4 * fxArcSum true 57121 (q / 15 + 2) 0 ((2 ^ q : Nat) / 239)

/-- Σ of Taylor terms: each is the last times y divided by the product of the next n integers from k. -/
def fxTaylor (q : Nat) (y : Int) (n : Nat) : Nat → Nat → Int → Int
  | 0, _, _ => 0
  | fuel + 1, k, t =>
    let d : Int := if n = 1 then (k : Int) else (k : Int) * (k + 1)
    t + fxTaylor q y n fuel (k + n) (fxMul q t y / d)

/-- e^y for 0 ≤ y < 1. -/
def fxExp (q : Nat) (y : Int) : Int := fxTaylor q y 1 (q / 4 + 8) 1 (2 ^ q : Nat)

/-- sin y for 0 ≤ y < 2. -/
def fxSin (q : Nat) (y : Int) : Int := fxTaylor q (-(fxMul q y y)) 2 (q / 8 + 8) 2 y

/-- cos y for 0 ≤ y < 2. -/
def fxCos (q : Nat) (y : Int) : Int := fxTaylor q (-(fxMul q y y)) 2 (q / 8 + 8) 1 (2 ^ q : Nat)

/-- artanh(s) for 0 ≤ s ≤ 1/3, by s, s³/3, s⁵/5, … -/
def fxArtanh (q : Nat) (s2 : Int) : Nat → Nat → Int → Int
  | 0, _, _ => 0
  | fuel + 1, k, p => p / (2 * k + 1 : Nat) + fxArtanh q s2 fuel (k + 1) (fxMul q p s2)

/-- Σ (−1)^k y^(2k + 1)/(k! (2k + 1)), the sum of erf. -/
def fxErfSum (q : Nat) (y2 : Int) : Nat → Nat → Int → Int
  | 0, _, _ => 0
  | fuel + 1, k, t =>
    t / (2 * k + 1 : Nat) + fxErfSum q y2 fuel (k + 1) (-(fxMul q t y2) / (k + 1 : Nat))

/-- The value just below m × 2^e, with no rounding point between. -/
def justBelow (neg : Bool) (m : Nat) (e : Int) : Ext := .real neg (m * 2 ^ 80 - 1) (e - 80)

/-- An enclosure: lowest and highest integer, in units of 2^x. -/
abbrev Enclosure := Int × Int × Int

/-- 2^v for v = (−1)^neg m 2^e. -/
def encExp2 (q : Nat) (neg : Bool) (m : Nat) (e : Int) : Enclosure :=
  let v := if neg then -(fxOf q m e) else fxOf q m e
  let n := v / (2 ^ q : Nat)
  let f := v - n * (2 ^ q : Nat)
  let r := fxExp q (fxMul q f (fxLn2 q))
  let er : Int := 2 ^ 16
  (r - er, r + er, n - q)

/-- log2 of m × 2^e. -/
def encLog2 (q m : Nat) (e : Int) : Enclosure :=
  let k := expOf m e
  let z : Int := fxOf q m (-(Nat.log2 m : Int))
  let one : Int := (2 ^ q : Nat)
  let s := (z - one) * one / (z + one)
  let ln := 2 * fxArtanh q (fxMul q s s) (q / 3 + 2) 0 s
  let r := k * one + ln * one / fxLn2 q
  let er : Int := 2 ^ 16
  (r - er, r + er, -(q : Int))

/-- sin or cos of m × 2^e ≥ 0. -/
def encSin (isCos : Bool) (q0 m : Nat) (e : Int) : Enclosure :=
  let q := q0 + 160
  let half := fxPi q / 2
  let v := fxOf q m e
  let k := v / half
  let r := v - k * half
  let j := ((if isCos then k + 1 else k) % 4).toNat
  let y := if j % 2 = 0 then fxSin q r else fxCos q r
  let y := if j < 2 then y else -y
  let er : Int := 2 ^ 150
  (y - er, y + er, -(q : Int))

/-- tanh of m × 2^e > 0, below 128. -/
def encTanh (q0 m : Nat) (e : Int) : Enclosure :=
  let q := q0 + 400
  let one : Int := (2 ^ q : Nat)
  let y := 2 * fxOf q m e
  let l2 := fxLn2 q
  let n := y / l2
  let ex := fxExp q (y - n * l2) * 2 ^ n.toNat
  let er : Int := 2 ^ 300
  let r := (ex - one) * one / (ex + one)
  (r - er, r + er, -(q : Int))

/-- erf of m × 2^e > 0, below 8. -/
def encErf (q0 m : Nat) (e : Int) : Enclosure :=
  let q := q0 + 200
  let y := fxOf q m e
  let s := fxErfSum q (fxMul q y y) (q + 200) 0 y
  let root : Int := isqrt ((fxPi q).toNat * 2 ^ q)
  let r := 2 * s * (2 ^ q : Nat) / root
  let er : Int := 2 ^ 150
  (r - er, r + er, -(q : Int))

/-- The value an enclosure's end stands for. -/
def encEnd (i x : Int) : Ext := if i = 0 then .zero false else .real (i < 0) i.natAbs x

/-- Rounds an enclosure, when both its ends round alike. -/
def decideEnc (f : FFmt) (mode : RMode) (neg : Bool) (c : Enclosure) : Option Rounded :=
  let sg := fun x => if neg then extNegate x else x
  let a := rnd f mode (sg (encEnd c.1 c.2.2))
  let b := rnd f mode (sg (encEnd c.2.1 c.2.2))
  if c.1 ≠ 0 && c.2.1 ≠ 0 && a = b then some a else none

/-- Tries the listed precisions in turn; the last one's middle stands where none decides (log 11). -/
def tryEnc (f : FFmt) (mode : RMode) (neg : Bool) (enc : Nat → Enclosure) : List Nat → Rounded
  | [] =>
    let c := enc 1600
    rnd f mode (let x := encEnd ((c.1 + c.2.1) / 2) c.2.2; if neg then extNegate x else x)
  | q :: t => match decideEnc f mode neg (enc q) with
    | some r => r
    | none => tryEnc f mode neg enc t

/-- The precisions tried, in bits. -/
def precisions : List Nat := [192, 416, 800]

/-- RND(fmt, mode, f(x)) with its flags (R146). LOG2 of 1 is +0 in every mode (log 11). -/
def specialRnd (fn : SpecialFn) (f : FFmt) (mode : RMode) (x : Ext) : Rounded :=
  let exact (r : Ext) (fl : Flg) : Rounded := let o := rnd f mode r; (o.1, o.2 ||| fl)
  let bad : Rounded := (canonicalNan f, flgNV)
  let one := Ext.real false 1 0
  match x with
  | .nan sg => (canonicalNan f, if sg then flgNV else 0)
  | .inf neg =>
    match fn with
    | .exp2 => exact (if neg then .zero false else .inf false) 0
    | .log2 => if neg then bad else exact (.inf false) 0
    | .sin | .cos => bad
    | .tanh | .erf => exact (if neg then extNegate one else one) 0
    | .rsqrt => if neg then bad else exact (.zero false) 0
  | .zero neg =>
    match fn with
    | .exp2 | .cos => exact one 0
    | .log2 => exact (.inf true) flgDZ
    | .sin | .tanh | .erf => exact (.zero neg) 0
    | .rsqrt => exact (.inf neg) flgDZ
  | .real neg m e =>
    let lg := expOf m e
    match fn with
    | .exp2 =>
      if lg ≥ 12 then exact (if neg then .real false (2 ^ 80 + 1) (-4000) else .real false (2 ^ 80 + 1) 4000) 0
      else if (roundInt .rz x).2 then
        let k : Int := (m : Int) * 2 ^ e.toNat / 2 ^ (-e).toNat
        exact (.real false 1 (if neg then -k else k)) 0
      else tryEnc f mode false (fun q => encExp2 q neg m e) precisions
    | .log2 =>
      if neg then bad
      else if m = 2 ^ Nat.log2 m then exact (extOfInt lg) 0
      else tryEnc f mode false (fun q => encLog2 q m e) precisions
    | .sin =>
      if lg < -100 then exact (justBelow neg m e) 0
      else tryEnc f mode neg (fun q => encSin false q m e) precisions
    | .cos =>
      if lg < -100 then exact (justBelow false 1 0) 0
      else tryEnc f mode false (fun q => encSin true q m e) precisions
    | .tanh =>
      if lg < -100 then exact (justBelow neg m e) 0
      else if lg ≥ 6 then exact (justBelow neg 1 0) 0
      else tryEnc f mode neg (fun q => encTanh q m e) precisions
    | .rsqrt =>
      if neg then bad
      else
        let m1 := if e % 2 = 0 then m else 2 * m
        let e1 := if e % 2 = 0 then e else e - 1
        let r := isqrt (2 ^ 240 / m1)
        let r := if r * r * m1 = 2 ^ 240 then r else if r % 2 = 0 then r + 1 else r
        exact (.real false r (-120 - e1 / 2)) 0
    | .erf =>
      if lg < -100 then
        tryEnc f mode neg (fun q =>
          let root : Int := isqrt ((fxPi q).toNat * 2 ^ q)
          let c := 2 * (2 ^ (2 * q) : Nat) / root * m
          (c - (2 ^ 40 : Nat) * m, c + (2 ^ 40 : Nat) * m, e - q)) precisions
      else if lg ≥ 3 then exact (justBelow neg 1 0) 0
      else tryEnc f mode neg (fun q => encErf q m e) precisions

end Sys2Proof.Machine
end

