-- ==== Sys2Proof/Machine/Feed.lean ====
section
/-! DEFINITION. Feed queues, the special-function engine, and what a collective stream places in Q3 (R144 to R150, R417). -/

namespace Sys2Proof.Machine

open Sys2Proof

/-- The window GSTAT.QWIN selects (R149). -/
def selWin (g : Group) : FeedWindow := if g.hmode then g.win1 else g.win0

/-- Window w of the group changed by f. -/
def modWin (w : Nat) (f : FeedWindow → FeedWindow) (g : Group) : Group :=
  if w = 0 then { g with win0 := f g.win0 } else { g with win1 := f g.win1 }

/-- The number of the selected window. -/
def winNo (g : Group) : Nat := if g.hmode then 1 else 0

/-- Q1's places taken: its entries and the results still in flight for the window (R148). -/
def q1Load (w : FeedWindow) : Nat := w.q1.length + w.taken.length

/-- The entry a FEEDW pushes, the operation of number n (R145). -/
def pushedEntry (cx : Cx) (n : Nat) (a : BitVec 7) (b : BitVec 7) (m : BitVec 2) : FeedEntry :=
  { id := n, mask := cx.f.mask, fmt := m, fn := b, rm := rmOf cx.g.special
    vals := lanes64.map fun l =>
      if inMask cx.f.mask l then
        (if m = 3 then BitVec.ofNat 64 (readPair cx.g.regs a.toNat l) else (readV cx.g.regs a.toNat l).setWidth 64)
      else 0 }

/-- The fragment waits for Q2 or Q3, up to the barrier time-out from now, or from the start of a wait that goes on (R148). -/
def waitFeed (s : State) (cx : Cx) : Res :=
  .out (modGrp s cx.key fun g =>
    { g with frags := modNth g.frags cx.ix fun f => { f with waiting := true, feedSince := f.feedSince.or (some s.panel.ptime) } })

/-- FEED with a status (R148). -/
def feedFault (status : BitVec 8) : Res := .flt { cls := 0x1B, status := status }

/-- An entry popped into d: the lanes of both masks are written, and their flags raised (R147). -/
def popInto (e : FeedEntry) (d : BitVec 7) (m : BitVec 2) (cx : Cx) (g : Group) : Group :=
  let k := e.mask &&& cx.f.mask
  let r := laneResults k fun l => ((e.vals.getD l 0).toNat, e.flgs.getD l 0)
  { g with regs := writeF g.regs d.toNat k m r, special := raise g.special (laneFlags r) }

/-- SPECIAL_FUNCTION_ENTRY_TAKEN (R148): the engine takes the oldest Q0 entry when Q1 has a place for its result. -/
def execSpecialFunctionEntryTaken (grp win : Nat) (s : State) : Out :=
  .next (modGrp s grp fun g =>
    wake (modWin win (fun w =>
      match w.q0 with
      | e :: t => if q1Load w < 8 then { w with q0 := t, taken := w.taken ++ [e] } else w
      | [] => w) g))

/-- The result entry of an operand entry (R146). -/
def specialEntry (e : FeedEntry) : FeedEntry :=
  let f := efmt e.fmt
  let fn := specialFn e.fn.toNat
  let md := rmode e.rm
  let r := laneResults e.mask fun l =>
    halves e.fmt fun h =>
      let x := (e.vals.getD l 0).toNat
      specialRnd fn f md (dec f (if packed e.fmt then x / 2 ^ (16 * h) % 2 ^ 16 else x))
  { e with vals := r.map fun x => BitVec.ofNat 64 x.1, flgs := r.map fun x => x.2 }

/-- SPECIAL_FUNCTION_RESULT (R146): the oldest entry taken has its result, in the window that pushed it. -/
def execSpecialFunctionResult (grp win : Nat) (s : State) : Out :=
  .next (modGrp s grp fun g =>
    wake (modWin win (fun w =>
      match w.taken with
      | e :: t => { w with taken := t, q1 := w.q1 ++ [specialEntry e] }
      | [] => w) g))

/-- A fragment's wait on Q2 or Q3 has reached its kernel's barrier time-out (R148). -/
def feedLate (s : State) (g : Group) (f : Frag) : Bool :=
  f.waiting && inMode g f
    && f.feedSince.any fun t => t + 1000 * (teamOf s g.ident.team).bartime ≤ s.panel.ptime

/-- FEED_TIMEOUT (R148). -/
def execFeedTimeout (grp frag : Nat) (s : State) : Out :=
  let f := nth (grpOf s grp).frags frag
  if feedLate s (grpOf s grp) f then
    .next (deliver s grp (causeWord { cls := 0x1B, status := 4 } false) f.pc f.mask)
  else .next s

/-! ## What a group's stream owes its Q3 (R417) -/

/-- The result entry of a taken entry, whose first element is number j: +0 past the count. -/
def resultEntry (t : Stream) (e : FeedEntry) : FeedEntry :=
  let ls := lanesOf e.mask
  { e with
    fmt := 0, flgs := []
    vals := lanes64.map fun l =>
      match ls.findIdx? (· = l) with
      | some j => if t.given + j < t.count then ((t.results.getD (t.given + j) 0).setWidth 64) else 0
      | none => 0 }

/-- The results of the oldest taken entry are all there. -/
def entryReady (t : Stream) (e : FeedEntry) : Bool := min (t.given + (lanesOf e.mask).length) t.count ≤ t.results.length

/-- Results placed in Q3 while they are ready and it has room; the fuel is the number of entries due. -/
def giveQ3 : Nat → State → Nat → Nat → Nat → State
  | 0, s, _, _, _ => s
  | f + 1, s, i, k, n =>
    let w := (grpOf s k).win0
    match w.due, tblGet? (islOf s i).streams n with
    | e :: es, some t =>
      if entryReady t e && w.q3.length < 8 then
        let s := modGrp s k fun g => wake { g with win0 := { g.win0 with due := es, q3 := g.win0.q3 ++ [resultEntry t e] } }
        let s := modIsl s i fun x =>
          { x with streams := tblSet x.streams n { t with given := t.given + (lanesOf e.mask).length } }
        giveQ3 f s i k n
      else s
    | _, _ => s

end Sys2Proof.Machine
end

