-- ==== Sys2Proof/Machine/Fetch.lean ====
section
/-! DEFINITION. Which fragment issues next, and the fetch of its instruction (R61, R190, R207, R208, R270). -/

namespace Sys2Proof.Machine

open Sys2Proof

/-! ## The fragment that offers (R190, R206, R323) -/

/-- A fragment may offer its instruction: resident, of the group's mode, not waiting, holding at nothing but an
instruction that issues again at its own PC. -/
def offers (g : Group) (f : Frag) : Bool :=
  f.slot < 2 && f.parked.isNone && !f.waiting && inMode g f &&
    match f.hold with
    | .none => true
    | .tfence b => fenceDone g b
    | .trinv .. => true
    | _ => false

/-- Of two fragments the one that offers first: lower PC, then lower slot (R190). -/
def sooner (a b : Frag) : Bool := a.pc.toNat < b.pc.toNat || (a.pc = b.pc && a.slot < b.slot)

/-- The place of the fragment the group offers from. -/
def offering (g : Group) : Option Nat :=
  if g.state ≠ .active || g.halted || g.stall ≠ 0 || g.trapReq.isSome || g.draining.isSome then none
  else
    (g.frags.zipIdx.foldl (fun (best : Option (Frag × Nat)) p =>
      if !offers g p.1 then best
      else match best with
        | some b => if sooner p.1 b.1 then some p else some b
        | none => some p) none).map (·.2)

/-- The group's cores issue for its context: it is Running, or the group is the management core's (R316, R318). -/
def mayIssue (s : State) (g : Group) : Bool :=
  !quarantined s g.ident.island && (g.ident.mgmt || ctxRuns s g.ident.island g.ident.ctx)

/-- What a step finds of a group's readiness (R205): when it last became ready, and whether it is held or waits; `runs`: its
core issues for it. -/
def readiness (tick : Nat) (runs : Bool) (g : Group) : Group :=
  let now := runs && (offering g).isSome
  let held := !(runs && (offering { g with stall := 0 }).isSome)
  { g with ready := if now && !g.isReady then tick else g.ready, isReady := now, idle := g.idle || held }

/-- Every group's readiness at this step. -/
def noteReady (s : State) : State := { s with groups := s.groups.map fun p => (p.1, readiness s.tick (mayIssue s p.2) p.2) }

/-- The issuer of the next instruction: the group longest ready, then the lowest key (R206; log 3). -/
def nextIssuer (s : State) : Option Issuer :=
  (s.groups.foldl (fun (best : Option (Nat × Issuer)) p =>
    match if mayIssue s p.2 then offering p.2 else none with
    | none => best
    | some j =>
      match best with
      | some b => if p.2.ready < b.1 then some (p.2.ready, { grp := p.1, frag := j }) else some b
      | none => some (p.2.ready, { grp := p.1, frag := j })) none).map (·.2)

/-! ## Fetch (R61, R241, R270) -/

/-- What fetching one word comes to. -/
inductive Word1 where
  | ok (s : State) (bytes : List Byte)
  | fault (s : State) (c : Cause)
  | wait (s : State)
  | miss (s : State) (m : Miss)

/-- The four bytes of a word at a virtual address, through the pages of the issuing context. -/
def fetchWord (s : State) (cx : Cx) (va : VAddr) : Word1 :=
  let id := cx.g.ident
  let t := translate s id.island id.ctx (privileged id) va.toNat .fetch 0
  match t.2 with
  | .prot st => .fault t.1 { cls := 0x11, status := BitVec.ofNat 8 st }
  | .page st lvl n => .miss t.1 { va := va.toNat, status := st, level := lvl, size := n }
  | .ok l =>
    let e := vctEntry t.1 id.island id.ctx l.vcx 0
    match hostAns e.1 l.phys (vcCheck (islOf e.1 id.island).mem id.ctx e.2 false) with
    | .fault st vn => .fault e.1 { cls := 0x13, status := BitVec.ofNat 8 st, info := vcInfo l.vcx vn }
    | .waits => .wait e.1
    | .ok vn =>
      .ok (modMem e.1 id.island fun m => vcTouch m vn id.core (l.phys / 64) false)
        (physBytes e.1 id.island l.phys 4)

/-- What fetching and decoding an instruction comes to. -/
inductive Fetched where
  | instr (s : State) (i : Instr)
  | fault (s : State) (c : Cause)
  | wait (s : State)
  | miss (s : State) (m : Miss)

/-- ILLEGAL of a word that is no instruction (R63, R64). -/
def illegal (r : Reject) : Cause := { cls := 0x01, status := if r = .operand then 1 else 0 }

/-- The instruction at the fragment's PC; the second word is fetched where the first asks for one (R61). -/
def fetch (s : State) (cx : Cx) : Fetched :=
  match fetchWord s cx cx.f.pc with
  | .fault s c => .fault s c
  | .wait s => .wait s
  | .miss s m => .miss s m
  | .ok s b0 =>
    match decode b0 with
    | .ok p => .instr s p.1
    | .error .truncated =>
      match fetchWord s cx (pcAdd cx.f.pc 4) with
      | .fault s c => .fault s c
      | .wait s => .wait s
      | .miss s m => .miss s m
      | .ok s b1 =>
        match decode (b0 ++ b1) with
        | .ok p => .instr s p.1
        | .error r => .fault s (illegal r)
    | .error r => .fault s (illegal r)

end Sys2Proof.Machine
end

