-- ==== Sys2Proof/Machine/Chain.lean ====
section
/-! DEFINITION. Chains: the header, the links and their checks, the values, cuts, retirement (R65, R151 to R165). -/

namespace Sys2Proof.Machine

open Sys2Proof

/-! ## Links (R152, R153) -/

/-- What a link computes. -/
inductive LinkOp where
  | add | sub | mul | fma | div | sqrt | min | max | scl | abs | neg | relu | sign
  | cvt (t : Nat) (sat : Bool)
  | cmp (c : Nat)
deriving DecidableEq, Repr, Inhabited

/-- An operand of a link: its first register, its format; `bindable` is false for the I32 operand of FSCL. -/
structure LinkSrc where
  reg : Nat := 0
  fmt : FFmt := .f32
  bindable : Bool := true
deriving DecidableEq, Repr, Inhabited

/-- An admitted link: operation, stream format, operands in order, destination register. -/
structure Link where
  op : LinkOp := .abs
  fmt : FFmt := .f32
  srcs : List LinkSrc := []
  dst : Nat := 0
deriving DecidableEq, Repr, Inhabited

/-- Registers of a value of a format. -/
def fmtSpan (f : FFmt) : Nat := if f = .f64 then 2 else 1

/-- The link yields a stream, not a predicate. -/
def Link.isStream (k : Link) : Bool :=
  match k.op with
  | .cmp _ => false
  | _ => true

/-- The FUN sub-operations that R153 admits. -/
def funLink (u : Nat) : Option LinkOp :=
  match u with
  | 0 => some .sqrt | 1 => some .abs | 2 => some .neg | 3 => some .relu | 8 => some .sign | _ => none

/-- A link of format code m, which must be F32 or F64, with V operands. -/
def plainLink (op : LinkOp) (m : BitVec 2) (d : BitVec 7) (srcs : List (BitVec 7)) : Option Link :=
  if packed m then none
  else some { op := op, fmt := efmt m, dst := d.toNat, srcs := srcs.map fun r => { reg := r.toNat, fmt := efmt m } }

/-- The link an instruction is, where R153 admits it. -/
def linkOf (i : Instr) : Option Link :=
  match i with
  | .fadd _ d a b m => plainLink .add m d [a, b]
  | .fsub _ d a b m => plainLink .sub m d [a, b]
  | .fmul _ d a b m => plainLink .mul m d [a, b]
  | .fma _ d a b m => plainLink .fma m d [a, b, d]
  | .fdiv _ d a b m => plainLink .div m d [a, b]
  | .fmin _ d a b m => plainLink .min m d [a, b]
  | .fmax _ d a b m => plainLink .max m d [a, b]
  | .fscl _ d a b m =>
    if packed m then none
    else some { op := .scl, fmt := efmt m, dst := d.toNat,
                srcs := [{ reg := a.toNat, fmt := efmt m }, { reg := b.toNat, bindable := false }] }
  | .funOp _ d a u m =>
    match funLink u.toNat with
    | none => none
    | some op => plainLink op m d [a]
  | .cvt _ d a t u x =>
    if t.toNat < 7 && u.toNat < 7 then
      some { op := .cvt t.toNat (x = 1), fmt := cvtFmt t.toNat, dst := d.toNat,
             srcs := [{ reg := a.toNat, fmt := cvtFmt u.toNat }] }
    else none
  | .fcmp _ p c a b m =>
    if packed m then none
    else some { op := .cmp c.toNat, fmt := efmt m, dst := p.toNat,
                srcs := [{ reg := a.toNat, fmt := efmt m }, { reg := b.toNat, fmt := efmt m }] }
  | _ => none

/-! ## The operand cases of a link word (R65) -/

/-- The V operands of a link word: first register and span. -/
def linkSpans (cx : Cx) (i : Instr) : List (BitVec 7 × Nat) :=
  let sh := fun (f : BitVec 2) => blockShape f (lanesIn cx.g)
  match i with
  | .iadd _ d a b m | .isub _ d a b m | .imul _ d a b m | .imulh _ d a b m | .imad _ d a b m | .imin _ d a b m
  | .imax _ d a b m | .iaddsat _ d a b m | .and _ d a b m | .or _ d a b m | .xor _ d a b m | .andn _ d a b m
  | .shl _ d a b m | .shr _ d a b m =>
    [(d, laneRegs m), (a, laneRegs m), (b, laneRegs m)]
  | .icmp _ _ _ a b m => [(a, laneRegs m), (b, laneRegs m)]
  | .iun _ d a _ m | .redux _ d a _ m => [(d, laneRegs m), (a, laneRegs m)]
  | .iaddi _ d a _ | .andi _ d a _ | .ori _ d a _ | .xori _ d a _ | .shli _ d a _ | .shri _ d a _ _
  | .shfli _ d a _ _ => [(d, 1), (a, 1)]
  | .icmpi _ _ _ a _ => [(a, 1)]
  | .movl _ d _ | .movh _ d _ | .lanev _ d => [(d, 1)]
  | .sel _ d a b _ | .shfl _ d a b _ => [(d, 1), (a, 1), (b, 1)]
  | .voteBallot _ _ b => [(b, 2)]
  | .fadd _ d a b m | .fsub _ d a b m | .fmul _ d a b m | .fma _ d a b m | .fmin _ d a b m | .fmax _ d a b m
  | .fdiv _ d a b m => [(d, fmtRegs m), (a, fmtRegs m), (b, fmtRegs m)]
  | .fcmp _ _ _ a b m => [(a, fmtRegs m), (b, fmtRegs m)]
  | .funOp _ d a u m => [(d, if u = 9 then 1 else fmtRegs m), (a, fmtRegs m)]
  | .fscl _ d a b m => [(d, fmtRegs m), (a, fmtRegs m), (b, 1)]
  | .cvt _ d a t u _ => [(d, cvtRegs t.toNat), (a, cvtRegs u.toNat)]
  | .bqnt _ d a _ f => [(d, (sh f).p), (a, (sh f).g)]
  | .bdq _ d a _ f => [(d, (sh f).g), (a, (sh f).p)]
  | .feedw _ _ a _ m => [(a, fmtRegs m)]
  | .feedr _ d _ m => [(d, fmtRegs m)]
  | .ld _ d a _ w _ _ | .st _ d a _ w _ _ | .lda _ d a _ w _ _ | .sta _ d a _ w _ _ => [(d, sizeRegs w), (a, 1)]
  | .ldt _ d a w _ | .stt _ d a w _ => [(d, sizeRegs w), (a, 1)]
  | .prf _ a _ _ _ _ => [(a, 1)]
  | .atom _ d a _ w _ _ _ _ _ _ _ | .atomt _ d a w _ _ _ _ _ _ => [(d, sizeRegs w), (a, 1)]
  | .acas _ d a _ w _ _ _ _ _ _ _ => [(d, sizeRegs w), (a, 1)]
  | .acp16 _ d a _ _ => [(d, 1), (a, 1)]
  | _ => []

/-- The other operand cases: tiles, barriers, pairs of S registers. -/
def linkIndexBad (s : State) (cx : Cx) (i : Instr) : Bool :=
  let tm := teamOf s cx.g.ident.team
  match i with
  | .mma _ _ t a y b _ _ => badMma s cx t a b y
  | .tld _ _ t a | .tst _ _ t a => badTile s cx t.toNat || a.toNat > 12 || cx.g.allot < a.toNat * 8 + 32
  | .mmap _ _ _ e b _ _ _ _ => e.toNat % 2 ≠ 0 || (if b = 1 then 16 else 0) + 16 > tm.ntiles
  | .tzero _ t n => t.toNat + (n.toNat + 1) > tm.ntiles
  | .tepi _ t e _ _ _ => e.toNat % 2 ≠ 0 || t.toNat ≥ tm.ntiles
  | .acp16 _ _ _ _ b => b.toNat ≥ tm.nbars
  | .binit _ n _ _ | .barv _ n _ _ _ | .bexp _ n _ _ | .bexpImm _ n _ _ | .bwait _ n _ _ _ | .btry _ n _ _ _
  | .binv _ n _ => n.toNat ≥ tm.nbars
  | .tcopy _ _ _ e _ | .tsto _ _ _ e _ | .tpref _ _ _ e => e.toNat % 2 ≠ 0
  | .mmsc _ a b => !scaleBaseOk a || !scaleBaseOk b
  | .uld _ d _ _ w _ _ | .ust _ d _ _ w _ _ => badUniPair w d
  | .uatom _ _ a _ _ _ _ _ => badUatom a
  | _ => false

/-- A link word that is an encoding this group may not use (R63). -/
def linkEncodingBad (cx : Cx) (i : Instr) : Bool :=
  match i with
  | .mma _ h .. | .tld _ h .. | .tst _ h .. => h = 1 && cx.g.ident.width ≠ 0
  | _ => false

/-- The first link, from 1, that f finds. -/
def firstLink {α : Type} (f : α → Bool) (l : List α) : Option Nat :=
  (l.zipIdx.find? fun p => f p.1).map fun p => p.2 + 1

/-- A link word decoded, its stall count ignored (R152). -/
def decodeLink (w : Nat) : Except Reject Instr := decodeWords (w - bits w 30 29 * 2 ^ 29) 0

/-- The word is no legal encoding. -/
def linkIllegal (cx : Cx) (w : Nat) : Bool :=
  match decodeLink w with
  | .ok i => linkEncodingBad cx i
  | .error .operand => false
  | .error _ => true

/-- The word meets an operand case. -/
def linkOperandBad (s : State) (cx : Cx) (w : Nat) : Bool :=
  match decodeLink w with
  | .ok i => (linkSpans cx i).any (fun p => badV cx p.1.toNat p.2) || linkIndexBad s cx i
  | .error _ => true

/-- The links of the words, none where R153 admits no link. -/
def linksOf (ws : List Nat) : List (Option Link) :=
  ws.map fun w =>
    match decodeLink w with
    | .ok i => linkOf i
    | .error _ => none

/-! ## Binding and CHAINFORM (R154) -/

/-- The stream-producing links before place j with their places, latest first. -/
def streamsBefore (ls : List (Option Link)) (j : Nat) : List (Nat × Link) :=
  ((ls.take j).zipIdx.filterMap fun p =>
    match p.1 with
    | some k => if k.isStream then some (p.2, k) else none
    | none => none).reverse

/-- The link whose stream an operand of the link at place j is bound to. -/
def boundTo (ls : List (Option Link)) (j : Nat) (x : LinkSrc) : Option (Nat × Link) :=
  if x.bindable then (streamsBefore ls j).find? fun p => p.2.dst = x.reg else none

/-- The latest earlier stream whose destination overlaps a register of the operand. -/
def latestOverlap (ls : List (Option Link)) (j : Nat) (x : LinkSrc) : Option (Nat × Link) :=
  (streamsBefore ls j).find? fun p => p.2.dst < x.reg + fmtSpan x.fmt && x.reg < p.2.dst + fmtSpan p.2.fmt

/-- CHAINFORM 0x03 for an operand: not bound to its latest overlapping stream, or of one F32 register where that
stream is of F64 (DEDUCED, log 20). -/
def overlapFault (ls : List (Option Link)) (j : Nat) (x : LinkSrc) : Bool :=
  match latestOverlap ls j x with
  | none => false
  | some p => (boundTo ls j x).map (·.1) ≠ some p.1 || (x.fmt = .f32 && p.2.fmt = .f64)

/-- CHAINFORM 0x04 for an operand: bound to a stream of another width. -/
def widthFault (ls : List (Option Link)) (j : Nat) (x : LinkSrc) : Bool :=
  match boundTo ls j x with
  | none => false
  | some p => fmtBits p.2.fmt ≠ fmtBits x.fmt

/-- Some link after place j has an operand bound to it. -/
def readLater (ls : List (Option Link)) (j : Nat) : Bool :=
  ls.zipIdx.any fun p =>
    match p.1 with
    | some k => k.srcs.any fun x => (boundTo ls p.2 x).map (·.1) = some j
    | none => false

/-- The lowest STATUS of CHAINFORM at place j, where a case applies. -/
def formStatus (ls : List (Option Link)) (sink : BitVec 8) (j : Nat) : Option (BitVec 8) :=
  match (ls.getD j none : Option Link) with
  | none => some 1
  | some k =>
    if sink.getLsbD j && !readLater ls j then some 2
    else if k.srcs.any (overlapFault ls j) then some 3
    else if k.srcs.any (widthFault ls j) then some 4
    else none

/-- The fault of a chain's links: illegal encodings, then operand cases, then CHAINFORM (R65, R154). -/
def linkFault (s : State) (cx : Cx) (ws : List Nat) (sink : BitVec 8) : Option Cause :=
  let ls := linksOf ws
  match firstLink (linkIllegal cx) ws with
  | some j => some { cls := 0x01, info := bv 32 j }
  | none =>
    match firstLink (linkOperandBad s cx) ws with
    | some j => some { cls := 0x01, status := 1, info := bv 32 j }
    | none =>
      (List.range ws.length).findSome? fun j =>
        (formStatus ls sink j).map fun st => { cls := 0x06, status := st, info := bv 32 (j + 1) }

/-! ## Values (R155, R156) -/

/-- A NaN of a stream is quiet. -/
def quiet (x : Ext) : Ext :=
  match x with
  | .nan _ => .nan false
  | x => x

/-- The selection of R132 on extended values. -/
def extMinMax (isMin : Bool) (x y : Ext) : Ext :=
  if isNan x then y else if isNan y then x
  else if isMin then (if extLess y x then y else x)
  else if extLess x y then y else x

/-- What a link yields in a lane: its value or its predicate, and the flags it raises. -/
structure LinkVal where
  val : Ext := .zero false
  hit : Bool := false
  flg : Flg := 0
deriving DecidableEq, Repr, Inhabited

/-- val(j) of R155, of operands x, y, z and the count n of FSCL. -/
def linkVal (md : RMode) (op : LinkOp) (x y z : Ext) (n : Int) : LinkVal :=
  let ofExact := fun (r : Exact) => ({ val := quiet r.1, flg := r.2 } : LinkVal)
  match op with
  | .add => ofExact (exactAdd md x y)
  | .sub => ofExact (exactSub md x y)
  | .mul => ofExact (exactMul x y)
  | .fma => ofExact (exactFma md x y z)
  | .div => ofExact (ro64 (exactDiv x y).1, (exactDiv x y).2)
  | .sqrt => ofExact (ro64 (exactSqrt x).1, (exactSqrt x).2)
  | .min => ofExact (extMinMax true x y, 0)
  | .max => ofExact (extMinMax false x y, 0)
  | .scl => ofExact (scale2 x n, 0)
  | .abs => ofExact (extAbs x, 0)
  | .neg => ofExact (extNegate x, 0)
  | .relu => ofExact (if isNan x then x else if extCmp x (.zero false) > 0 then x else .zero false, 0)
  | .sign => ofExact (if isNan x || isZero x then x else .real (extNeg x) 1 0, 0)
  | .cvt t sat =>
    let r := if sat then satRnd (cvtFmt t) md x else rnd (cvtFmt t) md x
    { val := quiet (dec (cvtFmt t) r.1), flg := r.2 }
  | .cmp c => { hit := floatCond c x y }

/-- The encoding an unbound operand reads in a lane (R128). -/
def srcBits (g : Regs) (x : LinkSrc) (l : Nat) : Nat :=
  if x.fmt = .f64 then readPair g x.reg l else (readV g x.reg l).toNat % 2 ^ fmtBits x.fmt

/-- An operand's value in a lane: its stream's, or its register's. -/
def srcVal (ls : List (Option Link)) (g : Regs) (l j : Nat) (vs : List LinkVal) (x : LinkSrc) : Ext :=
  match boundTo ls j x with
  | some p => (nth vs p.1).val
  | none => if x.bindable then dec x.fmt (srcBits g x l) else .zero false

/-- The values of the links of a chain in a lane, in order. -/
def laneValues (md : RMode) (ls : List (Option Link)) (g : Regs) (l : Nat) : List LinkVal :=
  ls.zipIdx.foldl (fun vs p =>
    match p.1 with
    | none => vs ++ [{}]
    | some k =>
      let xs := k.srcs.map (srcVal ls g l p.2 vs)
      let n : Int := if k.op = .scl then (readV g (nth k.srcs 1).reg l).toInt else 0
      let v := linkVal md k.op (xs.getD 0 default) (xs.getD 1 default) (xs.getD 2 default) n
      vs ++ [{ v with flg := v.flg ||| snanFlag xs }]) []

/-- The register writes of a link that is no sink, in a lane, and their flags. -/
def linkWrites (md : RMode) (k : Link) (l : Nat) (v : LinkVal) : List RegWrite × Flg :=
  match k.op with
  | .cmp _ => ([{ elem := .p k.dst l, val := if v.hit then 1 else 0 }], 0)
  | _ =>
    let r := rnd k.fmt md v.val
    let lo : RegWrite := { elem := .v k.dst l, val := BitVec.ofNat 64 (r.1 % 2 ^ 32) }
    (if k.fmt = .f64 then [lo, { elem := .v (k.dst + 1) l, val := BitVec.ofNat 64 (r.1 / 2 ^ 32) }] else [lo], r.2)

/-! ## Cuts (R160, R161) -/

/-- The consumer at place c decides early on its operand number o, whose stream is x (R160). -/
def decidesEarly (ls : List (Option Link)) (g : Regs) (l c : Nat) (k : Link) (o : Nat) (x : Ext) : Bool :=
  let other := nth k.srcs (1 - o)
  let free := (boundTo ls c other).isNone
  let y := dec other.fmt (srcBits g other l)
  let nonzero := isFinite x && !isZero x
  match k.op with
  | .relu => nonzero && extNeg x
  | .sign => nonzero
  | .max => free && isZero y && nonzero && extNeg x
  | .min => free && isZero y && nonzero && !extNeg x
  | .cmp _ => free && nonzero && !isNan y && extCmp x y ≠ 0
  | _ => false

/-- The places of the links cut in a lane, found from the last link to the first. -/
def cutLinks (ls : List (Option Link)) (sink : BitVec 8) (g : Regs) (l : Nat) (vs : List LinkVal) : List Nat :=
  (List.range ls.length).reverse.foldl (fun cut j =>
    let readers := ls.zipIdx.flatMap fun p =>
      match p.1 with
      | none => []
      | some k => (k.srcs.zipIdx.filter fun x => (boundTo ls p.2 x.1).map (·.1) = some j).map fun x => (p.2, k, x.2)
    if sink.getLsbD j && readers ≠ [] && readers.all fun r =>
        cut.contains r.1 || decidesEarly ls g l r.1 r.2.1 r.2.2 (nth vs j).val
    then j :: cut else cut) []

/-- The digit count of a stream format (R161). -/
def digitCount (f : FFmt) : Nat :=
  match f with
  | .f32 => 13 | .f64 => 28 | .f16 => 6 | .bf16 => 5 | .e4m3 => 3 | .e5m2 => 3 | .e2m1 => 2

/-- The stream of a link with its value (R164); a compare streams its predicate as one digit (log 29). -/
def streamOf (k : Option Link) (v : LinkVal) : StreamVal :=
  match k with
  | none => {}
  | some k =>
    if !k.isStream then { cls := if v.hit then 0 else 1, mag := if v.hit then 1 else 0, need := 1 }
    else
      match v.val with
      | .nan _ => { cls := 5 }
      | .inf n => { cls := if n then 4 else 3 }
      | .zero n => { cls := if n then 2 else 1 }
      | .real n m e => { cls := 0, neg := n, mag := m, exp := e, need := digitCount k.fmt }

/-- The delay of a link (R99, R161). -/
def linkDelay (op : LinkOp) : Nat :=
  match op with
  | .add | .sub | .min | .max | .cmp _ => 2
  | .mul => 3
  | .fma => 4
  | .div | .sqrt => 5
  | .scl | .abs | .neg | .relu | .sign | .cvt .. => 1

/-- The clocks of the first digits of the links, after the header's issue (R161). -/
def firstDigits (ls : List (Option Link)) : List Nat :=
  ls.zipIdx.foldl (fun ts p =>
    match p.1 with
    | none => ts ++ [0]
    | some k =>
      ts ++ [linkDelay k.op + k.srcs.foldl (fun t x => match boundTo ls p.2 x with | some b => max t (nth ts b.1) | none => t) 0])
    []

/-- The clock at which a link decides early in a lane: that of the first digit of the stream it decides on (R160, R161). -/
def decidedAt (ls : List (Option Link)) (g : Regs) (l : Nat) (vs : List LinkVal) (ts : List Nat) (j : Nat) : Option Nat :=
  match (ls.getD j none : Option Link) with
  | none => none
  | some k =>
    k.srcs.zipIdx.findSome? fun x =>
      (boundTo ls j x.1).bind fun p => if decidesEarly ls g l j k x.2 (nth vs p.1).val then some (nth ts p.1) else none

/-- The links cut in a lane, each with the clock at which its last reader has decided or is cut. -/
def cutClocks (ls : List (Option Link)) (g : Regs) (l : Nat) (vs : List LinkVal) (ts cut : List Nat) : List (Nat × Nat) :=
  (List.range ls.length).reverse.foldl (fun acc j =>
    if !cut.contains j then acc
    else
      acc ++ [(j, ls.zipIdx.foldl (fun t p =>
        match p.1 with
        | none => t
        | some k => k.srcs.zipIdx.foldl (fun t x =>
            if (boundTo ls p.2 x.1).map (·.1) ≠ some j then t
            else if decidesEarly ls g l p.2 k x.2 (nth vs j).val then max t (nth ts j)
            else max t (((acc.find? fun c => c.1 = p.2).map (·.2)).getD 0)) t) 0)]) []

/-- What a lane of a chain leaves: its writes in link order, its flags, its cut links, and the streams of its links. -/
structure LaneChain where
  writes : List RegWrite := []
  flags : Flg := 0
  cut : List Nat := []
  streams : List StreamVal := []

/-- A lane of a chain (R155 to R161). -/
def laneChain (md : RMode) (ls : List (Option Link)) (sink : BitVec 8) (g : Regs) (l : Nat) : LaneChain :=
  let vs := laneValues md ls g l
  let ws := ls.zipIdx.map fun p =>
    match p.1 with
    | some k => if sink.getLsbD p.2 then ([], 0) else linkWrites md k l (nth vs p.2)
    | none => ([], 0)
  let fl := (vs.zip ws).map fun p => p.1.flg ||| p.2.2
  let cut := cutLinks ls sink g l vs
  let ts := firstDigits ls
  let at_ := cutClocks ls g l vs ts cut
  { writes := ws.flatMap (·.1)
    flags := orFlags fl
    cut := cut
    streams := ls.zipIdx.map fun p =>
      { streamOf p.1 (nth vs p.2) with
        flg := fl.getD p.2 0, start := nth ts p.2, decided := decidedAt ls g l vs ts p.2
        cutAt := (at_.find? fun c => c.1 = p.2).map (·.2) } }

/-- The digits that the cuts of a lane save, for CUTCNT (R161). -/
def cutDigits (ls : List (Option Link)) (js : List Nat) : Nat :=
  (js.map fun j =>
    match (ls.getD j none : Option Link) with
    | some k => digitCount k.fmt - 1
    | none => 0).sum

/-! ## The header (R151, R152, R155, R157, R158) -/

/-- What fetching the link words comes to. -/
inductive LinksFetched where
  | ok (s : State) (ws : List Nat)
  | fault (s : State) (c : Cause)
  | wait (s : State)
  | miss (s : State) (m : Miss)

/-- n link words from va on. -/
def fetchLinks (s : State) (cx : Cx) (va : VAddr) : Nat → LinksFetched
  | 0 => .ok s []
  | n + 1 =>
    match fetchWord s cx va with
    | .fault s c => .fault s c
    | .wait s => .wait s
    | .miss s m => .miss s m
    | .ok s b =>
      match fetchLinks s cx (pcAdd va 4) n with
      | .ok s ws => .ok s (leNat b :: ws)
      | r => r

/-- The V elements the links read for a lane: unbound operands, in link and operand order (R209). -/
def chainUses (ls : List (Option Link)) (l : Nat) : List LaneUse :=
  ls.zipIdx.flatMap fun p =>
    match p.1 with
    | none => []
    | some k =>
      (k.srcs.filter fun x => (boundTo ls p.2 x).isNone).flatMap fun x =>
        (vUse x.reg (fmtSpan x.fmt) l).map fun u => { u with hi := fmtBits x.fmt > 16 }

/-- The registers the links write. -/
def chainDsts (ls : List (Option Link)) (sink : BitVec 8) : List Elem :=
  ls.zipIdx.flatMap fun p =>
    match p.1 with
    | none => []
    | some k =>
      if sink.getLsbD p.2 then []
      else if k.isStream then vDst k.dst (fmtSpan k.fmt) else [.p k.dst 0]

/-- The form of a header whose links passed their checks; a header is a uniform word (R151). -/
def chainForm (st : BitVec 2) (ls : List (Option Link)) (sink : BitVec 8) : Form :=
  { st := st, lane := false, uses := fun _ => chainUses ls, dsts := chainDsts ls sink }

/-- The rounding mode of the chain: FPCTL's, or that of the record it restarts from (R155, R165). -/
def chainMode (cx : Cx) : BitVec 2 :=
  match cx.g.chainRm.find? fun p => p.1 = cx.f.pc && p.2.1 = cx.f.mask with
  | some p => p.2.2
  | none => rmOf cx.g.special

/-- The chain of a fragment over the registers g, under a rounding mode (R155 to R161). -/
def chainStart (f : Frag) (g : Regs) (rm : BitVec 2) (id : Nat) (ls : List (Option Link)) (sink : BitVec 8) : ChainRec :=
  let r := (lanesOf f.mask).map fun l => (l, laneChain (rmode rm) ls sink g l)
  { id := id, pc := f.pc, mask := f.mask, rm := rm, links := ls.length, sinks := sink
    writes := r.flatMap fun x => x.2.writes
    flags := orFlags (r.map fun x => x.2.flags)
    cuts := (r.map fun x => cutDigits ls x.2.cut).sum
    cutIn := r.map fun x => (x.1, (x.2.cut.map fun j => 2 ^ j).sum)
    streams := r.map fun x => (x.1, x.2.streams) }

/-- The issue of a header: the fragment holds at it, and the chain streams (R162). -/
def chainIssue (ls : List (Option Link)) (sink : BitVec 8) (cx : Cx) (s : State) : Res :=
  let g := cx.g
  let g := { g with
    chains := g.chains ++ [chainStart cx.f g.regs (chainMode cx) s.seq ls sink]
    chainRm := g.chainRm.filter fun p => !(p.1 = cx.f.pc && p.2.1 = cx.f.mask)
    frags := modNth g.frags cx.ix fun f => { f with hold := .chain } }
  .ok (setGrp { s with seq := s.seq + 1 } cx.key g)

/-- CHAIN (R151 to R158). -/
def execChain (st : BitVec 2) (l : BitVec 3) (k : BitVec 8) (s : State) : Out :=
  match issuing s with
  | none => .fault .noIssuer
  | some cx =>
    match fetchLinks s cx (pcAdd cx.f.pc 4) (l.toNat + 1) with
    | .fault s c => .next (takeFault s cx c)
    | .wait s => .next (markWaiting s cx)
    | .miss s m => .next (park s cx .fetch .fetch 4 [m])
    | .ok s ws =>
      match linkFault s cx ws k with
      | some c => .next (takeFault s cx c)
      | none => issue (chainForm st (linksOf ws) k) (chainIssue (linksOf ws) k) s

/-- The chain of a fragment. -/
def chainOf (g : Group) (f : Frag) : Option ChainRec :=
  g.chains.find? fun c => c.pc = f.pc && c.mask = f.mask

/-- A chain's commit: every write, its flags, its cuts, and the fragment goes on past it (R157). -/
def commitChain (c : ChainRec) (i : Nat) (g : Group) : Group :=
  wake (modFrag { g with
    chains := g.chains.filter fun x => x.id ≠ c.id
    regs := applyWrites g.regs c.writes
    special := addCuts (raise g.special c.flags) c.cuts } i fun f =>
      { f with hold := .none, pc := pcAdd f.pc (4 * (c.links + 1)) })

/-- CHAIN_RETIRE (R157, R162). -/
def execChainRetire (grp frag : Nat) (s : State) : Out :=
  let g := grpOf s grp
  let f := nth g.frags frag
  if f.hold ≠ .chain then .next s
  else
    match chainOf g f with
    | none => .next s
    | some c => .next (setGrp s grp (commitChain c frag g))

/-- DIGIT_RESIDUE_MISMATCH (R162): the first makes the chain run again, the second ends it with UNCORR at the header. -/
def execDigitResidueMismatch (grp frag : Nat) (s : State) : Out :=
  let g := grpOf s grp
  let f := nth g.frags frag
  if f.hold ≠ .chain then .next s
  else
    match chainOf g f with
    | none => .next s
    | some c =>
      if !c.rerun then
        .next (setGrp s grp { g with chains := g.chains.map fun x => if x.id = c.id then { x with rerun := true } else x })
      else
        let g := { g with
          chains := g.chains.filter fun x => x.id ≠ c.id
          frags := modNth g.frags frag fun f => { f with hold := .none } }
        .next (blame (setGrp s grp (wake g)) grp frag (causeWord { cls := 0x1C, status := 2 } false))

end Sys2Proof.Machine
end

