-- ==== Sys2Proof/Machine/Notify.lean ====
section
/-! DEFINITION. Notify counters: their changes, WAITN and its end (R41, R407 to R409). -/

namespace Sys2Proof.Machine

open Sys2Proof

/-- COND of WAITN and of WAIT packets (R363). -/
def condHolds (c : BitVec 2) (x v : DWord) : Bool :=
  match c.toNat with
  | 0 => v.toNat ≤ x.toNat
  | 1 => x = v
  | 2 => x ≠ v
  | _ => x.toNat < v.toNat

/-- A counter's value. -/
def ctrOf (s : State) (i n : Nat) : DWord := tblGet (islOf s i).ncs n

/-- The counter is allocated to the context on the island (R41, R314). -/
def ctrOwned (s : State) (i c n : Nat) : Bool :=
  let x := ctxOf s i c
  x.nfirst ≤ n && n < x.nfirst + x.ncnt

/-- The fragment waits for what the counter's new value gives. -/
def ctrReleases (n : Nat) (x : DWord) (f : Frag) : Bool :=
  match f.hold with
  | .waitn k v c _ => k = n && condHolds c x v
  | _ => false

/-- A group whose waiting fragments the value releases: each acquires and goes on at its continuation (R409). -/
def ctrWake (n : Nat) (x : DWord) (c : Clock) (tick : Nat) (g : Group) : Group :=
  if g.frags.any (ctrReleases n x) then
    let m := g.frags.foldl (fun m f => if ctrReleases n x f then m ||| f.mask else m) 0
    wake (settle { learn c m g with
      frags := g.frags.map (fun f => if ctrReleases n x f then goOn f else f)
      ready := tick })
  else g

/-- A WAIT packet sees the value (R363). -/
def waitSees (i n : Nat) (x : DWord) (w : QueueWait) : QueueWait :=
  if w.island = i && w.ctr = n && condHolds w.cond x w.val then { w with met := true } else w

/-- What the increments of a counter have released (R277, R409). -/
def ctrClock (s : State) (i n : Nat) : Clock := tblGet (islOf s i).ncClk n

/-- A counter takes a value, and the waiters it satisfies are released; they acquire the increments before (R407 to R409). -/
def ctrSet (s : State) (i n : Nat) (x : DWord) : State :=
  let n := n % 65536
  let s := modIsl s i fun y => { y with ncs := tblSet y.ncs n x }
  let s := s.groups.foldl (fun s p =>
    if p.2.ident.island = i && p.2.frags.any (ctrReleases n x) then
      sampleWaits (acquireL1 s p.2.ident) i 3 p.2.ident.ctx (p.2.frags.filter (ctrReleases n x)).length
    else s) s
  { s with
    groups := s.groups.map fun p => if p.2.ident.island = i then (p.1, ctrWake n x (ctrClock s i n) s.tick p.2) else p
    panel := { s.panel with waits := s.panel.waits.map fun p => (p.1, waitSees i n x p.2) } }

/-- A counter gains k (R41). The increment is a release; every release at panel scope so far is counted to it (log 13). -/
def ctrAdd (s : State) (i n : Nat) (k : DWord) : State :=
  let s := if s.panel.clk = [] then s
    else modIsl s i fun x => { x with ncClk := tblMod x.ncClk (n % 65536) fun c => joinClock c s.panel.clk }
  ctrSet s i n (ctrOf s i (n % 65536) + k)

/-- The counter gains 1 where one is named. -/
def ctrBump (s : State) (i : Nat) (n : Option Nat) : State :=
  match n with
  | none => s
  | some n => ctrAdd s i n 1

/-- WAITN (R409). One whose condition holds at once is a wait of 0 clocks to a monitor (R426; log 15). -/
def execWaitn (st : BitVec 2) (c v : BitVec 6) (f : BitVec 10) (s : State) : Out :=
  issue (ctlForm st [sUse c.toNat, sUse v.toNat]) (fun cx s =>
    let w := (readS cx.g.regs c.toNat).toNat
    let n := bits w 15 0
    let cond := bv 2 (bits w 17 16)
    let val := readS cx.g.regs v.toNat
    let dest := continuation cx.f.pc f
    let i := cx.g.ident.island
    if bits w 63 18 ≠ 0 then .flt { cls := 0x01, status := 2 }
    else if !ctrOwned s i cx.g.ident.ctx n then .flt { cls := 0x11 }
    else if condHolds cond (ctrOf s i n) val then
      .ok (modGrp (acquireClock (sampleCtx s i 3 cx.g.ident.ctx 0) cx (ctrClock s i n) 4) cx.key (jump dest cx.ix))
    else
      .ok (modGrp s cx.key fun g => modFrag g cx.ix fun x =>
        { x with hold := .waitn n val cond dest, waited := 0 })) s

/-- The fragment waits at a WAITN. -/
def atWaitn (f : Frag) : Bool :=
  match f.hold with
  | .waitn .. => true
  | _ => false

/-- n ns pass for the WAITNs of a group. -/
def countGroup (n : Nat) (g : Group) : Group :=
  { g with frags := g.frags.map fun f => if atWaitn f then { f with waited := f.waited + n } else f }

/-- n ns pass for the WAITNs of the groups whose context's partition runs (R409). -/
def countWaits (n : Nat) (s : State) : State :=
  { s with
    groups := s.groups.map fun p =>
      if p.2.frags.any atWaitn && ctxRuns s p.2.ident.island p.2.ident.ctx then (p.1, countGroup n p.2) else p }

/-- A fragment's WAITN has lasted its kernel's barrier time-out; a fragment held in handler mode takes nothing (R323, R409). -/
def waitnLate (s : State) (g : Group) (f : Frag) : Bool :=
  atWaitn f && inMode g f && 1000 * (teamOf s g.ident.team).bartime ≤ f.waited

/-- WAITN_TIMEOUT (R409): REMOTE, STATUS 0x1A, at the WAITN. -/
def execWaitnTimeout (grp frag : Nat) (s : State) : Out :=
  let g := grpOf s grp
  let f := nth g.frags frag
  if !waitnLate s g f then .next s
  else
    let s := sampleWaits s g.ident.island 3 g.ident.ctx 1
    let s := setGrp s grp { g with frags := modNth g.frags frag fun f => { f with hold := .none, waited := 0 } }
    .next (deliver s grp (causeWord { cls := 0x16, status := 0x1A } false) f.pc f.mask)

/-- NCVAL_WRITE (R408): the counter that NCSEL names takes the value. -/
def execNcvalWrite (island : Nat) (val : DWord) (s : State) : Out :=
  .next (ctrSet s island (islOf s island).ncsel val)

end Sys2Proof.Machine
end

