-- ==== Sys2Proof/Machine/Vcache.lean ====
section
/-! DEFINITION. Virtual caches: their records, states, resizing, bank failure, query and maintenance
(R255 to R273, R291, R311, R419). -/

namespace Sys2Proof.Machine

open Sys2Proof

/-! ## Cache definition records (R259) -/

/-- A record as one number of 512 bits. -/
def cdrBits (s : State) (i idx : Nat) : Nat := memNat (islOf s i).mem.bytes (objAddr s i idx) 64

/-- The number x with bits hi to lo replaced by v. -/
def putBits (x hi lo v : Nat) : Nat :=
  x - bits x hi lo * 2 ^ lo + v % 2 ^ (hi + 1 - lo) * 2 ^ lo

/-- Shares of a record. -/
def cdrShareCount (x : Nat) : Nat := bits x 58 53

/-- The deckle of a record. -/
def cdrDeckle (x : Nat) : List Share :=
  (List.range (min 32 (cdrShareCount x))).map fun j =>
    { slice := bits x (96 + 13 * j + 12) (96 + 13 * j + 5), first := bits x (96 + 13 * j + 4) (96 + 13 * j),
      banks := bits x 63 59 }

/-- The definition a record states. -/
def cdrSpec (x : Nat) : VcDef :=
  { owner := bits x 31 16, shadow := bit x 46, rc := bit x 45, affine := bit x 44, fifo := bit x 43
    policy := bv 2 (bits x 42 41), waysCode := bv 3 (bits x 40 38), lineCode := bv 2 (bits x 37 36) }

/-- The island VC number of a record. -/
def cdrVcn (x : Nat) : Nat := bits x 52 47

/-- A list has no element twice. -/
def distinct (l : List Nat) : Bool := l.eraseDups.length = l.length

/-- The deckle fields of a record break R255 or R259. -/
def deckleBad (x : Nat) : Bool :=
  let n := cdrShareCount x
  let b := bits x 63 59
  n > 32 || (if n = 0 then b ≠ 0 else b < 1 || b > 24)
    || (cdrDeckle x).any (fun h => h.first + h.banks > 24)
    || !distinct (deckleBanks (cdrDeckle x))
    || bits x 511 (96 + 13 * min 32 n) ≠ 0

/-- The other fields of a record break R259. -/
def recordBad (x : Nat) : Bool :=
  let v := cdrVcn x
  v = 0 || v = 63 || bits x 40 38 > 4 || bits x 35 32 ≠ 0 || bits x 15 10 ≠ 0
    || (bit x 46 && bits x 45 36 ≠ 0)

/-- The code of a VC's state in its record. -/
def vcCode : VcState → Nat
  | .undefined => 0 | .defined => 1 | .active => 2 | .resizing => 3 | .draining => 4 | .retired => 5 | .failed => 6

/-- A number rewritten in a record in place (R259). -/
def cdrPut (s : State) (i idx : Nat) (f : Nat → Nat) : State :=
  let x := f (cdrBits s i idx)
  modMem s i fun m => { m with bytes := memPutNat m.bytes (m.objBase + 64 * idx) x 64 }

/-- STATE, SHRUNK and PSN written to the record of a VC, and zeros beside them (R259; log 21). -/
def writeState (s : State) (i vn : Nat) : State :=
  let v := vcOf (islOf s i).mem vn
  cdrPut s i v.record fun x =>
    putBits x 95 64 ((vcCode v.state * 4 + (if v.shrunk then 2 else 0) + (if v.psn then 1 else 0)) * 2 ^ 27)

/-- The shares of a deckle as they stand in a record, from bit 96 on. -/
def deckleBits (d : List Share) : Nat :=
  (d.zipIdx.map fun p => (p.1.slice * 32 + p.1.first) * 2 ^ (13 * p.2)).sum

/-- BANKS, NSH and the shares written to the record of a VC (R259). -/
def writeDeckle (s : State) (i vn : Nat) : State :=
  let v := vcOf (islOf s i).mem vn
  cdrPut s i v.record fun x =>
    let x := putBits x 63 59 ((v.deckle.head?.map (·.banks)).getD 0)
    let x := putBits x 58 53 v.deckle.length
    putBits x 511 96 (deckleBits v.deckle)

/-- A VC of an island changed; every access that waits for a VC offers again. -/
def modVc (s : State) (i vn : Nat) (f : Vc → Vc) : State :=
  wakeAll (modMem s i fun m => { m with vcs := tblMod m.vcs vn f })

/-! ## Acceptance (R262, R264) -/

/-- The three instructions of R263. -/
inductive VcOp where
  | define | resize | retire
deriving DecidableEq, Repr, Inhabited

/-- VCs in Defined, Resizing or Draining (R262). -/
def busyVc (v : Vc) : Bool := v.state = .defined || v.state = .resizing || v.state = .draining

def busyVcs (m : IslandMem) : Nat := countTrue (m.vcs.map fun p => busyVc p.2)

/-- A context is Parked in the shadow reservation (R273). -/
def parkedIn (x : Island) (vn : Nat) : Bool :=
  x.ctxs.any fun p => p.2.state = .parked && p.2.shadow = vn

/-- The VC's state admits the instruction (R262, R273). -/
def admits (x : Island) (op : VcOp) (vn ri : Nat) : Bool :=
  let v := vcOf x.mem vn
  match op with
  | .define => v.state = .undefined || v.state = .retired
  | .resize => (v.state = .active || v.state = .failed) && v.record = ri && !(v.spec.shadow && parkedIn x vn)
  | .retire => (v.state = .active || v.state = .failed || v.state = .defined) && v.record = ri

/-- Banks an accepted instruction would claim. -/
def banksClaimed (op : VcOp) (v : Vc) (d : List Share) : List Nat :=
  match op with
  | .define => deckleBanks d
  | .resize => (deckleBanks d).filter fun b => !(deckleBanks v.deckle).contains b
  | .retire => []

/-- The status of R264 for records x (REC) and y (the record that holds the deckle). -/
def vcStatus (isl : Island) (op : VcOp) (ri x y : Nat) : Nat :=
  let vn := cdrVcn x
  let v := vcOf isl.mem vn
  let bad := recordBad x || deckleBad x || deckleBad y
  let claim := banksClaimed op v (cdrDeckle y)
  if bad then 3
  else if !admits isl op vn ri then 1
  else if op = .resize && (bits y 37 36 ≠ v.spec.lineCode.toNat || bits y 40 38 ≠ v.spec.waysCode.toNat) then 4
  else if claim.any (fun b => !bankFree isl.mem b) || (claim ≠ [] && freeBanks isl.mem < claim.length + 24) then 2
  else if !busyVc v && busyVcs isl.mem ≥ 8 then 5
  else 0


/-- The lines of a VC marked as lying in the old map, but for those that stay. -/
def markOld (m : IslandMem) (vn : Nat) (o n : List Share) : IslandMem :=
  let v := vcOf m vn
  { m with sectors := m.sectors.map fun p =>
      if p.2.vc = vn then (p.1, { p.2 with old := !staysPut m vn v o n p.2.bank p.2.line }) else p }

/-- A resize begins: the old map, the new one, counts cleared (R262, R266). -/
def beginResize (o n : List Share) (claim : List Nat) (hadShare : Bool) (notify : Option Nat) (v : Vc) : Vc :=
  { v with state := .resizing, oldMap := o, deckle := n, claim := claim, hadShare := hadShare
           mva := 0, mvs := 0, swb := 0, notify := notify }

/-- The lines of VC 0 in claimed banks leave when they are drained. -/
def drainClaim (m : IslandMem) (bs : List Nat) : IslandMem :=
  { m with sectors := m.sectors.filter fun p => !(p.2.vc = 0 && bs.contains p.2.bank) }

/-- The VC after acceptance (R262). -/
def acceptVc (s : State) (i : Nat) (op : VcOp) (ri x y : Nat) (notify : Option Nat) : State :=
  let vn := cdrVcn x
  let v := vcOf (islOf s i).mem vn
  let d := cdrDeckle y
  let claim := banksClaimed op v d
  let s :=
    match op with
    | .define => modVc s i vn fun _ =>
        { state := .defined, record := ri, spec := cdrSpec x, deckle := d, claim := claim, notify := notify }
    | .resize =>
      let s := modVc s i vn (beginResize v.deckle d claim (d ≠ []) notify)
      modMem s i fun m => markOld m vn v.deckle d
    | .retire => modVc s i vn fun v => { v with state := .draining, notify := notify, draining := false, before := s.seq }
  writeState s i vn

/-- The counter an operand word names. -/
def operandCounter (w : Nat) : Option Nat := if bit w 48 then some (bits w 47 32) else none

/-- A reserved bit of the operand word of R263 is set. -/
def operandReserved (op : VcOp) (w : Nat) : Bool :=
  bits w 63 49 ≠ 0 || (op ≠ .resize && bits w 31 16 ≠ 0)

/-- The record that holds the deckle. -/
def deckleRecord (op : VcOp) (w : Nat) : Nat := if op = .resize then bits w 31 16 else bits w 15 0

/-- The OBJTAB of an operand word for a context. -/
def vcObjFault (s : State) (i c : Nat) (op : VcOp) (w : Nat) : Option Cause :=
  if !objUsable (objWords s i (bits w 15 0)) 0x03 c .read then some (objFault (bits w 15 0) 0)
  else if !objUsable (objWords s i (deckleRecord op w)) 0x03 c .read then some (objFault (deckleRecord op w) 0)
  else none

/-- The instruction applied on an island: its status, and the state after it (R264). -/
def applyVc (s : State) (i : Nat) (op : VcOp) (w : Nat) : Nat × State :=
  let ri := bits w 15 0
  let x := cdrBits s i ri
  let y := cdrBits s i (deckleRecord op w)
  let st := vcStatus (islOf s i) op ri x y
  (st, if st = 0 then acceptVc s i op ri x y (operandCounter w) else s)

/-- The form of VCDEF, VCRSZ and VCRET. -/
def vcOpForm (st : BitVec 2) (d a : BitVec 6) : Form :=
  { ctlForm st [sUse a.toNat] with priv := true, dsts := [.s d.toNat] }

/-- VCDEF, VCRSZ and VCRET (R263, R264). -/
def vcOp (op : VcOp) (st : BitVec 2) (d a : BitVec 6) : State → Out :=
  issue (vcOpForm st d a) (fun cx s =>
    let w := (readS cx.g.regs a.toNat).toNat
    let i := cx.g.ident.island
    if operandReserved op w then .flt { cls := 0x01, status := 2 }
    else
      match vcObjFault s i cx.g.ident.ctx op w with
      | some c => .flt c
      | none =>
        let r := applyVc s i op w
        .ok (modGrp r.2 cx.key fun g =>
          advance 4 cx.ix { g with regs := writeS g.regs d.toNat (BitVec.ofNat 64 r.1) }))

/-- VCDEF (R263). -/
def execVcdef (st : BitVec 2) (d a : BitVec 6) (s : State) : Out := vcOp .define st d a s

/-- VCRSZ (R263). -/
def execVcrsz (st : BitVec 2) (d a : BitVec 6) (s : State) : Out := vcOp .resize st d a s

/-- VCRET (R263). -/
def execVcret (st : BitVec 2) (d a : BitVec 6) (s : State) : Out := vcOp .retire st d a s

/-! ## Steps in the background (R262, R265, R266) -/

/-- The counter of a finished step. -/
def vcNotify (s : State) (i vn : Nat) : State :=
  let n := (vcOf (islOf s i).mem vn).notify
  ctrBump (modVc s i vn fun v => { v with notify := none }) i n

/-- VC_CLAIM_DRAINED (R262, R266): VC 0 has drained the claimed banks. -/
def execVcClaimDrained (island vn : Nat) (s : State) : Out :=
  let v := vcOf (islOf s island).mem vn
  if v.state = .defined then
    let s := modMem s island fun m => drainClaim m v.claim
    let s := modVc s island vn fun v => { v with state := .active, claim := [] }
    .next (vcNotify (writeState s island vn) island vn)
  else if v.state = .resizing && v.claim ≠ [] then
    let s := modMem s island fun m => drainClaim m v.claim
    .next (modVc s island vn fun v => { v with claim := [] })
  else .next s

/-- A line of a VC that lies in its old map. -/
def oldLine (m : IslandMem) (vn : Nat) : Option Nat :=
  (m.sectors.find? fun p => p.2.vc = vn && p.2.old).map fun p => p.2.line

/-- One line swept: moved, or written back and dropped (R266; log 8). -/
def sweepLine (m : IslandMem) (vn line tick : Nat) : IslandMem :=
  if Config.sweepMoves tick && (vcOf m vn).deckle ≠ [] then
    let m := fillLine m vn (Config.lineHash line 3 % 256) line
    { m with vcs := tblAdj m.vcs vn fun v => { v with mvs := v.mvs + 1 } }
  else
    let m := dropLine m vn line
    { m with vcs := tblAdj m.vcs vn fun v => { v with swb := v.swb + 1 } }

/-- VC_SWEEP_LINE (R266). -/
def execVcSweepLine (island vn : Nat) (s : State) : Out :=
  let m := (islOf s island).mem
  let v := vcOf m vn
  if v.state = .resizing && v.claim = [] then
    match oldLine m vn with
    | some l => .next (modMem s island fun m => sweepLine m vn l s.tick)
    | none => .next s
  else .next s

/-- VC_RESIZE_END (R262, R265): O holds no line; the banks that go back to VC 0 go back empty. -/
def execVcResizeEnd (island vn : Nat) (s : State) : Out :=
  let m := (islOf s island).mem
  let v := vcOf m vn
  if v.state = .resizing && v.claim = [] && (oldLine m vn).isNone then
    let next : VcState := if v.deckle ≠ [] || !v.hadShare then .active else .failed
    let s := modMem s island fun m => drainClaim m v.owed
    let s := modVc s island vn fun v => { v with state := next, oldMap := [], owed := [] }
    .next (vcNotify (writeState (writeDeckle s island vn) island vn) island vn)
  else .next s

/-- Every access and engine operation issued through the VC before its retirement is done, a TPREF, the local sides of remote
operations and the ranges of buckets among them (R265). -/
def vcQuiet (s : State) (i vn before : Nat) : Bool :=
  (s.groups.all fun p => p.2.ident.island ≠ i
      || p.2.ops.all fun o => o.id ≥ before || !(o.cls = .load || o.cls = .store || (o.cls = .copy && o.payload = .none)))
    && ((islOf s i).mem.engines.all fun p => p.1 ≥ before || p.2.pieces.all fun x => x.vn ≠ vn)
    && ((islOf s i).remotes.all fun p => p.1 ≥ before || p.2.pieces.all fun x => x.vn ≠ vn)
    && (islOf s i).buckets.all fun p => p.1 ≥ before || (p.2.dst ++ p.2.wmark ++ p.2.scratch).all fun x => x.vn ≠ vn

/-- VC_DRAIN_START (R265). -/
def execVcDrainStart (island vn : Nat) (s : State) : Out :=
  let v := vcOf (islOf s island).mem vn
  if v.state = .draining && !v.draining && vcQuiet s island vn v.before then
    .next (modVc s island vn fun v => { v with draining := true })
  else .next s

/-- VC_DRAIN_END (R262, R265): every line is written back and dropped, and the banks return to VC 0, empty: those still
claimed from it as well. -/
def execVcDrainEnd (island vn : Nat) (s : State) : Out :=
  let v := vcOf (islOf s island).mem vn
  if v.state = .draining && v.draining then
    let s := modMem s island fun m => drainClaim { m with sectors := m.sectors.filter fun p => p.2.vc ≠ vn } (vcBanks v)
    let s := modVc s island vn fun v =>
      { v with state := .retired, deckle := [], oldMap := [], claim := [], owed := [], draining := false }
    .next (vcNotify (writeState s island vn) island vn)
  else .next s

/-! ## Bank failure and HBM errors (R256, R268, R311, R419) -/

/-- The VC from 1 to 62 that keeps a bank. -/
def bankHolder (m : IslandMem) (b : Nat) : Option Nat :=
  (m.vcs.find? fun p => (vcBanks p.2).contains b).map (·.1)

/-- The four quarters of a sector. -/
def sectorQuarters (sec : Nat) : List Nat := (List.range 4).map fun j => 4 * sec + j

/-- The shares without those that hold a bank. -/
def withoutBank (d : List Share) (b : Nat) : List Share := d.filter fun h => !(shareBanks h).contains b

/-- The banks of the shares that hold a bank, without it. -/
def shareRest (d : List Share) (b : Nat) : List Nat :=
  ((d.filter fun h => (shareBanks h).contains b).flatMap shareBanks).filter (· ≠ b)

/-- Step 3 of R268 in the VC's own record. -/
def shrinkVc (b : Nat) (v : Vc) : Vc :=
  let v := { v with shrunk := true }
  match v.state with
  | .active => beginResize v.deckle (withoutBank v.deckle b) [] true none v
  | .resizing =>
    { v with deckle := withoutBank v.deckle b, oldMap := withoutBank v.oldMap b
             owed := (v.owed ++ shareRest (v.deckle ++ v.oldMap) b).eraseDups.filter (· ≠ b)
             claim := v.claim.filter fun x => x ≠ b && !(shareRest v.deckle b).contains x }
  | .defined =>
    { v with deckle := withoutBank v.deckle b, claim := v.claim.filter fun x => (deckleBanks (withoutBank v.deckle b)).contains x }
  | _ =>
    { v with deckle := withoutBank v.deckle b, oldMap := withoutBank v.oldMap b
             owed := (v.owed ++ shareRest (v.deckle ++ v.oldMap) b).eraseDups.filter (· ≠ b) }

/-- The dirty sectors of the bank whose data is lost. -/
def lostSectors (m : IslandMem) (b : Nat) (lost : List Nat) : List (Nat × Sector) :=
  m.sectors.filter fun p => p.2.bank = b && p.2.dirty && lost.contains p.1

/-- The lines of a Resizing VC after its maps have lost shares: besides those of its old map, those that do not lie where the new
map now places them are to be moved, or written back and dropped, such as those in the other banks of the lost shares (R266,
R268). -/
def ageLines (m : IslandMem) (vn : Nat) : IslandMem :=
  let v := vcOf m vn
  { m with sectors := m.sectors.map fun p =>
      if p.2.vc = vn then (p.1, { p.2 with old := p.2.old || !staysPut m vn v v.deckle v.deckle p.2.bank p.2.line }) else p }

/-- R268: the bank fails; `lost` names the sectors whose data cannot be read back. The record of a Defined VC gets its new
deckle at once, since its shrink ends at once (R259; log 21). -/
def failBank (s : State) (i b : Nat) (lost : List Nat) : State :=
  let m := (islOf s i).mem
  if m.failed.contains b then s
  else
    let gone := lostSectors m b lost
    let s := setMarks s i (gone.flatMap fun p => sectorQuarters p.1)
    let s := modMem s i fun m => { m with
      failed := m.failed ++ [b]
      sectors := m.sectors.filter fun p => p.2.bank ≠ b }
    match bankHolder m b with
    | none => s
    | some vn =>
      let v := vcOf m vn
      let s := modVc s i vn fun v => { shrinkVc b v with psn := v.psn || gone.any fun p => p.2.vc = vn }
      let s := match v.state with
        | .active => modMem s i fun m => markOld m vn v.deckle (withoutBank v.deckle b)
        | .resizing => modMem s i fun m => ageLines m vn
        | .defined => writeDeckle s i vn
        | _ => s
      writeState s i vn

/-- R311: the sector of an uncorrectable error is poisoned, and the VC that holds it says so. -/
def poisonSector (s : State) (i sec : Nat) : State :=
  let s := setMarks s i (sectorQuarters sec)
  match tblGet? (islOf s i).mem.sectors sec with
  | none => s
  | some x => if x.vc = 0 then s else writeState (modVc s i x.vc fun v => { v with psn := true }) i x.vc

/-- HBM_UNCORRECTABLE_ERROR (R311, R418). -/
def execHbmUncorrectableError (island sector : Nat) (s : State) : Out := .next (poisonSector s island sector)

/-! ## Query (R271) -/

/-- The word of VCQ with SEL 0. -/
def vcqWord (m : IslandMem) (vn : Nat) : Nat :=
  let v := vcOf m vn
  let old := if v.state = .resizing then
      ((deckleBanks v.oldMap).filter fun b => !(deckleBanks v.deckle).contains b).length else 0
  let cap := if vn = 0 then freeBanks m else (deckleBanks v.deckle).length
  let flag := fun (b : Bool) (n : Nat) => if b then 2 ^ n else 0
  flag v.spec.rc 55 + flag v.spec.affine 54 + flag v.spec.fifo 53 + v.spec.policy.toNat * 2 ^ 51
    + v.spec.waysCode.toNat * 2 ^ 48 + v.spec.lineCode.toNat * 2 ^ 46 + old * 2 ^ 32 + cap * 2 ^ 16
    + vn * 2 ^ 8 + flag v.shrunk 4 + flag v.psn 3 + vcCode v.state

/-- VCQ's result for an island VC number (log 23). -/
def vcqResult (m : IslandMem) (c vn sel : Nat) : Nat :=
  let v := vcOf m vn
  let others := v.state ≠ .undefined && v.spec.owner ≠ c && v.spec.owner ≠ 0xFFFF
  if vn = 63 || others then 63 * 2 ^ 8
  else match sel with
    | 0 => vcqWord m vn
    | 1 => v.mva
    | 2 => v.mvs
    | _ => v.swb

/-- The form of VCQ. -/
def vcqForm (st : BitVec 2) (d a : BitVec 6) : Form := { ctlForm st [sUse a.toNat] with dsts := [.s d.toNat] }

/-- VCQ (R271). -/
def execVcq (st : BitVec 2) (d a : BitVec 6) (s : State) : Out :=
  issue (vcqForm st d a) (fun cx s =>
    let w := (readS cx.g.regs a.toNat).toNat
    let i := cx.g.ident.island
    if bits w 63 10 ≠ 0 || bits w 7 6 ≠ 0 then .flt { cls := 0x01, status := 2 }
    else
      let e := vctEntry s i cx.g.ident.ctx (bits w 5 0) 0
      let r := vcqResult (islOf e.1 i).mem cx.g.ident.ctx (e.2.toNat % 64) (bits w 9 8)
      .ok (modGrp e.1 cx.key fun g =>
        advance 4 cx.ix { g with regs := writeS g.regs d.toNat (BitVec.ofNat 64 r) })) s

/-! ## Maintenance (R272) -/

/-- The indices of the nonzero entries of a 64 KiB table, found from the bytes memory lists. -/
def tableIndices (m : Memory) (table : Nat) : List Nat :=
  ((m.filter fun c => table ≤ c.1 && c.1 < table + 65536).map fun c => (c.1 - table) / 8).eraseDups

/-- The leaves a table of a level maps in [lo, hi): virtual start, entry, address, level. -/
def leavesFrom (s : State) (i lo hi : Nat) : Nat → Nat → Nat → List (Nat × DWord × Nat × Nat)
  | 0, table, base =>
    (tableIndices (islOf s i).mem.bytes table).flatMap fun j =>
      let a := table + 8 * j
      let e := entryAt s i a
      let va := base + j * 2 ^ 16
      let start := va / leafSize e * leafSize e
      if marked s i a || !bit e.toNat 0 || malformed 0 e || hi ≤ start || start + leafSize e ≤ lo then []
      else [(va, e, a, 0)]
  | n + 1, table, base =>
    (tableIndices (islOf s i).mem.bytes table).flatMap fun j =>
      let a := table + 8 * j
      let e := entryAt s i a
      let va := base + j * 2 ^ levelShift (n + 1)
      if marked s i a || !bit e.toNat 0 || malformed (n + 1) e || hi ≤ va || va + 2 ^ levelShift (n + 1) ≤ lo then []
      else if bit e.toNat 1 then [(va, e, a, n + 1)]
      else leavesFrom s i lo hi n (frameOf e) va

/-- The leaves of a context in [lo, hi). -/
def leavesIn (s : State) (i c lo hi : Nat) : List (Nat × DWord × Nat × Nat) :=
  if hi ≤ lo then []
  else
    (List.range 4).flatMap fun j =>
      let a := descAddr s i c + 8 * j
      let e := entryAt s i a
      let va := j * 2 ^ 55
      if marked s i a || !bit e.toNat 0 || malformed 3 e || hi ≤ va || va + 2 ^ 55 ≤ lo then []
      else leavesFrom s i lo hi 2 (frameOf e) va

/-- The frames of the pages in [lo, hi) that translate for a read, with their sizes; a page whose VC an access would meet with
VCFAULT is skipped (R270). -/
def framesIn (s : State) (i c : Nat) (priv : Bool) (lo hi : Nat) : State × List (Nat × Nat) :=
  (leavesIn s i c lo hi).foldl (fun r p =>
    match transOf c p.1 .read priv (leafAt s i p.2.1 p.2.2.1 p.2.2.2) with
    | .ok l =>
      let e := vctEntry r.1 i c l.vcx 0
      match vcCheck (islOf e.1 i).mem c e.2 false with
      | .fault .. => (e.1, r.2)
      | _ => (e.1, r.2 ++ [(l.frame, l.size)])
    | _ => r) (s, [])

/-- A sector lies in one of the frames. -/
def inFrames (fs : List (Nat × Nat)) (sec : Nat) : Bool := fs.any fun f => f.1 ≤ sec * 64 && sec * 64 < f.1 + f.2

/-- A home record after the write-back of its sector, and after its drop. -/
def homeClean (drop : Bool) (h : Home) : Home :=
  let h := { h with cxl := if h.cxl = .modified then .exclusive else h.cxl, wrote := false }
  if drop then { h with shr := [], ownl := none, si := [], cxl := .invalid } else h

/-- The lines of the frames written back, and dropped by VCINV. -/
def cleanFrames (fs : List (Nat × Nat)) (drop : Bool) (m : IslandMem) : IslandMem :=
  let hostOwned := fun (sec : Nat) => (tblGet m.home sec).hst = .owned
  { m with
    sectors :=
      if drop then m.sectors.filter fun p => !inFrames fs p.1
      else m.sectors.map fun p =>
        if inFrames fs p.1 && !hostOwned p.1 then (p.1, { p.2 with dirty := false }) else p
    home := m.home.map fun p => if inFrames fs p.1 then (p.1, homeClean drop p.2) else p }

/-- A in every leaf that the maintenance walked to (R240). -/
def touchLeaves (s : State) (i : Nat) (l : List (Nat × DWord × Nat × Nat)) : State :=
  l.foldl (fun s p => setAccessed s i (.leaf p.2.1 p.2.2.1 p.2.2.2)) s

/-- The form of VCWB and VCINV. -/
def vcCleanForm (st : BitVec 2) (a b c : BitVec 6) (x : BitVec 1) : Form :=
  ctlForm st ([sUse a.toNat, sUse b.toNat] ++ if x = 1 then [sUse c.toNat] else [])

/-- VCWB and VCINV (R272; log 24). -/
def vcClean (drop : Bool) (st : BitVec 2) (a b c : BitVec 6) (x : BitVec 1) : State → Out :=
  issue (vcCleanForm st a b c x) (fun cx s =>
    let id := cx.g.ident
    let va := (readS cx.g.regs a.toNat).toNat
    let n := (readS cx.g.regs b.toNat).toNat
    let w := (readS cx.g.regs c.toNat).toNat
    let ctx := if x = 1 then w else id.ctx
    if x = 1 && w ≥ 65536 then .flt { cls := 0x01, status := 2 }
    else if x = 1 && !privileged id then .flt { cls := 0x11, status := 5 }
    else if va ≥ 2 ^ 57 || va + n > 2 ^ 57 then .flt { cls := 0x11, status := 1 }
    else if !storesDone cx.g s.seq then .wait
    else
      let r := framesIn s id.island ctx (privileged id) va (va + n)
      let s := touchLeaves r.1 id.island (leavesIn s id.island ctx va (va + n))
      pass (modMem s id.island (cleanFrames r.2 drop)) cx)

/-- VCWB (R272). -/
def execVcwb (st : BitVec 2) (a b c : BitVec 6) (x : BitVec 1) (s : State) : Out := vcClean false st a b c x s

/-- VCINV (R272). -/
def execVcinv (st : BitVec 2) (a b c : BitVec 6) (x : BitVec 1) (s : State) : Out := vcClean true st a b c x s

/-! ## Ownership requests (R291) -/

/-- The L1 of a core is pooled: a pooled group runs on it (R288). -/
def pooledCore (s : State) (i core : Nat) : Bool :=
  s.groups.any fun p => p.2.ident.island = i && p.2.ident.core = core && p.2.ident.pool

/-- A core put in its place among cores in cyclic order from a pointer. -/
def inCycle (ptr core : Nat) : List Nat → List Nat
  | [] => [core]
  | x :: t => if rankFrom ptr core ≤ rankFrom ptr x then core :: x :: t else x :: inCycle ptr core t

/-- HOME_OWNERSHIP_REQUEST (R291): requests of cores that reach the home in one clock; the sector goes from owner to owner in
cyclic order, and PTR passes the winner where several L1s ask. -/
def execHomeOwnershipRequest (island slice sector : Nat) (cores : List Nat) (s : State) : Out :=
  .next (modMem s island fun m =>
    let ptr := tblGet m.ptr slice % 256
    let l1 := fun (c : Nat) => l1Of (pooledCore s island c) c
    let order := (cores.map (· % 256)).eraseDups.foldr (inCycle ptr) []
    let asked := fun (h : Home) (c : Nat) => hostAfter (isHost (sector * 64)) (homeAfter h (l1 c) 1 .load) 1 .load
    let tied := (order.map l1).eraseDups.length ≥ 2
    { m with
      home := if order = [] then m.home
        else tblMod m.home sector fun h => { order.foldl asked h with tie := { step := s.tick, ptr := ptr, asked := order.map fun c => (c, l1 c) } }
      ptr := if tied then tblSet m.ptr slice ((order.headD 0 + 1) % 256) else m.ptr })

end Sys2Proof.Machine
end

