-- ==== Sys2Proof/Machine/Image.lean ====
section
/-! DEFINITION. The save area: how the state of a context's groups and teams lies in it, and how all of it is read back
(R163 to R165, R187, R335 to R339; the places that R335 and R336 leave free are laid out by log 26). -/

namespace Sys2Proof.Machine

open Sys2Proof

/-! ## Places (R335) -/

/-- The cores of a partition in ascending order. -/
def coresOf (qmask : DWord) : List Nat :=
  ((List.range 64).filter fun q => qmask.getLsbD q).flatMap fun q => (List.range 4).map fun j => 4 * q + j

/-- The place of a core in its partition. -/
def relCore (qmask : DWord) (core : Nat) : Nat := ((coresOf qmask).findIdx? (· = core)).getD 0

/-- Core block k of a save area. -/
def coreBlock (base k : Nat) : Nat := base + 0x10000 + k * 0x880000

/-- The save area of the group in slot g of core k. -/
def groupArea (base k g : Nat) : Nat := coreBlock base k + 0x80000 + g * 0x20000

def le8 (x : Nat) : List Byte := leBytes x 8

/-- Bytes cut or filled with zeros to n. -/
def padTo (n : Nat) (l : List Byte) : List Byte := l.take n ++ List.replicate (n - l.length) 0

/-! ## The group save area (R336) -/

/-- The three words of a T register (R242). -/
def tWords (t : TReg) : List Nat :=
  let flag := fun (b : Bool) (n : Nat) => if b then 2 ^ n else 0
  let r := t.rights
  [flag t.e 63 + flag t.cv 62 + t.base.toNat % 2 ^ 57,
   t.vcx % 64 * 2 ^ 58 + t.pbase % 2 ^ 52,
   flag (r.getLsbD 4) 36 + flag (r.getLsbD 3) 35 + flag (r.getLsbD 2) 34 + flag (r.getLsbD 1) 33 + flag (r.getLsbD 0) 32
     + t.limit.toNat % 2 ^ 32]

/-- A fragment record (R187). -/
def fragBits (f : Option Frag) : Nat :=
  match f with
  | none => 0
  | some f => 2 ^ 127 + (if f.parked.isSome then 2 ^ 126 else 0) + f.pc.toNat / 4 * 2 ^ 66 + f.mask.toNat

/-- The fragments in the order of their records: slots 0 and 1, then the spilled ones. -/
def fragOrder (g : Group) : List (Option Frag) :=
  [g.frags.find? (·.slot = 0), g.frags.find? (·.slot = 1)] ++ (g.frags.filter fun f => 2 ≤ f.slot).map some

/-- A continuation, in words from the PC it is given at. -/
def wordsOn (pc next : VAddr) (n : Nat) : Nat := (next - pc).toNat / 4 % 2 ^ n

/-- The wait record of a fragment of a group: KIND and operands (R336; the operands' places are log 26). -/
def waitWords (g : Group) (f : Option Frag) : List Nat :=
  match f with
  | none => [0, 0]
  | some f =>
    let cx : Cx := { key := 0, ix := 0, g := g, f := f }
    match f.hold with
    | .bwait k q next => [1 + k % 256 * 2 ^ 8 + wordsOn f.pc next 9 * 2 ^ 16 + q.toNat * 2 ^ 32, 0]
    | .waitn n v c next => [2 + n % 65536 * 2 ^ 8 + c.toNat * 2 ^ 24 + wordsOn f.pc next 10 * 2 ^ 32, v.toNat]
    | .rgrow n => [3 + n % 65536 * 2 ^ 8, 0]
    | _ => [if f.conv && meet cx = .wait then 4 else 0, 0]

/-- The control block (R336; the layout of words 0xA0 and 0xA8 is the model's, log 26). -/
def controlWords (g : Group) : List Nat :=
  let x := g.special
  let id := g.ident
  let flag := fun (b : Bool) (n : Nat) => if b then 2 ^ n else 0
  [x.prog, x.flags, x.fpctl, x.tcause, x.tspc, x.tstat, x.tmask, x.cutcnt, x.xlflag, g.hset].map BitVec.toNat
    ++ [g.regs.c.toNat % 128 + g.msa.toNat * 2 ^ 8 + g.msb.toNat * 2 ^ 16 + flag g.hmode 24 + flag g.hmode 25
          + g.allot * 2 ^ 32 + (claimOf g).getD 0 * 2 ^ 40,
        g.regs.badS.toNat]
    ++ ((List.range 7).map fun r => (tblGet g.regs.badP r).toNat)
    ++ [g.regs.badC.toNat % 128,
        id.kern.toNat + id.teamId.toNat * 2 ^ 32,
        id.groupId % 256 + id.coreReg % 256 * 2 ^ 8 + id.ctx % 65536 * 2 ^ 16 + id.islandReg % 2 ^ 32 * 2 ^ 32]

/-- The V poison marks: bit 2 × (64 × v + l) + sub. -/
def poisonBytes (g : Regs) : List Byte :=
  (List.range 128).flatMap fun r =>
    let b := tblGet g.badV r
    (List.range 16).map fun k =>
      BitVec.ofNat 8 (((List.range 4).map fun j =>
        (if inMask b.lo (4 * k + j) then 2 ^ (2 * j) else 0) + (if inMask b.hi (4 * k + j) then 2 ^ (2 * j + 1) else 0)).sum)

/-- A feed queue entry (R336). -/
def entryBytes (e : FeedEntry) : List Byte :=
  le8 e.mask.toNat ++ le8 (e.fmt.toNat + e.fn.toNat * 2 ^ 2 + e.rm.toNat * 2 ^ 9 + 2 ^ 15)
    ++ lanes64.flatMap fun l => le8 (e.vals.getD l 0).toNat

/-- A feed queue of eight places. -/
def queueBytes (q : List FeedEntry) : List Byte := padTo 4224 (q.flatMap entryBytes)

/-- A feed window. -/
def windowBytes (w : FeedWindow) : List Byte := queueBytes w.q0 ++ queueBytes w.q1 ++ queueBytes w.q2 ++ queueBytes w.q3

/-- The V registers: register v, lane l at 4 × (W × v + l). -/
def vBytes (g : Group) : List Byte :=
  (List.range 128).flatMap fun r => (List.range (lanesIn g)).flatMap fun l => leBytes (readV g.regs r l).toNat 4

/-- The last park record of a fragment (R251). -/
def parkBytes (m : IslandMem) (f : Option Frag) : List Byte :=
  match f.bind (·.parked) with
  | none => List.replicate 128 0
  | some k => recordBytes (tblGet m.parks k).record

/-- The held list. -/
def heldBytes (g : Group) : List Byte := padTo 64 (g.held.flatMap fun h => le8 h.cause.toNat ++ le8 (pcWord h.pc).toNat)

/-- The saved operands of a stopped MMAP (R179). -/
def mmapBytes (g : Group) : List Byte :=
  match g.mmapSaved with
  | none => List.replicate 64 0
  | some (a, b, rm) => padTo 64 (le8 a.toNat ++ le8 b.toNat ++ le8 rm.toNat)


/-- The radix-4 exponent of a stream: the least E with m × 2^e at most (2/3) × 4^E, so that its first digit is not zero
(R98, R99; the digits of a unit are its own, log 29). -/
def radixExp (m : Nat) (e : Int) : Int :=
  let h := (Int.ofNat (Nat.log2 m) + e) / 2
  if 3 * m ≤ 2 ^ (3 + 2 * h - e).toNat then h + 1 else h + 2

/-- n more digits of the remainder r / 2^k, each the nearest integer to four times it from −2 to 2. -/
def radixDigits (k : Nat) : Nat → Int → List Int
  | 0, _ => []
  | n + 1, r =>
    let d := max (-2) (min 2 ((8 * r + 2 ^ k) / 2 ^ (k + 1)))
    d :: radixDigits k n (4 * r - d * 2 ^ k)

/-- The radix-4 exponent of a stream that has digits. -/
def StreamVal.radix (x : StreamVal) : Int := if x.need = 0 then 0 else radixExp x.mag x.exp

/-- The first n digits of a stream. -/
def streamDigits (x : StreamVal) (n : Nat) : List Int :=
  let k := (2 * radixExp x.mag x.exp - x.exp).toNat
  radixDigits k n (if x.neg then -(x.mag : Int) else x.mag)

/-- The clock after that of the last digit needed of the links that write registers (R161). -/
def chainEnd (c : ChainRec) : Nat :=
  c.streams.foldl (fun t p => p.2.zipIdx.foldl (fun t x =>
    if c.sinks.getLsbD x.2 then t
    else max t (match x.1.decided with | some d => d + 2 | none => x.1.start + max 1 x.1.need)) t) 0

/-- The digit clocks that have elapsed when the chain is saved: how many is timing, and free between those at its last save and
its retirement (R161, R164; log 6). -/
def chainClock (c : ChainRec) : Nat :=
  min 255 (c.clk + (Config.chainDigits c.id).toNat % max 1 (chainEnd c - c.clk))

/-- The digits that a link has emitted after n clocks, one a clock from its first; a link that is cut emits no more (R161). -/
def emitted (x : StreamVal) (n : Nat) : Nat :=
  min x.need ((match x.cutAt with | some c => min n (c + 1) | none => n) - x.start)

/-- The link is cut after n clocks. -/
def cutBy (x : StreamVal) (n : Nat) : Bool := x.cutAt.any fun c => c < n

/-- After n clocks the link has emitted every digit it needs: all of them, or it has decided or is cut (R160, R164). -/
def doneBy (x : StreamVal) (n : Nat) : Bool :=
  cutBy x n || x.decided.any (fun c => c < n) || (x.start < n && x.need ≤ n - x.start)

/-- A link's field of a lane record after n clocks: its class, its exponent and the digits emitted so far (R98, R164). EXP has
20 bits, and holds the exponent modulo 2^20: R98 leaves it unbounded, and what an exponent beyond the field gives is the model's
choice (log 29). -/
def linkBits (x : StreamVal) (n : Nat) : Nat :=
  if n ≤ x.start then 6 * 2 ^ 113
  else
    let ds := streamDigits x (emitted x n)
    let dig := (ds.zipIdx.map fun d => wrap d.1 3 * 8 ^ d.2).sum
    x.cls * 2 ^ 113 + ds.length * 2 ^ 108 + wrap x.radix 20 * 2 ^ 88 + dig

/-- The links of a lane with a property, as bits. -/
def linkSet (xs : List StreamVal) (f : StreamVal → Bool) : Nat := ((xs.zipIdx.filter fun p => f p.1).map fun p => 2 ^ p.2).sum

/-- A lane record after n clocks (R164): DONE marks the links that have emitted all they need, and CUT those that are cut. -/
def laneRecord (c : ChainRec) (n l : Nat) : Nat :=
  let xs := tblGet c.streams l
  n + linkSet xs (cutBy · n) * 2 ^ 8 + linkSet xs (doneBy · n) * 2 ^ 16
    + (xs.zipIdx.map fun p => linkBits p.1 n * 2 ^ (64 + 120 * p.2)).sum

/-- The flags determined after n clocks: those of the links that are done (R163). -/
def flagsBy (c : ChainRec) (n : Nat) : BitVec 5 :=
  c.streams.foldl (fun fl p => p.2.foldl (fun fl x => if doneBy x n then fl ||| x.flg else fl) fl) 0

/-- The record of the chain of a fragment slot, VALID = 0 where none is in flight (R163). -/
def chainBytes (tag : Nat) (g : Group) (f : Option Frag) : List Byte :=
  match f.bind fun f => g.chains.find? fun c => c.pc = f.pc && c.mask = f.mask with
  | none => List.replicate 8256 0
  | some c =>
    let n := chainClock c
    padTo 8256 (leBytes (1 + (flagsBy c n).toNat * 2 ^ 8 + c.rm.toNat * 2 ^ 19 + (c.links - 1) % 8 * 2 ^ 21 + c.sinks.toNat * 2 ^ 24
        + tag % 2 ^ 32 * 2 ^ 32 + c.pc.toNat * 2 ^ 64 + c.mask.toNat * 2 ^ 128) 64
      ++ (List.range (lanesIn g)).flatMap fun l =>
        if inMask c.mask l then leBytes (laneRecord c n l) 128 else List.replicate 128 0)

/-- The code of a page size, and the size of a code (R239). -/
def sizeCode (n : Nat) : Nat := if n = 2 ^ 16 then 0 else if n = 2 ^ 21 then 1 else 2

def codeSize (n : Nat) : Nat :=
  match n with
  | 0 => 2 ^ 16
  | 1 => 2 ^ 21
  | _ => 2 ^ 29

/-- The words of a group that R336 gives no place: its width, its kernel's values, its fault sources, its time, the
page sizes of its T registers (log 26). -/
def restWords (g : Group) : List Nat :=
  let id := g.ident
  let flag := fun (b : Bool) (n : Nat) => if b then 2 ^ n else 0
  [1 + flag (g.state = .spilled) 1 + id.width.toNat * 2 ^ 2 + flag id.sbchk 4 + flag id.pool 5 + id.base * 2 ^ 8 + id.max * 2 ^ 16
      + flag id.handlerPc.isSome 24 + flag g.stream.isSome 25 + flag id.areaVcx.isSome 26 + flag g.mmapSaved.isSome 27
      + (g.held.zipIdx.map fun p => flag p.1.remote (32 + p.2)).sum,
   (id.handlerPc.getD 0).toNat, g.stream.getD 0, id.areaVcx.getD 0, g.age,
   ((List.range 8).map fun t => sizeCode (readT g.regs t).size * 4 ^ t).sum]

/-- The flags of the results in a feed window's entries, a byte for each lane (log 26). -/
def flagBytes (w : FeedWindow) : List Byte :=
  [w.q0, w.q1, w.q2, w.q3].flatMap fun q =>
    padTo 512 (q.flatMap fun e => lanes64.map fun l => (e.flgs.getD l 0).setWidth 8)

/-- The 128 KiB of a group on a core with the given CHTAG. From 0x3100 stand the time waited, the waits of spilled fragments
and restWords; from 0x12800 the flags of its results (log 26). -/
def groupBytes (tag : Nat) (m : IslandMem) (g : Group) : List Byte :=
  let fs := fragOrder g
  let own := padTo 512 (fs.flatMap fun f => le8 ((f.map Frag.waited).getD 0))
    ++ padTo 1024 (fs.flatMap fun f => (waitWords g f).flatMap le8)
    ++ (restWords g).flatMap le8
  let low :=
    ((List.range 64).flatMap fun r => le8 (readS g.regs r).toNat)
    ++ padTo 256 ((controlWords g).flatMap le8)
    ++ ((List.range 8).flatMap fun t => (tWords (readT g.regs t)).flatMap le8)
    ++ ((List.range 7).flatMap fun r => le8 (readP g.regs r).toNat) ++ List.replicate 8 0
    ++ padTo 1024 (fs.flatMap fun f => leBytes (fragBits f) 16)
    ++ padTo 0x2000 (fs.flatMap (parkBytes m))
    ++ mmapBytes g ++ heldBytes g
    ++ ((waitWords g (fs.getD 0 none) ++ waitWords g (fs.getD 1 none)).flatMap le8)
  padTo 0x20000 (padTo 0x18000 (padTo 0x12800 (padTo 0x9000 (padTo 0x6100 (padTo 0x4000
            (padTo 0x2900 low ++ poisonBytes g.regs ++ own)
          ++ chainBytes tag g (fs.getD 0 none)) ++ chainBytes tag g (fs.getD 1 none))
        ++ windowBytes g.win0 ++ windowBytes g.win1)
      ++ flagBytes g.win0 ++ flagBytes g.win1) ++ vBytes g)

/-! ## Reading a group back -/

/-- A T register from its image, and the code of its page's size. -/
def tOf (w0 w1 w2 code : Nat) : TReg :=
  { e := bit w0 63, cv := bit w0 62, base := BitVec.ofNat 64 (bits w0 56 0), vcx := bits w1 63 58, pbase := bits w1 51 0
    rights := BitVec.ofNat 8 (bits w2 36 32), limit := BitVec.ofNat 64 (bits w2 31 0), size := codeSize code }

/-- The hold of a wait record of a fragment at pc; a convergent wait begins again at its instruction. -/
def holdOf (w0 w1 : Nat) (pc : VAddr) : Hold :=
  match bits w0 7 0 with
  | 1 => .bwait (bits w0 15 8) (bv 32 (bits w0 63 32)) (continuation pc (bv 9 (bits w0 24 16)))
  | 2 => .waitn (bits w0 23 8) (BitVec.ofNat 64 w1) (bv 2 (bits w0 25 24)) (continuation pc (bv 10 (bits w0 41 32)))
  | 3 => .rgrow (bits w0 23 8)
  | _ => .none

/-- Where the wait record of fragment i stands. -/
def waitPlace (a i : Nat) : Nat := a + (if i < 2 then 0x2880 else 0x3300) + 16 * i

/-- The fragment of record i of a group save area, where it is valid. -/
def fragAt (m : Memory) (a : Nat) (hmode : Bool) (hset : Mask) (i : Nat) : Option Frag :=
  let x := memNat m (a + 0x400 + 16 * i) 16
  if !bit x 127 then none
  else
    let mask := BitVec.ofNat 64 (bits x 63 0)
    let pc : VAddr := BitVec.ofNat 57 (bits x 120 66 * 4)
    let w0 := memNat m (waitPlace a i) 8
    let w1 := memNat m (waitPlace a i + 8) 8
    some {
      mask := mask, pc := pc, slot := if i < 2 then i else 2
      parked := if bit x 126 then some (memNat m (a + 0x800 + 128 * i + 8) 4) else none
      handler := hmode && mask &&& ~~~hset = 0
      hold := holdOf w0 w1 pc, conv := bits w0 7 0 = 4, waited := memNat m (a + 0x3100 + 8 * i) 8 }

/-- A feed queue read back, with the flags of its results; every entry was pushed before what now issues (R198). -/
def queueAt (m : Memory) (a flags : Nat) : List FeedEntry :=
  ((List.range 8).filterMap fun j =>
    let p := a + 528 * j
    let w := memNat m (p + 8) 8
    if !bit w 15 then none
    else some ({
      mask := BitVec.ofNat 64 (memNat m p 8), fmt := bv 2 (bits w 1 0), fn := bv 7 (bits w 8 2), rm := bv 2 (bits w 10 9)
      vals := lanes64.map fun l => BitVec.ofNat 64 (memNat m (p + 16 + 8 * l) 8)
      flgs := lanes64.map fun l => bv 5 (memGet m (flags + 64 * j + l)).toNat } : FeedEntry))

/-- A feed window read back. -/
def windowAt (m : Memory) (a flags : Nat) : FeedWindow :=
  { q0 := queueAt m a flags, q1 := queueAt m (a + 4224) (flags + 512), q2 := queueAt m (a + 8448) (flags + 1024)
    q3 := queueAt m (a + 12672) (flags + 1536) }

/-- The row of register r. -/
def rowAt (m : Memory) (a w r : Nat) : Row :=
  (List.range w).map fun l => BitVec.ofNat 32 (memNat m (a + 0x18000 + 4 * (w * r + l)) 4)

/-- The poison marks of register r. -/
def markAt (m : Memory) (a r : Nat) : VMark :=
  let x := memNat m (a + 0x2900 + 16 * r) 16
  { lo := maskOf fun l => bit x (2 * l), hi := maskOf fun l => bit x (2 * l + 1) }

/-- The V registers below n, and their marks, read back. -/
def loadV (m : Memory) (a w n : Nat) (g : Regs) : Regs :=
  { g with
    v := (List.range n).map fun r => (r, rowAt m a w r)
    badV := (List.range n).map fun r => (r, markAt m a r) }

/-- The rounding mode that a chain restarts under, from its record (R165). -/
def chainRecordRm (m : Memory) (a : Nat) (f : Option Frag) (place : Nat) : List (VAddr × Mask × BitVec 2) :=
  match f with
  | none => []
  | some f =>
    let h := memNat m (a + place) 8
    if bit h 0 then [(f.pc, f.mask, bv 2 (bits h 20 19))] else []

/-- The identity of a group read back from its save area, on the place p (R37, R339). -/
def loadIdent (m : Memory) (a : Nat) (p : Ident) : Ident :=
  let word := fun (o : Nat) => memNat m (a + o) 8
  let ids := word 0x2A8
  let r := word 0x3700
  { p with
    kern := bv 32 (bits (word 0x2A0) 31 0), teamId := bv 32 (bits (word 0x2A0) 63 32)
    groupId := bits ids 7 0, coreReg := bits ids 15 8, islandReg := bits ids 63 32
    width := bv 2 (bits r 3 2), sbchk := bit r 4, pool := bit r 5, base := bits r 15 8, max := bits r 23 16
    handlerPc := if bit r 24 then some (BitVec.ofNat 57 (word 0x3708)) else none
    areaVcx := if bit r 26 then some (word 0x3718 % 64) else none }

/-- A group read back from its save area, on the place p (R336, R339). -/
def loadGroup (m : Memory) (a : Nat) (p : Ident) : Group :=
  let word := fun (o : Nat) => memNat m (a + o) 8
  let dw := fun (o : Nat) => BitVec.ofNat 64 (word o)
  let x := word 0x250
  let hmode := bit x 24
  let hset := dw 0x248
  let fr := fragAt m a hmode hset
  let allot := bits x 39 32
  let r := word 0x3700
  let id := loadIdent m a p
  let w := widthLanes id.width
  let regs : Regs := loadV m a w allot {
    s := (List.range 63).map fun r => (r, dw (8 * r))
    p := (List.range 7).map fun r => (r, dw (0x3C0 + 8 * r))
    c := bv 8 (bits x 6 0)
    t := (List.range 8).map fun t => (t, tOf (word (0x300 + 24 * t)) (word (0x308 + 24 * t)) (word (0x310 + 24 * t)) (word 0x3728 / 4 ^ t % 4))
    badS := dw 0x258
    badP := (List.range 7).map fun r => (r, dw (0x260 + 8 * r))
    badC := bv 8 (bits (word 0x298) 6 0) }
  let frags := (List.range 64).filterMap fr
  { state := if bit r 1 then .spilled else .active
    regs := regs
    special := { prog := dw 0x200, flags := dw 0x208, fpctl := dw 0x210, tcause := dw 0x218, tspc := dw 0x220
                 tstat := dw 0x228, tmask := dw 0x230, cutcnt := dw 0x238, xlflag := dw 0x240 }
    ident := id
    msa := bv 6 (bits x 13 8), msb := bv 6 (bits x 21 16)
    allot := allot
    hmode := hmode, hset := hset
    frags := frags
    exitedLanes := fullMask w &&& ~~~(frags.foldl (fun k f => k ||| f.mask) 0)
    win0 := windowAt m (a + 0x9000) (a + 0x12800)
    win1 := windowAt m (a + 0x9000 + 16896) (a + 0x12800 + 2048)
    stream := if bit r 25 then some (word 0x3710) else none
    mmapSaved := if bit r 27 then some (dw 0x2800, dw 0x2808, bv 2 (bits (word 0x2810) 1 0)) else none
    held := (List.range 4).filterMap fun j =>
      let c := word (0x2840 + 16 * j)
      if c = 0 then none
      else some { cause := BitVec.ofNat 64 c, pc := BitVec.ofNat 57 (word (0x2848 + 16 * j)), remote := bit r (32 + j) }
    chainRm := chainRecordRm m a (fr 0) 0x4000 ++ chainRecordRm m a (fr 1) 0x6100
    age := word 0x3720 }

/-- The words of a parked fragment's last record (R251). -/
def parkRecordAt (m : Memory) (a i : Nat) : List DWord :=
  (List.range 12).map fun j => BitVec.ofNat 64 (memNat m (a + 0x800 + 128 * i + 8 * j) 8)

/-! ## Malformed images (R187, R336) -/

/-- Fragment record i of a group save area has a reserved bit, or is valid with an empty mask (R187). -/
def fragRecordBad (m : Memory) (a i : Nat) : Bool :=
  let f := memNat m (a + 0x400 + 16 * i) 16
  bits f 125 121 ≠ 0 || bits f 65 64 ≠ 0 || (bit f 127 && bits f 63 0 = 0)

/-- A PC as TSPC holds it has a reserved bit (R36). -/
def pcWordBad (x : Nat) : Bool := bits x 63 57 ≠ 0 || bits x 1 0 ≠ 0

/-- The saved park record of fragment i, where it is parked, has a reserved bit or code (R248). -/
def parkRecordBad (m : Memory) (a i : Nat) : Bool :=
  let f := memNat m (a + 0x400 + 16 * i) 16
  let word := fun (j : Nat) => memNat m (a + 0x800 + 128 * i + 8 * j) 8
  bit f 127 && bit f 126
    && (bits (word 0) 63 56 ≠ 0 || bits (word 0) 47 46 = 3 || pcWordBad (word 2)
      || (List.range 4).any fun j => word (12 + j) ≠ 0)

/-- A reserved field of the save area of a group is set (R336). The digit state of a chain is judged by R165 alone, which
makes the header issue again (log 29). -/
def groupMalformed (m : Memory) (a : Nat) : Bool :=
  let word := fun (o : Nat) => memNat m (a + o) 8
  let x := word 0x250
  let fpctl := word 0x210
  let badT := fun (t : Nat) =>
    bits (word (0x300 + 24 * t)) 61 57 ≠ 0 || bits (word (0x308 + 24 * t)) 57 52 ≠ 0 || bits (word (0x310 + 24 * t)) 63 37 ≠ 0
  let badEntry := fun (j : Nat) =>
    let w := word (0x9000 + 528 * j + 8)
    bits w 63 16 ≠ 0 || bits w 14 11 ≠ 0
  bits (word 0x200) 62 32 ≠ 0 || bits (word 0x208) 63 5 ≠ 0 || bits fpctl 63 13 ≠ 0 || bits fpctl 7 2 ≠ 0
    || bits (word 0x218) 31 24 ≠ 0 || pcWordBad (word 0x220) || bits (word 0x240) 63 1 ≠ 0
    || bit x 7 || bits x 15 14 ≠ 0 || bits x 23 22 ≠ 0 || bits x 31 26 ≠ 0 || bits x 63 48 ≠ 0
    || bits (word 0x298) 63 7 ≠ 0 || (List.range 10).any (fun j => word (0x2B0 + 8 * j) ≠ 0)
    || bits (word 0x2810) 63 2 ≠ 0 || (List.range 5).any (fun j => word (0x2818 + 8 * j) ≠ 0)
    || (List.range 4).any (fun j => bits (word (0x2840 + 16 * j)) 31 24 ≠ 0 || pcWordBad (word (0x2848 + 16 * j)))
    || (List.range 2).any (fun j => bits (word (0x2880 + 16 * j)) 7 0 > 4)
    || (List.range 64).any (parkRecordBad m a) || (List.range 8).any badT || (List.range 64).any badEntry

/-- A barrier record has a reserved bit or code (R234, R335). -/
def barRecordBad (m : Memory) (a : Nat) : Bool :=
  let x := memNat m a 64
  bits x 511 320 ≠ 0 || bits x 255 240 ≠ 0 || bit x 191 || bit x 175 || bits x 127 120 ≠ 0 || bits x 119 112 > 4 || bit x 111
    || bits x 15 0 ≠ 0

/-! ## The core block (R335) -/

/-- Teams of an island that stand on a core, in order. -/
def coreTeams (s : State) (i core : Nat) : List (Nat × Team) :=
  s.teams.filter fun p => p.2.island = i && p.2.cores.contains core

/-- What the teams before team t on a core hold of a resource. -/
def teamOffset (ts : List (Nat × Team)) (t : Nat) (f : Team → Nat) : Nat :=
  ((ts.filter fun p => p.1 < t).map fun p => f p.2).sum

/-- The team address of byte j of the storage of team core ix (R40). -/
def teamAddr (k ix j : Nat) : Nat := ((j / 256) * k + ix) * 256 + j % 256

/-- The storage of a team on its core ix. -/
def teamSlice (t : Team) (ix : Nat) : List Byte :=
  (List.range t.tmem).map fun j => memGet t.mem (teamAddr t.cores.length ix j)

/-- The image of a tile: its 1,024 elements. -/
def tileBytes (t : Tile) : List Byte := (List.range 1024).flatMap fun e => leBytes (tblGet t.elems e).toNat 4

/-- STATE of a barrier in its record (R335). -/
def barCode : BarState → Nat
  | .idle => 0 | .armed => 1 | .complete => 2 | .invalid => 3 | .timedOut => 4

/-- The record of a barrier: the snapshot's layout, with STATE in full, and CLASS and STATUS zero. -/
def barBytes (s : State) (t key : Nat) : List Byte :=
  let b := barOf s t key
  let x := snapshotBits s t key b 0
  leBytes (putBits (putBits x 7 0 0) 119 112 (barCode b.state)) 128

/-- A team's storage, tiles and barriers on one of its cores, written into the core's block. -/
def saveTeamCore (s : State) (ts : List (Nat × Team)) (t : Nat) (ix block : Nat) (m : Memory) : Memory :=
  let x := teamOf s t
  let o := fun (f : Team → Nat) => teamOffset ts t f
  let m := memBlit m (block + o (·.tmem)) (teamSlice x ix)
  let m := (List.range x.ntiles).foldl (fun m n =>
    memBlit m (block + 0x40000 + 4096 * (o (·.ntiles) + n)) (tileBytes (tblGet x.tiles (ix * 32 + n)))) m
  (List.range x.nbars).foldl (fun m n =>
    memBlit m (block + 0x60000 + 128 * (o (·.nbars) + n)) (barBytes s t (ix * 64 + n))) m

/-- Bits as bytes, eight to a byte. -/
def bitBytes (n : Nat) (f : Nat → Bool) : List Byte :=
  (List.range n).map fun k => BitVec.ofNat 8 (((List.range 8).map fun j => if f (8 * k + j) then 2 ^ j else 0).sum)

/-- The code of a tile's state (log 26). -/
def tileCode (x : Tile) : Nat :=
  (match x.state with | .zeroed => 0 | .accumulating => 1 | .finished => 2 | .draining => 3) + if x.wasZero then 4 else 0

/-- The record of a team: its shape, its kernel's values, its cores with its places on them, who has exited, and the places of
its groups (log 26). -/
def teamBytes (s : State) (qmask : DWord) (t : Nat) : List Byte :=
  let x := teamOf s t
  let core := fun (c : Nat) =>
    let o := teamOffset (coreTeams s x.island c) t
    relCore qmask c % 256 + o (·.tmem) * 2 ^ 8 + o (·.ntiles) * 2 ^ 32 + o (·.nbars) * 2 ^ 40
  let place := fun (k : Nat) => let id := (grpOf s k).ident; leBytes (relCore qmask id.core % 256 + id.slot % 256 * 2 ^ 8) 2
  padTo 0x80 (
    le8 (1 + x.cores.length % 8 * 2 + x.width.toNat * 2 ^ 4 + (if x.pool then 2 ^ 6 else 0) + x.regBase % 256 * 2 ^ 8
      + x.ntiles % 256 * 2 ^ 16 + x.nbars % 256 * 2 ^ 24 + x.tmem % 2 ^ 32 * 2 ^ 32)
    ++ le8 (x.kern.toNat + x.teamId.toNat * 2 ^ 32) ++ le8 x.bartime ++ le8 x.grid
    ++ padTo 32 (x.cores.flatMap fun c => le8 (core c))
    ++ leBytes (groupBits x.exited) 32 ++ le8 x.groups.length)
  ++ padTo 0x380 (x.groups.flatMap place)

/-- The states of the tiles and the lost words of tiles and team memory of a team on its core ix (R421; log 26). -/
def saveTeamMarks (s : State) (ts : List (Nat × Team)) (t ix block : Nat) (m : Memory) : Memory :=
  let x := teamOf s t
  let o := fun (f : Team → Nat) => teamOffset ts t f
  let tile := fun (n : Nat) => tblGet x.tiles (ix * 32 + n)
  let m := memBlit m (block + 0x72000 + o (·.tmem) / 256)
    (bitBytes (x.tmem / 256) fun j => x.dead.contains (teamAddr x.cores.length ix (32 * j) / 32))
  let m := memBlit m (block + 0x73000 + 16 * o (·.ntiles))
    ((List.range x.ntiles).flatMap fun n => bitBytes 16 fun j => (tile n).dead.contains j)
  memBlit m (block + 0x74000 + o (·.ntiles)) ((List.range x.ntiles).map fun n => BitVec.ofNat 8 (tileCode (tile n)))

/-- A barrier read back from its record. -/
def barAt (m : Memory) (a : Nat) : Bar :=
  let x := memNat m a 128
  { state := match bits x 119 112 with
      | 0 => .idle | 1 => .armed | 2 => .complete | 3 => .invalid | _ => .timedOut
    ph := bv 32 (bits x 159 128), expect := bits x 174 160, remain := bits x 190 176, pend := signed (bits x 231 192) 40
    eng := bits x 239 232, teamScope := bit x 110, timer := 1000 * bits x 287 256 }

/-- The state of a tile's code. -/
def tileStateOf (n : Nat) : TileState :=
  match n % 4 with
  | 0 => .zeroed | 1 => .accumulating | 2 => .finished | _ => .draining

/-- Tile n of a core block read back. -/
def tileAt (m : Memory) (block n : Nat) : Tile :=
  let a := block + 0x40000 + 4096 * n
  let st := (memGet m (block + 0x74000 + n)).toNat
  let w := memWindow m a (a + 4096)
  { state := tileStateOf st, wasZero := bit st 2
    elems := ((List.range 1024).map fun e => (e, BitVec.ofNat 32 (memNat w (a + 4 * e) 4))).filter fun p => p.2 ≠ 0
    dead := (List.range 128).filter fun j => bit (memGet m (block + 0x73000 + 16 * n + j / 8)).toNat (j % 8) }

/-- A team's storage, tiles and barriers on its core ix, read back from the core's block; `at_` holds its places there. -/
def loadTeamCore (m : Memory) (ix block at_ : Nat) (x : Team) : Team :=
  let mo := bits at_ 31 8
  let w := memWindow m (block + mo) (block + mo + x.tmem)
  let mem := (w.map fun c => (teamAddr x.cores.length ix (c.1 - block - mo), c.2)).foldl (fun k c => memSet k c.1 c.2) x.mem
  let dead := ((List.range (x.tmem / 32)).filter fun j =>
    bit (memGet m (block + 0x72000 + mo / 256 + j / 8)).toNat (j % 8)).map fun j => teamAddr x.cores.length ix (32 * j) / 32
  let tiles := (List.range x.ntiles).foldl (fun l n => tblSet l (ix * 32 + n) (tileAt m block (bits at_ 39 32 + n))) x.tiles
  let bars := (List.range x.nbars).foldl (fun l n =>
    tblSet l (ix * 64 + n) (barAt m (block + 0x60000 + 128 * (bits at_ 47 40 + n)))) x.bars
  { x with mem := mem, dead := x.dead ++ dead, tiles := tiles, bars := bars }

/-- The team of the record at address a of a core block, over the cores of its partition (R335, R339). -/
def loadTeam (m : Memory) (base a island ctx : Nat) (cores : List Nat) : Team :=
  let word := fun (j : Nat) => memNat m (a + 8 * j) 8
  let w := word 0
  let k := bits w 3 1
  let here := (List.range k).map fun j => word (4 + j)
  let t : Team := {
    island := island, ctx := ctx, grid := word 3
    kern := bv 32 (bits (word 1) 31 0), teamId := bv 32 (bits (word 1) 63 32)
    cores := here.map fun x => nth cores (x % 256)
    width := bv 2 (bits w 5 4), pool := bit w 6, tmem := bits w 63 32, ntiles := bits w 23 16, nbars := bits w 31 24
    bartime := word 2, regBase := bits w 15 8
    groups := (List.range (word 12)).map fun n =>
      let p := memNat m (a + 0x80 + 2 * n) 2
      groupKey island (nth cores (p % 256)) (p / 256 % 64)
    exited := (List.range 256).filter fun n => bit (memNat m (a + 64) 32) n }
  here.zipIdx.foldl (fun t x => loadTeamCore m x.2 (coreBlock base (x.1 % 256)) x.1 t) t

/-- Where record n of the teams of core block k stands. -/
def teamPlace (base k n : Nat) : Nat := coreBlock base k + 0x62000 + 0x400 * n

/-! ## The whole image -/

/-- The VC record of a VCX (R335). -/
def vcRecord (s : State) (i c vcx : Nat) : Nat :=
  let m := (islOf s i).mem
  let vn := (memGet m.bytes (descAddr s i c + 0x20 + vcx)).toNat % 64
  let v := vcOf m vn
  if vn = 63 then 63
  else
    let n := if vn = 0 then freeBanks m else (deckleBanks v.deckle).length
    vn + n * 2 ^ 8 + v.spec.lineCode.toNat * 2 ^ 24 + v.spec.waysCode.toNat * 2 ^ 26 + v.spec.policy.toNat * 2 ^ 29
      + (if v.spec.rc then 2 ^ 33 else 0)

/-- Quads of a mask. -/
def quadCount (q : DWord) : Nat := popCount q.toNat 64

/-- The places of a save area of n cores that say what stands in it: the header, and of each core block the barriers, the
team records and marks, and the fragment records of every slot. -/
def areaMark (base n a : Nat) : Bool :=
  let o := a - base
  let b := (o - 0x10000) % 0x880000
  let g := (b - 0x80000) % 0x20000
  base ≤ a
    && (o < 0x500
      || (0x10000 ≤ o && (o - 0x10000) / 0x880000 < n
        && ((0x60000 ≤ b && b < 0x75000) || (0x80000 ≤ b && 0x400 ≤ g && g < 0x800))))

/-- Those places cleared. -/
def clearArea (base n : Nat) (m : Memory) : Memory := m.filter fun c => !areaMark base n c.1

/-- The partition header. -/
def headerBytes (s : State) (i c : Nat) : List Byte :=
  let x := ctxOf s i c
  padTo 0x100 (le8 (c % 65536 + i % 64 * 2 ^ 16 + quadCount x.qmask * 2 ^ 24) ++ le8 x.qmask.toNat)
    ++ (List.range 64).flatMap fun v => leBytes (vcRecord s i c v) 16

/-- The image of a context written to its save area (R335, R336). -/
def writeImage (s : State) (i c : Nat) : State :=
  let x := ctxOf s i c
  let base := x.saveBase
  let isl := (islOf s i).mem
  let m := memBlit (clearArea base (coresOf x.qmask).length isl.bytes) base (headerBytes s i c)
  let m := (s.teams.filter fun p => p.2.island = i && p.2.ctx = c).foldl (fun m p =>
    let first := p.2.cores.headD 0
    let n := ((coreTeams s i first).filter fun q => q.1 < p.1 && q.2.cores.headD 0 = first).length
    p.2.cores.zipIdx.foldl (fun m k =>
      let ts := coreTeams s i k.1
      let block := coreBlock base (relCore x.qmask k.1)
      saveTeamMarks s ts p.1 k.2 block (saveTeamCore s ts p.1 k.2 block m))
      (memBlit m (teamPlace base (relCore x.qmask first) n) (teamBytes s x.qmask p.1))) m
  let m := (ctxGroups s i c).foldl (fun m p =>
    memBlit m (groupArea base (relCore x.qmask p.2.ident.core) p.2.ident.slot)
      (groupBytes (tblGet (islOf s i).cores p.2.ident.core).chtag.toNat isl p.2)) m
  modMem s i fun y => { y with bytes := m }

/-- Bytes of the lines that n bytes occupy. -/
def inLines (n : Nat) : Nat := (n + 63) / 64 * 64

/-- Bytes of the lines that the image of a group occupies: each of its areas as far as it holds something, a chain record that
is not valid with its first line, and of the V registers and their marks those allotted (R334, R336). -/
def groupLines (g : Group) : Nat :=
  let w := lanesIn g
  let fs := fragOrder g
  let part := fun (b : Bool) => if b then 64 else 0
  let entries := fun (x : FeedWindow) => ([x.q0, x.q1, x.q2, x.q3].map fun q => inLines (528 * q.length) + inLines (64 * q.length)).sum
  let chain := fun (f : Option Frag) =>
    if (f.bind fun f => g.chains.find? fun c => c.pc = f.pc && c.mask = f.mask).isSome then 64 + 128 * w else 64
  0x800 + 128 * (g.frags.filter fun f => f.parked.isSome).length + part g.mmapSaved.isSome + part (g.held ≠ []) + 64
    + inLines (16 * g.allot) + inLines (8 * fs.length) + inLines (16 * fs.length) + 64
    + chain (fs.getD 0 none) + chain (fs.getD 1 none) + entries g.win0 + entries g.win1 + 4 * w * g.allot

/-- Bytes of the lines that an image occupies (R334): its header, its groups, and of its teams the storage, tiles and barriers of
each core, with the teams' records and marks (log 26). -/
def imageSize (s : State) (i c : Nat) : Nat :=
  let ts := s.teams.filter fun p => p.2.island = i && p.2.ctx = c
  0x500 + ((ctxGroups s i c).map fun p => groupLines p.2).sum
    + (ts.map fun p =>
      let t := p.2
      inLines (0x80 + 2 * t.groups.length)
        + t.cores.length * (t.tmem + 4096 * t.ntiles + 128 * t.nbars + inLines (t.tmem / 256) + inLines (17 * t.ntiles))).sum

end Sys2Proof.Machine
end

