-- ==== Sys2Proof/Machine/Save.lean ====
section
/-! DEFINITION. Contexts: commands, halting, saving and restoring, freezes, progress beats, register claims, TRINV
(R202 to R204, R245, R251, R313 to R319, R331 to R341; log 26). -/

namespace Sys2Proof.Machine

open Sys2Proof

/-! ## The descriptor (R314) -/

/-- The 64-bit word of a context's descriptor at an offset. -/
def descWord (s : State) (i c o : Nat) : Nat := memNat (islOf s i).mem.bytes (descAddr s i c + o) 8

/-- A descriptor is not well formed. -/
def descBad (s : State) (i c : Nat) : Bool :=
  let w := descWord s i c
  let q := popCount (w 0x68) 64
  !bit (w 0x60) 0 || bits (w 0x60) 63 3 ≠ 0 || q < 1 || q > 8 || w 0x70 % 65536 ≠ 0 || w 0x70 ≥ hbmEnd
    || bits (w 0x78) 63 6 ≠ 0 || bits (w 0x80) 63 32 ≠ 0 || bits (w 0x88) 63 32 ≠ 0
    || (List.range 46).any fun j => w (0x90 + 8 * j) ≠ 0

/-- The descriptor copied. -/
def copyDescriptor (s : State) (i c : Nat) (x : Context) : Context :=
  let w := descWord s i c
  { x with
    priv := bit (w 0x60) 1, shrink := bit (w 0x60) 2
    qmask := BitVec.ofNat 64 (w 0x68), saveBase := w 0x70, shadow := bits (w 0x78) 5 0
    pwb := bits (w 0x80) 31 16, bwb := bits (w 0x80) 15 0
    ncnt := bits (w 0x88) 31 16, nfirst := bits (w 0x88) 15 0 }

/-! ## Quads (R315, R316) -/

/-- A partition in this state stands on its quads (log 27). -/
def holdsQuads (x : Context) : Bool :=
  match x.state with
  | .resident => true
  | .running => true
  | .halting => true
  | .parked => true
  | .faulted => !x.unseated
  | .saved => x.restoring
  | .built => false
  | .terminated => false

/-- The quads of other contexts' partitions. -/
def quadsHeld (s : State) (i c : Nat) : DWord :=
  (islOf s i).ctxs.foldl (fun a p => if p.1 ≠ c && holdsQuads p.2 then a ||| p.2.qmask else a) 0

/-! ## Faulted (R316, R317, R331) -/

/-- RELEASE ends Faulted for this cause (R319). -/
def releasable (why : FaultedBy) : Bool := why = .freeze || why = .heartbeat

/-- The context enters Faulted on one island (R316, R317): its partition is then halted, where its image has not been taken
before; a partition that was Saved stands on no quads, unless its RESTORE is under way. One that is Faulted already takes a cause
that RELEASE does not end in place of one that it ends (log 27). -/
def faultHere (s : State) (i c : Nat) (why : FaultedBy) : State :=
  let x := ctxOf s i c
  if x.state = .built || x.state = .terminated then s
  else if x.state = .faulted then
    if releasable why then s else modCtx s i c fun x => { x with faultedBy := why }
  else
    let s := modCtx s i c fun x => { x with
      state := .faulted, faultedBy := why, restoring := false
      captured := x.state = .parked || x.state = .saved, unseated := x.state = .saved && !x.restoring }
    modIsl s i (busyEnds c)

/-- The context enters Faulted on this island, and the other islands are to be told. -/
def faultCtx (s : State) (i c : Nat) (why : FaultedBy) : State :=
  let s := faultHere s i c why
  { s with propagate := s.propagate ++ [(c, i, some why)] }

/-- CONTEXT_STATE_PROPAGATE (R317): the oldest change reaches every other island that holds the context. -/
def execContextStatePropagate (s : State) : Out :=
  match s.propagate with
  | [] => .next s
  | (c, i, why) :: rest =>
    let told := (s.islands.filter fun p => p.1 ≠ i && (tblGet? p.2.ctxs c).isSome).map (·.1)
    .next (told.foldl (fun s j =>
      match why with
      | some w => faultHere s j c w
      | none =>
        let x := (ctxOf s j c).state
        if x = .built || x = .terminated then s else terminateHere s j c) { s with propagate := rest })

/-- The KIND 3 record of a freeze (R330). -/
def freezeRecord (slot core ctx agent : Nat) (pc mask master : DWord) : List DWord :=
  escalationRecord 3 slot core ctx (causeWord { cls := 0x11, status := 7, info := BitVec.ofNat 32 agent } false) pc mask 0 0 master

/-- MASTER of a freeze record (R423). -/
def masterWord (mk ctx unit : Nat) : DWord := BitVec.ofNat 64 (mk * 2 ^ 56 + ctx % 65536 * 2 ^ 32 + unit % 256)

/-- A refused request of a frozen master is counted (R423). -/
def countRefusal (s : State) (i : Nat) : State :=
  modIsl s i fun x => { x with monitors := sampleSource x.monitors 0x22 1 }

/-- The island whose queue takes the record of a host port's freeze: the one that the request addressed, or island 0 where it
addressed none (R331). -/
def addressed (s : State) (island : Nat) : Nat := if (tblGet? s.islands island).isSome then island else 0

/-- PROTECTION_REFUSAL (R331, R423): the agent of island `island`, or a host port that a request for it came to, refuses a
request of a partition of island `home` (MK 0 to 2), or of a host port (MK 3, whose number is `core`). A partition that a refusal
has frozen before is only counted; any other of a context that has one is frozen, with its record. -/
def execProtectionRefusal (island agent mk home ctx core slot : Nat) (pc mask : DWord) (s : State) : Out :=
  let q := if agent = 2 then addressed s island else island
  if mk ≥ 3 then
    if s.panel.frozen.contains core then
      .next (countRefusal { s with panel := { s.panel with refused := s.panel.refused + 1 } } island)
    else
      let s := enqueueRecord s q (freezeRecord 0 0 0 agent 0 0 (masterWord 3 0 core))
      .next { s with panel := { s.panel with frozen := s.panel.frozen ++ [core] } }
  else
    let x := ctxOf s home ctx
    if x.state = .built || x.state = .terminated then .next s
    else if x.frozen then .next (countRefusal s q)
    else
      let m := if mk = 0 then mask else 0
      let u := if mk = 2 then 0 else core
      let s := enqueueRecord s q (freezeRecord slot core ctx agent pc m (masterWord mk ctx u))
      .next (faultCtx (modCtx s home ctx fun x => { x with frozen := true }) home ctx .freeze)

/-! ## Halting (R333) -/

/-- A group's MMAP stopped between blocks (R179). One that has completed none and runs from its registers is as if it had
not issued: its PC stays, and PROG is as before (log 19). -/
def stopMmap (s : State) (k : Nat) (m : MmapRec) : State :=
  if m.done > 0 || m.resumed then mmapStop s k m
  else
    let prog := (grpOf s k).special.prog
    modGrp (mmapStop s k m) k fun g => { g with mmapSaved := none, special := { g.special with prog := prog } }

/-- A halt stops the group's MMAP, unless its last block is over and it is about to retire (R179). -/
def haltMmap (s : State) (k : Nat) : State :=
  match (grpOf s k).mmap with
  | none => s
  | some m => if m.done ≥ mmapBlocks m.word0 then s else stopMmap s k m

/-- A fragment's hold that a halt waits for: its instruction has issued and is to complete (R217, R310, R333); a BARV that
waits for a parked fragment begins again (R247). -/
def holdsHalt (g : Group) (f : Frag) : Bool :=
  match f.hold with
  | .barv .. => !(g.frags.any fun x => x.parked.isSome)
  | .mfence .. => true
  | _ => false

/-- Nothing that the group has issued is still under way, but for chains: those that have not retired are recorded (R162). -/
def groupQuiet (g : Group) : Bool :=
  g.mmap.isNone && g.ops = [] && g.win0.taken = [] && g.win1.taken = [] && g.draining.isNone
    && !(g.frags.any (holdsHalt g))

/-- Nothing that the context has issued on the island is still under way. -/
def haltReady (s : State) (i c : Nat) : Bool :=
  let x := islOf s i
  (ctxGroups s i c).all (fun p => groupQuiet p.2)
    && !(x.mem.engines.any fun p => p.2.ctx = c) && !(x.remotes.any fun p => p.2.ctx = c)

/-- What a halt leaves of a hold: waits that end, and waits that start afresh at their own PC, are discarded; a chain that is
still in flight is recorded (R162). -/
def haltHold : Hold → Hold
  | .waitOps .. => .none
  | .sleep _ => .none
  | .tfence .. => .none
  | .rfence .. => .none
  | .pfence .. => .none
  | .trinv .. => .none
  | .barv .. => .none
  | h => h

/-- The group as it stands when its cores are halted. Its fragments keep their slots until the image is taken. A trap entry that
waits, and a fault that is due, come again with their instruction; the time-out of a wait for Q2 or Q3, of which the image holds
nothing (R336), starts anew when the fragment offers again (log 15). -/
def haltGroup (g : Group) : Group :=
  { g with
    trapReq := none, stall := 0, score := []
    frags := g.frags.map fun f => { f with feedSince := none, due := none, hold := haltHold f.hold } }

/-- The shadow reservation can hold the image (R334). -/
def shadowFits (s : State) (i c : Nat) : Bool :=
  let x := ctxOf s i c
  let v := vcOf (islOf s i).mem x.shadow
  x.shadow ≠ 63 && x.shadow ≠ 0 && v.state = .active && v.spec.shadow && v.spec.owner = c
    && imageSize s i c ≤ (deckleBanks v.deckle).length * 65536

/-- The traffic of n bytes of a group's save area passes through the VC of its kernel's binding slot 5 (R345). -/
def areaTraffic (s : State) (id : Ident) (a n : Nat) : State :=
  match id.areaVcx with
  | none => s
  | some x =>
    let e := vctEntry s id.island id.ctx x 0
    match vcCheck (islOf e.1 id.island).mem id.ctx e.2 true with
    | .ok vn =>
      modMem e.1 id.island fun m =>
        (List.range ((n + 63) / 64)).foldl (fun m j => vcTouch m vn id.core (a / 64 + j) true) m
    | _ => s

/-- The place of a group in its context's save area. -/
def areaOf (s : State) (g : Group) : Nat :=
  let x := ctxOf s g.ident.island g.ident.ctx
  groupArea x.saveBase (relCore x.qmask g.ident.core) g.ident.slot

/-- The fragment records of a group, and the last records of its parked fragments, pass through the VC of slot 5. -/
def recordTraffic (s : State) (g : Group) : State :=
  let a := areaOf s g
  (g.frags.zipIdx.foldl (fun s p => if p.1.parked.isSome then areaTraffic s g.ident (a + 0x800 + 128 * p.2) 128 else s)
    (if g.frags.any fun f => 2 ≤ f.slot then areaTraffic s g.ident (a + 0x420) (16 * (g.frags.length - 2)) else s))

/-- What the groups and the barriers of a context have for happens-before (log 13). -/
def keepPast (s : State) (i c : Nat) : Kept :=
  let q := (ctxOf s i c).qmask
  { groups := (ctxGroups s i c).map fun p =>
      let g := p.2
      { core := relCore q g.ident.core, slot := g.ident.slot, kern := g.ident.kern, teamId := g.ident.teamId
        thread := g.thread, floor := g.floor, base := g.base, past := g.past }
    bars := (s.teams.filter fun p => p.2.island = i && p.2.ctx = c).map fun p => (p.2.kern, p.2.teamId, p.2.grid, p.2.bars) }

/-- The entries that a group's stream owes it stay with the stream, which runs on (R406, R417). -/
def keepOwed (s : State) (i c : Nat) : State :=
  (ctxGroups s i c).foldl (fun s p =>
    match p.2.stream with
    | some n => modIsl s i fun x => { x with streams := tblAdj x.streams n fun t => { t with owed := p.2.win0.due } }
    | none => s) s

/-- The image is taken, and groups and teams leave the cores (R334). -/
def capture (s : State) (i c : Nat) : State :=
  let halted := s.groups.map fun p => if onPartition i c p.2 then (p.1, haltGroup p.2) else p
  let s := keepOwed { s with groups := halted } i c
  let past := keepPast s i c
  let parks := shadowFits s i c
  let s := (ctxGroups s i c).foldl (fun s p => recordTraffic s p.2) (writeImage s i c)
  let s := modCtx s i c fun x => { x with
    state := if x.state = .faulted then .faulted else if parks then .parked else .saved
    captured := true, kept := past }
  wakeAll (discardGroups (modIsl s i (busyEnds c)) i c)

/-- HALT_COMPLETE (R333, R334): of a halt, or of the halt of a context that has entered Faulted. -/
def execHaltComplete (island ctx : Nat) (s : State) : Out :=
  let x := ctxOf s island ctx
  if x.state = .halting || (x.state = .faulted && !x.captured) then
    let s := (ctxGroups s island ctx).foldl (fun s p => haltMmap s p.1) s
    .next (if haltReady s island ctx then capture s island ctx else s)
  else .next s

/-! ## The image back on cores (R251, R338, R339) -/

/-- The places of an image's groups: partition-relative core, slot, and the cells of its save area (R335, R339). -/
def imageSlots (m : Memory) (base n : Nat) : List (Nat × Nat × Memory) :=
  (List.range n).flatMap fun k =>
    match memWindow m (coreBlock base k) (coreBlock base (k + 1)) with
    | [] => []
    | w =>
      (List.range 64).filterMap fun g =>
        let a := groupArea base k g
        let u := memWindow w a (a + 0x20000)
        let r := memWindow u (a + 0x400) (a + 0x800)
        if (List.range 64).any fun j => bit (memNat r (a + 0x400 + 16 * j) 16) 127 then some (k, g, u) else none

/-- The cores of the partition that the image was saved from, by its header (R335). -/
def imageCores (m : Memory) (base : Nat) : Nat := 4 * bits (memNat m base 8) 27 24

/-- The place of an image's group on its new core: saved core k stands on core k of the partition (R339). -/
def placeBack (i c : Nat) (x : Context) (k slot : Nat) : Ident :=
  { ctx := c, island := i, core := nth (coresOf x.qmask) k, slot := slot, priv := x.priv }

/-- A group of an image, on its new core. For happens-before it goes on as the thread that was saved from its place, where its
image names the same kernel and team; else it is a new thread, which all earlier accesses precede (log 13). -/
def groupBack (s : State) (i c : Nat) (x : Context) (p : Nat × Nat × Memory) : Nat × Group :=
  let id := placeBack i c x p.1 p.2.1
  let key := groupKey i id.core id.slot
  let g := { loadGroup p.2.2 (groupArea x.saveBase p.1 p.2.1) id with ready := s.tick }
  (key,
    match x.kept.groups.find? fun k => k.core = p.1 && k.slot = p.2.1 && k.kern = g.ident.kern && k.teamId = g.ident.teamId with
    | some k => { g with thread := k.thread, floor := k.floor, base := k.base, past := k.past }
    | none => { g with thread := s.seq * 2 ^ 20 + key, floor := s.tick })

/-- A barrier with what was released through it before it was saved (log 13). -/
def barBack (old : Tbl Bar) (p : Nat × Bar) : Nat × Bar :=
  let b := tblGet old p.1
  (p.1, { p.2 with arrived := b.arrived, released := b.released })

/-- A team of an image with what its barriers had for happens-before (log 13). -/
def teamBack (x : Context) (t : Team) : Team :=
  match x.kept.bars.find? fun k => k.1 = t.kern && k.2.1 = t.teamId && k.2.2.1 = t.grid with
  | some k => { t with bars := t.bars.map (barBack k.2.2.2) }
  | none => t

/-- A group back on its core has the entries that its stream owes it, and those that are ready are placed in its Q3 (R417). -/
def owedBack (s : State) (i key : Nat) : State :=
  match (grpOf s key).stream with
  | none => s
  | some n =>
    let es := (tblGet (islOf s i).streams n).owed
    let s := modIsl s i fun x => { x with streams := tblAdj x.streams n fun t => { t with owed := [] } }
    giveQ3 es.length (modGrp s key fun g => { g with win0 := { g.win0 with due := es } }) i key n

/-- A reserved code or a reserved field stands in a lane record (R164). -/
def laneRecordBad (x len : Nat) : Bool :=
  let badLink := fun (j : Nat) =>
    let k := x / 2 ^ (64 + 120 * j) % 2 ^ 120
    let n := bits k 112 108
    bits k 119 116 ≠ 0 || bits k 115 113 = 7 || 28 < n || bits k 87 84 ≠ 0 || bits k 83 0 / 8 ^ n ≠ 0
      || (List.range n).any fun d => let c := k / 8 ^ d % 8; c = 3 || c = 4 || c = 5
  bits x 63 24 ≠ 0 || x / 2 ^ (64 + 120 * len) ≠ 0 || (List.range len).any badLink

/-- What the record of a link says of its stream is true of the value x: its class, and of a finite nonzero value an exponent,
modulo 2^20, and digits that the digits to come can complete (R98, R99). -/
def streamFits (x : StreamVal) (k : Nat) : Bool :=
  let n := bits k 112 108
  let cls := bits k 115 113
  if cls = 6 then n = 0
  else if cls ≠ x.cls then false
  else if cls ≠ 0 then true
  else
    let e := x.radix + signed (wrap (bits k 107 88 - x.radix) 20) 20
    let low := min x.exp (2 * (e - n))
    let v : Int := (if x.neg then -(x.mag : Int) else x.mag) * 2 ^ (x.exp - low).toNat
    let sum := ((List.range n).map fun i => signed (bits k (3 * i + 2) (3 * i)) 3 * 2 ^ (2 * (e - i - 1) - low).toNat).sum
    3 * (v - sum).natAbs ≤ 2 * 2 ^ (2 * (e - n) - low).toNat

/-- Every link of a lane's record fits the stream it stands for. -/
def laneFits (xs : List StreamVal) (x : Nat) : Bool :=
  xs.zipIdx.all fun p => streamFits p.1 (x / 2 ^ (64 + 120 * p.2) % 2 ^ 120)

/-- The chain record at an address is accepted for a fragment whose header word is w (R165). -/
def recordAccepted (m : Memory) (a : Nat) (tag : Nat) (f : Frag) (w : Nat) : Bool :=
  let h := memNat m a 64
  bit h 0 && bits h 63 32 = tag && bits h 7 1 = 0 && bits h 18 13 = 0 && bits h 511 192 = 0
    && bits h 127 64 = f.pc.toNat && bits h 191 128 = f.mask.toNat && bits h 31 24 = bits w 7 0 && bits h 23 21 = bits w 21 19
    && (lanesOf f.mask).all fun l => !laneRecordBad (memNat m (a + 64 + 128 * l) 128) (bits h 23 21 + 1)

/-- An accepted chain completed from its record: the flags of ACCF, and the cuts of CUT beside those that the values give.
A lane whose digits cannot be those of its value, which an unaltered record never has, leaves free values (R165; log 29). -/
def fromRecord (m : Memory) (a : Nat) (ls : List (Option Link)) (salt : Nat) (c : ChainRec) : ChainRec :=
  let rec_ := fun (l : Nat) => memNat m (a + 64 + 128 * l) 128
  let cutIn := (lanesOf c.mask).map fun l => (l, (tblGet c.cutIn l ||| bits (rec_ l) 15 8) % 2 ^ c.links)
  let wrong := (lanesOf c.mask).filter fun l => !laneFits (tblGet c.streams l) (rec_ l)
  { c with
    flags := c.flags ||| bv 5 (bits (memNat m a 8) 12 8)
    cutIn := cutIn
    cuts := (cutIn.map fun p => cutDigits ls ((List.range c.links).filter (bit p.2))).sum
    writes := c.writes.zipIdx.map fun p =>
      match p.1.elem with
      | .v _ l => if wrong.contains l then { p.1 with val := Config.freeWord (salt * 2 ^ 16 + p.2) &&& 0xFFFFFFFF } else p.1
      | .p _ l => if wrong.contains l then { p.1 with val := Config.freeWord (salt * 2 ^ 16 + p.2) &&& 1 } else p.1
      | _ => p.1 }

/-- An accepted chain goes on from the saved point: its values are those of the restored registers (R165; log 29). -/
def continueChain (s : State) (i c k : Nat) (slot : Nat) : State :=
  let g := grpOf s k
  let x := ctxOf s i c
  let a := groupArea x.saveBase (relCore x.qmask g.ident.core) g.ident.slot + (if slot = 0 then 0x4000 else 0x6100)
  match g.frags.findIdx? fun f => f.slot = slot && g.chainRm.any fun p => p.1 = f.pc && p.2.1 = f.mask with
  | none => s
  | some j =>
    let f := nth g.frags j
    let cx : Cx := { key := k, ix := j, g := g, f := f }
    let m := (islOf s i).mem.bytes
    match fetchWord s cx f.pc with
    | .ok s b =>
      let w := leNat b
      if !(decodeWords w 0 matches .ok (.chain _ _ _))
          || !recordAccepted m a (tblGet (islOf s i).cores g.ident.core).chtag.toNat f w then s
      else
        match fetchLinks s cx (pcAdd f.pc 4) (bits w 21 19 + 1) with
        | .ok s ws =>
          let sink := bv 8 (bits w 7 0)
          let h := memNat m a 8
          if (linkFault s cx ws sink).isSome then s
          else
            let r := chainStart f g.regs (bv 2 (bits h 20 19)) s.seq (linksOf ws) sink
            let clk := ((lanesOf f.mask).head?.map fun l => (memGet m (a + 64 + 128 * l)).toNat).getD 0
            setGrp { s with seq := s.seq + 1 } k { g with
              chains := g.chains ++ [fromRecord m a (linksOf ws) s.seq { r with clk := clk }]
              chainRm := g.chainRm.filter fun p => !(p.1 = f.pc && p.2.1 = f.mask)
              frags := modNth g.frags j fun f => { f with hold := .chain } }
        | _ => s
    | _ => s

/-- The chains of a context back on its cores go on, where their records are accepted (R165, R338). -/
def continueChains (s : State) (i c : Nat) : State :=
  (ctxGroups s i c).foldl (fun s p => continueChain (continueChain s i c p.1 0) i c p.1 1) s

/-- The teams of an image, on the cores of the partition (R339). -/
def imageTeams (m : Memory) (i c : Nat) (x : Context) : List Team :=
  let base := x.saveBase
  (List.range (imageCores m base)).flatMap fun k =>
    match memWindow m (teamPlace base k 0) (teamPlace base k 64) with
    | [] => []
    | w =>
      (List.range 64).filterMap fun n =>
        if bit (memNat w (teamPlace base k n) 8) 0 then
          some (teamBack x (loadTeam m base (teamPlace base k n) i c (coresOf x.qmask)))
        else none

/-- The grid of a team of an image: the one it was saved from, where that is still its kernel's grid here (log 26). -/
def gridBack (s : State) (t : Team) : Nat :=
  match tblGet? s.panel.grids t.grid with
  | some g => if g.island = t.island && g.ctx = t.ctx && g.kern = t.kern then t.grid else s.seq
  | none => s.seq

/-- A team of an image stands under its key, and its groups that have not exited belong to it. -/
def seatTeam (s : State) (key : Nat) (t : Team) : State :=
  let t := { t with grid := gridBack s t }
  let s := { s with teams := tblSet s.teams key t }
  t.groups.zipIdx.foldl (fun s p =>
    if t.exited.contains p.2 then s
    else modGrp s p.1 fun g => { g with ident := { g.ident with team := key, grid := t.grid } }) s
/-- The fragments that wait at a barrier or a counter whose condition already holds go on. -/
def recheckWaits (s : State) (i c : Nat) : State :=
  (ctxGroups s i c).foldl (fun s p =>
    p.2.frags.foldl (fun s f =>
      match f.hold with
      | .waitn n _ _ _ => ctrSet s i n (ctrOf s i n)
      | .bwait key _ _ =>
        let tm := p.2.ident.team
        let b := barOf s tm key
        let s := releaseAcquires s tm key b
        { s with groups := s.groups.map fun q => if q.2.ident.team = tm then (q.1, releaseGroup key b s.tick q.2) else q }
      | _ => s) s) s

/-- The groups of an image, with their keys. -/
def imageGroups (s : State) (i c : Nat) : List (Nat × Group) :=
  let x := ctxOf s i c
  let m := (islOf s i).mem.bytes
  (imageSlots m x.saveBase (imageCores m x.saveBase)).map (groupBack s i c x)

/-- The image stands on its cores: its groups and teams, and the chains whose records are accepted (R165, R338, R339). -/
def seatImage (s : State) (i c : Nat) : State :=
  let gs := imageGroups s i c
  let ts := imageTeams (islOf s i).mem.bytes i c (ctxOf s i c)
  let key := s.seq + 1
  let s := { s with groups := gs.foldl (fun t p => tblSet t p.1 p.2) s.groups }
  let s := ts.zipIdx.foldl (fun s p => seatTeam s (key + p.2) p.1) s
  let s := modCtx { s with seq := key + ts.length } i c fun x => { x with
    state := if gs = [] then .resident else .running
    faultedBy := .none, frozen := false, kept := {}, captured := false, unseated := false, restoring := false }
  let s := continueChains (gs.foldl (fun s p => owedBack s i p.1) s) i c
  { s with groups := s.groups.map fun p => if onPartition i c p.2 then (p.1, settle p.2) else p }

/-- The releases that were written while the context was off its cores take effect (R251). -/
def applyReleases (s : State) (i c : Nat) : State :=
  let rs := (ctxOf s i c).released
  rs.foldl (fun s r => releasePark s i r.1 r.2) (modCtx s i c fun x => { x with released := [] })

/-- The image back on the cores it was taken from, with its parks as they are (R251, R334). -/
def putBack (s : State) (i c : Nat) : State := recheckWaits (applyReleases (seatImage s i c) i c) i c

/-- A park's record under a new token, on the group's core (R251). -/
def reRecord (token core : Nat) (ws : List DWord) : List DWord :=
  let w0 := (nth ws 0).toNat
  let w1 := (nth ws 1).toNat
  BitVec.ofNat 64 (putBits w0 39 32 core) :: BitVec.ofNat 64 (putBits w1 31 0 token) :: ws.drop 2

/-- The parks of an image: the group, the old token, the saved record. -/
def imageParks (s : State) (i c : Nat) : List (Nat × Nat × List DWord) :=
  let x := ctxOf s i c
  let m := (islOf s i).mem.bytes
  (imageSlots m x.saveBase (imageCores m x.saveBase)).flatMap fun p =>
    let a := groupArea x.saveBase p.1 p.2.1
    let id := placeBack i c x p.1 p.2.1
    (List.range 64).filterMap fun j =>
      let f := memNat p.2.2 (a + 0x400 + 16 * j) 16
      if bit f 127 && bit f 126 then
        let ws := parkRecordAt p.2.2 a j
        some (groupKey i id.core id.slot, bits (nth ws 1).toNat 31 0, ws)
      else none

/-- A park of a restored image, of fragment j of group k, gets a new token; its record is written again where it goes on (R251). -/
def rePark (s : State) (i k j : Nat) (ws : List DWord) (goesOn : Bool) : State :=
  let token := (islOf s i).mem.nextToken
  let g := grpOf s k
  let f := nth g.frags j
  let r := reRecord token g.ident.core ws
  let s := setGrp s k { g with frags := modNth g.frags j fun f => { f with parked := some token } }
  if goesOn then writePark s k g.ident token f.mask [r]
  else modMem s i fun m => freshToken { m with
    parks := tblSet m.parks token { grp := k, ctx := g.ident.ctx, mask := f.mask, record := r } }

/-- The parks of an image parked anew, each at its fragment's place, and then their recorded releases under the new tokens, which
no old token of the image can meet (R251). -/
def reParkAll (rs : List (Nat × Nat)) (s : State) (i : Nat) (ps : List (Nat × Nat × List DWord)) : State :=
  let places := ps.filterMap fun p => (parkedAt (grpOf s p.1) p.2.1).map fun j => (p, j)
  let r := places.foldl (fun (a : State × List (Nat × Nat)) p =>
    let rel := rs.find? fun x => x.1 = p.1.2.1
    (rePark a.1 i p.1.1 p.2 p.1.2.2 rel.isNone,
      a.2 ++ rel.toList.map fun x => ((islOf a.1 i).mem.nextToken, x.2))) (s, [])
  r.2.foldl (fun s x => releasePark s i x.1 x.2) r.1

/-- The image restored on its cores: its old tokens are void, and its parks are parked anew (R251, R339). -/
def restoreImage (s : State) (i c : Nat) : State :=
  let rs := (ctxOf s i c).released
  let ps := imageParks s i c
  let s := modMem (seatImage s i c) i fun m => { m with parks := m.parks.filter fun p => p.2.ctx ≠ c }
  let s := modCtx s i c fun x => { x with released := [] }
  recheckWaits (reParkAll rs s i ps) i c

/-! ## The checks of RESTORE (R338) -/

/-- The image at the descriptor's save area is malformed, or another context's. -/
def imageBad (s : State) (i c : Nat) : Bool :=
  let m := (islOf s i).mem.bytes
  let base := descWord s i c 0x70
  let w := memNat m base 8
  let n := imageCores m base
  bits w 63 28 ≠ 0 || bits w 23 22 ≠ 0 || bits w 15 0 ≠ c
    || (List.range 30).any (fun j => memNat m (base + 16 + 8 * j) 8 ≠ 0)
    || (List.range 64).any (fun v =>
      let r := memNat m (base + 0x100 + 16 * v) 16
      bits r 7 6 ≠ 0 || bits r 23 22 ≠ 0 || bits r 127 34 ≠ 0)
    || (List.range n).any (fun k =>
      match memWindow m (coreBlock base k) (coreBlock base (k + 1)) with
      | [] => false
      | w =>
        let b := memWindow w (coreBlock base k + 0x60000) (coreBlock base k + 0x62000)
        (b ≠ [] && (List.range 64).any fun j => barRecordBad b (coreBlock base k + 0x60000 + 128 * j))
          || (List.range 64).any fun g =>
            let a := groupArea base k g
            let r := memWindow w (a + 0x400) (a + 0x800)
            r ≠ [] && (List.range 64).any (fragRecordBad r a))
    || (imageSlots m base n).any fun p => groupMalformed p.2.2 (groupArea base p.1 p.2.1)

/-- A saved VC record whose VC is not there, or not as it was. -/
def vcGone (s : State) (i c v : Nat) : Bool :=
  let m := (islOf s i).mem
  let r := memNat m.bytes (descWord s i c 0x70 + 0x100 + 16 * v) 16
  if bits r 5 0 = 63 then false
  else
    let vn := (memGet m.bytes (descAddr s i c + 0x20 + v)).toNat % 64
    let x := vcOf m vn
    let now := vcRecord s i c v
    vn = 63 || !(x.state = .active || x.state = .resizing) || !(x.spec.owner = c || x.spec.owner = 65535)
      || bits now 33 24 ≠ bits r 33 24
      || (bits now 21 8 < bits r 21 8 && !bit (descWord s i c 0x60) 2)

/-- The STATUS of RESTORE; 0 where every check passes. -/
def restoreStatus (s : State) (i c : Nat) : Nat :=
  let q := descWord s i c 0x68
  let w := memNat (islOf s i).mem.bytes (descWord s i c 0x70) 8
  if descBad s i c || imageBad s i c then 4
  else if bits w 21 16 ≠ i then 5
  else if popCount q 64 < bits w 27 24 || BitVec.ofNat 64 q &&& quadsHeld s i c ≠ 0 then 2
  else if (List.range 64).any (vcGone s i c) then 3
  else 0

/-! ## Commands (R318, R319) -/

/-- The commands of CTXCTL. -/
inductive CtxCmd where
  | place | halt | save | resume | restore | terminate | release | unplace
deriving DecidableEq, Repr

/-- The command a code names. -/
def cmdOf (n : Nat) : Option CtxCmd :=
  match n with
  | 1 => some .place | 2 => some .halt | 3 => some .save | 4 => some .resume
  | 5 => some .restore | 6 => some .terminate | 7 => some .release | 8 => some .unplace
  | _ => none

/-- The state admits the command (R319). -/
def ctxAdmits (x : Context) : CtxCmd → Bool
  | .place => x.state = .built || x.state = .terminated
  | .halt => x.state = .resident || x.state = .running
  | .save => x.state = .parked
  | .resume => x.state = .parked
  | .restore => x.state = .saved
  | .terminate => x.state ≠ .built && x.state ≠ .terminated
  | .release => x.state = .faulted && releasable x.faultedBy
  | .unplace => x.state = .resident

/-- The STATUS of a command whose state admits it. -/
def cmdStatus (s : State) (i c : Nat) : CtxCmd → Nat
  | .place =>
    if descBad s i c then 4
    else if BitVec.ofNat 64 (descWord s i c 0x68) &&& quadsHeld s i c ≠ 0 then 2
    else 0
  | .restore => restoreStatus s i c
  | .release =>
    let x := ctxOf s i c
    if x.unseated && x.qmask &&& quadsHeld s i c ≠ 0 then 2 else 0
  | _ => 0

/-- An accepted command takes effect. -/
def cmdEffect (s : State) (i c : Nat) : CtxCmd → State
  | .place =>
    let d := copyDescriptor s i c {}
    noteSite (modIsl s i fun y => { y with ctxs := tblMod y.ctxs c fun x => { d with state := .resident, cseq := x.cseq } }) i
  | .halt => modIsl (modCtx s i c fun x => { x with state := .halting }) i fun y => { y with ctxBusy := true }
  | .save => modCtx s i c fun x => { x with state := .saved }
  | .resume => putBack s i c
  | .restore =>
    let s := modCtx s i c fun x => { copyDescriptor s i c x with restoring := true }
    modIsl s i fun y => { y with ctxBusy := true }
  | .terminate => terminateCtx s i c
  | .release => putBack s i c
  | .unplace => noteSite (modCtx s i c fun x => { x with state := .built }) i

/-- CTXST's CTX and STATUS; a new command ends the interrupt of the one before (log 37). -/
def setCtxSt (s : State) (i c st : Nat) : State :=
  modIsl s i fun y => { y with ctxCtx := c, ctxStatus := st, busyFell := false }

/-- A command, by its code (R318, R319). -/
def ctxCommand (s : State) (i c n : Nat) : State :=
  match cmdOf n with
  | none => setCtxSt s i c 4
  | some k =>
    if c ≥ 65535 || !ctxAdmits (ctxOf s i c) k then setCtxSt s i c 1
    else if cmdStatus s i c k ≠ 0 then setCtxSt s i c (cmdStatus s i c k)
    else setCtxSt (cmdEffect s i c k) i c 0

/-- The command must wait: BUSY is 1, or the image of a Faulted context has not been taken yet (R316, R318). -/
def cmdWaits (s : State) (i c n : Nat) : Bool :=
  let x := ctxOf s i c
  (islOf s i).ctxBusy || (n = 7 && x.state = .faulted && !x.captured)

/-- A command from the management core; one that must wait has no effect yet. -/
def ctxEvent (n island ctx : Nat) (s : State) : Out :=
  if cmdWaits s island ctx n then .next s else .next (ctxCommand s island ctx n)

/-- PLACE (R319). -/
def execPlace (island ctx : Nat) (s : State) : Out := ctxEvent 1 island ctx s

/-- HALT (R319, R333). -/
def execHalt (island ctx : Nat) (s : State) : Out := ctxEvent 2 island ctx s

/-- SAVE (R319, R334). -/
def execSave (island ctx : Nat) (s : State) : Out := ctxEvent 3 island ctx s

/-- RESUME (R319, R334). -/
def execResume (island ctx : Nat) (s : State) : Out := ctxEvent 4 island ctx s

/-- RESTORE (R338). -/
def execRestore (island ctx : Nat) (s : State) : Out := ctxEvent 5 island ctx s

/-- TERMINATE (R332). -/
def execTerminate (island ctx : Nat) (s : State) : Out := ctxEvent 6 island ctx s

/-- RELEASE (R316). -/
def execRelease (island ctx : Nat) (s : State) : Out := ctxEvent 7 island ctx s

/-- UNPLACE (R316). -/
def execUnplace (island ctx : Nat) (s : State) : Out := ctxEvent 8 island ctx s

/-- RESTORE_COMPLETE (R339). -/
def execRestoreComplete (island ctx : Nat) (s : State) : Out :=
  if (ctxOf s island ctx).restoring then
    .next (wakeAll (modIsl (restoreImage s island ctx) island (busyEnds ctx)))
  else .next s

/-! ## A failed bank (R268, R337) -/

/-- The parked contexts whose reservation holds the bank. -/
def parkedOn (s : State) (i b : Nat) : List Nat :=
  match bankHolder (islOf s i).mem b with
  | none => []
  | some vn => ((islOf s i).ctxs.filter fun p => p.2.state = .parked && p.2.shadow = vn).map (·.1)

/-- The number of a logical bank among the banks of the die: its quad stands on a physical quad (R12). -/
def physicalBank (x : Island) (bank : Nat) : Nat := 96 * nth x.quads (bank / 96) + bank % 96

/-- The partition is one that a cause of Faulted with UNCORR reaches: it stands on quads (R18, R337, R420; log 27), and it is not
Faulted for that cause already. -/
def faultable (why : FaultedBy) (x : Context) : Bool := holdsQuads x && !(x.state = .faulted && x.faultedBy = why)

/-- A context of an island enters Faulted with UNCORR, with a record of KIND 5 (R18, R330, R337, R420); the record's SLOT,
CORE, PC and MASK name nothing and are free (log 6). -/
def uncorrCtx (status info : Nat) (why : FaultedBy) (i : Nat) (s : State) (c : Nat) : State :=
  if faultable why (ctxOf s i c) then
    let cause := causeWord { cls := 0x1C, status := BitVec.ofNat 8 status, info := BitVec.ofNat 32 info } false
    let z := fun (j : Nat) => Config.freeWord ((4 * s.tick + j) * 65536 + c)
    faultCtx (enqueueRecord s i (escalationRecord 5 (z 0).toNat (z 1).toNat c cause (z 2) (z 3) 0 0 0)) i c why
  else s

/-- An error found in a bank at one of the sectors fails the bank: a second one within 1 s, or one at an address that has been
rewritten since an error there (R419). Errors are known by their sector, and one is rewritten where any quarter of it is
(log 15). -/
def failsBank (s : State) (i b : Nat) (secs : List Nat) : Bool :=
  (islOf s i).mem.bankErrors.any fun e => e.1 = b &&
    (s.panel.ptime ≤ e.2.2 + 1000000000 ||
      e.2.1.any fun k => secs.contains k && (sectorQuarters k).any fun q => !marked s i (16 * q))

/-- The errors of a bank that has not failed by them: its sectors are poisoned, and the errors recorded (R311, R419). -/
def noteErrors (s : State) (i b : Nat) (secs : List Nat) : State :=
  modMem (secs.foldl (fun s k => poisonSector s i k) s) i fun m => { m with
    bankErrors := m.bankErrors ++ (if secs = [] then [none] else secs.map some).map fun k => (b, k, s.panel.ptime) }

/-- A bank fails (R268, R337). -/
def loseBank (s : State) (i b : Nat) (lost : List Nat) : State :=
  let cs := parkedOn s i b
  let s := failBank s i b lost
  let s := { s with panel := { s.panel with store := { s.panel.store with
    banks :=
      let u := ((islOf s i).site, physicalBank (islOf s i) b)
      if s.panel.store.banks.contains u then s.panel.store.banks else s.panel.store.banks ++ [u] } } }
  cs.foldl (fun s c =>
    if lost = [] then modCtx s i c fun x => { x with state := .saved }
    else uncorrCtx 4 0 .lostBank i s c) s

/-- BANK_FAILURE (R268, R337, R419): an error found in a bank, which fails it or is recorded; `lost` names the sectors that
cannot be read back. -/
def execBankFailure (island bank : Nat) (lost : List Nat) (s : State) : Out :=
  .next (if failsBank s island bank lost then loseBank s island bank lost else noteErrors s island bank lost)

/-! ## Progress beats (R340, R341) -/

/-- A hold that its chapter makes a legitimate wait with a time-out armed. -/
def waitsLegitimately (f : Frag) : Bool :=
  (f.waiting && f.feedSince.isSome) ||
    match f.hold with
    | .bwait .. => true
    | .barv .. => true
    | .waitn .. => true
    | .waitOps .. => true
    | .sleep _ => true
    | _ => false

/-- What a core holds now makes it beat in this interval (R340). -/
def coreBeats (s : State) (i core : Nat) : Bool :=
  let gs := coreGroups s i core
  gs = [] || gs.any fun p => p.2.chains ≠ [] || p.2.mmap.isSome || p.2.frags.any fun f => f.parked.isSome || waitsLegitimately f

/-- The cores that beat by what they hold at this step (R340). -/
def noteBeats (s : State) : State :=
  { s with islands := s.islands.map fun p =>
      (p.1, { p.2 with cores := p.2.cores.map fun k => (k.1, { k.2 with moved := k.2.moved || coreBeats s p.1 k.1 }) }) }

/-- PROGRESS_BEAT (R340): an interval of a core ends, in which it has beaten or not. -/
def execProgressBeat (island core : Nat) (s : State) : Out :=
  .next (modIsl s island fun x => { x with
    cores := tblMod x.cores core fun k => { k with
      moved := coreBeats s island core, missed := if k.moved || coreBeats s island core then 0 else k.missed + 1 } })

/-- The digit state of the group's chains discarded: each fragment stands at its header again (R162). -/
def discardChains (g : Group) : Group :=
  settle { g with
    chains := [], frags := g.frags.map fun f => if f.hold = .chain then { f with hold := .none } else f }

/-- The group's MMAP runs on the core, or on the other core of its pair (R175). -/
def mmapOn (s : State) (core : Nat) (g : Group) : Bool :=
  let cs := (teamOf s g.ident.team).cores
  g.mmap.isSome && (g.ident.core = core || nth cs (coreIx (teamOf s g.ident.team) g.ident.core + 1) = core)

/-- A core is halted for missed beats: its chains' digit state is discarded (R162), and the MMAPs that it takes part in end
with nothing further written (R180): each is stopped as by a halt, and what PROG, FLAGS and CUTCNT then hold R180 does not say
(log 15). -/
def beatHalt (s : State) (i core : Nat) : State :=
  s.groups.foldl (fun s p =>
    if p.2.ident.island ≠ i then s
    else
      let s := match p.2.mmap with
        | some m => if mmapOn s core p.2 then stopMmap s p.1 m else s
        | none => s
      if p.2.ident.core = core then modGrp s p.1 discardChains else s) s

/-- HEARTBEAT (R341): a core that has missed two beats; its context enters Faulted, with a record of KIND 4. -/
def execHeartbeat (island core : Nat) (s : State) : Out :=
  match coreGroups s island core with
  | [] => .next s
  | p :: _ =>
    let c := p.2.ident.ctx
    let x := (ctxOf s island c).state
    if (tblGet (islOf s island).cores core).missed < 2 || !(x = .resident || x = .running || x = .halting) then .next s
    else
      let z := Config.freeWord
      let r := escalationRecord 4 (z (4 * s.tick)).toNat core c (causeWord { cls := 0x1A } false)
        (z (4 * s.tick + 1)) (z (4 * s.tick + 2)) 0 0 0
      let s := modIsl s island fun y => { y with cores := tblMod y.cores core fun k => { k with missed := 0 } }
      .next (faultCtx (enqueueRecord (beatHalt s island core) island r) island c .heartbeat)

/-- BEATP_WRITE (R318). -/
def execBeatpWrite (island : Nat) (val : DWord) (s : State) : Out :=
  let v := bits val.toNat 13 0
  .next (modIsl s island fun x => { x with beatp := if 10 ≤ v && v ≤ 10000 then v else 100 })

/-! ## Register claims (R202 to R204) -/

/-- The fragment that holds the group's claim. -/
def claimFrag (g : Group) : Option (Nat × Nat) :=
  (g.frags.zipIdx.findSome? fun p => match p.1.hold with | .rgrow n => some (p.2, n) | _ => none)

/-- A claim is served: a spilled group returns, a claiming one grows (R202, R204). -/
def serveClaim (s : State) (k : Nat) : State :=
  let g := grpOf s k
  let s := if g.state = .spilled then areaTraffic s g.ident (areaOf s g + 0x18000) (4 * lanesIn g * g.allot) else s
  let g := if g.state = .spilled then
      { g with state := .active
               regs := loadV (islOf s g.ident.island).mem.bytes (areaOf s g) (lanesIn g) g.allot g.regs }
    else g
  let g := match claimFrag g with
    | some (j, n) => growTo n j g
    | none => g
  setGrp s k (wake { g with ready := s.tick })

/-- The oldest claim of the core, where the pool holds its bytes. -/
def servable (s : State) (i c : Nat) : Option Nat :=
  match oldestClaim s i c with
  | some (k, n) => if n ≤ poolBytes s i c then some k else none
  | none => none

/-- RGROW_CLAIM_SERVED (R203). -/
def execRgrowClaimServed (island core : Nat) (s : State) : Out :=
  match servable s island core with
  | some k => .next (serveClaim s k)
  | none => .next s

/-- The youngest resident group of the core that is not the oldest claimant (R204). -/
def spillVictim (s : State) (i c : Nat) : Option (Nat × Group) :=
  match oldestClaim s i c with
  | none => none
  | some (k, _) =>
    (coreGroups s i c).foldl (fun (best : Option (Nat × Group)) p =>
      if p.1 = k || p.2.state ≠ .active then best
      else match best with
        | some b => if b.2.age < p.2.age then some p else some b
        | none => some p) none

/-- The group's registers may be spilled: its chains and MMAP have retired, and no result is due to them. -/
def spillReady (g : Group) : Bool :=
  g.chains = [] && g.mmap.isNone && !(g.ops.any fun o => o.writes.any (writesFrom 0))

/-- The core's claims are deadlocked: one waits, none can be served, and no group of the core offers (R204). -/
def claimsStuck (s : State) (i c : Nat) : Bool :=
  (oldestClaim s i c).isSome && (servable s i c).isNone
    && (coreGroups s i c).all fun p => (offering p.2).isNone

/-- The group's registers and marks written to its save area; it is Spilled (R204). -/
def spillGroup (s : State) (k : Nat) (g : Group) : State :=
  let a := areaOf s g
  let v := (vBytes g).take (4 * lanesIn g * g.allot)
  let s := modMem s g.ident.island fun m => { m with
    bytes := memBlit (memBlit m.bytes (a + 0x18000) v) (a + 0x2900) (poisonBytes g.regs) }
  setGrp (areaTraffic s g.ident (a + 0x18000) (4 * lanesIn g * g.allot)) k { g with state := .spilled }

/-- CLAIM_DEADLOCK (R204): one group is spilled, and the oldest claim is served if the pool now holds it; with no group left
to spill it is served (log 30). -/
def execClaimDeadlock (island core : Nat) (s : State) : Out :=
  if !claimsStuck s island core then .next s
  else
    match spillVictim s island core with
    | none => .next ((oldestClaim s island core).elim s fun p => serveClaim s p.1)
    | some (k, g) =>
      if !spillReady g then .next s
      else
        let s := spillGroup s k g
        .next (match servable s island core with
          | some k => serveClaim s k
          | none => s)

/-! ## TRINV (R245) -/

/-- The spans [a, a + n) and [lo, hi) share a byte. -/
def spanMeets (a n lo hi : Nat) : Bool := a < hi && lo < a + n

/-- A T register whose [BASE, BASE + LIMIT) overlaps [lo, hi) no longer holds its translation (R245). -/
def dropCv (lo hi : Nat) (r : TReg) : TReg := if spanMeets r.base.toNat r.limit.toNat lo hi then { r with cv := false } else r

/-- The T registers of a group in a save area lose theirs: bit 62 of word 0 (R242, R336). -/
def dropImageCv (base lo hi : Nat) (m : Memory) (p : Nat × Nat × Memory) : Memory :=
  let a := groupArea base p.1 p.2.1
  (List.range 8).foldl (fun m t =>
    let word := fun (j : Nat) => memNat p.2.2 (a + 0x300 + 24 * t + 8 * j) 8
    let r := tOf (word 0) (word 1) (word 2) 0
    if r.cv && !(dropCv lo hi r).cv then memPutNat m (a + 0x300 + 24 * t) (word 0 - 2 ^ 62) 8 else m) m

/-- The context's groups are in its image, off its cores. -/
def inImage (x : Context) : Bool := x.state = .parked || x.state = .saved || (x.state = .faulted && x.captured)

/-- The discards of TRINV for context c over [lo, hi) on an island: held entries, the T registers of its groups, on their
cores or in its image, and the T0 of teams to come (R245, R253, R257, R351). -/
def discardRange (s : State) (i c lo hi : Nat) : State :=
  let x := ctxOf s i c
  let s := modMem s i fun m => { m with
    tlb := m.tlb.filter fun t => !(t.ctx = c && spanMeets t.va t.size lo hi)
    vct := if lo = 0 && hi = 2 ^ 57 then m.vct.filter fun v => v.ctx ≠ c else m.vct
    bytes := if inImage x then
        (imageSlots m.bytes x.saveBase (imageCores m.bytes x.saveBase)).foldl (dropImageCv x.saveBase lo hi) m.bytes
      else m.bytes }
  { s with
    groups := s.groups.map (fun p =>
      if p.2.ident.island = i && p.2.ident.ctx = c then
        (p.1, { p.2 with regs := { p.2.regs with t := p.2.regs.t.map fun x => (x.1, dropCv lo hi x.2) } })
      else p)
    panel := { s.panel with grids := s.panel.grids.map fun p =>
      if p.2.island = i && p.2.ctx = c then (p.1, { p.2 with t0 := dropCv lo hi p.2.t0 }) else p } }

/-- The frames of the range, with their sizes: those that its leaves map, and those of the translations discarded (R245). -/
def rangeFrames (s : State) (i c lo hi : Nat) : List (Nat × Nat) :=
  (((leavesIn s i c lo hi).map fun p => (frameOf p.2.1, leafSize p.2.1))
    ++ (((islOf s i).mem.tlb.filter fun t => t.ctx = c && spanMeets t.va t.size lo hi && bit t.entry.toNat 1).map fun t =>
      (frameOf t.entry, leafSize t.entry))).eraseDups

/-- A page is pinned that is a frame of the range, or that the context pinned at an address of the range (R245, R252). -/
def pinnedIn (m : IslandMem) (c lo hi : Nat) (frames : List (Nat × Nat)) : Bool :=
  m.pins.any fun p => p.count ≠ 0
    && ((p.maps.any fun x => x.1 = c && spanMeets x.2 p.size lo hi)
      || frames.any fun f => spanMeets p.frame p.size f.1 (f.1 + f.2))

/-- A piece of an engine's work lies in the range. -/
def pieceIn (lo hi : Nat) (p : EnginePiece) : Bool := p.phys.isSome && spanMeets p.va ((p.bits + 7) / 8) lo hi

/-- An access through the context's translations of the range that was issued before is not yet performed: a load or store, an
engine's, the local side of a remote operation, a bucket's (R245, R254). -/
def accessLeft (s : State) (i c lo hi before : Nat) : Bool :=
  let x := islOf s i
  let inside := fun (ps : List EnginePiece) => ps.any (pieceIn lo hi)
  ((ctxGroups s i c).any fun p => p.2.ops.any fun o =>
      o.id < before && (o.cls = .load || o.cls = .store || (o.cls = .copy && o.payload = .none)))
    || (x.mem.engines.any fun p => p.1 < before && p.2.ctx = c && inside p.2.pieces)
    || (x.remotes.any fun p => p.1 < before && p.2.ctx = c && inside p.2.pieces)
    || x.buckets.any fun p => p.1 < before && p.2.ctx = c && inside (p.2.dst ++ p.2.wmark ++ p.2.scratch)

/-- TRINV's waits are over: no access issued before it is left, and with P no page of the range is pinned. -/
def trinvDone (s : State) (i c lo hi before : Nat) (frames : List (Nat × Nat)) (drain : Bool) : Bool :=
  !accessLeft s i c lo hi before && !(drain && pinnedIn (islOf s i).mem c lo hi frames)

/-- The form of TRINV. -/
def trinvForm (st : BitVec 2) (a b : BitVec 6) : Form := { ctlForm st [sUse a.toNat, sUse b.toNat] with priv := true }

/-- TRINV (R245): it holds at its own PC until its waits are over, its discards made once. -/
def execTrinv (st : BitVec 2) (a b : BitVec 6) (p : BitVec 1) (s : State) : Out :=
  issue (trinvForm st a b) (fun cx s =>
    let i := cx.g.ident.island
    match cx.f.hold with
    | .trinv lo hi c fs dr before =>
      if trinvDone s i c lo hi before fs dr then
        .ok (modGrp s cx.key fun g => advance 4 cx.ix { g with frags := modNth g.frags cx.ix fun f => { f with hold := .none } })
      else .wait
    | _ =>
      let va := (readS cx.g.regs a.toNat).toNat
      let y := (readS cx.g.regs b.toNat).toNat
      if va ≥ 2 ^ 57 || va % 65536 ≠ 0 || y ≥ 2 ^ 48 then .flt { cls := 0x01, status := 2 }
      else if !storesDone cx.g s.seq then .wait
      else
        let np := y % 2 ^ 32
        let c := bits y 47 32
        let lo := if np = 0 then 0 else va
        let hi := if np = 0 then 2 ^ 57 else va + 65536 * np
        let fs := rangeFrames s i c lo hi
        let s := discardRange s i c lo hi
        if trinvDone s i c lo hi s.seq fs (p = 1) then .ok (modGrp s cx.key (advance 4 cx.ix))
        else .ok (modGrp s cx.key fun g => modFrag g cx.ix fun f => { f with hold := .trinv lo hi c fs (p = 1) s.seq })) s

end Sys2Proof.Machine
end

