-- ==== Sys2Proof/Machine/Kernel.lean ====
section
/-! DEFINITION. The panel command processor's accesses, kernel headers, team shapes, placement and start of teams
(R342 to R354, R362, R371). -/

namespace Sys2Proof.Machine

open Sys2Proof

/-! ## The processor's accesses in a context (R346, R362, R365) -/

/-- What one address of a context comes to for the processor. -/
inductive CpPlace where
  | ok (l : Loc) (vn : Nat)
  | refused
  | waits
deriving Repr

/-- An address of a context on an island translated for the processor, as the context's own code would. -/
def cpPlace (s : State) (i c va : Nat) (acc : Acc) : State × CpPlace :=
  if va ≥ 2 ^ 57 then (s, .refused)
  else
    let t := translate s i c (ctxOf s i c).priv va acc 0
    match t.2 with
    | .prot _ => (t.1, .refused)
    | .page .. => (t.1, .refused)
    | .ok l =>
      let e := vctEntry t.1 i c l.vcx 0
      match hostAns e.1 l.phys (vcCheck (islOf e.1 i).mem c e.2 acc.writes) with
      | .fault .. => (e.1, .refused)
      | .waits => (e.1, .waits)
      | .ok vn => (e.1, .ok l vn)

/-- The spans of at most 64 bytes, none across a 64-byte boundary, of n bytes at va; the fuel is their number. -/
def cutSpans : Nat → Nat → Nat → List (Nat × Nat)
  | 0, _, _ => []
  | k + 1, va, n =>
    if n = 0 then []
    else
      let m := min n (64 - va % 64)
      (va, m) :: cutSpans k (va + m) (n - m)

/-- The spans of n bytes at va. -/
def spansOf (va n : Nat) : List (Nat × Nat) := cutSpans (n / 64 + 2) va n

/-- What the processor's access to a span comes to. -/
inductive CpRead where
  | ok (bs : List Byte)
  | refused
  | waits
deriving Repr

/-- A sector touched by the processor, which keeps no L1 copy. -/
def cpTouch (s : State) (i vn p : Nat) (act : HomeAct) : State :=
  modMem s i fun m =>
    if act = .load then vcTouch m vn 0 (p / 64) false else cacheAccess m vn 0 1025 (p / 64) 0 act

/-- One span read; poisoned data is refused. -/
def cpReadSpan (s : State) (i c : Nat) (sp : Nat × Nat) : State × CpRead :=
  let r := cpPlace s i c sp.1 .read
  match r.2 with
  | .refused => (r.1, .refused)
  | .waits => (r.1, .waits)
  | .ok l vn =>
    if (List.range sp.2).any fun j => marked r.1 i (l.phys + j) then (r.1, .refused)
    else (noteTraffic (cpTouch r.1 i vn l.phys .load) i c, .ok (physBytes r.1 i l.phys sp.2))

/-- The spans read in order, up to the first that is refused or waits. -/
def cpReadAll (i c : Nat) : State → List (Nat × Nat) → State × CpRead
  | s, [] => (s, .ok [])
  | s, sp :: t =>
    let r := cpReadSpan s i c sp
    match r.2 with
    | .ok bs =>
      let q := cpReadAll i c r.1 t
      match q.2 with
      | .ok bs' => (q.1, .ok (bs ++ bs'))
      | x => (q.1, x)
    | x => (r.1, x)

/-- n bytes at va read by the processor. -/
def cpRead (s : State) (i c va n : Nat) : State × CpRead := cpReadAll i c s (spansOf va n)

/-- The bytes of one span stored: D and the line (R240). Marks stay: the processor's writes are not among those that clear them
(R312). -/
def cpStoreAt (s : State) (i : Nat) (l : Loc) (vn : Nat) (bs : List Byte) : State :=
  let s := setDirty s i l.phys l.dirtyAt
  cpTouch (physPut s i l.phys bs) i vn l.phys .store

/-- What writing a run of bytes comes to. -/
inductive CpWrite where
  | done | refused | waits
deriving DecidableEq, Repr

/-- Bytes written to spans in order, up to the first that is refused or waits. -/
def cpWriteAll (i c : Nat) : State → List (Nat × Nat) → List Byte → State × CpWrite
  | s, [], _ => (s, .done)
  | s, sp :: t, bs =>
    let r := cpPlace s i c sp.1 .write
    match r.2 with
    | .refused => (r.1, .refused)
    | .waits => (r.1, .waits)
    | .ok l vn => cpWriteAll i c (noteTraffic (cpStoreAt r.1 i l vn (bs.take sp.2)) i c) t (bs.drop sp.2)

/-- Bytes written at va by the processor. -/
def cpWrite (s : State) (i c va : Nat) (bs : List Byte) : State × CpWrite := cpWriteAll i c s (spansOf va bs.length) bs

/-! ## The header (R344, R346) -/

/-- The 64-bit word of a header at an offset. -/
def hdrWord (h : List Byte) (o : Nat) : Nat := leNat ((h.drop o).take 8)

/-- The VCX of a binding slot, where the slot is bound. -/
def slotVcx (h : List Byte) (j : Nat) : Option Nat :=
  let b := hdrWord h 0x20 / 2 ^ (8 * j) % 256
  if bit b 7 then some (b % 64) else none

/-- Header fields that break R344, status 0x01. -/
def headerBad (h : List Byte) : Bool :=
  let w0 := hdrWord h 0
  let x := hdrWord h 0x10
  let y := hdrWord h 0x18
  let base := bits x 15 8
  let top := bits x 23 16
  let lanes := bits x 45 32
  let w := 16 * 2 ^ bits x 1 0
  let regsBad := fun (r : Nat) => r % 8 ≠ 0 || r < 8 || r > 128
  bits w0 31 0 ≠ 0x4C4E524B || bits w0 47 32 ≠ 1 || bits w0 63 48 ≠ 0 || bits x 1 0 = 3 || bits x 7 2 ≠ 0
    || regsBad base || regsBad top || base > top || bits x 31 24 ≠ 0 || lanes < w || lanes > 8192 || lanes % w ≠ 0
    || bits x 47 46 ≠ 0 || bit x 51 || bits x 57 52 > 32 || bits x 63 58 ≠ 0
    || bits y 6 0 > 64 || bit y 7 || bits y 31 11 ≠ 0 || bits y 63 56 ≠ 0
    || (List.range 8).any (fun j => bit (hdrWord h 0x20) (8 * j + 6)) || bits (hdrWord h 0x28) 63 32 ≠ 0
    || (List.range 26).any fun j => hdrWord h (0x30 + 8 * j) ≠ 0

/-- ENTRY or HANDLER is out of the kernel, status 0x02. -/
def entryBad (h : List Byte) : Bool :=
  let e := bits (hdrWord h 8) 31 0
  let k := bits (hdrWord h 8) 63 32
  let len := bits (hdrWord h 0x28) 31 0
  e ≥ len || e % 4 ≠ 0 || (k ≠ 0 && (k ≥ len || k % 4 ≠ 0))

/-- k cores carry teams of n groups of w lanes with the base registers (R347). -/
def shapeFits (n w base : Nat) (pair : Bool) (k : Nat) : Bool :=
  let g := (n + k - 1) / k
  k ≤ n && (!pair || k ≥ 2) && g ≤ 64 && g * w ≤ 2048 && g * w * base * 4 ≤ 393216

/-- The number of cores of a team (R347). -/
def teamShape (n w base : Nat) (pair : Bool) : Option Nat := [1, 2, 4].find? (shapeFits n w base pair)

/-- The shape a header asks for. -/
def headerShape (h : List Byte) : Option Nat :=
  let x := hdrWord h 0x10
  let w := 16 * 2 ^ bits x 1 0
  teamShape (bits x 45 32 / w) w (bits x 15 8) (bit (hdrWord h 0x18) 10)

/-- A bound slot names no usable VC, status 0x04. -/
def slotBad (s : State) (i c : Nat) (h : List Byte) (j : Nat) : Bool :=
  match slotVcx h j with
  | none => false
  | some x =>
    let b := (memGet (islOf s i).mem.bytes (descAddr s i c + 0x20 + x)).toNat
    let v := vcOf (islOf s i).mem (b % 64)
    b ≥ 63 || !(v.state = .active || v.state = .resizing) || !(v.spec.owner = c || v.spec.owner = 0xFFFF)

/-- The status of R346; 0 where every check passes. -/
def headerStatus (s : State) (i c : Nat) (h : List Byte) : Nat :=
  let x := (ctxOf s i c).state
  if headerBad h then 1
  else if entryBad h then 2
  else if (headerShape h).isNone then 3
  else if (List.range 8).any (slotBad s i c h) then 4
  else if x ≠ .resident && x ≠ .running then 5
  else 0

/-- A grid of the header's kernel, whose header stands at kaddr (R344, R352). -/
def gridOf (h : List Byte) (kaddr : Nat) : Grid :=
  let e := hdrWord h 8
  let x := hdrWord h 0x10
  let y := hdrWord h 0x18
  let at_ := fun (o : Nat) => pcAdd (BitVec.ofNat 57 kaddr) o
  { entry := at_ (bits e 31 0)
    handler := if bits e 63 32 = 0 then none else some (at_ (bits e 63 32))
    width := bv 2 (bits x 1 0), rbase := bits x 15 8, rmax := bits x 23 16, lanes := bits x 45 32
    tmem := bits x 50 48 * 32768, tiles := bits x 57 52, bars := bits y 6 0
    pool := bit y 8, sbchk := bit y 9, pair := bit y 10, areaVcx := slotVcx h 5
    bartime := if bits y 55 32 = 0 then 1000 else bits y 55 32
    k := (headerShape h).getD 1 }

/-- The groups of a team of the grid (R347). -/
def Grid.groups (g : Grid) : Nat := g.lanes / widthLanes g.width

/-! ## Places (R347 to R349) -/

/-- The places of k cores in a partition, by their first core. -/
def places (qmask : DWord) (k : Nat) : List (List Nat) :=
  ((coresOf qmask).filter fun c => c % k = 0).map fun c => (List.range k).map fun j => c + j

/-- The slots of a quarter of a core that no group holds. -/
def freeSlots (s : State) (i core quarter : Nat) : List Nat :=
  ((List.range 16).map fun j => 16 * quarter + j).filter fun n => (tblGet? s.groups (groupKey i core n)).isNone

/-- Groups that a core's quarter takes of a team of n groups on k cores: the (g div k)-th goes to quarter
((g div k) mod 4) (R348). -/
def quarterLoad (n k ix quarter : Nat) : Nat :=
  ((List.range n).filter fun g => g % k = ix && g / k % 4 = quarter).length

/-- Every resource of R29 is free on core ix of the place. -/
def coreFits (s : State) (i : Nat) (g : Grid) (core ix : Nat) : Bool :=
  let ts := (coreTeams s i core).map (·.2)
  let lanes := groupsOn g.groups g.k ix * widthLanes g.width
  (List.range 4).all (fun q => quarterLoad g.groups g.k ix q ≤ (freeSlots s i core q).length)
    && (ts.map fun t => teamLanes t core).sum + lanes ≤ 2048
    && lanes * g.rbase * 4 ≤ poolBytes s i core
    && (ts.map (·.tmem)).sum + g.tmem ≤ 229376
    && (ts.map (·.ntiles)).sum + g.tiles ≤ 32
    && (ts.map (·.nbars)).sum + g.bars ≤ 64

/-- The pooling of the quad's resident teams agrees with the grid's (R349). -/
def poolAgrees (s : State) (i : Nat) (g : Grid) (core : Nat) : Bool :=
  s.teams.all fun p => p.2.island ≠ i || !(p.2.cores.any fun c => c / 4 = core / 4) || p.2.pool = g.pool

/-- A team of the grid fits the place. -/
def placeFits (s : State) (i : Nat) (g : Grid) (cores : List Nat) : Bool :=
  poolAgrees s i g (cores.headD 0) && cores.zipIdx.all fun c => coreFits s i g c.1 c.2

/-- The place the grid's next team takes: the fitting one with the lowest first core (R349). -/
def placeOf (s : State) (i : Nat) (g : Grid) : Option (List Nat) :=
  (places (ctxOf s i g.ctx).qmask g.k).find? (placeFits s i g)

/-- A grid has a team that waits for a place. -/
def gridWaits (i c : Nat) (g : Grid) : Bool :=
  g.island = i && g.ctx = c && g.state = .dispatching && g.next < g.nteam

/-- The partition takes teams: it is Resident or Running (R316, R352). -/
def placeable (s : State) (i c : Nat) : Bool :=
  let x := (ctxOf s i c).state
  x = .resident || x = .running

/-- The grid whose next team is placed, and where: of the grids that wait on the partition, in the order their
LAUNCHes were accepted, the first whose next team fits (R349). -/
def nextTeam (s : State) (i c : Nat) : Option (Nat × Grid × List Nat) :=
  let ready := (s.panel.grids.filterMap fun p =>
    if gridWaits i c p.2 then (placeOf s i p.2).map fun cs => (p.1, p.2, cs) else none)
  ready.foldl (fun (best : Option (Nat × Grid × List Nat)) x =>
    match best with
    | some b => if x.2.1.order < b.2.1.order then some x else some b
    | none => some x) none

/-! ## Team start (R43, R348, R351) -/

/-- The registers of a group at its start (R30, R351). -/
def startRegs (g : Grid) : Regs :=
  { s := (g.args.zipIdx.map fun p => (p.2, p.1)), t := [(0, g.t0)] }

/-- A group at its start (R30, R38, R43). -/
def startGroup (s : State) (gk : Nat) (g : Grid) (team groupId core slot : Nat) : Group :=
  { ident :=
      { ctx := g.ctx, kern := g.kern, teamId := BitVec.ofNat 32 g.next, groupId := groupId, core := core
        island := g.island, slot := slot, coreReg := core, islandReg := islandReg s g.island, team := team, grid := gk
        width := g.width, priv := (ctxOf s g.island g.ctx).priv, sbchk := g.sbchk, pool := g.pool
        base := g.rbase, max := g.rmax, handlerPc := g.handler, areaVcx := g.areaVcx }
    regs := startRegs g
    allot := g.rbase
    frags := [{ mask := fullMask (widthLanes g.width), pc := g.entry, slot := 0 }]
    ready := s.tick, age := s.seq * 64 + slot
    thread := s.seq * 2 ^ 20 + groupKey g.island core slot, base := g.clk }

/-- Group number n of the team, in the lowest free slot of its quarter (R348). -/
def addGroup (gk : Nat) (g : Grid) (team : Nat) (cores : List Nat) (s : State) (n : Nat) : State :=
  let core := nth cores (n % g.k)
  let slot := (freeSlots s g.island core (n / g.k % 4)).headD 0
  let key := groupKey g.island core slot
  let s := setGrp s key (startGroup s gk g team n core slot)
  modTeam s team fun t => { t with groups := t.groups ++ [key] }

/-- The grid after one more team is placed (R352). -/
def teamPlaced (g : Grid) : Grid :=
  { g with next := g.next + 1, live := g.live + 1, state := if g.next + 1 ≥ g.nteam then .running else g.state }

/-- The grid's next team starts on the cores (R348, R351). -/
def startTeam (s : State) (gk : Nat) (g : Grid) (cores : List Nat) : State :=
  let team := s.seq
  let t : Team :=
    { island := g.island, ctx := g.ctx, grid := gk, kern := g.kern, teamId := BitVec.ofNat 32 g.next, cores := cores
      width := g.width, pool := g.pool, tmem := g.tmem, ntiles := g.tiles, nbars := g.bars, bartime := g.bartime
      regBase := g.rbase }
  let s := { s with teams := tblSet s.teams team t }
  let s := (List.range g.groups).foldl (addGroup gk g team cores) s
  let s := modCtx s g.island g.ctx fun x => { x with state := if x.state = .resident then .running else x.state }
  { s with seq := s.seq + 1, panel := { s.panel with grids := tblAdj s.panel.grids gk teamPlaced } }

/-- Something that the context issued on the island is under way. -/
def hbmStirs (s : State) (i c : Nat) : Bool :=
  let x := islOf s i
  (ctxGroups s i c).any (fun p => p.2.ops ≠ []) || x.mem.engines.any (fun p => p.2.ctx = c)
    || x.remotes.any (fun p => p.2.ctx = c) || x.buckets.any fun p => p.2.ctx = c

/-- The traffic of the contexts that have something under way. -/
def noteStirs (s : State) : State :=
  s.islands.foldl (fun s p => p.2.ctxs.foldl (fun s c => if hbmStirs s p.1 c.1 then noteTraffic s p.1 c.1 else s) s) s

/-- The context has had no HBM traffic in the last 10 µs: no core of its partition has issued an instruction, nothing that it
issued has been under way, and the command processor and the other islands have reached none of its memory. -/
def hbmQuiet (s : State) (i c : Nat) : Bool :=
  let x := ctxOf s i c
  (coresOf x.qmask).all (fun k => (tblGet (islOf s i).cores k).issued.all fun t => t + 10000 < s.panel.ptime)
    && !hbmStirs s i c && x.trafficAt.all fun t => t + 10000 < s.panel.ptime

/-- The context's HBM traffic in the last 10 µs, in bytes: a free number where there is any (R371; log 4). -/
def hbmTraffic (s : State) (i c : Nat) : Nat := if hbmQuiet s i c then 0 else Config.hbmBytes s.tick

/-- Every budget of the context on the island has room: BWB × 10 GB/s over 10 µs, and PWB W; 0 sets no limit (R371). -/
def budgetAllows (s : State) (i c : Nat) : Bool :=
  let x := ctxOf s i c
  (x.bwb = 0 || hbmTraffic s i c ≤ x.bwb * 100000) && (x.pwb = 0 || Config.contextWatts s.tick ≤ x.pwb)

/-- TEAM_PLACEMENT (R349, R371). -/
def execTeamPlacement (island ctx : Nat) (s : State) : Out :=
  if !placeable s island ctx then .next s
  else
    match nextTeam s island ctx with
    | none => .next s
    | some (gk, g, cores) => if budgetAllows s island ctx then .next (startTeam s gk g cores) else .next s

end Sys2Proof.Machine
end

