-- ==== Sys2Proof/Machine/Queue.lean ====
section
/-! DEFINITION. Command queues: their commands and states, packets, and QPUSH (R355 to R372). -/

namespace Sys2Proof.Machine

open Sys2Proof

/-! ## The fields of a queue (R355) -/

def queueOf (s : State) (n : Nat) : Queue := tblGet s.panel.queues n

def modQueue (s : State) (n : Nat) (f : Queue → Queue) : State :=
  { s with panel := { s.panel with queues := tblMod s.panel.queues n f } }

/-- CTX, QISL, PRIV, DEV, HOST, PRIO and the slots of QCFG. -/
def qCtx (q : Queue) : Nat := bits q.cfg.toNat 47 32
def qIsl (q : Queue) : Nat := bits q.cfg.toNat 21 16
def qPriv (q : Queue) : Bool := bit q.cfg.toNat 14
def qDev (q : Queue) : Bool := bit q.cfg.toNat 13
def qHost (q : Queue) : Bool := bit q.cfg.toNat 12
def qPrio (q : Queue) : Nat := bits q.cfg.toNat 9 8
def qSlots (q : Queue) : Nat := 2 ^ bits q.cfg.toNat 4 0

/-- Published packets not yet accepted. -/
def qHeld (q : Queue) : Nat := (q.tail - q.head).toNat

/-- The memory that holds the ring: island of its HBM, and the physical address of an offset in it. -/
def ringAddr (q : Queue) (a : Nat) : Nat := if qHost q then hostBase + a else a

/-- The physical address of the slot of a count. -/
def slotAddr (q : Queue) (k : Word) : Nat := ringAddr q (q.base + 64 * (k.toNat % qSlots q))

/-- An Enabled or Running queue, by whether it holds a packet (R358). -/
def restQueue (q : Queue) : Queue :=
  if q.state = .enabled || q.state = .running then { q with state := if q.head = q.tail then .enabled else .running } else q

/-- A failure moves a queue of this state to Error (R358). -/
def mayFail (q : Queue) : Bool :=
  match q.state with
  | .created => true
  | .enabled => true
  | .running => true
  | .blocked => true
  | .draining => true
  | .none => false
  | .disabled => false
  | .error => false

/-- The WAIT that was the queue's next packet is no longer. -/
def dropWait (s : State) (n : Nat) : State :=
  { s with panel := { s.panel with waits := tblDel s.panel.waits n } }

/-- The queue enters Error (R358). -/
def failQueue (s : State) (n : Nat) (idx : Word) (status fisl : Nat) (isPacket : Bool) : State :=
  let q := queueOf s n
  if mayFail q then
    modQueue (dropWait s n) n fun q => { q with
      state := .error, status := status, fisl := fisl, failIdx := idx, failPacket := isPacket, next := none }
  else s

/-- The started packets of a queue. -/
def startedOf (s : State) (n : Nat) : List (Nat × QueuePacket) := s.panel.started.filter fun p => p.2.queue = n

/-- A Draining queue with no started packet left is Disabled (R358). -/
def drainCheck (s : State) (n : Nat) : State :=
  if (queueOf s n).state = .draining && startedOf s n = [] then modQueue s n fun q => { q with state := .disabled } else s

/-! ## Commands (R357) and QTAIL (R356) -/

/-- The host ports show the panel's registers: they have trained, and boot has not halted with its firmware rejected on both
dies (R19, R20). -/
def registersExposed (s : State) : Bool := s.panel.phase ≠ 0 && !(s.panel.phase = 0xFF && s.panel.error = 1)

/-- QBASE or QCFG is refused at CREATE. -/
def descriptorBad (s : State) (base : Nat) (cfg : DWord) : Bool :=
  let w := cfg.toNat
  let k := bits w 4 0
  bits w 63 48 ≠ 0 || bits w 31 22 ≠ 0 || bit w 15 || bits w 11 10 ≠ 0 || bits w 7 5 ≠ 0 || k < 4 || k > 16
    || base % (64 * 2 ^ k) ≠ 0 || bits w 21 16 ≥ s.panel.ncount || bits w 47 32 = 0xFFFF || (bit w 13 && bit w 14)

/-- CREATE (R357), with QBASE and QCFG as the host has written them. -/
def execCreate (queue : Nat) (base cfg : DWord) (s : State) : Out :=
  if queue ≥ 1024 || (queueOf s queue).state ≠ .none || !registersExposed s then .next s
  else
    let q : Queue := { base := base.toNat, cfg := cfg }
    .next (modQueue s queue fun _ =>
      if descriptorBad s base.toNat cfg then { q with state := .error, status := 1 } else { q with state := .created })

/-- ENABLE (R357). -/
def execEnable (queue : Nat) (s : State) : Out :=
  let q := (queueOf s queue).state
  if (q = .created || q = .disabled) && registersExposed s then
    .next (modQueue s queue fun q => restQueue { q with state := .enabled })
  else .next s

/-- DRAIN (R357). -/
def execDrain (queue : Nat) (s : State) : Out :=
  let q := (queueOf s queue).state
  if (q = .enabled || q = .running || q = .blocked) && registersExposed s then
    .next (drainCheck (modQueue (dropWait s queue) queue fun q => { q with state := .draining, next := none }) queue)
  else .next s

/-- RESET (R357). -/
def execReset (queue : Nat) (s : State) : Out :=
  if (queueOf s queue).state = .error && registersExposed s then
    .next (modQueue s queue fun q => { q with
      head := if q.failPacket then q.failIdx + 1 else q.tail, status := 0, failPacket := false
      state := .disabled })
  else .next s

/-- DESTROY (R357): the number is free, and QBASE and QCFG, as they were written, can be written again (R355); packets still
running belong to no queue. -/
def execDestroy (queue : Nat) (s : State) : Out :=
  let q := queueOf s queue
  if (q.state = .created || q.state = .disabled) && registersExposed s then
    .next { s with panel := { s.panel with
      queues := tblSet s.panel.queues queue { base := q.base, cfg := q.cfg }
      started := s.panel.started.map fun p => if p.2.queue = queue then (p.1, { p.2 with queue := 1024 }) else p } }
  else .next s

/-- A QTAIL value is accepted (R356). -/
def tailOk (q : Queue) (t : Word) : Bool :=
  (t - q.head).toNat ≤ qSlots q && (t - q.tail).toNat + qHeld q ≤ qSlots q

/-- QTAIL_WRITE (R356). -/
def execQtailWrite (queue : Nat) (val : Word) (s : State) : Out :=
  let q := queueOf s queue
  if q.state = .none || qDev q || !registersExposed s then .next s
  else if tailOk q val then .next (modQueue s queue fun q => restQueue { q with tail := val })
  else .next (failQueue s queue q.head 2 0 false)

/-! ## Acceptance (R359) -/

/-- The words of a packet that are all zero from word k on. -/
def zeroFrom (ws : List Nat) (k : Nat) : Bool := (ws.drop k).all (· = 0)

/-- A packet's type. -/
def packetType (ws : List Nat) : Nat := nth ws 0 % 256

/-- Reserved fields and ranges of a packet's words break R359 to R368. -/
def packetBad (s : State) (ws : List Nat) : Bool :=
  let w := fun (j : Nat) => nth ws j
  bits (w 0) 63 38 ≠ 0 || bits (w 0) 15 9 ≠ 0 ||
    match packetType ws with
    | 1 => w 1 ≥ 2 ^ 57 || w 1 % 256 ≠ 0 || bits (w 3) 31 0 = 0 || w 4 ≥ 2 ^ 57 || w 4 % 64 ≠ 0 || w 6 > 65536 || w 6 % 8 ≠ 0
        || w 7 ≠ 0
    | 2 => bits (w 1) 63 22 ≠ 0 || bits (w 2) 31 2 ≠ 0 || !zeroFrom ws 4
    | 3 => bits (w 1) 63 22 ≠ 0 || !zeroFrom ws 3
    | 4 => w 3 = 0 || w 3 ≥ 2 ^ 32 || bits (w 4) 63 2 ≠ 0 || !zeroFrom ws 5
    | 5 => bits (w 1) 63 10 ≠ 0 || bits (w 1) 7 6 ≠ 0 || bits (w 1) 9 8 = 3 || bits (w 1) 5 0 ≥ s.panel.ncount
        || operandReserved (match bits (w 1) 9 8 with | 0 => .define | 1 => .resize | _ => .retire) (w 2) || !zeroFrom ws 3
    | 6 => !zeroFrom ws 1
    | 7 => bits (w 1) 63 8 ≠ 0 || bits (w 3) 63 2 ≠ 0 || !zeroFrom ws 4
    | _ => true

/-- The counters a packet names: island and number. -/
def packetCounters (ws : List Nat) : List (Nat × Nat) :=
  let h := nth ws 0
  let cref := (bits (nth ws 1) 21 16, bits (nth ws 1) 15 0)
  let ncref := (bits (nth ws 1) 5 0, bits (nth ws 2) 47 32)
  (if bit h 8 then [(bits h 37 32, bits h 31 16)] else [])
    ++ (if packetType ws = 2 || packetType ws = 3 then [cref] else [])
    ++ (if packetType ws = 5 && bit (nth ws 2) 48 then [ncref] else [])

/-- The status of acceptance; 0 where every check passes. -/
def acceptStatus (s : State) (q : Queue) (ws : List Nat) : Nat :=
  if packetBad s ws then 3
  else if (packetCounters ws).any fun c => c.1 ≥ s.panel.ncount || !ctrOwned s c.1 (qCtx q) c.2 then 4
  else 0

/-! ## The set-up of a LAUNCH (R346, R362) -/

/-- The host physical span names host memory that a port reaches (R393). -/
def hostSpan (s : State) (a n : Nat) : Bool := hostUp s && a + n ≤ 2 ^ 51

/-- The islands a LAUNCH names. -/
def launchIslands (mask : Nat) : List Nat := (List.range 64).filter (bit mask)

/-- The argument bytes of a LAUNCH, in the memory that holds the ring. -/
def argBytes (s : State) (q : Queue) (src n : Nat) : Option (List Byte) :=
  let a := ringAddr q src
  let ok := if qHost q then hostSpan s src n else src + n ≤ hbmEnd
  if n = 0 then some []
  else if !ok || (List.range n).any fun j => marked s (qIsl q) (a + j) then none
  else some (physBytes s (qIsl q) a n)

/-- The kernel header on each island, in order. -/
def launchHeaders (c kaddr : Nat) : State → List Nat → State × Option (List (Nat × List Byte)) × Bool
  | s, [] => (s, some [], false)
  | s, i :: t =>
    let r := cpRead s i c kaddr 256
    match r.2 with
    | .refused => (r.1, none, false)
    | .waits => (r.1, none, true)
    | .ok bs =>
      let q := launchHeaders c kaddr r.1 t
      (q.1, q.2.1.map fun l => (i, bs) :: l, q.2.2)

/-- The addresses that stand for the pages of n bytes at va. -/
def argPages (va n : Nat) : List Nat :=
  if n = 0 then []
  else (List.range ((va + n - 1) / 65536 + 1 - va / 65536)).map fun j => max va ((va / 65536 + j) * 65536)

/-- The argument pages of one island, checked for a write and for their VCX. -/
def checkPages (i c vcx : Nat) : State → List Nat → State × CpWrite
  | s, [] => (s, .done)
  | s, va :: t =>
    let r := cpPlace s i c va .write
    match r.2 with
    | .refused => (r.1, .refused)
    | .waits => (r.1, .waits)
    | .ok l _ => if l.vcx ≠ vcx then (r.1, .refused) else checkPages i c vcx r.1 t

/-- The argument pages of every island. -/
def checkAllPages (c va n : Nat) : State → List (Nat × List Byte) → State × CpWrite
  | s, [] => (s, .done)
  | s, h :: t =>
    let r := checkPages h.1 c (bits (hdrWord h.2 0x20) 37 32) s (argPages va n)
    if r.2 = .done then checkAllPages c va n r.1 t else r

/-- What the set-up of a LAUNCH comes to. -/
inductive SetUp where
  /-- The argument bytes, and the kernel header on each island. -/
  | ready (args : List Byte) (hs : List (Nat × List Byte))
  | refused
  | waits

/-- The checks of R362 that come before the arguments are written. -/
def launchSetUp (s : State) (n : Nat) (ws : List Nat) : State × SetUp :=
  let q := queueOf s n
  let c := qCtx q
  let isls := launchIslands (nth ws 2)
  let placed := fun (i : Nat) => let x := (ctxOf s i c).state; x ≠ .built && x ≠ .terminated
  if isls = [] || isls.any (fun i => i ≥ s.panel.ncount || !placed i) || nth ws 4 + nth ws 6 > 2 ^ 57 then (s, .refused)
  else
    match argBytes s q (nth ws 5) (nth ws 6) with
    | none => (s, .refused)
    | some args =>
      let h := launchHeaders c (nth ws 1) s isls
      match h.2.1 with
      | none => (h.1, if h.2.2 then .waits else .refused)
      | some hs =>
        let p := checkAllPages c (nth ws 4) (nth ws 6) h.1 hs
        match p.2 with
        | .refused => (p.1, .refused)
        | .waits => (p.1, .waits)
        | .done => (p.1, .ready args hs)

/-- The LAUNCH can write its arguments now, or fails. -/
def launchStarts (s : State) (n : Nat) (ws : List Nat) : Bool :=
  match (launchSetUp s n ws).2 with
  | .waits => false
  | _ => true

/-! ## Which queue is served (R360, R370) -/

/-- The next packet, already read, can start: a LAUNCH that waits at a VC, a WAIT and an ORDER do not (R360). -/
def startable (s : State) (n : Nat) (ws : List Nat) : Bool :=
  match packetType ws with
  | 1 => launchStarts s n ws
  | 2 => (tblGet s.panel.waits n).met
  | 6 => startedOf s n = []
  | _ => true

/-- The queue's next packet can be read or started. -/
def servable1 (s : State) (n : Nat) (q : Queue) : Bool :=
  match q.next with
  | none => q.state = .running
  | some ws => (q.state = .running || q.state = .blocked) && startable s n (ws.map BitVec.toNat)

/-- How far a queue number stands after the one last served at its level. -/
def turnOf (s : State) (n : Nat) (q : Queue) : Nat := (n + 2047 - tblGet s.panel.served (qPrio q)) % 1024

/-- The queue the processor serves: lowest PRIO, then rotating order; none while it is stopped (R422). -/
def chooseQueue (s : State) : Option Nat :=
  let ready := s.panel.queues.filter fun p => !s.panel.checking && servable1 s p.1 p.2
  (ready.foldl (fun (best : Option (Nat × Nat)) p =>
    let rank := qPrio p.2 * 1024 + turnOf s p.1 p.2
    match best with
    | some b => if rank < b.1 then some (rank, p.1) else some b
    | none => some (rank, p.1)) none).map (·.2)

/-- The queue is the last served at its level. -/
def noteServed (s : State) (n : Nat) : State :=
  { s with panel := { s.panel with served := tblSet s.panel.served (qPrio (queueOf s n)) n } }

/-- A queue whose next packet, already read, can no longer start is Blocked (R358, R360). -/
def blockQueue (s : State) (n : Nat) (q : Queue) : Queue :=
  match q.next with
  | none => q
  | some ws => if q.state = .running && !startable s n (ws.map BitVec.toNat) then { q with state := .blocked } else q

/-- The queues whose next packet waits to start are Blocked. -/
def blockQueues (s : State) : State :=
  { s with panel := { s.panel with queues := s.panel.queues.map fun p => (p.1, blockQueue s p.1 p.2) } }

/-! ## Reading (R358) -/

/-- The ring's slot at HEAD: its words, none where they cannot be read. -/
def readSlot (s : State) (q : Queue) : Option (List DWord) :=
  let a := slotAddr q q.head
  if (List.range 4).any fun j => marked s (qIsl q) (a + 16 * j) then none
  else some ((List.range 8).map fun j => BitVec.ofNat 64 (physNat s (qIsl q) (a + 8 * j) 8))

/-- The WAIT packet's watch of its counter (R363). -/
def watch (s : State) (ws : List Nat) : QueueWait :=
  let c := nth ws 1
  let cond := bv 2 (bits (nth ws 2) 1 0)
  let v := BitVec.ofNat 64 (nth ws 3)
  let isl := bits c 21 16
  let ctr := bits c 15 0
  { island := isl, ctr := ctr, cond := cond, val := v, met := condHolds cond (ctrOf s isl ctr) v }

/-- QUEUE_PACKET_READ (R358, R370): the chosen queue's next packet is read and checked. -/
def execQueuePacketRead (s : State) : Out :=
  match chooseQueue s with
  | none => .next s
  | some n =>
    let q := queueOf s n
    if q.next.isSome then .next s
    else
      match readSlot s q with
      | none => .next (failQueue (noteServed s n) n q.head 3 0 true)
      | some ds =>
        let ws := ds.map BitVec.toNat
        let st := acceptStatus s q ws
        if st ≠ 0 then .next (failQueue (noteServed s n) n q.head st 0 true)
        else
          let s := if packetType ws = 2 then
              { s with panel := { s.panel with waits := tblSet s.panel.waits n (watch s ws) } } else s
          let go := startable s n ws
          let s := modQueue s n fun q => { q with
            next := some ds, since := s.panel.ptime, state := if go then .running else .blocked }
          .next (if go then s else noteServed s n)

/-! ## Starting and completing -/

/-- The chosen queue's next packet, where it is of the type and the queue is the given one. -/
def nextOfType (s : State) (n ty : Nat) : Option (List Nat) :=
  if chooseQueue s = some n then
    match (queueOf s n).next with
    | some ds => if packetType (ds.map BitVec.toNat) = ty then some (ds.map BitVec.toNat) else none
    | none => none
  else none

/-- The next packet starts: HEAD moves on, and the packet runs under a number of its own (R358). -/
def beginPacket (s : State) (n : Nat) (ws : List Nat) (grids : List Nat) : State × Nat :=
  let q := queueOf s n
  let p : QueuePacket :=
    { queue := n, index := q.head, words := ws.map (BitVec.ofNat 64), ctx := qCtx q, time := s.panel.ptime, grids := grids }
  let s := dropWait (noteServed s n) n
  let s := modQueue s n fun q => restQueue { q with head := q.head + 1, next := none, state := .running }
  ({ s with seq := s.seq + 1, panel := { s.panel with started := tblSet s.panel.started s.seq p } }, s.seq)

/-- The packet has left: a Draining queue may be Disabled. -/
def endPacket (s : State) (key : Nat) : State :=
  let n := (tblGet s.panel.started key).queue
  drainCheck { s with panel := { s.panel with started := tblDel s.panel.started key } } n

/-- A packet completes: its counter gains 1, as a release at panel scope (R361). -/
def completePacket (s : State) (key : Nat) : State :=
  let h := (nth (tblGet s.panel.started key).words 0).toNat
  let s := endPacket s key
  if bit h 8 then ctrAdd s (bits h 37 32) (bits h 31 16) 1 else s

/-- A started packet fails. -/
def failPacket (s : State) (key status fisl : Nat) : State :=
  let p := tblGet s.panel.started key
  endPacket (failQueue s p.queue p.index status fisl true) key

/-- A started packet whose accesses wait, or are over. -/
def setTodo (s : State) (key : Nat) (b : Bool) : State :=
  { s with panel := { s.panel with started := tblAdj s.panel.started key fun p => { p with todo := b } } }

/-- The oldest started packet of a queue and type whose accesses wait. -/
def waitingOf (s : State) (n ty : Nat) : Option (Nat × QueuePacket) :=
  s.panel.started.find? fun p => p.2.queue = n && p.2.todo && packetType (p.2.words.map BitVec.toNat) = ty

/-- The next packet fails before it starts. -/
def refusePacket (s : State) (n status : Nat) : State :=
  failQueue (noteServed s n) n (queueOf s n).head status 0 true

/-! ## WAIT, SIGNAL, ORDER (R361, R363, R364, R367) -/

/-- WAIT_PACKET (R363). -/
def execWaitPacket (queue : Nat) (s : State) : Out :=
  match nextOfType s queue 2 with
  | none => .next s
  | some ws =>
    let r := beginPacket s queue ws []
    .next (completePacket r.1 r.2)

/-- WAIT_PACKET_TIMEOUT (R363). -/
def execWaitPacketTimeout (queue : Nat) (s : State) : Out :=
  let q := queueOf s queue
  match q.next with
  | none => .next s
  | some ds =>
    let t := bits (nth ds 2).toNat 63 32
    if packetType (ds.map BitVec.toNat) = 2 && q.state = .blocked && !s.panel.checking && t ≠ 0 && !(tblGet s.panel.waits queue).met
        && q.since + 1000 * t ≤ s.panel.ptime then
      .next (failQueue s queue q.head 5 0 true)
    else .next s

/-- SIGNAL (R364). -/
def execSignal (queue : Nat) (s : State) : Out :=
  match nextOfType s queue 3 with
  | none => .next s
  | some ws =>
    let r := beginPacket s queue ws []
    .next (ctrAdd r.1 (bits (nth ws 1) 21 16) (bits (nth ws 1) 15 0) (BitVec.ofNat 64 (nth ws 2)))

/-- ORDER (R367). -/
def execOrder (queue : Nat) (s : State) : Out :=
  match nextOfType s queue 6 with
  | none => .next s
  | some ws =>
    let r := beginPacket s queue ws []
    .next (completePacket r.1 r.2)

/-! ## COPY and STAMP (R365, R368) -/

/-- n bytes of a packet's side: a host physical address, or a fabric address in the context (R24, R365). -/
def sideRead (s : State) (c : Nat) (fabric : Bool) (a n : Nat) : State × CpRead :=
  if !fabric then
    if !hostSpan s a n || (List.range n).any fun j => marked s 0 (hostBase + a + j) then (s, .refused)
    else (s, .ok (memBytes s.hostMem (hostBase + a) n))
  else if bit a 57 || bits a 63 58 ≥ s.panel.ncount then (s, .refused)
  else cpRead s (bits a 63 58) c (bits a 56 0) n

/-- Bytes written to a packet's side. -/
def sideWrite (s : State) (c : Nat) (fabric : Bool) (a : Nat) (bs : List Byte) : State × CpWrite :=
  if !fabric then
    if !hostSpan s a bs.length then (s, .refused)
    else (physPut s 0 (hostBase + a) bs, .done)
  else if bit a 57 || bits a 63 58 ≥ s.panel.ncount then (s, .refused)
  else cpWrite s (bits a 63 58) c (bits a 56 0) bs

/-- The accesses of a started COPY: it fails, waits on, or is over. -/
def copyGo (s : State) (key : Nat) : State :=
  let p := tblGet s.panel.started key
  let w := fun (j : Nat) => (nth p.words j).toNat
  let r := sideRead s p.ctx (bit (w 4) 0) (w 1) (w 3)
  match r.2 with
  | .waits => setTodo r.1 key true
  | .refused => failPacket r.1 key 7 0
  | .ok bs =>
    let x := sideWrite r.1 p.ctx (bit (w 4) 1) (w 2) bs
    match x.2 with
    | .waits => setTodo x.1 key true
    | .refused => failPacket x.1 key 7 0
    | .done => setTodo x.1 key false

/-- COPY (R365): the chosen queue's next packet starts, or one that waits at a VC tries again. -/
def execCopy (queue : Nat) (s : State) : Out :=
  match nextOfType s queue 4, waitingOf s queue 4 with
  | some ws, _ => let r := beginPacket s queue ws []; .next (copyGo r.1 r.2)
  | none, some p => .next (copyGo s p.1)
  | none, none => .next s

/-- The write of a started STAMP: the time of its start. -/
def stampGo (s : State) (key : Nat) : State :=
  let p := tblGet s.panel.started key
  let w := fun (j : Nat) => (nth p.words j).toNat
  if bit (w 3) 0 then
    let x := sideWrite s p.ctx (bit (w 3) 1) (w 2) (le8 p.time)
    match x.2 with
    | .waits => setTodo x.1 key true
    | .refused => failPacket x.1 key 7 0
    | .done => setTodo x.1 key false
  else s

/-- The sample that a STAMP enters at its start. -/
def enterStamp (s : State) (mon : Nat) : State :=
  { s with panel := { s.panel with
    monitors := tblAdj s.panel.monitors mon fun m => if m.src = 0x40 then enterSample m (s.panel.ptime % 2 ^ 32) else m } }

/-- STAMP (R368): the chosen queue's next packet starts, or one that waits at a VC tries again. -/
def execStamp (queue : Nat) (s : State) : Out :=
  match nextOfType s queue 7, waitingOf s queue 7 with
  | some ws, _ => let r := beginPacket (enterStamp s (nth ws 1)) queue ws []; .next (stampGo r.1 r.2)
  | none, some p => .next (stampGo s p.1)
  | none, none => .next s

/-! ## VCDEF (R366) -/

/-- VCDEF_PACKET (R366). -/
def execVcdefPacket (queue : Nat) (s : State) : Out :=
  match nextOfType s queue 5 with
  | none => .next s
  | some ws =>
    let q := queueOf s queue
    let i := bits (nth ws 1) 5 0
    let op : VcOp := match bits (nth ws 1) 9 8 with | 0 => .define | 1 => .resize | _ => .retire
    let p := beginPacket s queue ws []
    if !qPriv q then .next (failPacket p.1 p.2 8 0)
    else if (vcObjFault s i (qCtx q) op (nth ws 2)).isSome then .next (failPacket p.1 p.2 0x26 0)
    else
      let r := applyVc p.1 i op (nth ws 2)
      .next (if r.1 ≠ 0 then failPacket r.2 p.2 (0x20 + r.1) 0 else completePacket r.2 p.2)

/-! ## LAUNCH (R346, R362) -/

/-- T0 of a LAUNCH's groups on an island (R362). -/
def launchT0 (s : State) (i c va n : Nat) : TReg :=
  let bare : TReg := { base := BitVec.ofNat 64 va, rights := 1 }
  if n = 0 then bare
  else
    match (walkHeld s i c va .read (ctxOf s i c).priv 0).2 with
    | .page .. => bare
    | .leaf e addr _ => tOfLeaf c va n e addr

/-- One grid on an island: it dispatches where the header passes, and has Failed where it is refused (R346, R352). -/
def beginGrid (s : State) (c : Nat) (ws : List Nat) (args : List Byte) (pkt : Nat) (gk : Nat) (h : Nat × List Byte) : State :=
  let g : Grid := { gridOf h.2 (nth ws 1) with
    state := if headerStatus s h.1 c h.2 = 0 then .dispatching else .failed
    island := h.1, ctx := c, kern := bv 32 (bits (nth ws 3) 63 32), packet := pkt, order := pkt, nteam := bits (nth ws 3) 31 0
    args := (List.range 8).map fun j => BitVec.ofNat 64 (leNat ((args.drop (8 * j)).take 8))
    t0 := launchT0 s h.1 c (nth ws 4) (nth ws 6), clk := s.panel.clk }
  { s with panel := { s.panel with grids := tblSet s.panel.grids gk g } }

/-- A LAUNCH whose set-up has passed: its arguments are written, its grids begin; a refused grid fails the packet
(R346, R362). -/
def launchGo (s : State) (n : Nat) (ws : List Nat) (args : List Byte) (hs : List (Nat × List Byte)) : State :=
  let c := qCtx (queueOf s n)
  let s := hs.foldl (fun s h => (cpWrite s h.1 c (nth ws 4) args).1) s
  let bad := hs.filter fun h => headerStatus s h.1 c h.2 ≠ 0
  let keys := hs.zipIdx.map fun p => (s.seq + 1 + p.2, p.1)
  let r := beginPacket s n ws (keys.map (·.1))
  let s := keys.foldl (fun s p => beginGrid s c ws args r.2 p.1 p.2) { r.1 with seq := r.1.seq + keys.length }
  match bad with
  | [] => s
  | h :: _ => failPacket s r.2 (0x10 + headerStatus s h.1 c h.2) h.1

/-- LAUNCH (R362). -/
def execLaunch (queue : Nat) (s : State) : Out :=
  match nextOfType s queue 1 with
  | none => .next s
  | some ws =>
    let p := launchSetUp s queue ws
    match p.2 with
    | .refused => .next (refusePacket p.1 queue 6)
    | .waits => .next p.1
    | .ready args hs => .next (launchGo p.1 queue ws args hs)

/-! ## Completion (R353, R361, R362) -/

/-- Every effect of a started packet is performed. -/
def packetDone (s : State) (p : QueuePacket) : Bool := !p.todo && p.grids.all fun k => (tblGet s.panel.grids k).state = .complete

/-- A grid of the packet was Aborted. -/
def packetAborted (s : State) (p : QueuePacket) : Bool := p.grids.any fun k => (tblGet s.panel.grids k).state = .aborted

/-- PACKET_COMPLETE (R361, R362): a LAUNCH with an Aborted grid fails. -/
def execPacketComplete (pkt : Nat) (s : State) : Out :=
  match tblGet? s.panel.started pkt with
  | none => .next s
  | some p =>
    if packetAborted s p then .next (failPacket s pkt 9 0)
    else if packetDone s p then .next (completePacket s pkt)
    else .next s

/-! ## QPUSH (R372) -/

/-- The status of a push. -/
def pushStatus (s : State) (c n : Nat) : Nat :=
  let q := queueOf s n
  if !(q.state = .created || q.state = .enabled || q.state = .running || q.state = .blocked) then 3
  else if !qDev q || qCtx q ≠ c then 2
  else if qHeld q = qSlots q then 1
  else 0

/-- The packet stands in the slot at TAIL; the marks of its bytes are added to the slot's (R311). -/
def pushPacket (s : State) (n : Nat) (bs : List Byte) (bad : List Nat) : State :=
  let q := queueOf s n
  let a := slotAddr q q.tail
  let s := setMarks (physPut s (qIsl q) a bs) (qIsl q) (bad.map fun j => a / 16 + j)
  modQueue s n fun q => restQueue { q with tail := q.tail + 1 }

/-- The form of QPUSH. -/
def qpushForm (st : BitVec 2) (d a b : BitVec 6) : Form :=
  { ctlForm st [sUse a.toNat, sUse b.toNat] with dsts := [.s d.toNat] }

/-- QPUSH (R372). -/
def execQpush (st : BitVec 2) (d a b : BitVec 6) (s : State) : Out :=
  issue (qpushForm st d a b) (fun cx s =>
    let id := cx.g.ident
    let w := (readS cx.g.regs b.toNat).toNat
    let va := readS cx.g.regs a.toNat
    if bits w 63 10 ≠ 0 then .flt { cls := 0x01, status := 2 }
    else
      match checkGlobal s cx { acc := .read, n := 64 } [{ t := { base := va }, o := 0 }] with
      | .fault s c => .fltAt s c
      | .wait s => .waitAt s
      | .go s hs ms =>
        match hs with
        | [] => .out (park s cx .uniform .read 4 ms)
        | h :: _ =>
          if !accessesDone cx.g s.seq then .waitAt s
          else
            let bs := hitBytes s id.island h 64
            let bad := (List.range 4).filter fun j => marked s id.island (h.loc.phys + 16 * j)
            let s := noteAccess cx { acc := .read, n := 64 } .load false h s
            let r := pushStatus s id.ctx w
            let s := if r = 0 then panelRelease (pushPacket s w bs bad) cx.key cx.f.mask else s
            .ok (modGrp s cx.key fun g =>
              advance 4 cx.ix { g with regs := writeS g.regs d.toNat (BitVec.ofNat 64 r) })) s

end Sys2Proof.Machine
end

