-- ==== Sys2Proof/Machine/Route.lean ====
section
/-! DEFINITION. Ports, replay buffers, routes and the router (R373 to R382). -/

namespace Sys2Proof.Machine

open Sys2Proof

/-! ## Flits (R375) -/

/-- One bit of the reflected CRC-32C. -/
def crcStep (c : Nat) : Nat := if c % 2 = 1 then (c / 2) ^^^ 0x82F63B78 else c / 2

/-- One byte of it. -/
def crcByte (c : Nat) (b : Byte) : Nat :=
  crcStep (crcStep (crcStep (crcStep (crcStep (crcStep (crcStep (crcStep (c ^^^ b.toNat))))))))

/-- CRC-32C: initial value and final XOR all ones. -/
def crc32c (bs : List Byte) : Nat := (bs.foldl crcByte 0xFFFFFFFF) ^^^ 0xFFFFFFFF

/-- The header of a flit. -/
def flitHeader (ks kind ack seq : Nat) : List Byte :=
  leBytes (ks % 2 * 2 ^ 31 + kind % 8 * 2 ^ 28 + ack % 1024 * 2 ^ 18 + seq % 1024 * 2 ^ 8) 4

/-- A flit of a header and the 56 bytes that follow it, with its CRC. -/
def flitOf (ks kind ack seq : Nat) (body : List Byte) : List Byte :=
  let b := flitHeader ks kind ack seq ++ padTo 56 body
  b ++ leBytes (crc32c b) 4

/-- A flit that is not sealed: of a mesh or express link, or not sequenced, or of an edge link in training. -/
def makeFlit (kind ack seq : Nat) (payload : List Byte) : List Byte := flitOf 0 kind ack seq payload

/-- The routing header of a packet (R382). -/
def routingHeader (p : RemotePacket) : Nat :=
  p.dpanel % 1024 * 2 ^ 54 + p.disl % 64 * 2 ^ 48 + p.spanel % 1024 * 2 ^ 38 + p.sisl % 64 * 2 ^ 32
    + p.hop % 16 * 2 ^ 28 + p.route % 65536 * 2 ^ 8

/-- The bytes of a packet in flits: the routing header, then its data (log 28). -/
def packetBytes (p : RemotePacket) : List Byte := le8 (routingHeader p) ++ p.data

/-- Payload bytes of a flit. -/
def payloadSize (edge : Bool) : Nat := if edge then 44 else 56

/-- Flits of a packet. -/
def flitCount (edge : Bool) (p : RemotePacket) : Nat :=
  (8 + p.data.length + payloadSize edge - 1) / payloadSize edge

/-- A packet's flits. -/
def packetPieces (edge : Bool) (p : RemotePacket) : List FlitPiece :=
  let n := flitCount edge p
  (List.range n).map fun j =>
    { kind := if p.reply then 2 else 1, pkt := some p, last := j + 1 = n
      payload := ((packetBytes p).drop (payloadSize edge * j)).take (payloadSize edge) }

/-! ## Ports -/

def portOf (s : State) (i p : Nat) : Port := tblGet (islOf s i).ports p

def modPort (s : State) (i p : Nat) (f : Port → Port) : State :=
  modIsl s i fun x => { x with ports := tblMod x.ports p f }

/-- The port and, where the far end is on the panel, its peer changed by f. -/
def modLink (s : State) (i p : Nat) (f : Port → Port) : State :=
  let far := (portOf s i p).peer
  let s := modPort s i p f
  match far with
  | some (j, q) => modPort s j q f
  | none => s

/-- The code of a link state in LNKST (R374, R382). -/
def linkCode : LinkState → Nat
  | .dark => 0 | .training => 1 | .up => 2 | .retraining => 3 | .fenced => 4 | .failed => 5 | .quarantined => 6

/-- Identity of the request a packet belongs to: requester, operation, part (R387). -/
def requestKey (p : RemotePacket) : Nat × Nat × Nat × Nat :=
  if p.reply then (p.dpanel, p.disl, p.op, p.part) else (p.spanel, p.sisl, p.op, p.part)

/-- A key slot of the port. -/
def slotAt (n : Nat) (p : Port) : KeySlot := if n = 0 then p.slot0 else p.slot1

/-- The key slot a port seals under. -/
def curKey (p : Port) : KeySlot := slotAt p.curSlot p

/-- The other key slot. -/
def otherKey (p : Port) : KeySlot := slotAt (1 - p.curSlot) p

/-- A key slot of the port changed. -/
def modSlot (n : Nat) (f : KeySlot → KeySlot) (p : Port) : Port :=
  if n = 0 then { p with slot0 := f p.slot0 } else { p with slot1 := f p.slot1 }

/-- What follows the header of a sealed flit: 44 encrypted bytes and the tag, under the slot's nonce (R375, R390). -/
def sealedBody (k : KeySlot) (header payload : List Byte) : List Byte :=
  match k.tx with
  | some x => Config.seal x.key x.salt k.txc header (padTo 44 payload)
  | none => payload

/-- The port relocks: it is Retraining, or a retraining goes on under its fence (R374). -/
def relocking (p : Port) : Bool := p.state = .retraining || ((p.state = .fenced || p.state = .up) && p.relock)

/-- One sequenced flit placed in the replay buffer: numbered, with the ACK of this moment and, on an edge link, sealed once
(R376, R390). -/
def placeFlit (x : FlitPiece) (p : Port) : Port :=
  let seq := (p.seq + 1) % 1024
  let ks := if p.edge then p.curSlot else 0
  let body := if p.edge then sealedBody (curKey p) (flitHeader ks x.kind p.ack seq) x.payload else x.payload
  let e : BufferedFlit :=
    { seq := seq, kind := x.kind, ks := ks, txc := (curKey p).txc, pkt := x.pkt, last := x.last
      bytes := flitOf ks x.kind p.ack seq body, paused := relocking p }
  let p := if p.edge then modSlot p.curSlot (fun k => { k with txc := k.txc + 1 }) p else p
  { p with buffer := p.buffer ++ [e], seq := seq }

/-- Flits placed while the replay buffer holds fewer than 256; the others wait for an ACK (R376). -/
def placeAll : List FlitPiece → Port → Port
  | [], p => { p with placing := [] }
  | x :: t, p => if p.buffer.length < 256 then placeAll t (placeFlit x p) else { p with placing := x :: t }

/-- Room has come in the replay buffer. -/
def pumpPort (p : Port) : Port := placeAll p.placing p

/-- The port takes a new packet's flits: its buffer is not full, and no other packet's flits wait before it (R376). -/
def portRoom (p : Port) : Bool := p.placing = [] && p.buffer.length < 256

/-- A packet's flits go to the port. -/
def placePacket (pkt : RemotePacket) (p : Port) : Port := placeAll (packetPieces p.edge pkt) p

/-! ## Routes (R379 to R381) -/

/-- The route entry of a number; an entry never written carries no packet. -/
def routeOf (s : State) (r : Nat) : Route := tblGet s.panel.routes r

/-- The hops of an entry. -/
def hopsOf (r : Route) : List Nat := r.hops.take r.k

/-- The entry carries packets. -/
def carries (r : Route) : Bool := r.k ≠ 0 && r.k ≤ 15 && r.hops.length ≥ r.k && (hopsOf r).all (· < 12)

/-- A link takes packets in the router's view. -/
def linkOpen (p : Port) : Bool := p.state = .up || p.state = .retraining

/-- Every link of a path from an island is Up or Retraining; an edge link leaves the panel. -/
def pathOpen (s : State) (i : Nat) : List Nat → Bool
  | [] => true
  | h :: t =>
    let p := portOf s i h
    linkOpen p &&
      match p.peer with
      | some (j, _) => pathOpen s j t
      | none => p.edge && t = []

/-- The entry qualifies as a route from the island (R381). -/
def qualifies (s : State) (i r : Nat) : Bool := carries (routeOf s r) && pathOpen s i (hopsOf (routeOf s r))

/-- The cell of an island's route map for a destination (R380). -/
def cellOf (s : State) (i panel isl : Nat) : Nat :=
  (tblGet (islOf s i).cells (if panel = s.panel.number then isl else 64 + panel)).toNat

def cellValid (w : Nat) : Bool := bit w 63
def cellPri (w : Nat) : Nat := bits w 15 0
def cellAlt (w : Nat) : Nat := bits w 31 16
def cellCapp (w : Nat) : Nat := bits w 34 32
def cellCapa (w : Nat) : Nat := bits w 38 36

/-- The route R381 chooses. -/
inductive Chosen where
  /-- The entry, and the classes of atomics it carries. -/
  | route (r cap : Nat)
  | waits
  | never
deriving DecidableEq, Repr

/-- R381 for a packet from island i. -/
def chooseRoute (s : State) (i panel isl : Nat) : Chosen :=
  let w := cellOf s i panel isl
  if qualifies s i (cellPri w) then .route (cellPri w) (cellCapp w)
  else if qualifies s i (cellAlt w) then .route (cellAlt w) (cellCapa w)
  else if carries (routeOf s (cellPri w)) || carries (routeOf s (cellAlt w)) then .waits
  else .never

/-! ## Choosing routes over mesh links (R379) -/

/-- More than any route costs. -/
def farAway : Nat := 2 ^ 30

/-- One more link considered in the costs of reaching d. -/
def relax (adj : List (List (Nat × Nat))) (w : Nat → Nat → Nat) (d : Nat) (cost : List Nat) : List Nat :=
  adj.zipIdx.map fun x =>
    if x.2 = d then 0 else x.1.foldl (fun best l => min best (w x.2 l.2 + cost.getD l.2 farAway)) farAway

/-- The costs of reaching d, to a fixed point. -/
def costsTo (adj : List (List (Nat × Nat))) (w : Nat → Nat → Nat) (d : Nat) : Nat → List Nat → List Nat
  | 0, c => c
  | n + 1, c => let c' := relax adj w d c; if c' = c then c else costsTo adj w d n c'

/-- The costs of reaching d from every island. -/
def costs (adj : List (List (Nat × Nat))) (w : Nat → Nat → Nat) (d : Nat) : List Nat :=
  costsTo adj w d adj.length (adj.map fun _ => farAway)

/-- The least hop list among the cheapest paths from an island: its hops and the islands it passes. -/
def leastPath (adj : List (List (Nat × Nat))) (w : Nat → Nat → Nat) (cost : List Nat) : Nat → Nat → List (Nat × Nat)
  | 0, _ => []
  | n + 1, u =>
    let c := cost.getD u farAway
    if c = 0 || c ≥ farAway then []
    else match (adj.getD u []).find? fun l => w u l.2 + cost.getD l.2 farAway = c with
      | none => []
      | some l => l :: leastPath adj w cost n l.2

/-- The links of a path from an island, each by the islands it joins. -/
def pathLinks (u : Nat) : List (Nat × Nat) → List (Nat × Nat)
  | [] => []
  | l :: t => (u, l.2) :: pathLinks l.2 t

/-- A link costs 1, and 1,024 more where the primary goes over it. -/
def sharedCost (used : List (Nat × Nat)) (u v : Nat) : Nat :=
  if used.contains (u, v) || used.contains (v, u) then 1025 else 1

/-- Primary and alternate hop lists from s to d; an alternate of more than 15 hops carries no packet (log 46). -/
def routePair (adj : List (List (Nat × Nat))) (plain : List Nat) (s d : Nat) : List Nat × List Nat :=
  let one := fun (_ _ : Nat) => 1
  let p := leastPath adj one plain 64 s
  if p = [] || p.length > 15 then ([], [])
  else
    let w := sharedCost (pathLinks s p)
    let a := leastPath adj w (costs adj w d) 64 s
    (p.map (·.1), if a.length > 15 then [] else a.map (·.1))

/-- The route entry of a hop list. -/
def routeEntry (l : List Nat) : Route := { k := l.length, hops := l }

/-- The mesh links that are Up now, by island: port and far island, in the order of the selectors. -/
def upLinks (s : State) : List (List (Nat × Nat)) :=
  (List.range s.panel.ncount).map fun i => (List.range 4).filterMap fun d =>
    match (portOf s i d).peer with
    | some (j, q) => if (portOf s i d).state = .up && (portOf s j q).state = .up then some (d, j) else none
    | none => none

/-- The links of a hop list from an island, each by the islands it joins. -/
def routeLinks (s : State) (u : Nat) : List Nat → List (Nat × Nat)
  | [] => []
  | h :: t =>
    match (portOf s u h).peer with
    | some (v, _) => (u, v) :: routeLinks s v t
    | none => []

/-- The hop list of a replacement route now: the primary by R379, or the path that shares the fewest links with the primary in
use. -/
def replacementHops (s : State) (src dst : Nat) (alt : Bool) : List Nat :=
  let adj := upLinks s
  let w := if alt then sharedCost (routeLinks s src (hopsOf (routeOf s (cellPri (cellOf s src s.panel.number dst))))) else fun _ _ => 1
  (leastPath adj w (costs adj w dst) 64 src).map (·.1)

/-- The classes of atomics that a hop list from an island carries: all of them over mesh and express links, those that both
ends advertise over an edge link (R380). -/
def hopsCap (s : State) (i : Nat) : List Nat → Nat
  | [] => 7
  | h :: t =>
    let p := portOf s i h
    match p.peer with
    | some (j, _) => hopsCap s j t
    | none => if p.edge then p.cap % 8 else 0

/-! ## Notices (R378, R382) -/

/-- Every response owed to a handed-over request ends, at every port it left through (R387). -/
def forgetOwed (s : State) (p : RemotePacket) : State :=
  { s with islands := s.islands.map fun x => (x.1, { x.2 with
    ports := x.2.ports.map fun q => (q.1, { q.2 with owed := q.2.owed.filter (· ≠ requestKey p) }) }) }

/-- The response has passed back through an island (R387). -/
def answeredAt (s : State) (i : Nat) (p : RemotePacket) : State :=
  modIsl s i fun x => { x with ports := x.ports.map fun q => (q.1, { q.2 with owed := q.2.owed.filter (· ≠ requestKey p) }) }

/-- A packet stands in the router of an island. -/
def route (s : State) (i : Nat) (p : RemotePacket) : State :=
  { s with panel := { s.panel with routed := s.panel.routed ++ [(i, p)] } }

/-- A packet is delivered to an island; a notice is acted on there. -/
def deliverPacket (s : State) (i : Nat) (p : RemotePacket) : State :=
  match p.notice with
  | some .failure => { s with agenda := s.agenda ++ [.routeFailureNotice i p.op p.part] }
  | some .error => { s with agenda := s.agenda ++ [.routeErrorNotice i p.op] }
  | none => modIsl s i fun x => { x with inbox := x.inbox ++ [p] }

/-- The route of a notice from an island: the alternate, else the primary (R378; log 28). -/
def noticeRoute (s : State) (i panel isl : Nat) : Option Nat :=
  let w := cellOf s i panel isl
  if !cellValid w then none
  else if qualifies s i (cellAlt w) then some (cellAlt w)
  else if qualifies s i (cellPri w) then some (cellPri w)
  else none

/-- A notice to the requester of a packet's operation: at once where the router is the requester's own, else as a packet of
its own; a notice about a notice is not sent, and one without a route is lost (R378, R382; log 28). -/
def sendNotice (n : Notice) (s : State) (i : Nat) (p : RemotePacket) : State :=
  let k := requestKey p
  let q : RemotePacket :=
    { dpanel := k.1, disl := k.2.1, spanel := s.panel.number, sisl := i, reply := true, notice := some n, kind := p.kind
      op := k.2.2.1, part := k.2.2.2 }
  if p.notice.isSome then s
  else if k.1 = s.panel.number && k.2.1 = i then deliverPacket s i q
  else match noticeRoute s i k.1 k.2.1 with
    | some r => route s i { q with route := r }
    | none => s

/-- A route-failure notice to the packet's requester (R378). -/
def failureNotice (s : State) (i : Nat) (p : RemotePacket) : State := sendNotice .failure (forgetOwed s p) i p

/-- A route-error notice to the packet's requester (R382). -/
def errorNotice (s : State) (i : Nat) (p : RemotePacket) : State := sendNotice .error (forgetOwed s p) i p

/-- The packets of a replay buffer and of the flits that wait for it, once each. -/
def bufferedPackets (p : Port) : List RemotePacket :=
  (p.buffer.filter (·.last)).filterMap (·.pkt) ++ (p.placing.filter (·.last)).filterMap (·.pkt)

/-! ## Link failure (R374, R378, R452) -/

/-- A link that can fail: every state but Dark, Failed and Quarantined (R452). -/
def liveLink (p : Port) : Bool := p.state = .training || p.state = .up || p.state = .retraining || p.state = .fenced

/-- One end of a link enters Failed, or Quarantined at the third failure within one second; its buffer is discarded. -/
def failEnd (now : Nat) (p : Port) : Port :=
  let recent := (p.failures.filter fun t => now < t + 1000000000) ++ [now]
  { p with
    state := if recent.length ≥ 3 then .quarantined else .failed
    failures := recent, since := now, buffer := [], placing := [], naks := [], relock := false, fence := false
    tagFail := none }

/-- One end goes Dark; its buffer is discarded. -/
def darkEnd (p : Port) : Port :=
  { p with state := .dark, buffer := [], placing := [], naks := [], relock := false }

/-- A Quarantined port is recorded in the field section (R374). -/
def recordPort (s : State) (i p : Nat) : State :=
  if (portOf s i p).state = .quarantined then
    let u := ((islOf s i).site, p)
    { s with panel := { s.panel with store := { s.panel.store with
      ports := if s.panel.store.ports.contains u then s.panel.store.ports else s.panel.store.ports ++ [u] } } }
  else s

/-- The ports of a link: the port itself and, on this panel, its peer. -/
def linkEnds (s : State) (i p : Nat) : List (Nat × Nat) :=
  (i, p) :: match (portOf s i p).peer with
    | some x => if x = (i, p) then [] else [x]
    | none => []

/-- Ends changed by f, each then recorded where it is Quarantined; after that the routers send notices of every packet that
the ends' buffers held (R378). -/
def loseEnds (f : Port → Port) (s : State) (ends : List (Nat × Nat)) : State :=
  let lost := ends.map fun e => (e.1, bufferedPackets (portOf s e.1 e.2))
  let s := ends.foldl (fun s e => recordPort (modPort s e.1 e.2 f) e.1 e.2) s
  lost.foldl (fun s l => l.2.foldl (fun s k => failureNotice s l.1 k) s) s

/-- One end fails (R374). -/
def failPort (s : State) (i p : Nat) : State := loseEnds (failEnd s.panel.ptime) s [(i, p)]

/-- A link enters Failed at its ends (R378); an end that is Dark, Failed or Quarantined already stays so. -/
def linkFail (s : State) (i p : Nat) : State :=
  loseEnds (failEnd s.panel.ptime) s ((linkEnds s i p).filter fun e => liveLink (portOf s e.1 e.2))

/-- A link goes Dark at both its ends (R374). -/
def linkDark (s : State) (i p : Nat) : State := loseEnds darkEnd s (linkEnds s i p)

/-! ## The router (R382) -/

/-- What the router does with a packet. -/
inductive RouterDo where
  | deliver (p : RemotePacket)
  | error
  | forward (port : Nat) (p : RemotePacket)
deriving DecidableEq, Repr

/-- The packet at an island, past what its arrival over an edge link asks for. -/
def routeStep (s : State) (i : Nat) (p : RemotePacket) : RouterDo :=
  let r := routeOf s p.route
  if !carries r then .error
  else if p.hop < r.k then .forward (nth r.hops p.hop) { p with hop := p.hop + 1 }
  else if s.panel.number = p.dpanel && i = p.disl then .deliver p
  else .error

/-- R382. -/
def routerDo (s : State) (i : Nat) (p : RemotePacket) : RouterDo :=
  if p.edge then
    let w := cellOf s i s.panel.number p.disl
    if s.panel.number ≠ p.dpanel then .error
    else if i = p.disl then .deliver { p with edge := false }
    else if !cellValid w then .error
    else routeStep s i { p with edge := false, route := cellPri w, hop := 0 }
  else routeStep s i p

/-- The packet leaves through a port, waits for room in it, or is handed over (R376, R378, R387): none while it waits. -/
def sendOn (s : State) (i port : Nat) (p : RemotePacket) : Option State :=
  let x := portOf s i port
  if linkOpen x || (x.state = .fenced && p.reply) then
    if portRoom x then
      some (modPort s i port fun x =>
        let x := placePacket p x
        if p.reply then x else { x with owed := x.owed ++ [requestKey p] })
    else none
  else some (failureNotice s i p)

/-- The packets in the router of an island. -/
def routedAt (s : State) (i : Nat) : List RemotePacket := (s.panel.routed.filter fun x => x.1 = i).map (·.2)

/-- The queue of the router that a packet stands in: a port's, or that of the packets delivered or dropped here. -/
def exitOf : RouterDo → Nat
  | .forward port _ => port
  | .deliver _ => 12
  | .error => 13

/-- An earlier packet of the router stands in the same queue (R376). -/
def behind (s : State) (i k : Nat) (p : RemotePacket) : Bool :=
  ((routedAt s i).take k).any fun q => exitOf (routerDo s i q) = exitOf (routerDo s i p)

/-- ROUTER_PACKET (R382): packet number k of the island's router, the first of its queue. -/
def execRouterPacket (island k : Nat) (s : State) : Out :=
  match (routedAt s island)[k]? with
  | none => .next s
  | some p =>
    if behind s island k p then .next s
    else
      let gone : State := { s with panel := { s.panel with routed := dropFirst (island, p) s.panel.routed } }
      let seen := if p.reply then answeredAt gone island p else gone
      match routerDo s island p with
      | .deliver q => .next (deliverPacket seen island q)
      | .error => .next (errorNotice gone island p)
      | .forward port q =>
        match sendOn seen island port q with
        | some s' => .next s'
        | none => .next s

end Sys2Proof.Machine
end

