-- ==== Sys2Proof/Machine/Link.lean ====
section
/-! DEFINITION. Flits received, link states, edge keys, port fences, switch cells, route maps, host ports
(R373 to R378, R380, R381, R384 to R395, R452). -/

namespace Sys2Proof.Machine

open Sys2Proof

/-! ## Receiving (R375, R376) -/

/-- The header of a received flit. -/
def flitWord (f : List Byte) : Nat := leNat (f.take 4)

/-- The flit passes CRC, KIND and reserved bits, and is of the kind. -/
def flitOk (kind : Nat) (f : List Byte) : Bool :=
  f.length = 64 && leNat (f.drop 60) = crc32c (f.take 60) && bits (flitWord f) 30 28 = kind && bits (flitWord f) 7 0 = 0

def flitAck (f : List Byte) : Nat := bits (flitWord f) 27 18
def flitSeq (f : List Byte) : Nat := bits (flitWord f) 17 8
def flitKs (f : List Byte) : Nat := bits (flitWord f) 31 31

/-- The port accepts flits: Up or Fenced, and not relocking. -/
def receives (p : Port) : Bool := (p.state = .up || p.state = .fenced) && !p.relock

/-- An ACK frees the flits it covers (R376). -/
def freeAcked (ack : Nat) (p : Port) : Port :=
  match p.buffer.findIdx? fun e => e.seq = ack with
  | some j => { p with buffer := p.buffer.drop (j + 1) }
  | none => p

/-- An ACK frees the flits it covers, and those that waited for room are placed (R376). -/
def acceptAck (ack : Nat) (p : Port) : Port := pumpPort (freeAcked ack p)

/-- The mapped waveguides of a direction, from number n: the first 8 of the 9 that work (R12, R373). -/
def guideMap (n : Nat) (p : Port) : List Nat := (((List.range 9).map (n + ·)).filter fun g => !p.lost.contains g).take 8

/-- Each direction has 8 usable waveguides (R374). -/
def guidesOk (p : Port) : Bool := (guideMap 0 p).length = 8 && (guideMap 9 p).length = 8

/-- A waveguide of the port works no longer. -/
def loseGuide (g : Nat) (p : Port) : Port := if p.lost.contains g then p else { p with lost := p.lost ++ [g] }

/-- A retraining trigger at both ends (R374, R377); one in progress keeps its bound. -/
def triggerEnd (now : Nat) (p : Port) : Port :=
  match p.state with
  | .up => if p.relock then p else { p with state := .retraining, since := now }
  | .fenced => if p.relock then p else { p with relock := true, since := now }
  | _ => p

def retrain (s : State) (i p : Nat) : State := modLink s i p (triggerEnd s.panel.ptime)

/-- A flit is discarded: counted, and for a sequenced one a NAK is due, which names the SEQ accepted last (R376, R377); that of an
edge link leaves the panel at once. -/
def discardFlit (s : State) (i p : Nat) (sequenced : Bool) : State :=
  let now := s.panel.ptime
  let s := modPort s i p fun x => { x with
    discards := (x.discards.filter fun t => now < t + 1000) ++ [now]
    naks := if sequenced && !x.edge then x.naks ++ [x.ack] else x.naks }
  if (portOf s i p).discards.length > 64 then retrain s i p else s

/-- The SEQ a port expects next. -/
def nextExpected (p : Port) : Nat := (p.ack + 1) % 1024

/-- What a received sequenced flit comes to. -/
inductive Received where
  | accepted
  | discarded
  | tagFailed
deriving DecidableEq, Repr

/-- The checks of a sequenced flit (R375, R390). -/
def checkFlit (p : Port) (kind : Nat) (f : List Byte) : Received :=
  if !flitOk kind f || (!p.edge && flitKs f ≠ 0) || flitSeq f ≠ nextExpected p then .discarded
  else if p.edge then
    let k := slotAt (flitKs f) p
    match k.rx with
    | none => .discarded
    | some x => if Config.tagOk x.key x.salt k.rxc f then .accepted else .tagFailed
  else .accepted

/-- A flit under the new slot: the far end has loaded its keys, and this end too seals under them (R391). -/
def followSlot (n : Nat) (p : Port) : Port :=
  if p.fresh && n ≠ p.curSlot then { p with curSlot := n, fresh := false } else p

/-- An accepted flit: the next SEQ is expected, its ACK taken. -/
def acceptFlit (f : List Byte) (p : Port) : Port :=
  let p := { p with ack := nextExpected p, tagFail := none }
  let p := if p.edge then followSlot (flitKs f) (modSlot (flitKs f) (fun k => { k with rxc := k.rxc + 1 }) p) else p
  acceptAck (flitAck f) p

/-- A sequenced flit arrives: the state, and whether it was accepted. -/
def receiveFlit (s : State) (i p kind : Nat) (f : List Byte) : State × Bool :=
  let x := portOf s i p
  if !receives x then (s, false)
  else
    match checkFlit x kind f with
    | .accepted => (modPort s i p (acceptFlit f), true)
    | .discarded => (discardFlit s i p true, false)
    | .tagFailed =>
      if x.tagFail = some (nextExpected x) then (linkFail s i p, false)
      else (discardFlit (modPort s i p fun x => { x with tagFail := some (nextExpected x) }) i p true, false)

/-- The packet whose last flit the SEQ is: from the far end's replay buffer, or from beyond the panel. -/
def arriving (s : State) (i p seq : Nat) (pkt : Option RemotePacket) : Option RemotePacket :=
  match (portOf s i p).peer with
  | some (j, q) =>
    match (portOf s j q).buffer.find? fun e => e.seq = seq with
    | some e => if e.last then e.pkt else none
    | none => none
  | none => pkt.map fun k => { k with edge := true }

/-- A request or response flit (R376): its packet, when it is complete, stands in the island's router. -/
def receivePacket (s : State) (i p kind : Nat) (f : List Byte) (pkt : Option RemotePacket) : State :=
  let seq := nextExpected (portOf s i p)
  let r := receiveFlit s i p kind f
  if !r.2 then r.1
  else
    match arriving r.1 i p seq pkt with
    | some k => route r.1 i k
    | none => r.1

/-- FLIT_IDLE (R375). -/
def execFlitIdle (island port : Nat) (flit : List Byte) (s : State) : Out :=
  if !receives (portOf s island port) then .next s
  else if flitOk 0 flit then .next (modPort s island port (acceptAck (flitAck flit)))
  else .next (discardFlit s island port false)

/-- FLIT_REQUEST (R376). -/
def execFlitRequest (island port : Nat) (flit : List Byte) (pkt : Option RemotePacket) (s : State) : Out :=
  .next (receivePacket s island port 1 flit pkt)

/-- FLIT_RESPONSE (R376). -/
def execFlitResponse (island port : Nat) (flit : List Byte) (pkt : Option RemotePacket) (s : State) : Out :=
  .next (receivePacket s island port 2 flit pkt)

/-- The far end's oldest NAK has gone out. -/
def nakSent (s : State) (i p : Nat) : State :=
  match (portOf s i p).peer with
  | some (j, q) => modPort s j q fun x => { x with naks := x.naks.drop 1 }
  | none => s

/-- Every flit of the replay buffer goes out again, bit for bit (R376). -/
def replayAll (p : Port) : Port := { p with buffer := p.buffer.map fun e => { e with replays := e.replays + 1 } }

/-- Some flit of the port has been replayed eight times (R377). -/
def replayedOut (p : Port) : Bool := p.buffer.any fun e => e.replays ≥ 8

/-- The counts of eight replays start anew. -/
def countAnew (p : Port) : Port :=
  { p with buffer := p.buffer.map fun (e : BufferedFlit) => if e.replays ≥ 8 then { e with replays := 0 } else e }

/-- The eighth replay of one SEQ is a trigger (R377); what is replayed after it is counted anew. -/
def replayTrigger (s : State) (i p : Nat) : State :=
  if replayedOut (portOf s i p) then retrain (modPort s i p countAnew) i p else s

/-- FLIT_NAK (R376, R377): the flits after the named SEQ go out again. -/
def execFlitNak (island port : Nat) (flit : List Byte) (s : State) : Out :=
  if !receives (portOf s island port) then .next s
  else if !flitOk 3 flit then .next (discardFlit s island port false)
  else
    let s := modPort (nakSent s island port) island port fun x => pumpPort (replayAll (freeAcked (flitAck flit) x))
    .next (replayTrigger s island port)

/-! ## Link states (R374, R377, R452) -/

/-- The ports of an island and of its peer that a step of the link concerns. -/
def farEnd (s : State) (i p : Nat) : Option Port := ((portOf s i p).peer).map fun j => portOf s j.1 j.2

/-- A flit of KIND 4 in clear: 44 bytes of a key message (R389; log 28). -/
def clearKeyFlit (msg : List Byte) : List Byte := makeFlit 4 0 0 (padTo 44 msg)

/-- A link starts training; an edge link sends its encapsulation key (R374, R389). -/
def trainEnd (now : Nat) (p : Port) : Port :=
  { p with state := .training, since := now, slot0 := {}, slot1 := {}, curSlot := 0, rolling := false, retry := false
           fresh := false, asked := false, answered := false
           clear := if p.edge then [clearKeyFlit (Config.keyMessage now [])] else [] }

/-- A link comes Up: SEQ and ACK at 0, an empty replay buffer (R374). -/
def upEnd (p : Port) : Port :=
  { p with state := .up, seq := 0, ack := 0, buffer := [], placing := [], naks := [], discards := [], owed := []
           relock := false, tagFail := none, drained := false, changed := false, fence := false, clear := [] }

/-- The atomic classes of the panel routes that leave through an edge port, as the firmware writes them in their cells: those of
the hops, and those that the far panel advertises (R380). -/
def panelCells (s : State) (i : Nat) (t : Tbl DWord) : Tbl DWord :=
  t.map fun c =>
    let w := c.2.toNat
    let cap := fun (r : Nat) => hopsCap s i (hopsOf (routeOf s r))
    if c.1 < 64 then c else (c.1, BitVec.ofNat 64 (putBits (putBits w 34 32 (cap (cellPri w))) 38 36 (cap (cellAlt w))))

/-- The firmware writes the panel cells anew. -/
def writePanelCells (s : State) : State :=
  { s with islands := s.islands.map fun p => (p.1, { p.2 with cells := panelCells s p.1 p.2.cells }) }

/-- The three bits of the classes of atomics: integer operations, CAS, floating-point operations (R380, R401). -/
def atomCap (ints cas floats : Bool) : Nat := ints.toNat + 2 * cas.toNat + 4 * floats.toNat

/-- LINK_TRAINING_COMPLETE (R374, R380, R389): both ends agree; for an edge link its key exchange is over, and the far end
advertises classes of atomics for the link, and the three bits of its panel's internal routes. -/
def execLinkTrainingComplete (island port : Nat) (ints cas floats : Bool) (inner : Nat) (s : State) : Out :=
  let x := portOf s island port
  let ready := x.state = .training && s.panel.ptime ≤ x.since + 1000000 && guidesOk x
    && match farEnd s island port with
      | some y => y.state = .training && guidesOk y
      | none => x.edge && x.asked && x.answered
  if !ready then .next s
  else if x.edge then .next (writePanelCells (modPort s island port fun p => { upEnd p with cap := atomCap ints cas floats &&& inner }))
  else .next (modLink s island port upEnd)

/-- LINK_TRAINING_TIMEOUT (R374): 1 ms has passed, too few waveguides are usable, or a key exchange has failed. -/
def execLinkTrainingTimeout (island port : Nat) (s : State) : Out :=
  if (portOf s island port).state = .training then .next (failPort s island port) else .next s

/-- The same waveguide as the far end numbers it. -/
def farGuide (g : Nat) : Nat := (g + 9) % 18

/-- LINK_RETRAINING_TRIGGER (R377): loss of lock on a mapped waveguide, or a trigger without a loss. -/
def execLinkRetrainingTrigger (island : Nat) (trigger : LinkTrigger) (s : State) : Out :=
  let port := trigger.port
  match trigger.lost with
  | none => .next (retrain s island port)
  | some g =>
    let x := portOf s island port
    let mapped := (guideMap 0 x).contains g || (guideMap 9 x).contains g
    let s := modPort s island port (loseGuide g)
    let s := match x.peer with
      | some (j, q) => modPort s j q (loseGuide (farGuide g))
      | none => s
    .next (if mapped then retrain s island port else s)

/-- Both ends relocked: every flit that had gone out before is replayed, and those placed since go out after them (R374). -/
def relockEnd (p : Port) : Port :=
  let p : Port := { p with buffer := p.buffer.map fun (e : BufferedFlit) =>
    if e.paused then { e with paused := false } else { e with replays := e.replays + 1 } }
  match p.state with
  | .retraining => { p with state := .up }
  | _ => { p with relock := false }

/-- The two ends of a link relock; the replay may be the eighth of a SEQ at either (R374, R377). -/
def relockLink (s : State) (i p : Nat) : State :=
  (linkEnds s i p).foldl (fun s e => replayTrigger s e.1 e.2) (modLink s i p relockEnd)

/-- LINK_RELOCK (R374). -/
def execLinkRelock (island port : Nat) (s : State) : Out :=
  let x := portOf s island port
  if relocking x && s.panel.ptime ≤ x.since + 20000 && guidesOk x then .next (relockLink s island port) else .next s

/-- LINK_RETRAINING_TIMEOUT (R374). -/
def execLinkRetrainingTimeout (island port : Nat) (s : State) : Out :=
  let x := portOf s island port
  if relocking x && s.panel.ptime ≥ x.since + 20000 then .next (linkFail s island port) else .next s

/-- LINK_RETRY_TIMER (R374). -/
def execLinkRetryTimer (island port : Nat) (s : State) : Out :=
  let x := portOf s island port
  if x.state = .failed && s.panel.ptime ≥ x.since + 1000000 then
    .next (modPort s island port (trainEnd s.panel.ptime))
  else .next s

/-! ## Edge keys (R389 to R391) -/

/-- Ten minutes in ns. -/
def tenMinutes : Nat := 600000000000

/-- A key message in the replay buffer, in a flit of KIND 4 (log 28). -/
def placeKeyFlit (msg : List Byte) (p : Port) : Port := placeFlit { kind := 4, payload := msg } p

/-- An exchange into the empty slot may begin (R391). -/
def exchangeReady (p : Port) : Bool := p.edge && p.state = .up && p.placing = [] && p.buffer.length < 256

/-- The slot is empty. -/
def emptySlot (k : KeySlot) : Bool := k.tx.isNone && k.rx.isNone

/-- An exchange begins: an encapsulation key goes out (R391). -/
def beginExchange (s : State) (p : Port) : Port :=
  placeKeyFlit (Config.keyMessage s.tick []) { p with rolling := true, retry := false, retryAt := s.panel.ptime }

/-- KEY_ROLLOVER_START (R391): the count, the age of the slot, or a firmware command. -/
def execKeyRolloverStart (island port : Nat) (command : Bool) (s : State) : Out :=
  let x := portOf s island port
  let due := command || (curKey x).txc ≥ 2 ^ 32 || s.panel.ptime ≥ (curKey x).loaded + tenMinutes
  if exchangeReady x && !x.rolling && !x.retry && due then .next (modPort s island port (beginExchange s))
  else .next s

/-- An exchange has failed: by a message of the far end that is refused, or as one that this end began and that has brought no new
keys, since the far end refuses without a word (R391; log 28). -/
def exchangeFailed (x : Port) : Bool := x.retry || (x.rolling && emptySlot (otherKey x))

/-- KEY_EXCHANGE_RETRY (R391): 1 s after the exchange failed. -/
def execKeyExchangeRetry (island port : Nat) (s : State) : Out :=
  let x := portOf s island port
  if exchangeReady x && exchangeFailed x && s.panel.ptime ≥ x.retryAt + 1000000000 then .next (modPort s island port (beginExchange s))
  else .next s

/-- A message is signed by an enrolled peer (R389). -/
def peerSigned (s : State) (peer msg sig : List Byte) : Bool := s.panel.store.peers.contains peer && Config.verify peer msg sig

/-- What an exchange derives: a key and a salt for each direction (R389). -/
def newSlot (n : Nat) (msg : List Byte) (now : Nat) : KeySlot :=
  { tx := some { key := Config.linkKey n msg false, salt := Config.linkSalt n msg false }
    rx := some { key := Config.linkKey n msg true, salt := Config.linkSalt n msg true }, loaded := now }

/-- A key message during training (R389): the far end's encapsulation key is answered, its ciphertext taken; with both the keys
stand in slot 0. A peer that is not enrolled makes training fail. -/
def trainingKey (msg : KeyMsg) (s : State) (i p : Nat) : State :=
  let take := fun (m : List Byte) (f : Port → Port) => modPort s i p fun x =>
    let x := f x
    if x.asked && x.answered then { x with slot0 := newSlot s.tick m s.panel.ptime, slot1 := {}, curSlot := 0 } else x
  match msg with
  | .encap peer m sig =>
    if peerSigned s peer m sig then
      take m fun x => { x with asked := true, clear := x.clear ++ [clearKeyFlit (Config.keyMessage s.tick m)] }
    else failPort s i p
  | .cipher peer m sig => if peerSigned s peer m sig then take m fun x => { x with answered := true } else failPort s i p
  | .retire => s

/-- A key message of a rollover (R391): an encapsulation key makes its receiver load the new keys and answer; the ciphertext
makes the sender load them and seal new flits under them. -/
def rolloverKey (msg : KeyMsg) (ks : Nat) (s : State) (i p : Nat) : State :=
  let now := s.panel.ptime
  match msg with
  | .encap peer m sig =>
    if peerSigned s peer m sig then
      modPort s i p fun x =>
        let x := if emptySlot (otherKey x) then
            { modSlot (1 - x.curSlot) (fun _ => newSlot s.tick m now) x with rolling := true, fresh := true }
          else x
        placeAll (x.placing ++ [{ kind := 4, payload := Config.keyMessage s.tick m }]) x
    else s
  | .cipher peer m sig =>
    if peerSigned s peer m sig then
      modPort s i p fun x =>
        if !x.rolling then x
        else
          let x := if emptySlot (otherKey x) then modSlot (1 - x.curSlot) (fun _ => newSlot s.tick m now) x else x
          { x with curSlot := 1 - x.curSlot, fresh := false, retry := false }
    else modPort s i p fun x => { x with rolling := false, retry := true, retryAt := now }
  | .retire => modPort s i p fun x => { modSlot (1 - ks) (fun _ => {}) x with rolling := false }

/-- FLIT_KEY_CONTROL (R389, R391): in clear while an edge link trains, else sequenced and sealed. -/
def execFlitKeyControl (island port : Nat) (flit : List Byte) (msg : KeyMsg) (s : State) : Out :=
  let x := portOf s island port
  if x.edge && x.state = .training then
    .next (if flitOk 4 flit && flitKs flit = 0 then trainingKey msg s island port else s)
  else
    let r := receiveFlit s island port 4 flit
    .next (if r.2 && x.edge then rolloverKey msg (flitKs flit) r.1 island port else r.1)

/-- The old slot can be retired at this end: its flits are acknowledged, and new ones go out under the new slot. -/
def retireDue (x : Port) : Bool :=
  exchangeReady x && x.rolling && !x.fresh && (otherKey x).tx.isSome && x.buffer.all fun e => e.ks = x.curSlot

/-- ROLLOVER_RETIRE (R391): no flit of the old slot is buffered; RETIRE goes out, and this end erases the old slot, as the far end
does when RETIRE comes. -/
def execRolloverRetire (island port : Nat) (s : State) : Out :=
  let x := portOf s island port
  if retireDue x then
    .next (modPort s island port fun p => { modSlot (1 - p.curSlot) (fun _ => {}) (placeKeyFlit [] p) with rolling := false })
  else .next s

/-- KEY_SLOT_EXHAUSTED (R391). -/
def execKeySlotExhausted (island port : Nat) (s : State) : Out :=
  let x := portOf s island port
  let live := x.state = .up || x.state = .retraining || x.state = .fenced
  if x.edge && live && (x.slot0.txc ≥ 2 ^ 36 || x.slot1.txc ≥ 2 ^ 36) then .next (linkFail s island port) else .next s

/-! ## PFENCE (R387) -/

/-- The instruction writes its status and goes on. -/
def pfenceEnd (d : Nat) (v : Nat) (cx : Cx) (s : State) : Res :=
  .ok (modGrp s cx.key fun g => advance 4 cx.ix { g with regs := writeS g.regs d (BitVec.ofNat 64 v) })

/-- The form of PFENCE and PFENCE.REL. -/
def pfenceForm (st : BitVec 2) (d a : BitVec 6) : Form :=
  { ctlForm st [sUse a.toNat] with priv := true, dsts := [.s d.toNat] }

/-- PFENCE and PFENCE.REL up to their checks. -/
def pfenceOp (st : BitVec 2) (d a : BitVec 6) (body : Nat → Cx → State → Res) : State → Out :=
  issue (pfenceForm st d a) fun cx s =>
    let w := (readS cx.g.regs a.toNat).toNat
    if bits w 63 4 ≠ 0 then .flt { cls := 0x01, status := 2 }
    else if w ≥ 12 then pfenceEnd d.toNat 3 cx s
    else body w cx s

/-- The port as PFENCE leaves it. -/
def fencePort (now : Nat) (p : Port) : Port :=
  { p with state := .fenced, relock := relocking p, fencedAt := now, drained := false
           changed := p.state = .fenced && p.changed }

/-- PFENCE (R387). -/
def execPfence (st : BitVec 2) (d a : BitVec 6) (s : State) : Out :=
  pfenceOp st d a (fun w cx s =>
    let i := cx.g.ident.island
    let p := portOf s i w
    if !(linkOpen p || p.state = .fenced) then pfenceEnd d.toNat 1 cx s
    else
      let s := modPort s i w (fencePort s.panel.ptime)
      if p.owed = [] then pfenceEnd d.toNat 0 cx (modPort s i w fun p => { p with drained := true })
      else .ok (modGrp s cx.key fun g => modFrag g cx.ix fun f => { f with hold := .pfence w d.toNat })) s

/-- PFENCE.REL (R387). -/
def execPfenceRel (st : BitVec 2) (d a : BitVec 6) (s : State) : Out :=
  pfenceOp st d a (fun w cx s =>
    let i := cx.g.ident.island
    let p := portOf s i w
    if p.state ≠ .fenced && !p.fence then pfenceEnd d.toNat 1 cx s
    else
      let f := fun (p : Port) =>
        if p.fence || p.changed then
          trainEnd s.panel.ptime { p with drained := false, changed := false, relock := false, fence := false }
        else { p with state := .up, drained := false }
      pfenceEnd d.toNat 0 cx (modPort s i w f)) s

/-- PFENCE_DRAIN_END (R387): the requests that left have been answered, or 100 µs have passed. -/
def execPfenceDrainEnd (grp frag : Nat) (s : State) : Out :=
  let g := grpOf s grp
  let f := nth g.frags frag
  match f.hold with
  | .pfence w d =>
    let i := g.ident.island
    let p := portOf s i w
    let finish := fun (v : Nat) (s : State) => modGrp s grp fun g =>
      wake (modFrag { g with regs := writeS g.regs d (BitVec.ofNat 64 v) } frag fun f =>
        { f with hold := .none, pc := pcAdd f.pc 4 })
    if !inMode g f then .next s
    else if p.owed = [] then
      .next (finish 0 (modPort s i w fun p => if p.state = .fenced then { p with drained := true } else p))
    else if s.panel.ptime ≥ p.fencedAt + 100000 then .next (finish 2 s)
    else .next s
  | _ => .next s

/-! ## Switch cells (R384 to R386) -/

/-- The key of a cell: 16 × physical row + column. -/
def cellKey (row col : Nat) : Nat := 16 * row + col

/-- A physical row is worn: a cell of it has reached the threshold (R385). -/
def rowWorn (m : Matrix) (row : Nat) : Bool :=
  m.worn.contains row || (List.range 16).any fun c => tblGet m.wear (cellKey row c) ≥ 99000000

/-- A cell's counter gains a write (R385). -/
def wearCell (k : Nat) (m : Matrix) : Matrix :=
  let m := { m with wear := tblMod m.wear k (· + 1) }
  if tblGet m.wear k ≥ 99000000 && !m.worn.contains (k / 16) then { m with worn := m.worn ++ [k / 16] } else m

/-- The row's set cells copied to a spare row that is not worn, and the logical row remapped (R385). -/
def remapRow (row : Nat) (m : Matrix) : Matrix :=
  match m.spares.filter fun r => !rowWorn m r with
  | [] => m
  | new :: _ =>
    let old := nth m.rowMap row
    let cols := (List.range 16).filter fun c => m.set.contains (cellKey old c)
    let m := cols.foldl (fun m c => wearCell (cellKey new c) { m with set := m.set ++ [cellKey new c] }) m
    { m with rowMap := m.rowMap.zipIdx.map (fun p => if p.2 = row then new else p.1)
             spares := m.spares.filter (· ≠ new)
             set := m.set.filter fun k => k / 16 ≠ old }

/-- A logical row that a write comes to, on a spare row where its own is worn and one is left (R385). -/
def remapWorn (row : Nat) (m : Matrix) : Matrix := if rowWorn m (nth m.rowMap row) then remapRow row m else m

/-! ## Circuits of light (R373, R384) -/

/-- The matrix of a site: of its island, or as its cells stand without power (R384). -/
def matrixAt (s : State) (site : Nat) : Matrix :=
  match s.islands.find? fun p => p.2.site = site with
  | some p => p.2.matrix
  | none => tblGet s.panel.matrices site

/-- The light of a logical row of a site: the cells it passes, by site, logical row and column, and where it leads; n bounds the
rows it passes. -/
def lightPath (m : Nat → Matrix) (glass : Tbl GlassEnd) : Nat → Nat → Nat → List (Nat × Nat × Nat) × Option GlassEnd
  | 0, _, _ => ([], none)
  | n + 1, site, row =>
    match (List.range 16).find? fun c => (m site).set.contains (cellKey (nth (m site).rowMap row) c) with
    | none => ([], none)
    | some c =>
      let here := (site, row, c)
      match tblGet? glass (16 * site + c) with
      | some (.row q r) => let t := lightPath m glass n q r; (here :: t.1, t.2)
      | e => ([here], e)

/-- The light of an express transmitter. -/
def portLight (m : Nat → Matrix) (glass : Tbl GlassEnd) (site port : Nat) : List (Nat × Nat × Nat) × Option GlassEnd :=
  lightPath m glass 1024 site (port - 4)

/-- The far end of an express port's circuit: a port whose own light leads back here, or a fibre bundle (R373, R384). -/
inductive Circled where
  | dark
  | port (site port : Nat)
  | bundle (number : Nat)
deriving DecidableEq, Repr

/-- Where the circuit of a site's express port ends. -/
def circuitEnd (m : Nat → Matrix) (glass : Tbl GlassEnd) (site port : Nat) : Circled :=
  match (portLight m glass site port).2 with
  | some (.port q r) => if (portLight m glass q r).2 = some (.port site port) then .port q r else .dark
  | some (.bundle n) => .bundle n
  | _ => .dark

/-- The island at a site. -/
def islandAt (s : State) (site : Nat) : Option Nat := (s.islands.find? fun p => p.2.site = site).map (·.1)

/-- The port with the far end of its circuit as the cells now stand: one whose light is cut under its fence goes Dark, and one
that was Dark, not fenced and not recorded as failed, starts training (R374, R388). -/
def joinPort (now : Nat) (recorded : Bool) (bundle : Option Nat) (peer : Option (Nat × Nat)) (x : Port) : Port :=
  let edge := bundle.isSome
  if x.peer = peer && x.edge = edge && x.bundle = bundle.getD 0 then x
  else
    let lit := edge || peer.isSome
    let x := { x with peer := peer, edge := edge, bundle := bundle.getD 0, changed := x.changed || x.state = .fenced }
    if x.state = .fenced && !lit then { darkEnd x with fence := true }
    else if x.state = .dark && !x.fence && lit && !recorded then trainEnd now x
    else x

/-- Where the circuit of a site's express port ends as the cells now stand: at a fibre bundle, or at another port of the
panel. -/
def lightEnds (s : State) (site port : Nat) : Option Nat × Option (Nat × Nat) :=
  match circuitEnd (matrixAt s) s.panel.glass site port with
  | .port t r => (none, (islandAt s t).map fun j => (j, r))
  | .bundle n => (some n, none)
  | .dark => (none, none)

/-- Every express port of every island changed, by its site, its number and where its circuit ends. -/
def modExpress (s : State) (f : Nat → Nat → Option Nat × Option (Nat × Nat) → Port → Port) : State :=
  { s with islands := s.islands.map fun p => (p.1, { p.2 with ports := p.2.ports.map fun q =>
      if q.1 < 4 then q else (q.1, f p.2.site q.1 (lightEnds s p.2.site q.1) q.2) }) }

/-- Every express port with the far end its circuit now has. -/
def relight (s : State) : State :=
  modExpress s fun site port e x => joinPort s.panel.ptime (s.panel.store.ports.contains (site, port)) e.1 e.2 x

/-- Light carries the port, whatever the state of its link, and it is not Fenced and drained (R386). -/
def litUndrained (p : Port) : Bool := p.state ≠ .dark && !(p.state = .fenced && p.drained)

/-- Resetting a cell would cut light carrying a port, at either end of its circuit, that is not Fenced and drained (R386). -/
def cutsLight (s : State) (i row col : Nat) : Bool :=
  let cell := ((islOf s i).site, row, col)
  s.islands.any fun p => p.2.ports.any fun q =>
    let t := portLight (matrixAt s) s.panel.glass p.2.site q.1
    4 ≤ q.1 && t.1.contains cell && (litUndrained q.2 ||
      match t.2 with
      | some (.port site r) => (islandAt s site).any fun j => litUndrained (portOf s j r)
      | _ => false)

/-- The cells of a fenced port's circuit, of which a write changes one (R387). -/
def markChanged (s : State) (i row col : Nat) : State :=
  let cell := ((islOf s i).site, row, col)
  let m := matrixAt s
  { s with islands := s.islands.map fun p => (p.1, { p.2 with ports := p.2.ports.map fun q =>
      if 4 ≤ q.1 && q.2.state = .fenced && (portLight m s.panel.glass p.2.site q.1).1.contains cell then
        (q.1, { q.2 with changed := true })
      else q }) }

/-! ## The matrix (R385, R386) -/

/-- XCELL's write begins, or is refused with its STATUS; a write while BUSY waits (R386). -/
def xcellWrite (s : State) (i act row col : Nat) : State :=
  let m := (islOf s i).matrix
  let put := fun (f : Matrix → Matrix) => modIsl s i fun x => { x with matrix := f x.matrix }
  if m.busy then s
  else if act > 1 || row > 15 || col > 15 then put fun m => { m with status := 3 }
  else if act = 1 && m.set.contains (cellKey (nth m.rowMap row) col) && cutsLight s i row col then put fun m => { m with status := 1 }
  else if rowWorn m (nth m.rowMap row) && (m.spares.filter fun r => !rowWorn m r) = [] then put fun m => { m with status := 2 }
  else put fun m => { m with busy := true, act := act, row := row, col := col }

/-- XCELL_SET (R386). -/
def execXcellSet (island row col : Nat) (s : State) : Out := .next (xcellWrite s island 0 row col)

/-- XCELL_RESET (R386). -/
def execXcellReset (island row col : Nat) (s : State) : Out := .next (xcellWrite s island 1 row col)

/-- The matrix after the write under way; one that changes no cell writes none, and leaves WEAR and PROW as they are. -/
def xcellDone (m : Matrix) : Matrix :=
  let m := { remapWorn m.row m with busy := false, status := 0 }
  let r := nth m.rowMap m.row
  let k := cellKey r m.col
  let isSet := m.set.contains k
  let wrote := fun (m : Matrix) => { wearCell k m with lastWear := tblGet (wearCell k m).wear k, lastRow := r }
  if m.act = 0 && !isSet then wrote { m with set := m.set ++ [k] }
  else if m.act = 1 && isSet then wrote { m with set := m.set.filter (· ≠ k) }
  else m

/-- The wear counters that a write has taken across a multiple of 2^20, or all of them at shutdown, go to the field
section (R385). -/
def storeWear (i : Nat) (ws : List (Nat × Nat)) (l : List (Nat × Nat × Nat)) : List (Nat × Nat × Nat) :=
  (l.filter fun w => !(w.1 = i && ws.any fun x => x.1 = w.2.1)) ++ ws.map fun x => (i, x.1, x.2)

/-- Counters that have crossed a multiple of 2^20 between two states of a matrix. -/
def crossed20 (old new : Matrix) : List (Nat × Nat) := new.wear.filter fun w => w.2 / 2 ^ 20 ≠ tblGet old.wear w.1 / 2 ^ 20

/-- XCELL_COMPLETE (R386). -/
def execXcellComplete (island : Nat) (s : State) : Out :=
  let m := (islOf s island).matrix
  if !m.busy then .next s
  else
    let m' := xcellDone m
    let s' := modIsl s island fun x => { x with matrix := m' }
    let s' := { s' with panel := { s'.panel with store := { s'.panel.store with
      wear := storeWear (islOf s island).site (crossed20 m m') s'.panel.store.wear } } }
    if m'.set = m.set then .next (wakeAll s')
    else .next (wakeAll (relight (markChanged (if m.act = 1 then markChanged s' island m.row m.col else s') island m.row m.col)))

/-- ORDERLY_SHUTDOWN (R385). -/
def execOrderlyShutdown (s : State) : Out :=
  .next (s.islands.foldl (fun s p =>
    { s with panel := { s.panel with store := { s.panel.store with
      wear := storeWear p.2.site p.2.matrix.wear s.panel.store.wear } } }) s)

/-! ## Route maps and replacement routes (R380, R381) -/

/-- The cell with VALID = 0. -/
def invalidCell (w : DWord) : DWord := w &&& ~~~(1#64 <<< 63)

/-- ROUTE_MAP_INVALIDATE (R17, R380): the cells for a quarantined island. -/
def execRouteMapInvalidate (island : Nat) (s : State) : Out :=
  if quarantined s island then
    .next { s with islands := s.islands.map fun p =>
      if p.1 = island then p else (p.1, { p.2 with cells := tblAdj p.2.cells island invalidCell }) }
  else .next s

/-- Entries that some cell names. -/
def named (s : State) (r : Nat) : Bool :=
  s.islands.any fun p => p.2.cells.any fun c => cellPri c.2.toNat = r || cellAlt c.2.toNat = r

/-- A pool entry may take a replacement: of the pool, and returned to it (R379, R381). -/
def poolFree (s : State) (r : Nat) : Bool :=
  8192 ≤ r && r < 16384 && !carries (routeOf s r) && !named s r && !(s.panel.unnamed.any fun u => u.1 = r)

/-- The cell with an entry and its classes of atomics in one half; a cell that is not in use takes them in both (R380). -/
def cellWith (w entry cap : Nat) (alt : Bool) : Nat :=
  let w1 := putBits (putBits w 31 16 entry) 38 36 cap
  let w0 := fun (w : Nat) => putBits (putBits w 15 0 entry) 34 32 cap
  if !cellValid w then w0 w1 % 2 ^ 63 + 2 ^ 63 else if alt then w1 else w0 w

/-- REPLACEMENT_ROUTE (R379 to R381): a route in a free pool entry, and then the cell of `src` for `dst` renamed, its primary or
its alternate half. For an island of the panel it is the topology master's, and its hops are those that R379 gives over the mesh
links that are Up now. For panel `dst` − 64 it is the write of a panel cell by the control dies' firmware, whose hops are its own
(log 46). -/
def execReplacementRoute (src dst entry : Nat) (hops : List Nat) (alt : Bool) (s : State) : Out :=
  let r : Route := { k := hops.length, hops := hops }
  let cell := tblGet (islOf s src).cells dst
  let w := cell.toNat
  let masters := hops = replacementHops s src dst alt && src ≠ dst && !quarantined s dst && cellValid w
  let firmwares := dst < 64 + 1024 && dst ≠ 64 + s.panel.number && (tblGet? s.islands src).isSome
  let fits := carries r && poolFree s entry && (if dst < 64 then masters else firmwares)
  if !fits then .next s
  else
    let old := if alt then cellAlt w else cellPri w
    let w' := cellWith w entry (hopsCap s src hops) alt
    let s := { s with panel := { s.panel with routes := tblSet s.panel.routes entry r } }
    let s := modIsl s src fun x => { x with cells := tblSet x.cells dst (BitVec.ofNat 64 w') }
    let gone := 8192 ≤ old && old < 16384 && !named s old
    .next (if gone then { s with panel := { s.panel with unnamed := s.panel.unnamed ++ [(old, s.panel.ptime)] } } else s)

/-- A packet in flight, in a router or a port, names the entry (R381). -/
def entryInFlight (s : State) (r : Nat) : Bool :=
  (s.panel.routed.any fun x => x.2.route = r)
    || s.islands.any fun p => p.2.ports.any fun q => (bufferedPackets q.2).any fun k => k.route = r

/-- ROUTE_ENTRY_REUSE (R381): an entry that no cell has named for 100 µs, and no packet in flight names, returns to the pool. -/
def execRouteEntryReuse (entry : Nat) (s : State) : Out :=
  let due := s.panel.unnamed.any fun u => u.1 = entry && u.2 + 100000 ≤ s.panel.ptime
  if due && !named s entry && !entryInFlight s entry then
    .next { s with panel := { s.panel with
      unnamed := s.panel.unnamed.filter fun u => u.1 ≠ entry
      routes := tblDel s.panel.routes entry } }
  else .next s

/-! ## Host ports (R288, R294, R331, R392 to R395) -/

/-- HPCTL_WRITE (R395): control-die firmware clears FROZEN. -/
def execHpctlWrite (port : Nat) (s : State) : Out :=
  .next { s with panel := { s.panel with frozen := s.panel.frozen.filter (· ≠ port) } }

/-- HOST_PORT_LINK_CHANGE (R393), of one of the four host ports (R392). -/
def execHostPortLinkChange (port : Nat) (up : Bool) (s : State) : Out :=
  .next <| if port ≥ 4 then s else { s with panel := { s.panel with
    down := if up then s.panel.down.filter (· ≠ port)
      else if s.panel.down.contains port then s.panel.down else s.panel.down ++ [port] } }

/-- A request of a frozen host port completes with an error, and is counted (R331, R423). -/
def refuseHost (s : State) (i : Nat) : State :=
  countRefusal { s with panel := { s.panel with refused := s.panel.refused + 1 } } i

/-- A device memory address of the HDM range: island and HBM address (R393). -/
def deviceAddr (s : State) (off : Nat) : Option (Nat × Nat) :=
  if off / 2 ^ 39 < s.panel.ncount && off % 2 ^ 39 < hbmEnd && s.panel.phase = 7 then some (off / 2 ^ 39, off % 2 ^ 39) else none

/-- The active control die reaches an island by the routes of its topology table (R392): every numbered one that is not
quarantined, which alone has been dropped from every route (R17). At which islands host traffic enters the mesh no rule gives, so
no one entry of the table is asked for (log 41). -/
def hostReaches (s : State) (i : Nat) : Bool := i < s.panel.ncount && !quarantined s i

/-- HOST_CXL_MEM_ACCESS (R393): a host read, or write of bytes, through one of the four host ports at an offset of the device
memory range; the control die takes it to the island (R392), where it is served from whatever VC holds the line. -/
def execHostCxlMemAccess (port off : Nat) (write : Option (List Byte)) (s : State) : Out :=
  let i := off / 2 ^ 39
  if port ≥ 4 || s.panel.down.contains port || !hostReaches s i then .next s
  else if s.panel.frozen.contains port then .next (refuseHost s i)
  else
    match deviceAddr s off, write with
    | none, _ => .next s
    | some _, none => .next s
    | some (i, a), some bs =>
      if a + bs.length > hbmEnd then .next s
      else
        let s := hostTouch (clearMarks (physPut s i a bs) i (wholeQuarters a bs.length)) (spotsFrom (physSpot i a) bs.length)
        let secs := (List.range ((a + bs.length + 63) / 64 - a / 64)).map fun j => a / 64 + j
        .next (modMem s i fun m => secs.foldl (fun m sec => { m with
          home := tblAdj m.home sec fun h => { h with shr := [], si := [], ownl := none } }) m)

/-- HOST_BACK_INVALIDATION (R288, R294): one device sector becomes host-shared or host-owned. -/
def execHostBackInvalidation (island sector : Nat) (owned : Bool) (s : State) : Out :=
  .next (modMem s island fun m => { m with home := tblMod m.home sector fun h =>
    if owned then { h with hst := .owned, ownl := none, shr := [], si := [] }
    else { h with hst := .shared, ownl := none } })

/-- The host's store to its own memory, within one sector that it holds (R293, R312). -/
def hostStore (s : State) (p : Nat) (bs : List Byte) : State :=
  if !(isHost p && physOk p bs.length && p % 64 + bs.length ≤ 64) then s
  else hostTouch (clearMarks (physPut s 0 p bs) 0 (wholeQuarters p bs.length)) (spotsFrom (physSpot 0 p) bs.length)

/-- HOST_CXL_CACHE_SNOOP (R293, R294): the host's snoop of one cached sector of host memory, to share it, or to take it and
store bytes at an offset of it. -/
def execHostCxlCacheSnoop (island sector : Nat) (take : Option (Nat × List Byte)) (s : State) : Out :=
  let s := modMem s island fun m => { m with home := tblAdj m.home sector fun h =>
    if take.isSome then { h with cxl := .invalid, shr := [], si := [], ownl := none }
    else { h with cxl := if h.cxl = .invalid then .invalid else .shared, ownl := none } }
  match take with
  | some w => .next (hostStore s (64 * sector + w.1 % 64) w.2)
  | none => .next s

end Sys2Proof.Machine
end

