-- ==== Sys2Proof/Machine/Remote.lean ====
section
/-! DEFINITION. PUT, GET, RATOM, NOTIFY and RFENCE: their block, their checks at issue, their packets, what the home does,
acknowledgement and failure (R396 to R406, R410). -/

namespace Sys2Proof.Machine

open Sys2Proof

/-! ## The operation block (R396) -/

/-- The four words of a block. -/
structure Block where
  fa : DWord := 0
  loc : DWord := 0
  w2 : DWord := 0
  w3 : DWord := 0
deriving DecidableEq, Repr, Inhabited

/-- The block in S[b] to S[b + 3]. -/
def blockOf (g : Regs) (b : Nat) : Block :=
  { fa := readS g b, loc := readS g (b + 1), w2 := readS g (b + 2), w3 := readS g (b + 3) }

def Block.isl (k : Block) : Nat := bits k.fa.toNat 63 58
def Block.va (k : Block) : Nat := bits k.fa.toNat 56 0
def Block.px (k : Block) : Bool := bit k.w2.toNat 42
def Block.len (k : Block) : Nat := bits k.w2.toNat 31 0
def Block.lne (k : Block) : Bool := bit k.w3.toNat 48
def Block.lctr (k : Block) : Nat := bits k.w3.toNat 47 32
def Block.rne (k : Block) : Bool := bit k.w3.toNat 16
def Block.rctr (k : Block) : Nat := bits k.w3.toNat 15 0

/-- The destination panel. -/
def Block.panel (k : Block) (own : Nat) : Nat := if k.px then bits k.w2.toNat 41 32 else own

/-- PUT and GET, which name a local range. -/
def copies (k : RemoteKind) : Bool := k = .put || k = .get

/-- A reserved bit of the block is set. -/
def blockReserved (kind : RemoteKind) (k : Block) : Bool :=
  bits k.w2.toNat 63 43 ≠ 0 || bits k.w3.toNat 63 49 ≠ 0 || bits k.w3.toNat 31 17 ≠ 0
    || (kind = .notify && k.va ≠ 0) || (!copies kind && k.len ≠ 0)

/-- The number of an operation in TCAUSE (R404). -/
def kindCode : RemoteKind → Nat
  | .put => 0 | .get => 1 | .ratom => 2 | .notify => 3

/-- INFO of REMOTE: ISL, panel, operation (R404). -/
def remoteInfo (kind : RemoteKind) (isl panel : Nat) : Word :=
  BitVec.ofNat 32 (isl % 64 + panel % 1024 * 2 ^ 6 + kindCode kind * 2 ^ 16)

/-- REMOTE with a status. -/
def remoteCause (kind : RemoteKind) (isl panel st : Nat) : Cause :=
  { cls := 0x16, status := BitVec.ofNat 8 st, info := remoteInfo kind isl panel }

/-- The bit of the class of an AOP in CAPP and CAPA (R380, R401). -/
def atomClass (aop : Nat) : Nat := if aop = 14 then 1 else if aop ≥ 11 then 2 else 0

/-- Bytes of a RATOM. -/
def ratomBytes (small : Bool) : Nat := if small then 4 else 8

/-- ATOMROUTE of a RATOM, if it takes it (R401). -/
def atomRoute (s : State) (i panel isl aop : Nat) : Option Cause :=
  let w := cellOf s i panel isl
  let c := atomClass aop
  let at_ := fun (r : Nat) => some ({ cls := 0x15, info := BitVec.ofNat 32 (r % 2 ^ 16) } : Cause)
  if panel = s.panel.number && isl = i then none
  else
    match chooseRoute s i panel isl with
    | .route r cap => if bit cap c then none else at_ r
    | _ => if bit (cellCapp w) c || bit (cellCapa w) c then none else at_ (cellPri w)

/-- Items 2 to 7 of R400. -/
def remoteFault (s : State) (cx : Cx) (kind : RemoteKind) (k : Block) (aop : Nat) (small : Bool) : Option Cause :=
  let i := cx.g.ident.island
  let own := s.panel.number
  let p := k.panel own
  if blockReserved kind k then some { cls := 0x01, status := 2 }
  else if bit k.fa.toNat 57 || (p = own && k.isl ≥ s.panel.ncount) then some (remoteCause kind k.isl p 1)
  else if (p = own && quarantined s k.isl) || (p ≠ own && !cellValid (cellOf s i p k.isl)) then
    some (remoteCause kind k.isl p 2)
  else if kind = .ratom && k.va % ratomBytes small ≠ 0 then some { cls := 0x08, status := 1 }
  else
    match if kind = .ratom then atomRoute s i p k.isl aop else none with
    | some c => some c
    | none =>
      if copies kind && bits k.loc.toNat 63 57 ≠ 0 then some { cls := 0x11, status := 1 }
      else if k.lne && !ctrOwned s i cx.g.ident.ctx k.lctr then some { cls := 0x11 }
      else none

/-! ## Packets (R398, R403) -/

/-- The most bytes of a part (R403). -/
def partBytes : Nat := 4096

/-- A local range cut where pages may change: at 64 KiB of virtual address; the fuel bounds the pieces. -/
def cutUnits : Nat → Nat → Nat → Nat → List RawPiece
  | 0, _, _, _ => []
  | n + 1, va, off, len =>
    if len = 0 then []
    else
      let k := min len (65536 - va % 65536)
      { gaddr := va, taddr := off, bits := 8 * k } :: cutUnits n (va + k) (off + k) (len - k)

/-- The pieces of a local range. -/
def localPieces (va len : Nat) : List RawPiece := cutUnits (len / 65536 + 2) va 0 len

/-- The physical spans of bytes off to off + n of a local range: address, VC, offset, bytes, entry whose D a write sets. -/
def rangeSpans (ps : List EnginePiece) (off n : Nat) : List (Nat × Nat × Nat × Nat × Option DirtyRef) :=
  ps.filterMap fun p =>
    let lo := max off p.taddr
    let hi := min (off + n) (p.taddr + p.bits / 8)
    match p.phys with
    | some a => if lo < hi then some (a + (lo - p.taddr), p.vn, lo - off, hi - lo, p.dirtyAt) else none
    | none => none

/-- The sectors of a physical span read or written through its VC. -/
def touchSpan (i vn a n : Nat) (wr : Bool) (s : State) : State :=
  if n = 0 then s
  else
    modMem s i fun m => (List.range ((a + n - 1) / 64 - a / 64 + 1)).foldl (fun m j =>
      let sec := a / 64 + j
      if wr then cacheAccess m vn 0 1024 sec 0 .store else vcTouch m vn 0 sec false) m

/-- The bytes of a physical span, a poisoned one read as zero, and the offsets of those (R227, R311). -/
def readSpan (s : State) (i a off n : Nat) : List Byte × List Nat :=
  let bad := (List.range n).filter fun j => marked s i (a + j)
  let bs := physBytes s i a n
  (if bad = [] then bs else bs.zipIdx.map fun p => if bad.contains p.2 then 0 else p.1, bad.map fun j => off + j)

/-- Bytes written at a physical span, with the marks that travelled with them (R240, R311). -/
def landSpan (i : Nat) (a off : Nat) (bs : List Byte) (marks : List Nat) (dirtyAt : Option DirtyRef) (s : State) :
    State :=
  let s := setDirty s i a dirtyAt
  let s := physPut s i a bs
  let here := (marks.filter fun j => off ≤ j && j < off + bs.length).map fun j => (a + (j - off)) / 16
  if here = [] then s else setMarks s i here.eraseDups

/-- The data of a part of a PUT: the state, the bytes, the offsets of poisoned ones. -/
def partData (s : State) (i : Nat) (o : RemoteOp) (off n : Nat) : State × List Byte × List Nat :=
  (rangeSpans o.pieces off n).foldl (fun acc x =>
    let r := readSpan acc.1 i x.1 x.2.2.1 x.2.2.2.1
    (touchSpan i x.2.1 x.1 x.2.2.2.1 false acc.1, acc.2.1 ++ r.1, acc.2.2 ++ r.2)) (s, [], [])

/-- How far the side that is written, LOC of a GET and FA else, stands past a 16-byte boundary. -/
def partSkew (o : RemoteOp) : Nat := (if o.kind = .get then o.loc.toNat else o.va) % 16

/-- The number of the part that begins at an offset: cuts fall on 16-byte boundaries of the side that is written, so that no
part divides a 16-byte piece aligned there (R398; log 33). -/
def partNumber (o : RemoteOp) (off : Nat) : Nat := (off + partSkew o) / partBytes

/-- The packet of a part. -/
def partPacket (own i n : Nat) (o : RemoteOp) (p : RemotePart) (data : List Byte) (marks : List Nat) : RemotePacket :=
  { dpanel := o.panel, disl := o.isl, spanel := own, sisl := i, op := n, part := partNumber o p.off, kind := o.kind
    rseq := p.rseq, ctx := o.ctx, va := o.va + p.off, len := p.len, rne := o.rne && o.kind ≠ .notify, rctr := o.rctr
    final := p.final, aop := o.aop, small := o.small, val := o.loc, expect := o.expect, data := data, marks := marks }

/-- What a send attempt comes to (R381, R401). -/
inductive Sent where
  | gone (s : State)
  | waits
  | fails (status : Nat)

/-- A send attempt from island i: to itself without a route (R24), else by the route R381 chooses now. -/
def emit (s : State) (i : Nat) (p : RemotePacket) : Sent :=
  if p.dpanel = s.panel.number && p.disl = i then .gone (deliverPacket s i p)
  else
    match chooseRoute s i p.dpanel p.disl with
    | .route r cap =>
      if p.kind = .ratom && !p.reply && !bit cap (atomClass p.aop) then .fails 0x17
      else .gone (route s i { p with route := r, hop := 0 })
    | .waits => .waits
    | .never => .fails 0x18

/-! ## Acknowledgement and failure (R399, R402, R404) -/

/-- The group that issued an operation, where it is still there. -/
def issuerOf (s : State) (o : RemoteOp) : Option Group := (tblGet? s.groups o.grp).filter fun g => g.age = o.age

/-- The operation's locks and pins released, its record gone (R399, step 1). -/
def releaseRemote (s : State) (i n : Nat) (o : RemoteOp) : State :=
  let s := modIsl s i fun x => { x with remotes := tblDel x.remotes n }
  let s := modMem s i fun m => { m with locks := m.locks.filter fun k => k.op ≠ n }
  unpin s i o.pins

/-- The group's end of an operation: S[d] written, a fault held, the operation complete (R399, step 2). -/
def endRemote (s : State) (n : Nat) (o : RemoteOp) (val : DWord) (poison : Bool) (fault : Option Cause) : State :=
  match issuerOf s o with
  | none => s
  | some g =>
    let g := match fault with
      | some c => holdEntry g { cause := causeWord c false, pc := o.pc, remote := true }
      | none => g
    setGrp s o.grp (wake { g with
      ops := g.ops.filter fun x => x.id ≠ n
      regs := applyWrite g.regs { elem := .s o.d, val := val, bad := poison } })

/-- The status word of a failed operation (R399). -/
def failWord (status cls : Nat) : DWord := BitVec.ofNat 64 (2 ^ 63 + status * 2 ^ 8 + cls)

/-- An operation fails (R399). -/
def failRemote (s : State) (i n st : Nat) : State :=
  match tblGet? (islOf s i).remotes n with
  | none => s
  | some o =>
    let s := releaseRemote s i n o
    let rat := o.kind = .ratom
    wakeAll (endRemote s n o (if rat then 0 else failWord st 0x16) rat (some (remoteCause o.kind o.isl o.panel st)))

/-- An operation is acknowledged (R399). -/
def ackRemote (s : State) (i n : Nat) (o : RemoteOp) : State :=
  let s := sampleCtx s i 4 o.ctx (s.panel.ptime - o.since.getD s.panel.ptime)
  let s := releaseRemote s i n o
  let uncorr : Cause := { cls := 0x1C, status := 1 }
  let s := match o.kind with
    | .ratom => endRemote s n o (if o.bad then 0 else o.old) o.bad none
    | _ => if o.bad then endRemote s n o (failWord 1 0x1C) false (some uncorr) else endRemote s n o 0 false none
  wakeAll (if o.lne then ctrAdd s i o.lctr 1 else s)

/-! ## Sending (R402, R403) -/

def modRemote (s : State) (i n : Nat) (f : RemoteOp → RemoteOp) : State :=
  modIsl s i fun x => { x with remotes := tblAdj x.remotes n f }

/-- The part at an offset changed. -/
def modPart (off : Nat) (f : RemotePart → RemotePart) (o : RemoteOp) : RemoteOp :=
  { o with parts := o.parts.map fun p => if p.off = off then f p else p }

/-- What a send attempt of a part comes to; a PUT reads its data now, and waits where no host port reaches them (R393). -/
def emitPart (s : State) (i n : Nat) (o : RemoteOp) (p : RemotePart) (d : State × List Byte × List Nat) : Sent :=
  if o.kind = .put && !piecesReach s o.pieces then .waits
  else emit d.1 i (partPacket s.panel.number i n o p d.2.1 d.2.2)

/-- One send attempt of a part. -/
def sendPart (s : State) (i n : Nat) (p : RemotePart) : State :=
  match tblGet? (islOf s i).remotes n with
  | none => s
  | some o =>
    let d := if o.kind = .put then partData s i o p.off p.len else (s, [], [])
    let now := s.panel.ptime
    match emitPart s i n o p d with
    | .gone s =>
      modRemote s i n fun o =>
        modPart p.off (fun q => { q with waiting := false, sends := q.sends + 1, lastSend := now })
          { o with since := some (o.since.getD now), bad := o.bad || d.2.2 ≠ [] }
    | .waits => modRemote s i n (modPart p.off fun q => { q with waiting := true, lastSend := now })
    | .fails st => failRemote s i n st

/-- Packets of PUT, RATOM and NOTIFY unacknowledged towards a destination (R403). -/
def inFlight (s : State) (i panel isl : Nat) : Nat :=
  ((islOf s i).remotes.map fun p =>
    if p.2.kind ≠ .get && p.2.panel = panel && p.2.isl = isl then p.2.parts.length else 0).foldl (· + ·) 0

/-- A sequence number is to be had for a part of the kind. -/
def windowOpen (s : State) (i : Nat) (o : RemoteOp) : Bool :=
  if o.kind = .get then o.parts.length < 1024 else inFlight s i o.panel o.isl < 1024

/-- The key of a destination in the sequence numbers. -/
def destKey (panel isl : Nat) : Nat := 64 * panel + isl

/-- The next part of the operation: up to the next cut, or what is left. -/
def nextPart (s : State) (i : Nat) (o : RemoteOp) : RemotePart :=
  let n := min (partBytes - (o.next + partSkew o) % partBytes) (o.len - o.next)
  { rseq := if o.kind = .get then 0 else tblGet (islOf s i).rseq (destKey o.panel o.isl)
    off := o.next, len := n, final := o.next + n = o.len }

/-- One new part sent, where the window is open; the last only when every other is acknowledged, so that its RNE
increment follows every access (R398). -/
def sendNext (s : State) (i n : Nat) : Option State :=
  match tblGet? (islOf s i).remotes n with
  | none => none
  | some o =>
    let p := nextPart s i o
    if !o.todo || !windowOpen s i o || (p.final && o.parts ≠ []) then none
    else
      let s := modIsl s i fun x =>
        if o.kind = .get then x else { x with rseq := tblMod x.rseq (destKey o.panel o.isl) fun r => (r + 1) % 2 ^ 32 }
      let s := modRemote s i n fun o => { o with parts := o.parts ++ [p], next := o.next + p.len, todo := !p.final }
      some (sendPart s i n p)

/-- New parts sent while they may; the fuel bounds them. -/
def pump : Nat → State → Nat → Nat → State
  | 0, s, _, _ => s
  | k + 1, s, i, n =>
    match sendNext s i n with
    | some s => pump k s i n
    | none => s

/-- Every operation of the island sends what it now may. -/
def pumpAll (s : State) (i : Nat) : State :=
  ((islOf s i).remotes.map (·.1)).foldl (fun s n => pump 1024 s i n) s

/-! ## Issue (R397 to R401) -/

/-- The checks of the local range: steps 3 to 5 and 7 of R298; a PUT source and a GET landing meet no race check (R283). -/
def checkLocal (s : State) (cx : Cx) (wr : Bool) (loc len : Nat) (ps : List RawPiece) : Checked :=
  match checkEngine s cx (if wr then .write else .read) wr (pieceReqs ps) with
  | .go s hs ms =>
    match if len = 0 then none else firstLock (islOf s cx.g.ident.island).mem false cx.g.ident.ctx len wr [(none, loc)] with
    | some c => .fault s c
    | none => .go s hs ms
  | r => r

/-- The range lock of PUT or GET (R230, R398). -/
def remoteLocks (kind : RemoteKind) (ctx loc len : Nat) : List RangeLock :=
  if len = 0 then []
  else
    match kind with
    | .put => [{ engine := .put, owner := ctx, lo := loc, hi := loc + len - 1, dest := false }]
    | .get => [{ engine := .get, owner := ctx, lo := loc, hi := loc + len - 1, dest := true }]
    | _ => []

/-- The operation issued: locks, pins, its record, S[d] pending, its first packets sent. -/
def startRemote (s : State) (cx : Cx) (o : RemoteOp) (locks : List RangeLock) (pins : List (Nat × Nat × Nat)) : State :=
  let id := cx.g.ident
  let n := s.seq
  let s := takeLocks (pinAll s id.island id.ctx pins) cx n locks
  let s := modIsl s id.island fun x => { x with remotes := tblSet x.remotes n { o with pins := pins.map (·.1) } }
  let s := panelRelease s cx.key (fullMask (lanesIn cx.g))
  let ws : List RegWrite := if o.d = 63 then [] else [{ elem := .s o.d, val := 0 }]
  let s := addOp s cx.key { id := n, cls := .remote, mask := cx.f.mask, pc := cx.f.pc, writes := ws, payload := .remote n }
  pump 1024 (modGrp s cx.key (advance 4 cx.ix)) id.island n

/-- The body of a remote operation. -/
def remoteBody (kind : RemoteKind) (d blk e aop : Nat) (small : Bool) (cx : Cx) (s : State) : Res :=
  let id := cx.g.ident
  let k := blockOf cx.g.regs (4 * blk)
  match remoteFault s cx kind k aop small with
  | some c => .flt c
  | none =>
    let wr := kind = .get
    let len := if copies kind then k.len else 0
    let ps := localPieces k.loc.toNat len
    let locks := remoteLocks kind id.ctx k.loc.toNat len
    match checkLocal s cx wr k.loc.toNat len ps with
    | .fault s c => .fltAt s c
    | .wait s => .waitAt s
    | .go s hs ms =>
      let o : RemoteOp :=
        { kind := kind, grp := cx.key, age := cx.g.age, pc := cx.f.pc, ctx := id.ctx, panel := k.panel s.panel.number
          isl := k.isl, va := k.va, loc := k.loc, len := len, rne := k.rne, rctr := k.rctr, lne := k.lne
          lctr := k.lctr, aop := aop, small := small, d := d
          expect := if kind = .ratom && aop = 14 then readS cx.g.regs e else 0
          pieces := enginePieces hs ps }
      if ms ≠ [] then .out (park s cx .uniform (if wr then .write else .read) 4 ms)
      else
        let pins := pinPages hs
        if (cx.g.ops.filter fun x => x.cls = .remote).length ≥ 255 || !windowOpen s id.island o
            || !pinsFit (islOf s id.island).mem pins then
          .waitAt s
        else if !locksGranted s cx locks.length then .waitAt (askLocks s cx)
        else .ok (startRemote s cx o locks pins)

/-- The form of a remote operation. -/
def remoteForm (st : BitVec 2) (d : BitVec 6) (b : BitVec 4) (more : List UniUse) : Form :=
  { ctlForm st (((List.range 4).map fun j => sUse (4 * b.toNat + j)) ++ more) with dsts := [.s d.toNat] }

/-- PUT (R398). -/
def execPut (st : BitVec 2) (d : BitVec 6) (b : BitVec 4) (s : State) : Out :=
  issue (remoteForm st d b []) (remoteBody .put d.toNat b.toNat 0 0 false) s

/-- GET (R398). -/
def execGet (st : BitVec 2) (d : BitVec 6) (b : BitVec 4) (s : State) : Out :=
  issue (remoteForm st d b []) (remoteBody .get d.toNat b.toNat 0 0 false) s

/-- RATOM (R398, R401). -/
def execRatom (st : BitVec 2) (d : BitVec 6) (b : BitVec 4) (e : BitVec 6) (o : BitVec 4) (z : BitVec 1) (s : State) : Out :=
  issue (remoteForm st d b (if o = 14 then [sUse e.toNat] else []))
    (remoteBody .ratom d.toNat b.toNat e.toNat o.toNat (z = 1)) s

/-- NOTIFY (R398). -/
def execNotify (st : BitVec 2) (d : BitVec 6) (b : BitVec 4) (s : State) : Out :=
  issue (remoteForm st d b []) (remoteBody .notify d.toNat b.toNat 0 0 false) s

/-! ## At the home (R398, R403, R404) -/

/-- What one address comes to at the home. -/
inductive HomeAt where
  | ok (l : Loc) (vn : Nat)
  | fails (status : Nat)
  | waits
deriving DecidableEq, Repr

/-- The context's translation and VC on the destination island; faults there never park (R404). -/
def homeAt (s : State) (i c va : Nat) (acc : Acc) : State × HomeAt :=
  if va ≥ 2 ^ 57 then (s, .fails 0x12)
  else
    let t := translate s i c (ctxOf s i c).priv va acc 0
    match t.2 with
    | .prot _ => (t.1, .fails 0x12)
    | .page st _ _ => (t.1, .fails (if st = 2 then 0x13 else 0x11))
    | .ok l =>
      let e := vctEntry t.1 i c l.vcx 0
      match hostAns e.1 l.phys (vcCheck (islOf e.1 i).mem c e.2 acc.writes) with
      | .fault .. => (e.1, .fails 0x14)
      | .waits => (e.1, .waits)
      | .ok vn => (e.1, .ok l vn)

/-- What performing a packet comes to: a reply's status, data, poisoned offsets, old value and its mark. -/
inductive HomeDo where
  | done (status : Nat) (data : List Byte) (marks : List Nat) (old : DWord) (bad : Bool)
  | waits

/-- The bytes of a PUT written span by span, up to the first that fails or waits. -/
def homePut (i c : Nat) (marks : List Nat) : State → Nat → List (Nat × Nat) → List Byte → State × HomeDo
  | s, _, [], _ => (s, .done 0 [] [] 0 false)
  | s, off, sp :: t, bs =>
    let r := homeAt s i c sp.1 .write
    match r.2 with
    | .fails st => (r.1, .done st [] [] 0 false)
    | .waits => (r.1, .waits)
    | .ok l vn =>
      let s := touchSpan i vn l.phys sp.2 true (landSpan i l.phys off (bs.take sp.2) marks l.dirtyAt r.1)
      homePut i c marks s (off + sp.2) t (bs.drop sp.2)

/-- The bytes a GET reads, span by span. -/
def homeGet (i c : Nat) : State → Nat → List (Nat × Nat) → State × HomeDo
  | s, _, [] => (s, .done 0 [] [] 0 false)
  | s, off, sp :: t =>
    let r := homeAt s i c sp.1 .read
    match r.2 with
    | .fails st => (r.1, .done st [] [] 0 false)
    | .waits => (r.1, .waits)
    | .ok l vn =>
      let x := readSpan r.1 i l.phys off sp.2
      let y := homeGet i c (touchSpan i vn l.phys sp.2 false r.1) (off + sp.2) t
      match y.2 with
      | .done 0 bs ms _ _ => (y.1, .done 0 (x.1 ++ bs) (x.2 ++ ms) 0 false)
      | z => (y.1, z)

/-- A RATOM at its home (R398). -/
def homeRatom (s : State) (i : Nat) (p : RemotePacket) : State × HomeDo :=
  let r := homeAt s i p.ctx p.va .atomic
  match r.2 with
  | .fails st => (r.1, .done st [] [] 0 false)
  | .waits => (r.1, .waits)
  | .ok l vn =>
    if marked r.1 i l.phys then (r.1, .done 0 [] [] 0 true)
    else
      let n := ratomBytes p.small
      let old := physNat r.1 i l.phys n
      let v := p.val.toNat % 2 ^ (8 * n)
      let act : AtomAct := if p.aop = 14 then .cas v (p.expect.toNat % 2 ^ (8 * n)) else .op p.aop v
      let s := match atomNew act n old with
        | some x => physPut (setDirty r.1 i l.phys l.dirtyAt) i l.phys (leBytes x n)
        | none => r.1
      (modMem s i fun m => cacheAccess m vn 0 1024 (l.phys / 64) 0 .atomic,
        .done 0 [] [] (BitVec.ofNat 64 old) false)

/-- The record of a packet's performance; the RNE increment of a GET is recorded under its operation's number, apart from the
RSEQs (log 33). -/
def recordOf (p : RemotePacket) : Performed :=
  { panel := p.spanel, isl := p.sisl, rseq := if p.kind = .get then 2 ^ 32 + p.op else p.rseq }

/-- The packet's record among those the home keeps. -/
def foundRecord (s : State) (i : Nat) (p : RemotePacket) : Option Performed :=
  let r := recordOf p
  (islOf s i).performed.find? fun q => q.panel = r.panel && q.isl = r.isl && q.rseq = r.rseq

/-- Two records that are counted together: of one source, and both of RSEQs or both of GETs. -/
def recordsAlike (q r : Performed) : Bool :=
  q.panel = r.panel && q.isl = r.isl && (decide (q.rseq < 2 ^ 32) == decide (r.rseq < 2 ^ 32))

/-- The records, newest first, with at most n of those alike to r. -/
def keepNewest (r : Performed) : Nat → List Performed → List Performed
  | _, [] => []
  | n, q :: t =>
    if recordsAlike q r then
      match n with
      | 0 => keepNewest r 0 t
      | n + 1 => q :: keepNewest r n t
    else q :: keepNewest r n t

/-- A packet recorded as performed (R403). -/
def addRecord (s : State) (i : Nat) (r : Performed) : State :=
  modIsl s i fun x => { x with performed := r :: keepNewest r 1023 x.performed }

/-- The accesses of a packet. -/
def homeAccess (s : State) (i : Nat) (p : RemotePacket) : State × HomeDo :=
  match p.kind with
  | .put => homePut i p.ctx p.marks s 0 (spansOf p.va p.data.length) p.data
  | .get => homeGet i p.ctx s 0 (spansOf p.va p.len)
  | .ratom => homeRatom s i p
  | .notify => (ctrAdd s i p.rctr p.val, .done 0 [] [] 0 false)

/-- The RNE increment of the last part, once (R398, R403). -/
def homeNotify (s : State) (i : Nat) (p : RemotePacket) : State :=
  if p.rne && p.final && !(p.kind = .get && (foundRecord s i p).isSome) then ctrAdd s i p.rctr 1 else s

/-- The packet's performance recorded: a GET's only with its RNE increment, and once. -/
def homeRecord (s : State) (i : Nat) (p : RemotePacket) (old : DWord) (bad : Bool) : State :=
  if p.kind = .get && (!(p.rne && p.final) || (foundRecord s i p).isSome) then s
  else addRecord s i { recordOf p with old := old, bad := bad }

/-- A packet at its home: performed, or answered again (R403, R404); one that must wait leaves nothing done. -/
def perform (s : State) (i : Nat) (p : RemotePacket) : State × HomeDo :=
  let x := (ctxOf s i p.ctx).state
  match if p.kind = .get then none else foundRecord s i p with
  | some q => (s, .done 0 [] [] q.old q.bad)
  | none =>
    if x = .built || x = .terminated then (s, .done 0x10 [] [] 0 false)
    else if (p.rne || p.kind = .notify) && !ctrOwned s i p.ctx p.rctr then (s, .done 0x15 [] [] 0 false)
    else
      let r := homeAccess s i p
      match r.2 with
      | .done 0 bs ms old bad =>
        (homeRecord (noteTraffic (homeNotify r.1 i p) i p.ctx) i p old bad, .done 0 bs ms old bad)
      | .done st bs ms old bad => (noteTraffic r.1 i p.ctx, .done st bs ms old bad)
      | .waits => (s, .waits)

/-- The acknowledgement or response of a packet. -/
def replyOf (own i : Nat) (p : RemotePacket) (st : Nat) (bs : List Byte) (ms : List Nat) (old : DWord) (bad : Bool) :
    RemotePacket :=
  { dpanel := p.spanel, disl := p.sisl, spanel := own, sisl := i, reply := true, op := p.op, part := p.part, kind := p.kind
    rseq := p.rseq, ctx := p.ctx, len := p.len, final := p.final, val := old, data := bs, marks := ms, status := st
    bad := bad }

/-- A packet leaves the island's inbox. -/
def takeInbox (s : State) (i : Nat) (p : RemotePacket) : State :=
  modIsl s i fun x => { x with inbox := dropFirst p x.inbox }

/-- REMOTE_PACKET_AT_HOME (R403, R404): the oldest request delivered; one that waits for its VC goes behind the others. A
reply that finds no qualifying route is lost, and the requester's time-out follows. -/
def execRemotePacketAtHome (island : Nat) (s : State) : Out :=
  match (islOf s island).inbox.find? fun p => !p.reply with
  | none => .next s
  | some p =>
    let s := takeInbox s island p
    let r := perform s island p
    match r.2 with
    | .waits => .next (deliverPacket r.1 island p)
    | .done st bs ms old bad =>
      match emit r.1 island (replyOf s.panel.number island p st bs ms old bad) with
      | .gone s => .next s
      | _ => .next r.1

/-! ## Back at the requester (R399, R402, R403) -/

/-- A part of the operation has landed whose bytes begin at an offset. -/
def partLanded (o : RemoteOp) (off : Nat) : Bool := off < o.next && o.parts.all fun q => q.off ≠ off

/-- The quarters that a part's bytes off to off + n complete together with the parts beside it that have landed (R312). -/
def joinedQuarters (o : RemoteOp) (off n : Nat) : List Nat :=
  let lo := if off ≠ 0 && partLanded o (off - partBytes) then off - 15 else off
  let hi := if partLanded o (off + n) then min (off + n + 15) o.len else off + n
  (rangeSpans o.pieces lo (hi - lo)).flatMap fun x => wholeQuarters x.1 x.2.2.2.1

/-- Quarters that the marks of a part's data mark. -/
def soiledBy (o : RemoteOp) (off n : Nat) (ms : List Nat) : List Nat :=
  ((rangeSpans o.pieces off n).flatMap fun x =>
    (ms.filter fun j => x.2.2.1 ≤ j && j < x.2.2.1 + x.2.2.2.1).map fun j => (x.1 + (j - x.2.2.1)) / 16).eraseDups

/-- The data of a GET's part landed (R398): a quarter that the landing now covers whole loses its mark, unless the data of
another part has marked it (R312). -/
def landGet (s : State) (i : Nat) (o : RemoteOp) (off : Nat) (bs : List Byte) (ms : List Nat) : State :=
  let s := clearMarks s i ((joinedQuarters o off bs.length).filter fun q => !o.soiled.contains q)
  (rangeSpans o.pieces off bs.length).foldl (fun s x =>
    let n := x.2.2.2.1
    touchSpan i x.2.1 x.1 n true (landSpan i x.1 x.2.2.1 ((bs.drop x.2.2.1).take n) ms x.2.2.2.2 s)) s

/-- A reply reaches the operation it answers. -/
def takeReply (s : State) (i : Nat) (p : RemotePacket) : State :=
  match tblGet? (islOf s i).remotes p.op with
  | none => s
  | some o =>
    match o.parts.find? fun q => partNumber o q.off = p.part with
    | none => s
    | some q =>
      if p.status ≠ 0 then pumpAll (failRemote s i p.op p.status) i
      else
        let s := if o.kind = .get then landGet s i o q.off p.data p.marks else s
        let o := { o with
          parts := o.parts.filter fun x => x.off ≠ q.off
          soiled := if o.kind = .get then o.soiled ++ soiledBy o q.off p.data.length p.marks else []
          old := p.val, bad := o.bad || p.bad || p.marks ≠ [] }
        if o.parts = [] && !o.todo then pumpAll (ackRemote s i p.op o) i
        else pumpAll (modRemote s i p.op fun _ => o) i

/-- A reply that can be taken now: a response whose data lands in host memory waits for a port that is up (R393). -/
def replyReady (s : State) (i : Nat) (p : RemotePacket) : Bool :=
  p.reply && (tblGet? (islOf s i).remotes p.op).all fun o => o.kind ≠ .get || piecesReach s o.pieces

/-- REMOTE_ACK (R399): the oldest acknowledgement or response that can be taken. -/
def execRemoteAck (island : Nat) (s : State) : Out :=
  match (islOf s island).inbox.find? (replyReady s island) with
  | none => .next s
  | some p => .next (takeReply (takeInbox s island p) island p)

/-- The requester's time-out (R402). -/
def remoteWait : Nat := 50000

/-- A part whose time is up, or whose wait for a route is over (R402). -/
def partTimer (i n : Nat) (s : State) (p : RemotePart) : State :=
  match tblGet? (islOf s i).remotes n with
  | none => s
  | some o =>
    let late := s.panel.ptime ≥ p.lastSend + remoteWait
    if p.waiting then
      match chooseRoute s i o.panel o.isl with
      | .waits =>
        if !late then s
        else if p.sends + 1 ≥ 4 then failRemote s i n 0x16
        else modRemote s i n (modPart p.off fun q => { q with sends := q.sends + 1, lastSend := s.panel.ptime })
      | _ => sendPart s i n p
    else if !late then s
    else if p.sends ≥ 4 then failRemote s i n 0x16
    else sendPart s i n p

/-- REMOTE_TIMEOUT (R402): the parts of an operation whose 50 µs have passed, and those whose wait for a route is over. -/
def execRemoteTimeout (island op : Nat) (s : State) : Out :=
  match tblGet? (islOf s island).remotes op with
  | none => .next s
  | some o => .next (pumpAll (o.parts.foldl (partTimer island op) s) island)

/-- ROUTE_FAILURE_NOTICE (R378, R402): the part is sent again at once. -/
def execRouteFailureNotice (island op part : Nat) (s : State) : Out :=
  match tblGet? (islOf s island).remotes op with
  | none => .next s
  | some o =>
    match o.parts.find? fun q => partNumber o q.off = part && !q.waiting with
    | none => .next s
    | some q => .next (pumpAll (if q.sends ≥ 4 then failRemote s island op 0x16 else sendPart s island op q) island)

/-- ROUTE_ERROR_NOTICE (R402). -/
def execRouteErrorNotice (island op : Nat) (s : State) : Out := .next (pumpAll (failRemote s island op 0x18) island)

/-! ## RFENCE (R410) -/

/-- Every remote operation issued before is acknowledged or failed. -/
def remotesDone (g : Group) (before : Nat) : Bool := !(g.ops.any fun o => o.cls = .remote && o.id < before)

/-- The fence ends: the oldest held fault of a remote operation is delivered, or the fragment proceeds. -/
def rfenceEnd (s : State) (cx : Cx) : State :=
  let s := modGrp s cx.key fun g => { g with frags := modNth g.frags cx.ix fun f => { f with hold := .none } }
  match cx.g.held.find? fun h => h.remote with
  | some h => deliverReq s cx.key { cause := h.cause ||| (1#64 <<< 63), tspc := cx.f.pc, mask := cx.f.mask, drop := some h }
  | none => modGrp s cx.key fun g => wake (advance 4 cx.ix g)

/-- RFENCE (R410). -/
def execRfence (st : BitVec 2) (s : State) : Out :=
  issue (ctlForm st []) (fun cx s =>
    if remotesDone cx.g s.seq then .ok (rfenceEnd s cx)
    else okGrp s cx (modFrag cx.g cx.ix fun f => { f with hold := .rfence s.seq })) s

/-- RFENCE_HOLD_END (R410). -/
def execRfenceHoldEnd (grp frag : Nat) (s : State) : Out :=
  let g := grpOf s grp
  let f := nth g.frags frag
  match f.hold with
  | .rfence b =>
    if remotesDone g b && inMode g f then .next (rfenceEnd s { key := grp, ix := frag, g := g, f := f }) else .next s
  | _ => .next s

end Sys2Proof.Machine
end

