-- ==== Sys2Proof/Machine/Health.lean ====
section
/-! DEFINITION. Monitors, uncorrectable errors, the control dies' self-check, power and clock
(R17, R18, R418 to R429). -/

namespace Sys2Proof.Machine

open Sys2Proof

/-! ## MONC and MONR (R428, R429) -/

/-- A source that only privileged code configures (R426). -/
def srcPrivileged (src : Nat) : Bool := (0x10 ≤ src && src ≤ 0x1B) || (0x20 ≤ src && src ≤ 0x22) || src = 0x30

/-- A source of R426, or none. -/
def srcKnown (src : Nat) : Bool := src ≤ 5 || srcPrivileged src || src = 0x31

def monitorOf (s : State) (i n : Nat) : Monitor := tblGet (islOf s i).monitors n

def modMonitor (s : State) (i n : Nat) (f : Monitor → Monitor) : State :=
  modIsl s i fun x => { x with monitors := tblMod x.monitors n f }

/-- A program names a monitor that is in use for another context (R428). -/
def foreignMonitor (s : State) (cx : Cx) (n : Nat) : Bool :=
  let m := monitorOf s cx.g.ident.island n
  !privileged cx.g.ident && m.src ≠ 0 && m.owner ≠ cx.g.ident.ctx

/-- A reserved bit or code of MONC's configuration word. -/
def monitorWordBad (w : Nat) : Bool := bits w 63 48 ≠ 0 || bits w 10 8 ≠ 0 || !srcKnown (bits w 7 0)

/-- MONC, past its form: a check of the operand, whether a program is refused, and the monitor's change. -/
def monc (st : BitVec 2) (uni : List UniUse) (n : Nat) (bad refused : Cx → Bool) (f : Cx → Monitor → Monitor) :
    State → Out :=
  issue (ctlForm st uni) fun cx s =>
    if bad cx then .flt { cls := 0x01, status := 2 }
    else if foreignMonitor s cx n || refused cx then .flt { cls := 0x11, status := 6 }
    else .ok (modMonitor (modGrp s cx.key (advance 4 cx.ix)) cx.g.ident.island n (f cx))

/-- The monitor as a configuration word sets it, with its owner. -/
def configured (w owner : Nat) : Monitor := { src := bits w 7 0, base := bits w 47 16, sh := bits w 15 11, owner := owner }

/-- MONC.CFG (R428). -/
def execMoncCfg (st : BitVec 2) (n a : BitVec 6) (s : State) : Out :=
  let w := fun (cx : Cx) => (readS cx.g.regs a.toNat).toNat
  monc st [sUse a.toNat] n.toNat (fun cx => monitorWordBad (w cx))
    (fun cx => !privileged cx.g.ident && srcPrivileged (bits (w cx) 7 0))
    (fun cx _ => configured (w cx) (if privileged cx.g.ident then 0xFFFF else cx.g.ident.ctx)) s

/-- MONC.CLR (R428). -/
def execMoncClr (st : BitVec 2) (n : BitVec 6) (s : State) : Out :=
  monc st [] n.toNat (fun _ => false) (fun _ => false) (fun _ => clearMonitor) s

/-- MONC.REL (R428). -/
def execMoncRel (st : BitVec 2) (n : BitVec 6) (s : State) : Out :=
  monc st [] n.toNat (fun _ => false) (fun _ => false) (fun _ m => clearMonitor { m with src := 0 }) s

/-- Field 4 of MONR, and CFG of a panel bank monitor (R427, R429). -/
def monitorWord (m : Monitor) : Nat :=
  m.owner % 65536 * 2 ^ 48 + m.base % 2 ^ 32 * 2 ^ 16 + m.sh % 32 * 2 ^ 11 + m.src % 256

/-- A field of a monitor, none where the number is reserved (R429). -/
def monitorField (m : Monitor) (f : Nat) : Option Nat :=
  match f with
  | 0 => some m.min
  | 1 => some m.max
  | 2 => some m.count
  | 3 => some m.sum
  | 4 => some (monitorWord m)
  | f => if 8 ≤ f && f ≤ 23 then some (tblGet m.bins (f - 8)) else none

/-- The form of MONR. -/
def monrForm (st : BitVec 2) (d : BitVec 6) (f : BitVec 5) : Form :=
  { ctlForm st [] with dsts := [.s d.toNat], bad0 := fun _ => (monitorField {} f.toNat).isNone }

/-- MONR (R429). -/
def execMonr (st : BitVec 2) (d n : BitVec 6) (f : BitVec 5) (s : State) : Out :=
  issue (monrForm st d f) (fun cx s =>
    let m := monitorOf s cx.g.ident.island n.toNat
    if !privileged cx.g.ident && m.owner ≠ cx.g.ident.ctx && m.owner ≠ 0xFFFF then .flt { cls := 0x11, status := 6 }
    else
      finish 4 (fun r => writeS r d.toNat (BitVec.ofNat 64 ((monitorField m f.toNat).getD 0))) cx s) s

/-! ## Periodic samples (R426) -/

/-- The sample a periodic source takes of the whole island now, where it takes one. -/
def islandSample (s : State) (i src : Nat) : Option Nat :=
  let x := islOf s i
  if 0x10 ≤ src && src ≤ 0x1B then
    if linkOpen (portOf s i (src - 0x10)) then some (Config.sampled s.tick) else none
  else match src with
    | 0x20 => some (frqCount x.mem)
    | 0x21 => some x.mem.locks.length
    | 0x30 => some (Config.watts s.tick)
    | _ => none

/-- MONITOR_PERIODIC_SAMPLE (R425, R426). -/
def execMonitorPeriodicSample (island src : Nat) (s : State) : Out :=
  if src = 0x31 then
    .next (modIsl s island fun x => { x with monitors := x.monitors.map fun p =>
      if p.2.src = 0x31 && (p.2.owner = 0xFFFF || ctxRuns s island p.2.owner) then
        (p.1, enterSample p.2 (Config.watts (s.tick + 65536 * (p.2.owner + 1))))
      else p })
  else
    match islandSample s island src with
    | some v => .next (modIsl s island fun x => { x with monitors := sampleSource x.monitors src v })
    | none => .next s

/-! ## The panel bank (R427) -/

/-- A panel bank monitor as a write of CFG leaves it. -/
def panelMonitor (w : Nat) : Monitor :=
  let src := bits w 7 0
  { configured w 0xFFFF with src := if (src = 0 || src = 0x40) && bits w 10 8 = 0 then src else 0 }

/-- A panel bank monitor as the host reads it: its OWNER is always 0xFFFF (R427). -/
def panelMonitorOf (s : State) (mon : Nat) : Monitor := { tblGet s.panel.monitors mon with owner := 0xFFFF }

/-- The field that begins at an offset of a panel bank monitor's window; CLR, and every reserved offset, reads zero (R427). -/
def windowField (m : Monitor) (o : Nat) : Nat :=
  match o with
  | 0x00 => monitorWord m
  | 0x08 => m.min
  | 0x10 => m.max
  | 0x18 => m.count
  | 0x20 => m.sum
  | o => if 0x40 ≤ o && o < 0x80 && o % 4 = 0 then tblGet m.bins ((o - 0x40) / 4) else 0

/-- A host's read of one field of the panel bank, at an offset of the panel register block: 0x2_0000 + 256 × MON + the field's
own (R426, R427). -/
def panelBankRead (s : State) (off : Nat) : Nat :=
  if 0x20000 ≤ off && off < 0x30000 then windowField (panelMonitorOf s ((off - 0x20000) / 256)) (off % 256) else 0

/-- PANEL_MONITOR_CFG_WRITE (R427). -/
def execPanelMonitorCfgWrite (mon : Nat) (val : DWord) (s : State) : Out :=
  if mon < 256 && registersExposed s then
    .next { s with panel := { s.panel with monitors := tblSet s.panel.monitors mon (panelMonitor val.toNat) } }
  else .next s

/-- PANEL_MONITOR_CLR_WRITE (R427). -/
def execPanelMonitorClrWrite (mon : Nat) (s : State) : Out :=
  if registersExposed s then
    .next { s with panel := { s.panel with monitors := tblAdj s.panel.monitors mon clearMonitor } }
  else .next s

/-! ## Errors that are not containable (R17, R18, R420) -/

/-- The same for every context of the island. -/
def uncorrAll (s : State) (i status info : Nat) (why : FaultedBy) : State :=
  ((islOf s i).ctxs.map (·.1)).foldl (uncorrCtx status info why i) s

/-- Every link of the island goes Dark at both its ends; what their replay buffers held is handed over. -/
def darkenAll (s : State) (i : Nat) : State := ((islOf s i).ports.map (·.1)).foldl (fun s p => linkDark s i p) s

/-- The packets in the island's router are handed over; what was delivered to it is lost with it (R17, R18). -/
def dropRouted (s : State) (i : Nat) : State :=
  let lost := routedAt s i
  let s := { s with panel := { s.panel with
    routed := s.panel.routed.filter fun x => x.1 ≠ i
    mail := s.panel.mail.filter fun x => x.1 ≠ i } }
  lost.foldl (fun s p => failureNotice s i p) (modIsl s i fun x => { x with inbox := [] })

/-- A fatal island event, once (R17, R18). -/
def quarantineIsland (s : State) (i : Nat) : State :=
  let site := (islOf s i).site
  let st := (tblGet s.panel.sites site).state
  if (tblGet? s.islands i).isSome && (st = .ready || st = .assigned) then
    let s := uncorrAll s i 3 i .quarantine
    let s := dropRouted (darkenAll s i) i
    { s with panel := { s.panel with sites := tblAdj s.panel.sites site fun t => { t with state := .quarantined } } }
  else s

/-- FATAL_ISLAND_EVENT (R17, R18). -/
def execFatalIslandEvent (island : Nat) (s : State) : Out := .next (quarantineIsland s island)

/-! ## Team memory and tiles (R421) -/

/-- A 32-byte word of team memory reads zero from now on. -/
def loseWord (k : Nat) (t : Team) : Team :=
  { t with mem := t.mem.filter fun c => c.1 / 32 ≠ k, dead := if t.dead.contains k then t.dead else t.dead ++ [k] }

/-- A 32-byte word of a tile reads zero from now on. -/
def loseTileWord (k : Nat) (x : Tile) : Tile :=
  { x with elems := x.elems.filter fun e => e.1 / 8 ≠ k, dead := if x.dead.contains k then x.dead else x.dead ++ [k] }

/-- A fault found with no reader; the PC it is attributed to is free (log 6). -/
def holdScrubbed (tick : Nat) (g : Group) : Group :=
  holdFault g (causeWord { cls := 0x1C, status := 5 } false) ((Config.freeWord tick).truncate 57 &&& ~~~3#57)

/-- The word of a team that an error strikes: of its memory, or of a tile by its key. -/
def teamError (s : State) (team : Nat) (tile : Option Nat) (word : Nat) (scrub : Bool) : State :=
  let t := teamOf s team
  let hit := match tile with
    | none => 32 * word < t.tmem * t.cores.length
    | some k => k / 32 < t.cores.length && k % 32 < t.ntiles && word < 128
  if (tblGet? s.teams team).isNone || !hit then s
  else
    let s := modTeam s team fun t =>
      match tile with
      | none => loseWord word t
      | some k => { t with tiles := tblMod t.tiles k (loseTileWord word) }
    if scrub then { s with groups := s.groups.map fun p =>
      if p.2.ident.team = team && p.2.state ≠ .exited then (p.1, holdScrubbed s.tick p.2) else p }
    else s

/-- TEAM_MEMORY_ERROR (R421); `scrub`: found by scrubbing, with no reader. -/
def execTeamMemoryError (team : Nat) (tile : Option Nat) (word : Nat) (scrub : Bool) (s : State) : Out :=
  .next (teamError s team tile word scrub)

/-- An uncorrectable error in a line: its sector is poisoned, or its bank fails (R311, R419). -/
def lineError (s : State) (i sec : Nat) : Out :=
  match tblGet? (islOf s i).mem.sectors sec with
  | none => .next (poisonSector s i sec)
  | some x => execBankFailure i x.bank [sec] s

/-- An uncorrectable error in an L1's copy: an owned dirty copy is poisoned at the home, a clean one is dropped and will be fetched
again (R418). -/
def copyError (s : State) (i l1 sec : Nat) : State :=
  let x := tblGet (islOf s i).mem.home sec
  let owns := x.ownl = some l1
  let s := if owns && x.wrote then poisonSector s i sec else s
  modMem s i fun m => { m with home := tblAdj m.home sec fun h => { h with
    shr := h.shr.filter (· ≠ l1), si := h.si.filter (· ≠ l1), ownl := if owns then none else h.ownl
    wrote := h.wrote && !owns } }

/-- UNCORRECTABLE_ERROR (R418, R420): what it strikes decides whom it reaches. -/
def execUncorrectableError (island : Nat) (struck : Struck) (s : State) : Out :=
  match struck with
  | .register grp kind reg lane sub => execRegisterPoison grp kind reg lane sub s
  | .team team tile word scrub => .next (teamError s team tile word scrub)
  | .line sector => lineError s island sector
  | .copy l1 sector => .next (copyError s island l1 sector)
  | .shared => .next (uncorrAll s island 4 0 .uncorr)
  | .island => .next (quarantineIsland s island)

/-! ## The control dies (R20, R422) -/

/-- LOCKSTEP_MISMATCH (R422): the command processor stops for the self-check. -/
def execLockstepMismatch (s : State) : Out :=
  if s.panel.single then .next s else .next { s with panel := { s.panel with checking := true, checkedSince := some s.panel.ptime } }

/-- SELF_CHECK_DONE (R422): which dies pass. The die that fails, or the standby where none does, is held in reset; where
both fail the command processor stays stopped (log 47). -/
def execSelfCheckDone (ok0 ok1 : Bool) (s : State) : Out :=
  let p := s.panel
  if !p.checking then .next s
  else if !(ok0 || ok1) then .next { s with panel := { p with checkedSince := none } }
  else
    let keep := if ok0 && ok1 then p.active else if ok0 then 0 else 1
    .next { s with panel := { p with checking := false, checkedSince := none, single := true, active := keep } }

/-! ## Power and clock (R424) -/

/-- The die temperature now, in °C (CLKST, R424; log 4). -/
def dieTemperature (s : State) : Nat := Config.temperature s.tick % 256

/-- The island must slow down: its power, averaged over 10 µs, is above PWRLIM, or its die is hotter than 105 °C (R424). -/
def overLimit (s : State) (i : Nat) : Bool := (islOf s i).pwrlim < Config.watts s.tick || 105 < dieTemperature s

/-- POWER_THROTTLE (R424): one step of 100 MHz down, to 1,200 MHz, where a limit is passed. -/
def execPowerThrottle (island : Nat) (s : State) : Out :=
  .next (modIsl s island fun x =>
    if overLimit s island then { x with mhz := max 1200 (x.mhz - 100), clockStep := s.panel.ptime } else x)

/-- CLOCK_RECOVERY_STEP (R424): one step up, at most one per 100 µs. -/
def execClockRecoveryStep (island : Nat) (s : State) : Out :=
  .next (modIsl s island fun x =>
    if s.panel.ptime ≥ x.clockStep + 100000 && x.mhz < 2000 then
      { x with mhz := min 2000 (x.mhz + 100), clockStep := s.panel.ptime }
    else x)

/-- OVER_TEMPERATURE (R424). -/
def execOverTemperature (island : Nat) (s : State) : Out := .next (quarantineIsland s island)

/-- The limit a write of PWRLIM leaves (R424). -/
def powerLimit (w : Nat) : Nat := let v := bits w 10 0; if 600 ≤ v && v ≤ 1050 then v else 1050

/-- PWRLIM_WRITE (R424). -/
def execPwrlimWrite (island : Nat) (val : DWord) (s : State) : Out :=
  .next (modIsl s island fun x => { x with pwrlim := powerLimit val.toNat })

end Sys2Proof.Machine
end

