-- ==== Sys2Proof/Machine/Sha3.lean ====
section
/-! DEFINITION. SHA3-256 and SHA3-512, as FIPS 202 gives them (R26, R414; log 10). -/

namespace Sys2Proof.Machine

open Sys2Proof

/-! ## The permutation -/

/-- The 25 lanes of a state: lane (x, y) stands at place 5y + x. -/
abbrev Keccak := List DWord

/-- The register of the round constants after one clock: eight bits that feed back by x^8 + x^6 + x^5 + x^4 + 1. -/
def rcNext (r : Nat) : Nat := if bit r 7 then (2 * r) ^^^ 0x171 else 2 * r

/-- The register after n clocks. -/
def rcAfter : Nat → Nat → Nat
  | 0, r => r
  | n + 1, r => rcAfter n (rcNext r)

/-- The constant of the round that begins with register r: bit j of the register's output stands at place 2^j - 1. -/
def roundConst (r : Nat) : DWord :=
  BitVec.ofNat 64 (((List.range 7).map fun j => if bit (rcAfter j r) 0 then 2 ^ (2 ^ j - 1) else 0).sum)

/-- The rotations of ρ: a walk over the lanes from (1, 0), whose step t, counted down by the fuel, turns its lane by the t-th
triangular number. -/
def rhoWalk : Nat → Nat → Nat → List (Nat × Nat)
  | 0, _, _ => []
  | n + 1, x, y => (5 * y + x, (24 - n) * (25 - n) / 2 % 64) :: rhoWalk n y ((2 * x + 3 * y) % 5)

/-- The rotation of the lane at a place. -/
def rhoOf (k : Nat) : Nat := (((rhoWalk 24 1 0).find? fun p => p.1 = k).map (·.2)).getD 0

/-- θ: each lane takes the parity of the column before it, and of the column after it turned by one. -/
def theta (a : Keccak) : Keccak :=
  let parity := fun (x : Nat) => (a.zipIdx.filter fun p => p.2 % 5 = x % 5).foldl (fun v p => v ^^^ p.1) (0 : DWord)
  a.zipIdx.map fun p => p.1 ^^^ (parity (p.2 + 4) ^^^ (parity (p.2 + 1)).rotateLeft 1)

/-- ρ and π: the lane of place k, turned, goes to row 2x + 3y of column y. -/
def rhoPi (a : Keccak) : Keccak :=
  let moved := a.zipIdx.map fun p =>
    let x := p.2 % 5
    let y := p.2 / 5
    (5 * ((2 * x + 3 * y) % 5) + y, p.1.rotateLeft (rhoOf p.2))
  (List.range 25).map fun k => tblGet moved k

/-- χ: along each row, a lane takes the lane after the next where the next is clear. -/
def chi (a : Keccak) : Keccak :=
  let along := fun (k d : Nat) => nth a (k / 5 * 5 + (k % 5 + d) % 5)
  a.zipIdx.map fun p => p.1 ^^^ (~~~along p.2 1 &&& along p.2 2)

/-- n rounds, the first of which begins with register r. -/
def rounds : Nat → Nat → Keccak → Keccak
  | 0, _, a => a
  | n + 1, r, a => rounds n (rcAfter 7 r) (modNth (chi (rhoPi (theta a))) 0 fun v => v ^^^ roundConst r)

/-- The permutation: 24 rounds. -/
def keccakF (a : Keccak) : Keccak := rounds 24 1 a

/-! ## The sponge -/

/-- The message padded to whole blocks of r bytes. -/
def sha3Pad (r : Nat) (m : List Byte) : List Byte :=
  let n := r - m.length % r
  if n = 1 then m ++ [0x86] else m ++ [0x06] ++ List.replicate (n - 2) 0 ++ [0x80]

/-- A block absorbed. -/
def keccakAbsorb (a : Keccak) (b : List Byte) : Keccak :=
  keccakF (a.zipIdx.map fun p => p.1 ^^^ BitVec.ofNat 64 (leNat ((b.drop (8 * p.2)).take 8)))

/-- The blocks of a padded message absorbed; the fuel is their number. -/
def keccakAll (r : Nat) : Nat → Keccak → List Byte → Keccak
  | 0, a, _ => a
  | n + 1, a, m => keccakAll r n (keccakAbsorb a (m.take r)) (m.drop r)

/-- The sponge of rate r bytes, n bytes of output. -/
def sha3 (r n : Nat) (m : List Byte) : List Byte :=
  let p := sha3Pad r m
  ((keccakAll r (p.length / r) (List.replicate 25 0) p).flatMap fun x => leBytes x.toNat 8).take n

/-- SHA3-256. -/
def sha3d256 (m : List Byte) : List Byte := sha3 136 32 m

/-- SHA3-512. -/
def sha3d512 (m : List Byte) : List Byte := sha3 72 64 m

end Sys2Proof.Machine
end

