-- ==== Sys2Proof/Machine/Boot.lean ====
section
/-! DEFINITION. Boot, renumbering, boot routes, attestation, and the commands of the mailbox
(R11 to R26, R374, R379, R380, R451). -/

namespace Sys2Proof.Machine

open Sys2Proof

/-! ## Sites (R11, R17, R451) -/

/-- The site a mesh port faces (R11). -/
def facing (site port : Nat) : Option Nat :=
  match port with
  | 0 => if 8 ≤ site then some (site - 8) else none
  | 1 => if site % 8 < 7 then some (site + 1) else none
  | 2 => if site < 56 then some (site + 8) else none
  | 3 => if 0 < site % 8 then some (site - 1) else none
  | _ => none

/-- The mesh port that faces back. -/
def backPort (port : Nat) : Nat := (port + 2) % 4

/-- What boot has found: the store it goes by, and the findings of its own checks. -/
structure Survey where
  store : Store := {}
  found : BootFindings := {}
deriving Repr

/-- The site is probed: populated, and named disabled in neither section. -/
def probed (v : Survey) (p : Nat) : Bool :=
  v.store.populated.contains p && !v.store.disabled.contains p && !v.store.sites.contains p

/-- The defect map names a disabled core or bank of a physical quad, in either section (R12, R15); a quad has 4 cores of 24
banks. -/
def quadBad (st : Store) (p q : Nat) : Bool :=
  (st.badCores.any fun c => c.1 = p && c.2 / 4 = q) || (st.badBanks.any fun b => b.1 = p && b.2 / 96 = q)
    || st.banks.any fun b => b.1 = p && b.2 / 96 = q

/-- The physical quads of a site that can be mapped, ascending. -/
def goodQuads (st : Store) (p : Nat) : List Nat := (List.range 66).filter fun q => !quadBad st p q

/-- The physical quads that the 64 logical quads stand on (R12). -/
def mappedQuads (st : Store) (p : Nat) : List Nat := (goodQuads st p).take 64

/-- The waveguides of a port that the defect map names. -/
def badGuidesOf (st : Store) (p d : Nat) : List Nat :=
  (st.badGuides.filter fun g => g.1 = p && g.2.1 = d).map fun g => g.2.2

/-- A port's waveguide defects are covered by its spare each way. -/
def guidesCovered (st : Store) (p d : Nat) : Bool := guidesOk { lost := badGuidesOf st p d }

/-- A physical row of a site's switch matrix has a defective cell. -/
def rowBad (st : Store) (p r : Nat) : Bool := st.badCells.any fun c => c.1 = p && c.2.1 = r

/-- The physical rows without a defective cell. -/
def goodRows (st : Store) (p : Nat) : List Nat := (List.range 18).filter fun r => !rowBad st p r

/-- The site is healthy (R13). -/
def healthySite (v : Survey) (p : Nat) : Bool :=
  probed v p
    && 64 ≤ (goodQuads v.store p).length
    && (v.found.hbm.all fun h => h.1 ≠ p)
    && ((List.range 12).all (guidesCovered v.store p) && 16 ≤ (goodRows v.store p).length)
    && (v.found.ucie.all fun u => u.1 ≠ p)

/-- The mesh link of a port reached Up at step 4: it trains, and neither port is one that the store records. -/
def meshUp (v : Survey) (p port : Nat) : Bool :=
  match facing p port with
  | none => false
  | some q =>
    v.found.links.contains (p, port) && v.found.links.contains (q, backPort port)
      && !v.store.ports.contains (p, port) && !v.store.ports.contains (q, backPort port)

/-- The healthy sites joined to a site by a mesh link. -/
def joined (v : Survey) (p : Nat) : List Nat :=
  (List.range 4).filterMap fun d => if meshUp v p d then (facing p d).filter (healthySite v) else none

/-- The sites reached in n more links. -/
def spread (v : Survey) : Nat → List Nat → List Nat → List Nat
  | 0, seen, _ => seen
  | _ + 1, seen, [] => seen
  | n + 1, seen, front =>
    let new := (front.flatMap (joined v)).eraseDups.filter fun p => !seen.contains p
    spread v n (seen ++ new) new

/-- The connected set of a healthy site. -/
def component (v : Survey) (p : Nat) : List Nat := spread v 64 [p] [p]

/-- The largest connected set; of equal ones, that of the lowest site (R451). -/
def chosenSet (v : Survey) : List Nat :=
  ((List.range 64).filter (healthySite v)).foldl (fun best p =>
    let c := component v p
    if best.length < c.length then c else best) []

/-- The numbered sites, ascending: the number of a site is its place (R23). -/
def numbering (v : Survey) : List Nat := let c := chosenSet v; (List.range 64).filter c.contains

/-- A site once the store is read (R17): it is there to be probed, or not. -/
def siteFound (v : Survey) (st : SiteState) (p : Nat) : Site :=
  if !v.store.populated.contains p then { state := .unpopulated }
  else if !probed v p then { state := .disabled }
  else { state := st }

/-- A site at the end of its probing: one that is not healthy is powered down. -/
def siteProbed (v : Survey) (p : Nat) : Site :=
  if probed v p && !healthySite v p then { state := .quarantined } else siteFound v .probing p

/-- A site after step 5. -/
def siteAfter (v : Survey) (ns : List Nat) (p : Nat) : Site :=
  match ns.findIdx? (· = p) with
  | some n => { state := .ready, logical := some n }
  | none => siteFound v .quarantined p

/-- All 64 sites. -/
def allSites (f : Nat → Site) : Tbl Site := (List.range 64).map fun p => (p, f p)

/-- The sites that boot quarantines for a reason. -/
def reasonsOf (v : Survey) (why : QuarantineReason) (ps : List Nat) : List (Nat × QuarantineReason) :=
  (ps.filter fun p => probed v p).map fun p => (p, why)

/-- A list with the entries that it does not hold yet, at its end. -/
def appendNew {α : Type} [DecidableEq α] (l new : List α) : List α := l ++ new.filter fun x => !l.contains x

/-! ## Ports and circuits (R374, R383, R384) -/

/-- A mesh port after step 4: Up or Failed towards a numbered site; Dark elsewhere, and where the store records it. -/
def meshPort (v : Survey) (ns : List Nat) (now p d : Nat) : Port :=
  let x : Port := { lost := badGuidesOf v.store p d }
  match facing p d with
  | none => x
  | some q =>
    match ns.findIdx? (· = q) with
    | none => x
    | some n =>
      let x : Port := { x with peer := some (n, backPort d) }
      if v.store.ports.contains (p, d) then x
      else if meshUp v p d then { x with state := .up }
      else { x with state := .failed, failures := [now], since := now }

/-- The cells of a list of cells light an express port to a fibre bundle. -/
def leadsTo (glass : Tbl GlassEnd) (cells : List (Nat × Nat × Nat)) (site port n : Nat) : Bool :=
  let m := fun (q : Nat) => ({ set := (cells.filter fun c => c.1 = q).map fun c => cellKey c.2.1 c.2.2 } : Matrix)
  (portLight m glass site port).2 = some (.bundle n)

/-- The ports that a circuit of the plan takes: those of in-panel circuits and of bundles at their primary sites, and the
reserve ports. -/
def circuitPorts : Circuit → List (Nat × Nat) × List (Nat × Nat)
  | .express a b _ => ([a, b], [])
  | .bundle n port reserve _ _ => ([(primarySite n, port)], [(secondarySite n, reserve)])

/-- A circuit of the plan is one of R383: between express ports, and a bundle's from its own two sites. -/
def circuitOk (glass : Tbl GlassEnd) : Circuit → Bool
  | .express a b _ => 4 ≤ a.2 && a.2 < 12 && 4 ≤ b.2 && b.2 < 12
  | .bundle n port reserve cells cells2 =>
    n < 32 && 4 ≤ port && port < 12 && 4 ≤ reserve && reserve < 12 && leadsTo glass cells (primarySite n) port n
      && leadsTo glass cells2 (secondarySite n) reserve n

/-- How many of a plan's circuits are a bundle's. -/
def bundleCount (plan : List Circuit) (n : Nat) : Nat :=
  (plan.filter fun c => match c with
    | .bundle m .. => m = n
    | .express .. => false).length

/-- The plan is a circuit plan of R383: each bundle once, no port taken twice, and two express ports of every edge site
kept free as reserve. -/
def planOk (glass : Tbl GlassEnd) (plan : List Circuit) : Bool :=
  let used := plan.flatMap fun c => (circuitPorts c).1
  let spare := plan.flatMap fun c => (circuitPorts c).2
  plan.all (circuitOk glass) && ((List.range 32).all fun n => bundleCount plan n = 1) && decide (used ++ spare).Nodup
    && edgeRing.all fun p => (used.filter fun x => x.1 = p).length ≤ 6

/-- The circuits of the store's plan, which boot sets; none where it is no circuit plan of R383 (log 1). -/
def planOf (s : State) (v : Survey) : List Circuit := if planOk s.panel.glass v.store.plan then v.store.plan else []

/-- The cells that a circuit sets. Step 4 of R19 comes before numbering; that a circuit with an end at a site which this boot does
not number has none of its cells set is the model's choice (log 1). -/
def circuitCells (ns : List Nat) : Circuit → List (Nat × Nat × Nat)
  | .express a b l => if ns.contains a.1 && ns.contains b.1 then l else []
  | .bundle n _ _ l m =>
    if ns.contains (primarySite n) then l else if ns.contains (secondarySite n) then m else []

/-- A cell set at boot: a write only where it is not set, and refused in a worn row with no spare left (R385). -/
def setCell (row col : Nat) (m : Matrix) : Matrix :=
  if m.set.contains (cellKey (nth m.rowMap row) col) then m
  else
    let m := remapWorn row m
    let r := nth m.rowMap row
    let k := cellKey r col
    if rowWorn m r then m else wearCell k { m with set := m.set ++ [k] }

/-- A matrix that no boot has set yet: its rows on those without a defective cell. -/
def freshMatrix (st : Store) (p : Nat) : Matrix :=
  let l := goodRows st p
  { rowMap := l.take 16, spares := l.drop 16 }

/-- The counters of a site's matrix, as the store holds them (R385). -/
def storedWear (st : Store) (p : Nat) : Tbl Nat :=
  (st.wear.filter fun w => w.1 = p).foldl (fun t w => tblSet t w.2.1 w.2.2) []

/-- A site's matrix before boot sets a cell: its cells as they stood without power, its counters from the store. -/
def keptMatrix (s : State) (v : Survey) (p : Nat) : Matrix :=
  let old := (tblGet? s.panel.matrices p).getD (freshMatrix v.store p)
  { rowMap := old.rowMap, spares := old.spares, set := old.set, worn := old.worn, wear := storedWear v.store p }

/-- A site's matrix with the circuits of the plan set. -/
def bootMatrix (s : State) (v : Survey) (ns : List Nat) (p : Nat) : Matrix :=
  ((planOf s v).flatMap (circuitCells ns)).foldl (fun m c => if c.1 = p then setCell c.2.1 c.2.2 m else m) (keptMatrix s v p)

/-- The ports of a numbered site, before any light is led through the matrices. -/
def bootPorts (v : Survey) (ns : List Nat) (now p : Nat) : Tbl Port :=
  (List.range 12).map fun d => (d, if d < 4 then meshPort v ns now p d else { lost := badGuidesOf v.store p d })

/-- The far ends of the express ports: an in-panel circuit trains now, an edge link at step 6; a port that the store records
stays Dark (R19, R374). -/
def lightUp (s : State) : State :=
  modExpress s fun site d e x =>
    let x := { x with peer := e.2, edge := e.1.isSome, bundle := e.1.getD 0 }
    if e.2.isSome && !s.panel.store.ports.contains (site, d) then trainEnd s.panel.ptime x else x

/-- The edge links train (R19). -/
def trainEdges (s : State) : State :=
  modExpress s fun site d _ x =>
    if x.edge && x.state = .dark && !s.panel.store.ports.contains (site, d) then trainEnd s.panel.ptime x else x

/-- An edge link has not yet ended its first training. -/
def edgeTraining (s : State) : Bool :=
  s.islands.any fun p => p.2.ports.any fun q => q.2.edge && q.2.state = .training && q.2.failures = []

/-! ## Boot routes (R379) -/

/-- The Up mesh links of each island: port and far island, in the order of the selectors. -/
def meshLinks (v : Survey) (ns : List Nat) : List (List (Nat × Nat)) :=
  ns.map fun p => (List.range 4).filterMap fun d =>
    if meshUp v p d then (facing p d).bind fun q => (ns.findIdx? (· = q)).map fun n => (d, n) else none

/-- The entries of boot step 5. -/
def bootRoutes (adj : List (List (Nat × Nat))) : Tbl Route :=
  let n := adj.length
  let plain := (List.range n).map (costs adj fun _ _ => 1)
  let pairs := (List.range n).flatMap fun s => (List.range n).map fun d =>
    (64 * s + d, if s = d then ([], []) else routePair adj (plain.getD d []) s d)
  (pairs.map fun p => (p.1, routeEntry p.2.1)) ++ pairs.map fun p => (4096 + p.1, routeEntry p.2.2)

/-- The cell of source s for destination d at boot (R380). -/
def bootCell (s d : Nat) : DWord :=
  BitVec.ofNat 64 (2 ^ 63 + 7 * 2 ^ 36 + 7 * 2 ^ 32 + (4096 + 64 * s + d) * 2 ^ 16 + (64 * s + d))

/-! ## Power good (R19 to R23) -/

/-- A numbered island as step 5 leaves it. -/
def bootIsland (s : State) (v : Survey) (ns : List Nat) (n p : Nat) : Island :=
  { site := p
    quads := mappedQuads v.store p
    ports := bootPorts v ns s.panel.ptime p
    matrix := bootMatrix s v ns p
    cells := (List.range ns.length).map fun d => (d, bootCell n d) }

/-- The store without its field section. -/
def factoryOnly (st : Store) : Store :=
  { populated := st.populated, disabled := st.disabled, badCores := st.badCores, badBanks := st.badBanks
    badGuides := st.badGuides, badCells := st.badCells, plan := st.plan }

/-- The store that boot goes by: without its field section where that is rejected (R15, R16). -/
def storeInUse (st : Store) (fieldOk : Bool) : Store := if fieldOk then st else factoryOnly st

/-- What stands in the store's medium. -/
def storedNow (p : Panel) : Store := p.shelved.getD p.store

/-- The panel at power good, before any step of boot. -/
def darkPanel (p : Panel) (kept : Tbl Matrix) : Panel :=
  { store := storedNow p, ptime := p.ptime, down := p.down, matrices := kept, glass := p.glass
    sites := allSites (siteFound { store := storedNow p } .powerOn) }

/-- Power good (R19): everything that power held is gone, and boot begins. -/
def boot (s : State) (f : BootFindings) : State :=
  let kept := s.islands.foldl (fun t p => tblSet t p.2.site p.2.matrix) s.panel.matrices
  { s with
    islands := [], groups := [], teams := [], propagate := [], cur := none
    panel := { darkPanel s.panel kept with boot := some { found := f } } }

/-- Boot halts with an error. -/
def haltBoot (e : Nat) (p : Panel) : Panel := { p with phase := 0xFF, error := e, boot := none }

/-- Step 1 (R20). -/
def bootFirmware (f : BootFindings) (p : Panel) : Panel :=
  if !f.fw0 && !f.fw1 then haltBoot 1 p
  else { p with phase := 1, single := !(f.fw0 && f.fw1), active := if f.fw0 then 0 else 1 }

/-- Step 2 (R15, R16). -/
def bootStore (f : BootFindings) (p : Panel) : Panel :=
  if !f.factoryOk then haltBoot 2 p
  else
    let st := storeInUse p.store f.fieldOk
    { p with phase := 2, error := if f.fieldOk then 0 else 4, rejected := !f.fieldOk, store := st
             shelved := if f.fieldOk then none else some p.store, number := st.number }

/-- Step 3 begins: the sites are probed. -/
def bootProbe (f : BootFindings) (p : Panel) : Panel :=
  { p with phase := 3, sites := allSites (siteFound { store := p.store, found := f } .probing) }

/-- Step 3 ends: the units that self-test finds failed are recorded, and the sites that are not healthy; then the links
train (R13, R16, R17). That a bank which fails this self-test unmaps its quad in this boot already, though R19 names the mapping
before the self-test, is the model's choice (log 1). -/
def bootProbed (f : BootFindings) (p : Panel) : Panel :=
  let st := { p.store with banks := appendNew p.store.banks f.banks, ports := appendNew p.store.ports f.ports }
  let v : Survey := { store := st, found := f }
  { p with
    phase := 4, sites := allSites (siteProbed v)
    store := { st with reasons := appendNew st.reasons (reasonsOf v .notHealthy ((List.range 64).filter fun q => !healthySite v q)) } }

/-- Step 4's circuits and step 5 (R19, R23, R379, R451). With N = 0 boot halts with error 0x03, which takes the place of
0x04 where the field section was rejected too: R22 and R23 do not say which of the two stands, and this is the model's choice
(log 39). -/
def bootNumber (f : BootFindings) (s : State) : State :=
  let v : Survey := { store := s.panel.store, found := f }
  let ns := numbering v
  let lost := (List.range 64).filter fun p => healthySite v p && !ns.contains p
  let st := { s.panel.store with
    reasons := appendNew s.panel.store.reasons (reasonsOf v .unreachable lost)
    wear := ns.foldl (fun w p => storeWear p (crossed20 (keptMatrix s v p) (bootMatrix s v ns p)) w) s.panel.store.wear }
  let p := { s.panel with
    phase := 5, ncount := ns.length, sites := allSites (siteAfter v ns), store := st
    routes := bootRoutes (meshLinks v ns) }
  let s' := { s with panel := p, islands := ns.zipIdx.map fun x => (x.2, bootIsland s v ns x.2 x.1) }
  if ns = [] then { s' with panel := haltBoot 3 p } else lightUp s'

/-- One stage of the boot under way. -/
def bootStage (r : BootRun) (s : State) : State :=
  let onPanel := fun (g : BootFindings → Panel → Panel) => { s with panel := g r.found s.panel }
  match r.stage with
  | 0 => onPanel bootFirmware
  | 1 => onPanel bootStore
  | 2 => onPanel bootProbe
  | 3 => onPanel bootProbed
  | 4 => bootNumber r.found s
  | 5 => trainEdges s
  | 6 => { s with panel := { s.panel with phase := 6 } }
  | _ => { s with panel := { s.panel with phase := 7, boot := none } }

/-- Boot's own progress (R19): each stage when the one before it is over; step 6 is over when every edge link has ended its
training. -/
def bootOn (s : State) : State :=
  match s.panel.boot with
  | none => s
  | some r =>
    if r.stage = 6 && edgeTraining s then s
    else
      let s := bootStage r s
      { s with panel := { s.panel with boot := s.panel.boot.map fun r => { r with stage := r.stage + 1 } } }

/-- POWER_GOOD (R19): with what boot's own checks find. -/
def execPowerGood (found : BootFindings) (s : State) : Out := .next (boot s found)

/-- BOOTST (R22). -/
def bootst (p : Panel) : Nat := p.phase * 2 ^ 24 + p.ncount * 2 ^ 16 + p.error * 2 ^ 8 + (if p.single then 1 else 0)

/-! ## Attestation (R26) -/

/-- The code of a site in the site map. -/
def siteCode (t : Site) : Nat :=
  match t.state with
  | .unpopulated => 0
  | .disabled => 1
  | .quarantined => 3
  | .powerOn => 0
  | .probing => 0
  | .ready => 2
  | .assigned => 2

/-- The site map as a number: two bits per site. -/
def siteMap (p : Panel) : Nat :=
  (List.range 64).foldl (fun a k => a + siteCode (tblGet p.sites k) * 2 ^ (2 * k)) 0

/-- The 16 bytes of a route entry (R379). -/
def routeBytes (n : Nat) (r : Route) : List Byte :=
  leBytes n 2 ++ leBytes r.k 1 ++ leBytes 0 1
    ++ leBytes (r.hops.zipIdx.foldl (fun a h => a + h.1 % 16 * 2 ^ (4 * h.2)) 0) 8 ++ leBytes 0 4

/-- The bytes of the topology table, entry after entry; an entry never written carries no packet. -/
def tableBytes : Nat → Nat → Tbl Route → List Byte
  | 0, _, _ => []
  | n + 1, k, [] => routeBytes k {} ++ tableBytes n (k + 1) []
  | n + 1, k, (j, r) :: t =>
    if j = k then routeBytes k r ++ tableBytes n (k + 1) t else routeBytes k {} ++ tableBytes n (k + 1) ((j, r) :: t)

/-- A list of numbers as bytes. -/
def numBytes (l : List Nat) : List Byte := le8 l.length ++ l.flatMap le8

/-- A list of cells as bytes. -/
def cellBytes (l : List (Nat × Nat × Nat)) : List Byte := numBytes (l.flatMap fun c => [c.1, c.2.1, c.2.2])

/-- A circuit of the plan as bytes. -/
def circuitBytes : Circuit → List Byte
  | .express a b l => numBytes [0, a.1, a.2, b.1, b.2] ++ cellBytes l
  | .bundle n port reserve l m => numBytes [1, n, port, reserve] ++ cellBytes l ++ cellBytes m

/-- A reason as a number. -/
def reasonCode : QuarantineReason → Nat
  | .notHealthy => 1
  | .unreachable => 2

/-- The whole content of the store, as bytes (log 10). -/
def storeContent (st : Store) : List Byte :=
  let pairs := fun (l : List (Nat × Nat)) => numBytes (l.flatMap fun b => [b.1, b.2])
  numBytes st.populated ++ numBytes st.disabled ++ pairs st.badCores ++ pairs st.badBanks ++ cellBytes st.badGuides
    ++ cellBytes st.badCells ++ le8 st.plan.length ++ st.plan.flatMap circuitBytes
    ++ le8 st.number ++ numBytes st.sites ++ le8 st.owners.length ++ st.owners.flatten ++ le8 st.peers.length ++ st.peers.flatten
    ++ pairs st.banks ++ pairs st.ports ++ pairs (st.reasons.map fun r => (r.1, reasonCode r.2)) ++ cellBytes st.wear

/-- The four measurements. -/
def measurements (p : Panel) : List Byte :=
  sha3d512 (Config.measured 0 []) ++ sha3d512 (Config.measured 1 []) ++ sha3d512 (Config.measured 2 (storeContent (storedNow p)))
    ++ sha3d512 (tableBytes 65536 0 p.routes)

/-- Store status. -/
def storeStatus (p : Panel) : Nat :=
  (if p.rejected then 1 else 0) + (if p.single then 2 else 0) + (if p.store.owners = [] then 4 else 0)

/-- The report on a nonce. -/
def attest (p : Panel) (nonce : List Byte) : List Byte :=
  let head := padTo 32 nonce ++ leBytes (p.number % 1024 + p.ncount * 2 ^ 16) 4 ++ leBytes (siteMap p) 16
    ++ leBytes (storeStatus p) 4 ++ measurements p
  head ++ padTo 4627 (Config.sign (sha3d512 head))

/-- ATTESTATION_REQUEST (R26). -/
def execAttestationRequest (nonce : List Byte) (s : State) : Out :=
  if s.panel.phase = 0 then .next s
  else .next { s with panel := { s.panel with report := attest s.panel nonce } }

/-! ## The field section's commands (R15, R16) -/

/-- The root of trust takes commands. -/
def mailboxOpen (s : State) : Bool := s.panel.phase ≠ 0

/-- The command is signed by an enrolled owner key. -/
def ownerSigned (s : State) (kind : Nat) (arg signer sig : List Byte) : Bool :=
  mailboxOpen s && s.panel.store.owners.contains signer && Config.verify signer (Config.command kind arg) sig

def modStore (s : State) (f : Store → Store) : State :=
  { s with panel := { s.panel with store := f s.panel.store } }

/-- A key enrolled in a list of at most n; one that is there already stays. -/
def enrol (n : Nat) (key : List Byte) (l : List (List Byte)) : List (List Byte) :=
  if l.contains key || l.length ≥ n then l else l ++ [key]

/-- The store once a CLAIM has enrolled its key: where the field section was rejected, a new one that holds that key
alone (R16). -/
def claimed (key : List Byte) (p : Panel) : Panel :=
  let st := if p.shelved.isSome then factoryOnly p.store else p.store
  { p with store := { st with owners := [key] }, shelved := none }

/-- CLAIM (R16). -/
def execClaim (key : List Byte) (s : State) : Out :=
  if mailboxOpen s && s.panel.store.owners = [] then .next { s with panel := claimed key s.panel } else .next s

/-- OWNER_KEY_CHANGE (R16): adds or removes an owner key. -/
def execOwnerKeyChange (add : Bool) (key signer sig : List Byte) (s : State) : Out :=
  if ownerSigned s (if add then 0 else 1) key signer sig then
    .next (modStore s fun st => { st with owners := if add then enrol 8 key st.owners else st.owners.filter (· ≠ key) })
  else .next s

/-- PEER_KEY_ADD (R16). -/
def execPeerKeyAdd (key signer sig : List Byte) (s : State) : Out :=
  if ownerSigned s 2 key signer sig then .next (modStore s fun st => { st with peers := enrol 64 key st.peers }) else .next s

/-- PEER_KEY_REMOVE (R16). -/
def execPeerKeyRemove (key signer sig : List Byte) (s : State) : Out :=
  if ownerSigned s 3 key signer sig then
    .next (modStore s fun st => { st with peers := st.peers.filter (· ≠ key) })
  else .next s

/-- PANEL_NUMBER_CHANGE (R15, R25): the next boot reads it. -/
def execPanelNumberChange (number : Nat) (signer sig : List Byte) (s : State) : Out :=
  if number < 1024 && ownerSigned s 4 (leBytes number 2) signer sig then
    .next (modStore s fun st => { st with number := number })
  else .next s

end Sys2Proof.Machine
end

