-- ==== Sys2Proof/Machine/Bucket.lean ====
section
/-! DEFINITION. Buckets on the collective engines: node values, messages along the tree, completion, failure, streams
(R411 to R415, R417). -/

namespace Sys2Proof.Machine

open Sys2Proof

/-! ## Values of a bucket (R412, R413) -/

/-- The terms of each element: the input, then the children's values. -/
def zipTerms : List Word → List (List Word) → List (List Word)
  | [], _ => []
  | x :: xs, cs => (x :: cs.map fun c => c.headD 0) :: zipTerms xs (cs.map List.tail)

/-- A node value in F32 mode: a leaf's input, else one rounding of the exact sum (R412). A leaf's NaN keeps its bits, also where
the leaf is the root: R412 says that the value is the input, against R86's canonical NaN of every unit (log 15). -/
def nodeF32 (l : List Word) : Word :=
  match l with
  | [x] => x
  | _ => BitVec.ofNat 32 (rnd .f32 .rne (exactSum .rne (l.map fun x => dec .f32 x.toNat)).1).1

/-- An input under the scale s (R413). -/
def quantOne (s : Nat) (x : Word) : Int :=
  if s = 255 then 0
  else
    match dec .f32 x.toNat with
    | .real neg m e => (if neg then -1 else 1) * (roundQ .rne neg m (e + 127 - s) 0).1
    | _ => 0

/-- A sum that would leave I32 saturates (R88). -/
def satI32 (x : Int) : Int := max (-(2 ^ 31)) (min (2 ^ 31 - 1) x)

/-- A node's sum in BQ32 mode, as an I32 word (R413). R88 would saturate a sum outside I32 and raise OF with R97, where R412
raises no flag in a collective; the model saturates and raises none, and by R413 no sum reaches the bound (log 15). -/
def nodeBq32 (s : Nat) (l : List Word) : Word :=
  match l with
  | [] => 0
  | x :: cs => BitVec.ofInt 32 (satI32 (quantOne s x + (cs.map fun c => signed c.toNat 32).sum))

/-- The result of a sum (R413). -/
def resultBq32 (s : Nat) (t : Word) : Word :=
  if s = 255 then BitVec.ofNat 32 (canonicalNan .f32)
  else BitVec.ofNat 32 (rnd .f32 .rne (scale2 (extOfInt (signed t.toNat 32)) ((s : Int) - 127))).1

/-- The scales of consecutive blocks of 128 values; the fuel is their number. -/
def blockScales : Nat → List Word → List Byte
  | 0, _ => []
  | n + 1, l => BitVec.ofNat 8 (blockScale 3 ((l.take 128).map fun x => dec .f32 x.toNat)) :: blockScales n (l.drop 128)

/-- The larger of two scales, block by block. -/
def maxScales (a b : List Byte) : List Byte := (a.zip b).map fun p => if p.1.toNat < p.2.toNat then p.2 else p.1

/-- The scale of each element. -/
def perElement (scs : List Byte) : List Nat := scs.flatMap fun s => List.replicate 128 s.toNat

/-- The words of a child among those received. -/
def fromChild (l : List (Nat × List Word)) (c : Nat) : List Word := ((l.find? fun p => p.1 = c).map (·.2)).getD []

/-- The scales a node sends up, or forms at the root: the largest of its own and its children's. -/
def nodeScales (b : Bucket) : List Byte :=
  b.children.foldl (fun acc c => maxScales acc (((b.upScales.find? fun p => p.1 = c).map (·.2)).getD []))
    (blockScales (b.count / 128) b.inputs)

/-- Node values of elements j to j + k − 1. -/
def nodeValues (b : Bucket) (j k : Nat) : List Word :=
  let terms := zipTerms ((b.inputs.drop j).take k) (b.children.map fun c => (fromChild b.upValues c).drop j)
  if b.bq32 then
    (terms.zip ((perElement (b.downScales.getD [])).drop j)).map fun p => nodeBq32 p.2 p.1
  else terms.map nodeF32

/-- Results from the root's node values of elements from j on. -/
def rootResults (b : Bucket) (j : Nat) (l : List Word) : List Word :=
  if b.bq32 then (l.zip ((perElement (b.downScales.getD [])).drop j)).map fun p => resultBq32 p.2 p.1 else l

/-- Elements whose node values can be formed now: in BQ32 mode all or none (R413). -/
def formable (b : Bucket) : Nat :=
  let n := b.children.foldl (fun n c => min n (fromChild b.upValues c).length) b.inputs.length
  if b.bq32 && (n < b.count || b.downScales.isNone) then 0 else n

/-! ## Messages (R413, R415) -/

def bucketOf? (s : State) (i n : Nat) : Option Bucket := tblGet? (islOf s i).buckets n

def modBucket (s : State) (i n : Nat) (f : Bucket → Bucket) : State :=
  modIsl s i fun x => { x with buckets := tblAdj x.buckets n f }

/-- A message sent to an island. -/
def sendBody (i : Nat) (b : Bucket) (body : BucketBody) (s : State) (dest : Nat) : State :=
  let m : BucketMsg := { source := i, ctx := b.ctx, bid := b.bid, bq32 := b.bq32, count := b.count, parent := b.parent, body := body }
  { s with panel := { s.panel with mail := s.panel.mail ++ [(dest, m)] } }

/-- A message to every child. -/
def sendDown (s : State) (i : Nat) (b : Bucket) (body : BucketBody) : State := b.children.foldl (sendBody i b body) s

/-- The island is the root of the bucket's tree. -/
def isRoot (b : Bucket) : Bool := b.parent = 63

/-- Results arrive at a stream. -/
def streamResults (s : State) (i n : Nat) (l : List Word) : State :=
  modIsl s i fun x => { x with streams := tblAdj x.streams n fun t => { t with results := t.results ++ l } }

/-- Results formed or received: kept, passed down, given to the stream. -/
def takeResults (s : State) (i n : Nat) (b : Bucket) (l : List Word) : State :=
  let s := modBucket s i n fun b => { b with results := b.results ++ l }
  streamResults (sendDown s i b (.result l)) i n l

/-- Scales formed at the root or received: kept and passed down. -/
def takeScales (s : State) (i n : Nat) (b : Bucket) (l : List Byte) : State :=
  sendDown (modBucket s i n fun b => { b with downScales := some l }) i b (.scalesDown l)

/-- The scale pass goes on where it can (R413). -/
def stepScales (s : State) (i n : Nat) : State :=
  match bucketOf? s i n with
  | none => s
  | some b =>
    if b.failing.isSome || !b.bq32 || b.sentScales || b.inputs.length < b.count
        || !(b.children.all fun c => b.upScales.any fun p => p.1 = c) then s
    else
      let l := nodeScales b
      let s := modBucket s i n fun b => { b with sentScales := true }
      if isRoot b then takeScales s i n b l else sendBody i b (.scalesUp l) s b.parent

/-- The values go up, or at the root become results, as far as they can be formed (R412, R413). -/
def stepValues (s : State) (i n : Nat) : State :=
  match bucketOf? s i n with
  | none => s
  | some b =>
    let k := formable b
    if b.failing.isSome || k ≤ b.sent then s
    else
      let l := nodeValues b b.sent (k - b.sent)
      let s := modBucket s i n fun b => { b with sent := k }
      if isRoot b then takeResults s i n b (rootResults b b.sent l) else sendBody i b (.valuesUp l) s b.parent

/-! ## A group's stream (R417) -/

/-- The group whose stream has the number. -/
def streamGroup (s : State) (i n : Nat) : Option Nat :=
  (s.groups.find? fun p => p.2.ident.island = i && p.2.stream = some n).map (·.1)

/-- An entry of Q2 taken: its elements are inputs up to the bucket's count. -/
def takeEntry (i n : Nat) (s : State) (e : FeedEntry) : State :=
  let l := (lanesOf e.mask).map fun k => (e.vals.getD k 0).truncate 32
  let s := modIsl s i fun x => { x with streams := tblAdj x.streams n fun t => { t with taken := t.taken + l.length } }
  modBucket s i n fun b =>
    if e.fmt ≠ 0 then { b with failing := some (b.failing.getD 0x1D) }
    else { b with inputs := (b.inputs ++ l).take b.count }

/-- The engine takes what the group has pushed. -/
def takeQ2 (s : State) (i k n : Nat) : State :=
  let es := (grpOf s k).win0.q2
  let s := modGrp s k fun g => { g with win0 := { g.win0 with q2 := [], due := g.win0.due ++ es } }
  es.foldl (takeEntry i n) s

/-- What a bucket can do now is done. -/
def bucketStep (s : State) (i n : Nat) : State := stepValues (stepScales s i n) i n

/-- The stream of a group moved on: Q2 taken, the bucket stepped, Q3 given. -/
def streamStep (s : State) (i k n : Nat) : State :=
  let s := bucketStep (takeQ2 s i k n) i n
  giveQ3 (grpOf s k).win0.due.length s i k n

/-- A bucket and its group's stream moved on. -/
def bucketMove (s : State) (i n : Nat) : State :=
  match streamGroup s i n with
  | some k => streamStep s i k n
  | none => bucketStep s i n

/-- The stream unbinds when the last result has been popped (R417). -/
def unbind (s : State) (k : Nat) : State :=
  let g := grpOf s k
  match g.stream with
  | none => s
  | some n =>
    match tblGet? (islOf s g.ident.island).streams n with
    | none => setGrp s k { g with stream := none }
    | some t =>
      if t.count ≤ t.given && g.win0.q2 = [] && g.win0.due = [] && g.win0.q3 = [] then
        modIsl (setGrp s k { g with stream := none }) g.ident.island fun x => { x with streams := tblDel x.streams n }
      else s

/-! ## The end of a bucket (R414, R415) -/

/-- Bytes of words, little-endian. -/
def wordsBytes (l : List Word) : List Byte := l.flatMap fun x => leBytes x.toNat 4

/-- The traffic string (R414). -/
def trafficOf (island : Nat) (b : Bucket) : List Byte :=
  leBytes b.bid 2 ++ [if b.bq32 then 1 else 0, BitVec.ofNat 8 island] ++ leBytes b.count 4 ++ List.replicate 8 0
    ++ (if b.bq32 then
          (if isRoot b then [] else nodeScales b)
            ++ (b.children.flatMap fun c => ((b.upScales.find? fun p => p.1 = c).map (·.2)).getD [])
            ++ b.downScales.getD []
        else [])
    ++ (if isRoot b then [] else wordsBytes (nodeValues b 0 b.count))
    ++ (b.children.flatMap fun c => wordsBytes (fromChild b.upValues c))
    ++ wordsBytes b.results

/-- Bytes written over a bucket's range (R416). -/
def writeRange (s : State) (i : Nat) (ps : List EnginePiece) (bs : List Byte) : State :=
  (rangeSpans ps 0 bs.length).foldl (fun s x =>
    let n := x.2.2.2.1
    touchSpan i x.2.1 x.1 n true (landSpan i x.1 x.2.2.1 ((bs.drop x.2.2.1).take n) [] x.2.2.2.2 s)) s

/-- Bytes of a range. -/
def rangeBytes (ps : List EnginePiece) : Nat := (ps.map fun p => p.bits / 8).foldl (· + ·) 0

/-- Bytes that nothing fixes, as many as a range holds (log 6). -/
def undefinedBytes (tick salt n : Nat) : List Byte :=
  (List.range n).map fun j => Config.undefinedByte (tick * 2 ^ 40 + salt * 2 ^ 36 + j)

/-- The watermark record written, the counter incremented, the pages unpinned, the bucket gone; the scratch is undefined
from here on (R411, R414). -/
def endBucket (s : State) (i n : Nat) (b : Bucket) (tw rw : List Byte) (stat : DWord) : State :=
  let c := (ctxOf s i b.ctx).cseq
  let s := writeRange s i b.scratch (undefinedBytes s.tick 1 (rangeBytes b.scratch))
  let s := writeRange s i b.wmark (tw ++ rw ++ le8 stat.toNat ++ le8 c)
  let s := modIsl s i fun x => { x with
    ctxs := tblMod x.ctxs b.ctx fun y => { y with cseq := y.cseq + 1 }
    buckets := tblDel x.buckets n
    ended := (x.ended.filter (· ≠ (b.ctx, b.bid))) ++ [(b.ctx, b.bid)] }
  let s := if b.nne then ctrAdd s i b.nctr 1 else s
  wakeAll (unpin s i b.pins)

/-- The memory that a bucket writes at its end can be reached now (R393). -/
def bucketReach (s : State) (b : Bucket) : Bool := piecesReach s (b.dst ++ b.wmark ++ b.scratch)

/-- BUCKET_COMPLETE (R414): every result is here. -/
def execBucketComplete (island bucket : Nat) (s : State) : Out :=
  match bucketOf? s island bucket with
  | none => .next s
  | some b =>
    if b.failing.isSome || b.results.length < b.count || !bucketReach s b then .next s
    else
      let out := wordsBytes b.results
      let s := if b.streamed then s else writeRange s island b.dst out
      .next (endBucket s island bucket b (sha3d256 (trafficOf island b)) (sha3d256 out) 0)

/-- Messages to an island for a context's bid dropped. -/
def dropMail (s : State) (i ctx bid : Nat) : State :=
  { s with panel := { s.panel with
    mail := s.panel.mail.filter fun p => !(p.1 = i && p.2.ctx = ctx && p.2.bid = bid) } }

/-- A bucket fails on an island (R415): its neighbours are told, its dst is undefined, and a stream's results with it. -/
def failBucket (s : State) (i n st : Nat) : State :=
  match bucketOf? s i n with
  | none => s
  | some b =>
    let up := if isRoot b then [] else [b.parent]
    let told := (up ++ b.children ++ b.stray.toList).eraseDups
    let s := told.foldl (sendBody i b .failure) (dropMail s i b.ctx b.bid)
    let s := if b.streamed then s else writeRange s i b.dst (undefinedBytes s.tick 0 (4 * b.count))
    let z := List.replicate 32 (0 : Byte)
    let s := endBucket s i n b z z (failWord st 0x16)
    let left := b.count - b.results.length
    let s := streamResults s i n ((List.range left).map fun j => (Config.freeWord (s.tick * 2 ^ 32 + j)).truncate 32)
    match streamGroup s i n with
    | some k => giveQ3 (grpOf s k).win0.due.length s i k n
    | none => s

/-- BUCKET_FAILURE (R415): a failure found on the island, by a message or by what the engine read. -/
def execBucketFailure (island bucket status : Nat) (s : State) : Out :=
  match bucketOf? s island bucket with
  | none => .next s
  | some b => .next (if bucketReach s b then failBucket s island bucket (b.failing.getD status) else s)

/-- The bucket's time-out has passed. -/
def bucketLate (s : State) (b : Bucket) : Bool := s.panel.ptime ≥ b.since + b.bartime * 1000

/-- BUCKET_TIMEOUT (R415): STATUS 0x1C. -/
def execBucketTimeout (island bucket : Nat) (s : State) : Out :=
  match bucketOf? s island bucket with
  | none => .next s
  | some b => .next (if bucketLate s b && bucketReach s b then failBucket s island bucket 0x1C else s)

/-! ## Receiving (R415) -/

/-- The bucket running on an island for a context and bid. -/
def runningBucket (s : State) (i ctx bid : Nat) : Option (Nat × Bucket) :=
  (islOf s i).buckets.find? fun p => p.2.ctx = ctx && p.2.bid = bid

/-- A message goes up. -/
def goesUp : BucketBody → Bool
  | .scalesUp _ => true
  | .valuesUp _ => true
  | .scalesDown _ => false
  | .result _ => false
  | .failure => false

/-- STATUS 0x1B of a message, a report of failure among them: another mode or count, a child's parent field that does not name
this island, a sender that is neither parent nor child. -/
def mismatched (i : Nat) (b : Bucket) (m : BucketMsg) : Bool :=
  m.bq32 ≠ b.bq32 || m.count ≠ b.count || (m.source ≠ b.parent && !(b.children.contains m.source))
    || (b.children.contains m.source && m.parent ≠ i)

/-- A neighbour's message that goes the other way in its tree than in this island's (a cycle): no case of R415, and it has no
effect (log 15). -/
def aside (b : Bucket) (m : BucketMsg) : Bool :=
  if goesUp m.body then !(b.children.contains m.source) else m.source ≠ b.parent

/-- The bucket has all it takes of this kind from the sender: the message is of the next bucket of the bid. -/
def surplus (b : Bucket) (m : BucketMsg) : Bool :=
  match m.body with
  | .scalesUp _ => b.upScales.any fun p => p.1 = m.source
  | .valuesUp _ => b.count ≤ (fromChild b.upValues m.source).length
  | .scalesDown _ => b.downScales.isSome
  | .result _ => b.count ≤ b.results.length
  | .failure => false

/-- A message has a route to the island. -/
def mailCarried (s : State) (i : Nat) (m : BucketMsg) : Bool :=
  m.source = i ||
    match chooseRoute s m.source s.panel.number i with
    | .route .. => true
    | _ => false

/-- The message can be taken now. -/
def mailReady (s : State) (i : Nat) (m : BucketMsg) : Bool :=
  mailCarried s i m &&
    match runningBucket s i m.ctx m.bid with
    | none => m.body = .failure && (islOf s i).ended.contains (m.ctx, m.bid)
    | some (_, b) => b.failing.isNone && (m.body = .failure || mismatched i b m || aside b m || !surplus b m)

/-- Words appended to those of a child. -/
def addChild (c : Nat) (l : List Word) (t : List (Nat × List Word)) : List (Nat × List Word) :=
  (t.filter fun p => p.1 ≠ c) ++ [(c, fromChild t c ++ l)]

/-- A message taken by a bucket. -/
def takeMessage (s : State) (i n : Nat) (b : Bucket) (m : BucketMsg) : State :=
  let fails := fun (st : Nat) (stray : Option Nat) =>
    modBucket s i n fun b => { b with failing := some st, stray := stray }
  if mismatched i b m then fails 0x1B (some m.source)
  else if m.body = .failure then fails 0x1E none
  else if aside b m then s
  else
    match m.body with
    | .scalesUp l => modBucket s i n fun b => { b with upScales := b.upScales ++ [(m.source, l)] }
    | .valuesUp l => modBucket s i n fun b => { b with upValues := addChild m.source l b.upValues }
    | .scalesDown l => takeScales s i n b l
    | .result l => takeResults s i n b l
    | .failure => s

/-- The oldest message that an island can take now. -/
def nextMail (s : State) (i : Nat) : Option BucketMsg :=
  (s.panel.mail.find? fun p => p.1 = i && mailReady s i p.2).map (·.2)

/-- BUCKET_MESSAGE (R415): the oldest message that the island can take. -/
def execBucketMessage (island : Nat) (s : State) : Out :=
  match nextMail s island with
  | none => .next s
  | some m =>
    let s := { s with panel := { s.panel with mail := dropFirst (island, m) s.panel.mail } }
    match runningBucket s island m.ctx m.bid with
    | none => .next s
    | some (n, b) => .next (bucketMove (takeMessage s island n b m) island n)

end Sys2Proof.Machine
end

