-- ==== Sys2Proof/Machine/Collective.lean ====
section
/-! DEFINITION. COLL, COLW, and the feed queues as programs push and pop them (R145 to R148, R411, R416, R417). -/

namespace Sys2Proof.Machine

open Sys2Proof

/-! ## Bucket descriptors (R411) -/

/-- The children of a descriptor. -/
def descChildren (ws : List DWord) : List Nat :=
  (List.range (objField ws 4 10 8)).map fun j => objField ws 4 (21 + 8 * j) (16 + 8 * j)

/-- A reserved field or code of the descriptor, or a field outside its range (R416). -/
def bucketReserved (n : Nat) (ws : List DWord) : Bool :=
  let f := objField ws
  let count := f 3 31 0
  let nch := f 4 10 8
  f 0 63 34 ≠ 0 || f 0 33 32 ≥ 2 || f 0 15 10 ≠ 0 || f 1 63 57 ≠ 0 || f 2 63 57 ≠ 0 || f 3 63 48 ≠ 0
    || f 4 63 46 ≠ 0 || f 4 39 38 ≠ 0 || f 4 31 30 ≠ 0 || f 4 23 22 ≠ 0 || f 4 15 11 ≠ 0 || f 4 7 6 ≠ 0
    || f 5 63 17 ≠ 0 || f 6 63 57 ≠ 0 || f 7 63 57 ≠ 0
    || count = 0 || count > 2 ^ 28 || (f 0 33 32 = 1 && count % 128 ≠ 0) || nch > 4
    || ((List.range 4).any fun j => nch ≤ j && f 4 (21 + 8 * j) (16 + 8 * j) ≠ 0)
    || ((descChildren ws).any fun c => n ≤ c) || (f 4 5 0 ≠ 63 && n ≤ f 4 5 0)

/-- A range of the context that the engine uses: its address, its bytes, whether it writes. -/
structure Span where
  va : Nat
  len : Nat
  wr : Bool

/-- The ranges of a bucket: src, dst, the watermark record, the scratch. -/
def bucketSpans (ws : List DWord) (streamed : Bool) : List Span :=
  let n := 4 * objField ws 3 31 0
  (if streamed then [] else [⟨objField ws 1 56 0, n, false⟩, ⟨objField ws 2 56 0, n, true⟩])
    ++ [⟨objField ws 6 56 0, 80, true⟩, ⟨objField ws 7 56 0, n * (objField ws 4 10 8 + 2), true⟩]

/-- What the checks of the ranges come to: for each its translated pieces, all hits, the misses and whether one was to be
written. -/
structure SpansOk where
  pieces : List (List EnginePiece) := []
  hits : List Hit := []
  misses : List Miss := []
  wr : Bool := false

/-- The outcome of the checks. -/
inductive SpansAns where
  | fault (s : State) (c : Cause)
  | wait (s : State)
  | go (s : State) (r : SpansOk)

/-- Steps 3 to 7 of R298 for each range in turn. -/
def checkSpans (cx : Cx) : State → SpansOk → List Span → SpansAns
  | s, r, [] => .go s r
  | s, r, p :: t =>
    let ps := localPieces p.va p.len
    match checkLocal s cx p.wr p.va p.len ps with
    | .fault s c => .fault s c
    | .wait s => .wait s
    | .go s hs ms =>
      checkSpans cx s { pieces := r.pieces ++ [enginePieces hs ps], hits := r.hits ++ hs, misses := r.misses ++ ms
                        wr := r.wr || (p.wr && ms ≠ []) } t

/-! ## COLL and COLW (R416) -/

/-- The faults up to the ranges. -/
def collFault (s : State) (cx : Cx) (streamed : Bool) (a : DWord) : Option Cause :=
  let id := cx.g.ident
  let idx := bits a.toNat 15 0
  let ws := objWords s id.island idx
  if bits a.toNat 63 16 ≠ 0 then some { cls := 0x01, status := 2 }
  else if !objUsable ws 2 id.ctx .read then some (objFault idx 0)
  else if bucketReserved s.panel.ncount ws then some (objFault idx 0x10)
  else if streamed && cx.g.stream.isSome then some { cls := 0x01, status := 3 }
  else if objField ws 1 3 0 ≠ 0 || objField ws 2 3 0 ≠ 0 || objField ws 6 3 0 ≠ 0 then some { cls := 0x08, status := 1 }
  else none

/-- The inputs of COLL, read at acceptance: the words, and whether poisoned data was met. -/
def readInputs (s : State) (i : Nat) (ps : List EnginePiece) : State × List Word × Bool :=
  let r := (rangeSpans ps 0 (rangeBytes ps)).foldl (fun (acc : State × List Byte × Bool) x =>
    let d := readSpan acc.1 i x.1 0 x.2.2.2.1
    (touchSpan i x.2.1 x.1 x.2.2.2.1 false acc.1, acc.2.1 ++ d.1, acc.2.2 || d.2 ≠ [])) (s, [], false)
  (r.1, (List.range (r.2.1.length / 4)).map fun j => BitVec.ofNat 32 (leNat ((r.2.1.drop (4 * j)).take 4)), r.2.2)

/-- S[d] written, the fragment past the instruction. -/
def collEnd (s : State) (cx : Cx) (d st : Nat) : State :=
  modGrp s cx.key fun g => advance 4 cx.ix { g with regs := writeS g.regs d (BitVec.ofNat 64 st) }

/-- The bucket of a descriptor, its ranges translated. -/
def bucketOfDesc (s : State) (cx : Cx) (ws : List DWord) (streamed : Bool) (r : SpansOk) : Bucket :=
  let k := if streamed then 0 else 2
  { ctx := cx.g.ident.ctx, bid := objField ws 3 47 32, bq32 := objField ws 0 33 32 = 1, count := objField ws 3 31 0
    parent := objField ws 4 5 0, children := descChildren ws, nne := objField ws 5 16 16 = 1, nctr := objField ws 5 15 0
    streamed := streamed, dst := if streamed then [] else nth r.pieces 1, wmark := nth r.pieces k
    scratch := nth r.pieces (k + 1), bartime := (teamOf s cx.g.ident.team).bartime, since := s.panel.ptime }

/-- The bucket starts on the island (R412, R413, R417). -/
def startBucket (s : State) (cx : Cx) (b : Bucket) (src : List EnginePiece) (pins : List (Nat × Nat × Nat)) : State :=
  let i := cx.g.ident.island
  let n := s.seq
  let s := pinAll s i cx.g.ident.ctx pins
  let r := if b.streamed then (s, [], false) else readInputs s i src
  let b := { b with pins := pins.map (·.1), inputs := r.2.1, failing := if r.2.2 then some 0x1F else none }
  let s := modIsl { r.1 with seq := n + 1 } i fun x => { x with
    buckets := tblSet x.buckets n b
    streams := if b.streamed then tblSet x.streams n { count := b.count } else x.streams
    ended := x.ended.filter (· ≠ (b.ctx, b.bid)) }
  let s := panelRelease s cx.key (fullMask (lanesIn cx.g))
  let s := modGrp s cx.key fun g => { g with stream := if b.streamed then some n else g.stream }
  bucketMove s i n

/-- The form of COLL and COLW. -/
def collForm (st : BitVec 2) (d a : BitVec 6) : Form := { ctlForm st [sUse a.toNat] with dsts := [.s d.toNat] }

/-- COLL and COLW. -/
def collOp (streamed : Bool) (st : BitVec 2) (d a : BitVec 6) : State → Out :=
  issue (collForm st d a) fun cx s =>
    let id := cx.g.ident
    let w := readS cx.g.regs a.toNat
    let ws := objWords s id.island (bits w.toNat 15 0)
    match collFault s cx streamed w with
    | some c => .flt c
    | none =>
      match checkSpans cx s {} (bucketSpans ws streamed) with
      | .fault s c => .fltAt s c
      | .wait s => .waitAt s
      | .go s r =>
        if r.misses ≠ [] then .out (park s cx .uniform (if r.wr then .write else .read) 4 r.misses)
        else if (islOf s id.island).buckets.length ≥ 16 then .ok (collEnd s cx d.toNat 2)
        else if (runningBucket s id.island id.ctx (objField ws 3 47 32)).isSome then .ok (collEnd s cx d.toNat 3)
        else
          let pins := pinPages r.hits
          if !pinsFit (islOf s id.island).mem pins then .waitAt s
          else .ok (startBucket (collEnd s cx d.toNat 0) cx (bucketOfDesc s cx ws streamed r) (nth r.pieces 0) pins)

/-- COLL (R416). -/
def execColl (st : BitVec 2) (d a : BitVec 6) (s : State) : Out := collOp false st d a s

/-- COLW (R416, R417). -/
def execColw (st : BitVec 2) (d a : BitVec 6) (s : State) : Out := collOp true st d a s

/-! ## FEEDW and FEEDR (R145, R147, R148) -/

/-- The group's stream moved on. -/
def ownStream (s : State) (cx : Cx) : State :=
  match (grpOf s cx.key).stream with
  | some n => streamStep s cx.g.ident.island cx.key n
  | none => s

/-- The form of FEEDW. -/
def feedwForm (st : BitVec 2) (a : BitVec 7) (m : BitVec 2) : Form :=
  { st := st
    bad := fun cx => badV cx a.toNat (fmtRegs m)
    uses := fun _ l => vUse a.toNat (fmtRegs m) l }

/-- The form of FEEDR. -/
def feedrForm (st : BitVec 2) (d : BitVec 7) (m : BitVec 2) : Form :=
  { st := st, bad := fun cx => badV cx d.toNat (fmtRegs m), dsts := vDst d.toNat (fmtRegs m) }

/-- FEEDW (R145, R148). -/
def execFeedw (st : BitVec 2) (q : BitVec 1) (a b : BitVec 7) (m : BitVec 2) (s : State) : Out :=
  issue (feedwForm st a m) (fun cx s =>
    let w := selWin cx.g
    let e := pushedEntry cx s.seq a b m
    let put := fun (f : FeedWindow → FeedWindow) =>
      { setGrp s cx.key (advance 4 cx.ix (modWin (winNo cx.g) f cx.g)) with seq := s.seq + 1 }
    if q = 0 then
      if w.q0.length < 8 then .ok (put fun w => { w with q0 := w.q0 ++ [e] })
      else if q1Load w ≥ 8 then feedFault 2
      else .wait
    else if cx.g.hmode || cx.g.stream.isNone then feedFault 5
    else if w.q2.length < 8 then .ok (ownStream (put fun w => { w with q2 := w.q2 ++ [e] }) cx)
    else waitFeed s cx) s

/-- The body of FEEDR from Q1. -/
def popQ1 (d : BitVec 7) (m : BitVec 2) (cx : Cx) (s : State) : Res :=
  let w := selWin cx.g
  match w.q1 with
  | e :: t =>
    if e.fmt ≠ m then feedFault 1
    else .ok (setGrp s cx.key (advance 4 cx.ix (popInto e d m cx (modWin (winNo cx.g) (fun w => { w with q1 := t }) cx.g))))
  | [] => if w.q0 = [] && w.taken = [] then feedFault 3 else .wait

/-- The body of FEEDR from Q3 of the program window, after what the stream can give has come. -/
def popQ3 (d : BitVec 7) (m : BitVec 2) (cx : Cx) (s : State) : Res :=
  let s := ownStream s cx
  let g := grpOf s cx.key
  match g.win0.q3 with
  | e :: t =>
    if e.fmt ≠ m then feedFault 1
    else
      let g := advance 4 cx.ix (popInto e d m cx { g with win0 := { g.win0 with q3 := t } })
      let s := setGrp s cx.key g
      .ok (unbind (ownStream s cx) cx.key)
  | [] => waitFeed s cx

/-- FEEDR (R147, R148). -/
def execFeedr (st : BitVec 2) (d : BitVec 7) (q : BitVec 1) (m : BitVec 2) (s : State) : Out :=
  issue (feedrForm st d m) (fun cx s =>
    if q = 0 then popQ1 d m cx s
    else if cx.g.hmode || cx.g.stream.isNone then feedFault 5
    else popQ3 d m cx s) s

end Sys2Proof.Machine
end

