-- ==== Sys2Proof/Machine/System.lean ====
section
/-! DEFINITION. RDSR and WRSR, and the system registers of the management core (R33 to R38, R165, R249, R250, R318,
R329, R382, R386, R408, R424). -/

namespace Sys2Proof.Machine

open Sys2Proof

/-! ## Which registers there are (R33) -/

/-- A number below 0x20 that names a register. -/
def groupRegister (n : Nat) : Bool := n ≤ 0x0A || (0x10 ≤ n && n ≤ 0x15)

/-- The register exists on the issuing core. -/
def registerExists (cx : Cx) (n : Nat) : Bool :=
  if n < 0x20 then groupRegister n else n = 0x20 || (cx.g.ident.mgmt && n ≤ 0x2F)

/-- The register is read-only in the current mode. -/
def readOnly (cx : Cx) (n : Nat) : Bool :=
  n = 0 || n = 0x0A || (0x10 ≤ n && n ≤ 0x15) || [0x20, 0x24, 0x27, 0x2A, 0x2B, 0x2D].contains n
    || (!cx.g.hmode && (n = 1 || (4 ≤ n && n ≤ 7)))

/-! ## Reading -/

/-- CTXST: BUSY, CTX, STATUS, and the state of CTX (R318). -/
def ctxStWord (s : State) (i : Nat) : Nat :=
  let x := islOf s i
  let code := match (ctxOf s i x.ctxCtx).state with
    | .built => 0 | .resident => 1 | .running => 2 | .halting => 3
    | .parked => 4 | .saved => 5 | .faulted => 6 | .terminated => 7
  (if x.ctxBusy then 2 ^ 63 else 0) + x.ctxCtx % 65536 * 2 ^ 32 + x.ctxStatus % 256 * 2 ^ 8 + code

/-- XCST (R386). -/
def xcstWord (m : Matrix) : Nat :=
  (if m.busy then 2 ^ 63 else 0) + m.lastWear % 2 ^ 27 * 2 ^ 21 + m.lastRow % 32 * 2 ^ 16 + m.status % 256 * 2 ^ 8

/-- LNKST (R382). -/
def lnkstWord (s : State) (i : Nat) : Nat :=
  (List.range 12).foldl (fun a p => a + linkCode (portOf s i p).state * 8 ^ p) 0

/-- The fields of a write-only register; its reserved bits read zero (R6, R250, R318, R386). -/
def writeOnlyFields (n : Nat) : DWord :=
  match n with
  | 0x21 => 0x3FFFFFFFF#64
  | 0x26 => 0x0000FFFF000000FF#64
  | 0x29 => 0x30F1F#64
  | _ => 0#64

/-- A system register's value; what the fields of a write-only one read is free (log 6). -/
def systemRead (s : State) (i core n : Nat) : Nat :=
  let x := islOf s i
  match n with
  | 0x20 => (tblGet x.cores core).chtag.toNat
  | 0x22 => x.mem.frqBase
  | 0x23 => x.mem.frqHead
  | 0x24 => x.mem.frqTail
  | 0x25 => x.mem.ctxBase
  | 0x27 => ctxStWord s i
  | 0x28 => x.beatp
  | 0x2A => xcstWord x.matrix
  | 0x2B => lnkstWord s i
  | 0x2C => x.pwrlim
  | 0x2D => x.mhz % 4096 + dieTemperature s * 2 ^ 16
  | 0x2E => x.ncsel
  | 0x2F => (ctrOf s i x.ncsel).toNat
  | n => (Config.freeWord s.tick &&& writeOnlyFields n).toNat

/-- A register's value (R34 to R37); CLOCK is the clock in which the RDSR issues. -/
def registerRead (s : State) (cx : Cx) (n : Nat) : DWord :=
  let r := cx.g.special
  let id := cx.g.ident
  match n with
  | 0x00 => gstat cx.g
  | 0x01 => r.prog
  | 0x02 => r.flags
  | 0x03 => r.fpctl
  | 0x04 => r.tcause
  | 0x05 => r.tspc
  | 0x06 => r.tstat
  | 0x07 => r.tmask
  | 0x08 => r.cutcnt
  | 0x09 => r.xlflag
  | 0x0A => BitVec.ofNat 64 (issueClock s cx)
  | 0x10 => BitVec.ofNat 64 id.ctx
  | 0x11 => id.kern.zeroExtend 64
  | 0x12 => id.teamId.zeroExtend 64
  | 0x13 => BitVec.ofNat 64 id.groupId
  | 0x14 => BitVec.ofNat 64 id.coreReg
  | 0x15 => BitVec.ofNat 64 id.islandReg
  | n => BitVec.ofNat 64 (systemRead s id.island id.core n)

/-- The form of RDSR. -/
def rdsrForm (st : BitVec 2) (d n : BitVec 6) : Form :=
  { ctlForm st [] with
    dsts := [.s d.toNat], priv := n.toNat ≥ 0x20, bad0 := fun cx => !registerExists cx n.toNat }

/-- RDSR (R329). -/
def execRdsr (st : BitVec 2) (d n : BitVec 6) (s : State) : Out :=
  issue (rdsrForm st d n) (fun cx s =>
    if (n = 2 || n = 8) && !flagsSettled cx.g then .wait
    else finish 4 (fun r => writeS r d.toNat (registerRead s cx n.toNat)) cx s) s

/-! ## Writing -/

/-- The writable bits of a register below 0x20 (R36). -/
def writableBits (n : Nat) : DWord :=
  match n with
  | 0x01 => 0x80000000FFFFFFFF#64
  | 0x02 => 0x1F#64
  | 0x03 => 0x1F03#64
  | 0x04 => 0xFFFFFFFF00FFFFFF#64
  | 0x05 => 0x01FFFFFFFFFFFFFC#64
  | 0x06 => 0xFFFFFFFFFFFFFFFF#64
  | 0x07 => 0xFFFFFFFFFFFFFFFF#64
  | 0x08 => 0xFFFFFFFFFFFFFFFF#64
  | 0x09 => 1#64
  | _ => 0#64

/-- A special register of the group written by its field map (R36). -/
def registerWrite (n : Nat) (x : DWord) (r : SpecialRegs) : SpecialRegs :=
  let v := x &&& writableBits n
  match n with
  | 0x01 => { r with prog := v }
  | 0x02 => { r with flags := v }
  | 0x03 => { r with fpctl := v }
  | 0x04 => { r with tcause := v }
  | 0x05 => { r with tspc := v }
  | 0x06 => { r with tstat := v }
  | 0x07 => { r with tmask := v }
  | 0x08 => { r with cutcnt := v }
  | 0x09 => { r with xlflag := v }
  | _ => r

/-- A system register with no behaviour of its own; a base that is not aligned or not in HBM is not taken (log 16). -/
def plainWrite (s : State) (i n v : Nat) : State :=
  match n with
  | 0x22 => if v % 2 ^ 19 = 0 && v < hbmEnd then modMem s i fun m => { m with frqBase := v } else s
  | 0x23 => modMem s i fun m => { m with frqHead := bits v 11 0 }
  | 0x25 => if v % 2 ^ 16 = 0 && v < hbmEnd then modMem s i fun m => { m with ctxBase := v } else s
  | 0x2E => modIsl s i fun x => { x with ncsel := bits v 15 0 }
  | _ => s

/-- A system register written. -/
def systemWrite (s : State) (i n v : Nat) : State :=
  match n with
  | 0x21 => releasePark s i (bits v 31 0) (bits v 33 32)
  | 0x26 => ctxCommand s i (bits v 47 32) (bits v 7 0)
  | 0x28 => modIsl s i fun x => { x with beatp := let b := bits v 13 0; if 10 ≤ b && b ≤ 10000 then b else 100 }
  | 0x29 =>
    let clean := bits v 63 18 = 0 && bits v 15 12 = 0 && bits v 7 5 = 0
    xcellWrite s i (if clean then bits v 17 16 else 2) (bits v 4 0) (bits v 11 8)
  | 0x2C => modIsl s i fun x => { x with pwrlim := powerLimit v }
  | 0x2F => ctrSet s i (islOf s i).ncsel (BitVec.ofNat 64 v)
  | n => plainWrite s i n v

/-- The write must wait: for the group's earlier flags and cuts (R38), for its chains (R159), or for BUSY (R318, R386). -/
def writeWaits (s : State) (cx : Cx) (n v : Nat) : Bool :=
  let i := cx.g.ident.island
  match n with
  | 0x02 => !flagsSettled cx.g
  | 0x08 => !flagsSettled cx.g
  | 0x03 => cx.g.chains ≠ []
  | 0x09 => cx.g.chains ≠ []
  | 0x26 => cmdWaits s i (bits v 47 32) (bits v 7 0)
  | 0x29 => (islOf s i).matrix.busy
  | _ => false

/-- The form of WRSR. -/
def wrsrForm (st : BitVec 2) (n a : BitVec 6) : Form :=
  { ctlForm st [sUse a.toNat] with
    priv := n.toNat ≥ 0x20
    bad0 := fun cx => !registerExists cx n.toNat
    bad := fun cx => readOnly cx n.toNat }

/-- WRSR (R329). -/
def execWrsr (st : BitVec 2) (n a : BitVec 6) (s : State) : Out :=
  issue (wrsrForm st n a) (fun cx s =>
    let x := readS cx.g.regs a.toNat
    if writeWaits s cx n.toNat x.toNat then .wait
    else if n.toNat < 0x20 then
      .ok (setGrp s cx.key (advance 4 cx.ix { cx.g with special := registerWrite n.toNat x cx.g.special }))
    else .ok (systemWrite (setGrp s cx.key (advance 4 cx.ix cx.g)) cx.g.ident.island n.toNat x.toNat)) s

/-- SYSTEM_REGISTER_WRITE (R33): FRQBASE, FRQHEAD, CTXBASE, NCSEL. -/
def execSystemRegisterWrite (island num : Nat) (val : DWord) (s : State) : Out :=
  .next (plainWrite s island num val.toNat)

end Sys2Proof.Machine
end

