-- ==== Sys2Proof/Machine/Dispatch.lean ====
section
/-! DEFINITION. One arm per constructor of Instr: the meaning each has. -/

namespace Sys2Proof.Machine

open Sys2Proof

def exec (i : Instr) (s : State) : Host.Outcome State Fault Refusal :=
  match i with
  | .iadd st d a b m => Sys2Proof.Machine.execIadd st d a b m s
  | .isub st d a b m => Sys2Proof.Machine.execIsub st d a b m s
  | .imul st d a b m => Sys2Proof.Machine.execImul st d a b m s
  | .imulh st d a b m => Sys2Proof.Machine.execImulh st d a b m s
  | .imad st d a b m => Sys2Proof.Machine.execImad st d a b m s
  | .imin st d a b m => Sys2Proof.Machine.execImin st d a b m s
  | .imax st d a b m => Sys2Proof.Machine.execImax st d a b m s
  | .iaddsat st d a b m => Sys2Proof.Machine.execIaddsat st d a b m s
  | .and st d a b m => Sys2Proof.Machine.execAnd st d a b m s
  | .or st d a b m => Sys2Proof.Machine.execOr st d a b m s
  | .xor st d a b m => Sys2Proof.Machine.execXor st d a b m s
  | .andn st d a b m => Sys2Proof.Machine.execAndn st d a b m s
  | .shl st d a b m => Sys2Proof.Machine.execShl st d a b m s
  | .shr st d a b m => Sys2Proof.Machine.execShr st d a b m s
  | .icmp st p c a b m => Sys2Proof.Machine.execIcmp st p c a b m s
  | .iun st d a u m => Sys2Proof.Machine.execIun st d a u m s
  | .iaddi st d a imm => Sys2Proof.Machine.execIaddi st d a imm s
  | .andi st d a imm => Sys2Proof.Machine.execAndi st d a imm s
  | .ori st d a imm => Sys2Proof.Machine.execOri st d a imm s
  | .xori st d a imm => Sys2Proof.Machine.execXori st d a imm s
  | .shli st d a n => Sys2Proof.Machine.execShli st d a n s
  | .shri st d a h n => Sys2Proof.Machine.execShri st d a h n s
  | .icmpi st p c a imm => Sys2Proof.Machine.execIcmpi st p c a imm s
  | .movl st d imm => Sys2Proof.Machine.execMovl st d imm s
  | .movh st d imm => Sys2Proof.Machine.execMovh st d imm s
  | .sel st d a b p => Sys2Proof.Machine.execSel st d a b p s
  | .shfl st d a b m => Sys2Proof.Machine.execShfl st d a b m s
  | .shfli st d a m n => Sys2Proof.Machine.execShfli st d a m n s
  | .lanev st d => Sys2Proof.Machine.execLanev st d s
  | .plog st p t x y => Sys2Proof.Machine.execPlog st p t x y s
  | .vote st p c x => Sys2Proof.Machine.execVote st p c x s
  | .voteBallot st x b => Sys2Proof.Machine.execVoteBallot st x b s
  | .redux st d a b m => Sys2Proof.Machine.execRedux st d a b m s
  | .fadd st d a b m => Sys2Proof.Machine.execFadd st d a b m s
  | .fsub st d a b m => Sys2Proof.Machine.execFsub st d a b m s
  | .fmul st d a b m => Sys2Proof.Machine.execFmul st d a b m s
  | .fma st d a b m => Sys2Proof.Machine.execFma st d a b m s
  | .fmin st d a b m => Sys2Proof.Machine.execFmin st d a b m s
  | .fmax st d a b m => Sys2Proof.Machine.execFmax st d a b m s
  | .fdiv st d a b m => Sys2Proof.Machine.execFdiv st d a b m s
  | .fcmp st p c a b m => Sys2Proof.Machine.execFcmp st p c a b m s
  | .funOp st d a u m => Sys2Proof.Machine.execFunOp st d a u m s
  | .fscl st d a b m => Sys2Proof.Machine.execFscl st d a b m s
  | .cvt st d a t u x => Sys2Proof.Machine.execCvt st d a t u x s
  | .bqnt st d a c f => Sys2Proof.Machine.execBqnt st d a c f s
  | .bdq st d a c f => Sys2Proof.Machine.execBdq st d a c f s
  | .feedw st q a b m => Sys2Proof.Machine.execFeedw st q a b m s
  | .feedr st d q m => Sys2Proof.Machine.execFeedr st d q m s
  | .ld st d a t w q x => Sys2Proof.Machine.execLd st d a t w q x s
  | .st st d a t w q x => Sys2Proof.Machine.execSt st d a t w q x s
  | .ldt st d a w x => Sys2Proof.Machine.execLdt st d a w x s
  | .stt st d a w x => Sys2Proof.Machine.execStt st d a w x s
  | .atom st d a t w q x data aop sem scope sc => Sys2Proof.Machine.execAtom st d a t w q x data aop sem scope sc s
  | .acas st d a t w q x data cmp sem scope sc => Sys2Proof.Machine.execAcas st d a t w q x data cmp sem scope sc s
  | .atomt st d a w x data aop sem scope sc => Sys2Proof.Machine.execAtomt st d a w x data aop sem scope sc s
  | .acp16 st d a t b => Sys2Proof.Machine.execAcp16 st d a t b s
  | .prf st a t w q x => Sys2Proof.Machine.execPrf st a t w q x s
  | .lda st d a t w c x => Sys2Proof.Machine.execLda st d a t w c x s
  | .sta st d a t w c x => Sys2Proof.Machine.execSta st d a t w c x s
  | .mma st h t a y b z n => Sys2Proof.Machine.execMma st h t a y b z n s
  | .tld st h t a => Sys2Proof.Machine.execTld st h t a s
  | .tst st h t a => Sys2Proof.Machine.execTst st h t a s
  | .uadd st d a b m => Sys2Proof.Machine.execUadd st d a b m s
  | .usub st d a b m => Sys2Proof.Machine.execUsub st d a b m s
  | .umul st d a b m => Sys2Proof.Machine.execUmul st d a b m s
  | .umulh st d a b m => Sys2Proof.Machine.execUmulh st d a b m s
  | .uand st d a b m => Sys2Proof.Machine.execUand st d a b m s
  | .uor st d a b m => Sys2Proof.Machine.execUor st d a b m s
  | .uxor st d a b m => Sys2Proof.Machine.execUxor st d a b m s
  | .ushl st d a b m => Sys2Proof.Machine.execUshl st d a b m s
  | .ushr st d a b m => Sys2Proof.Machine.execUshr st d a b m s
  | .umin st d a b m => Sys2Proof.Machine.execUmin st d a b m s
  | .umax st d a b m => Sys2Proof.Machine.execUmax st d a b m s
  | .ucmp st c a b m => Sys2Proof.Machine.execUcmp st c a b m s
  | .usel st d a b c => Sys2Proof.Machine.execUsel st d a b c s
  | .uaddi st d a imm => Sys2Proof.Machine.execUaddi st d a imm s
  | .uandi st d a imm => Sys2Proof.Machine.execUandi st d a imm s
  | .ucmpi st c n a imm => Sys2Proof.Machine.execUcmpi st c n a imm s
  | .umovi st d h imm => Sys2Proof.Machine.execUmovi st d h imm s
  | .uun st d a u m => Sys2Proof.Machine.execUun st d a u m s
  | .clog st c x y t => Sys2Proof.Machine.execClog st c x y t s
  | .uld st d a t w q x => Sys2Proof.Machine.execUld st d a t w q x s
  | .ust st d a t w q x => Sys2Proof.Machine.execUst st d a t w q x s
  | .uatom st d a o e c k z => Sys2Proof.Machine.execUatom st d a o e c k z s
  | .bra st f => Sys2Proof.Machine.execBra st f s
  | .brc st c n f => Sys2Proof.Machine.execBrc st c n f s
  | .brp st p n f => Sys2Proof.Machine.execBrp st p n f s
  | .brx st a => Sys2Proof.Machine.execBrx st a s
  | .call st f => Sys2Proof.Machine.execCall st f s
  | .ret st => Sys2Proof.Machine.execRet st s
  | .exit st => Sys2Proof.Machine.execExit st s
  | .yield st => Sys2Proof.Machine.execYield st s
  | .nop st => Sys2Proof.Machine.execNop st s
  | .wait st k => Sys2Proof.Machine.execWait st k s
  | .sleep st n => Sys2Proof.Machine.execSleep st n s
  | .bpt st k => Sys2Proof.Machine.execBpt st k s
  | .trap st k => Sys2Proof.Machine.execTrap st k s
  | .tret st => Sys2Proof.Machine.execTret st s
  | .tfence st => Sys2Proof.Machine.execTfence st s
  | .mfence st k c => Sys2Proof.Machine.execMfence st k c s
  | .rgrow st n => Sys2Proof.Machine.execRgrow st n s
  | .rshrink st n => Sys2Proof.Machine.execRshrink st n s
  | .trld st t a b => Sys2Proof.Machine.execTrld st t a b s
  | .trinv st a b p => Sys2Proof.Machine.execTrinv st a b p s
  | .rdsr st d n => Sys2Proof.Machine.execRdsr st d n s
  | .wrsr st n a => Sys2Proof.Machine.execWrsr st n a s
  | .flgs st d m => Sys2Proof.Machine.execFlgs st d m s
  | .flgsClr st d m => Sys2Proof.Machine.execFlgsClr st d m s
  | .flgsSet st d m => Sys2Proof.Machine.execFlgsSet st d m s
  | .binit st n t k => Sys2Proof.Machine.execBinit st n t k s
  | .barv st n t d k => Sys2Proof.Machine.execBarv st n t d k s
  | .bexp st n t a => Sys2Proof.Machine.execBexp st n t a s
  | .bexpImm st n t imm => Sys2Proof.Machine.execBexpImm st n t imm s
  | .bwait st n t a f => Sys2Proof.Machine.execBwait st n t a f s
  | .btry st n t a c => Sys2Proof.Machine.execBtry st n t a c s
  | .binv st n t => Sys2Proof.Machine.execBinv st n t s
  | .tcopy st c n e d => Sys2Proof.Machine.execTcopy st c n e d s
  | .tsto st c n e d => Sys2Proof.Machine.execTsto st c n e d s
  | .tpref st c n e => Sys2Proof.Machine.execTpref st c n e s
  | .mmap st c n e b p l z y => Sys2Proof.Machine.execMmap st c n e b p l z y s
  | .mmsc st a b => Sys2Proof.Machine.execMmsc st a b s
  | .tzero st t n => Sys2Proof.Machine.execTzero st t n s
  | .tepi st t e f p a => Sys2Proof.Machine.execTepi st t e f p a s
  | .chain st l k => Sys2Proof.Machine.execChain st l k s
  | .put st d b => Sys2Proof.Machine.execPut st d b s
  | .get st d b => Sys2Proof.Machine.execGet st d b s
  | .ratom st d b e o z => Sys2Proof.Machine.execRatom st d b e o z s
  | .notify st d b => Sys2Proof.Machine.execNotify st d b s
  | .waitn st c v f => Sys2Proof.Machine.execWaitn st c v f s
  | .rfence st => Sys2Proof.Machine.execRfence st s
  | .coll st d a => Sys2Proof.Machine.execColl st d a s
  | .colw st d a => Sys2Proof.Machine.execColw st d a s
  | .qpush st d a b => Sys2Proof.Machine.execQpush st d a b s
  | .pfence st d a => Sys2Proof.Machine.execPfence st d a s
  | .pfenceRel st d a => Sys2Proof.Machine.execPfenceRel st d a s
  | .vcdef st d a => Sys2Proof.Machine.execVcdef st d a s
  | .vcrsz st d a => Sys2Proof.Machine.execVcrsz st d a s
  | .vcret st d a => Sys2Proof.Machine.execVcret st d a s
  | .vcq st d a => Sys2Proof.Machine.execVcq st d a s
  | .vcwb st a b c x => Sys2Proof.Machine.execVcwb st a b c x s
  | .vcinv st a b c x => Sys2Proof.Machine.execVcinv st a b c x s
  | .monr st d n f => Sys2Proof.Machine.execMonr st d n f s
  | .moncCfg st n a => Sys2Proof.Machine.execMoncCfg st n a s
  | .moncClr st n => Sys2Proof.Machine.execMoncClr st n s
  | .moncRel st n => Sys2Proof.Machine.execMoncRel st n s
  | .routeMapInvalidate island => Sys2Proof.Machine.execRouteMapInvalidate island s
  | .contextStatePropagate => Sys2Proof.Machine.execContextStatePropagate s
  | .stallCountExpiry grp => Sys2Proof.Machine.execStallCountExpiry grp s
  | .sleepExpiry grp frag => Sys2Proof.Machine.execSleepExpiry grp frag s
  | .waitHoldEnd grp frag => Sys2Proof.Machine.execWaitHoldEnd grp frag s
  | .mfenceHoldEnd grp frag => Sys2Proof.Machine.execMfenceHoldEnd grp frag s
  | .rgrowClaimServed island core => Sys2Proof.Machine.execRgrowClaimServed island core s
  | .claimDeadlock island core => Sys2Proof.Machine.execClaimDeadlock island core s
  | .trapEntry grp => Sys2Proof.Machine.execTrapEntry grp s
  | .exitDrainEnd grp => Sys2Proof.Machine.execExitDrainEnd grp s
  | .chainRetire grp frag => Sys2Proof.Machine.execChainRetire grp frag s
  | .mmaRetire grp op => Sys2Proof.Machine.execMmaRetire grp op s
  | .mmapBlockComplete grp => Sys2Proof.Machine.execMmapBlockComplete grp s
  | .mmapRetire grp => Sys2Proof.Machine.execMmapRetire grp s
  | .barvArrival grp frag => Sys2Proof.Machine.execBarvArrival grp frag s
  | .engineLanding island op => Sys2Proof.Machine.execEngineLanding island op s
  | .acp16Landing island op => Sys2Proof.Machine.execAcp16Landing island op s
  | .barrierTimeout tm key => Sys2Proof.Machine.execBarrierTimeout tm key s
  | .faultRecordEnqueue island => Sys2Proof.Machine.execFaultRecordEnqueue island s
  | .vcClaimDrained island vn => Sys2Proof.Machine.execVcClaimDrained island vn s
  | .vcSweepLine island vn => Sys2Proof.Machine.execVcSweepLine island vn s
  | .vcResizeEnd island vn => Sys2Proof.Machine.execVcResizeEnd island vn s
  | .vcDrainStart island vn => Sys2Proof.Machine.execVcDrainStart island vn s
  | .vcDrainEnd island vn => Sys2Proof.Machine.execVcDrainEnd island vn s
  | .loadReturn grp op => Sys2Proof.Machine.execLoadReturn grp op s
  | .storePerformed grp op => Sys2Proof.Machine.execStorePerformed grp op s
  | .homeOwnershipRequest island slice sector cores => Sys2Proof.Machine.execHomeOwnershipRequest island slice sector cores s
  | .protectionRefusal island agent mk home ctx core slot pc mask => Sys2Proof.Machine.execProtectionRefusal island agent mk home ctx core slot pc mask s
  | .place island ctx => Sys2Proof.Machine.execPlace island ctx s
  | .halt island ctx => Sys2Proof.Machine.execHalt island ctx s
  | .haltComplete island ctx => Sys2Proof.Machine.execHaltComplete island ctx s
  | .save island ctx => Sys2Proof.Machine.execSave island ctx s
  | .resume island ctx => Sys2Proof.Machine.execResume island ctx s
  | .restore island ctx => Sys2Proof.Machine.execRestore island ctx s
  | .restoreComplete island ctx => Sys2Proof.Machine.execRestoreComplete island ctx s
  | .terminate island ctx => Sys2Proof.Machine.execTerminate island ctx s
  | .release island ctx => Sys2Proof.Machine.execRelease island ctx s
  | .unplace island ctx => Sys2Proof.Machine.execUnplace island ctx s
  | .progressBeat island core => Sys2Proof.Machine.execProgressBeat island core s
  | .heartbeat island core => Sys2Proof.Machine.execHeartbeat island core s
  | .teamPlacement island ctx => Sys2Proof.Machine.execTeamPlacement island ctx s
  | .create queue base cfg => Sys2Proof.Machine.execCreate queue base cfg s
  | .enable queue => Sys2Proof.Machine.execEnable queue s
  | .drain queue => Sys2Proof.Machine.execDrain queue s
  | .reset queue => Sys2Proof.Machine.execReset queue s
  | .destroy queue => Sys2Proof.Machine.execDestroy queue s
  | .qtailWrite queue val => Sys2Proof.Machine.execQtailWrite queue val s
  | .queuePacketRead => Sys2Proof.Machine.execQueuePacketRead s
  | .launch queue => Sys2Proof.Machine.execLaunch queue s
  | .waitPacket queue => Sys2Proof.Machine.execWaitPacket queue s
  | .waitPacketTimeout queue => Sys2Proof.Machine.execWaitPacketTimeout queue s
  | .signal queue => Sys2Proof.Machine.execSignal queue s
  | .copy queue => Sys2Proof.Machine.execCopy queue s
  | .vcdefPacket queue => Sys2Proof.Machine.execVcdefPacket queue s
  | .order queue => Sys2Proof.Machine.execOrder queue s
  | .stamp queue => Sys2Proof.Machine.execStamp queue s
  | .packetComplete pkt => Sys2Proof.Machine.execPacketComplete pkt s
  | .linkTrainingComplete island port ints cas floats inner => Sys2Proof.Machine.execLinkTrainingComplete island port ints cas floats inner s
  | .linkTrainingTimeout island port => Sys2Proof.Machine.execLinkTrainingTimeout island port s
  | .linkRetrainingTrigger island trigger => Sys2Proof.Machine.execLinkRetrainingTrigger island trigger s
  | .linkRelock island port => Sys2Proof.Machine.execLinkRelock island port s
  | .linkRetrainingTimeout island port => Sys2Proof.Machine.execLinkRetrainingTimeout island port s
  | .linkRetryTimer island port => Sys2Proof.Machine.execLinkRetryTimer island port s
  | .flitIdle island port flit => Sys2Proof.Machine.execFlitIdle island port flit s
  | .flitRequest island port flit pkt => Sys2Proof.Machine.execFlitRequest island port flit pkt s
  | .flitResponse island port flit pkt => Sys2Proof.Machine.execFlitResponse island port flit pkt s
  | .flitNak island port flit => Sys2Proof.Machine.execFlitNak island port flit s
  | .flitKeyControl island port flit msg => Sys2Proof.Machine.execFlitKeyControl island port flit msg s
  | .routerPacket island k => Sys2Proof.Machine.execRouterPacket island k s
  | .routeFailureNotice island op part => Sys2Proof.Machine.execRouteFailureNotice island op part s
  | .routeErrorNotice island op => Sys2Proof.Machine.execRouteErrorNotice island op s
  | .replacementRoute src dst entry hops alt => Sys2Proof.Machine.execReplacementRoute src dst entry hops alt s
  | .routeEntryReuse entry => Sys2Proof.Machine.execRouteEntryReuse entry s
  | .keyRolloverStart island port command => Sys2Proof.Machine.execKeyRolloverStart island port command s
  | .keyExchangeRetry island port => Sys2Proof.Machine.execKeyExchangeRetry island port s
  | .rolloverRetire island port => Sys2Proof.Machine.execRolloverRetire island port s
  | .keySlotExhausted island port => Sys2Proof.Machine.execKeySlotExhausted island port s
  | .xcellComplete island => Sys2Proof.Machine.execXcellComplete island s
  | .pfenceDrainEnd grp frag => Sys2Proof.Machine.execPfenceDrainEnd grp frag s
  | .remotePacketAtHome island => Sys2Proof.Machine.execRemotePacketAtHome island s
  | .remoteAck island => Sys2Proof.Machine.execRemoteAck island s
  | .remoteTimeout island op => Sys2Proof.Machine.execRemoteTimeout island op s
  | .rfenceHoldEnd grp frag => Sys2Proof.Machine.execRfenceHoldEnd grp frag s
  | .waitnTimeout grp frag => Sys2Proof.Machine.execWaitnTimeout grp frag s
  | .bucketMessage island => Sys2Proof.Machine.execBucketMessage island s
  | .bucketComplete island bucket => Sys2Proof.Machine.execBucketComplete island bucket s
  | .bucketFailure island bucket status => Sys2Proof.Machine.execBucketFailure island bucket status s
  | .bucketTimeout island bucket => Sys2Proof.Machine.execBucketTimeout island bucket s
  | .specialFunctionEntryTaken grp win => Sys2Proof.Machine.execSpecialFunctionEntryTaken grp win s
  | .specialFunctionResult grp win => Sys2Proof.Machine.execSpecialFunctionResult grp win s
  | .feedTimeout grp frag => Sys2Proof.Machine.execFeedTimeout grp frag s
  | .selfCheckDone ok0 ok1 => Sys2Proof.Machine.execSelfCheckDone ok0 ok1 s
  | .monitorPeriodicSample island src => Sys2Proof.Machine.execMonitorPeriodicSample island src s
  | .tileMoveRetire grp op => Sys2Proof.Machine.execTileMoveRetire grp op s
  | .tprefLanding grp op => Sys2Proof.Machine.execTprefLanding grp op s
  | .powerGood found => Sys2Proof.Machine.execPowerGood found s
  | .attestationRequest nonce => Sys2Proof.Machine.execAttestationRequest nonce s
  | .claim key => Sys2Proof.Machine.execClaim key s
  | .ownerKeyChange add key signer sig => Sys2Proof.Machine.execOwnerKeyChange add key signer sig s
  | .peerKeyAdd key signer sig => Sys2Proof.Machine.execPeerKeyAdd key signer sig s
  | .peerKeyRemove key signer sig => Sys2Proof.Machine.execPeerKeyRemove key signer sig s
  | .panelNumberChange number signer sig => Sys2Proof.Machine.execPanelNumberChange number signer sig s
  | .fatalIslandEvent island => Sys2Proof.Machine.execFatalIslandEvent island s
  | .registerPoison grp kind reg lane sub => Sys2Proof.Machine.execRegisterPoison grp kind reg lane sub s
  | .digitResidueMismatch grp frag => Sys2Proof.Machine.execDigitResidueMismatch grp frag s
  | .arrayResidueMismatch grp op tile => Sys2Proof.Machine.execArrayResidueMismatch grp op tile s
  | .frplayReplay island token => Sys2Proof.Machine.execFrplayReplay island token s
  | .frplayHandler island token => Sys2Proof.Machine.execFrplayHandler island token s
  | .frplayTerminate island token => Sys2Proof.Machine.execFrplayTerminate island token s
  | .frplayNone island token => Sys2Proof.Machine.execFrplayNone island token s
  | .bankFailure island bank lost => Sys2Proof.Machine.execBankFailure island bank lost s
  | .hbmUncorrectableError island sector => Sys2Proof.Machine.execHbmUncorrectableError island sector s
  | .hostCxlMemAccess port off write => Sys2Proof.Machine.execHostCxlMemAccess port off write s
  | .hostBackInvalidation island sector owned => Sys2Proof.Machine.execHostBackInvalidation island sector owned s
  | .hostCxlCacheSnoop island sector take => Sys2Proof.Machine.execHostCxlCacheSnoop island sector take s
  | .beatpWrite island val => Sys2Proof.Machine.execBeatpWrite island val s
  | .xcellSet island row col => Sys2Proof.Machine.execXcellSet island row col s
  | .xcellReset island row col => Sys2Proof.Machine.execXcellReset island row col s
  | .hpctlWrite port => Sys2Proof.Machine.execHpctlWrite port s
  | .ncvalWrite island val => Sys2Proof.Machine.execNcvalWrite island val s
  | .uncorrectableError island struck => Sys2Proof.Machine.execUncorrectableError island struck s
  | .teamMemoryError team tile word scrub => Sys2Proof.Machine.execTeamMemoryError team tile word scrub s
  | .lockstepMismatch => Sys2Proof.Machine.execLockstepMismatch s
  | .powerThrottle island => Sys2Proof.Machine.execPowerThrottle island s
  | .clockRecoveryStep island => Sys2Proof.Machine.execClockRecoveryStep island s
  | .overTemperature island => Sys2Proof.Machine.execOverTemperature island s
  | .pwrlimWrite island val => Sys2Proof.Machine.execPwrlimWrite island val s
  | .panelMonitorCfgWrite mon val => Sys2Proof.Machine.execPanelMonitorCfgWrite mon val s
  | .panelMonitorClrWrite mon => Sys2Proof.Machine.execPanelMonitorClrWrite mon s
  | .systemRegisterWrite island num val => Sys2Proof.Machine.execSystemRegisterWrite island num val s
  | .orderlyShutdown => Sys2Proof.Machine.execOrderlyShutdown s
  | .hostPortLinkChange port up => Sys2Proof.Machine.execHostPortLinkChange port up s

end Sys2Proof.Machine
end

