-- ==== Sys2Proof/Machine/Sched.lean ====
section
/-! DEFINITION. The events the machine itself brings about next, where the agenda names none (R8; log 3). -/

namespace Sys2Proof.Machine

open Sys2Proof

/-! ## The events that may come next -/

/-- The events that end what an operation of a group waits for. -/
def opEvents (k : Nat) (o : FlightOp) : List Instr :=
  match o.cls, o.payload with
  | .load, _ => [.loadReturn k o.id]
  | .store, _ => [.storePerformed k o.id]
  | .matrix, .mma .. => [.mmaRetire k o.id]
  | .matrix, _ => [.tileMoveRetire k o.id]
  | .copy, .none => [.tprefLanding k o.id]
  | _, _ => []

/-- One event, where the condition holds. -/
def when (b : Bool) (i : Instr) : List Instr := if b then [i] else []

/-- A fenced port has drained, or its time is up (R387). -/
def pfenceDue (s : State) (i w : Nat) : Bool :=
  let p := portOf s i w
  p.owed = [] || s.panel.ptime ≥ p.fencedAt + 100000

/-- The events that end a fragment's hold, once its condition holds. -/
def holdEvents (s : State) (k : Nat) (g : Group) (j : Nat) (f : Frag) : List Instr :=
  match f.hold with
  | .none => when (feedLate s g f) (.feedTimeout k j)
  | .chain => [.chainRetire k j]
  | .waitOps c b => when (waitDone g c b && inMode g f) (.waitHoldEnd k j)
  | .sleep _ => when (inMode g f) (.sleepExpiry k j)
  | .mfence c _ b => when (mfenceDone g c f.mask b) (.mfenceHoldEnd k j)
  | .barv _ _ _ b => when (accessesDone g b && unparked g) (.barvArrival k j)
  | .waitn .. => when (waitnLate s g f) (.waitnTimeout k j)
  | .rfence b => when (remotesDone g b && inMode g f) (.rfenceHoldEnd k j)
  | .pfence w _ => when (pfenceDue s g.ident.island w && inMode g f) (.pfenceDrainEnd k j)
  | _ => []

/-- The feed engine's next event for a window; it takes entries only while the context runs (R148, R333). -/
def feedEvents (runs : Bool) (k w : Nat) (x : FeedWindow) : List Instr :=
  if x.taken ≠ [] then [.specialFunctionResult k w]
  else when (runs && x.q0 ≠ [] && q1Load x < 8) (.specialFunctionEntryTaken k w)

/-- The events of an MMAP in flight. -/
def mmapEvents (k : Nat) (g : Group) : List Instr :=
  match g.mmap with
  | none => []
  | some m => [if m.done < mmapBlocks m.word0 then .mmapBlockComplete k else .mmapRetire k]

/-- The internal events of a group. -/
def groupEvents (s : State) (k : Nat) (g : Group) : List Instr :=
  let runs := mayIssue s g
  when (g.stall ≠ 0) (.stallCountExpiry k)
    ++ when (g.trapReq.isSome && !entryBlocked g) (.trapEntry k)
    ++ (g.frags.zipIdx.flatMap fun p => holdEvents s k g p.2 p.1)
    ++ g.ops.flatMap (opEvents k)
    ++ mmapEvents k g
    ++ feedEvents runs k 0 g.win0 ++ feedEvents runs k 1 g.win1
    ++ when g.draining.isSome (.exitDrainEnd k)

/-! ## An island: engines, virtual caches, contexts, remote operations, buckets -/

/-- The step under way of a virtual cache (R262, R265, R266). -/
def vcEvents (s : State) (i vn : Nat) (v : Vc) : List Instr :=
  match v.state with
  | .defined => [.vcClaimDrained i vn]
  | .resizing =>
    if v.claim ≠ [] then [.vcClaimDrained i vn]
    else [if (oldLine (islOf s i).mem vn).isSome then .vcSweepLine i vn else .vcResizeEnd i vn]
  | .draining => if v.draining then [.vcDrainEnd i vn] else when (vcQuiet s i vn v.before) (.vcDrainStart i vn)
  | _ => []

/-- What a context's partition does next. -/
def ctxEvents (s : State) (i c : Nat) (x : Context) : List Instr :=
  when (x.state = .halting || (x.state = .faulted && !x.captured)) (.haltComplete i c)
    ++ when x.restoring (.restoreComplete i c)
    ++ when (placeable s i c && (nextTeam s i c).isSome) (.teamPlacement i c)

/-- A part of a remote operation is due to be sent again, or its wait for a route is over (R402). -/
def partDue (s : State) (i : Nat) (o : RemoteOp) (p : RemotePart) : Bool :=
  s.panel.ptime ≥ p.lastSend + remoteWait || (p.waiting && chooseRoute s i o.panel o.isl ≠ .waits)

/-- What a bucket does next (R414, R415). -/
def bucketEvents (s : State) (i n : Nat) (b : Bucket) : List Instr :=
  match b.failing with
  | some st => when (bucketReach s b) (.bucketFailure i n st)
  | none =>
    if b.count ≤ b.results.length then when (bucketReach s b) (.bucketComplete i n)
    else when (bucketLate s b && bucketReach s b) (.bucketTimeout i n)

/-- The cores of an island that hold a group. -/
def liveCores (s : State) (i : Nat) : List Nat :=
  (s.groups.filterMap fun p => if p.2.ident.island = i then some p.2.ident.core else none).eraseDups

/-- Register claims and missed beats of a core (R203, R204, R341). -/
def coreEvents (s : State) (i c : Nat) : List Instr :=
  when (servable s i c).isSome (.rgrowClaimServed i c)
    ++ when (claimsStuck s i c) (.claimDeadlock i c)
    ++ when ((tblGet (islOf s i).cores c).missed ≥ 2) (.heartbeat i c)

/-! ## Links (R374 to R377, R391) -/

/-- The event of a sequenced flit that arrives. -/
def flitEvent (i n : Nat) (e : BufferedFlit) : Instr :=
  if e.kind = 2 then .flitResponse i n e.bytes none else .flitRequest i n e.bytes none

/-- What arrives at a port from the port y at its far end: the next flit, an ACK of the flits that went the other way, or a
NAK that is due. -/
def arrivals (i n : Nat) (x y : Port) : List Instr :=
  if !(receives x && receives y) then []
  else
    (match y.buffer.find? fun e => e.seq = nextExpected x with
      | some e => [flitEvent i n e]
      | none => [])
    ++ when (x.buffer.any fun e => e.seq = y.ack) (.flitIdle i n (makeFlit 0 y.ack 0 []))
    ++ (y.naks.take 1).map fun a => .flitNak i n (makeFlit 3 a 0 [])

/-- The times of a link's states (R374). -/
def linkEvents (s : State) (i n : Nat) (x : Port) : List Instr :=
  let now := s.panel.ptime
  match x.state with
  | .training =>
    when (!x.edge && (farEnd s i n).any fun y => y.state = .training) (.linkTrainingComplete i n true true true 7)
      ++ when (now > x.since + 1000000) (.linkTrainingTimeout i n)
  | .failed => when (now ≥ x.since + 1000000) (.linkRetryTimer i n)
  | _ =>
    when (relocking x && now ≤ x.since + 20000) (.linkRelock i n)
      ++ when (relocking x && now ≥ x.since + 20000) (.linkRetrainingTimeout i n)

/-- The keys of an edge link (R391). -/
def keyEvents (s : State) (i n : Nat) (x : Port) : List Instr :=
  let now := s.panel.ptime
  if !x.edge then []
  else
    when (exchangeReady x && !x.rolling && !x.retry && ((curKey x).txc ≥ 2 ^ 32 || now ≥ (curKey x).loaded + tenMinutes))
        (.keyRolloverStart i n false)
      ++ when (exchangeReady x && exchangeFailed x && now ≥ x.retryAt + 1000000000) (.keyExchangeRetry i n)
      ++ when (retireDue x) (.rolloverRetire i n)
      ++ when (x.slot0.txc ≥ 2 ^ 36 || x.slot1.txc ≥ 2 ^ 36) (.keySlotExhausted i n)

/-- The internal events of a port. -/
def portEvents (s : State) (i n : Nat) (x : Port) : List Instr :=
  linkEvents s i n x ++ keyEvents s i n x
    ++ match farEnd s i n with
      | some y => arrivals i n x y
      | none => []

/-- The internal events of an island. -/
def islandEvents (s : State) (i : Nat) (x : Island) : List Instr :=
  (x.mem.engines.map fun p => if p.2.kind = .acp16 then Instr.acp16Landing i p.1 else .engineLanding i p.1)
    ++ when (x.mem.frqWait ≠ [] && frqCount x.mem < 4095) (.faultRecordEnqueue i)
    ++ (x.mem.vcs.flatMap fun p => vcEvents s i p.1 p.2)
    ++ (x.ctxs.flatMap fun p => ctxEvents s i p.1 p.2)
    ++ (liveCores s i).flatMap (coreEvents s i)
    ++ when (x.inbox.any fun p => !p.reply) (.remotePacketAtHome i)
    ++ when (x.inbox.any (replyReady s i)) (.remoteAck i)
    ++ (x.remotes.flatMap fun p => when (p.2.parts.any (partDue s i p.2)) (.remoteTimeout i p.1))
    ++ (x.buckets.flatMap fun p => bucketEvents s i p.1 p.2)
    ++ when (nextMail s i).isSome (.bucketMessage i)
    ++ when x.matrix.busy (.xcellComplete i)
    ++ when (quarantined s i && s.islands.any fun p => p.1 ≠ i && (tblGet? p.2.cells i).any fun c => cellValid c.toNat)
        (.routeMapInvalidate i)
    ++ x.ports.flatMap fun p => portEvents s i p.1 p.2

/-! ## The panel -/

/-- A packet that has started at a VC where its accesses wait tries again (R365, R368). -/
def waitingEvents (s : State) : List Instr :=
  s.panel.started.filterMap fun p =>
    if !p.2.todo then none
    else if (waitingOf s p.2.queue 4).isSome then some (.copy p.2.queue) else some (.stamp p.2.queue)

/-- The next act of the command processor (R358, R360). -/
def queueEvents (s : State) : List Instr :=
  match chooseQueue s with
  | none => []
  | some n =>
    match (queueOf s n).next with
    | none => [.queuePacketRead]
    | some ws =>
      match packetType (ws.map BitVec.toNat) with
      | 1 => [.launch n]
      | 2 => [.waitPacket n]
      | 3 => [.signal n]
      | 4 => [.copy n]
      | 5 => [.vcdefPacket n]
      | 6 => [.order n]
      | _ => [.stamp n]

/-- The WAIT packet of a queue has a time-out, and it has passed (R363). -/
def waitDue (s : State) (n : Nat) : Bool :=
  let q := queueOf s n
  match q.next with
  | none => false
  | some ds => let t := bits (nth ds 2).toNat 63 32; t ≠ 0 && q.since + 1000 * t ≤ s.panel.ptime

/-- A source island whose cell for a destination names a route that no longer qualifies over mesh links, and the half that
does not (R378, R381). -/
def brokenRoutes (s : State) : List (Nat × Nat × Bool) :=
  s.islands.flatMap fun p => p.2.cells.flatMap fun c =>
    if c.1 < 64 && c.1 ≠ p.1 && cellValid c.2.toNat && !quarantined s c.1 then
      (if qualifies s p.1 (cellPri c.2.toNat) then [] else [(p.1, c.1, false)])
        ++ (if qualifies s p.1 (cellAlt c.2.toNat) then [] else [(p.1, c.1, true)])
    else []

/-- The topology master's next replacement route (R378, R381): of a cell's half whose route has lost a link, into the first
free pool entry, where there is a path. -/
def routeRepairs (s : State) : List Instr :=
  match (brokenRoutes s).find? fun b => carries (routeEntry (replacementHops s b.1 b.2.1 b.2.2)) with
  | none => []
  | some (src, dst, alt) =>
    match (List.range 8192).find? fun k => poolFree s (8192 + k) with
    | some k => [.replacementRoute src dst (8192 + k) (replacementHops s src dst alt) alt]
    | none => []

/-- The internal events of the panel. -/
def panelEvents (s : State) : List Instr :=
  when (s.propagate ≠ []) .contextStatePropagate
    ++ when (s.panel.checkedSince.any fun t => t + 1000000 ≤ s.panel.ptime) (.selfCheckDone true true)
    ++ queueEvents s ++ waitingEvents s
    ++ (s.panel.waits.flatMap fun p => when (waitDue s p.1) (.waitPacketTimeout p.1))
    ++ (s.panel.started.flatMap fun p => when (packetDone s p.2 || packetAborted s p.2) (.packetComplete p.1))
    ++ (s.islands.flatMap fun p => (List.range (routedAt s p.1).length).map fun k => Instr.routerPacket p.1 k)
    ++ routeRepairs s
    ++ s.panel.unnamed.flatMap fun u =>
      when (u.2 + 100000 ≤ s.panel.ptime && !named s u.1 && !entryInFlight s u.1) (.routeEntryReuse u.1)

/-- The fragments that wait at a barrier whose phase is done, and that a parked fragment of their group has kept, go on once
none is parked (R247). -/
def lateReleases (s : State) : State :=
  s.groups.foldl (fun s p =>
    if !unparked p.2 then s
    else
      p.2.frags.foldl (fun s f =>
        match f.hold with
        | .bwait key _ _ =>
          let b := barOf s p.2.ident.team key
          if releases key b f then modGrp (releaseAcquires s p.2.ident.team key b) p.1 (releaseGroup key b s.tick) else s
        | _ => s) s) s

/-- A barrier whose TIMER has reached its time-out, which acts within 10 µs (R233). -/
def lateBarrier (s : State) : Option Instr :=
  s.teams.findSome? fun p => p.2.bars.findSome? fun b => if timerLate s p.1 b.1 then some (.barrierTimeout p.1 b.1) else none

/-- Every internal event. -/
def allEvents (s : State) : List Instr :=
  (s.groups.flatMap fun p => groupEvents s p.1 p.2) ++ (s.islands.flatMap fun p => islandEvents s p.1 p.2)
    ++ panelEvents s

/-- One of the internal events, each in its turn. -/
def nextEvent (s : State) (turn : Nat) : Option Instr :=
  let l := allEvents s
  l[turn % l.length]?

/-! ## One step's choice (log 3) -/

/-- A step's own time: the count of steps, panel time (R368; log 4) and what counts it, the boot under way, the groups'
readiness, and what beats, stirs or waits at it; every 64th step all groups offer again. -/
def passTime (s : State) : State :=
  let n := timeRoom s (Config.panelNanos s.tick)
  let s := countWaits n (countTimers n (lateReleases (bootOn (if s.tick % 64 = 63 then wakeAll s else s))))
  let s := blockQueues (noteStirs (noteBeats (noteReady s)))
  { s with tick := s.tick + 1, panel := { s.panel with ptime := s.panel.ptime + n } }

/-- What a step does when the agenda is empty. -/
inductive Choice where
  | event (i : Instr)
  | issuer (c : Issuer)
  | idle
deriving DecidableEq, Repr

/-- An instruction where a group offers one, but for every eighth step, which prefers an internal event. -/
def chooseStep (s : State) : Choice :=
  if s.tick % 8 = 0 then
    match nextEvent s (s.tick / 8) with
    | some i => .event i
    | none =>
      match nextIssuer s with
      | some c => .issuer c
      | none => .idle
  else
    match nextIssuer s with
    | some c => .issuer c
    | none =>
      match nextEvent s s.tick with
      | some i => .event i
      | none => .idle

/-- What the issuing fragment's fetch comes to: an instruction to execute, or a state. -/
inductive Ran where
  | instr (s : State) (i : Instr)
  | done (s : State)

/-- The fragment takes the fault that is due to it. -/
def takeDue (s : State) (cx : Cx) (c : DWord) : State :=
  deliver (setGrp s cx.key { cx.g with frags := modNth cx.g.frags cx.ix fun f => { f with due := none } })
    cx.key c cx.f.pc cx.f.mask

/-- The issuing fragment's instruction fetched and decoded; a fault due to it, a fetch fault, an illegal word, a park or a wait
is a state of its own (R61, R64, R247). -/
def runFetch (s : State) : Ran :=
  match issuing s with
  | none => .done s
  | some cx =>
    match cx.f.due with
    | some c => .done (takeDue s cx c)
    | none =>
    match fetch s cx with
    | .instr s i => .instr s i
    | .fault s c => .done (takeFault s cx c)
    | .wait s => .done (markWaiting s cx)
    | .miss s m => .done (park s cx .fetch .fetch 4 [m])

end Sys2Proof.Machine
end

