-- ==== Sys2Proof/Machine/Place.lean ====
section
/-! DEFINITION. Placing an instruction where the next step fetches it: at the address the next issuing fragment
fetches from, or, where none issues, at the entry of a smallest program set up for it (log 9). -/

namespace Sys2Proof.Machine

open Sys2Proof

/-- The location of a word at a virtual address, where it can be fetched. -/
def fetchPlace (s : State) (cx : Cx) (va : VAddr) : Option Nat :=
  match fetchWord s cx va with
  | .ok s _ =>
    let id := cx.g.ident
    match (translate s id.island id.ctx (privileged id) va.toNat .fetch 0).2 with
    | .ok l => some l.phys
    | _ => none
  | _ => none

/-- The bytes placed at the issuing fragment's PC, word by word. -/
def placeAt (s : State) (cx : Cx) (bs : List Byte) : Option State :=
  match fetchPlace s cx cx.f.pc, fetchPlace s cx (pcAdd cx.f.pc 4) with
  | some a, some b =>
    let i := cx.g.ident.island
    some (physPut (physPut s i b (bs.drop 4)) i a (bs.take 4))
  | _, _ => none

/-- Physical addresses of the smallest program's descriptors, its tables and its page. -/
def bareDescs : Nat := 0x900000
def bareTables : Nat := 0xA00000
def barePage : Nat := 0x60000000

/-- Tables that map the first 512 MiB to one page with every right, accessed and dirty (R237, R238). -/
def bareMemory (m : IslandMem) : Memory :=
  let b := memPutNat m.bytes bareDescs (bareTables + 1) 8
  let b := memPutNat b bareTables (bareTables + 0x10000 + 1) 8
  let b := memPutNat b (bareTables + 0x10000) (barePage + 2 ^ 57 + 0xDF) 8
  memPutNat b (bareDescs + 0x20) 0 1

/-- A group of 16 lanes alone on core 0 of island 0, in context 0, at its entry. -/
def bareGroup : Group :=
  { ident := { base := 64, max := 128, team := 0 }
    allot := 64
    frags := [{ mask := 0xFFFF, pc := 0x100, slot := 0 }] }

/-- The smallest program: one island, one context, one team, one group, and its page. -/
def bare (s : State) : State :=
  let isl := islOf s 0
  let isl := { isl with
    mem := { isl.mem with bytes := bareMemory isl.mem, ctxBase := bareDescs }
    ctxs := tblSet isl.ctxs 0 { state := .running } }
  { s with
    agenda := []
    tick := 0
    islands := tblSet s.islands 0 isl
    teams := tblSet s.teams 0 { cores := [0], tmem := 4096, ntiles := 4, nbars := 4, groups := [0] }
    groups := [(0, bareGroup)] }

/-- The state with the bytes placed where its next step fetches. -/
def placeWord (s : State) (bs : List Byte) : State :=
  let now : State := { s with agenda := [], tick := if (s.tick + 1) % 8 = 0 then s.tick + 1 else s.tick }
  let here : Option State :=
    match nextIssuer now with
    | none => none
    | some c =>
      match issuing { now with cur := some c } with
      | none => none
      | some cx => placeAt now cx bs
  match here with
  | some s' => s'
  | none =>
    let b := bare s
    physPut b 0 (barePage + 0x100) bs

end Sys2Proof.Machine
end

