-- ==== Sys2Proof/Machine/Step.lean ====
section
/-! DEFINITION. One step of the machine, and the placing of an instruction where the next step fetches it. -/

namespace Sys2Proof.Machine

open Sys2Proof

/-- One step: a barrier's time-out that is due (R233), or the event due next, or an instruction of the issuing group, or an
internal event, or nothing but time (log 3). -/
def step (s : State) : Out :=
  let s := passTime s
  match lateBarrier s, s.agenda with
  | some i, _ => exec i { s with cur := none }
  | none, i :: rest => exec i { s with agenda := rest, cur := none }
  | none, [] =>
    match chooseStep s with
    | .event i => exec i { s with cur := none }
    | .idle => .next (wakeAll s)
    | .issuer c =>
      match runFetch { s with cur := some c } with
      | .instr s i => exec i s
      | .done s => .next s

/-- The state with the instruction of the bits w placed where step fetches its next instruction (log 9). -/
def State.withFetchWord (s : State) (nbits w : Nat) : State := placeWord s (leBytes (w % 2 ^ nbits) 8)

end Sys2Proof.Machine
end

