-- ==== Sys2Proof/Safety.lean ====
section
/-! DEFINITION. What claims about this machine are said with: when an instruction issues, what issue adds to its effect,
which parts of the state an instruction leaves alone, and the form its memories keep. -/

namespace Sys2Proof.Machine

open Sys2Proof

/-! ## A run that does not stop -/

/-- The next step answers a state. -/
def Goes (s : State) : Prop := ∃ t, step s = .next t

/-- The event due next, where there is one, is no instruction with words: such an instruction is only ever executed when
it is fetched. -/
def AgendaOk (s : State) : Prop := ∀ i ∈ s.agenda, hasWords i = false

/-! ## Which instruction issues (R64) -/

/-- The form of every instruction with words; CHAIN's depends on its link words (R151). -/
def formOf (i : Instr) (s : State) (cx : Cx) : Form :=
  match i with
  | .iadd st d a b m | .isub st d a b m | .imul st d a b m | .imulh st d a b m | .imin st d a b m
  | .imax st d a b m | .iaddsat st d a b m | .and st d a b m | .or st d a b m | .xor st d a b m
  | .andn st d a b m | .shl st d a b m | .shr st d a b m => laneBinForm st d a b m false
  | .imad st d a b m => laneBinForm st d a b m true
  | .icmp st p _ a b m => laneCmpForm st 4 p a b (laneRegs m)
  | .iun st d a _ m => laneUnForm st 4 d a (laneRegs m)
  | .iaddi st d a _ | .andi st d a _ | .ori st d a _ | .xori st d a _ | .shli st d a _ | .shri st d a _ _ =>
    laneImmForm st a (vDst d.toNat 1) (some d)
  | .icmpi st p _ a _ => laneImmForm st a [.p p.toNat 0] none
  | .movl st d _ | .lanev st d => laneSetForm st d
  | .movh st d _ => movhForm st d
  | .sel st d a b p => selForm st d a b p
  | .shfl st d a b m => shflForm st d a (some b) m fun cx l => (readV cx.g.regs b.toNat l).toNat
  | .shfli st d a m n => shflForm st d a none m fun _ _ => n.toNat
  | .plog st p _ x y => plogForm st p x y
  | .vote st p _ x => voteForm st p x
  | .voteBallot st x b => ballotForm st x b
  | .redux st d a _ m => laneUnForm st 0 d a (laneRegs m)
  | .fadd st d a b m | .fsub st d a b m | .fmul st d a b m | .fmin st d a b m | .fmax st d a b m
  | .fdiv st d a b m => floatForm st d a (some b) m false
  | .fma st d a b m => floatForm st d a (some b) m true
  | .fcmp st p _ a b m => laneCmpForm st 0 p a b (fmtRegs m)
  | .funOp st d a u m => funForm st d a u m
  | .fscl st d a b m => fsclForm st d a b m
  | .cvt st d a t u _ => cvtForm st d a t u
  | .bqnt st d a c f => bqntForm st d a c f s cx
  | .bdq st d a c f => bdqForm st d a c f s cx
  | .feedw st _ a _ m => feedwForm st a m
  | .feedr st d _ m => feedrForm st d m
  | .ld st d a _ w _ _ | .lda st d a _ w _ _ | .ldt st d a w _ => loadForm st d a w
  | .st st d a _ w _ _ | .sta st d a _ w _ _ | .stt st d a w _ => storeForm st d a w
  | .atom st d a _ w _ _ data _ _ _ _ | .atomt st d a w _ data _ _ _ _ => atomForm st d a data none w
  | .acas st d a _ w _ _ data cmp _ _ _ => atomForm st d a data (some cmp) w
  | .acp16 st d a _ b => acpForm st d a b s cx
  | .prf st a _ _ _ _ => prfForm st a
  | .mma st h t a y b _ _ => mmaForm st h t a b y s cx
  | .tld st h t a => moveForm st h t a true s cx
  | .tst st h t a => moveForm st h t a false s cx
  | .uadd st d a b _ | .usub st d a b _ | .umul st d a b _ | .umulh st d a b _ | .uand st d a b _ | .uor st d a b _
  | .uxor st d a b _ | .ushl st d a b _ | .ushr st d a b _ | .umin st d a b _ | .umax st d a b _ =>
    uniForm st [sUse a.toNat, sUse b.toNat] (.s d.toNat)
  | .ucmp st c a b _ => uniForm st [sUse a.toNat, sUse b.toNat] (.c c.toNat)
  | .usel st d a b c => uniForm st [cUse c.toNat, sUse a.toNat, sUse b.toNat] (.s d.toNat)
  | .uaddi st d a _ | .uandi st d a _ | .uun st d a _ _ => uniForm st [sUse a.toNat] (.s d.toNat)
  | .ucmpi st c _ a _ => uniForm st [sUse a.toNat] (.c c.toNat)
  | .umovi st d h _ => uniForm st (if h = 2 then [sUse d.toNat] else []) (.s d.toNat)
  | .clog st c x y _ => uniForm st [cUse x.toNat, cUse y.toNat] (.c c.toNat)
  | .uld st d a _ w _ _ => uldForm st d a w
  | .ust st d a _ w _ _ => ustForm st d a w
  | .uatom st d a o _ _ _ _ => uatomForm st d a o
  | .bra st _ | .exit st | .nop st | .wait st _ | .bpt st _ | .trap st _ | .tret st | .tfence st | .mfence st _ _
  | .rfence st => ctlForm st []
  | .brc st c _ _ => ctlForm st [cUse c.toNat]
  | .brp st p _ _ => brpForm st p
  | .brx st a => ctlForm st [sUse a.toNat]
  | .call st _ => callForm st
  | .ret st => ctlForm st [sUse 62]
  | .yield st => yieldForm st
  | .sleep st n => sleepForm st n
  | .rgrow st n => growForm st n
  | .rshrink st n => shrinkForm st n
  | .trld st _ a b => ctlForm st [sUse a.toNat, sUse b.toNat]
  | .trinv st a b _ => trinvForm st a b
  | .rdsr st d n => rdsrForm st d n
  | .wrsr st n a => wrsrForm st n a
  | .flgs st d _ | .flgsClr st d _ | .flgsSet st d _ => flgsForm st d
  | .binit st n _ _ | .bexpImm st n _ _ | .binv st n _ => barForm st n [] [] s cx
  | .barv st n _ d _ => barForm st n [] [.s d.toNat] s cx
  | .bexp st n _ a | .bwait st n _ a _ => barForm st n [sUse a.toNat] [] s cx
  | .btry st n _ a c => barForm st n [sUse a.toNat] [.c c.toNat] s cx
  | .tcopy st c n e d | .tsto st c n e d => copyForm st c n e (some d) s cx
  | .tpref st c n e => copyForm st c n e none s cx
  | .mmap st c n e b p l _ _ => mmapForm st c n e b p l s cx
  | .mmsc st a b => mmscForm st a b
  | .tzero st t n => tzeroForm st t n s cx
  | .tepi st t e _ p _ => tepiForm st t e p s cx
  | .chain st _ _ => { st := st }
  | .put st d b | .get st d b | .notify st d b => remoteForm st d b []
  | .ratom st d b e o _ => remoteForm st d b (if o = 14 then [sUse e.toNat] else [])
  | .waitn st c v _ => ctlForm st [sUse c.toNat, sUse v.toNat]
  | .coll st d a | .colw st d a => collForm st d a
  | .qpush st d a b => qpushForm st d a b
  | .pfence st d a | .pfenceRel st d a => pfenceForm st d a
  | .vcdef st d a | .vcrsz st d a | .vcret st d a => vcOpForm st d a
  | .vcq st d a => vcqForm st d a
  | .vcwb st a b c x | .vcinv st a b c x => vcCleanForm st a b c x
  | .monr st d _ f => monrForm st d f
  | .moncCfg st _ a => ctlForm st [sUse a.toNat]
  | .moncClr st _ | .moncRel st _ => ctlForm st []
  | .powerGood .. | .attestationRequest .. | .claim .. | .ownerKeyChange .. | .peerKeyAdd .. | .peerKeyRemove ..
  | .panelNumberChange .. | .fatalIslandEvent .. | .routeMapInvalidate .. | .contextStatePropagate ..
  | .stallCountExpiry .. | .sleepExpiry .. | .waitHoldEnd .. | .mfenceHoldEnd .. | .rgrowClaimServed ..
  | .claimDeadlock .. | .registerPoison .. | .trapEntry .. | .exitDrainEnd .. | .chainRetire ..
  | .digitResidueMismatch .. | .mmaRetire .. | .mmapBlockComplete .. | .mmapRetire .. | .arrayResidueMismatch ..
  | .barvArrival .. | .engineLanding .. | .acp16Landing .. | .barrierTimeout .. | .faultRecordEnqueue ..
  | .frplayReplay .. | .frplayHandler .. | .frplayTerminate .. | .frplayNone .. | .vcClaimDrained .. | .vcSweepLine ..
  | .vcResizeEnd .. | .vcDrainStart .. | .vcDrainEnd .. | .bankFailure .. | .hbmUncorrectableError .. | .loadReturn ..
  | .storePerformed .. | .homeOwnershipRequest .. | .hostCxlMemAccess .. | .hostBackInvalidation ..
  | .hostCxlCacheSnoop .. | .protectionRefusal .. | .place .. | .halt .. | .haltComplete .. | .save .. | .resume ..
  | .restore .. | .restoreComplete .. | .terminate .. | .release .. | .unplace .. | .progressBeat .. | .heartbeat ..
  | .beatpWrite .. | .teamPlacement .. | .create .. | .enable .. | .drain .. | .reset .. | .destroy ..
  | .qtailWrite .. | .queuePacketRead .. | .launch .. | .waitPacket .. | .waitPacketTimeout .. | .signal .. | .copy ..
  | .vcdefPacket .. | .order .. | .stamp .. | .packetComplete .. | .linkTrainingComplete .. | .linkTrainingTimeout ..
  | .linkRetrainingTrigger .. | .linkRelock .. | .linkRetrainingTimeout .. | .linkRetryTimer .. | .flitIdle ..
  | .flitRequest .. | .flitResponse .. | .flitNak .. | .flitKeyControl .. | .routerPacket .. | .routeFailureNotice ..
  | .routeErrorNotice .. | .replacementRoute .. | .routeEntryReuse .. | .keyRolloverStart .. | .keyExchangeRetry ..
  | .rolloverRetire .. | .keySlotExhausted .. | .xcellSet .. | .xcellReset .. | .xcellComplete .. | .pfenceDrainEnd ..
  | .hpctlWrite .. | .remotePacketAtHome .. | .remoteAck .. | .remoteTimeout .. | .rfenceHoldEnd .. | .waitnTimeout ..
  | .ncvalWrite .. | .bucketMessage .. | .bucketComplete .. | .bucketFailure .. | .bucketTimeout ..
  | .specialFunctionEntryTaken .. | .specialFunctionResult .. | .feedTimeout .. | .uncorrectableError ..
  | .teamMemoryError .. | .lockstepMismatch .. | .selfCheckDone .. | .powerThrottle .. | .clockRecoveryStep ..
  | .overTemperature .. | .pwrlimWrite .. | .monitorPeriodicSample .. | .panelMonitorCfgWrite ..
  | .panelMonitorClrWrite .. | .systemRegisterWrite .. | .tileMoveRetire .. | .tprefLanding .. | .orderlyShutdown ..
  | .hostPortLinkChange .. => {}

/-- An instruction of a form passes items 3 to 7 of R64: the group may run the encoding, its codes and operands are
legal, nothing it names is still to be written by an operation, its operands are ready where the group is checked for
it, its fragment holds every lane where it is convergent, and nothing it reads is marked poisoned. -/
structure Clear (fm : Form) (s : State) (cx : Cx) : Prop where
  issuer : issuing s = some cx
  mode : fm.priv = true → privileged cx.g.ident = true
  coded : fm.bad0 cx = false
  operands : fm.bad cx = false
  free : pendingIn cx.g (readElems fm cx ++ writeElems fm cx) = false
  ready : cx.g.ident.sbchk = true → scoreReady cx.g (issueClock s cx) (readElems fm cx) ≤ issueClock s cx
  together : fm.conv = true → meet cx = .go
  clean : firstPoison fm cx = none

/-- The instruction is clear to issue from the fragment. -/
def Ready (i : Instr) (s : State) (cx : Cx) : Prop := Clear (formOf i s cx) s cx

/-- The state after an instruction of a form: its effect, then what issue does to the group's clock and its core. -/
def issued (fm : Form) (s : State) (cx : Cx) (effect : State) : State := bookAll fm cx (readyClock fm s cx) effect

/-- The state after the instruction with the given effect. -/
def done (i : Instr) (s : State) (cx : Cx) (effect : State) : State := issued (formOf i s cx) s cx effect

/-- The issuing group replaced. -/
def withGroup (s : State) (cx : Cx) (g : Group) : State := setGrp s cx.key g

/-- The registers changed by f and the fragment moved on past n bytes. -/
def withRegs (n : Nat) (f : Regs → Regs) (s : State) (cx : Cx) : State :=
  withGroup s cx (advance n cx.ix { cx.g with regs := f cx.g.regs })

/-- The instruction, wherever it is clear to issue, completes with the effect. -/
def Runs (i : Instr) (effect : State → Cx → State) : Prop :=
  ∀ s cx, Ready i s cx → exec i s = .next (done i s cx (effect s cx))

/-- The instruction, wherever it is clear to issue and the condition holds, completes with the effect. -/
def RunsIf (i : Instr) (cond : State → Cx → Prop) (effect : State → Cx → State) : Prop :=
  ∀ s cx, Ready i s cx → cond s cx → exec i s = .next (done i s cx (effect s cx))

/-! ## What an instruction leaves alone -/

/-- The byte the machine's memory holds at a physical address, of an island's HBM or of the host. -/
def byteAt (s : State) (isl a : Nat) : Byte := (physBytes s isl a 1).headD 0

/-- Every byte of the islands' memories, the host's and the teams' reads as before. -/
def SameMemory (s t : State) : Prop :=
  (∀ isl a, byteAt t isl a = byteAt s isl a) ∧ ∀ tm a, memGet (teamOf t tm).mem a = memGet (teamOf s tm).mem a

/-- The island but for its cores' clocks and its monitors. -/
def islandRest (x : Island) : Island := { x with cores := [], monitors := [] }

/-- Nothing but the issuing group, the clock and progress of its core, and its island's monitors has changed. -/
structure OnlyGroup (s t : State) (cx : Cx) : Prop where
  others : ∀ k, k ≠ cx.key → tblGet? t.groups k = tblGet? s.groups k
  teams : t.teams = s.teams
  panel : t.panel = s.panel
  host : t.hostMem = s.hostMem ∧ t.hostPoison = s.hostPoison
  known : t.spots = s.spots
  outside : t.agenda = s.agenda ∧ t.tick = s.tick ∧ t.seq = s.seq ∧ t.cur = s.cur ∧ t.propagate = s.propagate
  elsewhere : ∀ i, i ≠ cx.g.ident.island → islOf t i = islOf s i
  island : ∀ i, islandRest (islOf t i) = islandRest (islOf s i)

/-- The group but for its registers, its special registers, its fragments and what issue itself books. -/
def groupRest (g : Group) : Group :=
  { g with regs := {}, special := {}, frags := [], clk := 0, stall := 0, ready := 0, isReady := false, idle := false, score := [] }

/-- Outside lanes k of V[d] to V[d + n − 1] the V file and its marks are as before; inside, the marks are cleared. -/
structure OnlyV (g h : Regs) (d n : Nat) (k : Mask) : Prop where
  kept : ∀ r l, l < 64 → (r < d ∨ d + n ≤ r ∨ inMask k l = false) →
    readV h r l = readV g r l ∧ inMask (tblGet h.badV r).lo l = inMask (tblGet g.badV r).lo l
      ∧ inMask (tblGet h.badV r).hi l = inMask (tblGet g.badV r).hi l
  clean : ∀ r l, d ≤ r → r < d + n → inMask k l = true →
    inMask (tblGet h.badV r).lo l = false ∧ inMask (tblGet h.badV r).hi l = false

/-- Outside lanes k of P[p] the P file and its marks are as before; inside, the marks are cleared. A write to P7 changes
nothing (R30). -/
structure OnlyP (g h : Regs) (p : Nat) (k : Mask) : Prop where
  kept : ∀ r l, (r ≠ p ∨ p = 7 ∨ inMask k l = false) →
    inMask (tblGet h.p r) l = inMask (tblGet g.p r) l ∧ inMask (tblGet h.badP r) l = inMask (tblGet g.badP r) l
  clean : p ≠ 7 → ∀ l, inMask k l = true → inMask (tblGet h.badP p) l = false

/-- The S, C and T registers and their marks are as before. -/
def SameUniform (g h : Regs) : Prop :=
  h.s = g.s ∧ h.c = g.c ∧ h.t = g.t ∧ h.badS = g.badS ∧ h.badC = g.badC

/-- The P registers and their marks are as before. -/
def SameP (g h : Regs) : Prop := h.p = g.p ∧ h.badP = g.badP

/-- The V registers and their marks are as before. -/
def SameV (g h : Regs) : Prop := h.v = g.v ∧ h.badV = g.badV

/-- S registers other than S[d], and their marks, are as before; S[d] is unmarked; a write to S63 changes nothing (R30). -/
structure OnlyS (g h : Regs) (d : Nat) : Prop where
  kept : ∀ r, (r ≠ d ∨ d = 63) → tblGet h.s r = tblGet g.s r ∧ h.badS.getLsbD r = g.badS.getLsbD r
  clean : d < 63 → h.badS.getLsbD d = false

/-- C registers other than C[d], and their marks, are as before; C[d] is unmarked; a write to C7 changes nothing (R30). -/
structure OnlyC (g h : Regs) (d : Nat) : Prop where
  kept : ∀ r, (r ≠ d ∨ d = 7) → h.c.getLsbD r = g.c.getLsbD r ∧ h.badC.getLsbD r = g.badC.getLsbD r
  clean : d < 7 → h.badC.getLsbD d = false

/-- What an instruction that writes V[d] to V[d + n − 1] leaves alone; x is what the special registers hold after it. -/
structure LaneFrame (s t : State) (cx : Cx) (d n : Nat) (x : SpecialRegs) : Prop where
  only : OnlyGroup s t cx
  vFile : OnlyV cx.g.regs (grpOf t cx.key).regs d n cx.f.mask
  pFile : SameP cx.g.regs (grpOf t cx.key).regs
  uniform : SameUniform cx.g.regs (grpOf t cx.key).regs
  special : (grpOf t cx.key).special = x
  rest : groupRest (grpOf t cx.key) = groupRest cx.g

/-- What an instruction that writes P[p] leaves alone. -/
structure PredFrame (s t : State) (cx : Cx) (p : Nat) (x : SpecialRegs) : Prop where
  only : OnlyGroup s t cx
  pFile : OnlyP cx.g.regs (grpOf t cx.key).regs p cx.f.mask
  vFile : SameV cx.g.regs (grpOf t cx.key).regs
  uniform : SameUniform cx.g.regs (grpOf t cx.key).regs
  special : (grpOf t cx.key).special = x
  rest : groupRest (grpOf t cx.key) = groupRest cx.g

/-- What a uniform instruction that writes S[d] leaves alone. -/
structure UniFrame (s t : State) (cx : Cx) (d : Nat) : Prop where
  only : OnlyGroup s t cx
  sFile : OnlyS cx.g.regs (grpOf t cx.key).regs d
  vFile : SameV cx.g.regs (grpOf t cx.key).regs
  pFile : SameP cx.g.regs (grpOf t cx.key).regs
  cFile : (grpOf t cx.key).regs.c = cx.g.regs.c ∧ (grpOf t cx.key).regs.badC = cx.g.regs.badC
  tFile : (grpOf t cx.key).regs.t = cx.g.regs.t
  special : (grpOf t cx.key).special = cx.g.special
  rest : groupRest (grpOf t cx.key) = groupRest cx.g

/-- What a uniform instruction that writes C[d] leaves alone. -/
structure CondFrame (s t : State) (cx : Cx) (d : Nat) : Prop where
  only : OnlyGroup s t cx
  cFile : OnlyC cx.g.regs (grpOf t cx.key).regs d
  vFile : SameV cx.g.regs (grpOf t cx.key).regs
  pFile : SameP cx.g.regs (grpOf t cx.key).regs
  sFile : (grpOf t cx.key).regs.s = cx.g.regs.s ∧ (grpOf t cx.key).regs.badS = cx.g.regs.badS
  tFile : (grpOf t cx.key).regs.t = cx.g.regs.t
  special : (grpOf t cx.key).special = cx.g.special
  rest : groupRest (grpOf t cx.key) = groupRest cx.g

/-! ## The form every memory keeps (log 2) -/

/-- A team's memory is in canonical form. -/
def TeamOk (t : Team) : Prop := Memory.wf t.mem = true

/-- What an engine operation keeps of a team's memory, where its context has been terminated, is. -/
def EngineOk (o : EngineOp) : Prop := ∀ x, o.own = some x → Memory.wf x.1 = true

/-- An island's memory is, and what its engines keep. -/
def IslandOk (x : Island) : Prop := Memory.wf x.mem.bytes = true ∧ ∀ p ∈ x.mem.engines, EngineOk p.2

/-- Every memory of the machine is in canonical form: addresses strictly rising, no zero byte listed. -/
structure MemoryOk (s : State) : Prop where
  host : Memory.wf s.hostMem = true
  islands : ∀ p ∈ s.islands, IslandOk p.2
  teams : ∀ p ∈ s.teams, TeamOk p.2

end Sys2Proof.Machine
end

