-- ==== Sys2Proof/Certificates/Slice0/Obligations.lean ====
section
/-! DEFINITION. The statements about this machine. -/

namespace Sys2Proof.Machine

open Sys2Proof

/-! ## Shapes of results

Each says what an instruction does wherever it is clear to issue: what its destination holds, lane by lane, and that
nothing else of the machine has changed but the issuing group's PC and clock. -/

/-- The instruction writes V[d] to V[d + n − 1] in the lanes of its fragment, and leaves x in the special registers. -/
def WritesV (i : Instr) (d n : Nat) (x : Cx → SpecialRegs) (result : Cx → Regs → Nat → Prop) : Prop :=
  ∀ s cx, Ready i s cx → ∃ t, exec i s = .next t
    ∧ (∀ l, inMask cx.f.mask l = true → result cx (grpOf t cx.key).regs l) ∧ LaneFrame s t cx d n (x cx)

/-- The instruction writes P[p] in the lanes of its fragment; a write to P7 is ignored (R30). -/
def WritesP (i : Instr) (p : Nat) (x : Cx → SpecialRegs) (result : Cx → Nat → Prop) : Prop :=
  ∀ s cx, Ready i s cx → ∃ t, exec i s = .next t
    ∧ (p ≠ 7 → ∀ l, inMask cx.f.mask l = true → (inMask (readP (grpOf t cx.key).regs p) l = true ↔ result cx l))
    ∧ PredFrame s t cx p (x cx)

/-- The instruction writes S[d]; S63 goes on reading zero (R30). -/
def WritesS (i : Instr) (d : Nat) (val : Regs → DWord) : Prop :=
  ∀ s cx, Ready i s cx → ∃ t, exec i s = .next t
    ∧ readS (grpOf t cx.key).regs d = (if d = 63 then 0 else val cx.g.regs) ∧ UniFrame s t cx d

/-- The instruction writes C[d]; C7 goes on reading one (R30). -/
def WritesC (i : Instr) (d : Nat) (val : Regs → Bool) : Prop :=
  ∀ s cx, Ready i s cx → ∃ t, exec i s = .next t
    ∧ readC (grpOf t cx.key).regs d = (if d = 7 then true else val cx.g.regs) ∧ CondFrame s t cx d

/-- The special registers unchanged. -/
def plain (cx : Cx) : SpecialRegs := cx.g.special

/-- The special registers after a cross-lane instruction: a partial fragment sets XLFLAG.XL (R115). -/
def crossed (cx : Cx) : SpecialRegs :=
  if cx.f.mask = fullMask (lanesIn cx.g) then cx.g.special else { cx.g.special with xlflag := cx.g.special.xlflag ||| 1 }

/-- A two-operand lane instruction: z of the operands modulo 2 ^ WID, every operand read before any result is written. -/
def LaneTwo (i : BitVec 2 → BitVec 7 → BitVec 7 → BitVec 7 → BitVec 2 → Instr) (z : BitVec 2 → LaneArgs → Int) : Prop :=
  ∀ st d a b m, WritesV (i st d a b m) d.toNat (laneRegs m) plain fun cx g l =>
    rdvBits g d.toNat l m = wrap (z m (laneArgs cx.g.regs d a b m l)) (laneWid m)

/-- An instruction V[d] := f(V[a]) on 32 bits. -/
def LaneImm (i : Instr) (d a : BitVec 7) (f : Word → Word) : Prop :=
  WritesV i d.toNat 1 plain fun cx g l => readV g d.toNat l = f (readV cx.g.regs a.toNat l)

/-- The source lane of SHFL for lane l by R116: distance or lane k. -/
def shuffleSource (mode : BitVec 2) (k l : Nat) : Int :=
  if mode = 0 then k else if mode = 1 then (l : Int) - k else if mode = 2 then l + k else (l ^^^ k : Nat)

/-- What SHFL leaves in lane l: the source lane's value where that lane is in the fragment, else the lane's own (R116). -/
def Shuffled (cx : Cx) (g : Regs) (d a : Nat) (mode : BitVec 2) (k l : Nat) : Prop :=
  readV g d l = if 0 ≤ shuffleSource mode k l ∧ shuffleSource mode k l < lanesIn cx.g
      ∧ inMask cx.f.mask (shuffleSource mode k l).toNat = true
    then readV cx.g.regs a (shuffleSource mode k l).toNat else readV cx.g.regs a l

/-- P[x] holds in a lane of the issuing fragment. -/
def HoldsIn (cx : Cx) (x l : Nat) : Prop := inMask cx.f.mask l = true ∧ inMask (readP cx.g.regs x) l = true

/-- What REDUX leaves in every lane: the fold of f over the fragment's elements, from the identity e. -/
def Reduced (cx : Cx) (g : Regs) (d a l : Nat) (m : BitVec 2) (e : Int) (f : Int → Int → Int) : Prop :=
  rdvBits g d l m = wrap (((lanesOf cx.f.mask).map fun j => rdv cx.g.regs a j m).foldl f e) (laneWid m)

/-- The flags of the lanes' results, raised (R97). -/
def raised (cx : Cx) (r : Nat → Rounded) : SpecialRegs :=
  { cx.g.special with
    flags := cx.g.special.flags ||| (orFlags ((lanesOf cx.f.mask).map fun l => (r l).2)).setWidth 64 }

/-- V[d] of a lane holds a result of a format code: a pair for F64. -/
def Holds (g : Regs) (d l : Nat) (pair : Bool) (r : Rounded) : Prop :=
  if pair then readPair g d l = r.1 % 2 ^ 64 else readV g d l = BitVec.ofNat 32 r.1

/-- A floating lane instruction: r the result of each lane of the registers it reads and of the rounding mode. -/
def FloatResult (i : Instr) (d n : Nat) (pair : Bool) (r : RMode → Regs → Nat → Rounded) : Prop :=
  WritesV i d n (fun cx => raised cx (r (modeOf cx.g.special) cx.g.regs)) fun cx g l =>
    Holds g d l pair (r (modeOf cx.g.special) cx.g.regs l)

/-- A two-operand floating lane instruction, half by half where the format is packed. -/
def FloatTwo (i : BitVec 2 → BitVec 7 → BitVec 7 → BitVec 7 → BitVec 2 → Instr)
    (z : FFmt → RMode → Nat → Nat → Nat → Rounded) : Prop :=
  ∀ st d a b m, FloatResult (i st d a b m) d.toNat (fmtRegs m) (m = 3) fun md g l =>
    halves m fun h => z (efmt m) md (rdfBits g a.toNat l m h) (rdfBits g b.toNat l m h) (rdfBits g d.toNat l m h)

/-- A two-operand uniform instruction: z of the operands by type. -/
def UniTwo (i : BitVec 2 → BitVec 6 → BitVec 6 → BitVec 6 → BitVec 4 → Instr) (z : BitVec 4 → UniArgs → Int) : Prop :=
  ∀ st d a b m, WritesS (i st d a b m) d.toNat fun g => wrsVal m (z m (uniArgs g a b m))

/-! ## Shapes of accesses -/

/-- The group but for what an access may add to it: its operation, a held fault, and what its lanes know for happens-before
(log 13). -/
def accessRest (g : Group) : Group := { groupRest g with ops := [], held := [], past := [] }

/-- The panel but for the releases at panel scope (log 13). -/
def panelRest (p : Panel) : Panel := { p with clk := [] }

/-- What an access leaves alone: the other groups, every register of its own group, the panel, the other islands, and all of
its own island but memory, caches, clocks and monitors. -/
structure AccessFrame (s t : State) (cx : Cx) : Prop where
  others : ∀ k, k ≠ cx.key → tblGet? t.groups k = tblGet? s.groups k
  regs : (grpOf t cx.key).regs = cx.g.regs ∧ (grpOf t cx.key).special = cx.g.special
  rest : accessRest (grpOf t cx.key) = accessRest cx.g
  panel : panelRest t.panel = panelRest s.panel
  outside : t.agenda = s.agenda ∧ t.tick = s.tick ∧ t.cur = s.cur ∧ t.propagate = s.propagate
  elsewhere : ∀ i, i ≠ cx.g.ident.island → islOf t i = islOf s i
  island : ∀ i, { islandRest (islOf t i) with mem := {}, scClk := [] } = { islandRest (islOf s i) with mem := {}, scClk := [] }

/-- The operation an access has added to its group, numbered in order of issue. -/
def Added (s t : State) (cx : Cx) (cls : OpClass) (atomic : Bool) (mask : Mask) (ws : List RegWrite) : Prop :=
  t.seq = s.seq + 1 ∧
  (grpOf t cx.key).ops = cx.g.ops ++ [{ id := s.seq, cls := cls, atomic := atomic, mask := mask, writes := ws }]

/-- The checks of R298 pass for every address, and every address is translated. -/
def Passes (s s1 : State) (cx : Cx) (w : Want) (rs : List Req) (hs : List Hit) : Prop :=
  checkGlobal s cx w rs = .go s1 hs [] ∧ hs ≠ []

/-- The byte at a is none of the n that a hit names, and none of the table entry whose D bit a write at it sets (R240). -/
def Clears (n isl a : Nat) (own : Nat) (h : Hit) : Prop :=
  (((isHost a = true ∨ isl = own) → a < h.loc.phys ∨ h.loc.phys + n ≤ a)) ∧
  ∀ e, h.loc.dirtyAt = some e → isl = own → a < e.addr ∨ e.addr + 8 ≤ a

/-- No hit's n bytes lie in a table entry whose D bit a later hit sets: such an entry would no longer hold what was walked, and
the later hit's translation would begin again (R240). -/
def Apart (n : Nat) (hs : List Hit) : Prop :=
  hs.Pairwise fun h x => ∀ e, x.loc.dirtyAt = some e → h.loc.phys + n ≤ e.addr ∨ e.addr + 8 ≤ h.loc.phys

/-- An entry still holds what was walked, its A set; whether D has been set since is of no account (R240). -/
def StillWalked (s : State) (isl : Nat) (e : DirtyRef) : Prop := entryAt s isl e.addr ||| 0x80#64 = e.entry ||| 0xC0#64

/-- The entry whose D bit a write at the hit sets holds what was walked (R240). -/
def Walked (s : State) (isl : Nat) (h : Hit) : Prop := ∀ e, h.loc.dirtyAt = some e → StillWalked s isl e

/-- A load of global memory: its operation carries the writes its hits give, and every byte of memory stays as the walks
left it. -/
def Loads (i : Instr) (w : Want) (reqs : Cx → List Req) (mask : Cx → List Hit → Mask)
    (writes : State → Nat → Hit → List RegWrite) : Prop :=
  ∀ s cx s1 hs, Ready i s cx → Passes s s1 cx w (reqs cx) hs → ∃ t, exec i s = .next t
    ∧ Added s t cx .load false (mask cx hs) (hs.flatMap (writes s1 cx.g.ident.island))
    ∧ AccessFrame s t cx ∧ SameMemory s1 t

/-- The island stands in the machine's table, as a group's island always does. -/
def Present (s : State) (isl : Nat) : Prop := (tblGet? s.islands isl).isSome = true

/-- A store to global memory: the bytes of a hit stand at its address unless a later one covers them, and every other byte stays
as the walks left it. -/
def Stores (i : Instr) (w : Want) (reqs : Cx → List Req) (mask : Cx → List Hit → Mask) (bytes : Cx → Nat → List Byte) :
    Prop :=
  ∀ s cx s1 hs, Ready i s cx → Passes s s1 cx w (reqs cx) hs → ∃ t, exec i s = .next t
    ∧ Added s t cx .store false (mask cx hs) [] ∧ AccessFrame s t cx ∧ t.teams = s.teams
    ∧ (Apart w.n hs → (∀ isl a, (∀ h ∈ hs, Clears w.n isl a cx.g.ident.island h) → byteAt t isl a = byteAt s1 isl a)
      ∧ ∀ before h after k, Present s cx.g.ident.island → hs = before ++ h :: after → k < w.n
        → (h.loc.phys + w.n ≤ hostBase ∨ hostBase ≤ h.loc.phys)
        → (∀ x ∈ after, Clears w.n cx.g.ident.island (h.loc.phys + k) cx.g.ident.island x)
        → byteAt t cx.g.ident.island (h.loc.phys + k) = (bytes cx (h.lane.getD 0)).getD k 0)

/-- Word j of a loaded value, as size code w extends it (R51, R301). -/
def loadedWord (w : BitVec 3) (v j : Nat) : DWord :=
  if w.toNat < 5 then BitVec.ofNat 64 (v / 2 ^ (32 * j) % 2 ^ 32)
  else (BitVec.ofInt 32 (signed v (8 * sizeBytes w))).setWidth 64

/-- What a lane load writes to V[d…] for a hit; poisoned memory gives poisoned zeros (R311). -/
def loadedAt (d : BitVec 7) (w : BitVec 3) (s : State) (isl : Nat) (h : Hit) : List RegWrite :=
  (List.range (sizeRegs w)).map fun j =>
    { elem := .v (d.toNat + j) (h.lane.getD 0)
      val := if marked s isl h.loc.phys then 0 else loadedWord w (physNat s isl h.loc.phys (sizeBytes w)) j
      bad := marked s isl h.loc.phys }

/-- What a uniform load of up to 64 bits writes to S[d] for a hit, extended to 64 bits (R305). -/
def loadedUni (d : BitVec 6) (w : BitVec 3) (s : State) (isl : Nat) (h : Hit) : List RegWrite :=
  [{ elem := .s d.toNat
     val := if marked s isl h.loc.phys then 0
       else if w = 5 ∨ w = 6 then BitVec.ofInt 64 (signed (physNat s isl h.loc.phys (sizeBytes w)) (8 * sizeBytes w))
       else BitVec.ofNat 64 (physNat s isl h.loc.phys (sizeBytes w))
     bad := marked s isl h.loc.phys }]

/-- What a uniform load of 128 bits writes to S[d] and S[d + 1] for a hit (R305). -/
def loadedPair (d : BitVec 6) (s : State) (isl : Nat) (h : Hit) : List RegWrite :=
  [0, 1].map fun j =>
    { elem := .s (d.toNat + j)
      val := if marked s isl h.loc.phys then 0 else BitVec.ofNat 64 (physNat s isl h.loc.phys 16 / 2 ^ (64 * j))
      bad := marked s isl h.loc.phys }

/-- The address a hit of a team instruction names: lane and team address. -/
abbrev TeamHit := Option Nat × Nat

/-- A team instruction's checks pass. -/
def TeamPasses (s : State) (cx : Cx) (n : Nat) (wr : Bool) (l : List TeamHit) : Prop := checkTeam s cx n wr l = none

/-- What an access to team memory leaves alone beside AccessFrame: every byte outside the teams' memories. -/
def SameOutside (s t : State) : Prop := ∀ isl a, byteAt t isl a = byteAt s isl a

/-- A word of a team's memory is lost (R421). -/
def Lost (t : Team) (a : Nat) : Prop := a / 32 ∈ t.dead

/-- An atomic of global memory: the atomics of its lanes in ascending lane order, then the operation that returns the old
values. -/
def Atomics (i : Instr) (w : Want) (reqs : Cx → List Req) (d : Nat) (sc : BitVec 1) (act : Cx → Nat → AtomAct) : Prop :=
  ∀ s cx s1 hs, Ready i s cx → Passes s s1 cx w (reqs cx) hs → ∃ t, exec i s = .next t
    ∧ Added s t cx .load true (hitMask hs) (atomLanes cx w d (act cx) (takeTickets s1 cx.g.ident.island hs.length sc) hs).2
    ∧ AccessFrame s t cx ∧ t.teams = s.teams
    ∧ (∀ isl a, byteAt t isl a
      = byteAt (atomLanes cx w d (act cx) (takeTickets s1 cx.g.ident.island hs.length sc) hs).1 isl a)
    ∧ (Apart w.n hs → ∀ isl a, (∀ h ∈ hs, Clears w.n isl a cx.g.ident.island h) → byteAt t isl a = byteAt s1 isl a)

/-- The old value of n bytes that an atomic writes to V[d…] of a lane; an atomic that met a marked quarter marks it (R306, R311). -/
def oldAt (d n lane old : Nat) (bad : Bool) : List RegWrite :=
  (List.range (n / 4)).map fun j =>
    { elem := .v (d + j) lane, val := BitVec.ofNat 64 (old / 2 ^ (32 * j) % 2 ^ 32), bad := bad }

/-- The value an atomic writes over an old one, by its AOP code; a compare and swap writes where the old value is the expected
one (R52, R306, R307). -/
def AopTable : Prop :=
  (∀ n old v, let w := 8 * n
    let f : FFmt := if n = 4 then .f32 else .f64
    atomNew (.op 0 v) n old = some ((old + v) % 2 ^ w)
    ∧ atomNew (.op 1 v) n old = some (if signed v w < signed old w then v else old)
    ∧ atomNew (.op 2 v) n old = some (if signed old w < signed v w then v else old)
    ∧ atomNew (.op 3 v) n old = some (min old v) ∧ atomNew (.op 4 v) n old = some (max old v)
    ∧ atomNew (.op 5 v) n old = some (old &&& v) ∧ atomNew (.op 6 v) n old = some (old ||| v)
    ∧ atomNew (.op 7 v) n old = some (old ^^^ v) ∧ atomNew (.op 8 v) n old = some v
    ∧ atomNew (.op 9 v) n old = some (if v ≤ old then 0 else old + 1)
    ∧ atomNew (.op 10 v) n old = some (if old = 0 ∨ v < old then v else old - 1)
    ∧ atomNew (.op 11 v) n old = some (rndExact f .rne (exactAdd .rne (dec f old) (dec f v))).1
    ∧ atomNew (.op 12 v) n old = some (minMax f true old v).1
    ∧ atomNew (.op 13 v) n old = some (minMax f false old v).1)
  ∧ ∀ n old new e, atomNew (.cas new e) n old = if old = e then some new else none

/-- The atomics of a fragment are made one after another, in ascending lane order, each over what the ones before it left: of
global memory by `atomHit`, of team memory on the bytes themselves, a word of it that is lost going on reading zero (R299, R306,
R308, R421). -/
def AtomsInOrder : Prop :=
  (∀ cx w d act s, atomLanes cx w d act s [] = (s, []))
  ∧ (∀ cx w d act s h hs, let r := atomHit cx w (act (h.lane.getD 0)) s h
    let y := atomLanes cx w d act r.1 hs
    atomLanes cx w d act s (h :: hs) = (y.1, oldAt d w.n (h.lane.getD 0) r.2.1 r.2.2 ++ y.2))
  ∧ (∀ g dead d v n op m, atomTeam g dead d v n op m [] = (m, []))
  ∧ ∀ g dead d v n op m p ps, let old := memNat m p.2 n
    let new := (atomNew (.op op (spanValue g v n (p.1.getD 0))) n old).getD 0
    let y := atomTeam g dead d v n op (if p.2 / 32 ∈ dead then m else memPutNat m p.2 new n) ps
    atomTeam g dead d v n op m (p :: ps) = (y.1, oldAt d n (p.1.getD 0) old false ++ y.2)

/-- What UATOM does: AOP 14 is the compare and swap of S[a + 1] for S[a + 2], any other the operation with S[a + 1] (R309). -/
def UatomAct : Prop :=
  ∀ g a o z, let w := if z = 1 then 32 else 64
    uatomAct g a o z = if o = 14 then
        .cas ((readS g (a.toNat + 1)).toNat % 2 ^ w) ((readS g (a.toNat + 2)).toNat % 2 ^ w)
      else .op o.toNat ((readS g (a.toNat + 1)).toNat % 2 ^ w)

/-- What ADDR gives for an offset from a T register (R243). -/
def RegisterAddress : Prop :=
  ∀ s i c priv (t : TReg) o acc salt,
    let permits := t.cv = true ∧ o < t.limit.toNat ∧ (t.rights.getLsbD 2 = true → priv = true)
      ∧ match acc with
        | .read => t.rights.getLsbD 0 = true
        | .write => t.rights.getLsbD 1 = true ∧ t.rights.getLsbD 3 = false ∧ t.rights.getLsbD 4 = true
        | .atomic => t.rights.getLsbD 0 = true ∧ t.rights.getLsbD 1 = true ∧ t.rights.getLsbD 3 = false ∧ t.rights.getLsbD 4 = true
        | .fetch => False
    let gives := addrOf s i c priv t o acc salt
    (t.e = true → gives = (s, .prot 4))
    ∧ (t.e = false → permits → ∃ l, gives = (s, .ok l) ∧ l.phys = t.pbase + o ∧ l.vcx = t.vcx ∧ l.dirtyAt = none)
    ∧ (t.e = false → ¬ permits → 2 ^ 57 ≤ t.base.toNat + o → gives = (s, .prot 1))
    ∧ (t.e = false → ¬ permits → t.base.toNat + o < 2 ^ 57 → gives = translate s i c priv (t.base.toNat + o) acc salt)

/-- The bytes that translations change: a translation sets the A bit of the leaf at which its walk ends, and no other byte of
memory; it uses a fresh walk or a held entry that permits the access; the requests of an instruction are translated one after
another (R240, R241, R246; log 7). -/
def WalksSetAccessed : Prop :=
  (∀ s i c priv va acc salt isl b, let u := chosenUse s i c va acc priv salt
    byteAt (translate s i c priv va acc salt).1 isl b = byteAt (if u.walked then setAccessed s i u.stop else s) isl b
    ∧ (u = freshUse s i c va ∨ ∃ t ∈ heldFor s i c va, u = heldUse s i va t ∧ heldPermits acc priv u.stop = true))
  ∧ (∀ s i st lvl, setAccessed s i (.page st lvl) = s)
  ∧ (∀ s i e a lvl isl b, Present s i → isHost a = false → byteAt (setAccessed s i (.leaf e a lvl)) isl b
    = if isl = i ∧ b = a then byteAt s isl b ||| 0x40#8 else byteAt s isl b)
  ∧ (∀ i c priv acc s, translateAll i c priv acc s [] = (s, []))
  ∧ ∀ i c priv acc s r rs, let x := addrOf s i c priv r.t r.o acc (saltOf r.lane)
    let y := translateAll i c priv acc x.1 rs
    translateAll i c priv acc s (r :: rs) = (y.1, (r, x.2) :: y.2)

/-! ## Shapes of control instructions

`RunsStill` gives the whole next state: what the effect does not name is as before. -/

/-- Every byte of memory and every other group is as before. -/
def Still (s t : State) (cx : Cx) : Prop :=
  SameMemory s t ∧ ∀ k, k ≠ cx.key → tblGet? t.groups k = tblGet? s.groups k

/-- The instruction, wherever it is clear to issue and the condition holds, completes with the effect, which touches no
memory and no other group. -/
def RunsStill (i : Instr) (cond : State → Cx → Prop) (effect : State → Cx → State) : Prop :=
  ∀ s cx, Ready i s cx → cond s cx → exec i s = .next (done i s cx (effect s cx)) ∧ Still s (done i s cx (effect s cx)) cx

/-- No condition. -/
def always : State → Cx → Prop := fun _ _ => True

/-- The fragment goes on past n bytes. -/
def goPast (n : Nat) (s : State) (cx : Cx) : State := modGrp s cx.key (advance n cx.ix)

/-- The registers changed by f, and the fragment goes on past n bytes. -/
def goPastWith (n : Nat) (f : Regs → Regs) (s : State) (cx : Cx) : State :=
  modGrp s cx.key fun g => advance n cx.ix { g with regs := f g.regs }

/-- The issuing fragment goes on at p, the registers changed by f. -/
def goTo (p : VAddr) (f : Regs → Regs) (s : State) (cx : Cx) : State :=
  withGroup s cx (jump p cx.ix { cx.g with regs := f cx.g.regs })

/-- The issuing fragment holds, standing past its instruction of four bytes. -/
def holdPast (h : Hold) (s : State) (cx : Cx) : State := withGroup s cx (holdAfter h cx.ix cx.g)

/-- The issuing fragment holds at its instruction. -/
def holdAt (h : Hold) (s : State) (cx : Cx) : State :=
  withGroup s cx (modFrag cx.g cx.ix fun f => { f with hold := h })

/-- The target of R58. -/
def ubTarget (pc : VAddr) (off : BitVec 18) : VAddr := BitVec.ofInt 57 (pc.toNat + 4 * off.toInt)

/-- A branch register holds an address that BRX and RET may go to (R193). -/
def Target (a : DWord) : Prop := a.toNat % 4 = 0 ∧ a.toNat < 2 ^ 57

/-- The lanes of the fragment whose predicate sends them to the target of BRP. -/
def taken (cx : Cx) (p : BitVec 3) (n : BitVec 1) : Mask :=
  cx.f.mask &&& (if n = 1 then ~~~(readP cx.g.regs p.toNat) else readP cx.g.regs p.toNat)

/-- The instruction takes the precise fault, with the state otherwise as it was. -/
def FaultsIf (i : Instr) (cond : State → Cx → Prop) (c : Cx → Cause) : Prop :=
  ∀ s cx, Ready i s cx → cond s cx → exec i s = .next (takeFault s cx (c cx))

/-- The instruction waits without issuing. -/
def WaitsIf (i : Instr) (cond : State → Cx → Prop) : Prop :=
  ∀ s cx, Ready i s cx → cond s cx → exec i s = .next (markWaiting s cx)

/-- The state of the group but for registers, special registers, fragments, clocks and the lanes' destination: what BQNT and BDQ
leave alone beside their vector destination. -/
structure BlockFrame (s t : State) (cx : Cx) (d n : Nat) (x : SpecialRegs) : Prop where
  only : OnlyGroup s t cx
  vFile : OnlyV cx.g.regs (grpOf t cx.key).regs d n cx.f.mask
  pFile : SameP cx.g.regs (grpOf t cx.key).regs
  cFile : (grpOf t cx.key).regs.c = cx.g.regs.c ∧ (grpOf t cx.key).regs.badC = cx.g.regs.badC
  tFile : (grpOf t cx.key).regs.t = cx.g.regs.t
  special : (grpOf t cx.key).special = x
  rest : groupRest (grpOf t cx.key) = groupRest cx.g

/-- The lanes of a fragment, each with each of n register offsets. -/
def rowLanes (cx : Cx) (n : Nat) : List (Nat × Nat) := (List.range n).flatMap fun r => (lanesOf cx.f.mask).map fun l => (r, l)

/-- The barrier an instruction of the fragment names, before the instruction. -/
def theBar (s : State) (cx : Cx) (tm : BitVec 1) (n : BitVec 6) : Bar := barOf s cx.g.ident.team (namedBar s cx tm n)

/-- No fragment of the group is parked. -/
def NoneParked (cx : Cx) : Prop := ∀ f ∈ cx.g.frags, f.parked = none

/-- The barrier is Armed or Complete. -/
def Counting (b : Bar) : Prop := b.state = .armed ∨ b.state = .complete

/-- The team of the issuing group stands in the machine's table, as a running group's always does. -/
def HasTeam (s : State) (cx : Cx) : Prop := (tblGet? s.teams cx.g.ident.team).isSome = true

/-- Two barriers are alike, but for what their phases release (log 13). -/
def BarIs (b c : Bar) : Prop := { b with arrived := [], released := [] } = { c with arrived := [], released := [] }

/-- No other fragment of the group stands at a BARV on the barrier. -/
def barFree (s : State) (cx : Cx) (tm : BitVec 1) (n : BitVec 6) : Prop := barvAhead cx (namedBar s cx tm n) = false

/-- The named barrier set. -/
def putBar (s : State) (cx : Cx) (tm : BitVec 1) (n : BitVec 6) (b : Bar) : State :=
  setBar s cx.g.ident.team (namedBar s cx tm n) b

/-- BEXP of a count (R218): at an Armed or Complete barrier n more bytes are due, and a Complete one is armed again. -/
def Expects (i : Instr) (tm : BitVec 1) (n : BitVec 6) (count : Cx → Nat) : Prop :=
  (∀ s cx, Ready i s cx → barFree s cx tm n → Counting (theBar s cx tm n) → HasTeam s cx →
    let pend := (theBar s cx tm n).pend + (count cx : Int)
    pend ≤ 2 ^ 39 - 1 → -(2 ^ 39) ≤ pend → ((theBar s cx tm n).remain ≠ 0 ∨ pend ≠ 0) →
    ∃ u, exec i s = .next u ∧ Still s u cx
    ∧ BarIs (theBar u cx tm n) { rearm (theBar s cx tm n) with pend := pend, teamScope := tm = 1 }
    ∧ (grpOf u cx.key).regs = cx.g.regs ∧ (grpOf u cx.key).special = cx.g.special)
  ∧ RunsIf i (fun s cx => barFree s cx tm n ∧ (theBar s cx tm n).state ≠ .idle) (fun s cx =>
    barPend (goPast 4 s cx) cx.g.ident.team (namedBar s cx tm n) { theBar s cx tm n with teamScope := tm = 1 } (count cx : Nat))
  ∧ FaultsIf i (fun s cx => barFree s cx tm n ∧ (theBar s cx tm n).state = .idle) (fun _ => { cls := 0x01, status := 3 })
  ∧ WaitsIf i fun s cx => ¬ barFree s cx tm n

/-- The continuation of BWAIT and WAITN (R219, R409). -/
def target {w : Nat} (pc : VAddr) (off : BitVec w) : VAddr := BitVec.ofInt 57 (pc.toNat + 4 * off.toInt)

/-- No handler fragment of the group has a lower PC (R196, R326). -/
def Foremost (cx : Cx) : Prop := ∀ f ∈ cx.g.frags, f.handler = true → cx.f.pc.toNat ≤ f.pc.toNat

/-- TSTAT and TMASK are such as TRET takes: no reserved bit of TSTAT is set, nor HM and QWIN, and TMASK lies in the handler set
(R34, R326). -/
def LegalReturn (g : Group) : Prop :=
  g.special.tstat &&& 0xFFFFFF0000FCFF18 = 0 ∧ g.special.tstat.getLsbD 1 = false ∧ g.special.tstat.getLsbD 2 = false
    ∧ g.special.tmask &&& ~~~g.hset = 0

/-- The keys of n tiles of the issuing group's core from tile i. -/
def theTiles (s : State) (cx : Cx) (i n : Nat) : List Nat :=
  (List.range n).map fun j => tileKey (teamOf s cx.g.ident.team) cx.g.ident.core (i + j)

/-- Tiles a lane-width's operation names: two at W64, else one. -/
def tilesOf (cx : Cx) : Nat := if cx.g.ident.width = 2 then 2 else 1

/-- The matrix operation an instruction has issued, at its PC. -/
def matrixOp (cx : Cx) (p : Payload) (ws : List RegWrite) : FlightOp :=
  { id := 0, cls := .matrix, mask := cx.f.mask, pc := cx.f.pc, payload := p, writes := ws }

/-- The range-lock table has n entries free, and no other instruction that asked for some before still waits for them (R230). -/
def LocksFree (s : State) (cx : Cx) (n : Nat) : Prop :=
  n = 0 ∨ ((islOf s cx.g.ident.island).mem.locks.length + n ≤ 256
    ∧ ∀ x, (askers s cx.g.ident.island).head? = some x → x = askerOf cx)

/-- The places of a pair's 32 tiles: tile, row, column. -/
def pairPlaces : List (Nat × Nat × Nat) :=
  (List.range 32).flatMap fun u => (List.range 32).flatMap fun r => (List.range 32).map fun c => (u, r, c)

/-- What the block that an MMAP is at makes of element (r, c) of tile u of its pair, which held x: the new element, its flags, and
whether the epilogue decided it (R175, R177). -/
def blockResult (s : State) (g : Group) (m : MmapRec) (u r c x : Nat) : Nat × Flg × Bool :=
  let mem := (teamOf s g.ident.team).mem
  let o := mmapOperands s g.ident.island m.word0 m.ty
  let row := 32 * (u % 16 / 4) + r
  let col := 128 * (u / 16) + 32 * (u % 4) + c
  let v := accumulate m.ty (rmode m.rm) (if m.done = 0 ∧ m.zero = true then 0 else x)
    (blockElems mem o.1 row m.done) (blockElems mem o.2 col m.done) (blockScaleAt mem o.1 row m.done) (blockScaleAt mem o.2 col m.done)
  let e := epiValue m.epi (epiLo m.word1) (epiHi m.word1) v.val
  if m.last = true ∧ m.done + 1 = mmapBlocks m.word0 ∧ m.epi ≠ 0 then
    (e.1, v.flags ||| e.2, epiDecided m.epi (epiLo m.word1) (epiHi m.word1) v.exact)
  else (v.val, v.flags, false)

/-- One accumulate of MMA and MMAP: the I8 sum, saturated with OF, or one rounding of the exact scaled dot product (R173, R177). -/
def AccumulateRule : Prop :=
  (∀ md acc a b sa sb, let v := accumulate 4 md acc a b sa sb
    let sum := signed acc 32 + ((a.zip b).map fun p => signed p.1 8 * signed p.2 8).sum
    (v.val, v.flags) = if 2 ^ 31 - 1 < sum then (2 ^ 31 - 1, flgOF) else if sum < -2 ^ 31 then (2 ^ 31, flgOF) else (wrap sum 32, 0))
  ∧ ∀ y md acc a b sa sb, y ≠ 4 → let v := accumulate y md acc a b sa sb
    let x := exactDot md (dec .f32 acc) ((a.map (dec (typeA y))).zip (b.map (dec (typeB y)))) (if y = 6 then some 0 else scalePair sa sb)
    (v.val, v.flags) = rndExact .f32 md x ∧ v.exact = x.1

/-- EPI and DECIDED of each epilogue (R181), and TEPI's element: EPI, then one rounding to its format (R184). -/
def EpilogueRule : Prop :=
  (∀ lo hi x, let v := dec .f32 x
    let l := dec .f32 lo
    let h := dec .f32 hi
    epiValue 0 lo hi x = (x, 0)
    ∧ epiValue 1 lo hi x = (if isNan v = true then canonicalNan .f32 else if 0 < extCmp v (.zero false) then x else 0, snanFlag [v])
    ∧ epiValue 2 lo hi x = (if isNan v = true ∨ isNan l = true ∨ isNan h = true then canonicalNan .f32
        else (minMax .f32 true (minMax .f32 false x lo).1 hi).1, snanFlag [v, l, h])
    ∧ epiValue 3 lo hi x = (if isNan v = true ∨ isNan l = true then canonicalNan .f32 else if 0 < extCmp v l then x else 0, snanFlag [v, l]))
  ∧ (∀ lo hi y, let l := dec .f32 lo
    let h := dec .f32 hi
    epiDecided 0 lo hi y = false
    ∧ (epiDecided 1 lo hi y = true ↔ isFinite y = true ∧ extCmp y (.zero false) < 0)
    ∧ (epiDecided 2 lo hi y = true ↔ isFinite y = true ∧ isNan l = false ∧ isNan h = false ∧ (extCmp y l < 0 ∨ 0 < extCmp y h))
    ∧ (epiDecided 3 lo hi y = true ↔ isFinite y = true ∧ isNan l = false ∧ extCmp y l < 0))
  ∧ (∀ p sat md lo hi x, tepiElem 5 p sat md lo hi x = (x, 0))
  ∧ ∀ f p sat md lo hi x, f ≠ 5 → let e := epiValue p lo hi x
    let v := dec .f32 e.1
    let r := if sat = true then satRnd (ofFmt f) md v else rnd (ofFmt f) md v
    tepiElem f p sat md lo hi x = (r.1, e.2 ||| snanFlag [v] ||| r.2)

/-- What TCOPY and TSTO do once their checks pass for the whole box and every page is translated (R226 to R231); where the
range-lock table has no room for their entries yet, they wait in their turn (R230). -/
def CopyStarts (i : Instr) (kind : Engine) (acc : Acc) (c : BitVec 3) (n : BitVec 1) (e d : BitVec 6) : Prop :=
  ∀ s cx s1 hs, Ready i s cx → condTrue cx.g.regs c n = true →
    let id := cx.g.ident
    let org := readS cx.g.regs e.toNat
    let w := readS cx.g.regs (e.toNat + 1)
    let x := tensorOf (objWords s id.island (opRec w))
    let key := barKey (teamOf s id.team) id.core (opTm w) (opBar w)
    let ps := boxPieces (boxRows x org (opTa w))
    let locks := copyLocks kind cx x (opTa w) ps
    let pins := pinPages hs
    (barOf s id.team key).eng < 255 → barvAhead cx key = false →
    (¬ LocksFree s cx locks.length → exec i s = .next (markWaiting (askLocks s cx) cx)) ∧ (LocksFree s cx locks.length →
    copyFault s cx org w (if kind = .tcopy then .read else .write) = none → checkEngine s cx acc acc.writes (pieceReqs ps) = .go s1 hs [] →
    pinsFit (islOf s1 id.island).mem pins = true →
    let u := done i s cx (goPast 4 (startEngine s1 cx
      { kind := kind, pieces := enginePieces hs ps, count := boxCount x, bar := key, d := d.toNat
        clear := if kind = .tcopy then imageSpans x (opTa w) else [] } locks pins
      (if d = 63 then [] else [{ elem := .s d.toNat, val := BitVec.ofNat 64 (boxCount x) }]) cx.f.mask) cx)
    exec i s = .next u ∧ Still s1 u cx ∧ (Present s id.island → tblGet? (islOf u id.island).mem.engines s.seq ≠ none))

/-- What PUT, GET, RATOM and NOTIFY do once their checks pass and there is room (R397 to R403). -/
def RemoteStarts (i : Instr) (kind : RemoteKind) (d b e aop : Nat) (small : Bool) : Prop :=
  ∀ s cx s1 hs, Ready i s cx →
    let id := cx.g.ident
    let k := blockOf cx.g.regs (4 * b)
    let wr : Bool := kind = .get
    let len := if copies kind then k.len else 0
    let ps := localPieces k.loc.toNat len
    let locks := remoteLocks kind id.ctx k.loc.toNat len
    let pins := pinPages hs
    let o : RemoteOp :=
      { kind := kind, grp := cx.key, age := cx.g.age, pc := cx.f.pc, ctx := id.ctx, panel := k.panel s.panel.number
        isl := k.isl, va := k.va, loc := k.loc, len := len, rne := k.rne, rctr := k.rctr, lne := k.lne, lctr := k.lctr
        aop := aop, small := small, d := d
        expect := if kind = .ratom ∧ aop = 14 then readS cx.g.regs e else 0, pieces := enginePieces hs ps }
    remoteFault s cx kind k aop small = none → checkLocal s cx wr k.loc.toNat len ps = .go s1 hs [] →
    (cx.g.ops.filter fun x => x.cls = .remote).length < 255 → windowOpen s1 id.island o = true →
    pinsFit (islOf s1 id.island).mem pins = true →
    (LocksFree s1 cx locks.length → exec i s = .next (done i s cx (startRemote s1 cx o locks pins)))
    ∧ (¬ LocksFree s1 cx locks.length → exec i s = .next (markWaiting (askLocks s1 cx) cx))

/-- What COLL and COLW come to once their checks pass and every page is translated (R416, R417). -/
def CollectiveStarts (i : Instr) (streamed : Bool) (d a : Nat) : Prop :=
  ∀ s cx s1 r, Ready i s cx →
    let id := cx.g.ident
    let ws := objWords s id.island (bits (readS cx.g.regs a).toNat 15 0)
    let isl := islOf s1 id.island
    let pins := pinPages r.hits
    collFault s cx streamed (readS cx.g.regs a) = none → checkSpans cx s {} (bucketSpans ws streamed) = .go s1 r → r.misses = [] →
    (16 ≤ isl.buckets.length → exec i s = .next (done i s cx (collEnd s1 cx d 2)))
    ∧ (isl.buckets.length < 16 → (runningBucket s1 id.island id.ctx (objField ws 3 47 32)).isSome = true →
      exec i s = .next (done i s cx (collEnd s1 cx d 3)))
    ∧ (isl.buckets.length < 16 → (runningBucket s1 id.island id.ctx (objField ws 3 47 32)).isSome = false →
      pinsFit isl.mem pins = true →
      exec i s = .next (done i s cx
        (startBucket (collEnd s1 cx d 0) cx (bucketOfDesc s1 cx ws streamed r) (nth r.pieces 0) pins)))

/-- What VCDEF, VCRSZ and VCRET do with an operand word whose records they may name (R263, R264). -/
def VcRuns (i : Instr) (op : VcOp) (d a : Nat) : Prop :=
  RunsIf i (fun s cx => operandReserved op (readS cx.g.regs a).toNat = false
      ∧ vcObjFault s cx.g.ident.island cx.g.ident.ctx op (readS cx.g.regs a).toNat = none) fun s cx =>
    let r := applyVc s cx.g.ident.island op (readS cx.g.regs a).toNat
    goPastWith 4 (fun g => writeS g d (BitVec.ofNat 64 r.1)) r.2 cx

/-- What acceptance leaves of a VC (R262): the state it enters, its definition, its maps, the banks still to come from VC 0, the
counter that the end of the step increments. -/
def acceptedVc (op : VcOp) (s : State) (i w : Nat) : Vc :=
  let x := cdrBits s i (w % 2 ^ 16)
  let v := vcOf (islOf s i).mem (cdrVcn x)
  let d := cdrDeckle (cdrBits s i (deckleRecord op w))
  let n := if w.testBit 48 then some (w / 2 ^ 32 % 2 ^ 16) else none
  match op with
  | .define =>
    { state := .defined, record := w % 2 ^ 16, spec := cdrSpec x, deckle := d, claim := deckleBanks d, notify := n }
  | .resize =>
    { v with state := .resizing, oldMap := v.deckle, deckle := d, hadShare := d ≠ [], mva := 0, mvs := 0, swb := 0, notify := n
             claim := (deckleBanks d).filter fun b => !(deckleBanks v.deckle).contains b }
  | .retire => { v with state := .draining, notify := n, draining := false, before := s.seq }

/-- The state of a VC admits an operation that names the record REC (R262, R264, R273). -/
def Admitted (x : Island) (op : VcOp) (vn rec : Nat) : Prop :=
  let v := vcOf x.mem vn
  match op with
  | .define => v.state = .undefined ∨ v.state = .retired
  | .resize => (v.state = .active ∨ v.state = .failed) ∧ v.record = rec
      ∧ ¬ (v.spec.shadow = true ∧ ∃ p ∈ x.ctxs, p.2.state = .parked ∧ p.2.shadow = vn)
  | .retire => (v.state = .active ∨ v.state = .failed ∨ v.state = .defined) ∧ v.record = rec

/-- An accepted operation enters the VC's next state, in the VC and in its record, and changes nothing else of any memory or of
any other VC (R262, R264). -/
def VcAccepted (op : VcOp) (code : Nat) : Prop :=
  ∀ s i w, Present s i → (applyVc s i op w).1 = 0 →
    let t := (applyVc s i op w).2
    let vn := cdrVcn (cdrBits s i (w % 2 ^ 16))
    let at_ := objAddr s i (w % 2 ^ 16)
    1 ≤ vn ∧ vn ≤ 62 ∧ vcOf (islOf t i).mem vn = acceptedVc op s i w
    ∧ (∀ v, v ≠ vn → vcOf (islOf t i).mem v = vcOf (islOf s i).mem v)
    ∧ cdrBits t i (w % 2 ^ 16) / 2 ^ 93 % 8 = code
    ∧ (∀ isl a, (isl ≠ i ∨ a < at_ + 8 ∨ at_ + 12 ≤ a) → byteAt t isl a = byteAt s isl a)
    ∧ t.teams = s.teams ∧ t.panel = s.panel ∧ t.groups = s.groups.map fun p => (p.1, wake p.2)

/-- The status of an operation, each case reached only where the ones before it do not hold (R264). -/
def VcStatus : Prop :=
  ∀ s i op w,
    let st := (applyVc s i op w).1
    let m := (islOf s i).mem
    let x := cdrBits s i (w % 2 ^ 16)
    let y := cdrBits s i (deckleRecord op w)
    let v := vcOf m (cdrVcn x)
    let claim := banksClaimed op v (cdrDeckle y)
    let bad := recordBad x = true ∨ deckleBad x = true ∨ deckleBad y = true
    let fit := Admitted (islOf s i) op (cdrVcn x) (w % 2 ^ 16)
    let differs := op = .resize ∧ (y / 2 ^ 36 % 4 ≠ v.spec.lineCode.toNat ∨ y / 2 ^ 38 % 8 ≠ v.spec.waysCode.toNat)
    let short := (∃ b ∈ claim, bankFree m b = false) ∨ (claim ≠ [] ∧ freeBanks m < claim.length + 24)
    let many := busyVc v = false ∧ 8 ≤ busyVcs m
    (bad → st = 3) ∧ (¬ bad → ¬ fit → st = 1) ∧ (¬ bad → fit → differs → st = 4) ∧ (¬ bad → fit → ¬ differs → short → st = 2)
    ∧ (¬ bad → fit → ¬ differs → ¬ short → many → st = 5) ∧ (¬ bad → fit → ¬ differs → ¬ short → ¬ many → st = 0)

/-- VCQ finds no VC of the context (R271). -/
def NoVc (m : IslandMem) (c vn : Nat) : Prop :=
  vn = 63 ∨ ((vcOf m vn).state ≠ .undefined ∧ (vcOf m vn).spec.owner ≠ c ∧ (vcOf m vn).spec.owner ≠ 0xFFFF)

/-- The word and the counts that VCQ gives, field by field (R271). -/
def VcqFields : Prop :=
  (∀ m c vn sel, NoVc m c vn → vcqResult m c vn sel = 63 * 2 ^ 8)
  ∧ ∀ m c vn, vn < 63 → ¬ NoVc m c vn →
    let v := vcOf m vn
    let q := vcqResult m c vn 0
    let cap := if vn = 0 then freeBanks m else (deckleBanks v.deckle).length
    let old := if v.state = .resizing then ((deckleBanks v.oldMap).filter fun b => !(deckleBanks v.deckle).contains b).length else 0
    vcqResult m c vn 1 = v.mva ∧ vcqResult m c vn 2 = v.mvs ∧ vcqResult m c vn 3 = v.swb
    ∧ (cap < 2 ^ 14 → old < 2 ^ 14 →
      q % 2 ^ 3 = vcCode v.state ∧ q / 2 ^ 3 % 2 = v.psn.toNat ∧ q / 2 ^ 4 % 2 ^ 4 = v.shrunk.toNat ∧ q / 2 ^ 8 % 2 ^ 8 = vn
      ∧ q / 2 ^ 16 % 2 ^ 16 = cap ∧ q / 2 ^ 32 % 2 ^ 14 = old ∧ q / 2 ^ 46 % 2 ^ 2 = v.spec.lineCode.toNat
      ∧ q / 2 ^ 48 % 2 ^ 3 = v.spec.waysCode.toNat ∧ q / 2 ^ 51 % 2 ^ 2 = v.spec.policy.toNat
      ∧ q / 2 ^ 53 % 2 = v.spec.fifo.toNat ∧ q / 2 ^ 54 % 2 = v.spec.affine.toNat ∧ q / 2 ^ 55 = v.spec.rc.toNat)

/-- A sector lies in one of the frames. -/
def Framed (fs : List (Nat × Nat)) (sec : Nat) : Prop := ∃ f ∈ fs, f.1 ≤ sec * 64 ∧ sec * 64 < f.1 + f.2

/-- What VCWB and VCINV leave of an island's caches over frames (R272): VCWB keeps every line, clean but where the host owns the
sector; VCINV keeps none of the frames, in VC or L1; a line outside the frames, and all else, is as before. -/
def FramesClean : Prop :=
  (∀ fs m sec, Framed fs sec → tblGet? (cleanFrames fs true m).sectors sec = none
    ∧ ∀ h, tblGet? m.home sec = some h → ∃ h', tblGet? (cleanFrames fs true m).home sec = some h'
      ∧ h'.shr = [] ∧ h'.si = [] ∧ h'.ownl = none ∧ h'.hst = h.hst)
  ∧ (∀ fs m sec, Framed fs sec → tblGet? (cleanFrames fs false m).sectors sec
      = (tblGet? m.sectors sec).map fun x => if (tblGet m.home sec).hst = .owned then x else { x with dirty := false })
  ∧ (∀ fs m sec h, Framed fs sec → tblGet? m.home sec = some h → ∃ h', tblGet? (cleanFrames fs false m).home sec = some h'
      ∧ h'.shr = h.shr ∧ h'.si = h.si ∧ h'.ownl = h.ownl ∧ h'.wrote = false ∧ h'.hst = h.hst)
  ∧ (∀ fs drop m sec, ¬ Framed fs sec → tblGet? (cleanFrames fs drop m).sectors sec = tblGet? m.sectors sec
      ∧ tblGet? (cleanFrames fs drop m).home sec = tblGet? m.home sec)
  ∧ ∀ fs drop m, { cleanFrames fs drop m with sectors := m.sectors, home := m.home } = m

/-- The frames that VCWB and VCINV act over (R270, R272): those of the leaves in the range that translate for a read and whose VC
gives no fault, every page of the range that a walk gives being among them. -/
def FramesFound : Prop :=
  (∀ s i c priv lo hi f, f ∈ (framesIn s i c priv lo hi).2 ↔ ∃ p ∈ leavesIn s i c lo hi, ∃ l,
    transOf c p.1 .read priv (leafAt s i p.2.1 p.2.2.1 p.2.2.2) = .ok l ∧ f = (l.frame, l.size)
    ∧ ∀ st vn, vcCheck (islOf s i).mem c (vctEntry s i c l.vcx 0).2 false ≠ .fault st vn)
  ∧ ∀ s i c priv lo hi va l, lo ≤ va → va < hi → hi ≤ 2 ^ 57 → transOf c va .read priv (walk s i c va).1 = .ok l →
    (∀ st vn, vcCheck (islOf s i).mem c (vctEntry s i c l.vcx 0).2 false ≠ .fault st vn) →
    (l.frame, l.size) ∈ (framesIn s i c priv lo hi).2

/-- What VCWB and VCINV do over a range (R272): the lines of its frames are written back, and VCINV drops them. -/
def CleanRuns (i : Instr) (drop : Bool) (a b c : Nat) (x : BitVec 1) : Prop :=
  RunsIf i (fun s cx => (x = 1 → (readS cx.g.regs c).toNat < 65536 ∧ privileged cx.g.ident = true)
      ∧ (readS cx.g.regs a).toNat < 2 ^ 57 ∧ (readS cx.g.regs a).toNat + (readS cx.g.regs b).toNat ≤ 2 ^ 57
      ∧ storesDone cx.g s.seq = true) fun s cx =>
    let id := cx.g.ident
    let lo := (readS cx.g.regs a).toNat
    let hi := lo + (readS cx.g.regs b).toNat
    let ctx := if x = 1 then (readS cx.g.regs c).toNat else id.ctx
    let r := framesIn s id.island ctx (privileged id) lo hi
    goPast 4 (modMem (touchLeaves r.1 id.island (leavesIn s id.island ctx lo hi)) id.island (cleanFrames r.2 drop)) cx

/-- A monitor that a program of the context may name, or any for privileged code (R428). -/
def mayMonitor (s : State) (cx : Cx) (n : Nat) : Prop := foreignMonitor s cx n = false

/-! ## What special registers hold -/

/-- The fields of GSTAT, its reserved bits zero (R34). -/
def GroupStatus : Prop :=
  ∀ s cx, cx.g.frags.length < 256 → cx.g.allot < 256 →
    let x := (registerRead s cx 0x00).toNat
    x / 2 ^ 32 = cx.g.frags.length ∧ x / 2 ^ 24 % 2 ^ 8 = cx.g.allot ∧ x / 2 ^ 18 % 2 ^ 6 = 0
    ∧ x / 2 ^ 16 % 2 ^ 2 = cx.g.ident.width.toNat ∧ x / 2 ^ 8 % 2 ^ 8 = 0
    ∧ x.testBit 7 = privileged cx.g.ident ∧ x.testBit 6 = cx.g.ident.sbchk ∧ x.testBit 5 = cx.g.ident.pool
    ∧ x.testBit 4 = false ∧ x.testBit 3 = false ∧ x.testBit 2 = cx.g.hmode ∧ x.testBit 1 = cx.g.hmode
    ∧ (x.testBit 0 = true ↔ ∃ f ∈ cx.g.frags, f.parked ≠ none)

/-- CLOCK is the clock of the issue that reads it, no earlier than the group's next clock nor than any clock its core has issued
in; an issue leaves its core's clock no earlier than its own (R36, R38). -/
def ClockRead : Prop :=
  (∀ s cx, (registerRead s cx 0x0A).toNat = issueClock s cx % 2 ^ 64 ∧ cx.g.clk ≤ issueClock s cx ∧ coreClock s cx ≤ issueClock s cx)
  ∧ ∀ fm s cx e, Present e cx.g.ident.island → issueClock s cx ≤ coreClock (issued fm s cx e) cx

/-- The identity registers of a group, and what a group of a grid starts with (R25, R37). -/
def IdentityRead : Prop :=
  (∀ s cx, let id := cx.g.ident
    registerRead s cx 0x10 = BitVec.ofNat 64 id.ctx ∧ registerRead s cx 0x11 = id.kern.setWidth 64
    ∧ registerRead s cx 0x12 = id.teamId.setWidth 64 ∧ registerRead s cx 0x13 = BitVec.ofNat 64 id.groupId
    ∧ registerRead s cx 0x14 = BitVec.ofNat 64 id.coreReg ∧ registerRead s cx 0x15 = BitVec.ofNat 64 id.islandReg)
  ∧ ∀ s gk g team n core slot, let id := (startGroup s gk g team n core slot).ident
    id.ctx = g.ctx ∧ id.kern = g.kern ∧ id.teamId = BitVec.ofNat 32 g.next ∧ id.groupId = n ∧ id.coreReg = core
    ∧ id.islandReg = s.panel.number % 2 ^ 10 * 2 ^ 16 + g.island % 2 ^ 6

/-! ## Classes of instructions -/

/-- The instructions of the integer chapter (R101 to R127). -/
def integerChapter : Instr → Bool
  | .iadd .. | .isub .. | .imul .. | .imulh .. | .imad .. | .imin .. | .imax .. | .iaddsat .. | .and .. | .or .. | .xor ..
  | .andn .. | .shl .. | .shr .. | .icmp .. | .iun .. | .iaddi .. | .andi .. | .ori .. | .xori .. | .shli .. | .shri ..
  | .icmpi .. | .movl .. | .movh .. | .sel .. | .shfl .. | .shfli .. | .lanev .. | .plog .. | .vote .. | .voteBallot ..
  | .redux .. => true
  | .uadd .. | .usub .. | .umul .. | .umulh .. | .uand .. | .uor .. | .uxor .. | .ushl .. | .ushr .. | .umin .. | .umax ..
  | .ucmp .. | .usel .. | .uaddi .. | .uandi .. | .ucmpi .. | .umovi .. | .uun .. | .clog .. => true
  | _ => false

/-- The privileged encodings (R62). -/
def privilegedEncoding : Instr → Bool
  | .vcdef .. | .vcrsz .. | .vcret .. | .pfence .. | .pfenceRel .. | .trinv .. => true
  | .rdsr _ _ n => 0x20 ≤ n.toNat
  | .wrsr _ n _ => 0x20 ≤ n.toNat
  | _ => false

/-- Lane opcodes 0x00 to 0x19, 0x1C and 0x1D (R46). -/
def fixedLane : Instr → Bool
  | .iadd .. | .isub .. | .imul .. | .imulh .. | .imad .. | .imin .. | .imax .. | .iaddsat .. | .and .. | .or .. | .xor ..
  | .andn .. | .shl .. | .shr .. | .icmp .. | .iun .. | .iaddi .. | .andi .. | .ori .. | .xori .. | .shli .. | .shri ..
  | .icmpi .. | .movl .. | .movh .. | .sel .. | .lanev .. | .plog .. => true
  | _ => false

/-- The uniform ALU: uniform opcodes 0x00 to 0x12 (R46). -/
def fixedUniform : Instr → Bool
  | .uadd .. | .usub .. | .umul .. | .umulh .. | .uand .. | .uor .. | .uxor .. | .ushl .. | .ushr .. | .umin .. | .umax ..
  | .ucmp .. | .usel .. | .uaddi .. | .uandi .. | .ucmpi .. | .umovi .. | .uun .. | .clog .. => true
  | _ => false

/-- An instruction whose checks at issue are those of its form alone; CHAIN's come after those of its links. -/
def plainIssue (i : Instr) : Prop := hasWords i = true ∧ ∀ st l k, i ≠ .chain st l k

/-- A cause word's class is not PRIV (R36, R320). -/
def NotPriv (cause : DWord) : Prop := cause.toNat % 256 ≠ 0x02

/-- The lowest lane of the fragment whose address is no multiple of n. -/
def LowestMisaligned (cx : Cx) (n : Nat) (addr : Nat → Nat) (l : Nat) : Prop :=
  inMask cx.f.mask l = true ∧ addr l % n ≠ 0 ∧ ∀ j, j < l → inMask cx.f.mask j = true → addr j % n = 0

/-- A lane instruction takes ALIGN at its lowest misaligned lane. -/
def AlignsLanes (i : Instr) (n : Nat) (addr : Cx → Nat → Nat) : Prop :=
  ∀ s cx l, Ready i s cx → LowestMisaligned cx n (addr cx) l →
    exec i s = .next (takeFault s cx { cls := 0x08, status := 1, lane := some l })

/-- A uniform instruction takes ALIGN for a misaligned address. -/
def AlignsOnce (i : Instr) (n : Nat) (addr : Cx → Nat) : Prop :=
  FaultsIf i (fun _ cx => addr cx % n ≠ 0) fun _ => { cls := 0x08, status := 1 }

/-- The virtual address of a lane through T[t] (R243, R296). -/
def laneVa (t : BitVec 3) (a : BitVec 7) (x : BitVec 1) (n : Nat) (cx : Cx) (l : Nat) : Nat :=
  (readT cx.g.regs t.toNat).base.toNat + laneOffset cx.g.regs a x n l

/-- The virtual address of a uniform access through T[t] (R243, R296). -/
def uniVa (t : BitVec 3) (a : BitVec 6) (x : BitVec 1) (n : Nat) (cx : Cx) : Nat :=
  (readT cx.g.regs t.toNat).base.toNat + (readS cx.g.regs a.toNat).toNat % 2 ^ 32 * (if x = 1 then n else 1)

/-- What the checks of a lane access come to where they do not let every lane perform (R246, R247, R298). -/
def AccessStops (i : Instr) (w : Want) (n : Nat) (reqs : Cx → List Req) : Prop :=
  ∀ s cx s1, Ready i s cx →
    (∀ c, checkGlobal s cx w (reqs cx) = .fault s1 c → exec i s = .next (takeFault s1 cx c))
    ∧ (checkGlobal s cx w (reqs cx) = .wait s1 → exec i s = .next (markWaiting s1 cx))
    ∧ (∀ ms, checkGlobal s cx w (reqs cx) = .go s1 [] ms → exec i s = .next (park s1 cx .lane w.acc n ms))
    ∧ ∀ h hs ms, checkGlobal s cx w (reqs cx) = .go s1 (h :: hs) ms → ms ≠ [] → ∃ u e, exec i s = .next u
      ∧ u = done i s cx (park e cx .lane w.acc n ms) ∧ (grpOf e cx.key).frags = cx.g.frags

/-- What the checks of a uniform access come to where they do not let it perform: a miss parks the whole fragment (R247, R298). -/
def UniformStops (i : Instr) (w : Want) (req : Cx → Req) : Prop :=
  ∀ s cx s1, Ready i s cx →
    (∀ c, checkGlobal s cx w [req cx] = .fault s1 c → exec i s = .next (takeFault s1 cx c))
    ∧ (checkGlobal s cx w [req cx] = .wait s1 → exec i s = .next (markWaiting s1 cx))
    ∧ ∀ ms, checkGlobal s cx w [req cx] = .go s1 [] ms → exec i s = .next (park s1 cx .uniform w.acc 4 ms)

/-- The lowest lane of the fragment of which P holds. -/
def LowestLane (cx : Cx) (P : Nat → Prop) (l : Nat) : Prop :=
  inMask cx.f.mask l = true ∧ P l ∧ ∀ j, j < l → inMask cx.f.mask j = true → ¬ P j

/-- Where the team addresses of an access of n bytes are aligned, the lowest lane beyond the team's memory takes PROT, and where
none is beyond it, the lowest lane whose bytes lie in a range that an engine holds takes its fault, with no effect (R230, R298,
R303). -/
def TeamStops (i : Instr) (n : Nat) (wr : Bool) (addr : Cx → Nat → Nat) : Prop :=
  ∀ s cx l, Ready i s cx → (∀ j, inMask cx.f.mask j = true → addr cx j % n = 0) →
    let beyond := fun j => teamExtent (teamOf s cx.g.ident.team) < addr cx j + n
    let held := fun j => lockHit (islOf s cx.g.ident.island).mem true cx.g.ident.team (addr cx j) n wr
    (LowestLane cx beyond l → exec i s = .next (takeFault s cx { cls := 0x11, status := 2, lane := some l }))
    ∧ ∀ k, (∀ j, inMask cx.f.mask j = true → ¬ beyond j) → LowestLane cx (fun j => held j ≠ none) l → held l = some k →
      exec i s = .next (takeFault s cx
        { cls := 0x12, status := BitVec.ofNat 8 k.1, info := BitVec.ofNat 32 k.2, lane := some l })

/-- The words of a list of instructions, as memory holds them. -/
def bytesOfWords (ws : List Nat) : List Byte := ws.flatMap fun w => leBytes w 4

end Sys2Proof.Machine

open Sys2Proof Sys2Proof.Machine

/-! ## Words (R44 to R65) -/

/-- Words written out in the spec's own examples decode to the instructions they stand for (R54, R64, R109 to R118, R193). -/
def Obligations.DecodeWords : Prop :=
  decode (bytesOfWords [0x718A040C]) = .ok (.fma 3 10 2 3 0, [])
  ∧ decode (bytesOfWords [0x18140A93]) = .ok (.ld 0 20 5 2 2 1 1, [])
  ∧ decode (bytesOfWords [0xA34413FF]) = .ok (.uaddi 1 4 4 0x3FF, [])
  ∧ decode (bytesOfWords [0x84090000, 0x12345678]) = .ok (.umovi 0 9 0 0x12345678, [])
  ∧ decode (bytesOfWords [0x17800000]) = .error .unassigned
  ∧ decode (bytesOfWords [0x8B7E0000]) = .error .reserved
  ∧ decode (bytesOfWords [0x0E98040C]) = .ok (.plog 0 1 8 2 3, [])
  ∧ decode (bytesOfWords [0x88C05000]) = .ok (.brx 0 20, [])

/-- R44 to R62: the decoder reads back every operand of every well-formed instruction, whatever follows its words. -/
def Obligations.DecodeEncode : Prop :=
  ∀ i rest, hasWords i = true → wellFormed i = true → decode (encodeBytes i ++ rest) = .ok (i, rest)

/-- R44 to R63: what the decoder accepts is a well-formed instruction, and its bytes are the ones the encoder writes: no two
words of one length stand for one instruction, and no reserved bit is passed over. -/
def Obligations.EncodeDecode : Prop :=
  ∀ bs i rest, decode bs = .ok (i, rest) → wellFormed i = true ∧ hasWords i = true ∧ bs = encodeBytes i ++ rest

/-! ## A step (R8, R61, R190, R241; logs 3, 9) -/

/-- R61: with nothing due, the issuing fragment's PC is translated for a fetch, the bytes there are decoded, and the step is
exec of the instruction, in the state the fetch leaves; a two-word instruction's second word comes from PC + 4. An event that
is due is executed by itself. Every step first counts itself and lets panel time pass (log 4).
Which event is due and which fragment issues are the model's choices (log 3). A barrier's time-out comes before every event
(R233), and a fault that is due to the fragment before its fetch (R162, R250). -/
def Obligations.StepRunsDecoded : Prop :=
  (∀ s c cx s1 b i, s.agenda = [] → lateBarrier (passTime s) = none → chooseStep (passTime s) = .issuer c →
    issuing { passTime s with cur := some c } = some cx → cx.f.due = none →
    fetchWord { passTime s with cur := some c } cx cx.f.pc = .ok s1 b → decode b = .ok (i, []) → step s = exec i s1)
  ∧ (∀ s c cx s1 s2 b b' i, s.agenda = [] → lateBarrier (passTime s) = none → chooseStep (passTime s) = .issuer c →
    issuing { passTime s with cur := some c } = some cx → cx.f.due = none →
    fetchWord { passTime s with cur := some c } cx cx.f.pc = .ok s1 b → decode b = .error .truncated →
    fetchWord s1 cx (pcAdd cx.f.pc 4) = .ok s2 b' → decode (b ++ b') = .ok (i, []) → step s = exec i s2)
  ∧ (∀ s cx va s1 b, fetchWord s cx va = .ok s1 b → ∃ l e,
    translate s cx.g.ident.island cx.g.ident.ctx (privileged cx.g.ident) va.toNat .fetch 0 = (e, .ok l)
    ∧ b = physBytes e cx.g.ident.island l.phys 4)
  ∧ (∀ s i, lateBarrier (passTime s) = some i → step s = exec i { passTime s with cur := none })
  ∧ (∀ s i rest, lateBarrier (passTime s) = none → s.agenda = i :: rest →
    step s = exec i { passTime s with agenda := rest, cur := none })
  ∧ ∀ s i, s.agenda = [] → lateBarrier (passTime s) = none → chooseStep (passTime s) = .event i →
    step s = exec i { passTime s with cur := none }

/-- Every instruction with words answers a next state wherever a fragment issues, and every event does in every state: there is
no state in which one of them stops.
The machine never stops: from every state whose next due event, where there is one, is no instruction with words, a step
answers a state.
The order of events is the model's choice (log 3); the machine of the spec has no stopped state either. -/
def Obligations.StepAlwaysAnswers : Prop :=
  (∀ i s, (issuing s).isSome = true ∨ hasWords i = false → ∃ t, exec i s = .next t)
  ∧ (∀ s : State, (∀ i rest, s.agenda = i :: rest → hasWords i = false) → Goes s)

/-- R19, R22: before power good nothing is numbered and nothing runs: boot phase 0, no island, no group, no team, no event due,
no byte of memory listed; what powerless parts the panel keeps is as a shipped panel's (log 1). -/
def Obligations.ResetState : Prop :=
  State.reset.panel.phase = 0 ∧ State.reset.panel.ncount = 0 ∧ State.reset.panel.error = 0 ∧ State.reset.islands = []
  ∧ State.reset.groups = [] ∧ State.reset.teams = [] ∧ State.reset.agenda = [] ∧ State.reset.cur = none
  ∧ State.reset.hostMem = [] ∧ State.reset.panel.queues = [] ∧ State.reset.panel.ptime = 0

/-- Log 2: every memory of the reset state is in canonical form. -/
def Obligations.MemoryFormAtReset : Prop := MemoryOk State.reset

/-- Log 2: every step, whatever it executes, keeps every memory of the machine in canonical form.
The form is the model's own choice of how a memory is written down. -/
def Obligations.MemoryFormKept : Prop := ∀ s t, MemoryOk s → step s = .next t → MemoryOk t

/-! ## Issue (R30, R45 to R47, R62 to R64, R191, R209, R210) -/

/-- R62: the privileged encodings, and that a program that issues one takes PRIV with no effect; no other encoding gives
PRIV: no check of its issue does, and where no PRIV waits already for the handler or for a fence, none is in TCAUSE or
waits for the handler after it that software did not write there. -/
def Obligations.PrivilegedEncodings : Prop :=
  (∀ i s cx, issuing s = some cx → privilegedEncoding i = true → privileged cx.g.ident = false →
    exec i s = .next (takeFault s cx { cls := 0x02 }))
  ∧ (∀ i s cx c, privilegedEncoding i = false → gate (formOf i s cx) s cx = .fault c → c.cls ≠ 0x02)
  ∧ (∀ i s cx, (formOf i s cx).priv = privilegedEncoding i)
  ∧ ∀ i s cx t, issuing s = some cx → hasWords i = true → privilegedEncoding i = false → (∀ st a, i ≠ .wrsr st 4 a) →
    cx.g.trapReq = none → (∀ h ∈ cx.g.held, NotPriv h.cause) → NotPriv cx.g.special.tcause → exec i s = .next t →
    NotPriv (grpOf t cx.key).special.tcause ∧ ∀ r, (grpOf t cx.key).trapReq = some r → NotPriv r.cause

/-- R64: the checks of an instruction whose encoding is legal, each reached only where the ones before it pass: PRIV, the
encodings a group may not use, operands, results still to come, STALLCHK, CONVERGE, REGPOISON. -/
def Obligations.IssueOrder : Prop :=
  ∀ i s cx, plainIssue i → issuing s = some cx →
    let fm := formOf i s cx
    let fault := fun (c : Cause) => exec i s = .next (takeFault s cx c)
    let pending := pendingIn cx.g (readElems fm cx ++ writeElems fm cx)
    let late : Bool := cx.g.ident.sbchk && scoreReady cx.g (issueClock s cx) (readElems fm cx) > issueClock s cx
    let legal := fm.priv = true → privileged cx.g.ident = true
    (¬ legal → fault { cls := 0x02 })
    ∧ (legal → fm.bad0 cx = true → fault { cls := 0x01 })
    ∧ (legal → fm.bad0 cx = false → fm.bad cx = true → fault { cls := 0x01, status := 1 })
    ∧ (legal → fm.bad0 cx = false → fm.bad cx = false → pending = true → exec i s = .next (waitIssue fm s cx))
    ∧ (legal → fm.bad0 cx = false → fm.bad cx = false → pending = false → late = true → fault { cls := 0x03 })
    ∧ (legal → fm.bad0 cx = false → fm.bad cx = false → pending = false → late = false → fm.conv = true →
      (∀ st, meet cx = .fault st → fault { cls := 0x04, status := st })
      ∧ (meet cx = .wait → exec i s = .next (waitIssue fm s cx)))
    ∧ (legal → fm.bad0 cx = false → fm.bad cx = false → pending = false → late = false → (fm.conv = true → meet cx = .go) →
      ∀ c, firstPoison fm cx = some c → c.cls = 0x05 ∧ fault c)

/-- R46: which producers have a fixed latency, and how long.
R28, R45, R46: an issue moves its group's clock on by its issue cycles, its stall count and what YIELD gives away, and
notes when each fixed-latency result is ready; a result still to come stays so in the lanes the instruction does not write; a
stall count changes nothing else.
The clocks an issue may lose to other groups are the model's free value (log 15). -/
def Obligations.IssueClock : Prop :=
  (∀ i s cx, plainIssue i →
    (formOf i s cx).lat = if fixedLane i = true then 4 else if fixedUniform i = true then 2 else 0)
  ∧ (∀ fm s cx g, issuing s = some cx →
    let t := issued fm s cx (withGroup s cx g)
    let h := grpOf t cx.key
    let last := readyClock fm s cx + (if fm.lane = true ∧ g.ident.width = 2 then 1 else 0)
    h.clk = last + fm.st.toNat + 1 + fm.extra ∧ h.stall = fm.st.toNat
    ∧ (∀ p ∈ h.score, (∃ q ∈ g.score, p.reg = q.reg ∧ p.ready = q.ready ∧ last < p.ready
        ∧ (p.mask = q.mask ∨ p.mask = q.mask &&& ~~~cx.f.mask))
      ∨ (p.ready = last + fm.lat ∧ p.mask = cx.f.mask ∧ p.reg ∈ fm.dsts ∧ fm.lat ≠ 0))
    ∧ (∀ e ∈ fm.dsts, fm.lat ≠ 0 → hardwired e = false → ∃ p ∈ h.score, p.reg = e ∧ p.ready = last + fm.lat ∧ p.mask = cx.f.mask)
    ∧ ∀ st', let h' := grpOf (issued { fm with st := st' } s cx (withGroup s cx g)) cx.key
      h'.regs = h.regs ∧ h'.special = h.special ∧ h'.frags = h.frags ∧ h'.ops = h.ops ∧ h'.score = h.score)

/-- R103: no instruction of the integer chapter raises a sticky flag or takes ARITH, whatever its operands. -/
def Obligations.IntegerRaisesNoFlags : Prop :=
  (∀ i s cx t, integerChapter i = true → Ready i s cx → exec i s = .next t →
    (grpOf t cx.key).special.flags = cx.g.special.flags ∧ (grpOf t cx.key).special.tcause = cx.g.special.tcause
    ∧ (grpOf t cx.key).trapReq = cx.g.trapReq ∧ (grpOf t cx.key).held = cx.g.held)
  ∧ ∀ i s cx c, integerChapter i = true → gate (formOf i s cx) s cx = .fault c → c.cls ≠ 0x07

/-- R30: S63 reads zero and C7 and P7 read one, whatever is written; every other register reads what was last written. -/
def Obligations.HardWiredRegisters : Prop :=
  (∀ g, readS g 63 = 0 ∧ readC g 7 = true ∧ ∀ l, l < 64 → inMask (readP g 7) l = true)
  ∧ (∀ g x, writeS g 63 x = g) ∧ (∀ g x, writeC g 7 x = g) ∧ (∀ g k x, writeP g 7 k x = g)
  ∧ (∀ g r q x, r < 63 → readS (writeS g r x) q = if q = r then x else readS g q)
  ∧ (∀ g r q x, r < 7 → q ≤ 7 → readC (writeC g r x) q = if q = r then x else readC g q)
  ∧ (∀ g r q k x l, r < 7 → l < 64 → inMask (readP (writeP g r k x) q) l
    = if q = r ∧ inMask k l = true then inMask x l else inMask (readP g q) l)
  ∧ (∀ g r q k (f : Nat → Word) l, l < 64 → readV (writeV g r k f) q l = if q = r ∧ inMask k l = true then f l else readV g q l)
  ∧ ∀ g r q x, readT (writeT g r x) q = if q = r then x else readT g q

/-! ## Lane integer instructions (R101 to R118) -/

/-- R105: the results of the two-operand lane instructions, and their frame. -/
def Obligations.LaneTwoOperandResults : Prop :=
  LaneTwo .iadd (fun _ r => r.x + r.y) ∧ LaneTwo .isub (fun _ r => r.x - r.y) ∧ LaneTwo .imul (fun _ r => r.x * r.y)
  ∧ LaneTwo .imulh (fun m r => r.x * r.y / (2 ^ laneWid m : Nat)) ∧ LaneTwo .imad (fun _ r => r.x * r.y + r.old)
  ∧ LaneTwo .imin (fun _ r => if r.x ≤ r.y then r.x else r.y) ∧ LaneTwo .imax (fun _ r => if r.x ≤ r.y then r.y else r.x)
  ∧ LaneTwo .iaddsat (fun m r => min (max (r.x + r.y) (minv (laneSgn m) (laneWid m))) (maxv (laneSgn m) (laneWid m)))
  ∧ LaneTwo .and (fun m r => (wrap r.x (laneWid m) &&& wrap r.y (laneWid m) : Nat))
  ∧ LaneTwo .or (fun m r => (wrap r.x (laneWid m) ||| wrap r.y (laneWid m) : Nat))
  ∧ LaneTwo .xor (fun m r => (wrap r.x (laneWid m) ^^^ wrap r.y (laneWid m) : Nat))
  ∧ LaneTwo .andn (fun m r => (wrap r.x (laneWid m) &&& (2 ^ laneWid m - 1 - wrap r.y (laneWid m)) : Nat))
  ∧ LaneTwo .shl (fun m r => if laneWid m ≤ r.c then 0 else r.x * 2 ^ r.c)
  ∧ LaneTwo .shr (fun m r => if laneWid m ≤ r.c then (if laneSgn m ∧ r.x < 0 then -1 else 0) else r.x / (2 ^ r.c : Nat))

/-- R106 to R114: the results of the unary, immediate, compare, move, select and predicate instructions of the lanes. -/
def Obligations.LaneOneOperandResults : Prop :=
  (∀ st d a u m, WritesV (.iun st d a u m) d.toNat (laneRegs m) plain fun cx g l =>
    rdvBits g d.toNat l m = wrap (unary u.toNat (laneWid m) (rdv cx.g.regs a.toNat l m)) (laneWid m))
  ∧ (∀ st d a i, LaneImm (.iaddi st d a i) d a fun x => x + i.signExtend 32)
  ∧ (∀ st d a i, LaneImm (.andi st d a i) d a fun x => x &&& i.signExtend 32)
  ∧ (∀ st d a i, LaneImm (.ori st d a i) d a fun x => x ||| i.signExtend 32)
  ∧ (∀ st d a i, LaneImm (.xori st d a i) d a fun x => x ^^^ i.signExtend 32)
  ∧ (∀ st d a n, LaneImm (.shli st d a n) d a fun x => x <<< n.toNat)
  ∧ (∀ st d a n, LaneImm (.shri st d a 0 n) d a fun x => x >>> n.toNat)
  ∧ (∀ st d a n, LaneImm (.shri st d a 1 n) d a fun x => x.sshiftRight n.toNat)
  ∧ (∀ st p c a b m, WritesP (.icmp st p c a b m) p.toNat plain fun cx l =>
    intCond c.toNat (rdv cx.g.regs a.toNat l m) (rdv cx.g.regs b.toNat l m) = true)
  ∧ (∀ st p c a i, c.toNat < 8 → WritesP (.icmpi st p c a i) p.toNat plain fun cx l =>
    intCond c.toNat (readV cx.g.regs a.toNat l).toInt i.toInt = true)
  ∧ (∀ st p c a i, 8 ≤ c.toNat → WritesP (.icmpi st p c a i) p.toNat plain fun cx l =>
    intCond (c.toNat - 8) (readV cx.g.regs a.toNat l).toNat (i.signExtend 32).toNat = true)
  ∧ (∀ st d i, WritesV (.movl st d i) d.toNat 1 plain fun _ g l => readV g d.toNat l = i.setWidth 32)
  ∧ (∀ st d i, WritesV (.movh st d i) d.toNat 1 plain fun cx g l =>
    (readV g d.toNat l).toNat = i.toNat * 65536 + (readV cx.g.regs d.toNat l).toNat % 65536)
  ∧ (∀ st d a b p, WritesV (.sel st d a b p) d.toNat 1 plain fun cx g l =>
    readV g d.toNat l = if inMask (readP cx.g.regs p.toNat) l = true then readV cx.g.regs a.toNat l else readV cx.g.regs b.toNat l)
  ∧ (∀ st d, WritesV (.lanev st d) d.toNat 1 plain fun _ g l => (readV g d.toNat l).toNat = l)
  ∧ (∀ st p tt x y, WritesP (.plog st p tt x y) p.toNat plain fun cx l =>
    tt.getLsbD (2 * (inMask (readP cx.g.regs x.toNat) l).toNat + (inMask (readP cx.g.regs y.toNat) l).toNat) = true)

/-- R115 to R118: SHFL, SHFLI, VOTE, VOTE.BALLOT and REDUX read only the lanes of the fragment, write every lane of it, and
a partial fragment sets XLFLAG. -/
def Obligations.CrossLaneResults : Prop :=
  (∀ st d a b m, WritesV (.shfl st d a b m) d.toNat 1 crossed fun cx g l =>
    Shuffled cx g d.toNat a.toNat m (readV cx.g.regs b.toNat l).toNat l)
  ∧ (∀ st d a m n, WritesV (.shfli st d a m n) d.toNat 1 crossed fun cx g l => Shuffled cx g d.toNat a.toNat m n.toNat l)
  ∧ (∀ st p x, WritesP (.vote st p 0 x) p.toNat crossed fun cx _ => ∃ j, HoldsIn cx x.toNat j)
  ∧ (∀ st p x, WritesP (.vote st p 1 x) p.toNat crossed fun cx _ =>
    ∀ j, inMask cx.f.mask j = true → HoldsIn cx x.toNat j)
  ∧ (∀ st p x, WritesP (.vote st p 2 x) p.toNat crossed fun cx _ =>
    ∀ j k, inMask cx.f.mask j = true → inMask cx.f.mask k = true → (HoldsIn cx x.toNat j ↔ HoldsIn cx x.toNat k))
  ∧ (∀ st x b, WritesV (.voteBallot st x b) b.toNat 2 crossed fun cx g l =>
    ∀ j, (readPair g b.toNat l).testBit j = true ↔ HoldsIn cx x.toNat j)
  ∧ (∀ st d a m, WritesV (.redux st d a 0 m) d.toNat (laneRegs m) crossed fun cx g l =>
    Reduced cx g d.toNat a.toNat l m 0 (· + ·))
  ∧ (∀ st d a m, WritesV (.redux st d a 1 m) d.toNat (laneRegs m) crossed fun cx g l =>
    Reduced cx g d.toNat a.toNat l m (maxv (laneSgn m) (laneWid m)) min)
  ∧ (∀ st d a m, WritesV (.redux st d a 2 m) d.toNat (laneRegs m) crossed fun cx g l =>
    Reduced cx g d.toNat a.toNat l m (minv (laneSgn m) (laneWid m)) max)
  ∧ (∀ st d a m, WritesV (.redux st d a 3 m) d.toNat (laneRegs m) crossed fun cx g l =>
    Reduced cx g d.toNat a.toNat l m ((2 ^ laneWid m - 1 : Nat)) fun x y => (wrap x (laneWid m) &&& wrap y (laneWid m) : Nat))
  ∧ (∀ st d a m, WritesV (.redux st d a 4 m) d.toNat (laneRegs m) crossed fun cx g l =>
    Reduced cx g d.toNat a.toNat l m 0 fun x y => (wrap x (laneWid m) ||| wrap y (laneWid m) : Nat))
  ∧ (∀ st d a m, WritesV (.redux st d a 5 m) d.toNat (laneRegs m) crossed fun cx g l =>
    Reduced cx g d.toNat a.toNat l m 0 fun x y => (wrap x (laneWid m) ^^^ wrap y (laneWid m) : Nat))

/-! ## Floating-point instructions (R128 to R143) -/

/-- R131, R132: one rounding of the exact result under FPCTL.RM in every lane and half, and its flags raised.
R133 to R139: compares, scaling, FUN and CVT.
The value of a special function is enclosed at rising precision (log 11), and an inexact quotient or root rounded from
an odd value (log 12): both are the model's. -/
def Obligations.FloatResults : Prop :=
  (FloatTwo .fadd (fun f md x y _ => rndExact f md (exactAdd md (dec f x) (dec f y)))
  ∧ FloatTwo .fsub (fun f md x y _ => rndExact f md (exactSub md (dec f x) (dec f y)))
  ∧ FloatTwo .fmul (fun f md x y _ => rndExact f md (exactMul (dec f x) (dec f y)))
  ∧ FloatTwo .fma (fun f md x y z => rndExact f md (exactFma md (dec f x) (dec f y) (dec f z)))
  ∧ FloatTwo .fdiv (fun f md x y _ => rndExact f md (exactDiv (dec f x) (dec f y)))
  ∧ FloatTwo .fmin (fun f _ x y _ => minMax f true x y)
  ∧ FloatTwo .fmax (fun f _ x y _ => minMax f false x y))
  ∧ ((∀ st p c a b m, WritesP (.fcmp st p c a b m) p.toNat
    (fun cx => raised cx fun l => (0, snanFlag [rdf cx.g.regs a.toNat l m 0, rdf cx.g.regs b.toNat l m 0]))
    fun cx l => floatCond c.toNat (rdf cx.g.regs a.toNat l m 0) (rdf cx.g.regs b.toNat l m 0) = true)
  ∧ (∀ st d a b m, FloatResult (.fscl st d a b m) d.toNat (fmtRegs m) (m = 3) fun md g l =>
    halves m fun h => rnd (efmt m) md (scale2 (rdf g a.toNat l m h) (readV g b.toNat l).toInt))
  ∧ (∀ st d a m, FloatResult (.funOp st d a 9 m) d.toNat 1 false fun _ g l =>
    halves m fun h => (classMask (efmt m) (rdfBits g a.toNat l m h), 0))
  ∧ (∀ st d a u m, u ≠ 9 → FloatResult (.funOp st d a u m) d.toNat (fmtRegs m) (m = 3) fun md g l =>
    halves m fun h => funResult (efmt m) md u.toNat (rdfBits g a.toNat l m h))
  ∧ (∀ st d a t u x, FloatResult (.cvt st d a t u x) d.toNat (cvtRegs t.toNat) (cvtRegs t.toNat = 2) fun md g l =>
    cvtResult t.toNat (x = 1) md
      (cvtSource u.toNat (if cvtRegs u.toNat = 2 then readPair g a.toNat l else (readV g a.toNat l).toNat))))

/-! ## The uniform ALU (R119 to R127) -/

/-- R120: the results of the two-operand uniform instructions, and their frame.
R121 to R127: the other uniform instructions. -/
def Obligations.UniformResults : Prop :=
  (UniTwo .uadd (fun _ r => r.x + r.y) ∧ UniTwo .usub (fun _ r => r.x - r.y) ∧ UniTwo .umul (fun _ r => r.x * r.y)
  ∧ UniTwo .umulh (fun m r => r.x * r.y / (2 ^ uniWid m : Nat))
  ∧ UniTwo .uand (fun m r => (wrap r.x (uniWid m) &&& wrap r.y (uniWid m) : Nat))
  ∧ UniTwo .uor (fun m r => (wrap r.x (uniWid m) ||| wrap r.y (uniWid m) : Nat))
  ∧ UniTwo .uxor (fun m r => (wrap r.x (uniWid m) ^^^ wrap r.y (uniWid m) : Nat))
  ∧ UniTwo .ushl (fun m r => if uniWid m ≤ r.c then 0 else r.x * 2 ^ r.c)
  ∧ UniTwo .ushr (fun m r => if uniWid m ≤ r.c then (if uniSgn m ∧ r.x < 0 then -1 else 0) else r.x / (2 ^ r.c : Nat))
  ∧ UniTwo .umin (fun _ r => if r.x ≤ r.y then r.x else r.y) ∧ UniTwo .umax (fun _ r => if r.x ≤ r.y then r.y else r.x))
  ∧ ((∀ st c a b m, WritesC (.ucmp st c a b m) c.toNat fun g => intCond (m.toNat % 8)
    (if m.toNat < 8 then (readS g a.toNat).toInt else (readS g a.toNat).toNat)
    (if m.toNat < 8 then (readS g b.toNat).toInt else (readS g b.toNat).toNat))
  ∧ (∀ st d a b c, WritesS (.usel st d a b c) d.toNat fun g =>
    if readC g c.toNat = true then readS g a.toNat else readS g b.toNat)
  ∧ (∀ st d a i, WritesS (.uaddi st d a i) d.toNat fun g => readS g a.toNat + i.signExtend 64)
  ∧ (∀ st d a i, WritesS (.uandi st d a i) d.toNat fun g => readS g a.toNat &&& i.signExtend 64)
  ∧ (∀ st c n a i, n.toNat < 6 → WritesC (.ucmpi st c n a i) c.toNat fun g =>
    intCond n.toNat (readS g a.toNat).toInt i.toInt)
  ∧ (∀ st c a i, WritesC (.ucmpi st c 6 a i) c.toNat fun g => (readS g a.toNat).toNat < (i.signExtend 64).toNat)
  ∧ (∀ st c a i, WritesC (.ucmpi st c 7 a i) c.toNat fun g => (i.signExtend 64).toNat ≤ (readS g a.toNat).toNat)
  ∧ (∀ st d imm, WritesS (.umovi st d 0 imm) d.toNat fun _ => imm.setWidth 64)
  ∧ (∀ st d imm, WritesS (.umovi st d 1 imm) d.toNat fun _ => imm.signExtend 64)
  ∧ (∀ st d imm, WritesS (.umovi st d 2 imm) d.toNat fun g =>
    BitVec.ofNat 64 (imm.toNat * 2 ^ 32 + (readS g d.toNat).toNat % 2 ^ 32))
  ∧ (∀ st d a u m, WritesS (.uun st d a u m) d.toNat fun g =>
    wrsVal m (unary u.toNat (uniWid m) (rds g a.toNat m)))
  ∧ (∀ st c x y tt, WritesC (.clog st c x y tt) c.toNat fun g =>
    tt.getLsbD (2 * (readC g x.toNat).toNat + (readC g y.toNat).toNat)))

/-! ## Memory accesses (R295 to R312) -/

/-- R301, R302, R305, R311: LD, LDA and ULD, wherever the checks of R298 pass for every address.
R301, R302, R305, R299: ST, STA and UST, wherever the checks of R298 pass for every address.
A store is performed when it issues (logs 5 and 17): the model's choice among the orders the spec allows. -/
def Obligations.LoadStoreResults : Prop :=
  ((∀ st d a t w q x, Loads (.ld st d a t w q x) { acc := .read, n := sizeBytes w, q := q }
    (fun cx => laneReqs cx a t x (sizeBytes w)) (fun _ hs => hitMask hs) (loadedAt d w))
  ∧ (∀ st d a t w q x, Loads (.lda st d a t w q x) { acc := .read, n := sizeBytes w, scope := some (q.toNat + 1), acq := true }
    (fun cx => laneReqs cx a t x (sizeBytes w)) (fun _ hs => hitMask hs) (loadedAt d w))
  ∧ (∀ st d a t w q x, w ≠ 4 → Loads (.uld st d a t w q x) { acc := .read, n := sizeBytes w, q := q }
    (fun cx => [uniReq cx a t x (sizeBytes w)]) (fun cx _ => cx.f.mask) (loadedUni d w))
  ∧ (∀ st d a t q x, Loads (.uld st d a t 4 q x) { acc := .read, n := 16, q := q }
    (fun cx => [uniReq cx a t x 16]) (fun cx _ => cx.f.mask) (loadedPair d)))
  ∧ ((∀ st d a t w q x, Stores (.st st d a t w q x) { acc := .write, n := sizeBytes w, q := q }
    (fun cx => laneReqs cx a t x (sizeBytes w)) (fun _ hs => hitMask hs)
    fun cx l => (spanWords cx.g.regs d.toNat (sizeRegs w) l).flatMap fun v => leBytes v.toNat 4)
  ∧ (∀ st d a t w q x, Stores (.sta st d a t w q x) { acc := .write, n := sizeBytes w, scope := some (q.toNat + 1), rel := true }
    (fun cx => laneReqs cx a t x (sizeBytes w)) (fun _ hs => hitMask hs)
    fun cx l => (spanWords cx.g.regs d.toNat (sizeRegs w) l).flatMap fun v => leBytes v.toNat 4)
  ∧ (∀ st d a t w q x, Stores (.ust st d a t w q x) { acc := .write, n := sizeBytes w, q := q }
    (fun cx => [uniReq cx a t x (sizeBytes w)]) (fun cx _ => cx.f.mask)
    fun cx _ => leBytes (readS cx.g.regs d.toNat).toNat 8 ++ leBytes (readS cx.g.regs (d.toNat + 1)).toNat 8))

/-- R303: LDT and STT, wherever their team addresses pass the checks. A lost word of team memory reads as zero and gives a
held fault; it stays out of both claims (R421).
A store is performed when it issues (log 17). -/
def Obligations.TeamAccessResults : Prop :=
  (∀ st d a w x s cx, Ready (.ldt st d a w x) s cx →
    TeamPasses s cx (sizeBytes w) false (teamAddrs cx a x (sizeBytes w)) → ∃ t, exec (.ldt st d a w x) s = .next t
    ∧ Added s t cx .load false cx.f.mask ((lanesOf cx.f.mask).flatMap fun l =>
      (List.range (sizeRegs w)).map fun j =>
        { elem := .v (d.toNat + j) l
          val := loadedWord w (memNat (teamOf s cx.g.ident.team).mem (laneOffset cx.g.regs a x (sizeBytes w) l) (sizeBytes w)) j })
    ∧ AccessFrame s t cx ∧ SameMemory s t)
  ∧ (∀ st d a w x s cx, Ready (.stt st d a w x) s cx →
    TeamPasses s cx (sizeBytes w) true (teamAddrs cx a x (sizeBytes w)) → ∃ t, exec (.stt st d a w x) s = .next t
    ∧ Added s t cx .store false cx.f.mask [] ∧ AccessFrame s t cx ∧ SameOutside s t
    ∧ (∀ tm, tm ≠ cx.g.ident.team → teamOf t tm = teamOf s tm)
    ∧ (∀ b, ¬ Lost (teamOf s cx.g.ident.team) b →
      (∀ p ∈ teamAddrs cx a x (sizeBytes w), b < p.2 ∨ p.2 + sizeBytes w ≤ b) →
      memGet (teamOf t cx.g.ident.team).mem b = memGet (teamOf s cx.g.ident.team).mem b)
    ∧ ∀ before l b after k, teamAddrs cx a x (sizeBytes w) = before ++ (some l, b) :: after → k < sizeBytes w →
      ¬ Lost (teamOf s cx.g.ident.team) (b + k) → (∀ p ∈ after, b + k < p.2 ∨ p.2 + sizeBytes w ≤ b + k) →
      memGet (teamOf t cx.g.ident.team).mem (b + k)
        = ((spanWords cx.g.regs d.toNat (sizeRegs w) l).flatMap fun v => leBytes v.toNat 4).getD k 0)

/-- R306, R307, R309: ATOM, ACAS, and UATOM that returns the old value; and what one atomic does at its address.
R306, R311: one atomic reads n bytes and writes n bytes as one; on marked memory it does nothing.
R308: ATOMT on team memory, lane after lane in ascending order.
R52, R306: what each AOP code writes. R299: the lanes' atomics are made in ascending lane order, each over what the last left.
An atomic is performed when it issues (logs 5 and 17): the model's choice among the orders the spec allows. -/
def Obligations.AtomicResults : Prop :=
  ((∀ st d a t w q x data aop sem scope sc, Atomics (.atom st d a t w q x data aop sem scope sc)
    { acc := .atomic, n := sizeBytes w, q := q, scope := some scope.toNat, rel := semRel sem sc, acq := semAcq sem sc
      sc := sc = 1 }
    (fun cx => laneReqs cx a t x (sizeBytes w)) d.toNat sc
    fun cx l => .op aop.toNat (spanValue cx.g.regs data.toNat (sizeBytes w) l))
  ∧ (∀ st d a t w q x data cmp sem scope sc, Atomics (.acas st d a t w q x data cmp sem scope sc)
    { acc := .atomic, n := sizeBytes w, q := q, scope := some scope.toNat, rel := semRel sem sc, acq := semAcq sem sc
      sc := sc = 1 }
    (fun cx => laneReqs cx a t x (sizeBytes w)) d.toNat sc
    fun cx l => .cas (spanValue cx.g.regs data.toNat (sizeBytes w) l) (spanValue cx.g.regs cmp.toNat (sizeBytes w) l))
  ∧ (∀ st d a o e c k z s cx s1 h,
    let w : Want := { acc := .atomic, n := uatomBytes z, scope := some (c.toNat + 1), rel := semRel e k, acq := semAcq e k, sc := k = 1 }
    Ready (.uatom st d a o e c k z) s cx → Passes s s1 cx w [{ t := { base := readS cx.g.regs a.toNat } }] [h] →
    ∃ t, exec (.uatom st d a o e c k z) s = .next t
    ∧ Added s t cx (if d = 63 then .store else .load) true cx.f.mask
      (if d = 63 then [] else
        [{ elem := .s d.toNat
           val := if marked s1 cx.g.ident.island h.loc.phys then 0
             else BitVec.ofNat 64 (physNat s1 cx.g.ident.island h.loc.phys w.n)
           bad := marked s1 cx.g.ident.island h.loc.phys }])
    ∧ AccessFrame s t cx ∧ t.teams = s.teams
    ∧ (∀ isl b, byteAt t isl b = byteAt (atomHit cx w (uatomAct cx.g.regs a o z) (takeTickets s1 cx.g.ident.island 1 k) h).1 isl b)
    ∧ ∀ isl b, Clears w.n isl b cx.g.ident.island h → byteAt t isl b = byteAt s1 isl b))
  ∧ (∀ cx w act s h, Present s cx.g.ident.island → (h.loc.phys + w.n ≤ hostBase ∨ hostBase ≤ h.loc.phys) →
    (marked s cx.g.ident.island h.loc.phys = true → atomHit cx w act s h = (s, 0, true))
    ∧ (marked s cx.g.ident.island h.loc.phys = false →
      (atomHit cx w act s h).2 = (physNat s cx.g.ident.island h.loc.phys w.n, false)
      ∧ (∀ new, atomNew act w.n (physNat s cx.g.ident.island h.loc.phys w.n) = some new →
        physNat (atomHit cx w act s h).1 cx.g.ident.island h.loc.phys w.n = new % 2 ^ (8 * w.n))
      ∧ (atomNew act w.n (physNat s cx.g.ident.island h.loc.phys w.n) = none →
        ∀ isl a, byteAt (atomHit cx w act s h).1 isl a = byteAt s isl a)
      ∧ (Walked s cx.g.ident.island h →
        ∀ isl a, Clears w.n isl a cx.g.ident.island h → byteAt (atomHit cx w act s h).1 isl a = byteAt s isl a)))
  ∧ (∀ st d a w x data aop sem scope sc s cx, Ready (.atomt st d a w x data aop sem scope sc) s cx →
    TeamPasses s cx (sizeBytes w) true (teamAddrs cx a x (sizeBytes w)) →
    ∃ t, exec (.atomt st d a w x data aop sem scope sc) s = .next t
    ∧ Added s t cx .load true cx.f.mask (atomTeam cx.g.regs (teamOf s cx.g.ident.team).dead d.toNat data.toNat (sizeBytes w) aop.toNat
      (teamOf s cx.g.ident.team).mem (teamAddrs cx a x (sizeBytes w))).2
    ∧ AccessFrame s t cx ∧ SameOutside s t ∧ (∀ tm, tm ≠ cx.g.ident.team → teamOf t tm = teamOf s tm)
    ∧ (∀ b, ¬ Lost (teamOf s cx.g.ident.team) b → memGet (teamOf t cx.g.ident.team).mem b
      = memGet (atomTeam cx.g.regs (teamOf s cx.g.ident.team).dead d.toNat data.toNat (sizeBytes w) aop.toNat
        (teamOf s cx.g.ident.team).mem (teamAddrs cx a x (sizeBytes w))).1 b)
    ∧ ∀ b, ¬ Lost (teamOf s cx.g.ident.team) b →
      (∀ p ∈ teamAddrs cx a x (sizeBytes w), b < p.2 ∨ p.2 + sizeBytes w ≤ b) →
      memGet (teamOf t cx.g.ident.team).mem b = memGet (teamOf s cx.g.ident.team).mem b)
  ∧ AopTable ∧ AtomsInOrder ∧ UatomAct

/-! ## Branches, waits, traps (R58, R186 to R204, R310, R320 to R328, R410) -/

/-- R58: the target of a UB branch, and its reach. -/
def Obligations.UniformBranchTarget : Prop :=
  (∀ st off, RunsStill (.bra st off) always fun s cx => goTo (ubTarget cx.f.pc off) id s cx)
  ∧ (∀ pc : VAddr, ∀ off : BitVec 18, branchTarget pc off = ubTarget pc off)
  ∧ ∀ off : BitVec 18, -(512 * 1024) ≤ 4 * off.toInt ∧ 4 * off.toInt ≤ 512 * 1024 - 4

/-- R193, R194: the other branches of the issuing fragment, where no fault stops them.
R193: BRX and RET take ALIGN for a target that is no multiple of 4, then PROT for one beyond 57 bits. -/
def Obligations.BranchResults : Prop :=
  ((∀ st off, RunsStill (.call st off) always fun s cx =>
    goTo (ubTarget cx.f.pc off) (fun g => writeS g 62 ((pcAdd cx.f.pc 4).setWidth 64)) s cx)
  ∧ (∀ st c n off, RunsStill (.brc st c n off) (fun _ cx => readC cx.g.regs c.toNat ≠ (n = 1)) fun s cx =>
    goTo (ubTarget cx.f.pc off) id s cx)
  ∧ (∀ st c n off, RunsStill (.brc st c n off) (fun _ cx => readC cx.g.regs c.toNat = (n = 1)) fun s cx =>
    goTo (pcAdd cx.f.pc 4) id s cx)
  ∧ (∀ st a, RunsStill (.brx st a) (fun _ cx => Target (readS cx.g.regs a.toNat)) fun s cx =>
    goTo ((readS cx.g.regs a.toNat).truncate 57) id s cx)
  ∧ (∀ st, RunsStill (.ret st) (fun _ cx => Target (readS cx.g.regs 62)) fun s cx =>
    goTo ((readS cx.g.regs 62).truncate 57) id s cx)
  ∧ (∀ st p n off, RunsStill (.brp st p n off) (fun _ cx => taken cx p n = cx.f.mask) fun s cx =>
    goTo (ubTarget cx.f.pc off) id s cx)
  ∧ (∀ st p n off, RunsStill (.brp st p n off) (fun _ cx => taken cx p n = 0 ∧ cx.f.mask ≠ 0) fun s cx =>
    goTo (pcAdd cx.f.pc 4) id s cx)
  ∧ (∀ st p n off, RunsStill (.brp st p n off) (fun _ cx => taken cx p n ≠ cx.f.mask ∧ taken cx p n ≠ 0) fun s cx =>
    withGroup s cx (settle { cx.g with
      frags := modNth cx.g.frags cx.ix (fun f => { f with mask := f.mask &&& ~~~(taken cx p n), pc := pcAdd f.pc 4 })
        ++ [{ mask := taken cx p n, pc := ubTarget cx.f.pc off, handler := cx.f.handler }] })))
  ∧ ((∀ st a, FaultsIf (.brx st a) (fun _ cx => (readS cx.g.regs a.toNat).toNat % 4 ≠ 0) fun _ => { cls := 0x08, status := 1 })
  ∧ (∀ st a, FaultsIf (.brx st a) (fun _ cx => (readS cx.g.regs a.toNat).toNat % 4 = 0 ∧ 2 ^ 57 ≤ (readS cx.g.regs a.toNat).toNat)
    fun _ => { cls := 0x11, status := 1 })
  ∧ (∀ st, FaultsIf (.ret st) (fun _ cx => (readS cx.g.regs 62).toNat % 4 ≠ 0) fun _ => { cls := 0x08, status := 1 })
  ∧ ∀ st, FaultsIf (.ret st) (fun _ cx => (readS cx.g.regs 62).toNat % 4 = 0 ∧ 2 ^ 57 ≤ (readS cx.g.regs 62).toNat)
    fun _ => { cls := 0x11, status := 1 })

/-- R186, R188, R189: after every change the fragments hold the lanes they held, no two that could merge are left, at most
two are resident, and the resident ones stand at the lowest PCs. -/
def Obligations.FragmentsSettle : Prop :=
  ∀ g : Group, (g.frags.filter (pinnedSlot g.hmode)).length ≤ 2 →
    liveLanes (settle g) = liveLanes g
    ∧ (settle g).frags.Pairwise (fun a b => mergeable a b = false)
    ∧ ((settle g).frags.filter fun f => f.slot < 2).length ≤ 2
    ∧ (∀ f ∈ (settle g).frags, f.slot < 2 → pinnedSlot g.hmode f = false → mayReside g.hmode f = true)
    ∧ ∀ a ∈ (settle g).frags, ∀ b ∈ (settle g).frags, a.slot < 2 → pinnedSlot g.hmode a = false → 2 ≤ b.slot →
      mayReside g.hmode b = true → a.pc.toNat ≤ b.pc.toNat

/-- R195, R197, R198, R199, R310, R327, R410: NOP, YIELD, WAIT, SLEEP and the fences go on at once where nothing is left to
wait for; else the fragment holds.
R327, R321, R410: a TFENCE whose wait is over delivers the oldest held fault, else ARITH for the enabled flags, and an RFENCE
the oldest held fault of a remote operation, each with bit 63 of TCAUSE set, at the fence's own PC; the entry to the handler
takes the fault from the held list.
What an issue finds outstanding follows from the model's order of events (log 3). -/
def Obligations.WaitResults : Prop :=
  ((∀ st, RunsStill (.nop st) always (goPast 4)) ∧ (∀ st, RunsStill (.yield st) always (goPast 4))
  ∧ (∀ st, RunsStill (.sleep st 0) always (goPast 4))
  ∧ (∀ st n, n ≠ 0 → RunsStill (.sleep st n) always fun s cx => holdPast (.sleep (issueClock s cx + 1 + 16 * n.toNat)) s cx)
  ∧ (∀ st k, RunsStill (.wait st k) (fun s cx => waitDone cx.g k s.seq = true) (goPast 4))
  ∧ (∀ st k, RunsStill (.wait st k) (fun s cx => waitDone cx.g k s.seq = false) fun s cx => holdPast (.waitOps k s.seq) s cx)
  ∧ (∀ st k c, RunsStill (.mfence st k c) (fun s cx => mfenceDone cx.g k cx.f.mask s.seq = true) fun s cx =>
    goPast 4 (synchronise s cx (k ≠ 1) (k ≠ 2) c.toNat) cx)
  ∧ (∀ st k c, RunsStill (.mfence st k c) (fun s cx => mfenceDone cx.g k cx.f.mask s.seq = false) fun s cx =>
    holdPast (.mfence k c s.seq) s cx)
  ∧ (∀ st, RunsStill (.tfence st) (fun s cx => fenceDone cx.g (fenceMark cx s) = true ∧ surfaced cx.g = none) fun s cx =>
    withGroup s cx (advance 4 cx.ix { cx.g with frags := modNth cx.g.frags cx.ix fun f => { f with hold := .none } }))
  ∧ (∀ st, RunsStill (.tfence st) (fun s cx => fenceDone cx.g (fenceMark cx s) = false) fun s cx =>
    holdAt (.tfence (fenceMark cx s)) s cx)
  ∧ (∀ st, RunsStill (.rfence st) (fun s cx => remotesDone cx.g s.seq = true ∧ cx.g.held.all (fun h => !h.remote) = true) fun s cx =>
    withGroup s cx (wake (advance 4 cx.ix { cx.g with frags := modNth cx.g.frags cx.ix fun f => { f with hold := .none } })))
  ∧ ∀ st, RunsStill (.rfence st) (fun s cx => remotesDone cx.g s.seq = false) fun s cx => holdAt (.rfence s.seq) s cx)
  ∧ ((∀ st s cx h t, Ready (.tfence st) s cx → fenceDone cx.g (fenceMark cx s) = true → cx.g.held = h :: t →
    exec (.tfence st) s = .next (done (.tfence st) s cx
      (deliverReq (withGroup s cx { cx.g with frags := modNth cx.g.frags cx.ix fun f => { f with hold := .none } }) cx.key
        { cause := h.cause ||| (1#64 <<< 63), tspc := cx.f.pc, mask := cx.f.mask, drop := some h })))
  ∧ (∀ st s cx, Ready (.tfence st) s cx → fenceDone cx.g (fenceMark cx s) = true → cx.g.held = [] → arithFlags cx.g ≠ 0 →
    ∃ t, exec (.tfence st) s = .next (done (.tfence st) s cx t) ∧
      t = deliver (withGroup s cx { cx.g with frags := modNth cx.g.frags cx.ix fun f => { f with hold := .none } })
        cx.key (arithCause (arithFlags cx.g)) cx.f.pc cx.f.mask
      ∧ (arithCause (arithFlags cx.g)).getLsbD 63 = true ∧ (arithCause (arithFlags cx.g)).toNat % 256 = 0x07)
  ∧ (∀ st s cx before h after, Ready (.rfence st) s cx → remotesDone cx.g s.seq = true → cx.g.held = before ++ h :: after →
    (∀ x ∈ before, x.remote = false) → h.remote = true →
    exec (.rfence st) s = .next (done (.rfence st) s cx
      (deliverReq (withGroup s cx { cx.g with frags := modNth cx.g.frags cx.ix fun f => { f with hold := .none } }) cx.key
        { cause := h.cause ||| (1#64 <<< 63), tspc := cx.f.pc, mask := cx.f.mask, drop := some h })))
  ∧ ∀ g r entry before h after, r.drop = some h → g.held = before ++ h :: after → h ∉ before →
    (enterHandler g r entry).held = before ++ after ∧ (enterHandler g r entry).special.tcause = r.cause
    ∧ (enterHandler g r entry).special.tspc = pcWord r.tspc)

/-- R328: FLGS, FLGS.CLR and FLGS.SET give S[d] the old FLAGS and change FLAGS in one step, once every earlier operation that
can raise a flag has retired (R38); nothing else of the group changes. -/
def Obligations.FlagsInOneStep : Prop :=
  ∀ st d m,
    let runs := fun (i : Instr) (f : DWord → DWord) =>
      RunsStill i (fun _ cx => flagsSettled cx.g = true) (fun s cx =>
        withGroup s cx (advance 4 cx.ix { cx.g with
          regs := writeS cx.g.regs d.toNat cx.g.special.flags
          special := { cx.g.special with flags := f cx.g.special.flags } }))
      ∧ WaitsIf i fun _ cx => flagsSettled cx.g = false
    runs (.flgs st d m) id
    ∧ runs (.flgsClr st d m) (fun x => x &&& ~~~(m.setWidth 64))
    ∧ runs (.flgsSet st d m) (fun x => x ||| m.setWidth 64)

/-- R200, R325: TRAP and BPT are delivered with their code, TSPC the address after them. -/
def Obligations.SoftwareTraps : Prop :=
  (∀ st k, Runs (.trap st k) fun s cx =>
    deliver s cx.key (BitVec.ofNat 64 (k.toNat * 2 ^ 32)) (pcAdd cx.f.pc 4) cx.f.mask)
  ∧ ∀ st k, Runs (.bpt st k) fun s cx =>
    deliver s cx.key (BitVec.ofNat 64 (k.toNat * 2 ^ 32 + 0x100)) (pcAdd cx.f.pc 4) cx.f.mask

/-- R322: entering the handler saves cause, PC, GSTAT and mask, and puts a handler fragment of those lanes at the handler
entry; every other lane stays where it is, and no register, flag, byte of memory or other group changes.
R322, R324: a fault in a group whose chains or MMAP are in flight waits for them; one in handler mode, or in a group without a
handler, escalates: its record is queued and the context terminates on its island.
A fault that comes while another trap waits to enter is not taken yet: its instruction comes to it again (log 15). -/
def Obligations.TrapEntry : Prop :=
  (∀ s k cause pc mask entry,
    let g := grpOf s k
    (tblGet? s.groups k).isSome = true → g.hmode = false → g.trapReq = none → g.ident.handlerPc = some entry →
    entryBlocked g = false → (∀ f ∈ g.frags, f.handler = false) → mask ≠ 0 →
    let t := deliver s k cause pc mask
    let h := grpOf t k
    h.special = { g.special with tcause := cause, tspc := pcWord pc, tstat := gstat g, tmask := mask }
    ∧ h.hmode = true ∧ h.hset = mask ∧ h.win1 = {} ∧ h.win0 = g.win0 ∧ h.regs = g.regs ∧ h.ops = g.ops ∧ h.held = g.held
    ∧ (h.frags.filter fun f => f.handler).map (fun f => (f.mask, f.pc)) = [(mask, entry)]
    ∧ (∀ f ∈ h.frags, f.handler = false → f.mask &&& mask = 0)
    ∧ liveLanes h = liveLanes g ||| mask
    ∧ Still s t { key := k, ix := 0, g := g, f := {} })
  ∧ ((∀ s k cause pc mask entry, (grpOf s k).hmode = false → (grpOf s k).trapReq = none →
    (grpOf s k).ident.handlerPc = some entry → entryBlocked (grpOf s k) = true →
    deliver s k cause pc mask = setGrp s k { grpOf s k with trapReq := some { cause := cause, tspc := pc, mask := mask } })
  ∧ (∀ s k cause pc mask, (grpOf s k).hmode = false → (grpOf s k).trapReq.isSome = true → deliver s k cause pc mask = s)
  ∧ ∀ s k cause pc mask, ((grpOf s k).hmode = true ∨ ((grpOf s k).trapReq = none ∧ (grpOf s k).ident.handlerPc = none)) →
    let g := grpOf s k
    let id := g.ident
    let t := deliver s k cause pc mask
    t = terminateCtx (enqueueRecord s id.island (escalationRecord (if g.hmode then 0 else 1) id.slot id.core id.ctx cause (pcWord pc)
      mask (if g.hmode then g.special.tcause else 0) (if g.hmode then g.special.tspc else 0) 0)) id.island id.ctx
    ∧ (∀ p ∈ t.groups, onPartition id.island id.ctx p.2 = false)
    ∧ (∀ p ∈ t.teams, ¬(p.2.island = id.island ∧ p.2.ctx = id.ctx))
    ∧ ((tblGet? (islOf s id.island).ctxs id.ctx).isSome = true → (ctxOf t id.island id.ctx).state = .terminated)
    ∧ t.propagate = s.propagate ++ [(id.ctx, id.island, none)])

/-- R326: TRET in handler mode, on the whole handler set with a legal TSTAT and TMASK, resumes the lanes of TMASK at TSPC and
the others of the set at TSPC + 4, empties the handler window and leaves the held fragments where they were; outside handler
mode it is ILLEGAL; it waits for a handler fragment at a lower PC, and part of the set takes CONVERGE; a TSTAT with a reserved
bit, or bit 1 or 2, set, or a TMASK beyond the handler set, escalates as STATUSWORD and ends the context. -/
def Obligations.ReturnFromHandler : Prop :=
  (∀ st s cx, Ready (.tret st) s cx → cx.g.hmode = true → Foremost cx → cx.f.mask = handlerLanes cx.g → LegalReturn cx.g →
    ∃ t, exec (.tret st) s = .next t ∧ Still s t cx
    ∧ (let h := grpOf t cx.key
       h.hmode = false ∧ h.hset = 0 ∧ h.win1 = {} ∧ h.win0 = cx.g.win0 ∧ h.regs = cx.g.regs ∧ h.special = cx.g.special
       ∧ h.held = cx.g.held ∧ h.ops = cx.g.ops ∧ h.ident = cx.g.ident
       ∧ (∀ f ∈ h.frags, f.handler = false)
       ∧ (∀ l, inMask (handlerLanes cx.g) l = true → ∃ f ∈ h.frags, inMask f.mask l = true
          ∧ f.pc = if inMask cx.g.special.tmask l = true then cx.g.special.tspc.truncate 57
            else pcAdd (cx.g.special.tspc.truncate 57) 4)
       ∧ (∀ f ∈ cx.g.frags, f.handler = false → ∀ l, inMask f.mask l = true → ∃ x ∈ h.frags, inMask x.mask l = true ∧ x.pc = f.pc)
       ∧ liveLanes h = liveLanes cx.g))
  ∧ (∀ st, RunsStill (.tret st) (fun _ cx => cx.g.hmode = true ∧ Foremost cx ∧ cx.f.mask = handlerLanes cx.g
      ∧ LegalReturn cx.g) fun s cx =>
    withGroup s cx (returnFromHandler cx.g (handlerLanes cx.g &&& cx.g.special.tmask)
      (handlerLanes cx.g &&& ~~~cx.g.special.tmask)))
  ∧ (∀ st, FaultsIf (.tret st) (fun _ cx => cx.g.hmode = false) fun _ => { cls := 0x01, status := 4 })
  ∧ (∀ st, WaitsIf (.tret st) fun _ cx => cx.g.hmode = true ∧ ¬ Foremost cx)
  ∧ (∀ st, FaultsIf (.tret st) (fun _ cx => cx.g.hmode = true ∧ Foremost cx ∧ cx.f.mask ≠ handlerLanes cx.g)
    fun _ => { cls := 0x04 })
  ∧ (∀ st s cx, Ready (.tret st) s cx → cx.g.hmode = true → Foremost cx → cx.f.mask = handlerLanes cx.g → ¬ LegalReturn cx.g →
    exec (.tret st) s = .next (terminateCtx (enqueueRecord s cx.g.ident.island
      (escalationRecord 2 cx.g.ident.slot cx.g.ident.core cx.g.ident.ctx 0x19 (pcWord cx.f.pc) cx.f.mask 0 0 0))
      cx.g.ident.island cx.g.ident.ctx))
  ∧ ∀ g again skip, let h := returnFromHandler g again skip
    h.hmode = false ∧ h.hset = 0 ∧ h.win1 = {} ∧ h.regs = g.regs ∧ h.special = g.special ∧ h.held = g.held
    ∧ (∀ f ∈ h.frags, f.handler = false)
    ∧ liveLanes h = liveLanes { g with frags := g.frags.filter fun f => !f.handler } ||| again ||| skip

/-- R196: EXIT removes the fragment's lanes from the group, or in a handler those of TMASK, on the whole handler set; the group's
last EXIT waits for all that is outstanding, takes a fault there is to surface with its lanes live again, and else frees the
slot. -/
def Obligations.ExitResults : Prop :=
  (∀ st s cx, Ready (.exit st) s cx → cx.g.hmode = false → exec (.exit st) s = .next (done (.exit st) s cx
    (afterExit (withGroup s cx (settle { cx.g with
      frags := withoutLanes cx.f.mask cx.g.frags, exitedLanes := cx.g.exitedLanes ||| cx.f.mask })) cx.key cx.f.pc cx.f.mask)))
  ∧ (∀ st s cx, Ready (.exit st) s cx → cx.g.hmode = true → Foremost cx → cx.f.mask = handlerLanes cx.g →
    exec (.exit st) s = .next (done (.exit st) s cx
      (let gone := liveLanes cx.g &&& cx.g.special.tmask
       let r := returnFromHandler cx.g 0 (handlerLanes cx.g &&& ~~~gone)
       afterExit (withGroup s cx (settle { r with frags := withoutLanes gone r.frags, exitedLanes := cx.g.exitedLanes ||| gone }))
        cx.key cx.f.pc gone)))
  ∧ (∀ st, WaitsIf (.exit st) fun _ cx => cx.g.hmode = true ∧ ¬ Foremost cx)
  ∧ (∀ st, FaultsIf (.exit st) (fun _ cx => cx.g.hmode = true ∧ Foremost cx ∧ cx.f.mask ≠ handlerLanes cx.g)
    fun _ => { cls := 0x04 })
  ∧ (∀ s k pc m, (grpOf s k).frags ≠ [] → afterExit s k pc m = s)
  ∧ (∀ s k pc m, (grpOf s k).frags = [] → fenceDone (grpOf s k) s.seq = false →
    afterExit s k pc m = setGrp s k { grpOf s k with draining := some (pc, m) })
  ∧ (∀ s k pc m c, (grpOf s k).frags = [] → fenceDone (grpOf s k) s.seq = true → surfaced (grpOf s k) = some c →
    afterExit s k pc m
      = surface (setGrp s k { grpOf s k with draining := none, exitedLanes := (grpOf s k).exitedLanes &&& ~~~m }) k c pc m)
  ∧ (∀ s k pc m, (grpOf s k).frags = [] → fenceDone (grpOf s k) s.seq = true → surfaced (grpOf s k) = none →
    tblGet? (afterExit s k pc m).groups k = none)

/-! ## Blocks of scaled elements (R140 to R142) -/

/-- R141, R142: BQNT packs blocks into V[d…] and their scales into S[c]; BDQ widens them; a partial fragment sets XLFLAG. -/
def Obligations.BlockResults : Prop :=
  (∀ st d a c f s cx, Ready (.bqnt st d a c f) s cx →
    let w := lanesIn cx.g
    let q := quantised cx.g.regs cx.f.mask a.toNat w f (modeOf cx.g.special)
    let n := (blockShape f w).p
    ∃ t, exec (.bqnt st d a c f) s = .next t
    ∧ (∀ r l, r < n → inMask cx.f.mask l = true →
      (readV (grpOf t cx.key).regs (d.toNat + r) l).toNat = (packedWord q f w r l).1 % 2 ^ 32)
    ∧ readS (grpOf t cx.key).regs c.toNat = (if c = 63 then 0 else withScales (readS cx.g.regs c.toNat) q.scales)
    ∧ OnlyS cx.g.regs (grpOf t cx.key).regs c.toNat
    ∧ BlockFrame s t cx d.toNat n (raise (crossed cx)
      ((if q.invalid then flgNV else 0) ||| if (rowLanes cx n).any (fun p => (packedWord q f w p.1 p.2).2) then flgNX else 0)))
  ∧ (∀ st d a c f s cx, Ready (.bdq st d a c f) s cx →
    let w := lanesIn cx.g
    let z := widenAt cx.g.regs cx.f.mask a.toNat w f (readS cx.g.regs c.toNat) (modeOf cx.g.special)
    let n := (blockShape f w).g
    ∃ t, exec (.bdq st d a c f) s = .next t
    ∧ (∀ r l, r < n → inMask cx.f.mask l = true → (readV (grpOf t cx.key).regs (d.toNat + r) l).toNat = (z r l).1 % 2 ^ 32)
    ∧ (grpOf t cx.key).regs.s = cx.g.regs.s ∧ (grpOf t cx.key).regs.badS = cx.g.regs.badS
    ∧ BlockFrame s t cx d.toNat n (raise (crossed cx) (orFlags ((rowLanes cx n).map fun p => (z p.1 p.2).2))))

/-! ## Register allotment, special registers, translation registers (R33 to R38, R201 to R204, R244, R245, R304, R329) -/

/-- R201, R202: RGROW and RSHRINK; a growing allotment's new registers read zero, without marks; a claim that the pool cannot
serve, or that an older claim is before, waits (R203); RSHRINK waits for the group's chains and for late writes to the registers
it gives back. -/
def Obligations.AllotmentResults : Prop :=
  (∀ st n, RunsStill (.rgrow st n) (fun _ cx => n.toNat ≤ cx.g.allot) (goPast 4))
  ∧ (∀ st n, RunsStill (.rgrow st n) (fun s cx => cx.g.allot < n.toNat
      ∧ (∀ p, oldestClaim s cx.g.ident.island cx.g.ident.core = some p → cx.g.age ≤ (grpOf s p.1).age)
      ∧ regBytes cx.g (n.toNat - cx.g.allot) ≤ poolBytes s cx.g.ident.island cx.g.ident.core) fun s cx =>
    withGroup s cx (growTo n.toNat cx.ix cx.g))
  ∧ (∀ st n, RunsStill (.rgrow st n) (fun s cx => cx.g.allot < n.toNat
      ∧ (poolBytes s cx.g.ident.island cx.g.ident.core < regBytes cx.g (n.toNat - cx.g.allot)
        ∨ ∃ p, oldestClaim s cx.g.ident.island cx.g.ident.core = some p ∧ (grpOf s p.1).age < cx.g.age)) fun s cx =>
    holdAt (.rgrow n.toNat) s cx)
  ∧ (∀ n i g, g.allot < n → (growTo n i g).allot = n ∧ (∀ r l, g.allot ≤ r →
      readV (growTo n i g).regs r l = 0 ∧ tblGet? (growTo n i g).regs.badV r = none)
    ∧ (∀ r l, r < g.allot → readV (growTo n i g).regs r l = readV g.regs r l))
  ∧ (∀ st n, RunsStill (.rshrink st n) (fun _ cx => cx.g.allot ≤ n.toNat) (goPast 4))
  ∧ (∀ st n, WaitsIf (.rshrink st n) fun _ cx => n.toNat < cx.g.allot ∧ (cx.g.chains ≠ []
      ∨ ∃ o ∈ cx.g.ops, ∃ w ∈ o.writes, writesFrom n.toNat w = true))
  ∧ (∀ st n, RunsIf (.rshrink st n) (fun _ cx => n.toNat < cx.g.allot ∧ cx.g.chains = []
      ∧ cx.g.ops.all (fun o => o.writes.all fun w => !writesFrom n.toNat w) = true) fun s cx =>
    wakeAll (withGroup s cx (advance 4 cx.ix { cx.g with regs := zeroRegs cx.g.regs n.toNat, allot := n.toNat })))

/-- R33 to R38, R329: RDSR gives S[d] the register's value; WRSR writes it by its field map; both wait, for FLAGS and CUTCNT,
until every earlier operation that changes them has retired (R38), and WRSR of FPCTL and XLFLAG for the group's chains (R159).
R36: a special register below 0x0A that has been written reads as its writable bits, and no other register has changed.
R34: the fields of GSTAT. R36: CLOCK reads the clock in which the RDSR issues, the later of its group's next and its core's, on
which issue moves the core's. R37: the identity registers, and what they hold from a group's start.
R249, R340, R408, R424: what a system register that holds a plain value reads after a write.
The clocks an issue may lose to other groups, or in which its group does not issue, are the model's free value (log 15).
What the fields of a write-only system register give is free (log 44). -/
def Obligations.SpecialRegisterResults : Prop :=
  ((∀ st d n, RunsStill (.rdsr st d n) (fun _ cx => (n = 2 ∨ n = 8) → flagsSettled cx.g = true) fun s cx =>
    goPastWith 4 (fun g => writeS g d.toNat (registerRead s cx n.toNat)) s cx)
  ∧ (∀ st d n, WaitsIf (.rdsr st d n) fun _ cx => (n = 2 ∨ n = 8) ∧ flagsSettled cx.g = false)
  ∧ (∀ st n a, n.toNat < 0x20 → RunsStill (.wrsr st n a) (fun _ cx =>
      ((n = 2 ∨ n = 8) → flagsSettled cx.g = true) ∧ ((n = 3 ∨ n = 9) → cx.g.chains = [])) fun s cx =>
    withGroup s cx (advance 4 cx.ix { cx.g with
      special := registerWrite n.toNat (readS cx.g.regs a.toNat) cx.g.special }))
  ∧ (∀ st n a, WaitsIf (.wrsr st n a) fun _ cx =>
      ((n = 2 ∨ n = 8) ∧ flagsSettled cx.g = false) ∨ ((n = 3 ∨ n = 9) ∧ cx.g.chains ≠ []))
  ∧ (∀ st n a, 0x20 ≤ n.toNat → RunsIf (.wrsr st n a)
      (fun s cx => writeWaits s cx n.toNat (readS cx.g.regs a.toNat).toNat = false) fun s cx =>
    systemWrite (goPast 4 s cx) cx.g.ident.island n.toNat (readS cx.g.regs a.toNat).toNat))
  ∧ (∀ s cx n x, 1 ≤ n → n ≤ 9 →
    let after : Cx := { cx with g := { cx.g with special := registerWrite n x cx.g.special } }
    registerRead s after n = x &&& (match n with
      | 1 => 0x80000000FFFFFFFF#64 | 2 => 0x1F#64 | 3 => 0x1F03#64 | 4 => 0xFFFFFFFF00FFFFFF#64
      | 5 => 0x01FFFFFFFFFFFFFC#64 | 9 => 1#64 | _ => 0xFFFFFFFFFFFFFFFF#64)
    ∧ ∀ k, k ≠ n → registerRead s after k = registerRead s cx k)
  ∧ GroupStatus ∧ ClockRead ∧ IdentityRead
  ∧ ∀ s i core v, Present s i →
    let reads := fun (n x : Nat) => systemRead (systemWrite s i n v) i core n = x
    (v % 2 ^ 19 = 0 → v < 0x6000000000 → reads 0x22 v) ∧ reads 0x23 (v % 4096)
    ∧ (v % 2 ^ 16 = 0 → v < 0x6000000000 → reads 0x25 v)
    ∧ reads 0x28 (if 10 ≤ v % 2 ^ 14 ∧ v % 2 ^ 14 ≤ 10000 then v % 2 ^ 14 else 100)
    ∧ reads 0x2E (v % 2 ^ 16)

/-- R244: TRLD gives T[t] the page of a fresh walk, cut to the length asked for; R243: what that register then permits.
R245: TRINV, once its group's stores are performed, discards what the island holds for a range of a context: held entries, and
the translations of T registers, of groups on their cores or in the context's image; it goes on where no access of the context
issued before it is left, and with P waits for the range's pins too; a reserved bit of an operand is ILLEGAL.
R243: what a T register gives an access: PROT where it is empty, the cached place where it permits the access, else a
translation of the address afresh, whatever its rights.
R304: PRF takes no fault past its form, parks nothing, and changes no register and no byte of memory but the A bits that
its walks set on its own island.
R240, R241: a translation changes no byte but the A bit of the leaf that its walk reaches; it uses a fresh walk, or a held entry
that permits the access: which held translation an access uses is free (log 7). -/
def Obligations.TranslationResults : Prop :=
  ((∀ st t a b s cx s1 e addr lvl, Ready (.trld st t a b) s cx → (readS cx.g.regs a.toNat).toNat < 2 ^ 57 →
    walkHeld s cx.g.ident.island cx.g.ident.ctx (readS cx.g.regs a.toNat).toNat .read (privileged cx.g.ident) 0
      = (s1, .leaf e addr lvl) →
    ∃ u, exec (.trld st t a b) s = .next u
    ∧ (let r := readT (grpOf u cx.key).regs t.toNat
       let va := (readS cx.g.regs a.toNat).toNat
       r.e = false ∧ r.cv = true ∧ r.base.toNat = va ∧ r.vcx = ent e 63 58 ∧ r.pbase = frameOf e + va % leafSize e
       ∧ r.limit.toNat = min (readS cx.g.regs b.toNat).toNat (leafSize e - va % leafSize e)
       ∧ (r.rights.getLsbD 0 = bit e.toNat 2) ∧ (r.rights.getLsbD 1 = bit e.toNat 3) ∧ (r.rights.getLsbD 2 = bit e.toNat 5)
       ∧ (r.rights.getLsbD 3 = bit e.toNat 9) ∧ (r.rights.getLsbD 4 = bit e.toNat 7))
    ∧ (∀ k, k ≠ t.toNat → readT (grpOf u cx.key).regs k = readT cx.g.regs k)
    ∧ SameV cx.g.regs (grpOf u cx.key).regs ∧ SameP cx.g.regs (grpOf u cx.key).regs
    ∧ (grpOf u cx.key).regs.s = cx.g.regs.s ∧ (grpOf u cx.key).regs.c = cx.g.regs.c
    ∧ (grpOf u cx.key).regs.badS = cx.g.regs.badS ∧ (grpOf u cx.key).regs.badC = cx.g.regs.badC
    ∧ (grpOf u cx.key).special = cx.g.special ∧ groupRest (grpOf u cx.key) = groupRest cx.g ∧ Still s1 u cx)
  ∧ (∀ st t a b s cx s1 st' lvl, Ready (.trld st t a b) s cx → (readS cx.g.regs a.toNat).toNat < 2 ^ 57 →
    walkHeld s cx.g.ident.island cx.g.ident.ctx (readS cx.g.regs a.toNat).toNat .read (privileged cx.g.ident) 0
      = (s1, .page st' lvl) →
    exec (.trld st t a b) s = .next (park s1 cx .uniform .read 4
      [{ va := (readS cx.g.regs a.toNat).toNat, status := st', level := lvl }]))
  ∧ (∀ st t a b, FaultsIf (.trld st t a b) (fun _ cx => 2 ^ 57 ≤ (readS cx.g.regs a.toNat).toNat)
    fun _ => { cls := 0x11, status := 1 }))
  ∧ (∀ st a b p s cx lo hi,
    let va := (readS cx.g.regs a.toNat).toNat
    let y := (readS cx.g.regs b.toNat).toNat
    let c := y / 2 ^ 32
    let i := cx.g.ident.island
    Ready (.trinv st a b p) s cx → (∀ l h k fs r m, cx.f.hold ≠ .trinv l h k fs r m) →
    va < 2 ^ 57 → va % 65536 = 0 → y < 2 ^ 48 → storesDone cx.g s.seq = true →
    (lo, hi) = (if y % 2 ^ 32 = 0 then (0, 2 ^ 57) else (va, va + 65536 * (y % 2 ^ 32))) →
    let s1 := discardRange s i c lo hi
    let fs := rangeFrames s i c lo hi
    (trinvDone s1 i c lo hi s.seq fs (p = 1) = true →
      exec (.trinv st a b p) s = .next (done (.trinv st a b p) s cx (goPast 4 s1 cx)))
    ∧ (trinvDone s1 i c lo hi s.seq fs (p = 1) = false →
      exec (.trinv st a b p) s = .next (done (.trinv st a b p) s cx
        (modGrp s1 cx.key fun g => modFrag g cx.ix fun f => { f with hold := .trinv lo hi c fs (p = 1) s.seq })))
    ∧ (inImage (ctxOf s i c) = false → SameMemory s s1)
    ∧ (∀ j x, (∀ q ∈ imageSlots (islOf s i).mem.bytes (ctxOf s i c).saveBase
          (imageCores (islOf s i).mem.bytes (ctxOf s i c).saveBase), ∀ t, t < 8 →
        let w := groupArea (ctxOf s i c).saveBase q.1 q.2.1 + 0x300 + 24 * t
        x < w ∨ w + 8 ≤ x) → byteAt s1 j x = byteAt s j x)
    ∧ (∀ t ∈ (islOf s1 i).mem.tlb, t.ctx = c → ¬(t.va < hi ∧ lo < t.va + t.size))
    ∧ ∀ q ∈ s1.groups, q.2.ident.island = i → q.2.ident.ctx = c → ∀ r ∈ q.2.regs.t,
      r.2.cv = true → ¬(r.2.base.toNat < hi ∧ lo < r.2.base.toNat + r.2.limit.toNat))
  ∧ (∀ st a b p, FaultsIf (.trinv st a b p) (fun _ cx => (∀ l h k fs r m, cx.f.hold ≠ .trinv l h k fs r m)
      ∧ (2 ^ 57 ≤ (readS cx.g.regs a.toNat).toNat ∨ (readS cx.g.regs a.toNat).toNat % 65536 ≠ 0
        ∨ 2 ^ 48 ≤ (readS cx.g.regs b.toNat).toNat)) fun _ => { cls := 0x01, status := 2 })
  ∧ (∀ st a t w q x s cx, Ready (.prf st a t w q x) s cx → ∃ u, exec (.prf st a t w q x) s = .next u
    ∧ AccessFrame s u cx ∧ (grpOf u cx.key).ops = cx.g.ops ∧ (grpOf u cx.key).held = cx.g.held
    ∧ u.teams = s.teams ∧ u.hostMem = s.hostMem ∧ (∀ i, i ≠ cx.g.ident.island → islOf u i = islOf s i)
    ∧ ∀ isl b, byteAt u isl b = byteAt (translateAll cx.g.ident.island cx.g.ident.ctx (privileged cx.g.ident) .read s
        (laneReqs cx a t x (sizeBytes w))).1 isl b)
  ∧ RegisterAddress ∧ WalksSetAccessed

/-! ## Barriers (R211 to R222) -/

/-- R213: the check after every change to REMAIN or PEND; a phase that completes lets the fragments that wait for it go on at
their continuations, but for those of a group with a parked fragment (R219, R247).
R212: phase q is done when PH − q lies in 1 to 2^31.
R217: an arrival of k within REMAIN lowers REMAIN by k, at a Complete barrier after arming it again, and leaves EXPECT, PEND
and the phase; one beyond REMAIN ends the context (R235). -/
def Obligations.BarrierCheck : Prop :=
  (∀ s tm key, (tblGet? s.teams tm).isSome = true →
    let b := barOf s tm key
    (¬(b.state = .armed ∧ b.remain = 0 ∧ b.pend = 0) → barCheck s tm key = s)
    ∧ (b.state = .armed → b.remain = 0 → b.pend = 0 →
      let c := barOf (barCheck s tm key) tm key
      c.ph.toNat = (b.ph.toNat + 1) % 2 ^ 32 ∧ c.remain = b.expect ∧ c.timer = 0 ∧ c.state = .complete
      ∧ c.expect = b.expect ∧ c.pend = 0 ∧ c.eng = b.eng
      ∧ (∀ k g, tblGet? (barCheck s tm key).groups k = some g → g.ident.team = tm → (∀ f ∈ g.frags, f.parked = none) →
        ∀ f ∈ g.frags, ∀ q next, f.hold = .bwait key q next → phaseDone c q = false)
      ∧ (∀ k g, tblGet? s.groups k = some g → g.ident.team = tm → (∀ f ∈ g.frags, f.parked = none) →
        ∀ f ∈ g.frags, ∀ q next, f.hold = .bwait key q next → phaseDone c q = true → ∀ l, inMask f.mask l = true →
          ∃ x ∈ (grpOf (barCheck s tm key) k).frags, inMask x.mask l = true ∧ x.hold = .none ∧ x.pc = next)
      ∧ (∀ key', key' ≠ key → barOf (barCheck s tm key) tm key' = barOf s tm key')
      ∧ SameMemory s (barCheck s tm key)))
  ∧ (∀ b : Bar, ∀ q : Word, phaseDone b q = true ↔
    ∃ n : Nat, 1 ≤ n ∧ n ≤ 2 ^ 31 ∧ (q.toNat + n) % 2 ^ 32 = b.ph.toNat)
  ∧ ((∀ s tm key k, (tblGet? s.teams tm).isSome = true →
    let b := barOf s tm key
    b.state ≠ .idle → k < b.remain →
    let c := barOf (arrive s tm key k b) tm key
    c.remain = b.remain - k ∧ c.expect = b.expect ∧ c.pend = b.pend ∧ c.ph = b.ph
    ∧ (b.state = .complete → c.state = .armed) ∧ (b.state = .armed → c.state = .armed))
  ∧ ∀ s tm key k, (tblGet? s.teams tm).isSome = true → (barOf s tm key).remain < k →
    ∀ p ∈ (arrive s tm key k (barOf s tm key)).groups,
      onPartition (teamOf s tm).island (teamOf s tm).ctx p.2 = false)

/-- R216 to R221: each barrier instruction in the states its entry admits, and what it leaves of its barrier; in the others it is
ILLEGAL, STATUS 0x03.
R213, R247: it waits while another fragment of its group holds at a BARV on the barrier, and BARV and BWAIT while a fragment of
the group is parked. -/
def Obligations.BarrierResults : Prop :=
  (∀ st n tm k, RunsStill (.binit st n tm k) (fun s cx => barFree s cx tm n ∧ (theBar s cx tm n).state = .idle) fun s cx =>
    goPast 4 (putBar s cx tm n { state := .armed, expect := k.toNat, remain := k.toNat, teamScope := tm = 1 }) cx)
  ∧ (∀ st n tm k, RunsStill (.binit st n tm k) (fun s cx => barFree s cx tm n
      ∧ ((theBar s cx tm n).state = .armed ∨ (theBar s cx tm n).state = .complete) ∧ (theBar s cx tm n).expect = k.toNat) (goPast 4))
  ∧ (∀ st n tm k, FaultsIf (.binit st n tm k) (fun s cx => barFree s cx tm n ∧ (theBar s cx tm n).state ≠ .idle
      ∧ ¬(((theBar s cx tm n).state = .armed ∨ (theBar s cx tm n).state = .complete) ∧ (theBar s cx tm n).expect = k.toNat))
    fun _ => { cls := 0x01, status := 3 })
  ∧ (∀ st n tm d k s cx, Ready (.barv st n tm d k) s cx → barFree s cx tm n → NoneParked cx → accessesDone cx.g s.seq = true →
    Counting (theBar s cx tm n) → k.toNat + 1 < (theBar s cx tm n).remain → HasTeam s cx →
    ∃ u, exec (.barv st n tm d k) s = .next u ∧ Still s u cx
    ∧ BarIs (theBar u cx tm n) { rearm (theBar s cx tm n) with remain := (theBar s cx tm n).remain - (k.toNat + 1), teamScope := tm = 1 }
    ∧ (grpOf u cx.key).regs = writeS cx.g.regs d.toNat ((theBar s cx tm n).ph.setWidth 64)
    ∧ (grpOf u cx.key).special = cx.g.special)
  ∧ (∀ st n tm d k, RunsIf (.barv st n tm d k) (fun s cx => barFree s cx tm n ∧ NoneParked cx
      ∧ accessesDone cx.g s.seq = true ∧ (theBar s cx tm n).state ≠ .idle) fun s cx =>
    barvAct (putBar s cx tm n { theBar s cx tm n with teamScope := tm = 1 }) cx (namedBar s cx tm n) (k.toNat + 1) d.toNat)
  ∧ (∀ st n tm d k, RunsStill (.barv st n tm d k) (fun s cx => barFree s cx tm n ∧ NoneParked cx
      ∧ accessesDone cx.g s.seq = false) fun s cx => holdAt (.barv (namedBar s cx tm n) (k.toNat + 1) d.toNat s.seq) s cx)
  ∧ (∀ st n tm d k, FaultsIf (.barv st n tm d k) (fun s cx => barFree s cx tm n ∧ NoneParked cx ∧ accessesDone cx.g s.seq = true
      ∧ (theBar s cx tm n).state = .idle) fun _ => { cls := 0x01, status := 3 })
  ∧ (∀ st n tm a, Expects (.bexp st n tm a) tm n fun cx => (readS cx.g.regs a.toNat).toNat)
  ∧ (∀ st n tm i, Expects (.bexpImm st n tm i) tm n fun _ => 16 * i.toNat)
  ∧ (∀ st n tm a off, RunsStill (.bwait st n tm a off) (fun s cx => barFree s cx tm n ∧ NoneParked cx
      ∧ (theBar s cx tm n).state ≠ .idle ∧ phaseDone (theBar s cx tm n) ((readS cx.g.regs a.toNat).truncate 32) = true) fun s cx =>
    modGrp (acquireClock s cx (theBar s cx tm n).released (if tm = 1 then 1 else 2)) cx.key (jump (target cx.f.pc off) cx.ix))
  ∧ (∀ st n tm a off, RunsStill (.bwait st n tm a off) (fun s cx => barFree s cx tm n ∧ NoneParked cx
      ∧ (theBar s cx tm n).state ≠ .idle ∧ phaseDone (theBar s cx tm n) ((readS cx.g.regs a.toNat).truncate 32) = false) fun s cx =>
    holdAt (.bwait (namedBar s cx tm n) ((readS cx.g.regs a.toNat).truncate 32) (target cx.f.pc off)) s cx)
  ∧ (∀ st n tm a off, FaultsIf (.bwait st n tm a off) (fun s cx => barFree s cx tm n ∧ NoneParked cx
      ∧ (theBar s cx tm n).state = .idle) fun _ => { cls := 0x01, status := 3 })
  ∧ (∀ st n tm a c, RunsStill (.btry st n tm a c) (fun s cx => barFree s cx tm n ∧ (theBar s cx tm n).state ≠ .idle) fun s cx =>
    let ok := phaseDone (theBar s cx tm n) ((readS cx.g.regs a.toNat).truncate 32)
    goPastWith 4 (fun g => writeC g c.toNat ok)
      (if ok = true then acquireClock s cx (theBar s cx tm n).released (if tm = 1 then 1 else 2) else s) cx)
  ∧ (∀ st n tm a c, FaultsIf (.btry st n tm a c) (fun s cx => barFree s cx tm n ∧ (theBar s cx tm n).state = .idle)
    fun _ => { cls := 0x01, status := 3 })
  ∧ (∀ st n tm, RunsStill (.binv st n tm) (fun s cx => barFree s cx tm n
      ∧ (theBar s cx tm n).state = .idle) (goPast 4))
  ∧ (∀ st n tm, RunsStill (.binv st n tm) (fun s cx => barFree s cx tm n ∧ (theBar s cx tm n).state ≠ .idle
      ∧ anyWaiter s cx.g.ident.team (namedBar s cx tm n) = false ∧ (theBar s cx tm n).eng = 0) fun s cx =>
    goPast 4 (putBar s cx tm n {}) cx)
  ∧ (∀ st n tm, FaultsIf (.binv st n tm) (fun s cx => barFree s cx tm n ∧ (theBar s cx tm n).state ≠ .idle
      ∧ (anyWaiter s cx.g.ident.team (namedBar s cx tm n) = true ∨ (theBar s cx tm n).eng ≠ 0))
    fun _ => { cls := 0x01, status := 3 })
  ∧ (∀ st n tm k d j a off c, WaitsIf (.binit st n tm k) (fun s cx => ¬ barFree s cx tm n)
    ∧ WaitsIf (.barv st n tm d j) (fun s cx => ¬ barFree s cx tm n ∨ ¬ NoneParked cx)
    ∧ WaitsIf (.bwait st n tm a off) (fun s cx => ¬ barFree s cx tm n ∨ ¬ NoneParked cx)
    ∧ WaitsIf (.btry st n tm a c) (fun s cx => ¬ barFree s cx tm n)
    ∧ WaitsIf (.binv st n tm) fun s cx => ¬ barFree s cx tm n)
  ∧ ∀ s cx c r, let u := acquireClock s cx c r
    u.teams = s.teams ∧ u.panel = s.panel ∧ (grpOf u cx.key).regs = (grpOf s cx.key).regs
    ∧ (grpOf u cx.key).special = (grpOf s cx.key).special ∧ (grpOf u cx.key).frags = (grpOf s cx.key).frags

/-! ## Copy engines (R223 to R231) -/

/-- R226, R229: TCOPY, TSTO and ACP16 start their operation; TCOPY, TSTO and TPREF with a false condition do nothing; TPREF
takes no fault of its global accesses.
The data of an engine operation move when it lands (log 17), the model's choice. -/
def Obligations.CopyResults : Prop :=
  (∀ st c n e d, RunsStill (.tcopy st c n e d) (fun _ cx => condTrue cx.g.regs c n = false) (goPast 4))
  ∧ (∀ st c n e d, RunsStill (.tsto st c n e d) (fun _ cx => condTrue cx.g.regs c n = false) (goPast 4))
  ∧ (∀ st c n e, RunsStill (.tpref st c n e) (fun _ cx => condTrue cx.g.regs c n = false) (goPast 4))
  ∧ (∀ st c n e d, CopyStarts (.tcopy st c n e d) .tcopy .read c n e d)
  ∧ (∀ st c n e d, CopyStarts (.tsto st c n e d) .tsto .write c n e d)
  ∧ (∀ st c n e s cx, Ready (.tpref st c n e) s cx → condTrue cx.g.regs c n = true →
    tensorFault (objWords s cx.g.ident.island (opRec (readS cx.g.regs (e.toNat + 1))))
      (opRec (readS cx.g.regs (e.toNat + 1))) cx.g.ident.ctx .read = none →
    ∃ u, exec (.tpref st c n e) s = .next u ∧ AccessFrame s u cx ∧ u.teams = s.teams ∧ u.hostMem = s.hostMem
      ∧ u.seq = s.seq + 1
      ∧ (grpOf u cx.key).ops = cx.g.ops ++ [{ id := s.seq, cls := .copy, mask := cx.f.mask, pc := cx.f.pc }])
  ∧ (∀ st d a t b s cx hs,
    let id := cx.g.ident
    let team := teamOf s id.team
    let key := barKey team id.core false b.toNat
    let ls := acpLanes cx d a t
    let tr := translateAll id.island id.ctx (privileged id) .read s (ls.map (·.1))
    let v := vcAll id.island id.ctx false tr.1 (hitsOf tr.2)
    let pins := pinPages hs
    Ready (.acp16 st d a t b) s cx → (barOf s id.team key).eng < 255 → LocksFree s cx 1 → barvAhead cx key = false → (barOf s id.team key).state ≠ .idle → acpAlign ls = none → firstProt tr.2 = none →
    acpExtent team ls = none → firstVcFault v.2 = none → v.2.all (fun p => p.2 ≠ .waits) = true → missesOf tr.2 = [] →
    hs = v.2.map (·.1) → hs ≠ [] → pinsFit (islOf v.1 id.island).mem pins = true →
    let u := done (.acp16 st d a t b) s cx (goPast 4 (acpStart cx v.1 ls key hs pins) cx)
    exec (.acp16 st d a t b) s = .next u ∧ Still v.1 u cx)

/-! ## Accumulator tiles (R166 to R185) -/

/-- R168, R172, R173, R178, R182 to R184: the tile instructions start where nothing stands before them in their tiles' orders;
none of them but TEPI touches memory.
R184: TEPI writes 32 rows of its tile to team memory, through its epilogue, and touches nothing else of memory.
R173, R181: what one accumulate makes of an element, and the epilogues.
An MMAP whose PROG is valid without saved words is read by log 19. -/
def Obligations.TileResults : Prop :=
  ((∀ st a b, RunsStill (.mmsc st a b) always fun s cx => withGroup s cx (advance 4 cx.ix { cx.g with msa := a, msb := b }))
  ∧ (∀ st h t a y b z n, RunsStill (.mma st h t a y b z n) (fun s cx =>
      earlier s cx.g.ident.team (theTiles s cx t.toNat (tilesOf cx)) s.seq waitsForReads = false
      ∧ arrayBusy s cx.g.ident.island cx.g.ident.core = false) fun s cx =>
    goPast 4 (addOp (beginWrite s cx.g.ident.team (theTiles s cx t.toNat (tilesOf cx))) cx.key
      (matrixOp cx (mmaPayload cx h t a b y z) [])) cx)
  ∧ (∀ st h t a, RunsStill (.tld st h t a) (fun s cx =>
      earlier s cx.g.ident.team (theTiles s cx t.toNat (tilesOf cx)) s.seq waitsForWrites = false) fun s cx =>
    let tm := cx.g.ident.team
    let ks := theTiles s cx t.toNat (tilesOf cx)
    let row := fun l => laneRow cx.g.ident.width h l
    let ws := (lanesOf cx.f.mask).flatMap fun l => (List.range 32).map fun n =>
      ({ elem := .v (a.toNat * 8 + n) l
         val := (tileElem (tileOf (teamOf s tm) (tileKey (teamOf s tm) cx.g.ident.core (t.toNat + (row l).1))) (row l).2 n).setWidth 64 }
        : RegWrite)
    let reads := fun (k r : Nat) => (lanesOf cx.f.mask).any fun l =>
      (tileKey (teamOf s tm) cx.g.ident.core (t.toNat + (row l).1), (row l).2) = (k, r)
    goPast 4 (addOp (beginRead (noteTiles s cx.key tm cx.f.pc ks reads) tm ks) cx.key (matrixOp cx (.tld t.toNat) ws)) cx)
  ∧ (∀ st h t a, RunsStill (.tst st h t a) (fun s cx =>
      earlier s cx.g.ident.team (theTiles s cx t.toNat (tilesOf cx)) s.seq waitsForAny = false) fun s cx =>
    goPast 4 (addOp (beginWrite s cx.g.ident.team (theTiles s cx t.toNat (tilesOf cx))) cx.key (matrixOp cx
      (.tst t.toNat h ((lanesOf cx.f.mask).map fun l => (l, spanWords cx.g.regs (a.toNat * 8) 32 l))) [])) cx)
  ∧ (∀ st t n, RunsStill (.tzero st t n) (fun s cx =>
      earlier s cx.g.ident.team (theTiles s cx t.toNat (n.toNat + 1)) s.seq waitsForAny = false) fun s cx =>
    goPast 4 ((theTiles s cx t.toNat (n.toNat + 1)).foldl (fun s k => modTile s cx.g.ident.team k fun _ => {}) s) cx)
  ∧ (∀ st c n e b p l z y, RunsStill (.mmap st c n e b p l z y) (fun _ cx =>
      progValid cx.g = false ∧ condTrue cx.g.regs c n = false) (goPast 4))
  ∧ (∀ st c n e b p l z y, RunsStill (.mmap st c n e b p l z y) (fun s cx =>
      (progValid cx.g = true ∨ condTrue cx.g.regs c n = true) ∧ cx.g.mmap = none
      ∧ mmapFault s cx (mmapStart cx s.seq e b p l z y).word0 y = none
      ∧ earlier s cx.g.ident.team (pairKeys (teamOf s cx.g.ident.team) cx.g.ident.core (if b = 1 then 16 else 0)) s.seq
        waitsForReads = false) fun s cx => mmapIssue s cx (mmapStart cx s.seq e b p l z y)))
  ∧ (∀ st t e f p a s cx,
    let tm := cx.g.ident.team
    let team := teamOf s tm
    let w0 := (readS cx.g.regs e.toNat).toNat
    let addr := bits w0 31 0
    let pitch := bits w0 47 32
    let row := 32 * ofBytes f
    let rows := tepiRows f p (a = 1) (modeOf cx.g.special) (readS cx.g.regs (e.toNat + 1)) addr pitch
      (tileOf team (tileKey team cx.g.ident.core t.toNat))
    Ready (.tepi st t e f p a) s cx → w0 < 2 ^ 48 → addr % 16 = 0 → pitch % 16 = 0 → addr + 31 * pitch + row ≤ teamExtent team →
    firstLock (islOf s cx.g.ident.island).mem true tm row true ((List.range 32).map fun r => (none, addr + r * pitch)) = none →
    earlier s tm (theTiles s cx t.toNat 1) s.seq waitsForWrites = false →
    ∃ u, exec (.tepi st t e f p a) s = .next u ∧ AccessFrame s u cx ∧ SameOutside s u
    ∧ (grpOf u cx.key).ops = cx.g.ops ++ [{ matrixOp cx (.tepi t.toNat rows.2) [] with id := s.seq }]
    ∧ (∀ k, k ≠ tm → teamOf u k = teamOf s k)
    ∧ (∀ x, ¬ Lost team x → (∀ r, r < 32 → x < addr + r * pitch ∨ addr + r * pitch + row ≤ x) →
      memGet (teamOf u tm).mem x = memGet team.mem x)
    ∧ (pitch ≥ row → ∀ r n j, r < 32 → n < 32 → j < ofBytes f → ¬ Lost team (addr + r * pitch + n * ofBytes f + j) →
      memGet (teamOf u tm).mem (addr + r * pitch + n * ofBytes f + j)
        = (leBytes (tepiElem f p (a = 1) (modeOf cx.g.special) (epiLo (readS cx.g.regs (e.toNat + 1)))
            (epiHi (readS cx.g.regs (e.toNat + 1)))
            (tileElem (tileOf team (tileKey team cx.g.ident.core t.toNat)) r n).toNat).1 (ofBytes f)).getD j 0))
  ∧ AccumulateRule ∧ EpilogueRule

/-! ## Chains (R151 to R165) -/

/-- R151, R155, R157, R158: a CHAIN whose links pass their checks holds its fragment at the header, and the chain carries the
writes, flags and cuts of its links; nothing is written until it retires.
R65, R154: a fault of its links is precise, at the header; a link word whose page misses parks the fragment there.
R155: a sink's product passes to the sum it is bound to without rounding, and the sum is rounded once, when it is written.
R157, R161: a chain that retires makes all its writes and raises all its flags at once, adds its cuts to CUTCNT, and its
fragment goes on after the last link.
The order of the two checks of an F64 stream is DEDUCED (log 20). -/
def Obligations.ChainResults : Prop :=
  (∀ st l k s cx s1 ws, issuing s = some cx → fetchLinks s cx (pcAdd cx.f.pc 4) (l.toNat + 1) = .ok s1 ws →
    linkFault s1 cx ws k = none → Clear (chainForm st (linksOf ws) k) s1 cx →
    let rec' := chainStart cx.f cx.g.regs (chainMode cx) s1.seq (linksOf ws) k
    let g := { cx.g with
      chains := cx.g.chains ++ [rec']
      chainRm := cx.g.chainRm.filter fun p => !(p.1 = cx.f.pc && p.2.1 = cx.f.mask)
      frags := modNth cx.g.frags cx.ix fun f => { f with hold := .chain } }
    let u := issued (chainForm st (linksOf ws) k) s1 cx (withGroup { s1 with seq := s1.seq + 1 } cx g)
    exec (.chain st l k) s = .next u ∧ Still s1 u cx ∧ (grpOf u cx.key).regs = cx.g.regs
    ∧ (grpOf u cx.key).special = cx.g.special ∧ rec'.links = l.toNat + 1 ∧ rec'.mask = cx.f.mask)
  ∧ (∀ st l k s cx, issuing s = some cx →
    (∀ s1 ws c, fetchLinks s cx (pcAdd cx.f.pc 4) (l.toNat + 1) = .ok s1 ws → linkFault s1 cx ws k = some c →
      exec (.chain st l k) s = .next (takeFault s1 cx c) ∧ (c.cls = 0x01 ∨ c.cls = 0x06))
    ∧ (∀ s1 c, fetchLinks s cx (pcAdd cx.f.pc 4) (l.toNat + 1) = .fault s1 c → exec (.chain st l k) s = .next (takeFault s1 cx c))
    ∧ (∀ s1, fetchLinks s cx (pcAdd cx.f.pc 4) (l.toNat + 1) = .wait s1 → exec (.chain st l k) s = .next (markWaiting s1 cx))
    ∧ ∀ s1 m, fetchLinks s cx (pcAdd cx.f.pc 4) (l.toNat + 1) = .miss s1 m →
      exec (.chain st l k) s = .next (park s1 cx .fetch .fetch 4 [m]))
  ∧ (∀ md g l a b c t d, t ≠ c →
    let src := fun (r : Nat) => ({ reg := r } : LinkSrc)
    let x := fun (r : Nat) => dec .f32 (readV g r l).toNat
    let product := exactMul (x a) (x b)
    let sum := exactAdd md (quiet product.1) (x c)
    let r := laneChain md [some { op := .mul, srcs := [src a, src b], dst := t }, some { op := .add, srcs := [src t, src c], dst := d }]
      1 g l
    r.writes = [{ elem := .v d l, val := BitVec.ofNat 64 ((rnd .f32 md (quiet sum.1)).1 % 2 ^ 32) }]
    ∧ r.flags = orFlags [product.2 ||| snanFlag [x a, x b], sum.2 ||| snanFlag [quiet product.1, x c]]
        ||| orFlags [0, (rnd .f32 md (quiet sum.1)).2])
  ∧ (∀ s k i c, (nth (grpOf s k).frags i).hold = .chain → chainOf (grpOf s k) (nth (grpOf s k).frags i) = some c →
    ∃ u, exec (.chainRetire k i) s = .next u
    ∧ (grpOf u k).regs = applyWrites (grpOf s k).regs c.writes
    ∧ (grpOf u k).special = addCuts (raise (grpOf s k).special c.flags) c.cuts
    ∧ (grpOf u k).chains = (grpOf s k).chains.filter (fun x => x.id ≠ c.id)
    ∧ SameMemory s u ∧ ∀ j, j ≠ k → tblGet? u.groups j = tblGet? s.groups j)

/-! ## Feeds (R144 to R150) -/

/-- R145, R147, R148: FEEDW puts its operands at the end of Q0 or Q2, FEEDR takes the oldest entry of Q1 or Q3 into V[d] in the
lanes of both masks, and raises those lanes' flags; the waits and faults of a full or an empty queue; a wait on Q2 or Q3 counts
from its start. -/
def Obligations.FeedResults : Prop :=
  (∀ st a b m, RunsStill (.feedw st 0 a b m) (fun _ cx => (selWin cx.g).q0.length < 8) fun s cx =>
    { withGroup s cx (advance 4 cx.ix (modWin (winNo cx.g)
        (fun w => { w with q0 := w.q0 ++ [pushedEntry cx s.seq a b m] }) cx.g)) with seq := s.seq + 1 })
  ∧ (∀ st a b m, RunsIf (.feedw st 1 a b m) (fun _ cx => cx.g.hmode = false ∧ cx.g.stream.isSome = true
      ∧ cx.g.win0.q2.length < 8) fun s cx =>
    ownStream { withGroup s cx (advance 4 cx.ix { cx.g with
        win0 := { cx.g.win0 with q2 := cx.g.win0.q2 ++ [pushedEntry cx s.seq a b m] } }) with seq := s.seq + 1 } cx)
  ∧ (∀ st d m e rest, RunsStill (.feedr st d 0 m) (fun _ cx => (selWin cx.g).q1 = e :: rest ∧ e.fmt = m) fun s cx =>
    withGroup s cx (advance 4 cx.ix (popInto e d m cx (modWin (winNo cx.g) (fun w => { w with q1 := rest }) cx.g))))
  ∧ (∀ st d m e rest, RunsIf (.feedr st d 1 m) (fun s cx => cx.g.hmode = false ∧ cx.g.stream.isSome = true
      ∧ (grpOf (ownStream s cx) cx.key).win0.q3 = e :: rest ∧ e.fmt = m) fun s cx =>
    let s1 := ownStream s cx
    let g := grpOf s1 cx.key
    unbind (ownStream (withGroup s1 cx (advance 4 cx.ix
      (popInto e d m cx { g with win0 := { g.win0 with q3 := rest } }))) cx) cx.key)
  ∧ (∀ e d m cx g, OnlyV g.regs (popInto e d m cx g).regs d.toNat (fmtRegs m) (e.mask &&& cx.f.mask)
    ∧ ∀ l, inMask (e.mask &&& cx.f.mask) l = true →
      (if m = 3 then readPair (popInto e d m cx g).regs d.toNat l = (e.vals.getD l 0).toNat
       else (readV (popInto e d m cx g).regs d.toNat l).toNat = (e.vals.getD l 0).toNat % 2 ^ 32))
  ∧ (∀ st a b d m,
    let feed := fun (status : BitVec 8) (_ : Cx) => ({ cls := 0x1B, status := status } : Cause)
    let noStream := fun (cx : Cx) => cx.g.hmode = true ∨ cx.g.stream = none
    let full := fun (cx : Cx) => 8 ≤ (selWin cx.g).q0.length
    let waits := fun (i : Instr) (cond : State → Cx → Prop) => ∀ s cx, Ready i s cx → cond s cx →
      exec i s = .next (modGrp s cx.key fun g => { g with frags := modNth g.frags cx.ix fun f =>
        { f with waiting := true, feedSince := f.feedSince.or (some s.panel.ptime) } })
    WaitsIf (.feedw st 0 a b m) (fun _ cx => full cx ∧ q1Load (selWin cx.g) < 8)
    ∧ FaultsIf (.feedw st 0 a b m) (fun _ cx => full cx ∧ 8 ≤ q1Load (selWin cx.g)) (feed 2)
    ∧ FaultsIf (.feedw st 1 a b m) (fun _ cx => noStream cx) (feed 5)
    ∧ waits (.feedw st 1 a b m) (fun _ cx => ¬ noStream cx ∧ 8 ≤ cx.g.win0.q2.length)
    ∧ WaitsIf (.feedr st d 0 m) (fun _ cx => (selWin cx.g).q1 = [] ∧ ¬((selWin cx.g).q0 = [] ∧ (selWin cx.g).taken = []))
    ∧ FaultsIf (.feedr st d 0 m) (fun _ cx => (selWin cx.g).q1 = [] ∧ (selWin cx.g).q0 = [] ∧ (selWin cx.g).taken = []) (feed 3)
    ∧ FaultsIf (.feedr st d 0 m) (fun _ cx => ∃ e rest, (selWin cx.g).q1 = e :: rest ∧ e.fmt ≠ m) (feed 1)
    ∧ FaultsIf (.feedr st d 1 m) (fun _ cx => noStream cx) (feed 5)
    ∧ FaultsIf (.feedr st d 1 m) (fun s cx => ¬ noStream cx ∧ ∃ e rest, (grpOf (ownStream s cx) cx.key).win0.q3 = e :: rest ∧ e.fmt ≠ m)
      (feed 1)
    ∧ ∀ s cx, Ready (.feedr st d 1 m) s cx → ¬ noStream cx → (grpOf (ownStream s cx) cx.key).win0.q3 = [] →
      exec (.feedr st d 1 m) s = .next (modGrp (ownStream s cx) cx.key fun g => { g with frags := modNth g.frags cx.ix fun f =>
        { f with waiting := true, feedSince := f.feedSince.or (some s.panel.ptime) } }))

/-! ## Remote operations, notify counters, collectives, queues, ports (R387, R397 to R410, R416, R372) -/

/-- R397 to R401: PUT, GET, RATOM and NOTIFY issue.
R409: WAITN goes on at its target where the counter meets the condition, and else waits there; a reserved bit is ILLEGAL,
a counter of another context PROT. That one which meets it at once is a wait of 0 clocks to a monitor is log 15's choice.
R416, R417: COLL and COLW answer their status and, with 0x00, start the bucket.
COLL reads its operands at acceptance (log 35); the parts of a request and the readings of poisoned data are logs 32
and 33: the model's choices. -/
def Obligations.RemoteResults : Prop :=
  ((∀ st d b, RemoteStarts (.put st d b) .put d.toNat b.toNat 0 0 false)
  ∧ (∀ st d b, RemoteStarts (.get st d b) .get d.toNat b.toNat 0 0 false)
  ∧ (∀ st d b e o z, RemoteStarts (.ratom st d b e o z) .ratom d.toNat b.toNat e.toNat o.toNat (z = 1))
  ∧ (∀ st d b, RemoteStarts (.notify st d b) .notify d.toNat b.toNat 0 0 false))
  ∧ (∀ st c v off,
    let w := fun (cx : Cx) => (readS cx.g.regs c.toNat).toNat
    let holds := fun (s : State) (cx : Cx) => condHolds (BitVec.ofNat 2 (w cx / 2 ^ 16))
      (ctrOf s cx.g.ident.island (w cx % 2 ^ 16)) (readS cx.g.regs v.toNat)
    let mine := fun (s : State) (cx : Cx) => ctrOwned s cx.g.ident.island cx.g.ident.ctx (w cx % 2 ^ 16)
    RunsStill (.waitn st c v off) (fun s cx => w cx < 2 ^ 18 ∧ mine s cx = true ∧ holds s cx = true) (fun s cx =>
      modGrp (acquireClock (sampleCtx s cx.g.ident.island 3 cx.g.ident.ctx 0) cx (ctrClock s cx.g.ident.island (w cx % 2 ^ 16)) 4)
        cx.key (jump (target cx.f.pc off) cx.ix))
    ∧ RunsStill (.waitn st c v off) (fun s cx => w cx < 2 ^ 18 ∧ mine s cx = true ∧ holds s cx = false) (fun s cx =>
      withGroup s cx (modFrag cx.g cx.ix fun f =>
        { f with
          hold := .waitn (w cx % 2 ^ 16) (readS cx.g.regs v.toNat) (BitVec.ofNat 2 (w cx / 2 ^ 16)) (target cx.f.pc off)
          waited := 0 }))
    ∧ FaultsIf (.waitn st c v off) (fun _ cx => 2 ^ 18 ≤ w cx) (fun _ => { cls := 0x01, status := 2 })
    ∧ FaultsIf (.waitn st c v off) (fun s cx => w cx < 2 ^ 18 ∧ mine s cx = false) fun _ => { cls := 0x11 })
  ∧ ((∀ st d a, CollectiveStarts (.coll st d a) false d.toNat a.toNat)
  ∧ (∀ st d a, CollectiveStarts (.colw st d a) true d.toNat a.toNat))

/-- R372: QPUSH answers its status, and with 0x00 puts the packet in the slot at the tail; it waits for the group's earlier
accesses, a reserved bit of its operand is ILLEGAL, and its read of the packet takes the faults and waits of R298.
R387: PFENCE and PFENCE.REL on each kind of port, and a reserved bit of their operand.
The readings of R374 with R388, and of a queue of the host, are logs 48 and 36. -/
def Obligations.QueueAndPortResults : Prop :=
  (∀ st d a b s cx s1 h,
    let w := (readS cx.g.regs b.toNat).toNat
    let acc : Want := { acc := .read, n := 64 }
    let i := cx.g.ident.island
    let s2 := noteAccess cx acc .load false h s1
    let r := pushStatus s2 cx.g.ident.ctx w
    let s3 := if r = 0 then panelRelease (pushPacket s2 w (hitBytes s1 i h 64)
      ((List.range 4).filter fun j => marked s1 i (h.loc.phys + 16 * j))) cx.key cx.f.mask else s2
    Ready (.qpush st d a b) s cx → w < 2 ^ 10 → Passes s s1 cx acc [{ t := { base := readS cx.g.regs a.toNat }, o := 0 }] [h] →
    accessesDone cx.g s.seq = true →
    exec (.qpush st d a b) s = .next (done (.qpush st d a b) s cx
      (goPastWith 4 (fun g => writeS g d.toNat (BitVec.ofNat 64 r)) s3 cx))
    ∧ (r ≠ 0 → SameMemory s1 s3))
  ∧ (∀ st d a b, FaultsIf (.qpush st d a b) (fun _ cx => 2 ^ 10 ≤ (readS cx.g.regs b.toNat).toNat)
      (fun _ => { cls := 0x01, status := 2 })
    ∧ ∀ s cx, Ready (.qpush st d a b) s cx → (readS cx.g.regs b.toNat).toNat < 2 ^ 10 →
      let check := checkGlobal s cx { acc := .read, n := 64 } [{ t := { base := readS cx.g.regs a.toNat }, o := 0 }]
      (∀ s1 c, check = .fault s1 c → exec (.qpush st d a b) s = .next (takeFault s1 cx c))
      ∧ (∀ s1, check = .wait s1 → exec (.qpush st d a b) s = .next (markWaiting s1 cx))
      ∧ (∀ s1 ms, check = .go s1 [] ms → exec (.qpush st d a b) s = .next (park s1 cx .uniform .read 4 ms))
      ∧ ∀ s1 h hs ms, check = .go s1 (h :: hs) ms → accessesDone cx.g s.seq = false →
        exec (.qpush st d a b) s = .next (markWaiting s1 cx))
  ∧ (∀ n bs bad s, let q := queueOf s n
    (tblGet? s.panel.queues n).isSome = true → (∃ isl, tblGet? s.islands (qIsl q) = some isl) → bs.length = 64 →
    (slotAddr q q.tail + 64 ≤ hostBase ∨ hostBase ≤ slotAddr q q.tail) →
    let t := pushPacket s n bs bad
    (∀ k, k < 64 → byteAt t (qIsl q) (slotAddr q q.tail + k) = bs.getD k 0)
    ∧ (queueOf t n).tail = q.tail + 1 ∧ (queueOf t n).head = q.head)
  ∧ (∀ st d a, FaultsIf (.pfence st d a) (fun _ cx => 16 ≤ (readS cx.g.regs a.toNat).toNat) (fun _ => { cls := 0x01, status := 2 })
    ∧ FaultsIf (.pfenceRel st d a) (fun _ cx => 16 ≤ (readS cx.g.regs a.toNat).toNat) fun _ => { cls := 0x01, status := 2 })
  ∧ (∀ st d a,
    let w := fun (cx : Cx) => (readS cx.g.regs a.toNat).toNat
    let port := fun (s : State) (cx : Cx) => portOf s cx.g.ident.island (w cx)
    let answer := fun (v : Nat) (s : State) (cx : Cx) => goPastWith 4 (fun g => writeS g d.toNat (BitVec.ofNat 64 v)) s cx
    let fenced := fun (s : State) (cx : Cx) => modPort s cx.g.ident.island (w cx) (fencePort s.panel.ptime)
    RunsStill (.pfence st d a) (fun _ cx => 12 ≤ w cx ∧ w cx < 16) (answer 3)
    ∧ RunsStill (.pfence st d a) (fun s cx => w cx < 12 ∧ linkOpen (port s cx) = false ∧ (port s cx).state ≠ .fenced) (answer 1)
    ∧ RunsStill (.pfence st d a) (fun s cx => w cx < 12 ∧ (linkOpen (port s cx) = true ∨ (port s cx).state = .fenced)
        ∧ (port s cx).owed = []) (fun s cx =>
      answer 0 (modPort (fenced s cx) cx.g.ident.island (w cx) fun p => { p with drained := true }) cx)
    ∧ RunsStill (.pfence st d a) (fun s cx => w cx < 12 ∧ (linkOpen (port s cx) = true ∨ (port s cx).state = .fenced)
        ∧ (port s cx).owed ≠ []) (fun s cx =>
      modGrp (fenced s cx) cx.key fun g => modFrag g cx.ix fun f => { f with hold := .pfence (w cx) d.toNat })
    ∧ RunsStill (.pfenceRel st d a) (fun _ cx => 12 ≤ w cx ∧ w cx < 16) (answer 3)
    ∧ RunsStill (.pfenceRel st d a) (fun s cx => w cx < 12 ∧ (port s cx).state ≠ .fenced ∧ (port s cx).fence = false) (answer 1)
    ∧ RunsStill (.pfenceRel st d a) (fun s cx => w cx < 12 ∧ ((port s cx).state = .fenced ∨ (port s cx).fence = true)) (fun s cx =>
      answer 0 (modPort s cx.g.ident.island (w cx) fun p =>
        if p.fence = true ∨ p.changed = true then
          trainEnd s.panel.ptime { p with drained := false, changed := false, relock := false, fence := false }
        else { p with state := .up, drained := false }) cx))

/-! ## Virtual caches and monitors (R255 to R273, R425 to R429) -/

/-- R263, R264, R271, R272: the virtual cache instructions.
R264: the status of an instruction of a VC; one that is not accepted leaves every VC, and all else, as it was.
R262: an accepted one gives its VC the next state, with its maps and the banks still to come from VC 0, writes that state into
its record, and changes no other VC.
R271: the fields of the word and the counts that VCQ gives.
R270, R272: VCWB and VCINV act over the frames of the range that a read translates to and whose VC gives no VCFAULT; VCWB keeps
every line there and cleans it, VCINV keeps none, in VC or L1.
The readings of a VC's states and of the fault order of VCWB are logs 43 and 24; the state words written to the record
are log 21. -/
def Obligations.CacheResults : Prop :=
  ((∀ st d a, VcRuns (.vcdef st d a) .define d.toNat a.toNat) ∧ (∀ st d a, VcRuns (.vcrsz st d a) .resize d.toNat a.toNat)
  ∧ (∀ st d a, VcRuns (.vcret st d a) .retire d.toNat a.toNat)
  ∧ (∀ st d a, RunsStill (.vcq st d a) (fun _ cx => (readS cx.g.regs a.toNat).toNat < 2 ^ 10
      ∧ (readS cx.g.regs a.toNat).toNat / 2 ^ 6 % 4 = 0) fun s cx =>
    let i := cx.g.ident.island
    let w := (readS cx.g.regs a.toNat).toNat
    let e := vctEntry s i cx.g.ident.ctx (w % 64) 0
    goPastWith 4 (fun g => writeS g d.toNat (BitVec.ofNat 64
      (vcqResult (islOf e.1 i).mem cx.g.ident.ctx (e.2.toNat % 64) (w / 2 ^ 8)))) e.1 cx)
  ∧ (∀ st a b c x, CleanRuns (.vcwb st a b c x) false a.toNat b.toNat c.toNat x)
  ∧ (∀ st a b c x, CleanRuns (.vcinv st a b c x) true a.toNat b.toNat c.toNat x))
  ∧ (∀ s i op w, (applyVc s i op w).1 ≠ 0 → (applyVc s i op w).2 = s)
  ∧ VcStatus ∧ VcAccepted .define 1 ∧ VcAccepted .resize 3 ∧ VcAccepted .retire 4
  ∧ (vcCode .undefined = 0 ∧ vcCode .defined = 1 ∧ vcCode .active = 2 ∧ vcCode .resizing = 3 ∧ vcCode .draining = 4
    ∧ vcCode .retired = 5 ∧ vcCode .failed = 6)
  ∧ VcqFields ∧ FramesFound ∧ FramesClean

/-- R428, R429: the monitor instructions, for a monitor the context may name, and their faults.
The readings are log 38. -/
def Obligations.MonitorResults : Prop :=
  (∀ st d n f, RunsStill (.monr st d n f) (fun s cx => privileged cx.g.ident = true
      ∨ (monitorOf s cx.g.ident.island n.toNat).owner = cx.g.ident.ctx
      ∨ (monitorOf s cx.g.ident.island n.toNat).owner = 0xFFFF) fun s cx =>
    goPastWith 4 (fun g => writeS g d.toNat (BitVec.ofNat 64
      ((monitorField (monitorOf s cx.g.ident.island n.toNat) f.toNat).getD 0))) s cx)
  ∧ (∀ st n a, RunsStill (.moncCfg st n a) (fun s cx => mayMonitor s cx n.toNat
      ∧ monitorWordBad (readS cx.g.regs a.toNat).toNat = false
      ∧ (privileged cx.g.ident = false → srcPrivileged ((readS cx.g.regs a.toNat).toNat % 256) = false)) fun s cx =>
    modMonitor (goPast 4 s cx) cx.g.ident.island n.toNat fun _ =>
      configured (readS cx.g.regs a.toNat).toNat (if privileged cx.g.ident = true then 0xFFFF else cx.g.ident.ctx))
  ∧ (∀ st n, RunsStill (.moncClr st n) (fun s cx => mayMonitor s cx n.toNat) fun s cx =>
    modMonitor (goPast 4 s cx) cx.g.ident.island n.toNat clearMonitor)
  ∧ (∀ st n, RunsStill (.moncRel st n) (fun s cx => mayMonitor s cx n.toNat) fun s cx =>
    modMonitor (goPast 4 s cx) cx.g.ident.island n.toNat fun m => clearMonitor { m with src := 0 })
  ∧ (∀ st n, FaultsIf (.moncClr st n) (fun s cx => foreignMonitor s cx n.toNat = true) (fun _ => { cls := 0x11, status := 6 })
    ∧ FaultsIf (.moncRel st n) (fun s cx => foreignMonitor s cx n.toNat = true) fun _ => { cls := 0x11, status := 6 })
  ∧ (∀ st n a, FaultsIf (.moncCfg st n a) (fun _ cx => monitorWordBad (readS cx.g.regs a.toNat).toNat = true)
      (fun _ => { cls := 0x01, status := 2 })
    ∧ FaultsIf (.moncCfg st n a) (fun s cx => monitorWordBad (readS cx.g.regs a.toNat).toNat = false
      ∧ (foreignMonitor s cx n.toNat = true
        ∨ (privileged cx.g.ident = false ∧ srcPrivileged ((readS cx.g.regs a.toNat).toNat % 256) = true)))
      fun _ => { cls := 0x11, status := 6 })
  ∧ (∀ st d n f, FaultsIf (.monr st d n f) (fun s cx => privileged cx.g.ident = false
      ∧ (monitorOf s cx.g.ident.island n.toNat).owner ≠ cx.g.ident.ctx
      ∧ (monitorOf s cx.g.ident.island n.toNat).owner ≠ 0xFFFF) fun _ => { cls := 0x11, status := 6 })
  ∧ ∀ s cx n, foreignMonitor s cx n = true ↔ privileged cx.g.ident = false
    ∧ (monitorOf s cx.g.ident.island n).src ≠ 0 ∧ (monitorOf s cx.g.ident.island n).owner ≠ cx.g.ident.ctx

/-! ## What an access comes to when it does not perform (R246 to R248, R297, R298, R311) -/

/-- R297: every access is aligned to its size, and a misaligned one takes ALIGN, a lane instruction's naming the lowest
misaligned lane; PRF takes none. -/
def Obligations.AlignmentFaults : Prop :=
  (sizeBytes 0 = 1 ∧ sizeBytes 1 = 2 ∧ sizeBytes 2 = 4 ∧ sizeBytes 3 = 8 ∧ sizeBytes 4 = 16 ∧ sizeBytes 5 = 1 ∧ sizeBytes 6 = 2)
  ∧ (∀ st d a t w q x, AlignsLanes (.ld st d a t w q x) (sizeBytes w) (laneVa t a x (sizeBytes w)))
  ∧ (∀ st d a t w q x, AlignsLanes (.st st d a t w q x) (sizeBytes w) (laneVa t a x (sizeBytes w)))
  ∧ (∀ st d a t w q x, AlignsLanes (.lda st d a t w q x) (sizeBytes w) (laneVa t a x (sizeBytes w)))
  ∧ (∀ st d a t w q x, AlignsLanes (.sta st d a t w q x) (sizeBytes w) (laneVa t a x (sizeBytes w)))
  ∧ (∀ st d a t w q x e o m c k, AlignsLanes (.atom st d a t w q x e o m c k) (sizeBytes w) (laneVa t a x (sizeBytes w)))
  ∧ (∀ st d a t w q x e b m c k, AlignsLanes (.acas st d a t w q x e b m c k) (sizeBytes w) (laneVa t a x (sizeBytes w)))
  ∧ (∀ st d a w x, AlignsLanes (.ldt st d a w x) (sizeBytes w) fun cx => laneOffset cx.g.regs a x (sizeBytes w))
  ∧ (∀ st d a w x, AlignsLanes (.stt st d a w x) (sizeBytes w) fun cx => laneOffset cx.g.regs a x (sizeBytes w))
  ∧ (∀ st d a w x e o m c k, AlignsLanes (.atomt st d a w x e o m c k) (sizeBytes w) fun cx => laneOffset cx.g.regs a x (sizeBytes w))
  ∧ (∀ st d a t w q x, AlignsOnce (.uld st d a t w q x) (sizeBytes w) (uniVa t a x (sizeBytes w)))
  ∧ (∀ st d a t w q x, AlignsOnce (.ust st d a t w q x) (sizeBytes w) (uniVa t a x (sizeBytes w)))
  ∧ (∀ st d a o e c k z, AlignsOnce (.uatom st d a o e c k z) (if z = 1 then 4 else 8) fun cx => (readS cx.g.regs a.toNat).toNat)
  ∧ (∀ st a t w q x s cx, Ready (.prf st a t w q x) s cx → ∃ u, exec (.prf st a t w q x) s = .next u ∧ AccessFrame s u cx)

/-- R246, R247, R298: a fault of the checks is precise; a lane access all of whose lanes miss parks its fragment, and one some
of whose lanes miss performs the others and parks those; a uniform access that misses parks the whole fragment.
R303, R308: an access to team memory beyond the team's own, or in a range that a copy engine holds, faults.
R247: the unfinished lanes stand parked at the instruction's own PC, and the others go on after it; no register of the
group changes.
Which held translation an access uses is free (log 7); a page waits in the units of log 18. -/
def Obligations.AccessChecks : Prop :=
  ((∀ st d a t w q x, AccessStops (.ld st d a t w q x) { acc := .read, n := sizeBytes w, q := q } 4
    fun cx => laneReqs cx a t x (sizeBytes w))
  ∧ (∀ st d a t w q x, AccessStops (.st st d a t w q x) { acc := .write, n := sizeBytes w, q := q } 4
    fun cx => laneReqs cx a t x (sizeBytes w))
  ∧ (∀ st d a t w q x, AccessStops (.lda st d a t w q x) { acc := .read, n := sizeBytes w, scope := some (q.toNat + 1), acq := true } 4
    fun cx => laneReqs cx a t x (sizeBytes w))
  ∧ (∀ st d a t w q x, AccessStops (.sta st d a t w q x) { acc := .write, n := sizeBytes w, scope := some (q.toNat + 1), rel := true } 4
    fun cx => laneReqs cx a t x (sizeBytes w))
  ∧ (∀ st d a t w q x e o m c k, AccessStops (.atom st d a t w q x e o m c k)
    { acc := .atomic, n := sizeBytes w, q := q, scope := some c.toNat, rel := semRel m k, acq := semAcq m k, sc := k = 1 } 8
    fun cx => laneReqs cx a t x (sizeBytes w))
  ∧ (∀ st d a t w q x e b m c k, AccessStops (.acas st d a t w q x e b m c k)
    { acc := .atomic, n := sizeBytes w, q := q, scope := some c.toNat, rel := semRel m k, acq := semAcq m k, sc := k = 1 } 8
    fun cx => laneReqs cx a t x (sizeBytes w)))
  ∧ ((∀ st d a t w q x, UniformStops (.uld st d a t w q x) { acc := .read, n := sizeBytes w, q := q }
    fun cx => uniReq cx a t x (sizeBytes w))
  ∧ (∀ st d a t w q x, UniformStops (.ust st d a t w q x) { acc := .write, n := sizeBytes w, q := q }
    fun cx => uniReq cx a t x (sizeBytes w))
  ∧ (∀ st d a o e c k z, UniformStops (.uatom st d a o e c k z)
    { acc := .atomic, n := uatomBytes z, scope := some (c.toNat + 1), rel := semRel e k, acq := semAcq e k, sc := k = 1 }
    fun cx => { t := { base := readS cx.g.regs a.toNat } }))
  ∧ ((∀ st d a w x, TeamStops (.ldt st d a w x) (sizeBytes w) false fun cx => laneOffset cx.g.regs a x (sizeBytes w))
  ∧ (∀ st d a w x, TeamStops (.stt st d a w x) (sizeBytes w) true fun cx => laneOffset cx.g.regs a x (sizeBytes w))
  ∧ (∀ st d a w x e o m c k, TeamStops (.atomt st d a w x e o m c k) (sizeBytes w) true fun cx =>
    laneOffset cx.g.regs a x (sizeBytes w)))
  ∧ (∀ g i n u token f, g.frags[i]? = some f → f.parked = none → (∀ x ∈ g.frags, x.parked ≠ some token) →
    let h := parkSplit i n u token g
    (u = f.mask → (h.frags.filter fun x => x.parked = some token).map (fun x => (x.mask, x.pc)) = [(f.mask, f.pc)])
    ∧ (u ≠ f.mask → (h.frags.filter fun x => x.parked = some token).map (fun x => (x.mask, x.pc)) = [(u, f.pc)]
      ∧ (f.hold = .none → ∃ x ∈ h.frags, x.parked = none ∧ x.pc = pcAdd f.pc n ∧ (f.mask &&& ~~~u) &&& ~~~x.mask = 0))
    ∧ h.regs = g.regs ∧ h.special = g.special ∧ h.ops = g.ops
    ∧ ∀ x ∈ h.frags, x.parked.isSome = true → x.slot ≥ 2 ∨ (x.hold = .chain ∨ x.hold = .mmap))


namespace Sys2Proof.Machine

/-! ## Shapes of events

An event has no issuer: it is executed when it is due, and where it is not due it leaves the machine as it was. -/

/-- The event, where the condition holds, completes with the effect. -/
def Fires (i : Instr) (cond : State → Prop) (effect : State → State) : Prop := ∀ s, cond s → exec i s = .next (effect s)

/-- The event, where the condition holds, completes with the effect, which touches no memory and no group but k. -/
def FiresIn (i : Instr) (k : Nat) (cond : State → Prop) (effect : State → State) : Prop :=
  ∀ s, cond s → exec i s = .next (effect s) ∧ SameMemory s (effect s)
    ∧ ∀ j, j ≠ k → tblGet? (effect s).groups j = tblGet? s.groups j

/-- The event is not due where the condition holds, and changes nothing. -/
def NotDue (i : Instr) (cond : State → Prop) : Prop := ∀ s, cond s → exec i s = .next s

/-- Every state. -/
def everywhere : State → Prop := fun _ => True

/-- Fragment j of group k. -/
def fragOf (s : State) (k j : Nat) : Frag := nth (grpOf s k).frags j

/-- Fragment j of group k belongs to its group's mode (R323). -/
def ofMode (s : State) (k j : Nat) : Prop := inMode (grpOf s k) (fragOf s k j) = true

/-- Fragment j of group k as it would issue. -/
def cxAt (s : State) (k j : Nat) : Cx := { key := k, ix := j, g := grpOf s k, f := fragOf s k j }

/-- The hold of fragment j of group k ends, where it stands. -/
def released (k j : Nat) (s : State) : State := modGrp s k fun g => wake (modFrag g j fun f => { f with hold := .none })

/-- S[d] receives v and the hold of fragment j ends past its instruction. -/
def answered (k j d v : Nat) (s : State) : State :=
  modGrp s k fun g => wake (modFrag { g with regs := writeS g.regs d (BitVec.ofNat 64 v) } j fun f =>
    { f with hold := .none, pc := pcAdd f.pc 4 })

/-- The context has ended on an island (R317): no group and no team of it stands there, its record says Terminated, and the
other islands are to be told. -/
def EndedOn (s t : State) (i c : Nat) : Prop :=
  (∀ p ∈ t.groups, onPartition i c p.2 = false) ∧ (∀ p ∈ t.teams, ¬(p.2.island = i ∧ p.2.ctx = c))
  ∧ ((tblGet? (islOf s i).ctxs c).isSome = true → (ctxOf t i c).state = .terminated)
  ∧ t.propagate = s.propagate ++ [(c, i, none)]

/-- Byte a of an island is no byte of an engine piece, and none of the table entry whose D bit it sets. -/
def PieceClears (isl a own : Nat) (p : EnginePiece) : Prop :=
  (∀ b, p.phys = some b → (isHost a = true ∨ isl = own) → a < b ∨ b + bytesOf p.bits ≤ a)
  ∧ ∀ e, p.dirtyAt = some e → isl = own → a < e.addr ∨ e.addr + 8 ≤ a

/-- The table entries whose D bits the pieces set hold what was walked, and no piece's bytes lie in one, so that no translation
of a landing begins again (R240). -/
def PiecesWalked (s : State) (i : Nat) (ps : List EnginePiece) : Prop :=
  ∀ p ∈ ps, ∀ e, p.dirtyAt = some e → e.addr % 8 = 0 ∧ StillWalked s i e
    ∧ ∀ q ∈ ps, ∀ b, q.phys = some b → b + bytesOf q.bits ≤ e.addr ∨ e.addr + 8 ≤ b

/-- A host port is up where a piece lies in host memory (R393). -/
def PiecesReached (s : State) (ps : List EnginePiece) : Prop := ∀ p ∈ ps, ∀ a, p.phys = some a → isHost a = true → hostUp s = true

/-- The tiles an operation names on its group's core. -/
def opTiles (s : State) (g : Group) (o : FlightOp) : List Nat :=
  (payloadTiles g.ident.width o.payload).map (tileKey (teamOf s g.ident.team) g.ident.core)

/-- The operation leaves the group's list; its registers are as before. -/
def Retired (s t : State) (k n : Nat) : Prop :=
  (grpOf t k).ops = (grpOf s k).ops.filter (fun x => x.id ≠ n) ∧ (grpOf t k).regs = (grpOf s k).regs

/-- A landing of an engine operation o, number n, in the order of R227: its data has moved, its locks and its own entry are
gone, its barrier has its bytes, its group the status word. One with a piece in host memory waits for a port that is up (R393). -/
def Lands (i n : Nat) (ev : Instr) (own : EngineOp → Prop) : Prop :=
  NotDue ev (fun s => ∃ o, tblGet? (islOf s i).mem.engines n = some o ∧ ¬ PiecesReached s o.pieces)
  ∧ ∀ s o, tblGet? (islOf s i).mem.engines n = some o → own o → PiecesReached s o.pieces → (tblGet? s.teams o.team).isSome = true →
    let b := barOf s o.team o.bar
    let bad := o.kind ≠ .tsto ∧ (landReads s i o.pieces).2 = true
    b.pend - o.count ≤ 2 ^ 39 - 1 → -(2 ^ 39 : Int) ≤ b.pend - o.count → ∃ t, exec ev s = .next t
    ∧ tblGet? (islOf t i).mem.engines n = none ∧ (∀ l ∈ (islOf t i).mem.locks, l.op ≠ n)
    ∧ (barOf t o.team o.bar).eng = b.eng - 1 ∧ (barOf t o.team o.bar).pend = b.pend - o.count
    ∧ (∀ g, tblGet? s.groups o.grp = some g → g.age = o.age →
      (grpOf t o.grp).ops = g.ops.filter (fun x => x.id ≠ n)
      ∧ (o.kind = .acp16 → (grpOf t o.grp).regs = g.regs)
      ∧ (o.kind ≠ .acp16 → bad → (grpOf t o.grp).regs = writeS g.regs o.d 0x800000000000011C)
      ∧ (o.kind ≠ .acp16 → ¬bad → (grpOf t o.grp).regs = writeS g.regs o.d (BitVec.ofNat 64 o.count)))
    ∧ (o.kind ≠ .tsto → ∀ j a, byteAt t j a = byteAt s j a)
    ∧ (o.kind = .tsto → PiecesWalked s i o.pieces → ∀ j a, (∀ p ∈ o.pieces, PieceClears j a i p) → byteAt t j a = byteAt s j a)
    ∧ (o.kind = .tsto → PiecesWalked s i o.pieces → ∀ before p after a j, o.pieces = before ++ p :: after → p.phys = some a → p.bits % 8 = 0 →
      j < p.bits / 8 → (a + p.bits / 8 ≤ hostBase ∨ hostBase ≤ a) → (∀ q ∈ after, PieceClears i (a + j) i q) →
      byteAt t i (a + j) = memGet (teamOf s o.team).mem (p.taddr + j))
    ∧ (∀ tm, (tm ≠ o.team ∨ o.kind = .tsto) → ∀ x, memGet (teamOf t tm).mem x = memGet (teamOf s tm).mem x)
    ∧ (∀ x, ¬ Lost (teamOf s o.team) x → (∀ c ∈ o.clear, x < c.1 ∨ c.1 + c.2 ≤ x) →
      (∀ p ∈ o.pieces, x < p.taddr ∨ p.taddr + bytesOf p.bits ≤ x) →
      memGet (teamOf t o.team).mem x = memGet (teamOf s o.team).mem x)
    ∧ (o.kind ≠ .tsto → ∀ before p after j, o.pieces = before ++ p :: after → p.bits % 8 = 0 → j < p.bits / 8 →
      ¬ Lost (teamOf s o.team) (p.taddr + j) →
      (∀ q ∈ after, p.taddr + j < q.taddr ∨ q.taddr + bytesOf q.bits ≤ p.taddr + j) →
      memGet (teamOf t o.team).mem (p.taddr + j) = match p.phys with
        | some a => if marked s i (a + j) then 0 else byteAt s i (a + j)
        | none => 0)

end Sys2Proof.Machine

/-! ## Events of a core: what ends a hold, what retires (R45 to R49, R148 to R185, R196 to R204, R217 to R236, R300, R310, R387, R409, R410) -/

/-- R45, R148, R196, R198, R199, R217, R233, R310, R322, R387, R409, R410: what ends a fragment's hold, a group's drain or its
wait for its chains, and what the time-outs deliver; an event that is not due changes nothing.
R323: the hold of a fragment that a handler keeps waiting does not end, but for an MFENCE or a BARV, which only its own accesses
keep (R333).
R247: a BARV arrives once no fragment of its group is parked.
When an event is due is the model's order (log 3); how far past its time-out a watchdog is seen is free (log 4). -/
def Obligations.HoldsEnd : Prop :=
  (∀ k, FiresIn (.stallCountExpiry k) k everywhere fun s => modGrp s k fun g => { g with stall := 0 })
  ∧ (∀ k j till, FiresIn (.sleepExpiry k j) k (fun s => (fragOf s k j).hold = .sleep till ∧ ofMode s k j) fun s =>
    modGrp s k fun g => wake (modFrag { g with clk := max g.clk till } j fun f => { f with hold := .none }))
  ∧ (∀ k j, NotDue (.sleepExpiry k j) fun s => (∀ till, (fragOf s k j).hold ≠ .sleep till) ∨ ¬ ofMode s k j)
  ∧ (∀ k j w b, FiresIn (.waitHoldEnd k j) k (fun s => (fragOf s k j).hold = .waitOps w b ∧ waitDone (grpOf s k) w b = true
      ∧ ofMode s k j) (released k j))
  ∧ (∀ k j w b, NotDue (.waitHoldEnd k j) fun s => (fragOf s k j).hold = .waitOps w b
      ∧ (waitDone (grpOf s k) w b = false ∨ ¬ ofMode s k j))
  ∧ (∀ k j w c b, FiresIn (.mfenceHoldEnd k j) k (fun s => (fragOf s k j).hold = .mfence w c b
      ∧ mfenceDone (grpOf s k) w (fragOf s k j).mask b = true) fun s =>
    released k j (synchronise s (cxAt s k j) (w ≠ 1) (w ≠ 2) c.toNat))
  ∧ (∀ k j w c b, NotDue (.mfenceHoldEnd k j) fun s => (fragOf s k j).hold = .mfence w c b
      ∧ mfenceDone (grpOf s k) w (fragOf s k j).mask b = false)
  ∧ (∀ k j b, FiresIn (.rfenceHoldEnd k j) k (fun s => (fragOf s k j).hold = .rfence b ∧ remotesDone (grpOf s k) b = true
      ∧ ofMode s k j ∧ (grpOf s k).held.all (fun h => !h.remote) = true) fun s =>
    modGrp s k fun g => wake (advance 4 j { g with frags := modNth g.frags j fun f => { f with hold := .none } }))
  ∧ (∀ k j b s before h after, (fragOf s k j).hold = .rfence b → remotesDone (grpOf s k) b = true → ofMode s k j →
      (tblGet? s.groups k).isSome = true → (grpOf s k).held = before ++ h :: after → (∀ x ∈ before, x.remote = false) →
      h.remote = true → exec (.rfenceHoldEnd k j) s = .next (deliverReq (setGrp s k { grpOf s k with
          frags := modNth (grpOf s k).frags j fun f => { f with hold := .none } }) k
        { cause := h.cause ||| (1#64 <<< 63), tspc := (fragOf s k j).pc, mask := (fragOf s k j).mask, drop := some h }))
  ∧ (∀ k j b, NotDue (.rfenceHoldEnd k j) fun s => (fragOf s k j).hold = .rfence b
      ∧ (remotesDone (grpOf s k) b = false ∨ ¬ ofMode s k j))
  ∧ (∀ k j w d, FiresIn (.pfenceDrainEnd k j) k (fun s => (fragOf s k j).hold = .pfence w d ∧ ofMode s k j
      ∧ (portOf s (grpOf s k).ident.island w).owed = []) fun s =>
    answered k j d 0 (modPort s (grpOf s k).ident.island w fun p =>
      if p.state = .fenced then { p with drained := true } else p))
  ∧ (∀ k j w d, FiresIn (.pfenceDrainEnd k j) k (fun s => (fragOf s k j).hold = .pfence w d ∧ ofMode s k j
      ∧ (portOf s (grpOf s k).ident.island w).owed ≠ []
      ∧ (portOf s (grpOf s k).ident.island w).fencedAt + 100000 ≤ s.panel.ptime) (answered k j d 2))
  ∧ (∀ k j w d, NotDue (.pfenceDrainEnd k j) fun s => (fragOf s k j).hold = .pfence w d
      ∧ (¬ ofMode s k j ∨ ((portOf s (grpOf s k).ident.island w).owed ≠ []
        ∧ s.panel.ptime < (portOf s (grpOf s k).ident.island w).fencedAt + 100000)))
  ∧ (∀ k j c v e next, let late := fun (s : State) => 1000 * (teamOf s (grpOf s k).ident.team).bartime ≤ (fragOf s k j).waited
    Fires (.waitnTimeout k j) (fun s => (fragOf s k j).hold = .waitn c v e next ∧ ofMode s k j ∧ late s) (fun s =>
      deliver (setGrp (sampleWaits s (grpOf s k).ident.island 3 (grpOf s k).ident.ctx 1) k
        { grpOf s k with frags := modNth (grpOf s k).frags j fun f => { f with hold := .none, waited := 0 } })
        k 0x1A16 (fragOf s k j).pc (fragOf s k j).mask)
    ∧ NotDue (.waitnTimeout k j) fun s => (fragOf s k j).hold = .waitn c v e next ∧ (¬ ofMode s k j ∨ ¬ late s))
  ∧ (∀ k j, let late := fun (s : State) => ∃ t, (fragOf s k j).feedSince = some t
      ∧ t + 1000 * (teamOf s (grpOf s k).ident.team).bartime ≤ s.panel.ptime
    Fires (.feedTimeout k j) (fun s => (fragOf s k j).waiting = true ∧ ofMode s k j ∧ late s) (fun s =>
      deliver s k 0x041B (fragOf s k j).pc (fragOf s k j).mask)
    ∧ NotDue (.feedTimeout k j) fun s => (fragOf s k j).waiting = false ∨ ¬ ofMode s k j ∨ ¬ late s)
  ∧ (∀ k j key n d b, let due := fun (s : State) => (fragOf s k j).hold = .barv key n d b ∧ accessesDone (grpOf s k) b = true
      ∧ ∀ f ∈ (grpOf s k).frags, f.parked = none
    Fires (.barvArrival k j) (fun s => due s ∧ (barOf s (grpOf s k).ident.team key).state ≠ .idle)
      (fun s => barvAct s (cxAt s k j) key n d)
    ∧ Fires (.barvArrival k j) (fun s => due s ∧ (barOf s (grpOf s k).ident.team key).state = .idle) (fun s =>
      takeFault (modGrp s k fun g => { g with frags := modNth g.frags j fun f => { f with hold := .none } }) (cxAt s k j)
        { cls := 0x01, status := 3 })
    ∧ NotDue (.barvArrival k j) fun s => (fragOf s k j).hold = .barv key n d b ∧ ¬ due s)
  ∧ (∀ s cx key n d, (tblGet? s.groups cx.key).isSome = true → (tblGet? s.teams cx.g.ident.team).isSome = true →
    let b := barOf s cx.g.ident.team key
    Counting b → n < b.remain →
    let t := barvAct s cx key n d
    BarIs (barOf t cx.g.ident.team key) { rearm b with remain := b.remain - n }
    ∧ (grpOf t cx.key).regs = writeS (grpOf s cx.key).regs d (b.ph.setWidth 64))
  ∧ (∀ tm key s, timerRuns s tm key (barOf s tm key) = true → 1000 * (teamOf s tm).bartime ≤ (barOf s tm key).timer →
    (tblGet? s.teams tm).isSome = true →
    ∃ t, exec (.barrierTimeout tm key) s = .next t ∧ EndedOn s t (teamOf s tm).island (teamOf s tm).ctx
      ∧ t = barFail s tm key { barOf s tm key with state := .timedOut } 1)
  ∧ (∀ tm key, NotDue (.barrierTimeout tm key) fun s => timerRuns s tm key (barOf s tm key) = false
      ∨ (barOf s tm key).timer < 1000 * (teamOf s tm).bartime)
  ∧ (∀ s tm key b, timerRuns s tm key b = true ↔ b.state = .armed ∨ (b.state = .complete ∧ anyWaiter s tm key = true))
  ∧ (∀ k pc m s, (grpOf s k).draining = some (pc, m) → fenceDone (grpOf s k) s.seq = true → surfaced (grpOf s k) = none →
    ∃ t, exec (.exitDrainEnd k) s = .next t ∧ tblGet? t.groups k = none ∧ ∀ isl a, byteAt t isl a = byteAt s isl a)
  ∧ (∀ k pc m, NotDue (.exitDrainEnd k) fun s => (grpOf s k).draining = some (pc, m) ∧ fenceDone (grpOf s k) s.seq = false)
  ∧ (∀ k r entry s, (grpOf s k).trapReq = some r → (grpOf s k).ident.handlerPc = some entry → entryBlocked (grpOf s k) = false →
    ∃ t, exec (.trapEntry k) s = .next t ∧ SameMemory s t
      ∧ (grpOf t k).special = { (grpOf s k).special with
          tcause := r.cause, tspc := pcWord r.tspc, tstat := gstat (grpOf s k), tmask := r.mask }
      ∧ (grpOf t k).hmode = true ∧ (grpOf t k).hset = r.mask ∧ (grpOf t k).win1 = {} ∧ (grpOf t k).trapReq = none
      ∧ (r.drop = none → (grpOf t k).held = (grpOf s k).held)
      ∧ (grpOf t k).regs = (grpOf s k).regs ∧ ∀ j, j ≠ k → tblGet? t.groups j = tblGet? s.groups j)
  ∧ ∀ k, NotDue (.trapEntry k) fun s => (grpOf s k).trapReq = none ∨ entryBlocked (grpOf s k) = true

/-- R36, R146, R148, R162, R169, R173, R177, R179, R185, R227, R229, R236, R290, R300: what an operation does when it is
complete: its register writes, its tile, its data, its flags; and that it is then gone.
R196: a late write to a lane that has exited is not made.
When an operation is complete is the model's order (log 3); an engine's data move at that step (log 17). -/
def Obligations.OperationsRetire : Prop :=
  (∀ k n s o, opWith (grpOf s k) .load n = some o → ∃ t, exec (.loadReturn k n) s = .next t ∧ SameMemory s t
    ∧ (grpOf t k).regs = applyWrites (grpOf s k).regs (o.writes.filter (keepsWrite (grpOf s k)))
    ∧ (grpOf t k).ops = (grpOf s k).ops.filter (fun x => x.id ≠ o.id)
    ∧ (grpOf t k).special = (grpOf s k).special ∧ ∀ j, j ≠ k → tblGet? t.groups j = tblGet? s.groups j)
  ∧ (∀ k n, NotDue (.loadReturn k n) fun s => opWith (grpOf s k) .load n = none)
  ∧ (∀ (g : Group) (w : RegWrite), keepsWrite g w = true ↔ ∀ r l, w.elem = .v r l ∨ w.elem = .p r l → inMask g.exitedLanes l = false)
  ∧ (∀ k n s o, opWith (grpOf s k) .store n = some o → o.writes = [] → ∃ t, exec (.storePerformed k n) s = .next t
    ∧ SameMemory s t ∧ Retired s t k o.id ∧ ∀ j, j ≠ k → tblGet? t.groups j = tblGet? s.groups j)
  ∧ (∀ k n s o, opWith (grpOf s k) .copy n = some o → o.payload = .none → o.writes = [] →
    ∃ t, exec (.tprefLanding k n) s = .next t ∧ SameMemory s t ∧ Retired s t k o.id)
  ∧ (∀ k n s o tile, (tblGet? s.groups k).isSome = true → opAt (grpOf s k) n = some o → o.payload = .tld tile →
    ∃ t, exec (.tileMoveRetire k n) s = .next t ∧ SameMemory s t
    ∧ (grpOf t k).regs = applyWrites (grpOf s k).regs (o.writes.filter (keepsWrite (grpOf s k)))
    ∧ (grpOf t k).ops = (grpOf s k).ops.filter (fun x => x.id ≠ o.id)
    ∧ ∀ key r c, tileElem (tileOf (teamOf t (grpOf s k).ident.team) key) r c
      = tileElem (tileOf (teamOf s (grpOf s k).ident.team) key) r c)
  ∧ (∀ k n s o tile half rows u key,
    let g := grpOf s k
    let team := teamOf s g.ident.team
    opAt g n = some o → o.payload = .tst tile half rows → (tblGet? s.groups k).isSome = true →
    (tblGet? s.teams g.ident.team).isSome = true →
    earlier s g.ident.team (opTiles s g o) n waitsForAny = false → (opTiles s g o)[u]? = some key →
    ∃ t, exec (.tileMoveRetire k n) s = .next t ∧ SameMemory s t ∧ Retired s t k n
    ∧ ∀ r c, r < 32 → c < 32 → tileElem (tileOf (teamOf t g.ident.team) key) r c =
      match rows.find? fun p => laneRow g.ident.width half p.1 = (u, r) with
      | some p => nth p.2 c
      | none => tileElem (tileOf team key) r c)
  ∧ (∀ k n s o tile fl, opAt (grpOf s k) n = some o → o.payload = .tepi tile fl → (tblGet? s.groups k).isSome = true →
    ∃ t, exec (.tileMoveRetire k n) s = .next t ∧ SameMemory s t ∧ Retired s t k n
    ∧ (grpOf t k).special = raise (grpOf s k).special fl)
  ∧ (∀ k n s o tile half y z rm a b sa sb u key,
    let g := grpOf s k
    let team := teamOf s g.ident.team
    opAt g n = some o → o.payload = .mma tile half y z rm a b sa sb → (tblGet? s.groups k).isSome = true →
    (tblGet? s.teams g.ident.team).isSome = true →
    earlier s g.ident.team (opTiles s g o) n waitsForAny = false → (opTiles s g o)[u]? = some key →
    ∃ t, exec (.mmaRetire k n) s = .next t ∧ SameMemory s t ∧ Retired s t k n
    ∧ (grpOf t k).special = raise g.special (orFlags ((opTiles s g o).zipIdx.map fun p =>
      (mmaTile g.ident.width half y z rm a b sa sb p.2 (tileOf team p.1)).2))
    ∧ ∀ r c, r < 32 → c < 32 → (tileElem (tileOf (teamOf t g.ident.team) key) r c).toNat =
      match mmaRow g.ident.width half u r with
      | some l => (mmaElem y z (rmode rm) a b sa sb (tileOf team key) l (if g.ident.width = 2 then 32 * u + c else c) r c).val
        % 2 ^ 32
      | none => (tileElem (tileOf team key) r c).toNat)
  ∧ (∀ k s m, (grpOf s k).mmap = some m → m.done < mmapBlocks m.word0 → mmapTurn s (grpOf s k) m = true →
    (tblGet? s.groups k).isSome = true → (tblGet? s.teams (grpOf s k).ident.team).isSome = true →
    let g := grpOf s k
    let ks := pairKeys (teamOf s g.ident.team) g.ident.core m.base
    let out := fun (p : Nat × Nat × Nat) => blockResult s g m p.1 p.2.1 p.2.2
      (tileElem (tileOf (teamOf s g.ident.team) (nth ks p.1)) p.2.1 p.2.2).toNat
    ∃ t, exec (.mmapBlockComplete k) s = .next t ∧ SameMemory s t
    ∧ (∀ u r c, u < 32 → r < 32 → c < 32 →
      (tileElem (tileOf (teamOf t g.ident.team) (nth ks u)) r c).toNat = (out (u, r, c)).1 % 2 ^ 32)
    ∧ (∀ key r c, key ∉ ks → tileElem (tileOf (teamOf t g.ident.team) key) r c = tileElem (tileOf (teamOf s g.ident.team) key) r c)
    ∧ (grpOf t k).mmap = some { m with
        done := m.done + 1, flags := m.flags ||| orFlags (pairPlaces.map fun p => (out p).2.1)
        cuts := m.cuts + 12 * (pairPlaces.filter fun p => (out p).2.2).length, rerun := [] }
    ∧ (grpOf t k).regs = (grpOf s k).regs ∧ (grpOf t k).special = (grpOf s k).special)
  ∧ (∀ t core base u, u < 32 → nth (pairKeys t core base) u
      = (coreIx t core + u / 16) * 32 + base + u % 16)
  ∧ (∀ mem (o : MmapOperand) x j e, o.wid = 4 ∨ o.wid = 8 ∨ o.wid = 16 → e < 128 →
    let k := 128 * j + e
    nth (blockElems mem o x j) e
      = memNat mem (o.t.taddr + x * o.t.pitch + k * o.wid / 8) 2 / 2 ^ (k * o.wid % 8) % 2 ^ o.wid
    ∧ blockScaleAt mem o x j = (memGet mem (o.t.scale + o.rows * j + x)).toNat)
  ∧ (∀ k, NotDue (.mmapBlockComplete k) fun s => (grpOf s k).mmap = none)
  ∧ (∀ k s m, (grpOf s k).mmap = some m → mmapBlocks m.word0 ≤ m.done → (tblGet? s.groups k).isSome = true →
    ∃ t, exec (.mmapRetire k) s = .next t ∧ SameMemory s t ∧ (grpOf t k).mmap = none ∧ (grpOf t k).mmapSaved = none
    ∧ (grpOf t k).special = { addCuts (raise (grpOf s k).special m.flags) m.cuts with prog := 0 }
    ∧ (grpOf t k).regs = (grpOf s k).regs ∧ (grpOf t k).ops = (grpOf s k).ops)
  ∧ (∀ k m, NotDue (.mmapRetire k) fun s => (grpOf s k).mmap = some m ∧ m.done < mmapBlocks m.word0)
  ∧ (∀ k n tile m, FiresIn (.arrayResidueMismatch k n tile) k (fun s => (grpOf s k).mmap = some m ∧ m.id = n
      ∧ m.done < mmapBlocks m.word0 ∧ m.rerun.contains tile = false) fun s =>
    modGrp s k fun g => { g with mmap := some { m with rerun := m.rerun ++ [tile] } })
  ∧ (∀ k n tile m s, (grpOf s k).mmap = some m → m.id = n → m.done < mmapBlocks m.word0 → m.rerun.contains tile = true →
    ∃ t, exec (.arrayResidueMismatch k n tile) s = .next (blame t k (mmapFrag (grpOf s k)) 0x021C) ∧ SameMemory s t
      ∧ (grpOf t k).mmap = none
      ∧ (grpOf t k).special = { raise (grpOf s k).special m.flags with prog := BitVec.ofNat 64 (2 ^ 63 + m.done) })
  ∧ (∀ k j c, FiresIn (.digitResidueMismatch k j) k (fun s => (fragOf s k j).hold = .chain
      ∧ chainOf (grpOf s k) (fragOf s k j) = some c ∧ c.rerun = false) fun s =>
    setGrp s k { grpOf s k with chains := (grpOf s k).chains.map fun x => if x.id = c.id then { x with rerun := true } else x })
  ∧ (∀ k j c, Fires (.digitResidueMismatch k j) (fun s => (fragOf s k j).hold = .chain
      ∧ chainOf (grpOf s k) (fragOf s k j) = some c ∧ c.rerun = true) fun s =>
    blame (setGrp s k (wake { grpOf s k with
      chains := (grpOf s k).chains.filter fun x => x.id ≠ c.id
      frags := modNth (grpOf s k).frags j fun f => { f with hold := .none } })) k j 0x021C)
  ∧ (∀ s k j cause, let g := grpOf s k
    ((g.hmode = true ∨ g.trapReq = none) → blame s k j cause = deliver s k cause (fragOf s k j).pc (fragOf s k j).mask)
    ∧ (g.hmode = false → g.trapReq ≠ none → blame s k j cause = setGrp s k (modFrag g j fun f => { f with due := some cause })))
  ∧ (∀ i n, Lands i n (.engineLanding i n) fun o => o.kind ≠ .acp16)
  ∧ (∀ i n, Lands i n (.acp16Landing i n) fun o => o.kind = .acp16)
  ∧ (∀ k w e rest, FiresIn (.specialFunctionEntryTaken k w) k (fun s =>
      (if w = 0 then (grpOf s k).win0 else (grpOf s k).win1).q0 = e :: rest
      ∧ q1Load (if w = 0 then (grpOf s k).win0 else (grpOf s k).win1) < 8) fun s =>
    modGrp s k fun g => wake (modWin w (fun x => { x with q0 := rest, taken := x.taken ++ [e] }) g))
  ∧ (∀ k w e rest, FiresIn (.specialFunctionResult k w) k (fun s =>
      (if w = 0 then (grpOf s k).win0 else (grpOf s k).win1).taken = e :: rest) fun s =>
    modGrp s k fun g => wake (modWin w (fun x => { x with taken := rest, q1 := x.q1 ++ [specialEntry e] }) g))
  ∧ (∀ e l, l < 64 → inMask e.mask l = true → packed e.fmt = false →
    ((specialEntry e).vals.getD l 0).toNat
      = (specialRnd (specialFn e.fn.toNat) (efmt e.fmt) (rmode e.rm)
          (dec (efmt e.fmt) (e.vals.getD l 0).toNat)).1 % 2 ^ 64)
  ∧ (∀ k reg lane sub s, reg < 128 → lane < 64 → (tblGet? s.groups k).isSome = true →
    ∃ t, exec (.registerPoison k 0 reg lane sub) s = .next t ∧ SameMemory s t
    ∧ (grpOf t k).regs.v = (grpOf s k).regs.v
    ∧ (sub = 0 → inMask (tblGet (grpOf t k).regs.badV reg).lo lane = true)
    ∧ (sub ≠ 0 → inMask (tblGet (grpOf t k).regs.badV reg).hi lane = true))
  ∧ (∀ k reg lane s, reg < 7 → lane < 64 → (tblGet? s.groups k).isSome = true →
    ∃ t, exec (.registerPoison k 2 reg lane 0) s = .next t ∧ SameMemory s t ∧ (grpOf t k).regs.p = (grpOf s k).regs.p
    ∧ (∀ r l, inMask (tblGet (grpOf t k).regs.badP r) l = true ↔ (r = reg ∧ l = lane) ∨ inMask (tblGet (grpOf s k).regs.badP r) l = true))
  ∧ (∀ k reg s, reg < 7 → (tblGet? s.groups k).isSome = true →
    ∃ t, exec (.registerPoison k 3 reg 0 0) s = .next t ∧ SameMemory s t ∧ (grpOf t k).regs.c = (grpOf s k).regs.c
    ∧ ∀ r, (grpOf t k).regs.badC.getLsbD r = true ↔ r = reg ∨ (grpOf s k).regs.badC.getLsbD r = true)
  ∧ (∀ k reg s, reg < 63 → (tblGet? s.groups k).isSome = true →
    ∃ t, exec (.registerPoison k 1 reg 0 0) s = .next t ∧ SameMemory s t ∧ (grpOf t k).regs.s = (grpOf s k).regs.s
    ∧ (grpOf t k).regs.badS.getLsbD reg = true)

namespace Sys2Proof.Machine

/-- CTXST names a command's context and STATUS, and the interrupt of the command before is over (R318, R319; log 37). -/
def told (s : State) (i c st : Nat) : State := modIsl s i fun y => { y with ctxCtx := c, ctxStatus := st, busyFell := false }

/-- A command that a context's state admits may run: no other is in progress. -/
def open' (s : State) (i c : Nat) : Prop := (islOf s i).ctxBusy = false ∧ c < 65535

/-- The state a context is in on an island. -/
def stateOf (s : State) (i c : Nat) : CtxState := (ctxOf s i c).state

/-- Its keys name its groups. -/
def KeysDistinct (s : State) : Prop := ∀ p ∈ s.groups, grpOf s p.1 = p.2

/-- The image is back on its cores (R338, R339): the context runs where the image holds a group, and each group of the image
stands on the core of QMASK that its place names, with the registers, special registers and modes its save area holds. -/
def BackOnCores (s t : State) (i c : Nat) : Prop :=
  stateOf t i c = (if imageGroups s i c = [] then .resident else .running)
  ∧ (((imageGroups s i c).map (·.1)).Nodup → ∀ p ∈ imageGroups s i c,
    (grpOf t p.1).regs = p.2.regs ∧ (grpOf t p.1).special = p.2.special ∧ (grpOf t p.1).hmode = p.2.hmode
    ∧ (grpOf t p.1).ident.core = p.2.ident.core ∧ (grpOf t p.1).ident.ctx = c ∧ (grpOf t p.1).allot = p.2.allot)

/-- A group of an image has the registers, special registers and mode of its save area, and the core of QMASK that its place
names (R336, R339). -/
def FromArea (s : State) (i c : Nat) (p : Nat × Nat × Memory) : Prop :=
  let x := ctxOf s i c
  let g := (groupBack s i c x p).2
  let saved := loadGroup p.2.2 (groupArea x.saveBase p.1 p.2.1) (placeBack i c x p.1 p.2.1)
  g.regs = saved.regs ∧ g.special = saved.special ∧ g.hmode = saved.hmode ∧ g.allot = saved.allot
  ∧ g.ident.core = nth (coresOf x.qmask) p.1 ∧ g.ident.slot = p.2.1

/-- The context has entered Faulted on an island for a reason, and the other islands are to be told (R331). -/
def FaultedOn (s t : State) (i c : Nat) (why : FaultedBy) : Prop :=
  stateOf t i c = .faulted ∧ (ctxOf t i c).faultedBy = why ∧ (ctxOf t i c).captured = false
  ∧ t.propagate = s.propagate ++ [(c, i, some why)]

/-- A partition stands on its cores or is being halted. -/
def Standing (s : State) (i c : Nat) : Prop := stateOf s i c = .resident ∨ stateOf s i c = .running ∨ stateOf s i c = .halting

end Sys2Proof.Machine

/-! ## Contexts (R202 to R204, R316 to R319, R331 to R341, R348 to R352) -/

/-- R316, R318, R319, R332 to R334, R338, R339: the commands of CTXCTL: each waits while BUSY is 1, answers STATUS 0x01 in a state
that does not admit it, and else takes its context to the state of R319; and what ends a halt and a restore.
The readings of the commands are log 37, the save image log 26, the timing of HALT_COMPLETE log 25. -/
def Obligations.ContextCommandResults : Prop :=
  (∀ i c s, (islOf s i).ctxBusy = true → ∀ e, e = .place i c ∨ e = .halt i c ∨ e = .save i c ∨ e = .resume i c ∨ e = .restore i c
      ∨ e = .terminate i c ∨ e = .release i c ∨ e = .unplace i c → exec e s = .next s)
  ∧ (∀ i c, Fires (.place i c) (fun s => open' s i c ∧ stateOf s i c ≠ .built ∧ stateOf s i c ≠ .terminated) fun s => told s i c 1)
  ∧ (∀ i c, Fires (.halt i c) (fun s => open' s i c ∧ stateOf s i c ≠ .resident ∧ stateOf s i c ≠ .running) fun s => told s i c 1)
  ∧ (∀ i c, Fires (.save i c) (fun s => open' s i c ∧ stateOf s i c ≠ .parked) fun s => told s i c 1)
  ∧ (∀ i c, Fires (.resume i c) (fun s => open' s i c ∧ stateOf s i c ≠ .parked) fun s => told s i c 1)
  ∧ (∀ i c, Fires (.restore i c) (fun s => open' s i c ∧ stateOf s i c ≠ .saved) fun s => told s i c 1)
  ∧ (∀ i c, Fires (.terminate i c) (fun s => open' s i c ∧ (stateOf s i c = .built ∨ stateOf s i c = .terminated)) fun s =>
    told s i c 1)
  ∧ (∀ i c, Fires (.release i c) (fun s => open' s i c ∧ stateOf s i c ≠ .faulted) fun s => told s i c 1)
  ∧ (∀ i c, Fires (.unplace i c) (fun s => open' s i c ∧ stateOf s i c ≠ .resident) fun s => told s i c 1)
  ∧ (∀ i c s, open' s i c → (stateOf s i c = .built ∨ stateOf s i c = .terminated) → descBad s i c = false →
    BitVec.ofNat 64 (descWord s i c 0x68) &&& quadsHeld s i c = 0 → ∃ t, exec (.place i c) s = .next t ∧ SameMemory s t
    ∧ stateOf t i c = .resident ∧ (ctxOf t i c).qmask = BitVec.ofNat 64 (descWord s i c 0x68)
    ∧ (ctxOf t i c).priv = bit (descWord s i c 0x60) 1 ∧ (ctxOf t i c).saveBase = descWord s i c 0x70
    ∧ (islOf t i).ctxCtx = c ∧ (islOf t i).ctxStatus = 0 ∧ t.groups = s.groups)
  ∧ (∀ i c, Fires (.place i c) (fun s => open' s i c ∧ (stateOf s i c = .built ∨ stateOf s i c = .terminated)
      ∧ descBad s i c = true) fun s => told s i c 4)
  ∧ (∀ i c, Fires (.place i c) (fun s => open' s i c ∧ (stateOf s i c = .built ∨ stateOf s i c = .terminated)
      ∧ descBad s i c = false ∧ BitVec.ofNat 64 (descWord s i c 0x68) &&& quadsHeld s i c ≠ 0) fun s => told s i c 2)
  ∧ (∀ i c, Fires (.halt i c) (fun s => open' s i c ∧ (stateOf s i c = .resident ∨ stateOf s i c = .running)) fun s =>
    told (modIsl (modCtx s i c fun x => { x with state := .halting }) i fun y => { y with ctxBusy := true }) i c 0)
  ∧ (∀ i c s, stateOf s i c = .halting → KeysDistinct s → haltReady s i c = true → ∃ t, exec (.haltComplete i c) s = .next t
    ∧ t = capture s i c ∧ (ctxOf t i c).captured = true ∧ (∀ p ∈ t.groups, onPartition i c p.2 = false)
    ∧ (∀ p ∈ t.teams, ¬(p.2.island = i ∧ p.2.ctx = c))
    ∧ (stateOf t i c = .parked ∨ stateOf t i c = .saved)
    ∧ ((islOf s i).ctxCtx = c → (islOf t i).ctxBusy = false))
  ∧ (∀ i c, NotDue (.haltComplete i c) fun s => stateOf s i c ≠ .halting ∧ stateOf s i c ≠ .faulted)
  ∧ (∀ i c, Fires (.save i c) (fun s => open' s i c ∧ stateOf s i c = .parked) fun s =>
    told (modCtx s i c fun x => { x with state := .saved }) i c 0)
  ∧ (∀ i c, Fires (.resume i c) (fun s => open' s i c ∧ stateOf s i c = .parked) fun s => told (putBack s i c) i c 0)
  ∧ (∀ i c s, stateOf s i c = .parked → (ctxOf s i c).released = [] → BackOnCores s (putBack s i c) i c)
  ∧ (∀ i c s p, FromArea s i c p)
  ∧ (∀ i c, Fires (.restore i c) (fun s => open' s i c ∧ stateOf s i c = .saved ∧ restoreStatus s i c = 0) fun s =>
    told (modIsl (modCtx s i c fun x => { copyDescriptor s i c x with restoring := true }) i fun y =>
      { y with ctxBusy := true }) i c 0)
  ∧ (∀ i c, Fires (.restore i c) (fun s => open' s i c ∧ stateOf s i c = .saved ∧ restoreStatus s i c ≠ 0) fun s =>
    told s i c (restoreStatus s i c))
  ∧ (∀ i c s, (ctxOf s i c).restoring = true → (ctxOf s i c).released = [] → (islOf s i).ctxCtx = c →
    ∃ t, exec (.restoreComplete i c) s = .next t ∧ BackOnCores s t i c ∧ (ctxOf t i c).restoring = false
      ∧ (islOf t i).ctxBusy = false)
  ∧ (∀ i c, NotDue (.restoreComplete i c) fun s => (ctxOf s i c).restoring = false)
  ∧ (∀ i c s, open' s i c → stateOf s i c ≠ .built → stateOf s i c ≠ .terminated →
    ∃ t, exec (.terminate i c) s = .next t ∧ EndedOn s t i c ∧ (islOf t i).ctxCtx = c ∧ (islOf t i).ctxStatus = 0)
  ∧ (∀ i c, let may := fun (s : State) => open' s i c ∧ stateOf s i c = .faulted ∧ (ctxOf s i c).captured = true
      ∧ ((ctxOf s i c).faultedBy = .freeze ∨ (ctxOf s i c).faultedBy = .heartbeat)
    let taken := fun (s : State) => (ctxOf s i c).unseated = true ∧ (ctxOf s i c).qmask &&& quadsHeld s i c ≠ 0
    Fires (.release i c) (fun s => may s ∧ ¬ taken s) (fun s => told (putBack s i c) i c 0)
    ∧ Fires (.release i c) (fun s => may s ∧ taken s) fun s => told s i c 2)
  ∧ (∀ i c s, stateOf s i c = .faulted → (ctxOf s i c).released = [] → BackOnCores s (putBack s i c) i c)
  ∧ (∀ i c, NotDue (.release i c) fun s => stateOf s i c = .faulted ∧ (ctxOf s i c).captured = false)
  ∧ (∀ i c, Fires (.release i c) (fun s => open' s i c ∧ stateOf s i c = .faulted ∧ (ctxOf s i c).captured = true
      ∧ (ctxOf s i c).faultedBy ≠ .freeze ∧ (ctxOf s i c).faultedBy ≠ .heartbeat) fun s => told s i c 1)
  ∧ ∀ i c s, open' s i c → stateOf s i c = .resident → ∃ t, exec (.unplace i c) s = .next t ∧ SameMemory s t
    ∧ stateOf t i c = .built ∧ (islOf t i).ctxCtx = c ∧ (islOf t i).ctxStatus = 0 ∧ t.groups = s.groups

/-- R43, R202 to R204, R317, R318, R331, R340, R341, R348, R352, R423: teams start, claims are served, beats are counted, and a
partition's faults and endings reach its island and every other.
What propagates, and the claim that is oldest, are the readings of logs 37 and 30. -/
def Obligations.PartitionEventResults : Prop :=
  (∀ i core k n, FiresIn (.rgrowClaimServed i core) k (fun s => oldestClaim s i core = some (k, n) ∧ n ≤ poolBytes s i core
      ∧ (grpOf s k).state = .spilled ∧ claimFrag (grpOf s k) = none) fun s =>
    let g := grpOf s k
    let u := areaTraffic s g.ident (areaOf s g + 0x18000) (4 * lanesIn g * g.allot)
    setGrp u k (wake { g with
      state := .active, ready := s.tick
      regs := loadV (islOf u g.ident.island).mem.bytes (areaOf u g) (lanesIn g) g.allot g.regs }))
  ∧ (∀ i core k n j m, FiresIn (.rgrowClaimServed i core) k (fun s => oldestClaim s i core = some (k, n) ∧ n ≤ poolBytes s i core
      ∧ (grpOf s k).state ≠ .spilled ∧ claimFrag (grpOf s k) = some (j, m)) fun s =>
    setGrp s k (wake { growTo m j (grpOf s k) with ready := s.tick }))
  ∧ (∀ i core, NotDue (.rgrowClaimServed i core) fun s => ∀ k n, oldestClaim s i core = some (k, n) → poolBytes s i core < n)
  ∧ (∀ i core s k g, claimsStuck s i core = true → spillVictim s i core = some (k, g) → spillReady g = true →
    ∃ t, exec (.claimDeadlock i core) s = .next t
      ∧ (servable (spillGroup s k g) i core = none → (grpOf t k).state = .spilled)
      ∧ ∀ j, servable (spillGroup s k g) i core = some j → t = serveClaim (spillGroup s k g) j)
  ∧ (∀ i core k n, Fires (.claimDeadlock i core) (fun s => claimsStuck s i core = true ∧ spillVictim s i core = none
      ∧ oldestClaim s i core = some (k, n)) fun s => serveClaim s k)
  ∧ (∀ i core, NotDue (.claimDeadlock i core) fun s => claimsStuck s i core = false)
  ∧ (∀ s k g, Present s g.ident.island → g.allot ≤ 128 → ∀ r l, r < g.allot → l < lanesIn g →
    readV (loadV (islOf (spillGroup s k g) g.ident.island).mem.bytes (areaOf s g) (lanesIn g) g.allot g.regs) r l
      = readV g.regs r l)
  ∧ (∀ i core s, ∃ t, exec (.progressBeat i core) s = .next t ∧ SameMemory s t ∧ t.groups = s.groups
    ∧ (Present s i → (tblGet (islOf t i).cores core).moved = coreBeats s i core
      ∧ (tblGet (islOf t i).cores core).missed
        = if (tblGet (islOf s i).cores core).moved = true ∨ coreBeats s i core = true then 0
          else (tblGet (islOf s i).cores core).missed + 1))
  ∧ (∀ i core s p rest, coreGroups s i core = p :: rest → 2 ≤ (tblGet (islOf s i).cores core).missed →
    Standing s i p.2.ident.ctx → ∃ t, exec (.heartbeat i core) s = .next t ∧ FaultedOn s t i p.2.ident.ctx .heartbeat
      ∧ (∀ k, (grpOf t k).regs = (grpOf s k).regs)
      ∧ (KeysDistinct s → (∀ k, (grpOf s k).ident.island ≠ i → grpOf t k = grpOf s k)
        ∧ ∀ q ∈ coreGroups s i core, (grpOf t q.1).chains = [] ∧ (grpOf t q.1).mmap = none))
  ∧ (∀ i core, NotDue (.heartbeat i core) fun s => coreGroups s i core = [] ∨ (tblGet (islOf s i).cores core).missed < 2)
  ∧ (∀ i v, Fires (.beatpWrite i v) (fun _ => 10 ≤ v.toNat % 2 ^ 14 ∧ v.toNat % 2 ^ 14 ≤ 10000) fun s =>
    modIsl s i fun x => { x with beatp := v.toNat % 2 ^ 14 })
  ∧ (∀ i v, Fires (.beatpWrite i v) (fun _ => v.toNat % 2 ^ 14 < 10 ∨ 10000 < v.toNat % 2 ^ 14) fun s =>
    modIsl s i fun x => { x with beatp := 100 })
  ∧ (∀ i c s gk g cores, (stateOf s i c = .resident ∨ stateOf s i c = .running) → nextTeam s i c = some (gk, g, cores) →
    (ctxOf s i c).bwb = 0 → (ctxOf s i c).pwb = 0 → 0 < g.groups → ∃ t, exec (.teamPlacement i c) s = .next t
    ∧ (∀ isl a, byteAt t isl a = byteAt s isl a) ∧ (∀ tm, tm ≠ s.seq → tblGet? t.teams tm = tblGet? s.teams tm)
    ∧ stateOf t i c = .running
    ∧ (let m := teamOf t s.seq
       m.island = i ∧ m.ctx = c ∧ m.grid = gk ∧ m.cores = cores ∧ m.tmem = g.tmem ∧ m.ntiles = g.tiles ∧ m.nbars = g.bars
       ∧ m.mem = [] ∧ m.bars = [] ∧ m.tiles = [] ∧ m.groups.length = g.groups)
    ∧ (∃ p ∈ t.groups, p.2.ident.team = s.seq ∧ p.2.ident.groupId + 1 = g.groups)
    ∧ ∀ p ∈ t.groups, p ∈ s.groups ∨ (p.2.ident.team = s.seq ∧ p.2.ident.island = i ∧ p.2.ident.ctx = c
      ∧ p.2.ident.teamId = BitVec.ofNat 32 g.next ∧ p.2.ident.groupId < g.groups
      ∧ p.2.ident.core = nth cores (p.2.ident.groupId % g.k) ∧ p.1 = groupKey i p.2.ident.core p.2.ident.slot
      ∧ p.2.allot = g.rbase ∧ p.2.special = {} ∧ p.2.hmode = false ∧ p.2.ops = [] ∧ p.2.held = []
      ∧ p.2.frags = [{ mask := fullMask (widthLanes g.width), pc := g.entry, slot := 0 }]
      ∧ p.2.regs = { s := g.args.zipIdx.map fun a => (a.2, a.1), t := [(0, g.t0)] }))
  ∧ (∀ i c, NotDue (.teamPlacement i c) fun s => stateOf s i c ≠ .resident ∧ stateOf s i c ≠ .running)
  ∧ (∀ i c, NotDue (.teamPlacement i c) fun s => nextTeam s i c = none)
  ∧ (∀ s c i why rest, s.propagate = (c, i, why) :: rest → ∃ t, exec .contextStatePropagate s = .next t ∧ t.propagate = rest
    ∧ SameMemory { s with teams := t.teams } t
    ∧ ∀ j, j ≠ i → (tblGet? (islOf s j).ctxs c).isSome = true →
      (∀ w, why = some w → Standing s j c ∨ stateOf s j c = .parked ∨ stateOf s j c = .saved →
        stateOf t j c = .faulted ∧ (ctxOf t j c).faultedBy = w
        ∧ ((ctxOf t j c).captured = true ↔ stateOf s j c = .parked ∨ stateOf s j c = .saved)
        ∧ ((ctxOf t j c).unseated = true ↔ stateOf s j c = .saved ∧ (ctxOf s j c).restoring = false))
      ∧ (∀ w, why = some w → stateOf s j c = .faulted → stateOf t j c = .faulted
        ∧ (ctxOf t j c).captured = (ctxOf s j c).captured
        ∧ (ctxOf t j c).faultedBy = if w = .freeze ∨ w = .heartbeat then (ctxOf s j c).faultedBy else w)
      ∧ (why = none → stateOf t j c = (if stateOf s j c = .built then .built else .terminated)))
  ∧ NotDue .contextStatePropagate (fun s => s.propagate = [])
  ∧ (∀ i agent mk home c core slot pc mask s, mk < 3 → (ctxOf s home c).frozen = false →
    Standing s home c ∨ stateOf s home c = .parked ∨ stateOf s home c = .saved →
    ∃ t, exec (.protectionRefusal i agent mk home c core slot pc mask) s = .next t
      ∧ stateOf t home c = .faulted ∧ (ctxOf t home c).faultedBy = .freeze ∧ (ctxOf t home c).frozen = true
      ∧ ((ctxOf t home c).captured = true ↔ stateOf s home c = .parked ∨ stateOf s home c = .saved)
      ∧ t.propagate = s.propagate ++ [(c, home, some .freeze)] ∧ t.groups = s.groups)
  ∧ (∀ i agent mk home c core slot pc mask, Fires (.protectionRefusal i agent mk home c core slot pc mask)
      (fun s => mk < 3 ∧ (ctxOf s home c).frozen = true ∧ stateOf s home c ≠ .built ∧ stateOf s home c ≠ .terminated)
      fun s => countRefusal s (if agent = 2 ∧ tblGet? s.islands i = none then 0 else i))
  ∧ (∀ i agent mk home c core slot pc mask s, 3 ≤ mk → s.panel.frozen.contains core = false →
    ∃ t, exec (.protectionRefusal i agent mk home c core slot pc mask) s = .next t
      ∧ t.panel = { s.panel with frozen := s.panel.frozen ++ [core] } ∧ t.groups = s.groups ∧ t.teams = s.teams)
  ∧ ∀ i agent mk home c core slot pc mask s, 3 ≤ mk → s.panel.frozen.contains core = true →
    ∃ t, exec (.protectionRefusal i agent mk home c core slot pc mask) s = .next t
      ∧ t.panel = { s.panel with refused := s.panel.refused + 1 } ∧ SameMemory s t ∧ t.groups = s.groups

/-! ## Events of an island's memory (R249 to R251, R262 to R268, R288 to R294, R311, R337, R393, R418, R419) -/

/-- R249, R250, R251, R268, R288, R291, R294, R311, R331, R337, R393, R418: the fault ring takes a waiting record, FRPLAY does
to a park what its action says, banks and sectors fail, and the host's accesses over its ports.
The readings of the processor's accesses are log 42. -/
def Obligations.MemoryEventResults : Prop :=
  (∀ i s, ((islOf s i).mem.frqWait = [] ∨ 4095 ≤ frqCount (islOf s i).mem) → ∃ t, exec (.faultRecordEnqueue i) s = .next t
    ∧ islOf t i = islOf s i ∧ SameMemory s t ∧ t.groups = s.groups)
  ∧ (∀ i s ws, (islOf s i).mem.frqWait = [ws] → frqCount (islOf s i).mem < 4095 →
    let m := (islOf s i).mem
    let a := m.frqBase + 128 * m.frqTail
    a + 128 ≤ hostBase → ∃ t, exec (.faultRecordEnqueue i) s = .next t
    ∧ (islOf t i).mem.frqWait = [] ∧ (islOf t i).mem.frqTail = (m.frqTail + 1) % 4096 ∧ (islOf t i).mem.frqHead = m.frqHead
    ∧ (∀ j, j < 128 → byteAt t i (a + j) = (recordBytes ws).getD j 0)
    ∧ (∀ isl b, (isl ≠ i ∨ b < a ∨ a + 128 ≤ b) → byteAt t isl b = byteAt s isl b) ∧ t.groups = s.groups ∧ t.teams = s.teams)
  ∧ (∀ i n, NotDue (.frplayReplay i n) fun s => tblGet? (islOf s i).mem.parks n = none)
  ∧ (∀ i n, NotDue (.frplayHandler i n) fun s => tblGet? (islOf s i).mem.parks n = none)
  ∧ (∀ i n, NotDue (.frplayTerminate i n) fun s => tblGet? (islOf s i).mem.parks n = none)
  ∧ (∀ i n, NotDue (.frplayNone i n) everywhere)
  ∧ (∀ i n s p j, tblGet? (islOf s i).mem.parks n = some p → offCores (stateOf s i p.ctx) = false →
    parkedAt (grpOf s p.grp) n = some j → ∃ t, exec (.frplayReplay i n) s = .next t ∧ SameMemory s t
    ∧ tblGet? (islOf t i).mem.parks n = none
    ∧ grpOf t p.grp = wake (modFrag (grpOf s p.grp) j fun f => { f with parked := none })
    ∧ ∀ k, k ≠ p.grp → tblGet? t.groups k = tblGet? s.groups k)
  ∧ (∀ i n s p j, tblGet? (islOf s i).mem.parks n = some p → offCores (stateOf s i p.ctx) = false →
    parkedAt (grpOf s p.grp) n = some j →
    let g := modFrag (grpOf s p.grp) j fun f => { f with parked := none }
    let f := nth (grpOf s p.grp).frags j
    let s' := modMem s i fun m => { m with parks := tblDel m.parks n }
    let cause := BitVec.ofNat 64 (n % 2 ^ 31 * 2 ^ 32 + (p.record.getD 0 0).toNat / 2 ^ 8 % 2 ^ 8 * 2 ^ 8 + 0x10)
    exec (.frplayHandler i n) s = .next
      (if (grpOf s p.grp).trapReq.isSome = true ∧ (grpOf s p.grp).hmode = false then
        setGrp s' p.grp (modFrag g j fun f => { f with due := some cause })
      else deliver (setGrp s' p.grp g) p.grp cause f.pc f.mask))
  ∧ (∀ i n s p, tblGet? (islOf s i).mem.parks n = some p → offCores (stateOf s i p.ctx) = false →
    ∃ t, exec (.frplayTerminate i n) s = .next t ∧ EndedOn s t i p.ctx)
  ∧ (∀ i n p, Fires (.frplayTerminate i n) (fun s => tblGet? (islOf s i).mem.parks n = some p
      ∧ offCores (stateOf s i p.ctx) = true) fun s =>
    modCtx s i p.ctx fun x => { x with released := (x.released.filter fun r => r.1 ≠ n) ++ [(n, 2)] })
  ∧ (∀ i n p, Fires (.frplayReplay i n) (fun s => tblGet? (islOf s i).mem.parks n = some p
      ∧ offCores (stateOf s i p.ctx) = true) fun s =>
    modCtx s i p.ctx fun x => { x with released := (x.released.filter fun r => r.1 ≠ n) ++ [(n, 0)] })
  ∧ (∀ i n p, Fires (.frplayHandler i n) (fun s => tblGet? (islOf s i).mem.parks n = some p
      ∧ offCores (stateOf s i p.ctx) = true) fun s =>
    modCtx s i p.ctx fun x => { x with released := (x.released.filter fun r => r.1 ≠ n) ++ [(n, 1)] })
  ∧ (∀ i b lost s, Present s i → failsBank s i b lost = false → ∃ t, exec (.bankFailure i b lost) s = .next t
    ∧ (islOf t i).mem.failed = (islOf s i).mem.failed ∧ (∀ k ∈ lost, isHost (64 * k) = false → marked t i (64 * k) = true)
    ∧ (islOf t i).mem.bankErrors = (islOf s i).mem.bankErrors
      ++ (if lost = [] then [(b, none, s.panel.ptime)] else lost.map fun k => (b, some k, s.panel.ptime))
    ∧ t.groups = s.groups ∧ t.teams = s.teams ∧ t.panel = s.panel)
  ∧ (∀ i b lost s, Present s i → failsBank s i b lost = true → (islOf s i).mem.failed.contains b = false →
    ∃ t, exec (.bankFailure i b lost) s = .next t ∧ (islOf t i).mem.failed = (islOf s i).mem.failed ++ [b]
    ∧ (∀ p ∈ (islOf t i).mem.sectors, p.2.bank ≠ b)
    ∧ (∀ p ∈ (islOf s i).mem.sectors, p.2.bank = b → p.2.dirty = true → p.1 ∈ lost → isHost (64 * p.1) = false →
      marked t i (64 * p.1) = true)
    ∧ (∀ c ∈ parkedOn s i b, stateOf t i c = (if lost = [] then .saved else .faulted))
    ∧ ((islOf s i).site, physicalBank (islOf s i) b) ∈ t.panel.store.banks
    ∧ ((bankHolder (islOf s i).mem b).isNone = true → SameMemory s t) ∧ ∀ tm, teamOf t tm = teamOf s tm)
  ∧ (∀ i sec s j, Present s i → j < 4 → isHost (64 * sec + 16 * j) = false →
    ∃ t, exec (.hbmUncorrectableError i sec) s = .next t ∧ marked t i (64 * sec + 16 * j) = true
    ∧ (tblGet? (islOf s i).mem.sectors sec = none → SameMemory s t)
    ∧ ∀ x, tblGet? (islOf s i).mem.sectors sec = some x → x.vc ≠ 0 → (vcOf (islOf t i).mem x.vc).psn = true)
  ∧ (∀ i slice sec cores s, Present s i → cores.length ≥ 2 → (∀ c ∈ cores, c < 256) → cores.Nodup →
    (cores.map fun c => l1Of (pooledCore s i c) c).Nodup →
    let rank := rankFrom (tblGet (islOf s i).mem.ptr slice)
    ∃ t, exec (.homeOwnershipRequest i slice sec cores) s = .next t ∧ SameMemory s t ∧ t.groups = s.groups
    ∧ (∀ c ∈ cores, (∀ d ∈ cores, rank d ≤ rank c) →
      (tblGet (islOf t i).mem.home sec).ownl = some (l1Of (pooledCore s i c) c))
    ∧ ∀ c ∈ cores, (∀ d ∈ cores, rank c ≤ rank d) → tblGet (islOf t i).mem.ptr slice = (c + 1) % 256)
  ∧ (∀ ptr core, core < 256 → rankFrom ptr core < 256 ∧ (ptr + rankFrom ptr core) % 256 = core)
  ∧ (∀ port off w, NotDue (.hostCxlMemAccess port off w) fun s => 4 ≤ port ∨ s.panel.down.contains port = true
      ∨ hostReaches s (off / 2 ^ 39) = false)
  ∧ (∀ port off, NotDue (.hostCxlMemAccess port off none) fun s => s.panel.frozen.contains port = false)
  ∧ (∀ port off w s, port < 4 → s.panel.down.contains port = false → hostReaches s (off / 2 ^ 39) = true →
    s.panel.frozen.contains port = true → ∃ t, exec (.hostCxlMemAccess port off w) s = .next t ∧ SameMemory s t ∧ t.groups = s.groups
      ∧ t.panel = { s.panel with refused := s.panel.refused + 1 })
  ∧ (∀ port off bs s,
    let i := off / 2 ^ 39
    let a := off % 2 ^ 39
    port < 4 → s.panel.down.contains port = false → s.panel.frozen.contains port = false → hostReaches s i = true →
    s.panel.phase = 7 → a < hbmEnd → a + bs.length ≤ hbmEnd → Present s i →
    ∃ t, exec (.hostCxlMemAccess port off (some bs)) s = .next t
    ∧ (∀ j, j < bs.length → byteAt t i (a + j) = bs.getD j 0)
    ∧ (∀ isl b, (isl ≠ i ∨ b < a ∨ a + bs.length ≤ b) → byteAt t isl b = byteAt s isl b)
    ∧ (∀ q, a ≤ 16 * q → 16 * q + 16 ≤ a + bs.length → marked t i (16 * q) = false)
    ∧ t.groups = s.groups ∧ t.teams = s.teams)
  ∧ (∀ i sec s h, tblGet? (islOf s i).mem.home sec = some h → Present s i →
    ∃ t, exec (.hostCxlCacheSnoop i sec none) s = .next t ∧ SameMemory s t ∧ t.groups = s.groups
    ∧ tblGet (islOf t i).mem.home sec = { h with cxl := if h.cxl = .invalid then .invalid else .shared, ownl := none })
  ∧ (∀ i sec o bs s h, tblGet? (islOf s i).mem.home sec = some h → Present s i → o + bs.length ≤ 64 → o < 64 →
    isHost (64 * sec + o) = true → physOk (64 * sec + o) bs.length = true →
    ∃ t, exec (.hostCxlCacheSnoop i sec (some (o, bs))) s = .next t ∧ t.groups = s.groups ∧ t.teams = s.teams
    ∧ tblGet (islOf t i).mem.home sec = { h with cxl := .invalid, shr := [], si := [], ownl := none }
    ∧ (∀ isl j, j < bs.length → byteAt t isl (64 * sec + o + j) = bs.getD j 0)
    ∧ ∀ isl a, a < 64 * sec + o ∨ 64 * sec + o + bs.length ≤ a → byteAt t isl a = byteAt s isl a)
  ∧ (∀ i sec owned s, Present s i → ∃ t, exec (.hostBackInvalidation i sec owned) s = .next t ∧ SameMemory s t
    ∧ t.groups = s.groups ∧ (tblGet (islOf t i).mem.home sec).ownl = none
    ∧ (tblGet (islOf t i).mem.home sec).hst = if owned = true then .owned else .shared)

/-- R262, R265, R266: a VC under change: VC 0 has drained what it claims, a line is swept, the resize ends, the drain begins and
ends; out of its state each event does nothing.
Whether a line moves or is dropped is free (log 8); the readings are logs 22 and 43. -/
def Obligations.CacheEventResults : Prop :=
  (∀ i v s, (vcOf (islOf s i).mem v).state = .defined → ∃ t, exec (.vcClaimDrained i v) s = .next t
    ∧ (vcOf (islOf t i).mem v).state = .active ∧ (vcOf (islOf t i).mem v).claim = []
    ∧ (∀ p ∈ (islOf t i).mem.sectors, p.2.vc = 0 → (vcOf (islOf s i).mem v).claim.contains p.2.bank = false)
    ∧ ∀ tm, teamOf t tm = teamOf s tm)
  ∧ (∀ i v s, (vcOf (islOf s i).mem v).state = .resizing → (vcOf (islOf s i).mem v).claim ≠ [] →
    ∃ t, exec (.vcClaimDrained i v) s = .next t ∧ SameMemory s t
    ∧ (vcOf (islOf t i).mem v).state = .resizing ∧ (vcOf (islOf t i).mem v).claim = [])
  ∧ (∀ i v, NotDue (.vcClaimDrained i v) fun s => (vcOf (islOf s i).mem v).state ≠ .defined
      ∧ ((vcOf (islOf s i).mem v).state ≠ .resizing ∨ (vcOf (islOf s i).mem v).claim = []))
  ∧ (∀ i v s l, (vcOf (islOf s i).mem v).state = .resizing → (vcOf (islOf s i).mem v).claim = [] →
    oldLine (islOf s i).mem v = some l → ∃ t, exec (.vcSweepLine i v) s = .next t ∧ SameMemory s t ∧ t.groups = s.groups
    ∧ (vcOf (islOf t i).mem v).state = .resizing
    ∧ (vcOf (islOf t i).mem v).mvs + (vcOf (islOf t i).mem v).swb
      = (vcOf (islOf s i).mem v).mvs + (vcOf (islOf s i).mem v).swb + 1)
  ∧ (∀ i v, NotDue (.vcSweepLine i v) fun s => (vcOf (islOf s i).mem v).state ≠ .resizing
      ∨ (vcOf (islOf s i).mem v).claim ≠ [] ∨ oldLine (islOf s i).mem v = none)
  ∧ (∀ i v s, (vcOf (islOf s i).mem v).state = .resizing → (vcOf (islOf s i).mem v).claim = [] →
    oldLine (islOf s i).mem v = none → ∃ t, exec (.vcResizeEnd i v) s = .next t
    ∧ (vcOf (islOf t i).mem v).state = (if (vcOf (islOf s i).mem v).deckle ≠ [] ∨ (vcOf (islOf s i).mem v).hadShare = false
        then .active else .failed)
    ∧ (vcOf (islOf t i).mem v).deckle = (vcOf (islOf s i).mem v).deckle ∧ (vcOf (islOf t i).mem v).oldMap = []
    ∧ ∀ tm, teamOf t tm = teamOf s tm)
  ∧ (∀ i v, NotDue (.vcResizeEnd i v) fun s => (vcOf (islOf s i).mem v).state ≠ .resizing
      ∨ (vcOf (islOf s i).mem v).claim ≠ [] ∨ oldLine (islOf s i).mem v ≠ none)
  ∧ (∀ i v s, (vcOf (islOf s i).mem v).state = .draining → (vcOf (islOf s i).mem v).draining = false →
    vcQuiet s i v (vcOf (islOf s i).mem v).before = true → ∃ t, exec (.vcDrainStart i v) s = .next t ∧ SameMemory s t
    ∧ (vcOf (islOf t i).mem v).state = .draining ∧ (vcOf (islOf t i).mem v).draining = true)
  ∧ (∀ i v, NotDue (.vcDrainStart i v) fun s => (vcOf (islOf s i).mem v).state ≠ .draining
      ∨ (vcOf (islOf s i).mem v).draining = true ∨ vcQuiet s i v (vcOf (islOf s i).mem v).before = false)
  ∧ (∀ i v s, (vcOf (islOf s i).mem v).state = .draining → (vcOf (islOf s i).mem v).draining = true →
    ∃ t, exec (.vcDrainEnd i v) s = .next t ∧ (vcOf (islOf t i).mem v).state = .retired
    ∧ (vcOf (islOf t i).mem v).deckle = [] ∧ (∀ p ∈ (islOf t i).mem.sectors, p.2.vc ≠ v) ∧ ∀ tm, teamOf t tm = teamOf s tm)
  ∧ ∀ i v, NotDue (.vcDrainEnd i v) fun s => (vcOf (islOf s i).mem v).state ≠ .draining
      ∨ (vcOf (islOf s i).mem v).draining = false

namespace Sys2Proof.Machine

/-- The next packet of a live queue, of the type and with the words, is the one the processor serves. -/
def NextIs (s : State) (n ty : Nat) (ws : List Nat) : Prop :=
  chooseQueue s = some n ∧ mayFail (queueOf s n) = true ∧ packetType ws = ty ∧ ∃ ds, (queueOf s n).next = some ds ∧ ds.map BitVec.toNat = ws

/-- The packet has started (R358): HEAD stands past it, and the queue holds the packets after it. -/
def QStarted (s t : State) (n : Nat) : Prop :=
  (queueOf t n).head = (queueOf s n).head + 1 ∧ (queueOf t n).next = none ∧ (queueOf t n).tail = (queueOf s n).tail
  ∧ (queueOf t n).state = if (queueOf s n).head + 1 = (queueOf s n).tail then .enabled else .running

/-- The packet is refused: its queue is in Error, with the status and the packet's index (R358). -/
def QFailed (s t : State) (n status : Nat) : Prop :=
  (queueOf t n).state = .error ∧ (queueOf t n).status = status ∧ (queueOf t n).failIdx = (queueOf s n).head
  ∧ (queueOf t n).failPacket = true ∧ (queueOf t n).next = none ∧ (queueOf t n).head = (queueOf s n).head

/-- A packet fails after its start: its queue is in Error, with the status and the packet's index, and HEAD stands past it
(R358). -/
def QEnded (s t : State) (n status : Nat) : Prop :=
  (queueOf t n).state = .error ∧ (queueOf t n).status = status ∧ (queueOf t n).failIdx = (queueOf s n).head
  ∧ (queueOf t n).failPacket = true ∧ (queueOf t n).next = none ∧ (queueOf t n).head = (queueOf s n).head + 1

/-- A packet that names a counter in its first word adds 1 to it when it completes (R361). -/
def Counted (s t : State) (ws : List Nat) : Prop :=
  let h := nth ws 0
  h / 2 ^ 8 % 2 = 1 → Present s (h / 2 ^ 32 % 2 ^ 6) →
    ctrOf t (h / 2 ^ 32 % 2 ^ 6) (h / 2 ^ 16 % 2 ^ 16) = ctrOf s (h / 2 ^ 32 % 2 ^ 6) (h / 2 ^ 16 % 2 ^ 16) + 1

/-- Nothing but the panel has changed. -/
def PanelOnly (s t : State) : Prop := t = { s with panel := t.panel }

/-- Nothing but the panel has changed, where a packet has had its number. -/
def PacketOnly (s t : State) : Prop := t = { s with panel := t.panel, seq := s.seq + 1 }

/-- A packet of the queue has started with the words, and its accesses wait or are over. -/
def started (s : State) (n : Nat) (ws : List Nat) (todo : Bool) : QueuePacket :=
  { queue := n, index := (queueOf s n).head, words := ws.map (BitVec.ofNat 64), ctx := qCtx (queueOf s n)
    time := s.panel.ptime, todo := todo }

end Sys2Proof.Machine

/-! ## Command queues (R355 to R371) -/

/-- R356, R357: the commands of QCTL and QTAIL writes, in the states that admit them; in the others, and while the host
ports do not show the panel's registers (R20), they do nothing. The readings are log 36. -/
def Obligations.QueueCommandResults : Prop :=
  (∀ s, registersExposed s = true ↔ s.panel.phase ≠ 0 ∧ ¬(s.panel.phase = 0xFF ∧ s.panel.error = 1))
  ∧ (∀ n b c, Fires (.create n b c) (fun s => n < 1024 ∧ (queueOf s n).state = .none ∧ registersExposed s = true
      ∧ descriptorBad s b.toNat c = false) fun s => modQueue s n fun _ => { state := .created, base := b.toNat, cfg := c })
  ∧ (∀ n b c, Fires (.create n b c) (fun s => n < 1024 ∧ (queueOf s n).state = .none ∧ registersExposed s = true
      ∧ descriptorBad s b.toNat c = true) fun s => modQueue s n fun _ => { state := .error, status := 1, base := b.toNat, cfg := c })
  ∧ (∀ n b c, NotDue (.create n b c) fun s => 1024 ≤ n ∨ (queueOf s n).state ≠ .none ∨ registersExposed s = false)
  ∧ (∀ n, Fires (.enable n) (fun s => ((queueOf s n).state = .created ∨ (queueOf s n).state = .disabled)
      ∧ registersExposed s = true) fun s => modQueue s n fun q => { q with state := if q.head = q.tail then .enabled else .running })
  ∧ (∀ n, NotDue (.enable n) fun s => (queueOf s n).state ≠ .created ∧ (queueOf s n).state ≠ .disabled
      ∨ registersExposed s = false)
  ∧ (∀ n s, ((queueOf s n).state = .enabled ∨ (queueOf s n).state = .running ∨ (queueOf s n).state = .blocked) →
    registersExposed s = true → ∃ t, exec (.drain n) s = .next t ∧ PanelOnly s t
      ∧ (queueOf t n).state = (if startedOf s n = [] then .disabled else .draining)
      ∧ (queueOf t n).next = none ∧ (queueOf t n).head = (queueOf s n).head ∧ tblGet? t.panel.waits n = none)
  ∧ (∀ n, NotDue (.drain n) fun s => (queueOf s n).state ≠ .enabled ∧ (queueOf s n).state ≠ .running
      ∧ (queueOf s n).state ≠ .blocked ∨ registersExposed s = false)
  ∧ (∀ n, Fires (.reset n) (fun s => (queueOf s n).state = .error ∧ registersExposed s = true) fun s => modQueue s n fun q =>
      { q with head := if q.failPacket = true then q.failIdx + 1 else q.tail, status := 0, failPacket := false, state := .disabled })
  ∧ (∀ n, NotDue (.reset n) fun s => (queueOf s n).state ≠ .error ∨ registersExposed s = false)
  ∧ (∀ n s, ((queueOf s n).state = .created ∨ (queueOf s n).state = .disabled) → registersExposed s = true →
    ∃ t, exec (.destroy n) s = .next t ∧ PanelOnly s t
      ∧ tblGet? t.panel.queues n = some { base := (queueOf s n).base, cfg := (queueOf s n).cfg }
      ∧ ∀ p ∈ t.panel.started, n < 1024 → p.2.queue ≠ n)
  ∧ (∀ n, NotDue (.destroy n) fun s => (queueOf s n).state ≠ .created ∧ (queueOf s n).state ≠ .disabled
      ∨ registersExposed s = false)
  ∧ (∀ n v, NotDue (.qtailWrite n v) fun s => (queueOf s n).state = .none ∨ qDev (queueOf s n) = true
      ∨ registersExposed s = false ∨ tailOk (queueOf s n) v = false ∧ mayFail (queueOf s n) = false)
  ∧ (∀ n v s, (queueOf s n).state ≠ .none → qDev (queueOf s n) = false → registersExposed s = true →
    tailOk (queueOf s n) v = true → ∃ t, exec (.qtailWrite n v) s = .next t ∧ PanelOnly s t ∧ (queueOf t n).tail = v
      ∧ (queueOf t n).head = (queueOf s n).head
      ∧ (queueOf t n).state = if (queueOf s n).state = .enabled ∨ (queueOf s n).state = .running then
          (if (queueOf s n).head = v then .enabled else .running) else (queueOf s n).state)
  ∧ (∀ n v s, mayFail (queueOf s n) = true → qDev (queueOf s n) = false → registersExposed s = true →
    tailOk (queueOf s n) v = false → ∃ t, exec (.qtailWrite n v) s = .next t ∧ PanelOnly s t ∧ (queueOf t n).state = .error ∧ (queueOf t n).status = 2
      ∧ (queueOf t n).failPacket = false)

/-- R358 to R368, R353: a packet is read and checked, and each type does its work once it is the one served: it starts, its
effect is performed, and a packet that names a counter adds 1 to it when it completes; a refusal puts its queue in Error.
A packet is performed whole when it is served, or when its accesses no longer wait (log 34); the readings are logs 36 and 42. -/
def Obligations.PacketResults : Prop :=
  (∀ s, chooseQueue s = none → exec .queuePacketRead s = .next s)
  ∧ (∀ s n ds, chooseQueue s = some n → (queueOf s n).next = none → readSlot s (queueOf s n) = some ds →
    acceptStatus s (queueOf s n) (ds.map BitVec.toNat) = 0 → ∃ t, exec .queuePacketRead s = .next t ∧ PanelOnly s t
    ∧ (queueOf t n).next = some ds ∧ (queueOf t n).since = s.panel.ptime ∧ (queueOf t n).head = (queueOf s n).head
    ∧ (packetType (ds.map BitVec.toNat) ≠ 1 → packetType (ds.map BitVec.toNat) ≠ 2 → packetType (ds.map BitVec.toNat) ≠ 6 →
      (queueOf t n).state = .running)
    ∧ (packetType (ds.map BitVec.toNat) = 1 → (queueOf t n).state =
      if launchStarts s n (ds.map BitVec.toNat) = true then .running else .blocked)
    ∧ (packetType (ds.map BitVec.toNat) = 6 → (queueOf t n).state = if startedOf s n = [] then .running else .blocked)
    ∧ (packetType (ds.map BitVec.toNat) = 2 → tblGet? t.panel.waits n = some (watch s (ds.map BitVec.toNat))
      ∧ (queueOf t n).state = if (watch s (ds.map BitVec.toNat)).met = true then .running else .blocked))
  ∧ (∀ s n, chooseQueue s = some n → mayFail (queueOf s n) = true → (queueOf s n).next = none →
    readSlot s (queueOf s n) = none →
    ∃ t, exec .queuePacketRead s = .next t ∧ PanelOnly s t ∧ QFailed s t n 3)
  ∧ (∀ s n ds, chooseQueue s = some n → mayFail (queueOf s n) = true → (queueOf s n).next = none →
    readSlot s (queueOf s n) = some ds → acceptStatus s (queueOf s n) (ds.map BitVec.toNat) ≠ 0 → ∃ t, exec .queuePacketRead s = .next t ∧ PanelOnly s t
      ∧ QFailed s t n (acceptStatus s (queueOf s n) (ds.map BitVec.toNat)))
  ∧ (∀ s n ws, NextIs s n 2 ws → ∃ t, exec (.waitPacket n) s = .next t ∧ QStarted s t n ∧ SameMemory s t ∧ Counted s t ws
    ∧ tblGet? t.panel.waits n = none ∧ tblGet? t.panel.started s.seq = none)
  ∧ (∀ s n ds, (queueOf s n).next = some ds → packetType (ds.map BitVec.toNat) = 2 → (queueOf s n).state = .blocked →
    s.panel.checking = false → (nth ds 2).toNat / 2 ^ 32 ≠ 0 → (tblGet s.panel.waits n).met = false →
    (queueOf s n).since + 1000 * ((nth ds 2).toNat / 2 ^ 32) ≤ s.panel.ptime →
    ∃ t, exec (.waitPacketTimeout n) s = .next t ∧ PanelOnly s t ∧ QFailed s t n 5)
  ∧ (∀ n, NotDue (.waitPacketTimeout n) fun s => (queueOf s n).next = none ∨ (queueOf s n).state ≠ .blocked)
  ∧ (∀ s n ws,
    let i := nth ws 1 / 2 ^ 16 % 2 ^ 6
    let k := nth ws 1 % 2 ^ 16
    NextIs s n 3 ws → Present s i → ∃ t, exec (.signal n) s = .next t ∧ QStarted s t n ∧ SameMemory s t
    ∧ ctrOf t i k = ctrOf s i k + BitVec.ofNat 64 (nth ws 2)
    ∧ ∀ j m, m < 65536 → (j ≠ i ∨ m ≠ k) → ctrOf t j m = ctrOf s j m)
  ∧ (∀ s n ws, NextIs s n 6 ws → ∃ t, exec (.order n) s = .next t ∧ QStarted s t n ∧ SameMemory s t ∧ Counted s t ws
    ∧ tblGet? t.panel.started s.seq = none)
  ∧ (∀ s n ws,
    let c := qCtx (queueOf s n)
    let r := sideRead (beginPacket s n ws []).1 c (bit (nth ws 4) 0) (nth ws 1) (nth ws 3)
    NextIs s n 4 ws →
    (r.2 = .refused → ∃ t, exec (.copy n) s = .next t ∧ QEnded s t n 7 ∧ SameMemory r.1 t ∧ tblGet? t.panel.started s.seq = none)
    ∧ (r.2 = .waits → ∃ t, exec (.copy n) s = .next t ∧ QStarted s t n ∧ SameMemory r.1 t
      ∧ tblGet? t.panel.started s.seq = some (started s n ws true))
    ∧ ∀ bs, r.2 = .ok bs →
      let x := sideWrite r.1 c (bit (nth ws 4) 1) (nth ws 2) bs
      (x.2 = .refused → ∃ t, exec (.copy n) s = .next t ∧ QEnded s t n 7 ∧ SameMemory x.1 t)
      ∧ (x.2 = .waits → ∃ t, exec (.copy n) s = .next t ∧ QStarted s t n ∧ SameMemory x.1 t
        ∧ tblGet? t.panel.started s.seq = some (started s n ws true))
      ∧ (x.2 = .done → ∃ t, exec (.copy n) s = .next t ∧ QStarted s t n ∧ SameMemory x.1 t
        ∧ tblGet? t.panel.started s.seq = some (started s n ws false)))
  ∧ (∀ s n key p s1 bs s2,
    let w := fun (j : Nat) => (nth p.words j).toNat
    chooseQueue s ≠ some n → waitingOf s n 4 = some (key, p) → tblGet? s.panel.started key = some p →
    sideRead s p.ctx (bit (w 4) 0) (w 1) (w 3) = (s1, .ok bs) → sideWrite s1 p.ctx (bit (w 4) 1) (w 2) bs = (s2, .done) →
    ∃ t, exec (.copy n) s = .next t ∧ SameMemory s2 t ∧ tblGet? t.panel.started key = some { p with todo := false })
  ∧ (∀ n, NotDue (.copy n) fun s => chooseQueue s ≠ some n ∧ waitingOf s n 4 = none)
  ∧ (∀ s c a n, hostUp s = true → a + n ≤ 2 ^ 51 → (∀ j, j < n → marked s 0 (hostBase + a + j) = false) →
    sideRead s c false a n = (s, .ok (memBytes s.hostMem (hostBase + a) n)))
  ∧ (∀ s c a bs, hostUp s = true → a + bs.length ≤ 2 ^ 51 → ∃ t, sideWrite s c false a bs = (t, .done)
    ∧ (∀ isl j, j < bs.length → byteAt t isl (hostBase + a + j) = bs.getD j 0)
    ∧ ∀ isl b, (b < hostBase + a ∨ hostBase + a + bs.length ≤ b) → byteAt t isl b = byteAt s isl b)
  ∧ (∀ s n ws m, NextIs s n 7 ws → nth ws 3 % 2 = 0 → tblGet? s.panel.monitors (nth ws 1) = some m →
    ∃ t, exec (.stamp n) s = .next t ∧ QStarted s t n ∧ SameMemory s t
    ∧ tblGet? t.panel.monitors (nth ws 1) = some (if m.src = 0x40 then enterSample m (s.panel.ptime % 2 ^ 32) else m))
  ∧ (∀ s n ws,
    let x := sideWrite (beginPacket (enterStamp s (nth ws 1)) n ws []).1 (qCtx (queueOf s n)) (bit (nth ws 3) 1) (nth ws 2)
      (leBytes s.panel.ptime 8)
    NextIs s n 7 ws → nth ws 3 % 2 = 1 →
    (x.2 = .refused → ∃ t, exec (.stamp n) s = .next t ∧ QEnded s t n 7 ∧ SameMemory x.1 t
      ∧ t.panel.monitors = (enterStamp s (nth ws 1)).panel.monitors)
    ∧ (x.2 = .waits → ∃ t, exec (.stamp n) s = .next t ∧ QStarted s t n ∧ SameMemory x.1 t
      ∧ tblGet? t.panel.started s.seq = some (started s n ws true))
    ∧ (x.2 = .done → ∃ t, exec (.stamp n) s = .next t ∧ QStarted s t n ∧ SameMemory x.1 t
      ∧ tblGet? t.panel.started s.seq = some (started s n ws false)))
  ∧ (∀ s n key p s1,
    let w := fun (j : Nat) => (nth p.words j).toNat
    chooseQueue s ≠ some n → waitingOf s n 7 = some (key, p) → tblGet? s.panel.started key = some p → bit (w 3) 0 = true →
    sideWrite s p.ctx (bit (w 3) 1) (w 2) (leBytes p.time 8) = (s1, .done) →
    ∃ t, exec (.stamp n) s = .next t ∧ SameMemory s1 t ∧ tblGet? t.panel.started key = some { p with todo := false })
  ∧ (∀ s n ws,
    let i := nth ws 1 % 2 ^ 6
    let op : VcOp := match nth ws 1 / 2 ^ 8 % 4 with | 0 => .define | 1 => .resize | _ => .retire
    let r := applyVc (beginPacket s n ws []).1 i op (nth ws 2)
    NextIs s n 5 ws →
    (qPriv (queueOf s n) = false → ∃ t, exec (.vcdefPacket n) s = .next t ∧ QEnded s t n 8 ∧ PacketOnly s t)
    ∧ (qPriv (queueOf s n) = true → vcObjFault s i (qCtx (queueOf s n)) op (nth ws 2) ≠ none →
      ∃ t, exec (.vcdefPacket n) s = .next t ∧ QEnded s t n 0x26 ∧ PacketOnly s t)
    ∧ (qPriv (queueOf s n) = true → vcObjFault s i (qCtx (queueOf s n)) op (nth ws 2) = none → r.1 ≠ 0 →
      ∃ t, exec (.vcdefPacket n) s = .next t ∧ QEnded s t n (0x20 + r.1) ∧ PacketOnly s t)
    ∧ (qPriv (queueOf s n) = true → vcObjFault s i (qCtx (queueOf s n)) op (nth ws 2) = none → r.1 = 0 →
      ∃ t, exec (.vcdefPacket n) s = .next t ∧ QStarted s t n ∧ SameMemory r.2 t ∧ Counted r.2 t ws))
  ∧ (∀ s n ws, NextIs s n 1 ws → launchIslands (nth ws 2) = [] →
    ∃ t, exec (.launch n) s = .next t ∧ QFailed s t n 6 ∧ PanelOnly s t)
  ∧ (∀ s n ws args s1 hs w s2,
    let c := qCtx (queueOf s n)
    NextIs s n 1 ws → launchIslands (nth ws 2) ≠ [] →
    (∀ i ∈ launchIslands (nth ws 2), i < s.panel.ncount ∧ stateOf s i c ≠ .built ∧ stateOf s i c ≠ .terminated) →
    nth ws 4 + nth ws 6 ≤ 2 ^ 57 → argBytes s (queueOf s n) (nth ws 5) (nth ws 6) = some args →
    launchHeaders c (nth ws 1) s (launchIslands (nth ws 2)) = (s1, some hs, w) →
    checkAllPages c (nth ws 4) (nth ws 6) s1 hs = (s2, .done) →
    let s3 := hs.foldl (fun s h => (cpWrite s h.1 c (nth ws 4) args).1) s2
    let refused := hs.find? fun h => decide (headerStatus s3 h.1 c h.2 ≠ 0)
    ∃ t, exec (.launch n) s = .next t ∧ SameMemory s3 t
    ∧ (refused = none → QStarted s t n ∧ (tblGet? t.panel.started s3.seq).isSome = true)
    ∧ (∀ h, refused = some h → QEnded s t n (0x10 + headerStatus s3 h.1 c h.2) ∧ (queueOf t n).fisl = h.1
      ∧ tblGet? t.panel.started s3.seq = none)
    ∧ ∀ k h, hs[k]? = some h → ∃ g, tblGet? t.panel.grids (s3.seq + 1 + k) = some g
      ∧ g.state = (if headerStatus s3 h.1 c h.2 = 0 then .dispatching else .failed)
      ∧ g.island = h.1 ∧ g.ctx = c ∧ g.packet = s3.seq ∧ g.order = s3.seq ∧ g.next = 0 ∧ g.live = 0
      ∧ g.nteam = nth ws 3 % 2 ^ 32 ∧ g.kern.toNat = nth ws 3 / 2 ^ 32 % 2 ^ 32
      ∧ g.entry = pcAdd (BitVec.ofNat 57 (nth ws 1)) (hdrWord h.2 8 % 2 ^ 32)
      ∧ g.args = (List.range 8).map fun j => BitVec.ofNat 64 (leNat ((args.drop (8 * j)).take 8)))
  ∧ (∀ pkt, NotDue (.packetComplete pkt) fun s => tblGet? s.panel.started pkt = none)
  ∧ (∀ pkt p, NotDue (.packetComplete pkt) fun s => tblGet? s.panel.started pkt = some p ∧ packetAborted s p = false
      ∧ packetDone s p = false)
  ∧ (∀ pkt s p, tblGet? s.panel.started pkt = some p → packetAborted s p = false → packetDone s p = true →
    ∃ t, exec (.packetComplete pkt) s = .next t ∧ SameMemory s t ∧ tblGet? t.panel.started pkt = none
    ∧ Counted s t (p.words.map BitVec.toNat))
  ∧ (∀ pkt s p, tblGet? s.panel.started pkt = some p → packetAborted s p = true → mayFail (queueOf s p.queue) = true →
    ∃ t, exec (.packetComplete pkt) s = .next t ∧ SameMemory s t ∧ tblGet? t.panel.started pkt = none
    ∧ (queueOf t p.queue).state = .error ∧ (queueOf t p.queue).status = 9 ∧ (queueOf t p.queue).failIdx = p.index)

namespace Sys2Proof.Machine

/-- The port is Up, with SEQ and ACK at 0 and nothing buffered (R374, R376). -/
def UpAt (t : State) (i p : Nat) : Prop :=
  let x := portOf t i p
  x.state = .up ∧ x.seq = 0 ∧ x.ack = 0 ∧ x.buffer = [] ∧ x.placing = [] ∧ x.owed = [] ∧ x.relock = false

/-- The port has failed, or with a third failure within one second is quarantined, and its buffered packets are gone (R374,
R378). -/
def PortDown (s t : State) (i p : Nat) : Prop :=
  (portOf t i p).buffer = [] ∧ (portOf t i p).placing = []
  ∧ (portOf t i p).state = if 2 ≤ ((portOf s i p).failures.filter fun f => s.panel.ptime < f + 1000000000).length
      then .quarantined else .failed

/-- Both ends of a link have failed; an end that was Dark, Failed or Quarantined stays as it was. -/
def LinkDown (s t : State) (i p : Nat) : Prop :=
  PortDown s t i p ∧ ∀ j q, (portOf s i p).peer = some (j, q) → (j, q) ≠ (i, p) → Present s j →
    if liveLink (portOf s j q) = true then PortDown s t j q
    else (portOf t j q).state = (portOf s j q).state ∧ (portOf t j q).buffer = (portOf s j q).buffer

/-- Groups, teams and memory are as before. -/
def CoresSame (s t : State) : Prop := SameMemory s t ∧ t.groups = s.groups ∧ t.teams = s.teams

/-- An ACK frees the flits up to the one it names, and as many of the flits that wait take their places as find room (R376). -/
def Freed (x y : Port) (ack : Nat) : Prop :=
  ∀ before e after, x.buffer = before ++ e :: after → (∀ b ∈ before, b.seq ≠ ack) → e.seq = ack →
    ∃ more, y.buffer = after ++ more ∧ more.length = min x.placing.length (256 - after.length)

/-- A sequenced flit of the kind, accepted at a port of a mesh or express link: the next SEQ is expected, and the packet whose
last flit it is stands in the island's router (R375, R376). -/
def Accepts (ev : Nat → Nat → List Byte → Option RemotePacket → Instr) (kind : Nat) : Prop :=
  ∀ i p f pkt s j q, Present s i → receives (portOf s i p) = true → (portOf s i p).edge = false → flitOk kind f = true →
    flitKs f = 0 → flitSeq f = ((portOf s i p).ack + 1) % 1024 → (portOf s i p).peer = some (j, q) → (j, q) ≠ (i, p) →
    ∃ t, exec (ev i p f pkt) s = .next t ∧ CoresSame s t ∧ (portOf t i p).ack = ((portOf s i p).ack + 1) % 1024
    ∧ (portOf t i p).naks = (portOf s i p).naks ∧ Freed (portOf s i p) (portOf t i p) (flitAck f)
    ∧ ∀ e, (portOf s j q).buffer.find? (fun e => e.seq = ((portOf s i p).ack + 1) % 1024) = some e →
      t.panel.routed = s.panel.routed ++ if e.last = true then (e.pkt.map fun k => (i, k)).toList else []

/-- A sequenced flit of the kind on an edge link: with a good tag it is accepted and counted under its slot, its packet
entering from another panel; a first bad tag discards it, and a second one of the same SEQ fails the link (R390). -/
def AcceptsSealed (ev : Nat → Nat → List Byte → Option RemotePacket → Instr) (kind : Nat) : Prop :=
  ∀ i p f pkt s k, let x := portOf s i p
    let r := slotAt (flitKs f) x
    Present s i → receives x = true → x.edge = true → x.peer = none → flitOk kind f = true →
    flitSeq f = (x.ack + 1) % 1024 → r.rx = some k →
    (Config.tagOk k.key k.salt r.rxc f = true → ∃ t, exec (ev i p f pkt) s = .next t ∧ CoresSame s t
      ∧ (portOf t i p).ack = (x.ack + 1) % 1024 ∧ Freed x (portOf t i p) (flitAck f)
      ∧ (slotAt (flitKs f) (portOf t i p)).rxc = r.rxc + 1
      ∧ t.panel.routed = s.panel.routed ++ (pkt.map fun k => (i, { k with edge := true })).toList)
    ∧ (Config.tagOk k.key k.salt r.rxc f = false → x.tagFail ≠ some ((x.ack + 1) % 1024) →
      ∃ t, exec (ev i p f pkt) s = .next t ∧ CoresSame s t ∧ (portOf t i p).ack = x.ack
      ∧ (portOf t i p).tagFail = some ((x.ack + 1) % 1024) ∧ t.panel = s.panel)
    ∧ (Config.tagOk k.key k.salt r.rxc f = false → x.tagFail = some ((x.ack + 1) % 1024) →
      ∃ t, exec (ev i p f pkt) s = .next t ∧ LinkDown s t i p)

/-- A flit that fails a check is dropped: a NAK is due that names the SEQ accepted last, one for each such flit, and the next SEQ
expected is as before (R376, R377); that of an edge link leaves the panel at once. -/
def Drops (ev : Nat → Nat → List Byte → Option RemotePacket → Instr) (kind : Nat) : Prop :=
  ∀ i p f pkt s, Present s i → receives (portOf s i p) = true → checkFlit (portOf s i p) kind f = .discarded →
    ∃ t, exec (ev i p f pkt) s = .next t ∧ CoresSame s t ∧ (portOf t i p).ack = (portOf s i p).ack
    ∧ (portOf t i p).naks = (portOf s i p).naks ++ (if (portOf s i p).edge = true then [] else [(portOf s i p).ack])
    ∧ t.panel = s.panel

/-- A port that was Up, and not relocking, is retraining from now; a Fenced one goes on retraining under its fence (R374,
R377). -/
def Retrains (s t : State) (i p : Nat) : Prop :=
  (portOf s i p).relock = false →
    ((portOf s i p).state = .up → (portOf t i p).state = .retraining ∧ (portOf t i p).since = s.panel.ptime)
    ∧ ((portOf s i p).state = .fenced → (portOf t i p).state = .fenced ∧ (portOf t i p).relock = true
      ∧ (portOf t i p).since = s.panel.ptime)

/-- One flit of KIND 4 has entered the port's replay buffer (R376, R391). -/
def KeyFlitPlaced (x y : Port) : Prop :=
  ∃ e, y.buffer = x.buffer ++ [e] ∧ e.kind = 4 ∧ e.seq = (x.seq + 1) % 1024 ∧ e.ks = x.curSlot ∧ e.txc = (curKey x).txc
    ∧ y.seq = (x.seq + 1) % 1024

/-- A logical row that is not worn, or for which a spare row stands by (R385, R386). -/
def RowUsable (m : Matrix) (r : Nat) : Prop :=
  rowWorn m (nth m.rowMap r) = false ∨ ∃ p ∈ m.spares, rowWorn m p = false

/-- A reset of a set cell that would cut the light of a port not Fenced and drained (R386). -/
def CutsLight (s : State) (i r c : Nat) : Prop :=
  (islOf s i).matrix.set.contains (16 * nth (islOf s i).matrix.rowMap r + c) = true ∧ cutsLight s i r c = true

/-- The requester of a packet that its router drops or cannot send hears of it: at once on its own island, else by a packet on
the route of its notices; k stands for the routed packets that remain (R378, R382). -/
def Notified (n : Notice) (s t : State) (i : Nat) (x : RemotePacket) (left : List (Nat × RemotePacket)) : Prop :=
  let k := requestKey x
  x.notice = none →
  (k.1 = s.panel.number ∧ k.2.1 = i → t.panel.routed = left
    ∧ t.agenda = s.agenda ++ [if n = .failure then .routeFailureNotice i x.op x.part else .routeErrorNotice i x.op])
  ∧ (¬(k.1 = s.panel.number ∧ k.2.1 = i) → t.agenda = s.agenda ∧
    match noticeRoute s i k.1 k.2.1 with
    | some r => ∃ q, t.panel.routed = left ++ [(i, q)] ∧ q.notice = some n ∧ q.reply = true ∧ q.dpanel = k.1 ∧ q.disl = k.2.1
        ∧ q.op = x.op ∧ q.part = x.part ∧ q.route = r
    | none => t.panel.routed = left)

end Sys2Proof.Machine

/-! ## Links, routes, switch cells and host ports (R374 to R395) -/

/-- R374 to R378, R380, R382, R389 to R391: link states, flits, keys and the router.
The layout of a flit and of a key message, and the routes of notices, are the model's (log 28); cryptography is opaque
(log 10); the readings are logs 41 and 48. -/
def Obligations.LinkResults : Prop :=
  (∀ i p u v w n s, Present s i → (portOf s i p).edge = false → (portOf s i p).state = .training →
    s.panel.ptime ≤ (portOf s i p).since + 1000000 → guidesOk (portOf s i p) = true →
    (∃ j q, (portOf s i p).peer = some (j, q) ∧ (portOf s j q).state = .training ∧ guidesOk (portOf s j q) = true) →
    ∃ t, exec (.linkTrainingComplete i p u v w n) s = .next t ∧ CoresSame s t ∧ UpAt t i p
    ∧ ∀ j q, (portOf s i p).peer = some (j, q) → UpAt t j q)
  ∧ (∀ i p u v x n s, Present s i → (portOf s i p).edge = true → (portOf s i p).state = .training →
    s.panel.ptime ≤ (portOf s i p).since + 1000000 → guidesOk (portOf s i p) = true → (portOf s i p).peer = none →
    (portOf s i p).asked = true → (portOf s i p).answered = true →
    ∃ t, exec (.linkTrainingComplete i p u v x n) s = .next t ∧ CoresSame s t ∧ UpAt t i p
    ∧ (∀ k, (portOf t i p).cap.testBit k = true ↔ (k = 0 ∧ u = true ∨ k = 1 ∧ v = true ∨ k = 2 ∧ x = true) ∧ n.testBit k = true)
    ∧ (portOf t i p).slot0 = (portOf s i p).slot0 ∧ (portOf t i p).slot1 = (portOf s i p).slot1
    ∧ (portOf t i p).curSlot = (portOf s i p).curSlot
    ∧ ∀ j k w, 64 ≤ k → tblGet? (islOf s j).cells k = some w →
      let c := (tblGet (islOf t j).cells k).toNat
      cellPri c = cellPri w.toNat ∧ cellAlt c = cellAlt w.toNat ∧ cellValid c = cellValid w.toNat
      ∧ cellCapp c = hopsCap t j (hopsOf (routeOf t (cellPri c))) % 8
      ∧ cellCapa c = hopsCap t j (hopsOf (routeOf t (cellAlt c))) % 8)
  ∧ (∀ i p u v w n, NotDue (.linkTrainingComplete i p u v w n) fun s => (portOf s i p).state ≠ .training
      ∨ guidesOk (portOf s i p) = false ∨ (portOf s i p).since + 1000000 < s.panel.ptime)
  ∧ (∀ i p f peer m sig s,
    let x := portOf s i p
    Present s i → x.edge = true → x.state = .training → flitOk 4 f = true → flitKs f = 0 → peerSigned s peer m sig = true →
    (∃ t, exec (.flitKeyControl i p f (.encap peer m sig)) s = .next t ∧ CoresSame s t ∧ (portOf t i p).state = .training
      ∧ (portOf t i p).asked = true ∧ (portOf t i p).answered = x.answered
      ∧ (portOf t i p).clear = x.clear ++ [clearKeyFlit (Config.keyMessage s.tick m)]
      ∧ (x.answered = true → (portOf t i p).slot0 = newSlot s.tick m s.panel.ptime ∧ (portOf t i p).slot1 = {}
        ∧ (portOf t i p).curSlot = 0))
    ∧ ∃ t, exec (.flitKeyControl i p f (.cipher peer m sig)) s = .next t ∧ CoresSame s t ∧ (portOf t i p).state = .training
      ∧ (portOf t i p).answered = true ∧ (portOf t i p).asked = x.asked ∧ (portOf t i p).clear = x.clear
      ∧ (x.asked = true → (portOf t i p).slot0 = newSlot s.tick m s.panel.ptime ∧ (portOf t i p).slot1 = {}
        ∧ (portOf t i p).curSlot = 0))
  ∧ (∀ i p f peer m sig s, Present s i → (portOf s i p).edge = true → (portOf s i p).state = .training → flitOk 4 f = true →
    flitKs f = 0 → peerSigned s peer m sig = false →
    (∃ t, exec (.flitKeyControl i p f (.encap peer m sig)) s = .next t ∧ PortDown s t i p)
    ∧ ∃ t, exec (.flitKeyControl i p f (.cipher peer m sig)) s = .next t ∧ PortDown s t i p)
  ∧ (∀ i p s, Present s i → (portOf s i p).state = .training →
    ∃ t, exec (.linkTrainingTimeout i p) s = .next t ∧ PortDown s t i p)
  ∧ (∀ i p, NotDue (.linkTrainingTimeout i p) fun s => (portOf s i p).state ≠ .training)
  ∧ (∀ i p s, Present s i → ∃ t, exec (.linkRetrainingTrigger i { port := p }) s = .next t ∧ CoresSame s t ∧ Retrains s t i p
    ∧ ∀ j q, (portOf s i p).peer = some (j, q) → Present s j → Retrains s t j q)
  ∧ (∀ i p g s, Present s i → ∃ t, exec (.linkRetrainingTrigger i { port := p, lost := some g }) s = .next t ∧ CoresSame s t
    ∧ g ∈ (portOf t i p).lost ∧ (∀ j q, (portOf s i p).peer = some (j, q) → Present s j → farGuide g ∈ (portOf t j q).lost)
    ∧ if g ∈ guideMap 0 (portOf s i p) ∨ g ∈ guideMap 9 (portOf s i p) then Retrains s t i p
      else (portOf t i p).state = (portOf s i p).state)
  ∧ (∀ i p s, Present s i → relocking (portOf s i p) = true → s.panel.ptime ≤ (portOf s i p).since + 20000 →
    guidesOk (portOf s i p) = true → (portOf s i p).peer ≠ some (i, p) → ∃ t, exec (.linkRelock i p) s = .next t ∧ CoresSame s t
    ∧ (portOf t i p).buffer.map (·.bytes) = (portOf s i p).buffer.map (·.bytes)
    ∧ (∀ (k : Nat) e, (portOf s i p).buffer[k]? = some e → e.replays < 7 → ∃ e', (portOf t i p).buffer[k]? = some e'
      ∧ e'.paused = false ∧ e'.replays = if e.paused = true then e.replays else e.replays + 1)
    ∧ ((∀ e ∈ (portOf s i p).buffer, e.replays < 7) →
      (∀ j q, (portOf s i p).peer = some (j, q) → ∀ e ∈ (portOf s j q).buffer, e.replays < 7) →
      ((portOf s i p).state = .retraining → (portOf t i p).state = .up)
      ∧ ((portOf s i p).state = .fenced → (portOf t i p).state = .fenced ∧ (portOf t i p).relock = false)
      ∧ ((portOf s i p).state = .up → (portOf t i p).state = .up ∧ (portOf t i p).relock = false)
      ∧ ∀ j q, (portOf s i p).peer = some (j, q) → Present s j → (portOf s j q).state = .retraining → (portOf t j q).state = .up)
    ∧ ((∃ e ∈ (portOf s i p).buffer, e.paused = false ∧ 7 ≤ e.replays) → (portOf t i p).since = s.panel.ptime
      ∧ ((portOf s i p).state = .retraining → (portOf t i p).state = .retraining)
      ∧ ((portOf s i p).state = .fenced → (portOf t i p).state = .fenced ∧ (portOf t i p).relock = true)))
  ∧ (∀ i p, NotDue (.linkRelock i p) fun s => relocking (portOf s i p) = false ∨ guidesOk (portOf s i p) = false
      ∨ (portOf s i p).since + 20000 < s.panel.ptime)
  ∧ (∀ i p s, Present s i → relocking (portOf s i p) = true → (portOf s i p).since + 20000 ≤ s.panel.ptime →
    ∃ t, exec (.linkRetrainingTimeout i p) s = .next t ∧ LinkDown s t i p)
  ∧ (∀ i p, NotDue (.linkRetrainingTimeout i p) fun s => relocking (portOf s i p) = false
      ∨ s.panel.ptime < (portOf s i p).since + 20000)
  ∧ (∀ i p s, Present s i → (portOf s i p).state = .failed → (portOf s i p).since + 1000000 ≤ s.panel.ptime →
    ∃ t, exec (.linkRetryTimer i p) s = .next t ∧ CoresSame s t ∧ (portOf t i p).state = .training
      ∧ (portOf t i p).since = s.panel.ptime ∧ (portOf t i p).asked = false ∧ (portOf t i p).answered = false)
  ∧ (∀ i p, NotDue (.linkRetryTimer i p) fun s => (portOf s i p).state ≠ .failed ∨ s.panel.ptime < (portOf s i p).since + 1000000)
  ∧ (∀ i p f, NotDue (.flitIdle i p f) fun s => receives (portOf s i p) = false)
  ∧ (∀ i p f s, Present s i → receives (portOf s i p) = true → flitOk 0 f = true →
    ∃ t, exec (.flitIdle i p f) s = .next t ∧ CoresSame s t ∧ Freed (portOf s i p) (portOf t i p) (flitAck f)
      ∧ (portOf t i p).ack = (portOf s i p).ack)
  ∧ Accepts (fun i p f k => .flitRequest i p f k) 1 ∧ Accepts (fun i p f k => .flitResponse i p f k) 2
  ∧ AcceptsSealed (fun i p f k => .flitRequest i p f k) 1 ∧ AcceptsSealed (fun i p f k => .flitResponse i p f k) 2
  ∧ Drops (fun i p f k => .flitRequest i p f k) 1 ∧ Drops (fun i p f k => .flitResponse i p f k) 2
  ∧ (∀ i p f s,
    let y := freeAcked (flitAck f) (portOf s i p)
    Present s i → receives (portOf s i p) = true → flitOk 3 f = true →
    ∃ t, exec (.flitNak i p f) s = .next t ∧ CoresSame s t
    ∧ (portOf t i p).buffer.length = y.buffer.length + min y.placing.length (256 - y.buffer.length)
    ∧ (∀ (k : Nat) e, y.buffer[k]? = some e → ∃ e', (portOf t i p).buffer[k]? = some e' ∧ e'.bytes = e.bytes ∧ e'.seq = e.seq
      ∧ e'.replays = if 7 ≤ e.replays then 0 else e.replays + 1)
    ∧ (∀ j q, (portOf s i p).peer = some (j, q) → Present s j → (portOf t j q).naks = (portOf s j q).naks.drop 1)
    ∧ ((∀ e ∈ y.buffer, e.replays < 7) → (portOf t i p).state = (portOf s i p).state)
    ∧ ((∃ e ∈ y.buffer, 7 ≤ e.replays) → Retrains s t i p))
  ∧ (∀ i p f s s1,
    let x := portOf s1 i p
    Present s i → receiveFlit s i p 4 f = (s1, true) → (portOf s i p).edge = true →
    ∃ t, exec (.flitKeyControl i p f .retire) s = .next t ∧ CoresSame s t
    ∧ slotAt (1 - flitKs f) (portOf t i p) = {} ∧ slotAt (flitKs f) (portOf t i p) = slotAt (flitKs f) x
    ∧ (portOf t i p).rolling = false)
  ∧ (∀ i p f s s1 peer m sig,
    let x := portOf s1 i p
    Present s i → receiveFlit s i p 4 f = (s1, true) → (portOf s i p).edge = true → peerSigned s peer m sig = true →
    x.placing = [] → x.buffer.length < 256 →
    ∃ t, exec (.flitKeyControl i p f (.encap peer m sig)) s = .next t ∧ CoresSame s t ∧ KeyFlitPlaced x (portOf t i p)
    ∧ (portOf t i p).curSlot = x.curSlot
    ∧ (emptySlot (otherKey x) = true → otherKey (portOf t i p) = newSlot s.tick m s.panel.ptime
      ∧ (portOf t i p).rolling = true ∧ (portOf t i p).fresh = true)
    ∧ (emptySlot (otherKey x) = false → otherKey (portOf t i p) = otherKey x))
  ∧ (∀ i p f s s1 peer m sig,
    let x := portOf s1 i p
    Present s i → receiveFlit s i p 4 f = (s1, true) → (portOf s i p).edge = true →
    (peerSigned s peer m sig = true → x.rolling = true → x.curSlot ≤ 1 →
      ∃ t, exec (.flitKeyControl i p f (.cipher peer m sig)) s = .next t ∧ CoresSame s t
      ∧ (portOf t i p).curSlot = 1 - x.curSlot ∧ (portOf t i p).fresh = false ∧ otherKey (portOf t i p) = curKey x
      ∧ curKey (portOf t i p) = if emptySlot (otherKey x) = true then newSlot s.tick m s.panel.ptime else otherKey x)
    ∧ (peerSigned s peer m sig = false → ∃ t, exec (.flitKeyControl i p f (.cipher peer m sig)) s = .next t ∧ CoresSame s t
      ∧ (portOf t i p).curSlot = x.curSlot ∧ (portOf t i p).rolling = false ∧ (portOf t i p).retry = true
      ∧ (portOf t i p).retryAt = s.panel.ptime))
  ∧ (∀ i p cmd s, Present s i →
    let x := portOf s i p
    exchangeReady x = true → x.rolling = false → x.retry = false →
    (cmd = true ∨ 2 ^ 32 ≤ (curKey x).txc ∨ (curKey x).loaded + 600000000000 ≤ s.panel.ptime) →
    ∃ t, exec (.keyRolloverStart i p cmd) s = .next t ∧ CoresSame s t ∧ (portOf t i p).rolling = true
    ∧ (portOf t i p).retryAt = s.panel.ptime ∧ KeyFlitPlaced x (portOf t i p) ∧ (curKey (portOf t i p)).txc = (curKey x).txc + 1)
  ∧ (∀ i p cmd, NotDue (.keyRolloverStart i p cmd) fun s => exchangeReady (portOf s i p) = false
      ∨ (portOf s i p).rolling = true ∨ (portOf s i p).retry = true
      ∨ cmd = false ∧ (curKey (portOf s i p)).txc < 2 ^ 32 ∧ s.panel.ptime < (curKey (portOf s i p)).loaded + 600000000000)
  ∧ (∀ i p s, Present s i →
    let x := portOf s i p
    exchangeReady x = true → x.retry = true ∨ x.rolling = true ∧ emptySlot (otherKey x) = true →
    x.retryAt + 1000000000 ≤ s.panel.ptime →
    ∃ t, exec (.keyExchangeRetry i p) s = .next t ∧ CoresSame s t ∧ (portOf t i p).rolling = true
    ∧ (portOf t i p).retry = false ∧ (portOf t i p).retryAt = s.panel.ptime ∧ KeyFlitPlaced x (portOf t i p))
  ∧ (∀ i p, NotDue (.keyExchangeRetry i p) fun s => exchangeReady (portOf s i p) = false
      ∨ (portOf s i p).retry = false ∧ ((portOf s i p).rolling = false ∨ emptySlot (otherKey (portOf s i p)) = false)
      ∨ s.panel.ptime < (portOf s i p).retryAt + 1000000000)
  ∧ (∀ i p s, Present s i →
    let x := portOf s i p
    exchangeReady x = true → x.rolling = true → x.fresh = false → (otherKey x).tx.isSome = true →
    (∀ e ∈ x.buffer, e.ks = x.curSlot) →
    ∃ t, exec (.rolloverRetire i p) s = .next t ∧ CoresSame s t ∧ otherKey (portOf t i p) = {}
    ∧ (portOf t i p).curSlot = x.curSlot ∧ (portOf t i p).rolling = false ∧ KeyFlitPlaced x (portOf t i p))
  ∧ (∀ i p, NotDue (.rolloverRetire i p) fun s => exchangeReady (portOf s i p) = false ∨ (portOf s i p).rolling = false
      ∨ (portOf s i p).fresh = true ∨ (otherKey (portOf s i p)).tx = none ∨ (∃ e ∈ (portOf s i p).buffer, e.ks ≠ (portOf s i p).curSlot))
  ∧ (∀ i p s, Present s i → (portOf s i p).edge = true →
    ((portOf s i p).state = .up ∨ (portOf s i p).state = .retraining ∨ (portOf s i p).state = .fenced) →
    (2 ^ 36 ≤ (portOf s i p).slot0.txc ∨ 2 ^ 36 ≤ (portOf s i p).slot1.txc) →
    ∃ t, exec (.keySlotExhausted i p) s = .next t ∧ LinkDown s t i p)
  ∧ (∀ i p, NotDue (.keySlotExhausted i p) fun s => (portOf s i p).slot0.txc < 2 ^ 36 ∧ (portOf s i p).slot1.txc < 2 ^ 36)
  ∧ (∀ i k, NotDue (.routerPacket i k) fun s => (routedAt s i)[k]? = none)
  ∧ (∀ i k x, NotDue (.routerPacket i k) fun s => (routedAt s i)[k]? = some x ∧ behind s i k x = true)
  ∧ (∀ i k s x y, Present s i → (routedAt s i)[k]? = some x → behind s i k x = false → routerDo s i x = .deliver y →
    ∃ t, exec (.routerPacket i k) s = .next t ∧ CoresSame s t ∧ t.panel.routed = dropFirst (i, x) s.panel.routed
    ∧ (y.notice = none → (islOf t i).inbox = (islOf s i).inbox ++ [y] ∧ t.agenda = s.agenda)
    ∧ ∀ n, y.notice = some n → (islOf t i).inbox = (islOf s i).inbox ∧ t.agenda = s.agenda
      ++ [if n = .failure then .routeFailureNotice i y.op y.part else .routeErrorNotice i y.op])
  ∧ (∀ i k s x y p, Present s i → (routedAt s i)[k]? = some x → behind s i k x = false → routerDo s i x = .forward p y →
    (linkOpen (portOf s i p) = true ∨ (portOf s i p).state = .fenced ∧ x.reply = true) →
    (portRoom (portOf s i p) = true → ∃ t, exec (.routerPacket i k) s = .next t ∧ CoresSame s t
      ∧ t.panel.routed = dropFirst (i, x) s.panel.routed
      ∧ (portOf t i p).buffer.length + (portOf t i p).placing.length
        = (portOf s i p).buffer.length + (packetPieces (portOf s i p).edge y).length
      ∧ ((portOf t i p).placing ≠ [] → (portOf t i p).buffer.length = 256)
      ∧ (portOf t i p).owed = if x.reply = true then (portOf s i p).owed.filter (· ≠ requestKey x)
        else (portOf s i p).owed ++ [requestKey x])
    ∧ (portRoom (portOf s i p) = false → exec (.routerPacket i k) s = .next s))
  ∧ (∀ i k s x y p, Present s i → (routedAt s i)[k]? = some x → behind s i k x = false → routerDo s i x = .forward p y →
    linkOpen (portOf s i p) = false → ((portOf s i p).state = .fenced → x.reply = false) →
    ∃ t, exec (.routerPacket i k) s = .next t ∧ CoresSame s t ∧ Notified .failure s t i x (dropFirst (i, x) s.panel.routed))
  ∧ ∀ i k s x, (routedAt s i)[k]? = some x → behind s i k x = false → routerDo s i x = .error →
    ∃ t, exec (.routerPacket i k) s = .next t ∧ CoresSame s t ∧ Notified .error s t i x (dropFirst (i, x) s.panel.routed)

/-- R17, R379 to R381, R384 to R386, R393, R395: route maps and replacement routes, switch cells, host ports.
The cells of a circuit without power are log 41; what the firmware writes in panel cells, and the alternates too long to carry
a packet log 46; a port Dark under its fence log 48. -/
def Obligations.RouteAndSwitchResults : Prop :=
  (∀ d s, quarantined s d = true → ∃ t, exec (.routeMapInvalidate d) s = .next t ∧ CoresSame s t
    ∧ ∀ i w, i ≠ d → tblGet? (islOf s i).cells d = some w → tblGet? (islOf t i).cells d = some (w &&& ~~~(1#64 <<< 63)))
  ∧ (∀ d, NotDue (.routeMapInvalidate d) fun s => quarantined s d = false)
  ∧ (∀ src dst entry alt s,
    let w := (tblGet (islOf s src).cells dst).toNat
    let hops := replacementHops s src dst alt
    Present s src → dst < 64 → carries { k := hops.length, hops := hops } = true → poolFree s entry = true → src ≠ dst →
    quarantined s dst = false → cellValid w = true →
    ∃ t, exec (.replacementRoute src dst entry hops alt) s = .next t ∧ CoresSame s t
    ∧ routeOf t entry = { k := hops.length, hops := hops }
    ∧ (let x := (tblGet (islOf t src).cells dst).toNat
       cellValid x = true ∧ (if alt = true then cellAlt x = entry ∧ cellPri x = cellPri w ∧ cellCapa x = hopsCap s src hops
         else cellPri x = entry ∧ cellAlt x = cellAlt w ∧ cellCapp x = hopsCap s src hops)))
  ∧ (∀ src q entry hops alt s,
    let w := (tblGet (islOf s src).cells (64 + q)).toNat
    Present s src → q < 1024 → q ≠ s.panel.number → carries { k := hops.length, hops := hops } = true → poolFree s entry = true →
    ∃ t, exec (.replacementRoute src (64 + q) entry hops alt) s = .next t ∧ CoresSame s t
    ∧ routeOf t entry = { k := hops.length, hops := hops }
    ∧ (let x := (tblGet (islOf t src).cells (64 + q)).toNat
       cellValid x = true
       ∧ (alt = true ∨ cellValid w = false → cellAlt x = entry ∧ cellCapa x = hopsCap s src hops)
       ∧ (alt = false ∨ cellValid w = false → cellPri x = entry ∧ cellCapp x = hopsCap s src hops)
       ∧ (cellValid w = true → if alt = true then cellPri x = cellPri w ∧ cellCapp x = cellCapp w
         else cellAlt x = cellAlt w ∧ cellCapa x = cellCapa w)))
  ∧ (∀ src dst entry hops alt, NotDue (.replacementRoute src dst entry hops alt) fun s => poolFree s entry = false
      ∨ carries { k := hops.length, hops := hops } = false ∨ 1088 ≤ dst ∨ dst = 64 + s.panel.number
      ∨ dst < 64 ∧ (src = dst ∨ hops ≠ replacementHops s src dst alt ∨ quarantined s dst = true
        ∨ cellValid (tblGet (islOf s src).cells dst).toNat = false))
  ∧ (∀ e s u, u ∈ s.panel.unnamed → u.1 = e → u.2 + 100000 ≤ s.panel.ptime → named s e = false → entryInFlight s e = false →
    ∃ t, exec (.routeEntryReuse e) s = .next t ∧ PanelOnly s t ∧ tblGet? t.panel.routes e = none
      ∧ ∀ v ∈ t.panel.unnamed, v.1 ≠ e)
  ∧ (∀ e, NotDue (.routeEntryReuse e) fun s => named s e = true ∨ entryInFlight s e = true
      ∨ ∀ u ∈ s.panel.unnamed, u.1 = e → s.panel.ptime < u.2 + 100000)
  ∧ (∀ i r c, NotDue (.xcellSet i r c) fun s => (islOf s i).matrix.busy = true)
  ∧ (∀ i r c, NotDue (.xcellReset i r c) fun s => (islOf s i).matrix.busy = true)
  ∧ (∀ i r c, Fires (.xcellSet i r c) (fun s => (islOf s i).matrix.busy = false ∧ (15 < r ∨ 15 < c)) fun s =>
    modIsl s i fun x => { x with matrix := { x.matrix with status := 3 } })
  ∧ (∀ i r c, Fires (.xcellReset i r c) (fun s => (islOf s i).matrix.busy = false ∧ (15 < r ∨ 15 < c)) fun s =>
    modIsl s i fun x => { x with matrix := { x.matrix with status := 3 } })
  ∧ (∀ i r c, Fires (.xcellSet i r c) (fun s => (islOf s i).matrix.busy = false ∧ r ≤ 15 ∧ c ≤ 15
      ∧ RowUsable (islOf s i).matrix r) fun s =>
    modIsl s i fun x => { x with matrix := { x.matrix with busy := true, act := 0, row := r, col := c } })
  ∧ (∀ i r c, Fires (.xcellSet i r c) (fun s => (islOf s i).matrix.busy = false ∧ r ≤ 15 ∧ c ≤ 15
      ∧ ¬RowUsable (islOf s i).matrix r) fun s => modIsl s i fun x => { x with matrix := { x.matrix with status := 2 } })
  ∧ (∀ i r c, Fires (.xcellReset i r c) (fun s => (islOf s i).matrix.busy = false ∧ r ≤ 15 ∧ c ≤ 15
      ∧ RowUsable (islOf s i).matrix r ∧ ¬CutsLight s i r c) fun s =>
    modIsl s i fun x => { x with matrix := { x.matrix with busy := true, act := 1, row := r, col := c } })
  ∧ (∀ i r c, Fires (.xcellReset i r c) (fun s => (islOf s i).matrix.busy = false ∧ r ≤ 15 ∧ c ≤ 15
      ∧ ¬RowUsable (islOf s i).matrix r ∧ ¬CutsLight s i r c) fun s =>
    modIsl s i fun x => { x with matrix := { x.matrix with status := 2 } })
  ∧ (∀ i r c, Fires (.xcellReset i r c) (fun s => (islOf s i).matrix.busy = false ∧ r ≤ 15 ∧ c ≤ 15 ∧ CutsLight s i r c) fun s =>
    modIsl s i fun x => { x with matrix := { x.matrix with status := 1 } })
  ∧ (∀ i, NotDue (.xcellComplete i) fun s => (islOf s i).matrix.busy = false)
  ∧ (∀ i s,
    let m := (islOf s i).matrix
    let k := 16 * nth m.rowMap m.row + m.col
    m.busy = true → rowWorn m (nth m.rowMap m.row) = false → m.act ≤ 1 →
    ∃ t, exec (.xcellComplete i) s = .next t ∧ SameMemory s t
    ∧ (islOf t i).matrix.busy = false ∧ (islOf t i).matrix.status = 0
    ∧ (if m.set.contains k = decide (m.act = 0) then
        (islOf t i).matrix.lastRow = m.lastRow ∧ (islOf t i).matrix.lastWear = m.lastWear
      else (islOf t i).matrix.lastRow = nth m.rowMap m.row ∧ (islOf t i).matrix.lastWear = tblGet m.wear k + 1)
    ∧ (∀ x, (islOf t i).matrix.set.contains x = if x = k then decide (m.act = 0) else m.set.contains x)
    ∧ tblGet (islOf t i).matrix.wear k
      = tblGet m.wear k + (if m.set.contains k = decide (m.act = 0) then 0 else 1)
    ∧ (m.set.contains k ≠ decide (m.act = 0) → ∀ j q, Present s j → 4 ≤ q → (tblGet? (islOf s j).ports q).isSome = true →
      let x := portOf s j q
      let e := lightEnds t (islOf t j).site q
      (portOf t j q).peer = e.2 ∧ (portOf t j q).edge = e.1.isSome
      ∧ (x.state = .fenced → e = (none, none) → x.edge = true ∨ x.peer.isSome = true →
        (portOf t j q).state = .dark ∧ (portOf t j q).fence = true)
      ∧ (x.state = .dark → x.fence = false → x.edge = false → x.peer = none → e ≠ (none, none) →
        ((islOf s j).site, q) ∉ s.panel.store.ports → (portOf t j q).state = .training ∧ (portOf t j q).since = s.panel.ptime)))
  ∧ (∀ p, Fires (.hpctlWrite p) everywhere fun s =>
    { s with panel := { s.panel with frozen := s.panel.frozen.filter (· ≠ p) } })
  ∧ (∀ p s, p < 4 → ∃ t, exec (.hostPortLinkChange p true) s = .next t ∧ PanelOnly s t ∧ t.panel.down.contains p = false
    ∧ ∀ q, q ≠ p → t.panel.down.contains q = s.panel.down.contains q)
  ∧ (∀ p s, p < 4 → ∃ t, exec (.hostPortLinkChange p false) s = .next t ∧ PanelOnly s t ∧ t.panel.down.contains p = true
    ∧ ∀ q, q ≠ p → t.panel.down.contains q = s.panel.down.contains q)
  ∧ (∀ p up, NotDue (.hostPortLinkChange p up) fun _ => 4 ≤ p)
  ∧ ∀ s, (s.islands.map fun p => p.2.site).Nodup → ∃ t, exec .orderlyShutdown s = .next t ∧ PanelOnly s t
    ∧ ∀ p ∈ s.islands, ∀ w ∈ p.2.matrix.wear, (p.2.site, w.1, w.2) ∈ t.panel.store.wear

namespace Sys2Proof.Machine

/-- A request that no home record answers, of a context that stands there and may write the counter it names (R403, R404). -/
def Fresh (s : State) (i : Nat) (p : RemotePacket) : Prop :=
  (p.kind = .get ∨ foundRecord s i p = none) ∧ stateOf s i p.ctx ≠ .built ∧ stateOf s i p.ctx ≠ .terminated
  ∧ (p.rne = true ∨ p.kind = .notify → ctrOwned s i p.ctx p.rctr = true)

/-- The one remote operation of an island, with the part a reply answers. -/
def OnlyRemote (s : State) (i n : Nat) (o : RemoteOp) : Prop := (islOf s i).remotes = [(n, o)]

/-- The operation has ended at its group, which stands where it issued it: its number is free and S[d] holds v (R399). -/
def EndsWith (s t : State) (i n : Nat) (o : RemoteOp) (v : DWord) : Prop :=
  tblGet? (islOf t i).remotes n = none ∧ (∀ l ∈ (islOf t i).mem.locks, l.op ≠ n)
  ∧ ∀ g, tblGet? s.groups o.grp = some g → g.age = o.age →
    (∀ x ∈ (grpOf t o.grp).ops, x.id ≠ n) ∧ (o.d < 63 → readS (grpOf t o.grp).regs o.d = v)

/-- A remote operation has failed: its status word and a held REMOTE that says so (R399, R404). -/
def RemoteFails (s t : State) (i n : Nat) (o : RemoteOp) (st : Nat) : Prop :=
  SameMemory s t ∧ EndsWith s t i n o (if o.kind = .ratom then 0 else BitVec.ofNat 64 (2 ^ 63 + st * 2 ^ 8 + 0x16))
  ∧ ∀ g, tblGet? s.groups o.grp = some g → g.age = o.age → g.held.length < 4 →
    ∃ h, (grpOf t o.grp).held = g.held ++ [h] ∧ h.remote = true ∧ h.pc = o.pc ∧ h.cause.toNat % 2 ^ 16 = st % 2 ^ 8 * 2 ^ 8 + 0x16

/-- The record of a bucket that has ended (R414): 80 bytes at its address, in one piece. -/
def RecordStands (t : State) (i : Nat) (b : Bucket) (tw rw : List Byte) (stat : DWord) (seq : Nat) : Prop :=
  ∀ a vn, b.wmark = [{ phys := some a, vn := vn, taddr := 0, bits := 640 }] → a + 80 ≤ hostBase →
    ∀ j, j < 80 → j < (tw ++ rw ++ leBytes stat.toNat 8 ++ leBytes seq 8).length →
      byteAt t i (a + j) = (tw ++ rw ++ leBytes stat.toNat 8 ++ leBytes seq 8).getD j 0

/-- A bucket has ended on an island (R414, R415). -/
def BucketEnded (s t : State) (i n : Nat) (b : Bucket) : Prop :=
  bucketOf? t i n = none ∧ (b.ctx, b.bid) ∈ (islOf t i).ended ∧ (ctxOf t i b.ctx).cseq = (ctxOf s i b.ctx).cseq + 1
  ∧ (b.nne = true → ctrOf t i (b.nctr % 65536) = ctrOf s i (b.nctr % 65536) + 1)

end Sys2Proof.Machine

/-! ## Remote operations and collectives as they go on (R378, R398 to R415) -/

/-- R378, R382, R398, R399, R402, R403, R404, R408: requests at their home, replies at their requester, time-outs, notices, and
writes of NCVAL.
The parts of an operation, its time-outs and a lost reply are the readings of logs 33 and 34. -/
def Obligations.RemoteEventResults : Prop :=
  (∀ i, NotDue (.remotePacketAtHome i) fun s => (islOf s i).inbox.find? (fun p => !p.reply) = none)
  ∧ (∀ i s p s1 st bs ms old bad, (islOf s i).inbox.find? (fun p => !p.reply) = some p →
    perform (takeInbox s i p) i p = (s1, .done st bs ms old bad) → p.spanel = s1.panel.number → p.sisl = i →
    s1.panel.number = s.panel.number →
    exec (.remotePacketAtHome i) s = .next (deliverPacket s1 i (replyOf s.panel.number i p st bs ms old bad)))
  ∧ (∀ i s p s1 st bs ms old bad, (islOf s i).inbox.find? (fun p => !p.reply) = some p →
    perform (takeInbox s i p) i p = (s1, .done st bs ms old bad) → ¬(p.spanel = s1.panel.number ∧ p.sisl = i) →
    (∀ r cap, chooseRoute s1 i p.spanel p.sisl = .route r cap → exec (.remotePacketAtHome i) s
      = .next (route s1 i { replyOf s.panel.number i p st bs ms old bad with route := r, hop := 0 }))
    ∧ (chooseRoute s1 i p.spanel p.sisl = .waits ∨ chooseRoute s1 i p.spanel p.sisl = .never →
      exec (.remotePacketAtHome i) s = .next s1))
  ∧ (∀ i s p s1, (islOf s i).inbox.find? (fun p => !p.reply) = some p → perform (takeInbox s i p) i p = (s1, .waits) →
    exec (.remotePacketAtHome i) s = .next (deliverPacket s1 i p))
  ∧ (∀ s i p q, p.kind ≠ .get → foundRecord s i p = some q → perform s i p = (s, .done 0 [] [] q.old q.bad))
  ∧ (∀ s i p, (p.kind = .get ∨ foundRecord s i p = none) → (stateOf s i p.ctx = .built ∨ stateOf s i p.ctx = .terminated) →
    perform s i p = (s, .done 0x10 [] [] 0 false))
  ∧ (∀ s i p, Fresh s i p → Present s i → p.kind = .notify → p.rne = false → ∃ t, perform s i p = (t, .done 0 [] [] 0 false)
    ∧ SameMemory s t ∧ ctrOf t i (p.rctr % 65536) = ctrOf s i (p.rctr % 65536) + p.val
    ∧ (foundRecord t i p).isSome = true)
  ∧ (∀ s i p s1 l vn, Fresh s i p → Present s i → p.kind = .put → p.rne = false → p.marks = [] → p.data ≠ [] →
    p.va % 64 + p.data.length ≤ 64 → homeAt s i p.ctx p.va .write = (s1, .ok l vn) →
    (l.phys + p.data.length ≤ hostBase ∨ hostBase ≤ l.phys) → ∃ t, perform s i p = (t, .done 0 [] [] 0 false)
    ∧ (∀ j, j < p.data.length → byteAt t i (l.phys + j) = p.data.getD j 0)
    ∧ ((∀ e, l.dirtyAt = some e → entryAt s1 i e.addr ||| 0x80#64 = e.entry ||| 0xC0#64) →
      ∀ isl a, ((isHost a = true ∨ isl = i) → a < l.phys ∨ l.phys + p.data.length ≤ a) →
      (∀ e, l.dirtyAt = some e → isl = i → a < e.addr ∨ e.addr + 8 ≤ a) → byteAt t isl a = byteAt s1 isl a)
    ∧ (foundRecord t i p).isSome = true)
  ∧ (∀ s i p s1 l vn, Fresh s i p → p.kind = .get → p.rne = false → 0 < p.len → p.va % 64 + p.len ≤ 64 →
    homeAt s i p.ctx p.va .read = (s1, .ok l vn) → (∀ j, j < p.len → marked s1 i (l.phys + j) = false) →
    ∃ t, perform s i p = (t, .done 0 (physBytes s1 i l.phys p.len) [] 0 false) ∧ SameMemory s1 t)
  ∧ (∀ s i p s1 l vn,
    let n := if p.small = true then 4 else 8
    let v := p.val.toNat % 2 ^ (8 * n)
    let act : AtomAct := if p.aop = 14 then .cas v (p.expect.toNat % 2 ^ (8 * n)) else .op p.aop v
    Fresh s i p → Present s i → p.kind = .ratom → p.rne = false → homeAt s i p.ctx p.va .atomic = (s1, .ok l vn) →
    marked s1 i l.phys = false → (l.phys + n ≤ hostBase ∨ hostBase ≤ l.phys) →
    ∃ t, perform s i p = (t, .done 0 [] [] (BitVec.ofNat 64 (physNat s1 i l.phys n)) false)
    ∧ (∀ new, atomNew act n (physNat s1 i l.phys n) = some new → physNat t i l.phys n = new % 2 ^ (8 * n))
    ∧ (atomNew act n (physNat s1 i l.phys n) = none → SameMemory s1 t) ∧ (foundRecord t i p).isSome = true)
  ∧ (∀ s i p s1 st, Fresh s i p → p.kind = .ratom → homeAt s i p.ctx p.va .atomic = (s1, .fails st) → st ≠ 0 →
    perform s i p = (noteTraffic s1 i p.ctx, .done st [] [] 0 false))
  ∧ (∀ s i p s1, perform s i p = (s1, .waits) → s1 = s)
  ∧ (∀ i, NotDue (.remoteAck i) fun s => (islOf s i).inbox.find? (replyReady s i) = none)
  ∧ (∀ s i p, replyReady s i p = true ↔ p.reply = true ∧ ∀ o, tblGet? (islOf s i).remotes p.op = some o → o.kind = .get →
    piecesReach s o.pieces = true)
  ∧ (∀ i s p o q, (islOf s i).inbox.find? (replyReady s i) = some p → OnlyRemote s i p.op o →
    o.parts.find? (fun x => partNumber o x.off = p.part) = some q → p.status ≠ 0 →
    ∃ t, exec (.remoteAck i) s = .next t ∧ RemoteFails s t i p.op o p.status)
  ∧ (∀ i s p o q, (islOf s i).inbox.find? (replyReady s i) = some p → OnlyRemote s i p.op o → o.parts = [q] →
    partNumber o q.off = p.part → o.todo = false → p.status = 0 → o.kind ≠ .get → o.bad = false → p.bad = false → p.marks = [] →
    ∃ t, exec (.remoteAck i) s = .next t ∧ SameMemory s t ∧ EndsWith s t i p.op o (if o.kind = .ratom then p.val else 0)
    ∧ (o.lne = true → ctrOf t i (o.lctr % 65536) = ctrOf s i (o.lctr % 65536) + 1))
  ∧ (∀ i s p o q a vn, (islOf s i).inbox.find? (replyReady s i) = some p → OnlyRemote s i p.op o → o.parts = [q] →
    partNumber o q.off = p.part → o.todo = false → p.status = 0 → o.kind = .get → o.bad = false → p.bad = false → p.marks = [] →
    o.pieces = [{ phys := some a, vn := vn, taddr := q.off, bits := 8 * p.data.length }] → p.data ≠ [] →
    (a + p.data.length ≤ hostBase ∨ hostBase ≤ a) → ∃ t, exec (.remoteAck i) s = .next t ∧ EndsWith s t i p.op o 0
    ∧ (∀ j, j < p.data.length → byteAt t i (a + j) = p.data.getD j 0)
    ∧ ∀ isl b, ((isHost b = true ∨ isl = i) → b < a ∨ a + p.data.length ≤ b) → byteAt t isl b = byteAt s isl b)
  ∧ (∀ i n, NotDue (.remoteTimeout i n) fun s => tblGet? (islOf s i).remotes n = none)
  ∧ (∀ i n o, NotDue (.remoteTimeout i n) fun s => OnlyRemote s i n o ∧ o.todo = false
      ∧ ∀ p ∈ o.parts, p.waiting = false ∧ s.panel.ptime < p.lastSend + 50000)
  ∧ (∀ i n s o q, OnlyRemote s i n o → o.parts = [q] → q.waiting = false → q.lastSend + 50000 ≤ s.panel.ptime → 4 ≤ q.sends →
    ∃ t, exec (.remoteTimeout i n) s = .next t ∧ RemoteFails s t i n o 0x16)
  ∧ (∀ i n s o q, OnlyRemote s i n o → o.parts = [q] → o.todo = false → q.waiting = false →
    q.lastSend + 50000 ≤ s.panel.ptime → q.sends < 4 → o.panel = s.panel.number → o.isl = i →
    (o.kind = .put → piecesReach s o.pieces = true) → ∃ t x, exec (.remoteTimeout i n) s = .next t ∧ SameMemory s t ∧ (islOf t i).inbox = (islOf s i).inbox ++ [x]
    ∧ x.op = n ∧ x.part = partNumber o q.off ∧ x.reply = false ∧ x.va = o.va + q.off ∧ x.len = q.len ∧ x.rseq = q.rseq
    ∧ ∃ o', tblGet? (islOf t i).remotes n = some o'
      ∧ o'.parts = [{ q with sends := q.sends + 1, lastSend := s.panel.ptime }])
  ∧ (∀ o off, let k := (if o.kind = .get then o.loc.toNat else o.va) % 16
    partNumber o off = (off + k) / 4096 ∧ ((off + k) % 16 = 0 ↔
      ((if o.kind = .get then o.loc.toNat else o.va) + off) % 16 = 0))
  ∧ (∀ s i o, let p := nextPart s i o
    o.next < o.len → p.off = o.next ∧ 0 < p.len ∧ p.len ≤ 4096 ∧ (p.final = true ↔ o.next + p.len = o.len)
    ∧ (p.final = false → ((if o.kind = .get then o.loc.toNat else o.va) + o.next + p.len) % 16 = 0))
  ∧ (∀ i n k, NotDue (.routeFailureNotice i n k) fun s => tblGet? (islOf s i).remotes n = none
      ∨ ∃ o, tblGet? (islOf s i).remotes n = some o ∧ ∀ q ∈ o.parts, partNumber o q.off = k → q.waiting = true)
  ∧ (∀ i n k s o q, OnlyRemote s i n o → o.parts.find? (fun q => partNumber o q.off = k && !q.waiting) = some q → 4 ≤ q.sends →
    ∃ t, exec (.routeFailureNotice i n k) s = .next t ∧ RemoteFails s t i n o 0x16)
  ∧ (∀ i n k s o q, OnlyRemote s i n o → o.parts = [q] → partNumber o q.off = k → q.waiting = false → o.todo = false →
    q.sends < 4 → o.panel = s.panel.number → o.isl = i → (o.kind = .put → piecesReach s o.pieces = true) → ∃ t, exec (.routeFailureNotice i n k) s = .next t ∧ SameMemory s t
    ∧ ∃ o', tblGet? (islOf t i).remotes n = some o'
      ∧ o'.parts = [{ q with sends := q.sends + 1, lastSend := s.panel.ptime }])
  ∧ (∀ i n s o, OnlyRemote s i n o → ∃ t, exec (.routeErrorNotice i n) s = .next t ∧ RemoteFails s t i n o 0x18)
  ∧ (∀ i v s, Present s i → ∃ t, exec (.ncvalWrite i v) s = .next t ∧ SameMemory s t
    ∧ ctrOf t i ((islOf s i).ncsel % 65536) = v
    ∧ ∀ j m, (j ≠ i ∨ m ≠ (islOf s i).ncsel % 65536) → ctrOf t j m = ctrOf s j m)

/-- R412 to R415: a bucket completes with its record and its results, fails with its status in them, times out, and takes the
messages of its neighbours.
What a failed bucket leaves, and the rounding of its sums, are the readings of log 35. -/
def Obligations.BucketEventResults : Prop :=
  (∀ i n s b, bucketOf? s i n = some b → b.failing = none → b.count ≤ b.results.length → bucketReach s b = true →
    ∃ t, exec (.bucketComplete i n) s = .next t ∧ BucketEnded s t i n b
    ∧ RecordStands t i b (sha3d256 (trafficOf i b)) (sha3d256 (wordsBytes b.results)) 0 (ctxOf s i b.ctx).cseq
    ∧ ∀ a vn, b.streamed = false →
      b.dst = [{ phys := some a, vn := vn, taddr := 0, bits := 32 * b.results.length }] →
      a + 4 * b.results.length ≤ hostBase → (∀ q ∈ b.scratch ++ b.wmark, q.dirtyAt = none) → ∀ j, j < 4 * b.results.length →
      (∀ q ∈ b.scratch ++ b.wmark, PieceClears i (a + j) i q) →
      byteAt t i (a + j) = (wordsBytes b.results).getD j 0)
  ∧ (∀ i n, NotDue (.bucketComplete i n) fun s => bucketOf? s i n = none)
  ∧ (∀ i n b, NotDue (.bucketComplete i n) fun s => bucketOf? s i n = some b
      ∧ (b.failing.isSome = true ∨ b.results.length < b.count ∨ bucketReach s b = false))
  ∧ (∀ i n st b, NotDue (.bucketFailure i n st) fun s => bucketOf? s i n = some b ∧ bucketReach s b = false)
  ∧ (∀ i n st s b, bucketOf? s i n = some b → bucketReach s b = true → ∃ t, exec (.bucketFailure i n st) s = .next t ∧ BucketEnded s t i n b
    ∧ RecordStands t i b (List.replicate 32 0) (List.replicate 32 0)
      (BitVec.ofNat 64 (2 ^ 63 + b.failing.getD st * 2 ^ 8 + 0x16)) (ctxOf s i b.ctx).cseq)
  ∧ (∀ i n st, NotDue (.bucketFailure i n st) fun s => bucketOf? s i n = none)
  ∧ (∀ i n s b, bucketOf? s i n = some b → b.since + b.bartime * 1000 ≤ s.panel.ptime → bucketReach s b = true →
    ∃ t, exec (.bucketTimeout i n) s = .next t ∧ BucketEnded s t i n b
    ∧ RecordStands t i b (List.replicate 32 0) (List.replicate 32 0) 0x8000000000001C16 (ctxOf s i b.ctx).cseq)
  ∧ (∀ i n b, NotDue (.bucketTimeout i n) fun s => bucketOf? s i n = some b
      ∧ (s.panel.ptime < b.since + b.bartime * 1000 ∨ bucketReach s b = false))
  ∧ (∀ s b, bucketReach s b = true ↔ hostUp s = true ∨ ∀ p ∈ b.dst ++ b.wmark ++ b.scratch, ∀ a, p.phys = some a → isHost a = false)
  ∧ (∀ i, NotDue (.bucketMessage i) fun s => nextMail s i = none)
  ∧ (∀ i s m, nextMail s i = some m → runningBucket s i m.ctx m.bid = none → ∃ t, exec (.bucketMessage i) s = .next t
    ∧ PanelOnly s t ∧ t.panel.mail = dropFirst (i, m) s.panel.mail)
  ∧ (∀ i (b : Bucket) (m : BucketMsg), mismatched i b m = true ↔ m.bq32 ≠ b.bq32 ∨ m.count ≠ b.count
      ∨ m.source ≠ b.parent ∧ m.source ∉ b.children ∨ m.source ∈ b.children ∧ m.parent ≠ i)
  ∧ (∀ i s m n b, nextMail s i = some m → runningBucket s i m.ctx m.bid = some (n, b) → bucketOf? s i n = some b →
    m.body = .failure → mismatched i b m = false →
    ∃ t b', exec (.bucketMessage i) s = .next t ∧ bucketOf? t i n = some b' ∧ b'.failing = some 0x1E ∧ b'.stray = none)
  ∧ (∀ i s m n b, nextMail s i = some m → runningBucket s i m.ctx m.bid = some (n, b) → bucketOf? s i n = some b →
    m.body ≠ .failure → mismatched i b m = false → aside b m = true →
    ∃ t b', exec (.bucketMessage i) s = .next t ∧ SameMemory s t ∧ bucketOf? t i n = some b'
      ∧ b'.upValues = b.upValues ∧ b'.upScales = b.upScales)
  ∧ (∀ i s m n b, nextMail s i = some m → runningBucket s i m.ctx m.bid = some (n, b) → bucketOf? s i n = some b →
    mismatched i b m = true →
    ∃ t b', exec (.bucketMessage i) s = .next t ∧ bucketOf? t i n = some b' ∧ b'.failing = some 0x1B ∧ b'.stray = some m.source)
  ∧ (∀ i s m n b l, nextMail s i = some m → runningBucket s i m.ctx m.bid = some (n, b) → bucketOf? s i n = some b →
    m.body = .valuesUp l → mismatched i b m = false → aside b m = false →
    ∃ t b', exec (.bucketMessage i) s = .next t ∧ SameMemory s t ∧ bucketOf? t i n = some b'
      ∧ fromChild b'.upValues m.source = fromChild b.upValues m.source ++ l)
  ∧ (∀ i s m n b l, nextMail s i = some m → runningBucket s i m.ctx m.bid = some (n, b) → bucketOf? s i n = some b →
    m.body = .scalesUp l → mismatched i b m = false → aside b m = false →
    ∃ t b', exec (.bucketMessage i) s = .next t ∧ SameMemory s t ∧ bucketOf? t i n = some b'
      ∧ b'.upScales = b.upScales ++ [(m.source, l)])
  ∧ (∀ i s m n b l, nextMail s i = some m → runningBucket s i m.ctx m.bid = some (n, b) → bucketOf? s i n = some b →
    m.body = .scalesDown l → mismatched i b m = false → aside b m = false → isRoot b = false →
    ∃ t b', exec (.bucketMessage i) s = .next t ∧ SameMemory s t ∧ bucketOf? t i n = some b' ∧ b'.downScales = some l)
  ∧ ∀ i s m n b l, nextMail s i = some m → runningBucket s i m.ctx m.bid = some (n, b) → bucketOf? s i n = some b →
    m.body = .result l → mismatched i b m = false → aside b m = false →
    ∃ t b' more, exec (.bucketMessage i) s = .next t ∧ SameMemory s t ∧ bucketOf? t i n = some b'
      ∧ b'.results = b.results ++ l ++ more ∧ (isRoot b = false → more = [])

namespace Sys2Proof.Machine

/-- Only island i is another. -/
def OneIsland (s t : State) (i : Nat) : Prop :=
  t = { s with islands := t.islands } ∧ ∀ j, j ≠ i → tblGet? t.islands j = tblGet? s.islands j

/-- The event, on an island that stands there, changes it alone, and as f says. -/
def IslandBecomes (ev : Instr) (i : Nat) (cond : State → Prop) (f : State → Island → Island) : Prop :=
  ∀ s, Present s i → cond s → ∃ t, exec ev s = .next t ∧ islOf t i = f s (islOf s i) ∧ OneIsland s t i

/-- Every partition that stands on the island's quads is Faulted for the reason, one that is Parked or whose RESTORE is under way
among them, and the other islands are to be told. -/
def AllFaulted (s t : State) (i : Nat) (why : FaultedBy) : Prop :=
  t.groups = s.groups ∧ t.teams = s.teams
  ∧ (∀ c, Standing s i c ∨ stateOf s i c = .parked ∨ stateOf s i c = .saved ∧ (ctxOf s i c).restoring = true →
    stateOf t i c = .faulted ∧ (ctxOf t i c).faultedBy = why ∧ (ctxOf t i c).restoring = false
    ∧ ((ctxOf t i c).captured = true ↔ stateOf s i c = .parked ∨ stateOf s i c = .saved) ∧ (c, i, some why) ∈ t.propagate)
  ∧ ∀ c, stateOf s i c = .faulted → (ctxOf s i c).unseated = false → (ctxOf t i c).faultedBy = why

/-- The island is numbered and not quarantined. -/
def InUse (s : State) (i : Nat) : Prop :=
  Present s i ∧ ((tblGet s.panel.sites (islOf s i).site).state = .ready ∨ (tblGet s.panel.sites (islOf s i).site).state = .assigned)

/-- The event quarantines the island (R17, R18), and once. -/
def Quarantines (ev : Instr) (i : Nat) : Prop :=
  (∀ s, InUse s i → ∃ t, exec ev s = .next t ∧ (tblGet t.panel.sites (islOf s i).site).state = .quarantined
    ∧ AllFaulted s t i .quarantine ∧ (islOf t i).inbox = [] ∧ routedAt t i = [] ∧ ∀ p, (portOf t i p).state = .dark)
  ∧ NotDue ev fun s => ¬InUse s i

/-- The groups of a team as a scrubbed error leaves them: nothing held without scrubbing; with it, UNCORR 0x05 held by each
group that still runs and has room (R421, R327). -/
def ScrubHeld (s t : State) (team : Nat) (scrub : Bool) : Prop :=
  if scrub = false then t.groups = s.groups
  else ∀ k g, tblGet? s.groups k = some g →
    if g.ident.team = team ∧ g.state ≠ .exited ∧ g.held.length < 4 then
      ∃ h, tblGet? t.groups k = some { g with held := g.held ++ [h] } ∧ h.cause.toNat % 65536 = 0x051C
    else g.ident.team ≠ team ∨ g.state = .exited → tblGet? t.groups k = some g

/-- A command of the mailbox that changes the field section as f says, and nothing else (R15, R16). -/
def StoreBecomes (ev : Instr) (cond : State → Prop) (f : Store → Store) : Prop :=
  Fires ev cond (fun s => { s with panel := { s.panel with store := f s.panel.store } }) ∧ NotDue ev fun s => ¬cond s

end Sys2Proof.Machine

/-! ## Errors, monitors, power and clock (R17, R18, R418 to R427) -/

/-- R17, R18, R33, R250, R420 to R422, R424 to R427: what an uncorrectable error reaches, the self-check of the control dies, power
and clock, the periodic samples, the panel bank, and the writes of plain system registers.
That both dies failing leaves the processor stopped is log 47, the bases of system registers log 16, the fields of a
record that nothing names log 31: the model's choices. -/
def Obligations.HealthEventResults : Prop :=
  (∀ i, Quarantines (.fatalIslandEvent i) i) ∧ (∀ i, Quarantines (.overTemperature i) i)
  ∧ (∀ i, Quarantines (.uncorrectableError i .island) i)
  ∧ (∀ i s, ∃ t, exec (.uncorrectableError i .shared) s = .next t ∧ AllFaulted s t i .uncorr)
  ∧ (∀ i s grp kind reg lane sub,
    exec (.uncorrectableError i (.register grp kind reg lane sub)) s = exec (.registerPoison grp kind reg lane sub) s)
  ∧ (∀ i s sec, tblGet? (islOf s i).mem.sectors sec = none →
    exec (.uncorrectableError i (.line sec)) s = exec (.hbmUncorrectableError i sec) s)
  ∧ (∀ i s sec x, tblGet? (islOf s i).mem.sectors sec = some x →
    exec (.uncorrectableError i (.line sec)) s = exec (.bankFailure i x.bank [sec]) s)
  ∧ (∀ i s sec x, tblGet? (islOf s i).mem.sectors sec = some x → failsBank s i x.bank [sec] = false →
    ∃ t, exec (.uncorrectableError i (.line sec)) s = .next t
    ∧ (islOf t i).mem.bankErrors = (islOf s i).mem.bankErrors ++ [(x.bank, some sec, s.panel.ptime)]
    ∧ (∀ q ∈ sectorQuarters sec, marked t i (16 * q) = true) ∧ t.groups = s.groups ∧ t.teams = s.teams)
  ∧ (∀ i s b secs, failsBank s i b secs = true ↔ ∃ e ∈ (islOf s i).mem.bankErrors, e.1 = b
      ∧ (s.panel.ptime ≤ e.2.2 + 1000000000
        ∨ ∃ k ∈ secs, e.2.1 = some k ∧ ∃ q ∈ sectorQuarters k, marked s i (16 * q) = false))
  ∧ (∀ i l1 sec s, Present s i → (tblGet (islOf s i).mem.home sec).ownl = some l1 →
    ∃ t, exec (.uncorrectableError i (.copy l1 sec)) s = .next t ∧ (tblGet (islOf t i).mem.home sec).ownl = none
    ∧ ((tblGet (islOf s i).mem.home sec).wrote = true → ∀ q ∈ sectorQuarters sec, marked t i (16 * q) = true)
    ∧ ((tblGet (islOf s i).mem.home sec).wrote = false → SameMemory s t ∧ ∀ a, marked t i a = marked s i a)
    ∧ t.groups = s.groups ∧ t.teams = s.teams)
  ∧ (∀ i l1 sec s, (tblGet (islOf s i).mem.home sec).ownl ≠ some l1 →
    ∃ t, exec (.uncorrectableError i (.copy l1 sec)) s = .next t ∧ CoresSame s t
    ∧ (∀ a, marked t i a = marked s i a) ∧ (tblGet (islOf t i).mem.home sec).ownl = (tblGet (islOf s i).mem.home sec).ownl
    ∧ l1 ∉ (tblGet (islOf t i).mem.home sec).shr ∧ l1 ∉ (tblGet (islOf t i).mem.home sec).si)
  ∧ (∀ i s team tile word scrub,
    exec (.uncorrectableError i (.team team tile word scrub)) s = exec (.teamMemoryError team tile word scrub) s)
  ∧ (∀ team word scrub s x, tblGet? s.teams team = some x → 32 * word < x.tmem * x.cores.length →
    ∃ t, exec (.teamMemoryError team none word scrub) s = .next t ∧ t.islands = s.islands ∧ t.hostMem = s.hostMem
    ∧ ScrubHeld s t team scrub
    ∧ word ∈ (teamOf t team).dead ∧ (teamOf t team).tiles = x.tiles
    ∧ (∀ a, memGet (teamOf t team).mem a = if a / 32 = word then 0 else memGet x.mem a)
    ∧ ∀ n, n ≠ team → tblGet? t.teams n = tblGet? s.teams n)
  ∧ (∀ team k word scrub s x, tblGet? s.teams team = some x → k / 32 < x.cores.length → k % 32 < x.ntiles → word < 128 →
    ∃ t, exec (.teamMemoryError team (some k) word scrub) s = .next t ∧ t.islands = s.islands ∧ t.hostMem = s.hostMem
    ∧ ScrubHeld s t team scrub
    ∧ word ∈ (tblGet (teamOf t team).tiles k).dead ∧ (teamOf t team).mem = x.mem
    ∧ (∀ e, tblGet (tblGet (teamOf t team).tiles k).elems e = if e / 8 = word then 0 else tblGet (tblGet x.tiles k).elems e)
    ∧ (∀ j, j ≠ k → tblGet? (teamOf t team).tiles j = tblGet? x.tiles j)
    ∧ ∀ n, n ≠ team → tblGet? t.teams n = tblGet? s.teams n)
  ∧ (∀ team tile word scrub, NotDue (.teamMemoryError team tile word scrub) fun s => tblGet? s.teams team = none)
  ∧ NotDue .lockstepMismatch (fun s => s.panel.single = true)
  ∧ Fires .lockstepMismatch (fun s => s.panel.single = false) (fun s =>
    { s with panel := { s.panel with checking := true, checkedSince := some s.panel.ptime } })
  ∧ (∀ ok0 ok1, NotDue (.selfCheckDone ok0 ok1) fun s => s.panel.checking = false)
  ∧ (∀ ok0 ok1, Fires (.selfCheckDone ok0 ok1) (fun s => s.panel.checking = true ∧ (ok0 = true ∨ ok1 = true)) fun s =>
    { s with panel := { s.panel with
      checking := false, checkedSince := none, single := true
      active := if ok0 = ok1 then s.panel.active else if ok1 = true then 1 else 0 } })
  ∧ Fires (.selfCheckDone false false) (fun s => s.panel.checking = true) (fun s =>
    { s with panel := { s.panel with checkedSince := none } })
  ∧ (∀ s, s.panel.checking = true → chooseQueue s = none)
  ∧ (∀ i, IslandBecomes (.powerThrottle i) i everywhere fun s x =>
    if x.pwrlim < Config.watts s.tick ∨ 105 < Config.temperature s.tick % 256 then
      { x with mhz := if 1300 ≤ x.mhz then x.mhz - 100 else 1200, clockStep := s.panel.ptime }
    else x)
  ∧ (∀ i, IslandBecomes (.clockRecoveryStep i) i
    (fun s => (islOf s i).clockStep + 100000 ≤ s.panel.ptime ∧ (islOf s i).mhz ≤ 1900) fun s x =>
    { x with mhz := x.mhz + 100, clockStep := s.panel.ptime })
  ∧ (∀ i, IslandBecomes (.clockRecoveryStep i) i
    (fun s => s.panel.ptime < (islOf s i).clockStep + 100000 ∨ 2000 ≤ (islOf s i).mhz) fun _ x => x)
  ∧ (∀ i w, IslandBecomes (.pwrlimWrite i w) i everywhere fun _ x =>
    { x with pwrlim := if 600 ≤ w.toNat % 2048 ∧ w.toNat % 2048 ≤ 1050 then w.toNat % 2048 else 1050 })
  ∧ (∀ i w, IslandBecomes (.systemRegisterWrite i 0x23 w) i everywhere fun _ x =>
    { x with mem := { x.mem with frqHead := w.toNat % 4096 } })
  ∧ (∀ i w, IslandBecomes (.systemRegisterWrite i 0x2E w) i everywhere fun _ x => { x with ncsel := w.toNat % 65536 })
  ∧ (∀ i w, w.toNat % 2 ^ 19 = 0 → w.toNat < hbmEnd → IslandBecomes (.systemRegisterWrite i 0x22 w) i everywhere fun _ x =>
    { x with mem := { x.mem with frqBase := w.toNat } })
  ∧ (∀ i w, w.toNat % 2 ^ 16 = 0 → w.toNat < hbmEnd → IslandBecomes (.systemRegisterWrite i 0x25 w) i everywhere fun _ x =>
    { x with mem := { x.mem with ctxBase := w.toNat } })
  ∧ (∀ i n w, n ∉ [0x22, 0x23, 0x25, 0x2E] → NotDue (.systemRegisterWrite i n w) everywhere)
  ∧ (∀ i src v s, Present s i → src ≠ 0x31 → islandSample s i src = some v →
    ∃ t, exec (.monitorPeriodicSample i src) s = .next t ∧ OneIsland s t i
    ∧ ∀ n m, tblGet? (islOf s i).monitors n = some m →
      tblGet? (islOf t i).monitors n = some (if m.src = src then enterSample m v else m))
  ∧ (∀ i s, islandSample s i 0x20 = some (frqCount (islOf s i).mem) ∧ islandSample s i 0x21 = some (islOf s i).mem.locks.length
    ∧ (∃ v, islandSample s i 0x30 = some v)
    ∧ ∀ p, p < 12 → ((islandSample s i (0x10 + p)).isSome = linkOpen (portOf s i p)))
  ∧ (∀ i s, Present s i → ∃ t, exec (.monitorPeriodicSample i 0x31) s = .next t ∧ OneIsland s t i
    ∧ ∀ n m, tblGet? (islOf s i).monitors n = some m →
      if m.src = 0x31 ∧ (m.owner = 0xFFFF ∨ ctxRuns s i m.owner = true) then
        ∃ v, tblGet? (islOf t i).monitors n = some (enterSample m v)
      else tblGet? (islOf t i).monitors n = some m)
  ∧ (∀ (m : Monitor) v,
    let x := enterSample m v
    let u := min v (2 ^ 32 - 1)
    let j := if u < m.base then 0 else min 15 ((u - m.base) / 2 ^ m.sh)
    x.count = min (m.count + 1) (2 ^ 64 - 1) ∧ x.sum = min (m.sum + u) (2 ^ 64 - 1) ∧ x.min = min m.min u ∧ x.max = max m.max u
    ∧ tblGet x.bins j = min (tblGet m.bins j + 1) (2 ^ 32 - 1) ∧ ∀ k, k ≠ j → tblGet x.bins k = tblGet m.bins k)
  ∧ (∀ mon w s, mon < 256 → registersExposed s = true → ∃ t, exec (.panelMonitorCfgWrite mon w) s = .next t ∧ PanelOnly s t
    ∧ tblGet t.panel.monitors mon =
      { src := if (w.toNat % 256 = 0 ∨ w.toNat % 256 = 0x40) ∧ w.toNat / 2 ^ 8 % 8 = 0 then w.toNat % 256 else 0
        base := w.toNat / 2 ^ 16 % 2 ^ 32, sh := w.toNat / 2 ^ 11 % 32, owner := 0xFFFF }
    ∧ ∀ n, n ≠ mon → tblGet? t.panel.monitors n = tblGet? s.panel.monitors n)
  ∧ (∀ mon w, NotDue (.panelMonitorCfgWrite mon w) fun s => 256 ≤ mon ∨ registersExposed s = false)
  ∧ (∀ mon s m, tblGet? s.panel.monitors mon = some m → registersExposed s = true → ∃ t, exec (.panelMonitorClrWrite mon) s = .next t ∧ PanelOnly s t
    ∧ tblGet? t.panel.monitors mon = some { src := m.src, base := m.base, sh := m.sh, owner := m.owner }
    ∧ ∀ n, n ≠ mon → tblGet? t.panel.monitors n = tblGet? s.panel.monitors n)
  ∧ (∀ mon, NotDue (.panelMonitorClrWrite mon) fun s => tblGet? s.panel.monitors mon = none ∨ registersExposed s = false)
  ∧ ∀ s mon,
    let m := tblGet s.panel.monitors mon
    let r := fun (o : Nat) => panelBankRead s (0x20000 + 256 * mon + o)
    mon < 256 → r 0 = 0xFFFF * 2 ^ 48 + m.base % 2 ^ 32 * 2 ^ 16 + m.sh % 32 * 2 ^ 11 + m.src % 256 ∧ r 0x08 = m.min
    ∧ r 0x10 = m.max ∧ r 0x18 = m.count ∧ r 0x20 = m.sum ∧ (∀ k, k < 16 → r (0x40 + 4 * k) = tblGet m.bins k)
    ∧ ∀ o, 0x28 ≤ o → o < 256 → o < 0x40 ∨ 0x80 ≤ o → r o = 0

namespace Sys2Proof.Machine

/-- Boot stands at a stage, with what its own checks find. -/
def Booting (s : State) (f : BootFindings) (k : Nat) : Prop := s.panel.boot = some { found := f, stage := k }

/-- The state with another panel. -/
def withPanel (s : State) (p : Panel) : State := { s with panel := p }

/-- The panel after a stage of boot that ends well. -/
def nextStage (f : BootFindings) (k : Nat) (p : Panel) : Panel := { p with boot := some { found := f, stage := k + 1 } }

end Sys2Proof.Machine

/-! ## Boot and the mailbox (R14 to R26, R451) -/

/-- R13, R15 to R17, R19, R20, R22, R23, R25, R26, R451: power good, the stages in which boot brings the panel to its phase with
its islands numbered, or halts it with its error; attestation; and the commands that change the field section.
A stage passes with each step (log 39); what a boot keeps, and the bytes a command signs, are the choices of logs 39 and 40;
cryptography is opaque (log 10). -/
def Obligations.BootResults : Prop :=
  (∀ f s, ∃ t, exec (.powerGood f) s = .next t ∧ t.islands = [] ∧ t.groups = [] ∧ t.teams = [] ∧ t.cur = none
    ∧ t.hostMem = s.hostMem ∧ t.panel.ptime = s.panel.ptime ∧ t.panel.phase = 0 ∧ t.panel.ncount = 0 ∧ t.panel.error = 0
    ∧ t.panel.store = s.panel.shelved.getD s.panel.store ∧ Booting t f 0)
  ∧ (∀ s, s.panel.boot = none → bootOn s = s)
  ∧ (∀ f s, Booting s f 0 → bootOn s = withPanel s
      (if f.fw0 = false ∧ f.fw1 = false then { s.panel with phase := 0xFF, error := 1, boot := none }
       else nextStage f 0 { s.panel with phase := 1, single := !(f.fw0 && f.fw1), active := if f.fw0 = true then 0 else 1 }))
  ∧ (∀ f s, Booting s f 1 → bootOn s = withPanel s
      (if f.factoryOk = false then { s.panel with phase := 0xFF, error := 2, boot := none }
       else if f.fieldOk = false then nextStage f 1 { s.panel with
         phase := 2, error := 4, rejected := true, number := 0, store := factoryOnly s.panel.store, shelved := some s.panel.store }
       else nextStage f 1 { s.panel with phase := 2, error := 0, rejected := false, number := s.panel.store.number, shelved := none }))
  ∧ (∀ f s, Booting s f 2 →
    let t := bootOn s
    Booting t f 3 ∧ PanelOnly s t ∧ t.panel.phase = 3 ∧ t.panel.store = s.panel.store
    ∧ ∀ p, p < 64 → (tblGet t.panel.sites p).state =
      if p ∉ s.panel.store.populated then .unpopulated
      else if p ∈ s.panel.store.disabled ∨ p ∈ s.panel.store.sites then .disabled else .probing)
  ∧ (∀ f s, Booting s f 3 →
    let t := bootOn s
    let v : Survey := { store := t.panel.store, found := f }
    Booting t f 4 ∧ PanelOnly s t ∧ t.panel.phase = 4
    ∧ (∀ b, b ∈ t.panel.store.banks ↔ b ∈ s.panel.store.banks ∨ b ∈ f.banks)
    ∧ (∀ q, q ∈ t.panel.store.ports ↔ q ∈ s.panel.store.ports ∨ q ∈ f.ports)
    ∧ ∀ p, p < 64 → probed v p = true → if healthySite v p = true then (tblGet t.panel.sites p).state = .probing
      else (tblGet t.panel.sites p).state = .quarantined ∧ (p, QuarantineReason.notHealthy) ∈ t.panel.store.reasons)
  ∧ (∀ v p, healthySite v p = true → p ∈ v.store.populated ∧ p ∉ v.store.disabled ∧ p ∉ v.store.sites
    ∧ ((List.range 66).filter (quadBad v.store p)).length ≤ 2 ∧ (∀ h ∈ v.found.hbm, h.1 ≠ p) ∧ (∀ u ∈ v.found.ucie, u.1 ≠ p)
    ∧ ((List.range 18).filter (rowBad v.store p)).length ≤ 2 ∧ ∀ d, d < 12 → guidesCovered v.store p d = true)
  ∧ (∀ f s,
    let v : Survey := { store := s.panel.store, found := f }
    let ns := numbering v
    let t := bootOn s
    Booting s f 4 → ns.Pairwise (· < ·) ∧ (∀ p ∈ ns, p < 64 ∧ healthySite v p = true) ∧ t.panel.ncount = ns.length
    ∧ (ns = [] → t.islands = [] ∧ t.panel.phase = 0xFF ∧ t.panel.error = 3 ∧ t.panel.boot = none)
    ∧ (ns ≠ [] → t.panel.phase = 5 ∧ t.panel.error = s.panel.error ∧ Booting t f 5)
    ∧ (∀ n, ns.length ≤ n → tblGet? t.islands n = none)
    ∧ (∀ p, p < 64 → p ∉ ns → (tblGet t.panel.sites p).state =
      if p ∉ s.panel.store.populated then .unpopulated else if probed v p = true then .quarantined else .disabled)
    ∧ (∀ p, p < 64 → p ∉ ns → healthySite v p = true → (p, QuarantineReason.unreachable) ∈ t.panel.store.reasons)
    ∧ ∀ n, n < ns.length →
      let p := ns.getD n 0
      (islOf t n).site = p ∧ (islOf t n).quads = ((List.range 66).filter fun q => !quadBad s.panel.store p q).take 64
      ∧ tblGet t.panel.sites p = { state := .ready, logical := some n }
      ∧ (∀ d, d < 4 → portOf t n d = meshPort v ns s.panel.ptime p d)
      ∧ ∀ d, 4 ≤ d → d < 12 → let e := lightEnds t p d
        (portOf t n d).peer = e.2 ∧ (portOf t n d).edge = e.1.isSome
        ∧ (portOf t n d).state = if e.2.isSome = true ∧ (p, d) ∉ t.panel.store.ports then .training else .dark)
  ∧ (∀ f s, Booting s f 5 →
    let t := bootOn s
    Booting t f 6 ∧ t.panel.phase = s.panel.phase ∧ ∀ i d, Present s i → 4 ≤ d → (tblGet? (islOf s i).ports d).isSome = true →
      if (portOf s i d).edge = true ∧ (portOf s i d).state = .dark ∧ ((islOf s i).site, d) ∉ s.panel.store.ports then
        (portOf t i d).state = .training ∧ (portOf t i d).since = s.panel.ptime
      else portOf t i d = portOf s i d)
  ∧ (∀ f s, Booting s f 6 → bootOn s = if edgeTraining s = true then s
      else withPanel s (nextStage f 6 { s.panel with phase := 6 }))
  ∧ (∀ f s, Booting s f 7 → bootOn s = { s with panel := { s.panel with phase := 7, boot := none } })
  ∧ (∀ p : Panel, p.phase < 256 → p.ncount < 256 → p.error < 256 → bootst p < 2 ^ 32 ∧ bootst p / 2 ^ 24 = p.phase
    ∧ bootst p / 2 ^ 16 % 256 = p.ncount ∧ bootst p / 2 ^ 8 % 256 = p.error ∧ bootst p % 256 = if p.single = true then 1 else 0)
  ∧ (∀ nonce, NotDue (.attestationRequest nonce) fun s => s.panel.phase = 0)
  ∧ (∀ nonce s, s.panel.phase ≠ 0 → nonce.length = 32 → ∃ t r, exec (.attestationRequest nonce) s = .next t
    ∧ t = { s with panel := { s.panel with report := r } } ∧ r.take 32 = nonce
    ∧ (r.drop 32).take 4 = leBytes (s.panel.number % 1024 + s.panel.ncount * 2 ^ 16) 4
    ∧ (r.drop 36).take 16 = leBytes (siteMap s.panel) 16
    ∧ (r.drop 52).take 4 = leBytes ((if s.panel.rejected = true then 1 else 0) + (if s.panel.single = true then 2 else 0)
      + if s.panel.store.owners = [] then 4 else 0) 4)
  ∧ (∀ key, Fires (.claim key) (fun s => s.panel.phase ≠ 0 ∧ s.panel.store.owners = []) fun s =>
    let st := if s.panel.shelved = none then s.panel.store else factoryOnly s.panel.store
    { s with panel := { s.panel with store := { st with owners := [key] }, shelved := none } })
  ∧ (∀ key, NotDue (.claim key) fun s => s.panel.phase = 0 ∨ s.panel.store.owners ≠ [])
  ∧ (∀ key k sig, StoreBecomes (.ownerKeyChange true key k sig) (fun s => ownerSigned s 0 key k sig = true) fun st =>
    { st with owners := if key ∈ st.owners ∨ 8 ≤ st.owners.length then st.owners else st.owners ++ [key] })
  ∧ (∀ key k sig, StoreBecomes (.ownerKeyChange false key k sig) (fun s => ownerSigned s 1 key k sig = true) fun st =>
    { st with owners := st.owners.filter (· ≠ key) })
  ∧ (∀ key k sig, StoreBecomes (.peerKeyAdd key k sig) (fun s => ownerSigned s 2 key k sig = true) fun st =>
    { st with peers := if key ∈ st.peers ∨ 64 ≤ st.peers.length then st.peers else st.peers ++ [key] })
  ∧ (∀ key k sig, StoreBecomes (.peerKeyRemove key k sig) (fun s => ownerSigned s 3 key k sig = true) fun st =>
    { st with peers := st.peers.filter (· ≠ key) })
  ∧ (∀ n k sig, StoreBecomes (.panelNumberChange n k sig)
    (fun s => n < 1024 ∧ ownerSigned s 4 (leBytes n 2) k sig = true) fun st => { st with number := n })
  ∧ ∀ s kind arg k sig, s.panel.phase = 0 ∨ k ∉ s.panel.store.owners → ownerSigned s kind arg k sig = false
end

