-- ==== Sys2Proof/Laws/Memory.lean ====
section
/-! SUPPORT. Tables and byte memories: read after write, and the canonical form that every operation keeps. -/

namespace Sys2Proof.Laws

open Sys2Proof Sys2Proof.Machine

/-! ## Tables: read after write -/

@[simp] theorem tblGet?_set_same {α : Type} (t : Tbl α) (k : Nat) (v : α) : tblGet? (tblSet t k v) k = some v := by
  induction t with
  | nil => simp [tblSet, tblGet?]
  | cons p t ih =>
    obtain ⟨k', v'⟩ := p
    unfold tblSet
    split
    · simp [tblGet?]
    · split
      · simp [tblGet?]
      · have : k' ≠ k := by omega
        simp [tblGet?, this, ih]

theorem tblGet?_set_other {α : Type} (t : Tbl α) {k j : Nat} (v : α) (h : j ≠ k) : tblGet? (tblSet t k v) j = tblGet? t j := by
  induction t with
  | nil => simp [tblSet, tblGet?, Ne.symm h]
  | cons p t ih =>
    obtain ⟨k', v'⟩ := p
    unfold tblSet
    split
    · simp [tblGet?, Ne.symm h]
    · split
      · subst k; simp [tblGet?, Ne.symm h]
      · simp [tblGet?, ih]

@[simp] theorem tblGet?_del_same {α : Type} (t : Tbl α) (k : Nat) : tblGet? (tblDel t k) k = none := by
  induction t with
  | nil => rfl
  | cons p t ih =>
    obtain ⟨k', v'⟩ := p
    unfold tblDel
    split
    · exact ih
    · simp [tblGet?, *]

theorem tblGet?_del_other {α : Type} (t : Tbl α) {k j : Nat} (h : j ≠ k) : tblGet? (tblDel t k) j = tblGet? t j := by
  induction t with
  | nil => rfl
  | cons p t ih =>
    obtain ⟨k', v'⟩ := p
    unfold tblDel
    split
    · subst k; simp [tblGet?, Ne.symm h, ih]
    · simp [tblGet?, ih]

@[simp] theorem tblGet_set_same {α : Type} [Inhabited α] (t : Tbl α) (k : Nat) (v : α) : tblGet (tblSet t k v) k = v := by
  simp [tblGet]

theorem tblGet_set_other {α : Type} [Inhabited α] (t : Tbl α) {k j : Nat} (v : α) (h : j ≠ k) :
    tblGet (tblSet t k v) j = tblGet t j := by
  simp [tblGet, tblGet?_set_other t v h]

theorem tblGet?_adj_same {α : Type} (t : Tbl α) (k : Nat) (f : α → α) : tblGet? (tblAdj t k f) k = (tblGet? t k).map f := by
  unfold tblAdj
  split <;> simp [*]

theorem tblGet?_adj_other {α : Type} (t : Tbl α) {k j : Nat} (f : α → α) (h : j ≠ k) : tblGet? (tblAdj t k f) j = tblGet? t j := by
  unfold tblAdj
  split
  · exact tblGet?_set_other t _ h
  · rfl

/-- An entry of a changed table is the new one or an old one. -/
theorem mem_tblSet {α : Type} {t : Tbl α} {k : Nat} {v : α} {p : Nat × α} (h : p ∈ tblSet t k v) : p = (k, v) ∨ p ∈ t := by
  induction t with
  | nil => simpa [tblSet] using h
  | cons q t ih =>
    obtain ⟨k', v'⟩ := q
    unfold tblSet at h
    split at h
    · simpa using h
    · split at h
      · rcases List.mem_cons.1 h with h | h
        · exact .inl h
        · exact .inr (List.mem_cons_of_mem _ h)
      · rcases List.mem_cons.1 h with h | h
        · exact .inr (h ▸ List.mem_cons_self)
        · exact (ih h).imp_right (List.mem_cons_of_mem _)

theorem mem_of_tblGet? {α : Type} {t : Tbl α} {k : Nat} {v : α} (h : tblGet? t k = some v) : (k, v) ∈ t := by
  induction t with
  | nil => simp [tblGet?] at h
  | cons q t ih =>
    obtain ⟨k', v'⟩ := q
    unfold tblGet? at h
    split at h
    · simp_all
    · exact List.mem_cons_of_mem _ (ih h)

theorem mem_tblDel {α : Type} {t : Tbl α} {k : Nat} {p : Nat × α} (h : p ∈ tblDel t k) : p ∈ t := by
  induction t with
  | nil => exact h
  | cons q t ih =>
    obtain ⟨k', v'⟩ := q
    unfold tblDel at h
    split at h
    · exact List.mem_cons_of_mem _ (ih h)
    · rcases List.mem_cons.1 h with h | h
      · exact h ▸ List.mem_cons_self
      · exact List.mem_cons_of_mem _ (ih h)

/-! ## Sorted tables -/

/-- Sorted: every later key is greater. -/
theorem tblSorted_iff {α : Type} (t : Tbl α) : tblSorted t = true ↔ t.Pairwise fun p q => p.1 < q.1 := by
  induction t with
  | nil => simp [tblSorted]
  | cons p t ih =>
    obtain ⟨k, v⟩ := p
    cases t with
    | nil => simp [tblSorted]
    | cons q t =>
      obtain ⟨k', v'⟩ := q
      simp only [tblSorted, Bool.and_eq_true, decide_eq_true_eq, ih, List.pairwise_cons, List.mem_cons, forall_eq_or_imp]
      constructor
      · rintro ⟨h, h1, h2⟩
        exact ⟨⟨h, fun a ha => Nat.lt_trans h (h1 a ha)⟩, h1, h2⟩
      · rintro ⟨⟨h, -⟩, h1, h2⟩
        exact ⟨h, h1, h2⟩

theorem tblSet_sorted {α : Type} {t : Tbl α} (k : Nat) (v : α) (h : tblSorted t = true) : tblSorted (tblSet t k v) = true := by
  rw [tblSorted_iff] at h ⊢
  induction t with
  | nil => simp [tblSet]
  | cons p t ih =>
    obtain ⟨k', v'⟩ := p
    rw [List.pairwise_cons] at h
    unfold tblSet
    split
    · rename_i hk
      refine List.pairwise_cons.2 ⟨fun q hq => ?_, List.pairwise_cons.2 h⟩
      rcases List.mem_cons.1 hq with rfl | hq
      · exact hk
      · exact Nat.lt_trans hk (h.1 q hq)
    · split
      · subst k; exact List.pairwise_cons.2 ⟨fun q hq => h.1 q hq, h.2⟩
      · refine List.pairwise_cons.2 ⟨fun q hq => ?_, ih h.2⟩
        rcases mem_tblSet hq with rfl | hq
        · show k' < k; omega
        · exact h.1 q hq

theorem tblDel_sorted {α : Type} {t : Tbl α} (k : Nat) (h : tblSorted t = true) : tblSorted (tblDel t k) = true := by
  rw [tblSorted_iff] at h ⊢
  induction t with
  | nil => simp [tblDel]
  | cons p t ih =>
    obtain ⟨k', v'⟩ := p
    rw [List.pairwise_cons] at h
    unfold tblDel
    split
    · exact ih h.2
    · exact List.pairwise_cons.2 ⟨fun q hq => h.1 q (mem_tblDel hq), ih h.2⟩

/-! ## The canonical form of memory (log 2) -/

theorem wf_iff (m : Memory) : m.wf = true ↔ tblSorted m = true ∧ ∀ c ∈ m, c.2 ≠ 0#8 := by
  simp [Memory.wf]

theorem memSet_wf {m : Memory} (a : Nat) (b : Byte) (h : m.wf = true) : (memSet m a b).wf = true := by
  rw [wf_iff] at h ⊢
  unfold memSet
  split
  · exact ⟨tblDel_sorted a h.1, fun c hc => h.2 c (mem_tblDel hc)⟩
  · refine ⟨tblSet_sorted a b h.1, fun c hc => ?_⟩
    rcases mem_tblSet hc with rfl | hc
    · assumption
    · exact h.2 c hc

theorem memPut_wf {m : Memory} (a : Nat) (bs : List Byte) (h : m.wf = true) : (memPut m a bs).wf = true := by
  induction bs generalizing m a with
  | nil => exact h
  | cons b bs ih => exact ih (a + 1) (memSet_wf a b h)

theorem memPutNat_wf {m : Memory} (a x n : Nat) (h : m.wf = true) : (memPutNat m a x n).wf = true := memPut_wf a _ h

theorem mem_cellsFrom {a : Nat} {bs : List Byte} {c : Nat × Byte} (h : c ∈ cellsFrom a bs) :
    a ≤ c.1 ∧ c.1 < a + bs.length ∧ c.2 ≠ 0#8 := by
  induction bs generalizing a with
  | nil => simp [cellsFrom] at h
  | cons b bs ih =>
    unfold cellsFrom at h
    rw [List.length_cons]
    split at h
    · have := ih h; exact ⟨by omega, by omega, this.2.2⟩
    · rcases List.mem_cons.1 h with rfl | h
      · exact ⟨Nat.le_refl _, by omega, by assumption⟩
      · have := ih h; exact ⟨by omega, by omega, this.2.2⟩

theorem cellsFrom_sorted (a : Nat) (bs : List Byte) : (cellsFrom a bs).Pairwise fun p q => p.1 < q.1 := by
  induction bs generalizing a with
  | nil => simp [cellsFrom]
  | cons b bs ih =>
    unfold cellsFrom
    split
    · exact ih (a + 1)
    · refine List.pairwise_cons.2 ⟨fun q hq => ?_, ih (a + 1)⟩
      have := mem_cellsFrom hq
      show a < q.1; omega

theorem memBlit_wf {m : Memory} (a : Nat) (bs : List Byte) (h : m.wf = true) : (memBlit m a bs).wf = true := by
  rw [wf_iff, tblSorted_iff] at h ⊢
  unfold memBlit
  refine ⟨?_, fun c hc => ?_⟩
  · rw [List.append_assoc, List.pairwise_append, List.pairwise_append]
    refine ⟨h.1.filter _, ⟨cellsFrom_sorted a bs, h.1.filter _, fun p hp q hq => ?_⟩, fun p hp q hq => ?_⟩
    · have := mem_cellsFrom hp
      have := (List.mem_filter.1 hq).2
      simp only [decide_eq_true_eq] at this
      omega
    · have := (List.mem_filter.1 hp).2
      simp only [decide_eq_true_eq] at this
      rcases List.mem_append.1 hq with hq | hq
      · have := mem_cellsFrom hq; omega
      · have := (List.mem_filter.1 hq).2
        simp only [decide_eq_true_eq] at this
        omega
  · simp only [List.mem_append, List.mem_filter] at hc
    rcases hc with (hc | hc) | hc
    · exact h.2 c hc.1
    · exact (mem_cellsFrom hc).2.2
    · exact h.2 c hc.1

/-! ## Bytes: read after write -/

@[simp] theorem memGet_set_same (m : Memory) (a : Nat) (b : Byte) : memGet (memSet m a b) a = b := by
  unfold memSet memGet
  split <;> simp [*]

theorem memGet_set_other (m : Memory) {a j : Nat} (b : Byte) (h : j ≠ a) : memGet (memSet m a b) j = memGet m j := by
  unfold memSet memGet
  split
  · rw [tblGet?_del_other m h]
  · rw [tblGet?_set_other m b h]

theorem memGet_put_outside (m : Memory) (a j : Nat) (bs : List Byte) (h : j < a ∨ a + bs.length ≤ j) :
    memGet (memPut m a bs) j = memGet m j := by
  induction bs generalizing m a with
  | nil => rfl
  | cons b bs ih =>
    rw [List.length_cons] at h
    exact (ih (memSet m a b) (a + 1) (by omega)).trans (memGet_set_other m b (by omega))

theorem memGet_put_inside (m : Memory) (a : Nat) (bs : List Byte) (k : Nat) (h : k < bs.length) :
    memGet (memPut m a bs) (a + k) = bs[k] := by
  induction bs generalizing m a k with
  | nil => simp at h
  | cons b bs ih =>
    cases k with
    | zero =>
      show memGet (memPut (memSet m a b) (a + 1) bs) a = b
      rw [memGet_put_outside _ _ _ _ (by omega), memGet_set_same]
    | succ k =>
      have := ih (memSet m a b) (a + 1) k (by simpa using h)
      rw [show a + (k + 1) = a + 1 + k by omega]
      simpa [memPut] using this

/-- The bytes just written are the bytes read. -/
theorem memBytes_put (m : Memory) (a : Nat) (bs : List Byte) : memBytes (memPut m a bs) a bs.length = bs := by
  apply List.ext_getElem
  · have : ∀ (m : Memory) (a n : Nat), (memBytes m a n).length = n := by
      intro m a n
      induction n generalizing a with
      | zero => rfl
      | succ n ih => simp [memBytes, ih]
    exact this _ _ _
  · intro k h1 h2
    have get : ∀ (m : Memory) (a n k : Nat) (h : k < (memBytes m a n).length), (memBytes m a n)[k] = memGet m (a + k) := by
      intro m a n
      induction n generalizing a with
      | zero => intro k h; simp [memBytes] at h
      | succ n ih =>
        intro k h
        cases k with
        | zero => rfl
        | succ k =>
          simp only [memBytes, List.getElem_cons_succ]
          rw [ih (a + 1) k (by simpa [memBytes] using h)]
          congr 1; omega
    rw [get, memGet_put_inside m a bs k h2]

end Sys2Proof.Laws
end

