-- ==== Sys2Proof/Laws/Operands.lean ====
section
/-! SUPPORT. Reading the register file after writing it. -/

namespace Sys2Proof.Laws

open Sys2Proof Sys2Proof.Machine

/-! ## Masks and rows -/

theorem lt_of_inMask {m : Mask} {l : Nat} (h : inMask m l = true) : l < 64 := by
  by_contra hl
  simp [inMask, BitVec.getLsbD_of_ge m l (by omega)] at h

@[simp] theorem inMask_and (a b : Mask) (l : Nat) : inMask (a &&& b) l = (inMask a l && inMask b l) := by
  simp [inMask]

@[simp] theorem inMask_or (a b : Mask) (l : Nat) : inMask (a ||| b) l = (inMask a l || inMask b l) := by
  simp [inMask]

theorem inMask_not {a : Mask} {l : Nat} (h : l < 64) : inMask (~~~a) l = !inMask a l := by
  simp [inMask, h]

theorem row_getD (f : Nat → Word) {l : Nat} (h : l < 64) : (lanes64.map f).getD l 0 = f l := by
  simp [lanes64, List.getD_eq_getElem?_getD, h]

/-- A lane is in the mask of a function exactly where the function holds. -/
theorem inMask_maskOf (f : Nat → Bool) {l : Nat} (h : l < 64) : inMask (maskOf f) l = f l := by
  have key : ∀ n, n ≤ 64 → inMask ((List.range n).foldl
      (fun (acc : Mask) l => if f l then acc ||| (1#64 <<< l) else acc) 0#64) l = (decide (l < n) && f l) := by
    intro n
    induction n with
    | zero => intro _; simp [inMask]
    | succ n ih =>
      intro hn
      have ih := ih (by omega)
      rw [List.range_succ, List.foldl_append]
      simp only [List.foldl_cons, List.foldl_nil]
      by_cases hl : l = n
      · subst hl
        cases hf : f l
        · simp [ih, hf]
        · simp [inMask, h]
      · have hd : decide (l < n + 1) = decide (l < n) := by
          by_cases l < n <;> simp [*] <;> omega
        rw [hd]
        by_cases hf : f n
        · have : inMask (1#64 <<< n) l = false := by
            simp only [inMask, BitVec.getLsbD_shiftLeft, h, decide_true, Bool.true_and]
            by_cases hlt : l < n
            · simp [hlt]
            · simp [hlt]; omega
          rw [if_pos hf, inMask_or, ih, this, Bool.or_false]
        · rw [if_neg hf, ih]
  have := key 64 (by omega)
  rw [decide_eq_true h, Bool.true_and] at this
  exact this

/-! ## V -/

theorem readV_writeV_same (g : Regs) (r : Nat) (m : Mask) (f : Nat → Word) {l : Nat} (h : l < 64) :
    readV (writeV g r m f) r l = if inMask m l then f l else readV g r l := by
  unfold readV writeV
  simp only [tblGet_set_same]
  exact row_getD _ h

theorem readV_writeV_other (g : Regs) {r j : Nat} (m : Mask) (f : Nat → Word) (l : Nat) (h : j ≠ r) :
    readV (writeV g r m f) j l = readV g j l := by
  unfold readV writeV
  simp only [tblGet_set_other _ _ h]

/-- The marks of V[r] after a write of its lanes m. -/
theorem badV_writeV_same (g : Regs) (r : Nat) (m : Mask) (f : Nat → Word) :
    tblGet (writeV g r m f).badV r = { lo := (tblGet g.badV r).lo &&& ~~~m, hi := (tblGet g.badV r).hi &&& ~~~m } := by
  unfold writeV
  simp only [tblGet, tblGet?_adj_same]
  cases tblGet? g.badV r with
  | none =>
    show (default : VMark) = _
    simp [show (default : VMark) = { lo := 0, hi := 0 } from rfl]
  | some b => rfl

theorem badV_writeV_other (g : Regs) {r j : Nat} (m : Mask) (f : Nat → Word) (h : j ≠ r) :
    tblGet (writeV g r m f).badV j = tblGet g.badV j := by
  unfold writeV
  simp only [tblGet, tblGet?_adj_other _ _ h]

/-- A write of lanes k of V[d] changes only those. -/
theorem onlyV_writeV (g : Regs) (d : Nat) (k : Mask) (f : Nat → Word) : OnlyV g (writeV g d k f) d 1 k := by
  constructor
  · intro r l hl h
    by_cases hr : r = d
    · subst hr
      have hk : inMask k l = false := by
        rcases h with h | h | h
        · omega
        · omega
        · exact h
      rw [readV_writeV_same _ _ _ _ hl, badV_writeV_same]
      simp [hk, inMask_not hl]
    · rw [readV_writeV_other _ _ _ _ hr, badV_writeV_other _ _ _ hr]
      exact ⟨rfl, rfl, rfl⟩
  · intro r l h1 h2 hk
    have hr : r = d := by omega
    subst hr
    rw [badV_writeV_same]
    simp [inMask_not (lt_of_inMask hk), hk]

/-- Two writes to neighbouring spans. -/
theorem OnlyV.trans {g h j : Regs} {d n e : Nat} {k : Mask} (a : OnlyV g h d n k) (b : OnlyV h j (d + n) e k) :
    OnlyV g j d (n + e) k := by
  constructor
  · intro r l hl hx
    have h1 : r < d ∨ d + n ≤ r ∨ inMask k l = false := by
      rcases hx with hx | hx | hx
      · exact .inl hx
      · exact .inr (.inl (by omega))
      · exact .inr (.inr hx)
    have h2 : r < d + n ∨ d + n + e ≤ r ∨ inMask k l = false := by
      rcases hx with hx | hx | hx
      · exact .inl (by omega)
      · exact .inr (.inl (by omega))
      · exact .inr (.inr hx)
    obtain ⟨p1, p2, p3⟩ := a.kept r l hl h1
    obtain ⟨q1, q2, q3⟩ := b.kept r l hl h2
    exact ⟨q1.trans p1, q2.trans p2, q3.trans p3⟩
  · intro r l h1 h2 hk
    by_cases hr : r < d + n
    · obtain ⟨-, q2, q3⟩ := b.kept r l (lt_of_inMask hk) (.inl hr)
      obtain ⟨p2, p3⟩ := a.clean r l h1 hr hk
      exact ⟨q2.trans p2, q3.trans p3⟩
    · exact b.clean r l (by omega) (by omega) hk

theorem onlyV_writePair (g : Regs) (d : Nat) (k : Mask) (f : Nat → Nat) : OnlyV g (writePair g d k f) d 2 k :=
  OnlyV.trans (onlyV_writeV g d k _) (onlyV_writeV _ (d + 1) k _)

theorem onlyV_wrv (g : Regs) (d : Nat) (k : Mask) (m : BitVec 2) (f : Nat → Int) :
    OnlyV g (wrv g d k m f) d (if m.toNat < 2 then 1 else 2) k := by
  unfold wrv
  split
  · exact onlyV_writeV ..
  · exact onlyV_writePair ..

/-- What a pair reads after it is written. -/
theorem readPair_writePair (g : Regs) (d : Nat) (k : Mask) (f : Nat → Nat) {l : Nat} (h : inMask k l = true) :
    readPair (writePair g d k f) d l = f l % 2 ^ 64 := by
  have hl := lt_of_inMask h
  have e1 : readV (writePair g d k f) d l = bv 32 (f l) := by
    unfold writePair
    rw [readV_writeV_other _ _ _ _ (by omega), readV_writeV_same _ _ _ _ hl, if_pos h]
  have e2 : readV (writePair g d k f) (d + 1) l = bv 32 (f l / 2 ^ 32) := by
    unfold writePair
    rw [readV_writeV_same _ _ _ _ hl, if_pos h]
  unfold readPair
  rw [e1, e2]
  simp only [BitVec.toNat_ofNat]
  omega

theorem wrap_lt (x : Int) (n : Nat) : wrap x n < 2 ^ n := by
  unfold wrap
  have h : (0 : Int) < (2 ^ n : Nat) := by exact_mod_cast Nat.two_pow_pos n
  have h1 := Int.emod_lt_of_pos x h
  have h2 := Int.emod_nonneg x (Int.ne_of_gt h)
  omega

/-- RDV of what WRV wrote (R101). -/
theorem rdvBits_wrv (g : Regs) (d : Nat) (k : Mask) (m : BitVec 2) (f : Nat → Int) {l : Nat} (h : inMask k l = true) :
    rdvBits (wrv g d k m f) d l m = wrap (f l) (laneWid m) := by
  have hl := lt_of_inMask h
  unfold rdvBits wrv laneWid
  split
  · rw [readV_writeV_same _ _ _ _ hl, if_pos h]
    simpa using Nat.mod_eq_of_lt (wrap_lt (f l) 32)
  · rw [readPair_writePair _ _ _ _ h]
    exact Nat.mod_eq_of_lt (wrap_lt (f l) 64)

@[simp] theorem writeV_s (g : Regs) (r : Nat) (m : Mask) (f : Nat → Word) : (writeV g r m f).s = g.s := rfl
@[simp] theorem writeV_p (g : Regs) (r : Nat) (m : Mask) (f : Nat → Word) : (writeV g r m f).p = g.p := rfl
@[simp] theorem writeV_c (g : Regs) (r : Nat) (m : Mask) (f : Nat → Word) : (writeV g r m f).c = g.c := rfl
@[simp] theorem writeV_t (g : Regs) (r : Nat) (m : Mask) (f : Nat → Word) : (writeV g r m f).t = g.t := rfl

/-- A write of V leaves the other files. -/
theorem writeV_rest (g : Regs) (r : Nat) (m : Mask) (f : Nat → Word) :
    SameP g (writeV g r m f) ∧ SameUniform g (writeV g r m f) := ⟨⟨rfl, rfl⟩, rfl, rfl, rfl, rfl, rfl⟩

theorem wrv_rest (g : Regs) (d : Nat) (k : Mask) (m : BitVec 2) (f : Nat → Int) :
    SameP g (wrv g d k m f) ∧ SameUniform g (wrv g d k m f) := by
  unfold wrv
  split <;> exact ⟨⟨rfl, rfl⟩, rfl, rfl, rfl, rfl, rfl⟩

/-! ## P -/

theorem readP_writeP (g : Regs) (r : Nat) (m val : Mask) {l : Nat} (hl : l < 64) :
    inMask (readP (writeP g r m val) r) l =
      if r = 7 then true else if inMask m l then inMask val l else inMask (readP g r) l := by
  unfold readP writeP
  by_cases h : r = 7
  · simp only [h, if_true]
    unfold inMask
    rw [BitVec.getLsbD_allOnes]
    simp [hl]
  · simp only [if_neg h, tblGet_set_same, inMask_or, inMask_and, inMask_not hl]
    cases inMask m l <;> simp

/-- A write of lanes k of P[p] changes only those, and nothing for P7 (R30). -/
theorem onlyP_writeP (g : Regs) (p : Nat) (k val : Mask) : OnlyP g (writeP g p k val) p k := by
  unfold writeP
  split
  · rename_i h
    exact ⟨fun _ _ _ => ⟨rfl, rfl⟩, fun hp => absurd h hp⟩
  · rename_i h
    constructor
    · intro r l hx
      by_cases hr : r = p
      · subst hr
        have hk : inMask k l = false := by
          rcases hx with hx | hx | hx
          · exact absurd rfl hx
          · exact absurd hx h
          · exact hx
        by_cases hl : l < 64
        · refine ⟨by simp [hk, inMask_not hl], ?_⟩
          cases hb : tblGet? g.badP r <;> simp [tblGet, tblGet?_adj_same, hb, hk, inMask_not hl]
        · have e : ∀ x : Mask, inMask x l = false := fun x => BitVec.getLsbD_of_ge x l (by omega)
          exact ⟨by rw [e, e], by rw [e, e]⟩
      · refine ⟨by simp [tblGet_set_other _ _ hr], by simp [tblGet, tblGet?_adj_other _ _ hr]⟩
    · intro _ l hk
      cases hb : tblGet? g.badP p with
      | none =>
        simp only [tblGet, tblGet?_adj_same, hb]
        show inMask (0 : Mask) l = false
        simp [inMask]
      | some b => simp [tblGet, tblGet?_adj_same, hb, inMask_not (lt_of_inMask hk), hk]

theorem writeP_rest (g : Regs) (p : Nat) (k val : Mask) : SameV g (writeP g p k val) ∧ SameUniform g (writeP g p k val) := by
  unfold writeP
  split <;> exact ⟨⟨rfl, rfl⟩, rfl, rfl, rfl, rfl, rfl⟩

/-! ## S and C -/

/-- S[d] after a write: S63 reads zero (R30). -/
theorem readS_writeS (g : Regs) (d : Nat) (x : DWord) : readS (writeS g d x) d = if d = 63 then 0 else x := by
  unfold readS writeS
  split
  · rfl
  · rw [tblGet_set_same]

theorem onlyS_writeS (g : Regs) (d : Nat) (x : DWord) : OnlyS g (writeS g d x) d := by
  unfold writeS
  split
  · rename_i h
    exact ⟨fun _ _ => ⟨rfl, rfl⟩, fun hd => absurd h (by omega)⟩
  · rename_i h
    constructor
    · intro r hr
      have hr : r ≠ d := by
        rcases hr with hr | hr
        · exact hr
        · exact absurd hr h
      refine ⟨tblGet_set_other _ _ hr, ?_⟩
      by_cases hl : r < 64
      · simp only [BitVec.getLsbD_and, BitVec.getLsbD_not, BitVec.getLsbD_shiftLeft, hl, decide_true, Bool.true_and]
        by_cases hlt : r < d
        · simp [hlt]
        · have : ¬ (r - d = 0) := by omega
          simp [hlt, this]
      · have e : ∀ x : DWord, x.getLsbD r = false := fun x => BitVec.getLsbD_of_ge x r (by omega)
        rw [e, e]
    · intro hd
      simp [show d < 64 by omega]

theorem writeS_rest (g : Regs) (d : Nat) (x : DWord) :
    SameV g (writeS g d x) ∧ SameP g (writeS g d x) ∧ (writeS g d x).c = g.c ∧ (writeS g d x).badC = g.badC
      ∧ (writeS g d x).t = g.t := by
  unfold writeS
  split <;> exact ⟨⟨rfl, rfl⟩, ⟨rfl, rfl⟩, rfl, rfl, rfl⟩

/-- C[d] after a write: C7 reads one (R30). -/
theorem readC_writeC (g : Regs) {d : Nat} (x : Bool) (h : d < 8) :
    readC (writeC g d x) d = if d = 7 then true else x := by
  unfold readC writeC
  split
  · rfl
  · cases x <;> simp [h]

theorem onlyC_writeC (g : Regs) (d : Nat) (x : Bool) : OnlyC g (writeC g d x) d := by
  unfold writeC
  split
  · rename_i h
    exact ⟨fun _ _ => ⟨rfl, rfl⟩, fun hd => absurd h (by omega)⟩
  · rename_i h
    constructor
    · intro r hr
      have hr : r ≠ d := by
        rcases hr with hr | hr
        · exact hr
        · exact absurd hr h
      by_cases hl : r < 8
      · by_cases hlt : r < d
        · cases x <;> simp [hl, hlt]
        · have : ¬ (r - d = 0) := by omega
          cases x <;> simp [hl, hlt, this]
      · have e : ∀ x : BitVec 8, x.getLsbD r = false := fun x => BitVec.getLsbD_of_ge x r (by omega)
        exact ⟨by rw [e, e], by rw [e, e]⟩
    · intro hd
      simp [show d < 8 by omega]

theorem writeC_rest (g : Regs) (d : Nat) (x : Bool) :
    SameV g (writeC g d x) ∧ SameP g (writeC g d x) ∧ (writeC g d x).s = g.s ∧ (writeC g d x).badS = g.badS
      ∧ (writeC g d x).t = g.t := by
  unfold writeC
  split <;> exact ⟨⟨rfl, rfl⟩, ⟨rfl, rfl⟩, rfl, rfl, rfl⟩

end Sys2Proof.Laws
end

