-- ==== Sys2Proof/Laws/State.lean ====
section
/-! SUPPORT. What each update of the state leaves of every field: one small lemma per field and update, so that no
proof unfolds a record update. -/

namespace Sys2Proof.Laws

open Sys2Proof Sys2Proof.Machine

/-! ## setGrp -/

@[simp] theorem setGrp_agenda (s : State) (k : Nat) (g : Group) : (setGrp s k g).agenda = s.agenda := rfl

@[simp] theorem setGrp_tick (s : State) (k : Nat) (g : Group) : (setGrp s k g).tick = s.tick := rfl

@[simp] theorem setGrp_seq (s : State) (k : Nat) (g : Group) : (setGrp s k g).seq = s.seq := rfl

@[simp] theorem setGrp_cur (s : State) (k : Nat) (g : Group) : (setGrp s k g).cur = s.cur := rfl

@[simp] theorem setGrp_islands (s : State) (k : Nat) (g : Group) : (setGrp s k g).islands = s.islands := rfl

@[simp] theorem setGrp_teams (s : State) (k : Nat) (g : Group) : (setGrp s k g).teams = s.teams := rfl

@[simp] theorem setGrp_panel (s : State) (k : Nat) (g : Group) : (setGrp s k g).panel = s.panel := rfl

@[simp] theorem setGrp_hostMem (s : State) (k : Nat) (g : Group) : (setGrp s k g).hostMem = s.hostMem := rfl

@[simp] theorem setGrp_hostPoison (s : State) (k : Nat) (g : Group) : (setGrp s k g).hostPoison = s.hostPoison := rfl

@[simp] theorem setGrp_spots (s : State) (k : Nat) (g : Group) : (setGrp s k g).spots = s.spots := rfl

@[simp] theorem setGrp_propagate (s : State) (k : Nat) (g : Group) : (setGrp s k g).propagate = s.propagate := rfl

/-! ## modGrp -/

@[simp] theorem modGrp_agenda (s : State) (k : Nat) (f : Group → Group) : (modGrp s k f).agenda = s.agenda := rfl

@[simp] theorem modGrp_tick (s : State) (k : Nat) (f : Group → Group) : (modGrp s k f).tick = s.tick := rfl

@[simp] theorem modGrp_seq (s : State) (k : Nat) (f : Group → Group) : (modGrp s k f).seq = s.seq := rfl

@[simp] theorem modGrp_cur (s : State) (k : Nat) (f : Group → Group) : (modGrp s k f).cur = s.cur := rfl

@[simp] theorem modGrp_islands (s : State) (k : Nat) (f : Group → Group) : (modGrp s k f).islands = s.islands := rfl

@[simp] theorem modGrp_teams (s : State) (k : Nat) (f : Group → Group) : (modGrp s k f).teams = s.teams := rfl

@[simp] theorem modGrp_panel (s : State) (k : Nat) (f : Group → Group) : (modGrp s k f).panel = s.panel := rfl

@[simp] theorem modGrp_hostMem (s : State) (k : Nat) (f : Group → Group) : (modGrp s k f).hostMem = s.hostMem := rfl

@[simp] theorem modGrp_hostPoison (s : State) (k : Nat) (f : Group → Group) : (modGrp s k f).hostPoison = s.hostPoison := rfl

@[simp] theorem modGrp_spots (s : State) (k : Nat) (f : Group → Group) : (modGrp s k f).spots = s.spots := rfl

@[simp] theorem modGrp_propagate (s : State) (k : Nat) (f : Group → Group) : (modGrp s k f).propagate = s.propagate := rfl

/-! ## setIsl -/

@[simp] theorem setIsl_agenda (s : State) (i : Nat) (x : Island) : (setIsl s i x).agenda = s.agenda := rfl

@[simp] theorem setIsl_tick (s : State) (i : Nat) (x : Island) : (setIsl s i x).tick = s.tick := rfl

@[simp] theorem setIsl_seq (s : State) (i : Nat) (x : Island) : (setIsl s i x).seq = s.seq := rfl

@[simp] theorem setIsl_cur (s : State) (i : Nat) (x : Island) : (setIsl s i x).cur = s.cur := rfl

@[simp] theorem setIsl_groups (s : State) (i : Nat) (x : Island) : (setIsl s i x).groups = s.groups := rfl

@[simp] theorem setIsl_teams (s : State) (i : Nat) (x : Island) : (setIsl s i x).teams = s.teams := rfl

@[simp] theorem setIsl_panel (s : State) (i : Nat) (x : Island) : (setIsl s i x).panel = s.panel := rfl

@[simp] theorem setIsl_hostMem (s : State) (i : Nat) (x : Island) : (setIsl s i x).hostMem = s.hostMem := rfl

@[simp] theorem setIsl_hostPoison (s : State) (i : Nat) (x : Island) : (setIsl s i x).hostPoison = s.hostPoison := rfl

@[simp] theorem setIsl_spots (s : State) (i : Nat) (x : Island) : (setIsl s i x).spots = s.spots := rfl

@[simp] theorem setIsl_propagate (s : State) (i : Nat) (x : Island) : (setIsl s i x).propagate = s.propagate := rfl

/-! ## modIsl -/

@[simp] theorem modIsl_agenda (s : State) (i : Nat) (f : Island → Island) : (modIsl s i f).agenda = s.agenda := rfl

@[simp] theorem modIsl_tick (s : State) (i : Nat) (f : Island → Island) : (modIsl s i f).tick = s.tick := rfl

@[simp] theorem modIsl_seq (s : State) (i : Nat) (f : Island → Island) : (modIsl s i f).seq = s.seq := rfl

@[simp] theorem modIsl_cur (s : State) (i : Nat) (f : Island → Island) : (modIsl s i f).cur = s.cur := rfl

@[simp] theorem modIsl_groups (s : State) (i : Nat) (f : Island → Island) : (modIsl s i f).groups = s.groups := rfl

@[simp] theorem modIsl_teams (s : State) (i : Nat) (f : Island → Island) : (modIsl s i f).teams = s.teams := rfl

@[simp] theorem modIsl_panel (s : State) (i : Nat) (f : Island → Island) : (modIsl s i f).panel = s.panel := rfl

@[simp] theorem modIsl_hostMem (s : State) (i : Nat) (f : Island → Island) : (modIsl s i f).hostMem = s.hostMem := rfl

@[simp] theorem modIsl_hostPoison (s : State) (i : Nat) (f : Island → Island) : (modIsl s i f).hostPoison = s.hostPoison := rfl

@[simp] theorem modIsl_spots (s : State) (i : Nat) (f : Island → Island) : (modIsl s i f).spots = s.spots := rfl

@[simp] theorem modIsl_propagate (s : State) (i : Nat) (f : Island → Island) : (modIsl s i f).propagate = s.propagate := rfl

/-! ## modMem -/

@[simp] theorem modMem_agenda (s : State) (i : Nat) (f : IslandMem → IslandMem) : (modMem s i f).agenda = s.agenda := rfl

@[simp] theorem modMem_tick (s : State) (i : Nat) (f : IslandMem → IslandMem) : (modMem s i f).tick = s.tick := rfl

@[simp] theorem modMem_seq (s : State) (i : Nat) (f : IslandMem → IslandMem) : (modMem s i f).seq = s.seq := rfl

@[simp] theorem modMem_cur (s : State) (i : Nat) (f : IslandMem → IslandMem) : (modMem s i f).cur = s.cur := rfl

@[simp] theorem modMem_groups (s : State) (i : Nat) (f : IslandMem → IslandMem) : (modMem s i f).groups = s.groups := rfl

@[simp] theorem modMem_teams (s : State) (i : Nat) (f : IslandMem → IslandMem) : (modMem s i f).teams = s.teams := rfl

@[simp] theorem modMem_panel (s : State) (i : Nat) (f : IslandMem → IslandMem) : (modMem s i f).panel = s.panel := rfl

@[simp] theorem modMem_hostMem (s : State) (i : Nat) (f : IslandMem → IslandMem) : (modMem s i f).hostMem = s.hostMem := rfl

@[simp] theorem modMem_hostPoison (s : State) (i : Nat) (f : IslandMem → IslandMem) : (modMem s i f).hostPoison = s.hostPoison := rfl

@[simp] theorem modMem_spots (s : State) (i : Nat) (f : IslandMem → IslandMem) : (modMem s i f).spots = s.spots := rfl

@[simp] theorem modMem_propagate (s : State) (i : Nat) (f : IslandMem → IslandMem) : (modMem s i f).propagate = s.propagate := rfl

/-! ## modTeam -/

@[simp] theorem modTeam_agenda (s : State) (t : Nat) (f : Team → Team) : (modTeam s t f).agenda = s.agenda := rfl

@[simp] theorem modTeam_tick (s : State) (t : Nat) (f : Team → Team) : (modTeam s t f).tick = s.tick := rfl

@[simp] theorem modTeam_seq (s : State) (t : Nat) (f : Team → Team) : (modTeam s t f).seq = s.seq := rfl

@[simp] theorem modTeam_cur (s : State) (t : Nat) (f : Team → Team) : (modTeam s t f).cur = s.cur := rfl

@[simp] theorem modTeam_islands (s : State) (t : Nat) (f : Team → Team) : (modTeam s t f).islands = s.islands := rfl

@[simp] theorem modTeam_groups (s : State) (t : Nat) (f : Team → Team) : (modTeam s t f).groups = s.groups := rfl

@[simp] theorem modTeam_panel (s : State) (t : Nat) (f : Team → Team) : (modTeam s t f).panel = s.panel := rfl

@[simp] theorem modTeam_hostMem (s : State) (t : Nat) (f : Team → Team) : (modTeam s t f).hostMem = s.hostMem := rfl

@[simp] theorem modTeam_hostPoison (s : State) (t : Nat) (f : Team → Team) : (modTeam s t f).hostPoison = s.hostPoison := rfl

@[simp] theorem modTeam_spots (s : State) (t : Nat) (f : Team → Team) : (modTeam s t f).spots = s.spots := rfl

@[simp] theorem modTeam_propagate (s : State) (t : Nat) (f : Team → Team) : (modTeam s t f).propagate = s.propagate := rfl

/-! ## modCtx -/

@[simp] theorem modCtx_agenda (s : State) (i c : Nat) (f : Context → Context) : (modCtx s i c f).agenda = s.agenda := rfl

@[simp] theorem modCtx_tick (s : State) (i c : Nat) (f : Context → Context) : (modCtx s i c f).tick = s.tick := rfl

@[simp] theorem modCtx_seq (s : State) (i c : Nat) (f : Context → Context) : (modCtx s i c f).seq = s.seq := rfl

@[simp] theorem modCtx_cur (s : State) (i c : Nat) (f : Context → Context) : (modCtx s i c f).cur = s.cur := rfl

@[simp] theorem modCtx_groups (s : State) (i c : Nat) (f : Context → Context) : (modCtx s i c f).groups = s.groups := rfl

@[simp] theorem modCtx_teams (s : State) (i c : Nat) (f : Context → Context) : (modCtx s i c f).teams = s.teams := rfl

@[simp] theorem modCtx_panel (s : State) (i c : Nat) (f : Context → Context) : (modCtx s i c f).panel = s.panel := rfl

@[simp] theorem modCtx_hostMem (s : State) (i c : Nat) (f : Context → Context) : (modCtx s i c f).hostMem = s.hostMem := rfl

@[simp] theorem modCtx_hostPoison (s : State) (i c : Nat) (f : Context → Context) : (modCtx s i c f).hostPoison = s.hostPoison := rfl

@[simp] theorem modCtx_spots (s : State) (i c : Nat) (f : Context → Context) : (modCtx s i c f).spots = s.spots := rfl

@[simp] theorem modCtx_propagate (s : State) (i c : Nat) (f : Context → Context) : (modCtx s i c f).propagate = s.propagate := rfl

/-! ## Reading what was written -/

theorem setGrp_groups (s : State) (k : Nat) (g : Group) : (setGrp s k g).groups = tblSet s.groups k g := rfl

theorem modGrp_groups (s : State) (k : Nat) (f : Group → Group) : (modGrp s k f).groups = tblAdj s.groups k f := rfl

@[simp] theorem grpOf_setGrp_same (s : State) (k : Nat) (g : Group) : grpOf (setGrp s k g) k = g := by
  simp [grpOf, setGrp]

theorem grpOf_setGrp_other (s : State) {k j : Nat} (g : Group) (h : j ≠ k) : grpOf (setGrp s k g) j = grpOf s j := by
  simp [grpOf, setGrp, tblGet_set_other _ _ h]

@[simp] theorem islOf_setGrp (s : State) (k i : Nat) (g : Group) : islOf (setGrp s k g) i = islOf s i := rfl

@[simp] theorem teamOf_setGrp (s : State) (k t : Nat) (g : Group) : teamOf (setGrp s k g) t = teamOf s t := rfl

@[simp] theorem ctxOf_setGrp (s : State) (k i c : Nat) (g : Group) : ctxOf (setGrp s k g) i c = ctxOf s i c := rfl

@[simp] theorem islOf_modGrp (s : State) (k i : Nat) (f : Group → Group) : islOf (modGrp s k f) i = islOf s i := rfl

@[simp] theorem teamOf_modGrp (s : State) (k t : Nat) (f : Group → Group) : teamOf (modGrp s k f) t = teamOf s t := rfl

@[simp] theorem ctxOf_modGrp (s : State) (k i c : Nat) (f : Group → Group) : ctxOf (modGrp s k f) i c = ctxOf s i c := rfl

@[simp] theorem grpOf_modIsl (s : State) (i k : Nat) (f : Island → Island) : grpOf (modIsl s i f) k = grpOf s k := rfl

@[simp] theorem teamOf_modIsl (s : State) (i t : Nat) (f : Island → Island) : teamOf (modIsl s i f) t = teamOf s t := rfl

theorem islOf_modIsl_other (s : State) {i j : Nat} (f : Island → Island) (h : j ≠ i) :
    islOf (modIsl s i f) j = islOf s j := by
  simp [islOf, modIsl, tblGet, tblGet?_adj_other _ _ h]

/-- The changed island, where it is present or where the change keeps an island of default fields. -/
theorem islOf_modIsl_same (s : State) (i : Nat) (f : Island → Island) (h : (tblGet? s.islands i).isSome) :
    islOf (modIsl s i f) i = f (islOf s i) := by
  obtain ⟨x, hx⟩ := Option.isSome_iff_exists.1 h
  simp [islOf, modIsl, tblGet, tblGet?_adj_same, hx]

theorem islOf_modIsl_absent (s : State) (i j : Nat) (f : Island → Island) (h : tblGet? s.islands i = none) :
    islOf (modIsl s i f) j = islOf s j := by
  simp [islOf, modIsl, tblAdj, h]

/-! ## Parts of a group -/

@[simp] theorem settle_regs (g : Group) : (settle g).regs = g.regs := rfl

@[simp] theorem modFrag_regs (g : Group) (i : Nat) (f : Frag → Frag) : (modFrag g i f).regs = g.regs := rfl

@[simp] theorem advance_regs (n i : Nat) (g : Group) : (advance n i g).regs = g.regs := rfl

@[simp] theorem wake_regs (g : Group) : (wake g).regs = g.regs := rfl

@[simp] theorem bookIssue_regs (fm : Form) (t : Nat) (m : Mask) (k : Nat) (g : Group) :
    (bookIssue fm t m k g).regs = g.regs := rfl

@[simp] theorem settle_special (g : Group) : (settle g).special = g.special := rfl

@[simp] theorem modFrag_special (g : Group) (i : Nat) (f : Frag → Frag) : (modFrag g i f).special = g.special := rfl

@[simp] theorem advance_special (n i : Nat) (g : Group) : (advance n i g).special = g.special := rfl

@[simp] theorem wake_special (g : Group) : (wake g).special = g.special := rfl

@[simp] theorem bookIssue_special (fm : Form) (t : Nat) (m : Mask) (k : Nat) (g : Group) :
    (bookIssue fm t m k g).special = g.special := rfl

@[simp] theorem settle_ident (g : Group) : (settle g).ident = g.ident := rfl

@[simp] theorem modFrag_ident (g : Group) (i : Nat) (f : Frag → Frag) : (modFrag g i f).ident = g.ident := rfl

@[simp] theorem advance_ident (n i : Nat) (g : Group) : (advance n i g).ident = g.ident := rfl

@[simp] theorem wake_ident (g : Group) : (wake g).ident = g.ident := rfl

@[simp] theorem bookIssue_ident (fm : Form) (t : Nat) (m : Mask) (k : Nat) (g : Group) :
    (bookIssue fm t m k g).ident = g.ident := rfl

@[simp] theorem settle_msa (g : Group) : (settle g).msa = g.msa := rfl

@[simp] theorem modFrag_msa (g : Group) (i : Nat) (f : Frag → Frag) : (modFrag g i f).msa = g.msa := rfl

@[simp] theorem advance_msa (n i : Nat) (g : Group) : (advance n i g).msa = g.msa := rfl

@[simp] theorem wake_msa (g : Group) : (wake g).msa = g.msa := rfl

@[simp] theorem bookIssue_msa (fm : Form) (t : Nat) (m : Mask) (k : Nat) (g : Group) :
    (bookIssue fm t m k g).msa = g.msa := rfl

@[simp] theorem settle_msb (g : Group) : (settle g).msb = g.msb := rfl

@[simp] theorem modFrag_msb (g : Group) (i : Nat) (f : Frag → Frag) : (modFrag g i f).msb = g.msb := rfl

@[simp] theorem advance_msb (n i : Nat) (g : Group) : (advance n i g).msb = g.msb := rfl

@[simp] theorem wake_msb (g : Group) : (wake g).msb = g.msb := rfl

@[simp] theorem bookIssue_msb (fm : Form) (t : Nat) (m : Mask) (k : Nat) (g : Group) :
    (bookIssue fm t m k g).msb = g.msb := rfl

@[simp] theorem settle_allot (g : Group) : (settle g).allot = g.allot := rfl

@[simp] theorem modFrag_allot (g : Group) (i : Nat) (f : Frag → Frag) : (modFrag g i f).allot = g.allot := rfl

@[simp] theorem advance_allot (n i : Nat) (g : Group) : (advance n i g).allot = g.allot := rfl

@[simp] theorem wake_allot (g : Group) : (wake g).allot = g.allot := rfl

@[simp] theorem bookIssue_allot (fm : Form) (t : Nat) (m : Mask) (k : Nat) (g : Group) :
    (bookIssue fm t m k g).allot = g.allot := rfl

@[simp] theorem settle_exitedLanes (g : Group) : (settle g).exitedLanes = g.exitedLanes := rfl

@[simp] theorem modFrag_exitedLanes (g : Group) (i : Nat) (f : Frag → Frag) : (modFrag g i f).exitedLanes = g.exitedLanes := rfl

@[simp] theorem advance_exitedLanes (n i : Nat) (g : Group) : (advance n i g).exitedLanes = g.exitedLanes := rfl

@[simp] theorem wake_exitedLanes (g : Group) : (wake g).exitedLanes = g.exitedLanes := rfl

@[simp] theorem bookIssue_exitedLanes (fm : Form) (t : Nat) (m : Mask) (k : Nat) (g : Group) :
    (bookIssue fm t m k g).exitedLanes = g.exitedLanes := rfl

@[simp] theorem settle_hmode (g : Group) : (settle g).hmode = g.hmode := rfl

@[simp] theorem modFrag_hmode (g : Group) (i : Nat) (f : Frag → Frag) : (modFrag g i f).hmode = g.hmode := rfl

@[simp] theorem advance_hmode (n i : Nat) (g : Group) : (advance n i g).hmode = g.hmode := rfl

@[simp] theorem wake_hmode (g : Group) : (wake g).hmode = g.hmode := rfl

@[simp] theorem bookIssue_hmode (fm : Form) (t : Nat) (m : Mask) (k : Nat) (g : Group) :
    (bookIssue fm t m k g).hmode = g.hmode := rfl

@[simp] theorem settle_hset (g : Group) : (settle g).hset = g.hset := rfl

@[simp] theorem modFrag_hset (g : Group) (i : Nat) (f : Frag → Frag) : (modFrag g i f).hset = g.hset := rfl

@[simp] theorem advance_hset (n i : Nat) (g : Group) : (advance n i g).hset = g.hset := rfl

@[simp] theorem wake_hset (g : Group) : (wake g).hset = g.hset := rfl

@[simp] theorem bookIssue_hset (fm : Form) (t : Nat) (m : Mask) (k : Nat) (g : Group) :
    (bookIssue fm t m k g).hset = g.hset := rfl

@[simp] theorem settle_win0 (g : Group) : (settle g).win0 = g.win0 := rfl

@[simp] theorem modFrag_win0 (g : Group) (i : Nat) (f : Frag → Frag) : (modFrag g i f).win0 = g.win0 := rfl

@[simp] theorem advance_win0 (n i : Nat) (g : Group) : (advance n i g).win0 = g.win0 := rfl

@[simp] theorem wake_win0 (g : Group) : (wake g).win0 = g.win0 := rfl

@[simp] theorem bookIssue_win0 (fm : Form) (t : Nat) (m : Mask) (k : Nat) (g : Group) :
    (bookIssue fm t m k g).win0 = g.win0 := rfl

@[simp] theorem settle_win1 (g : Group) : (settle g).win1 = g.win1 := rfl

@[simp] theorem modFrag_win1 (g : Group) (i : Nat) (f : Frag → Frag) : (modFrag g i f).win1 = g.win1 := rfl

@[simp] theorem advance_win1 (n i : Nat) (g : Group) : (advance n i g).win1 = g.win1 := rfl

@[simp] theorem wake_win1 (g : Group) : (wake g).win1 = g.win1 := rfl

@[simp] theorem bookIssue_win1 (fm : Form) (t : Nat) (m : Mask) (k : Nat) (g : Group) :
    (bookIssue fm t m k g).win1 = g.win1 := rfl

@[simp] theorem settle_stream (g : Group) : (settle g).stream = g.stream := rfl

@[simp] theorem modFrag_stream (g : Group) (i : Nat) (f : Frag → Frag) : (modFrag g i f).stream = g.stream := rfl

@[simp] theorem advance_stream (n i : Nat) (g : Group) : (advance n i g).stream = g.stream := rfl

@[simp] theorem wake_stream (g : Group) : (wake g).stream = g.stream := rfl

@[simp] theorem bookIssue_stream (fm : Form) (t : Nat) (m : Mask) (k : Nat) (g : Group) :
    (bookIssue fm t m k g).stream = g.stream := rfl

@[simp] theorem settle_held (g : Group) : (settle g).held = g.held := rfl

@[simp] theorem modFrag_held (g : Group) (i : Nat) (f : Frag → Frag) : (modFrag g i f).held = g.held := rfl

@[simp] theorem advance_held (n i : Nat) (g : Group) : (advance n i g).held = g.held := rfl

@[simp] theorem wake_held (g : Group) : (wake g).held = g.held := rfl

@[simp] theorem bookIssue_held (fm : Form) (t : Nat) (m : Mask) (k : Nat) (g : Group) :
    (bookIssue fm t m k g).held = g.held := rfl

@[simp] theorem settle_ops (g : Group) : (settle g).ops = g.ops := rfl

@[simp] theorem modFrag_ops (g : Group) (i : Nat) (f : Frag → Frag) : (modFrag g i f).ops = g.ops := rfl

@[simp] theorem advance_ops (n i : Nat) (g : Group) : (advance n i g).ops = g.ops := rfl

@[simp] theorem wake_ops (g : Group) : (wake g).ops = g.ops := rfl

@[simp] theorem bookIssue_ops (fm : Form) (t : Nat) (m : Mask) (k : Nat) (g : Group) :
    (bookIssue fm t m k g).ops = g.ops := rfl

@[simp] theorem settle_chains (g : Group) : (settle g).chains = g.chains := rfl

@[simp] theorem modFrag_chains (g : Group) (i : Nat) (f : Frag → Frag) : (modFrag g i f).chains = g.chains := rfl

@[simp] theorem advance_chains (n i : Nat) (g : Group) : (advance n i g).chains = g.chains := rfl

@[simp] theorem wake_chains (g : Group) : (wake g).chains = g.chains := rfl

@[simp] theorem bookIssue_chains (fm : Form) (t : Nat) (m : Mask) (k : Nat) (g : Group) :
    (bookIssue fm t m k g).chains = g.chains := rfl

@[simp] theorem settle_chainRm (g : Group) : (settle g).chainRm = g.chainRm := rfl

@[simp] theorem modFrag_chainRm (g : Group) (i : Nat) (f : Frag → Frag) : (modFrag g i f).chainRm = g.chainRm := rfl

@[simp] theorem advance_chainRm (n i : Nat) (g : Group) : (advance n i g).chainRm = g.chainRm := rfl

@[simp] theorem wake_chainRm (g : Group) : (wake g).chainRm = g.chainRm := rfl

@[simp] theorem bookIssue_chainRm (fm : Form) (t : Nat) (m : Mask) (k : Nat) (g : Group) :
    (bookIssue fm t m k g).chainRm = g.chainRm := rfl

@[simp] theorem settle_mmap (g : Group) : (settle g).mmap = g.mmap := rfl

@[simp] theorem modFrag_mmap (g : Group) (i : Nat) (f : Frag → Frag) : (modFrag g i f).mmap = g.mmap := rfl

@[simp] theorem advance_mmap (n i : Nat) (g : Group) : (advance n i g).mmap = g.mmap := rfl

@[simp] theorem wake_mmap (g : Group) : (wake g).mmap = g.mmap := rfl

@[simp] theorem bookIssue_mmap (fm : Form) (t : Nat) (m : Mask) (k : Nat) (g : Group) :
    (bookIssue fm t m k g).mmap = g.mmap := rfl

@[simp] theorem settle_mmapSaved (g : Group) : (settle g).mmapSaved = g.mmapSaved := rfl

@[simp] theorem modFrag_mmapSaved (g : Group) (i : Nat) (f : Frag → Frag) : (modFrag g i f).mmapSaved = g.mmapSaved := rfl

@[simp] theorem advance_mmapSaved (n i : Nat) (g : Group) : (advance n i g).mmapSaved = g.mmapSaved := rfl

@[simp] theorem wake_mmapSaved (g : Group) : (wake g).mmapSaved = g.mmapSaved := rfl

@[simp] theorem bookIssue_mmapSaved (fm : Form) (t : Nat) (m : Mask) (k : Nat) (g : Group) :
    (bookIssue fm t m k g).mmapSaved = g.mmapSaved := rfl

@[simp] theorem settle_trapReq (g : Group) : (settle g).trapReq = g.trapReq := rfl

@[simp] theorem modFrag_trapReq (g : Group) (i : Nat) (f : Frag → Frag) : (modFrag g i f).trapReq = g.trapReq := rfl

@[simp] theorem advance_trapReq (n i : Nat) (g : Group) : (advance n i g).trapReq = g.trapReq := rfl

@[simp] theorem wake_trapReq (g : Group) : (wake g).trapReq = g.trapReq := rfl

@[simp] theorem bookIssue_trapReq (fm : Form) (t : Nat) (m : Mask) (k : Nat) (g : Group) :
    (bookIssue fm t m k g).trapReq = g.trapReq := rfl

@[simp] theorem settle_draining (g : Group) : (settle g).draining = g.draining := rfl

@[simp] theorem modFrag_draining (g : Group) (i : Nat) (f : Frag → Frag) : (modFrag g i f).draining = g.draining := rfl

@[simp] theorem advance_draining (n i : Nat) (g : Group) : (advance n i g).draining = g.draining := rfl

@[simp] theorem wake_draining (g : Group) : (wake g).draining = g.draining := rfl

@[simp] theorem bookIssue_draining (fm : Form) (t : Nat) (m : Mask) (k : Nat) (g : Group) :
    (bookIssue fm t m k g).draining = g.draining := rfl

@[simp] theorem settle_state (g : Group) : (settle g).state = g.state := rfl

@[simp] theorem modFrag_state (g : Group) (i : Nat) (f : Frag → Frag) : (modFrag g i f).state = g.state := rfl

@[simp] theorem advance_state (n i : Nat) (g : Group) : (advance n i g).state = g.state := rfl

@[simp] theorem wake_state (g : Group) : (wake g).state = g.state := rfl

@[simp] theorem bookIssue_state (fm : Form) (t : Nat) (m : Mask) (k : Nat) (g : Group) :
    (bookIssue fm t m k g).state = g.state := rfl

@[simp] theorem settle_halted (g : Group) : (settle g).halted = g.halted := rfl

@[simp] theorem modFrag_halted (g : Group) (i : Nat) (f : Frag → Frag) : (modFrag g i f).halted = g.halted := rfl

@[simp] theorem advance_halted (n i : Nat) (g : Group) : (advance n i g).halted = g.halted := rfl

@[simp] theorem wake_halted (g : Group) : (wake g).halted = g.halted := rfl

@[simp] theorem bookIssue_halted (fm : Form) (t : Nat) (m : Mask) (k : Nat) (g : Group) :
    (bookIssue fm t m k g).halted = g.halted := rfl

@[simp] theorem settle_age (g : Group) : (settle g).age = g.age := rfl

@[simp] theorem modFrag_age (g : Group) (i : Nat) (f : Frag → Frag) : (modFrag g i f).age = g.age := rfl

@[simp] theorem advance_age (n i : Nat) (g : Group) : (advance n i g).age = g.age := rfl

@[simp] theorem wake_age (g : Group) : (wake g).age = g.age := rfl

@[simp] theorem bookIssue_age (fm : Form) (t : Nat) (m : Mask) (k : Nat) (g : Group) :
    (bookIssue fm t m k g).age = g.age := rfl

@[simp] theorem settle_thread (g : Group) : (settle g).thread = g.thread := rfl

@[simp] theorem modFrag_thread (g : Group) (i : Nat) (f : Frag → Frag) : (modFrag g i f).thread = g.thread := rfl

@[simp] theorem advance_thread (n i : Nat) (g : Group) : (advance n i g).thread = g.thread := rfl

@[simp] theorem wake_thread (g : Group) : (wake g).thread = g.thread := rfl

@[simp] theorem bookIssue_thread (fm : Form) (t : Nat) (m : Mask) (k : Nat) (g : Group) :
    (bookIssue fm t m k g).thread = g.thread := rfl

@[simp] theorem settle_floor (g : Group) : (settle g).floor = g.floor := rfl

@[simp] theorem modFrag_floor (g : Group) (i : Nat) (f : Frag → Frag) : (modFrag g i f).floor = g.floor := rfl

@[simp] theorem advance_floor (n i : Nat) (g : Group) : (advance n i g).floor = g.floor := rfl

@[simp] theorem wake_floor (g : Group) : (wake g).floor = g.floor := rfl

@[simp] theorem bookIssue_floor (fm : Form) (t : Nat) (m : Mask) (k : Nat) (g : Group) :
    (bookIssue fm t m k g).floor = g.floor := rfl

@[simp] theorem settle_base (g : Group) : (settle g).base = g.base := rfl

@[simp] theorem modFrag_base (g : Group) (i : Nat) (f : Frag → Frag) : (modFrag g i f).base = g.base := rfl

@[simp] theorem advance_base (n i : Nat) (g : Group) : (advance n i g).base = g.base := rfl

@[simp] theorem wake_base (g : Group) : (wake g).base = g.base := rfl

@[simp] theorem bookIssue_base (fm : Form) (t : Nat) (m : Mask) (k : Nat) (g : Group) :
    (bookIssue fm t m k g).base = g.base := rfl

@[simp] theorem settle_past (g : Group) : (settle g).past = g.past := rfl

@[simp] theorem modFrag_past (g : Group) (i : Nat) (f : Frag → Frag) : (modFrag g i f).past = g.past := rfl

@[simp] theorem advance_past (n i : Nat) (g : Group) : (advance n i g).past = g.past := rfl

@[simp] theorem wake_past (g : Group) : (wake g).past = g.past := rfl

@[simp] theorem bookIssue_past (fm : Form) (t : Nat) (m : Mask) (k : Nat) (g : Group) :
    (bookIssue fm t m k g).past = g.past := rfl

end Sys2Proof.Laws
end

