-- ==== Sys2Proof/Laws/Ops.lean ====
section
/-! SUPPORT. What the shared operations of issue can do, said once: the issuing fragment, the gate, issue itself, and
what issue books. -/

namespace Sys2Proof.Laws

open Sys2Proof Sys2Proof.Machine

/-! ## The issuing fragment -/

/-- Where a fragment issues, its group and itself stand in the state. -/
theorem issuing_some {s : State} {cx : Cx} (h : issuing s = some cx) :
    s.cur = some { grp := cx.key, frag := cx.ix } ∧ tblGet? s.groups cx.key = some cx.g
      ∧ cx.g.frags[cx.ix]? = some cx.f := by
  unfold issuing at h
  split at h
  · cases h
  · rename_i k i hc
    split at h
    · cases h
    · rename_i g hg
      split at h
      · cases h
      · rename_i f hf
        cases h
        exact ⟨hc, hg, hf⟩

theorem grpOf_issuing {s : State} {cx : Cx} (h : issuing s = some cx) : grpOf s cx.key = cx.g := by
  simp [grpOf, tblGet, (issuing_some h).2.1]

/-! ## The gate -/

/-- The gate passes exactly what is clear. -/
theorem gate_pass_iff {fm : Form} {s : State} {cx : Cx} (h : issuing s = some cx) :
    gate fm s cx = .pass ↔ Clear fm s cx := by
  constructor
  · intro hg
    unfold gate at hg
    split at hg <;> try cases hg
    split at hg <;> try cases hg
    split at hg <;> try cases hg
    split at hg <;> try cases hg
    split at hg <;> try cases hg
    split at hg <;> try cases hg
    split at hg <;> try cases hg
    rename_i h1 h2 h3 h4 h5 _ hm _ hp
    refine ⟨h, ?_, by simpa using h2, by simpa using h3, by simpa using h4, ?_, ?_, hp⟩
    · intro hf; simpa [hf] using h1
    · intro hf; simpa [hf] using h5
    · intro hf; simpa [hf] using hm
  · intro c
    unfold gate
    have h1 : (fm.priv && !privileged cx.g.ident) = false := by
      cases hp : fm.priv with
      | false => rfl
      | true => simp [c.mode hp]
    have h5 : (cx.g.ident.sbchk && decide (scoreReady cx.g (issueClock s cx) (readElems fm cx) > issueClock s cx)) = false := by
      cases hb : cx.g.ident.sbchk <;> simp; exact c.ready hb
    have h6 : (if fm.conv then meet cx else .go) = .go := by
      cases hc : fm.conv <;> simp; exact c.together hc
    simp [h1, c.coded, c.operands, c.free, h5, h6, c.clean]

/-! ## Issue -/

/-- An instruction clear to issue does what its body answers. -/
theorem issue_clear {fm : Form} {s : State} {cx : Cx} (c : Clear fm s cx) (body : Cx → State → Res) :
    issue fm body s =
      match body cx s with
      | .ok s' => .next (issued fm s cx s')
      | .flt c => .next (takeFault s cx c)
      | .fltAt s' c => .next (takeFault s' cx c)
      | .wait => .next (markWaiting s cx)
      | .waitAt s' => .next (markWaiting s' cx)
      | .out s' => .next s' := by
  have hg := (gate_pass_iff c.issuer).2 c
  unfold issue
  simp only [c.issuer, hg]
  rfl

/-- An instruction clear to issue whose body completes. -/
theorem issue_ok {fm : Form} {s : State} {cx : Cx} (c : Clear fm s cx) {body : Cx → State → Res} {s' : State}
    (h : body cx s = .ok s') : issue fm body s = .next (issued fm s cx s') := by
  rw [issue_clear c, h]

/-- The same where the form depends on the state. -/
theorem issueWith_ok {mk : State → Cx → Form} {s : State} {cx : Cx} (c : Clear (mk s cx) s cx)
    {body : Cx → State → Res} {s' : State} (h : body cx s = .ok s') :
    issueWith mk body s = .next (issued (mk s cx) s cx s') := by
  simp only [issueWith, c.issuer]
  exact issue_ok c h

/-- An instruction the gate faults takes that fault, and nothing else. -/
theorem issue_fault {fm : Form} {s : State} {cx : Cx} (h : issuing s = some cx) {c : Cause}
    (hg : gate fm s cx = .fault c) (body : Cx → State → Res) : issue fm body s = .next (takeFault s cx c) := by
  simp only [issue, h, hg]

/-- An instruction the gate holds back waits without issuing, and a wait to converge is noted as such. -/
theorem issue_wait {fm : Form} {s : State} {cx : Cx} (h : issuing s = some cx)
    (hg : gate fm s cx = .wait) (body : Cx → State → Res) : issue fm body s = .next (waitIssue fm s cx) := by
  simp only [issue, h, hg]

/-- Wherever a fragment issues, issue answers a next state. -/
theorem issue_answers {fm : Form} {s : State} {cx : Cx} (h : issuing s = some cx) (body : Cx → State → Res) :
    ∃ t, issue fm body s = .next t := by
  unfold issue
  rw [h]
  dsimp only
  split
  · exact ⟨_, rfl⟩
  · exact ⟨_, rfl⟩
  · split <;> exact ⟨_, rfl⟩

theorem issueWith_answers {mk : State → Cx → Form} {s : State} {cx : Cx} (h : issuing s = some cx)
    (body : Cx → State → Res) : ∃ t, issueWith mk body s = .next t := by
  unfold issueWith
  rw [h]
  exact issue_answers h body

/-! ## The body that changes registers and moves on -/

theorem finish_eq (n : Nat) (f : Regs → Regs) (cx : Cx) (s : State) : finish n f cx s = .ok (withRegs n f s cx) := rfl

/-! ## What issue books -/

theorem sampleCtx_groups (s : State) (i src c v : Nat) : (sampleCtx s i src c v).groups = s.groups := by
  unfold sampleCtx; split <;> rfl

/-- A change of an island's cores or monitors alone. -/
theorem modIsl_erase (s : State) (i j : Nat) (f : Island → Island)
    (h : ∀ x, islandRest (f x) = islandRest x) : islandRest (islOf (modIsl s i f) j) = islandRest (islOf s j) := by
  by_cases hj : j = i
  · subst hj
    cases hx : tblGet? s.islands j with
    | none => rw [islOf_modIsl_absent s j j f hx]
    | some x => rw [islOf_modIsl_same s j f (by simp [hx])]; exact h _
  · rw [islOf_modIsl_other s f hj]

/-- The group after an issue: its effect, then its clock and scoreboard. -/
theorem grpOf_issued (fm : Form) (s : State) (cx : Cx) (g : Group) :
    grpOf (issued fm s cx (setGrp s cx.key g)) cx.key =
      bookIssue fm (readyClock fm s cx) cx.f.mask s.tick g := by
  unfold issued bookAll
  dsimp only
  rw [grpOf_modIsl]
  split <;> simp [grpOf, modGrp, tblGet, tblGet?_adj_same, sampleCtx_groups, setGrp_groups]
  unfold sampleCtx; split <;> rfl

/-- Issue after a change of the issuing group alone leaves the rest of the machine as it is. -/
theorem onlyGroup_issued (fm : Form) (s : State) (cx : Cx) (g : Group) :
    OnlyGroup s (issued fm s cx (setGrp s cx.key g)) cx := by
  unfold issued bookAll
  dsimp only
  refine ⟨?_, ?_, ?_, ?_, ?_, ?_, ?_, ?_⟩
  · intro k hk
    rw [modIsl_groups, modGrp_groups, tblGet?_adj_other _ _ hk]
    split <;> simp [sampleCtx_groups, setGrp_groups, tblGet?_set_other _ _ hk]
  · split <;> [rfl; (unfold sampleCtx; split <;> rfl)]
  · split <;> [rfl; (unfold sampleCtx; split <;> rfl)]
  · split <;> [exact ⟨rfl, rfl⟩; (unfold sampleCtx; split <;> exact ⟨rfl, rfl⟩)]
  · split <;> [rfl; (unfold sampleCtx; split <;> rfl)]
  · split <;> [exact ⟨rfl, rfl, rfl, rfl, rfl⟩; (unfold sampleCtx; split <;> exact ⟨rfl, rfl, rfl, rfl, rfl⟩)]
  · intro i hi
    rw [islOf_modIsl_other _ _ hi, islOf_modGrp]
    split
    · rfl
    · unfold sampleCtx; split
      · rw [islOf_modIsl_other _ _ hi]; rfl
      · rfl
  · intro i
    refine (modIsl_erase _ _ _ _ ?_).trans ?_
    · exact fun _ => rfl
    rw [islOf_modGrp]
    split
    · rfl
    · unfold sampleCtx; split
      · refine (modIsl_erase _ _ _ _ ?_).trans rfl
        exact fun _ => rfl
      · rfl

/-- After an instruction that changes registers and special registers and moves on: what the group holds, and that
nothing else has changed. -/
theorem issued_group (fm : Form) (s : State) (cx : Cx) (n : Nat) (r : Regs) (x : SpecialRegs) :
    let t := issued fm s cx (setGrp s cx.key (advance n cx.ix { cx.g with regs := r, special := x }))
    (grpOf t cx.key).regs = r ∧ (grpOf t cx.key).special = x ∧ groupRest (grpOf t cx.key) = groupRest cx.g
      ∧ OnlyGroup s t cx := by
  dsimp only
  rw [grpOf_issued]
  exact ⟨rfl, rfl, rfl, onlyGroup_issued ..⟩

end Sys2Proof.Laws
end

