-- ==== Sys2Proof/Laws/PerInstr.lean ====
section
/-! SUPPORT. For each instruction: the decoder reads its words back. -/

set_option Elab.async false

namespace Sys2Proof.Laws

open Sys2Proof

/-- The bytes of a well-formed instruction that has words decode to it, and nothing is left over. -/
def RoundTrip.Statement (i : Instr) : Prop :=
  hasWords i = true → wellFormed i = true → decode (encodeBytes i) = .ok (i, [])

/-! ## From words to bytes -/

theorem bv_bits {n v : Nat} (x : BitVec n) (h : v = x.toNat) : bv n v = x :=
  BitVec.eq_of_toNat_eq (by rw [h, BitVec.toNat_ofNat, Nat.mod_eq_of_lt x.isLt])

theorem word_nil (base : Nat) : word base [] = base := by rw [word, List.foldr]

theorem word_cons (base x k : Nat) (l : List (Nat × Nat)) : word base ((x, k) :: l) = x * 2 ^ k + word base l := by
  rw [word, List.foldr, word]

theorem resv_ok1 {w a b : Nat} {i : Instr} (h : bits w a b = 0) : resv w [(a, b)] i = .ok i := by
  simp [resv, h]

theorem resv_ok2 {w a b c d : Nat} {i : Instr} (h : bits w a b = 0) (h' : bits w c d = 0) :
    resv w [(a, b), (c, d)] i = .ok i := by
  simp [resv, h, h']

theorem resv_ok3 {w a b c d e f : Nat} {i : Instr} (h : bits w a b = 0) (h' : bits w c d = 0) (h'' : bits w e f = 0) :
    resv w [(a, b), (c, d), (e, f)] i = .ok i := by
  simp [resv, h, h', h'']

theorem leNat_leBytes (n x : Nat) : leNat (leBytes x n) = x % 256 ^ n := by
  induction n generalizing x with
  | zero => simp [leNat, leBytes, Nat.mod_one]
  | succ n ih =>
    simp only [leBytes, leNat, ih, BitVec.toNat_ofNat]
    rw [show (2 : Nat) ^ 8 = 256 from rfl, Nat.pow_succ, Nat.mul_comm (256 ^ n) 256, Nat.mod_mul]

theorem leBytes_length (n x : Nat) : (leBytes x n).length = n := by
  induction n generalizing x with
  | zero => rfl
  | succ n ih => simp only [leBytes, List.length_cons, ih]

theorem encodeBytes_one {i : Instr} {w : Nat} (h : encode i = [w]) : encodeBytes i = leBytes w 4 := by
  simp [encodeBytes, h]

theorem encodeBytes_two {i : Instr} {w v : Nat} (h : encode i = [w, v]) : encodeBytes i = leBytes w 4 ++ leBytes v 4 := by
  simp [encodeBytes, h]

theorem decode_one {w : Nat} {i : Instr} (hlt : w < 2 ^ 32) (ht : twoWord w = false) (hd : decodeWords w 0 = .ok i) :
    decode (leBytes w 4) = .ok (i, []) := by
  have hl := leBytes_length 4 w
  have hn : leNat ((leBytes w 4).take 4) = w := by
    rw [List.take_of_length_le (by omega), leNat_leBytes, Nat.mod_eq_of_lt (by omega)]
  simp only [decode, hl, hn, ht, hd, Nat.lt_irrefl, if_false, Bool.false_eq_true]
  rw [List.drop_of_length_le (by omega)]

theorem decode_two {w v : Nat} {i : Instr} (hlt : w < 2 ^ 32) (hlt' : v < 2 ^ 32) (ht : twoWord w = true)
    (hd : decodeWords w v = .ok i) : decode (leBytes w 4 ++ leBytes v 4) = .ok (i, []) := by
  have hl := leBytes_length 4 w
  have hl' := leBytes_length 4 v
  have hn : leNat ((leBytes w 4 ++ leBytes v 4).take 4) = w := by
    rw [List.take_left' hl, leNat_leBytes, Nat.mod_eq_of_lt (by omega)]
  have hv : leNat (((leBytes w 4 ++ leBytes v 4).drop 4).take 4) = v := by
    rw [List.drop_left' hl, List.take_of_length_le (by omega), leNat_leBytes, Nat.mod_eq_of_lt (by omega)]
  have h8 : (leBytes w 4 ++ leBytes v 4).length = 8 := by rw [List.length_append, hl, hl']
  simp only [decode, h8, hn, hv, ht, hd, if_true]
  rw [List.drop_of_length_le (by omega)]
  rfl

/-- The first word of a lane instruction of one word or of two. -/
theorem twoWord_lane {w op : Nat} (h31 : bits w 31 31 = 0) (hop : bits w 28 23 = op) :
    twoWord w = (decide (0x34 ≤ op) && decide (op ≤ 0x36)) := by
  simp [twoWord, h31, hop]

/-- The first word of a uniform instruction of one word or of two. -/
theorem twoWord_uni {w op : Nat} (h31 : bits w 31 31 = 1) (hop : bits w 28 22 = op) : twoWord w = decide (op = 0x10) := by
  simp [twoWord, h31, hop]

theorem words_lane {w v : Nat} {i : Instr} (h31 : bits w 31 31 = 0) (hd : decodeLane w v = .ok i) (hw : wellFormed i = true) :
    decodeWords w v = .ok i := by
  simp only [decodeWords, h31, if_true, hd, hw]

theorem words_uni {w v : Nat} {i : Instr} (h31 : bits w 31 31 = 1) (hd : decodeUniform w v = .ok i) (hw : wellFormed i = true) :
    decodeWords w v = .ok i := by
  simp [decodeWords, h31, hd, hw]

theorem decode_lane_one {w op : Nat} {i : Instr} (hlt : w < 2 ^ 32) (h31 : bits w 31 31 = 0) (hop : bits w 28 23 = op)
    (h2 : (decide (0x34 ≤ op) && decide (op ≤ 0x36)) = false) (hd : decodeLane w 0 = .ok i) (hw : wellFormed i = true) :
    decode (leBytes w 4) = .ok (i, []) :=
  decode_one hlt ((twoWord_lane h31 hop).trans h2) (words_lane h31 hd hw)

theorem decode_uni_one {w op : Nat} {i : Instr} (hlt : w < 2 ^ 32) (h31 : bits w 31 31 = 1) (hop : bits w 28 22 = op)
    (h2 : decide (op = 0x10) = false) (hd : decodeUniform w 0 = .ok i) (hw : wellFormed i = true) :
    decode (leBytes w 4) = .ok (i, []) :=
  decode_one hlt ((twoWord_uni h31 hop).trans h2) (words_uni h31 hd hw)

theorem decode_lane_two {w v op : Nat} {i : Instr} (hlt : w < 2 ^ 32) (hlt' : v < 2 ^ 32) (h31 : bits w 31 31 = 0)
    (hop : bits w 28 23 = op) (h2 : (decide (0x34 ≤ op) && decide (op ≤ 0x36)) = true) (hd : decodeLane w v = .ok i)
    (hw : wellFormed i = true) : decode (leBytes w 4 ++ leBytes v 4) = .ok (i, []) :=
  decode_two hlt hlt' ((twoWord_lane h31 hop).trans h2) (words_lane h31 hd hw)

theorem decode_uni_two {w v op : Nat} {i : Instr} (hlt : w < 2 ^ 32) (hlt' : v < 2 ^ 32) (h31 : bits w 31 31 = 1)
    (hop : bits w 28 22 = op) (h2 : decide (op = 0x10) = true) (hd : decodeUniform w v = .ok i) (hw : wellFormed i = true) :
    decode (leBytes w 4 ++ leBytes v 4) = .ok (i, []) :=
  decode_two hlt hlt' ((twoWord_uni h31 hop).trans h2) (words_uni h31 hd hw)

/-! ## Each instruction -/

theorem RoundTrip.iadd (st : BitVec 2) (d : BitVec 7) (a : BitVec 7) (b : BitVec 7) (m : BitVec 2) : RoundTrip.Statement (.iadd st d a b m) := by
  intro _ hw
  have := st.isLt
  have := d.isLt
  have := a.isLt
  have := b.isLt
  have := m.isLt
  obtain ⟨wd, h1⟩ : ∃ out, out = word 0x0 [(st.toNat, 29), (d.toNat, 16), (a.toNat, 9), (b.toNat, 2), (m.toNat, 0)] := ⟨_, rfl⟩
  have hwd := h1
  simp only [word_cons, word_nil] at hwd
  have est : bv 2 (bits wd 30 29) = st := bv_bits _ (by simp only [bits]; omega)
  have ed : bv 7 (bits wd 22 16) = d := bv_bits _ (by simp only [bits]; omega)
  have ea : bv 7 (bits wd 15 9) = a := bv_bits _ (by simp only [bits]; omega)
  have eb : bv 7 (bits wd 8 2) = b := bv_bits _ (by simp only [bits]; omega)
  have em : bv 2 (bits wd 1 0) = m := bv_bits _ (by simp only [bits]; omega)
  have hop : bits wd 28 23 = 0x0 := by simp only [bits]; omega
  have hd : decodeLane wd 0 = .ok (.iadd st d a b m) := by
    have hx : decodeLane wd 0 = (.ok (.iadd (bv 2 (bits wd 30 29)) (bv 7 (bits wd 22 16)) (bv 7 (bits wd 15 9)) (bv 7 (bits wd 8 2)) (bv 2 (bits wd 1 0)))) := by unfold decodeLane; rw [hop]; rfl
    rw [hx]
    rw [est, ed, ea, eb, em]
  rw [encodeBytes_one (show encode (.iadd st d a b m) = [wd] by rw [h1]; rfl)]
  exact decode_lane_one (by omega) (by simp only [bits]; omega) hop (by decide) hd hw

theorem RoundTrip.isub (st : BitVec 2) (d : BitVec 7) (a : BitVec 7) (b : BitVec 7) (m : BitVec 2) : RoundTrip.Statement (.isub st d a b m) := by
  intro _ hw
  have := st.isLt
  have := d.isLt
  have := a.isLt
  have := b.isLt
  have := m.isLt
  obtain ⟨wd, h1⟩ : ∃ out, out = word 0x800000 [(st.toNat, 29), (d.toNat, 16), (a.toNat, 9), (b.toNat, 2), (m.toNat, 0)] := ⟨_, rfl⟩
  have hwd := h1
  simp only [word_cons, word_nil] at hwd
  have est : bv 2 (bits wd 30 29) = st := bv_bits _ (by simp only [bits]; omega)
  have ed : bv 7 (bits wd 22 16) = d := bv_bits _ (by simp only [bits]; omega)
  have ea : bv 7 (bits wd 15 9) = a := bv_bits _ (by simp only [bits]; omega)
  have eb : bv 7 (bits wd 8 2) = b := bv_bits _ (by simp only [bits]; omega)
  have em : bv 2 (bits wd 1 0) = m := bv_bits _ (by simp only [bits]; omega)
  have hop : bits wd 28 23 = 0x1 := by simp only [bits]; omega
  have hd : decodeLane wd 0 = .ok (.isub st d a b m) := by
    have hx : decodeLane wd 0 = (.ok (.isub (bv 2 (bits wd 30 29)) (bv 7 (bits wd 22 16)) (bv 7 (bits wd 15 9)) (bv 7 (bits wd 8 2)) (bv 2 (bits wd 1 0)))) := by unfold decodeLane; rw [hop]; rfl
    rw [hx]
    rw [est, ed, ea, eb, em]
  rw [encodeBytes_one (show encode (.isub st d a b m) = [wd] by rw [h1]; rfl)]
  exact decode_lane_one (by omega) (by simp only [bits]; omega) hop (by decide) hd hw

theorem RoundTrip.imul (st : BitVec 2) (d : BitVec 7) (a : BitVec 7) (b : BitVec 7) (m : BitVec 2) : RoundTrip.Statement (.imul st d a b m) := by
  intro _ hw
  have := st.isLt
  have := d.isLt
  have := a.isLt
  have := b.isLt
  have := m.isLt
  obtain ⟨wd, h1⟩ : ∃ out, out = word 0x1000000 [(st.toNat, 29), (d.toNat, 16), (a.toNat, 9), (b.toNat, 2), (m.toNat, 0)] := ⟨_, rfl⟩
  have hwd := h1
  simp only [word_cons, word_nil] at hwd
  have est : bv 2 (bits wd 30 29) = st := bv_bits _ (by simp only [bits]; omega)
  have ed : bv 7 (bits wd 22 16) = d := bv_bits _ (by simp only [bits]; omega)
  have ea : bv 7 (bits wd 15 9) = a := bv_bits _ (by simp only [bits]; omega)
  have eb : bv 7 (bits wd 8 2) = b := bv_bits _ (by simp only [bits]; omega)
  have em : bv 2 (bits wd 1 0) = m := bv_bits _ (by simp only [bits]; omega)
  have hop : bits wd 28 23 = 0x2 := by simp only [bits]; omega
  have hd : decodeLane wd 0 = .ok (.imul st d a b m) := by
    have hx : decodeLane wd 0 = (.ok (.imul (bv 2 (bits wd 30 29)) (bv 7 (bits wd 22 16)) (bv 7 (bits wd 15 9)) (bv 7 (bits wd 8 2)) (bv 2 (bits wd 1 0)))) := by unfold decodeLane; rw [hop]; rfl
    rw [hx]
    rw [est, ed, ea, eb, em]
  rw [encodeBytes_one (show encode (.imul st d a b m) = [wd] by rw [h1]; rfl)]
  exact decode_lane_one (by omega) (by simp only [bits]; omega) hop (by decide) hd hw

theorem RoundTrip.imulh (st : BitVec 2) (d : BitVec 7) (a : BitVec 7) (b : BitVec 7) (m : BitVec 2) : RoundTrip.Statement (.imulh st d a b m) := by
  intro _ hw
  have := st.isLt
  have := d.isLt
  have := a.isLt
  have := b.isLt
  have := m.isLt
  obtain ⟨wd, h1⟩ : ∃ out, out = word 0x1800000 [(st.toNat, 29), (d.toNat, 16), (a.toNat, 9), (b.toNat, 2), (m.toNat, 0)] := ⟨_, rfl⟩
  have hwd := h1
  simp only [word_cons, word_nil] at hwd
  have est : bv 2 (bits wd 30 29) = st := bv_bits _ (by simp only [bits]; omega)
  have ed : bv 7 (bits wd 22 16) = d := bv_bits _ (by simp only [bits]; omega)
  have ea : bv 7 (bits wd 15 9) = a := bv_bits _ (by simp only [bits]; omega)
  have eb : bv 7 (bits wd 8 2) = b := bv_bits _ (by simp only [bits]; omega)
  have em : bv 2 (bits wd 1 0) = m := bv_bits _ (by simp only [bits]; omega)
  have hop : bits wd 28 23 = 0x3 := by simp only [bits]; omega
  have hd : decodeLane wd 0 = .ok (.imulh st d a b m) := by
    have hx : decodeLane wd 0 = (.ok (.imulh (bv 2 (bits wd 30 29)) (bv 7 (bits wd 22 16)) (bv 7 (bits wd 15 9)) (bv 7 (bits wd 8 2)) (bv 2 (bits wd 1 0)))) := by unfold decodeLane; rw [hop]; rfl
    rw [hx]
    rw [est, ed, ea, eb, em]
  rw [encodeBytes_one (show encode (.imulh st d a b m) = [wd] by rw [h1]; rfl)]
  exact decode_lane_one (by omega) (by simp only [bits]; omega) hop (by decide) hd hw

theorem RoundTrip.imad (st : BitVec 2) (d : BitVec 7) (a : BitVec 7) (b : BitVec 7) (m : BitVec 2) : RoundTrip.Statement (.imad st d a b m) := by
  intro _ hw
  have := st.isLt
  have := d.isLt
  have := a.isLt
  have := b.isLt
  have := m.isLt
  obtain ⟨wd, h1⟩ : ∃ out, out = word 0x2000000 [(st.toNat, 29), (d.toNat, 16), (a.toNat, 9), (b.toNat, 2), (m.toNat, 0)] := ⟨_, rfl⟩
  have hwd := h1
  simp only [word_cons, word_nil] at hwd
  have est : bv 2 (bits wd 30 29) = st := bv_bits _ (by simp only [bits]; omega)
  have ed : bv 7 (bits wd 22 16) = d := bv_bits _ (by simp only [bits]; omega)
  have ea : bv 7 (bits wd 15 9) = a := bv_bits _ (by simp only [bits]; omega)
  have eb : bv 7 (bits wd 8 2) = b := bv_bits _ (by simp only [bits]; omega)
  have em : bv 2 (bits wd 1 0) = m := bv_bits _ (by simp only [bits]; omega)
  have hop : bits wd 28 23 = 0x4 := by simp only [bits]; omega
  have hd : decodeLane wd 0 = .ok (.imad st d a b m) := by
    have hx : decodeLane wd 0 = (.ok (.imad (bv 2 (bits wd 30 29)) (bv 7 (bits wd 22 16)) (bv 7 (bits wd 15 9)) (bv 7 (bits wd 8 2)) (bv 2 (bits wd 1 0)))) := by unfold decodeLane; rw [hop]; rfl
    rw [hx]
    rw [est, ed, ea, eb, em]
  rw [encodeBytes_one (show encode (.imad st d a b m) = [wd] by rw [h1]; rfl)]
  exact decode_lane_one (by omega) (by simp only [bits]; omega) hop (by decide) hd hw

theorem RoundTrip.imin (st : BitVec 2) (d : BitVec 7) (a : BitVec 7) (b : BitVec 7) (m : BitVec 2) : RoundTrip.Statement (.imin st d a b m) := by
  intro _ hw
  have := st.isLt
  have := d.isLt
  have := a.isLt
  have := b.isLt
  have := m.isLt
  obtain ⟨wd, h1⟩ : ∃ out, out = word 0x2800000 [(st.toNat, 29), (d.toNat, 16), (a.toNat, 9), (b.toNat, 2), (m.toNat, 0)] := ⟨_, rfl⟩
  have hwd := h1
  simp only [word_cons, word_nil] at hwd
  have est : bv 2 (bits wd 30 29) = st := bv_bits _ (by simp only [bits]; omega)
  have ed : bv 7 (bits wd 22 16) = d := bv_bits _ (by simp only [bits]; omega)
  have ea : bv 7 (bits wd 15 9) = a := bv_bits _ (by simp only [bits]; omega)
  have eb : bv 7 (bits wd 8 2) = b := bv_bits _ (by simp only [bits]; omega)
  have em : bv 2 (bits wd 1 0) = m := bv_bits _ (by simp only [bits]; omega)
  have hop : bits wd 28 23 = 0x5 := by simp only [bits]; omega
  have hd : decodeLane wd 0 = .ok (.imin st d a b m) := by
    have hx : decodeLane wd 0 = (.ok (.imin (bv 2 (bits wd 30 29)) (bv 7 (bits wd 22 16)) (bv 7 (bits wd 15 9)) (bv 7 (bits wd 8 2)) (bv 2 (bits wd 1 0)))) := by unfold decodeLane; rw [hop]; rfl
    rw [hx]
    rw [est, ed, ea, eb, em]
  rw [encodeBytes_one (show encode (.imin st d a b m) = [wd] by rw [h1]; rfl)]
  exact decode_lane_one (by omega) (by simp only [bits]; omega) hop (by decide) hd hw

theorem RoundTrip.imax (st : BitVec 2) (d : BitVec 7) (a : BitVec 7) (b : BitVec 7) (m : BitVec 2) : RoundTrip.Statement (.imax st d a b m) := by
  intro _ hw
  have := st.isLt
  have := d.isLt
  have := a.isLt
  have := b.isLt
  have := m.isLt
  obtain ⟨wd, h1⟩ : ∃ out, out = word 0x3000000 [(st.toNat, 29), (d.toNat, 16), (a.toNat, 9), (b.toNat, 2), (m.toNat, 0)] := ⟨_, rfl⟩
  have hwd := h1
  simp only [word_cons, word_nil] at hwd
  have est : bv 2 (bits wd 30 29) = st := bv_bits _ (by simp only [bits]; omega)
  have ed : bv 7 (bits wd 22 16) = d := bv_bits _ (by simp only [bits]; omega)
  have ea : bv 7 (bits wd 15 9) = a := bv_bits _ (by simp only [bits]; omega)
  have eb : bv 7 (bits wd 8 2) = b := bv_bits _ (by simp only [bits]; omega)
  have em : bv 2 (bits wd 1 0) = m := bv_bits _ (by simp only [bits]; omega)
  have hop : bits wd 28 23 = 0x6 := by simp only [bits]; omega
  have hd : decodeLane wd 0 = .ok (.imax st d a b m) := by
    have hx : decodeLane wd 0 = (.ok (.imax (bv 2 (bits wd 30 29)) (bv 7 (bits wd 22 16)) (bv 7 (bits wd 15 9)) (bv 7 (bits wd 8 2)) (bv 2 (bits wd 1 0)))) := by unfold decodeLane; rw [hop]; rfl
    rw [hx]
    rw [est, ed, ea, eb, em]
  rw [encodeBytes_one (show encode (.imax st d a b m) = [wd] by rw [h1]; rfl)]
  exact decode_lane_one (by omega) (by simp only [bits]; omega) hop (by decide) hd hw

theorem RoundTrip.iaddsat (st : BitVec 2) (d : BitVec 7) (a : BitVec 7) (b : BitVec 7) (m : BitVec 2) : RoundTrip.Statement (.iaddsat st d a b m) := by
  intro _ hw
  have := st.isLt
  have := d.isLt
  have := a.isLt
  have := b.isLt
  have := m.isLt
  obtain ⟨wd, h1⟩ : ∃ out, out = word 0x3800000 [(st.toNat, 29), (d.toNat, 16), (a.toNat, 9), (b.toNat, 2), (m.toNat, 0)] := ⟨_, rfl⟩
  have hwd := h1
  simp only [word_cons, word_nil] at hwd
  have est : bv 2 (bits wd 30 29) = st := bv_bits _ (by simp only [bits]; omega)
  have ed : bv 7 (bits wd 22 16) = d := bv_bits _ (by simp only [bits]; omega)
  have ea : bv 7 (bits wd 15 9) = a := bv_bits _ (by simp only [bits]; omega)
  have eb : bv 7 (bits wd 8 2) = b := bv_bits _ (by simp only [bits]; omega)
  have em : bv 2 (bits wd 1 0) = m := bv_bits _ (by simp only [bits]; omega)
  have hop : bits wd 28 23 = 0x7 := by simp only [bits]; omega
  have hd : decodeLane wd 0 = .ok (.iaddsat st d a b m) := by
    have hx : decodeLane wd 0 = (.ok (.iaddsat (bv 2 (bits wd 30 29)) (bv 7 (bits wd 22 16)) (bv 7 (bits wd 15 9)) (bv 7 (bits wd 8 2)) (bv 2 (bits wd 1 0)))) := by unfold decodeLane; rw [hop]; rfl
    rw [hx]
    rw [est, ed, ea, eb, em]
  rw [encodeBytes_one (show encode (.iaddsat st d a b m) = [wd] by rw [h1]; rfl)]
  exact decode_lane_one (by omega) (by simp only [bits]; omega) hop (by decide) hd hw

theorem RoundTrip.and (st : BitVec 2) (d : BitVec 7) (a : BitVec 7) (b : BitVec 7) (m : BitVec 2) : RoundTrip.Statement (.and st d a b m) := by
  intro _ hw
  have := st.isLt
  have := d.isLt
  have := a.isLt
  have := b.isLt
  have := m.isLt
  obtain ⟨wd, h1⟩ : ∃ out, out = word 0x4000000 [(st.toNat, 29), (d.toNat, 16), (a.toNat, 9), (b.toNat, 2), (m.toNat, 0)] := ⟨_, rfl⟩
  have hwd := h1
  simp only [word_cons, word_nil] at hwd
  have est : bv 2 (bits wd 30 29) = st := bv_bits _ (by simp only [bits]; omega)
  have ed : bv 7 (bits wd 22 16) = d := bv_bits _ (by simp only [bits]; omega)
  have ea : bv 7 (bits wd 15 9) = a := bv_bits _ (by simp only [bits]; omega)
  have eb : bv 7 (bits wd 8 2) = b := bv_bits _ (by simp only [bits]; omega)
  have em : bv 2 (bits wd 1 0) = m := bv_bits _ (by simp only [bits]; omega)
  have hop : bits wd 28 23 = 0x8 := by simp only [bits]; omega
  have hd : decodeLane wd 0 = .ok (.and st d a b m) := by
    have hx : decodeLane wd 0 = (.ok (.and (bv 2 (bits wd 30 29)) (bv 7 (bits wd 22 16)) (bv 7 (bits wd 15 9)) (bv 7 (bits wd 8 2)) (bv 2 (bits wd 1 0)))) := by unfold decodeLane; rw [hop]; rfl
    rw [hx]
    rw [est, ed, ea, eb, em]
  rw [encodeBytes_one (show encode (.and st d a b m) = [wd] by rw [h1]; rfl)]
  exact decode_lane_one (by omega) (by simp only [bits]; omega) hop (by decide) hd hw

theorem RoundTrip.or (st : BitVec 2) (d : BitVec 7) (a : BitVec 7) (b : BitVec 7) (m : BitVec 2) : RoundTrip.Statement (.or st d a b m) := by
  intro _ hw
  have := st.isLt
  have := d.isLt
  have := a.isLt
  have := b.isLt
  have := m.isLt
  obtain ⟨wd, h1⟩ : ∃ out, out = word 0x4800000 [(st.toNat, 29), (d.toNat, 16), (a.toNat, 9), (b.toNat, 2), (m.toNat, 0)] := ⟨_, rfl⟩
  have hwd := h1
  simp only [word_cons, word_nil] at hwd
  have est : bv 2 (bits wd 30 29) = st := bv_bits _ (by simp only [bits]; omega)
  have ed : bv 7 (bits wd 22 16) = d := bv_bits _ (by simp only [bits]; omega)
  have ea : bv 7 (bits wd 15 9) = a := bv_bits _ (by simp only [bits]; omega)
  have eb : bv 7 (bits wd 8 2) = b := bv_bits _ (by simp only [bits]; omega)
  have em : bv 2 (bits wd 1 0) = m := bv_bits _ (by simp only [bits]; omega)
  have hop : bits wd 28 23 = 0x9 := by simp only [bits]; omega
  have hd : decodeLane wd 0 = .ok (.or st d a b m) := by
    have hx : decodeLane wd 0 = (.ok (.or (bv 2 (bits wd 30 29)) (bv 7 (bits wd 22 16)) (bv 7 (bits wd 15 9)) (bv 7 (bits wd 8 2)) (bv 2 (bits wd 1 0)))) := by unfold decodeLane; rw [hop]; rfl
    rw [hx]
    rw [est, ed, ea, eb, em]
  rw [encodeBytes_one (show encode (.or st d a b m) = [wd] by rw [h1]; rfl)]
  exact decode_lane_one (by omega) (by simp only [bits]; omega) hop (by decide) hd hw

theorem RoundTrip.xor (st : BitVec 2) (d : BitVec 7) (a : BitVec 7) (b : BitVec 7) (m : BitVec 2) : RoundTrip.Statement (.xor st d a b m) := by
  intro _ hw
  have := st.isLt
  have := d.isLt
  have := a.isLt
  have := b.isLt
  have := m.isLt
  obtain ⟨wd, h1⟩ : ∃ out, out = word 0x5000000 [(st.toNat, 29), (d.toNat, 16), (a.toNat, 9), (b.toNat, 2), (m.toNat, 0)] := ⟨_, rfl⟩
  have hwd := h1
  simp only [word_cons, word_nil] at hwd
  have est : bv 2 (bits wd 30 29) = st := bv_bits _ (by simp only [bits]; omega)
  have ed : bv 7 (bits wd 22 16) = d := bv_bits _ (by simp only [bits]; omega)
  have ea : bv 7 (bits wd 15 9) = a := bv_bits _ (by simp only [bits]; omega)
  have eb : bv 7 (bits wd 8 2) = b := bv_bits _ (by simp only [bits]; omega)
  have em : bv 2 (bits wd 1 0) = m := bv_bits _ (by simp only [bits]; omega)
  have hop : bits wd 28 23 = 0xa := by simp only [bits]; omega
  have hd : decodeLane wd 0 = .ok (.xor st d a b m) := by
    have hx : decodeLane wd 0 = (.ok (.xor (bv 2 (bits wd 30 29)) (bv 7 (bits wd 22 16)) (bv 7 (bits wd 15 9)) (bv 7 (bits wd 8 2)) (bv 2 (bits wd 1 0)))) := by unfold decodeLane; rw [hop]; rfl
    rw [hx]
    rw [est, ed, ea, eb, em]
  rw [encodeBytes_one (show encode (.xor st d a b m) = [wd] by rw [h1]; rfl)]
  exact decode_lane_one (by omega) (by simp only [bits]; omega) hop (by decide) hd hw

theorem RoundTrip.andn (st : BitVec 2) (d : BitVec 7) (a : BitVec 7) (b : BitVec 7) (m : BitVec 2) : RoundTrip.Statement (.andn st d a b m) := by
  intro _ hw
  have := st.isLt
  have := d.isLt
  have := a.isLt
  have := b.isLt
  have := m.isLt
  obtain ⟨wd, h1⟩ : ∃ out, out = word 0x5800000 [(st.toNat, 29), (d.toNat, 16), (a.toNat, 9), (b.toNat, 2), (m.toNat, 0)] := ⟨_, rfl⟩
  have hwd := h1
  simp only [word_cons, word_nil] at hwd
  have est : bv 2 (bits wd 30 29) = st := bv_bits _ (by simp only [bits]; omega)
  have ed : bv 7 (bits wd 22 16) = d := bv_bits _ (by simp only [bits]; omega)
  have ea : bv 7 (bits wd 15 9) = a := bv_bits _ (by simp only [bits]; omega)
  have eb : bv 7 (bits wd 8 2) = b := bv_bits _ (by simp only [bits]; omega)
  have em : bv 2 (bits wd 1 0) = m := bv_bits _ (by simp only [bits]; omega)
  have hop : bits wd 28 23 = 0xb := by simp only [bits]; omega
  have hd : decodeLane wd 0 = .ok (.andn st d a b m) := by
    have hx : decodeLane wd 0 = (.ok (.andn (bv 2 (bits wd 30 29)) (bv 7 (bits wd 22 16)) (bv 7 (bits wd 15 9)) (bv 7 (bits wd 8 2)) (bv 2 (bits wd 1 0)))) := by unfold decodeLane; rw [hop]; rfl
    rw [hx]
    rw [est, ed, ea, eb, em]
  rw [encodeBytes_one (show encode (.andn st d a b m) = [wd] by rw [h1]; rfl)]
  exact decode_lane_one (by omega) (by simp only [bits]; omega) hop (by decide) hd hw

theorem RoundTrip.shl (st : BitVec 2) (d : BitVec 7) (a : BitVec 7) (b : BitVec 7) (m : BitVec 2) : RoundTrip.Statement (.shl st d a b m) := by
  intro _ hw
  have := st.isLt
  have := d.isLt
  have := a.isLt
  have := b.isLt
  have := m.isLt
  obtain ⟨wd, h1⟩ : ∃ out, out = word 0x6000000 [(st.toNat, 29), (d.toNat, 16), (a.toNat, 9), (b.toNat, 2), (m.toNat, 0)] := ⟨_, rfl⟩
  have hwd := h1
  simp only [word_cons, word_nil] at hwd
  have est : bv 2 (bits wd 30 29) = st := bv_bits _ (by simp only [bits]; omega)
  have ed : bv 7 (bits wd 22 16) = d := bv_bits _ (by simp only [bits]; omega)
  have ea : bv 7 (bits wd 15 9) = a := bv_bits _ (by simp only [bits]; omega)
  have eb : bv 7 (bits wd 8 2) = b := bv_bits _ (by simp only [bits]; omega)
  have em : bv 2 (bits wd 1 0) = m := bv_bits _ (by simp only [bits]; omega)
  have hop : bits wd 28 23 = 0xc := by simp only [bits]; omega
  have hd : decodeLane wd 0 = .ok (.shl st d a b m) := by
    have hx : decodeLane wd 0 = (.ok (.shl (bv 2 (bits wd 30 29)) (bv 7 (bits wd 22 16)) (bv 7 (bits wd 15 9)) (bv 7 (bits wd 8 2)) (bv 2 (bits wd 1 0)))) := by unfold decodeLane; rw [hop]; rfl
    rw [hx]
    rw [est, ed, ea, eb, em]
  rw [encodeBytes_one (show encode (.shl st d a b m) = [wd] by rw [h1]; rfl)]
  exact decode_lane_one (by omega) (by simp only [bits]; omega) hop (by decide) hd hw

theorem RoundTrip.shr (st : BitVec 2) (d : BitVec 7) (a : BitVec 7) (b : BitVec 7) (m : BitVec 2) : RoundTrip.Statement (.shr st d a b m) := by
  intro _ hw
  have := st.isLt
  have := d.isLt
  have := a.isLt
  have := b.isLt
  have := m.isLt
  obtain ⟨wd, h1⟩ : ∃ out, out = word 0x6800000 [(st.toNat, 29), (d.toNat, 16), (a.toNat, 9), (b.toNat, 2), (m.toNat, 0)] := ⟨_, rfl⟩
  have hwd := h1
  simp only [word_cons, word_nil] at hwd
  have est : bv 2 (bits wd 30 29) = st := bv_bits _ (by simp only [bits]; omega)
  have ed : bv 7 (bits wd 22 16) = d := bv_bits _ (by simp only [bits]; omega)
  have ea : bv 7 (bits wd 15 9) = a := bv_bits _ (by simp only [bits]; omega)
  have eb : bv 7 (bits wd 8 2) = b := bv_bits _ (by simp only [bits]; omega)
  have em : bv 2 (bits wd 1 0) = m := bv_bits _ (by simp only [bits]; omega)
  have hop : bits wd 28 23 = 0xd := by simp only [bits]; omega
  have hd : decodeLane wd 0 = .ok (.shr st d a b m) := by
    have hx : decodeLane wd 0 = (.ok (.shr (bv 2 (bits wd 30 29)) (bv 7 (bits wd 22 16)) (bv 7 (bits wd 15 9)) (bv 7 (bits wd 8 2)) (bv 2 (bits wd 1 0)))) := by unfold decodeLane; rw [hop]; rfl
    rw [hx]
    rw [est, ed, ea, eb, em]
  rw [encodeBytes_one (show encode (.shr st d a b m) = [wd] by rw [h1]; rfl)]
  exact decode_lane_one (by omega) (by simp only [bits]; omega) hop (by decide) hd hw

theorem RoundTrip.icmp (st : BitVec 2) (p : BitVec 3) (c : BitVec 4) (a : BitVec 7) (b : BitVec 7) (m : BitVec 2) : RoundTrip.Statement (.icmp st p c a b m) := by
  intro _ hw
  have := st.isLt
  have := p.isLt
  have := c.isLt
  have := a.isLt
  have := b.isLt
  have := m.isLt
  obtain ⟨wd, h1⟩ : ∃ out, out = word 0x7000000 [(st.toNat, 29), (p.toNat, 20), (c.toNat, 16), (a.toNat, 9), (b.toNat, 2), (m.toNat, 0)] := ⟨_, rfl⟩
  have hwd := h1
  simp only [word_cons, word_nil] at hwd
  have est : bv 2 (bits wd 30 29) = st := bv_bits _ (by simp only [bits]; omega)
  have ep : bv 3 (bits wd 22 20) = p := bv_bits _ (by simp only [bits]; omega)
  have ec : bv 4 (bits wd 19 16) = c := bv_bits _ (by simp only [bits]; omega)
  have ea : bv 7 (bits wd 15 9) = a := bv_bits _ (by simp only [bits]; omega)
  have eb : bv 7 (bits wd 8 2) = b := bv_bits _ (by simp only [bits]; omega)
  have em : bv 2 (bits wd 1 0) = m := bv_bits _ (by simp only [bits]; omega)
  have hop : bits wd 28 23 = 0xe := by simp only [bits]; omega
  have hd : decodeLane wd 0 = .ok (.icmp st p c a b m) := by
    have hx : decodeLane wd 0 = (.ok (.icmp (bv 2 (bits wd 30 29)) (bv 3 (bits wd 22 20)) (bv 4 (bits wd 19 16)) (bv 7 (bits wd 15 9)) (bv 7 (bits wd 8 2)) (bv 2 (bits wd 1 0)))) := by unfold decodeLane; rw [hop]; rfl
    rw [hx]
    rw [est, ep, ec, ea, eb, em]
  rw [encodeBytes_one (show encode (.icmp st p c a b m) = [wd] by rw [h1]; rfl)]
  exact decode_lane_one (by omega) (by simp only [bits]; omega) hop (by decide) hd hw

theorem RoundTrip.iun (st : BitVec 2) (d : BitVec 7) (a : BitVec 7) (u : BitVec 7) (m : BitVec 2) : RoundTrip.Statement (.iun st d a u m) := by
  intro _ hw
  have := st.isLt
  have := d.isLt
  have := a.isLt
  have := u.isLt
  have := m.isLt
  obtain ⟨wd, h1⟩ : ∃ out, out = word 0x7800000 [(st.toNat, 29), (d.toNat, 16), (a.toNat, 9), (u.toNat, 2), (m.toNat, 0)] := ⟨_, rfl⟩
  have hwd := h1
  simp only [word_cons, word_nil] at hwd
  have est : bv 2 (bits wd 30 29) = st := bv_bits _ (by simp only [bits]; omega)
  have ed : bv 7 (bits wd 22 16) = d := bv_bits _ (by simp only [bits]; omega)
  have ea : bv 7 (bits wd 15 9) = a := bv_bits _ (by simp only [bits]; omega)
  have eu : bv 7 (bits wd 8 2) = u := bv_bits _ (by simp only [bits]; omega)
  have em : bv 2 (bits wd 1 0) = m := bv_bits _ (by simp only [bits]; omega)
  have hop : bits wd 28 23 = 0xf := by simp only [bits]; omega
  have hd : decodeLane wd 0 = .ok (.iun st d a u m) := by
    have hx : decodeLane wd 0 = (.ok (.iun (bv 2 (bits wd 30 29)) (bv 7 (bits wd 22 16)) (bv 7 (bits wd 15 9)) (bv 7 (bits wd 8 2)) (bv 2 (bits wd 1 0)))) := by unfold decodeLane; rw [hop]; rfl
    rw [hx]
    rw [est, ed, ea, eu, em]
  rw [encodeBytes_one (show encode (.iun st d a u m) = [wd] by rw [h1]; rfl)]
  exact decode_lane_one (by omega) (by simp only [bits]; omega) hop (by decide) hd hw

theorem RoundTrip.iaddi (st : BitVec 2) (d : BitVec 7) (a : BitVec 7) (i : BitVec 9) : RoundTrip.Statement (.iaddi st d a i) := by
  intro _ hw
  have := st.isLt
  have := d.isLt
  have := a.isLt
  have := i.isLt
  obtain ⟨wd, h1⟩ : ∃ out, out = word 0x8000000 [(st.toNat, 29), (d.toNat, 16), (a.toNat, 9), (i.toNat, 0)] := ⟨_, rfl⟩
  have hwd := h1
  simp only [word_cons, word_nil] at hwd
  have est : bv 2 (bits wd 30 29) = st := bv_bits _ (by simp only [bits]; omega)
  have ed : bv 7 (bits wd 22 16) = d := bv_bits _ (by simp only [bits]; omega)
  have ea : bv 7 (bits wd 15 9) = a := bv_bits _ (by simp only [bits]; omega)
  have ei : bv 9 (bits wd 8 0) = i := bv_bits _ (by simp only [bits]; omega)
  have hop : bits wd 28 23 = 0x10 := by simp only [bits]; omega
  have hd : decodeLane wd 0 = .ok (.iaddi st d a i) := by
    have hx : decodeLane wd 0 = (.ok (.iaddi (bv 2 (bits wd 30 29)) (bv 7 (bits wd 22 16)) (bv 7 (bits wd 15 9)) (bv 9 (bits wd 8 0)))) := by unfold decodeLane; rw [hop]; rfl
    rw [hx]
    rw [est, ed, ea, ei]
  rw [encodeBytes_one (show encode (.iaddi st d a i) = [wd] by rw [h1]; rfl)]
  exact decode_lane_one (by omega) (by simp only [bits]; omega) hop (by decide) hd hw

theorem RoundTrip.andi (st : BitVec 2) (d : BitVec 7) (a : BitVec 7) (i : BitVec 9) : RoundTrip.Statement (.andi st d a i) := by
  intro _ hw
  have := st.isLt
  have := d.isLt
  have := a.isLt
  have := i.isLt
  obtain ⟨wd, h1⟩ : ∃ out, out = word 0x8800000 [(st.toNat, 29), (d.toNat, 16), (a.toNat, 9), (i.toNat, 0)] := ⟨_, rfl⟩
  have hwd := h1
  simp only [word_cons, word_nil] at hwd
  have est : bv 2 (bits wd 30 29) = st := bv_bits _ (by simp only [bits]; omega)
  have ed : bv 7 (bits wd 22 16) = d := bv_bits _ (by simp only [bits]; omega)
  have ea : bv 7 (bits wd 15 9) = a := bv_bits _ (by simp only [bits]; omega)
  have ei : bv 9 (bits wd 8 0) = i := bv_bits _ (by simp only [bits]; omega)
  have hop : bits wd 28 23 = 0x11 := by simp only [bits]; omega
  have hd : decodeLane wd 0 = .ok (.andi st d a i) := by
    have hx : decodeLane wd 0 = (.ok (.andi (bv 2 (bits wd 30 29)) (bv 7 (bits wd 22 16)) (bv 7 (bits wd 15 9)) (bv 9 (bits wd 8 0)))) := by unfold decodeLane; rw [hop]; rfl
    rw [hx]
    rw [est, ed, ea, ei]
  rw [encodeBytes_one (show encode (.andi st d a i) = [wd] by rw [h1]; rfl)]
  exact decode_lane_one (by omega) (by simp only [bits]; omega) hop (by decide) hd hw

theorem RoundTrip.ori (st : BitVec 2) (d : BitVec 7) (a : BitVec 7) (i : BitVec 9) : RoundTrip.Statement (.ori st d a i) := by
  intro _ hw
  have := st.isLt
  have := d.isLt
  have := a.isLt
  have := i.isLt
  obtain ⟨wd, h1⟩ : ∃ out, out = word 0x9000000 [(st.toNat, 29), (d.toNat, 16), (a.toNat, 9), (i.toNat, 0)] := ⟨_, rfl⟩
  have hwd := h1
  simp only [word_cons, word_nil] at hwd
  have est : bv 2 (bits wd 30 29) = st := bv_bits _ (by simp only [bits]; omega)
  have ed : bv 7 (bits wd 22 16) = d := bv_bits _ (by simp only [bits]; omega)
  have ea : bv 7 (bits wd 15 9) = a := bv_bits _ (by simp only [bits]; omega)
  have ei : bv 9 (bits wd 8 0) = i := bv_bits _ (by simp only [bits]; omega)
  have hop : bits wd 28 23 = 0x12 := by simp only [bits]; omega
  have hd : decodeLane wd 0 = .ok (.ori st d a i) := by
    have hx : decodeLane wd 0 = (.ok (.ori (bv 2 (bits wd 30 29)) (bv 7 (bits wd 22 16)) (bv 7 (bits wd 15 9)) (bv 9 (bits wd 8 0)))) := by unfold decodeLane; rw [hop]; rfl
    rw [hx]
    rw [est, ed, ea, ei]
  rw [encodeBytes_one (show encode (.ori st d a i) = [wd] by rw [h1]; rfl)]
  exact decode_lane_one (by omega) (by simp only [bits]; omega) hop (by decide) hd hw

theorem RoundTrip.xori (st : BitVec 2) (d : BitVec 7) (a : BitVec 7) (i : BitVec 9) : RoundTrip.Statement (.xori st d a i) := by
  intro _ hw
  have := st.isLt
  have := d.isLt
  have := a.isLt
  have := i.isLt
  obtain ⟨wd, h1⟩ : ∃ out, out = word 0x9800000 [(st.toNat, 29), (d.toNat, 16), (a.toNat, 9), (i.toNat, 0)] := ⟨_, rfl⟩
  have hwd := h1
  simp only [word_cons, word_nil] at hwd
  have est : bv 2 (bits wd 30 29) = st := bv_bits _ (by simp only [bits]; omega)
  have ed : bv 7 (bits wd 22 16) = d := bv_bits _ (by simp only [bits]; omega)
  have ea : bv 7 (bits wd 15 9) = a := bv_bits _ (by simp only [bits]; omega)
  have ei : bv 9 (bits wd 8 0) = i := bv_bits _ (by simp only [bits]; omega)
  have hop : bits wd 28 23 = 0x13 := by simp only [bits]; omega
  have hd : decodeLane wd 0 = .ok (.xori st d a i) := by
    have hx : decodeLane wd 0 = (.ok (.xori (bv 2 (bits wd 30 29)) (bv 7 (bits wd 22 16)) (bv 7 (bits wd 15 9)) (bv 9 (bits wd 8 0)))) := by unfold decodeLane; rw [hop]; rfl
    rw [hx]
    rw [est, ed, ea, ei]
  rw [encodeBytes_one (show encode (.xori st d a i) = [wd] by rw [h1]; rfl)]
  exact decode_lane_one (by omega) (by simp only [bits]; omega) hop (by decide) hd hw

theorem RoundTrip.shli (st : BitVec 2) (d : BitVec 7) (a : BitVec 7) (n : BitVec 5) : RoundTrip.Statement (.shli st d a n) := by
  intro _ hw
  have := st.isLt
  have := d.isLt
  have := a.isLt
  have := n.isLt
  obtain ⟨wd, h1⟩ : ∃ out, out = word 0xa000000 [(st.toNat, 29), (d.toNat, 16), (a.toNat, 9), (n.toNat, 0)] := ⟨_, rfl⟩
  have hwd := h1
  simp only [word_cons, word_nil] at hwd
  have est : bv 2 (bits wd 30 29) = st := bv_bits _ (by simp only [bits]; omega)
  have ed : bv 7 (bits wd 22 16) = d := bv_bits _ (by simp only [bits]; omega)
  have ea : bv 7 (bits wd 15 9) = a := bv_bits _ (by simp only [bits]; omega)
  have en : bv 5 (bits wd 4 0) = n := bv_bits _ (by simp only [bits]; omega)
  have hop : bits wd 28 23 = 0x14 := by simp only [bits]; omega
  have hd : decodeLane wd 0 = .ok (.shli st d a n) := by
    have hx : decodeLane wd 0 = (resv wd [(8, 5)] (.shli (bv 2 (bits wd 30 29)) (bv 7 (bits wd 22 16)) (bv 7 (bits wd 15 9)) (bv 5 (bits wd 4 0)))) := by unfold decodeLane; rw [hop]; rfl
    rw [hx]
    rw [resv_ok1 (by simp only [bits]; omega)]
    rw [est, ed, ea, en]
  rw [encodeBytes_one (show encode (.shli st d a n) = [wd] by rw [h1]; rfl)]
  exact decode_lane_one (by omega) (by simp only [bits]; omega) hop (by decide) hd hw

theorem RoundTrip.shri (st : BitVec 2) (d : BitVec 7) (a : BitVec 7) (h : BitVec 1) (n : BitVec 5) : RoundTrip.Statement (.shri st d a h n) := by
  intro _ hw
  have := st.isLt
  have := d.isLt
  have := a.isLt
  have := h.isLt
  have := n.isLt
  obtain ⟨wd, h1⟩ : ∃ out, out = word 0xa800000 [(st.toNat, 29), (d.toNat, 16), (a.toNat, 9), (h.toNat, 5), (n.toNat, 0)] := ⟨_, rfl⟩
  have hwd := h1
  simp only [word_cons, word_nil] at hwd
  have est : bv 2 (bits wd 30 29) = st := bv_bits _ (by simp only [bits]; omega)
  have ed : bv 7 (bits wd 22 16) = d := bv_bits _ (by simp only [bits]; omega)
  have ea : bv 7 (bits wd 15 9) = a := bv_bits _ (by simp only [bits]; omega)
  have eh : bv 1 (bits wd 5 5) = h := bv_bits _ (by simp only [bits]; omega)
  have en : bv 5 (bits wd 4 0) = n := bv_bits _ (by simp only [bits]; omega)
  have hop : bits wd 28 23 = 0x15 := by simp only [bits]; omega
  have hd : decodeLane wd 0 = .ok (.shri st d a h n) := by
    have hx : decodeLane wd 0 = (resv wd [(8, 6)] (.shri (bv 2 (bits wd 30 29)) (bv 7 (bits wd 22 16)) (bv 7 (bits wd 15 9)) (bv 1 (bits wd 5 5)) (bv 5 (bits wd 4 0)))) := by unfold decodeLane; rw [hop]; rfl
    rw [hx]
    rw [resv_ok1 (by simp only [bits]; omega)]
    rw [est, ed, ea, eh, en]
  rw [encodeBytes_one (show encode (.shri st d a h n) = [wd] by rw [h1]; rfl)]
  exact decode_lane_one (by omega) (by simp only [bits]; omega) hop (by decide) hd hw

theorem RoundTrip.icmpi (st : BitVec 2) (p : BitVec 3) (c : BitVec 4) (a : BitVec 7) (i : BitVec 9) : RoundTrip.Statement (.icmpi st p c a i) := by
  intro _ hw
  have := st.isLt
  have := p.isLt
  have := c.isLt
  have := a.isLt
  have := i.isLt
  obtain ⟨wd, h1⟩ : ∃ out, out = word 0xb000000 [(st.toNat, 29), (p.toNat, 20), (c.toNat, 16), (a.toNat, 9), (i.toNat, 0)] := ⟨_, rfl⟩
  have hwd := h1
  simp only [word_cons, word_nil] at hwd
  have est : bv 2 (bits wd 30 29) = st := bv_bits _ (by simp only [bits]; omega)
  have ep : bv 3 (bits wd 22 20) = p := bv_bits _ (by simp only [bits]; omega)
  have ec : bv 4 (bits wd 19 16) = c := bv_bits _ (by simp only [bits]; omega)
  have ea : bv 7 (bits wd 15 9) = a := bv_bits _ (by simp only [bits]; omega)
  have ei : bv 9 (bits wd 8 0) = i := bv_bits _ (by simp only [bits]; omega)
  have hop : bits wd 28 23 = 0x16 := by simp only [bits]; omega
  have hd : decodeLane wd 0 = .ok (.icmpi st p c a i) := by
    have hx : decodeLane wd 0 = (.ok (.icmpi (bv 2 (bits wd 30 29)) (bv 3 (bits wd 22 20)) (bv 4 (bits wd 19 16)) (bv 7 (bits wd 15 9)) (bv 9 (bits wd 8 0)))) := by unfold decodeLane; rw [hop]; rfl
    rw [hx]
    rw [est, ep, ec, ea, ei]
  rw [encodeBytes_one (show encode (.icmpi st p c a i) = [wd] by rw [h1]; rfl)]
  exact decode_lane_one (by omega) (by simp only [bits]; omega) hop (by decide) hd hw

theorem RoundTrip.movl (st : BitVec 2) (d : BitVec 7) (i : BitVec 16) : RoundTrip.Statement (.movl st d i) := by
  intro _ hw
  have := st.isLt
  have := d.isLt
  have := i.isLt
  obtain ⟨wd, h1⟩ : ∃ out, out = word 0xb800000 [(st.toNat, 29), (d.toNat, 16), (i.toNat, 0)] := ⟨_, rfl⟩
  have hwd := h1
  simp only [word_cons, word_nil] at hwd
  have est : bv 2 (bits wd 30 29) = st := bv_bits _ (by simp only [bits]; omega)
  have ed : bv 7 (bits wd 22 16) = d := bv_bits _ (by simp only [bits]; omega)
  have ei : bv 16 (bits wd 15 0) = i := bv_bits _ (by simp only [bits]; omega)
  have hop : bits wd 28 23 = 0x17 := by simp only [bits]; omega
  have hd : decodeLane wd 0 = .ok (.movl st d i) := by
    have hx : decodeLane wd 0 = (.ok (.movl (bv 2 (bits wd 30 29)) (bv 7 (bits wd 22 16)) (bv 16 (bits wd 15 0)))) := by unfold decodeLane; rw [hop]; rfl
    rw [hx]
    rw [est, ed, ei]
  rw [encodeBytes_one (show encode (.movl st d i) = [wd] by rw [h1]; rfl)]
  exact decode_lane_one (by omega) (by simp only [bits]; omega) hop (by decide) hd hw

theorem RoundTrip.movh (st : BitVec 2) (d : BitVec 7) (i : BitVec 16) : RoundTrip.Statement (.movh st d i) := by
  intro _ hw
  have := st.isLt
  have := d.isLt
  have := i.isLt
  obtain ⟨wd, h1⟩ : ∃ out, out = word 0xc000000 [(st.toNat, 29), (d.toNat, 16), (i.toNat, 0)] := ⟨_, rfl⟩
  have hwd := h1
  simp only [word_cons, word_nil] at hwd
  have est : bv 2 (bits wd 30 29) = st := bv_bits _ (by simp only [bits]; omega)
  have ed : bv 7 (bits wd 22 16) = d := bv_bits _ (by simp only [bits]; omega)
  have ei : bv 16 (bits wd 15 0) = i := bv_bits _ (by simp only [bits]; omega)
  have hop : bits wd 28 23 = 0x18 := by simp only [bits]; omega
  have hd : decodeLane wd 0 = .ok (.movh st d i) := by
    have hx : decodeLane wd 0 = (.ok (.movh (bv 2 (bits wd 30 29)) (bv 7 (bits wd 22 16)) (bv 16 (bits wd 15 0)))) := by unfold decodeLane; rw [hop]; rfl
    rw [hx]
    rw [est, ed, ei]
  rw [encodeBytes_one (show encode (.movh st d i) = [wd] by rw [h1]; rfl)]
  exact decode_lane_one (by omega) (by simp only [bits]; omega) hop (by decide) hd hw

theorem RoundTrip.sel (st : BitVec 2) (d : BitVec 7) (a : BitVec 7) (b : BitVec 7) (p : BitVec 2) : RoundTrip.Statement (.sel st d a b p) := by
  intro _ hw
  have := st.isLt
  have := d.isLt
  have := a.isLt
  have := b.isLt
  have := p.isLt
  obtain ⟨wd, h1⟩ : ∃ out, out = word 0xc800000 [(st.toNat, 29), (d.toNat, 16), (a.toNat, 9), (b.toNat, 2), (p.toNat, 0)] := ⟨_, rfl⟩
  have hwd := h1
  simp only [word_cons, word_nil] at hwd
  have est : bv 2 (bits wd 30 29) = st := bv_bits _ (by simp only [bits]; omega)
  have ed : bv 7 (bits wd 22 16) = d := bv_bits _ (by simp only [bits]; omega)
  have ea : bv 7 (bits wd 15 9) = a := bv_bits _ (by simp only [bits]; omega)
  have eb : bv 7 (bits wd 8 2) = b := bv_bits _ (by simp only [bits]; omega)
  have ep : bv 2 (bits wd 1 0) = p := bv_bits _ (by simp only [bits]; omega)
  have hop : bits wd 28 23 = 0x19 := by simp only [bits]; omega
  have hd : decodeLane wd 0 = .ok (.sel st d a b p) := by
    have hx : decodeLane wd 0 = (.ok (.sel (bv 2 (bits wd 30 29)) (bv 7 (bits wd 22 16)) (bv 7 (bits wd 15 9)) (bv 7 (bits wd 8 2)) (bv 2 (bits wd 1 0)))) := by unfold decodeLane; rw [hop]; rfl
    rw [hx]
    rw [est, ed, ea, eb, ep]
  rw [encodeBytes_one (show encode (.sel st d a b p) = [wd] by rw [h1]; rfl)]
  exact decode_lane_one (by omega) (by simp only [bits]; omega) hop (by decide) hd hw

theorem RoundTrip.shfl (st : BitVec 2) (d : BitVec 7) (a : BitVec 7) (b : BitVec 7) (m : BitVec 2) : RoundTrip.Statement (.shfl st d a b m) := by
  intro _ hw
  have := st.isLt
  have := d.isLt
  have := a.isLt
  have := b.isLt
  have := m.isLt
  obtain ⟨wd, h1⟩ : ∃ out, out = word 0xd000000 [(st.toNat, 29), (d.toNat, 16), (a.toNat, 9), (b.toNat, 2), (m.toNat, 0)] := ⟨_, rfl⟩
  have hwd := h1
  simp only [word_cons, word_nil] at hwd
  have est : bv 2 (bits wd 30 29) = st := bv_bits _ (by simp only [bits]; omega)
  have ed : bv 7 (bits wd 22 16) = d := bv_bits _ (by simp only [bits]; omega)
  have ea : bv 7 (bits wd 15 9) = a := bv_bits _ (by simp only [bits]; omega)
  have eb : bv 7 (bits wd 8 2) = b := bv_bits _ (by simp only [bits]; omega)
  have em : bv 2 (bits wd 1 0) = m := bv_bits _ (by simp only [bits]; omega)
  have hop : bits wd 28 23 = 0x1a := by simp only [bits]; omega
  have hd : decodeLane wd 0 = .ok (.shfl st d a b m) := by
    have hx : decodeLane wd 0 = (.ok (.shfl (bv 2 (bits wd 30 29)) (bv 7 (bits wd 22 16)) (bv 7 (bits wd 15 9)) (bv 7 (bits wd 8 2)) (bv 2 (bits wd 1 0)))) := by unfold decodeLane; rw [hop]; rfl
    rw [hx]
    rw [est, ed, ea, eb, em]
  rw [encodeBytes_one (show encode (.shfl st d a b m) = [wd] by rw [h1]; rfl)]
  exact decode_lane_one (by omega) (by simp only [bits]; omega) hop (by decide) hd hw

theorem RoundTrip.shfli (st : BitVec 2) (d : BitVec 7) (a : BitVec 7) (m : BitVec 2) (n : BitVec 6) : RoundTrip.Statement (.shfli st d a m n) := by
  intro _ hw
  have := st.isLt
  have := d.isLt
  have := a.isLt
  have := m.isLt
  have := n.isLt
  obtain ⟨wd, h1⟩ : ∃ out, out = word 0xd800000 [(st.toNat, 29), (d.toNat, 16), (a.toNat, 9), (m.toNat, 7), (n.toNat, 0)] := ⟨_, rfl⟩
  have hwd := h1
  simp only [word_cons, word_nil] at hwd
  have est : bv 2 (bits wd 30 29) = st := bv_bits _ (by simp only [bits]; omega)
  have ed : bv 7 (bits wd 22 16) = d := bv_bits _ (by simp only [bits]; omega)
  have ea : bv 7 (bits wd 15 9) = a := bv_bits _ (by simp only [bits]; omega)
  have em : bv 2 (bits wd 8 7) = m := bv_bits _ (by simp only [bits]; omega)
  have en : bv 6 (bits wd 5 0) = n := bv_bits _ (by simp only [bits]; omega)
  have hop : bits wd 28 23 = 0x1b := by simp only [bits]; omega
  have hd : decodeLane wd 0 = .ok (.shfli st d a m n) := by
    have hx : decodeLane wd 0 = (resv wd [(6, 6)] (.shfli (bv 2 (bits wd 30 29)) (bv 7 (bits wd 22 16)) (bv 7 (bits wd 15 9)) (bv 2 (bits wd 8 7)) (bv 6 (bits wd 5 0)))) := by unfold decodeLane; rw [hop]; rfl
    rw [hx]
    rw [resv_ok1 (by simp only [bits]; omega)]
    rw [est, ed, ea, em, en]
  rw [encodeBytes_one (show encode (.shfli st d a m n) = [wd] by rw [h1]; rfl)]
  exact decode_lane_one (by omega) (by simp only [bits]; omega) hop (by decide) hd hw

theorem RoundTrip.lanev (st : BitVec 2) (d : BitVec 7) : RoundTrip.Statement (.lanev st d) := by
  intro _ hw
  have := st.isLt
  have := d.isLt
  obtain ⟨wd, h1⟩ : ∃ out, out = word 0xe000000 [(st.toNat, 29), (d.toNat, 16)] := ⟨_, rfl⟩
  have hwd := h1
  simp only [word_cons, word_nil] at hwd
  have est : bv 2 (bits wd 30 29) = st := bv_bits _ (by simp only [bits]; omega)
  have ed : bv 7 (bits wd 22 16) = d := bv_bits _ (by simp only [bits]; omega)
  have hop : bits wd 28 23 = 0x1c := by simp only [bits]; omega
  have hd : decodeLane wd 0 = .ok (.lanev st d) := by
    have hx : decodeLane wd 0 = (resv wd [(15, 0)] (.lanev (bv 2 (bits wd 30 29)) (bv 7 (bits wd 22 16)))) := by unfold decodeLane; rw [hop]; rfl
    rw [hx]
    rw [resv_ok1 (by simp only [bits]; omega)]
    rw [est, ed]
  rw [encodeBytes_one (show encode (.lanev st d) = [wd] by rw [h1]; rfl)]
  exact decode_lane_one (by omega) (by simp only [bits]; omega) hop (by decide) hd hw

theorem RoundTrip.plog (st : BitVec 2) (p : BitVec 3) (t : BitVec 4) (x : BitVec 3) (y : BitVec 3) : RoundTrip.Statement (.plog st p t x y) := by
  intro _ hw
  have := st.isLt
  have := p.isLt
  have := t.isLt
  have := x.isLt
  have := y.isLt
  obtain ⟨wd, h1⟩ : ∃ out, out = word 0xe800000 [(st.toNat, 29), (p.toNat, 20), (t.toNat, 16), (x.toNat, 9), (y.toNat, 2)] := ⟨_, rfl⟩
  have hwd := h1
  simp only [word_cons, word_nil] at hwd
  have est : bv 2 (bits wd 30 29) = st := bv_bits _ (by simp only [bits]; omega)
  have ep : bv 3 (bits wd 22 20) = p := bv_bits _ (by simp only [bits]; omega)
  have et : bv 4 (bits wd 19 16) = t := bv_bits _ (by simp only [bits]; omega)
  have ex : bv 3 (bits wd 11 9) = x := bv_bits _ (by simp only [bits]; omega)
  have ey : bv 3 (bits wd 4 2) = y := bv_bits _ (by simp only [bits]; omega)
  have hop : bits wd 28 23 = 0x1d := by simp only [bits]; omega
  have hd : decodeLane wd 0 = .ok (.plog st p t x y) := by
    have hx : decodeLane wd 0 = (resv wd [(15, 12), (8, 5), (1, 0)] (.plog (bv 2 (bits wd 30 29)) (bv 3 (bits wd 22 20)) (bv 4 (bits wd 19 16)) (bv 3 (bits wd 11 9)) (bv 3 (bits wd 4 2)))) := by unfold decodeLane; rw [hop]; rfl
    rw [hx]
    rw [resv_ok3 (by simp only [bits]; omega) (by simp only [bits]; omega) (by simp only [bits]; omega)]
    rw [est, ep, et, ex, ey]
  rw [encodeBytes_one (show encode (.plog st p t x y) = [wd] by rw [h1]; rfl)]
  exact decode_lane_one (by omega) (by simp only [bits]; omega) hop (by decide) hd hw

theorem RoundTrip.vote (st : BitVec 2) (p : BitVec 3) (c : BitVec 4) (x : BitVec 3) : RoundTrip.Statement (.vote st p c x) := by
  intro _ hw
  have := st.isLt
  have := p.isLt
  have := c.isLt
  have := x.isLt
  obtain ⟨wd, h1⟩ : ∃ out, out = word 0xf000000 [(st.toNat, 29), (p.toNat, 20), (c.toNat, 16), (x.toNat, 9)] := ⟨_, rfl⟩
  have hwd := h1
  simp only [word_cons, word_nil] at hwd
  have est : bv 2 (bits wd 30 29) = st := bv_bits _ (by simp only [bits]; omega)
  have ep : bv 3 (bits wd 22 20) = p := bv_bits _ (by simp only [bits]; omega)
  have ec : bv 4 (bits wd 19 16) = c := bv_bits _ (by simp only [bits]; omega)
  have ex : bv 3 (bits wd 11 9) = x := bv_bits _ (by simp only [bits]; omega)
  have hop : bits wd 28 23 = 0x1e := by simp only [bits]; omega
  have hd : decodeLane wd 0 = .ok (.vote st p c x) := by
    have hx : decodeLane wd 0 = (if bits wd 19 16 = 3 then resv wd [(22, 20), (15, 12), (1, 0)] (.voteBallot (bv 2 (bits wd 30 29)) (bv 3 (bits wd 11 9)) (bv 7 (bits wd 8 2))) else resv wd [(15, 12), (8, 0)] (.vote (bv 2 (bits wd 30 29)) (bv 3 (bits wd 22 20)) (bv 4 (bits wd 19 16)) (bv 3 (bits wd 11 9)))) := by unfold decodeLane; rw [hop]; rfl
    rw [hx]
    rw [if_neg (by have := of_decide_eq_true hw; simp only [bits]; omega)]
    rw [resv_ok2 (by simp only [bits]; omega) (by simp only [bits]; omega)]
    rw [est, ep, ec, ex]
  rw [encodeBytes_one (show encode (.vote st p c x) = [wd] by rw [h1]; rfl)]
  exact decode_lane_one (by omega) (by simp only [bits]; omega) hop (by decide) hd hw

theorem RoundTrip.voteBallot (st : BitVec 2) (x : BitVec 3) (b : BitVec 7) : RoundTrip.Statement (.voteBallot st x b) := by
  intro _ hw
  have := st.isLt
  have := x.isLt
  have := b.isLt
  obtain ⟨wd, h1⟩ : ∃ out, out = word 0xf030000 [(st.toNat, 29), (x.toNat, 9), (b.toNat, 2)] := ⟨_, rfl⟩
  have hwd := h1
  simp only [word_cons, word_nil] at hwd
  have est : bv 2 (bits wd 30 29) = st := bv_bits _ (by simp only [bits]; omega)
  have ex : bv 3 (bits wd 11 9) = x := bv_bits _ (by simp only [bits]; omega)
  have eb : bv 7 (bits wd 8 2) = b := bv_bits _ (by simp only [bits]; omega)
  have hop : bits wd 28 23 = 0x1e := by simp only [bits]; omega
  have hd : decodeLane wd 0 = .ok (.voteBallot st x b) := by
    have hx : decodeLane wd 0 = (if bits wd 19 16 = 3 then resv wd [(22, 20), (15, 12), (1, 0)] (.voteBallot (bv 2 (bits wd 30 29)) (bv 3 (bits wd 11 9)) (bv 7 (bits wd 8 2))) else resv wd [(15, 12), (8, 0)] (.vote (bv 2 (bits wd 30 29)) (bv 3 (bits wd 22 20)) (bv 4 (bits wd 19 16)) (bv 3 (bits wd 11 9)))) := by unfold decodeLane; rw [hop]; rfl
    rw [hx]
    rw [if_pos (by simp only [bits]; omega)]
    rw [resv_ok3 (by simp only [bits]; omega) (by simp only [bits]; omega) (by simp only [bits]; omega)]
    rw [est, ex, eb]
  rw [encodeBytes_one (show encode (.voteBallot st x b) = [wd] by rw [h1]; rfl)]
  exact decode_lane_one (by omega) (by simp only [bits]; omega) hop (by decide) hd hw

theorem RoundTrip.redux (st : BitVec 2) (d : BitVec 7) (a : BitVec 7) (b : BitVec 7) (m : BitVec 2) : RoundTrip.Statement (.redux st d a b m) := by
  intro _ hw
  have := st.isLt
  have := d.isLt
  have := a.isLt
  have := b.isLt
  have := m.isLt
  obtain ⟨wd, h1⟩ : ∃ out, out = word 0xf800000 [(st.toNat, 29), (d.toNat, 16), (a.toNat, 9), (b.toNat, 2), (m.toNat, 0)] := ⟨_, rfl⟩
  have hwd := h1
  simp only [word_cons, word_nil] at hwd
  have est : bv 2 (bits wd 30 29) = st := bv_bits _ (by simp only [bits]; omega)
  have ed : bv 7 (bits wd 22 16) = d := bv_bits _ (by simp only [bits]; omega)
  have ea : bv 7 (bits wd 15 9) = a := bv_bits _ (by simp only [bits]; omega)
  have eb : bv 7 (bits wd 8 2) = b := bv_bits _ (by simp only [bits]; omega)
  have em : bv 2 (bits wd 1 0) = m := bv_bits _ (by simp only [bits]; omega)
  have hop : bits wd 28 23 = 0x1f := by simp only [bits]; omega
  have hd : decodeLane wd 0 = .ok (.redux st d a b m) := by
    have hx : decodeLane wd 0 = (.ok (.redux (bv 2 (bits wd 30 29)) (bv 7 (bits wd 22 16)) (bv 7 (bits wd 15 9)) (bv 7 (bits wd 8 2)) (bv 2 (bits wd 1 0)))) := by unfold decodeLane; rw [hop]; rfl
    rw [hx]
    rw [est, ed, ea, eb, em]
  rw [encodeBytes_one (show encode (.redux st d a b m) = [wd] by rw [h1]; rfl)]
  exact decode_lane_one (by omega) (by simp only [bits]; omega) hop (by decide) hd hw

theorem RoundTrip.fadd (st : BitVec 2) (d : BitVec 7) (a : BitVec 7) (b : BitVec 7) (m : BitVec 2) : RoundTrip.Statement (.fadd st d a b m) := by
  intro _ hw
  have := st.isLt
  have := d.isLt
  have := a.isLt
  have := b.isLt
  have := m.isLt
  obtain ⟨wd, h1⟩ : ∃ out, out = word 0x10000000 [(st.toNat, 29), (d.toNat, 16), (a.toNat, 9), (b.toNat, 2), (m.toNat, 0)] := ⟨_, rfl⟩
  have hwd := h1
  simp only [word_cons, word_nil] at hwd
  have est : bv 2 (bits wd 30 29) = st := bv_bits _ (by simp only [bits]; omega)
  have ed : bv 7 (bits wd 22 16) = d := bv_bits _ (by simp only [bits]; omega)
  have ea : bv 7 (bits wd 15 9) = a := bv_bits _ (by simp only [bits]; omega)
  have eb : bv 7 (bits wd 8 2) = b := bv_bits _ (by simp only [bits]; omega)
  have em : bv 2 (bits wd 1 0) = m := bv_bits _ (by simp only [bits]; omega)
  have hop : bits wd 28 23 = 0x20 := by simp only [bits]; omega
  have hd : decodeLane wd 0 = .ok (.fadd st d a b m) := by
    have hx : decodeLane wd 0 = (.ok (.fadd (bv 2 (bits wd 30 29)) (bv 7 (bits wd 22 16)) (bv 7 (bits wd 15 9)) (bv 7 (bits wd 8 2)) (bv 2 (bits wd 1 0)))) := by unfold decodeLane; rw [hop]; rfl
    rw [hx]
    rw [est, ed, ea, eb, em]
  rw [encodeBytes_one (show encode (.fadd st d a b m) = [wd] by rw [h1]; rfl)]
  exact decode_lane_one (by omega) (by simp only [bits]; omega) hop (by decide) hd hw

theorem RoundTrip.fsub (st : BitVec 2) (d : BitVec 7) (a : BitVec 7) (b : BitVec 7) (m : BitVec 2) : RoundTrip.Statement (.fsub st d a b m) := by
  intro _ hw
  have := st.isLt
  have := d.isLt
  have := a.isLt
  have := b.isLt
  have := m.isLt
  obtain ⟨wd, h1⟩ : ∃ out, out = word 0x10800000 [(st.toNat, 29), (d.toNat, 16), (a.toNat, 9), (b.toNat, 2), (m.toNat, 0)] := ⟨_, rfl⟩
  have hwd := h1
  simp only [word_cons, word_nil] at hwd
  have est : bv 2 (bits wd 30 29) = st := bv_bits _ (by simp only [bits]; omega)
  have ed : bv 7 (bits wd 22 16) = d := bv_bits _ (by simp only [bits]; omega)
  have ea : bv 7 (bits wd 15 9) = a := bv_bits _ (by simp only [bits]; omega)
  have eb : bv 7 (bits wd 8 2) = b := bv_bits _ (by simp only [bits]; omega)
  have em : bv 2 (bits wd 1 0) = m := bv_bits _ (by simp only [bits]; omega)
  have hop : bits wd 28 23 = 0x21 := by simp only [bits]; omega
  have hd : decodeLane wd 0 = .ok (.fsub st d a b m) := by
    have hx : decodeLane wd 0 = (.ok (.fsub (bv 2 (bits wd 30 29)) (bv 7 (bits wd 22 16)) (bv 7 (bits wd 15 9)) (bv 7 (bits wd 8 2)) (bv 2 (bits wd 1 0)))) := by unfold decodeLane; rw [hop]; rfl
    rw [hx]
    rw [est, ed, ea, eb, em]
  rw [encodeBytes_one (show encode (.fsub st d a b m) = [wd] by rw [h1]; rfl)]
  exact decode_lane_one (by omega) (by simp only [bits]; omega) hop (by decide) hd hw

theorem RoundTrip.fmul (st : BitVec 2) (d : BitVec 7) (a : BitVec 7) (b : BitVec 7) (m : BitVec 2) : RoundTrip.Statement (.fmul st d a b m) := by
  intro _ hw
  have := st.isLt
  have := d.isLt
  have := a.isLt
  have := b.isLt
  have := m.isLt
  obtain ⟨wd, h1⟩ : ∃ out, out = word 0x11000000 [(st.toNat, 29), (d.toNat, 16), (a.toNat, 9), (b.toNat, 2), (m.toNat, 0)] := ⟨_, rfl⟩
  have hwd := h1
  simp only [word_cons, word_nil] at hwd
  have est : bv 2 (bits wd 30 29) = st := bv_bits _ (by simp only [bits]; omega)
  have ed : bv 7 (bits wd 22 16) = d := bv_bits _ (by simp only [bits]; omega)
  have ea : bv 7 (bits wd 15 9) = a := bv_bits _ (by simp only [bits]; omega)
  have eb : bv 7 (bits wd 8 2) = b := bv_bits _ (by simp only [bits]; omega)
  have em : bv 2 (bits wd 1 0) = m := bv_bits _ (by simp only [bits]; omega)
  have hop : bits wd 28 23 = 0x22 := by simp only [bits]; omega
  have hd : decodeLane wd 0 = .ok (.fmul st d a b m) := by
    have hx : decodeLane wd 0 = (.ok (.fmul (bv 2 (bits wd 30 29)) (bv 7 (bits wd 22 16)) (bv 7 (bits wd 15 9)) (bv 7 (bits wd 8 2)) (bv 2 (bits wd 1 0)))) := by unfold decodeLane; rw [hop]; rfl
    rw [hx]
    rw [est, ed, ea, eb, em]
  rw [encodeBytes_one (show encode (.fmul st d a b m) = [wd] by rw [h1]; rfl)]
  exact decode_lane_one (by omega) (by simp only [bits]; omega) hop (by decide) hd hw

theorem RoundTrip.fma (st : BitVec 2) (d : BitVec 7) (a : BitVec 7) (b : BitVec 7) (m : BitVec 2) : RoundTrip.Statement (.fma st d a b m) := by
  intro _ hw
  have := st.isLt
  have := d.isLt
  have := a.isLt
  have := b.isLt
  have := m.isLt
  obtain ⟨wd, h1⟩ : ∃ out, out = word 0x11800000 [(st.toNat, 29), (d.toNat, 16), (a.toNat, 9), (b.toNat, 2), (m.toNat, 0)] := ⟨_, rfl⟩
  have hwd := h1
  simp only [word_cons, word_nil] at hwd
  have est : bv 2 (bits wd 30 29) = st := bv_bits _ (by simp only [bits]; omega)
  have ed : bv 7 (bits wd 22 16) = d := bv_bits _ (by simp only [bits]; omega)
  have ea : bv 7 (bits wd 15 9) = a := bv_bits _ (by simp only [bits]; omega)
  have eb : bv 7 (bits wd 8 2) = b := bv_bits _ (by simp only [bits]; omega)
  have em : bv 2 (bits wd 1 0) = m := bv_bits _ (by simp only [bits]; omega)
  have hop : bits wd 28 23 = 0x23 := by simp only [bits]; omega
  have hd : decodeLane wd 0 = .ok (.fma st d a b m) := by
    have hx : decodeLane wd 0 = (.ok (.fma (bv 2 (bits wd 30 29)) (bv 7 (bits wd 22 16)) (bv 7 (bits wd 15 9)) (bv 7 (bits wd 8 2)) (bv 2 (bits wd 1 0)))) := by unfold decodeLane; rw [hop]; rfl
    rw [hx]
    rw [est, ed, ea, eb, em]
  rw [encodeBytes_one (show encode (.fma st d a b m) = [wd] by rw [h1]; rfl)]
  exact decode_lane_one (by omega) (by simp only [bits]; omega) hop (by decide) hd hw

theorem RoundTrip.fmin (st : BitVec 2) (d : BitVec 7) (a : BitVec 7) (b : BitVec 7) (m : BitVec 2) : RoundTrip.Statement (.fmin st d a b m) := by
  intro _ hw
  have := st.isLt
  have := d.isLt
  have := a.isLt
  have := b.isLt
  have := m.isLt
  obtain ⟨wd, h1⟩ : ∃ out, out = word 0x12000000 [(st.toNat, 29), (d.toNat, 16), (a.toNat, 9), (b.toNat, 2), (m.toNat, 0)] := ⟨_, rfl⟩
  have hwd := h1
  simp only [word_cons, word_nil] at hwd
  have est : bv 2 (bits wd 30 29) = st := bv_bits _ (by simp only [bits]; omega)
  have ed : bv 7 (bits wd 22 16) = d := bv_bits _ (by simp only [bits]; omega)
  have ea : bv 7 (bits wd 15 9) = a := bv_bits _ (by simp only [bits]; omega)
  have eb : bv 7 (bits wd 8 2) = b := bv_bits _ (by simp only [bits]; omega)
  have em : bv 2 (bits wd 1 0) = m := bv_bits _ (by simp only [bits]; omega)
  have hop : bits wd 28 23 = 0x24 := by simp only [bits]; omega
  have hd : decodeLane wd 0 = .ok (.fmin st d a b m) := by
    have hx : decodeLane wd 0 = (.ok (.fmin (bv 2 (bits wd 30 29)) (bv 7 (bits wd 22 16)) (bv 7 (bits wd 15 9)) (bv 7 (bits wd 8 2)) (bv 2 (bits wd 1 0)))) := by unfold decodeLane; rw [hop]; rfl
    rw [hx]
    rw [est, ed, ea, eb, em]
  rw [encodeBytes_one (show encode (.fmin st d a b m) = [wd] by rw [h1]; rfl)]
  exact decode_lane_one (by omega) (by simp only [bits]; omega) hop (by decide) hd hw

theorem RoundTrip.fmax (st : BitVec 2) (d : BitVec 7) (a : BitVec 7) (b : BitVec 7) (m : BitVec 2) : RoundTrip.Statement (.fmax st d a b m) := by
  intro _ hw
  have := st.isLt
  have := d.isLt
  have := a.isLt
  have := b.isLt
  have := m.isLt
  obtain ⟨wd, h1⟩ : ∃ out, out = word 0x12800000 [(st.toNat, 29), (d.toNat, 16), (a.toNat, 9), (b.toNat, 2), (m.toNat, 0)] := ⟨_, rfl⟩
  have hwd := h1
  simp only [word_cons, word_nil] at hwd
  have est : bv 2 (bits wd 30 29) = st := bv_bits _ (by simp only [bits]; omega)
  have ed : bv 7 (bits wd 22 16) = d := bv_bits _ (by simp only [bits]; omega)
  have ea : bv 7 (bits wd 15 9) = a := bv_bits _ (by simp only [bits]; omega)
  have eb : bv 7 (bits wd 8 2) = b := bv_bits _ (by simp only [bits]; omega)
  have em : bv 2 (bits wd 1 0) = m := bv_bits _ (by simp only [bits]; omega)
  have hop : bits wd 28 23 = 0x25 := by simp only [bits]; omega
  have hd : decodeLane wd 0 = .ok (.fmax st d a b m) := by
    have hx : decodeLane wd 0 = (.ok (.fmax (bv 2 (bits wd 30 29)) (bv 7 (bits wd 22 16)) (bv 7 (bits wd 15 9)) (bv 7 (bits wd 8 2)) (bv 2 (bits wd 1 0)))) := by unfold decodeLane; rw [hop]; rfl
    rw [hx]
    rw [est, ed, ea, eb, em]
  rw [encodeBytes_one (show encode (.fmax st d a b m) = [wd] by rw [h1]; rfl)]
  exact decode_lane_one (by omega) (by simp only [bits]; omega) hop (by decide) hd hw

theorem RoundTrip.fdiv (st : BitVec 2) (d : BitVec 7) (a : BitVec 7) (b : BitVec 7) (m : BitVec 2) : RoundTrip.Statement (.fdiv st d a b m) := by
  intro _ hw
  have := st.isLt
  have := d.isLt
  have := a.isLt
  have := b.isLt
  have := m.isLt
  obtain ⟨wd, h1⟩ : ∃ out, out = word 0x13000000 [(st.toNat, 29), (d.toNat, 16), (a.toNat, 9), (b.toNat, 2), (m.toNat, 0)] := ⟨_, rfl⟩
  have hwd := h1
  simp only [word_cons, word_nil] at hwd
  have est : bv 2 (bits wd 30 29) = st := bv_bits _ (by simp only [bits]; omega)
  have ed : bv 7 (bits wd 22 16) = d := bv_bits _ (by simp only [bits]; omega)
  have ea : bv 7 (bits wd 15 9) = a := bv_bits _ (by simp only [bits]; omega)
  have eb : bv 7 (bits wd 8 2) = b := bv_bits _ (by simp only [bits]; omega)
  have em : bv 2 (bits wd 1 0) = m := bv_bits _ (by simp only [bits]; omega)
  have hop : bits wd 28 23 = 0x26 := by simp only [bits]; omega
  have hd : decodeLane wd 0 = .ok (.fdiv st d a b m) := by
    have hx : decodeLane wd 0 = (.ok (.fdiv (bv 2 (bits wd 30 29)) (bv 7 (bits wd 22 16)) (bv 7 (bits wd 15 9)) (bv 7 (bits wd 8 2)) (bv 2 (bits wd 1 0)))) := by unfold decodeLane; rw [hop]; rfl
    rw [hx]
    rw [est, ed, ea, eb, em]
  rw [encodeBytes_one (show encode (.fdiv st d a b m) = [wd] by rw [h1]; rfl)]
  exact decode_lane_one (by omega) (by simp only [bits]; omega) hop (by decide) hd hw

theorem RoundTrip.fcmp (st : BitVec 2) (p : BitVec 3) (c : BitVec 4) (a : BitVec 7) (b : BitVec 7) (m : BitVec 2) : RoundTrip.Statement (.fcmp st p c a b m) := by
  intro _ hw
  have := st.isLt
  have := p.isLt
  have := c.isLt
  have := a.isLt
  have := b.isLt
  have := m.isLt
  obtain ⟨wd, h1⟩ : ∃ out, out = word 0x13800000 [(st.toNat, 29), (p.toNat, 20), (c.toNat, 16), (a.toNat, 9), (b.toNat, 2), (m.toNat, 0)] := ⟨_, rfl⟩
  have hwd := h1
  simp only [word_cons, word_nil] at hwd
  have est : bv 2 (bits wd 30 29) = st := bv_bits _ (by simp only [bits]; omega)
  have ep : bv 3 (bits wd 22 20) = p := bv_bits _ (by simp only [bits]; omega)
  have ec : bv 4 (bits wd 19 16) = c := bv_bits _ (by simp only [bits]; omega)
  have ea : bv 7 (bits wd 15 9) = a := bv_bits _ (by simp only [bits]; omega)
  have eb : bv 7 (bits wd 8 2) = b := bv_bits _ (by simp only [bits]; omega)
  have em : bv 2 (bits wd 1 0) = m := bv_bits _ (by simp only [bits]; omega)
  have hop : bits wd 28 23 = 0x27 := by simp only [bits]; omega
  have hd : decodeLane wd 0 = .ok (.fcmp st p c a b m) := by
    have hx : decodeLane wd 0 = (.ok (.fcmp (bv 2 (bits wd 30 29)) (bv 3 (bits wd 22 20)) (bv 4 (bits wd 19 16)) (bv 7 (bits wd 15 9)) (bv 7 (bits wd 8 2)) (bv 2 (bits wd 1 0)))) := by unfold decodeLane; rw [hop]; rfl
    rw [hx]
    rw [est, ep, ec, ea, eb, em]
  rw [encodeBytes_one (show encode (.fcmp st p c a b m) = [wd] by rw [h1]; rfl)]
  exact decode_lane_one (by omega) (by simp only [bits]; omega) hop (by decide) hd hw

theorem RoundTrip.funOp (st : BitVec 2) (d : BitVec 7) (a : BitVec 7) (u : BitVec 7) (m : BitVec 2) : RoundTrip.Statement (.funOp st d a u m) := by
  intro _ hw
  have := st.isLt
  have := d.isLt
  have := a.isLt
  have := u.isLt
  have := m.isLt
  obtain ⟨wd, h1⟩ : ∃ out, out = word 0x14000000 [(st.toNat, 29), (d.toNat, 16), (a.toNat, 9), (u.toNat, 2), (m.toNat, 0)] := ⟨_, rfl⟩
  have hwd := h1
  simp only [word_cons, word_nil] at hwd
  have est : bv 2 (bits wd 30 29) = st := bv_bits _ (by simp only [bits]; omega)
  have ed : bv 7 (bits wd 22 16) = d := bv_bits _ (by simp only [bits]; omega)
  have ea : bv 7 (bits wd 15 9) = a := bv_bits _ (by simp only [bits]; omega)
  have eu : bv 7 (bits wd 8 2) = u := bv_bits _ (by simp only [bits]; omega)
  have em : bv 2 (bits wd 1 0) = m := bv_bits _ (by simp only [bits]; omega)
  have hop : bits wd 28 23 = 0x28 := by simp only [bits]; omega
  have hd : decodeLane wd 0 = .ok (.funOp st d a u m) := by
    have hx : decodeLane wd 0 = (.ok (.funOp (bv 2 (bits wd 30 29)) (bv 7 (bits wd 22 16)) (bv 7 (bits wd 15 9)) (bv 7 (bits wd 8 2)) (bv 2 (bits wd 1 0)))) := by unfold decodeLane; rw [hop]; rfl
    rw [hx]
    rw [est, ed, ea, eu, em]
  rw [encodeBytes_one (show encode (.funOp st d a u m) = [wd] by rw [h1]; rfl)]
  exact decode_lane_one (by omega) (by simp only [bits]; omega) hop (by decide) hd hw

theorem RoundTrip.fscl (st : BitVec 2) (d : BitVec 7) (a : BitVec 7) (b : BitVec 7) (m : BitVec 2) : RoundTrip.Statement (.fscl st d a b m) := by
  intro _ hw
  have := st.isLt
  have := d.isLt
  have := a.isLt
  have := b.isLt
  have := m.isLt
  obtain ⟨wd, h1⟩ : ∃ out, out = word 0x14800000 [(st.toNat, 29), (d.toNat, 16), (a.toNat, 9), (b.toNat, 2), (m.toNat, 0)] := ⟨_, rfl⟩
  have hwd := h1
  simp only [word_cons, word_nil] at hwd
  have est : bv 2 (bits wd 30 29) = st := bv_bits _ (by simp only [bits]; omega)
  have ed : bv 7 (bits wd 22 16) = d := bv_bits _ (by simp only [bits]; omega)
  have ea : bv 7 (bits wd 15 9) = a := bv_bits _ (by simp only [bits]; omega)
  have eb : bv 7 (bits wd 8 2) = b := bv_bits _ (by simp only [bits]; omega)
  have em : bv 2 (bits wd 1 0) = m := bv_bits _ (by simp only [bits]; omega)
  have hop : bits wd 28 23 = 0x29 := by simp only [bits]; omega
  have hd : decodeLane wd 0 = .ok (.fscl st d a b m) := by
    have hx : decodeLane wd 0 = (.ok (.fscl (bv 2 (bits wd 30 29)) (bv 7 (bits wd 22 16)) (bv 7 (bits wd 15 9)) (bv 7 (bits wd 8 2)) (bv 2 (bits wd 1 0)))) := by unfold decodeLane; rw [hop]; rfl
    rw [hx]
    rw [est, ed, ea, eb, em]
  rw [encodeBytes_one (show encode (.fscl st d a b m) = [wd] by rw [h1]; rfl)]
  exact decode_lane_one (by omega) (by simp only [bits]; omega) hop (by decide) hd hw

theorem RoundTrip.cvt (st : BitVec 2) (d : BitVec 7) (a : BitVec 7) (t : BitVec 4) (u : BitVec 4) (x : BitVec 1) : RoundTrip.Statement (.cvt st d a t u x) := by
  intro _ hw
  have := st.isLt
  have := d.isLt
  have := a.isLt
  have := t.isLt
  have := u.isLt
  have := x.isLt
  obtain ⟨wd, h1⟩ : ∃ out, out = word 0x15000000 [(st.toNat, 29), (d.toNat, 16), (a.toNat, 9), (t.toNat, 5), (u.toNat, 1), (x.toNat, 0)] := ⟨_, rfl⟩
  have hwd := h1
  simp only [word_cons, word_nil] at hwd
  have est : bv 2 (bits wd 30 29) = st := bv_bits _ (by simp only [bits]; omega)
  have ed : bv 7 (bits wd 22 16) = d := bv_bits _ (by simp only [bits]; omega)
  have ea : bv 7 (bits wd 15 9) = a := bv_bits _ (by simp only [bits]; omega)
  have et : bv 4 (bits wd 8 5) = t := bv_bits _ (by simp only [bits]; omega)
  have eu : bv 4 (bits wd 4 1) = u := bv_bits _ (by simp only [bits]; omega)
  have ex : bv 1 (bits wd 0 0) = x := bv_bits _ (by simp only [bits]; omega)
  have hop : bits wd 28 23 = 0x2a := by simp only [bits]; omega
  have hd : decodeLane wd 0 = .ok (.cvt st d a t u x) := by
    have hx : decodeLane wd 0 = (.ok (.cvt (bv 2 (bits wd 30 29)) (bv 7 (bits wd 22 16)) (bv 7 (bits wd 15 9)) (bv 4 (bits wd 8 5)) (bv 4 (bits wd 4 1)) (bv 1 (bits wd 0 0)))) := by unfold decodeLane; rw [hop]; rfl
    rw [hx]
    rw [est, ed, ea, et, eu, ex]
  rw [encodeBytes_one (show encode (.cvt st d a t u x) = [wd] by rw [h1]; rfl)]
  exact decode_lane_one (by omega) (by simp only [bits]; omega) hop (by decide) hd hw

theorem RoundTrip.bqnt (st : BitVec 2) (d : BitVec 7) (a : BitVec 7) (c : BitVec 6) (f : BitVec 2) : RoundTrip.Statement (.bqnt st d a c f) := by
  intro _ hw
  have := st.isLt
  have := d.isLt
  have := a.isLt
  have := c.isLt
  have := f.isLt
  obtain ⟨wd, h1⟩ : ∃ out, out = word 0x15800000 [(st.toNat, 29), (d.toNat, 16), (a.toNat, 9), (c.toNat, 3), (f.toNat, 0)] := ⟨_, rfl⟩
  have hwd := h1
  simp only [word_cons, word_nil] at hwd
  have est : bv 2 (bits wd 30 29) = st := bv_bits _ (by simp only [bits]; omega)
  have ed : bv 7 (bits wd 22 16) = d := bv_bits _ (by simp only [bits]; omega)
  have ea : bv 7 (bits wd 15 9) = a := bv_bits _ (by simp only [bits]; omega)
  have ec : bv 6 (bits wd 8 3) = c := bv_bits _ (by simp only [bits]; omega)
  have ef : bv 2 (bits wd 1 0) = f := bv_bits _ (by simp only [bits]; omega)
  have hop : bits wd 28 23 = 0x2b := by simp only [bits]; omega
  have hd : decodeLane wd 0 = .ok (.bqnt st d a c f) := by
    have hx : decodeLane wd 0 = (resv wd [(2, 2)] (.bqnt (bv 2 (bits wd 30 29)) (bv 7 (bits wd 22 16)) (bv 7 (bits wd 15 9)) (bv 6 (bits wd 8 3)) (bv 2 (bits wd 1 0)))) := by unfold decodeLane; rw [hop]; rfl
    rw [hx]
    rw [resv_ok1 (by simp only [bits]; omega)]
    rw [est, ed, ea, ec, ef]
  rw [encodeBytes_one (show encode (.bqnt st d a c f) = [wd] by rw [h1]; rfl)]
  exact decode_lane_one (by omega) (by simp only [bits]; omega) hop (by decide) hd hw

theorem RoundTrip.bdq (st : BitVec 2) (d : BitVec 7) (a : BitVec 7) (c : BitVec 6) (f : BitVec 2) : RoundTrip.Statement (.bdq st d a c f) := by
  intro _ hw
  have := st.isLt
  have := d.isLt
  have := a.isLt
  have := c.isLt
  have := f.isLt
  obtain ⟨wd, h1⟩ : ∃ out, out = word 0x16000000 [(st.toNat, 29), (d.toNat, 16), (a.toNat, 9), (c.toNat, 3), (f.toNat, 0)] := ⟨_, rfl⟩
  have hwd := h1
  simp only [word_cons, word_nil] at hwd
  have est : bv 2 (bits wd 30 29) = st := bv_bits _ (by simp only [bits]; omega)
  have ed : bv 7 (bits wd 22 16) = d := bv_bits _ (by simp only [bits]; omega)
  have ea : bv 7 (bits wd 15 9) = a := bv_bits _ (by simp only [bits]; omega)
  have ec : bv 6 (bits wd 8 3) = c := bv_bits _ (by simp only [bits]; omega)
  have ef : bv 2 (bits wd 1 0) = f := bv_bits _ (by simp only [bits]; omega)
  have hop : bits wd 28 23 = 0x2c := by simp only [bits]; omega
  have hd : decodeLane wd 0 = .ok (.bdq st d a c f) := by
    have hx : decodeLane wd 0 = (resv wd [(2, 2)] (.bdq (bv 2 (bits wd 30 29)) (bv 7 (bits wd 22 16)) (bv 7 (bits wd 15 9)) (bv 6 (bits wd 8 3)) (bv 2 (bits wd 1 0)))) := by unfold decodeLane; rw [hop]; rfl
    rw [hx]
    rw [resv_ok1 (by simp only [bits]; omega)]
    rw [est, ed, ea, ec, ef]
  rw [encodeBytes_one (show encode (.bdq st d a c f) = [wd] by rw [h1]; rfl)]
  exact decode_lane_one (by omega) (by simp only [bits]; omega) hop (by decide) hd hw

theorem RoundTrip.feedw (st : BitVec 2) (q : BitVec 1) (a : BitVec 7) (b : BitVec 7) (m : BitVec 2) : RoundTrip.Statement (.feedw st q a b m) := by
  intro _ hw
  have := st.isLt
  have := q.isLt
  have := a.isLt
  have := b.isLt
  have := m.isLt
  obtain ⟨wd, h1⟩ : ∃ out, out = word 0x16800000 [(st.toNat, 29), (q.toNat, 17), (a.toNat, 9), (b.toNat, 2), (m.toNat, 0)] := ⟨_, rfl⟩
  have hwd := h1
  simp only [word_cons, word_nil] at hwd
  have est : bv 2 (bits wd 30 29) = st := bv_bits _ (by simp only [bits]; omega)
  have eq : bv 1 (bits wd 17 17) = q := bv_bits _ (by simp only [bits]; omega)
  have ea : bv 7 (bits wd 15 9) = a := bv_bits _ (by simp only [bits]; omega)
  have eb : bv 7 (bits wd 8 2) = b := bv_bits _ (by simp only [bits]; omega)
  have em : bv 2 (bits wd 1 0) = m := bv_bits _ (by simp only [bits]; omega)
  have hop : bits wd 28 23 = 0x2d := by simp only [bits]; omega
  have hd : decodeLane wd 0 = .ok (.feedw st q a b m) := by
    have hx : decodeLane wd 0 = (if bits wd 16 16 = 1 then operandCase wd [(22, 18)] else resv wd [(22, 18)] (.feedw (bv 2 (bits wd 30 29)) (bv 1 (bits wd 17 17)) (bv 7 (bits wd 15 9)) (bv 7 (bits wd 8 2)) (bv 2 (bits wd 1 0)))) := by unfold decodeLane; rw [hop]; rfl
    rw [hx]
    rw [if_neg (by simp only [bits]; omega)]
    rw [resv_ok1 (by simp only [bits]; omega)]
    rw [est, eq, ea, eb, em]
  rw [encodeBytes_one (show encode (.feedw st q a b m) = [wd] by rw [h1]; rfl)]
  exact decode_lane_one (by omega) (by simp only [bits]; omega) hop (by decide) hd hw

theorem RoundTrip.feedr (st : BitVec 2) (d : BitVec 7) (q : BitVec 1) (m : BitVec 2) : RoundTrip.Statement (.feedr st d q m) := by
  intro _ hw
  have := st.isLt
  have := d.isLt
  have := q.isLt
  have := m.isLt
  obtain ⟨wd, h1⟩ : ∃ out, out = word 0x17000200 [(st.toNat, 29), (d.toNat, 16), (q.toNat, 10), (m.toNat, 0)] := ⟨_, rfl⟩
  have hwd := h1
  simp only [word_cons, word_nil] at hwd
  have est : bv 2 (bits wd 30 29) = st := bv_bits _ (by simp only [bits]; omega)
  have ed : bv 7 (bits wd 22 16) = d := bv_bits _ (by simp only [bits]; omega)
  have eq : bv 1 (bits wd 10 10) = q := bv_bits _ (by simp only [bits]; omega)
  have em : bv 2 (bits wd 1 0) = m := bv_bits _ (by simp only [bits]; omega)
  have hop : bits wd 28 23 = 0x2e := by simp only [bits]; omega
  have hd : decodeLane wd 0 = .ok (.feedr st d q m) := by
    have hx : decodeLane wd 0 = (if bits wd 9 9 = 0 then operandCase wd [(15, 11), (8, 2)] else resv wd [(15, 11), (8, 2)] (.feedr (bv 2 (bits wd 30 29)) (bv 7 (bits wd 22 16)) (bv 1 (bits wd 10 10)) (bv 2 (bits wd 1 0)))) := by unfold decodeLane; rw [hop]; rfl
    rw [hx]
    rw [if_neg (by simp only [bits]; omega)]
    rw [resv_ok2 (by simp only [bits]; omega) (by simp only [bits]; omega)]
    rw [est, ed, eq, em]
  rw [encodeBytes_one (show encode (.feedr st d q m) = [wd] by rw [h1]; rfl)]
  exact decode_lane_one (by omega) (by simp only [bits]; omega) hop (by decide) hd hw

theorem RoundTrip.ld (st : BitVec 2) (d : BitVec 7) (a : BitVec 7) (t : BitVec 3) (w : BitVec 3) (q : BitVec 2) (x : BitVec 1) : RoundTrip.Statement (.ld st d a t w q x) := by
  intro _ hw
  have := st.isLt
  have := d.isLt
  have := a.isLt
  have := t.isLt
  have := w.isLt
  have := q.isLt
  have := x.isLt
  obtain ⟨wd, h1⟩ : ∃ out, out = word 0x18000000 [(st.toNat, 29), (d.toNat, 16), (a.toNat, 9), (t.toNat, 6), (w.toNat, 3), (q.toNat, 1), (x.toNat, 0)] := ⟨_, rfl⟩
  have hwd := h1
  simp only [word_cons, word_nil] at hwd
  have est : bv 2 (bits wd 30 29) = st := bv_bits _ (by simp only [bits]; omega)
  have ed : bv 7 (bits wd 22 16) = d := bv_bits _ (by simp only [bits]; omega)
  have ea : bv 7 (bits wd 15 9) = a := bv_bits _ (by simp only [bits]; omega)
  have et : bv 3 (bits wd 8 6) = t := bv_bits _ (by simp only [bits]; omega)
  have ew : bv 3 (bits wd 5 3) = w := bv_bits _ (by simp only [bits]; omega)
  have eq : bv 2 (bits wd 2 1) = q := bv_bits _ (by simp only [bits]; omega)
  have ex : bv 1 (bits wd 0 0) = x := bv_bits _ (by simp only [bits]; omega)
  have hop : bits wd 28 23 = 0x30 := by simp only [bits]; omega
  have hd : decodeLane wd 0 = .ok (.ld st d a t w q x) := by
    have hx : decodeLane wd 0 = (.ok (.ld (bv 2 (bits wd 30 29)) (bv 7 (bits wd 22 16)) (bv 7 (bits wd 15 9)) (bv 3 (bits wd 8 6)) (bv 3 (bits wd 5 3)) (bv 2 (bits wd 2 1)) (bv 1 (bits wd 0 0)))) := by unfold decodeLane; rw [hop]; rfl
    rw [hx]
    rw [est, ed, ea, et, ew, eq, ex]
  rw [encodeBytes_one (show encode (.ld st d a t w q x) = [wd] by rw [h1]; rfl)]
  exact decode_lane_one (by omega) (by simp only [bits]; omega) hop (by decide) hd hw

theorem RoundTrip.st (st : BitVec 2) (d : BitVec 7) (a : BitVec 7) (t : BitVec 3) (w : BitVec 3) (q : BitVec 2) (x : BitVec 1) : RoundTrip.Statement (.st st d a t w q x) := by
  intro _ hw
  have := st.isLt
  have := d.isLt
  have := a.isLt
  have := t.isLt
  have := w.isLt
  have := q.isLt
  have := x.isLt
  obtain ⟨wd, h1⟩ : ∃ out, out = word 0x18800000 [(st.toNat, 29), (d.toNat, 16), (a.toNat, 9), (t.toNat, 6), (w.toNat, 3), (q.toNat, 1), (x.toNat, 0)] := ⟨_, rfl⟩
  have hwd := h1
  simp only [word_cons, word_nil] at hwd
  have est : bv 2 (bits wd 30 29) = st := bv_bits _ (by simp only [bits]; omega)
  have ed : bv 7 (bits wd 22 16) = d := bv_bits _ (by simp only [bits]; omega)
  have ea : bv 7 (bits wd 15 9) = a := bv_bits _ (by simp only [bits]; omega)
  have et : bv 3 (bits wd 8 6) = t := bv_bits _ (by simp only [bits]; omega)
  have ew : bv 3 (bits wd 5 3) = w := bv_bits _ (by simp only [bits]; omega)
  have eq : bv 2 (bits wd 2 1) = q := bv_bits _ (by simp only [bits]; omega)
  have ex : bv 1 (bits wd 0 0) = x := bv_bits _ (by simp only [bits]; omega)
  have hop : bits wd 28 23 = 0x31 := by simp only [bits]; omega
  have hd : decodeLane wd 0 = .ok (.st st d a t w q x) := by
    have hx : decodeLane wd 0 = (.ok (.st (bv 2 (bits wd 30 29)) (bv 7 (bits wd 22 16)) (bv 7 (bits wd 15 9)) (bv 3 (bits wd 8 6)) (bv 3 (bits wd 5 3)) (bv 2 (bits wd 2 1)) (bv 1 (bits wd 0 0)))) := by unfold decodeLane; rw [hop]; rfl
    rw [hx]
    rw [est, ed, ea, et, ew, eq, ex]
  rw [encodeBytes_one (show encode (.st st d a t w q x) = [wd] by rw [h1]; rfl)]
  exact decode_lane_one (by omega) (by simp only [bits]; omega) hop (by decide) hd hw

theorem RoundTrip.ldt (st : BitVec 2) (d : BitVec 7) (a : BitVec 7) (w : BitVec 3) (x : BitVec 1) : RoundTrip.Statement (.ldt st d a w x) := by
  intro _ hw
  have := st.isLt
  have := d.isLt
  have := a.isLt
  have := w.isLt
  have := x.isLt
  obtain ⟨wd, h1⟩ : ∃ out, out = word 0x19000000 [(st.toNat, 29), (d.toNat, 16), (a.toNat, 9), (w.toNat, 3), (x.toNat, 0)] := ⟨_, rfl⟩
  have hwd := h1
  simp only [word_cons, word_nil] at hwd
  have est : bv 2 (bits wd 30 29) = st := bv_bits _ (by simp only [bits]; omega)
  have ed : bv 7 (bits wd 22 16) = d := bv_bits _ (by simp only [bits]; omega)
  have ea : bv 7 (bits wd 15 9) = a := bv_bits _ (by simp only [bits]; omega)
  have ew : bv 3 (bits wd 5 3) = w := bv_bits _ (by simp only [bits]; omega)
  have ex : bv 1 (bits wd 0 0) = x := bv_bits _ (by simp only [bits]; omega)
  have hop : bits wd 28 23 = 0x32 := by simp only [bits]; omega
  have hd : decodeLane wd 0 = .ok (.ldt st d a w x) := by
    have hx : decodeLane wd 0 = (resv wd [(8, 6), (2, 1)] (.ldt (bv 2 (bits wd 30 29)) (bv 7 (bits wd 22 16)) (bv 7 (bits wd 15 9)) (bv 3 (bits wd 5 3)) (bv 1 (bits wd 0 0)))) := by unfold decodeLane; rw [hop]; rfl
    rw [hx]
    rw [resv_ok2 (by simp only [bits]; omega) (by simp only [bits]; omega)]
    rw [est, ed, ea, ew, ex]
  rw [encodeBytes_one (show encode (.ldt st d a w x) = [wd] by rw [h1]; rfl)]
  exact decode_lane_one (by omega) (by simp only [bits]; omega) hop (by decide) hd hw

theorem RoundTrip.stt (st : BitVec 2) (d : BitVec 7) (a : BitVec 7) (w : BitVec 3) (x : BitVec 1) : RoundTrip.Statement (.stt st d a w x) := by
  intro _ hw
  have := st.isLt
  have := d.isLt
  have := a.isLt
  have := w.isLt
  have := x.isLt
  obtain ⟨wd, h1⟩ : ∃ out, out = word 0x19800000 [(st.toNat, 29), (d.toNat, 16), (a.toNat, 9), (w.toNat, 3), (x.toNat, 0)] := ⟨_, rfl⟩
  have hwd := h1
  simp only [word_cons, word_nil] at hwd
  have est : bv 2 (bits wd 30 29) = st := bv_bits _ (by simp only [bits]; omega)
  have ed : bv 7 (bits wd 22 16) = d := bv_bits _ (by simp only [bits]; omega)
  have ea : bv 7 (bits wd 15 9) = a := bv_bits _ (by simp only [bits]; omega)
  have ew : bv 3 (bits wd 5 3) = w := bv_bits _ (by simp only [bits]; omega)
  have ex : bv 1 (bits wd 0 0) = x := bv_bits _ (by simp only [bits]; omega)
  have hop : bits wd 28 23 = 0x33 := by simp only [bits]; omega
  have hd : decodeLane wd 0 = .ok (.stt st d a w x) := by
    have hx : decodeLane wd 0 = (resv wd [(8, 6), (2, 1)] (.stt (bv 2 (bits wd 30 29)) (bv 7 (bits wd 22 16)) (bv 7 (bits wd 15 9)) (bv 3 (bits wd 5 3)) (bv 1 (bits wd 0 0)))) := by unfold decodeLane; rw [hop]; rfl
    rw [hx]
    rw [resv_ok2 (by simp only [bits]; omega) (by simp only [bits]; omega)]
    rw [est, ed, ea, ew, ex]
  rw [encodeBytes_one (show encode (.stt st d a w x) = [wd] by rw [h1]; rfl)]
  exact decode_lane_one (by omega) (by simp only [bits]; omega) hop (by decide) hd hw

theorem RoundTrip.atom (st : BitVec 2) (d : BitVec 7) (a : BitVec 7) (t : BitVec 3) (w : BitVec 3) (q : BitVec 2) (x : BitVec 1) (data : BitVec 7) (aop : BitVec 4) (sem : BitVec 2) (scope : BitVec 3) (sc : BitVec 1) : RoundTrip.Statement (.atom st d a t w q x data aop sem scope sc) := by
  intro _ hw
  have := st.isLt
  have := d.isLt
  have := a.isLt
  have := t.isLt
  have := w.isLt
  have := q.isLt
  have := x.isLt
  have := data.isLt
  have := aop.isLt
  have := sem.isLt
  have := scope.isLt
  have := sc.isLt
  obtain ⟨wd, h1⟩ : ∃ out, out = word 0x1a000000 [(st.toNat, 29), (d.toNat, 16), (a.toNat, 9), (t.toNat, 6), (w.toNat, 3), (q.toNat, 1), (x.toNat, 0)] := ⟨_, rfl⟩
  obtain ⟨we, h2⟩ : ∃ out, out = word 0 [(data.toNat, 25), (aop.toNat, 14), (sem.toNat, 12), (scope.toNat, 9), (sc.toNat, 8)] := ⟨_, rfl⟩
  have hwd := h1
  have hwe := h2
  simp only [word_cons, word_nil] at hwd hwe
  have est : bv 2 (bits wd 30 29) = st := bv_bits _ (by simp only [bits]; omega)
  have ed : bv 7 (bits wd 22 16) = d := bv_bits _ (by simp only [bits]; omega)
  have ea : bv 7 (bits wd 15 9) = a := bv_bits _ (by simp only [bits]; omega)
  have et : bv 3 (bits wd 8 6) = t := bv_bits _ (by simp only [bits]; omega)
  have ew : bv 3 (bits wd 5 3) = w := bv_bits _ (by simp only [bits]; omega)
  have eq : bv 2 (bits wd 2 1) = q := bv_bits _ (by simp only [bits]; omega)
  have ex : bv 1 (bits wd 0 0) = x := bv_bits _ (by simp only [bits]; omega)
  have edata : bv 7 (bits we 31 25) = data := bv_bits _ (by simp only [bits]; omega)
  have eaop : bv 4 (bits we 17 14) = aop := bv_bits _ (by simp only [bits]; omega)
  have esem : bv 2 (bits we 13 12) = sem := bv_bits _ (by simp only [bits]; omega)
  have escope : bv 3 (bits we 11 9) = scope := bv_bits _ (by simp only [bits]; omega)
  have esc : bv 1 (bits we 8 8) = sc := bv_bits _ (by simp only [bits]; omega)
  have hop : bits wd 28 23 = 0x34 := by simp only [bits]; omega
  have hd : decodeLane wd we = .ok (.atom st d a t w q x data aop sem scope sc) := by
    have hx : decodeLane wd we = (resv we [(24, 18), (7, 0)] (.atom (bv 2 (bits wd 30 29)) (bv 7 (bits wd 22 16)) (bv 7 (bits wd 15 9)) (bv 3 (bits wd 8 6)) (bv 3 (bits wd 5 3)) (bv 2 (bits wd 2 1)) (bv 1 (bits wd 0 0)) (bv 7 (bits we 31 25)) (bv 4 (bits we 17 14)) (bv 2 (bits we 13 12)) (bv 3 (bits we 11 9)) (bv 1 (bits we 8 8)))) := by unfold decodeLane; rw [hop]; rfl
    rw [hx]
    rw [resv_ok2 (by simp only [bits]; omega) (by simp only [bits]; omega)]
    rw [est, ed, ea, et, ew, eq, ex, edata, eaop, esem, escope, esc]
  rw [encodeBytes_two (show encode (.atom st d a t w q x data aop sem scope sc) = [wd, we] by rw [h1, h2]; rfl)]
  exact decode_lane_two (by omega) (by omega) (by simp only [bits]; omega) hop (by decide) hd hw

theorem RoundTrip.acas (st : BitVec 2) (d : BitVec 7) (a : BitVec 7) (t : BitVec 3) (w : BitVec 3) (q : BitVec 2) (x : BitVec 1) (data : BitVec 7) (cmp : BitVec 7) (sem : BitVec 2) (scope : BitVec 3) (sc : BitVec 1) : RoundTrip.Statement (.acas st d a t w q x data cmp sem scope sc) := by
  intro _ hw
  have := st.isLt
  have := d.isLt
  have := a.isLt
  have := t.isLt
  have := w.isLt
  have := q.isLt
  have := x.isLt
  have := data.isLt
  have := cmp.isLt
  have := sem.isLt
  have := scope.isLt
  have := sc.isLt
  obtain ⟨wd, h1⟩ : ∃ out, out = word 0x1a800000 [(st.toNat, 29), (d.toNat, 16), (a.toNat, 9), (t.toNat, 6), (w.toNat, 3), (q.toNat, 1), (x.toNat, 0)] := ⟨_, rfl⟩
  obtain ⟨we, h2⟩ : ∃ out, out = word 0 [(data.toNat, 25), (cmp.toNat, 18), (sem.toNat, 12), (scope.toNat, 9), (sc.toNat, 8)] := ⟨_, rfl⟩
  have hwd := h1
  have hwe := h2
  simp only [word_cons, word_nil] at hwd hwe
  have est : bv 2 (bits wd 30 29) = st := bv_bits _ (by simp only [bits]; omega)
  have ed : bv 7 (bits wd 22 16) = d := bv_bits _ (by simp only [bits]; omega)
  have ea : bv 7 (bits wd 15 9) = a := bv_bits _ (by simp only [bits]; omega)
  have et : bv 3 (bits wd 8 6) = t := bv_bits _ (by simp only [bits]; omega)
  have ew : bv 3 (bits wd 5 3) = w := bv_bits _ (by simp only [bits]; omega)
  have eq : bv 2 (bits wd 2 1) = q := bv_bits _ (by simp only [bits]; omega)
  have ex : bv 1 (bits wd 0 0) = x := bv_bits _ (by simp only [bits]; omega)
  have edata : bv 7 (bits we 31 25) = data := bv_bits _ (by simp only [bits]; omega)
  have ecmp : bv 7 (bits we 24 18) = cmp := bv_bits _ (by simp only [bits]; omega)
  have esem : bv 2 (bits we 13 12) = sem := bv_bits _ (by simp only [bits]; omega)
  have escope : bv 3 (bits we 11 9) = scope := bv_bits _ (by simp only [bits]; omega)
  have esc : bv 1 (bits we 8 8) = sc := bv_bits _ (by simp only [bits]; omega)
  have hop : bits wd 28 23 = 0x35 := by simp only [bits]; omega
  have hd : decodeLane wd we = .ok (.acas st d a t w q x data cmp sem scope sc) := by
    have hx : decodeLane wd we = (resv we [(17, 14), (7, 0)] (.acas (bv 2 (bits wd 30 29)) (bv 7 (bits wd 22 16)) (bv 7 (bits wd 15 9)) (bv 3 (bits wd 8 6)) (bv 3 (bits wd 5 3)) (bv 2 (bits wd 2 1)) (bv 1 (bits wd 0 0)) (bv 7 (bits we 31 25)) (bv 7 (bits we 24 18)) (bv 2 (bits we 13 12)) (bv 3 (bits we 11 9)) (bv 1 (bits we 8 8)))) := by unfold decodeLane; rw [hop]; rfl
    rw [hx]
    rw [resv_ok2 (by simp only [bits]; omega) (by simp only [bits]; omega)]
    rw [est, ed, ea, et, ew, eq, ex, edata, ecmp, esem, escope, esc]
  rw [encodeBytes_two (show encode (.acas st d a t w q x data cmp sem scope sc) = [wd, we] by rw [h1, h2]; rfl)]
  exact decode_lane_two (by omega) (by omega) (by simp only [bits]; omega) hop (by decide) hd hw

theorem RoundTrip.atomt (st : BitVec 2) (d : BitVec 7) (a : BitVec 7) (w : BitVec 3) (x : BitVec 1) (data : BitVec 7) (aop : BitVec 4) (sem : BitVec 2) (scope : BitVec 3) (sc : BitVec 1) : RoundTrip.Statement (.atomt st d a w x data aop sem scope sc) := by
  intro _ hw
  have := st.isLt
  have := d.isLt
  have := a.isLt
  have := w.isLt
  have := x.isLt
  have := data.isLt
  have := aop.isLt
  have := sem.isLt
  have := scope.isLt
  have := sc.isLt
  obtain ⟨wd, h1⟩ : ∃ out, out = word 0x1b000000 [(st.toNat, 29), (d.toNat, 16), (a.toNat, 9), (w.toNat, 3), (x.toNat, 0)] := ⟨_, rfl⟩
  obtain ⟨we, h2⟩ : ∃ out, out = word 0 [(data.toNat, 25), (aop.toNat, 14), (sem.toNat, 12), (scope.toNat, 9), (sc.toNat, 8)] := ⟨_, rfl⟩
  have hwd := h1
  have hwe := h2
  simp only [word_cons, word_nil] at hwd hwe
  have est : bv 2 (bits wd 30 29) = st := bv_bits _ (by simp only [bits]; omega)
  have ed : bv 7 (bits wd 22 16) = d := bv_bits _ (by simp only [bits]; omega)
  have ea : bv 7 (bits wd 15 9) = a := bv_bits _ (by simp only [bits]; omega)
  have ew : bv 3 (bits wd 5 3) = w := bv_bits _ (by simp only [bits]; omega)
  have ex : bv 1 (bits wd 0 0) = x := bv_bits _ (by simp only [bits]; omega)
  have edata : bv 7 (bits we 31 25) = data := bv_bits _ (by simp only [bits]; omega)
  have eaop : bv 4 (bits we 17 14) = aop := bv_bits _ (by simp only [bits]; omega)
  have esem : bv 2 (bits we 13 12) = sem := bv_bits _ (by simp only [bits]; omega)
  have escope : bv 3 (bits we 11 9) = scope := bv_bits _ (by simp only [bits]; omega)
  have esc : bv 1 (bits we 8 8) = sc := bv_bits _ (by simp only [bits]; omega)
  have hop : bits wd 28 23 = 0x36 := by simp only [bits]; omega
  have hd : decodeLane wd we = .ok (.atomt st d a w x data aop sem scope sc) := by
    have hx : decodeLane wd we = (if bits wd 8 6 ≠ 0 ∨ bits wd 2 1 ≠ 0 then .error .reserved else resv we [(24, 18), (7, 0)] (.atomt (bv 2 (bits wd 30 29)) (bv 7 (bits wd 22 16)) (bv 7 (bits wd 15 9)) (bv 3 (bits wd 5 3)) (bv 1 (bits wd 0 0)) (bv 7 (bits we 31 25)) (bv 4 (bits we 17 14)) (bv 2 (bits we 13 12)) (bv 3 (bits we 11 9)) (bv 1 (bits we 8 8)))) := by unfold decodeLane; rw [hop]; rfl
    rw [hx]
    rw [if_neg (by simp only [bits]; omega)]
    rw [resv_ok2 (by simp only [bits]; omega) (by simp only [bits]; omega)]
    rw [est, ed, ea, ew, ex, edata, eaop, esem, escope, esc]
  rw [encodeBytes_two (show encode (.atomt st d a w x data aop sem scope sc) = [wd, we] by rw [h1, h2]; rfl)]
  exact decode_lane_two (by omega) (by omega) (by simp only [bits]; omega) hop (by decide) hd hw

theorem RoundTrip.acp16 (st : BitVec 2) (d : BitVec 7) (a : BitVec 7) (t : BitVec 3) (b : BitVec 6) : RoundTrip.Statement (.acp16 st d a t b) := by
  intro _ hw
  have := st.isLt
  have := d.isLt
  have := a.isLt
  have := t.isLt
  have := b.isLt
  obtain ⟨wd, h1⟩ : ∃ out, out = word 0x1b800000 [(st.toNat, 29), (d.toNat, 16), (a.toNat, 9), (t.toNat, 6), (b.toNat, 0)] := ⟨_, rfl⟩
  have hwd := h1
  simp only [word_cons, word_nil] at hwd
  have est : bv 2 (bits wd 30 29) = st := bv_bits _ (by simp only [bits]; omega)
  have ed : bv 7 (bits wd 22 16) = d := bv_bits _ (by simp only [bits]; omega)
  have ea : bv 7 (bits wd 15 9) = a := bv_bits _ (by simp only [bits]; omega)
  have et : bv 3 (bits wd 8 6) = t := bv_bits _ (by simp only [bits]; omega)
  have eb : bv 6 (bits wd 5 0) = b := bv_bits _ (by simp only [bits]; omega)
  have hop : bits wd 28 23 = 0x37 := by simp only [bits]; omega
  have hd : decodeLane wd 0 = .ok (.acp16 st d a t b) := by
    have hx : decodeLane wd 0 = (.ok (.acp16 (bv 2 (bits wd 30 29)) (bv 7 (bits wd 22 16)) (bv 7 (bits wd 15 9)) (bv 3 (bits wd 8 6)) (bv 6 (bits wd 5 0)))) := by unfold decodeLane; rw [hop]; rfl
    rw [hx]
    rw [est, ed, ea, et, eb]
  rw [encodeBytes_one (show encode (.acp16 st d a t b) = [wd] by rw [h1]; rfl)]
  exact decode_lane_one (by omega) (by simp only [bits]; omega) hop (by decide) hd hw

theorem RoundTrip.prf (st : BitVec 2) (a : BitVec 7) (t : BitVec 3) (w : BitVec 3) (q : BitVec 2) (x : BitVec 1) : RoundTrip.Statement (.prf st a t w q x) := by
  intro _ hw
  have := st.isLt
  have := a.isLt
  have := t.isLt
  have := w.isLt
  have := q.isLt
  have := x.isLt
  obtain ⟨wd, h1⟩ : ∃ out, out = word 0x1c000000 [(st.toNat, 29), (a.toNat, 9), (t.toNat, 6), (w.toNat, 3), (q.toNat, 1), (x.toNat, 0)] := ⟨_, rfl⟩
  have hwd := h1
  simp only [word_cons, word_nil] at hwd
  have est : bv 2 (bits wd 30 29) = st := bv_bits _ (by simp only [bits]; omega)
  have ea : bv 7 (bits wd 15 9) = a := bv_bits _ (by simp only [bits]; omega)
  have et : bv 3 (bits wd 8 6) = t := bv_bits _ (by simp only [bits]; omega)
  have ew : bv 3 (bits wd 5 3) = w := bv_bits _ (by simp only [bits]; omega)
  have eq : bv 2 (bits wd 2 1) = q := bv_bits _ (by simp only [bits]; omega)
  have ex : bv 1 (bits wd 0 0) = x := bv_bits _ (by simp only [bits]; omega)
  have hop : bits wd 28 23 = 0x38 := by simp only [bits]; omega
  have hd : decodeLane wd 0 = .ok (.prf st a t w q x) := by
    have hx : decodeLane wd 0 = (resv wd [(22, 16)] (.prf (bv 2 (bits wd 30 29)) (bv 7 (bits wd 15 9)) (bv 3 (bits wd 8 6)) (bv 3 (bits wd 5 3)) (bv 2 (bits wd 2 1)) (bv 1 (bits wd 0 0)))) := by unfold decodeLane; rw [hop]; rfl
    rw [hx]
    rw [resv_ok1 (by simp only [bits]; omega)]
    rw [est, ea, et, ew, eq, ex]
  rw [encodeBytes_one (show encode (.prf st a t w q x) = [wd] by rw [h1]; rfl)]
  exact decode_lane_one (by omega) (by simp only [bits]; omega) hop (by decide) hd hw

theorem RoundTrip.lda (st : BitVec 2) (d : BitVec 7) (a : BitVec 7) (t : BitVec 3) (w : BitVec 3) (c : BitVec 2) (x : BitVec 1) : RoundTrip.Statement (.lda st d a t w c x) := by
  intro _ hw
  have := st.isLt
  have := d.isLt
  have := a.isLt
  have := t.isLt
  have := w.isLt
  have := c.isLt
  have := x.isLt
  obtain ⟨wd, h1⟩ : ∃ out, out = word 0x1c800000 [(st.toNat, 29), (d.toNat, 16), (a.toNat, 9), (t.toNat, 6), (w.toNat, 3), (c.toNat, 1), (x.toNat, 0)] := ⟨_, rfl⟩
  have hwd := h1
  simp only [word_cons, word_nil] at hwd
  have est : bv 2 (bits wd 30 29) = st := bv_bits _ (by simp only [bits]; omega)
  have ed : bv 7 (bits wd 22 16) = d := bv_bits _ (by simp only [bits]; omega)
  have ea : bv 7 (bits wd 15 9) = a := bv_bits _ (by simp only [bits]; omega)
  have et : bv 3 (bits wd 8 6) = t := bv_bits _ (by simp only [bits]; omega)
  have ew : bv 3 (bits wd 5 3) = w := bv_bits _ (by simp only [bits]; omega)
  have ec : bv 2 (bits wd 2 1) = c := bv_bits _ (by simp only [bits]; omega)
  have ex : bv 1 (bits wd 0 0) = x := bv_bits _ (by simp only [bits]; omega)
  have hop : bits wd 28 23 = 0x39 := by simp only [bits]; omega
  have hd : decodeLane wd 0 = .ok (.lda st d a t w c x) := by
    have hx : decodeLane wd 0 = (.ok (.lda (bv 2 (bits wd 30 29)) (bv 7 (bits wd 22 16)) (bv 7 (bits wd 15 9)) (bv 3 (bits wd 8 6)) (bv 3 (bits wd 5 3)) (bv 2 (bits wd 2 1)) (bv 1 (bits wd 0 0)))) := by unfold decodeLane; rw [hop]; rfl
    rw [hx]
    rw [est, ed, ea, et, ew, ec, ex]
  rw [encodeBytes_one (show encode (.lda st d a t w c x) = [wd] by rw [h1]; rfl)]
  exact decode_lane_one (by omega) (by simp only [bits]; omega) hop (by decide) hd hw

theorem RoundTrip.sta (st : BitVec 2) (d : BitVec 7) (a : BitVec 7) (t : BitVec 3) (w : BitVec 3) (c : BitVec 2) (x : BitVec 1) : RoundTrip.Statement (.sta st d a t w c x) := by
  intro _ hw
  have := st.isLt
  have := d.isLt
  have := a.isLt
  have := t.isLt
  have := w.isLt
  have := c.isLt
  have := x.isLt
  obtain ⟨wd, h1⟩ : ∃ out, out = word 0x1d000000 [(st.toNat, 29), (d.toNat, 16), (a.toNat, 9), (t.toNat, 6), (w.toNat, 3), (c.toNat, 1), (x.toNat, 0)] := ⟨_, rfl⟩
  have hwd := h1
  simp only [word_cons, word_nil] at hwd
  have est : bv 2 (bits wd 30 29) = st := bv_bits _ (by simp only [bits]; omega)
  have ed : bv 7 (bits wd 22 16) = d := bv_bits _ (by simp only [bits]; omega)
  have ea : bv 7 (bits wd 15 9) = a := bv_bits _ (by simp only [bits]; omega)
  have et : bv 3 (bits wd 8 6) = t := bv_bits _ (by simp only [bits]; omega)
  have ew : bv 3 (bits wd 5 3) = w := bv_bits _ (by simp only [bits]; omega)
  have ec : bv 2 (bits wd 2 1) = c := bv_bits _ (by simp only [bits]; omega)
  have ex : bv 1 (bits wd 0 0) = x := bv_bits _ (by simp only [bits]; omega)
  have hop : bits wd 28 23 = 0x3a := by simp only [bits]; omega
  have hd : decodeLane wd 0 = .ok (.sta st d a t w c x) := by
    have hx : decodeLane wd 0 = (.ok (.sta (bv 2 (bits wd 30 29)) (bv 7 (bits wd 22 16)) (bv 7 (bits wd 15 9)) (bv 3 (bits wd 8 6)) (bv 3 (bits wd 5 3)) (bv 2 (bits wd 2 1)) (bv 1 (bits wd 0 0)))) := by unfold decodeLane; rw [hop]; rfl
    rw [hx]
    rw [est, ed, ea, et, ew, ec, ex]
  rw [encodeBytes_one (show encode (.sta st d a t w c x) = [wd] by rw [h1]; rfl)]
  exact decode_lane_one (by omega) (by simp only [bits]; omega) hop (by decide) hd hw

theorem RoundTrip.mma (st : BitVec 2) (h : BitVec 1) (t : BitVec 5) (a : BitVec 4) (y : BitVec 3) (b : BitVec 4) (z : BitVec 1) (n : BitVec 2) : RoundTrip.Statement (.mma st h t a y b z n) := by
  intro _ hw
  have := st.isLt
  have := h.isLt
  have := t.isLt
  have := a.isLt
  have := y.isLt
  have := b.isLt
  have := z.isLt
  have := n.isLt
  obtain ⟨wd, h1⟩ : ∃ out, out = word 0x1d800000 [(st.toNat, 29), (h.toNat, 22), (t.toNat, 16), (a.toNat, 12), (y.toNat, 9), (b.toNat, 5), (z.toNat, 2), (n.toNat, 0)] := ⟨_, rfl⟩
  have hwd := h1
  simp only [word_cons, word_nil] at hwd
  have est : bv 2 (bits wd 30 29) = st := bv_bits _ (by simp only [bits]; omega)
  have eh : bv 1 (bits wd 22 22) = h := bv_bits _ (by simp only [bits]; omega)
  have et : bv 5 (bits wd 20 16) = t := bv_bits _ (by simp only [bits]; omega)
  have ea : bv 4 (bits wd 15 12) = a := bv_bits _ (by simp only [bits]; omega)
  have ey : bv 3 (bits wd 11 9) = y := bv_bits _ (by simp only [bits]; omega)
  have eb : bv 4 (bits wd 8 5) = b := bv_bits _ (by simp only [bits]; omega)
  have ez : bv 1 (bits wd 2 2) = z := bv_bits _ (by simp only [bits]; omega)
  have en : bv 2 (bits wd 1 0) = n := bv_bits _ (by simp only [bits]; omega)
  have hop : bits wd 28 23 = 0x3b := by simp only [bits]; omega
  have hd : decodeLane wd 0 = .ok (.mma st h t a y b z n) := by
    have hx : decodeLane wd 0 = (resv wd [(21, 21), (4, 3)] (.mma (bv 2 (bits wd 30 29)) (bv 1 (bits wd 22 22)) (bv 5 (bits wd 20 16)) (bv 4 (bits wd 15 12)) (bv 3 (bits wd 11 9)) (bv 4 (bits wd 8 5)) (bv 1 (bits wd 2 2)) (bv 2 (bits wd 1 0)))) := by unfold decodeLane; rw [hop]; rfl
    rw [hx]
    rw [resv_ok2 (by simp only [bits]; omega) (by simp only [bits]; omega)]
    rw [est, eh, et, ea, ey, eb, ez, en]
  rw [encodeBytes_one (show encode (.mma st h t a y b z n) = [wd] by rw [h1]; rfl)]
  exact decode_lane_one (by omega) (by simp only [bits]; omega) hop (by decide) hd hw

theorem RoundTrip.tld (st : BitVec 2) (h : BitVec 1) (t : BitVec 5) (a : BitVec 4) : RoundTrip.Statement (.tld st h t a) := by
  intro _ hw
  have := st.isLt
  have := h.isLt
  have := t.isLt
  have := a.isLt
  obtain ⟨wd, h1⟩ : ∃ out, out = word 0x1e000000 [(st.toNat, 29), (h.toNat, 22), (t.toNat, 16), (a.toNat, 12)] := ⟨_, rfl⟩
  have hwd := h1
  simp only [word_cons, word_nil] at hwd
  have est : bv 2 (bits wd 30 29) = st := bv_bits _ (by simp only [bits]; omega)
  have eh : bv 1 (bits wd 22 22) = h := bv_bits _ (by simp only [bits]; omega)
  have et : bv 5 (bits wd 20 16) = t := bv_bits _ (by simp only [bits]; omega)
  have ea : bv 4 (bits wd 15 12) = a := bv_bits _ (by simp only [bits]; omega)
  have hop : bits wd 28 23 = 0x3c := by simp only [bits]; omega
  have hd : decodeLane wd 0 = .ok (.tld st h t a) := by
    have hx : decodeLane wd 0 = (resv wd [(21, 21), (11, 0)] (.tld (bv 2 (bits wd 30 29)) (bv 1 (bits wd 22 22)) (bv 5 (bits wd 20 16)) (bv 4 (bits wd 15 12)))) := by unfold decodeLane; rw [hop]; rfl
    rw [hx]
    rw [resv_ok2 (by simp only [bits]; omega) (by simp only [bits]; omega)]
    rw [est, eh, et, ea]
  rw [encodeBytes_one (show encode (.tld st h t a) = [wd] by rw [h1]; rfl)]
  exact decode_lane_one (by omega) (by simp only [bits]; omega) hop (by decide) hd hw

theorem RoundTrip.tst (st : BitVec 2) (h : BitVec 1) (t : BitVec 5) (a : BitVec 4) : RoundTrip.Statement (.tst st h t a) := by
  intro _ hw
  have := st.isLt
  have := h.isLt
  have := t.isLt
  have := a.isLt
  obtain ⟨wd, h1⟩ : ∃ out, out = word 0x1e800000 [(st.toNat, 29), (h.toNat, 22), (t.toNat, 16), (a.toNat, 12)] := ⟨_, rfl⟩
  have hwd := h1
  simp only [word_cons, word_nil] at hwd
  have est : bv 2 (bits wd 30 29) = st := bv_bits _ (by simp only [bits]; omega)
  have eh : bv 1 (bits wd 22 22) = h := bv_bits _ (by simp only [bits]; omega)
  have et : bv 5 (bits wd 20 16) = t := bv_bits _ (by simp only [bits]; omega)
  have ea : bv 4 (bits wd 15 12) = a := bv_bits _ (by simp only [bits]; omega)
  have hop : bits wd 28 23 = 0x3d := by simp only [bits]; omega
  have hd : decodeLane wd 0 = .ok (.tst st h t a) := by
    have hx : decodeLane wd 0 = (resv wd [(21, 21), (11, 0)] (.tst (bv 2 (bits wd 30 29)) (bv 1 (bits wd 22 22)) (bv 5 (bits wd 20 16)) (bv 4 (bits wd 15 12)))) := by unfold decodeLane; rw [hop]; rfl
    rw [hx]
    rw [resv_ok2 (by simp only [bits]; omega) (by simp only [bits]; omega)]
    rw [est, eh, et, ea]
  rw [encodeBytes_one (show encode (.tst st h t a) = [wd] by rw [h1]; rfl)]
  exact decode_lane_one (by omega) (by simp only [bits]; omega) hop (by decide) hd hw

theorem RoundTrip.uadd (st : BitVec 2) (d : BitVec 6) (a : BitVec 6) (b : BitVec 6) (m : BitVec 4) : RoundTrip.Statement (.uadd st d a b m) := by
  intro _ hw
  have := st.isLt
  have := d.isLt
  have := a.isLt
  have := b.isLt
  have := m.isLt
  obtain ⟨wd, h1⟩ : ∃ out, out = word 0x80000000 [(st.toNat, 29), (d.toNat, 16), (a.toNat, 10), (b.toNat, 4), (m.toNat, 0)] := ⟨_, rfl⟩
  have hwd := h1
  simp only [word_cons, word_nil] at hwd
  have est : bv 2 (bits wd 30 29) = st := bv_bits _ (by simp only [bits]; omega)
  have ed : bv 6 (bits wd 21 16) = d := bv_bits _ (by simp only [bits]; omega)
  have ea : bv 6 (bits wd 15 10) = a := bv_bits _ (by simp only [bits]; omega)
  have eb : bv 6 (bits wd 9 4) = b := bv_bits _ (by simp only [bits]; omega)
  have em : bv 4 (bits wd 3 0) = m := bv_bits _ (by simp only [bits]; omega)
  have hop : bits wd 28 22 = 0x0 := by simp only [bits]; omega
  have hd : decodeUniform wd 0 = .ok (.uadd st d a b m) := by
    have hx : decodeUniform wd 0 = (.ok (.uadd (bv 2 (bits wd 30 29)) (bv 6 (bits wd 21 16)) (bv 6 (bits wd 15 10)) (bv 6 (bits wd 9 4)) (bv 4 (bits wd 3 0)))) := by unfold decodeUniform; rw [hop]; rfl
    rw [hx]
    rw [est, ed, ea, eb, em]
  rw [encodeBytes_one (show encode (.uadd st d a b m) = [wd] by rw [h1]; rfl)]
  exact decode_uni_one (by omega) (by simp only [bits]; omega) hop (by decide) hd hw

theorem RoundTrip.usub (st : BitVec 2) (d : BitVec 6) (a : BitVec 6) (b : BitVec 6) (m : BitVec 4) : RoundTrip.Statement (.usub st d a b m) := by
  intro _ hw
  have := st.isLt
  have := d.isLt
  have := a.isLt
  have := b.isLt
  have := m.isLt
  obtain ⟨wd, h1⟩ : ∃ out, out = word 0x80400000 [(st.toNat, 29), (d.toNat, 16), (a.toNat, 10), (b.toNat, 4), (m.toNat, 0)] := ⟨_, rfl⟩
  have hwd := h1
  simp only [word_cons, word_nil] at hwd
  have est : bv 2 (bits wd 30 29) = st := bv_bits _ (by simp only [bits]; omega)
  have ed : bv 6 (bits wd 21 16) = d := bv_bits _ (by simp only [bits]; omega)
  have ea : bv 6 (bits wd 15 10) = a := bv_bits _ (by simp only [bits]; omega)
  have eb : bv 6 (bits wd 9 4) = b := bv_bits _ (by simp only [bits]; omega)
  have em : bv 4 (bits wd 3 0) = m := bv_bits _ (by simp only [bits]; omega)
  have hop : bits wd 28 22 = 0x1 := by simp only [bits]; omega
  have hd : decodeUniform wd 0 = .ok (.usub st d a b m) := by
    have hx : decodeUniform wd 0 = (.ok (.usub (bv 2 (bits wd 30 29)) (bv 6 (bits wd 21 16)) (bv 6 (bits wd 15 10)) (bv 6 (bits wd 9 4)) (bv 4 (bits wd 3 0)))) := by unfold decodeUniform; rw [hop]; rfl
    rw [hx]
    rw [est, ed, ea, eb, em]
  rw [encodeBytes_one (show encode (.usub st d a b m) = [wd] by rw [h1]; rfl)]
  exact decode_uni_one (by omega) (by simp only [bits]; omega) hop (by decide) hd hw

theorem RoundTrip.umul (st : BitVec 2) (d : BitVec 6) (a : BitVec 6) (b : BitVec 6) (m : BitVec 4) : RoundTrip.Statement (.umul st d a b m) := by
  intro _ hw
  have := st.isLt
  have := d.isLt
  have := a.isLt
  have := b.isLt
  have := m.isLt
  obtain ⟨wd, h1⟩ : ∃ out, out = word 0x80800000 [(st.toNat, 29), (d.toNat, 16), (a.toNat, 10), (b.toNat, 4), (m.toNat, 0)] := ⟨_, rfl⟩
  have hwd := h1
  simp only [word_cons, word_nil] at hwd
  have est : bv 2 (bits wd 30 29) = st := bv_bits _ (by simp only [bits]; omega)
  have ed : bv 6 (bits wd 21 16) = d := bv_bits _ (by simp only [bits]; omega)
  have ea : bv 6 (bits wd 15 10) = a := bv_bits _ (by simp only [bits]; omega)
  have eb : bv 6 (bits wd 9 4) = b := bv_bits _ (by simp only [bits]; omega)
  have em : bv 4 (bits wd 3 0) = m := bv_bits _ (by simp only [bits]; omega)
  have hop : bits wd 28 22 = 0x2 := by simp only [bits]; omega
  have hd : decodeUniform wd 0 = .ok (.umul st d a b m) := by
    have hx : decodeUniform wd 0 = (.ok (.umul (bv 2 (bits wd 30 29)) (bv 6 (bits wd 21 16)) (bv 6 (bits wd 15 10)) (bv 6 (bits wd 9 4)) (bv 4 (bits wd 3 0)))) := by unfold decodeUniform; rw [hop]; rfl
    rw [hx]
    rw [est, ed, ea, eb, em]
  rw [encodeBytes_one (show encode (.umul st d a b m) = [wd] by rw [h1]; rfl)]
  exact decode_uni_one (by omega) (by simp only [bits]; omega) hop (by decide) hd hw

theorem RoundTrip.umulh (st : BitVec 2) (d : BitVec 6) (a : BitVec 6) (b : BitVec 6) (m : BitVec 4) : RoundTrip.Statement (.umulh st d a b m) := by
  intro _ hw
  have := st.isLt
  have := d.isLt
  have := a.isLt
  have := b.isLt
  have := m.isLt
  obtain ⟨wd, h1⟩ : ∃ out, out = word 0x80c00000 [(st.toNat, 29), (d.toNat, 16), (a.toNat, 10), (b.toNat, 4), (m.toNat, 0)] := ⟨_, rfl⟩
  have hwd := h1
  simp only [word_cons, word_nil] at hwd
  have est : bv 2 (bits wd 30 29) = st := bv_bits _ (by simp only [bits]; omega)
  have ed : bv 6 (bits wd 21 16) = d := bv_bits _ (by simp only [bits]; omega)
  have ea : bv 6 (bits wd 15 10) = a := bv_bits _ (by simp only [bits]; omega)
  have eb : bv 6 (bits wd 9 4) = b := bv_bits _ (by simp only [bits]; omega)
  have em : bv 4 (bits wd 3 0) = m := bv_bits _ (by simp only [bits]; omega)
  have hop : bits wd 28 22 = 0x3 := by simp only [bits]; omega
  have hd : decodeUniform wd 0 = .ok (.umulh st d a b m) := by
    have hx : decodeUniform wd 0 = (.ok (.umulh (bv 2 (bits wd 30 29)) (bv 6 (bits wd 21 16)) (bv 6 (bits wd 15 10)) (bv 6 (bits wd 9 4)) (bv 4 (bits wd 3 0)))) := by unfold decodeUniform; rw [hop]; rfl
    rw [hx]
    rw [est, ed, ea, eb, em]
  rw [encodeBytes_one (show encode (.umulh st d a b m) = [wd] by rw [h1]; rfl)]
  exact decode_uni_one (by omega) (by simp only [bits]; omega) hop (by decide) hd hw

theorem RoundTrip.uand (st : BitVec 2) (d : BitVec 6) (a : BitVec 6) (b : BitVec 6) (m : BitVec 4) : RoundTrip.Statement (.uand st d a b m) := by
  intro _ hw
  have := st.isLt
  have := d.isLt
  have := a.isLt
  have := b.isLt
  have := m.isLt
  obtain ⟨wd, h1⟩ : ∃ out, out = word 0x81000000 [(st.toNat, 29), (d.toNat, 16), (a.toNat, 10), (b.toNat, 4), (m.toNat, 0)] := ⟨_, rfl⟩
  have hwd := h1
  simp only [word_cons, word_nil] at hwd
  have est : bv 2 (bits wd 30 29) = st := bv_bits _ (by simp only [bits]; omega)
  have ed : bv 6 (bits wd 21 16) = d := bv_bits _ (by simp only [bits]; omega)
  have ea : bv 6 (bits wd 15 10) = a := bv_bits _ (by simp only [bits]; omega)
  have eb : bv 6 (bits wd 9 4) = b := bv_bits _ (by simp only [bits]; omega)
  have em : bv 4 (bits wd 3 0) = m := bv_bits _ (by simp only [bits]; omega)
  have hop : bits wd 28 22 = 0x4 := by simp only [bits]; omega
  have hd : decodeUniform wd 0 = .ok (.uand st d a b m) := by
    have hx : decodeUniform wd 0 = (.ok (.uand (bv 2 (bits wd 30 29)) (bv 6 (bits wd 21 16)) (bv 6 (bits wd 15 10)) (bv 6 (bits wd 9 4)) (bv 4 (bits wd 3 0)))) := by unfold decodeUniform; rw [hop]; rfl
    rw [hx]
    rw [est, ed, ea, eb, em]
  rw [encodeBytes_one (show encode (.uand st d a b m) = [wd] by rw [h1]; rfl)]
  exact decode_uni_one (by omega) (by simp only [bits]; omega) hop (by decide) hd hw

theorem RoundTrip.uor (st : BitVec 2) (d : BitVec 6) (a : BitVec 6) (b : BitVec 6) (m : BitVec 4) : RoundTrip.Statement (.uor st d a b m) := by
  intro _ hw
  have := st.isLt
  have := d.isLt
  have := a.isLt
  have := b.isLt
  have := m.isLt
  obtain ⟨wd, h1⟩ : ∃ out, out = word 0x81400000 [(st.toNat, 29), (d.toNat, 16), (a.toNat, 10), (b.toNat, 4), (m.toNat, 0)] := ⟨_, rfl⟩
  have hwd := h1
  simp only [word_cons, word_nil] at hwd
  have est : bv 2 (bits wd 30 29) = st := bv_bits _ (by simp only [bits]; omega)
  have ed : bv 6 (bits wd 21 16) = d := bv_bits _ (by simp only [bits]; omega)
  have ea : bv 6 (bits wd 15 10) = a := bv_bits _ (by simp only [bits]; omega)
  have eb : bv 6 (bits wd 9 4) = b := bv_bits _ (by simp only [bits]; omega)
  have em : bv 4 (bits wd 3 0) = m := bv_bits _ (by simp only [bits]; omega)
  have hop : bits wd 28 22 = 0x5 := by simp only [bits]; omega
  have hd : decodeUniform wd 0 = .ok (.uor st d a b m) := by
    have hx : decodeUniform wd 0 = (.ok (.uor (bv 2 (bits wd 30 29)) (bv 6 (bits wd 21 16)) (bv 6 (bits wd 15 10)) (bv 6 (bits wd 9 4)) (bv 4 (bits wd 3 0)))) := by unfold decodeUniform; rw [hop]; rfl
    rw [hx]
    rw [est, ed, ea, eb, em]
  rw [encodeBytes_one (show encode (.uor st d a b m) = [wd] by rw [h1]; rfl)]
  exact decode_uni_one (by omega) (by simp only [bits]; omega) hop (by decide) hd hw

theorem RoundTrip.uxor (st : BitVec 2) (d : BitVec 6) (a : BitVec 6) (b : BitVec 6) (m : BitVec 4) : RoundTrip.Statement (.uxor st d a b m) := by
  intro _ hw
  have := st.isLt
  have := d.isLt
  have := a.isLt
  have := b.isLt
  have := m.isLt
  obtain ⟨wd, h1⟩ : ∃ out, out = word 0x81800000 [(st.toNat, 29), (d.toNat, 16), (a.toNat, 10), (b.toNat, 4), (m.toNat, 0)] := ⟨_, rfl⟩
  have hwd := h1
  simp only [word_cons, word_nil] at hwd
  have est : bv 2 (bits wd 30 29) = st := bv_bits _ (by simp only [bits]; omega)
  have ed : bv 6 (bits wd 21 16) = d := bv_bits _ (by simp only [bits]; omega)
  have ea : bv 6 (bits wd 15 10) = a := bv_bits _ (by simp only [bits]; omega)
  have eb : bv 6 (bits wd 9 4) = b := bv_bits _ (by simp only [bits]; omega)
  have em : bv 4 (bits wd 3 0) = m := bv_bits _ (by simp only [bits]; omega)
  have hop : bits wd 28 22 = 0x6 := by simp only [bits]; omega
  have hd : decodeUniform wd 0 = .ok (.uxor st d a b m) := by
    have hx : decodeUniform wd 0 = (.ok (.uxor (bv 2 (bits wd 30 29)) (bv 6 (bits wd 21 16)) (bv 6 (bits wd 15 10)) (bv 6 (bits wd 9 4)) (bv 4 (bits wd 3 0)))) := by unfold decodeUniform; rw [hop]; rfl
    rw [hx]
    rw [est, ed, ea, eb, em]
  rw [encodeBytes_one (show encode (.uxor st d a b m) = [wd] by rw [h1]; rfl)]
  exact decode_uni_one (by omega) (by simp only [bits]; omega) hop (by decide) hd hw

theorem RoundTrip.ushl (st : BitVec 2) (d : BitVec 6) (a : BitVec 6) (b : BitVec 6) (m : BitVec 4) : RoundTrip.Statement (.ushl st d a b m) := by
  intro _ hw
  have := st.isLt
  have := d.isLt
  have := a.isLt
  have := b.isLt
  have := m.isLt
  obtain ⟨wd, h1⟩ : ∃ out, out = word 0x81c00000 [(st.toNat, 29), (d.toNat, 16), (a.toNat, 10), (b.toNat, 4), (m.toNat, 0)] := ⟨_, rfl⟩
  have hwd := h1
  simp only [word_cons, word_nil] at hwd
  have est : bv 2 (bits wd 30 29) = st := bv_bits _ (by simp only [bits]; omega)
  have ed : bv 6 (bits wd 21 16) = d := bv_bits _ (by simp only [bits]; omega)
  have ea : bv 6 (bits wd 15 10) = a := bv_bits _ (by simp only [bits]; omega)
  have eb : bv 6 (bits wd 9 4) = b := bv_bits _ (by simp only [bits]; omega)
  have em : bv 4 (bits wd 3 0) = m := bv_bits _ (by simp only [bits]; omega)
  have hop : bits wd 28 22 = 0x7 := by simp only [bits]; omega
  have hd : decodeUniform wd 0 = .ok (.ushl st d a b m) := by
    have hx : decodeUniform wd 0 = (.ok (.ushl (bv 2 (bits wd 30 29)) (bv 6 (bits wd 21 16)) (bv 6 (bits wd 15 10)) (bv 6 (bits wd 9 4)) (bv 4 (bits wd 3 0)))) := by unfold decodeUniform; rw [hop]; rfl
    rw [hx]
    rw [est, ed, ea, eb, em]
  rw [encodeBytes_one (show encode (.ushl st d a b m) = [wd] by rw [h1]; rfl)]
  exact decode_uni_one (by omega) (by simp only [bits]; omega) hop (by decide) hd hw

theorem RoundTrip.ushr (st : BitVec 2) (d : BitVec 6) (a : BitVec 6) (b : BitVec 6) (m : BitVec 4) : RoundTrip.Statement (.ushr st d a b m) := by
  intro _ hw
  have := st.isLt
  have := d.isLt
  have := a.isLt
  have := b.isLt
  have := m.isLt
  obtain ⟨wd, h1⟩ : ∃ out, out = word 0x82000000 [(st.toNat, 29), (d.toNat, 16), (a.toNat, 10), (b.toNat, 4), (m.toNat, 0)] := ⟨_, rfl⟩
  have hwd := h1
  simp only [word_cons, word_nil] at hwd
  have est : bv 2 (bits wd 30 29) = st := bv_bits _ (by simp only [bits]; omega)
  have ed : bv 6 (bits wd 21 16) = d := bv_bits _ (by simp only [bits]; omega)
  have ea : bv 6 (bits wd 15 10) = a := bv_bits _ (by simp only [bits]; omega)
  have eb : bv 6 (bits wd 9 4) = b := bv_bits _ (by simp only [bits]; omega)
  have em : bv 4 (bits wd 3 0) = m := bv_bits _ (by simp only [bits]; omega)
  have hop : bits wd 28 22 = 0x8 := by simp only [bits]; omega
  have hd : decodeUniform wd 0 = .ok (.ushr st d a b m) := by
    have hx : decodeUniform wd 0 = (.ok (.ushr (bv 2 (bits wd 30 29)) (bv 6 (bits wd 21 16)) (bv 6 (bits wd 15 10)) (bv 6 (bits wd 9 4)) (bv 4 (bits wd 3 0)))) := by unfold decodeUniform; rw [hop]; rfl
    rw [hx]
    rw [est, ed, ea, eb, em]
  rw [encodeBytes_one (show encode (.ushr st d a b m) = [wd] by rw [h1]; rfl)]
  exact decode_uni_one (by omega) (by simp only [bits]; omega) hop (by decide) hd hw

theorem RoundTrip.umin (st : BitVec 2) (d : BitVec 6) (a : BitVec 6) (b : BitVec 6) (m : BitVec 4) : RoundTrip.Statement (.umin st d a b m) := by
  intro _ hw
  have := st.isLt
  have := d.isLt
  have := a.isLt
  have := b.isLt
  have := m.isLt
  obtain ⟨wd, h1⟩ : ∃ out, out = word 0x82400000 [(st.toNat, 29), (d.toNat, 16), (a.toNat, 10), (b.toNat, 4), (m.toNat, 0)] := ⟨_, rfl⟩
  have hwd := h1
  simp only [word_cons, word_nil] at hwd
  have est : bv 2 (bits wd 30 29) = st := bv_bits _ (by simp only [bits]; omega)
  have ed : bv 6 (bits wd 21 16) = d := bv_bits _ (by simp only [bits]; omega)
  have ea : bv 6 (bits wd 15 10) = a := bv_bits _ (by simp only [bits]; omega)
  have eb : bv 6 (bits wd 9 4) = b := bv_bits _ (by simp only [bits]; omega)
  have em : bv 4 (bits wd 3 0) = m := bv_bits _ (by simp only [bits]; omega)
  have hop : bits wd 28 22 = 0x9 := by simp only [bits]; omega
  have hd : decodeUniform wd 0 = .ok (.umin st d a b m) := by
    have hx : decodeUniform wd 0 = (.ok (.umin (bv 2 (bits wd 30 29)) (bv 6 (bits wd 21 16)) (bv 6 (bits wd 15 10)) (bv 6 (bits wd 9 4)) (bv 4 (bits wd 3 0)))) := by unfold decodeUniform; rw [hop]; rfl
    rw [hx]
    rw [est, ed, ea, eb, em]
  rw [encodeBytes_one (show encode (.umin st d a b m) = [wd] by rw [h1]; rfl)]
  exact decode_uni_one (by omega) (by simp only [bits]; omega) hop (by decide) hd hw

theorem RoundTrip.umax (st : BitVec 2) (d : BitVec 6) (a : BitVec 6) (b : BitVec 6) (m : BitVec 4) : RoundTrip.Statement (.umax st d a b m) := by
  intro _ hw
  have := st.isLt
  have := d.isLt
  have := a.isLt
  have := b.isLt
  have := m.isLt
  obtain ⟨wd, h1⟩ : ∃ out, out = word 0x82800000 [(st.toNat, 29), (d.toNat, 16), (a.toNat, 10), (b.toNat, 4), (m.toNat, 0)] := ⟨_, rfl⟩
  have hwd := h1
  simp only [word_cons, word_nil] at hwd
  have est : bv 2 (bits wd 30 29) = st := bv_bits _ (by simp only [bits]; omega)
  have ed : bv 6 (bits wd 21 16) = d := bv_bits _ (by simp only [bits]; omega)
  have ea : bv 6 (bits wd 15 10) = a := bv_bits _ (by simp only [bits]; omega)
  have eb : bv 6 (bits wd 9 4) = b := bv_bits _ (by simp only [bits]; omega)
  have em : bv 4 (bits wd 3 0) = m := bv_bits _ (by simp only [bits]; omega)
  have hop : bits wd 28 22 = 0xa := by simp only [bits]; omega
  have hd : decodeUniform wd 0 = .ok (.umax st d a b m) := by
    have hx : decodeUniform wd 0 = (.ok (.umax (bv 2 (bits wd 30 29)) (bv 6 (bits wd 21 16)) (bv 6 (bits wd 15 10)) (bv 6 (bits wd 9 4)) (bv 4 (bits wd 3 0)))) := by unfold decodeUniform; rw [hop]; rfl
    rw [hx]
    rw [est, ed, ea, eb, em]
  rw [encodeBytes_one (show encode (.umax st d a b m) = [wd] by rw [h1]; rfl)]
  exact decode_uni_one (by omega) (by simp only [bits]; omega) hop (by decide) hd hw

theorem RoundTrip.ucmp (st : BitVec 2) (c : BitVec 3) (a : BitVec 6) (b : BitVec 6) (m : BitVec 4) : RoundTrip.Statement (.ucmp st c a b m) := by
  intro _ hw
  have := st.isLt
  have := c.isLt
  have := a.isLt
  have := b.isLt
  have := m.isLt
  obtain ⟨wd, h1⟩ : ∃ out, out = word 0x82c00000 [(st.toNat, 29), (c.toNat, 16), (a.toNat, 10), (b.toNat, 4), (m.toNat, 0)] := ⟨_, rfl⟩
  have hwd := h1
  simp only [word_cons, word_nil] at hwd
  have est : bv 2 (bits wd 30 29) = st := bv_bits _ (by simp only [bits]; omega)
  have ec : bv 3 (bits wd 18 16) = c := bv_bits _ (by simp only [bits]; omega)
  have ea : bv 6 (bits wd 15 10) = a := bv_bits _ (by simp only [bits]; omega)
  have eb : bv 6 (bits wd 9 4) = b := bv_bits _ (by simp only [bits]; omega)
  have em : bv 4 (bits wd 3 0) = m := bv_bits _ (by simp only [bits]; omega)
  have hop : bits wd 28 22 = 0xb := by simp only [bits]; omega
  have hd : decodeUniform wd 0 = .ok (.ucmp st c a b m) := by
    have hx : decodeUniform wd 0 = (resv wd [(21, 19)] (.ucmp (bv 2 (bits wd 30 29)) (bv 3 (bits wd 18 16)) (bv 6 (bits wd 15 10)) (bv 6 (bits wd 9 4)) (bv 4 (bits wd 3 0)))) := by unfold decodeUniform; rw [hop]; rfl
    rw [hx]
    rw [resv_ok1 (by simp only [bits]; omega)]
    rw [est, ec, ea, eb, em]
  rw [encodeBytes_one (show encode (.ucmp st c a b m) = [wd] by rw [h1]; rfl)]
  exact decode_uni_one (by omega) (by simp only [bits]; omega) hop (by decide) hd hw

theorem RoundTrip.usel (st : BitVec 2) (d : BitVec 6) (a : BitVec 6) (b : BitVec 6) (c : BitVec 3) : RoundTrip.Statement (.usel st d a b c) := by
  intro _ hw
  have := st.isLt
  have := d.isLt
  have := a.isLt
  have := b.isLt
  have := c.isLt
  obtain ⟨wd, h1⟩ : ∃ out, out = word 0x83000000 [(st.toNat, 29), (d.toNat, 16), (a.toNat, 10), (b.toNat, 4), (c.toNat, 0)] := ⟨_, rfl⟩
  have hwd := h1
  simp only [word_cons, word_nil] at hwd
  have est : bv 2 (bits wd 30 29) = st := bv_bits _ (by simp only [bits]; omega)
  have ed : bv 6 (bits wd 21 16) = d := bv_bits _ (by simp only [bits]; omega)
  have ea : bv 6 (bits wd 15 10) = a := bv_bits _ (by simp only [bits]; omega)
  have eb : bv 6 (bits wd 9 4) = b := bv_bits _ (by simp only [bits]; omega)
  have ec : bv 3 (bits wd 2 0) = c := bv_bits _ (by simp only [bits]; omega)
  have hop : bits wd 28 22 = 0xc := by simp only [bits]; omega
  have hd : decodeUniform wd 0 = .ok (.usel st d a b c) := by
    have hx : decodeUniform wd 0 = (resv wd [(3, 3)] (.usel (bv 2 (bits wd 30 29)) (bv 6 (bits wd 21 16)) (bv 6 (bits wd 15 10)) (bv 6 (bits wd 9 4)) (bv 3 (bits wd 2 0)))) := by unfold decodeUniform; rw [hop]; rfl
    rw [hx]
    rw [resv_ok1 (by simp only [bits]; omega)]
    rw [est, ed, ea, eb, ec]
  rw [encodeBytes_one (show encode (.usel st d a b c) = [wd] by rw [h1]; rfl)]
  exact decode_uni_one (by omega) (by simp only [bits]; omega) hop (by decide) hd hw

theorem RoundTrip.uaddi (st : BitVec 2) (d : BitVec 6) (a : BitVec 6) (i : BitVec 10) : RoundTrip.Statement (.uaddi st d a i) := by
  intro _ hw
  have := st.isLt
  have := d.isLt
  have := a.isLt
  have := i.isLt
  obtain ⟨wd, h1⟩ : ∃ out, out = word 0x83400000 [(st.toNat, 29), (d.toNat, 16), (a.toNat, 10), (i.toNat, 0)] := ⟨_, rfl⟩
  have hwd := h1
  simp only [word_cons, word_nil] at hwd
  have est : bv 2 (bits wd 30 29) = st := bv_bits _ (by simp only [bits]; omega)
  have ed : bv 6 (bits wd 21 16) = d := bv_bits _ (by simp only [bits]; omega)
  have ea : bv 6 (bits wd 15 10) = a := bv_bits _ (by simp only [bits]; omega)
  have ei : bv 10 (bits wd 9 0) = i := bv_bits _ (by simp only [bits]; omega)
  have hop : bits wd 28 22 = 0xd := by simp only [bits]; omega
  have hd : decodeUniform wd 0 = .ok (.uaddi st d a i) := by
    have hx : decodeUniform wd 0 = (.ok (.uaddi (bv 2 (bits wd 30 29)) (bv 6 (bits wd 21 16)) (bv 6 (bits wd 15 10)) (bv 10 (bits wd 9 0)))) := by unfold decodeUniform; rw [hop]; rfl
    rw [hx]
    rw [est, ed, ea, ei]
  rw [encodeBytes_one (show encode (.uaddi st d a i) = [wd] by rw [h1]; rfl)]
  exact decode_uni_one (by omega) (by simp only [bits]; omega) hop (by decide) hd hw

theorem RoundTrip.uandi (st : BitVec 2) (d : BitVec 6) (a : BitVec 6) (i : BitVec 10) : RoundTrip.Statement (.uandi st d a i) := by
  intro _ hw
  have := st.isLt
  have := d.isLt
  have := a.isLt
  have := i.isLt
  obtain ⟨wd, h1⟩ : ∃ out, out = word 0x83800000 [(st.toNat, 29), (d.toNat, 16), (a.toNat, 10), (i.toNat, 0)] := ⟨_, rfl⟩
  have hwd := h1
  simp only [word_cons, word_nil] at hwd
  have est : bv 2 (bits wd 30 29) = st := bv_bits _ (by simp only [bits]; omega)
  have ed : bv 6 (bits wd 21 16) = d := bv_bits _ (by simp only [bits]; omega)
  have ea : bv 6 (bits wd 15 10) = a := bv_bits _ (by simp only [bits]; omega)
  have ei : bv 10 (bits wd 9 0) = i := bv_bits _ (by simp only [bits]; omega)
  have hop : bits wd 28 22 = 0xe := by simp only [bits]; omega
  have hd : decodeUniform wd 0 = .ok (.uandi st d a i) := by
    have hx : decodeUniform wd 0 = (.ok (.uandi (bv 2 (bits wd 30 29)) (bv 6 (bits wd 21 16)) (bv 6 (bits wd 15 10)) (bv 10 (bits wd 9 0)))) := by unfold decodeUniform; rw [hop]; rfl
    rw [hx]
    rw [est, ed, ea, ei]
  rw [encodeBytes_one (show encode (.uandi st d a i) = [wd] by rw [h1]; rfl)]
  exact decode_uni_one (by omega) (by simp only [bits]; omega) hop (by decide) hd hw

theorem RoundTrip.ucmpi (st : BitVec 2) (c : BitVec 3) (n : BitVec 3) (a : BitVec 6) (i : BitVec 10) : RoundTrip.Statement (.ucmpi st c n a i) := by
  intro _ hw
  have := st.isLt
  have := c.isLt
  have := n.isLt
  have := a.isLt
  have := i.isLt
  obtain ⟨wd, h1⟩ : ∃ out, out = word 0x83c00000 [(st.toNat, 29), (c.toNat, 19), (n.toNat, 16), (a.toNat, 10), (i.toNat, 0)] := ⟨_, rfl⟩
  have hwd := h1
  simp only [word_cons, word_nil] at hwd
  have est : bv 2 (bits wd 30 29) = st := bv_bits _ (by simp only [bits]; omega)
  have ec : bv 3 (bits wd 21 19) = c := bv_bits _ (by simp only [bits]; omega)
  have en : bv 3 (bits wd 18 16) = n := bv_bits _ (by simp only [bits]; omega)
  have ea : bv 6 (bits wd 15 10) = a := bv_bits _ (by simp only [bits]; omega)
  have ei : bv 10 (bits wd 9 0) = i := bv_bits _ (by simp only [bits]; omega)
  have hop : bits wd 28 22 = 0xf := by simp only [bits]; omega
  have hd : decodeUniform wd 0 = .ok (.ucmpi st c n a i) := by
    have hx : decodeUniform wd 0 = (.ok (.ucmpi (bv 2 (bits wd 30 29)) (bv 3 (bits wd 21 19)) (bv 3 (bits wd 18 16)) (bv 6 (bits wd 15 10)) (bv 10 (bits wd 9 0)))) := by unfold decodeUniform; rw [hop]; rfl
    rw [hx]
    rw [est, ec, en, ea, ei]
  rw [encodeBytes_one (show encode (.ucmpi st c n a i) = [wd] by rw [h1]; rfl)]
  exact decode_uni_one (by omega) (by simp only [bits]; omega) hop (by decide) hd hw

theorem RoundTrip.umovi (st : BitVec 2) (d : BitVec 6) (h : BitVec 2) (imm : BitVec 32) : RoundTrip.Statement (.umovi st d h imm) := by
  intro _ hw
  have := st.isLt
  have := d.isLt
  have := h.isLt
  have := imm.isLt
  obtain ⟨wd, h1⟩ : ∃ out, out = word 0x84000000 [(st.toNat, 29), (d.toNat, 16), (h.toNat, 14)] := ⟨_, rfl⟩
  obtain ⟨we, h2⟩ : ∃ out, out = imm.toNat := ⟨_, rfl⟩
  have hwd := h1
  have hwe := h2
  simp only [word_cons, word_nil] at hwd
  have est : bv 2 (bits wd 30 29) = st := bv_bits _ (by simp only [bits]; omega)
  have ed : bv 6 (bits wd 21 16) = d := bv_bits _ (by simp only [bits]; omega)
  have eh : bv 2 (bits wd 15 14) = h := bv_bits _ (by simp only [bits]; omega)
  have eimm : bv 32 we = imm := BitVec.eq_of_toNat_eq (by simp only [BitVec.toNat_ofNat]; omega)
  have hop : bits wd 28 22 = 0x10 := by simp only [bits]; omega
  have hd : decodeUniform wd we = .ok (.umovi st d h imm) := by
    have hx : decodeUniform wd we = (resv wd [(13, 0)] (.umovi (bv 2 (bits wd 30 29)) (bv 6 (bits wd 21 16)) (bv 2 (bits wd 15 14)) (bv 32 we))) := by unfold decodeUniform; rw [hop]; rfl
    rw [hx]
    rw [resv_ok1 (by simp only [bits]; omega)]
    rw [est, ed, eh, eimm]
  rw [encodeBytes_two (show encode (.umovi st d h imm) = [wd, we] by rw [h1, h2]; rfl)]
  exact decode_uni_two (by omega) (by omega) (by simp only [bits]; omega) hop (by decide) hd hw

theorem RoundTrip.uun (st : BitVec 2) (d : BitVec 6) (a : BitVec 6) (u : BitVec 6) (m : BitVec 4) : RoundTrip.Statement (.uun st d a u m) := by
  intro _ hw
  have := st.isLt
  have := d.isLt
  have := a.isLt
  have := u.isLt
  have := m.isLt
  obtain ⟨wd, h1⟩ : ∃ out, out = word 0x84400000 [(st.toNat, 29), (d.toNat, 16), (a.toNat, 10), (u.toNat, 4), (m.toNat, 0)] := ⟨_, rfl⟩
  have hwd := h1
  simp only [word_cons, word_nil] at hwd
  have est : bv 2 (bits wd 30 29) = st := bv_bits _ (by simp only [bits]; omega)
  have ed : bv 6 (bits wd 21 16) = d := bv_bits _ (by simp only [bits]; omega)
  have ea : bv 6 (bits wd 15 10) = a := bv_bits _ (by simp only [bits]; omega)
  have eu : bv 6 (bits wd 9 4) = u := bv_bits _ (by simp only [bits]; omega)
  have em : bv 4 (bits wd 3 0) = m := bv_bits _ (by simp only [bits]; omega)
  have hop : bits wd 28 22 = 0x11 := by simp only [bits]; omega
  have hd : decodeUniform wd 0 = .ok (.uun st d a u m) := by
    have hx : decodeUniform wd 0 = (.ok (.uun (bv 2 (bits wd 30 29)) (bv 6 (bits wd 21 16)) (bv 6 (bits wd 15 10)) (bv 6 (bits wd 9 4)) (bv 4 (bits wd 3 0)))) := by unfold decodeUniform; rw [hop]; rfl
    rw [hx]
    rw [est, ed, ea, eu, em]
  rw [encodeBytes_one (show encode (.uun st d a u m) = [wd] by rw [h1]; rfl)]
  exact decode_uni_one (by omega) (by simp only [bits]; omega) hop (by decide) hd hw

theorem RoundTrip.clog (st : BitVec 2) (c : BitVec 3) (x : BitVec 3) (y : BitVec 3) (t : BitVec 4) : RoundTrip.Statement (.clog st c x y t) := by
  intro _ hw
  have := st.isLt
  have := c.isLt
  have := x.isLt
  have := y.isLt
  have := t.isLt
  obtain ⟨wd, h1⟩ : ∃ out, out = word 0x84800000 [(st.toNat, 29), (c.toNat, 16), (x.toNat, 10), (y.toNat, 4), (t.toNat, 0)] := ⟨_, rfl⟩
  have hwd := h1
  simp only [word_cons, word_nil] at hwd
  have est : bv 2 (bits wd 30 29) = st := bv_bits _ (by simp only [bits]; omega)
  have ec : bv 3 (bits wd 18 16) = c := bv_bits _ (by simp only [bits]; omega)
  have ex : bv 3 (bits wd 12 10) = x := bv_bits _ (by simp only [bits]; omega)
  have ey : bv 3 (bits wd 6 4) = y := bv_bits _ (by simp only [bits]; omega)
  have et : bv 4 (bits wd 3 0) = t := bv_bits _ (by simp only [bits]; omega)
  have hop : bits wd 28 22 = 0x12 := by simp only [bits]; omega
  have hd : decodeUniform wd 0 = .ok (.clog st c x y t) := by
    have hx : decodeUniform wd 0 = (resv wd [(21, 19), (15, 13), (9, 7)] (.clog (bv 2 (bits wd 30 29)) (bv 3 (bits wd 18 16)) (bv 3 (bits wd 12 10)) (bv 3 (bits wd 6 4)) (bv 4 (bits wd 3 0)))) := by unfold decodeUniform; rw [hop]; rfl
    rw [hx]
    rw [resv_ok3 (by simp only [bits]; omega) (by simp only [bits]; omega) (by simp only [bits]; omega)]
    rw [est, ec, ex, ey, et]
  rw [encodeBytes_one (show encode (.clog st c x y t) = [wd] by rw [h1]; rfl)]
  exact decode_uni_one (by omega) (by simp only [bits]; omega) hop (by decide) hd hw

theorem RoundTrip.uld (st : BitVec 2) (d : BitVec 6) (a : BitVec 6) (t : BitVec 3) (w : BitVec 3) (q : BitVec 2) (x : BitVec 1) : RoundTrip.Statement (.uld st d a t w q x) := by
  intro _ hw
  have := st.isLt
  have := d.isLt
  have := a.isLt
  have := t.isLt
  have := w.isLt
  have := q.isLt
  have := x.isLt
  obtain ⟨wd, h1⟩ : ∃ out, out = word 0x86000000 [(st.toNat, 29), (d.toNat, 16), (a.toNat, 10), (t.toNat, 7), (w.toNat, 4), (q.toNat, 2), (x.toNat, 1)] := ⟨_, rfl⟩
  have hwd := h1
  simp only [word_cons, word_nil] at hwd
  have est : bv 2 (bits wd 30 29) = st := bv_bits _ (by simp only [bits]; omega)
  have ed : bv 6 (bits wd 21 16) = d := bv_bits _ (by simp only [bits]; omega)
  have ea : bv 6 (bits wd 15 10) = a := bv_bits _ (by simp only [bits]; omega)
  have et : bv 3 (bits wd 9 7) = t := bv_bits _ (by simp only [bits]; omega)
  have ew : bv 3 (bits wd 6 4) = w := bv_bits _ (by simp only [bits]; omega)
  have eq : bv 2 (bits wd 3 2) = q := bv_bits _ (by simp only [bits]; omega)
  have ex : bv 1 (bits wd 1 1) = x := bv_bits _ (by simp only [bits]; omega)
  have hop : bits wd 28 22 = 0x18 := by simp only [bits]; omega
  have hd : decodeUniform wd 0 = .ok (.uld st d a t w q x) := by
    have hx : decodeUniform wd 0 = (resv wd [(0, 0)] (.uld (bv 2 (bits wd 30 29)) (bv 6 (bits wd 21 16)) (bv 6 (bits wd 15 10)) (bv 3 (bits wd 9 7)) (bv 3 (bits wd 6 4)) (bv 2 (bits wd 3 2)) (bv 1 (bits wd 1 1)))) := by unfold decodeUniform; rw [hop]; rfl
    rw [hx]
    rw [resv_ok1 (by simp only [bits]; omega)]
    rw [est, ed, ea, et, ew, eq, ex]
  rw [encodeBytes_one (show encode (.uld st d a t w q x) = [wd] by rw [h1]; rfl)]
  exact decode_uni_one (by omega) (by simp only [bits]; omega) hop (by decide) hd hw

theorem RoundTrip.ust (st : BitVec 2) (d : BitVec 6) (a : BitVec 6) (t : BitVec 3) (w : BitVec 3) (q : BitVec 2) (x : BitVec 1) : RoundTrip.Statement (.ust st d a t w q x) := by
  intro _ hw
  have := st.isLt
  have := d.isLt
  have := a.isLt
  have := t.isLt
  have := w.isLt
  have := q.isLt
  have := x.isLt
  obtain ⟨wd, h1⟩ : ∃ out, out = word 0x86400000 [(st.toNat, 29), (d.toNat, 16), (a.toNat, 10), (t.toNat, 7), (w.toNat, 4), (q.toNat, 2), (x.toNat, 1)] := ⟨_, rfl⟩
  have hwd := h1
  simp only [word_cons, word_nil] at hwd
  have est : bv 2 (bits wd 30 29) = st := bv_bits _ (by simp only [bits]; omega)
  have ed : bv 6 (bits wd 21 16) = d := bv_bits _ (by simp only [bits]; omega)
  have ea : bv 6 (bits wd 15 10) = a := bv_bits _ (by simp only [bits]; omega)
  have et : bv 3 (bits wd 9 7) = t := bv_bits _ (by simp only [bits]; omega)
  have ew : bv 3 (bits wd 6 4) = w := bv_bits _ (by simp only [bits]; omega)
  have eq : bv 2 (bits wd 3 2) = q := bv_bits _ (by simp only [bits]; omega)
  have ex : bv 1 (bits wd 1 1) = x := bv_bits _ (by simp only [bits]; omega)
  have hop : bits wd 28 22 = 0x19 := by simp only [bits]; omega
  have hd : decodeUniform wd 0 = .ok (.ust st d a t w q x) := by
    have hx : decodeUniform wd 0 = (resv wd [(0, 0)] (.ust (bv 2 (bits wd 30 29)) (bv 6 (bits wd 21 16)) (bv 6 (bits wd 15 10)) (bv 3 (bits wd 9 7)) (bv 3 (bits wd 6 4)) (bv 2 (bits wd 3 2)) (bv 1 (bits wd 1 1)))) := by unfold decodeUniform; rw [hop]; rfl
    rw [hx]
    rw [resv_ok1 (by simp only [bits]; omega)]
    rw [est, ed, ea, et, ew, eq, ex]
  rw [encodeBytes_one (show encode (.ust st d a t w q x) = [wd] by rw [h1]; rfl)]
  exact decode_uni_one (by omega) (by simp only [bits]; omega) hop (by decide) hd hw

theorem RoundTrip.uatom (st : BitVec 2) (d : BitVec 6) (a : BitVec 6) (o : BitVec 4) (e : BitVec 2) (c : BitVec 2) (k : BitVec 1) (z : BitVec 1) : RoundTrip.Statement (.uatom st d a o e c k z) := by
  intro _ hw
  have := st.isLt
  have := d.isLt
  have := a.isLt
  have := o.isLt
  have := e.isLt
  have := c.isLt
  have := k.isLt
  have := z.isLt
  obtain ⟨wd, h1⟩ : ∃ out, out = word 0x86800000 [(st.toNat, 29), (d.toNat, 16), (a.toNat, 10), (o.toNat, 6), (e.toNat, 4), (c.toNat, 2), (k.toNat, 1), (z.toNat, 0)] := ⟨_, rfl⟩
  have hwd := h1
  simp only [word_cons, word_nil] at hwd
  have est : bv 2 (bits wd 30 29) = st := bv_bits _ (by simp only [bits]; omega)
  have ed : bv 6 (bits wd 21 16) = d := bv_bits _ (by simp only [bits]; omega)
  have ea : bv 6 (bits wd 15 10) = a := bv_bits _ (by simp only [bits]; omega)
  have eo : bv 4 (bits wd 9 6) = o := bv_bits _ (by simp only [bits]; omega)
  have ee : bv 2 (bits wd 5 4) = e := bv_bits _ (by simp only [bits]; omega)
  have ec : bv 2 (bits wd 3 2) = c := bv_bits _ (by simp only [bits]; omega)
  have ek : bv 1 (bits wd 1 1) = k := bv_bits _ (by simp only [bits]; omega)
  have ez : bv 1 (bits wd 0 0) = z := bv_bits _ (by simp only [bits]; omega)
  have hop : bits wd 28 22 = 0x1a := by simp only [bits]; omega
  have hd : decodeUniform wd 0 = .ok (.uatom st d a o e c k z) := by
    have hx : decodeUniform wd 0 = (.ok (.uatom (bv 2 (bits wd 30 29)) (bv 6 (bits wd 21 16)) (bv 6 (bits wd 15 10)) (bv 4 (bits wd 9 6)) (bv 2 (bits wd 5 4)) (bv 2 (bits wd 3 2)) (bv 1 (bits wd 1 1)) (bv 1 (bits wd 0 0)))) := by unfold decodeUniform; rw [hop]; rfl
    rw [hx]
    rw [est, ed, ea, eo, ee, ec, ek, ez]
  rw [encodeBytes_one (show encode (.uatom st d a o e c k z) = [wd] by rw [h1]; rfl)]
  exact decode_uni_one (by omega) (by simp only [bits]; omega) hop (by decide) hd hw

theorem RoundTrip.bra (st : BitVec 2) (f : BitVec 18) : RoundTrip.Statement (.bra st f) := by
  intro _ hw
  have := st.isLt
  have := f.isLt
  obtain ⟨wd, h1⟩ : ∃ out, out = word 0x88000000 [(st.toNat, 29), (f.toNat, 0)] := ⟨_, rfl⟩
  have hwd := h1
  simp only [word_cons, word_nil] at hwd
  have est : bv 2 (bits wd 30 29) = st := bv_bits _ (by simp only [bits]; omega)
  have ef : bv 18 (bits wd 17 0) = f := bv_bits _ (by simp only [bits]; omega)
  have hop : bits wd 28 22 = 0x20 := by simp only [bits]; omega
  have hd : decodeUniform wd 0 = .ok (.bra st f) := by
    have hx : decodeUniform wd 0 = (resv wd [(21, 18)] (.bra (bv 2 (bits wd 30 29)) (bv 18 (bits wd 17 0)))) := by unfold decodeUniform; rw [hop]; rfl
    rw [hx]
    rw [resv_ok1 (by simp only [bits]; omega)]
    rw [est, ef]
  rw [encodeBytes_one (show encode (.bra st f) = [wd] by rw [h1]; rfl)]
  exact decode_uni_one (by omega) (by simp only [bits]; omega) hop (by decide) hd hw

theorem RoundTrip.brc (st : BitVec 2) (c : BitVec 3) (n : BitVec 1) (f : BitVec 18) : RoundTrip.Statement (.brc st c n f) := by
  intro _ hw
  have := st.isLt
  have := c.isLt
  have := n.isLt
  have := f.isLt
  obtain ⟨wd, h1⟩ : ∃ out, out = word 0x88400000 [(st.toNat, 29), (c.toNat, 19), (n.toNat, 18), (f.toNat, 0)] := ⟨_, rfl⟩
  have hwd := h1
  simp only [word_cons, word_nil] at hwd
  have est : bv 2 (bits wd 30 29) = st := bv_bits _ (by simp only [bits]; omega)
  have ec : bv 3 (bits wd 21 19) = c := bv_bits _ (by simp only [bits]; omega)
  have en : bv 1 (bits wd 18 18) = n := bv_bits _ (by simp only [bits]; omega)
  have ef : bv 18 (bits wd 17 0) = f := bv_bits _ (by simp only [bits]; omega)
  have hop : bits wd 28 22 = 0x21 := by simp only [bits]; omega
  have hd : decodeUniform wd 0 = .ok (.brc st c n f) := by
    have hx : decodeUniform wd 0 = (.ok (.brc (bv 2 (bits wd 30 29)) (bv 3 (bits wd 21 19)) (bv 1 (bits wd 18 18)) (bv 18 (bits wd 17 0)))) := by unfold decodeUniform; rw [hop]; rfl
    rw [hx]
    rw [est, ec, en, ef]
  rw [encodeBytes_one (show encode (.brc st c n f) = [wd] by rw [h1]; rfl)]
  exact decode_uni_one (by omega) (by simp only [bits]; omega) hop (by decide) hd hw

theorem RoundTrip.brp (st : BitVec 2) (p : BitVec 3) (n : BitVec 1) (f : BitVec 18) : RoundTrip.Statement (.brp st p n f) := by
  intro _ hw
  have := st.isLt
  have := p.isLt
  have := n.isLt
  have := f.isLt
  obtain ⟨wd, h1⟩ : ∃ out, out = word 0x88800000 [(st.toNat, 29), (p.toNat, 19), (n.toNat, 18), (f.toNat, 0)] := ⟨_, rfl⟩
  have hwd := h1
  simp only [word_cons, word_nil] at hwd
  have est : bv 2 (bits wd 30 29) = st := bv_bits _ (by simp only [bits]; omega)
  have ep : bv 3 (bits wd 21 19) = p := bv_bits _ (by simp only [bits]; omega)
  have en : bv 1 (bits wd 18 18) = n := bv_bits _ (by simp only [bits]; omega)
  have ef : bv 18 (bits wd 17 0) = f := bv_bits _ (by simp only [bits]; omega)
  have hop : bits wd 28 22 = 0x22 := by simp only [bits]; omega
  have hd : decodeUniform wd 0 = .ok (.brp st p n f) := by
    have hx : decodeUniform wd 0 = (.ok (.brp (bv 2 (bits wd 30 29)) (bv 3 (bits wd 21 19)) (bv 1 (bits wd 18 18)) (bv 18 (bits wd 17 0)))) := by unfold decodeUniform; rw [hop]; rfl
    rw [hx]
    rw [est, ep, en, ef]
  rw [encodeBytes_one (show encode (.brp st p n f) = [wd] by rw [h1]; rfl)]
  exact decode_uni_one (by omega) (by simp only [bits]; omega) hop (by decide) hd hw

theorem RoundTrip.brx (st : BitVec 2) (a : BitVec 6) : RoundTrip.Statement (.brx st a) := by
  intro _ hw
  have := st.isLt
  have := a.isLt
  obtain ⟨wd, h1⟩ : ∃ out, out = word 0x88c00000 [(st.toNat, 29), (a.toNat, 10)] := ⟨_, rfl⟩
  have hwd := h1
  simp only [word_cons, word_nil] at hwd
  have est : bv 2 (bits wd 30 29) = st := bv_bits _ (by simp only [bits]; omega)
  have ea : bv 6 (bits wd 15 10) = a := bv_bits _ (by simp only [bits]; omega)
  have hop : bits wd 28 22 = 0x23 := by simp only [bits]; omega
  have hd : decodeUniform wd 0 = .ok (.brx st a) := by
    have hx : decodeUniform wd 0 = (resv wd [(21, 16), (9, 0)] (.brx (bv 2 (bits wd 30 29)) (bv 6 (bits wd 15 10)))) := by unfold decodeUniform; rw [hop]; rfl
    rw [hx]
    rw [resv_ok2 (by simp only [bits]; omega) (by simp only [bits]; omega)]
    rw [est, ea]
  rw [encodeBytes_one (show encode (.brx st a) = [wd] by rw [h1]; rfl)]
  exact decode_uni_one (by omega) (by simp only [bits]; omega) hop (by decide) hd hw

theorem RoundTrip.call (st : BitVec 2) (f : BitVec 18) : RoundTrip.Statement (.call st f) := by
  intro _ hw
  have := st.isLt
  have := f.isLt
  obtain ⟨wd, h1⟩ : ∃ out, out = word 0x89000000 [(st.toNat, 29), (f.toNat, 0)] := ⟨_, rfl⟩
  have hwd := h1
  simp only [word_cons, word_nil] at hwd
  have est : bv 2 (bits wd 30 29) = st := bv_bits _ (by simp only [bits]; omega)
  have ef : bv 18 (bits wd 17 0) = f := bv_bits _ (by simp only [bits]; omega)
  have hop : bits wd 28 22 = 0x24 := by simp only [bits]; omega
  have hd : decodeUniform wd 0 = .ok (.call st f) := by
    have hx : decodeUniform wd 0 = (resv wd [(21, 18)] (.call (bv 2 (bits wd 30 29)) (bv 18 (bits wd 17 0)))) := by unfold decodeUniform; rw [hop]; rfl
    rw [hx]
    rw [resv_ok1 (by simp only [bits]; omega)]
    rw [est, ef]
  rw [encodeBytes_one (show encode (.call st f) = [wd] by rw [h1]; rfl)]
  exact decode_uni_one (by omega) (by simp only [bits]; omega) hop (by decide) hd hw

theorem RoundTrip.ret (st : BitVec 2) : RoundTrip.Statement (.ret st) := by
  intro _ hw
  have := st.isLt
  obtain ⟨wd, h1⟩ : ∃ out, out = word 0x89400000 [(st.toNat, 29)] := ⟨_, rfl⟩
  have hwd := h1
  simp only [word_cons, word_nil] at hwd
  have est : bv 2 (bits wd 30 29) = st := bv_bits _ (by simp only [bits]; omega)
  have hop : bits wd 28 22 = 0x25 := by simp only [bits]; omega
  have hd : decodeUniform wd 0 = .ok (.ret st) := by
    have hx : decodeUniform wd 0 = (resv wd [(21, 0)] (.ret (bv 2 (bits wd 30 29)))) := by unfold decodeUniform; rw [hop]; rfl
    rw [hx]
    rw [resv_ok1 (by simp only [bits]; omega)]
    rw [est]
  rw [encodeBytes_one (show encode (.ret st) = [wd] by rw [h1]; rfl)]
  exact decode_uni_one (by omega) (by simp only [bits]; omega) hop (by decide) hd hw

theorem RoundTrip.exit (st : BitVec 2) : RoundTrip.Statement (.exit st) := by
  intro _ hw
  have := st.isLt
  obtain ⟨wd, h1⟩ : ∃ out, out = word 0x89800000 [(st.toNat, 29)] := ⟨_, rfl⟩
  have hwd := h1
  simp only [word_cons, word_nil] at hwd
  have est : bv 2 (bits wd 30 29) = st := bv_bits _ (by simp only [bits]; omega)
  have hop : bits wd 28 22 = 0x26 := by simp only [bits]; omega
  have hd : decodeUniform wd 0 = .ok (.exit st) := by
    have hx : decodeUniform wd 0 = (resv wd [(21, 0)] (.exit (bv 2 (bits wd 30 29)))) := by unfold decodeUniform; rw [hop]; rfl
    rw [hx]
    rw [resv_ok1 (by simp only [bits]; omega)]
    rw [est]
  rw [encodeBytes_one (show encode (.exit st) = [wd] by rw [h1]; rfl)]
  exact decode_uni_one (by omega) (by simp only [bits]; omega) hop (by decide) hd hw

theorem RoundTrip.yield (st : BitVec 2) : RoundTrip.Statement (.yield st) := by
  intro _ hw
  have := st.isLt
  obtain ⟨wd, h1⟩ : ∃ out, out = word 0x89c00000 [(st.toNat, 29)] := ⟨_, rfl⟩
  have hwd := h1
  simp only [word_cons, word_nil] at hwd
  have est : bv 2 (bits wd 30 29) = st := bv_bits _ (by simp only [bits]; omega)
  have hop : bits wd 28 22 = 0x27 := by simp only [bits]; omega
  have hd : decodeUniform wd 0 = .ok (.yield st) := by
    have hx : decodeUniform wd 0 = (resv wd [(21, 0)] (.yield (bv 2 (bits wd 30 29)))) := by unfold decodeUniform; rw [hop]; rfl
    rw [hx]
    rw [resv_ok1 (by simp only [bits]; omega)]
    rw [est]
  rw [encodeBytes_one (show encode (.yield st) = [wd] by rw [h1]; rfl)]
  exact decode_uni_one (by omega) (by simp only [bits]; omega) hop (by decide) hd hw

theorem RoundTrip.nop (st : BitVec 2) : RoundTrip.Statement (.nop st) := by
  intro _ hw
  have := st.isLt
  obtain ⟨wd, h1⟩ : ∃ out, out = word 0x8a000000 [(st.toNat, 29)] := ⟨_, rfl⟩
  have hwd := h1
  simp only [word_cons, word_nil] at hwd
  have est : bv 2 (bits wd 30 29) = st := bv_bits _ (by simp only [bits]; omega)
  have hop : bits wd 28 22 = 0x28 := by simp only [bits]; omega
  have hd : decodeUniform wd 0 = .ok (.nop st) := by
    have hx : decodeUniform wd 0 = (resv wd [(21, 0)] (.nop (bv 2 (bits wd 30 29)))) := by unfold decodeUniform; rw [hop]; rfl
    rw [hx]
    rw [resv_ok1 (by simp only [bits]; omega)]
    rw [est]
  rw [encodeBytes_one (show encode (.nop st) = [wd] by rw [h1]; rfl)]
  exact decode_uni_one (by omega) (by simp only [bits]; omega) hop (by decide) hd hw

theorem RoundTrip.wait (st : BitVec 2) (k : BitVec 10) : RoundTrip.Statement (.wait st k) := by
  intro _ hw
  have := st.isLt
  have := k.isLt
  obtain ⟨wd, h1⟩ : ∃ out, out = word 0x8a400000 [(st.toNat, 29), (k.toNat, 0)] := ⟨_, rfl⟩
  have hwd := h1
  simp only [word_cons, word_nil] at hwd
  have est : bv 2 (bits wd 30 29) = st := bv_bits _ (by simp only [bits]; omega)
  have ek : bv 10 (bits wd 9 0) = k := bv_bits _ (by simp only [bits]; omega)
  have hop : bits wd 28 22 = 0x29 := by simp only [bits]; omega
  have hd : decodeUniform wd 0 = .ok (.wait st k) := by
    have hx : decodeUniform wd 0 = (resv wd [(21, 10)] (.wait (bv 2 (bits wd 30 29)) (bv 10 (bits wd 9 0)))) := by unfold decodeUniform; rw [hop]; rfl
    rw [hx]
    rw [resv_ok1 (by simp only [bits]; omega)]
    rw [est, ek]
  rw [encodeBytes_one (show encode (.wait st k) = [wd] by rw [h1]; rfl)]
  exact decode_uni_one (by omega) (by simp only [bits]; omega) hop (by decide) hd hw

theorem RoundTrip.sleep (st : BitVec 2) (n : BitVec 10) : RoundTrip.Statement (.sleep st n) := by
  intro _ hw
  have := st.isLt
  have := n.isLt
  obtain ⟨wd, h1⟩ : ∃ out, out = word 0x8a800000 [(st.toNat, 29), (n.toNat, 0)] := ⟨_, rfl⟩
  have hwd := h1
  simp only [word_cons, word_nil] at hwd
  have est : bv 2 (bits wd 30 29) = st := bv_bits _ (by simp only [bits]; omega)
  have en : bv 10 (bits wd 9 0) = n := bv_bits _ (by simp only [bits]; omega)
  have hop : bits wd 28 22 = 0x2a := by simp only [bits]; omega
  have hd : decodeUniform wd 0 = .ok (.sleep st n) := by
    have hx : decodeUniform wd 0 = (resv wd [(21, 10)] (.sleep (bv 2 (bits wd 30 29)) (bv 10 (bits wd 9 0)))) := by unfold decodeUniform; rw [hop]; rfl
    rw [hx]
    rw [resv_ok1 (by simp only [bits]; omega)]
    rw [est, en]
  rw [encodeBytes_one (show encode (.sleep st n) = [wd] by rw [h1]; rfl)]
  exact decode_uni_one (by omega) (by simp only [bits]; omega) hop (by decide) hd hw

theorem RoundTrip.bpt (st : BitVec 2) (k : BitVec 10) : RoundTrip.Statement (.bpt st k) := by
  intro _ hw
  have := st.isLt
  have := k.isLt
  obtain ⟨wd, h1⟩ : ∃ out, out = word 0x8ac00000 [(st.toNat, 29), (k.toNat, 0)] := ⟨_, rfl⟩
  have hwd := h1
  simp only [word_cons, word_nil] at hwd
  have est : bv 2 (bits wd 30 29) = st := bv_bits _ (by simp only [bits]; omega)
  have ek : bv 10 (bits wd 9 0) = k := bv_bits _ (by simp only [bits]; omega)
  have hop : bits wd 28 22 = 0x2b := by simp only [bits]; omega
  have hd : decodeUniform wd 0 = .ok (.bpt st k) := by
    have hx : decodeUniform wd 0 = (resv wd [(21, 10)] (.bpt (bv 2 (bits wd 30 29)) (bv 10 (bits wd 9 0)))) := by unfold decodeUniform; rw [hop]; rfl
    rw [hx]
    rw [resv_ok1 (by simp only [bits]; omega)]
    rw [est, ek]
  rw [encodeBytes_one (show encode (.bpt st k) = [wd] by rw [h1]; rfl)]
  exact decode_uni_one (by omega) (by simp only [bits]; omega) hop (by decide) hd hw

theorem RoundTrip.trap (st : BitVec 2) (k : BitVec 10) : RoundTrip.Statement (.trap st k) := by
  intro _ hw
  have := st.isLt
  have := k.isLt
  obtain ⟨wd, h1⟩ : ∃ out, out = word 0x8b000000 [(st.toNat, 29), (k.toNat, 0)] := ⟨_, rfl⟩
  have hwd := h1
  simp only [word_cons, word_nil] at hwd
  have est : bv 2 (bits wd 30 29) = st := bv_bits _ (by simp only [bits]; omega)
  have ek : bv 10 (bits wd 9 0) = k := bv_bits _ (by simp only [bits]; omega)
  have hop : bits wd 28 22 = 0x2c := by simp only [bits]; omega
  have hd : decodeUniform wd 0 = .ok (.trap st k) := by
    have hx : decodeUniform wd 0 = (resv wd [(21, 10)] (.trap (bv 2 (bits wd 30 29)) (bv 10 (bits wd 9 0)))) := by unfold decodeUniform; rw [hop]; rfl
    rw [hx]
    rw [resv_ok1 (by simp only [bits]; omega)]
    rw [est, ek]
  rw [encodeBytes_one (show encode (.trap st k) = [wd] by rw [h1]; rfl)]
  exact decode_uni_one (by omega) (by simp only [bits]; omega) hop (by decide) hd hw

theorem RoundTrip.tret (st : BitVec 2) : RoundTrip.Statement (.tret st) := by
  intro _ hw
  have := st.isLt
  obtain ⟨wd, h1⟩ : ∃ out, out = word 0x8b400000 [(st.toNat, 29)] := ⟨_, rfl⟩
  have hwd := h1
  simp only [word_cons, word_nil] at hwd
  have est : bv 2 (bits wd 30 29) = st := bv_bits _ (by simp only [bits]; omega)
  have hop : bits wd 28 22 = 0x2d := by simp only [bits]; omega
  have hd : decodeUniform wd 0 = .ok (.tret st) := by
    have hx : decodeUniform wd 0 = (resv wd [(21, 0)] (.tret (bv 2 (bits wd 30 29)))) := by unfold decodeUniform; rw [hop]; rfl
    rw [hx]
    rw [resv_ok1 (by simp only [bits]; omega)]
    rw [est]
  rw [encodeBytes_one (show encode (.tret st) = [wd] by rw [h1]; rfl)]
  exact decode_uni_one (by omega) (by simp only [bits]; omega) hop (by decide) hd hw

theorem RoundTrip.tfence (st : BitVec 2) : RoundTrip.Statement (.tfence st) := by
  intro _ hw
  have := st.isLt
  obtain ⟨wd, h1⟩ : ∃ out, out = word 0x8b800000 [(st.toNat, 29)] := ⟨_, rfl⟩
  have hwd := h1
  simp only [word_cons, word_nil] at hwd
  have est : bv 2 (bits wd 30 29) = st := bv_bits _ (by simp only [bits]; omega)
  have hop : bits wd 28 22 = 0x2e := by simp only [bits]; omega
  have hd : decodeUniform wd 0 = .ok (.tfence st) := by
    have hx : decodeUniform wd 0 = (resv wd [(21, 0)] (.tfence (bv 2 (bits wd 30 29)))) := by unfold decodeUniform; rw [hop]; rfl
    rw [hx]
    rw [resv_ok1 (by simp only [bits]; omega)]
    rw [est]
  rw [encodeBytes_one (show encode (.tfence st) = [wd] by rw [h1]; rfl)]
  exact decode_uni_one (by omega) (by simp only [bits]; omega) hop (by decide) hd hw

theorem RoundTrip.mfence (st : BitVec 2) (k : BitVec 2) (c : BitVec 3) : RoundTrip.Statement (.mfence st k c) := by
  intro _ hw
  have := st.isLt
  have := k.isLt
  have := c.isLt
  obtain ⟨wd, h1⟩ : ∃ out, out = word 0x8bc00000 [(st.toNat, 29), (k.toNat, 8), (c.toNat, 0)] := ⟨_, rfl⟩
  have hwd := h1
  simp only [word_cons, word_nil] at hwd
  have est : bv 2 (bits wd 30 29) = st := bv_bits _ (by simp only [bits]; omega)
  have ek : bv 2 (bits wd 9 8) = k := bv_bits _ (by simp only [bits]; omega)
  have ec : bv 3 (bits wd 2 0) = c := bv_bits _ (by simp only [bits]; omega)
  have hop : bits wd 28 22 = 0x2f := by simp only [bits]; omega
  have hd : decodeUniform wd 0 = .ok (.mfence st k c) := by
    have hx : decodeUniform wd 0 = (resv wd [(21, 10), (7, 3)] (.mfence (bv 2 (bits wd 30 29)) (bv 2 (bits wd 9 8)) (bv 3 (bits wd 2 0)))) := by unfold decodeUniform; rw [hop]; rfl
    rw [hx]
    rw [resv_ok2 (by simp only [bits]; omega) (by simp only [bits]; omega)]
    rw [est, ek, ec]
  rw [encodeBytes_one (show encode (.mfence st k c) = [wd] by rw [h1]; rfl)]
  exact decode_uni_one (by omega) (by simp only [bits]; omega) hop (by decide) hd hw

theorem RoundTrip.rgrow (st : BitVec 2) (n : BitVec 10) : RoundTrip.Statement (.rgrow st n) := by
  intro _ hw
  have := st.isLt
  have := n.isLt
  obtain ⟨wd, h1⟩ : ∃ out, out = word 0x8c000000 [(st.toNat, 29), (n.toNat, 0)] := ⟨_, rfl⟩
  have hwd := h1
  simp only [word_cons, word_nil] at hwd
  have est : bv 2 (bits wd 30 29) = st := bv_bits _ (by simp only [bits]; omega)
  have en : bv 10 (bits wd 9 0) = n := bv_bits _ (by simp only [bits]; omega)
  have hop : bits wd 28 22 = 0x30 := by simp only [bits]; omega
  have hd : decodeUniform wd 0 = .ok (.rgrow st n) := by
    have hx : decodeUniform wd 0 = (resv wd [(21, 10)] (.rgrow (bv 2 (bits wd 30 29)) (bv 10 (bits wd 9 0)))) := by unfold decodeUniform; rw [hop]; rfl
    rw [hx]
    rw [resv_ok1 (by simp only [bits]; omega)]
    rw [est, en]
  rw [encodeBytes_one (show encode (.rgrow st n) = [wd] by rw [h1]; rfl)]
  exact decode_uni_one (by omega) (by simp only [bits]; omega) hop (by decide) hd hw

theorem RoundTrip.rshrink (st : BitVec 2) (n : BitVec 10) : RoundTrip.Statement (.rshrink st n) := by
  intro _ hw
  have := st.isLt
  have := n.isLt
  obtain ⟨wd, h1⟩ : ∃ out, out = word 0x8c400000 [(st.toNat, 29), (n.toNat, 0)] := ⟨_, rfl⟩
  have hwd := h1
  simp only [word_cons, word_nil] at hwd
  have est : bv 2 (bits wd 30 29) = st := bv_bits _ (by simp only [bits]; omega)
  have en : bv 10 (bits wd 9 0) = n := bv_bits _ (by simp only [bits]; omega)
  have hop : bits wd 28 22 = 0x31 := by simp only [bits]; omega
  have hd : decodeUniform wd 0 = .ok (.rshrink st n) := by
    have hx : decodeUniform wd 0 = (resv wd [(21, 10)] (.rshrink (bv 2 (bits wd 30 29)) (bv 10 (bits wd 9 0)))) := by unfold decodeUniform; rw [hop]; rfl
    rw [hx]
    rw [resv_ok1 (by simp only [bits]; omega)]
    rw [est, en]
  rw [encodeBytes_one (show encode (.rshrink st n) = [wd] by rw [h1]; rfl)]
  exact decode_uni_one (by omega) (by simp only [bits]; omega) hop (by decide) hd hw

theorem RoundTrip.trld (st : BitVec 2) (t : BitVec 3) (a : BitVec 6) (b : BitVec 6) : RoundTrip.Statement (.trld st t a b) := by
  intro _ hw
  have := st.isLt
  have := t.isLt
  have := a.isLt
  have := b.isLt
  obtain ⟨wd, h1⟩ : ∃ out, out = word 0x8d000000 [(st.toNat, 29), (t.toNat, 19), (a.toNat, 13), (b.toNat, 7)] := ⟨_, rfl⟩
  have hwd := h1
  simp only [word_cons, word_nil] at hwd
  have est : bv 2 (bits wd 30 29) = st := bv_bits _ (by simp only [bits]; omega)
  have et : bv 3 (bits wd 21 19) = t := bv_bits _ (by simp only [bits]; omega)
  have ea : bv 6 (bits wd 18 13) = a := bv_bits _ (by simp only [bits]; omega)
  have eb : bv 6 (bits wd 12 7) = b := bv_bits _ (by simp only [bits]; omega)
  have hop : bits wd 28 22 = 0x34 := by simp only [bits]; omega
  have hd : decodeUniform wd 0 = .ok (.trld st t a b) := by
    have hx : decodeUniform wd 0 = (resv wd [(6, 0)] (.trld (bv 2 (bits wd 30 29)) (bv 3 (bits wd 21 19)) (bv 6 (bits wd 18 13)) (bv 6 (bits wd 12 7)))) := by unfold decodeUniform; rw [hop]; rfl
    rw [hx]
    rw [resv_ok1 (by simp only [bits]; omega)]
    rw [est, et, ea, eb]
  rw [encodeBytes_one (show encode (.trld st t a b) = [wd] by rw [h1]; rfl)]
  exact decode_uni_one (by omega) (by simp only [bits]; omega) hop (by decide) hd hw

theorem RoundTrip.trinv (st : BitVec 2) (a : BitVec 6) (b : BitVec 6) (p : BitVec 1) : RoundTrip.Statement (.trinv st a b p) := by
  intro _ hw
  have := st.isLt
  have := a.isLt
  have := b.isLt
  have := p.isLt
  obtain ⟨wd, h1⟩ : ∃ out, out = word 0x8d400000 [(st.toNat, 29), (a.toNat, 13), (b.toNat, 7), (p.toNat, 6)] := ⟨_, rfl⟩
  have hwd := h1
  simp only [word_cons, word_nil] at hwd
  have est : bv 2 (bits wd 30 29) = st := bv_bits _ (by simp only [bits]; omega)
  have ea : bv 6 (bits wd 18 13) = a := bv_bits _ (by simp only [bits]; omega)
  have eb : bv 6 (bits wd 12 7) = b := bv_bits _ (by simp only [bits]; omega)
  have ep : bv 1 (bits wd 6 6) = p := bv_bits _ (by simp only [bits]; omega)
  have hop : bits wd 28 22 = 0x35 := by simp only [bits]; omega
  have hd : decodeUniform wd 0 = .ok (.trinv st a b p) := by
    have hx : decodeUniform wd 0 = (resv wd [(21, 19), (5, 0)] (.trinv (bv 2 (bits wd 30 29)) (bv 6 (bits wd 18 13)) (bv 6 (bits wd 12 7)) (bv 1 (bits wd 6 6)))) := by unfold decodeUniform; rw [hop]; rfl
    rw [hx]
    rw [resv_ok2 (by simp only [bits]; omega) (by simp only [bits]; omega)]
    rw [est, ea, eb, ep]
  rw [encodeBytes_one (show encode (.trinv st a b p) = [wd] by rw [h1]; rfl)]
  exact decode_uni_one (by omega) (by simp only [bits]; omega) hop (by decide) hd hw

theorem RoundTrip.rdsr (st : BitVec 2) (d : BitVec 6) (n : BitVec 6) : RoundTrip.Statement (.rdsr st d n) := by
  intro _ hw
  have := st.isLt
  have := d.isLt
  have := n.isLt
  obtain ⟨wd, h1⟩ : ∃ out, out = word 0x8d800000 [(st.toNat, 29), (d.toNat, 16), (n.toNat, 10)] := ⟨_, rfl⟩
  have hwd := h1
  simp only [word_cons, word_nil] at hwd
  have est : bv 2 (bits wd 30 29) = st := bv_bits _ (by simp only [bits]; omega)
  have ed : bv 6 (bits wd 21 16) = d := bv_bits _ (by simp only [bits]; omega)
  have en : bv 6 (bits wd 15 10) = n := bv_bits _ (by simp only [bits]; omega)
  have hop : bits wd 28 22 = 0x36 := by simp only [bits]; omega
  have hd : decodeUniform wd 0 = .ok (.rdsr st d n) := by
    have hx : decodeUniform wd 0 = (resv wd [(9, 0)] (.rdsr (bv 2 (bits wd 30 29)) (bv 6 (bits wd 21 16)) (bv 6 (bits wd 15 10)))) := by unfold decodeUniform; rw [hop]; rfl
    rw [hx]
    rw [resv_ok1 (by simp only [bits]; omega)]
    rw [est, ed, en]
  rw [encodeBytes_one (show encode (.rdsr st d n) = [wd] by rw [h1]; rfl)]
  exact decode_uni_one (by omega) (by simp only [bits]; omega) hop (by decide) hd hw

theorem RoundTrip.wrsr (st : BitVec 2) (n : BitVec 6) (a : BitVec 6) : RoundTrip.Statement (.wrsr st n a) := by
  intro _ hw
  have := st.isLt
  have := n.isLt
  have := a.isLt
  obtain ⟨wd, h1⟩ : ∃ out, out = word 0x8dc00000 [(st.toNat, 29), (n.toNat, 16), (a.toNat, 10)] := ⟨_, rfl⟩
  have hwd := h1
  simp only [word_cons, word_nil] at hwd
  have est : bv 2 (bits wd 30 29) = st := bv_bits _ (by simp only [bits]; omega)
  have en : bv 6 (bits wd 21 16) = n := bv_bits _ (by simp only [bits]; omega)
  have ea : bv 6 (bits wd 15 10) = a := bv_bits _ (by simp only [bits]; omega)
  have hop : bits wd 28 22 = 0x37 := by simp only [bits]; omega
  have hd : decodeUniform wd 0 = .ok (.wrsr st n a) := by
    have hx : decodeUniform wd 0 = (resv wd [(9, 0)] (.wrsr (bv 2 (bits wd 30 29)) (bv 6 (bits wd 21 16)) (bv 6 (bits wd 15 10)))) := by unfold decodeUniform; rw [hop]; rfl
    rw [hx]
    rw [resv_ok1 (by simp only [bits]; omega)]
    rw [est, en, ea]
  rw [encodeBytes_one (show encode (.wrsr st n a) = [wd] by rw [h1]; rfl)]
  exact decode_uni_one (by omega) (by simp only [bits]; omega) hop (by decide) hd hw

theorem RoundTrip.flgs (st : BitVec 2) (d : BitVec 6) (m : BitVec 5) : RoundTrip.Statement (.flgs st d m) := by
  intro _ hw
  have := st.isLt
  have := d.isLt
  have := m.isLt
  obtain ⟨wd, h1⟩ : ∃ out, out = word 0x8e000000 [(st.toNat, 29), (d.toNat, 16), (m.toNat, 8)] := ⟨_, rfl⟩
  have hwd := h1
  simp only [word_cons, word_nil] at hwd
  have est : bv 2 (bits wd 30 29) = st := bv_bits _ (by simp only [bits]; omega)
  have ed : bv 6 (bits wd 21 16) = d := bv_bits _ (by simp only [bits]; omega)
  have em : bv 5 (bits wd 12 8) = m := bv_bits _ (by simp only [bits]; omega)
  have hop : bits wd 28 22 = 0x38 := by simp only [bits]; omega
  have hd : decodeUniform wd 0 = .ok (.flgs st d m) := by
    have hx : decodeUniform wd 0 = (if bits wd 1 0 = 0 then resv wd [(15, 13), (7, 2)] (.flgs (bv 2 (bits wd 30 29)) (bv 6 (bits wd 21 16)) (bv 5 (bits wd 12 8))) else if bits wd 1 0 = 1 then resv wd [(15, 13), (7, 2)] (.flgsClr (bv 2 (bits wd 30 29)) (bv 6 (bits wd 21 16)) (bv 5 (bits wd 12 8))) else if bits wd 1 0 = 2 then resv wd [(15, 13), (7, 2)] (.flgsSet (bv 2 (bits wd 30 29)) (bv 6 (bits wd 21 16)) (bv 5 (bits wd 12 8))) else .error .code) := by unfold decodeUniform; rw [hop]; rfl
    rw [hx]
    rw [if_pos (by simp only [bits]; omega)]
    rw [resv_ok2 (by simp only [bits]; omega) (by simp only [bits]; omega)]
    rw [est, ed, em]
  rw [encodeBytes_one (show encode (.flgs st d m) = [wd] by rw [h1]; rfl)]
  exact decode_uni_one (by omega) (by simp only [bits]; omega) hop (by decide) hd hw

theorem RoundTrip.flgsClr (st : BitVec 2) (d : BitVec 6) (m : BitVec 5) : RoundTrip.Statement (.flgsClr st d m) := by
  intro _ hw
  have := st.isLt
  have := d.isLt
  have := m.isLt
  obtain ⟨wd, h1⟩ : ∃ out, out = word 0x8e000001 [(st.toNat, 29), (d.toNat, 16), (m.toNat, 8)] := ⟨_, rfl⟩
  have hwd := h1
  simp only [word_cons, word_nil] at hwd
  have est : bv 2 (bits wd 30 29) = st := bv_bits _ (by simp only [bits]; omega)
  have ed : bv 6 (bits wd 21 16) = d := bv_bits _ (by simp only [bits]; omega)
  have em : bv 5 (bits wd 12 8) = m := bv_bits _ (by simp only [bits]; omega)
  have hop : bits wd 28 22 = 0x38 := by simp only [bits]; omega
  have hd : decodeUniform wd 0 = .ok (.flgsClr st d m) := by
    have hx : decodeUniform wd 0 = (if bits wd 1 0 = 0 then resv wd [(15, 13), (7, 2)] (.flgs (bv 2 (bits wd 30 29)) (bv 6 (bits wd 21 16)) (bv 5 (bits wd 12 8))) else if bits wd 1 0 = 1 then resv wd [(15, 13), (7, 2)] (.flgsClr (bv 2 (bits wd 30 29)) (bv 6 (bits wd 21 16)) (bv 5 (bits wd 12 8))) else if bits wd 1 0 = 2 then resv wd [(15, 13), (7, 2)] (.flgsSet (bv 2 (bits wd 30 29)) (bv 6 (bits wd 21 16)) (bv 5 (bits wd 12 8))) else .error .code) := by unfold decodeUniform; rw [hop]; rfl
    rw [hx]
    rw [if_neg (by simp only [bits]; omega)]
    rw [if_pos (by simp only [bits]; omega)]
    rw [resv_ok2 (by simp only [bits]; omega) (by simp only [bits]; omega)]
    rw [est, ed, em]
  rw [encodeBytes_one (show encode (.flgsClr st d m) = [wd] by rw [h1]; rfl)]
  exact decode_uni_one (by omega) (by simp only [bits]; omega) hop (by decide) hd hw

theorem RoundTrip.flgsSet (st : BitVec 2) (d : BitVec 6) (m : BitVec 5) : RoundTrip.Statement (.flgsSet st d m) := by
  intro _ hw
  have := st.isLt
  have := d.isLt
  have := m.isLt
  obtain ⟨wd, h1⟩ : ∃ out, out = word 0x8e000002 [(st.toNat, 29), (d.toNat, 16), (m.toNat, 8)] := ⟨_, rfl⟩
  have hwd := h1
  simp only [word_cons, word_nil] at hwd
  have est : bv 2 (bits wd 30 29) = st := bv_bits _ (by simp only [bits]; omega)
  have ed : bv 6 (bits wd 21 16) = d := bv_bits _ (by simp only [bits]; omega)
  have em : bv 5 (bits wd 12 8) = m := bv_bits _ (by simp only [bits]; omega)
  have hop : bits wd 28 22 = 0x38 := by simp only [bits]; omega
  have hd : decodeUniform wd 0 = .ok (.flgsSet st d m) := by
    have hx : decodeUniform wd 0 = (if bits wd 1 0 = 0 then resv wd [(15, 13), (7, 2)] (.flgs (bv 2 (bits wd 30 29)) (bv 6 (bits wd 21 16)) (bv 5 (bits wd 12 8))) else if bits wd 1 0 = 1 then resv wd [(15, 13), (7, 2)] (.flgsClr (bv 2 (bits wd 30 29)) (bv 6 (bits wd 21 16)) (bv 5 (bits wd 12 8))) else if bits wd 1 0 = 2 then resv wd [(15, 13), (7, 2)] (.flgsSet (bv 2 (bits wd 30 29)) (bv 6 (bits wd 21 16)) (bv 5 (bits wd 12 8))) else .error .code) := by unfold decodeUniform; rw [hop]; rfl
    rw [hx]
    rw [if_neg (by simp only [bits]; omega)]
    rw [if_neg (by simp only [bits]; omega)]
    rw [if_pos (by simp only [bits]; omega)]
    rw [resv_ok2 (by simp only [bits]; omega) (by simp only [bits]; omega)]
    rw [est, ed, em]
  rw [encodeBytes_one (show encode (.flgsSet st d m) = [wd] by rw [h1]; rfl)]
  exact decode_uni_one (by omega) (by simp only [bits]; omega) hop (by decide) hd hw

theorem RoundTrip.binit (st : BitVec 2) (n : BitVec 6) (t : BitVec 1) (k : BitVec 15) : RoundTrip.Statement (.binit st n t k) := by
  intro _ hw
  have := st.isLt
  have := n.isLt
  have := t.isLt
  have := k.isLt
  obtain ⟨wd, h1⟩ : ∃ out, out = word 0x90000000 [(st.toNat, 29), (n.toNat, 16), (t.toNat, 15), (k.toNat, 0)] := ⟨_, rfl⟩
  have hwd := h1
  simp only [word_cons, word_nil] at hwd
  have est : bv 2 (bits wd 30 29) = st := bv_bits _ (by simp only [bits]; omega)
  have en : bv 6 (bits wd 21 16) = n := bv_bits _ (by simp only [bits]; omega)
  have et : bv 1 (bits wd 15 15) = t := bv_bits _ (by simp only [bits]; omega)
  have ek : bv 15 (bits wd 14 0) = k := bv_bits _ (by simp only [bits]; omega)
  have hop : bits wd 28 22 = 0x40 := by simp only [bits]; omega
  have hd : decodeUniform wd 0 = .ok (.binit st n t k) := by
    have hx : decodeUniform wd 0 = (.ok (.binit (bv 2 (bits wd 30 29)) (bv 6 (bits wd 21 16)) (bv 1 (bits wd 15 15)) (bv 15 (bits wd 14 0)))) := by unfold decodeUniform; rw [hop]; rfl
    rw [hx]
    rw [est, en, et, ek]
  rw [encodeBytes_one (show encode (.binit st n t k) = [wd] by rw [h1]; rfl)]
  exact decode_uni_one (by omega) (by simp only [bits]; omega) hop (by decide) hd hw

theorem RoundTrip.barv (st : BitVec 2) (n : BitVec 6) (t : BitVec 1) (d : BitVec 6) (k : BitVec 9) : RoundTrip.Statement (.barv st n t d k) := by
  intro _ hw
  have := st.isLt
  have := n.isLt
  have := t.isLt
  have := d.isLt
  have := k.isLt
  obtain ⟨wd, h1⟩ : ∃ out, out = word 0x90400000 [(st.toNat, 29), (n.toNat, 16), (t.toNat, 15), (d.toNat, 9), (k.toNat, 0)] := ⟨_, rfl⟩
  have hwd := h1
  simp only [word_cons, word_nil] at hwd
  have est : bv 2 (bits wd 30 29) = st := bv_bits _ (by simp only [bits]; omega)
  have en : bv 6 (bits wd 21 16) = n := bv_bits _ (by simp only [bits]; omega)
  have et : bv 1 (bits wd 15 15) = t := bv_bits _ (by simp only [bits]; omega)
  have ed : bv 6 (bits wd 14 9) = d := bv_bits _ (by simp only [bits]; omega)
  have ek : bv 9 (bits wd 8 0) = k := bv_bits _ (by simp only [bits]; omega)
  have hop : bits wd 28 22 = 0x41 := by simp only [bits]; omega
  have hd : decodeUniform wd 0 = .ok (.barv st n t d k) := by
    have hx : decodeUniform wd 0 = (.ok (.barv (bv 2 (bits wd 30 29)) (bv 6 (bits wd 21 16)) (bv 1 (bits wd 15 15)) (bv 6 (bits wd 14 9)) (bv 9 (bits wd 8 0)))) := by unfold decodeUniform; rw [hop]; rfl
    rw [hx]
    rw [est, en, et, ed, ek]
  rw [encodeBytes_one (show encode (.barv st n t d k) = [wd] by rw [h1]; rfl)]
  exact decode_uni_one (by omega) (by simp only [bits]; omega) hop (by decide) hd hw

theorem RoundTrip.bexp (st : BitVec 2) (n : BitVec 6) (t : BitVec 1) (a : BitVec 6) : RoundTrip.Statement (.bexp st n t a) := by
  intro _ hw
  have := st.isLt
  have := n.isLt
  have := t.isLt
  have := a.isLt
  obtain ⟨wd, h1⟩ : ∃ out, out = word 0x90800000 [(st.toNat, 29), (n.toNat, 16), (t.toNat, 15), (a.toNat, 8)] := ⟨_, rfl⟩
  have hwd := h1
  simp only [word_cons, word_nil] at hwd
  have est : bv 2 (bits wd 30 29) = st := bv_bits _ (by simp only [bits]; omega)
  have en : bv 6 (bits wd 21 16) = n := bv_bits _ (by simp only [bits]; omega)
  have et : bv 1 (bits wd 15 15) = t := bv_bits _ (by simp only [bits]; omega)
  have ea : bv 6 (bits wd 13 8) = a := bv_bits _ (by simp only [bits]; omega)
  have hop : bits wd 28 22 = 0x42 := by simp only [bits]; omega
  have hd : decodeUniform wd 0 = .ok (.bexp st n t a) := by
    have hx : decodeUniform wd 0 = (if bits wd 14 14 = 0 then resv wd [(7, 0)] (.bexp (bv 2 (bits wd 30 29)) (bv 6 (bits wd 21 16)) (bv 1 (bits wd 15 15)) (bv 6 (bits wd 13 8))) else .ok (.bexpImm (bv 2 (bits wd 30 29)) (bv 6 (bits wd 21 16)) (bv 1 (bits wd 15 15)) (bv 14 (bits wd 13 0)))) := by unfold decodeUniform; rw [hop]; rfl
    rw [hx]
    rw [if_pos (by simp only [bits]; omega)]
    rw [resv_ok1 (by simp only [bits]; omega)]
    rw [est, en, et, ea]
  rw [encodeBytes_one (show encode (.bexp st n t a) = [wd] by rw [h1]; rfl)]
  exact decode_uni_one (by omega) (by simp only [bits]; omega) hop (by decide) hd hw

theorem RoundTrip.bexpImm (st : BitVec 2) (n : BitVec 6) (t : BitVec 1) (i : BitVec 14) : RoundTrip.Statement (.bexpImm st n t i) := by
  intro _ hw
  have := st.isLt
  have := n.isLt
  have := t.isLt
  have := i.isLt
  obtain ⟨wd, h1⟩ : ∃ out, out = word 0x90804000 [(st.toNat, 29), (n.toNat, 16), (t.toNat, 15), (i.toNat, 0)] := ⟨_, rfl⟩
  have hwd := h1
  simp only [word_cons, word_nil] at hwd
  have est : bv 2 (bits wd 30 29) = st := bv_bits _ (by simp only [bits]; omega)
  have en : bv 6 (bits wd 21 16) = n := bv_bits _ (by simp only [bits]; omega)
  have et : bv 1 (bits wd 15 15) = t := bv_bits _ (by simp only [bits]; omega)
  have ei : bv 14 (bits wd 13 0) = i := bv_bits _ (by simp only [bits]; omega)
  have hop : bits wd 28 22 = 0x42 := by simp only [bits]; omega
  have hd : decodeUniform wd 0 = .ok (.bexpImm st n t i) := by
    have hx : decodeUniform wd 0 = (if bits wd 14 14 = 0 then resv wd [(7, 0)] (.bexp (bv 2 (bits wd 30 29)) (bv 6 (bits wd 21 16)) (bv 1 (bits wd 15 15)) (bv 6 (bits wd 13 8))) else .ok (.bexpImm (bv 2 (bits wd 30 29)) (bv 6 (bits wd 21 16)) (bv 1 (bits wd 15 15)) (bv 14 (bits wd 13 0)))) := by unfold decodeUniform; rw [hop]; rfl
    rw [hx]
    rw [if_neg (by simp only [bits]; omega)]
    rw [est, en, et, ei]
  rw [encodeBytes_one (show encode (.bexpImm st n t i) = [wd] by rw [h1]; rfl)]
  exact decode_uni_one (by omega) (by simp only [bits]; omega) hop (by decide) hd hw

theorem RoundTrip.bwait (st : BitVec 2) (n : BitVec 6) (t : BitVec 1) (a : BitVec 6) (f : BitVec 9) : RoundTrip.Statement (.bwait st n t a f) := by
  intro _ hw
  have := st.isLt
  have := n.isLt
  have := t.isLt
  have := a.isLt
  have := f.isLt
  obtain ⟨wd, h1⟩ : ∃ out, out = word 0x90c00000 [(st.toNat, 29), (n.toNat, 16), (t.toNat, 15), (a.toNat, 9), (f.toNat, 0)] := ⟨_, rfl⟩
  have hwd := h1
  simp only [word_cons, word_nil] at hwd
  have est : bv 2 (bits wd 30 29) = st := bv_bits _ (by simp only [bits]; omega)
  have en : bv 6 (bits wd 21 16) = n := bv_bits _ (by simp only [bits]; omega)
  have et : bv 1 (bits wd 15 15) = t := bv_bits _ (by simp only [bits]; omega)
  have ea : bv 6 (bits wd 14 9) = a := bv_bits _ (by simp only [bits]; omega)
  have ef : bv 9 (bits wd 8 0) = f := bv_bits _ (by simp only [bits]; omega)
  have hop : bits wd 28 22 = 0x43 := by simp only [bits]; omega
  have hd : decodeUniform wd 0 = .ok (.bwait st n t a f) := by
    have hx : decodeUniform wd 0 = (.ok (.bwait (bv 2 (bits wd 30 29)) (bv 6 (bits wd 21 16)) (bv 1 (bits wd 15 15)) (bv 6 (bits wd 14 9)) (bv 9 (bits wd 8 0)))) := by unfold decodeUniform; rw [hop]; rfl
    rw [hx]
    rw [est, en, et, ea, ef]
  rw [encodeBytes_one (show encode (.bwait st n t a f) = [wd] by rw [h1]; rfl)]
  exact decode_uni_one (by omega) (by simp only [bits]; omega) hop (by decide) hd hw

theorem RoundTrip.btry (st : BitVec 2) (n : BitVec 6) (t : BitVec 1) (a : BitVec 6) (c : BitVec 3) : RoundTrip.Statement (.btry st n t a c) := by
  intro _ hw
  have := st.isLt
  have := n.isLt
  have := t.isLt
  have := a.isLt
  have := c.isLt
  obtain ⟨wd, h1⟩ : ∃ out, out = word 0x91000000 [(st.toNat, 29), (n.toNat, 16), (t.toNat, 15), (a.toNat, 9), (c.toNat, 6)] := ⟨_, rfl⟩
  have hwd := h1
  simp only [word_cons, word_nil] at hwd
  have est : bv 2 (bits wd 30 29) = st := bv_bits _ (by simp only [bits]; omega)
  have en : bv 6 (bits wd 21 16) = n := bv_bits _ (by simp only [bits]; omega)
  have et : bv 1 (bits wd 15 15) = t := bv_bits _ (by simp only [bits]; omega)
  have ea : bv 6 (bits wd 14 9) = a := bv_bits _ (by simp only [bits]; omega)
  have ec : bv 3 (bits wd 8 6) = c := bv_bits _ (by simp only [bits]; omega)
  have hop : bits wd 28 22 = 0x44 := by simp only [bits]; omega
  have hd : decodeUniform wd 0 = .ok (.btry st n t a c) := by
    have hx : decodeUniform wd 0 = (resv wd [(5, 0)] (.btry (bv 2 (bits wd 30 29)) (bv 6 (bits wd 21 16)) (bv 1 (bits wd 15 15)) (bv 6 (bits wd 14 9)) (bv 3 (bits wd 8 6)))) := by unfold decodeUniform; rw [hop]; rfl
    rw [hx]
    rw [resv_ok1 (by simp only [bits]; omega)]
    rw [est, en, et, ea, ec]
  rw [encodeBytes_one (show encode (.btry st n t a c) = [wd] by rw [h1]; rfl)]
  exact decode_uni_one (by omega) (by simp only [bits]; omega) hop (by decide) hd hw

theorem RoundTrip.binv (st : BitVec 2) (n : BitVec 6) (t : BitVec 1) : RoundTrip.Statement (.binv st n t) := by
  intro _ hw
  have := st.isLt
  have := n.isLt
  have := t.isLt
  obtain ⟨wd, h1⟩ : ∃ out, out = word 0x91400000 [(st.toNat, 29), (n.toNat, 16), (t.toNat, 15)] := ⟨_, rfl⟩
  have hwd := h1
  simp only [word_cons, word_nil] at hwd
  have est : bv 2 (bits wd 30 29) = st := bv_bits _ (by simp only [bits]; omega)
  have en : bv 6 (bits wd 21 16) = n := bv_bits _ (by simp only [bits]; omega)
  have et : bv 1 (bits wd 15 15) = t := bv_bits _ (by simp only [bits]; omega)
  have hop : bits wd 28 22 = 0x45 := by simp only [bits]; omega
  have hd : decodeUniform wd 0 = .ok (.binv st n t) := by
    have hx : decodeUniform wd 0 = (resv wd [(14, 0)] (.binv (bv 2 (bits wd 30 29)) (bv 6 (bits wd 21 16)) (bv 1 (bits wd 15 15)))) := by unfold decodeUniform; rw [hop]; rfl
    rw [hx]
    rw [resv_ok1 (by simp only [bits]; omega)]
    rw [est, en, et]
  rw [encodeBytes_one (show encode (.binv st n t) = [wd] by rw [h1]; rfl)]
  exact decode_uni_one (by omega) (by simp only [bits]; omega) hop (by decide) hd hw

theorem RoundTrip.tcopy (st : BitVec 2) (c : BitVec 3) (n : BitVec 1) (e : BitVec 6) (d : BitVec 6) : RoundTrip.Statement (.tcopy st c n e d) := by
  intro _ hw
  have := st.isLt
  have := c.isLt
  have := n.isLt
  have := e.isLt
  have := d.isLt
  obtain ⟨wd, h1⟩ : ∃ out, out = word 0x92000000 [(st.toNat, 29), (c.toNat, 19), (n.toNat, 18), (e.toNat, 12), (d.toNat, 6)] := ⟨_, rfl⟩
  have hwd := h1
  simp only [word_cons, word_nil] at hwd
  have est : bv 2 (bits wd 30 29) = st := bv_bits _ (by simp only [bits]; omega)
  have ec : bv 3 (bits wd 21 19) = c := bv_bits _ (by simp only [bits]; omega)
  have en : bv 1 (bits wd 18 18) = n := bv_bits _ (by simp only [bits]; omega)
  have ee : bv 6 (bits wd 17 12) = e := bv_bits _ (by simp only [bits]; omega)
  have ed : bv 6 (bits wd 11 6) = d := bv_bits _ (by simp only [bits]; omega)
  have hop : bits wd 28 22 = 0x48 := by simp only [bits]; omega
  have hd : decodeUniform wd 0 = .ok (.tcopy st c n e d) := by
    have hx : decodeUniform wd 0 = (resv wd [(5, 0)] (.tcopy (bv 2 (bits wd 30 29)) (bv 3 (bits wd 21 19)) (bv 1 (bits wd 18 18)) (bv 6 (bits wd 17 12)) (bv 6 (bits wd 11 6)))) := by unfold decodeUniform; rw [hop]; rfl
    rw [hx]
    rw [resv_ok1 (by simp only [bits]; omega)]
    rw [est, ec, en, ee, ed]
  rw [encodeBytes_one (show encode (.tcopy st c n e d) = [wd] by rw [h1]; rfl)]
  exact decode_uni_one (by omega) (by simp only [bits]; omega) hop (by decide) hd hw

theorem RoundTrip.tsto (st : BitVec 2) (c : BitVec 3) (n : BitVec 1) (e : BitVec 6) (d : BitVec 6) : RoundTrip.Statement (.tsto st c n e d) := by
  intro _ hw
  have := st.isLt
  have := c.isLt
  have := n.isLt
  have := e.isLt
  have := d.isLt
  obtain ⟨wd, h1⟩ : ∃ out, out = word 0x92400000 [(st.toNat, 29), (c.toNat, 19), (n.toNat, 18), (e.toNat, 12), (d.toNat, 6)] := ⟨_, rfl⟩
  have hwd := h1
  simp only [word_cons, word_nil] at hwd
  have est : bv 2 (bits wd 30 29) = st := bv_bits _ (by simp only [bits]; omega)
  have ec : bv 3 (bits wd 21 19) = c := bv_bits _ (by simp only [bits]; omega)
  have en : bv 1 (bits wd 18 18) = n := bv_bits _ (by simp only [bits]; omega)
  have ee : bv 6 (bits wd 17 12) = e := bv_bits _ (by simp only [bits]; omega)
  have ed : bv 6 (bits wd 11 6) = d := bv_bits _ (by simp only [bits]; omega)
  have hop : bits wd 28 22 = 0x49 := by simp only [bits]; omega
  have hd : decodeUniform wd 0 = .ok (.tsto st c n e d) := by
    have hx : decodeUniform wd 0 = (resv wd [(5, 0)] (.tsto (bv 2 (bits wd 30 29)) (bv 3 (bits wd 21 19)) (bv 1 (bits wd 18 18)) (bv 6 (bits wd 17 12)) (bv 6 (bits wd 11 6)))) := by unfold decodeUniform; rw [hop]; rfl
    rw [hx]
    rw [resv_ok1 (by simp only [bits]; omega)]
    rw [est, ec, en, ee, ed]
  rw [encodeBytes_one (show encode (.tsto st c n e d) = [wd] by rw [h1]; rfl)]
  exact decode_uni_one (by omega) (by simp only [bits]; omega) hop (by decide) hd hw

theorem RoundTrip.tpref (st : BitVec 2) (c : BitVec 3) (n : BitVec 1) (e : BitVec 6) : RoundTrip.Statement (.tpref st c n e) := by
  intro _ hw
  have := st.isLt
  have := c.isLt
  have := n.isLt
  have := e.isLt
  obtain ⟨wd, h1⟩ : ∃ out, out = word 0x92800000 [(st.toNat, 29), (c.toNat, 19), (n.toNat, 18), (e.toNat, 12)] := ⟨_, rfl⟩
  have hwd := h1
  simp only [word_cons, word_nil] at hwd
  have est : bv 2 (bits wd 30 29) = st := bv_bits _ (by simp only [bits]; omega)
  have ec : bv 3 (bits wd 21 19) = c := bv_bits _ (by simp only [bits]; omega)
  have en : bv 1 (bits wd 18 18) = n := bv_bits _ (by simp only [bits]; omega)
  have ee : bv 6 (bits wd 17 12) = e := bv_bits _ (by simp only [bits]; omega)
  have hop : bits wd 28 22 = 0x4a := by simp only [bits]; omega
  have hd : decodeUniform wd 0 = .ok (.tpref st c n e) := by
    have hx : decodeUniform wd 0 = (resv wd [(11, 0)] (.tpref (bv 2 (bits wd 30 29)) (bv 3 (bits wd 21 19)) (bv 1 (bits wd 18 18)) (bv 6 (bits wd 17 12)))) := by unfold decodeUniform; rw [hop]; rfl
    rw [hx]
    rw [resv_ok1 (by simp only [bits]; omega)]
    rw [est, ec, en, ee]
  rw [encodeBytes_one (show encode (.tpref st c n e) = [wd] by rw [h1]; rfl)]
  exact decode_uni_one (by omega) (by simp only [bits]; omega) hop (by decide) hd hw

theorem RoundTrip.mmap (st : BitVec 2) (c : BitVec 3) (n : BitVec 1) (e : BitVec 6) (b : BitVec 1) (p : BitVec 2) (l : BitVec 1) (z : BitVec 1) (y : BitVec 3) : RoundTrip.Statement (.mmap st c n e b p l z y) := by
  intro _ hw
  have := st.isLt
  have := c.isLt
  have := n.isLt
  have := e.isLt
  have := b.isLt
  have := p.isLt
  have := l.isLt
  have := z.isLt
  have := y.isLt
  obtain ⟨wd, h1⟩ : ∃ out, out = word 0x94000000 [(st.toNat, 29), (c.toNat, 19), (n.toNat, 18), (e.toNat, 12), (b.toNat, 11), (p.toNat, 8), (l.toNat, 7), (z.toNat, 6), (y.toNat, 3)] := ⟨_, rfl⟩
  have hwd := h1
  simp only [word_cons, word_nil] at hwd
  have est : bv 2 (bits wd 30 29) = st := bv_bits _ (by simp only [bits]; omega)
  have ec : bv 3 (bits wd 21 19) = c := bv_bits _ (by simp only [bits]; omega)
  have en : bv 1 (bits wd 18 18) = n := bv_bits _ (by simp only [bits]; omega)
  have ee : bv 6 (bits wd 17 12) = e := bv_bits _ (by simp only [bits]; omega)
  have eb : bv 1 (bits wd 11 11) = b := bv_bits _ (by simp only [bits]; omega)
  have ep : bv 2 (bits wd 9 8) = p := bv_bits _ (by simp only [bits]; omega)
  have el : bv 1 (bits wd 7 7) = l := bv_bits _ (by simp only [bits]; omega)
  have ez : bv 1 (bits wd 6 6) = z := bv_bits _ (by simp only [bits]; omega)
  have ey : bv 3 (bits wd 5 3) = y := bv_bits _ (by simp only [bits]; omega)
  have hop : bits wd 28 22 = 0x50 := by simp only [bits]; omega
  have hd : decodeUniform wd 0 = .ok (.mmap st c n e b p l z y) := by
    have hx : decodeUniform wd 0 = (resv wd [(10, 10), (2, 0)] (.mmap (bv 2 (bits wd 30 29)) (bv 3 (bits wd 21 19)) (bv 1 (bits wd 18 18)) (bv 6 (bits wd 17 12)) (bv 1 (bits wd 11 11)) (bv 2 (bits wd 9 8)) (bv 1 (bits wd 7 7)) (bv 1 (bits wd 6 6)) (bv 3 (bits wd 5 3)))) := by unfold decodeUniform; rw [hop]; rfl
    rw [hx]
    rw [resv_ok2 (by simp only [bits]; omega) (by simp only [bits]; omega)]
    rw [est, ec, en, ee, eb, ep, el, ez, ey]
  rw [encodeBytes_one (show encode (.mmap st c n e b p l z y) = [wd] by rw [h1]; rfl)]
  exact decode_uni_one (by omega) (by simp only [bits]; omega) hop (by decide) hd hw

theorem RoundTrip.mmsc (st : BitVec 2) (a : BitVec 6) (b : BitVec 6) : RoundTrip.Statement (.mmsc st a b) := by
  intro _ hw
  have := st.isLt
  have := a.isLt
  have := b.isLt
  obtain ⟨wd, h1⟩ : ∃ out, out = word 0x94400000 [(st.toNat, 29), (a.toNat, 16), (b.toNat, 10)] := ⟨_, rfl⟩
  have hwd := h1
  simp only [word_cons, word_nil] at hwd
  have est : bv 2 (bits wd 30 29) = st := bv_bits _ (by simp only [bits]; omega)
  have ea : bv 6 (bits wd 21 16) = a := bv_bits _ (by simp only [bits]; omega)
  have eb : bv 6 (bits wd 15 10) = b := bv_bits _ (by simp only [bits]; omega)
  have hop : bits wd 28 22 = 0x51 := by simp only [bits]; omega
  have hd : decodeUniform wd 0 = .ok (.mmsc st a b) := by
    have hx : decodeUniform wd 0 = (resv wd [(9, 0)] (.mmsc (bv 2 (bits wd 30 29)) (bv 6 (bits wd 21 16)) (bv 6 (bits wd 15 10)))) := by unfold decodeUniform; rw [hop]; rfl
    rw [hx]
    rw [resv_ok1 (by simp only [bits]; omega)]
    rw [est, ea, eb]
  rw [encodeBytes_one (show encode (.mmsc st a b) = [wd] by rw [h1]; rfl)]
  exact decode_uni_one (by omega) (by simp only [bits]; omega) hop (by decide) hd hw

theorem RoundTrip.tzero (st : BitVec 2) (t : BitVec 5) (n : BitVec 5) : RoundTrip.Statement (.tzero st t n) := by
  intro _ hw
  have := st.isLt
  have := t.isLt
  have := n.isLt
  obtain ⟨wd, h1⟩ : ∃ out, out = word 0x94800000 [(st.toNat, 29), (t.toNat, 17), (n.toNat, 12)] := ⟨_, rfl⟩
  have hwd := h1
  simp only [word_cons, word_nil] at hwd
  have est : bv 2 (bits wd 30 29) = st := bv_bits _ (by simp only [bits]; omega)
  have et : bv 5 (bits wd 21 17) = t := bv_bits _ (by simp only [bits]; omega)
  have en : bv 5 (bits wd 16 12) = n := bv_bits _ (by simp only [bits]; omega)
  have hop : bits wd 28 22 = 0x52 := by simp only [bits]; omega
  have hd : decodeUniform wd 0 = .ok (.tzero st t n) := by
    have hx : decodeUniform wd 0 = (resv wd [(11, 0)] (.tzero (bv 2 (bits wd 30 29)) (bv 5 (bits wd 21 17)) (bv 5 (bits wd 16 12)))) := by unfold decodeUniform; rw [hop]; rfl
    rw [hx]
    rw [resv_ok1 (by simp only [bits]; omega)]
    rw [est, et, en]
  rw [encodeBytes_one (show encode (.tzero st t n) = [wd] by rw [h1]; rfl)]
  exact decode_uni_one (by omega) (by simp only [bits]; omega) hop (by decide) hd hw

theorem RoundTrip.tepi (st : BitVec 2) (t : BitVec 5) (e : BitVec 6) (f : BitVec 3) (p : BitVec 2) (a : BitVec 1) : RoundTrip.Statement (.tepi st t e f p a) := by
  intro _ hw
  have := st.isLt
  have := t.isLt
  have := e.isLt
  have := f.isLt
  have := p.isLt
  have := a.isLt
  obtain ⟨wd, h1⟩ : ∃ out, out = word 0x94c00000 [(st.toNat, 29), (t.toNat, 17), (e.toNat, 11), (f.toNat, 8), (p.toNat, 6), (a.toNat, 5)] := ⟨_, rfl⟩
  have hwd := h1
  simp only [word_cons, word_nil] at hwd
  have est : bv 2 (bits wd 30 29) = st := bv_bits _ (by simp only [bits]; omega)
  have et : bv 5 (bits wd 21 17) = t := bv_bits _ (by simp only [bits]; omega)
  have ee : bv 6 (bits wd 16 11) = e := bv_bits _ (by simp only [bits]; omega)
  have ef : bv 3 (bits wd 10 8) = f := bv_bits _ (by simp only [bits]; omega)
  have ep : bv 2 (bits wd 7 6) = p := bv_bits _ (by simp only [bits]; omega)
  have ea : bv 1 (bits wd 5 5) = a := bv_bits _ (by simp only [bits]; omega)
  have hop : bits wd 28 22 = 0x53 := by simp only [bits]; omega
  have hd : decodeUniform wd 0 = .ok (.tepi st t e f p a) := by
    have hx : decodeUniform wd 0 = (resv wd [(4, 0)] (.tepi (bv 2 (bits wd 30 29)) (bv 5 (bits wd 21 17)) (bv 6 (bits wd 16 11)) (bv 3 (bits wd 10 8)) (bv 2 (bits wd 7 6)) (bv 1 (bits wd 5 5)))) := by unfold decodeUniform; rw [hop]; rfl
    rw [hx]
    rw [resv_ok1 (by simp only [bits]; omega)]
    rw [est, et, ee, ef, ep, ea]
  rw [encodeBytes_one (show encode (.tepi st t e f p a) = [wd] by rw [h1]; rfl)]
  exact decode_uni_one (by omega) (by simp only [bits]; omega) hop (by decide) hd hw

theorem RoundTrip.chain (st : BitVec 2) (l : BitVec 3) (k : BitVec 8) : RoundTrip.Statement (.chain st l k) := by
  intro _ hw
  have := st.isLt
  have := l.isLt
  have := k.isLt
  obtain ⟨wd, h1⟩ : ∃ out, out = word 0x96000000 [(st.toNat, 29), (l.toNat, 19), (k.toNat, 0)] := ⟨_, rfl⟩
  have hwd := h1
  simp only [word_cons, word_nil] at hwd
  have est : bv 2 (bits wd 30 29) = st := bv_bits _ (by simp only [bits]; omega)
  have el : bv 3 (bits wd 21 19) = l := bv_bits _ (by simp only [bits]; omega)
  have ek : bv 8 (bits wd 7 0) = k := bv_bits _ (by simp only [bits]; omega)
  have hop : bits wd 28 22 = 0x58 := by simp only [bits]; omega
  have hd : decodeUniform wd 0 = .ok (.chain st l k) := by
    have hx : decodeUniform wd 0 = (resv wd [(18, 8)] (.chain (bv 2 (bits wd 30 29)) (bv 3 (bits wd 21 19)) (bv 8 (bits wd 7 0)))) := by unfold decodeUniform; rw [hop]; rfl
    rw [hx]
    rw [resv_ok1 (by simp only [bits]; omega)]
    rw [est, el, ek]
  rw [encodeBytes_one (show encode (.chain st l k) = [wd] by rw [h1]; rfl)]
  exact decode_uni_one (by omega) (by simp only [bits]; omega) hop (by decide) hd hw

theorem RoundTrip.put (st : BitVec 2) (d : BitVec 6) (b : BitVec 4) : RoundTrip.Statement (.put st d b) := by
  intro _ hw
  have := st.isLt
  have := d.isLt
  have := b.isLt
  obtain ⟨wd, h1⟩ : ∃ out, out = word 0x98000000 [(st.toNat, 29), (d.toNat, 16), (b.toNat, 12)] := ⟨_, rfl⟩
  have hwd := h1
  simp only [word_cons, word_nil] at hwd
  have est : bv 2 (bits wd 30 29) = st := bv_bits _ (by simp only [bits]; omega)
  have ed : bv 6 (bits wd 21 16) = d := bv_bits _ (by simp only [bits]; omega)
  have eb : bv 4 (bits wd 15 12) = b := bv_bits _ (by simp only [bits]; omega)
  have hop : bits wd 28 22 = 0x60 := by simp only [bits]; omega
  have hd : decodeUniform wd 0 = .ok (.put st d b) := by
    have hx : decodeUniform wd 0 = (resv wd [(11, 0)] (.put (bv 2 (bits wd 30 29)) (bv 6 (bits wd 21 16)) (bv 4 (bits wd 15 12)))) := by unfold decodeUniform; rw [hop]; rfl
    rw [hx]
    rw [resv_ok1 (by simp only [bits]; omega)]
    rw [est, ed, eb]
  rw [encodeBytes_one (show encode (.put st d b) = [wd] by rw [h1]; rfl)]
  exact decode_uni_one (by omega) (by simp only [bits]; omega) hop (by decide) hd hw

theorem RoundTrip.get (st : BitVec 2) (d : BitVec 6) (b : BitVec 4) : RoundTrip.Statement (.get st d b) := by
  intro _ hw
  have := st.isLt
  have := d.isLt
  have := b.isLt
  obtain ⟨wd, h1⟩ : ∃ out, out = word 0x98400000 [(st.toNat, 29), (d.toNat, 16), (b.toNat, 12)] := ⟨_, rfl⟩
  have hwd := h1
  simp only [word_cons, word_nil] at hwd
  have est : bv 2 (bits wd 30 29) = st := bv_bits _ (by simp only [bits]; omega)
  have ed : bv 6 (bits wd 21 16) = d := bv_bits _ (by simp only [bits]; omega)
  have eb : bv 4 (bits wd 15 12) = b := bv_bits _ (by simp only [bits]; omega)
  have hop : bits wd 28 22 = 0x61 := by simp only [bits]; omega
  have hd : decodeUniform wd 0 = .ok (.get st d b) := by
    have hx : decodeUniform wd 0 = (resv wd [(11, 0)] (.get (bv 2 (bits wd 30 29)) (bv 6 (bits wd 21 16)) (bv 4 (bits wd 15 12)))) := by unfold decodeUniform; rw [hop]; rfl
    rw [hx]
    rw [resv_ok1 (by simp only [bits]; omega)]
    rw [est, ed, eb]
  rw [encodeBytes_one (show encode (.get st d b) = [wd] by rw [h1]; rfl)]
  exact decode_uni_one (by omega) (by simp only [bits]; omega) hop (by decide) hd hw

theorem RoundTrip.ratom (st : BitVec 2) (d : BitVec 6) (b : BitVec 4) (e : BitVec 6) (o : BitVec 4) (z : BitVec 1) : RoundTrip.Statement (.ratom st d b e o z) := by
  intro _ hw
  have := st.isLt
  have := d.isLt
  have := b.isLt
  have := e.isLt
  have := o.isLt
  have := z.isLt
  obtain ⟨wd, h1⟩ : ∃ out, out = word 0x98800000 [(st.toNat, 29), (d.toNat, 16), (b.toNat, 12), (e.toNat, 6), (o.toNat, 2), (z.toNat, 1)] := ⟨_, rfl⟩
  have hwd := h1
  simp only [word_cons, word_nil] at hwd
  have est : bv 2 (bits wd 30 29) = st := bv_bits _ (by simp only [bits]; omega)
  have ed : bv 6 (bits wd 21 16) = d := bv_bits _ (by simp only [bits]; omega)
  have eb : bv 4 (bits wd 15 12) = b := bv_bits _ (by simp only [bits]; omega)
  have ee : bv 6 (bits wd 11 6) = e := bv_bits _ (by simp only [bits]; omega)
  have eo : bv 4 (bits wd 5 2) = o := bv_bits _ (by simp only [bits]; omega)
  have ez : bv 1 (bits wd 1 1) = z := bv_bits _ (by simp only [bits]; omega)
  have hop : bits wd 28 22 = 0x62 := by simp only [bits]; omega
  have hd : decodeUniform wd 0 = .ok (.ratom st d b e o z) := by
    have hx : decodeUniform wd 0 = (resv wd [(0, 0)] (.ratom (bv 2 (bits wd 30 29)) (bv 6 (bits wd 21 16)) (bv 4 (bits wd 15 12)) (bv 6 (bits wd 11 6)) (bv 4 (bits wd 5 2)) (bv 1 (bits wd 1 1)))) := by unfold decodeUniform; rw [hop]; rfl
    rw [hx]
    rw [resv_ok1 (by simp only [bits]; omega)]
    rw [est, ed, eb, ee, eo, ez]
  rw [encodeBytes_one (show encode (.ratom st d b e o z) = [wd] by rw [h1]; rfl)]
  exact decode_uni_one (by omega) (by simp only [bits]; omega) hop (by decide) hd hw

theorem RoundTrip.notify (st : BitVec 2) (d : BitVec 6) (b : BitVec 4) : RoundTrip.Statement (.notify st d b) := by
  intro _ hw
  have := st.isLt
  have := d.isLt
  have := b.isLt
  obtain ⟨wd, h1⟩ : ∃ out, out = word 0x98c00000 [(st.toNat, 29), (d.toNat, 16), (b.toNat, 12)] := ⟨_, rfl⟩
  have hwd := h1
  simp only [word_cons, word_nil] at hwd
  have est : bv 2 (bits wd 30 29) = st := bv_bits _ (by simp only [bits]; omega)
  have ed : bv 6 (bits wd 21 16) = d := bv_bits _ (by simp only [bits]; omega)
  have eb : bv 4 (bits wd 15 12) = b := bv_bits _ (by simp only [bits]; omega)
  have hop : bits wd 28 22 = 0x63 := by simp only [bits]; omega
  have hd : decodeUniform wd 0 = .ok (.notify st d b) := by
    have hx : decodeUniform wd 0 = (resv wd [(11, 0)] (.notify (bv 2 (bits wd 30 29)) (bv 6 (bits wd 21 16)) (bv 4 (bits wd 15 12)))) := by unfold decodeUniform; rw [hop]; rfl
    rw [hx]
    rw [resv_ok1 (by simp only [bits]; omega)]
    rw [est, ed, eb]
  rw [encodeBytes_one (show encode (.notify st d b) = [wd] by rw [h1]; rfl)]
  exact decode_uni_one (by omega) (by simp only [bits]; omega) hop (by decide) hd hw

theorem RoundTrip.waitn (st : BitVec 2) (c : BitVec 6) (v : BitVec 6) (f : BitVec 10) : RoundTrip.Statement (.waitn st c v f) := by
  intro _ hw
  have := st.isLt
  have := c.isLt
  have := v.isLt
  have := f.isLt
  obtain ⟨wd, h1⟩ : ∃ out, out = word 0x99000000 [(st.toNat, 29), (c.toNat, 16), (v.toNat, 10), (f.toNat, 0)] := ⟨_, rfl⟩
  have hwd := h1
  simp only [word_cons, word_nil] at hwd
  have est : bv 2 (bits wd 30 29) = st := bv_bits _ (by simp only [bits]; omega)
  have ec : bv 6 (bits wd 21 16) = c := bv_bits _ (by simp only [bits]; omega)
  have ev : bv 6 (bits wd 15 10) = v := bv_bits _ (by simp only [bits]; omega)
  have ef : bv 10 (bits wd 9 0) = f := bv_bits _ (by simp only [bits]; omega)
  have hop : bits wd 28 22 = 0x64 := by simp only [bits]; omega
  have hd : decodeUniform wd 0 = .ok (.waitn st c v f) := by
    have hx : decodeUniform wd 0 = (.ok (.waitn (bv 2 (bits wd 30 29)) (bv 6 (bits wd 21 16)) (bv 6 (bits wd 15 10)) (bv 10 (bits wd 9 0)))) := by unfold decodeUniform; rw [hop]; rfl
    rw [hx]
    rw [est, ec, ev, ef]
  rw [encodeBytes_one (show encode (.waitn st c v f) = [wd] by rw [h1]; rfl)]
  exact decode_uni_one (by omega) (by simp only [bits]; omega) hop (by decide) hd hw

theorem RoundTrip.rfence (st : BitVec 2) : RoundTrip.Statement (.rfence st) := by
  intro _ hw
  have := st.isLt
  obtain ⟨wd, h1⟩ : ∃ out, out = word 0x99400000 [(st.toNat, 29)] := ⟨_, rfl⟩
  have hwd := h1
  simp only [word_cons, word_nil] at hwd
  have est : bv 2 (bits wd 30 29) = st := bv_bits _ (by simp only [bits]; omega)
  have hop : bits wd 28 22 = 0x65 := by simp only [bits]; omega
  have hd : decodeUniform wd 0 = .ok (.rfence st) := by
    have hx : decodeUniform wd 0 = (resv wd [(21, 0)] (.rfence (bv 2 (bits wd 30 29)))) := by unfold decodeUniform; rw [hop]; rfl
    rw [hx]
    rw [resv_ok1 (by simp only [bits]; omega)]
    rw [est]
  rw [encodeBytes_one (show encode (.rfence st) = [wd] by rw [h1]; rfl)]
  exact decode_uni_one (by omega) (by simp only [bits]; omega) hop (by decide) hd hw

theorem RoundTrip.coll (st : BitVec 2) (d : BitVec 6) (a : BitVec 6) : RoundTrip.Statement (.coll st d a) := by
  intro _ hw
  have := st.isLt
  have := d.isLt
  have := a.isLt
  obtain ⟨wd, h1⟩ : ∃ out, out = word 0x99800000 [(st.toNat, 29), (d.toNat, 16), (a.toNat, 10)] := ⟨_, rfl⟩
  have hwd := h1
  simp only [word_cons, word_nil] at hwd
  have est : bv 2 (bits wd 30 29) = st := bv_bits _ (by simp only [bits]; omega)
  have ed : bv 6 (bits wd 21 16) = d := bv_bits _ (by simp only [bits]; omega)
  have ea : bv 6 (bits wd 15 10) = a := bv_bits _ (by simp only [bits]; omega)
  have hop : bits wd 28 22 = 0x66 := by simp only [bits]; omega
  have hd : decodeUniform wd 0 = .ok (.coll st d a) := by
    have hx : decodeUniform wd 0 = (resv wd [(9, 0)] (.coll (bv 2 (bits wd 30 29)) (bv 6 (bits wd 21 16)) (bv 6 (bits wd 15 10)))) := by unfold decodeUniform; rw [hop]; rfl
    rw [hx]
    rw [resv_ok1 (by simp only [bits]; omega)]
    rw [est, ed, ea]
  rw [encodeBytes_one (show encode (.coll st d a) = [wd] by rw [h1]; rfl)]
  exact decode_uni_one (by omega) (by simp only [bits]; omega) hop (by decide) hd hw

theorem RoundTrip.colw (st : BitVec 2) (d : BitVec 6) (a : BitVec 6) : RoundTrip.Statement (.colw st d a) := by
  intro _ hw
  have := st.isLt
  have := d.isLt
  have := a.isLt
  obtain ⟨wd, h1⟩ : ∃ out, out = word 0x99c00000 [(st.toNat, 29), (d.toNat, 16), (a.toNat, 10)] := ⟨_, rfl⟩
  have hwd := h1
  simp only [word_cons, word_nil] at hwd
  have est : bv 2 (bits wd 30 29) = st := bv_bits _ (by simp only [bits]; omega)
  have ed : bv 6 (bits wd 21 16) = d := bv_bits _ (by simp only [bits]; omega)
  have ea : bv 6 (bits wd 15 10) = a := bv_bits _ (by simp only [bits]; omega)
  have hop : bits wd 28 22 = 0x67 := by simp only [bits]; omega
  have hd : decodeUniform wd 0 = .ok (.colw st d a) := by
    have hx : decodeUniform wd 0 = (resv wd [(9, 0)] (.colw (bv 2 (bits wd 30 29)) (bv 6 (bits wd 21 16)) (bv 6 (bits wd 15 10)))) := by unfold decodeUniform; rw [hop]; rfl
    rw [hx]
    rw [resv_ok1 (by simp only [bits]; omega)]
    rw [est, ed, ea]
  rw [encodeBytes_one (show encode (.colw st d a) = [wd] by rw [h1]; rfl)]
  exact decode_uni_one (by omega) (by simp only [bits]; omega) hop (by decide) hd hw

theorem RoundTrip.qpush (st : BitVec 2) (d : BitVec 6) (a : BitVec 6) (b : BitVec 6) : RoundTrip.Statement (.qpush st d a b) := by
  intro _ hw
  have := st.isLt
  have := d.isLt
  have := a.isLt
  have := b.isLt
  obtain ⟨wd, h1⟩ : ∃ out, out = word 0x9a000000 [(st.toNat, 29), (d.toNat, 16), (a.toNat, 10), (b.toNat, 4)] := ⟨_, rfl⟩
  have hwd := h1
  simp only [word_cons, word_nil] at hwd
  have est : bv 2 (bits wd 30 29) = st := bv_bits _ (by simp only [bits]; omega)
  have ed : bv 6 (bits wd 21 16) = d := bv_bits _ (by simp only [bits]; omega)
  have ea : bv 6 (bits wd 15 10) = a := bv_bits _ (by simp only [bits]; omega)
  have eb : bv 6 (bits wd 9 4) = b := bv_bits _ (by simp only [bits]; omega)
  have hop : bits wd 28 22 = 0x68 := by simp only [bits]; omega
  have hd : decodeUniform wd 0 = .ok (.qpush st d a b) := by
    have hx : decodeUniform wd 0 = (resv wd [(3, 0)] (.qpush (bv 2 (bits wd 30 29)) (bv 6 (bits wd 21 16)) (bv 6 (bits wd 15 10)) (bv 6 (bits wd 9 4)))) := by unfold decodeUniform; rw [hop]; rfl
    rw [hx]
    rw [resv_ok1 (by simp only [bits]; omega)]
    rw [est, ed, ea, eb]
  rw [encodeBytes_one (show encode (.qpush st d a b) = [wd] by rw [h1]; rfl)]
  exact decode_uni_one (by omega) (by simp only [bits]; omega) hop (by decide) hd hw

theorem RoundTrip.pfence (st : BitVec 2) (d : BitVec 6) (a : BitVec 6) : RoundTrip.Statement (.pfence st d a) := by
  intro _ hw
  have := st.isLt
  have := d.isLt
  have := a.isLt
  obtain ⟨wd, h1⟩ : ∃ out, out = word 0x9a400000 [(st.toNat, 29), (d.toNat, 16), (a.toNat, 10)] := ⟨_, rfl⟩
  have hwd := h1
  simp only [word_cons, word_nil] at hwd
  have est : bv 2 (bits wd 30 29) = st := bv_bits _ (by simp only [bits]; omega)
  have ed : bv 6 (bits wd 21 16) = d := bv_bits _ (by simp only [bits]; omega)
  have ea : bv 6 (bits wd 15 10) = a := bv_bits _ (by simp only [bits]; omega)
  have hop : bits wd 28 22 = 0x69 := by simp only [bits]; omega
  have hd : decodeUniform wd 0 = .ok (.pfence st d a) := by
    have hx : decodeUniform wd 0 = (if bits wd 9 9 = 0 then resv wd [(8, 0)] (.pfence (bv 2 (bits wd 30 29)) (bv 6 (bits wd 21 16)) (bv 6 (bits wd 15 10))) else resv wd [(8, 0)] (.pfenceRel (bv 2 (bits wd 30 29)) (bv 6 (bits wd 21 16)) (bv 6 (bits wd 15 10)))) := by unfold decodeUniform; rw [hop]; rfl
    rw [hx]
    rw [if_pos (by simp only [bits]; omega)]
    rw [resv_ok1 (by simp only [bits]; omega)]
    rw [est, ed, ea]
  rw [encodeBytes_one (show encode (.pfence st d a) = [wd] by rw [h1]; rfl)]
  exact decode_uni_one (by omega) (by simp only [bits]; omega) hop (by decide) hd hw

theorem RoundTrip.pfenceRel (st : BitVec 2) (d : BitVec 6) (a : BitVec 6) : RoundTrip.Statement (.pfenceRel st d a) := by
  intro _ hw
  have := st.isLt
  have := d.isLt
  have := a.isLt
  obtain ⟨wd, h1⟩ : ∃ out, out = word 0x9a400200 [(st.toNat, 29), (d.toNat, 16), (a.toNat, 10)] := ⟨_, rfl⟩
  have hwd := h1
  simp only [word_cons, word_nil] at hwd
  have est : bv 2 (bits wd 30 29) = st := bv_bits _ (by simp only [bits]; omega)
  have ed : bv 6 (bits wd 21 16) = d := bv_bits _ (by simp only [bits]; omega)
  have ea : bv 6 (bits wd 15 10) = a := bv_bits _ (by simp only [bits]; omega)
  have hop : bits wd 28 22 = 0x69 := by simp only [bits]; omega
  have hd : decodeUniform wd 0 = .ok (.pfenceRel st d a) := by
    have hx : decodeUniform wd 0 = (if bits wd 9 9 = 0 then resv wd [(8, 0)] (.pfence (bv 2 (bits wd 30 29)) (bv 6 (bits wd 21 16)) (bv 6 (bits wd 15 10))) else resv wd [(8, 0)] (.pfenceRel (bv 2 (bits wd 30 29)) (bv 6 (bits wd 21 16)) (bv 6 (bits wd 15 10)))) := by unfold decodeUniform; rw [hop]; rfl
    rw [hx]
    rw [if_neg (by simp only [bits]; omega)]
    rw [resv_ok1 (by simp only [bits]; omega)]
    rw [est, ed, ea]
  rw [encodeBytes_one (show encode (.pfenceRel st d a) = [wd] by rw [h1]; rfl)]
  exact decode_uni_one (by omega) (by simp only [bits]; omega) hop (by decide) hd hw

theorem RoundTrip.vcdef (st : BitVec 2) (d : BitVec 6) (a : BitVec 6) : RoundTrip.Statement (.vcdef st d a) := by
  intro _ hw
  have := st.isLt
  have := d.isLt
  have := a.isLt
  obtain ⟨wd, h1⟩ : ∃ out, out = word 0x9c000000 [(st.toNat, 29), (d.toNat, 16), (a.toNat, 10)] := ⟨_, rfl⟩
  have hwd := h1
  simp only [word_cons, word_nil] at hwd
  have est : bv 2 (bits wd 30 29) = st := bv_bits _ (by simp only [bits]; omega)
  have ed : bv 6 (bits wd 21 16) = d := bv_bits _ (by simp only [bits]; omega)
  have ea : bv 6 (bits wd 15 10) = a := bv_bits _ (by simp only [bits]; omega)
  have hop : bits wd 28 22 = 0x70 := by simp only [bits]; omega
  have hd : decodeUniform wd 0 = .ok (.vcdef st d a) := by
    have hx : decodeUniform wd 0 = (resv wd [(9, 0)] (.vcdef (bv 2 (bits wd 30 29)) (bv 6 (bits wd 21 16)) (bv 6 (bits wd 15 10)))) := by unfold decodeUniform; rw [hop]; rfl
    rw [hx]
    rw [resv_ok1 (by simp only [bits]; omega)]
    rw [est, ed, ea]
  rw [encodeBytes_one (show encode (.vcdef st d a) = [wd] by rw [h1]; rfl)]
  exact decode_uni_one (by omega) (by simp only [bits]; omega) hop (by decide) hd hw

theorem RoundTrip.vcrsz (st : BitVec 2) (d : BitVec 6) (a : BitVec 6) : RoundTrip.Statement (.vcrsz st d a) := by
  intro _ hw
  have := st.isLt
  have := d.isLt
  have := a.isLt
  obtain ⟨wd, h1⟩ : ∃ out, out = word 0x9c400000 [(st.toNat, 29), (d.toNat, 16), (a.toNat, 10)] := ⟨_, rfl⟩
  have hwd := h1
  simp only [word_cons, word_nil] at hwd
  have est : bv 2 (bits wd 30 29) = st := bv_bits _ (by simp only [bits]; omega)
  have ed : bv 6 (bits wd 21 16) = d := bv_bits _ (by simp only [bits]; omega)
  have ea : bv 6 (bits wd 15 10) = a := bv_bits _ (by simp only [bits]; omega)
  have hop : bits wd 28 22 = 0x71 := by simp only [bits]; omega
  have hd : decodeUniform wd 0 = .ok (.vcrsz st d a) := by
    have hx : decodeUniform wd 0 = (resv wd [(9, 0)] (.vcrsz (bv 2 (bits wd 30 29)) (bv 6 (bits wd 21 16)) (bv 6 (bits wd 15 10)))) := by unfold decodeUniform; rw [hop]; rfl
    rw [hx]
    rw [resv_ok1 (by simp only [bits]; omega)]
    rw [est, ed, ea]
  rw [encodeBytes_one (show encode (.vcrsz st d a) = [wd] by rw [h1]; rfl)]
  exact decode_uni_one (by omega) (by simp only [bits]; omega) hop (by decide) hd hw

theorem RoundTrip.vcret (st : BitVec 2) (d : BitVec 6) (a : BitVec 6) : RoundTrip.Statement (.vcret st d a) := by
  intro _ hw
  have := st.isLt
  have := d.isLt
  have := a.isLt
  obtain ⟨wd, h1⟩ : ∃ out, out = word 0x9c800000 [(st.toNat, 29), (d.toNat, 16), (a.toNat, 10)] := ⟨_, rfl⟩
  have hwd := h1
  simp only [word_cons, word_nil] at hwd
  have est : bv 2 (bits wd 30 29) = st := bv_bits _ (by simp only [bits]; omega)
  have ed : bv 6 (bits wd 21 16) = d := bv_bits _ (by simp only [bits]; omega)
  have ea : bv 6 (bits wd 15 10) = a := bv_bits _ (by simp only [bits]; omega)
  have hop : bits wd 28 22 = 0x72 := by simp only [bits]; omega
  have hd : decodeUniform wd 0 = .ok (.vcret st d a) := by
    have hx : decodeUniform wd 0 = (resv wd [(9, 0)] (.vcret (bv 2 (bits wd 30 29)) (bv 6 (bits wd 21 16)) (bv 6 (bits wd 15 10)))) := by unfold decodeUniform; rw [hop]; rfl
    rw [hx]
    rw [resv_ok1 (by simp only [bits]; omega)]
    rw [est, ed, ea]
  rw [encodeBytes_one (show encode (.vcret st d a) = [wd] by rw [h1]; rfl)]
  exact decode_uni_one (by omega) (by simp only [bits]; omega) hop (by decide) hd hw

theorem RoundTrip.vcq (st : BitVec 2) (d : BitVec 6) (a : BitVec 6) : RoundTrip.Statement (.vcq st d a) := by
  intro _ hw
  have := st.isLt
  have := d.isLt
  have := a.isLt
  obtain ⟨wd, h1⟩ : ∃ out, out = word 0x9cc00000 [(st.toNat, 29), (d.toNat, 16), (a.toNat, 10)] := ⟨_, rfl⟩
  have hwd := h1
  simp only [word_cons, word_nil] at hwd
  have est : bv 2 (bits wd 30 29) = st := bv_bits _ (by simp only [bits]; omega)
  have ed : bv 6 (bits wd 21 16) = d := bv_bits _ (by simp only [bits]; omega)
  have ea : bv 6 (bits wd 15 10) = a := bv_bits _ (by simp only [bits]; omega)
  have hop : bits wd 28 22 = 0x73 := by simp only [bits]; omega
  have hd : decodeUniform wd 0 = .ok (.vcq st d a) := by
    have hx : decodeUniform wd 0 = (resv wd [(9, 0)] (.vcq (bv 2 (bits wd 30 29)) (bv 6 (bits wd 21 16)) (bv 6 (bits wd 15 10)))) := by unfold decodeUniform; rw [hop]; rfl
    rw [hx]
    rw [resv_ok1 (by simp only [bits]; omega)]
    rw [est, ed, ea]
  rw [encodeBytes_one (show encode (.vcq st d a) = [wd] by rw [h1]; rfl)]
  exact decode_uni_one (by omega) (by simp only [bits]; omega) hop (by decide) hd hw

theorem RoundTrip.vcwb (st : BitVec 2) (a : BitVec 6) (b : BitVec 6) (c : BitVec 6) (x : BitVec 1) : RoundTrip.Statement (.vcwb st a b c x) := by
  intro _ hw
  have := st.isLt
  have := a.isLt
  have := b.isLt
  have := c.isLt
  have := x.isLt
  obtain ⟨wd, h1⟩ : ∃ out, out = word 0x9d000000 [(st.toNat, 29), (a.toNat, 16), (b.toNat, 10), (c.toNat, 4), (x.toNat, 3)] := ⟨_, rfl⟩
  have hwd := h1
  simp only [word_cons, word_nil] at hwd
  have est : bv 2 (bits wd 30 29) = st := bv_bits _ (by simp only [bits]; omega)
  have ea : bv 6 (bits wd 21 16) = a := bv_bits _ (by simp only [bits]; omega)
  have eb : bv 6 (bits wd 15 10) = b := bv_bits _ (by simp only [bits]; omega)
  have ec : bv 6 (bits wd 9 4) = c := bv_bits _ (by simp only [bits]; omega)
  have ex : bv 1 (bits wd 3 3) = x := bv_bits _ (by simp only [bits]; omega)
  have hop : bits wd 28 22 = 0x74 := by simp only [bits]; omega
  have hd : decodeUniform wd 0 = .ok (.vcwb st a b c x) := by
    have hx : decodeUniform wd 0 = (resv wd [(2, 0)] (.vcwb (bv 2 (bits wd 30 29)) (bv 6 (bits wd 21 16)) (bv 6 (bits wd 15 10)) (bv 6 (bits wd 9 4)) (bv 1 (bits wd 3 3)))) := by unfold decodeUniform; rw [hop]; rfl
    rw [hx]
    rw [resv_ok1 (by simp only [bits]; omega)]
    rw [est, ea, eb, ec, ex]
  rw [encodeBytes_one (show encode (.vcwb st a b c x) = [wd] by rw [h1]; rfl)]
  exact decode_uni_one (by omega) (by simp only [bits]; omega) hop (by decide) hd hw

theorem RoundTrip.vcinv (st : BitVec 2) (a : BitVec 6) (b : BitVec 6) (c : BitVec 6) (x : BitVec 1) : RoundTrip.Statement (.vcinv st a b c x) := by
  intro _ hw
  have := st.isLt
  have := a.isLt
  have := b.isLt
  have := c.isLt
  have := x.isLt
  obtain ⟨wd, h1⟩ : ∃ out, out = word 0x9d400000 [(st.toNat, 29), (a.toNat, 16), (b.toNat, 10), (c.toNat, 4), (x.toNat, 3)] := ⟨_, rfl⟩
  have hwd := h1
  simp only [word_cons, word_nil] at hwd
  have est : bv 2 (bits wd 30 29) = st := bv_bits _ (by simp only [bits]; omega)
  have ea : bv 6 (bits wd 21 16) = a := bv_bits _ (by simp only [bits]; omega)
  have eb : bv 6 (bits wd 15 10) = b := bv_bits _ (by simp only [bits]; omega)
  have ec : bv 6 (bits wd 9 4) = c := bv_bits _ (by simp only [bits]; omega)
  have ex : bv 1 (bits wd 3 3) = x := bv_bits _ (by simp only [bits]; omega)
  have hop : bits wd 28 22 = 0x75 := by simp only [bits]; omega
  have hd : decodeUniform wd 0 = .ok (.vcinv st a b c x) := by
    have hx : decodeUniform wd 0 = (resv wd [(2, 0)] (.vcinv (bv 2 (bits wd 30 29)) (bv 6 (bits wd 21 16)) (bv 6 (bits wd 15 10)) (bv 6 (bits wd 9 4)) (bv 1 (bits wd 3 3)))) := by unfold decodeUniform; rw [hop]; rfl
    rw [hx]
    rw [resv_ok1 (by simp only [bits]; omega)]
    rw [est, ea, eb, ec, ex]
  rw [encodeBytes_one (show encode (.vcinv st a b c x) = [wd] by rw [h1]; rfl)]
  exact decode_uni_one (by omega) (by simp only [bits]; omega) hop (by decide) hd hw

theorem RoundTrip.monr (st : BitVec 2) (d : BitVec 6) (n : BitVec 6) (f : BitVec 5) : RoundTrip.Statement (.monr st d n f) := by
  intro _ hw
  have := st.isLt
  have := d.isLt
  have := n.isLt
  have := f.isLt
  obtain ⟨wd, h1⟩ : ∃ out, out = word 0x9e000000 [(st.toNat, 29), (d.toNat, 16), (n.toNat, 10), (f.toNat, 5)] := ⟨_, rfl⟩
  have hwd := h1
  simp only [word_cons, word_nil] at hwd
  have est : bv 2 (bits wd 30 29) = st := bv_bits _ (by simp only [bits]; omega)
  have ed : bv 6 (bits wd 21 16) = d := bv_bits _ (by simp only [bits]; omega)
  have en : bv 6 (bits wd 15 10) = n := bv_bits _ (by simp only [bits]; omega)
  have ef : bv 5 (bits wd 9 5) = f := bv_bits _ (by simp only [bits]; omega)
  have hop : bits wd 28 22 = 0x78 := by simp only [bits]; omega
  have hd : decodeUniform wd 0 = .ok (.monr st d n f) := by
    have hx : decodeUniform wd 0 = (resv wd [(4, 0)] (.monr (bv 2 (bits wd 30 29)) (bv 6 (bits wd 21 16)) (bv 6 (bits wd 15 10)) (bv 5 (bits wd 9 5)))) := by unfold decodeUniform; rw [hop]; rfl
    rw [hx]
    rw [resv_ok1 (by simp only [bits]; omega)]
    rw [est, ed, en, ef]
  rw [encodeBytes_one (show encode (.monr st d n f) = [wd] by rw [h1]; rfl)]
  exact decode_uni_one (by omega) (by simp only [bits]; omega) hop (by decide) hd hw

theorem RoundTrip.moncCfg (st : BitVec 2) (n : BitVec 6) (a : BitVec 6) : RoundTrip.Statement (.moncCfg st n a) := by
  intro _ hw
  have := st.isLt
  have := n.isLt
  have := a.isLt
  obtain ⟨wd, h1⟩ : ∃ out, out = word 0x9e400000 [(st.toNat, 29), (n.toNat, 16), (a.toNat, 10)] := ⟨_, rfl⟩
  have hwd := h1
  simp only [word_cons, word_nil] at hwd
  have est : bv 2 (bits wd 30 29) = st := bv_bits _ (by simp only [bits]; omega)
  have en : bv 6 (bits wd 21 16) = n := bv_bits _ (by simp only [bits]; omega)
  have ea : bv 6 (bits wd 15 10) = a := bv_bits _ (by simp only [bits]; omega)
  have hop : bits wd 28 22 = 0x79 := by simp only [bits]; omega
  have hd : decodeUniform wd 0 = .ok (.moncCfg st n a) := by
    have hx : decodeUniform wd 0 = (if bits wd 9 8 = 0 then resv wd [(7, 0)] (.moncCfg (bv 2 (bits wd 30 29)) (bv 6 (bits wd 21 16)) (bv 6 (bits wd 15 10))) else if bits wd 9 8 = 1 then resv wd [(15, 10), (7, 0)] (.moncClr (bv 2 (bits wd 30 29)) (bv 6 (bits wd 21 16))) else if bits wd 9 8 = 2 then resv wd [(15, 10), (7, 0)] (.moncRel (bv 2 (bits wd 30 29)) (bv 6 (bits wd 21 16))) else .error .code) := by unfold decodeUniform; rw [hop]; rfl
    rw [hx]
    rw [if_pos (by simp only [bits]; omega)]
    rw [resv_ok1 (by simp only [bits]; omega)]
    rw [est, en, ea]
  rw [encodeBytes_one (show encode (.moncCfg st n a) = [wd] by rw [h1]; rfl)]
  exact decode_uni_one (by omega) (by simp only [bits]; omega) hop (by decide) hd hw

theorem RoundTrip.moncClr (st : BitVec 2) (n : BitVec 6) : RoundTrip.Statement (.moncClr st n) := by
  intro _ hw
  have := st.isLt
  have := n.isLt
  obtain ⟨wd, h1⟩ : ∃ out, out = word 0x9e400100 [(st.toNat, 29), (n.toNat, 16)] := ⟨_, rfl⟩
  have hwd := h1
  simp only [word_cons, word_nil] at hwd
  have est : bv 2 (bits wd 30 29) = st := bv_bits _ (by simp only [bits]; omega)
  have en : bv 6 (bits wd 21 16) = n := bv_bits _ (by simp only [bits]; omega)
  have hop : bits wd 28 22 = 0x79 := by simp only [bits]; omega
  have hd : decodeUniform wd 0 = .ok (.moncClr st n) := by
    have hx : decodeUniform wd 0 = (if bits wd 9 8 = 0 then resv wd [(7, 0)] (.moncCfg (bv 2 (bits wd 30 29)) (bv 6 (bits wd 21 16)) (bv 6 (bits wd 15 10))) else if bits wd 9 8 = 1 then resv wd [(15, 10), (7, 0)] (.moncClr (bv 2 (bits wd 30 29)) (bv 6 (bits wd 21 16))) else if bits wd 9 8 = 2 then resv wd [(15, 10), (7, 0)] (.moncRel (bv 2 (bits wd 30 29)) (bv 6 (bits wd 21 16))) else .error .code) := by unfold decodeUniform; rw [hop]; rfl
    rw [hx]
    rw [if_neg (by simp only [bits]; omega)]
    rw [if_pos (by simp only [bits]; omega)]
    rw [resv_ok2 (by simp only [bits]; omega) (by simp only [bits]; omega)]
    rw [est, en]
  rw [encodeBytes_one (show encode (.moncClr st n) = [wd] by rw [h1]; rfl)]
  exact decode_uni_one (by omega) (by simp only [bits]; omega) hop (by decide) hd hw

theorem RoundTrip.moncRel (st : BitVec 2) (n : BitVec 6) : RoundTrip.Statement (.moncRel st n) := by
  intro _ hw
  have := st.isLt
  have := n.isLt
  obtain ⟨wd, h1⟩ : ∃ out, out = word 0x9e400200 [(st.toNat, 29), (n.toNat, 16)] := ⟨_, rfl⟩
  have hwd := h1
  simp only [word_cons, word_nil] at hwd
  have est : bv 2 (bits wd 30 29) = st := bv_bits _ (by simp only [bits]; omega)
  have en : bv 6 (bits wd 21 16) = n := bv_bits _ (by simp only [bits]; omega)
  have hop : bits wd 28 22 = 0x79 := by simp only [bits]; omega
  have hd : decodeUniform wd 0 = .ok (.moncRel st n) := by
    have hx : decodeUniform wd 0 = (if bits wd 9 8 = 0 then resv wd [(7, 0)] (.moncCfg (bv 2 (bits wd 30 29)) (bv 6 (bits wd 21 16)) (bv 6 (bits wd 15 10))) else if bits wd 9 8 = 1 then resv wd [(15, 10), (7, 0)] (.moncClr (bv 2 (bits wd 30 29)) (bv 6 (bits wd 21 16))) else if bits wd 9 8 = 2 then resv wd [(15, 10), (7, 0)] (.moncRel (bv 2 (bits wd 30 29)) (bv 6 (bits wd 21 16))) else .error .code) := by unfold decodeUniform; rw [hop]; rfl
    rw [hx]
    rw [if_neg (by simp only [bits]; omega)]
    rw [if_neg (by simp only [bits]; omega)]
    rw [if_pos (by simp only [bits]; omega)]
    rw [resv_ok2 (by simp only [bits]; omega) (by simp only [bits]; omega)]
    rw [est, en]
  rw [encodeBytes_one (show encode (.moncRel st n) = [wd] by rw [h1]; rfl)]
  exact decode_uni_one (by omega) (by simp only [bits]; omega) hop (by decide) hd hw

theorem RoundTrip.routeMapInvalidate (island : Nat) : RoundTrip.Statement (.routeMapInvalidate island) := fun h => Bool.noConfusion h

theorem RoundTrip.contextStatePropagate : RoundTrip.Statement .contextStatePropagate := fun h => Bool.noConfusion h

theorem RoundTrip.stallCountExpiry (grp : Nat) : RoundTrip.Statement (.stallCountExpiry grp) := fun h => Bool.noConfusion h

theorem RoundTrip.sleepExpiry (grp : Nat) (frag : Nat) : RoundTrip.Statement (.sleepExpiry grp frag) := fun h => Bool.noConfusion h

theorem RoundTrip.waitHoldEnd (grp : Nat) (frag : Nat) : RoundTrip.Statement (.waitHoldEnd grp frag) := fun h => Bool.noConfusion h

theorem RoundTrip.mfenceHoldEnd (grp : Nat) (frag : Nat) : RoundTrip.Statement (.mfenceHoldEnd grp frag) := fun h => Bool.noConfusion h

theorem RoundTrip.rgrowClaimServed (island : Nat) (core : Nat) : RoundTrip.Statement (.rgrowClaimServed island core) := fun h => Bool.noConfusion h

theorem RoundTrip.claimDeadlock (island : Nat) (core : Nat) : RoundTrip.Statement (.claimDeadlock island core) := fun h => Bool.noConfusion h

theorem RoundTrip.trapEntry (grp : Nat) : RoundTrip.Statement (.trapEntry grp) := fun h => Bool.noConfusion h

theorem RoundTrip.exitDrainEnd (grp : Nat) : RoundTrip.Statement (.exitDrainEnd grp) := fun h => Bool.noConfusion h

theorem RoundTrip.chainRetire (grp : Nat) (frag : Nat) : RoundTrip.Statement (.chainRetire grp frag) := fun h => Bool.noConfusion h

theorem RoundTrip.mmaRetire (grp : Nat) (op : Nat) : RoundTrip.Statement (.mmaRetire grp op) := fun h => Bool.noConfusion h

theorem RoundTrip.mmapBlockComplete (grp : Nat) : RoundTrip.Statement (.mmapBlockComplete grp) := fun h => Bool.noConfusion h

theorem RoundTrip.mmapRetire (grp : Nat) : RoundTrip.Statement (.mmapRetire grp) := fun h => Bool.noConfusion h

theorem RoundTrip.barvArrival (grp : Nat) (frag : Nat) : RoundTrip.Statement (.barvArrival grp frag) := fun h => Bool.noConfusion h

theorem RoundTrip.engineLanding (island : Nat) (op : Nat) : RoundTrip.Statement (.engineLanding island op) := fun h => Bool.noConfusion h

theorem RoundTrip.acp16Landing (island : Nat) (op : Nat) : RoundTrip.Statement (.acp16Landing island op) := fun h => Bool.noConfusion h

theorem RoundTrip.barrierTimeout (tm : Nat) (key : Nat) : RoundTrip.Statement (.barrierTimeout tm key) := fun h => Bool.noConfusion h

theorem RoundTrip.faultRecordEnqueue (island : Nat) : RoundTrip.Statement (.faultRecordEnqueue island) := fun h => Bool.noConfusion h

theorem RoundTrip.vcClaimDrained (island : Nat) (vn : Nat) : RoundTrip.Statement (.vcClaimDrained island vn) := fun h => Bool.noConfusion h

theorem RoundTrip.vcSweepLine (island : Nat) (vn : Nat) : RoundTrip.Statement (.vcSweepLine island vn) := fun h => Bool.noConfusion h

theorem RoundTrip.vcResizeEnd (island : Nat) (vn : Nat) : RoundTrip.Statement (.vcResizeEnd island vn) := fun h => Bool.noConfusion h

theorem RoundTrip.vcDrainStart (island : Nat) (vn : Nat) : RoundTrip.Statement (.vcDrainStart island vn) := fun h => Bool.noConfusion h

theorem RoundTrip.vcDrainEnd (island : Nat) (vn : Nat) : RoundTrip.Statement (.vcDrainEnd island vn) := fun h => Bool.noConfusion h

theorem RoundTrip.loadReturn (grp : Nat) (op : Nat) : RoundTrip.Statement (.loadReturn grp op) := fun h => Bool.noConfusion h

theorem RoundTrip.storePerformed (grp : Nat) (op : Nat) : RoundTrip.Statement (.storePerformed grp op) := fun h => Bool.noConfusion h

theorem RoundTrip.homeOwnershipRequest (island : Nat) (slice : Nat) (sector : Nat) (cores : List Nat) : RoundTrip.Statement (.homeOwnershipRequest island slice sector cores) := fun h => Bool.noConfusion h

theorem RoundTrip.protectionRefusal (island : Nat) (agent : Nat) (mk : Nat) (home : Nat) (ctx : Nat) (core : Nat) (slot : Nat) (pc : DWord) (mask : DWord) : RoundTrip.Statement (.protectionRefusal island agent mk home ctx core slot pc mask) := fun h => Bool.noConfusion h

theorem RoundTrip.place (island : Nat) (ctx : Nat) : RoundTrip.Statement (.place island ctx) := fun h => Bool.noConfusion h

theorem RoundTrip.halt (island : Nat) (ctx : Nat) : RoundTrip.Statement (.halt island ctx) := fun h => Bool.noConfusion h

theorem RoundTrip.haltComplete (island : Nat) (ctx : Nat) : RoundTrip.Statement (.haltComplete island ctx) := fun h => Bool.noConfusion h

theorem RoundTrip.save (island : Nat) (ctx : Nat) : RoundTrip.Statement (.save island ctx) := fun h => Bool.noConfusion h

theorem RoundTrip.resume (island : Nat) (ctx : Nat) : RoundTrip.Statement (.resume island ctx) := fun h => Bool.noConfusion h

theorem RoundTrip.restore (island : Nat) (ctx : Nat) : RoundTrip.Statement (.restore island ctx) := fun h => Bool.noConfusion h

theorem RoundTrip.restoreComplete (island : Nat) (ctx : Nat) : RoundTrip.Statement (.restoreComplete island ctx) := fun h => Bool.noConfusion h

theorem RoundTrip.terminate (island : Nat) (ctx : Nat) : RoundTrip.Statement (.terminate island ctx) := fun h => Bool.noConfusion h

theorem RoundTrip.release (island : Nat) (ctx : Nat) : RoundTrip.Statement (.release island ctx) := fun h => Bool.noConfusion h

theorem RoundTrip.unplace (island : Nat) (ctx : Nat) : RoundTrip.Statement (.unplace island ctx) := fun h => Bool.noConfusion h

theorem RoundTrip.progressBeat (island : Nat) (core : Nat) : RoundTrip.Statement (.progressBeat island core) := fun h => Bool.noConfusion h

theorem RoundTrip.heartbeat (island : Nat) (core : Nat) : RoundTrip.Statement (.heartbeat island core) := fun h => Bool.noConfusion h

theorem RoundTrip.teamPlacement (island : Nat) (ctx : Nat) : RoundTrip.Statement (.teamPlacement island ctx) := fun h => Bool.noConfusion h

theorem RoundTrip.create (queue : Nat) (base : DWord) (cfg : DWord) : RoundTrip.Statement (.create queue base cfg) := fun h => Bool.noConfusion h

theorem RoundTrip.enable (queue : Nat) : RoundTrip.Statement (.enable queue) := fun h => Bool.noConfusion h

theorem RoundTrip.drain (queue : Nat) : RoundTrip.Statement (.drain queue) := fun h => Bool.noConfusion h

theorem RoundTrip.reset (queue : Nat) : RoundTrip.Statement (.reset queue) := fun h => Bool.noConfusion h

theorem RoundTrip.destroy (queue : Nat) : RoundTrip.Statement (.destroy queue) := fun h => Bool.noConfusion h

theorem RoundTrip.qtailWrite (queue : Nat) (val : Word) : RoundTrip.Statement (.qtailWrite queue val) := fun h => Bool.noConfusion h

theorem RoundTrip.queuePacketRead : RoundTrip.Statement .queuePacketRead := fun h => Bool.noConfusion h

theorem RoundTrip.launch (queue : Nat) : RoundTrip.Statement (.launch queue) := fun h => Bool.noConfusion h

theorem RoundTrip.waitPacket (queue : Nat) : RoundTrip.Statement (.waitPacket queue) := fun h => Bool.noConfusion h

theorem RoundTrip.waitPacketTimeout (queue : Nat) : RoundTrip.Statement (.waitPacketTimeout queue) := fun h => Bool.noConfusion h

theorem RoundTrip.signal (queue : Nat) : RoundTrip.Statement (.signal queue) := fun h => Bool.noConfusion h

theorem RoundTrip.copy (queue : Nat) : RoundTrip.Statement (.copy queue) := fun h => Bool.noConfusion h

theorem RoundTrip.vcdefPacket (queue : Nat) : RoundTrip.Statement (.vcdefPacket queue) := fun h => Bool.noConfusion h

theorem RoundTrip.order (queue : Nat) : RoundTrip.Statement (.order queue) := fun h => Bool.noConfusion h

theorem RoundTrip.stamp (queue : Nat) : RoundTrip.Statement (.stamp queue) := fun h => Bool.noConfusion h

theorem RoundTrip.packetComplete (pkt : Nat) : RoundTrip.Statement (.packetComplete pkt) := fun h => Bool.noConfusion h

theorem RoundTrip.linkTrainingComplete (island : Nat) (port : Nat) (ints cas floats : Bool) (inner : Nat) : RoundTrip.Statement (.linkTrainingComplete island port ints cas floats inner) := fun h => Bool.noConfusion h

theorem RoundTrip.linkTrainingTimeout (island : Nat) (port : Nat) : RoundTrip.Statement (.linkTrainingTimeout island port) := fun h => Bool.noConfusion h

theorem RoundTrip.linkRetrainingTrigger (island : Nat) (trigger : LinkTrigger) : RoundTrip.Statement (.linkRetrainingTrigger island trigger) := fun h => Bool.noConfusion h

theorem RoundTrip.linkRelock (island : Nat) (port : Nat) : RoundTrip.Statement (.linkRelock island port) := fun h => Bool.noConfusion h

theorem RoundTrip.linkRetrainingTimeout (island : Nat) (port : Nat) : RoundTrip.Statement (.linkRetrainingTimeout island port) := fun h => Bool.noConfusion h

theorem RoundTrip.linkRetryTimer (island : Nat) (port : Nat) : RoundTrip.Statement (.linkRetryTimer island port) := fun h => Bool.noConfusion h

theorem RoundTrip.flitIdle (island : Nat) (port : Nat) (flit : List Byte) : RoundTrip.Statement (.flitIdle island port flit) := fun h => Bool.noConfusion h

theorem RoundTrip.flitRequest (island : Nat) (port : Nat) (flit : List Byte) (pkt : Option RemotePacket) : RoundTrip.Statement (.flitRequest island port flit pkt) := fun h => Bool.noConfusion h

theorem RoundTrip.flitResponse (island : Nat) (port : Nat) (flit : List Byte) (pkt : Option RemotePacket) : RoundTrip.Statement (.flitResponse island port flit pkt) := fun h => Bool.noConfusion h

theorem RoundTrip.flitNak (island : Nat) (port : Nat) (flit : List Byte) : RoundTrip.Statement (.flitNak island port flit) := fun h => Bool.noConfusion h

theorem RoundTrip.flitKeyControl (island : Nat) (port : Nat) (flit : List Byte) (msg : KeyMsg) : RoundTrip.Statement (.flitKeyControl island port flit msg) := fun h => Bool.noConfusion h

theorem RoundTrip.routerPacket (island : Nat) (k : Nat) : RoundTrip.Statement (.routerPacket island k) := fun h => Bool.noConfusion h

theorem RoundTrip.routeFailureNotice (island : Nat) (op : Nat) (part : Nat) : RoundTrip.Statement (.routeFailureNotice island op part) := fun h => Bool.noConfusion h

theorem RoundTrip.routeErrorNotice (island : Nat) (op : Nat) : RoundTrip.Statement (.routeErrorNotice island op) := fun h => Bool.noConfusion h

theorem RoundTrip.replacementRoute (src : Nat) (dst : Nat) (entry : Nat) (hops : List Nat) (alt : Bool) : RoundTrip.Statement (.replacementRoute src dst entry hops alt) := fun h => Bool.noConfusion h

theorem RoundTrip.routeEntryReuse (entry : Nat) : RoundTrip.Statement (.routeEntryReuse entry) := fun h => Bool.noConfusion h

theorem RoundTrip.keyRolloverStart (island : Nat) (port : Nat) (command : Bool) : RoundTrip.Statement (.keyRolloverStart island port command) := fun h => Bool.noConfusion h

theorem RoundTrip.keyExchangeRetry (island : Nat) (port : Nat) : RoundTrip.Statement (.keyExchangeRetry island port) := fun h => Bool.noConfusion h

theorem RoundTrip.rolloverRetire (island : Nat) (port : Nat) : RoundTrip.Statement (.rolloverRetire island port) := fun h => Bool.noConfusion h

theorem RoundTrip.keySlotExhausted (island : Nat) (port : Nat) : RoundTrip.Statement (.keySlotExhausted island port) := fun h => Bool.noConfusion h

theorem RoundTrip.xcellComplete (island : Nat) : RoundTrip.Statement (.xcellComplete island) := fun h => Bool.noConfusion h

theorem RoundTrip.pfenceDrainEnd (grp : Nat) (frag : Nat) : RoundTrip.Statement (.pfenceDrainEnd grp frag) := fun h => Bool.noConfusion h

theorem RoundTrip.remotePacketAtHome (island : Nat) : RoundTrip.Statement (.remotePacketAtHome island) := fun h => Bool.noConfusion h

theorem RoundTrip.remoteAck (island : Nat) : RoundTrip.Statement (.remoteAck island) := fun h => Bool.noConfusion h

theorem RoundTrip.remoteTimeout (island : Nat) (op : Nat) : RoundTrip.Statement (.remoteTimeout island op) := fun h => Bool.noConfusion h

theorem RoundTrip.rfenceHoldEnd (grp : Nat) (frag : Nat) : RoundTrip.Statement (.rfenceHoldEnd grp frag) := fun h => Bool.noConfusion h

theorem RoundTrip.waitnTimeout (grp : Nat) (frag : Nat) : RoundTrip.Statement (.waitnTimeout grp frag) := fun h => Bool.noConfusion h

theorem RoundTrip.bucketMessage (island : Nat) : RoundTrip.Statement (.bucketMessage island) := fun h => Bool.noConfusion h

theorem RoundTrip.bucketComplete (island : Nat) (bucket : Nat) : RoundTrip.Statement (.bucketComplete island bucket) := fun h => Bool.noConfusion h

theorem RoundTrip.bucketFailure (island : Nat) (bucket : Nat) (status : Nat) : RoundTrip.Statement (.bucketFailure island bucket status) := fun h => Bool.noConfusion h

theorem RoundTrip.bucketTimeout (island : Nat) (bucket : Nat) : RoundTrip.Statement (.bucketTimeout island bucket) := fun h => Bool.noConfusion h

theorem RoundTrip.specialFunctionEntryTaken (grp : Nat) (win : Nat) : RoundTrip.Statement (.specialFunctionEntryTaken grp win) := fun h => Bool.noConfusion h

theorem RoundTrip.specialFunctionResult (grp : Nat) (win : Nat) : RoundTrip.Statement (.specialFunctionResult grp win) := fun h => Bool.noConfusion h

theorem RoundTrip.feedTimeout (grp : Nat) (frag : Nat) : RoundTrip.Statement (.feedTimeout grp frag) := fun h => Bool.noConfusion h

theorem RoundTrip.selfCheckDone (ok0 : Bool) (ok1 : Bool) : RoundTrip.Statement (.selfCheckDone ok0 ok1) := fun h => Bool.noConfusion h

theorem RoundTrip.monitorPeriodicSample (island : Nat) (src : Nat) : RoundTrip.Statement (.monitorPeriodicSample island src) := fun h => Bool.noConfusion h

theorem RoundTrip.tileMoveRetire (grp : Nat) (op : Nat) : RoundTrip.Statement (.tileMoveRetire grp op) := fun h => Bool.noConfusion h

theorem RoundTrip.tprefLanding (grp : Nat) (op : Nat) : RoundTrip.Statement (.tprefLanding grp op) := fun h => Bool.noConfusion h

theorem RoundTrip.powerGood (found : BootFindings) : RoundTrip.Statement (.powerGood found) := fun h => Bool.noConfusion h

theorem RoundTrip.attestationRequest (nonce : List Byte) : RoundTrip.Statement (.attestationRequest nonce) := fun h => Bool.noConfusion h

theorem RoundTrip.claim (key : List Byte) : RoundTrip.Statement (.claim key) := fun h => Bool.noConfusion h

theorem RoundTrip.ownerKeyChange (add : Bool) (key : List Byte) (signer : List Byte) (sig : List Byte) : RoundTrip.Statement (.ownerKeyChange add key signer sig) := fun h => Bool.noConfusion h

theorem RoundTrip.peerKeyAdd (key : List Byte) (signer : List Byte) (sig : List Byte) : RoundTrip.Statement (.peerKeyAdd key signer sig) := fun h => Bool.noConfusion h

theorem RoundTrip.peerKeyRemove (key : List Byte) (signer : List Byte) (sig : List Byte) : RoundTrip.Statement (.peerKeyRemove key signer sig) := fun h => Bool.noConfusion h

theorem RoundTrip.panelNumberChange (number : Nat) (signer : List Byte) (sig : List Byte) : RoundTrip.Statement (.panelNumberChange number signer sig) := fun h => Bool.noConfusion h

theorem RoundTrip.fatalIslandEvent (island : Nat) : RoundTrip.Statement (.fatalIslandEvent island) := fun h => Bool.noConfusion h

theorem RoundTrip.registerPoison (grp : Nat) (kind : Nat) (reg : Nat) (lane : Nat) (sub : Nat) : RoundTrip.Statement (.registerPoison grp kind reg lane sub) := fun h => Bool.noConfusion h

theorem RoundTrip.digitResidueMismatch (grp : Nat) (frag : Nat) : RoundTrip.Statement (.digitResidueMismatch grp frag) := fun h => Bool.noConfusion h

theorem RoundTrip.arrayResidueMismatch (grp : Nat) (op : Nat) (tile : Nat) : RoundTrip.Statement (.arrayResidueMismatch grp op tile) := fun h => Bool.noConfusion h

theorem RoundTrip.frplayReplay (island : Nat) (token : Nat) : RoundTrip.Statement (.frplayReplay island token) := fun h => Bool.noConfusion h

theorem RoundTrip.frplayHandler (island : Nat) (token : Nat) : RoundTrip.Statement (.frplayHandler island token) := fun h => Bool.noConfusion h

theorem RoundTrip.frplayTerminate (island : Nat) (token : Nat) : RoundTrip.Statement (.frplayTerminate island token) := fun h => Bool.noConfusion h

theorem RoundTrip.frplayNone (island : Nat) (token : Nat) : RoundTrip.Statement (.frplayNone island token) := fun h => Bool.noConfusion h

theorem RoundTrip.bankFailure (island : Nat) (bank : Nat) (lost : List Nat) : RoundTrip.Statement (.bankFailure island bank lost) := fun h => Bool.noConfusion h

theorem RoundTrip.hbmUncorrectableError (island : Nat) (sector : Nat) : RoundTrip.Statement (.hbmUncorrectableError island sector) := fun h => Bool.noConfusion h

theorem RoundTrip.hostCxlMemAccess (port : Nat) (off : Nat) (write : Option (List Byte)) : RoundTrip.Statement (.hostCxlMemAccess port off write) := fun h => Bool.noConfusion h

theorem RoundTrip.hostBackInvalidation (island : Nat) (sector : Nat) (owned : Bool) : RoundTrip.Statement (.hostBackInvalidation island sector owned) := fun h => Bool.noConfusion h

theorem RoundTrip.hostCxlCacheSnoop (island : Nat) (sector : Nat) (take : Option (Nat × List Byte)) : RoundTrip.Statement (.hostCxlCacheSnoop island sector take) := fun h => Bool.noConfusion h

theorem RoundTrip.beatpWrite (island : Nat) (val : DWord) : RoundTrip.Statement (.beatpWrite island val) := fun h => Bool.noConfusion h

theorem RoundTrip.xcellSet (island : Nat) (row : Nat) (col : Nat) : RoundTrip.Statement (.xcellSet island row col) := fun h => Bool.noConfusion h

theorem RoundTrip.xcellReset (island : Nat) (row : Nat) (col : Nat) : RoundTrip.Statement (.xcellReset island row col) := fun h => Bool.noConfusion h

theorem RoundTrip.hpctlWrite (port : Nat) : RoundTrip.Statement (.hpctlWrite port) := fun h => Bool.noConfusion h

theorem RoundTrip.ncvalWrite (island : Nat) (val : DWord) : RoundTrip.Statement (.ncvalWrite island val) := fun h => Bool.noConfusion h

theorem RoundTrip.uncorrectableError (island : Nat) (struck : Struck) : RoundTrip.Statement (.uncorrectableError island struck) := fun h => Bool.noConfusion h

theorem RoundTrip.teamMemoryError (team : Nat) (tile : Option Nat) (word : Nat) (scrub : Bool) : RoundTrip.Statement (.teamMemoryError team tile word scrub) := fun h => Bool.noConfusion h

theorem RoundTrip.lockstepMismatch : RoundTrip.Statement .lockstepMismatch := fun h => Bool.noConfusion h

theorem RoundTrip.powerThrottle (island : Nat) : RoundTrip.Statement (.powerThrottle island) := fun h => Bool.noConfusion h

theorem RoundTrip.clockRecoveryStep (island : Nat) : RoundTrip.Statement (.clockRecoveryStep island) := fun h => Bool.noConfusion h

theorem RoundTrip.overTemperature (island : Nat) : RoundTrip.Statement (.overTemperature island) := fun h => Bool.noConfusion h

theorem RoundTrip.pwrlimWrite (island : Nat) (val : DWord) : RoundTrip.Statement (.pwrlimWrite island val) := fun h => Bool.noConfusion h

theorem RoundTrip.panelMonitorCfgWrite (mon : Nat) (val : DWord) : RoundTrip.Statement (.panelMonitorCfgWrite mon val) := fun h => Bool.noConfusion h

theorem RoundTrip.panelMonitorClrWrite (mon : Nat) : RoundTrip.Statement (.panelMonitorClrWrite mon) := fun h => Bool.noConfusion h

theorem RoundTrip.systemRegisterWrite (island : Nat) (num : Nat) (val : DWord) : RoundTrip.Statement (.systemRegisterWrite island num val) := fun h => Bool.noConfusion h

theorem RoundTrip.orderlyShutdown : RoundTrip.Statement .orderlyShutdown := fun h => Bool.noConfusion h

theorem RoundTrip.hostPortLinkChange (port : Nat) (up : Bool) : RoundTrip.Statement (.hostPortLinkChange port up) := fun h => Bool.noConfusion h

end Sys2Proof.Laws
end

