-- ==== Sys2Proof/Tests/Slice0.lean ====
section
/-! SUPPORT. Tests of the author: words written out from the spec decode to their instructions, ill-formed terms are
refused, single steps, and a witness for the hypotheses of each statement. -/

namespace Sys2Proof.Tests

open Sys2Proof Sys2Proof.Machine

set_option Elab.async false

/-! ## Decoding: words from the spec's own encodings and examples (R44 to R65, and each instruction's entry) -/

/-- Each one-word instruction is what the decoder reads from its word. -/
def reads32 (l : List (Nat × Instr)) : Bool := l.all fun p => decide (decodeTableWord 32 p.1 = some p.2)

/-- Each two-word instruction is what the decoder reads from its words, the first in the low bits. -/
def reads64 (l : List (Nat × Nat × Instr)) : Bool :=
  l.all fun p => decide (decodeTableWord 64 (p.1 + p.2.1 * 2 ^ 32) = some p.2.2)

theorem test_decode_lane_arithmetic : reads32
    [(0x00040C22, .iadd 0 4 6 8 2),
     (0x0081040C, .isub 0 1 2 3 0),
     (0x0102040D, .imul 0 2 2 3 1),
     (0x0183040E, .imulh 0 3 2 3 2),
     (0x0204040F, .imad 0 4 2 3 3),
     (0x0285040C, .imin 0 5 2 3 0),
     (0x0306040D, .imax 0 6 2 3 1),
     (0x0387040E, .iaddsat 0 7 2 3 2),
     (0x0408040F, .and 0 8 2 3 3),
     (0x0489040C, .or 0 9 2 3 0),
     (0x050A040D, .xor 0 10 2 3 1),
     (0x058B040E, .andn 0 11 2 3 2),
     (0x060C040F, .shl 0 12 2 3 3),
     (0x068D040C, .shr 0 13 2 3 0),
     (0x07351229, .icmp 0 3 5 9 10 1),
     (0x07840A23, .iun 0 4 5 8 3)] = true := by decide +kernel

theorem test_decode_lane_immediates : reads32
    [(0x08071100, .iaddi 0 7 8 0x100),
     (0x08830401, .andi 0 3 2 1),
     (0x090104FF, .ori 0 1 2 255),
     (0x098105FF, .xori 0 1 2 0x1FF),
     (0x0A01041F, .shli 0 1 2 31),
     (0x0A830E27, .shri 0 3 7 1 7),
     (0x0B1A0405, .icmpi 0 1 10 2 5),
     (0x0B110600, .icmpi 0 1 1 3 0),
     (0x0B85BEEF, .movl 0 5 0xBEEF),
     (0x0C05DEAD, .movh 0 5 0xDEAD),
     (0x0C81040E, .sel 0 1 2 3 2),
     (0x0E020000, .lanev 0 2),
     (0x0E98040C, .plog 0 1 8 2 3)] = true := by decide +kernel

theorem test_decode_cross_lane : reads32
    [(0x0D01040F, .shfl 0 1 2 3 3),
     (0x0D810181, .shfli 0 1 0 3 1),
     (0x0F210800, .vote 0 2 1 4),
     (0x0F030210, .voteBallot 0 1 4),
     (0x0F890400, .redux 0 9 2 0 0)] = true := by decide +kernel

theorem test_decode_floating_point : reads32
    [(0x1001040C, .fadd 0 1 2 3 0),
     (0x1081040D, .fsub 0 1 2 3 1),
     (0x1102081B, .fmul 0 2 4 6 3),
     (0x718A040C, .fma 3 10 2 3 0),
     (0x11840C22, .fma 0 4 6 8 2),
     (0x1201040C, .fmin 0 1 2 3 0),
     (0x1281040C, .fmax 0 1 2 3 0),
     (0x1301040C, .fdiv 0 1 2 3 0),
     (0x1392040C, .fcmp 0 1 2 2 3 0),
     (0x14040A0C, .funOp 0 4 5 3 0),
     (0x1481040C, .fscl 0 1 2 3 0),
     (0x15071080, .cvt 0 7 8 4 0 0),
     (0x15071081, .cvt 0 7 8 4 0 1),
     (0x15882020, .bqnt 0 8 16 4 0),
     (0x16181020, .bdq 0 24 8 4 0),
     (0x16800A00, .feedw 0 0 5 0 0),
     (0x17060200, .feedr 0 6 0 0)] = true := by decide +kernel

theorem test_decode_lane_memory : reads32
    [(0x18140A93, .ld 0 20 5 2 2 1 1),
     (0x18840AE6, .st 0 4 5 3 4 3 0),
     (0x19040A31, .ldt 0 4 5 6 1),
     (0x19840A10, .stt 0 4 5 2 0),
     (0x1B8C08C2, .acp16 0 12 4 3 2),
     (0x1C000AD5, .prf 0 5 3 2 2 1),
     (0x1C810414, .lda 0 1 2 0 2 2 0),
     (0x1D0105D6, .sta 0 1 2 7 2 3 0),
     (0x1D820020, .mma 0 0 2 0 0 1 0 0),
     (0x1E024000, .tld 0 0 2 4),
     (0x1E824000, .tst 0 0 2 4)] = true := by decide +kernel

theorem test_decode_uniform_arithmetic : reads32
    [(0x80011460, .uadd 0 1 5 6 0),
     (0x80421461, .usub 0 2 5 6 1),
     (0x80831462, .umul 0 3 5 6 2),
     (0x80C41463, .umulh 0 4 5 6 3),
     (0x81051460, .uand 0 5 5 6 0),
     (0x81461461, .uor 0 6 5 6 1),
     (0x81871462, .uxor 0 7 5 6 2),
     (0x81C81463, .ushl 0 8 5 6 3),
     (0x82091460, .ushr 0 9 5 6 0),
     (0x824A1461, .umin 0 10 5 6 1),
     (0x828B1462, .umax 0 11 5 6 2),
     (0x82C2146A, .ucmp 0 2 5 6 10),
     (0x83010835, .usel 0 1 2 3 5),
     (0xA34413FF, .uaddi 1 4 4 0x3FF),
     (0x83810A00, .uandi 0 1 2 0x200),
     (0x83DE17FF, .ucmpi 0 3 6 5 0x3FF),
     (0x84410883, .uun 0 1 2 8 3),
     (0x84810838, .clog 0 1 2 3 8),
     (0x8608FC30, .uld 0 8 63 0 3 0 0),
     (0x8648FC30, .ust 0 8 63 0 3 0 0),
     (0x868A1009, .uatom 0 10 4 0 0 2 0 1)] = true := by decide +kernel

theorem test_decode_control : reads32
    [(0x8803FFFC, .bra 0 0x3FFFC),
     (0x885C0005, .brc 0 3 1 5),
     (0x88B20000, .brp 0 6 0 0x20000),
     (0x88C05000, .brx 0 20),
     (0x89000007, .call 0 7),
     (0x89400000, .ret 0),
     (0x89800000, .exit 0),
     (0x89C00000, .yield 0),
     (0x8A000000, .nop 0),
     (0x8B400000, .tret 0),
     (0x8B800000, .tfence 0),
     (0x8A40003F, .wait 0 63),
     (0x8A8003FF, .sleep 0 1023),
     (0x8AC00007, .bpt 0 7),
     (0x8B000007, .trap 0 7),
     (0x8BC00204, .mfence 0 2 4),
     (0x8C000080, .rgrow 0 128),
     (0x8C400008, .rshrink 0 8)] = true := by decide +kernel

theorem test_decode_system : reads32
    [(0x8D188280, .trld 0 3 4 5),
     (0x8D4082C0, .trinv 0 4 5 1),
     (0x8D890C00, .rdsr 0 9 3),
     (0x8DC32400, .wrsr 0 3 9),
     (0x8E091500, .flgs 0 9 0x15),
     (0x8E091501, .flgsClr 0 9 0x15),
     (0x8E091502, .flgsSet 0 9 0x15)] = true := by decide +kernel

theorem test_decode_barrier_copy_tile_chain : reads32
    [(0x90008002, .binit 0 0 1 2),
     (0x9040A400, .barv 0 0 1 18 0),
     (0x90830900, .bexp 0 3 0 9),
     (0x9080CC18, .bexpImm 0 0 1 3096),
     (0x90C00A01, .bwait 0 0 0 5 1),
     (0x91020AC0, .btry 0 2 0 5 3),
     (0x91428000, .binv 0 2 1),
     (0x92046440, .tcopy 0 0 1 6 17),
     (0x9240A4C0, .tsto 0 0 0 10 19),
     (0x92884000, .tpref 0 1 0 4),
     (0x940881C0, .mmap 0 1 0 8 0 1 1 1 0),
     (0x94506000, .mmsc 0 16 24),
     (0x9480F000, .tzero 0 0 15),
     (0x94C65140, .tepi 0 3 10 1 1 0),
     (0x96100003, .chain 0 2 3)] = true := by decide +kernel

theorem test_decode_remote_queue_link : reads32
    [(0x98053000, .put 0 5 3),
     (0x98453000, .get 0 5 3),
     (0x9885327A, .ratom 0 5 3 9 14 1),
     (0x98C53000, .notify 0 5 3),
     (0x990B3001, .waitn 0 11 12 1),
     (0x99400000, .rfence 0),
     (0x99821800, .coll 0 2 6),
     (0x99C21800, .colw 0 2 6),
     (0x9A021050, .qpush 0 2 4 5),
     (0x9A420C00, .pfence 0 2 3),
     (0x9A420E00, .pfenceRel 0 2 3)] = true := by decide +kernel

theorem test_decode_cache_monitor : reads32
    [(0x9C020C00, .vcdef 0 2 3),
     (0x9C420C00, .vcrsz 0 2 3),
     (0x9C820C00, .vcret 0 2 3),
     (0x9CC61C00, .vcq 0 6 7),
     (0x9D041400, .vcwb 0 4 5 0 0),
     (0x9D441468, .vcinv 0 4 5 6 1),
     (0x9E050C20, .monr 0 5 3 1),
     (0x9E431000, .moncCfg 0 3 4),
     (0x9E430100, .moncClr 0 3),
     (0x9E430200, .moncRel 0 3)] = true := by decide +kernel

theorem test_decode_two_words : reads64
    [(0x84090000, 0x12345678, .umovi 0 9 0 0x12345678), (0x840A8000, 0x12345678, .umovi 0 10 2 0x12345678),
     (0x1A010410, 0x06005700, .atom 0 1 2 0 2 0 0 3 1 1 3 1), (0x1A810410, 0x06100600, .acas 0 1 2 0 2 0 0 3 4 0 3 0),
     (0x1B010411, 0x06020200, .atomt 0 1 2 2 1 3 8 0 1 0)] = true := by decide +kernel

/-- Words that are no instruction: a reserved opcode, TRET with a field set, ICMP condition 6, IUN sub-operation 9, a store of
SB, an atomic of SC at team scope, MOVL's neighbour with SEL's fields past their codes. -/
theorem test_decode_refuses : ([0x17800000, 0x8B7E0000, 0x07060000, 0x07850024, 0x18820428, 0x0E020004, 0x8DC00000 + 11 * 2 ^ 16,
    0x9608000F, 0x90000000, 0x84C00000] : List Nat).all (fun w => decide (decodeTableWord 32 w = none)) = true := by decide +kernel

theorem test_decode_truncated : decode [0x00, 0x00, 0x09, 0x84] = .error .truncated := by decide +kernel

/-! ## Well-formedness: one ill-formed term for each check -/

/-- Each term is refused. -/
def refused (l : List Instr) : Bool := l.all fun i => !wellFormed i

theorem test_ill_formed_lane : refused
    [.icmp 0 0 6 1 2 0, .iun 0 1 2 9 0, .iun 0 1 2 0 1, .icmpi 0 0 6 1 0, .icmpi 0 0 14 1 0, .vote 0 0 4 1, .redux 0 1 2 6 0,
     .fcmp 0 0 13 1 2 0, .fcmp 0 0 0 1 2 1, .funOp 0 1 2 10 0, .cvt 0 1 2 7 0 0, .cvt 0 1 2 3 3 0, .cvt 0 1 2 8 9 0,
     .feedw 0 0 1 7 0, .feedw 0 0 1 0 3, .feedw 0 1 1 1 0] = true := by decide

theorem test_ill_formed_memory : refused
    [.ld 0 1 2 0 7 0 0, .st 0 1 2 0 5 0 0, .ldt 0 1 2 7 0, .stt 0 1 2 6 0, .atom 0 1 2 0 4 0 0 3 0 0 0 0,
     .atom 0 1 2 0 2 1 0 3 0 0 0 0, .atom 0 1 2 0 2 0 0 3 0 0 5 0, .atom 0 1 2 0 2 0 0 3 0 0 2 1, .atom 0 1 2 0 2 0 0 3 14 0 0 0,
     .acas 0 1 2 0 1 0 0 3 4 0 0 0, .atomt 0 1 2 2 0 3 0 0 2 0, .prf 0 1 0 5 0 0, .lda 0 1 2 0 7 0 0, .sta 0 1 2 0 5 0 0,
     .mma 0 0 0 0 7 0 0 0] = true := by decide

theorem test_ill_formed_uniform : refused
    [.uadd 0 1 2 3 4, .usub 0 1 2 3 4, .umul 0 1 2 3 4, .umulh 0 1 2 3 4, .uand 0 1 2 3 4, .uor 0 1 2 3 4, .uxor 0 1 2 3 4,
     .ushl 0 1 2 3 4, .ushr 0 1 2 3 4, .umin 0 1 2 3 4, .umax 0 1 2 3 4, .ucmp 0 1 2 3 6, .umovi 0 1 3 0, .uun 0 1 2 9 0,
     .uun 0 1 2 0 1, .uld 0 1 2 0 7 0 0, .ust 0 1 2 0 5 0 0, .uatom 0 1 2 15 0 2 0 0, .uatom 0 1 2 0 0 1 1 0] = true := by decide

theorem test_ill_formed_control : refused
    [.wait 0 64, .mfence 0 3 0, .mfence 0 0 5, .rgrow 0 0, .rshrink 0 9, .rdsr 0 1 11, .wrsr 0 22 1, .binit 0 0 0 0,
     .mmap 0 0 0 0 0 0 1 0 7, .mmap 0 0 0 0 0 1 0 0 0, .tepi 0 0 0 6 0 0, .tepi 0 0 0 5 1 0, .chain 0 0 0, .chain 0 1 4,
     .ratom 0 0 0 0 15 0, .ratom 0 0 0 1 0 0, .vcwb 0 0 0 1 0, .vcinv 0 0 0 1 0, .monr 0 0 0 5] = true := by decide

/-! ## Single steps

The machine is the smallest program's: one group alone in its context, its text at physical barePage. Each expected value is
the spec's own, from the example or the rule named. -/

/-- The group's vector registers, each holding one word in every lane. -/
def vRegs (l : List (Nat × Word)) : Regs := { v := l.map fun p => (p.1, List.replicate 64 p.2) }

/-- The group's scalar registers. -/
def sRegs (l : List (Nat × DWord)) : Regs := { s := l }

/-- The machine with its one group as f leaves it. -/
def machine (f : Group → Group) : State := { bare State.reset with groups := [(0, f bareGroup)] }

def withR (r : Regs) : State := machine fun g => { g with regs := r }

/-- A program with a handler. -/
def withHandler (r : Regs) : State := machine fun g => { g with regs := r, ident := { g.ident with handlerPc := some 0x400 } }

/-- The group after one step that fetches a word. -/
def run (s : State) (w : Nat) : Group := match step (s.withFetchWord 32 w) with
  | .next t => grpOf t 0
  | _ => {}

/-- The machine after one step that fetches a word. -/
def after (s : State) (w : Nat) : State := match step (s.withFetchWord 32 w) with
  | .next t => t
  | _ => {}

/-- V[r] in a lane after one step. -/
def v (g : Group) (r l : Nat) : Word := readV g.regs r l

/-- R105: IADD.I64 V4, V6, V8 carries into the high word. -/
theorem test_iadd_i64 : let g := run (withR (vRegs [(6, 0), (7, 0xFFFFFFFF), (8, 0), (9, 1)])) 0x00040C22
    (v g 4 0, v g 5 0) = (0, 0) := by decide +kernel

theorem test_iadd_carries : let g := run (withR (vRegs [(6, 0xFFFFFFFF), (7, 0), (8, 1), (9, 0)])) 0x00040C22
    (v g 4 3, v g 5 3) = (0, 1) := by decide +kernel

/-- R105: IADDSAT.N32 V1, V2, V3 saturates; under I32 the operands are −16 and 32. -/
theorem test_iaddsat : let s := withR (vRegs [(2, 0xFFFFFFF0), (3, 0x20)])
    v (run s 0x0381040D) 1 0 = 0xFFFFFFFF ∧ v (run s 0x0381040C) 1 0 = 16 := by decide +kernel

/-- R108: SHRI.A V3, V7, 7. -/
theorem test_shri : v (run (withR (vRegs [(7, 0x80000100)])) 0x0A830E27) 3 15 = 0xFF000002 := by decide +kernel

/-- R112: MOVH over what MOVL left. -/
theorem test_movh : v (run (withR (vRegs [(5, 0xBEEF)])) 0x0C05DEAD) 5 0 = 0xDEADBEEF := by decide +kernel

/-- A fragment of part of the group: lanes 0 to n − 1. -/
def part (n : Nat) (r : Regs) : State :=
  machine fun g => { g with regs := r, frags := [{ mask := BitVec.ofNat 64 (2 ^ n - 1), pc := 0x100, slot := 0 }] }

/-- R116: SHFLI.XOR V1, V0, 1 by lanes 0 to 4: lane 4 keeps its own, and XLFLAG is set. -/
theorem test_shfli : let g := run (part 5 { v := [(0, [10, 11, 12, 13, 14, 15])] }) 0x0D810181
    ((List.range 6).map (v g 1), g.special.xlflag) = ([11, 10, 13, 12, 14, 0], 1) := by decide +kernel

/-- R118: REDUX.ADD.I32 V9, V2 with V2 = lane + 1, of a full W16 group, and of its lanes 0 to 7. -/
theorem test_redux : let r : Regs := { v := [(2, (List.range 16).map fun l => BitVec.ofNat 32 (l + 1))] }
    v (run (withR r) 0x0F890400) 9 15 = 136 ∧ (run (withR r) 0x0F890400).special.xlflag = 0
    ∧ v (run (part 8 r) 0x0F890400) 9 7 = 36 ∧ v (run (part 8 r) 0x0F890400) 9 8 = 0 := by decide +kernel

/-- R131: FADD.F32 of 1.0 and 2^−24 under RNE and RU, NX raised. -/
theorem test_fadd : let r := vRegs [(2, 0x3F800000), (3, 0x33800000)]
    let up := machine fun g => { g with regs := r, special := { fpctl := 2 } }
    v (run (withR r) 0x1001040C) 1 0 = 0x3F800000 ∧ (run (withR r) 0x1001040C).special.flags = 1
    ∧ v (run up 0x1001040C) 1 0 = 0x3F800001 := by decide +kernel

/-- R131: FDIV.F32 of 1.0 by +0, and of +0 by +0. -/
theorem test_fdiv : let z := run (withR (vRegs [(2, 0x3F800000)])) 0x1301040C
    let n := run (withR {}) 0x1301040C
    (v z 1 0, z.special.flags, v n 1 0, n.special.flags) = (0x7F800000, 8, 0x7FC00000, 16) := by decide +kernel

/-- R132: FMIN.F32 of +0 and −0; FMAX.F32 of a signalling NaN and −3.0. -/
theorem test_fmin_fmax : let g := run (withR (vRegs [(2, 0x7F800001), (3, 0xC0400000)])) 0x1281040C
    v (run (withR (vRegs [(3, 0x80000000)])) 0x1201040C) 1 0 = 0x80000000
    ∧ (v g 1 0, g.special.flags) = (0xC0400000, 16) := by decide +kernel

/-- R134: FSCL.F32 of 1.5 by −130, exact, and by −150, which underflows. -/
theorem test_fscl : let a := run (withR (vRegs [(2, 0x3FC00000), (3, 0xFFFFFF7E)])) 0x1481040C
    let b := run (withR (vRegs [(2, 0x3FC00000), (3, 0xFFFFFF6A)])) 0x1481040C
    (v a 1 0, a.special.flags, v b 1 0, b.special.flags) = (0x000C0000, 0, 1, 3) := by decide +kernel

/-- R136: FUN.CLASS.F16X2 of the smallest positive subnormal and −∞. -/
theorem test_class : v (run (withR (vRegs [(5, 0xFC000001)])) 0x14040A25) 4 0 = 0x00040080 := by decide +kernel

/-- R138: CVT.E4M3.F32 of 470.0, without and with SAT: OF and NX. -/
theorem test_cvt : let s := withR (vRegs [(8, 0x43EB0000)])
    (v (run s 0x15071080) 7 0, (run s 0x15071080).special.flags, v (run s 0x15071081) 7 0) = (0x7F, 5, 0x7E) := by decide +kernel

/-- R123, R125: UADDI wraps; UMOVI's second word is its immediate. -/
theorem test_uaddi : readS (run (withR (sRegs [(4, 0)])) 0xA34413FF).regs 4 = 0xFFFFFFFFFFFFFFFF := by decide +kernel

theorem test_umovi_hi :
    (match step ((withR (sRegs [(10, 0x9ABCDEF0)])).withFetchWord 64 (0x840A8000 + 0x12345678 * 2 ^ 32)) with
      | .next t => (readS (grpOf t 0).regs 10, (grpOf t 0).frags.map (·.pc))
      | _ => (0, [])) = (0x123456789ABCDEF0, [0x108]) := by decide +kernel

/-- R320, R322: TRAP 7 enters the handler with INFO 7, TSPC the address after it. -/
theorem test_trap : let g := run (withHandler {}) 0x8B000007
    (g.special.tcause, g.special.tspc, g.special.tmask, g.hmode, g.frags.map (·.pc)) = (7 * 2 ^ 32, 0x104, 0xFFFF, true, [0x400]) := by
  decide +kernel

/-- R193: BRX S20 with S20 = 0x401002 takes ALIGN at its own PC. -/
theorem test_brx_align : let g := run (withHandler (sRegs [(20, 0x401002)])) 0x88C05000
    (g.special.tcause, g.special.tspc) = (0x108, 0x100) := by decide +kernel

/-- R63: a reserved opcode takes ILLEGAL, STATUS 0x00. R62: VCDEF by a program takes PRIV. -/
theorem test_illegal_priv : (run (withHandler {}) 0x17800000).special.tcause = 1
    ∧ (run (withHandler {}) 0x9C020C00).special.tcause = 2 := by decide +kernel

/-- R326: TRET resumes TMASK's lanes at TSPC and the others of the handler set after it. -/
theorem test_tret : let g := run (machine fun g => { g with
      hmode := true, hset := 0xFFFF, special := { tspc := 0x200, tmask := 0x00FF, tstat := gstat bareGroup }
      frags := [{ mask := 0xFFFF, pc := 0x100, slot := 0, handler := true }] }) 0x8B400000
    (g.hmode, g.frags.map fun f => (f.mask, f.pc)) = (false, [(0x00FF, 0x200), (0xFF00, 0x204)]) := by decide +kernel

/-- R36: FPCTL keeps its writable bits. -/
theorem test_wrsr : (run (withR (sRegs [(9, 0xFFFFFFFFFFFFFFFF)])) 0x8DC32400).special.fpctl = 0x1F03 := by decide +kernel

/-- T0 with a base, rights to read, write and all of the page. -/
def t0 (base : DWord) : Tbl TReg := [(0, { e := false, base := base, rights := 0xFF, limit := 0 }), (1, {})]

/-- A program whose T0 stands at virtual address 0x1000, lane l's offset in V5 being 4 l. -/
def memory (r : Regs) : State := withHandler { r with
  v := r.v ++ [(5, (List.range 16).map fun l => BitVec.ofNat 32 (4 * l))], t := t0 0x1000 }

/-- R303: STT.W V4, [V5] stores each lane's word in team memory, little-endian. -/
theorem test_store_team : let t := after (memory { v := [(4, (List.range 16).map fun l => BitVec.ofNat 32 (0x01020300 + l))] }) 0x19840A10
    memBytes (teamOf t 0).mem 4 4 = [1, 3, 2, 1] ∧ memBytes (teamOf t 0).mem 0x3C 5 = [15, 3, 2, 1, 0] := by decide +kernel

/-- R303: LDT.SH V4, [V5] returns each lane's half, sign-extended, when it completes. -/
theorem test_load_team : let s := memory {}
    let s := modTeam s 0 fun t => { t with mem := [(4, 0xFE), (5, 0xFF)] }
    ((grpOf (after s 0x19040A30) 0).ops.flatMap fun o => (o.writes.take 2).map (·.val)) = [0, 0xFFFFFFFE] := by decide +kernel

/-- R297: LD.W V20, [T0+V6] with lane 2 misaligned takes ALIGN naming it. -/
theorem test_load_align : (run (memory { v := [(4, []), (6, [])] }) 0x18140A10).special.tcause = 0
    ∧ (run (withHandler { v := [(6, [0, 4, 6, 9])], t := t0 0x1000 }) 0x18140C10).special.tcause = 0x820108 := by decide +kernel

/-- R306, R308: ATOMT.ADD.W V4, V6, [V5] performs lane after lane: sixteen lanes at one address add 3 each. -/
theorem test_atomic_team : let s := withR (vRegs [(5, 8), (6, 3)])
    let s := modTeam s 0 fun t => { t with mem := [(8, 10)] }
    (match step (s.withFetchWord 64 (0x1B040A10 + 0x0C000000 * 2 ^ 32)) with
      | .next t => (memNat (teamOf t 0).mem 8 4, (grpOf t 0).ops.flatMap fun o => (o.writes.drop 14).map (·.val))
      | _ => (0, [])) = (58, [52, 55]) := by decide +kernel

/-- R216, R217: BINIT B0, 2 arms; BARV B0, S5 lowers REMAIN and gives the phase. -/
theorem test_barrier : let b := barOf (after (withHandler {}) 0x90000002) 0 0
    let s := setBar (withHandler {}) 0 0 { state := .armed, expect := 2, remain := 2, ph := 7 }
    let t := match decodeTableWord 32 0x90400A00 with
      | some i => (match exec i { s with cur := some { grp := 0, frag := 0 } } with
        | .next t => t
        | _ => {})
      | none => {}
    (b.state, b.expect, b.remain) = (.armed, 2, 2) ∧ ((barOf t 0 0).remain, readS (grpOf t 0).regs 5) = (1, 7) := by decide +kernel

/-- R428: MONC.CFG 3, S4 with S4 = 0x2801: SRC 1, SH 5. -/
theorem test_monc : let m := monitorOf (after (withHandler (sRegs [(4, 0x2801)])) 0x9E431000) 0 3
    (m.src, m.sh, m.base, m.min, m.owner) = (1, 5, 0, 0xFFFFFFFF, 0) := by decide +kernel

/-- R425: the four samples of R429's example. -/
theorem test_samples : let m := [24, 24, 60, 500].foldl enterSample ({ src := 1, sh := 5 } : Monitor)
    (m.min, m.max, m.count, m.sum, m.bins) = (24, 500, 4, 608, [(0, 2), (1, 1), (15, 1)]) := by decide +kernel

/-- R23, R451: of sites 0, 1 and 3 only 0 and 1 are joined: N is 2, and 3 is unreachable. -/
theorem test_numbering :
    let v : Survey := { store := { populated := [0, 1, 3] }, found := { links := [(0, 1), (1, 3)] } }
    numbering v = [0, 1] ∧ siteAfter v [0, 1] 3 = { state := .quarantined }
    ∧ siteAfter v [0, 1] 1 = { state := .ready, logical := some 1 } := by decide +kernel

/-! ## Witnesses

For the hypotheses of each statement, a concrete machine and operands that meet them together. -/

/-- The smallest program's machine, its fragment issuing, its group as f leaves it. -/
def live (f : Group → Group) : State := { machine f with cur := some { grp := 0, frag := 0 } }

def liveR (r : Regs) : State := live fun g => { g with regs := r }

/-- A privileged group. -/
def livePriv (r : Regs) : State := live fun g => { g with regs := r, ident := { g.ident with priv := true } }

/-- The checks of `Ready`, as one truth value. -/
def readyB (i : Instr) (s : State) (cx : Cx) : Bool :=
  let fm := formOf i s cx
  issuing s = some cx && (!fm.priv || privileged cx.g.ident) && !fm.bad0 cx && !fm.bad cx
    && !pendingIn cx.g (readElems fm cx ++ writeElems fm cx)
    && (!cx.g.ident.sbchk || decide (scoreReady cx.g (issueClock s cx) (readElems fm cx) ≤ issueClock s cx))
    && (!fm.conv || decide (meet cx = .go)) && decide (firstPoison fm cx = none)

/-- The instruction is clear to issue, and the condition holds. -/
def meets (i : Instr) (s : State) (c : State → Cx → Bool) : Bool :=
  match issuing s with
  | some cx => readyB i s cx && c s cx
  | none => false

theorem of_meets {i : Instr} {s : State} {c : State → Cx → Bool} (h : meets i s c = true) :
    ∃ cx, Ready i s cx ∧ c s cx = true := by
  unfold meets at h
  split at h
  · rename_i cx hc
    simp only [readyB, Bool.and_eq_true, decide_eq_true_eq, Bool.or_eq_true, Bool.not_eq_true'] at h
    obtain ⟨⟨⟨⟨⟨⟨⟨⟨h1, h2⟩, h3⟩, h4⟩, h5⟩, h6⟩, h7⟩, h8⟩, h9⟩ := h
    exact ⟨cx, ⟨h1, fun k => by simpa [k] using h2, h3, h4, h5, fun k => by simpa [k] using h6,
      fun k => by simpa [k] using h7, h8⟩, h9⟩
  · simp at h

/-- Each instruction is clear to issue on the machine. -/
def allReady (l : List Instr) (s : State) : Bool := l.all fun i => meets i s fun _ _ => true

/-- The issuing fragment's view of a machine. -/
def view (s : State) : Cx := (issuing s).getD { key := 0, ix := 0, g := {}, f := {} }

theorem witness_DecodeEncode : hasWords (.iadd 3 127 126 0 3) = true ∧ wellFormed (.iadd 3 127 126 0 3) = true := by decide

theorem witness_EncodeDecode : decode [0x22, 0x0C, 0x04, 0x00, 0x77] = .ok (.iadd 0 4 6 8 2, [0x77]) := by decide +kernel

/-- A one-word and a two-word instruction fetched, an event that is due, and an event in its turn. -/
theorem witness_StepRunsDecoded :
    let fetches := fun (s : State) => if (lateBarrier (passTime s)).isSome || (view s).f.due.isSome then 0 else match chooseStep (passTime s) with
      | .issuer c => match issuing { passTime s with cur := some c } with
        | some cx => match fetchWord { passTime s with cur := some c } cx cx.f.pc with
          | .ok s1 b => match decode b with
            | .ok (_, []) => 1
            | .error .truncated => match fetchWord s1 cx (pcAdd cx.f.pc 4) with
              | .ok _ b' => match decode (b ++ b') with
                | .ok (_, []) => 2
                | _ => 0
              | _ => 0
            | _ => 0
          | _ => 0
        | none => 0
      | _ => 0
    fetches ((withR {}).withFetchWord 32 0x8A000000) = 1
    ∧ fetches ((withR {}).withFetchWord 64 (0x84090000 + 5 * 2 ^ 32)) = 2
    ∧ ({ withR {} with agenda := [.place 0 0] } : State).agenda ≠ [] ∧ lateBarrier (passTime { withR {} with agenda := [.place 0 0] }) = none
    ∧ chooseStep (passTime { machine fun g => { g with ops := [{ id := 0, cls := .load }] } with tick := 7 })
      = .event (.loadReturn 0 0) := by decide +kernel

/-- A barrier 10 µs past its time-out: no time is left to pass. -/
def lateTeam : State := modTeam (withR {}) 0 fun t => { t with bars := [(1, { state := .armed, remain := 1, timer := 1010000 })] }

theorem witness_StepRunsDecoded_late : lateBarrier (passTime lateTeam) = some (.barrierTimeout 0 1) := by
  have h : ∀ n, timeRoom lateTeam n = 0 := fun n => by
    have e : timeRoom lateTeam n = min n 0 := by rfl
    simp [e]
  unfold passTime
  simp only [h]
  decide +kernel

theorem witness_StepAlwaysAnswers : (issuing (liveR {})).isSome = true ∧ hasWords (.place 0 0) = false
    ∧ ∃ s : State, ∀ i rest, s.agenda = i :: rest → hasWords i = false :=
  ⟨by decide +kernel, by decide, State.reset, fun i rest h => by cases h⟩

/-- A byte of host memory listed. -/
def oneByte : State := { State.reset with hostMem := [(5, 1)] }

theorem witness_MemoryFormKept : MemoryOk oneByte ∧ ∃ t, step oneByte = .next t := by
  refine ⟨⟨by decide, by simp [oneByte, State.reset], by simp [oneByte, State.reset]⟩, ?_⟩
  have h : (match step oneByte with | .next _ => true | _ => false) = true := by decide +kernel
  split at h
  · exact ⟨_, ‹_›⟩
  · simp at h

theorem witness_PrivilegedEncodings : issuing (liveR {}) = some (view (liveR {})) ∧ privilegedEncoding (.vcdef 0 1 2) = true
    ∧ (view (liveR {})).g.ident.priv = false ∧ privilegedEncoding (.iadd 0 70 1 2 0) = false
    ∧ gate (formOf (.iadd 0 70 1 2 0) (liveR {}) (view (liveR {}))) (liveR {}) (view (liveR {})) = .fault { cls := 0x01, status := 1 }
    ∧ hasWords (.iadd 0 70 1 2 0) = true ∧ (∀ st a, (.iadd 0 70 1 2 0 : Instr) ≠ .wrsr st 4 a)
    ∧ (view (liveR {})).g.trapReq = none ∧ (view (liveR {})).g.held = [] ∧ NotPriv (view (liveR {})).g.special.tcause
    ∧ (match exec (.iadd 0 70 1 2 0) (liveR {}) with | .next _ => true | _ => false) = true := by
  refine ⟨by decide +kernel, by decide +kernel, by decide +kernel, by decide +kernel, by decide +kernel, by decide, by simp,
    by decide +kernel, by decide +kernel, by unfold NotPriv; decide +kernel, by decide +kernel⟩

/-- An operation under way that writes V1. -/
def busyV1 : FlightOp := { id := 0, cls := .load, writes := [{ elem := .v 1 0, val := 0 }] }

/-- A fragment of the lower eight lanes. -/
def lower : Frag := { mask := 0xFF, pc := 0x100, slot := 0 }

/-- Each clause of the order: PRIV, the two ILLEGALs, results still to come, STALLCHK, CONVERGE and its wait, REGPOISON. -/
theorem witness_IssueOrder :
    let fm := fun (i : Instr) (s : State) => formOf i s (view s)
    let s := liveR {}
    let p := live fun g => { g with ops := [busyV1] }
    let l := live fun g => { g with ident := { g.ident with sbchk := true }, score := [{ reg := .v 1 0, mask := 0xFFFF, ready := 9 }] }
    let e := live fun g => { g with frags := [lower], exitedLanes := 0xFF00 }
    let w := live fun g => { g with frags := [lower, { mask := 0xFF00, pc := 0x80, slot := 1 }] }
    let b := liveR { badV := [(1, { lo := 1 })] }
    let add : Instr := .iadd 0 2 1 1 0
    ([s, p, l, e, w, b].all fun s => decide (issuing s = some (view s))) = true
    ∧ (fm (.vcdef 0 1 2) s).priv = true ∧ (fm (.rdsr 0 1 11) s).bad0 (view s) = true ∧ (fm (.iadd 0 70 1 2 0) s).bad (view s) = true
    ∧ pendingIn (view p).g (readElems (fm add p) (view p)) = true
    ∧ scoreReady (view l).g (issueClock l (view l)) (readElems (fm add l) (view l)) > issueClock l (view l)
    ∧ (fm (.mma 0 0 0 0 0 1 0 0) e).conv = true ∧ meet (view e) = .fault 1 ∧ meet (view w) = .wait
    ∧ (firstPoison (fm add b) (view b)).isSome = true := by decide +kernel

theorem witness_IssueOrder_plain : plainIssue (.vcdef 0 1 2) ∧ plainIssue (.rdsr 0 1 11) ∧ plainIssue (.iadd 0 70 1 2 0)
    ∧ plainIssue (.mma 0 0 0 0 0 1 0 0) := by simp [plainIssue, hasWords]

theorem witness_IssueClock : fixedLane (.iadd 0 2 1 1 0) = true ∧ fixedUniform (.uadd 0 2 1 1 0) = true
    ∧ issuing (liveR {}) = some (view (liveR {})) ∧ hardwired (.v 2 0) = false := by decide +kernel

theorem witness_IntegerRaisesNoFlags : integerChapter (.iadd 0 2 1 1 0) = true ∧ allReady [.iadd 0 2 1 1 0] (liveR {}) = true
    ∧ (match exec (.iadd 0 2 1 1 0) (liveR {}) with | .next _ => true | _ => false) = true := by decide +kernel

theorem witness_HardWiredRegisters : readS (writeS {} 62 5) 62 = 5 ∧ readC (writeC {} 6 true) 6 = true
    ∧ inMask (readP (writeP {} 6 0xFFFF 0x8000) 6) 15 = true ∧ readV (writeV {} 127 0x8000 fun l => BitVec.ofNat 32 l) 127 15 = 15
    ∧ readT (writeT {} 7 { limit := 9 }) 7 = { limit := 9 } := by decide +kernel

theorem witness_LaneTwoOperandResults : allReady
    [.iadd 0 1 2 3 0, .isub 0 4 4 6 2, .imul 0 1 2 3 1, .imulh 0 4 6 8 3, .imad 0 1 1 1 0, .imin 0 1 2 3 1, .imax 0 1 2 3 0,
     .iaddsat 0 62 60 58 2, .and 0 1 2 3 0, .or 0 1 2 3 0, .xor 0 1 2 3 0, .andn 0 1 2 3 0, .shl 0 1 2 3 0, .shr 0 63 0 63 1]
    (liveR {}) = true := by decide +kernel

theorem witness_LaneOneOperandResults : allReady
    [.iun 0 1 2 8 0, .iaddi 0 1 2 0x100, .andi 0 1 2 1, .ori 0 1 2 1, .xori 0 1 2 1, .shli 0 1 2 31, .shri 0 1 2 0 31, .shri 0 1 2 1 0,
     .icmp 0 1 5 2 3 0, .icmp 0 7 0 2 4 3, .icmpi 0 1 5 2 0x1FF, .icmpi 0 1 7 2 0, .icmpi 0 1 8 2 0, .icmpi 0 1 13 2 0x1FF, .movl 0 1 0xFFFF,
     .movh 0 63 1, .sel 0 1 2 3 3, .lanev 0 0, .plog 0 7 15 0 7] (liveR {}) = true := by decide +kernel

theorem witness_CrossLaneResults : allReady
    [.shfl 0 1 2 3 0, .shfl 0 1 2 3 3, .shfli 0 1 2 1 63, .vote 0 1 0 2, .vote 0 1 1 2, .vote 0 7 2 7, .voteBallot 0 1 62,
     .redux 0 1 2 0 0, .redux 0 1 2 1 1, .redux 0 4 2 2 2, .redux 0 4 2 3 3, .redux 0 1 2 4 0, .redux 0 1 2 5 0] (liveR {}) = true := by
  decide +kernel

theorem witness_FloatResults : allReady
    [.fadd 0 1 2 3 0, .fsub 0 1 2 3 1, .fmul 0 2 4 6 3, .fma 0 1 2 3 2, .fdiv 0 1 2 3 0, .fmin 0 1 2 3 0, .fmax 0 62 60 58 3,
     .fcmp 0 1 12 2 3 0, .fscl 0 2 4 5 3, .funOp 0 1 2 9 3, .funOp 0 1 2 8 0, .funOp 0 2 4 0 3, .cvt 0 2 1 3 0 0, .cvt 0 1 2 0 3 1]
    (liveR {}) = true := by decide +kernel

theorem witness_UniformResults : allReady
    [.uadd 0 1 2 3 0, .usub 0 63 2 3 1, .umul 0 1 2 3 2, .umulh 0 1 2 3 3, .uand 0 1 2 3 0, .uor 0 1 2 3 0, .uxor 0 1 2 3 0,
     .ushl 0 1 2 3 0, .ushr 0 1 2 3 0, .umin 0 1 2 3 0, .umax 0 62 63 3 0, .ucmp 0 7 2 3 13, .usel 0 1 2 3 7, .uaddi 0 1 2 0x200,
     .uandi 0 1 2 1, .ucmpi 0 1 5 2 1, .ucmpi 0 1 6 2 1, .ucmpi 0 1 7 2 1, .umovi 0 1 0 1, .umovi 0 1 1 1, .umovi 0 1 2 1,
     .uun 0 1 2 8 3, .clog 0 6 7 0 15] (liveR {}) = true := by decide +kernel

/-! ### Accesses -/

/-- The checks of a global access pass, with every address translated. -/
def passB (w : Want) (rs : Cx → List Req) (s : State) (cx : Cx) : Bool :=
  match checkGlobal s cx w (rs cx) with
  | .go _ (_ :: _) [] => true
  | _ => false

/-- Lane l's offset in V4 is 16 l, in V6 to V9 its data; S8 holds an address of its own. -/
def memRegs : Regs :=
  { v := [(4, (List.range 16).map fun l => BitVec.ofNat 32 (16 * l)), (6, List.replicate 64 7)], s := [(8, 0x2000)], t := [(0, {})] }

theorem witness_LoadStoreResults :
    meets (.ld 0 8 4 0 5 3 0) (liveR memRegs) (passB { acc := .read, n := 1, q := 3 } fun cx => laneReqs cx 4 0 0 1) = true
    ∧ meets (.lda 0 8 4 0 4 2 0) (liveR memRegs) (passB { acc := .read, n := 16, scope := some 3, acq := true } fun cx => laneReqs cx 4 0 0 16) = true
    ∧ meets (.uld 0 4 8 0 6 0 0) (liveR memRegs) (passB { acc := .read, n := 2 } fun cx => [uniReq cx 8 0 0 2]) = true
    ∧ meets (.uld 0 4 8 0 4 0 0) (liveR memRegs) (passB { acc := .read, n := 16 } fun cx => [uniReq cx 8 0 0 16]) = true := by
  decide +kernel

theorem witness_LoadStoreResults_store :
    meets (.st 0 8 4 0 4 0 0) (liveR memRegs) (passB { acc := .write, n := 16 } fun cx => laneReqs cx 4 0 0 16) = true
    ∧ meets (.sta 0 8 4 0 0 3 0) (liveR memRegs) (passB { acc := .write, n := 1, scope := some 4, rel := true } fun cx => laneReqs cx 4 0 0 1) = true
    ∧ meets (.ust 0 4 8 0 3 1 0) (liveR memRegs) (passB { acc := .write, n := 8, q := 1 } fun cx => [uniReq cx 8 0 0 8]) = true := by
  decide +kernel

/-- The checks pass, and the hits meet the condition. -/
def hitsB (w : Want) (rs : Cx → List Req) (c : State → Cx → List Hit → Bool) (s : State) (cx : Cx) : Bool :=
  match checkGlobal s cx w (rs cx) with
  | .go s1 (h :: hs) [] => c s1 cx (h :: hs)
  | _ => false

/-- The hits set no D bit, so they lie apart from the entries walked; the last one's bytes are covered by none after it, its own
clear of the byte before it. -/
theorem witness_LoadStoreResults_bytes :
    let clean := fun (_ : State) (cx : Cx) (hs : List Hit) =>
      (tblGet? (liveR memRegs).islands cx.g.ident.island).isSome && hs.all fun h => h.loc.dirtyAt.isNone && h.loc.phys + 16 ≤ hostBase
        && decide (barePage - 1 < h.loc.phys)
    meets (.st 0 8 4 0 4 0 0) (liveR memRegs) (hitsB { acc := .write, n := 16 } (fun cx => laneReqs cx 4 0 0 16) clean) = true
    ∧ meets (.st 0 8 4 0 4 1 0) (liveR memRegs) (hitsB { acc := .write, n := 16, q := 1 } (fun cx => laneReqs cx 4 0 0 16) clean) = true
    := by decide +kernel

/-- The last bytes of the team's memory. -/
def teamRegs : Regs := { v := [(4, (List.range 16).map fun l => BitVec.ofNat 32 (4096 - 16 * (l + 1)))] }

theorem witness_TeamAccessResults :
    meets (.ldt 0 8 4 4 0) (liveR teamRegs) (fun s cx => checkTeam s cx 16 false (teamAddrs cx 4 0 16) = none) = true
    ∧ meets (.stt 0 8 4 4 0) (liveR teamRegs) (fun s cx => checkTeam s cx 16 true (teamAddrs cx 4 0 16) = none) = true
    ∧ (teamOf (liveR {}) 0).dead = [] := by decide +kernel

theorem witness_AtomicResults :
    meets (.atom 0 8 4 0 3 0 0 6 13 3 4 0) (liveR memRegs) (passB { acc := .atomic, n := 8, scope := some 4, rel := true, acq := true } fun cx => laneReqs cx 4 0 0 8) = true
    ∧ meets (.acas 0 8 4 0 2 3 0 6 7 0 0 0) (liveR memRegs) (passB { acc := .atomic, n := 4, q := 3, scope := some 0 } fun cx => laneReqs cx 4 0 0 4) = true
    ∧ meets (.uatom 0 63 8 14 3 2 1 0) (liveR memRegs) (passB { acc := .atomic, n := 8, scope := some 3, rel := true, acq := true, sc := true } fun _ => [{ t := { base := 0x2000 } }]) = true
    ∧ meets (.atomt 0 8 4 2 0 6 0 0 1 0) (liveR teamRegs) (fun s cx => checkTeam s cx 4 true (teamAddrs cx 4 0 4) = none) = true
    ∧ (tblGet? (liveR {}).islands 0).isSome = true ∧ marked (liveR {}) 0 barePage = false
    ∧ marked (setMarks (liveR {}) 0 [barePage / 16]) 0 barePage = true ∧ barePage + 8 ≤ hostBase
    ∧ atomNew (.op 0 1) 8 5 = some 6 ∧ atomNew (.cas 1 2) 8 5 = none := by decide +kernel

theorem witness_AlignmentFaults :
    let low := fun (n : Nat) (addr : Cx → Nat → Nat) (_ : State) (cx : Cx) =>
      inMask cx.f.mask 2 && addr cx 2 % n != 0 && (List.range 2).all fun j => addr cx j % n == 0
    let r : Regs := { v := [(4, [0, 16, 17, 3])], s := [(8, 0x2001)], t := [(0, {})] }
    ([.ld 0 8 4 0 4 0 0, .st 0 8 4 0 4 0 0, .lda 0 8 4 0 4 0 0, .sta 0 8 4 0 4 0 0] : List Instr).all (fun i =>
      meets i (liveR r) (low 16 fun cx => laneVa 0 4 0 16 cx)) = true
    ∧ meets (.atom 0 8 4 0 2 0 0 6 0 0 0 0) (liveR r) (low 4 fun cx => laneVa 0 4 0 4 cx) = true
    ∧ meets (.acas 0 8 4 0 3 0 0 6 6 0 0 0) (liveR r) (low 8 fun cx => laneVa 0 4 0 8 cx) = true
    ∧ ([.ldt 0 8 4 1 0, .stt 0 8 4 1 0] : List Instr).all (fun i =>
      meets i (liveR r) (low 2 fun cx => laneOffset cx.g.regs 4 0 2)) = true
    ∧ meets (.atomt 0 8 4 2 0 6 0 0 0 0) (liveR r) (low 4 fun cx => laneOffset cx.g.regs 4 0 4) = true
    ∧ meets (.uld 0 4 8 0 1 0 0) (liveR r) (fun _ cx => uniVa 0 8 0 2 cx % 2 != 0) = true
    ∧ meets (.ust 0 4 8 0 4 0 0) (liveR r) (fun _ cx => uniVa 0 8 0 16 cx % 16 != 0) = true
    ∧ meets (.uatom 0 4 8 0 0 2 0 1) (liveR r) (fun _ cx => (readS cx.g.regs 8).toNat % 4 != 0) = true
    ∧ meets (.prf 0 4 0 4 0 0) (liveR r) (fun _ _ => true) = true := by decide +kernel

/-- A fault of the checks (an address beyond 57 bits), a miss of every lane (a page that is not mapped), and of one. -/
theorem witness_AccessChecks :
    let want : Want := { acc := .read, n := 4 }
    let reqs := fun (cx : Cx) => laneReqs cx 4 0 0 4
    let kind := fun (base : DWord) (v : Row) => let s := liveR { v := [(4, v)], t := [(0, { base := base })] }
      if meets (.ld 0 8 4 0 2 0 0) s (fun _ _ => true) then
        match checkGlobal s (view s) want (reqs (view s)) with
        | .fault .. => 1
        | .wait _ => 2
        | .go _ [] _ => 3
        | .go _ (_ :: _) (_ :: _) => 4
        | .go .. => 5
      else 0
    kind (2 ^ 57) [] = 1 ∧ kind 0x40000000 [] = 3 ∧ kind 0x1FFFFFF0 [0, 0, 0, 16] = 4 := by decide +kernel

/-- A uniform access whose address lies beyond 57 bits, whose VC is Defined, whose page is not mapped. -/
theorem witness_AccessChecks_uniform :
    let kind := fun (i : Instr) (w : Want) (req : Cx → Req) (s : State) => if meets i s (fun _ _ => true) then
        match checkGlobal s (view s) w [req (view s)] with
        | .fault .. => 1
        | .wait _ => 2
        | .go _ [] _ => 3
        | .go .. => 4
      else 0
    let at8 := fun (a : DWord) => liveR { s := [(8, a)], t := [(0, { base := a })] }
    let slow := modMem (at8 0x20000000) 0 fun m =>
      { m with bytes := memPutNat (memPutNat m.bytes (bareTables + 0x10008) (barePage + 2 ^ 57 + 2 ^ 58 + 0xDF) 8) (bareDescs + 0x21) 5 1, vcs := [(5, { state := .defined })] }
    let uld := kind (.uld 0 4 10 0 2 0 0) { acc := .read, n := 4 } fun cx => uniReq cx 10 0 0 4
    let ust := kind (.ust 0 4 10 0 2 0 0) { acc := .write, n := 4 } fun cx => uniReq cx 10 0 0 4
    let uatom := kind (.uatom 0 4 8 0 0 2 0 1) { acc := .atomic, n := 4, scope := some 3 } fun cx => { t := { base := readS cx.g.regs 8 } }
    ([at8 (2 ^ 57), slow, at8 0x40000000].map uld) = [1, 2, 3] ∧ ([at8 (2 ^ 57), slow, at8 0x40000000].map ust) = [1, 2, 3]
    ∧ ([at8 (2 ^ 57), slow, at8 0x40000000].map uatom) = [1, 2, 3] := by decide +kernel

/-- Lane 2 the lowest beyond the team's memory, the access before it at the memory's very end; and lane 1 the lowest in a range
that an engine holds, at its last byte. -/
theorem witness_AccessChecks_team :
    let addr := fun (cx : Cx) => laneOffset cx.g.regs 4 0 4
    let at4 := fun (r : Row) => liveR { v := [(4, r ++ List.replicate 13 0)] }
    let ok := fun (cx : Cx) (P : Nat → Bool) (l : Nat) => inMask cx.f.mask l && P l && (List.range l).all fun j => !P j
    let beyond := fun (s : State) (cx : Cx) (j : Nat) => decide (teamExtent (teamOf s cx.g.ident.team) < addr cx j + 4)
    let held := fun (s : State) (cx : Cx) (j : Nat) => (lockHit (islOf s 0).mem true cx.g.ident.team (addr cx j) 4 true).isSome
    let locked := modMem (at4 [0, 64, 0]) 0 fun m => { m with locks := [{ team := true, lo := 67, hi := 67 }] }
    ([.ldt 0 8 4 2 0, .stt 0 8 4 2 0, .atomt 0 8 4 2 0 6 0 0 0 0] : List Instr).all (fun i =>
      meets i (at4 [0, 4092, 4096]) (fun s cx => ((List.range 64).all fun j => addr cx j % 4 == 0) && ok cx (beyond s cx) 2)
      && meets i locked fun s cx => ((List.range 64).all fun j => addr cx j % 4 == 0) && ((List.range 64).all fun j => !beyond s cx j)
        && ok cx (held s cx) 1) = true := by decide +kernel

theorem witness_AccessChecks_split : (view (liveR {})).g.frags[0]? = some (view (liveR {})).f
    ∧ (view (liveR {})).f.parked = none ∧ (view (liveR {})).f.hold = .none
    ∧ ∀ x ∈ (view (liveR {})).g.frags, x.parked ≠ some 1 := by decide +kernel

/-! ### Branches, waits, traps, exit -/

/-- An operation under way that writes nothing, of a class. -/
def under (c : OpClass) : FlightOp := { id := 0, cls := c, mask := 0xFFFF }

/-- The machine with operations under way, their numbers below the next. -/
def waiting (l : List FlightOp) : State := { live fun g => { g with ops := l } with seq := 5 }

def anyS : State → Cx → Bool := fun _ _ => true

theorem witness_UniformBranchTarget : meets (.bra 0 0x20000) (liveR {}) anyS = true := by decide +kernel

theorem witness_BranchResults :
    let half : Regs := { p := [(1, 0x00FF)], s := [(20, 0x1FFFFFFFFFFFFFC), (21, 0x401002), (22, 0x200000000000000), (62, 0x400)] }
    let s := liveR half
    meets (.call 0 5) s anyS = true
    ∧ meets (.brc 0 1 0 5) { liveR { c := 2 } with } (fun _ cx => readC cx.g.regs 1 != false) = true
    ∧ meets (.brc 0 1 0 5) s (fun _ cx => readC cx.g.regs 1 == false) = true
    ∧ meets (.brx 0 20) s (fun _ cx => (readS cx.g.regs 20).toNat % 4 == 0 && decide ((readS cx.g.regs 20).toNat < 2 ^ 57)) = true
    ∧ meets (.ret 0) s (fun _ cx => (readS cx.g.regs 62).toNat % 4 == 0 && decide ((readS cx.g.regs 62).toNat < 2 ^ 57)) = true
    ∧ meets (.brp 0 7 0 5) s (fun _ cx => taken cx 7 0 == cx.f.mask) = true
    ∧ meets (.brp 0 7 1 5) s (fun _ cx => taken cx 7 1 == 0 && cx.f.mask != 0) = true
    ∧ meets (.brp 0 1 0 5) s (fun _ cx => taken cx 1 0 != cx.f.mask && taken cx 1 0 != 0) = true
    ∧ meets (.brx 0 21) s (fun _ cx => (readS cx.g.regs 21).toNat % 4 != 0) = true
    ∧ meets (.brx 0 22) s (fun _ cx => (readS cx.g.regs 22).toNat % 4 == 0 && decide (2 ^ 57 ≤ (readS cx.g.regs 22).toNat)) = true
    ∧ meets (.ret 0) (liveR { s := [(62, 2)] }) (fun _ cx => (readS cx.g.regs 62).toNat % 4 != 0) = true
    ∧ meets (.ret 0) (liveR { s := [(62, 0x200000000000000)] }) (fun _ cx =>
      (readS cx.g.regs 62).toNat % 4 == 0 && decide (2 ^ 57 ≤ (readS cx.g.regs 62).toNat)) = true := by decide +kernel

theorem witness_FragmentsSettle : ∃ g : Group, (g.frags.filter (pinnedSlot g.hmode)).length = 2 ∧ g.frags.length = 4
    ∧ ∃ a ∈ (settle g).frags, ∃ b ∈ (settle g).frags, a.slot < 2 ∧ pinnedSlot g.hmode a = true ∧ 2 ≤ b.slot ∧ mayReside g.hmode b = true :=
  ⟨{ frags := [{ lower with hold := .chain }, { mask := 0xF00, pc := 8 }, { mask := 0xF000, pc := 4 },
    { mask := 0xF0000, pc := 6, slot := 1, hold := .bwait 0 0 4 }] }, by decide +kernel⟩

theorem witness_WaitResults :
    let s := liveR {}
    let w := waiting [under .store, under .remote]
    allReady [.nop 0, .yield 0, .sleep 0 0, .sleep 0 1023] s = true
    ∧ meets (.wait 0 63) s (fun s cx => waitDone cx.g 63 s.seq) = true
    ∧ meets (.wait 0 2) w (fun s cx => !waitDone cx.g 2 s.seq) = true
    ∧ meets (.mfence 0 0 4) s (fun s cx => mfenceDone cx.g 0 cx.f.mask s.seq) = true
    ∧ meets (.mfence 0 2 4) w (fun s cx => !mfenceDone cx.g 2 cx.f.mask s.seq) = true
    ∧ meets (.tfence 0) s (fun s cx => fenceDone cx.g (fenceMark cx s) && decide (surfaced cx.g = none)) = true
    ∧ meets (.tfence 0) w (fun s cx => !fenceDone cx.g (fenceMark cx s)) = true
    ∧ meets (.rfence 0) s (fun s cx => remotesDone cx.g s.seq && cx.g.held.all (fun h => !h.remote)) = true
    ∧ meets (.rfence 0) w (fun s cx => !remotesDone cx.g s.seq) = true
    ∧ meets (.tfence 0) (live fun g => { g with held := [{ cause := 0x51C, pc := 0x100 }] }) (fun s cx =>
      fenceDone cx.g (fenceMark cx s) && decide (cx.g.held.length = 1)) = true
    ∧ meets (.tfence 0) (live fun g => { g with special := { flags := 1, fpctl := 0x100 } }) (fun s cx =>
      fenceDone cx.g (fenceMark cx s) && decide (cx.g.held = []) && decide (arithFlags cx.g ≠ 0)) = true
    ∧ meets (.rfence 0) (live fun g => { g with held := [{ cause := 0x51C, pc := 0x100 }, { cause := 0x16, pc := 0x100, remote := true }] })
      (fun s cx => remotesDone cx.g s.seq && cx.g.held.map (·.remote) == [false, true]) = true
    ∧ (let g : Group := { held := [{ cause := 0x51C, pc := 0x100 }, { cause := 0x16, pc := 0x100, remote := true }] }
       g.held = [{ cause := 0x51C, pc := 0x100 }] ++ ({ cause := 0x16, pc := 0x100, remote := true } : HeldFault) :: []
       ∧ ({ cause := 0x16, pc := 0x100, remote := true } : HeldFault) ∉ [({ cause := 0x51C, pc := 0x100 } : HeldFault)]) := by decide +kernel

theorem witness_FlagsInOneStep :
    ([.flgs 0 63 0x1F, .flgsClr 0 1 0x1F, .flgsSet 0 1 1] : List Instr).all (fun i =>
      meets i (liveR {}) (fun _ cx => flagsSettled cx.g) && meets i (waiting [under .matrix]) fun _ cx => !flagsSettled cx.g) = true := by
  decide +kernel

theorem witness_SoftwareTraps : allReady [.trap 0 1023, .bpt 0 0] (liveR {}) = true := by decide +kernel

/-- A group with a handler, and one whose chain keeps it from entering. -/
theorem witness_TrapEntry :
    let g := grpOf (withHandler {}) 0
    let c : Group := { g with chains := [{}] }
    (g.hmode = false ∧ g.trapReq = none ∧ g.ident.handlerPc = some 0x400 ∧ entryBlocked g = false
      ∧ (g.frags.all fun f => !f.handler) = true ∧ (tblGet? (withHandler {}).groups 0).isSome = true)
    ∧ entryBlocked c = true ∧ (grpOf (withR {}) 0).ident.handlerPc = none
    ∧ ({ g with trapReq := some { cause := 0, tspc := 0, mask := 0 } } : Group).trapReq.isSome = true ∧ (grpOf (withR {}) 0).trapReq = none
    ∧ (tblGet? (islOf (withR {}) 0).ctxs 0).isSome = true := by decide +kernel

/-- A group in its handler: one handler fragment of 12 lanes, the others outside. -/
def inHandler (tstat : DWord) (frags : List Frag) : State := live fun g => { g with
  hmode := true, hset := 0x0FFF, special := { tspc := 0x200, tmask := 0x00FF, tstat := tstat }, frags := frags }

def handlerFrag : Frag := { mask := 0x0FFF, pc := 0x100, slot := 0, handler := true }

theorem witness_ReturnFromHandler :
    let ok := 0xFFFFFF0000FCFF18
    let legal := fun (g : Group) => g.special.tstat &&& ok == 0 && !g.special.tstat.getLsbD 1 && !g.special.tstat.getLsbD 2
      && g.special.tmask &&& ~~~g.hset == 0
    let first := fun (cx : Cx) => cx.g.frags.all fun f => !f.handler || decide (cx.f.pc.toNat ≤ f.pc.toNat)
    let s := inHandler (gstat bareGroup) [handlerFrag]
    let held := inHandler (gstat bareGroup) [handlerFrag, { mask := 0xF000, pc := 0x180, slot := 1 }]
    let low := inHandler 0 [handlerFrag, { mask := 0xF, pc := 0x80, slot := 1, handler := true }]
    let split := inHandler 0 [handlerFrag, { mask := 0xF000, pc := 0x180, slot := 1, handler := true }]
    let bad := [inHandler 2 [handlerFrag], inHandler 4 [handlerFrag], inHandler 8 [handlerFrag],
      live fun g => { g with hmode := true, hset := 0x000F, special := { tmask := 0x00FF }, frags := [handlerFrag] }]
    (meets (.tret 0) s (fun _ cx => cx.g.hmode && first cx && cx.f.mask == handlerLanes cx.g && legal cx.g) = true
    ∧ meets (.tret 0) held (fun _ cx => cx.g.hmode && first cx && cx.f.mask == handlerLanes cx.g && legal cx.g) = true)
    ∧ meets (.tret 0) (liveR {}) (fun _ cx => !cx.g.hmode) = true
    ∧ meets (.tret 0) low (fun _ cx => cx.g.hmode && !first cx) = true
    ∧ meets (.tret 0) split (fun _ cx => cx.g.hmode && first cx && cx.f.mask != handlerLanes cx.g) = true
    ∧ (bad.all fun s => meets (.tret 0) s fun _ cx => cx.g.hmode && first cx && cx.f.mask == handlerLanes cx.g && !legal cx.g) = true := by
  decide +kernel

theorem witness_ExitResults :
    let first := fun (cx : Cx) => cx.g.frags.all fun f => !f.handler || decide (cx.f.pc.toNat ≤ f.pc.toNat)
    let low := inHandler 0 [handlerFrag, { mask := 0xF, pc := 0x80, slot := 1, handler := true }]
    let split := inHandler 0 [handlerFrag, { mask := 0xF000, pc := 0x180, slot := 1, handler := true }]
    meets (.exit 0) (liveR {}) (fun _ cx => !cx.g.hmode) = true
    ∧ meets (.exit 0) (inHandler (gstat bareGroup) [handlerFrag]) (fun _ cx =>
      cx.g.hmode && first cx && cx.f.mask == handlerLanes cx.g) = true
    ∧ meets (.exit 0) low (fun _ cx => cx.g.hmode && !first cx) = true
    ∧ meets (.exit 0) split (fun _ cx => cx.g.hmode && first cx && cx.f.mask != handlerLanes cx.g) = true
    ∧ (grpOf (liveR {}) 0).frags ≠ []
    ∧ (let s := live fun g => { g with frags := [] }
       (grpOf s 0).frags = [] ∧ fenceDone (grpOf s 0) s.seq = true ∧ surfaced (grpOf s 0) = none)
    ∧ (let s := live fun g => { g with frags := [], held := [{ cause := 0x51C, pc := 0x100 }] }
       (grpOf s 0).frags = [] ∧ fenceDone (grpOf s 0) s.seq = true ∧ (surfaced (grpOf s 0)).isSome = true)
    ∧ (let s := { live fun g => { g with frags := [], ops := [under .store] } with seq := 5 }
       (grpOf s 0).frags = [] ∧ fenceDone (grpOf s 0) s.seq = false) := by decide +kernel

theorem witness_BlockResults : allReady [.bqnt 0 8 16 63 0, .bqnt 0 8 16 4 2, .bdq 0 24 8 4 0, .bdq 0 24 8 63 3] (liveR {}) = true := by
  decide +kernel

theorem witness_AllotmentResults :
    meets (.rgrow 0 64) (liveR {}) (fun _ cx => decide (64 ≤ cx.g.allot)) = true
    ∧ meets (.rgrow 0 72) (liveR {}) (fun s cx => decide (cx.g.allot < 72) && (oldestClaim s 0 0).isNone
      && decide (regBytes cx.g 8 ≤ poolBytes s 0 0)) = true
    ∧ meets (.rgrow 0 72) (let s := liveR {}
        { s with groups := s.groups ++ [(1, { bareGroup with age := 9, frags := [{ mask := 1, hold := .rgrow 100 }] })] })
      (fun s cx => decide (cx.g.allot < 72) && (oldestClaim s 0 0).any (fun p => cx.g.age ≤ (grpOf s p.1).age)
      && decide (regBytes cx.g 8 ≤ poolBytes s 0 0)) = true
    ∧ meets (.rgrow 0 72) (let s := live fun g => { g with age := 9 }
        { s with groups := s.groups ++ [(1, { bareGroup with frags := [{ mask := 1, hold := .rgrow 100 }] })] })
      (fun s cx => decide (cx.g.allot < 72) && (oldestClaim s 0 0).any fun p => (grpOf s p.1).age < cx.g.age) = true
    ∧ meets (.rshrink 0 8) (live fun g => { g with ident := { g.ident with base := 8 }, chains := [{}] }) (fun _ cx =>
      decide (8 < cx.g.allot) && !cx.g.chains.isEmpty) = true
    ∧ meets (.rshrink 0 8) (live fun g => { g with ident := { g.ident with base := 8 }, ops := [{ busyV1 with writes := [{ elem := .v 9 0, val := 0 }] }] })
      (fun _ cx => decide (8 < cx.g.allot) && cx.g.ops.any fun o => o.writes.any fun w => writesFrom 8 w) = true
    ∧ meets (.rgrow 0 128) (let s := live fun g => { g with allot := 8 }
        { s with groups := s.groups ++ (List.range 45).map fun k =>
          (k + 1, { bareGroup with allot := 128, ident := { bareGroup.ident with width := 2 } }) })
      (fun s cx => decide (cx.g.allot < 128) && decide (poolBytes s 0 0 < regBytes cx.g 120)) = true
    ∧ meets (.rshrink 0 64) (liveR {}) (fun _ cx => decide (cx.g.allot ≤ 64)) = true
    ∧ meets (.rshrink 0 8) (live fun g => { g with ident := { g.ident with base := 8 } }) (fun _ cx => decide (8 < cx.g.allot)
      && cx.g.chains.isEmpty && cx.g.ops.all fun o => o.writes.all fun w => !writesFrom 8 w) = true := by decide +kernel

theorem witness_SpecialRegisterResults :
    let mgmt := live fun g => { g with regs := { s := [(9, 50)] }, ident := { g.ident with priv := true, mgmt := true } }
    meets (.rdsr 0 63 2) (liveR {}) (fun _ cx => flagsSettled cx.g) = true
    ∧ meets (.rdsr 0 1 8) (waiting [under .matrix]) (fun _ cx => !flagsSettled cx.g) = true
    ∧ meets (.rdsr 0 1 0x2F) mgmt (fun _ _ => true) = true
    ∧ meets (.wrsr 0 8 1) (liveR {}) (fun _ cx => flagsSettled cx.g) = true
    ∧ meets (.wrsr 0 3 1) (liveR {}) (fun _ cx => cx.g.chains.isEmpty) = true
    ∧ meets (.wrsr 0 9 1) (live fun g => { g with chains := [{}] }) (fun _ cx => !cx.g.chains.isEmpty) = true
    ∧ (tblGet? (liveR {}).islands 0).isSome = true ∧ (2 ^ 19) % 2 ^ 19 = 0 ∧ 0x5FFFF80000 % 2 ^ 19 = 0 ∧ 0x5FFFF80000 < 0x6000000000
    ∧ meets (.wrsr 0 2 1) (waiting [under .matrix]) (fun _ cx => !flagsSettled cx.g) = true
    ∧ meets (.wrsr 0 0x28 9) mgmt (fun s cx => !writeWaits s cx 0x28 50) = true
    ∧ (view mgmt).g.frags.length < 256 ∧ (view mgmt).g.allot < 256 := by decide +kernel

theorem witness_TranslationResults :
    let r : Regs := { s := [(2, 0x1FFFFFFF), (3, 5), (4, 2 ^ 57), (5, 0x10000), (6, 1)], v := [] }
    meets (.trld 0 3 2 3) (liveR r) (fun s cx => match walkHeld s 0 0 0x1FFFFFFF .read (privileged cx.g.ident) 0 with
      | (_, .leaf ..) => true
      | _ => false) = true
    ∧ meets (.trld 0 3 4 3) (liveR r) (fun _ cx => decide (2 ^ 57 ≤ (readS cx.g.regs 4).toNat)) = true
    ∧ meets (.trld 0 3 5 3) (liveR { s := [(5, 0x40000000)] }) (fun s _ => match walkHeld s 0 0 0x40000000 .read false 0 with
      | (_, .page ..) => true
      | _ => false) = true
    ∧ meets (.trinv 0 5 6 1) (livePriv r) (fun s cx => cx.f.hold == .none && storesDone cx.g s.seq
      && trinvDone (discardRange s 0 0 0x10000 0x20000) 0 0 0x10000 0x20000 s.seq (rangeFrames s 0 0 0x10000 0x20000) true
      && !inImage (ctxOf s 0 0)) = true
    ∧ meets (.trinv 0 5 6 0) { livePriv r with groups := (livePriv r).groups.map (fun p => (p.1, { p.2 with ops := [under .load] })), seq := 5 }
      (fun s cx => cx.f.hold == .none && storesDone cx.g s.seq
      && !trinvDone (discardRange s 0 0 0x10000 0x20000) 0 0 0x10000 0x20000 s.seq (rangeFrames s 0 0 0x10000 0x20000) false) = true
    ∧ meets (.prf 0 4 0 0 0 0) (liveR memRegs) anyS = true := by decide +kernel


/-- A T register that permits an access at its last byte, and one that does not, below 2 ^ 57 and beyond. -/
theorem witness_TranslationResults_registers :
    let t : TReg := { base := 2 ^ 57 - 1, limit := 1, cv := true, rights := 0x1B }
    let plain := fun (t : TReg) => t.rights.getLsbD 0 = true ∧ t.rights.getLsbD 1 = true ∧ t.rights.getLsbD 2 = false
      ∧ t.rights.getLsbD 3 = false ∧ t.rights.getLsbD 4 = true
    t.e = false ∧ t.cv = true ∧ 0 < t.limit.toNat ∧ ¬ 1 < t.limit.toNat ∧ t.base.toNat + 0 < 2 ^ 57 ∧ 2 ^ 57 ≤ t.base.toNat + 1
    ∧ plain { t with rights := 0x13 } ∧ t.rights.getLsbD 3 = true ∧ (readT {} 0).e = true := by decide +kernel

theorem witness_TranslationResults_trinv : inImage (ctxOf (modCtx (liveR {}) 0 0 fun x => { x with state := .saved }) 0 0) = true
    ∧ ([(2 ^ 57, 0), (0x10004, 0), (0, 2 ^ 48)] : List (DWord × DWord)).all (fun p =>
        meets (.trinv 0 7 8 0) (livePriv { s := [(7, p.1), (8, p.2)] })
          fun _ cx => cx.f.hold == .none && (decide (2 ^ 57 ≤ (readS cx.g.regs 7).toNat)
            || decide ((readS cx.g.regs 7).toNat % 65536 ≠ 0) || decide (2 ^ 48 ≤ (readS cx.g.regs 8).toNat))) = true := by decide +kernel
/-! ### Barriers, copies, tiles -/

/-- A machine with its team's barrier 1 as given. -/
def withBar (b : Bar) (s : State) : State := setBar s 0 1 b

def armed : Bar := { state := .armed, expect := 3, remain := 2 }

theorem witness_BarrierCheck :
    let due : Bar := { state := .armed, expect := 3, ph := 0xFFFFFFFF }
    let s := withBar due (liveR {})
    (tblGet? s.teams 0).isSome = true ∧ barOf s 0 1 = due ∧ due.remain = 0 ∧ due.pend = 0
    ∧ (let b := barOf (withBar armed s) 0 1; ¬(b.state = .armed ∧ b.remain = 0 ∧ b.pend = 0))
    ∧ phaseDone due 0xFFFFFFFE = true ∧ phaseDone due 0x7FFFFFFF = true ∧ phaseDone due 0xFFFFFFFF = false ∧ phaseDone due 0x7FFFFFFE = false
    ∧ armed.state ≠ .idle ∧ 1 < armed.remain ∧ armed.remain < 3
    ∧ ({ armed with state := .complete } : Bar).state = .complete
    ∧ (let g := grpOf (setBar (live fun g => { g with frags := [{ mask := 3, hold := .bwait 1 0xFFFFFFFF 0x200 }, { mask := 4, hold := .bwait 1 0 0x200 }] }) 0 1 due) 0
       g.ident.team = 0 ∧ (g.frags.map (·.parked)) = [none, none] ∧ phaseDone { due with ph := 0 } 0xFFFFFFFF = true
       ∧ phaseDone { due with ph := 0 } 0 = false) := by decide +kernel

theorem witness_BarrierResults :
    let free := fun (tm : BitVec 1) (p : State → Cx → Bar → Bool) (s : State) (cx : Cx) =>
      !barvAhead cx (namedBar s cx tm 1) && p s cx (theBar s cx tm 1)
    let r : Regs := { s := [(2, 0), (3, 0xFFFFFFFF)] }
    let idle := liveR r
    let s := withBar armed idle
    let at1 := withBar { armed with state := .complete, ph := 1 } idle
    let busy := { s with groups := s.groups.map (fun p => (p.1, { p.2 with ops := [under .load] })), seq := 5 }
    meets (.binit 0 1 0 7) idle (free 0 fun _ _ b => b.state == .idle) = true
    ∧ meets (.binit 0 1 1 3) s (free 1 fun _ _ b => b.state == .armed && b.expect == 3) = true
    ∧ meets (.binit 0 1 0 3) at1 (free 0 fun _ _ b => b.state == .complete && b.expect == 3) = true
    ∧ meets (.binit 0 1 0 4) s (free 0 fun _ _ b => b.state == .armed && b.expect != 4) = true
    ∧ meets (.barv 0 1 0 63 0) s (free 0 fun s cx b => b.state != .idle && accessesDone cx.g s.seq
      && (cx.g.frags.all fun f => f.parked.isNone) && decide (1 < b.remain)) = true
    ∧ meets (.barv 0 1 0 63 0) idle (free 0 fun s cx b => b.state == .idle && accessesDone cx.g s.seq
      && cx.g.frags.all fun f => f.parked.isNone) = true
    ∧ meets (.barv 0 1 1 5 511) busy (free 1 fun s cx _ => !accessesDone cx.g s.seq && cx.g.frags.all fun f => f.parked.isNone) = true
    ∧ meets (.bexp 0 1 0 3) s (free 0 fun _ cx b => b.state == .armed && b.pend + (readS cx.g.regs 3).toNat ≤ 2 ^ 39 - 1 && b.remain != 0) = true
    ∧ meets (.bexpImm 0 1 1 0x3FFF) at1 (free 1 fun _ _ b => b.state == .complete && b.pend + 16 * 0x3FFF != 0) = true
    ∧ meets (.bexp 0 1 0 3) idle (free 0 fun _ _ b => b.state == .idle) = true
    ∧ meets (.bwait 0 1 0 2 1) at1 (free 0 fun _ cx b => phaseDone b ((readS cx.g.regs 2).truncate 32)) = true
    ∧ meets (.bwait 0 1 0 2 1) s (free 0 fun _ cx b => b.state != .idle && !phaseDone b ((readS cx.g.regs 2).truncate 32)) = true
    ∧ meets (.bwait 0 1 0 2 1) idle (free 0 fun _ cx b => b.state == .idle && cx.g.frags.all fun f => f.parked.isNone) = true
    ∧ meets (.btry 0 1 0 2 1) s (free 0 fun _ _ b => b.state != .idle) = true
    ∧ meets (.btry 0 1 0 2 1) idle (free 0 fun _ _ b => b.state == .idle) = true
    ∧ (let mate := fun f => { s with groups := s.groups.map fun p => (p.1, { p.2 with frags := p.2.frags ++ [f] }) }
       ([.binit 0 1 0 3, .barv 0 1 0 6 0, .bexp 0 1 0 3, .bexpImm 0 1 0 1, .bwait 0 1 0 2 1, .btry 0 1 0 2 1, .binv 0 1 0] : List Instr).all (fun i =>
         meets i (mate { mask := 0, pc := 0x100, hold := .barv 1 1 5 0 }) fun s cx => barvAhead cx (namedBar s cx 0 1)) = true
       ∧ ([.barv 0 1 0 5 0, .bwait 0 1 0 2 1] : List Instr).all (fun i =>
         meets i (mate { mask := 0, pc := 0x100, parked := some 9 }) fun _ cx => cx.g.frags.any fun f => f.parked.isSome) = true)
    ∧ meets (.binv 0 1 0) idle (free 0 fun _ _ b => b.state == .idle) = true
    ∧ meets (.binv 0 1 0) at1 (free 0 fun s _ b => b.state != .idle && !anyWaiter s 0 1 && b.eng == 0) = true
    ∧ meets (.binv 0 1 0) (withBar { armed with eng := 1 } idle) (free 0 fun _ _ b => b.state != .idle && b.eng != 0) = true := by
  decide +kernel

/-- The machine with object-table records: by index, the eight words. -/
def withRecs (l : List (Nat × List Nat)) (s : State) : State :=
  l.foldl (fun s p => modMem s 0 fun m => { m with bytes := memPut m.bytes (m.objBase + 64 * p.1) (p.2.flatMap fun w => leBytes w 8) }) s

/-- A tensor of 8 elements of 32 bits at 0x3000, its box 4, its pitch 32. -/
def tensor : List Nat := [0x301 + 3 * 2 ^ 37, 0x3000, 7, 0, 0, 0, 3 + 32 * 2 ^ 32, 0]

/-- S2 and S3 name its record and barrier 0, which is armed; V4 holds destinations of ACP16, V5 offsets of its sources. -/
def copyState : State :=
  let r : Regs := { v := [(4, [0, 16]), (5, [32, 64])], s := [(2, 0), (3, 1)], t := [(0, { base := 0x3000 })] }
  setBar (withRecs [(1, tensor)] (liveR r)) 0 0 armed

/-- The premises of a copy's start. -/
def copyReady (kind : Engine) (s : State) (cx : Cx) : Bool :=
  let id := cx.g.ident
  let org := readS cx.g.regs 2
  let w := readS cx.g.regs 3
  let x := tensorOf (objWords s id.island (opRec w))
  let key := barKey (teamOf s id.team) id.core (opTm w) (opBar w)
  let ps := boxPieces (boxRows x org (opTa w))
  decide ((barOf s id.team key).eng < 255) && decide ((islOf s id.island).mem.locks.length + (copyLocks kind cx x (opTa w) ps).length ≤ 256)
  && !barvAhead cx key && copyFault s cx org w (if kind = .tcopy then .read else .write) == none
  && match checkEngine s cx (if kind = .tcopy then .read else .write) (kind != .tcopy) (pieceReqs ps) with
    | .go s1 hs [] => hs != [] && pinsFit (islOf s1 id.island).mem (pinPages hs)
    | _ => false

def acpReady (s : State) (cx : Cx) : Bool :=
  let ls := acpLanes cx 4 5 0
  let tr := translateAll 0 0 (privileged cx.g.ident) .read s (ls.map (·.1))
  let v := vcAll 0 0 false tr.1 (hitsOf tr.2)
  let hs := v.2.map (·.1)
  !barvAhead cx 0 && (barOf s 0 0).state != .idle && acpAlign ls == none && firstProt tr.2 == none
  && acpExtent (teamOf s 0) ls == none && firstVcFault v.2 == none && (v.2.all fun p => p.2 != .waits) && missesOf tr.2 == []
  && hs != [] && pinsFit (islOf v.1 0).mem (pinPages hs)

theorem witness_CopyResults :
    meets (.tcopy 0 7 1 2 5) copyState (fun _ cx => !condTrue cx.g.regs 7 1) = true
    ∧ meets (.tsto 0 7 1 2 5) copyState (fun _ cx => !condTrue cx.g.regs 7 1) = true
    ∧ meets (.tpref 0 7 1 2) copyState (fun _ cx => !condTrue cx.g.regs 7 1) = true
    ∧ meets (.tcopy 0 7 0 2 5) copyState (fun s cx => condTrue cx.g.regs 7 0 && copyReady .tcopy s cx) = true
    ∧ meets (.tsto 0 7 0 2 63) copyState (fun s cx => condTrue cx.g.regs 7 0 && copyReady .tsto s cx) = true
    ∧ meets (.tpref 0 7 0 2) copyState (fun s cx => condTrue cx.g.regs 7 0 && tensorFault (objWords s 0 1) 1 0 .read == none) = true := by
  decide +kernel

/-- The table has room, and none asks before; it is full; and another fragment that waits has asked before. -/
theorem witness_CopyResults_locks :
    let cx := view copyState
    let full := fun (n : Nat) => modMem copyState 0 fun m => { m with locks := List.replicate n {} }
    let before := { modMem copyState 0 fun m => { m with lockQueue := [(1, 7, 0x80)] } with
      groups := copyState.groups ++ [(1, { bareGroup with age := 7, frags := [{ mask := 1, pc := 0x80, waiting := true }] })] }
    LocksFree copyState cx 2 ∧ LocksFree (full 254) cx 2 ∧ ¬ LocksFree (full 255) cx 2 ∧ LocksFree (full 256) cx 0 ∧ ¬ LocksFree before cx 1
    ∧ LocksFree (modMem copyState 0 fun m => { m with lockQueue := [(1, 7, 0x80)] }) cx 1 := by
  simp only [LocksFree]
  have h : ∀ (o : Option (Nat × Nat × VAddr)) (y : Nat × Nat × VAddr), (∀ x, o = some x → x = y) ↔ o.all (· = y) = true := by
    intro o y; cases o <;> simp
  simp only [h]
  decide +kernel

theorem witness_CopyResults_acp16 : meets (.acp16 0 4 5 0 0) { copyState with
    groups := copyState.groups.map fun p => (p.1, { p.2 with frags := [{ mask := 3, pc := 0x100, slot := 0 }] }) } acpReady = true := by
  decide +kernel

/-- A team on two cores, both with 32 tiles and 64 KiB, and the records of an MMAP of I8 of one block. -/
def pairState : State :=
  let rec1 := fun (ext base : Nat) => [0x301 + 1 * 2 ^ 37, 0, ext, 0, 0, 0, 127 + 128 * 2 ^ 32, base]
  let s := withRecs [(1, rec1 127 0), (2, rec1 127 0x4000)] (liveR { s := [(2, 1 + 2 * 2 ^ 16)] })
  modTeam s 0 fun t => { t with cores := [0, 1], ntiles := 32, tmem := 65536 }

theorem witness_TileResults :
    let w := fun (o : FlightOp) => { live fun g => { g with ops := [o] } with seq := 5 }
    meets (.mmsc 0 63 48) (liveR {}) anyS = true
    ∧ meets (.mma 0 1 3 0 4 2 1 0) (liveR {}) (fun s cx => !earlier s 0 (theTiles s cx 3 (tilesOf cx)) s.seq waitsForReads
      && !arrayBusy s 0 0) = true
    ∧ meets (.tld 0 0 2 1) (liveR {}) (fun s cx => !earlier s 0 (theTiles s cx 2 (tilesOf cx)) s.seq waitsForWrites) = true
    ∧ meets (.tst 0 1 2 1) (w { id := 0, cls := .matrix, payload := .tld 1 })
      (fun s cx => !earlier s 0 (theTiles s cx 2 (tilesOf cx)) s.seq waitsForAny) = true
    ∧ meets (.tzero 0 0 3) (liveR {}) (fun s cx => !earlier s 0 (theTiles s cx 0 4) s.seq waitsForAny) = true
    ∧ meets (.mmap 0 7 1 2 0 0 0 0 4) pairState (fun _ cx => !progValid cx.g && !condTrue cx.g.regs 7 1) = true
    ∧ meets (.mmap 0 7 0 2 1 1 0 1 4) pairState (fun s cx => condTrue cx.g.regs 7 0 && cx.g.mmap.isNone
      && mmapFault s cx (mmapStart cx s.seq 2 1 1 0 1 4).word0 4 == none
      && !earlier s 0 (pairKeys (teamOf s 0) 0 16) s.seq waitsForReads) = true
    ∧ meets (.tepi 0 3 4 0 0 0) (liveR { s := [(4, 128 * 2 ^ 32)] }) (fun s cx =>
      let w0 := (readS cx.g.regs 4).toNat
      decide (w0 < 2 ^ 48) && bits w0 31 0 % 16 == 0 && bits w0 47 32 % 16 == 0
      && decide (bits w0 31 0 + 31 * bits w0 47 32 + 128 ≤ teamExtent (teamOf s 0))
      && firstLock (islOf s 0).mem true 0 128 true ((List.range 32).map fun r => (none, bits w0 31 0 + r * bits w0 47 32)) == none
      && !earlier s 0 (theTiles s cx 3 1) s.seq waitsForWrites && decide (32 * ofBytes 0 ≤ bits w0 47 32)) = true := by
  decide +kernel

/-! ### Chains, feeds, remote operations, collectives, queues, ports, caches, monitors -/

/-- The checks of `Clear`, as one truth value. -/
def clearB (fm : Form) (s : State) (cx : Cx) : Bool :=
  (!fm.priv || privileged cx.g.ident) && !fm.bad0 cx && !fm.bad cx && !pendingIn cx.g (readElems fm cx ++ writeElems fm cx)
    && (!cx.g.ident.sbchk || decide (scoreReady cx.g (issueClock s cx) (readElems fm cx) ≤ issueClock s cx))
    && (!fm.conv || decide (meet cx = .go)) && decide (firstPoison fm cx = none)

/-- R165's two links after a header at 0x100, and a group whose fragment holds at a chain. -/
theorem witness_ChainResults :
    let s := physPut (liveR {}) 0 (barePage + 0x104) (leBytes 0x110A0208 4 ++ leBytes 0x1005140C 4)
    (match fetchLinks s (view s) (pcAdd 0x100 4) 2 with
      | .ok s1 ws => linkFault s1 (view s) ws 1 == none && clearB (chainForm 0 (linksOf ws) 1) s1 (view s)
      | _ => false) = true
    ∧ issuing s = some (view s)
    ∧ (let c : ChainRec := { pc := 0x100, mask := 0xFFFF, links := 2, sinks := 1 }
       let t := live fun g => { g with
         frags := [{ mask := 0xFFFF, pc := 0x100, slot := 0, hold := .chain }], chains := [c] }
       (nth (grpOf t 0).frags 0).hold = .chain ∧ chainOf (grpOf t 0) (nth (grpOf t 0).frags 0) = some c) := by
  decide +kernel

/-- A header in the last word of the page, its link on one that an entry gives. -/
def linkAt (e : Nat) (s : State) : State :=
  modMem (modGrp s 0 fun g => { g with frags := [{ mask := 0xFFFF, pc := 0x1FFFFFFC, slot := 0 }] }) 0 fun m =>
    { m with bytes := memPutNat (memPutNat m.bytes (bareTables + 0x10008) e 8) (bareDescs + 0x21) 5 1, vcs := [(5, { state := .defined })] }

/-- A link that is no link word; a link on a page without X, on one whose VC is Defined, and on one that is not mapped. -/
theorem witness_ChainResults_stops :
    let kind := fun (s : State) => match fetchLinks s (view s) (pcAdd (view s).f.pc 4) 1 with
      | .ok s1 ws => if (linkFault s1 (view s) ws 0).isSome then 1 else 0
      | .fault .. => 2
      | .wait .. => 3
      | .miss .. => 4
    let s := liveR {}
    (issuing s).isSome = true ∧ kind s = 1 ∧ kind (linkAt (barePage + 2 ^ 57 + 0xCF) s) = 2
    ∧ kind (linkAt (barePage + 2 ^ 57 + 2 ^ 58 + 0xDF) s) = 3 ∧ kind (linkAt 0 s) = 4 := by decide +kernel

/-- A group with a stream, an entry in Q1 and one in Q3. -/
def fed (n : Nat) : State :=
  let e : FeedEntry := { mask := 0x00FF, fmt := 1, vals := [1, 2] }
  let q := (List.range n).map fun k => ({ id := k, mask := 1 } : FeedEntry)
  live fun g => { g with stream := some 0, win0 := { q0 := q, q1 := [e], q3 := [e], q2 := q } }

theorem witness_FeedResults :
    meets (.feedw 0 0 6 0 1) (fed 7) (fun _ cx => decide ((selWin cx.g).q0.length < 8)) = true
    ∧ meets (.feedw 0 1 6 0 3) (fed 7) (fun _ cx => !cx.g.hmode && cx.g.stream.isSome && decide (cx.g.win0.q2.length < 8)) = true
    ∧ meets (.feedr 0 6 0 1) (fed 8) (fun _ cx => (selWin cx.g).q1.map (·.fmt) == [1]) = true
    ∧ meets (.feedr 0 6 1 1) (fed 0) (fun s cx => !cx.g.hmode && cx.g.stream.isSome
      && (grpOf (ownStream s cx) cx.key).win0.q3.map (·.fmt) == [1]) = true := by decide +kernel

theorem witness_FeedResults_stops :
    let win := fun (w : FeedWindow) => live fun g => { g with stream := some 0, win0 := w }
    let e : FeedEntry := { mask := 0x00FF, fmt := 1, vals := [1, 2] }
    let idle := fun (cx : Cx) => (selWin cx.g).q1.isEmpty && (selWin cx.g).q0.isEmpty && (selWin cx.g).taken.isEmpty
    meets (.feedw 0 0 6 0 1) (fed 8) (fun _ cx => decide (8 ≤ (selWin cx.g).q0.length) && decide (q1Load (selWin cx.g) < 8)) = true
    ∧ meets (.feedw 0 0 6 0 1) (win { q0 := List.replicate 8 e, q1 := List.replicate 8 e }) (fun _ cx =>
      decide (8 ≤ (selWin cx.g).q0.length) && decide (8 ≤ q1Load (selWin cx.g))) = true
    ∧ meets (.feedw 0 1 6 0 1) (liveR {}) (fun _ cx => cx.g.stream.isNone) = true
    ∧ meets (.feedw 0 1 6 0 1) (fed 8) (fun _ cx => !cx.g.hmode && cx.g.stream.isSome && decide (8 ≤ cx.g.win0.q2.length)) = true
    ∧ meets (.feedr 0 6 0 1) (win { q0 := [e] }) (fun _ cx => (selWin cx.g).q1.isEmpty && !(selWin cx.g).q0.isEmpty) = true
    ∧ meets (.feedr 0 6 0 1) (win {}) (fun _ cx => idle cx) = true
    ∧ meets (.feedr 0 6 0 0) (win { q1 := [e] }) (fun _ cx => (selWin cx.g).q1.map (·.fmt) == [1]) = true
    ∧ meets (.feedr 0 6 1 1) (liveR {}) (fun _ cx => cx.g.stream.isNone) = true
    ∧ meets (.feedr 0 6 1 0) (win { q3 := [e] }) (fun s cx => !cx.g.hmode && cx.g.stream.isSome
      && (grpOf (ownStream s cx) cx.key).win0.q3.map (·.fmt) == [1]) = true
    ∧ meets (.feedr 0 6 1 1) (win {}) (fun s cx => !cx.g.hmode && cx.g.stream.isSome
      && (grpOf (ownStream s cx) cx.key).win0.q3.isEmpty) = true := by decide +kernel

/-- A machine of one numbered island whose context owns counters 0 to 7; S4 to S7 hold a block, S8 and S9 words of WAITN. -/
def remoteState (block : List (Nat × DWord)) : State :=
  let s := liveR { s := block ++ [(8, 7), (9, 0x10007), (10, 0x40000), (11, 8)] }
  let s : State := { s with panel := { s.panel with ncount := 1 } }
  modIsl (modCtx s 0 0 fun c => { c with nfirst := 0, ncnt := 8 }) 0 fun x => { x with ncs := [(7, 3)] }

def remoteReady (kind : RemoteKind) (aop : Nat) (small : Bool) (s : State) (cx : Cx) : Bool :=
  let id := cx.g.ident
  let k := blockOf cx.g.regs 4
  let len := if copies kind then k.len else 0
  let ps := localPieces k.loc.toNat len
  remoteFault s cx kind k aop small == none
  && match checkLocal s cx (kind = .get) k.loc.toNat len ps with
    | .go s1 hs [] => windowOpen s1 id.island { kind := kind, panel := k.panel s.panel.number, isl := k.isl }
        && pinsFit (islOf s1 id.island).mem (pinPages hs)
        && (kind != .put || hs != [])
    | _ => false

theorem witness_RemoteResults :
    let s := remoteState [(4, 0x3000), (5, 0x5000), (6, 0x20)]
    let n := remoteState []
    meets (.put 0 63 1) s (remoteReady .put 0 false) = true ∧ meets (.get 0 12 1) s (remoteReady .get 0 false) = true
    ∧ meets (.ratom 0 12 1 13 14 1) (remoteState [(4, 0x3004)]) (remoteReady .ratom 14 true) = true
    ∧ meets (.notify 0 63 1) n (remoteReady .notify 0 false) = true
    ∧ meets (.waitn 0 8 63 1) n (fun s cx => ctrOwned s 0 0 7 && condHolds 0 (ctrOf s 0 7) (readS cx.g.regs 63)) = true
    ∧ meets (.waitn 0 9 63 1) n (fun s cx => ctrOwned s 0 0 7 && !condHolds 1 (ctrOf s 0 7) (readS cx.g.regs 63)) = true
    ∧ meets (.waitn 0 10 63 1) n (fun _ cx => decide (2 ^ 18 ≤ (readS cx.g.regs 10).toNat)) = true
    ∧ meets (.waitn 0 11 63 1) n (fun s cx => decide ((readS cx.g.regs 11).toNat < 2 ^ 18) && !ctrOwned s 0 0 8) = true := by
  decide +kernel

/-- A bucket descriptor of n F32 elements at the root, without children, and a machine that may name it. -/
def bucketDesc (n : Nat) : List Nat := [0x102, 0x1000, 0x2000, n + 9 * 2 ^ 32, 63, 0, 0x3000, 0x4000]

def collState (l : List (Nat × Bucket)) : State :=
  modIsl (withRecs [(1, bucketDesc 4)] (remoteState [(4, 1)])) 0 fun x => { x with buckets := l }

def collReady (streamed : Bool) (s : State) (cx : Cx) (p : Island → Bool) : Bool :=
  let ws := objWords s 0 1
  collFault s cx streamed (readS cx.g.regs 4) == none
  && match checkSpans cx s {} (bucketSpans ws streamed) with
    | .go s1 r => r.misses == [] && objField ws 3 47 32 == 9 && p (islOf s1 0) && pinsFit (islOf s1 0).mem (pinPages r.hits)
    | _ => false

theorem witness_RemoteResults_collective :
    let full := (List.range 16).map fun k => (k, ({ bid := k, ctx := 1 } : Bucket))
    meets (.coll 0 12 4) (collState []) (fun s cx => collReady false s cx fun x =>
      decide (x.buckets.length < 16) && !(x.buckets.any fun p => p.2.ctx = 0 && p.2.bid = 9)) = true
    ∧ meets (.colw 0 63 4) (collState []) (fun s cx => collReady true s cx fun x => decide (x.buckets.length < 16)) = true
    ∧ meets (.coll 0 12 4) (collState full) (fun s cx => collReady false s cx fun x => decide (16 ≤ x.buckets.length)) = true
    ∧ meets (.coll 0 12 4) (collState [(0, { bid := 9 })]) (fun s cx => collReady false s cx fun x =>
      decide (x.buckets.length < 16) && (x.buckets.any fun p => p.2.ctx = 0 && p.2.bid = 9)) = true := by decide +kernel

/-- A machine with port 3 as given; S4 names it, S5 port 12, S6 port 15, S7 queue 0 and S8 a packet's bytes. -/
def portState (p : Port) : State :=
  let s := livePriv { s := [(4, 3), (5, 12), (6, 15), (8, 0x3000)] }
  modPort { s with panel := { s.panel with queues := [(0, { state := .enabled, cfg := 2 ^ 48 + 12 })] } } 0 3 fun _ => p

theorem witness_QueueAndPortResults :
    let pl : State → Port := fun s => portOf s 0 3
    let up := portState { state := .up }
    let fenced := portState { state := .fenced, owed := [(0, 1, 2, 3)] }
    meets (.qpush 0 9 8 63) up (fun s cx => accessesDone cx.g s.seq && passB { acc := .read, n := 64 } (fun cx =>
      [{ t := { base := readS cx.g.regs 8 }, o := 0 }]) s cx) = true
    ∧ meets (.qpush 0 9 8 4) (portState { state := .up } |> fun s => modGrp s 0 fun g => { g with regs := { s := [(4, 1024)] } })
      (fun _ cx => decide (2 ^ 10 ≤ (readS cx.g.regs 4).toNat)) = true
    ∧ (portOf (portState { state := .dark, fence := true }) 0 3).fence = true
    ∧ meets (.pfence 0 9 8) up (fun _ cx => decide (16 ≤ (readS cx.g.regs 8).toNat)) = true
    ∧ meets (.pfenceRel 0 9 8) up (fun _ cx => decide (16 ≤ (readS cx.g.regs 8).toNat)) = true
    ∧ meets (.pfenceRel 0 9 4) (portState { state := .dark, fence := true }) (fun s _ => (pl s).fence) = true
    ∧ meets (.pfence 0 9 5) up (fun _ cx => decide (12 ≤ (readS cx.g.regs 5).toNat)) = true
    ∧ meets (.pfence 0 9 6) up (fun _ cx => decide ((readS cx.g.regs 6).toNat < 16)) = true
    ∧ meets (.pfence 0 9 4) (portState {}) (fun s _ => !linkOpen (pl s) && (pl s).state != .fenced) = true
    ∧ meets (.pfence 0 9 4) up (fun s _ => linkOpen (pl s) && (pl s).owed == []) = true
    ∧ meets (.pfence 0 9 4) fenced (fun s _ => (pl s).state == .fenced && (pl s).owed != []) = true
    ∧ meets (.pfenceRel 0 63 5) up anyS = true
    ∧ meets (.pfenceRel 0 9 4) up (fun s _ => (pl s).state != .fenced) = true
    ∧ meets (.pfenceRel 0 9 4) fenced (fun s _ => (pl s).state == .fenced) = true := by decide +kernel

/-- QPUSH whose packet lies beyond 57 bits, at a VC that is Defined, on a page that is not mapped; and one that waits for an
access of its group. -/
theorem witness_QueueAndPortResults_stops :
    let at8 := fun (a : DWord) (s : State) => modGrp s 0 fun g => { g with regs := { s := [(8, a)] } }
    let kind := fun (s : State) => if meets (.qpush 0 9 8 63) s anyS then
        match checkGlobal s (view s) { acc := .read, n := 64 } [{ t := { base := readS (view s).g.regs 8 }, o := 0 }] with
        | .fault .. => 1
        | .wait _ => 2
        | .go _ [] _ => 3
        | .go _ (_ :: _) _ => if accessesDone (view s).g s.seq then 5 else 4
      else 0
    let on := fun (e : Nat) => modMem (at8 0x20000000 (liveR {})) 0 fun m =>
      { m with bytes := memPutNat (memPutNat m.bytes (bareTables + 0x10008) e 8) (bareDescs + 0x21) 5 1, vcs := [(5, { state := .defined })] }
    kind (at8 (2 ^ 57) (liveR {})) = 1 ∧ kind (on (barePage + 2 ^ 57 + 2 ^ 58 + 0xDF)) = 2 ∧ kind (on 0) = 3
    ∧ kind (at8 0x3000 (waiting [under .load])) = 4
    ∧ (let s := portState {}
       (tblGet? s.panel.queues 0).isSome = true ∧ (tblGet? s.islands (qIsl (queueOf s 0))).isSome = true
       ∧ slotAddr (queueOf s 0) 0 + 64 ≤ hostBase) := by decide +kernel

/-- A cache description record at index 1 and a privileged program; S4 names it. -/
def cacheState (l : List (Nat × DWord)) : State := withRecs [(1, [0x303])] (livePriv { s := (4, 1) :: l })

theorem witness_CacheResults :
    let named := fun (op : VcOp) (s : State) (cx : Cx) =>
      !operandReserved op (readS cx.g.regs 4).toNat && vcObjFault s 0 0 op (readS cx.g.regs 4).toNat == none
    let range := fun (x : Nat) (s : State) (cx : Cx) => decide ((readS cx.g.regs 5).toNat + (readS cx.g.regs 6).toNat ≤ 2 ^ 57)
      && decide ((readS cx.g.regs 5).toNat < 2 ^ 57) && storesDone cx.g s.seq
      && (x == 0 || privileged cx.g.ident && decide ((readS cx.g.regs 7).toNat < 65536))
    let s := cacheState []
    let r := cacheState [(5, 0x1FFFFFFFFFFFFFF), (6, 1), (7, 65535)]
    meets (.vcdef 0 12 4) s (named .define) = true
    ∧ meets (.vcrsz 0 63 4) (cacheState [] |> fun s => modGrp s 0 fun g => { g with regs := { s := [(4, 0x10001)] } }) (named .resize) = true
    ∧ meets (.vcret 0 12 4) s (named .retire) = true
    ∧ meets (.vcq 0 12 8) (cacheState [(8, 0x33F)]) (fun _ cx => decide ((readS cx.g.regs 8).toNat < 2 ^ 10)
      && (readS cx.g.regs 8).toNat / 2 ^ 6 % 4 == 0) = true
    ∧ meets (.vcwb 0 5 6 7 0) r (range 0) = true ∧ meets (.vcinv 0 5 6 7 1) r (range 1) = true
    ∧ (applyVc s 0 .retire 1).1 ≠ 0 := by decide +kernel

/-- Operations that are accepted: the definition of VC 3 over one bank of slice 2, the resize of an Active one, its retirement; a
VC that VCQ finds for its owner, and not for another context; and frames of the range, one that a read reaches. -/
theorem witness_CacheResults_accepted :
    let rec1 : Nat := 0x303 + 3 * 2 ^ 47 + 1 * 2 ^ 53 + 1 * 2 ^ 59
    let v : Vc := { state := .active, record := 1, spec := { owner := 0 } }
    let s := fun (l : Tbl Vc) => modMem (withRecs [(1, [rec1, 2 * 2 ^ 37])] (livePriv { s := [(4, 1)] })) 0 fun m => { m with vcs := l }
    let framed := fun (lo : Nat) => (framesIn (s []) 0 0 true lo (lo + 1)).2
    (tblGet? (s []).islands 0).isSome = true ∧ (applyVc (s []) 0 .define 1).1 = 0
    ∧ (applyVc (s [(3, v)]) 0 .resize 0x10001).1 = 0 ∧ (applyVc (s [(3, v)]) 0 .retire 1).1 = 0
    ∧ NoVc (islOf (s [(3, v)]) 0).mem 1 3 ∧ ¬ NoVc (islOf (s [(3, v)]) 0).mem 0 3 ∧ ¬ NoVc (islOf (s []) 0).mem 9 3
    ∧ (framed 0x1000).length = 1 ∧ framed 0x40000000 = []
    ∧ Framed [(64, 128)] 2 ∧ ¬ Framed [(64, 128)] 3 := by
  simp only [NoVc, Framed]
  decide +kernel

theorem witness_MonitorResults :
    let m := fun (o : Nat) (p : Bool) => modIsl (live fun g => { g with
        ident := { g.ident with priv := p }, regs := { s := [(4, 1 + 31 * 2 ^ 40)] } }) 0 fun x =>
      { x with monitors := [(3, { owner := o, src := 1 })] }
    meets (.monr 0 63 3 0) (m 7 true) (fun _ cx => privileged cx.g.ident) = true
    ∧ meets (.monr 0 12 3 19) (m 0 false) (fun s cx => (monitorOf s 0 3).owner == cx.g.ident.ctx) = true
    ∧ meets (.monr 0 12 3 1) (m 0xFFFF false) (fun s _ => (monitorOf s 0 3).owner == 0xFFFF) = true
    ∧ meets (.moncCfg 0 3 4) (m 0 false) (fun s cx => !foreignMonitor s cx 3 && !monitorWordBad (readS cx.g.regs 4).toNat
      && !srcPrivileged ((readS cx.g.regs 4).toNat % 256)) = true
    ∧ meets (.moncClr 0 3) (m 0 false) (fun s cx => !foreignMonitor s cx 3) = true
    ∧ meets (.moncRel 0 3) (m 7 true) (fun s cx => !foreignMonitor s cx 3) = true
    ∧ meets (.moncClr 0 3) (m 7 false) (fun s cx => foreignMonitor s cx 3) = true
    ∧ meets (.moncCfg 0 3 4) (m 7 false) (fun s cx => foreignMonitor s cx 3 && !monitorWordBad (readS cx.g.regs 4).toNat) = true
    ∧ meets (.moncCfg 0 3 5) (live fun g => { g with regs := { s := [(5, 0x100)] } }) (fun _ cx => monitorWordBad (readS cx.g.regs 5).toNat) = true
    ∧ meets (.moncCfg 0 3 5) (live fun g => { g with regs := { s := [(5, 0x10)] } }) (fun s cx => !foreignMonitor s cx 3
      && !monitorWordBad (readS cx.g.regs 5).toNat && srcPrivileged ((readS cx.g.regs 5).toNat % 256)) = true
    ∧ meets (.monr 0 12 3 1) (m 7 false) (fun s cx => !privileged cx.g.ident && (monitorOf s 0 3).owner != cx.g.ident.ctx
      && (monitorOf s 0 3).owner != 0xFFFF) = true := by decide +kernel

/-! ### Events of a core -/

/-- A machine whose fragment holds at h, its group as f leaves it, its operations numbered below 5. -/
def holding (h : Hold) (f : Group → Group) : State :=
  { live fun g => f { g with frags := [{ mask := 0xFFFF, pc := 0x100, slot := 0, hold := h }] } with seq := 5 }

/-- A group with operations under way. -/
def withOps (l : List FlightOp) (g : Group) : Group := { g with ops := l }

theorem witness_HoldsEnd :
    let g := fun (s : State) => grpOf s 0
    let f := fun (s : State) => fragOf s 0 0
    let w := fun (h : Hold) (p : State → Bool) (l : List FlightOp) => let s := holding h (withOps l); (f s).hold == h && p s
    let port := fun (t : Nat) (p : Port) => { modPort (holding (.pfence 3 9) id) 0 3 fun _ => p with panel := { ptime := t } }
    (f (liveR {})).hold ≠ .sleep 5
    ∧ w (.sleep 5) (fun _ => true) [] = true
    ∧ w (.waitOps 2 5) (fun s => waitDone (g s) 2 5) [under .load] = true
    ∧ w (.waitOps 2 5) (fun s => !waitDone (g s) 2 5) [under .store] = true
    ∧ w (.mfence 2 4 5) (fun s => mfenceDone (g s) 2 (f s).mask 5) [] = true
    ∧ w (.mfence 2 4 5) (fun s => !mfenceDone (g s) 2 (f s).mask 5) [under .store] = true
    ∧ w (.rfence 5) (fun s => remotesDone (g s) 5 && (g s).held.all fun h => !h.remote) [] = true
    ∧ w (.rfence 5) (fun s => !remotesDone (g s) 5) [under .remote] = true
    ∧ (let s := holding (.rfence 5) fun g => { g with held := [{ cause := 1, pc := 0 }, { cause := 2, pc := 0, remote := true }] }
       remotesDone (g s) 5 = true ∧ (g s).held.map (·.remote) = [false, true] ∧ (tblGet? s.groups 0).isSome = true)
    ∧ (portOf (port 0 {}) 0 3).owed = []
    ∧ (let s := port 100000 { owed := [(0, 0, 0, 0)] }
       (portOf s 0 3).owed ≠ [] ∧ (portOf s 0 3).fencedAt + 100000 ≤ s.panel.ptime ∧ (f s).hold = .pfence 3 9)
    ∧ (let s := port 99999 { owed := [(0, 0, 0, 0)] }
       (portOf s 0 3).owed ≠ [] ∧ s.panel.ptime < (portOf s 0 3).fencedAt + 100000 ∧ (f s).hold = .pfence 3 9)
    ∧ ofMode (holding (.sleep 5) id) 0 0 ∧ ¬ ofMode (holding (.sleep 5) fun g => { g with hmode := true }) 0 0
    ∧ (let s := fun (n : Nat) => holding (.waitn 7 3 0 0x40) fun g => { g with frags := g.frags.map fun f => { f with waited := n } }
       (f (s 1000000)).hold = .waitn 7 3 0 0x40 ∧ ofMode (s 1000000) 0 0 ∧ 1000 * (teamOf (s 0) (g (s 0)).ident.team).bartime = 1000000
       ∧ (f (s 1000000)).waited = 1000000 ∧ (f (s 999999)).waited < 1000000)
    ∧ (let s := fun (n : Nat) => { live fun g => { g with frags := [{ mask := 1, pc := 0x100, waiting := true, feedSince := some 7 }] }
         with panel := { ptime := n } }
       (f (s 1000007)).waiting = true ∧ (f (s 1000007)).feedSince = some 7 ∧ ofMode (s 1000007) 0 0
       ∧ 7 + 1000 * (teamOf (s 0) (g (s 0)).ident.team).bartime = 1000007)
    ∧ ((f (liveR {})).waiting = false)
    ∧ (let s := withBar armed (holding (.barv 1 1 9 5) id)
       (f s).hold = .barv 1 1 9 5 ∧ accessesDone (g s) 5 = true ∧ (g s).frags.map (·.parked) = [none] ∧ ofMode s 0 0
       ∧ (barOf s 0 1).state = .armed ∧ 1 < (barOf s 0 1).remain ∧ (barOf (holding (.barv 1 1 9 5) id) 0 1).state = .idle)
    ∧ w (.barv 1 1 9 5) (fun s => !accessesDone (g s) 5) [under .store] = true := by simp only [ofMode]; decide +kernel

theorem witness_HoldsEnd_late :
    let g := fun (s : State) => grpOf s 0
    let s := withBar { armed with state := .complete } (holding (.bwait 1 7 0x200) id)
    (barOf (withBar armed s) 0 1).state = .armed ∧ (tblGet? s.teams 0).isSome = true
    ∧ (barOf s 0 1).state = .complete ∧ anyWaiter s 0 1 = true
    ∧ (let t := withBar { armed with state := .complete } (liveR {})
       timerRuns t 0 1 (barOf t 0 1) = false)
    ∧ (let t := withBar { armed with timer := 1000000 } (liveR {})
       timerRuns t 0 1 (barOf t 0 1) = true ∧ 1000 * (teamOf t 0).bartime ≤ (barOf t 0 1).timer)
    ∧ (barOf (withBar { armed with timer := 999999 } s) 0 1).timer < 1000 * (teamOf s 0).bartime
    ∧ (let t := live fun g => { g with frags := [], draining := some (0x100, 0xFFFF) }
       (g t).draining = some (0x100, 0xFFFF) ∧ fenceDone (g t) t.seq = true ∧ surfaced (g t) = none)
    ∧ (let t := { live fun g => { g with frags := [], draining := some (0x100, 0xFFFF), ops := [under .store] } with seq := 5 }
       (g t).draining = some (0x100, 0xFFFF) ∧ fenceDone (g t) t.seq = false)
    ∧ (let r : TrapReq := { cause := 1, tspc := 0x100, mask := 0xFFFF }
       let q := fun (l : List ChainRec) => live fun g =>
         { g with trapReq := some r, chains := l, ident := { g.ident with handlerPc := some 0x400 } }
       (g (q [])).trapReq = some r ∧ (g (q [])).ident.handlerPc = some 0x400 ∧ entryBlocked (g (q [])) = false
       ∧ entryBlocked (g (q [{}])) = true) := by decide +kernel

/-- A group whose one operation, number 3, is o. -/
def oneOp (o : FlightOp) : State := holding .none (withOps [{ o with id := 3 }])

theorem witness_OperationsRetire :
    let g := fun (s : State) => grpOf s 0
    let l : FlightOp := { id := 3, cls := .load, writes := [{ elem := .s 4, val := 9 }] }
    let t : FlightOp := { id := 3, cls := .matrix, payload := .tld 2, writes := [{ elem := .v 8 0, val := 9 }] }
    let ts : FlightOp := { id := 3, cls := .matrix, payload := .tst 2 1 [(0, [1, 2])] }
    let te : FlightOp := { id := 3, cls := .matrix, payload := .tepi 2 3 }
    let mm : FlightOp := { id := 3, cls := .matrix, payload := .mma 2 1 4 false 0 [] [] [] [] }
    opWith (g (oneOp l)) .load 3 = some l ∧ opWith (g (liveR {})) .load 3 = none
    ∧ opWith (g (oneOp { l with cls := .store, writes := [] })) .store 3 = some { l with cls := .store, writes := [] }
    ∧ opWith (g (oneOp { l with cls := .copy, writes := [] })) .copy 3 = some { l with cls := .copy, writes := [] }
    ∧ opAt (g (oneOp t)) 3 = some t ∧ opAt (g (oneOp ts)) 3 = some ts ∧ opAt (g (oneOp te)) 3 = some te
    ∧ opAt (g (oneOp mm)) 3 = some mm
    ∧ earlier (oneOp ts) 0 (opTiles (oneOp ts) (g (oneOp ts)) ts) 3 waitsForAny = false
    ∧ (opTiles (oneOp ts) (g (oneOp ts)) ts)[0]? = some 2
    ∧ earlier (oneOp mm) 0 (opTiles (oneOp mm) (g (oneOp mm)) mm) 3 waitsForAny = false
    ∧ (opTiles (oneOp mm) (g (oneOp mm)) mm)[0]? = some 2
    ∧ (tblGet? (oneOp ts).groups 0).isSome = true ∧ (tblGet? (oneOp ts).teams 0).isSome = true := by decide +kernel

theorem witness_OperationsRetire_long :
    let g := fun (s : State) => grpOf s 0
    let m : MmapRec := { id := 3, mask := 0xFFFF, word0 := 1 * 2 ^ 32 }
    let s := fun (m : MmapRec) => modTeam (holding .mmap fun g => { g with mmap := some m }) 0 fun t => { t with cores := [0, 1], ntiles := 32 }
    let c : ChainRec := { id := 4, pc := 0x100, mask := 0xFFFF }
    let ch := fun (c : ChainRec) => holding .chain fun g => { g with chains := [c] }
    let e : FeedEntry := { mask := 3, fmt := 0, fn := 2, vals := [0x3F800000, 0x40000000] }
    (g (s m)).mmap = some m ∧ m.done < mmapBlocks m.word0 ∧ mmapTurn (s m) (g (s m)) m = true
    ∧ (tblGet? (s m).groups 0).isSome = true ∧ (g (liveR {})).mmap = none
    ∧ mmapBlocks m.word0 ≤ ({ m with done := 2 } : MmapRec).done
    ∧ m.rerun.contains 5 = false ∧ ({ m with rerun := [5] } : MmapRec).rerun.contains 5 = true
    ∧ (fragOf (ch c) 0 0).hold = .chain ∧ chainOf (g (ch c)) (fragOf (ch c) 0 0) = some c ∧ c.rerun = false
    ∧ chainOf (g (ch { c with rerun := true })) (fragOf (ch { c with rerun := true }) 0 0) = some { c with rerun := true }
    ∧ (let s := live fun g => { g with win1 := { q0 := [e], taken := (List.range 7).map fun _ => {} } }
       (g s).win1.q0 = [e] ∧ q1Load (g s).win1 < 8)
    ∧ (let s := live fun g => { g with win0 := { taken := [e] } }; (g s).win0.taken = [e])
    ∧ inMask e.mask 1 = true ∧ packed e.fmt = false ∧ (tblGet? (s m).teams (g (s m)).ident.team).isSome = true
    ∧ nth (pairKeys (teamOf (s m) 0) 0 0) 31 = 47
    ∧ (let late := holding .none fun g => { g with trapReq := some { cause := 0, tspc := 0, mask := 0 } }
       (g late).hmode = false ∧ (g late).trapReq ≠ none) := by decide +kernel

/-- Engine operations 3 and 4 of the island: their barrier is armed, with bytes due. -/
theorem witness_OperationsRetire_landing :
    let lands := fun (o : EngineOp) =>
      let s := withBar { armed with eng := 1, pend := 32 } (modMem (liveR {}) 0 fun m => { m with engines := [(3, o)] })
      let b := barOf s o.team o.bar
      tblGet? (islOf s 0).mem.engines 3 = some o ∧ (tblGet? s.teams o.team).isSome = true ∧ b.pend - o.count ≤ 2 ^ 39 - 1
      ∧ -(2 ^ 39 : Int) ≤ b.pend - o.count ∧ tblGet? s.groups o.grp ≠ none ∧ (grpOf s o.grp).age = o.age
      ∧ (∀ x, x < 64 → ¬ Lost (teamOf s o.team) x) ∧ marked s 0 0x2000 = false
    let p : EnginePiece := { phys := some 0x2000, taddr := 16, bits := 128 }
    let o : EngineOp := { kind := .tcopy, pieces := [p, { taddr := 32, bits := 128 }], clear := [(0, 16)], count := 32, bar := 1, d := 5 }
    lands o ∧ lands { o with kind := .tsto } ∧ lands { o with kind := .acp16 }
    ∧ PiecesReached (liveR {}) o.pieces
    ∧ o.pieces = [] ++ p :: [{ taddr := 32, bits := 128 }] ∧ p.bits % 8 = 0 ∧ 0x2000 + p.bits / 8 ≤ hostBase
    ∧ (tblGet? (liveR {}).groups 0).isSome = true := by
  simp only [Lost, PiecesReached, List.forall_mem_cons, List.not_mem_nil, false_implies, implies_true, and_true]
  decide +kernel

/-! ### Contexts and partitions -/

/-- A well-formed descriptor of context 0, of quad 0 and a save area at 0x12000000. -/
def descBytes (m : Memory) (base : Nat) : Memory :=
  [(0x60, 1), (0x68, 1), (0x70, 0x12000000)].foldl (fun m p => memPutNat m (base + p.1) p.2 8) m

/-- A machine whose context 0 is as given, with a descriptor, and an image whose VC records are absent. -/
def ctxState (x : Context) : State :=
  let img : Memory := (List.range 64).map fun v => (0x12000100 + 16 * v, 63)
  modCtx (modMem (liveR {}) 0 fun m => { m with bytes := descBytes [] m.ctxBase ++ img }) 0 0 fun _ => x

/-- Another context on quad 0. -/
def taken0 (s : State) : State := modIsl s 0 fun x => { x with ctxs := tblSet x.ctxs 5 { state := .resident, qmask := 1 } }

theorem witness_ContextCommandResults :
    let c := fun (st : CtxState) => ctxState { state := st }
    ([.built, .resident, .running, .halting, .parked, .saved, .faulted, .terminated] : List CtxState).all (fun st =>
      (islOf (c st) 0).ctxBusy == false && stateOf (c st) 0 0 == st) = true
    ∧ open' (c .built) 0 0 ∧ descBad (c .built) 0 0 = false
    ∧ BitVec.ofNat 64 (descWord (c .built) 0 0 0x68) &&& quadsHeld (c .built) 0 0 = 0
    ∧ descBad (liveR {}) 0 0 = true
    ∧ (let s := taken0 (c .terminated)
       descBad s 0 0 = false ∧ BitVec.ofNat 64 (descWord s 0 0 0x68) &&& quadsHeld s 0 0 ≠ 0)
    ∧ (let s := modIsl (c .running) 0 fun x => { x with ctxBusy := true }; (islOf s 0).ctxBusy = true)
    ∧ haltReady (c .halting) 0 0 = true ∧ (∀ p ∈ (c .halting).groups, grpOf (c .halting) p.1 = p.2)
    ∧ restoreStatus (c .saved) 0 0 = 0 ∧ restoreStatus (modCtx (liveR {}) 0 0 fun _ => { state := .saved }) 0 0 ≠ 0
    ∧ (let s := ctxState { state := .saved, restoring := true }
       (ctxOf s 0 0).restoring = true ∧ (ctxOf s 0 0).released = [] ∧ (islOf s 0).ctxCtx = 0)
    ∧ (ctxOf (c .parked) 0 0).released = []
    ∧ (let s := ctxState { state := .faulted, captured := true, faultedBy := .heartbeat }
       stateOf s 0 0 = .faulted ∧ (ctxOf s 0 0).captured = true ∧ (ctxOf s 0 0).faultedBy = .heartbeat)
    ∧ (let s := ctxState { state := .faulted, captured := true, faultedBy := .quarantine }
       stateOf s 0 0 = .faulted ∧ (ctxOf s 0 0).captured = true ∧ (ctxOf s 0 0).faultedBy ≠ .freeze ∧ (ctxOf s 0 0).faultedBy ≠ .heartbeat)
    ∧ (ctxOf (c .faulted) 0 0).captured = false
    ∧ (let s := taken0 (ctxState { state := .faulted, captured := true, faultedBy := .freeze, unseated := true, qmask := 1 })
       (ctxOf s 0 0).unseated = true ∧ (ctxOf s 0 0).qmask &&& quadsHeld s 0 0 ≠ 0) := by
  simp only [open']
  decide +kernel

/-- A grid of one team of two groups that waits for its place in context 0, Resident on quad 0. -/
def gridState : State :=
  let s := { ctxState { state := .resident, qmask := 1 } with groups := [], teams := [], seq := 9 }
  { s with panel := { s.panel with grids := [(2, { nteam := 1, lanes := 32, tmem := 4096, args := [5] })] } }

theorem witness_PartitionEventResults :
    let claim := fun (allot : Nat) (st : GroupState) (h : Hold) =>
      holding h fun g => { g with allot := allot, state := st, ident := { g.ident with width := 2 } }
    let s := claim 8 .active (.rgrow 128)
    let many := fun (h : Hold) => { s with groups := s.groups ++ (List.range 45).map fun k =>
      (k + 1, { bareGroup with allot := 128, age := k + 1, frags := [{ mask := 1, hold := h }], ident := { bareGroup.ident with width := 2 } }) }
    oldestClaim (claim 64 .spilled .none) 0 0 = some (0, 16384) ∧ 16384 ≤ poolBytes (claim 64 .spilled .none) 0 0
    ∧ claimFrag (grpOf (claim 64 .spilled .none) 0) = none
    ∧ oldestClaim s 0 0 = some (0, 30720) ∧ 30720 ≤ poolBytes s 0 0 ∧ claimFrag (grpOf s 0) = some (0, 128)
    ∧ poolBytes (many .none) 0 0 < 30720 ∧ claimsStuck s 0 0 = false
    ∧ claimsStuck (many (.sleep 5)) 0 0 = true ∧ (spillVictim (many (.sleep 5)) 0 0).map (·.1) = some 45
    ∧ ((spillVictim (many (.sleep 5)) 0 0).map fun p => spillReady p.2) = some true
    ∧ (let full := modTeam s 0 fun t => { t with regBase := 100000 }
       claimsStuck full 0 0 = true ∧ spillVictim full 0 0 = none ∧ (oldestClaim full 0 0).isSome = true) := by decide +kernel

theorem witness_PartitionEventResults_more :
    let late := modIsl (liveR {}) 0 fun x => { x with cores := [(0, { missed := 2 })] }
    (coreGroups late 0 0).map (·.1) = [0] ∧ 2 ≤ (tblGet (islOf late 0).cores 0).missed ∧ stateOf late 0 0 = .running
    ∧ coreGroups late 0 1 = [] ∧ (tblGet (islOf (liveR {}) 0).cores 0).missed < 2
    ∧ ((10 : Word).toNat % 2 ^ 14 = 10 ∧ (10000 : Word).toNat % 2 ^ 14 = 10000)
    ∧ ((9 : Word).toNat % 2 ^ 14 < 10 ∧ 10000 < (10001 : Word).toNat % 2 ^ 14)
    ∧ (nextTeam gridState 0 0).map (fun x => (x.1, x.2.2, x.2.1.groups)) = some (2, [0], 2)
    ∧ stateOf gridState 0 0 = .resident ∧ (ctxOf gridState 0 0).bwb = 0 ∧ (ctxOf gridState 0 0).pwb = 0
    ∧ nextTeam (liveR {}) 0 0 = none ∧ stateOf (ctxState {}) 0 0 = .built
    ∧ (let s := { liveR {} with propagate := [(0, 1, some .freeze), (0, 1, none)] }
       s.propagate.head? = some (0, 1, some .freeze) ∧ stateOf s 0 0 = .running ∧ (tblGet? (islOf s 0).ctxs 0).isSome = true)
    ∧ stateOf (ctxState { state := .parked }) 0 0 = .parked ∧ (2 : Nat) < 3
    ∧ (let s := { ctxState { state := .faulted, faultedBy := .freeze, frozen := true } with propagate := [(0, 1, some .uncorr)] }
       stateOf s 0 0 = .faulted ∧ (ctxOf s 0 0).frozen = true ∧ s.propagate = [(0, 1, some .uncorr)])
    ∧ (ctxOf (ctxState { state := .parked }) 0 0).frozen = false
    ∧ (liveR {}).propagate = [] ∧ (liveR {}).panel.frozen.contains 1 = false
    ∧ ({ (liveR {}).panel with frozen := [1] } : Panel).frozen.contains 1 = true := by decide +kernel

/-! ### Events of an island's memory, virtual caches, queues -/

theorem witness_MemoryEventResults :
    let w := fun (m : IslandMem → IslandMem) => modMem (liveR {}) 0 m
    let p : Park := { record := [0x123] }
    let parked := modMem (live fun g => { g with frags := [{ mask := 0xFFFF, pc := 0x100, parked := some 9 }] }) 0 fun m =>
      { m with parks := [(9, p)] }
    let off := modCtx parked 0 0 fun c => { c with state := .saved }
    (islOf (w id) 0).mem.frqWait = []
    ∧ (let s := w fun m => { m with frqWait := [[5]] }
       (islOf s 0).mem.frqWait = [[5]] ∧ frqCount (islOf s 0).mem < 4095
       ∧ (islOf s 0).mem.frqBase + 128 * (islOf s 0).mem.frqTail + 128 ≤ hostBase)
    ∧ 4095 ≤ frqCount (islOf (w fun m => { m with frqWait := [[5]], frqTail := 4095 }) 0).mem
    ∧ tblGet? (islOf (w id) 0).mem.parks 9 = none ∧ tblGet? (islOf parked 0).mem.parks 9 = some p
    ∧ offCores (stateOf parked 0 0) = false ∧ parkedAt (grpOf parked 0) 9 = some 0 ∧ offCores (stateOf off 0 0) = true
    ∧ (tblGet? (w id).islands 0).isSome = true ∧ failsBank (w id) 0 3 [7] = false
    ∧ (let s := w fun m => { m with bankErrors := [(3, none, 0)] }
       failsBank s 0 3 [] = true ∧ (islOf s 0).mem.failed.contains 3 = false)
    ∧ isHost (64 * 7 + 16 * 3) = false ∧ tblGet? (islOf (w id) 0).mem.sectors 7 = none
    ∧ (tblGet? (islOf (w fun m => { m with sectors := [(7, { vc := 3 })] }) 0).mem.sectors 7).map (·.vc) = some 3
    ∧ (let s := w fun m => { m with sectors := [(7, { bank := 3, dirty := true })] }
       ((islOf s 0).mem.sectors.map fun p => (p.1, p.2.bank, p.2.dirty)) = [(7, 3, true)] ∧ isHost (64 * 7) = false)
    ∧ (bankHolder (islOf (w id) 0).mem 3).isNone = true
    ∧ (parkedOn (modCtx (modMem (liveR {}) 0 fun m => { m with vcs := [(3, { state := .active, spec := { owner := 0 }, deckle := [{ banks := 24 }] })] }) 0 0
        fun c => { c with state := .parked, shadow := 3 }) 0 3) = [0]
    ∧ ([3, 251] : List Nat).Nodup ∧ (([3, 251] : List Nat).map fun c => l1Of (pooledCore (liveR {}) 0 c) c).Nodup
    ∧ rankFrom 250 251 ≤ rankFrom 250 3 ∧ (64 * (hostBase / 64) + 3 = hostBase + 3) ∧ isHost (hostBase + 3) = true
    ∧ physOk (hostBase + 3) 61 = true
    ∧ ({ (liveR {}).panel with down := [1] } : Panel).down.contains 1 = true
    ∧ ({ (liveR {}).panel with frozen := [1] } : Panel).frozen.contains 1 = true
    ∧ (let pn : Panel := { (liveR {}).panel with ncount := 1, phase := 7 }
       let s : State := { liveR {} with panel := pn }
       pn.down.contains 3 = false ∧ pn.frozen.contains 3 = false ∧ hostReaches s ((hbmEnd - 1) / 2 ^ 39) = true ∧ pn.phase = 7
       ∧ hostReaches s (2 ^ 39 / 2 ^ 39) = false ∧ (hbmEnd - 1) % 2 ^ 39 < hbmEnd ∧ (hbmEnd - 1) % 2 ^ 39 + 1 ≤ hbmEnd)
    ∧ tblGet? (islOf (w fun m => { m with home := [(7, { cxl := .modified })] }) 0).mem.home 7 = some { cxl := .modified } := by
  decide +kernel

/-- A machine whose virtual cache 3 is v. -/
def vcState (v : Vc) (l : Tbl Sector) : State := modMem (liveR {}) 0 fun m => { m with vcs := [(3, v)], sectors := l }

theorem witness_CacheEventResults :
    let m := fun (v : Vc) => (islOf (vcState v []) 0).mem
    let old := (islOf (vcState { state := .resizing } [(64, { vc := 3, old := true, line := 64 })]) 0).mem
    (vcOf (m { state := .defined }) 3).state = .defined
    ∧ ((vcOf (m { state := .resizing, claim := [5] }) 3).state = .resizing ∧ (vcOf (m { state := .resizing, claim := [5] }) 3).claim = [5])
    ∧ ((vcOf old 3).state = .resizing ∧ (vcOf old 3).claim = [] ∧ oldLine old 3 = some 64)
    ∧ oldLine (m { state := .resizing }) 3 = none
    ∧ (let s := vcState { state := .draining } []
       (vcOf (islOf s 0).mem 3).state = .draining ∧ (vcOf (islOf s 0).mem 3).draining = false ∧ vcQuiet s 0 3 0 = true)
    ∧ (vcOf (m { state := .draining, draining := true }) 3).draining = true
    ∧ (vcOf (m {}) 3).state = .undefined := by decide +kernel

/-- A machine of one island whose queue 2 is q. -/
def queueState (q : Queue) : State :=
  let s := remoteState []
  { s with panel := { s.panel with queues := [(2, q)], ncount := 1, phase := 7 } }

theorem witness_QueueCommandResults :
    let q := fun (x : QueueState) => queueOf (queueState { state := x, cfg := 4 }) 2
    let e := liveR {}
    (registersExposed (queueState {}) = true ∧ registersExposed e = false
      ∧ registersExposed { e with panel := { e.panel with phase := 0xFF, error := 1 } } = false)
    ∧ (startedOf (queueState { state := .running }) 2 = []
      ∧ (let s := queueState { state := .running }; startedOf { s with panel := { s.panel with started := [(3, { queue := 2 })] } } 2 ≠ []))
    ∧ ((queueOf e 2).state = .none ∧ descriptorBad (queueState {}) 1024 4 = false ∧ descriptorBad (queueState {}) 512 4 = true
      ∧ descriptorBad (queueState {}) 0x400000 16 = false ∧ 1023 < 1024)
    ∧ ([.created, .enabled, .running, .blocked, .draining, .disabled, .error] : List QueueState).all (fun x => (q x).state == x)
    ∧ qDev (q .created) = false ∧ qDev (queueOf (queueState { state := .created, cfg := 0x2004 }) 2) = true
    ∧ tailOk (q .enabled) 16 = true ∧ tailOk (q .enabled) 17 = false ∧ mayFail (q .enabled) = true := by decide +kernel

/-- Queue 2 Running with the packet of the words as its next. -/
def nextPacket (ws : List Nat) : State :=
  queueState { state := .running, cfg := 0x4004, tail := 1, next := some ((ws ++ List.replicate (8 - ws.length) 0).map (BitVec.ofNat 64)) }

/-- It is the one the processor serves. -/
def served (s : State) (ty : Nat) : Bool :=
  chooseQueue s == some 2 && mayFail (queueOf s 2) && (match (queueOf s 2).next with
    | some ds => packetType (ds.map BitVec.toNat) == ty
    | none => false)

theorem witness_PacketResults :
    let ring := fun (w : Nat) => physPut (queueState { state := .running, cfg := 4, tail := 1, base := 1024 }) 0 1024 (leBytes w 8)
    let reads := fun (s : State) => (readSlot s (queueOf s 2)).map fun ds => acceptStatus s (queueOf s 2) (ds.map BitVec.toNat)
    let wait := fun (met : Bool) => { nextPacket [2, 7, 5 * 2 ^ 32, 9] with
      panel := { (nextPacket [2, 7, 5 * 2 ^ 32, 9]).panel with waits := [(2, { ctr := 7, met := met })], ptime := 5000 } }
    let blocked := queueState { state := .blocked, next := some [2, 7, 5 * 2 ^ 32, 9, 0, 0, 0, 0] }
    chooseQueue (liveR {}) = none
    ∧ chooseQueue (ring 6) = some 2 ∧ (queueOf (ring 6) 2).next = none ∧ reads (ring 6) = some 0 ∧ reads (ring 0) = some 3
    ∧ readSlot (setMarks (ring 6) 0 [64]) (queueOf (ring 6) 2) = none ∧ mayFail (queueOf (ring 6) 2) = true
    ∧ served (wait true) 2 = true ∧ served (nextPacket [3, 7, 9]) 3 = true ∧ served (nextPacket [6 + 2 ^ 8 + 7 * 2 ^ 16]) 6 = true
    ∧ ((queueOf blocked 2).state = .blocked ∧ (nth [2, 7, 5 * 2 ^ 32] 2) / 2 ^ 32 ≠ 0 ∧ blocked.panel.checking = false
      ∧ (tblGet blocked.panel.waits 2).met = false)
    ∧ (queueOf blocked 2).since + 1000 * 5 ≤ (wait false).panel.ptime
    ∧ served (nextPacket [4, 0x100, 0x200, 8, 0]) 4 = true ∧ served (nextPacket [7, 1, 0x200, 0]) 7 = true
    ∧ served (nextPacket [7, 1, 0x200, 1]) 7 = true ∧ served (nextPacket [5, 0, 1]) 5 = true
    ∧ served (nextPacket [1, 0, 0, 1]) 1 = true ∧ launchIslands 0 = []
    ∧ hostUp (liveR {}) = true := by decide +kernel

/-- A COPY and a STAMP that have started and wait, their accesses free to go on now; and one whose accesses wait still. -/
theorem witness_PacketResults_waiting :
    let at7 := fun (ws : List Nat) => let s := queueState { state := .enabled }
      { s with panel := { s.panel with started := [(3, { queue := 2, words := ws.map (BitVec.ofNat 64), time := 9, todo := true })] } }
    let copy := at7 [4, 0x100, 0x200, 8, 0]
    let stamp := at7 [7, 1, 0x200, 1]
    let wait := fun (s : State) => modMem s 0 fun m => { m with
      bytes := memPutNat (memPutNat m.bytes (bareTables + 0x10008) (barePage + 2 ^ 57 + 2 ^ 58 + 0xDF) 8) (bareDescs + 0x21) 5 1
      vcs := [(5, { state := .defined })] }
    chooseQueue copy = none ∧ chooseQueue stamp = none ∧ (waitingOf copy 2 4).map (·.1) = some 3 ∧ (waitingOf stamp 2 7).map (·.1) = some 3
    ∧ (match sideRead copy 0 false 0x100 8 with
      | (s1, .ok bs) => (sideWrite s1 0 false 0x200 bs).2 == .done
      | _ => false) = true
    ∧ (sideWrite stamp 0 false 0x200 (leBytes 9 8)).2 = .done
    ∧ (match (sideRead (wait copy) 0 true 0x20000000 8).2 with | .waits => true | _ => false) = true
    ∧ (sideWrite (wait stamp) 0 true 0x20000000 (leBytes 9 8)).2 = .waits
    ∧ (sideWrite stamp 0 false (2 ^ 51 - 7) (leBytes 9 8)).2 = .refused
    ∧ waitingOf (queueState {}) 2 4 = none := by decide +kernel

theorem witness_PacketResults_sides :
    let s := nextPacket [4, 0x100, 0x200, 8, 0]
    (match sideRead s 0 false 0x100 8 with
      | (s1, .ok bs) => (sideWrite s1 0 false 0x200 bs).2 == .done
      | _ => false) = true
    ∧ (match (sideRead s 0 false (2 ^ 51 - 7) 8).2 with | .refused => true | _ => false) = true
    ∧ (sideWrite (nextPacket [7, 1, 0x200, 1]) 0 false 0x200 (leBytes 5 8)).2 = .done
    ∧ qPriv (queueOf s 2) = true ∧ qPriv (queueOf (queueState { cfg := 4 }) 2) = false
    ∧ vcObjFault s 0 0 .define 1 ≠ none
    ∧ (let t := withRecs [(1, [0x303])] (nextPacket [5, 2 * 2 ^ 8, 1])
       vcObjFault t 0 0 .retire 1 = none ∧ (applyVc t 0 .retire 1).1 ≠ 0)
    ∧ (let t := modMem (withRecs [(1, [0x303 + 3 * 2 ^ 47])] (nextPacket [5, 2 * 2 ^ 8, 1])) 0 fun m =>
         { m with vcs := [(3, { state := .active, record := 1 })] }
       vcObjFault t 0 0 .retire 1 = none ∧ (applyVc t 0 .retire 1).1 = 0) := by decide +kernel

theorem witness_PacketResults_ends :
    let p : QueuePacket := { queue := 2, grids := [4], words := [1] }
    let s := fun (g : GridState) => let q := queueState { state := .running }
      { q with panel := { q.panel with started := [(3, p)], grids := [(4, { state := g })], monitors := [(1, { src := 0x40 })] } }
    tblGet? (liveR {}).panel.started 3 = none ∧ tblGet? (s .complete).panel.started 3 = some p
    ∧ packetDone (s .running) p = false ∧ packetAborted (s .running) p = false ∧ packetDone (s .complete) p = true
    ∧ packetAborted (s .complete) p = false ∧ packetAborted (s .aborted) p = true ∧ mayFail (queueOf (s .aborted) 2) = true
    ∧ tblGet? (s .complete).panel.monitors 1 = some { src := 0x40 } := by decide +kernel

/-- A LAUNCH of a kernel whose header stands at 0x3000 of context 0, a line of its virtual cache 1, without arguments. -/
def launchState : State :=
  let hdr := leBytes (0x14C4E524B) 8 ++ leBytes (0x100 + 0 * 2 ^ 32) 8 ++ leBytes (8 * 2 ^ 8 + 8 * 2 ^ 16 + 16 * 2 ^ 32) 8
    ++ leBytes 0 8 ++ leBytes 0 8 ++ leBytes 0x1000 8
  modMem (physPut (nextPacket [1, 0x3000, 1, 1]) 0 (barePage + 0x3000) hdr) 0 fun m => { m with
    bytes := memPutNat m.bytes (m.ctxBase + 0x20) 1 1
    vcs := [(1, { state := .active, spec := { lineCode := 2 }, deckle := [{ banks := 24 }] })] }

theorem witness_PacketResults_launch :
    let s := launchState
    served s 1 = true ∧ launchIslands 1 = [0] ∧ 0 < s.panel.ncount ∧ stateOf s 0 0 = .running
    ∧ argBytes s (queueOf s 2) 0 0 = some []
    ∧ (match launchHeaders 0 0x3000 s [0] with
        | (s1, some hs, _) => (checkAllPages 0 0 0 s1 hs).2 == .done && hs.all fun h => headerStatus s1 h.1 0 h.2 == 0
        | _ => false) = true
    ∧ (let s := physPut s 0 (barePage + 0x3000) [0]
       (match launchHeaders 0 0x3000 s [0] with
        | (s1, some hs, _) => (checkAllPages 0 0 0 s1 hs).2 == .done && hs.any fun h => headerStatus s1 h.1 0 h.2 != 0
        | _ => false) = true ∧ served s 1 = true) := by decide +kernel

/-! ### Links, routes, switch cells -/

/-- Two islands: port 3 of island 0 and port 2 of island 1 face each other. -/
def links (x y : Port) : State := { State.reset with
  islands := [(0, { ports := [(3, { x with peer := some (1, 2) })] }), (1, { ports := [(2, { y with peer := some (0, 3) })] })] }

/-- One island whose port 3 is an edge link, with a cell for another panel. -/
def edge (x : Port) : State := { State.reset with
  islands := [(0, { ports := [(3, { x with edge := true })], cells := [(69, 5)] })]
  panel := { (State.reset).panel with store := { peers := [[7]] } } }

/-- The same at a panel time. -/
def atTime (t : Nat) (s : State) : State := { s with panel := { s.panel with ptime := t } }

theorem witness_LinkResults_training :
    let p := fun (s : State) => portOf s 0 3
    let tr := links { state := .training } { state := .training }
    let e := edge { state := .training, asked := true, answered := true }
    let x : Port := { state := .training }
    (Present tr 0 ∧ (p tr).edge = false ∧ (p tr).state = .training ∧ tr.panel.ptime ≤ (p tr).since + 1000000
      ∧ guidesOk (p tr) = true ∧ (p tr).peer = some (1, 2) ∧ (portOf tr 1 2).state = .training ∧ guidesOk (portOf tr 1 2) = true)
    ∧ (Present e 0 ∧ (p e).edge = true ∧ (p e).state = .training ∧ e.panel.ptime ≤ (p e).since + 1000000 ∧ guidesOk (p e) = true
      ∧ (p e).peer = none ∧ (p e).asked = true ∧ (p e).answered = true ∧ tblGet? (islOf e 0).cells 69 = some 5)
    ∧ ((p (links {} {})).state ≠ .training ∧ guidesOk (p (links { x with lost := [0, 1] } x)) = false
      ∧ guidesOk (p (links { x with lost := [8, 17] } x)) = true ∧ (p tr).since + 1000000 < (atTime 1000001 tr).panel.ptime)
    ∧ ((p e).answered = true ∧ (p (edge x)).answered = false ∧ (p (edge x)).asked = false
      ∧ flitOk 4 (clearKeyFlit []) = true ∧ flitKs (clearKeyFlit []) = 0)
    ∧ peerSigned (edge x) [8] [] [] = false := by unfold Present; decide +kernel

/-- A message of the enrolled peer whose signature verifies, which nothing in the model decides (log 10). -/
theorem witness_LinkResults_signed (msg sig : List Byte) (h : Config.verify [7] msg sig = true) (x : Port) :
    peerSigned (edge x) [7] msg sig = true := by exact h

theorem witness_LinkResults_states :
    let p := fun (s : State) => portOf s 0 3
    let up := links { state := .up } { state := .up }
    let rt := fun (x : Port) => links x { state := .retraining }
    let r := rt { state := .retraining }
    ((p up).state = .up ∧ (p up).relock = false ∧ Present up 1 ∧ (portOf up 1 2).state = .up)
    ∧ ((p (links { state := .fenced } {})).state = .fenced ∧ (p (links { state := .fenced } {})).relock = false)
    ∧ (3 ∈ guideMap 0 (p up) ∧ 12 ∈ guideMap 9 (p up) ∧ ¬(8 ∈ guideMap 0 (p up) ∨ 8 ∈ guideMap 9 (p up)) ∧ farGuide 3 = 12)
    ∧ (relocking (p r) = true ∧ (atTime 20000 r).panel.ptime ≤ (p r).since + 20000 ∧ guidesOk (p r) = true
      ∧ (p r).state = .retraining ∧ (portOf r 1 2).state = .retraining)
    ∧ (let old := fun (n : Nat) => rt { state := .retraining, buffer := [{ replays := n }, { replays := n, paused := true }] }
       (p (old 6)).peer ≠ some (0, 3) ∧ (∀ e ∈ (p (old 6)).buffer, e.replays < 7) ∧ (portOf (old 6) 1 2).buffer = []
       ∧ relocking (p (old 7)) = true ∧ ∃ e ∈ (p (old 7)).buffer, e.paused = false ∧ 7 ≤ e.replays)
    ∧ (relocking (p (rt { state := .fenced, relock := true })) = true ∧ relocking (p (rt { state := .up, relock := true })) = true)
    ∧ (relocking (p up) = false ∧ guidesOk (p (rt { state := .retraining, lost := [9, 10] })) = false
      ∧ (p r).since + 20000 < (atTime 20001 r).panel.ptime ∧ (p r).since + 20000 ≤ (atTime 20000 r).panel.ptime
      ∧ (atTime 19999 r).panel.ptime < (p r).since + 20000)
    ∧ ((p r).peer = some (1, 2) ∧ liveLink (portOf r 1 2) = true ∧ liveLink (portOf (links { state := .retraining } {}) 1 2) = false)
    ∧ (let f := links { state := .failed } {}
       (p f).state = .failed ∧ (p f).since + 1000000 ≤ (atTime 1000000 f).panel.ptime
       ∧ (atTime 999999 f).panel.ptime < (p f).since + 1000000 ∧ (p up).state ≠ .failed)
    ∧ receives (p (links {} {})) = false ∧ receives (p up) = true ∧ flitOk 0 (makeFlit 0 0 0 []) = true := by unfold Present; decide +kernel

theorem witness_LinkResults_flits :
    let b := fun (n : Nat) => (List.range n).map fun k => ({ seq := k } : BufferedFlit)
    let y : Port := { state := .up, buffer := [{ seq := 5, last := true, pkt := some { op := 9 } }] }
    let s := links { state := .up, ack := 4, buffer := b 3, placing := [{}] } y
    let p := portOf s 0 3
    let f := fun (kind : Nat) => makeFlit kind 1 5 []
    let again := fun (n : Nat) => portOf (links { state := .up, buffer := [{ seq := 3, replays := n }] } {}) 0 3
    Present s 0 ∧ receives p = true ∧ p.edge = false ∧ flitOk 1 (f 1) = true ∧ flitOk 2 (f 2) = true ∧ flitKs (f 1) = 0
    ∧ flitSeq (f 1) = (p.ack + 1) % 1024 ∧ p.peer = some (1, 2)
    ∧ p.buffer = b 1 ++ { seq := 1 } :: [{ seq := 2 }] ∧ (∀ e ∈ b 1, e.seq ≠ 1) ∧ flitAck (f 1) = 1
    ∧ (portOf s 1 2).buffer.find? (fun e => e.seq = (p.ack + 1) % 1024) = some { seq := 5, last := true, pkt := some { op := 9 } }
    ∧ checkFlit p 2 (f 1) = .discarded ∧ checkFlit p 1 (makeFlit 1 1 4 []) = .discarded
    ∧ flitOk 3 (makeFlit 3 1 0 []) = true
    ∧ (∀ e ∈ (freeAcked (flitAck (makeFlit 3 900 0 [])) (again 6)).buffer, e.replays < 7)
    ∧ (∃ e ∈ (freeAcked (flitAck (makeFlit 3 900 0 [])) (again 7)).buffer, 7 ≤ e.replays) := by unfold Present; decide +kernel

/-- An edge port with keys in slot 0, the next SEQ being 1. -/
def keyed : Port := { state := .up, slot0 := { tx := some {}, rx := some {}, rxc := 5 } }

/-- The tag of a flit of the edge link verifies or not, which nothing in the model decides (log 10). -/
theorem witness_LinkResults_sealed :
    let x := portOf (edge keyed) 0 3
    let r := slotAt (flitKs (makeFlit 2 0 1 [])) x
    Present (edge keyed) 0 ∧ receives x = true ∧ x.edge = true ∧ x.peer = none ∧ flitOk 1 (makeFlit 1 0 1 []) = true
    ∧ flitOk 2 (makeFlit 2 0 1 []) = true ∧ flitSeq (makeFlit 2 0 1 []) = (x.ack + 1) % 1024 ∧ r.rx = some {} ∧ r.rxc = 5
    ∧ x.tagFail ≠ some ((x.ack + 1) % 1024) ∧ (portOf (edge { keyed with tagFail := some 1 }) 0 3).tagFail = some ((x.ack + 1) % 1024) := by
  unfold Present; decide +kernel

/-- A KIND 4 flit of an edge link is accepted where its tag verifies, and leaves these ports. -/
theorem witness_LinkResults_control (h : Config.tagOk 0 0 5 (makeFlit 4 0 1 []) = true) :
    let after := fun (x : Port) (t : Port → Bool) => ∃ s1, receiveFlit (edge x) 0 3 4 (makeFlit 4 0 1 []) = (s1, true)
      ∧ t (portOf s1 0 3) = true
    after keyed (fun x => x.placing == [] && decide (x.buffer.length < 256) && emptySlot (otherKey x) && x.curSlot == 0 && !x.rolling)
    ∧ after { keyed with rolling := true } (fun x => x.rolling && emptySlot (otherKey x))
    ∧ after { keyed with rolling := true, slot1 := { tx := some {}, rx := some {} } } fun x => x.rolling && !emptySlot (otherKey x) := by
  have k : flitOk 4 (makeFlit 4 0 1 []) = true := by decide +kernel
  have q : flitSeq (makeFlit 4 0 1 []) = 1 := by decide +kernel
  have ks : flitKs (makeFlit 4 0 1 []) = 0 := by decide +kernel
  have r : ∀ x : Port, x.state = .up → x.relock = false → x.ack = 0 → x.slot0 = keyed.slot0 → x.tagFail = none →
      receiveFlit (edge x) 0 3 4 (makeFlit 4 0 1 []) = (modPort (edge x) 0 3 (acceptFlit (makeFlit 4 0 1 [])), true) := by
    intro x hs hr ha h0 ht
    have e : portOf (edge x) 0 3 = { x with edge := true } := rfl
    have hk : x.slot0 = { tx := some {}, rx := some {}, rxc := 5 } := h0
    have c : checkFlit { x with edge := true } 4 (makeFlit 4 0 1 []) = .accepted := by
      simp only [checkFlit, nextExpected, slotAt, k, q, ks, ha, hk, reduceIte]
      exact if_pos h
    have rc : receives { x with edge := true } = true := by simp [receives, hs, hr]
    unfold receiveFlit
    rw [e]
    simp only [rc, c, Bool.not_true, Bool.false_eq_true, if_false]
  exact ⟨⟨_, r _ rfl rfl rfl rfl rfl, by decide +kernel⟩, ⟨_, r _ rfl rfl rfl rfl rfl, by decide +kernel⟩,
    ⟨_, r _ rfl rfl rfl rfl rfl, by decide +kernel⟩⟩

theorem witness_LinkResults_keys :
    let x : Port := { keyed with slot0 := { keyed.slot0 with txc := 2 ^ 32 } }
    let p := fun (s : State) => portOf s 0 3
    (exchangeReady (p (edge x)) = true ∧ (p (edge x)).rolling = false ∧ (p (edge x)).retry = false ∧ 2 ^ 32 ≤ (curKey (p (edge x))).txc
      ∧ (curKey (p (edge keyed))).loaded + 600000000000 ≤ (atTime 600000000000 (edge keyed)).panel.ptime
      ∧ (curKey (p (edge keyed))).txc < 2 ^ 32 ∧ (edge keyed).panel.ptime < (curKey (p (edge keyed))).loaded + 600000000000
      ∧ exchangeReady (p (edge {})) = false ∧ (p (edge { x with rolling := true })).rolling = true)
    ∧ (let y := edge { x with retry := true }
       exchangeReady (p y) = true ∧ (p y).retry = true ∧ (p y).retryAt + 1000000000 ≤ (atTime 1000000000 y).panel.ptime
       ∧ y.panel.ptime < (p y).retryAt + 1000000000)
    ∧ (let y := p (edge { x with rolling := true })
       exchangeReady y = true ∧ y.retry = false ∧ y.rolling = true ∧ emptySlot (otherKey y) = true)
    ∧ (let y := p (edge { x with rolling := true, slot1 := { rx := some {} } })
       y.rolling = true ∧ emptySlot (otherKey y) = false ∧ (otherKey y).tx = none)
    ∧ (let y := p (edge { x with curSlot := 1, rolling := true, buffer := [{ ks := 1 }], slot1 := { tx := some {}, rx := some {} } })
       exchangeReady y = true ∧ y.rolling = true ∧ y.fresh = false ∧ (otherKey y).tx.isSome = true ∧ (∀ e ∈ y.buffer, e.ks = y.curSlot))
    ∧ (p (edge { x with fresh := true })).fresh = true ∧ (∃ e ∈ (p (edge { x with curSlot := 1, buffer := [{}] })).buffer, e.ks ≠ 1)
    ∧ (2 ^ 36 ≤ (p (edge { x with slot0 := { txc := 2 ^ 36 } })).slot0.txc
      ∧ 2 ^ 36 ≤ (p (edge { x with slot1 := { txc := 2 ^ 36 }, state := .fenced })).slot1.txc
      ∧ (p (edge { x with slot1 := { txc := 2 ^ 36 }, state := .fenced })).state = .fenced
      ∧ (p (edge x)).slot0.txc < 2 ^ 36 ∧ (p (edge x)).slot1.txc < 2 ^ 36) := by decide +kernel

/-- Two islands linked by their ports 3 and 2, with packets in the router of island 0 and a route of one hop. -/
def routing (x : Port) (l : List RemotePacket) : State :=
  let s := links x { state := .up }
  { s with panel := { s.panel with routed := (1, {}) :: l.map fun k => (0, k), routes := [(20, { k := 1, hops := [3] })] } }

theorem witness_LinkResults_router :
    let x : RemotePacket := { disl := 1, route := 20, op := 4 }
    let s := routing { state := .up }
    let full := fun (n : Nat) => portOf (routing { state := .up, buffer := List.replicate n {} } [x]) 0 3
    let port := fun (st : LinkState) => portOf (routing { state := st } [x]) 0 3
    Present (s [x]) 0 ∧ (routedAt (s [x]) 0)[1]? = none ∧ (routedAt (s [x]) 0)[0]? = some x ∧ behind (s [x]) 0 0 x = false
    ∧ (routedAt (s [x, x]) 0)[1]? = some x ∧ behind (s [x, x]) 0 1 x = true
    ∧ routerDo (s [x]) 0 x = .forward 3 { x with hop := 1 } ∧ x.reply = false
    ∧ linkOpen (full 255) = true ∧ portRoom (full 255) = true ∧ portRoom (full 256) = false
    ∧ (port .fenced).state = .fenced ∧ linkOpen (port .fenced) = false ∧ linkOpen (port .failed) = false
    ∧ (let y := { x with reply := true }
       (routedAt (s [y]) 0)[0]? = some y ∧ behind (s [y]) 0 0 y = false ∧ routerDo (s [y]) 0 y = .forward 3 { y with hop := 1 } ∧ y.reply = true)
    ∧ (let y := { x with hop := 1, disl := 0 }
       (routedAt (s [y]) 0)[0]? = some y ∧ behind (s [y]) 0 0 y = false ∧ routerDo (s [y]) 0 y = .deliver y ∧ y.notice = none
       ∧ routerDo (s [{ y with notice := some .failure }]) 0 { y with notice := some .failure } = .deliver { y with notice := some .failure })
    ∧ (let y := { x with route := 21 }
       (routedAt (s [y]) 0)[0]? = some y ∧ behind (s [y]) 0 0 y = false ∧ routerDo (s [y]) 0 y = .error ∧ y.notice = none
       ∧ (requestKey y).1 = (s [y]).panel.number ∧ (requestKey y).2.1 = 0)
    ∧ (let y := { x with route := 21, sisl := 1 }
       let cell := fun (s : State) => modIsl s 0 fun i => { i with cells := [(1, BitVec.ofNat 64 (2 ^ 63 + 20))] }
       (requestKey y).2.1 ≠ 0 ∧ noticeRoute (s [y]) 0 (requestKey y).1 (requestKey y).2.1 = none
       ∧ noticeRoute (cell (s [y])) 0 (requestKey y).1 (requestKey y).2.1 = some 20) := by
  unfold Present; decide +kernel

theorem witness_RouteAndSwitchResults :
    let cell : DWord := BitVec.ofNat 64 (2 ^ 63 + 20 + 21 * 2 ^ 16)
    let net := { (links { state := .up } { state := .up }) with
      islands := [(0, { ports := [(1, { state := .up, peer := some (1, 0) })], cells := [(1, cell)] }),
        (1, { ports := [(0, { state := .up, peer := some (0, 1) })] })] }
    let s := { net with panel := { net.panel with ncount := 2 } }
    let bad := { s with panel := { s.panel with sites := [(0, { state := .quarantined })] } }
    let away := fun (e : Nat) => { s with panel := { s.panel with unnamed := [(e, 0)], ptime := 100000 } }
    (quarantined bad 1 = true ∧ tblGet? (islOf s 0).cells 1 = some cell ∧ quarantined s 1 = false)
    ∧ (Present s 0 ∧ 1 < 64 ∧ replacementHops s 0 1 false = [1] ∧ replacementHops s 0 1 true = [1]
      ∧ carries { k := 1, hops := [1] } = true ∧ poolFree s 8192 = true ∧ poolFree s 16383 = true ∧ poolFree s 16384 = false
      ∧ poolFree s 8191 = false ∧ cellValid cell.toNat = true ∧ carries { k := 0, hops := [] } = false
      ∧ cellValid (tblGet (islOf s 1).cells 0).toNat = false)
    ∧ (1023 ≠ s.panel.number ∧ cellValid (tblGet (islOf s 0).cells (64 + 1023)).toNat = false
      ∧ (let used := modIsl s 0 fun x => { x with cells := [(64 + 5, cell)] }
         cellValid (tblGet (islOf used 0).cells (64 + 5)).toNat = true ∧ poolFree used 8192 = true))
    ∧ ((8200, 0) ∈ (away 8200).panel.unnamed ∧ (0 : Nat) + 100000 ≤ (away 8200).panel.ptime ∧ named s 8200 = false ∧ named s 21 = true
      ∧ entryInFlight (away 8200) 8200 = false
      ∧ entryInFlight { s with panel := { s.panel with routed := [(0, { route := 8200 })] } } 8200 = true
      ∧ (atTime 99999 s).panel.ptime < 0 + 100000) := by unfold Present; decide +kernel

theorem witness_RouteAndSwitchResults_cells :
    let m := fun (f : Matrix) (p : Port) =>
      let s := modIsl (links {} {}) 0 fun x => { x with matrix := f, ports := [(5, p)] }
      { s with panel := { s.panel with glass := [(0, .port 1 4)] } }
    let mat := fun (f : Matrix) => (islOf (m f {}) 0).matrix
    (mat { busy := true }).busy = true ∧ (mat {}).busy = false
    ∧ (RowUsable (mat {}) 15 ∧ RowUsable (mat { worn := [3] }) 3 ∧ ¬RowUsable (mat { worn := [3, 16, 17] }) 3)
    ∧ (CutsLight (m { set := [16] } { state := .up }) 0 1 0 ∧ ¬CutsLight (m { set := [16] } { state := .fenced, drained := true }) 0 1 0
      ∧ CutsLight (m { set := [16] } { state := .fenced }) 0 1 0 ∧ ¬CutsLight (m {} { state := .up }) 0 1 0)
    ∧ (let x := mat { busy := true, act := 1, row := 15, col := 15 }
       x.busy = true ∧ rowWorn x (nth x.rowMap x.row) = false ∧ x.act ≤ 1)
    ∧ (({ State.reset with islands := [(0, { site := 4, matrix := { wear := [(3, 2)] } }), (1, { site := 9 })] } : State).islands.map
      fun p => p.2.site).Nodup := by unfold RowUsable CutsLight; decide +kernel

/-- A write that joins the express ports of two islands by a circuit, or cuts it; and one to a fibre bundle. -/
theorem witness_RouteAndSwitchResults_light :
    let two := fun (x : Port) (f : Matrix) (glass : Tbl GlassEnd) =>
      let i := { site := 4, matrix := f, ports := [(4, x)] }
      let j := { site := 9, matrix := { set := [0] }, ports := [(4, x)] }
      ({ State.reset with islands := [(0, i), (1, j)], panel := { (State.reset).panel with glass := glass } } : State)
    let pair : Tbl GlassEnd := [(64, .port 9 4), (144, .port 4 4)]
    let after := fun (s : State) => match exec (.xcellComplete 0) s with | .next t => t | _ => s
    let lit := two {} { busy := true } pair
    let cut := two { state := .fenced, peer := some (1, 4) } { busy := true, act := 1, set := [0] } pair
    (Present lit 1 ∧ (tblGet? (islOf lit 1).ports 4).isSome = true ∧ (portOf lit 1 4).state = .dark ∧ (portOf lit 1 4).fence = false
      ∧ lightEnds (after lit) (islOf (after lit) 1).site 4 = (none, some (0, 4)) ∧ lit.panel.store.ports = [])
    ∧ ((portOf cut 0 4).state = .fenced ∧ (portOf cut 0 4).peer.isSome = true ∧ (islOf cut 0).matrix.set.contains 0 = true
      ∧ lightEnds (after cut) (islOf (after cut) 0).site 4 = (none, none))
    ∧ (let s := two {} { busy := true } [(64, .bundle 3)]
       lightEnds (after s) (islOf (after s) 0).site 4 = (some 3, none)) := by unfold Present; decide +kernel
/-! ### Remote operations and buckets as they go on, errors, boot -/

/-- Island 0 with packets delivered and an operation under way. -/
def remotes (l : List RemotePacket) (o : List (Nat × RemoteOp)) : State :=
  modIsl (remoteState []) 0 fun x => { x with inbox := l, remotes := o }

/-- Its home has placed an access of so many bytes, and sets no dirty bit but one that stands as it was walked. -/
def homed (k : RemotePacket) (acc : Acc) (n : Nat) : Bool :=
  match homeAt (remotes [k] []) 0 k.ctx k.va acc with
  | (s1, .ok l _) => decide (l.phys + n ≤ hostBase) && ((List.range n).all fun j => !marked s1 0 (l.phys + j))
    && match l.dirtyAt with
      | some e => entryAt s1 0 e.addr ||| 0x80#64 == e.entry ||| 0xC0#64
      | none => true
  | _ => false

/-- A request of no record, of a context that stands, writing a counter that is the context's. -/
def asFresh (s : State) (p : RemotePacket) : Bool :=
  (p.kind == .get || (foundRecord s 0 p).isNone) && stateOf s 0 p.ctx == .running
    && (!(p.rne || p.kind == .notify) || ctrOwned s 0 p.ctx p.rctr)

theorem witness_RemoteEventResults :
    let k : RemotePacket := { kind := .put, va := 0x3038, data := [1, 2, 3, 4, 5, 6, 7, 8], len := 8 }
    let s := remotes [k] []
    let n : RemotePacket := { k with kind := .notify, data := [], rctr := 7 }
    let a : RemotePacket := { k with kind := .ratom, aop := 14, expect := 9 }
    (islOf (remoteState []) 0).inbox.find? (fun p => !p.reply) = none
    ∧ (islOf s 0).inbox.find? (fun p => !p.reply) = some k ∧ k.spanel = s.panel.number ∧ k.sisl = 0
    ∧ (match perform (takeInbox s 0 n) 0 n with | (s1, .done 0 _ _ _ _) => s1.panel.number == s.panel.number | _ => false) = true
    ∧ k.kind ≠ .get ∧ (foundRecord (modIsl s 0 fun x => { x with performed := [{ old := 4 }] }) 0 k).isSome = true
    ∧ stateOf s 0 9 = .built ∧ asFresh s k = true ∧ asFresh s n = true ∧ asFresh s { k with kind := .get } = true ∧ asFresh s a = true
    ∧ (tblGet? s.islands 0).isSome = true ∧ n.rne = false ∧ k.marks = [] ∧ k.data ≠ []
    ∧ k.va % 64 + k.data.length ≤ 64 ∧ homed k .write 8 = true ∧ 0 < k.len ∧ k.va % 64 + k.len ≤ 64 ∧ homed k .read 8 = true
    ∧ homed a .atomic 8 = true ∧ atomNew (.cas 0 9) 8 9 = some 0 ∧ atomNew (.cas 0 9) 8 0 = none
    ∧ (match (homeAt s 0 0 0x40000000 .atomic).2 with | .fails 0x11 => true | _ => false) = true := by decide +kernel

/-- A request from another island, whose answer has a route, waits for one, or never has one; and one that waits at a virtual
cache that is Defined. -/
theorem witness_RemoteEventResults_answers :
    let n : RemotePacket := { kind := .notify, rctr := 7, sisl := 1 }
    let cell : DWord := BitVec.ofNat 64 (2 ^ 63 + 7 * 2 ^ 32 + 20)
    let net := fun (st : LinkState) =>
      let s := modIsl (remotes [n] []) 0 fun x => { x with ports := [(3, { state := st, peer := some (1, 2) })], cells := [(1, cell)] }
      { s with panel := { s.panel with routes := [(20, { k := 1, hops := [3] })] } }
    let after := fun (s : State) => match perform (takeInbox s 0 n) 0 n with
      | (s1, .done 0 _ _ _ _) => chooseRoute s1 0 n.spanel n.sisl
      | _ => .never
    let far := { n with kind := RemoteKind.put, va := 0x20000000, data := [1] }
    let defined := modMem (remotes [far] []) 0 fun m => { m with
      bytes := memPutNat (memPutNat m.bytes (bareTables + 0x10008) (barePage + 2 ^ 57 + 2 ^ 58 + 0xDF) 8) (bareDescs + 0x21) 5 1
      vcs := [(5, { state := .defined })] }
    ¬(n.spanel = (net .up).panel.number ∧ n.sisl = 0) ∧ after (net .up) = .route 20 7 ∧ after (net .fenced) = .waits
    ∧ after (remotes [n] []) = .never
    ∧ (match perform (takeInbox defined 0 far) 0 far with | (_, .waits) => true | _ => false) = true := by decide +kernel

theorem witness_RemoteEventResults_replies :
    let q : RemotePart := { sends := 4 }
    let o : RemoteOp := { d := 5, parts := [q], todo := false, lne := true, lctr := 7 }
    let r : RemotePacket := { reply := true, op := 3 }
    let s := remotes [r] [(3, o)]
    let bad := remotes [{ r with status := 0x11 }] [(3, o)]
    let get : RemoteOp := { o with kind := .get, pieces := [{ phys := some 0x2000, bits := 16 }] }
    (islOf s 0).inbox.find? (replyReady s 0) = some r ∧ (islOf s 0).remotes = [(r.op, o)]
    ∧ (islOf bad 0).inbox.find? (replyReady bad 0) = some { r with status := 0x11 }
    ∧ replyReady (remotes [r] [(3, get)]) 0 r = true
    ∧ (tblGet? s.groups o.grp).isSome = true ∧ (grpOf s o.grp).age = o.age ∧ (grpOf s o.grp).held.length < 4
    ∧ o.parts.find? (fun x => partNumber o x.off = r.part) = some q
    ∧ (islOf (remotes [] []) 0).inbox.find? (replyReady (remotes [] []) 0) = none
    ∧ partNumber { o with kind := .get, loc := 0x2001 } 4095 = 1 ∧ (let p := nextPart s 0 { o with va := 0x2001, next := 4095, len := 9000 }
      (4095 : Nat) < 9000 ∧ p.final = false ∧ p.len = 4096)
    ∧ r.status = 0 ∧ o.kind ≠ .get ∧ o.bad = false ∧ r.bad = false ∧ r.marks = []
    ∧ get.pieces = [{ phys := some 0x2000, vn := 0, taddr := q.off, bits := 8 * [(1 : Byte), 2].length }] ∧ 0x2000 + 2 ≤ hostBase
    ∧ tblGet? (islOf (remotes [] []) 0).remotes 3 = none
    ∧ (∀ p ∈ o.parts, p.waiting = false ∧ s.panel.ptime < p.lastSend + 50000)
    ∧ q.lastSend + 50000 ≤ (atTime 50000 s).panel.ptime ∧ 4 ≤ q.sends
    ∧ ({ q with sends := 3 } : RemotePart).sends < 4 ∧ o.panel = s.panel.number ∧ o.isl = 0
    ∧ o.parts.find? (fun q => partNumber o q.off = 0 && !q.waiting) = some q ∧ (tblGet? s.islands 0).isSome = true
    ∧ piecesReach s [{ phys := some hostBase, bits := 8 }] = true
    ∧ (∀ p ∈ [{ q with waiting := true }], partNumber o p.off = 0 → p.waiting = true) := by decide +kernel

/-- Island 0 with a bucket of one element, and mail for it. -/
def bucketState (b : Bucket) (l : List BucketMsg) : State :=
  let s := modIsl (remoteState []) 0 fun x => { x with buckets := [(4, b)] }
  { s with panel := { s.panel with mail := l.map fun m => (0, m) } }

theorem witness_BucketEventResults :
    let b : Bucket := { count := 1, children := [0], bartime := 1, results := [7], nne := true, nctr := 3,
                        wmark := [{ phys := some 0x3000, bits := 640 }], dst := [{ phys := some 0x2000, bits := 32 }] }
    let m : BucketMsg := { count := 1, parent := 0, body := .valuesUp [5] }
    let one := fun (b : Bucket) (m : BucketMsg) => let s := bucketState b [m]
      nextMail s 0 == some m && runningBucket s 0 m.ctx m.bid == some (4, b) && bucketOf? s 0 4 == some b
    let leaf : Bucket := { b with parent := 0, children := [], results := [] }
    let down := fun (x : BucketBody) => ({ count := 1, body := x } : BucketMsg)
    bucketOf? (bucketState b []) 0 4 = some b ∧ b.failing = none ∧ b.count ≤ b.results.length ∧ b.streamed = false
    ∧ (∀ q ∈ b.scratch ++ b.wmark, q.dirtyAt = none) ∧ (∀ q ∈ b.scratch ++ b.wmark, ∀ a, q.phys = some a → 0x2003 < a)
    ∧ ({ b with results := [] } : Bucket).results.length < b.count ∧ bucketOf? (remoteState []) 0 4 = none
    ∧ ({ b with failing := some 0x1B } : Bucket).failing.isSome = true
    ∧ b.since + b.bartime * 1000 ≤ (atTime 1000 (bucketState b [])).panel.ptime
    ∧ (bucketState b []).panel.ptime < b.since + b.bartime * 1000
    ∧ bucketReach (bucketState b []) b = true
    ∧ (let dark := { bucketState b [] with panel := { (bucketState b []).panel with down := [0, 1, 2, 3] } }
       bucketReach dark { b with dst := [{ phys := some hostBase, bits := 32 }] } = false ∧ bucketReach dark b = true)
    ∧ nextMail (bucketState b []) 0 = none ∧ one b m = true ∧ mismatched 0 b m = false ∧ aside b m = false
    ∧ one b { m with body := .failure } = true ∧ mismatched 0 b { m with body := .failure } = false
    ∧ one b { m with body := .result [9] } = true ∧ mismatched 0 b { m with body := .result [9] } = false ∧ aside b { m with body := .result [9] } = true
    ∧ one b { m with count := 2 } = true ∧ mismatched 0 b { m with count := 2 } = true
    ∧ one b { m with body := .scalesUp [3] } = true ∧ mismatched 0 b { m with body := .scalesUp [3] } = false ∧ aside b { m with body := .scalesUp [3] } = false
    ∧ one leaf (down (.scalesDown [3])) = true ∧ mismatched 0 leaf (down (.scalesDown [3])) = false ∧ isRoot leaf = false
    ∧ aside leaf (down (.scalesDown [3])) = false ∧ aside leaf (down (.result [9])) = false
    ∧ one leaf (down (.result [9])) = true ∧ mismatched 0 leaf (down (.result [9])) = false
    ∧ (let f : BucketMsg := { m with bid := 6, body := .failure }
       let s := modIsl (bucketState b [f]) 0 fun x => { x with ended := [(0, 6)] }
       nextMail s 0 = some f ∧ runningBucket s 0 f.ctx f.bid = none) := by decide +kernel

/-- A machine whose island is in use, its memory of some contents. -/
def served0 (f : IslandMem → IslandMem) : State :=
  let s := modMem (liveR {}) 0 f
  { s with panel := { s.panel with sites := [(0, { state := .assigned, logical := some 0 })] } }

theorem witness_HealthEventResults :
    let s := served0 id
    let x := teamOf s 0
    let clock := fun (mhz t : Nat) => atTime t (modIsl s 0 fun y => { y with mhz := mhz })
    let mon := modIsl s 0 fun y => { y with monitors := [(3, { src := 0x21 }), (4, { src := 0x31, owner := 0xFFFF }), (5, { src := 0x31 })] }
    let open_ := { s with panel := { s.panel with phase := 7, monitors := [(255, { src := 0x40 })] } }
    ((tblGet? s.islands 0).isSome = true ∧ (tblGet s.panel.sites (islOf s 0).site).state = .assigned)
    ∧ ¬((tblGet (liveR {}).panel.sites (islOf (liveR {}) 0).site).state = .ready)
    ∧ (let g := grpOf s 0
       (tblGet? s.groups 0).isSome = true ∧ g.ident.team = 0 ∧ g.state ≠ .exited ∧ g.held.length < 4)
    ∧ (tblGet? s.teams 0 = some x ∧ 32 * 127 < x.tmem * x.cores.length ∧ 3 / 32 < x.cores.length ∧ 3 % 32 < x.ntiles ∧ 127 < 128)
    ∧ tblGet? s.teams 1 = none ∧ s.panel.single = false ∧ s.panel.checking = false
    ∧ ((islOf (clock 1900 100000) 0).clockStep + 100000 ≤ (clock 1900 100000).panel.ptime ∧ (islOf (clock 1900 100000) 0).mhz ≤ 1900)
    ∧ (clock 1900 99999).panel.ptime < (islOf (clock 1900 99999) 0).clockStep + 100000 ∧ 2000 ≤ (islOf (clock 2000 0) 0).mhz
    ∧ (BitVec.ofNat 64 (hbmEnd - 2 ^ 19)).toNat < hbmEnd ∧ (BitVec.ofNat 64 (hbmEnd - 2 ^ 19)).toNat % 2 ^ 19 = 0
    ∧ (BitVec.ofNat 64 (hbmEnd - 2 ^ 16)).toNat < hbmEnd ∧ (BitVec.ofNat 64 (hbmEnd - 2 ^ 16)).toNat % 2 ^ 16 = 0
    ∧ 0x24 ∉ [0x22, 0x23, 0x25, 0x2E]
    ∧ islandSample mon 0 0x21 = some 0 ∧ tblGet? (islOf mon 0).monitors 3 = some { src := 0x21 }
    ∧ tblGet? (islOf mon 0).monitors 4 = some { src := 0x31, owner := 0xFFFF } ∧ ctxRuns mon 0 0 = true
    ∧ tblGet? open_.panel.monitors 255 = some { src := 0x40 } ∧ registersExposed open_ = true ∧ registersExposed s = false := by
  decide +kernel

/-- Errors of lines, copies and banks. -/
theorem witness_HealthEventResults_lines :
    let line := fun (t : Nat) (l : List (Nat × Option Nat × Nat)) => atTime t (served0 fun m => { m with
      sectors := [(7, { bank := 3 })], bankErrors := l })
    let owned := served0 fun m => { m with home := [(7, { ownl := some 4 })] }
    let stands := fun (x : Context) => stateOf (modCtx (served0 id) 0 0 fun _ => x) 0 0
    tblGet? (islOf (served0 id) 0).mem.sectors 7 = none
    ∧ (tblGet? (islOf (line 0 []) 0).mem.sectors 7).map (·.bank) = some 3 ∧ failsBank (line 0 []) 0 3 [7] = false
    ∧ failsBank (line 1000000000 [(3, some 9, 0)]) 0 3 [7] = true ∧ failsBank (line 1000000001 [(3, some 9, 0)]) 0 3 [7] = false
    ∧ failsBank (line 1000000001 [(3, some 7, 0)]) 0 3 [7] = true
    ∧ failsBank (setMarks (line 1000000001 [(3, some 7, 0)]) 0 (sectorQuarters 7)) 0 3 [7] = false
    ∧ (tblGet (islOf owned 0).mem.home 7).wrote = false
    ∧ (tblGet (islOf (served0 fun m => { m with home := [(7, { ownl := some 4, wrote := true })] }) 0).mem.home 7).wrote = true
    ∧ stands { state := .parked } = .parked ∧ stands { state := .faulted, faultedBy := .freeze } = .faulted
    ∧ (tblGet (islOf owned 0).mem.home 7).ownl = some 4 ∧ (tblGet (islOf owned 0).mem.home 7).ownl ≠ some 5 := by decide +kernel

/-- The commands that an owner signs need a signature that verifies, which nothing in the model decides (log 10). -/
theorem witness_BootResults (k arg sig : List Byte) (h : Config.verify k (Config.command 4 arg) sig = true) :
    let s := { State.reset with panel := { (State.reset).panel with phase := 7, store := { owners := [k] } } }
    ownerSigned s 4 arg k sig = true ∧ s.panel.phase ≠ 0 ∧ k ∈ s.panel.store.owners ∧ 1023 < 1024
    ∧ ({ s with panel := { s.panel with store := {} } } : State).panel.store.owners = []
    ∧ (List.replicate 32 (0 : Byte)).length = 32 := by
  simp [ownerSigned, mailboxOpen, h]

/-- A boot at a stage, with a store and findings. -/
def bootState (st : Store) (f : BootFindings) (k : Nat) : State :=
  { State.reset with panel := { (State.reset).panel with store := st, boot := some { found := f, stage := k } } }

/-- Every stage, the two sites of a panel side by side and a third that no link reaches, one site of an HBM stack that does not
train, and one that the store names disabled. -/
theorem witness_BootResults_stages :
    let f : BootFindings := { links := [(0, 1), (1, 3)], hbm := [(6, 2)] }
    let st : Store := { populated := [0, 1, 5, 6, 7], disabled := [7] }
    let v : Survey := { store := st, found := f }
    let s := bootState st f
    let none_ : BootFindings := { f with fw0 := false, fw1 := false, factoryOk := false, fieldOk := false }
    ((List.range 8).all (fun k => decide ((s k).panel.boot = some { found := f, stage := k })) = true ∧ (State.reset).panel.boot = none)
    ∧ (none_.fw0 = false ∧ none_.fw1 = false ∧ f.fw1 = true ∧ none_.factoryOk = false ∧ f.factoryOk = true
      ∧ ({ f with fieldOk := false } : BootFindings).fieldOk = false ∧ f.fieldOk = true)
    ∧ (3 ∉ st.populated ∧ 7 ∈ st.disabled ∧ 5 ∉ st.disabled ∧ 5 ∉ st.sites)
    ∧ (probed v 5 = true ∧ healthySite v 5 = true ∧ probed v 6 = true ∧ healthySite v 6 = false)
    ∧ (numbering v = [0, 1] ∧ (s 4).panel.boot = some { found := f, stage := 4 })
    ∧ numbering { v with found := { f with hbm := st.populated.map fun p => (p, 0) } } = [] := by decide +kernel

theorem witness_BootResults_edges :
    let s := fun (x : Port) (k : Nat) => { edge x with panel := { (edge x).panel with boot := some { stage := k } } }
    (tblGet? (islOf (modIsl (s {} 5) 0 fun x => { x with ports := [(4, { edge := true })] }) 0).ports 4).isSome = true
    ∧ (portOf (s {} 5) 0 3).edge = true ∧ (portOf (s {} 5) 0 3).state = .dark ∧ (s {} 5).panel.store.ports = []
    ∧ edgeTraining (s { state := .training } 6) = true ∧ edgeTraining (s { state := .up } 6) = false
    ∧ edgeTraining (s { state := .training, failures := [3] } 6) = false := by decide +kernel
end Sys2Proof.Tests
end

/-! PROOFS of the family of words (R44 to R65): the target of a UB branch, and the privileged encodings. -/

namespace Sys2Proof.Proofs

open Sys2Proof Sys2Proof.Machine Sys2Proof.Laws

/-! ## A change of the issuing group alone -/

/-- Where only the issuing group has changed, memory and the other groups are as before. -/
theorem still_of_onlyGroup {s t : State} {cx : Cx} (h : OnlyGroup s t cx) : Still s t cx := by
  have hmem : ∀ isl, (islOf t isl).mem = (islOf s isl).mem := fun isl => by
    simpa [islandRest] using congrArg Island.mem (h.island isl)
  refine ⟨⟨fun isl a => ?_, fun tm a => ?_⟩, h.others⟩
  · simp only [byteAt, physBytes, hmem, h.host]
  · simp only [teamOf, h.teams]

/-- An instruction whose body answers a new issuing group completes with it, and touches nothing else. -/
theorem runsStill_okGrp {i : Instr} {cond : State → Cx → Prop} {fm : Form} {g : Cx → Group}
    (hfm : ∀ s cx, formOf i s cx = fm) (hexec : ∀ s, exec i s = issue fm (fun cx s => okGrp s cx (g cx)) s) :
    RunsStill i cond fun s cx => withGroup s cx (g cx) := by
  intro s cx ready _
  have hclear : Clear fm s cx := hfm s cx ▸ ready
  have hdone : done i s cx (withGroup s cx (g cx)) = issued fm s cx (setGrp s cx.key (g cx)) := by
    rw [done, hfm, withGroup]
  rw [hdone, hexec]
  exact ⟨issue_ok hclear rfl, still_of_onlyGroup (onlyGroup_issued fm s cx (g cx))⟩

/-! ## The target of a UB branch (R58) -/

/-- The two zero bits below the offset's words multiply it by four, and the sum wraps at 2^57 on either reading. -/
theorem branchTarget_eq_ubTarget (pc : VAddr) (off : BitVec 18) : branchTarget pc off = ubTarget pc off := by
  have hbytes : (off.signExtend 57) <<< 2 = BitVec.ofInt 57 (4 * off.toInt) := by
    rw [BitVec.shiftLeft_eq_mul_twoPow, BitVec.ofInt_mul, mul_comm]
    rfl
  rw [branchTarget, ubTarget, hbytes, BitVec.ofInt_add, BitVec.ofInt_natCast, BitVec.ofNat_toNat, BitVec.setWidth_eq]

/-- A signed 18-bit offset counts from 2^17 words back to 2^17 − 1 words on. -/
theorem ubOffset_reach (off : BitVec 18) : -(512 * 1024) ≤ 4 * off.toInt ∧ 4 * off.toInt ≤ 512 * 1024 - 4 := by
  have hlo := BitVec.le_toInt off
  have hhi := BitVec.toInt_lt (x := off)
  omega

theorem bra_goTo_ubTarget (st : BitVec 2) (off : BitVec 18) :
    RunsStill (.bra st off) always fun s cx => goTo (ubTarget cx.f.pc off) id s cx := by
  simp only [← branchTarget_eq_ubTarget]
  exact runsStill_okGrp (fun _ _ => rfl) (fun _ => rfl)

/-- Settles O22: BRA goes to its target wherever it is clear to issue, the target is that of R58 modulo 2^57, and its
reach is that of a signed 18-bit offset in words. -/
theorem uniformBranchTarget : Obligations.UniformBranchTarget := by
  unfold Obligations.UniformBranchTarget
  exact ⟨bra_goTo_ubTarget, branchTarget_eq_ubTarget, ubOffset_reach⟩

/-! ## Privileged encodings (R62): the three clauses of O9 that hold

A program that issues a privileged encoding takes PRIV with no effect; the forms name exactly the encodings of R62; no check
of another encoding's issue gives PRIV. -/

theorem formOf_priv (i : Instr) (s : State) (cx : Cx) : (formOf i s cx).priv = privilegedEncoding i := by
  cases i <;> rfl

/-- PRIV comes before every other check of R64. -/
theorem gate_of_unprivileged {fm : Form} {s : State} {cx : Cx} (hp : fm.priv = true)
    (hu : privileged cx.g.ident = false) : gate fm s cx = .fault { cls := 0x02 } := by
  simp [gate, hp, hu]

theorem vcOp_eq_issue (op : VcOp) (st : BitVec 2) (d a : BitVec 6) (s : State) :
    ∃ body, vcOp op st d a s = issue (vcOpForm st d a) body s := ⟨_, rfl⟩

theorem pfenceOp_eq_issue (st : BitVec 2) (d a : BitVec 6) (act : Nat → Cx → State → Res) (s : State) :
    ∃ body, pfenceOp st d a act s = issue (pfenceForm st d a) body s := ⟨_, rfl⟩

/-- What a privileged encoding does stands behind the checks of its form. -/
theorem exec_privileged_eq_issue {i : Instr} (hp : privilegedEncoding i = true) (s : State) (cx : Cx) :
    ∃ body, exec i s = issue (formOf i s cx) body s :=
  match i, hp with
  | .vcdef .., _ => by rw [exec, execVcdef]; exact vcOp_eq_issue ..
  | .vcrsz .., _ => by rw [exec, execVcrsz]; exact vcOp_eq_issue ..
  | .vcret .., _ => by rw [exec, execVcret]; exact vcOp_eq_issue ..
  | .pfence .., _ => by rw [exec, execPfence]; exact pfenceOp_eq_issue ..
  | .pfenceRel .., _ => by rw [exec, execPfenceRel]; exact pfenceOp_eq_issue ..
  | .trinv .., _ => by rw [exec, execTrinv]; exact ⟨_, rfl⟩
  | .rdsr .., _ => by rw [exec, execRdsr]; exact ⟨_, rfl⟩
  | .wrsr .., _ => by rw [exec, execWrsr]; exact ⟨_, rfl⟩

theorem exec_privileged_takesPriv {i : Instr} {s : State} {cx : Cx} (hi : issuing s = some cx)
    (hp : privilegedEncoding i = true) (hu : privileged cx.g.ident = false) :
    exec i s = .next (takeFault s cx { cls := 0x02 }) := by
  obtain ⟨body, hexec⟩ := exec_privileged_eq_issue hp s cx
  rw [hexec]
  exact issue_fault hi (gate_of_unprivileged ((formOf_priv i s cx).trans hp) hu) body

theorem uniPoison_cls {g : Regs} {u : UniUse} {c : Cause} (h : uniPoison g u = some c) : c.cls = 0x05 := by
  unfold uniPoison at h
  split at h <;> split at h <;> cases h <;> rfl

theorem lanePoison_cls {g : Regs} {u : LaneUse} {c : Cause} (h : lanePoison g u = some c) : c.cls = 0x05 := by
  unfold lanePoison at h
  dsimp only at h
  split at h
  · split at h <;> cases h
    rfl
  · split at h
    · cases h; rfl
    · split at h <;> cases h
      rfl

/-- What a poisoned operand gives is REGPOISON. -/
theorem firstPoison_cls {fm : Form} {cx : Cx} {c : Cause} (h : firstPoison fm cx = some c) : c.cls = 0x05 := by
  unfold firstPoison at h
  split at h
  · cases h
  · split at h
    · rename_i hc
      obtain ⟨u, -, hu⟩ := List.exists_of_findSome?_eq_some hc
      cases h
      exact uniPoison_cls hu
    · obtain ⟨l, -, hl⟩ := List.exists_of_findSome?_eq_some h
      obtain ⟨u, -, hu⟩ := List.exists_of_findSome?_eq_some hl
      exact lanePoison_cls hu

/-- The faults of R64's checks but PRIV: ILLEGAL, STALLCHK, CONVERGE, REGPOISON. -/
theorem gate_fault_cls {fm : Form} {s : State} {cx : Cx} {c : Cause} (hp : fm.priv = false)
    (h : gate fm s cx = .fault c) : c.cls ∈ [(0x01 : BitVec 8), 0x03, 0x04, 0x05] := by
  simp only [gate, hp, Bool.false_and, Bool.false_eq_true, if_false] at h
  split at h
  · cases h; simp
  split at h
  · cases h; simp
  split at h
  · cases h
  split at h
  · cases h; simp
  split at h
  · cases h; simp
  · cases h
  · split at h
    · cases h
      simp [firstPoison_cls ‹_›]
    · cases h

theorem gate_fault_not_priv {i : Instr} {s : State} {cx : Cx} {c : Cause} (hp : privilegedEncoding i = false)
    (h : gate (formOf i s cx) s cx = .fault c) : c.cls ≠ 0x02 := by
  have hcls := gate_fault_cls ((formOf_priv i s cx).trans hp) h
  intro heq
  rw [heq] at hcls
  exact absurd hcls (by decide)

/-! ## The clause of O9 that fails

It is said of every state, and a table of groups that lists one key twice is a value of the state. A trap in handler mode
terminates the context (R324) and takes out the group's entry, and the key then reads the other one. -/

/-- A group in handler mode, in context 0. -/
def handling : Group := { hmode := true, frags := [{ mask := 1, handler := true }] }

/-- A group that no context's end takes out, with PRIV in TCAUSE. -/
def leftover : Group := { ident := { mgmt := true }, special := { tcause := 0x02 } }

/-- Both stand under one key, and the first issues. -/
def listedTwice : State :=
  { State.reset with groups := [(0, handling), (0, leftover)], cur := some { grp := 0, frag := 0 } }

theorem issuing_listedTwice :
    issuing listedTwice = some { key := 0, ix := 0, g := handling, f := { mask := 1, handler := true } } := rfl

theorem trap_uncovers_leftover :
    ∃ t, exec (.trap 0 0) listedTwice = .next t ∧ (grpOf t 0).special.tcause = 0x02 := by
  have h : (match exec (.trap 0 0) listedTwice with
      | .next t => decide ((grpOf t 0).special.tcause = 0x02)
      | _ => false) = true := by decide +kernel
  split at h
  · exact ⟨_, ‹_›, of_decide_eq_true h⟩
  · cases h

/-- Refutes O9: its last clause does not ask that a group's key stands once in the table, as the docstring of `Tbl` has it
(`tblSorted`). Where the issuing group's key stands twice, TRAP in handler mode terminates the context and
leaves the second entry, whose TCAUSE is PRIV. The other three clauses hold: `exec_privileged_takesPriv`,
`gate_fault_not_priv` and `formOf_priv`. -/
theorem not_privilegedEncodings : ¬ Obligations.PrivilegedEncodings := by
  unfold Obligations.PrivilegedEncodings
  rintro ⟨-, -, -, hkept⟩
  obtain ⟨t, hexec, htcause⟩ := trap_uncovers_leftover
  have hafter := hkept (.trap 0 0) listedTwice _ t issuing_listedTwice rfl rfl (by simp) rfl (by simp [handling])
    (by simp [handling, NotPriv]) hexec
  exact hafter.1 (by rw [htcause]; rfl)

end Sys2Proof.Proofs

/-! PROOFS of the family of the integer chapter (R101 to R127): it raises no sticky flag and never takes ARITH. -/

namespace Sys2Proof.Proofs

open Sys2Proof Sys2Proof.Machine Sys2Proof.Laws

/-! ## Bodies that raise no flag -/

/-- The body completes wherever it is reached, with new registers and the fragment moved on; of the special registers
FLAGS and TCAUSE stay. -/
def CompletesUnflagged (body : Cx → State → Res) : Prop :=
  ∀ cx s, ∃ (n : Nat) (r : Regs) (x : SpecialRegs),
    body cx s = .ok (setGrp s cx.key (advance n cx.ix { cx.g with regs := r, special := x }))
      ∧ x.flags = cx.g.special.flags ∧ x.tcause = cx.g.special.tcause

theorem finish_completesUnflagged (n : Nat) (f : Cx → Regs → Regs) :
    CompletesUnflagged fun cx => finish n (f cx) cx :=
  fun cx _ => ⟨n, f cx cx.g.regs, cx.g.special, rfl, rfl, rfl⟩

/-- A cross-lane instruction of a partial fragment sets XLFLAG, which is no sticky flag (R115). -/
theorem finishCross_completesUnflagged (f : Cx → Regs → Regs) :
    CompletesUnflagged fun cx => finishCross (f cx) cx := by
  intro cx s
  refine ⟨4, f cx cx.g.regs, if partialFrag cx then setXl cx.g.special else cx.g.special, rfl, ?_, ?_⟩ <;>
    split <;> rfl

/-- Where the checks pass before such a body, FLAGS, TCAUSE and the traps that wait for the handler are as before it. -/
theorem flags_kept_of_completesUnflagged {fm : Form} {body : Cx → State → Res} {s t : State} {cx : Cx}
    (hbody : CompletesUnflagged body) (hclear : Clear fm s cx) (h : issue fm body s = .next t) :
    (grpOf t cx.key).special.flags = cx.g.special.flags ∧ (grpOf t cx.key).special.tcause = cx.g.special.tcause
      ∧ (grpOf t cx.key).trapReq = cx.g.trapReq ∧ (grpOf t cx.key).held = cx.g.held := by
  obtain ⟨n, r, x, hok, hflags, htcause⟩ := hbody cx s
  rw [issue_ok hclear hok] at h
  cases h
  rw [grpOf_issued]
  exact ⟨hflags, htcause, rfl, rfl⟩

/-! ## The integer chapter -/

theorem not_privileged_of_integerChapter {i : Instr} (h : integerChapter i = true) : privilegedEncoding i = false := by
  cases i with
  | vcdef | vcrsz | vcret | pfence | pfenceRel | trinv | rdsr | wrsr => cases h
  | _ => rfl

/-- Every instruction of the chapter is the checks of its form and a body that raises no flag: the lane and uniform ALUs
write registers and move on, the cross-lane instructions also set XLFLAG. -/
theorem exec_integer_eq_issue {i : Instr} (h : integerChapter i = true) (s : State) (cx : Cx) :
    ∃ body, CompletesUnflagged body ∧ exec i s = issue (formOf i s cx) body s := by
  cases i with
  | iadd | isub | imul | imulh | imad | imin | imax | iaddsat | and | or | xor | andn | shl | shr =>
    simp only [exec, execIadd, execIsub, execImul, execImulh, execImad, execImin, execImax, execIaddsat, execAnd, execOr,
      execXor, execAndn, execShl, execShr, laneBin]
    exact ⟨_, finish_completesUnflagged _ _, rfl⟩
  | iaddi | andi | ori | xori | shli | shri =>
    simp only [exec, execIaddi, execAndi, execOri, execXori, execShli, execShri, laneImm]
    exact ⟨_, finish_completesUnflagged _ _, rfl⟩
  | icmp | iun | icmpi | movl | movh | sel | lanev | plog =>
    simp only [exec, execIcmp, execIun, execIcmpi, execMovl, execMovh, execSel, execLanev, execPlog]
    exact ⟨_, finish_completesUnflagged _ _, rfl⟩
  | uadd | usub | umul | umulh | uand | uor | uxor | ushl | ushr | umin | umax =>
    simp only [exec, execUadd, execUsub, execUmul, execUmulh, execUand, execUor, execUxor, execUshl, execUshr, execUmin,
      execUmax, uniBin]
    exact ⟨_, finish_completesUnflagged _ _, rfl⟩
  | ucmp | usel | uaddi | uandi | ucmpi | umovi | uun | clog =>
    simp only [exec, execUcmp, execUsel, execUaddi, execUandi, execUcmpi, execUmovi, execUun, execClog]
    exact ⟨_, finish_completesUnflagged _ _, rfl⟩
  | shfl | shfli | vote | voteBallot | redux =>
    simp only [exec, execShfl, execShfli, execVote, execVoteBallot, execRedux]
    exact ⟨_, finishCross_completesUnflagged _, rfl⟩
  | _ => cases h

/-- The checks of R64 give none but their own classes, and ARITH is not among them. -/
theorem gate_integer_not_arith {i : Instr} {s : State} {cx : Cx} {c : Cause} (hi : integerChapter i = true)
    (h : gate (formOf i s cx) s cx = .fault c) : c.cls ≠ 0x07 := by
  have hpriv := (formOf_priv i s cx).trans (not_privileged_of_integerChapter hi)
  have hcls := gate_fault_cls hpriv h
  intro heq
  rw [heq] at hcls
  exact absurd hcls (by decide)

/-- Settles O12: every instruction of the chapter completes with a body that leaves FLAGS, TCAUSE and the traps that wait
alone, and the faults its checks can give are ILLEGAL, STALLCHK, CONVERGE and REGPOISON. -/
theorem integerRaisesNoFlags : Obligations.IntegerRaisesNoFlags := by
  unfold Obligations.IntegerRaisesNoFlags
  refine ⟨fun i s cx t hi hready hexec => ?_, fun i s cx c hi hgate => gate_integer_not_arith hi hgate⟩
  obtain ⟨body, hbody, heq⟩ := exec_integer_eq_issue hi s cx
  exact flags_kept_of_completesUnflagged hbody hready (heq ▸ hexec)

end Sys2Proof.Proofs

/-! PROOFS about the words: the decoder and the encoder are inverse to each other (R44 to R63). -/

namespace Sys2Proof.Proofs

open Sys2Proof Sys2Proof.Machine Sys2Proof.Laws

/-- What follows the bytes of an instruction is left over. -/
theorem decode_append {bs rest r : List Byte} {i : Instr} (h : decode bs = .ok (i, r)) :
    decode (bs ++ rest) = .ok (i, r ++ rest) := by
  have htake : ∀ {n}, n ≤ bs.length → (bs ++ rest).take n = bs.take n := fun hn => List.take_append_of_le_length hn
  have hdrop : ∀ {n}, n ≤ bs.length → (bs ++ rest).drop n = bs.drop n ++ rest := fun hn => List.drop_append_of_le_length hn
  unfold decode at h ⊢
  dsimp only at h ⊢
  have h4 : 4 ≤ bs.length := by
    by_contra hlt
    simp [Nat.lt_of_not_le hlt] at h
  rw [if_neg (by omega)] at h
  rw [if_neg (by rw [List.length_append]; omega), htake h4]
  split at h
  · rename_i htwo
    have h8 : 8 ≤ bs.length := by
      by_contra hlt
      simp [Nat.lt_of_not_le hlt] at h
    rw [if_neg (by omega)] at h
    rw [if_pos htwo, if_neg (by rw [List.length_append]; omega), hdrop h4, hdrop h8,
      List.take_append_of_le_length (by rw [List.length_drop]; omega)]
    split at h <;> cases h
    simp only [*]
  · rename_i hone
    rw [if_neg hone, hdrop h4]
    split at h <;> cases h
    simp only [*]

theorem roundTrip (i : Instr) : RoundTrip.Statement i := by
  cases i with
  | iadd => apply RoundTrip.iadd
  | isub => apply RoundTrip.isub
  | imul => apply RoundTrip.imul
  | imulh => apply RoundTrip.imulh
  | imad => apply RoundTrip.imad
  | imin => apply RoundTrip.imin
  | imax => apply RoundTrip.imax
  | iaddsat => apply RoundTrip.iaddsat
  | and => apply RoundTrip.and
  | or => apply RoundTrip.or
  | xor => apply RoundTrip.xor
  | andn => apply RoundTrip.andn
  | shl => apply RoundTrip.shl
  | shr => apply RoundTrip.shr
  | icmp => apply RoundTrip.icmp
  | iun => apply RoundTrip.iun
  | iaddi => apply RoundTrip.iaddi
  | andi => apply RoundTrip.andi
  | ori => apply RoundTrip.ori
  | xori => apply RoundTrip.xori
  | shli => apply RoundTrip.shli
  | shri => apply RoundTrip.shri
  | icmpi => apply RoundTrip.icmpi
  | movl => apply RoundTrip.movl
  | movh => apply RoundTrip.movh
  | sel => apply RoundTrip.sel
  | shfl => apply RoundTrip.shfl
  | shfli => apply RoundTrip.shfli
  | lanev => apply RoundTrip.lanev
  | plog => apply RoundTrip.plog
  | vote => apply RoundTrip.vote
  | voteBallot => apply RoundTrip.voteBallot
  | redux => apply RoundTrip.redux
  | fadd => apply RoundTrip.fadd
  | fsub => apply RoundTrip.fsub
  | fmul => apply RoundTrip.fmul
  | fma => apply RoundTrip.fma
  | fmin => apply RoundTrip.fmin
  | fmax => apply RoundTrip.fmax
  | fdiv => apply RoundTrip.fdiv
  | fcmp => apply RoundTrip.fcmp
  | funOp => apply RoundTrip.funOp
  | fscl => apply RoundTrip.fscl
  | cvt => apply RoundTrip.cvt
  | bqnt => apply RoundTrip.bqnt
  | bdq => apply RoundTrip.bdq
  | feedw => apply RoundTrip.feedw
  | feedr => apply RoundTrip.feedr
  | ld => apply RoundTrip.ld
  | st => apply RoundTrip.st
  | ldt => apply RoundTrip.ldt
  | stt => apply RoundTrip.stt
  | atom => apply RoundTrip.atom
  | acas => apply RoundTrip.acas
  | atomt => apply RoundTrip.atomt
  | acp16 => apply RoundTrip.acp16
  | prf => apply RoundTrip.prf
  | lda => apply RoundTrip.lda
  | sta => apply RoundTrip.sta
  | mma => apply RoundTrip.mma
  | tld => apply RoundTrip.tld
  | tst => apply RoundTrip.tst
  | uadd => apply RoundTrip.uadd
  | usub => apply RoundTrip.usub
  | umul => apply RoundTrip.umul
  | umulh => apply RoundTrip.umulh
  | uand => apply RoundTrip.uand
  | uor => apply RoundTrip.uor
  | uxor => apply RoundTrip.uxor
  | ushl => apply RoundTrip.ushl
  | ushr => apply RoundTrip.ushr
  | umin => apply RoundTrip.umin
  | umax => apply RoundTrip.umax
  | ucmp => apply RoundTrip.ucmp
  | usel => apply RoundTrip.usel
  | uaddi => apply RoundTrip.uaddi
  | uandi => apply RoundTrip.uandi
  | ucmpi => apply RoundTrip.ucmpi
  | umovi => apply RoundTrip.umovi
  | uun => apply RoundTrip.uun
  | clog => apply RoundTrip.clog
  | uld => apply RoundTrip.uld
  | ust => apply RoundTrip.ust
  | uatom => apply RoundTrip.uatom
  | bra => apply RoundTrip.bra
  | brc => apply RoundTrip.brc
  | brp => apply RoundTrip.brp
  | brx => apply RoundTrip.brx
  | call => apply RoundTrip.call
  | ret => apply RoundTrip.ret
  | exit => apply RoundTrip.exit
  | yield => apply RoundTrip.yield
  | nop => apply RoundTrip.nop
  | wait => apply RoundTrip.wait
  | sleep => apply RoundTrip.sleep
  | bpt => apply RoundTrip.bpt
  | trap => apply RoundTrip.trap
  | tret => apply RoundTrip.tret
  | tfence => apply RoundTrip.tfence
  | mfence => apply RoundTrip.mfence
  | rgrow => apply RoundTrip.rgrow
  | rshrink => apply RoundTrip.rshrink
  | trld => apply RoundTrip.trld
  | trinv => apply RoundTrip.trinv
  | rdsr => apply RoundTrip.rdsr
  | wrsr => apply RoundTrip.wrsr
  | flgs => apply RoundTrip.flgs
  | flgsClr => apply RoundTrip.flgsClr
  | flgsSet => apply RoundTrip.flgsSet
  | binit => apply RoundTrip.binit
  | barv => apply RoundTrip.barv
  | bexp => apply RoundTrip.bexp
  | bexpImm => apply RoundTrip.bexpImm
  | bwait => apply RoundTrip.bwait
  | btry => apply RoundTrip.btry
  | binv => apply RoundTrip.binv
  | tcopy => apply RoundTrip.tcopy
  | tsto => apply RoundTrip.tsto
  | tpref => apply RoundTrip.tpref
  | mmap => apply RoundTrip.mmap
  | mmsc => apply RoundTrip.mmsc
  | tzero => apply RoundTrip.tzero
  | tepi => apply RoundTrip.tepi
  | chain => apply RoundTrip.chain
  | put => apply RoundTrip.put
  | get => apply RoundTrip.get
  | ratom => apply RoundTrip.ratom
  | notify => apply RoundTrip.notify
  | waitn => apply RoundTrip.waitn
  | rfence => apply RoundTrip.rfence
  | coll => apply RoundTrip.coll
  | colw => apply RoundTrip.colw
  | qpush => apply RoundTrip.qpush
  | pfence => apply RoundTrip.pfence
  | pfenceRel => apply RoundTrip.pfenceRel
  | vcdef => apply RoundTrip.vcdef
  | vcrsz => apply RoundTrip.vcrsz
  | vcret => apply RoundTrip.vcret
  | vcq => apply RoundTrip.vcq
  | vcwb => apply RoundTrip.vcwb
  | vcinv => apply RoundTrip.vcinv
  | monr => apply RoundTrip.monr
  | moncCfg => apply RoundTrip.moncCfg
  | moncClr => apply RoundTrip.moncClr
  | moncRel => apply RoundTrip.moncRel
  | _ => exact fun h => Bool.noConfusion h

/-- Settles O2: the decoder reads back each instruction's words, and what follows them stays unread. -/
theorem decodeEncode : Obligations.DecodeEncode := by
  unfold Obligations.DecodeEncode
  exact fun i rest hwords hform => decode_append (rest := rest) (roundTrip i hwords hform)

theorem leNat_lt (bs : List Byte) : leNat bs < 256 ^ bs.length := by
  induction bs with
  | nil => simp [leNat]
  | cons b bs ih =>
    have := b.isLt
    simp only [leNat, List.length_cons, Nat.pow_succ]
    omega

theorem leBytes_leNat (bs : List Byte) : leBytes (leNat bs) bs.length = bs := by
  induction bs with
  | nil => rfl
  | cons b bs ih =>
    have hb := b.isLt
    simp only [List.length_cons, leBytes, leNat]
    rw [show (b.toNat + 256 * leNat bs) / 256 = leNat bs by omega, ih]
    congr 1
    apply BitVec.eq_of_toNat_eq
    rw [BitVec.toNat_ofNat]
    omega

theorem toNat_bv_bits {w hi lo n : Nat} (h : hi + 1 - lo ≤ n) : (bv n (bits w hi lo)).toNat = bits w hi lo := by
  rw [BitVec.toNat_ofNat, bits]
  exact Nat.mod_eq_of_lt ((Nat.mod_lt _ (by positivity)).trans_le (Nat.pow_le_pow_right (by norm_num) h))

/-- An instruction that the decoder's map answers has words, and they are the ones listed. -/
def Reencodes (ws : List Nat) (r : Except Reject Instr) : Prop := ∀ i, r = .ok i → hasWords i = true ∧ encode i = ws

theorem reencodes_ok {ws : List Nat} {i : Instr} : Reencodes ws (.ok i) ↔ hasWords i = true ∧ encode i = ws := by
  simp [Reencodes]

theorem reencodes_error {ws : List Nat} {e : Reject} : Reencodes ws (.error e) ↔ True := by
  simp [Reencodes]

theorem reencodes_resv {ws : List Nat} {w : Nat} {l : List (Nat × Nat)} {i : Instr} :
    Reencodes ws (resv w l i) ↔ ((∀ p ∈ l, bits w p.1 p.2 = 0) → hasWords i = true ∧ encode i = ws) := by
  unfold resv
  split
  · rename_i h
    rw [reencodes_ok, iff_true_intro (by simpa using h : ∀ p ∈ l, bits w p.1 p.2 = 0), true_imp_iff]
  · rename_i h
    rw [reencodes_error, true_iff]
    exact fun hz => absurd (by simpa using hz) h

theorem reencodes_operandCase {ws : List Nat} {w : Nat} {l : List (Nat × Nat)} :
    Reencodes ws (operandCase w l) ↔ True := by
  unfold operandCase
  split <;> exact reencodes_error

theorem reencodes_ite {ws : List Nat} {c : Prop} [Decidable c] {a b : Except Reject Instr} :
    Reencodes ws (if c then a else b) ↔ (c → Reencodes ws a) ∧ (¬ c → Reencodes ws b) := by
  by_cases h : c <;> simp [h]

/-- The words of an instruction whose first word is w, and its second, where it has one, w2. -/
def wordsRead (w w2 : Nat) : List Nat := if twoWord w = true then [w, w2] else [w]

/-- What of a number lies above its bit k. -/
def above (w k : Nat) : Int := (w / 2 ^ k : Nat)

theorem above_zero (w : Nat) : above w 0 = w := by simp [above]

theorem above_eq_zero {w k : Nat} (h : w < 2 ^ k) : above w k = 0 := by simp [above, Nat.div_eq_of_lt h]

/-- A field is what lies above its lowest bit, less what lies above its highest; neighbouring fields so add up to the word
they are cut from. -/
theorem bits_eq_above (w hi lo : Nat) (h : lo ≤ hi + 1) :
    (bits w hi lo : Int) = above w lo - 2 ^ (hi + 1 - lo) * above w (hi + 1) := by
  have hdiv : w / 2 ^ (hi + 1) = w / 2 ^ lo / 2 ^ (hi + 1 - lo) := by
    rw [Nat.div_div_eq_div_mul, ← Nat.pow_add, Nat.add_sub_cancel' h]
  have hsum := Nat.mod_add_div (w / 2 ^ lo) (2 ^ (hi + 1 - lo))
  rw [bits, above, above, hdiv, eq_sub_iff_add_eq]
  exact_mod_cast hsum

theorem above_succ (w k : Nat) : above w k = 2 * above w (k + 1) ∨ above w k = 2 * above w (k + 1) + 1 := by
  have hdiv : w / 2 ^ (k + 1) = w / 2 ^ k / 2 := by rw [Nat.div_div_eq_div_mul, ← Nat.pow_succ]
  rw [above, above, hdiv]
  omega

/-- The fields that the lane map reads, and its reserved fields, are all the bits of the words. -/
theorem reencodes_decodeLane {w w2 : Nat} (hw : w < 2 ^ 31) (hw2 : w2 < 2 ^ 32) :
    Reencodes (wordsRead w w2) (decodeLane w w2) := by
  obtain ⟨op, hop⟩ : ∃ op, bits w 28 23 = op := ⟨_, rfl⟩
  have htwo := twoWord_lane (by simp only [bits]; omega) hop
  have hsign := above_eq_zero hw
  have hsign2 := above_eq_zero hw2
  have hbit16 : above w 16 = 2 * above w 17 ∨ above w 16 = 2 * above w 17 + 1 := above_succ w 16
  have hbit9 : above w 9 = 2 * above w 10 ∨ above w 9 = 2 * above w 10 + 1 := above_succ w 9
  have hcode : (above w 23 - 64 * above w 29 : Int) = op := by rw [← hop, bits_eq_above _ _ _ (by decide)]; norm_num
  unfold decodeLane
  rw [hop]
  clear hop
  split
  all_goals
    simp +decide only [wordsRead, htwo, reencodes_ok, reencodes_error, reencodes_resv, reencodes_operandCase,
      reencodes_ite, hasWords, encode, word_cons, word_nil, toNat_bv_bits, List.forall_mem_cons, List.cons.injEq,
      if_true, if_false, true_and, and_true, implies_true, ne_eq, ← @Int.natCast_inj, Int.natCast_add, Int.natCast_mul,
      bits_eq_above, above_zero, Nat.reduceAdd, Nat.reduceSub, Nat.reducePow, Int.reducePow, Nat.cast_one,
      Nat.cast_zero, Nat.cast_ofNat]
    <;> omega

theorem reencodes_decodeUniform {w w2 : Nat} (hw : 2 ^ 31 ≤ w) (hw32 : w < 2 ^ 32) (hw2 : w2 < 2 ^ 32) :
    Reencodes (wordsRead w w2) (decodeUniform w w2) := by
  have h31 : bits w 31 31 = 1 := by simp only [bits]; omega
  obtain ⟨op, hop⟩ : ∃ op, bits w 28 22 = op := ⟨_, rfl⟩
  have htwo := twoWord_uni h31 hop
  have hsign := above_eq_zero hw32
  have hsign2 := above_eq_zero hw2
  have hsign1 : above w 31 = 1 := by 
    have := bits_eq_above w 31 31 (by decide)
    norm_num [h31, hsign] at this
    omega
  have hbit14 : above w 14 = 2 * above w 15 ∨ above w 14 = 2 * above w 15 + 1 := above_succ w 14
  have hbit9 : above w 9 = 2 * above w 10 ∨ above w 9 = 2 * above w 10 + 1 := above_succ w 9
  have hcode : (above w 22 - 128 * above w 29 : Int) = op := by rw [← hop, bits_eq_above _ _ _ (by decide)]; norm_num
  have himm : (bv 32 w2).toNat = w2 := Nat.mod_eq_of_lt hw2
  unfold decodeUniform
  rw [hop]
  clear hop h31
  split
  all_goals
    simp +decide only [wordsRead, htwo, reencodes_ok, reencodes_error, reencodes_resv, himm,
      reencodes_ite, hasWords, encode, word_cons, word_nil, toNat_bv_bits, List.forall_mem_cons, List.cons.injEq,
      if_true, if_false, true_and, and_true, implies_true, ← @Int.natCast_inj, Int.natCast_add, Int.natCast_mul,
      bits_eq_above, above_zero, Nat.reduceAdd, Nat.reduceSub, Nat.reducePow, Int.reducePow, Nat.cast_one,
      Nat.cast_zero, Nat.cast_ofNat]
    <;> omega

theorem decodeWords_ok {w w2 : Nat} {i : Instr} (hw : w < 2 ^ 32) (hw2 : w2 < 2 ^ 32) (h : decodeWords w w2 = .ok i) :
    wellFormed i = true ∧ hasWords i = true ∧ encode i = wordsRead w w2 := by
  have hmap : Reencodes (wordsRead w w2) (if bits w 31 31 = 0 then decodeLane w w2 else decodeUniform w w2) := by
    split <;> rename_i h31 <;> simp only [bits] at h31
    · exact reencodes_decodeLane (by omega) hw2
    · exact reencodes_decodeUniform (by omega) hw hw2
  unfold decodeWords at h
  split at h
  · rename_i hi
    split at h <;> cases h
    exact ⟨‹_›, hmap _ hi⟩
  · cases h

/-- Bytes that are read as a number and written out again are as before, the next four with them. -/
theorem take_append_drop_read {bs : List Byte} {n : Nat} (h : n ≤ bs.length) :
    leBytes (leNat (bs.take n)) n ++ bs.drop n = bs := by
  have hlen : (bs.take n).length = n := by rw [List.length_take]; omega
  have hread := leBytes_leNat (bs.take n)
  rw [hlen] at hread
  rw [hread, List.take_append_drop]

theorem leNat_take_four_lt (bs : List Byte) : leNat (bs.take 4) < 2 ^ 32 := by
  refine (leNat_lt _).trans_le ?_
  rw [show 2 ^ 32 = 256 ^ 4 by norm_num]
  exact Nat.pow_le_pow_right (by norm_num) (by rw [List.length_take]; omega)

/-- Settles O3: every field of a word is read or reserved, so the words that are read are the words that are written. -/
theorem encodeDecode : Obligations.EncodeDecode := by
  unfold Obligations.EncodeDecode
  intro bs i rest h
  unfold decode at h
  dsimp only at h
  split at h
  · cases h
  rename_i h4
  split at h
  · rename_i htwo
    split at h
    · cases h
    rename_i h8
    split at h <;> cases h
    rename_i hd
    obtain ⟨hform, hwords, hcode⟩ := decodeWords_ok (leNat_take_four_lt _) (leNat_take_four_lt _) hd
    refine ⟨hform, hwords, ?_⟩
    rw [wordsRead, if_pos htwo] at hcode
    rw [encodeBytes_two hcode, List.append_assoc, show bs.drop 8 = (bs.drop 4).drop 4 by rw [List.drop_drop],
      take_append_drop_read (by rw [List.length_drop]; omega), take_append_drop_read (by omega)]
  · rename_i hone
    split at h <;> cases h
    rename_i hd
    obtain ⟨hform, hwords, hcode⟩ := decodeWords_ok (leNat_take_four_lt _) (by norm_num) hd
    refine ⟨hform, hwords, ?_⟩
    rw [wordsRead, if_neg hone] at hcode
    rw [encodeBytes_one hcode, take_append_drop_read (by omega)]

end Sys2Proof.Proofs

/-! PROOFS of the statements about fixed words, the reset state, the registers and the step itself. -/

namespace Sys2Proof.Proofs

open Sys2Proof Sys2Proof.Machine Sys2Proof.Laws

/-- Settles O1. -/
theorem decodeWords : Obligations.DecodeWords := by
  unfold Obligations.DecodeWords
  decide

/-- Settles O6. -/
theorem resetState : Obligations.ResetState := by
  unfold Obligations.ResetState
  decide

/-- Settles O7: the reset state lists no byte and no island. -/
theorem memoryFormAtReset : Obligations.MemoryFormAtReset :=
  ⟨rfl, fun _ h => absurd h List.not_mem_nil, fun _ h => absurd h List.not_mem_nil⟩

/-! ## Registers (R30) -/

theorem readS_writeS_other (g : Regs) {d r : Nat} (x : DWord) (h : r ≠ d) : readS (writeS g d x) r = readS g r := by
  unfold readS
  rw [((onlyS_writeS g d x).kept r (.inl h)).1]

theorem readC_writeC_other (g : Regs) {d r : Nat} (x : Bool) (h : r ≠ d) : readC (writeC g d x) r = readC g r := by
  unfold readC
  rw [((onlyC_writeC g d x).kept r (.inl h)).1]

theorem readP_writeP_other (g : Regs) {d r : Nat} (k x : Mask) (l : Nat) (h : r ≠ d) :
    inMask (readP (writeP g d k x) r) l = inMask (readP g r) l := by
  unfold readP
  split
  · rfl
  · exact ((onlyP_writeP g d k x).kept r l (.inl h)).1

theorem readT_writeT (g : Regs) (r q : Nat) (x : TReg) :
    readT (writeT g r x) q = if q = r then x else readT g q := by
  unfold readT writeT
  split
  · rename_i h; simp [h]
  · rename_i h; simp [tblGet?_set_other _ _ h]

/-- Settles O13. -/
theorem hardWiredRegisters : Obligations.HardWiredRegisters := by
  unfold Obligations.HardWiredRegisters
  refine ⟨fun g => ⟨rfl, rfl, fun l hl => ?_⟩, fun _ _ => rfl, fun _ _ => rfl, fun _ _ _ => rfl, ?_, ?_, ?_, ?_, readT_writeT⟩
  · simp only [readP, if_true, inMask, BitVec.getLsbD_allOnes, hl, decide_true]
  · intro g r q x hr
    split
    · rename_i h; rw [h, readS_writeS, if_neg (by omega)]
    · rename_i h; exact readS_writeS_other g x h
  · intro g r q x hr _
    split
    · rename_i h; rw [h, readC_writeC g x (by omega), if_neg (by omega)]
    · rename_i h; exact readC_writeC_other g x h
  · intro g r q k x l hr hl
    by_cases h : q = r
    · rw [h, readP_writeP g r k x hl, if_neg (by omega)]
      simp
    · rw [readP_writeP_other g k x l h, if_neg (by simp [h])]
  · intro g r q k f l hl
    by_cases h : q = r
    · rw [h, readV_writeV_same g r k f hl]
      simp
    · rw [readV_writeV_other g k f l h, if_neg (by simp [h])]

/-! ## Bytes of memory -/

/-- A change of an island's record that leaves its bytes leaves every island's bytes. -/
theorem bytes_modMem {f : IslandMem → IslandMem} (hf : ∀ m, (f m).bytes = m.bytes) (s : State) (i j : Nat) :
    (islOf (modMem s i f) j).mem.bytes = (islOf s j).mem.bytes := by
  unfold modMem
  by_cases hj : j = i
  · subst hj
    cases hx : tblGet? s.islands j with
    | none => rw [islOf_modIsl_absent s j j _ hx]
    | some x => rw [islOf_modIsl_same s j _ (by simp [hx])]; exact hf _
  · rw [islOf_modIsl_other s _ hj]

theorem physBytes_modMem {f : IslandMem → IslandMem} (hf : ∀ m, (f m).bytes = m.bytes) (s : State) (i j p n : Nat) :
    physBytes (modMem s i f) j p n = physBytes s j p n := by
  simp only [physBytes, bytes_modMem hf, modMem_hostMem]

/-- What a lookup of a context's VC table holds afterwards is no byte of memory. -/
theorem physBytes_vctEntry (s : State) (i c vcx salt j p n : Nat) :
    physBytes (vctEntry s i c vcx salt).1 j p n = physBytes s j p n := by
  refine physBytes_modMem (fun m => ?_) s i j p n
  split <;> rfl

/-! ## One step (R61) -/

theorem fetchWord_ok {s s1 : State} {cx : Cx} {va : VAddr} {b : List Byte} (h : fetchWord s cx va = .ok s1 b) :
    ∃ l e, translate s cx.g.ident.island cx.g.ident.ctx (privileged cx.g.ident) va.toNat .fetch 0 = (e, .ok l)
      ∧ b = physBytes e cx.g.ident.island l.phys 4 := by
  unfold fetchWord at h
  dsimp only at h
  split at h
  · cases h
  · cases h
  · rename_i l hl
    split at h <;> cases h
    exact ⟨l, _, Prod.ext rfl hl, physBytes_vctEntry ..⟩

/-- With no fault due to it, the issuing fragment executes what its fetch answers. -/
theorem runFetch_of_fetch {s s1 : State} {cx : Cx} {i : Instr} (hi : issuing s = some cx) (hdue : cx.f.due = none)
    (hf : fetch s cx = .instr s1 i) : runFetch s = .instr s1 i := by
  simp only [runFetch, hi, hdue, hf]

theorem fetch_one {s s1 : State} {cx : Cx} {b : List Byte} {i : Instr} (hw : fetchWord s cx cx.f.pc = .ok s1 b)
    (hd : decode b = .ok (i, [])) : fetch s cx = .instr s1 i := by
  simp only [fetch, hw, hd]

theorem fetch_two {s s1 s2 : State} {cx : Cx} {b b' : List Byte} {i : Instr} (hw : fetchWord s cx cx.f.pc = .ok s1 b)
    (ht : decode b = .error .truncated) (hw' : fetchWord s1 cx (pcAdd cx.f.pc 4) = .ok s2 b')
    (hd : decode (b ++ b') = .ok (i, [])) : fetch s cx = .instr s2 i := by
  simp only [fetch, hw, ht, hw', hd]

/-- A fold of changes that each leave a part of the state leaves it. -/
theorem foldl_keeps {α β : Type} (part : State → β) {f : State → α → State} (hf : ∀ s a, part (f s a) = part s)
    (l : List α) (s : State) : part (l.foldl f s) = part s := by
  induction l generalizing s with
  | nil => rfl
  | cons a l ih => rw [List.foldl_cons, ih, hf]

theorem sampleCtx_agenda (s : State) (i src c v : Nat) : (sampleCtx s i src c v).agenda = s.agenda := by
  unfold sampleCtx
  split <;> rfl

theorem sampleWaits_agenda (s : State) (i src c n : Nat) : (sampleWaits s i src c n).agenda = s.agenda := by
  induction n generalizing s with
  | zero => rfl
  | succ n ih => rw [sampleWaits, ih, sampleCtx_agenda]

theorem releaseAcquires_agenda (s : State) (tm key : Nat) (b : Bar) : (releaseAcquires s tm key b).agenda = s.agenda := by
  unfold releaseAcquires
  refine foldl_keeps State.agenda (fun s p => ?_) _ _
  split
  · rw [sampleWaits_agenda]; rfl
  · rfl

theorem lateReleases_agenda (s : State) : (lateReleases s).agenda = s.agenda := by
  unfold lateReleases
  refine foldl_keeps State.agenda (fun s p => ?_) _ _
  split
  · rfl
  · refine foldl_keeps State.agenda (fun s f => ?_) _ _
    split
    · dsimp only
      split
      · rw [modGrp_agenda, releaseAcquires_agenda]
      · rfl
    · rfl

theorem bootStage_agenda (r : BootRun) (s : State) : (bootStage r s).agenda = s.agenda := by
  unfold bootStage
  dsimp only
  split
  case h_5 => unfold bootNumber; dsimp only; split <;> rfl
  all_goals rfl

theorem bootOn_agenda (s : State) : (bootOn s).agenda = s.agenda := by
  unfold bootOn
  split
  · rfl
  · split
    · rfl
    · exact bootStage_agenda _ s

theorem noteStirs_agenda (s : State) : (noteStirs s).agenda = s.agenda := by
  unfold noteStirs
  refine foldl_keeps State.agenda (fun s p => foldl_keeps State.agenda (fun s c => ?_) _ _) _ _
  split <;> rfl

/-- A step's own time brings no event on the agenda. -/
theorem passTime_agenda (s : State) : (passTime s).agenda = s.agenda := by
  have hboot : (bootOn (if s.tick % 64 = 63 then wakeAll s else s)).agenda = s.agenda := by
    rw [bootOn_agenda]
    split <;> rfl
  unfold passTime
  simp only [blockQueues, noteStirs_agenda, noteBeats, noteReady, countWaits, countTimers, lateReleases_agenda, hboot]

/-- Where nothing is due, the step is that of the instruction the chosen group fetches. -/
theorem step_of_issuer {s s1 : State} {c : Issuer} {i : Instr} (ha : s.agenda = []) (hl : lateBarrier (passTime s) = none)
    (hc : chooseStep (passTime s) = .issuer c) (hr : runFetch { passTime s with cur := some c } = .instr s1 i) :
    step s = exec i s1 := by
  rw [← passTime_agenda] at ha
  unfold step
  dsimp only at hr ⊢
  split
  · rename_i hb; rw [hl] at hb; cases hb
  · rename_i hb; rw [ha] at hb; cases hb
  · rw [hc]
    dsimp only
    rw [hr]

/-- Settles O4: the step's cases, of which each is one branch of `step` and of its fetch. -/
theorem stepRunsDecoded : Obligations.StepRunsDecoded := by
  unfold Obligations.StepRunsDecoded
  refine ⟨?_, ?_, fun s cx va s1 b h => fetchWord_ok h, ?_, ?_, ?_⟩
  · intro s c cx s1 b i ha hl hc hi hdue hw hd
    exact step_of_issuer ha hl hc (runFetch_of_fetch hi hdue (fetch_one hw hd))
  · intro s c cx s1 s2 b b' i ha hl hc hi hdue hw ht hw' hd
    exact step_of_issuer ha hl hc (runFetch_of_fetch hi hdue (fetch_two hw ht hw' hd))
  · intro s i hl
    simp only [step, hl]
  · intro s i rest hl ha
    simp only [step, passTime_agenda, ha, hl]
  · intro s i ha hl hc
    simp only [step, passTime_agenda, ha, hl, hc]

end Sys2Proof.Proofs

/-! PROOFS about issue: each instruction with words is the checks of its form and a body, so that it answers wherever a
fragment issues (R64). -/

namespace Sys2Proof.Proofs

open Sys2Proof Sys2Proof.Machine Sys2Proof.Laws

theorem issueWith_eq_issue {mk : State → Cx → Form} {s : State} {cx : Cx} (h : issuing s = some cx)
    (body : Cx → State → Res) : issueWith mk body s = issue (mk s cx) body s := by
  simp only [issueWith, h]

/-- Every instruction with words but CHAIN is the checks of its form, and what it does stands behind them. -/
theorem exec_eq_issue {i : Instr} {s : State} {cx : Cx} (hp : plainIssue i) (hi : issuing s = some cx) :
    ∃ body, exec i s = issue (formOf i s cx) body s := by
  obtain ⟨hw, hchain⟩ := hp
  cases i with
  | iadd | isub | imul | imulh | imad | imin | imax | iaddsat | and | or | xor | andn | shl | shr =>
    simp only [exec, execIadd, execIsub, execImul, execImulh, execImad, execImin, execImax, execIaddsat, execAnd,
      execOr, execXor, execAndn, execShl, execShr, laneBin]
    exact ⟨_, rfl⟩
  | icmp | iun | icmpi | movl | movh | sel | shfl | shfli | lanev | plog | vote | voteBallot | redux | fcmp | funOp
    | fscl | cvt | feedw | feedr | ld | st | ldt | stt | atomt | prf | lda | sta | ucmp | usel | uaddi | uandi |
    ucmpi | umovi | uun | clog | uld | ust | uatom | bra | brc | brp | brx | call | ret | exit | yield | nop | wait
    | sleep | tret | tfence | mfence | rgrow | rshrink | trld | trinv | rdsr | wrsr | mmsc | put | get | ratom |
    notify | waitn | rfence | qpush | vcq | monr =>
    simp only [exec, execIcmp, execIun, execIcmpi, execMovl, execMovh, execSel, execShfl, execShfli, execLanev,
      execPlog, execVote, execVoteBallot, execRedux, execFcmp, execFunOp, execFscl, execCvt, execFeedw, execFeedr,
      execLd, execSt, execLdt, execStt, execAtomt, execPrf, execLda, execSta, execUcmp, execUsel, execUaddi,
      execUandi, execUcmpi, execUmovi, execUun, execClog, execUld, execUst, execUatom, execBra, execBrc, execBrp,
      execBrx, execCall, execRet, execExit, execYield, execNop, execWait, execSleep, execTret, execTfence,
      execMfence, execRgrow, execRshrink, execTrld, execTrinv, execRdsr, execWrsr, execMmsc, execPut, execGet,
      execRatom, execNotify, execWaitn, execRfence, execQpush, execVcq, execMonr]
    exact ⟨_, rfl⟩
  | iaddi | andi | ori | xori | shli | shri =>
    simp only [exec, execIaddi, execAndi, execOri, execXori, execShli, execShri, laneImm]
    exact ⟨_, rfl⟩
  | fadd | fsub | fmul | fma | fmin | fmax | fdiv =>
    simp only [exec, execFadd, execFsub, execFmul, execFma, execFmin, execFmax, execFdiv, floatOp]
    exact ⟨_, rfl⟩
  | bqnt | bdq | acp16 | mma | tld | tst | binit | barv | bwait | btry | binv | tcopy | tsto | tpref | mmap | tzero
    | tepi =>
    simp only [exec, execBqnt, execBdq, execAcp16, execMma, execTld, execTst, execBinit, execBarv, execBwait,
      execBtry, execBinv, execTcopy, execTsto, execTpref, execMmap, execTzero, execTepi, issueWith_eq_issue hi]
    exact ⟨_, rfl⟩
  | atom | acas =>
    simp only [exec, execAtom, execAcas, laneAtomic]
    exact ⟨_, rfl⟩
  | uadd | usub | umul | umulh | uand | uor | uxor | ushl | ushr | umin | umax =>
    simp only [exec, execUadd, execUsub, execUmul, execUmulh, execUand, execUor, execUxor, execUshl, execUshr,
      execUmin, execUmax, uniBin]
    exact ⟨_, rfl⟩
  | bpt | trap =>
    simp only [exec, execBpt, execTrap, softTrap]
    exact ⟨_, rfl⟩
  | flgs | flgsClr | flgsSet =>
    simp only [exec, execFlgs, execFlgsClr, execFlgsSet, flgsOp]
    exact ⟨_, rfl⟩
  | bexp | bexpImm =>
    simp only [exec, execBexp, execBexpImm, bexpOp, issueWith_eq_issue hi]
    exact ⟨_, rfl⟩
  | coll | colw =>
    simp only [exec, execColl, execColw, collOp]
    exact ⟨_, rfl⟩
  | pfence | pfenceRel =>
    simp only [exec, execPfence, execPfenceRel, pfenceOp]
    exact ⟨_, rfl⟩
  | vcdef | vcrsz | vcret =>
    simp only [exec, execVcdef, execVcrsz, execVcret, vcOp]
    exact ⟨_, rfl⟩
  | vcwb | vcinv =>
    simp only [exec, execVcwb, execVcinv, vcClean]
    exact ⟨_, rfl⟩
  | moncCfg | moncClr | moncRel =>
    simp only [exec, execMoncCfg, execMoncClr, execMoncRel, monc]
    exact ⟨_, rfl⟩
  | chain => exact absurd rfl (hchain _ _ _)
  | _ => cases hw

/-- What the gate answers is what the instruction does: a fault it finds is taken, and a wait is noted. -/
theorem exec_of_gate_fault {i : Instr} {s : State} {cx : Cx} {c : Cause} (hp : plainIssue i) (hi : issuing s = some cx)
    (hg : gate (formOf i s cx) s cx = .fault c) : exec i s = .next (takeFault s cx c) := by
  obtain ⟨body, hexec⟩ := exec_eq_issue hp hi
  rw [hexec, issue_fault hi hg]

theorem exec_of_gate_wait {i : Instr} {s : State} {cx : Cx} (hp : plainIssue i) (hi : issuing s = some cx)
    (hg : gate (formOf i s cx) s cx = .wait) : exec i s = .next (waitIssue (formOf i s cx) s cx) := by
  obtain ⟨body, hexec⟩ := exec_eq_issue hp hi
  rw [hexec, issue_wait hi hg]

/-- Settles O10: the gate makes its checks in R64's order, and its answer is the instruction's. -/
theorem issueOrder : Obligations.IssueOrder := by
  unfold Obligations.IssueOrder
  intro i s cx hp hi
  have faults : ∀ c, gate (formOf i s cx) s cx = .fault c → exec i s = .next (takeFault s cx c) :=
    fun c hg => exec_of_gate_fault hp hi hg
  have waits : gate (formOf i s cx) s cx = .wait → exec i s = .next (waitIssue (formOf i s cx) s cx) :=
    fun hg => exec_of_gate_wait hp hi hg
  have hpriv : ((formOf i s cx).priv = true → privileged cx.g.ident = true) →
      ((formOf i s cx).priv && !privileged cx.g.ident) = false := by
    cases (formOf i s cx).priv <;> cases privileged cx.g.ident <;> simp
  refine ⟨fun hl => faults _ ?_, fun hl h0 => faults _ ?_, fun hl h0 h1 => faults _ ?_, fun hl h0 h1 h2 => waits ?_,
    fun hl h0 h1 h2 h3 => faults _ ?_, fun hl h0 h1 h2 h3 hc => ⟨fun st hm => faults _ ?_, fun hm => waits ?_⟩,
    fun hl h0 h1 h2 h3 hm c hf => ⟨firstPoison_cls hf, faults _ ?_⟩⟩
  · have hbad : ((formOf i s cx).priv && !privileged cx.g.ident) = true := by
      cases hp' : (formOf i s cx).priv <;> cases hq : privileged cx.g.ident <;> simp_all
    rw [gate, if_pos hbad]
  · simp only [gate, hpriv hl, h0, Bool.false_eq_true, if_false, if_true]
  · simp only [gate, hpriv hl, h0, h1, Bool.false_eq_true, if_false, if_true]
  · simp only [gate, hpriv hl, h0, h1, h2, Bool.false_eq_true, if_false, if_true]
  · simp only [gate, hpriv hl, h0, h1, h2, h3, Bool.false_eq_true, if_false, if_true]
  · simp only [gate, hpriv hl, h0, h1, h2, h3, hc, hm, Bool.false_eq_true, if_false, if_true]
  · simp only [gate, hpriv hl, h0, h1, h2, h3, hc, hm, Bool.false_eq_true, if_false, if_true]
  · have hgo : (if (formOf i s cx).conv = true then meet cx else .go) = .go := by
      split
      · exact hm ‹_›
      · rfl
    simp only [gate, hpriv hl, h0, h1, h2, h3, hgo, hf, Bool.false_eq_true, if_false]

/-! ## A change of the islands alone: what walks, held entries and monitors change -/

/-- Nothing but the islands has changed. -/
def OnlyIslands (s t : State) : Prop := t = { s with islands := t.islands }

namespace OnlyIslands

theorem refl (s : State) : OnlyIslands s s := rfl

theorem trans {s t u : State} (h : OnlyIslands s t) (k : OnlyIslands t u) : OnlyIslands s u := by
  unfold OnlyIslands at h k ⊢
  rw [k, h]

theorem modIsl (s : State) (i : Nat) (f : Island → Island) : OnlyIslands s (modIsl s i f) := rfl

theorem modMem (s : State) (i : Nat) (f : IslandMem → IslandMem) : OnlyIslands s (modMem s i f) := rfl

theorem groups {s t : State} (h : OnlyIslands s t) : t.groups = s.groups := by rw [h]

theorem cur {s t : State} (h : OnlyIslands s t) : t.cur = s.cur := by rw [h]

theorem issuing {s t : State} (h : OnlyIslands s t) : issuing t = issuing s := by
  simp only [Machine.issuing, h.groups, h.cur]

theorem setEntryBit (s : State) (i a b : Nat) : OnlyIslands s (setEntryBit s i a b) := by
  unfold Machine.setEntryBit
  dsimp only
  split
  · exact refl s
  · exact modMem ..

theorem setAccessed (s : State) (i : Nat) (w : WalkEnd) : OnlyIslands s (setAccessed s i w) := by
  cases w
  · exact setEntryBit ..
  · exact refl s

theorem walkHeld (s : State) (i c va : Nat) (acc : Acc) (priv : Bool) (salt : Nat) :
    OnlyIslands s (walkHeld s i c va acc priv salt).1 := by
  let x := chosenUse s i c va acc priv salt
  refine trans (t := if x.walked then Machine.setAccessed s i x.stop else s) ?_ rfl
  split
  · exact setAccessed ..
  · exact refl s

theorem translate (s : State) (i c : Nat) (priv : Bool) (va : Nat) (acc : Acc) (salt : Nat) :
    OnlyIslands s (translate s i c priv va acc salt).1 := walkHeld ..

theorem vctEntry (s : State) (i c vcx salt : Nat) : OnlyIslands s (vctEntry s i c vcx salt).1 := rfl

theorem fetchWord {s t : State} {cx : Cx} {va : VAddr} {b : List Byte} (h : fetchWord s cx va = .ok t b) :
    OnlyIslands s t := by
  unfold Machine.fetchWord at h
  dsimp only at h
  split at h
  · cases h
  · cases h
  · split at h <;> cases h
    exact ((translate ..).trans (vctEntry ..)).trans (modMem ..)

theorem fetchLinks {s t : State} {cx : Cx} {va : VAddr} {n : Nat} {ws : List Nat} (h : fetchLinks s cx va n = .ok t ws) :
    OnlyIslands s t := by
  induction n generalizing s va ws with
  | zero => cases h; exact refl _
  | succ n ih =>
    unfold Machine.fetchLinks at h
    split at h
    case h_4 hw =>
      split at h
      · rename_i hl
        cases h
        exact (fetchWord hw).trans (ih hl)
      · rename_i hne
        exact absurd h (hne t ws)
    all_goals cases h

end OnlyIslands

/-- Every instruction with words answers where a fragment issues. -/
theorem exec_words_answers {i : Instr} {s : State} {cx : Cx} (hi : issuing s = some cx) (hw : hasWords i = true) :
    ∃ t, exec i s = .next t := by
  by_cases hc : ∃ st l k, i = .chain st l k
  · obtain ⟨st, l, k, rfl⟩ := hc
    simp only [exec, execChain, hi]
    split
    · exact ⟨_, rfl⟩
    · exact ⟨_, rfl⟩
    · exact ⟨_, rfl⟩
    · split
      · exact ⟨_, rfl⟩
      · rename_i hf _ _
        exact issue_answers ((OnlyIslands.fetchLinks hf).issuing.trans hi) _
  · obtain ⟨body, hexec⟩ := exec_eq_issue ⟨hw, fun st l k h => hc ⟨st, l, k, h⟩⟩ hi
    rw [hexec]
    exact issue_answers hi body

/-! ## What an issue books (R28, R45, R46) -/

/-- The integer lane instructions give results after four clocks, the uniform ALU after two, and no other form books any. -/
theorem formOf_lat {i : Instr} (hp : plainIssue i) (s : State) (cx : Cx) :
    (formOf i s cx).lat = if fixedLane i = true then 4 else if fixedUniform i = true then 2 else 0 := by
  cases i <;> rfl

/-- A result still to come that a later write to its register leaves: the register's, in the lanes not written. -/
theorem overwritten_eq_some {dsts : List Elem} {m : Mask} {q p : Pending} (h : overwritten dsts m q = some p) :
    p.reg = q.reg ∧ p.ready = q.ready ∧ (p.mask = q.mask ∨ p.mask = q.mask &&& ~~~m) := by
  unfold overwritten at h
  split at h
  · cases h; exact ⟨rfl, rfl, .inl rfl⟩
  · split at h
    · cases h
    · cases h
    · split at h <;> cases h
      exact ⟨rfl, rfl, .inr rfl⟩

theorem bookIssue_score (fm : Form) (n : Nat) (m : Mask) (tick : Nat) (g : Group) :
    (bookIssue fm n m tick g).score = ((g.score.filter fun p => p.ready > n + extraCycle fm g).filterMap (overwritten fm.dsts m))
      ++ (if fm.lat = 0 then []
        else (fm.dsts.filter fun e => !hardwired e).map fun e => { reg := e, mask := m, ready := n + extraCycle fm g + fm.lat }) :=
  rfl

/-- Settles O11: the latencies are the forms', and the rest is what `bookIssue` enters into the group. -/
theorem issueClock : Obligations.IssueClock := by
  unfold Obligations.IssueClock
  refine ⟨fun i s cx hp => formOf_lat hp s cx, fun fm s cx g hi => ?_⟩
  have hextra : extraCycle fm g = if fm.lane = true ∧ g.ident.width = 2 then 1 else 0 := by
    simp only [extraCycle, Bool.and_eq_true, decide_eq_true_eq]
  dsimp only [withGroup]
  rw [grpOf_issued, ← hextra]
  refine ⟨rfl, rfl, fun p hp => ?_, fun e he hlat hwired => ?_, fun st' => ?_⟩
  · rw [bookIssue_score, List.mem_append] at hp
    rcases hp with hold | hnew
    · obtain ⟨q, hq, hqp⟩ := List.mem_filterMap.1 hold
      obtain ⟨hmem, hlate⟩ := List.mem_filter.1 hq
      obtain ⟨hreg, hready, hmask⟩ := overwritten_eq_some hqp
      exact .inl ⟨q, hmem, hreg, hready, hready ▸ of_decide_eq_true hlate, hmask⟩
    · split at hnew
      · cases hnew
      · obtain ⟨e, he, rfl⟩ := List.mem_map.1 hnew
        exact .inr ⟨rfl, rfl, (List.mem_filter.1 he).1, ‹_›⟩
  · refine ⟨{ reg := e, mask := cx.f.mask, ready := readyClock fm s cx + extraCycle fm g + fm.lat }, ?_, rfl, rfl, rfl⟩
    rw [bookIssue_score, if_neg hlat]
    exact List.mem_append_right _ (List.mem_map.2 ⟨e, List.mem_filter.2 ⟨he, by simp [hwired]⟩, rfl⟩)
  · rw [grpOf_issued]
    exact ⟨rfl, rfl, rfl, rfl, rfl⟩

end Sys2Proof.Proofs

/-! PROOFS that nothing stops: every instruction, event and step answers a state. -/

namespace Sys2Proof.Proofs

open Sys2Proof Sys2Proof.Machine Sys2Proof.Laws

/-- Every event answers in every state: each branch of what it does is a state. -/
theorem exec_event_answers {i : Instr} {s : State} (hw : hasWords i = false) : ∃ t, exec i s = .next t := by
  cases i with
  | powerGood | fatalIslandEvent | stallCountExpiry | faultRecordEnqueue | frplayReplay | frplayHandler |
    frplayTerminate | frplayNone | hbmUncorrectableError | homeOwnershipRequest | progressBeat | flitRequest |
    flitResponse | routeErrorNotice | xcellSet | xcellReset | hpctlWrite | ncvalWrite | specialFunctionEntryTaken |
    specialFunctionResult | teamMemoryError | clockRecoveryStep | overTemperature | pwrlimWrite | systemRegisterWrite
    | orderlyShutdown =>
    exact ⟨_, rfl⟩
  | place | halt | save | resume | restore | terminate | release | unplace =>
    simp only [exec, execPlace, execHalt, execSave, execResume, execRestore, execTerminate, execRelease, execUnplace,
      ctxEvent]
    split <;> exact ⟨_, rfl⟩
  | attestationRequest | claim | ownerKeyChange | peerKeyAdd | peerKeyRemove | panelNumberChange | routeMapInvalidate
    | contextStatePropagate | sleepExpiry | waitHoldEnd | mfenceHoldEnd | rgrowClaimServed | claimDeadlock |
    registerPoison | trapEntry | exitDrainEnd | chainRetire | digitResidueMismatch | mmaRetire | mmapBlockComplete |
    mmapRetire | arrayResidueMismatch | barvArrival | engineLanding | acp16Landing | barrierTimeout | vcClaimDrained |
    vcSweepLine | vcResizeEnd | vcDrainStart =>
    simp only [exec, execAttestationRequest, execClaim, execOwnerKeyChange, execPeerKeyAdd, execPeerKeyRemove,
      execPanelNumberChange, execRouteMapInvalidate, execContextStatePropagate, execSleepExpiry, execWaitHoldEnd,
      execMfenceHoldEnd, execRgrowClaimServed, execClaimDeadlock, execRegisterPoison, execTrapEntry, execExitDrainEnd,
      execChainRetire, execDigitResidueMismatch, execMmaRetire, execMmapBlockComplete, execMmapRetire,
      execArrayResidueMismatch, execBarvArrival, execEngineLanding, execAcp16Landing, execBarrierTimeout,
      execVcClaimDrained, execVcSweepLine, execVcResizeEnd, execVcDrainStart]
    repeat' split
    all_goals exact ⟨_, rfl⟩
  | vcDrainEnd | bankFailure | loadReturn | storePerformed | hostCxlMemAccess | hostBackInvalidation |
    hostCxlCacheSnoop | protectionRefusal | haltComplete | restoreComplete | heartbeat | beatpWrite | teamPlacement |
    create | enable | drain | reset | destroy | qtailWrite | queuePacketRead | launch | waitPacket | waitPacketTimeout
    | signal | copy | vcdefPacket | order | stamp | packetComplete | linkTrainingComplete =>
    simp only [exec, execVcDrainEnd, execBankFailure, execLoadReturn, execStorePerformed, execHostCxlMemAccess,
      execHostBackInvalidation, execHostCxlCacheSnoop, execProtectionRefusal, execHaltComplete, execRestoreComplete,
      execHeartbeat, execBeatpWrite, execTeamPlacement, execCreate, execEnable, execDrain, execReset, execDestroy,
      execQtailWrite, execQueuePacketRead, execLaunch, execWaitPacket, execWaitPacketTimeout, execSignal, execCopy,
      execVcdefPacket, execOrder, execStamp, execPacketComplete, execLinkTrainingComplete]
    repeat' split
    all_goals exact ⟨_, rfl⟩
  | linkTrainingTimeout | linkRetrainingTrigger | linkRelock | linkRetrainingTimeout | linkRetryTimer | flitIdle |
    flitNak | flitKeyControl | routerPacket | routeFailureNotice | replacementRoute | routeEntryReuse |
    keyRolloverStart | keyExchangeRetry | rolloverRetire | keySlotExhausted | xcellComplete | pfenceDrainEnd |
    remotePacketAtHome | remoteAck | remoteTimeout | rfenceHoldEnd | waitnTimeout | bucketMessage | bucketComplete |
    bucketFailure | bucketTimeout | feedTimeout | uncorrectableError | lockstepMismatch =>
    simp only [exec, execLinkTrainingTimeout, execLinkRetrainingTrigger, execLinkRelock, execLinkRetrainingTimeout,
      execLinkRetryTimer, execFlitIdle, execFlitNak, execFlitKeyControl, execRouterPacket, execRouteFailureNotice,
      execReplacementRoute, execRouteEntryReuse, execKeyRolloverStart, execKeyExchangeRetry, execRolloverRetire,
      execKeySlotExhausted, execXcellComplete, execPfenceDrainEnd, execRemotePacketAtHome, execRemoteAck,
      execRemoteTimeout, execRfenceHoldEnd, execWaitnTimeout, execBucketMessage, execBucketComplete,
      execBucketFailure, execBucketTimeout, execFeedTimeout, execUncorrectableError, execLockstepMismatch,
      execRegisterPoison, lineError, execBankFailure]
    repeat' split
    all_goals exact ⟨_, rfl⟩
  | selfCheckDone | powerThrottle | monitorPeriodicSample | panelMonitorCfgWrite | panelMonitorClrWrite |
    tileMoveRetire | tprefLanding | hostPortLinkChange =>
    simp only [exec, execSelfCheckDone, execPowerThrottle, execMonitorPeriodicSample, execPanelMonitorCfgWrite,
      execPanelMonitorClrWrite, execTileMoveRetire, execTprefLanding, execHostPortLinkChange]
    repeat' split
    all_goals exact ⟨_, rfl⟩
  | _ => cases hw

/-- An instruction with words needs a fragment that issues it; nothing else keeps one from answering. -/
theorem exec_answers {i : Instr} {s : State} (h : (issuing s).isSome = true ∨ hasWords i = false) :
    ∃ t, exec i s = .next t := by
  cases hw : hasWords i with
  | false => exact exec_event_answers hw
  | true =>
    obtain ⟨cx, hi⟩ := Option.isSome_iff_exists.1 (h.resolve_right (by simp [hw]))
    exact exec_words_answers hi hw

/-! ## The machine's own events have no words -/

/-- No instruction of the list has words. -/
def Wordless (l : List Instr) : Prop := ∀ i ∈ l, hasWords i = false

@[simp] theorem wordless_nil : Wordless [] := fun _ h => absurd h List.not_mem_nil

@[simp] theorem wordless_cons {i : Instr} {l : List Instr} : Wordless (i :: l) ↔ hasWords i = false ∧ Wordless l :=
  List.forall_mem_cons

@[simp] theorem wordless_append {l r : List Instr} : Wordless (l ++ r) ↔ Wordless l ∧ Wordless r :=
  List.forall_mem_append

@[simp] theorem wordless_when {b : Bool} {i : Instr} : Wordless (when b i) ↔ (b = true → hasWords i = false) := by
  unfold when
  split <;> simp [*]

@[simp] theorem wordless_map {α : Type} {l : List α} {f : α → Instr} :
    Wordless (l.map f) ↔ ∀ a ∈ l, hasWords (f a) = false := by
  simp [Wordless]

@[simp] theorem wordless_flatMap {α : Type} {l : List α} {f : α → List Instr} :
    Wordless (l.flatMap f) ↔ ∀ a ∈ l, Wordless (f a) :=
  List.forall_mem_flatMap

theorem wordless_opEvents (k : Nat) (o : FlightOp) : Wordless (opEvents k o) := by
  unfold opEvents
  split <;> simp [hasWords]

theorem wordless_holdEvents (s : State) (k : Nat) (g : Group) (j : Nat) (f : Frag) : Wordless (holdEvents s k g j f) := by
  unfold holdEvents
  split <;> simp [hasWords]

theorem wordless_mmapEvents (k : Nat) (g : Group) : Wordless (mmapEvents k g) := by
  unfold mmapEvents
  split
  · simp
  · split <;> simp [hasWords]

theorem wordless_feedEvents (runs : Bool) (k w : Nat) (x : FeedWindow) : Wordless (feedEvents runs k w x) := by
  unfold feedEvents
  split <;> simp [hasWords]

theorem wordless_groupEvents (s : State) (k : Nat) (g : Group) : Wordless (groupEvents s k g) := by
  simp [hasWords, groupEvents, wordless_opEvents, wordless_holdEvents, wordless_mmapEvents, wordless_feedEvents]

theorem wordless_vcEvents (s : State) (i vn : Nat) (v : Vc) : Wordless (vcEvents s i vn v) := by
  unfold vcEvents
  repeat' split
  all_goals simp [hasWords]

theorem wordless_ctxEvents (s : State) (i c : Nat) (x : Context) : Wordless (ctxEvents s i c x) := by
  simp [hasWords, ctxEvents]

theorem wordless_bucketEvents (s : State) (i n : Nat) (b : Bucket) : Wordless (bucketEvents s i n b) := by
  unfold bucketEvents
  repeat' split
  all_goals simp [hasWords]

theorem wordless_coreEvents (s : State) (i c : Nat) : Wordless (coreEvents s i c) := by
  simp [hasWords, coreEvents]

theorem wordless_flitEvent (i n : Nat) (e : BufferedFlit) : Wordless [flitEvent i n e] := by
  unfold flitEvent
  split <;> simp [hasWords]

theorem wordless_arrivals (i n : Nat) (x y : Port) : Wordless (arrivals i n x y) := by
  unfold arrivals
  split
  · exact wordless_nil
  rw [wordless_append, wordless_append]
  refine ⟨⟨?_, by simp [hasWords]⟩, wordless_map.2 fun _ _ => rfl⟩
  split
  · exact wordless_flitEvent i n _
  · exact wordless_nil

theorem wordless_linkEvents (s : State) (i n : Nat) (x : Port) : Wordless (linkEvents s i n x) := by
  unfold linkEvents
  dsimp only
  split <;> simp [hasWords]

theorem wordless_keyEvents (s : State) (i n : Nat) (x : Port) : Wordless (keyEvents s i n x) := by
  unfold keyEvents
  dsimp only
  split <;> simp [hasWords]

theorem wordless_portEvents (s : State) (i n : Nat) (x : Port) : Wordless (portEvents s i n x) := by
  unfold portEvents
  split <;> simp [wordless_linkEvents, wordless_keyEvents, wordless_arrivals]

theorem wordless_landings (i : Nat) (l : Tbl EngineOp) :
    Wordless (l.map fun p => if p.2.kind = .acp16 then Instr.acp16Landing i p.1 else .engineLanding i p.1) := by
  rw [wordless_map]
  intro p _
  split <;> rfl

theorem wordless_islandEvents (s : State) (i : Nat) (x : Island) : Wordless (islandEvents s i x) := by
  unfold islandEvents
  simp only [wordless_append, wordless_landings]
  simp [hasWords, wordless_vcEvents, wordless_ctxEvents, wordless_coreEvents, wordless_bucketEvents, wordless_portEvents]

theorem wordless_queueEvents (s : State) : Wordless (queueEvents s) := by
  unfold queueEvents
  repeat' split
  all_goals simp [hasWords]

theorem wordless_waitingEvents (s : State) : Wordless (waitingEvents s) := by
  intro i hi
  obtain ⟨p, -, hp⟩ := List.mem_filterMap.1 hi
  split at hp
  · cases hp
  · split at hp <;> cases hp <;> rfl

theorem wordless_routeRepairs (s : State) : Wordless (routeRepairs s) := by
  unfold routeRepairs
  repeat' split
  all_goals simp [hasWords]

theorem wordless_panelEvents (s : State) : Wordless (panelEvents s) := by
  simp [hasWords, panelEvents, wordless_queueEvents, wordless_waitingEvents, wordless_routeRepairs]

theorem wordless_allEvents (s : State) : Wordless (allEvents s) := by
  simp [allEvents, wordless_groupEvents, wordless_islandEvents, wordless_panelEvents]

theorem hasWords_nextEvent {s : State} {n : Nat} {i : Instr} (h : nextEvent s n = some i) : hasWords i = false :=
  wordless_allEvents s i (List.mem_of_getElem? h)

theorem hasWords_chosen {s : State} {i : Instr} (h : chooseStep s = .event i) : hasWords i = false := by
  unfold chooseStep at h
  split at h
  · split at h
    · rename_i hn; cases h; exact hasWords_nextEvent hn
    · split at h <;> cases h
  · split at h
    · cases h
    · split at h
      · rename_i hn; cases h; exact hasWords_nextEvent hn
      · cases h

theorem hasWords_lateBarrier {s : State} {i : Instr} (h : lateBarrier s = some i) : hasWords i = false := by
  obtain ⟨p, -, hp⟩ := List.exists_of_findSome?_eq_some h
  obtain ⟨b, -, hb⟩ := List.exists_of_findSome?_eq_some hp
  split at hb <;> cases hb
  rfl

/-! ## The step -/

/-- A fragment still issues in the state that its fetch leaves. -/
theorem issuing_of_runFetch {s t : State} {i : Instr} (h : runFetch s = .instr t i) : (issuing t).isSome = true := by
  unfold runFetch at h
  split at h
  · cases h
  rename_i cx hi
  split at h
  · cases h
  split at h <;> cases h
  rename_i hf
  suffices hsame : OnlyIslands s t by simp [hsame.issuing, hi]
  unfold fetch at hf
  split at hf
  case h_4 hw =>
    split at hf
    · cases hf; exact OnlyIslands.fetchWord hw
    · split at hf
      case h_4 hw' =>
        split at hf <;> cases hf
        exact (OnlyIslands.fetchWord hw).trans (OnlyIslands.fetchWord hw')
      all_goals cases hf
    · cases hf
  all_goals cases hf

theorem goes_of_wordless {s : State} (h : ∀ i rest, s.agenda = i :: rest → hasWords i = false) : Goes s := by
  unfold Goes step
  dsimp only
  split
  · rename_i hl; exact exec_event_answers (hasWords_lateBarrier hl)
  · rename_i ha; exact exec_event_answers (h _ _ (passTime_agenda s ▸ ha))
  · split
    · rename_i hc; exact exec_event_answers (hasWords_chosen hc)
    · exact ⟨_, rfl⟩
    · split
      · rename_i hr; exact exec_answers (.inl (issuing_of_runFetch hr))
      · exact ⟨_, rfl⟩

/-- Settles O5: no branch of an instruction or of an event is without a state, and a step executes an instruction with words
only where its fetch left the fragment issuing. -/
theorem stepAlwaysAnswers : Obligations.StepAlwaysAnswers := by
  unfold Obligations.StepAlwaysAnswers
  exact ⟨fun i s h => exec_answers h, fun s h => goes_of_wordless h⟩

end Sys2Proof.Proofs

/-! PROOFS. Results of the lane, cross-lane, floating and uniform instructions (R101 to R139). -/

namespace Sys2Proof.Proofs

open Sys2Proof Sys2Proof.Machine Sys2Proof.Laws

/-! ## Instructions that change registers and go on -/

/-- Wherever it is clear to issue, the instruction changes the registers to r and the special registers to x, and its
fragment goes on after its words. -/
def Moves (i : Instr) (r : Cx → Regs) (x : Cx → SpecialRegs) : Prop :=
  ∀ s cx, Ready i s cx → ∃ n,
    exec i s = .next (done i s cx (withGroup s cx (advance n cx.ix { cx.g with regs := r cx, special := x cx })))

theorem moves_finish {i : Instr} {fm : Form} {n : Nat} {f : Cx → Regs → Regs}
    (he : ∀ s, exec i s = issue fm (fun cx => finish n (f cx) cx) s) (hf : ∀ s cx, formOf i s cx = fm) :
    Moves i (fun cx => f cx cx.g.regs) plain := by
  intro s cx c
  rw [Ready, hf] at c
  simp only [Machine.done, hf]
  exact ⟨_, (he s).trans (issue_ok c rfl)⟩

theorem crossed_eq (cx : Cx) : (if partialFrag cx then setXl cx.g.special else cx.g.special) = crossed cx := by
  by_cases h : cx.f.mask = fullMask (lanesIn cx.g) <;> simp [partialFrag, crossed, setXl, h]

theorem moves_finishCross {i : Instr} {fm : Form} {f : Cx → Regs → Regs}
    (he : ∀ s, exec i s = issue fm (fun cx => finishCross (f cx) cx) s) (hf : ∀ s cx, formOf i s cx = fm) :
    Moves i (fun cx => f cx cx.g.regs) crossed := by
  intro s cx c
  rw [Ready, hf] at c
  simp only [Machine.done, hf, ← crossed_eq]
  exact ⟨_, (he s).trans (issue_ok c rfl)⟩

theorem moves_finishFlags {i : Instr} {fm : Form} {fl : Cx → Flg} {f : Cx → Regs → Regs}
    (he : ∀ s, exec i s = issue fm (fun cx => finishFlags (fl cx) (f cx) cx) s) (hf : ∀ s cx, formOf i s cx = fm) :
    Moves i (fun cx => f cx cx.g.regs) (fun cx => raise cx.g.special (fl cx)) := by
  intro s cx c
  rw [Ready, hf] at c
  simp only [Machine.done, hf]
  exact ⟨_, (he s).trans (issue_ok c rfl)⟩

theorem Moves.writesV {i : Instr} {r : Cx → Regs} {x : Cx → SpecialRegs} (h : Moves i r x) {d k : Nat}
    {result : Cx → Regs → Nat → Prop} (hr : ∀ cx l, inMask cx.f.mask l = true → result cx (r cx) l)
    (hv : ∀ cx, OnlyV cx.g.regs (r cx) d k cx.f.mask)
    (hp : ∀ cx, SameP cx.g.regs (r cx) ∧ SameUniform cx.g.regs (r cx)) : WritesV i d k x result := by
  intro s cx c
  obtain ⟨n, he⟩ := h s cx c
  obtain ⟨hregs, hspecial, hrest, honly⟩ := issued_group (formOf i s cx) s cx n (r cx) (x cx)
  refine ⟨_, he, ?_, honly, ?_, ?_, ?_, hspecial, hrest⟩
  · intro l hl
    exact hregs.symm ▸ hr cx l hl
  · exact hregs.symm ▸ hv cx
  · exact hregs.symm ▸ (hp cx).1
  · exact hregs.symm ▸ (hp cx).2

theorem Moves.writesP {i : Instr} {x : Cx → SpecialRegs} {p : Nat} {val : Cx → Mask}
    (h : Moves i (fun cx => writeP cx.g.regs p cx.f.mask (val cx)) x) {result : Cx → Nat → Prop}
    (hr : ∀ cx l, inMask cx.f.mask l = true → (inMask (val cx) l = true ↔ result cx l)) : WritesP i p x result := by
  intro s cx c
  obtain ⟨n, he⟩ := h s cx c
  obtain ⟨hregs, hspecial, hrest, honly⟩ :=
    issued_group (formOf i s cx) s cx n (writeP cx.g.regs p cx.f.mask (val cx)) (x cx)
  refine ⟨_, he, ?_, honly, ?_, ?_, ?_, hspecial, hrest⟩
  · intro hp l hl
    refine Iff.trans ?_ (hr cx l hl)
    erw [hregs]
    rw [readP_writeP _ _ _ _ (lt_of_inMask hl), if_neg hp, if_pos hl]
  · exact hregs.symm ▸ onlyP_writeP ..
  · exact hregs.symm ▸ (writeP_rest ..).1
  · exact hregs.symm ▸ (writeP_rest ..).2

theorem Moves.writesS {i : Instr} {d : Nat} {val : Regs → DWord}
    (h : Moves i (fun cx => writeS cx.g.regs d (val cx.g.regs)) plain) : WritesS i d val := by
  intro s cx c
  obtain ⟨n, he⟩ := h s cx c
  obtain ⟨hregs, hspecial, hrest, honly⟩ :=
    issued_group (formOf i s cx) s cx n (writeS cx.g.regs d (val cx.g.regs)) (plain cx)
  obtain ⟨hv, hp, hc, hbad, ht⟩ := writeS_rest cx.g.regs d (val cx.g.regs)
  refine ⟨_, he, ?_, honly, ?_, ?_, ?_, ?_, ?_, hspecial, hrest⟩
  · erw [hregs]
    exact readS_writeS ..
  · exact hregs.symm ▸ onlyS_writeS ..
  · exact hregs.symm ▸ hv
  · exact hregs.symm ▸ hp
  · exact hregs.symm ▸ ⟨hc, hbad⟩
  · exact hregs.symm ▸ ht

theorem Moves.writesC {i : Instr} {d : BitVec 3} {val : Regs → Bool}
    (h : Moves i (fun cx => writeC cx.g.regs d.toNat (val cx.g.regs)) plain) : WritesC i d.toNat val := by
  intro s cx c
  obtain ⟨n, he⟩ := h s cx c
  obtain ⟨hregs, hspecial, hrest, honly⟩ :=
    issued_group (formOf i s cx) s cx n (writeC cx.g.regs d.toNat (val cx.g.regs)) (plain cx)
  obtain ⟨hv, hp, hs, hbad, ht⟩ := writeC_rest cx.g.regs d.toNat (val cx.g.regs)
  refine ⟨_, he, ?_, honly, ?_, ?_, ?_, ?_, ?_, hspecial, hrest⟩
  · erw [hregs]
    exact readC_writeC _ _ d.isLt
  · exact hregs.symm ▸ onlyC_writeC ..
  · exact hregs.symm ▸ hv
  · exact hregs.symm ▸ hp
  · exact hregs.symm ▸ ⟨hs, hbad⟩
  · exact hregs.symm ▸ ht

/-- The instruction's results are written by `wrv`: a register or a pair of the type's width. -/
theorem Moves.writesWrv {i : Instr} {d : Nat} {m : BitVec 2} {x : Cx → SpecialRegs} {z : Cx → Nat → Int}
    (h : Moves i (fun cx => wrv cx.g.regs d cx.f.mask m (z cx)) x) :
    WritesV i d (laneRegs m) x fun cx g l => rdvBits g d l m = wrap (z cx l) (laneWid m) :=
  h.writesV (fun _ _ hl => rdvBits_wrv _ _ _ _ _ hl) (fun _ => onlyV_wrv ..) (fun _ => wrv_rest ..)

/-- The instruction's results are written to one V register. -/
theorem Moves.writesOne {i : Instr} {d : Nat} {x : Cx → SpecialRegs} {f : Cx → Nat → Word}
    (h : Moves i (fun cx => writeV cx.g.regs d cx.f.mask (f cx)) x) :
    WritesV i d 1 x fun cx g l => readV g d l = f cx l :=
  h.writesV (fun _ _ hl => by rw [readV_writeV_same _ _ _ _ (lt_of_inMask hl), if_pos hl])
    (fun _ => onlyV_writeV ..) (fun _ => writeV_rest ..)

theorem WritesV.imp {i : Instr} {d n : Nat} {x : Cx → SpecialRegs} {p q : Cx → Regs → Nat → Prop}
    (h : WritesV i d n x p) (hpq : ∀ cx g l, inMask cx.f.mask l = true → p cx g l → q cx g l) : WritesV i d n x q := by
  intro s cx c
  obtain ⟨t, he, hres, hframe⟩ := h s cx c
  exact ⟨t, he, fun l hl => hpq cx _ l hl (hres l hl), hframe⟩

/-! ## Lane instructions of two operands -/

theorem laneTwo_laneBin {i : BitVec 2 → BitVec 7 → BitVec 7 → BitVec 7 → BitVec 2 → Instr} {z : BitVec 2 → LaneArgs → Int}
    (readsD : Bool) (he : ∀ st d a b m s, exec (i st d a b m) s = laneBin st d a b m readsD (z m) s := by intros; rfl)
    (hf : ∀ st d a b m s cx, formOf (i st d a b m) s cx = laneBinForm st d a b m readsD := by intros; rfl) :
    LaneTwo i z := fun st d a b m =>
  (moves_finish (f := fun cx g => laneBinRegs g cx.f.mask d a b m (z m)) (he st d a b m) (hf st d a b m)).writesWrv

theorem LaneTwo.congr {i : BitVec 2 → BitVec 7 → BitVec 7 → BitVec 7 → BitVec 2 → Instr} {y z : BitVec 2 → LaneArgs → Int}
    (h : LaneTwo i y) (hyz : ∀ m r, y m r = z m r) : LaneTwo i z := by
  obtain rfl : y = z := funext fun m => funext fun r => hyz m r
  exact h

/-- Settles O14: each instruction is `laneBin` of its operation. -/
theorem laneTwoOperandResults : Obligations.LaneTwoOperandResults := by
  refine ⟨laneTwo_laneBin false, laneTwo_laneBin false, laneTwo_laneBin false, laneTwo_laneBin false, laneTwo_laneBin true,
    ?min, ?max, laneTwo_laneBin false, laneTwo_laneBin false, laneTwo_laneBin false, laneTwo_laneBin false,
    laneTwo_laneBin false, laneTwo_laneBin false, ?shr⟩
  case min => exact LaneTwo.congr (laneTwo_laneBin (z := fun _ r => min r.x r.y) false) fun _ _ => min_def ..
  case max => exact LaneTwo.congr (laneTwo_laneBin (z := fun _ r => max r.x r.y) false) fun _ _ => max_def ..
  case shr =>
    exact LaneTwo.congr (laneTwo_laneBin (z := fun m r => shiftR (laneWid m) r.x r.c (laneSgn m)) false) fun _ _ => by
      simp [shiftR]

/-! ## Lane instructions of one operand, and predicates -/

theorem laneImm_laneImm {i : Instr} {d a : BitVec 7} {f : Word → Word} (st : BitVec 2)
    (he : ∀ s, exec i s = Machine.laneImm st d a f s := by intros; rfl)
    (hf : ∀ s cx, formOf i s cx = laneImmForm st a (vDst d.toNat 1) (some d) := by intros; rfl) : LaneImm i d a f :=
  Moves.writesOne (f := fun cx l => f (readV cx.g.regs a.toNat l)) <|
    moves_finish (f := fun cx g => writeV g d.toNat cx.f.mask fun l => f (readV g a.toNat l)) he hf

theorem writesOne_finish {i : Instr} {fm : Form} {d : Nat} {f : Cx → Regs → Nat → Word} {p : Cx → Regs → Nat → Prop}
    (he : ∀ s, exec i s = issue fm (fun cx => finish 4 (fun g => writeV g d cx.f.mask (f cx g)) cx) s)
    (hf : ∀ s cx, formOf i s cx = fm)
    (hp : ∀ cx g l, inMask cx.f.mask l = true → readV g d l = f cx cx.g.regs l → p cx g l) : WritesV i d 1 plain p :=
  WritesV.imp (Moves.writesOne (f := fun cx => f cx cx.g.regs)
    (moves_finish (f := fun cx g => writeV g d cx.f.mask (f cx g)) he hf)) hp

theorem writesP_finish {i : Instr} {fm : Form} {p : Nat} {f : Cx → Regs → Nat → Bool} {result : Cx → Nat → Prop}
    (he : ∀ s, exec i s = issue fm (fun cx => finish 4 (fun g => writeP g p cx.f.mask (maskOf (f cx g))) cx) s)
    (hf : ∀ s cx, formOf i s cx = fm) (hr : ∀ cx l, f cx cx.g.regs l = true ↔ result cx l) : WritesP i p plain result :=
  Moves.writesP (val := fun cx => maskOf (f cx cx.g.regs))
    (moves_finish (f := fun cx g => writeP g p cx.f.mask (maskOf (f cx g))) he hf)
    fun cx l hl => by rw [inMask_maskOf _ (lt_of_inMask hl), hr]

theorem asInt_signed (x : Word) : asInt true 32 x.toNat = x.toInt := by
  have := x.isLt
  simp only [asInt, signed, BitVec.toInt, if_true]
  split <;> split <;> omega

theorem truth_eq (t : BitVec 4) (a b : Bool) : truth t a b = t.getLsbD (2 * a.toNat + b.toNat) := by
  cases a <;> cases b <;> rfl

/-- Settles O15: each instruction writes one register, a pair or a predicate, through `finish`. -/
theorem laneOneOperandResults : Obligations.LaneOneOperandResults := by
  refine ⟨fun st d a u m => ?iun, fun st _ _ _ => laneImm_laneImm st, fun st _ _ _ => laneImm_laneImm st,
    fun st _ _ _ => laneImm_laneImm st, fun st _ _ _ => laneImm_laneImm st, fun st _ _ _ => laneImm_laneImm st,
    fun st _ _ _ => laneImm_laneImm st, fun st _ _ _ => laneImm_laneImm st, fun st p c a b m => ?icmp,
    fun st p c a i hc => ?signed, fun st p c a i hc => ?unsigned, fun st d i => ?movl, fun st d i => ?movh,
    fun st d a b p => ?sel, fun st d => ?lanev, fun st p tt x y => ?plog⟩
  case iun =>
    exact Moves.writesWrv (z := fun cx l => unary u.toNat (laneWid m) (rdv cx.g.regs a.toNat l m)) <|
      moves_finish (f := fun cx g => wrv g d.toNat cx.f.mask m fun l => unary u.toNat (laneWid m) (rdv g a.toNat l m))
        (fun _ => rfl) fun _ _ => rfl
  case icmp =>
    exact writesP_finish (f := fun _ g l => intCond c.toNat (rdv g a.toNat l m) (rdv g b.toNat l m))
      (fun _ => rfl) (fun _ _ => rfl) fun _ _ => Iff.rfl
  case signed =>
    refine writesP_finish (f := fun _ g l => intCond (c.toNat % 8)
      (asInt (c.toNat < 8) 32 (readV g a.toNat l).toNat) (asInt (c.toNat < 8) 32 (i.signExtend 32).toNat)) (fun _ => rfl) (fun _ _ => rfl) fun cx l => ?_
    simp only [hc, decide_true, Nat.mod_eq_of_lt, asInt_signed]
    rw [BitVec.toInt_signExtend_of_le (by decide)]
  case unsigned =>
    refine writesP_finish (f := fun _ g l => intCond (c.toNat % 8)
      (asInt (c.toNat < 8) 32 (readV g a.toNat l).toNat) (asInt (c.toNat < 8) 32 (i.signExtend 32).toNat)) (fun _ => rfl) (fun _ _ => rfl) fun cx l => ?_
    have hmod : c.toNat % 8 = c.toNat - 8 := by omega
    simp [asInt, hmod, Nat.not_lt.mpr hc]
  case movl => exact writesOne_finish (f := fun _ _ _ => i.setWidth 32) (fun _ => rfl) (fun _ _ => rfl) fun _ _ _ _ h => h
  case movh =>
    refine writesOne_finish (f := fun _ g l => i ++ (readV g d.toNat l).truncate 16) (fun _ => rfl) (fun _ _ => rfl)
      fun cx g l _ h => ?_
    rw [h, BitVec.toNat_append, ← Nat.shiftLeft_add_eq_or_of_lt (BitVec.isLt _), Nat.shiftLeft_eq]
    simp
  case sel =>
    exact writesOne_finish
      (f := fun _ g l => if inMask (readP g p.toNat) l then readV g a.toNat l else readV g b.toNat l)
      (fun _ => rfl) (fun _ _ => rfl) fun _ _ _ _ h => h
  case lanev =>
    refine writesOne_finish (f := fun _ _ l => bv 32 l) (fun _ => rfl) (fun _ _ => rfl) fun cx g l hl h => ?_
    have := lt_of_inMask hl
    rw [h, bv, BitVec.toNat_ofNat]
    omega
  case plog =>
    exact writesP_finish (f := fun _ g l => truth tt (inMask (readP g x.toNat) l) (inMask (readP g y.toNat) l))
      (fun _ => rfl) (fun _ _ => rfl) fun cx l => by rw [truth_eq]

/-! ## Cross-lane instructions -/

theorem lanesOf_mem {k : Mask} {l : Nat} : l ∈ lanesOf k ↔ inMask k l = true := by
  simp only [lanesOf, List.mem_filter, List.mem_range, lanes64]
  exact ⟨fun h => h.2, fun h => ⟨lt_of_inMask h, h⟩⟩

theorem mask_ext {a b : Mask} (h : ∀ l, inMask a l = inMask b l) : a = b :=
  BitVec.eq_of_getLsbD_eq fun l _ => h l

theorem shflSource_eq (cx : Cx) (mode : BitVec 2) (k l : Nat) :
    shflSource cx mode k l = if 0 ≤ shuffleSource mode k l ∧ shuffleSource mode k l < lanesIn cx.g
      ∧ inMask cx.f.mask (shuffleSource mode k l).toNat = true then (shuffleSource mode k l).toNat else l := by
  have hmode : mode = 0 ∨ mode = 1 ∨ mode = 2 ∨ mode = 3 := by decide +revert
  rcases hmode with rfl | rfl | rfl | rfl <;> simp [shflSource, shuffleSource, and_assoc]

theorem shuffled_of_source {cx : Cx} {g : Regs} {d a k l : Nat} {mode : BitVec 2}
    (h : readV g d l = readV cx.g.regs a (shflSource cx mode k l)) : Shuffled cx g d a mode k l := by
  rw [Shuffled, h, shflSource_eq]
  split <;> rfl

/-- The lanes of the fragment in which P[x] holds. -/
def holding (cx : Cx) (x : Nat) : Mask := readP cx.g.regs x &&& cx.f.mask

theorem inMask_holding (cx : Cx) (x l : Nat) : inMask (holding cx x) l = true ↔ HoldsIn cx x l := by
  simp [holding, HoldsIn, and_comm]

theorem holding_eq_zero (cx : Cx) (x : Nat) : holding cx x = 0 ↔ ∀ l, ¬ HoldsIn cx x l := by
  simp only [← inMask_holding]
  exact ⟨fun h l => by simp [h, inMask], fun h => mask_ext fun l => by simpa [inMask] using h l⟩

theorem holding_eq_mask (cx : Cx) (x : Nat) :
    holding cx x = cx.f.mask ↔ ∀ l, inMask cx.f.mask l = true → HoldsIn cx x l := by
  simp only [← inMask_holding]
  refine ⟨fun h l hl => by rwa [h], fun h => mask_ext fun l => Bool.eq_iff_iff.mpr ⟨fun hl => ?_, h l⟩⟩
  exact ((inMask_holding cx x l).mp hl).1

theorem voteResult_any (cx : Cx) (x : Nat) :
    voteResult 0 (readP cx.g.regs x) cx.f.mask = true ↔ ∃ j, HoldsIn cx x j := by
  have h := (holding_eq_zero cx x).not
  simp only [not_forall, not_not] at h
  rw [← h]
  exact decide_eq_true_iff

theorem voteResult_all (cx : Cx) (x : Nat) :
    voteResult 1 (readP cx.g.regs x) cx.f.mask = true ↔ ∀ j, inMask cx.f.mask j = true → HoldsIn cx x j := by
  rw [← holding_eq_mask]
  exact decide_eq_true_iff

theorem voteResult_same (cx : Cx) (x : Nat) : voteResult 2 (readP cx.g.regs x) cx.f.mask = true ↔
    ∀ j k, inMask cx.f.mask j = true → inMask cx.f.mask k = true → (HoldsIn cx x j ↔ HoldsIn cx x k) := by
  have h : voteResult 2 (readP cx.g.regs x) cx.f.mask = true ↔ holding cx x = cx.f.mask ∨ holding cx x = 0 := by
    refine (Bool.or_eq_true_iff ..).trans (or_congr ?_ ?_) <;> exact decide_eq_true_iff
  rw [h, holding_eq_mask, holding_eq_zero]
  constructor
  · rintro (h | h) j k hj hk
    · exact iff_of_true (h j hj) (h k hk)
    · exact iff_of_false (h j) (h k)
  · intro h
    by_cases hx : ∃ j, HoldsIn cx x j
    · obtain ⟨j, hj⟩ := hx
      exact .inl fun l hl => (h j l hj.1 hl).mp hj
    · exact .inr fun l hl => hx ⟨l, hl⟩

theorem writesP_vote {st : BitVec 2} {p x : BitVec 3} {c : BitVec 4} {result : Cx → Nat → Prop}
    (hr : ∀ cx l, voteResult c (readP cx.g.regs x.toNat) cx.f.mask = true ↔ result cx l) :
    WritesP (.vote st p c x) p.toNat crossed result :=
  Moves.writesP (val := fun cx => if voteResult c (readP cx.g.regs x.toNat) cx.f.mask then BitVec.allOnes 64 else 0)
    (moves_finishCross (f := fun cx g => writeP g p.toNat cx.f.mask
      (if voteResult c (readP g x.toNat) cx.f.mask then BitVec.allOnes 64 else 0)) (fun _ => rfl) fun _ _ => rfl)
    fun cx l hl => by
      rw [← hr cx l]
      split
      · refine iff_of_true ?_ ‹_›
        rw [inMask, BitVec.getLsbD_allOnes, decide_eq_true (lt_of_inMask hl)]
      · simp [inMask, *]

theorem reduced_redux {st : BitVec 2} {d a b : BitVec 7} {m : BitVec 2} {e : Int} {f : Int → Int → Int}
    (h : ∀ l : List Int, reduxFold b.toNat (laneWid m) (laneSgn m) l = l.foldl f e) :
    WritesV (.redux st d a b m) d.toNat (laneRegs m) crossed fun cx g l => Reduced cx g d.toNat a.toNat l m e f :=
  WritesV.imp
    (Moves.writesWrv (z := fun cx _ => reduxFold b.toNat (laneWid m) (laneSgn m)
        ((lanesOf cx.f.mask).map fun l => rdv cx.g.regs a.toNat l m)) <|
      moves_finishCross (f := fun cx g => wrv g d.toNat cx.f.mask m fun _ => reduxFold b.toNat (laneWid m) (laneSgn m)
        ((lanesOf cx.f.mask).map fun l => rdv g a.toNat l m)) (fun _ => rfl) fun _ _ => rfl)
    fun _ _ _ _ hv => by rw [Reduced, hv, h]

/-- Settles O16: a shuffle by its source lane, a vote by the lanes in which its predicate holds, a reduction by its fold. -/
theorem crossLaneResults : Obligations.CrossLaneResults := by
  refine ⟨fun st d a b m => ?shfl, fun st d a m n => ?shfli, fun st p x => writesP_vote fun cx _ => voteResult_any cx _,
    fun st p x => writesP_vote fun cx _ => voteResult_all cx _, fun st p x => writesP_vote fun cx _ => voteResult_same cx _,
    fun st x b => ?ballot, fun st d a m => reduced_redux fun _ => rfl, fun st d a m => reduced_redux fun _ => rfl,
    fun st d a m => reduced_redux fun _ => rfl, fun st d a m => reduced_redux fun _ => rfl,
    fun st d a m => reduced_redux fun _ => rfl, fun st d a m => reduced_redux fun _ => rfl⟩
  case shfl =>
    refine WritesV.imp (Moves.writesOne (f := fun cx l => readV cx.g.regs a.toNat
      (shflSource cx m (readV cx.g.regs b.toNat l).toNat l)) ?_) fun _ _ _ _ => shuffled_of_source
    exact moves_finishCross (f := fun cx g => writeV g d.toNat cx.f.mask fun l => readV g a.toNat
      (shflSource cx m (readV cx.g.regs b.toNat l).toNat l)) (fun _ => rfl) fun _ _ => rfl
  case shfli =>
    refine WritesV.imp (Moves.writesOne (f := fun cx l => readV cx.g.regs a.toNat (shflSource cx m n.toNat l)) ?_)
      fun _ _ _ _ => shuffled_of_source
    exact moves_finishCross (f := fun cx g => writeV g d.toNat cx.f.mask fun l => readV g a.toNat
      (shflSource cx m n.toNat l)) (fun _ => rfl) fun _ _ => rfl
  case ballot =>
    refine Moves.writesV (r := fun cx => writePair cx.g.regs b.toNat cx.f.mask fun _ => (holding cx x.toNat).toNat) ?_
      (fun cx l hl j => ?_) (fun _ => onlyV_writePair ..) fun cx => ?_
    · exact moves_finishCross (f := fun cx g => writePair g b.toNat cx.f.mask fun _ =>
        (readP g x.toNat &&& cx.f.mask).toNat) (fun _ => rfl) fun _ _ => rfl
    · rw [readPair_writePair _ _ _ _ hl, Nat.mod_eq_of_lt (BitVec.isLt _)]
      exact inMask_holding cx x.toNat j
    · exact ⟨⟨rfl, rfl⟩, rfl, rfl, rfl, rfl, rfl⟩

/-! ## Floating-point instructions -/

theorem orFlags_filter (l : List Nat) (k : Mask) (f : Nat → Flg) :
    orFlags (l.map fun j => if inMask k j then f j else 0) = orFlags ((l.filter fun j => inMask k j).map f) := by
  suffices h : ∀ a : Flg, (l.map fun j => if inMask k j then f j else 0).foldl (· ||| ·) a
      = ((l.filter fun j => inMask k j).map f).foldl (· ||| ·) a from h 0
  induction l with
  | nil => intro a; rfl
  | cons j l ih =>
    intro a
    rw [List.map_cons, List.foldl_cons, ih]
    by_cases hj : inMask k j = true <;> simp [hj]

theorem laneFlags_laneResults (k : Mask) (f : Nat → Rounded) :
    laneFlags (laneResults k f) = orFlags ((lanesOf k).map fun l => (f l).2) := by
  refine Eq.trans ?_ (orFlags_filter lanes64 k fun l => (f l).2)
  rw [laneFlags, laneResults, List.map_map]
  congr 2
  funext l
  simp only [Function.comp_apply]
  split <;> rfl

theorem raise_laneFlags (cx : Cx) (f : Nat → Rounded) :
    raise cx.g.special (laneFlags (laneResults cx.f.mask f)) = raised cx f := by
  rw [laneFlags_laneResults]
  rfl

theorem laneResults_getD {k : Mask} (f : Nat → Rounded) {l : Nat} (h : inMask k l = true) :
    (laneResults k f).getD l (0, 0) = f l := by
  have hl := lt_of_inMask h
  simp [laneResults, lanes64, List.getD, hl, h]

theorem holds_writeF (g : Regs) (d : Nat) {k : Mask} (m : BitVec 2) (f : Nat → Rounded) {l : Nat} (h : inMask k l = true) :
    Holds (writeF g d k m (laneResults k f)) d l (m = 3) (f l) := by
  by_cases hm : m = 3
  · simp only [Holds, hm, decide_true, writeF, if_true]
    rw [readPair_writePair _ _ _ _ h, laneResults_getD f h]
  · simp only [Holds, hm, decide_false, writeF, if_false, Bool.false_eq_true]
    rw [readV_writeV_same _ _ _ _ (lt_of_inMask h), if_pos h, laneResults_getD f h]

theorem onlyV_writeF (g : Regs) (d : Nat) (k : Mask) (m : BitVec 2) (r : List Rounded) :
    OnlyV g (writeF g d k m r) d (fmtRegs m) k := by
  by_cases hm : m = 3
  · simpa only [writeF, fmtRegs, hm, if_true] using onlyV_writePair ..
  · simpa only [writeF, fmtRegs, hm, if_false] using onlyV_writeV ..

theorem writeF_rest (g : Regs) (d : Nat) (k : Mask) (m : BitVec 2) (r : List Rounded) :
    SameP g (writeF g d k m r) ∧ SameUniform g (writeF g d k m r) := by
  rw [writeF]
  split <;> exact ⟨⟨rfl, rfl⟩, rfl, rfl, rfl, rfl, rfl⟩

/-- A lane instruction whose results have flags, written by `writeF` as its format says. -/
theorem floatResult_finishFlags {i : Instr} {fm : Form} {d : Nat} {m : BitVec 2} {r : RMode → Regs → Nat → Rounded}
    (he : ∀ s, exec i s = issue fm (fun cx =>
      finishFlags (laneFlags (laneResults cx.f.mask (r (modeOf cx.g.special) cx.g.regs)))
        (fun g => writeF g d cx.f.mask m (laneResults cx.f.mask (r (modeOf cx.g.special) cx.g.regs))) cx) s)
    (hf : ∀ s cx, formOf i s cx = fm) : FloatResult i d (fmtRegs m) (m = 3) r := by
  have h := moves_finishFlags (f := fun cx g => writeF g d cx.f.mask m
    (laneResults cx.f.mask (r (modeOf cx.g.special) cx.g.regs))) he hf
  simp only [raise_laneFlags] at h
  exact h.writesV (fun cx l hl => holds_writeF _ _ _ _ hl) (fun _ => onlyV_writeF ..) fun _ => writeF_rest ..

theorem floatTwo_floatOp {i : BitVec 2 → BitVec 7 → BitVec 7 → BitVec 7 → BitVec 2 → Instr}
    {z : FFmt → RMode → Nat → Nat → Nat → Rounded} (readsD : Bool)
    (he : ∀ st d a b m s, exec (i st d a b m) s = floatOp st d a (some b) m readsD (z (efmt m)) s := by intros; rfl)
    (hf : ∀ st d a b m s cx, formOf (i st d a b m) s cx = floatForm st d a (some b) m readsD := by intros; rfl) :
    FloatTwo i z := fun st d a b m =>
  floatResult_finishFlags (he st d a b m) (hf st d a b m)

theorem rdv_word (g : Regs) (r l : Nat) : rdv g r l 0 = (readV g r l).toInt := asInt_signed _

/-- Settles O17: each instruction is `floatOp` of its operation, or `finishFlags` of its result by `writeF`. -/
theorem floatResults : Obligations.FloatResults := by
  refine ⟨⟨floatTwo_floatOp false, floatTwo_floatOp false, floatTwo_floatOp false, floatTwo_floatOp true,
    floatTwo_floatOp false, floatTwo_floatOp false, floatTwo_floatOp false⟩, fun st p c a b m => ?fcmp,
    fun st d a b m => ?fscl, fun st d a m => ?cls, fun st d a u m hu => ?funOp, fun st d a t u x => ?cvt⟩
  case fcmp =>
    exact Moves.writesP (val := fun cx => maskOf fun l =>
        floatCond c.toNat (rdf cx.g.regs a.toNat l m 0) (rdf cx.g.regs b.toNat l m 0))
      (moves_finishFlags (f := fun cx g => writeP g p.toNat cx.f.mask (maskOf fun l =>
        floatCond c.toNat (rdf cx.g.regs a.toNat l m 0) (rdf cx.g.regs b.toNat l m 0))) (fun _ => rfl) fun _ _ => rfl)
      fun cx l hl => by rw [inMask_maskOf _ (lt_of_inMask hl)]
  case fscl =>
    refine floatResult_finishFlags (fun s => ?_) fun _ _ => rfl
    simp only [← rdv_word]
    rfl
  case cls => exact floatResult_finishFlags (m := 0) (fun _ => rfl) fun _ _ => rfl
  case funOp =>
    refine floatResult_finishFlags (fun s => ?_) fun _ _ => rfl
    simp only [exec, execFunOp, hu, if_false]
    rfl
  case cvt =>
    have hn : fmtRegs (if cvtRegs t.toNat = 2 then 3 else 0) = cvtRegs t.toNat := by
      rw [cvtRegs]
      split <;> rfl
    have h3 : ((if cvtRegs t.toNat = 2 then (3 : BitVec 2) else 0) = 3) = (cvtRegs t.toNat = 2) := by
      split <;> simp [*]
    have h := floatResult_finishFlags (i := .cvt st d a t u x) (d := d.toNat) (m := if cvtRegs t.toNat = 2 then 3 else 0)
      (r := fun md g l => cvtResult t.toNat (x = 1) md
        (cvtSource u.toNat (if cvtRegs u.toNat = 2 then readPair g a.toNat l else (readV g a.toNat l).toNat)))
      (fun _ => rfl) fun _ _ => rfl
    simpa only [hn, h3] using h

/-! ## Uniform instructions -/

theorem writesS_finish {i : Instr} {fm : Form} {n d : Nat} {val : Regs → DWord}
    (he : ∀ s, exec i s = issue fm (fun cx => finish n (fun g => writeS g d (val g)) cx) s)
    (hf : ∀ s cx, formOf i s cx = fm) : WritesS i d val :=
  Moves.writesS (moves_finish (f := fun _ g => writeS g d (val g)) he hf)

theorem writesC_finish {i : Instr} {fm : Form} {n : Nat} {d : BitVec 3} {val : Regs → Bool}
    (he : ∀ s, exec i s = issue fm (fun cx => finish n (fun g => writeC g d.toNat (val g)) cx) s)
    (hf : ∀ s cx, formOf i s cx = fm) : WritesC i d.toNat val :=
  Moves.writesC (moves_finish (f := fun _ g => writeC g d.toNat (val g)) he hf)

theorem WritesS.congr {i : Instr} {d : Nat} {u v : Regs → DWord} (h : WritesS i d u) (huv : ∀ g, u g = v g) :
    WritesS i d v := by
  obtain rfl : u = v := funext huv
  exact h

theorem WritesC.congr {i : Instr} {d : Nat} {u v : Regs → Bool} (h : WritesC i d u) (huv : ∀ g, u g = v g) :
    WritesC i d v := by
  obtain rfl : u = v := funext huv
  exact h

theorem uniTwo_uniBin {i : BitVec 2 → BitVec 6 → BitVec 6 → BitVec 6 → BitVec 4 → Instr} {z : BitVec 4 → UniArgs → Int}
    (he : ∀ st d a b m s, exec (i st d a b m) s = uniBin st d a b m (z m) s := by intros; rfl)
    (hf : ∀ st d a b m s cx, formOf (i st d a b m) s cx = uniForm st [sUse a.toNat, sUse b.toNat] (.s d.toNat) := by
      intros; rfl) : UniTwo i z := fun st d a b m =>
  writesS_finish (val := fun g => wrsVal m (z m (uniArgs g a b m))) (he st d a b m) (hf st d a b m)

theorem UniTwo.congr {i : BitVec 2 → BitVec 6 → BitVec 6 → BitVec 6 → BitVec 4 → Instr} {y z : BitVec 4 → UniArgs → Int}
    (h : UniTwo i y) (hyz : ∀ m r, y m r = z m r) : UniTwo i z := by
  obtain rfl : y = z := funext fun m => funext fun r => hyz m r
  exact h

theorem signed_dword (x : DWord) : signed x.toNat 64 = x.toInt := by
  have := x.isLt
  simp only [signed, BitVec.toInt]
  split <;> split <;> omega

theorem s64_eq (g : Regs) (sg : Bool) (r : Nat) :
    s64 g sg r = if sg = true then (readS g r).toInt else (readS g r).toNat := by
  rw [s64, asInt, signed_dword]

/-- UMOVI's mode 2 replaces the upper word. -/
theorem append_truncate (imm : Word) (x : DWord) :
    imm ++ x.truncate 32 = BitVec.ofNat 64 (imm.toNat * 2 ^ 32 + x.toNat % 2 ^ 32) := by
  have hi := imm.isLt
  apply BitVec.eq_of_toNat_eq
  rw [BitVec.toNat_append, ← Nat.shiftLeft_add_eq_or_of_lt (BitVec.isLt _), Nat.shiftLeft_eq, BitVec.toNat_ofNat]
  simp only [BitVec.truncate_eq_setWidth, BitVec.toNat_setWidth]
  omega

/-- Settles O18: each instruction is `uniBin` of its operation, or writes one S or C register through `finish`. -/
theorem uniformResults : Obligations.UniformResults := by
  refine ⟨⟨uniTwo_uniBin, uniTwo_uniBin, uniTwo_uniBin, uniTwo_uniBin, uniTwo_uniBin, uniTwo_uniBin, uniTwo_uniBin,
    uniTwo_uniBin, ?ushr, ?umin, ?umax⟩, fun st c a b m => ?ucmp, fun st d a b c => ?usel, fun st d a i => ?uaddi,
    fun st d a i => ?uandi, fun st c n a i hn => ?ucmpi, fun st c a i => ?below, fun st c a i => ?notBelow,
    fun st d imm => ?zero, fun st d imm => ?sign, fun st d imm => ?upper, fun st d a u m => ?uun, fun st c x y tt => ?clog⟩
  case ushr =>
    exact UniTwo.congr (uniTwo_uniBin (z := fun m r => shiftR (uniWid m) r.x r.c (uniSgn m))) fun _ _ => by simp [shiftR]
  case umin => exact UniTwo.congr (uniTwo_uniBin (z := fun _ r => min r.x r.y)) fun _ _ => min_def ..
  case umax => exact UniTwo.congr (uniTwo_uniBin (z := fun _ r => max r.x r.y)) fun _ _ => max_def ..
  case ucmp =>
    exact WritesC.congr (writesC_finish (val := fun g => intCond (m.toNat % 8) (s64 g (m.toNat < 8) a.toNat)
      (s64 g (m.toNat < 8) b.toNat)) (fun _ => rfl) fun _ _ => rfl) fun g => by simp only [s64_eq, decide_eq_true_eq]
  case usel => exact writesS_finish (fun _ => rfl) fun _ _ => rfl
  case uaddi => exact writesS_finish (fun _ => rfl) fun _ _ => rfl
  case uandi => exact writesS_finish (fun _ => rfl) fun _ _ => rfl
  case ucmpi =>
    have hc (x y : DWord) : ucmpiCond n.toNat x y = intCond n.toNat x.toInt y.toInt := by
      rw [ucmpiCond, if_neg (by omega), if_neg (by omega), signed_dword, signed_dword]
    exact WritesC.congr (writesC_finish (val := fun g => ucmpiCond n.toNat (readS g a.toNat) (i.signExtend 64))
      (fun _ => rfl) fun _ _ => rfl) fun g => by rw [hc, BitVec.toInt_signExtend_of_le (by decide)]
  case below =>
    exact writesC_finish (val := fun g => ucmpiCond 6 (readS g a.toNat) (i.signExtend 64)) (fun _ => rfl) fun _ _ => rfl
  case notBelow =>
    exact writesC_finish (val := fun g => ucmpiCond 7 (readS g a.toNat) (i.signExtend 64)) (fun _ => rfl) fun _ _ => rfl
  case zero => exact writesS_finish (fun _ => rfl) fun _ _ => rfl
  case sign => exact writesS_finish (fun _ => rfl) fun _ _ => rfl
  case upper =>
    exact WritesS.congr (writesS_finish (val := fun g => imm ++ (readS g d.toNat).truncate 32) (fun _ => rfl)
      fun _ _ => rfl) fun g => append_truncate ..
  case uun => exact writesS_finish (fun _ => rfl) fun _ _ => rfl
  case clog =>
    exact WritesC.congr (writesC_finish (val := fun g => truth tt (readC g x.toNat) (readC g y.toNat)) (fun _ => rfl)
      fun _ _ => rfl) fun g => truth_eq ..

end Sys2Proof.Proofs

/-! PROOFS. Results of the control instructions: branches, waits and fences, FLGS, software traps (R193 to R200, R310,
R325 to R328, R410). -/

namespace Sys2Proof.Proofs

open Sys2Proof Sys2Proof.Machine Sys2Proof.Laws

/-! ## Completing with an effect -/

theorem modGrp_issuing {s : State} {cx : Cx} (h : issuing s = some cx) (f : Group → Group) :
    modGrp s cx.key f = withGroup s cx (f cx.g) := by
  rw [modGrp, withGroup, setGrp, tblAdj, (issuing_some h).2.1]

theorem tblSet_tblSet {α : Type} (t : Tbl α) (k : Nat) (v w : α) : tblSet (tblSet t k v) k w = tblSet t k w := by
  induction t with
  | nil => simp [tblSet]
  | cons p t ih =>
    obtain ⟨j, u⟩ := p
    rw [tblSet, tblSet]
    split
    · simp [tblSet]
    · split
      · simp [tblSet]
      · rw [tblSet, if_neg ‹_›, if_neg ‹_›, ih]

theorem modGrp_withGroup (s : State) (cx : Cx) (g : Group) (f : Group → Group) :
    modGrp (withGroup s cx g) cx.key f = withGroup s cx (f g) := by
  simp only [modGrp, withGroup, setGrp, tblAdj, tblGet?_set_same, tblSet_tblSet]

theorem still_refl (s : State) (cx : Cx) : Still s s cx := ⟨⟨fun _ _ => rfl, fun _ _ => rfl⟩, fun _ _ => rfl⟩

theorem still_trans {s t u : State} {cx : Cx} (a : Still s t cx) (b : Still t u cx) : Still s u cx :=
  ⟨⟨fun i k => (b.1.1 i k).trans (a.1.1 i k), fun i k => (b.1.2 i k).trans (a.1.2 i k)⟩,
    fun k hk => (b.2 k hk).trans (a.2 k hk)⟩

theorem still_withGroup (s : State) (cx : Cx) (g : Group) : Still s (withGroup s cx g) cx :=
  ⟨⟨fun _ _ => rfl, fun _ _ => rfl⟩, fun _ hk => tblGet?_set_other _ _ hk⟩

theorem byteAt_of_mem {s t : State} (hh : t.hostMem = s.hostMem)
    (hm : ∀ i, (islOf t i).mem.bytes = (islOf s i).mem.bytes) (i a : Nat) : byteAt t i a = byteAt s i a := by
  simp only [byteAt, physBytes, hh, hm]

theorem islandRest_sampleCtx (s : State) (i src c v j : Nat) :
    islandRest (islOf (sampleCtx s i src c v) j) = islandRest (islOf s j) := by
  unfold sampleCtx
  split
  · refine (modIsl_erase _ _ _ _ ?_).trans rfl
    exact fun _ => rfl
  · rfl

theorem sampleCtx_rest (s : State) (i src c v : Nat) :
    (sampleCtx s i src c v).hostMem = s.hostMem ∧ (sampleCtx s i src c v).teams = s.teams := by
  unfold sampleCtx
  split <;> exact ⟨rfl, rfl⟩

/-- What issue books: the group's own clock, and its island's cores and monitors. -/
theorem bookAll_eq (fm : Form) (cx : Cx) (n : Nat) (s : State) : ∃ (u : State) (f : Island → Island),
    (u.groups = s.groups ∧ u.hostMem = s.hostMem ∧ u.teams = s.teams ∧ ∀ j, islandRest (islOf u j) = islandRest (islOf s j))
    ∧ (∀ x, islandRest (f x) = islandRest x)
    ∧ bookAll fm cx n s = modIsl (modGrp u cx.key (bookIssue fm n cx.f.mask u.tick)) cx.g.ident.island f := by
  by_cases h : lostHere s cx = 0
  · exact ⟨s, fun x => { x with cores := tblMod x.cores cx.g.ident.core (bookCore n s.panel.ptime) }, ⟨rfl, rfl, rfl, fun _ => rfl⟩,
      fun _ => rfl, by simp only [bookAll, if_pos h]; rfl⟩
  · exact ⟨sampleCtx s cx.g.ident.island 5 cx.g.ident.ctx (lostHere s cx),
      fun x => { x with cores := tblMod x.cores cx.g.ident.core (bookCore n
        (sampleCtx s cx.g.ident.island 5 cx.g.ident.ctx (lostHere s cx)).panel.ptime) }, ⟨sampleCtx_groups .., (sampleCtx_rest ..).1,
      (sampleCtx_rest ..).2, islandRest_sampleCtx _ _ _ _ _⟩, fun _ => rfl,
      by simp only [bookAll, if_neg h]; rfl⟩

theorem still_issued (fm : Form) (s e : State) (cx : Cx) : Still e (issued fm s cx e) cx := by
  obtain ⟨u, f, ⟨hg, hh, ht, hi⟩, hf, he⟩ := bookAll_eq fm cx (readyClock fm s cx) e
  rw [issued, he]
  refine ⟨⟨byteAt_of_mem (by simpa using hh) fun i => ?_, fun tm a => ?_⟩, fun k hk => ?_⟩
  · have hrest := (modIsl_erase (modGrp u cx.key (bookIssue fm (readyClock fm s cx) cx.f.mask u.tick)) cx.g.ident.island i f
      hf).trans ((congrArg islandRest (islOf_modGrp ..)).trans (hi i))
    exact congrArg (fun x => x.mem.bytes) hrest
  · simp only [teamOf, modIsl_teams, modGrp_teams, ht]
  · rw [modIsl_groups, modGrp_groups, tblGet?_adj_other _ _ hk, hg]

/-- An instruction whose body answers the effect, which touches no memory and no other group, runs still. -/
theorem runsStill_ok {i : Instr} {cond : State → Cx → Prop} {effect : State → Cx → State} {fm : Form}
    {body : Cx → State → Res} (he : ∀ s, exec i s = issue fm body s) (hf : ∀ s cx, formOf i s cx = fm)
    (hb : ∀ s cx, issuing s = some cx → cond s cx → body cx s = .ok (effect s cx) ∧ Still s (effect s cx) cx) :
    RunsStill i cond effect := by
  intro s cx ready hcond
  have hclear : Clear fm s cx := hf s cx ▸ ready
  obtain ⟨hok, hstill⟩ := hb s cx hclear.issuer hcond
  rw [he, Machine.done, hf]
  exact ⟨issue_ok hclear hok, still_trans hstill (still_issued ..)⟩

/-- The same, where the effect replaces the issuing group. -/
theorem runsStill_group {i : Instr} {cond : State → Cx → Prop} {g : State → Cx → Group} {fm : Form}
    {body : Cx → State → Res} (he : ∀ s, exec i s = issue fm body s) (hf : ∀ s cx, formOf i s cx = fm)
    (hb : ∀ s cx, issuing s = some cx → cond s cx → body cx s = okGrp s cx (g s cx)) :
    RunsStill i cond fun s cx => withGroup s cx (g s cx) :=
  runsStill_ok he hf fun s cx hi hc => ⟨hb s cx hi hc, still_withGroup ..⟩

theorem runsStill_goPast {i : Instr} {cond : State → Cx → Prop} {n : Nat} {fm : Form}
    {body : Cx → State → Res} (he : ∀ s, exec i s = issue fm body s) (hf : ∀ s cx, formOf i s cx = fm)
    (hb : ∀ s cx, issuing s = some cx → cond s cx → body cx s = finish n id cx s) : RunsStill i cond (goPast n) :=
  runsStill_ok he hf fun s cx hi hc => by
    rw [goPast, modGrp_issuing hi]
    exact ⟨hb s cx hi hc, still_withGroup ..⟩

/-- An instruction whose body answers a fault takes it. -/
theorem faultsIf_issue {i : Instr} {cond : State → Cx → Prop} {c : Cx → Cause} {fm : Form} {body : Cx → State → Res}
    (he : ∀ s, exec i s = issue fm body s) (hf : ∀ s cx, formOf i s cx = fm)
    (hb : ∀ s cx, issuing s = some cx → cond s cx → body cx s = .flt (c cx)) : FaultsIf i cond c := by
  intro s cx ready hcond
  have hclear : Clear fm s cx := hf s cx ▸ ready
  rw [he, issue_clear hclear, hb s cx hclear.issuer hcond]

/-- An instruction whose body waits waits. -/
theorem waitsIf_issue {i : Instr} {cond : State → Cx → Prop} {fm : Form} {body : Cx → State → Res}
    (he : ∀ s, exec i s = issue fm body s) (hf : ∀ s cx, formOf i s cx = fm)
    (hb : ∀ s cx, issuing s = some cx → cond s cx → body cx s = .wait) : WaitsIf i cond := by
  intro s cx ready hcond
  have hclear : Clear fm s cx := hf s cx ▸ ready
  rw [he, issue_clear hclear, hb s cx hclear.issuer hcond]

/-- An instruction whose body completes runs to its effect. -/
theorem runsIf_issue {i : Instr} {cond : State → Cx → Prop} {effect : State → Cx → State} {fm : Form}
    {body : Cx → State → Res} (he : ∀ s, exec i s = issue fm body s) (hf : ∀ s cx, formOf i s cx = fm)
    (hb : ∀ s cx, issuing s = some cx → cond s cx → body cx s = .ok (effect s cx)) : RunsIf i cond effect := by
  intro s cx ready hcond
  have hclear : Clear fm s cx := hf s cx ▸ ready
  rw [he, Machine.done, hf]
  exact issue_ok hclear (hb s cx hclear.issuer hcond)

/-! ## Branches (R193, R194) -/

theorem branchTo_target {a : DWord} (h : Target a) (cx : Cx) (s : State) :
    branchTo a cx s = okGrp s cx (jump (a.truncate 57) cx.ix cx.g) := by
  obtain ⟨h4, h57⟩ := h
  rw [branchTo, if_neg (by simpa using h4), if_neg (by omega)]

theorem branchTo_misaligned {a : DWord} (h : a.toNat % 4 ≠ 0) (cx : Cx) (s : State) :
    branchTo a cx s = .flt { cls := 0x08, status := 1 } := if_pos h

theorem branchTo_beyond {a : DWord} (h4 : a.toNat % 4 = 0) (h : 2 ^ 57 ≤ a.toNat) (cx : Cx) (s : State) :
    branchTo a cx s = .flt { cls := 0x11, status := 1 } := by
  rw [branchTo, if_neg (by simpa using h4), if_pos h]

theorem splitBranch_issuing {s : State} {cx : Cx} (h : issuing s = some cx) (k : Mask) (p : VAddr) :
    splitBranch k p cx.ix cx.g = if k = cx.f.mask then jump p cx.ix cx.g
      else if k = 0 then jump (pcAdd cx.f.pc 4) cx.ix cx.g
      else settle { cx.g with
        frags := modNth cx.g.frags cx.ix (fun f => { f with mask := f.mask &&& ~~~k, pc := pcAdd f.pc 4 })
          ++ [{ mask := k, pc := p, handler := cx.f.handler }] } := by
  rw [splitBranch, (issuing_some h).2.2]

/-- Settles O23: BRC by its condition, BRX and RET by the target they read, BRP by the lanes it takes. -/
theorem branchResults : Obligations.BranchResults := by
  simp only [Obligations.BranchResults, ← branchTarget_eq_ubTarget]
  refine ⟨⟨fun st off => ?call, fun st c n off => ?taken, fun st c n off => ?notTaken, fun st a => ?brx, fun st => ?ret,
    fun st p n off => ?all, fun st p n off => ?none, fun st p n off => ?some⟩, fun st a => ?brxAlign, fun st a => ?brxProt,
    fun st => ?retAlign, fun st => ?retProt⟩
  case call => exact runsStill_group (fun _ => rfl) (fun _ _ => rfl) fun _ _ _ _ => rfl
  case taken =>
    refine runsStill_group (fun s => (rfl : execBrc st c n off s = _)) (fun _ _ => rfl) fun s cx _ h => ?_
    have hc : (readC cx.g.regs c.toNat != decide (n = 1)) = true :=
      bne_iff_ne.mpr fun he => h (by rw [he, decide_eq_true_eq])
    simp only [hc, if_true]
    rfl
  case notTaken =>
    refine runsStill_group (fun s => (rfl : execBrc st c n off s = _)) (fun _ _ => rfl) fun s cx _ h => ?_
    have hc : (readC cx.g.regs c.toNat != decide (n = 1)) = false :=
      bne_eq_false_iff_eq.mpr (by rw [Bool.eq_iff_iff, h, decide_eq_true_eq])
    simp only [hc, Bool.false_eq_true, if_false]
    rfl
  case brx => exact runsStill_group (fun _ => rfl) (fun _ _ => rfl) fun s cx _ h => branchTo_target h cx s
  case ret => exact runsStill_group (fun _ => rfl) (fun _ _ => rfl) fun s cx _ h => branchTo_target h cx s
  case all =>
    refine runsStill_group (fun _ => rfl) (fun _ _ => rfl) fun s cx hi h => congrArg (okGrp s cx) ?_
    exact (splitBranch_issuing hi _ _).trans (if_pos h)
  case none =>
    refine runsStill_group (fun _ => rfl) (fun _ _ => rfl) fun s cx hi ⟨h, hmask⟩ => congrArg (okGrp s cx) ?_
    exact (splitBranch_issuing hi _ _).trans ((if_neg fun hall => hmask (hall.symm.trans h)).trans (if_pos h))
  case some =>
    refine runsStill_group (fun _ => rfl) (fun _ _ => rfl) fun s cx hi ⟨hall, hnone⟩ => congrArg (okGrp s cx) ?_
    exact (splitBranch_issuing hi _ _).trans ((if_neg hall).trans (if_neg hnone))
  case brxAlign => exact faultsIf_issue (fun _ => rfl) (fun _ _ => rfl) fun s cx _ h => branchTo_misaligned h cx s
  case brxProt => exact faultsIf_issue (fun _ => rfl) (fun _ _ => rfl) fun s cx _ h => branchTo_beyond h.1 h.2 cx s
  case retAlign => exact faultsIf_issue (fun _ => rfl) (fun _ _ => rfl) fun s cx _ h => branchTo_misaligned h cx s
  case retProt => exact faultsIf_issue (fun _ => rfl) (fun _ _ => rfl) fun s cx _ h => branchTo_beyond h.1 h.2 cx s

/-! ## FLGS and the software traps (R200, R325, R328) -/

theorem flgsOp_results {i : Instr} {st : BitVec 2} {d : BitVec 6} {f : DWord → DWord}
    (he : ∀ s, exec i s = flgsOp st d f s) (hf : ∀ s cx, formOf i s cx = flgsForm st d) :
    RunsStill i (fun _ cx => flagsSettled cx.g = true) (fun s cx =>
        withGroup s cx (advance 4 cx.ix { cx.g with
          regs := writeS cx.g.regs d.toNat cx.g.special.flags
          special := { cx.g.special with flags := f cx.g.special.flags } }))
      ∧ WaitsIf i fun _ cx => flagsSettled cx.g = false := by
  constructor
  · refine runsStill_group he hf fun s cx _ h => ?_
    simp only [h, Bool.not_true, Bool.false_eq_true, if_false]
  · refine waitsIf_issue he hf fun s cx _ h => ?_
    simp only [h, Bool.not_false, if_true]

/-- Settles O26. -/
theorem flagsInOneStep : Obligations.FlagsInOneStep := by
  intro st d m
  refine ⟨?_, ?_, ?_⟩
  · exact flgsOp_results (f := id) (fun s => (rfl : execFlgs st d m s = _)) fun _ _ => rfl
  · exact flgsOp_results (f := fun x => x &&& ~~~(m.setWidth 64)) (fun s => (rfl : execFlgsClr st d m s = _)) fun _ _ => rfl
  · exact flgsOp_results (f := fun x => x ||| m.setWidth 64) (fun s => (rfl : execFlgsSet st d m s = _)) fun _ _ => rfl

theorem causeWord_soft (status : BitVec 8) (k : BitVec 10) :
    causeWord { cls := 0, status := status, info := k.setWidth 32 } false
      = BitVec.ofNat 64 (k.toNat * 2 ^ 32 + status.toNat * 2 ^ 8) := by
  have hk := k.isLt
  have hmod : k.toNat % 2147483648 = k.toNat := by omega
  rw [causeWord]
  simp [hmod]

theorem runs_softTrap {i : Instr} {st : BitVec 2} (status : BitVec 8) {k : BitVec 10}
    (he : ∀ s, exec i s = softTrap st status k s) (hf : ∀ s cx, formOf i s cx = ctlForm st []) : Runs i fun s cx =>
      deliver s cx.key (BitVec.ofNat 64 (k.toNat * 2 ^ 32 + status.toNat * 2 ^ 8)) (pcAdd cx.f.pc 4) cx.f.mask := by
  simp only [← causeWord_soft]
  exact fun s cx ready => runsIf_issue (cond := always) he hf (fun _ _ _ _ => rfl) s cx ready trivial

/-- Settles O27. -/
theorem softwareTraps : Obligations.SoftwareTraps := by
  refine ⟨fun st k => ?_, fun st k => ?_⟩
  · have h := runs_softTrap (i := .trap st k) 0 (fun s => (rfl : execTrap st k s = _)) fun _ _ => rfl
    have hstatus : (0 : BitVec 8).toNat * 2 ^ 8 = 0 := rfl
    simpa only [hstatus, Nat.add_zero] using h
  · have h := runs_softTrap (i := .bpt st k) 1 (fun s => (rfl : execBpt st k s = _)) fun _ _ => rfl
    have hstatus : (1 : BitVec 8).toNat * 2 ^ 8 = 0x100 := rfl
    rwa [hstatus] at h

/-! ## Waits and fences (R195 to R199, R310, R327, R410) -/

theorem still_modGrp (s : State) (cx : Cx) (f : Group → Group) : Still s (modGrp s cx.key f) cx :=
  ⟨⟨fun _ _ => rfl, fun _ _ => rfl⟩, fun _ hk => tblGet?_adj_other _ _ hk⟩

theorem still_modMem (s : State) (cx : Cx) (i : Nat) (f : IslandMem → IslandMem) (h : ∀ m, (f m).bytes = m.bytes) :
    Still s (modMem s i f) cx :=
  ⟨⟨fun j a => by rw [byteAt, byteAt, physBytes_modMem h], fun _ _ => rfl⟩, fun _ _ => rfl⟩

theorem still_synchronise (s : State) (cx : Cx) (rel acq : Bool) (scope : Nat) :
    Still s (synchronise s cx rel acq scope) cx := by
  have hfence : Still s (fenceLanes rel acq scope cx.key cx.f.mask s) cx := by
    rw [fenceLanes]
    split
    · exact still_modGrp ..
    · exact still_refl ..
  refine still_trans hfence ?_
  rw [synchronise, acquireAt]
  split
  · exact still_modMem _ _ _ _ fun _ => rfl
  · exact still_refl ..

theorem surfaced_held {g : Group} {h : HeldFault} {l : List HeldFault} (e : g.held = h :: l) :
    surfaced g = some (h.cause ||| (1#64 <<< 63)) := by rw [surfaced, e]

theorem surfaced_flags {g : Group} (e : g.held = []) (h : arithFlags g ≠ 0) :
    surfaced g = some (arithCause (arithFlags g)) := by
  rw [surfaced, e]
  exact if_pos h

/-- The issuing fragment's hold ended, its group otherwise as it was. -/
def unheld (cx : Cx) : Group := { cx.g with frags := modNth cx.g.frags cx.ix fun f => { f with hold := .none } }

theorem surface_withGroup (s : State) {cx : Cx} (c : DWord) {o : Option HeldFault} (h : cx.g.held.head? = o) :
    surface (withGroup s cx (unheld cx)) cx.key c cx.f.pc cx.f.mask
      = deliverReq (withGroup s cx (unheld cx)) cx.key { cause := c, tspc := cx.f.pc, mask := cx.f.mask, drop := o } := by
  rw [surface, withGroup, grpOf_setGrp_same, ← h]
  rfl

/-- TFENCE whose wait is over delivers what there is to surface, and goes on where there is nothing. -/
theorem tfence_body (st : BitVec 2) {s : State} {cx : Cx} (c : Ready (.tfence st) s cx)
    (h : fenceDone cx.g (fenceMark cx s) = true) : exec (.tfence st) s = .next (done (.tfence st) s cx
      (match surfaced cx.g with
       | some c => surface (withGroup s cx (unheld cx)) cx.key c cx.f.pc cx.f.mask
       | none => withGroup s cx (advance 4 cx.ix (unheld cx)))) := by
  refine (issue_ok (fm := ctlForm st []) c ?_ : execTfence st s = _)
  simp only [h, Bool.not_true, Bool.false_eq_true, if_false]
  cases hs : surfaced cx.g with
  | some c => rfl
  | none => exact congrArg Res.ok (modGrp_withGroup s cx (unheld cx) _)

theorem rfenceEnd_eq {s : State} {cx : Cx} (hi : issuing s = some cx) : rfenceEnd s cx =
    match cx.g.held.find? fun h => h.remote with
    | some h => deliverReq (withGroup s cx (unheld cx)) cx.key
        { cause := h.cause ||| (1#64 <<< 63), tspc := cx.f.pc, mask := cx.f.mask, drop := some h }
    | none => withGroup s cx (wake (advance 4 cx.ix (unheld cx))) := by
  rw [rfenceEnd, modGrp_issuing hi]
  cases cx.g.held.find? fun h => h.remote with
  | some h => rfl
  | none => exact modGrp_withGroup s cx (unheld cx) _

theorem dropFirst_append {α : Type} [DecidableEq α] {x : α} {before after : List α} (h : x ∉ before) :
    dropFirst x (before ++ x :: after) = before ++ after := by
  induction before with
  | nil => simp [dropFirst]
  | cons y l ih =>
    rw [List.mem_cons, not_or] at h
    rw [List.cons_append, dropFirst, if_neg (Ne.symm h.1), ih h.2]
    rfl

theorem arithCause_fields (fl : Flg) :
    (arithCause fl).getLsbD 63 = true ∧ (arithCause fl).toNat % 256 = 0x07 := by
  revert fl
  decide

/-- Settles O25: each instruction by what it waits for; a fence whose wait is over by what there is to surface. -/
theorem waitResults : Obligations.WaitResults := by
  refine ⟨⟨fun st => ?nop, fun st => ?yield, fun st => ?sleep0, fun st n hn => ?sleep, fun st k => ?wait, fun st k => ?waits,
    fun st k c => ?mfence, fun st k c => ?mfences, fun st => ?tfence, fun st => ?tfences, fun st => ?rfence,
    fun st => ?rfences⟩, fun st s cx h l ready hdone hheld => ?tfenceHeld, fun st s cx ready hdone hheld hfl => ?tfenceFlags,
    fun st s cx before h after ready hdone hheld hnone hremote => ?rfenceHeld, fun g r entry before h after hr hg hb => ?enter⟩
  case nop => exact runsStill_goPast (fun s => (rfl : execNop st s = _)) (fun _ _ => rfl) fun _ _ _ _ => rfl
  case yield => exact runsStill_goPast (fun s => (rfl : execYield st s = _)) (fun _ _ => rfl) fun _ _ _ _ => rfl
  case sleep0 => exact runsStill_goPast (fun s => (rfl : execSleep st 0 s = _)) (fun _ _ => rfl) fun _ _ _ _ => rfl
  case sleep =>
    exact runsStill_group (fun s => (rfl : execSleep st n s = _)) (fun _ _ => rfl) fun _ _ _ _ => if_neg hn
  case wait =>
    exact runsStill_goPast (fun s => (rfl : execWait st k s = _)) (fun _ _ => rfl) fun _ _ _ h => if_pos h
  case waits =>
    exact runsStill_group (fun s => (rfl : execWait st k s = _)) (fun _ _ => rfl) fun _ _ _ h =>
      if_neg (Bool.eq_false_iff.mp h)
  case mfence =>
    refine runsStill_ok (fun s => (rfl : execMfence st k c s = _)) (fun _ _ => rfl) fun s cx _ h => ⟨if_pos h, ?_⟩
    exact still_trans (still_synchronise ..) (still_modGrp ..)
  case mfences =>
    exact runsStill_group (fun s => (rfl : execMfence st k c s = _)) (fun _ _ => rfl) fun _ _ _ h =>
      if_neg (Bool.eq_false_iff.mp h)
  case tfence =>
    intro s cx ready ⟨hdone, hnone⟩
    rw [tfence_body st ready hdone, hnone]
    exact ⟨rfl, still_trans (still_withGroup ..) (still_issued ..)⟩
  case tfences =>
    refine runsStill_group (fun s => (rfl : execTfence st s = _)) (fun _ _ => rfl) fun s cx _ h => ?_
    exact if_pos (by rw [h]; rfl)
  case rfence =>
    refine runsStill_ok (fun s => (rfl : execRfence st s = _)) (fun _ _ => rfl) fun s cx hi ⟨hdone, hnone⟩ => ⟨?_, still_withGroup ..⟩
    refine (if_pos hdone).trans (congrArg Res.ok ?_)
    have hfind : (cx.g.held.find? fun h => h.remote) = none :=
      List.find?_eq_none.mpr fun x hx => by simpa using List.all_eq_true.mp hnone x hx
    rw [rfenceEnd_eq hi, hfind]
    rfl
  case rfences =>
    exact runsStill_group (fun s => (rfl : execRfence st s = _)) (fun _ _ => rfl) fun _ _ _ h =>
      if_neg (Bool.eq_false_iff.mp h)
  case tfenceHeld =>
    rw [tfence_body st ready hdone, surfaced_held hheld]
    exact congrArg (fun e => Host.Outcome.next (done (.tfence st) s cx e))
      (surface_withGroup s _ (by rw [hheld, List.head?_cons]))
  case tfenceFlags =>
    refine ⟨_, ?_, rfl, (arithCause_fields _).1, (arithCause_fields _).2⟩
    rw [tfence_body st ready hdone, surfaced_flags hheld hfl]
    exact congrArg (fun e => Host.Outcome.next (done (.tfence st) s cx e))
      (surface_withGroup s _ (by rw [hheld, List.head?_nil]))
  case rfenceHeld =>
    have hfind : (cx.g.held.find? fun h => h.remote) = some h := by
      rw [hheld, List.find?_append, List.find?_eq_none.mpr fun x hx => by simp [hnone x hx], List.find?_cons_of_pos hremote]
      rfl
    refine (issue_ok (fm := ctlForm st []) ready ?_ : execRfence st s = _)
    refine (if_pos hdone).trans (congrArg Res.ok ?_)
    rw [rfenceEnd_eq ready.issuer, hfind]
    rfl
  case enter =>
    refine ⟨?_, rfl, rfl⟩
    rw [enterHandler, hr, hg]
    exact dropFirst_append hb

end Sys2Proof.Proofs

/-! PROOFS. The fragments of a group after a change: merged, and the lowest PCs resident (R186, R188, R189). -/

namespace Sys2Proof.Proofs

open Sys2Proof Sys2Proof.Machine Sys2Proof.Laws

/-! ## Merging -/

/-- The lanes of a list of fragments, on top of m. -/
def lanesOnto (m : Mask) (l : List Frag) : Mask := l.foldl (fun m f => m ||| f.mask) m

theorem lanesOnto_or (m k : Mask) (l : List Frag) : lanesOnto (m ||| k) l = lanesOnto m l ||| k := by
  induction l generalizing m with
  | nil => rfl
  | cons f l ih =>
    have h : m ||| k ||| f.mask = m ||| f.mask ||| k := by
      rw [BitVec.or_assoc, BitVec.or_comm k, ← BitVec.or_assoc]
    exact (congrArg (lanesOnto · l) h).trans (ih (m ||| f.mask))

theorem lanesOnto_mergeInto (m : Mask) (b : Frag) (l : List Frag) :
    lanesOnto m (mergeInto b l) = lanesOnto m l ||| b.mask := by
  induction l generalizing m with
  | nil => rfl
  | cons a l ih =>
    rw [mergeInto]
    split
    · refine Eq.trans ?_ (lanesOnto_or (m ||| a.mask) b.mask l)
      exact congrArg (lanesOnto · l) (BitVec.or_assoc ..).symm
    · exact ih (m ||| a.mask)

theorem mergeable_hold {a b : Frag} (h : mergeable a b = true) : a.hold = .none ∧ b.hold = .none := by
  simp only [mergeable, Bool.and_eq_true, decide_eq_true_eq] at h
  exact ⟨h.1.1.1.1.2, h.1.1.1.2⟩

theorem not_pinnedSlot_of_hold {f : Frag} (hm : Bool) (h : f.hold = .none) : pinnedSlot hm f = false := by
  simp [pinnedSlot, h]

theorem pinned_mergeInto (hm : Bool) (b : Frag) (l : List Frag) :
    ((mergeInto b l).filter (pinnedSlot hm)).length = (l.filter (pinnedSlot hm)).length
      + ([b].filter (pinnedSlot hm)).length := by
  induction l with
  | nil => simp [mergeInto]
  | cons a l ih =>
    rw [mergeInto]
    split
    · rename_i h
      obtain ⟨ha, hb⟩ := mergeable_hold h
      rw [List.filter_cons_of_neg, List.filter_cons_of_neg, List.filter_cons_of_neg] <;>
        simp [not_pinnedSlot_of_hold, ha, hb]
    · rw [List.filter_cons, List.filter_cons]
      split
      · simp only [List.length_cons, ih]
        omega
      · exact ih

/-- A fragment of a merged list merges with no fragment that neither b nor the list's fragments merge with. -/
theorem mergeable_of_mem_mergeInto {x b : Frag} {l : List Frag} (h : x ∈ mergeInto b l) :
    ∃ y ∈ b :: l, ∀ z, mergeable z x = mergeable z y := by
  induction l with
  | nil =>
    obtain rfl := List.mem_singleton.mp h
    exact ⟨x, List.mem_singleton.mpr rfl, fun _ => rfl⟩
  | cons a l ih =>
    rw [mergeInto] at h
    split at h
    · obtain rfl | h := List.mem_cons.mp h
      · exact ⟨a, by simp, fun _ => rfl⟩
      · exact ⟨x, by simp [h], fun _ => rfl⟩
    · obtain rfl | h := List.mem_cons.mp h
      · exact ⟨x, by simp, fun _ => rfl⟩
      · obtain ⟨y, hy, hz⟩ := ih h
        refine ⟨y, ?_, hz⟩
        obtain rfl | hy := List.mem_cons.mp hy <;> simp [*]

/-- No two fragments that could merge are left. -/
def Unmergeable (l : List Frag) : Prop := l.Pairwise fun a b => mergeable a b = false

theorem unmergeable_mergeInto {b : Frag} {l : List Frag} (h : Unmergeable l) : Unmergeable (mergeInto b l) := by
  induction l with
  | nil => exact List.pairwise_singleton ..
  | cons a l ih =>
    obtain ⟨ha, hl⟩ := List.pairwise_cons.mp h
    rw [mergeInto]
    split
    · exact List.pairwise_cons.mpr ⟨fun x hx => ha x hx, hl⟩
    · refine List.pairwise_cons.mpr ⟨fun x hx => ?_, ih hl⟩
      obtain ⟨y, hy, hz⟩ := mergeable_of_mem_mergeInto hx
      rw [hz]
      obtain rfl | hy := List.mem_cons.mp hy
      · exact Bool.eq_false_iff.mpr ‹_›
      · exact ha y hy

theorem mergeAll_onto (l acc : List Frag) (h : Unmergeable acc) :
    let r := l.foldl (fun acc b => mergeInto b acc) acc
    Unmergeable r ∧ lanesOnto 0 r = lanesOnto (lanesOnto 0 acc) l
      ∧ ∀ hm, (r.filter (pinnedSlot hm)).length
        = (acc.filter (pinnedSlot hm)).length + (l.filter (pinnedSlot hm)).length := by
  induction l generalizing acc with
  | nil => exact ⟨h, rfl, fun _ => rfl⟩
  | cons b l ih =>
    obtain ⟨hu, hlanes, hpinned⟩ := ih (mergeInto b acc) (unmergeable_mergeInto h)
    refine ⟨hu, hlanes.trans ?_, fun hm => (hpinned hm).trans ?_⟩
    · rw [lanesOnto_mergeInto]
      rfl
    · rw [pinned_mergeInto, Nat.add_assoc, ← List.length_append, ← List.filter_append, List.singleton_append]

theorem mergeAll_spec (l : List Frag) : Unmergeable (mergeAll l) ∧ lanesOnto 0 (mergeAll l) = lanesOnto 0 l
    ∧ ∀ hm, ((mergeAll l).filter (pinnedSlot hm)).length = (l.filter (pinnedSlot hm)).length := by
  obtain ⟨hu, hlanes, hpinned⟩ := mergeAll_onto l [] List.Pairwise.nil
  exact ⟨hu, hlanes, fun hm => (hpinned hm).trans (Nat.zero_add _)⟩

/-! ## Ranks: the fragments that may be resident, by PC and place -/

/-- A fragment that may be resident and holds no slot by its hold. -/
def candidate (hm : Bool) (p : Frag × Nat) : Bool := mayReside hm p.1 && !pinnedSlot hm p.1

/-- It comes before in PC, or at the same PC in place. -/
def precedes (p q : Frag × Nat) : Bool := p.1.pc.toNat < q.1.pc.toNat || (p.1.pc = q.1.pc && p.2 < q.2)

theorem precedes_trans {p q r : Frag × Nat} (h : precedes p q = true) (k : precedes q r = true) : precedes p r = true := by
  simp only [precedes, Bool.or_eq_true, Bool.and_eq_true, decide_eq_true_eq] at *
  grind

theorem not_precedes_self (p : Frag × Nat) : precedes p p = false := by simp [precedes]

theorem precedes_total {p q : Frag × Nat} (h : p.2 ≠ q.2) : precedes p q = true ∨ precedes q p = true := by
  simp only [precedes, Bool.or_eq_true, Bool.and_eq_true, decide_eq_true_eq, BitVec.toNat_eq]
  omega

theorem rankOf_eq (hm : Bool) (l : List Frag) (p : Frag × Nat) :
    rankOf hm l p.2 p.1 = (l.zipIdx.filter fun q => candidate hm q && precedes q p).length := rfl

theorem nodup_zipIdx {α : Type} (l : List α) : l.zipIdx.Nodup :=
  List.Nodup.of_map Prod.snd (by rw [List.zipIdx_map_snd]; exact List.nodup_range' ..)

/-- One that precedes another has the lower rank. -/
theorem rankOf_lt {hm : Bool} {l : List Frag} {p q : Frag × Nat} (hp : p ∈ l.zipIdx) (hc : candidate hm p = true)
    (h : precedes p q = true) : rankOf hm l p.2 p.1 < rankOf hm l q.2 q.1 := by
  rw [rankOf_eq, rankOf_eq]
  have hnodup : (p :: l.zipIdx.filter fun r => candidate hm r && precedes r p).Nodup := by
    refine List.nodup_cons.mpr ⟨fun hmem => ?_, (nodup_zipIdx l).filter _⟩
    have := (List.mem_filter.mp hmem).2
    rw [not_precedes_self, Bool.and_false] at this
    exact Bool.noConfusion this
  refine (List.subperm_of_subset hnodup fun r hr => ?_).length_le
  obtain rfl | hr := List.mem_cons.mp hr
  · exact List.mem_filter.mpr ⟨hp, by rw [hc, h]; rfl⟩
  · obtain ⟨hmem, hboth⟩ := List.mem_filter.mp hr
    obtain ⟨hcr, hrp⟩ := (Bool.and_eq_true ..).mp hboth
    exact List.mem_filter.mpr ⟨hmem, by rw [hcr, precedes_trans hrp h]; rfl⟩

/-- At most n of them have a rank below n. -/
theorem candidates_below (hm : Bool) (l : List Frag) (n : Nat) :
    (l.zipIdx.filter fun p => candidate hm p && decide (rankOf hm l p.2 p.1 < n)).length ≤ n := by
  have hnodup : ((l.zipIdx.filter fun p => candidate hm p && decide (rankOf hm l p.2 p.1 < n)).map
      fun p => rankOf hm l p.2 p.1).Nodup := by
    refine List.Nodup.map_on (fun p hp q hq he => ?_) ((nodup_zipIdx l).filter _)
    obtain ⟨hpl, hp⟩ := List.mem_filter.mp hp
    obtain ⟨hql, hq⟩ := List.mem_filter.mp hq
    by_contra hne
    have hidx : p.2 ≠ q.2 := fun hi => hne (Prod.ext (by
      have hp1 := List.mem_zipIdx' hpl
      have hq1 := List.mem_zipIdx' hql
      rw [hp1.2, hq1.2]
      simp only [hi]) hi)
    obtain h | h := precedes_total hidx
    · exact absurd he (rankOf_lt hpl ((Bool.and_eq_true ..).mp hp).1 h).ne
    · exact absurd he (rankOf_lt hql ((Bool.and_eq_true ..).mp hq).1 h).ne'
  have hsub := (List.subperm_of_subset hnodup (l₂ := List.range n) fun r hr => ?_).length_le
  · simpa using hsub
  · obtain ⟨p, hp, rfl⟩ := List.mem_map.mp hr
    exact List.mem_range.mpr (of_decide_eq_true ((Bool.and_eq_true ..).mp (List.mem_filter.mp hp).2).2)

/-! ## Seating -/

/-- One fragment seated: the slots taken and the fragments seated before it. -/
def seatStep (acc : List Nat × List Frag) (p : Frag × Bool) : List Nat × List Frag :=
  if !p.2 then (acc.1, acc.2 ++ [{ p.1 with slot := 2 }])
  else if p.1.slot < 2 then (acc.1, acc.2 ++ [p.1])
  else
    let k := if acc.1.contains 0 then 1 else 0
    (k :: acc.1, acc.2 ++ [{ p.1 with slot := k }])

/-- A fragment as seating leaves it: resident exactly where it was chosen, in the slot it held. -/
def Seated (p : Frag × Bool) (f : Frag) : Prop :=
  ∃ k, f = { p.1 with slot := k } ∧ (k < 2 ↔ p.2 = true) ∧ (p.2 = true → p.1.slot < 2 → k = p.1.slot)

theorem seatStep_eq (acc : List Nat × List Frag) (p : Frag × Bool) :
    ∃ ks f, seatStep acc p = (ks, acc.2 ++ [f]) ∧ Seated p f := by
  rw [seatStep]
  split
  · exact ⟨_, _, rfl, 2, rfl, by simp_all, by simp_all⟩
  · have hp : p.2 = true := by simp_all
    split
    · exact ⟨_, _, rfl, p.1.slot, rfl, by simp_all, fun _ _ => rfl⟩
    · refine ⟨_, _, rfl, _, rfl, iff_of_true ?_ hp, fun _ h => absurd h ‹_›⟩
      split <;> decide

theorem seated_foldl (l : List (Frag × Bool)) (acc : List Nat × List Frag) :
    ∃ r, (l.foldl seatStep acc).2 = acc.2 ++ r ∧ List.Forall₂ Seated l r := by
  induction l generalizing acc with
  | nil => exact ⟨[], by simp, .nil⟩
  | cons p l ih =>
    obtain ⟨ks, f, hstep, hseat⟩ := seatStep_eq acc p
    obtain ⟨r, hr, hall⟩ := ih (seatStep acc p)
    exact ⟨f :: r, by rw [List.foldl_cons, hr, hstep]; simp, .cons hseat hall⟩

/-- The fragments, each with whether it is chosen to be resident. -/
def marks (hm : Bool) (l : List Frag) : List (Frag × Bool) := l.zipIdx.map fun p => (p.1, chosen hm l p.2 p.1)

theorem seatAll_seated (hm : Bool) (l : List Frag) : List.Forall₂ Seated (marks hm l) (seatAll hm l) := by
  obtain ⟨r, hr, hall⟩ := seated_foldl (marks hm l)
    (((marks hm l).filter fun p => p.2 && p.1.slot < 2).map fun p => p.1.slot, [])
  have h : seatAll hm l = r := hr.trans (List.nil_append r)
  exact h ▸ hall

/-- A fragment but for its slot. -/
def unseated (f : Frag) : Frag := { f with slot := 0 }

theorem Seated.unseated {p : Frag × Bool} {f : Frag} (h : Seated p f) : unseated f = unseated p.1 := by
  obtain ⟨k, rfl, -⟩ := h
  rfl

theorem map_unseated_seatAll (hm : Bool) (l : List Frag) : (seatAll hm l).map unseated = l.map unseated := by
  have h : ∀ {ps : List (Frag × Bool)} {r : List Frag}, List.Forall₂ Seated ps r → r.map unseated = ps.map fun p => unseated p.1 := by
    intro ps r hall
    induction hall with
    | nil => rfl
    | cons hp _ ih => rw [List.map_cons, List.map_cons, hp.unseated, ih]
  rw [h (seatAll_seated hm l), marks, List.map_map]
  exact (List.map_map (f := Prod.fst) (g := unseated) (l := l.zipIdx)).symm.trans (by rw [List.zipIdx_map_fst])

theorem lanesOnto_seatAll (hm : Bool) (m : Mask) (l : List Frag) : lanesOnto m (seatAll hm l) = lanesOnto m l := by
  have h (l : List Frag) : lanesOnto m l = lanesOnto m (l.map unseated) := by
    rw [lanesOnto, lanesOnto, List.foldl_map]
    rfl
  rw [h, map_unseated_seatAll, ← h]

theorem unmergeable_seatAll {hm : Bool} {l : List Frag} (h : Unmergeable l) : Unmergeable (seatAll hm l) := by
  have hu (l : List Frag) : Unmergeable l ↔ Unmergeable (l.map unseated) := by
    rw [Unmergeable, Unmergeable, List.pairwise_map]
    rfl
  rw [hu, map_unseated_seatAll, ← hu]
  exact h

/-- As many fragments are resident as are chosen. -/
theorem resident_seatAll (hm : Bool) (l : List Frag) :
    ((seatAll hm l).filter fun f => f.slot < 2).length = ((marks hm l).filter fun p => p.2).length := by
  have hall := seatAll_seated hm l
  generalize marks hm l = ps at hall ⊢
  generalize seatAll hm l = r at hall ⊢
  induction hall with
  | nil => rfl
  | cons hp _ ih =>
    obtain ⟨k, rfl, hk, -⟩ := hp
    rw [List.filter_cons, List.filter_cons]
    simp only [decide_eq_true_eq, hk]
    split
    · rw [List.length_cons, List.length_cons, ih]
    · exact ih

theorem mem_seatAll {hm : Bool} {l : List Frag} {f : Frag} (h : f ∈ seatAll hm l) :
    ∃ p ∈ l.zipIdx, Seated (p.1, chosen hm l p.2 p.1) f := by
  have hmem : ∀ {ps : List (Frag × Bool)} {r : List Frag}, List.Forall₂ Seated ps r → ∀ f ∈ r, ∃ p ∈ ps, Seated p f := by
    intro ps r hall
    induction hall with
    | nil => simp
    | cons hp _ ih =>
      intro f hf
      obtain rfl | hf := List.mem_cons.mp hf
      · exact ⟨_, List.mem_cons_self .., hp⟩
      · obtain ⟨p, hp, hs⟩ := ih f hf
        exact ⟨p, List.mem_cons_of_mem _ hp, hs⟩
  obtain ⟨p, hp, hs⟩ := hmem (seatAll_seated hm l) f h
  obtain ⟨q, hq, rfl⟩ := List.mem_map.mp hp
  exact ⟨q, hq, hs⟩

theorem chosen_eq (hm : Bool) (l : List Frag) (p : Frag × Nat) : chosen hm l p.2 p.1 =
    (pinnedSlot hm p.1 || (candidate hm p && decide (rankOf hm l p.2 p.1 < 2 - (l.filter (pinnedSlot hm)).length))) := by
  have h : (rankOf hm l p.2 p.1 + (l.filter (pinnedSlot hm)).length < 2)
      = (rankOf hm l p.2 p.1 < 2 - (l.filter (pinnedSlot hm)).length) := by
    rw [Nat.lt_sub_iff_add_lt]
  rw [chosen, candidate]
  simp only [h]
  cases pinnedSlot hm p.1 <;> simp

theorem filter_or_length {α : Type} (l : List α) (p q : α → Bool) :
    (l.filter fun x => p x || q x).length ≤ (l.filter p).length + (l.filter q).length := by
  induction l with
  | nil => simp
  | cons x l ih =>
    simp only [List.filter_cons]
    cases p x <;> cases q x <;> simp <;> omega

theorem chosen_le_two {hm : Bool} {l : List Frag} (h : (l.filter (pinnedSlot hm)).length ≤ 2) :
    ((marks hm l).filter fun p => p.2).length ≤ 2 := by
  rw [marks, List.filter_map, List.length_map]
  have hpinned : (l.zipIdx.filter fun p => pinnedSlot hm p.1).length = (l.filter (pinnedSlot hm)).length := by
    conv_rhs => rw [← List.zipIdx_map_fst 0 l, List.filter_map, List.length_map]
    rfl
  have hsplit := filter_or_length l.zipIdx (fun p => pinnedSlot hm p.1)
    (fun p => candidate hm p && decide (rankOf hm l p.2 p.1 < 2 - (l.filter (pinnedSlot hm)).length))
  have hranks := candidates_below hm l (2 - (l.filter (pinnedSlot hm)).length)
  simp only [← chosen_eq] at hsplit
  exact hsplit.trans (by omega)

/-- A fragment that is resident, but not by its hold, is a candidate of a low rank. -/
theorem seated_resident {hm : Bool} {l : List Frag} {p : Frag × Nat} {f : Frag}
    (h : Seated (p.1, chosen hm l p.2 p.1) f) (hslot : f.slot < 2) (hpin : pinnedSlot hm f = false) :
    candidate hm p = true ∧ rankOf hm l p.2 p.1 < 2 - (l.filter (pinnedSlot hm)).length := by
  obtain ⟨k, rfl, hk, hkept⟩ := h
  have hchosen := hk.mp hslot
  simp only [chosen_eq, Bool.or_eq_true, Bool.and_eq_true, decide_eq_true_eq] at hchosen
  obtain hp | hp := hchosen
  · have hlow : p.1.slot < 2 := by
      simp only [pinnedSlot, Bool.and_eq_true, decide_eq_true_eq] at hp
      exact hp.1
    have hsame : k = p.1.slot := hkept (hk.mp hslot) hlow
    subst hsame
    exact absurd hp (Bool.eq_false_iff.mp hpin)
  · exact hp

theorem candidate_mayReside {hm : Bool} {p : Frag × Nat} (h : candidate hm p = true) : mayReside hm p.1 = true :=
  ((Bool.and_eq_true ..).mp h).1

theorem seated_waiting {hm : Bool} {l : List Frag} {p : Frag × Nat} {f : Frag}
    (h : Seated (p.1, chosen hm l p.2 p.1) f) (hslot : 2 ≤ f.slot) (hmay : mayReside hm f = true) :
    candidate hm p = true ∧ ¬ rankOf hm l p.2 p.1 < 2 - (l.filter (pinnedSlot hm)).length := by
  obtain ⟨k, rfl, hk, -⟩ := h
  have hchosen : ¬ chosen hm l p.2 p.1 = true := fun hc => absurd (hk.mpr hc) (Nat.not_lt.mpr hslot)
  simp only [chosen_eq, Bool.or_eq_true, Bool.and_eq_true, decide_eq_true_eq, not_or, not_and] at hchosen
  have hcand : candidate hm p = true := by
    rw [candidate, Bool.eq_false_iff.mpr hchosen.1]
    simpa [mayReside] using hmay
  exact ⟨hcand, hchosen.2 hcand⟩

/-- Settles O24: merging and seating each keep the lanes, merging leaves no two that could merge, and seating gives the
slots that no hold keeps to the candidates of the lowest ranks. -/
theorem fragmentsSettle : Obligations.FragmentsSettle := by
  intro g hpinned
  obtain ⟨hunmerge, hlanes, hcount⟩ := mergeAll_spec g.frags
  have htwo : ((mergeAll g.frags).filter (pinnedSlot g.hmode)).length ≤ 2 := (hcount g.hmode).trans_le hpinned
  refine ⟨(lanesOnto_seatAll ..).trans hlanes, unmergeable_seatAll hunmerge,
    (resident_seatAll ..).trans_le (chosen_le_two htwo), fun f hf hslot hpin => ?_, fun a ha b hb haslot hapin hbslot hbmay => ?_⟩
  · obtain ⟨p, -, hseat⟩ := mem_seatAll hf
    have hmay := candidate_mayReside (seated_resident hseat hslot hpin).1
    obtain ⟨k, rfl, -⟩ := hseat
    exact hmay
  · obtain ⟨p, hp, hpa⟩ := mem_seatAll ha
    obtain ⟨q, hq, hqb⟩ := mem_seatAll hb
    obtain ⟨-, hlow⟩ := seated_resident hpa haslot hapin
    obtain ⟨hcq, hhigh⟩ := seated_waiting hqb hbslot hbmay
    obtain ⟨k, rfl, -⟩ := hpa
    obtain ⟨j, rfl, -⟩ := hqb
    by_contra hlt
    have hprec : precedes q p = true := by simp [precedes, Nat.not_le.mp hlt]
    exact hhigh ((rankOf_lt hq hcq hprec).trans hlow)

end Sys2Proof.Proofs

/-! PROOFS. Traps: the entry to the handler, TRET and EXIT (R196, R322 to R326). -/

namespace Sys2Proof.Proofs

open Sys2Proof Sys2Proof.Machine Sys2Proof.Laws

/-! ## Where the lanes of a settled group stand -/

/-- Two fragments stand at one PC, both of the handler or both not, with the same hold. -/
structure Alike (a b : Frag) : Prop where
  pc : a.pc = b.pc
  handler : a.handler = b.handler
  hold : a.hold = b.hold

theorem Alike.refl (a : Frag) : Alike a a := ⟨rfl, rfl, rfl⟩

theorem Alike.symm {a b : Frag} (h : Alike a b) : Alike b a := ⟨h.pc.symm, h.handler.symm, h.hold.symm⟩

theorem Alike.trans {a b c : Frag} (h : Alike a b) (k : Alike b c) : Alike a c :=
  ⟨h.pc.trans k.pc, h.handler.trans k.handler, h.hold.trans k.hold⟩

theorem alike_of_mergeable {a b : Frag} (h : mergeable a b = true) : Alike a b := by
  obtain ⟨ha, hb⟩ := mergeable_hold h
  simp only [mergeable, Bool.and_eq_true, decide_eq_true_eq] at h
  exact ⟨h.1.1.1.1.1.1.1, h.2, ha.trans hb.symm⟩

/-- Every lane of a fragment of l is a lane of one alike of r. -/
def Holdable (l r : List Frag) : Prop :=
  ∀ f ∈ l, ∀ k, inMask f.mask k = true → ∃ x ∈ r, inMask x.mask k = true ∧ Alike x f

theorem Holdable.trans {l r q : List Frag} (h : Holdable l r) (k : Holdable r q) : Holdable l q := by
  intro f hf n hn
  obtain ⟨x, hx, hxn, hxf⟩ := h f hf n hn
  obtain ⟨y, hy, hyn, hyx⟩ := k x hx n hxn
  exact ⟨y, hy, hyn, hyx.trans hxf⟩

theorem Holdable.of_subset {l r : List Frag} (h : ∀ f ∈ l, f ∈ r) : Holdable l r := fun f hf _ hk => ⟨f, h f hf, hk, Alike.refl _⟩

theorem holdable_mergeInto (b : Frag) (l : List Frag) :
    Holdable (b :: l) (mergeInto b l) ∧ Holdable (mergeInto b l) (b :: l) := by
  induction l with
  | nil => exact ⟨Holdable.of_subset fun _ h => h, Holdable.of_subset fun _ h => h⟩
  | cons a l ih =>
    rw [mergeInto]
    split
    · rename_i h
      have hab := alike_of_mergeable h
      constructor
      · intro f hf k hk
        obtain rfl | rfl | hf := by simpa using hf
        · exact ⟨_, List.mem_cons_self .., by simp [hk], hab.pc, hab.handler, hab.hold⟩
        · exact ⟨_, List.mem_cons_self .., by simp [hk], rfl, rfl, rfl⟩
        · exact ⟨f, List.mem_cons_of_mem _ hf, hk, Alike.refl _⟩
      · intro f hf k hk
        obtain rfl | hf := List.mem_cons.mp hf
        · obtain hk | hk := by simpa using hk
          · exact ⟨a, by simp, hk, rfl, rfl, rfl⟩
          · exact ⟨b, by simp, hk, hab.symm.pc, hab.symm.handler, hab.symm.hold⟩
        · exact ⟨f, by simp [hf], hk, Alike.refl _⟩
    · constructor
      · intro f hf k hk
        obtain rfl | rfl | hf := by simpa using hf
        · obtain ⟨x, hx, hkx⟩ := ih.1 f (List.mem_cons_self ..) k hk
          exact ⟨x, List.mem_cons_of_mem _ hx, hkx⟩
        · exact ⟨f, List.mem_cons_self .., hk, Alike.refl _⟩
        · obtain ⟨x, hx, hkx⟩ := ih.1 f (List.mem_cons_of_mem _ hf) k hk
          exact ⟨x, List.mem_cons_of_mem _ hx, hkx⟩
      · intro f hf k hk
        obtain rfl | hf := List.mem_cons.mp hf
        · exact ⟨f, by simp, hk, Alike.refl _⟩
        · obtain ⟨x, hx, hkx⟩ := ih.2 f hf k hk
          refine ⟨x, ?_, hkx⟩
          obtain rfl | hx := List.mem_cons.mp hx <;> simp [*]

theorem holdable_mergeAll_onto (l acc : List Frag) :
    let r := l.foldl (fun acc b => mergeInto b acc) acc
    Holdable (acc ++ l) r ∧ Holdable r (acc ++ l) := by
  induction l generalizing acc with
  | nil => exact ⟨Holdable.of_subset fun _ h => by simpa using h, Holdable.of_subset fun _ h => by simpa using h⟩
  | cons b l ih =>
    obtain ⟨hto, hfrom⟩ := ih (mergeInto b acc)
    obtain ⟨mto, mfrom⟩ := holdable_mergeInto b acc
    constructor
    · refine Holdable.trans (fun f hf k hk => ?_) hto
      obtain hf | rfl | hf := by simpa using hf
      · obtain ⟨x, hx, hkx⟩ := mto f (List.mem_cons_of_mem _ hf) k hk
        exact ⟨x, List.mem_append_left _ hx, hkx⟩
      · obtain ⟨x, hx, hkx⟩ := mto f (List.mem_cons_self ..) k hk
        exact ⟨x, List.mem_append_left _ hx, hkx⟩
      · exact ⟨f, List.mem_append_right _ hf, hk, Alike.refl _⟩
    · refine Holdable.trans hfrom fun f hf k hk => ?_
      obtain hf | hf := List.mem_append.mp hf
      · obtain ⟨x, hx, hkx⟩ := mfrom f hf k hk
        exact ⟨x, by rw [List.mem_append]; obtain rfl | hx := List.mem_cons.mp hx <;> simp [*], hkx⟩
      · exact ⟨f, by simp [hf], hk, Alike.refl _⟩

theorem same_of_unseated {x f : Frag} (h : unseated x = unseated f) : x.mask = f.mask ∧ Alike x f :=
  ⟨(congrArg Frag.mask h :), (congrArg Frag.pc h :), (congrArg Frag.handler h :), (congrArg Frag.hold h :)⟩

theorem holdable_seatAll (hm : Bool) (l : List Frag) : Holdable l (seatAll hm l) ∧ Holdable (seatAll hm l) l := by
  have h {q r : List Frag} (e : q.map unseated = r.map unseated) : Holdable q r := by
    intro f hf k hk
    have hmem : unseated f ∈ r.map unseated := e ▸ List.mem_map_of_mem hf
    obtain ⟨x, hx, hxf⟩ := List.mem_map.mp hmem
    obtain ⟨hmask, halike⟩ := same_of_unseated hxf
    exact ⟨x, hx, hmask ▸ hk, halike⟩
  exact ⟨h (map_unseated_seatAll hm l).symm, h (map_unseated_seatAll hm l)⟩

theorem settle_frags (g : Group) : (settle g).frags = seatAll g.hmode (mergeAll g.frags) := rfl

/-- Settling moves no lane to another PC, nor in or out of the handler. -/
theorem holdable_settle (g : Group) : Holdable g.frags (settle g).frags ∧ Holdable (settle g).frags g.frags := by
  obtain ⟨mto, mfrom⟩ := holdable_mergeAll_onto g.frags []
  obtain ⟨sto, sfrom⟩ := holdable_seatAll g.hmode (mergeAll g.frags)
  exact ⟨mto.trans sto, sfrom.trans mfrom⟩

theorem liveLanes_settle (g : Group) : liveLanes (settle g) = liveLanes g :=
  (lanesOnto_seatAll ..).trans (mergeAll_spec g.frags).2.1

theorem handler_mergeInto {p : Bool} {b : Frag} {l : List Frag} (hb : b.handler = p) (hl : ∀ f ∈ l, f.handler = p) :
    ∀ f ∈ mergeInto b l, f.handler = p := by
  induction l with
  | nil => simpa [mergeInto] using hb
  | cons a l ih =>
    rw [mergeInto]
    split
    · intro f hf
      obtain rfl | hf := List.mem_cons.mp hf
      · exact hl a (List.mem_cons_self ..)
      · exact hl f (List.mem_cons_of_mem _ hf)
    · intro f hf
      obtain rfl | hf := List.mem_cons.mp hf
      · exact hl f (List.mem_cons_self ..)
      · exact ih (fun f hf => hl f (List.mem_cons_of_mem _ hf)) f hf

theorem handler_mergeAll {p : Bool} (l : List Frag) (h : ∀ f ∈ l, f.handler = p) : ∀ f ∈ mergeAll l, f.handler = p := by
  have hon : ∀ (l acc : List Frag), (∀ f ∈ l, f.handler = p) → (∀ f ∈ acc, f.handler = p) →
      ∀ f ∈ l.foldl (fun acc b => mergeInto b acc) acc, f.handler = p := by
    intro l
    induction l with
    | nil => exact fun _ _ h => h
    | cons b l ih =>
      exact fun acc hl hacc => ih _ (fun f hf => hl f (List.mem_cons_of_mem _ hf))
        (handler_mergeInto (hl b (List.mem_cons_self ..)) hacc)
  exact hon l [] h (by simp)

theorem mem_seatAll_unseated {hm : Bool} {l : List Frag} {f : Frag} (h : f ∈ seatAll hm l) :
    ∃ x ∈ l, unseated x = unseated f := by
  have hmem : unseated f ∈ l.map unseated := map_unseated_seatAll hm l ▸ List.mem_map_of_mem h
  exact List.mem_map.mp hmem

/-- Every fragment of a settled group is alike one that stood there. -/
theorem alike_mem_settle {g : Group} {f : Frag} (h : f ∈ (settle g).frags) : ∃ x ∈ g.frags, Alike x f := by
  have hinto : ∀ {b : Frag} {l : List Frag} {f : Frag}, f ∈ mergeInto b l → ∃ x ∈ b :: l, Alike x f := by
    intro b l
    induction l with
    | nil => exact fun hf => ⟨_, hf, Alike.refl _⟩
    | cons a l ih =>
      intro f hf
      rw [mergeInto] at hf
      split at hf
      · obtain rfl | hf := List.mem_cons.mp hf
        · exact ⟨a, by simp, ⟨rfl, rfl, rfl⟩⟩
        · exact ⟨f, by simp [hf], Alike.refl _⟩
      · obtain rfl | hf := List.mem_cons.mp hf
        · exact ⟨f, by simp, Alike.refl _⟩
        · obtain ⟨x, hx, hxf⟩ := ih hf
          refine ⟨x, ?_, hxf⟩
          obtain rfl | hx := List.mem_cons.mp hx <;> simp [*]
  have honto : ∀ (l acc : List Frag) {f : Frag}, f ∈ l.foldl (fun acc b => mergeInto b acc) acc → ∃ x ∈ acc ++ l, Alike x f := by
    intro l
    induction l with
    | nil => exact fun acc f hf => ⟨f, by simpa using hf, Alike.refl _⟩
    | cons b l ih =>
      intro acc f hf
      obtain ⟨x, hx, hxf⟩ := ih _ hf
      obtain hx | hx := List.mem_append.mp hx
      · obtain ⟨y, hy, hyx⟩ := hinto hx
        exact ⟨y, by rw [List.mem_append]; obtain rfl | hy := List.mem_cons.mp hy <;> simp [*], hyx.trans hxf⟩
      · exact ⟨x, by simp [hx], hxf⟩
  obtain ⟨x, hx, he⟩ := mem_seatAll_unseated h
  obtain ⟨y, hy, hyx⟩ := honto _ _ hx
  exact ⟨y, hy, hyx.trans (same_of_unseated he).2⟩

theorem handler_settle {p : Bool} {g : Group} (h : ∀ f ∈ g.frags, f.handler = p) : ∀ f ∈ (settle g).frags, f.handler = p := by
  intro f hf
  obtain ⟨x, hx, he⟩ := mem_seatAll_unseated hf
  exact (same_of_unseated he).2.handler.symm.trans (handler_mergeAll _ h x hx)

/-! ## The entry to the handler (R322) -/

theorem lanesOnto_append (m : Mask) (l r : List Frag) : lanesOnto m (l ++ r) = lanesOnto (lanesOnto m l) r :=
  List.foldl_append ..

theorem lanesOnto_withoutLanes (k : Mask) (l : List Frag) (m : Mask) :
    lanesOnto m (withoutLanes k l) ||| k = lanesOnto m l ||| k := by
  induction l generalizing m with
  | nil => rfl
  | cons f l ih =>
    have hcons : lanesOnto m (withoutLanes k (f :: l)) = lanesOnto (m ||| f.mask &&& ~~~k) (withoutLanes k l) := by
      by_cases h : f.mask &&& ~~~k = 0
      · simp [withoutLanes, h]
      · simp only [withoutLanes, List.map_cons]
        rw [List.filter_cons_of_pos (by simpa using h)]
        rfl
    rw [hcons, ih, lanesOnto_or]
    refine Eq.trans ?_ (congrArg (· ||| k) (lanesOnto_or m f.mask l).symm)
    ext n hn
    simp only [BitVec.getElem_or, BitVec.getElem_and, BitVec.getElem_not]
    cases (lanesOnto m l)[n] <;> cases f.mask[n] <;> cases k[n] <;> rfl

theorem withoutLanes_disjoint {k : Mask} {l : List Frag} {f : Frag} (h : f ∈ withoutLanes k l) : f.mask &&& k = 0 := by
  obtain ⟨hm, -⟩ := List.mem_filter.mp h
  obtain ⟨x, -, rfl⟩ := List.mem_map.mp hm
  ext n hn
  simp only [BitVec.getElem_and, BitVec.getElem_not]
  cases x.mask[n] <;> cases k[n] <;> simp

theorem handler_withoutLanes {p : Bool} {k : Mask} {l : List Frag} (h : ∀ f ∈ l, f.handler = p) :
    ∀ f ∈ withoutLanes k l, f.handler = p := by
  intro f hf
  obtain ⟨hm, -⟩ := List.mem_filter.mp hf
  obtain ⟨x, hx, rfl⟩ := List.mem_map.mp hm
  exact h x hx

/-- A fragment of the handler merges with none that is not. -/
theorem mergeInto_handler {b : Frag} {l : List Frag} (hb : b.handler = true) (hl : ∀ f ∈ l, f.handler = false) :
    mergeInto b l = l ++ [b] := by
  induction l with
  | nil => rfl
  | cons a l ih =>
    have ha : mergeable a b = false := by simp [mergeable, hb, hl a (List.mem_cons_self ..)]
    rw [mergeInto, ha, if_neg (by decide), ih fun f hf => hl f (List.mem_cons_of_mem _ hf)]
    rfl

theorem mergeAll_handler {b : Frag} {l : List Frag} (hb : b.handler = true) (hl : ∀ f ∈ l, f.handler = false) :
    mergeAll (l ++ [b]) = mergeAll l ++ [b] := by
  refine Eq.trans ?_ (mergeInto_handler hb (handler_mergeAll l hl))
  rw [mergeAll, List.foldl_append]
  rfl

/-- What a list's handler fragments are is seen through their masks and PCs. -/
theorem handlers_seatAll (hm : Bool) (l : List Frag) :
    ((seatAll hm l).filter fun f => f.handler).map (fun f => (f.mask, f.pc))
      = (l.filter fun f => f.handler).map fun f => (f.mask, f.pc) := by
  have h (l : List Frag) : (l.filter fun f => f.handler).map (fun f => (f.mask, f.pc))
      = ((l.map unseated).filter fun f => f.handler).map fun f => (f.mask, f.pc) := by
    rw [List.filter_map, List.map_map]
    rfl
  rw [h, map_unseated_seatAll, ← h]

theorem inMask_zero (k : Nat) : inMask 0 k = false := BitVec.getLsbD_zero

theorem inMask_disjoint {a b : Mask} : a &&& b = 0 ↔ ∀ k, inMask a k = true → inMask b k = false := by
  have h : a &&& b = 0 ↔ ∀ k, (inMask a k && inMask b k) = false :=
    ⟨fun h k => by rw [← inMask_and, h, inMask_zero], fun h => mask_ext fun k => by rw [inMask_and, h k, inMask_zero]⟩
  simp only [h, Bool.and_eq_false_imp]

/-- A fragment's feed wait ended. -/
def unfed (f : Frag) : Frag := { f with feedSince := none }

/-- The fragments before the handler's settle. -/
def enteredFrags (g : Group) (r : TrapReq) (entry : VAddr) : List Frag :=
  (withoutLanes r.mask g.frags).map unfed ++ [{ mask := r.mask, pc := entry, handler := true }]

theorem enterHandler_frags (g : Group) (r : TrapReq) (entry : VAddr) :
    (enterHandler g r entry).frags = seatAll true (mergeAll (enteredFrags g r entry)) := rfl

theorem lanesOnto_map_unfed (m : Mask) (l : List Frag) : lanesOnto m (l.map unfed) = lanesOnto m l := by
  rw [lanesOnto, List.foldl_map]
  rfl

theorem liveLanes_enterHandler (g : Group) (r : TrapReq) (entry : VAddr) :
    liveLanes (enterHandler g r entry) = liveLanes g ||| r.mask := by
  refine (lanesOnto_seatAll ..).trans ((mergeAll_spec _).2.1.trans ?_)
  change lanesOnto 0 (enteredFrags g r entry) = _
  rw [enteredFrags, lanesOnto_append, lanesOnto_map_unfed]
  exact lanesOnto_withoutLanes r.mask g.frags 0

theorem handlers_enterHandler {g : Group} (r : TrapReq) (entry : VAddr) (h : ∀ f ∈ g.frags, f.handler = false) :
    ((enterHandler g r entry).frags.filter fun f => f.handler).map (fun f => (f.mask, f.pc)) = [(r.mask, entry)] := by
  have hunfed : ∀ f ∈ (withoutLanes r.mask g.frags).map unfed, f.handler = false := by
    intro f hf
    obtain ⟨x, hx, rfl⟩ := List.mem_map.mp hf
    exact handler_withoutLanes h x hx
  rw [enterHandler_frags, handlers_seatAll, enteredFrags, mergeAll_handler rfl hunfed, List.filter_append,
    List.filter_eq_nil_iff.mpr fun f hf => by simp [handler_mergeAll _ hunfed f hf]]
  rfl

theorem disjoint_enterHandler {g : Group} (r : TrapReq) (entry : VAddr) {f : Frag}
    (hf : f ∈ (enterHandler g r entry).frags) (hh : f.handler = false) : f.mask &&& r.mask = 0 := by
  refine inMask_disjoint.mpr fun k hk => ?_
  obtain ⟨x, hx, hxk, hxf⟩ := (holdable_settle _).2 f hf k hk
  obtain hx | hx := List.mem_append.mp hx
  · obtain ⟨y, hy, rfl⟩ := List.mem_map.mp hx
    exact inMask_disjoint.mp (withoutLanes_disjoint hy) k hxk
  · obtain rfl := List.mem_singleton.mp hx
    exact nomatch (hxf.handler.trans hh : true = false)

/-! ## A context's end (R322 to R324) -/

theorem tblGet?_map {α β : Type} (l : Tbl α) (f : α → β) (k : Nat) :
    tblGet? (l.map fun p => (p.1, f p.2)) k = (tblGet? l k).map f := by
  induction l with
  | nil => rfl
  | cons p l ih =>
    rw [List.map_cons, tblGet?, tblGet?]
    split
    · rfl
    · exact ih

/-- A change of an island that leaves what g reads of it. -/
theorem islOf_modIsl_keeps {α : Type} {g : Island → α} {f : Island → Island} (h : ∀ x, g (f x) = g x) (s : State) (i j : Nat) :
    g (islOf (modIsl s i f) j) = g (islOf s j) := by
  by_cases hj : j = i
  · subst hj
    cases hx : tblGet? s.islands j with
    | none => rw [islOf_modIsl_absent s j j _ hx]
    | some x => rw [islOf_modIsl_same s j _ (by simp [hx])]; exact h _
  · rw [islOf_modIsl_other s _ hj]

theorem islOf_modMem_keeps {α : Type} {g : Island → α} (h : ∀ x m, g { x with mem := m } = g x) (s : State) (i j : Nat)
    (f : IslandMem → IslandMem) : g (islOf (modMem s i f) j) = g (islOf s j) :=
  islOf_modIsl_keeps (f := fun x => { x with mem := f x.mem }) (fun x => h x (f x.mem)) s i j

theorem terminateCtx_groups (s : State) (i c : Nat) :
    (terminateCtx s i c).groups = s.groups.filter fun p => !onPartition i c p.2 := by
  simp only [terminateCtx, terminateHere, noteSite, endWork, discardGroups, modMem_groups, modIsl_groups, modCtx_groups]

theorem terminateCtx_teams (s : State) (i c : Nat) :
    (terminateCtx s i c).teams = s.teams.filter fun p => !(p.2.island = i && p.2.ctx = c) := by
  simp only [terminateCtx, terminateHere, noteSite, endWork, discardGroups, modMem_teams, modIsl_teams, modCtx_teams]

theorem terminateCtx_propagate (s : State) (i c : Nat) : (terminateCtx s i c).propagate = s.propagate ++ [(c, i, none)] := by
  simp only [terminateCtx, terminateHere, noteSite, endWork, discardGroups, modMem_propagate, modIsl_propagate,
    modCtx_propagate]

theorem islOf_of_islands {s t : State} (h : t.islands = s.islands) (i : Nat) : islOf t i = islOf s i := by
  rw [islOf, islOf, h]

theorem ctxs_discardGroups (s : State) (i c j : Nat) : (islOf (discardGroups s i c) j).ctxs = (islOf s j).ctxs := by
  refine (congrArg Island.ctxs (islOf_of_islands (s := modMem s i fun m =>
    { m with engines := m.engines.map fun p => (p.1, ownTeam s i c p.2) }) rfl j)).trans ?_
  exact islOf_modMem_keeps (fun _ _ => rfl) ..

/-- An island's monitors once a context's are given up. -/
def monitorsReset (c : Nat) (x : Island) : Island :=
  { x with monitors := x.monitors.map fun p =>
      if p.2.src ≠ 0 && p.2.owner = c then (p.1, clearMonitor { p.2 with src := 0 }) else p }

/-- Before its end is entered, the context is where it was. -/
theorem ctxs_endWork (s : State) (i c j : Nat) : (islOf (endWork s i c) j).ctxs = (islOf s j).ctxs := by
  refine (congrArg Island.ctxs (islOf_of_islands (s := modIsl s i (monitorsReset c)) rfl j)).trans ?_
  exact islOf_modIsl_keeps (g := Island.ctxs) (f := monitorsReset c) (fun _ => rfl) s i j

/-- An island that has the context holds it as f makes it. -/
theorem ctxOf_modCtx_same (s : State) (i c : Nat) (f : Context → Context) (h : (tblGet? (islOf s i).ctxs c).isSome = true) :
    ctxOf (modCtx s i c f) i c = f (ctxOf s i c) := by
  have hi : (tblGet? s.islands i).isSome = true := by
    by_contra hnone
    have habsent : tblGet? s.islands i = none := by simpa using hnone
    have hdefault : (islOf s i).ctxs = [] := by rw [islOf, tblGet, habsent]; rfl
    rw [hdefault] at h
    exact Bool.noConfusion h
  obtain ⟨x, hx⟩ := Option.isSome_iff_exists.mp h
  rw [modCtx, ctxOf, islOf_modIsl_same s i _ hi, ctxOf, tblGet, tblGet, tblGet?_adj_same, hx]
  rfl

theorem ctxs_noteSite (s : State) (i j : Nat) : (islOf (noteSite s i) j).ctxs = (islOf s j).ctxs := rfl

theorem ctxs_busyEnds (s : State) (i c j : Nat) : (islOf (modIsl s i (busyEnds c)) j).ctxs = (islOf s j).ctxs :=
  islOf_modIsl_keeps (fun x => by rw [busyEnds]; split <;> rfl) ..

/-- The context as its end leaves it. -/
def ended (x : Context) : Context :=
  { x with state := .terminated, released := [], restoring := false, captured := false, unseated := false }

theorem ctxs_terminateHere (s : State) (i c j : Nat) : (islOf (terminateHere s i c) j).ctxs
    = (islOf (modCtx (endWork (discardGroups s i c) i c) i c ended) j).ctxs := by
  rw [terminateHere, ctxs_noteSite, islOf_modMem_keeps (g := Island.ctxs) fun _ _ => rfl, ctxs_busyEnds]
  rfl

theorem terminateCtx_state (s : State) (i c : Nat) (h : (tblGet? (islOf s i).ctxs c).isSome = true) :
    (ctxOf (terminateCtx s i c) i c).state = .terminated := by
  have hctx := ctxOf_modCtx_same (endWork (discardGroups s i c) i c) i c ended
    (by rw [ctxs_endWork, ctxs_discardGroups]; exact h)
  refine Eq.trans ?_ (congrArg Context.state hctx)
  exact congrArg (fun cs => (tblGet cs c).state) (ctxs_terminateHere s i c i)

theorem ctxs_enqueueRecord (s : State) (i j : Nat) (ws : List DWord) :
    (islOf (enqueueRecord s i ws) j).ctxs = (islOf s j).ctxs :=
  islOf_modMem_keeps (fun _ _ => rfl) ..

theorem enqueueRecord_propagate (s : State) (i : Nat) (ws : List DWord) : (enqueueRecord s i ws).propagate = s.propagate :=
  rfl

theorem escalated_effects (s : State) (i c : Nat) (ws : List DWord) :
    let t := terminateCtx (enqueueRecord s i ws) i c
    (∀ p ∈ t.groups, onPartition i c p.2 = false) ∧ (∀ p ∈ t.teams, ¬(p.2.island = i ∧ p.2.ctx = c))
      ∧ ((tblGet? (islOf s i).ctxs c).isSome = true → (ctxOf t i c).state = .terminated)
      ∧ t.propagate = s.propagate ++ [(c, i, none)] := by
  dsimp only
  rw [terminateCtx_groups, terminateCtx_teams, terminateCtx_propagate, enqueueRecord_propagate]
  refine ⟨fun p hp => ?_, fun p hp => ?_, fun h => terminateCtx_state _ i c (by rwa [ctxs_enqueueRecord]), rfl⟩
  · simpa using (List.mem_filter.mp hp).2
  · exact not_and_or.mpr (by simpa using (List.mem_filter.mp hp).2)

theorem deliver_escalates (s : State) (k : Nat) (cause : DWord) (pc : VAddr) (mask : Mask)
    (h : (grpOf s k).hmode = true ∨ ((grpOf s k).trapReq = none ∧ (grpOf s k).ident.handlerPc = none)) :
    deliver s k cause pc mask = terminateCtx (enqueueRecord s (grpOf s k).ident.island
      (escalationRecord (if (grpOf s k).hmode then 0 else 1) (grpOf s k).ident.slot (grpOf s k).ident.core
        (grpOf s k).ident.ctx cause (pcWord pc) mask (if (grpOf s k).hmode then (grpOf s k).special.tcause else 0)
        (if (grpOf s k).hmode then (grpOf s k).special.tspc else 0) 0)) (grpOf s k).ident.island (grpOf s k).ident.ctx := by
  cases hm : (grpOf s k).hmode with
  | true => simp [deliver, deliverReq, hm, escalate]
  | false =>
    obtain ⟨htrap, hpc⟩ := h.resolve_left (by simp [hm])
    simp [deliver, deliverReq, hm, htrap, hpc, escalate]

theorem deliver_enters {s : State} {k : Nat} {cause : DWord} {pc : VAddr} {mask : Mask} {entry : VAddr}
    (hm : (grpOf s k).hmode = false) (ht : (grpOf s k).trapReq = none) (hpc : (grpOf s k).ident.handlerPc = some entry)
    (hb : entryBlocked (grpOf s k) = false) : deliver s k cause pc mask
      = setGrp s k (enterHandler (grpOf s k) { cause := cause, tspc := pc, mask := mask } entry) := by
  simp [deliver, deliverReq, hm, ht, hpc, hb]

/-- Settles O28: the entry by `enterHandler`, a deferred fault by the request it leaves, an escalation by the end of the
context it comes to. -/
theorem trapEntry : Obligations.TrapEntry := by
  refine ⟨fun s k cause pc mask entry => ?enter, fun s k cause pc mask entry hm ht hpc hb => ?defer,
    fun s k cause pc mask hm ht => ?pending, fun s k cause pc mask h => ?escalate⟩
  case enter =>
    intro g _ hm ht hpc hb hh _ t h
    have ht' : t = setGrp s k (enterHandler g { cause := cause, tspc := pc, mask := mask } entry) := deliver_enters hm ht hpc hb
    have hg : h = enterHandler g { cause := cause, tspc := pc, mask := mask } entry :=
      (congrArg (grpOf · k) ht').trans (grpOf_setGrp_same ..)
    rw [hg, ht']
    refine ⟨rfl, rfl, rfl, rfl, rfl, rfl, rfl, rfl, handlers_enterHandler _ entry hh,
      fun f hf hfh => disjoint_enterHandler _ entry hf hfh, liveLanes_enterHandler .., ?_⟩
    exact still_withGroup s { key := k, ix := 0, g := g, f := {} } _
  case defer => simp [deliver, deliverReq, hm, ht, hpc, hb]
  case pending => simp [deliver, deliverReq, hm, ht]
  case escalate =>
    have he := deliver_escalates s k cause pc mask h
    refine ⟨he, ?_⟩
    rw [he]
    exact escalated_effects ..

/-! ## TRET (R326) -/

theorem lowerHandler_iff (cx : Cx) : lowerHandler cx = true ↔ ¬ Foremost cx := by
  simp only [lowerHandler, Foremost, List.any_eq_true, Bool.and_eq_true, decide_eq_true_eq]
  push Not
  rfl

theorem lowerHandler_of_foremost {cx : Cx} (h : Foremost cx) : lowerHandler cx = false :=
  Bool.eq_false_iff.mpr fun hl => (lowerHandler_iff cx).mp hl h

theorem and_six (x : DWord) : x &&& 6 = 0 ↔ x.getLsbD 1 = false ∧ x.getLsbD 2 = false := by
  constructor
  · intro h
    constructor
    · have := congrArg (·.getLsbD 1) h
      simpa [BitVec.getLsbD_and] using this
    · have := congrArg (·.getLsbD 2) h
      simpa [BitVec.getLsbD_and] using this
  · rintro ⟨h1, h2⟩
    refine BitVec.eq_of_getLsbD_eq fun k _ => ?_
    have h0 : (0 : DWord).getLsbD k = false := BitVec.getLsbD_zero
    rw [BitVec.getLsbD_and, h0]
    have h6 : (6 : DWord).getLsbD k = (decide (k = 1) || decide (k = 2)) := by
      have : k < 64 := ‹_›
      interval_cases k <;> decide
    rw [h6]
    by_cases k1 : k = 1
    · subst k1
      rw [h1, Bool.false_and]
    · by_cases k2 : k = 2
      · subst k2
        rw [h2, Bool.false_and]
      · simp [k1, k2]

theorem statusWordOk_iff (g : Group) : statusWordOk g = true ↔ LegalReturn g := by
  rw [statusWordOk, LegalReturn, Bool.and_eq_true, Bool.and_eq_true, decide_eq_true_iff, decide_eq_true_iff,
    decide_eq_true_iff, and_six, and_assoc, and_assoc]
  rfl

/-- A fragment of the lanes m at p, where there are any. -/
def fragAt (m : Mask) (p : VAddr) : List Frag := if m = 0 then [] else [{ mask := m, pc := p }]

/-- The fragments of a group that leaves its handler, before they settle. -/
def returned (g : Group) (again skip : Mask) : List Frag :=
  (g.frags.filter fun f => !f.handler) ++ fragAt again (g.special.tspc.truncate 57)
    ++ fragAt skip (pcAdd (g.special.tspc.truncate 57) 4)

theorem returnFromHandler_eq (g : Group) (again skip : Mask) : returnFromHandler g again skip =
    settle { g with frags := returned g again skip, hmode := false, hset := 0, win1 := {}, score := [] } := rfl

theorem lanesOnto_fragAt (k m : Mask) (p : VAddr) : lanesOnto k (fragAt m p) = k ||| m := by
  rw [fragAt]
  split
  · rename_i h
    rw [h]
    exact (BitVec.or_zero ..).symm
  · rfl

theorem liveLanes_returnFromHandler (g : Group) (again skip : Mask) : liveLanes (returnFromHandler g again skip)
    = liveLanes { g with frags := g.frags.filter fun f => !f.handler } ||| again ||| skip := by
  rw [returnFromHandler_eq, liveLanes_settle]
  change lanesOnto 0 (returned g again skip) = _
  rw [returned, lanesOnto_append, lanesOnto_append, lanesOnto_fragAt, lanesOnto_fragAt]
  rfl

theorem handler_fragAt {m : Mask} {p : VAddr} {f : Frag} (h : f ∈ fragAt m p) : f.handler = false := by
  rw [fragAt] at h
  split at h
  · cases h
  · rw [List.mem_singleton.mp h]

theorem handler_returnFromHandler (g : Group) (again skip : Mask) :
    ∀ f ∈ (returnFromHandler g again skip).frags, f.handler = false := by
  refine handler_settle fun f hf => ?_
  obtain hf | hf := List.mem_append.mp hf
  · obtain hf | hf := List.mem_append.mp hf
    · simpa using (List.mem_filter.mp hf).2
    · exact handler_fragAt hf
  · exact handler_fragAt hf

theorem mem_fragAt {m : Mask} {p : VAddr} {k : Nat} (h : inMask m k = true) : { mask := m, pc := p } ∈ fragAt m p := by
  rw [fragAt, if_neg]
  · exact List.mem_singleton_self _
  · rintro rfl
    rw [inMask_zero] at h
    cases h

/-- The lanes of the handler fragments and those of the others are the group's. -/
theorem liveLanes_split (g : Group) :
    liveLanes { g with frags := g.frags.filter fun f => !f.handler } ||| handlerLanes g = liveLanes g := by
  have h (l : List Frag) (a b : Mask) : lanesOnto a (l.filter fun f => !f.handler)
      ||| l.foldl (fun m f => if f.handler then m ||| f.mask else m) b = lanesOnto (a ||| b) l := by
    induction l generalizing a b with
    | nil => rfl
    | cons f l ih =>
      have hl : lanesOnto (a ||| b) (f :: l) = lanesOnto (a ||| b ||| f.mask) l := rfl
      rw [hl, List.foldl_cons, List.filter_cons]
      cases hf : f.handler
      · have hcons (m : Mask) (l : List Frag) : lanesOnto m (f :: l) = lanesOnto (m ||| f.mask) l := rfl
        rw [if_pos (by rfl), hcons, if_neg (by decide), ih, BitVec.or_assoc, BitVec.or_assoc, BitVec.or_comm b]
      · rw [if_neg (by decide), if_pos rfl, ih, BitVec.or_assoc]
  have h0 := h g.frags 0 0
  rwa [show (0 : Mask) ||| 0 = 0 from rfl] at h0

theorem mask_split (h k : Mask) : h &&& k ||| h &&& ~~~k = h := by
  rw [← BitVec.and_or_distrib_left, BitVec.or_not_self, BitVec.and_allOnes]

theorem holdable_returnFromHandler (g : Group) (again skip : Mask) :
    Holdable (returned g again skip) (returnFromHandler g again skip).frags :=
  (holdable_settle { g with frags := returned g again skip, hmode := false, hset := 0, win1 := {}, score := [] }).1

/-- The group that TRET leaves. -/
def resumed (g : Group) : Group :=
  returnFromHandler g (handlerLanes g &&& g.special.tmask) (handlerLanes g &&& ~~~g.special.tmask)

theorem tret_returns {st : BitVec 2} {s : State} {cx : Cx} (c : Ready (.tret st) s cx) (hm : cx.g.hmode = true)
    (hf : Foremost cx) (hset : cx.f.mask = handlerLanes cx.g) (hl : LegalReturn cx.g) : exec (.tret st) s
      = .next (done (.tret st) s cx (withGroup s cx (resumed cx.g))) := by
  refine (issue_ok (fm := ctlForm st []) c ?_ : execTret st s = _)
  simp only [hm, lowerHandler_of_foremost hf, hset, (statusWordOk_iff _).mpr hl, Bool.not_true, Bool.false_eq_true,
    if_false, ne_eq, not_true]
  rfl

/-- The lanes that the handler leaves: TMASK's again, the others skip. -/
theorem mem_resumed (g : Group) {l : Nat} (h : inMask (handlerLanes g) l = true) : ∃ f ∈ (resumed g).frags,
    inMask f.mask l = true ∧ f.pc = if inMask g.special.tmask l = true then g.special.tspc.truncate 57
      else pcAdd (g.special.tspc.truncate 57) 4 := by
  suffices hret : ∃ f ∈ returned g (handlerLanes g &&& g.special.tmask) (handlerLanes g &&& ~~~g.special.tmask),
      inMask f.mask l = true ∧ f.pc = if inMask g.special.tmask l = true then g.special.tspc.truncate 57
        else pcAdd (g.special.tspc.truncate 57) 4 by
    obtain ⟨f, hf, hfl, hpc⟩ := hret
    obtain ⟨x, hx, hxl, hxf⟩ := holdable_returnFromHandler _ _ _ f hf l hfl
    exact ⟨x, hx, hxl, hxf.pc.trans hpc⟩
  cases ht : inMask g.special.tmask l
  · have hk : inMask (handlerLanes g &&& ~~~g.special.tmask) l = true := by
      rw [inMask_and, h, inMask_not (lt_of_inMask h), ht]
      rfl
    exact ⟨_, List.mem_append_right _ (mem_fragAt hk), hk, rfl⟩
  · have hk : inMask (handlerLanes g &&& g.special.tmask) l = true := by rw [inMask_and, h, ht]; rfl
    exact ⟨_, List.mem_append_left _ (List.mem_append_right _ (mem_fragAt hk)), hk, rfl⟩

/-- The other lanes of the group stay where they are. -/
theorem mem_resumed_held {g : Group} {f : Frag} (hf : f ∈ g.frags) (hh : f.handler = false) {l : Nat}
    (hl : inMask f.mask l = true) : ∃ x ∈ (resumed g).frags, inMask x.mask l = true ∧ x.pc = f.pc := by
  have hret : f ∈ returned g (handlerLanes g &&& g.special.tmask) (handlerLanes g &&& ~~~g.special.tmask) :=
    List.mem_append_left _ (List.mem_append_left _ (List.mem_filter.mpr ⟨hf, by simp [hh]⟩))
  obtain ⟨x, hx, hxl, hxf⟩ := holdable_returnFromHandler _ _ _ f hret l hl
  exact ⟨x, hx, hxl, hxf.pc⟩

theorem liveLanes_resumed (g : Group) : liveLanes (resumed g) = liveLanes g := by
  rw [resumed, liveLanes_returnFromHandler, BitVec.or_assoc, mask_split, liveLanes_split]

/-- What issue books of fragments: their waits and their convergence. -/
theorem bookIssue_frags (fm : Form) (n : Nat) (m : Mask) (tick : Nat) (g : Group) : ∃ e : Frag → Frag,
    (bookIssue fm n m tick g).frags = g.frags.map e ∧ ∀ f, (e f).mask = f.mask ∧ (e f).pc = f.pc ∧ (e f).handler = f.handler := by
  refine ⟨_, List.map_map, fun f => ?_⟩
  simp only [Function.comp_apply]
  split <;> exact ⟨rfl, rfl, rfl⟩

theorem liveLanes_map {g h : Group} {e : Frag → Frag} (hg : g.frags = h.frags.map e) (he : ∀ f, (e f).mask = f.mask) :
    liveLanes g = liveLanes h := by
  rw [liveLanes, hg, List.foldl_map]
  simp only [he]
  rfl

/-- Settles O29: TRET leaves `resumed`; its other outcomes are the branches before it. -/
theorem returnFromHandler : Obligations.ReturnFromHandler := by
  refine ⟨fun st s cx c hm hf hset hl => ?lanes, fun st => ?runs, fun st => ?illegal, fun st => ?waits, fun st => ?converge,
    fun st s cx c hm hf hset hl => ?escalates, fun g again skip => ?shape⟩
  case lanes =>
    refine ⟨_, tret_returns c hm hf hset hl, still_trans (still_withGroup ..) (still_issued ..), ?_⟩
    have hg : grpOf (done (.tret st) s cx (withGroup s cx (resumed cx.g))) cx.key
        = bookIssue (ctlForm st []) (readyClock (ctlForm st []) s cx) cx.f.mask s.tick (resumed cx.g) := grpOf_issued ..
    obtain ⟨e, he, hsame⟩ := bookIssue_frags (ctlForm st []) (readyClock (ctlForm st []) s cx) cx.f.mask s.tick (resumed cx.g)
    rw [hg]
    refine ⟨rfl, rfl, rfl, rfl, rfl, rfl, rfl, rfl, rfl, fun f hf => ?_, fun l hl => ?_, fun f hf hfh l hl => ?_, ?_⟩
    · rw [he] at hf
      obtain ⟨x, hx, rfl⟩ := List.mem_map.mp hf
      exact (hsame x).2.2.trans (handler_returnFromHandler _ _ _ x hx)
    · obtain ⟨x, hx, hxl, hxpc⟩ := mem_resumed cx.g hl
      exact ⟨e x, he ▸ List.mem_map_of_mem hx, (hsame x).1 ▸ hxl, (hsame x).2.1.trans hxpc⟩
    · obtain ⟨x, hx, hxl, hxpc⟩ := mem_resumed_held hf hfh hl
      exact ⟨e x, he ▸ List.mem_map_of_mem hx, (hsame x).1 ▸ hxl, (hsame x).2.1.trans hxpc⟩
    · exact (liveLanes_map he fun f => (hsame f).1).trans (liveLanes_resumed cx.g)
  case runs =>
    intro s cx c ⟨hm, hf, hset, hl⟩
    exact ⟨tret_returns c hm hf hset hl, still_trans (still_withGroup ..) (still_issued ..)⟩
  case illegal =>
    refine faultsIf_issue (fun s => (rfl : execTret st s = _)) (fun _ _ => rfl) fun s cx _ hm => ?_
    simp only [hm]
    rfl
  case waits =>
    refine waitsIf_issue (fun s => (rfl : execTret st s = _)) (fun _ _ => rfl) fun s cx _ ⟨hm, hf⟩ => ?_
    simp only [hm, (lowerHandler_iff cx).mpr hf]
    rfl
  case converge =>
    refine faultsIf_issue (fun s => (rfl : execTret st s = _)) (fun _ _ => rfl) fun s cx _ ⟨hm, hf, hset⟩ => ?_
    simp only [hm, lowerHandler_of_foremost hf, hset, Bool.not_true, Bool.false_eq_true, if_false, ne_eq, not_false_eq_true,
      if_true]
  case escalates =>
    have hbad : statusWordOk cx.g = false := Bool.eq_false_iff.mpr fun h => hl ((statusWordOk_iff _).mp h)
    refine (issue_clear (fm := ctlForm st []) c _ : execTret st s = _).trans ?_
    simp only [hm, lowerHandler_of_foremost hf, hset, hbad, Bool.not_true, Bool.not_false, Bool.false_eq_true, if_false,
      ne_eq, not_true, if_true]
    rfl
  case shape =>
    exact ⟨rfl, rfl, rfl, rfl, rfl, rfl, handler_returnFromHandler g again skip, liveLanes_returnFromHandler g again skip⟩

/-! ## EXIT (R196) -/

theorem afterExit_drains {s : State} {k : Nat} (pc : VAddr) (m : Mask) (hf : (grpOf s k).frags = [])
    (hd : fenceDone (grpOf s k) s.seq = true) : afterExit s k pc m = drainEnd s k pc m := by
  simp [afterExit, hf, hd]

/-- The group's last EXIT takes its entry out, whatever it does of streams, teams and grids. -/
theorem exitGroup_gone (s : State) (k : Nat) : tblGet? (exitGroup s k).groups k = none := by
  have hrest (u : State) (i c : Nat) : (restResident u i c).groups = u.groups := by
    rw [restResident]
    split <;> rfl
  have hwake (u : State) : tblGet? (wakeAll u).groups k = (tblGet? u.groups k).map wake := tblGet?_map ..
  have hite {p : Prop} [Decidable p] (a b : State) (ha : tblGet? a.groups k = none) (hb : tblGet? b.groups k = none) :
      tblGet? (if p then a else b).groups k = none := by
    split <;> assumption
  rw [exitGroup]
  dsimp only
  rw [hrest, hwake]
  exact Option.map_eq_none_iff.mpr (hite _ _ (tblGet?_del_same _ _) (tblGet?_del_same _ _))

/-- Settles O30: EXIT by the branches of its body and of `afterExit`. -/
theorem exitResults : Obligations.ExitResults := by
  refine ⟨fun st s cx c hm => ?exits, fun st s cx c hm hf hset => ?handler, fun st => ?waits, fun st => ?converge,
    fun s k pc m hf => ?stays, fun s k pc m hf hd => ?drains, fun s k pc m c hf hd hs => ?surfaces, fun s k pc m hf hd hs => ?gone⟩
  case exits =>
    refine (issue_ok (fm := ctlForm st []) c ?_ : execExit st s = _)
    simp only [hm, Bool.false_eq_true, if_false]
    rfl
  case handler =>
    refine (issue_ok (fm := ctlForm st []) c ?_ : execExit st s = _)
    simp only [hm, lowerHandler_of_foremost hf, hset, Bool.false_eq_true, if_false, if_true, ne_eq, not_true]
    rfl
  case waits =>
    refine waitsIf_issue (fun s => (rfl : execExit st s = _)) (fun _ _ => rfl) fun s cx _ ⟨hm, hf⟩ => ?_
    simp only [hm, (lowerHandler_iff cx).mpr hf, if_true]
  case converge =>
    refine faultsIf_issue (fun s => (rfl : execExit st s = _)) (fun _ _ => rfl) fun s cx _ ⟨hm, hf, hset⟩ => ?_
    simp only [hm, lowerHandler_of_foremost hf, hset, Bool.false_eq_true, if_false, ne_eq, not_false_eq_true, if_true]
  case stays => exact if_pos hf
  case drains => simp [afterExit, hf, hd]
  case surfaces =>
    rw [afterExit_drains pc m hf hd, drainEnd, hs]
  case gone =>
    rw [afterExit_drains pc m hf hd, drainEnd, hs]
    exact exitGroup_gone s k

end Sys2Proof.Proofs

/-! PROOFS. Register allotment and the special registers (R33 to R38, R201 to R203, R329). -/

namespace Sys2Proof.Proofs

open Sys2Proof Sys2Proof.Machine Sys2Proof.Laws

/-! ## Register allotment (R201 to R203) -/

theorem tblGet?_filter_key {α : Type} (l : Tbl α) (q : Nat → Bool) (k : Nat) :
    tblGet? (l.filter fun p => q p.1) k = if q k then tblGet? l k else none := by
  induction l with
  | nil => simp [tblGet?]
  | cons p l ih =>
    rw [List.filter_cons]
    by_cases hk : p.1 = k
    · subst hk
      cases hq : q p.1 <;> simp [tblGet?, ih, hq]
    · cases q p.1 <;> simp [tblGet?, ih, hk]

theorem readV_zeroRegs_above (g : Regs) {n r : Nat} (h : n ≤ r) (l : Nat) : readV (zeroRegs g n) r l = 0 := by
  have hget : tblGet? (zeroRegs g n).v r = none :=
    (tblGet?_filter_key g.v (fun k => decide (k < n)) r).trans (if_neg (by simpa using h))
  rw [readV, tblGet, hget]
  rfl

theorem badV_zeroRegs_above (g : Regs) {n r : Nat} (h : n ≤ r) : tblGet? (zeroRegs g n).badV r = none :=
  (tblGet?_filter_key g.badV (fun k => decide (k < n)) r).trans (if_neg (by simpa using h))

theorem readV_zeroRegs_below (g : Regs) {n r : Nat} (h : r < n) (l : Nat) : readV (zeroRegs g n) r l = readV g r l := by
  have hget : tblGet? (zeroRegs g n).v r = tblGet? g.v r :=
    (tblGet?_filter_key g.v (fun k => decide (k < n)) r).trans (if_pos (by simpa using h))
  rw [readV, readV, tblGet, tblGet, hget]

/-- An older claim stands before the group's. -/
def olderClaim (s : State) (cx : Cx) : Bool :=
  (oldestClaim s cx.g.ident.island cx.g.ident.core).any fun p => (grpOf s p.1).age < cx.g.age

theorem olderClaim_false {s : State} {cx : Cx}
    (h : ∀ p, oldestClaim s cx.g.ident.island cx.g.ident.core = some p → cx.g.age ≤ (grpOf s p.1).age) :
    olderClaim s cx = false := by
  rw [olderClaim]
  cases ho : oldestClaim s cx.g.ident.island cx.g.ident.core with
  | none => rfl
  | some p => simpa using h p ho

theorem olderClaim_true {s : State} {cx : Cx} {p : Nat × Nat}
    (hp : oldestClaim s cx.g.ident.island cx.g.ident.core = some p) (h : (grpOf s p.1).age < cx.g.age) :
    olderClaim s cx = true := by
  rw [olderClaim, hp]
  exact decide_eq_true h

/-- Settles O32: RGROW and RSHRINK by the branches of their bodies. -/
theorem allotmentResults : Obligations.AllotmentResults := by
  refine ⟨fun st n => ?has, fun st n => ?grows, fun st n => ?claims, fun n i g h => ?zeros, fun st n => ?small,
    fun st n => ?waits, fun st n => ?shrinks⟩
  case has => exact runsStill_goPast (fun s => (rfl : execRgrow st n s = _)) (fun _ _ => rfl) fun _ _ _ h => if_pos h
  case grows =>
    refine runsStill_group (fun s => (rfl : execRgrow st n s = _)) (fun _ _ => rfl) fun s cx _ ⟨hn, hold, hpool⟩ => ?_
    have hcond : (!olderClaim s cx && decide (regBytes cx.g (n.toNat - cx.g.allot)
        ≤ poolBytes s cx.g.ident.island cx.g.ident.core)) = true := by
      rw [olderClaim_false hold, decide_eq_true hpool]
      rfl
    exact (if_neg (Nat.not_le.mpr hn)).trans (if_pos hcond)
  case claims =>
    refine runsStill_group (fun s => (rfl : execRgrow st n s = _)) (fun _ _ => rfl) fun s cx _ ⟨hn, hwait⟩ => ?_
    have hcond : ¬(!olderClaim s cx && decide (regBytes cx.g (n.toNat - cx.g.allot)
        ≤ poolBytes s cx.g.ident.island cx.g.ident.core)) = true := by
      obtain hpool | ⟨p, hp, hage⟩ := hwait
      · simp [Nat.not_le.mpr hpool]
      · simp [olderClaim_true hp hage]
    exact (if_neg (Nat.not_le.mpr hn)).trans (if_neg hcond)
  case zeros =>
    have hgrow : growTo n i g = modFrag { g with regs := zeroRegs g.regs g.allot, allot := n } i fun f =>
        { f with hold := .none, pc := pcAdd f.pc 4 } := by rw [growTo, if_neg (Nat.not_le.mpr h)]
    rw [hgrow]
    exact ⟨rfl, fun r l hr => ⟨readV_zeroRegs_above g.regs hr l, badV_zeroRegs_above g.regs hr⟩,
      fun r l hr => readV_zeroRegs_below g.regs hr l⟩
  case small => exact runsStill_goPast (fun s => (rfl : execRshrink st n s = _)) (fun _ _ => rfl) fun _ _ _ h => if_pos h
  case waits =>
    refine waitsIf_issue (fun s => (rfl : execRshrink st n s = _)) (fun _ _ => rfl) fun s cx _ ⟨hn, hbusy⟩ => ?_
    refine (if_neg (Nat.not_le.mpr hn)).trans (if_pos ?_)
    obtain hchains | ⟨o, ho, w, hw, hfrom⟩ := hbusy
    · simp [hchains]
    · exact (Bool.or_eq_true ..).mpr (.inr (List.any_eq_true.mpr ⟨o, ho, List.any_eq_true.mpr ⟨w, hw, hfrom⟩⟩))
  case shrinks =>
    refine runsIf_issue (fun s => (rfl : execRshrink st n s = _)) (fun _ _ => rfl) fun s cx _ ⟨hn, hchains, hops⟩ => ?_
    have hfree : ¬(decide (cx.g.chains ≠ []) || cx.g.ops.any fun o => o.writes.any (writesFrom n.toNat)) = true := by
      simpa [hchains] using hops
    exact (if_neg (Nat.not_le.mpr hn)).trans (if_neg hfree)

/-! ## Special registers (R33 to R38) -/

theorem writeWaits_settled {s : State} {cx : Cx} {n : BitVec 6} (v : Nat) (hn : n.toNat < 0x20)
    (hflags : (n = 2 ∨ n = 8) → flagsSettled cx.g = true) (hchains : (n = 3 ∨ n = 9) → cx.g.chains = []) :
    writeWaits s cx n.toNat v = false := by
  unfold writeWaits
  split
  · rw [hflags (.inl (BitVec.eq_of_toNat_eq ‹_›))]
    rfl
  · rw [hflags (.inr (BitVec.eq_of_toNat_eq ‹_›))]
    rfl
  · exact decide_eq_false (not_not.mpr (hchains (.inl (BitVec.eq_of_toNat_eq ‹_›))))
  · exact decide_eq_false (not_not.mpr (hchains (.inr (BitVec.eq_of_toNat_eq ‹_›))))
  · omega
  · omega
  · rfl

/-- What a special register below 0x0A reads after it has been written. -/
theorem registerRead_registerWrite (s : State) (cx : Cx) (x : DWord) {n : Nat} (h1 : 1 ≤ n) (h9 : n ≤ 9) :
    registerRead s { cx with g := { cx.g with special := registerWrite n x cx.g.special } } n = x &&& writableBits n := by
  interval_cases n <;> rfl

/-- A write to a special register leaves what every other reads. -/
theorem registerRead_registerWrite_other (s : State) (cx : Cx) (x : DWord) {n k : Nat} (h : k ≠ n) :
    registerRead s { cx with g := { cx.g with special := registerWrite n x cx.g.special } } k = registerRead s cx k := by
  unfold registerWrite
  dsimp only
  split <;> (unfold registerRead; split <;> first | rfl | omega)

theorem testBit_of_div {x i : Nat} {b : Bool} (h : x / 2 ^ i % 2 = b.toNat) : x.testBit i = b := by
  rw [Nat.testBit_eq_decide_div_mod_eq, h]
  cases b <;> rfl

/-- The quotients of GSTAT by its fields' weights. -/
theorem gstat_quotients {x fr al w pr sb po hm pk : Nat} (hal : al < 256) (hw : w < 4) (hpr : pr ≤ 1) (hsb : sb ≤ 1)
    (hpo : po ≤ 1) (hhm : hm ≤ 1) (hpk : pk ≤ 1) (hx : x = fr * 2 ^ 32 + al * 2 ^ 24 + w * 2 ^ 16 + pr * 2 ^ 7 + sb * 2 ^ 6
      + po * 2 ^ 5 + hm * 6 + pk) :
    x / 2 ^ 32 = fr
    ∧ x / 2 ^ 24 = fr * 2 ^ 8 + al
    ∧ x / 2 ^ 18 = fr * 2 ^ 14 + al * 2 ^ 6
    ∧ x / 2 ^ 16 = fr * 2 ^ 16 + al * 2 ^ 8 + w
    ∧ x / 2 ^ 8 = fr * 2 ^ 24 + al * 2 ^ 16 + w * 2 ^ 8
    ∧ x / 2 ^ 7 = fr * 2 ^ 25 + al * 2 ^ 17 + w * 2 ^ 9 + pr
    ∧ x / 2 ^ 6 = fr * 2 ^ 26 + al * 2 ^ 18 + w * 2 ^ 10 + pr * 2 + sb
    ∧ x / 2 ^ 5 = fr * 2 ^ 27 + al * 2 ^ 19 + w * 2 ^ 11 + pr * 4 + sb * 2 + po
    ∧ x / 2 ^ 4 = fr * 2 ^ 28 + al * 2 ^ 20 + w * 2 ^ 12 + pr * 8 + sb * 4 + po * 2
    ∧ x / 2 ^ 3 = fr * 2 ^ 29 + al * 2 ^ 21 + w * 2 ^ 13 + pr * 16 + sb * 8 + po * 4
    ∧ x / 2 ^ 2 = fr * 2 ^ 30 + al * 2 ^ 22 + w * 2 ^ 14 + pr * 32 + sb * 16 + po * 8 + hm
    ∧ x / 2 ^ 1 = fr * 2 ^ 31 + al * 2 ^ 23 + w * 2 ^ 15 + pr * 64 + sb * 32 + po * 16 + hm * 3 := by
  refine ⟨?_, ?_, ?_, ?_, ?_, ?_, ?_, ?_, ?_, ?_, ?_, ?_⟩ <;> exact Nat.div_eq_of_lt_le (by omega) (by omega)

theorem groupStatus : GroupStatus := by
  intro s cx hfrags hallot
  have hwidth := cx.g.ident.width.isLt
  have hx : (registerRead s cx 0x00).toNat = cx.g.frags.length * 2 ^ 32 + cx.g.allot * 2 ^ 24
      + cx.g.ident.width.toNat * 2 ^ 16 + (privileged cx.g.ident).toNat * 2 ^ 7 + cx.g.ident.sbchk.toNat * 2 ^ 6
      + cx.g.ident.pool.toNat * 2 ^ 5 + cx.g.hmode.toNat * 6 + (cx.g.frags.any fun f => f.parked.isSome).toNat := by
    change (gstat cx.g).toNat = _
    rw [gstat, BitVec.toNat_ofNat]
    cases privileged cx.g.ident <;> cases cx.g.ident.sbchk <;> cases cx.g.ident.pool <;> cases cx.g.hmode <;>
      cases cx.g.frags.any fun f => f.parked.isSome <;> simp <;> omega
  have hpriv := Bool.toNat_le (privileged cx.g.ident)
  have hsb := Bool.toNat_le cx.g.ident.sbchk
  have hpool := Bool.toNat_le cx.g.ident.pool
  have hm := Bool.toNat_le cx.g.hmode
  have hp := Bool.toNat_le (cx.g.frags.any fun f => f.parked.isSome)
  dsimp only
  generalize (registerRead s cx 0x00).toNat = x at hx ⊢
  generalize hparked : (cx.g.frags.any fun f => f.parked.isSome) = parked at hx hp ⊢
  obtain ⟨q32, q24, q18, q16, q8, q7, q6, q5, q4, q3, q2, q1⟩ := gstat_quotients hallot hwidth hpriv hsb hpool hm hp hx
  have h0 : x.testBit 0 = parked := testBit_of_div (by omega)
  refine ⟨q32, by omega, by omega, by omega, by omega, testBit_of_div (by omega), testBit_of_div (by omega),
    testBit_of_div (by omega), testBit_of_div (by rw [q4, Bool.toNat_false]; omega),
    testBit_of_div (by rw [q3, Bool.toNat_false]; omega), testBit_of_div (by omega), testBit_of_div (by omega), ?_⟩
  rw [h0, ← hparked]
  simp only [List.any_eq_true, Option.isSome_iff_ne_none]

theorem coreClock_modCores (s : State) (cx : Cx) (f : Core → Core) (h : Present s cx.g.ident.island) :
    coreClock (modIsl s cx.g.ident.island fun x => { x with cores := tblMod x.cores cx.g.ident.core f }) cx
      = (f (tblGet (islOf s cx.g.ident.island).cores cx.g.ident.core)).clock := by
  rw [coreClock, islOf_modIsl_same s _ _ h, tblMod, tblGet_set_same]

theorem le_foldl_scores (l : List Pending) (p : Pending → Bool) (n : Nat) :
    n ≤ l.foldl (fun acc x => if p x then max acc x.ready else acc) n := by
  induction l generalizing n with
  | nil => exact le_rfl
  | cons x l ih =>
    rw [List.foldl_cons]
    split
    · exact (le_max_left ..).trans (ih _)
    · exact ih n

theorem readyClock_ge (fm : Form) (s : State) (cx : Cx) : Machine.issueClock s cx ≤ readyClock fm s cx := le_foldl_scores ..

theorem cores_sampleCtx (s : State) (i src c v : Nat) (h : Present s i) : Present (sampleCtx s i src c v) i := by
  rw [sampleCtx]
  split
  · exact (congrArg Option.isSome (tblGet?_adj_same ..)).trans ((Option.isSome_map ..).trans h)
  · exact h

theorem clockRead : ClockRead := by
  refine ⟨fun s cx => ⟨BitVec.toNat_ofNat .., ?_, ?_⟩, fun fm s cx e h => ?_⟩
  · exact (le_max_left ..).trans ((Nat.le_add_right ..).trans (Nat.le_add_right ..))
  · exact (le_max_right ..).trans ((Nat.le_add_right ..).trans (Nat.le_add_right ..))
  · have hcore (u : State) (hu : Present u cx.g.ident.island) (n m : Nat) : n ≤ coreClock (modIsl u cx.g.ident.island
        fun x => { x with cores := tblMod x.cores cx.g.ident.core (bookCore n m) }) cx := by
      rw [coreClock_modCores _ _ _ hu]
      exact le_max_right ..
    refine (readyClock_ge fm s cx).trans ?_
    rw [issued, bookAll]
    refine hcore _ ?_ _ _
    split
    · exact h
    · exact cores_sampleCtx _ _ _ _ _ h

theorem identityRead : IdentityRead :=
  ⟨fun _ _ => ⟨rfl, rfl, rfl, rfl, rfl, rfl⟩, fun _ _ _ _ _ _ _ => ⟨rfl, rfl, rfl, rfl, rfl, rfl⟩⟩

/-! ## System registers that hold a plain value (R249, R340, R408, R424) -/

theorem mem_modMem_same (s : State) (i : Nat) (f : IslandMem → IslandMem) (h : Present s i) :
    (islOf (modMem s i f) i).mem = f (islOf s i).mem := by
  rw [modMem, islOf_modIsl_same s i _ h]

/-- Settles O33: RDSR and WRSR by their bodies' branches, what a written register reads by its writable bits, GSTAT by its
weights. -/
theorem specialRegisterResults : Obligations.SpecialRegisterResults := by
  refine ⟨⟨fun st d n => ?reads, fun st d n => ?readWaits, fun st n a hn => ?writes, fun st n a => ?writeWaits,
    fun st n a hn => ?system⟩, fun s cx n x h1 h9 => ?written, groupStatus, clockRead, identityRead,
    fun s i core v hi => ?plain⟩
  case reads =>
    refine runsStill_ok (fun s => (rfl : execRdsr st d n s = _)) (fun _ _ => rfl) fun s cx hi h => ?_
    have hgo : ¬((decide (n = 2) || decide (n = 8)) && !flagsSettled cx.g) = true := by
      simpa only [Bool.and_eq_true, Bool.or_eq_true, decide_eq_true_eq, Bool.not_eq_true', not_and, Bool.not_eq_false] using h
    rw [goPastWith, modGrp_issuing hi]
    exact ⟨if_neg hgo, still_withGroup ..⟩
  case readWaits =>
    refine waitsIf_issue (fun s => (rfl : execRdsr st d n s = _)) (fun _ _ => rfl) fun s cx _ ⟨hn, hfl⟩ => if_pos ?_
    simpa only [Bool.and_eq_true, Bool.or_eq_true, decide_eq_true_eq, Bool.not_eq_true'] using ⟨hn, hfl⟩
  case writes =>
    refine runsStill_group (fun s => (rfl : execWrsr st n a s = _)) (fun _ _ => rfl) fun s cx _ ⟨hfl, hch⟩ => ?_
    simp only [writeWaits_settled _ hn hfl hch, Bool.false_eq_true, if_false, hn, if_true]
    rfl
  case writeWaits =>
    refine waitsIf_issue (fun s => (rfl : execWrsr st n a s = _)) (fun _ _ => rfl) fun s cx _ h => if_pos ?_
    obtain ⟨rfl | rfl, hfl⟩ | ⟨rfl | rfl, hch⟩ := h
    · exact (congrArg (!·) hfl).trans rfl
    · exact (congrArg (!·) hfl).trans rfl
    · exact decide_eq_true hch
    · exact decide_eq_true hch
  case system =>
    refine runsIf_issue (fun s => (rfl : execWrsr st n a s = _)) (fun _ _ => rfl) fun s cx hi h => ?_
    rw [goPast, modGrp_issuing hi]
    simp only [h, Bool.false_eq_true, if_false, Nat.not_lt.mpr hn]
    rfl
  case written =>
    refine ⟨(registerRead_registerWrite s cx x h1 h9).trans (congrArg (x &&& ·) ?_),
      fun k hk => registerRead_registerWrite_other s cx x hk⟩
    interval_cases n <;> rfl
  case plain =>
    have hmem (f : IslandMem → IslandMem) := mem_modMem_same s i f hi
    refine ⟨fun h hlt => ?_, ?_, fun h hlt => ?_, ?_, ?_⟩
    · have hw : systemWrite s i 0x22 v = modMem s i fun m => { m with frqBase := v } :=
        if_pos ((Bool.and_eq_true ..).mpr ⟨decide_eq_true h, decide_eq_true hlt⟩)
      exact (congrArg (systemRead · i core 0x22) hw).trans (congrArg IslandMem.frqBase (hmem _))
    · refine (congrArg IslandMem.frqHead (hmem fun m => { m with frqHead := bits v 11 0 })).trans ?_
      exact congrArg (· % 4096) (Nat.div_one v)
    · have hw : systemWrite s i 0x25 v = modMem s i fun m => { m with ctxBase := v } :=
        if_pos ((Bool.and_eq_true ..).mpr ⟨decide_eq_true h, decide_eq_true hlt⟩)
      exact (congrArg (systemRead · i core 0x25) hw).trans (congrArg IslandMem.ctxBase (hmem _))
    · refine (congrArg Island.beatp (islOf_modIsl_same s i _ hi)).trans ?_
      have hb : bits v 13 0 = v % 2 ^ 14 := congrArg (· % 2 ^ 14) (Nat.div_one v)
      simp only [hb, Bool.and_eq_true, decide_eq_true_eq]
    · refine (congrArg Island.ncsel (islOf_modIsl_same s i _ hi)).trans ?_
      exact congrArg (· % 2 ^ 16) (Nat.div_one v)

end Sys2Proof.Proofs

/-! PROOFS. Barriers (R211 to R222). -/

namespace Sys2Proof.Proofs

open Sys2Proof Sys2Proof.Machine Sys2Proof.Laws

/-! ## Barriers of a team that stands in the table -/

/-- The team stands in the machine's table. -/
def TeamIn (s : State) (tm : Nat) : Prop := (tblGet? s.teams tm).isSome = true

theorem teamOf_modTeam_same {s : State} {tm : Nat} (f : Team → Team) (h : TeamIn s tm) :
    teamOf (modTeam s tm f) tm = f (teamOf s tm) := by
  obtain ⟨t, ht⟩ := Option.isSome_iff_exists.mp h
  rw [teamOf, modTeam, tblGet, tblGet?_adj_same, teamOf, tblGet, ht]
  rfl

theorem teamOf_modTeam_other (s : State) {tm q : Nat} (f : Team → Team) (h : q ≠ tm) :
    teamOf (modTeam s tm f) q = teamOf s q := by
  rw [teamOf, modTeam, tblGet, tblGet?_adj_other _ _ h, teamOf, tblGet]

/-- A change of a team that leaves what g reads of it. -/
theorem teamOf_modTeam_keeps {α : Type} {g : Team → α} {f : Team → Team} (h : ∀ t, g (f t) = g t) (s : State) (tm q : Nat) :
    g (teamOf (modTeam s tm f) q) = g (teamOf s q) := by
  by_cases hq : q = tm
  · subst hq
    by_cases hin : TeamIn s q
    · rw [teamOf_modTeam_same f hin, h]
    · have hnone : tblGet? s.teams q = none := by simpa [TeamIn] using hin
      rw [teamOf, modTeam, tblAdj, hnone]
      rfl
  · rw [teamOf_modTeam_other s f hq]

theorem barOf_setBar_same {s : State} {tm : Nat} (key : Nat) (b : Bar) (h : TeamIn s tm) :
    barOf (setBar s tm key b) tm key = b := by
  rw [barOf, setBar, teamOf_modTeam_same _ h, tblGet_set_same]

theorem barOf_setBar_other {s : State} {tm key key' : Nat} (b : Bar) (h : TeamIn s tm) (hk : key' ≠ key) :
    barOf (setBar s tm key b) tm key' = barOf s tm key' := by
  rw [barOf, setBar, teamOf_modTeam_same _ h, tblGet_set_other _ _ hk, barOf]

theorem teamIn_setBar {s : State} {tm : Nat} (key : Nat) (b : Bar) (h : TeamIn s tm) : TeamIn (setBar s tm key b) tm := by
  rw [TeamIn, setBar, modTeam, tblGet?_adj_same]
  exact (Option.isSome_map ..).trans h

theorem sameMemory_trans {s t u : State} (a : SameMemory s t) (b : SameMemory t u) : SameMemory s u :=
  ⟨fun i k => (b.1 i k).trans (a.1 i k), fun i k => (b.2 i k).trans (a.2 i k)⟩

theorem sameMemory_refl (s : State) : SameMemory s s := ⟨fun _ _ => rfl, fun _ _ => rfl⟩

theorem sameMemory_modTeam (s : State) (tm : Nat) (f : Team → Team) (h : ∀ t, (f t).mem = t.mem) :
    SameMemory s (modTeam s tm f) :=
  ⟨fun _ _ => rfl, fun q a => congrArg (memGet · a) (teamOf_modTeam_keeps (g := Team.mem) h s tm q)⟩

theorem sameMemory_setBar (s : State) (tm key : Nat) (b : Bar) : SameMemory s (setBar s tm key b) :=
  sameMemory_modTeam _ _ _ fun _ => rfl

theorem sameMemory_modMem (s : State) (i : Nat) (f : IslandMem → IslandMem) (h : ∀ m, (f m).bytes = m.bytes) :
    SameMemory s (modMem s i f) :=
  ⟨fun j a => by rw [byteAt, byteAt, physBytes_modMem h], fun _ _ => rfl⟩

/-! ## The check (R213) -/

theorem sampleCtx_teams (s : State) (i src c v : Nat) : (sampleCtx s i src c v).teams = s.teams := (sampleCtx_rest ..).2

theorem sampleWaits_effects (n : Nat) (s : State) (i src c : Nat) : (sampleWaits s i src c n).teams = s.teams
    ∧ (sampleWaits s i src c n).groups = s.groups ∧ SameMemory s (sampleWaits s i src c n) := by
  induction n generalizing s with
  | zero => exact ⟨rfl, rfl, sameMemory_refl s⟩
  | succ n ih =>
    obtain ⟨ht, hg, hm⟩ := ih (sampleCtx s i src c (Config.sampled (s.tick * 64 + n)))
    refine ⟨ht.trans (sampleCtx_teams ..), hg.trans (sampleCtx_groups ..), sameMemory_trans ?_ hm⟩
    refine ⟨byteAt_of_mem (sampleCtx_rest ..).1 fun j => ?_, fun _ _ => by rw [teamOf, sampleCtx_teams, teamOf]⟩
    exact congrArg (fun x => x.mem.bytes) (islandRest_sampleCtx _ _ _ _ _ j)

theorem sameMemory_acquireL1 (s : State) (id : Ident) : SameMemory s (acquireL1 s id) :=
  sameMemory_modMem s id.island (fun m => dropSi m (l1Of id.pool id.core)) fun _ => rfl

/-- What a group's wait for the phase is to its core's L1 and its monitors. -/
def acquireStep (tm key : Nat) (b : Bar) (s : State) (p : Nat × Group) : State :=
  if p.2.ident.team = tm && unparked p.2 && p.2.frags.any (releases key b) then
    sampleWaits (acquireL1 s p.2.ident) p.2.ident.island 2 p.2.ident.ctx (p.2.frags.filter (releases key b)).length
  else s

theorem acquireSteps_effects (tm key : Nat) (b : Bar) (l : List (Nat × Group)) (u : State) :
    (l.foldl (acquireStep tm key b) u).teams = u.teams ∧ (l.foldl (acquireStep tm key b) u).groups = u.groups
      ∧ SameMemory u (l.foldl (acquireStep tm key b) u) := by
  induction l generalizing u with
  | nil => exact ⟨rfl, rfl, sameMemory_refl u⟩
  | cons p l ih =>
    obtain ⟨ht, hg, hm⟩ := ih (acquireStep tm key b u p)
    have hstep : (acquireStep tm key b u p).teams = u.teams ∧ (acquireStep tm key b u p).groups = u.groups
        ∧ SameMemory u (acquireStep tm key b u p) := by
      rw [acquireStep]
      split
      · obtain ⟨wt, wg, wm⟩ := sampleWaits_effects (p.2.frags.filter (releases key b)).length (acquireL1 u p.2.ident)
          p.2.ident.island 2 p.2.ident.ctx
        exact ⟨wt, wg, sameMemory_trans (sameMemory_acquireL1 ..) wm⟩
      · exact ⟨rfl, rfl, sameMemory_refl u⟩
    exact ⟨ht.trans hstep.1, hg.trans hstep.2.1, sameMemory_trans hstep.2.2 hm⟩

theorem releaseAcquires_effects (s : State) (tm key : Nat) (b : Bar) : (releaseAcquires s tm key b).teams = s.teams
    ∧ (releaseAcquires s tm key b).groups = s.groups ∧ SameMemory s (releaseAcquires s tm key b) :=
  acquireSteps_effects tm key b s.groups s

/-- The barrier after its phase has completed. -/
def phaseEnded (b : Bar) : Bar :=
  { b with ph := b.ph + 1, remain := b.expect, timer := 0, state := .complete, arrived := [], released := joinClock b.released b.arrived }

theorem barCheck_stays {s : State} {tm key : Nat}
    (h : ¬((barOf s tm key).state = .armed ∧ (barOf s tm key).remain = 0 ∧ (barOf s tm key).pend = 0)) :
    barCheck s tm key = s := by
  rw [barCheck]
  refine if_neg ?_
  simpa only [Bool.and_eq_true, decide_eq_true_eq, and_assoc] using h

/-- A group of the barrier's team once its phase is done; every other group as it was. -/
def afterPhase (tm key : Nat) (b : Bar) (tick : Nat) (g : Group) : Group :=
  if g.ident.team = tm then releaseGroup key b tick g else g

theorem barCheck_completes {s : State} {tm key : Nat} (ha : (barOf s tm key).state = .armed) (hr : (barOf s tm key).remain = 0)
    (hp : (barOf s tm key).pend = 0) : ∃ (u : State) (tick : Nat), u.teams = s.teams ∧ u.groups = s.groups ∧ SameMemory s u
      ∧ barCheck s tm key = { setBar u tm key (phaseEnded (barOf s tm key)) with
          groups := s.groups.map fun p => (p.1, afterPhase tm key (phaseEnded (barOf s tm key)) tick p.2) } := by
  obtain ⟨ht, hg, hm⟩ := releaseAcquires_effects s tm key (phaseEnded (barOf s tm key))
  refine ⟨releaseAcquires s tm key (phaseEnded (barOf s tm key)),
    (releaseAcquires s tm key (phaseEnded (barOf s tm key))).tick, ht, hg, hm, ?_⟩
  rw [barCheck]
  refine (if_pos (by simp [ha, hr, hp])).trans ?_
  have hmap (tick : Nat) : ((setBar (releaseAcquires s tm key (phaseEnded (barOf s tm key))) tm key
      (phaseEnded (barOf s tm key))).groups.map fun p =>
        if p.2.ident.team = tm then (p.1, releaseGroup key (phaseEnded (barOf s tm key)) tick p.2) else p)
      = s.groups.map fun p => (p.1, afterPhase tm key (phaseEnded (barOf s tm key)) tick p.2) := by
    rw [setBar, modTeam_groups, hg]
    refine List.map_congr_left fun p _ => ?_
    rw [afterPhase]
    split <;> rfl
  rw [← hmap]
  rfl

theorem releases_iff {key : Nat} {b : Bar} {f : Frag} : releases key b f = true ↔
    ∃ q next, f.hold = .bwait key q next ∧ phaseDone b q = true := by
  unfold releases
  split
  · rename_i k q next heq
    simp only [Bool.and_eq_true, decide_eq_true_eq, heq, Hold.bwait.injEq]
    constructor
    · rintro ⟨rfl, h⟩
      exact ⟨q, next, ⟨rfl, rfl, rfl⟩, h⟩
    · rintro ⟨_, _, ⟨rfl, rfl, rfl⟩, h⟩
      exact ⟨rfl, h⟩
  · rename_i hne
    simp only [Bool.false_eq_true, false_iff]
    rintro ⟨q, next, h, -⟩
    exact hne _ _ _ h

theorem unparked_iff {g : Group} : unparked g = true ↔ ∀ f ∈ g.frags, f.parked = none := by
  simp [unparked]

/-- A fragment's wait at a barrier ended where its phase is done. -/
def letGo (key : Nat) (b : Bar) (f : Frag) : Frag := if releases key b f then goOn f else f

/-- The group before its fragments settle, once they go on. -/
def letGroup (key : Nat) (b : Bar) (tick : Nat) (g : Group) : Group :=
  { learn b.released (g.frags.foldl (fun m f => if releases key b f then m ||| f.mask else m) 0) g with
    frags := g.frags.map (letGo key b), ready := tick }

theorem releaseGroup_eq {key : Nat} {b : Bar} {tick : Nat} {g : Group} (hu : unparked g = true)
    (ha : g.frags.any (releases key b) = true) : releaseGroup key b tick g = wake (settle (letGroup key b tick g)) := by
  rw [releaseGroup, hu, ha]
  rfl

/-- No fragment of the group still waits for a phase that is done. -/
theorem releaseGroup_released {key : Nat} {b : Bar} {tick : Nat} {g : Group}
    (hp : ∀ f ∈ (releaseGroup key b tick g).frags, f.parked = none) {f : Frag} (hf : f ∈ (releaseGroup key b tick g).frags)
    {q : Word} {next : VAddr} (hh : f.hold = .bwait key q next) : phaseDone b q = false := by
  have hfree (x : Frag) (hx : releases key b x = false) (hxh : x.hold = .bwait key q next) : phaseDone b q = false :=
    Bool.eq_false_iff.mpr fun hd => Bool.eq_false_iff.mp hx (releases_iff.mpr ⟨q, next, hxh, hd⟩)
  by_cases hcond : (unparked g && g.frags.any (releases key b)) = true
  · obtain ⟨hu, ha⟩ := (Bool.and_eq_true ..).mp hcond
    rw [releaseGroup_eq hu ha] at hf
    obtain ⟨x, hx, rfl⟩ := List.mem_map.mp hf
    obtain ⟨y, hy, hyx⟩ := alike_mem_settle hx
    obtain ⟨z, -, rfl⟩ := List.mem_map.mp hy
    have hhold : (letGo key b z).hold = .bwait key q next := hyx.hold.trans hh
    cases hz : releases key b z with
    | true =>
      obtain ⟨q', next', hzh, -⟩ := releases_iff.mp hz
      rw [letGo, if_pos hz, goOn, hzh] at hhold
      cases hhold
    | false =>
      rw [letGo, hz, if_neg (by decide)] at hhold
      exact hfree z hz hhold
  · have hsame : releaseGroup key b tick g = g := by rw [releaseGroup, if_neg hcond]
    rw [hsame] at hp hf
    refine hfree f (Bool.eq_false_iff.mpr fun hr => hcond ?_) hh
    exact (Bool.and_eq_true ..).mpr ⟨unparked_iff.mpr hp, List.any_eq_true.mpr ⟨f, hf, hr⟩⟩

/-- A fragment that waits for a phase that is done goes on at its continuation. -/
theorem releaseGroup_goes {key : Nat} {b : Bar} {tick : Nat} {g : Group} (hp : ∀ f ∈ g.frags, f.parked = none) {f : Frag}
    (hf : f ∈ g.frags) {q : Word} {next : VAddr} (hh : f.hold = .bwait key q next) (hd : phaseDone b q = true) {l : Nat}
    (hl : inMask f.mask l = true) :
    ∃ x ∈ (releaseGroup key b tick g).frags, inMask x.mask l = true ∧ x.hold = .none ∧ x.pc = next := by
  have hr := releases_iff.mpr ⟨q, next, hh, hd⟩
  have hgroup := releaseGroup_eq (tick := tick) (unparked_iff.mpr hp) (List.any_eq_true.mpr ⟨f, hf, hr⟩)
  have hgo : letGo key b f = { f with hold := .none, pc := next, waited := 0 } := by rw [letGo, if_pos hr, goOn, hh]
  obtain ⟨x, hx, hxl, hxf⟩ := (holdable_settle (letGroup key b tick g)).1 (letGo key b f) (List.mem_map_of_mem hf) l
    (by rw [hgo]; exact hl)
  rw [hgo] at hxf
  rw [hgroup]
  exact ⟨{ x with waiting := false }, List.mem_map_of_mem (f := fun y : Frag => { y with waiting := false }) hx, hxl,
    hxf.hold, hxf.pc⟩

theorem releaseGroup_ident (key : Nat) (b : Bar) (tick : Nat) (g : Group) : (releaseGroup key b tick g).ident = g.ident := by
  rw [releaseGroup]
  split
  · dsimp only [wake, settle, learn]
    split <;> rfl
  · rfl

theorem phaseDone_iff (b : Bar) (q : Word) :
    phaseDone b q = true ↔ ∃ n : Nat, 1 ≤ n ∧ n ≤ 2 ^ 31 ∧ (q.toNat + n) % 2 ^ 32 = b.ph.toNat := by
  have hq := q.isLt
  have hb := b.ph.isLt
  rw [phaseDone]
  simp only [Bool.and_eq_true, decide_eq_true_eq, BitVec.toNat_sub]
  constructor
  · rintro ⟨h1, h2⟩
    exact ⟨_, h1, h2, by omega⟩
  · rintro ⟨n, h1, h2, h⟩
    omega

theorem mem_afterPhase {l : Tbl Group} {e : Group → Group} {k : Nat} {g : Group}
    (h : tblGet? (l.map fun p => (p.1, e p.2)) k = some g) : ∃ g0, tblGet? l k = some g0 ∧ g = e g0 := by
  rw [tblGet?_map, Option.map_eq_some_iff] at h
  obtain ⟨g0, h0, rfl⟩ := h
  exact ⟨g0, h0, rfl⟩

theorem rearm_remain (b : Bar) : (rearm b).remain = b.remain ∧ (rearm b).expect = b.expect ∧ (rearm b).pend = b.pend
    ∧ (rearm b).ph = b.ph ∧ (rearm b).eng = b.eng := by
  rw [rearm]
  split <;> exact ⟨rfl, rfl, rfl, rfl, rfl⟩

/-- An arrival that leaves others due lowers REMAIN and no more. -/
theorem arrive_below {s : State} {tm key k : Nat} {b : Bar} (ht : TeamIn s tm) (h : k < b.remain) :
    arrive s tm key k b = setBar s tm key { rearm b with remain := (rearm b).remain - k } := by
  have hr := (rearm_remain b).1
  have hle : ¬ k > (rearm b).remain := by omega
  rw [arrive]
  refine (if_neg hle).trans (barCheck_stays fun hc => ?_)
  rw [barOf_setBar_same _ _ ht] at hc
  have := hc.2.1
  simp only at this
  omega

/-- Settles O35: the check by its two branches, an arrival by `arrive_below`, one too many by the end of its context. -/
theorem barrierCheck : Obligations.BarrierCheck := by
  refine ⟨fun s tm key ht => ⟨barCheck_stays, fun ha hr hp => ?completes⟩, phaseDone_iff, fun s tm key k ht hidle hk => ?arrives,
    fun s tm key k ht hk => ?fails⟩
  case completes =>
    obtain ⟨u, tick, hteams, hgroups, hmem, hcheck⟩ := barCheck_completes ha hr hp
    have hin : TeamIn u tm := by
      rw [TeamIn, hteams]
      exact ht
    have hbar : barOf (barCheck s tm key) tm key = phaseEnded (barOf s tm key) := by
      rw [hcheck]
      exact barOf_setBar_same key _ hin
    have hgroup : (barCheck s tm key).groups
        = s.groups.map fun p => (p.1, afterPhase tm key (phaseEnded (barOf s tm key)) tick p.2) := by rw [hcheck]
    rw [hbar]
    refine ⟨BitVec.toNat_add .., rfl, rfl, rfl, rfl, hp, rfl, fun k g hg hteam hpark f hf q next hhold => ?_,
      fun k g hg hteam hpark f hf q next hhold hdone l hl => ?_, fun key' hkey => ?_, ?_⟩
    · obtain ⟨g0, -, rfl⟩ := mem_afterPhase (hgroup ▸ hg)
      have hteam0 : g0.ident.team = tm := by
        by_contra hne
        rw [afterPhase, if_neg hne] at hteam
        exact hne hteam
      rw [afterPhase, if_pos hteam0] at hpark hf
      exact releaseGroup_released hpark hf hhold
    · have hafter : grpOf (barCheck s tm key) k = releaseGroup key (phaseEnded (barOf s tm key)) tick g := by
        rw [grpOf, tblGet, hgroup, tblGet?_map, hg]
        exact if_pos hteam
      rw [hafter]
      exact releaseGroup_goes hpark hf hhold hdone hl
    · rw [hcheck]
      refine (barOf_setBar_other (phaseEnded (barOf s tm key)) hin hkey).trans ?_
      rw [barOf, barOf, teamOf, teamOf, hteams]
    · rw [hcheck]
      obtain ⟨hbytes, hteam⟩ := sameMemory_trans hmem (sameMemory_setBar u tm key (phaseEnded (barOf s tm key)))
      exact ⟨hbytes, hteam⟩
  case arrives =>
    dsimp only
    rw [arrive_below ht hk, barOf_setBar_same _ _ ht]
    obtain ⟨hr, he, hp, hph, -⟩ := rearm_remain (barOf s tm key)
    refine ⟨congrArg (· - k) hr, he, hp, hph, fun hc => ?_, fun ha => ?_⟩
    · simp only [rearm, hc, if_true]
    · simp only [rearm, ha, reduceCtorEq, if_false]
  case fails =>
    intro p hp
    have hfail : arrive s tm key k (barOf s tm key) = barFail s tm key { rearm (barOf s tm key) with state := .invalid } 2 :=
      if_pos (by rw [(rearm_remain _).1]; exact hk)
    rw [hfail, barFail] at hp
    exact (escalated_effects ..).1 p hp

end Sys2Proof.Proofs

/-! PROOFS. The barrier instructions (R216 to R221). -/

namespace Sys2Proof.Proofs

open Sys2Proof Sys2Proof.Machine Sys2Proof.Laws

/-! ## Instructions whose form depends on the state -/

theorem okWith {i : Instr} {mk : State → Cx → Form} {body : Cx → State → Res} {s e : State} {cx : Cx}
    (he : ∀ s, exec i s = issueWith mk body s) (hf : ∀ s cx, formOf i s cx = mk s cx) (c : Ready i s cx)
    (hb : body cx s = .ok e) : exec i s = .next (done i s cx e) := by
  have hclear : Clear (mk s cx) s cx := hf s cx ▸ c
  rw [he, Machine.done, hf]
  exact issueWith_ok hclear hb

theorem runsStill_okWith {i : Instr} {cond : State → Cx → Prop} {effect : State → Cx → State} {mk : State → Cx → Form}
    {body : Cx → State → Res} (he : ∀ s, exec i s = issueWith mk body s) (hf : ∀ s cx, formOf i s cx = mk s cx)
    (hb : ∀ s cx, issuing s = some cx → cond s cx → body cx s = .ok (effect s cx) ∧ Still s (effect s cx) cx) :
    RunsStill i cond effect := by
  intro s cx c hcond
  obtain ⟨hok, hstill⟩ := hb s cx c.issuer hcond
  exact ⟨okWith he hf c hok, still_trans hstill (still_issued ..)⟩

theorem runsIf_issueWith {i : Instr} {cond : State → Cx → Prop} {effect : State → Cx → State} {mk : State → Cx → Form}
    {body : Cx → State → Res} (he : ∀ s, exec i s = issueWith mk body s) (hf : ∀ s cx, formOf i s cx = mk s cx)
    (hb : ∀ s cx, issuing s = some cx → cond s cx → body cx s = .ok (effect s cx)) : RunsIf i cond effect :=
  fun s cx c hcond => okWith he hf c (hb s cx c.issuer hcond)

theorem faultsIf_issueWith {i : Instr} {cond : State → Cx → Prop} {c : Cx → Cause} {mk : State → Cx → Form}
    {body : Cx → State → Res} (he : ∀ s, exec i s = issueWith mk body s) (hf : ∀ s cx, formOf i s cx = mk s cx)
    (hb : ∀ s cx, issuing s = some cx → cond s cx → body cx s = .flt (c cx)) : FaultsIf i cond c := by
  intro s cx ready hcond
  have hclear : Clear (mk s cx) s cx := hf s cx ▸ ready
  rw [he, issueWith_eq_issue hclear.issuer, issue_clear hclear, hb s cx hclear.issuer hcond]

theorem waitsIf_issueWith {i : Instr} {cond : State → Cx → Prop} {mk : State → Cx → Form} {body : Cx → State → Res}
    (he : ∀ s, exec i s = issueWith mk body s) (hf : ∀ s cx, formOf i s cx = mk s cx)
    (hb : ∀ s cx, issuing s = some cx → cond s cx → body cx s = .wait) : WaitsIf i cond := by
  intro s cx ready hcond
  have hclear : Clear (mk s cx) s cx := hf s cx ▸ ready
  rw [he, issueWith_eq_issue hclear.issuer, issue_clear hclear, hb s cx hclear.issuer hcond]

/-! ## What the barrier instructions leave alone -/

theorem still_sameMemory {s t : State} (cx : Cx) (h : SameMemory s t) (hg : t.groups = s.groups) : Still s t cx :=
  ⟨h, fun _ _ => by rw [hg]⟩

theorem still_setBar (s : State) (cx : Cx) (tm key : Nat) (b : Bar) : Still s (setBar s tm key b) cx :=
  still_sameMemory cx (sameMemory_setBar s tm key b) rfl

theorem still_acquireClock (s : State) (cx : Cx) (c : Clock) (n : Nat) : Still s (acquireClock s cx c n) cx := by
  refine still_trans (still_modGrp s cx (learn c cx.f.mask)) ?_
  rw [acquireClock, acquireAt]
  split
  · exact still_sameMemory cx (sameMemory_acquireL1 ..) rfl
  · exact still_refl ..

theorem branch9_target (pc : VAddr) (off : BitVec 9) : continuation pc off = target pc off := by
  have hbytes : (off.signExtend 57) <<< 2 = BitVec.ofInt 57 (4 * off.toInt) := by
    rw [BitVec.shiftLeft_eq_mul_twoPow, BitVec.ofInt_mul, mul_comm]
    rfl
  rw [continuation, target, hbytes, BitVec.ofInt_add, BitVec.ofInt_natCast, BitVec.ofNat_toNat, BitVec.setWidth_eq]

theorem noneParked_iff (cx : Cx) : (cx.g.frags.any fun f => f.parked.isSome) = false ↔ NoneParked cx := by
  simp [NoneParked]

theorem barFree_iff (s : State) (cx : Cx) (tm : BitVec 1) (n : BitVec 6) :
    barFree s cx tm n ↔ barvAhead cx (namedBar s cx tm n) = false := Iff.rfl

theorem learn_rest (c : Clock) (m : Mask) (g : Group) : (learn c m g).regs = g.regs ∧ (learn c m g).special = g.special
    ∧ (learn c m g).frags = g.frags := by
  rw [learn]
  split <;> exact ⟨rfl, rfl, rfl⟩

/-- A change of a group that leaves what g reads of it. -/
theorem grpOf_modGrp_keeps {α : Type} {g : Group → α} {f : Group → Group} (h : ∀ x, g (f x) = g x) (s : State) (k : Nat) :
    g (grpOf (modGrp s k f) k) = g (grpOf s k) := by
  rw [grpOf, modGrp, tblGet, tblGet?_adj_same, grpOf, tblGet]
  cases tblGet? s.groups k with
  | none => rfl
  | some x => exact h x

theorem acquireClock_rest (s : State) (cx : Cx) (c : Clock) (n : Nat) : let u := acquireClock s cx c n
    u.teams = s.teams ∧ u.panel = s.panel ∧ (grpOf u cx.key).regs = (grpOf s cx.key).regs
    ∧ (grpOf u cx.key).special = (grpOf s cx.key).special ∧ (grpOf u cx.key).frags = (grpOf s cx.key).frags := by
  have hu : ∃ i f, acquireClock s cx c n = modGrp s cx.key (learn c cx.f.mask)
      ∨ acquireClock s cx c n = modMem (modGrp s cx.key (learn c cx.f.mask)) i f := by
    refine ⟨cx.g.ident.island, fun m => dropSi m (l1Of cx.g.ident.pool cx.g.ident.core), ?_⟩
    rw [acquireClock, acquireAt]
    split
    · exact .inr rfl
    · exact .inl rfl
  have hregs := grpOf_modGrp_keeps (g := Group.regs) (fun x => (learn_rest c cx.f.mask x).1) s cx.key
  have hspecial := grpOf_modGrp_keeps (g := Group.special) (fun x => (learn_rest c cx.f.mask x).2.1) s cx.key
  have hfrags := grpOf_modGrp_keeps (g := Group.frags) (fun x => (learn_rest c cx.f.mask x).2.2) s cx.key
  obtain ⟨i, f, h | h⟩ := hu
  · dsimp only
    rw [h]
    exact ⟨rfl, rfl, hregs, hspecial, hfrags⟩
  · dsimp only
    rw [h]
    exact ⟨rfl, rfl, hregs, hspecial, hfrags⟩

/-! ## What stands after the issue of a barrier instruction -/

theorem issued_teams (fm : Form) (s e : State) (cx : Cx) : (issued fm s cx e).teams = e.teams := by
  obtain ⟨u, f, ⟨-, -, ht, -⟩, -, he⟩ := bookAll_eq fm cx (readyClock fm s cx) e
  rw [issued, he, modIsl_teams, modGrp_teams, ht]

theorem grpOf_issued_keeps {α : Type} {g : Group → α} (h : ∀ fm n m tick x, g (bookIssue fm n m tick x) = g x) (fm : Form)
    (s e : State) (cx : Cx) : g (grpOf (issued fm s cx e) cx.key) = g (grpOf e cx.key) := by
  obtain ⟨u, f, ⟨hg, -, -, -⟩, -, he⟩ := bookAll_eq fm cx (readyClock fm s cx) e
  rw [issued, he, grpOf_modIsl, grpOf_modGrp_keeps (g := g) fun x => h ..]
  rw [grpOf, hg, grpOf]

theorem cores_setBar (s : State) (tm key : Nat) (b : Bar) (q : Nat) : (teamOf (setBar s tm key b) q).cores = (teamOf s q).cores :=
  teamOf_modTeam_keeps (g := Team.cores) (f := fun t => { t with bars := tblSet t.bars key b }) (fun _ => rfl) s tm q

theorem namedBar_of_cores {s u : State} {cx : Cx}
    (h : (teamOf u cx.g.ident.team).cores = (teamOf s cx.g.ident.team).cores) (tm : BitVec 1) (n : BitVec 6) :
    namedBar u cx tm n = namedBar s cx tm n := by
  rw [namedBar, namedBar, barKey, barKey, coreIx, coreIx, h]

/-- The barrier that the instruction has set, seen after its issue. -/
theorem theBar_issued {s e : State} {cx : Cx} {tm : BitVec 1} {n : BitVec 6} {b : Bar} (fm : Form) (h : HasTeam e cx)
    (hc : (teamOf e cx.g.ident.team).cores = (teamOf s cx.g.ident.team).cores) :
    theBar (issued fm s cx (setBar e cx.g.ident.team (namedBar s cx tm n) b)) cx tm n = b := by
  have hteams := issued_teams fm s (setBar e cx.g.ident.team (namedBar s cx tm n) b) cx
  have hcores : (teamOf (issued fm s cx (setBar e cx.g.ident.team (namedBar s cx tm n) b)) cx.g.ident.team).cores
      = (teamOf s cx.g.ident.team).cores := by
    rw [teamOf, hteams]
    exact (cores_setBar ..).trans hc
  rw [theBar, namedBar_of_cores hcores, barOf, teamOf, hteams]
  exact barOf_setBar_same _ _ h

theorem rearm_with (b : Bar) (scope : Bool) (rel : Clock) : BarIs (rearm { b with teamScope := scope, arrived := rel })
    { rearm b with teamScope := scope } := by
  rw [BarIs, rearm, rearm]
  split <;> rfl

theorem barRelease_effects (s : State) (cx : Cx) (b : Bar) : let r := barRelease s cx.key cx.f.mask b
    (∃ rel, r.2 = { b with arrived := rel }) ∧ r.1.teams = s.teams ∧ Still s r.1 cx
      ∧ (grpOf r.1 cx.key).regs = (grpOf s cx.key).regs ∧ (grpOf r.1 cx.key).special = (grpOf s cx.key).special := by
  dsimp only
  rw [barRelease]
  split
  · exact ⟨⟨_, rfl⟩, rfl, still_modGrp ..,
      grpOf_modGrp_keeps (g := Group.regs) (f := givenOut cx.f.mask) (fun _ => rfl) s cx.key,
      grpOf_modGrp_keeps (g := Group.special) (f := givenOut cx.f.mask) (fun _ => rfl) s cx.key⟩
  · exact ⟨⟨b.arrived, rfl⟩, rfl, still_refl .., rfl, rfl⟩

/-- BARV's register write and its going on. -/
def barvGroup (cx : Cx) (d : Nat) (ph : Word) (g : Group) : Group :=
  wake (modFrag { g with regs := writeS g.regs d (ph.setWidth 64) } cx.ix fun f => { f with hold := .none, pc := pcAdd f.pc 4 })

theorem barvAct_eq (s : State) (cx : Cx) (key k d : Nat) : barvAct s cx key k d =
    let b := barOf s cx.g.ident.team key
    let r := barRelease (modGrp s cx.key (barvGroup cx d b.ph)) cx.key cx.f.mask b
    arrive r.1 cx.g.ident.team key k r.2 := rfl

/-- An arrival by BARV that leaves others due. -/
theorem barvAct_below {s : State} {cx : Cx} {key k d : Nat} (ht : HasTeam s cx)
    (h : k < (barOf s cx.g.ident.team key).remain) : ∃ (u : State) (rel : Clock),
      barvAct s cx key k d = setBar u cx.g.ident.team key
        { rearm { barOf s cx.g.ident.team key with arrived := rel } with remain := (barOf s cx.g.ident.team key).remain - k }
      ∧ u.teams = s.teams ∧ Still s u cx
      ∧ (grpOf u cx.key).regs = (grpOf (modGrp s cx.key (barvGroup cx d (barOf s cx.g.ident.team key).ph)) cx.key).regs
      ∧ (grpOf u cx.key).special = (grpOf s cx.key).special := by
  obtain ⟨⟨rel, hbar⟩, hteams, hstill, hregs, hspecial⟩ := barRelease_effects
    (modGrp s cx.key (barvGroup cx d (barOf s cx.g.ident.team key).ph)) cx (barOf s cx.g.ident.team key)
  have hkept := grpOf_modGrp_keeps (g := Group.special) (f := barvGroup cx d (barOf s cx.g.ident.team key).ph)
    (fun _ => rfl) s cx.key
  refine ⟨_, rel, ?_, hteams, still_trans (still_modGrp ..) hstill, hregs, hspecial.trans hkept⟩
  rw [barvAct_eq]
  dsimp only
  rw [hbar]
  refine (arrive_below (b := { barOf s cx.g.ident.team key with arrived := rel }) (by rw [TeamIn, hteams]; exact ht) h).trans ?_
  rw [(rearm_remain _).1]

theorem barPend_counts {s : State} {tm key : Nat} {b : Bar} {n : Int} (ht : TeamIn s tm) (hhi : b.pend + n ≤ 2 ^ 39 - 1)
    (hlo : -(2 ^ 39) ≤ b.pend + n) (hdue : b.remain ≠ 0 ∨ b.pend + n ≠ 0) :
    barPend s tm key b n = setBar s tm key { rearm b with pend := b.pend + n } := by
  obtain ⟨hr, -, hp, -, -⟩ := rearm_remain b
  rw [barPend]
  dsimp only
  rw [hp]
  have hin : ¬(decide (b.pend + n > 2 ^ 39 - 1) || decide (b.pend + n < -2 ^ 39)) = true := by
    simp only [Bool.or_eq_true, decide_eq_true_eq, not_or]
    omega
  refine (if_neg hin).trans (barCheck_stays fun hc => ?_)
  rw [barOf_setBar_same _ _ ht] at hc
  obtain ⟨-, hremain, hpend⟩ := hc
  exact hdue.elim (fun h => h (hr.symm.trans hremain)) fun h => h hpend

/-! ## The instructions -/

theorem barIs_rearm (b : Bar) (tm : BitVec 1) (rel : Clock) (k : Nat) :
    BarIs { rearm { b with teamScope := tm = 1, arrived := rel } with remain := k }
      { rearm b with remain := k, teamScope := tm = 1 } := by
  rw [BarIs, rearm, rearm]
  split <;> rfl

theorem barIs_rearm_pend (b : Bar) (tm : BitVec 1) (p : Int) :
    BarIs { rearm { b with teamScope := tm = 1 } with pend := p } { rearm b with pend := p, teamScope := tm = 1 } := by
  rw [BarIs, rearm, rearm]
  split <;> rfl

theorem barOf_putBar {s : State} {cx : Cx} (h : HasTeam s cx) (tm : BitVec 1) (n : BitVec 6) (b : Bar) :
    barOf (putBar s cx tm n b) cx.g.ident.team (namedBar s cx tm n) = b := barOf_setBar_same _ _ h

theorem hasTeam_putBar {s : State} {cx : Cx} (h : HasTeam s cx) (tm : BitVec 1) (n : BitVec 6) (b : Bar) :
    HasTeam (putBar s cx tm n b) cx := teamIn_setBar _ b h

/-- The effect of BEXP. -/
def bexpEffect (tm : BitVec 1) (n : BitVec 6) (count : Cx → Nat) (s : State) (cx : Cx) : State :=
  barPend (goPast 4 s cx) cx.g.ident.team (namedBar s cx tm n) { theBar s cx tm n with teamScope := tm = 1 } (count cx : Nat)

theorem expects_bexpOp {i : Instr} {st : BitVec 2} {n : BitVec 6} {tm : BitVec 1} {reads : List UniUse} {count : Regs → Nat}
    (he : ∀ s, exec i s = bexpOp st n tm reads count s) (hf : ∀ s cx, formOf i s cx = barForm st n reads [] s cx) :
    Expects i tm n fun cx => count cx.g.regs := by
  have hruns {s : State} {cx : Cx} (hfree : barFree s cx tm n) (hidle : (theBar s cx tm n).state ≠ .idle)
      (c : Ready i s cx) : exec i s = .next (done i s cx (bexpEffect tm n (fun cx => count cx.g.regs) s cx)) :=
    okWith he hf c ((if_neg (Bool.eq_false_iff.mp hfree)).trans (if_neg hidle))
  refine ⟨fun s cx c hfree hcount ht => ?counts, fun s cx c ⟨hfree, hidle⟩ => hruns hfree hidle c, ?idle, ?waits⟩
  case counts =>
    intro pend hhi hlo hdue
    have hidle : (theBar s cx tm n).state ≠ .idle := by
      obtain h | h := hcount <;> simp [h]
    have heffect : bexpEffect tm n (fun cx => count cx.g.regs) s cx = setBar (goPast 4 s cx) cx.g.ident.team (namedBar s cx tm n)
        { rearm { theBar s cx tm n with teamScope := tm = 1 } with pend := pend } :=
      barPend_counts (b := { theBar s cx tm n with teamScope := tm = 1 }) ht hhi hlo hdue
    refine ⟨_, hruns hfree hidle c, ?_, ?_, ?_, ?_⟩
    · rw [heffect]
      exact still_trans (still_trans (still_modGrp ..) (still_setBar ..)) (still_issued ..)
    · rw [heffect, Machine.done, theBar_issued (s := s) (e := goPast 4 s cx) _ ht rfl]
      exact barIs_rearm_pend ..
    · rw [heffect, Machine.done]
      refine (grpOf_issued_keeps (g := Group.regs) (fun _ _ _ _ _ => rfl) _ _ _ _).trans ?_
      refine (grpOf_modGrp_keeps (g := Group.regs) (f := advance 4 cx.ix) (fun _ => rfl) s cx.key).trans ?_
      rw [grpOf_issuing c.issuer]
    · rw [heffect, Machine.done]
      refine (grpOf_issued_keeps (g := Group.special) (fun _ _ _ _ _ => rfl) _ _ _ _).trans ?_
      refine (grpOf_modGrp_keeps (g := Group.special) (f := advance 4 cx.ix) (fun _ => rfl) s cx.key).trans ?_
      rw [grpOf_issuing c.issuer]
  case idle =>
    exact faultsIf_issueWith he hf fun s cx _ ⟨hfree, hidle⟩ => (if_neg (Bool.eq_false_iff.mp hfree)).trans (if_pos hidle)
  case waits => exact waitsIf_issueWith he hf fun s cx _ hfree => if_pos (Bool.not_eq_false _ ▸ hfree)

theorem barv_arrives {st : BitVec 2} {n : BitVec 6} {tm : BitVec 1} {d : BitVec 6} {k : BitVec 9} {s : State} {cx : Cx}
    (c : Ready (.barv st n tm d k) s cx) (hfree : barFree s cx tm n) (hnone : NoneParked cx)
    (hacc : accessesDone cx.g s.seq = true) (hidle : (theBar s cx tm n).state ≠ .idle) : exec (.barv st n tm d k) s
      = .next (done (.barv st n tm d k) s cx (barvAct (putBar s cx tm n { theBar s cx tm n with teamScope := tm = 1 }) cx
        (namedBar s cx tm n) (k.toNat + 1) d.toNat)) := by
  refine okWith (fun s => (rfl : execBarv st n tm d k s = _)) (fun _ _ => rfl) c ?_
  have hgo : ¬(barvAhead cx (namedBar s cx tm n) || cx.g.frags.any fun f => f.parked.isSome) = true := by
    rw [hfree, (noneParked_iff cx).mpr hnone]
    decide
  exact (if_neg hgo).trans ((if_pos hacc).trans (if_neg hidle))

theorem barAhead_or_parked {s : State} {cx : Cx} {tm : BitVec 1} {n : BitVec 6} (h : ¬ barFree s cx tm n ∨ ¬ NoneParked cx) :
    (barvAhead cx (namedBar s cx tm n) || cx.g.frags.any fun f => f.parked.isSome) = true := by
  rw [Bool.or_eq_true]
  exact h.imp (Bool.not_eq_false _).mp fun hp => (Bool.not_eq_false _).mp fun hn => hp ((noneParked_iff cx).mp hn)

theorem barFree_and_noneParked {s : State} {cx : Cx} {tm : BitVec 1} {n : BitVec 6} (hfree : barFree s cx tm n)
    (hnone : NoneParked cx) : ¬(barvAhead cx (namedBar s cx tm n) || cx.g.frags.any fun f => f.parked.isSome) = true := by
  rw [hfree, (noneParked_iff cx).mpr hnone]
  decide

/-- Settles O36: each instruction by the branches of its body, its barrier seen through `theBar_issued`. -/
theorem barrierResults : Obligations.BarrierResults := by
  refine ⟨fun st n tm k => ?binit, fun st n tm k => ?binitAgain, fun st n tm k => ?binitWrong,
    fun st n tm d k s cx c hfree hnone hacc hcount hk ht => ?barv, fun st n tm d k => ?barvRuns, fun st n tm d k => ?barvHolds,
    fun st n tm d k => ?barvIdle, fun st n tm a => ?bexp, fun st n tm i => ?bexpImm,
   
    fun st n tm a off => ?bwaitDone, fun st n tm a off => ?bwaitHolds, fun st n tm a off => ?bwaitIdle,
    fun st n tm a c => ?btry, fun st n tm a c => ?btryIdle, fun st n tm => ?binvIdle, fun st n tm => ?binv,
    fun st n tm => ?binvBusy, fun st n tm k d j a off c => ⟨?w1, ?w2, ?w3, ?w4, ?w5⟩, fun s cx c r => acquireClock_rest s cx c r⟩
  case binit =>
    exact runsStill_okWith (fun s => (rfl : execBinit st n tm k s = _)) (fun _ _ => rfl) fun s cx _ ⟨hfree, hidle⟩ =>
      ⟨(if_neg (Bool.eq_false_iff.mp hfree)).trans (if_pos hidle), still_trans (still_setBar ..) (still_modGrp ..)⟩
  case binitAgain =>
    refine runsStill_okWith (fun s => (rfl : execBinit st n tm k s = _)) (fun _ _ => rfl) fun s cx _ ⟨hfree, hst, hexp⟩ =>
      ⟨(if_neg (Bool.eq_false_iff.mp hfree)).trans ((if_neg ?_).trans (if_pos ?_)), still_modGrp ..⟩
    · obtain h | h := hst <;> exact fun hi => nomatch h.symm.trans hi
    · simpa only [Bool.and_eq_true, Bool.or_eq_true, decide_eq_true_eq] using ⟨hst, hexp⟩
  case binitWrong =>
    refine faultsIf_issueWith (fun s => (rfl : execBinit st n tm k s = _)) (fun _ _ => rfl) fun s cx _ ⟨hfree, hidle, hno⟩ =>
      (if_neg (Bool.eq_false_iff.mp hfree)).trans ((if_neg hidle).trans (if_neg ?_))
    rw [Bool.and_eq_true, Bool.or_eq_true, decide_eq_true_eq, decide_eq_true_eq, decide_eq_true_eq]
    exact hno
  case barv =>
    have hidle : (theBar s cx tm n).state ≠ .idle := by
      obtain h | h := hcount <;> simp [h]
    have hbar := barOf_putBar ht tm n { theBar s cx tm n with teamScope := tm = 1 }
    obtain ⟨u, rel, hact, hteams, hstill, hregs, hspecial⟩ := barvAct_below (d := d.toNat) (hasTeam_putBar ht tm n _)
      (k := k.toNat + 1) (by rw [hbar]; exact hk)
    rw [hbar] at hact hregs
    have hcores : (teamOf u cx.g.ident.team).cores = (teamOf s cx.g.ident.team).cores := by
      rw [teamOf, hteams]
      exact cores_setBar ..
    have hin : HasTeam u cx := by
      rw [HasTeam, hteams]
      exact hasTeam_putBar ht tm n _
    refine ⟨_, barv_arrives c hfree hnone hacc hidle, ?_, ?_, ?_, ?_⟩
    · rw [hact]
      exact still_trans (still_trans (still_setBar ..) (still_trans hstill (still_setBar ..))) (still_issued ..)
    · rw [hact, Machine.done, theBar_issued (s := s) _ hin hcores]
      exact barIs_rearm (theBar s cx tm n) tm rel _
    · rw [hact, Machine.done]
      refine (grpOf_issued_keeps (g := Group.regs) (fun _ _ _ _ _ => rfl) _ _ _ _).trans (hregs.trans ?_)
      have hg : grpOf (modGrp (putBar s cx tm n { theBar s cx tm n with teamScope := tm = 1 }) cx.key
          (barvGroup cx d.toNat (theBar s cx tm n).ph)) cx.key = barvGroup cx d.toNat (theBar s cx tm n).ph cx.g := by
        rw [grpOf, modGrp, tblGet, tblGet?_adj_same]
        exact congrArg (fun o => (o.map (barvGroup cx d.toNat (theBar s cx tm n).ph)).getD default) (issuing_some c.issuer).2.1
      exact congrArg Group.regs hg
    · rw [hact, Machine.done]
      refine (grpOf_issued_keeps (g := Group.special) (fun _ _ _ _ _ => rfl) _ _ _ _).trans (hspecial.trans ?_)
      exact congrArg Group.special (grpOf_issuing c.issuer)
  case barvRuns => exact fun s cx c ⟨hfree, hnone, hacc, hidle⟩ => barv_arrives c hfree hnone hacc hidle
  case barvHolds =>
    refine runsStill_okWith (fun s => (rfl : execBarv st n tm d k s = _)) (fun _ _ => rfl) fun s cx _ ⟨hfree, hnone, hacc⟩ =>
      ⟨(if_neg (barFree_and_noneParked hfree hnone)).trans (if_neg (Bool.eq_false_iff.mp hacc)), still_withGroup ..⟩
  case barvIdle =>
    exact faultsIf_issueWith (fun s => (rfl : execBarv st n tm d k s = _)) (fun _ _ => rfl)
      fun s cx _ ⟨hfree, hnone, hacc, hidle⟩ =>
        (if_neg (barFree_and_noneParked hfree hnone)).trans ((if_pos hacc).trans (if_pos hidle))
  case bexp =>
    exact expects_bexpOp (count := fun g => (readS g a.toNat).toNat) (fun s => (rfl : execBexp st n tm a s = _)) fun _ _ => rfl
  case bexpImm =>
    exact expects_bexpOp (count := fun _ => 16 * i.toNat) (fun s => (rfl : execBexpImm st n tm i s = _)) fun _ _ => rfl
  case bwaitDone =>
    simp only [← branch9_target]
    exact runsStill_okWith (fun s => (rfl : execBwait st n tm a off s = _)) (fun _ _ => rfl)
      fun s cx _ ⟨hfree, hnone, hidle, hdone⟩ =>
        ⟨(if_neg (barFree_and_noneParked hfree hnone)).trans ((if_neg hidle).trans (if_pos hdone)),
          still_trans (still_acquireClock ..) (still_modGrp ..)⟩
  case bwaitHolds =>
    simp only [← branch9_target]
    refine runsStill_okWith (fun s => (rfl : execBwait st n tm a off s = _)) (fun _ _ => rfl)
      fun s cx hi ⟨hfree, hnone, hidle, hdone⟩ =>
        ⟨(if_neg (barFree_and_noneParked hfree hnone)).trans ((if_neg hidle).trans ((if_neg (Bool.eq_false_iff.mp hdone)).trans ?_)),
          still_withGroup ..⟩
    exact congrArg Res.ok (modGrp_issuing hi _)
  case bwaitIdle =>
    exact faultsIf_issueWith (fun s => (rfl : execBwait st n tm a off s = _)) (fun _ _ => rfl) fun s cx _ ⟨hfree, hnone, hidle⟩ =>
      (if_neg (barFree_and_noneParked hfree hnone)).trans (if_pos hidle)
  case btry =>
    refine runsStill_okWith (fun s => (rfl : execBtry st n tm a c s = _)) (fun _ _ => rfl) fun s cx _ ⟨hfree, hidle⟩ =>
      ⟨(if_neg (Bool.eq_false_iff.mp hfree)).trans (if_neg hidle), still_trans ?_ (still_modGrp ..)⟩
    split
    · exact still_acquireClock ..
    · exact still_refl ..
  case btryIdle =>
    exact faultsIf_issueWith (fun s => (rfl : execBtry st n tm a c s = _)) (fun _ _ => rfl) fun s cx _ ⟨hfree, hidle⟩ =>
      (if_neg (Bool.eq_false_iff.mp hfree)).trans (if_pos hidle)
  case binvIdle =>
    exact runsStill_okWith (fun s => (rfl : execBinv st n tm s = _)) (fun _ _ => rfl) fun s cx _ ⟨hfree, hidle⟩ =>
      ⟨(if_neg (Bool.eq_false_iff.mp hfree)).trans (if_pos hidle), still_modGrp ..⟩
  case binv =>
    refine runsStill_okWith (fun s => (rfl : execBinv st n tm s = _)) (fun _ _ => rfl) fun s cx _ ⟨hfree, hidle, hwait, heng⟩ =>
      ⟨(if_neg (Bool.eq_false_iff.mp hfree)).trans ((if_neg hidle).trans (if_neg ?_)),
        still_trans (still_setBar ..) (still_modGrp ..)⟩
    rw [hwait, Bool.false_or, decide_eq_true_eq]
    exact not_not.mpr heng
  case binvBusy =>
    refine faultsIf_issueWith (fun s => (rfl : execBinv st n tm s = _)) (fun _ _ => rfl) fun s cx _ ⟨hfree, hidle, hbusy⟩ =>
      (if_neg (Bool.eq_false_iff.mp hfree)).trans ((if_neg hidle).trans (if_pos ?_))
    rw [Bool.or_eq_true, decide_eq_true_eq]
    exact hbusy
  case w1 =>
    exact waitsIf_issueWith (fun s => (rfl : execBinit st n tm k s = _)) (fun _ _ => rfl) fun s cx _ h =>
      if_pos ((Bool.not_eq_false _).mp h)
  case w2 =>
    exact waitsIf_issueWith (fun s => (rfl : execBarv st n tm d j s = _)) (fun _ _ => rfl) fun s cx _ h =>
      if_pos (barAhead_or_parked h)
  case w3 =>
    exact waitsIf_issueWith (fun s => (rfl : execBwait st n tm a off s = _)) (fun _ _ => rfl) fun s cx _ h =>
      if_pos (barAhead_or_parked h)
  case w4 =>
    exact waitsIf_issueWith (fun s => (rfl : execBtry st n tm a c s = _)) (fun _ _ => rfl) fun s cx _ h =>
      if_pos ((Bool.not_eq_false _).mp h)
  case w5 =>
    exact waitsIf_issueWith (fun s => (rfl : execBinv st n tm s = _)) (fun _ _ => rfl) fun s cx _ h =>
      if_pos ((Bool.not_eq_false _).mp h)

end Sys2Proof.Proofs

/-! PROOFS. The monitor instructions (R428, R429) and the feed queues (R144 to R149). -/

namespace Sys2Proof.Proofs

open Sys2Proof Sys2Proof.Machine Sys2Proof.Laws

/-! ## Monitors -/

theorem still_modIsl (s : State) (cx : Cx) (i : Nat) (f : Island → Island) (h : ∀ x, (f x).mem = x.mem) :
    Still s (modIsl s i f) cx :=
  ⟨⟨byteAt_of_mem rfl fun j => islOf_modIsl_keeps (g := fun x => x.mem.bytes) (fun x => congrArg _ (h x)) s i j,
    fun _ _ => rfl⟩, fun _ _ => rfl⟩

theorem still_modMonitor {s t : State} {cx : Cx} (h : Still s t cx) (i n : Nat) (f : Monitor → Monitor) :
    Still s (modMonitor t i n f) cx :=
  still_trans h (still_modIsl t cx i _ fun _ => rfl)

theorem foreignMonitor_iff (s : State) (cx : Cx) (n : Nat) : foreignMonitor s cx n = true ↔ privileged cx.g.ident = false
    ∧ (monitorOf s cx.g.ident.island n).src ≠ 0 ∧ (monitorOf s cx.g.ident.island n).owner ≠ cx.g.ident.ctx := by
  simp [foreignMonitor, and_assoc]

theorem bits_low_byte (w : Nat) : bits w 7 0 = w % 256 := by
  simp [bits]

section
variable {i : Instr} {st : BitVec 2} {uni : List UniUse} {n : Nat} {bad refused : Cx → Bool} {f : Cx → Monitor → Monitor}
  (he : ∀ s, exec i s = monc st uni n bad refused f s) (hf : ∀ s cx, formOf i s cx = ctlForm st uni)
include he hf

theorem runsStill_monc {cond : State → Cx → Prop}
    (hc : ∀ s cx, cond s cx → bad cx = false ∧ foreignMonitor s cx n = false ∧ refused cx = false) :
    RunsStill i cond fun s cx => modMonitor (goPast 4 s cx) cx.g.ident.island n (f cx) := by
  refine runsStill_ok he hf fun s cx _ h => ⟨?_, still_modMonitor (still_modGrp ..) ..⟩
  obtain ⟨hbad, hforeign, href⟩ := hc s cx h
  simp [hbad, hforeign, href, goPast]

theorem faultsIf_monc_bad : FaultsIf i (fun _ cx => bad cx = true) fun _ => { cls := 0x01, status := 2 } :=
  faultsIf_issue he hf fun _ _ _ h => if_pos h

theorem faultsIf_monc_refused {cond : State → Cx → Prop}
    (hc : ∀ s cx, cond s cx → bad cx = false ∧ (foreignMonitor s cx n = true ∨ refused cx = true)) :
    FaultsIf i cond fun _ => { cls := 0x11, status := 6 } := by
  refine faultsIf_issue he hf fun s cx _ h => ?_
  obtain ⟨hbad, href⟩ := hc s cx h
  exact (if_neg (by simp [hbad])).trans (if_pos (by simpa using href))
end

/-- Settles O44. -/
theorem monitorResults : Obligations.MonitorResults := by
  refine ⟨fun st d n f => ?read, fun st n a => ?configure, fun st n => ?clear, fun st n => ?release,
    fun st n => ⟨?clearForeign, ?releaseForeign⟩, fun st n a => ⟨?badWord, ?refused⟩, fun st d n f => ?readForeign,
    foreignMonitor_iff⟩
  case read =>
    refine runsStill_ok (fun s => rfl) (fun _ _ => rfl) fun s cx hi h => ?_
    refine ⟨(if_neg ?_).trans ?_, still_modGrp ..⟩
    · simp only [Bool.and_eq_true, Bool.not_eq_true', decide_eq_true_eq]
      rintro ⟨⟨hp, hown⟩, hnone⟩
      rcases h with h | h | h
      · simp [hp] at h
      · exact hown h
      · exact hnone h
    · rw [goPastWith, modGrp_issuing hi]
      rfl
  case configure =>
    refine runsStill_monc (fun _ => rfl) (fun _ _ => rfl) fun s cx h => ?_
    obtain ⟨hforeign, hbad, hsrc⟩ := h
    refine ⟨hbad, hforeign, ?_⟩
    simpa [bits_low_byte] using hsrc
  case clear => exact runsStill_monc (fun _ => rfl) (fun _ _ => rfl) fun _ _ h => ⟨rfl, h, rfl⟩
  case release => exact runsStill_monc (fun _ => rfl) (fun _ _ => rfl) fun _ _ h => ⟨rfl, h, rfl⟩
  case clearForeign => exact faultsIf_monc_refused (fun _ => rfl) (fun _ _ => rfl) fun _ _ h => ⟨rfl, .inl h⟩
  case releaseForeign => exact faultsIf_monc_refused (fun _ => rfl) (fun _ _ => rfl) fun _ _ h => ⟨rfl, .inl h⟩
  case badWord => exact faultsIf_monc_bad (fun _ => rfl) (fun _ _ => rfl)
  case refused =>
    refine faultsIf_monc_refused (fun _ => rfl) (fun _ _ => rfl) fun s cx h => ⟨h.1, h.2.imp id ?_⟩
    rintro ⟨hp, hsrc⟩
    simpa [bits_low_byte, hp] using hsrc
  case readForeign =>
    refine faultsIf_issue (fun _ => rfl) (fun _ _ => rfl) fun s cx _ h => if_pos ?_
    simpa [and_assoc] using h

/-! ## What moving a stream on leaves alone -/

/-- Nothing has changed but the groups, the islands and the mail of the collective engines. -/
def StreamWork (s t : State) : Prop :=
  t = { s with groups := t.groups, islands := t.islands, panel := { s.panel with mail := t.panel.mail } }

theorem streamWork_refl (s : State) : StreamWork s s := rfl

theorem streamWork_trans {s t u : State} (a : StreamWork s t) (b : StreamWork t u) : StreamWork s u := by
  unfold StreamWork at *
  rw [b, a]

theorem streamWork_foldl {α : Type} {f : State → α → State} (h : ∀ s x, StreamWork s (f s x)) (l : List α) (s : State) :
    StreamWork s (l.foldl f s) := by
  induction l generalizing s with
  | nil => rfl
  | cons x l ih => exact streamWork_trans (h s x) (ih _)

theorem streamWork_takeQ2 (s : State) (i k n : Nat) : StreamWork s (takeQ2 s i k n) :=
  streamWork_trans (t := modGrp s k _) rfl (streamWork_foldl (f := takeEntry i n) (fun _ _ => rfl) _ _)

theorem streamWork_sendDown (s : State) (i : Nat) (b : Bucket) (body : BucketBody) : StreamWork s (sendDown s i b body) :=
  streamWork_foldl (f := sendBody i b body) (fun _ _ => rfl) _ _

theorem streamWork_stepScales (s : State) (i n : Nat) : StreamWork s (stepScales s i n) := by
  rw [stepScales]
  split
  · rfl
  · split
    · rfl
    · dsimp only
      split
      · exact streamWork_trans (t := modBucket (modBucket s i n _) i n _) rfl (streamWork_sendDown ..)
      · rfl

theorem streamWork_takeResults (s : State) (i n : Nat) (b : Bucket) (l : List Word) :
    StreamWork s (takeResults s i n b l) :=
  streamWork_trans (t := modBucket s i n _) rfl
    (streamWork_trans (streamWork_sendDown _ i b (.result l)) (rfl : StreamWork _ (streamResults _ i n l)))

theorem streamWork_stepValues (s : State) (i n : Nat) : StreamWork s (stepValues s i n) := by
  rw [stepValues]
  split
  · rfl
  · dsimp only
    split
    · rfl
    · split
      · exact streamWork_trans (t := modBucket s i n _) rfl (streamWork_takeResults ..)
      · rfl

theorem streamWork_giveQ3 (f : Nat) (s : State) (i k n : Nat) : StreamWork s (giveQ3 f s i k n) := by
  induction f generalizing s with
  | zero => rfl
  | succ f ih =>
    rw [giveQ3]
    dsimp only
    split
    · split
      · exact streamWork_trans (t := modIsl (modGrp s k _) i _) rfl (ih _)
      · rfl
    · rfl

theorem streamWork_streamStep (s : State) (i k n : Nat) : StreamWork s (streamStep s i k n) :=
  streamWork_trans (streamWork_takeQ2 s i k n) (streamWork_trans
    (streamWork_trans (streamWork_stepScales _ i n) (streamWork_stepValues _ i n)) (streamWork_giveQ3 ..))

theorem streamWork_ownStream (s : State) (cx : Cx) : StreamWork s (ownStream s cx) := by
  rw [ownStream]
  split
  · exact streamWork_streamStep ..
  · rfl

theorem ptime_ownStream (s : State) (cx : Cx) : (ownStream s cx).panel.ptime = s.panel.ptime :=
  (congrArg (fun t : State => t.panel.ptime) (streamWork_ownStream s cx : _ = _) :)

/-! ## Feeds -/

theorem popInto_onlyV (e : FeedEntry) (d : BitVec 7) (m : BitVec 2) (cx : Cx) (g : Group) :
    OnlyV g.regs (popInto e d m cx g).regs d.toNat (fmtRegs m) (e.mask &&& cx.f.mask) :=
  onlyV_writeF ..

theorem popInto_value (e : FeedEntry) (d : BitVec 7) (m : BitVec 2) (cx : Cx) (g : Group) {l : Nat}
    (h : inMask (e.mask &&& cx.f.mask) l = true) :
    if m = 3 then readPair (popInto e d m cx g).regs d.toNat l = (e.vals.getD l 0).toNat
    else (readV (popInto e d m cx g).regs d.toNat l).toNat = (e.vals.getD l 0).toNat % 2 ^ 32 := by
  have hval := holds_writeF g.regs d.toNat m (fun l => ((e.vals.getD l 0).toNat, e.flgs.getD l 0)) h
  by_cases hm : m = 3
  · simp only [Holds, hm, decide_true, if_true] at hval ⊢
    exact hval.trans (Nat.mod_eq_of_lt (e.vals.getD l 0).isLt)
  · simp only [Holds, hm, decide_false, Bool.false_eq_true, if_false] at hval ⊢
    rw [popInto, hval, BitVec.toNat_ofNat]

theorem noStream_iff (cx : Cx) : (cx.g.hmode || cx.g.stream.isNone) = true ↔ cx.g.hmode = true ∨ cx.g.stream = none := by
  simp

theorem hasStream_iff (cx : Cx) : (cx.g.hmode || cx.g.stream.isNone) = false
    ↔ cx.g.hmode = false ∧ cx.g.stream.isSome = true := by
  cases cx.g.stream <;> simp

/-- An instruction that waits on the queue of a stream notes since when. -/
theorem exec_waitFeed {i : Instr} {fm : Form} {body : Cx → State → Res} {s t : State} {cx : Cx}
    (he : ∀ s, exec i s = issue fm body s) (hf : ∀ s cx, formOf i s cx = fm) (c : Ready i s cx)
    (hb : body cx s = waitFeed t cx) (ht : t.panel.ptime = s.panel.ptime) :
    exec i s = .next (modGrp t cx.key fun g => { g with frags := modNth g.frags cx.ix fun f =>
        { f with waiting := true, feedSince := f.feedSince.or (some s.panel.ptime) } }) := by
  have hclear : Clear fm s cx := hf s cx ▸ c
  rw [he, issue_clear hclear, hb, ← ht]
  rfl

/-- Settles O40. -/
theorem feedResults : Obligations.FeedResults := by
  refine ⟨fun st a b m => ?push0, fun st a b m => ?push2, fun st d m e rest => ?pop1, fun st d m e rest => ?pop3,
    fun e d m cx g => ⟨popInto_onlyV .., fun l hl => popInto_value e d m cx g hl⟩, fun st a b d m =>
    ⟨?push0Waits, ?push0Full, ?push2None, ?push2Waits, ?pop1Waits, ?pop1Empty, ?pop1Format, ?pop3None, ?pop3Format,
      ?pop3Waits⟩⟩
  case push0 =>
    exact runsStill_ok (fun _ => rfl) (fun _ _ => rfl) fun s cx _ h => ⟨if_pos h, ⟨⟨fun _ _ => rfl, fun _ _ => rfl⟩,
      (still_withGroup s cx _).2⟩⟩
  case push2 =>
    refine runsIf_issue (fun _ => rfl) (fun _ _ => rfl) fun s cx _ h => ?_
    obtain ⟨hmode, hstream, hroom⟩ := h
    refine (if_neg (ne_true_of_eq_false ((hasStream_iff cx).2 ⟨hmode, hstream⟩))).trans ?_
    simp [selWin, winNo, modWin, hmode, hroom, withGroup]
  case pop1 =>
    refine runsStill_ok (fun _ => rfl) (fun _ _ => rfl) fun s cx _ h => ⟨?_, still_withGroup ..⟩
    obtain ⟨hq, hm⟩ := h
    simp [popQ1, hq, hm, withGroup]
  case pop3 =>
    refine runsIf_issue (fun _ => rfl) (fun _ _ => rfl) fun s cx _ h => ?_
    obtain ⟨hmode, hstream, hq, hm⟩ := h
    refine (if_neg (ne_true_of_eq_false ((hasStream_iff cx).2 ⟨hmode, hstream⟩))).trans ?_
    simp [popQ3, hq, hm, withGroup]
  case push0Waits =>
    refine waitsIf_issue (fun _ => rfl) (fun _ _ => rfl) fun s cx _ h => ?_
    exact (if_neg (Nat.not_lt.2 h.1)).trans (if_neg (Nat.not_le.2 h.2))
  case push0Full =>
    refine faultsIf_issue (fun _ => rfl) (fun _ _ => rfl) fun s cx _ h => ?_
    exact (if_neg (Nat.not_lt.2 h.1)).trans (if_pos h.2)
  case push2None =>
    exact faultsIf_issue (fun _ => rfl) (fun _ _ => rfl) fun s cx _ h => if_pos ((noStream_iff cx).2 h)
  case push2Waits =>
    intro s cx c h
    refine exec_waitFeed (fun _ => rfl) (fun _ _ => rfl) c ?_ rfl
    obtain ⟨hstream, hfull⟩ := h
    have hmode : cx.g.hmode = false := eq_false_of_ne_true fun hmode => hstream (.inl hmode)
    refine (if_neg ((noStream_iff cx).not.2 hstream)).trans (if_neg (Nat.not_lt.2 ?_))
    simpa [selWin, hmode] using hfull
  case pop1Waits =>
    refine waitsIf_issue (fun _ => rfl) (fun _ _ => rfl) fun s cx _ h => ?_
    obtain ⟨hq, hidle⟩ := h
    simp only [popQ1, hq, if_true, Bool.and_eq_true, decide_eq_true_eq, hidle, if_false]
  case pop1Empty =>
    refine faultsIf_issue (fun _ => rfl) (fun _ _ => rfl) fun s cx _ h => ?_
    obtain ⟨hq, h0, ht⟩ := h
    simp [popQ1, hq, h0, ht, feedFault]
  case pop1Format =>
    refine faultsIf_issue (fun _ => rfl) (fun _ _ => rfl) fun s cx _ h => ?_
    obtain ⟨e, rest, hq, hm⟩ := h
    simp [popQ1, hq, hm, feedFault]
  case pop3None =>
    exact faultsIf_issue (fun _ => rfl) (fun _ _ => rfl) fun s cx _ h => if_pos ((noStream_iff cx).2 h)
  case pop3Format =>
    refine faultsIf_issue (fun _ => rfl) (fun _ _ => rfl) fun s cx _ h => ?_
    obtain ⟨hstream, e, rest, hq, hm⟩ := h
    refine (if_neg ((noStream_iff cx).not.2 hstream)).trans ?_
    simp [popQ3, hq, hm, feedFault]
  case pop3Waits =>
    intro s cx c hstream hq
    refine exec_waitFeed (fun _ => rfl) (fun _ _ => rfl) c ?_ (ptime_ownStream s cx)
    refine (if_neg ((noStream_iff cx).not.2 hstream)).trans ?_
    simp only [popQ3, hq]

end Sys2Proof.Proofs

/-! PROOFS. What a state's memories are: the view of them that most operations leave as it was, and the canonical form
that those which change them keep (log 2). -/

namespace Sys2Proof.Proofs

open Sys2Proof Sys2Proof.Machine Sys2Proof.Laws

/-! ## The view of the memories -/

/-- The memories of the machine: what each address reads, and every memory that stands in the state. -/
structure MemView where
  host : Memory
  island : Nat → Memory
  team : Nat → Memory
  islands : Set Memory
  /-- What engine operations keep of team memories. -/
  kept : Set Memory
  teams : Set Memory

/-- The view that three parts of the state give. -/
def viewOf (host : Memory) (islands : Tbl Island) (teams : Tbl Team) : MemView where
  host := host
  island i := (tblGet islands i).mem.bytes
  team t := (tblGet teams t).mem
  islands := { m | ∃ p ∈ islands, p.2.mem.bytes = m }
  kept := { m | ∃ p ∈ islands, ∃ q ∈ p.2.mem.engines, ∃ dead, q.2.own = some (m, dead) }
  teams := { m | ∃ p ∈ teams, p.2.mem = m }

def memView (s : State) : MemView := viewOf s.hostMem s.islands s.teams

theorem memoryOk_iff (s : State) : MemoryOk s ↔ (memView s).host.wf = true ∧ (∀ m ∈ (memView s).islands, m.wf = true)
    ∧ (∀ m ∈ (memView s).kept, m.wf = true) ∧ ∀ m ∈ (memView s).teams, m.wf = true := by
  constructor
  · rintro ⟨hh, hi, ht⟩
    refine ⟨hh, ?_, ?_, ?_⟩
    · rintro m ⟨p, hp, rfl⟩
      exact (hi p hp).1
    · rintro m ⟨p, hp, q, hq, dead, ho⟩
      exact (hi p hp).2 q hq _ ho
    · rintro m ⟨p, hp, rfl⟩
      exact ht p hp
  · rintro ⟨hh, hi, hk, ht⟩
    exact ⟨hh, fun p hp => ⟨hi _ ⟨p, hp, rfl⟩, fun q hq x hx => hk _ ⟨p, hp, q, hq, x.2, hx⟩⟩, fun p hp => ht _ ⟨p, hp, rfl⟩⟩

theorem memoryOk_of_view {s t : State} (ok : MemoryOk s) (h : memView t = memView s) : MemoryOk t := by
  rw [memoryOk_iff, h, ← memoryOk_iff]
  exact ok

theorem sameMemory_of_view {s t : State} (h : memView t = memView s) : SameMemory s t := by
  refine ⟨byteAt_of_mem (congrArg MemView.host h) fun i => congrFun (congrArg MemView.island h) i, fun tm a => ?_⟩
  exact congrArg (memGet · a) (congrFun (congrArg MemView.team h) tm)

/-! ## Tables -/

/-- Entries of a table changed so that what g reads of them stays. -/
theorem tblGet_adj_keeps {α β : Type} [Inhabited α] {g : α → β} {f : α → α} (h : ∀ x, g (f x) = g x) (t : Tbl α) (k j : Nat) :
    g (tblGet (tblAdj t k f) j) = g (tblGet t j) := by
  by_cases hj : j = k
  · subst hj
    rw [tblGet, tblGet?_adj_same, tblGet]
    cases tblGet? t j with
    | none => rfl
    | some x => exact h x
  · rw [tblGet, tblGet?_adj_other _ _ hj, tblGet]

theorem mem_tblSet_of_mem {α : Type} {t : Tbl α} {k : Nat} {v : α} {p : Nat × α} (h : p ∈ t) (hk : tblGet? t k ≠ some p.2) :
    p ∈ tblSet t k v := by
  induction t with
  | nil => cases h
  | cons q t ih =>
    obtain ⟨k', v'⟩ := q
    unfold tblSet
    split
    · exact List.mem_cons_of_mem _ h
    · split
      next hkk =>
        rcases List.mem_cons.1 h with rfl | h
        · exact absurd (by simp [tblGet?, hkk]) hk
        · exact List.mem_cons_of_mem _ h
      next hkk =>
        rcases List.mem_cons.1 h with rfl | h
        · exact List.mem_cons_self
        · refine List.mem_cons_of_mem _ (ih h ?_)
          rwa [tblGet?, if_neg (Ne.symm hkk)] at hk

/-- What g reads of a table's entries is the same set after a change that keeps it. -/
theorem exists_adj_iff {α : Type} {P : α → Prop} {f : α → α} (h : ∀ x, P (f x) ↔ P x) (t : Tbl α) (k : Nat) :
    (∃ p ∈ tblAdj t k f, P p.2) ↔ ∃ p ∈ t, P p.2 := by
  unfold tblAdj
  cases hk : tblGet? t k with
  | none => rfl
  | some v =>
    constructor
    · rintro ⟨p, hp, hP⟩
      rcases mem_tblSet hp with rfl | hp
      · exact ⟨_, mem_of_tblGet? hk, (h v).1 hP⟩
      · exact ⟨p, hp, hP⟩
    · rintro ⟨p, hp, hP⟩
      by_cases hv : tblGet? t k = some p.2
      · refine ⟨(k, f v), mem_of_tblGet? (tblGet?_set_same ..), (h v).2 ?_⟩
        rw [hk] at hv
        rwa [Option.some.inj hv]
      · exact ⟨p, mem_tblSet_of_mem hp hv, hP⟩

/-! ## The operations of the state -/

theorem viewOf_adjIslands {f : Island → Island} (hb : ∀ x, (f x).mem.bytes = x.mem.bytes)
    (he : ∀ x, (f x).mem.engines = x.mem.engines) (host : Memory) (islands : Tbl Island) (teams : Tbl Team) (i : Nat) :
    viewOf host (tblAdj islands i f) teams = viewOf host islands teams := by
  have hi : (fun j => (tblGet (tblAdj islands i f) j).mem.bytes) = fun j => (tblGet islands j).mem.bytes :=
    funext fun j => tblGet_adj_keeps (g := fun x : Island => x.mem.bytes) hb islands i j
  have hs : { m | ∃ p ∈ tblAdj islands i f, p.2.mem.bytes = m } = { m | ∃ p ∈ islands, p.2.mem.bytes = m } :=
    Set.ext fun m => exists_adj_iff (P := fun x : Island => x.mem.bytes = m) (f := f) (fun x => by rw [hb]) islands i
  have hk : { m | ∃ p ∈ tblAdj islands i f, ∃ q ∈ p.2.mem.engines, ∃ dead, q.2.own = some (m, dead) }
      = { m | ∃ p ∈ islands, ∃ q ∈ p.2.mem.engines, ∃ dead, q.2.own = some (m, dead) } :=
    Set.ext fun m => exists_adj_iff (P := fun x : Island => ∃ q ∈ x.mem.engines, ∃ dead, q.2.own = some (m, dead))
      (f := f) (fun x => by rw [he]) islands i
  rw [viewOf, hi, hs, hk, viewOf]

theorem viewOf_adjTeams {f : Team → Team} (h : ∀ x, (f x).mem = x.mem) (host : Memory) (islands : Tbl Island)
    (teams : Tbl Team) (t : Nat) : viewOf host islands (tblAdj teams t f) = viewOf host islands teams := by
  have ht : (fun j => (tblGet (tblAdj teams t f) j).mem) = fun j => (tblGet teams j).mem :=
    funext fun j => tblGet_adj_keeps (g := Team.mem) h teams t j
  have hs : { m | ∃ p ∈ tblAdj teams t f, p.2.mem = m } = { m | ∃ p ∈ teams, p.2.mem = m } :=
    Set.ext fun m => exists_adj_iff (P := fun x : Team => x.mem = m) (f := f) (fun x => by rw [h]) teams t
  rw [viewOf, ht, hs, viewOf]

/-- A state written out field by field, as a record update leaves it. -/
@[simp] theorem memView_mk (agenda : List Instr) (tick seq : Nat) (cur : Option Issuer) (islands : Tbl Island)
    (groups : Tbl Group) (teams : Tbl Team) (panel : Panel) (host : Memory) (poison : List Nat) (spots : Tbl Spot)
    (propagate : List (Nat × Nat × Option FaultedBy)) :
    memView ⟨agenda, tick, seq, cur, islands, groups, teams, panel, host, poison, spots, propagate⟩
      = viewOf host islands teams := by
  simp only [memView]

@[simp] theorem viewOf_state (s : State) : viewOf s.hostMem s.islands s.teams = memView s := by
  simp only [memView]

@[simp] theorem memView_setGrp (s : State) (k : Nat) (g : Group) : memView (setGrp s k g) = memView s := by
  simp [setGrp]

@[simp] theorem memView_modGrp (s : State) (k : Nat) (f : Group → Group) : memView (modGrp s k f) = memView s := by
  simp [modGrp]

@[simp] theorem memView_withGroup (s : State) (cx : Cx) (g : Group) : memView (withGroup s cx g) = memView s := by
  simp [withGroup]

@[simp] theorem memView_wakeAll (s : State) : memView (wakeAll s) = memView s := by
  simp [wakeAll]

/-- What an island's memory part holds of memories. -/
def memPart (m : IslandMem) : Memory × Tbl EngineOp := (m.bytes, m.engines)

/-- An island's memory part written out field by field, as a record update leaves it. -/
@[simp] theorem memPart_mk (bytes : Memory) (poison : List Nat) (objBase : Nat) (ctxBase : Nat) (frqBase : Nat) (frqHead :
    Nat) (frqTail : Nat) (frqWait : List (List DWord)) (nextToken : Nat) (parks : Tbl Park) (tlb : List TlbEntry) (vct :
    List VctEntry) (vcs : Tbl Vc) (failed : List Nat) (bankErrors : List (Nat × Option Nat × Nat)) (sectors : Tbl Sector)
    (fills : Nat) (trees : Tbl Nat) (home : Tbl Home) (ptr : Tbl Nat) (ticket : Nat) (locks : List RangeLock) (lockQueue :
    List (Nat × Nat × VAddr)) (pins : List Pin) (engines : Tbl EngineOp) :
    memPart ⟨bytes, poison, objBase, ctxBase, frqBase, frqHead, frqTail, frqWait, nextToken, parks, tlb, vct, vcs,
      failed, bankErrors, sectors, fills, trees, home, ptr, ticket, locks, lockQueue, pins, engines⟩ = (bytes,
      engines) := rfl

@[simp] theorem memPart_eta (m : IslandMem) : (m.bytes, m.engines) = memPart m := by
  simp only [memPart]

@[simp] theorem memView_modIsl {f : Island → Island} (h : ∀ x, memPart (f x).mem = memPart x.mem) (s : State) (i : Nat) :
    memView (modIsl s i f) = memView s :=
  viewOf_adjIslands (fun x => congrArg Prod.fst (h x)) (fun x => congrArg Prod.snd (h x)) ..

@[simp] theorem memView_modMem {f : IslandMem → IslandMem} (h : ∀ x, memPart (f x) = memPart x) (s : State) (i : Nat) :
    memView (modMem s i f) = memView s :=
  memView_modIsl (fun x => h x.mem) s i

/-- The islands of a state changed so that no memory does. -/
@[simp] theorem viewOf_modIsl {f : Island → Island} (h : ∀ x, memPart (f x).mem = memPart x.mem) (s : State) (i : Nat)
    (host : Memory) (teams : Tbl Team) : viewOf host (modIsl s i f).islands teams = viewOf host s.islands teams :=
  viewOf_adjIslands (fun x => congrArg Prod.fst (h x)) (fun x => congrArg Prod.snd (h x)) ..

@[simp] theorem memView_modCtx (s : State) (i c : Nat) (f : Context → Context) : memView (modCtx s i c f) = memView s :=
  memView_modIsl (f := fun x => { x with ctxs := tblAdj x.ctxs c f }) (fun _ => rfl) s i

@[simp] theorem memView_modTeam {f : Team → Team} (h : ∀ x, (f x).mem = x.mem) (s : State) (t : Nat) :
    memView (modTeam s t f) = memView s :=
  viewOf_adjTeams h ..

@[simp] theorem memView_foldl {α : Type} {f : State → α → State} (h : ∀ s x, memView (f s x) = memView s) (l : List α) (s : State) :
    memView (l.foldl f s) = memView s := by
  induction l generalizing s with
  | nil => rfl
  | cons x l ih => exact (ih _).trans (h s x)

/-! ## Changes of memory that keep the form -/

theorem forall_adj {α : Type} {P : α → Prop} {f : α → α} {t : Tbl α} {k : Nat} (h : ∀ p ∈ t, P p.2) (hf : ∀ x, P x → P (f x)) :
    ∀ p ∈ tblAdj t k f, P p.2 := by
  unfold tblAdj
  cases hk : tblGet? t k with
  | none => exact h
  | some v =>
    intro p hp
    rcases mem_tblSet hp with rfl | hp
    · exact hf v (h _ (mem_of_tblGet? hk))
    · exact h p hp

theorem memoryOk_modIsl {s : State} {f : Island → Island} (i : Nat) (ok : MemoryOk s) (hf : ∀ x, IslandOk x → IslandOk (f x)) :
    MemoryOk (modIsl s i f) :=
  ⟨ok.host, forall_adj ok.islands hf, ok.teams⟩

/-- What an island's memory must be, of its memory part alone. -/
def MemPartOk (m : IslandMem) : Prop := m.bytes.wf = true ∧ ∀ p ∈ m.engines, EngineOk p.2

theorem memoryOk_modMem {s : State} {f : IslandMem → IslandMem} (i : Nat) (ok : MemoryOk s)
    (hf : ∀ m, MemPartOk m → MemPartOk (f m)) : MemoryOk (modMem s i f) :=
  memoryOk_modIsl i ok fun x hx => hf x.mem hx

theorem memoryOk_modTeam {s : State} {f : Team → Team} (t : Nat) (ok : MemoryOk s) (hf : ∀ x, TeamOk x → TeamOk (f x)) :
    MemoryOk (modTeam s t f) :=
  ⟨ok.host, ok.islands, forall_adj ok.teams hf⟩

theorem memoryOk_foldl {α : Type} {f : State → α → State} (h : ∀ s x, MemoryOk s → MemoryOk (f s x)) (l : List α) {s : State}
    (ok : MemoryOk s) : MemoryOk (l.foldl f s) := by
  induction l generalizing s with
  | nil => exact ok
  | cons x l ih => exact ih (h s x ok)

theorem memoryOk_islOf {s : State} (ok : MemoryOk s) (i : Nat) : IslandOk (islOf s i) := by
  rw [islOf, tblGet]
  cases h : tblGet? s.islands i with
  | none => exact ⟨rfl, fun _ hp => absurd hp List.not_mem_nil⟩
  | some x => exact ok.islands _ (mem_of_tblGet? h)

theorem memoryOk_teamOf {s : State} (ok : MemoryOk s) (t : Nat) : TeamOk (teamOf s t) := by
  rw [teamOf, tblGet]
  cases h : tblGet? s.teams t with
  | none => exact rfl
  | some x => exact ok.teams _ (mem_of_tblGet? h)

/-! ## The ring, terminations, handlers -/

@[simp] theorem memView_sampleCtx (s : State) (i src c v : Nat) : memView (sampleCtx s i src c v) = memView s := by
  rw [sampleCtx]
  split <;> simp

@[simp] theorem memView_sampleWaits (s : State) (i src c n : Nat) : memView (sampleWaits s i src c n) = memView s := by
  induction n generalizing s with
  | zero => rfl
  | succ n ih => exact (ih _).trans (memView_sampleCtx ..)

@[simp] theorem memView_noteSite (s : State) (i : Nat) : memView (noteSite s i) = memView s := by
  simp [noteSite]

@[simp] theorem memView_endWork (s : State) (i c : Nat) : memView (endWork s i c) = memView s := by
  simp [endWork]

@[simp] theorem memPart_busyEnds (c : Nat) (x : Island) : memPart (busyEnds c x).mem = memPart x.mem := by
  rw [busyEnds]
  split <;> rfl

theorem memPartOk_frqWrite {m : IslandMem} (ws : List DWord) (h : MemPartOk m) : MemPartOk (frqWrite m ws) :=
  ⟨memPut_wf _ _ h.1, h.2⟩

theorem memPartOk_frqAdmit (n : Nat) {m : IslandMem} (h : MemPartOk m) : MemPartOk (frqAdmit n m) := by
  induction n generalizing m with
  | zero => exact h
  | succ n ih =>
    rw [frqAdmit]
    split
    · exact h
    · split
      · exact ih (memPartOk_frqWrite _ h)
      · exact h

theorem memoryOk_enqueueRecord {s : State} (i : Nat) (ws : List DWord) (ok : MemoryOk s) : MemoryOk (enqueueRecord s i ws) := by
  refine memoryOk_modMem i ok fun m hm => ?_
  split
  · exact memPartOk_frqWrite ws hm
  · exact hm

theorem engineOk_ownTeam {s : State} (ok : MemoryOk s) (i c : Nat) {o : EngineOp} (h : EngineOk o) : EngineOk (ownTeam s i c o) := by
  simp only [ownTeam]
  split
  · intro x hx
    rw [← Option.some.inj hx]
    exact memoryOk_teamOf ok o.team
  · exact h

theorem memoryOk_discardGroups {s : State} (i c : Nat) (ok : MemoryOk s) : MemoryOk (discardGroups s i c) := by
  have hown : MemoryOk (modMem s i fun m => { m with engines := m.engines.map fun p => (p.1, ownTeam s i c p.2) }) := by
    refine memoryOk_modMem i ok fun m hm => ⟨hm.1, fun p hp => ?_⟩
    obtain ⟨q, hq, rfl⟩ := List.mem_map.1 hp
    exact engineOk_ownTeam ok i c (hm.2 q hq)
  exact ⟨hown.host, hown.islands, fun p hp => hown.teams p (List.mem_of_mem_filter hp)⟩

theorem memoryOk_terminateHere {s : State} (i c : Nat) (ok : MemoryOk s) : MemoryOk (terminateHere s i c) := by
  refine memoryOk_of_view (memoryOk_discardGroups i c ok) ?_
  simp [terminateHere]

theorem memoryOk_terminateCtx {s : State} (i c : Nat) (ok : MemoryOk s) : MemoryOk (terminateCtx s i c) :=
  memoryOk_of_view (memoryOk_terminateHere i c ok) rfl

theorem memoryOk_escalate {s : State} (k : Nat) (g : Group) (kind : Nat) (cause : DWord) (pc : VAddr) (mask : Mask)
    (ok : MemoryOk s) : MemoryOk (escalate s k g kind cause pc mask) :=
  memoryOk_terminateCtx _ _ (memoryOk_enqueueRecord _ _ ok)

theorem memoryOk_deliverReq {s : State} (k : Nat) (r : TrapReq) (ok : MemoryOk s) : MemoryOk (deliverReq s k r) := by
  simp only [deliverReq]
  split
  · exact memoryOk_escalate _ _ _ _ _ _ ok
  · split
    · exact ok
    · split
      · exact memoryOk_escalate _ _ _ _ _ _ ok
      · split <;> exact memoryOk_of_view ok rfl

theorem memoryOk_deliver {s : State} (k : Nat) (cause : DWord) (tspc : VAddr) (mask : Mask) (ok : MemoryOk s) :
    MemoryOk (deliver s k cause tspc mask) :=
  memoryOk_deliverReq _ _ ok

theorem memoryOk_blame {s : State} (k j : Nat) (cause : DWord) (ok : MemoryOk s) : MemoryOk (blame s k j cause) := by
  simp only [blame]
  split
  · exact memoryOk_of_view ok rfl
  · exact memoryOk_deliver _ _ _ _ ok

theorem memoryOk_takeFault {s : State} (cx : Cx) (c : Cause) (ok : MemoryOk s) : MemoryOk (takeFault s cx c) :=
  memoryOk_deliver _ _ _ _ ok

@[simp] theorem memView_bookAll (fm : Form) (cx : Cx) (t : Nat) (s : State) : memView (bookAll fm cx t s) = memView s := by
  simp only [bookAll]
  split <;> simp

/-- What a body of an instruction must keep, for the instruction to keep the form. -/
def ResOk : Res → Prop
  | .ok s => MemoryOk s
  | .flt _ => True
  | .fltAt s _ => MemoryOk s
  | .wait => True
  | .waitAt s => MemoryOk s
  | .out s => MemoryOk s

/-- What an instruction or event answers keeps the form. -/
def OutOk (o : Out) : Prop := ∀ t, o = .next t → MemoryOk t

theorem outOk_next {t : State} (h : MemoryOk t) : OutOk (.next t) := by
  rintro _ ⟨⟩
  exact h

theorem outOk_issue {fm : Form} {body : Cx → State → Res} {s : State} (ok : MemoryOk s)
    (hb : ∀ cx, ResOk (body cx s)) : OutOk (issue fm body s) := by
  rw [issue]
  split
  · rintro t ⟨⟩
  · next cx _ =>
    have hres := hb cx
    split
    · exact outOk_next (memoryOk_takeFault _ _ ok)
    · exact outOk_next (memoryOk_of_view ok rfl)
    · split <;> rename_i hbody <;> rw [hbody] at hres
      · exact outOk_next (memoryOk_of_view hres (memView_bookAll ..))
      · exact outOk_next (memoryOk_takeFault _ _ ok)
      · exact outOk_next (memoryOk_takeFault _ _ hres)
      · exact outOk_next (memoryOk_of_view ok rfl)
      · exact outOk_next (memoryOk_of_view hres rfl)
      · exact outOk_next hres

theorem outOk_issueWith {mk : State → Cx → Form} {body : Cx → State → Res} {s : State} (ok : MemoryOk s)
    (hb : ∀ cx, ResOk (body cx s)) : OutOk (issueWith mk body s) := by
  rw [issueWith]
  split
  · rintro t ⟨⟩
  · exact outOk_issue ok hb

/-- An instruction whose body, where it completes, leaves the memories as they were. -/
theorem resOk_of_view {r : Res} {s : State} (ok : MemoryOk s)
    (h : match r with
      | .ok t | .fltAt t _ | .waitAt t | .out t => memView t = memView s
      | .flt _ | .wait => True) : ResOk r := by
  cases r with
  | ok t => exact memoryOk_of_view ok h
  | fltAt t c => exact memoryOk_of_view ok h
  | waitAt t => exact memoryOk_of_view ok h
  | out t => exact memoryOk_of_view ok h
  | flt c => trivial
  | wait => trivial

end Sys2Proof.Proofs

/-! PROOFS. What the operations of an access change: its group's record of it, and its own island's memory (R298). -/

namespace Sys2Proof.Proofs

open Sys2Proof Sys2Proof.Machine Sys2Proof.Laws

/-! ## Changes of the memory part of one island, and of host memory -/

/-- Nothing has changed but the memory part of one island and host memory. -/
structure OwnMem (isl : Nat) (s t : State) : Prop where
  outside : t = { s with islands := t.islands, hostMem := t.hostMem, hostPoison := t.hostPoison }
  elsewhere : ∀ i, i ≠ isl → islOf t i = islOf s i
  island : ∀ i, { islOf t i with mem := {} } = { islOf s i with mem := {} }
  present : (tblGet? t.islands isl).isSome = (tblGet? s.islands isl).isSome

theorem ownMem_refl (isl : Nat) (s : State) : OwnMem isl s s := ⟨rfl, fun _ _ => rfl, fun _ => rfl, rfl⟩

theorem ownMem_trans {isl : Nat} {s t u : State} (a : OwnMem isl s t) (b : OwnMem isl t u) : OwnMem isl s u where
  outside := by rw [b.outside, a.outside]
  elsewhere i hi := (b.elsewhere i hi).trans (a.elsewhere i hi)
  island i := (b.island i).trans (a.island i)
  present := b.present.trans a.present

theorem present_modIsl (s : State) (i j : Nat) (f : Island → Island) :
    (tblGet? (modIsl s i f).islands j).isSome = (tblGet? s.islands j).isSome := by
  by_cases hj : j = i
  · subst hj
    rw [modIsl, tblGet?_adj_same]
    cases tblGet? s.islands j <;> rfl
  · rw [modIsl, tblGet?_adj_other _ _ hj]

theorem ownMem_modMem (s : State) (i : Nat) (f : IslandMem → IslandMem) : OwnMem i s (modMem s i f) where
  outside := rfl
  elsewhere _ hj := islOf_modIsl_other s _ hj
  island _ := islOf_modIsl_keeps (g := fun x => { x with mem := {} }) (f := fun x => { x with mem := f x.mem }) (fun _ => rfl) s i _
  present := present_modIsl ..

theorem ownMem_foldl {α : Type} {isl : Nat} {f : State → α → State} (h : ∀ s x, OwnMem isl s (f s x)) (l : List α) (s : State) :
    OwnMem isl s (l.foldl f s) := by
  induction l generalizing s with
  | nil => exact ownMem_refl ..
  | cons x l ih => exact ownMem_trans (h s x) (ih _)

theorem ownMem_host {isl : Nat} {s t : State} (h : t = { s with hostMem := t.hostMem, hostPoison := t.hostPoison }) :
    OwnMem isl s t := by
  have hi : t.islands = s.islands := by rw [h]
  refine ⟨?_, fun i _ => ?_, fun i => ?_, ?_⟩
  · rw [hi]
    exact h
  · rw [islOf, hi, islOf]
  · rw [islOf, hi, islOf]
  · rw [hi]

theorem ownMem_physPut (s : State) (i p : Nat) (bs : List Byte) : OwnMem i s (physPut s i p bs) := by
  rw [physPut]
  split
  · exact ownMem_host rfl
  · exact ownMem_modMem ..

theorem ownMem_clearMarks (s : State) (i : Nat) (qs : List Nat) : OwnMem i s (clearMarks s i qs) := by
  have hhost : OwnMem i s { s with hostPoison := s.hostPoison.filter fun q => !qs.contains q } := ownMem_host rfl
  simp only [clearMarks]
  exact ownMem_trans hhost (ownMem_modMem ..)

/-! ## Translations -/

theorem ownMem_setEntryBit (s : State) (i a b : Nat) : OwnMem i s (setEntryBit s i a b) := by
  simp only [setEntryBit]
  split
  · exact ownMem_refl ..
  · exact ownMem_modMem ..

theorem ownMem_setAccessed (s : State) (i : Nat) (x : WalkEnd) : OwnMem i s (setAccessed s i x) := by
  cases x with
  | leaf e a lvl => exact ownMem_setEntryBit ..
  | page st lvl => exact ownMem_refl ..

theorem ownMem_walkHeld (s : State) (i c va : Nat) (acc : Acc) (priv : Bool) (salt : Nat) :
    OwnMem i s (walkHeld s i c va acc priv salt).1 := by
  simp only [walkHeld]
  refine ownMem_trans ?_ (ownMem_modMem ..)
  split
  · exact ownMem_setAccessed ..
  · exact ownMem_refl ..

theorem ownMem_addrOf (s : State) (i c : Nat) (priv : Bool) (t : TReg) (o : Nat) (acc : Acc) (salt : Nat) :
    OwnMem i s (addrOf s i c priv t o acc salt).1 := by
  rw [addrOf]
  split
  · exact ownMem_refl ..
  · split
    · exact ownMem_refl ..
    · split
      · exact ownMem_refl ..
      · exact ownMem_walkHeld ..

theorem ownMem_setDirty (s : State) (i phys : Nat) (d : Option DirtyRef) : OwnMem i s (setDirty s i phys d) := by
  cases d with
  | none => exact ownMem_refl ..
  | some d =>
    simp only [setDirty]
    split
    · exact ownMem_setEntryBit ..
    · have hwalk := ownMem_walkHeld s i d.ctx d.va .write true 0
      split
      · split
        · exact ownMem_trans hwalk (ownMem_setEntryBit ..)
        · exact hwalk
      · exact hwalk

theorem ownMem_vctEntry (s : State) (i c vcx salt : Nat) : OwnMem i s (vctEntry s i c vcx salt).1 := by
  simp only [vctEntry]
  exact ownMem_modMem ..

theorem ownMem_translateAll (i c : Nat) (priv : Bool) (acc : Acc) (s : State) (rs : List Req) :
    OwnMem i s (translateAll i c priv acc s rs).1 := by
  induction rs generalizing s with
  | nil => exact ownMem_refl ..
  | cons r rs ih => exact ownMem_trans (ownMem_addrOf ..) (ih _)

theorem ownMem_vcAll (i c : Nat) (wr : Bool) (s : State) (hs : List Hit) : OwnMem i s (vcAll i c wr s hs).1 := by
  induction hs generalizing s with
  | nil => exact ownMem_refl ..
  | cons h hs ih => exact ownMem_trans (ownMem_vctEntry ..) (ih _)

/-- The state that the checks of an access leave. -/
def stateOf : Checked → State
  | .fault s _ => s
  | .wait s => s
  | .go s _ _ => s

/-- The states that the checks of R298 can leave: as it was, after the translations, or after the look at the VC table. -/
theorem stateOf_checkGlobal (s : State) (cx : Cx) (w : Want) (rs : List Req) :
    let t := translateAll cx.g.ident.island cx.g.ident.ctx (privileged cx.g.ident) w.acc s rs
    let v := vcAll cx.g.ident.island cx.g.ident.ctx w.acc.writes t.1 (hitsOf t.2)
    stateOf (checkGlobal s cx w rs) = s ∨ stateOf (checkGlobal s cx w rs) = t.1 ∨ stateOf (checkGlobal s cx w rs) = v.1 := by
  simp only [checkGlobal]
  split
  · exact .inl rfl
  · split
    · exact .inr (.inl rfl)
    · refine .inr (.inr ?_)
      split
      · rfl
      · split
        · rfl
        · split
          · rfl
          · generalize (if w.q = 3 then (none : Option Cause) else _) = race
            cases race <;> rfl

theorem ownMem_checkGlobal (s : State) (cx : Cx) (w : Want) (rs : List Req) :
    OwnMem cx.g.ident.island s (stateOf (checkGlobal s cx w rs)) := by
  have htrans := ownMem_translateAll cx.g.ident.island cx.g.ident.ctx (privileged cx.g.ident) w.acc s rs
  rcases stateOf_checkGlobal s cx w rs with h | h | h <;> rw [h]
  · exact ownMem_refl ..
  · exact htrans
  · exact ownMem_trans htrans (ownMem_vcAll ..)

theorem ownMem_passes {s t : State} {cx : Cx} {w : Want} {rs : List Req} {hs : List Hit} (h : Passes s t cx w rs hs) :
    OwnMem cx.g.ident.island s t := by
  have hown := ownMem_checkGlobal s cx w rs
  rwa [h.1] at hown

/-! ## Caches, tickets, stores -/

theorem ownMem_reachHome (cx : Cx) (q : BitVec 2) (act : HomeAct) (h : Hit) (s : State) :
    OwnMem cx.g.ident.island s (reachHome cx q act h s) := by
  simp only [reachHome]
  exact ownMem_modMem ..

theorem ownMem_storeHit (i : Nat) (h : Hit) (bs : List Byte) (s : State) : OwnMem i s (storeHit i h bs s) := by
  have hput := ownMem_trans (ownMem_setDirty s i h.loc.phys h.loc.dirtyAt) (ownMem_physPut _ i h.loc.phys bs)
  simp only [storeHit]
  split
  · exact ownMem_trans hput (ownMem_clearMarks ..)
  · exact hput

theorem ownMem_takeTickets (s : State) (i n : Nat) (sc : BitVec 1) : OwnMem i s (takeTickets s i n sc) := by
  rw [takeTickets]
  split
  · exact ownMem_modMem ..
  · exact ownMem_refl ..

theorem ownMem_acquireAt (s : State) (cx : Cx) (acq : Bool) (scope : Nat) :
    OwnMem cx.g.ident.island s (acquireAt s cx acq scope) := by
  rw [acquireAt]
  split
  · exact ownMem_modMem ..
  · exact ownMem_refl ..

/-! ## What an access may change -/

/-- What an access of a group on an island leaves alone, as `AccessFrame` says it, from one state to another. -/
structure AccessStep (k isl : Nat) (s t : State) : Prop where
  others : ∀ j, j ≠ k → tblGet? t.groups j = tblGet? s.groups j
  regs : (grpOf t k).regs = (grpOf s k).regs
  special : (grpOf t k).special = (grpOf s k).special
  rest : accessRest (grpOf t k) = accessRest (grpOf s k)
  panel : panelRest t.panel = panelRest s.panel
  outside : t.agenda = s.agenda ∧ t.tick = s.tick ∧ t.cur = s.cur ∧ t.propagate = s.propagate
  elsewhere : ∀ i, i ≠ isl → islOf t i = islOf s i
  island : ∀ i, { islandRest (islOf t i) with mem := {}, scClk := [] } = { islandRest (islOf s i) with mem := {}, scClk := [] }
  present : (tblGet? t.islands isl).isSome = (tblGet? s.islands isl).isSome
  standing : (tblGet? s.groups k).isSome = true → (tblGet? t.groups k).isSome = true

/-- An access step that starts no operation, ends none, and holds no fault. -/
structure Touches (k isl : Nat) (s t : State) : Prop extends AccessStep k isl s t where
  ops : (grpOf t k).ops = (grpOf s k).ops
  held : (grpOf t k).held = (grpOf s k).held
  seq : t.seq = s.seq
  teams : t.teams = s.teams

theorem accessStep_trans {k isl : Nat} {s t u : State} (a : AccessStep k isl s t) (b : AccessStep k isl t u) :
    AccessStep k isl s u where
  others j hj := (b.others j hj).trans (a.others j hj)
  regs := b.regs.trans a.regs
  special := b.special.trans a.special
  rest := b.rest.trans a.rest
  panel := b.panel.trans a.panel
  outside := ⟨b.outside.1.trans a.outside.1, b.outside.2.1.trans a.outside.2.1, b.outside.2.2.1.trans a.outside.2.2.1,
    b.outside.2.2.2.trans a.outside.2.2.2⟩
  elsewhere i hi := (b.elsewhere i hi).trans (a.elsewhere i hi)
  island i := (b.island i).trans (a.island i)
  present := b.present.trans a.present
  standing h := b.standing (a.standing h)

theorem touches_trans {k isl : Nat} {s t u : State} (a : Touches k isl s t) (b : Touches k isl t u) : Touches k isl s u where
  toAccessStep := accessStep_trans a.toAccessStep b.toAccessStep
  ops := b.ops.trans a.ops
  held := b.held.trans a.held
  seq := b.seq.trans a.seq
  teams := b.teams.trans a.teams

theorem touches_of_ownMem {isl : Nat} {s t : State} (k : Nat) (h : OwnMem isl s t) : Touches k isl s t := by
  have hg : t.groups = s.groups := by rw [h.outside]
  have hgrp : grpOf t k = grpOf s k := by rw [grpOf, hg, grpOf]
  refine ⟨⟨fun _ _ => by rw [hg], by rw [hgrp], by rw [hgrp], by rw [hgrp], by rw [h.outside], ?_, h.elsewhere, fun i => ?_, h.present,
    fun h => by rwa [hg]⟩,
    by rw [hgrp], by rw [hgrp], by rw [h.outside], by rw [h.outside]⟩
  · exact ⟨by rw [h.outside], by rw [h.outside], by rw [h.outside], by rw [h.outside]⟩
  · exact congrArg (fun x => { islandRest x with scClk := [] }) (h.island i)

theorem touches_refl (k isl : Nat) (s : State) : Touches k isl s s := touches_of_ownMem k (ownMem_refl isl s)

/-- The accessing group changed in what an access may change of it. -/
structure GroupTouch (g h : Group) : Prop where
  regs : h.regs = g.regs
  special : h.special = g.special
  rest : accessRest h = accessRest g
  ops : h.ops = g.ops
  held : h.held = g.held

theorem touches_setGrp {k : Nat} {g : Group} (isl : Nat) (s : State) (h : GroupTouch (grpOf s k) g) :
    Touches k isl s (setGrp s k g) := by
  have hg : grpOf (setGrp s k g) k = g := by rw [grpOf, setGrp, tblGet_set_same]
  exact ⟨⟨fun j hj => tblGet?_set_other _ _ hj, by rw [hg, h.regs], by rw [hg, h.special], by rw [hg, h.rest], rfl,
    ⟨rfl, rfl, rfl, rfl⟩, fun _ _ => rfl, fun _ => rfl, rfl, fun _ => by simp [setGrp]⟩, by rw [hg, h.ops], by rw [hg, h.held], rfl, rfl⟩

theorem touches_modGrp {f : Group → Group} (k isl : Nat) (s : State) (h : ∀ g, GroupTouch g (f g)) :
    Touches k isl s (modGrp s k f) where
  others _ hj := tblGet?_adj_other _ _ hj
  regs := grpOf_modGrp_keeps (g := Group.regs) (fun g => (h g).regs) s k
  special := grpOf_modGrp_keeps (g := Group.special) (fun g => (h g).special) s k
  rest := grpOf_modGrp_keeps (g := accessRest) (fun g => (h g).rest) s k
  panel := rfl
  outside := ⟨rfl, rfl, rfl, rfl⟩
  elsewhere _ _ := rfl
  island _ := rfl
  present := rfl
  standing h := by rwa [modGrp, tblGet?_adj_same, Option.isSome_map]
  ops := grpOf_modGrp_keeps (g := Group.ops) (fun g => (h g).ops) s k
  held := grpOf_modGrp_keeps (g := Group.held) (fun g => (h g).held) s k
  seq := rfl
  teams := rfl

/-- The group still stands on the island, as every operation of an access leaves it. -/
theorem accessStep_ident {k isl : Nat} {s t : State} (h : AccessStep k isl s t) : (grpOf t k).ident = (grpOf s k).ident :=
  (congrArg Group.ident h.rest :)

theorem touches_foldl {α : Type} {k isl : Nat} {f : State → α → State}
    (h : ∀ s x, (grpOf s k).ident.island = isl → Touches k isl s (f s x)) (l : List α) {s : State}
    (hs : (grpOf s k).ident.island = isl) : Touches k isl s (l.foldl f s) := by
  induction l generalizing s with
  | nil => exact touches_refl ..
  | cons x l ih =>
    have hx := h s x hs
    exact touches_trans hx (ih ((congrArg Ident.island (accessStep_ident hx.toAccessStep)).trans hs))

theorem accessFrame_of {s t : State} {cx : Cx} (hi : issuing s = some cx) (h : AccessStep cx.key cx.g.ident.island s t) :
    AccessFrame s t cx := by
  have hg : grpOf s cx.key = cx.g := grpOf_issuing hi
  exact ⟨h.others, ⟨by rw [h.regs, hg], by rw [h.special, hg]⟩, by rw [h.rest, hg], h.panel, h.outside, h.elsewhere, h.island⟩

end Sys2Proof.Proofs

/-! PROOFS. What an access notes of itself: happens-before, caches, home records (R260, R276 to R289). -/

namespace Sys2Proof.Proofs

open Sys2Proof Sys2Proof.Machine Sys2Proof.Laws

/-! ## Clocks of lanes -/

theorem groupTouch_refl (g : Group) : GroupTouch g g := ⟨rfl, rfl, rfl, rfl, rfl⟩

theorem groupTouch_trans {g h j : Group} (a : GroupTouch g h) (b : GroupTouch h j) : GroupTouch g j :=
  ⟨b.regs.trans a.regs, b.special.trans a.special, b.rest.trans a.rest, b.ops.trans a.ops, b.held.trans a.held⟩

theorem groupTouch_modPast (m : Mask) (f : Past → Past) (g : Group) : GroupTouch g (modPast m f g) :=
  ⟨rfl, rfl, rfl, rfl, rfl⟩

theorem groupTouch_learn (c : Clock) (m : Mask) (g : Group) : GroupTouch g (learn c m g) := by
  rw [learn]
  split
  · exact groupTouch_refl g
  · exact groupTouch_modPast ..

theorem groupTouch_shareLanes (m : Mask) (g : Group) : GroupTouch g (shareLanes m g) :=
  groupTouch_trans (groupTouch_learn ..) (groupTouch_modPast ..)

theorem groupTouch_advance (n i : Nat) (g : Group) : GroupTouch g (advance n i g) := ⟨rfl, rfl, rfl, rfl, rfl⟩

/-! ## What synchronisation changes -/

theorem touches_spots {k isl : Nat} {s : State} (f : Tbl Spot → Tbl Spot) : Touches k isl s { s with spots := f s.spots } :=
  ⟨⟨fun _ _ => rfl, rfl, rfl, rfl, rfl, ⟨rfl, rfl, rfl, rfl⟩, fun _ _ => rfl, fun _ => rfl, rfl, id⟩, rfl, rfl, rfl,
    rfl⟩

theorem touches_panelClk {k isl : Nat} {s : State} (c : Clock) : Touches k isl s { s with panel := { s.panel with clk := c } } :=
  ⟨⟨fun _ _ => rfl, rfl, rfl, rfl, rfl, ⟨rfl, rfl, rfl, rfl⟩, fun _ _ => rfl, fun _ => rfl, rfl, id⟩, rfl, rfl, rfl,
    rfl⟩

theorem touches_scClk (k : Nat) (s : State) (isl : Nat) (f : Clock → Clock) :
    Touches k isl s (modIsl s isl fun x => { x with scClk := f x.scClk }) :=
  ⟨⟨fun _ _ => rfl, rfl, rfl, rfl, rfl, ⟨rfl, rfl, rfl, rfl⟩, fun _ hj => islOf_modIsl_other s _ hj, fun i =>
    islOf_modIsl_keeps (g := fun x => { islandRest x with mem := {}, scClk := [] }) (f := fun x => { x with scClk := f x.scClk })
      (fun _ => rfl) s isl i, present_modIsl .., id⟩, rfl, rfl, rfl, rfl⟩

theorem touches_touch {k isl : Nat} {s : State} (t : Touch) (l : Nat) (hs : (grpOf s k).ident.island = isl) :
    Touches k isl s (touch t k l s) := by
  unfold touch
  extract_lets g m rs c scopes g' out place s1 s2 s3
  have hgroup : Touches k isl s s1 := by
    refine touches_setGrp isl s ?_
    split
    · exact groupTouch_trans (groupTouch_modPast ..) (groupTouch_modPast ..)
    · exact groupTouch_trans (groupTouch_trans (groupTouch_modPast ..) (groupTouch_modPast ..)) (groupTouch_modPast ..)
  have hspots : Touches k isl s s2 :=
    touches_trans hgroup (touches_spots fun x => t.spots.foldl (fun t k => tblMod t k place) x)
  have hsequencer : Touches k isl s s3 := by
    have hisl : g'.ident.island = isl := hs
    refine touches_trans hspots ?_
    simp only [s3, hisl]
    split
    · exact touches_scClk k s2 isl fun x => joinClock x out
    · exact touches_refl ..
  split
  · exact touches_trans hsequencer (touches_panelClk _)
  · exact hsequencer

theorem touches_modMem (k : Nat) (s : State) (isl : Nat) (f : IslandMem → IslandMem) : Touches k isl s (modMem s isl f) :=
  touches_of_ownMem k (ownMem_modMem ..)

theorem touches_recordAccess {s : State} {cx : Cx} {isl : Nat} (l vn p n : Nat) (wr : Bool) (scope : Option Nat)
    (hs : (grpOf s cx.key).ident.island = isl) : Touches cx.key isl s (recordAccess s cx l vn p n wr scope) := by
  subst hs
  simp only [recordAccess]
  exact touches_modMem ..

theorem touches_orderAccess {s : State} {cx : Cx} {isl : Nat} (w : Want) (wrote : Bool) (h : Hit)
    (hs : (grpOf s cx.key).ident.island = isl) : Touches cx.key isl s (orderAccess cx w wrote h s) := by
  have hboth (s : State) : Touches cx.key isl s
      (if h.lane.isNone then modGrp s cx.key (shareLanes cx.f.mask) else s) := by
    split
    · exact touches_modGrp _ _ _ fun _ => groupTouch_shareLanes ..
    · exact touches_refl ..
  have hstay {s t : State} (a : Touches cx.key isl s t) (hs : (grpOf s cx.key).ident.island = isl) :
      (grpOf t cx.key).ident.island = isl :=
    (congrArg Ident.island (accessStep_ident a.toAccessStep)).trans hs
  rw [orderAccess]
  split
  · exact touches_refl ..
  · extract_lets l both s1 s2
    have h1 : Touches cx.key isl s s1 := hboth s
    have h2 : Touches cx.key isl s s2 := by
      refine touches_trans h1 ?_
      simp only [s2]
      split
      · exact touches_refl ..
      · exact touches_recordAccess _ _ _ _ _ _ (hstay h1 hs)
    exact touches_trans (touches_trans h2 (touches_touch _ l (hstay h2 hs))) (hboth _)

theorem touches_noteAccess {s : State} {cx : Cx} (w : Want) (act : HomeAct) (wrote : Bool) (h : Hit)
    (hs : (grpOf s cx.key).ident.island = cx.g.ident.island) :
    Touches cx.key cx.g.ident.island s (noteAccess cx w act wrote h s) := by
  have hhome := touches_of_ownMem cx.key (ownMem_reachHome cx w.q act h s)
  exact touches_trans hhome (touches_orderAccess w wrote h
    ((congrArg Ident.island (accessStep_ident hhome.toAccessStep)).trans hs))

theorem touches_touchTeam {s : State} {cx : Cx} {isl : Nat} (n : Nat) (reads wrote : Bool) (rel acq : Option Nat)
    (l : List (Option Nat × Nat)) (hs : (grpOf s cx.key).ident.island = isl) :
    Touches cx.key isl s (touchTeam cx n reads wrote rel acq l s) := by
  rw [touchTeam]
  split
  · exact touches_foldl (fun _ _ hx => touches_touch _ _ hx) l hs
  · exact touches_refl ..

/-! ## No note of an access changes a memory -/

@[simp] theorem memView_touch (t : Touch) (k l : Nat) (s : State) : memView (touch t k l s) = memView s := by
  unfold touch
  extract_lets g m rs c scopes g' out place s1 s2 s3
  have hsequencer : memView s3 = memView s := by
    simp only [s3]
    split
    · simp [s2, s1]
    · simp [s2, s1]
  split <;> simp [hsequencer]

theorem memPart_foldl {α : Type} {f : IslandMem → α → IslandMem} (h : ∀ m x, memPart (f m x) = memPart m) (l : List α)
    (m : IslandMem) : memPart (l.foldl f m) = memPart m := by
  induction l generalizing m with
  | nil => rfl
  | cons x l ih => exact (ih _).trans (h m x)

@[simp] theorem memPart_vcTouch (m : IslandMem) (vn core sec : Nat) (wr : Bool) :
    memPart (vcTouch m vn core sec wr) = memPart m := by
  simp [vcTouch]

@[simp] theorem memPart_cacheAccess (m : IslandMem) (vn core l1 sec : Nat) (q : BitVec 2) (act : HomeAct) :
    memPart (cacheAccess m vn core l1 sec q act) = memPart m := by
  simp only [cacheAccess]
  split
  · simp
  · split
    · simp
    · split <;> simp

@[simp] theorem memPart_askOwner (slice sec step core l1 : Nat) (m : IslandMem) :
    memPart (askOwner slice sec step core l1 m) = memPart m := by
  simp [askOwner]

@[simp] theorem memPart_dropSi (m : IslandMem) (l1 : Nat) : memPart (dropSi m l1) = memPart m := by
  simp [dropSi]

@[simp] theorem memView_reachHome (cx : Cx) (q : BitVec 2) (act : HomeAct) (h : Hit) (s : State) :
    memView (reachHome cx q act h s) = memView s := by
  simp only [reachHome]
  refine memView_modMem (fun m => ?_) s _
  split <;> simp

@[simp] theorem memView_recordAccess (s : State) (cx : Cx) (l vn p n : Nat) (wr : Bool) (scope : Option Nat) :
    memView (recordAccess s cx l vn p n wr scope) = memView s := by
  simp only [recordAccess]
  refine memView_modMem (fun m => ?_) s _
  split <;> rfl

@[simp] theorem memView_orderAccess (cx : Cx) (w : Want) (wrote : Bool) (h : Hit) (s : State) :
    memView (orderAccess cx w wrote h s) = memView s := by
  rw [orderAccess]
  split
  · rfl
  · extract_lets l both s1 s2
    have hboth (s : State) : memView (both s) = memView s := by
      simp only [both]
      split <;> simp
    have h2 : memView s2 = memView s1 := by
      simp only [s2]
      split <;> simp
    rw [hboth, memView_touch, h2, hboth]

@[simp] theorem memView_noteAccess (cx : Cx) (w : Want) (act : HomeAct) (wrote : Bool) (h : Hit) (s : State) :
    memView (noteAccess cx w act wrote h s) = memView s := by
  simp [noteAccess]

@[simp] theorem memView_touchTeam (cx : Cx) (n : Nat) (reads wrote : Bool) (rel acq : Option Nat) (l : List (Option Nat × Nat))
    (s : State) : memView (touchTeam cx n reads wrote rel acq l s) = memView s := by
  rw [touchTeam]
  split <;> simp

@[simp] theorem memView_takeTickets (s : State) (i n : Nat) (sc : BitVec 1) : memView (takeTickets s i n sc) = memView s := by
  rw [takeTickets]
  split <;> simp

@[simp] theorem memView_acquireL1 (s : State) (id : Ident) : memView (acquireL1 s id) = memView s := by
  simp [acquireL1]

@[simp] theorem memView_acquireAt (s : State) (cx : Cx) (acq : Bool) (scope : Nat) :
    memView (acquireAt s cx acq scope) = memView s := by
  rw [acquireAt]
  split <;> simp

@[simp] theorem memView_addOp (s : State) (k : Nat) (o : FlightOp) : memView (addOp s k o) = memView s := by
  simp [addOp]

@[simp] theorem memView_vctEntry (s : State) (i c vcx salt : Nat) : memView (vctEntry s i c vcx salt).1 = memView s := by
  simp only [vctEntry]
  refine memView_modMem (fun m => ?_) s _
  split <;> rfl

@[simp] theorem memView_vcAll (i c : Nat) (wr : Bool) (s : State) (hs : List Hit) :
    memView (vcAll i c wr s hs).1 = memView s := by
  induction hs generalizing s with
  | nil => rfl
  | cons h hs ih => exact (ih _).trans (memView_vctEntry ..)

@[simp] theorem memView_noteDead (s : State) (k tm : Nat) (pc : VAddr) (spans : List (Nat × Nat)) :
    memView (noteDead s k tm pc spans) = memView s := by
  rw [noteDead]
  split <;> simp [holdLost]

end Sys2Proof.Proofs

/-! PROOFS. Accesses that perform, and those that their alignment stops (R297, R298, R304). -/

namespace Sys2Proof.Proofs

open Sys2Proof Sys2Proof.Machine Sys2Proof.Laws

/-! ## What issue itself books -/

theorem touches_modIsl {f : Island → Island} (k : Nat) (s : State) (isl : Nat)
    (h : ∀ x, { islandRest (f x) with mem := {}, scClk := [] } = { islandRest x with mem := {}, scClk := [] }) :
    Touches k isl s (modIsl s isl f) :=
  ⟨⟨fun _ _ => rfl, rfl, rfl, rfl, rfl, ⟨rfl, rfl, rfl, rfl⟩, fun _ hj => islOf_modIsl_other s _ hj, fun i =>
    islOf_modIsl_keeps (g := fun x => { islandRest x with mem := {}, scClk := [] }) h s isl i,
    present_modIsl .., id⟩, rfl, rfl, rfl, rfl⟩

theorem touches_sampleCtx (k : Nat) (s : State) (i src c v : Nat) : Touches k i s (sampleCtx s i src c v) := by
  rw [sampleCtx]
  split
  · exact touches_modIsl _ _ _ fun _ => rfl
  · exact touches_refl ..

theorem touches_issued (fm : Form) (s e : State) (cx : Cx) : Touches cx.key cx.g.ident.island e (issued fm s cx e) := by
  simp only [issued, bookAll]
  refine touches_trans (touches_trans ?sample (touches_modGrp _ _ _ ?group)) (touches_modIsl _ _ _ ?core)
  case sample =>
    split
    · exact touches_refl ..
    · exact touches_sampleCtx ..
  case group => exact fun _ => ⟨rfl, rfl, rfl, rfl, rfl⟩
  case core => exact fun _ => rfl

theorem touches_goPast (n : Nat) (s : State) (cx : Cx) (isl : Nat) :
    Touches cx.key isl s (modGrp s cx.key (advance n cx.ix)) :=
  touches_modGrp _ _ _ fun _ => groupTouch_advance ..

/-! ## Alignment (R297) -/

theorem lanesOf_find? {m : Mask} {p : Nat → Bool} {l : Nat} (hl : inMask m l = true) (hp : p l = true)
    (hlow : ∀ j, j < l → inMask m j = true → p j = false) : (lanesOf m).find? p = some l := by
  have h64 := lt_of_inMask hl
  rw [lanesOf, List.find?_filter, lanes64, List.find?_range_eq_some]
  refine ⟨?_, List.mem_range.2 h64, fun j hj => ?_⟩
  · have hm : m.getLsbD l = true := hl
    simp [hm, hp]
  · by_cases hm : m.getLsbD j = true
    · simp [hlow j hj hm]
    · simp [hm]

/-- The lane of the first of its requests that p marks. -/
theorem find?_lanes {α : Type} {m : Mask} {f : Nat → α} {p : α → Bool} {l : Nat} (hl : inMask m l = true)
    (hp : p (f l) = true) (hlow : ∀ j, j < l → inMask m j = true → p (f j) = false) :
    ((lanesOf m).map f).find? p = some (f l) := by
  rw [List.find?_map, lanesOf_find? (p := p ∘ f) hl hp hlow]
  rfl

theorem checkGlobal_misaligned {s : State} {cx : Cx} {w : Want} {rs : List Req} {c : Cause}
    (h : misaligned w.n rs = some c) : checkGlobal s cx w rs = .fault s c := by
  simp only [checkGlobal, h]

theorem misaligned_lanes {cx : Cx} {t : BitVec 3} {a : BitVec 7} {x : BitVec 1} {n l : Nat}
    (h : LowestMisaligned cx n (laneVa t a x n cx) l) :
    misaligned n (laneReqs cx a t x n) = some { cls := 0x08, status := 1, lane := some l } := by
  obtain ⟨hl, hmis, hlow⟩ := h
  have hfind : (laneReqs cx a t x n).find? (fun r => r.va % n ≠ 0) = some _ :=
    find?_lanes hl (decide_eq_true hmis) fun j hj hm => decide_eq_false (not_not_intro (hlow j hj hm))
  rw [misaligned, hfind]
  rfl

theorem misaligned_once {n : Nat} {r : Req} (h : r.va % n ≠ 0) (hl : r.lane = none) :
    misaligned n [r] = some { cls := 0x08, status := 1 } := by
  simp [misaligned, h, hl]

theorem checkTeam_misaligned {s : State} {cx : Cx} {a : BitVec 7} {x : BitVec 1} {n l : Nat} {wr : Bool}
    (h : LowestMisaligned cx n (laneOffset cx.g.regs a x n) l) :
    checkTeam s cx n wr (teamAddrs cx a x n) = some { cls := 0x08, status := 1, lane := some l } := by
  obtain ⟨hl, hmis, hlow⟩ := h
  have hfind : (teamAddrs cx a x n).find? (fun p => p.2 % n ≠ 0) = some _ :=
    find?_lanes hl (decide_eq_true hmis) fun j hj hm => decide_eq_false (not_not_intro (hlow j hj hm))
  simp only [checkTeam, hfind]

theorem alignsLanes_global {i : Instr} {fm : Form} {w : Want} {t : BitVec 3} {a : BitVec 7} {x : BitVec 1} {len : Nat}
    {effect : Cx → State → List Hit → State}
    (he : ∀ s, exec i s = issue fm (fun cx s => laneAccess cx s w (laneReqs cx a t x w.n) len (effect cx)) s)
    (hf : ∀ s cx, formOf i s cx = fm) : AlignsLanes i w.n (laneVa t a x w.n) := by
  intro s cx l c h
  have hclear : Clear fm s cx := hf s cx ▸ c
  rw [he, issue_clear hclear]
  simp only [laneAccess, checkGlobal_misaligned (misaligned_lanes h)]

theorem alignsLanes_team {i : Instr} {fm : Form} {n len : Nat} {wr : Bool} {a : BitVec 7} {x : BitVec 1}
    {effect : Cx → State → State → State}
    (he : ∀ s, exec i s = issue fm (fun cx s => teamAccess cx s n len wr (teamAddrs cx a x n) (effect cx s)) s)
    (hf : ∀ s cx, formOf i s cx = fm) : AlignsLanes i n fun cx => laneOffset cx.g.regs a x n := by
  intro s cx l c h
  have hclear : Clear fm s cx := hf s cx ▸ c
  rw [he, issue_clear hclear]
  simp only [teamAccess, checkTeam_misaligned h]

theorem alignsOnce_global {i : Instr} {fm : Form} {w : Want} {r : Cx → Req} {effect : Cx → State → Hit → State}
    (he : ∀ s, exec i s = issue fm (fun cx s => uniAccess cx s w (r cx) (effect cx)) s) (hf : ∀ s cx, formOf i s cx = fm)
    (hr : ∀ cx, (r cx).lane = none) : AlignsOnce i w.n fun cx => (r cx).va := by
  intro s cx c h
  have hclear : Clear fm s cx := hf s cx ▸ c
  rw [he, issue_clear hclear]
  simp only [uniAccess, checkGlobal_misaligned (misaligned_once h (hr cx))]

/-! ## Prefetch (R304) -/

/-- What PRF does for one address, by the VC's answer. -/
def prefetchOne (cx : Cx) (q : BitVec 2) (n : Nat) (s : State) (p : Hit × VcAns) : State :=
  match if (lockHit (islOf s cx.g.ident.island).mem false cx.g.ident.ctx p.1.va n false).isSome then .waits else p.2 with
  | .ok vn =>
    if q = 3 then modMem s cx.g.ident.island fun m => vcTouch m vn cx.g.ident.core (p.1.loc.phys / 64) false
    else reachHome cx q .load { p.1 with vn := vn } s
  | _ => s

/-- The addresses of PRF translated, those of its lanes in order. -/
def prefetchWalk (cx : Cx) (s : State) (rs : List Req) : State × List (Req × Trans) :=
  translateAll cx.g.ident.island cx.g.ident.ctx (privileged cx.g.ident) .read s rs

/-- What PRF does to the caches. -/
def prefetched (cx : Cx) (q : BitVec 2) (n : Nat) (rs : List Req) (s : State) : State :=
  let v := vcAll cx.g.ident.island cx.g.ident.ctx false (prefetchWalk cx s rs).1 (hitsOf (prefetchWalk cx s rs).2)
  v.2.foldl (prefetchOne cx q n) v.1

theorem exec_prf {st : BitVec 2} {a : BitVec 7} {t w : BitVec 3} {q : BitVec 2} {x : BitVec 1} {s : State} {cx : Cx}
    (c : Ready (.prf st a t w q x) s cx) : exec (.prf st a t w q x) s = .next (issued (prfForm st a) s cx
      (modGrp (prefetched cx q (sizeBytes w) (laneReqs cx a t x (sizeBytes w)) s) cx.key (advance 4 cx.ix))) :=
  issue_ok (fm := prfForm st a) c (body := fun cx s =>
    .ok (modGrp (prefetched cx q (sizeBytes w) (laneReqs cx a t x (sizeBytes w)) s) cx.key (advance 4 cx.ix))) rfl

theorem ownMem_prefetchOne (cx : Cx) (q : BitVec 2) (n : Nat) (s : State) (p : Hit × VcAns) :
    OwnMem cx.g.ident.island s (prefetchOne cx q n s p) := by
  rw [prefetchOne]
  split
  · split
    · exact ownMem_modMem ..
    · exact ownMem_reachHome ..
  · exact ownMem_refl ..

theorem ownMem_prefetched (cx : Cx) (q : BitVec 2) (n : Nat) (rs : List Req) (s : State) :
    OwnMem cx.g.ident.island s (prefetched cx q n rs s) :=
  ownMem_trans (ownMem_trans (ownMem_translateAll ..) (ownMem_vcAll ..)) (ownMem_foldl (ownMem_prefetchOne cx q n) _ _)

theorem touches_prefetch (fm : Form) (cx : Cx) (q : BitVec 2) (n : Nat) (rs : List Req) (s : State) :
    Touches cx.key cx.g.ident.island s
      (issued fm s cx (modGrp (prefetched cx q n rs s) cx.key (advance 4 cx.ix))) :=
  touches_trans (touches_trans (touches_of_ownMem _ (ownMem_prefetched ..)) (touches_goPast ..)) (touches_issued ..)

/-- Settles O45. -/
theorem alignmentFaults : Obligations.AlignmentFaults := by
  have hlane (st) (d a : BitVec 7) (t w : BitVec 3) (q : BitVec 2) (x : BitVec 1) :=
    alignsLanes_global (i := .ld st d a t w q x) (fun _ => rfl) (fun _ _ => rfl)
  refine ⟨⟨rfl, rfl, rfl, rfl, rfl, rfl, rfl⟩, hlane, fun st d a t w q x => ?store, fun st d a t w q x => ?acquire,
    fun st d a t w q x => ?release, fun st d a t w q x e o m c k => ?atom, fun st d a t w q x e b m c k => ?acas,
    fun st d a w x => ?teamLoad, fun st d a w x => ?teamStore, fun st d a w x e o m c k => ?teamAtom,
    fun st d a t w q x => ?uload, fun st d a t w q x => ?ustore, fun st d a o e c k z => ?uatom,
    fun st a t w q x s cx c => ⟨_, exec_prf c, accessFrame_of c.issuer (touches_prefetch ..).toAccessStep⟩⟩
  case store => exact alignsLanes_global (i := .st st d a t w q x) (fun _ => rfl) (fun _ _ => rfl)
  case acquire => exact alignsLanes_global (i := .lda st d a t w q x) (fun _ => rfl) (fun _ _ => rfl)
  case release => exact alignsLanes_global (i := .sta st d a t w q x) (fun _ => rfl) (fun _ _ => rfl)
  case atom => exact alignsLanes_global (i := .atom st d a t w q x e o m c k) (fun _ => rfl) (fun _ _ => rfl)
  case acas => exact alignsLanes_global (i := .acas st d a t w q x e b m c k) (fun _ => rfl) (fun _ _ => rfl)
  case teamLoad => exact alignsLanes_team (i := .ldt st d a w x) (fun _ => rfl) (fun _ _ => rfl)
  case teamStore => exact alignsLanes_team (i := .stt st d a w x) (fun _ => rfl) (fun _ _ => rfl)
  case teamAtom => exact alignsLanes_team (i := .atomt st d a w x e o m c k) (fun _ => rfl) (fun _ _ => rfl)
  case uload => exact alignsOnce_global (i := .uld st d a t w q x) (fun _ => rfl) (fun _ _ => rfl) (fun _ => rfl)
  case ustore => exact alignsOnce_global (i := .ust st d a t w q x) (fun _ => rfl) (fun _ _ => rfl) (fun _ => rfl)
  case uatom => exact alignsOnce_global (i := .uatom st d a o e c k z) (fun _ => rfl) (fun _ _ => rfl) (fun _ => rfl)

end Sys2Proof.Proofs

/-! PROOFS. Page table entries: what a set bit changes, where walks end, and that the entry a write is to mark still holds
what was walked (R237 to R241). -/

namespace Sys2Proof.Proofs

open Sys2Proof Sys2Proof.Machine Sys2Proof.Laws

/-! ## A bit set in the bytes of a number -/

theorem memBytes_length (m : Memory) (a n : Nat) : (memBytes m a n).length = n := by
  induction n generalizing a with
  | zero => rfl
  | succ n ih => simp [memBytes, ih]

theorem memNat_succ (m : Memory) (a n : Nat) : memNat m a (n + 1) = (memGet m a).toNat + 256 * memNat m (a + 1) n := rfl

theorem memNat_lt (m : Memory) (a n : Nat) : memNat m a n < 256 ^ n := by
  have h := leNat_lt (memBytes m a n)
  rwa [memBytes_length] at h

theorem memNat_lt_word (m : Memory) (a : Nat) : memNat m a 8 < 2 ^ 64 := memNat_lt m a 8

theorem memNat_congr {m k : Memory} {a n : Nat} (h : ∀ x, a ≤ x → x < a + n → memGet k x = memGet m x) :
    memNat k a n = memNat m a n := by
  induction n generalizing a with
  | zero => rfl
  | succ n ih =>
    rw [memNat_succ, memNat_succ, h a (Nat.le_refl a) (by omega), ih fun x hx hlt => h x (by omega) (by omega)]

theorem memNat_putNat (m : Memory) (a x n : Nat) : memNat (memPutNat m a x n) a n = x % 256 ^ n := by
  have h := memBytes_put m a (leBytes x n)
  rw [leBytes_length] at h
  rw [memNat, memPutNat, h, leNat_leBytes]

theorem memBytes_getElem (m : Memory) (a n k : Nat) (h : k < (memBytes m a n).length) : (memBytes m a n)[k] = memGet m (a + k) := by
  induction n generalizing a k with
  | zero => simp [memBytes] at h
  | succ n ih =>
    cases k with
    | zero => rfl
    | succ k =>
      simp only [memBytes, List.getElem_cons_succ]
      rw [ih (a + 1) k (by simpa [memBytes] using h), Nat.add_assoc, Nat.add_comm 1 k]

theorem bit_eq_testBit (w i : Nat) : bit w i = w.testBit i := (Nat.testBit_eq_decide_div_mod_eq ..).symm

theorem bit_clear_and {w : Nat} (x : BitVec w) {b : Nat} (hb : b < w) (h : bit x.toNat b = false) :
    x &&& BitVec.twoPow w b = 0#w := by
  ext j hj
  simp only [BitVec.getElem_and, BitVec.getElem_twoPow, BitVec.getElem_zero, Bool.and_eq_false_iff, decide_eq_false_iff_not]
  by_cases hjb : j = b
  · subst hjb
    left
    rwa [← BitVec.getLsbD_eq_getElem, BitVec.getLsbD, ← bit_eq_testBit]
  · right
    exact hjb

theorem or_twoPow_of_set {w : Nat} (x : BitVec w) {b : Nat} (h : bit x.toNat b = true) : x ||| BitVec.twoPow w b = x := by
  ext j hj
  rw [bit_eq_testBit] at h
  simp only [BitVec.getElem_or, BitVec.getElem_twoPow]
  by_cases hjb : j = b
  · subst hjb
    have hbit : x[j] = true := h
    simp [hbit]
  · simp [hjb]

theorem add_twoPow_of_clear {w : Nat} (x : BitVec w) {b : Nat} (hb : b < w) (h : bit x.toNat b = false) :
    x + BitVec.twoPow w b = x ||| BitVec.twoPow w b :=
  BitVec.add_eq_or_of_and_eq_zero _ _ (bit_clear_and x hb h)

theorem bit_memNat_low (m : Memory) (a n : Nat) {b : Nat} (hb : b < 8) : bit (memNat m a (n + 1)) b = bit (memGet m a).toNat b := by
  rw [bit_eq_testBit, bit_eq_testBit, memNat_succ, Nat.add_comm, show 256 = 2 ^ 8 from rfl,
    Nat.testBit_two_pow_mul_add _ (memGet m a).isLt, if_pos hb]

/-- A bit of the lowest byte set where it was clear: no other byte changes. -/
theorem memGet_putBit (m : Memory) (a n b x : Nat) (hb : b < 8) (h : bit (memNat m a (n + 1)) b = false) :
    memGet (memPutNat m a (memNat m a (n + 1) + 2 ^ b) (n + 1)) x
      = if x = a then memGet m a ||| BitVec.twoPow 8 b else memGet m x := by
  have hlow : bit (memGet m a).toNat b = false := by rwa [bit_memNat_low m a n hb] at h
  have hsum : (memGet m a).toNat + 2 ^ b < 256 := by
    have hadd := BitVec.toNat_add_of_and_eq_zero (bit_clear_and (memGet m a) hb hlow)
    rw [BitVec.toNat_twoPow_of_lt hb] at hadd
    rw [← hadd]
    exact BitVec.isLt _
  have hbytes : leBytes (memNat m a (n + 1) + 2 ^ b) (n + 1)
      = (memGet m a ||| BitVec.twoPow 8 b) :: memBytes m (a + 1) n := by
    have hhead : BitVec.ofNat 8 (memNat m a (n + 1) + 2 ^ b) = memGet m a ||| BitVec.twoPow 8 b := by
      rw [← add_twoPow_of_clear _ hb hlow]
      apply BitVec.eq_of_toNat_eq
      rw [BitVec.toNat_ofNat, BitVec.toNat_add, BitVec.toNat_twoPow_of_lt hb, memNat_succ]
      omega
    have htail : (memNat m a (n + 1) + 2 ^ b) / 256 = memNat m (a + 1) n := by
      rw [memNat_succ]
      generalize 2 ^ b = e at hsum ⊢
      omega
    have hrest := leBytes_leNat (memBytes m (a + 1) n)
    rw [memBytes_length] at hrest
    rw [leBytes, hhead, htail]
    exact congrArg _ hrest
  have hlen : (leBytes (memNat m a (n + 1) + 2 ^ b) (n + 1)).length = n + 1 := leBytes_length ..
  rw [memPutNat]
  by_cases hx : x < a ∨ a + (n + 1) ≤ x
  · rw [memGet_put_outside _ _ _ _ (by omega), if_neg (by omega)]
  · obtain ⟨k, rfl⟩ := Nat.exists_eq_add_of_le (not_lt.1 fun h => hx (.inl h))
    have hk : k < (leBytes (memNat m a (n + 1) + 2 ^ b) (n + 1)).length := by omega
    rw [memGet_put_inside _ _ _ _ hk]
    simp only [hbytes]
    cases k with
    | zero => simp
    | succ k => rw [List.getElem_cons_succ, memBytes_getElem, if_neg (by omega), Nat.add_right_comm, Nat.add_assoc]

/-! ## Entries and bytes of a state -/

theorem byteAt_eq (s : State) (isl a : Nat) :
    byteAt s isl a = if isHost a then memGet s.hostMem a else memGet (islOf s isl).mem.bytes a := by
  rw [byteAt, physBytes]
  split <;> rfl

theorem byteAt_of_view {s t : State} (h : memView t = memView s) (isl a : Nat) : byteAt t isl a = byteAt s isl a :=
  (sameMemory_of_view h).1 isl a

theorem entryAt_of_view {s t : State} (h : memView t = memView s) (i a : Nat) : entryAt t i a = entryAt s i a :=
  congrArg (fun m => BitVec.ofNat 64 (memNat m a 8)) (congrFun (congrArg MemView.island h) i)

theorem memOf_modMem {s : State} {i : Nat} (h : Present s i) (f : IslandMem → IslandMem) :
    (islOf (modMem s i f) i).mem = f (islOf s i).mem := by
  rw [modMem, islOf_modIsl_same s i _ h]

theorem modMem_absent {s : State} {i : Nat} (h : ¬ Present s i) (f : IslandMem → IslandMem) : modMem s i f = s := by
  have hnone : tblGet? s.islands i = none := by
    rw [Present, Option.not_isSome_iff_eq_none] at h
    exact h
  simp only [modMem, modIsl, tblAdj, hnone]

/-- An entry with a bit set is an entry of an island that stands in the machine. -/
theorem present_of_entryAt {s : State} {i a b : Nat} (h : bit (entryAt s i a).toNat b = true) : Present s i := by
  by_contra habs
  rw [Present, Option.not_isSome_iff_eq_none] at habs
  have hisl : (islOf s i).mem.bytes = [] := by
    rw [islOf, tblGet, habs]
    rfl
  have hzero : entryAt s i a = 0#64 := by
    rw [entryAt, hisl]
    rfl
  rw [hzero, bit] at h
  simp at h

section
variable {s : State} {i a b : Nat}

theorem setEntryBit_of_set (h : bit (entryAt s i a).toNat b = true) : setEntryBit s i a b = s := if_pos h

theorem bytes_setEntryBit (hp : Present s i) (h : bit (entryAt s i a).toNat b = false) :
    (islOf (setEntryBit s i a b) i).mem.bytes
      = memPutNat (islOf s i).mem.bytes a (memNat (islOf s i).mem.bytes a 8 + 2 ^ b) 8 := by
  have hval : (entryAt s i a).toNat = memNat (islOf s i).mem.bytes a 8 := by
    rw [entryAt, BitVec.toNat_ofNat, Nat.mod_eq_of_lt (memNat_lt_word _ a)]
  simp only [setEntryBit, h, Bool.false_eq_true, if_false]
  rw [memOf_modMem hp, hval]

theorem hostMem_setEntryBit : (setEntryBit s i a b).hostMem = s.hostMem := by
  simp only [setEntryBit]
  split <;> rfl

theorem entryAt_setEntryBit_same (hp : Present s i) (hb : b < 64) :
    entryAt (setEntryBit s i a b) i a = entryAt s i a ||| BitVec.twoPow 64 b := by
  cases h : bit (entryAt s i a).toNat b with
  | true =>
    rw [setEntryBit_of_set h, or_twoPow_of_set _ h]
  | false =>
    rw [← add_twoPow_of_clear _ hb h, entryAt, bytes_setEntryBit hp h, memNat_putNat, entryAt]
    apply BitVec.eq_of_toNat_eq
    rw [BitVec.toNat_add, BitVec.toNat_ofNat, BitVec.toNat_ofNat, BitVec.toNat_twoPow_of_lt hb]
    norm_num

theorem bit_entryAt_low (s : State) (i a : Nat) {b : Nat} (hb : b < 8) :
    bit (entryAt s i a).toNat b = bit (memGet (islOf s i).mem.bytes a).toNat b := by
  rw [entryAt, BitVec.toNat_ofNat, Nat.mod_eq_of_lt (memNat_lt_word _ a), bit_memNat_low _ a 7 hb]

theorem memGet_setEntryBit (hp : Present s i) (hb : b < 8) (x : Nat) :
    memGet (islOf (setEntryBit s i a b) i).mem.bytes x
      = if x = a then memGet (islOf s i).mem.bytes a ||| BitVec.twoPow 8 b else memGet (islOf s i).mem.bytes x := by
  cases h : bit (entryAt s i a).toNat b with
  | true =>
    rw [setEntryBit_of_set h]
    rw [bit_entryAt_low s i a hb] at h
    split
    next hx => rw [hx, or_twoPow_of_set _ h]
    · rfl
  | false =>
    rw [bytes_setEntryBit hp h]
    rw [bit_entryAt_low s i a hb, ← bit_memNat_low _ a 7 hb] at h
    exact memGet_putBit _ a 7 b x hb h

theorem setEntryBit_absent (hp : ¬ Present s i) : setEntryBit s i a b = s := by
  simp only [setEntryBit]
  split
  · rfl
  · exact modMem_absent hp _

theorem byteAt_setEntryBit (hp : Present s i) (hb : b < 8) (ha : isHost a = false) (isl x : Nat) :
    byteAt (setEntryBit s i a b) isl x
      = if isl = i ∧ x = a then byteAt s isl x ||| BitVec.twoPow 8 b else byteAt s isl x := by
  rw [byteAt_eq, byteAt_eq, hostMem_setEntryBit]
  by_cases hi : isl = i
  · subst hi
    cases hx : isHost x with
    | true =>
      have hxa : x ≠ a := fun hxa => by rw [hxa, ha] at hx; cases hx
      simp [hxa]
    | false =>
      rw [if_neg Bool.false_ne_true, if_neg Bool.false_ne_true, memGet_setEntryBit hp hb]
      by_cases hxa : x = a
      · simp [hxa]
      · simp [hxa]
  · rw [(ownMem_setEntryBit s i a b).elsewhere isl hi]
    simp [hi]

/-- Only the byte of the entry's low bits can change. -/
theorem byteAt_setEntryBit_other (hb : b < 8) {isl x : Nat} (hx : isl = i → x ≠ a) :
    byteAt (setEntryBit s i a b) isl x = byteAt s isl x := by
  by_cases hp : Present s i
  · rw [byteAt_eq, byteAt_eq, hostMem_setEntryBit]
    by_cases hi : isl = i
    · subst hi
      rw [memGet_setEntryBit hp hb, if_neg (hx rfl)]
    · rw [(ownMem_setEntryBit s i a b).elsewhere isl hi]
  · rw [setEntryBit_absent hp]

theorem entryAt_setEntryBit_apart (hb : b < 8) {x : Nat} (hx : a < x ∨ x + 8 ≤ a) :
    entryAt (setEntryBit s i a b) i x = entryAt s i x := by
  by_cases hp : Present s i
  · rw [entryAt, entryAt]
    refine congrArg (BitVec.ofNat 64) ?_
    exact memNat_congr fun y hy hlt => by rw [memGet_setEntryBit hp hb, if_neg (by omega)]
  · rw [setEntryBit_absent hp]

end

/-! ## Where walks end -/

theorem frameOf_aligned (e : DWord) : frameOf e % 8 = 0 := by
  rw [frameOf]
  generalize ent e 51 16 = x
  omega

/-- The leaf of a walk: an entry that stands at its place, aligned, its V bit set. -/
def LeafStands (s : State) (i : Nat) (e : DWord) (a : Nat) : Prop :=
  entryAt s i a = e ∧ a % 8 = 0 ∧ bit e.toNat 0 = true

theorem getD_mem_or {α : Type} (l : List α) (k : Nat) (d : α) : l.getD k d = d ∨ l.getD k d ∈ l := by
  by_cases hk : k < l.length
  · right
    rw [List.getD_eq_getElem _ _ hk]
    exact List.getElem_mem hk
  · exact .inl (List.getD_eq_default _ _ (not_lt.1 hk))

theorem leafAt_stands {s : State} {i lvl a lvl' a' : Nat} {e e' : DWord} (h : LeafStands s i e a)
    (hl : leafAt s i e a lvl = .leaf e' a' lvl') : LeafStands s i e' a' := by
  rw [leafAt] at hl
  split at hl
  · dsimp only at hl
    split at hl
    · obtain ⟨rfl, rfl, -⟩ := WalkEnd.leaf.inj hl
      exact h
    · obtain ⟨he, ha, -⟩ := WalkEnd.leaf.inj hl
      have hmem := getD_mem_or (wideEntries s i a) (Config.wideEntry s.tick % (wideEntries s i a).length) (e, a)
      rw [show List.getD (wideEntries s i a) _ (e, a) = (e', a') from Prod.ext he ha] at hmem
      rcases hmem with heq | hmem
      · cases heq
        exact h
      · rw [wideEntries] at hmem
        obtain ⟨hmem, hcond⟩ := List.mem_filter.1 hmem
        obtain ⟨j, -, hj⟩ := List.mem_map.1 hmem
        simp only [Bool.and_eq_true] at hcond
        obtain ⟨hve, hva⟩ := Prod.mk.inj hj
        obtain ⟨-, ha8, -⟩ := h
        refine ⟨?_, ?_, hcond.1.1.1.1⟩
        · rw [← hve, ← hva]
        · omega
  · obtain ⟨rfl, rfl, -⟩ := WalkEnd.leaf.inj hl
    exact h

theorem walkFrom_stands {s : State} {i va n table lvl a : Nat} {e : DWord} (ht : 2 ≤ n ∨ table % 8 = 0)
    (h : (walkFrom s i va n table).1 = .leaf e a lvl) : LeafStands s i e a := by
  induction n generalizing table with
  | zero =>
    have htable : table % 8 = 0 := by omega
    simp only [walkFrom] at h
    split at h
    · cases h
    · split at h
      · cases h
      next hv =>
        split at h
        · cases h
        · refine leafAt_stands ⟨rfl, ?_, by simpa using hv⟩ h
          rw [entryAddr]
          omega
  | succ n ih =>
    simp only [walkFrom] at h
    split at h
    · cases h
    · split at h
      · cases h
      next hv =>
        split at h
        · cases h
        next hm =>
          split at h
          next hleaf =>
            have htable : table % 8 = 0 := by
              by_contra hne
              have hn : 2 ≤ n + 1 := by omega
              refine hm ?_
              simp [malformed, hleaf, hn]
            refine leafAt_stands (lvl := n + 1) ⟨rfl, ?_, by simpa using hv⟩ h
            rw [entryAddr]
            omega
          · exact ih (.inr (frameOf_aligned _)) h

theorem freshUse_stands {s : State} {i c va a lvl : Nat} {e : DWord} (h : (freshUse s i c va).stop = .leaf e a lvl) :
    LeafStands s i e a :=
  walkFrom_stands (n := 3) (.inl (by omega)) h

theorem heldUse_stands {s : State} {i va a lvl : Nat} {e : DWord} {t : TlbEntry}
    (hw : (heldUse s i va t).walked = true) (h : (heldUse s i va t).stop = .leaf e a lvl) : LeafStands s i e a := by
  rw [heldUse] at hw h
  split at hw
  · cases hw
  next hb =>
    rw [if_neg hb] at h
    split at h
    · cases h
    · exact walkFrom_stands (.inr (frameOf_aligned _)) h

/-! ## The use a translation makes (R241) -/

theorem chosenUse_cases (s : State) (i c va : Nat) (acc : Acc) (priv : Bool) (salt : Nat) :
    chosenUse s i c va acc priv salt = freshUse s i c va
    ∨ ∃ t ∈ heldFor s i c va, chosenUse s i c va acc priv salt = heldUse s i va t
      ∧ heldPermits acc priv (chosenUse s i c va acc priv salt).stop = true := by
  have hmem : chosenUse s i c va acc priv salt ∈ usesFor s i c va acc priv := by
    rw [chosenUse]
    split
    next h => rw [usesFor] at h; cases h
    next x h => rw [h]; exact List.mem_singleton_self x
    next x t _ h =>
      rw [h]
      rcases getD_mem_or (x :: t) (Config.heldTranslation (s.tick * 64 + salt) % (t.length + 1)) x with hd | hm
      · rw [hd]
        exact List.mem_cons_self
      · exact hm
  rw [usesFor] at hmem
  rcases List.mem_cons.1 hmem with h | h
  · exact .inl h
  · right
    obtain ⟨hmap, hcond⟩ := List.mem_filter.1 h
    obtain ⟨t, ht, he⟩ := List.mem_map.1 hmap
    exact ⟨t, ht, he.symm, (Bool.and_eq_true _ _ ▸ hcond).1⟩

/-- The leaf that a walk reaches is aligned, and stands. -/
theorem chosenUse_stands {s : State} {i c va a lvl salt : Nat} {acc : Acc} {priv : Bool} {e : DWord}
    (hw : (chosenUse s i c va acc priv salt).walked = true) (h : (chosenUse s i c va acc priv salt).stop = .leaf e a lvl) :
    LeafStands s i e a := by
  rcases chosenUse_cases s i c va acc priv salt with hf | ⟨t, -, hf, -⟩ <;> rw [hf] at hw h
  · exact freshUse_stands h
  · exact heldUse_stands hw h

/-! ## The entry whose D bit a write sets -/

/-- The entry that a write is to mark stands aligned, and holds what was walked. -/
def Sound (s : State) (i : Nat) (d : DirtyRef) : Prop := StillWalked s i d ∧ d.addr % 8 = 0

theorem sound_of_view {s t : State} (h : memView t = memView s) {i : Nat} {d : DirtyRef} (hs : Sound s i d) : Sound t i d := by
  obtain ⟨hw, ha⟩ := hs
  rw [StillWalked, ← entryAt_of_view h] at hw
  exact ⟨hw, ha⟩

theorem or_or_of_or_eq {x e y : DWord} (h : x ||| 0x80#64 = e ||| 0xC0#64) (hy : y = 0x40#64 ∨ y = 0x80#64) :
    (x ||| y) ||| 0x80#64 = e ||| 0xC0#64 := by
  rw [BitVec.or_assoc, BitVec.or_comm y, ← BitVec.or_assoc, h, BitVec.or_assoc]
  rcases hy with rfl | rfl <;> rfl

/-- Bits A and D of an aligned entry set leave every entry as it was walked. -/
theorem sound_setEntryBit {s : State} {i a b : Nat} {d : DirtyRef} (hb : b = 6 ∨ b = 7) (ha : a % 8 = 0) (h : Sound s i d) :
    Sound (setEntryBit s i a b) i d := by
  obtain ⟨hw, hd⟩ := h
  refine ⟨?_, hd⟩
  by_cases hda : d.addr = a
  · by_cases hp : Present s i
    · rw [StillWalked, hda, entryAt_setEntryBit_same hp (by omega)]
      rw [StillWalked, hda] at hw
      refine or_or_of_or_eq hw ?_
      rcases hb with rfl | rfl
      · exact .inl rfl
      · exact .inr rfl
    · rwa [setEntryBit_absent hp]
  · rwa [StillWalked, entryAt_setEntryBit_apart (by omega) (by omega)]

theorem sound_walkHeld {s : State} {i : Nat} {d : DirtyRef} (c va : Nat) (acc : Acc) (priv : Bool) (salt : Nat)
    (h : Sound s i d) : Sound (walkHeld s i c va acc priv salt).1 i d := by
  simp only [walkHeld]
  refine sound_of_view (memView_modMem (fun m => by simp) _ i) ?_
  split
  next hw =>
    cases hx : (chosenUse s i c va acc priv salt).stop with
    | leaf e a lvl => exact sound_setEntryBit (.inl rfl) (chosenUse_stands hw hx).2.1 h
    | page st lvl => exact h
  · exact h

theorem sound_addrOf {s : State} {i : Nat} {d : DirtyRef} (c : Nat) (priv : Bool) (t : TReg) (o : Nat) (acc : Acc) (salt : Nat)
    (h : Sound s i d) : Sound (addrOf s i c priv t o acc salt).1 i d := by
  rw [addrOf]
  split
  · exact h
  · split
    · exact h
    · split
      · exact h
      · exact sound_walkHeld _ _ _ _ _ h

/-- A translation for a write that leaves a D bit to set comes from a fresh walk. -/
theorem sound_translate {s : State} {i c va salt : Nat} {acc : Acc} {priv : Bool} {l : Loc} {d : DirtyRef} (hacc : acc.writes = true)
    (h : (translate s i c priv va acc salt).2 = .ok l) (hd : l.dirtyAt = some d) :
    Sound (translate s i c priv va acc salt).1 i d := by
  have hstop : (walkHeld s i c va acc priv salt).2 = (chosenUse s i c va acc priv salt).stop := rfl
  simp only [Machine.translate, hstop] at h ⊢
  cases hx : (chosenUse s i c va acc priv salt).stop with
  | page st lvl => rw [hx] at h; cases h
  | leaf e a lvl =>
    rw [hx, transOf] at h
    split at h
    · cases h
    · cases h
    · obtain rfl := Trans.ok.inj h
      rw [locOf] at hd
      dsimp only at hd
      split at hd
      · cases hd
      next hclean =>
        obtain rfl := Option.some.inj hd
        have hfresh : chosenUse s i c va acc priv salt = freshUse s i c va := by
          rcases chosenUse_cases s i c va acc priv salt with hf | ⟨t, -, -, hp⟩
          · exact hf
          · rw [hx, heldPermits, hacc] at hp
            simp [hclean] at hp
        obtain ⟨he, ha, hv⟩ := freshUse_stands (hfresh ▸ hx)
        have hpresent : Present s i := present_of_entryAt (a := a) (b := 0) (he.symm ▸ hv)
        have hwalked : (chosenUse s i c va acc priv salt).walked = true := by rw [hfresh]; rfl
        simp only [walkHeld, hwalked, if_true, hx]
        refine sound_of_view (memView_modMem (fun m => by simp) _ i) ⟨?_, ha⟩
        simp only [StillWalked, setAccessed]
        rw [entryAt_setEntryBit_same hpresent (by omega), he, BitVec.or_assoc]
        rfl

theorem sound_of_addrOf {s : State} {i c o salt : Nat} {acc : Acc} {priv : Bool} {t : TReg} {l : Loc} {d : DirtyRef}
    (hacc : acc.writes = true) (h : (addrOf s i c priv t o acc salt).2 = .ok l) (hd : l.dirtyAt = some d) :
    Sound (addrOf s i c priv t o acc salt).1 i d := by
  rw [addrOf] at h ⊢
  split at h
  · cases h
  next he =>
    rw [if_neg he]
    split at h
    · obtain rfl := Trans.ok.inj h
      cases hd
    next hp =>
      rw [if_neg hp]
      split at h
      · cases h
      next hb =>
        rw [if_neg hb]
        exact sound_translate hacc h hd

theorem sound_translateAll {i c : Nat} {priv : Bool} {acc : Acc} {s : State} {rs : List Req} {d : DirtyRef} (h : Sound s i d) :
    Sound (translateAll i c priv acc s rs).1 i d := by
  induction rs generalizing s with
  | nil => exact h
  | cons r rs ih => exact ih (sound_addrOf _ _ _ _ _ _ h)

theorem sound_of_translateAll {i c : Nat} {priv : Bool} {acc : Acc} (hacc : acc.writes = true) {s : State} {rs : List Req} :
    ∀ p ∈ (translateAll i c priv acc s rs).2, ∀ l d, p.2 = .ok l → l.dirtyAt = some d →
      Sound (translateAll i c priv acc s rs).1 i d := by
  induction rs generalizing s with
  | nil => exact fun p hp => absurd hp List.not_mem_nil
  | cons r rs ih =>
    simp only [translateAll]
    intro p hp l d hl hd
    rcases List.mem_cons.1 hp with hp | hp
    · rw [hp] at hl
      exact sound_translateAll (sound_of_addrOf hacc hl hd)
    · exact ih p hp l d hl hd

theorem locs_vcAll (i c : Nat) (wr : Bool) (s : State) (hs : List Hit) :
    ((vcAll i c wr s hs).2.map fun p => p.1.loc) = hs.map Hit.loc := by
  induction hs generalizing s with
  | nil => rfl
  | cons h hs ih => exact congrArg (h.loc :: ·) (ih _)

/-- The addresses of an access translated. -/
def accessWalk (s : State) (cx : Cx) (w : Want) (rs : List Req) : State × List (Req × Trans) :=
  translateAll cx.g.ident.island cx.g.ident.ctx (privileged cx.g.ident) w.acc s rs

/-- The VC of every address that an access translated. -/
def accessVc (s : State) (cx : Cx) (w : Want) (rs : List Req) : State × List (Hit × VcAns) :=
  vcAll cx.g.ident.island cx.g.ident.ctx w.acc.writes (accessWalk s cx w rs).1 (hitsOf (accessWalk s cx w rs).2)

theorem checkGlobal_go {s t : State} {cx : Cx} {w : Want} {rs : List Req} {hs : List Hit} {ms : List Miss}
    (h : checkGlobal s cx w rs = .go t hs ms) :
    t = (accessVc s cx w rs).1 ∧ hs = (accessVc s cx w rs).2.map Prod.fst ∧ ms = missesOf (accessWalk s cx w rs).2 := by
  simp only [checkGlobal] at h
  split at h
  · cases h
  · split at h
    · cases h
    · split at h
      · cases h
      · split at h
        · cases h
        · split at h
          · cases h
          · generalize (if w.q = 3 then (none : Option Cause) else firstRace _ cx w _) = race at h
            cases race with
            | some c => cases h
            | none =>
              obtain ⟨ht, hhs, hms⟩ := Checked.go.inj h
              exact ⟨ht.symm, hhs.symm, hms.symm⟩

/-- Every entry whose D bit the hits of a checked write are to set holds what was walked. -/
theorem sound_of_passes {s t : State} {cx : Cx} {w : Want} {rs : List Req} {hs : List Hit} (hacc : w.acc.writes = true)
    (h : Passes s t cx w rs hs) : ∀ x ∈ hs, ∀ d, x.loc.dirtyAt = some d → Sound t cx.g.ident.island d := by
  obtain ⟨rfl, rfl, -⟩ := checkGlobal_go h.1
  intro x hx d hd
  have hloc : x.loc ∈ (hitsOf (accessWalk s cx w rs).2).map Hit.loc := by
    rw [← locs_vcAll]
    obtain ⟨p, hp, rfl⟩ := List.mem_map.1 hx
    exact List.mem_map_of_mem hp
  obtain ⟨y, hy, hyx⟩ := List.mem_map.1 hloc
  obtain ⟨p, hp, hpy⟩ := List.mem_filterMap.1 hy
  refine sound_of_view (memView_vcAll ..) ?_
  cases hp2 : p.2 with
  | ok l =>
    rw [hp2] at hpy
    have hl : l.dirtyAt = some d := by
      rw [← hd, ← hyx, ← Option.some.inj hpy]
    exact sound_of_translateAll hacc p hp l d hp2 hl
  | prot st => rw [hp2] at hpy; cases hpy
  | page st lvl n => rw [hp2] at hpy; cases hpy

end Sys2Proof.Proofs

/-! PROOFS. Bytes written through the hits of an access, one after another (R240, R299, R312). -/

namespace Sys2Proof.Proofs

open Sys2Proof Sys2Proof.Machine Sys2Proof.Laws

/-! ## Bytes put at a physical address -/

theorem physPut_host {s : State} {i p : Nat} {bs : List Byte} (h : isHost p = true) :
    physPut s i p bs = { s with hostMem := memPut s.hostMem p bs } := if_pos h

theorem physPut_hbm {s : State} {i p : Nat} {bs : List Byte} (h : isHost p = false) :
    physPut s i p bs = modMem s i fun m => { m with bytes := memPut m.bytes p bs } := if_neg (by simp [h])

theorem byteAt_physPut_other {s : State} {i p : Nat} {bs : List Byte} {isl a : Nat}
    (h : (isHost a = true ∨ isl = i) → a < p ∨ p + bs.length ≤ a) : byteAt (physPut s i p bs) isl a = byteAt s isl a := by
  rw [byteAt_eq, byteAt_eq]
  cases hp : isHost p with
  | true =>
    rw [physPut_host hp]
    cases ha : isHost a with
    | true => exact memGet_put_outside _ _ _ _ (h (.inl ha))
    | false => rfl
  | false =>
    rw [physPut_hbm hp]
    cases ha : isHost a with
    | true => rfl
    | false =>
      by_cases hi : isl = i
      · subst hi
        by_cases hpres : Present s isl
        · rw [memOf_modMem hpres]
          exact memGet_put_outside _ _ _ _ (h (.inr rfl))
        · rw [modMem_absent hpres]
      · rw [(ownMem_modMem s i _).elsewhere isl hi]
        rfl

theorem byteAt_physPut_same {s : State} {i p k : Nat} {bs : List Byte} (hpres : Present s i) (hk : k < bs.length)
    (hside : p + bs.length ≤ hostBase ∨ hostBase ≤ p) : byteAt (physPut s i p bs) i (p + k) = bs[k] := by
  rw [byteAt_eq]
  cases hp : isHost p with
  | true =>
    have ha : isHost (p + k) = true := by simp only [isHost, decide_eq_true_eq] at hp ⊢; omega
    rw [physPut_host hp, if_pos ha]
    exact memGet_put_inside _ _ _ _ hk
  | false =>
    have ha : isHost (p + k) = false := by simp only [isHost, decide_eq_false_iff_not] at hp ⊢; omega
    rw [physPut_hbm hp, if_neg (by simp [ha]), memOf_modMem hpres]
    exact memGet_put_inside _ _ _ _ hk

theorem entryAt_physPut_apart {s : State} {i p x : Nat} {bs : List Byte} (h : p + bs.length ≤ x ∨ x + 8 ≤ p) :
    entryAt (physPut s i p bs) i x = entryAt s i x := by
  rw [physPut]
  split
  · rfl
  · by_cases hpres : Present s i
    · rw [entryAt, entryAt, memOf_modMem hpres]
      exact congrArg (BitVec.ofNat 64) (memNat_congr fun y hy hlt => memGet_put_outside _ _ _ _ (by omega))
    · rw [modMem_absent hpres]

@[simp] theorem memView_clearMarks (s : State) (i : Nat) (qs : List Nat) : memView (clearMarks s i qs) = memView s := by
  simp [clearMarks]

/-! ## A store at a hit -/

/-- The entries whose D bits the hit's write sets hold what was walked. -/
def HitSound (s : State) (i : Nat) (h : Hit) : Prop := ∀ d, h.loc.dirtyAt = some d → Sound s i d

/-- No byte of the hit lies in the entry. -/
def HitMisses (n : Nat) (h : Hit) (d : DirtyRef) : Prop := h.loc.phys + n ≤ d.addr ∨ d.addr + 8 ≤ h.loc.phys

theorem setDirty_of_walked {s : State} {i phys : Nat} {d : DirtyRef} (h : StillWalked s i d) :
    setDirty s i phys (some d) = setEntryBit s i d.addr 7 := if_pos h

theorem byteAt_setDirty_other {s : State} {i phys isl a : Nat} {o : Option DirtyRef}
    (hs : ∀ d, o = some d → StillWalked s i d) (h : ∀ d, o = some d → isl = i → a < d.addr ∨ d.addr + 8 ≤ a) :
    byteAt (setDirty s i phys o) isl a = byteAt s isl a := by
  cases o with
  | none => rfl
  | some d =>
    rw [setDirty_of_walked (hs d rfl)]
    refine byteAt_setEntryBit_other (by omega) fun hi => ?_
    have := h d rfl hi
    omega

theorem sound_setDirty {s : State} {i phys : Nat} {o : Option DirtyRef} {d : DirtyRef} (ho : ∀ e, o = some e → Sound s i e)
    (h : Sound s i d) : Sound (setDirty s i phys o) i d := by
  cases o with
  | none => exact h
  | some e =>
    obtain ⟨hw, ha⟩ := ho e rfl
    rw [setDirty_of_walked hw]
    exact sound_setEntryBit (.inr rfl) ha h

theorem memView_storeHit (i : Nat) (h : Hit) (bs : List Byte) (s : State) : memView (storeHit i h bs s)
    = memView (physPut (setDirty s i h.loc.phys h.loc.dirtyAt) i h.loc.phys bs) := by
  simp only [storeHit]
  split <;> simp

theorem byteAt_storeHit_other {s : State} {i isl a : Nat} {h : Hit} {bs : List Byte}
    (hs : ∀ d, h.loc.dirtyAt = some d → StillWalked s i d) (hc : Clears bs.length isl a i h) :
    byteAt (storeHit i h bs s) isl a = byteAt s isl a := by
  obtain ⟨hbytes, hentry⟩ := hc
  rw [byteAt_of_view (memView_storeHit ..), byteAt_physPut_other hbytes, byteAt_setDirty_other hs hentry]

theorem byteAt_storeHit_same {s : State} {i k : Nat} {h : Hit} {bs : List Byte} (hp : Present s i) (hk : k < bs.length)
    (hside : h.loc.phys + bs.length ≤ hostBase ∨ hostBase ≤ h.loc.phys) :
    byteAt (storeHit i h bs s) i (h.loc.phys + k) = bs[k] := by
  rw [byteAt_of_view (memView_storeHit ..)]
  exact byteAt_physPut_same ((ownMem_setDirty s i h.loc.phys h.loc.dirtyAt).present.trans hp) hk hside

theorem sound_storeHit {s : State} {i : Nat} {h : Hit} {bs : List Byte} {d : DirtyRef} (hs : HitSound s i h)
    (hm : HitMisses bs.length h d) (hd : Sound s i d) : Sound (storeHit i h bs s) i d := by
  obtain ⟨hw, ha⟩ := sound_setDirty (phys := h.loc.phys) hs hd
  refine sound_of_view (memView_storeHit ..) ⟨?_, ha⟩
  rwa [StillWalked, entryAt_physPut_apart hm]

/-! ## Writes at the hits of an access in their order -/

/-- A step that writes at most a hit's n bytes, and the D bit of its entry. -/
structure HitStep (n i : Nat) (f : State → Hit → State) : Prop where
  present : ∀ s h, Present s i → Present (f s h) i
  keeps : ∀ s h, HitSound s i h → ∀ isl a, Clears n isl a i h → byteAt (f s h) isl a = byteAt s isl a
  sound : ∀ s h d, HitSound s i h → HitMisses n h d → Sound s i d → Sound (f s h) i d

theorem hitStep_sound {n i : Nat} {f : State → Hit → State} (hf : HitStep n i f) {s : State} {before after : List Hit}
    (ha : Apart n (before ++ after)) (hs : ∀ x ∈ before ++ after, HitSound s i x) :
    ∀ x ∈ after, HitSound (before.foldl f s) i x := by
  induction before generalizing s with
  | nil => exact hs
  | cons h hs' ih =>
    obtain ⟨hhead, htail⟩ := List.pairwise_cons.1 ha
    exact ih htail fun x hx d hd =>
      hf.sound s h d (hs h List.mem_cons_self) (hhead x hx d hd) (hs x (List.mem_cons_of_mem _ hx) d hd)

theorem hitStep_keeps {n i : Nat} {f : State → Hit → State} (hf : HitStep n i f) {s : State} {hs : List Hit}
    (ha : Apart n hs) (hsound : ∀ x ∈ hs, HitSound s i x) {isl a : Nat} (hc : ∀ h ∈ hs, Clears n isl a i h) :
    byteAt (hs.foldl f s) isl a = byteAt s isl a := by
  induction hs generalizing s with
  | nil => rfl
  | cons h hs ih =>
    have htail : ∀ x ∈ hs, HitSound (f s h) i x := hitStep_sound hf (before := [h]) ha hsound
    rw [List.foldl_cons, ih (List.pairwise_cons.1 ha).2 htail fun x hx => hc x (List.mem_cons_of_mem _ hx)]
    exact hf.keeps s h (hsound h List.mem_cons_self) isl a (hc h List.mem_cons_self)

theorem hitStep_present {n i : Nat} {f : State → Hit → State} (hf : HitStep n i f) {s : State} (hs : List Hit)
    (h : Present s i) : Present (hs.foldl f s) i := by
  induction hs generalizing s with
  | nil => exact h
  | cons x hs ih => exact ih (hf.present s x h)

/-- A byte that a hit writes stands there in the end unless a later hit covers it. -/
theorem hitStep_writes {n i : Nat} {f : State → Hit → State} (hf : HitStep n i f) {bytes : Hit → List Byte}
    (hw : ∀ s h k, Present s i → k < n → (h.loc.phys + n ≤ hostBase ∨ hostBase ≤ h.loc.phys) →
      byteAt (f s h) i (h.loc.phys + k) = (bytes h).getD k 0)
    {s : State} {before after : List Hit} {h : Hit} {k : Nat} (ha : Apart n (before ++ h :: after))
    (hsound : ∀ x ∈ before ++ h :: after, HitSound s i x) (hp : Present s i) (hk : k < n)
    (hside : h.loc.phys + n ≤ hostBase ∨ hostBase ≤ h.loc.phys)
    (hc : ∀ x ∈ after, Clears n i (h.loc.phys + k) i x) :
    byteAt ((before ++ h :: after).foldl f s) i (h.loc.phys + k) = (bytes h).getD k 0 := by
  rw [List.foldl_append, List.foldl_cons]
  have hrest : before ++ h :: after = (before ++ [h]) ++ after := by simp
  have hafter : ∀ x ∈ after, HitSound (f (before.foldl f s) h) i x := by
    have := hitStep_sound hf (s := s) (before := before ++ [h]) (after := after) (hrest ▸ ha) (hrest ▸ hsound)
    simpa using this
  have hapart : Apart n after := (List.pairwise_cons.1 (List.pairwise_append.1 ha).2.1).2
  rw [hitStep_keeps hf hapart hafter hc]
  exact hw _ h k (hitStep_present hf before hp) hk hside

theorem hitStep_storeHit {n i : Nat} {bytes : Hit → List Byte} {g : Hit → State → State}
    (hg : ∀ h s, memView (g h s) = memView s) (hgp : ∀ h s, Present s i → Present (g h s) i)
    (hb : ∀ h, (bytes h).length = n) : HitStep n i fun s h => g h (storeHit i h (bytes h) s) where
  present s h hp := hgp _ _ ((ownMem_storeHit i h (bytes h) s).present.trans hp)
  keeps s h hs isl a hc := by
    rw [byteAt_of_view (hg ..), byteAt_storeHit_other (fun d hd => (hs d hd).1) (by rwa [hb])]
  sound s h d hs hm hd := sound_of_view (hg ..) (sound_storeHit hs (by rwa [hb]) hd)

/-! ## The operation an access starts -/

/-- What an access leaves of a group's operations and counts. -/
theorem grpOf_addOp {s : State} {k : Nat} (o : FlightOp) (h : (tblGet? s.groups k).isSome = true) :
    grpOf (addOp s k o) k = { grpOf s k with ops := (grpOf s k).ops ++ [{ o with id := s.seq }] } := by
  obtain ⟨g, hg⟩ := Option.isSome_iff_exists.1 h
  simp [grpOf, addOp, modGrp, tblGet, tblGet?_adj_same, hg]

theorem accessStep_addOp (s : State) (k isl : Nat) (o : FlightOp) : AccessStep k isl s (addOp s k o) where
  others _ hj := tblGet?_adj_other _ _ hj
  regs := grpOf_modGrp_keeps (g := Group.regs) (f := fun g => { g with ops := g.ops ++ [{ o with id := s.seq }] }) (fun _ => rfl) s k
  special := grpOf_modGrp_keeps (g := Group.special) (f := fun g => { g with ops := g.ops ++ [{ o with id := s.seq }] })
    (fun _ => rfl) s k
  rest := grpOf_modGrp_keeps (g := accessRest) (f := fun g => { g with ops := g.ops ++ [{ o with id := s.seq }] }) (fun _ => rfl) s k
  panel := rfl
  outside := ⟨rfl, rfl, rfl, rfl⟩
  elsewhere _ _ := rfl
  island _ := rfl
  present := rfl
  standing h := by rwa [addOp, modGrp, tblGet?_adj_same, Option.isSome_map]

theorem standing_of_issuing {s : State} {cx : Cx} (h : issuing s = some cx) : (tblGet? s.groups cx.key).isSome = true := by
  rw [(issuing_some h).2.1]
  rfl

/-- An access that touches its group and island, starts one operation, and then touches them again. -/
theorem added_of {s u e t : State} {cx : Cx} {cls : OpClass} {m : Mask} {atomic : Bool} {ws : List RegWrite}
    (hi : issuing s = some cx) (hu : AccessStep cx.key cx.g.ident.island s u) (hops : (grpOf u cx.key).ops = cx.g.ops)
    (hseq : u.seq = s.seq) (he : e = addOp u cx.key { id := 0, cls := cls, mask := m, atomic := atomic, writes := ws })
    (ht : Touches cx.key cx.g.ident.island e t) : Added s t cx cls atomic m ws ∧ AccessFrame s t cx := by
  subst he
  refine ⟨⟨ht.seq.trans (congrArg (· + 1) hseq), ?_⟩,
    accessFrame_of hi (accessStep_trans hu (accessStep_trans (accessStep_addOp ..) ht.toAccessStep))⟩
  rw [ht.ops, grpOf_addOp _ (hu.standing (standing_of_issuing hi)), hops, hseq]

end Sys2Proof.Proofs

/-! PROOFS. Loads, stores and atomics of global memory where the checks of R298 pass (R301 to R309). -/

namespace Sys2Proof.Proofs

open Sys2Proof Sys2Proof.Machine Sys2Proof.Laws

/-! ## The number that bytes spell -/

theorem leNat_take (bs : List Byte) (n : Nat) : leNat (bs.take n) = leNat bs % 256 ^ n := by
  induction n generalizing bs with
  | zero => simp [leNat, Nat.mod_one]
  | succ n ih =>
    cases bs with
    | nil => simp [leNat]
    | cons b bs =>
      have hb : b.toNat < 256 := b.isLt
      simp only [List.take_succ_cons, leNat, ih, pow_succ]
      rw [Nat.mul_comm (256 ^ n) 256, Nat.mod_mul, Nat.add_mul_div_left _ _ (by norm_num), Nat.div_eq_of_lt hb,
        Nat.add_mul_mod_self_left, Nat.mod_eq_of_lt hb, Nat.zero_add]

theorem leNat_drop (bs : List Byte) (n : Nat) : leNat (bs.drop n) = leNat bs / 256 ^ n := by
  induction n generalizing bs with
  | zero => simp
  | succ n ih =>
    cases bs with
    | nil => simp [leNat]
    | cons b bs =>
      have hb : b.toNat < 256 := b.isLt
      simp only [List.drop_succ_cons, leNat, ih, pow_succ]
      rw [Nat.mul_comm (256 ^ n) 256, ← Nat.div_div_eq_div_mul, Nat.add_mul_div_left _ _ (by norm_num), Nat.div_eq_of_lt hb,
        Nat.zero_add]

theorem physBytes_length (s : State) (i p n : Nat) : (physBytes s i p n).length = n := by
  rw [physBytes]
  split <;> exact memBytes_length ..

/-! ## The values of loads -/

theorem zipIdx_map_range {α : Type} (f : Nat → α) (n : Nat) : ((List.range n).map f).zipIdx = (List.range n).map fun j => (f j, j) := by
  apply List.ext_getElem
  · simp
  · intro k h1 h2
    simp

theorem sizeRegs_small {w : BitVec 3} (h : ¬ w.toNat < 5) : sizeRegs w = 1 := by
  have : w = 5 ∨ w = 6 ∨ w = 7 := by bv_omega
  rcases this with rfl | rfl | rfl <;> rfl

/-- The words a load writes are those of `loadedWord`, of the number its bytes spell. -/
theorem loadWords_eq (w : BitVec 3) {bs : List Byte} (h : bs.length = sizeBytes w) :
    (loadWords w bs).zipIdx.map (fun p => (p.1.setWidth 64, p.2)) = (List.range (sizeRegs w)).map fun j => (loadedWord w (leNat bs) j, j) := by
  rw [loadWords]
  split
  next hw =>
    rw [zipIdx_map_range, List.map_map]
    refine List.map_congr_left fun j _ => ?_
    simp only [Function.comp, loadedWord, if_pos hw, leNat_take, leNat_drop]
    refine congrArg (·, j) ?_
    apply BitVec.eq_of_toNat_eq
    rw [BitVec.toNat_setWidth, BitVec.toNat_ofNat, BitVec.toNat_ofNat, show 256 ^ (4 * j) = 2 ^ (32 * j) by rw [show 256 = 2 ^ 8 from rfl, ← pow_mul]; congr 1; omega]
    norm_num
  next hw => simp [sizeRegs_small hw, loadedWord, hw, h]

theorem loadWrites_eq (s : State) (i : Nat) (d : BitVec 7) (w : BitVec 3) (h : Hit) :
    loadWrites s i d.toNat w h = loadedAt d w s i h := by
  have hwords := loadWords_eq w (bs := hitBytes s i h (sizeBytes w)) (physBytes_length ..)
  have hmap := congrArg (List.map fun p : DWord × Nat =>
    ({ elem := .v (d.toNat + p.2) (h.lane.getD 0), val := if marked s i h.loc.phys then 0 else p.1
       bad := marked s i h.loc.phys } : RegWrite)) hwords
  rw [List.map_map, List.map_map] at hmap
  exact hmap

theorem uniLoadWords_small {w : BitVec 3} {bs : List Byte} (hw : w ≠ 4) : uniLoadWords w bs
    = [if w = 5 then BitVec.ofInt 64 (signed (leNat bs) 8) else if w = 6 then BitVec.ofInt 64 (signed (leNat bs) 16)
       else BitVec.ofNat 64 (leNat bs)] := by
  have hcases : w = 0 ∨ w = 1 ∨ w = 2 ∨ w = 3 ∨ w = 5 ∨ w = 6 ∨ w = 7 := by bv_omega
  rcases hcases with rfl | rfl | rfl | rfl | rfl | rfl | rfl <;> rfl

/-- What ULD writes. -/
def uldWrites (d : BitVec 6) (w : BitVec 3) (s : State) (isl : Nat) (h : Hit) : List RegWrite :=
  (uniLoadWords w (hitBytes s isl h (sizeBytes w))).zipIdx.map fun p =>
    { elem := .s (d.toNat + p.2), val := if marked s isl h.loc.phys then 0 else p.1, bad := marked s isl h.loc.phys }

theorem uldWrites_small {d : BitVec 6} {w : BitVec 3} (hw : w ≠ 4) (s : State) (isl : Nat) (h : Hit) :
    uldWrites d w s isl h = loadedUni d w s isl h := by
  rw [uldWrites, uniLoadWords_small hw, loadedUni]
  by_cases h5 : w = 5
  · subst h5
    rfl
  · by_cases h6 : w = 6
    · subst h6
      rfl
    · have h5' : ¬ w = 5#3 := h5
      have h6' : ¬ w = 6#3 := h6
      simp [h5', h6', physNat, hitBytes]

theorem uldWrites_pair (d : BitVec 6) (s : State) (isl : Nat) (h : Hit) : uldWrites d 4 s isl h = loadedPair d s isl h := by
  have hlow : BitVec.ofNat 64 (leNat ((hitBytes s isl h 16).take 8)) = BitVec.ofNat 64 (physNat s isl h.loc.phys 16 / 2 ^ (64 * 0)) := by
    rw [leNat_take]
    apply BitVec.eq_of_toNat_eq
    simp only [BitVec.toNat_ofNat, physNat, hitBytes]
    norm_num
  have hhigh : BitVec.ofNat 64 (leNat ((hitBytes s isl h 16).drop 8)) = BitVec.ofNat 64 (physNat s isl h.loc.phys 16 / 2 ^ (64 * 1)) := by
    rw [leNat_drop]
    rfl
  rw [uldWrites, loadedPair]
  show List.map _ ([BitVec.ofNat 64 (leNat ((hitBytes s isl h 16).take 8)), BitVec.ofNat 64 (leNat ((hitBytes s isl h 16).drop 8))].zipIdx) = _
  rw [hlow, hhigh]
  rfl

/-! ## An access that passes its checks -/

section
variable {i : Instr} {fm : Form} {w : Want} {s s1 : State} {cx : Cx} {hs : List Hit}

theorem exec_laneAccess {reqs : Cx → List Req} {len : Nat} {effect : Cx → State → List Hit → State}
    (he : ∀ s, exec i s = issue fm (fun cx s => laneAccess cx s w (reqs cx) len (effect cx)) s)
    (hf : ∀ s cx, formOf i s cx = fm) (c : Ready i s cx) (h : Passes s s1 cx w (reqs cx) hs) :
    exec i s = .next (issued fm s cx (modGrp (effect cx s1 hs) cx.key (advance len cx.ix))) := by
  have hclear : Clear fm s cx := hf s cx ▸ c
  obtain ⟨hgo, hne⟩ := h
  rw [he]
  refine issue_ok hclear ?_
  simp only [laneAccess, hgo, if_neg hne, passOrPark, if_true]

theorem hits_length_le (s : State) (cx : Cx) (w : Want) (rs : List Req) :
    ((accessVc s cx w rs).2.map Prod.fst).length ≤ rs.length := by
  have hvc (i c : Nat) (wr : Bool) (s : State) (hs : List Hit) : (vcAll i c wr s hs).2.length = hs.length := by
    have h := congrArg List.length (locs_vcAll i c wr s hs)
    rwa [List.length_map, List.length_map] at h
  have htr (i c : Nat) (priv : Bool) (acc : Acc) (s : State) (rs : List Req) :
      (translateAll i c priv acc s rs).2.length = rs.length := by
    induction rs generalizing s with
    | nil => rfl
    | cons r rs ih => exact congrArg (· + 1) (ih _)
  rw [List.length_map, accessVc, hvc, hitsOf]
  exact (List.length_filterMap_le ..).trans (htr ..).le

theorem passes_one {r : Req} (h : Passes s s1 cx w [r] hs) : ∃ x, hs = [x] := by
  obtain ⟨hgo, hne⟩ := h
  obtain ⟨-, hhs, -⟩ := checkGlobal_go hgo
  have hlen := hits_length_le s cx w [r]
  rw [← hhs] at hlen
  match hs, hne, hlen with
  | [x], _, _ => exact ⟨x, rfl⟩

theorem exec_uniAccess {r : Cx → Req} {effect : Cx → State → Hit → State} {x : Hit}
    (he : ∀ s, exec i s = issue fm (fun cx s => uniAccess cx s w (r cx) (effect cx)) s)
    (hf : ∀ s cx, formOf i s cx = fm) (c : Ready i s cx) (h : Passes s s1 cx w [r cx] [x]) :
    exec i s = .next (issued fm s cx (modGrp (effect cx s1 x) cx.key (advance 4 cx.ix))) := by
  have hclear : Clear fm s cx := hf s cx ▸ c
  rw [he]
  refine issue_ok hclear ?_
  simp only [uniAccess, h.1]

@[simp] theorem memView_issued (fm : Form) (s e : State) (cx : Cx) : memView (issued fm s cx e) = memView e := memView_bookAll ..

theorem ident_of_issuing (hi : issuing s = some cx) {t : State} (h : AccessStep cx.key cx.g.ident.island s t) :
    (grpOf t cx.key).ident.island = cx.g.ident.island := by
  rw [accessStep_ident h, grpOf_issuing hi]

/-- The state after an access: an operation started, what follows it, the fragment past the instruction, the issue booked. -/
theorem access_result {e p : State} {cls : OpClass} {m : Mask} {atomic : Bool} {ws : List RegWrite} {len : Nat} (fm : Form)
    (hi : issuing s = some cx) (hu : AccessStep cx.key cx.g.ident.island s e) (hops : (grpOf e cx.key).ops = cx.g.ops)
    (hseq : e.seq = s.seq)
    (hp : Touches cx.key cx.g.ident.island
      (addOp e cx.key { id := 0, cls := cls, mask := m, atomic := atomic, writes := ws }) p) :
    Added s (issued fm s cx (modGrp p cx.key (advance len cx.ix))) cx cls atomic m ws
    ∧ AccessFrame s (issued fm s cx (modGrp p cx.key (advance len cx.ix))) cx :=
  added_of hi hu hops hseq rfl (touches_trans hp (touches_trans (touches_goPast ..) (touches_issued ..)))

theorem access_result_touches {e p : State} {cls : OpClass} {m : Mask} {atomic : Bool} {ws : List RegWrite} {len : Nat} (fm : Form)
    (hi : issuing s = some cx) (hu : Touches cx.key cx.g.ident.island s e)
    (hp : Touches cx.key cx.g.ident.island
      (addOp e cx.key { id := 0, cls := cls, mask := m, atomic := atomic, writes := ws }) p) :
    Added s (issued fm s cx (modGrp p cx.key (advance len cx.ix))) cx cls atomic m ws
    ∧ AccessFrame s (issued fm s cx (modGrp p cx.key (advance len cx.ix))) cx :=
  access_result fm hi hu.toAccessStep (hu.ops.trans (congrArg Group.ops (grpOf_issuing hi))) hu.seq hp

end

/-! ## Loads -/

theorem loads_lane {i : Instr} {fm : Form} {wt : Want} {reqs : Cx → List Req} {len : Nat} {d : BitVec 7} {w : BitVec 3}
    {post : Cx → State → State}
    (he : ∀ s, exec i s = issue fm (fun cx s => laneAccess cx s wt (reqs cx) len fun s hs => post cx (loadEffect cx d w wt s hs)) s)
    (hf : ∀ s cx, formOf i s cx = fm) (hpost : ∀ cx s, Touches cx.key cx.g.ident.island s (post cx s))
    (hview : ∀ cx s, memView (post cx s) = memView s) :
    Loads i wt reqs (fun _ hs => hitMask hs) (loadedAt d w) := by
  intro s cx s1 hs c h
  have hi := c.issuer
  have hwalk := touches_of_ownMem cx.key (ownMem_passes h)
  have hnote := touches_foldl (f := fun s h => noteAccess cx wt .load false h s) (fun s x hx => touches_noteAccess wt .load false x hx)
    hs (ident_of_issuing hi hwalk.toAccessStep)
  have hwrites : hs.flatMap (loadWrites s1 cx.g.ident.island d.toNat w) = hs.flatMap (loadedAt d w s1 cx.g.ident.island) :=
    List.flatMap_congr fun x _ => loadWrites_eq ..
  obtain ⟨hadded, hframe⟩ := access_result_touches (len := len) fm hi (touches_trans hwalk hnote)
    (hpost cx (loadEffect cx d w wt s1 hs))
  refine ⟨_, exec_laneAccess he hf c h, hwrites ▸ hadded, hframe, sameMemory_of_view ?_⟩
  simp [hview, loadEffect]

theorem loads_uniform {i : Instr} {fm : Form} {wt : Want} {r : Cx → Req} {writes : State → Nat → Hit → List RegWrite}
    (he : ∀ s, exec i s = issue fm (fun cx s => uniAccess cx s wt (r cx) fun s h =>
      addOp (noteAccess cx wt .load false h s) cx.key
        { id := 0, cls := .load, mask := cx.f.mask, writes := writes s cx.g.ident.island h }) s)
    (hf : ∀ s cx, formOf i s cx = fm) :
    Loads i wt (fun cx => [r cx]) (fun cx _ => cx.f.mask) writes := by
  intro s cx s1 hs c h
  have hi := c.issuer
  obtain ⟨x, rfl⟩ := passes_one h
  have hwalk := touches_of_ownMem cx.key (ownMem_passes h)
  have hnote := touches_noteAccess wt .load false x (ident_of_issuing hi hwalk.toAccessStep)
  obtain ⟨hadded, hframe⟩ := access_result_touches (len := 4) fm hi (touches_trans hwalk hnote)
    (touches_refl ..)
  refine ⟨_, exec_uniAccess he hf c h, ?_, hframe, sameMemory_of_view ?_⟩
  · rwa [List.flatMap_singleton]
  · simp

/-! ## Stores -/

theorem storeBytes_eq {w : BitVec 3} {ws : List Word} (h : ws.length = sizeRegs w) :
    (storeBytes (sizeBytes w) ws).length = sizeBytes w
    ∧ ∀ k, k < sizeBytes w → (storeBytes (sizeBytes w) ws).getD k 0 = (ws.flatMap fun v => leBytes v.toNat 4).getD k 0 := by
  have hfour : (ws.flatMap fun v => leBytes v.toNat 4).length = 4 * sizeRegs w := by
    rw [List.length_flatMap, ← h]
    simp [leBytes_length, Nat.mul_comm]
  have hsize : sizeBytes w ≤ 4 * sizeRegs w := by
    have hcases : w = 0 ∨ w = 1 ∨ w = 2 ∨ w = 3 ∨ w = 4 ∨ w = 5 ∨ w = 6 ∨ w = 7 := by bv_omega
    rcases hcases with rfl | rfl | rfl | rfl | rfl | rfl | rfl | rfl <;> decide
  refine ⟨?_, fun k hk => ?_⟩
  · rw [storeBytes, List.length_take, hfour]
    exact min_eq_left hsize
  · simp only [storeBytes, List.getD_eq_getElem?_getD, List.getElem?_take, if_pos hk]

theorem present_touch {t : Touch} {k l i : Nat} {s : State} (h : Present s i) : Present (touch t k l s) i := by
  unfold touch
  extract_lets g m rs c scopes g' out place s1 s2 s3
  have h3 : Present s3 i := by
    simp only [s3]
    split
    · exact (present_modIsl s2 _ i _).trans h
    · exact h
  split <;> exact h3

theorem present_noteAccess {cx : Cx} {w : Want} {act : HomeAct} {wrote : Bool} {h : Hit} {s : State} {i : Nat} (hp : Present s i) :
    Present (noteAccess cx w act wrote h s) i := by
  have hhome : Present (reachHome cx w.q act h s) i := (present_modIsl s _ i _).trans hp
  rw [noteAccess, orderAccess]
  split
  · exact hhome
  · extract_lets l both s1 s2
    have hboth {s : State} (hs : Present s i) : Present (both s) i := by
      simp only [both]
      split <;> exact hs
    have h2 : Present s2 i := by
      simp only [s2]
      split
      · exact hboth hhome
      · exact (present_modIsl s1 _ i _).trans (hboth hhome)
    exact hboth (present_touch h2)

/-- One hit of a store, and what is noted of it. -/
def storeOne (cx : Cx) (wt : Want) (bytes : Hit → List Byte) (s : State) (h : Hit) : State :=
  noteAccess cx wt .store true h (storeHit cx.g.ident.island h (bytes h) s)

theorem hitStep_storeOne {cx : Cx} {wt : Want} {bytes : Hit → List Byte} {n : Nat} (hb : ∀ h, (bytes h).length = n) :
    HitStep n cx.g.ident.island (storeOne cx wt bytes) :=
  hitStep_storeHit (g := fun h s => noteAccess cx wt .store true h s) (fun _ _ => memView_noteAccess ..)
    (fun _ _ => present_noteAccess) hb

theorem byteAt_storeOne {cx : Cx} {wt : Want} {bytes : Hit → List Byte} {n : Nat} (hb : ∀ h, (bytes h).length = n) (s : State)
    (h : Hit) (k : Nat) (hp : Present s cx.g.ident.island) (hk : k < n)
    (hside : h.loc.phys + n ≤ hostBase ∨ hostBase ≤ h.loc.phys) :
    byteAt (storeOne cx wt bytes s h) cx.g.ident.island (h.loc.phys + k) = (bytes h).getD k 0 := by
  have hlen : k < (bytes h).length := by rwa [hb]
  rw [storeOne, byteAt_of_view (memView_noteAccess ..), byteAt_storeHit_same hp hlen (by rwa [hb]),
    List.getD_eq_getElem _ _ hlen]

theorem touches_storeOne {cx : Cx} {wt : Want} {bytes : Hit → List Byte} {s : State} (h : Hit)
    (hs : (grpOf s cx.key).ident.island = cx.g.ident.island) :
    Touches cx.key cx.g.ident.island s (storeOne cx wt bytes s h) := by
  have hstore := touches_of_ownMem cx.key (ownMem_storeHit cx.g.ident.island h (bytes h) s)
  exact touches_trans hstore (touches_noteAccess _ _ _ h ((congrArg Ident.island (accessStep_ident hstore.toAccessStep)).trans hs))

/-- What stores through a list of hits come to, once the checks have passed. -/
theorem stores_result {s s1 : State} {cx : Cx} {wt : Want} {rs : List Req} {hs : List Hit} {put : Hit → List Byte}
    {bytes : Cx → Nat → List Byte} {fm : Form} {m : Mask} {len : Nat} (hi : issuing s = some cx) (hw : wt.acc.writes = true)
    (h : Passes s s1 cx wt rs hs) (hlen : ∀ x, (put x).length = wt.n)
    (hbytes : ∀ x k, k < wt.n → (put x).getD k 0 = (bytes cx (x.lane.getD 0)).getD k 0) :
    let t := issued fm s cx (modGrp (addOp (hs.foldl (storeOne cx wt put) s1) cx.key { id := 0, cls := .store, mask := m })
      cx.key (advance len cx.ix))
    Added s t cx .store false m [] ∧ AccessFrame s t cx ∧ t.teams = s.teams
    ∧ (Apart wt.n hs → (∀ isl a, (∀ h ∈ hs, Clears wt.n isl a cx.g.ident.island h) → byteAt t isl a = byteAt s1 isl a)
      ∧ ∀ before h after k, Present s cx.g.ident.island → hs = before ++ h :: after → k < wt.n
        → (h.loc.phys + wt.n ≤ hostBase ∨ hostBase ≤ h.loc.phys)
        → (∀ x ∈ after, Clears wt.n cx.g.ident.island (h.loc.phys + k) cx.g.ident.island x)
        → byteAt t cx.g.ident.island (h.loc.phys + k) = (bytes cx (h.lane.getD 0)).getD k 0) := by
  have hwalk := touches_of_ownMem cx.key (ownMem_passes h)
  have hstores := touches_trans hwalk (touches_foldl (f := storeOne cx wt put) (fun s x hx => touches_storeOne x hx) hs
    (ident_of_issuing hi hwalk.toAccessStep))
  obtain ⟨hadded, hframe⟩ := access_result_touches (cls := .store) (m := m) (atomic := false) (ws := []) (len := len) fm hi hstores
    (touches_refl ..)
  have hstep := hitStep_storeOne (cx := cx) (wt := wt) hlen
  have hsound : ∀ x ∈ hs, HitSound s1 cx.g.ident.island x := sound_of_passes hw h
  intro t
  have hview : memView t = memView (hs.foldl (storeOne cx wt put) s1) := by simp [t]
  refine ⟨hadded, hframe, (issued_teams ..).trans hstores.teams, fun hapart => ⟨fun isl a hc => ?_, ?_⟩⟩
  · rw [byteAt_of_view hview]
    exact hitStep_keeps hstep hapart hsound hc
  · rintro before x after k hp rfl hk hside hc
    rw [byteAt_of_view hview, ← hbytes x k hk]
    exact hitStep_writes hstep (byteAt_storeOne hlen) hapart hsound (hwalk.present.trans hp) hk hside hc

theorem stores_lane {i : Instr} {fm : Form} {wt : Want} {reqs : Cx → List Req} {len : Nat} {d : BitVec 7} {w : BitVec 3}
    (he : ∀ s, exec i s = issue fm (fun cx s => laneAccess cx s wt (reqs cx) len (storeEffect cx d w wt)) s)
    (hf : ∀ s cx, formOf i s cx = fm) (hw : wt.acc.writes = true) (hn : wt.n = sizeBytes w) :
    Stores i wt reqs (fun _ hs => hitMask hs)
      fun cx l => (spanWords cx.g.regs d.toNat (sizeRegs w) l).flatMap fun v => leBytes v.toNat 4 := by
  intro s cx s1 hs c h
  have hspan (x : Hit) := storeBytes_eq (w := w) (ws := spanWords cx.g.regs d.toNat (sizeRegs w) (x.lane.getD 0))
    (by simp [spanWords])
  exact ⟨_, exec_laneAccess he hf c h, stores_result (fm := fm) (m := hitMask hs) (len := len)
    (bytes := fun cx l => (spanWords cx.g.regs d.toNat (sizeRegs w) l).flatMap fun v => leBytes v.toNat 4) c.issuer hw h
    (fun x => (hspan x).1.trans hn.symm) fun x k hk => (hspan x).2 k (hn ▸ hk)⟩

theorem uniStoreBytes_eq (g : Regs) (d : BitVec 6) (w : BitVec 3) : (uniStoreBytes g d w).length = sizeBytes w
    ∧ ∀ k, k < sizeBytes w → (uniStoreBytes g d w).getD k 0
      = (leBytes (readS g d.toNat).toNat 8 ++ leBytes (readS g (d.toNat + 1)).toNat 8).getD k 0 := by
  by_cases hw : w = 4
  · subst hw
    have hbytes : uniStoreBytes g d 4 = (leBytes (readS g d.toNat).toNat 8 ++ leBytes (readS g (d.toNat + 1)).toNat 8).take 16 := by
      rw [uniStoreBytes, show List.range (uniRegs 4) = [0, 1] from rfl]
      simp only [List.flatMap_cons, List.flatMap_nil, List.append_nil, Nat.add_zero]
      rfl
    have hlen : (leBytes (readS g d.toNat).toNat 8 ++ leBytes (readS g (d.toNat + 1)).toNat 8).length = 16 := by
      rw [List.length_append, leBytes_length, leBytes_length]
    rw [hbytes, List.take_of_length_le hlen.le]
    exact ⟨hlen, fun _ _ => rfl⟩
  · have hbytes : uniStoreBytes g d w = (leBytes (readS g d.toNat).toNat 8).take (sizeBytes w) := by
      have hone : uniRegs w = 1 := by
        rw [uniRegs, if_neg hw]
      rw [uniStoreBytes, hone, show List.range 1 = [0] from rfl]
      simp
    have hsize : sizeBytes w ≤ 8 := by
      have hcases : w = 0 ∨ w = 1 ∨ w = 2 ∨ w = 3 ∨ w = 5 ∨ w = 6 ∨ w = 7 := by bv_omega
      rcases hcases with rfl | rfl | rfl | rfl | rfl | rfl | rfl <;> decide
    rw [hbytes]
    refine ⟨?_, fun k hk => ?_⟩
    · rw [List.length_take, leBytes_length]
      exact min_eq_left hsize
    · have hk8 : k < (leBytes (readS g d.toNat).toNat 8).length := by
        rw [leBytes_length]
        omega
      simp only [List.getD_eq_getElem?_getD, List.getElem?_take, if_pos hk, List.getElem?_append_left hk8]

theorem stores_uniform {i : Instr} {fm : Form} {wt : Want} {r : Cx → Req} {put bytes : Cx → List Byte}
    (he : ∀ s, exec i s = issue fm (fun cx s => uniAccess cx s wt (r cx) fun s h =>
      addOp (storeOne cx wt (fun _ => put cx) s h) cx.key { id := 0, cls := .store, mask := cx.f.mask }) s)
    (hf : ∀ s cx, formOf i s cx = fm) (hw : wt.acc.writes = true) (hlen : ∀ cx, (put cx).length = wt.n)
    (hbytes : ∀ cx k, k < wt.n → (put cx).getD k 0 = (bytes cx).getD k 0) :
    Stores i wt (fun cx => [r cx]) (fun cx _ => cx.f.mask) fun cx _ => bytes cx := by
  intro s cx s1 hs c h
  obtain ⟨y, rfl⟩ := passes_one h
  have hres := stores_result (fm := fm) (m := cx.f.mask) (len := 4) (put := fun _ => put cx)
    (bytes := fun cx _ => bytes cx) c.issuer hw h (fun _ => hlen cx) fun _ k hk => hbytes cx k hk
  rw [List.foldl_cons, List.foldl_nil] at hres
  exact ⟨_, exec_uniAccess he hf c h, hres⟩

/-- Settles O19. -/
theorem loadStoreResults : Obligations.LoadStoreResults := by
  refine ⟨⟨fun st d a t w q x => ?load, fun st d a t w q x => ?acquire, fun st d a t w q x hw => ?uniform,
    fun st d a t q x => ?pair⟩, fun st d a t w q x => ?store, fun st d a t w q x => ?release,
    fun st d a t w q x => ?ustore⟩
  case load =>
    exact loads_lane (post := fun _ s => s) (fun _ => rfl) (fun _ _ => rfl) (fun _ _ => touches_refl ..) fun _ _ => rfl
  case acquire =>
    exact loads_lane (post := fun cx s => acquireAt s cx true (lmScope q)) (fun _ => rfl) (fun _ _ => rfl)
      (fun cx s => touches_of_ownMem _ (ownMem_acquireAt s cx true _)) fun _ _ => memView_acquireAt ..
  case uniform =>
    have hwrites : uldWrites d w = loadedUni d w := funext fun s => funext fun i => funext fun h => uldWrites_small hw s i h
    exact hwrites ▸ loads_uniform (writes := uldWrites d w) (fun _ => rfl) (fun _ _ => rfl)
  case pair =>
    have hwrites : uldWrites d 4 = loadedPair d := funext fun s => funext fun i => funext fun h => uldWrites_pair d s i h
    exact hwrites ▸ loads_uniform (writes := uldWrites d 4) (fun _ => rfl) (fun _ _ => rfl)
  case store => exact stores_lane (fun _ => rfl) (fun _ _ => rfl) rfl rfl
  case release => exact stores_lane (fun _ => rfl) (fun _ _ => rfl) rfl rfl
  case ustore =>
    exact stores_uniform (put := fun cx => uniStoreBytes cx.g.regs d w) (fun _ => rfl) (fun _ _ => rfl) rfl
      (fun _ => (uniStoreBytes_eq ..).1) fun _ k hk => (uniStoreBytes_eq ..).2 k hk

end Sys2Proof.Proofs

/-! PROOFS. Atomics of global memory (R306 to R309, R311). -/

namespace Sys2Proof.Proofs

open Sys2Proof Sys2Proof.Machine Sys2Proof.Laws

/-! ## One atomic -/

theorem physBytes_of_mem {s t : State} (hh : t.hostMem = s.hostMem) {i : Nat} (hi : (islOf t i).mem.bytes = (islOf s i).mem.bytes)
    (p n : Nat) : physBytes t i p n = physBytes s i p n := by
  rw [physBytes, hh, hi, physBytes]

theorem physBytes_of_view {s t : State} (h : memView t = memView s) (i p n : Nat) : physBytes t i p n = physBytes s i p n :=
  physBytes_of_mem (congrArg MemView.host h) (congrFun (congrArg MemView.island h) i) p n

theorem physBytes_physPut_same {s : State} {i p : Nat} {bs : List Byte} (hp : Present s i) :
    physBytes (physPut s i p bs) i p bs.length = bs := by
  cases hh : isHost p with
  | true =>
    rw [physPut_host hh, physBytes, if_pos hh]
    exact memBytes_put ..
  | false =>
    rw [physPut_hbm hh, physBytes, if_neg (by simp [hh]), memOf_modMem hp]
    exact memBytes_put ..

theorem physBytes_storeHit {s : State} {i : Nat} {h : Hit} {bs : List Byte} (hp : Present s i) :
    physBytes (storeHit i h bs s) i h.loc.phys bs.length = bs := by
  rw [physBytes_of_view (memView_storeHit ..)]
  exact physBytes_physPut_same ((ownMem_setDirty s i h.loc.phys h.loc.dirtyAt).present.trans hp)

/-- The state in which an atomic has written what it writes. -/
def atomPut (i : Nat) (w : Want) (h : Hit) (new : Option Nat) (s : State) : State :=
  match new with
  | some x => storeHit i h (leBytes x w.n) s
  | none => s

theorem atomHit_marked {cx : Cx} {w : Want} {act : AtomAct} {s : State} {h : Hit}
    (hm : marked s cx.g.ident.island h.loc.phys = true) : atomHit cx w act s h = (s, 0, true) := by
  simp only [atomHit, hm, if_true]

theorem atomHit_clear {cx : Cx} {w : Want} {act : AtomAct} {s : State} {h : Hit}
    (hm : marked s cx.g.ident.island h.loc.phys = false) : atomHit cx w act s h
      = (noteAccess cx w .atomic (atomNew act w.n (physNat s cx.g.ident.island h.loc.phys w.n)).isSome h
          (atomPut cx.g.ident.island w h (atomNew act w.n (physNat s cx.g.ident.island h.loc.phys w.n)) s),
        physNat s cx.g.ident.island h.loc.phys w.n, false) := by
  simp only [atomHit, hm, Bool.false_eq_true, if_false]
  rfl

theorem ownMem_atomPut (i : Nat) (w : Want) (h : Hit) (new : Option Nat) (s : State) : OwnMem i s (atomPut i w h new s) := by
  cases new with
  | none => exact ownMem_refl ..
  | some x => exact ownMem_storeHit ..

theorem byteAt_atomHit_other {cx : Cx} {w : Want} {act : AtomAct} {s : State} {h : Hit} {isl a : Nat}
    (hs : ∀ d, h.loc.dirtyAt = some d → StillWalked s cx.g.ident.island d) (hc : Clears w.n isl a cx.g.ident.island h) :
    byteAt (atomHit cx w act s h).1 isl a = byteAt s isl a := by
  cases hm : marked s cx.g.ident.island h.loc.phys with
  | true => rw [atomHit_marked hm]
  | false =>
    rw [atomHit_clear hm, byteAt_of_view (memView_noteAccess ..)]
    cases atomNew act w.n (physNat s cx.g.ident.island h.loc.phys w.n) with
    | none => rfl
    | some x => exact byteAt_storeHit_other hs (by rwa [leBytes_length])

theorem hitStep_atomHit (cx : Cx) (w : Want) (act : Nat → AtomAct) :
    HitStep w.n cx.g.ident.island fun s h => (atomHit cx w (act (h.lane.getD 0)) s h).1 where
  present s h hp := by
    cases hm : marked s cx.g.ident.island h.loc.phys with
    | true => rwa [atomHit_marked hm]
    | false =>
      rw [atomHit_clear hm]
      exact present_noteAccess ((ownMem_atomPut ..).present.trans hp)
  keeps s h hs isl a hc := byteAt_atomHit_other (fun d hd => (hs d hd).1) hc
  sound s h d hs hmiss hd := by
    cases hm : marked s cx.g.ident.island h.loc.phys with
    | true => rwa [atomHit_marked hm]
    | false =>
      rw [atomHit_clear hm]
      refine sound_of_view (memView_noteAccess ..) ?_
      cases atomNew (act (h.lane.getD 0)) w.n (physNat s cx.g.ident.island h.loc.phys w.n) with
      | none => exact hd
      | some x => exact sound_storeHit hs (by rwa [leBytes_length]) hd

theorem touches_atomHit {cx : Cx} {w : Want} {act : AtomAct} {s : State} (h : Hit)
    (hs : (grpOf s cx.key).ident.island = cx.g.ident.island) :
    Touches cx.key cx.g.ident.island s (atomHit cx w act s h).1 := by
  cases hm : marked s cx.g.ident.island h.loc.phys with
  | true =>
    rw [atomHit_marked hm]
    exact touches_refl ..
  | false =>
    rw [atomHit_clear hm]
    have hput := touches_of_ownMem cx.key
      (ownMem_atomPut cx.g.ident.island w h (atomNew act w.n (physNat s cx.g.ident.island h.loc.phys w.n)) s)
    exact touches_trans hput (touches_noteAccess _ _ _ h ((congrArg Ident.island (accessStep_ident hput.toAccessStep)).trans hs))

theorem atomLanes_state (cx : Cx) (w : Want) (d : Nat) (act : Nat → AtomAct) (s : State) (hs : List Hit) :
    (atomLanes cx w d act s hs).1 = hs.foldl (fun s h => (atomHit cx w (act (h.lane.getD 0)) s h).1) s := by
  induction hs generalizing s with
  | nil => rfl
  | cons h hs ih => exact ih _

/-- What one atomic does at its address (R306, R311). -/
theorem atomHit_result (cx : Cx) (w : Want) (act : AtomAct) (s : State) (h : Hit) (hp : Present s cx.g.ident.island) :
    (marked s cx.g.ident.island h.loc.phys = true → atomHit cx w act s h = (s, 0, true))
    ∧ (marked s cx.g.ident.island h.loc.phys = false →
      (atomHit cx w act s h).2 = (physNat s cx.g.ident.island h.loc.phys w.n, false)
      ∧ (∀ new, atomNew act w.n (physNat s cx.g.ident.island h.loc.phys w.n) = some new →
        physNat (atomHit cx w act s h).1 cx.g.ident.island h.loc.phys w.n = new % 2 ^ (8 * w.n))
      ∧ (atomNew act w.n (physNat s cx.g.ident.island h.loc.phys w.n) = none →
        ∀ isl a, byteAt (atomHit cx w act s h).1 isl a = byteAt s isl a)
      ∧ (Walked s cx.g.ident.island h →
        ∀ isl a, Clears w.n isl a cx.g.ident.island h → byteAt (atomHit cx w act s h).1 isl a = byteAt s isl a)) := by
  refine ⟨atomHit_marked, fun hm => ⟨by rw [atomHit_clear hm], fun new hnew => ?_, fun hnone isl a => ?_,
    fun hw isl a hc => byteAt_atomHit_other hw hc⟩⟩
  · have hbytes := physBytes_storeHit (h := h) (bs := leBytes new w.n) hp
    rw [leBytes_length] at hbytes
    rw [physNat, atomHit_clear hm, physBytes_of_view (memView_noteAccess ..), hnew, atomPut, hbytes, leNat_leBytes, pow_mul]
    norm_num
  · rw [atomHit_clear hm, byteAt_of_view (memView_noteAccess ..), hnone, atomPut]

/-! ## The atomics of a fragment -/

theorem atomics_lane {i : Instr} {fm : Form} {w : Want} {reqs : Cx → List Req} {len d scope : Nat} {sc : BitVec 1} {acq : Bool}
    {act : Cx → Nat → AtomAct}
    (he : ∀ s, exec i s = issue fm (fun cx s => laneAccess cx s w (reqs cx) len fun s hs =>
      acquireAt (addOp (atomLanes cx w d (act cx) (takeTickets s cx.g.ident.island hs.length sc) hs).1 cx.key
        { id := 0, cls := .load, mask := hitMask hs, atomic := true
          writes := (atomLanes cx w d (act cx) (takeTickets s cx.g.ident.island hs.length sc) hs).2 }) cx acq scope) s)
    (hf : ∀ s cx, formOf i s cx = fm) (hw : w.acc.writes = true) : Atomics i w reqs d sc act := by
  intro s cx s1 hs c h
  have hi := c.issuer
  have hwalk := touches_of_ownMem cx.key (ownMem_trans (ownMem_passes h) (ownMem_takeTickets s1 cx.g.ident.island hs.length sc))
  have hatoms := touches_trans hwalk (touches_foldl (f := fun s h => (atomHit cx w (act cx (h.lane.getD 0)) s h).1)
    (fun s x hx => touches_atomHit x hx) hs (ident_of_issuing hi hwalk.toAccessStep))
  rw [← atomLanes_state cx w d (act cx)] at hatoms
  obtain ⟨hadded, hframe⟩ := access_result_touches (len := len) fm hi hatoms
    (touches_of_ownMem cx.key (ownMem_acquireAt (addOp _ cx.key
      { id := 0, cls := .load, mask := hitMask hs, atomic := true
        writes := (atomLanes cx w d (act cx) (takeTickets s1 cx.g.ident.island hs.length sc) hs).2 }) cx acq scope))
  have hteams := (ownMem_acquireAt (addOp (atomLanes cx w d (act cx) (takeTickets s1 cx.g.ident.island hs.length sc) hs).1 cx.key
      { id := 0, cls := .load, mask := hitMask hs, atomic := true
        writes := (atomLanes cx w d (act cx) (takeTickets s1 cx.g.ident.island hs.length sc) hs).2 }) cx acq scope).outside
  refine ⟨_, exec_laneAccess he hf c h, hadded, hframe, ?_, fun isl a => ?_, fun hapart isl a hc => ?_⟩
  · rw [issued_teams, modGrp_teams, hteams]
    exact hatoms.teams
  · exact byteAt_of_view (by simp) isl a
  · rw [byteAt_of_view (t := issued ..) (s := (atomLanes cx w d (act cx) (takeTickets s1 cx.g.ident.island hs.length sc) hs).1)
      (by simp), atomLanes_state]
    refine (hitStep_keeps (hitStep_atomHit cx w (act cx)) hapart (fun x hx d hd => ?_) hc).trans
      (byteAt_of_view (memView_takeTickets ..) isl a)
    exact sound_of_view (memView_takeTickets ..) (sound_of_passes hw h x hx d hd)

/-! ## The uniform atomic (R309) -/

theorem accessStep_holdFault (s : State) (k isl : Nat) (c : DWord) (pc : VAddr) :
    AccessStep k isl s (modGrp s k fun g => holdFault g c pc) := by
  have hhold {α : Type} {g : Group → α} (h : ∀ x l, g { x with held := l } = g x) (x : Group) :
      g (holdFault x c pc) = g x := by
    rw [holdFault, holdEntry]
    split <;> exact h ..
  have hkeep {α : Type} {g : Group → α} (h : ∀ x l, g { x with held := l } = g x) :
      g (grpOf (modGrp s k fun g => holdFault g c pc) k) = g (grpOf s k) :=
    grpOf_modGrp_keeps (g := g) (hhold h) s k
  exact ⟨fun _ hj => tblGet?_adj_other _ _ hj, hkeep (g := Group.regs) fun _ _ => rfl,
    hkeep (g := Group.special) fun _ _ => rfl, hkeep (g := accessRest) fun _ _ => rfl, rfl,
    ⟨rfl, rfl, rfl, rfl⟩, fun _ _ => rfl, fun _ => rfl, rfl, fun h => by rwa [modGrp, tblGet?_adj_same,
    Option.isSome_map]⟩

theorem ops_holdFault (s : State) (k : Nat) (c : DWord) (pc : VAddr) :
    (grpOf (modGrp s k fun g => holdFault g c pc) k).ops = (grpOf s k).ops :=
  grpOf_modGrp_keeps (g := Group.ops) (fun x => by rw [holdFault, holdEntry]; split <;> rfl) s k

@[simp] theorem memView_holdUncorr (s : State) (cx : Cx) : memView (holdUncorr s cx) = memView s := by
  simp [holdUncorr]

/-- What UATOM leaves before it starts its operation. -/
def uatomState (cx : Cx) (w : Want) (act : AtomAct) (d : BitVec 6) (k : BitVec 1) (s : State) (h : Hit) : State :=
  let r := atomHit cx w act (takeTickets s cx.g.ident.island 1 k) h
  if d = 63 && r.2.2 then holdUncorr r.1 cx else r.1

/-- The register write of UATOM. -/
def uatomWrites (cx : Cx) (w : Want) (act : AtomAct) (d : BitVec 6) (k : BitVec 1) (s : State) (h : Hit) : List RegWrite :=
  let r := atomHit cx w act (takeTickets s cx.g.ident.island 1 k) h
  if d = 63 then [] else [{ elem := .s d.toNat, val := BitVec.ofNat 64 r.2.1, bad := r.2.2 }]

theorem marked_takeTickets (s : State) (i n p : Nat) (sc : BitVec 1) : marked (takeTickets s i n sc) i p = marked s i p := by
  have hpoison : (islOf (takeTickets s i n sc) i).mem.poison = (islOf s i).mem.poison := by
    rw [takeTickets]
    split
    · exact islOf_modIsl_keeps (g := fun x => x.mem.poison) (f := fun x => { x with mem := { x.mem with ticket := x.mem.ticket + n } })
        (fun _ => rfl) s i i
    · rfl
  have hhost : (takeTickets s i n sc).hostPoison = s.hostPoison := by
    rw [takeTickets]
    split <;> rfl
  rw [marked, hpoison, hhost, marked]

theorem uatomWrites_eq (cx : Cx) (w : Want) (act : AtomAct) (d : BitVec 6) (k : BitVec 1) (s : State) (h : Hit) :
    uatomWrites cx w act d k s h = if d = 63 then [] else
      [{ elem := .s d.toNat
         val := if marked s cx.g.ident.island h.loc.phys then 0 else BitVec.ofNat 64 (physNat s cx.g.ident.island h.loc.phys w.n)
         bad := marked s cx.g.ident.island h.loc.phys }] := by
  have hnat : physNat (takeTickets s cx.g.ident.island 1 k) cx.g.ident.island h.loc.phys w.n
      = physNat s cx.g.ident.island h.loc.phys w.n := congrArg leNat (physBytes_of_view (memView_takeTickets ..) ..)
  have hmark := marked_takeTickets s cx.g.ident.island 1 h.loc.phys k
  simp only [uatomWrites]
  cases hm : marked s cx.g.ident.island h.loc.phys with
  | true => rw [atomHit_marked (hmark.trans hm)]; rfl
  | false => rw [atomHit_clear (hmark.trans hm), hnat]; rfl

theorem accessStep_uatomState {s : State} {cx : Cx} (w : Want) (act : AtomAct) (d : BitVec 6) (k : BitVec 1) (h : Hit)
    (hs : (grpOf s cx.key).ident.island = cx.g.ident.island) :
    AccessStep cx.key cx.g.ident.island s (uatomState cx w act d k s h)
    ∧ (grpOf (uatomState cx w act d k s h) cx.key).ops = (grpOf s cx.key).ops ∧ (uatomState cx w act d k s h).seq = s.seq
    ∧ (uatomState cx w act d k s h).teams = s.teams := by
  have htickets := touches_of_ownMem cx.key (ownMem_takeTickets s cx.g.ident.island 1 k)
  have hatom := touches_trans htickets (touches_atomHit (w := w) (act := act) h
    ((congrArg Ident.island (accessStep_ident htickets.toAccessStep)).trans hs))
  simp only [uatomState]
  split
  · exact ⟨accessStep_trans hatom.toAccessStep (accessStep_holdFault ..), (ops_holdFault ..).trans hatom.ops, hatom.seq,
      hatom.teams⟩
  · exact ⟨hatom.toAccessStep, hatom.ops, hatom.seq, hatom.teams⟩

theorem memView_uatomState (cx : Cx) (w : Want) (act : AtomAct) (d : BitVec 6) (k : BitVec 1) (s : State) (h : Hit) :
    memView (uatomState cx w act d k s h) = memView (atomHit cx w act (takeTickets s cx.g.ident.island 1 k) h).1 := by
  simp only [uatomState]
  split <;> simp

/-! ## What the operations write (R52, R306) -/

theorem aopTable : AopTable := by
  refine ⟨fun n old v => ⟨rfl, rfl, rfl, rfl, rfl, rfl, rfl, rfl, rfl, rfl, ?_, rfl, rfl, rfl⟩, fun _ _ _ _ => rfl⟩
  simp [atomNew, aopf]

theorem atomsInOrder : AtomsInOrder := by
  refine ⟨fun _ _ _ _ _ => rfl, fun _ _ _ _ _ _ _ => rfl, fun _ _ _ _ _ _ _ => rfl, fun g dead d v n op m p ps => ?_⟩
  simp only [atomTeam, List.contains_iff_mem]
  rfl

theorem uatomAct_eq : UatomAct := by
  intro g a o z
  by_cases hz : z = 1
  · subst hz
    rfl
  · have hz' : ¬ z = 1#1 := hz
    simp [uatomAct, uatomBytes, hz']

end Sys2Proof.Proofs

/-! PROOFS. Accesses to team memory, and what the atomics come to together (R303, R308, R421). -/

namespace Sys2Proof.Proofs

open Sys2Proof Sys2Proof.Machine Sys2Proof.Laws

/-! ## A team's memory after writes -/

theorem memGet_foldl_outside {α : Type} {f : Memory → α → Memory} {l : List α} {x : Nat}
    (h : ∀ w ∈ l, ∀ m, memGet (f m w) x = memGet m x) (m : Memory) : memGet (l.foldl f m) x = memGet m x := by
  induction l generalizing m with
  | nil => rfl
  | cons w l ih =>
    rw [List.foldl_cons, ih (fun y hy => h y (List.mem_cons_of_mem _ hy)), h w List.mem_cons_self]

/-- A word that is not lost is not written again as zero. -/
theorem memGet_teamPut {t : Team} {ws : List (Nat × List Byte)} {x : Nat} (h : ¬ Lost t x) :
    memGet (teamPut t ws).mem x = memGet (ws.foldl (fun m w => memPut m w.1 w.2) t.mem) x := by
  simp only [teamPut]
  refine memGet_foldl_outside (fun k hk m => memGet_put_outside _ _ _ _ ?_) _
  have hdead : k ∈ t.dead := (List.mem_filter.1 hk).1
  have hne : x / 32 ≠ k := fun he => h (by rw [Lost, he]; exact hdead)
  rw [List.length_replicate]
  omega

theorem memGet_puts_outside {ws : List (Nat × List Byte)} {x : Nat} (h : ∀ w ∈ ws, x < w.1 ∨ w.1 + w.2.length ≤ x)
    (m : Memory) : memGet (ws.foldl (fun m w => memPut m w.1 w.2) m) x = memGet m x :=
  memGet_foldl_outside (fun w hw _ => memGet_put_outside _ _ _ _ (h w hw)) m

theorem memGet_puts_inside {before after : List (Nat × List Byte)} {w : Nat × List Byte} {k : Nat} (hk : k < w.2.length)
    (h : ∀ v ∈ after, w.1 + k < v.1 ∨ v.1 + v.2.length ≤ w.1 + k) (m : Memory) :
    memGet ((before ++ w :: after).foldl (fun m w => memPut m w.1 w.2) m) (w.1 + k) = w.2[k] := by
  rw [List.foldl_append, List.foldl_cons, memGet_puts_outside h, memGet_put_inside _ _ _ _ hk]

theorem sizeBytes_pos (w : BitVec 3) : 0 < sizeBytes w := by
  have hcases : w = 0 ∨ w = 1 ∨ w = 2 ∨ w = 3 ∨ w = 4 ∨ w = 5 ∨ w = 6 ∨ w = 7 := by bv_omega
  rcases hcases with rfl | rfl | rfl | rfl | rfl | rfl | rfl | rfl <;> decide

/-- Some address of a team instruction passes its checks: then the team stands in the machine. -/
theorem teamIn_of_passes {s : State} {cx : Cx} {n : Nat} {wr : Bool} {l : List TeamHit} (hn : 0 < n) (h : TeamPasses s cx n wr l)
    (hl : l ≠ []) : TeamIn s cx.g.ident.team := by
  by_contra habsent
  have hnone : tblGet? s.teams cx.g.ident.team = none := by simpa [TeamIn] using habsent
  have hextent : teamExtent (teamOf s cx.g.ident.team) = 0 := by
    rw [teamOf, tblGet, hnone]
    rfl
  obtain ⟨p, l, rfl⟩ := List.exists_cons_of_ne_nil hl
  simp only [TeamPasses, checkTeam, hextent] at h
  split at h
  · simp at h
  · simp [hn] at h

/-! ## What an access to team memory notes of itself -/

/-- An access step that starts no operation and ends none. -/
structure Steady (k isl : Nat) (s t : State) : Prop extends AccessStep k isl s t where
  ops : (grpOf t k).ops = (grpOf s k).ops
  seq : t.seq = s.seq

theorem steady_trans {k isl : Nat} {s t u : State} (a : Steady k isl s t) (b : Steady k isl t u) : Steady k isl s u :=
  ⟨accessStep_trans a.toAccessStep b.toAccessStep, b.ops.trans a.ops, b.seq.trans a.seq⟩

theorem steady_of_touches {k isl : Nat} {s t : State} (h : Touches k isl s t) : Steady k isl s t :=
  ⟨h.toAccessStep, h.ops, h.seq⟩

theorem steady_noteDead (s : State) (k tm isl : Nat) (pc : VAddr) (spans : List (Nat × Nat)) :
    Steady k isl s (noteDead s k tm pc spans) := by
  rw [noteDead]
  split
  · exact ⟨accessStep_holdFault .., ops_holdFault .., rfl⟩
  · exact steady_of_touches (touches_refl ..)

theorem noteDead_teams (s : State) (k tm : Nat) (pc : VAddr) (spans : List (Nat × Nat)) :
    (noteDead s k tm pc spans).teams = s.teams := by
  rw [noteDead]
  split <;> rfl

theorem steady_modTeam (s : State) (k tm isl : Nat) (f : Team → Team) : Steady k isl s (modTeam s tm f) :=
  ⟨⟨fun _ _ => rfl, rfl, rfl, rfl, rfl, ⟨rfl, rfl, rfl, rfl⟩, fun _ _ => rfl, fun _ => rfl, rfl, id⟩, rfl, rfl⟩

theorem teamOf_of_teams {s t : State} (h : t.teams = s.teams) (tm : Nat) : teamOf t tm = teamOf s tm := by
  rw [teamOf, h, teamOf]

theorem byteAt_of_memory {s t u : State} (hview : memView t = memView u) (hhost : u.hostMem = s.hostMem)
    (hisl : u.islands = s.islands) (isl a : Nat) : byteAt t isl a = byteAt s isl a := by
  rw [byteAt_of_view hview, byteAt_eq, byteAt_eq, hhost, islOf, hisl, islOf]

section
variable {i : Instr} {fm : Form} {s : State} {cx : Cx} {n len : Nat} {wr : Bool} {l : Cx → List TeamHit}

theorem exec_teamAccess {effect : Cx → State → State}
    (he : ∀ s, exec i s = issue fm (fun cx s => teamAccess cx s n len wr (l cx) (effect cx)) s)
    (hf : ∀ s cx, formOf i s cx = fm) (c : Ready i s cx) (h : TeamPasses s cx n wr (l cx)) :
    exec i s = .next (issued fm s cx (modGrp (effect cx s) cx.key (advance len cx.ix))) := by
  have hclear : Clear fm s cx := hf s cx ▸ c
  have hpass : checkTeam s cx n wr (l cx) = none := h
  rw [he]
  refine issue_ok hclear ?_
  simp only [teamAccess, hpass]

theorem steady_result {e p : State} {cls : OpClass} {m : Mask} {atomic : Bool} {ws : List RegWrite}
    (hi : issuing s = some cx) (hu : Steady cx.key cx.g.ident.island s e)
    (hp : Touches cx.key cx.g.ident.island (addOp e cx.key { id := 0, cls := cls, mask := m, atomic := atomic, writes := ws }) p) :
    Added s (issued fm s cx (modGrp p cx.key (advance len cx.ix))) cx cls atomic m ws
    ∧ AccessFrame s (issued fm s cx (modGrp p cx.key (advance len cx.ix))) cx :=
  access_result fm hi hu.toAccessStep (hu.ops.trans (congrArg Group.ops (grpOf_issuing hi))) hu.seq hp

theorem steady_touchTeam {e : State} (hi : issuing s = some cx) (hu : Steady cx.key cx.g.ident.island s e) (reads wrote : Bool)
    (rel acq : Option Nat) (l : List TeamHit) :
    Touches cx.key cx.g.ident.island e (touchTeam cx n reads wrote rel acq l e) :=
  touches_touchTeam n reads wrote rel acq l (ident_of_issuing hi hu.toAccessStep)

end

/-! ## LDT and STT -/

theorem loadedTeam_eq (g : Regs) (m : Memory) (d a : BitVec 7) (w : BitVec 3) (x : BitVec 1) (ls : List Nat) :
    ((ls.map fun l => (some l, laneOffset g a x (sizeBytes w) l)).flatMap fun p : TeamHit =>
      (loadWords w (memBytes m p.2 (sizeBytes w))).zipIdx.map fun y =>
        ({ elem := .v (d.toNat + y.2) (p.1.getD 0), val := y.1.setWidth 64 } : RegWrite))
    = ls.flatMap fun l => (List.range (sizeRegs w)).map fun j =>
        { elem := .v (d.toNat + j) l, val := loadedWord w (memNat m (laneOffset g a x (sizeBytes w) l) (sizeBytes w)) j } := by
  rw [List.flatMap_map]
  refine List.flatMap_congr fun l _ => ?_
  have hwords := loadWords_eq w (bs := memBytes m (laneOffset g a x (sizeBytes w) l) (sizeBytes w)) (memBytes_length ..)
  have hmap := congrArg (List.map fun p : DWord × Nat => ({ elem := .v (d.toNat + p.2) l, val := p.1 } : RegWrite)) hwords
  rw [List.map_map, List.map_map] at hmap
  exact hmap

theorem ldt_result (st : BitVec 2) (d a : BitVec 7) (w : BitVec 3) (x : BitVec 1) {s : State} {cx : Cx}
    (c : Ready (.ldt st d a w x) s cx) (h : TeamPasses s cx (sizeBytes w) false (teamAddrs cx a x (sizeBytes w))) :
    ∃ t, exec (.ldt st d a w x) s = .next t
    ∧ Added s t cx .load false cx.f.mask ((lanesOf cx.f.mask).flatMap fun l =>
      (List.range (sizeRegs w)).map fun j =>
        { elem := .v (d.toNat + j) l
          val := loadedWord w (memNat (teamOf s cx.g.ident.team).mem (laneOffset cx.g.regs a x (sizeBytes w) l) (sizeBytes w)) j })
    ∧ AccessFrame s t cx ∧ SameMemory s t := by
  have hi := c.issuer
  have hnote := steady_noteDead s cx.key cx.g.ident.team cx.g.ident.island cx.f.pc
    ((teamAddrs cx a x (sizeBytes w)).map fun p => (p.2, sizeBytes w))
  have htouch := steady_trans hnote (steady_of_touches (steady_touchTeam (n := sizeBytes w) hi hnote true false none none
    (teamAddrs cx a x (sizeBytes w))))
  obtain ⟨hadded, hframe⟩ := steady_result (fm := loadForm st d a w) (len := 4) (cls := .load) (m := cx.f.mask) (atomic := false)
    (ws := (teamAddrs cx a x (sizeBytes w)).flatMap fun p =>
      (loadWords w (memBytes (teamOf s cx.g.ident.team).mem p.2 (sizeBytes w))).zipIdx.map fun y =>
        ({ elem := .v (d.toNat + y.2) (p.1.getD 0), val := y.1.setWidth 64 } : RegWrite)) hi htouch (touches_refl ..)
  refine ⟨_, exec_teamAccess (fun _ => rfl) (fun _ _ => rfl) c h, ?_, hframe, sameMemory_of_view (by simp)⟩
  rw [← loadedTeam_eq]
  exact hadded

/-- What STT writes to team memory. -/
def sttWrites (cx : Cx) (d a : BitVec 7) (w : BitVec 3) (x : BitVec 1) : List (Nat × List Byte) :=
  (teamAddrs cx a x (sizeBytes w)).map fun p =>
    (p.2, storeBytes (sizeBytes w) (spanWords cx.g.regs d.toNat (sizeRegs w) (p.1.getD 0)))

theorem storeBytes_span (g : Regs) (d w l : Nat) (v : BitVec 3) (hw : w = sizeRegs v) :
    (storeBytes (sizeBytes v) (spanWords g d w l)).length = sizeBytes v
    ∧ ∀ k, k < sizeBytes v → (storeBytes (sizeBytes v) (spanWords g d w l)).getD k 0
      = ((spanWords g d w l).flatMap fun v => leBytes v.toNat 4).getD k 0 :=
  storeBytes_eq (by simp [spanWords, hw])

theorem memGet_stt_outside {cx : Cx} {d a : BitVec 7} {w : BitVec 3} {x : BitVec 1} {t : Team} {b : Nat} (hlost : ¬ Lost t b)
    (h : ∀ p ∈ teamAddrs cx a x (sizeBytes w), b < p.2 ∨ p.2 + sizeBytes w ≤ b) :
    memGet (teamPut t (sttWrites cx d a w x)).mem b = memGet t.mem b := by
  rw [memGet_teamPut hlost]
  refine memGet_puts_outside (fun v hv => ?_) t.mem
  obtain ⟨p, hp, rfl⟩ := List.mem_map.1 hv
  rw [(storeBytes_span cx.g.regs d.toNat (sizeRegs w) (p.1.getD 0) w rfl).1]
  exact h p hp

theorem memGet_stt_inside {cx : Cx} {d a : BitVec 7} {w : BitVec 3} {x : BitVec 1} {t : Team} {before after : List TeamHit}
    {l b k : Nat} (he : teamAddrs cx a x (sizeBytes w) = before ++ (some l, b) :: after) (hk : k < sizeBytes w)
    (hlost : ¬ Lost t (b + k)) (h : ∀ p ∈ after, b + k < p.2 ∨ p.2 + sizeBytes w ≤ b + k) :
    memGet (teamPut t (sttWrites cx d a w x)).mem (b + k)
      = ((spanWords cx.g.regs d.toNat (sizeRegs w) l).flatMap fun v => leBytes v.toNat 4).getD k 0 := by
  obtain ⟨hlen, hbytes⟩ := storeBytes_span cx.g.regs d.toNat (sizeRegs w) l w rfl
  have hk' : k < (storeBytes (sizeBytes w) (spanWords cx.g.regs d.toNat (sizeRegs w) l)).length := by
    rwa [hlen]
  rw [memGet_teamPut hlost, sttWrites, he, List.map_append, List.map_cons, ← hbytes k hk, List.getD_eq_getElem _ _ hk']
  refine memGet_puts_inside (w := (b, storeBytes (sizeBytes w) (spanWords cx.g.regs d.toNat (sizeRegs w) l))) hk' (fun v hv => ?_) t.mem
  obtain ⟨p, hp, rfl⟩ := List.mem_map.1 hv
  rw [(storeBytes_span cx.g.regs d.toNat (sizeRegs w) (p.1.getD 0) w rfl).1]
  exact h p hp

/-- A team's bytes that are not lost stay where its memory is written again with nothing new. -/
theorem memGet_putNothing {t : Team} {b : Nat} (h : ¬ Lost t b) : memGet (teamPut t []).mem b = memGet t.mem b :=
  memGet_teamPut h

/-- What an access leaves of its team: the team is changed by f, or it is not there and no lane accesses it. -/
theorem teamOf_accessed {s : State} {cx : Cx} {n : Nat} {wr : Bool} {l : List TeamHit} {f : Team → Team} (hn : 0 < n)
    (h : TeamPasses s cx n wr l) : teamOf (modTeam s cx.g.ident.team f) cx.g.ident.team = f (teamOf s cx.g.ident.team)
      ∨ l = [] ∧ teamOf (modTeam s cx.g.ident.team f) cx.g.ident.team = teamOf s cx.g.ident.team := by
  by_cases hin : TeamIn s cx.g.ident.team
  · exact .inl (teamOf_modTeam_same f hin)
  · have hnone : tblGet? s.teams cx.g.ident.team = none := by simpa [TeamIn] using hin
    refine .inr ⟨by_contra fun hl => hin (teamIn_of_passes hn h hl), ?_⟩
    rw [teamOf, modTeam, tblAdj, hnone, teamOf]

theorem stt_result (st : BitVec 2) (d a : BitVec 7) (w : BitVec 3) (x : BitVec 1) {s : State} {cx : Cx}
    (c : Ready (.stt st d a w x) s cx) (h : TeamPasses s cx (sizeBytes w) true (teamAddrs cx a x (sizeBytes w))) :
    ∃ t, exec (.stt st d a w x) s = .next t
    ∧ Added s t cx .store false cx.f.mask [] ∧ AccessFrame s t cx ∧ SameOutside s t
    ∧ t.teams = (modTeam s cx.g.ident.team fun y => teamPut y (sttWrites cx d a w x)).teams := by
  have hi := c.issuer
  have hput := steady_modTeam s cx.key cx.g.ident.team cx.g.ident.island fun y => teamPut y (sttWrites cx d a w x)
  have htouch := steady_touchTeam (n := sizeBytes w) hi hput false true none none (teamAddrs cx a x (sizeBytes w))
  obtain ⟨hadded, hframe⟩ := steady_result (fm := storeForm st d a w) (len := 4) (cls := .store) (m := cx.f.mask) (atomic := false)
    (ws := []) hi (steady_trans hput (steady_of_touches htouch)) (touches_refl ..)
  refine ⟨_, exec_teamAccess (fun _ => rfl) (fun _ _ => rfl) c h, hadded, hframe, fun isl b => ?_, ?_⟩
  · exact byteAt_of_memory (u := modTeam s cx.g.ident.team fun y => teamPut y (sttWrites cx d a w x)) (by simp [sttWrites]) rfl rfl
      isl b
  · rw [issued_teams, modGrp_teams]
    exact htouch.teams

/-- Settles O20. -/
theorem teamAccessResults : Obligations.TeamAccessResults := by
  refine ⟨fun st d a w x s cx c h => ldt_result st d a w x c h, fun st d a w x s cx c h => ?_⟩
  obtain ⟨t, hexec, hadded, hframe, hbytes, hteams⟩ := stt_result st d a w x c h
  have hteam := teamOf_of_teams hteams
  refine ⟨t, hexec, hadded, hframe, hbytes, fun tm htm => ?_, fun b hlost hout => ?_, fun before l b after k he hk hlost hafter => ?_⟩
  · rw [hteam, teamOf_modTeam_other s _ htm]
  · rw [hteam]
    rcases teamOf_accessed (f := fun y => teamPut y (sttWrites cx d a w x)) (sizeBytes_pos w) h with hin | ⟨-, hin⟩
    · rw [hin]
      exact memGet_stt_outside hlost hout
    · rw [hin]
  · rw [hteam]
    rcases teamOf_accessed (f := fun y => teamPut y (sttWrites cx d a w x)) (sizeBytes_pos w) h with hin | ⟨hnil, -⟩
    · rw [hin]
      exact memGet_stt_inside he hk hlost hafter
    · rw [hnil] at he
      simp at he

end Sys2Proof.Proofs

/-! PROOFS. Atomics on global and team memory (R306 to R309): the results of ATOM, ACAS, UATOM and ATOMT. -/

namespace Sys2Proof.Proofs

open Sys2Proof Sys2Proof.Machine Sys2Proof.Laws

/-! ## UATOM -/

/-- What UATOM asks of its address. -/
def uatomWant (e c : BitVec 2) (k z : BitVec 1) : Want :=
  { acc := .atomic, n := uatomBytes z, scope := some (c.toNat + 1), rel := semRel e k, acq := semAcq e k, sc := k = 1 }

/-- What UATOM does where its address passes. -/
def uatomEffect (cx : Cx) (d a : BitVec 6) (o : BitVec 4) (e c : BitVec 2) (k z : BitVec 1) (s : State) (h : Hit) : State :=
  acquireAt (addOp (uatomState cx (uatomWant e c k z) (uatomAct cx.g.regs a o z) d k s h) cx.key
    { id := 0, cls := if d = 63 then .store else .load, mask := cx.f.mask, atomic := true
      writes := uatomWrites cx (uatomWant e c k z) (uatomAct cx.g.regs a o z) d k s h }) cx (semAcq e k) (c.toNat + 1)

theorem exec_uatom (st : BitVec 2) (d a : BitVec 6) (o : BitVec 4) (e c : BitVec 2) (k z : BitVec 1) (s : State) :
    exec (.uatom st d a o e c k z) s = issue (uatomForm st d a o) (fun cx s => uniAccess cx s (uatomWant e c k z)
      { t := { base := readS cx.g.regs a.toNat } } fun s h => uatomEffect cx d a o e c k z s h) s := rfl

theorem uatom_result (st : BitVec 2) (d a : BitVec 6) (o : BitVec 4) (e c : BitVec 2) (k z : BitVec 1) {s s1 : State} {cx : Cx}
    {h : Hit} (ready : Ready (.uatom st d a o e c k z) s cx)
    (hp : Passes s s1 cx (uatomWant e c k z) [{ t := { base := readS cx.g.regs a.toNat } }] [h]) :
    ∃ t, exec (.uatom st d a o e c k z) s = .next t
    ∧ Added s t cx (if d = 63 then .store else .load) true cx.f.mask
      (uatomWrites cx (uatomWant e c k z) (uatomAct cx.g.regs a o z) d k s1 h)
    ∧ AccessFrame s t cx ∧ t.teams = s.teams
    ∧ memView t
      = memView (atomHit cx (uatomWant e c k z) (uatomAct cx.g.regs a o z) (takeTickets s1 cx.g.ident.island 1 k) h).1 := by
  have hi := ready.issuer
  have hwalk := touches_of_ownMem cx.key (ownMem_passes hp)
  obtain ⟨hatom, hops, hseq, hteams⟩ := accessStep_uatomState (uatomWant e c k z) (uatomAct cx.g.regs a o z) d k h
    (ident_of_issuing hi hwalk.toAccessStep)
  have hacquire : Touches cx.key cx.g.ident.island _ (uatomEffect cx d a o e c k z s1 h) :=
    touches_of_ownMem cx.key (ownMem_acquireAt ..)
  obtain ⟨hadded, hframe⟩ := access_result (len := 4) (uatomForm st d a o) hi (accessStep_trans hwalk.toAccessStep hatom)
    ((hops.trans hwalk.ops).trans (congrArg Group.ops (grpOf_issuing hi))) (hseq.trans hwalk.seq) hacquire
  have hexec := exec_uniAccess (r := fun cx => { t := { base := readS cx.g.regs a.toNat } })
    (effect := fun cx s h => uatomEffect cx d a o e c k z s h) (exec_uatom st d a o e c k z) (fun _ _ => rfl) ready hp
  refine ⟨_, hexec, hadded, hframe, ?_, ?_⟩
  · rw [issued_teams, modGrp_teams, hacquire.teams]
    exact hteams.trans hwalk.teams
  · rw [← memView_uatomState (d := d)]
    simp [uatomEffect]

/-! ## ATOMT -/

/-- No atomic writes to a byte of team memory beside the bytes its lanes name. -/
theorem memGet_atomTeam_outside (g : Regs) (dead : List Nat) (d data n op b : Nat) (m : Memory) (l : List TeamHit)
    (h : ∀ p ∈ l, b < p.2 ∨ p.2 + n ≤ b) : memGet (atomTeam g dead d data n op m l).1 b = memGet m b := by
  induction l generalizing m with
  | nil => rfl
  | cons p l ih =>
    simp only [atomTeam]
    rw [ih _ fun q hq => h q (List.mem_cons_of_mem _ hq)]
    split
    · rfl
    · rw [memPutNat, memGet_put_outside _ _ _ _ (by rw [leBytes_length]; exact h p List.mem_cons_self)]

/-- What ATOMT makes of its team's memory, and the old values it gives. -/
def teamAtoms (t : Team) (cx : Cx) (d a : BitVec 7) (w : BitVec 3) (x : BitVec 1) (data : BitVec 7) (aop : BitVec 4) :
    Memory × List RegWrite :=
  atomTeam cx.g.regs t.dead d.toNat data.toNat (sizeBytes w) aop.toNat t.mem (teamAddrs cx a x (sizeBytes w))

/-- The state in which ATOMT has written. -/
def atomtState (cx : Cx) (d a : BitVec 7) (w : BitVec 3) (x : BitVec 1) (data : BitVec 7) (aop : BitVec 4) (s : State) : State :=
  modTeam (noteDead s cx.key cx.g.ident.team cx.f.pc ((teamAddrs cx a x (sizeBytes w)).map fun p => (p.2, sizeBytes w)))
    cx.g.ident.team fun y => teamPut { y with mem := (teamAtoms (teamOf s cx.g.ident.team) cx d a w x data aop).1 } []

theorem steady_atomtState (cx : Cx) (d a : BitVec 7) (w : BitVec 3) (x : BitVec 1) (data : BitVec 7) (aop : BitVec 4) (s : State) :
    Steady cx.key cx.g.ident.island s (atomtState cx d a w x data aop s) :=
  steady_trans (steady_noteDead ..) (steady_modTeam ..)

theorem memGet_atomtState {cx : Cx} {d a : BitVec 7} {w : BitVec 3} {x : BitVec 1} {data : BitVec 7} {aop : BitVec 4} {s : State}
    {b : Nat} (h : TeamPasses s cx (sizeBytes w) true (teamAddrs cx a x (sizeBytes w))) (hlost : ¬ Lost (teamOf s cx.g.ident.team) b) :
    memGet (teamOf (atomtState cx d a w x data aop s) cx.g.ident.team).mem b
      = memGet (teamAtoms (teamOf s cx.g.ident.team) cx d a w x data aop).1 b := by
  rw [teamOf_of_teams (t := atomtState cx d a w x data aop s) (s := modTeam s cx.g.ident.team fun y =>
    teamPut { y with mem := (teamAtoms (teamOf s cx.g.ident.team) cx d a w x data aop).1 } [])
    (by rw [atomtState, modTeam, noteDead_teams, modTeam])]
  rcases teamOf_accessed (f := fun y => teamPut { y with mem := (teamAtoms (teamOf s cx.g.ident.team) cx d a w x data aop).1 } [])
    (sizeBytes_pos w) h with hin | ⟨hnil, hin⟩
  · rw [hin]
    exact memGet_teamPut (t := { teamOf s cx.g.ident.team with
      mem := (teamAtoms (teamOf s cx.g.ident.team) cx d a w x data aop).1 }) (ws := []) hlost
  · rw [hin, teamAtoms, hnil, atomTeam]

theorem atomt_result (st : BitVec 2) (d a : BitVec 7) (w : BitVec 3) (x : BitVec 1) (data : BitVec 7) (aop : BitVec 4)
    (sem : BitVec 2) (scope : BitVec 3) (sc : BitVec 1) {s : State} {cx : Cx}
    (c : Ready (.atomt st d a w x data aop sem scope sc) s cx)
    (h : TeamPasses s cx (sizeBytes w) true (teamAddrs cx a x (sizeBytes w))) :
    ∃ t, exec (.atomt st d a w x data aop sem scope sc) s = .next t
    ∧ Added s t cx .load true cx.f.mask (teamAtoms (teamOf s cx.g.ident.team) cx d a w x data aop).2
    ∧ AccessFrame s t cx ∧ SameOutside s t ∧ t.teams = (atomtState cx d a w x data aop s).teams := by
  have hi := c.issuer
  have hput := steady_atomtState cx d a w x data aop s
  have hop := accessStep_trans hput.toAccessStep (accessStep_addOp (atomtState cx d a w x data aop s) cx.key cx.g.ident.island
    { id := 0, cls := .load, mask := cx.f.mask, atomic := true, writes := (teamAtoms (teamOf s cx.g.ident.team) cx d a w x data aop).2 })
  have htouch := touches_touchTeam (cx := cx) (sizeBytes w) true true (if semRel sem sc then some scope.toNat else none)
    (if semAcq sem sc then some scope.toNat else none) (teamAddrs cx a x (sizeBytes w)) (ident_of_issuing hi hop)
  have hlast := touches_trans htouch (touches_of_ownMem cx.key (ownMem_acquireAt _ cx (semAcq sem sc) scope.toNat))
  obtain ⟨hadded, hframe⟩ := steady_result (fm := Machine.atomForm st d a data none w) (len := 8) hi hput hlast
  refine ⟨_, exec_teamAccess (fun _ => rfl) (fun _ _ => rfl) c h, hadded, hframe, fun isl b => ?_, ?_⟩
  · refine (byteAt_of_memory (s := noteDead s cx.key cx.g.ident.team cx.f.pc
      ((teamAddrs cx a x (sizeBytes w)).map fun p => (p.2, sizeBytes w))) (u := atomtState cx d a w x data aop s) ?_ rfl rfl
      isl b).trans (byteAt_of_view (memView_noteDead ..) isl b)
    simp [atomtState, teamAtoms]
  · rw [issued_teams, modGrp_teams]
    exact hlast.teams

/-- Settles O21. -/
theorem atomicResults : Obligations.AtomicResults := by
  refine ⟨⟨fun st d a t w q x data aop sem scope sc => ?atom, fun st d a t w q x data cmp sem scope sc => ?cas,
    fun st d a o e c k z s cx s1 h => ?uatom⟩, fun cx w act s h hp _ => atomHit_result cx w act s h hp, fun st d a w x data aop sem scope sc s cx c h => ?team,
    aopTable, atomsInOrder, uatomAct_eq⟩
  case atom => exact atomics_lane (fun _ => rfl) (fun _ _ => rfl) rfl
  case cas => exact atomics_lane (fun _ => rfl) (fun _ _ => rfl) rfl
  case uatom =>
    intro w ready hp
    obtain ⟨t, hexec, hadded, hframe, hteams, hview⟩ := uatom_result st d a o e c k z ready hp
    refine ⟨t, hexec, ?_, hframe, hteams, byteAt_of_view hview, fun isl b hc => ?_⟩
    · rw [← uatomWrites_eq (act := uatomAct cx.g.regs a o z) (k := k)]
      exact hadded
    · refine (byteAt_of_view hview isl b).trans ((byteAt_atomHit_other (fun x hx => ?_) hc).trans
        (byteAt_of_view (memView_takeTickets ..) isl b))
      exact (sound_of_view (memView_takeTickets ..) (sound_of_passes rfl hp h List.mem_cons_self x hx)).1
  case team =>
    obtain ⟨t, hexec, hadded, hframe, hbytes, hteams⟩ := atomt_result st d a w x data aop sem scope sc c h
    have hteam := teamOf_of_teams hteams
    refine ⟨t, hexec, hadded, hframe, hbytes, fun tm htm => ?_, fun b hlost => ?_, fun b hlost hout => ?_⟩
    · rw [hteam, atomtState, teamOf_modTeam_other _ _ htm]
      exact teamOf_of_teams (noteDead_teams ..) tm
    · rw [hteam]
      exact memGet_atomtState h hlost
    · rw [hteam, memGet_atomtState h hlost]
      exact memGet_atomTeam_outside _ _ _ _ _ _ b _ _ hout

end Sys2Proof.Proofs

/-! PROOFS. Translations by T registers, TRLD, TRINV and PRF (R240 to R245, R304). -/

namespace Sys2Proof.Proofs

open Sys2Proof Sys2Proof.Machine Sys2Proof.Laws

/-! ## What a T register gives an access (R243) -/

theorem tPermits_iff (t : TReg) (acc : Acc) (priv : Bool) : tPermits t acc priv = true ↔
    (t.rights.getLsbD 2 = true → priv = true) ∧ match acc with
      | .read => t.rights.getLsbD 0 = true
      | .write => t.rights.getLsbD 1 = true ∧ t.rights.getLsbD 3 = false ∧ t.rights.getLsbD 4 = true
      | .atomic => t.rights.getLsbD 0 = true ∧ t.rights.getLsbD 1 = true ∧ t.rights.getLsbD 3 = false ∧ t.rights.getLsbD 4 = true
      | .fetch => False := by
  have hpriv : (!t.rights.getLsbD 2 || priv) = true ↔ (t.rights.getLsbD 2 = true → priv = true) := by
    cases t.rights.getLsbD 2 <;> simp
  simp only [tPermits, Bool.and_eq_true, hpriv]
  refine and_congr_right fun _ => ?_
  cases acc with
  | read => rfl
  | write => simp [and_comm, and_left_comm]
  | atomic => simp [and_comm, and_left_comm]
  | fetch => simp

theorem registerAddress : RegisterAddress := by
  intro s i c priv t o acc salt permits gives
  have hpermits : permits ↔ (t.cv && decide (o < t.limit.toNat) && tPermits t acc priv) = true := by
    rw [Bool.and_eq_true, Bool.and_eq_true, tPermits_iff, decide_eq_true_iff, and_assoc] <;> rfl
  have hgives : gives = addrOf s i c priv t o acc salt := rfl
  rw [addrOf] at hgives
  refine ⟨fun he => ?_, fun he hp => ?_, fun he hp hb => ?_, fun he hp hb => ?_⟩
  · rw [hgives, if_pos he]
  · rw [hgives, if_neg (by simp [he]), if_pos (hpermits.1 hp)]
    exact ⟨_, rfl, rfl, rfl, rfl⟩
  · rw [hgives, if_neg (by simp [he]), if_neg fun h => hp (hpermits.2 h), if_pos hb]
  · rw [hgives, if_neg (by simp [he]), if_neg fun h => hp (hpermits.2 h), if_neg (by omega)]

/-! ## What a translation changes of memory (R240, R241) -/

theorem memView_walkHeld (s : State) (i c va : Nat) (acc : Acc) (priv : Bool) (salt : Nat) :
    let u := chosenUse s i c va acc priv salt
    memView (walkHeld s i c va acc priv salt).1 = memView (if u.walked then setAccessed s i u.stop else s) := by
  simp only [walkHeld]
  exact memView_modMem (fun _ => by simp) _ i

theorem byteAt_setAccessed {s : State} {i a : Nat} (hp : Present s i) (ha : isHost a = false) (e : DWord) (lvl isl b : Nat) :
    byteAt (setAccessed s i (.leaf e a lvl)) isl b = if isl = i ∧ b = a then byteAt s isl b ||| 0x40#8 else byteAt s isl b :=
  byteAt_setEntryBit (b := 6) hp (by omega) ha isl b

theorem walksSetAccessed : WalksSetAccessed := by
  refine ⟨fun s i c priv va acc salt isl b => ⟨?_, ?_⟩, fun _ _ _ _ => rfl,
    fun s i e a lvl isl b hp ha => byteAt_setAccessed hp ha e lvl isl b, fun _ _ _ _ _ => rfl, fun _ _ _ _ _ _ _ => rfl⟩
  · exact byteAt_of_view (memView_walkHeld s i c va acc priv salt) isl b
  · rcases chosenUse_cases s i c va acc priv salt with h | ⟨t, ht, h, hperm⟩
    · exact .inl h
    · exact .inr ⟨t, ht, h, hperm⟩

/-! ## TRLD (R244) -/

theorem ent_one (e : DWord) (n : Nat) : ent e n n = (bit e.toNat n).toNat := by
  simp only [ent, bits, bit]
  rcases Nat.mod_two_eq_zero_or_one (e.toNat / 2 ^ n) with h | h <;> simp [h]

/-- The rights of a T register, packed bit by bit. -/
theorem rights_packed (a b c d x : Bool) :
    let r := BitVec.ofNat 8 (a.toNat + 2 * b.toNat + 4 * c.toNat + 8 * d.toNat + 16 * x.toNat)
    r.getLsbD 0 = a ∧ r.getLsbD 1 = b ∧ r.getLsbD 2 = c ∧ r.getLsbD 3 = d ∧ r.getLsbD 4 = x := by
  cases a <;> cases b <;> cases c <;> cases d <;> cases x <;> decide

theorem tOfLeaf_rights (c va n addr : Nat) (e : DWord) : let r := (tOfLeaf c va n e addr).rights
    r.getLsbD 0 = bit e.toNat 2 ∧ r.getLsbD 1 = bit e.toNat 3 ∧ r.getLsbD 2 = bit e.toNat 5 ∧ r.getLsbD 3 = bit e.toNat 9
    ∧ r.getLsbD 4 = bit e.toNat 7 := by
  simp only [tOfLeaf, ent_one]
  exact rights_packed ..

theorem tOfLeaf_limit (c va addr : Nat) (n : DWord) (e : DWord) :
    (tOfLeaf c va n.toNat e addr).limit.toNat = min n.toNat (leafSize e - va % leafSize e) := by
  have hlt : min n.toNat (leafSize e - va % leafSize e) < 2 ^ 64 := lt_of_le_of_lt (Nat.min_le_left ..) n.isLt
  rw [tOfLeaf, BitVec.toNat_ofNat]
  exact Nat.mod_eq_of_lt hlt

theorem tOfLeaf_base (c n addr : Nat) {va : Nat} (h : va < 2 ^ 57) (e : DWord) : (tOfLeaf c va n e addr).base.toNat = va := by
  rw [tOfLeaf, BitVec.toNat_ofNat, Nat.mod_eq_of_lt (by omega)]

/-- The state in which TRLD has written its register. -/
def trldState (t : BitVec 3) (x : TReg) (cx : Cx) (s : State) : State :=
  modGrp s cx.key fun g => advance 4 cx.ix { g with regs := writeT g.regs t.toNat x }

theorem exec_trld_leaf {st : BitVec 2} {t : BitVec 3} {a b : BitVec 6} {s s1 : State} {cx : Cx} {e : DWord} {addr lvl : Nat}
    (c : Ready (.trld st t a b) s cx) (hva : (readS cx.g.regs a.toNat).toNat < 2 ^ 57)
    (hw : walkHeld s cx.g.ident.island cx.g.ident.ctx (readS cx.g.regs a.toNat).toNat .read (privileged cx.g.ident) 0
      = (s1, .leaf e addr lvl)) :
    exec (.trld st t a b) s = .next (issued (ctlForm st [sUse a.toNat, sUse b.toNat]) s cx
      (trldState t (tOfLeaf cx.g.ident.ctx (readS cx.g.regs a.toNat).toNat (readS cx.g.regs b.toNat).toNat e addr) cx s1)) := by
  show execTrld st t a b s = _
  rw [execTrld]
  refine issue_ok c ?_
  dsimp only
  rw [if_neg (by omega), hw]
  rfl

theorem exec_trld_page {st : BitVec 2} {t : BitVec 3} {a b : BitVec 6} {s s1 : State} {cx : Cx} {stop lvl : Nat}
    (c : Ready (.trld st t a b) s cx) (hva : (readS cx.g.regs a.toNat).toNat < 2 ^ 57)
    (hw : walkHeld s cx.g.ident.island cx.g.ident.ctx (readS cx.g.regs a.toNat).toNat .read (privileged cx.g.ident) 0
      = (s1, .page stop lvl)) :
    exec (.trld st t a b) s = .next (park s1 cx .uniform .read 4
      [{ va := (readS cx.g.regs a.toNat).toNat, status := stop, level := lvl }]) := by
  show execTrld st t a b s = _
  rw [execTrld]
  refine (issue_clear c _).trans ?_
  dsimp only
  rw [if_neg (by omega), hw]

/-- The group after TRLD, in all that an issue does not book. -/
theorem grpOf_trld {α : Type} {g : Group → α} (h : ∀ fm n m tick x, g (bookIssue fm n m tick x) = g x) {fm : Form} {s s1 : State}
    {cx : Cx} (hi : issuing s = some cx) (hs1 : s1.groups = s.groups) (t : BitVec 3) (x : TReg) :
    g (grpOf (issued fm s cx (trldState t x cx s1)) cx.key)
      = g (advance 4 cx.ix { cx.g with regs := writeT cx.g.regs t.toNat x }) := by
  rw [grpOf_issued_keeps (g := g) h, trldState, grpOf, modGrp, tblGet, tblGet?_adj_same, hs1, (issuing_some hi).2.1]
  rfl

theorem trld_result (st : BitVec 2) (t : BitVec 3) (a b : BitVec 6) {s s1 : State} {cx : Cx} {e : DWord} {addr lvl : Nat}
    (c : Ready (.trld st t a b) s cx) (hva : (readS cx.g.regs a.toNat).toNat < 2 ^ 57)
    (hw : walkHeld s cx.g.ident.island cx.g.ident.ctx (readS cx.g.regs a.toNat).toNat .read (privileged cx.g.ident) 0
      = (s1, .leaf e addr lvl)) :
    ∃ u, exec (.trld st t a b) s = .next u
    ∧ (grpOf u cx.key).regs = writeT cx.g.regs t.toNat
        (tOfLeaf cx.g.ident.ctx (readS cx.g.regs a.toNat).toNat (readS cx.g.regs b.toNat).toNat e addr)
    ∧ (grpOf u cx.key).special = cx.g.special ∧ groupRest (grpOf u cx.key) = groupRest cx.g ∧ Still s1 u cx := by
  have hi := c.issuer
  have hs1 : s1.groups = s.groups := by
    rw [show s1 = (walkHeld s cx.g.ident.island cx.g.ident.ctx (readS cx.g.regs a.toNat).toNat .read (privileged cx.g.ident) 0).1 by rw [hw],
      (ownMem_walkHeld ..).outside]
  exact ⟨_, exec_trld_leaf c hva hw, grpOf_trld (g := Group.regs) (fun _ _ _ _ _ => rfl) hi hs1 t _,
    grpOf_trld (g := Group.special) (fun _ _ _ _ _ => rfl) hi hs1 t _, grpOf_trld (g := groupRest) (fun _ _ _ _ _ => rfl) hi hs1 t _,
    still_trans (still_modGrp ..) (still_issued ..)⟩

/-! ## TRINV (R245) -/

theorem memGet_putNat_outside {m : Memory} {a v n x : Nat} (h : x < a ∨ a + n ≤ x) : memGet (memPutNat m a v n) x = memGet m x := by
  rw [memPutNat, memGet_put_outside _ _ _ _ (by rwa [leBytes_length])]

theorem memGet_dropImageCv {base lo hi x : Nat} {p : Nat × Nat × Memory} (m : Memory)
    (h : ∀ t, t < 8 → x < groupArea base p.1 p.2.1 + 0x300 + 24 * t ∨ groupArea base p.1 p.2.1 + 0x300 + 24 * t + 8 ≤ x) :
    memGet (dropImageCv base lo hi m p) x = memGet m x := by
  refine memGet_foldl_outside (fun t ht m => ?_) m
  dsimp only
  split
  · exact memGet_putNat_outside (h t (List.mem_range.1 ht))
  · rfl

/-- The bytes of an island from which TRINV has dropped the translations that an image holds. -/
def droppedBytes (x : Context) (lo hi : Nat) (m : Memory) : Memory :=
  if inImage x then (imageSlots m x.saveBase (imageCores m x.saveBase)).foldl (dropImageCv x.saveBase lo hi) m else m

/-- What an island holds once TRINV has discarded a range. -/
def discardIn (x : Context) (c lo hi : Nat) (m : IslandMem) : IslandMem :=
  { m with
    tlb := m.tlb.filter fun t => !(t.ctx = c && spanMeets t.va t.size lo hi)
    vct := if lo = 0 && hi = 2 ^ 57 then m.vct.filter fun v => v.ctx ≠ c else m.vct
    bytes := droppedBytes x lo hi m.bytes }

theorem islOf_discardRange (s : State) (i c lo hi j : Nat) :
    islOf (discardRange s i c lo hi) j = islOf (modMem s i (discardIn (ctxOf s i c) c lo hi)) j := rfl

theorem byteAt_discardRange {s : State} {i c lo hi j x : Nat}
    (h : memGet (droppedBytes (ctxOf s i c) lo hi (islOf s i).mem.bytes) x = memGet (islOf s i).mem.bytes x) :
    byteAt (discardRange s i c lo hi) j x = byteAt s j x := by
  have hisl : memGet (islOf (discardRange s i c lo hi) j).mem.bytes x = memGet (islOf s j).mem.bytes x := by
    rw [islOf_discardRange]
    by_cases hj : j = i
    · subst hj
      by_cases hp : Present s j
      · rw [memOf_modMem hp]
        exact h
      · rw [modMem_absent hp]
    · rw [modMem, islOf_modIsl_other s _ hj]
  rw [byteAt_eq, byteAt_eq, hisl]
  rfl

theorem tlb_absent {s : State} {i : Nat} (h : ¬ Present s i) : (islOf s i).mem.tlb = [] := by
  rw [Present, Option.not_isSome_iff_eq_none] at h
  rw [islOf, tblGet, h]
  rfl

theorem tlb_discardRange (s : State) (i c lo hi : Nat) : (islOf (discardRange s i c lo hi) i).mem.tlb
    = (islOf s i).mem.tlb.filter fun t => !(t.ctx = c && spanMeets t.va t.size lo hi) := by
  rw [islOf_discardRange]
  by_cases hp : Present s i
  · rw [memOf_modMem hp, discardIn]
  · rw [modMem_absent hp, tlb_absent hp, List.filter_nil]

theorem spanMeets_iff (a n lo hi : Nat) : spanMeets a n lo hi = true ↔ a < hi ∧ lo < a + n := by
  simp [spanMeets]

/-- No held entry of the context meets the range any more. -/
theorem tlb_outside {s : State} {i c lo hi : Nat} {t : TlbEntry} (h : t ∈ (islOf (discardRange s i c lo hi) i).mem.tlb)
    (hc : t.ctx = c) : ¬(t.va < hi ∧ lo < t.va + t.size) := by
  rw [tlb_discardRange] at h
  have hkeep := (List.mem_filter.1 h).2
  rw [← spanMeets_iff]
  simpa [hc] using hkeep

theorem dropCv_outside {lo hi : Nat} {r : TReg} (h : (dropCv lo hi r).cv = true) :
    ¬((dropCv lo hi r).base.toNat < hi ∧ lo < (dropCv lo hi r).base.toNat + (dropCv lo hi r).limit.toNat) := by
  rw [dropCv] at h ⊢
  split at h
  · cases h
  next hout =>
    rw [if_neg hout, ← spanMeets_iff]
    exact hout

/-- No T register of the context's groups on the island holds a translation in the range any more. -/
theorem treg_outside {s : State} {i c lo hi : Nat} {q : Nat × Group} (h : q ∈ (discardRange s i c lo hi).groups)
    (hi' : q.2.ident.island = i) (hc : q.2.ident.ctx = c) {r : Nat × TReg} (hr : r ∈ q.2.regs.t) (hcv : r.2.cv = true) :
    ¬(r.2.base.toNat < hi ∧ lo < r.2.base.toNat + r.2.limit.toNat) := by
  obtain ⟨p, -, rfl⟩ := List.mem_map.1 h
  by_cases hmine : (p.2.ident.island = i && p.2.ident.ctx = c) = true
  · rw [if_pos hmine] at hr
    obtain ⟨y, -, rfl⟩ := List.mem_map.1 hr
    exact dropCv_outside hcv
  · rw [if_neg hmine] at hi' hc
    exact absurd (by simp [hi', hc]) hmine

/-- What TRINV answers where it has not begun. -/
def trinvBody (a b : BitVec 6) (p : BitVec 1) (cx : Cx) (s : State) : Res :=
  let i := cx.g.ident.island
  let va := (readS cx.g.regs a.toNat).toNat
  let y := (readS cx.g.regs b.toNat).toNat
  if va ≥ 2 ^ 57 || va % 65536 ≠ 0 || y ≥ 2 ^ 48 then .flt { cls := 0x01, status := 2 }
  else if !storesDone cx.g s.seq then .wait
  else
    let np := y % 2 ^ 32
    let c := bits y 47 32
    let lo := if np = 0 then 0 else va
    let hi := if np = 0 then 2 ^ 57 else va + 65536 * np
    let s1 := discardRange s i c lo hi
    if trinvDone s1 i c lo hi s.seq (rangeFrames s i c lo hi) (p = 1) then .ok (goPast 4 s1 cx)
    else .ok (modGrp s1 cx.key fun g => modFrag g cx.ix fun f =>
      { f with hold := .trinv lo hi c (rangeFrames s i c lo hi) (p = 1) s.seq })

theorem exec_trinv_first {st : BitVec 2} {a b : BitVec 6} {p : BitVec 1} {s : State} {cx : Cx}
    (c : Ready (.trinv st a b p) s cx) (hfirst : ∀ l h k fs r m, cx.f.hold ≠ .trinv l h k fs r m) {r : Res}
    (hr : trinvBody a b p cx s = r) : exec (.trinv st a b p) s = issue (trinvForm st a b) (fun _ _ => r) s := by
  have hclear : Clear (trinvForm st a b) s cx := c
  show execTrinv st a b p s = _
  rw [execTrinv, issue_clear hclear, issue_clear hclear, ← hr]
  dsimp only
  generalize cx.f.hold = hold at hfirst
  cases hold
  case trinv => exact (hfirst _ _ _ _ _ _ rfl).elim
  all_goals rfl

/-- What TRINV answers where its operands are legal and its group's stores are performed. -/
theorem trinvBody_legal {a b : BitVec 6} {p : BitVec 1} {s : State} {cx : Cx} {lo hi : Nat}
    (hva : (readS cx.g.regs a.toNat).toNat < 2 ^ 57) (halign : (readS cx.g.regs a.toNat).toNat % 65536 = 0)
    (hy : (readS cx.g.regs b.toNat).toNat < 2 ^ 48) (hst : storesDone cx.g s.seq = true)
    (hrange : (lo, hi) = (if (readS cx.g.regs b.toNat).toNat % 2 ^ 32 = 0 then (0, 2 ^ 57) else
      ((readS cx.g.regs a.toNat).toNat, (readS cx.g.regs a.toNat).toNat + 65536 * ((readS cx.g.regs b.toNat).toNat % 2 ^ 32)))) :
    let i := cx.g.ident.island
    let c := (readS cx.g.regs b.toNat).toNat / 2 ^ 32
    let s1 := discardRange s i c lo hi
    trinvBody a b p cx s = if trinvDone s1 i c lo hi s.seq (rangeFrames s i c lo hi) (p = 1) then .ok (goPast 4 s1 cx)
      else .ok (modGrp s1 cx.key fun g => modFrag g cx.ix fun f =>
        { f with hold := .trinv lo hi c (rangeFrames s i c lo hi) (p = 1) s.seq }) := by
  have hctx : bits (readS cx.g.regs b.toNat).toNat 47 32 = (readS cx.g.regs b.toNat).toNat / 2 ^ 32 := by
    rw [bits]
    exact Nat.mod_eq_of_lt (by omega)
  have hlegal : ¬ ((decide ((readS cx.g.regs a.toNat).toNat ≥ 2 ^ 57) || decide ((readS cx.g.regs a.toNat).toNat % 65536 ≠ 0)
      || decide ((readS cx.g.regs b.toNat).toNat ≥ 2 ^ 48)) = true) := by
    simp only [Bool.or_eq_true, decide_eq_true_eq, not_or]
    omega
  have hlo : (if (readS cx.g.regs b.toNat).toNat % 2 ^ 32 = 0 then 0 else (readS cx.g.regs a.toNat).toNat) = lo := by
    split at hrange
    next h => rw [if_pos h, (Prod.mk.inj hrange).1]
    next h => rw [if_neg h, (Prod.mk.inj hrange).1]
  have hhi : (if (readS cx.g.regs b.toNat).toNat % 2 ^ 32 = 0 then 2 ^ 57 else
      (readS cx.g.regs a.toNat).toNat + 65536 * ((readS cx.g.regs b.toNat).toNat % 2 ^ 32)) = hi := by
    split at hrange
    next h => rw [if_pos h, (Prod.mk.inj hrange).2]
    next h => rw [if_neg h, (Prod.mk.inj hrange).2]
  simp only [trinvBody, hctx, hlo, hhi]
  rw [if_neg hlegal, if_neg (by simp [hst])]

theorem trinv_results (st : BitVec 2) (a b : BitVec 6) (p : BitVec 1) {s : State} {cx : Cx} {lo hi : Nat}
    (c : Ready (.trinv st a b p) s cx) (hfirst : ∀ l h k fs r m, cx.f.hold ≠ .trinv l h k fs r m)
    (hva : (readS cx.g.regs a.toNat).toNat < 2 ^ 57) (halign : (readS cx.g.regs a.toNat).toNat % 65536 = 0)
    (hy : (readS cx.g.regs b.toNat).toNat < 2 ^ 48) (hst : storesDone cx.g s.seq = true)
    (hrange : (lo, hi) = (if (readS cx.g.regs b.toNat).toNat % 2 ^ 32 = 0 then (0, 2 ^ 57) else
      ((readS cx.g.regs a.toNat).toNat, (readS cx.g.regs a.toNat).toNat + 65536 * ((readS cx.g.regs b.toNat).toNat % 2 ^ 32)))) :
    let i := cx.g.ident.island
    let k := (readS cx.g.regs b.toNat).toNat / 2 ^ 32
    let s1 := discardRange s i k lo hi
    let fs := rangeFrames s i k lo hi
    (trinvDone s1 i k lo hi s.seq fs (p = 1) = true →
      exec (.trinv st a b p) s = .next (Machine.done (.trinv st a b p) s cx (goPast 4 s1 cx)))
    ∧ (trinvDone s1 i k lo hi s.seq fs (p = 1) = false →
      exec (.trinv st a b p) s = .next (Machine.done (.trinv st a b p) s cx
        (modGrp s1 cx.key fun g => modFrag g cx.ix fun f => { f with hold := .trinv lo hi k fs (p = 1) s.seq }))) := by
  have hclear : Clear (trinvForm st a b) s cx := c
  have hbody := trinvBody_legal (p := p) hva halign hy hst hrange
  refine ⟨fun hd => ?_, fun hd => ?_⟩
  · rw [exec_trinv_first c hfirst (hbody.trans (if_pos hd)), issue_clear hclear]
    rfl
  · rw [exec_trinv_first c hfirst (hbody.trans (if_neg (ne_true_of_eq_false hd))), issue_clear hclear]
    rfl

/-- The bytes that TRINV changes are those of the translations that the context's image holds. -/
theorem droppedBytes_elsewhere {x : Context} {lo hi a : Nat} {m : Memory}
    (h : inImage x = true → ∀ q ∈ imageSlots m x.saveBase (imageCores m x.saveBase), ∀ t, t < 8 →
      a < groupArea x.saveBase q.1 q.2.1 + 0x300 + 24 * t ∨ groupArea x.saveBase q.1 q.2.1 + 0x300 + 24 * t + 8 ≤ a) :
    memGet (droppedBytes x lo hi m) a = memGet m a := by
  rw [droppedBytes]
  split
  next himage => exact memGet_foldl_outside (fun q hq m => memGet_dropImageCv m (h himage q hq)) m
  · rfl

/-! ## PRF (R304) -/

theorem hostMem_translateAll (i c : Nat) (priv : Bool) (acc : Acc) (s : State) (rs : List Req) :
    (translateAll i c priv acc s rs).1.hostMem = s.hostMem := by
  have hwalk (s : State) (va salt : Nat) : (walkHeld s i c va acc priv salt).1.hostMem = s.hostMem := by
    show (if (chosenUse s i c va acc priv salt).walked then setAccessed s i (chosenUse s i c va acc priv salt).stop else s).hostMem = _
    split
    · cases (chosenUse s i c va acc priv salt).stop with
      | leaf e a lvl => exact hostMem_setEntryBit
      | page => rfl
    · rfl
  have hone (s : State) (t : TReg) (o salt : Nat) : (addrOf s i c priv t o acc salt).1.hostMem = s.hostMem := by
    rw [addrOf]
    split
    · rfl
    · split
      · rfl
      · split
        · rfl
        · exact hwalk ..
  induction rs generalizing s with
  | nil => rfl
  | cons r rs ih => exact (ih _).trans (hone ..)

@[simp] theorem memView_prefetchOne (cx : Cx) (q : BitVec 2) (n : Nat) (s : State) (p : Hit × VcAns) :
    memView (prefetchOne cx q n s p) = memView s := by
  rw [prefetchOne]
  split
  · split
    · exact memView_modMem (fun _ => by simp) ..
    · exact memView_reachHome ..
  · rfl

theorem memView_prefetched (cx : Cx) (q : BitVec 2) (n : Nat) (rs : List Req) (s : State) :
    memView (prefetched cx q n rs s) = memView (prefetchWalk cx s rs).1 := by
  simp [prefetched]

theorem prf_result (st : BitVec 2) (a : BitVec 7) (t w : BitVec 3) (q : BitVec 2) (x : BitVec 1) {s : State} {cx : Cx}
    (c : Ready (.prf st a t w q x) s cx) : ∃ u, exec (.prf st a t w q x) s = .next u
    ∧ AccessFrame s u cx ∧ (grpOf u cx.key).ops = cx.g.ops ∧ (grpOf u cx.key).held = cx.g.held
    ∧ u.teams = s.teams ∧ u.hostMem = s.hostMem ∧ (∀ i, i ≠ cx.g.ident.island → islOf u i = islOf s i)
    ∧ ∀ isl b, byteAt u isl b = byteAt (translateAll cx.g.ident.island cx.g.ident.ctx (privileged cx.g.ident) .read s
        (laneReqs cx a t x (sizeBytes w))).1 isl b := by
  refine ⟨_, exec_prf c, ?_⟩
  have htouch := touches_prefetch (prfForm st a) cx q (sizeBytes w) (laneReqs cx a t x (sizeBytes w)) s
  have hview : memView (issued (prfForm st a) s cx (modGrp (prefetched cx q (sizeBytes w) (laneReqs cx a t x (sizeBytes w)) s)
      cx.key (advance 4 cx.ix))) = memView (prefetchWalk cx s (laneReqs cx a t x (sizeBytes w))).1 := by
    simp [memView_prefetched]
  generalize issued (prfForm st a) s cx (modGrp (prefetched cx q (sizeBytes w) (laneReqs cx a t x (sizeBytes w)) s)
    cx.key (advance 4 cx.ix)) = u at htouch hview ⊢
  have hg : grpOf s cx.key = cx.g := grpOf_issuing c.issuer
  have hhost : u.hostMem = (prefetchWalk cx s (laneReqs cx a t x (sizeBytes w))).1.hostMem := congrArg MemView.host hview
  exact ⟨accessFrame_of c.issuer htouch.toAccessStep, by rw [htouch.ops, hg], by rw [htouch.held, hg], htouch.teams,
    hhost.trans (hostMem_translateAll ..), htouch.elsewhere, byteAt_of_view hview⟩

/-- Settles O34. -/
theorem translationResults : Obligations.TranslationResults := by
  refine ⟨⟨fun st t a b s cx s1 e addr lvl c hva hw => ?leaf, fun st t a b s cx s1 stop lvl c hva hw => exec_trld_page c hva hw,
    fun st t a b => ?beyond⟩, fun st a b p s cx lo hi => ?discard, fun st a b p => ?illegal, fun st a t w q x s cx c => ?prefetch,
    registerAddress, walksSetAccessed⟩
  case leaf =>
    obtain ⟨u, hexec, hregs, hspecial, hrest, hstill⟩ := trld_result st t a b c hva hw
    have hsame (q : Nat) := readT_writeT cx.g.regs t.toNat q
      (tOfLeaf cx.g.ident.ctx (readS cx.g.regs a.toNat).toNat (readS cx.g.regs b.toNat).toNat e addr)
    refine ⟨u, hexec, ?_, fun k hk => ?_, ?_⟩
    · rw [hregs, hsame, if_pos rfl]
      exact ⟨rfl, rfl, tOfLeaf_base _ _ _ hva e, rfl, rfl, tOfLeaf_limit .., tOfLeaf_rights ..⟩
    · rw [hregs, hsame, if_neg hk]
    · rw [hregs]
      exact ⟨⟨rfl, rfl⟩, ⟨rfl, rfl⟩, rfl, rfl, rfl, rfl, hspecial, hrest, hstill⟩
  case beyond =>
    intro s cx c h
    have hclear : Clear (ctlForm st [sUse a.toNat, sUse b.toNat]) s cx := c
    show execTrld st t a b s = _
    rw [execTrld, issue_clear hclear]
    dsimp only
    rw [if_pos h]
  case discard =>
    intro va y k i c hfirst hva halign hy hst hrange s1 fs
    obtain ⟨hdone, hnot⟩ := trinv_results st a b p c hfirst hva halign hy hst hrange
    refine ⟨hdone, hnot, fun himage => ⟨fun j x => byteAt_discardRange (droppedBytes_elsewhere fun h => ?_), fun _ _ => rfl⟩,
      fun j x hx => byteAt_discardRange (droppedBytes_elsewhere fun _ => hx), fun t ht => tlb_outside ht,
      fun q hq hi' hc r hr hcv => treg_outside hq hi' hc hr hcv⟩
    rw [himage] at h
    cases h
  case illegal =>
    intro s cx c h
    obtain ⟨hfirst, hbad⟩ := h
    have hclear : Clear (trinvForm st a b) s cx := c
    have hbody : trinvBody a b p cx s = .flt { cls := 0x01, status := 2 } := by
      refine if_pos ?_
      simp only [Bool.or_eq_true, decide_eq_true_eq]
      omega
    rw [exec_trinv_first c hfirst hbody, issue_clear hclear]
  case prefetch => exact prf_result st a t w q x c

end Sys2Proof.Proofs

/-! PROOFS. The checks of an access, and the fragments a park leaves (R219, R247, R298). -/

namespace Sys2Proof.Proofs

open Sys2Proof Sys2Proof.Machine Sys2Proof.Laws

/-- A group with one fragment that is to park, and one that stands parked in the slot its BWAIT keeps. -/
def heldAndParked : Group :=
  { frags := [{ mask := 1 }, { mask := 2, slot := 0, parked := some 5, hold := .bwait 0 0 0 }] }

/-- The hold of a BWAIT keeps its slot, parked or not. -/
theorem parkSplit_keeps_bwait : ∃ x ∈ (parkSplit 0 4 1 1 heldAndParked).frags,
    x.parked.isSome = true ∧ x.slot = 0 ∧ x.hold = .bwait 0 0 0 := by decide

/-- Refutes O46: where fragment 0 parks, a fragment that is parked already, with the hold of a BWAIT in slot 0, stays resident. -/
theorem not_accessChecks : ¬ Obligations.AccessChecks := by
  rintro ⟨-, -, -, hsplit⟩
  obtain ⟨-, -, -, -, -, hslots⟩ := hsplit heldAndParked 0 4 1 1 { mask := 1 } rfl rfl (by decide)
  obtain ⟨x, hx, hparked, hslot, hhold⟩ := parkSplit_keeps_bwait
  have h := hslots x hx hparked
  rw [hslot, hhold] at h
  simp at h

end Sys2Proof.Proofs

/-! PROOFS. BQNT and BDQ (R140 to R142). -/

namespace Sys2Proof.Proofs

open Sys2Proof Sys2Proof.Machine Sys2Proof.Laws

/-! ## Registers written in a span -/

theorem writeSpan_succ (g : Regs) (d n : Nat) (k : Mask) (f : Nat → Nat → Nat) :
    writeSpan g d (n + 1) k f = writeV (writeSpan g d n k f) (d + n) k fun l => bv 32 (f n l) := by
  rw [writeSpan, List.range_succ, List.foldl_append]
  rfl

theorem onlyV_writeSpan (g : Regs) (d n : Nat) (k : Mask) (f : Nat → Nat → Nat) : OnlyV g (writeSpan g d n k f) d n k := by
  induction n with
  | zero => exact ⟨fun _ _ _ _ => ⟨rfl, rfl, rfl⟩, fun r l h h' => absurd h' (by omega)⟩
  | succ n ih =>
    rw [writeSpan_succ]
    exact OnlyV.trans ih (onlyV_writeV ..)

theorem readV_writeSpan (g : Regs) (d : Nat) {n r l : Nat} {k : Mask} (f : Nat → Nat → Nat) (hr : r < n) (hl : inMask k l = true) :
    (readV (writeSpan g d n k f) (d + r) l).toNat = f r l % 2 ^ 32 := by
  induction n with
  | zero => omega
  | succ n ih =>
    rw [writeSpan_succ]
    by_cases hrn : r = n
    · subst hrn
      rw [readV_writeV_same _ _ _ _ (lt_of_inMask hl), if_pos hl, BitVec.toNat_ofNat]
    · rw [readV_writeV_other _ _ _ _ (by omega)]
      exact ih (by omega)

theorem writeSpan_rest (g : Regs) (d n : Nat) (k : Mask) (f : Nat → Nat → Nat) :
    SameP g (writeSpan g d n k f) ∧ SameUniform g (writeSpan g d n k f) := by
  induction n with
  | zero => exact ⟨⟨rfl, rfl⟩, rfl, rfl, rfl, rfl, rfl⟩
  | succ n ih =>
    rw [writeSpan_succ]
    obtain ⟨⟨hp, hbp⟩, hs, hbs, hc, hbc, ht⟩ := ih
    exact ⟨⟨hp, hbp⟩, hs, hbs, hc, hbc, ht⟩

theorem readV_of_sameV {g h : Regs} (e : SameV g h) (r l : Nat) : readV h r l = readV g r l := by
  rw [readV, e.1, readV]

theorem onlyV_of_sameV {g h j : Regs} {d n : Nat} {k : Mask} (a : OnlyV g h d n k) (e : SameV h j) : OnlyV g j d n k := by
  refine ⟨fun r l hl hr => ?_, fun r l hd hn hl => ?_⟩
  · rw [readV_of_sameV e, e.2]
    exact a.kept r l hl hr
  · rw [e.2]
    exact a.clean r l hd hn hl

theorem onlyS_of_sameUniform {g h j : Regs} {d : Nat} (e : SameUniform g h) (a : OnlyS h j d) : OnlyS g j d := by
  obtain ⟨hs, -, -, hbs, -⟩ := e
  refine ⟨fun r hr => ?_, a.clean⟩
  rw [← hs, ← hbs]
  exact a.kept r hr

theorem any_rowLanes (cx : Cx) (n : Nat) (p : Nat → Nat → Bool) :
    ((List.range n).any fun r => (lanesOf cx.f.mask).any fun l => p r l) = (rowLanes cx n).any fun q => p q.1 q.2 := by
  rw [rowLanes, List.any_flatMap]
  simp only [List.any_map, Function.comp_def]

theorem map_rowLanes {α : Type} (cx : Cx) (n : Nat) (f : Nat → Nat → α) :
    ((List.range n).flatMap fun r => (lanesOf cx.f.mask).map fun l => f r l) = (rowLanes cx n).map fun q => f q.1 q.2 := by
  rw [rowLanes, List.map_flatMap]
  simp only [List.map_map, Function.comp_def]

/-! ## What the two instructions leave -/

/-- An instruction that changes registers and special registers, and leaves all a block frame names. -/
theorem blockFrame_issued (fm : Form) (s : State) {cx : Cx} {r : Regs} {d n : Nat} (x : SpecialRegs)
    (hv : OnlyV cx.g.regs r d n cx.f.mask) (hp : SameP cx.g.regs r) (hc : r.c = cx.g.regs.c ∧ r.badC = cx.g.regs.badC)
    (ht : r.t = cx.g.regs.t) :
    let t := issued fm s cx (setGrp s cx.key (advance 4 cx.ix { cx.g with regs := r, special := x }))
    (grpOf t cx.key).regs = r ∧ BlockFrame s t cx d n x := by
  obtain ⟨hregs, hspecial, hrest, honly⟩ := issued_group fm s cx 4 r x
  exact ⟨hregs, honly, hregs.symm ▸ hv, hregs.symm ▸ hp, hregs.symm ▸ hc, hregs.symm ▸ ht, hspecial, hrest⟩

/-- The registers after BQNT: the packed blocks, then the scales. -/
def bqntRegs (g : Regs) (d : BitVec 7) (c : BitVec 6) (n : Nat) (k : Mask) (f : Nat → Nat → Nat) (x : DWord) : Regs :=
  writeS (writeSpan g d.toNat n k f) c.toNat x

theorem bqntRegs_spec (g : Regs) (d : BitVec 7) (c : BitVec 6) (n : Nat) (k : Mask) (f : Nat → Nat → Nat) (x : DWord) :
    (∀ r l, r < n → inMask k l = true → (readV (bqntRegs g d c n k f x) (d.toNat + r) l).toNat = f r l % 2 ^ 32)
    ∧ readS (bqntRegs g d c n k f x) c.toNat = (if c = 63 then 0 else x)
    ∧ OnlyS g (bqntRegs g d c n k f x) c.toNat ∧ OnlyV g (bqntRegs g d c n k f x) d.toNat n k
    ∧ SameP g (bqntRegs g d c n k f x)
    ∧ ((bqntRegs g d c n k f x).c = g.c ∧ (bqntRegs g d c n k f x).badC = g.badC) ∧ (bqntRegs g d c n k f x).t = g.t := by
  obtain ⟨⟨hp, hbp⟩, hspan⟩ := writeSpan_rest g d.toNat n k f
  obtain ⟨hv, ⟨hp', hbp'⟩, hc', hbc', ht'⟩ := writeS_rest (writeSpan g d.toNat n k f) c.toNat x
  refine ⟨fun r l hr hl => ?_, ?_, onlyS_of_sameUniform hspan (onlyS_writeS ..), onlyV_of_sameV (onlyV_writeSpan ..) hv,
    ⟨hp'.trans hp, hbp'.trans hbp⟩, ?_, ?_⟩
  · rw [bqntRegs, readV_of_sameV hv]
    exact readV_writeSpan g d.toNat f hr hl
  · have h63 : c.toNat = 63 ↔ c = 63 := by bv_omega
    rw [bqntRegs, readS_writeS]
    simp only [h63]
  · obtain ⟨-, hc, -, -, hbc⟩ := hspan
    exact ⟨hc'.trans hc, hbc'.trans hbc⟩
  · obtain ⟨-, -, ht, -, -⟩ := hspan
    exact ht'.trans ht

/-- The flags of BQNT. -/
def bqntFlags (cx : Cx) (q : Quantised) (f : BitVec 2) (n : Nat) : Flg :=
  (if q.invalid then flgNV else 0)
    ||| if (rowLanes cx n).any (fun p => (packedWord q f (lanesIn cx.g) p.1 p.2).2) then flgNX else 0

theorem exec_bqnt {st : BitVec 2} {d a : BitVec 7} {c : BitVec 6} {f : BitVec 2} {s : State} {cx : Cx}
    (h : Ready (.bqnt st d a c f) s cx) :
    let q := quantised cx.g.regs cx.f.mask a.toNat (lanesIn cx.g) f (modeOf cx.g.special)
    let n := (blockShape f (lanesIn cx.g)).p
    exec (.bqnt st d a c f) s = .next (issued (bqntForm st d a c f s cx) s cx (setGrp s cx.key (advance 4 cx.ix { cx.g with
      regs := bqntRegs cx.g.regs d c n cx.f.mask (fun r l => (packedWord q f (lanesIn cx.g) r l).1)
        (withScales (readS cx.g.regs c.toNat) q.scales)
      special := raise (crossed cx) (bqntFlags cx q f n) }))) := by
  intro q n
  have hclear : Clear (bqntForm st d a c f s cx) s cx := h
  show execBqnt st d a c f s = _
  rw [execBqnt]
  refine issueWith_ok hclear ?_
  rw [← crossed_eq, bqntFlags, ← any_rowLanes cx n fun r l => (packedWord q f (lanesIn cx.g) r l).2]
  rfl

theorem exec_bdq {st : BitVec 2} {d a : BitVec 7} {c : BitVec 6} {f : BitVec 2} {s : State} {cx : Cx}
    (h : Ready (.bdq st d a c f) s cx) :
    let z := widenAt cx.g.regs cx.f.mask a.toNat (lanesIn cx.g) f (readS cx.g.regs c.toNat) (modeOf cx.g.special)
    let n := (blockShape f (lanesIn cx.g)).g
    exec (.bdq st d a c f) s = .next (issued (bdqForm st d a c f s cx) s cx (setGrp s cx.key (advance 4 cx.ix { cx.g with
      regs := writeSpan cx.g.regs d.toNat n cx.f.mask fun r l => (z r l).1
      special := raise (crossed cx) (orFlags ((rowLanes cx n).map fun p => (z p.1 p.2).2)) }))) := by
  intro z n
  have hclear : Clear (bdqForm st d a c f s cx) s cx := h
  show execBdq st d a c f s = _
  rw [execBdq]
  refine issueWith_ok hclear ?_
  rw [← crossed_eq, ← map_rowLanes cx n fun r l => (z r l).2]

/-- Settles O31. -/
theorem blockResults : Obligations.BlockResults := by
  refine ⟨fun st d a c f s cx ready => ?pack, fun st d a c f s cx ready => ?widen⟩
  case pack =>
    intro w q n
    obtain ⟨hval, hscale, hs, hv, hp, hc, ht⟩ := bqntRegs_spec cx.g.regs d c n cx.f.mask (fun r l => (packedWord q f w r l).1)
      (withScales (readS cx.g.regs c.toNat) q.scales)
    obtain ⟨hregs, hframe⟩ := blockFrame_issued (bqntForm st d a c f s cx) s (raise (crossed cx) (bqntFlags cx q f n)) hv hp hc ht
    refine ⟨_, exec_bqnt ready, ?_⟩
    rw [hregs]
    exact ⟨hval, hscale, hs, hframe⟩
  case widen =>
    intro w z n
    obtain ⟨hp, hs, hc, ht, hbs, hbc⟩ := writeSpan_rest cx.g.regs d.toNat n cx.f.mask fun r l => (z r l).1
    obtain ⟨hregs, hframe⟩ := blockFrame_issued (bdqForm st d a c f s cx) s
      (raise (crossed cx) (orFlags ((rowLanes cx n).map fun p => (z p.1 p.2).2))) (onlyV_writeSpan cx.g.regs d.toNat n cx.f.mask
      fun r l => (z r l).1) hp ⟨hc, hbc⟩ ht
    refine ⟨_, exec_bdq ready, ?_⟩
    rw [hregs]
    exact ⟨fun r l hr hl => readV_writeSpan _ _ _ hr hl, hs, hbs, hframe⟩

end Sys2Proof.Proofs

/-! PROOFS. The copy engines: TCOPY, TSTO, TPREF and ACP16 (R226 to R230). -/

namespace Sys2Proof.Proofs

open Sys2Proof Sys2Proof.Machine Sys2Proof.Laws

/-! ## An engine operation that starts -/

/-- The record of an engine operation in its island, and its locks and pins. -/
def engineBooked (s : State) (cx : Cx) (o : EngineOp) (locks : List RangeLock) (pins : List (Nat × Nat × Nat)) : State :=
  modMem (takeLocks (pinAll s cx.g.ident.island cx.g.ident.ctx pins) cx s.seq locks) cx.g.ident.island fun m =>
    { m with engines := tblSet m.engines s.seq { o with
        grp := cx.key, age := cx.g.age, pc := cx.f.pc, ctx := cx.g.ident.ctx, team := cx.g.ident.team, pins := pins.map (·.1) } }

theorem still_engineBooked (s : State) (cx : Cx) (o : EngineOp) (locks : List RangeLock) (pins : List (Nat × Nat × Nat)) :
    Still s (engineBooked s cx o locks pins) cx := by
  have hpins : Still s (pinAll s cx.g.ident.island cx.g.ident.ctx pins) cx := by
    rw [pinAll]
    exact still_modMem _ _ _ _ fun _ => rfl
  have hlocks (t : State) : Still t (takeLocks t cx s.seq locks) cx := by
    rw [takeLocks]
    exact still_modMem _ _ _ _ fun _ => rfl
  rw [engineBooked]
  refine still_trans (still_trans hpins (hlocks _)) ?_
  exact still_modMem _ _ _ _ fun _ => rfl

theorem engines_engineBooked {s : State} {cx : Cx} (o : EngineOp) (locks : List RangeLock) (pins : List (Nat × Nat × Nat))
    (h : Present s cx.g.ident.island) :
    tblGet? (islOf (engineBooked s cx o locks pins) cx.g.ident.island).mem.engines s.seq ≠ none := by
  have hp : Present (takeLocks (pinAll s cx.g.ident.island cx.g.ident.ctx pins) cx s.seq locks) cx.g.ident.island :=
    (present_modIsl ..).trans ((present_modIsl ..).trans h)
  rw [engineBooked, memOf_modMem hp, tblGet?_set_same]
  exact Option.some_ne_none _

theorem still_addOp (s : State) (cx : Cx) (o : FlightOp) : Still s (addOp s cx.key o) cx :=
  ⟨⟨fun _ _ => rfl, fun _ _ => rfl⟩, fun _ hk => tblGet?_adj_other _ _ hk⟩

theorem still_barRelease (s : State) (cx : Cx) (m : Mask) (b : Bar) : Still s (barRelease s cx.key m b).1 cx := by
  rw [barRelease]
  split
  · exact still_modGrp ..
  · exact still_refl ..

theorem islands_barRelease (s : State) (k : Nat) (m : Mask) (b : Bar) : (barRelease s k m b).1.islands = s.islands := by
  rw [barRelease]
  split <;> rfl

/-- The state in which an engine operation has started, from the state with its record. -/
def engineRun (s : State) (cx : Cx) (bar n : Nat) (mask : Mask) (writes : List RegWrite) : State :=
  let s := if tracked s then modGrp s cx.key (shareLanes (fullMask (lanesIn cx.g))) else s
  let r := barRelease s cx.key (fullMask (lanesIn cx.g)) (barOf s cx.g.ident.team bar)
  addOp (setBar r.1 cx.g.ident.team bar { r.2 with eng := r.2.eng + 1 }) cx.key
    { id := n, cls := .copy, mask := mask, pc := cx.f.pc, writes := writes, payload := .engine n }

theorem startEngine_eq (s : State) (cx : Cx) (o : EngineOp) (locks : List RangeLock) (pins : List (Nat × Nat × Nat))
    (writes : List RegWrite) (mask : Mask) :
    startEngine s cx o locks pins writes mask = engineRun (engineBooked s cx o locks pins) cx o.bar s.seq mask writes := rfl

theorem still_engineRun (s : State) (cx : Cx) (bar n : Nat) (mask : Mask) (writes : List RegWrite) :
    Still s (engineRun s cx bar n mask writes) cx ∧ (engineRun s cx bar n mask writes).islands = s.islands := by
  have hshare : Still s (if tracked s then modGrp s cx.key (shareLanes (fullMask (lanesIn cx.g))) else s) cx
      ∧ (if tracked s then modGrp s cx.key (shareLanes (fullMask (lanesIn cx.g))) else s).islands = s.islands := by
    split
    · exact ⟨still_modGrp .., rfl⟩
    · exact ⟨still_refl .., rfl⟩
  obtain ⟨hstill, hisl⟩ := hshare
  exact ⟨still_trans (still_trans (still_trans hstill (still_barRelease ..)) (still_setBar ..)) (still_addOp ..),
    (islands_barRelease ..).trans hisl⟩

theorem still_startEngine (s : State) (cx : Cx) (o : EngineOp) (locks : List RangeLock) (pins : List (Nat × Nat × Nat))
    (writes : List RegWrite) (mask : Mask) : Still s (startEngine s cx o locks pins writes mask) cx := by
  rw [startEngine_eq]
  exact still_trans (still_engineBooked ..) (still_engineRun ..).1

/-- The operation stands in its island's record once it has started. -/
theorem engines_startEngine {s : State} {cx : Cx} (o : EngineOp) (locks : List RangeLock) (pins : List (Nat × Nat × Nat))
    (writes : List RegWrite) (mask : Mask) (h : Present s cx.g.ident.island) :
    tblGet? (islOf (startEngine s cx o locks pins writes mask) cx.g.ident.island).mem.engines s.seq ≠ none := by
  rw [startEngine_eq, islOf, (still_engineRun ..).2]
  exact engines_engineBooked o locks pins h

theorem mem_issued (fm : Form) (s e : State) (cx : Cx) (i : Nat) : (islOf (issued fm s cx e) i).mem = (islOf e i).mem := by
  obtain ⟨u, f, ⟨-, -, -, hu⟩, hf, he⟩ := bookAll_eq fm cx (readyClock fm s cx) e
  rw [issued, he]
  have hrest := (modIsl_erase (modGrp u cx.key (bookIssue fm (readyClock fm s cx) cx.f.mask u.tick)) cx.g.ident.island i f
    hf).trans ((congrArg islandRest (islOf_modGrp ..)).trans (hu i))
  exact congrArg (fun x => x.mem) hrest

/-! ## TCOPY and TSTO -/

theorem locksGranted_iff (s : State) (cx : Cx) (n : Nat) : locksGranted s cx n = true ↔ LocksFree s cx n := by
  have hhead : (askers s cx.g.ident.island).takeWhile (· ≠ askerOf cx) = []
      ↔ ∀ x, (askers s cx.g.ident.island).head? = some x → x = askerOf cx := by
    cases askers s cx.g.ident.island with
    | nil => simp
    | cons x l => by_cases hx : x = askerOf cx <;> simp [hx]
  simp only [locksGranted, LocksFree, Bool.or_eq_true, Bool.and_eq_true, decide_eq_true_eq, hhead]

/-- The engine operation that TCOPY or TSTO starts. -/
def copyOp (kind : Engine) (e d : BitVec 6) (cx : Cx) (s : State) (hs : List Hit) : EngineOp :=
  let w := readS cx.g.regs (e.toNat + 1)
  let x := tensorOf (objWords s cx.g.ident.island (opRec w))
  { kind := kind, pieces := enginePieces hs (boxPieces (boxRows x (readS cx.g.regs e.toNat) (opTa w))), count := boxCount x
    bar := barKey (teamOf s cx.g.ident.team) cx.g.ident.core (opTm w) (opBar w), d := d.toNat
    clear := if kind = .tcopy then imageSpans x (opTa w) else [] }

theorem engines_copyStart {s1 : State} {cx : Cx} {fm : Form} {s : State} (o : EngineOp) (locks : List RangeLock)
    (pins : List (Nat × Nat × Nat)) (writes : List RegWrite) (mask : Mask) (hseq : s1.seq = s.seq)
    (h : Present s1 cx.g.ident.island) :
    tblGet? (islOf (issued fm s cx (goPast 4 (startEngine s1 cx o locks pins writes mask) cx)) cx.g.ident.island).mem.engines s.seq
      ≠ none := by
  rw [mem_issued, ← hseq]
  exact engines_startEngine o locks pins writes mask h

theorem ownMem_checkEngine (s : State) (cx : Cx) (acc : Acc) (wr : Bool) (rs : List Req) :
    OwnMem cx.g.ident.island s (stateOf (checkEngine s cx acc wr rs)) := by
  have htrans := ownMem_translateAll cx.g.ident.island cx.g.ident.ctx (privileged cx.g.ident) acc s rs
  have hvc := ownMem_trans htrans (ownMem_vcAll cx.g.ident.island cx.g.ident.ctx wr _ (hitsOf
    (translateAll cx.g.ident.island cx.g.ident.ctx (privileged cx.g.ident) acc s rs).2))
  simp only [checkEngine]
  split
  · exact htrans
  · split
    · exact hvc
    · split <;> exact hvc

theorem copyStarts {i : Instr} {kind : Engine} {acc : Acc} {st : BitVec 2} {c : BitVec 3} {n : BitVec 1} {e d : BitVec 6}
    (he : ∀ s, exec i s = issueWith (copyForm st c n e (some d)) (fun cx s =>
      if condTrue cx.g.regs c n then copyBody kind e d cx s else finish 4 id cx s) s)
    (hf : ∀ s cx, formOf i s cx = copyForm st c n e (some d) s cx)
    (hacc : acc = if kind = .tcopy then .read else .write) (hwr : acc.writes = !decide (kind = .tcopy)) :
    CopyStarts i kind acc c n e d := by
  intro s cx s1 hs ready hcond id org w x key ps locks pins heng hahead
  have hclear : Clear (copyForm st c n e (some d) s cx) s cx := hf s cx ▸ ready
  have hfree : ¬ (((barOf s id.team key).eng = 255 || barvAhead cx key) = true) := by
    simp [hahead, heng.ne]
  refine ⟨fun hlocks => ?_, fun hlocks hfault hcheck hpins => ?_⟩
  · have hgrant : (!locksGranted s cx locks.length) = true := by
      rw [Bool.not_eq_true', Bool.eq_false_iff]
      exact fun h => hlocks ((locksGranted_iff ..).1 h)
    rw [he, issueWith_eq_issue hclear.issuer, issue_clear hclear]
    simp only [if_pos hcond, copyBody]
    rw [if_neg hfree, if_pos hgrant]
  · have hgrant : ¬ ((!locksGranted s cx locks.length) = true) := by
      rw [(locksGranted_iff ..).2 hlocks]
      decide
    have hown : OwnMem cx.g.ident.island s s1 := by
      have h := ownMem_checkEngine s cx acc acc.writes (pieceReqs ps)
      rwa [hcheck] at h
    have hseq : s1.seq = s.seq := by rw [hown.outside]
    intro u
    refine ⟨okWith he hf ready ?_, still_trans (still_trans (still_startEngine ..) (still_modGrp ..)) (still_issued ..), fun hp =>
      engines_copyStart _ _ _ _ _ hseq (hown.present.trans hp)⟩
    simp only [if_pos hcond, copyBody]
    rw [if_neg hfree, if_neg hgrant, hfault]
    dsimp only
    rw [← hacc, ← hwr, hcheck]
    dsimp only
    rw [if_neg (not_not_intro rfl), if_neg (by rw [hpins]; decide)]
    rfl

/-! ## TPREF -/

/-- What TPREF asks of one address of its box, by the VC's answer. -/
def tprefOne (cx : Cx) (s : State) (p : Hit × VcAns) : State :=
  match p.2 with
  | .ok vn => modMem s cx.g.ident.island fun m => vcTouch m vn cx.g.ident.core (p.1.loc.phys / 64) false
  | _ => s

/-- The addresses of TPREF's box translated. -/
def tprefWalk (cx : Cx) (e : BitVec 6) (s : State) : State × List (Req × Trans) :=
  let ws := objWords s cx.g.ident.island (opRec (readS cx.g.regs (e.toNat + 1)))
  translateAll cx.g.ident.island cx.g.ident.ctx (privileged cx.g.ident) .read s
    (pieceReqs (boxPieces (boxRows (tensorOf ws) (readS cx.g.regs e.toNat) 0)))

/-- The state in which TPREF has filled the VC. -/
def tprefFilled (cx : Cx) (e : BitVec 6) (s : State) : State :=
  let v := vcAll cx.g.ident.island cx.g.ident.ctx false (tprefWalk cx e s).1 (hitsOf (tprefWalk cx e s).2)
  v.2.foldl (tprefOne cx) v.1

theorem ownMem_tprefOne (cx : Cx) (s : State) (p : Hit × VcAns) : OwnMem cx.g.ident.island s (tprefOne cx s p) := by
  rw [tprefOne]
  split
  · exact ownMem_modMem ..
  · exact ownMem_refl ..

theorem ownMem_tprefFilled (cx : Cx) (e : BitVec 6) (s : State) : OwnMem cx.g.ident.island s (tprefFilled cx e s) :=
  ownMem_trans (ownMem_trans (ownMem_translateAll ..) (ownMem_vcAll ..)) (ownMem_foldl (ownMem_tprefOne cx) _ _)

@[simp] theorem memView_tprefOne (cx : Cx) (s : State) (p : Hit × VcAns) : memView (tprefOne cx s p) = memView s := by
  rw [tprefOne]
  split
  · exact memView_modMem (fun _ => by simp) ..
  · rfl

theorem hostMem_of_view {s t : State} (h : memView t = memView s) : t.hostMem = s.hostMem := congrArg MemView.host h

theorem hostMem_tprefFilled (cx : Cx) (e : BitVec 6) (s : State) : (tprefFilled cx e s).hostMem = s.hostMem := by
  have hview : memView (tprefFilled cx e s) = memView (tprefWalk cx e s).1 := by simp [tprefFilled]
  rw [hostMem_of_view hview, tprefWalk, hostMem_translateAll]

theorem hostMem_issued (fm : Form) (s e : State) (cx : Cx) : (issued fm s cx e).hostMem = e.hostMem := by
  obtain ⟨u, f, ⟨-, hh, -, -⟩, -, he⟩ := bookAll_eq fm cx (readyClock fm s cx) e
  rw [issued, he]
  exact hh

theorem hostMem_goPast_addOp (n : Nat) (s : State) (cx : Cx) (o : FlightOp) : (goPast n (addOp s cx.key o) cx).hostMem = s.hostMem :=
  rfl

theorem addOp_rest {s : State} {k : Nat} {o : FlightOp} : (addOp s k o).teams = s.teams ∧ (addOp s k o).seq = s.seq + 1 := ⟨rfl, rfl⟩

/-- The operation TPREF starts. -/
def tprefOp (cx : Cx) : FlightOp := { id := 0, cls := .copy, mask := cx.f.mask, pc := cx.f.pc }

theorem exec_tpref {st : BitVec 2} {c : BitVec 3} {n : BitVec 1} {e : BitVec 6} {s : State} {cx : Cx}
    (ready : Ready (.tpref st c n e) s cx) (hcond : condTrue cx.g.regs c n = true)
    (hfault : tensorFault (objWords s cx.g.ident.island (opRec (readS cx.g.regs (e.toNat + 1))))
      (opRec (readS cx.g.regs (e.toNat + 1))) cx.g.ident.ctx .read = none) :
    exec (.tpref st c n e) s
      = .next (issued (copyForm st c n e none s cx) s cx (goPast 4 (addOp (tprefFilled cx e s) cx.key (tprefOp cx)) cx)) := by
  have hclear : Clear (copyForm st c n e none s cx) s cx := ready
  show execTpref st c n e s = _
  rw [execTpref]
  refine issueWith_ok hclear ?_
  dsimp only
  rw [if_neg (by simp [hcond]), hfault]
  rfl

theorem tpref_result {st : BitVec 2} {c : BitVec 3} {n : BitVec 1} {e : BitVec 6} {s : State} {cx : Cx}
    (ready : Ready (.tpref st c n e) s cx) (hcond : condTrue cx.g.regs c n = true)
    (hfault : tensorFault (objWords s cx.g.ident.island (opRec (readS cx.g.regs (e.toNat + 1))))
      (opRec (readS cx.g.regs (e.toNat + 1))) cx.g.ident.ctx .read = none) :
    ∃ u, exec (.tpref st c n e) s = .next u ∧ AccessFrame s u cx ∧ u.teams = s.teams ∧ u.hostMem = s.hostMem
      ∧ u.seq = s.seq + 1
      ∧ (grpOf u cx.key).ops = cx.g.ops ++ [{ id := s.seq, cls := .copy, mask := cx.f.mask, pc := cx.f.pc }] := by
  have hi := ready.issuer
  have hfill := touches_of_ownMem cx.key (ownMem_tprefFilled cx e s)
  have hpast := touches_trans (touches_goPast 4 (addOp (tprefFilled cx e s) cx.key (tprefOp cx)) cx cx.g.ident.island)
    (touches_issued (copyForm st c n e none s cx) s (goPast 4 (addOp (tprefFilled cx e s) cx.key (tprefOp cx)) cx) cx)
  have hstep := accessStep_trans hfill.toAccessStep (accessStep_trans (accessStep_addOp ..) hpast.toAccessStep)
  refine ⟨_, exec_tpref ready hcond hfault, accessFrame_of hi hstep, ?_, ?_, ?_⟩
  · rw [hpast.teams, addOp_rest.1]
    exact hfill.teams
  · rw [hostMem_issued, hostMem_goPast_addOp, hostMem_tprefFilled]
  have hseq : (tprefFilled cx e s).seq = s.seq := hfill.seq
  refine ⟨by rw [hpast.seq, addOp_rest.2, hseq], ?_⟩
  rw [hpast.ops, grpOf_addOp _ (hfill.standing (standing_of_issuing hi)), hfill.ops, grpOf_issuing hi, hseq]
  rfl

/-! ## ACP16, and the obligation -/

theorem acp16_result {st : BitVec 2} {d a : BitVec 7} {t : BitVec 3} {b : BitVec 6} {s : State} {cx : Cx} {hs : List Hit}
    (ready : Ready (.acp16 st d a t b) s cx) :
    let id := cx.g.ident
    let team := teamOf s id.team
    let key := barKey team id.core false b.toNat
    let ls := acpLanes cx d a t
    let tr := translateAll id.island id.ctx (privileged id) .read s (ls.map (·.1))
    let v := vcAll id.island id.ctx false tr.1 (hitsOf tr.2)
    let pins := pinPages hs
    (barOf s id.team key).eng < 255 → LocksFree s cx 1 → barvAhead cx key = false → (barOf s id.team key).state ≠ .idle → acpAlign ls = none → firstProt tr.2 = none →
    acpExtent team ls = none → firstVcFault v.2 = none → v.2.all (fun p => p.2 ≠ .waits) = true → missesOf tr.2 = [] →
    hs = v.2.map (·.1) → hs ≠ [] → pinsFit (islOf v.1 id.island).mem pins = true →
    exec (.acp16 st d a t b) s = .next (Machine.done (.acp16 st d a t b) s cx (goPast 4 (acpStart cx v.1 ls key hs pins) cx)) := by
  intro id team key ls tr v pins heng hlocks hahead hstate halign hprot hextent hvc hwaits hmiss hhs hne hpins
  have hclear : Clear (acpForm st d a b s cx) s cx := ready
  subst hhs
  have hnone : ¬ ((v.2.any fun p => decide (p.2 = .waits)) = true) := by
    intro h
    obtain ⟨p, hp, hw⟩ := List.any_eq_true.1 h
    exact of_decide_eq_true (List.all_eq_true.1 hwaits p hp) (of_decide_eq_true hw)
  show execAcp16 st d a t b s = _
  rw [execAcp16]
  refine issueWith_ok hclear ?_
  dsimp only
  rw [if_neg (by simp only [Bool.or_eq_true, decide_eq_true_eq, not_or]; exact ⟨heng.ne, by rw [hahead]; decide⟩),
    if_neg (by rw [(locksGranted_iff ..).2 hlocks]; decide), if_neg hstate, halign]
  dsimp only
  rw [hprot, hextent]
  dsimp only [lowerLane]
  rw [hvc]
  dsimp only
  rw [if_neg hnone, if_neg hne, if_neg (by rw [hpins]; decide), hmiss, passOrPark, if_pos rfl]
  rfl

/-- Settles O37. -/
theorem copyResults : Obligations.CopyResults := by
  have hpast (c : BitVec 3) (n : BitVec 1) (body : Cx → State → Res) {s : State} {cx : Cx} (hi : issuing s = some cx)
      (h : condTrue cx.g.regs c n = false) :
      (if condTrue cx.g.regs c n then body cx s else finish 4 id cx s) = .ok (goPast 4 s cx) ∧ Still s (goPast 4 s cx) cx := by
    rw [if_neg (by simp [h]), goPast, modGrp_issuing hi]
    exact ⟨rfl, still_withGroup ..⟩
  refine ⟨fun st c n e d => runsStill_okWith (fun _ => rfl) (fun _ _ => rfl) fun s cx hi h => hpast c n (copyBody .tcopy e d) hi h,
    fun st c n e d => runsStill_okWith (fun _ => rfl) (fun _ _ => rfl) fun s cx hi h => hpast c n (copyBody .tsto e d) hi h,
    fun st c n e => ?prefetchNot, fun st c n e d => copyStarts (fun _ => rfl) (fun _ _ => rfl) rfl rfl,
    fun st c n e d => copyStarts (fun _ => rfl) (fun _ _ => rfl) rfl rfl,
    fun st c n e s cx ready hcond hfault => tpref_result ready hcond hfault, fun st d a t b s cx hs => ?lanes⟩
  case prefetchNot =>
    refine runsStill_okWith (fun _ => rfl) (fun _ _ => rfl) fun s cx hi h => ?_
    rw [goPast, modGrp_issuing hi]
    dsimp only
    rw [if_pos (by simp [h])]
    exact ⟨rfl, still_withGroup ..⟩
  case lanes =>
    intro id team key ls tr v pins ready heng hlocks hahead hstate halign hprot hextent hvc hwaits hmiss hhs hne hpins u
    refine ⟨acp16_result ready heng hlocks hahead hstate halign hprot hextent hvc hwaits hmiss hhs hne hpins, ?_⟩
    exact still_trans (still_trans (still_startEngine ..) (still_modGrp ..)) (still_issued ..)

end Sys2Proof.Proofs

/-! PROOFS. The tile instructions (R168 to R184). -/

namespace Sys2Proof.Proofs

open Sys2Proof Sys2Proof.Machine Sys2Proof.Laws

/-! ## Tiles taken for an operation -/

theorem still_foldl {α : Type} {cx : Cx} {f : State → α → State} (h : ∀ s x, Still s (f s x) cx) (l : List α) (s : State) :
    Still s (l.foldl f s) cx := by
  induction l generalizing s with
  | nil => exact still_refl ..
  | cons x l ih => exact still_trans (h s x) (ih _)

theorem still_modTile (s : State) (cx : Cx) (tm k : Nat) (f : Tile → Tile) : Still s (modTile s tm k f) cx :=
  still_sameMemory cx (sameMemory_of_view (memView_modTeam (f := fun t => { t with tiles := tblMod t.tiles k f }) (fun _ => rfl) s tm)) rfl

theorem still_beginWrite (s : State) (cx : Cx) (tm : Nat) (ks : List Nat) : Still s (beginWrite s tm ks) cx :=
  still_foldl (fun s k => still_modTile s cx tm k _) ks s

theorem still_beginRead (s : State) (cx : Cx) (tm : Nat) (ks : List Nat) : Still s (beginRead s tm ks) cx :=
  still_foldl (fun s k => still_modTile s cx tm k _) ks s

theorem still_noteTiles (s : State) (cx : Cx) (tm : Nat) (pc : VAddr) (ks : List Nat) (rows : Nat → Nat → Bool) :
    Still s (noteTiles s cx.key tm pc ks rows) cx := by
  rw [noteTiles]
  split
  · exact still_modGrp ..
  · exact still_refl ..

/-- The tiles of an operation over one tile, or over two at W64. -/
theorem tilesOf_eq (s : State) (cx : Cx) (t : Nat) :
    (if cx.g.ident.width = 2 then [t, t + 1] else [t]).map (tileKey (teamOf s cx.g.ident.team) cx.g.ident.core)
      = theTiles s cx t (tilesOf cx) := by
  rw [theTiles, tilesOf]
  split <;> rfl

/-! ## MMA, TLD, TST, TZERO, MMSC -/

theorem mma_runs (st : BitVec 2) (h : BitVec 1) (t : BitVec 5) (a : BitVec 4) (y : BitVec 3) (b : BitVec 4) (z : BitVec 1)
    (n : BitVec 2) : RunsStill (.mma st h t a y b z n) (fun s cx =>
      earlier s cx.g.ident.team (theTiles s cx t.toNat (tilesOf cx)) s.seq waitsForReads = false
      ∧ arrayBusy s cx.g.ident.island cx.g.ident.core = false) fun s cx =>
    goPast 4 (addOp (beginWrite s cx.g.ident.team (theTiles s cx t.toNat (tilesOf cx))) cx.key
      (matrixOp cx (mmaPayload cx h t a b y z) [])) cx := by
  refine runsStill_okWith (mk := mmaForm st h t a b y) (fun _ => rfl) (fun _ _ => rfl) fun s cx _ hgo => ⟨?_, ?_⟩
  · obtain ⟨hearlier, hbusy⟩ := hgo
    have hks : (payloadTiles cx.g.ident.width (mmaPayload cx h t a b y z)).map
        (tileKey (teamOf s cx.g.ident.team) cx.g.ident.core) = theTiles s cx t.toNat (tilesOf cx) := tilesOf_eq ..
    dsimp only
    rw [hks, hearlier, hbusy]
    rfl
  · exact still_trans (still_trans (still_beginWrite ..) (still_addOp ..)) (still_modGrp ..)

theorem tst_runs (st : BitVec 2) (h : BitVec 1) (t : BitVec 5) (a : BitVec 4) : RunsStill (.tst st h t a) (fun s cx =>
      earlier s cx.g.ident.team (theTiles s cx t.toNat (tilesOf cx)) s.seq waitsForAny = false) fun s cx =>
    goPast 4 (addOp (beginWrite s cx.g.ident.team (theTiles s cx t.toNat (tilesOf cx))) cx.key (matrixOp cx
      (.tst t.toNat h ((lanesOf cx.f.mask).map fun l => (l, spanWords cx.g.regs (a.toNat * 8) 32 l))) [])) cx := by
  refine runsStill_okWith (mk := moveForm st h t a false) (fun _ => rfl) (fun _ _ => rfl) fun s cx _ hgo => ⟨?_, ?_⟩
  · have hks : (payloadTiles cx.g.ident.width (.tst t.toNat h ((lanesOf cx.f.mask).map fun l =>
        (l, spanWords cx.g.regs (a.toNat * 8) 32 l)))).map (tileKey (teamOf s cx.g.ident.team) cx.g.ident.core)
          = theTiles s cx t.toNat (tilesOf cx) := tilesOf_eq ..
    dsimp only
    rw [hks, hgo]
    rfl
  · exact still_trans (still_trans (still_beginWrite ..) (still_addOp ..)) (still_modGrp ..)

/-- The register writes of TLD. -/
def tldWrites (s : State) (cx : Cx) (h : BitVec 1) (t : BitVec 5) (a : BitVec 4) : List RegWrite :=
  (lanesOf cx.f.mask).flatMap fun l => (List.range 32).map fun n =>
    let row := laneRow cx.g.ident.width h l
    { elem := .v (a.toNat * 8 + n) l
      val := (tileElem (tileOf (teamOf s cx.g.ident.team) (tileKey (teamOf s cx.g.ident.team) cx.g.ident.core (t.toNat + row.1)))
        row.2 n).setWidth 64 }

theorem tld_runs (st : BitVec 2) (h : BitVec 1) (t : BitVec 5) (a : BitVec 4) : RunsStill (.tld st h t a) (fun s cx =>
      earlier s cx.g.ident.team (theTiles s cx t.toNat (tilesOf cx)) s.seq waitsForWrites = false) fun s cx =>
    let ks := theTiles s cx t.toNat (tilesOf cx)
    let row := fun l => laneRow cx.g.ident.width h l
    let reads := fun (k r : Nat) => (lanesOf cx.f.mask).any fun l =>
      (tileKey (teamOf s cx.g.ident.team) cx.g.ident.core (t.toNat + (row l).1), (row l).2) = (k, r)
    goPast 4 (addOp (beginRead (noteTiles s cx.key cx.g.ident.team cx.f.pc ks reads) cx.g.ident.team ks) cx.key
      (matrixOp cx (.tld t.toNat) (tldWrites s cx h t a))) cx := by
  refine runsStill_okWith (mk := moveForm st h t a true) (fun _ => rfl) (fun _ _ => rfl) fun s cx _ hgo => ⟨?_, ?_⟩
  · have hks : (payloadTiles cx.g.ident.width (.tld t.toNat)).map (tileKey (teamOf s cx.g.ident.team) cx.g.ident.core)
          = theTiles s cx t.toNat (tilesOf cx) := tilesOf_eq ..
    dsimp only
    rw [hks, hgo]
    rfl
  · exact still_trans (still_trans (still_trans (still_noteTiles ..) (still_beginRead ..)) (still_addOp ..)) (still_modGrp ..)

theorem tzero_runs (st : BitVec 2) (t n : BitVec 5) : RunsStill (.tzero st t n) (fun s cx =>
      earlier s cx.g.ident.team (theTiles s cx t.toNat (n.toNat + 1)) s.seq waitsForAny = false) fun s cx =>
    goPast 4 ((theTiles s cx t.toNat (n.toNat + 1)).foldl (fun s k => modTile s cx.g.ident.team k fun _ => {}) s) cx := by
  refine runsStill_okWith (mk := tzeroForm st t n) (fun _ => rfl) (fun _ _ => rfl) fun s cx _ hgo => ⟨?_, ?_⟩
  · exact if_neg (ne_true_of_eq_false hgo)
  · exact still_trans (still_foldl (fun s k => still_modTile s cx _ k _) _ s) (still_modGrp ..)

theorem mmsc_runs (st : BitVec 2) (a b : BitVec 6) :
    RunsStill (.mmsc st a b) always fun s cx => withGroup s cx (advance 4 cx.ix { cx.g with msa := a, msb := b }) :=
  runsStill_group (fm := mmscForm st a b) (fun _ => rfl) (fun _ _ => rfl) fun _ _ _ _ => rfl

/-! ## MMAP -/

theorem mmap_skips (st : BitVec 2) (c : BitVec 3) (n : BitVec 1) (e : BitVec 6) (b : BitVec 1) (p : BitVec 2) (l z : BitVec 1)
    (y : BitVec 3) : RunsStill (.mmap st c n e b p l z y) (fun _ cx =>
      progValid cx.g = false ∧ condTrue cx.g.regs c n = false) (goPast 4) := by
  refine runsStill_okWith (mk := mmapForm st c n e b p l) (fun _ => rfl) (fun _ _ => rfl) fun s cx hi hgo => ?_
  obtain ⟨hprog, hcond⟩ := hgo
  rw [goPast, modGrp_issuing hi]
  dsimp only
  rw [hprog, hcond]
  exact ⟨rfl, still_withGroup ..⟩

theorem still_mmapIssue (s : State) (cx : Cx) (m : MmapRec) : Still s (mmapIssue s cx m) cx := by
  have hseq (t : State) (n : Nat) : Still t { t with seq := n } cx := ⟨⟨fun _ _ => rfl, fun _ _ => rfl⟩, fun _ _ => rfl⟩
  exact still_trans (still_trans (still_beginWrite ..) (still_modGrp ..)) (hseq _ _)

theorem mmap_starts (st : BitVec 2) (c : BitVec 3) (n : BitVec 1) (e : BitVec 6) (b : BitVec 1) (p : BitVec 2) (l z : BitVec 1)
    (y : BitVec 3) : RunsStill (.mmap st c n e b p l z y) (fun s cx =>
      (progValid cx.g = true ∨ condTrue cx.g.regs c n = true) ∧ cx.g.mmap = none
      ∧ mmapFault s cx (mmapStart cx s.seq e b p l z y).word0 y = none
      ∧ earlier s cx.g.ident.team (pairKeys (teamOf s cx.g.ident.team) cx.g.ident.core (if b = 1 then 16 else 0)) s.seq
        waitsForReads = false) fun s cx => mmapIssue s cx (mmapStart cx s.seq e b p l z y) := by
  refine runsStill_okWith (mk := mmapForm st c n e b p l) (fun _ => rfl) (fun _ _ => rfl) fun s cx _ hgo => ⟨?_, still_mmapIssue ..⟩
  obtain ⟨hwill, hfree, hfault, hearlier⟩ := hgo
  have hskip : ¬ ((!progValid cx.g && !condTrue cx.g.regs c n) = true) := by
    rcases hwill with h | h <;> simp [h]
  have hbase : (mmapStart cx s.seq e b p l z y).base = if b = 1 then 16 else 0 := by
    rw [mmapStart]
    split <;> rfl
  dsimp only
  rw [if_neg hskip, if_neg (by simp [hfree]), hfault]
  dsimp only
  rw [hbase, hearlier]
  rfl

/-! ## What one accumulate and one epilogue make of an element (R173, R181, R184) -/

theorem accumulateRule : AccumulateRule := by
  refine ⟨fun md acc a b sa sb => ?_, fun y md acc a b sa sb hy => ?_⟩
  · have hfour : accumulate 4 md acc a b sa sb = if signed acc 32 + dotInt a b > 2 ^ 31 - 1 then { val := 2 ^ 31 - 1, flags := flgOF }
        else if signed acc 32 + dotInt a b < -(2 ^ 31 : Int) then { val := 2 ^ 31, flags := flgOF }
        else { val := wrap (signed acc 32 + dotInt a b) 32 } := if_pos rfl
    dsimp only
    rw [hfour]
    show _ = if 2 ^ 31 - 1 < signed acc 32 + dotInt a b then _ else if signed acc 32 + dotInt a b < -2 ^ 31 then _ else _
    by_cases hover : 2 ^ 31 - 1 < signed acc 32 + dotInt a b
    · rw [if_pos hover, if_pos hover]
    · rw [if_neg hover, if_neg hover]
      split <;> rfl
  · have hscaled : scaled y = !decide (y = 6) := by
      simp [scaled, show ¬ y = 4#3 from hy]
    simp only [accumulate, if_neg hy, hscaled]
    by_cases h6 : y = 6 <;> simp [h6]

theorem snanFlag_clean {l : List Ext} (h : ∀ x ∈ l, isNan x = false) : snanFlag l = 0 := by
  have hnone : l.any isSnan = false := by
    rw [List.any_eq_false]
    intro x hx
    have hnan := h x hx
    cases x <;> simp_all [isNan, isSnan]
  rw [snanFlag, hnone]
  rfl

theorem epiValue_clamp (lo hi x : Nat) : let v := dec .f32 x
    let l := dec .f32 lo
    let h := dec .f32 hi
    epiValue 2 lo hi x = (if isNan v = true ∨ isNan l = true ∨ isNan h = true then canonicalNan .f32
      else (minMax .f32 true (minMax .f32 false x lo).1 hi).1, snanFlag [v, l, h]) := by
  intro v l h
  have hval : epiValue 2 lo hi x = if isNan v || isNan l || isNan h then (canonicalNan .f32, snanFlag [v, l, h])
    else ((minMax .f32 true (minMax .f32 false x lo).1 hi).1, 0) := rfl
  rw [hval]
  by_cases hnan : isNan v = true ∨ isNan l = true ∨ isNan h = true
  · rw [if_pos (by simpa [or_assoc] using hnan), if_pos hnan]
  · have hclean : isNan v = false ∧ isNan l = false ∧ isNan h = false := by simpa using hnan
    obtain ⟨hv, hl, hh⟩ := hclean
    rw [if_neg (by simp [hv, hl, hh]), if_neg hnan, snanFlag_clean]
    simp [hv, hl, hh]

theorem epiValue_threshold (lo hi x : Nat) : let v := dec .f32 x
    let l := dec .f32 lo
    epiValue 3 lo hi x = (if isNan v = true ∨ isNan l = true then canonicalNan .f32 else if 0 < extCmp v l then x else 0, snanFlag [v, l]) := by
  intro v l
  have hval : epiValue 3 lo hi x = if isNan v || isNan l then (canonicalNan .f32, snanFlag [v, l])
    else (if extCmp v l > 0 then x else 0, 0) := rfl
  rw [hval]
  by_cases hnan : isNan v = true ∨ isNan l = true
  · rw [if_pos (by simpa using hnan), if_pos hnan]
  · have hclean : isNan v = false ∧ isNan l = false := by simpa using hnan
    obtain ⟨hv, hl⟩ := hclean
    rw [if_neg (by simp [hv, hl]), if_neg hnan, snanFlag_clean]
    simp [hv, hl]

theorem epiDecided_iff (lo hi : Nat) (y : Ext) : let l := dec .f32 lo
    let h := dec .f32 hi
    epiDecided 0 lo hi y = false
    ∧ (epiDecided 1 lo hi y = true ↔ isFinite y = true ∧ extCmp y (.zero false) < 0)
    ∧ (epiDecided 2 lo hi y = true ↔ isFinite y = true ∧ isNan l = false ∧ isNan h = false ∧ (extCmp y l < 0 ∨ 0 < extCmp y h))
    ∧ (epiDecided 3 lo hi y = true ↔ isFinite y = true ∧ isNan l = false ∧ extCmp y l < 0) := by
  intro l h
  have h0 : epiDecided 0 lo hi y = (isFinite y && false) := rfl
  have h1 : epiDecided 1 lo hi y = (isFinite y && decide (extCmp y (.zero false) < 0)) := rfl
  have h2 : epiDecided 2 lo hi y = (isFinite y && (!isNan l && !isNan h && (decide (extCmp y l < 0) || decide (extCmp y h > 0)))) := rfl
  have h3 : epiDecided 3 lo hi y = (isFinite y && (!isNan l && decide (extCmp y l < 0))) := rfl
  rw [h0, h1, h2, h3]
  simp [and_assoc]

theorem epilogueRule : EpilogueRule := by
  refine ⟨fun lo hi x => ⟨rfl, rfl, epiValue_clamp lo hi x, epiValue_threshold lo hi x⟩, epiDecided_iff,
    fun p sat md lo hi x => if_pos rfl, fun f p sat md lo hi x hf => ?_⟩
  simp only [tepiElem, if_neg hf]

/-! ## TEPI (R184) -/

theorem length_flatMap_const {α β : Type} {k : Nat} {f : α → List β} (h : ∀ x, (f x).length = k) (l : List α) :
    (l.flatMap f).length = l.length * k := by
  induction l with
  | nil => simp
  | cons x l ih =>
    rw [List.flatMap_cons, List.length_append, ih, h, List.length_cons, Nat.add_mul, one_mul, Nat.add_comm]

/-- Place j of chunk n of a list made of chunks of one length. -/
theorem getD_flatMap_const {α β : Type} {k j : Nat} {f : α → List β} (h : ∀ x, (f x).length = k) (hj : j < k) (l : List α) {n : Nat}
    (hn : n < l.length) (d : β) : (l.flatMap f).getD (n * k + j) d = (f l[n]).getD j d := by
  induction l generalizing n with
  | nil => simp at hn
  | cons x l ih =>
    rw [List.flatMap_cons]
    cases n with
    | zero =>
      rw [Nat.zero_mul, Nat.zero_add, List.getD_append _ _ _ _ (by rwa [h])]
      rfl
    | succ n =>
      have hplace : (n + 1) * k + j = k + (n * k + j) := by rw [Nat.add_mul, one_mul]; omega
      rw [List.getD_append_right _ _ _ _ (by rw [h, hplace]; omega), h, hplace, Nat.add_sub_cancel_left]
      exact ih (by simpa using hn)

theorem memGet_puts_at {ws : List (Nat × List Byte)} {i k : Nat} (hi : i < ws.length) (hk : k < ws[i].2.length)
    (h : ∀ (j : Nat) (hj : j < ws.length), i < j → ws[i].1 + k < ws[j].1 ∨ ws[j].1 + ws[j].2.length ≤ ws[i].1 + k) (m : Memory) :
    memGet (ws.foldl (fun m w => memPut m w.1 w.2) m) (ws[i].1 + k) = ws[i].2[k] := by
  have hsplit : ws = ws.take i ++ ws[i] :: ws.drop (i + 1) := by
    rw [← List.drop_eq_getElem_cons hi, List.take_append_drop]
  refine (congrArg (fun l => memGet (l.foldl (fun m w => memPut m w.1 w.2) m) (ws[i].1 + k)) hsplit).trans
    (memGet_puts_inside hk (fun v hv => ?_) m)
  obtain ⟨j, hj, rfl⟩ := List.mem_iff_getElem.1 hv
  rw [List.getElem_drop]
  exact h _ _ (by omega)

/-- The elements of a row that TEPI writes, with their flags. -/
def tepiRow (f : BitVec 3) (p : BitVec 2) (sat : Bool) (md : RMode) (w1 : DWord) (x : Tile) (r : Nat) : List Rounded :=
  (List.range 32).map fun n => tepiElem f p sat md (epiLo w1) (epiHi w1) (tileElem x r n).toNat

/-- The bytes of a row that TEPI writes. -/
def tepiBytes (f : BitVec 3) (p : BitVec 2) (sat : Bool) (md : RMode) (w1 : DWord) (x : Tile) (r : Nat) : List Byte :=
  (tepiRow f p sat md w1 x r).flatMap fun e => leBytes e.1 (ofBytes f)

theorem tepiRows_eq (f : BitVec 3) (p : BitVec 2) (sat : Bool) (md : RMode) (w1 : DWord) (addr pitch : Nat) (x : Tile) :
    (tepiRows f p sat md w1 addr pitch x).1
      = (List.range 32).map fun r => (addr + r * pitch, tepiBytes f p sat md w1 x r) := by
  refine List.map_congr_left fun r hr => ?_
  have hr32 : r < ((List.range 32).map (tepiRow f p sat md w1 x)).length := by simpa using hr
  have hrow : nth ((List.range 32).map (tepiRow f p sat md w1 x)) r = tepiRow f p sat md w1 x r := by
    rw [nth, List.getD_eq_getElem _ _ hr32, List.getElem_map, List.getElem_range]
  exact congrArg (fun l : List Rounded => (addr + r * pitch, l.flatMap fun e => leBytes e.1 (ofBytes f))) hrow

theorem tepiBytes_length (f : BitVec 3) (p : BitVec 2) (sat : Bool) (md : RMode) (w1 : DWord) (x : Tile) (r : Nat) :
    (tepiBytes f p sat md w1 x r).length = 32 * ofBytes f := by
  rw [tepiBytes, length_flatMap_const (f := fun e : Rounded => leBytes e.1 (ofBytes f)) fun e => leBytes_length (ofBytes f) e.1, tepiRow, List.length_map, List.length_range]

theorem tepiBytes_getD (f : BitVec 3) (p : BitVec 2) (sat : Bool) (md : RMode) (w1 : DWord) (x : Tile) (r : Nat) {n j : Nat}
    (hn : n < 32) (hj : j < ofBytes f) : (tepiBytes f p sat md w1 x r).getD (n * ofBytes f + j) 0
      = (leBytes (tepiElem f p sat md (epiLo w1) (epiHi w1) (tileElem x r n).toNat).1 (ofBytes f)).getD j 0 := by
  have hlen : n < (tepiRow f p sat md w1 x r).length := by
    rw [tepiRow, List.length_map, List.length_range]
    exact hn
  rw [tepiBytes, getD_flatMap_const (f := fun e : Rounded => leBytes e.1 (ofBytes f)) (fun e => leBytes_length (ofBytes f) e.1) hj _ hlen]
  simp only [tepiRow, List.getElem_map, List.getElem_range]

/-- The bytes of the rows that TEPI writes, in team memory. -/
theorem memGet_tepi_inside {f : BitVec 3} {p : BitVec 2} {sat : Bool} {md : RMode} {w1 : DWord} {addr pitch : Nat} {x : Tile}
    {t : Team} (hpitch : 32 * ofBytes f ≤ pitch) {r n j : Nat} (hr : r < 32) (hn : n < 32) (hj : j < ofBytes f)
    (hlost : ¬ Lost t (addr + r * pitch + n * ofBytes f + j)) :
    memGet (teamPut t (tepiRows f p sat md w1 addr pitch x).1).mem (addr + r * pitch + n * ofBytes f + j)
      = (leBytes (tepiElem f p sat md (epiLo w1) (epiHi w1) (tileElem x r n).toNat).1 (ofBytes f)).getD j 0 := by
  have hin : n * ofBytes f + j < 32 * ofBytes f := by
    have : (n + 1) * ofBytes f ≤ 32 * ofBytes f := Nat.mul_le_mul_right _ hn
    rw [Nat.add_mul, one_mul] at this
    omega
  rw [memGet_teamPut hlost, tepiRows_eq, ← tepiBytes_getD f p sat md w1 x r hn hj, Nat.add_assoc (addr + r * pitch),
    List.getD_eq_getElem _ _ (by rwa [tepiBytes_length])]
  have hi : r < ((List.range 32).map fun r => (addr + r * pitch, tepiBytes f p sat md w1 x r)).length := by simpa using hr
  have hrow := memGet_puts_at hi (k := n * ofBytes f + j)
    (by simp only [List.getElem_map, List.getElem_range, tepiBytes_length]; exact hin) (fun q hq hrq => ?_) t.mem
  · simpa only [List.getElem_map, List.getElem_range] using hrow
  · simp only [List.getElem_map, List.getElem_range]
    left
    have : (r + 1) * pitch ≤ q * pitch := Nat.mul_le_mul_right _ hrq
    rw [Nat.add_mul, one_mul] at this
    omega

theorem memGet_tepi_outside {f : BitVec 3} {p : BitVec 2} {sat : Bool} {md : RMode} {w1 : DWord} {addr pitch a : Nat} {x : Tile}
    {t : Team} (hlost : ¬ Lost t a) (h : ∀ r, r < 32 → a < addr + r * pitch ∨ addr + r * pitch + 32 * ofBytes f ≤ a) :
    memGet (teamPut t (tepiRows f p sat md w1 addr pitch x).1).mem a = memGet t.mem a := by
  rw [memGet_teamPut hlost, tepiRows_eq]
  refine memGet_puts_outside (fun v hv => ?_) t.mem
  obtain ⟨r, hr, rfl⟩ := List.mem_map.1 hv
  rw [tepiBytes_length]
  exact h r (List.mem_range.1 hr)

theorem steady_foldl {α : Type} {k isl : Nat} {f : State → α → State} (h : ∀ s x, Steady k isl s (f s x)) (l : List α) (s : State) :
    Steady k isl s (l.foldl f s) := by
  induction l generalizing s with
  | nil => exact steady_of_touches (touches_refl ..)
  | cons x l ih => exact steady_trans (h s x) (ih _)

theorem steady_beginRead (s : State) (k isl tm : Nat) (ks : List Nat) : Steady k isl s (beginRead s tm ks) :=
  steady_foldl (fun _ _ => steady_modTeam ..) ks s

theorem steady_noteTiles (s : State) (k isl tm : Nat) (pc : VAddr) (ks : List Nat) (rows : Nat → Nat → Bool) :
    Steady k isl s (noteTiles s k tm pc ks rows) := by
  rw [noteTiles]
  split
  · exact ⟨accessStep_holdFault .., ops_holdFault .., rfl⟩
  · exact steady_of_touches (touches_refl ..)

theorem noteTiles_teams (s : State) (k tm : Nat) (pc : VAddr) (ks : List Nat) (rows : Nat → Nat → Bool) :
    (noteTiles s k tm pc ks rows).teams = s.teams := by
  rw [noteTiles]
  split <;> rfl

/-- The state in which TEPI has written its rows, and its tile is read. -/
def tepiState (cx : Cx) (k : Nat) (ws : List (Nat × List Byte)) (s : State) : State :=
  beginRead (modTeam (noteTiles s cx.key cx.g.ident.team cx.f.pc [k] fun _ _ => true) cx.g.ident.team fun t => teamPut t ws)
    cx.g.ident.team [k]

theorem steady_tepiState (cx : Cx) (k : Nat) (ws : List (Nat × List Byte)) (s : State) :
    Steady cx.key cx.g.ident.island s (tepiState cx k ws s) :=
  steady_trans (steady_trans (steady_noteTiles ..) (steady_modTeam ..)) (steady_beginRead ..)

theorem teamOf_tepiState_other {cx : Cx} {k q : Nat} {ws : List (Nat × List Byte)} {s : State} (h : q ≠ cx.g.ident.team) :
    teamOf (tepiState cx k ws s) q = teamOf s q := by
  rw [tepiState, beginRead, List.foldl_cons, List.foldl_nil, modTile, teamOf_modTeam_other _ _ h, teamOf_modTeam_other _ _ h]
  exact teamOf_of_teams (noteTiles_teams ..) q

theorem mem_tepiState {cx : Cx} {k : Nat} {ws : List (Nat × List Byte)} {s : State} (h : TeamIn s cx.g.ident.team) :
    (teamOf (tepiState cx k ws s) cx.g.ident.team).mem = (teamPut (teamOf s cx.g.ident.team) ws).mem := by
  have hteams := noteTiles_teams s cx.key cx.g.ident.team cx.f.pc [k] fun _ _ => true
  have hin : TeamIn (noteTiles s cx.key cx.g.ident.team cx.f.pc [k] fun _ _ => true) cx.g.ident.team := by
    rwa [TeamIn, hteams]
  rw [tepiState, beginRead, List.foldl_cons, List.foldl_nil, modTile,
    teamOf_modTeam_keeps (g := Team.mem) (f := fun t => { t with tiles := tblMod t.tiles k _ }) (fun _ => rfl),
    teamOf_modTeam_same _ hin, teamOf_of_teams hteams]

theorem byteAt_tepiState (cx : Cx) (k : Nat) (ws : List (Nat × List Byte)) (s : State) (isl a : Nat) :
    byteAt (tepiState cx k ws s) isl a = byteAt s isl a :=
  (byteAt_of_memory (u := tepiState cx k ws s) (s := noteTiles s cx.key cx.g.ident.team cx.f.pc [k] fun _ _ => true) rfl rfl rfl
    isl a).trans ((still_noteTiles s cx cx.g.ident.team cx.f.pc [k] fun _ _ => true).1.1 isl a)

/-- What TEPI writes, of the tile that it reads. -/
def tepiOut (s : State) (cx : Cx) (t : BitVec 5) (e : BitVec 6) (f : BitVec 3) (p : BitVec 2) (a : BitVec 1) :
    List (Nat × List Byte) × Flg :=
  let w0 := (readS cx.g.regs e.toNat).toNat
  tepiRows f p (a = 1) (modeOf cx.g.special) (readS cx.g.regs (e.toNat + 1)) (bits w0 31 0) (bits w0 47 32)
    (tileOf (teamOf s cx.g.ident.team) (tileKey (teamOf s cx.g.ident.team) cx.g.ident.core t.toNat))

theorem exec_tepi {st : BitVec 2} {t : BitVec 5} {e : BitVec 6} {f : BitVec 3} {p : BitVec 2} {a : BitVec 1} {s : State} {cx : Cx}
    (ready : Ready (.tepi st t e f p a) s cx) :
    let tm := cx.g.ident.team
    let w0 := (readS cx.g.regs e.toNat).toNat
    let addr := bits w0 31 0
    let pitch := bits w0 47 32
    let row := 32 * ofBytes f
    w0 < 2 ^ 48 → addr % 16 = 0 → pitch % 16 = 0 → addr + 31 * pitch + row ≤ teamExtent (teamOf s tm) →
    firstLock (islOf s cx.g.ident.island).mem true tm row true ((List.range 32).map fun r => (none, addr + r * pitch)) = none →
    earlier s tm (theTiles s cx t.toNat 1) s.seq waitsForWrites = false →
    exec (.tepi st t e f p a) s = .next (issued (tepiForm st t e p s cx) s cx (goPast 4 (addOp
      (tepiState cx (tileKey (teamOf s tm) cx.g.ident.core t.toNat) (tepiOut s cx t e f p a).1 s) cx.key
      (matrixOp cx (.tepi t.toNat (tepiOut s cx t e f p a).2) [])) cx)) := by
  intro tm w0 addr pitch row hw0 haddr hpitch hextent hlock hearlier
  have hclear : Clear (tepiForm st t e p s cx) s cx := ready
  have hreserved : bits w0 63 48 = 0 := by
    rw [bits, Nat.div_eq_of_lt hw0]
    rfl
  have haligned : ¬ ((decide (addr % 16 ≠ 0) || decide (pitch % 16 ≠ 0)) = true) := by
    simp [haddr, hpitch]
  have hkeys : earlier s tm [tileKey (teamOf s tm) cx.g.ident.core t.toNat] s.seq waitsForWrites = false := hearlier
  show execTepi st t e f p a s = _
  rw [execTepi]
  refine issueWith_ok hclear ?_
  dsimp only
  rw [if_neg (not_not_intro hreserved), if_neg haligned, if_neg (Nat.not_lt.2 hextent), hlock]
  dsimp only
  rw [hkeys]
  rfl

theorem tepi_result {st : BitVec 2} {t : BitVec 5} {e : BitVec 6} {f : BitVec 3} {p : BitVec 2} {a : BitVec 1} {s : State} {cx : Cx}
    (ready : Ready (.tepi st t e f p a) s cx) :
    let tm := cx.g.ident.team
    let w0 := (readS cx.g.regs e.toNat).toNat
    let addr := bits w0 31 0
    let pitch := bits w0 47 32
    let row := 32 * ofBytes f
    w0 < 2 ^ 48 → addr % 16 = 0 → pitch % 16 = 0 → addr + 31 * pitch + row ≤ teamExtent (teamOf s tm) →
    firstLock (islOf s cx.g.ident.island).mem true tm row true ((List.range 32).map fun r => (none, addr + r * pitch)) = none →
    earlier s tm (theTiles s cx t.toNat 1) s.seq waitsForWrites = false →
    ∃ u, exec (.tepi st t e f p a) s = .next u ∧ AccessFrame s u cx ∧ SameOutside s u
    ∧ (grpOf u cx.key).ops = cx.g.ops ++ [{ matrixOp cx (.tepi t.toNat (tepiOut s cx t e f p a).2) [] with id := s.seq }]
    ∧ u.teams = (tepiState cx (tileKey (teamOf s tm) cx.g.ident.core t.toNat) (tepiOut s cx t e f p a).1 s).teams := by
  intro tm w0 addr pitch row hw0 haddr hpitch hextent hlock hearlier
  have hi := ready.issuer
  refine ⟨_, exec_tepi ready hw0 haddr hpitch hextent hlock hearlier, ?_⟩
  have hread := steady_tepiState cx (tileKey (teamOf s tm) cx.g.ident.core t.toNat) (tepiOut s cx t e f p a).1 s
  have hbytes := byteAt_tepiState cx (tileKey (teamOf s tm) cx.g.ident.core t.toNat) (tepiOut s cx t e f p a).1 s
  generalize tepiState cx (tileKey (teamOf s tm) cx.g.ident.core t.toNat) (tepiOut s cx t e f p a).1 s = v at hread hbytes ⊢
  have hpast := touches_trans (touches_goPast 4 (addOp v cx.key (matrixOp cx (.tepi t.toNat (tepiOut s cx t e f p a).2) [])) cx
    cx.g.ident.island) (touches_issued (tepiForm st t e p s cx) s (goPast 4 (addOp v cx.key _) cx) cx)
  have hmem := still_trans (still_trans (still_addOp v cx (matrixOp cx (.tepi t.toNat (tepiOut s cx t e f p a).2) []))
    (still_modGrp _ cx (advance 4 cx.ix))) (still_issued (tepiForm st t e p s cx) s _ cx)
  refine ⟨accessFrame_of hi (accessStep_trans hread.toAccessStep (accessStep_trans (accessStep_addOp ..) hpast.toAccessStep)),
    fun isl x => (hmem.1.1 isl x).trans (hbytes isl x), ?_, ?_⟩
  · rw [hpast.ops, grpOf_addOp _ (hread.standing (standing_of_issuing hi)), hread.ops, grpOf_issuing hi, hread.seq]
  · rw [hpast.teams, addOp_rest.1]

/-- Settles O38. -/
theorem tileResults : Obligations.TileResults := by
  refine ⟨⟨mmsc_runs, mma_runs, tld_runs, tst_runs, tzero_runs, mmap_skips, mmap_starts⟩, fun st t e f p a s cx => ?_,
    accumulateRule, epilogueRule⟩
  intro tm team w0 addr pitch row rows ready hw0 haddr hpitch hextent hlock hearlier
  obtain ⟨u, hexec, hframe, hbytes, hops, hteams⟩ := tepi_result ready hw0 haddr hpitch hextent hlock hearlier
  have hin : TeamIn s cx.g.ident.team := by
    by_contra habsent
    have hnone : tblGet? s.teams cx.g.ident.team = none := by simpa [TeamIn] using habsent
    have hzero : teamExtent team = 0 := by
      simp only [team, tm, teamOf, tblGet, hnone]
      rfl
    have hrow : 0 < row := by
      have hof : 0 < ofBytes f := by
        rw [ofBytes]
        split <;> decide
      omega
    omega
  have hteam := teamOf_of_teams hteams
  refine ⟨u, hexec, hframe, hbytes, hops, fun k hk => (hteam k).trans (teamOf_tepiState_other hk), fun x hlost hout => ?_,
    fun hp r n j hr hn hj hlost => ?_⟩
  · rw [hteam, mem_tepiState hin]
    exact memGet_tepi_outside hlost hout
  · rw [hteam, mem_tepiState hin]
    exact memGet_tepi_inside hp hr hn hj hlost

end Sys2Proof.Proofs

/-! PROOFS. Chains (R65, R151 to R162). -/

namespace Sys2Proof.Proofs

open Sys2Proof Sys2Proof.Machine Sys2Proof.Laws

/-! ## The header -/

theorem fetchLinks_length {s s1 : State} {cx : Cx} {va : VAddr} {n : Nat} {ws : List Nat} (h : fetchLinks s cx va n = .ok s1 ws) :
    ws.length = n := by
  induction n generalizing s va ws with
  | zero =>
    obtain ⟨-, rfl⟩ := LinksFetched.ok.inj h
    rfl
  | succ n ih =>
    rw [fetchLinks] at h
    split at h
    · cases h
    · cases h
    · cases h
    · split at h
      next ws' heq =>
        obtain ⟨rfl, rfl⟩ := LinksFetched.ok.inj h
        exact congrArg (· + 1) (ih heq)
      next hne => exact absurd h (hne _ _)

theorem linkFault_cls {s : State} {cx : Cx} {ws : List Nat} {k : BitVec 8} {c : Cause} (h : linkFault s cx ws k = some c) :
    c.cls = 0x01 ∨ c.cls = 0x06 := by
  simp only [linkFault] at h
  split at h
  · exact .inl (congrArg Cause.cls (Option.some.inj h)).symm
  · split at h
    · exact .inl (congrArg Cause.cls (Option.some.inj h)).symm
    · obtain ⟨j, -, hj⟩ := List.exists_of_findSome?_eq_some h
      obtain ⟨st, -, hst⟩ := Option.map_eq_some_iff.1 hj
      exact .inr (congrArg Cause.cls hst).symm

section
variable {st : BitVec 2} {l : BitVec 3} {k : BitVec 8} {s s1 : State} {cx : Cx} (hi : issuing s = some cx)
include hi

theorem exec_chain_fetchFault {c : Cause} (h : fetchLinks s cx (pcAdd cx.f.pc 4) (l.toNat + 1) = .fault s1 c) :
    exec (.chain st l k) s = .next (takeFault s1 cx c) := by
  show execChain st l k s = _
  rw [execChain, hi]
  dsimp only
  rw [h]

theorem exec_chain_fetchWait (h : fetchLinks s cx (pcAdd cx.f.pc 4) (l.toNat + 1) = .wait s1) :
    exec (.chain st l k) s = .next (markWaiting s1 cx) := by
  show execChain st l k s = _
  rw [execChain, hi]
  dsimp only
  rw [h]

theorem exec_chain_fetchMiss {m : Miss} (h : fetchLinks s cx (pcAdd cx.f.pc 4) (l.toNat + 1) = .miss s1 m) :
    exec (.chain st l k) s = .next (park s1 cx .fetch .fetch 4 [m]) := by
  show execChain st l k s = _
  rw [execChain, hi]
  dsimp only
  rw [h]

theorem exec_chain_linkFault {ws : List Nat} {c : Cause} (h : fetchLinks s cx (pcAdd cx.f.pc 4) (l.toNat + 1) = .ok s1 ws)
    (hc : linkFault s1 cx ws k = some c) : exec (.chain st l k) s = .next (takeFault s1 cx c) := by
  show execChain st l k s = _
  rw [execChain, hi]
  dsimp only
  rw [h]
  dsimp only
  rw [hc]

theorem exec_chain_links {ws : List Nat} (h : fetchLinks s cx (pcAdd cx.f.pc 4) (l.toNat + 1) = .ok s1 ws)
    (hc : linkFault s1 cx ws k = none) :
    exec (.chain st l k) s = issue (chainForm st (linksOf ws) k) (chainIssue (linksOf ws) k) s1 := by
  show execChain st l k s = _
  rw [execChain, hi]
  dsimp only
  rw [h]
  dsimp only
  rw [hc]

end

/-- The group with its chain under way. -/
def chainGroup (cx : Cx) (r : ChainRec) : Group :=
  { cx.g with
    chains := cx.g.chains ++ [r]
    chainRm := cx.g.chainRm.filter fun p => !(p.1 = cx.f.pc && p.2.1 = cx.f.mask)
    frags := modNth cx.g.frags cx.ix fun f => { f with hold := .chain } }

theorem still_nextSeq (s : State) (cx : Cx) (n : Nat) : Still s { s with seq := n } cx := ⟨⟨fun _ _ => rfl, fun _ _ => rfl⟩, fun _ _ => rfl⟩

theorem chain_starts {st : BitVec 2} {l : BitVec 3} {k : BitVec 8} {s s1 : State} {cx : Cx} {ws : List Nat}
    (hi : issuing s = some cx) (hfetch : fetchLinks s cx (pcAdd cx.f.pc 4) (l.toNat + 1) = .ok s1 ws)
    (hfault : linkFault s1 cx ws k = none) (hclear : Clear (chainForm st (linksOf ws) k) s1 cx) :
    let r := chainStart cx.f cx.g.regs (chainMode cx) s1.seq (linksOf ws) k
    let u := issued (chainForm st (linksOf ws) k) s1 cx (withGroup { s1 with seq := s1.seq + 1 } cx (chainGroup cx r))
    exec (.chain st l k) s = .next u ∧ Still s1 u cx ∧ (grpOf u cx.key).regs = cx.g.regs
    ∧ (grpOf u cx.key).special = cx.g.special := by
  intro r u
  have hgroup {α : Type} {g : Group → α} (h : ∀ fm n m tick x, g (bookIssue fm n m tick x) = g x) :
      g (grpOf u cx.key) = g (chainGroup cx r) := by
    rw [grpOf_issued_keeps (g := g) h, withGroup, grpOf, setGrp, tblGet_set_same]
  refine ⟨?_, still_trans (still_trans (still_nextSeq s1 cx (s1.seq + 1)) (still_withGroup ..)) (still_issued ..),
    hgroup (g := Group.regs) (fun _ _ _ _ _ => rfl), hgroup (g := Group.special) (fun _ _ _ _ _ => rfl)⟩
  rw [exec_chain_links hi hfetch hfault]
  exact issue_ok hclear rfl

/-! ## A sink's product in a sum (R155) -/

/-- A link of two F32 operands. -/
def plainF32 (op : LinkOp) (x y d : Nat) : Option Link := some { op := op, srcs := [{ reg := x }, { reg := y }], dst := d }

theorem sinkSum_bound {a b c t d : Nat} (h : t ≠ c) :
    boundTo [plainF32 .mul a b t, plainF32 .add t c d] 0 { reg := a } = none
    ∧ boundTo [plainF32 .mul a b t, plainF32 .add t c d] 0 { reg := b } = none
    ∧ boundTo [plainF32 .mul a b t, plainF32 .add t c d] 1 { reg := t } = some (0, { op := .mul, srcs := [{ reg := a }, { reg := b }], dst := t })
    ∧ boundTo [plainF32 .mul a b t, plainF32 .add t c d] 1 { reg := c } = none := by
  refine ⟨rfl, rfl, ?_, ?_⟩
  · simp [boundTo, streamsBefore, plainF32, Link.isStream]
  · simp [boundTo, streamsBefore, plainF32, Link.isStream, h]

theorem srcBits_f32 (g : Regs) (r l : Nat) : srcBits g { reg := r } l = (readV g r l).toNat := by
  have hlt : (readV g r l).toNat < 2 ^ fmtBits .f32 := (readV g r l).isLt
  show (if FFmt.f32 = .f64 then _ else (readV g r l).toNat % 2 ^ fmtBits .f32) = _
  rw [if_neg (by decide), Nat.mod_eq_of_lt hlt]

/-- The value of an operand that is bound to no stream. -/
theorem srcVal_free {ls : List (Option Link)} {j r : Nat} (h : boundTo ls j { reg := r } = none) (g : Regs) (l : Nat)
    (vs : List LinkVal) : srcVal ls g l j vs { reg := r } = dec .f32 (readV g r l).toNat := by
  simp only [srcVal, h, if_true, srcBits_f32]

theorem srcVal_bound {ls : List (Option Link)} {j r p : Nat} {k : Link} (h : boundTo ls j { reg := r } = some (p, k)) (g : Regs) (l : Nat)
    (vs : List LinkVal) : srcVal ls g l j vs { reg := r } = (nth vs p).val := by
  simp only [srcVal, h]

/-- What the product and the sum of a chain yield in a lane. -/
theorem sinkSum_values (md : RMode) (g : Regs) (l : Nat) {a b c t d : Nat} (h : t ≠ c) :
    let x := fun (r : Nat) => dec .f32 (readV g r l).toNat
    let product := exactMul (x a) (x b)
    let sum := exactAdd md (quiet product.1) (x c)
    laneValues md [plainF32 .mul a b t, plainF32 .add t c d] g l
      = [{ val := quiet product.1, flg := product.2 ||| snanFlag [x a, x b] },
         { val := quiet sum.1, flg := sum.2 ||| snanFlag [quiet product.1, x c] }] := by
  intro x product sum
  obtain ⟨ha, hb, ht, hc⟩ := sinkSum_bound (a := a) (b := b) (d := d) h
  have hzip : [plainF32 .mul a b t, plainF32 .add t c d].zipIdx = [(plainF32 .mul a b t, 0), (plainF32 .add t c d, 1)] := rfl
  rw [laneValues, hzip, List.foldl_cons, List.foldl_cons, List.foldl_nil]
  simp only [plainF32] at ha hb ht hc ⊢
  simp only [List.map_cons, List.map_nil, srcVal_free ha, srcVal_free hb, srcVal_free hc, srcVal_bound ht]
  rfl

theorem linkWrites_add (md : RMode) (x y : LinkSrc) (d l : Nat) (v : LinkVal) :
    linkWrites md { op := .add, srcs := [x, y], dst := d } l v
      = ([{ elem := .v d l, val := BitVec.ofNat 64 ((rnd .f32 md v.val).1 % 2 ^ 32) }], (rnd .f32 md v.val).2) := by
  have hfmt : ¬ (FFmt.f32 = .f64) := by decide
  simp only [linkWrites, if_neg hfmt]

theorem sinkSum_rounded (md : RMode) (g : Regs) (l : Nat) {a b c t d : Nat} (h : t ≠ c) :
    let x := fun (r : Nat) => dec .f32 (readV g r l).toNat
    let product := exactMul (x a) (x b)
    let sum := exactAdd md (quiet product.1) (x c)
    let r := laneChain md [plainF32 .mul a b t, plainF32 .add t c d] 1 g l
    r.writes = [{ elem := .v d l, val := BitVec.ofNat 64 ((rnd .f32 md (quiet sum.1)).1 % 2 ^ 32) }]
    ∧ r.flags = orFlags [product.2 ||| snanFlag [x a, x b], sum.2 ||| snanFlag [quiet product.1, x c]]
        ||| orFlags [0, (rnd .f32 md (quiet sum.1)).2] := by
  intro x product sum r
  have hvals := sinkSum_values md g l (a := a) (b := b) (d := d) h
  have hzip : [plainF32 .mul a b t, plainF32 .add t c d].zipIdx = [(plainF32 .mul a b t, 0), (plainF32 .add t c d, 1)] := rfl
  have hfirst : (1 : BitVec 8).getLsbD 0 = true := rfl
  have hsecond : (1 : BitVec 8).getLsbD 1 = false := rfl
  have hnth (u v : LinkVal) : nth [u, v] 1 = v := rfl
  constructor
  · simp only [r, laneChain, hvals, hzip, List.map_cons, List.map_nil]
    simp only [plainF32, hfirst, hsecond, hnth, linkWrites_add, if_true, Bool.false_eq_true, if_false]
    rfl
  · simp only [r, laneChain, hvals, hzip, List.map_cons, List.map_nil]
    simp only [plainF32, hfirst, hsecond, hnth, linkWrites_add, if_true, Bool.false_eq_true, if_false, List.zip_cons_cons,
      List.zip_nil_left, List.map_cons, List.map_nil]
    simp [orFlags, BitVec.or_assoc]
    rfl

/-! ## Retirement (R157) -/

theorem chain_retires {s : State} {k i : Nat} {c : ChainRec} (hhold : (nth (grpOf s k).frags i).hold = .chain)
    (hc : chainOf (grpOf s k) (nth (grpOf s k).frags i) = some c) :
    exec (.chainRetire k i) s = .next (setGrp s k (commitChain c i (grpOf s k))) := by
  show execChainRetire k i s = _
  simp only [execChainRetire, hc]
  exact if_neg (not_not_intro hhold)

/-- Settles O39. -/
theorem chainResults : Obligations.ChainResults := by
  refine ⟨fun st l k s cx s1 ws hi hfetch hfault hclear => ?_, fun st l k s cx hi => ⟨fun s1 ws c hfetch hfault => ?_,
    fun s1 c hfetch => exec_chain_fetchFault hi hfetch, fun s1 hfetch => exec_chain_fetchWait hi hfetch,
    fun s1 m hfetch => exec_chain_fetchMiss hi hfetch⟩, fun md g l a b c t d h => sinkSum_rounded md g l h,
    fun s k i c hhold hc => ⟨_, chain_retires hhold hc, ?_⟩⟩
  · obtain ⟨hexec, hstill, hregs, hspecial⟩ := chain_starts hi hfetch hfault hclear
    refine ⟨hexec, hstill, hregs, hspecial, ?_, rfl⟩
    exact (List.length_map ..).trans (fetchLinks_length hfetch)
  · exact ⟨exec_chain_linkFault hi hfetch hfault, linkFault_cls hfault⟩
  · have hg : grpOf (setGrp s k (commitChain c i (grpOf s k))) k = commitChain c i (grpOf s k) := by
      rw [grpOf, setGrp, tblGet_set_same]
    rw [hg]
    exact ⟨rfl, rfl, rfl, ⟨fun _ _ => rfl, fun _ _ => rfl⟩, fun j hj => tblGet?_set_other _ _ hj⟩

end Sys2Proof.Proofs

/-! PROOFS. Remote operations, WAITN, COLL and COLW as they issue (R397 to R401, R409, R416, R417); QPUSH, PFENCE and
PFENCE.REL (R372, R387). -/

namespace Sys2Proof.Proofs

open Sys2Proof Sys2Proof.Machine Sys2Proof.Laws

/-! ## Operand words -/

theorem bits_to_top (w : DWord) {k : Nat} (hk : k ≤ 63) : bits w.toNat 63 k = w.toNat / 2 ^ k := by
  rw [bits]
  refine Nat.mod_eq_of_lt (Nat.div_lt_of_lt_mul ?_)
  rw [← Nat.pow_add, Nat.add_sub_cancel' (by omega)]
  exact w.isLt

/-- The bits of a word from k on are clear when its value is below 2^k. -/
theorem bits_to_top_eq_zero (w : DWord) {k : Nat} (hk : k ≤ 63) : bits w.toNat 63 k = 0 ↔ w.toNat < 2 ^ k := by
  rw [bits_to_top w hk, Nat.div_eq_zero_iff]
  exact or_iff_right (Nat.two_pow_pos k).ne'

theorem bits_to_top_ne_zero (w : DWord) {k : Nat} (hk : k ≤ 63) : bits w.toNat 63 k ≠ 0 ↔ 2 ^ k ≤ w.toNat := by
  rw [ne_eq, bits_to_top_eq_zero w hk, Nat.not_lt]

/-! ## Remote operations -/

theorem ownMem_checkLocal (s : State) (cx : Cx) (wr : Bool) (loc len : Nat) (ps : List RawPiece) :
    OwnMem cx.g.ident.island s (stateOf (checkLocal s cx wr loc len ps)) := by
  have h := ownMem_checkEngine s cx (if wr then .write else .read) wr (pieceReqs ps)
  simp only [checkLocal]
  cases hcheck : checkEngine s cx (if wr then .write else .read) wr (pieceReqs ps) with
  | go t hs ms =>
    rw [hcheck] at h
    dsimp only
    split <;> exact h
  | fault t c => rwa [hcheck] at h
  | wait t => rwa [hcheck] at h

/-- PUT, GET, RATOM and NOTIFY start where their checks pass, and where their locks are free. -/
theorem remoteStarts {i : Instr} {kind : RemoteKind} {d b e aop : Nat} {small : Bool} {fm : Form}
    (he : ∀ s, exec i s = issue fm (remoteBody kind d b e aop small) s) (hf : ∀ s cx, formOf i s cx = fm) :
    RemoteStarts i kind d b e aop small := by
  intro s cx s1 hs ready id k wr len ps locks pins o hfault hcheck hfew hopen hfit
  have hclear : Clear fm s cx := hf s cx ▸ ready
  have hnumber : s1.panel.number = s.panel.number := by
    have hown := ownMem_checkLocal s cx wr k.loc.toNat len ps
    rw [hcheck] at hown
    have hout : s1 = _ := hown.outside
    rw [hout]
  have hbody : remoteBody kind d b e aop small cx s
      = if !locksGranted s1 cx locks.length then .waitAt (askLocks s1 cx) else .ok (startRemote s1 cx o locks pins) := by
    rw [remoteBody]
    dsimp only
    rw [hfault]
    dsimp only
    simp only [len, ps, wr] at hcheck
    have hexpect : (if (decide (kind = .ratom) && decide (aop = 14)) = true then readS cx.g.regs e else 0)
        = if kind = .ratom ∧ aop = 14 then readS cx.g.regs e else 0 := by simp
    have hroom : ¬ (cx.g.ops.filter fun x => x.cls = .remote).length ≥ 255 := Nat.not_le.2 hfew
    rw [hcheck, hexpect]
    dsimp only
    rw [hnumber, if_neg (not_not_intro rfl), if_neg]
    · simp only [Bool.or_eq_true, decide_eq_true_eq, Bool.not_eq_true', not_or, Bool.not_eq_false]
      exact ⟨⟨hroom, hopen⟩, hfit⟩
  refine ⟨fun hlocks => ?_, fun hlocks => ?_⟩
  · rw [he, Machine.done, hf]
    refine issue_ok hclear (hbody.trans (if_neg ?_))
    rw [(locksGranted_iff ..).2 hlocks]
    decide
  · rw [he, issue_clear hclear, hbody, if_pos]
    rw [Bool.not_eq_true', Bool.eq_false_iff]
    exact fun h => hlocks ((locksGranted_iff ..).1 h)

/-- COLL and COLW answer a status once their ranges pass, and start the bucket with 0. -/
theorem collectiveStarts {i : Instr} {streamed : Bool} {st : BitVec 2} {d a : BitVec 6}
    (he : ∀ s, exec i s = collOp streamed st d a s) (hf : ∀ s cx, formOf i s cx = collForm st d a) :
    CollectiveStarts i streamed d.toNat a.toNat := by
  intro s cx s1 r ready id ws isl pins hfault hspans hmiss
  have hclear : Clear (collForm st d a) s cx := hf s cx ▸ ready
  have hend {e : State} (h : (if isl.buckets.length ≥ 16 then Res.ok (collEnd s1 cx d.toNat 2)
      else if (runningBucket s1 id.island id.ctx (objField ws 3 47 32)).isSome = true then .ok (collEnd s1 cx d.toNat 3)
      else if (!pinsFit isl.mem pins) = true then .waitAt s1
      else .ok (startBucket (collEnd s1 cx d.toNat 0) cx (bucketOfDesc s1 cx ws streamed r) (nth r.pieces 0) pins)) = .ok e) :
      exec i s = .next (Machine.done i s cx e) := by
    rw [he, Machine.done, hf, collOp]
    refine issue_ok hclear ?_
    dsimp only
    rw [hfault]
    dsimp only
    rw [hspans]
    dsimp only
    rw [if_neg (not_not_intro hmiss)]
    exact h
  refine ⟨fun hfull => hend (if_pos hfull), fun hroom hrun => hend ?_, fun hroom hrun hfit => hend ?_⟩
  · rw [if_neg (Nat.not_le.2 hroom), if_pos hrun]
  · rw [if_neg (Nat.not_le.2 hroom), if_neg (ne_true_of_eq_false hrun), if_neg (by rw [hfit]; decide)]

/-! ## WAITN -/

theorem bits_cond (w : Nat) : bv 2 (bits w 17 16) = BitVec.ofNat 2 (w / 2 ^ 16) :=
  BitVec.eq_of_toNat_eq (by simp [bv, bits])

theorem bits_low_half (w : Nat) : bits w 15 0 = w % 2 ^ 16 := by
  simp [bits]

theorem continuation_eq_target {w : Nat} (pc : VAddr) (off : BitVec w) : continuation pc off = target pc off := by
  have hbytes : (off.signExtend 57) <<< 2 = BitVec.ofInt 57 (4 * off.toInt) := by
    rw [BitVec.shiftLeft_eq_mul_twoPow, BitVec.ofInt_mul, mul_comm]
    rfl
  rw [continuation, target, hbytes, BitVec.ofInt_add, BitVec.ofInt_natCast, BitVec.ofNat_toNat, BitVec.setWidth_eq]

/-- Settles O41. -/
theorem remoteResults : Obligations.RemoteResults := by
  refine ⟨⟨fun st d b => remoteStarts (fun _ => rfl) fun _ _ => rfl, fun st d b => remoteStarts (fun _ => rfl) fun _ _ => rfl,
    fun st d b e o z => remoteStarts (fun _ => rfl) fun _ _ => rfl, fun st d b => remoteStarts (fun _ => rfl) fun _ _ => rfl⟩,
    fun st c v off => ?waitn, fun st d a => collectiveStarts (fun _ => rfl) fun _ _ => rfl,
    fun st d a => collectiveStarts (fun _ => rfl) fun _ _ => rfl⟩
  case waitn =>
    intro w holds mine
    have hlow (cx : Cx) (h : w cx < 2 ^ 18) : ¬ bits (readS cx.g.regs c.toNat).toNat 63 18 ≠ 0 :=
      (bits_to_top_ne_zero _ (by decide)).not.2 (Nat.not_le.2 h)
    have hn (cx : Cx) : bits (readS cx.g.regs c.toNat).toNat 15 0 = w cx % 2 ^ 16 := bits_low_half _
    have hcond (cx : Cx) : bv 2 (bits (readS cx.g.regs c.toNat).toNat 17 16) = BitVec.ofNat 2 (w cx / 2 ^ 16) := bits_cond _
    have hnot {b : Bool} (h : b = true) : ¬ (!b) = true := by simp [h]
    refine ⟨?met, ?waits, ?reserved, ?foreign⟩
    case met =>
      refine runsStill_ok (fun _ => rfl) (fun _ _ => rfl) fun s cx hi ⟨hw, hmine, hholds⟩ => ⟨?_, ?_⟩
      · rw [if_neg (hlow cx hw), hn, hcond, if_neg (hnot hmine), if_pos hholds, continuation_eq_target]
      · refine still_trans (still_trans ?_ (still_acquireClock ..)) (still_modGrp ..)
        exact still_sameMemory cx (sameMemory_of_view (memView_sampleCtx ..)) (sampleCtx_groups ..)
    case waits =>
      refine runsStill_group (fun _ => rfl) (fun _ _ => rfl) fun s cx hi ⟨hw, hmine, hholds⟩ => ?_
      rw [if_neg (hlow cx hw), hn, hcond, if_neg (hnot hmine), if_neg (ne_true_of_eq_false hholds), continuation_eq_target,
        modGrp_issuing hi]
      rfl
    case reserved =>
      exact faultsIf_issue (fun _ => rfl) (fun _ _ => rfl) fun s cx _ h =>
        if_pos ((bits_to_top_ne_zero _ (by decide)).2 h)
    case foreign =>
      refine faultsIf_issue (fun _ => rfl) (fun _ _ => rfl) fun s cx _ ⟨hw, hmine⟩ => ?_
      rw [if_neg (hlow cx hw), hn, if_pos (by rw [Bool.not_eq_true']; exact hmine)]

/-! ## QPUSH -/

theorem queueOf_modQueue (s : State) (n : Nat) (f : Queue → Queue) : queueOf (modQueue s n f) n = f (queueOf s n) := by
  rw [queueOf, modQueue, tblMod, tblGet_set_same, queueOf]

theorem restQueue_keeps (q : Queue) : (restQueue q).tail = q.tail ∧ (restQueue q).head = q.head := by
  rw [restQueue]
  split <;> exact ⟨rfl, rfl⟩

@[simp] theorem memView_modQueue (s : State) (n : Nat) (f : Queue → Queue) : memView (modQueue s n f) = memView s := rfl

@[simp] theorem memView_setMarks (s : State) (i : Nat) (qs : List Nat) : memView (setMarks s i qs) = memView s := by
  simp [setMarks]

theorem panel_setMarks (s : State) (i : Nat) (qs : List Nat) : (setMarks s i qs).panel = s.panel := rfl

theorem panel_physPut (s : State) (i p : Nat) (bs : List Byte) : (physPut s i p bs).panel = s.panel := by
  rw [physPut]
  split <;> rfl

/-- What QPUSH leaves in its slot, and of its queue's pointers. -/
theorem pushPacket_slot {s : State} {n : Nat} {bs : List Byte} (bad : List Nat) (hp : Present s (qIsl (queueOf s n))) (hlen : bs.length = 64)
    (hside : slotAddr (queueOf s n) (queueOf s n).tail + 64 ≤ hostBase ∨ hostBase ≤ slotAddr (queueOf s n) (queueOf s n).tail) :
    (∀ k, k < 64 → byteAt (pushPacket s n bs bad) (qIsl (queueOf s n)) (slotAddr (queueOf s n) (queueOf s n).tail + k)
      = bs.getD k 0)
    ∧ (queueOf (pushPacket s n bs bad) n).tail = (queueOf s n).tail + 1
    ∧ (queueOf (pushPacket s n bs bad) n).head = (queueOf s n).head := by
  have hview : memView (pushPacket s n bs bad)
      = memView (physPut s (qIsl (queueOf s n)) (slotAddr (queueOf s n) (queueOf s n).tail) bs) := by simp [pushPacket]
  have hpanel : (setMarks (physPut s (qIsl (queueOf s n)) (slotAddr (queueOf s n) (queueOf s n).tail) bs) (qIsl (queueOf s n))
      (bad.map fun j => slotAddr (queueOf s n) (queueOf s n).tail / 16 + j)).panel = s.panel :=
    (panel_setMarks ..).trans (panel_physPut ..)
  have hqueue : queueOf (pushPacket s n bs bad) n = restQueue { queueOf s n with tail := (queueOf s n).tail + 1 } := by
    rw [pushPacket, queueOf_modQueue, queueOf, hpanel, queueOf]
  refine ⟨fun k hk => ?_, ?_, ?_⟩
  · rw [byteAt_of_view hview, byteAt_physPut_same hp (by omega) (by rwa [hlen]), List.getD_eq_getElem _ _ (by omega)]
  · rw [hqueue, (restQueue_keeps _).1]
  · rw [hqueue, (restQueue_keeps _).2]

/-- The read of the packet that QPUSH asks for. -/
def pushReq (a : BitVec 6) (cx : Cx) : Req := { t := { base := readS cx.g.regs a.toNat }, o := 0 }

theorem seq_of_checkGlobal {s s1 : State} {cx : Cx} {w : Want} {rs : List Req} {hs : List Hit} {ms : List Miss}
    (h : checkGlobal s cx w rs = .go s1 hs ms) : s1.seq = s.seq := by
  have hown := ownMem_checkGlobal s cx w rs
  rw [h] at hown
  have hout : s1 = _ := hown.outside
  rw [hout]

@[simp] theorem memView_panelRelease (s : State) (k : Nat) (m : Mask) : memView (panelRelease s k m) = memView s := by
  rw [panelRelease]
  split <;> simp

/-- QPUSH and its checks: the status where the packet can be read, and what stops it. -/
theorem qpush_outcomes (st : BitVec 2) (d a b : BitVec 6) {s : State} {cx : Cx} (ready : Ready (.qpush st d a b) s cx)
    (hw : (readS cx.g.regs b.toNat).toNat < 2 ^ 10) :
    let check := checkGlobal s cx { acc := .read, n := 64 } [pushReq a cx]
    (∀ s1 c, check = .fault s1 c → exec (.qpush st d a b) s = .next (takeFault s1 cx c))
    ∧ (∀ s1, check = .wait s1 → exec (.qpush st d a b) s = .next (markWaiting s1 cx))
    ∧ (∀ s1 ms, check = .go s1 [] ms → exec (.qpush st d a b) s = .next (park s1 cx .uniform .read 4 ms))
    ∧ ∀ s1 h hs ms, check = .go s1 (h :: hs) ms → accessesDone cx.g s.seq = false →
      exec (.qpush st d a b) s = .next (markWaiting s1 cx) := by
  have hclear : Clear (qpushForm st d a b) s cx := ready
  have hlow : ¬ bits (readS cx.g.regs b.toNat).toNat 63 10 ≠ 0 :=
    (bits_to_top_ne_zero _ (by decide)).not.2 (Nat.not_le.2 hw)
  intro check
  refine ⟨fun s1 c h => ?_, fun s1 h => ?_, fun s1 ms h => ?_, fun s1 x hs ms h hbusy => ?_⟩ <;>
    (show execQpush st d a b s = _) <;> simp only [check, pushReq] at h <;>
    rw [execQpush, issue_clear hclear] <;> dsimp only <;> rw [if_neg hlow, h]
  dsimp only
  rw [seq_of_checkGlobal h, hbusy]
  rfl

/-- Settles O42. -/
theorem queueAndPortResults : Obligations.QueueAndPortResults := by
  refine ⟨fun st d a b s cx s1 h => ?push, fun st d a b => ⟨?reserved, fun s cx ready hw => qpush_outcomes st d a b ready hw⟩,
    fun n bs bad s => ?slot, fun st d a => ⟨?fence, ?release⟩, fun st d a => ?ports⟩
  case push =>
    intro w acc i s2 r s3 ready hw hpass hdone
    refine ⟨?_, fun hr => sameMemory_of_view ?_⟩
    · have hclear : Clear (qpushForm st d a b) s cx := ready
      have hlow : ¬ bits (readS cx.g.regs b.toNat).toNat 63 10 ≠ 0 :=
        (bits_to_top_ne_zero _ (by decide)).not.2 (Nat.not_le.2 hw)
      have hcheck : checkGlobal s cx { acc := .read, n := 64 } [{ t := { base := readS cx.g.regs a.toNat }, o := 0 }]
        = .go s1 [h] [] := hpass.1
      show execQpush st d a b s = _
      rw [execQpush]
      refine issue_ok hclear ?_
      dsimp only
      rw [if_neg hlow, hcheck]
      dsimp only
      rw [seq_of_checkGlobal hcheck, hdone]
      rfl
    · simp only [s3, if_neg hr, s2]
      simp
  case reserved =>
    exact faultsIf_issue (fun _ => rfl) (fun _ _ => rfl) fun s cx _ h => if_pos ((bits_to_top_ne_zero _ (by decide)).2 h)
  case slot =>
    intro q _ hisl hlen hside
    obtain ⟨isl, hisl⟩ := hisl
    exact pushPacket_slot bad (Option.isSome_iff_exists.2 ⟨isl, hisl⟩) hlen hside
  case fence =>
    exact faultsIf_issue (fun _ => rfl) (fun _ _ => rfl) fun s cx _ h => if_pos ((bits_to_top_ne_zero _ (by decide)).2 h)
  case release =>
    exact faultsIf_issue (fun _ => rfl) (fun _ _ => rfl) fun s cx _ h => if_pos ((bits_to_top_ne_zero _ (by decide)).2 h)
  case ports =>
    intro w port answer fenced
    have hlow (cx : Cx) (h : w cx < 16) : ¬ bits (readS cx.g.regs a.toNat).toNat 63 4 ≠ 0 :=
      (bits_to_top_ne_zero _ (by decide)).not.2 (Nat.not_le.2 h)
    have hport (s : State) (cx : Cx) (f : Port → Port) : Still s (modPort s cx.g.ident.island (w cx) f) cx :=
      still_modIsl s cx _ _ fun _ => rfl
    have hanswer (v : Nat) (s : State) (cx : Cx) : Still s (answer v s cx) cx := still_modGrp ..
    have hnone (cx : Cx) (h : w cx < 12) : ¬ (readS cx.g.regs a.toNat).toNat ≥ 12 := Nat.not_le.2 h
    have hmet {b : Bool} {P : Prop} [Decidable P] (h : b = true ∨ P) : ¬ (!(b || decide P)) = true := by
      rw [Bool.not_eq_true', Bool.eq_false_iff, not_not, Bool.or_eq_true, decide_eq_true_eq]
      exact h
    refine ⟨?fenceNone, ?fenceClosed, ?drained, ?holds, ?releaseNone, ?releaseClosed, ?released⟩
    case fenceNone =>
      refine runsStill_ok (fun _ => rfl) (fun _ _ => rfl) fun s cx hi h => ⟨?_, hanswer ..⟩
      rw [if_neg (hlow cx h.2), if_pos h.1]
      rfl
    case fenceClosed =>
      refine runsStill_ok (fun _ => rfl) (fun _ _ => rfl) fun s cx hi ⟨hw, hclosed, hstate⟩ => ⟨?_, hanswer ..⟩
      rw [if_neg (hlow cx (by omega)), if_neg (hnone cx hw)]
      refine (if_pos ?_).trans rfl
      simp only [Bool.not_or, Bool.and_eq_true, Bool.not_eq_true', decide_eq_false_iff_not]
      exact ⟨hclosed, hstate⟩
    case drained =>
      refine runsStill_ok (fun _ => rfl) (fun _ _ => rfl) fun s cx hi ⟨hw, hopen, howed⟩ => ⟨?_, ?_⟩
      · rw [if_neg (hlow cx (by omega)), if_neg (hnone cx hw)]
        exact (if_neg (hmet hopen)).trans (if_pos howed)
      · exact still_trans (still_trans (hport ..) (hport ..)) (hanswer ..)
    case holds =>
      refine runsStill_ok (fun _ => rfl) (fun _ _ => rfl) fun s cx hi ⟨hw, hopen, howed⟩ => ⟨?_, ?_⟩
      · rw [if_neg (hlow cx (by omega)), if_neg (hnone cx hw)]
        exact (if_neg (hmet hopen)).trans (if_neg howed)
      · exact still_trans (hport ..) (still_modGrp ..)
    case releaseNone =>
      refine runsStill_ok (fun _ => rfl) (fun _ _ => rfl) fun s cx hi h => ⟨?_, hanswer ..⟩
      rw [if_neg (hlow cx h.2), if_pos h.1]
      rfl
    case releaseClosed =>
      refine runsStill_ok (fun _ => rfl) (fun _ _ => rfl) fun s cx hi ⟨hw, hstate, hfence⟩ => ⟨?_, hanswer ..⟩
      rw [if_neg (hlow cx (by omega)), if_neg (hnone cx hw)]
      refine (if_pos ?_).trans rfl
      simp only [Bool.and_eq_true, Bool.not_eq_true', decide_eq_true_eq]
      exact ⟨hstate, hfence⟩
    case released =>
      refine runsStill_ok (fun _ => rfl) (fun _ _ => rfl) fun s cx hi ⟨hw, hfenced⟩ => ⟨?_, ?_⟩
      · rw [if_neg (hlow cx (by omega)), if_neg (hnone cx hw)]
        refine (if_neg ?_).trans ?_
        · rw [Bool.and_eq_true, Bool.not_eq_true', decide_eq_true_eq]
          rintro ⟨hstate, hfence⟩
          exact hfenced.elim hstate (Bool.eq_false_iff.1 hfence)
        · simp only [Bool.or_eq_true]
          rfl
      · exact still_trans (hport ..) (hanswer ..)

end Sys2Proof.Proofs

/-! PROOFS. The virtual cache instructions: VCDEF, VCRSZ, VCRET, VCQ, VCWB and VCINV (R257 to R272). -/

namespace Sys2Proof.Proofs

open Sys2Proof Sys2Proof.Machine Sys2Proof.Laws

/-! ## The instructions -/

theorem vcRuns {i : Instr} {op : VcOp} {st : BitVec 2} {d a : BitVec 6} (he : ∀ s, exec i s = vcOp op st d a s)
    (hf : ∀ s cx, formOf i s cx = vcOpForm st d a) : VcRuns i op d.toNat a.toNat := by
  refine runsIf_issue he hf fun s cx _ ⟨hres, hobj⟩ => ?_
  dsimp only
  rw [if_neg (ne_true_of_eq_false hres), hobj]
  rfl

theorem cleanRuns {i : Instr} {drop : Bool} {st : BitVec 2} {a b c : BitVec 6} {x : BitVec 1}
    (he : ∀ s, exec i s = vcClean drop st a b c x s) (hf : ∀ s cx, formOf i s cx = vcCleanForm st a b c x) :
    CleanRuns i drop a.toNat b.toNat c.toNat x := by
  refine runsIf_issue he hf fun s cx _ ⟨hother, hlo, hhi, hdone⟩ => ?_
  dsimp only
  rw [if_neg, if_neg, if_neg, if_neg (by rw [hdone]; decide)]
  · rfl
  · simp only [Bool.or_eq_true, decide_eq_true_eq]
    omega
  · simp only [Bool.and_eq_true, decide_eq_true_eq, Bool.not_eq_true']
    rintro ⟨hx, hpriv⟩
    exact absurd (hother hx).2 (ne_true_of_eq_false hpriv)
  · simp only [Bool.and_eq_true, decide_eq_true_eq]
    rintro ⟨hx, hw⟩
    exact absurd (hother hx).1 (Nat.not_lt.2 hw)

theorem vcq_runs (st : BitVec 2) (d a : BitVec 6) :
    RunsStill (.vcq st d a) (fun _ cx => (readS cx.g.regs a.toNat).toNat < 2 ^ 10
      ∧ (readS cx.g.regs a.toNat).toNat / 2 ^ 6 % 4 = 0) fun s cx =>
    let i := cx.g.ident.island
    let w := (readS cx.g.regs a.toNat).toNat
    let e := vctEntry s i cx.g.ident.ctx (w % 64) 0
    goPastWith 4 (fun g => writeS g d.toNat (BitVec.ofNat 64
      (vcqResult (islOf e.1 i).mem cx.g.ident.ctx (e.2.toNat % 64) (w / 2 ^ 8)))) e.1 cx := by
  refine runsStill_ok (fun _ => rfl) (fun _ _ => rfl) fun s cx _ ⟨hw, hmid⟩ => ⟨?_, ?_⟩
  · have hhigh : bits (readS cx.g.regs a.toNat).toNat 63 10 = 0 := (bits_to_top_eq_zero _ (by decide)).2 hw
    have hmid' : bits (readS cx.g.regs a.toNat).toNat 7 6 = 0 := hmid
    have hvcx : bits (readS cx.g.regs a.toNat).toNat 5 0 = (readS cx.g.regs a.toNat).toNat % 64 := by simp [bits]
    have hsel : bits (readS cx.g.regs a.toNat).toNat 9 8 = (readS cx.g.regs a.toNat).toNat / 2 ^ 8 :=
      Nat.mod_eq_of_lt (by omega)
    rw [if_neg (by simp [hhigh, hmid']), hvcx, hsel]
    rfl
  · exact still_trans (still_sameMemory cx (sameMemory_of_view (memView_vctEntry ..)) rfl) (still_modGrp ..)

/-! ## Acceptance (R264) -/

theorem applyVc_refused (s : State) (i : Nat) (op : VcOp) (w : Nat) (h : (applyVc s i op w).1 ≠ 0) : (applyVc s i op w).2 = s :=
  if_neg h

theorem admits_iff (x : Island) (op : VcOp) (vn ri : Nat) : admits x op vn ri = true ↔ Admitted x op vn ri := by
  cases op with
  | define => simp [admits, Admitted]
  | resize =>
    simp only [admits, Admitted, parkedIn, Bool.and_eq_true, Bool.or_eq_true, decide_eq_true_eq, and_assoc, Bool.not_eq_true',
      Bool.eq_false_iff, ne_eq, List.any_eq_true]
  | retire => simp [admits, Admitted, or_assoc, and_comm]

theorem vcStatus_spec : VcStatus := by
  intro s i op w st m x y v claim bad fit differs short many
  have hst : st = vcStatus (islOf s i) op (w % 2 ^ 16) x y := by
    simp only [st, applyVc, bits_low_half, x, y]
  have hbad : (recordBad x || deckleBad x || deckleBad y) = true ↔ bad := by
    simp only [Bool.or_eq_true, bad, or_assoc]
  have hfit : (!admits (islOf s i) op (cdrVcn x) (w % 2 ^ 16)) = true ↔ ¬ fit := by
    rw [Bool.not_eq_true', Bool.eq_false_iff, not_iff_not]
    exact admits_iff ..
  have hdiffers : (decide (op = .resize)
      && (bits y 37 36 ≠ v.spec.lineCode.toNat || bits y 40 38 ≠ v.spec.waysCode.toNat)) = true ↔ differs := by
    simp only [Bool.and_eq_true, Bool.or_eq_true, decide_eq_true_eq]
    rfl
  have hshort : (claim.any (fun b => !bankFree m b) || (claim ≠ [] && freeBanks m < claim.length + 24)) = true ↔ short := by
    simp [short]
  have hmany : (!busyVc v && busyVcs m ≥ 8) = true ↔ many := by
    simp [many]
  simp only [vcStatus] at hst
  rw [hst]
  refine ⟨fun h => if_pos (hbad.2 h), fun h h1 => ?_, fun h h1 h2 => ?_, fun h h1 h2 h3 => ?_, fun h h1 h2 h3 h4 => ?_,
    fun h h1 h2 h3 h4 => ?_⟩ <;> rw [if_neg (hbad.not.2 h)]
  · exact if_pos (hfit.2 h1)
  · rw [if_neg (hfit.not.2 (not_not_intro h1))]
    exact if_pos (hdiffers.2 h2)
  · rw [if_neg (hfit.not.2 (not_not_intro h1)), if_neg (hdiffers.not.2 h2)]
    exact if_pos (hshort.2 h3)
  · rw [if_neg (hfit.not.2 (not_not_intro h1)), if_neg (hdiffers.not.2 h2), if_neg (hshort.not.2 h3)]
    exact if_pos (hmany.2 h4)
  · rw [if_neg (hfit.not.2 (not_not_intro h1)), if_neg (hdiffers.not.2 h2), if_neg (hshort.not.2 h3)]
    exact if_neg (hmany.not.2 h4)

/-! ## VCQ (R271) -/

theorem noVc_iff (m : IslandMem) (c vn : Nat) :
    (vn = 63 || ((vcOf m vn).state ≠ .undefined && (vcOf m vn).spec.owner ≠ c && (vcOf m vn).spec.owner ≠ 0xFFFF)) = true
      ↔ NoVc m c vn := by
  simp [NoVc, and_assoc]

theorem flag_toNat (b : Bool) (n : Nat) : (if b then 2 ^ n else 0) = b.toNat * 2 ^ n := by
  cases b <;> simp

/-- The fields of the word of VCQ, each below its width. -/
theorem vcqFields_of_lt {rc affine fifo policy ways line old cap vn shrunk psn code : Nat} (h1 : affine < 2) (h2 : fifo < 2)
    (h3 : policy < 4) (h4 : ways < 8) (h5 : line < 4) (h6 : old < 2 ^ 14) (h7 : cap < 2 ^ 14) (h8 : vn < 63) (h9 : shrunk < 2)
    (h10 : psn < 2) (h11 : code < 8) :
    let q := rc * 2 ^ 55 + affine * 2 ^ 54 + fifo * 2 ^ 53 + policy * 2 ^ 51 + ways * 2 ^ 48 + line * 2 ^ 46 + old * 2 ^ 32
      + cap * 2 ^ 16 + vn * 2 ^ 8 + shrunk * 2 ^ 4 + psn * 2 ^ 3 + code
    q % 2 ^ 3 = code ∧ q / 2 ^ 3 % 2 = psn ∧ q / 2 ^ 4 % 2 ^ 4 = shrunk ∧ q / 2 ^ 8 % 2 ^ 8 = vn
      ∧ q / 2 ^ 16 % 2 ^ 16 = cap ∧ q / 2 ^ 32 % 2 ^ 14 = old ∧ q / 2 ^ 46 % 2 ^ 2 = line
      ∧ q / 2 ^ 48 % 2 ^ 3 = ways ∧ q / 2 ^ 51 % 2 ^ 2 = policy
      ∧ q / 2 ^ 53 % 2 = fifo ∧ q / 2 ^ 54 % 2 = affine ∧ q / 2 ^ 55 = rc := by
  intro q
  simp only [q]
  omega

theorem vcCode_lt (x : VcState) : vcCode x < 8 := by
  cases x <;> decide

theorem vcqFields : VcqFields := by
  refine ⟨fun m c vn sel h => if_pos ((noVc_iff m c vn).2 h), fun m c vn hvn hvc => ?_⟩
  intro v q cap old
  have hmine := (noVc_iff m c vn).not.2 hvc
  refine ⟨if_neg hmine, if_neg hmine, if_neg hmine, fun hcap hold => ?_⟩
  have hq : q = vcqWord m vn := if_neg hmine
  rw [hq, vcqWord]
  simp only [flag_toNat]
  exact vcqFields_of_lt (Bool.toNat_lt _) (Bool.toNat_lt _) v.spec.policy.isLt v.spec.waysCode.isLt v.spec.lineCode.isLt hold hcap
    hvn (Bool.toNat_lt _) (Bool.toNat_lt _) (vcCode_lt _)

/-! ## Lines written back and dropped (R272) -/

theorem inFrames_iff (fs : List (Nat × Nat)) (sec : Nat) : inFrames fs sec = true ↔ Framed fs sec := by
  simp [inFrames, Framed]

theorem tblGet?_mapKey {α : Type} (l : Tbl α) (f : Nat → α → α) (k : Nat) :
    tblGet? (l.map fun p => (p.1, f p.1 p.2)) k = (tblGet? l k).map (f k) := by
  induction l with
  | nil => rfl
  | cons p l ih =>
    rw [List.map_cons, tblGet?, tblGet?]
    split
    next h => rw [h, Option.map_some]
    next h => exact ih

/-- What becomes of a home record. -/
theorem home_cleanFrames (fs : List (Nat × Nat)) (drop : Bool) (m : IslandMem) (sec : Nat) :
    tblGet? (cleanFrames fs drop m).home sec
      = (tblGet? m.home sec).map fun h => if inFrames fs sec then homeClean drop h else h := by
  rw [← tblGet?_mapKey m.home fun k h => if inFrames fs k then homeClean drop h else h, cleanFrames]
  congr 1
  refine List.map_congr_left fun p _ => ?_
  split <;> rfl

/-- What becomes of a sector's record where lines stay. -/
theorem sectors_cleanFrames (fs : List (Nat × Nat)) (m : IslandMem) (sec : Nat) :
    tblGet? (cleanFrames fs false m).sectors sec = (tblGet? m.sectors sec).map fun x =>
      if inFrames fs sec && !decide ((tblGet m.home sec).hst = .owned) then { x with dirty := false } else x := by
  rw [← tblGet?_mapKey m.sectors fun k x =>
    if inFrames fs k && !decide ((tblGet m.home k).hst = .owned) then { x with dirty := false } else x, cleanFrames]
  congr 1
  refine List.map_congr_left fun p _ => ?_
  split <;> rfl

theorem framesClean : FramesClean := by
  refine ⟨fun fs m sec h => ⟨?_, fun x hx => ?_⟩, fun fs m sec h => ?_, fun fs m sec x h hx => ?_, fun fs drop m sec h => ⟨?_, ?_⟩,
    fun fs drop m => rfl⟩
  · refine (tblGet?_filter_key m.sectors (fun k => !inFrames fs k) sec).trans (if_neg ?_)
    rw [(inFrames_iff fs sec).2 h]
    decide
  · refine ⟨homeClean true x, ?_, rfl, rfl, rfl, rfl⟩
    rw [home_cleanFrames, hx, Option.map_some, if_pos ((inFrames_iff fs sec).2 h)]
  · rw [sectors_cleanFrames, (inFrames_iff fs sec).2 h]
    refine congrArg (fun f => (tblGet? m.sectors sec).map f) (funext fun x => ?_)
    by_cases howned : (tblGet m.home sec).hst = .owned <;> simp [howned]
  · refine ⟨homeClean false x, ?_, rfl, rfl, rfl, rfl, rfl⟩
    rw [home_cleanFrames, hx, Option.map_some, if_pos ((inFrames_iff fs sec).2 h)]
  · have hout : inFrames fs sec = false := Bool.eq_false_iff.2 ((inFrames_iff fs sec).not.2 h)
    cases drop with
    | true =>
      refine (tblGet?_filter_key m.sectors (fun k => !inFrames fs k) sec).trans (if_pos ?_)
      rw [hout]
      rfl
    | false => rw [sectors_cleanFrames, hout]; simp
  · have hout : inFrames fs sec = false := Bool.eq_false_iff.2 ((inFrames_iff fs sec).not.2 h)
    rw [home_cleanFrames, hout]
    simp

/-! ## The frames of a range (R270, R272) -/

theorem mem_tableIndices {m : Memory} {table j : Nat} (hj : j < 8192) (h : memGet m (table + 8 * j) ≠ 0) :
    j ∈ tableIndices m table := by
  have hcell : ∃ b, (table + 8 * j, b) ∈ m := by
    cases hget : tblGet? m (table + 8 * j) with
    | none => exact absurd (by rw [memGet, hget]; rfl) h
    | some b => exact ⟨b, mem_of_tblGet? hget⟩
  obtain ⟨b, hb⟩ := hcell
  rw [tableIndices, List.mem_eraseDups]
  refine List.mem_map.2 ⟨_, List.mem_filter.2 ⟨hb, ?_⟩, by dsimp only; omega⟩
  simp only [Bool.and_eq_true, decide_eq_true_eq]
  omega

theorem lowByte_of_entry {s : State} {i a : Nat} (h : bit (entryAt s i a).toNat 0 = true) :
    memGet (islOf s i).mem.bytes a ≠ 0 := by
  intro h0
  have hnat : (entryAt s i a).toNat = memNat (islOf s i).mem.bytes a 8 := by
    rw [entryAt, BitVec.toNat_ofNat, Nat.mod_eq_of_lt (memNat_lt_word ..)]
  rw [bit, decide_eq_true_eq, hnat, memNat_succ, h0] at h
  have hzero : (0 : Byte).toNat = 0 := rfl
  omega

/-- The start of what an entry of a level covers, for an address below it. -/
def coverStart (lvl va : Nat) : Nat := va / 2 ^ levelShift lvl * 2 ^ levelShift lvl

theorem coverStart_le (lvl va : Nat) : coverStart lvl va ≤ va := Nat.div_mul_le_self ..

theorem lt_coverStart_add (lvl va : Nat) : va < coverStart lvl va + 2 ^ levelShift lvl :=
  Nat.lt_div_mul_add (Nat.two_pow_pos _)

/-- A table's entry for an address covers from its own index on. -/
theorem coverStart_succ {n : Nat} (hn : n ≤ 2) (va : Nat) :
    levelIndex n va < 8192 ∧ coverStart (n + 1) va + levelIndex n va * 2 ^ levelShift n = coverStart n va := by
  have hcases : n = 0 ∨ n = 1 ∨ n = 2 := by omega
  rcases hcases with rfl | rfl | rfl <;> simp only [levelIndex, coverStart, levelShift, bits] <;> omega

theorem leafSize_cases (e : DWord) : leafSize e = 2 ^ 16 ∨ leafSize e = 2 ^ 21 ∨ leafSize e = 2 ^ 29 := by
  rw [leafSize]
  split
  · exact .inl rfl
  · exact .inr (.inl rfl)
  · exact .inr (.inr rfl)

theorem index_of_entry {s : State} {i table n va : Nat} (hn : levelIndex n va < 8192)
    (h : bit (entryAt s i (entryAddr table n va)).toNat 0 = true) :
    levelIndex n va ∈ tableIndices (islOf s i).mem.bytes table :=
  mem_tableIndices hn (lowByte_of_entry h)

/-- A walk that ends in a leaf of a range ends in one that the tables' listing finds. -/
theorem leaf_listed {s : State} {i lo hi va : Nat} {e : DWord} {a lvl : Nat} (hlo : lo ≤ va) (hhi : va < hi) {n : Nat} :
    ∀ {table : Nat}, n ≤ 2 → (walkFrom s i va n table).1 = .leaf e a lvl →
      ∃ p ∈ leavesFrom s i lo hi n table (coverStart (n + 1) va), leafAt s i p.2.1 p.2.2.1 p.2.2.2 = .leaf e a lvl := by
  induction n with
  | zero =>
    intro table hn h
    obtain ⟨hidx, hstart⟩ := coverStart_succ hn va
    rw [walkFrom] at h
    split at h
    · cases h
    split at h
    · cases h
    split at h
    · cases h
    next hmark hvalid hform =>
    rw [Bool.not_eq_true', Bool.not_eq_false] at hvalid
    refine ⟨(coverStart 0 va, entryAt s i (entryAddr table 0 va), entryAddr table 0 va, 0), ?_, h⟩
    rw [leavesFrom]
    refine List.mem_flatMap.2 ⟨_, index_of_entry hidx hvalid, ?_⟩
    have hva : coverStart (0 + 1) va + levelIndex 0 va * 2 ^ 16 = coverStart 0 va := hstart
    have haddr : table + 8 * levelIndex 0 va = entryAddr table 0 va := rfl
    rw [hva, haddr, if_neg]
    · exact List.mem_singleton_self _
    · have hle := coverStart_le 0 va
      have hlt := lt_coverStart_add 0 va
      have hsize := leafSize_cases (entryAt s i (entryAddr table 0 va))
      simp only [levelShift] at hlt
      have hshape : coverStart 0 va = va / 2 ^ 16 * 2 ^ 16 := rfl
      simp only [Bool.or_eq_true, not_or, decide_eq_true_eq, hmark, hvalid, hform]
      rcases hsize with hs | hs | hs <;> rw [hs] <;> refine ⟨⟨⟨⟨by decide, by decide⟩, by decide⟩, ?_⟩, ?_⟩ <;> omega
  | succ n ih =>
    intro table hn h
    obtain ⟨hidx, hstart⟩ := coverStart_succ hn va
    rw [walkFrom] at h
    dsimp only at h
    split at h
    · cases h
    split at h
    · cases h
    split at h
    · cases h
    next hmark hvalid hform =>
    rw [Bool.not_eq_true', Bool.not_eq_false] at hvalid
    have hle := coverStart_le (n + 1) va
    have hlt := lt_coverStart_add (n + 1) va
    have hentry : ¬ (marked s i (entryAddr table (n + 1) va) || !bit (entryAt s i (entryAddr table (n + 1) va)).toNat 0
        || malformed (n + 1) (entryAt s i (entryAddr table (n + 1) va)) || decide (hi ≤ coverStart (n + 1) va)
        || decide (coverStart (n + 1) va + 2 ^ levelShift (n + 1) ≤ lo)) = true := by
      simp only [Bool.or_eq_true, not_or, decide_eq_true_eq, hmark, hvalid, hform]
      refine ⟨⟨⟨⟨by decide, by decide⟩, by decide⟩, ?_⟩, ?_⟩ <;> omega
    have hsub : ∀ p, p ∈ (if bit (entryAt s i (entryAddr table (n + 1) va)).toNat 1 then
          [(coverStart (n + 1) va, entryAt s i (entryAddr table (n + 1) va), entryAddr table (n + 1) va, n + 1)]
        else leavesFrom s i lo hi n (frameOf (entryAt s i (entryAddr table (n + 1) va))) (coverStart (n + 1) va)) →
        p ∈ leavesFrom s i lo hi (n + 1) table (coverStart (n + 1 + 1) va) := by
      intro p hp
      rw [leavesFrom]
      refine List.mem_flatMap.2 ⟨_, index_of_entry hidx hvalid, ?_⟩
      have haddr : table + 8 * levelIndex (n + 1) va = entryAddr table (n + 1) va := rfl
      dsimp only
      rw [hstart, haddr, if_neg hentry]
      exact hp
    split at h
    next hleaf => exact ⟨_, hsub _ (by rw [if_pos hleaf]; exact List.mem_singleton_self _), h⟩
    next hleaf =>
      obtain ⟨p, hp, hend⟩ := ih (by omega) h
      exact ⟨p, hsub _ (by rw [if_neg hleaf]; exact hp), hend⟩

/-- The same from the root of a context's tables on. -/
theorem leaf_in_range {s : State} {i c lo hi va : Nat} {e : DWord} {a lvl : Nat} (hlo : lo ≤ va) (hhi : va < hi)
    (htop : hi ≤ 2 ^ 57) (h : (walk s i c va).1 = .leaf e a lvl) :
    ∃ p ∈ leavesIn s i c lo hi, leafAt s i p.2.1 p.2.2.1 p.2.2.2 = .leaf e a lvl := by
  have hidx : levelIndex 3 va < 4 := Nat.mod_lt _ (by decide)
  have hstart : levelIndex 3 va * 2 ^ 55 = coverStart 3 va := by
    simp only [levelIndex, coverStart, levelShift, bits]
    omega
  rw [walk, walkFrom] at h
  dsimp only at h
  split at h
  · cases h
  split at h
  · cases h
  split at h
  · cases h
  next hmark hvalid hform =>
  rw [Bool.not_eq_true', Bool.not_eq_false] at hvalid
  split at h
  next hleaf =>
    refine absurd ?_ hform
    rw [malformed]
    simp [hleaf]
  next hleaf =>
    obtain ⟨p, hp, hend⟩ := leaf_listed hlo hhi (by decide) h
    refine ⟨p, ?_, hend⟩
    rw [leavesIn, if_neg (by omega)]
    refine List.mem_flatMap.2 ⟨levelIndex 3 va, List.mem_range.2 hidx, ?_⟩
    have haddr : descAddr s i c + 8 * levelIndex 3 va = entryAddr (descAddr s i c) 3 va := rfl
    have hle := coverStart_le 3 va
    have hlt := lt_coverStart_add 3 va
    have hshift : levelShift 3 = 55 := rfl
    rw [hshift] at hlt
    dsimp only
    rw [hstart, haddr, if_neg]
    · exact hp
    · simp only [Bool.or_eq_true, not_or, decide_eq_true_eq, hmark, hvalid, hform]
      refine ⟨⟨⟨⟨by decide, by decide⟩, by decide⟩, ?_⟩, ?_⟩ <;> omega

/-- The entries of a VC table that are held and differ from the one in memory. -/
def staleVct (s : State) (i c vcx : Nat) : List VctEntry :=
  (islOf s i).mem.vct.filter fun v =>
    v.ctx = c && v.vcx = vcx && v.val ≠ memGet (islOf s i).mem.bytes (descAddr s i c + 0x20 + vcx)

/-- A state that differs in held entries of VC tables only, none of them stale. -/
structure VctLike (i : Nat) (s t : State) : Prop where
  tick : t.tick = s.tick
  bytes : (islOf t i).mem.bytes = (islOf s i).mem.bytes
  ctxBase : (islOf t i).mem.ctxBase = (islOf s i).mem.ctxBase
  vcs : (islOf t i).mem.vcs = (islOf s i).mem.vcs
  stale : ∀ c vcx, staleVct t i c vcx = staleVct s i c vcx

theorem vctLike_refl (i : Nat) (s : State) : VctLike i s s := ⟨rfl, rfl, rfl, rfl, fun _ _ => rfl⟩

theorem vctLike_trans {i : Nat} {s t u : State} (a : VctLike i s t) (b : VctLike i t u) : VctLike i s u :=
  ⟨b.tick.trans a.tick, b.bytes.trans a.bytes, b.ctxBase.trans a.ctxBase, b.vcs.trans a.vcs, fun c vcx => (b.stale c vcx).trans (a.stale c vcx)⟩

theorem VctLike.descAddr {i : Nat} {s t : State} (h : VctLike i s t) (c : Nat) :
    Machine.descAddr t i c = Machine.descAddr s i c := by
  rw [Machine.descAddr, h.ctxBase, Machine.descAddr]

theorem VctLike.entry {i : Nat} {s t : State} (h : VctLike i s t) (c vcx salt : Nat) :
    (vctEntry t i c vcx salt).2 = (vctEntry s i c vcx salt).2 := by
  have hstale := h.stale c vcx
  simp only [staleVct] at hstale
  simp only [vctEntry]
  rw [hstale, h.tick, h.bytes, h.descAddr]

theorem VctLike.check {i : Nat} {s t : State} (h : VctLike i s t) (c : Nat) (b : Byte) (wr : Bool) :
    vcCheck (islOf t i).mem c b wr = vcCheck (islOf s i).mem c b wr := by
  have hof : vcOf (islOf t i).mem = vcOf (islOf s i).mem := funext fun v => by rw [vcOf, vcOf, h.vcs]
  unfold vcCheck
  rw [hof]

/-- The look at a VC table holds an entry as it stands in memory. -/
theorem vct_vctEntry {s : State} {i : Nat} (hp : Present s i) (c vcx salt : Nat) :
    ∃ l, (∀ v ∈ l, v.val = memGet (islOf s i).mem.bytes (descAddr s i v.ctx + 0x20 + v.vcx))
      ∧ (islOf (vctEntry s i c vcx salt).1 i).mem = { (islOf s i).mem with vct := (islOf s i).mem.vct ++ l } := by
  have hmem : (islOf (vctEntry s i c vcx salt).1 i).mem = _ := memOf_modMem hp _
  rw [hmem]
  split
  · exact ⟨[], by simp, by rw [List.append_nil]⟩
  · exact ⟨[_], by simp, rfl⟩

theorem vctLike_vctEntry (s : State) (i c vcx salt : Nat) : VctLike i s (vctEntry s i c vcx salt).1 := by
  by_cases hp : Present s i
  · obtain ⟨l, hl, hmem⟩ := vct_vctEntry hp c vcx salt
    refine ⟨rfl, by rw [hmem], by rw [hmem], by rw [hmem], fun c' vcx' => ?_⟩
    have hdesc : descAddr (vctEntry s i c vcx salt).1 i c' = descAddr s i c' := by rw [descAddr, hmem, descAddr]
    rw [staleVct, staleVct, hdesc, hmem, List.filter_append]
    refine List.append_right_eq_self.2 (List.filter_eq_nil_iff.2 fun v hv => ?_)
    simp only [Bool.and_eq_true, decide_eq_true_eq]
    rintro ⟨⟨rfl, rfl⟩, hne⟩
    exact hne (hl v hv)
  · have hsame : (vctEntry s i c vcx salt).1 = s := by
      simp only [vctEntry]
      exact modMem_absent hp _
    rw [hsame]
    exact vctLike_refl ..

/-- What framesIn does at one leaf. -/
def frameStep (s : State) (i c : Nat) (priv : Bool) (r : State × List (Nat × Nat)) (p : Nat × DWord × Nat × Nat) :
    State × List (Nat × Nat) :=
  match transOf c p.1 .read priv (leafAt s i p.2.1 p.2.2.1 p.2.2.2) with
  | .ok l =>
    let e := vctEntry r.1 i c l.vcx 0
    match vcCheck (islOf e.1 i).mem c e.2 false with
    | .fault .. => (e.1, r.2)
    | _ => (e.1, r.2 ++ [(l.frame, l.size)])
  | _ => r

theorem framesIn_eq (s : State) (i c : Nat) (priv : Bool) (lo hi : Nat) :
    framesIn s i c priv lo hi = (leavesIn s i c lo hi).foldl (frameStep s i c priv) (s, []) := rfl

/-- A leaf's page is cleaned: it translates for a read, and its VC does not fault. -/
def Cleaned (s : State) (i c : Nat) (priv : Bool) (p : Nat × DWord × Nat × Nat) (f : Nat × Nat) : Prop :=
  ∃ l, transOf c p.1 .read priv (leafAt s i p.2.1 p.2.2.1 p.2.2.2) = .ok l ∧ f = (l.frame, l.size)
    ∧ ∀ st vn, vcCheck (islOf s i).mem c (vctEntry s i c l.vcx 0).2 false ≠ .fault st vn

theorem frameStep_spec {s : State} {i c : Nat} {priv : Bool} {r : State × List (Nat × Nat)} (h : VctLike i s r.1)
    (p : Nat × DWord × Nat × Nat) :
    VctLike i s (frameStep s i c priv r p).1
    ∧ ∀ f, f ∈ (frameStep s i c priv r p).2 ↔ f ∈ r.2 ∨ Cleaned s i c priv p f := by
  rw [frameStep]
  split
  next l hl =>
    have hlike : VctLike i s (vctEntry r.1 i c l.vcx 0).1 := vctLike_trans h (vctLike_vctEntry ..)
    dsimp only
    rw [hlike.check, h.entry]
    split
    next st vn hfault =>
      refine ⟨hlike, fun f => (or_iff_left ?_).symm⟩
      rintro ⟨l', hl', -, hclean⟩
      cases hl.symm.trans hl'
      exact hclean st vn hfault
    next hclean =>
      refine ⟨hlike, fun f => ?_⟩
      rw [List.mem_append, List.mem_singleton]
      refine or_congr_right ⟨fun hf => ⟨l, hl, hf, fun st vn h => hclean st vn h⟩, ?_⟩
      rintro ⟨l', hl', hf, -⟩
      cases hl.symm.trans hl'
      exact hf
  next hno =>
    refine ⟨h, fun f => (or_iff_left ?_).symm⟩
    rintro ⟨l, hl, -, -⟩
    exact hno l hl

theorem mem_frameFold {s : State} {i c : Nat} {priv : Bool} (l : List (Nat × DWord × Nat × Nat)) {r : State × List (Nat × Nat)}
    (h : VctLike i s r.1) (f : Nat × Nat) :
    f ∈ (l.foldl (frameStep s i c priv) r).2 ↔ f ∈ r.2 ∨ ∃ p ∈ l, Cleaned s i c priv p f := by
  induction l generalizing r with
  | nil => simp
  | cons p l ih =>
    obtain ⟨hlike, hmem⟩ := frameStep_spec (c := c) (priv := priv) h p
    rw [List.foldl_cons, ih hlike, hmem, List.exists_mem_cons_iff, or_assoc]

theorem framesFound : FramesFound := by
  have hfound (s : State) (i c : Nat) (priv : Bool) (lo hi : Nat) (f : Nat × Nat) :
      f ∈ (framesIn s i c priv lo hi).2 ↔ ∃ p ∈ leavesIn s i c lo hi, Cleaned s i c priv p f := by
    rw [framesIn_eq, mem_frameFold _ (vctLike_refl i s)]
    simp
  refine ⟨hfound, fun s i c priv lo hi va l hlo hhi htop htrans hclean => (hfound ..).2 ?_⟩
  cases hwalk : (walk s i c va).1 with
  | page st lvl =>
    rw [hwalk] at htrans
    cases htrans
  | leaf e a lvl =>
    obtain ⟨p, hp, hend⟩ := leaf_in_range hlo hhi htop hwalk
    rw [hwalk, transOf] at htrans
    split at htrans
    · cases htrans
    · cases htrans
    next hrefuse =>
      cases htrans
      refine ⟨p, hp, locOf c p.1 e a, ?_, rfl, hclean⟩
      rw [hend, transOf, hrefuse]

/-! ## What an accepted instruction leaves (R262) -/

theorem leBytes_getElem (x n k : Nat) (h : k < (leBytes x n).length) : (leBytes x n)[k] = BitVec.ofNat 8 (x / 256 ^ k) := by
  induction n generalizing x k with
  | zero => simp [leBytes] at h
  | succ n ih =>
    cases k with
    | zero => simp [leBytes]
    | succ k =>
      have hk : k < (leBytes (x / 256) n).length := by simpa [leBytes] using h
      have hrest : (leBytes x (n + 1))[k + 1] = (leBytes (x / 256) n)[k] := by simp only [leBytes, List.getElem_cons_succ]
      rw [hrest, ih _ _ hk, Nat.div_div_eq_div_mul, ← Nat.pow_succ']

theorem memGet_putNat_inside (m : Memory) (a x : Nat) {n k : Nat} (h : k < n) :
    memGet (memPutNat m a x n) (a + k) = BitVec.ofNat 8 (x / 256 ^ k) := by
  have hlen : k < (leBytes x n).length := by rwa [leBytes_length]
  rw [memPutNat, memGet_put_inside m a _ k hlen, leBytes_getElem]

theorem memGet_of_memNat (m : Memory) (a : Nat) {n k : Nat} (h : k < n) :
    memGet m (a + k) = BitVec.ofNat 8 (memNat m a n / 256 ^ k) := by
  have hlen : k < (memBytes m a n).length := by rwa [memBytes_length]
  have hbytes := leBytes_leNat (memBytes m a n)
  rw [← memBytes_getElem m a n k hlen, ← leBytes_getElem (memNat m a n) (memBytes m a n).length k (by rwa [leBytes_length])]
  exact List.getElem_of_eq hbytes.symm _

/-- A number of 512 bits with bits 95 to 64 replaced. -/
theorem putBits_state {x v : Nat} (hx : x < 256 ^ 64) (hv : v < 2 ^ 32) :
    putBits x 95 64 v < 256 ^ 64 ∧ putBits x 95 64 v / 2 ^ 93 % 8 = v / 2 ^ 29
    ∧ putBits x 95 64 v % 2 ^ 64 = x % 2 ^ 64 ∧ putBits x 95 64 v / 2 ^ 96 = x / 2 ^ 96 := by
  have hshape : x = x % 2 ^ 64 + x / 2 ^ 64 % 2 ^ 32 * 2 ^ 64 + x / 2 ^ 96 * 2 ^ 96 := by omega
  rw [putBits, bits, Nat.mod_eq_of_lt (show v < 2 ^ (95 + 1 - 64) from hv)]
  norm_num at *
  omega

theorem byte_below {x y k : Nat} (h : x % 2 ^ 64 = y % 2 ^ 64) (hk : k < 8) : BitVec.ofNat 8 (x / 256 ^ k) = BitVec.ofNat 8 (y / 256 ^ k) := by
  refine BitVec.eq_of_toNat_eq ?_
  rw [BitVec.toNat_ofNat, BitVec.toNat_ofNat]
  interval_cases k <;> norm_num at * <;> omega

theorem byte_above {x y k : Nat} (h : x / 2 ^ 96 = y / 2 ^ 96) (hk : 12 ≤ k) : x / 256 ^ k = y / 256 ^ k := by
  have hpow : 256 ^ k = 2 ^ 96 * 256 ^ (k - 12) := by
    rw [show (2 : Nat) ^ 96 = 256 ^ 12 by norm_num, ← Nat.pow_add, Nat.add_sub_cancel' hk]
  rw [hpow, ← Nat.div_div_eq_div_mul, ← Nat.div_div_eq_div_mul, h]

/-- The word of STATE, SHRUNK and PSN that writeState writes. -/
def stateWord (v : Vc) : Nat := (vcCode v.state * 4 + (if v.shrunk then 2 else 0) + (if v.psn then 1 else 0)) * 2 ^ 27

theorem stateWord_spec (v : Vc) : stateWord v < 2 ^ 32 ∧ stateWord v / 2 ^ 29 = vcCode v.state := by
  have h := vcCode_lt v.state
  rw [stateWord]
  split <;> split <;> omega

/-- The bytes of an island with the state of a VC written to its record at an address. -/
def recorded (m : Memory) (a : Nat) (v : Vc) : Memory := memPutNat m a (putBits (memNat m a 64) 95 64 (stateWord v)) 64

/-- The state stands in its place of the record, and every other byte as it was. -/
theorem recorded_spec (m : Memory) (a : Nat) (v : Vc) :
    memNat (recorded m a v) a 64 / 2 ^ 93 % 8 = vcCode v.state
    ∧ ∀ x, x < a + 8 ∨ a + 12 ≤ x → memGet (recorded m a v) x = memGet m x := by
  obtain ⟨hlt, hcode⟩ := stateWord_spec v
  obtain ⟨hfit, hstate, hlow, hhigh⟩ := putBits_state (memNat_lt m a 64) hlt
  refine ⟨?_, fun x hx => ?_⟩
  · rw [recorded, memNat_putNat, Nat.mod_eq_of_lt hfit, hstate, hcode]
  · by_cases hin : a ≤ x ∧ x < a + 64
    · obtain ⟨k, rfl⟩ := Nat.exists_eq_add_of_le hin.1
      have hk : k < 64 := by omega
      rw [recorded, memGet_putNat_inside _ _ _ hk, memGet_of_memNat m a hk]
      by_cases hsmall : k < 8
      · exact byte_below hlow hsmall
      · rw [byte_above hhigh (by omega)]
    · exact memGet_put_outside _ _ _ _ (by rw [leBytes_length]; omega)

/-- A VC of an island changed to v, its accesses offered again, and nothing else but where sectors are said to lie. -/
structure VcChanged (s t : State) (i vn : Nat) (v : Vc) : Prop where
  outside : t = { s with islands := t.islands, groups := s.groups.map fun p => (p.1, wake p.2) }
  present : Present t i
  elsewhere : ∀ j, j ≠ i → islOf t j = islOf s j
  bytes : (islOf t i).mem.bytes = (islOf s i).mem.bytes
  objBase : (islOf t i).mem.objBase = (islOf s i).mem.objBase
  changed : vcOf (islOf t i).mem vn = v
  others : ∀ n, n ≠ vn → vcOf (islOf t i).mem n = vcOf (islOf s i).mem n

theorem mem_modVc {s : State} {i : Nat} (hp : Present s i) (vn : Nat) (f : Vc → Vc) :
    (islOf (modVc s i vn f) i).mem = { (islOf s i).mem with vcs := tblMod (islOf s i).mem.vcs vn f } :=
  memOf_modMem hp fun m => { m with vcs := tblMod m.vcs vn f }

theorem vcChanged_modVc {s : State} {i vn : Nat} (hp : Present s i) (hvn : vn ≠ 0) (f : Vc → Vc) :
    VcChanged s (modVc s i vn f) i vn (f (vcOf (islOf s i).mem vn)) where
  outside := rfl
  present := (present_modIsl ..).trans hp
  elsewhere _ hj := islOf_modIsl_other s _ hj
  bytes := by rw [mem_modVc hp]
  objBase := by rw [mem_modVc hp]
  changed := by rw [mem_modVc hp, vcOf, if_neg hvn, tblMod, tblGet_set_same, vcOf, if_neg hvn]
  others n hn := by rw [mem_modVc hp, vcOf, vcOf, tblMod, tblGet_set_other _ _ hn]

theorem vcChanged_markOld {s t : State} {i vn : Nat} {v : Vc} (h : VcChanged s t i vn v) (o n : List Share) :
    VcChanged s (modMem t i fun m => markOld m vn o n) i vn v := by
  have hmem : (islOf (modMem t i fun m => markOld m vn o n) i).mem = markOld (islOf t i).mem vn o n := memOf_modMem h.present _
  refine ⟨?_, (present_modIsl ..).trans h.present, fun j hj => (islOf_modIsl_other t _ hj).trans (h.elsewhere j hj), ?_, ?_, ?_, ?_⟩
  · have hout : t = _ := h.outside
    rw [hout]
    rfl
  · rw [hmem]
    exact h.bytes
  · rw [hmem]
    exact h.objBase
  · rw [hmem]
    exact h.changed
  · rw [hmem]
    exact h.others

/-- The state of acceptVc before the record is written. -/
theorem acceptVc_changed {s : State} {i : Nat} (hp : Present s i) (op : VcOp) (w : Nat)
    (hvn : cdrVcn (cdrBits s i (w % 2 ^ 16)) ≠ 0) :
    ∃ t, VcChanged s t i (cdrVcn (cdrBits s i (w % 2 ^ 16))) (acceptedVc op s i w)
      ∧ acceptVc s i op (w % 2 ^ 16) (cdrBits s i (w % 2 ^ 16)) (cdrBits s i (deckleRecord op w)) (operandCounter w)
        = writeState t i (cdrVcn (cdrBits s i (w % 2 ^ 16))) := by
  have hcounter : operandCounter w = if w.testBit 48 then some (w / 2 ^ 32 % 2 ^ 16) else none := by
    rw [operandCounter, bit, ← Nat.testBit_eq_decide_div_mod_eq]
    rfl
  cases op with
  | define =>
    have h := vcChanged_modVc hp hvn fun _ =>
      { state := .defined, record := w % 2 ^ 16, spec := cdrSpec (cdrBits s i (w % 2 ^ 16))
        deckle := cdrDeckle (cdrBits s i (deckleRecord .define w))
        claim := deckleBanks (cdrDeckle (cdrBits s i (deckleRecord .define w))), notify := operandCounter w }
    refine ⟨_, ?_, rfl⟩
    rw [acceptedVc]
    dsimp only
    rw [← hcounter]
    exact h
  | resize =>
    have h := vcChanged_modVc hp hvn (beginResize (vcOf (islOf s i).mem (cdrVcn (cdrBits s i (w % 2 ^ 16)))).deckle
      (cdrDeckle (cdrBits s i (deckleRecord .resize w)))
      (banksClaimed .resize (vcOf (islOf s i).mem (cdrVcn (cdrBits s i (w % 2 ^ 16)))) (cdrDeckle (cdrBits s i (deckleRecord .resize w))))
      (cdrDeckle (cdrBits s i (deckleRecord .resize w)) ≠ []) (operandCounter w))
    refine ⟨_, ?_, rfl⟩
    rw [acceptedVc]
    dsimp only
    rw [← hcounter]
    exact vcChanged_markOld h _ _
  | retire =>
    have h := vcChanged_modVc hp hvn fun v => { v with
      state := .draining, notify := operandCounter w, draining := false, before := s.seq }
    refine ⟨_, ?_, rfl⟩
    rw [acceptedVc]
    dsimp only
    rw [← hcounter]
    exact h

theorem cdrVcn_lt (x : Nat) : cdrVcn x < 64 := Nat.mod_lt _ (by decide)

theorem recordBad_vcn {x : Nat} (h : recordBad x = false) : 1 ≤ cdrVcn x ∧ cdrVcn x ≤ 62 := by
  have hlt := cdrVcn_lt x
  simp only [recordBad, Bool.or_eq_false_iff, decide_eq_false_iff_not] at h
  obtain ⟨⟨⟨⟨⟨h0, h63⟩, -⟩, -⟩, -⟩, -⟩ := h
  omega

/-- What an accepted instruction found. -/
theorem accepted_checks {s : State} {i w : Nat} {op : VcOp} (h : (applyVc s i op w).1 = 0) :
    recordBad (cdrBits s i (w % 2 ^ 16)) = false ∧ Admitted (islOf s i) op (cdrVcn (cdrBits s i (w % 2 ^ 16))) (w % 2 ^ 16) := by
  obtain ⟨h3, h1, -⟩ := vcStatus_spec s i op w
  rw [h] at h3 h1
  have hgood := mt h3 (Nat.zero_ne_add_one 2)
  refine ⟨Bool.eq_false_iff.2 fun h => hgood (.inl h), ?_⟩
  by_contra hfit
  exact Nat.zero_ne_one (h1 hgood hfit)

theorem vcAccepted {op : VcOp} {code : Nat} (hcode : ∀ s i w, vcCode (acceptedVc op s i w).state = code)
    (hrecord : ∀ s i w, Admitted (islOf s i) op (cdrVcn (cdrBits s i (w % 2 ^ 16))) (w % 2 ^ 16) →
      (acceptedVc op s i w).record = w % 2 ^ 16) : VcAccepted op code := by
  intro s i w hp hst t vn at_
  obtain ⟨hbad, hfit⟩ := accepted_checks hst
  obtain ⟨hone, h62⟩ := recordBad_vcn hbad
  obtain ⟨u, hu, haccept⟩ := acceptVc_changed hp op w (Nat.one_le_iff_ne_zero.1 hone)
  have ht : t = writeState u i vn := by
    rw [← haccept]
    simp only [t, applyVc, bits_low_half] at hst ⊢
    rw [if_pos hst]
  have hmem : (islOf t i).mem = { (islOf u i).mem with
      bytes := recorded (islOf s i).mem.bytes at_ (acceptedVc op s i w) } := by
    have haddr : at_ = (islOf u i).mem.objBase + 64 * (w % 2 ^ 16) := by
      rw [hu.objBase]
      rfl
    rw [ht, haddr, writeState, hu.changed, hrecord s i w hfit, cdrPut, memOf_modMem hu.present, cdrBits, objAddr, hu.bytes]
    rfl
  obtain ⟨hstate, hbytes⟩ := recorded_spec (islOf s i).mem.bytes at_ (acceptedVc op s i w)
  have hvcs (n : Nat) : vcOf (islOf t i).mem n = vcOf (islOf u i).mem n := by
    rw [vcOf, hmem, vcOf]
  refine ⟨hone, h62, ?_, fun v hv => ?_, ?_, fun isl a ha => ?_, ?_, ?_, ?_⟩
  · rw [hvcs, hu.changed]
  · rw [hvcs, hu.others v hv]
  · have haddr : objAddr t i (w % 2 ^ 16) = at_ := by
      rw [objAddr, hmem]
      exact congrArg (· + 64 * (w % 2 ^ 16)) hu.objBase
    rw [cdrBits, haddr, hmem, ← hcode s i w]
    exact hstate
  · have hhost : t.hostMem = s.hostMem := by
      have hout : u = _ := hu.outside
      rw [ht, hout]
      rfl
    rw [byteAt_eq, byteAt_eq, hhost]
    by_cases hisl : isl = i
    · subst hisl
      rw [hmem]
      split
      · rfl
      · exact hbytes a (ha.resolve_left fun h => h rfl)
    · have hother : islOf t isl = islOf s isl := by
        rw [ht, writeState, cdrPut]
        exact (islOf_modIsl_other u _ hisl).trans (hu.elsewhere isl hisl)
      rw [hother]
  all_goals
    have hout : u = _ := hu.outside
    rw [ht, hout]
    rfl

/-- Settles O43. -/
theorem cacheResults : Obligations.CacheResults := by
  refine ⟨⟨fun st d a => vcRuns (fun _ => rfl) fun _ _ => rfl, fun st d a => vcRuns (fun _ => rfl) fun _ _ => rfl,
    fun st d a => vcRuns (fun _ => rfl) fun _ _ => rfl, vcq_runs, fun st a b c x => cleanRuns (fun _ => rfl) fun _ _ => rfl,
    fun st a b c x => cleanRuns (fun _ => rfl) fun _ _ => rfl⟩, applyVc_refused, vcStatus_spec,
    vcAccepted (fun _ _ _ => rfl) fun _ _ _ _ => rfl, vcAccepted (fun _ _ _ => rfl) fun _ _ _ h => h.2.1,
    vcAccepted (fun _ _ _ => rfl) fun _ _ _ h => h.2, ⟨rfl, rfl, rfl, rfl, rfl, rfl, rfl⟩, vcqFields, framesFound, framesClean⟩

end Sys2Proof.Proofs

/-! PROOFS. What ends a hold, a drain or a wait, and the time-outs (R45, R148, R196 to R199, R217, R233, R310, R322, R387,
R409, R410). -/

namespace Sys2Proof.Proofs

open Sys2Proof Sys2Proof.Machine Sys2Proof.Laws

/-! ## Events of one group -/

/-- An event whose effect touches no memory and no group but its own. -/
theorem firesIn_of_still {i : Instr} {k j : Nat} {cond : State → Prop} {effect : State → State}
    (h : ∀ s, cond s → exec i s = .next (effect s)) (hs : ∀ s, Still s (effect s) (cxAt s k j)) : FiresIn i k cond effect :=
  fun s hc => ⟨h s hc, (hs s).1, (hs s).2⟩

theorem still_released (k j : Nat) (s : State) : Still s (released k j s) (cxAt s k j) := still_modGrp s (cxAt s k j) _

theorem still_answered (k j d v : Nat) (s t : State) : Still t (answered k j d v t) (cxAt s k j) := still_modGrp t (cxAt s k j) _

theorem still_modPort (s : State) (cx : Cx) (i w : Nat) (f : Port → Port) : Still s (modPort s i w f) cx :=
  still_modIsl s cx i (fun x => { x with ports := tblMod x.ports w f }) fun _ => rfl

section
variable {s : State} {k j : Nat}

/-! ## Holds that end -/

theorem exec_sleepExpiry {till : Nat} (h : (fragOf s k j).hold = .sleep till) : exec (.sleepExpiry k j) s
    = if inMode (grpOf s k) (fragOf s k j) then .next (modGrp s k fun g => wake (endHold j { g with clk := max g.clk till }))
      else .next s := by
  show execSleepExpiry k j s = _
  rw [fragOf] at h
  simp only [execSleepExpiry, h, fragOf]
  rfl

theorem exec_waitHoldEnd {w : BitVec 10} {b : Nat} (h : (fragOf s k j).hold = .waitOps w b) : exec (.waitHoldEnd k j) s
    = if waitDone (grpOf s k) w b && inMode (grpOf s k) (fragOf s k j) then .next (released k j s) else .next s := by
  show execWaitHoldEnd k j s = _
  rw [fragOf] at h
  simp only [execWaitHoldEnd, h, fragOf]
  rfl

theorem exec_mfenceHoldEnd {w : BitVec 2} {c : BitVec 3} {b : Nat} (h : (fragOf s k j).hold = .mfence w c b) : exec (.mfenceHoldEnd k j) s
    = if mfenceDone (grpOf s k) w (fragOf s k j).mask b
      then .next (released k j (synchronise s (cxAt s k j) (w ≠ 1) (w ≠ 2) c.toNat)) else .next s := by
  show execMfenceHoldEnd k j s = _
  rw [fragOf] at h
  simp only [execMfenceHoldEnd, h, fragOf]
  rfl

theorem exec_rfenceHoldEnd {b : Nat} (h : (fragOf s k j).hold = .rfence b) : exec (.rfenceHoldEnd k j) s
    = if remotesDone (grpOf s k) b && inMode (grpOf s k) (fragOf s k j) then .next (rfenceEnd s (cxAt s k j)) else .next s := by
  show execRfenceHoldEnd k j s = _
  rw [fragOf] at h
  simp only [execRfenceHoldEnd, h, fragOf]
  rfl

theorem exec_pfenceDrainEnd {w d : Nat} (h : (fragOf s k j).hold = .pfence w d) : exec (.pfenceDrainEnd k j) s
    = if !inMode (grpOf s k) (fragOf s k j) then .next s
      else if (portOf s (grpOf s k).ident.island w).owed = [] then
        .next (answered k j d 0 (modPort s (grpOf s k).ident.island w fun p =>
          if p.state = .fenced then { p with drained := true } else p))
      else if s.panel.ptime ≥ (portOf s (grpOf s k).ident.island w).fencedAt + 100000 then .next (answered k j d 2 s)
      else .next s := by
  show execPfenceDrainEnd k j s = _
  rw [fragOf] at h
  simp only [execPfenceDrainEnd, h, fragOf]
  rfl

theorem exec_barvArrival {key n d b : Nat} (h : (fragOf s k j).hold = .barv key n d b) : exec (.barvArrival k j) s
    = if !accessesDone (grpOf s k) b || !unparked (grpOf s k) then .next s
      else if (barOf s (grpOf s k).ident.team key).state = .idle then
        .next (takeFault (modGrp s k fun g => { g with frags := modNth g.frags j fun f => { f with hold := .none } }) (cxAt s k j)
          { cls := 0x01, status := 3 })
      else .next (barvAct s (cxAt s k j) key n d) := by
  show execBarvArrival k j s = _
  rw [fragOf] at h
  simp only [execBarvArrival, h]
  rfl

theorem waitnLate_iff {c : Nat} {v : DWord} {e : BitVec 2} {next : VAddr} (h : (fragOf s k j).hold = .waitn c v e next) :
    waitnLate s (grpOf s k) (fragOf s k j) = true
      ↔ ofMode s k j ∧ 1000 * (teamOf s (grpOf s k).ident.team).bartime ≤ (fragOf s k j).waited := by
  rw [waitnLate, atWaitn, h]
  simp [ofMode]

theorem exec_waitnTimeout (s : State) (k j : Nat) : exec (.waitnTimeout k j) s
    = if !waitnLate s (grpOf s k) (fragOf s k j) then .next s
      else .next (deliver (setGrp (sampleWaits s (grpOf s k).ident.island 3 (grpOf s k).ident.ctx 1) k
        { grpOf s k with frags := modNth (grpOf s k).frags j fun f => { f with hold := .none, waited := 0 } })
        k (causeWord { cls := 0x16, status := 0x1A } false) (fragOf s k j).pc (fragOf s k j).mask) := rfl

theorem exec_feedTimeout (s : State) (k j : Nat) : exec (.feedTimeout k j) s
    = if feedLate s (grpOf s k) (fragOf s k j) then
        .next (deliver s k (causeWord { cls := 0x1B, status := 4 } false) (fragOf s k j).pc (fragOf s k j).mask)
      else .next s := rfl

theorem feedLate_iff : feedLate s (grpOf s k) (fragOf s k j) = true ↔ (fragOf s k j).waiting = true ∧ ofMode s k j
    ∧ ∃ t, (fragOf s k j).feedSince = some t ∧ t + 1000 * (teamOf s (grpOf s k).ident.team).bartime ≤ s.panel.ptime := by
  simp [feedLate, ofMode, and_assoc, Option.any_eq_true]

end

theorem timerRuns_iff (s : State) (tm key : Nat) (b : Bar) :
    timerRuns s tm key b = true ↔ b.state = .armed ∨ (b.state = .complete ∧ anyWaiter s tm key = true) := by
  simp [timerRuns]

@[simp] theorem memView_restResident (s : State) (i c : Nat) : memView (restResident s i c) = memView s := by
  rw [restResident]
  split <;> simp

/-- A group that ends takes its team with it, but no byte of an island's memory. -/
theorem byteAt_exitGroup (s : State) (k isl a : Nat) : byteAt (exitGroup s k) isl a = byteAt s isl a := by
  have hite {p : Prop} [Decidable p] {t u : State} (ht : byteAt t isl a = byteAt s isl a) (hu : byteAt u isl a = byteAt s isl a) :
      byteAt (if p then t else u) isl a = byteAt s isl a := by
    split <;> assumption
  have hstream : byteAt (match (grpOf (panelRelease s k (fullMask 64)) k).stream with
      | some n => modIsl (panelRelease s k (fullMask 64)) (grpOf s k).ident.island fun x => { x with streams := tblDel x.streams n }
      | none => panelRelease s k (fullMask 64)) isl a = byteAt s isl a := by
    split <;> exact byteAt_of_view (by simp) isl a
  rw [exitGroup]
  dsimp only
  rw [byteAt_of_view (memView_restResident ..), byteAt_of_view (memView_wakeAll _)]
  exact hite hstream hstream

theorem regs_setBar (s : State) (tm key k : Nat) (b : Bar) : (grpOf (setBar s tm key b) k).regs = (grpOf s k).regs := rfl

/-- What a barrier's time-out leaves of its context. -/
theorem endedOn_barFail (s : State) (tm key : Nat) (b : Bar) (status : Nat) :
    EndedOn s (barFail s tm key b status) (teamOf s tm).island (teamOf s tm).ctx := by
  have h := escalated_effects (setBar s tm key b) (teamOf s tm).island (teamOf s tm).ctx
    (wordsOf (snapshotBits (setBar s tm key b) tm key b status))
  exact h

theorem modGrp_present {s : State} {k : Nat} (h : (tblGet? s.groups k).isSome = true) (f : Group → Group) :
    modGrp s k f = setGrp s k (f (grpOf s k)) := by
  obtain ⟨g, hg⟩ := Option.isSome_iff_exists.1 h
  simp only [modGrp, setGrp, tblAdj, grpOf, tblGet, hg, Option.getD_some]

theorem modGrp_modGrp (s : State) (k : Nat) (f e : Group → Group) :
    modGrp (modGrp s k f) k e = modGrp s k fun g => e (f g) := by
  simp only [modGrp, tblAdj]
  cases hg : tblGet? s.groups k with
  | none => simp only [hg]
  | some g => simp only [tblGet?_set_same, tblSet_tblSet]

theorem waitn_cause : causeWord { cls := 0x16, status := 0x1A } false = 0x1A16 := by decide

theorem feed_cause : causeWord { cls := 0x1B, status := 4 } false = 0x041B := by decide

/-! ## The obligation -/

theorem sleep_ends (k j till : Nat) : FiresIn (.sleepExpiry k j) k (fun s => (fragOf s k j).hold = .sleep till ∧ ofMode s k j)
    fun s => modGrp s k fun g => wake (modFrag { g with clk := max g.clk till } j fun f => { f with hold := .none }) :=
  firesIn_of_still (j := j) (fun s h => by rw [exec_sleepExpiry h.1, if_pos (show inMode (grpOf s k) (fragOf s k j) = true from h.2)]; rfl) fun s => still_modGrp s (cxAt s k j) _

theorem rfence_surfaces {k j b : Nat} {s : State} {before after : List HeldFault} {h : HeldFault}
    (hhold : (fragOf s k j).hold = .rfence b) (hdone : remotesDone (grpOf s k) b = true) (hmode : ofMode s k j)
    (hheld : (grpOf s k).held = before ++ h :: after) (hbefore : ∀ x ∈ before, x.remote = false) (hremote : h.remote = true) :
    exec (.rfenceHoldEnd k j) s = .next (deliverReq (modGrp s k fun g =>
        { g with frags := modNth g.frags j fun f => { f with hold := .none } }) k
      { cause := h.cause ||| (1#64 <<< 63), tspc := (fragOf s k j).pc, mask := (fragOf s k j).mask, drop := some h }) := by
  have hfind : ((cxAt s k j).g.held.find? fun h => h.remote) = some h := by
    show ((grpOf s k).held.find? fun h => h.remote) = some h
    rw [hheld, List.find?_append, List.find?_eq_none.mpr fun x hx => by simp [hbefore x hx], List.find?_cons_of_pos hremote]
    rfl
  rw [exec_rfenceHoldEnd hhold, if_pos (by rw [hdone, hmode]; rfl), rfenceEnd, hfind]
  rfl

/-- Settles O47. -/
theorem holdsEnd : Obligations.HoldsEnd := by
  refine ⟨fun k => ?stall, sleep_ends, fun k j s h => ?awake, fun k j w b => ?wait, fun k j w b s h => ?waiting,
    fun k j w c b => ?fence, fun k j w c b s h => ?fencing, fun k j b => ?rfence,
    fun k j b s before h after hhold hdone hmode hin hheld hbefore hremote => ?surfaces, fun k j b s h => ?rfencing,
    fun k j w d => ?drained, fun k j w d => ?drainLate, fun k j w d s h => ?draining, fun k j c v e next => ?waitn, fun k j => ?feed,
    fun k j key n d b => ?barv, fun s cx key n d hg ht => ?arrives, fun tm key s hruns hlate ht => ?timeout, fun tm key s h => ?inTime,
    timerRuns_iff, fun k pc m s hdrain hdone hnone => ?exit, fun k pc m s h => ?exiting, fun k r entry s hreq hpc hb => ?enter,
    fun k s h => ?blocked⟩
  case stall => exact firesIn_of_still (j := 0) (fun _ _ => rfl) fun s => still_modGrp s (cxAt s k 0) _
  case awake =>
    rcases h with h | h
    · show execSleepExpiry k j s = _
      rw [execSleepExpiry]
      split
      next till hhold => exact absurd hhold (h till)
      next => rfl
    · show execSleepExpiry k j s = _
      rw [execSleepExpiry]
      split
      · exact if_neg h
      · rfl
  case wait =>
    refine firesIn_of_still (j := j) (fun s h => ?_) fun s => still_released k j s
    obtain ⟨hhold, hdone, hmode⟩ := h
    rw [exec_waitHoldEnd hhold, if_pos (by rw [hdone, hmode]; rfl)]
  case waiting =>
    obtain ⟨hhold, h⟩ := h
    rw [exec_waitHoldEnd hhold, if_neg]
    rw [Bool.and_eq_true, not_and_or, Bool.not_eq_true]
    exact h
  case fence =>
    refine firesIn_of_still (j := j) (fun s h => ?_) fun s => still_trans (still_synchronise ..) (still_released ..)
    rw [exec_mfenceHoldEnd h.1, if_pos h.2]
  case fencing => rw [exec_mfenceHoldEnd h.1, if_neg (ne_true_of_eq_false h.2)]
  case rfence =>
    refine firesIn_of_still (j := j) (fun s h => ?_) fun s => still_modGrp s (cxAt s k j) _
    obtain ⟨hhold, hdone, hmode, hnone⟩ := h
    have hfind : ((cxAt s k j).g.held.find? fun h => h.remote) = none :=
      List.find?_eq_none.mpr fun x hx => by simpa using List.all_eq_true.mp hnone x hx
    rw [exec_rfenceHoldEnd hhold, if_pos (by rw [hdone, hmode]; rfl), rfenceEnd, hfind]
    exact congrArg Host.Outcome.next (modGrp_modGrp ..)
  case surfaces =>
    rw [rfence_surfaces hhold hdone hmode hheld hbefore hremote, modGrp_present hin]
  case rfencing =>
    obtain ⟨hhold, h⟩ := h
    rw [exec_rfenceHoldEnd hhold, if_neg]
    rw [Bool.and_eq_true, not_and_or, Bool.not_eq_true]
    exact h
  case drained =>
    refine firesIn_of_still (j := j) (fun s h => ?_) fun s =>
      still_trans (still_modPort s (cxAt s k j) _ w _) (still_answered k j d 0 s _)
    obtain ⟨hhold, hmode, howed⟩ := h
    rw [exec_pfenceDrainEnd hhold, if_neg (by rw [hmode]; decide), if_pos howed]
  case drainLate =>
    refine firesIn_of_still (j := j) (fun s h => ?_) fun s => still_answered k j d 2 s s
    obtain ⟨hhold, hmode, howed, hlate⟩ := h
    rw [exec_pfenceDrainEnd hhold, if_neg (by rw [hmode]; decide), if_neg howed, if_pos hlate]
  case draining =>
    obtain ⟨hhold, h⟩ := h
    rw [exec_pfenceDrainEnd hhold]
    split
    · rfl
    next hmode =>
      rw [Bool.not_eq_true', Bool.not_eq_false] at hmode
      obtain ⟨howed, hlate⟩ := h.resolve_left (not_not_intro hmode)
      rw [if_neg howed, if_neg (Nat.not_le.2 hlate)]
  case waitn =>
    intro late
    refine ⟨fun s ⟨hhold, hmode, hlate⟩ => ?_, fun s ⟨hhold, h⟩ => ?_⟩
    · rw [exec_waitnTimeout, waitn_cause, if_neg]
      rw [Bool.not_eq_true', Bool.not_eq_false]
      exact (waitnLate_iff hhold).2 ⟨hmode, hlate⟩
    · rw [exec_waitnTimeout, if_pos]
      rw [Bool.not_eq_true', Bool.eq_false_iff]
      exact (waitnLate_iff hhold).not.2 (not_and_or.2 h)
  case feed =>
    intro late
    refine ⟨fun s ⟨hwaits, hmode, hlate⟩ => ?_, fun s h => ?_⟩
    · rw [exec_feedTimeout, feed_cause, if_pos (feedLate_iff.2 ⟨hwaits, hmode, hlate⟩)]
    · rw [exec_feedTimeout, if_neg (feedLate_iff.not.2 ?_)]
      rw [not_and_or, not_and_or, Bool.not_eq_true]
      exact h
  case barv =>
    intro due
    have hdue {s : State} (hhold : (fragOf s k j).hold = .barv key n d b) :
        (!accessesDone (grpOf s k) b || !unparked (grpOf s k)) = true ↔ ¬ due s := by
      have hall : unparked (grpOf s k) = true ↔ ∀ f ∈ (grpOf s k).frags, f.parked = none := unparked_iff
      simp only [due, hhold, true_and, ← hall]
      cases accessesDone (grpOf s k) b <;> cases unparked (grpOf s k) <;> decide
    refine ⟨fun s ⟨h, hidle⟩ => ?_, fun s ⟨h, hidle⟩ => ?_, fun s ⟨hhold, h⟩ => ?_⟩
    · rw [exec_barvArrival h.1, if_neg ((hdue h.1).not.2 (not_not_intro h)), if_neg hidle]
    · rw [exec_barvArrival h.1, if_neg ((hdue h.1).not.2 (not_not_intro h)), if_pos hidle]
    · rw [exec_barvArrival hhold, if_pos ((hdue hhold).2 h)]
  case arrives =>
    intro b _ h t
    obtain ⟨u, rel, heq, hteams, -, hregs, -⟩ := barvAct_below (s := s) (cx := cx) (key := key) (d := d) ht h
    have ht' : t = _ := heq
    have hin : TeamIn u cx.g.ident.team := by
      rw [TeamIn, hteams]
      exact ht
    rw [ht', barOf_setBar_same _ _ hin]
    refine ⟨?_, ?_⟩
    · rw [BarIs, rearm, rearm]
      split <;> rfl
    · rw [regs_setBar, hregs, modGrp_present hg, grpOf_setGrp_same]
      rfl
  case timeout =>
    refine ⟨_, (if_pos ?_ : execBarrierTimeout tm key s = _), endedOn_barFail .., rfl⟩
    simp only [timerLate, hruns, hlate, decide_true, Bool.and_self]
  case inTime =>
    refine (if_neg ?_ : execBarrierTimeout tm key s = _)
    simp only [timerLate, Bool.and_eq_true, decide_eq_true_eq, not_and_or, Bool.not_eq_true, Nat.not_le]
    exact h
  case exit =>
    refine ⟨exitGroup s k, ?_, exitGroup_gone s k, byteAt_exitGroup s k⟩
    show execExitDrainEnd k s = _
    simp only [execExitDrainEnd, hdrain, hdone, if_true, drainEnd, hnone]
  case exiting =>
    show execExitDrainEnd k s = _
    simp only [execExitDrainEnd, h.1, h.2, Bool.false_eq_true, if_false]
  case enter =>
    have hstep : exec (.trapEntry k) s = .next (setGrp s k (enterHandler (grpOf s k) r entry)) := by
      show execTrapEntry k s = _
      simp only [execTrapEntry, hreq, hpc, hb, Bool.false_eq_true, if_false]
    have hstill : Still s (setGrp s k (enterHandler (grpOf s k) r entry)) (cxAt s k 0) := still_withGroup s (cxAt s k 0) _
    refine ⟨_, hstep, hstill.1, ?_⟩
    rw [grpOf_setGrp_same]
    refine ⟨rfl, rfl, rfl, rfl, rfl, fun hdrop => ?_, rfl, hstill.2⟩
    show (match r.drop with
      | some h => dropFirst h (grpOf s k).held
      | none => (grpOf s k).held) = _
    rw [hdrop]
  case blocked =>
    show execTrapEntry k s = _
    rw [execTrapEntry]
    split
    next hreq hpc =>
      rw [if_pos (h.resolve_left (by rw [hreq]; exact Option.some_ne_none _))]
    next => rfl

end Sys2Proof.Proofs

/-! PROOFS. The commands of the queues (O53). -/

namespace Sys2Proof.Proofs

open Sys2Proof Sys2Proof.Machine Sys2Proof.Laws

/-! ## O53: the commands of QCTL and QTAIL -/

@[simp] theorem queueOf_dropWait (s : State) (n k : Nat) : queueOf (dropWait s n) k = queueOf s k := rfl

/-- A queue failure, where the queue's state lets it fail. -/
theorem failQueue_of_mayFail {s : State} {n : Nat} (h : mayFail (queueOf s n) = true) (idx : Word) (status fisl : Nat)
    (isPacket : Bool) : failQueue s n idx status fisl isPacket = modQueue (dropWait s n) n fun q => { q with
      state := .error, status := status, fisl := fisl, failIdx := idx, failPacket := isPacket, next := none } := by
  rw [failQueue, if_pos h]

/-- A queue put to rest: Enabled or Running by what it holds, where it was one of the two. -/
theorem restQueue_state (q : Queue) : (restQueue q).state = if q.state = .enabled ∨ q.state = .running then
    (if q.head = q.tail then .enabled else .running) else q.state := by
  rw [restQueue]
  by_cases h : q.state = .enabled ∨ q.state = .running
  · rw [if_pos h, if_pos (by simpa using h)]
  · rw [if_neg h, if_neg (by simpa using h)]

/-- DRAIN leaves a queue Disabled where nothing it started still runs, and else Draining. -/
theorem drain_effect (s : State) (n : Nat) :
    ∃ t, drainCheck (modQueue (dropWait s n) n fun q => { q with state := .draining, next := none }) n = t ∧ PanelOnly s t
      ∧ (queueOf t n).state = (if startedOf s n = [] then .disabled else .draining)
      ∧ (queueOf t n).next = none ∧ (queueOf t n).head = (queueOf s n).head ∧ tblGet? t.panel.waits n = none := by
  refine ⟨_, rfl, ?_⟩
  have hst : ∀ f, startedOf (modQueue (dropWait s n) n f) n = startedOf s n := fun _ => rfl
  rw [drainCheck, hst, queueOf_modQueue]
  by_cases h : startedOf s n = []
  · rw [if_pos (by simpa using h), if_pos h, queueOf_modQueue, queueOf_modQueue]
    exact ⟨rfl, rfl, rfl, rfl, tblGet?_del_same _ _⟩
  · rw [if_neg (by simpa using h), if_neg h, queueOf_modQueue]
    exact ⟨rfl, rfl, rfl, rfl, tblGet?_del_same _ _⟩

/-- A destroyed queue's number is free, and its started packets belong to none. -/
def destroyed (s : State) (n : Nat) : State :=
  { s with panel := { s.panel with
    queues := tblSet s.panel.queues n { base := (queueOf s n).base, cfg := (queueOf s n).cfg }
    started := s.panel.started.map fun p => if p.2.queue = n then (p.1, { p.2 with queue := 1024 }) else p } }

theorem registersExposed_iff (s : State) :
    registersExposed s = true ↔ s.panel.phase ≠ 0 ∧ ¬(s.panel.phase = 0xFF ∧ s.panel.error = 1) := by
  simp [registersExposed, imp_iff_not_or]

theorem queue_created {n : Nat} {b : DWord} {c : DWord} {s : State} (h : n < 1024 ∧ (queueOf s n).state = .none ∧ registersExposed s = true) :
    exec (.create n b c) s = .next (modQueue s n fun _ => if descriptorBad s b.toNat c then
      { state := .error, status := 1, base := b.toNat, cfg := c } else { state := .created, base := b.toNat, cfg := c }) := by
  obtain ⟨hn, hst, hx⟩ := h
  show execCreate n b c s = _
  rw [execCreate, if_neg (by simp [hst, hx]; omega)]

/-- Settles O53: each command is one change of its queue, under the test that its entry names. -/
theorem queueCommandResults : Obligations.QueueCommandResults := by
  unfold Obligations.QueueCommandResults
  refine ⟨registersExposed_iff, ?_, ?_, ?_, ?_, ?_, ?_, ?_, ?_, ?_, ?_, ?_, ?_, ?_, ?_⟩
  · rintro n b c s ⟨hn, hst, hx, hd⟩
    rw [queue_created ⟨hn, hst, hx⟩, hd]
    rfl
  · rintro n b c s ⟨hn, hst, hx, hd⟩
    rw [queue_created ⟨hn, hst, hx⟩, hd]
    rfl
  · intro n b c s h
    show execCreate n b c s = _
    rw [execCreate, if_pos (by simpa [or_assoc] using h)]
  · rintro n s ⟨hst, hx⟩
    show execEnable n s = _
    rw [execEnable]
    rw [if_pos (by simpa [hx] using hst)]
    simp [restQueue]
  · intro n s h
    show execEnable n s = _
    rw [execEnable]
    rw [if_neg (by rcases h with ⟨h1, h2⟩ | h <;> simp [*])]
  · intro n s hst hx
    obtain ⟨t, ht, hrest⟩ := drain_effect s n
    refine ⟨t, ?_, hrest⟩
    show execDrain n s = _
    rw [execDrain]
    rw [if_pos (by simpa [hx, or_assoc] using hst), ht]
  · intro n s h
    show execDrain n s = _
    rw [execDrain]
    rw [if_neg (by rcases h with ⟨h1, h2, h3⟩ | h <;> simp [*])]
  · rintro n s ⟨hst, hx⟩
    show execReset n s = _
    rw [execReset, if_pos (by simp [hst, hx])]
  · intro n s h
    show execReset n s = _
    rw [execReset, if_neg (by rcases h with h | h <;> simp [h])]
  · intro n s hst hx
    refine ⟨destroyed s n, ?_, rfl, tblGet?_set_same _ _ _, fun p hp hn => ?_⟩
    · show execDestroy n s = _
      rw [execDestroy, if_pos (by simpa [hx] using hst), destroyed]
    · obtain ⟨q, -, rfl⟩ := List.mem_map.mp hp
      split
      · exact (show (1024 : Nat) ≠ n by omega)
      · assumption
  · intro n s h
    show execDestroy n s = _
    rw [execDestroy]
    rw [if_neg (by rcases h with ⟨h1, h2⟩ | h <;> simp [*])]
  · intro n v s h
    show execQtailWrite n v s = _
    rw [execQtailWrite]
    rcases h with h | h | h | ⟨htl, hmf⟩
    · rw [if_pos (by simp [h])]
    · rw [if_pos (by simp [h])]
    · rw [if_pos (by simp [h])]
    · split
      · rfl
      · rw [if_neg (by simp [htl]), failQueue]
        rw [if_neg (by simp [hmf])]
  · intro n v s hst hd hx htl
    refine ⟨modQueue s n fun q => restQueue { q with tail := v }, ?_, ?_⟩
    · show execQtailWrite n v s = _
      rw [execQtailWrite]
      rw [if_neg (by simp [hst, hd, hx]), if_pos htl]
    · rw [queueOf_modQueue]
      exact ⟨rfl, (restQueue_keeps _).1, (restQueue_keeps _).2, restQueue_state _⟩
  · intro n v s hmf hd hx htl
    refine ⟨failQueue s n (queueOf s n).head 2 0 false, ?_, ?_⟩
    · show execQtailWrite n v s = _
      rw [execQtailWrite]
      rw [if_neg (by simp [hd, hx]; intro h; simp [mayFail, h] at hmf), if_neg (by simp [htl])]
    · rw [failQueue_of_mayFail hmf, queueOf_modQueue]
      exact ⟨rfl, rfl, rfl, rfl⟩

end Sys2Proof.Proofs

/-! PROOFS. Command packets (O54). -/

namespace Sys2Proof.Proofs

open Sys2Proof Sys2Proof.Machine Sys2Proof.Laws

/-! ## What leaves the panel as it is -/

/-- The panel's state and the sequence numbers have not changed. -/
def SamePanel (s t : State) : Prop := t.panel = s.panel ∧ t.seq = s.seq

theorem samePanel_refl (s : State) : SamePanel s s := ⟨rfl, rfl⟩

theorem samePanel_trans {s t u : State} (a : SamePanel s t) (b : SamePanel t u) : SamePanel s u :=
  ⟨b.1.trans a.1, b.2.trans a.2⟩

theorem OwnMem.samePanel {i : Nat} {s t : State} (h : OwnMem i s t) : SamePanel s t := by
  constructor <;> rw [h.outside]

theorem samePanel_foldl {α : Type} {f : State → α → State} (h : ∀ s x, SamePanel s (f s x)) (l : List α) (s : State) :
    SamePanel s (l.foldl f s) := by
  induction l generalizing s with
  | nil => exact samePanel_refl s
  | cons x l ih => exact samePanel_trans (h s x) (ih _)

/-! ## The processor's accesses -/

theorem samePanel_cpPlace (s : State) (i c va : Nat) (acc : Acc) : SamePanel s (cpPlace s i c va acc).1 := by
  simp only [cpPlace]
  have htr : SamePanel s (Machine.translate s i c (ctxOf s i c).priv va acc 0).1 := (ownMem_walkHeld s i c va acc (ctxOf s i c).priv 0).samePanel
  have hvc := fun x => (ownMem_vctEntry (Machine.translate s i c (ctxOf s i c).priv va acc 0).1 i c x 0).samePanel
  split
  · exact samePanel_refl s
  · split
    · exact htr
    · exact htr
    · split <;> exact samePanel_trans htr (hvc ..)

theorem samePanel_cpTouch (s : State) (i vn p : Nat) (act : HomeAct) : SamePanel s (cpTouch s i vn p act) := ⟨rfl, rfl⟩

theorem samePanel_noteTraffic (s : State) (i c : Nat) : SamePanel s (noteTraffic s i c) := ⟨rfl, rfl⟩

theorem samePanel_cpReadSpan (s : State) (i c : Nat) (sp : Nat × Nat) : SamePanel s (cpReadSpan s i c sp).1 := by
  have hpl := samePanel_cpPlace s i c sp.1 .read
  simp only [cpReadSpan]
  split
  · exact hpl
  · exact hpl
  · split
    · exact hpl
    · exact samePanel_trans hpl ⟨rfl, rfl⟩

theorem samePanel_cpReadAll (i c : Nat) (s : State) (l : List (Nat × Nat)) : SamePanel s (cpReadAll i c s l).1 := by
  induction l generalizing s with
  | nil => exact samePanel_refl s
  | cons sp l ih =>
    have hsp := samePanel_cpReadSpan s i c sp
    simp only [cpReadAll]
    split
    · split <;> exact samePanel_trans hsp (ih _)
    · exact hsp

theorem samePanel_cpRead (s : State) (i c va n : Nat) : SamePanel s (cpRead s i c va n).1 := samePanel_cpReadAll ..

theorem samePanel_cpStoreAt (s : State) (i : Nat) (l : Loc) (vn : Nat) (bs : List Byte) :
    SamePanel s (cpStoreAt s i l vn bs) :=
  samePanel_trans (ownMem_setDirty s i l.phys l.dirtyAt).samePanel
    (samePanel_trans (ownMem_physPut _ i l.phys bs).samePanel (samePanel_cpTouch ..))

theorem samePanel_cpWriteAll (i c : Nat) (s : State) (l : List (Nat × Nat)) (bs : List Byte) :
    SamePanel s (cpWriteAll i c s l bs).1 := by
  induction l generalizing s bs with
  | nil => exact samePanel_refl s
  | cons sp l ih =>
    have hpl := samePanel_cpPlace s i c sp.1 .write
    simp only [cpWriteAll]
    split
    · exact hpl
    · exact hpl
    · exact samePanel_trans hpl (samePanel_trans (samePanel_cpStoreAt ..)
        (samePanel_trans (samePanel_noteTraffic ..) (ih _ _)))

theorem samePanel_cpWrite (s : State) (i c va : Nat) (bs : List Byte) : SamePanel s (cpWrite s i c va bs).1 :=
  samePanel_cpWriteAll ..

theorem samePanel_sideRead (s : State) (c : Nat) (fabric : Bool) (a n : Nat) : SamePanel s (sideRead s c fabric a n).1 := by
  simp only [sideRead]
  split
  · split <;> exact samePanel_refl s
  · split
    · exact samePanel_refl s
    · exact samePanel_cpRead ..

theorem samePanel_sideWrite (s : State) (c : Nat) (fabric : Bool) (a : Nat) (bs : List Byte) :
    SamePanel s (sideWrite s c fabric a bs).1 := by
  simp only [sideWrite]
  split
  · split
    · exact samePanel_refl s
    · exact (ownMem_physPut ..).samePanel
  · split
    · exact samePanel_refl s
    · exact samePanel_cpWrite ..

theorem samePanel_launchHeaders (c kaddr : Nat) (s : State) (l : List Nat) : SamePanel s (launchHeaders c kaddr s l).1 := by
  induction l generalizing s with
  | nil => exact samePanel_refl s
  | cons i l ih =>
    have hr := samePanel_cpRead s i c kaddr 256
    simp only [launchHeaders]
    split
    · exact hr
    · exact hr
    · exact samePanel_trans hr (ih _)

theorem samePanel_checkPages (i c vcx : Nat) (s : State) (l : List Nat) : SamePanel s (checkPages i c vcx s l).1 := by
  induction l generalizing s with
  | nil => exact samePanel_refl s
  | cons va l ih =>
    have hr := samePanel_cpPlace s i c va .write
    simp only [checkPages]
    split
    · exact hr
    · exact hr
    · split
      · exact hr
      · exact samePanel_trans hr (ih _)

theorem samePanel_checkAllPages (c va n : Nat) (s : State) (l : List (Nat × List Byte)) :
    SamePanel s (checkAllPages c va n s l).1 := by
  induction l generalizing s with
  | nil => exact samePanel_refl s
  | cons h l ih =>
    have hr := samePanel_checkPages h.1 c (bits (hdrWord h.2 0x20) 37 32) s (argPages va n)
    simp only [checkAllPages]
    split
    · exact samePanel_trans hr (ih _)
    · exact hr

theorem samePanel_applyVc (s : State) (i : Nat) (op : VcOp) (w : Nat) : SamePanel s (applyVc s i op w).2 := by
  simp only [applyVc, acceptVc]
  split
  · cases op <;> exact ⟨rfl, rfl⟩
  · exact samePanel_refl s

/-! ## Counters -/

/-- Memory, the panel and every counter are as they were. -/
def CounterStill (s t : State) : Prop := memView t = memView s ∧ SamePanel s t ∧ ∀ j m, ctrOf t j m = ctrOf s j m

theorem counterStill_refl (s : State) : CounterStill s s := ⟨rfl, samePanel_refl s, fun _ _ => rfl⟩

theorem counterStill_trans {s t u : State} (a : CounterStill s t) (b : CounterStill t u) : CounterStill s u :=
  ⟨b.1.trans a.1, samePanel_trans a.2.1 b.2.1, fun j m => (b.2.2 j m).trans (a.2.2 j m)⟩

theorem counterStill_foldl {α : Type} {f : State → α → State} (h : ∀ s x, CounterStill s (f s x)) (l : List α) (s : State) :
    CounterStill s (l.foldl f s) := by
  induction l generalizing s with
  | nil => exact counterStill_refl s
  | cons x l ih => exact counterStill_trans (h s x) (ih _)

theorem ctrOf_modIsl {f : Island → Island} (h : ∀ x, (f x).ncs = x.ncs) (s : State) (i j m : Nat) :
    ctrOf (modIsl s i f) j m = ctrOf s j m :=
  islOf_modIsl_keeps (g := fun x => tblGet x.ncs m) (f := f) (fun x => by rw [h]) s i j

theorem counterStill_sampleCtx (s : State) (i src c v : Nat) : CounterStill s (sampleCtx s i src c v) := by
  refine ⟨memView_sampleCtx .., ?_⟩
  rw [sampleCtx]
  split
  · exact ⟨⟨rfl, rfl⟩, fun j m => ctrOf_modIsl (f := fun x => { x with monitors := sampleOwned x.monitors src c v }) (fun _ => rfl) s i j m⟩
  · exact ⟨samePanel_refl s, fun _ _ => rfl⟩

theorem counterStill_sampleWaits (n : Nat) (s : State) (i src c : Nat) : CounterStill s (sampleWaits s i src c n) := by
  induction n generalizing s with
  | zero => exact counterStill_refl s
  | succ n ih => exact counterStill_trans (counterStill_sampleCtx ..) (ih _)

theorem counterStill_acquireL1 (s : State) (id : Ident) : CounterStill s (acquireL1 s id) :=
  ⟨memView_acquireL1 s id, ⟨rfl, rfl⟩, fun j m => islOf_modMem_keeps (g := fun x => tblGet x.ncs m) (fun _ _ => rfl) s _ j _⟩

/-- A counter has taken a value; every other counter, memory and all of the panel but the waits is as it was. -/
structure CounterSet (s t : State) (i k : Nat) (x : DWord) : Prop where
  view : memView t = memView s
  seq : t.seq = s.seq
  panel : t.panel = { s.panel with waits := t.panel.waits }
  waits : ∀ n, tblGet? s.panel.waits n = none → tblGet? t.panel.waits n = none
  same : Present s i → ctrOf t i k = x
  other : ∀ j m, (j ≠ i ∨ m ≠ k) → ctrOf t j m = ctrOf s j m

theorem ctrOf_set_other (s : State) {i j k m : Nat} (x : DWord) (h : j ≠ i ∨ m ≠ k) :
    ctrOf (modIsl s i fun y => { y with ncs := tblSet y.ncs k x }) j m = ctrOf s j m := by
  by_cases hm : m = k
  · rw [ctrOf, islOf_modIsl_other s _ (h.resolve_right (not_not_intro hm)), ctrOf]
  · exact islOf_modIsl_keeps (g := fun y => tblGet y.ncs m) (f := fun y => { y with ncs := tblSet y.ncs k x })
      (fun y => tblGet_set_other _ _ hm) s i j

/-- What the waiters of a counter that takes a value are to their cores' L1 and to their monitors. -/
def ctrSeen (i n : Nat) (x : DWord) (s : State) (p : Nat × Group) : State :=
  if p.2.ident.island = i && p.2.frags.any (ctrReleases n x) then
    sampleWaits (acquireL1 s p.2.ident) i 3 p.2.ident.ctx (p.2.frags.filter (ctrReleases n x)).length
  else s

theorem counterStill_ctrSeen (i n : Nat) (x : DWord) (s : State) (p : Nat × Group) : CounterStill s (ctrSeen i n x s p) := by
  rw [ctrSeen]
  split
  · exact counterStill_trans (counterStill_acquireL1 ..) (counterStill_sampleWaits ..)
  · exact counterStill_refl s

/-- The counter's cell has the value. -/
def ctrPut (s : State) (i k : Nat) (x : DWord) : State := modIsl s i fun y => { y with ncs := tblSet y.ncs k x }

theorem ctrSet_eq (s : State) (i n : Nat) (x : DWord) : ctrSet s i n x =
    let u := (ctrPut s i (n % 65536) x).groups.foldl (ctrSeen i (n % 65536) x) (ctrPut s i (n % 65536) x)
    { u with
      groups := u.groups.map fun p => if p.2.ident.island = i then
        (p.1, ctrWake (n % 65536) x (ctrClock u i (n % 65536)) u.tick p.2) else p
      panel := { u.panel with waits := u.panel.waits.map fun p => (p.1, waitSees i (n % 65536) x p.2) } } := rfl

theorem counterSet_ctrSet (s : State) (i n : Nat) (x : DWord) : CounterSet s (ctrSet s i n x) i (n % 65536) x := by
  have hstill := counterStill_foldl (counterStill_ctrSeen i (n % 65536) x) (ctrPut s i (n % 65536) x).groups
    (ctrPut s i (n % 65536) x)
  rw [ctrSet_eq]
  generalize (ctrPut s i (n % 65536) x).groups.foldl (ctrSeen i (n % 65536) x) (ctrPut s i (n % 65536) x) = u at hstill
  obtain ⟨hview, ⟨hpanel, hseq⟩, hctr⟩ := hstill
  have hpanel' : u.panel = s.panel := hpanel
  exact {
    view := hview.trans (memView_modIsl (f := fun y => { y with ncs := tblSet y.ncs (n % 65536) x }) (fun _ => rfl) s i)
    seq := hseq
    panel := by
      dsimp only
      rw [hpanel']
    waits := fun k hk => by
      refine (tblGet?_map _ _ k).trans ?_
      rw [hpanel', hk]
      rfl
    same := fun hp => (hctr i (n % 65536)).trans (by
      rw [ctrOf, ctrPut, islOf_modIsl_same s i _ hp]
      exact tblGet_set_same ..)
    other := fun j m h => (hctr j m).trans (ctrOf_set_other s x h) }

/-- A counter gains k: what the increment leaves. -/
theorem counterSet_ctrAdd (s : State) (i n : Nat) (k : DWord) :
    CounterSet s (ctrAdd s i n k) i (n % 65536) (ctrOf s i (n % 65536) + k) := by
  let joined := fun x : Island => { x with ncClk := tblMod x.ncClk (n % 65536) fun c => joinClock c s.panel.clk }
  have hctr : ∀ j m, ctrOf (modIsl s i joined) j m = ctrOf s j m := ctrOf_modIsl (f := joined) (fun _ => rfl) s i
  rw [ctrAdd]
  split
  · exact counterSet_ctrSet ..
  · have hset := counterSet_ctrSet (modIsl s i joined) i n (ctrOf (modIsl s i joined) i (n % 65536) + k)
    rw [← hctr i]
    exact {
      view := hset.view.trans (memView_modIsl (f := joined) (fun _ => rfl) s i)
      seq := hset.seq
      panel := hset.panel
      waits := hset.waits
      same := fun hp => hset.same ((present_modIsl ..).trans hp)
      other := fun j m h => (hset.other j m h).trans (hctr j m) }

/-! ## A packet's start, its failure and its end -/

theorem nextOfType_of_nextIs {s : State} {n ty : Nat} {ws : List Nat} (h : NextIs s n ty ws) : nextOfType s n ty = some ws := by
  obtain ⟨hq, -, hty, ds, hds, hws⟩ := h
  simp only [nextOfType, if_pos hq, hds, hws, hty, if_pos]

theorem nextOfType_of_not_chosen {s : State} {n ty : Nat} (h : chooseQueue s ≠ some n) : nextOfType s n ty = none := by
  rw [nextOfType, if_neg h]

/-- The packet that starts on a queue, as it is kept while it runs. -/
def begun (s : State) (n : Nat) (ws grids : List Nat) : QueuePacket :=
  { queue := n, index := (queueOf s n).head, words := ws.map (BitVec.ofNat 64), ctx := qCtx (queueOf s n)
    time := s.panel.ptime, grids := grids }

/-- A packet of the queue has started and has not ended. -/
structure Begun (s v : State) (n : Nat) (ws grids : List Nat) : Prop where
  queue : queueOf v n = restQueue { queueOf s n with head := (queueOf s n).head + 1, next := none, state := .running }
  packet : tblGet? v.panel.started s.seq = some (begun s n ws grids)
  waits : tblGet? v.panel.waits n = none

theorem begun_beginPacket (s : State) (n : Nat) (ws grids : List Nat) : Begun s (beginPacket s n ws grids).1 n ws grids where
  queue := queueOf_modQueue (dropWait (noteServed s n) n) n fun q =>
    restQueue { q with head := q.head + 1, next := none, state := .running }
  packet := tblGet?_set_same ..
  waits := tblGet?_del_same ..

theorem Begun.of_panel {s u v : State} {n : Nat} {ws grids : List Nat} (h : Begun s u n ws grids) (hp : v.panel = u.panel) :
    Begun s v n ws grids where
  queue := by rw [queueOf, hp]; exact h.queue
  packet := by rw [hp]; exact h.packet
  waits := by rw [hp]; exact h.waits

theorem Begun.state {s v : State} {n : Nat} {ws grids : List Nat} (h : Begun s v n ws grids) :
    (queueOf v n).state = if (queueOf s n).head + 1 = (queueOf s n).tail then .enabled else .running := by
  rw [h.queue, restQueue_state, if_pos (Or.inr rfl)]

theorem Begun.qStarted {s v : State} {n : Nat} {ws grids : List Nat} (h : Begun s v n ws grids) : QStarted s v n := by
  refine ⟨?_, ?_, ?_, h.state⟩
  · rw [h.queue, (restQueue_keeps _).2]
  · rw [h.queue, restQueue]
    split <;> rfl
  · rw [h.queue, (restQueue_keeps _).1]

theorem Begun.mayFail {s v : State} {n : Nat} {ws grids : List Nat} (h : Begun s v n ws grids) :
    Machine.mayFail (queueOf v n) = true := by
  have hst := h.state
  split at hst <;> simp only [Machine.mayFail, hst]

theorem Begun.not_draining {s v : State} {n : Nat} {ws grids : List Nat} (h : Begun s v n ws grids) :
    (queueOf v n).state ≠ .draining := by
  rw [h.state]
  split <;> exact nofun

/-- The packet is no longer among the started ones. -/
def unstarted (s : State) (key : Nat) : State := { s with panel := { s.panel with started := tblDel s.panel.started key } }

/-- A packet that leaves a queue which is not Draining changes nothing else. -/
theorem endPacket_quiet {s : State} {key : Nat} {p : QueuePacket} (hp : tblGet? s.panel.started key = some p)
    (h : (queueOf s p.queue).state ≠ .draining) : endPacket s key = unstarted s key := by
  have hn : (tblGet s.panel.started key).queue = p.queue := by rw [tblGet, hp, Option.getD_some]
  have hq : (queueOf (unstarted s key) p.queue).state ≠ .draining := h
  rw [endPacket, hn]
  exact if_neg (by simp only [Bool.and_eq_true, decide_eq_true_eq]; exact fun hd => hq hd.1)

/-- A started packet of a queue that may fail: its queue is in Error, and it has left. -/
theorem failPacket_eq {s : State} {key : Nat} {p : QueuePacket} (hp : tblGet? s.panel.started key = some p)
    (h : mayFail (queueOf s p.queue) = true) (status fisl : Nat) :
    failPacket s key status fisl = unstarted (modQueue (dropWait s p.queue) p.queue fun q => { q with
      state := .error, status := status, fisl := fisl, failIdx := p.index, failPacket := true, next := none }) key := by
  have hn : tblGet s.panel.started key = p := by rw [tblGet, hp, Option.getD_some]
  rw [failPacket, hn, failQueue_of_mayFail h]
  refine endPacket_quiet hp ?_
  rw [queueOf_modQueue]
  exact nofun

/-- What the failure of a packet just started leaves. -/
theorem Begun.fails {s v : State} {n : Nat} {ws grids : List Nat} (h : Begun s v n ws grids) (status fisl : Nat) :
    let t := failPacket v s.seq status fisl
    QEnded s t n status ∧ (queueOf t n).fisl = fisl ∧ PanelOnly v t ∧ tblGet? t.panel.started s.seq = none
      ∧ t.panel.monitors = v.panel.monitors ∧ t.panel.grids = v.panel.grids := by
  intro t
  have ht : t = _ := failPacket_eq h.packet h.mayFail status fisl
  have hq : queueOf t n = { queueOf v n with
      state := .error, status := status, fisl := fisl, failIdx := (queueOf s n).head, failPacket := true, next := none } := by
    rw [ht]
    exact queueOf_modQueue (dropWait v n) n fun q => { q with
      state := .error, status := status, fisl := fisl, failIdx := (queueOf s n).head, failPacket := true, next := none }
  obtain ⟨hhead, -, -, -⟩ := h.qStarted
  rw [QEnded, hq, ht]
  exact ⟨⟨rfl, rfl, rfl, rfl, rfl, hhead⟩, rfl, rfl, tblGet?_del_same .., rfl, rfl⟩

/-- A packet just started whose accesses wait, or are over. -/
theorem Begun.todo {s v : State} {n : Nat} {ws : List Nat} (h : Begun s v n ws []) (b : Bool) :
    QStarted s (setTodo v s.seq b) n ∧ SameMemory v (setTodo v s.seq b)
      ∧ tblGet? (setTodo v s.seq b).panel.started s.seq = some (started s n ws b) := by
  refine ⟨h.qStarted, ⟨fun _ _ => rfl, fun _ _ => rfl⟩, ?_⟩
  exact (tblGet?_adj_same ..).trans (by rw [h.packet]; rfl)

theorem drainCheck_effects (s : State) (n : Nat) : PanelOnly s (drainCheck s n)
    ∧ (drainCheck s n).panel.started = s.panel.started ∧ (drainCheck s n).panel.waits = s.panel.waits := by
  rw [drainCheck]
  split <;> exact ⟨rfl, rfl, rfl⟩

/-- What the completion of a started packet leaves. -/
theorem completed_packet {s : State} {key : Nat} {p : QueuePacket} (hp : tblGet? s.panel.started key = some p) :
    let t := completePacket s key
    SameMemory s t ∧ (∀ n, queueOf t n = queueOf (endPacket s key) n) ∧ tblGet? t.panel.started key = none
      ∧ (∀ n, tblGet? s.panel.waits n = none → tblGet? t.panel.waits n = none)
      ∧ Counted s t (p.words.map BitVec.toNat) := by
  intro t
  have hn : tblGet s.panel.started key = p := by rw [tblGet, hp, Option.getD_some]
  have ht : t = if bit (nth p.words 0).toNat 8 = true then
      ctrAdd (endPacket s key) (bits (nth p.words 0).toNat 37 32) (bits (nth p.words 0).toNat 31 16) 1
    else endPacket s key := by
    show completePacket s key = _
    rw [completePacket, hn]
  have hw : nth (p.words.map BitVec.toNat) 0 = (nth p.words 0).toNat := by cases p.words <;> rfl
  obtain ⟨hpo, hst, hwt⟩ := drainCheck_effects (unstarted s key) (tblGet s.panel.started key).queue
  have hend : endPacket s key = { unstarted s key with panel := (endPacket s key).panel } := hpo
  have hgone : tblGet? (endPacket s key).panel.started key = none :=
    (congrArg (tblGet? · key) hst).trans (tblGet?_del_same _ _)
  have hisl : (endPacket s key).islands = s.islands := (congrArg State.islands hend).trans rfl
  have hmem : memView (endPacket s key) = memView s := (congrArg memView hend).trans rfl
  have hctr : ∀ i k, ctrOf (endPacket s key) i k = ctrOf s i k := fun i k => by rw [ctrOf, islOf, hisl, ctrOf, islOf]
  rw [Counted, hw]
  by_cases hb : bit (nth p.words 0).toNat 8 = true
  · rw [if_pos hb] at ht
    have hset := counterSet_ctrAdd (endPacket s key) (bits (nth p.words 0).toNat 37 32) (bits (nth p.words 0).toNat 31 16) 1
    rw [← ht, hctr] at hset
    refine ⟨sameMemory_of_view (hset.view.trans hmem), fun n => ?_, ?_, fun n hn => hset.waits n ?_, fun _ hpr => ?_⟩
    · rw [queueOf, hset.panel, queueOf]
    · rw [hset.panel]
      exact hgone
    · exact (congrArg (tblGet? · n) hwt).trans hn
    · have hlt : bits (nth p.words 0).toNat 31 16 % 65536 = bits (nth p.words 0).toNat 31 16 := Nat.mod_mod ..
      rw [hlt] at hset
      exact hset.same ((congrArg (fun l => (tblGet? l _).isSome) hisl).trans hpr)
  · rw [if_neg hb] at ht
    rw [ht]
    refine ⟨sameMemory_of_view hmem, fun _ => rfl, hgone, fun n hn => (congrArg (tblGet? · n) hwt).trans hn, fun hb' => ?_⟩
    exact absurd (decide_eq_true hb') hb

theorem toNat_words (ws : List Nat) (ds : List DWord) (h : ds.map BitVec.toNat = ws) :
    (ws.map (BitVec.ofNat 64)).map BitVec.toNat = ws := by
  subst h
  simp

/-- What the completion of a packet just started leaves. -/
theorem Begun.completes {s v : State} {n ty : Nat} {ws grids : List Nat} (hn : NextIs s n ty ws) (h : Begun s v n ws grids) :
    let t := completePacket v s.seq
    QStarted s t n ∧ SameMemory v t ∧ Counted v t ws ∧ tblGet? t.panel.waits n = none ∧ tblGet? t.panel.started s.seq = none := by
  intro t
  obtain ⟨-, -, -, ds, -, hds⟩ := hn
  obtain ⟨hmem, hq, hgone, hw, hc⟩ := completed_packet h.packet
  rw [show (begun s n ws grids).words.map BitVec.toNat = ws from toNat_words ws ds hds] at hc
  refine ⟨?_, hmem, hc, hw n h.waits, hgone⟩
  rw [QStarted, hq, endPacket_quiet h.packet h.not_draining]
  exact h.qStarted

/-! ## The reading of a packet (R358, R370) -/

/-- A WAIT that is the queue's next packet watches its counter. -/
def watched (s : State) (n : Nat) (ws : List Nat) : State :=
  if packetType ws = 2 then { s with panel := { s.panel with waits := tblSet s.panel.waits n (watch s ws) } } else s

/-- The queue holds the packet read. -/
def packetRead (s : State) (n : Nat) (ds : List DWord) : State :=
  modQueue (watched s n (ds.map BitVec.toNat)) n fun q => { q with
    next := some ds, since := s.panel.ptime
    state := if startable (watched s n (ds.map BitVec.toNat)) n (ds.map BitVec.toNat) then .running else .blocked }

theorem watched_ptime (s : State) (n : Nat) (ws : List Nat) : (watched s n ws).panel.ptime = s.panel.ptime := by
  rw [watched]
  split <;> rfl

theorem queueOf_watched (s : State) (n k : Nat) (ws : List Nat) : queueOf (watched s n ws) k = queueOf s k := by
  rw [watched]
  split <;> rfl

theorem panelOnly_packetRead (s : State) (n : Nat) (ds : List DWord) : PanelOnly s (packetRead s n ds) := by
  rw [packetRead, watched]
  split <;> rfl

theorem exec_packetRead {s : State} {n : Nat} {ds : List DWord} (hq : chooseQueue s = some n) (hn : (queueOf s n).next = none)
    (hr : readSlot s (queueOf s n) = some ds) (ha : acceptStatus s (queueOf s n) (ds.map BitVec.toNat) = 0) :
    exec .queuePacketRead s = .next (if startable (watched s n (ds.map BitVec.toNat)) n (ds.map BitVec.toNat) = true then
      packetRead s n ds else noteServed (packetRead s n ds) n) := by
  have hs : (queueOf s n).next.isSome = false := by rw [hn]; rfl
  have hp := watched_ptime s n (ds.map BitVec.toNat)
  show execQueuePacketRead s = _
  rw [watched] at hp
  simp only [execQueuePacketRead, hq, hr, ha, hs, packetRead, watched, hp]
  rfl

theorem served_or_not (c : Prop) [Decidable c] (u : State) (n : Nat) :
    PanelOnly u (if c then u else noteServed u n) ∧ (if c then u else noteServed u n).panel.waits = u.panel.waits
      ∧ ∀ k, queueOf (if c then u else noteServed u n) k = queueOf u k := by
  split <;> exact ⟨rfl, rfl, fun _ => rfl⟩

theorem panelOnly_trans {s t u : State} (a : PanelOnly s t) (b : PanelOnly t u) : PanelOnly s u := by
  rw [PanelOnly, b, a]

theorem panelOnly_sameMemory {s t : State} (h : PanelOnly s t) : SameMemory s t := by
  rw [h]
  exact ⟨fun _ _ => rfl, fun _ _ => rfl⟩

/-- Where the packet read may start at once its queue runs, and else it is Blocked. -/
theorem packet_is_read {s : State} {n : Nat} {ds : List DWord} (hq : chooseQueue s = some n) (hn : (queueOf s n).next = none)
    (hr : readSlot s (queueOf s n) = some ds) (ha : acceptStatus s (queueOf s n) (ds.map BitVec.toNat) = 0) :
    ∃ t, exec .queuePacketRead s = .next t ∧ PanelOnly s t
      ∧ t.panel.waits = (watched s n (ds.map BitVec.toNat)).panel.waits
      ∧ queueOf t n = { queueOf s n with next := some ds, since := s.panel.ptime
                                         state := if startable (watched s n (ds.map BitVec.toNat)) n (ds.map BitVec.toNat) = true
                                          then .running else .blocked } := by
  obtain ⟨hpo, hw, hk⟩ := served_or_not (startable (watched s n (ds.map BitVec.toNat)) n (ds.map BitVec.toNat) = true)
    (packetRead s n ds) n
  refine ⟨_, exec_packetRead hq hn hr ha, panelOnly_trans (panelOnly_packetRead s n ds) hpo, hw, ?_⟩
  rw [hk, packetRead, queueOf_modQueue, queueOf_watched]

/-- The next packet of a queue is refused before it starts. -/
theorem next_is_refused {s : State} {n : Nat} (h : mayFail (queueOf s n) = true) (status : Nat) :
    let t := failQueue (noteServed s n) n (queueOf s n).head status 0 true
    PanelOnly s t ∧ QFailed s t n status := by
  intro t
  have ht : t = _ := failQueue_of_mayFail (s := noteServed s n) (n := n) h (queueOf s n).head status 0 true
  rw [ht, QFailed, queueOf_modQueue]
  exact ⟨rfl, rfl, rfl, rfl, rfl, rfl, rfl⟩

theorem packet_refused {s : State} {n : Nat} (hq : chooseQueue s = some n) (hf : mayFail (queueOf s n) = true)
    (hn : (queueOf s n).next = none) (hr : readSlot s (queueOf s n) = none) :
    ∃ t, exec .queuePacketRead s = .next t ∧ PanelOnly s t ∧ QFailed s t n 3 := by
  refine ⟨_, ?_, next_is_refused hf 3⟩
  have hs : (queueOf s n).next.isSome = false := by rw [hn]; rfl
  show execQueuePacketRead s = _
  simp only [execQueuePacketRead, hq, hr, hs]
  rfl

theorem packet_not_accepted {s : State} {n : Nat} {ds : List DWord} (hq : chooseQueue s = some n)
    (hf : mayFail (queueOf s n) = true) (hn : (queueOf s n).next = none) (hr : readSlot s (queueOf s n) = some ds)
    (ha : acceptStatus s (queueOf s n) (ds.map BitVec.toNat) ≠ 0) :
    ∃ t, exec .queuePacketRead s = .next t ∧ PanelOnly s t ∧ QFailed s t n (acceptStatus s (queueOf s n) (ds.map BitVec.toNat)) := by
  refine ⟨_, ?_, next_is_refused hf _⟩
  have hs : (queueOf s n).next.isSome = false := by rw [hn]; rfl
  show execQueuePacketRead s = _
  simp only [execQueuePacketRead, hq, hr, hs, if_pos ha]
  rfl

/-! ## The packets that start and complete at once, and their waits (R363, R364, R367) -/

theorem packetOnly_beginPacket (s : State) (n : Nat) (ws grids : List Nat) : PacketOnly s (beginPacket s n ws grids).1 := by
  simp only [PacketOnly, beginPacket, modQueue, dropWait, noteServed]

theorem beginPacket_key (s : State) (n : Nat) (ws grids : List Nat) : (beginPacket s n ws grids).2 = s.seq := rfl

theorem monitors_beginPacket (s : State) (n : Nat) (ws grids : List Nat) :
    (beginPacket s n ws grids).1.panel.monitors = s.panel.monitors := by
  simp only [beginPacket, modQueue, dropWait, noteServed]

theorem memView_beginPacket (s : State) (n : Nat) (ws grids : List Nat) : memView (beginPacket s n ws grids).1 = memView s := by
  rw [packetOnly_beginPacket, memView, memView]

theorem islands_beginPacket (s : State) (n : Nat) (ws grids : List Nat) : (beginPacket s n ws grids).1.islands = s.islands := by
  rw [packetOnly_beginPacket]

theorem ctrOf_beginPacket (s : State) (n i k : Nat) (ws grids : List Nat) : ctrOf (beginPacket s n ws grids).1 i k = ctrOf s i k := by
  rw [ctrOf, islOf, islands_beginPacket, ctrOf, islOf]

theorem sameMemory_beginPacket (s : State) (n : Nat) (ws grids : List Nat) : SameMemory s (beginPacket s n ws grids).1 :=
  sameMemory_of_view (memView_beginPacket s n ws grids)

theorem begun_completes {s : State} {n ty : Nat} {ws : List Nat} (h : NextIs s n ty ws) :
    let t := completePacket (beginPacket s n ws []).1 s.seq
    QStarted s t n ∧ SameMemory s t ∧ Counted s t ws ∧ tblGet? t.panel.waits n = none ∧ tblGet? t.panel.started s.seq = none := by
  intro t
  obtain ⟨hq, hm, hc, hw, hgone⟩ := (begun_beginPacket s n ws []).completes h
  refine ⟨hq, sameMemory_trans (sameMemory_beginPacket s n ws []) hm, ?_, hw, hgone⟩
  simpa only [Counted, Present, ctrOf_beginPacket, islands_beginPacket] using hc

theorem waitPacket_starts {s : State} {n : Nat} {ws : List Nat} (h : NextIs s n 2 ws) :
    ∃ t, exec (.waitPacket n) s = .next t ∧ QStarted s t n ∧ SameMemory s t ∧ Counted s t ws
      ∧ tblGet? t.panel.waits n = none ∧ tblGet? t.panel.started s.seq = none := by
  refine ⟨completePacket (beginPacket s n ws []).1 s.seq, ?_, begun_completes h⟩
  show execWaitPacket n s = _
  rw [execWaitPacket, nextOfType_of_nextIs h]
  rfl

theorem order_starts {s : State} {n : Nat} {ws : List Nat} (h : NextIs s n 6 ws) :
    ∃ t, exec (.order n) s = .next t ∧ QStarted s t n ∧ SameMemory s t ∧ Counted s t ws
      ∧ tblGet? t.panel.started s.seq = none := by
  obtain ⟨hq, hm, hc, -, hgone⟩ := begun_completes h
  refine ⟨completePacket (beginPacket s n ws []).1 s.seq, ?_, hq, hm, hc, hgone⟩
  show execOrder n s = _
  rw [execOrder, nextOfType_of_nextIs h]
  rfl

theorem signal_starts {s : State} {n : Nat} {ws : List Nat} (h : NextIs s n 3 ws)
    (hp : Present s (nth ws 1 / 2 ^ 16 % 2 ^ 6)) :
    ∃ t, exec (.signal n) s = .next t ∧ QStarted s t n ∧ SameMemory s t
      ∧ ctrOf t (nth ws 1 / 2 ^ 16 % 2 ^ 6) (nth ws 1 % 2 ^ 16)
        = ctrOf s (nth ws 1 / 2 ^ 16 % 2 ^ 6) (nth ws 1 % 2 ^ 16) + BitVec.ofNat 64 (nth ws 2)
      ∧ ∀ j m, m < 65536 → (j ≠ nth ws 1 / 2 ^ 16 % 2 ^ 6 ∨ m ≠ nth ws 1 % 2 ^ 16) → ctrOf t j m = ctrOf s j m := by
  have hset := counterSet_ctrAdd (beginPacket s n ws []).1 (nth ws 1 / 2 ^ 16 % 2 ^ 6) (nth ws 1 % 2 ^ 16)
    (BitVec.ofNat 64 (nth ws 2))
  rw [show nth ws 1 % 2 ^ 16 % 65536 = nth ws 1 % 2 ^ 16 from Nat.mod_mod ..] at hset
  have hother := hset.other
  simp only [ctrOf_beginPacket] at hother
  rw [ctrOf_beginPacket] at hset
  refine ⟨ctrAdd (beginPacket s n ws []).1 (nth ws 1 / 2 ^ 16 % 2 ^ 6) (nth ws 1 % 2 ^ 16) (BitVec.ofNat 64 (nth ws 2)), ?_, ?_,
    sameMemory_of_view (hset.view.trans (memView_beginPacket s n ws [])), hset.same hp, fun j m _ hm => hother j m hm⟩
  · show execSignal n s = _
    rw [execSignal, nextOfType_of_nextIs h]
    simp only [bits_low_half]
    rfl
  · rw [QStarted, queueOf, hset.panel]
    exact (begun_beginPacket s n ws []).qStarted

theorem waitPacket_late {s : State} {n : Nat} {ds : List DWord} (hn : (queueOf s n).next = some ds)
    (hty : packetType (ds.map BitVec.toNat) = 2) (hb : (queueOf s n).state = .blocked) (hc : s.panel.checking = false)
    (ht : (nth ds 2).toNat / 2 ^ 32 ≠ 0) (hm : (tblGet s.panel.waits n).met = false)
    (hl : (queueOf s n).since + 1000 * ((nth ds 2).toNat / 2 ^ 32) ≤ s.panel.ptime) :
    ∃ t, exec (.waitPacketTimeout n) s = .next t ∧ PanelOnly s t ∧ QFailed s t n 5 := by
  have hf : mayFail (queueOf s n) = true := by rw [mayFail, hb]
  have hbits := bits_to_top (nth ds 2) (k := 32) (by decide)
  refine ⟨failQueue s n (queueOf s n).head 5 0 true, ?_, ?_⟩
  · show execWaitPacketTimeout n s = _
    simp only [execWaitPacketTimeout, hn, hbits]
    rw [if_pos (by simp only [hty, hb, hc, hm, Bool.and_eq_true, decide_eq_true_eq]; exact ⟨⟨by simpa using ht, by decide⟩, hl⟩)]
  · rw [failQueue_of_mayFail hf, QFailed, queueOf_modQueue]
    exact ⟨rfl, rfl, rfl, rfl, rfl, rfl, rfl⟩

theorem waitPacket_not_late (n : Nat) :
    NotDue (.waitPacketTimeout n) fun s => (queueOf s n).next = none ∨ (queueOf s n).state ≠ .blocked := by
  intro s h
  show execWaitPacketTimeout n s = _
  rw [execWaitPacketTimeout]
  dsimp only
  split
  · rfl
  case h_2 ds hds =>
    have hb := h.resolve_left (by rw [hds]; exact nofun)
    exact if_neg (by simp [hb])

/-! ## COPY and STAMP (R365, R368) -/

theorem copyGo_reads {s : State} {key : Nat} {p : QueuePacket} (hp : tblGet? s.panel.started key = some p) {r : State × CpRead}
    (hr : sideRead s p.ctx (bit (nth p.words 4).toNat 0) (nth p.words 1).toNat (nth p.words 3).toNat = r) :
    (r.2 = .refused → copyGo s key = failPacket r.1 key 7 0) ∧ (r.2 = .waits → copyGo s key = setTodo r.1 key true)
      ∧ ∀ bs, r.2 = .ok bs →
        let x := sideWrite r.1 p.ctx (bit (nth p.words 4).toNat 1) (nth p.words 2).toNat bs
        (x.2 = .refused → copyGo s key = failPacket x.1 key 7 0) ∧ (x.2 = .waits → copyGo s key = setTodo x.1 key true)
          ∧ (x.2 = .done → copyGo s key = setTodo x.1 key false) := by
  have hn : tblGet s.panel.started key = p := by rw [tblGet, hp, Option.getD_some]
  simp only [copyGo, hn, hr]
  refine ⟨fun h => by rw [h], fun h => by rw [h], fun bs h => ?_⟩
  simp only [h]
  exact ⟨fun hx => by rw [hx], fun hx => by rw [hx], fun hx => by rw [hx]⟩

theorem nth_words {ds : List DWord} {ws : List Nat} (h : ds.map BitVec.toNat = ws) (j : Nat) :
    (nth (ws.map (BitVec.ofNat 64)) j).toNat = nth ws j := by
  subst h
  rw [nth, nth, List.map_map, List.getD_eq_getElem?_getD, List.getD_eq_getElem?_getD, List.getElem?_map, List.getElem?_map]
  cases ds[j]? with
  | none => rfl
  | some d => simp

theorem exec_copy_next {s : State} {n : Nat} {ws : List Nat} (h : NextIs s n 4 ws) :
    exec (.copy n) s = .next (copyGo (beginPacket s n ws []).1 s.seq) := by
  show execCopy n s = _
  rw [execCopy, nextOfType_of_nextIs h]
  rfl

/-- What a COPY just started reads with, and the ends of its read. -/
theorem copy_starts {s : State} {n : Nat} {ws : List Nat} (h : NextIs s n 4 ws) :
    let c := qCtx (queueOf s n)
    let r := sideRead (beginPacket s n ws []).1 c (bit (nth ws 4) 0) (nth ws 1) (nth ws 3)
    (r.2 = .refused → ∃ t, exec (.copy n) s = .next t ∧ QEnded s t n 7 ∧ SameMemory r.1 t ∧ tblGet? t.panel.started s.seq = none)
    ∧ (r.2 = .waits → ∃ t, exec (.copy n) s = .next t ∧ QStarted s t n ∧ SameMemory r.1 t
      ∧ tblGet? t.panel.started s.seq = some (started s n ws true))
    ∧ ∀ bs, r.2 = .ok bs →
      let x := sideWrite r.1 c (bit (nth ws 4) 1) (nth ws 2) bs
      (x.2 = .refused → ∃ t, exec (.copy n) s = .next t ∧ QEnded s t n 7 ∧ SameMemory x.1 t)
      ∧ (x.2 = .waits → ∃ t, exec (.copy n) s = .next t ∧ QStarted s t n ∧ SameMemory x.1 t
        ∧ tblGet? t.panel.started s.seq = some (started s n ws true))
      ∧ (x.2 = .done → ∃ t, exec (.copy n) s = .next t ∧ QStarted s t n ∧ SameMemory x.1 t
        ∧ tblGet? t.panel.started s.seq = some (started s n ws false)) := by
  intro c r
  obtain ⟨-, -, -, ds, -, hds⟩ := id h
  have hb := begun_beginPacket s n ws []
  have hgo := copyGo_reads hb.packet (r := r) (by
    simp only [begun, nth_words hds]
    rfl)
  simp only [begun, nth_words hds] at hgo
  obtain ⟨hrefused, hwaits, hok⟩ := hgo
  have hbr : Begun s r.1 n ws [] := hb.of_panel (samePanel_sideRead ..).1
  refine ⟨fun hr => ?_, fun hr => ?_, fun bs hr => ?_⟩
  · obtain ⟨hend, -, hpo, hgone, -⟩ := hbr.fails 7 0
    exact ⟨_, (exec_copy_next h).trans (by rw [hrefused hr]), hend, panelOnly_sameMemory hpo, hgone⟩
  · exact ⟨_, (exec_copy_next h).trans (by rw [hwaits hr]), hbr.todo true⟩
  · intro x
    obtain ⟨hrefused, hwaits, hdone⟩ := hok bs hr
    have hbx : Begun s x.1 n ws [] := hbr.of_panel (samePanel_sideWrite ..).1
    refine ⟨fun hx => ?_, fun hx => ?_, fun hx => ?_⟩
    · obtain ⟨hend, -, hpo, hgone, -⟩ := hbx.fails 7 0
      exact ⟨_, (exec_copy_next h).trans (by rw [hrefused hx]), hend, panelOnly_sameMemory hpo⟩
    · exact ⟨_, (exec_copy_next h).trans (by rw [hwaits hx]), hbx.todo true⟩
    · exact ⟨_, (exec_copy_next h).trans (by rw [hdone hx]), hbx.todo false⟩

/-- A packet of the type that waits at a VC tries again, where its queue's next packet is not served. -/
theorem copy_goes_on {s s1 s2 : State} {n key : Nat} {p : QueuePacket} {bs : List Byte} (hq : chooseQueue s ≠ some n)
    (hw : waitingOf s n 4 = some (key, p)) (hp : tblGet? s.panel.started key = some p)
    (hr : sideRead s p.ctx (bit (nth p.words 4).toNat 0) (nth p.words 1).toNat (nth p.words 3).toNat = (s1, .ok bs))
    (hx : sideWrite s1 p.ctx (bit (nth p.words 4).toNat 1) (nth p.words 2).toNat bs = (s2, .done)) :
    ∃ t, exec (.copy n) s = .next t ∧ SameMemory s2 t ∧ tblGet? t.panel.started key = some { p with todo := false } := by
  obtain ⟨-, -, hok⟩ := copyGo_reads hp hr
  have hdone := (hok bs rfl).2.2
  simp only [hx] at hdone
  refine ⟨setTodo s2 key false, ?_, ⟨fun _ _ => rfl, fun _ _ => rfl⟩, ?_⟩
  · show execCopy n s = _
    simp only [execCopy, nextOfType_of_not_chosen hq, hw]
    rw [hdone trivial]
  · have hrp := samePanel_sideRead s p.ctx (bit (nth p.words 4).toNat 0) (nth p.words 1).toNat (nth p.words 3).toNat
    have hxp := samePanel_sideWrite s1 p.ctx (bit (nth p.words 4).toNat 1) (nth p.words 2).toNat bs
    rw [hr] at hrp
    rw [hx] at hxp
    have hpanel : s2.panel = s.panel := hxp.1.trans hrp.1
    rw [setTodo, hpanel]
    exact (tblGet?_adj_same ..).trans (by rw [hp]; rfl)

theorem copy_not_due (n : Nat) : NotDue (.copy n) fun s => chooseQueue s ≠ some n ∧ waitingOf s n 4 = none := by
  rintro s ⟨hq, hw⟩
  show execCopy n s = _
  simp only [execCopy, nextOfType_of_not_chosen hq, hw]

/-- A read of the host's memory that a port reaches, where no byte is marked. -/
theorem sideRead_host {s : State} {a n : Nat} (c : Nat) (hup : hostUp s = true) (ha : a + n ≤ 2 ^ 51)
    (hm : ∀ j, j < n → marked s 0 (hostBase + a + j) = false) :
    sideRead s c false a n = (s, .ok (memBytes s.hostMem (hostBase + a) n)) := by
  have hany : ((List.range n).any fun j => marked s 0 (hostBase + a + j)) = false := by
    rw [List.any_eq_false]
    intro j hj
    rw [hm j (List.mem_range.mp hj)]
    decide
  rw [sideRead, if_pos (by decide), hany, if_neg (by simp only [hostSpan, hup, Bool.true_and, Bool.or_false, decide_eq_true ha]; decide)]

theorem stampGo_writes {s : State} {key : Nat} {p : QueuePacket} (hp : tblGet? s.panel.started key = some p)
    (hb : bit (nth p.words 3).toNat 0 = true) {x : State × CpWrite}
    (hx : sideWrite s p.ctx (bit (nth p.words 3).toNat 1) (nth p.words 2).toNat (le8 p.time) = x) :
    (x.2 = .refused → stampGo s key = failPacket x.1 key 7 0) ∧ (x.2 = .waits → stampGo s key = setTodo x.1 key true)
      ∧ (x.2 = .done → stampGo s key = setTodo x.1 key false) := by
  have hn : tblGet s.panel.started key = p := by rw [tblGet, hp, Option.getD_some]
  simp only [stampGo, hn, hx, hb, if_true]
  exact ⟨fun h => by rw [h], fun h => by rw [h], fun h => by rw [h]⟩

theorem exec_stamp_next {s : State} {n : Nat} {ws : List Nat} (h : NextIs s n 7 ws) :
    exec (.stamp n) s = .next (stampGo (beginPacket (enterStamp s (nth ws 1)) n ws []).1 s.seq) := by
  show execStamp n s = _
  rw [execStamp, nextOfType_of_nextIs h]
  simp only [beginPacket_key, enterStamp]

theorem begun_enterStamp (s : State) (n k : Nat) (ws : List Nat) :
    Begun s (beginPacket (enterStamp s k) n ws []).1 n ws [] := by
  have hq : queueOf (enterStamp s k) n = queueOf s n := by rw [queueOf, enterStamp, queueOf]
  have hp : begun (enterStamp s k) n ws [] = begun s n ws [] := by rw [begun, hq, begun, enterStamp]
  have hs : (enterStamp s k).seq = s.seq := by rw [enterStamp]
  obtain ⟨hqueue, hpacket, hwaits⟩ := begun_beginPacket (enterStamp s k) n ws []
  rw [hq] at hqueue
  rw [hp, hs] at hpacket
  exact ⟨hqueue, hpacket, hwaits⟩

theorem stamp_starts {s : State} {n : Nat} {ws : List Nat} (h : NextIs s n 7 ws) (hb : nth ws 3 % 2 = 1) :
    let x := sideWrite (beginPacket (enterStamp s (nth ws 1)) n ws []).1 (qCtx (queueOf s n)) (bit (nth ws 3) 1) (nth ws 2)
      (leBytes s.panel.ptime 8)
    (x.2 = .refused → ∃ t, exec (.stamp n) s = .next t ∧ QEnded s t n 7 ∧ SameMemory x.1 t
      ∧ t.panel.monitors = (enterStamp s (nth ws 1)).panel.monitors)
    ∧ (x.2 = .waits → ∃ t, exec (.stamp n) s = .next t ∧ QStarted s t n ∧ SameMemory x.1 t
      ∧ tblGet? t.panel.started s.seq = some (started s n ws true))
    ∧ (x.2 = .done → ∃ t, exec (.stamp n) s = .next t ∧ QStarted s t n ∧ SameMemory x.1 t
      ∧ tblGet? t.panel.started s.seq = some (started s n ws false)) := by
  intro x
  obtain ⟨-, -, -, ds, -, hds⟩ := id h
  have hbg := begun_enterStamp s n (nth ws 1) ws
  have hbit : bit (nth (begun s n ws []).words 3).toNat 0 = true := by
    rw [begun, nth_words hds, bit, Nat.pow_zero, Nat.div_one, hb]
    rfl
  have hgo := stampGo_writes hbg.packet hbit (x := x) (by
    simp only [begun, nth_words hds]
    rfl)
  obtain ⟨hrefused, hwaits, hdone⟩ := hgo
  have hpanel : x.1.panel = (beginPacket (enterStamp s (nth ws 1)) n ws []).1.panel := (samePanel_sideWrite ..).1
  have hbx : Begun s x.1 n ws [] := hbg.of_panel hpanel
  refine ⟨fun hx => ?_, fun hx => ?_, fun hx => ?_⟩
  · obtain ⟨hend, -, hpo, -, hmon, -⟩ := hbx.fails 7 0
    exact ⟨_, (exec_stamp_next h).trans (by rw [hrefused hx]), hend, panelOnly_sameMemory hpo, by rw [hmon, hpanel, monitors_beginPacket]⟩
  · exact ⟨_, (exec_stamp_next h).trans (by rw [hwaits hx]), hbx.todo true⟩
  · exact ⟨_, (exec_stamp_next h).trans (by rw [hdone hx]), hbx.todo false⟩

/-- A STAMP that writes nothing enters its monitor's sample. -/
theorem stamp_enters {s : State} {n : Nat} {ws : List Nat} {m : Monitor} (h : NextIs s n 7 ws) (hb : nth ws 3 % 2 = 0)
    (hm : tblGet? s.panel.monitors (nth ws 1) = some m) :
    ∃ t, exec (.stamp n) s = .next t ∧ QStarted s t n ∧ SameMemory s t
      ∧ tblGet? t.panel.monitors (nth ws 1) = some (if m.src = 0x40 then enterSample m (s.panel.ptime % 2 ^ 32) else m) := by
  obtain ⟨-, -, -, ds, -, hds⟩ := id h
  have hbg := begun_enterStamp s n (nth ws 1) ws
  have hn : tblGet (beginPacket (enterStamp s (nth ws 1)) n ws []).1.panel.started s.seq = begun s n ws [] := by
    rw [tblGet, hbg.packet, Option.getD_some]
  have hbit : bit (nth (begun s n ws []).words 3).toNat 0 = false := by
    rw [begun, nth_words hds, bit, Nat.pow_zero, Nat.div_one, hb]
    rfl
  refine ⟨(beginPacket (enterStamp s (nth ws 1)) n ws []).1, (exec_stamp_next h).trans ?_, hbg.qStarted,
    sameMemory_trans (t := enterStamp s (nth ws 1)) ⟨fun _ _ => rfl, fun _ _ => rfl⟩ (sameMemory_beginPacket ..), ?_⟩
  · simp only [stampGo, hn, hbit]
    rfl
  · exact (tblGet?_adj_same ..).trans (by rw [hm]; rfl)

theorem stamp_goes_on {s s1 : State} {n key : Nat} {p : QueuePacket} (hq : chooseQueue s ≠ some n)
    (hw : waitingOf s n 7 = some (key, p)) (hp : tblGet? s.panel.started key = some p) (hb : bit (nth p.words 3).toNat 0 = true)
    (hx : sideWrite s p.ctx (bit (nth p.words 3).toNat 1) (nth p.words 2).toNat (leBytes p.time 8) = (s1, .done)) :
    ∃ t, exec (.stamp n) s = .next t ∧ SameMemory s1 t ∧ tblGet? t.panel.started key = some { p with todo := false } := by
  obtain ⟨-, -, hdone⟩ := stampGo_writes hp hb hx
  refine ⟨setTodo s1 key false, ?_, ⟨fun _ _ => rfl, fun _ _ => rfl⟩, ?_⟩
  · show execStamp n s = _
    simp only [execStamp, nextOfType_of_not_chosen hq, hw]
    rw [hdone rfl]
  · have hxp := samePanel_sideWrite s p.ctx (bit (nth p.words 3).toNat 1) (nth p.words 2).toNat (leBytes p.time 8)
    rw [hx] at hxp
    rw [setTodo, hxp.1]
    exact (tblGet?_adj_same ..).trans (by rw [hp]; rfl)

/-- A write of the host's memory that a port reaches. -/
theorem sideWrite_host {s : State} {a : Nat} {bs : List Byte} (c : Nat) (hup : hostUp s = true) (ha : a + bs.length ≤ 2 ^ 51) :
    ∃ t, sideWrite s c false a bs = (t, .done)
      ∧ (∀ isl j, j < bs.length → byteAt t isl (hostBase + a + j) = bs.getD j 0)
      ∧ ∀ isl b, (b < hostBase + a ∨ hostBase + a + bs.length ≤ b) → byteAt t isl b = byteAt s isl b := by
  have hhost : ∀ k, isHost (hostBase + a + k) = true := fun k => by simp only [isHost, decide_eq_true_eq]; omega
  refine ⟨physPut s 0 (hostBase + a) bs, ?_, fun isl j hj => ?_, fun isl b hb => byteAt_physPut_other fun _ => hb⟩
  · rw [sideWrite, if_pos (by decide), if_neg (by simp only [hostSpan, hup, Bool.true_and, decide_eq_true ha]; decide)]
  · rw [byteAt_eq, if_pos (hhost j), physPut_host (p := hostBase + a) (hhost 0), memGet_put_inside _ _ _ _ hj, List.getD_eq_getElem _ _ hj]

/-! ## VCDEF (R366) -/

/-- The operation that a VCDEF packet names. -/
def vcdefOp (ws : List Nat) : VcOp :=
  match nth ws 1 / 2 ^ 8 % 4 with
  | 0 => .define
  | 1 => .resize
  | _ => .retire

theorem exec_vcdefPacket {s : State} {n : Nat} {ws : List Nat} (h : NextIs s n 5 ws) :
    exec (.vcdefPacket n) s = .next (
      let u := (beginPacket s n ws []).1
      let r := applyVc u (nth ws 1 % 2 ^ 6) (vcdefOp ws) (nth ws 2)
      if qPriv (queueOf s n) = false then failPacket u s.seq 8 0
      else if vcObjFault s (nth ws 1 % 2 ^ 6) (qCtx (queueOf s n)) (vcdefOp ws) (nth ws 2) ≠ none then failPacket u s.seq 0x26 0
      else if r.1 ≠ 0 then failPacket r.2 s.seq (0x20 + r.1) 0 else completePacket r.2 s.seq) := by
  have hi : bits (nth ws 1) 5 0 = nth ws 1 % 2 ^ 6 := by rw [bits, Nat.pow_zero, Nat.div_one]
  show execVcdefPacket n s = _
  rw [execVcdefPacket, nextOfType_of_nextIs h]
  dsimp only
  rw [hi]
  show _ = Host.Outcome.next (if _ then _ else if _ then _ else _)
  by_cases hpriv : qPriv (queueOf s n) = false
  · rw [if_pos hpriv, if_pos (by rw [hpriv]; rfl), beginPacket_key]
  · rw [if_neg hpriv, if_neg (by simpa using hpriv)]
    by_cases hobj : vcObjFault s (nth ws 1 % 2 ^ 6) (qCtx (queueOf s n)) (vcdefOp ws) (nth ws 2) ≠ none
    · rw [if_pos hobj, beginPacket_key]
      exact if_pos (Option.isSome_iff_ne_none.mpr hobj)
    · rw [if_neg hobj, beginPacket_key]
      exact if_neg (mt Option.isSome_iff_ne_none.mp hobj)

theorem packetOnly_of_panelOnly {s u t : State} (a : PacketOnly s u) (b : PanelOnly u t) : PacketOnly s t := by
  rw [PacketOnly, b, a]

theorem vcdef_starts {s : State} {n : Nat} {ws : List Nat} (h : NextIs s n 5 ws) :
    let i := nth ws 1 % 2 ^ 6
    let op := vcdefOp ws
    let r := applyVc (beginPacket s n ws []).1 i op (nth ws 2)
    (qPriv (queueOf s n) = false → ∃ t, exec (.vcdefPacket n) s = .next t ∧ QEnded s t n 8 ∧ PacketOnly s t)
    ∧ (qPriv (queueOf s n) = true → vcObjFault s i (qCtx (queueOf s n)) op (nth ws 2) ≠ none →
      ∃ t, exec (.vcdefPacket n) s = .next t ∧ QEnded s t n 0x26 ∧ PacketOnly s t)
    ∧ (qPriv (queueOf s n) = true → vcObjFault s i (qCtx (queueOf s n)) op (nth ws 2) = none → r.1 ≠ 0 →
      ∃ t, exec (.vcdefPacket n) s = .next t ∧ QEnded s t n (0x20 + r.1) ∧ PacketOnly s t)
    ∧ (qPriv (queueOf s n) = true → vcObjFault s i (qCtx (queueOf s n)) op (nth ws 2) = none → r.1 = 0 →
      ∃ t, exec (.vcdefPacket n) s = .next t ∧ QStarted s t n ∧ SameMemory r.2 t ∧ Counted r.2 t ws) := by
  intro i op r
  have hx := exec_vcdefPacket h
  have hb := begun_beginPacket s n ws []
  have hp := packetOnly_beginPacket s n ws []
  have hfail := fun st => hb.fails st 0
  refine ⟨fun hpriv => ?_, fun hpriv hobj => ?_, fun hpriv hobj hr => ?_, fun hpriv hobj hr => ?_⟩
  · rw [if_pos hpriv] at hx
    exact ⟨_, hx, (hfail 8).1, packetOnly_of_panelOnly hp (hfail 8).2.2.1⟩
  · rw [if_neg (ne_false_of_eq_true hpriv), if_pos hobj] at hx
    exact ⟨_, hx, (hfail 0x26).1, packetOnly_of_panelOnly hp (hfail 0x26).2.2.1⟩
  · rw [if_neg (ne_false_of_eq_true hpriv), if_neg (not_not_intro hobj), if_pos hr, applyVc_refused _ _ _ _ hr] at hx
    exact ⟨_, hx, (hfail _).1, packetOnly_of_panelOnly hp (hfail _).2.2.1⟩
  · rw [if_neg (ne_false_of_eq_true hpriv), if_neg (not_not_intro hobj), if_neg (not_not_intro hr)] at hx
    obtain ⟨hq, hm, hc, -⟩ := (hb.of_panel (samePanel_applyVc _ i op (nth ws 2)).1).completes h
    exact ⟨_, hx, hq, hm, hc⟩

/-! ## The end of a packet -/

theorem packet_completes {s : State} {pkt : Nat} {p : QueuePacket} (hp : tblGet? s.panel.started pkt = some p)
    (ha : packetAborted s p = false) (hd : packetDone s p = true) :
    exec (.packetComplete pkt) s = .next (completePacket s pkt) := by
  show execPacketComplete pkt s = _
  simp only [execPacketComplete, hp, ha, hd]
  rfl

theorem packet_fails {s : State} {pkt : Nat} {p : QueuePacket} (hp : tblGet? s.panel.started pkt = some p)
    (ha : packetAborted s p = true) (hf : mayFail (queueOf s p.queue) = true) :
    ∃ t, exec (.packetComplete pkt) s = .next t ∧ SameMemory s t ∧ tblGet? t.panel.started pkt = none
      ∧ (queueOf t p.queue).state = .error ∧ (queueOf t p.queue).status = 9 ∧ (queueOf t p.queue).failIdx = p.index := by
  refine ⟨failPacket s pkt 9 0, ?_, ?_⟩
  · show execPacketComplete pkt s = _
    simp only [execPacketComplete, hp, ha]
    rfl
  · have hq := queueOf_modQueue (dropWait s p.queue) p.queue fun q => { q with
      state := .error, status := 9, fisl := 0, failIdx := p.index, failPacket := true, next := none }
    have hu : ∀ u, queueOf (unstarted u pkt) p.queue = queueOf u p.queue := fun _ => rfl
    rw [failPacket_eq hp hf, hu, hq]
    exact ⟨⟨fun _ _ => rfl, fun _ _ => rfl⟩, tblGet?_del_same _ _, rfl, rfl, rfl⟩

/-! ## LAUNCH (R346, R362) -/

/-- A LAUNCH that names no island is refused. -/
theorem launch_of_none {s : State} {n : Nat} {ws : List Nat} (h : NextIs s n 1 ws) (hi : launchIslands (nth ws 2) = []) :
    ∃ t, exec (.launch n) s = .next t ∧ QFailed s t n 6 ∧ PanelOnly s t := by
  obtain ⟨hpo, hq⟩ := next_is_refused h.2.1 6
  refine ⟨_, ?_, hq, hpo⟩
  have hsu : launchSetUp s n ws = (s, .refused) := by
    rw [launchSetUp, hi]
    rfl
  show execLaunch n s = _
  simp only [execLaunch, nextOfType_of_nextIs h, hsu, refusePacket]

/-- What the islands, arguments and pages of a LAUNCH come to where all pass. -/
theorem launchSetUp_ready {s s1 s2 : State} {n : Nat} {ws : List Nat} {args : List Byte} {hs : List (Nat × List Byte)} {w : Bool}
    (hi : launchIslands (nth ws 2) ≠ [])
    (hpl : ∀ i ∈ launchIslands (nth ws 2), i < s.panel.ncount ∧ Machine.stateOf s i (qCtx (queueOf s n)) ≠ .built
      ∧ Machine.stateOf s i (qCtx (queueOf s n)) ≠ .terminated)
    (hlen : nth ws 4 + nth ws 6 ≤ 2 ^ 57) (ha : argBytes s (queueOf s n) (nth ws 5) (nth ws 6) = some args)
    (hh : launchHeaders (qCtx (queueOf s n)) (nth ws 1) s (launchIslands (nth ws 2)) = (s1, some hs, w))
    (hc : checkAllPages (qCtx (queueOf s n)) (nth ws 4) (nth ws 6) s1 hs = (s2, .done)) :
    launchSetUp s n ws = (s2, .ready args hs) := by
  have hplaced : ((launchIslands (nth ws 2)).any fun i => decide (i ≥ s.panel.ncount)
      || !(decide ((ctxOf s i (qCtx (queueOf s n))).state ≠ .built) && decide ((ctxOf s i (qCtx (queueOf s n))).state ≠ .terminated)))
      = false := by
    rw [List.any_eq_false]
    intro i hi
    obtain ⟨hlt, hb, ht⟩ := hpl i hi
    rw [Machine.stateOf] at hb ht
    simp [hb, ht, hlt]
  rw [launchSetUp]
  simp only [hplaced, ha, hh, hc]
  rw [if_neg (by simp only [decide_eq_false hi, Bool.or_false, Bool.false_or, decide_eq_true_eq]; exact not_lt.mpr hlen)]

/-- What a grid of a LAUNCH is when it begins (R346, R352). -/
def GridBegun (s : State) (c : Nat) (ws : List Nat) (args : List Byte) (pkt : Nat) (h : Nat × List Byte) (g : Grid) : Prop :=
  g.state = (if headerStatus s h.1 c h.2 = 0 then .dispatching else .failed)
  ∧ g.island = h.1 ∧ g.ctx = c ∧ g.packet = pkt ∧ g.order = pkt ∧ g.next = 0 ∧ g.live = 0
  ∧ g.nteam = nth ws 3 % 2 ^ 32 ∧ g.kern.toNat = nth ws 3 / 2 ^ 32 % 2 ^ 32
  ∧ g.entry = pcAdd (BitVec.ofNat 57 (nth ws 1)) (hdrWord h.2 8 % 2 ^ 32)
  ∧ g.args = (List.range 8).map fun j => BitVec.ofNat 64 (leNat ((args.drop (8 * j)).take 8))

/-- The status of a header depends on the islands alone. -/
theorem headerStatus_congr {s t : State} (h : t.islands = s.islands) (i c : Nat) (hd : List Byte) :
    headerStatus t i c hd = headerStatus s i c hd := by
  have hi : islOf t i = islOf s i := by rw [islOf, h, islOf]
  have hc : ctxOf t i c = ctxOf s i c := by rw [ctxOf, hi, ctxOf]
  have hs : slotBad t i c hd = slotBad s i c hd := funext fun j => by
    rw [slotBad, descAddr, hi, slotBad, descAddr]
  rw [headerStatus, hc, hs, headerStatus]

theorem gridBegun_beginGrid (s : State) (c : Nat) (ws : List Nat) (args : List Byte) (pkt gk : Nat) (h : Nat × List Byte) :
    ∃ g, beginGrid s c ws args pkt gk h = { s with panel := { s.panel with grids := tblSet s.panel.grids gk g } }
      ∧ GridBegun s c ws args pkt h g := by
  refine ⟨_, rfl, rfl, rfl, rfl, rfl, rfl, rfl, rfl, ?_, ?_, ?_, rfl⟩
  · exact (show bits (nth ws 3) 31 0 = nth ws 3 % 2 ^ 32 by rw [bits, Nat.pow_zero, Nat.div_one])
  · show (bv 32 (bits (nth ws 3) 63 32)).toNat = _
    rw [BitVec.toNat_ofNat]
    exact Nat.mod_mod ..
  · show pcAdd _ (bits (hdrWord h.2 8) 31 0) = _
    rw [bits, Nat.pow_zero, Nat.div_one]

/-- The grids of a LAUNCH begin in order, from the key after the packet's. -/
def beginGrids (c : Nat) (ws : List Nat) (args : List Byte) (pkt : Nat) (s : State) (keys : List (Nat × Nat × List Byte)) : State :=
  keys.foldl (fun s p => beginGrid s c ws args pkt p.1 p.2) s

/-- The keys of the grids of a LAUNCH, from the first. -/
def gridKeys (b : Nat) (hs : List (Nat × List Byte)) (m : Nat) : List (Nat × Nat × List Byte) :=
  (hs.zipIdx m).map fun p => (b + p.2, p.1)

/-- Nothing but the table of grids has changed. -/
def GridsOnly (s t : State) : Prop := t = { s with panel := { s.panel with grids := t.panel.grids } }

theorem gridsOnly_trans {s t u : State} (a : GridsOnly s t) (b : GridsOnly t u) : GridsOnly s u := by
  rw [GridsOnly, b, a]

theorem beginGrids_effects (c : Nat) (ws : List Nat) (args : List Byte) (pkt b : Nat) (hs : List (Nat × List Byte)) (m : Nat)
    (s : State) :
    let t := beginGrids c ws args pkt s (gridKeys b hs m)
    GridsOnly s t
      ∧ (∀ k, k < b + m → tblGet? t.panel.grids k = tblGet? s.panel.grids k)
      ∧ ∀ k h, hs[k]? = some h → ∃ g, tblGet? t.panel.grids (b + m + k) = some g ∧ GridBegun s c ws args pkt h g := by
  induction hs generalizing s m with
  | nil => exact ⟨rfl, fun _ _ => rfl, fun k h hk => by simp at hk⟩
  | cons x hs ih =>
    obtain ⟨g, hg, hbeg⟩ := gridBegun_beginGrid s c ws args pkt (b + m) x
    obtain ⟨hpo, hlow, hin⟩ := ih (m + 1) (beginGrid s c ws args pkt (b + m) x)
    have hgrids : (beginGrid s c ws args pkt (b + m) x).panel.grids = tblSet s.panel.grids (b + m) g := by rw [hg]
    refine ⟨?_, fun k hk => ?_, fun k h hk => ?_⟩
    · exact gridsOnly_trans (by rw [GridsOnly, hg]) hpo
    · refine (hlow k (by omega)).trans ?_
      rw [hgrids]
      exact tblGet?_set_other _ _ (by omega)
    · cases k with
      | zero =>
        obtain rfl : x = h := by simpa using hk
        refine ⟨g, ?_, hbeg⟩
        refine (hlow (b + m) (by omega)).trans ?_
        rw [hgrids]
        exact tblGet?_set_same ..
      | succ k =>
        obtain ⟨g', hg', hb'⟩ := hin k h (by simpa using hk)
        refine ⟨g', ?_, ?_⟩
        · rw [show b + m + (k + 1) = b + (m + 1) + k by omega]
          exact hg'
        · rw [GridBegun, headerStatus_congr (s := s) (by rw [hg])] at hb'
          exact hb'

/-- A LAUNCH whose set-up passes: the first refused header, if any, fails its packet. -/
theorem launchGo_effects {s : State} {n : Nat} {ws : List Nat} {args : List Byte} {hs : List (Nat × List Byte)} {c : Nat}
    (hc : qCtx (queueOf s n) = c) :
    let s3 := hs.foldl (fun s h => (cpWrite s h.1 c (nth ws 4) args).1) s
    let refused := hs.find? fun h => decide (headerStatus s3 h.1 c h.2 ≠ 0)
    let t := launchGo s n ws args hs
    SameMemory s3 t
    ∧ (refused = none → QStarted s3 t n ∧ (tblGet? t.panel.started s3.seq).isSome = true)
    ∧ (∀ h, refused = some h → QEnded s3 t n (0x10 + headerStatus s3 h.1 c h.2) ∧ (queueOf t n).fisl = h.1
      ∧ tblGet? t.panel.started s3.seq = none)
    ∧ ∀ k h, hs[k]? = some h → ∃ g, tblGet? t.panel.grids (s3.seq + 1 + k) = some g ∧ GridBegun s3 c ws args s3.seq h g := by
  intro s3 refused t
  let keys := gridKeys (s3.seq + 1) hs 0
  let u := (beginPacket s3 n ws (keys.map (·.1))).1
  let v := beginGrids c ws args s3.seq { u with seq := u.seq + keys.length } keys
  obtain ⟨hv, -, hgrids⟩ := beginGrids_effects c ws args s3.seq (s3.seq + 1) hs 0 { u with seq := u.seq + keys.length }
  have hbu : Begun s3 u n ws (keys.map (·.1)) := begun_beginPacket ..
  have hv : v = { u with seq := u.seq + keys.length, panel := { u.panel with grids := v.panel.grids } } := hv
  have hisl : v.islands = s3.islands := (congrArg State.islands hv).trans (islands_beginPacket s3 n ws (keys.map (·.1)))
  have hbv : Begun s3 v n ws (keys.map (·.1)) := {
    queue := (congrArg (queueOf · n) hv).trans hbu.queue
    packet := (congrArg (fun x : State => tblGet? x.panel.started s3.seq) hv).trans hbu.packet
    waits := (congrArg (fun x : State => tblGet? x.panel.waits n) hv).trans hbu.waits }
  have hmem : SameMemory s3 v := sameMemory_of_view ((congrArg memView hv).trans (memView_beginPacket s3 n ws (keys.map (·.1))))
  have hbegun : ∀ k h, hs[k]? = some h → ∃ g, tblGet? v.panel.grids (s3.seq + 1 + k) = some g ∧ GridBegun s3 c ws args s3.seq h g := by
    intro k h hk
    obtain ⟨g, hg, hb⟩ := hgrids k h hk
    rw [GridBegun, headerStatus_congr (s := s3) (t := { u with seq := u.seq + keys.length }) (islands_beginPacket s3 n ws (keys.map (·.1)))] at hb
    exact ⟨g, hg, hb⟩
  have ht : t = match hs.filter fun h => headerStatus s3 h.1 c h.2 ≠ 0 with
      | [] => v
      | h :: _ => failPacket v s3.seq (0x10 + headerStatus v h.1 c h.2) h.1 := by
    show launchGo s n ws args hs = _
    rw [launchGo, hc]
    rfl
  have hfind : refused = (hs.filter fun h => decide (headerStatus s3 h.1 c h.2 ≠ 0)).head? := (List.head?_filter ..).symm
  cases hbad : hs.filter fun h => decide (headerStatus s3 h.1 c h.2 ≠ 0) with
  | nil =>
    rw [hbad] at ht hfind
    have ht : t = v := ht
    rw [ht, hfind]
    exact ⟨hmem, fun _ => ⟨hbv.qStarted, by rw [hbv.packet]; rfl⟩, fun h hh => absurd hh nofun, hbegun⟩
  | cons x l =>
    rw [hbad] at ht hfind
    have ht : t = failPacket v s3.seq (0x10 + headerStatus s3 x.1 c x.2) x.1 := by
      rw [ht, ← headerStatus_congr hisl]
    obtain ⟨hend, hfisl, hpo, hgone, -, hkeep⟩ := hbv.fails (0x10 + headerStatus s3 x.1 c x.2) x.1
    rw [← ht] at hend hfisl hpo hgone hkeep
    rw [hfind]
    refine ⟨sameMemory_trans hmem (panelOnly_sameMemory hpo), fun h => absurd h nofun, fun h hh => ?_, ?_⟩
    · obtain rfl : x = h := Option.some.inj hh
      exact ⟨hend, hfisl, hgone⟩
    · rw [hkeep]
      exact hbegun

/-- A LAUNCH whose islands, arguments and pages pass. -/
theorem launch_starts {s s1 s2 : State} {n : Nat} {ws : List Nat} {args : List Byte} {hs : List (Nat × List Byte)} {w : Bool}
    (h : NextIs s n 1 ws) (hi : launchIslands (nth ws 2) ≠ [])
    (hpl : ∀ i ∈ launchIslands (nth ws 2), i < s.panel.ncount ∧ Machine.stateOf s i (qCtx (queueOf s n)) ≠ .built
      ∧ Machine.stateOf s i (qCtx (queueOf s n)) ≠ .terminated)
    (hlen : nth ws 4 + nth ws 6 ≤ 2 ^ 57) (ha : argBytes s (queueOf s n) (nth ws 5) (nth ws 6) = some args)
    (hh : launchHeaders (qCtx (queueOf s n)) (nth ws 1) s (launchIslands (nth ws 2)) = (s1, some hs, w))
    (hc : checkAllPages (qCtx (queueOf s n)) (nth ws 4) (nth ws 6) s1 hs = (s2, .done)) :
    let c := qCtx (queueOf s n)
    let s3 := hs.foldl (fun s h => (cpWrite s h.1 c (nth ws 4) args).1) s2
    let refused := hs.find? fun h => decide (headerStatus s3 h.1 c h.2 ≠ 0)
    ∃ t, exec (.launch n) s = .next t ∧ SameMemory s3 t
    ∧ (refused = none → QStarted s t n ∧ (tblGet? t.panel.started s3.seq).isSome = true)
    ∧ (∀ h, refused = some h → QEnded s t n (0x10 + headerStatus s3 h.1 c h.2) ∧ (queueOf t n).fisl = h.1
      ∧ tblGet? t.panel.started s3.seq = none)
    ∧ ∀ k h, hs[k]? = some h → ∃ g, tblGet? t.panel.grids (s3.seq + 1 + k) = some g ∧ GridBegun s3 c ws args s3.seq h g := by
  intro c s3 refused
  have h1 := samePanel_launchHeaders c (nth ws 1) s (launchIslands (nth ws 2))
  have h2 := samePanel_checkAllPages c (nth ws 4) (nth ws 6) s1 hs
  rw [hh] at h1
  rw [hc] at h2
  have h12 : SamePanel s s2 := samePanel_trans h1 h2
  have h3 : SamePanel s s3 := samePanel_trans h12 (samePanel_foldl (fun _ _ => samePanel_cpWrite ..) hs s2)
  have hq2 : queueOf s2 n = queueOf s n := by rw [queueOf, h12.1, queueOf]
  have hq3 : queueOf s3 n = queueOf s n := by rw [queueOf, h3.1, queueOf]
  obtain ⟨hm, hpass, hfail, hgrids⟩ := launchGo_effects (s := s2) (n := n) (ws := ws) (args := args) (hs := hs) (c := c)
    (congrArg qCtx hq2)
  refine ⟨launchGo s2 n ws args hs, ?_, hm, fun hr => ?_, fun h hr => ?_, hgrids⟩
  · show execLaunch n s = _
    simp only [execLaunch, nextOfType_of_nextIs h, launchSetUp_ready hi hpl hlen ha hh hc]
  · obtain ⟨hst, hk⟩ := hpass hr
    rw [QStarted, hq3] at hst
    exact ⟨hst, hk⟩
  · obtain ⟨hend, hrest⟩ := hfail h hr
    rw [QEnded, hq3] at hend
    exact ⟨hend, hrest⟩

/-! ## O54 -/

/-- What the queue holds of the packet read, by its type. -/
theorem packet_read_clause {s : State} {n : Nat} {ds : List DWord} (hq : chooseQueue s = some n)
    (hn : (queueOf s n).next = none) (hr : readSlot s (queueOf s n) = some ds)
    (ha : acceptStatus s (queueOf s n) (ds.map BitVec.toNat) = 0) : ∃ t, exec .queuePacketRead s = .next t ∧ PanelOnly s t
    ∧ (queueOf t n).next = some ds ∧ (queueOf t n).since = s.panel.ptime ∧ (queueOf t n).head = (queueOf s n).head
    ∧ (packetType (ds.map BitVec.toNat) ≠ 1 → packetType (ds.map BitVec.toNat) ≠ 2 → packetType (ds.map BitVec.toNat) ≠ 6 →
      (queueOf t n).state = .running)
    ∧ (packetType (ds.map BitVec.toNat) = 1 → (queueOf t n).state =
      if launchStarts s n (ds.map BitVec.toNat) = true then .running else .blocked)
    ∧ (packetType (ds.map BitVec.toNat) = 6 → (queueOf t n).state = if startedOf s n = [] then .running else .blocked)
    ∧ (packetType (ds.map BitVec.toNat) = 2 → tblGet? t.panel.waits n = some (watch s (ds.map BitVec.toNat))
      ∧ (queueOf t n).state = if (watch s (ds.map BitVec.toNat)).met = true then .running else .blocked) := by
  obtain ⟨t, hx, hpo, hw, hqt⟩ := packet_is_read hq hn hr ha
  refine ⟨t, hx, hpo, ?_⟩
  rw [hqt, hw]
  generalize ds.map BitVec.toNat = ws
  refine ⟨rfl, rfl, rfl, fun h1 h2 h6 => ?_, fun h1 => ?_, fun h6 => ?_, fun h2 => ?_⟩
  · refine if_pos ?_
    rw [startable]
    split
    · exact absurd ‹_› h1
    · exact absurd ‹_› h2
    · exact absurd ‹_› h6
    · rfl
  · simp only [startable, h1, watched]
    rfl
  · simp only [startable, h6, watched, decide_eq_true_eq]
    rfl
  · refine ⟨?_, ?_⟩
    · rw [watched, if_pos h2]
      exact tblGet?_set_same ..
    · simp only [startable, h2, watched, if_true, tblGet_set_same]

/-- Settles O54: each type of packet by its start, its accesses (which leave the panel as it is) and its end. -/
theorem packetResults : Obligations.PacketResults := by
  unfold Obligations.PacketResults
  refine ⟨fun s hq => ?_, fun s n ds hq hn hr ha => packet_read_clause hq hn hr ha,
    fun s n hq hf hn hr => packet_refused hq hf hn hr, fun s n ds hq hf hn hr ha => packet_not_accepted hq hf hn hr ha,
    fun s n ws h => waitPacket_starts h, fun s n ds hn hty hb hc ht hm hl => waitPacket_late hn hty hb hc ht hm hl,
    waitPacket_not_late, fun s n ws h hp => signal_starts h hp, fun s n ws h => order_starts h, fun s n ws h => copy_starts h,
    fun s n key p s1 bs s2 hq hw hp hr hx => copy_goes_on hq hw hp hr hx, copy_not_due,
    fun s c a n hup ha hm => sideRead_host c hup ha hm, fun s c a bs hup ha => sideWrite_host c hup ha,
    fun s n ws m h hb hm => stamp_enters h hb hm, fun s n ws h hb => stamp_starts h hb,
    fun s n key p s1 hq hw hp hb hx => stamp_goes_on hq hw hp hb hx, fun s n ws h => vcdef_starts h,
    fun s n ws h hi => launch_of_none h hi,
    fun s n ws args s1 hs w s2 h hi hpl hlen ha hh hc => launch_starts h hi hpl hlen ha hh hc, fun pkt s hp => ?_,
    fun pkt p s hp => ?_, fun pkt s p hp ha hd => ?_, fun pkt s p hp ha hf => packet_fails hp ha hf⟩
  · show execQueuePacketRead s = _
    rw [execQueuePacketRead, hq]
  · show execPacketComplete pkt s = _
    rw [execPacketComplete, hp]
  · obtain ⟨hp, ha, hd⟩ := hp
    show execPacketComplete pkt s = _
    simp only [execPacketComplete, hp, ha, hd]
    rfl
  · obtain ⟨hm, -, hgone, -, hc⟩ := completed_packet hp
    exact ⟨_, packet_completes hp ha hd, hm, hgone, hc⟩

end Sys2Proof.Proofs

/-! PROOFS. The virtual caches under change (O52). -/

namespace Sys2Proof.Proofs

open Sys2Proof Sys2Proof.Machine Sys2Proof.Laws

/-! ## What leaves the caches as they are -/

/-- The teams, and the VCs and sectors of every island, are as they were. -/
structure CachesStill (s t : State) : Prop where
  teams : t.teams = s.teams
  vcs : ∀ j, (islOf t j).mem.vcs = (islOf s j).mem.vcs
  sectors : ∀ j, (islOf t j).mem.sectors = (islOf s j).mem.sectors
  present : ∀ j, (tblGet? t.islands j).isSome = (tblGet? s.islands j).isSome

theorem cachesStill_refl (s : State) : CachesStill s s := ⟨rfl, fun _ => rfl, fun _ => rfl, fun _ => rfl⟩

theorem cachesStill_trans {s t u : State} (a : CachesStill s t) (b : CachesStill t u) : CachesStill s u where
  teams := b.teams.trans a.teams
  vcs j := (b.vcs j).trans (a.vcs j)
  sectors j := (b.sectors j).trans (a.sectors j)
  present j := (b.present j).trans (a.present j)

theorem cachesStill_foldl {α : Type} {f : State → α → State} (h : ∀ s x, CachesStill s (f s x)) (l : List α) (s : State) :
    CachesStill s (l.foldl f s) := by
  induction l generalizing s with
  | nil => exact cachesStill_refl s
  | cons x l ih => exact cachesStill_trans (h s x) (ih _)

theorem cachesStill_modIsl {f : Island → Island} (h : ∀ x, (f x).mem.vcs = x.mem.vcs ∧ (f x).mem.sectors = x.mem.sectors)
    (s : State) (i : Nat) : CachesStill s (modIsl s i f) where
  teams := rfl
  vcs j := islOf_modIsl_keeps (g := fun x => x.mem.vcs) (f := f) (fun x => (h x).1) s i j
  sectors j := islOf_modIsl_keeps (g := fun x => x.mem.sectors) (f := f) (fun x => (h x).2) s i j
  present _ := present_modIsl ..

theorem cachesStill_modMem {f : IslandMem → IslandMem} (h : ∀ m, (f m).vcs = m.vcs ∧ (f m).sectors = m.sectors)
    (s : State) (i : Nat) : CachesStill s (modMem s i f) :=
  cachesStill_modIsl (f := fun x => { x with mem := f x.mem }) (fun x => h x.mem) s i

theorem cachesStill_sampleCtx (s : State) (i src c v : Nat) : CachesStill s (sampleCtx s i src c v) := by
  rw [sampleCtx]
  split
  · exact cachesStill_modIsl (f := fun x => { x with monitors := sampleOwned x.monitors src c v }) (fun _ => ⟨rfl, rfl⟩) s i
  · exact cachesStill_refl s

theorem cachesStill_sampleWaits (n : Nat) (s : State) (i src c : Nat) : CachesStill s (sampleWaits s i src c n) := by
  induction n generalizing s with
  | zero => exact cachesStill_refl s
  | succ n ih => exact cachesStill_trans (cachesStill_sampleCtx ..) (ih _)

theorem cachesStill_ctrSeen (i n : Nat) (x : DWord) (s : State) (p : Nat × Group) : CachesStill s (ctrSeen i n x s p) := by
  rw [ctrSeen]
  split
  · exact cachesStill_trans
      (cachesStill_modMem (f := fun m => dropSi m (l1Of p.2.ident.pool p.2.ident.core)) (fun _ => ⟨rfl, rfl⟩) s p.2.ident.island)
      (cachesStill_sampleWaits ..)
  · exact cachesStill_refl s

theorem cachesStill_ctrSet (s : State) (i n : Nat) (x : DWord) : CachesStill s (ctrSet s i n x) := by
  have hput : CachesStill s (ctrPut s i (n % 65536) x) :=
    cachesStill_modIsl (f := fun y => { y with ncs := tblSet y.ncs (n % 65536) x }) (fun _ => ⟨rfl, rfl⟩) s i
  have hseen := cachesStill_foldl (cachesStill_ctrSeen i (n % 65536) x) (ctrPut s i (n % 65536) x).groups (ctrPut s i (n % 65536) x)
  rw [ctrSet_eq]
  obtain ⟨ht, hv, hs, hp⟩ := cachesStill_trans hput hseen
  exact ⟨ht, hv, hs, hp⟩

theorem cachesStill_ctrBump (s : State) (i : Nat) (n : Option Nat) : CachesStill s (ctrBump s i n) := by
  cases n with
  | none => exact cachesStill_refl s
  | some k =>
    rw [ctrBump, ctrAdd]
    split
    · exact cachesStill_ctrSet ..
    · exact cachesStill_trans (cachesStill_modIsl
        (f := fun x => { x with ncClk := tblMod x.ncClk (k % 65536) fun c => joinClock c s.panel.clk }) (fun _ => ⟨rfl, rfl⟩) s i)
        (cachesStill_ctrSet ..)

theorem cachesStill_cdrPut (s : State) (i idx : Nat) (f : Nat → Nat) : CachesStill s (cdrPut s i idx f) :=
  cachesStill_modMem (f := fun m => { m with bytes := memPutNat m.bytes (m.objBase + 64 * idx) (f (cdrBits s i idx)) 64 })
    (fun _ => ⟨rfl, rfl⟩) s i

theorem cachesStill_writeState (s : State) (i v : Nat) : CachesStill s (writeState s i v) := by
  rw [writeState]
  exact cachesStill_cdrPut ..

theorem cachesStill_writeDeckle (s : State) (i v : Nat) : CachesStill s (writeDeckle s i v) := by
  rw [writeDeckle]
  exact cachesStill_cdrPut ..

theorem CachesStill.vcOf {s t : State} (h : CachesStill s t) (i v : Nat) : vcOf (islOf t i).mem v = vcOf (islOf s i).mem v := by
  rw [Machine.vcOf, h.vcs, Machine.vcOf]

/-! ## A VC changed, with the sectors of its island -/

/-- The VC has changed, and the island holds the sectors; no team has. -/
structure CacheChanged (s t : State) (i vn : Nat) (v : Vc) (l : Tbl Sector) : Prop where
  teams : t.teams = s.teams
  present : Present t i
  vc : vcOf (islOf t i).mem vn = v
  sectors : (islOf t i).mem.sectors = l

theorem CacheChanged.still {s t u : State} {i vn : Nat} {v : Vc} {l : Tbl Sector} (h : CacheChanged s t i vn v l)
    (k : CachesStill t u) : CacheChanged s u i vn v l where
  teams := k.teams.trans h.teams
  present := (k.present i).trans h.present
  vc := (k.vcOf i vn).trans h.vc
  sectors := (k.sectors i).trans h.sectors

theorem CacheChanged.modVc {s t : State} {i vn : Nat} {v : Vc} {l : Tbl Sector} (h : CacheChanged s t i vn v l) (hvn : vn ≠ 0)
    (f : Vc → Vc) : CacheChanged s (modVc t i vn f) i vn (f v) l where
  teams := h.teams
  present := (present_modIsl ..).trans h.present
  vc := by
    rw [mem_modVc h.present, Machine.vcOf, if_neg hvn, tblMod, tblGet_set_same, ← h.vc, Machine.vcOf, if_neg hvn]
  sectors := by rw [mem_modVc h.present, h.sectors]

theorem CacheChanged.vcNotify {s t : State} {i vn : Nat} {v : Vc} {l : Tbl Sector} (h : CacheChanged s t i vn v l) (hvn : vn ≠ 0) :
    CacheChanged s (vcNotify t i vn) i vn { v with notify := none } l :=
  (h.modVc hvn fun v => { v with notify := none }).still (cachesStill_ctrBump ..)

/-- The island's sectors change, and no VC does. -/
theorem cacheChanged_modMem {s : State} {i : Nat} {f : IslandMem → IslandMem} (hp : Present s i)
    (h : (f (islOf s i).mem).vcs = (islOf s i).mem.vcs) (vn : Nat) :
    CacheChanged s (modMem s i f) i vn (vcOf (islOf s i).mem vn) (f (islOf s i).mem).sectors where
  teams := rfl
  present := (present_modIsl ..).trans hp
  vc := by rw [memOf_modMem hp, vcOf, h, vcOf]
  sectors := by rw [memOf_modMem hp]

/-- A VC in a state of change is a VC of an island that is there, other than VC 0. -/
theorem present_of_vcState {s : State} {i v : Nat} {x : VcState} (h : (vcOf (islOf s i).mem v).state = x)
    (hu : x ≠ .undefined) (ha : x ≠ .active) : Present s i ∧ v ≠ 0 := by
  constructor
  · cases hp : tblGet? s.islands i with
    | some y => rw [Present, hp]; rfl
    | none =>
      have hisl : islOf s i = default := by rw [islOf, tblGet, hp, Option.getD_none]
      rw [hisl, vcOf] at h
      split at h
      · exact absurd h.symm ha
      · exact absurd h.symm hu
  · rintro rfl
    exact ha h.symm

theorem mem_drainClaim {m : IslandMem} {bs : List Nat} {p : Nat × Sector} (h : p ∈ (drainClaim m bs).sectors) :
    p ∈ m.sectors ∧ (p.2.vc = 0 → bs.contains p.2.bank = false) := by
  obtain ⟨hm, hk⟩ := List.mem_filter.mp h
  refine ⟨hm, fun h0 => ?_⟩
  simpa [h0] using hk

/-! ## O52: the steps of a VC under change -/

theorem claim_drained {s : State} {i v : Nat} (h : (vcOf (islOf s i).mem v).state = .defined) :
    ∃ t, exec (.vcClaimDrained i v) s = .next t
      ∧ (vcOf (islOf t i).mem v).state = .active ∧ (vcOf (islOf t i).mem v).claim = []
      ∧ (∀ p ∈ (islOf t i).mem.sectors, p.2.vc = 0 → (vcOf (islOf s i).mem v).claim.contains p.2.bank = false)
      ∧ ∀ tm, teamOf t tm = teamOf s tm := by
  obtain ⟨hp, hv⟩ := present_of_vcState h nofun nofun
  have hc := (((cacheChanged_modMem (f := fun m => drainClaim m (vcOf (islOf s i).mem v).claim) hp rfl v).modVc hv
    fun v => { v with state := .active, claim := [] }).still (cachesStill_writeState _ i v)).vcNotify hv
  refine ⟨_, ?_, congrArg Vc.state hc.vc, congrArg Vc.claim hc.vc, fun p hp0 => ?_, fun tm => ?_⟩
  · show execVcClaimDrained i v s = _
    rw [execVcClaimDrained, if_pos h]
  · rw [hc.sectors] at hp0
    exact (mem_drainClaim hp0).2
  · rw [teamOf, hc.teams, teamOf]

theorem resize_claim_drained {s : State} {i v : Nat} (h : (vcOf (islOf s i).mem v).state = .resizing)
    (hc : (vcOf (islOf s i).mem v).claim ≠ []) :
    ∃ t, exec (.vcClaimDrained i v) s = .next t ∧ SameMemory s t
      ∧ (vcOf (islOf t i).mem v).state = .resizing ∧ (vcOf (islOf t i).mem v).claim = [] := by
  obtain ⟨hp, hv⟩ := present_of_vcState h nofun nofun
  have hch := (cacheChanged_modMem (f := fun m => drainClaim m (vcOf (islOf s i).mem v).claim) hp rfl v).modVc hv
    fun v => { v with claim := [] }
  refine ⟨_, ?_, ?_, (congrArg Vc.state hch.vc).trans h, congrArg Vc.claim hch.vc⟩
  · show execVcClaimDrained i v s = _
    rw [execVcClaimDrained, if_neg (by rw [h]; exact nofun), if_pos (by rw [h]; simpa using hc)]
  · refine sameMemory_trans (sameMemory_modMem s i (fun m => drainClaim m (vcOf (islOf s i).mem v).claim) fun _ => rfl) ?_
    exact sameMemory_modMem _ i (fun m => { m with vcs := tblMod m.vcs v fun v => { v with claim := [] } }) fun _ => rfl

theorem dropLine_keeps (m : IslandMem) (v l : Nat) : (dropLine m v l).vcs = m.vcs ∧ (dropLine m v l).bytes = m.bytes := ⟨rfl, rfl⟩

theorem bringSectors_keeps (v b line : Nat) (old : Bool) (way : Nat) (js : List Nat) (m : IslandMem) :
    let n := js.foldl (fun m j => bringSector v b line old way (line + j) m) m
    n.vcs = m.vcs ∧ n.bytes = m.bytes := by
  induction js generalizing m with
  | nil => exact ⟨rfl, rfl⟩
  | cons j js ih => exact ih (bringSector v b line old way (line + j) m)

/-- A line brought in changes no VC and no byte. -/
theorem fillLine_keeps (m : IslandMem) (v b l : Nat) : (fillLine m v b l).vcs = m.vcs ∧ (fillLine m v b l).bytes = m.bytes := by
  rw [fillLine]
  dsimp only
  split
  · exact ⟨rfl, rfl⟩
  · have hroom : ∀ bank, (makeRoom m v false bank l).1.vcs = m.vcs ∧ (makeRoom m v false bank l).1.bytes = m.bytes := fun bank => by
      rw [makeRoom]
      dsimp only
      split <;> exact ⟨rfl, rfl⟩
    obtain ⟨hv, hb⟩ := bringSectors_keeps v _ l _ _ (List.range (lineSectors (vcOf m v)))
      { (makeRoom m v false _ l).1 with fills := m.fills + 1 }
    exact ⟨hv.trans (hroom _).1, hb.trans (hroom _).2⟩

theorem sweepLine_bytes (m : IslandMem) (v l tick : Nat) : (sweepLine m v l tick).bytes = m.bytes := by
  rw [sweepLine]
  split
  · exact (fillLine_keeps m v _ l).2
  · rfl

/-- What a sweep leaves of its VC: one line more is moved, or written back. -/
theorem sweepLine_vc {m : IslandMem} {v : Nat} (hv : v ≠ 0) (h : (vcOf m v).state = .resizing) (l tick : Nat) :
    let x := vcOf (sweepLine m v l tick) v
    x.state = .resizing ∧ x.mvs + x.swb = (vcOf m v).mvs + (vcOf m v).swb + 1 := by
  intro x
  have hfill : ∀ b, (fillLine m v b l).vcs = m.vcs := fun b => (fillLine_keeps m v b l).1
  have hget : ∃ y, tblGet? m.vcs v = some y := by
    rw [vcOf, if_neg hv, tblGet] at h
    cases hy : tblGet? m.vcs v with
    | some y => exact ⟨y, rfl⟩
    | none => rw [hy] at h; exact absurd h nofun
  obtain ⟨y, hy⟩ := hget
  have hvc : vcOf m v = y := by rw [vcOf, if_neg hv, tblGet, hy, Option.getD_some]
  have hx : x = { y with mvs := y.mvs + 1 } ∨ x = { y with swb := y.swb + 1 } := by
    show vcOf (sweepLine m v l tick) v = _ ∨ vcOf (sweepLine m v l tick) v = _
    rw [sweepLine, vcOf, if_neg hv]
    split
    · left
      dsimp only
      rw [hfill, tblGet, tblGet?_adj_same, hy]
      rfl
    · right
      dsimp only
      rw [dropLine, tblGet, tblGet?_adj_same, hy]
      rfl
  rw [hvc] at h ⊢
  obtain hx | hx := hx
  · rw [hx]
    exact ⟨h, Nat.add_right_comm ..⟩
  · rw [hx]
    exact ⟨h, rfl⟩

theorem line_swept {s : State} {i v l : Nat} (h : (vcOf (islOf s i).mem v).state = .resizing)
    (hc : (vcOf (islOf s i).mem v).claim = []) (hl : oldLine (islOf s i).mem v = some l) :
    ∃ t, exec (.vcSweepLine i v) s = .next t ∧ SameMemory s t ∧ t.groups = s.groups
      ∧ (vcOf (islOf t i).mem v).state = .resizing
      ∧ (vcOf (islOf t i).mem v).mvs + (vcOf (islOf t i).mem v).swb
        = (vcOf (islOf s i).mem v).mvs + (vcOf (islOf s i).mem v).swb + 1 := by
  obtain ⟨hp, hv⟩ := present_of_vcState h nofun nofun
  obtain ⟨hst, hn⟩ := sweepLine_vc hv h l s.tick
  refine ⟨modMem s i fun m => sweepLine m v l s.tick, ?_, sameMemory_modMem s i (fun m => sweepLine m v l s.tick) fun m => ?_,
    rfl, ?_⟩
  · show execVcSweepLine i v s = _
    rw [execVcSweepLine, if_pos (by rw [h, hc]; rfl), hl]
  · exact sweepLine_bytes m v l s.tick
  · rw [memOf_modMem hp]
    exact ⟨hst, hn⟩

/-- The record of a VC whose resize has ended. -/
def resized (v : Vc) : Vc :=
  { v with state := if v.deckle ≠ [] || !v.hadShare then .active else .failed, oldMap := [], owed := [] }

theorem resize_ends {s : State} {i v : Nat} (h : (vcOf (islOf s i).mem v).state = .resizing)
    (hc : (vcOf (islOf s i).mem v).claim = []) (hl : oldLine (islOf s i).mem v = none) :
    ∃ t, exec (.vcResizeEnd i v) s = .next t
      ∧ (vcOf (islOf t i).mem v).state = (if (vcOf (islOf s i).mem v).deckle ≠ [] ∨ (vcOf (islOf s i).mem v).hadShare = false
        then .active else .failed)
      ∧ (vcOf (islOf t i).mem v).deckle = (vcOf (islOf s i).mem v).deckle ∧ (vcOf (islOf t i).mem v).oldMap = []
      ∧ ∀ tm, teamOf t tm = teamOf s tm := by
  obtain ⟨hp, hv⟩ := present_of_vcState h nofun nofun
  have hch := ((((cacheChanged_modMem (f := fun m => drainClaim m (vcOf (islOf s i).mem v).owed) hp rfl v).modVc hv
    fun x => { x with state := (resized (vcOf (islOf s i).mem v)).state, oldMap := [], owed := [] }).still
      (cachesStill_writeDeckle _ i v)).still (cachesStill_writeState _ i v)).vcNotify hv
  have hx : exec (.vcResizeEnd i v) s = .next (vcNotify (writeState (writeDeckle
      (modVc (modMem s i fun m => drainClaim m (vcOf (islOf s i).mem v).owed) i v fun x =>
        { x with state := (resized (vcOf (islOf s i).mem v)).state, oldMap := [], owed := [] }) i v) i v) i v) := by
    show execVcResizeEnd i v s = _
    rw [execVcResizeEnd]
    dsimp only
    rw [if_pos (by rw [h, hc, hl]; rfl)]
    rfl
  have hvc := hch.vc
  have ht := hch.teams
  generalize vcNotify (writeState (writeDeckle
      (modVc (modMem s i fun m => drainClaim m (vcOf (islOf s i).mem v).owed) i v fun x =>
        { x with state := (resized (vcOf (islOf s i).mem v)).state, oldMap := [], owed := [] }) i v) i v) i v = t at hvc ht hx
  refine ⟨t, hx, ?_, ?_, ?_, fun tm => by rw [teamOf, ht, teamOf]⟩
  · rw [hvc]
    simp only [resized, Bool.or_eq_true, decide_eq_true_eq, Bool.not_eq_true']
  · rw [hvc]
  · rw [hvc]

theorem drain_starts {s : State} {i v : Nat} (h : (vcOf (islOf s i).mem v).state = .draining)
    (hd : (vcOf (islOf s i).mem v).draining = false) (hq : vcQuiet s i v (vcOf (islOf s i).mem v).before = true) :
    ∃ t, exec (.vcDrainStart i v) s = .next t ∧ SameMemory s t
      ∧ (vcOf (islOf t i).mem v).state = .draining ∧ (vcOf (islOf t i).mem v).draining = true := by
  obtain ⟨hp, hv⟩ := present_of_vcState h nofun nofun
  have hch := vcChanged_modVc hp hv fun v => { v with draining := true }
  refine ⟨_, ?_, ?_, (congrArg Vc.state hch.changed).trans h, congrArg Vc.draining hch.changed⟩
  · show execVcDrainStart i v s = _
    rw [execVcDrainStart, if_pos (by rw [h, hd, hq]; rfl)]
  · exact sameMemory_modMem _ i (fun m => { m with vcs := tblMod m.vcs v fun v => { v with draining := true } }) fun _ => rfl

theorem drain_ends {s : State} {i v : Nat} (h : (vcOf (islOf s i).mem v).state = .draining)
    (hd : (vcOf (islOf s i).mem v).draining = true) :
    ∃ t, exec (.vcDrainEnd i v) s = .next t ∧ (vcOf (islOf t i).mem v).state = .retired
      ∧ (vcOf (islOf t i).mem v).deckle = [] ∧ (∀ p ∈ (islOf t i).mem.sectors, p.2.vc ≠ v) ∧ ∀ tm, teamOf t tm = teamOf s tm := by
  obtain ⟨hp, hv⟩ := present_of_vcState h nofun nofun
  have hch := (((cacheChanged_modMem (f := fun m => drainClaim { m with sectors := m.sectors.filter fun p => p.2.vc ≠ v }
    (vcBanks (vcOf (islOf s i).mem v))) hp rfl v).modVc hv fun x =>
      { x with state := .retired, deckle := [], oldMap := [], claim := [], owed := [], draining := false }).still
      (cachesStill_writeState _ i v)).vcNotify hv
  refine ⟨_, ?_, congrArg Vc.state hch.vc, congrArg Vc.deckle hch.vc, fun p hp0 => ?_, fun tm => ?_⟩
  · show execVcDrainEnd i v s = _
    rw [execVcDrainEnd, if_pos (by rw [h, hd]; rfl)]
  · rw [hch.sectors] at hp0
    exact of_decide_eq_true (List.mem_filter.mp (mem_drainClaim hp0).1).2
  · rw [teamOf, hch.teams, teamOf]

/-- Settles O52: each step of a VC is one change of its record, beside sectors dropped and its record written; the counter that
is told leaves the caches as they are. -/
theorem cacheEventResults : Obligations.CacheEventResults := by
  unfold Obligations.CacheEventResults
  refine ⟨fun i v s h => claim_drained h, fun i v s h hc => resize_claim_drained h hc, fun i v s ⟨hd, hr⟩ => ?_,
    fun i v s l h hc hl => line_swept h hc hl, fun i v s h => ?_, fun i v s h hc hl => resize_ends h hc hl, fun i v s h => ?_,
    fun i v s h hd hq => drain_starts h hd hq, fun i v s h => ?_, fun i v s h hd => drain_ends h hd, fun i v s h => ?_⟩
  · show execVcClaimDrained i v s = _
    rw [execVcClaimDrained, if_neg hd, if_neg (by simpa [imp_iff_not_or] using hr)]
  · show execVcSweepLine i v s = _
    rw [execVcSweepLine]
    rcases h with h | h | h
    · rw [if_neg (by simp [h])]
    · rw [if_neg (by simp [h])]
    · rw [h]
      exact ite_self _
  · show execVcResizeEnd i v s = _
    rw [execVcResizeEnd]
    dsimp only
    rw [if_neg]
    rcases h with h | h | h
    · simp [h]
    · simp [h]
    · simp [h]
  · show execVcDrainStart i v s = _
    rw [execVcDrainStart, if_neg]
    rcases h with h | h | h
    · simp [h]
    · simp [h]
    · simp [h]
  · show execVcDrainEnd i v s = _
    rw [execVcDrainEnd, if_neg]
    rcases h with h | h
    · simp [h]
    · simp [h]

end Sys2Proof.Proofs

/-! PROOFS. Errors, monitors, power and clock (O59). -/

namespace Sys2Proof.Proofs

open Sys2Proof Sys2Proof.Machine Sys2Proof.Laws

/-! ## O59: an error in an owned dirty copy wakes the groups that wait for a VC -/

/-- Sector 0 stands in VC 1 and is owned and dirty in an L1; a fragment of a group waits. -/
def copyStruck : State :=
  { (default : State) with
    islands := [(0, { mem := { home := [(0, { ownl := some 0, wrote := true })], sectors := [(0, { vc := 1 })] } })]
    groups := [(0, { frags := [{ waiting := true }] })] }

theorem copyStruck_exec : exec (.uncorrectableError 0 (.copy 0 0)) copyStruck = .next (copyError copyStruck 0 0 0) := rfl

/-- The sector is poisoned, its VC says so, and every group that waits for a VC offers its access again. -/
theorem copyStruck_wakes : (copyError copyStruck 0 0 0).groups = [(0, { frags := [{ waiting := false }] })] := rfl

/-- Refutes O59: where the copy's sector stands in a VC other than VC 0, its record's PSN is set, and with that change every
waiting fragment is woken, so the groups are not as they were. -/
theorem not_healthEventResults : ¬ Obligations.HealthEventResults := by
  unfold Obligations.HealthEventResults
  rintro ⟨-, -, -, -, -, -, -, -, -, hcopy, -⟩
  obtain ⟨t, ht, -, -, -, hgroups, -⟩ := hcopy 0 0 0 copyStruck rfl rfl
  rw [copyStruck_exec] at ht
  obtain rfl : copyError copyStruck 0 0 0 = t := Host.Outcome.next.inj ht
  rw [copyStruck_wakes] at hgroups
  exact absurd (congrArg (fun l => l.map fun p => p.2.frags.map (·.waiting)) hgroups) (by decide)

end Sys2Proof.Proofs

/-! PROOFS. Events of an island's memory (O51). -/

namespace Sys2Proof.Proofs

open Sys2Proof Sys2Proof.Machine Sys2Proof.Laws

/-! ## O51: an error in a bank that does not fail it wakes the groups that wait for a VC -/

theorem bankStruck_exec : exec (.bankFailure 0 0 [0]) copyStruck = .next (noteErrors copyStruck 0 0 [0]) := rfl

theorem bankStruck_wakes : (noteErrors copyStruck 0 0 [0]).groups = [(0, { frags := [{ waiting := false }] })] := rfl

/-- Refutes O51: an error in a bank that it does not fail poisons the sector; where that sector stands in a VC other than VC 0, the
VC's record changes and every waiting fragment is woken, so the groups are not as they were. -/
theorem not_memoryEventResults : ¬ Obligations.MemoryEventResults := by
  unfold Obligations.MemoryEventResults
  rintro ⟨-, -, -, -, -, -, -, -, -, -, -, -, hbank, -⟩
  obtain ⟨t, ht, -, -, -, hgroups, -⟩ := hbank 0 0 [0] copyStruck rfl rfl
  rw [bankStruck_exec] at ht
  obtain rfl : noteErrors copyStruck 0 0 [0] = t := Host.Outcome.next.inj ht
  rw [bankStruck_wakes] at hgroups
  exact absurd (congrArg (fun l => l.map fun p => p.2.frags.map (·.waiting)) hgroups) (by decide)

end Sys2Proof.Proofs

/-! PROOFS. Links (O55). -/

namespace Sys2Proof.Proofs

open Sys2Proof Sys2Proof.Machine Sys2Proof.Laws

/-! ## O55: a Retraining port that also bears the mark of a relock under a fence -/

/-- A Retraining port whose `relock` is set too, with a flit that has gone out again seven times. -/
def relockTwice : State :=
  { (default : State) with
    islands := [(0, { ports := [(0, { state := .retraining, relock := true, since := 1, buffer := [{ replays := 7 }] })] })] }

theorem relockTwice_exec : exec (.linkRelock 0 0) relockTwice = .next (relockLink relockTwice 0 0) := rfl

/-- The port comes Up, still marked, and the eighth replay triggers nothing more at it. -/
theorem relockTwice_up : (portOf (relockLink relockTwice 0 0) 0 0).state = .up := rfl

/-- Refutes O55: at a port that is Retraining and bears `relock` as well, the relock brings the port Up and leaves the mark, so
that the trigger of the eighth replay, which a mark under way keeps out, does not take it back to Retraining. -/
theorem not_linkResults : ¬ Obligations.LinkResults := by
  unfold Obligations.LinkResults
  rintro ⟨-, -, -, -, -, -, -, -, -, hrelock, -⟩
  obtain ⟨t, ht, -, -, -, -, heighth⟩ := hrelock 0 0 relockTwice rfl rfl (by decide) rfl (by decide)
  rw [relockTwice_exec] at ht
  obtain rfl : relockLink relockTwice 0 0 = t := Host.Outcome.next.inj ht
  obtain ⟨-, hretrains, -⟩ := heighth ⟨{ replays := 7 }, List.mem_singleton.2 rfl, rfl, Nat.le_refl 7⟩
  exact absurd (relockTwice_up.symm.trans (hretrains rfl)) (by decide)

end Sys2Proof.Proofs

/-! PROOFS. Boot, attestation and the commands of the field section (O60). -/

namespace Sys2Proof.Proofs

open Sys2Proof Sys2Proof.Machine Sys2Proof.Laws

/-! ## Light and express ports -/

/-- What light goes by: the islands' places and matrices, those of sites without power, and the glass. -/
def lightMap (s : State) : List (Nat × Nat × Matrix) × Tbl Matrix × Tbl GlassEnd :=
  (s.islands.map fun p => (p.1, p.2.site, p.2.matrix), s.panel.matrices, s.panel.glass)

theorem find?_island (s : State) (site : Nat) :
    (s.islands.map fun p => (p.1, p.2.site, p.2.matrix)).find? (fun x => x.2.1 = site)
      = (s.islands.find? fun p => p.2.site = site).map fun p => (p.1, p.2.site, p.2.matrix) := by
  rw [List.find?_map]
  rfl

theorem matrixAt_eq (s : State) (site : Nat) : matrixAt s site
    = (((lightMap s).1.find? fun x => x.2.1 = site).map (·.2.2)).getD (tblGet (lightMap s).2.1 site) := by
  rw [lightMap, find?_island, matrixAt]
  cases s.islands.find? fun p => p.2.site = site <;> rfl

theorem islandAt_eq (s : State) (site : Nat) : islandAt s site = ((lightMap s).1.find? fun x => x.2.1 = site).map (·.1) := by
  rw [lightMap, find?_island, islandAt, Option.map_map]
  rfl

theorem matrixAt_congr {s t : State} (h : lightMap t = lightMap s) : matrixAt t = matrixAt s := by
  funext site
  rw [matrixAt_eq, matrixAt_eq, h]

/-- Where light leads follows from what it goes by. -/
theorem lightEnds_congr {s t : State} (h : lightMap t = lightMap s) (site port : Nat) :
    lightEnds t site port = lightEnds s site port := by
  have hglass : t.panel.glass = s.panel.glass := congrArg (fun x => x.2.2) h
  have hisl : islandAt t = islandAt s := by
    funext site
    rw [islandAt_eq, islandAt_eq, h]
  rw [lightEnds, lightEnds, matrixAt_congr h, hglass, hisl]

/-- The ports of an island with the express ports changed. -/
def expressPorts (s : State) (f : Nat → Nat → Option Nat × Option (Nat × Nat) → Port → Port) (x : Island) : Tbl Port :=
  x.ports.map fun q => (q.1, if q.1 < 4 then q.2 else f x.site q.1 (lightEnds s x.site q.1) q.2)

/-- An island with its express ports changed. -/
def withExpress (s : State) (f : Nat → Nat → Option Nat × Option (Nat × Nat) → Port → Port) (x : Island) : Island :=
  { x with ports := expressPorts s f x }

theorem modExpress_islands (s : State) (f : Nat → Nat → Option Nat × Option (Nat × Nat) → Port → Port) :
    (modExpress s f).islands = s.islands.map fun p => (p.1, withExpress s f p.2) := by
  refine List.map_congr_left fun p _ => ?_
  refine congrArg (fun t => (p.1, { p.2 with ports := t })) (List.map_congr_left fun q _ => ?_)
  obtain ⟨d, x⟩ := q
  by_cases hd : d < 4
  · simp [hd]
  · simp [hd]

theorem lightMap_modExpress (s : State) (f : Nat → Nat → Option Nat × Option (Nat × Nat) → Port → Port) :
    lightMap (modExpress s f) = lightMap s := by
  refine Prod.ext ?_ rfl
  show (modExpress s f).islands.map _ = _
  rw [modExpress_islands, List.map_map]
  rfl

/-- An island of a table of islands changed one by one. -/
theorem islOf_map {s t : State} {g : Island → Island} (h : t.islands = s.islands.map fun p => (p.1, g p.2)) {i : Nat}
    (hp : Present s i) : islOf t i = g (islOf s i) := by
  obtain ⟨x, hx⟩ := Option.isSome_iff_exists.1 hp
  rw [islOf, islOf, tblGet, tblGet, h, tblGet?_map, hx]
  rfl

theorem port?_modExpress (s : State) (f : Nat → Nat → Option Nat × Option (Nat × Nat) → Port → Port) {i : Nat} (hp : Present s i)
    (d : Nat) : tblGet? (islOf (modExpress s f) i).ports d = (tblGet? (islOf s i).ports d).map fun x =>
      if d < 4 then x else f (islOf s i).site d (lightEnds s (islOf s i).site d) x := by
  rw [islOf_map (modExpress_islands s f) hp]
  exact tblGet?_mapKey _ (fun d x => if d < 4 then x else f (islOf s i).site d (lightEnds s (islOf s i).site d) x) d

theorem island?_modExpress_none (s : State) (f : Nat → Nat → Option Nat × Option (Nat × Nat) → Port → Port) {i : Nat}
    (h : tblGet? s.islands i = none) : tblGet? (modExpress s f).islands i = none := by
  rw [modExpress_islands, tblGet?_map, h]
  rfl

theorem portOf_of_some {s : State} {i d : Nat} {x : Port} (h : tblGet? (islOf s i).ports d = some x) : portOf s i d = x := by
  rw [portOf, tblGet, h, Option.getD_some]

/-- An express port of an island that has it. -/
theorem portOf_modExpress (s : State) (f : Nat → Nat → Option Nat × Option (Nat × Nat) → Port → Port) {i d : Nat}
    (hp : Present s i) (hd : 4 ≤ d) (hq : (tblGet? (islOf s i).ports d).isSome = true) :
    portOf (modExpress s f) i d = f (islOf s i).site d (lightEnds s (islOf s i).site d) (portOf s i d) := by
  obtain ⟨x, hx⟩ := Option.isSome_iff_exists.1 hq
  rw [portOf_of_some hx, portOf_of_some (i := i) (x := f _ _ _ x)]
  rw [port?_modExpress s f hp, hx, Option.map_some, if_neg (by omega)]

/-! ## The stages of boot -/

theorem bootOn_of_booting {f : BootFindings} {s : State} {k : Nat} (h : Booting s f k) (hk : k ≠ 6) :
    bootOn s = withPanel (bootStage { found := f, stage := k } s)
      { (bootStage { found := f, stage := k } s).panel with
        boot := (bootStage { found := f, stage := k } s).panel.boot.map fun r => { r with stage := r.stage + 1 } } := by
  unfold bootOn
  rw [show s.panel.boot = some { found := f, stage := k } from h]
  simp [hk, withPanel]

theorem bootStage_firmware {f : BootFindings} {s : State} (h : Booting s f 0) : bootOn s = withPanel s
      (if f.fw0 = false ∧ f.fw1 = false then { s.panel with phase := 0xFF, error := 1, boot := none }
       else nextStage f 0 { s.panel with phase := 1, single := !(f.fw0 && f.fw1), active := if f.fw0 = true then 0 else 1 }) := by
  rw [bootOn_of_booting h (by omega)]
  have hboot : s.panel.boot = some { found := f, stage := 0 } := h
  by_cases hfw : f.fw0 = false ∧ f.fw1 = false
  · simp [bootStage, bootFirmware, haltBoot, hfw, withPanel]
  · simp [bootStage, bootFirmware, hfw, withPanel, nextStage, hboot]

theorem bootStage_store {f : BootFindings} {s : State} (h : Booting s f 1) : bootOn s = withPanel s
      (if f.factoryOk = false then { s.panel with phase := 0xFF, error := 2, boot := none }
       else if f.fieldOk = false then nextStage f 1 { s.panel with
         phase := 2, error := 4, rejected := true, number := 0, store := factoryOnly s.panel.store, shelved := some s.panel.store }
       else nextStage f 1 { s.panel with phase := 2, error := 0, rejected := false, number := s.panel.store.number, shelved := none }) := by
  rw [bootOn_of_booting h (by omega)]
  have hboot : s.panel.boot = some { found := f, stage := 1 } := h
  cases hok : f.factoryOk
  · simp [bootStage, bootStore, haltBoot, hok, withPanel]
  · cases hfield : f.fieldOk
    · simp [bootStage, bootStore, hok, hfield, storeInUse, withPanel, nextStage, hboot, factoryOnly]
    · simp [bootStage, bootStore, hok, hfield, storeInUse, withPanel, nextStage, hboot]

theorem tblGet?_ofRange {α : Type} (f : Nat → α) (n m p : Nat) :
    tblGet? ((List.range' m n).map fun p => (p, f p)) p = if m ≤ p ∧ p < m + n then some (f p) else none := by
  induction n generalizing m with
  | zero =>
    rw [if_neg (by omega)]
    rfl
  | succ n ih =>
    rw [List.range'_succ, List.map_cons, tblGet?]
    split
    next he => rw [if_pos (by omega), he]
    next hne =>
      rw [ih]
      by_cases hin : m + 1 ≤ p ∧ p < m + 1 + n
      · rw [if_pos hin, if_pos (by omega)]
      · rw [if_neg hin, if_neg (by omega)]

theorem tblGet_allSites (f : Nat → Site) {p : Nat} (hp : p < 64) : tblGet (allSites f) p = f p := by
  rw [tblGet, allSites, List.range_eq_range', tblGet?_ofRange, if_pos (by omega), Option.getD_some]

theorem siteFound_state (v : Survey) (st : SiteState) (p : Nat) : (siteFound v st p).state =
    if p ∉ v.store.populated then .unpopulated
    else if probed v p = true then st else .disabled := by
  unfold siteFound
  by_cases hpop : p ∈ v.store.populated
  · by_cases hpr : probed v p = true
    · simp [hpop, hpr]
    · simp [hpop, hpr]
  · simp [hpop]

theorem probed_iff (v : Survey) (p : Nat) :
    probed v p = true ↔ p ∈ v.store.populated ∧ p ∉ v.store.disabled ∧ p ∉ v.store.sites := by
  simp [probed, and_assoc]

theorem bootStage_probe {f : BootFindings} {s : State} (h : Booting s f 2) :
    let t := bootOn s
    Booting t f 3 ∧ PanelOnly s t ∧ t.panel.phase = 3 ∧ t.panel.store = s.panel.store
    ∧ ∀ p, p < 64 → (tblGet t.panel.sites p).state =
      if p ∉ s.panel.store.populated then .unpopulated
      else if p ∈ s.panel.store.disabled ∨ p ∈ s.panel.store.sites then .disabled else .probing := by
  rw [bootOn_of_booting h (by omega)]
  have hboot : s.panel.boot = some { found := f, stage := 2 } := h
  refine ⟨?_, rfl, rfl, rfl, fun p hp => ?_⟩
  · show Option.map _ s.panel.boot = _
    rw [hboot]
    rfl
  · show (tblGet (allSites _) p).state = _
    rw [tblGet_allSites _ hp, siteFound_state]
    simp only [probed_iff]
    by_cases hpop : p ∈ s.panel.store.populated
    · by_cases hdis : p ∈ s.panel.store.disabled ∨ p ∈ s.panel.store.sites
      · rw [if_neg (not_not_intro hpop), if_pos hdis, if_neg (by tauto), if_neg (not_not_intro hpop)]
      · rw [if_neg (not_not_intro hpop), if_neg hdis, if_pos (by tauto), if_neg (not_not_intro hpop)]
    · rw [if_pos hpop, if_pos hpop]

theorem mem_appendNew {α : Type} [DecidableEq α] (l new : List α) (x : α) : x ∈ appendNew l new ↔ x ∈ l ∨ x ∈ new := by
  simp only [appendNew, List.mem_append, List.mem_filter, Bool.not_eq_true', List.contains_eq_mem, decide_eq_false_iff_not]
  tauto

/-- The reasons that a store records decide nothing about a site. -/
theorem healthySite_reasons (st : Store) (f : BootFindings) (r : List (Nat × QuarantineReason)) (p : Nat) :
    healthySite { store := { st with reasons := r }, found := f } p = healthySite { store := st, found := f } p := rfl

theorem bootStage_probed {f : BootFindings} {s : State} (h : Booting s f 3) :
    let t := bootOn s
    let v : Survey := { store := t.panel.store, found := f }
    Booting t f 4 ∧ PanelOnly s t ∧ t.panel.phase = 4
    ∧ (∀ b, b ∈ t.panel.store.banks ↔ b ∈ s.panel.store.banks ∨ b ∈ f.banks)
    ∧ (∀ q, q ∈ t.panel.store.ports ↔ q ∈ s.panel.store.ports ∨ q ∈ f.ports)
    ∧ ∀ p, p < 64 → probed v p = true → if healthySite v p = true then (tblGet t.panel.sites p).state = .probing
      else (tblGet t.panel.sites p).state = .quarantined ∧ (p, QuarantineReason.notHealthy) ∈ t.panel.store.reasons := by
  rw [bootOn_of_booting h (by omega)]
  have hboot : s.panel.boot = some { found := f, stage := 3 } := h
  refine ⟨?_, rfl, rfl, fun b => mem_appendNew _ _ b, fun q => mem_appendNew _ _ q, fun p hp hprobed => ?_⟩
  · show Option.map _ s.panel.boot = _
    rw [hboot]
    rfl
  · let st : Store :=
      { s.panel.store with banks := appendNew s.panel.store.banks f.banks, ports := appendNew s.panel.store.ports f.ports }
    let v : Survey := { store := st, found := f }
    have hpr : probed v p = true := hprobed
    show if healthySite v p = true then (tblGet (allSites (siteProbed v)) p).state = _
      else (tblGet (allSites (siteProbed v)) p).state = _ ∧ _ ∈ appendNew _ _
    rw [tblGet_allSites _ hp]
    by_cases hh : healthySite v p = true
    · rw [if_pos hh, siteProbed, hh, Bool.not_true, Bool.and_false, if_neg (by simp), siteFound_state,
        if_neg (by simpa using ((probed_iff v p).1 hpr).1), if_pos hpr]
    · rw [if_neg hh, siteProbed]
      rw [Bool.not_eq_true] at hh
      refine ⟨by rw [hpr, hh]; rfl, (mem_appendNew _ _ _).2 (.inr ?_)⟩
      simp only [reasonsOf, List.mem_map, List.mem_filter, List.mem_range]
      exact ⟨p, ⟨⟨hp, by rw [hh]; rfl⟩, hpr⟩, rfl⟩

/-! ## Healthy sites and their numbering -/

/-- Where at least k of n numbers pass a test, at most n − k fail it. -/
theorem failing_le (p : Nat → Bool) {n k : Nat} (h : k ≤ ((List.range n).filter fun q => !p q).length) :
    ((List.range n).filter p).length ≤ n - k := by
  have hsum := (List.range n).length_eq_length_filter_add p
  rw [List.length_range] at hsum
  omega

theorem healthySite_spec {v : Survey} {p : Nat} (h : healthySite v p = true) :
    p ∈ v.store.populated ∧ p ∉ v.store.disabled ∧ p ∉ v.store.sites
    ∧ ((List.range 66).filter (quadBad v.store p)).length ≤ 2 ∧ (∀ h ∈ v.found.hbm, h.1 ≠ p) ∧ (∀ u ∈ v.found.ucie, u.1 ≠ p)
    ∧ ((List.range 18).filter (rowBad v.store p)).length ≤ 2 ∧ ∀ d, d < 12 → guidesCovered v.store p d = true := by
  simp only [healthySite, Bool.and_eq_true, decide_eq_true_eq, List.all_eq_true, List.mem_range] at h
  obtain ⟨⟨⟨⟨hprobed, hquads⟩, hhbm⟩, hguides, hrows⟩, hucie⟩ := h
  obtain ⟨hpop, hdis, hsites⟩ := (probed_iff v p).1 hprobed
  exact ⟨hpop, hdis, hsites, failing_le _ hquads, hhbm, hucie, failing_le _ hrows, hguides⟩

theorem probed_of_healthy {v : Survey} {p : Nat} (h : healthySite v p = true) : probed v p = true := by
  obtain ⟨hpop, hdis, hsites, -⟩ := healthySite_spec h
  exact (probed_iff v p).2 ⟨hpop, hdis, hsites⟩

theorem joined_healthy {v : Survey} {p q : Nat} (h : q ∈ joined v p) : healthySite v q = true := by
  obtain ⟨d, -, hd⟩ := List.mem_filterMap.1 h
  split at hd
  · exact (Option.filter_eq_some_iff.1 hd).2
  · exact absurd hd (by simp)

theorem spread_healthy (v : Survey) (n : Nat) (seen front : List Nat) (h : ∀ p ∈ seen, healthySite v p = true) :
    ∀ p ∈ spread v n seen front, healthySite v p = true := by
  induction n generalizing seen front with
  | zero => exact h
  | succ n ih =>
    cases front with
    | nil => exact h
    | cons a front =>
      refine ih _ _ fun p hp => ?_
      rcases List.mem_append.1 hp with hseen | hnew
      · exact h p hseen
      · obtain ⟨q, -, hq⟩ := List.mem_flatMap.1 (List.mem_eraseDups.1 (List.mem_filter.1 hnew).1)
        exact joined_healthy hq

theorem component_healthy {v : Survey} {p : Nat} (h : healthySite v p = true) : ∀ q ∈ component v p, healthySite v q = true :=
  spread_healthy v 64 [p] [p] fun q hq => by rw [List.mem_singleton.1 hq, h]

/-- The choice of a set keeps what holds of every component it may take. -/
theorem chosenSet_healthy (v : Survey) : ∀ p ∈ chosenSet v, healthySite v p = true := by
  refine List.foldlRecOn (motive := fun best : List Nat => ∀ p ∈ best, healthySite v p = true) _ _ (by simp) ?_
  intro best hbest q hq
  dsimp only
  split
  · exact component_healthy (List.mem_filter.1 hq).2
  · exact hbest

theorem mem_numbering {v : Survey} {p : Nat} : p ∈ numbering v ↔ p < 64 ∧ p ∈ chosenSet v := by
  simp [numbering]

theorem numbering_ascends (v : Survey) : (numbering v).Pairwise (· < ·) := List.Pairwise.filter _ List.pairwise_lt_range

theorem numbering_healthy {v : Survey} {p : Nat} (h : p ∈ numbering v) : p < 64 ∧ healthySite v p = true :=
  ⟨(mem_numbering.1 h).1, chosenSet_healthy v p (mem_numbering.1 h).2⟩

/-- The place of an entry of a list without repetition. -/
theorem findIdx?_getD {l : List Nat} (hnd : l.Nodup) {n : Nat} (hn : n < l.length) :
    l.findIdx? (· = l.getD n 0) = some n := by
  rw [List.getD_eq_getElem _ 0 hn, List.findIdx?_eq_some_iff_getElem]
  refine ⟨hn, decide_eq_true rfl, fun j hj => ?_⟩
  have hne : l[j] ≠ l[n] := fun he => absurd ((List.Nodup.getElem_inj_iff hnd).1 he) (by omega)
  simpa using hne

theorem siteAfter_outside {v : Survey} {ns : List Nat} {p : Nat} (h : p ∉ ns) :
    siteAfter v ns p = siteFound v .quarantined p := by
  have hnone : ns.findIdx? (· = p) = none := List.findIdx?_eq_none_iff.2 fun x hx => by
    simpa using fun he : x = p => h (he ▸ hx)
  rw [siteAfter, hnone]

theorem siteAfter_inside {v : Survey} {ns : List Nat} (hnd : ns.Nodup) {n : Nat} (hn : n < ns.length) :
    siteAfter v ns (ns.getD n 0) = { state := .ready, logical := some n } := by
  rw [siteAfter, findIdx?_getD hnd hn]

/-- A table made of a list, each entry under its place. -/
theorem tblGet?_zipIdx {α : Type} (f : Nat → Nat → α) (l : List Nat) (m n : Nat) :
    tblGet? ((l.zipIdx m).map fun x => (x.2, f x.2 x.1)) n
      = if m ≤ n ∧ n < m + l.length then some (f n (l.getD (n - m) 0)) else none := by
  induction l generalizing m with
  | nil =>
    rw [if_neg (by simp)]
    rfl
  | cons a l ih =>
    rw [List.zipIdx_cons, List.map_cons, tblGet?]
    dsimp only
    split
    next he =>
      subst he
      rw [if_pos (by simp), Nat.sub_self, List.getD_cons_zero]
    next hne =>
      rw [ih]
      by_cases hin : m + 1 ≤ n ∧ n < m + 1 + l.length
      · rw [if_pos hin, if_pos (by rw [List.length_cons]; omega), show n - m = n - (m + 1) + 1 by omega, List.getD_cons_succ]
      · rw [if_neg hin, if_neg (by rw [List.length_cons]; omega)]

/-! ## Numbering the islands (R23, R451) -/

/-- The survey that numbering goes by. -/
def surveyOf (f : BootFindings) (s : State) : Survey := { store := s.panel.store, found := f }

/-- The store once the sites are numbered. -/
def numberedStore (f : BootFindings) (s : State) : Store :=
  let v := surveyOf f s
  let ns := numbering v
  { s.panel.store with
    reasons := appendNew s.panel.store.reasons
      (reasonsOf v .unreachable ((List.range 64).filter fun p => healthySite v p && !ns.contains p))
    wear := ns.foldl (fun w p => storeWear p (crossed20 (keptMatrix s v p) (bootMatrix s v ns p)) w) s.panel.store.wear }

/-- The state with its islands numbered, before light is led through the matrices. -/
def numbered (f : BootFindings) (s : State) : State :=
  let v := surveyOf f s
  let ns := numbering v
  { s with
    panel := { s.panel with
      phase := 5, ncount := ns.length, sites := allSites (siteAfter v ns), store := numberedStore f s
      routes := bootRoutes (meshLinks v ns) }
    islands := ns.zipIdx.map fun x => (x.2, bootIsland s v ns x.2 x.1) }

theorem bootNumber_eq (f : BootFindings) (s : State) : bootNumber f s =
    if numbering (surveyOf f s) = [] then { numbered f s with panel := haltBoot 3 (numbered f s).panel }
    else lightUp (numbered f s) := rfl

theorem numbered_island (f : BootFindings) (s : State) (n : Nat) : tblGet? (numbered f s).islands n =
    if n < (numbering (surveyOf f s)).length then
      some (bootIsland s (surveyOf f s) (numbering (surveyOf f s)) n ((numbering (surveyOf f s)).getD n 0))
    else none := by
  refine (tblGet?_zipIdx (bootIsland s (surveyOf f s) (numbering (surveyOf f s))) (numbering (surveyOf f s)) 0 n).trans ?_
  simp only [Nat.zero_le, true_and, Nat.zero_add, Nat.sub_zero]

theorem unreachable_noted {f : BootFindings} {s : State} {p : Nat} (hp : p < 64) (hnot : p ∉ numbering (surveyOf f s))
    (hh : healthySite (surveyOf f s) p = true) : (p, QuarantineReason.unreachable) ∈ (numberedStore f s).reasons := by
  refine (mem_appendNew _ _ _).2 (.inr ?_)
  simp only [reasonsOf, List.mem_map, List.mem_filter, List.mem_range]
  exact ⟨p, ⟨⟨hp, by simp [hh, hnot]⟩, probed_of_healthy hh⟩, rfl⟩

theorem numbered_present {f : BootFindings} {s : State} {n : Nat} (hn : n < (numbering (surveyOf f s)).length) :
    Present (numbered f s) n := by
  rw [Present, numbered_island, if_pos hn]
  rfl

theorem islOf_numbered {f : BootFindings} {s : State} {n : Nat} (hn : n < (numbering (surveyOf f s)).length) :
    islOf (numbered f s) n
      = bootIsland s (surveyOf f s) (numbering (surveyOf f s)) n ((numbering (surveyOf f s)).getD n 0) := by
  rw [islOf, tblGet, numbered_island, if_pos hn, Option.getD_some]

theorem bootPort (v : Survey) (ns : List Nat) (now p : Nat) {d : Nat} (hd : d < 12) : tblGet? (bootPorts v ns now p) d
    = some (if d < 4 then meshPort v ns now p d else { lost := badGuidesOf v.store p d }) := by
  rw [bootPorts, List.range_eq_range', tblGet?_ofRange, if_pos (by omega)]

/-- The light that boot leads reaches the ports with the far ends it has then. -/
theorem lightMap_lightUp (s : State) : lightMap (lightUp s) = lightMap s := lightMap_modExpress s _

/-- An island once its light is led: all but its ports is as numbered. -/
theorem islOf_lightUp {s : State} {n : Nat} (hp : Present s n) : (islOf (lightUp s) n).site = (islOf s n).site
    ∧ (islOf (lightUp s) n).quads = (islOf s n).quads := by
  have hisl := islOf_map (s := s) (t := lightUp s) (modExpress_islands s _) hp
  rw [hisl]
  exact ⟨rfl, rfl⟩

/-- A mesh port takes no light of the matrices. -/
theorem meshPort_lightUp {f : BootFindings} {s : State} {n d : Nat} (hn : n < (numbering (surveyOf f s)).length) (hd : d < 4) :
    portOf (lightUp (numbered f s)) n d
      = meshPort (surveyOf f s) (numbering (surveyOf f s)) s.panel.ptime ((numbering (surveyOf f s)).getD n 0) d := by
  refine portOf_of_some ?_
  rw [lightUp, port?_modExpress _ _ (numbered_present hn), islOf_numbered hn]
  show Option.map _ (tblGet? (bootPorts _ _ _ _) d) = _
  rw [bootPort _ _ _ _ (by omega), Option.map_some, if_pos hd, if_pos hd]

/-- An express port at boot: the far end of its circuit, and training where that is a port of the panel. -/
theorem expressPort_lightUp {f : BootFindings} {s : State} {n d : Nat} (hn : n < (numbering (surveyOf f s)).length) (hd : 4 ≤ d)
    (hd' : d < 12) :
    let p := (numbering (surveyOf f s)).getD n 0
    let e := lightEnds (numbered f s) p d
    let x := portOf (lightUp (numbered f s)) n d
    x.peer = e.2 ∧ x.edge = e.1.isSome
    ∧ x.state = if e.2.isSome = true ∧ (p, d) ∉ s.panel.store.ports then .training else .dark := by
  have hport : tblGet? (islOf (numbered f s) n).ports d
      = some { lost := badGuidesOf (surveyOf f s).store ((numbering (surveyOf f s)).getD n 0) d } := by
    rw [islOf_numbered hn]
    show tblGet? (bootPorts _ _ _ _) d = _
    rw [bootPort _ _ _ _ hd', if_neg (by omega)]
  dsimp only
  rw [lightUp, portOf_modExpress _ _ (numbered_present hn) hd (by rw [hport]; rfl), portOf_of_some hport,
    show (islOf (numbered f s) n).site = (numbering (surveyOf f s)).getD n 0 from by rw [islOf_numbered hn]; rfl]
  generalize lightEnds (numbered f s) ((numbering (surveyOf f s)).getD n 0) d = e
  show _ ∧ _ ∧ _
  by_cases hlit : e.2.isSome = true ∧ ((numbering (surveyOf f s)).getD n 0, d) ∉ s.panel.store.ports
  · rw [if_pos (by simpa [numbered, numberedStore] using hlit), if_pos hlit]
    exact ⟨rfl, rfl, rfl⟩
  · rw [if_neg (by simpa [numbered, numberedStore] using hlit), if_neg hlit]
    exact ⟨rfl, rfl, rfl⟩

/-- What boot leaves of the numbered state for a phase that goes on. -/
theorem bootOn_numbers {f : BootFindings} {s : State} (h : Booting s f 4) :
    ∃ b, bootOn s = withPanel (bootNumber f s) { (bootNumber f s).panel with boot := b }
      ∧ b = if numbering (surveyOf f s) = [] then none else some { found := f, stage := 5 } := by
  have hboot : s.panel.boot = some { found := f, stage := 4 } := h
  refine ⟨_, bootOn_of_booting h (by omega), ?_⟩
  show Option.map _ (bootNumber f s).panel.boot = _
  rw [bootNumber_eq]
  split
  · rfl
  · show Option.map _ s.panel.boot = _
    rw [hboot]
    rfl

theorem bootStage_numbers {f : BootFindings} {s : State} (h : Booting s f 4) :
    let v := surveyOf f s
    let ns := numbering v
    let t := bootOn s
    t.panel.ncount = ns.length
    ∧ (ns = [] → t.islands = [] ∧ t.panel.phase = 0xFF ∧ t.panel.error = 3 ∧ t.panel.boot = none)
    ∧ (ns ≠ [] → t.panel.phase = 5 ∧ t.panel.error = s.panel.error ∧ Booting t f 5)
    ∧ t.panel.sites = allSites (siteAfter v ns) ∧ t.panel.store = numberedStore f s
    ∧ t.islands = if ns = [] then [] else (lightUp (numbered f s)).islands := by
  obtain ⟨b, ht, hb⟩ := bootOn_numbers h
  dsimp only
  rw [ht, bootNumber_eq]
  by_cases hns : numbering (surveyOf f s) = []
  · rw [if_pos hns] at hb ⊢
    rw [if_pos hns]
    have hnone : (numbered f s).islands = [] := by
      show (numbering (surveyOf f s)).zipIdx.map _ = []
      rw [hns]
      rfl
    exact ⟨rfl, fun _ => ⟨hnone, rfl, rfl, hb⟩, fun hne => absurd hns hne, rfl, rfl, hnone⟩
  · rw [if_neg hns] at hb ⊢
    rw [if_neg hns]
    exact ⟨rfl, fun he => absurd he hns, fun _ => ⟨rfl, rfl, hb⟩, rfl, rfl, rfl⟩

/-- A numbered island after boot's numbering. -/
theorem numbered_after {f : BootFindings} {s : State} (h : Booting s f 4) {n : Nat} (hn : n < (numbering (surveyOf f s)).length) :
    let ns := numbering (surveyOf f s)
    let p := ns.getD n 0
    let t := bootOn s
    (islOf t n).site = p ∧ (islOf t n).quads = mappedQuads s.panel.store p
    ∧ (∀ d, d < 4 → portOf t n d = meshPort (surveyOf f s) ns s.panel.ptime p d)
    ∧ ∀ d, 4 ≤ d → d < 12 → let e := lightEnds t p d
      (portOf t n d).peer = e.2 ∧ (portOf t n d).edge = e.1.isSome
      ∧ (portOf t n d).state = if e.2.isSome = true ∧ (p, d) ∉ t.panel.store.ports then .training else .dark := by
  have hne : numbering (surveyOf f s) ≠ [] := fun he => by
    rw [he] at hn
    exact absurd hn (by simp)
  obtain ⟨b, ht, -⟩ := bootOn_numbers h
  rw [bootNumber_eq, if_neg hne] at ht
  dsimp only
  have hisl : islOf (bootOn s) n = islOf (lightUp (numbered f s)) n := by rw [ht]; rfl
  have hport : ∀ d, portOf (bootOn s) n d = portOf (lightUp (numbered f s)) n d := fun d => by rw [portOf, hisl]; rfl
  have hlight : lightMap (bootOn s) = lightMap (numbered f s) := by
    rw [ht]
    exact lightMap_lightUp _
  have hstore : (bootOn s).panel.store.ports = s.panel.store.ports := by rw [ht]; rfl
  obtain ⟨hsite, hquads⟩ := islOf_lightUp (numbered_present hn)
  rw [islOf_numbered hn] at hsite hquads
  refine ⟨by rw [hisl, hsite]; rfl, by rw [hisl, hquads]; rfl, fun d hd => ?_, fun d hd hd' => ?_⟩
  · rw [hport, meshPort_lightUp hn hd]
  · rw [hport, lightEnds_congr hlight, hstore]
    exact expressPort_lightUp hn hd hd'

/-! ## The edge links train, and boot ends (R19, R22) -/

theorem bootStage_edges {f : BootFindings} {s : State} (h : Booting s f 5) :
    let t := bootOn s
    Booting t f 6 ∧ t.panel.phase = s.panel.phase ∧ ∀ i d, Present s i → 4 ≤ d → (tblGet? (islOf s i).ports d).isSome = true →
      if (portOf s i d).edge = true ∧ (portOf s i d).state = .dark ∧ ((islOf s i).site, d) ∉ s.panel.store.ports then
        (portOf t i d).state = .training ∧ (portOf t i d).since = s.panel.ptime
      else portOf t i d = portOf s i d := by
  rw [bootOn_of_booting h (by omega)]
  have hboot : s.panel.boot = some { found := f, stage := 5 } := h
  refine ⟨?_, rfl, fun i d hp hd hq => ?_⟩
  · show Option.map _ s.panel.boot = _
    rw [hboot]
    rfl
  · show if _ then (portOf (trainEdges s) i d).state = _ ∧ (portOf (trainEdges s) i d).since = _
      else portOf (trainEdges s) i d = _
    rw [trainEdges, portOf_modExpress s _ hp hd hq]
    by_cases htrain : (portOf s i d).edge = true ∧ (portOf s i d).state = .dark ∧ ((islOf s i).site, d) ∉ s.panel.store.ports
    · rw [if_pos htrain, if_pos (by simpa [and_assoc] using htrain)]
      exact ⟨rfl, rfl⟩
    · rw [if_neg htrain, if_neg (by simpa [and_assoc] using htrain)]

theorem bootStage_waits {f : BootFindings} {s : State} (h : Booting s f 6) : bootOn s = if edgeTraining s = true then s
      else withPanel s (nextStage f 6 { s.panel with phase := 6 }) := by
  have hboot : s.panel.boot = some { found := f, stage := 6 } := h
  unfold bootOn
  rw [hboot]
  cases edgeTraining s <;> simp [bootStage, withPanel, nextStage, hboot]

theorem bootStage_ends {f : BootFindings} {s : State} (h : Booting s f 7) :
    bootOn s = { s with panel := { s.panel with phase := 7, boot := none } } := bootOn_of_booting h (by omega)

/-! ## Attestation and the field section (R15, R16, R26) -/

/-- The four parts of BOOTST, each in its own byte. -/
theorem bootst_fields (p : Panel) (hphase : p.phase < 256) (hcount : p.ncount < 256) (herr : p.error < 256) :
    bootst p < 2 ^ 32 ∧ bootst p / 2 ^ 24 = p.phase ∧ bootst p / 2 ^ 16 % 256 = p.ncount ∧ bootst p / 2 ^ 8 % 256 = p.error
    ∧ bootst p % 256 = if p.single = true then 1 else 0 := by
  unfold bootst
  cases p.single <;> simp <;> omega

/-- What stands in a byte string at the lengths of its parts. -/
theorem attest_parts (p : Panel) {nonce : List Byte} (hn : nonce.length = 32) :
    ∃ rest, attest p nonce = nonce ++ leBytes (p.number % 1024 + p.ncount * 2 ^ 16) 4 ++ leBytes (siteMap p) 16
      ++ leBytes (storeStatus p) 4 ++ rest := by
  have hpad : padTo 32 nonce = nonce := by simp [padTo, ← hn]
  refine ⟨measurements p ++ padTo 4627 (Config.sign (sha3d512 (nonce ++ leBytes (p.number % 1024 + p.ncount * 2 ^ 16) 4
    ++ leBytes (siteMap p) 16 ++ leBytes (storeStatus p) 4 ++ measurements p))), ?_⟩
  unfold attest
  rw [hpad, ← List.append_assoc]

theorem attest_fields (p : Panel) {nonce : List Byte} (hn : nonce.length = 32) :
    (attest p nonce).take 32 = nonce
    ∧ ((attest p nonce).drop 32).take 4 = leBytes (p.number % 1024 + p.ncount * 2 ^ 16) 4
    ∧ ((attest p nonce).drop 36).take 16 = leBytes (siteMap p) 16
    ∧ ((attest p nonce).drop 52).take 4 = leBytes (storeStatus p) 4 := by
  obtain ⟨rest, hr⟩ := attest_parts p hn
  rw [hr]
  simp only [List.append_assoc]
  generalize p.number % 1024 + p.ncount * 2 ^ 16 = a
  generalize siteMap p = b
  generalize storeStatus p = c
  have ha : (leBytes a 4).length = 4 := leBytes_length 4 a
  have hb : (leBytes b 16).length = 16 := leBytes_length 16 b
  have hc : (leBytes c 4).length = 4 := leBytes_length 4 c
  have hpast : (leBytes b 16 ++ (leBytes c 4 ++ rest)).drop 16 = leBytes c 4 ++ rest := List.drop_left' hb
  have hfour : (leBytes a 4 ++ (leBytes b 16 ++ (leBytes c 4 ++ rest))).drop 4 = leBytes b 16 ++ (leBytes c 4 ++ rest) :=
    List.drop_left' ha
  have hhead : ∀ m, (nonce ++ (leBytes a 4 ++ (leBytes b 16 ++ (leBytes c 4 ++ rest)))).drop (32 + m)
      = (leBytes a 4 ++ (leBytes b 16 ++ (leBytes c 4 ++ rest))).drop m := fun m => by
    rw [← List.drop_drop, List.drop_left' hn]
  refine ⟨List.take_left' hn, ?_, ?_, ?_⟩
  · rw [hhead 0, List.drop_zero, List.take_left' ha]
  · rw [hhead 4, hfour, List.take_left' hb]
  · rw [hhead 20, show (20 : Nat) = 4 + 16 from rfl, ← List.drop_drop, hfour, hpast, List.take_left' hc]

theorem claim_fires (key : List Byte) (s : State) (h : s.panel.phase ≠ 0 ∧ s.panel.store.owners = []) :
    exec (.claim key) s = .next { s with panel := claimed key s.panel } := by
  show execClaim key s = _
  rw [execClaim, if_pos (by simpa [mailboxOpen] using h)]

theorem claimed_eq (key : List Byte) (p : Panel) : claimed key p =
    { p with
      store := { (if p.shelved = none then p.store else factoryOnly p.store) with owners := [key] }, shelved := none } := by
  unfold claimed
  cases p.shelved <;> simp

theorem enrol_eq (n : Nat) (key : List Byte) (l : List (List Byte)) :
    enrol n key l = if key ∈ l ∨ n ≤ l.length then l else l ++ [key] := by
  simp [enrol]

/-- A command that its owner's signature lets through. -/
theorem storeBecomes_of {ev : Instr} {b : State → Bool} {f : Store → Store}
    (h : ∀ s, exec ev s = if b s = true then .next (modStore s f) else .next s) : StoreBecomes ev (fun s => b s = true) f :=
  ⟨fun s hs => by rw [h, if_pos hs]; rfl, fun s hs => by rw [h, if_neg hs]⟩

theorem ownerSigned_closed (s : State) (kind : Nat) (arg k sig : List Byte)
    (h : s.panel.phase = 0 ∨ k ∉ s.panel.store.owners) : ownerSigned s kind arg k sig = false := by
  rcases h with h | h <;> simp [ownerSigned, mailboxOpen, h]

/-- Settles O60, stage by stage: each stage of boot is one change of the panel, but for the numbering, which makes the islands,
and the training of the edge links, which changes their ports. -/
theorem bootResults : Obligations.BootResults := by
  unfold Obligations.BootResults
  refine ⟨fun f s => ⟨boot s f, rfl, rfl, rfl, rfl, rfl, rfl, rfl, rfl, rfl, rfl, rfl, rfl⟩, fun s h => ?_,
    fun f s => bootStage_firmware, fun f s => bootStage_store, fun f s => bootStage_probe, fun f s => bootStage_probed,
    fun v p => healthySite_spec, fun f s => ?_, fun f s => bootStage_edges, fun f s => bootStage_waits, fun f s => bootStage_ends,
    bootst_fields, fun nonce s h => ?_, fun nonce s hphase hn => ?_, fun key s h => ?_, fun key s h => ?_, fun key k sig => ?_,
    fun key k sig => ?_, fun key k sig => ?_, fun key k sig => ?_, fun n k sig => ?_, fun s kind arg k sig => ownerSigned_closed s kind arg k sig⟩
  · rw [bootOn, h]
  · intro v ns t h
    obtain ⟨hcount, hempty, hgoes, hsites, hstore, hislands⟩ := bootStage_numbers h
    have hnd : ns.Nodup := (numbering_ascends v).imp fun h => by omega
    have hsite : ∀ p, p < 64 → tblGet t.panel.sites p = siteAfter v ns p := fun p hp => by
      rw [hsites]
      exact tblGet_allSites _ hp
    refine ⟨numbering_ascends v, fun p => numbering_healthy, hcount, hempty, hgoes, fun n hn => ?_, fun p hp hnot => ?_,
      fun p hp hnot hh => ?_, fun n hn => ?_⟩
    · rw [hislands]
      split
      · rfl
      · have hnone : tblGet? (numbered f s).islands n = none := by rw [numbered_island, if_neg (by exact Nat.not_lt.2 hn)]
        exact island?_modExpress_none (numbered f s) _ hnone
    · rw [hsite p hp, siteAfter_outside hnot, siteFound_state]
    · rw [hstore]
      exact unreachable_noted hp hnot hh
    · obtain ⟨hat, hquads, hmesh, hexpress⟩ := numbered_after h hn
      have hp : ns.getD n 0 < 64 := (numbering_healthy (v := v) (by
        rw [List.getD_eq_getElem _ 0 hn]
        exact List.getElem_mem hn)).1
      refine ⟨hat, hquads, ?_, hmesh, hexpress⟩
      rw [hsite _ hp]
      exact siteAfter_inside hnd hn
  · show execAttestationRequest nonce s = _
    rw [execAttestationRequest, if_pos h]
  · obtain ⟨hnonce, hnumber, hmap, hstatus⟩ := attest_fields s.panel hn
    refine ⟨_, attest s.panel nonce, ?_, rfl, hnonce, hnumber, hmap, hstatus⟩
    show execAttestationRequest nonce s = _
    rw [execAttestationRequest, if_neg hphase]
  · rw [claim_fires key s h, claimed_eq]
  · show execClaim key s = _
    rw [execClaim, if_neg (by simpa [mailboxOpen, or_iff_not_imp_left] using h)]
  · refine storeBecomes_of fun s => ?_
    show execOwnerKeyChange true key k sig s = _
    simp only [execOwnerKeyChange, if_true, enrol_eq]
  · refine storeBecomes_of fun s => ?_
    show execOwnerKeyChange false key k sig s = _
    simp only [execOwnerKeyChange, Bool.false_eq_true, if_false]
  · refine storeBecomes_of fun s => ?_
    show execPeerKeyAdd key k sig s = _
    simp only [execPeerKeyAdd, enrol_eq]
  · exact storeBecomes_of fun s => rfl
  · have h := storeBecomes_of (ev := .panelNumberChange n k sig) (f := fun st => { st with number := n })
      (b := fun s => decide (n < 1024) && ownerSigned s 4 (leBytes n 2) k sig) fun s => rfl
    simpa using h

end Sys2Proof.Proofs

/-! PROOFS. Route maps, switch cells and host ports (O56). -/

namespace Sys2Proof.Proofs

open Sys2Proof Sys2Proof.Machine Sys2Proof.Laws

/-! ## Fields of a word -/

/-- A field lying above a place follows from what stands above that place. -/
theorem bits_congr_above {x y k : Nat} (h : x / 2 ^ k = y / 2 ^ k) (hi : Nat) {lo : Nat} (hk : k ≤ lo) :
    bits x hi lo = bits y hi lo := by
  obtain ⟨j, rfl⟩ := Nat.exists_eq_add_of_le hk
  rw [bits, bits, Nat.pow_add, ← Nat.div_div_eq_div_mul, ← Nat.div_div_eq_div_mul, h]

/-- A field lying below a place follows from what stands below that place. -/
theorem bits_congr_below {x y k : Nat} (h : x % 2 ^ k = y % 2 ^ k) {hi : Nat} (lo : Nat) (hk : hi < k) (hlo : lo ≤ hi) :
    bits x hi lo = bits y hi lo := by
  have hcut : ∀ z, bits z hi lo = z % 2 ^ k / 2 ^ lo % 2 ^ (hi + 1 - lo) := fun z => by
    obtain ⟨j, rfl⟩ := Nat.exists_eq_add_of_le hk
    obtain ⟨n, rfl⟩ := Nat.exists_eq_add_of_le hlo
    rw [bits, show lo + n + 1 + j = lo + ((n + 1) + j) by omega, show lo + n + 1 - lo = n + 1 by omega, Nat.pow_add 2 lo,
      Nat.mod_mul_right_div_self, Nat.pow_add 2 (n + 1) j, Nat.mod_mul_right_mod]
  rw [hcut, hcut, h]

/-- A word with a field put in it: what stands above it, the field, and what stands below. -/
theorem putBits_parts (w hi lo v : Nat) (h : lo ≤ hi) :
    putBits w hi lo v = w / 2 ^ (hi + 1) * 2 ^ (hi + 1) + v % 2 ^ (hi + 1 - lo) * 2 ^ lo + w % 2 ^ lo := by
  have hpow : (2 : Nat) ^ (hi + 1) = 2 ^ lo * 2 ^ (hi + 1 - lo) := by rw [← Nat.pow_add]; congr 1; omega
  have hw : w = w / 2 ^ (hi + 1) * 2 ^ (hi + 1) + (bits w hi lo * 2 ^ lo + w % 2 ^ lo) := by
    have hlow := Nat.div_add_mod' w (2 ^ lo)
    have hmid := Nat.div_add_mod' (w / 2 ^ lo) (2 ^ (hi + 1 - lo))
    rw [Nat.div_div_eq_div_mul, ← hpow] at hmid
    calc w = (w / 2 ^ (hi + 1) * 2 ^ (hi + 1 - lo) + bits w hi lo) * 2 ^ lo + w % 2 ^ lo := by rw [bits, hmid, hlow]
      _ = _ := by rw [hpow]; ring
  rw [putBits]
  omega

theorem div_putBits (w hi lo v : Nat) (h : lo ≤ hi) : putBits w hi lo v / 2 ^ (hi + 1) = w / 2 ^ (hi + 1) := by
  have hpow : (2 : Nat) ^ (hi + 1) = 2 ^ (hi + 1 - lo) * 2 ^ lo := by rw [← Nat.pow_add]; congr 1; omega
  have hv : v % 2 ^ (hi + 1 - lo) * 2 ^ lo + w % 2 ^ lo < 2 ^ (hi + 1) := by
    have h1 : v % 2 ^ (hi + 1 - lo) + 1 ≤ 2 ^ (hi + 1 - lo) := Nat.mod_lt _ (by positivity)
    have h2 : w % 2 ^ lo < 2 ^ lo := Nat.mod_lt _ (by positivity)
    have h3 := Nat.mul_le_mul_right (2 ^ lo) h1
    rw [hpow]
    rw [Nat.add_mul] at h3
    omega
  rw [putBits_parts w hi lo v h, Nat.add_assoc, Nat.mul_comm, Nat.mul_add_div (by positivity), Nat.div_eq_of_lt hv, Nat.add_zero]

theorem mod_putBits (w hi lo v : Nat) (h : lo ≤ hi) : putBits w hi lo v % 2 ^ lo = w % 2 ^ lo := by
  have hpow : (2 : Nat) ^ (hi + 1) = 2 ^ (hi + 1 - lo) * 2 ^ lo := by rw [← Nat.pow_add]; congr 1; omega
  rw [putBits_parts w hi lo v h, hpow, ← Nat.mul_assoc, ← Nat.add_mul, Nat.mul_add_mod_self_right, Nat.mod_mod]

theorem bits_putBits_same (w hi lo v : Nat) (h : lo ≤ hi) : bits (putBits w hi lo v) hi lo = v % 2 ^ (hi + 1 - lo) := by
  have hpow : (2 : Nat) ^ (hi + 1) = 2 ^ (hi + 1 - lo) * 2 ^ lo := by rw [← Nat.pow_add]; congr 1; omega
  rw [bits, putBits_parts w hi lo v h, hpow, ← Nat.mul_assoc, ← Nat.add_mul, Nat.mul_comm _ (2 ^ lo), Nat.mul_add_div (by positivity),
    Nat.div_eq_of_lt (Nat.mod_lt _ (by positivity)), Nat.add_zero, Nat.mul_add_mod_self_right, Nat.mod_mod]

theorem bits_putBits_above (w hi lo v hi' : Nat) {lo' : Nat} (h : lo ≤ hi) (hk : hi < lo') :
    bits (putBits w hi lo v) hi' lo' = bits w hi' lo' := bits_congr_above (div_putBits w hi lo v h) hi' hk

theorem bits_putBits_below (w hi lo v : Nat) {hi' : Nat} (lo' : Nat) (h : lo ≤ hi) (hk : hi' < lo) (hlo : lo' ≤ hi') :
    bits (putBits w hi lo v) hi' lo' = bits w hi' lo' := bits_congr_below (mod_putBits w hi lo v h) lo' hk hlo

theorem putBits_lt {w hi lo m : Nat} (v : Nat) (hw : w < 2 ^ m) (h : lo ≤ hi) (hm : hi < m) : putBits w hi lo v < 2 ^ m := by
  obtain ⟨j, rfl⟩ : ∃ j, m = j + (hi + 1) := ⟨m - (hi + 1), by omega⟩
  rw [Nat.pow_add, ← Nat.div_lt_iff_lt_mul (by positivity)] at hw ⊢
  rwa [div_putBits w hi lo v h]

/-! ## Cells of a route map (R380) -/

/-- What a cell says: whether it is in use, its two entries and the classes of atomics they carry. -/
def cellFields (w : Nat) : Bool × Nat × Nat × Nat × Nat := (cellValid w, cellPri w, cellCapp w, cellAlt w, cellCapa w)

/-- The alternate half of a cell renamed. -/
def altRenamed (w entry cap : Nat) : Nat := putBits (putBits w 31 16 entry) 38 36 cap

/-- The primary half of a cell renamed. -/
def priRenamed (w entry cap : Nat) : Nat := putBits (putBits w 15 0 entry) 34 32 cap

theorem bit_eq_bits (w i : Nat) : bit w i = decide (bits w i i = 1) := by
  rw [bit, bits, Nat.add_sub_cancel_left, Nat.pow_one]

theorem altRenamed_fields (w : Nat) {entry cap : Nat} (he : entry < 2 ^ 16) (hc : cap < 2 ^ 3) :
    cellFields (altRenamed w entry cap) = (cellValid w, cellPri w, cellCapp w, entry, cap) := by
  simp only [cellFields, cellValid, cellPri, cellCapp, cellAlt, cellCapa, altRenamed, bit_eq_bits]
  rw [bits_putBits_above _ 38 36 _ 63 (by omega) (by omega), bits_putBits_above _ 31 16 _ 63 (by omega) (by omega),
    bits_putBits_below _ 38 36 _ 0 (by omega) (by omega) (by omega), bits_putBits_below _ 31 16 _ 0 (by omega) (by omega) (by omega),
    bits_putBits_below _ 38 36 _ 32 (by omega) (by omega) (by omega), bits_putBits_above _ 31 16 _ 34 (by omega) (by omega),
    bits_putBits_below _ 38 36 _ 16 (by omega) (by omega) (by omega), bits_putBits_same _ 31 16 _ (by omega),
    bits_putBits_same _ 38 36 _ (by omega), Nat.mod_eq_of_lt he, Nat.mod_eq_of_lt hc]

theorem priRenamed_fields (w : Nat) {entry cap : Nat} (he : entry < 2 ^ 16) (hc : cap < 2 ^ 3) :
    cellFields (priRenamed w entry cap) = (cellValid w, entry, cap, cellAlt w, cellCapa w) := by
  simp only [cellFields, cellValid, cellPri, cellCapp, cellAlt, cellCapa, priRenamed, bit_eq_bits]
  rw [bits_putBits_above _ 34 32 _ 63 (by omega) (by omega), bits_putBits_above _ 15 0 _ 63 (by omega) (by omega),
    bits_putBits_below _ 34 32 _ 0 (by omega) (by omega) (by omega), bits_putBits_same _ 15 0 _ (by omega),
    bits_putBits_same _ 34 32 _ (by omega), bits_putBits_below _ 34 32 _ 16 (by omega) (by omega) (by omega),
    bits_putBits_above _ 15 0 _ 31 (by omega) (by omega), bits_putBits_above _ 34 32 _ 38 (by omega) (by omega),
    bits_putBits_above _ 15 0 _ 38 (by omega) (by omega), Nat.mod_eq_of_lt he, Nat.mod_eq_of_lt hc]

/-- A cell put in use. -/
theorem validated_fields (w : Nat) : cellFields (w % 2 ^ 63 + 2 ^ 63) = (true, (cellFields w).2) := by
  have hlow : (w % 2 ^ 63 + 2 ^ 63) % 2 ^ 63 = w % 2 ^ 63 := by omega
  have hbit : bit (w % 2 ^ 63 + 2 ^ 63) 63 = true := by
    rw [bit]
    exact decide_eq_true (by omega)
  simp only [cellFields, cellValid, cellPri, cellCapp, cellAlt, cellCapa, hbit]
  rw [bits_congr_below hlow 0 (by omega) (by omega), bits_congr_below hlow 32 (by omega) (by omega),
    bits_congr_below hlow 16 (by omega) (by omega), bits_congr_below hlow 36 (by omega) (by omega)]

theorem cellWith_eq (w entry cap : Nat) (alt : Bool) : cellWith w entry cap alt =
    if cellValid w = false then priRenamed (altRenamed w entry cap) entry cap % 2 ^ 63 + 2 ^ 63
    else if alt = true then altRenamed w entry cap else priRenamed w entry cap := by
  rw [cellWith]
  cases cellValid w <;> rfl

theorem altRenamed_lt {w : Nat} (hw : w < 2 ^ 64) (entry cap : Nat) : altRenamed w entry cap < 2 ^ 64 :=
  putBits_lt _ (putBits_lt _ hw (by omega) (by omega)) (by omega) (by omega)

theorem priRenamed_lt {w : Nat} (hw : w < 2 ^ 64) (entry cap : Nat) : priRenamed w entry cap < 2 ^ 64 :=
  putBits_lt _ (putBits_lt _ hw (by omega) (by omega)) (by omega) (by omega)

theorem cellWith_lt {w : Nat} (hw : w < 2 ^ 64) (entry cap : Nat) (alt : Bool) : cellWith w entry cap alt < 2 ^ 64 := by
  rw [cellWith_eq]
  split
  · omega
  · split
    · exact altRenamed_lt hw _ _
    · exact priRenamed_lt hw _ _

/-- What a renamed cell says. -/
theorem cellWith_fields (w : Nat) {entry cap : Nat} (he : entry < 2 ^ 16) (hc : cap < 2 ^ 3) (alt : Bool) :
    cellFields (cellWith w entry cap alt) =
      if cellValid w = false then (true, entry, cap, entry, cap)
      else if alt = true then (true, cellPri w, cellCapp w, entry, cap) else (true, entry, cap, cellAlt w, cellCapa w) := by
  rw [cellWith_eq]
  by_cases hv : cellValid w = false
  · rw [if_pos hv, if_pos hv, validated_fields, priRenamed_fields _ he hc]
    have halt := altRenamed_fields w he hc
    simp only [cellFields, Prod.mk.injEq] at halt
    rw [halt.2.2.2.1, halt.2.2.2.2]
  · rw [if_neg hv, if_neg hv]
    rw [Bool.not_eq_false] at hv
    split
    · rw [altRenamed_fields w he hc, hv]
    · rw [priRenamed_fields w he hc, hv]

theorem hopsCap_lt (s : State) (i : Nat) (hops : List Nat) : hopsCap s i hops < 2 ^ 3 := by
  induction hops generalizing i with
  | nil => exact (by omega : 7 < 2 ^ 3)
  | cons h t ih =>
    rw [hopsCap]
    split
    · exact ih _
    · split <;> omega

/-! ## Islands changed one by one -/

/-- Islands changed by their numbers, but for their memories. -/
theorem viewOf_mapIslands {f : Nat → Island → Island} (h : ∀ k x, (f k x).mem = x.mem) (host : Memory) (islands : Tbl Island)
    (teams : Tbl Team) : viewOf host (islands.map fun p => (p.1, f p.1 p.2)) teams = viewOf host islands teams := by
  have hget : ∀ i, (tblGet (islands.map fun p => (p.1, f p.1 p.2)) i).mem = (tblGet islands i).mem := fun i => by
    rw [tblGet, tblGet, tblGet?_mapKey]
    cases tblGet? islands i with
    | none => rfl
    | some x => exact h i x
  simp [viewOf, hget, h]

/-- Nothing but islands changed, none of them in its memory. -/
theorem coresSame_mapIslands {s t : State} {f : Nat → Island → Island} (h : ∀ k x, (f k x).mem = x.mem)
    (hi : t.islands = s.islands.map fun p => (p.1, f p.1 p.2)) (hh : t.hostMem = s.hostMem) (ht : t.teams = s.teams)
    (hg : t.groups = s.groups) : CoresSame s t := by
  refine ⟨sameMemory_of_view ?_, hg, ht⟩
  rw [memView, memView, hi, hh, ht, viewOf_mapIslands h]

theorem coresSame_modIsl {f : Island → Island} (h : ∀ x, (f x).mem = x.mem) (s : State) (i : Nat) : CoresSame s (modIsl s i f) :=
  ⟨sameMemory_of_view (memView_modIsl (f := f) (fun x => by rw [h]) s i), rfl, rfl⟩

/-! ## Routes (R380, R381) -/

theorem routeMapInvalidate_effects {d : Nat} {s : State} (h : quarantined s d = true) :
    ∃ t, exec (.routeMapInvalidate d) s = .next t ∧ CoresSame s t
    ∧ ∀ i w, i ≠ d → tblGet? (islOf s i).cells d = some w → tblGet? (islOf t i).cells d = some (w &&& ~~~(1#64 <<< 63)) := by
  let f : Nat → Island → Island := fun k x => if k = d then x else { x with cells := tblAdj x.cells d invalidCell }
  let t : State := { s with islands := s.islands.map fun p => (p.1, f p.1 p.2) }
  have hexec : exec (.routeMapInvalidate d) s = .next t := by
    show execRouteMapInvalidate d s = _
    rw [execRouteMapInvalidate, if_pos h]
    refine congrArg (fun l => Host.Outcome.next { s with islands := l }) (List.map_congr_left fun p _ => ?_)
    by_cases hp : p.1 = d
    · simp only [f, if_pos hp]
    · simp only [f, if_neg hp]
  have hmem : ∀ k x, (f k x).mem = x.mem := fun k x => by
    dsimp only [f]
    split <;> rfl
  refine ⟨t, hexec, coresSame_mapIslands hmem rfl rfl rfl rfl, fun i w hi hw => ?_⟩
  have hisl : islOf t i = { islOf s i with cells := tblAdj (islOf s i).cells d invalidCell } := by
    rw [islOf, islOf, tblGet, tblGet, show t.islands = s.islands.map fun p => (p.1, f p.1 p.2) from rfl, tblGet?_mapKey]
    cases hx : tblGet? s.islands i with
    | none =>
      rw [islOf, tblGet, hx] at hw
      exact absurd hw (by simp [show (default : Island).cells = [] from rfl, tblGet?])
    | some x => simp only [Option.map_some, Option.getD_some, f, if_neg hi]
  rw [hisl]
  show tblGet? (tblAdj _ _ _) _ = _
  rw [tblGet?_adj_same, hw]
  rfl

/-- The state in which a replacement route has its entry and its cell. -/
def rerouted (src dst entry : Nat) (hops : List Nat) (alt : Bool) (s : State) : State :=
  let w := (tblGet (islOf s src).cells dst).toNat
  modIsl { s with panel := { s.panel with routes := tblSet s.panel.routes entry { k := hops.length, hops := hops } } } src fun x =>
    { x with cells := tblSet x.cells dst (BitVec.ofNat 64 (cellWith w entry (hopsCap s src hops) alt)) }

/-- A state but for the time since when entries are named by no cell. -/
def unnamedAt (s : State) (l : List (Nat × Nat)) : State := { s with panel := { s.panel with unnamed := l } }

theorem replacementRoute_fits {src dst entry : Nat} {hops : List Nat} {alt : Bool} {s : State}
    (hc : carries { k := hops.length, hops := hops } = true) (hfree : poolFree s entry = true)
    (hwho : if dst < 64 then hops = replacementHops s src dst alt ∧ src ≠ dst ∧ quarantined s dst = false
        ∧ cellValid (tblGet (islOf s src).cells dst).toNat = true
      else dst < 64 + 1024 ∧ dst ≠ 64 + s.panel.number ∧ Present s src) :
    ∃ l, exec (.replacementRoute src dst entry hops alt) s = .next (unnamedAt (rerouted src dst entry hops alt s) l) := by
  show ∃ l, execReplacementRoute src dst entry hops alt s = _
  rw [execReplacementRoute]
  dsimp only
  rw [if_neg]
  · rw [rerouted]
    dsimp only
    generalize (if alt = true then cellAlt _ else cellPri _) = old
    split
    · exact ⟨_, rfl⟩
    · exact ⟨s.panel.unnamed, rfl⟩
  · rw [hc, hfree]
    by_cases hd : dst < 64
    · rw [if_pos hd] at hwho
      obtain ⟨hhops, hne, hq, hv⟩ := hwho
      simp [hd, ← hhops, hne, hq, hv]
    · rw [if_neg hd] at hwho
      obtain ⟨hlt, hne, hp⟩ := hwho
      have hp : (tblGet? s.islands src).isSome = true := hp
      simp [hd, hlt, hne, hp]

theorem rerouted_effects {src entry : Nat} (dst : Nat) (hops : List Nat) (alt : Bool) {s : State} (l : List (Nat × Nat))
    (hp : Present s src) (he : entry < 16384) :
    let t := unnamedAt (rerouted src dst entry hops alt s) l
    let w := (tblGet (islOf s src).cells dst).toNat
    let cap := hopsCap s src hops
    CoresSame s t ∧ routeOf t entry = { k := hops.length, hops := hops }
    ∧ cellFields (tblGet (islOf t src).cells dst).toNat =
      if cellValid w = false then (true, entry, cap, entry, cap)
      else if alt = true then (true, cellPri w, cellCapp w, entry, cap) else (true, entry, cap, cellAlt w, cellCapa w) := by
  have hcores := coresSame_modIsl (f := fun x => { x with cells := tblSet x.cells dst (BitVec.ofNat 64
    (cellWith (tblGet (islOf s src).cells dst).toNat entry (hopsCap s src hops) alt)) }) (fun _ => rfl)
    { s with panel := { s.panel with routes := tblSet s.panel.routes entry { k := hops.length, hops := hops } } } src
  refine ⟨hcores, tblGet_set_same _ _ _, ?_⟩
  have hcell : tblGet (islOf (unnamedAt (rerouted src dst entry hops alt s) l) src).cells dst = BitVec.ofNat 64
      (cellWith (tblGet (islOf s src).cells dst).toNat entry (hopsCap s src hops) alt) := by
    show tblGet (islOf (modIsl _ _ _) src).cells dst = _
    rw [islOf_modIsl_same _ _ _ (by exact hp)]
    exact tblGet_set_same _ _ _
  rw [hcell, BitVec.toNat_ofNat, Nat.mod_eq_of_lt (cellWith_lt (BitVec.isLt _) _ _ _),
    cellWith_fields _ (by omega) (hopsCap_lt _ _ _)]

theorem poolFree_lt {s : State} {e : Nat} (h : poolFree s e = true) : e < 16384 := by
  simp only [poolFree, Bool.and_eq_true, decide_eq_true_eq] at h
  omega

theorem replacementRoute_not_due {src dst entry : Nat} {hops : List Nat} {alt : Bool} {s : State}
    (h : poolFree s entry = false
      ∨ carries { k := hops.length, hops := hops } = false ∨ 1088 ≤ dst ∨ dst = 64 + s.panel.number
      ∨ dst < 64 ∧ (src = dst ∨ hops ≠ replacementHops s src dst alt ∨ quarantined s dst = true
        ∨ cellValid (tblGet (islOf s src).cells dst).toNat = false)) :
    exec (.replacementRoute src dst entry hops alt) s = .next s := by
  show execReplacementRoute src dst entry hops alt s = _
  rw [execReplacementRoute]
  dsimp only
  rw [if_pos]
  rcases h with h | h | h | h | ⟨hd, h | h | h | h⟩
  · simp [h]
  · simp [h]
  · simp [show ¬dst < 64 by omega, show ¬dst < 64 + 1024 by omega]
  · simp [h]
  · simp [hd, h]
  · simp [hd, h]
  · simp [hd, h]
  · simp [hd, h]

theorem routeEntryReuse_due {e : Nat} {s : State} {u : Nat × Nat} (hu : u ∈ s.panel.unnamed) (hue : u.1 = e)
    (hold : u.2 + 100000 ≤ s.panel.ptime) (hn : named s e = false) (hf : entryInFlight s e = false) :
    ∃ t, exec (.routeEntryReuse e) s = .next t ∧ PanelOnly s t ∧ tblGet? t.panel.routes e = none
      ∧ ∀ v ∈ t.panel.unnamed, v.1 ≠ e := by
  have hdue : (s.panel.unnamed.any fun u => u.1 = e && u.2 + 100000 ≤ s.panel.ptime) = true :=
    List.any_eq_true.2 ⟨u, hu, by simp [hue, hold]⟩
  refine ⟨{ s with panel := { s.panel with unnamed := s.panel.unnamed.filter fun u => u.1 ≠ e, routes := tblDel s.panel.routes e } },
    ?_, rfl, tblGet?_del_same _ _, fun v hv => by simpa using (List.mem_filter.1 hv).2⟩
  show execRouteEntryReuse e s = _
  rw [execRouteEntryReuse]
  dsimp only
  rw [hdue, hn, hf]
  rfl

theorem routeEntryReuse_not_due {e : Nat} {s : State} (h : named s e = true ∨ entryInFlight s e = true
      ∨ ∀ u ∈ s.panel.unnamed, u.1 = e → s.panel.ptime < u.2 + 100000) : exec (.routeEntryReuse e) s = .next s := by
  show execRouteEntryReuse e s = _
  rw [execRouteEntryReuse]
  dsimp only
  rw [if_neg]
  rcases h with h | h | h
  · simp [h]
  · simp [h]
  · have hdue : (s.panel.unnamed.any fun u => u.1 = e && u.2 + 100000 ≤ s.panel.ptime) = false := by
      simp only [List.any_eq_false, Bool.and_eq_true, decide_eq_true_eq, not_and, Nat.not_le]
      exact h
    simp [hdue]

/-! ## Writes of switch cells (R385, R386) -/

theorem rowUsable_iff (m : Matrix) (r : Nat) :
    RowUsable m r ↔ (rowWorn m (nth m.rowMap r) && (m.spares.filter fun p => !rowWorn m p) = []) = false := by
  cases hw : rowWorn m (nth m.rowMap r) with
  | false => simp [RowUsable, hw]
  | true =>
    simp only [RowUsable, hw, Bool.true_and, Bool.true_eq_false, false_or, decide_eq_false_iff_not, List.filter_eq_nil_iff]
    simp

theorem xcellWrite_busy {s : State} {i : Nat} (act r c : Nat) (h : (islOf s i).matrix.busy = true) : xcellWrite s i act r c = s := by
  rw [xcellWrite]
  dsimp only
  rw [if_pos h]

theorem xcellWrite_outside {s : State} {i r c : Nat} (act : Nat) (h : (islOf s i).matrix.busy = false) (ho : 15 < r ∨ 15 < c) :
    xcellWrite s i act r c = modIsl s i fun x => { x with matrix := { x.matrix with status := 3 } } := by
  rw [xcellWrite]
  dsimp only
  rw [if_neg (by simp [h]), if_pos (by simpa [or_assoc] using Or.inr ho)]

theorem xcellWrite_cuts {s : State} {i r c : Nat} (h : (islOf s i).matrix.busy = false) (hr : r ≤ 15) (hc : c ≤ 15)
    (hcut : CutsLight s i r c) :
    xcellWrite s i 1 r c = modIsl s i fun x => { x with matrix := { x.matrix with status := 1 } } := by
  obtain ⟨hset, hlight⟩ := hcut
  have hset : (islOf s i).matrix.set.contains (cellKey (nth (islOf s i).matrix.rowMap r) c) = true := hset
  rw [xcellWrite]
  dsimp only
  rw [if_neg (by simp [h]), if_neg (by simp; omega), hset, hlight]
  rfl

/-- A write whose place is a cell's, and which cuts no light that it may not. -/
theorem xcellWrite_allowed {s : State} {i r c act : Nat} (h : (islOf s i).matrix.busy = false) (ha : act ≤ 1) (hr : r ≤ 15)
    (hc : c ≤ 15) (hcut : act = 1 → ¬CutsLight s i r c) : xcellWrite s i act r c =
      modIsl s i fun x => { x with matrix :=
        if (rowWorn (islOf s i).matrix (nth (islOf s i).matrix.rowMap r)
          && ((islOf s i).matrix.spares.filter fun p => !rowWorn (islOf s i).matrix p) = []) = true then { x.matrix with status := 2 }
        else { x.matrix with busy := true, act := act, row := r, col := c } } := by
  have hcut' : ¬((decide (act = 1) && (islOf s i).matrix.set.contains (cellKey (nth (islOf s i).matrix.rowMap r) c)
      && cutsLight s i r c) = true) := fun hall => by
    simp only [Bool.and_eq_true, decide_eq_true_eq] at hall
    exact hcut hall.1.1 ⟨hall.1.2, hall.2⟩
  rw [xcellWrite]
  dsimp only
  rw [if_neg (by simp [h]), if_neg (by simp; omega), if_neg hcut']
  split <;> rfl

theorem xcellWrite_begins {s : State} {i r c act : Nat} (h : (islOf s i).matrix.busy = false) (ha : act ≤ 1) (hr : r ≤ 15)
    (hc : c ≤ 15) (hcut : act = 1 → ¬CutsLight s i r c) (hrow : RowUsable (islOf s i).matrix r) : xcellWrite s i act r c =
      modIsl s i fun x => { x with matrix := { x.matrix with busy := true, act := act, row := r, col := c } } := by
  rw [xcellWrite_allowed h ha hr hc hcut, (rowUsable_iff _ _).1 hrow]
  rfl

theorem xcellWrite_worn {s : State} {i r c act : Nat} (h : (islOf s i).matrix.busy = false) (ha : act ≤ 1) (hr : r ≤ 15)
    (hc : c ≤ 15) (hcut : act = 1 → ¬CutsLight s i r c) (hrow : ¬RowUsable (islOf s i).matrix r) : xcellWrite s i act r c =
      modIsl s i fun x => { x with matrix := { x.matrix with status := 2 } } := by
  have hworn := eq_true_of_ne_false fun he => hrow ((rowUsable_iff _ _).2 he)
  rw [xcellWrite_allowed h ha hr hc hcut, hworn]
  rfl

/-- A write under way whose row is not worn: whether it changes the cell. -/
def writesCell (m : Matrix) : Bool := m.set.contains (cellKey (nth m.rowMap m.row) m.col) != decide (m.act = 0)

/-- The cells as the write under way leaves them. -/
def cellsAfter (m : Matrix) : List Nat :=
  let k := cellKey (nth m.rowMap m.row) m.col
  if m.act = 0 then m.set ++ [k] else m.set.filter (· ≠ k)

theorem remapWorn_fit {m : Matrix} {r : Nat} (h : rowWorn m (nth m.rowMap r) = false) : remapWorn r m = m := by
  rw [remapWorn, if_neg (by simp [h])]

theorem xcellDone_idle {m : Matrix} (hworn : rowWorn m (nth m.rowMap m.row) = false) (ha : m.act ≤ 1) (hw : writesCell m = false) :
    xcellDone m = { m with busy := false, status := 0 } := by
  have hset : m.set.contains (cellKey (nth m.rowMap m.row) m.col) = decide (m.act = 0) := by simpa [writesCell] using hw
  rw [xcellDone, remapWorn_fit hworn]
  dsimp only
  rw [hset]
  rcases (by omega : m.act = 0 ∨ m.act = 1) with h | h <;> rw [h] <;> rfl

theorem xcellDone_writes {m : Matrix} (hworn : rowWorn m (nth m.rowMap m.row) = false) (ha : m.act ≤ 1) (hw : writesCell m = true) :
    let k := cellKey (nth m.rowMap m.row) m.col
    let w := wearCell k { m with busy := false, status := 0, set := cellsAfter m }
    xcellDone m = { w with lastWear := tblGet w.wear k, lastRow := nth m.rowMap m.row } := by
  have hset : m.set.contains (cellKey (nth m.rowMap m.row) m.col) = !decide (m.act = 0) :=
    Bool.eq_not_of_ne (bne_iff_ne.1 hw)
  dsimp only
  rw [xcellDone, remapWorn_fit hworn]
  dsimp only
  rw [hset, cellsAfter]
  rcases (by omega : m.act = 0 ∨ m.act = 1) with h | h <;> rw [h] <;> rfl

theorem wearCell_wear (k : Nat) (m : Matrix) : tblGet (wearCell k m).wear k = tblGet m.wear k + 1 := by
  rw [wearCell]
  dsimp only
  split <;> exact tblGet_set_same _ _ _

theorem wearCell_keeps (k : Nat) (m : Matrix) : (wearCell k m).set = m.set ∧ (wearCell k m).busy = m.busy
    ∧ (wearCell k m).status = m.status := by
  rw [wearCell]
  dsimp only
  split <;> exact ⟨rfl, rfl, rfl⟩

theorem contains_cellsAfter (m : Matrix) (ha : m.act ≤ 1) (x : Nat) : (cellsAfter m).contains x =
    if x = cellKey (nth m.rowMap m.row) m.col then decide (m.act = 0) else m.set.contains x := by
  rw [cellsAfter]
  rcases (by omega : m.act = 0 ∨ m.act = 1) with h | h
  · by_cases hx : x = cellKey (nth m.rowMap m.row) m.col <;> simp [h, hx]
  · by_cases hx : x = cellKey (nth m.rowMap m.row) m.col <;> simp [h, hx]

/-- The matrix after a write in a row that is not worn. -/
theorem xcellDone_effects {m : Matrix} (hworn : rowWorn m (nth m.rowMap m.row) = false) (ha : m.act ≤ 1) :
    let k := 16 * nth m.rowMap m.row + m.col
    let n := xcellDone m
    n.busy = false ∧ n.status = 0
    ∧ (if m.set.contains k = decide (m.act = 0) then n.lastRow = m.lastRow ∧ n.lastWear = m.lastWear
      else n.lastRow = nth m.rowMap m.row ∧ n.lastWear = tblGet m.wear k + 1)
    ∧ (∀ x, n.set.contains x = if x = k then decide (m.act = 0) else m.set.contains x)
    ∧ tblGet n.wear k = tblGet m.wear k + (if m.set.contains k = decide (m.act = 0) then 0 else 1) := by
  show let n := xcellDone m
    n.busy = false ∧ n.status = 0
    ∧ (if m.set.contains (cellKey (nth m.rowMap m.row) m.col) = decide (m.act = 0) then _ else _)
    ∧ (∀ x, n.set.contains x = if x = cellKey (nth m.rowMap m.row) m.col then _ else _)
    ∧ tblGet n.wear (cellKey (nth m.rowMap m.row) m.col) = tblGet m.wear (cellKey (nth m.rowMap m.row) m.col)
      + (if m.set.contains (cellKey (nth m.rowMap m.row) m.col) = decide (m.act = 0) then 0 else 1)
  dsimp only
  cases hw : writesCell m with
  | false =>
    have hset : m.set.contains (cellKey (nth m.rowMap m.row) m.col) = decide (m.act = 0) := by simpa [writesCell] using hw
    rw [xcellDone_idle hworn ha hw, if_pos hset, if_pos hset]
    refine ⟨rfl, rfl, ⟨rfl, rfl⟩, fun x => ?_, rfl⟩
    split
    next hx => rw [hx, hset]
    next => rfl
  | true =>
    have hset : ¬m.set.contains (cellKey (nth m.rowMap m.row) m.col) = decide (m.act = 0) := by simpa [writesCell] using hw
    obtain ⟨hcells, hbusy, hstatus⟩ := wearCell_keeps (cellKey (nth m.rowMap m.row) m.col)
      { m with busy := false, status := 0, set := cellsAfter m }
    have hwear := wearCell_wear (cellKey (nth m.rowMap m.row) m.col) { m with busy := false, status := 0, set := cellsAfter m }
    rw [xcellDone_writes hworn ha hw, if_neg hset, if_neg hset]
    refine ⟨hbusy, hstatus, ⟨rfl, hwear⟩, fun x => ?_, hwear⟩
    show (wearCell _ _).set.contains x = _
    rw [hcells]
    exact contains_cellsAfter m ha x

/-! ## Light after a write (R384, R386 to R388) -/

/-- A port of the circuit of a cell that is written. -/
def markPort (s : State) (i row col site d : Nat) (x : Port) : Port :=
  if 4 ≤ d && x.state = .fenced && (portLight (matrixAt s) s.panel.glass site d).1.contains ((islOf s i).site, row, col) then
    { x with changed := true }
  else x

/-- An island with the ports of a written cell's circuit marked. -/
def withMarks (s : State) (i row col : Nat) (x : Island) : Island :=
  { x with ports := x.ports.map fun q => (q.1, markPort s i row col x.site q.1 q.2) }

theorem markChanged_islands (s : State) (i row col : Nat) :
    (markChanged s i row col).islands = s.islands.map fun p => (p.1, withMarks s i row col p.2) := by
  refine List.map_congr_left fun p _ => ?_
  refine congrArg (fun t => (p.1, { p.2 with ports := t })) (List.map_congr_left fun q _ => ?_)
  rw [markPort]
  split <;> rfl

theorem lightMap_markChanged (s : State) (i row col : Nat) : lightMap (markChanged s i row col) = lightMap s := by
  refine Prod.ext ?_ rfl
  show (markChanged s i row col).islands.map _ = _
  rw [markChanged_islands, List.map_map]
  rfl

theorem port?_markChanged (s : State) (i row col : Nat) {j : Nat} (hp : Present s j) (d : Nat) :
    tblGet? (islOf (markChanged s i row col) j).ports d
      = (tblGet? (islOf s j).ports d).map (markPort s i row col (islOf s j).site d) := by
  rw [islOf_map (markChanged_islands s i row col) hp]
  exact tblGet?_mapKey _ (markPort s i row col (islOf s j).site) d

theorem present_map {s t : State} {g : Island → Island} (h : t.islands = s.islands.map fun p => (p.1, g p.2)) {i : Nat}
    (hp : Present s i) : Present t i := by
  rw [Present, h, tblGet?_map, Option.isSome_map]
  exact hp

/-- The matrix, the place and the name of a state's islands, and which ports they have, but for one port's changes. -/
structure PortsLike (s t : State) : Prop where
  view : memView t = memView s
  light : lightMap t = lightMap s
  matrix : ∀ i, (islOf t i).matrix = (islOf s i).matrix
  store : t.panel.store = s.panel.store
  ptime : t.panel.ptime = s.panel.ptime
  port : ∀ j d, Present s j → Present t j ∧ (islOf t j).site = (islOf s j).site
    ∧ ∀ x, tblGet? (islOf s j).ports d = some x →
      ∃ c, tblGet? (islOf t j).ports d = some { x with changed := c }

theorem matrix_of_map {s t : State} {g : Island → Island} (h : t.islands = s.islands.map fun p => (p.1, g p.2))
    (hg : ∀ x, (g x).matrix = x.matrix) (i : Nat) : (islOf t i).matrix = (islOf s i).matrix := by
  rw [islOf, islOf, tblGet, tblGet, h, tblGet?_map]
  cases tblGet? s.islands i with
  | none => rfl
  | some x => exact hg x

theorem portsLike_markChanged (s : State) (i row col : Nat) : PortsLike s (markChanged s i row col) where
  view := by
    rw [memView, markChanged_islands]
    exact viewOf_mapIslands (f := fun _ => withMarks s i row col) (fun _ _ => rfl) _ _ _
  light := lightMap_markChanged s i row col
  matrix := matrix_of_map (markChanged_islands s i row col) fun _ => rfl
  store := rfl
  ptime := rfl
  port j d hp := by
    refine ⟨present_map (markChanged_islands s i row col) hp, by rw [islOf_map (markChanged_islands s i row col) hp]; rfl, ?_⟩
    intro x hx
    rw [port?_markChanged s i row col hp, hx, Option.map_some, markPort]
    split
    · exact ⟨true, rfl⟩
    · exact ⟨x.changed, rfl⟩

theorem PortsLike.trans {s t u : State} (a : PortsLike s t) (b : PortsLike t u) : PortsLike s u where
  view := b.view.trans a.view
  light := b.light.trans a.light
  matrix i := (b.matrix i).trans (a.matrix i)
  store := b.store.trans a.store
  ptime := b.ptime.trans a.ptime
  port j d hp := by
    obtain ⟨hpt, hst, hx⟩ := a.port j d hp
    obtain ⟨hpu, hsu, hy⟩ := b.port j d hpt
    refine ⟨hpu, hsu.trans hst, fun x hs => ?_⟩
    obtain ⟨c, hc⟩ := hx x hs
    obtain ⟨c', hc'⟩ := hy _ hc
    exact ⟨c', hc'⟩

theorem portsLike_refl (s : State) : PortsLike s s := ⟨rfl, rfl, fun _ => rfl, rfl, rfl, fun _ _ hp => ⟨hp, rfl, fun x hx => ⟨x.changed, hx⟩⟩⟩

theorem islands_relight (s : State) : (relight s).islands = s.islands.map fun p => (p.1, withExpress s
    (fun site port e x => joinPort s.panel.ptime (s.panel.store.ports.contains (site, port)) e.1 e.2 x) p.2) :=
  modExpress_islands s _

/-- What light does to a port of either kind of circuit. -/
theorem joinPort_spec (now : Nat) (recorded : Bool) (b : Option Nat) (peer : Option (Nat × Nat)) (x : Port) :
    let y := joinPort now recorded b peer x
    y.peer = peer ∧ y.edge = b.isSome
    ∧ (x.state = .fenced → b = none → peer = none → x.edge = true ∨ x.peer.isSome = true → y.state = .dark ∧ y.fence = true)
    ∧ (x.state = .dark → x.fence = false → x.edge = false → x.peer = none → ¬(b = none ∧ peer = none) → recorded = false →
      y.state = .training ∧ y.since = now) := by
  dsimp only
  rw [joinPort]
  dsimp only
  by_cases hsame : (decide (x.peer = peer) && decide (x.edge = b.isSome) && decide (x.bundle = b.getD 0)) = true
  · rw [if_pos hsame]
    simp only [Bool.and_eq_true, decide_eq_true_eq] at hsame
    obtain ⟨⟨hpeer, hedge⟩, -⟩ := hsame
    refine ⟨hpeer, hedge, fun _ hb hn hwas => ?_, fun _ _ he hx hlit _ => ?_⟩
    · rw [hpeer, hedge, hb, hn] at hwas
      simp at hwas
    · refine absurd ⟨?_, by rw [← hpeer, hx]⟩ hlit
      rw [he] at hedge
      cases b with
      | none => rfl
      | some n => exact absurd hedge (by simp)
  · rw [if_neg hsame]
    refine ⟨?_, ?_, fun hst hb hn _ => ?_, fun hst hf he hx hlit hr => ?_⟩
    · split
      · rfl
      · split <;> rfl
    · split
      · rfl
      · split <;> rfl
    · rw [hst, hb, hn]
      exact ⟨rfl, rfl⟩
    · rw [hst, hf, hr]
      cases b with
      | some n => exact ⟨rfl, rfl⟩
      | none =>
        cases peer with
        | some u => exact ⟨rfl, rfl⟩
        | none => exact absurd ⟨rfl, rfl⟩ hlit

/-- The state with a matrix as the write under way leaves it, its counters stored. -/
def cellWritten (s : State) (i : Nat) : State :=
  let m := (islOf s i).matrix
  let t := modIsl s i fun x => { x with matrix := xcellDone m }
  { t with panel := { t.panel with store := { t.panel.store with
    wear := storeWear (islOf s i).site (crossed20 m (xcellDone m)) t.panel.store.wear } } }

theorem xcellComplete_eq {s : State} {i : Nat} (h : (islOf s i).matrix.busy = true) :
    exec (.xcellComplete i) s = .next (
      if (xcellDone (islOf s i).matrix).set = (islOf s i).matrix.set then wakeAll (cellWritten s i)
      else wakeAll (relight (markChanged (if (islOf s i).matrix.act = 1
        then markChanged (cellWritten s i) i (islOf s i).matrix.row (islOf s i).matrix.col else cellWritten s i) i
        (islOf s i).matrix.row (islOf s i).matrix.col))) := by
  show execXcellComplete i s = _
  rw [execXcellComplete]
  dsimp only
  rw [h]
  show (if _ then _ else _) = _
  rw [if_neg (by decide)]
  split <;> rfl

theorem view_cellWritten (s : State) (i : Nat) : memView (cellWritten s i) = memView s :=
  memView_modIsl (f := fun x => { x with matrix := xcellDone (islOf s i).matrix }) (fun _ => rfl) s i

theorem matrix_cellWritten {s : State} {i : Nat} (hp : Present s i) :
    (islOf (cellWritten s i) i).matrix = xcellDone (islOf s i).matrix := by
  show (islOf (modIsl _ _ _) i).matrix = _
  rw [islOf_modIsl_same _ _ _ hp]

theorem ports_cellWritten (s : State) (i j : Nat) : (islOf (cellWritten s i) j).ports = (islOf s j).ports :=
  islOf_modIsl_keeps (g := fun x => x.ports) (f := fun x => { x with matrix := xcellDone (islOf s i).matrix }) (fun _ => rfl) s i j

theorem site_cellWritten (s : State) (i j : Nat) : (islOf (cellWritten s i) j).site = (islOf s j).site :=
  islOf_modIsl_keeps (g := fun x => x.site) (f := fun x => { x with matrix := xcellDone (islOf s i).matrix }) (fun _ => rfl) s i j

theorem present_cellWritten {s : State} {j : Nat} (i : Nat) (hp : Present s j) : Present (cellWritten s i) j :=
  (present_modIsl s i j _).trans hp

/-- An express port once every port has the far end that its light now leads to. -/
theorem port_relit {s u : State} (h : PortsLike s u) {j q : Nat} {x : Port} (hp : Present s j) (hq : 4 ≤ q)
    (hx : tblGet? (islOf s j).ports q = some x) :
    (islOf (relight u) j).site = (islOf s j).site ∧ ∃ c, portOf (relight u) j q =
      joinPort s.panel.ptime (s.panel.store.ports.contains ((islOf s j).site, q)) (lightEnds (relight u) (islOf s j).site q).1
        (lightEnds (relight u) (islOf s j).site q).2 { x with changed := c } := by
  obtain ⟨hpu, hsite, hports⟩ := h.port j q hp
  obtain ⟨c, hc⟩ := hports x hx
  have hlight : lightMap (relight u) = lightMap u := lightMap_modExpress u _
  refine ⟨by rw [islOf_map (islands_relight u) hpu]; exact hsite, c, ?_⟩
  rw [lightEnds_congr hlight]
  rw [relight, portOf_modExpress u _ hpu hq (by rw [hc]; rfl), portOf_of_some hc, hsite, h.store, h.ptime]

/-- What a switch cell's write leaves: no memory but the wear counters changed, and after a change of the cells every express port
has the far end that its light leads to. -/
theorem xcellComplete_effects {i : Nat} {s : State} (hbusy : (islOf s i).matrix.busy = true)
    (hworn : rowWorn (islOf s i).matrix (nth (islOf s i).matrix.rowMap (islOf s i).matrix.row) = false)
    (hact : (islOf s i).matrix.act ≤ 1) :
    ∃ t, exec (.xcellComplete i) s = .next t ∧ SameMemory s t ∧ (islOf t i).matrix = xcellDone (islOf s i).matrix
    ∧ (writesCell (islOf s i).matrix = true → ∀ j q x, Present s j → 4 ≤ q → tblGet? (islOf s j).ports q = some x →
      (islOf t j).site = (islOf s j).site ∧ ∃ c, portOf t j q =
        joinPort s.panel.ptime (s.panel.store.ports.contains ((islOf s j).site, q)) (lightEnds t (islOf s j).site q).1
          (lightEnds t (islOf s j).site q).2 { x with changed := c }) := by
  have hp : Present s i := by
    rw [Present]
    cases hx : tblGet? s.islands i with
    | some x => rfl
    | none =>
      rw [islOf, tblGet, hx] at hbusy
      exact absurd hbusy (by decide)
  refine ⟨_, xcellComplete_eq hbusy, ?_⟩
  split
  next hset =>
    refine ⟨sameMemory_of_view ((memView_wakeAll _).trans (view_cellWritten s i)), matrix_cellWritten hp, fun hw => ?_⟩
    obtain ⟨-, -, -, hcells, -⟩ := xcellDone_effects hworn hact
    have hk := hcells (16 * nth (islOf s i).matrix.rowMap (islOf s i).matrix.row + (islOf s i).matrix.col)
    rw [hset, if_pos rfl] at hk
    exact absurd hk (bne_iff_ne.1 hw)
  next =>
    generalize hu : markChanged _ i _ _ = u
    have hlike : PortsLike (cellWritten s i) u := by
      rw [← hu]
      split
      · exact (portsLike_markChanged ..).trans (portsLike_markChanged ..)
      · exact portsLike_markChanged ..
    have hview : memView (relight u) = memView u := by
      rw [memView, islands_relight]
      exact viewOf_mapIslands (f := fun _ => withExpress u _) (fun _ _ => rfl) _ _ _
    refine ⟨sameMemory_of_view ?_, ?_, fun _ j q x hpj hq hx => ?_⟩
    · rw [memView_wakeAll, hview, hlike.view, view_cellWritten]
    · show (islOf (relight u) i).matrix = _
      rw [matrix_of_map (islands_relight u) (fun _ => rfl), hlike.matrix, matrix_cellWritten hp]
    · have hport := port_relit hlike (present_cellWritten i hpj) hq (by rw [ports_cellWritten]; exact hx)
      rw [site_cellWritten] at hport
      exact hport

/-- The same, as the registers of the write and the states of the ports show it. -/
theorem xcellComplete_shows {i : Nat} {s : State} (hbusy : (islOf s i).matrix.busy = true)
    (hworn : rowWorn (islOf s i).matrix (nth (islOf s i).matrix.rowMap (islOf s i).matrix.row) = false)
    (hact : (islOf s i).matrix.act ≤ 1) :
    let m := (islOf s i).matrix
    let k := 16 * nth m.rowMap m.row + m.col
    ∃ t, exec (.xcellComplete i) s = .next t ∧ SameMemory s t
    ∧ (islOf t i).matrix.busy = false ∧ (islOf t i).matrix.status = 0
    ∧ (if m.set.contains k = decide (m.act = 0) then
        (islOf t i).matrix.lastRow = m.lastRow ∧ (islOf t i).matrix.lastWear = m.lastWear
      else (islOf t i).matrix.lastRow = nth m.rowMap m.row ∧ (islOf t i).matrix.lastWear = tblGet m.wear k + 1)
    ∧ (∀ x, (islOf t i).matrix.set.contains x = if x = k then decide (m.act = 0) else m.set.contains x)
    ∧ tblGet (islOf t i).matrix.wear k
      = tblGet m.wear k + (if m.set.contains k = decide (m.act = 0) then 0 else 1)
    ∧ (m.set.contains k ≠ decide (m.act = 0) → ∀ j q, Present s j → 4 ≤ q → (tblGet? (islOf s j).ports q).isSome = true →
      let x := portOf s j q
      let e := lightEnds t (islOf t j).site q
      (portOf t j q).peer = e.2 ∧ (portOf t j q).edge = e.1.isSome
      ∧ (x.state = .fenced → e = (none, none) → x.edge = true ∨ x.peer.isSome = true →
        (portOf t j q).state = .dark ∧ (portOf t j q).fence = true)
      ∧ (x.state = .dark → x.fence = false → x.edge = false → x.peer = none → e ≠ (none, none) →
        ((islOf s j).site, q) ∉ s.panel.store.ports → (portOf t j q).state = .training ∧ (portOf t j q).since = s.panel.ptime)) := by
  obtain ⟨t, ht, hmem, hmatrix, hports⟩ := xcellComplete_effects hbusy hworn hact
  obtain ⟨hb, hst, hlast, hcells, hwear⟩ := xcellDone_effects hworn hact
  dsimp only
  refine ⟨t, ht, hmem, ?_⟩
  rw [hmatrix]
  refine ⟨hb, hst, hlast, hcells, hwear, fun hne j q hpj hq hsome => ?_⟩
  obtain ⟨x, hx⟩ := Option.isSome_iff_exists.1 hsome
  obtain ⟨hsite, c, hport⟩ := hports (bne_iff_ne.2 hne) j q x hpj hq hx
  rw [hsite, hport, portOf_of_some hx]
  obtain ⟨hpeer, hedge, hdark, htrain⟩ := joinPort_spec s.panel.ptime (s.panel.store.ports.contains ((islOf s j).site, q))
    (lightEnds t (islOf s j).site q).1 (lightEnds t (islOf s j).site q).2 { x with changed := c }
  refine ⟨hpeer, hedge, fun hf he hwas => ?_, fun hd hf he hn hlit hr => ?_⟩
  · exact hdark hf (congrArg Prod.fst he) (congrArg Prod.snd he) hwas
  · exact htrain hd hf he hn (fun hnone => hlit (Prod.ext hnone.1 hnone.2)) (by simpa using hr)

/-! ## Host ports and shutdown (R385, R393) -/

theorem hostPortLinkChange_eq {p : Nat} (up : Bool) (s : State) (hp : p < 4) : exec (.hostPortLinkChange p up) s =
    .next { s with panel := { s.panel with
      down := if up = true then s.panel.down.filter (· ≠ p)
        else if s.panel.down.contains p = true then s.panel.down else s.panel.down ++ [p] } } := by
  show execHostPortLinkChange p up s = _
  rw [execHostPortLinkChange, if_neg (by omega)]

/-- Storing one island's counters keeps what other islands have stored. -/
theorem mem_storeWear_other {l : List (Nat × Nat × Nat)} {i : Nat} (ws : List (Nat × Nat)) {w : Nat × Nat × Nat} (h : w ∈ l)
    (hi : w.1 ≠ i) : w ∈ storeWear i ws l :=
  List.mem_append_left _ (List.mem_filter.2 ⟨h, by simp [hi]⟩)

theorem mem_storeWear_own {ws : List (Nat × Nat)} {w : Nat × Nat} (i : Nat) (l : List (Nat × Nat × Nat)) (h : w ∈ ws) :
    (i, w.1, w.2) ∈ storeWear i ws l :=
  List.mem_append_right _ (List.mem_map.2 ⟨w, h, rfl⟩)

/-- One island's counters stored. -/
def storeIsland (s : State) (p : Nat × Island) : State :=
  { s with panel := { s.panel with store := { s.panel.store with wear := storeWear p.2.site p.2.matrix.wear s.panel.store.wear } } }

/-- What a counter's store leaves, while islands of other sites store theirs. -/
theorem shutdown_keeps {l : List (Nat × Island)} {s : State} {w : Nat × Nat × Nat} (h : w ∈ s.panel.store.wear)
    (hl : ∀ p ∈ l, p.2.site ≠ w.1) : w ∈ (l.foldl storeIsland s).panel.store.wear := by
  induction l generalizing s with
  | nil => exact h
  | cons p l ih =>
    obtain ⟨hp, hl⟩ := List.forall_mem_cons.1 hl
    exact ih (mem_storeWear_other _ h (Ne.symm hp)) hl

theorem shutdown_stores {l : List (Nat × Island)} (hnd : (l.map fun p => p.2.site).Nodup) (s : State) :
    PanelOnly s (l.foldl storeIsland s)
    ∧ ∀ p ∈ l, ∀ w ∈ p.2.matrix.wear, (p.2.site, w.1, w.2) ∈ (l.foldl storeIsland s).panel.store.wear := by
  induction l generalizing s with
  | nil => exact ⟨rfl, fun p hp => absurd hp (by simp)⟩
  | cons a l ih =>
    obtain ⟨ha, hnd⟩ := List.nodup_cons.1 hnd
    obtain ⟨honly, hl⟩ := ih hnd (storeIsland s a)
    refine ⟨panelOnly_trans (s := s) (t := storeIsland s a) rfl honly, fun p hp w hw => ?_⟩
    rcases List.mem_cons.1 hp with rfl | hp
    · refine shutdown_keeps (s := storeIsland s p) (mem_storeWear_own _ _ hw) fun q hq he => ha (List.mem_map.2 ⟨q, hq, he⟩)
    · exact hl p hp w hw

/-- Settles O56, event by event: a replacement's cell is read back field by field, and a cell's write is followed through the
matrix to the far end of every port's light. -/
theorem routeAndSwitchResults : Obligations.RouteAndSwitchResults := by
  unfold Obligations.RouteAndSwitchResults
  refine ⟨fun d s => routeMapInvalidate_effects, fun d s h => ?_, fun src dst entry alt s => ?_, fun src q entry hops alt s => ?_,
    fun src dst entry hops alt s => replacementRoute_not_due, fun e s u hu hue hold hn hf => routeEntryReuse_due hu hue hold hn hf,
    fun e s => routeEntryReuse_not_due, fun i r c s h => congrArg _ (xcellWrite_busy _ _ _ h),
    fun i r c s h => congrArg _ (xcellWrite_busy _ _ _ h), fun i r c s h => congrArg _ (xcellWrite_outside _ h.1 h.2),
    fun i r c s h => congrArg _ (xcellWrite_outside _ h.1 h.2), fun i r c s h => ?_, fun i r c s h => ?_, fun i r c s h => ?_,
    fun i r c s h => ?_, fun i r c s h => ?_, fun i s h => ?_, fun i s => xcellComplete_shows, fun p s _ => rfl,
    fun p s hp => ?_, fun p s hp => ?_, fun p up s hp => ?_, fun s hnd => ?_⟩
  · show execRouteMapInvalidate d s = _
    rw [execRouteMapInvalidate, if_neg (by simp [h])]
  · intro w hops hp hd hc hfree hne hq hv
    obtain ⟨l, ht⟩ := replacementRoute_fits hc hfree (by rw [if_pos hd]; exact ⟨rfl, hne, hq, hv⟩)
    obtain ⟨hcores, hroute, hcell⟩ := rerouted_effects dst hops alt l hp (poolFree_lt hfree)
    refine ⟨_, ht, hcores, hroute, ?_⟩
    rw [if_neg (by rw [hv]; decide)] at hcell
    cases alt <;> simp only [cellFields, Prod.mk.injEq, Bool.false_eq_true, if_false, if_true] at hcell ⊢
    · exact ⟨hcell.1, hcell.2.1, hcell.2.2.2.1, hcell.2.2.1⟩
    · exact ⟨hcell.1, hcell.2.2.2.1, hcell.2.1, hcell.2.2.2.2⟩
  · intro w hp hq hne hc hfree
    obtain ⟨l, ht⟩ := replacementRoute_fits (src := src) (dst := 64 + q) (alt := alt) hc hfree
      (by rw [if_neg (by omega)]; exact ⟨by omega, by omega, hp⟩)
    obtain ⟨hcores, hroute, hcell⟩ := rerouted_effects (64 + q) hops alt l hp (poolFree_lt hfree)
    refine ⟨_, ht, hcores, hroute, ?_⟩
    cases hv : cellValid w <;> cases alt <;>
      simp only [w, hv, cellFields, Prod.mk.injEq, Bool.false_eq_true, Bool.true_eq_false, if_false, if_true] at hcell ⊢ <;>
      obtain ⟨hvalid, hpri, hcapp, halt, hcapa⟩ := hcell <;> simp [hvalid, hpri, hcapp, halt, hcapa]
  · obtain ⟨hbusy, hr, hc, hrow⟩ := h
    exact congrArg _ (xcellWrite_begins hbusy (by omega) hr hc (by simp) hrow)
  · obtain ⟨hbusy, hr, hc, hrow⟩ := h
    exact congrArg _ (xcellWrite_worn hbusy (by omega) hr hc (by simp) hrow)
  · obtain ⟨hbusy, hr, hc, hrow, hcut⟩ := h
    exact congrArg _ (xcellWrite_begins hbusy (by omega) hr hc (fun _ => hcut) hrow)
  · obtain ⟨hbusy, hr, hc, hrow, hcut⟩ := h
    exact congrArg _ (xcellWrite_worn hbusy (by omega) hr hc (fun _ => hcut) hrow)
  · obtain ⟨hbusy, hr, hc, hcut⟩ := h
    exact congrArg _ (xcellWrite_cuts hbusy hr hc hcut)
  · show execXcellComplete i s = _
    rw [execXcellComplete]
    dsimp only
    rw [h]
    rfl
  · refine ⟨_, hostPortLinkChange_eq true s hp, rfl, ?_, fun q hq => ?_⟩
    · simp
    · simp [hq]
  · refine ⟨_, hostPortLinkChange_eq false s hp, rfl, ?_, fun q hq => ?_⟩
    · by_cases hd : s.panel.down.contains p = true <;> simp_all
    · by_cases hd : s.panel.down.contains p = true <;> simp_all
  · show execHostPortLinkChange p up s = _
    rw [execHostPortLinkChange, if_pos hp]
  · exact ⟨s.islands.foldl storeIsland s, rfl, shutdown_stores hnd s⟩

end Sys2Proof.Proofs

/-! PROOFS. Requests of remote operations at their home (O57, its first part). -/

namespace Sys2Proof.Proofs

open Sys2Proof Sys2Proof.Machine Sys2Proof.Laws

/-! ## What a counter's increment leaves of operations under way -/

/-- What an operation's end goes by at its group. -/
def opsOf (s : State) (k : Nat) : List FlightOp × Regs × List HeldFault := ((grpOf s k).ops, (grpOf s k).regs, (grpOf s k).held)

/-- What an operation's end goes by at its island. -/
def remotesOf (s : State) (j : Nat) : Tbl RemoteOp × List RangeLock × List RemotePacket :=
  ((islOf s j).remotes, (islOf s j).mem.locks, (islOf s j).inbox)

/-- The operations of the islands and of the groups are as before. -/
structure EndKept (s t : State) : Prop where
  present : ∀ j, (tblGet? t.islands j).isSome = (tblGet? s.islands j).isSome
  island : ∀ j, remotesOf t j = remotesOf s j
  group : ∀ k, opsOf t k = opsOf s k

theorem endKept_refl (s : State) : EndKept s s := ⟨fun _ => rfl, fun _ => rfl, fun _ => rfl⟩

theorem EndKept.trans {s t u : State} (a : EndKept s t) (b : EndKept t u) : EndKept s u :=
  ⟨fun j => (b.present j).trans (a.present j), fun j => (b.island j).trans (a.island j), fun k => (b.group k).trans (a.group k)⟩

theorem endKept_foldl {α : Type} {f : State → α → State} (h : ∀ s x, EndKept s (f s x)) (l : List α) (s : State) :
    EndKept s (l.foldl f s) := by
  induction l generalizing s with
  | nil => exact endKept_refl s
  | cons x l ih => exact (h s x).trans (ih _)

theorem endKept_modIsl {f : Island → Island}
    (h : ∀ x, (f x).remotes = x.remotes ∧ (f x).mem.locks = x.mem.locks ∧ (f x).inbox = x.inbox) (s : State) (i : Nat) :
    EndKept s (modIsl s i f) where
  present j := present_modIsl s i j f
  island j := islOf_modIsl_keeps (g := fun x => (x.remotes, x.mem.locks, x.inbox)) (f := f)
    (fun x => by obtain ⟨h1, h2, h3⟩ := h x; rw [h1, h2, h3]) s i j
  group _ := rfl

/-- Groups changed one by one, but for their operations, registers and held faults. -/
theorem endKept_mapGroups {s t : State} {g : Group → Group} (h : ∀ x, (g x).ops = x.ops ∧ (g x).regs = x.regs ∧ (g x).held = x.held)
    (hi : t.islands = s.islands) (hg : t.groups = s.groups.map fun p => (p.1, g p.2)) : EndKept s t where
  present j := by rw [hi]
  island j := by rw [remotesOf, remotesOf, islOf, islOf, hi]
  group k := by
    rw [opsOf, opsOf, grpOf, grpOf, tblGet, tblGet, hg, tblGet?_map]
    cases tblGet? s.groups k with
    | none => rfl
    | some x =>
      obtain ⟨h1, h2, h3⟩ := h x
      simp only [Option.map_some, Option.getD_some, h1, h2, h3]

theorem endKept_wakeAll (s : State) : EndKept s (wakeAll s) := endKept_mapGroups (g := wake) (fun _ => ⟨rfl, rfl, rfl⟩) rfl rfl

theorem endKept_sampleCtx (s : State) (i src c v : Nat) : EndKept s (sampleCtx s i src c v) := by
  rw [sampleCtx]
  split
  · exact endKept_modIsl (f := fun x => { x with monitors := sampleOwned x.monitors src c v }) (fun _ => ⟨rfl, rfl, rfl⟩) s i
  · exact endKept_refl s

theorem endKept_sampleWaits (n : Nat) (s : State) (i src c : Nat) : EndKept s (sampleWaits s i src c n) := by
  induction n generalizing s with
  | zero => exact endKept_refl s
  | succ n ih => exact (endKept_sampleCtx ..).trans (ih _)

theorem endKept_ctrSeen (i n : Nat) (x : DWord) (s : State) (p : Nat × Group) : EndKept s (ctrSeen i n x s p) := by
  rw [ctrSeen]
  split
  · exact (endKept_modIsl (f := fun x => { x with mem := dropSi x.mem (l1Of p.2.ident.pool p.2.ident.core) })
      (fun _ => ⟨rfl, rfl, rfl⟩) s _).trans (endKept_sampleWaits ..)
  · exact endKept_refl s

theorem ctrWake_keeps (n : Nat) (x : DWord) (c : Clock) (tick : Nat) (g : Group) : (ctrWake n x c tick g).ops = g.ops
    ∧ (ctrWake n x c tick g).regs = g.regs ∧ (ctrWake n x c tick g).held = g.held := by
  rw [ctrWake]
  split
  · simp only [wake, settle, learn]
    split <;> exact ⟨rfl, rfl, rfl⟩
  · exact ⟨rfl, rfl, rfl⟩

theorem endKept_ctrSet (s : State) (i n : Nat) (x : DWord) : EndKept s (ctrSet s i n x) := by
  have hput : EndKept s (ctrPut s i (n % 65536) x) :=
    endKept_modIsl (f := fun y => { y with ncs := tblSet y.ncs (n % 65536) x }) (fun _ => ⟨rfl, rfl, rfl⟩) s i
  have hseen := endKept_foldl (endKept_ctrSeen i (n % 65536) x) (ctrPut s i (n % 65536) x).groups (ctrPut s i (n % 65536) x)
  rw [ctrSet_eq]
  refine (hput.trans hseen).trans (endKept_mapGroups (g := fun g => if g.ident.island = i then
    ctrWake (n % 65536) x (ctrClock ((ctrPut s i (n % 65536) x).groups.foldl (ctrSeen i (n % 65536) x) (ctrPut s i (n % 65536) x)) i
      (n % 65536)) ((ctrPut s i (n % 65536) x).groups.foldl (ctrSeen i (n % 65536) x) (ctrPut s i (n % 65536) x)).tick g else g) ?_ rfl ?_)
  · intro g
    split
    · exact ctrWake_keeps ..
    · exact ⟨rfl, rfl, rfl⟩
  · refine List.map_congr_left fun p _ => ?_
    split <;> rfl

theorem endKept_ctrAdd (s : State) (i n : Nat) (k : DWord) : EndKept s (ctrAdd s i n k) := by
  rw [ctrAdd]
  split
  · exact endKept_ctrSet ..
  · exact (endKept_modIsl (f := fun x => { x with ncClk := tblMod x.ncClk (n % 65536) fun c => joinClock c s.panel.clk })
      (fun _ => ⟨rfl, rfl, rfl⟩) s i).trans (endKept_ctrSet ..)

/-! ## What leaves the memories as they are -/

@[simp] theorem memView_noteTraffic (s : State) (i c : Nat) : memView (noteTraffic s i c) = memView s := memView_modCtx ..

@[simp] theorem memView_addRecord (s : State) (i : Nat) (r : Performed) : memView (addRecord s i r) = memView s :=
  memView_modIsl (f := fun x => { x with performed := r :: keepNewest r 1023 x.performed }) (fun _ => rfl) s i

@[simp] theorem memView_touchSpan (i vn a n : Nat) (wr : Bool) (s : State) : memView (touchSpan i vn a n wr s) = memView s := by
  rw [touchSpan]
  split
  · rfl
  · exact memView_modMem (fun m => memPart_foldl (fun m j => by
      dsimp only
      split
      · exact memPart_cacheAccess ..
      · exact memPart_vcTouch ..) _ m) s i

theorem memView_homeRecord (s : State) (i : Nat) (p : RemotePacket) (old : DWord) (bad : Bool) :
    memView (homeRecord s i p old bad) = memView s := by
  rw [homeRecord]
  split
  · rfl
  · exact memView_addRecord ..

theorem homeNotify_plain {s : State} {i : Nat} {p : RemotePacket} (h : p.rne = false) : homeNotify s i p = s := by
  rw [homeNotify, if_neg (by simp [h])]

/-! ## Performing a packet (R403, R404) -/

theorem perform_again {s : State} {i : Nat} {p : RemotePacket} {q : Performed} (hk : p.kind ≠ .get)
    (hq : foundRecord s i p = some q) : perform s i p = (s, .done 0 [] [] q.old q.bad) := by
  rw [perform]
  dsimp only
  rw [if_neg hk, hq]

theorem perform_gone {s : State} {i : Nat} {p : RemotePacket} (h : p.kind = .get ∨ foundRecord s i p = none)
    (hst : Machine.stateOf s i p.ctx = .built ∨ Machine.stateOf s i p.ctx = .terminated) : perform s i p = (s, .done 0x10 [] [] 0 false) := by
  have hnone : (if p.kind = .get then none else foundRecord s i p) = none := by
    rcases h with h | h <;> simp [h]
  rw [perform]
  dsimp only
  rw [hnone]
  exact if_pos (by simpa [Machine.stateOf] using hst)

/-- A packet that no record answers, of a context that takes it. -/
theorem perform_fresh {s : State} {i : Nat} {p : RemotePacket} (h : Fresh s i p) : perform s i p =
    match (homeAccess s i p).2 with
    | .done 0 bs ms old bad =>
      (homeRecord (noteTraffic (homeNotify (homeAccess s i p).1 i p) i p.ctx) i p old bad, .done 0 bs ms old bad)
    | .done st bs ms old bad => (noteTraffic (homeAccess s i p).1 i p.ctx, .done st bs ms old bad)
    | .waits => (s, .waits) := by
  obtain ⟨hrec, hbuilt, hterm, hctr⟩ := h
  have hnone : (if p.kind = .get then none else foundRecord s i p) = none := by
    rcases hrec with h | h <;> simp [h]
  rw [perform]
  dsimp only
  rw [hnone]
  dsimp only
  refine (if_neg ?_).trans ((if_neg ?_).trans rfl)
  · simp only [Bool.or_eq_true, decide_eq_true_eq, not_or]
    exact ⟨hbuilt, hterm⟩
  · intro hno
    simp only [Bool.and_eq_true, Bool.or_eq_true, decide_eq_true_eq, Bool.not_eq_true'] at hno
    rw [hctr hno.1] at hno
    exact absurd hno.2 (by decide)

theorem perform_done {s s1 : State} {i : Nat} {p : RemotePacket} {bs : List Byte} {ms : List Nat} {old : DWord} {bad : Bool}
    (h : Fresh s i p) (hr : p.rne = false) (ha : homeAccess s i p = (s1, .done 0 bs ms old bad)) :
    perform s i p = (homeRecord (noteTraffic s1 i p.ctx) i p old bad, .done 0 bs ms old bad) := by
  rw [perform_fresh h, ha]
  show (homeRecord (noteTraffic (homeNotify s1 i p) i p.ctx) i p old bad, _) = _
  rw [homeNotify_plain hr]

theorem perform_fails {s s1 : State} {i st : Nat} {p : RemotePacket} (h : Fresh s i p) (hst : st ≠ 0)
    (ha : homeAccess s i p = (s1, .done st [] [] 0 false)) :
    perform s i p = (noteTraffic s1 i p.ctx, .done st [] [] 0 false) := by
  rw [perform_fresh h, ha]
  dsimp only
  split
  next he =>
    injection he with he
    exact absurd he hst
  next he =>
    injection he with h1 h2 h3 h4 h5
    subst h1 h2 h3 h4 h5
    rfl
  next he => nomatch he

theorem perform_waits {s s1 : State} {i : Nat} {p : RemotePacket} (h : perform s i p = (s1, .waits)) : s1 = s := by
  rw [perform] at h
  dsimp only at h
  split at h
  · simp at h
  · split at h
    · simp at h
    · split at h
      · simp at h
      · split at h
        · simp at h
        · simp at h
        · simp only [Prod.mk.injEq, and_true] at h
          exact h.symm

/-- A packet that is performed leaves a record of it, but for a GET. -/
theorem recorded_found {s : State} {i : Nat} {p : RemotePacket} (old : DWord) (bad : Bool) (hp : Present s i) (hk : p.kind ≠ .get) :
    (foundRecord (homeRecord (noteTraffic s i p.ctx) i p old bad) i p).isSome = true := by
  have hp' : Present (noteTraffic s i p.ctx) i := (present_modIsl ..).trans hp
  rw [homeRecord, if_neg (by simp [hk]), foundRecord, addRecord, islOf_modIsl_same _ _ _ hp']
  simp [recordOf]

theorem view_performed (s : State) (i : Nat) (p : RemotePacket) (old : DWord) (bad : Bool) :
    memView (homeRecord (noteTraffic s i p.ctx) i p old bad) = memView s := by
  rw [memView_homeRecord, memView_noteTraffic]

theorem ctrOf_performed (s : State) (i : Nat) (p : RemotePacket) (old : DWord) (bad : Bool) (j m : Nat) :
    ctrOf (homeRecord (noteTraffic s i p.ctx) i p old bad) j m = ctrOf s j m := by
  have htraffic : ctrOf (noteTraffic s i p.ctx) j m = ctrOf s j m :=
    ctrOf_modIsl (f := fun x => { x with ctxs := tblAdj x.ctxs p.ctx fun y => { y with trafficAt := some s.panel.ptime } })
      (fun _ => rfl) s i j m
  rw [homeRecord]
  split
  · exact htraffic
  · refine Eq.trans (ctrOf_modIsl (f := fun x => { x with performed := _ :: keepNewest _ 1023 x.performed }) ?_ _ i j m) htraffic
    exact fun _ => rfl

theorem notify_performed {s : State} {i : Nat} {p : RemotePacket} (h : Fresh s i p) (hp : Present s i) (hk : p.kind = .notify)
    (hr : p.rne = false) : ∃ t, perform s i p = (t, .done 0 [] [] 0 false)
    ∧ SameMemory s t ∧ ctrOf t i (p.rctr % 65536) = ctrOf s i (p.rctr % 65536) + p.val
    ∧ (foundRecord t i p).isSome = true := by
  have ha : homeAccess s i p = (ctrAdd s i p.rctr p.val, .done 0 [] [] 0 false) := by rw [homeAccess, hk]
  have hset := counterSet_ctrAdd s i p.rctr p.val
  have hpres : Present (ctrAdd s i p.rctr p.val) i := ((endKept_ctrAdd s i p.rctr p.val).present i).trans hp
  refine ⟨_, perform_done h hr ha, sameMemory_of_view ((view_performed ..).trans hset.view), ?_, recorded_found _ _ hpres (by simp [hk])⟩
  rw [ctrOf_performed]
  exact hset.same hp

/-! ## One access at the home -/

theorem spansOf_line {va n : Nat} (hn : 0 < n) (h : va % 64 + n ≤ 64) : spansOf va n = [(va, n)] := by
  rw [spansOf, show n / 64 + 2 = (n / 64 + 1) + 1 from rfl, cutSpans, if_neg (by omega)]
  dsimp only
  rw [show min n (64 - va % 64) = n by omega, Nat.sub_self, cutSpans, if_pos rfl]

theorem ownMem_homeAt (s : State) (i c va : Nat) (acc : Acc) : OwnMem i s (homeAt s i c va acc).1 := by
  have htr : OwnMem i s (Machine.translate s i c (ctxOf s i c).priv va acc 0).1 := ownMem_walkHeld s i c va acc (ctxOf s i c).priv 0
  rw [homeAt]
  split
  · exact ownMem_refl ..
  · dsimp only
    split
    · exact htr
    · exact htr
    · have hvc := fun x => ownMem_trans htr (ownMem_vctEntry (Machine.translate s i c (ctxOf s i c).priv va acc 0).1 i c x 0)
      split <;> exact hvc _

theorem landSpan_plain (i a off : Nat) (bs : List Byte) (o : Option DirtyRef) (s : State) :
    landSpan i a off bs [] o s = physPut (setDirty s i a o) i a bs := rfl

theorem present_homeAt {s s1 : State} {i c va : Nat} {acc : Acc} {x : HomeAt} (h : homeAt s i c va acc = (s1, x)) (hp : Present s i) :
    Present s1 i := by
  have hown := ownMem_homeAt s i c va acc
  rw [h] at hown
  exact hown.present.trans hp

theorem ownMem_touchSpan (i vn a n : Nat) (wr : Bool) (s : State) : OwnMem i s (touchSpan i vn a n wr s) := by
  rw [touchSpan]
  split
  · exact ownMem_refl ..
  · exact ownMem_modMem ..

/-- Bytes that stand at an address after a write over it, whose D bit has been set before. -/
theorem byteAt_put_same {s : State} {i a j : Nat} {bs : List Byte} (o : Option DirtyRef) (hp : Present s i) (hj : j < bs.length)
    (hside : a + bs.length ≤ hostBase ∨ hostBase ≤ a) :
    byteAt (physPut (setDirty s i a o) i a bs) i (a + j) = bs.getD j 0 := by
  rw [byteAt_physPut_same ((ownMem_setDirty s i a o).present.trans hp) hj hside, List.getD_eq_getElem _ _ hj]

theorem put_performed {s s1 : State} {i vn : Nat} {p : RemotePacket} {l : Loc} (h : Fresh s i p) (hp : Present s i)
    (hk : p.kind = .put) (hr : p.rne = false) (hm : p.marks = []) (hd : p.data ≠ []) (hline : p.va % 64 + p.data.length ≤ 64)
    (hat : homeAt s i p.ctx p.va .write = (s1, .ok l vn)) (hside : l.phys + p.data.length ≤ hostBase ∨ hostBase ≤ l.phys) :
    ∃ t, perform s i p = (t, .done 0 [] [] 0 false)
    ∧ (∀ j, j < p.data.length → byteAt t i (l.phys + j) = p.data.getD j 0)
    ∧ ((∀ e, l.dirtyAt = some e → entryAt s1 i e.addr ||| 0x80#64 = e.entry ||| 0xC0#64) →
      ∀ isl a, ((isHost a = true ∨ isl = i) → a < l.phys ∨ l.phys + p.data.length ≤ a) →
      (∀ e, l.dirtyAt = some e → isl = i → a < e.addr ∨ e.addr + 8 ≤ a) → byteAt t isl a = byteAt s1 isl a)
    ∧ (foundRecord t i p).isSome = true := by
  let s2 := physPut (setDirty s1 i l.phys l.dirtyAt) i l.phys p.data
  let s3 := touchSpan i vn l.phys p.data.length true s2
  have hp1 := present_homeAt hat hp
  have ha : homeAccess s i p = (s3, .done 0 [] [] 0 false) := by
    rw [homeAccess, hk]
    dsimp only
    rw [spansOf_line (List.length_pos_of_ne_nil hd) hline, homePut, hat]
    dsimp only
    rw [hm, homePut, List.take_length]
    rfl
  have hp3 : Present s3 i := ((ownMem_touchSpan ..).present.trans ((ownMem_physPut ..).present.trans
    (ownMem_setDirty ..).present)).trans hp1
  have hview : memView (homeRecord (noteTraffic s3 i p.ctx) i p 0 false) = memView s2 := by
    rw [view_performed]
    exact memView_touchSpan ..
  refine ⟨_, perform_done h hr ha, fun j hj => ?_, fun hwalked isl a hclear hentry => ?_, recorded_found _ _ hp3 (by simp [hk])⟩
  · rw [byteAt_of_view hview]
    exact byteAt_put_same _ hp1 hj hside
  · rw [byteAt_of_view hview, byteAt_physPut_other hclear, byteAt_setDirty_other hwalked hentry]

theorem get_performed {s s1 : State} {i vn : Nat} {p : RemotePacket} {l : Loc} (h : Fresh s i p) (hk : p.kind = .get)
    (hr : p.rne = false) (hlen : 0 < p.len) (hline : p.va % 64 + p.len ≤ 64) (hat : homeAt s i p.ctx p.va .read = (s1, .ok l vn))
    (hclean : ∀ j, j < p.len → marked s1 i (l.phys + j) = false) :
    ∃ t, perform s i p = (t, .done 0 (physBytes s1 i l.phys p.len) [] 0 false) ∧ SameMemory s1 t := by
  have hread : readSpan s1 i l.phys 0 p.len = (physBytes s1 i l.phys p.len, []) := by
    have hbad : (List.range p.len).filter (fun j => marked s1 i (l.phys + j)) = [] :=
      List.filter_eq_nil_iff.2 fun j hj => by simp [hclean j (List.mem_range.1 hj)]
    rw [readSpan, hbad, if_pos rfl, List.map_nil]
  have ha : homeAccess s i p = (touchSpan i vn l.phys p.len false s1, .done 0 (physBytes s1 i l.phys p.len) [] 0 false) := by
    rw [homeAccess, hk]
    dsimp only
    rw [spansOf_line hlen hline, homeGet, hat]
    dsimp only
    rw [hread, homeGet]
    show (touchSpan i vn l.phys p.len false s1, HomeDo.done 0 (_ ++ []) _ 0 false) = _
    rw [List.append_nil]
    rfl
  refine ⟨_, perform_done h hr ha, sameMemory_of_view ?_⟩
  rw [view_performed, memView_touchSpan]

theorem physNat_put_same {s : State} {i a n : Nat} (x : Nat) (hp : Present s i) :
    physNat (physPut s i a (leBytes x n)) i a n = x % 2 ^ (8 * n) := by
  have hput := physBytes_physPut_same (p := a) (bs := leBytes x n) hp
  rw [leBytes_length] at hput
  rw [physNat, hput, leNat_leBytes, Nat.pow_mul]

theorem ratom_performed {s s1 : State} {i vn : Nat} {p : RemotePacket} {l : Loc} (h : Fresh s i p) (hp : Present s i)
    (hk : p.kind = .ratom) (hr : p.rne = false) (hat : homeAt s i p.ctx p.va .atomic = (s1, .ok l vn))
    (hclean : marked s1 i l.phys = false) :
    let n := ratomBytes p.small
    let v := p.val.toNat % 2 ^ (8 * n)
    let act : AtomAct := if p.aop = 14 then .cas v (p.expect.toNat % 2 ^ (8 * n)) else .op p.aop v
    ∃ t, perform s i p = (t, .done 0 [] [] (BitVec.ofNat 64 (physNat s1 i l.phys n)) false)
    ∧ (∀ new, atomNew act n (physNat s1 i l.phys n) = some new → physNat t i l.phys n = new % 2 ^ (8 * n))
    ∧ (atomNew act n (physNat s1 i l.phys n) = none → SameMemory s1 t) ∧ (foundRecord t i p).isSome = true := by
  intro n v act
  let s2 := match atomNew act n (physNat s1 i l.phys n) with
    | some x => physPut (setDirty s1 i l.phys l.dirtyAt) i l.phys (leBytes x n)
    | none => s1
  let s3 := modMem s2 i fun m => cacheAccess m vn 0 1024 (l.phys / 64) 0 .atomic
  have ha : homeAccess s i p = (s3, .done 0 [] [] (BitVec.ofNat 64 (physNat s1 i l.phys n)) false) := by
    rw [homeAccess, hk]
    dsimp only
    rw [homeRatom, hat]
    dsimp only
    rw [hclean]
    rfl
  have hp1 := present_homeAt hat hp
  have hp2 : Present s2 i := by
    dsimp only [s2]
    split
    · exact ((ownMem_physPut ..).present.trans (ownMem_setDirty ..).present).trans hp1
    · exact hp1
  have hp3 : Present s3 i := (ownMem_modMem ..).present.trans hp2
  have hview : ∀ old bad, memView (homeRecord (noteTraffic s3 i p.ctx) i p old bad) = memView s2 := fun old bad => by
    rw [view_performed]
    exact memView_modMem (fun m => memPart_cacheAccess ..) s2 i
  refine ⟨_, perform_done h hr ha, fun new hnew => ?_, fun hnone => sameMemory_of_view ?_, recorded_found _ _ hp3 (by simp [hk])⟩
  · rw [physNat, physBytes_of_view (hview ..), ← physNat]
    dsimp only [s2]
    rw [hnew]
    exact physNat_put_same new ((ownMem_setDirty ..).present.trans hp1)
  · rw [hview]
    dsimp only [s2]
    rw [hnone]

theorem ratom_fails {s s1 : State} {i st : Nat} {p : RemotePacket} (h : Fresh s i p) (hk : p.kind = .ratom)
    (hat : homeAt s i p.ctx p.va .atomic = (s1, .fails st)) (hst : st ≠ 0) :
    perform s i p = (noteTraffic s1 i p.ctx, .done st [] [] 0 false) := by
  refine perform_fails h hst ?_
  rw [homeAccess, hk]
  dsimp only
  rw [homeRatom, hat]

/-! ## The request at the head of an island's packets -/

/-- The state in which a performed request has been answered, or waits behind the others. -/
def homeAnswered (own i : Nat) (p : RemotePacket) (s1 : State) (x : HomeDo) : State :=
  match x with
  | .waits => deliverPacket s1 i p
  | .done st bs ms old bad =>
    match emit s1 i (replyOf own i p st bs ms old bad) with
    | .gone s => s
    | _ => s1

/-- The oldest request delivered, as it is performed and answered. -/
theorem packetAtHome {i : Nat} {s s1 : State} {p : RemotePacket} {x : HomeDo}
    (hfind : (islOf s i).inbox.find? (fun p => !p.reply) = some p) (hdo : perform (takeInbox s i p) i p = (s1, x)) :
    exec (.remotePacketAtHome i) s = .next (homeAnswered s.panel.number i p s1 x) := by
  show execRemotePacketAtHome i s = _
  rw [execRemotePacketAtHome, hfind]
  dsimp only
  rw [hdo]
  cases x with
  | waits => rfl
  | done st bs ms old bad =>
    show (match emit s1 i (replyOf s.panel.number i p st bs ms old bad) with
      | .gone s => _
      | _ => _) = Host.Outcome.next (match emit s1 i (replyOf s.panel.number i p st bs ms old bad) with
        | .gone s => s
        | _ => s1)
    cases emit s1 i (replyOf s.panel.number i p st bs ms old bad) <;> rfl

/-- The reply of a performed packet, towards its requester. -/
theorem emit_reply (s : State) (own i : Nat) (p : RemotePacket) (st : Nat) (bs : List Byte) (ms : List Nat) (old : DWord) (bad : Bool) :
    emit s i (replyOf own i p st bs ms old bad) =
      if p.spanel = s.panel.number ∧ p.sisl = i then .gone (deliverPacket s i (replyOf own i p st bs ms old bad))
      else match chooseRoute s i p.spanel p.sisl with
        | .route r _ => .gone (route s i { replyOf own i p st bs ms old bad with route := r, hop := 0 })
        | .waits => .waits
        | .never => .fails 0x18 := by
  have hcond : (decide ((replyOf own i p st bs ms old bad).dpanel = s.panel.number)
      && decide ((replyOf own i p st bs ms old bad).disl = i)) = true ↔ p.spanel = s.panel.number ∧ p.sisl = i := by
    rw [Bool.and_eq_true, decide_eq_true_iff, decide_eq_true_iff]
    exact Iff.rfl
  rw [emit]
  by_cases hown : p.spanel = s.panel.number ∧ p.sisl = i
  · rw [if_pos hown, if_pos (hcond.2 hown)]
  · rw [if_neg hown, if_neg fun h => hown (hcond.1 h)]
    show (match chooseRoute s i p.spanel p.sisl with
      | .route r cap => _
      | .waits => _
      | .never => _) = _
    cases chooseRoute s i p.spanel p.sisl with
    | route r cap => exact if_neg (by simp [replyOf])
    | waits => rfl
    | never => rfl

end Sys2Proof.Proofs

/-! PROOFS. Remote operations at their requester (O57). -/

namespace Sys2Proof.Proofs

open Sys2Proof Sys2Proof.Machine Sys2Proof.Laws

/-! ## The one remote operation of an island -/

theorem onlyRemote_get {s : State} {i n : Nat} {o : RemoteOp} (h : OnlyRemote s i n o) :
    tblGet? (islOf s i).remotes n = some o := by
  rw [h, tblGet?, if_pos rfl]

theorem onlyRemote_present {s : State} {i n : Nat} {o : RemoteOp} (h : OnlyRemote s i n o) : Present s i := by
  rw [Present]
  cases hx : tblGet? s.islands i with
  | some x => rfl
  | none =>
    rw [OnlyRemote, islOf, tblGet, hx] at h
    exact absurd h.symm (List.cons_ne_nil _ _)

theorem EndKept.onlyRemote {s t : State} (h : EndKept s t) {i n : Nat} {o : RemoteOp} (ho : OnlyRemote s i n o) : OnlyRemote t i n o :=
  (congrArg Prod.fst (h.island i)).trans ho

theorem EndKept.inbox {s t : State} (h : EndKept s t) (i : Nat) : (islOf t i).inbox = (islOf s i).inbox :=
  congrArg (fun x => x.2.2) (h.island i)

/-- A reply taken from an island's inbox leaves its operations. -/
theorem onlyRemote_takeInbox {s : State} {i n : Nat} {o : RemoteOp} (p : RemotePacket) (h : OnlyRemote s i n o) :
    OnlyRemote (takeInbox s i p) i n o :=
  (islOf_modIsl_keeps (g := fun x => x.remotes) (f := fun x => { x with inbox := dropFirst p x.inbox }) (fun _ => rfl) s i i).trans h

@[simp] theorem memView_takeInbox (s : State) (i : Nat) (p : RemotePacket) : memView (takeInbox s i p) = memView s :=
  memView_modIsl (f := fun x => { x with inbox := dropFirst p x.inbox }) (fun _ => rfl) s i

@[simp] theorem memView_modRemote (s : State) (i n : Nat) (f : RemoteOp → RemoteOp) : memView (modRemote s i n f) = memView s :=
  memView_modIsl (f := fun x => { x with remotes := tblAdj x.remotes n f }) (fun _ => rfl) s i

theorem sendNext_none {s : State} {i n : Nat} {o : RemoteOp} (h : tblGet? (islOf s i).remotes n = some o) (ht : o.todo = false) :
    sendNext s i n = none := by
  rw [sendNext, h]
  exact if_pos (by simp [ht])

theorem pump_idle {s : State} {i n : Nat} (h : sendNext s i n = none) (k : Nat) : pump k s i n = s := by
  cases k with
  | zero => rfl
  | succ k => rw [pump, h]

theorem pumpAll_none {s : State} {i : Nat} (h : (islOf s i).remotes = []) : pumpAll s i = s := by
  rw [pumpAll, h]
  rfl

theorem pumpAll_sent {s : State} {i n : Nat} {o : RemoteOp} (h : OnlyRemote s i n o) (ht : o.todo = false) : pumpAll s i = s := by
  rw [pumpAll, h]
  exact pump_idle (sendNext_none (onlyRemote_get h) ht) 1024

/-! ## The end of an operation (R399) -/

/-- The island without the operation, its locks and its pins. -/
theorem releaseRemote_effects {s : State} {i n : Nat} (o : RemoteOp) (hp : Present s i) :
    memView (releaseRemote s i n o) = memView s ∧ (releaseRemote s i n o).groups = s.groups
    ∧ (islOf (releaseRemote s i n o) i).remotes = tblDel (islOf s i).remotes n
    ∧ (∀ l ∈ (islOf (releaseRemote s i n o) i).mem.locks, l.op ≠ n) ∧ Present (releaseRemote s i n o) i := by
  let s1 := modIsl s i fun x => { x with remotes := tblDel x.remotes n }
  let s2 := modMem s1 i fun m => { m with locks := m.locks.filter fun k => k.op ≠ n }
  have hp1 : Present s1 i := (present_modIsl ..).trans hp
  have hp2 : Present s2 i := (present_modIsl ..).trans hp1
  have hlocks : (islOf (unpin s2 i o.pins) i).mem.locks = (islOf s1 i).mem.locks.filter fun k => k.op ≠ n := by
    rw [unpin, memOf_modMem hp2]
    show (islOf s2 i).mem.locks = _
    rw [memOf_modMem hp1]
  refine ⟨?_, rfl, ?_, fun l hl => ?_, (present_modIsl ..).trans hp2⟩
  · refine Eq.trans (memView_modMem ?_ s2 i) (Eq.trans (memView_modMem ?_ s1 i) ?_)
    · exact fun _ => rfl
    · exact fun _ => rfl
    · exact memView_modIsl (f := fun x => { x with remotes := tblDel x.remotes n }) (fun _ => rfl) s i
  · refine (islOf_modMem_keeps (g := fun x => x.remotes) (fun _ _ => rfl) s2 _ i _).trans
      ((islOf_modMem_keeps (g := fun x => x.remotes) (fun _ _ => rfl) s1 _ i _).trans ?_)
    rw [islOf_modIsl_same s i _ hp]
  · have hl' : l ∈ (islOf (unpin s2 i o.pins) i).mem.locks := hl
    rw [hlocks] at hl'
    simpa using (List.mem_filter.1 hl').2

/-- What the group of an operation holds once the operation has ended. -/
def endedOps (g : Group) (n : Nat) (o : RemoteOp) (val : DWord) (poison : Bool) (fault : Option Cause) :
    List FlightOp × Regs × List HeldFault :=
  (g.ops.filter fun x => x.id ≠ n, applyWrite g.regs { elem := .s o.d, val := val, bad := poison },
    match fault with
    | some c => (holdEntry g { cause := causeWord c false, pc := o.pc, remote := true }).held
    | none => g.held)

theorem opsOf_endRemote {s : State} {n : Nat} {o : RemoteOp} {g : Group} (val : DWord) (poison : Bool) (fault : Option Cause)
    (hg : tblGet? s.groups o.grp = some g) (ha : g.age = o.age) :
    opsOf (endRemote s n o val poison fault) o.grp = endedOps g n o val poison fault := by
  have hissuer : issuerOf s o = some g := by
    rw [issuerOf, hg, Option.filter_some, if_pos (by simp [ha])]
  rw [endRemote, hissuer]
  dsimp only
  rw [opsOf, grpOf_setGrp_same]
  cases fault with
  | none => rfl
  | some c =>
    simp only [wake, holdEntry, endedOps]
    split <;> rfl

theorem endRemote_islands (s : State) (n : Nat) (o : RemoteOp) (val : DWord) (poison : Bool) (fault : Option Cause) :
    (endRemote s n o val poison fault).islands = s.islands ∧ memView (endRemote s n o val poison fault) = memView s := by
  rw [endRemote]
  split
  · exact ⟨rfl, rfl⟩
  · exact ⟨rfl, rfl⟩

theorem readS_applyWrite (g : Regs) {d : Nat} (val : DWord) (bad : Bool) (hd : d < 63) :
    readS (applyWrite g { elem := .s d, val := val, bad := bad }) d = val := by
  rw [applyWrite]
  cases bad
  · show readS (writeS g d val) d = val
    rw [readS_writeS, if_neg (by omega)]
  · show readS (poisonS (writeS g d val) d) d = val
    rw [poisonS, if_neg (by omega), readS]
    exact (readS_writeS g d val).trans (if_neg (by omega))

/-- An operation released and ended at its group, and what comes after leaves that as it is. -/
theorem remote_ends {s t : State} {i n : Nat} {o o₀ : RemoteOp} {val : DWord} {poison : Bool} {fault : Option Cause}
    (h : OnlyRemote s i n o₀) (ht : EndKept (endRemote (releaseRemote s i n o) n o val poison fault) t) :
    EndsWith s t i n o val ∧ (islOf t i).remotes = []
    ∧ ∀ g, tblGet? s.groups o.grp = some g → g.age = o.age → opsOf t o.grp = endedOps g n o val poison fault := by
  obtain ⟨-, hgroups, hremotes, hlocks, -⟩ := releaseRemote_effects (n := n) o (onlyRemote_present h)
  have hisl : islOf (endRemote (releaseRemote s i n o) n o val poison fault) i = islOf (releaseRemote s i n o) i := by
    rw [islOf, (endRemote_islands ..).1, islOf]
  have hkept := ht.island i
  rw [remotesOf, remotesOf, hisl, hremotes, h] at hkept
  have hnone : (islOf t i).remotes = [] := (congrArg (fun x => x.1) hkept).trans (by simp [tblDel])
  have hops : ∀ g, tblGet? s.groups o.grp = some g → g.age = o.age → opsOf t o.grp = endedOps g n o val poison fault :=
    fun g hg ha => (ht.group o.grp).trans (opsOf_endRemote val poison fault (by rw [hgroups]; exact hg) ha)
  refine ⟨⟨by rw [hnone]; rfl, fun l hl => hlocks l ?_, fun g hg ha => ?_⟩, hnone, hops⟩
  · have hl' : (islOf t i).mem.locks = (islOf (releaseRemote s i n o) i).mem.locks := congrArg (fun x => x.2.1) hkept
    rwa [hl'] at hl
  · have hg' := hops g hg ha
    have hgops : (grpOf t o.grp).ops = g.ops.filter fun x => x.id ≠ n := congrArg (fun x => x.1) hg'
    have hgregs : (grpOf t o.grp).regs = applyWrite g.regs { elem := .s o.d, val := val, bad := poison } :=
      congrArg (fun x => x.2.1) hg'
    refine ⟨fun x hx => ?_, fun hd => ?_⟩
    · rw [hgops] at hx
      simpa using (List.mem_filter.1 hx).2
    · rw [hgregs]
      exact readS_applyWrite g.regs val poison hd

theorem causeWord_low (c : Cause) (hl : c.lane = none) (surfaced : Bool) :
    (causeWord c surfaced).toNat % 2 ^ 16 = c.status.toNat * 2 ^ 8 + c.cls.toNat := by
  have hst := c.status.isLt
  have hcls := c.cls.isLt
  rw [causeWord, hl, BitVec.toNat_ofNat]
  cases surfaced <;> simp only [Bool.false_eq_true, if_false, if_true] <;> omega

theorem failRemote_eq {s : State} {i n : Nat} {o : RemoteOp} (st : Nat) (h : OnlyRemote s i n o) : failRemote s i n st =
    wakeAll (endRemote (releaseRemote s i n o) n o (if o.kind = .ratom then 0 else failWord st 0x16) (o.kind = .ratom)
      (some (remoteCause o.kind o.isl o.panel st))) := by
  rw [failRemote, onlyRemote_get h]

/-- An island's one operation that fails: its status in the register and in a held REMOTE. -/
theorem failRemote_fails {s : State} {i n : Nat} {o : RemoteOp} (st : Nat) (h : OnlyRemote s i n o) :
    pumpAll (failRemote s i n st) i = failRemote s i n st ∧ RemoteFails s (failRemote s i n st) i n o st := by
  rw [failRemote_eq st h]
  obtain ⟨hends, hnone, hops⟩ := remote_ends (s := s) (i := i) (n := n) (o := o)
    (val := if o.kind = .ratom then 0 else failWord st 0x16) (poison := decide (o.kind = .ratom))
    (fault := some (remoteCause o.kind o.isl o.panel st)) h (endKept_wakeAll _)
  refine ⟨pumpAll_none hnone, sameMemory_of_view ?_, hends, fun g hg ha hroom => ?_⟩
  · rw [memView_wakeAll, (endRemote_islands ..).2, (releaseRemote_effects o (onlyRemote_present h)).1]
  · have hheld := congrArg (fun x => x.2.2) (hops g hg ha)
    dsimp only [opsOf, endedOps] at hheld
    rw [holdEntry, if_pos hroom] at hheld
    refine ⟨_, hheld, rfl, rfl, ?_⟩
    dsimp only
    rw [causeWord_low _ rfl]
    rfl

/-! ## Acknowledgement (R399) -/

theorem sampleCtx_groups (s : State) (i src c v : Nat) : (sampleCtx s i src c v).groups = s.groups := by
  rw [sampleCtx]
  split <;> rfl

/-- An operation without poisoned data, ended at its group. -/
def ackEnd (s : State) (i n : Nat) (o : RemoteOp) : State :=
  endRemote (releaseRemote (sampleCtx s i 4 o.ctx (s.panel.ptime - o.since.getD s.panel.ptime)) i n o) n o
    (if o.kind = .ratom then o.old else 0) false none

theorem ackRemote_eq {o : RemoteOp} (hbad : o.bad = false) (s : State) (i n : Nat) :
    ackRemote s i n o = wakeAll (if o.lne = true then ctrAdd (ackEnd s i n o) i o.lctr 1 else ackEnd s i n o) := by
  rw [ackRemote, ackEnd]
  cases hk : o.kind <;> simp [hbad]

theorem ctrOf_ackEnd (s : State) (i n : Nat) (o : RemoteOp) (m : Nat) : ctrOf (ackEnd s i n o) i m = ctrOf s i m := by
  have hends : ∀ u : State, ctrOf (endRemote u n o (if o.kind = .ratom then o.old else 0) false none) i m = ctrOf u i m := fun u => by
    rw [ctrOf, islOf, (endRemote_islands ..).1, ctrOf, islOf]
  have hrel : ∀ u : State, ctrOf (releaseRemote u i n o) i m = ctrOf u i m := fun u => by
    rw [releaseRemote, unpin]
    exact (islOf_modMem_keeps (g := fun x => tblGet x.ncs m) (fun _ _ => rfl) _ _ i _).trans
      ((islOf_modMem_keeps (g := fun x => tblGet x.ncs m) (fun _ _ => rfl) _ _ i _).trans
        (ctrOf_modIsl (f := fun x => { x with remotes := tblDel x.remotes n }) (fun _ => rfl) u i i m))
  rw [ackEnd, hends, hrel]
  exact (counterStill_sampleCtx ..).2.2 i m

theorem ackRemote_ends {s : State} {i n : Nat} {o o₀ : RemoteOp} (h : OnlyRemote s i n o₀) (hbad : o.bad = false) :
    pumpAll (ackRemote s i n o) i = ackRemote s i n o ∧ memView (ackRemote s i n o) = memView s
    ∧ EndsWith s (ackRemote s i n o) i n o (if o.kind = .ratom then o.old else 0)
    ∧ (o.lne = true → ctrOf (ackRemote s i n o) i (o.lctr % 65536) = ctrOf s i (o.lctr % 65536) + 1) := by
  have hsample := endKept_sampleCtx s i 4 o.ctx (s.panel.ptime - o.since.getD s.panel.ptime)
  have h1 := hsample.onlyRemote h
  obtain ⟨hrview, -, -, -, hrp⟩ := releaseRemote_effects (n := n) o (onlyRemote_present h1)
  have hview : memView (ackEnd s i n o) = memView s := by
    rw [ackEnd, (endRemote_islands ..).2, hrview, memView_sampleCtx]
  have hpres : Present (ackEnd s i n o) i := by
    rw [Present, ackEnd, (endRemote_islands ..).1]
    exact hrp
  have hset := counterSet_ctrAdd (ackEnd s i n o) i o.lctr 1
  rw [ackRemote_eq hbad]
  have hkept : EndKept (ackEnd s i n o) (wakeAll (if o.lne = true then ctrAdd (ackEnd s i n o) i o.lctr 1 else ackEnd s i n o)) := by
    refine EndKept.trans ?_ (endKept_wakeAll _)
    split
    · exact endKept_ctrAdd ..
    · exact endKept_refl _
  obtain ⟨⟨hgone, hlocks, hgrp⟩, hnone, -⟩ := remote_ends h1 hkept
  refine ⟨pumpAll_none hnone, ?_, ⟨hgone, hlocks, fun g hg => hgrp g ?_⟩, fun hl => ?_⟩
  · rw [memView_wakeAll]
    split
    · exact hset.view.trans hview
    · exact hview
  · rw [sampleCtx_groups]
    exact hg
  · rw [if_pos hl]
    show ctrOf (ctrAdd (ackEnd s i n o) i o.lctr 1) i (o.lctr % 65536) = _
    rw [hset.same hpres, ctrOf_ackEnd]

/-! ## A reply that comes to its operation -/

theorem remoteAck_taken {i : Nat} {s : State} {p : RemotePacket} (h : (islOf s i).inbox.find? (replyReady s i) = some p) :
    exec (.remoteAck i) s = .next (takeReply (takeInbox s i p) i p) := by
  show execRemoteAck i s = _
  rw [execRemoteAck, h]

theorem takeReply_fails {s : State} {i : Nat} {p : RemotePacket} {o : RemoteOp} {q : RemotePart} (h : OnlyRemote s i p.op o)
    (hq : o.parts.find? (fun x => partNumber o x.off = p.part) = some q) (hst : p.status ≠ 0) :
    takeReply s i p = pumpAll (failRemote s i p.op p.status) i := by
  rw [takeReply, onlyRemote_get h]
  dsimp only
  rw [hq]
  exact if_pos hst

/-- The operation as a good reply to its one part leaves it. -/
def acked (o : RemoteOp) (p : RemotePacket) (soiled : List Nat) : RemoteOp :=
  { o with parts := [], soiled := soiled, old := p.val, bad := false }

/-- A good reply to the one part of an operation all of whose parts have been sent. -/
theorem takeReply_acks {s : State} {i : Nat} {p : RemotePacket} {o : RemoteOp} {q : RemotePart} (h : OnlyRemote s i p.op o)
    (hq : o.parts = [q]) (hn : partNumber o q.off = p.part) (ht : o.todo = false) (hst : p.status = 0) (hob : o.bad = false)
    (hpb : p.bad = false) (hm : p.marks = []) : ∃ l, takeReply s i p =
      pumpAll (ackRemote (if o.kind = .get then landGet s i o q.off p.data [] else s) i p.op (acked o p l)) i := by
  have hfind : o.parts.find? (fun x => partNumber o x.off = p.part) = some q := by rw [hq]; simp [hn]
  refine ⟨if o.kind = .get then o.soiled ++ soiledBy o q.off p.data.length [] else [], ?_⟩
  rw [takeReply, onlyRemote_get h]
  dsimp only
  rw [hfind]
  dsimp only
  rw [if_neg (by simp [hst]), hm, if_pos (by simp [hq, ht])]
  simp [acked, hq, hob, hpb]

theorem rangeSpans_one (a vn off n : Nat) (hn : 0 < n) :
    rangeSpans [{ phys := some a, vn := vn, taddr := off, bits := 8 * n }] off n = [(a, vn, 0, n, none)] := by
  rw [rangeSpans, List.filterMap_cons]
  dsimp only
  rw [Nat.max_self, Nat.mul_div_cancel_left n (by omega), Nat.min_self, if_pos (by omega), Nat.sub_self, Nat.add_zero,
    Nat.add_sub_cancel_left]
  rfl

/-- The data of a GET of one part, landed at its one piece. -/
theorem landGet_one {o : RemoteOp} {a vn off : Nat} {bs : List Byte} (hn : bs ≠ [])
    (hp : o.pieces = [{ phys := some a, vn := vn, taddr := off, bits := 8 * bs.length }]) (s : State) (i : Nat) :
    ∃ qs, landGet s i o off bs [] = touchSpan i vn a bs.length true (physPut (clearMarks s i qs) i a bs) := by
  refine ⟨(joinedQuarters o off bs.length).filter fun q => !o.soiled.contains q, ?_⟩
  rw [landGet, hp, rangeSpans_one _ _ _ _ (List.length_pos_of_ne_nil hn)]
  show touchSpan i vn a bs.length true (landSpan i a 0 ((bs.drop 0).take bs.length) [] none _) = _
  rw [List.drop_zero, List.take_length, landSpan_plain]
  rfl

theorem OwnMem.onlyRemote {s t : State} {i : Nat} (h : OwnMem i s t) {j n : Nat} {o : RemoteOp} (ho : OnlyRemote s j n o) :
    OnlyRemote t j n o := (congrArg (fun x : Island => x.remotes) (h.island j)).trans ho

/-! ## Parts sent again (R402, R403) -/

/-- The data of a part are read without a change but of what a VC holds. -/
theorem partData_reads (s : State) (i : Nat) (o : RemoteOp) (off n : Nat) :
    OwnMem i s (partData s i o off n).1 ∧ memView (partData s i o off n).1 = memView s := by
  refine List.foldlRecOn (motive := fun d : State × List Byte × List Nat => OwnMem i s d.1 ∧ memView d.1 = memView s) _ _
    ⟨ownMem_refl i s, rfl⟩ ?_
  rintro d ⟨hown, hview⟩ x -
  exact ⟨ownMem_trans hown (ownMem_touchSpan ..), (memView_touchSpan ..).trans hview⟩

/-- What a part reads before it is sent. -/
def sendData (s : State) (i : Nat) (o : RemoteOp) (q : RemotePart) : State × List Byte × List Nat :=
  if o.kind = .put then partData s i o q.off q.len else (s, [], [])

theorem sendData_reads (s : State) (i : Nat) (o : RemoteOp) (q : RemotePart) :
    OwnMem i s (sendData s i o q).1 ∧ memView (sendData s i o q).1 = memView s := by
  rw [sendData]
  split
  · exact partData_reads ..
  · exact ⟨ownMem_refl i s, rfl⟩

/-- The packet of a part as it is sent. -/
def sentPacket (s : State) (i n : Nat) (o : RemoteOp) (q : RemotePart) : RemotePacket :=
  partPacket s.panel.number i n o q (sendData s i o q).2.1 (sendData s i o q).2.2

/-- An operation one of whose parts is sent once more; whether poisoned data has been met. -/
def resent (s : State) (q : RemotePart) (b : Bool) (o : RemoteOp) : RemoteOp :=
  modPart q.off (fun q => { q with waiting := false, sends := q.sends + 1, lastSend := s.panel.ptime })
    { o with since := some (o.since.getD s.panel.ptime), bad := o.bad || b }

/-- A part sent to the island's own inbox. -/
theorem sendPart_own {s : State} {i n : Nat} {o : RemoteOp} {q : RemotePart} (h : OnlyRemote s i n o)
    (hpanel : o.panel = s.panel.number) (hisl : o.isl = i) (hreach : o.kind = .put → piecesReach s o.pieces = true) :
    ∃ b, sendPart s i n q = modRemote (deliverPacket (sendData s i o q).1 i (sentPacket s i n o q)) i n (resent s q b) := by
  have hnum : (sendData s i o q).1.panel.number = s.panel.number := by rw [(sendData_reads s i o q).1.outside]
  have hgone : emitPart s i n o q (sendData s i o q) = .gone (deliverPacket (sendData s i o q).1 i (sentPacket s i n o q)) := by
    have hput : ¬(decide (o.kind = .put) && !piecesReach s o.pieces) = true := fun hno => by
      simp only [Bool.and_eq_true, decide_eq_true_eq, Bool.not_eq_true'] at hno
      rw [hreach hno.1] at hno
      exact absurd hno.2 (by decide)
    have hown : (decide ((sentPacket s i n o q).dpanel = (sendData s i o q).1.panel.number)
        && decide ((sentPacket s i n o q).disl = i)) = true :=
      Bool.and_eq_true_iff.2 ⟨decide_eq_true (hpanel.trans hnum.symm), decide_eq_true hisl⟩
    rw [emitPart, if_neg hput, ← sentPacket, emit, if_pos hown]
  rw [sendPart, onlyRemote_get h]
  dsimp only
  rw [← sendData, hgone]
  exact ⟨_, rfl⟩

theorem sendPart_effects {s : State} {i n : Nat} {o : RemoteOp} {q : RemotePart} (h : OnlyRemote s i n o) (hq : o.parts = [q])
    (ht : o.todo = false) (hw : q.waiting = false) (hpanel : o.panel = s.panel.number) (hisl : o.isl = i)
    (hreach : o.kind = .put → piecesReach s o.pieces = true) :
    SameMemory s (pumpAll (sendPart s i n q) i)
    ∧ (islOf (pumpAll (sendPart s i n q) i) i).inbox = (islOf s i).inbox ++ [sentPacket s i n o q]
    ∧ ∃ o', tblGet? (islOf (pumpAll (sendPart s i n q) i) i).remotes n = some o'
      ∧ o'.parts = [{ q with sends := q.sends + 1, lastSend := s.panel.ptime }] := by
  obtain ⟨hown, hview⟩ := sendData_reads s i o q
  have hd : OnlyRemote (sendData s i o q).1 i n o := hown.onlyRemote h
  have hp := onlyRemote_present hd
  let put := fun x : Island => { x with inbox := x.inbox ++ [sentPacket s i n o q] }
  obtain ⟨b, hsend⟩ : ∃ b, sendPart s i n q = modRemote (modIsl (sendData s i o q).1 i put) i n (resent s q b) :=
    sendPart_own h hpanel hisl hreach
  let f := resent s q b
  have hp1 : Present (modIsl (sendData s i o q).1 i put) i := (present_modIsl ..).trans hp
  have hput : islOf (modIsl (sendData s i o q).1 i put) i = put (islOf (sendData s i o q).1 i) := islOf_modIsl_same _ _ _ hp
  have hisl' : islOf (sendPart s i n q) i
      = { put (islOf (sendData s i o q).1 i) with remotes := tblAdj (islOf (sendData s i o q).1 i).remotes n f } := by
    rw [hsend, modRemote, islOf_modIsl_same _ _ _ hp1, hput]
  have honly : OnlyRemote (sendPart s i n q) i n (f o) := by
    rw [OnlyRemote, hisl']
    show tblAdj (islOf (sendData s i o q).1 i).remotes n f = _
    rw [hd]
    simp [tblAdj, tblGet?, tblSet]
  have hparts : (f o).parts = [{ q with sends := q.sends + 1, lastSend := s.panel.ptime }] := by
    show o.parts.map _ = _
    rw [hq]
    simp [hw]
  rw [pumpAll_sent honly ht]
  refine ⟨sameMemory_of_view ?_, ?_, f o, onlyRemote_get honly, hparts⟩
  · rw [hsend, memView_modRemote]
    exact (memView_modIsl (f := put) (fun _ => rfl) _ i).trans hview
  · rw [hisl']
    show (islOf (sendData s i o q).1 i).inbox ++ _ = _
    have hin := congrArg (fun x : Island => x.inbox) (hown.island i)
    dsimp only at hin
    rw [hin]

/-! ## Time-outs and notices (R378, R402) -/

theorem remoteTimeout_one {s : State} {i n : Nat} {o : RemoteOp} {q : RemotePart} (h : OnlyRemote s i n o) (hq : o.parts = [q])
    (hw : q.waiting = false) (hlate : q.lastSend + 50000 ≤ s.panel.ptime) : exec (.remoteTimeout i n) s =
      .next (pumpAll (if 4 ≤ q.sends then failRemote s i n 0x16 else sendPart s i n q) i) := by
  show execRemoteTimeout i n s = _
  rw [execRemoteTimeout, onlyRemote_get h]
  dsimp only
  rw [hq]
  show Host.Outcome.next (pumpAll (partTimer i n s q) i) = _
  rw [partTimer, onlyRemote_get h]
  dsimp only
  rw [if_neg (by simp [hw]), if_neg (by simpa [remoteWait] using hlate)]

theorem partTimer_early {s : State} {i n : Nat} {o : RemoteOp} {q : RemotePart} (h : OnlyRemote s i n o) (hw : q.waiting = false)
    (hearly : s.panel.ptime < q.lastSend + 50000) : partTimer i n s q = s := by
  rw [partTimer, onlyRemote_get h]
  dsimp only
  rw [if_neg (by simp [hw]), if_pos (by simpa [remoteWait] using hearly)]

theorem remoteTimeout_early {s : State} {i n : Nat} {o : RemoteOp} (h : OnlyRemote s i n o) (ht : o.todo = false)
    (hearly : ∀ p ∈ o.parts, p.waiting = false ∧ s.panel.ptime < p.lastSend + 50000) : exec (.remoteTimeout i n) s = .next s := by
  have hfold : ∀ l : List RemotePart, (∀ p ∈ l, p.waiting = false ∧ s.panel.ptime < p.lastSend + 50000) →
      l.foldl (partTimer i n) s = s := fun l => by
    induction l with
    | nil => exact fun _ => rfl
    | cons q l ih =>
      intro hl
      obtain ⟨⟨hw, hq⟩, hl⟩ := List.forall_mem_cons.1 hl
      rw [List.foldl_cons, partTimer_early h hw hq, ih hl]
  show execRemoteTimeout i n s = _
  rw [execRemoteTimeout, onlyRemote_get h]
  dsimp only
  rw [hfold _ hearly, pumpAll_sent h ht]

theorem routeFailure_one {s : State} {i n k : Nat} {o : RemoteOp} {q : RemotePart} (h : OnlyRemote s i n o)
    (hq : o.parts.find? (fun q => partNumber o q.off = k && !q.waiting) = some q) : exec (.routeFailureNotice i n k) s =
      .next (pumpAll (if 4 ≤ q.sends then failRemote s i n 0x16 else sendPart s i n q) i) := by
  show execRouteFailureNotice i n k s = _
  rw [execRouteFailureNotice, onlyRemote_get h]
  dsimp only
  rw [hq]

/-- An operation whose part has been sent four times fails; one sent fewer times goes out again. -/
theorem fourth_send_fails {s : State} {i n : Nat} {o : RemoteOp} {q : RemotePart} (h : OnlyRemote s i n o) (h4 : 4 ≤ q.sends) :
    RemoteFails s (pumpAll (if 4 ≤ q.sends then failRemote s i n 0x16 else sendPart s i n q) i) i n o 0x16 := by
  obtain ⟨hpump, hfails⟩ := failRemote_fails 0x16 h
  rw [if_pos h4, hpump]
  exact hfails

/-! ## The parts of an operation (R398) -/

theorem partNumber_spec (o : RemoteOp) (off : Nat) :
    let k := (if o.kind = .get then o.loc.toNat else o.va) % 16
    partNumber o off = (off + k) / 4096 ∧ ((off + k) % 16 = 0 ↔
      ((if o.kind = .get then o.loc.toNat else o.va) + off) % 16 = 0) := by
  refine ⟨rfl, ?_⟩
  generalize (if o.kind = .get then o.loc.toNat else o.va) = x
  omega

theorem nextPart_spec (s : State) (i : Nat) (o : RemoteOp) (hn : o.next < o.len) :
    let p := nextPart s i o
    p.off = o.next ∧ 0 < p.len ∧ p.len ≤ 4096 ∧ (p.final = true ↔ o.next + p.len = o.len)
    ∧ (p.final = false → ((if o.kind = .get then o.loc.toNat else o.va) + o.next + p.len) % 16 = 0) := by
  have hlen : (nextPart s i o).len = min (4096 - (o.next + partSkew o) % 4096) (o.len - o.next) := rfl
  have hfinal : (nextPart s i o).final = decide (o.next + (nextPart s i o).len = o.len) := rfl
  have hskew : partSkew o = (if o.kind = .get then o.loc.toNat else o.va) % 16 := rfl
  dsimp only
  rw [hfinal, hlen, decide_eq_true_iff, decide_eq_false_iff_not]
  rw [hskew]
  generalize (if o.kind = .get then o.loc.toNat else o.va) = x
  refine ⟨rfl, by omega, by omega, Iff.rfl, fun hnot => by omega⟩

/-! ## NCVAL (R408) -/

theorem ncval_written {i : Nat} {v : DWord} {s : State} (hp : Present s i) : ∃ t, exec (.ncvalWrite i v) s = .next t ∧ SameMemory s t
    ∧ ctrOf t i ((islOf s i).ncsel % 65536) = v
    ∧ ∀ j m, (j ≠ i ∨ m ≠ (islOf s i).ncsel % 65536) → ctrOf t j m = ctrOf s j m := by
  have hset := counterSet_ctrSet s i (islOf s i).ncsel v
  exact ⟨_, rfl, sameMemory_of_view hset.view, hset.same hp, hset.other⟩

/-! ## The claims together -/

/-- A reply to the one part of a GET: its bytes stand at its piece, and nothing else has changed in memory. -/
theorem get_acked {i vn a : Nat} {s : State} {p : RemotePacket} {o : RemoteOp} {q : RemotePart}
    (hfind : (islOf s i).inbox.find? (replyReady s i) = some p) (h : OnlyRemote s i p.op o) (hq : o.parts = [q])
    (hn : partNumber o q.off = p.part) (ht : o.todo = false) (hst : p.status = 0) (hk : o.kind = .get) (hob : o.bad = false)
    (hpb : p.bad = false) (hm : p.marks = [])
    (hpieces : o.pieces = [{ phys := some a, vn := vn, taddr := q.off, bits := 8 * p.data.length }]) (hd : p.data ≠ [])
    (hside : a + p.data.length ≤ hostBase ∨ hostBase ≤ a) : ∃ t, exec (.remoteAck i) s = .next t ∧ EndsWith s t i p.op o 0
    ∧ (∀ j, j < p.data.length → byteAt t i (a + j) = p.data.getD j 0)
    ∧ ∀ isl b, ((isHost b = true ∨ isl = i) → b < a ∨ a + p.data.length ≤ b) → byteAt t isl b = byteAt s isl b := by
  have h1 := onlyRemote_takeInbox p h
  obtain ⟨l, htake⟩ := takeReply_acks h1 hq hn ht hst hob hpb hm
  obtain ⟨qs, hland⟩ := landGet_one hd hpieces (takeInbox s i p) i
  rw [if_pos hk, hland] at htake
  let s1 := clearMarks (takeInbox s i p) i qs
  let s2 := physPut s1 i a p.data
  let s3 := touchSpan i vn a p.data.length true s2
  have hown1 : OwnMem i (takeInbox s i p) s1 := ownMem_clearMarks ..
  have hown : OwnMem i (takeInbox s i p) s3 := ownMem_trans hown1 (ownMem_trans (ownMem_physPut ..) (ownMem_touchSpan ..))
  have hp1 : Present s1 i := hown1.present.trans (onlyRemote_present h1)
  obtain ⟨hpump, hview, ⟨hgone, hlocks, hgrp⟩, -⟩ := ackRemote_ends (o := acked o p l) (hown.onlyRemote h1) rfl
  have hview' : memView (ackRemote s3 i p.op (acked o p l)) = memView s2 := hview.trans (memView_touchSpan ..)
  refine ⟨_, remoteAck_taken hfind, ?_⟩
  rw [htake, hpump]
  refine ⟨⟨hgone, hlocks, fun g hg => ?_⟩, fun j hj => ?_, fun isl b hb => ?_⟩
  · have hgroups : s3.groups = s.groups := by rw [hown.outside]; rfl
    have hends := hgrp g (by rw [hgroups]; exact hg)
    rwa [if_neg (by simp [acked, hk])] at hends
  · rw [byteAt_of_view hview', byteAt_physPut_same hp1 hj hside, List.getD_eq_getElem _ _ hj]
  · rw [byteAt_of_view hview', byteAt_physPut_other hb, byteAt_of_view (memView_clearMarks ..), byteAt_of_view (memView_takeInbox ..)]

/-- Settles O57, event by event: requests at their home through the one access they make there, replies, time-outs and notices
through the end or the new sending of the operation's part. -/
theorem remoteEventResults : Obligations.RemoteEventResults := by
  unfold Obligations.RemoteEventResults
  refine ⟨fun i s h => ?_, fun i s p s1 st bs ms old bad hfind hdo hown hown' _ => ?_,
    fun i s p s1 st bs ms old bad hfind hdo hown => ?_, fun i s p s1 hfind hdo => packetAtHome hfind hdo,
    fun s i p q => perform_again, fun s i p => perform_gone, fun s i p => notify_performed,
    fun s i p s1 l vn => put_performed, fun s i p s1 l vn => get_performed, fun s i p s1 l vn => ?_,
    fun s i p s1 st hf hk => ratom_fails hf hk, fun s i p s1 => perform_waits, fun i s h => ?_, fun s i p => ?_,
    fun i s p o q hfind h hq hst => ?_, fun i s p o q hfind h hq hn ht hst hk hob hpb hm => ?_,
    fun i s p o q a vn => get_acked, fun i n s h => ?_, fun i n o s h => remoteTimeout_early h.1 h.2.1 h.2.2,
    fun i n s o q h hq hw hlate h4 => ⟨_, remoteTimeout_one h hq hw hlate, fourth_send_fails h h4⟩,
    fun i n s o q h hq ht hw hlate h4 hpanel hisl hreach => ?_, partNumber_spec, nextPart_spec, fun i n k s h => ?_,
    fun i n k s o q h hq h4 => ⟨_, routeFailure_one h hq, fourth_send_fails h h4⟩,
    fun i n k s o q h hq hn hw ht h4 hpanel hisl hreach => ?_, fun i n s o h => ?_, fun i v s => ncval_written⟩
  · show execRemotePacketAtHome i s = _
    rw [execRemotePacketAtHome, h]
  · rw [packetAtHome hfind hdo]
    refine congrArg Host.Outcome.next ?_
    rw [homeAnswered, emit_reply, if_pos ⟨hown, hown'⟩]
  · have hexec := packetAtHome hfind hdo
    rw [homeAnswered, emit_reply, if_neg hown] at hexec
    refine ⟨fun r cap hr => ?_, fun hr => ?_⟩
    · rw [hexec, hr]
    · rcases hr with hr | hr <;> rw [hexec, hr]
  · intro n v act hf hp hk hr hat hclean _
    exact ratom_performed hf hp hk hr hat hclean
  · show execRemoteAck i s = _
    rw [execRemoteAck, h]
  · rw [replyReady]
    cases tblGet? (islOf s i).remotes p.op with
    | none => simp
    | some o => by_cases hk : o.kind = .get <;> simp [hk]
  · have h1 := onlyRemote_takeInbox p h
    obtain ⟨hpump, hmem, hends, hheld⟩ := failRemote_fails p.status h1
    refine ⟨_, remoteAck_taken hfind, ?_⟩
    rw [takeReply_fails h1 hq hst, hpump]
    exact ⟨sameMemory_trans (sameMemory_of_view (memView_takeInbox s i p)) hmem, hends, hheld⟩
  · have h1 := onlyRemote_takeInbox p h
    obtain ⟨l, htake⟩ := takeReply_acks h1 hq hn ht hst hob hpb hm
    rw [if_neg hk] at htake
    obtain ⟨hpump, hview, hends, hctr⟩ := ackRemote_ends (o := acked o p l) h1 rfl
    refine ⟨_, remoteAck_taken hfind, ?_⟩
    rw [htake, hpump]
    refine ⟨sameMemory_of_view (hview.trans (memView_takeInbox ..)), hends, fun hl => (hctr hl).trans ?_⟩
    exact congrArg (· + 1) (ctrOf_modIsl (f := fun x => { x with inbox := dropFirst p x.inbox }) (fun _ => rfl) s i i _)
  · show execRemoteTimeout i n s = _
    rw [execRemoteTimeout, h]
  · obtain ⟨hmem, hinbox, hparts⟩ := sendPart_effects h hq ht hw hpanel hisl hreach
    refine ⟨_, sentPacket s i n o q, remoteTimeout_one h hq hw hlate, ?_⟩
    rw [if_neg (by omega)]
    exact ⟨hmem, hinbox, rfl, rfl, rfl, rfl, rfl, rfl, hparts⟩
  · show execRouteFailureNotice i n k s = _
    rw [execRouteFailureNotice]
    rcases h with h | ⟨o, h, hall⟩
    · rw [h]
    · rw [h]
      dsimp only
      rw [List.find?_eq_none.2 fun q hq => ?_]
      simp only [Bool.and_eq_true, decide_eq_true_eq, Bool.not_eq_true', not_and]
      exact fun hk => by simp [hall q hq hk]
  · obtain ⟨hmem, -, hparts⟩ := sendPart_effects h hq ht hw hpanel hisl hreach
    refine ⟨_, routeFailure_one (q := q) h (by rw [hq]; simp [hn, hw]), ?_⟩
    rw [if_neg (by omega)]
    exact ⟨hmem, hparts⟩
  · obtain ⟨hpump, hfails⟩ := failRemote_fails 0x18 h
    exact ⟨_, rfl, by rw [hpump]; exact hfails⟩

end Sys2Proof.Proofs

/-! PROOFS. Buckets as they go on, complete and fail (O58). -/

namespace Sys2Proof.Proofs

open Sys2Proof Sys2Proof.Machine Sys2Proof.Laws

/-! ## What a bucket's steps leave of it -/

/-- What a step of a bucket may change: it takes no message, a failure stays, and only a root forms scales and results. -/
structure Goes (b c : Bucket) : Prop where
  upValues : c.upValues = b.upValues
  upScales : c.upScales = b.upScales
  stray : c.stray = b.stray
  parent : c.parent = b.parent
  failing : ∀ st, b.failing = some st → c.failing = some st
  downScales : isRoot b = false → c.downScales = b.downScales
  results : ∃ more, c.results = b.results ++ more ∧ (isRoot b = false → more = [])

theorem goes_refl (b : Bucket) : Goes b b :=
  ⟨rfl, rfl, rfl, rfl, fun _ h => h, fun _ => rfl, [], (List.append_nil _).symm, fun _ => rfl⟩

theorem Goes.trans {a b c : Bucket} (h : Goes a b) (k : Goes b c) : Goes a c := by
  have hroot : isRoot b = isRoot a := by rw [isRoot, h.parent, isRoot]
  obtain ⟨l, hl, hl'⟩ := h.results
  obtain ⟨m, hm, hm'⟩ := k.results
  exact {
    upValues := k.upValues.trans h.upValues
    upScales := k.upScales.trans h.upScales
    stray := k.stray.trans h.stray
    parent := k.parent.trans h.parent
    failing := fun st hst => k.failing st (h.failing st hst)
    downScales := fun hr => (k.downScales (hroot.trans hr)).trans (h.downScales hr)
    results := ⟨l ++ m, by rw [hm, hl, List.append_assoc], fun hr => by rw [hl' hr, hm' (hroot.trans hr)]; rfl⟩ }

/-- A state in which the bucket has gone on; no memory has changed. -/
structure BucketGoes (i n : Nat) (s t : State) : Prop where
  view : memView t = memView s
  bucket : ∀ b, bucketOf? s i n = some b → ∃ c, bucketOf? t i n = some c ∧ Goes b c

theorem bucketGoes_refl (i n : Nat) (s : State) : BucketGoes i n s s := ⟨rfl, fun b hb => ⟨b, hb, goes_refl b⟩⟩

theorem BucketGoes.trans {i n : Nat} {s t u : State} (h : BucketGoes i n s t) (k : BucketGoes i n t u) : BucketGoes i n s u := by
  refine ⟨k.view.trans h.view, fun b hb => ?_⟩
  obtain ⟨c, hc, hbc⟩ := h.bucket b hb
  obtain ⟨d, hd, hcd⟩ := k.bucket c hc
  exact ⟨d, hd, hbc.trans hcd⟩

theorem bucketGoes_foldl {α : Type} {i n : Nat} {f : State → α → State} (h : ∀ s x, BucketGoes i n s (f s x)) (l : List α) (s : State) :
    BucketGoes i n s (l.foldl f s) := by
  induction l generalizing s with
  | nil => exact bucketGoes_refl i n s
  | cons x l ih => exact (h s x).trans (ih _)

/-- A change that reaches no bucket and no memory. -/
theorem bucketGoes_of_kept {i n : Nat} {s t : State} (hv : memView t = memView s)
    (hb : bucketOf? t i n = bucketOf? s i n) : BucketGoes i n s t := ⟨hv, fun b h => ⟨b, hb.trans h, goes_refl b⟩⟩

theorem bucketOf?_modIsl {f : Island → Island} (h : ∀ x, (f x).buckets = x.buckets) (s : State) (i j n : Nat) :
    bucketOf? (modIsl s i f) j n = bucketOf? s j n :=
  islOf_modIsl_keeps (g := fun x => tblGet? x.buckets n) (f := f) (fun x => by rw [h]) s i j

theorem bucketGoes_modIsl {f : Island → Island} (hm : ∀ x, (f x).mem = x.mem) (hb : ∀ x, (f x).buckets = x.buckets) (s : State)
    (i j n : Nat) : BucketGoes j n s (modIsl s i f) :=
  bucketGoes_of_kept (memView_modIsl (f := f) (fun x => by rw [hm]) s i) (bucketOf?_modIsl hb s i j n)

theorem present_of_bucket {s : State} {i n : Nat} {b : Bucket} (h : bucketOf? s i n = some b) : Present s i := by
  rw [Present]
  cases hx : tblGet? s.islands i with
  | some x => rfl
  | none =>
    rw [bucketOf?, islOf, tblGet, hx] at h
    exact absurd h (by simp [show (default : Island).buckets = [] from rfl, tblGet?])

theorem bucketOf?_modBucket {s : State} {i n : Nat} {b : Bucket} (f : Bucket → Bucket) (h : bucketOf? s i n = some b) :
    bucketOf? (modBucket s i n f) i n = some (f b) := by
  rw [bucketOf?, modBucket, islOf_modIsl_same _ _ _ (present_of_bucket h)]
  show tblGet? (tblAdj _ _ _) n = _
  rw [tblGet?_adj_same]
  exact congrArg (Option.map f) h

@[simp] theorem memView_modBucket (s : State) (i n : Nat) (f : Bucket → Bucket) : memView (modBucket s i n f) = memView s :=
  memView_modIsl (f := fun x => { x with buckets := tblAdj x.buckets n f }) (fun _ => rfl) s i

theorem bucketGoes_modBucket {i n : Nat} {s : State} {f : Bucket → Bucket} (h : ∀ b, bucketOf? s i n = some b → Goes b (f b)) :
    BucketGoes i n s (modBucket s i n f) :=
  ⟨memView_modBucket s i n f, fun b hb => ⟨f b, bucketOf?_modBucket f hb, h b hb⟩⟩

theorem bucketGoes_sendBody (i n j : Nat) (b : Bucket) (body : BucketBody) (s : State) (dest : Nat) :
    BucketGoes i n s (sendBody j b body s dest) := bucketGoes_of_kept rfl rfl

theorem bucketGoes_sendDown (i n : Nat) (s : State) (j : Nat) (b : Bucket) (body : BucketBody) :
    BucketGoes i n s (sendDown s j b body) := bucketGoes_foldl (fun s d => bucketGoes_sendBody i n j b body s d) _ s

theorem bucketGoes_streamResults (i n : Nat) (s : State) (j m : Nat) (l : List Word) : BucketGoes i n s (streamResults s j m l) :=
  bucketGoes_modIsl (f := fun x => { x with streams := tblAdj x.streams m fun t => { t with results := t.results ++ l } })
    (fun _ => rfl) (fun _ => rfl) s j i n

/-! ## The passes of a bucket -/

theorem bucketGoes_takeScales {i n : Nat} {s : State} {b : Bucket} (l : List Byte) (hb : bucketOf? s i n = some b)
    (hr : isRoot b = true) : BucketGoes i n s (takeScales s i n b l) := by
  refine BucketGoes.trans (bucketGoes_modBucket (f := fun b => { b with downScales := some l }) fun c hc => ?_) (bucketGoes_sendDown ..)
  obtain rfl : b = c := Option.some.inj (hb.symm.trans hc)
  exact ⟨rfl, rfl, rfl, rfl, fun _ h => h, fun hno => absurd (hr.symm.trans hno) (by decide), [], (List.append_nil _).symm, fun _ => rfl⟩

theorem bucketGoes_takeResults {i n : Nat} {s : State} {b : Bucket} (l : List Word) (hb : bucketOf? s i n = some b)
    (hr : isRoot b = true) : BucketGoes i n s (takeResults s i n b l) := by
  refine BucketGoes.trans (BucketGoes.trans (bucketGoes_modBucket (f := fun b => { b with results := b.results ++ l }) fun c hc => ?_)
    (bucketGoes_sendDown ..)) (bucketGoes_streamResults ..)
  obtain rfl : b = c := Option.some.inj (hb.symm.trans hc)
  exact ⟨rfl, rfl, rfl, rfl, fun _ h => h, fun _ => rfl, l, rfl, fun hno => absurd (hr.symm.trans hno) (by decide)⟩

theorem bucketGoes_stepScales (s : State) (i n : Nat) : BucketGoes i n s (stepScales s i n) := by
  rw [stepScales]
  split
  · exact bucketGoes_refl i n s
  next b hb =>
    split
    · exact bucketGoes_refl i n s
    · dsimp only
      have hsent : BucketGoes i n s (modBucket s i n fun b => { b with sentScales := true }) :=
        bucketGoes_modBucket fun c _ =>
          ⟨rfl, rfl, rfl, rfl, fun _ h => h, fun _ => rfl, [], (List.append_nil _).symm, fun _ => rfl⟩
      split
      next hr =>
        refine hsent.trans (BucketGoes.trans (bucketGoes_modBucket (f := fun b => { b with downScales := some (nodeScales _) })
          fun c hc => ?_) (bucketGoes_sendDown ..))
        have hc' : c = { b with sentScales := true } := Option.some.inj (hc.symm.trans (bucketOf?_modBucket _ hb))
        exact ⟨rfl, rfl, rfl, rfl, fun _ h => h, fun hno => absurd hno (by rw [hc']; simpa [isRoot] using hr), [],
          (List.append_nil _).symm, fun _ => rfl⟩
      · exact hsent.trans (bucketGoes_sendBody ..)

theorem bucketGoes_stepValues (s : State) (i n : Nat) : BucketGoes i n s (stepValues s i n) := by
  rw [stepValues]
  split
  · exact bucketGoes_refl i n s
  next b hb =>
    dsimp only
    split
    · exact bucketGoes_refl i n s
    · have hsent : BucketGoes i n s (modBucket s i n fun c => { c with sent := formable b }) :=
        bucketGoes_modBucket fun c _ =>
          ⟨rfl, rfl, rfl, rfl, fun _ h => h, fun _ => rfl, [], (List.append_nil _).symm, fun _ => rfl⟩
      split
      next hr =>
        refine hsent.trans (BucketGoes.trans (BucketGoes.trans (bucketGoes_modBucket
          (f := fun c => { c with results := c.results ++ rootResults b b.sent (nodeValues b b.sent (formable b - b.sent)) })
          fun c hc => ?_) (bucketGoes_sendDown ..)) (bucketGoes_streamResults ..))
        have hc' : c = { b with sent := formable b } := Option.some.inj (hc.symm.trans (bucketOf?_modBucket _ hb))
        exact ⟨rfl, rfl, rfl, rfl, fun _ h => h, fun _ => rfl, _, rfl, fun hno => absurd hno (by rw [hc']; simpa [isRoot] using hr)⟩
      · exact hsent.trans (bucketGoes_sendBody ..)

theorem bucketGoes_takeEntry (i n : Nat) (s : State) (e : FeedEntry) : BucketGoes i n s (takeEntry i n s e) := by
  rw [takeEntry]
  refine BucketGoes.trans (bucketGoes_modIsl (f := fun x => { x with streams := tblAdj x.streams n fun t =>
    { t with taken := t.taken + _ } }) (fun _ => rfl) (fun _ => rfl) s i i n) (bucketGoes_modBucket fun b _ => ?_)
  split
  · exact ⟨rfl, rfl, rfl, rfl, fun st hst => by rw [hst]; rfl, fun _ => rfl, [], (List.append_nil _).symm, fun _ => rfl⟩
  · exact ⟨rfl, rfl, rfl, rfl, fun _ h => h, fun _ => rfl, [], (List.append_nil _).symm, fun _ => rfl⟩

/-- Nothing but groups and streams has changed. -/
structure StreamsOnly (s t : State) : Prop where
  view : memView t = memView s
  island : ∀ j, { islOf t j with streams := [] } = { islOf s j with streams := [] }

theorem streamsOnly_refl (s : State) : StreamsOnly s s := ⟨rfl, fun _ => rfl⟩

theorem StreamsOnly.trans {s t u : State} (a : StreamsOnly s t) (b : StreamsOnly t u) : StreamsOnly s u :=
  ⟨b.view.trans a.view, fun j => (b.island j).trans (a.island j)⟩

theorem streamsOnly_modIsl (s : State) (i : Nat) (f : Tbl Stream → Tbl Stream) :
    StreamsOnly s (modIsl s i fun x => { x with streams := f x.streams }) :=
  ⟨memView_modIsl (f := fun x => { x with streams := f x.streams }) (fun _ => rfl) s i,
    islOf_modIsl_keeps (g := fun x => { x with streams := [] }) (f := fun x => { x with streams := f x.streams }) (fun _ => rfl) s i⟩

theorem streamsOnly_giveQ3 (f : Nat) (s : State) (i k m : Nat) : StreamsOnly s (giveQ3 f s i k m) := by
  induction f generalizing s with
  | zero => exact streamsOnly_refl s
  | succ f ih =>
    rw [giveQ3]
    dsimp only
    split
    next e es t _ _ =>
      split
      · refine StreamsOnly.trans ?_ (ih _)
        exact StreamsOnly.trans (t := modGrp s k _) ⟨rfl, fun _ => rfl⟩
          (streamsOnly_modIsl _ i fun l => tblSet l m { t with given := t.given + (lanesOf e.mask).length })
      · exact streamsOnly_refl s
    · exact streamsOnly_refl s

theorem StreamsOnly.bucket {s t : State} (h : StreamsOnly s t) (j n : Nat) : bucketOf? t j n = bucketOf? s j n := by
  have hj := congrArg (fun x : Island => tblGet? x.buckets n) (h.island j)
  exact hj

theorem bucketGoes_giveQ3 (f : Nat) (s : State) (i k m j n : Nat) : BucketGoes j n s (giveQ3 f s i k m) :=
  bucketGoes_of_kept (streamsOnly_giveQ3 f s i k m).view ((streamsOnly_giveQ3 f s i k m).bucket j n)

theorem bucketGoes_bucketStep (s : State) (i n : Nat) : BucketGoes i n s (bucketStep s i n) :=
  (bucketGoes_stepScales s i n).trans (bucketGoes_stepValues ..)

/-- A bucket and its group's stream moved on. -/
theorem bucketGoes_bucketMove (s : State) (i n : Nat) : BucketGoes i n s (bucketMove s i n) := by
  rw [bucketMove]
  split
  next k hk =>
    have htake : BucketGoes i n s (takeQ2 s i k n) :=
      BucketGoes.trans (bucketGoes_of_kept (t := modGrp s k fun g =>
        { g with win0 := { g.win0 with q2 := [], due := g.win0.due ++ (grpOf s k).win0.q2 } }) rfl rfl)
        (bucketGoes_foldl (bucketGoes_takeEntry i n) _ _)
    exact (htake.trans (bucketGoes_bucketStep ..)).trans (bucketGoes_giveQ3 ..)
  · exact bucketGoes_bucketStep s i n

/-! ## A bucket's end in memory (R414) -/

theorem ownMem_setMarks (s : State) (i : Nat) (qs : List Nat) : OwnMem i s (setMarks s i qs) := by
  let h := qs.filter fun q => isHost (q * 16)
  have hhost : OwnMem i s { s with hostPoison := (s.hostPoison.filter fun q => !h.contains q) ++ h } := ownMem_host rfl
  simp only [setMarks]
  exact ownMem_trans hhost (ownMem_modMem ..)

theorem ownMem_landSpan (i a off : Nat) (bs : List Byte) (ms : List Nat) (o : Option DirtyRef) (s : State) :
    OwnMem i s (landSpan i a off bs ms o s) := by
  rw [landSpan]
  have hput := ownMem_trans (ownMem_setDirty s i a o) (ownMem_physPut _ i a bs)
  split
  · exact hput
  · exact ownMem_trans hput (ownMem_setMarks ..)

/-- One span of a bucket's range written. -/
def writeSpan (i : Nat) (bs : List Byte) (s : State) (x : Nat × Nat × Nat × Nat × Option DirtyRef) : State :=
  touchSpan i x.2.1 x.1 x.2.2.2.1 true (landSpan i x.1 x.2.2.1 ((bs.drop x.2.2.1).take x.2.2.2.1) [] x.2.2.2.2 s)

theorem writeRange_eq (s : State) (i : Nat) (ps : List EnginePiece) (bs : List Byte) :
    writeRange s i ps bs = (rangeSpans ps 0 bs.length).foldl (writeSpan i bs) s := rfl

theorem ownMem_writeRange (s : State) (i : Nat) (ps : List EnginePiece) (bs : List Byte) : OwnMem i s (writeRange s i ps bs) := by
  rw [writeRange_eq]
  exact ownMem_foldl (fun s x => ownMem_trans (ownMem_landSpan ..) (ownMem_touchSpan ..)) _ s

theorem view_writeSpan (i a vn off n : Nat) (bs : List Byte) (s : State) :
    memView (writeSpan i bs s (a, vn, off, n, none)) = memView (physPut s i a ((bs.drop off).take n)) := memView_touchSpan ..

/-- A span of a range lies in the piece that it is cut from. -/
theorem rangeSpans_within {ps : List EnginePiece} {off n : Nat} {x : Nat × Nat × Nat × Nat × Option DirtyRef}
    (h : x ∈ rangeSpans ps off n) : ∃ p ∈ ps, ∃ a, p.phys = some a ∧ a ≤ x.1 ∧ x.1 + x.2.2.2.1 ≤ a + p.bits / 8
      ∧ x.2.2.2.2 = p.dirtyAt := by
  obtain ⟨p, hp, hx⟩ := List.mem_filterMap.1 h
  refine ⟨p, hp, ?_⟩
  cases ha : p.phys with
  | none =>
    rw [ha] at hx
    exact absurd hx (by simp)
  | some a =>
    rw [ha] at hx
    dsimp only at hx
    split at hx
    next hlt =>
      obtain rfl := Option.some.inj hx
      refine ⟨a, rfl, Nat.le_add_right _ _, ?_, rfl⟩
      dsimp only
      omega
    · exact absurd hx (by simp)

/-- A range's write leaves the bytes outside its pieces. -/
theorem byteAt_writeRange_outside {s : State} {i isl b : Nat} {ps : List EnginePiece} {bs : List Byte}
    (hd : ∀ q ∈ ps, q.dirtyAt = none) (hc : ∀ q ∈ ps, PieceClears isl b i q) : byteAt (writeRange s i ps bs) isl b = byteAt s isl b := by
  rw [writeRange_eq]
  have hspan : ∀ x ∈ rangeSpans ps 0 bs.length, x.2.2.2.2 = none
      ∧ ((isHost b = true ∨ isl = i) → b < x.1 ∨ x.1 + x.2.2.2.1 ≤ b) := fun x hx => by
    obtain ⟨p, hp, a, ha, hlo, hhi, hdirty⟩ := rangeSpans_within hx
    refine ⟨hdirty.trans (hd p hp), fun hown => ?_⟩
    have hb : p.bits / 8 ≤ bytesOf p.bits := Nat.div_le_div_right (by omega)
    have := (hc p hp).1 a ha hown
    omega
  generalize rangeSpans ps 0 bs.length = l at hspan
  induction l generalizing s with
  | nil => rfl
  | cons x l ih =>
    obtain ⟨⟨hnone, hx⟩, hl⟩ := List.forall_mem_cons.1 hspan
    obtain ⟨a, vn, off, n, o⟩ := x
    obtain rfl : o = none := hnone
    rw [List.foldl_cons, ih hl, byteAt_of_view (view_writeSpan ..), byteAt_physPut_other]
    intro hown
    have hlen : ((bs.drop off).take n).length ≤ n := List.length_take_le ..
    have := hx hown
    dsimp only at this
    omega

/-- Bytes written over a range of one piece that is as long. -/
theorem byteAt_writeRange_one {s : State} {i a vn j m : Nat} {bs : List Byte} (hp : Present s i) (hj : j < bs.length) (hm : bs.length ≤ m)
    (hside : a + m ≤ hostBase) :
    byteAt (writeRange s i [{ phys := some a, vn := vn, taddr := 0, bits := 8 * m }] bs) i (a + j) = bs.getD j 0 := by
  have hspans : rangeSpans [{ phys := some a, vn := vn, taddr := 0, bits := 8 * m }] 0 bs.length = [(a, vn, 0, bs.length, none)] := by
    rw [rangeSpans, List.filterMap_cons]
    dsimp only
    rw [Nat.mul_div_cancel_left m (by omega), Nat.max_self, Nat.zero_add, Nat.zero_add, Nat.min_eq_left hm, if_pos (by omega),
      Nat.sub_self, Nat.add_zero, Nat.sub_zero]
    rfl
  rw [writeRange_eq, hspans]
  show byteAt (writeSpan i bs s _) i (a + j) = _
  rw [byteAt_of_view (view_writeSpan ..), List.drop_zero, List.take_length, byteAt_physPut_same hp hj (by omega),
    List.getD_eq_getElem _ _ hj]

/-! ## A bucket's end on its island (R414, R415) -/

/-- What of an island a counter's increment leaves. -/
theorem keeps_ctrSet {α : Type} {g : Island → α} (hg : ∀ x m nc mo, g { x with mem := m, ncs := nc, monitors := mo } = g x) (s : State)
    (i n : Nat) (v : DWord) (j : Nat) : g (islOf (ctrSet s i n v) j) = g (islOf s j) := by
  have hmod : ∀ (u : State) (k : Nat) (f : Island → Island), (∀ x, g (f x) = g x) → g (islOf (modIsl u k f) j) = g (islOf u j) :=
    fun u k f hf => islOf_modIsl_keeps hf u k j
  have hsample : ∀ (u : State) (src c y : Nat), g (islOf (sampleCtx u i src c y) j) = g (islOf u j) := fun u src c y => by
    rw [sampleCtx]
    split
    · exact hmod u i _ fun x => hg x x.mem x.ncs (sampleOwned x.monitors src c y)
    · rfl
  have hwaits : ∀ (m : Nat) (u : State) (src c : Nat), g (islOf (sampleWaits u i src c m) j) = g (islOf u j) := fun m => by
    induction m with
    | zero => exact fun _ _ _ => rfl
    | succ m ih => exact fun u src c => (ih _ src c).trans (hsample u src c _)
  have hseen : ∀ (u : State) (p : Nat × Group), g (islOf (ctrSeen i (n % 65536) v u p) j) = g (islOf u j) := fun u p => by
    rw [ctrSeen]
    split
    · exact (hwaits _ _ _ _).trans (hmod u _ _ fun x => hg x (dropSi x.mem (l1Of p.2.ident.pool p.2.ident.core)) x.ncs x.monitors)
    · rfl
  have hfold : ∀ (l : List (Nat × Group)) (u : State), g (islOf (l.foldl (ctrSeen i (n % 65536) v) u) j) = g (islOf u j) := fun l => by
    induction l with
    | nil => exact fun _ => rfl
    | cons p l ih => exact fun u => (ih _).trans (hseen u p)
  rw [ctrSet_eq]
  exact (hfold _ _).trans (hmod s i _ fun x => hg x x.mem (tblSet x.ncs (n % 65536) v) x.monitors)

theorem keeps_ctrAdd {α : Type} {g : Island → α} (hg : ∀ x m nc mo, g { x with mem := m, ncs := nc, monitors := mo } = g x)
    (hc : ∀ x c, g { x with ncClk := c } = g x) (s : State) (i n : Nat) (v : DWord) (j : Nat) :
    g (islOf (ctrAdd s i n v) j) = g (islOf s j) := by
  rw [ctrAdd]
  split
  · exact keeps_ctrSet hg ..
  · exact (keeps_ctrSet hg ..).trans (islOf_modIsl_keeps (g := g) (fun x => hc x _) s i j)

/-- What of an island a bucket's end goes by. -/
def bucketPart (x : Island) : Tbl Bucket × List (Nat × Nat) × Tbl Context := (x.buckets, x.ended, x.ctxs)

/-- The island without the bucket. -/
def withoutBucket (n : Nat) (b : Bucket) (x : Island) : Island :=
  { x with
    ctxs := tblMod x.ctxs b.ctx fun y => { y with cseq := y.cseq + 1 }
    buckets := tblDel x.buckets n
    ended := (x.ended.filter (· ≠ (b.ctx, b.bid))) ++ [(b.ctx, b.bid)] }

/-- The state in which a bucket's scratch and record have been written. -/
def bucketWritten (s : State) (i : Nat) (b : Bucket) (tw rw : List Byte) (stat : DWord) : State :=
  writeRange (writeRange s i b.scratch (undefinedBytes s.tick 1 (rangeBytes b.scratch))) i b.wmark
    (tw ++ rw ++ le8 stat.toNat ++ le8 (ctxOf s i b.ctx).cseq)

theorem ownMem_bucketWritten (s : State) (i : Nat) (b : Bucket) (tw rw : List Byte) (stat : DWord) :
    OwnMem i s (bucketWritten s i b tw rw stat) := ownMem_trans (ownMem_writeRange ..) (ownMem_writeRange ..)

/-- The state in which the bucket's counter has been incremented. -/
def bucketNotified (s : State) (i : Nat) (b : Bucket) : State := if b.nne = true then ctrAdd s i b.nctr 1 else s

theorem endBucket_eq (s : State) (i n : Nat) (b : Bucket) (tw rw : List Byte) (stat : DWord) : endBucket s i n b tw rw stat
    = wakeAll (unpin (bucketNotified (modIsl (bucketWritten s i b tw rw stat) i (withoutBucket n b)) i b) i b.pins) := rfl

theorem bucketNotified_keeps (s : State) (i j : Nat) (b : Bucket) : memView (bucketNotified s i b) = memView s
    ∧ bucketPart (islOf (bucketNotified s i b) j) = bucketPart (islOf s j)
    ∧ ((b.nne = true → Present s i → ctrOf (bucketNotified s i b) i (b.nctr % 65536) = ctrOf s i (b.nctr % 65536) + 1)) := by
  rw [bucketNotified]
  split
  · have hset := counterSet_ctrAdd s i b.nctr 1
    exact ⟨hset.view, keeps_ctrAdd (g := bucketPart) (fun _ _ _ _ => rfl) (fun _ _ => rfl) s i b.nctr 1 j, fun _ => hset.same⟩
  next hno => exact ⟨rfl, rfl, fun h => absurd h hno⟩

theorem eq_of_memless {α : Type} {g : Island → α} (hg : ∀ x, g { x with mem := {} } = g x) {a b : Island}
    (h : { a with mem := {} } = { b with mem := {} }) : g a = g b := (hg a).symm.trans ((congrArg g h).trans (hg b))

theorem StreamsOnly.keeps {s t : State} (h : StreamsOnly s t) {α : Type} {g : Island → α}
    (hg : ∀ x, g { x with streams := [] } = g x) (j : Nat) : g (islOf t j) = g (islOf s j) :=
  (hg _).symm.trans ((congrArg g (h.island j)).trans (hg _))

/-- What an island holds once a bucket has ended, but for its memory. -/
theorem endBucket_island {α : Type} {g : Island → α} (hg : ∀ x m, g { x with mem := m } = g x) (s : State) (i n : Nat) (b : Bucket)
    (tw rw : List Byte) (stat : DWord) : g (islOf (endBucket s i n b tw rw stat) i)
      = g (islOf (bucketNotified (modIsl (bucketWritten s i b tw rw stat) i (withoutBucket n b)) i b) i) := by
  rw [endBucket_eq]
  generalize bucketNotified _ i b = u
  show g (islOf (unpin u i b.pins) i) = _
  rw [unpin]
  exact islOf_modMem_keeps (g := g) hg u i i _

/-- The end of a bucket, from a state whose island is as s has it but for its memory. -/
theorem endBucket_ends {s s1 t : State} {i n : Nat} {b : Bucket} {tw rw : List Byte} {stat : DWord}
    (hisl : { islOf s1 i with mem := {} } = { islOf s i with mem := {} }) (hp : Present s1 i)
    (ht : StreamsOnly (endBucket s1 i n b tw rw stat) t) :
    BucketEnded s t i n b ∧ memView t = memView (bucketWritten s1 i b tw rw stat) := by
  let s2 := bucketWritten s1 i b tw rw stat
  let s3 := modIsl s2 i (withoutBucket n b)
  have hown : OwnMem i s1 s2 := ownMem_bucketWritten ..
  have hp2 : Present s2 i := hown.present.trans hp
  have hp3 : Present s3 i := (present_modIsl ..).trans hp2
  obtain ⟨hnview, hnpart, hnctr⟩ := bucketNotified_keeps s3 i i b
  have hs2 : { islOf s2 i with mem := {} } = { islOf s i with mem := {} } := (hown.island i).trans hisl
  have hs3 : islOf s3 i = withoutBucket n b (islOf s2 i) := islOf_modIsl_same _ _ _ hp2
  have hpart : bucketPart (islOf t i) = bucketPart (withoutBucket n b (islOf s i)) := by
    have h1 : bucketPart (islOf t i) = bucketPart (islOf (endBucket s1 i n b tw rw stat) i) :=
      ht.keeps (g := bucketPart) (fun _ => rfl) i
    have h2 : bucketPart (islOf (endBucket s1 i n b tw rw stat) i) = bucketPart (islOf (bucketNotified s3 i b) i) :=
      endBucket_island (g := bucketPart) (fun _ _ => rfl) ..
    have h3 : bucketPart (withoutBucket n b (islOf s2 i)) = bucketPart (withoutBucket n b (islOf s i)) :=
      eq_of_memless (g := fun x => bucketPart (withoutBucket n b x)) (fun _ => rfl) hs2
    rw [h1, h2, hnpart, hs3, h3]
  have hbuckets := congrArg (fun x => x.1) hpart
  have hended := congrArg (fun x => x.2.1) hpart
  have hctxs := congrArg (fun x => x.2.2) hpart
  dsimp only [bucketPart, withoutBucket] at hbuckets hended hctxs
  refine ⟨⟨?_, ?_, ?_, fun hn => ?_⟩, ?_⟩
  · rw [bucketOf?, hbuckets]
    exact tblGet?_del_same ..
  · rw [hended]
    simp
  · rw [ctxOf, hctxs, tblMod, tblGet_set_same, ctxOf]
  · have h1 : ctrOf t i (b.nctr % 65536) = ctrOf (endBucket s1 i n b tw rw stat) i (b.nctr % 65536) :=
      ht.keeps (g := fun x => tblGet x.ncs (b.nctr % 65536)) (fun _ => rfl) i
    have h2 : ctrOf (endBucket s1 i n b tw rw stat) i (b.nctr % 65536) = ctrOf (bucketNotified s3 i b) i (b.nctr % 65536) :=
      endBucket_island (g := fun x => tblGet x.ncs (b.nctr % 65536)) (fun _ _ => rfl) ..
    have h3 : ctrOf s3 i (b.nctr % 65536) = ctrOf s2 i (b.nctr % 65536) :=
      ctrOf_modIsl (f := withoutBucket n b) (fun _ => rfl) s2 i i _
    have h4 : ctrOf s2 i (b.nctr % 65536) = ctrOf s i (b.nctr % 65536) :=
      eq_of_memless (g := fun x => tblGet x.ncs (b.nctr % 65536)) (fun _ => rfl) hs2
    rw [h1, h2, hnctr hn hp3, h3, h4]
  · refine ht.view.trans ?_
    rw [endBucket_eq, memView_wakeAll]
    refine Eq.trans (memView_modMem ?_ _ i) (hnview.trans (memView_modIsl (f := withoutBucket n b) (fun _ => rfl) s2 i))
    exact fun _ => rfl

/-- The record of an ended bucket stands where its range is one piece. -/
theorem record_stands {s1 t : State} {i : Nat} {b : Bucket} {tw rw : List Byte} {stat : DWord} (hp : Present s1 i)
    (hview : memView t = memView (bucketWritten s1 i b tw rw stat)) {seq : Nat} (hseq : (ctxOf s1 i b.ctx).cseq = seq)
    (hlen : (tw ++ rw ++ leBytes stat.toNat 8 ++ leBytes seq 8).length ≤ 80) : RecordStands t i b tw rw stat seq := by
  intro a vn hw hside j _ hj
  rw [byteAt_of_view hview, bucketWritten, hw, hseq]
  exact byteAt_writeRange_one (m := 80) ((ownMem_writeRange ..).present.trans hp) hj hlen hside

theorem sha3d256_length (m : List Byte) : (sha3d256 m).length ≤ 32 := List.length_take_le ..

theorem wordsBytes_length (l : List Word) : (wordsBytes l).length = 4 * l.length := by
  induction l with
  | nil => rfl
  | cons x l ih =>
    rw [wordsBytes, List.flatMap_cons, List.length_append, leBytes_length, ← wordsBytes, ih, List.length_cons]
    omega

/-- The state in which a bucket's results have been written, where it has a range for them. -/
def dstWritten (s : State) (i : Nat) (b : Bucket) (out : List Byte) : State :=
  if b.streamed then s else writeRange s i b.dst out

theorem ownMem_dstWritten (s : State) (i : Nat) (b : Bucket) (out : List Byte) : OwnMem i s (dstWritten s i b out) := by
  rw [dstWritten]
  split
  · exact ownMem_refl ..
  · exact ownMem_writeRange ..

theorem bucketComplete_due {i n : Nat} {s : State} {b : Bucket} (hb : bucketOf? s i n = some b) (hf : b.failing = none)
    (hc : b.count ≤ b.results.length) (hr : bucketReach s b = true) : exec (.bucketComplete i n) s =
      .next (endBucket (dstWritten s i b (wordsBytes b.results)) i n b (sha3d256 (trafficOf i b)) (sha3d256 (wordsBytes b.results)) 0) := by
  show execBucketComplete i n s = _
  rw [execBucketComplete, hb]
  dsimp only
  rw [if_neg (by simp [hf, hr, hc])]
  rfl

theorem bucketComplete_ends {i n : Nat} {s : State} {b : Bucket} (hb : bucketOf? s i n = some b) (hf : b.failing = none)
    (hc : b.count ≤ b.results.length) (hr : bucketReach s b = true) :
    ∃ t, exec (.bucketComplete i n) s = .next t ∧ BucketEnded s t i n b
    ∧ RecordStands t i b (sha3d256 (trafficOf i b)) (sha3d256 (wordsBytes b.results)) 0 (ctxOf s i b.ctx).cseq
    ∧ ∀ a vn, b.streamed = false →
      b.dst = [{ phys := some a, vn := vn, taddr := 0, bits := 32 * b.results.length }] →
      a + 4 * b.results.length ≤ hostBase → (∀ q ∈ b.scratch ++ b.wmark, q.dirtyAt = none) → ∀ j, j < 4 * b.results.length →
      (∀ q ∈ b.scratch ++ b.wmark, PieceClears i (a + j) i q) →
      byteAt t i (a + j) = (wordsBytes b.results).getD j 0 := by
  have hp := present_of_bucket hb
  have hown := ownMem_dstWritten s i b (wordsBytes b.results)
  have hp1 : Present (dstWritten s i b (wordsBytes b.results)) i := hown.present.trans hp
  obtain ⟨hends, hview⟩ := endBucket_ends (n := n) (b := b) (tw := sha3d256 (trafficOf i b)) (rw := sha3d256 (wordsBytes b.results))
    (stat := 0) (hown.island i) hp1 (streamsOnly_refl _)
  have hseq : (ctxOf (dstWritten s i b (wordsBytes b.results)) i b.ctx).cseq = (ctxOf s i b.ctx).cseq :=
    eq_of_memless (g := fun x => (tblGet x.ctxs b.ctx).cseq) (fun _ => rfl) (hown.island i)
  refine ⟨_, bucketComplete_due hb hf hc hr, hends, record_stands hp1 hview hseq ?_, fun a vn hst hdst hside hd j hj hclear => ?_⟩
  · have h1 := sha3d256_length (trafficOf i b)
    have h2 := sha3d256_length (wordsBytes b.results)
    simp only [List.length_append, leBytes_length]
    omega
  · have hlen := wordsBytes_length b.results
    rw [byteAt_of_view hview, bucketWritten,
      byteAt_writeRange_outside (fun q hq => hd q (List.mem_append_right _ hq)) (fun q hq => hclear q (List.mem_append_right _ hq)),
      byteAt_writeRange_outside (fun q hq => hd q (List.mem_append_left _ hq)) (fun q hq => hclear q (List.mem_append_left _ hq)),
      dstWritten, hst, hdst, show 32 * b.results.length = 8 * (4 * b.results.length) by omega]
    exact byteAt_writeRange_one hp (by omega) (by omega) hside

theorem bucketComplete_early {i n : Nat} {s : State} {b : Bucket} (hb : bucketOf? s i n = some b)
    (h : b.failing.isSome = true ∨ b.results.length < b.count ∨ bucketReach s b = false) : exec (.bucketComplete i n) s = .next s := by
  show execBucketComplete i n s = _
  rw [execBucketComplete, hb]
  exact if_pos (by simpa [or_assoc] using h)

/-! ## A bucket's failure (R415) -/

theorem islands_sendBody (i : Nat) (b : Bucket) (body : BucketBody) (l : List Nat) (s : State) :
    (l.foldl (sendBody i b body) s).islands = s.islands := by
  induction l generalizing s with
  | nil => rfl
  | cons d l ih => exact ih _

theorem streamsOnly_streamResults (s : State) (i n : Nat) (l : List Word) : StreamsOnly s (streamResults s i n l) :=
  streamsOnly_modIsl s i fun t => tblAdj t n fun x => { x with results := x.results ++ l }

theorem failBucket_ends {i n : Nat} {s : State} {b : Bucket} (st : Nat) (hb : bucketOf? s i n = some b) :
    BucketEnded s (failBucket s i n st) i n b
    ∧ RecordStands (failBucket s i n st) i b (List.replicate 32 0) (List.replicate 32 0) (BitVec.ofNat 64 (2 ^ 63 + st * 2 ^ 8 + 0x16))
      (ctxOf s i b.ctx).cseq := by
  let s0 := ((((if isRoot b then [] else [b.parent]) ++ b.children ++ b.stray.toList).eraseDups).foldl (sendBody i b .failure)
    (dropMail s i b.ctx b.bid))
  let s1 := dstWritten s0 i b (undefinedBytes s0.tick 0 (4 * b.count))
  let z := List.replicate 32 (0 : Byte)
  let e := endBucket s1 i n b z z (failWord st 0x16)
  have h0 : islOf s0 = islOf s := by
    funext j
    exact congrArg (fun l => tblGet l j) (islands_sendBody ..)
  have hp0 : Present s0 i := by
    rw [Present, show s0.islands = s.islands from islands_sendBody ..]
    exact present_of_bucket hb
  have hown : OwnMem i s0 s1 := ownMem_dstWritten ..
  have hp1 : Present s1 i := hown.present.trans hp0
  have hisl : { islOf s1 i with mem := {} } = { islOf s i with mem := {} } := by
    rw [hown.island i, h0]
  have ht : StreamsOnly e (failBucket s i n st) := by
    rw [failBucket, hb]
    dsimp only
    have hres := streamsOnly_streamResults e i n
    split
    · exact (hres _).trans (streamsOnly_giveQ3 ..)
    · exact hres _
  obtain ⟨hends, hview⟩ := endBucket_ends hisl hp1 ht
  have hseq : (ctxOf s1 i b.ctx).cseq = (ctxOf s i b.ctx).cseq :=
    eq_of_memless (g := fun x => (tblGet x.ctxs b.ctx).cseq) (fun _ => rfl) hisl
  refine ⟨hends, record_stands hp1 hview hseq ?_⟩
  simp only [z, List.length_append, List.length_replicate, leBytes_length]
  omega

theorem bucketFailure_due {i n : Nat} {s : State} {b : Bucket} (st : Nat) (hb : bucketOf? s i n = some b) (hr : bucketReach s b = true) :
    exec (.bucketFailure i n st) s = .next (failBucket s i n (b.failing.getD st)) := by
  show execBucketFailure i n st s = _
  rw [execBucketFailure, hb]
  exact congrArg _ (if_pos hr)

theorem bucketTimeout_due {i n : Nat} {s : State} {b : Bucket} (hb : bucketOf? s i n = some b)
    (hlate : b.since + b.bartime * 1000 ≤ s.panel.ptime) (hr : bucketReach s b = true) :
    exec (.bucketTimeout i n) s = .next (failBucket s i n 0x1C) := by
  show execBucketTimeout i n s = _
  rw [execBucketTimeout, hb]
  exact congrArg _ (if_pos (by simp [bucketLate, hlate, hr]))

theorem bucketTimeout_early {i n : Nat} {s : State} {b : Bucket} (hb : bucketOf? s i n = some b)
    (h : s.panel.ptime < b.since + b.bartime * 1000 ∨ bucketReach s b = false) : exec (.bucketTimeout i n) s = .next s := by
  show execBucketTimeout i n s = _
  rw [execBucketTimeout, hb]
  refine congrArg _ (if_neg ?_)
  rcases h with h | h
  · simp [bucketLate, h]
  · simp [h]

theorem bucketReach_iff (s : State) (b : Bucket) : bucketReach s b = true ↔
    hostUp s = true ∨ ∀ p ∈ b.dst ++ b.wmark ++ b.scratch, ∀ a, p.phys = some a → isHost a = false := by
  rw [bucketReach, piecesReach, List.all_eq_true]
  constructor
  · intro h
    cases hup : hostUp s with
    | true => exact .inl rfl
    | false =>
      refine .inr fun p hp a ha => ?_
      have hpa := h p hp
      rw [ha] at hpa
      simpa [reachable, hup] using hpa
  · intro h p hp
    cases ha : p.phys with
    | none => rfl
    | some a =>
      rcases h with h | h
      · simp [reachable, h]
      · simp [reachable, h p hp a ha]

/-! ## Messages of the neighbours (R415) -/

/-- The message taken out of the mail. -/
def mailTaken (s : State) (i : Nat) (m : BucketMsg) : State :=
  { s with panel := { s.panel with mail := dropFirst (i, m) s.panel.mail } }

theorem bucketMessage_taken {i n : Nat} {s : State} {m : BucketMsg} {b : Bucket} (hm : nextMail s i = some m)
    (hr : runningBucket s i m.ctx m.bid = some (n, b)) :
    exec (.bucketMessage i) s = .next (bucketMove (takeMessage (mailTaken s i m) i n b m) i n) := by
  show execBucketMessage i s = _
  rw [execBucketMessage, hm]
  dsimp only
  rw [show runningBucket { s with panel := { s.panel with mail := dropFirst (i, m) s.panel.mail } } i m.ctx m.bid
    = some (n, b) from hr]
  rfl

/-- A bucket that a message changes, and what its steps then leave of that. -/
theorem message_moves {i n : Nat} {s u : State} {m : BucketMsg} {b c : Bucket} (hm : nextMail s i = some m)
    (hr : runningBucket s i m.ctx m.bid = some (n, b)) (hu : takeMessage (mailTaken s i m) i n b m = u)
    (hc : bucketOf? u i n = some c) :
    ∃ t b', exec (.bucketMessage i) s = .next t ∧ memView t = memView u ∧ bucketOf? t i n = some b' ∧ Goes c b' := by
  have hgoes := bucketGoes_bucketMove u i n
  obtain ⟨b', hb', hcb⟩ := hgoes.bucket c hc
  exact ⟨_, b', by rw [bucketMessage_taken hm hr, hu], hgoes.view, hb', hcb⟩

theorem takeMessage_counts {i n : Nat} {s : State} {m : BucketMsg} {b : Bucket} (hmis : mismatched i b m = false)
    (hbody : m.body ≠ .failure) (ha : aside b m = false) : takeMessage s i n b m =
      match m.body with
      | .scalesUp l => modBucket s i n fun b => { b with upScales := b.upScales ++ [(m.source, l)] }
      | .valuesUp l => modBucket s i n fun b => { b with upValues := addChild m.source l b.upValues }
      | .scalesDown l => takeScales s i n b l
      | .result l => takeResults s i n b l
      | .failure => s := by
  rw [takeMessage]
  dsimp only
  rw [hmis, if_neg (by decide), if_neg hbody, ha]
  exact (if_neg (by decide)).trans (by cases m.body <;> rfl)

theorem fromChild_addChild (c : Nat) (l : List Word) (t : List (Nat × List Word)) : fromChild (addChild c l t) c = fromChild t c ++ l := by
  have hnone : (t.filter fun p => p.1 ≠ c).find? (fun p => p.1 = c) = none := List.find?_eq_none.2 fun p hp => by
    simpa using (List.mem_filter.1 hp).2
  rw [fromChild, addChild, List.find?_append, hnone]
  simp

theorem mismatched_iff (i : Nat) (b : Bucket) (m : BucketMsg) : mismatched i b m = true ↔ m.bq32 ≠ b.bq32 ∨ m.count ≠ b.count
    ∨ m.source ≠ b.parent ∧ m.source ∉ b.children ∨ m.source ∈ b.children ∧ m.parent ≠ i := by
  simp [mismatched, or_assoc]

theorem bucketOf?_sendDown (s : State) (i : Nat) (b : Bucket) (body : BucketBody) (j n : Nat) :
    bucketOf? (sendDown s i b body) j n = bucketOf? s j n := by
  rw [bucketOf?, bucketOf?, islOf, islOf, show (sendDown s i b body).islands = s.islands from islands_sendBody ..]

theorem bucketOf?_takeScales {s : State} {i n : Nat} {b : Bucket} (l : List Byte) (hb : bucketOf? s i n = some b) :
    bucketOf? (takeScales s i n b l) i n = some { b with downScales := some l }
    ∧ memView (takeScales s i n b l) = memView s := by
  refine ⟨(bucketOf?_sendDown ..).trans (bucketOf?_modBucket _ hb), ?_⟩
  exact (bucketGoes_sendDown i n _ i b (.scalesDown l)).view.trans (memView_modBucket ..)

theorem bucketOf?_takeResults {s : State} {i n : Nat} {b : Bucket} (l : List Word) (hb : bucketOf? s i n = some b) :
    bucketOf? (takeResults s i n b l) i n = some { b with results := b.results ++ l }
    ∧ memView (takeResults s i n b l) = memView s := by
  refine ⟨((streamsOnly_streamResults _ i n l).bucket i n).trans
    ((bucketOf?_sendDown ..).trans (bucketOf?_modBucket _ hb)), ?_⟩
  exact (streamsOnly_streamResults _ i n l).view.trans
    ((bucketGoes_sendDown i n _ i b (.result l)).view.trans (memView_modBucket ..))

/-- Settles O58: the end of a bucket is one write of its record, and between messages a bucket goes on by its own steps alone. -/
theorem bucketEventResults : Obligations.BucketEventResults := by
  unfold Obligations.BucketEventResults
  refine ⟨fun i n s b => bucketComplete_ends, fun i n s h => ?_, fun i n b s h => bucketComplete_early h.1 h.2,
    fun i n st b s h => ?_, fun i n st s b hb hr => ⟨_, bucketFailure_due st hb hr, failBucket_ends _ hb⟩, fun i n st s h => ?_,
    fun i n s b hb hlate hr => ⟨_, bucketTimeout_due hb hlate hr, failBucket_ends _ hb⟩,
    fun i n b s h => bucketTimeout_early h.1 h.2, bucketReach_iff, fun i s h => ?_, fun i s m hm hr => ?_, mismatched_iff,
    fun i s m n b hm hr hb hbody hmis => ?_, fun i s m n b hm hr hb hbody hmis ha => ?_, fun i s m n b hm hr hb hmis => ?_,
    fun i s m n b l hm hr hb hbody hmis ha => ?_, fun i s m n b l hm hr hb hbody hmis ha => ?_,
    fun i s m n b l hm hr hb hbody hmis ha hroot => ?_, fun i s m n b l hm hr hb hbody hmis ha => ?_⟩
  · show execBucketComplete i n s = _
    rw [execBucketComplete, h]
  · show execBucketFailure i n st s = _
    rw [execBucketFailure, h.1]
    exact congrArg _ (if_neg (by simp [h.2]))
  · show execBucketFailure i n st s = _
    rw [execBucketFailure, h]
  · show execBucketMessage i s = _
    rw [execBucketMessage, h]
  · refine ⟨mailTaken s i m, ?_, rfl, rfl⟩
    show execBucketMessage i s = _
    rw [execBucketMessage, hm]
    dsimp only
    rw [show runningBucket { s with panel := { s.panel with mail := dropFirst (i, m) s.panel.mail } } i m.ctx m.bid = none from hr]
    rfl
  · have hu : takeMessage (mailTaken s i m) i n b m = modBucket (mailTaken s i m) i n fun b =>
        { b with failing := some 0x1E, stray := none } := by
      rw [takeMessage]
      dsimp only
      rw [hmis, if_neg (by decide), if_pos hbody]
    obtain ⟨t, b', ht, -, hb', hgoes⟩ := message_moves hm hr hu (bucketOf?_modBucket _ hb)
    exact ⟨t, b', ht, hb', hgoes.failing _ rfl, hgoes.stray⟩
  · have hu : takeMessage (mailTaken s i m) i n b m = mailTaken s i m := by
      rw [takeMessage]
      dsimp only
      rw [hmis, if_neg (by decide), if_neg hbody, if_pos ha]
    obtain ⟨t, b', ht, hview, hb', hgoes⟩ := message_moves hm hr hu hb
    exact ⟨t, b', ht, sameMemory_of_view hview, hb', hgoes.upValues, hgoes.upScales⟩
  · have hu : takeMessage (mailTaken s i m) i n b m = modBucket (mailTaken s i m) i n fun b =>
        { b with failing := some 0x1B, stray := some m.source } := by
      rw [takeMessage]
      dsimp only
      rw [hmis, if_pos rfl]
    obtain ⟨t, b', ht, -, hb', hgoes⟩ := message_moves hm hr hu (bucketOf?_modBucket _ hb)
    exact ⟨t, b', ht, hb', hgoes.failing _ rfl, hgoes.stray⟩
  · have hu := takeMessage_counts (s := mailTaken s i m) (n := n) hmis (by simp [hbody]) ha
    rw [hbody] at hu
    obtain ⟨t, b', ht, hview, hb', hgoes⟩ := message_moves hm hr hu (bucketOf?_modBucket _ hb)
    refine ⟨t, b', ht, sameMemory_of_view (hview.trans (memView_modBucket ..)), hb', ?_⟩
    rw [hgoes.upValues]
    exact fromChild_addChild ..
  · have hu := takeMessage_counts (s := mailTaken s i m) (n := n) hmis (by simp [hbody]) ha
    rw [hbody] at hu
    obtain ⟨t, b', ht, hview, hb', hgoes⟩ := message_moves hm hr hu (bucketOf?_modBucket _ hb)
    exact ⟨t, b', ht, sameMemory_of_view (hview.trans (memView_modBucket ..)), hb', hgoes.upScales⟩
  · have hu := takeMessage_counts (s := mailTaken s i m) (n := n) hmis (by simp [hbody]) ha
    rw [hbody] at hu
    obtain ⟨hbucket, hkept⟩ := bucketOf?_takeScales (s := mailTaken s i m) l hb
    obtain ⟨t, b', ht, hview, hb', hgoes⟩ := message_moves hm hr hu hbucket
    exact ⟨t, b', ht, sameMemory_of_view (hview.trans hkept), hb', hgoes.downScales hroot⟩
  · have hu := takeMessage_counts (s := mailTaken s i m) (n := n) hmis (by simp [hbody]) ha
    rw [hbody] at hu
    obtain ⟨hbucket, hkept⟩ := bucketOf?_takeResults (s := mailTaken s i m) l hb
    obtain ⟨t, b', ht, hview, hb', hgoes⟩ := message_moves hm hr hu hbucket
    obtain ⟨more, hmore, hroot⟩ := hgoes.results
    exact ⟨t, b', more, ht, sameMemory_of_view (hview.trans hkept), hb', hmore, hroot⟩

end Sys2Proof.Proofs

/-! PROOFS. Partitions: faults and endings that reach every island, progress beats, register claims, and team starts (O50). -/

namespace Sys2Proof.Proofs

open Sys2Proof Sys2Proof.Machine Sys2Proof.Laws

/-! ## A context that enters Faulted (R316, R317) -/

/-- A context as a fault leaves it. -/
def faultedWith (why : FaultedBy) (x : Context) : Context :=
  if x.state = .built ∨ x.state = .terminated then x
  else if x.state = .faulted then if releasable why then x else { x with faultedBy := why }
  else { x with
    state := .faulted, faultedBy := why, restoring := false
    captured := x.state = .parked || x.state = .saved, unseated := x.state = .saved && !x.restoring }

theorem faultedWith_of_live {why : FaultedBy} {x : Context} (hb : x.state ≠ .built) (ht : x.state ≠ .terminated)
    (hf : x.state ≠ .faulted) : faultedWith why x = { x with
      state := .faulted, faultedBy := why, restoring := false
      captured := x.state = .parked || x.state = .saved, unseated := x.state = .saved && !x.restoring } := by
  rw [faultedWith, if_neg (not_or.2 ⟨hb, ht⟩), if_neg hf]

theorem faultedWith_of_faulted {why : FaultedBy} {x : Context} (hf : x.state = .faulted) :
    faultedWith why x = if releasable why then x else { x with faultedBy := why } := by
  rw [faultedWith, if_neg (by rw [hf]; decide), if_pos hf]

/-- A second fault of one cause changes nothing more. -/
theorem faultedWith_twice (why : FaultedBy) (x : Context) : faultedWith why (faultedWith why x) = faultedWith why x := by
  by_cases hdead : x.state = .built ∨ x.state = .terminated
  · have h : faultedWith why x = x := if_pos hdead
    rw [h, h]
  · obtain ⟨hb, ht⟩ := not_or.1 hdead
    have hf : (faultedWith why x).state = .faulted ∧ (releasable why = false → (faultedWith why x).faultedBy = why) := by
      by_cases hf : x.state = .faulted
      · rw [faultedWith_of_faulted hf]
        split
        · exact ⟨hf, fun h => absurd h (by simp [*])⟩
        · exact ⟨hf, fun _ => rfl⟩
      · rw [faultedWith_of_live hb ht hf]
        exact ⟨rfl, fun _ => rfl⟩
    rw [faultedWith_of_faulted hf.1]
    split
    next => rfl
    next h =>
      have hw := hf.2 (by simpa using h)
      generalize faultedWith why x = y at hw ⊢
      rw [← hw]

theorem ctxOf_absent {s : State} {i c : Nat} (h : (tblGet? (islOf s i).ctxs c).isSome = false) : ctxOf s i c = {} := by
  have hnone : tblGet? (islOf s i).ctxs c = none := by simpa using h
  rw [ctxOf, tblGet, hnone]
  rfl

theorem ctxOf_of_ctxs {s t : State} {i : Nat} (h : (islOf t i).ctxs = (islOf s i).ctxs) (c : Nat) : ctxOf t i c = ctxOf s i c := by
  rw [ctxOf, h, ctxOf]

theorem ctxOf_modCtx_other_island (s : State) {i j : Nat} (c d : Nat) (f : Context → Context) (h : j ≠ i) :
    ctxOf (modCtx s i c f) j d = ctxOf s j d := by
  rw [ctxOf, modCtx, islOf_modIsl_other s _ h, ctxOf]

/-- A change of a context that leaves one that is not there as it is. -/
theorem ctxOf_modCtx_fixed {f : Context → Context} (h0 : f {} = {}) (s : State) (i c : Nat) :
    ctxOf (modCtx s i c f) i c = f (ctxOf s i c) := by
  cases h : (tblGet? (islOf s i).ctxs c).isSome with
  | true => exact ctxOf_modCtx_same s i c f h
  | false =>
    have habsent : (tblGet? (islOf (modCtx s i c f) i).ctxs c).isSome = false := by
      by_cases hi : (tblGet? s.islands i).isSome = true
      · rw [modCtx, islOf_modIsl_same s i _ hi]
        show (tblGet? (tblAdj (islOf s i).ctxs c f) c).isSome = false
        rw [tblGet?_adj_same, Option.isSome_map, h]
      · rw [modCtx, islOf_modIsl_absent s i i _ (by simpa using hi)]
        exact h
    rw [ctxOf_absent habsent, ctxOf_absent h, h0]

theorem faultHere_of_dead {s : State} {i c : Nat} {why : FaultedBy} (h : Machine.stateOf s i c = .built ∨ Machine.stateOf s i c = .terminated) :
    faultHere s i c why = s := by
  simp only [faultHere]
  exact if_pos (by simpa [Machine.stateOf] using h)

theorem ctxOf_faultHere (s : State) (i c : Nat) (why : FaultedBy) :
    ctxOf (faultHere s i c why) i c = faultedWith why (ctxOf s i c) := by
  simp only [faultHere, Bool.or_eq_true, decide_eq_true_eq]
  split
  · next h => rw [faultedWith, if_pos h]
  · next hdead =>
    have hthere : (tblGet? (islOf s i).ctxs c).isSome = true := by
      cases h : (tblGet? (islOf s i).ctxs c).isSome with
      | true => rfl
      | false => exact absurd (by rw [ctxOf_absent h]) (not_or.1 hdead).1
    rw [faultedWith, if_neg hdead]
    split
    · split
      · rfl
      · exact ctxOf_modCtx_same _ _ _ _ hthere
    · exact (ctxOf_of_ctxs (ctxs_busyEnds ..) c).trans (ctxOf_modCtx_same _ _ _ _ hthere)

theorem ctxOf_faultHere_other {i j : Nat} (h : j ≠ i) (s : State) (c d : Nat) (why : FaultedBy) :
    ctxOf (faultHere s i c why) j d = ctxOf s j d := by
  simp only [faultHere]
  split
  · rfl
  · split
    · split
      · rfl
      · exact ctxOf_modCtx_other_island _ _ _ _ h
    · exact (ctxOf_of_ctxs (ctxs_busyEnds ..) d).trans (ctxOf_modCtx_other_island _ _ _ _ h)

@[simp] theorem memView_faultHere (s : State) (i c : Nat) (why : FaultedBy) : memView (faultHere s i c why) = memView s := by
  simp only [faultHere]
  split
  · rfl
  · split
    · split
      · rfl
      · exact memView_modCtx ..
    · rw [memView_modIsl (fun x => memPart_busyEnds c x), memView_modCtx]

theorem faultHere_keeps (s : State) (i c : Nat) (why : FaultedBy) : (faultHere s i c why).groups = s.groups
    ∧ (faultHere s i c why).propagate = s.propagate ∧ (faultHere s i c why).panel = s.panel := by
  simp only [faultHere]
  split
  · exact ⟨rfl, rfl, rfl⟩
  · split
    · split <;> exact ⟨rfl, rfl, rfl⟩
    · exact ⟨rfl, rfl, rfl⟩

/-- A context that can be faulted enters Faulted, and the others are to be told. -/
theorem faultedOn_faultCtx {s : State} {i c : Nat} {why : FaultedBy} (h : Standing s i c) : FaultedOn s (faultCtx s i c why) i c why := by
  have hctx : ctxOf (faultCtx s i c why) i c = faultedWith why (ctxOf s i c) := ctxOf_faultHere s i c why
  have hlive : (ctxOf s i c).state ≠ .built ∧ (ctxOf s i c).state ≠ .terminated ∧ (ctxOf s i c).state ≠ .faulted
      ∧ (ctxOf s i c).state ≠ .parked ∧ (ctxOf s i c).state ≠ .saved := by
    rcases h with h | h | h <;> rw [Machine.stateOf] at h <;> rw [h] <;> decide
  obtain ⟨hb, ht, hf, hp, hs⟩ := hlive
  rw [faultedWith_of_live hb ht hf] at hctx
  refine ⟨?_, by rw [hctx], by rw [hctx]; simp [hp, hs], congrArg (· ++ _) (faultHere_keeps s i c why).2.1⟩
  rw [Machine.stateOf, hctx]

/-! ## Changes reach the other islands (R317) -/

/-- What each step of a fold does to one place, where a second visit changes nothing more. -/
theorem foldl_visits {α : Type} {F : State → Nat → State} {view : State → Nat → α} {f : α → α}
    (hsame : ∀ s j, view (F s j) j = f (view s j)) (hother : ∀ s j k, k ≠ j → view (F s j) k = view s k)
    (htwice : ∀ x, f (f x) = f x) (l : List Nat) (s : State) (k : Nat) :
    view (l.foldl F s) k = if k ∈ l then f (view s k) else view s k := by
  induction l generalizing s with
  | nil => rfl
  | cons j l ih =>
    rw [List.foldl_cons, ih]
    by_cases hk : k = j
    · subst hk
      rw [hsame, htwice, ite_self, if_pos List.mem_cons_self]
    · rw [hother s j k hk]
      simp [hk]

/-- The islands that hold the context, but for the one where it changed. -/
def toldIslands (s : State) (i c : Nat) : List Nat := (s.islands.filter fun p => p.1 ≠ i && (tblGet? p.2.ctxs c).isSome).map (·.1)

theorem mem_toldIslands {s : State} {i j c : Nat} (hj : j ≠ i) (h : (tblGet? (islOf s j).ctxs c).isSome = true) :
    j ∈ toldIslands s i c := by
  have hpres : (tblGet? s.islands j).isSome = true := by
    by_contra hnone
    rw [islOf, tblGet, Option.not_isSome_iff_eq_none.1 hnone] at h
    exact Bool.noConfusion h
  obtain ⟨x, hx⟩ := Option.isSome_iff_exists.1 hpres
  refine List.mem_map.2 ⟨(j, x), List.mem_filter.2 ⟨mem_of_tblGet? hx, ?_⟩, rfl⟩
  rw [islOf, tblGet, hx] at h
  simpa [hj] using h

/-- How a change reaches one island: a fault, or the context's end. -/
def reached (c : Nat) (why : Option FaultedBy) (s : State) (j : Nat) : State :=
  match why with
  | some w => faultHere s j c w
  | none =>
    let x := (ctxOf s j c).state
    if x = .built || x = .terminated then s else terminateHere s j c

theorem execContextStatePropagate_eq {s : State} {c i : Nat} {why : Option FaultedBy} {rest : List (Nat × Nat × Option FaultedBy)}
    (h : s.propagate = (c, i, why) :: rest) :
    exec .contextStatePropagate s = .next ((toldIslands s i c).foldl (reached c why) { s with propagate := rest }) := by
  show execContextStatePropagate s = _
  rw [execContextStatePropagate, h]
  cases why <;> rfl

theorem terminateHere_propagate (s : State) (i c : Nat) : (terminateHere s i c).propagate = s.propagate := by
  simp only [terminateHere, noteSite, endWork, discardGroups, modMem_propagate, modIsl_propagate, modCtx_propagate]

theorem reached_propagate (c : Nat) (why : Option FaultedBy) (s : State) (j : Nat) : (reached c why s j).propagate = s.propagate := by
  cases why with
  | some w => exact (faultHere_keeps s j c w).2.1
  | none =>
    simp only [reached]
    split
    · rfl
    · exact terminateHere_propagate s j c

/-- The bytes of memory, and those of the host. -/
def bytesOf (s : State) : Memory × (Nat → Memory) := (s.hostMem, fun i => (islOf s i).mem.bytes)

theorem bytesOf_of_view {s t : State} (h : memView t = memView s) : bytesOf t = bytesOf s :=
  Prod.ext (congrArg MemView.host h) (congrArg MemView.island h)

theorem bytesOf_terminateHere (s : State) (i c : Nat) : bytesOf (terminateHere s i c) = bytesOf s := by
  have hview : memView (terminateHere s i c) = memView (discardGroups s i c) := by simp [terminateHere]
  refine (bytesOf_of_view hview).trans (Prod.ext rfl (funext fun j => ?_))
  exact islOf_modIsl_keeps (g := fun x : Island => x.mem.bytes)
    (f := fun x => { x with mem := { x.mem with engines := x.mem.engines.map fun p => (p.1, ownTeam s i c p.2) } })
    (fun _ => rfl) s i j

theorem bytesOf_reached (c : Nat) (why : Option FaultedBy) (s : State) (j : Nat) : bytesOf (reached c why s j) = bytesOf s := by
  cases why with
  | some w => exact bytesOf_of_view (memView_faultHere s j c w)
  | none =>
    simp only [reached]
    split
    · rfl
    · exact bytesOf_terminateHere s j c

/-- A context's state once it has ended. -/
def endedState (x : CtxState) : CtxState := if x = .built then .built else .terminated

theorem stateOf_terminateHere (s : State) (i c : Nat) (h : (tblGet? (islOf s i).ctxs c).isSome = true) :
    Machine.stateOf (terminateHere s i c) i c = .terminated := terminateCtx_state s i c h

theorem stateOf_terminateHere_other {i j : Nat} (hj : j ≠ i) (s : State) (c : Nat) : Machine.stateOf (terminateHere s i c) j c = Machine.stateOf s j c := by
  have hctxs : (islOf (terminateHere s i c) j).ctxs = (islOf s j).ctxs := by
    rw [ctxs_terminateHere, modCtx, islOf_modIsl_other _ _ hj, ctxs_endWork, ctxs_discardGroups]
  rw [Machine.stateOf, ctxOf_of_ctxs hctxs, Machine.stateOf]

theorem stateOf_reached_end (s : State) (c j : Nat) : Machine.stateOf (reached c none s j) j c = endedState (Machine.stateOf s j c) := by
  simp only [reached]
  by_cases hdead : (ctxOf s j c).state = .built ∨ (ctxOf s j c).state = .terminated
  · rw [if_pos (by simpa using hdead)]
    rcases hdead with h | h <;> rw [Machine.stateOf, h] <;> rfl
  · rw [if_neg (by simpa using hdead)]
    obtain ⟨hb, ht⟩ := not_or.1 hdead
    have hthere : (tblGet? (islOf s j).ctxs c).isSome = true := by
      cases h : (tblGet? (islOf s j).ctxs c).isSome with
      | true => rfl
      | false => exact absurd (by rw [ctxOf_absent h]) hb
    rw [stateOf_terminateHere s j c hthere, endedState, Machine.stateOf, if_neg hb]

theorem stateOf_reached_end_other (s : State) (c j k : Nat) (h : k ≠ j) : Machine.stateOf (reached c none s j) k c = Machine.stateOf s k c := by
  simp only [reached]
  split
  · rfl
  · exact stateOf_terminateHere_other h s c

/-- On an island that is told of a fault the context is as the fault leaves it. -/
theorem ctxOf_propagated_fault {s : State} {i j c : Nat} (w : FaultedBy) (hj : j ≠ i)
    (h : (tblGet? (islOf s j).ctxs c).isSome = true) (u : State) (hu : islOf u j = islOf s j) :
    ctxOf ((toldIslands s i c).foldl (reached c (some w)) u) j c = faultedWith w (ctxOf s j c) := by
  have hfold := foldl_visits (F := reached c (some w)) (view := fun s k => ctxOf s k c) (f := faultedWith w)
    (fun s j => ctxOf_faultHere s j c w) (fun s j k hk => ctxOf_faultHere_other hk s c c w) (faultedWith_twice w)
    (toldIslands s i c) u j
  rw [if_pos (mem_toldIslands hj h)] at hfold
  refine hfold.trans (congrArg _ ?_)
  rw [ctxOf, hu, ctxOf]

theorem stateOf_propagated_end {s : State} {i j c : Nat} (hj : j ≠ i)
    (h : (tblGet? (islOf s j).ctxs c).isSome = true) (u : State) (hu : islOf u j = islOf s j) :
    Machine.stateOf ((toldIslands s i c).foldl (reached c none) u) j c = endedState (Machine.stateOf s j c) := by
  have hfold := foldl_visits (F := reached c none) (view := fun s k => Machine.stateOf s k c) (f := endedState)
    (fun s j => stateOf_reached_end s c j) (fun s j k hk => stateOf_reached_end_other s c j k hk)
    (fun x => by cases x <;> rfl) (toldIslands s i c) u j
  rw [if_pos (mem_toldIslands hj h)] at hfold
  refine hfold.trans (congrArg _ ?_)
  rw [Machine.stateOf, Machine.stateOf, ctxOf, hu, ctxOf]

theorem sameMemory_of_bytes {s t : State} (h : bytesOf t = bytesOf s) (hteams : t.teams = s.teams) : SameMemory s t := by
  refine ⟨byteAt_of_mem (congrArg Prod.fst h) fun i => congrFun (congrArg Prod.snd h) i, fun tm a => ?_⟩
  rw [teamOf, hteams, teamOf]

/-- What a propagated change does to the context on an island that holds it. -/
theorem propagate_reaches {s : State} {c i : Nat} {why : Option FaultedBy} {rest : List (Nat × Nat × Option FaultedBy)}
    (h : s.propagate = (c, i, why) :: rest) : ∃ t, exec .contextStatePropagate s = .next t ∧ t.propagate = rest
    ∧ SameMemory { s with teams := t.teams } t
    ∧ ∀ j, j ≠ i → (tblGet? (islOf s j).ctxs c).isSome = true →
      (∀ w, why = some w → ctxOf t j c = faultedWith w (ctxOf s j c))
      ∧ (why = none → Machine.stateOf t j c = endedState (Machine.stateOf s j c)) := by
  refine ⟨_, execContextStatePropagate_eq h, ?_, ?_, ?_⟩
  · exact foldl_keeps State.propagate (reached_propagate c why) ..
  · exact sameMemory_of_bytes (foldl_keeps bytesOf (bytesOf_reached c why) ..) rfl
  · intro j hj hthere
    refine ⟨?_, ?_⟩
    · rintro w rfl
      exact ctxOf_propagated_fault w hj hthere _ rfl
    · rintro rfl
      exact stateOf_propagated_end hj hthere _ rfl

/-- A partition that stands, or whose image has been taken, as a fault leaves it. -/
theorem faultedWith_standing {s : State} {j c : Nat} (w : FaultedBy) (h : Standing s j c ∨ Machine.stateOf s j c = .parked ∨ Machine.stateOf s j c = .saved) :
    (faultedWith w (ctxOf s j c)).state = .faulted ∧ (faultedWith w (ctxOf s j c)).faultedBy = w
      ∧ ((faultedWith w (ctxOf s j c)).captured = true ↔ Machine.stateOf s j c = .parked ∨ Machine.stateOf s j c = .saved)
      ∧ ((faultedWith w (ctxOf s j c)).unseated = true ↔ Machine.stateOf s j c = .saved ∧ (ctxOf s j c).restoring = false) := by
  have hlive : (ctxOf s j c).state ≠ .built ∧ (ctxOf s j c).state ≠ .terminated ∧ (ctxOf s j c).state ≠ .faulted := by
    rcases h with (h | h | h) | h | h <;> rw [Machine.stateOf] at h <;> rw [h] <;> decide
  obtain ⟨hb, ht, hf⟩ := hlive
  rw [faultedWith_of_live hb ht hf]
  exact ⟨rfl, rfl, by simp [Machine.stateOf], by simp [Machine.stateOf]⟩

/-! ## A core that misses its beats (R340, R341) -/

/-- A group of which no register has changed, and where no chain and no MMAP has started. -/
structure Quieter (g h : Group) : Prop where
  regs : h.regs = g.regs
  chains : g.chains = [] → h.chains = []
  mmap : g.mmap = none → h.mmap = none

theorem quieter_refl (g : Group) : Quieter g g := ⟨rfl, id, id⟩

theorem Quieter.trans {g h k : Group} (a : Quieter g h) (b : Quieter h k) : Quieter g k :=
  ⟨b.regs.trans a.regs, fun hc => b.chains (a.chains hc), fun hm => b.mmap (a.mmap hm)⟩

/-- A change of one group, of which no part of the memory or of an island hears. -/
structure OneQuieter (k : Nat) (s t : State) : Prop where
  group : Quieter (grpOf s k) (grpOf t k)
  others : ∀ j, j ≠ k → grpOf t j = grpOf s j
  islands : t.islands = s.islands
  propagate : t.propagate = s.propagate

theorem oneQuieter_refl (k : Nat) (s : State) : OneQuieter k s s := ⟨quieter_refl _, fun _ _ => rfl, rfl, rfl⟩

theorem OneQuieter.trans {k : Nat} {s t u : State} (a : OneQuieter k s t) (b : OneQuieter k t u) : OneQuieter k s u :=
  ⟨a.group.trans b.group, fun j hj => (b.others j hj).trans (a.others j hj), b.islands.trans a.islands, b.propagate.trans a.propagate⟩

theorem OneQuieter.any {k : Nat} {s t : State} (a : OneQuieter k s t) (j : Nat) : Quieter (grpOf s j) (grpOf t j) := by
  by_cases hj : j = k
  · subst hj
    exact a.group
  · rw [a.others j hj]
    exact quieter_refl _

theorem Quieter.modFrag {g h : Group} (a : Quieter g h) (i : Nat) (f : Frag → Frag) : Quieter g (modFrag h i f) :=
  ⟨a.regs, a.chains, a.mmap⟩

/-- A group as its MMAP stops. -/
def unmapped (saved : Option (DWord × DWord × BitVec 2)) (x : SpecialRegs) (g : Group) : Group :=
  { g with mmap := none, mmapSaved := saved, special := x }

theorem quieter_unmapped (saved : Option (DWord × DWord × BitVec 2)) (x : SpecialRegs) (g : Group) : Quieter g (unmapped saved x g) :=
  ⟨rfl, id, fun _ => rfl⟩

theorem quieter_discardChains (g : Group) : Quieter g (discardChains g) := ⟨rfl, fun _ => rfl, id⟩

theorem grpOf_modGrp_at (s : State) (k : Nat) (f : Group → Group) :
    grpOf (modGrp s k f) k = f (grpOf s k) ∨ grpOf (modGrp s k f) k = {} := by
  rw [grpOf, modGrp, tblGet, tblGet?_adj_same, grpOf, tblGet]
  cases tblGet? s.groups k with
  | none => exact .inr rfl
  | some x => exact .inl rfl

theorem oneQuieter_setGrp {s : State} {k : Nat} {g : Group} (h : Quieter (grpOf s k) g) : OneQuieter k s (setGrp s k g) :=
  ⟨by rwa [grpOf_setGrp_same], fun _ hj => grpOf_setGrp_other s g hj, rfl, rfl⟩

theorem oneQuieter_modGrp {f : Group → Group} (h : ∀ g, Quieter g (f g)) (s : State) (k : Nat) : OneQuieter k s (modGrp s k f) := by
  refine ⟨?_, fun j hj => ?_, rfl, rfl⟩
  rotate_left
  · rw [grpOf, grpOf, modGrp, tblGet, tblGet, tblGet?_adj_other _ _ hj]
  rw [grpOf, grpOf, modGrp, tblGet, tblGet, tblGet?_adj_same]
  cases tblGet? s.groups k with
  | none => exact quieter_refl _
  | some g => exact h g

theorem endWrite_keeps (s : State) (tm : Nat) (ks : List Nat) : (endWrite s tm ks).groups = s.groups
    ∧ (endWrite s tm ks).islands = s.islands ∧ (endWrite s tm ks).propagate = s.propagate := by
  have step : ∀ {α : Type} (part : State → α), (∀ s tm k f, part (modTile s tm k f) = part s) → part (endWrite s tm ks) = part s := by
    intro α part h
    refine foldl_keeps part (fun s k => ?_) ks s
    split
    · rfl
    · exact h ..
  exact ⟨step State.groups fun _ _ _ _ => rfl, step State.islands fun _ _ _ _ => rfl, step State.propagate fun _ _ _ _ => rfl⟩

theorem oneQuieter_endWrite (s : State) (k tm : Nat) (ks : List Nat) : OneQuieter k s (endWrite s tm ks) := by
  obtain ⟨hg, hi, hp⟩ := endWrite_keeps s tm ks
  have hgrp : ∀ j, grpOf (endWrite s tm ks) j = grpOf s j := fun j => by rw [grpOf, hg, grpOf]
  exact ⟨by rw [hgrp]; exact quieter_refl _, fun j _ => hgrp j, hi, hp⟩

/-- A group whose MMAP has stopped part way. -/
def stoppedGroup (g : Group) (m : MmapRec) : Group :=
  modFrag (unmapped (some (m.word0, m.word1, m.rm)) { raise g.special m.flags with prog := BitVec.ofNat 64 (2 ^ 63 + m.done) } g)
    (mmapFrag g) fun f => { f with hold := .none }

theorem quieter_stoppedGroup (g : Group) (m : MmapRec) : Quieter g (stoppedGroup g m) :=
  (quieter_unmapped ..).modFrag ..

theorem mmapStop_eq (s : State) (k : Nat) (m : MmapRec) : mmapStop s k m = endWrite (setGrp s k (stoppedGroup (grpOf s k) m))
    (grpOf s k).ident.team (pairKeys (teamOf s (grpOf s k).ident.team) (grpOf s k).ident.core m.base) := rfl

/-- A stopped MMAP is gone; nothing else that computes has started. -/
theorem stopMmap_quiet (s : State) (k : Nat) (m : MmapRec) :
    OneQuieter k s (stopMmap s k m) ∧ (grpOf (stopMmap s k m) k).mmap = none := by
  have hstop : OneQuieter k s (mmapStop s k m) ∧ (grpOf (mmapStop s k m) k).mmap = none := by
    rw [mmapStop_eq]
    have hset := oneQuieter_setGrp (k := k) (quieter_stoppedGroup (grpOf s k) m)
    refine ⟨hset.trans (oneQuieter_endWrite ..), ?_⟩
    rw [grpOf, (endWrite_keeps _ _ _).1, ← grpOf, grpOf_setGrp_same]
    rfl
  rw [stopMmap]
  split
  · exact hstop
  · have hback : OneQuieter k (mmapStop s k m) _ := oneQuieter_modGrp
      (f := fun g => { g with mmapSaved := none, special := { g.special with prog := (grpOf s k).special.prog } })
      (fun g => ⟨rfl, id, id⟩) (mmapStop s k m) k
    exact ⟨hstop.1.trans hback, hback.group.mmap hstop.2⟩

/-- What the halt of a core does to a group of its island. -/
def beatEnds (i core : Nat) (s : State) (p : Nat × Group) : State :=
  if p.2.ident.island ≠ i then s
  else
    let s := match p.2.mmap with
      | some m => if mmapOn s core p.2 then stopMmap s p.1 m else s
      | none => s
    if p.2.ident.core = core then modGrp s p.1 discardChains else s

theorem beatHalt_eq (s : State) (i core : Nat) : beatHalt s i core = s.groups.foldl (beatEnds i core) s := rfl

theorem oneQuieter_beatEnds (i core : Nat) (s : State) (p : Nat × Group) : OneQuieter p.1 s (beatEnds i core s p) := by
  rw [beatEnds]
  split
  · exact oneQuieter_refl ..
  · have hmmap : OneQuieter p.1 s (match p.2.mmap with
        | some m => if mmapOn s core p.2 then stopMmap s p.1 m else s
        | none => s) := by
      split
      · split
        · exact (stopMmap_quiet ..).1
        · exact oneQuieter_refl ..
      · exact oneQuieter_refl ..
    dsimp only
    split
    · exact hmmap.trans (oneQuieter_modGrp quieter_discardChains ..)
    · exact hmmap

/-- A group of the halted core runs no chain and no MMAP any longer. -/
theorem beatEnds_quiet {i core : Nat} {s : State} {p : Nat × Group} (hi : p.2.ident.island = i) (hc : p.2.ident.core = core)
    (hm : p.2.mmap = none → (grpOf s p.1).mmap = none) :
    (grpOf (beatEnds i core s p) p.1).chains = [] ∧ (grpOf (beatEnds i core s p) p.1).mmap = none := by
  have hdiscard : ∀ u : State, (grpOf u p.1).mmap = none → (grpOf (modGrp u p.1 discardChains) p.1).chains = []
      ∧ (grpOf (modGrp u p.1 discardChains) p.1).mmap = none := by
    intro u hu
    rcases grpOf_modGrp_at u p.1 discardChains with h | h <;> rw [h]
    · exact ⟨rfl, hu⟩
    · exact ⟨rfl, rfl⟩
  rw [beatEnds, if_neg (not_not.2 hi)]
  dsimp only
  rw [if_pos hc]
  refine hdiscard _ ?_
  cases hp : p.2.mmap with
  | none => exact hm hp
  | some m =>
    have hon : mmapOn s core p.2 = true := by simp [mmapOn, hp, hc]
    dsimp only
    rw [if_pos hon]
    exact (stopMmap_quiet ..).2

/-- What the halt of a core leaves of every group of a list. -/
structure CoreQuiet (i core : Nat) (l : List (Nat × Group)) (s t : State) : Prop where
  all : ∀ k, Quieter (grpOf s k) (grpOf t k)
  islands : t.islands = s.islands
  propagate : t.propagate = s.propagate
  others : ∀ k, (∀ p ∈ l, p.1 = k → p.2.ident.island ≠ i) → grpOf t k = grpOf s k
  quiet : ∀ p ∈ l, p.2.ident.island = i → p.2.ident.core = core → (p.2.mmap = none → (grpOf s p.1).mmap = none) →
    (grpOf t p.1).chains = [] ∧ (grpOf t p.1).mmap = none

theorem coreQuiet_foldl (i core : Nat) (l : List (Nat × Group)) (s : State) : CoreQuiet i core l s (l.foldl (beatEnds i core) s) := by
  induction l generalizing s with
  | nil => exact ⟨fun _ => quieter_refl _, rfl, rfl, fun _ _ => rfl, fun _ hp => absurd hp List.not_mem_nil⟩
  | cons p l ih =>
    have hstep := oneQuieter_beatEnds i core s p
    have hrest := ih (beatEnds i core s p)
    refine ⟨fun k => (hstep.any k).trans (hrest.all k), hrest.islands.trans hstep.islands, hrest.propagate.trans hstep.propagate,
      fun k hk => ?_, fun q hq hi hc hm => ?_⟩
    · have hhead : grpOf (beatEnds i core s p) k = grpOf s k := by
        by_cases hkp : k = p.1
        · rw [beatEnds, if_pos (hk p List.mem_cons_self hkp.symm)]
        · exact hstep.others k hkp
      exact (hrest.others k fun q hq => hk q (List.mem_cons_of_mem _ hq)).trans hhead
    · rcases List.mem_cons.1 hq with rfl | hq
      · obtain ⟨hchains, hmmap⟩ := beatEnds_quiet hi hc hm
        exact ⟨(hrest.all q.1).chains hchains, (hrest.all q.1).mmap hmmap⟩
      · exact hrest.quiet q hq hi hc fun h => (hstep.any q.1).mmap (hm h)

theorem coreQuiet_beatHalt (s : State) (i core : Nat) : CoreQuiet i core s.groups s (beatHalt s i core) :=
  coreQuiet_foldl ..

/-- An island once a core's missed beats have been reported. -/
def forgiven (core : Nat) (y : Island) : Island := { y with cores := tblMod y.cores core fun k => { k with missed := 0 } }

/-- A core that has missed two beats: its context enters Faulted, its chains and MMAPs end. -/
theorem heartbeat_faults {i core : Nat} {s : State} {p : Nat × Group} {rest : List (Nat × Group)}
    (hp : coreGroups s i core = p :: rest) (hm : 2 ≤ (tblGet (islOf s i).cores core).missed) (hst : Standing s i p.2.ident.ctx) :
    ∃ u v ws, u.groups = s.groups ∧ (∀ j, (islOf u j).ctxs = (islOf s j).ctxs) ∧ u.propagate = s.propagate ∧ v = beatHalt u i core
      ∧ exec (.heartbeat i core) s = .next (faultCtx (enqueueRecord v i ws) i p.2.ident.ctx .heartbeat) := by
  have hctxs : ∀ j, (islOf (modIsl s i (forgiven core)) j).ctxs = (islOf s j).ctxs := fun j =>
    islOf_modIsl_keeps (g := Island.ctxs) (f := forgiven core) (fun _ => rfl) s i j
  refine ⟨modIsl s i (forgiven core), _, escalationRecord 4 (Config.freeWord (4 * s.tick)).toNat core p.2.ident.ctx
    (causeWord { cls := 0x1A } false) (Config.freeWord (4 * s.tick + 1)) (Config.freeWord (4 * s.tick + 2)) 0 0 0,
    rfl, hctxs, rfl, rfl, ?_⟩
  · show execHeartbeat i core s = _
    rw [execHeartbeat, hp]
    dsimp only
    rw [if_neg]
    · rfl
    have hstate : (ctxOf s i p.2.ident.ctx).state = .resident ∨ (ctxOf s i p.2.ident.ctx).state = .running
      ∨ (ctxOf s i p.2.ident.ctx).state = .halting := hst
    simp only [Bool.or_eq_true, decide_eq_true_eq, not_or]
    refine ⟨by omega, ?_⟩
    rcases hstate with h | h | h <;> simp [h]

theorem mem_coreGroups {s : State} {i core : Nat} {q : Nat × Group} :
    q ∈ coreGroups s i core ↔ q ∈ s.groups ∧ q.2.ident.island = i ∧ q.2.ident.core = core := by
  simp [coreGroups]

theorem faultCtx_groups (s : State) (i c : Nat) (why : FaultedBy) : (faultCtx s i c why).groups = s.groups :=
  (faultHere_keeps s i c why).1

theorem standing_of_ctxs {s t : State} {i : Nat} (h : (islOf t i).ctxs = (islOf s i).ctxs) {c : Nat} (hst : Standing s i c) :
    Standing t i c := by
  rw [Standing, Machine.stateOf, ctxOf, h]
  exact hst

theorem heartbeat_clause (i core : Nat) (s : State) (p : Nat × Group) (rest : List (Nat × Group))
    (hp : coreGroups s i core = p :: rest) (hm : 2 ≤ (tblGet (islOf s i).cores core).missed) (hst : Standing s i p.2.ident.ctx) :
    ∃ t, exec (.heartbeat i core) s = .next t ∧ FaultedOn s t i p.2.ident.ctx .heartbeat
      ∧ (∀ k, (grpOf t k).regs = (grpOf s k).regs)
      ∧ (KeysDistinct s → (∀ k, (grpOf s k).ident.island ≠ i → grpOf t k = grpOf s k)
        ∧ ∀ q ∈ coreGroups s i core, (grpOf t q.1).chains = [] ∧ (grpOf t q.1).mmap = none) := by
  obtain ⟨u, v, ws, hgroups, hctxs, hprop, rfl, hexec⟩ := heartbeat_faults hp hm hst
  have hq := coreQuiet_beatHalt u i core
  have hgrp : ∀ k, grpOf u k = grpOf s k := fun k => by rw [grpOf, hgroups, grpOf]
  have hend : ∀ k, grpOf (faultCtx (enqueueRecord (beatHalt u i core) i ws) i p.2.ident.ctx .heartbeat) k = grpOf (beatHalt u i core) k :=
    fun k => congrArg (tblGet · k) (faultCtx_groups ..)
  have hisl : ∀ j, (islOf (enqueueRecord (beatHalt u i core) i ws) j).ctxs = (islOf s j).ctxs := fun j => by
    rw [ctxs_enqueueRecord, islOf_of_islands hq.islands, hctxs]
  refine ⟨_, hexec, ?_, fun k => ?_, fun hkeys => ⟨fun k hk => ?_, fun q hmem => ?_⟩⟩
  · obtain ⟨hfaulted, hwhy, hcap, hpropagate⟩ := faultedOn_faultCtx (why := .heartbeat) (standing_of_ctxs (hisl i) hst)
    exact ⟨hfaulted, hwhy, hcap, by rw [hpropagate, enqueueRecord_propagate, hq.propagate, hprop]⟩
  · rw [hend, (hq.all k).regs, hgrp]
  · rw [hend, hq.others k, hgrp]
    rintro q hmem rfl hi
    rw [hgroups] at hmem
    rw [hkeys q hmem] at hk
    exact hk hi
  · obtain ⟨hin, hi, hc⟩ := mem_coreGroups.1 hmem
    rw [hend]
    refine hq.quiet q (by rwa [hgroups]) hi hc fun h => ?_
    rw [hgrp, hkeys q hin]
    exact h

theorem heartbeat_notDue (i core : Nat) :
    NotDue (.heartbeat i core) fun s => coreGroups s i core = [] ∨ (tblGet (islOf s i).cores core).missed < 2 := by
  intro s h
  show execHeartbeat i core s = _
  rw [execHeartbeat]
  split
  · rfl
  next p rest hp =>
    rw [if_pos]
    simp only [Bool.or_eq_true, decide_eq_true_eq]
    exact .inl (h.resolve_left (by rw [hp]; exact List.cons_ne_nil _ _))

theorem progressBeat_clause (i core : Nat) (s : State) : ∃ t, exec (.progressBeat i core) s = .next t ∧ SameMemory s t ∧ t.groups = s.groups
    ∧ (Present s i → (tblGet (islOf t i).cores core).moved = coreBeats s i core
      ∧ (tblGet (islOf t i).cores core).missed
        = if (tblGet (islOf s i).cores core).moved = true ∨ coreBeats s i core = true then 0
          else (tblGet (islOf s i).cores core).missed + 1) := by
  refine ⟨_, rfl, sameMemory_of_view (memView_modIsl ?_ s i), rfl, fun hp => ?_⟩
  · exact fun _ => rfl
  · rw [islOf_modIsl_same s i _ hp]
    dsimp only
    rw [tblMod, tblGet_set_same]
    exact ⟨rfl, by simp only [Bool.or_eq_true]⟩

theorem beatpWrite_inside (i : Nat) (v : DWord) : Fires (.beatpWrite i v) (fun _ => 10 ≤ v.toNat % 2 ^ 14 ∧ v.toNat % 2 ^ 14 ≤ 10000)
    fun s => modIsl s i fun x => { x with beatp := v.toNat % 2 ^ 14 } := by
  intro s h
  show execBeatpWrite i v s = _
  have hb : bits v.toNat 13 0 = v.toNat % 2 ^ 14 := by rw [bits, pow_zero, Nat.div_one]
  rw [execBeatpWrite]
  dsimp only
  rw [hb, if_pos (by simpa using h)]

theorem beatpWrite_outside (i : Nat) (v : DWord) : Fires (.beatpWrite i v) (fun _ => v.toNat % 2 ^ 14 < 10 ∨ 10000 < v.toNat % 2 ^ 14)
    fun s => modIsl s i fun x => { x with beatp := 100 } := by
  intro s h
  show execBeatpWrite i v s = _
  have hb : bits v.toNat 13 0 = v.toNat % 2 ^ 14 := by rw [bits, pow_zero, Nat.div_one]
  rw [execBeatpWrite]
  dsimp only
  rw [hb, if_neg (by simp only [Bool.and_eq_true, decide_eq_true_eq]; omega)]

/-! ## Refused requests (R331, R423) -/

theorem present_of_state {s : State} {i c : Nat} (h : (ctxOf s i c).state ≠ .built) : (tblGet? (islOf s i).ctxs c).isSome = true := by
  cases hc : (tblGet? (islOf s i).ctxs c).isSome with
  | true => rfl
  | false => exact absurd (by rw [ctxOf_absent hc]) h

/-- A context whose partition a refusal has frozen. -/
def frozenCtx (x : Context) : Context := { x with frozen := true }

/-- The freeze of a partition: it is Faulted, frozen, and the other islands are to be told. -/
theorem freeze_effects {s : State} {home c q : Nat} (ws : List DWord)
    (hst : Standing s home c ∨ Machine.stateOf s home c = .parked ∨ Machine.stateOf s home c = .saved) :
    let t := faultCtx (modCtx (enqueueRecord s q ws) home c frozenCtx) home c .freeze
    Machine.stateOf t home c = .faulted ∧ (ctxOf t home c).faultedBy = .freeze ∧ (ctxOf t home c).frozen = true
      ∧ ((ctxOf t home c).captured = true ↔ Machine.stateOf s home c = .parked ∨ Machine.stateOf s home c = .saved)
      ∧ t.propagate = s.propagate ++ [(c, home, some .freeze)] ∧ t.groups = s.groups := by
  intro t
  have hlive : (ctxOf s home c).state ≠ .built ∧ (ctxOf s home c).state ≠ .terminated ∧ (ctxOf s home c).state ≠ .faulted := by
    rcases hst with (h | h | h) | h | h <;> rw [Machine.stateOf] at h <;> rw [h] <;> decide
  obtain ⟨hb, ht, hf⟩ := hlive
  have hfrozen : ctxOf (modCtx (enqueueRecord s q ws) home c frozenCtx) home c
      = frozenCtx (ctxOf s home c) := by
    rw [ctxOf_modCtx_same _ _ _ _ (by rw [ctxs_enqueueRecord]; exact present_of_state hb),
      ctxOf_of_ctxs (ctxs_enqueueRecord s q home ws)]
  have hctx : ctxOf t home c = faultedWith .freeze (frozenCtx (ctxOf s home c)) := by
    rw [← hfrozen]
    exact ctxOf_faultHere ..
  rw [faultedWith_of_live (x := frozenCtx (ctxOf s home c)) hb ht hf] at hctx
  refine ⟨?_, by rw [hctx], by rw [hctx]; rfl, ?_, ?_, faultCtx_groups ..⟩
  · rw [Machine.stateOf, hctx]
  · rw [hctx]
    dsimp only
    rw [Bool.or_eq_true, decide_eq_true_eq, decide_eq_true_eq]
    rfl
  · exact congrArg (· ++ _) (faultHere_keeps ..).2.1

section Refusals

variable (i agent mk home c core slot : Nat) (pc mask : DWord) (s : State)

theorem refusal_freezes (hmk : mk < 3) (hfr : (ctxOf s home c).frozen = false)
    (hst : Standing s home c ∨ Machine.stateOf s home c = .parked ∨ Machine.stateOf s home c = .saved) :
    ∃ t, exec (.protectionRefusal i agent mk home c core slot pc mask) s = .next t
      ∧ Machine.stateOf t home c = .faulted ∧ (ctxOf t home c).faultedBy = .freeze ∧ (ctxOf t home c).frozen = true
      ∧ ((ctxOf t home c).captured = true ↔ Machine.stateOf s home c = .parked ∨ Machine.stateOf s home c = .saved)
      ∧ t.propagate = s.propagate ++ [(c, home, some .freeze)] ∧ t.groups = s.groups := by
  refine ⟨faultCtx (modCtx (enqueueRecord s (if agent = 2 then addressed s i else i) (freezeRecord slot core c agent pc
    (if mk = 0 then mask else 0) (masterWord mk c (if mk = 2 then 0 else core)))) home c frozenCtx) home c .freeze, ?_,
    freeze_effects _ hst⟩
  · show execProtectionRefusal i agent mk home c core slot pc mask s = _
    rw [execProtectionRefusal]
    dsimp only
    rw [if_neg (by omega), if_neg, hfr, if_neg (by decide)]
    · rfl
    rcases hst with (h | h | h) | h | h <;> rw [Machine.stateOf] at h <;> rw [h] <;> decide

theorem addressed_eq (i : Nat) : (if agent = 2 then addressed s i else i) = if agent = 2 ∧ tblGet? s.islands i = none then 0 else i := by
  rw [addressed]
  cases h : tblGet? s.islands i <;> by_cases ha : agent = 2 <;> simp [ha]

theorem refusal_counted : Fires (.protectionRefusal i agent mk home c core slot pc mask)
    (fun s => mk < 3 ∧ (ctxOf s home c).frozen = true ∧ Machine.stateOf s home c ≠ .built ∧ Machine.stateOf s home c ≠ .terminated)
    fun s => countRefusal s (if agent = 2 ∧ tblGet? s.islands i = none then 0 else i) := by
  rintro s ⟨hmk, hfr, hb, ht⟩
  show execProtectionRefusal i agent mk home c core slot pc mask s = _
  rw [execProtectionRefusal]
  dsimp only
  rw [if_neg (by omega), if_neg, if_pos hfr, addressed_eq]
  simpa [Machine.stateOf] using ⟨hb, ht⟩

theorem refusal_of_host (hmk : 3 ≤ mk) (h : s.panel.frozen.contains core = false) :
    ∃ t, exec (.protectionRefusal i agent mk home c core slot pc mask) s = .next t
      ∧ t.panel = { s.panel with frozen := s.panel.frozen ++ [core] } ∧ t.groups = s.groups ∧ t.teams = s.teams := by
  let u := enqueueRecord s (if agent = 2 then addressed s i else i) (freezeRecord 0 0 0 agent 0 0 (masterWord 3 0 core))
  refine ⟨{ u with panel := { u.panel with frozen := u.panel.frozen ++ [core] } }, ?_, rfl, rfl, rfl⟩
  · show execProtectionRefusal i agent mk home c core slot pc mask s = _
    rw [execProtectionRefusal]
    dsimp only
    rw [if_pos hmk, if_neg (by rw [h]; decide)]

theorem refusal_of_frozen_host (hmk : 3 ≤ mk) (h : s.panel.frozen.contains core = true) :
    ∃ t, exec (.protectionRefusal i agent mk home c core slot pc mask) s = .next t
      ∧ t.panel = { s.panel with refused := s.panel.refused + 1 } ∧ SameMemory s t ∧ t.groups = s.groups := by
  refine ⟨countRefusal { s with panel := { s.panel with refused := s.panel.refused + 1 } } i, ?_, rfl, ?_, rfl⟩
  · show execProtectionRefusal i agent mk home c core slot pc mask s = _
    rw [execProtectionRefusal]
    dsimp only
    rw [if_pos hmk, if_pos h]
  · refine sameMemory_of_view ?_
    refine Eq.trans (memView_modIsl ?_ _ i) rfl
    exact fun _ => rfl

end Refusals

end Sys2Proof.Proofs

/-! PROOFS. Register claims and spills (R202 to R204), and the start of a team (R348, R352); partition events settled (O50). -/

namespace Sys2Proof.Proofs

open Sys2Proof Sys2Proof.Machine Sys2Proof.Laws

/-! ## Claims served (R202, R204) -/

/-- What a save area's traffic leaves: groups, teams, clocks and memories. -/
theorem areaTraffic_keeps (s : State) (id : Ident) (a n : Nat) : (areaTraffic s id a n).groups = s.groups
    ∧ (areaTraffic s id a n).tick = s.tick ∧ memView (areaTraffic s id a n) = memView s := by
  have hfold : ∀ (vn : Nat) (l : List Nat) (m : IslandMem),
      memPart (l.foldl (fun m j => vcTouch m vn id.core (a / 64 + j) true) m) = memPart m := by
    intro vn l
    induction l with
    | nil => exact fun _ => rfl
    | cons j l ih => exact fun m => (ih _).trans (memPart_vcTouch ..)
  rw [areaTraffic]
  split
  · exact ⟨rfl, rfl, rfl⟩
  · dsimp only
    split
    · exact ⟨rfl, rfl, (memView_modMem (hfold _ _) _ _).trans (memView_vctEntry ..)⟩
    · exact ⟨rfl, rfl, rfl⟩

theorem exec_rgrowClaimServed {s : State} {i core k n : Nat} (ho : oldestClaim s i core = some (k, n)) (hn : n ≤ poolBytes s i core) :
    exec (.rgrowClaimServed i core) s = .next (serveClaim s k) := by
  have hs : servable s i core = some k := by
    rw [servable, ho]
    exact if_pos hn
  show execRgrowClaimServed i core s = _
  rw [execRgrowClaimServed, hs]

/-- Another group's claim served leaves the group. -/
theorem setGrp_leaves {s u : State} {k : Nat} (g : Group) (hg : u.groups = s.groups) (hv : memView u = memView s) :
    SameMemory s (setGrp u k g) ∧ ∀ j, j ≠ k → tblGet? (setGrp u k g).groups j = tblGet? s.groups j := by
  refine ⟨sameMemory_of_view ((memView_setGrp ..).trans hv), fun j hj => ?_⟩
  rw [setGrp_groups, tblGet?_set_other _ _ hj, hg]

theorem spilled_served (i core k n : Nat) : FiresIn (.rgrowClaimServed i core) k (fun s => oldestClaim s i core = some (k, n)
      ∧ n ≤ poolBytes s i core ∧ (grpOf s k).state = .spilled ∧ claimFrag (grpOf s k) = none) fun s =>
    let g := grpOf s k
    let u := areaTraffic s g.ident (areaOf s g + 0x18000) (4 * lanesIn g * g.allot)
    setGrp u k (wake { g with
      state := .active, ready := s.tick
      regs := loadV (islOf u g.ident.island).mem.bytes (areaOf u g) (lanesIn g) g.allot g.regs }) := by
  rintro s ⟨ho, hn, hsp, hc⟩
  obtain ⟨hgroups, htick, hview⟩ := areaTraffic_keeps s (grpOf s k).ident (areaOf s (grpOf s k) + 0x18000)
    (4 * lanesIn (grpOf s k) * (grpOf s k).allot)
  refine ⟨?_, setGrp_leaves _ hgroups hview⟩
  have hclaim : ∀ regs, claimFrag { grpOf s k with state := .active, regs := regs } = none := fun _ => hc
  rw [exec_rgrowClaimServed ho hn, serveClaim]
  dsimp only
  rw [if_pos hsp, if_pos hsp, hclaim, htick]

theorem growth_served (i core k n j m : Nat) : FiresIn (.rgrowClaimServed i core) k (fun s => oldestClaim s i core = some (k, n)
      ∧ n ≤ poolBytes s i core ∧ (grpOf s k).state ≠ .spilled ∧ claimFrag (grpOf s k) = some (j, m)) fun s =>
    setGrp s k (wake { growTo m j (grpOf s k) with ready := s.tick }) := by
  rintro s ⟨ho, hn, hsp, hc⟩
  refine ⟨?_, setGrp_leaves _ rfl rfl⟩
  rw [exec_rgrowClaimServed ho hn, serveClaim]
  dsimp only
  rw [if_neg hsp, if_neg hsp, hc]

theorem claim_waits (i core : Nat) :
    NotDue (.rgrowClaimServed i core) fun s => ∀ k n, oldestClaim s i core = some (k, n) → poolBytes s i core < n := by
  intro s h
  have hs : servable s i core = none := by
    rw [servable]
    cases ho : oldestClaim s i core with
    | none => rfl
    | some p => exact if_neg (by have := h p.1 p.2 ho; omega)
  show execRgrowClaimServed i core s = _
  rw [execRgrowClaimServed, hs]

/-! ## Spills (R204) -/

theorem deadlock_spills (i core : Nat) (s : State) (k : Nat) (g : Group) (hs : claimsStuck s i core = true)
    (hv : spillVictim s i core = some (k, g)) (hr : spillReady g = true) : ∃ t, exec (.claimDeadlock i core) s = .next t
      ∧ (servable (spillGroup s k g) i core = none → (grpOf t k).state = .spilled)
      ∧ ∀ j, servable (spillGroup s k g) i core = some j → t = serveClaim (spillGroup s k g) j := by
  refine ⟨(servable (spillGroup s k g) i core).elim (spillGroup s k g) (serveClaim (spillGroup s k g)), ?_, fun h => ?_, fun j h => ?_⟩
  · show execClaimDeadlock i core s = _
    rw [execClaimDeadlock, if_neg (by rw [hs]; decide), hv]
    dsimp only
    rw [if_neg (by rw [hr]; decide)]
    cases servable (spillGroup s k g) i core <;> rfl
  · rw [h, Option.elim_none, spillGroup, grpOf_setGrp_same]
  · rw [h, Option.elim_some]

theorem deadlock_serves (i core k n : Nat) : Fires (.claimDeadlock i core) (fun s => claimsStuck s i core = true
      ∧ spillVictim s i core = none ∧ oldestClaim s i core = some (k, n)) fun s => serveClaim s k := by
  rintro s ⟨hs, hv, ho⟩
  show execClaimDeadlock i core s = _
  rw [execClaimDeadlock, if_neg (by rw [hs]; decide), hv, ho]
  rfl

theorem deadlock_waits (i core : Nat) : NotDue (.claimDeadlock i core) fun s => claimsStuck s i core = false := by
  intro s h
  show execClaimDeadlock i core s = _
  rw [execClaimDeadlock, if_pos (by rw [h]; rfl)]

/-! ## Registers written to a save area and read back (R204) -/

theorem tblGet?_append {α : Type} (l m : Tbl α) (k : Nat) : tblGet? (l ++ m) k = (tblGet? l k).or (tblGet? m k) := by
  induction l with
  | nil => rfl
  | cons p l ih =>
    rw [List.cons_append, tblGet?, tblGet?]
    split
    · rfl
    · exact ih

theorem memGet_cellsFrom (a x : Nat) (bs : List Byte) :
    memGet (cellsFrom a bs) x = if a ≤ x then bs.getD (x - a) 0 else 0 := by
  induction bs generalizing a with
  | nil => simp [cellsFrom, memGet, tblGet?]
  | cons b bs ih =>
    have hrest : memGet (cellsFrom (a + 1) bs) x = if a + 1 ≤ x then bs.getD (x - (a + 1)) 0 else 0 := ih (a + 1)
    have hcons : memGet (cellsFrom a (b :: bs)) x = if a = x then b else memGet (cellsFrom (a + 1) bs) x := by
      rw [cellsFrom]
      by_cases hx : a = x
      · subst hx
        rw [if_pos rfl]
        split
        next hb => rw [hrest, if_neg (by omega), hb]
        next => rw [memGet, tblGet?, if_pos rfl, Option.getD_some]
      · rw [if_neg hx]
        split
        · rfl
        · rw [memGet, tblGet?, if_neg hx, memGet]
    rw [hcons, hrest]
    rcases Nat.lt_trichotomy x a with h | rfl | h
    · rw [if_neg (by omega), if_neg (by omega), if_neg (by omega)]
    · rw [if_pos rfl, if_pos le_rfl, Nat.sub_self, List.getD_cons_zero]
    · obtain ⟨d, rfl⟩ := Nat.exists_eq_add_of_lt h
      rw [if_neg (by omega), if_pos (by omega), if_pos (by omega), show a + d + 1 - a = d + 1 by omega, List.getD_cons_succ,
        show a + d + 1 - (a + 1) = d by omega]

theorem memGet_append (l m : Memory) (x : Nat) (h : tblGet? l x = none) : memGet (l ++ m) x = memGet m x := by
  rw [memGet, tblGet?_append, h, memGet]
  rfl

theorem memGet_blit_inside (m : Memory) (a : Nat) (bs : List Byte) {k : Nat} (h : k < bs.length) :
    memGet (memBlit m a bs) (a + k) = bs[k] := by
  have hlow : tblGet? (m.filter fun c => c.1 < a) (a + k) = none := by
    rw [tblGet?_filter_key m (fun x => decide (x < a)), if_neg (by simp)]
  have hhigh : tblGet? (m.filter fun c => a + bs.length ≤ c.1) (a + k) = none := by
    rw [tblGet?_filter_key m (fun x => decide (a + bs.length ≤ x)), if_neg (by simp; omega)]
  have hcells := memGet_cellsFrom a (a + k) bs
  rw [if_pos (by omega), Nat.add_sub_cancel_left, List.getD_eq_getElem _ _ h] at hcells
  rw [memBlit, List.append_assoc, memGet_append _ _ _ hlow, memGet, tblGet?_append, hhigh, Option.or_none, ← hcells, memGet]

theorem memGet_blit_outside (m : Memory) (a : Nat) (bs : List Byte) {x : Nat} (h : x < a ∨ a + bs.length ≤ x) :
    memGet (memBlit m a bs) x = memGet m x := by
  have hcells : tblGet? (cellsFrom a bs) x = none := by
    by_contra hne
    obtain ⟨b, hb⟩ := Option.ne_none_iff_exists'.1 hne
    have := mem_cellsFrom (mem_of_tblGet? hb)
    omega
  rw [memBlit, memGet, tblGet?_append, tblGet?_append, hcells, Option.or_none, tblGet?_filter_key m (fun x => decide (x < a)),
    tblGet?_filter_key m (fun x => decide (a + bs.length ≤ x)), memGet]
  rcases h with h | h
  · rw [if_pos (by simpa using h), if_neg (by simp; omega), Option.or_none]
  · rw [if_neg (by simp; omega), if_pos (by simpa using h), Option.none_or]

/-- Equal parts in a row: what stands in one of them. -/
theorem getElem?_flatMap_range {α : Type} (f : Nat → List α) {n : Nat} (hf : ∀ r, (f r).length = n) (N : Nat) {r j : Nat}
    (hr : r < N) (hj : j < n) : ((List.range N).flatMap f)[n * r + j]? = (f r)[j]? := by
  induction N with
  | zero => omega
  | succ N ih =>
    have hlen : ((List.range N).flatMap f).length = n * N := by
      rw [List.length_flatMap, List.map_congr_left (fun r _ => hf r), List.map_const', List.sum_replicate, List.length_range]
      exact Nat.mul_comm ..
    rw [List.range_succ, List.flatMap_append, List.flatMap_singleton]
    rcases Nat.lt_or_eq_of_le (Nat.le_of_lt_succ hr) with h | rfl
    · have : n * r + n ≤ n * N := by rw [← Nat.mul_succ]; exact Nat.mul_le_mul_left n h
      rw [List.getElem?_append_left (by omega), ih h]
    · rw [List.getElem?_append_right (by omega), hlen, Nat.add_sub_cancel_left]

theorem vBytes_row_length (g : Group) (r : Nat) :
    ((List.range (lanesIn g)).flatMap fun l => leBytes (readV g.regs r l).toNat 4).length = 4 * lanesIn g := by
  rw [List.length_flatMap, List.map_congr_left (fun l _ => leBytes_length 4 (readV g.regs r l).toNat), List.map_const',
    List.sum_replicate, List.length_range]
  exact Nat.mul_comm ..

theorem vBytes_at (g : Group) {r l j : Nat} (hr : r < 128) (hl : l < lanesIn g) (hj : j < 4) :
    (vBytes g)[4 * (lanesIn g * r + l) + j]? = some (BitVec.ofNat 8 ((readV g.regs r l).toNat / 256 ^ j)) := by
  have hlen : j < (leBytes (readV g.regs r l).toNat 4).length := by rwa [leBytes_length]
  rw [vBytes, show 4 * (lanesIn g * r + l) + j = 4 * lanesIn g * r + (4 * l + j) by rw [Nat.mul_add, Nat.mul_assoc, Nat.add_assoc],
    getElem?_flatMap_range _ (vBytes_row_length g) 128 hr (by omega),
    getElem?_flatMap_range (fun l => leBytes (readV g.regs r l).toNat 4) (fun l => leBytes_length ..) _ hl hj,
    List.getElem?_eq_getElem hlen, leBytes_getElem]

theorem poisonBytes_length (g : Regs) : (poisonBytes g).length = 2048 := by
  rw [poisonBytes, List.length_flatMap, List.map_congr_left (fun r _ => (List.length_map _).trans List.length_range),
    List.map_const', List.sum_replicate, List.length_range]
  rfl

/-- The save area's memory after the spill. -/
def spilledBytes (m : Memory) (a : Nat) (g : Group) : Memory :=
  memBlit (memBlit m (a + 0x18000) ((vBytes g).take (4 * lanesIn g * g.allot))) (a + 0x2900) (poisonBytes g.regs)

theorem memNat_spilled (m : Memory) (a : Nat) {g : Group} (hg : g.allot ≤ 128) {r l : Nat} (hr : r < g.allot) (hl : l < lanesIn g) :
    memNat (spilledBytes m a g) (a + 0x18000 + 4 * (lanesIn g * r + l)) 4 = (readV g.regs r l).toNat := by
  have hput := memNat_putNat [] (a + 0x18000 + 4 * (lanesIn g * r + l)) (readV g.regs r l).toNat 4
  have hbits : (readV g.regs r l).toNat % 256 ^ 4 = (readV g.regs r l).toNat := Nat.mod_eq_of_lt (readV g.regs r l).isLt
  rw [← hbits, ← hput]
  refine (memNat_congr fun x hlo hhi => ?_)
  obtain ⟨j, rfl⟩ := Nat.exists_eq_add_of_le hlo
  have hj : j < 4 := by omega
  have hrow : lanesIn g * r + lanesIn g ≤ lanesIn g * g.allot := by rw [← Nat.mul_succ]; exact Nat.mul_le_mul_left _ hr
  have hat := vBytes_at g (Nat.lt_of_lt_of_le hr hg) hl hj
  have htake : ((vBytes g).take (4 * lanesIn g * g.allot))[4 * (lanesIn g * r + l) + j]? = (vBytes g)[4 * (lanesIn g * r + l) + j]? :=
    List.getElem?_take_of_lt (by rw [Nat.mul_assoc]; omega)
  rw [hat] at htake
  obtain ⟨hlen, hval⟩ := List.getElem?_eq_some_iff.1 htake
  rw [memGet_putNat_inside _ _ _ hj, spilledBytes, memGet_blit_outside _ _ _ (.inr (by rw [poisonBytes_length]; omega)),
    Nat.add_assoc, memGet_blit_inside _ _ _ hlen, hval]

theorem spill_reads_back (s : State) (k : Nat) (g : Group) (hp : Present s g.ident.island) (hg : g.allot ≤ 128) (r l : Nat)
    (hr : r < g.allot) (hl : l < lanesIn g) :
    readV (loadV (islOf (spillGroup s k g) g.ident.island).mem.bytes (areaOf s g) (lanesIn g) g.allot g.regs) r l
      = readV g.regs r l := by
  have hbytes : (islOf (spillGroup s k g) g.ident.island).mem.bytes
      = spilledBytes (islOf s g.ident.island).mem.bytes (areaOf s g) g := by
    have hview : memView (spillGroup s k g) = _ := (memView_setGrp ..).trans (areaTraffic_keeps ..).2.2
    refine (congrFun (congrArg MemView.island hview) g.ident.island).trans ?_
    show (islOf (modMem s g.ident.island _) g.ident.island).mem.bytes = _
    rw [modMem, islOf_modIsl_same s _ _ hp]
    rfl
  rw [hbytes]
  have hrow : tblGet (loadV (spilledBytes (islOf s g.ident.island).mem.bytes (areaOf s g) g) (areaOf s g) (lanesIn g) g.allot g.regs).v r
      = rowAt (spilledBytes (islOf s g.ident.island).mem.bytes (areaOf s g) g) (areaOf s g) (lanesIn g) r := by
    rw [loadV, tblGet, List.range_eq_range', tblGet?_ofRange, if_pos (by omega), Option.getD_some]
  rw [readV, hrow, rowAt, List.getD_eq_getElem _ _ (by rwa [List.length_map, List.length_range]), List.getElem_map, List.getElem_range,
    memNat_spilled _ _ hg hr hl, BitVec.ofNat_toNat, BitVec.setWidth_eq]

/-! ## A team starts (R348, R352) -/

/-- A group of the grid's next team as it starts. -/
def StartsIn (g : Grid) (team : Nat) (cores : List Nat) (p : Nat × Group) : Prop :=
  p.2.ident.team = team ∧ p.2.ident.island = g.island ∧ p.2.ident.ctx = g.ctx ∧ p.2.ident.teamId = BitVec.ofNat 32 g.next
  ∧ p.2.ident.core = nth cores (p.2.ident.groupId % g.k) ∧ p.1 = groupKey g.island p.2.ident.core p.2.ident.slot
  ∧ p.2.allot = g.rbase ∧ p.2.special = {} ∧ p.2.hmode = false ∧ p.2.ops = [] ∧ p.2.held = []
  ∧ p.2.frags = [{ mask := fullMask (widthLanes g.width), pc := g.entry, slot := 0 }] ∧ p.2.regs = startRegs g

theorem startsIn_startGroup (u : State) (gk : Nat) (g : Grid) (team : Nat) (cores : List Nat) (n slot : Nat) :
    StartsIn g team cores (groupKey g.island (nth cores (n % g.k)) slot, startGroup u gk g team n (nth cores (n % g.k)) slot) :=
  ⟨rfl, rfl, rfl, rfl, rfl, rfl, rfl, rfl, rfl, rfl, rfl, rfl, rfl⟩

/-- The groups of a team started one after another, up to a number. -/
structure Starting (s : State) (gk : Nat) (g : Grid) (team : Nat) (cores : List Nat) (n : Nat) (u : State) : Prop where
  islands : u.islands = s.islands
  host : u.hostMem = s.hostMem
  others : ∀ tm, tm ≠ team → tblGet? u.teams tm = tblGet? s.teams tm
  placed : ∃ keys : List Nat, keys.length = n ∧ tblGet? u.teams team
    = (tblGet? s.teams team).map fun t => { t with groups := t.groups ++ keys }
  groups : ∀ p ∈ u.groups, p ∈ s.groups ∨ (StartsIn g team cores p ∧ p.2.ident.groupId < n)
  last : 0 < n → ∃ p ∈ u.groups, p.2.ident.team = team ∧ p.2.ident.groupId + 1 = n

theorem starting_addGroup {s : State} {gk : Nat} {g : Grid} {team : Nat} {cores : List Nat} {n : Nat} {u : State}
    (h : Starting s gk g team cores n u) : Starting s gk g team cores (n + 1) (addGroup gk g team cores u n) := by
  obtain ⟨keys, hlen, hkeys⟩ := h.placed
  let core := nth cores (n % g.k)
  let slot := (freeSlots u g.island core (n / g.k % 4)).headD 0
  let key := groupKey g.island core slot
  have hgroups : (addGroup gk g team cores u n).groups = tblSet u.groups key (startGroup u gk g team n core slot) := rfl
  refine ⟨h.islands, h.host, fun tm htm => ?_, ⟨keys ++ [key], by rw [List.length_append, hlen]; rfl, ?_⟩, fun p hp => ?_, fun _ => ?_⟩
  · exact (tblGet?_adj_other _ _ htm).trans (h.others tm htm)
  · refine (tblGet?_adj_same ..).trans ?_
    show (tblGet? u.teams team).map _ = _
    rw [hkeys, Option.map_map]
    congr 1
    funext t
    show ({ t with groups := (t.groups ++ keys) ++ [key] } : Team) = _
    rw [List.append_assoc]
  · rw [hgroups] at hp
    rcases mem_tblSet hp with rfl | hp
    · exact .inr ⟨startsIn_startGroup u gk g team cores n slot, Nat.lt_succ_self n⟩
    · rcases h.groups p hp with hs | ⟨hs, hn⟩
      · exact .inl hs
      · exact .inr ⟨hs, Nat.lt_succ_of_lt hn⟩
  · refine ⟨(key, startGroup u gk g team n core slot), ?_, rfl, rfl⟩
    rw [hgroups]
    exact mem_of_tblGet? (tblGet?_set_same ..)

theorem starting_foldl (s : State) (gk : Nat) (g : Grid) (team : Nat) (cores : List Nat) (n : Nat) :
    Starting s gk g team cores n ((List.range n).foldl (addGroup gk g team cores) s) := by
  induction n with
  | zero =>
    exact ⟨rfl, rfl, fun _ _ => rfl, ⟨[], rfl, by simp⟩, fun _ hp => .inl hp, fun h => absurd h (Nat.lt_irrefl 0)⟩
  | succ n ih =>
    rw [List.range_succ, List.foldl_append]
    exact starting_addGroup ih

/-- What a choice among candidates gives is one of them. -/
theorem foldl_choice {α : Type} {F : Option α → α → Option α} (h : ∀ acc x y, F acc x = some y → y = x ∨ acc = some y) (l : List α)
    (acc : Option α) {y : α} (hy : l.foldl F acc = some y) : y ∈ l ∨ acc = some y := by
  induction l generalizing acc with
  | nil => exact .inr hy
  | cons x l ih =>
    rcases ih _ hy with hin | hacc
    · exact .inl (List.mem_cons_of_mem _ hin)
    · rcases h acc x y hacc with rfl | hacc
      · exact .inl List.mem_cons_self
      · exact .inr hacc

/-- The team that is placed next is of a grid of the context on the island. -/
theorem nextTeam_grid {s : State} {i c gk : Nat} {g : Grid} {cores : List Nat} (h : nextTeam s i c = some (gk, g, cores)) :
    g.island = i ∧ g.ctx = c := by
  have hin := foldl_choice (fun acc x y hy => by
    cases acc with
    | none => exact .inl (Option.some.inj hy).symm
    | some b =>
      dsimp only at hy
      split at hy
      · exact .inl (Option.some.inj hy).symm
      · exact .inr hy) _ none h
  obtain ⟨p, -, hp⟩ := List.mem_filterMap.1 (hin.resolve_right (by simp))
  split at hp
  next hw =>
    obtain ⟨cs, -, hcs⟩ := Option.map_eq_some_iff.1 hp
    obtain ⟨-, rfl, -⟩ := Prod.mk.inj (hcs.trans rfl)
    simp only [gridWaits, Bool.and_eq_true, decide_eq_true_eq] at hw
    exact ⟨hw.1.1.1, hw.1.1.2⟩
  next => simp at hp

theorem bytesOf_of_islands {s t : State} (h : t.islands = s.islands) (hh : t.hostMem = s.hostMem) : bytesOf t = bytesOf s := by
  rw [bytesOf, hh]
  exact Prod.ext rfl (funext fun i => congrArg (fun x : Island => x.mem.bytes) (islOf_of_islands h i))

/-- The team that starts, before its groups do. -/
def startedTeam (gk : Nat) (g : Grid) (cores : List Nat) : Team :=
  { island := g.island, ctx := g.ctx, grid := gk, kern := g.kern, teamId := BitVec.ofNat 32 g.next, cores := cores
    width := g.width, pool := g.pool, tmem := g.tmem, ntiles := g.tiles, nbars := g.bars, bartime := g.bartime
    regBase := g.rbase }

/-- A context that runs, where it stood without a team. -/
def runs (x : Context) : Context := { x with state := if x.state = .resident then .running else x.state }

/-- The state in which all groups of the team stand. -/
def teamStands (s : State) (gk : Nat) (g : Grid) (cores : List Nat) : State :=
  (List.range g.groups).foldl (addGroup gk g s.seq cores) { s with teams := tblSet s.teams s.seq (startedTeam gk g cores) }

theorem startTeam_keeps (s : State) (gk : Nat) (g : Grid) (cores : List Nat) :
    (startTeam s gk g cores).groups = (teamStands s gk g cores).groups
    ∧ (startTeam s gk g cores).teams = (teamStands s gk g cores).teams
    ∧ (startTeam s gk g cores).hostMem = (modCtx (teamStands s gk g cores) g.island g.ctx runs).hostMem
    ∧ (startTeam s gk g cores).islands = (modCtx (teamStands s gk g cores) g.island g.ctx runs).islands :=
  ⟨rfl, rfl, rfl, rfl⟩

theorem exec_teamPlacement {s : State} {i c gk : Nat} {g : Grid} {cores : List Nat}
    (hst : Machine.stateOf s i c = .resident ∨ Machine.stateOf s i c = .running) (hn : nextTeam s i c = some (gk, g, cores))
    (hb : (ctxOf s i c).bwb = 0) (hp : (ctxOf s i c).pwb = 0) :
    exec (.teamPlacement i c) s = .next (startTeam s gk g cores) := by
  have hplace : placeable s i c = true := by simpa [placeable, Machine.stateOf] using hst
  have hbudget : budgetAllows s i c = true := by simp [budgetAllows, hb, hp]
  show execTeamPlacement i c s = _
  rw [execTeamPlacement, if_neg (by rw [hplace]; decide), hn]
  dsimp only
  rw [if_pos hbudget]

theorem state_runs {x : Context} (h : x.state = .resident ∨ x.state = .running) : (runs x).state = .running := by
  rcases h with h | h <;> simp [runs, h]

theorem team_starts (i c : Nat) (s : State) (gk : Nat) (g : Grid) (cores : List Nat)
    (hst : Machine.stateOf s i c = .resident ∨ Machine.stateOf s i c = .running) (hn : nextTeam s i c = some (gk, g, cores))
    (hb : (ctxOf s i c).bwb = 0) (hp : (ctxOf s i c).pwb = 0) (hg : 0 < g.groups) : ∃ t, exec (.teamPlacement i c) s = .next t
    ∧ (∀ isl a, byteAt t isl a = byteAt s isl a) ∧ (∀ tm, tm ≠ s.seq → tblGet? t.teams tm = tblGet? s.teams tm)
    ∧ Machine.stateOf t i c = .running
    ∧ (let m := teamOf t s.seq
       m.island = i ∧ m.ctx = c ∧ m.grid = gk ∧ m.cores = cores ∧ m.tmem = g.tmem ∧ m.ntiles = g.tiles ∧ m.nbars = g.bars
       ∧ m.mem = [] ∧ m.bars = [] ∧ m.tiles = [] ∧ m.groups.length = g.groups)
    ∧ (∃ p ∈ t.groups, p.2.ident.team = s.seq ∧ p.2.ident.groupId + 1 = g.groups)
    ∧ ∀ p ∈ t.groups, p ∈ s.groups ∨ (p.2.ident.team = s.seq ∧ p.2.ident.island = i ∧ p.2.ident.ctx = c
      ∧ p.2.ident.teamId = BitVec.ofNat 32 g.next ∧ p.2.ident.groupId < g.groups
      ∧ p.2.ident.core = nth cores (p.2.ident.groupId % g.k) ∧ p.1 = groupKey i p.2.ident.core p.2.ident.slot
      ∧ p.2.allot = g.rbase ∧ p.2.special = {} ∧ p.2.hmode = false ∧ p.2.ops = [] ∧ p.2.held = []
      ∧ p.2.frags = [{ mask := fullMask (widthLanes g.width), pc := g.entry, slot := 0 }]
      ∧ p.2.regs = { s := g.args.zipIdx.map fun a => (a.2, a.1), t := [(0, g.t0)] }) := by
  obtain ⟨rfl, rfl⟩ := nextTeam_grid hn
  have hall := starting_foldl { s with teams := tblSet s.teams s.seq (startedTeam gk g cores) } gk g s.seq cores g.groups
  rw [← teamStands] at hall
  obtain ⟨hgroups, hteams, hhost, hislands⟩ := startTeam_keeps s gk g cores
  refine ⟨_, exec_teamPlacement hst hn hb hp, ?_, fun tm htm => ?_, ?_, ?_, ?_, fun p hp => ?_⟩
  · have hbytes : bytesOf (startTeam s gk g cores) = bytesOf s :=
      (bytesOf_of_islands hislands hhost).trans ((bytesOf_of_view (memView_modCtx ..)).trans (bytesOf_of_islands hall.islands hall.host))
    exact byteAt_of_mem (congrArg Prod.fst hbytes) fun i => congrFun (congrArg Prod.snd hbytes) i
  · rw [hteams, hall.others tm htm]
    exact tblGet?_set_other _ _ htm
  · have hctx : ctxOf (teamStands s gk g cores) g.island g.ctx = ctxOf s g.island g.ctx :=
      ctxOf_of_ctxs (congrArg Island.ctxs (islOf_of_islands hall.islands g.island)) g.ctx
    have hlive : (ctxOf s g.island g.ctx).state ≠ .built := by
      rcases hst with h | h <;> rw [Machine.stateOf] at h <;> rw [h] <;> decide
    rw [Machine.stateOf, ctxOf_of_ctxs (congrArg Island.ctxs (islOf_of_islands hislands g.island)),
      ctxOf_modCtx_same _ _ _ _ (present_of_state (by rwa [hctx])), hctx, state_runs hst]
  · obtain ⟨keys, hlen, hkeys⟩ := hall.placed
    have hteam : teamOf (startTeam s gk g cores) s.seq = { startedTeam gk g cores with groups := keys } := by
      rw [teamOf, tblGet, hteams, hkeys, tblGet?_set_same]
      rfl
    rw [hteam]
    exact ⟨rfl, rfl, rfl, rfl, rfl, rfl, rfl, rfl, rfl, rfl, hlen⟩
  · rw [hgroups]
    exact hall.last hg
  · rw [hgroups] at hp
    refine (hall.groups p hp).imp_right ?_
    rintro ⟨⟨h1, h2, h3, h4, h5, h6, h7⟩, hid⟩
    exact ⟨h1, h2, h3, h4, hid, h5, h6, h7⟩

theorem placement_notDue_state (i c : Nat) :
    NotDue (.teamPlacement i c) fun s => Machine.stateOf s i c ≠ .resident ∧ Machine.stateOf s i c ≠ .running := by
  intro s h
  have hplace : placeable s i c = false := by simpa [placeable, Machine.stateOf] using h
  show execTeamPlacement i c s = _
  rw [execTeamPlacement, if_pos (by rw [hplace]; rfl)]

theorem placement_notDue_none (i c : Nat) : NotDue (.teamPlacement i c) fun s => nextTeam s i c = none := by
  intro s h
  show execTeamPlacement i c s = _
  rw [execTeamPlacement, h]
  split <;> rfl

/-- Settles O50, clause by clause: a claim served sets one group; a fault and an ending, told to the other islands, act on each as a
map of its context that a second telling does not change; a spilled row reads back as the bytes written; a team's groups are added
one after another. -/
theorem partitionEventResults : Obligations.PartitionEventResults := by
  unfold Obligations.PartitionEventResults
  refine ⟨spilled_served, growth_served, claim_waits, deadlock_spills, deadlock_serves, deadlock_waits, spill_reads_back,
    progressBeat_clause, heartbeat_clause, heartbeat_notDue, beatpWrite_inside, beatpWrite_outside, team_starts,
    placement_notDue_state, placement_notDue_none, fun s c i why rest h => ?_, fun s h => ?_, refusal_freezes, refusal_counted,
    refusal_of_host, refusal_of_frozen_host⟩
  · obtain ⟨t, hexec, hprop, hmem, hreach⟩ := propagate_reaches h
    refine ⟨t, hexec, hprop, hmem, fun j hj hthere => ?_⟩
    obtain ⟨hfault, hend⟩ := hreach j hj hthere
    refine ⟨fun w hw hst => ?_, fun w hw hst => ?_, hend⟩
    · rw [Machine.stateOf, hfault w hw]
      exact faultedWith_standing w hst
    · rw [Machine.stateOf, hfault w hw, faultedWith_of_faulted hst]
      cases w <;> exact ⟨hst, rfl, rfl⟩
  · show execContextStatePropagate s = _
    rw [execContextStatePropagate, h]

end Sys2Proof.Proofs

/-! PROOFS. Contexts: what a save area gives back, an image back on its cores, the commands of CTXCTL (O49). -/

namespace Sys2Proof.Proofs

open Sys2Proof Sys2Proof.Machine Sys2Proof.Laws

/-! ## What the steps of a restore leave -/

/-- What CTXST and the descriptors say of an island. -/
def ctlOf (x : Island) : Bool × Nat × Tbl Context := (x.ctxBusy, x.ctxCtx, x.ctxs)

/-- What of a group its save area holds and a restore gives back. -/
def seatOf (g : Group) : Regs × SpecialRegs × Bool × Nat × Nat × Nat :=
  (g.regs, g.special, g.hmode, g.ident.core, g.ident.ctx, g.allot)

/-- Contexts are as they were, and so is what the groups got from their save areas. -/
structure SeatKept (s t : State) : Prop where
  ctl : ∀ j, ctlOf (islOf t j) = ctlOf (islOf s j)
  group : ∀ k, seatOf (grpOf t k) = seatOf (grpOf s k)

theorem seatKept_refl (s : State) : SeatKept s s := ⟨fun _ => rfl, fun _ => rfl⟩

theorem SeatKept.trans {s t u : State} (a : SeatKept s t) (b : SeatKept t u) : SeatKept s u :=
  ⟨fun j => (b.ctl j).trans (a.ctl j), fun k => (b.group k).trans (a.group k)⟩

theorem seatKept_foldl {α : Type} {f : State → α → State} (h : ∀ s x, SeatKept s (f s x)) (l : List α) (s : State) :
    SeatKept s (l.foldl f s) := by
  induction l generalizing s with
  | nil => exact seatKept_refl s
  | cons x l ih => exact (h s x).trans (ih _)

theorem seatKept_modIsl {f : Island → Island} (h : ∀ x, ctlOf (f x) = ctlOf x) (s : State) (i : Nat) : SeatKept s (modIsl s i f) :=
  ⟨fun j => islOf_modIsl_keeps h s i j, fun _ => rfl⟩

theorem seatKept_modMem (s : State) (i : Nat) (f : IslandMem → IslandMem) : SeatKept s (modMem s i f) :=
  seatKept_modIsl (f := fun x => { x with mem := f x.mem }) (fun _ => rfl) s i

/-- Islands, and what groups got from their save areas, as they were. -/
theorem seatKept_of_islands {s t : State} (hi : t.islands = s.islands) (hg : ∀ k, seatOf (grpOf t k) = seatOf (grpOf s k)) : SeatKept s t :=
  ⟨fun j => by rw [islOf_of_islands hi], hg⟩

theorem seatKept_ownMem {i : Nat} {s t : State} (h : OwnMem i s t) : SeatKept s t := by
  refine ⟨fun j => eq_of_memless (g := ctlOf) (fun _ => rfl) (h.island j), fun k => ?_⟩
  rw [h.outside]
  rfl

theorem seatKept_setGrp {s : State} {k : Nat} {g : Group} (h : seatOf g = seatOf (grpOf s k)) : SeatKept s (setGrp s k g) := by
  refine seatKept_of_islands rfl fun j => ?_
  by_cases hj : j = k
  · subst hj
    rw [grpOf_setGrp_same, h]
  · rw [grpOf_setGrp_other s g hj]

theorem seatKept_modGrp {f : Group → Group} (h : ∀ g, seatOf (f g) = seatOf g) (s : State) (k : Nat) : SeatKept s (modGrp s k f) := by
  refine seatKept_of_islands rfl fun j => ?_
  by_cases hj : j = k
  · subst hj
    exact grpOf_modGrp_keeps h s j
  · rw [grpOf, grpOf, modGrp, tblGet, tblGet, tblGet?_adj_other _ _ hj]

theorem seatKept_mapGroups {s t : State} {g : Group → Group} (h : ∀ x, seatOf (g x) = seatOf x) (hi : t.islands = s.islands)
    (hg : t.groups = s.groups.map fun p => (p.1, g p.2)) : SeatKept s t := by
  refine seatKept_of_islands hi fun k => ?_
  rw [grpOf, grpOf, tblGet, tblGet, hg, tblGet?_map]
  cases tblGet? s.groups k with
  | none => rfl
  | some x => exact h x

theorem seatKept_wakeAll (s : State) : SeatKept s (wakeAll s) := seatKept_mapGroups (g := wake) (fun _ => rfl) rfl rfl

theorem seatKept_sampleWaits (n : Nat) (s : State) (i src c : Nat) : SeatKept s (sampleWaits s i src c n) := by
  induction n generalizing s with
  | zero => exact seatKept_refl s
  | succ n ih =>
    refine SeatKept.trans ?_ (ih _)
    rw [sampleCtx]
    split
    · exact seatKept_modIsl (f := fun x => { x with monitors := sampleOwned x.monitors src c _ }) (fun _ => rfl) s i
    · exact seatKept_refl s

/-! ## Waits that end as their condition holds already -/

theorem seatOf_learn (c : Clock) (m : Mask) (g : Group) : seatOf (learn c m g) = seatOf g := by
  rw [learn]
  split <;> rfl

theorem seatOf_ctrWake (n : Nat) (x : DWord) (c : Clock) (tick : Nat) (g : Group) : seatOf (ctrWake n x c tick g) = seatOf g := by
  rw [ctrWake]
  split
  · exact seatOf_learn ..
  · rfl

theorem seatOf_releaseGroup (key : Nat) (b : Bar) (tick : Nat) (g : Group) : seatOf (releaseGroup key b tick g) = seatOf g := by
  rw [releaseGroup]
  split
  · exact seatOf_learn ..
  · rfl

theorem seatKept_ctrSet (s : State) (i n : Nat) (x : DWord) : SeatKept s (ctrSet s i n x) := by
  have hctl : ∀ j, ctlOf (islOf (ctrSet s i n x) j) = ctlOf (islOf s j) := keeps_ctrSet (g := ctlOf) (fun _ _ _ _ => rfl) s i n x
  refine ⟨hctl, fun k => ?_⟩
  have hput : SeatKept s (ctrPut s i (n % 65536) x) :=
    seatKept_modIsl (f := fun y => { y with ncs := tblSet y.ncs (n % 65536) x }) (fun _ => rfl) s i
  have hseen := seatKept_foldl (f := ctrSeen i (n % 65536) x) (fun s p => by
    rw [ctrSeen]
    split
    · exact (seatKept_modMem ..).trans (seatKept_sampleWaits ..)
    · exact seatKept_refl s) (ctrPut s i (n % 65536) x).groups (ctrPut s i (n % 65536) x)
  rw [ctrSet_eq]
  generalize (ctrPut s i (n % 65536) x).groups.foldl (ctrSeen i (n % 65536) x) (ctrPut s i (n % 65536) x) = u at hseen ⊢
  refine Eq.trans (SeatKept.group (s := u) ?_ k) ((hput.trans hseen).group k)
  refine seatKept_mapGroups (g := fun g => if g.ident.island = i then ctrWake (n % 65536) x (ctrClock u i (n % 65536)) u.tick g
    else g) ?_ rfl ?_
  · intro g
    split
    · exact seatOf_ctrWake ..
    · rfl
  · refine List.map_congr_left fun p _ => ?_
    split <;> rfl

theorem seatKept_releaseAcquires (s : State) (tm key : Nat) (b : Bar) : SeatKept s (releaseAcquires s tm key b) := by
  refine seatKept_foldl (fun s p => ?_) s.groups s
  split
  · exact (seatKept_modMem ..).trans (seatKept_sampleWaits ..)
  · exact seatKept_refl s

theorem seatKept_recheckWaits (s : State) (i c : Nat) : SeatKept s (recheckWaits s i c) := by
  refine seatKept_foldl (fun s p => seatKept_foldl (fun s f => ?_) p.2.frags s) (ctxGroups s i c) s
  split
  · exact seatKept_ctrSet ..
  · next key q m _ =>
    refine (seatKept_releaseAcquires s p.2.ident.team key (barOf s p.2.ident.team key)).trans ?_
    refine seatKept_mapGroups (g := fun g => if g.ident.team = p.2.ident.team then
      releaseGroup key (barOf s p.2.ident.team key) (releaseAcquires s p.2.ident.team key (barOf s p.2.ident.team key)).tick g else g)
      (fun g => ?_) rfl (List.map_congr_left fun p _ => ?_)
    · split
      · exact seatOf_releaseGroup ..
      · rfl
    · split <;> rfl
  · exact seatKept_refl s

/-! ## Streams, chains and parks back -/

theorem seatKept_giveQ3 (f : Nat) (s : State) (i k m : Nat) : SeatKept s (giveQ3 f s i k m) := by
  induction f generalizing s with
  | zero => exact seatKept_refl s
  | succ f ih =>
    rw [giveQ3]
    dsimp only
    split
    next e es t _ _ =>
      split
      · refine SeatKept.trans ?_ (ih _)
        refine SeatKept.trans (t := modGrp s k _) ?_
          (seatKept_modIsl (f := fun x => { x with streams := tblSet x.streams m { t with given := t.given + (lanesOf e.mask).length } })
            (fun _ => rfl) _ i)
        refine seatKept_modGrp ?_ s k
        exact fun _ => rfl
      · exact seatKept_refl s
    · exact seatKept_refl s

theorem seatKept_owedBack (s : State) (i k : Nat) : SeatKept s (owedBack s i k) := by
  rw [owedBack]
  split
  · exact seatKept_refl s
  · next n _ =>
    refine SeatKept.trans ?_ (seatKept_giveQ3 ..)
    refine SeatKept.trans (seatKept_modIsl (f := fun x => { x with streams := tblAdj x.streams n fun t => { t with owed := [] } })
      (fun _ => rfl) s i) ?_
    refine seatKept_modGrp ?_ _ k
    exact fun _ => rfl

theorem ownMem_fetchWord {s t : State} {cx : Cx} {va : VAddr} {b : List Byte} (h : fetchWord s cx va = .ok t b) :
    OwnMem cx.g.ident.island s t := by
  unfold fetchWord at h
  dsimp only at h
  split at h
  · cases h
  · cases h
  · split at h <;> cases h
    exact ownMem_trans (ownMem_trans (ownMem_walkHeld ..) (ownMem_vctEntry ..)) (ownMem_modMem ..)

theorem ownMem_fetchLinks {s t : State} {cx : Cx} {va : VAddr} {n : Nat} {ws : List Nat} (h : fetchLinks s cx va n = .ok t ws) :
    OwnMem cx.g.ident.island s t := by
  induction n generalizing s va ws with
  | zero => cases h; exact ownMem_refl ..
  | succ n ih =>
    unfold fetchLinks at h
    split at h
    case h_4 hw =>
      split at h
      next hl =>
        cases h
        exact ownMem_trans (ownMem_fetchWord hw) (ih hl)
      next hne => exact absurd h (hne t ws)
    all_goals cases h

theorem grpOf_ownMem {i : Nat} {s t : State} (h : OwnMem i s t) (k : Nat) : grpOf t k = grpOf s k := by
  rw [h.outside]
  rfl

theorem seatKept_continueChain (s : State) (i c k slot : Nat) : SeatKept s (continueChain s i c k slot) := by
  rw [continueChain]
  dsimp only
  split
  · exact seatKept_refl s
  · split
    next s1 b hw =>
      have hfirst := ownMem_fetchWord hw
      refine iteInduction (motive := SeatKept s) (fun _ => seatKept_ownMem hfirst) fun _ => ?_
      · split
        next s2 ws hl =>
          have hboth := ownMem_trans hfirst (ownMem_fetchLinks hl)
          split
          · exact seatKept_ownMem hboth
          · refine (seatKept_ownMem hboth).trans (SeatKept.trans (t := { s2 with seq := s2.seq + 1 }) (seatKept_of_islands rfl fun _ => rfl)
              (seatKept_setGrp ?_))
            have hgrp : seatOf (grpOf s k) = seatOf (grpOf s2 k) := congrArg seatOf (grpOf_ownMem hboth k).symm
            exact hgrp
        next => exact seatKept_ownMem hfirst
    next => exact seatKept_refl s

theorem seatKept_continueChains (s : State) (i c : Nat) : SeatKept s (continueChains s i c) :=
  seatKept_foldl (fun _ _ => (seatKept_continueChain ..).trans (seatKept_continueChain ..)) _ s

theorem seatKept_writePark (s : State) (k : Nat) (id : Ident) (token : Nat) (mask : Mask) (rs : List (List DWord)) :
    SeatKept s (writePark s k id token mask rs) := by
  rw [writePark]
  refine (seatKept_foldl (f := fun s r => enqueueRecord s id.island r) (fun s _ => seatKept_modMem s _ _) rs s).trans ?_
  exact seatKept_modMem ..

theorem seatKept_rePark (s : State) (i k j : Nat) (ws : List DWord) (goesOn : Bool) : SeatKept s (rePark s i k j ws goesOn) := by
  have hset : SeatKept s (setGrp s k { grpOf s k with
      frags := modNth (grpOf s k).frags j fun f => { f with parked := some (islOf s i).mem.nextToken } }) := by
    refine seatKept_setGrp ?_
    rfl
  rw [rePark]
  refine hset.trans ?_
  split
  · exact seatKept_writePark ..
  · exact seatKept_modMem ..

/-- A park of no recorded release, parked anew. -/
def parkedAnew (i : Nat) (a : State × List (Nat × Nat)) (p : (Nat × Nat × List DWord) × Nat) : State × List (Nat × Nat) :=
  (rePark a.1 i p.1.1 p.2 p.1.2.2 true, a.2 ++ [])

theorem parkedAnew_foldl (i : Nat) (l : List ((Nat × Nat × List DWord) × Nat)) (a : State × List (Nat × Nat)) :
    SeatKept a.1 (l.foldl (parkedAnew i) a).1 ∧ (l.foldl (parkedAnew i) a).2 = a.2 := by
  induction l generalizing a with
  | nil => exact ⟨seatKept_refl _, rfl⟩
  | cons p l ih =>
    obtain ⟨hkept, hnone⟩ := ih (parkedAnew i a p)
    exact ⟨SeatKept.trans (t := (parkedAnew i a p).1) (seatKept_rePark a.1 i p.1.1 p.2 p.1.2.2 true) hkept, hnone.trans (List.append_nil _)⟩

/-- Parks without a recorded release are parked anew, and nothing is released. -/
theorem seatKept_reParkAll (s : State) (i : Nat) (ps : List (Nat × Nat × List DWord)) : SeatKept s (reParkAll [] s i ps) := by
  let places := ps.filterMap fun p => (parkedAt (grpOf s p.1) p.2.1).map fun j => (p, j)
  obtain ⟨hkept, hnone⟩ := parkedAnew_foldl i places (s, [])
  have heq : reParkAll [] s i ps = (places.foldl (parkedAnew i) (s, [])).2.foldl (fun s x => releasePark s i x.1 x.2)
      (places.foldl (parkedAnew i) (s, [])).1 := rfl
  rw [heq, hnone]
  exact hkept

/-! ## The image back on its cores (R338, R339) -/

/-- Values set under different keys are all found. -/
theorem tblGet?_foldl_set {α : Type} (l : List (Nat × α)) (hl : (l.map (·.1)).Nodup) (t : Tbl α) :
    ∀ p ∈ l, tblGet? (l.foldl (fun t p => tblSet t p.1 p.2) t) p.1 = some p.2 := by
  induction l generalizing t with
  | nil => exact fun _ hp => absurd hp List.not_mem_nil
  | cons q l ih =>
    rw [List.map_cons, List.nodup_cons] at hl
    have hkeep : ∀ (k : List (Nat × α)) (u : Tbl α), q.1 ∉ k.map (·.1) →
        tblGet? (k.foldl (fun t p => tblSet t p.1 p.2) u) q.1 = tblGet? u q.1 := by
      intro k
      induction k with
      | nil => exact fun _ _ => rfl
      | cons r k ihk =>
        intro u hr
        rw [List.map_cons, List.mem_cons, not_or] at hr
        exact (ihk _ hr.2).trans (tblGet?_set_other _ _ hr.1)
    intro p hp
    rcases List.mem_cons.1 hp with rfl | hp
    · exact (hkeep l _ hl.1).trans (tblGet?_set_same ..)
    · exact ih hl.2 _ p hp

/-- The groups of the image on their places. -/
def groupsSeated (s : State) (i c : Nat) : State :=
  { s with groups := (imageGroups s i c).foldl (fun t p => tblSet t p.1 p.2) s.groups }

/-- The teams of the image, with their groups. -/
def teamsSeated (s : State) (i c : Nat) : State :=
  (imageTeams (islOf s i).mem.bytes i c (ctxOf s i c)).zipIdx.foldl (fun u p => seatTeam u (s.seq + 1 + p.2) p.1) (groupsSeated s i c)

/-- The context as its image stands. -/
def seatedCtx (gs : List (Nat × Group)) (x : Context) : Context :=
  { x with
    state := if gs = [] then .resident else .running
    faultedBy := .none, frozen := false, kept := {}, captured := false, unseated := false, restoring := false }

/-- The image's teams stand and the context is on its cores. -/
def ctxSeated (s : State) (i c : Nat) : State :=
  modCtx { teamsSeated s i c with seq := s.seq + 1 + (imageTeams (islOf s i).mem.bytes i c (ctxOf s i c)).length } i c
    (seatedCtx (imageGroups s i c))

theorem seatImage_eq (s : State) (i c : Nat) : seatImage s i c =
    let u := continueChains ((imageGroups s i c).foldl (fun s p => owedBack s i p.1) (ctxSeated s i c)) i c
    { u with groups := u.groups.map fun p => if onPartition i c p.2 then (p.1, settle p.2) else p } := rfl

theorem seatKept_seatTeam (s : State) (key : Nat) (t : Team) : SeatKept s (seatTeam s key t) := by
  rw [seatTeam]
  refine SeatKept.trans (t := { s with teams := tblSet s.teams key { t with grid := gridBack s t } }) (seatKept_of_islands rfl fun _ => rfl)
    (seatKept_foldl (fun u p => ?_) _ _)
  split
  · exact seatKept_refl u
  · refine seatKept_modGrp ?_ u p.1
    exact fun _ => rfl

theorem seatKept_seatImage (s : State) (i c : Nat) : SeatKept (ctxSeated s i c) (seatImage s i c) := by
  rw [seatImage_eq]
  refine ((seatKept_foldl (f := fun s p => owedBack s i p.1) (fun s p => seatKept_owedBack s i p.1) (imageGroups s i c)
    (ctxSeated s i c)).trans (seatKept_continueChains _ i c)).trans ?_
  refine seatKept_mapGroups (g := fun g => if onPartition i c g then settle g else g) (fun g => ?_) rfl
    (List.map_congr_left fun p _ => ?_)
  · split <;> rfl
  · split <;> rfl

/-- What stands once the image does: its groups and its context. -/
structure Stands (s t : State) (i c : Nat) : Prop where
  groups : ((imageGroups s i c).map (·.1)).Nodup → ∀ p ∈ imageGroups s i c, seatOf (grpOf t p.1) = seatOf p.2
  ctx : (ctxOf t i c).state = (seatedCtx (imageGroups s i c) (ctxOf s i c)).state ∧ (ctxOf t i c).restoring = false

/-- The image stands, nothing is left to release, and CTXST is as it was. -/
structure Back (s t : State) (i c : Nat) : Prop extends Stands s t i c where
  released : (ctxOf s i c).released = [] → (ctxOf t i c).released = []
  busy : (islOf t i).ctxBusy = (islOf s i).ctxBusy ∧ (islOf t i).ctxCtx = (islOf s i).ctxCtx

theorem Stands.step {s t u : State} {i c : Nat} (h : Stands s t i c) (hg : ∀ k, seatOf (grpOf u k) = seatOf (grpOf t k))
    (hctxs : (islOf u i).ctxs = (islOf t i).ctxs) : Stands s u i c :=
  ⟨fun hd p hp => (hg p.1).trans (h.groups hd p hp), by rw [ctxOf_of_ctxs hctxs]; exact h.ctx⟩

theorem Back.step {s t u : State} {i c : Nat} (h : Back s t i c) (k : SeatKept t u) : Back s u i c := by
  have hctl := k.ctl i
  have hbusy := congrArg (·.1) hctl
  have hctx := congrArg (·.2.1) hctl
  have hctxs : (islOf u i).ctxs = (islOf t i).ctxs := congrArg (·.2.2) hctl
  have hof := ctxOf_of_ctxs hctxs c
  exact ⟨h.toStands.step k.group hctxs, fun hr => by rw [hof]; exact h.released hr,
    hbusy.trans h.busy.1, hctx.trans h.busy.2⟩

/-- The releases recorded while the context was off its cores are no longer kept. -/
def unreleased (x : Context) : Context := { x with released := [] }

theorem Back.unreleased {s t : State} {i c : Nat} (h : Back s t i c) : Back s (modCtx t i c Proofs.unreleased) i c := by
  have hctx : ctxOf (modCtx t i c Proofs.unreleased) i c = Proofs.unreleased (ctxOf t i c) := ctxOf_modCtx_fixed rfl t i c
  refine ⟨⟨h.groups, by rw [hctx]; exact h.ctx⟩, fun _ => by rw [hctx]; rfl, ?_⟩
  have hkeep := islOf_modIsl_keeps (g := fun x : Island => (x.ctxBusy, x.ctxCtx)) (f := fun x => { x with ctxs := tblAdj x.ctxs c Proofs.unreleased })
    (fun _ => rfl) t i i
  exact ⟨(congrArg (·.1) hkeep).trans h.busy.1, (congrArg (·.2) hkeep).trans h.busy.2⟩

theorem back_seatImage {s : State} {i c : Nat} (hthere : (tblGet? (islOf s i).ctxs c).isSome = true) : Back s (seatImage s i c) i c := by
  refine Back.step (t := ctxSeated s i c) ?_ (seatKept_seatImage s i c)
  have hteams : SeatKept (groupsSeated s i c) (teamsSeated s i c) :=
    seatKept_foldl (fun u p => seatKept_seatTeam ..) _ _
  have hctl : ctlOf (islOf (teamsSeated s i c) i) = ctlOf (islOf s i) := hteams.ctl i
  have hctxs : (islOf (teamsSeated s i c) i).ctxs = (islOf s i).ctxs := congrArg (·.2.2) hctl
  let u : State := { teamsSeated s i c with seq := s.seq + 1 + (imageTeams (islOf s i).mem.bytes i c (ctxOf s i c)).length }
  have hctx : ctxOf (ctxSeated s i c) i c = seatedCtx (imageGroups s i c) (ctxOf s i c) := by
    refine (ctxOf_modCtx_same u i c _ ?_).trans (congrArg _ (ctxOf_of_ctxs (s := s) (t := u) hctxs c))
    show (tblGet? (islOf (teamsSeated s i c) i).ctxs c).isSome = true
    rwa [hctxs]
  have hkeep := islOf_modIsl_keeps (g := fun x : Island => (x.ctxBusy, x.ctxCtx))
    (f := fun x => { x with ctxs := tblAdj x.ctxs c (seatedCtx (imageGroups s i c)) }) (fun _ => rfl) u i i
  refine ⟨⟨fun hd p hp => ?_, by rw [hctx]; exact ⟨rfl, rfl⟩⟩, fun h => by rw [hctx]; exact h, ?_⟩
  · refine (hteams.group p.1).trans (congrArg seatOf ?_)
    rw [grpOf, tblGet]
    show (tblGet? ((imageGroups s i c).foldl (fun t p => tblSet t p.1 p.2) s.groups) p.1).getD default = p.2
    rw [tblGet?_foldl_set _ hd _ p hp]
    rfl
  · exact ⟨(congrArg (·.1) hkeep).trans (congrArg (·.1) hctl), (congrArg (·.2) hkeep).trans (congrArg (·.2.1) hctl)⟩

/-- The places that the image names are the context's own. -/
theorem imageGroups_ctx {s : State} {i c : Nat} {p : Nat × Group} (hp : p ∈ imageGroups s i c) : p.2.ident.ctx = c := by
  obtain ⟨q, -, rfl⟩ := List.mem_map.1 hp
  rw [groupBack]
  dsimp only
  split <;> rfl

theorem backOnCores_of_stands {s t : State} {i c : Nat} (h : Stands s t i c) : BackOnCores s t i c := by
  refine ⟨h.ctx.1, fun hd p hp => ?_⟩
  have hseat := h.groups hd p hp
  simp only [seatOf, Prod.mk.injEq] at hseat
  obtain ⟨hregs, hspecial, hmode, hcore, hctx, hallot⟩ := hseat
  exact ⟨hregs, hspecial, hmode, hcore, hctx.trans (imageGroups_ctx hp), hallot⟩

theorem back_putBack {s : State} {i c : Nat} (hthere : (tblGet? (islOf s i).ctxs c).isSome = true)
    (hr : (ctxOf s i c).released = []) : Back s (putBack s i c) i c := by
  have hseat := back_seatImage hthere
  rw [putBack, applyReleases]
  rw [hseat.released hr]
  exact hseat.unreleased.step (seatKept_recheckWaits ..)

theorem back_restoreImage {s : State} {i c : Nat} (hthere : (tblGet? (islOf s i).ctxs c).isSome = true)
    (hr : (ctxOf s i c).released = []) : Back s (restoreImage s i c) i c := by
  have hvoid := (back_seatImage hthere).step (seatKept_modMem (seatImage s i c) i fun m =>
    { m with parks := m.parks.filter fun p => p.2.ctx ≠ c })
  rw [restoreImage]
  rw [hr]
  exact (hvoid.unreleased.step (seatKept_reParkAll ..)).step (seatKept_recheckWaits ..)

theorem fromArea (i c : Nat) (s : State) (p : Nat × Nat × Memory) : FromArea s i c p := by
  rw [FromArea, groupBack]
  split <;> exact ⟨rfl, rfl, rfl, rfl, rfl, rfl⟩

/-- A command of the context is over, where one was in progress. -/
theorem busyEnds_free {s : State} {i c : Nat} (hc : (islOf s i).ctxCtx = c) : (islOf (modIsl s i (busyEnds c)) i).ctxBusy = false := by
  cases hi : (tblGet? s.islands i).isSome with
  | true =>
    rw [islOf_modIsl_same s i _ hi, busyEnds]
    by_cases hb : (islOf s i).ctxBusy = true
    · rw [if_pos (by simp [hb, hc])]
    · rw [if_neg (by simp [hb])]
      simpa using hb
  | false =>
    have hnone : tblGet? s.islands i = none := by simpa using hi
    rw [islOf_modIsl_absent s i i _ hnone, islOf, tblGet, hnone]
    rfl

theorem Stands.commandEnds {s u : State} {i c : Nat} (h : Stands s u i c) : Stands s (wakeAll (modIsl u i (busyEnds c))) i c := by
  have hctxs := ctxs_busyEnds u i c i
  have hctl := (seatKept_wakeAll (modIsl u i (busyEnds c))).ctl i
  exact h.step (fun k => (seatKept_wakeAll (modIsl u i (busyEnds c))).group k) ((congrArg (·.2.2) hctl).trans hctxs)

theorem restoreComplete_clause (i c : Nat) (s : State) (hrest : (ctxOf s i c).restoring = true) (hr : (ctxOf s i c).released = [])
    (hc : (islOf s i).ctxCtx = c) : ∃ t, exec (.restoreComplete i c) s = .next t ∧ BackOnCores s t i c ∧ (ctxOf t i c).restoring = false
      ∧ (islOf t i).ctxBusy = false := by
  have hthere : (tblGet? (islOf s i).ctxs c).isSome = true := by
    cases h : (tblGet? (islOf s i).ctxs c).isSome with
    | true => rfl
    | false =>
      rw [ctxOf_absent h] at hrest
      exact Bool.noConfusion hrest
  have hback := back_restoreImage hthere hr
  have hends : Stands s (wakeAll (modIsl (restoreImage s i c) i (busyEnds c))) i c :=
    hback.toStands.commandEnds
  refine ⟨wakeAll (modIsl (restoreImage s i c) i (busyEnds c)), ?_, backOnCores_of_stands hends, hends.ctx.2, ?_⟩
  · show execRestoreComplete i c s = _
    rw [execRestoreComplete, if_pos hrest]
  · have hctl := (seatKept_wakeAll (modIsl (restoreImage s i c) i (busyEnds c))).ctl i
    exact (congrArg (·.1) hctl).trans (busyEnds_free (hback.busy.2.trans hc))

/-! ## The image taken (R333, R334) -/

theorem mem_ctxGroups {s : State} {i c : Nat} {p : Nat × Group} : p ∈ ctxGroups s i c ↔ p ∈ s.groups ∧ onPartition i c p.2 = true := by
  rw [ctxGroups, List.mem_filter]

/-- Where nothing is under way no MMAP is left to stop. -/
theorem haltMmap_quiet {s : State} {i c : Nat} (hkeys : KeysDistinct s) (hr : haltReady s i c = true) :
    (ctxGroups s i c).foldl (fun s p => haltMmap s p.1) s = s := by
  have hquiet : ∀ p ∈ ctxGroups s i c, haltMmap s p.1 = s := by
    intro p hp
    have hall := List.all_eq_true.1 (Bool.and_eq_true_iff.1 (Bool.and_eq_true_iff.1 hr).1).1 p hp
    have hmmap : p.2.mmap = none := by
      simp only [groupQuiet, Bool.and_eq_true] at hall
      simpa using hall.1.1.1.1.1
    rw [haltMmap, hkeys p (mem_ctxGroups.1 hp).1, hmmap]
  revert hquiet
  generalize ctxGroups s i c = l
  induction l with
  | nil => exact fun _ => rfl
  | cons p l ih =>
    intro h
    rw [List.foldl_cons, h p List.mem_cons_self]
    exact ih fun q hq => h q (List.mem_cons_of_mem _ hq)

theorem seatKept_areaTraffic (s : State) (id : Ident) (a n : Nat) : SeatKept s (areaTraffic s id a n) := by
  rw [areaTraffic]
  split
  · exact seatKept_refl s
  · dsimp only
    split
    · exact (seatKept_ownMem (ownMem_vctEntry ..)).trans (seatKept_modMem ..)
    · exact seatKept_refl s

theorem seatKept_recordTraffic (s : State) (g : Group) : SeatKept s (recordTraffic s g) := by
  rw [recordTraffic]
  refine SeatKept.trans ?_ (seatKept_foldl (fun s p => ?_) _ _)
  · split
    · exact seatKept_areaTraffic ..
    · exact seatKept_refl s
  · split
    · exact seatKept_areaTraffic ..
    · exact seatKept_refl s

theorem seatKept_keepOwed (s : State) (i c : Nat) : SeatKept s (keepOwed s i c) := by
  refine seatKept_foldl (fun s p => ?_) (ctxGroups s i c) s
  split
  · next n _ =>
    exact seatKept_modIsl (f := fun x => { x with streams := tblAdj x.streams n fun t => { t with owed := p.2.win0.due } })
      (fun _ => rfl) s i
  · exact seatKept_refl s

/-- The groups of the context as their cores halt. -/
def groupsHalted (s : State) (i c : Nat) : State :=
  { s with groups := s.groups.map fun p => if onPartition i c p.2 then (p.1, haltGroup p.2) else p }

/-- The image written, its context's state not yet changed. -/
def imageWritten (s : State) (i c : Nat) : State :=
  let u := keepOwed (groupsHalted s i c) i c
  (ctxGroups u i c).foldl (fun s p => recordTraffic s p.2) (writeImage u i c)

/-- The context as it leaves its cores. -/
def capturedCtx (parks : Bool) (past : Kept) (x : Context) : Context :=
  { x with
    state := if x.state = .faulted then .faulted else if parks then .parked else .saved
    captured := true, kept := past }

theorem capture_eq (s : State) (i c : Nat) : capture s i c =
    let u := keepOwed (groupsHalted s i c) i c
    wakeAll (discardGroups (modIsl (modCtx (imageWritten s i c) i c (capturedCtx (shadowFits u i c) (keepPast u i c))) i (busyEnds c)) i c) := rfl

theorem ctl_imageWritten (s : State) (i c j : Nat) : ctlOf (islOf (imageWritten s i c) j) = ctlOf (islOf s j) := by
  have hhalt : ctlOf (islOf (groupsHalted s i c) j) = ctlOf (islOf s j) := rfl
  have howed := (seatKept_keepOwed (groupsHalted s i c) i c).ctl j
  rw [imageWritten]
  generalize keepOwed (groupsHalted s i c) i c = u at howed
  have hwrite : SeatKept u (writeImage u i c) := by
    rw [writeImage]
    exact seatKept_modMem ..
  exact ((seatKept_foldl (f := fun s (p : Nat × Group) => recordTraffic s p.2) (fun s p => seatKept_recordTraffic s p.2) _ _).ctl j).trans
    ((hwrite.ctl j).trans (howed.trans hhalt))

theorem busy_discardGroups (s : State) (i c j : Nat) : (islOf (discardGroups s i c) j).ctxBusy = (islOf s j).ctxBusy := by
  refine (congrArg Island.ctxBusy (islOf_of_islands (s := modMem s i fun m =>
    { m with engines := m.engines.map fun p => (p.1, ownTeam s i c p.2) }) rfl j)).trans ?_
  exact islOf_modMem_keeps (fun _ _ => rfl) ..

theorem capture_effects {s : State} {i c : Nat} (hst : Machine.stateOf s i c = .halting) :
    let t := capture s i c
    (ctxOf t i c).captured = true ∧ (∀ p ∈ t.groups, onPartition i c p.2 = false)
    ∧ (∀ p ∈ t.teams, ¬(p.2.island = i ∧ p.2.ctx = c)) ∧ (Machine.stateOf t i c = .parked ∨ Machine.stateOf t i c = .saved)
    ∧ ((islOf s i).ctxCtx = c → (islOf t i).ctxBusy = false) := by
  intro t
  have hthere : (tblGet? (islOf s i).ctxs c).isSome = true := present_of_state (by rw [Machine.stateOf] at hst; rw [hst]; decide)
  have hctl := ctl_imageWritten s i c i
  have heq := capture_eq s i c
  dsimp only at heq
  generalize shadowFits (keepOwed (groupsHalted s i c) i c) i c = parks at heq
  generalize keepPast (keepOwed (groupsHalted s i c) i c) i c = past at heq
  generalize imageWritten s i c = w at hctl heq
  have hctxs : (islOf w i).ctxs = (islOf s i).ctxs := congrArg (·.2.2) hctl
  have hcc : (islOf w i).ctxCtx = (islOf s i).ctxCtx := congrArg (·.2.1) hctl
  let m := modCtx w i c (capturedCtx parks past)
  let b := modIsl m i (busyEnds c)
  have ht : t = wakeAll (discardGroups b i c) := heq
  have hctx : ctxOf t i c = capturedCtx parks past (ctxOf s i c) := by
    have hends : (islOf t i).ctxs = (islOf m i).ctxs := by
      rw [ht]
      exact (ctxs_discardGroups b i c i).trans (ctxs_busyEnds m i c i)
    rw [ctxOf_of_ctxs hends, ctxOf_modCtx_same w i c _ (by rwa [hctxs]), ctxOf_of_ctxs hctxs]
  refine ⟨by rw [hctx]; rfl, fun p hp => ?_, fun p hp => ?_, ?_, fun h => ?_⟩
  · rw [ht] at hp
    obtain ⟨q, hq, rfl⟩ := List.mem_map.1 hp
    have hout := (List.mem_filter.1 hq).2
    show onPartition i c q.2 = false
    simpa using hout
  · rw [ht] at hp
    have hout := (List.mem_filter.1 hp).2
    exact not_and_or.2 (by simpa using hout)
  · rw [Machine.stateOf, hctx]
    rw [Machine.stateOf] at hst
    simp only [capturedCtx, hst]
    cases parks <;> simp
  · have hfree : (islOf b i).ctxBusy = false := busyEnds_free (by
      have hm : (islOf m i).ctxCtx = (islOf w i).ctxCtx := islOf_modIsl_keeps (g := Island.ctxCtx)
        (f := fun x => { x with ctxs := tblAdj x.ctxs c (capturedCtx parks past) }) (fun _ => rfl) w i i
      rw [hm, hcc, h])
    rw [ht]
    exact (busy_discardGroups b i c i).trans hfree

theorem haltComplete_clause (i c : Nat) (s : State) (hst : Machine.stateOf s i c = .halting) (hkeys : KeysDistinct s)
    (hr : haltReady s i c = true) : ∃ t, exec (.haltComplete i c) s = .next t
    ∧ t = capture s i c ∧ (ctxOf t i c).captured = true ∧ (∀ p ∈ t.groups, onPartition i c p.2 = false)
    ∧ (∀ p ∈ t.teams, ¬(p.2.island = i ∧ p.2.ctx = c))
    ∧ (Machine.stateOf t i c = .parked ∨ Machine.stateOf t i c = .saved)
    ∧ ((islOf s i).ctxCtx = c → (islOf t i).ctxBusy = false) := by
  refine ⟨capture s i c, ?_, rfl, capture_effects hst⟩
  show execHaltComplete i c s = _
  rw [execHaltComplete, if_pos (by rw [Machine.stateOf] at hst; simp [hst]), haltMmap_quiet hkeys hr]
  exact congrArg Host.Outcome.next (if_pos hr)

theorem haltComplete_notDue (i c : Nat) : NotDue (.haltComplete i c) fun s => Machine.stateOf s i c ≠ .halting ∧ Machine.stateOf s i c ≠ .faulted := by
  rintro s ⟨hh, hf⟩
  rw [Machine.stateOf] at hh hf
  show execHaltComplete i c s = _
  rw [execHaltComplete, if_neg (by simp [hh, hf])]

/-! ## Commands (R318, R319) -/

/-- A command's event: with BUSY 1 it waits, and so does RELEASE until the image is taken. -/
theorem ctxEvent_waits {n i c : Nat} {s : State} (h : cmdWaits s i c n = true) : ctxEvent n i c s = .next s := by
  rw [ctxEvent, if_pos h]

theorem cmdWaits_free {n i c : Nat} {s : State} (hb : (islOf s i).ctxBusy = false)
    (h : n ≠ 7 ∨ Machine.stateOf s i c ≠ .faulted ∨ (ctxOf s i c).captured = true) : cmdWaits s i c n = false := by
  rw [cmdWaits, hb]
  rcases h with h | h | h
  · simp [h]
  · rw [Machine.stateOf] at h
    simp [h]
  · simp [h]

theorem ctxEvent_refused {n i c : Nat} {s : State} {k : CtxCmd} (hk : cmdOf n = some k) (hw : cmdWaits s i c n = false)
    (ha : ctxAdmits (ctxOf s i c) k = false) : ctxEvent n i c s = .next (told s i c 1) := by
  rw [ctxEvent, if_neg (by rw [hw]; decide), ctxCommand, hk]
  dsimp only
  rw [if_pos (by simp [ha])]
  rfl

theorem ctxEvent_status {n i c : Nat} {s : State} {k : CtxCmd} (hk : cmdOf n = some k) (hw : cmdWaits s i c n = false)
    (ha : ctxAdmits (ctxOf s i c) k = true) (hc : c < 65535) (hst : cmdStatus s i c k ≠ 0) :
    ctxEvent n i c s = .next (told s i c (cmdStatus s i c k)) := by
  rw [ctxEvent, if_neg (by rw [hw]; decide), ctxCommand, hk]
  dsimp only
  rw [if_neg (by simp [ha, hc]), if_pos hst]
  rfl

theorem ctxEvent_effect {n i c : Nat} {s : State} {k : CtxCmd} (hk : cmdOf n = some k) (hw : cmdWaits s i c n = false)
    (ha : ctxAdmits (ctxOf s i c) k = true) (hc : c < 65535) (hst : cmdStatus s i c k = 0) :
    ctxEvent n i c s = .next (told (cmdEffect s i c k) i c 0) := by
  rw [ctxEvent, if_neg (by rw [hw]; decide), ctxCommand, hk]
  dsimp only
  rw [if_neg (by simp [ha, hc]), if_neg (not_not.2 hst)]
  rfl

theorem command_waits (i c : Nat) (s : State) (hb : (islOf s i).ctxBusy = true) (e : Instr) (he : e = .place i c ∨ e = .halt i c
    ∨ e = .save i c ∨ e = .resume i c ∨ e = .restore i c ∨ e = .terminate i c ∨ e = .release i c ∨ e = .unplace i c) :
    exec e s = .next s := by
  have hw : ∀ n, ctxEvent n i c s = .next s := fun n => ctxEvent_waits (by rw [cmdWaits, hb]; rfl)
  rcases he with rfl | rfl | rfl | rfl | rfl | rfl | rfl | rfl <;> exact hw _

/-- The commands but RELEASE, in a state that refuses them. -/
theorem command_refused {n i c : Nat} {s : State} {k : CtxCmd} (hk : cmdOf n = some k) (hn : n ≠ 7) (h : open' s i c)
    (ha : ctxAdmits (ctxOf s i c) k = false) : ctxEvent n i c s = .next (told s i c 1) :=
  ctxEvent_refused hk (cmdWaits_free h.1 (.inl hn)) ha

/-- The commands but RELEASE, where every check passes. -/
theorem command_done {n i c : Nat} {s : State} {k : CtxCmd} (hk : cmdOf n = some k) (hn : n ≠ 7) (h : open' s i c)
    (ha : ctxAdmits (ctxOf s i c) k = true) (hst : cmdStatus s i c k = 0) : ctxEvent n i c s = .next (told (cmdEffect s i c k) i c 0) :=
  ctxEvent_effect hk (cmdWaits_free h.1 (.inl hn)) ha h.2 hst

/-- What CTXST then shows. -/
theorem told_shows {s : State} {i : Nat} (c st : Nat) (hp : Present s i) : (islOf (told s i c st) i).ctxCtx = c
    ∧ (islOf (told s i c st) i).ctxStatus = st := by
  rw [told, islOf_modIsl_same s i _ hp]
  exact ⟨rfl, rfl⟩

theorem ctxOf_told (s : State) (i c st d : Nat) : ctxOf (told s i c st) i d = ctxOf s i d :=
  ctxOf_of_ctxs (islOf_modIsl_keeps (g := Island.ctxs) (f := fun y => { y with ctxCtx := c, ctxStatus := st, busyFell := false })
    (fun _ => rfl) s i i) d

theorem memView_told (s : State) (i c st : Nat) : memView (told s i c st) = memView s :=
  memView_modIsl (f := fun y => { y with ctxCtx := c, ctxStatus := st, busyFell := false }) (fun _ => rfl) s i

theorem present_of_ctx {s : State} {i c : Nat} (h : (tblGet? (islOf s i).ctxs c).isSome = true) : Present s i := by
  rw [Present]
  cases hi : tblGet? s.islands i with
  | some x => rfl
  | none =>
    rw [islOf, tblGet, hi] at h
    exact Bool.noConfusion h

/-- An island without memory has no descriptor that is well formed. -/
theorem present_of_descriptor {s : State} {i c : Nat} (h : descBad s i c = false) : Present s i := by
  rw [Present]
  cases hi : tblGet? s.islands i with
  | some x => rfl
  | none =>
    have hzero : descWord s i c 0x60 = 0 := by
      rw [descWord, islOf, tblGet, hi]
      generalize Machine.descAddr s i c + 0x60 = a
      rfl
    rw [descBad] at h
    simp only [hzero] at h
    simp [bit] at h

/-- A context as PLACE makes it. -/
def placedCtx (d x : Context) : Context := { d with state := .resident, cseq := x.cseq }

theorem place_effect {s : State} {i c : Nat} (hd : descBad s i c = false) :
    let t := told (cmdEffect s i c .place) i c 0
    SameMemory s t ∧ Machine.stateOf t i c = .resident ∧ (ctxOf t i c).qmask = BitVec.ofNat 64 (descWord s i c 0x68)
    ∧ (ctxOf t i c).priv = bit (descWord s i c 0x60) 1 ∧ (ctxOf t i c).saveBase = descWord s i c 0x70
    ∧ (islOf t i).ctxCtx = c ∧ (islOf t i).ctxStatus = 0 ∧ t.groups = s.groups := by
  intro t
  have hp := present_of_descriptor hd
  let u := modIsl s i fun y => { y with ctxs := tblMod y.ctxs c (placedCtx (copyDescriptor s i c {})) }
  have ht : t = told (noteSite u i) i c 0 := rfl
  have hctx : ctxOf t i c = placedCtx (copyDescriptor s i c {}) (ctxOf s i c) := by
    have hu : ctxOf u i c = placedCtx (copyDescriptor s i c {}) (ctxOf s i c) := by
      rw [ctxOf, islOf_modIsl_same s i _ hp]
      dsimp only
      rw [tblMod, tblGet_set_same, ctxOf]
    rw [ht, ctxOf_told]
    exact hu
  have hpt : Present (noteSite u i) i := (present_modIsl s i i _).trans hp
  obtain ⟨hcc, hcs⟩ := told_shows c 0 hpt
  have hview : memView t = memView s := by
    rw [ht, memView_told, memView_noteSite]
    exact memView_modIsl (f := fun y => { y with ctxs := tblMod y.ctxs c (placedCtx (copyDescriptor s i c {})) }) (fun _ => rfl) s i
  refine ⟨sameMemory_of_view hview, ?_, ?_, ?_, ?_, hcc, hcs, rfl⟩
  · rw [Machine.stateOf, hctx]
    rfl
  all_goals
    rw [hctx]
    rfl

theorem placeStatus {s : State} {i c : Nat} : cmdStatus s i c .place = if descBad s i c then 4
    else if BitVec.ofNat 64 (descWord s i c 0x68) &&& quadsHeld s i c ≠ 0 then 2 else 0 := rfl

theorem terminate_effect {s : State} {i c : Nat} (hthere : (tblGet? (islOf s i).ctxs c).isSome = true) :
    let t := told (terminateCtx s i c) i c 0
    EndedOn s t i c ∧ (islOf t i).ctxCtx = c ∧ (islOf t i).ctxStatus = 0 := by
  intro t
  have hstate := terminateCtx_state s i c hthere
  have hp : Present (terminateCtx s i c) i := by
    refine present_of_ctx (c := c) ?_
    cases h : (tblGet? (islOf (terminateCtx s i c) i).ctxs c).isSome with
    | true => rfl
    | false =>
      rw [ctxOf_absent h] at hstate
      exact absurd hstate (by decide)
  obtain ⟨hcc, hcs⟩ := told_shows c 0 hp
  refine ⟨⟨fun p hp => ?_, fun p hp => ?_, fun _ => ?_, terminateCtx_propagate s i c⟩, hcc, hcs⟩
  · have hin : p ∈ (terminateCtx s i c).groups := hp
    rw [terminateCtx_groups] at hin
    simpa using (List.mem_filter.mp hin).2
  · have hin : p ∈ (terminateCtx s i c).teams := hp
    rw [terminateCtx_teams] at hin
    exact not_and_or.mpr (by simpa using (List.mem_filter.mp hin).2)
  · rw [ctxOf_told, hstate]

theorem unplace_effect {s : State} {i c : Nat} (hthere : (tblGet? (islOf s i).ctxs c).isSome = true) :
    let t := told (cmdEffect s i c .unplace) i c 0
    SameMemory s t ∧ Machine.stateOf t i c = .built ∧ (islOf t i).ctxCtx = c ∧ (islOf t i).ctxStatus = 0 ∧ t.groups = s.groups := by
  intro t
  let u := modCtx s i c fun x => { x with state := .built }
  have ht : t = told (noteSite u i) i c 0 := rfl
  have hp : Present (noteSite u i) i := (present_modIsl s i i _).trans (present_of_ctx hthere)
  obtain ⟨hcc, hcs⟩ := told_shows c 0 hp
  have hview : memView t = memView s := by
    rw [ht, memView_told, memView_noteSite]
    exact memView_modCtx ..
  have hctx : ctxOf t i c = { ctxOf s i c with state := .built } := by
    rw [ht, ctxOf_told]
    exact ctxOf_modCtx_same s i c _ hthere
  exact ⟨sameMemory_of_view hview, by rw [Machine.stateOf, hctx], hcc, hcs, rfl⟩

/-- RELEASE of a partition whose image has been taken. -/
theorem release_cases {s : State} {i c : Nat} (h : open' s i c) (hf : Machine.stateOf s i c = .faulted)
    (hcap : (ctxOf s i c).captured = true) :
    (releasable (ctxOf s i c).faultedBy = false → ctxEvent 7 i c s = .next (told s i c 1))
    ∧ (releasable (ctxOf s i c).faultedBy = true → cmdStatus s i c .release = 0 → ctxEvent 7 i c s = .next (told (putBack s i c) i c 0))
    ∧ (releasable (ctxOf s i c).faultedBy = true → cmdStatus s i c .release = 2 → ctxEvent 7 i c s = .next (told s i c 2)) := by
  have hw := cmdWaits_free (n := 7) h.1 (.inr (.inr hcap))
  rw [Machine.stateOf] at hf
  refine ⟨fun hr => ctxEvent_refused (k := .release) rfl hw (by rw [ctxAdmits, hr, Bool.and_false]),
    fun hr hst => ctxEvent_effect (k := .release) rfl hw (by simp [ctxAdmits, hr, hf]) h.2 hst, fun hr hst => ?_⟩
  rw [ctxEvent_status (k := .release) rfl hw (by simp [ctxAdmits, hr, hf]) h.2 (by rw [hst]; decide), hst]

/-- Settles O49: each command by its code through one event, whose cases are the wait, the refusal, the status and the effect; an
image back on its cores by what its restore's steps leave of groups and contexts. -/
theorem contextCommandResults : Obligations.ContextCommandResults := by
  unfold Obligations.ContextCommandResults
  refine ⟨fun i c s hb e he => command_waits i c s hb e he, ?_, ?_, ?_, ?_, ?_, ?_, ?_, ?_, ?_, ?_, ?_, ?_, haltComplete_clause, haltComplete_notDue, ?_, ?_, ?_,
    fromArea, ?_, ?_, restoreComplete_clause, ?_, ?_, ?_, ?_, ?_, ?_, ?_⟩
  · rintro i c s ⟨h, hb, ht⟩
    exact command_refused (n := 1) (k := .place) rfl (by decide) h (by simpa [ctxAdmits, Machine.stateOf] using ⟨hb, ht⟩)
  · rintro i c s ⟨h, hb, ht⟩
    exact command_refused (n := 2) (k := .halt) rfl (by decide) h (by simpa [ctxAdmits, Machine.stateOf] using ⟨hb, ht⟩)
  · rintro i c s ⟨h, hst⟩
    exact command_refused (n := 3) (k := .save) rfl (by decide) h (by simpa [ctxAdmits, Machine.stateOf] using hst)
  · rintro i c s ⟨h, hst⟩
    exact command_refused (n := 4) (k := .resume) rfl (by decide) h (by simpa [ctxAdmits, Machine.stateOf] using hst)
  · rintro i c s ⟨h, hst⟩
    exact command_refused (n := 5) (k := .restore) rfl (by decide) h (by simpa [ctxAdmits, Machine.stateOf] using hst)
  · rintro i c s ⟨h, hst⟩
    refine command_refused (n := 6) (k := .terminate) rfl (by decide) h ?_
    rw [Machine.stateOf] at hst
    rcases hst with hst | hst <;> rw [ctxAdmits, hst] <;> rfl
  · rintro i c s ⟨h, hst⟩
    exact ctxEvent_refused (n := 7) (k := .release) rfl (cmdWaits_free h.1 (.inr (.inl hst)))
      (by rw [Machine.stateOf] at hst; simp [ctxAdmits, hst])
  · rintro i c s ⟨h, hst⟩
    exact command_refused (n := 8) (k := .unplace) rfl (by decide) h (by simpa [ctxAdmits, Machine.stateOf] using hst)
  · intro i c s h hst hd hq
    refine ⟨_, command_done (n := 1) (k := .place) rfl (by decide) h (by simpa [ctxAdmits, Machine.stateOf] using hst) ?_, place_effect hd⟩
    rw [placeStatus, hd, hq]
    rfl
  · rintro i c s ⟨h, hst, hd⟩
    have hs : cmdStatus s i c .place = 4 := by rw [placeStatus, if_pos hd]
    have hev := ctxEvent_status (n := 1) (k := .place) rfl (cmdWaits_free h.1 (.inl (by decide)))
      (by simpa [ctxAdmits, Machine.stateOf] using hst) h.2 (by rw [hs]; decide)
    rwa [hs] at hev
  · rintro i c s ⟨h, hst, hd, hq⟩
    have hs : cmdStatus s i c .place = 2 := by rw [placeStatus, if_neg (by rw [hd]; decide), if_pos hq]
    have hev := ctxEvent_status (n := 1) (k := .place) rfl (cmdWaits_free h.1 (.inl (by decide)))
      (by simpa [ctxAdmits, Machine.stateOf] using hst) h.2 (by rw [hs]; decide)
    rwa [hs] at hev
  · rintro i c s ⟨h, hst⟩
    exact command_done (n := 2) (k := .halt) rfl (by decide) h (by simpa [ctxAdmits, Machine.stateOf] using hst) rfl
  · rintro i c s ⟨h, hst⟩
    exact command_done (n := 3) (k := .save) rfl (by decide) h (by simpa [ctxAdmits, Machine.stateOf] using hst) rfl
  · rintro i c s ⟨h, hst⟩
    exact command_done (n := 4) (k := .resume) rfl (by decide) h (by simpa [ctxAdmits, Machine.stateOf] using hst) rfl
  · intro i c s hst hr
    exact backOnCores_of_stands (back_putBack (present_of_state (by rw [Machine.stateOf] at hst; rw [hst]; decide)) hr).toStands
  · rintro i c s ⟨h, hst, hs⟩
    exact command_done (n := 5) (k := .restore) rfl (by decide) h (by simpa [ctxAdmits, Machine.stateOf] using hst) hs
  · rintro i c s ⟨h, hst, hs⟩
    exact ctxEvent_status (n := 5) (k := .restore) rfl (cmdWaits_free h.1 (.inl (by decide)))
      (by simpa [ctxAdmits, Machine.stateOf] using hst) h.2 hs
  · intro i c s h
    show execRestoreComplete i c s = _
    rw [execRestoreComplete, if_neg (by rw [h]; decide)]
  · intro i c s h hb ht
    exact ⟨_, command_done (n := 6) (k := .terminate) rfl (by decide) h (by simpa [ctxAdmits, Machine.stateOf] using ⟨hb, ht⟩) rfl,
      terminate_effect (present_of_state hb)⟩
  · intro i c
    dsimp only
    refine ⟨?_, ?_⟩
    · rintro s ⟨⟨h, hf, hcap, hwhy⟩, hfree⟩
      refine (release_cases h hf hcap).2.1 (by simpa [releasable] using hwhy) ?_
      exact if_neg (by simpa using hfree)
    · rintro s ⟨⟨h, hf, hcap, hwhy⟩, htaken⟩
      refine (release_cases h hf hcap).2.2 (by simpa [releasable] using hwhy) ?_
      exact if_pos (by simpa using htaken)
  · intro i c s hst hr
    exact backOnCores_of_stands (back_putBack (present_of_state (by rw [Machine.stateOf] at hst; rw [hst]; decide)) hr).toStands
  · rintro i c s ⟨hf, hcap⟩
    rw [Machine.stateOf] at hf
    exact ctxEvent_waits (n := 7) (by rw [cmdWaits]; simp [hf, hcap])
  · rintro i c s ⟨h, hf, hcap, h1, h2⟩
    exact (release_cases h hf hcap).1 (by simpa [releasable] using ⟨h1, h2⟩)
  · intro i c s h hst
    exact ⟨_, command_done (n := 8) (k := .unplace) rfl (by decide) h (by simpa [ctxAdmits, Machine.stateOf] using hst) rfl,
      unplace_effect (present_of_state (by rw [Machine.stateOf] at hst; rw [hst]; decide))⟩

end Sys2Proof.Proofs

/-! PROOFS. Operations of a group as they retire: loads, stores, tile moves, MMAs (O48, its first part). -/

namespace Sys2Proof.Proofs

open Sys2Proof Sys2Proof.Machine Sys2Proof.Laws

/-! ## Groups woken, operations that leave their list -/

theorem grpOf_wakeAll (s : State) (k : Nat) : grpOf (wakeAll s) k = wake (grpOf s k) := by
  rw [grpOf, wakeAll, tblGet, tblGet?_map, grpOf, tblGet]
  cases tblGet? s.groups k <;> rfl

theorem groups_of_present {s : State} {k : Nat} {f : Group → Group} (h : (tblGet? s.groups k).isSome = true) :
    grpOf (modGrp s k f) k = f (grpOf s k) := by
  rw [modGrp_present h, grpOf_setGrp_same]

theorem tblGet?_modGrp_other (s : State) {k j : Nat} (f : Group → Group) (h : j ≠ k) :
    tblGet? (modGrp s k f).groups j = tblGet? s.groups j := tblGet?_adj_other _ _ h

/-- A group with an operation stands. -/
theorem present_of_op {s : State} {k : Nat} {p : FlightOp → Bool} {o : FlightOp} (h : (grpOf s k).ops.find? p = some o) :
    (tblGet? s.groups k).isSome = true := by
  rw [grpOf, tblGet] at h
  cases hk : tblGet? s.groups k with
  | some g => rfl
  | none =>
    rw [hk] at h
    exact absurd (List.mem_of_find?_eq_some h) List.not_mem_nil

theorem applyWrites_nil (g : Regs) : applyWrites g [] = g := rfl

/-- What the retirement of an operation leaves of its group. -/
theorem retireOp_effects (g : Group) (o : FlightOp) : (retireOp g o).regs = applyWrites g.regs (o.writes.filter (keepsWrite g))
    ∧ (retireOp g o).ops = g.ops.filter (fun x => x.id ≠ o.id) ∧ (retireOp g o).special = g.special := ⟨rfl, rfl, rfl⟩

theorem loadReturn_due (k n : Nat) (s : State) (o : FlightOp) (h : opWith (grpOf s k) .load n = some o) :
    ∃ t, exec (.loadReturn k n) s = .next t ∧ SameMemory s t
    ∧ (grpOf t k).regs = applyWrites (grpOf s k).regs (o.writes.filter (keepsWrite (grpOf s k)))
    ∧ (grpOf t k).ops = (grpOf s k).ops.filter (fun x => x.id ≠ o.id)
    ∧ (grpOf t k).special = (grpOf s k).special ∧ ∀ j, j ≠ k → tblGet? t.groups j = tblGet? s.groups j := by
  obtain ⟨-, hgroups, hmem⟩ := sampleWaits_effects 1 s (grpOf s k).ident.island 1 (grpOf s k).ident.ctx
  have hp : (tblGet? (sampleWaits s (grpOf s k).ident.island 1 (grpOf s k).ident.ctx 1).groups k).isSome = true := by
    rw [hgroups]
    exact present_of_op h
  have hgrp : grpOf (sampleWaits s (grpOf s k).ident.island 1 (grpOf s k).ident.ctx 1) k = grpOf s k := by
    rw [grpOf, hgroups, grpOf]
  refine ⟨modGrp (sampleWaits s (grpOf s k).ident.island 1 (grpOf s k).ident.ctx 1) k fun g => retireOp g o, ?_,
    sameMemory_trans hmem (sameMemory_of_view (memView_modGrp ..)), ?_⟩
  · show execLoadReturn k n s = _
    rw [execLoadReturn, h]
  · rw [groups_of_present hp, hgrp]
    obtain ⟨hregs, hops, hspecial⟩ := retireOp_effects (grpOf s k) o
    exact ⟨hregs, hops, hspecial, fun j hj => (tblGet?_modGrp_other _ _ hj).trans (by rw [hgroups])⟩

theorem loadReturn_notDue (k n : Nat) : NotDue (.loadReturn k n) fun s => opWith (grpOf s k) .load n = none := by
  intro s h
  show execLoadReturn k n s = _
  rw [execLoadReturn, h]

theorem keepsWrite_iff (g : Group) (w : RegWrite) :
    keepsWrite g w = true ↔ ∀ r l, w.elem = .v r l ∨ w.elem = .p r l → inMask g.exitedLanes l = false := by
  rw [keepsWrite]
  cases h : w.elem <;> simp

theorem storePerformed_due (k n : Nat) (s : State) (o : FlightOp) (h : opWith (grpOf s k) .store n = some o) (hw : o.writes = []) :
    ∃ t, exec (.storePerformed k n) s = .next t
    ∧ SameMemory s t ∧ Retired s t k o.id ∧ ∀ j, j ≠ k → tblGet? t.groups j = tblGet? s.groups j := by
  have hp := present_of_op h
  refine ⟨modGrp s k fun g => retireOp g o, ?_, sameMemory_of_view (memView_modGrp ..), ?_, fun j hj => tblGet?_modGrp_other s _ hj⟩
  · show execStorePerformed k n s = _
    rw [execStorePerformed, h]
  · rw [Retired, groups_of_present hp]
    exact ⟨rfl, by rw [(retireOp_effects ..).1, hw]; rfl⟩

theorem tprefLanding_due (k n : Nat) (s : State) (o : FlightOp) (h : opWith (grpOf s k) .copy n = some o) (hpay : o.payload = .none)
    (hw : o.writes = []) : ∃ t, exec (.tprefLanding k n) s = .next t ∧ SameMemory s t ∧ Retired s t k o.id := by
  have hp := present_of_op h
  refine ⟨modGrp s k fun g => retireOp g o, ?_, sameMemory_of_view (memView_modGrp ..), ?_⟩
  · show execTprefLanding k n s = _
    rw [execTprefLanding, h]
    exact congrArg Host.Outcome.next (if_pos hpay)
  · rw [Retired, groups_of_present hp]
    exact ⟨rfl, by rw [(retireOp_effects ..).1, hw]; rfl⟩

/-! ## Tiles -/

/-- Only what tiles are waiting for has changed: groups, memories and elements are as before. -/
structure ElemsKept (s t : State) : Prop where
  groups : t.groups = s.groups
  view : memView t = memView s
  elems : ∀ tm key, (tileOf (teamOf t tm) key).elems = (tileOf (teamOf s tm) key).elems

theorem elemsKept_refl (s : State) : ElemsKept s s := ⟨rfl, rfl, fun _ _ => rfl⟩

theorem ElemsKept.trans {s t u : State} (a : ElemsKept s t) (b : ElemsKept t u) : ElemsKept s u :=
  ⟨b.groups.trans a.groups, b.view.trans a.view, fun tm key => (b.elems tm key).trans (a.elems tm key)⟩

theorem elemsKept_foldl {α : Type} {f : State → α → State} (h : ∀ s x, ElemsKept s (f s x)) (l : List α) (s : State) :
    ElemsKept s (l.foldl f s) := by
  induction l generalizing s with
  | nil => exact elemsKept_refl s
  | cons x l ih => exact (h s x).trans (ih _)

theorem memView_modTile (s : State) (tm k : Nat) (f : Tile → Tile) : memView (modTile s tm k f) = memView s :=
  memView_modTeam (f := fun t => { t with tiles := tblMod t.tiles k f }) (fun _ => rfl) s tm

theorem tileOf_modTile_other_team (s : State) {tm q : Nat} (k : Nat) (f : Tile → Tile) (h : q ≠ tm) :
    teamOf (modTile s tm k f) q = teamOf s q := teamOf_modTeam_other s _ h

theorem tileOf_modTile_other (s : State) (tm : Nat) {k j : Nat} (f : Tile → Tile) (q : Nat) (h : j ≠ k) :
    tileOf (teamOf (modTile s tm k f) q) j = tileOf (teamOf s q) j :=
  teamOf_modTeam_keeps (g := fun t => tileOf t j) (f := fun t => { t with tiles := tblMod t.tiles k f })
    (fun _ => tblGet_set_other _ _ h) s tm q

theorem tileOf_modTile_same {s : State} {tm : Nat} (k : Nat) (f : Tile → Tile) (h : TeamIn s tm) :
    tileOf (teamOf (modTile s tm k f) tm) k = f (tileOf (teamOf s tm) k) := by
  rw [modTile, teamOf_modTeam_same _ h, tileOf, tblMod, tblGet_set_same, tileOf]

theorem elemsKept_modTile {f : Tile → Tile} (h : ∀ x, (f x).elems = x.elems) (s : State) (tm k : Nat) : ElemsKept s (modTile s tm k f) := by
  refine ⟨rfl, memView_modTile s tm k f, fun q key => ?_⟩
  refine teamOf_modTeam_keeps (g := fun t => (tileOf t key).elems) (f := fun t => { t with tiles := tblMod t.tiles k f }) (fun t => ?_) s tm q
  by_cases hk : key = k
  · subst hk
    show (tblGet (tblMod t.tiles key f) key).elems = _
    rw [tblMod, tblGet_set_same, h, tileOf]
  · exact congrArg Tile.elems (tblGet_set_other _ _ hk)

theorem elemsKept_endWrite (s : State) (tm : Nat) (ks : List Nat) : ElemsKept s (endWrite s tm ks) := by
  refine elemsKept_foldl (fun s k => ?_) ks s
  split
  · exact elemsKept_refl s
  · refine elemsKept_modTile ?_ s tm k
    exact fun _ => rfl

theorem elemsKept_endRead (s : State) (tm : Nat) (ks : List Nat) : ElemsKept s (endRead s tm ks) := by
  refine elemsKept_foldl (fun s k => ?_) ks s
  split
  · exact elemsKept_refl s
  · refine elemsKept_modTile ?_ s tm k
    exact fun _ => rfl

/-- The operations' tiles freed, and every group woken: what a group then is, and what the tiles hold. -/
theorem woken_effects {s t : State} (h : ElemsKept s t) : SameMemory s (wakeAll t) ∧ (∀ k, grpOf (wakeAll t) k = wake (grpOf s k))
    ∧ ∀ tm key, (tileOf (teamOf (wakeAll t) tm) key).elems = (tileOf (teamOf s tm) key).elems := by
  refine ⟨sameMemory_of_view ((memView_wakeAll t).trans h.view), fun k => ?_, h.elems⟩
  rw [grpOf_wakeAll, grpOf, h.groups, ← grpOf]

/-- The tiles of a list set one by one. -/
def setTiles (tm : Nat) (X : Nat × Nat → Tile) (l : List (Nat × Nat)) (s : State) : State :=
  l.foldl (fun s p => modTile s tm p.1 fun _ => X p) s

theorem setTiles_keeps (tm : Nat) (X : Nat × Nat → Tile) (l : List (Nat × Nat)) (s : State) :
    (setTiles tm X l s).groups = s.groups ∧ memView (setTiles tm X l s) = memView s ∧ (∀ q, TeamIn s q → TeamIn (setTiles tm X l s) q) := by
  induction l generalizing s with
  | nil => exact ⟨rfl, rfl, fun _ h => h⟩
  | cons p l ih =>
    obtain ⟨hg, hv, ht⟩ := ih (modTile s tm p.1 fun _ => X p)
    refine ⟨hg, hv.trans (memView_modTile ..), fun q hq => ht q ?_⟩
    rw [TeamIn, modTile, modTeam]
    by_cases h : q = tm
    · subst h
      rw [tblGet?_adj_same, Option.isSome_map]
      exact hq
    · rw [tblGet?_adj_other _ _ h]
      exact hq

theorem tileOf_setTiles_other (tm : Nat) (X : Nat × Nat → Tile) (l : List (Nat × Nat)) (s : State) (q : Nat) {key : Nat}
    (h : key ∉ l.map (·.1)) : tileOf (teamOf (setTiles tm X l s) q) key = tileOf (teamOf s q) key := by
  induction l generalizing s with
  | nil => rfl
  | cons p l ih =>
    rw [List.map_cons, List.mem_cons, not_or] at h
    exact (ih _ h.2).trans (tileOf_modTile_other s tm _ q h.1)

theorem tileOf_setTiles_mem {tm : Nat} (X : Nat × Nat → Tile) {l : List (Nat × Nat)} (hl : (l.map (·.1)).Nodup) {s : State} (ht : TeamIn s tm)
    {p : Nat × Nat} (hp : p ∈ l) : tileOf (teamOf (setTiles tm X l s) tm) p.1 = X p := by
  induction l generalizing s with
  | nil => exact absurd hp List.not_mem_nil
  | cons q l ih =>
    rw [List.map_cons, List.nodup_cons] at hl
    rcases List.mem_cons.1 hp with rfl | hp
    · exact (tileOf_setTiles_other tm X l _ tm hl.1).trans (tileOf_modTile_same _ _ ht)
    · exact ih hl.2 ((setTiles_keeps tm X [q] s).2.2 tm ht) hp

theorem flg_zero_or (a : Flg) : 0 ||| a = a := BitVec.zero_or

theorem flg_or_zero (a : Flg) : a ||| 0 = a := BitVec.or_zero

theorem orFlags_cons (a : Flg) (l : List Flg) : orFlags (a :: l) = a ||| orFlags l := by
  have h : ∀ (l : List Flg) (a : Flg), l.foldl (fun a b => a ||| b) a = a ||| l.foldl (fun a b => a ||| b) 0 := by
    intro l
    induction l with
    | nil => intro a; simp
    | cons b l ih =>
      intro a
      rw [List.foldl_cons, List.foldl_cons, ih, ih (0 ||| b), flg_zero_or, BitVec.or_assoc]
  rw [orFlags, orFlags, List.foldl_cons, flg_zero_or, h]

theorem orFlags_append (l m : List Flg) : orFlags (l ++ m) = orFlags l ||| orFlags m := by
  induction l with
  | nil => rw [List.nil_append, show orFlags [] = 0 from rfl, flg_zero_or]
  | cons a l ih => rw [List.cons_append, orFlags_cons, ih, orFlags_cons, BitVec.or_assoc]

theorem orFlags_flatMap {α : Type} (l : List α) (f : α → List Flg) : orFlags (l.flatMap f) = orFlags (l.map fun x => orFlags (f x)) := by
  induction l with
  | nil => rfl
  | cons a l ih => rw [List.flatMap_cons, orFlags_append, ih, List.map_cons, orFlags_cons]

/-- Tiles written in turn are each made of what they held before, where no tile comes twice. -/
theorem writeTiles_eq (s : State) (tm : Nat) {ks : List Nat} (f : Nat → Tile → Tile × Flg) (hks : ks.Nodup) :
    writeTiles s tm ks f = (setTiles tm (fun p => (f p.2 (tileOf (teamOf s tm) p.1)).1) ks.zipIdx s,
      orFlags (ks.zipIdx.map fun p => (f p.2 (tileOf (teamOf s tm) p.1)).2)) := by
  have hmap : ks.zipIdx.map (·.1) = ks := List.zipIdx_map_fst 0 ks
  have hnodup : (ks.zipIdx.map (·.1)).Nodup := by rwa [hmap]
  rw [writeTiles]
  generalize ks.zipIdx = l at hnodup
  have hgen : ∀ (l : List (Nat × Nat)) (u : State) (a : Flg), (l.map (·.1)).Nodup →
      (∀ p ∈ l, tileOf (teamOf u tm) p.1 = tileOf (teamOf s tm) p.1) →
      l.foldl (fun acc p => (modTile acc.1 tm p.1 fun _ => (f p.2 (tileOf (teamOf acc.1 tm) p.1)).1,
        acc.2 ||| (f p.2 (tileOf (teamOf acc.1 tm) p.1)).2)) (u, a)
      = (setTiles tm (fun p => (f p.2 (tileOf (teamOf s tm) p.1)).1) l u,
        a ||| orFlags (l.map fun p => (f p.2 (tileOf (teamOf s tm) p.1)).2)) := by
    intro l
    induction l with
    | nil => exact fun u a _ _ => Prod.ext rfl (flg_or_zero a).symm
    | cons p l ih =>
      intro u a hl hu
      rw [List.map_cons, List.nodup_cons] at hl
      have hhead := hu p List.mem_cons_self
      rw [List.foldl_cons, hhead, ih _ _ hl.2, List.map_cons, orFlags_cons, BitVec.or_assoc]
      · rfl
      · intro q hq
        rw [tileOf_modTile_other u tm _ tm fun h => hl.1 (List.mem_map.2 ⟨q, hq, h⟩)]
        exact hu q (List.mem_cons_of_mem _ hq)
  exact (hgen l s 0 hnodup fun _ _ => rfl).trans (by rw [flg_zero_or])

/-- The nonzero values of a range, found by their places. -/
theorem tblGet?_sparse (x : Nat → Word) (n j : Nat) : tblGet? ((List.range n).filterMap fun k => if x k = 0 then none else some (k, x k)) j
    = if j < n ∧ x j ≠ 0 then some (x j) else none := by
  induction n with
  | zero => simp [tblGet?]
  | succ n ih =>
    rw [List.range_succ, List.filterMap_append, tblGet?_append, ih]
    have hone : ([n].filterMap fun k => if x k = 0 then none else some (k, x k)) = if x n = 0 then [] else [(n, x n)] := by
      by_cases hx : x n = 0
      · rw [List.filterMap_cons, if_pos hx, if_pos hx]
        rfl
      · rw [List.filterMap_cons, if_neg hx, if_neg hx]
        rfl
    rw [hone]
    by_cases hj : j = n
    · subst hj
      by_cases hx : x j = 0
      · simp [tblGet?, hx]
      · rw [if_neg hx, if_neg (by omega), if_pos ⟨Nat.lt_succ_self j, hx⟩, Option.none_or, tblGet?, if_pos rfl]
    · have hlast : tblGet? (if x n = 0 then [] else [(n, x n)]) j = none := by
        split
        · rfl
        · rw [tblGet?, if_neg (Ne.symm hj), tblGet?]
      rw [hlast, Option.or_none]
      by_cases hlt : j < n
      · simp [hlt, Nat.lt_succ_of_lt hlt]
      · simp [hlt, show ¬ j < n + 1 by omega]

theorem tileElem_elemsOf {x : Tile} {f : Nat → Nat → Word} (h : x.elems = elemsOf f) {r c : Nat} (hr : r < 32) (hc : c < 32) :
    tileElem x r c = f r c := by
  have hplace : (r * 32 + c) / 32 = r ∧ (r * 32 + c) % 32 = c := by omega
  rw [tileElem, tblGet, h, elemsOf]
  refine (congrArg (Option.getD · default) (tblGet?_sparse (fun k => f (k / 32) (k % 32)) 1024 (r * 32 + c))).trans ?_
  rw [hplace.1, hplace.2]
  by_cases hz : f r c = 0
  · rw [if_neg (by simp [hz]), hz]
    rfl
  · rw [if_pos ⟨by omega, hz⟩, Option.getD_some]

/-! ## Tile moves and MMAs (R169, R173, R182) -/

theorem opTiles_nodup (s : State) (g : Group) (o : FlightOp) : (opTiles s g o).Nodup := by
  have hkey : Function.Injective (tileKey (teamOf s g.ident.team) g.ident.core) := fun a b h => by
    simp only [tileKey] at h
    omega
  have htwo : ∀ t : Nat, (if g.ident.width = 2 then [t, t + 1] else [t]).Nodup := fun t => by
    split <;> simp
  refine List.Nodup.map hkey ?_
  cases o.payload
  case mma | tld | tst => exact htwo _
  case tepi => exact List.nodup_singleton _
  all_goals exact List.nodup_nil

/-- What an operation leaves once it is off its group's list, its tiles are free and every group is woken. -/
theorem dropped_effects {u t : State} {k n : Nat} (hp : (tblGet? u.groups k).isSome = true) (h : ElemsKept (dropOp u k n) t) :
    memView (wakeAll t) = memView u
    ∧ ((grpOf (wakeAll t) k).ops = (grpOf u k).ops.filter (fun x => x.id ≠ n) ∧ (grpOf (wakeAll t) k).regs = (grpOf u k).regs)
    ∧ (grpOf (wakeAll t) k).special = (grpOf u k).special
    ∧ ∀ tm key, (tileOf (teamOf (wakeAll t) tm) key).elems = (tileOf (teamOf u tm) key).elems := by
  obtain ⟨-, hgrp, helems⟩ := woken_effects h
  have hdrop : grpOf (dropOp u k n) k = wake { grpOf u k with ops := (grpOf u k).ops.filter fun o => o.id ≠ n } := groups_of_present hp
  refine ⟨(memView_wakeAll t).trans (h.view.trans (memView_modGrp ..)), ?_, ?_, helems⟩ <;> rw [hgrp, hdrop]
  · exact ⟨rfl, rfl⟩
  · rfl

theorem tileElem_of_elems {x y : Tile} (h : x.elems = y.elems) (r c : Nat) : tileElem x r c = tileElem y r c := by
  rw [tileElem, h, tileElem]

theorem tld_retires (k n : Nat) (s : State) (o : FlightOp) (tile : Nat) (hp : (tblGet? s.groups k).isSome = true)
    (h : opAt (grpOf s k) n = some o) (hpay : o.payload = .tld tile) : ∃ t, exec (.tileMoveRetire k n) s = .next t ∧ SameMemory s t
    ∧ (grpOf t k).regs = applyWrites (grpOf s k).regs (o.writes.filter (keepsWrite (grpOf s k)))
    ∧ (grpOf t k).ops = (grpOf s k).ops.filter (fun x => x.id ≠ o.id)
    ∧ ∀ key r c, tileElem (tileOf (teamOf t (grpOf s k).ident.team) key) r c
      = tileElem (tileOf (teamOf s (grpOf s k).ident.team) key) r c := by
  let u := modGrp s k fun g => retireOp g o
  have hkept : ElemsKept u (endRead u (grpOf s k).ident.team (opTiles s (grpOf s k) o)) := elemsKept_endRead ..
  obtain ⟨hmem, hgrp, helems⟩ := woken_effects hkept
  have hu : grpOf u k = retireOp (grpOf s k) o := groups_of_present hp
  refine ⟨wakeAll (endRead u (grpOf s k).ident.team (opTiles s (grpOf s k) o)), ?_,
    sameMemory_trans (sameMemory_of_view (memView_modGrp ..)) hmem, ?_, ?_, fun key r c => tileElem_of_elems (helems ..) r c⟩
  · show execTileMoveRetire k n s = _
    rw [execTileMoveRetire, h]
    dsimp only
    rw [hpay, opTiles, hpay]
  · rw [hgrp, hu]
    rfl
  · rw [hgrp, hu]
    rfl

/-- An element of a tile after the rows of a TST. -/
def tstElem (w : BitVec 2) (half : BitVec 1) (rows : List (Nat × List Word)) (u : Nat) (x : Tile) (r c : Nat) : Word :=
  match (rows.find? fun p => laneRow w half p.1 = (u, r)).map (·.2) with
  | some l => nth l c
  | none => tileElem x r c

theorem elems_tstTile (w : BitVec 2) (half : BitVec 1) (rows : List (Nat × List Word)) (u : Nat) (x : Tile) :
    (tstTile w half rows u x).1.elems = elemsOf (tstElem w half rows u x) := by
  rw [tstTile]
  dsimp only
  exact congrArg elemsOf (funext fun r => funext fun c => rfl)

theorem tst_retires (k n : Nat) (s : State) (o : FlightOp) (tile : Nat) (half : BitVec 1) (rows : List (Nat × List Word)) (u key : Nat)
    (h : opAt (grpOf s k) n = some o) (hpay : o.payload = .tst tile half rows) (hp : (tblGet? s.groups k).isSome = true)
    (ht : (tblGet? s.teams (grpOf s k).ident.team).isSome = true)
    (he : earlier s (grpOf s k).ident.team (opTiles s (grpOf s k) o) n waitsForAny = false) (hu : (opTiles s (grpOf s k) o)[u]? = some key) :
    ∃ t, exec (.tileMoveRetire k n) s = .next t ∧ SameMemory s t ∧ Retired s t k n
    ∧ ∀ r c, r < 32 → c < 32 → tileElem (tileOf (teamOf t (grpOf s k).ident.team) key) r c =
      match rows.find? fun p => laneRow (grpOf s k).ident.width half p.1 = (u, r) with
      | some p => nth p.2 c
      | none => tileElem (tileOf (teamOf s (grpOf s k).ident.team) key) r c := by
  have hwrite := writeTiles_eq s (grpOf s k).ident.team (tstTile (grpOf s k).ident.width half rows) (opTiles_nodup s (grpOf s k) o)
  have hnodup : ((opTiles s (grpOf s k) o).zipIdx.map (·.1)).Nodup := by
    rw [List.zipIdx_map_fst]
    exact opTiles_nodup ..
  have hin : (key, u) ∈ (opTiles s (grpOf s k) o).zipIdx := List.mem_zipIdx_iff_getElem?.2 hu
  have hset := tileOf_setTiles_mem (fun p => (tstTile (grpOf s k).ident.width half rows p.2 (tileOf (teamOf s (grpOf s k).ident.team) p.1)).1)
    hnodup ht hin
  obtain ⟨hgroups, hview, -⟩ := setTiles_keeps (grpOf s k).ident.team
    (fun p => (tstTile (grpOf s k).ident.width half rows p.2 (tileOf (teamOf s (grpOf s k).ident.team) p.1)).1)
    (opTiles s (grpOf s k) o).zipIdx s
  generalize hw : setTiles _ _ _ _ = w at hset hgroups hview hwrite
  have hgrp : grpOf w k = grpOf s k := by rw [grpOf, hgroups, grpOf]
  obtain ⟨hmem, hret, -, helems⟩ := dropped_effects (u := w) (k := k) (n := n) (by rwa [hgroups])
    (elemsKept_endWrite _ (grpOf s k).ident.team (opTiles s (grpOf s k) o))
  refine ⟨wakeAll (endWrite (dropOp w k n) (grpOf s k).ident.team (opTiles s (grpOf s k) o)), ?_,
    sameMemory_of_view (hmem.trans hview), by rwa [hgrp] at hret, fun r c hr hc => ?_⟩
  · have hstate := congrArg Prod.fst hwrite
    rw [opTiles, hpay] at hstate he ⊢
    show execTileMoveRetire k n s = _
    rw [execTileMoveRetire, h]
    dsimp only
    rw [hpay]
    dsimp only
    rw [if_neg (by rw [he]; decide), hstate]
  · rw [tileElem_of_elems (helems ..), hset]
    rw [tileElem_elemsOf (elems_tstTile ..) hr hc, tstElem]
    cases rows.find? fun p => laneRow (grpOf s k).ident.width half p.1 = (u, r) <;> rfl

theorem tepi_retires (k n : Nat) (s : State) (o : FlightOp) (tile : Nat) (fl : Flg) (h : opAt (grpOf s k) n = some o)
    (hpay : o.payload = .tepi tile fl) (hp : (tblGet? s.groups k).isSome = true) :
    ∃ t, exec (.tileMoveRetire k n) s = .next t ∧ SameMemory s t ∧ Retired s t k n
    ∧ (grpOf t k).special = raise (grpOf s k).special fl := by
  let w := modGrp s k fun g => { g with special := raise g.special fl }
  have hw : grpOf w k = { grpOf s k with special := raise (grpOf s k).special fl } := groups_of_present hp
  have hpw : (tblGet? w.groups k).isSome = true := by
    show (tblGet? (tblAdj s.groups k _) k).isSome = true
    rwa [tblGet?_adj_same, Option.isSome_map]
  obtain ⟨hmem, hret, hspecial, -⟩ := dropped_effects (u := w) (k := k) (n := n) hpw
    (elemsKept_endRead _ (grpOf s k).ident.team (opTiles s (grpOf s k) o))
  refine ⟨wakeAll (endRead (dropOp w k n) (grpOf s k).ident.team (opTiles s (grpOf s k) o)), ?_,
    sameMemory_of_view (hmem.trans (memView_modGrp ..)), by rwa [hw] at hret, by rw [hspecial, hw]⟩
  show execTileMoveRetire k n s = _
  rw [execTileMoveRetire, h]
  dsimp only
  rw [hpay, opTiles, hpay]

theorem nth_map_range {α : Type} [Inhabited α] (f : Nat → α) {n i : Nat} (h : i < n) : nth ((List.range n).map f) i = f i := by
  rw [nth, List.getD_eq_getElem _ _ (by rwa [List.length_map, List.length_range]), List.getElem_map, List.getElem_range]

/-- Only the faults that groups hold have changed. -/
structure HeldOnly (s t : State) : Prop where
  islands : t.islands = s.islands
  teams : t.teams = s.teams
  host : t.hostMem = s.hostMem
  present : ∀ k, (tblGet? t.groups k).isSome = (tblGet? s.groups k).isSome
  group : ∀ k, { grpOf t k with held := [] } = { grpOf s k with held := [] }

theorem heldOnly_refl (s : State) : HeldOnly s s := ⟨rfl, rfl, rfl, fun _ => rfl, fun _ => rfl⟩

theorem HeldOnly.trans {s t u : State} (a : HeldOnly s t) (b : HeldOnly t u) : HeldOnly s u :=
  ⟨b.islands.trans a.islands, b.teams.trans a.teams, b.host.trans a.host, fun k => (b.present k).trans (a.present k),
    fun k => (b.group k).trans (a.group k)⟩

theorem HeldOnly.view {s t : State} (h : HeldOnly s t) : memView t = memView s := by
  rw [memView, h.host, h.islands, h.teams, memView]

/-- What of a group does not go by its held faults. -/
theorem HeldOnly.keeps {s t : State} (h : HeldOnly s t) {α : Type} {g : Group → α} (hg : ∀ x, g { x with held := [] } = g x) (k : Nat) :
    g (grpOf t k) = g (grpOf s k) := (hg _).symm.trans ((congrArg g (h.group k)).trans (hg _))

theorem HeldOnly.teamOf {s t : State} (h : HeldOnly s t) (tm : Nat) : teamOf t tm = teamOf s tm := teamOf_of_teams h.teams tm

theorem heldOnly_holdLost (s : State) (k : Nat) (pc : VAddr) : HeldOnly s (holdLost s k pc) := by
  refine ⟨rfl, rfl, rfl, fun j => ?_, fun j => ?_⟩
  · rw [holdLost, modGrp]
    by_cases hj : j = k
    · subst hj
      rw [tblGet?_adj_same, Option.isSome_map]
    · rw [tblGet?_adj_other _ _ hj]
  · by_cases hj : j = k
    · subst hj
      exact grpOf_modGrp_keeps (g := fun x => { x with held := [] })
        (f := fun g => holdFault g (causeWord { cls := 0x1C, status := 5 } false) pc) (fun x => by simp only [holdFault, holdEntry]; split <;> rfl) s j
    · rw [grpOf, grpOf, holdLost, modGrp, tblGet, tblGet, tblGet?_adj_other _ _ hj]

theorem heldOnly_noteTiles (s : State) (k tm : Nat) (pc : VAddr) (ks : List Nat) (rows : Nat → Nat → Bool) :
    HeldOnly s (noteTiles s k tm pc ks rows) := by
  rw [noteTiles]
  split
  · exact heldOnly_holdLost ..
  · exact heldOnly_refl s

theorem heldOnly_noteDead (s : State) (k tm : Nat) (pc : VAddr) (spans : List (Nat × Nat)) : HeldOnly s (noteDead s k tm pc spans) := by
  rw [noteDead]
  split
  · exact heldOnly_holdLost ..
  · exact heldOnly_refl s

/-- The accumulates of one tile of an MMA, by row and column. -/
def mmaRows (w : BitVec 2) (half : BitVec 1) (y : BitVec 3) (z : Bool) (rm : BitVec 2) (a b : List Bits256) (sa sb : List Byte)
    (u : Nat) (x : Tile) : List (List Accum) :=
  (List.range 32).map fun r =>
    (List.range 32).map fun n =>
      match mmaRow w half u r with
      | some l => mmaElem y z (rmode rm) a b sa sb x l (if w = 2 then 32 * u + n else n) r n
      | none => { val := (tileElem x r n).toNat }

theorem tileElem_mmaTile (w : BitVec 2) (half : BitVec 1) (y : BitVec 3) (z : Bool) (rm : BitVec 2) (a b : List Bits256)
    (sa sb : List Byte) (u : Nat) (x : Tile) {r c : Nat} (hr : r < 32) (hc : c < 32) :
    (tileElem (mmaTile w half y z rm a b sa sb u x).1 r c).toNat = match mmaRow w half u r with
      | some l => (mmaElem y z (rmode rm) a b sa sb x l (if w = 2 then 32 * u + c else c) r c).val % 2 ^ 32
      | none => (tileElem x r c).toNat := by
  have helems : (mmaTile w half y z rm a b sa sb u x).1.elems
      = elemsOf fun r n => BitVec.ofNat 32 (nth (nth (mmaRows w half y z rm a b sa sb u x) r) n).val := by
    rw [mmaTile]
    dsimp only
    refine congrArg elemsOf (funext fun r => funext fun c => ?_)
    rfl
  rw [tileElem_elemsOf helems hr hc, mmaRows, nth_map_range _ hr, nth_map_range _ hc, BitVec.toNat_ofNat]
  cases mmaRow w half u r with
  | some l => rfl
  | none => exact Nat.mod_eq_of_lt (tileElem x r c).isLt

/-- An MMA's tiles written and its flags raised. -/
def mmaWritten (s : State) (k tm : Nat) (pc : VAddr) (ks : List Nat) (w : BitVec 2) (half : BitVec 1) (z : Bool)
    (F : Nat → Tile → Tile × Flg) : State :=
  let r := writeTiles (if z then s else noteTiles s k tm pc ks fun _ r => (mmaRow w half 0 r).isSome) tm ks F
  modGrp r.1 k fun g => { g with special := raise g.special r.2 }

theorem exec_mmaRetire {k n : Nat} {s : State} {o : FlightOp} {tile : Nat} {half : BitVec 1} {y : BitVec 3} {z : Bool} {rm : BitVec 2}
    {a b : List Bits256} {sa sb : List Byte} {ks : List Nat} (h : opAt (grpOf s k) n = some o)
    (hpay : o.payload = .mma tile half y z rm a b sa sb)
    (hks : (payloadTiles (grpOf s k).ident.width (.mma tile half y z rm a b sa sb)).map
      (tileKey (teamOf s (grpOf s k).ident.team) (grpOf s k).ident.core) = ks)
    (he : earlier s (grpOf s k).ident.team ks n waitsForAny = false) :
    exec (.mmaRetire k n) s = .next (wakeAll (endWrite (dropOp (mmaWritten s k (grpOf s k).ident.team o.pc ks (grpOf s k).ident.width half z
      (mmaTile (grpOf s k).ident.width half y z rm a b sa sb)) k n) (grpOf s k).ident.team ks)) := by
  show execMmaRetire k n s = _
  rw [execMmaRetire, h]
  dsimp only
  rw [hpay]
  dsimp only
  rw [hks, if_neg (by rw [he]; decide)]
  rfl

theorem mma_retires (k n : Nat) (s : State) (o : FlightOp) (tile : Nat) (half : BitVec 1) (y : BitVec 3) (z : Bool) (rm : BitVec 2)
    (a b : List Bits256) (sa sb : List Byte) (u key : Nat) (h : opAt (grpOf s k) n = some o)
    (hpay : o.payload = .mma tile half y z rm a b sa sb) (hp : (tblGet? s.groups k).isSome = true)
    (ht : (tblGet? s.teams (grpOf s k).ident.team).isSome = true)
    (he : earlier s (grpOf s k).ident.team (opTiles s (grpOf s k) o) n waitsForAny = false) (hu : (opTiles s (grpOf s k) o)[u]? = some key) :
    ∃ t, exec (.mmaRetire k n) s = .next t ∧ SameMemory s t ∧ Retired s t k n
    ∧ (grpOf t k).special = raise (grpOf s k).special (orFlags ((opTiles s (grpOf s k) o).zipIdx.map fun p =>
      (mmaTile (grpOf s k).ident.width half y z rm a b sa sb p.2 (tileOf (teamOf s (grpOf s k).ident.team) p.1)).2))
    ∧ ∀ r c, r < 32 → c < 32 → (tileElem (tileOf (teamOf t (grpOf s k).ident.team) key) r c).toNat =
      match mmaRow (grpOf s k).ident.width half u r with
      | some l => (mmaElem y z (rmode rm) a b sa sb (tileOf (teamOf s (grpOf s k).ident.team) key) l
        (if (grpOf s k).ident.width = 2 then 32 * u + c else c) r c).val % 2 ^ 32
      | none => (tileElem (tileOf (teamOf s (grpOf s k).ident.team) key) r c).toNat := by
  let ks := opTiles s (grpOf s k) o
  let tm := (grpOf s k).ident.team
  let F := mmaTile (grpOf s k).ident.width half y z rm a b sa sb
  let s1 := if z then s else noteTiles s k tm o.pc ks fun _ r => (mmaRow (grpOf s k).ident.width half 0 r).isSome
  have hnote : HeldOnly s s1 := by
    show HeldOnly s (if z then s else _)
    split
    · exact heldOnly_refl s
    · exact heldOnly_noteTiles ..
  have hteam : teamOf s1 tm = teamOf s tm := hnote.teamOf tm
  have hwrite : writeTiles s1 tm ks F = (setTiles tm (fun p => (F p.2 (tileOf (teamOf s tm) p.1)).1) ks.zipIdx s1,
      orFlags (ks.zipIdx.map fun p => (F p.2 (tileOf (teamOf s tm) p.1)).2)) := by
    rw [writeTiles_eq s1 tm F (opTiles_nodup s (grpOf s k) o), hteam]
  have hexec := exec_mmaRetire (ks := ks) h hpay (by rw [← hpay]; rfl) he
  rw [mmaWritten] at hexec
  change exec _ s = .next (wakeAll (endWrite (dropOp (modGrp (writeTiles s1 tm ks F).1 k fun g =>
    { g with special := raise g.special (writeTiles s1 tm ks F).2 }) k n) tm ks)) at hexec
  rw [hwrite] at hexec
  have hnodup : (ks.zipIdx.map (·.1)).Nodup := by
    rw [List.zipIdx_map_fst]
    exact opTiles_nodup ..
  have hin : (key, u) ∈ ks.zipIdx := List.mem_zipIdx_iff_getElem?.2 hu
  have hset := tileOf_setTiles_mem (tm := tm) (s := s1) (fun p => (F p.2 (tileOf (teamOf s tm) p.1)).1) hnodup
    (by rw [TeamIn, hnote.teams]; exact ht) hin
  obtain ⟨hgroups, hview, -⟩ := setTiles_keeps tm (fun p => (F p.2 (tileOf (teamOf s tm) p.1)).1) ks.zipIdx s1
  dsimp only at hexec
  generalize setTiles tm (fun p => (F p.2 (tileOf (teamOf s tm) p.1)).1) ks.zipIdx s1 = w at hset hgroups hview hexec
  generalize orFlags (ks.zipIdx.map fun p => (F p.2 (tileOf (teamOf s tm) p.1)).2) = fl at hexec
  have hpw : (tblGet? w.groups k).isSome = true := by rw [hgroups, hnote.present]; exact hp
  have hgw : grpOf w k = grpOf s1 k := by rw [grpOf, hgroups, grpOf]
  have hraise : grpOf (modGrp w k fun g => { g with special := raise g.special fl }) k
      = { grpOf w k with special := raise (grpOf w k).special fl } := groups_of_present hpw
  obtain ⟨hmem, hret, hspecial, helems⟩ := dropped_effects (k := k) (n := n)
    (u := modGrp w k fun g => { g with special := raise g.special fl })
    (by rw [modGrp_present hpw, setGrp_groups, tblGet?_set_same]; rfl)
    (elemsKept_endWrite _ tm ks)
  have hops : (grpOf w k).ops = (grpOf s k).ops := by rw [hgw]; exact hnote.keeps (g := Group.ops) (fun _ => rfl) k
  have hregs : (grpOf w k).regs = (grpOf s k).regs := by rw [hgw]; exact hnote.keeps (g := Group.regs) (fun _ => rfl) k
  have hsp : (grpOf w k).special = (grpOf s k).special := by rw [hgw]; exact hnote.keeps (g := Group.special) (fun _ => rfl) k
  rw [hraise] at hret hspecial
  refine ⟨_, hexec, sameMemory_of_view (hmem.trans ((memView_modGrp ..).trans (hview.trans hnote.view))),
    ⟨hret.1.trans (by rw [← hops]), hret.2.trans hregs⟩, hspecial.trans (by rw [← hsp]), fun r c hr hc => ?_⟩
  rw [tileElem_of_elems (helems tm key)]
  show (tileElem (tileOf (teamOf w tm) key) r c).toNat = _
  rw [hset]
  exact tileElem_mmaTile _ half y z rm a b sa sb u _ hr hc

end Sys2Proof.Proofs

/-! PROOFS. An MMAP block by block, mismatches, special functions and poison marks (O48, its second part). -/

namespace Sys2Proof.Proofs

open Sys2Proof Sys2Proof.Machine Sys2Proof.Laws

/-! ## A block of an MMAP (R177) -/

theorem pairKeys_nth (t : Team) (core base u : Nat) (hu : u < 32) :
    nth (pairKeys t core base) u = (coreIx t core + u / 16) * 32 + base + u % 16 := by
  have hlen : ((List.range 16).map fun i => coreIx t core * 32 + base + i).length = 16 := by rw [List.length_map, List.length_range]
  rw [pairKeys, nth, List.getD_eq_getElem?_getD]
  by_cases h : u < 16
  · rw [List.getElem?_append_left (by omega), List.getElem?_map, List.getElem?_range h, Nat.div_eq_of_lt h, Nat.mod_eq_of_lt h]
    rfl
  · rw [List.getElem?_append_right (by omega), hlen, List.getElem?_map, List.getElem?_range (by omega),
      show u / 16 = 1 by omega, show u % 16 = u - 16 by omega]
    rfl

theorem pairKeys_length (t : Team) (core base : Nat) : (pairKeys t core base).length = 32 := by
  rw [pairKeys, List.length_append, List.length_map, List.length_map, List.length_range]

theorem pairKeys_nodup (t : Team) (core base : Nat) : (pairKeys t core base).Nodup := by
  refine List.nodup_iff_injective_getElem.2 fun i j hij => Fin.ext ?_
  have hi : i.1 < 32 := i.2.trans_eq (pairKeys_length ..)
  have hj : j.1 < 32 := j.2.trans_eq (pairKeys_length ..)
  have hni := pairKeys_nth t core base i.1 hi
  have hnj := pairKeys_nth t core base j.1 hj
  rw [nth, List.getD_eq_getElem _ _ i.2] at hni
  rw [nth, List.getD_eq_getElem _ _ j.2] at hnj
  have heq : (coreIx t core + i.1 / 16) * 32 + base + i.1 % 16 = (coreIx t core + j.1 / 16) * 32 + base + j.1 % 16 := by
    rw [← hni, ← hnj]
    exact hij
  omega

/-- What a block makes of one element of tile u of the pair's. -/
def blockAt (s : State) (g : Group) (m : MmapRec) (u : Nat) (x : Tile) (r c : Nat) : BlockOut :=
  let mem := (teamOf s g.ident.team).mem
  let o := mmapOperands s g.ident.island m.word0 m.ty
  let row := 32 * (u % 16 / 4) + r
  let col := 128 * (u / 16) + 32 * (u % 4) + c
  blockElem m (mmapBlocks m.word0) m.done (tileElem x r c).toNat (blockElems mem o.1 row m.done) (blockElems mem o.2 col m.done)
    (blockScaleAt mem o.1 row m.done) (blockScaleAt mem o.2 col m.done)

theorem blockResult_eq (s : State) (g : Group) (m : MmapRec) (u : Nat) (x : Tile) (r c : Nat) :
    blockResult s g m u r c (tileElem x r c).toNat
      = ((blockAt s g m u x r c).val, (blockAt s g m u x r c).flags, (blockAt s g m u x r c).cut) := by
  simp only [blockResult, blockAt, blockElem, Bool.and_eq_true, decide_eq_true_eq, and_assoc]
  split <;> rfl

/-- The elements of tile u after a block, by row and column. -/
def blockRows (s : State) (g : Group) (m : MmapRec) (u : Nat) (x : Tile) : List (List BlockOut) :=
  (List.range 32).map fun r => (List.range 32).map fun c => blockAt s g m u x r c

theorem blockTile_eq (s : State) (g : Group) (m : MmapRec) (u : Nat) (x : Tile) : blockTile s g m m.done u x =
    ({ coverRows x (fun _ => true) with elems := elemsOf fun r n => BitVec.ofNat 32 (nth (nth (blockRows s g m u x) r) n).val },
      orFlags (((blockRows s g m u x).flatMap id).map (·.flags)), (((blockRows s g m u x).flatMap id).filter (·.cut)).length) := by
  have hrows : ∀ (A B : Nat → List Nat × Nat) (E : Nat → Nat → List Nat × Nat → List Nat × Nat → BlockOut),
      (((List.range 32).map A).zipIdx.map fun p => ((List.range 32).map B).zipIdx.map fun q => E p.2 q.2 p.1 q.1)
        = (List.range 32).map fun r => (List.range 32).map fun c => E r c (A r) (B c) := by
    intro A B E
    rw [zipIdx_map_range, zipIdx_map_range, List.map_map]
    refine List.map_congr_left fun r _ => ?_
    rw [Function.comp_apply, List.map_map]
    rfl
  rw [blockTile]
  dsimp only
  rw [hrows (fun r => (_, _)) (fun n => (_, _)) fun r c p q => blockElem m (mmapBlocks m.word0) m.done (tileElem x r c).toNat p.1 q.1 p.2 q.2]
  rfl

theorem blockTile_of_held {s t : State} (h : HeldOnly s t) (g : Group) (m : MmapRec) (j i : Nat) (x : Tile) :
    blockTile t g m j i x = blockTile s g m j i x := by
  have hobj : ∀ isl idx, objWords t isl idx = objWords s isl idx := fun isl idx => by
    simp only [objWords, objAddr, islOf_of_islands h.islands]
  have ho : mmapOperands t g.ident.island m.word0 m.ty = mmapOperands s g.ident.island m.word0 m.ty := by
    simp only [mmapOperands, hobj]
  simp only [blockTile, ho, h.teamOf]

theorem nth_blockRows (s : State) (g : Group) (m : MmapRec) (u : Nat) (x : Tile) {r c : Nat} (hr : r < 32) (hc : c < 32) :
    nth (nth (blockRows s g m u x) r) c = blockAt s g m u x r c := by
  rw [blockRows, nth_map_range _ hr, nth_map_range _ hc]

theorem tileElem_blockTile (s : State) (g : Group) (m : MmapRec) (u : Nat) (x : Tile) {r c : Nat} (hr : r < 32) (hc : c < 32) :
    (tileElem (blockTile s g m m.done u x).1 r c).toNat = (blockResult s g m u r c (tileElem x r c).toNat).1 % 2 ^ 32 := by
  have helems : (blockTile s g m m.done u x).1.elems
      = elemsOf fun r n => BitVec.ofNat 32 (nth (nth (blockRows s g m u x) r) n).val := by
    rw [blockTile_eq]
  rw [tileElem_elemsOf helems hr hc, nth_blockRows s g m u x hr hc, BitVec.toNat_ofNat, blockResult_eq]

/-- Tiles set one by one, with the flags and the cuts of each. -/
theorem foldl_tiles (tm : Nat) (B : Nat × Nat → Tile × Flg × Nat) (l : List (Nat × Nat)) (s : State) (a : Flg) (n : Nat) :
    l.foldl (fun (acc : State × Flg × Nat) p => (modTile acc.1 tm p.1 fun _ => (B p).1, acc.2.1 ||| (B p).2.1, acc.2.2 + (B p).2.2)) (s, a, n)
      = (setTiles tm (fun p => (B p).1) l s, a ||| orFlags (l.map fun p => (B p).2.1), n + (l.map fun p => (B p).2.2).sum) := by
  induction l generalizing s a n with
  | nil => exact Prod.ext rfl (Prod.ext (flg_or_zero a).symm rfl)
  | cons p l ih =>
    rw [List.foldl_cons, ih, List.map_cons, orFlags_cons, List.map_cons, List.sum_cons, BitVec.or_assoc, Nat.add_assoc]
    rfl

/-- The tiles of a list with their places in it. -/
theorem zipIdx_eq_map {ks : List Nat} {n : Nat} (h : ks.length = n) : ks.zipIdx = (List.range n).map fun u => (nth ks u, u) := by
  subst h
  refine List.ext_getElem (by simp) fun i h1 h2 => ?_
  have hi : i < ks.length := by simpa using h1
  rw [List.getElem_zipIdx, List.getElem_map, List.getElem_range, nth, List.getD_eq_getElem _ _ hi, Nat.zero_add]

theorem map_flatMap_id {α β : Type} (l : List (List α)) (f : α → β) : (l.flatMap id).map f = l.flatMap fun r => r.map f := by
  rw [List.map_flatMap]
  rfl

/-- The flags of a block, over all its places. -/
theorem blockFlags_eq (s : State) (g : Group) (m : MmapRec) (X : Nat → Tile) :
    orFlags ((List.range 32).map fun u => (blockTile s g m m.done u (X u)).2.1)
      = orFlags (pairPlaces.map fun p => (blockResult s g m p.1 p.2.1 p.2.2 (tileElem (X p.1) p.2.1 p.2.2).toNat).2.1) := by
  rw [pairPlaces, List.map_flatMap, orFlags_flatMap]
  refine congrArg orFlags (List.map_congr_left fun u _ => ?_)
  rw [blockTile_eq]
  dsimp only
  rw [map_flatMap_id, orFlags_flatMap, List.map_flatMap, orFlags_flatMap, blockRows, List.map_map]
  refine congrArg orFlags (List.map_congr_left fun r _ => congrArg orFlags ?_)
  rw [List.map_map, List.map_map]
  refine List.map_congr_left fun c _ => ?_
  simp only [Function.comp_apply, blockResult_eq]

theorem blockCuts_eq (s : State) (g : Group) (m : MmapRec) (X : Nat → Tile) :
    ((List.range 32).map fun u => (blockTile s g m m.done u (X u)).2.2).sum
      = (pairPlaces.filter fun p => (blockResult s g m p.1 p.2.1 p.2.2 (tileElem (X p.1) p.2.1 p.2.2).toNat).2.2).length := by
  rw [pairPlaces, List.filter_flatMap, List.length_flatMap]
  refine congrArg List.sum (List.map_congr_left fun u _ => ?_)
  rw [blockTile_eq]
  dsimp only
  rw [List.filter_flatMap, List.length_flatMap, List.filter_flatMap, List.length_flatMap, blockRows, List.map_map]
  refine congrArg List.sum (List.map_congr_left fun r _ => ?_)
  rw [Function.comp_apply, id_eq, List.filter_map, List.filter_map, List.length_map, List.length_map]
  refine congrArg List.length (List.filter_congr fun c _ => ?_)
  simp only [Function.comp_apply, blockResult_eq]

/-- The state in which a block's tiles are set: what it reads of lost words is held (R421). -/
def blockHeld (s : State) (k : Nat) (g : Group) (m : MmapRec) : State :=
  let s1 := noteDead s k g.ident.team m.pc (mmapSpans s g.ident.island m.word0 m.ty)
  if m.done = 0 && m.zero then s1
  else noteTiles s1 k g.ident.team m.pc (pairKeys (teamOf s g.ident.team) g.ident.core m.base) fun _ _ => true

theorem blockHeld_held (s : State) (k : Nat) (g : Group) (m : MmapRec) : HeldOnly s (blockHeld s k g m) := by
  rw [blockHeld]
  split
  · exact heldOnly_noteDead ..
  · exact (heldOnly_noteDead ..).trans (heldOnly_noteTiles ..)

/-- A block's tiles set one after the other, with their flags and cuts. -/
def blockFold (t : State) (g : Group) (m : MmapRec) (ks : List Nat) : State × Flg × Nat :=
  ks.zipIdx.foldl (fun (acc : State × Flg × Nat) p =>
    let x := blockTile t g m m.done p.2 (tileOf (teamOf t g.ident.team) p.1)
    (modTile acc.1 g.ident.team p.1 fun _ => x.1, acc.2.1 ||| x.2.1, acc.2.2 + x.2.2)) (t, 0, 0)

/-- The record of an MMAP after one more block. -/
def blockNext (m : MmapRec) (fl : Flg) (cuts : Nat) : MmapRec :=
  { m with done := m.done + 1, flags := m.flags ||| fl, cuts := m.cuts + 12 * cuts, rerun := [] }

theorem mmapBlock_eq (s : State) (k : Nat) (g : Group) (m : MmapRec) :
    mmapBlock s k g m = (fun r : State × Flg × Nat => modGrp r.1 k fun g => { g with mmap := some (blockNext m r.2.1 r.2.2) })
      (blockFold (blockHeld s k g m) g m (pairKeys (teamOf s g.ident.team) g.ident.core m.base)) := rfl

theorem blockFold_eq {s t : State} (h : HeldOnly s t) (g : Group) (m : MmapRec) {ks : List Nat} (hlen : ks.length = 32) :
    let B := fun p : Nat × Nat => blockTile s g m m.done p.2 (tileOf (teamOf s g.ident.team) p.1)
    let out := fun (p : Nat × Nat × Nat) => blockResult s g m p.1 p.2.1 p.2.2
      (tileElem (tileOf (teamOf s g.ident.team) (nth ks p.1)) p.2.1 p.2.2).toNat
    blockFold t g m ks = (setTiles g.ident.team (fun p => (B p).1) ks.zipIdx t,
      orFlags (pairPlaces.map fun p => (out p).2.1), (pairPlaces.filter fun p => (out p).2.2).length) := by
  intro B out
  have hks : ks.zipIdx = (List.range 32).map fun u => (nth ks u, u) := zipIdx_eq_map hlen
  have hflags : orFlags (ks.zipIdx.map fun p => (B p).2.1) = orFlags (pairPlaces.map fun p => (out p).2.1) := by
    rw [hks, List.map_map]
    exact blockFlags_eq s g m fun u => tileOf (teamOf s g.ident.team) (nth ks u)
  have hcuts : (ks.zipIdx.map fun p => (B p).2.2).sum = (pairPlaces.filter fun p => (out p).2.2).length := by
    rw [hks, List.map_map]
    exact blockCuts_eq s g m fun u => tileOf (teamOf s g.ident.team) (nth ks u)
  have hB : ∀ p : Nat × Nat, blockTile t g m m.done p.2 (tileOf (teamOf t g.ident.team) p.1) = B p := fun p => by
    rw [blockTile_of_held h, h.teamOf]
  simp only [blockFold, hB]
  rw [foldl_tiles g.ident.team B, flg_zero_or, Nat.zero_add, hflags, hcuts]

theorem mmap_block (k : Nat) (s : State) (m : MmapRec) (hm : (grpOf s k).mmap = some m) (hd : m.done < mmapBlocks m.word0)
    (hturn : mmapTurn s (grpOf s k) m = true) (hp : (tblGet? s.groups k).isSome = true)
    (ht : (tblGet? s.teams (grpOf s k).ident.team).isSome = true) :
    let g := grpOf s k
    let ks := pairKeys (teamOf s g.ident.team) g.ident.core m.base
    let out := fun (p : Nat × Nat × Nat) => blockResult s g m p.1 p.2.1 p.2.2
      (tileElem (tileOf (teamOf s g.ident.team) (nth ks p.1)) p.2.1 p.2.2).toNat
    ∃ t, exec (.mmapBlockComplete k) s = .next t ∧ SameMemory s t
    ∧ (∀ u r c, u < 32 → r < 32 → c < 32 →
      (tileElem (tileOf (teamOf t g.ident.team) (nth ks u)) r c).toNat = (out (u, r, c)).1 % 2 ^ 32)
    ∧ (∀ key r c, key ∉ ks → tileElem (tileOf (teamOf t g.ident.team) key) r c = tileElem (tileOf (teamOf s g.ident.team) key) r c)
    ∧ (grpOf t k).mmap = some { m with
        done := m.done + 1, flags := m.flags ||| orFlags (pairPlaces.map fun p => (out p).2.1)
        cuts := m.cuts + 12 * (pairPlaces.filter fun p => (out p).2.2).length, rerun := [] }
    ∧ (grpOf t k).regs = (grpOf s k).regs ∧ (grpOf t k).special = (grpOf s k).special := by
  intro g ks out
  let tm := g.ident.team
  let B : Nat × Nat → Tile × Flg × Nat := fun p => blockTile s g m m.done p.2 (tileOf (teamOf s tm) p.1)
  have hheld := blockHeld_held s k g m
  have hfold : blockFold (blockHeld s k g m) g m ks = _ := blockFold_eq hheld g m (pairKeys_length ..)
  generalize hs2 : blockHeld s k g m = s2 at hheld hfold
  have hks : ks.zipIdx = (List.range 32).map fun u => (nth ks u, u) := zipIdx_eq_map (pairKeys_length ..)
  obtain ⟨hgroups, hview, -⟩ := setTiles_keeps tm (fun p => (B p).1) ks.zipIdx s2
  have hnodup : (ks.zipIdx.map (·.1)).Nodup := by
    rw [List.zipIdx_map_fst]
    exact pairKeys_nodup ..
  have hmem := fun {p} => tileOf_setTiles_mem (tm := tm) (s := s2) (p := p) (fun p => (B p).1) hnodup (by rw [TeamIn, hheld.teams]; exact ht)
  have hother := fun key => tileOf_setTiles_other tm (fun p => (B p).1) ks.zipIdx s2 tm (key := key)
  generalize setTiles tm (fun p => (B p).1) ks.zipIdx s2 = w at hfold hgroups hview hmem hother
  have hgw : grpOf w k = grpOf s2 k := by rw [grpOf, hgroups, grpOf]
  have hpw : (tblGet? w.groups k).isSome = true := by rw [hgroups, hheld.present]; exact hp
  let m' := blockNext m (orFlags (pairPlaces.map fun p => (out p).2.1)) (pairPlaces.filter fun p => (out p).2.2).length
  have hexec : exec (.mmapBlockComplete k) s = .next (modGrp w k fun g => { g with mmap := some m' }) := by
    show execMmapBlockComplete k s = _
    rw [execMmapBlockComplete, hm]
    dsimp only
    rw [if_pos (by rw [hturn]; simpa using hd), mmapBlock_eq, hs2, hfold]
  refine ⟨_, hexec, sameMemory_of_view ((memView_modGrp ..).trans (hview.trans hheld.view)), fun u r c hu hr hc => ?_, fun key r c hk => ?_, ?_⟩
  · have hin : (nth ks u, u) ∈ ks.zipIdx := by
      rw [hks]
      exact List.mem_map.2 ⟨u, List.mem_range.2 hu, rfl⟩
    show (tileElem (tileOf (teamOf w tm) (nth ks u)) r c).toNat = _
    rw [hmem hin]
    exact tileElem_blockTile s g m u _ hr hc
  · show tileElem (tileOf (teamOf w tm) key) r c = _
    rw [hother key (by rwa [List.zipIdx_map_fst]), hheld.teamOf]
  · rw [groups_of_present hpw]
    exact ⟨rfl, (congrArg Group.regs hgw).trans (hheld.keeps (g := Group.regs) (fun _ => rfl) k),
      (congrArg Group.special hgw).trans (hheld.keeps (g := Group.special) (fun _ => rfl) k)⟩

end Sys2Proof.Proofs

/-! PROOFS. The end of an MMAP, mismatches, special functions and poison marks (O48, its third part). -/

namespace Sys2Proof.Proofs

open Sys2Proof Sys2Proof.Machine Sys2Proof.Laws

/-! ## Elements of an operand's block -/

theorem memNat_div (m : Memory) (a n q : Nat) : memNat m a n / 256 ^ q = memNat m (a + q) (n - q) := by
  induction q generalizing a n with
  | zero => rw [pow_zero, Nat.div_one, Nat.add_zero, Nat.sub_zero]
  | succ q ih =>
    cases n with
    | zero => simp [memNat, memBytes, leNat]
    | succ n =>
      have hb : (memGet m a).toNat < 256 := (memGet m a).isLt
      rw [memNat_succ, pow_succ, Nat.mul_comm (256 ^ q) 256, ← Nat.div_div_eq_div_mul, Nat.add_mul_div_left _ _ (by norm_num),
        Nat.div_eq_of_lt hb, Nat.zero_add, ih, Nat.add_assoc, Nat.add_comm 1 q, Nat.succ_sub_succ]

theorem memNat_mod (m : Memory) (a : Nat) {n j : Nat} (h : j ≤ n) : memNat m a n % 256 ^ j = memNat m a j := by
  induction j generalizing a n with
  | zero => rw [pow_zero, Nat.mod_one]; rfl
  | succ j ih =>
    obtain ⟨n, rfl⟩ : ∃ i, n = i + 1 := ⟨n - 1, by omega⟩
    have hb : (memGet m a).toNat < 256 := (memGet m a).isLt
    rw [memNat_succ, memNat_succ, pow_succ, Nat.mul_comm (256 ^ j) 256, Nat.mod_mul, Nat.add_mul_mod_self_left, Nat.mod_eq_of_lt hb,
      Nat.add_mul_div_left _ _ (by norm_num), Nat.div_eq_of_lt hb, Nat.zero_add, ih (a := a + 1) (n := n) (by omega)]

/-- A field of `w` bits at bit `r` of a byte that lies within its first `j` bytes. -/
theorem field_of_mod (x : Nat) {j r w : Nat} (h : r + w ≤ 8 * j) : x % 256 ^ j / 2 ^ r % 2 ^ w = x / 2 ^ r % 2 ^ w := by
  rw [show (256 : Nat) ^ j = 2 ^ r * 2 ^ (8 * j - r) by rw [← pow_add, show (256 : Nat) = 2 ^ 8 by norm_num, ← pow_mul]; congr 1; omega,
    Nat.mod_mul_right_div_self, Nat.mod_mod_of_dvd _ (Nat.pow_dvd_pow 2 (by omega))]

/-- A field within the bytes that two counts of them share. -/
theorem field_of_memNat (m : Memory) (a : Nat) {n j r w : Nat} (hn : r + w ≤ 8 * n) (hj : r + w ≤ 8 * j) :
    memNat m a n / 2 ^ r % 2 ^ w = memNat m a j / 2 ^ r % 2 ^ w := by
  rcases Nat.le_total j n with h | h
  · rw [← field_of_mod (memNat m a n) hj, memNat_mod m a h]
  · rw [← field_of_mod (memNat m a j) hn, memNat_mod m a h]

theorem blockElem_nth (mem : Memory) (o : MmapOperand) (x j e : Nat) (hw : o.wid = 4 ∨ o.wid = 8 ∨ o.wid = 16) (he : e < 128) :
    let k := 128 * j + e
    nth (blockElems mem o x j) e
      = memNat mem (o.t.taddr + x * o.t.pitch + k * o.wid / 8) 2 / 2 ^ (k * o.wid % 8) % 2 ^ o.wid
    ∧ blockScaleAt mem o x j = (memGet mem (o.t.scale + o.rows * j + x)).toNat := by
  intro k
  refine ⟨?_, rfl⟩
  rw [blockElems, imageList, nth_map_range _ he, bits]
  have hk : k * o.wid = 128 * j * o.wid + e * o.wid := Nat.add_mul ..
  have hbyte : k * o.wid / 8 = 128 * j * o.wid / 8 + e * o.wid / 8 := by rcases hw with h | h | h <;> rw [hk, h] <;> omega
  have hbit : k * o.wid % 8 = e * o.wid % 8 := by rcases hw with h | h | h <;> rw [hk, h] <;> omega
  have hexp : 2 ^ (o.wid * e) = 256 ^ (e * o.wid / 8) * 2 ^ (e * o.wid % 8) := by
    rw [show (256 : Nat) = 2 ^ 8 by norm_num, ← pow_mul, ← pow_add, Nat.div_add_mod, Nat.mul_comm]
  have hwid : o.wid * e + o.wid - 1 + 1 - o.wid * e = o.wid := by rcases hw with h | h | h <;> rw [h] <;> omega
  rw [hwid, hexp, ← Nat.div_div_eq_div_mul, memNat_div, hbyte, hbit, ← Nat.add_assoc]
  refine field_of_memNat mem _ ?_ ?_ <;> rcases hw with h | h | h <;> rw [h] <;> omega

/-! ## The end of an MMAP and its mismatches (R169, R177, R179) -/

theorem mmapBlock_notDue (k : Nat) : NotDue (.mmapBlockComplete k) fun s => (grpOf s k).mmap = none := by
  intro s h
  show execMmapBlockComplete k s = _
  rw [execMmapBlockComplete, h]

/-- A group whose MMAP is over, before it wakes. -/
def endedGroup (g : Group) (m : MmapRec) : Group :=
  modFrag (unmapped none { addCuts (raise g.special m.flags) m.cuts with prog := 0 } g) (mmapFrag g) fun f =>
    { f with hold := .none, pc := pcAdd f.pc 4 }

theorem mmap_retires (k : Nat) (s : State) (m : MmapRec) (hm : (grpOf s k).mmap = some m) (hd : mmapBlocks m.word0 ≤ m.done) :
    ∃ t, exec (.mmapRetire k) s = .next t ∧ SameMemory s t ∧ (grpOf t k).mmap = none ∧ (grpOf t k).mmapSaved = none
    ∧ (grpOf t k).special = { addCuts (raise (grpOf s k).special m.flags) m.cuts with prog := 0 }
    ∧ (grpOf t k).regs = (grpOf s k).regs ∧ (grpOf t k).ops = (grpOf s k).ops := by
  let g := grpOf s k
  let u := setGrp s k (wake (endedGroup g m))
  have hu : grpOf u k = wake (endedGroup g m) := grpOf_setGrp_same ..
  have hexec : exec (.mmapRetire k) s
      = .next (wakeAll (endWrite u g.ident.team (pairKeys (teamOf s g.ident.team) g.ident.core m.base))) := by
    show execMmapRetire k s = _
    rw [execMmapRetire, hm]
    dsimp only
    rw [if_neg (by omega)]
    rfl
  obtain ⟨hmem, hgrp, -⟩ := woken_effects (elemsKept_endWrite u g.ident.team (pairKeys (teamOf s g.ident.team) g.ident.core m.base))
  refine ⟨_, hexec, sameMemory_trans (sameMemory_of_view (memView_setGrp ..)) hmem, ?_⟩
  rw [hgrp, hu]
  exact ⟨rfl, rfl, rfl, rfl, rfl⟩

theorem mmapRetire_notDue (k : Nat) (m : MmapRec) : NotDue (.mmapRetire k) fun s => (grpOf s k).mmap = some m ∧ m.done < mmapBlocks m.word0 := by
  rintro s ⟨hm, hd⟩
  show execMmapRetire k s = _
  rw [execMmapRetire, hm]
  exact if_pos hd

theorem arrayResidue_first (k n tile : Nat) (m : MmapRec) : FiresIn (.arrayResidueMismatch k n tile) k (fun s => (grpOf s k).mmap = some m ∧ m.id = n
      ∧ m.done < mmapBlocks m.word0 ∧ m.rerun.contains tile = false) fun s =>
    modGrp s k fun g => { g with mmap := some { m with rerun := m.rerun ++ [tile] } } := by
  rintro s ⟨hm, hid, hd, hr⟩
  refine ⟨?_, sameMemory_of_view (memView_modGrp ..), fun j hj => tblGet?_modGrp_other s _ hj⟩
  show execArrayResidueMismatch k n tile s = _
  rw [execArrayResidueMismatch, hm]
  dsimp only
  rw [if_pos hid, if_neg (by omega), hr]
  rfl

theorem causeWord_mismatch : causeWord { cls := 0x1C, status := 2 } false = 0x021C := by decide

theorem arrayResidue_again (k n tile : Nat) (m : MmapRec) (s : State) (hm : (grpOf s k).mmap = some m) (hid : m.id = n)
    (hd : m.done < mmapBlocks m.word0) (hr : m.rerun.contains tile = true) :
    ∃ t, exec (.arrayResidueMismatch k n tile) s = .next (blame t k (mmapFrag (grpOf s k)) 0x021C) ∧ SameMemory s t
      ∧ (grpOf t k).mmap = none
      ∧ (grpOf t k).special = { raise (grpOf s k).special m.flags with prog := BitVec.ofNat 64 (2 ^ 63 + m.done) } := by
  have hexec : exec (.arrayResidueMismatch k n tile) s = .next (blame (mmapStop s k m) k (mmapFrag (grpOf s k)) 0x021C) := by
    show execArrayResidueMismatch k n tile s = _
    rw [execArrayResidueMismatch, hm]
    dsimp only
    rw [if_pos hid, if_neg (by omega), hr, causeWord_mismatch]
    rfl
  let u := setGrp s k (stoppedGroup (grpOf s k) m)
  have hkept : ElemsKept u (mmapStop s k m) := by
    rw [mmapStop_eq]
    exact elemsKept_endWrite ..
  have hgrp : grpOf (mmapStop s k m) k = stoppedGroup (grpOf s k) m := by
    rw [grpOf, hkept.groups]
    exact grpOf_setGrp_same ..
  refine ⟨_, hexec, sameMemory_of_view (hkept.view.trans (memView_setGrp ..)), ?_⟩
  rw [hgrp]
  exact ⟨rfl, rfl⟩

theorem digitResidue_first (k j : Nat) (c : ChainRec) : FiresIn (.digitResidueMismatch k j) k (fun s => (fragOf s k j).hold = .chain
      ∧ chainOf (grpOf s k) (fragOf s k j) = some c ∧ c.rerun = false) fun s =>
    setGrp s k { grpOf s k with chains := (grpOf s k).chains.map fun x => if x.id = c.id then { x with rerun := true } else x } := by
  rintro s ⟨hhold, hc, hr⟩
  refine ⟨?_, sameMemory_of_view (memView_setGrp ..), fun i hi => tblGet?_set_other _ _ hi⟩
  show execDigitResidueMismatch k j s = _
  rw [execDigitResidueMismatch]
  dsimp only
  rw [fragOf] at hhold hc
  rw [if_neg (by simpa using hhold), hc]
  dsimp only
  rw [hr]
  rfl

theorem digitResidue_again (k j : Nat) (c : ChainRec) : Fires (.digitResidueMismatch k j) (fun s => (fragOf s k j).hold = .chain
      ∧ chainOf (grpOf s k) (fragOf s k j) = some c ∧ c.rerun = true) fun s =>
    blame (setGrp s k (wake { grpOf s k with
      chains := (grpOf s k).chains.filter fun x => x.id ≠ c.id
      frags := modNth (grpOf s k).frags j fun f => { f with hold := .none } })) k j 0x021C := by
  rintro s ⟨hhold, hc, hr⟩
  show execDigitResidueMismatch k j s = _
  rw [execDigitResidueMismatch]
  dsimp only
  rw [fragOf] at hhold hc
  rw [if_neg (by simpa using hhold), hc, causeWord_mismatch]
  dsimp only
  rw [hr]
  rfl

theorem blame_cases (s : State) (k j : Nat) (cause : DWord) : let g := grpOf s k
    ((g.hmode = true ∨ g.trapReq = none) → blame s k j cause = deliver s k cause (fragOf s k j).pc (fragOf s k j).mask)
    ∧ (g.hmode = false → g.trapReq ≠ none → blame s k j cause = setGrp s k (modFrag g j fun f => { f with due := some cause })) := by
  intro g
  constructor
  · intro h
    have hc : ¬ (g.trapReq.isSome && !g.hmode) = true := by
      rcases h with h | h <;> simp [h]
    exact if_neg hc
  · intro hm ht
    have hc : (g.trapReq.isSome && !g.hmode) = true := by
      rw [hm, Option.isSome_iff_ne_none.2 ht]
      rfl
    exact if_pos hc

/-! ## Special functions (R146, R148) -/

theorem modGrp_congr {s : State} {k : Nat} {f h : Group → Group} (heq : f (grpOf s k) = h (grpOf s k)) : modGrp s k f = modGrp s k h := by
  by_cases hp : (tblGet? s.groups k).isSome = true
  · rw [modGrp_present hp, modGrp_present hp, heq]
  · rw [Option.not_isSome_iff_eq_none] at hp
    rw [modGrp, modGrp, tblAdj, tblAdj, hp]

theorem modWin_congr {w : Nat} {f h : FeedWindow → FeedWindow} {g : Group}
    (heq : f (if w = 0 then g.win0 else g.win1) = h (if w = 0 then g.win0 else g.win1)) : modWin w f g = modWin w h g := by
  by_cases hw : w = 0
  · rw [modWin, modWin, if_pos hw, if_pos hw]
    rw [if_pos hw] at heq
    rw [heq]
  · rw [modWin, modWin, if_neg hw, if_neg hw]
    rw [if_neg hw] at heq
    rw [heq]

theorem entryTaken_fires (k w : Nat) (e : FeedEntry) (rest : List FeedEntry) : FiresIn (.specialFunctionEntryTaken k w) k (fun s =>
      (if w = 0 then (grpOf s k).win0 else (grpOf s k).win1).q0 = e :: rest
      ∧ q1Load (if w = 0 then (grpOf s k).win0 else (grpOf s k).win1) < 8) fun s =>
    modGrp s k fun g => wake (modWin w (fun x => { x with q0 := rest, taken := x.taken ++ [e] }) g) := by
  rintro s ⟨hq, hl⟩
  refine ⟨?_, sameMemory_of_view (memView_modGrp ..), fun j hj => tblGet?_modGrp_other s _ hj⟩
  show execSpecialFunctionEntryTaken k w s = _
  rw [execSpecialFunctionEntryTaken]
  refine congrArg Host.Outcome.next (modGrp_congr (congrArg wake (modWin_congr ?_)))
  simp only [hq, if_pos hl]

theorem result_fires (k w : Nat) (e : FeedEntry) (rest : List FeedEntry) : FiresIn (.specialFunctionResult k w) k (fun s =>
      (if w = 0 then (grpOf s k).win0 else (grpOf s k).win1).taken = e :: rest) fun s =>
    modGrp s k fun g => wake (modWin w (fun x => { x with taken := rest, q1 := x.q1 ++ [specialEntry e] }) g) := by
  intro s hq
  refine ⟨?_, sameMemory_of_view (memView_modGrp ..), fun j hj => tblGet?_modGrp_other s _ hj⟩
  show execSpecialFunctionResult k w s = _
  rw [execSpecialFunctionResult]
  refine congrArg Host.Outcome.next (modGrp_congr (congrArg wake (modWin_congr ?_)))
  simp only [hq]

theorem specialEntry_value (e : FeedEntry) (l : Nat) (hl : l < 64) (hm : inMask e.mask l = true) (hp : packed e.fmt = false) :
    ((specialEntry e).vals.getD l 0).toNat
      = (specialRnd (specialFn e.fn.toNat) (efmt e.fmt) (rmode e.rm) (dec (efmt e.fmt) (e.vals.getD l 0).toNat)).1 % 2 ^ 64 := by
  let F : Nat → Rounded := fun l => specialRnd (specialFn e.fn.toNat) (efmt e.fmt) (rmode e.rm) (dec (efmt e.fmt) (e.vals.getD l 0).toNat)
  have hvals : (specialEntry e).vals = (List.range 64).map fun l => BitVec.ofNat 64 (if inMask e.mask l then F l else (0, 0)).1 := by
    rw [specialEntry]
    simp only [laneResults, halves, hp, List.map_map]
    rfl
  rw [hvals, List.getD_eq_getElem?_getD, List.getElem?_map, List.getElem?_range hl, Option.map_some, Option.getD_some, if_pos hm]
  exact BitVec.toNat_ofNat ..

/-! ## Poison marks (R36, R290) -/

theorem poison_effects {k kind reg lane sub : Nat} {s : State} (f : Regs → Regs) (hp : (tblGet? s.groups k).isSome = true)
    (hf : exec (.registerPoison k kind reg lane sub) s = .next (modGrp s k fun g => { g with regs := f g.regs })) :
    ∃ t, exec (.registerPoison k kind reg lane sub) s = .next t ∧ SameMemory s t ∧ (grpOf t k).regs = f (grpOf s k).regs :=
  ⟨_, hf, sameMemory_of_view (memView_modGrp ..), by rw [groups_of_present hp]⟩

theorem getLsbD_or_bit {n : Nat} (b : BitVec n) {r j : Nat} (hr : r < n) : (b ||| (1#n <<< r)).getLsbD j = true ↔ j = r ∨ b.getLsbD j = true := by
  rw [BitVec.getLsbD_or, Bool.or_eq_true, or_comm]
  refine or_congr ?_ Iff.rfl
  rw [BitVec.getLsbD_shiftLeft, BitVec.getLsbD_one]
  simp only [Bool.and_eq_true, Bool.not_eq_true', decide_eq_false_iff_not, decide_eq_true_eq]
  omega

theorem inMask_or_laneBit (b : Mask) {l j : Nat} (hl : l < 64) : inMask (b ||| laneBit l) j = true ↔ j = l ∨ inMask b j = true :=
  getLsbD_or_bit b hl

theorem tblGet_tblMod_same {α : Type} [Inhabited α] (t : Tbl α) (k : Nat) (f : α → α) : tblGet (tblMod t k f) k = f (tblGet t k) := by
  rw [tblMod, tblGet, tblGet?_set_same]
  rfl

theorem tblGet_tblMod_other {α : Type} [Inhabited α] (t : Tbl α) {k j : Nat} (f : α → α) (h : j ≠ k) :
    tblGet (tblMod t k f) j = tblGet t j := by
  rw [tblMod, tblGet, tblGet?_set_other _ _ h]
  rfl

theorem poisonV_marks (k reg lane sub : Nat) (s : State) (hr : reg < 128) (hl : lane < 64) (hp : (tblGet? s.groups k).isSome = true) :
    ∃ t, exec (.registerPoison k 0 reg lane sub) s = .next t ∧ SameMemory s t
    ∧ (grpOf t k).regs.v = (grpOf s k).regs.v
    ∧ (sub = 0 → inMask (tblGet (grpOf t k).regs.badV reg).lo lane = true)
    ∧ (sub ≠ 0 → inMask (tblGet (grpOf t k).regs.badV reg).hi lane = true) := by
  obtain ⟨t, hexec, hmem, hregs⟩ := poison_effects (k := k) (kind := 0) (reg := reg) (lane := lane) (sub := sub) (fun r =>
    { r with badV := tblMod r.badV (reg % 128) fun b =>
      if sub = 0 then { b with lo := b.lo ||| laneBit (lane % 64) } else { b with hi := b.hi ||| laneBit (lane % 64) } }) hp rfl
  refine ⟨t, hexec, hmem, ?_⟩
  rw [hregs]
  dsimp only
  rw [Nat.mod_eq_of_lt hr, tblGet_tblMod_same, Nat.mod_eq_of_lt hl]
  refine ⟨rfl, fun h => ?_, fun h => ?_⟩
  · rw [if_pos h]
    exact (inMask_or_laneBit _ hl).2 (.inl rfl)
  · rw [if_neg h]
    exact (inMask_or_laneBit _ hl).2 (.inl rfl)

theorem poisonP_marks (k reg lane : Nat) (s : State) (hr : reg < 7) (hl : lane < 64) (hp : (tblGet? s.groups k).isSome = true) :
    ∃ t, exec (.registerPoison k 2 reg lane 0) s = .next t ∧ SameMemory s t ∧ (grpOf t k).regs.p = (grpOf s k).regs.p
    ∧ (∀ r l, inMask (tblGet (grpOf t k).regs.badP r) l = true ↔ (r = reg ∧ l = lane) ∨ inMask (tblGet (grpOf s k).regs.badP r) l = true) := by
  obtain ⟨t, hexec, hmem, hregs⟩ := poison_effects (k := k) (kind := 2) (reg := reg) (lane := lane) (sub := 0) (fun r =>
    if reg % 8 = 7 then r else { r with badP := tblMod r.badP (reg % 8) fun b => b ||| laneBit (lane % 64) }) hp rfl
  refine ⟨t, hexec, hmem, ?_⟩
  rw [hregs, Nat.mod_eq_of_lt (by omega : reg < 8), if_neg (by omega), Nat.mod_eq_of_lt hl]
  refine ⟨rfl, fun r l => ?_⟩
  by_cases h : r = reg
  · subst h
    rw [tblGet_tblMod_same, inMask_or_laneBit _ hl]
    simp
  · rw [tblGet_tblMod_other _ _ h]
    simp [h]

theorem poisonC_marks (k reg : Nat) (s : State) (hr : reg < 7) (hp : (tblGet? s.groups k).isSome = true) :
    ∃ t, exec (.registerPoison k 3 reg 0 0) s = .next t ∧ SameMemory s t ∧ (grpOf t k).regs.c = (grpOf s k).regs.c
    ∧ ∀ r, (grpOf t k).regs.badC.getLsbD r = true ↔ r = reg ∨ (grpOf s k).regs.badC.getLsbD r = true := by
  obtain ⟨t, hexec, hmem, hregs⟩ := poison_effects (k := k) (kind := 3) (reg := reg) (lane := 0) (sub := 0) (fun r =>
    if reg % 8 = 7 then r else { r with badC := r.badC ||| (1#8 <<< (reg % 8)) }) hp rfl
  refine ⟨t, hexec, hmem, ?_⟩
  rw [hregs, Nat.mod_eq_of_lt (by omega : reg < 8), if_neg (by omega)]
  exact ⟨rfl, fun r => getLsbD_or_bit _ (by omega)⟩

theorem poisonS_marks (k reg : Nat) (s : State) (hr : reg < 63) (hp : (tblGet? s.groups k).isSome = true) :
    ∃ t, exec (.registerPoison k 1 reg 0 0) s = .next t ∧ SameMemory s t ∧ (grpOf t k).regs.s = (grpOf s k).regs.s
    ∧ (grpOf t k).regs.badS.getLsbD reg = true := by
  obtain ⟨t, hexec, hmem, hregs⟩ := poison_effects (k := k) (kind := 1) (reg := reg) (lane := 0) (sub := 0) (fun r => poisonS r (reg % 64)) hp rfl
  refine ⟨t, hexec, hmem, ?_⟩
  rw [hregs, Nat.mod_eq_of_lt (by omega : reg < 64), poisonS, if_neg (by omega)]
  exact ⟨rfl, (getLsbD_or_bit _ (by omega)).2 (.inl rfl)⟩

end Sys2Proof.Proofs

/-! PROOFS. The landing of an engine operation, and all that retires (O48, its last part). -/

namespace Sys2Proof.Proofs

open Sys2Proof Sys2Proof.Machine Sys2Proof.Laws

/-! ## What the end of a landing leaves (R213, R227) -/

/-- What a landing tells of a group: its operations, its registers and its age. -/
def work (g : Group) : List FlightOp × Regs × Nat := (g.ops, g.regs, g.age)

/-- The engine operations and their locks on an island. -/
def slots (s : State) (i : Nat) : Tbl EngineOp × List RangeLock := ((islOf s i).mem.engines, (islOf s i).mem.locks)

/-- Bytes, engine operations and the groups' work are as before. -/
structure LandKept (s t : State) : Prop where
  mem : SameMemory s t
  slots : slots t = slots s
  work : ∀ k, (tblGet? t.groups k).map work = (tblGet? s.groups k).map work

theorem landKept_refl (s : State) : LandKept s s := ⟨sameMemory_refl s, rfl, fun _ => rfl⟩

theorem LandKept.trans {s t u : State} (a : LandKept s t) (b : LandKept t u) : LandKept s u :=
  ⟨sameMemory_trans a.mem b.mem, b.slots.trans a.slots, fun k => (b.work k).trans (a.work k)⟩

theorem slots_modIsl {f : Island → Island} (h : ∀ x, ((f x).mem.engines, (f x).mem.locks) = (x.mem.engines, x.mem.locks)) (s : State) (i : Nat) :
    slots (modIsl s i f) = slots s :=
  funext fun j => islOf_modIsl_keeps (g := fun x => (x.mem.engines, x.mem.locks)) (f := f) h s i j

theorem slots_sampleWaits (s : State) (i src c n : Nat) : slots (sampleWaits s i src c n) = slots s := by
  induction n generalizing s with
  | zero => rfl
  | succ n ih =>
    rw [sampleWaits, ih, sampleCtx]
    split
    · exact slots_modIsl (f := fun x => { x with monitors := sampleOwned x.monitors src c _ }) (fun _ => rfl) s i
    · rfl

theorem slots_releaseAcquires (s : State) (tm key : Nat) (b : Bar) : slots (releaseAcquires s tm key b) = slots s := by
  refine foldl_keeps slots (fun u p => ?_) _ _
  split
  · rw [slots_sampleWaits]
    exact slots_modIsl (f := fun x => { x with mem := dropSi x.mem (l1Of p.2.ident.pool p.2.ident.core) }) (fun _ => rfl) u _
  · rfl

theorem slots_barCheck (s : State) (tm key : Nat) : slots (barCheck s tm key) = slots s := by
  rw [barCheck]
  dsimp only
  split
  · exact slots_releaseAcquires ..
  · rfl

theorem work_releaseGroup (key : Nat) (b : Bar) (tick : Nat) (g : Group) : work (releaseGroup key b tick g) = work g := by
  rw [releaseGroup]
  split
  · dsimp only [work, wake, settle, learn]
    split <;> rfl
  · rfl

theorem work_afterPhase (tm key : Nat) (b : Bar) (tick : Nat) (g : Group) : work (afterPhase tm key b tick g) = work g := by
  rw [afterPhase]
  split
  · exact work_releaseGroup ..
  · rfl

theorem landKept_setBar (s : State) (tm key : Nat) (b : Bar) : LandKept s (setBar s tm key b) :=
  ⟨sameMemory_setBar .., rfl, fun _ => rfl⟩

/-- The check of a barrier leaves its engine's count and its pending bytes. -/
theorem barCheck_landed (s : State) {tm : Nat} (key : Nat) (ht : TeamIn s tm) :
    LandKept s (barCheck s tm key) ∧ (barOf (barCheck s tm key) tm key).eng = (barOf s tm key).eng
    ∧ (barOf (barCheck s tm key) tm key).pend = (barOf s tm key).pend := by
  by_cases h : (barOf s tm key).state = .armed ∧ (barOf s tm key).remain = 0 ∧ (barOf s tm key).pend = 0
  · obtain ⟨ha, hr, hp⟩ := h
    obtain ⟨u, tick, hteams, hgroups, hmem, heq⟩ := barCheck_completes ha hr hp
    have hslots := slots_barCheck s tm key
    have hu : TeamIn u tm := by rwa [TeamIn, hteams]
    have hbar : barOf (barCheck s tm key) tm key = phaseEnded (barOf s tm key) := by
      rw [heq]
      exact barOf_setBar_same (s := u) key _ hu
    refine ⟨⟨?_, hslots, fun k => ?_⟩, by rw [hbar]; rfl, by rw [hbar]; rfl⟩
    · rw [heq]
      exact sameMemory_trans hmem (sameMemory_setBar u tm key _)
    · rw [heq]
      show (tblGet? (s.groups.map fun p => (p.1, afterPhase tm key (phaseEnded (barOf s tm key)) tick p.2)) k).map work = _
      rw [tblGet?_map, Option.map_map]
      exact congrFun (congrArg Option.map (funext fun g => work_afterPhase ..)) _
  · rw [barCheck_stays h]
    exact ⟨landKept_refl s, rfl, rfl⟩

/-- An engine's bytes come off its barrier, within the bounds of the count (R227). -/
theorem barLand_landed (s : State) {tm : Nat} (key n : Nat) (ht : TeamIn s tm)
    (hi : (barOf s tm key).pend - n ≤ 2 ^ 39 - 1) (lo : -(2 ^ 39 : Int) ≤ (barOf s tm key).pend - n) :
    LandKept s (barLand s tm key n) ∧ (barOf (barLand s tm key n) tm key).eng = (barOf s tm key).eng - 1
    ∧ (barOf (barLand s tm key n) tm key).pend = (barOf s tm key).pend - n := by
  let b := barOf s tm key
  let b1 := rearm { b with eng := b.eng - 1 }
  let b2 : Bar := { b1 with pend := b1.pend + -(n : Int) }
  obtain ⟨-, -, hpend, -, heng⟩ := rearm_remain { b with eng := b.eng - 1 }
  have hland : barLand s tm key n = barCheck (setBar s tm key b2) tm key := by
    obtain ⟨t, hteam⟩ := Option.isSome_iff_exists.1 ht
    have hb : b1.pend + -(n : Int) = (barOf s tm key).pend - n := by rw [show b1.pend = b.pend from hpend]; exact (Int.sub_eq_add_neg).symm
    rw [barLand, hteam]
    refine if_neg ?_
    show ¬ (decide (b1.pend + -(n : Int) > 2 ^ 39 - 1) || decide (b1.pend + -(n : Int) < -(2 ^ 39 : Int))) = true
    rw [hb]
    simp only [Bool.or_eq_true, decide_eq_true_eq]
    omega
  have ht2 := teamIn_setBar key b2 ht
  obtain ⟨hkept, heng2, hpend2⟩ := barCheck_landed (setBar s tm key b2) key ht2
  rw [barOf_setBar_same key b2 ht] at heng2 hpend2
  rw [hland]
  refine ⟨(landKept_setBar ..).trans hkept, heng2.trans heng, hpend2.trans ?_⟩
  show b1.pend + -(n : Int) = _
  rw [show b1.pend = b.pend from hpend]
  exact (Int.sub_eq_add_neg).symm

/-- An island with some pins released. -/
def unpinned (frames : List Nat) (y : Island) : Island :=
  { y with mem := { y.mem with
      pins := (y.mem.pins.map fun p => if frames.contains p.frame then { p with count := p.count - 1 } else p).filter fun p =>
        p.count ≠ 0 } }

theorem slots_unpin (s : State) (i : Nat) (frames : List Nat) : slots (unpin s i frames) = slots s :=
  slots_modIsl (f := unpinned frames) (fun _ => rfl) s i

/-- The group's record of an operation ends (R227). -/
def landedGroup (n : Nat) (o : EngineOp) (bad : Bool) (g : Group) : Group :=
  let v := if bad then badStatus else BitVec.ofNat 64 o.count
  let g := if bad then holdFault g (causeWord { cls := 0x1C, status := 1 } false) o.pc else g
  wake { g with
    ops := g.ops.filter fun x => x.id ≠ n
    regs := if o.kind = .acp16 then g.regs else writeS g.regs o.d v }

theorem landGroup_eq (s : State) (n : Nat) (o : EngineOp) (bad : Bool) : landGroup s n o bad =
    match tblGet? s.groups o.grp with
    | none => s
    | some g => if g.age ≠ o.age then s else setGrp s o.grp (landedGroup n o bad g) := rfl

theorem landGroup_keeps (s : State) (n : Nat) (o : EngineOp) (bad : Bool) : (landGroup s n o bad).islands = s.islands
    ∧ (landGroup s n o bad).teams = s.teams ∧ (landGroup s n o bad).hostMem = s.hostMem := by
  rw [landGroup]
  split
  · exact ⟨rfl, rfl, rfl⟩
  · dsimp only
    split <;> exact ⟨rfl, rfl, rfl⟩

theorem landedGroup_work (n : Nat) (o : EngineOp) (bad : Bool) (g : Group) :
    (landedGroup n o bad g).ops = g.ops.filter (fun x => x.id ≠ n)
    ∧ (landedGroup n o bad g).regs
      = if o.kind = .acp16 then g.regs else writeS g.regs o.d (if bad then badStatus else BitVec.ofNat 64 o.count) := by
  cases bad with
  | false => exact ⟨rfl, rfl⟩
  | true =>
    have hfields : (holdFault g (causeWord { cls := 0x1C, status := 1 } false) o.pc).ops = g.ops
        ∧ (holdFault g (causeWord { cls := 0x1C, status := 1 } false) o.pc).regs = g.regs := by
      rw [holdFault, holdEntry]
      split <;> exact ⟨rfl, rfl⟩
    obtain ⟨hops, hregs⟩ := hfields
    rw [landedGroup]
    dsimp only [wake]
    rw [if_pos rfl, hops, hregs]
    exact ⟨rfl, rfl⟩

/-- The entry of operation n and its locks taken from an island. -/
def dropEngine (n : Nat) (m : IslandMem) : IslandMem :=
  { m with locks := m.locks.filter fun k => k.op ≠ n, engines := tblDel m.engines n }

theorem land_eq (s : State) (i n : Nat) (o : EngineOp) : land s i n o
    = wakeAll (unpin (landGroup (barLand (modMem (landData s i o).1 i (dropEngine n)) o.team o.bar o.count) n o (landData s i o).2) i o.pins) := rfl

/-- A landing after its data: the entry and its locks are gone, the barrier has its bytes, the group its status. -/
theorem landed_effects {s u : State} {i n : Nat} {o : EngineOp} {bad : Bool} (hu : landData s i o = (u, bad)) (hp : Present u i)
    (ht : TeamIn u o.team) (hi : (barOf u o.team o.bar).pend - o.count ≤ 2 ^ 39 - 1)
    (lo : -(2 ^ 39 : Int) ≤ (barOf u o.team o.bar).pend - o.count) :
    SameMemory u (land s i n o)
    ∧ tblGet? (islOf (land s i n o) i).mem.engines n = none ∧ (∀ l ∈ (islOf (land s i n o) i).mem.locks, l.op ≠ n)
    ∧ (barOf (land s i n o) o.team o.bar).eng = (barOf u o.team o.bar).eng - 1
    ∧ (barOf (land s i n o) o.team o.bar).pend = (barOf u o.team o.bar).pend - o.count
    ∧ ∀ g, tblGet? u.groups o.grp = some g → g.age = o.age →
      (grpOf (land s i n o) o.grp).ops = g.ops.filter (fun x => x.id ≠ n)
      ∧ (grpOf (land s i n o) o.grp).regs
        = if o.kind = .acp16 then g.regs else writeS g.regs o.d (if bad then badStatus else BitVec.ofNat 64 o.count) := by
  let v := modMem u i (dropEngine n)
  have hv : slots v i = (tblDel (islOf u i).mem.engines n, (islOf u i).mem.locks.filter fun k => k.op ≠ n) := by
    rw [slots, memOf_modMem hp]
    rfl
  obtain ⟨hkept, heng, hpend⟩ := barLand_landed v (key := o.bar) (n := o.count) ht hi lo
  have heq : land s i n o = wakeAll (unpin (landGroup (barLand v o.team o.bar o.count) n o bad) i o.pins) := by
    rw [land_eq, hu]
  generalize barLand v o.team o.bar o.count = w at hkept heng hpend heq
  obtain ⟨hisl, hteams, hhost⟩ := landGroup_keeps w n o bad
  generalize hx : landGroup w n o bad = x at hisl hteams hhost heq
  have hslots : slots (land s i n o) i = slots v i := by
    rw [heq]
    refine Eq.trans ?_ (congrFun hkept.slots i)
    refine Eq.trans (congrFun (slots_unpin x i o.pins) i) ?_
    rw [slots, slots, islOf_of_islands hisl]
  have hmemx : memView x = memView w := by rw [memView, memView, hisl, hteams, hhost]
  have hmem : SameMemory u (land s i n o) := by
    refine sameMemory_trans (sameMemory_trans (sameMemory_modMem u i (dropEngine n) fun _ => rfl) hkept.mem) ?_
    rw [heq]
    refine sameMemory_of_view ((memView_wakeAll _).trans (Eq.trans ?_ hmemx))
    exact memView_modIsl (f := unpinned o.pins) (fun _ => rfl) x i
  have hbar : barOf (land s i n o) o.team o.bar = barOf w o.team o.bar := by
    rw [heq]
    show barOf x o.team o.bar = _
    rw [barOf, teamOf, hteams, ← teamOf, ← barOf]
  have hslotn := hslots.trans hv
  refine ⟨hmem, ?_, fun l hl => ?_, by rw [hbar]; exact heng, by rw [hbar]; exact hpend, fun g hg hage => ?_⟩
  · rw [show (islOf (land s i n o) i).mem.engines = _ from congrArg Prod.fst hslotn]
    exact tblGet?_del_same ..
  · rw [show (islOf (land s i n o) i).mem.locks = _ from congrArg Prod.snd hslotn] at hl
    simpa using (List.mem_filter.1 hl).2
  · have hw := hkept.work o.grp
    rw [show v.groups = u.groups from rfl, hg] at hw
    obtain ⟨g', hg', hwork⟩ := Option.map_eq_some_iff.1 hw
    obtain ⟨hops, hregs, hage'⟩ : g'.ops = g.ops ∧ g'.regs = g.regs ∧ g'.age = g.age :=
      ⟨congrArg Prod.fst hwork, congrArg (fun p => p.2.1) hwork, congrArg (fun p => p.2.2) hwork⟩
    have hxg : grpOf x o.grp = landedGroup n o bad g' := by
      rw [← hx, landGroup_eq, hg']
      refine (congrArg (grpOf · o.grp) (if_neg (by rw [hage', hage]; exact fun h => h rfl))).trans ?_
      exact grpOf_setGrp_same ..
    have hgrp : grpOf (land s i n o) o.grp = wake (landedGroup n o bad g') := by
      rw [heq, grpOf_wakeAll, ← hxg]
      rfl
    obtain ⟨h1, h2⟩ := landedGroup_work n o bad g'
    rw [hops] at h1
    rw [hregs] at h2
    rw [hgrp]
    exact ⟨h1, h2⟩

/-! ## The data of a landing (R227, R240, R312) -/

/-- The bytes that a piece of a TSTO stores: the last keeps its high half where the piece ends within it. -/
def pieceBytes (m : Memory) (s : State) (i a : Nat) (p : EnginePiece) : List Byte :=
  let n := Machine.bytesOf p.bits
  if p.bits % 8 = 0 then memBytes m p.taddr n
  else (memBytes m p.taddr n).zipIdx.map fun x =>
    if x.2 = n - 1 then (x.1 &&& 0x0F) ||| ((physBytes s i (a + n - 1) 1).headD 0 &&& 0xF0) else x.1

theorem pieceBytes_length (m : Memory) (s : State) (i a : Nat) (p : EnginePiece) : (pieceBytes m s i a p).length = Machine.bytesOf p.bits := by
  rw [pieceBytes]
  split
  · exact memBytes_length ..
  · rw [List.length_map, List.length_zipIdx, memBytes_length]

theorem landStore_some {p : EnginePiece} {a : Nat} (h : p.phys = some a) (i core : Nat) (m : Memory) (s : State) : landStore i core m s p
    = modMem (clearMarks (physPut (setDirty s i a p.dirtyAt) i a (pieceBytes m s i a p)) i (wholeQuarters a (p.bits / 8))) i
        fun x => cacheAccess x p.vn core 1024 (a / 64) 0 .store := by
  rw [landStore, h]
  rfl

theorem landStore_none {p : EnginePiece} (h : p.phys = none) (i core : Nat) (m : Memory) (s : State) : landStore i core m s p = s := by
  rw [landStore, h]

theorem ownMem_landStore (i core : Nat) (m : Memory) (s : State) (p : EnginePiece) : OwnMem i s (landStore i core m s p) := by
  cases h : p.phys with
  | none =>
    rw [landStore_none h]
    exact ownMem_refl i s
  | some a =>
    rw [landStore_some h]
    exact ownMem_trans (ownMem_setDirty ..) (ownMem_trans (ownMem_physPut ..) (ownMem_trans (ownMem_clearMarks ..) (ownMem_modMem ..)))

theorem memView_landStore {p : EnginePiece} {a : Nat} (h : p.phys = some a) (i core : Nat) (m : Memory) (s : State) :
    memView (landStore i core m s p) = memView (physPut (setDirty s i a p.dirtyAt) i a (pieceBytes m s i a p)) := by
  rw [landStore_some h]
  exact (memView_modMem (fun m => memPart_cacheAccess ..) _ i).trans (memView_clearMarks ..)

/-- A piece's stores leave every entry that they do not cover as it was walked. -/
theorem sound_landStore {i core : Nat} {m : Memory} {s : State} {p : EnginePiece} {d : DirtyRef}
    (hp : ∀ e, p.dirtyAt = some e → Sound s i e) (hd : Sound s i d)
    (hc : ∀ b, p.phys = some b → b + Machine.bytesOf p.bits ≤ d.addr ∨ d.addr + 8 ≤ b) : Sound (landStore i core m s p) i d := by
  cases h : p.phys with
  | none => rwa [landStore_none h]
  | some a =>
    refine sound_of_view (memView_landStore h ..) ?_
    obtain ⟨hw, ha⟩ := sound_setDirty (phys := a) hp hd
    refine ⟨?_, ha⟩
    rw [StillWalked, entryAt_physPut_apart (by rw [pieceBytes_length]; exact hc a h)]
    exact hw

theorem byteAt_landStore_other {i core : Nat} {m : Memory} {s : State} {p : EnginePiece} {isl x : Nat}
    (hp : ∀ e, p.dirtyAt = some e → Sound s i e) (hc : PieceClears isl x i p) : byteAt (landStore i core m s p) isl x = byteAt s isl x := by
  obtain ⟨hbytes, hentry⟩ := hc
  cases h : p.phys with
  | none => rw [landStore_none h]
  | some a =>
    rw [byteAt_of_view (memView_landStore h ..), byteAt_physPut_other (by rw [pieceBytes_length]; exact hbytes a h)]
    exact byteAt_setDirty_other (fun e he => (hp e he).1) hentry

theorem byteAt_landStore_same {i core a j : Nat} {m : Memory} {s : State} {p : EnginePiece} (hpres : Present s i) (h : p.phys = some a)
    (hb : p.bits % 8 = 0) (hj : j < p.bits / 8) (hside : a + p.bits / 8 ≤ hostBase ∨ hostBase ≤ a) :
    byteAt (landStore i core m s p) i (a + j) = memGet m (p.taddr + j) := by
  have hlen : Machine.bytesOf p.bits = p.bits / 8 := by rw [Machine.bytesOf]; omega
  have hpres2 : Present (setDirty s i a p.dirtyAt) i := by rw [Present, (ownMem_setDirty ..).present]; exact hpres
  have hbytes : pieceBytes m s i a p = memBytes m p.taddr (p.bits / 8) := by
    rw [pieceBytes, ← hlen]
    exact if_pos hb
  rw [byteAt_of_view (memView_landStore h ..), hbytes,
    byteAt_physPut_same hpres2 (by rw [memBytes_length]; exact hj) (by rw [memBytes_length]; exact hside)]
  exact memBytes_getElem ..

/-- The pieces' entries hold what was walked, and no piece's bytes lie in one. -/
def PiecesSound (s : State) (i : Nat) (ps : List EnginePiece) : Prop :=
  ∀ p ∈ ps, ∀ e, p.dirtyAt = some e → Sound s i e ∧ ∀ q ∈ ps, ∀ b, q.phys = some b → b + Machine.bytesOf q.bits ≤ e.addr ∨ e.addr + 8 ≤ b

theorem piecesSound_of_walked {s : State} {i : Nat} {ps : List EnginePiece} (h : PiecesWalked s i ps) : PiecesSound s i ps :=
  fun p hp e he => by
    obtain ⟨ha, hw, hc⟩ := h p hp e he
    exact ⟨⟨hw, ha⟩, hc⟩

theorem PiecesSound.step {s : State} {i core : Nat} {m : Memory} {p : EnginePiece} {ps : List EnginePiece} (h : PiecesSound s i (p :: ps)) :
    PiecesSound (landStore i core m s p) i ps := fun q hq e he => by
  obtain ⟨hs, hc⟩ := h q (List.mem_cons_of_mem _ hq) e he
  exact ⟨sound_landStore (fun d hd => (h p List.mem_cons_self d hd).1) hs (hc p List.mem_cons_self),
    fun r hr => hc r (List.mem_cons_of_mem _ hr)⟩

theorem byteAt_landStores_other {i core : Nat} {m : Memory} {s : State} {ps : List EnginePiece} {isl x : Nat} (h : PiecesSound s i ps)
    (hc : ∀ p ∈ ps, PieceClears isl x i p) : byteAt (ps.foldl (landStore i core m) s) isl x = byteAt s isl x := by
  induction ps generalizing s with
  | nil => rfl
  | cons p ps ih =>
    rw [List.foldl_cons, ih h.step fun q hq => hc q (List.mem_cons_of_mem _ hq)]
    exact byteAt_landStore_other (fun e he => (h p List.mem_cons_self e he).1) (hc p List.mem_cons_self)

theorem byteAt_landStores_same {i core a j : Nat} {m : Memory} {s : State} {before after : List EnginePiece} {p : EnginePiece}
    (h : PiecesSound s i (before ++ p :: after)) (hpres : Present s i) (hp : p.phys = some a) (hb : p.bits % 8 = 0) (hj : j < p.bits / 8)
    (hside : a + p.bits / 8 ≤ hostBase ∨ hostBase ≤ a) (hc : ∀ q ∈ after, PieceClears i (a + j) i q) :
    byteAt ((before ++ p :: after).foldl (landStore i core m) s) i (a + j) = memGet m (p.taddr + j) := by
  induction before generalizing s with
  | nil =>
    show byteAt (after.foldl (landStore i core m) (landStore i core m s p)) i (a + j) = _
    rw [byteAt_landStores_other h.step hc]
    exact byteAt_landStore_same hpres hp hb hj hside
  | cons q before ih => exact ih h.step (by rw [Present, (ownMem_landStore ..).present]; exact hpres)

theorem ownMem_landStores (i core : Nat) (m : Memory) (s : State) (ps : List EnginePiece) : OwnMem i s (ps.foldl (landStore i core m) s) :=
  ownMem_foldl (fun s p => ownMem_landStore i core m s p) ps s

theorem landStores_view {s : State} (i core : Nat) (m : Memory) (ps : List EnginePiece) :
    (ps.foldl (landStore i core m) s).groups = s.groups ∧ (ps.foldl (landStore i core m) s).teams = s.teams := by
  rw [(ownMem_landStores i core m s ps).outside]
  exact ⟨rfl, rfl⟩

/-- The state in which a TSTO stores: lost words that it reads are held against its group (R421). -/
def storesFrom (s : State) (o : EngineOp) : State :=
  if touchesDead (teamOf s o.team) (o.pieces.map fun p => (p.taddr, Machine.bytesOf p.bits)) then holdLost s o.grp o.pc else s

theorem storesFrom_held (s : State) (o : EngineOp) : HeldOnly s (storesFrom s o) := by
  rw [storesFrom]
  split
  · exact heldOnly_holdLost ..
  · exact heldOnly_refl s

theorem landData_tsto {s : State} {i : Nat} {o : EngineOp} (ht : TeamIn s o.team) (hk : o.kind = .tsto) : landData s i o
    = (o.pieces.foldl (landStore i (tblGet s.groups o.grp).ident.core (teamOf s o.team).mem) (storesFrom s o), false) := by
  obtain ⟨t, hteam⟩ := Option.isSome_iff_exists.1 ht
  have hof : teamOf s o.team = t := by rw [teamOf, tblGet, hteam]; rfl
  rw [landData, hteam, storesFrom, hof]
  exact if_pos hk

/-- Sectors that an operation reads are used. -/
def touchPieces (i core : Nat) (s : State) (ps : List EnginePiece) : State :=
  ps.foldl (fun s p => match p.phys with
    | some a => modMem s i fun x => vcTouch x p.vn core (a / 64) false
    | none => s) s

/-- What a TCOPY or an ACP16 writes into team memory. -/
def landWrites (s : State) (i : Nat) (o : EngineOp) : List (Nat × List Byte) :=
  (o.clear.map fun c => (c.1, List.replicate c.2 (0 : Byte))) ++ (landReads s i o.pieces).1

theorem landData_reads {s : State} {i : Nat} {o : EngineOp} (ht : TeamIn s o.team) (hk : o.kind ≠ .tsto) : landData s i o
    = (modTeam (touchPieces i (tblGet s.groups o.grp).ident.core s o.pieces) o.team (fun t => teamPut t (landWrites s i o)),
      (landReads s i o.pieces).2) := by
  obtain ⟨t, hteam⟩ := Option.isSome_iff_exists.1 ht
  rw [landData, hteam]
  refine (if_neg hk).trans ?_
  rfl

theorem ownMem_touchPieces (i core : Nat) (s : State) (ps : List EnginePiece) : OwnMem i s (touchPieces i core s ps) := by
  refine ownMem_foldl (fun s p => ?_) ps s
  cases h : p.phys with
  | none => exact ownMem_refl i s
  | some a => exact ownMem_modMem ..

theorem memView_touchPieces (i core : Nat) (s : State) (ps : List EnginePiece) : memView (touchPieces i core s ps) = memView s := by
  refine memView_foldl (fun s p => ?_) ps s
  cases h : p.phys with
  | none => rfl
  | some a => exact memView_modMem (fun m => memPart_vcTouch ..) s i

/-! ### What a read brings -/

/-- The team bytes of a piece that is read, quarters with poison as zero. -/
def readBytes (s : State) (i : Nat) (p : EnginePiece) : List Byte :=
  match p.phys with
  | some a => trimBits (pieceData s i a (Machine.bytesOf p.bits)).1 p.bits
  | none => List.replicate (Machine.bytesOf p.bits) 0

theorem landReads_eq (s : State) (i : Nat) (ps : List EnginePiece) :
    (landReads s i ps).1 = ps.map fun p => (p.taddr, readBytes s i p) := by
  rw [landReads, List.map_map]
  refine List.map_congr_left fun p _ => ?_
  rw [Function.comp_apply, readBytes]
  cases p.phys <;> rfl

theorem trimBits_length (bs : List Byte) (n : Nat) : (trimBits bs n).length = bs.length := by
  rw [trimBits]
  split
  · rfl
  · rw [List.length_map, List.length_zipIdx]

theorem readBytes_length (s : State) (i : Nat) (p : EnginePiece) : (readBytes s i p).length = Machine.bytesOf p.bits := by
  rw [readBytes]
  cases p.phys with
  | none => exact List.length_replicate
  | some a =>
    show (trimBits (pieceData s i a (Machine.bytesOf p.bits)).1 p.bits).length = _
    rw [trimBits_length]
    simp only [pieceData, List.length_map, List.length_range]

theorem readBytes_at {s : State} {i j : Nat} {p : EnginePiece} (hb : p.bits % 8 = 0) (hj : j < (readBytes s i p).length) :
    (readBytes s i p)[j] = match p.phys with
      | some a => if marked s i (a + j) then 0 else byteAt s i (a + j)
      | none => 0 := by
  have hget : (readBytes s i p)[j]? = some (match p.phys with
      | some a => if marked s i (a + j) then 0 else byteAt s i (a + j)
      | none => 0) := by
    have hlt : j < Machine.bytesOf p.bits := by rwa [readBytes_length] at hj
    rw [readBytes]
    cases p.phys with
    | none => exact List.getElem?_replicate_of_lt hlt
    | some a =>
      show (trimBits (pieceData s i a (Machine.bytesOf p.bits)).1 p.bits)[j]? = _
      rw [trimBits, if_pos hb, pieceData]
      simp only [List.map_map, List.getElem?_map, List.getElem?_range hlt, Option.map_some, Function.comp_apply]
      refine congrArg some ?_
      split <;> rfl
  exact (List.getElem?_eq_some_iff.1 hget).2

theorem landWrites_outside {s : State} {i x : Nat} {o : EngineOp} (hclear : ∀ c ∈ o.clear, x < c.1 ∨ c.1 + c.2 ≤ x)
    (hp : ∀ p ∈ o.pieces, x < p.taddr ∨ p.taddr + Machine.bytesOf p.bits ≤ x) :
    ∀ w ∈ landWrites s i o, x < w.1 ∨ w.1 + w.2.length ≤ x := by
  intro w hw
  rw [landWrites, landReads_eq] at hw
  rcases List.mem_append.1 hw with h | h
  · obtain ⟨c, hc, rfl⟩ := List.mem_map.1 h
    simpa using hclear c hc
  · obtain ⟨p, hpp, rfl⟩ := List.mem_map.1 h
    simpa only [readBytes_length] using hp p hpp

theorem landWrites_inside {s : State} {i j : Nat} {o : EngineOp} {before after : List EnginePiece} {p : EnginePiece}
    (ho : o.pieces = before ++ p :: after) (hb : p.bits % 8 = 0) (hj : j < p.bits / 8)
    (hq : ∀ q ∈ after, p.taddr + j < q.taddr ∨ q.taddr + Machine.bytesOf q.bits ≤ p.taddr + j) (m : Memory) :
    memGet ((landWrites s i o).foldl (fun m w => memPut m w.1 w.2) m) (p.taddr + j) = match p.phys with
      | some a => if marked s i (a + j) then 0 else byteAt s i (a + j)
      | none => 0 := by
  have hlen : j < (readBytes s i p).length := by rw [readBytes_length, Machine.bytesOf]; omega
  have hsplit : landWrites s i o = ((o.clear.map fun c => (c.1, List.replicate c.2 (0 : Byte))) ++ before.map fun p => (p.taddr, readBytes s i p))
      ++ (p.taddr, readBytes s i p) :: after.map fun p => (p.taddr, readBytes s i p) := by
    rw [landWrites, landReads_eq, ho, List.map_append, List.map_cons, List.append_assoc]
  rw [hsplit]
  refine (memGet_puts_inside (w := (p.taddr, readBytes s i p)) hlen (fun v hv => ?_) m).trans (readBytes_at hb hlen)
  obtain ⟨q, hqq, rfl⟩ := List.mem_map.1 hv
  simpa only [readBytes_length] using hq q hqq

end Sys2Proof.Proofs

/-! PROOFS. Landings, clause by clause, and O48. -/

namespace Sys2Proof.Proofs

open Sys2Proof Sys2Proof.Machine Sys2Proof.Laws

theorem piecesReach_iff (s : State) (ps : List EnginePiece) : piecesReach s ps = true ↔ PiecesReached s ps := by
  rw [piecesReach, List.all_eq_true]
  refine forall_congr' fun p => forall_congr' fun _ => ?_
  cases p.phys with
  | none => simp
  | some a => cases h : isHost a <;> simp [reachable, h]

theorem present_of_engine {s : State} {i n : Nat} {o : EngineOp} (h : tblGet? (islOf s i).mem.engines n = some o) : Present s i := by
  cases hp : tblGet? s.islands i with
  | none =>
    rw [islOf, tblGet, hp] at h
    cases h
  | some x => exact Option.isSome_iff_exists.2 ⟨x, hp⟩

theorem HeldOnly.work {s t : State} (h : HeldOnly s t) (k : Nat) :
    (tblGet? t.groups k).map work = (tblGet? s.groups k).map work := by
  have hg : Proofs.work (grpOf t k) = Proofs.work (grpOf s k) := h.keeps (g := Proofs.work) (fun _ => rfl) k
  have hp := h.present k
  rw [grpOf, grpOf, tblGet, tblGet] at hg
  generalize tblGet? t.groups k = x at hg hp ⊢
  generalize tblGet? s.groups k = y at hg hp ⊢
  cases x with
  | none =>
    cases y with
    | none => rfl
    | some g => cases hp
  | some g =>
    cases y with
    | none => cases hp
    | some g' => exact congrArg some hg

/-- What the data of a landing leaves: islands and teams stand, barriers and the groups' work are as before. -/
structure DataMoved (i : Nat) (o : EngineOp) (s t : State) : Prop where
  present : Present t i
  team : TeamIn t o.team
  bars : barOf t o.team o.bar = barOf s o.team o.bar
  work : ∀ k, (tblGet? t.groups k).map work = (tblGet? s.groups k).map work

theorem dataMoved_tsto {s : State} {i : Nat} {o : EngineOp} (ht : TeamIn s o.team) (hp : Present s i) (m : Memory) (core : Nat) :
    DataMoved i o s (o.pieces.foldl (landStore i core m) (storesFrom s o)) := by
  have hheld := storesFrom_held s o
  obtain ⟨hg, htm⟩ := landStores_view (s := storesFrom s o) i core m o.pieces
  refine ⟨?_, ?_, ?_, fun k => ?_⟩
  · rw [Present, (ownMem_landStores ..).present, hheld.islands]
    exact hp
  · rw [TeamIn, htm, hheld.teams]
    exact ht
  · rw [barOf, teamOf, htm, hheld.teams]
    rfl
  · rw [hg]
    exact hheld.work k

theorem dataMoved_reads {s : State} {i : Nat} {o : EngineOp} (ht : TeamIn s o.team) (hp : Present s i) (core : Nat) :
    DataMoved i o s (modTeam (touchPieces i core s o.pieces) o.team (fun t => teamPut t (landWrites s i o))) := by
  have hown := ownMem_touchPieces i core s o.pieces
  generalize touchPieces i core s o.pieces = u at hown
  obtain ⟨hteams, hgroups⟩ : u.teams = s.teams ∧ u.groups = s.groups := by rw [hown.outside]; exact ⟨rfl, rfl⟩
  have hu : TeamIn u o.team := by rwa [TeamIn, hteams]
  refine ⟨hown.present.trans hp, ?_, ?_, fun k => by rw [modTeam_groups, hgroups]⟩
  · rw [TeamIn, modTeam, tblGet?_adj_same]
    exact (Option.isSome_map ..).trans hu
  · rw [barOf, teamOf_modTeam_keeps (g := Team.bars) (f := fun t => teamPut t (landWrites s i o)) fun _ => rfl]
    rw [teamOf, hteams]
    rfl

/-- What a landing leaves apart from the data it moved. -/
theorem land_rest {s u : State} {i n : Nat} {o : EngineOp} {bad : Bool} (hu : landData s i o = (u, bad)) (hm : DataMoved i o s u)
    (hi : (barOf s o.team o.bar).pend - o.count ≤ 2 ^ 39 - 1) (lo : -(2 ^ 39 : Int) ≤ (barOf s o.team o.bar).pend - o.count) :
    SameMemory u (land s i n o)
    ∧ tblGet? (islOf (land s i n o) i).mem.engines n = none ∧ (∀ l ∈ (islOf (land s i n o) i).mem.locks, l.op ≠ n)
    ∧ (barOf (land s i n o) o.team o.bar).eng = (barOf s o.team o.bar).eng - 1
    ∧ (barOf (land s i n o) o.team o.bar).pend = (barOf s o.team o.bar).pend - o.count
    ∧ ∀ g, tblGet? s.groups o.grp = some g → g.age = o.age →
      (grpOf (land s i n o) o.grp).ops = g.ops.filter (fun x => x.id ≠ n)
      ∧ (grpOf (land s i n o) o.grp).regs
        = if o.kind = .acp16 then g.regs else writeS g.regs o.d (if bad then badStatus else BitVec.ofNat 64 o.count) := by
  obtain ⟨hpres, hteam, hbars, hwork⟩ := hm
  obtain ⟨hmem, heng, hlocks, hbeng, hbpend, hgrp⟩ := landed_effects (n := n) hu hpres hteam (by rw [hbars]; exact hi) (by rw [hbars]; exact lo)
  rw [hbars] at hbeng hbpend
  refine ⟨hmem, heng, hlocks, hbeng, hbpend, fun g hg hage => ?_⟩
  have hw := hwork o.grp
  rw [hg] at hw
  obtain ⟨g', hg', hwk⟩ := Option.map_eq_some_iff.1 hw
  obtain ⟨hops, hregs, hage'⟩ : g'.ops = g.ops ∧ g'.regs = g.regs ∧ g'.age = g.age :=
    ⟨congrArg Prod.fst hwk, congrArg (fun p => p.2.1) hwk, congrArg (fun p => p.2.2) hwk⟩
  rw [← hops, ← hregs]
  exact hgrp g' hg' (hage'.trans hage)

/-- The data of a TSTO: its pieces' bytes come from team memory, every other byte of the machine stays. -/
theorem data_tsto {s : State} {i : Nat} {o : EngineOp} (hp : Present s i) (m : Memory) (core : Nat) :
    let u := o.pieces.foldl (landStore i core m) (storesFrom s o)
    (∀ tm x, memGet (teamOf u tm).mem x = memGet (teamOf s tm).mem x)
    ∧ (PiecesWalked s i o.pieces → ∀ j a, (∀ p ∈ o.pieces, PieceClears j a i p) → byteAt u j a = byteAt s j a)
    ∧ (PiecesWalked s i o.pieces → ∀ before p after a j, o.pieces = before ++ p :: after → p.phys = some a → p.bits % 8 = 0 →
      j < p.bits / 8 → (a + p.bits / 8 ≤ hostBase ∨ hostBase ≤ a) → (∀ q ∈ after, PieceClears i (a + j) i q) →
      byteAt u i (a + j) = memGet m (p.taddr + j)) := by
  intro u
  have hheld := storesFrom_held s o
  have hview := hheld.view
  have hsound : PiecesWalked s i o.pieces → PiecesSound (storesFrom s o) i o.pieces := fun h p hpp e he => by
    obtain ⟨hs, hc⟩ := piecesSound_of_walked h p hpp e he
    exact ⟨sound_of_view hview hs, hc⟩
  have hpres : Present (storesFrom s o) i := by rwa [Present, hheld.islands]
  refine ⟨fun tm x => ?_, fun hw j a hc => ?_, fun hw before p after a j ho hphys hb hj hside hc => ?_⟩
  · rw [teamOf, (landStores_view i core m o.pieces).2, hheld.teams]
    rfl
  · exact (byteAt_landStores_other (hsound hw) hc).trans (byteAt_of_view hview j a)
  · have hs := hsound hw
    show byteAt (o.pieces.foldl (landStore i core m) (storesFrom s o)) i (a + j) = _
    rw [ho] at hs ⊢
    exact byteAt_landStores_same hs hpres hphys hb hj hside hc

/-- The data of a TCOPY or an ACP16: its pieces' bytes come to team memory, every other byte of the machine stays. -/
theorem data_reads {s : State} {i : Nat} {o : EngineOp} (ht : TeamIn s o.team) (core : Nat) :
    let u := modTeam (touchPieces i core s o.pieces) o.team (fun t => teamPut t (landWrites s i o))
    (∀ j a, byteAt u j a = byteAt s j a)
    ∧ (∀ tm, tm ≠ o.team → ∀ x, memGet (teamOf u tm).mem x = memGet (teamOf s tm).mem x)
    ∧ (∀ x, ¬ Lost (teamOf s o.team) x →
      memGet (teamOf u o.team).mem x = memGet ((landWrites s i o).foldl (fun m w => memPut m w.1 w.2) (teamOf s o.team).mem) x) := by
  intro u
  have hteams : (touchPieces i core s o.pieces).teams = s.teams := by rw [(ownMem_touchPieces i core s o.pieces).outside]
  have hteam : teamOf u o.team = teamPut (teamOf s o.team) (landWrites s i o) := by
    show teamOf (modTeam (touchPieces i core s o.pieces) o.team _) o.team = _
    rw [teamOf_modTeam_same _ (by rwa [TeamIn, hteams]), teamOf, hteams, ← teamOf]
  refine ⟨fun j a => ?_, fun tm htm x => ?_, fun x hx => ?_⟩
  · exact byteAt_of_view (s := s) (t := touchPieces i core s o.pieces) (memView_touchPieces ..) j a
  · show memGet (teamOf (modTeam (touchPieces i core s o.pieces) o.team _) tm).mem x = _
    rw [teamOf_modTeam_other _ _ htm, teamOf, hteams, ← teamOf]
  · rw [hteam]
    exact memGet_teamPut hx

/-- A landing as R227 has it, whichever event it is that brings it. -/
theorem lands_of {i n : Nat} {ev : Instr} {own : EngineOp → Prop}
    (hdue : ∀ s o, tblGet? (islOf s i).mem.engines n = some o → own o → PiecesReached s o.pieces → exec ev s = .next (land s i n o))
    (hnot : ∀ s o, tblGet? (islOf s i).mem.engines n = some o → ¬ PiecesReached s o.pieces → exec ev s = .next s) : Lands i n ev own := by
  refine ⟨fun s ⟨o, ho, hr⟩ => hnot s o ho hr, fun s o ho hown hr ht => ?_⟩
  intro b bad hi lo
  have hp := present_of_engine ho
  refine ⟨land s i n o, hdue s o ho hown hr, ?_⟩
  by_cases hk : o.kind = .tsto
  · obtain ⟨hteam, hother, hsame⟩ := data_tsto hp (o := o) (teamOf s o.team).mem (tblGet s.groups o.grp).ident.core
    obtain ⟨hmem, heng, hlocks, hbeng, hbpend, hgrp⟩ := land_rest (n := n) (landData_tsto (i := i) ht hk) (dataMoved_tsto ht hp _ _) hi lo
    have hacp : o.kind ≠ .acp16 := by rw [hk]; exact Engine.noConfusion
    refine ⟨heng, hlocks, hbeng, hbpend, fun g hg hage => ?_, fun h => absurd hk h, fun _ hw j a hc => ?_,
      fun _ hw before p after a j hpieces hphys hb hj hside hc => ?_, fun tm _ x => (hmem.2 tm x).trans (hteam tm x),
      fun x _ _ _ => (hmem.2 o.team x).trans (hteam o.team x), fun h => absurd hk h⟩
    · obtain ⟨hops, hregs⟩ := hgrp g hg hage
      rw [if_neg hacp] at hregs
      exact ⟨hops, fun h => absurd h hacp, fun _ hb => absurd hk hb.1, fun _ _ => hregs⟩
    · exact (hmem.1 j a).trans (hother hw j a hc)
    · exact (hmem.1 i (a + j)).trans (hsame hw before p after a j hpieces hphys hb hj hside hc)
  · obtain ⟨hbytes, hteam, hput⟩ := data_reads (i := i) ht (tblGet s.groups o.grp).ident.core
    obtain ⟨hmem, heng, hlocks, hbeng, hbpend, hgrp⟩ := land_rest (n := n) (landData_reads (i := i) ht hk) (dataMoved_reads ht hp _) hi lo
    refine ⟨heng, hlocks, hbeng, hbpend, fun g hg hage => ?_, fun _ j a => (hmem.1 j a).trans (hbytes j a), fun h => absurd h hk,
      fun h => absurd h hk, fun tm htm x => (hmem.2 tm x).trans (hteam tm (htm.resolve_right hk) x), fun x hx hclear hpieces => ?_,
      fun _ before p after j hsplit hb hj hx hafter => ?_⟩
    · obtain ⟨hops, hregs⟩ := hgrp g hg hage
      refine ⟨hops, fun h => hregs.trans (if_pos h), fun h hb => ?_, fun h hb => ?_⟩
      · rw [if_neg h, if_pos hb.2] at hregs
        exact hregs
      · rw [if_neg h, if_neg fun hr => hb ⟨hk, hr⟩] at hregs
        exact hregs
    · exact (hmem.2 o.team x).trans ((hput x hx).trans (memGet_puts_outside (landWrites_outside hclear hpieces) _))
    · exact (hmem.2 o.team _).trans ((hput _ hx).trans (landWrites_inside hsplit hb hj hafter _))

theorem engine_lands (i n : Nat) : Lands i n (.engineLanding i n) fun o => o.kind ≠ .acp16 := by
  refine lands_of (fun s o ho hk hr => ?_) fun s o ho hr => ?_
  · show execEngineLanding i n s = _
    rw [execEngineLanding, ho]
    dsimp only
    rw [(piecesReach_iff s o.pieces).2 hr, if_neg (by simpa using hk)]
  · show execEngineLanding i n s = _
    rw [execEngineLanding, ho]
    dsimp only
    rw [Bool.eq_false_iff.2 fun h => hr ((piecesReach_iff s o.pieces).1 h), if_pos (by simp)]

theorem acp16_lands (i n : Nat) : Lands i n (.acp16Landing i n) fun o => o.kind = .acp16 := by
  refine lands_of (fun s o ho hk hr => ?_) fun s o ho hr => ?_
  · show execAcp16Landing i n s = _
    rw [execAcp16Landing, ho]
    dsimp only
    rw [(piecesReach_iff s o.pieces).2 hr, if_pos (by simpa using hk)]
  · show execAcp16Landing i n s = _
    rw [execAcp16Landing, ho]
    dsimp only
    rw [Bool.eq_false_iff.2 fun h => hr ((piecesReach_iff s o.pieces).1 h), if_neg (by simp)]

/-- Settles O48: one lemma for each kind of operation that is complete. -/
theorem operationsRetire : Obligations.OperationsRetire := by
  unfold Obligations.OperationsRetire
  refine ⟨loadReturn_due, loadReturn_notDue, keepsWrite_iff, storePerformed_due, tprefLanding_due, tld_retires, ?_⟩
  refine ⟨tst_retires, tepi_retires, mma_retires, ?_⟩
  refine ⟨fun k s m hm hd hturn hp ht => mmap_block k s m hm hd hturn hp ht, pairKeys_nth, blockElem_nth, mmapBlock_notDue, ?_⟩
  refine ⟨fun k s m hm hd _ => mmap_retires k s m hm hd, mmapRetire_notDue, arrayResidue_first, arrayResidue_again, ?_⟩
  refine ⟨digitResidue_first, digitResidue_again, blame_cases, engine_lands, acp16_lands, entryTaken_fires, result_fires, ?_⟩
  exact ⟨specialEntry_value, poisonV_marks, poisonP_marks, poisonC_marks, poisonS_marks⟩

end Sys2Proof.Proofs

/-! PROOFS. The canonical form of the memories of a view, and the operations of the state that keep it (O8). -/

namespace Sys2Proof.Proofs

open Sys2Proof Sys2Proof.Machine Sys2Proof.Laws

/-- Every memory of a view is in canonical form. -/
def ViewOk (v : MemView) : Prop :=
  v.host.wf = true ∧ (∀ m ∈ v.islands, m.wf = true) ∧ (∀ m ∈ v.kept, m.wf = true) ∧ ∀ m ∈ v.teams, m.wf = true

theorem viewOk_iff (s : State) : ViewOk (memView s) ↔ MemoryOk s := (memoryOk_iff s).symm

/-- A change of the state that keeps the form, told of views. -/
theorem viewOk_of {s t : State} (h : MemoryOk s → MemoryOk t) (ok : ViewOk (memView s)) : ViewOk (memView t) :=
  (viewOk_iff t).2 (h ((viewOk_iff s).1 ok))

@[simp] theorem memView_ite (c : Prop) [Decidable c] (s t : State) : memView (if c then s else t) = if c then memView s else memView t :=
  apply_ite ..

@[simp] theorem viewOk_ite (c : Prop) [Decidable c] (v w : MemView) : ViewOk (if c then v else w) ↔ (c → ViewOk v) ∧ (¬ c → ViewOk w) := by
  split <;> simp [*]

theorem viewOk_foldl {α : Type} {f : State → α → State} (h : ∀ s x, ViewOk (memView s) → ViewOk (memView (f s x))) (l : List α) {s : State}
    (ok : ViewOk (memView s)) : ViewOk (memView (l.foldl f s)) :=
  (viewOk_iff _).2 (memoryOk_foldl (fun s x h' => (viewOk_iff _).1 (h s x ((viewOk_iff s).2 h'))) l ((viewOk_iff s).1 ok))

/-! ## What answers keep -/

/-- What a body of an instruction may come to, told of views. -/
def ResKept : Res → Prop
  | .ok s | .fltAt s _ | .waitAt s | .out s => ViewOk (memView s)
  | .flt _ | .wait => True

@[simp] theorem resKept_ok (s : State) : ResKept (.ok s) ↔ ViewOk (memView s) := Iff.rfl
@[simp] theorem resKept_fltAt (s : State) (c : Cause) : ResKept (.fltAt s c) ↔ ViewOk (memView s) := Iff.rfl
@[simp] theorem resKept_waitAt (s : State) : ResKept (.waitAt s) ↔ ViewOk (memView s) := Iff.rfl
@[simp] theorem resKept_out (s : State) : ResKept (.out s) ↔ ViewOk (memView s) := Iff.rfl
@[simp] theorem resKept_flt (c : Cause) : ResKept (.flt c) ↔ True := Iff.rfl
@[simp] theorem resKept_wait : ResKept .wait ↔ True := Iff.rfl

@[simp] theorem resKept_ite (c : Prop) [Decidable c] (r q : Res) : ResKept (if c then r else q) ↔ (c → ResKept r) ∧ (¬ c → ResKept q) := by
  split <;> simp [*]

theorem resKept_iff (r : Res) : ResKept r ↔ ResOk r := by
  cases r with
  | ok s => exact viewOk_iff s
  | fltAt s c => exact viewOk_iff s
  | waitAt s => exact viewOk_iff s
  | out s => exact viewOk_iff s
  | flt c => exact Iff.rfl
  | wait => exact Iff.rfl

/-- What an instruction or an event answers, told of views. -/
def OutKept (o : Out) : Prop := ∀ t, o = .next t → ViewOk (memView t)

@[simp] theorem outKept_next (t : State) : OutKept (.next t) ↔ ViewOk (memView t) := by
  refine ⟨fun h => h t rfl, ?_⟩
  rintro h _ ⟨⟩
  exact h

@[simp] theorem outKept_ite (c : Prop) [Decidable c] (o p : Out) : OutKept (if c then o else p) ↔ (c → OutKept o) ∧ (¬ c → OutKept p) := by
  split <;> simp [*]

theorem outKept_iff (o : Out) : OutKept o ↔ OutOk o := forall_congr' fun t => imp_congr Iff.rfl (viewOk_iff t)

@[simp] theorem outKept_issue {fm : Form} {body : Cx → State → Res} {s : State} (ok : ViewOk (memView s)) (hb : ∀ cx, ResKept (body cx s)) :
    OutKept (issue fm body s) :=
  (outKept_iff _).2 (outOk_issue ((viewOk_iff s).1 ok) fun cx => (resKept_iff _).1 (hb cx))

@[simp] theorem outKept_issueWith {mk : State → Cx → Form} {body : Cx → State → Res} {s : State} (ok : ViewOk (memView s))
    (hb : ∀ cx, ResKept (body cx s)) : OutKept (issueWith mk body s) :=
  (outKept_iff _).2 (outOk_issueWith ((viewOk_iff s).1 ok) fun cx => (resKept_iff _).1 (hb cx))

/-! ## The operations of the state that change memories -/

@[simp] theorem viewOk_deliverReq {s : State} (k : Nat) (r : TrapReq) (ok : ViewOk (memView s)) : ViewOk (memView (deliverReq s k r)) :=
  viewOk_of (memoryOk_deliverReq k r) ok

@[simp] theorem viewOk_deliver {s : State} (k : Nat) (cause : DWord) (tspc : VAddr) (mask : Mask) (ok : ViewOk (memView s)) :
    ViewOk (memView (deliver s k cause tspc mask)) :=
  viewOk_of (memoryOk_deliver k cause tspc mask) ok

@[simp] theorem viewOk_blame {s : State} (k j : Nat) (cause : DWord) (ok : ViewOk (memView s)) : ViewOk (memView (blame s k j cause)) :=
  viewOk_of (memoryOk_blame k j cause) ok

@[simp] theorem viewOk_takeFault {s : State} (cx : Cx) (c : Cause) (ok : ViewOk (memView s)) : ViewOk (memView (takeFault s cx c)) :=
  viewOk_of (memoryOk_takeFault cx c) ok

@[simp] theorem viewOk_escalate {s : State} (k : Nat) (g : Group) (kind : Nat) (cause : DWord) (pc : VAddr) (mask : Mask)
    (ok : ViewOk (memView s)) : ViewOk (memView (escalate s k g kind cause pc mask)) :=
  viewOk_of (memoryOk_escalate k g kind cause pc mask) ok

@[simp] theorem viewOk_terminateCtx {s : State} (i c : Nat) (ok : ViewOk (memView s)) : ViewOk (memView (terminateCtx s i c)) :=
  viewOk_of (memoryOk_terminateCtx i c) ok

@[simp] theorem viewOk_terminateHere {s : State} (i c : Nat) (ok : ViewOk (memView s)) : ViewOk (memView (terminateHere s i c)) :=
  viewOk_of (memoryOk_terminateHere i c) ok

@[simp] theorem viewOk_discardGroups {s : State} (i c : Nat) (ok : ViewOk (memView s)) : ViewOk (memView (discardGroups s i c)) :=
  viewOk_of (memoryOk_discardGroups i c) ok

@[simp] theorem viewOk_enqueueRecord {s : State} (i : Nat) (ws : List DWord) (ok : ViewOk (memView s)) :
    ViewOk (memView (enqueueRecord s i ws)) :=
  viewOk_of (memoryOk_enqueueRecord i ws) ok

theorem viewOk_modMem {s : State} {f : IslandMem → IslandMem} (i : Nat) (hf : ∀ m, MemPartOk m → MemPartOk (f m)) (ok : ViewOk (memView s)) :
    ViewOk (memView (modMem s i f)) :=
  viewOk_of (fun h => memoryOk_modMem i h hf) ok

theorem viewOk_modTeam {s : State} {f : Team → Team} (t : Nat) (hf : ∀ x, TeamOk x → TeamOk (f x)) (ok : ViewOk (memView s)) :
    ViewOk (memView (modTeam s t f)) :=
  viewOk_of (fun h => memoryOk_modTeam t h hf) ok

@[simp] theorem viewOk_physPut {s : State} (i p : Nat) (bs : List Byte) (ok : ViewOk (memView s)) : ViewOk (memView (physPut s i p bs)) := by
  rw [physPut]
  split
  · exact ⟨memPut_wf _ _ ok.1, ok.2⟩
  · exact viewOk_modMem i (fun m hm => ⟨memPut_wf _ _ hm.1, hm.2⟩) ok

@[simp] theorem viewOk_setEntryBit {s : State} (i a b : Nat) (ok : ViewOk (memView s)) : ViewOk (memView (setEntryBit s i a b)) := by
  rw [setEntryBit]
  split
  · exact ok
  · exact viewOk_modMem i (fun m hm => ⟨memPutNat_wf _ _ _ hm.1, hm.2⟩) ok

end Sys2Proof.Proofs

/-! PROOFS. What the operations of the state, translation, placement, happens-before and the checks leave of the memories (O8). -/

namespace Sys2Proof.Proofs

open Sys2Proof Sys2Proof.Machine Sys2Proof.Laws

@[simp] theorem memView_markWaiting (s : State) (cx : Cx) : memView (markWaiting s cx) = memView s := by
  simp [markWaiting]

@[simp] theorem resKept_finish (n : Nat) (f : Regs → Regs) (cx : Cx) {s : State} (ok : ViewOk (memView s)) : ResKept (finish n f cx s) := by
  simp [finish, ok]

@[simp] theorem viewOk_setAccessed {s : State} (i : Nat) (x : WalkEnd) (ok : ViewOk (memView s)) : ViewOk (memView (setAccessed s i x)) := by
  cases x with
  | leaf e a lvl => exact viewOk_setEntryBit i a 6 ok
  | page st lvl => exact ok

@[simp] theorem viewOk_walkHeld {s : State} (i c va : Nat) (acc : Acc) (priv : Bool) (salt : Nat) (ok : ViewOk (memView s)) :
    ViewOk (memView (walkHeld s i c va acc priv salt).1) := by
  refine viewOk_modMem i (fun m hm => hm) ?_
  split
  · exact viewOk_setAccessed i _ ok
  · exact ok

@[simp] theorem viewOk_translate {s : State} (i c : Nat) (priv : Bool) (va : Nat) (acc : Acc) (salt : Nat) (ok : ViewOk (memView s)) :
    ViewOk (memView (Machine.translate s i c priv va acc salt).1) :=
  viewOk_walkHeld i c va acc priv salt ok

@[simp] theorem viewOk_setDirty {s : State} (i phys : Nat) (d : Option DirtyRef) (ok : ViewOk (memView s)) :
    ViewOk (memView (setDirty s i phys d)) := by
  cases d with
  | none => exact ok
  | some d =>
    rw [setDirty]
    split
    · exact viewOk_setEntryBit i _ 7 ok
    · have hwalk := viewOk_walkHeld i d.ctx d.va .write true 0 ok
      dsimp only
      split
      · split
        · exact viewOk_setEntryBit i _ 7 hwalk
        · exact hwalk
      · exact hwalk

@[simp] theorem viewOk_addrOf {s : State} (i c : Nat) (priv : Bool) (t : TReg) (o : Nat) (acc : Acc) (salt : Nat) (ok : ViewOk (memView s))
    : ViewOk (memView (addrOf s i c priv t o acc salt).1) := by
  unfold addrOf
  (repeat' split) <;> simp [ok]

@[simp] theorem memPart_useWay (m : IslandMem) (vn : Nat) (old : Bool) (bank line way : Nat) :
    memPart (useWay m vn old bank line way) = memPart m := by
  simp [useWay]

@[simp] theorem memPart_dropLine (m : IslandMem) (vn line : Nat) : memPart (dropLine m vn line) = memPart m := by
  simp [dropLine]

@[simp] theorem memPart_makeRoom (m : IslandMem) (vn : Nat) (old : Bool) (bank line : Nat) :
    memPart (makeRoom m vn old bank line).1 = memPart m := by
  simp only [makeRoom]
  split <;> simp

@[simp] theorem memPart_bringSector (vn bank line : Nat) (old : Bool) (way : Nat) (sec : Nat) (m : IslandMem) :
    memPart (bringSector vn bank line old way sec m) = memPart m := by
  simp [bringSector]

@[simp] theorem memPart_fillLine (m : IslandMem) (vn core line : Nat) : memPart (fillLine m vn core line) = memPart m := by
  rw [fillLine]
  dsimp only
  split
  · simp
  · rw [memPart_useWay]
    exact (memPart_foldl (fun m j => by simp) _ _).trans (memPart_makeRoom m vn false _ line)

@[simp] theorem memView_fenceLanes (rel acq : Bool) (scope key : Nat) (m : Mask) (s : State) :
    memView (fenceLanes rel acq scope key m s) = memView s := by
  simp [fenceLanes]

@[simp] theorem memView_hostTouch (s : State) (ks : List Nat) : memView (hostTouch s ks) = memView s := by
  simp [hostTouch]

@[simp] theorem viewOk_translateAll {s : State} (i c : Nat) (priv : Bool) (acc : Acc) (rs : List Req) (ok : ViewOk (memView s)) :
    ViewOk (memView (translateAll i c priv acc s rs).1) := by
  induction rs generalizing s with
  | nil => exact ok
  | cons r rs ih => exact ih (viewOk_addrOf i c priv r.t r.o acc (saltOf r.lane) ok)

theorem viewOk_checkGlobal {s : State} (cx : Cx) (w : Want) (rs : List Req) (ok : ViewOk (memView s)) :
    ViewOk (memView (stateOf (checkGlobal s cx w rs))) := by
  have htrans := viewOk_translateAll cx.g.ident.island cx.g.ident.ctx (privileged cx.g.ident) w.acc rs ok
  rcases stateOf_checkGlobal s cx w rs with h | h | h <;> rw [h]
  · exact ok
  · exact htrans
  · rw [memView_vcAll]
    exact htrans

@[simp] theorem memPart_freshToken (m : IslandMem) : memPart (freshToken m) = memPart m := by
  simp [freshToken]

@[simp] theorem viewOk_writePark {s : State} (key : Nat) (id : Ident) (token : Nat) (umask : Mask) (rs : List (List DWord))
    (ok : ViewOk (memView s)) : ViewOk (memView (writePark s key id token umask rs)) :=
  viewOk_modMem id.island (fun _ hm => hm) (viewOk_foldl (fun _ r ok => viewOk_enqueueRecord id.island r ok) rs ok)

@[simp] theorem viewOk_park {s : State} (cx : Cx) (kind : ParkKind) (acc : Acc) (n : Nat) (ms : List Miss) (ok : ViewOk (memView s)) :
    ViewOk (memView (park s cx kind acc n ms)) := by
  simp [park, ok]

@[simp] theorem memView_dropPark (s : State) (i token : Nat) : memView (dropPark s i token) = memView s := by
  simp [dropPark]

@[simp] theorem memView_replayPark (s : State) (i token : Nat) : memView (replayPark s i token) = memView s := by
  simp only [replayPark]
  split <;> simp

@[simp] theorem viewOk_handlePark {s : State} (i token : Nat) (ok : ViewOk (memView s)) : ViewOk (memView (handlePark s i token)) := by
  rw [handlePark]
  split
  · exact ok
  · dsimp only
    split <;> simp [ok]

@[simp] theorem viewOk_terminatePark {s : State} (i token : Nat) (ok : ViewOk (memView s)) :
    ViewOk (memView (terminatePark s i token)) := by
  simp only [terminatePark]
  split <;> simp [ok]

@[simp] theorem viewOk_releasePark {s : State} (i token act : Nat) (ok : ViewOk (memView s)) :
    ViewOk (memView (releasePark s i token act)) := by
  simp only [releasePark]
  split <;> simp [ok]

@[simp] theorem outKept_execFrplayReplay (island token : Nat) {s : State} (ok : ViewOk (memView s)) :
    OutKept (execFrplayReplay island token s) := by
  simp [execFrplayReplay, ok]

@[simp] theorem outKept_execFrplayHandler (island token : Nat) {s : State} (ok : ViewOk (memView s)) :
    OutKept (execFrplayHandler island token s) := by
  simp [execFrplayHandler, ok]

@[simp] theorem outKept_execFrplayTerminate (island token : Nat) {s : State} (ok : ViewOk (memView s)) :
    OutKept (execFrplayTerminate island token s) := by
  simp [execFrplayTerminate, ok]

@[simp] theorem outKept_execFrplayNone (island token : Nat) {s : State} (ok : ViewOk (memView s)) :
    OutKept (execFrplayNone island token s) := by
  simp [execFrplayNone, ok]

theorem outKept_execFaultRecordEnqueue {s : State} (island : Nat) (ok : ViewOk (memView s)) : OutKept (execFaultRecordEnqueue island s) :=
  (outKept_next _).2 (viewOk_modMem island (fun _ hm => memPartOk_frqAdmit _ hm) ok)

@[simp] theorem viewOk_storeHit {s : State} (i : Nat) (h : Hit) (bs : List Byte) (ok : ViewOk (memView s)) :
    ViewOk (memView (storeHit i h bs s)) := by
  rw [storeHit]
  split <;> simp [ok]

@[simp] theorem memView_synchronise (s : State) (cx : Cx) (rel acq : Bool) (scope : Nat) :
    memView (synchronise s cx rel acq scope) = memView s := by
  simp [synchronise]

@[simp] theorem memView_acquireClock (s : State) (cx : Cx) (c : Clock) (scope : Nat) : memView (acquireClock s cx c scope) = memView s := by
  simp [acquireClock]

@[simp] theorem memView_askLocks (s : State) (cx : Cx) : memView (askLocks s cx) = memView s := by
  simp [askLocks]

@[simp] theorem memView_takeLocks (s : State) (cx : Cx) (n : Nat) (locks : List RangeLock) :
    memView (takeLocks s cx n locks) = memView s := by
  simp [takeLocks]

end Sys2Proof.Proofs

/-! PROOFS. The lane, uniform, branch, float and memory instructions keep the form (O8). -/

namespace Sys2Proof.Proofs

open Sys2Proof Sys2Proof.Machine Sys2Proof.Laws

@[simp] theorem outKept_laneBin (st : BitVec 2) (d a b : BitVec 7) (m : BitVec 2) (readsD : Bool) (z : LaneArgs → Int) {s : State}
    (ok : ViewOk (memView s)) : OutKept (laneBin st d a b m readsD z s) := by
  simp [laneBin, ok]

@[simp] theorem outKept_execIcmp (st : BitVec 2) (p : BitVec 3) (c : BitVec 4) (a b : BitVec 7) (m : BitVec 2) {s : State}
    (ok : ViewOk (memView s)) : OutKept (execIcmp st p c a b m s) := by
  simp [execIcmp, ok]

@[simp] theorem outKept_execIcmpi (st : BitVec 2) (p : BitVec 3) (c : BitVec 4) (a : BitVec 7) (i : BitVec 9) {s : State}
    (ok : ViewOk (memView s)) : OutKept (execIcmpi st p c a i s) := by
  simp [execIcmpi, ok]

@[simp] theorem outKept_execIun (st : BitVec 2) (d a u : BitVec 7) (m : BitVec 2) {s : State} (ok : ViewOk (memView s)) :
    OutKept (execIun st d a u m s) := by
  simp [execIun, ok]

@[simp] theorem outKept_laneImm (st : BitVec 2) (d a : BitVec 7) (f : Word → Word) {s : State} (ok : ViewOk (memView s)) :
    OutKept (laneImm st d a f s) := by
  simp [laneImm, ok]

@[simp] theorem outKept_execMovl (st : BitVec 2) (d : BitVec 7) (i : BitVec 16) {s : State} (ok : ViewOk (memView s)) :
    OutKept (execMovl st d i s) := by
  simp [execMovl, ok]

@[simp] theorem outKept_execMovh (st : BitVec 2) (d : BitVec 7) (i : BitVec 16) {s : State} (ok : ViewOk (memView s)) :
    OutKept (execMovh st d i s) := by
  simp [execMovh, ok]

@[simp] theorem outKept_execSel (st : BitVec 2) (d a b : BitVec 7) (p : BitVec 2) {s : State} (ok : ViewOk (memView s)) :
    OutKept (execSel st d a b p s) := by
  simp [execSel, ok]

@[simp] theorem outKept_execLanev (st : BitVec 2) (d : BitVec 7) {s : State} (ok : ViewOk (memView s)) : OutKept (execLanev st d s) := by
  simp [execLanev, ok]

@[simp] theorem outKept_execPlog (st : BitVec 2) (p : BitVec 3) (t : BitVec 4) (x y : BitVec 3) {s : State} (ok : ViewOk (memView s)) :
    OutKept (execPlog st p t x y s) := by
  simp [execPlog, ok]

@[simp] theorem resKept_finishCross (f : Regs → Regs) (cx : Cx) {s : State} (ok : ViewOk (memView s)) : ResKept (finishCross f cx s) := by
  simp [finishCross, ok]

@[simp] theorem outKept_execShfl (st : BitVec 2) (d a b : BitVec 7) (m : BitVec 2) {s : State} (ok : ViewOk (memView s)) :
    OutKept (execShfl st d a b m s) := by
  simp [execShfl, ok]

@[simp] theorem outKept_execShfli (st : BitVec 2) (d a : BitVec 7) (m : BitVec 2) (n : BitVec 6) {s : State} (ok : ViewOk (memView s)) :
    OutKept (execShfli st d a m n s) := by
  simp [execShfli, ok]

@[simp] theorem outKept_execVote (st : BitVec 2) (p : BitVec 3) (c : BitVec 4) (x : BitVec 3) {s : State} (ok : ViewOk (memView s)) :
    OutKept (execVote st p c x s) := by
  simp [execVote, ok]

@[simp] theorem outKept_execVoteBallot (st : BitVec 2) (x : BitVec 3) (b : BitVec 7) {s : State} (ok : ViewOk (memView s)) :
    OutKept (execVoteBallot st x b s) := by
  simp [execVoteBallot, ok]

@[simp] theorem outKept_execRedux (st : BitVec 2) (d a b : BitVec 7) (m : BitVec 2) {s : State} (ok : ViewOk (memView s)) :
    OutKept (execRedux st d a b m s) := by
  simp [execRedux, ok]

@[simp] theorem outKept_uniBin (st : BitVec 2) (d a b : BitVec 6) (m : BitVec 4) (z : UniArgs → Int) {s : State} (ok : ViewOk (memView s)) :
    OutKept (uniBin st d a b m z s) := by
  simp [uniBin, ok]

@[simp] theorem outKept_execUcmp (st : BitVec 2) (c : BitVec 3) (a b : BitVec 6) (m : BitVec 4) {s : State} (ok : ViewOk (memView s)) :
    OutKept (execUcmp st c a b m s) := by
  simp [execUcmp, ok]

@[simp] theorem outKept_execUsel (st : BitVec 2) (d a b : BitVec 6) (c : BitVec 3) {s : State} (ok : ViewOk (memView s)) :
    OutKept (execUsel st d a b c s) := by
  simp [execUsel, ok]

@[simp] theorem outKept_execUaddi (st : BitVec 2) (d a : BitVec 6) (i : BitVec 10) {s : State} (ok : ViewOk (memView s)) :
    OutKept (execUaddi st d a i s) := by
  simp [execUaddi, ok]

@[simp] theorem outKept_execUandi (st : BitVec 2) (d a : BitVec 6) (i : BitVec 10) {s : State} (ok : ViewOk (memView s)) :
    OutKept (execUandi st d a i s) := by
  simp [execUandi, ok]

@[simp] theorem outKept_execUcmpi (st : BitVec 2) (c n : BitVec 3) (a : BitVec 6) (i : BitVec 10) {s : State} (ok : ViewOk (memView s)) :
    OutKept (execUcmpi st c n a i s) := by
  simp [execUcmpi, ok]

@[simp] theorem outKept_execUmovi (st : BitVec 2) (d : BitVec 6) (h : BitVec 2) (imm : BitVec 32) {s : State} (ok : ViewOk (memView s)) :
    OutKept (execUmovi st d h imm s) := by
  simp [execUmovi, ok]

@[simp] theorem outKept_execUun (st : BitVec 2) (d a u : BitVec 6) (m : BitVec 4) {s : State} (ok : ViewOk (memView s)) :
    OutKept (execUun st d a u m s) := by
  simp [execUun, ok]

@[simp] theorem outKept_execClog (st : BitVec 2) (c x y : BitVec 3) (t : BitVec 4) {s : State} (ok : ViewOk (memView s)) :
    OutKept (execClog st c x y t s) := by
  simp [execClog, ok]

@[simp] theorem resKept_okGrp {s : State} (cx : Cx) (g : Group) (ok : ViewOk (memView s)) : ResKept (okGrp s cx g) := by
  simp [okGrp, ok]

@[simp] theorem outKept_execBra (st : BitVec 2) (f : BitVec 18) {s : State} (ok : ViewOk (memView s)) : OutKept (execBra st f s) := by
  simp [execBra, ok]

@[simp] theorem outKept_execCall (st : BitVec 2) (f : BitVec 18) {s : State} (ok : ViewOk (memView s)) : OutKept (execCall st f s) := by
  simp [execCall, ok]

@[simp] theorem outKept_execBrc (st : BitVec 2) (c : BitVec 3) (n : BitVec 1) (f : BitVec 18) {s : State} (ok : ViewOk (memView s)) :
    OutKept (execBrc st c n f s) := by
  simp [execBrc, ok]

@[simp] theorem resKept_branchTo (t : DWord) (cx : Cx) {s : State} (ok : ViewOk (memView s)) : ResKept (branchTo t cx s) := by
  simp [branchTo, ok]

@[simp] theorem outKept_execBrx (st : BitVec 2) (a : BitVec 6) {s : State} (ok : ViewOk (memView s)) : OutKept (execBrx st a s) := by
  simp [execBrx, ok]

@[simp] theorem outKept_execRet (st : BitVec 2) {s : State} (ok : ViewOk (memView s)) : OutKept (execRet st s) := by
  simp [execRet, ok]

@[simp] theorem outKept_execBrp (st : BitVec 2) (p : BitVec 3) (n : BitVec 1) (f : BitVec 18) {s : State} (ok : ViewOk (memView s)) :
    OutKept (execBrp st p n f s) := by
  simp [execBrp, ok]

@[simp] theorem viewOk_exitGroup {s : State} (k : Nat) (ok : ViewOk (memView s)) : ViewOk (memView (exitGroup s k)) := by
  simp only [exitGroup]
  rw [memView_restResident, memView_wakeAll]
  generalize hu : modTeam _ _ _ = u
  have hok : ViewOk (memView u) := by
    subst hu
    refine viewOk_modTeam _ (fun x hx => hx) ?_
    split <;> simp [ok]
  split
  · exact hok
  · rw [viewOk_iff] at hok ⊢
    exact ⟨hok.host, hok.islands, fun p hp => hok.teams p (mem_tblDel hp)⟩

@[simp] theorem viewOk_surface {s : State} (k : Nat) (cause : DWord) (pc : VAddr) (mask : Mask) (ok : ViewOk (memView s)) :
    ViewOk (memView (surface s k cause pc mask)) := by
  simp [surface, ok]

@[simp] theorem viewOk_drainEnd {s : State} (k : Nat) (pc : VAddr) (mask : Mask) (ok : ViewOk (memView s)) :
    ViewOk (memView (drainEnd s k pc mask)) := by
  simp only [drainEnd]
  split <;> simp [ok]

@[simp] theorem viewOk_afterExit {s : State} (k : Nat) (pc : VAddr) (mask : Mask) (ok : ViewOk (memView s)) :
    ViewOk (memView (afterExit s k pc mask)) := by
  simp [afterExit, ok]

@[simp] theorem outKept_execExit (st : BitVec 2) {s : State} (ok : ViewOk (memView s)) : OutKept (execExit st s) := by
  simp [execExit, ok]

@[simp] theorem outKept_execExitDrainEnd (grp : Nat) {s : State} (ok : ViewOk (memView s)) : OutKept (execExitDrainEnd grp s) := by
  simp only [execExitDrainEnd]
  split <;> simp [ok]

@[simp] theorem outKept_execYield (st : BitVec 2) {s : State} (ok : ViewOk (memView s)) : OutKept (execYield st s) := by
  simp [execYield, ok]

@[simp] theorem outKept_execNop (st : BitVec 2) {s : State} (ok : ViewOk (memView s)) : OutKept (execNop st s) := by
  simp [execNop, ok]

@[simp] theorem outKept_execWait (st : BitVec 2) (k : BitVec 10) {s : State} (ok : ViewOk (memView s)) : OutKept (execWait st k s) := by
  simp [execWait, ok]

@[simp] theorem outKept_execWaitHoldEnd (grp frag : Nat) {s : State} (ok : ViewOk (memView s)) : OutKept (execWaitHoldEnd grp frag s) := by
  simp only [execWaitHoldEnd]
  split <;> simp [ok]

@[simp] theorem outKept_execSleep (st : BitVec 2) (n : BitVec 10) {s : State} (ok : ViewOk (memView s)) : OutKept (execSleep st n s) := by
  simp [execSleep, ok]

@[simp] theorem outKept_execSleepExpiry (grp frag : Nat) {s : State} (ok : ViewOk (memView s)) : OutKept (execSleepExpiry grp frag s) := by
  simp only [execSleepExpiry]
  split <;> simp [ok]

@[simp] theorem outKept_execStallCountExpiry (grp : Nat) {s : State} (ok : ViewOk (memView s)) : OutKept (execStallCountExpiry grp s) := by
  simp [execStallCountExpiry, ok]

@[simp] theorem outKept_softTrap (st : BitVec 2) (status : BitVec 8) (code : BitVec 10) {s : State} (ok : ViewOk (memView s)) :
    OutKept (softTrap st status code s) := by
  simp [softTrap, ok]

@[simp] theorem outKept_execTrapEntry (grp : Nat) {s : State} (ok : ViewOk (memView s)) : OutKept (execTrapEntry grp s) := by
  simp only [execTrapEntry]
  split <;> simp [ok]

@[simp] theorem outKept_execTret (st : BitVec 2) {s : State} (ok : ViewOk (memView s)) : OutKept (execTret st s) := by
  simp [execTret, ok]

@[simp] theorem outKept_execTfence (st : BitVec 2) {s : State} (ok : ViewOk (memView s)) : OutKept (execTfence st s) := by
  refine outKept_issue ok fun cx => ?_
  dsimp only
  split
  · simp [ok]
  · split <;> simp [ok]

@[simp] theorem outKept_flgsOp (st : BitVec 2) (d : BitVec 6) (f : DWord → DWord) {s : State} (ok : ViewOk (memView s)) :
    OutKept (flgsOp st d f s) := by
  simp [flgsOp, ok]

@[simp] theorem outKept_execFlgs (st : BitVec 2) (d : BitVec 6) (m : BitVec 5) {s : State} (ok : ViewOk (memView s)) :
    OutKept (execFlgs st d m s) := by
  simp [execFlgs, ok]

@[simp] theorem outKept_execRgrow (st : BitVec 2) (n : BitVec 10) {s : State} (ok : ViewOk (memView s)) : OutKept (execRgrow st n s) := by
  simp [execRgrow, ok]

@[simp] theorem outKept_execRshrink (st : BitVec 2) (n : BitVec 10) {s : State} (ok : ViewOk (memView s)) :
    OutKept (execRshrink st n s) := by
  simp [execRshrink, ok]

@[simp] theorem outKept_execRegisterPoison (grp kind reg lane sub : Nat) {s : State} (ok : ViewOk (memView s)) :
    OutKept (execRegisterPoison grp kind reg lane sub s) := by
  simp [execRegisterPoison, ok]

@[simp] theorem resKept_finishFlags (fl : Flg) (f : Regs → Regs) (cx : Cx) {s : State} (ok : ViewOk (memView s)) :
    ResKept (finishFlags fl f cx s) := by
  simp [finishFlags, ok]

@[simp] theorem outKept_floatOp (st : BitVec 2) (d a : BitVec 7) (b : Option (BitVec 7)) (m : BitVec 2) (readsD : Bool)
    (z : RMode → Nat → Nat → Nat → Rounded) {s : State} (ok : ViewOk (memView s)) : OutKept (floatOp st d a b m readsD z s) := by
  simp [floatOp, ok]

@[simp] theorem outKept_execFadd (st : BitVec 2) (d a b : BitVec 7) (m : BitVec 2) {s : State} (ok : ViewOk (memView s)) :
    OutKept (execFadd st d a b m s) := by
  simp [execFadd, ok]

@[simp] theorem outKept_execFsub (st : BitVec 2) (d a b : BitVec 7) (m : BitVec 2) {s : State} (ok : ViewOk (memView s)) :
    OutKept (execFsub st d a b m s) := by
  simp [execFsub, ok]

@[simp] theorem outKept_execFmul (st : BitVec 2) (d a b : BitVec 7) (m : BitVec 2) {s : State} (ok : ViewOk (memView s)) :
    OutKept (execFmul st d a b m s) := by
  simp [execFmul, ok]

@[simp] theorem outKept_execFma (st : BitVec 2) (d a b : BitVec 7) (m : BitVec 2) {s : State} (ok : ViewOk (memView s)) :
    OutKept (execFma st d a b m s) := by
  simp [execFma, ok]

@[simp] theorem outKept_execFdiv (st : BitVec 2) (d a b : BitVec 7) (m : BitVec 2) {s : State} (ok : ViewOk (memView s)) :
    OutKept (execFdiv st d a b m s) := by
  simp [execFdiv, ok]

@[simp] theorem outKept_execFcmp (st : BitVec 2) (p : BitVec 3) (c : BitVec 4) (a b : BitVec 7) (m : BitVec 2) {s : State}
    (ok : ViewOk (memView s)) : OutKept (execFcmp st p c a b m s) := by
  simp [execFcmp, ok]

@[simp] theorem outKept_execFscl (st : BitVec 2) (d a b : BitVec 7) (m : BitVec 2) {s : State} (ok : ViewOk (memView s)) :
    OutKept (execFscl st d a b m s) := by
  simp [execFscl, ok]

@[simp] theorem outKept_execFunOp (st : BitVec 2) (d a u : BitVec 7) (m : BitVec 2) {s : State} (ok : ViewOk (memView s)) :
    OutKept (execFunOp st d a u m s) := by
  simp [execFunOp, ok]

@[simp] theorem outKept_execCvt (st : BitVec 2) (d a : BitVec 7) (t u : BitVec 4) (x : BitVec 1) {s : State} (ok : ViewOk (memView s)) :
    OutKept (execCvt st d a t u x s) := by
  simp [execCvt, ok]

@[simp] theorem outKept_execBqnt (st : BitVec 2) (d a : BitVec 7) (c : BitVec 6) (f : BitVec 2) {s : State} (ok : ViewOk (memView s)) :
    OutKept (execBqnt st d a c f s) := by
  simp [execBqnt, ok]

@[simp] theorem outKept_execBdq (st : BitVec 2) (d a : BitVec 7) (c : BitVec 6) (f : BitVec 2) {s : State} (ok : ViewOk (memView s)) :
    OutKept (execBdq st d a c f s) := by
  simp [execBdq, ok]

@[simp] theorem viewOk_passOrPark {s : State} (cx : Cx) (acc : Acc) (n : Nat) (ms : List Miss) (ok : ViewOk (memView s)) :
    ViewOk (memView (passOrPark s cx acc n ms)) := by
  simp [passOrPark, ok]

/-- The state in which the checks of an access leave off keeps the form. -/
def CheckedKept (c : Checked) : Prop := ViewOk (memView (stateOf c))

@[simp] theorem checkedKept_checkGlobal {s : State} (cx : Cx) (w : Want) (rs : List Req) (ok : ViewOk (memView s)) :
    CheckedKept (checkGlobal s cx w rs) :=
  viewOk_checkGlobal cx w rs ok

theorem viewOk_of_checked {c d : Checked} (hc : CheckedKept c) (h : c = d) : ViewOk (memView (stateOf d)) := by
  rw [← h]
  exact hc

theorem resKept_laneAccess {cx : Cx} {s : State} {w : Want} {rs : List Req} {n : Nat} {effect : State → List Hit → State}
    (ok : ViewOk (memView s)) (he : ∀ s hs, ViewOk (memView s) → ViewOk (memView (effect s hs))) :
    ResKept (laneAccess cx s w rs n effect) := by
  rw [laneAccess]
  cases hc : checkGlobal s cx w rs with
  | fault t c => exact viewOk_of_checked (checkedKept_checkGlobal cx w rs ok) hc
  | wait t => exact viewOk_of_checked (checkedKept_checkGlobal cx w rs ok) hc
  | go t hs ms =>
    have hok : ViewOk (memView t) := viewOk_of_checked (checkedKept_checkGlobal cx w rs ok) hc
    show ResKept (if hs = [] then _ else _)
    split
    · exact viewOk_park cx .lane w.acc n ms hok
    · exact viewOk_passOrPark cx w.acc n ms (he t hs hok)

theorem resKept_uniAccess {cx : Cx} {s : State} {w : Want} {r : Req} {effect : State → Hit → State}
    (ok : ViewOk (memView s)) (he : ∀ s h, ViewOk (memView s) → ViewOk (memView (effect s h))) :
    ResKept (uniAccess cx s w r effect) := by
  rw [uniAccess]
  cases hc : checkGlobal s cx w [r] with
  | fault t c => exact viewOk_of_checked (checkedKept_checkGlobal cx w [r] ok) hc
  | wait t => exact viewOk_of_checked (checkedKept_checkGlobal cx w [r] ok) hc
  | go t hs ms =>
    have hok : ViewOk (memView t) := viewOk_of_checked (checkedKept_checkGlobal cx w [r] ok) hc
    cases hs with
    | nil => exact viewOk_park cx .uniform w.acc 4 ms hok
    | cons h hs =>
      show ViewOk (memView (modGrp (effect t h) _ _))
      rw [memView_modGrp]
      exact he t h hok

theorem viewOk_loadEffect {s : State} (cx : Cx) (d : BitVec 7) (w : BitVec 3) (wt : Want) (hs : List Hit) (ok : ViewOk (memView s)) :
    ViewOk (memView (loadEffect cx d w wt s hs)) := by
  simp [loadEffect, ok]

theorem viewOk_storeEffect {s : State} (cx : Cx) (d : BitVec 7) (w : BitVec 3) (wt : Want) (hs : List Hit) (ok : ViewOk (memView s)) :
    ViewOk (memView (storeEffect cx d w wt s hs)) := by
  simp only [storeEffect, memView_addOp]
  exact viewOk_foldl (fun s h ok => by simp [ok]) hs ok

theorem outKept_execLd (st : BitVec 2) (d a : BitVec 7) (t w : BitVec 3) (q : BitVec 2) (x : BitVec 1) {s : State}
    (ok : ViewOk (memView s)) : OutKept (execLd st d a t w q x s) := by
  simp only [execLd]
  refine outKept_issue ok fun cx => ?_
  exact resKept_laneAccess ok fun _ hs ok => viewOk_loadEffect cx d w _ hs ok

theorem outKept_execSt (st : BitVec 2) (d a : BitVec 7) (t w : BitVec 3) (q : BitVec 2) (x : BitVec 1) {s : State}
    (ok : ViewOk (memView s)) : OutKept (execSt st d a t w q x s) := by
  simp only [execSt]
  refine outKept_issue ok fun cx => ?_
  exact resKept_laneAccess ok fun _ hs ok => viewOk_storeEffect cx d w _ hs ok

theorem outKept_execLda (st : BitVec 2) (d a : BitVec 7) (t w : BitVec 3) (q : BitVec 2) (x : BitVec 1) {s : State}
    (ok : ViewOk (memView s)) : OutKept (execLda st d a t w q x s) := by
  simp only [execLda]
  refine outKept_issue ok fun cx => ?_
  exact resKept_laneAccess ok fun _ hs ok => by
    rw [memView_acquireAt]
    exact viewOk_loadEffect cx d w _ hs ok

theorem outKept_execSta (st : BitVec 2) (d a : BitVec 7) (t w : BitVec 3) (q : BitVec 2) (x : BitVec 1) {s : State}
    (ok : ViewOk (memView s)) : OutKept (execSta st d a t w q x s) := by
  simp only [execSta]
  refine outKept_issue ok fun cx => ?_
  exact resKept_laneAccess ok fun _ hs ok => viewOk_storeEffect cx d w _ hs ok

theorem outKept_execPrf (st : BitVec 2) (a : BitVec 7) (t w : BitVec 3) (q : BitVec 2) (x : BitVec 1) {s : State}
    (ok : ViewOk (memView s)) : OutKept (execPrf st a t w q x s) := by
  refine outKept_issue ok fun cx => ?_
  simp only [resKept_ok, memView_modGrp]
  refine viewOk_foldl (fun s p ok => ?_) _ (by simp [ok])
  split
  · split <;> simp [ok]
  · exact ok

@[simp] theorem memView_holdLost (s : State) (k : Nat) (pc : VAddr) : memView (holdLost s k pc) = memView s := by
  simp [holdLost]

theorem resKept_teamAccess {cx : Cx} {s : State} {n len : Nat} {wr : Bool} {l : List (Option Nat × Nat)} {effect : State → State}
    (he : ViewOk (memView (effect s))) : ResKept (teamAccess cx s n len wr l effect) := by
  rw [teamAccess]
  split
  · trivial
  · show ViewOk (memView (modGrp (effect s) _ _))
    rw [memView_modGrp]
    exact he

theorem outKept_execLdt (st : BitVec 2) (d a : BitVec 7) (w : BitVec 3) (x : BitVec 1) {s : State} (ok : ViewOk (memView s)) :
    OutKept (execLdt st d a w x s) := by
  refine outKept_issue ok fun cx => ?_
  exact resKept_teamAccess (by simp [ok])

theorem foldl_memPut_wf {α : Type} (a : α → Nat) (b : α → List Byte) (l : List α) {m : Memory} (h : m.wf = true) :
    (l.foldl (fun m x => memPut m (a x) (b x)) m).wf = true := by
  induction l generalizing m with
  | nil => exact h
  | cons x l ih => exact ih (memPut_wf _ _ h)

theorem teamOk_teamPut {t : Team} (ws : List (Nat × List Byte)) (h : TeamOk t) : TeamOk (teamPut t ws) :=
  foldl_memPut_wf (fun k => 32 * k) (fun _ => List.replicate 32 0) _ (foldl_memPut_wf Prod.fst Prod.snd ws h)

@[simp] theorem viewOk_teamPut {s : State} (tm : Nat) (ws : List (Nat × List Byte)) (ok : ViewOk (memView s)) :
    ViewOk (memView (modTeam s tm fun t => teamPut t ws)) :=
  viewOk_modTeam tm (fun _ hx => teamOk_teamPut ws hx) ok

theorem outKept_execStt (st : BitVec 2) (d a : BitVec 7) (w : BitVec 3) (x : BitVec 1) {s : State} (ok : ViewOk (memView s)) :
    OutKept (execStt st d a w x s) := by
  refine outKept_issue ok fun cx => ?_
  exact resKept_teamAccess (by simp [ok])

@[simp] theorem viewOk_atomHit {s : State} (cx : Cx) (wt : Want) (a : AtomAct) (h : Hit) (ok : ViewOk (memView s)) :
    ViewOk (memView (atomHit cx wt a s h).1) := by
  rw [atomHit]
  dsimp only
  split
  · exact ok
  · rw [memView_noteAccess]
    split <;> simp [ok]

@[simp] theorem viewOk_atomLanes {s : State} (cx : Cx) (wt : Want) (d : Nat) (act : Nat → AtomAct) (hs : List Hit) (ok : ViewOk (memView s)) :
    ViewOk (memView (atomLanes cx wt d act s hs).1) := by
  induction hs generalizing s with
  | nil => exact ok
  | cons h hs ih => exact ih (viewOk_atomHit cx wt _ h ok)

@[simp] theorem outKept_laneAtomic (st : BitVec 2) (d a : BitVec 7) (t w : BitVec 3) (q : BitVec 2) (x : BitVec 1) (data : BitVec 7)
    (cmp : Option (BitVec 7)) (sem : BitVec 2) (scope : BitVec 3) (sc : BitVec 1) (act : Regs → Nat → AtomAct) {s : State}
    (ok : ViewOk (memView s)) : OutKept (laneAtomic st d a t w q x data cmp sem scope sc act s) := by
  simp only [laneAtomic]
  refine outKept_issue ok fun cx => ?_
  exact resKept_laneAccess ok fun s hs ok => by simp [ok]

theorem atomTeam_wf (g : Regs) (dead : List Nat) (d data n op : Nat) (l : List (Option Nat × Nat)) {m : Memory} (h : m.wf = true) :
    (atomTeam g dead d data n op m l).1.wf = true := by
  induction l generalizing m with
  | nil => exact h
  | cons p l ih =>
    refine ih ?_
    split
    · exact h
    · exact memPutNat_wf _ _ _ h

theorem outKept_execAtomt (st : BitVec 2) (d a : BitVec 7) (w : BitVec 3) (x : BitVec 1) (data : BitVec 7) (aop : BitVec 4)
    (sem : BitVec 2) (scope : BitVec 3) (sc : BitVec 1) {s : State} (ok : ViewOk (memView s)) :
    OutKept (execAtomt st d a w x data aop sem scope sc s) := by
  refine outKept_issue ok fun cx => resKept_teamAccess ?_
  simp only [memView_acquireAt, memView_touchTeam, memView_addOp]
  have hteam := memoryOk_teamOf ((viewOk_iff s).1 ok) cx.g.ident.team
  exact viewOk_modTeam _ (fun x _ => teamOk_teamPut [] (atomTeam_wf _ _ _ _ _ _ _ hteam)) (by simp [ok])

theorem outKept_execUld (st : BitVec 2) (d a : BitVec 6) (t w : BitVec 3) (q : BitVec 2) (x : BitVec 1) {s : State}
    (ok : ViewOk (memView s)) : OutKept (execUld st d a t w q x s) := by
  simp only [execUld]
  refine outKept_issue ok fun cx => ?_
  exact resKept_uniAccess ok fun s h ok => by simp [ok]

theorem outKept_execUst (st : BitVec 2) (d a : BitVec 6) (t w : BitVec 3) (q : BitVec 2) (x : BitVec 1) {s : State}
    (ok : ViewOk (memView s)) : OutKept (execUst st d a t w q x s) := by
  simp only [execUst]
  refine outKept_issue ok fun cx => ?_
  exact resKept_uniAccess ok fun s h ok => by simp [ok]

theorem outKept_execUatom (st : BitVec 2) (d a : BitVec 6) (o : BitVec 4) (e c : BitVec 2) (k z : BitVec 1) {s : State}
    (ok : ViewOk (memView s)) : OutKept (execUatom st d a o e c k z s) := by
  simp only [execUatom]
  refine outKept_issue ok fun cx => ?_
  exact resKept_uniAccess ok fun s h ok => by simp [ok]

@[simp] theorem outKept_execLoadReturn (grp op : Nat) {s : State} (ok : ViewOk (memView s)) : OutKept (execLoadReturn grp op s) := by
  simp only [execLoadReturn]
  split <;> simp [ok]

@[simp] theorem outKept_execStorePerformed (grp op : Nat) {s : State} (ok : ViewOk (memView s)) :
    OutKept (execStorePerformed grp op s) := by
  simp only [execStorePerformed]
  split <;> simp [ok]

@[simp] theorem memView_mfenceSync (s : State) (cx : Cx) (kind : BitVec 2) (scope : Nat) :
    memView (mfenceSync s cx kind scope) = memView s := by
  simp [mfenceSync]

@[simp] theorem outKept_execMfence (st k : BitVec 2) (c : BitVec 3) {s : State} (ok : ViewOk (memView s)) :
    OutKept (execMfence st k c s) := by
  simp [execMfence, ok]

@[simp] theorem outKept_execMfenceHoldEnd (grp frag : Nat) {s : State} (ok : ViewOk (memView s)) :
    OutKept (execMfenceHoldEnd grp frag s) := by
  simp only [execMfenceHoldEnd]
  split <;> simp [ok]

theorem outKept_execTrld (st : BitVec 2) (t : BitVec 3) (a b : BitVec 6) {s : State} (ok : ViewOk (memView s)) :
    OutKept (execTrld st t a b s) := by
  refine outKept_issue ok fun cx => ?_
  dsimp only
  split
  · trivial
  · split <;> simp [ok]

end Sys2Proof.Proofs

/-! PROOFS. The tiles, barriers, engines, feeds, fetch, chains and notify counters keep the form (O8). -/

namespace Sys2Proof.Proofs

open Sys2Proof Sys2Proof.Machine Sys2Proof.Laws

@[simp] theorem memView_tileChange (s : State) (tm k : Nat) (f : Tile → Tile) : memView (modTile s tm k f) = memView s :=
  memView_modTile s tm k f

@[simp] theorem memView_noteTiles (s : State) (k tm : Nat) (pc : VAddr) (ks : List Nat) (rows : Nat → Nat → Bool) :
    memView (noteTiles s k tm pc ks rows) = memView s := by
  simp [noteTiles]

@[simp] theorem memView_beginWrite (s : State) (tm : Nat) (ks : List Nat) : memView (beginWrite s tm ks) = memView s := by
  simp [beginWrite]

@[simp] theorem memView_beginRead (s : State) (tm : Nat) (ks : List Nat) : memView (beginRead s tm ks) = memView s := by
  simp [beginRead]

@[simp] theorem memView_endWrite (s : State) (tm : Nat) (ks : List Nat) : memView (endWrite s tm ks) = memView s :=
  (elemsKept_endWrite s tm ks).view

@[simp] theorem memView_endRead (s : State) (tm : Nat) (ks : List Nat) : memView (endRead s tm ks) = memView s :=
  (elemsKept_endRead s tm ks).view

@[simp] theorem outKept_execMmsc (st : BitVec 2) (a b : BitVec 6) {s : State} (ok : ViewOk (memView s)) : OutKept (execMmsc st a b s) := by
  simp [execMmsc, ok]

@[simp] theorem outKept_execMma (st : BitVec 2) (h : BitVec 1) (t : BitVec 5) (a : BitVec 4) (y : BitVec 3) (b : BitVec 4) (z : BitVec 1)
    (n : BitVec 2) {s : State} (ok : ViewOk (memView s)) : OutKept (execMma st h t a y b z n s) := by
  simp [execMma, ok]

@[simp] theorem memView_dropOp (s : State) (k id : Nat) : memView (dropOp s k id) = memView s := by
  simp [dropOp]

/-- Steps on a state and a value beside it that leave the memories. -/
theorem memView_foldl_fst {α β : Type} {f : State × β → α → State × β} (h : ∀ p x, memView (f p x).1 = memView p.1) (l : List α)
    (p : State × β) : memView (l.foldl f p).1 = memView p.1 := by
  induction l generalizing p with
  | nil => rfl
  | cons x l ih => exact (ih _).trans (h p x)

@[simp] theorem memView_writeTiles (s : State) (tm : Nat) (ks : List Nat) (f : Nat → Tile → Tile × Flg) :
    memView (writeTiles s tm ks f).1 = memView s :=
  memView_foldl_fst (fun p x => memView_modTile p.1 tm x.1 _) _ _

theorem outKept_execMmaRetire (grp op : Nat) {s : State} (ok : ViewOk (memView s)) : OutKept (execMmaRetire grp op s) := by
  rw [execMmaRetire]
  dsimp only
  split
  · exact (outKept_next s).2 ok
  · split
    · split <;> simp [ok]
    · exact (outKept_next s).2 ok

@[simp] theorem outKept_execTld (st : BitVec 2) (h : BitVec 1) (t : BitVec 5) (a : BitVec 4) {s : State} (ok : ViewOk (memView s)) :
    OutKept (execTld st h t a s) := by
  simp [execTld, ok]

@[simp] theorem outKept_execTst (st : BitVec 2) (h : BitVec 1) (t : BitVec 5) (a : BitVec 4) {s : State} (ok : ViewOk (memView s)) :
    OutKept (execTst st h t a s) := by
  simp [execTst, ok]

theorem outKept_execTileMoveRetire (grp op : Nat) {s : State} (ok : ViewOk (memView s)) : OutKept (execTileMoveRetire grp op s) := by
  rw [execTileMoveRetire]
  dsimp only
  split
  · exact (outKept_next s).2 ok
  · split
    · simp [ok]
    · split <;> simp [ok]
    · simp [ok]
    · exact (outKept_next s).2 ok

@[simp] theorem outKept_execTzero (st : BitVec 2) (t n : BitVec 5) {s : State} (ok : ViewOk (memView s)) :
    OutKept (execTzero st t n s) := by
  simp [execTzero, ok]

theorem outKept_execTepi (st : BitVec 2) (t : BitVec 5) (e : BitVec 6) (f : BitVec 3) (p : BitVec 2) (a : BitVec 1) {s : State}
    (ok : ViewOk (memView s)) : OutKept (execTepi st t e f p a s) := by
  refine outKept_issueWith ok fun cx => ?_
  simp only [resKept_ite]
  refine ⟨fun _ => trivial, fun _ => ⟨fun _ => trivial, fun _ => ⟨fun _ => trivial, fun _ => ?_⟩⟩⟩
  split
  · trivial
  · simp [ok]

@[simp] theorem memView_mmapIssue (s : State) (cx : Cx) (m : MmapRec) : memView (mmapIssue s cx m) = memView s := by
  simp [mmapIssue]

theorem outKept_execMmap (st : BitVec 2) (c : BitVec 3) (n : BitVec 1) (e : BitVec 6) (b : BitVec 1) (p : BitVec 2) (l z : BitVec 1)
    (y : BitVec 3) {s : State} (ok : ViewOk (memView s)) : OutKept (execMmap st c n e b p l z y s) := by
  refine outKept_issueWith ok fun cx => ?_
  simp only [resKept_ite]
  refine ⟨fun _ => resKept_finish 4 id cx ok, fun _ => ⟨fun _ => trivial, fun _ => ?_⟩⟩
  split <;> simp [ok]

@[simp] theorem memView_mmapBlock (s : State) (k : Nat) (g : Group) (m : MmapRec) : memView (mmapBlock s k g m) = memView s := by
  rw [mmapBlock_eq, memView_modGrp]
  refine (memView_foldl_fst (fun p x => memView_modTile p.1 _ x.1 _) _ _).trans ?_
  exact (blockHeld_held s k g m).view

@[simp] theorem outKept_execMmapBlockComplete (grp : Nat) {s : State} (ok : ViewOk (memView s)) :
    OutKept (execMmapBlockComplete grp s) := by
  simp only [execMmapBlockComplete]
  split <;> simp [ok]

@[simp] theorem outKept_execMmapRetire (grp : Nat) {s : State} (ok : ViewOk (memView s)) : OutKept (execMmapRetire grp s) := by
  simp only [execMmapRetire]
  split <;> simp [ok]

@[simp] theorem memView_mmapStop (s : State) (k : Nat) (m : MmapRec) : memView (mmapStop s k m) = memView s := by
  simp [mmapStop]

@[simp] theorem memView_mmaMismatch (s : State) (k : Nat) (o : FlightOp) (tile : Nat) : memView (mmaMismatch s k o tile) = memView s := by
  simp [mmaMismatch]

theorem outKept_execArrayResidueMismatch (grp op tile : Nat) {s : State} (ok : ViewOk (memView s)) :
    OutKept (execArrayResidueMismatch grp op tile s) := by
  have hmma : ∀ o, ViewOk (memView (if payloadMma o.payload then mmaMismatch s grp o tile else s)) := fun o => by simp [ok]
  rw [execArrayResidueMismatch]
  split
  · simp only [outKept_ite, outKept_next]
    refine ⟨fun _ => ⟨fun _ => ok, fun _ => ⟨fun _ => by simp [ok], fun _ => by simp [ok]⟩⟩, fun _ => ?_⟩
    split
    · exact (outKept_next _).2 (hmma _)
    · exact (outKept_next _).2 ok
  · split
    · exact (outKept_next _).2 (hmma _)
    · exact (outKept_next _).2 ok

@[simp] theorem memView_setBar (s : State) (tm key : Nat) (b : Bar) : memView (setBar s tm key b) = memView s := by
  simp [setBar]

@[simp] theorem memView_releaseAcquires (s : State) (tm key : Nat) (b : Bar) : memView (releaseAcquires s tm key b) = memView s := by
  simp [releaseAcquires]

@[simp] theorem memView_barCheck (s : State) (tm key : Nat) : memView (barCheck s tm key) = memView s := by
  simp [barCheck]

@[simp] theorem viewOk_barFail {s : State} (tm key : Nat) (b : Bar) (status : Nat) (ok : ViewOk (memView s)) :
    ViewOk (memView (barFail s tm key b status)) := by
  simp [barFail, ok]

/-- Teams changed so that none of their memory does. -/
theorem viewOf_mapTeams {f : Nat × Team → Team} (h : ∀ p, (f p).mem = p.2.mem) (host : Memory) (islands : Tbl Island) (teams : Tbl Team) :
    viewOf host islands (teams.map fun p => (p.1, f p)) = viewOf host islands teams := by
  have hteam : (fun t => (tblGet (teams.map fun p => (p.1, f p)) t).mem) = fun t => (tblGet teams t).mem := by
    funext t
    induction teams with
    | nil => rfl
    | cons p l ih =>
      rw [tblGet, tblGet] at ih ⊢
      rw [List.map_cons, tblGet?, tblGet?]
      split
      · exact h p
      · exact ih
  have hset : { m | ∃ p ∈ teams.map fun p => (p.1, f p), p.2.mem = m } = { m | ∃ p ∈ teams, p.2.mem = m } := by
    ext m
    simp [h]
  rw [viewOf, hteam, hset, viewOf]

@[simp] theorem memView_countTimers (n : Nat) (s : State) : memView (countTimers n s) = memView s := by
  have hmap : (s.teams.map fun p => if ctxRuns s p.2.island p.2.ctx then (p.1, countTeam n s p.1 p.2) else p)
      = s.teams.map fun p => (p.1, if ctxRuns s p.2.island p.2.ctx then countTeam n s p.1 p.2 else p.2) :=
    List.map_congr_left fun p _ => by split <;> rfl
  rw [countTimers, hmap, memView_mk]
  refine viewOf_mapTeams (fun p => ?_) ..
  split <;> rfl

@[simp] theorem outKept_execBarrierTimeout (tm key : Nat) {s : State} (ok : ViewOk (memView s)) :
    OutKept (execBarrierTimeout tm key s) := by
  simp [execBarrierTimeout, ok]

@[simp] theorem viewOk_barPend {s : State} (tm key : Nat) (b : Bar) (n : Int) (ok : ViewOk (memView s)) :
    ViewOk (memView (barPend s tm key b n)) := by
  simp [barPend, ok]

@[simp] theorem viewOk_barLand {s : State} (tm key n : Nat) (ok : ViewOk (memView s)) : ViewOk (memView (barLand s tm key n)) := by
  simp only [barLand]
  split <;> simp [ok]

@[simp] theorem resKept_wrongState : ResKept wrongState ↔ True := Iff.rfl

@[simp] theorem resKept_pass (cx : Cx) {s : State} (ok : ViewOk (memView s)) : ResKept (Machine.pass s cx) := by
  simp [Machine.pass, ok]

@[simp] theorem outKept_execBinit (st : BitVec 2) (n : BitVec 6) (t : BitVec 1) (k : BitVec 15) {s : State} (ok : ViewOk (memView s)) :
    OutKept (execBinit st n t k s) := by
  simp [execBinit, ok]

@[simp] theorem viewOk_arrive {s : State} (tm key k : Nat) (b : Bar) (ok : ViewOk (memView s)) :
    ViewOk (memView (arrive s tm key k b)) := by
  simp [arrive, ok]

@[simp] theorem memView_barRelease (s : State) (key : Nat) (m : Mask) (b : Bar) : memView (barRelease s key m b).1 = memView s := by
  simp only [barRelease]
  split <;> simp

@[simp] theorem viewOk_barvAct {s : State} (cx : Cx) (key k d : Nat) (ok : ViewOk (memView s)) :
    ViewOk (memView (barvAct s cx key k d)) := by
  simp [barvAct, ok]

@[simp] theorem outKept_execBarv (st : BitVec 2) (n : BitVec 6) (t : BitVec 1) (d : BitVec 6) (k : BitVec 9) {s : State}
    (ok : ViewOk (memView s)) : OutKept (execBarv st n t d k s) := by
  simp [execBarv, ok]

@[simp] theorem outKept_execBarvArrival (grp frag : Nat) {s : State} (ok : ViewOk (memView s)) : OutKept (execBarvArrival grp frag s) := by
  simp only [execBarvArrival]
  split <;> simp [ok]

@[simp] theorem outKept_bexpOp (st : BitVec 2) (n : BitVec 6) (t : BitVec 1) (reads : List UniUse) (count : Regs → Nat) {s : State}
    (ok : ViewOk (memView s)) : OutKept (bexpOp st n t reads count s) := by
  simp [bexpOp, ok]

@[simp] theorem outKept_execBwait (st : BitVec 2) (n : BitVec 6) (t : BitVec 1) (a : BitVec 6) (f : BitVec 9) {s : State}
    (ok : ViewOk (memView s)) : OutKept (execBwait st n t a f s) := by
  simp [execBwait, ok]

@[simp] theorem outKept_execBtry (st : BitVec 2) (n : BitVec 6) (t : BitVec 1) (a : BitVec 6) (c : BitVec 3) {s : State}
    (ok : ViewOk (memView s)) : OutKept (execBtry st n t a c s) := by
  simp [execBtry, ok]

@[simp] theorem outKept_execBinv (st : BitVec 2) (n : BitVec 6) (t : BitVec 1) {s : State} (ok : ViewOk (memView s)) :
    OutKept (execBinv st n t s) := by
  simp [execBinv, ok]

@[simp] theorem memView_pinAll (s : State) (i c : Nat) (ps : List (Nat × Nat × Nat)) : memView (pinAll s i c ps) = memView s := by
  simp [pinAll]

@[simp] theorem memView_unpin (s : State) (i : Nat) (frames : List Nat) : memView (unpin s i frames) = memView s := by
  simp [unpin]

@[simp] theorem checkedKept_checkEngine {s : State} (cx : Cx) (acc : Acc) (wr : Bool) (rs : List Req) (ok : ViewOk (memView s)) :
    CheckedKept (checkEngine s cx acc wr rs) := by
  have htrans := viewOk_translateAll cx.g.ident.island cx.g.ident.ctx (privileged cx.g.ident) acc rs ok
  rw [checkEngine]
  dsimp only
  split
  · exact htrans
  · split
    · simpa [CheckedKept, stateOf] using htrans
    · split <;> simpa [CheckedKept, stateOf] using htrans

theorem memPartOk_addEngine {m : IslandMem} (n : Nat) {o : EngineOp} (ho : o.own = none) (h : MemPartOk m) :
    MemPartOk { m with engines := tblSet m.engines n o } :=
  ⟨h.1, fun p hp => by
    rcases mem_tblSet hp with rfl | hp
    · exact fun x hx => absurd (ho.symm.trans hx) (by simp)
    · exact h.2 p hp⟩

theorem viewOk_startEngine {s : State} (cx : Cx) {o : EngineOp} (locks : List RangeLock) (pins : List (Nat × Nat × Nat))
    (writes : List RegWrite) (mask : Mask) (ho : o.own = none) (ok : ViewOk (memView s)) :
    ViewOk (memView (startEngine s cx o locks pins writes mask)) := by
  have hstart := viewOk_modMem (s := takeLocks (pinAll s cx.g.ident.island cx.g.ident.ctx pins) cx s.seq locks) cx.g.ident.island
    (fun m hm => memPartOk_addEngine s.seq (o := { o with
      grp := cx.key, age := cx.g.age, pc := cx.f.pc, ctx := cx.g.ident.ctx, team := cx.g.ident.team, pins := pins.map (·.1) }) ho hm)
    (by simp [ok])
  rw [startEngine]
  simp [hstart]

@[simp] theorem resKept_copyBody (kind : Engine) (e d : BitVec 6) (cx : Cx) {s : State} (ok : ViewOk (memView s)) :
    ResKept (copyBody kind e d cx s) := by
  simp only [copyBody, resKept_ite]
  refine ⟨fun _ => trivial, fun _ => ⟨fun _ => by simp [ok], fun _ => ?_⟩⟩
  split
  · trivial
  · split <;> rename_i hc
    · exact viewOk_of_checked (checkedKept_checkEngine cx _ _ _ ok) hc
    · exact viewOk_of_checked (checkedKept_checkEngine cx _ _ _ ok) hc
    · have hok := viewOk_of_checked (checkedKept_checkEngine cx _ _ _ ok) hc
      simp only [resKept_ite]
      refine ⟨fun _ => viewOk_park cx _ _ 4 _ hok, fun _ => ⟨fun _ => hok, fun _ => ?_⟩⟩
      rw [resKept_ok, memView_modGrp]
      exact viewOk_startEngine cx _ _ _ _ rfl hok

@[simp] theorem outKept_execTcopy (st : BitVec 2) (c : BitVec 3) (n : BitVec 1) (e d : BitVec 6) {s : State} (ok : ViewOk (memView s)) :
    OutKept (execTcopy st c n e d s) := by
  simp [execTcopy, ok]

@[simp] theorem outKept_execTsto (st : BitVec 2) (c : BitVec 3) (n : BitVec 1) (e d : BitVec 6) {s : State} (ok : ViewOk (memView s)) :
    OutKept (execTsto st c n e d s) := by
  simp [execTsto, ok]

theorem outKept_execTpref (st : BitVec 2) (c : BitVec 3) (n : BitVec 1) (e : BitVec 6) {s : State} (ok : ViewOk (memView s)) :
    OutKept (execTpref st c n e s) := by
  refine outKept_issueWith ok fun cx => ?_
  simp only [resKept_ite]
  refine ⟨fun _ => resKept_finish 4 id cx ok, fun _ => ?_⟩
  split
  · trivial
  · simp only [resKept_ok, memView_modGrp, memView_addOp]
    refine viewOk_foldl (fun s p ok => ?_) _ (by simp [ok])
    split <;> simp [ok]

@[simp] theorem outKept_execTprefLanding (grp op : Nat) {s : State} (ok : ViewOk (memView s)) : OutKept (execTprefLanding grp op s) := by
  simp only [execTprefLanding]
  split <;> simp [ok]

theorem viewOk_acpStart (cx : Cx) {s : State} (ls : List (Req × Nat)) (key : Nat) (hs : List Hit) (pins : List (Nat × Nat × Nat))
    (ok : ViewOk (memView s)) : ViewOk (memView (acpStart cx s ls key hs pins)) :=
  viewOk_startEngine cx _ _ _ _ rfl ok

theorem outKept_execAcp16 (st : BitVec 2) (d a : BitVec 7) (t : BitVec 3) (b : BitVec 6) {s : State} (ok : ViewOk (memView s)) :
    OutKept (execAcp16 st d a t b s) := by
  refine outKept_issueWith ok fun cx => ?_
  simp only [resKept_ite]
  refine ⟨fun _ => trivial, fun _ => ⟨fun _ => by simp [ok], fun _ => ⟨fun _ => trivial, fun _ => ?_⟩⟩⟩
  split
  · trivial
  · split
    · simp [ok]
    · split
      · simp [ok]
      · simp only [resKept_ite]
        have hchecked : ∀ hits, ViewOk (memView (vcAll cx.g.ident.island cx.g.ident.ctx false (translateAll cx.g.ident.island cx.g.ident.ctx
            (privileged cx.g.ident) .read s ((acpLanes cx d a t).map (·.1))).1 hits).1) := fun hits => by simp [ok]
        refine ⟨fun _ => hchecked _, fun _ => ⟨fun _ => viewOk_park cx _ _ 4 _ (hchecked _), fun _ => ⟨fun _ => hchecked _, fun _ => ?_⟩⟩⟩
        exact viewOk_passOrPark cx _ _ _ (viewOk_acpStart cx _ _ _ _ (hchecked _))

@[simp] theorem viewOk_landStore (i core : Nat) (m : Memory) {s : State} (p : EnginePiece) (ok : ViewOk (memView s)) :
    ViewOk (memView (landStore i core m s p)) := by
  simp only [landStore]
  split <;> simp [ok]

theorem viewOk_landData {s : State} (i : Nat) (o : EngineOp) (ok : ViewOk (memView s)) : ViewOk (memView (landData s i o).1) := by
  have hstores : ∀ core m t, ViewOk (memView t) → ViewOk (memView (o.pieces.foldl (landStore i core m) t)) :=
    fun core m t ok => viewOk_foldl (fun s p ok => viewOk_landStore i core m p ok) o.pieces ok
  by_cases ht : TeamIn s o.team
  · by_cases hk : o.kind = .tsto
    · rw [landData_tsto ht hk]
      refine hstores _ _ _ ?_
      rw [(storesFrom_held s o).view]
      exact ok
    · rw [landData_reads ht hk]
      refine viewOk_teamPut _ _ ?_
      rw [memView_touchPieces]
      exact ok
  · have hnone : tblGet? s.teams o.team = none := by simpa [TeamIn] using ht
    rw [landData, hnone]
    dsimp only
    split
    · split
      · exact hstores _ _ _ ok
      · exact ok
    · exact ok

@[simp] theorem memView_landGroup (s : State) (n : Nat) (o : EngineOp) (bad : Bool) : memView (landGroup s n o bad) = memView s := by
  simp only [landGroup]
  split <;> simp

@[simp] theorem viewOk_land {s : State} (i n : Nat) (o : EngineOp) (ok : ViewOk (memView s)) : ViewOk (memView (land s i n o)) := by
  have hdrop : ∀ t, ViewOk (memView t) → ViewOk (memView (modMem t i (dropEngine n))) := fun t ok =>
    viewOk_modMem i (fun m hm => ⟨hm.1, fun p hp => hm.2 p (mem_tblDel hp)⟩) ok
  simp [land_eq, hdrop _ (viewOk_landData i o ok)]

@[simp] theorem outKept_execEngineLanding (island op : Nat) {s : State} (ok : ViewOk (memView s)) :
    OutKept (execEngineLanding island op s) := by
  simp only [execEngineLanding]
  split <;> simp [ok]

@[simp] theorem outKept_execAcp16Landing (island op : Nat) {s : State} (ok : ViewOk (memView s)) :
    OutKept (execAcp16Landing island op s) := by
  simp only [execAcp16Landing]
  split <;> simp [ok]

@[simp] theorem resKept_waitFeed {s : State} (cx : Cx) (ok : ViewOk (memView s)) : ResKept (waitFeed s cx) := by
  simp [waitFeed, ok]

@[simp] theorem resKept_feedFault (st : BitVec 8) : ResKept (feedFault st) ↔ True := Iff.rfl

@[simp] theorem outKept_execSpecialFunctionEntryTaken (grp win : Nat) {s : State} (ok : ViewOk (memView s)) :
    OutKept (execSpecialFunctionEntryTaken grp win s) := by
  simp [execSpecialFunctionEntryTaken, ok]

@[simp] theorem outKept_execSpecialFunctionResult (grp win : Nat) {s : State} (ok : ViewOk (memView s)) :
    OutKept (execSpecialFunctionResult grp win s) := by
  simp [execSpecialFunctionResult, ok]

@[simp] theorem outKept_execFeedTimeout (grp frag : Nat) {s : State} (ok : ViewOk (memView s)) : OutKept (execFeedTimeout grp frag s) := by
  simp [execFeedTimeout, ok]

@[simp] theorem memView_giveQ3 (n : Nat) (s : State) (i k x : Nat) : memView (giveQ3 n s i k x) = memView s := by
  induction n generalizing s with
  | zero => rfl
  | succ n ih =>
    rw [giveQ3]
    dsimp only
    split
    · split
      · rw [ih]
        simp
      · rfl
    · rfl

@[simp] theorem memView_noteReady (s : State) : memView (noteReady s) = memView s := by
  simp [noteReady]

/-- The state in which the fetch of a word leaves off keeps the form. -/
def WordKept : Word1 → Prop
  | .ok s _ | .fault s _ | .wait s | .miss s _ => ViewOk (memView s)

theorem wordKept_fetchWord {s : State} (cx : Cx) (va : VAddr) (ok : ViewOk (memView s)) : WordKept (fetchWord s cx va) := by
  have htrans := viewOk_translate cx.g.ident.island cx.g.ident.ctx (privileged cx.g.ident) va.toNat .fetch 0 ok
  rw [fetchWord]
  dsimp only
  split
  · exact htrans
  · exact htrans
  · have hentry : ∀ vcx, ViewOk (memView (vctEntry (Machine.translate s cx.g.ident.island cx.g.ident.ctx (privileged cx.g.ident)
        va.toNat .fetch 0).1 cx.g.ident.island cx.g.ident.ctx vcx 0).1) := fun vcx => by rw [memView_vctEntry]; exact htrans
    split
    · exact hentry _
    · exact hentry _
    · show ViewOk (memView (modMem _ _ _))
      rw [memView_modMem (fun m => memPart_vcTouch ..)]
      exact hentry _

theorem wordKept_of {s t : State} {cx : Cx} {va : VAddr} {b : List Byte} (ok : ViewOk (memView s)) (h : fetchWord s cx va = .ok t b) :
    ViewOk (memView t) := by
  have hword := wordKept_fetchWord cx va ok
  rw [h] at hword
  exact hword

/-- The state in which the fetch of an instruction leaves off keeps the form. -/
def FetchedKept : Fetched → Prop
  | .instr s _ | .fault s _ | .wait s | .miss s _ => ViewOk (memView s)

theorem fetchedKept_fetch {s : State} (cx : Cx) (ok : ViewOk (memView s)) : FetchedKept (fetch s cx) := by
  have hfirst := wordKept_fetchWord cx cx.f.pc ok
  rw [fetch]
  cases hw : fetchWord s cx cx.f.pc with
  | fault t c => rw [hw] at hfirst; exact hfirst
  | wait t => rw [hw] at hfirst; exact hfirst
  | miss t x => rw [hw] at hfirst; exact hfirst
  | ok t b =>
    rw [hw] at hfirst
    have hok : ViewOk (memView t) := hfirst
    have hsecond := wordKept_fetchWord cx (pcAdd cx.f.pc 4) hok
    dsimp only
    split
    · exact hok
    · cases hw2 : fetchWord t cx (pcAdd cx.f.pc 4) with
      | fault u c => rw [hw2] at hsecond; exact hsecond
      | wait u => rw [hw2] at hsecond; exact hsecond
      | miss u x => rw [hw2] at hsecond; exact hsecond
      | ok u b2 =>
        rw [hw2] at hsecond
        dsimp only
        split <;> exact hsecond
    · exact hok

@[simp] theorem resKept_chainIssue (ls : List (Option Link)) (sink : BitVec 8) (cx : Cx) {s : State} (ok : ViewOk (memView s)) :
    ResKept (chainIssue ls sink cx s) := by
  simp [chainIssue, ok]

/-- The state in which the fetch of a CHAIN's links leaves off keeps the form. -/
def LinksKept : LinksFetched → Prop
  | .ok s _ | .fault s _ | .wait s | .miss s _ => ViewOk (memView s)

theorem linksKept_fetchLinks {s : State} (cx : Cx) (va : VAddr) (n : Nat) (ok : ViewOk (memView s)) : LinksKept (fetchLinks s cx va n) := by
  induction n generalizing s va with
  | zero => exact ok
  | succ n ih =>
    have hword := wordKept_fetchWord cx va ok
    rw [fetchLinks]
    cases hw : fetchWord s cx va with
    | fault t c => rw [hw] at hword; exact hword
    | wait t => rw [hw] at hword; exact hword
    | miss t x => rw [hw] at hword; exact hword
    | ok t b =>
      rw [hw] at hword
      have hrest := ih (pcAdd va 4) hword
      dsimp only
      cases hl : fetchLinks t cx (pcAdd va 4) n <;> rw [hl] at hrest <;> exact hrest

theorem linksKept_of {s t : State} {cx : Cx} {va : VAddr} {n : Nat} {ws : List Nat} (ok : ViewOk (memView s))
    (h : fetchLinks s cx va n = .ok t ws) : ViewOk (memView t) := by
  have hlinks := linksKept_fetchLinks cx va n ok
  rw [h] at hlinks
  exact hlinks

theorem outKept_execChain (st : BitVec 2) (l : BitVec 3) (k : BitVec 8) {s : State} (ok : ViewOk (memView s)) :
    OutKept (execChain st l k s) := by
  rw [execChain]
  cases hi : issuing s with
  | none => rintro t ⟨⟩
  | some cx =>
    have hlinks := linksKept_fetchLinks cx (pcAdd cx.f.pc 4) (l.toNat + 1) ok
    dsimp only
    cases hl : fetchLinks s cx (pcAdd cx.f.pc 4) (l.toNat + 1) with
    | fault t c => rw [hl] at hlinks; exact (outKept_next _).2 (viewOk_takeFault cx c hlinks)
    | wait t =>
      rw [hl] at hlinks
      refine (outKept_next _).2 ?_
      rw [memView_markWaiting]
      exact hlinks
    | miss t x => rw [hl] at hlinks; exact (outKept_next _).2 (viewOk_park cx _ _ 4 _ hlinks)
    | ok t ws =>
      rw [hl] at hlinks
      dsimp only
      split
      · exact (outKept_next _).2 (viewOk_takeFault cx _ hlinks)
      · exact outKept_issue hlinks fun cx => resKept_chainIssue _ k cx hlinks

theorem outKept_execChainRetire (grp frag : Nat) {s : State} (ok : ViewOk (memView s)) : OutKept (execChainRetire grp frag s) := by
  rw [execChainRetire]
  split
  · exact (outKept_next _).2 ok
  · split <;> simp [ok]

theorem outKept_execDigitResidueMismatch (grp frag : Nat) {s : State} (ok : ViewOk (memView s)) :
    OutKept (execDigitResidueMismatch grp frag s) := by
  rw [execDigitResidueMismatch]
  split
  · exact (outKept_next _).2 ok
  · split <;> simp [ok]

@[simp] theorem memView_ctrSet (s : State) (i n : Nat) (x : DWord) : memView (ctrSet s i n x) = memView s := by
  simp [ctrSet]

@[simp] theorem memView_ctrAdd (s : State) (i n : Nat) (k : DWord) : memView (ctrAdd s i n k) = memView s := by
  simp [ctrAdd]

@[simp] theorem memView_ctrBump (s : State) (i : Nat) (n : Option Nat) : memView (ctrBump s i n) = memView s := by
  simp only [ctrBump]
  split <;> simp

@[simp] theorem outKept_execWaitn (st : BitVec 2) (c v : BitVec 6) (f : BitVec 10) {s : State} (ok : ViewOk (memView s)) :
    OutKept (execWaitn st c v f s) := by
  simp [execWaitn, ok]

@[simp] theorem memView_countWaits (n : Nat) (s : State) : memView (countWaits n s) = memView s := by
  simp [countWaits]

@[simp] theorem outKept_execWaitnTimeout (grp frag : Nat) {s : State} (ok : ViewOk (memView s)) :
    OutKept (execWaitnTimeout grp frag s) := by
  simp [execWaitnTimeout, ok]

@[simp] theorem outKept_execNcvalWrite (island : Nat) (val : DWord) {s : State} (ok : ViewOk (memView s)) :
    OutKept (execNcvalWrite island val s) := by
  simp [execNcvalWrite, ok]

end Sys2Proof.Proofs

/-! PROOFS. The virtual caches, the context image and its commands keep the form (O8). -/

namespace Sys2Proof.Proofs

open Sys2Proof Sys2Proof.Machine Sys2Proof.Laws

@[simp] theorem viewOk_cdrPut {s : State} (i idx : Nat) (f : Nat → Nat) (ok : ViewOk (memView s)) : ViewOk (memView (cdrPut s i idx f)) :=
  viewOk_modMem i (fun _ hm => ⟨memPutNat_wf _ _ _ hm.1, hm.2⟩) ok

@[simp] theorem viewOk_writeState {s : State} (i vn : Nat) (ok : ViewOk (memView s)) : ViewOk (memView (writeState s i vn)) := by
  simp [writeState, ok]

@[simp] theorem viewOk_writeDeckle {s : State} (i vn : Nat) (ok : ViewOk (memView s)) : ViewOk (memView (writeDeckle s i vn)) := by
  simp [writeDeckle, ok]

@[simp] theorem memView_modVc (s : State) (i vn : Nat) (f : Vc → Vc) : memView (modVc s i vn f) = memView s := by
  simp [modVc]

@[simp] theorem memPart_markOld (m : IslandMem) (vn : Nat) (o n : List Share) : memPart (markOld m vn o n) = memPart m := by
  simp [markOld]

@[simp] theorem memPart_drainClaim (m : IslandMem) (bs : List Nat) : memPart (drainClaim m bs) = memPart m := by
  simp [drainClaim]

@[simp] theorem viewOk_acceptVc {s : State} (i : Nat) (op : VcOp) (ri x y : Nat) (notify : Option Nat) (ok : ViewOk (memView s)) :
    ViewOk (memView (acceptVc s i op ri x y notify)) := by
  simp only [acceptVc]
  split <;> simp [ok]

@[simp] theorem viewOk_applyVc {s : State} (i : Nat) (op : VcOp) (w : Nat) (ok : ViewOk (memView s)) : ViewOk (memView (applyVc s i op w).2) := by
  simp [applyVc, ok]

theorem outKept_vcOp (op : VcOp) (st : BitVec 2) (d a : BitVec 6) {s : State} (ok : ViewOk (memView s)) : OutKept (vcOp op st d a s) := by
  refine outKept_issue ok fun cx => ?_
  dsimp only
  split
  · trivial
  · split <;> simp [ok]

@[simp] theorem memView_vcNotify (s : State) (i vn : Nat) : memView (vcNotify s i vn) = memView s := by
  simp [vcNotify]

@[simp] theorem outKept_execVcClaimDrained (island vn : Nat) {s : State} (ok : ViewOk (memView s)) :
    OutKept (execVcClaimDrained island vn s) := by
  simp [execVcClaimDrained, ok]

@[simp] theorem memPart_sweepLine (m : IslandMem) (vn line tick : Nat) : memPart (sweepLine m vn line tick) = memPart m := by
  simp only [sweepLine]
  split <;> simp

theorem outKept_execVcSweepLine (island vn : Nat) {s : State} (ok : ViewOk (memView s)) : OutKept (execVcSweepLine island vn s) := by
  rw [execVcSweepLine]
  split
  · split <;> simp [ok]
  · exact (outKept_next _).2 ok

theorem outKept_execVcResizeEnd (island vn : Nat) {s : State} (ok : ViewOk (memView s)) : OutKept (execVcResizeEnd island vn s) := by
  simp only [execVcResizeEnd, outKept_ite, outKept_next, memView_vcNotify]
  refine ⟨fun _ => viewOk_writeState island vn (viewOk_writeDeckle island vn ?_), fun _ => ok⟩
  simp [ok]

@[simp] theorem outKept_execVcDrainStart (island vn : Nat) {s : State} (ok : ViewOk (memView s)) :
    OutKept (execVcDrainStart island vn s) := by
  simp [execVcDrainStart, ok]

@[simp] theorem outKept_execVcDrainEnd (island vn : Nat) {s : State} (ok : ViewOk (memView s)) : OutKept (execVcDrainEnd island vn s) := by
  simp [execVcDrainEnd, ok]

@[simp] theorem memPart_ageLines (m : IslandMem) (vn : Nat) : memPart (ageLines m vn) = memPart m := by
  simp [ageLines]

@[simp] theorem viewOk_failBank {s : State} (i b : Nat) (lost : List Nat) (ok : ViewOk (memView s)) : ViewOk (memView (failBank s i b lost)) := by
  rw [failBank]
  split
  · exact ok
  · split
    · simp [ok]
    · refine viewOk_writeState i _ ?_
      split <;> simp [ok]

@[simp] theorem viewOk_poisonSector {s : State} (i sec : Nat) (ok : ViewOk (memView s)) : ViewOk (memView (poisonSector s i sec)) := by
  simp only [poisonSector]
  split <;> simp [ok]

@[simp] theorem outKept_execHbmUncorrectableError (island sector : Nat) {s : State} (ok : ViewOk (memView s)) :
    OutKept (execHbmUncorrectableError island sector s) := by
  simp [execHbmUncorrectableError, ok]

@[simp] theorem outKept_execVcq (st : BitVec 2) (d a : BitVec 6) {s : State} (ok : ViewOk (memView s)) : OutKept (execVcq st d a s) := by
  simp [execVcq, ok]

@[simp] theorem memView_framesIn (s : State) (i c : Nat) (priv : Bool) (lo hi : Nat) : memView (framesIn s i c priv lo hi).1 = memView s := by
  refine memView_foldl_fst (fun r p => ?_) _ _
  split
  · dsimp only
    split <;> simp
  · rfl

@[simp] theorem memPart_cleanFrames (fs : List (Nat × Nat)) (drop : Bool) (m : IslandMem) :
    memPart (cleanFrames fs drop m) = memPart m := by
  simp [cleanFrames]

@[simp] theorem viewOk_touchLeaves {s : State} (i : Nat) (l : List (Nat × DWord × Nat × Nat)) (ok : ViewOk (memView s)) :
    ViewOk (memView (touchLeaves s i l)) :=
  viewOk_foldl (fun _ _ ok => viewOk_setAccessed i _ ok) l ok

theorem outKept_vcClean (drop : Bool) (st : BitVec 2) (a b c : BitVec 6) (x : BitVec 1) {s : State} (ok : ViewOk (memView s)) :
    OutKept (vcClean drop st a b c x s) := by
  refine outKept_issue ok fun cx => ?_
  simp [ok]

@[simp] theorem outKept_execHomeOwnershipRequest (island slice sector : Nat) (cores : List Nat) {s : State} (ok : ViewOk (memView s)) :
    OutKept (execHomeOwnershipRequest island slice sector cores s) := by
  simp [execHomeOwnershipRequest, ok]

theorem saveTeamMarks_wf {s : State} {ts : List (Nat × Team)} {t ix block : Nat} {m : Memory} (h : m.wf = true) :
    (saveTeamMarks s ts t ix block m).wf = true :=
  memBlit_wf _ _ (memBlit_wf _ _ (memBlit_wf _ _ h))

/-- Memories that a fold of steps builds, each of which keeps the form. -/
theorem foldl_wf {α : Type} {f : Memory → α → Memory} (hf : ∀ m x, m.wf = true → (f m x).wf = true) (l : List α) {m : Memory}
    (h : m.wf = true) : (l.foldl f m).wf = true := by
  induction l generalizing m with
  | nil => exact h
  | cons x l ih => exact ih (hf m x h)

theorem saveTeamCore_wf {s : State} {ts : List (Nat × Team)} {t ix block : Nat} {m : Memory} (h : m.wf = true) :
    (saveTeamCore s ts t ix block m).wf = true :=
  foldl_wf (fun _ _ hm => memBlit_wf _ _ hm) _ (foldl_wf (fun _ _ hm => memBlit_wf _ _ hm) _ (memBlit_wf _ _ h))

theorem filter_wf {m : Memory} (p : Nat × Byte → Bool) (h : m.wf = true) : Memory.wf (m.filter p) = true := by
  rw [wf_iff, tblSorted_iff] at h ⊢
  exact ⟨h.1.filter p, fun c hc => h.2 c (List.mem_of_mem_filter hc)⟩

@[simp] theorem viewOk_writeImage {s : State} (i c : Nat) (ok : ViewOk (memView s)) : ViewOk (memView (writeImage s i c)) := by
  have hbytes := (memoryOk_islOf ((viewOk_iff s).1 ok) i).1
  refine viewOk_modMem i (fun m hm => ⟨?_, hm.2⟩) ok
  refine foldl_wf (fun m p hm => memBlit_wf _ _ hm) _ (foldl_wf (fun m p hm => ?_) _ (memBlit_wf _ _ (filter_wf _ hbytes)))
  exact foldl_wf (fun m k hm => saveTeamMarks_wf (saveTeamCore_wf hm)) _ (memBlit_wf _ _ hm)

@[simp] theorem memView_faultCtx (s : State) (i c : Nat) (why : FaultedBy) : memView (faultCtx s i c why) = memView s := by
  simp [faultCtx]

theorem outKept_execContextStatePropagate {s : State} (ok : ViewOk (memView s)) : OutKept (execContextStatePropagate s) := by
  rw [execContextStatePropagate]
  split
  · exact (outKept_next s).2 ok
  · refine (outKept_next _).2 (viewOk_foldl (fun s j ok => ?_) _ (by simpa using ok))
    split <;> simp [ok]

@[simp] theorem memView_countRefusal (s : State) (i : Nat) : memView (countRefusal s i) = memView s := by
  simp [countRefusal]

@[simp] theorem outKept_execProtectionRefusal (island agent mk home ctx core slot : Nat) (pc mask : DWord) {s : State}
    (ok : ViewOk (memView s)) : OutKept (execProtectionRefusal island agent mk home ctx core slot pc mask s) := by
  simp [execProtectionRefusal, ok]

@[simp] theorem memView_stopMmap (s : State) (k : Nat) (m : MmapRec) : memView (stopMmap s k m) = memView s := by
  simp [stopMmap]

@[simp] theorem memView_haltMmap (s : State) (k : Nat) : memView (haltMmap s k) = memView s := by
  simp only [haltMmap]
  split <;> simp

@[simp] theorem memView_areaTraffic (s : State) (id : Ident) (a n : Nat) : memView (areaTraffic s id a n) = memView s := by
  rw [areaTraffic]
  split
  · rfl
  · dsimp only
    split
    · rw [memView_modMem (fun m => memPart_foldl (fun m j => memPart_vcTouch ..) _ m), memView_vctEntry]
    · rfl

@[simp] theorem memView_recordTraffic (s : State) (g : Group) : memView (recordTraffic s g) = memView s := by
  simp [recordTraffic]

@[simp] theorem memView_keepOwed (s : State) (i c : Nat) : memView (keepOwed s i c) = memView s := by
  refine memView_foldl (fun s p => ?_) _ s
  split <;> simp

@[simp] theorem viewOk_capture {s : State} (i c : Nat) (ok : ViewOk (memView s)) : ViewOk (memView (capture s i c)) := by
  simp [capture, ok]

@[simp] theorem outKept_execHaltComplete (island ctx : Nat) {s : State} (ok : ViewOk (memView s)) :
    OutKept (execHaltComplete island ctx s) := by
  simp [execHaltComplete, ok]

@[simp] theorem memView_owedBack (s : State) (i key : Nat) : memView (owedBack s i key) = memView s := by
  simp only [owedBack]
  split <;> simp

theorem viewOk_continueChain {s : State} (i c k slot : Nat) (ok : ViewOk (memView s)) : ViewOk (memView (continueChain s i c k slot)) := by
  rw [continueChain]
  dsimp only
  split
  · exact ok
  · split
    next t b hw =>
      have hfirst := wordKept_of ok hw
      refine iteInduction (motive := fun t => ViewOk (memView t)) (fun _ => hfirst) fun _ => ?_
      split
      next u ws hl =>
        have hboth := linksKept_of hfirst hl
        split
        · exact hboth
        · rw [memView_setGrp]
          exact hboth
      next => exact hfirst
    next => exact ok

theorem viewOk_continueChains {s : State} (i c : Nat) (ok : ViewOk (memView s)) : ViewOk (memView (continueChains s i c)) :=
  viewOk_foldl (fun _ p ok => viewOk_continueChain i c p.1 1 (viewOk_continueChain i c p.1 0 ok)) _ ok

theorem viewOk_setTeam {s : State} (key : Nat) {t : Team} (ht : TeamOk t) (ok : ViewOk (memView s)) :
    ViewOk (memView { s with teams := tblSet s.teams key t }) := by
  rw [viewOk_iff] at ok ⊢
  exact ⟨ok.host, ok.islands, fun p hp => by
    rcases mem_tblSet hp with rfl | hp
    · exact ht
    · exact ok.teams p hp⟩

theorem viewOk_seatTeam {s : State} (key : Nat) {t : Team} (ht : TeamOk t) (ok : ViewOk (memView s)) :
    ViewOk (memView (seatTeam s key t)) := by
  refine viewOk_foldl (fun s p ok => ?_) _ (viewOk_setTeam key ht ok)
  split <;> simp [ok]

@[simp] theorem memView_recheckWaits (s : State) (i c : Nat) : memView (recheckWaits s i c) = memView s := by
  refine memView_foldl (fun s p => memView_foldl (fun s f => ?_) _ s) _ s
  split <;> simp

theorem teamOk_loadTeamCore (m : Memory) (ix block at_ : Nat) {x : Team} (h : TeamOk x) : TeamOk (loadTeamCore m ix block at_ x) :=
  foldl_wf (fun _ _ hm => memSet_wf _ _ hm) _ h

theorem teamOk_loadTeam (m : Memory) (base a island ctx : Nat) (cores : List Nat) : TeamOk (loadTeam m base a island ctx cores) := by
  rw [loadTeam]
  dsimp only
  generalize (List.map _ (List.range _)).zipIdx = l
  have hfold : ∀ (l : List (Nat × Nat)) (t : Team), TeamOk t →
      TeamOk (l.foldl (fun t x => loadTeamCore m x.2 (coreBlock base (x.1 % 256)) x.1 t) t) := by
    intro l
    induction l with
    | nil => exact fun t h => h
    | cons x l ih => exact fun t h => ih _ (teamOk_loadTeamCore _ _ _ _ h)
  exact hfold l _ rfl

theorem teamOk_teamBack {x : Context} {t : Team} (h : TeamOk t) : TeamOk (teamBack x t) := by
  rw [teamBack]
  split <;> exact h

theorem teamOk_imageTeams {m : Memory} {i c : Nat} {x : Context} {t : Team} (h : t ∈ imageTeams m i c x) : TeamOk t := by
  rw [imageTeams] at h
  obtain ⟨k, -, ht⟩ := List.mem_flatMap.1 h
  split at ht
  · cases ht
  · obtain ⟨n, -, hn⟩ := List.mem_filterMap.1 ht
    split at hn
    · rw [← Option.some.inj hn]
      exact teamOk_teamBack (teamOk_loadTeam ..)
    · cases hn

theorem viewOk_foldl_mem {α : Type} {f : State → α → State} (l : List α)
    (h : ∀ x ∈ l, ∀ s, ViewOk (memView s) → ViewOk (memView (f s x))) {s : State} (ok : ViewOk (memView s)) :
    ViewOk (memView (l.foldl f s)) := by
  induction l generalizing s with
  | nil => exact ok
  | cons x l ih => exact ih (fun y hy => h y (List.mem_cons_of_mem _ hy)) (h x List.mem_cons_self s ok)

theorem viewOk_seatImage {s : State} (i c : Nat) (ok : ViewOk (memView s)) : ViewOk (memView (seatImage s i c)) := by
  simp only [seatImage, memView_mk, viewOf_state]
  refine viewOk_continueChains i c ?_
  refine viewOk_foldl (fun s p ok => (memView_owedBack s i p.1).symm ▸ ok) _ ?_
  rw [memView_modCtx]
  simp only [memView_mk, viewOf_state]
  refine viewOk_foldl_mem _ (fun p hp s ok => viewOk_seatTeam _ (teamOk_imageTeams (List.mem_of_getElem? (List.mem_zipIdx_iff_getElem?.1 hp))) ok) ?_
  simpa using ok

theorem viewOk_applyReleases {s : State} (i c : Nat) (ok : ViewOk (memView s)) : ViewOk (memView (applyReleases s i c)) :=
  viewOk_foldl (fun _ r ok => viewOk_releasePark i r.1 r.2 ok) _ (by simpa using ok)

@[simp] theorem viewOk_putBack {s : State} (i c : Nat) (ok : ViewOk (memView s)) : ViewOk (memView (putBack s i c)) := by
  rw [putBack, memView_recheckWaits]
  exact viewOk_applyReleases i c (viewOk_seatImage i c ok)

@[simp] theorem viewOk_rePark {s : State} (i k j : Nat) (ws : List DWord) (goesOn : Bool) (ok : ViewOk (memView s)) :
    ViewOk (memView (rePark s i k j ws goesOn)) := by
  simp [rePark, ok]

theorem viewOk_foldl_fst {α β : Type} {f : State × β → α → State × β} (h : ∀ p x, ViewOk (memView p.1) → ViewOk (memView (f p x).1))
    (l : List α) {p : State × β} (ok : ViewOk (memView p.1)) : ViewOk (memView (l.foldl f p).1) := by
  induction l generalizing p with
  | nil => exact ok
  | cons x l ih => exact ih (h p x ok)

theorem viewOk_reParkAll (rs : List (Nat × Nat)) {s : State} (i : Nat) (ps : List (Nat × Nat × List DWord)) (ok : ViewOk (memView s)) :
    ViewOk (memView (reParkAll rs s i ps)) :=
  viewOk_foldl (fun _ x ok => viewOk_releasePark i x.1 x.2 ok) _ (viewOk_foldl_fst (fun _ _ ok => viewOk_rePark i _ _ _ _ ok) _ ok)

@[simp] theorem viewOk_restoreImage {s : State} (i c : Nat) (ok : ViewOk (memView s)) : ViewOk (memView (restoreImage s i c)) := by
  rw [restoreImage, memView_recheckWaits]
  refine viewOk_reParkAll _ i _ ?_
  rw [memView_modCtx]
  exact viewOk_modMem i (fun m hm => hm) (viewOk_seatImage i c ok)

@[simp] theorem viewOk_cmdEffect {s : State} (i c : Nat) (k : CtxCmd) (ok : ViewOk (memView s)) : ViewOk (memView (cmdEffect s i c k)) := by
  cases k <;> simp [cmdEffect, ok]

@[simp] theorem memView_setCtxSt (s : State) (i c st : Nat) : memView (setCtxSt s i c st) = memView s := by
  simp [setCtxSt]

@[simp] theorem viewOk_ctxCommand {s : State} (i c n : Nat) (ok : ViewOk (memView s)) : ViewOk (memView (ctxCommand s i c n)) := by
  rw [ctxCommand]
  split <;> simp [ok]

@[simp] theorem outKept_ctxEvent (n island ctx : Nat) {s : State} (ok : ViewOk (memView s)) : OutKept (ctxEvent n island ctx s) := by
  simp [ctxEvent, ok]

@[simp] theorem outKept_execRestoreComplete (island ctx : Nat) {s : State} (ok : ViewOk (memView s)) :
    OutKept (execRestoreComplete island ctx s) := by
  simp [execRestoreComplete, ok]

@[simp] theorem viewOk_uncorrCtx (status info : Nat) (why : FaultedBy) (i : Nat) {s : State} (c : Nat) (ok : ViewOk (memView s)) :
    ViewOk (memView (uncorrCtx status info why i s c)) := by
  simp [uncorrCtx, ok]

@[simp] theorem viewOk_noteErrors {s : State} (i b : Nat) (secs : List Nat) (ok : ViewOk (memView s)) :
    ViewOk (memView (noteErrors s i b secs)) :=
  viewOk_modMem i (fun _ hm => hm) (viewOk_foldl (fun _ k ok => viewOk_poisonSector i k ok) _ ok)

@[simp] theorem viewOk_loseBank {s : State} (i b : Nat) (lost : List Nat) (ok : ViewOk (memView s)) : ViewOk (memView (loseBank s i b lost)) := by
  refine viewOk_foldl (fun s c ok => ?_) _ ?_
  · split <;> simp [ok]
  · simpa using viewOk_failBank i b lost ok

@[simp] theorem outKept_execBankFailure (island bank : Nat) (lost : List Nat) {s : State} (ok : ViewOk (memView s)) :
    OutKept (execBankFailure island bank lost s) := by
  simp [execBankFailure, ok]

@[simp] theorem memView_noteBeats (s : State) : memView (noteBeats s) = memView s := by
  rw [noteBeats, memView_mk]
  exact viewOf_mapIslands (f := fun k x => { x with cores := x.cores.map fun c =>
    (c.1, { c.2 with moved := c.2.moved || coreBeats s k c.1 }) }) (fun _ _ => rfl) ..

@[simp] theorem outKept_execProgressBeat (island core : Nat) {s : State} (ok : ViewOk (memView s)) :
    OutKept (execProgressBeat island core s) := by
  simp [execProgressBeat, ok]

@[simp] theorem memView_beatHalt (s : State) (i core : Nat) : memView (beatHalt s i core) = memView s := by
  refine memView_foldl (fun s p => ?_) _ s
  dsimp only
  split
  · rfl
  · split <;> split <;> simp

@[simp] theorem outKept_execHeartbeat (island core : Nat) {s : State} (ok : ViewOk (memView s)) :
    OutKept (execHeartbeat island core s) := by
  simp only [execHeartbeat]
  split <;> simp [ok]

@[simp] theorem outKept_execBeatpWrite (island : Nat) (val : DWord) {s : State} (ok : ViewOk (memView s)) :
    OutKept (execBeatpWrite island val s) := by
  simp [execBeatpWrite, ok]

@[simp] theorem memView_serveClaim (s : State) (k : Nat) : memView (serveClaim s k) = memView s := by
  simp [serveClaim]

@[simp] theorem outKept_execRgrowClaimServed (island core : Nat) {s : State} (ok : ViewOk (memView s)) :
    OutKept (execRgrowClaimServed island core s) := by
  simp only [execRgrowClaimServed]
  split <;> simp [ok]

@[simp] theorem viewOk_spillGroup {s : State} (k : Nat) (g : Group) (ok : ViewOk (memView s)) : ViewOk (memView (spillGroup s k g)) := by
  rw [spillGroup]
  simp only [memView_setGrp, memView_areaTraffic]
  exact viewOk_modMem _ (fun m hm => ⟨memBlit_wf _ _ (memBlit_wf _ _ hm.1), hm.2⟩) ok

theorem outKept_execClaimDeadlock (island core : Nat) {s : State} (ok : ViewOk (memView s)) : OutKept (execClaimDeadlock island core s) := by
  rw [execClaimDeadlock]
  split
  · exact (outKept_next s).2 ok
  · split
    · refine (outKept_next _).2 ?_
      cases oldestClaim s island core <;> simp [ok]
    · simp only [outKept_ite, outKept_next]
      refine ⟨fun _ => ok, fun _ => ?_⟩
      split <;> simp [ok]

theorem dropImageCv_wf (base lo hi : Nat) {m : Memory} (p : Nat × Nat × Memory) (h : m.wf = true) : (dropImageCv base lo hi m p).wf = true := by
  refine foldl_wf (fun m t hm => ?_) _ h
  dsimp only
  split
  · exact memPutNat_wf _ _ _ hm
  · exact hm

@[simp] theorem viewOk_discardRange {s : State} (i c lo hi : Nat) (ok : ViewOk (memView s)) : ViewOk (memView (discardRange s i c lo hi)) := by
  rw [discardRange]
  simp only [memView_mk, viewOf_state]
  refine viewOk_modMem i (fun m hm => ⟨?_, hm.2⟩) ok
  dsimp only
  split
  · exact foldl_wf (fun m p h => dropImageCv_wf _ lo hi p h) _ hm.1
  · exact hm.1

theorem outKept_execTrinv (st : BitVec 2) (a b : BitVec 6) (p : BitVec 1) {s : State} (ok : ViewOk (memView s)) :
    OutKept (execTrinv st a b p s) := by
  refine outKept_issue ok fun cx => ?_
  dsimp only
  split <;> simp [ok]

end Sys2Proof.Proofs

/-! PROOFS. Kernels, teams and queues keep the form (O8). -/

namespace Sys2Proof.Proofs

open Sys2Proof Sys2Proof.Machine Sys2Proof.Laws

@[simp] theorem viewOk_cpPlace {s : State} (i c va : Nat) (acc : Acc) (ok : ViewOk (memView s)) : ViewOk (memView (cpPlace s i c va acc).1) := by
  have htrans := viewOk_translate i c (ctxOf s i c).priv va acc 0 ok
  rw [cpPlace]
  dsimp only
  split
  · exact ok
  · split
    · exact htrans
    · exact htrans
    · split <;> simpa using htrans

@[simp] theorem memView_cpTouch (s : State) (i vn p : Nat) (act : HomeAct) : memView (cpTouch s i vn p act) = memView s := by
  simp only [cpTouch]
  split <;> simp

@[simp] theorem viewOk_cpReadSpan {s : State} (i c : Nat) (sp : Nat × Nat) (ok : ViewOk (memView s)) :
    ViewOk (memView (cpReadSpan s i c sp).1) := by
  have hplace := viewOk_cpPlace i c sp.1 .read ok
  rw [cpReadSpan]
  split
  · exact hplace
  · exact hplace
  · split <;> simpa using hplace

@[simp] theorem viewOk_cpReadAll {s : State} (i c : Nat) (l : List (Nat × Nat)) (ok : ViewOk (memView s)) :
    ViewOk (memView (cpReadAll i c s l).1) := by
  induction l generalizing s with
  | nil => exact ok
  | cons sp l ih =>
    have hspan := viewOk_cpReadSpan i c sp ok
    rw [cpReadAll]
    dsimp only
    split
    · split <;> exact ih hspan
    · exact hspan

@[simp] theorem viewOk_cpRead {s : State} (i c va n : Nat) (ok : ViewOk (memView s)) : ViewOk (memView (cpRead s i c va n).1) :=
  viewOk_cpReadAll i c _ ok

@[simp] theorem viewOk_cpStoreAt {s : State} (i : Nat) (l : Loc) (vn : Nat) (bs : List Byte) (ok : ViewOk (memView s)) :
    ViewOk (memView (cpStoreAt s i l vn bs)) := by
  simp [cpStoreAt, ok]

@[simp] theorem viewOk_cpWriteAll {s : State} (i c : Nat) (l : List (Nat × Nat)) (bs : List Byte) (ok : ViewOk (memView s)) :
    ViewOk (memView (cpWriteAll i c s l bs).1) := by
  induction l generalizing s bs with
  | nil => exact ok
  | cons sp l ih =>
    have hplace := viewOk_cpPlace i c sp.1 .write ok
    rw [cpWriteAll]
    split
    · exact hplace
    · exact hplace
    · refine ih _ ?_
      rw [memView_noteTraffic]
      exact viewOk_cpStoreAt i _ _ _ hplace

@[simp] theorem viewOk_cpWrite {s : State} (i c va : Nat) (bs : List Byte) (ok : ViewOk (memView s)) : ViewOk (memView (cpWrite s i c va bs).1) :=
  viewOk_cpWriteAll i c _ bs ok

@[simp] theorem memView_addGroup (gk : Nat) (g : Grid) (team : Nat) (cores : List Nat) (s : State) (n : Nat) :
    memView (addGroup gk g team cores s n) = memView s := by
  simp [addGroup]

@[simp] theorem viewOk_startTeam {s : State} (gk : Nat) (g : Grid) (cores : List Nat) (ok : ViewOk (memView s)) :
    ViewOk (memView (startTeam s gk g cores)) := by
  simp only [startTeam, memView_mk, viewOf_state, memView_modCtx]
  exact viewOk_foldl (fun s n ok => by rw [memView_addGroup]; exact ok) _ (viewOk_setTeam s.seq rfl ok)

@[simp] theorem memView_noteStirs (s : State) : memView (noteStirs s) = memView s := by
  simp [noteStirs]

@[simp] theorem outKept_execTeamPlacement (island ctx : Nat) {s : State} (ok : ViewOk (memView s)) :
    OutKept (execTeamPlacement island ctx s) := by
  unfold execTeamPlacement
  (repeat' split) <;> simp [ok]

@[simp] theorem memView_dropWait (s : State) (n : Nat) : memView (dropWait s n) = memView s := by
  simp [dropWait]

@[simp] theorem memView_failQueue (s : State) (n : Nat) (idx : Word) (status fisl : Nat) (isPacket : Bool) :
    memView (failQueue s n idx status fisl isPacket) = memView s := by
  simp [failQueue]

@[simp] theorem memView_drainCheck (s : State) (n : Nat) : memView (drainCheck s n) = memView s := by
  simp [drainCheck]

@[simp] theorem outKept_execCreate (queue : Nat) (base cfg : DWord) {s : State} (ok : ViewOk (memView s)) :
    OutKept (execCreate queue base cfg s) := by
  simp [execCreate, ok]

@[simp] theorem outKept_execEnable (queue : Nat) {s : State} (ok : ViewOk (memView s)) : OutKept (execEnable queue s) := by
  simp [execEnable, ok]

@[simp] theorem outKept_execDrain (queue : Nat) {s : State} (ok : ViewOk (memView s)) : OutKept (execDrain queue s) := by
  simp [execDrain, ok]

@[simp] theorem outKept_execReset (queue : Nat) {s : State} (ok : ViewOk (memView s)) : OutKept (execReset queue s) := by
  simp [execReset, ok]

@[simp] theorem outKept_execDestroy (queue : Nat) {s : State} (ok : ViewOk (memView s)) : OutKept (execDestroy queue s) := by
  simp [execDestroy, ok]

@[simp] theorem outKept_execQtailWrite (queue : Nat) (val : Word) {s : State} (ok : ViewOk (memView s)) :
    OutKept (execQtailWrite queue val s) := by
  simp [execQtailWrite, ok]

@[simp] theorem viewOk_launchHeaders {s : State} (c kaddr : Nat) (l : List Nat) (ok : ViewOk (memView s)) :
    ViewOk (memView (launchHeaders c kaddr s l).1) := by
  induction l generalizing s with
  | nil => exact ok
  | cons i l ih =>
    have hread := viewOk_cpRead i c kaddr 256 ok
    rw [launchHeaders]
    dsimp only
    split
    · exact hread
    · exact hread
    · exact ih hread

@[simp] theorem viewOk_checkPages {s : State} (i c vcx : Nat) (l : List Nat) (ok : ViewOk (memView s)) :
    ViewOk (memView (checkPages i c vcx s l).1) := by
  induction l generalizing s with
  | nil => exact ok
  | cons va l ih =>
    have hplace := viewOk_cpPlace i c va .write ok
    rw [checkPages]
    split
    · exact hplace
    · exact hplace
    · split
      · exact hplace
      · exact ih hplace

@[simp] theorem viewOk_checkAllPages {s : State} (c va n : Nat) (l : List (Nat × List Byte)) (ok : ViewOk (memView s)) :
    ViewOk (memView (checkAllPages c va n s l).1) := by
  induction l generalizing s with
  | nil => exact ok
  | cons h l ih =>
    have hpages := viewOk_checkPages h.1 c (bits (hdrWord h.2 0x20) 37 32) (argPages va n) ok
    rw [checkAllPages]
    split
    · exact ih hpages
    · exact hpages

@[simp] theorem viewOk_launchSetUp {s : State} (n : Nat) (ws : List Nat) (ok : ViewOk (memView s)) :
    ViewOk (memView (launchSetUp s n ws).1) := by
  rw [launchSetUp]
  dsimp only
  split
  · exact ok
  · split
    · exact ok
    · split
      · simp [ok]
      · split <;> simp [ok]

@[simp] theorem memView_noteServed (s : State) (n : Nat) : memView (noteServed s n) = memView s := by
  simp [noteServed]

@[simp] theorem viewOk_blockQueues {s : State} (ok : ViewOk (memView s)) : ViewOk (memView (blockQueues s)) := by
  simp [blockQueues, ok]

theorem outKept_execQueuePacketRead {s : State} (ok : ViewOk (memView s)) : OutKept (execQueuePacketRead s) := by
  rw [execQueuePacketRead]
  split
  · exact (outKept_next s).2 ok
  · dsimp only
    split
    · exact (outKept_next s).2 ok
    · split <;> simp [ok]

@[simp] theorem memView_packetBegun (s : State) (n : Nat) (ws grids : List Nat) : memView (beginPacket s n ws grids).1 = memView s :=
  memView_beginPacket s n ws grids

@[simp] theorem memView_endPacket (s : State) (key : Nat) : memView (endPacket s key) = memView s := by
  simp [endPacket]

@[simp] theorem memView_completePacket (s : State) (key : Nat) : memView (completePacket s key) = memView s := by
  simp [completePacket]

@[simp] theorem memView_failPacket (s : State) (key status fisl : Nat) : memView (failPacket s key status fisl) = memView s := by
  simp [failPacket]

@[simp] theorem memView_setTodo (s : State) (key : Nat) (b : Bool) : memView (setTodo s key b) = memView s := by
  simp [setTodo]

@[simp] theorem memView_refusePacket (s : State) (n status : Nat) : memView (refusePacket s n status) = memView s := by
  simp [refusePacket]

@[simp] theorem outKept_execWaitPacket (queue : Nat) {s : State} (ok : ViewOk (memView s)) : OutKept (execWaitPacket queue s) := by
  simp only [execWaitPacket]
  split <;> simp [ok]

@[simp] theorem outKept_execWaitPacketTimeout (queue : Nat) {s : State} (ok : ViewOk (memView s)) :
    OutKept (execWaitPacketTimeout queue s) := by
  simp only [execWaitPacketTimeout]
  split <;> simp [ok]

@[simp] theorem outKept_execSignal (queue : Nat) {s : State} (ok : ViewOk (memView s)) : OutKept (execSignal queue s) := by
  simp only [execSignal]
  split <;> simp [ok]

@[simp] theorem outKept_execOrder (queue : Nat) {s : State} (ok : ViewOk (memView s)) : OutKept (execOrder queue s) := by
  simp only [execOrder]
  split <;> simp [ok]

@[simp] theorem viewOk_sideRead {s : State} (c : Nat) (fabric : Bool) (a n : Nat) (ok : ViewOk (memView s)) :
    ViewOk (memView (sideRead s c fabric a n).1) := by
  unfold sideRead
  (repeat' split) <;> simp [ok]

@[simp] theorem viewOk_sideWrite {s : State} (c : Nat) (fabric : Bool) (a : Nat) (bs : List Byte) (ok : ViewOk (memView s)) :
    ViewOk (memView (sideWrite s c fabric a bs).1) := by
  unfold sideWrite
  (repeat' split) <;> simp [ok]

@[simp] theorem viewOk_copyGo {s : State} (key : Nat) (ok : ViewOk (memView s)) : ViewOk (memView (copyGo s key)) := by
  rw [copyGo]
  dsimp only
  split
  · simp [ok]
  · simp [ok]
  · split <;> simp [ok]

theorem outKept_execCopy (queue : Nat) {s : State} (ok : ViewOk (memView s)) : OutKept (execCopy queue s) := by
  rw [execCopy]
  split <;> simp [ok]

@[simp] theorem viewOk_stampGo {s : State} (key : Nat) (ok : ViewOk (memView s)) : ViewOk (memView (stampGo s key)) := by
  rw [stampGo]
  dsimp only
  split
  · split <;> simp [ok]
  · exact ok

@[simp] theorem memView_enterStamp (s : State) (mon : Nat) : memView (enterStamp s mon) = memView s := by
  simp [enterStamp]

theorem outKept_execStamp (queue : Nat) {s : State} (ok : ViewOk (memView s)) : OutKept (execStamp queue s) := by
  rw [execStamp]
  split <;> simp [ok]

theorem outKept_execVcdefPacket (queue : Nat) {s : State} (ok : ViewOk (memView s)) : OutKept (execVcdefPacket queue s) := by
  rw [execVcdefPacket]
  split
  · exact (outKept_next s).2 ok
  · simp [ok]

@[simp] theorem viewOk_beginGrid {s : State} (c : Nat) (ws : List Nat) (args : List Byte) (pkt : Nat) (gk : Nat) (h : Nat × List Byte)
    (ok : ViewOk (memView s)) : ViewOk (memView (beginGrid s c ws args pkt gk h)) := by
  simp [beginGrid, ok]

@[simp] theorem viewOk_launchGo {s : State} (n : Nat) (ws : List Nat) (args : List Byte) (hs : List (Nat × List Byte))
    (ok : ViewOk (memView s)) : ViewOk (memView (launchGo s n ws args hs)) := by
  have hwrites : ViewOk (memView (hs.foldl (fun s' h => (cpWrite s' h.1 (qCtx (queueOf s n)) (nth ws 4) args).1) s)) :=
    viewOk_foldl (fun _ h ok => viewOk_cpWrite h.1 _ _ args ok) hs ok
  simp only [launchGo]
  generalize hs.foldl (fun s' h => (cpWrite s' h.1 (qCtx (queueOf s n)) (nth ws 4) args).1) s = u at hwrites
  split
  · refine viewOk_foldl (fun _ g ok => viewOk_beginGrid _ _ _ _ _ _ ok) _ ?_
    simp [hwrites]
  · rw [memView_failPacket]
    refine viewOk_foldl (fun _ g ok => viewOk_beginGrid _ _ _ _ _ _ ok) _ ?_
    simp [hwrites]

theorem outKept_execLaunch (queue : Nat) {s : State} (ok : ViewOk (memView s)) : OutKept (execLaunch queue s) := by
  rw [execLaunch]
  split
  · exact (outKept_next s).2 ok
  · dsimp only
    split <;> simp [ok]

@[simp] theorem outKept_execPacketComplete (pkt : Nat) {s : State} (ok : ViewOk (memView s)) : OutKept (execPacketComplete pkt s) := by
  simp only [execPacketComplete]
  split <;> simp [ok]

@[simp] theorem viewOk_pushPacket {s : State} (n : Nat) (bs : List Byte) (bad : List Nat) (ok : ViewOk (memView s)) :
    ViewOk (memView (pushPacket s n bs bad)) := by
  simp [pushPacket, ok]

theorem outKept_execQpush (st : BitVec 2) (d a b : BitVec 6) {s : State} (ok : ViewOk (memView s)) : OutKept (execQpush st d a b s) := by
  refine outKept_issue ok fun cx => ?_
  dsimp only
  split
  · trivial
  · split <;> rename_i hc
    · exact viewOk_of_checked (checkedKept_checkGlobal cx _ _ ok) hc
    · exact viewOk_of_checked (checkedKept_checkGlobal cx _ _ ok) hc
    · have hok := viewOk_of_checked (checkedKept_checkGlobal cx _ _ ok) hc
      split
      · exact viewOk_park cx _ _ 4 _ hok
      · split
        · exact hok
        · rw [resKept_ok, memView_modGrp]
          split
          · rw [memView_panelRelease]
            refine viewOk_pushPacket _ _ _ ?_
            rw [memView_noteAccess]
            exact hok
          · rw [memView_noteAccess]
            exact hok

end Sys2Proof.Proofs

/-! PROOFS. Routes, switches, links and host ports keep the form (O8). -/

namespace Sys2Proof.Proofs

open Sys2Proof Sys2Proof.Machine Sys2Proof.Laws

@[simp] theorem memView_modPort (s : State) (i p : Nat) (f : Port → Port) : memView (modPort s i p f) = memView s := by
  simp [modPort]

@[simp] theorem memView_modLink (s : State) (i p : Nat) (f : Port → Port) : memView (modLink s i p f) = memView s := by
  simp only [modLink]
  split <;> simp

@[simp] theorem memView_forgetOwed (s : State) (p : RemotePacket) : memView (forgetOwed s p) = memView s :=
  viewOf_mapIslands (f := fun _ x => { x with
    ports := x.ports.map fun q => (q.1, { q.2 with owed := q.2.owed.filter (· ≠ requestKey p) }) }) (fun _ _ => rfl) ..

@[simp] theorem memView_answeredAt (s : State) (i : Nat) (p : RemotePacket) : memView (answeredAt s i p) = memView s := by
  simp [answeredAt]

@[simp] theorem memView_route (s : State) (i : Nat) (p : RemotePacket) : memView (route s i p) = memView s := by
  simp [route]

@[simp] theorem memView_deliverPacket (s : State) (i : Nat) (p : RemotePacket) : memView (deliverPacket s i p) = memView s := by
  simp only [deliverPacket]
  split <;> simp

@[simp] theorem memView_sendNotice (n : Notice) (s : State) (i : Nat) (p : RemotePacket) : memView (sendNotice n s i p) = memView s := by
  rw [sendNotice]
  dsimp only
  split
  · rfl
  · split
    · simp
    · split <;> simp

@[simp] theorem memView_failureNotice (s : State) (i : Nat) (p : RemotePacket) : memView (failureNotice s i p) = memView s := by
  simp [failureNotice]

@[simp] theorem memView_errorNotice (s : State) (i : Nat) (p : RemotePacket) : memView (errorNotice s i p) = memView s := by
  simp [errorNotice]

@[simp] theorem memView_recordPort (s : State) (i p : Nat) : memView (recordPort s i p) = memView s := by
  simp [recordPort]

@[simp] theorem memView_loseEnds (f : Port → Port) (s : State) (ends : List (Nat × Nat)) : memView (loseEnds f s ends) = memView s := by
  simp [loseEnds]

@[simp] theorem memView_failPort (s : State) (i p : Nat) : memView (failPort s i p) = memView s := by
  simp [failPort]

@[simp] theorem memView_linkFail (s : State) (i p : Nat) : memView (linkFail s i p) = memView s := by
  simp [linkFail]

@[simp] theorem memView_linkDark (s : State) (i p : Nat) : memView (linkDark s i p) = memView s := by
  simp [linkDark]

theorem memView_sendOn {s t : State} {i port : Nat} {p : RemotePacket} (h : sendOn s i port p = some t) : memView t = memView s := by
  rw [sendOn] at h
  dsimp only at h
  split at h
  · split at h
    · rw [← Option.some.inj h]
      simp
    · cases h
  · rw [← Option.some.inj h]
    simp

theorem outKept_execRouterPacket (island k : Nat) {s : State} (ok : ViewOk (memView s)) : OutKept (execRouterPacket island k s) := by
  rw [execRouterPacket]
  split
  · exact (outKept_next s).2 ok
  · dsimp only
    split
    · exact (outKept_next s).2 ok
    · split
      · simp [ok]
      · simp [ok]
      · split
        next t h =>
          refine (outKept_next t).2 ?_
          rw [memView_sendOn h]
          simp [ok]
        next => exact (outKept_next s).2 ok

@[simp] theorem memView_retrain (s : State) (i p : Nat) : memView (retrain s i p) = memView s := by
  simp [retrain]

@[simp] theorem memView_discardFlit (s : State) (i p : Nat) (sequenced : Bool) : memView (discardFlit s i p sequenced) = memView s := by
  simp [discardFlit]

@[simp] theorem memView_receiveFlit (s : State) (i p kind : Nat) (f : List Byte) : memView (receiveFlit s i p kind f).1 = memView s := by
  rw [receiveFlit]
  split
  · rfl
  · split
    · simp
    · simp
    · split <;> simp

@[simp] theorem memView_receivePacket (s : State) (i p kind : Nat) (f : List Byte) (pkt : Option RemotePacket) :
    memView (receivePacket s i p kind f pkt) = memView s := by
  rw [receivePacket]
  split
  · simp
  · split <;> simp

@[simp] theorem outKept_execFlitIdle (island port : Nat) (flit : List Byte) {s : State} (ok : ViewOk (memView s)) :
    OutKept (execFlitIdle island port flit s) := by
  simp [execFlitIdle, ok]

@[simp] theorem outKept_execFlitRequest (island port : Nat) (flit : List Byte) (pkt : Option RemotePacket) {s : State}
    (ok : ViewOk (memView s)) : OutKept (execFlitRequest island port flit pkt s) := by
  simp [execFlitRequest, ok]

@[simp] theorem outKept_execFlitResponse (island port : Nat) (flit : List Byte) (pkt : Option RemotePacket) {s : State}
    (ok : ViewOk (memView s)) : OutKept (execFlitResponse island port flit pkt s) := by
  simp [execFlitResponse, ok]

@[simp] theorem memView_nakSent (s : State) (i p : Nat) : memView (nakSent s i p) = memView s := by
  simp only [nakSent]
  split <;> simp

@[simp] theorem memView_replayTrigger (s : State) (i p : Nat) : memView (replayTrigger s i p) = memView s := by
  simp [replayTrigger]

@[simp] theorem outKept_execFlitNak (island port : Nat) (flit : List Byte) {s : State} (ok : ViewOk (memView s)) :
    OutKept (execFlitNak island port flit s) := by
  simp [execFlitNak, ok]

@[simp] theorem memView_writePanelCells (s : State) : memView (writePanelCells s) = memView s :=
  viewOf_mapIslands (f := fun k x => { x with cells := panelCells s k x.cells }) (fun _ _ => rfl) ..

@[simp] theorem outKept_execLinkTrainingComplete (island port : Nat) (ints cas floats : Bool) (inner : Nat) {s : State}
    (ok : ViewOk (memView s)) : OutKept (execLinkTrainingComplete island port ints cas floats inner s) := by
  simp [execLinkTrainingComplete, ok]

@[simp] theorem outKept_execLinkTrainingTimeout (island port : Nat) {s : State} (ok : ViewOk (memView s)) :
    OutKept (execLinkTrainingTimeout island port s) := by
  simp [execLinkTrainingTimeout, ok]

theorem outKept_execLinkRetrainingTrigger (island : Nat) (trigger : LinkTrigger) {s : State} (ok : ViewOk (memView s)) :
    OutKept (execLinkRetrainingTrigger island trigger s) := by
  rw [execLinkRetrainingTrigger]
  dsimp only
  split
  · simp [ok]
  · cases (portOf s island trigger.port).peer <;> simp [ok]

@[simp] theorem memView_relockLink (s : State) (i p : Nat) : memView (relockLink s i p) = memView s := by
  simp [relockLink]

@[simp] theorem outKept_execLinkRelock (island port : Nat) {s : State} (ok : ViewOk (memView s)) :
    OutKept (execLinkRelock island port s) := by
  simp [execLinkRelock, ok]

@[simp] theorem outKept_execLinkRetrainingTimeout (island port : Nat) {s : State} (ok : ViewOk (memView s)) :
    OutKept (execLinkRetrainingTimeout island port s) := by
  simp [execLinkRetrainingTimeout, ok]

@[simp] theorem outKept_execLinkRetryTimer (island port : Nat) {s : State} (ok : ViewOk (memView s)) :
    OutKept (execLinkRetryTimer island port s) := by
  simp [execLinkRetryTimer, ok]

@[simp] theorem outKept_execKeyRolloverStart (island port : Nat) (command : Bool) {s : State} (ok : ViewOk (memView s)) :
    OutKept (execKeyRolloverStart island port command s) := by
  simp [execKeyRolloverStart, ok]

@[simp] theorem outKept_execKeyExchangeRetry (island port : Nat) {s : State} (ok : ViewOk (memView s)) :
    OutKept (execKeyExchangeRetry island port s) := by
  simp [execKeyExchangeRetry, ok]

@[simp] theorem memView_trainingKey (msg : KeyMsg) (s : State) (i p : Nat) : memView (trainingKey msg s i p) = memView s := by
  simp only [trainingKey]
  split <;> simp

@[simp] theorem memView_rolloverKey (msg : KeyMsg) (ks : Nat) (s : State) (i p : Nat) : memView (rolloverKey msg ks s i p) = memView s := by
  simp only [rolloverKey]
  split <;> simp

@[simp] theorem outKept_execFlitKeyControl (island port : Nat) (flit : List Byte) (msg : KeyMsg) {s : State} (ok : ViewOk (memView s)) :
    OutKept (execFlitKeyControl island port flit msg s) := by
  simp [execFlitKeyControl, ok]

@[simp] theorem outKept_execRolloverRetire (island port : Nat) {s : State} (ok : ViewOk (memView s)) :
    OutKept (execRolloverRetire island port s) := by
  simp [execRolloverRetire, ok]

@[simp] theorem outKept_execKeySlotExhausted (island port : Nat) {s : State} (ok : ViewOk (memView s)) :
    OutKept (execKeySlotExhausted island port s) := by
  simp [execKeySlotExhausted, ok]

@[simp] theorem resKept_pfenceEnd (d : Nat) (v : Nat) (cx : Cx) {s : State} (ok : ViewOk (memView s)) : ResKept (pfenceEnd d v cx s) := by
  simp [pfenceEnd, ok]

theorem outKept_pfenceOp {st : BitVec 2} {d a : BitVec 6} {body : Nat → Cx → State → Res} {s : State} (ok : ViewOk (memView s))
    (hb : ∀ w cx, ResKept (body w cx s)) : OutKept (pfenceOp st d a body s) := by
  refine outKept_issue ok fun cx => ?_
  simp [ok, hb]

theorem outKept_execPfence (st : BitVec 2) (d a : BitVec 6) {s : State} (ok : ViewOk (memView s)) : OutKept (execPfence st d a s) :=
  outKept_pfenceOp ok fun w cx => by simp [ok]

theorem outKept_execPfenceRel (st : BitVec 2) (d a : BitVec 6) {s : State} (ok : ViewOk (memView s)) : OutKept (execPfenceRel st d a s) :=
  outKept_pfenceOp ok fun w cx => by simp [ok]

@[simp] theorem outKept_execPfenceDrainEnd (grp frag : Nat) {s : State} (ok : ViewOk (memView s)) :
    OutKept (execPfenceDrainEnd grp frag s) := by
  simp only [execPfenceDrainEnd]
  split <;> simp [ok]

@[simp] theorem memView_modExpress (s : State) (f : Nat → Nat → Option Nat × Option (Nat × Nat) → Port → Port) :
    memView (modExpress s f) = memView s :=
  viewOf_mapIslands (f := fun _ x => { x with ports := x.ports.map fun q =>
    if q.1 < 4 then q else (q.1, f x.site q.1 (lightEnds s x.site q.1) q.2) }) (fun _ _ => rfl) ..

@[simp] theorem memView_relight (s : State) : memView (relight s) = memView s := by
  simp [relight]

/-- An island whose fenced ports of a circuit have changed. -/
def changedIsland (s : State) (cell : Nat × Nat × Nat) (x : Island) : Island :=
  { x with ports := x.ports.map fun q =>
      if 4 ≤ q.1 && q.2.state = .fenced && (portLight (matrixAt s) s.panel.glass x.site q.1).1.contains cell then
        (q.1, { q.2 with changed := true })
      else q }

@[simp] theorem memView_markChanged (s : State) (i row col : Nat) : memView (markChanged s i row col) = memView s :=
  viewOf_mapIslands (f := fun _ x => changedIsland s ((islOf s i).site, row, col) x) (fun _ _ => rfl) ..

@[simp] theorem memView_xcellWrite (s : State) (i act row col : Nat) : memView (xcellWrite s i act row col) = memView s := by
  simp [xcellWrite]

@[simp] theorem outKept_execXcellSet (island row col : Nat) {s : State} (ok : ViewOk (memView s)) :
    OutKept (execXcellSet island row col s) := by
  simp [execXcellSet, ok]

@[simp] theorem outKept_execXcellReset (island row col : Nat) {s : State} (ok : ViewOk (memView s)) :
    OutKept (execXcellReset island row col s) := by
  simp [execXcellReset, ok]

@[simp] theorem outKept_execXcellComplete (island : Nat) {s : State} (ok : ViewOk (memView s)) : OutKept (execXcellComplete island s) := by
  simp [execXcellComplete, ok]

@[simp] theorem outKept_execOrderlyShutdown {s : State} (ok : ViewOk (memView s)) : OutKept (execOrderlyShutdown s) := by
  simp [execOrderlyShutdown, ok]

theorem outKept_execRouteMapInvalidate (island : Nat) {s : State} (ok : ViewOk (memView s)) : OutKept (execRouteMapInvalidate island s) := by
  have hmap : (s.islands.map fun p => if p.1 = island then p else (p.1, { p.2 with cells := tblAdj p.2.cells island invalidCell }))
      = s.islands.map fun p => (p.1, if p.1 = island then p.2 else { p.2 with cells := tblAdj p.2.cells island invalidCell }) :=
    List.map_congr_left fun p _ => by split <;> rfl
  rw [execRouteMapInvalidate, hmap]
  simp only [outKept_ite, outKept_next]
  refine ⟨fun _ => ?_, fun _ => ok⟩
  rw [memView_mk, viewOf_mapIslands (f := fun k x => if k = island then x else { x with cells := tblAdj x.cells island invalidCell })
    (fun k x => by split <;> rfl)]
  exact ok

@[simp] theorem outKept_execReplacementRoute (src dst entry : Nat) (hops : List Nat) (alt : Bool) {s : State} (ok : ViewOk (memView s)) :
    OutKept (execReplacementRoute src dst entry hops alt s) := by
  simp [execReplacementRoute, ok]

@[simp] theorem outKept_execRouteEntryReuse (entry : Nat) {s : State} (ok : ViewOk (memView s)) :
    OutKept (execRouteEntryReuse entry s) := by
  simp [execRouteEntryReuse, ok]

@[simp] theorem outKept_execHpctlWrite (port : Nat) {s : State} (ok : ViewOk (memView s)) : OutKept (execHpctlWrite port s) := by
  simp [execHpctlWrite, ok]

@[simp] theorem outKept_execHostPortLinkChange (port : Nat) (up : Bool) {s : State} (ok : ViewOk (memView s)) :
    OutKept (execHostPortLinkChange port up s) := by
  simp [execHostPortLinkChange, ok]

@[simp] theorem memView_refuseHost (s : State) (i : Nat) : memView (refuseHost s i) = memView s := by
  simp [refuseHost]

theorem outKept_execHostCxlMemAccess (port off : Nat) (write : Option (List Byte)) {s : State} (ok : ViewOk (memView s)) :
    OutKept (execHostCxlMemAccess port off write s) := by
  unfold execHostCxlMemAccess
  dsimp only
  split
  · exact (outKept_next s).2 ok
  · split
    · simp [ok]
    · cases deviceAddr s off with
      | none => exact (outKept_next s).2 ok
      | some d =>
        cases write with
        | none => exact (outKept_next s).2 ok
        | some bs =>
          dsimp only
          split
          · exact (outKept_next s).2 ok
          · rw [outKept_next, memView_modMem]
            · simp [ok]
            · refine fun m => memPart_foldl ?_ _ m
              exact fun _ _ => rfl

@[simp] theorem outKept_execHostBackInvalidation (island sector : Nat) (owned : Bool) {s : State} (ok : ViewOk (memView s)) :
    OutKept (execHostBackInvalidation island sector owned s) := by
  simp [execHostBackInvalidation, ok]

@[simp] theorem viewOk_hostStore {s : State} (p : Nat) (bs : List Byte) (ok : ViewOk (memView s)) :
    ViewOk (memView (hostStore s p bs)) := by
  simp [hostStore, ok]

@[simp] theorem outKept_execHostCxlCacheSnoop (island sector : Nat) (take : Option (Nat × List Byte)) {s : State} (ok : ViewOk (memView s))
    : OutKept (execHostCxlCacheSnoop island sector take s) := by
  simp only [execHostCxlCacheSnoop]
  split <;> simp [ok]

end Sys2Proof.Proofs

/-! PROOFS. Remote operations, health and boot keep the form (O8). -/

namespace Sys2Proof.Proofs

open Sys2Proof Sys2Proof.Machine Sys2Proof.Laws

@[simp] theorem viewOk_landSpan (i : Nat) (a off : Nat) (bs : List Byte) (marks : List Nat) (dirtyAt : Option DirtyRef) {s : State}
    (ok : ViewOk (memView s)) : ViewOk (memView (landSpan i a off bs marks dirtyAt s)) := by
  simp [landSpan, ok]

@[simp] theorem memView_partData (s : State) (i : Nat) (o : RemoteOp) (off n : Nat) : memView (partData s i o off n).1 = memView s :=
  memView_foldl_fst (fun p x => by simp) _ _

@[simp] theorem memView_releaseRemote (s : State) (i n : Nat) (o : RemoteOp) : memView (releaseRemote s i n o) = memView s := by
  simp [releaseRemote]

@[simp] theorem memView_endRemote (s : State) (n : Nat) (o : RemoteOp) (val : DWord) (poison : Bool) (fault : Option Cause) :
    memView (endRemote s n o val poison fault) = memView s := by
  simp only [endRemote]
  split <;> simp

@[simp] theorem memView_failRemote (s : State) (i n st : Nat) : memView (failRemote s i n st) = memView s := by
  simp only [failRemote]
  split <;> simp

@[simp] theorem memView_ackRemote (s : State) (i n : Nat) (o : RemoteOp) : memView (ackRemote s i n o) = memView s := by
  unfold ackRemote
  (repeat' split) <;> simp

theorem memView_emit {s t : State} {i : Nat} {p : RemotePacket} (h : emit s i p = .gone t) : memView t = memView s := by
  rw [emit] at h
  split at h
  · rw [← Sent.gone.inj h]
    simp
  · split at h
    · split at h
      · cases h
      · rw [← Sent.gone.inj h]
        simp
    · cases h
    · cases h

theorem memView_emitPart {s t : State} {i n : Nat} {o : RemoteOp} {p : RemotePart} {d : State × List Byte × List Nat}
    (h : emitPart s i n o p d = .gone t) : memView t = memView d.1 := by
  rw [emitPart] at h
  split at h
  · cases h
  · exact memView_emit h

@[simp] theorem memView_sendPart (s : State) (i n : Nat) (p : RemotePart) : memView (sendPart s i n p) = memView s := by
  rw [sendPart]
  split
  · rfl
  next o _ =>
    have hread : memView (if o.kind = .put then partData s i o p.off p.len else (s, [], [])).1 = memView s := by
      split <;> simp
    dsimp only
    split
    next h => simpa [modRemote] using (memView_emitPart h).trans hread
    next => simp
    next => simp

theorem memView_sendNext {s t : State} {i n : Nat} (h : sendNext s i n = some t) : memView t = memView s := by
  rw [sendNext] at h
  split at h
  · cases h
  · dsimp only at h
    split at h
    · cases h
    · rw [← Option.some.inj h]
      simp only [memView_sendPart, memView_modRemote]
      exact memView_modIsl (fun x => by split <;> rfl) s i

@[simp] theorem memView_pump (k : Nat) (s : State) (i n : Nat) : memView (pump k s i n) = memView s := by
  induction k generalizing s with
  | zero => rfl
  | succ k ih =>
    rw [pump]
    split
    next t h => rw [ih, memView_sendNext h]
    next => rfl

@[simp] theorem memView_pumpAll (s : State) (i : Nat) : memView (pumpAll s i) = memView s :=
  memView_foldl (fun s n => memView_pump 1024 s i n) _ s

@[simp] theorem memView_startRemote (s : State) (cx : Cx) (o : RemoteOp) (locks : List RangeLock) (pins : List (Nat × Nat × Nat)) :
    memView (startRemote s cx o locks pins) = memView s := by
  simp only [startRemote, memView_pump, memView_modGrp, memView_addOp, memView_panelRelease]
  simp

@[simp] theorem checkedKept_checkLocal {s : State} (cx : Cx) (wr : Bool) (loc len : Nat) (ps : List RawPiece) (ok : ViewOk (memView s)) :
    CheckedKept (checkLocal s cx wr loc len ps) := by
  have hc := checkedKept_checkEngine cx (if wr then .write else .read) wr (pieceReqs ps) ok
  rw [checkLocal]
  split
  next h =>
    have hgo := viewOk_of_checked hc h
    split
    · exact hgo
    · exact hgo
  next => exact hc

@[simp] theorem resKept_remoteBody (kind : RemoteKind) (d blk e aop : Nat) (small : Bool) (cx : Cx) {s : State} (ok : ViewOk (memView s)) :
    ResKept (remoteBody kind d blk e aop small cx s) := by
  rw [remoteBody]
  dsimp only
  split
  · trivial
  · split
    next hc => exact viewOk_of_checked (checkedKept_checkLocal cx _ _ _ _ ok) hc
    next hc => exact viewOk_of_checked (checkedKept_checkLocal cx _ _ _ _ ok) hc
    next t _ _ hc =>
      have hgo : ViewOk (memView t) := viewOk_of_checked (checkedKept_checkLocal cx _ _ _ _ ok) hc
      simp only [resKept_ite]
      refine ⟨fun _ => viewOk_park cx _ _ 4 _ hgo, fun _ => ⟨fun _ => hgo, fun _ => ⟨fun _ => ?_, fun _ => ?_⟩⟩⟩
      · simp [hgo]
      · simp [hgo]

@[simp] theorem outKept_execPut (st : BitVec 2) (d : BitVec 6) (b : BitVec 4) {s : State} (ok : ViewOk (memView s)) :
    OutKept (execPut st d b s) := by
  simp [execPut, ok]

@[simp] theorem outKept_execGet (st : BitVec 2) (d : BitVec 6) (b : BitVec 4) {s : State} (ok : ViewOk (memView s)) :
    OutKept (execGet st d b s) := by
  simp [execGet, ok]

@[simp] theorem outKept_execRatom (st : BitVec 2) (d : BitVec 6) (b : BitVec 4) (e : BitVec 6) (o : BitVec 4) (z : BitVec 1) {s : State}
    (ok : ViewOk (memView s)) : OutKept (execRatom st d b e o z s) := by
  simp [execRatom, ok]

@[simp] theorem outKept_execNotify (st : BitVec 2) (d : BitVec 6) (b : BitVec 4) {s : State} (ok : ViewOk (memView s)) :
    OutKept (execNotify st d b s) := by
  simp [execNotify, ok]

@[simp] theorem viewOk_homeAt {s : State} (i c va : Nat) (acc : Acc) (ok : ViewOk (memView s)) : ViewOk (memView (homeAt s i c va acc).1) := by
  have htrans := viewOk_translate i c (ctxOf s i c).priv va acc 0 ok
  rw [homeAt]
  dsimp only
  split
  · exact ok
  · split
    · exact htrans
    · exact htrans
    · split <;> simpa using htrans

@[simp] theorem viewOk_homePut {s : State} (i c : Nat) (marks : List Nat) (off : Nat) (l : List (Nat × Nat)) (bs : List Byte)
    (ok : ViewOk (memView s)) : ViewOk (memView (homePut i c marks s off l bs).1) := by
  induction l generalizing s off bs with
  | nil => exact ok
  | cons sp l ih =>
    have hat := viewOk_homeAt i c sp.1 .write ok
    rw [homePut]
    dsimp only
    split
    · exact hat
    · exact hat
    · refine ih _ _ ?_
      rw [memView_touchSpan]
      exact viewOk_landSpan i _ _ _ marks _ hat

@[simp] theorem viewOk_homeGet {s : State} (i c off : Nat) (l : List (Nat × Nat)) (ok : ViewOk (memView s)) :
    ViewOk (memView (homeGet i c s off l).1) := by
  induction l generalizing s off with
  | nil => exact ok
  | cons sp l ih =>
    have hat := viewOk_homeAt i c sp.1 .read ok
    rw [homeGet]
    dsimp only
    split
    · exact hat
    · exact hat
    · split <;> exact ih _ (by simpa using hat)

@[simp] theorem viewOk_homeRatom {s : State} (i : Nat) (p : RemotePacket) (ok : ViewOk (memView s)) :
    ViewOk (memView (homeRatom s i p).1) := by
  have hat := viewOk_homeAt i p.ctx p.va .atomic ok
  rw [homeRatom]
  dsimp only
  split
  · exact hat
  · exact hat
  · split
    · exact hat
    · rw [memView_modMem (fun m => by simp)]
      split
      · exact viewOk_physPut i _ _ (viewOk_setDirty i _ _ hat)
      · exact hat

@[simp] theorem viewOk_homeAccess {s : State} (i : Nat) (p : RemotePacket) (ok : ViewOk (memView s)) :
    ViewOk (memView (homeAccess s i p).1) := by
  rw [homeAccess]
  split <;> simp [ok]

@[simp] theorem memView_homeNotify (s : State) (i : Nat) (p : RemotePacket) : memView (homeNotify s i p) = memView s := by
  simp [homeNotify]

@[simp] theorem memView_homeRecorded (s : State) (i : Nat) (p : RemotePacket) (old : DWord) (bad : Bool) :
    memView (homeRecord s i p old bad) = memView s :=
  memView_homeRecord s i p old bad

@[simp] theorem viewOk_perform {s : State} (i : Nat) (p : RemotePacket) (ok : ViewOk (memView s)) : ViewOk (memView (perform s i p).1) := by
  have haccess := viewOk_homeAccess i p ok
  rw [perform]
  dsimp only
  split
  · exact ok
  · split
    · exact ok
    · split
      · exact ok
      · split
        · simpa using haccess
        · simpa using haccess
        · exact ok

theorem outKept_execRemotePacketAtHome (island : Nat) {s : State} (ok : ViewOk (memView s)) :
    OutKept (execRemotePacketAtHome island s) := by
  rw [execRemotePacketAtHome]
  split
  · exact (outKept_next s).2 ok
  next p _ =>
    have hdone : ViewOk (memView (perform (takeInbox s island p) island p).1) := viewOk_perform island p (by simpa [takeInbox] using ok)
    dsimp only
    split
    · simpa using hdone
    · split
      next h =>
        rw [outKept_next, memView_emit h]
        exact hdone
      next => exact (outKept_next _).2 hdone

@[simp] theorem viewOk_landGet {s : State} (i : Nat) (o : RemoteOp) (off : Nat) (bs : List Byte) (ms : List Nat) (ok : ViewOk (memView s)) :
    ViewOk (memView (landGet s i o off bs ms)) := by
  rw [landGet]
  exact viewOk_foldl (fun s x ok => by simp [ok]) _ (by simp [ok])

@[simp] theorem viewOk_takeReply {s : State} (i : Nat) (p : RemotePacket) (ok : ViewOk (memView s)) :
    ViewOk (memView (takeReply s i p)) := by
  unfold takeReply
  (repeat' split) <;> simp [ok]

@[simp] theorem outKept_execRemoteAck (island : Nat) {s : State} (ok : ViewOk (memView s)) : OutKept (execRemoteAck island s) := by
  simp only [execRemoteAck]
  split <;> simp [ok]

@[simp] theorem memView_partTimer (i n : Nat) (s : State) (p : RemotePart) : memView (partTimer i n s p) = memView s := by
  rw [partTimer]
  split
  · rfl
  · dsimp only
    split
    · split
      · split
        · rfl
        · split <;> simp
      · simp
    · split
      · rfl
      · split <;> simp

@[simp] theorem outKept_execRemoteTimeout (island op : Nat) {s : State} (ok : ViewOk (memView s)) :
    OutKept (execRemoteTimeout island op s) := by
  simp only [execRemoteTimeout]
  split <;> simp [ok]

@[simp] theorem outKept_execRouteFailureNotice (island op part : Nat) {s : State} (ok : ViewOk (memView s)) :
    OutKept (execRouteFailureNotice island op part s) := by
  unfold execRouteFailureNotice
  (repeat' split) <;> simp [ok]

@[simp] theorem outKept_execRouteErrorNotice (island op : Nat) {s : State} (ok : ViewOk (memView s)) :
    OutKept (execRouteErrorNotice island op s) := by
  simp [execRouteErrorNotice, ok]

@[simp] theorem viewOk_rfenceEnd {s : State} (cx : Cx) (ok : ViewOk (memView s)) : ViewOk (memView (rfenceEnd s cx)) := by
  simp only [rfenceEnd]
  split <;> simp [ok]

@[simp] theorem outKept_execRfence (st : BitVec 2) {s : State} (ok : ViewOk (memView s)) : OutKept (execRfence st s) := by
  simp [execRfence, ok]

@[simp] theorem outKept_execRfenceHoldEnd (grp frag : Nat) {s : State} (ok : ViewOk (memView s)) :
    OutKept (execRfenceHoldEnd grp frag s) := by
  simp only [execRfenceHoldEnd]
  split <;> simp [ok]

@[simp] theorem memView_modMonitor (s : State) (i n : Nat) (f : Monitor → Monitor) : memView (modMonitor s i n f) = memView s := by
  simp [modMonitor]

@[simp] theorem outKept_monc (st : BitVec 2) (uni : List UniUse) (n : Nat) (bad refused : Cx → Bool) (f : Cx → Monitor → Monitor)
    {s : State} (ok : ViewOk (memView s)) : OutKept (monc st uni n bad refused f s) := by
  simp [monc, ok]

@[simp] theorem outKept_execMoncCfg (st : BitVec 2) (n a : BitVec 6) {s : State} (ok : ViewOk (memView s)) :
    OutKept (execMoncCfg st n a s) := by
  simp [execMoncCfg, ok]

@[simp] theorem outKept_execMonr (st : BitVec 2) (d n : BitVec 6) (f : BitVec 5) {s : State} (ok : ViewOk (memView s)) :
    OutKept (execMonr st d n f s) := by
  simp [execMonr, ok]

@[simp] theorem outKept_execMonitorPeriodicSample (island src : Nat) {s : State} (ok : ViewOk (memView s)) :
    OutKept (execMonitorPeriodicSample island src s) := by
  unfold execMonitorPeriodicSample
  (repeat' split) <;> simp [ok]

@[simp] theorem outKept_execPanelMonitorCfgWrite (mon : Nat) (val : DWord) {s : State} (ok : ViewOk (memView s)) :
    OutKept (execPanelMonitorCfgWrite mon val s) := by
  simp [execPanelMonitorCfgWrite, ok]

@[simp] theorem outKept_execPanelMonitorClrWrite (mon : Nat) {s : State} (ok : ViewOk (memView s)) :
    OutKept (execPanelMonitorClrWrite mon s) := by
  simp [execPanelMonitorClrWrite, ok]

@[simp] theorem viewOk_uncorrAll {s : State} (i status info : Nat) (why : FaultedBy) (ok : ViewOk (memView s)) :
    ViewOk (memView (uncorrAll s i status info why)) :=
  viewOk_foldl (fun _ c ok => viewOk_uncorrCtx status info why i c ok) _ ok

@[simp] theorem memView_darkenAll (s : State) (i : Nat) : memView (darkenAll s i) = memView s := by
  simp [darkenAll]

@[simp] theorem memView_dropRouted (s : State) (i : Nat) : memView (dropRouted s i) = memView s := by
  simp [dropRouted]

@[simp] theorem viewOk_quarantineIsland {s : State} (i : Nat) (ok : ViewOk (memView s)) : ViewOk (memView (quarantineIsland s i)) := by
  simp [quarantineIsland, ok]

@[simp] theorem outKept_execFatalIslandEvent (island : Nat) {s : State} (ok : ViewOk (memView s)) :
    OutKept (execFatalIslandEvent island s) := by
  simp [execFatalIslandEvent, ok]

theorem teamOk_loseWord (k : Nat) {t : Team} (h : TeamOk t) : TeamOk (loseWord k t) :=
  filter_wf _ h

@[simp] theorem viewOk_teamError {s : State} (team : Nat) (tile : Option Nat) (word : Nat) (scrub : Bool) (ok : ViewOk (memView s)) :
    ViewOk (memView (teamError s team tile word scrub)) := by
  have hscrub : ∀ {u : State} (gs : Tbl Group), ViewOk (memView u) → ViewOk (memView (if scrub then { u with groups := gs } else u)) := by
    intro u gs hu
    split <;> exact hu
  cases tile with
  | none =>
    simp only [teamError]
    split
    · exact ok
    · exact hscrub _ (viewOk_modTeam team (fun t ht => teamOk_loseWord word ht) ok)
  | some k =>
    simp only [teamError]
    split
    · exact ok
    · exact hscrub _ (viewOk_modTeam team (fun t ht => ht) ok)

@[simp] theorem outKept_execTeamMemoryError (team : Nat) (tile : Option Nat) (word : Nat) (scrub : Bool) {s : State}
    (ok : ViewOk (memView s)) : OutKept (execTeamMemoryError team tile word scrub s) := by
  simp [execTeamMemoryError, ok]

@[simp] theorem outKept_lineError {s : State} (i sec : Nat) (ok : ViewOk (memView s)) : OutKept (lineError s i sec) := by
  simp only [lineError]
  split <;> simp [ok]

@[simp] theorem viewOk_copyError {s : State} (i l1 sec : Nat) (ok : ViewOk (memView s)) : ViewOk (memView (copyError s i l1 sec)) := by
  simp [copyError, ok]

@[simp] theorem outKept_execUncorrectableError (island : Nat) (struck : Struck) {s : State} (ok : ViewOk (memView s)) :
    OutKept (execUncorrectableError island struck s) := by
  simp only [execUncorrectableError]
  split <;> simp [ok]

@[simp] theorem outKept_execLockstepMismatch {s : State} (ok : ViewOk (memView s)) : OutKept (execLockstepMismatch s) := by
  simp [execLockstepMismatch, ok]

@[simp] theorem outKept_execSelfCheckDone (ok0 ok1 : Bool) {s : State} (ok : ViewOk (memView s)) :
    OutKept (execSelfCheckDone ok0 ok1 s) := by
  simp [execSelfCheckDone, ok]

@[simp] theorem outKept_execPowerThrottle (island : Nat) {s : State} (ok : ViewOk (memView s)) : OutKept (execPowerThrottle island s) := by
  simp only [execPowerThrottle]
  split <;> simp [ok]

theorem outKept_execClockRecoveryStep (island : Nat) {s : State} (ok : ViewOk (memView s)) : OutKept (execClockRecoveryStep island s) := by
  rw [execClockRecoveryStep, outKept_next, memView_modIsl (fun x => by split <;> rfl)]
  exact ok

@[simp] theorem outKept_execOverTemperature (island : Nat) {s : State} (ok : ViewOk (memView s)) :
    OutKept (execOverTemperature island s) := by
  simp [execOverTemperature, ok]

@[simp] theorem outKept_execPwrlimWrite (island : Nat) (val : DWord) {s : State} (ok : ViewOk (memView s)) :
    OutKept (execPwrlimWrite island val s) := by
  simp [execPwrlimWrite, ok]

@[simp] theorem memView_lightUp (s : State) : memView (lightUp s) = memView s := by
  simp [lightUp]

@[simp] theorem memView_trainEdges (s : State) : memView (trainEdges s) = memView s := by
  simp [trainEdges]

@[simp] theorem viewOk_boot {s : State} (f : BootFindings) (ok : ViewOk (memView s)) : ViewOk (memView (boot s f)) := by
  rw [viewOk_iff] at ok ⊢
  exact ⟨ok.host, fun p hp => absurd hp List.not_mem_nil, fun p hp => absurd hp List.not_mem_nil⟩

/-- The island that boot numbers has an empty memory. -/
theorem islandOk_bootIsland (s : State) (v : Survey) (ns : List Nat) (n p : Nat) : IslandOk (bootIsland s v ns n p) :=
  ⟨rfl, fun _ hq => absurd hq List.not_mem_nil⟩

@[simp] theorem viewOk_bootNumber (f : BootFindings) {s : State} (ok : ViewOk (memView s)) : ViewOk (memView (bootNumber f s)) := by
  have hislands : ∀ (panel : Panel) (v : Survey) (ns : List Nat),
      ViewOk (memView { s with panel := panel, islands := ns.zipIdx.map fun x => (x.2, bootIsland s v ns x.2 x.1) }) := by
    intro panel v ns
    rw [viewOk_iff] at ok ⊢
    refine ⟨ok.host, fun p hp => ?_, ok.teams⟩
    obtain ⟨x, _, rfl⟩ := List.mem_map.1 hp
    exact islandOk_bootIsland s v ns x.2 x.1
  rw [bootNumber]
  dsimp only
  split
  · exact hislands _ _ _
  · rw [memView_lightUp]
    exact hislands _ _ _

@[simp] theorem viewOk_bootStage (r : BootRun) {s : State} (ok : ViewOk (memView s)) : ViewOk (memView (bootStage r s)) := by
  simp only [bootStage]
  split <;> simp [ok]

@[simp] theorem viewOk_bootOn {s : State} (ok : ViewOk (memView s)) : ViewOk (memView (bootOn s)) := by
  simp only [bootOn]
  split <;> simp [ok]

@[simp] theorem outKept_execPowerGood (found : BootFindings) {s : State} (ok : ViewOk (memView s)) : OutKept (execPowerGood found s) := by
  simp [execPowerGood, ok]

@[simp] theorem outKept_execAttestationRequest (nonce : List Byte) {s : State} (ok : ViewOk (memView s)) :
    OutKept (execAttestationRequest nonce s) := by
  simp [execAttestationRequest, ok]

@[simp] theorem memView_modStore (s : State) (f : Store → Store) : memView (modStore s f) = memView s := by
  simp [modStore]

@[simp] theorem outKept_execClaim (key : List Byte) {s : State} (ok : ViewOk (memView s)) : OutKept (execClaim key s) := by
  simp [execClaim, ok]

@[simp] theorem outKept_execOwnerKeyChange (add : Bool) (key signer sig : List Byte) {s : State} (ok : ViewOk (memView s)) :
    OutKept (execOwnerKeyChange add key signer sig s) := by
  simp [execOwnerKeyChange, ok]

@[simp] theorem outKept_execPeerKeyAdd (key signer sig : List Byte) {s : State} (ok : ViewOk (memView s)) :
    OutKept (execPeerKeyAdd key signer sig s) := by
  simp [execPeerKeyAdd, ok]

@[simp] theorem outKept_execPeerKeyRemove (key signer sig : List Byte) {s : State} (ok : ViewOk (memView s)) :
    OutKept (execPeerKeyRemove key signer sig s) := by
  simp [execPeerKeyRemove, ok]

@[simp] theorem outKept_execPanelNumberChange (number : Nat) (signer sig : List Byte) {s : State} (ok : ViewOk (memView s)) :
    OutKept (execPanelNumberChange number signer sig s) := by
  simp [execPanelNumberChange, ok]

end Sys2Proof.Proofs

/-! PROOFS. Buckets, collectives and system registers keep the form (O8). -/

namespace Sys2Proof.Proofs

open Sys2Proof Sys2Proof.Machine Sys2Proof.Laws

@[simp] theorem memView_sendBody (i : Nat) (b : Bucket) (body : BucketBody) (s : State) (dest : Nat) :
    memView (sendBody i b body s dest) = memView s := by
  simp [sendBody]

@[simp] theorem memView_sendDown (s : State) (i : Nat) (b : Bucket) (body : BucketBody) : memView (sendDown s i b body) = memView s := by
  simp [sendDown]

@[simp] theorem memView_streamResults (s : State) (i n : Nat) (l : List Word) : memView (streamResults s i n l) = memView s := by
  simp [streamResults]

@[simp] theorem memView_takeResults (s : State) (i n : Nat) (b : Bucket) (l : List Word) : memView (takeResults s i n b l) = memView s := by
  simp [takeResults]

@[simp] theorem memView_takeScales (s : State) (i n : Nat) (b : Bucket) (l : List Byte) : memView (takeScales s i n b l) = memView s := by
  simp [takeScales]

@[simp] theorem memView_stepScales (s : State) (i n : Nat) : memView (stepScales s i n) = memView s := by
  simp only [stepScales]
  split <;> simp

@[simp] theorem memView_stepValues (s : State) (i n : Nat) : memView (stepValues s i n) = memView s := by
  simp only [stepValues]
  split <;> simp

@[simp] theorem memView_takeEntry (i n : Nat) (s : State) (e : FeedEntry) : memView (takeEntry i n s e) = memView s := by
  simp [takeEntry]

@[simp] theorem memView_takeQ2 (s : State) (i k n : Nat) : memView (takeQ2 s i k n) = memView s := by
  simp [takeQ2]

@[simp] theorem memView_bucketStep (s : State) (i n : Nat) : memView (bucketStep s i n) = memView s := by
  simp [bucketStep]

@[simp] theorem memView_streamStep (s : State) (i k n : Nat) : memView (streamStep s i k n) = memView s := by
  simp [streamStep]

@[simp] theorem memView_bucketMove (s : State) (i n : Nat) : memView (bucketMove s i n) = memView s := by
  simp only [bucketMove]
  split <;> simp

@[simp] theorem memView_unbind (s : State) (k : Nat) : memView (unbind s k) = memView s := by
  rw [unbind]
  split
  · rfl
  · split
    · simp
    · split <;> simp

@[simp] theorem viewOk_writeRange {s : State} (i : Nat) (ps : List EnginePiece) (bs : List Byte) (ok : ViewOk (memView s)) :
    ViewOk (memView (writeRange s i ps bs)) :=
  viewOk_foldl (fun s x ok => by simp [ok]) _ ok

@[simp] theorem viewOk_endBucket {s : State} (i n : Nat) (b : Bucket) (tw rw : List Byte) (stat : DWord) (ok : ViewOk (memView s)) :
    ViewOk (memView (endBucket s i n b tw rw stat)) := by
  simp [endBucket, ok]

@[simp] theorem outKept_execBucketComplete (island bucket : Nat) {s : State} (ok : ViewOk (memView s)) :
    OutKept (execBucketComplete island bucket s) := by
  simp only [execBucketComplete]
  split <;> simp [ok]

@[simp] theorem memView_dropMail (s : State) (i ctx bid : Nat) : memView (dropMail s i ctx bid) = memView s := by
  simp [dropMail]

@[simp] theorem viewOk_failBucket {s : State} (i n st : Nat) (ok : ViewOk (memView s)) : ViewOk (memView (failBucket s i n st)) := by
  rw [failBucket]
  split
  · exact ok
  next b _ =>
    have htold : ∀ l : List Nat, memView (l.foldl (sendBody i b .failure) (dropMail s i b.ctx b.bid)) = memView s := fun l =>
      (memView_foldl (fun s d => memView_sendBody ..) l _).trans (memView_dropMail ..)
    dsimp only
    split
    · simp only [memView_giveQ3, memView_streamResults]
      exact viewOk_endBucket i n b _ _ _ (by simp [htold, ok])
    · simp only [memView_streamResults]
      exact viewOk_endBucket i n b _ _ _ (by simp [htold, ok])

@[simp] theorem outKept_execBucketFailure (island bucket status : Nat) {s : State} (ok : ViewOk (memView s)) :
    OutKept (execBucketFailure island bucket status s) := by
  simp only [execBucketFailure]
  split <;> simp [ok]

@[simp] theorem outKept_execBucketTimeout (island bucket : Nat) {s : State} (ok : ViewOk (memView s)) :
    OutKept (execBucketTimeout island bucket s) := by
  simp only [execBucketTimeout]
  split <;> simp [ok]

@[simp] theorem memView_takeMessage (s : State) (i n : Nat) (b : Bucket) (m : BucketMsg) : memView (takeMessage s i n b m) = memView s := by
  unfold takeMessage
  (repeat' split) <;> simp

theorem outKept_execBucketMessage (island : Nat) {s : State} (ok : ViewOk (memView s)) : OutKept (execBucketMessage island s) := by
  rw [execBucketMessage]
  split
  · exact (outKept_next s).2 ok
  · dsimp only
    split <;> simp [ok]

@[simp] theorem memView_readInputs (s : State) (i : Nat) (ps : List EnginePiece) : memView (readInputs s i ps).1 = memView s := by
  rw [readInputs]
  exact memView_foldl_fst (fun p x => by simp) _ _

@[simp] theorem memView_collEnd (s : State) (cx : Cx) (d st : Nat) : memView (collEnd s cx d st) = memView s := by
  simp [collEnd]

@[simp] theorem memView_startBucket (s : State) (cx : Cx) (b : Bucket) (src : List EnginePiece) (pins : List (Nat × Nat × Nat)) :
    memView (startBucket s cx b src pins) = memView s := by
  simp only [startBucket]
  split <;> simp

/-- The state in which the checks of the ranges leave off. -/
def spansState : SpansAns → State
  | .fault s _ => s
  | .wait s => s
  | .go s _ => s

theorem viewOk_checkSpans (cx : Cx) {s : State} (r : SpansOk) (l : List Span) (ok : ViewOk (memView s)) :
    ViewOk (memView (spansState (checkSpans cx s r l))) := by
  induction l generalizing s r with
  | nil => exact ok
  | cons p l ih =>
    rw [checkSpans]
    split
    next hc => exact viewOk_of_checked (checkedKept_checkLocal cx _ _ _ _ ok) hc
    next hc => exact viewOk_of_checked (checkedKept_checkLocal cx _ _ _ _ ok) hc
    next hc => exact ih _ (viewOk_of_checked (checkedKept_checkLocal cx _ _ _ _ ok) hc)

theorem viewOk_of_spans {cx : Cx} {s : State} {r : SpansOk} {l : List Span} {x : SpansAns} (ok : ViewOk (memView s))
    (h : checkSpans cx s r l = x) : ViewOk (memView (spansState x)) := by
  rw [← h]
  exact viewOk_checkSpans cx r l ok

theorem outKept_collOp (streamed : Bool) (st : BitVec 2) (d a : BitVec 6) {s : State} (ok : ViewOk (memView s)) :
    OutKept (collOp streamed st d a s) := by
  rw [collOp]
  refine outKept_issue ok fun cx => ?_
  dsimp only
  split
  · trivial
  · split
    next h => exact viewOk_of_spans ok h
    next h => exact viewOk_of_spans ok h
    next t r h =>
      have hgo : ViewOk (memView t) := viewOk_of_spans ok h
      simp only [resKept_ite]
      refine ⟨fun _ => viewOk_park cx _ _ 4 _ hgo, fun _ => ⟨fun _ => ?_, fun _ => ⟨fun _ => ?_, fun _ => ⟨fun _ => hgo, fun _ => ?_⟩⟩⟩⟩
      · simp [hgo]
      · simp [hgo]
      · simp [hgo]

@[simp] theorem memView_ownStream (s : State) (cx : Cx) : memView (ownStream s cx) = memView s := by
  simp only [ownStream]
  split <;> simp

@[simp] theorem outKept_execFeedw (st : BitVec 2) (q : BitVec 1) (a b : BitVec 7) (m : BitVec 2) {s : State} (ok : ViewOk (memView s)) :
    OutKept (execFeedw st q a b m s) := by
  simp [execFeedw, ok]

@[simp] theorem resKept_popQ1 (d : BitVec 7) (m : BitVec 2) (cx : Cx) {s : State} (ok : ViewOk (memView s)) : ResKept (popQ1 d m cx s) := by
  simp only [popQ1]
  split <;> simp [ok]

@[simp] theorem resKept_popQ3 (d : BitVec 7) (m : BitVec 2) (cx : Cx) {s : State} (ok : ViewOk (memView s)) : ResKept (popQ3 d m cx s) := by
  simp only [popQ3]
  split <;> simp [ok]

@[simp] theorem outKept_execFeedr (st : BitVec 2) (d : BitVec 7) (q : BitVec 1) (m : BitVec 2) {s : State} (ok : ViewOk (memView s)) :
    OutKept (execFeedr st d q m s) := by
  simp [execFeedr, ok]

@[simp] theorem outKept_execRdsr (st : BitVec 2) (d n : BitVec 6) {s : State} (ok : ViewOk (memView s)) : OutKept (execRdsr st d n s) := by
  simp [execRdsr, ok]

@[simp] theorem memView_plainWrite (s : State) (i n v : Nat) : memView (plainWrite s i n v) = memView s := by
  simp only [plainWrite]
  split <;> simp

@[simp] theorem viewOk_systemWrite {s : State} (i n v : Nat) (ok : ViewOk (memView s)) : ViewOk (memView (systemWrite s i n v)) := by
  simp only [systemWrite]
  split <;> simp [ok]

@[simp] theorem outKept_execWrsr (st : BitVec 2) (n a : BitVec 6) {s : State} (ok : ViewOk (memView s)) : OutKept (execWrsr st n a s) := by
  simp [execWrsr, ok]

@[simp] theorem outKept_execSystemRegisterWrite (island num : Nat) (val : DWord) {s : State} (ok : ViewOk (memView s)) :
    OutKept (execSystemRegisterWrite island num val s) := by
  simp [execSystemRegisterWrite, ok]

end Sys2Proof.Proofs

/-! PROOFS. Every instruction and event, and every step, keeps every memory in canonical form (O8). -/

namespace Sys2Proof.Proofs

open Sys2Proof Sys2Proof.Machine Sys2Proof.Laws

@[simp] theorem memView_lateReleases (s : State) : memView (lateReleases s) = memView s := by
  rw [lateReleases]
  refine memView_foldl (fun s p => ?_) _ s
  split
  · rfl
  · refine memView_foldl (fun s f => ?_) _ s
    split
    · dsimp only
      split <;> simp
    · rfl

@[simp] theorem viewOk_passTime {s : State} (ok : ViewOk (memView s)) : ViewOk (memView (passTime s)) := by
  simp [passTime, ok]

@[simp] theorem viewOk_takeDue {s : State} (cx : Cx) (c : DWord) (ok : ViewOk (memView s)) : ViewOk (memView (takeDue s cx c)) := by
  simp [takeDue, ok]

/-- Every instruction and every event keeps the form: case by case, the lemma of what it executes. -/
theorem outKept_exec {s : State} (ok : ViewOk (memView s)) (i : Instr) : OutKept (exec i s) := by
  unfold exec
  cases i with
  | iadd | isub | imul | imulh | imad | imin | imax | iaddsat | and | or | xor | andn | shl | shr => exact outKept_laneBin _ _ _ _ _ _ _ ok
  | iaddi | andi | ori | xori | shli | shri => exact outKept_laneImm _ _ _ _ ok
  | fmin | fmax => exact outKept_floatOp _ _ _ _ _ _ _ ok
  | atom | acas => exact outKept_laneAtomic _ _ _ _ _ _ _ _ _ _ _ _ _ ok
  | uadd | usub | umul | umulh | uand | uor | uxor | ushl | ushr | umin | umax => exact outKept_uniBin _ _ _ _ _ _ ok
  | bpt | trap => exact outKept_softTrap _ _ _ ok
  | flgsClr | flgsSet => exact outKept_flgsOp _ _ _ ok
  | bexp | bexpImm => exact outKept_bexpOp _ _ _ _ _ ok
  | coll | colw => exact outKept_collOp _ _ _ _ ok
  | vcdef | vcrsz | vcret => exact outKept_vcOp _ _ _ _ ok
  | vcwb | vcinv => exact outKept_vcClean _ _ _ _ _ _ ok
  | moncClr | moncRel => exact outKept_monc _ _ _ _ _ _ ok
  | place | halt | save | resume | restore | terminate | release | unplace => exact outKept_ctxEvent _ _ _ ok
  | icmp => exact outKept_execIcmp _ _ _ _ _ _ ok
  | iun => exact outKept_execIun _ _ _ _ _ ok
  | icmpi => exact outKept_execIcmpi _ _ _ _ _ ok
  | movl => exact outKept_execMovl _ _ _ ok
  | movh => exact outKept_execMovh _ _ _ ok
  | sel => exact outKept_execSel _ _ _ _ _ ok
  | shfl => exact outKept_execShfl _ _ _ _ _ ok
  | shfli => exact outKept_execShfli _ _ _ _ _ ok
  | lanev => exact outKept_execLanev _ _ ok
  | plog => exact outKept_execPlog _ _ _ _ _ ok
  | vote => exact outKept_execVote _ _ _ _ ok
  | voteBallot => exact outKept_execVoteBallot _ _ _ ok
  | redux => exact outKept_execRedux _ _ _ _ _ ok
  | fadd => exact outKept_execFadd _ _ _ _ _ ok
  | fsub => exact outKept_execFsub _ _ _ _ _ ok
  | fmul => exact outKept_execFmul _ _ _ _ _ ok
  | fma => exact outKept_execFma _ _ _ _ _ ok
  | fdiv => exact outKept_execFdiv _ _ _ _ _ ok
  | fcmp => exact outKept_execFcmp _ _ _ _ _ _ ok
  | funOp => exact outKept_execFunOp _ _ _ _ _ ok
  | fscl => exact outKept_execFscl _ _ _ _ _ ok
  | cvt => exact outKept_execCvt _ _ _ _ _ _ ok
  | bqnt => exact outKept_execBqnt _ _ _ _ _ ok
  | bdq => exact outKept_execBdq _ _ _ _ _ ok
  | feedw => exact outKept_execFeedw _ _ _ _ _ ok
  | feedr => exact outKept_execFeedr _ _ _ _ ok
  | ld => exact outKept_execLd _ _ _ _ _ _ _ ok
  | st => exact outKept_execSt _ _ _ _ _ _ _ ok
  | ldt => exact outKept_execLdt _ _ _ _ _ ok
  | stt => exact outKept_execStt _ _ _ _ _ ok
  | atomt => exact outKept_execAtomt _ _ _ _ _ _ _ _ _ _ ok
  | acp16 => exact outKept_execAcp16 _ _ _ _ _ ok
  | prf => exact outKept_execPrf _ _ _ _ _ _ ok
  | lda => exact outKept_execLda _ _ _ _ _ _ _ ok
  | sta => exact outKept_execSta _ _ _ _ _ _ _ ok
  | mma => exact outKept_execMma _ _ _ _ _ _ _ _ ok
  | tld => exact outKept_execTld _ _ _ _ ok
  | tst => exact outKept_execTst _ _ _ _ ok
  | ucmp => exact outKept_execUcmp _ _ _ _ _ ok
  | usel => exact outKept_execUsel _ _ _ _ _ ok
  | uaddi => exact outKept_execUaddi _ _ _ _ ok
  | uandi => exact outKept_execUandi _ _ _ _ ok
  | ucmpi => exact outKept_execUcmpi _ _ _ _ _ ok
  | umovi => exact outKept_execUmovi _ _ _ _ ok
  | uun => exact outKept_execUun _ _ _ _ _ ok
  | clog => exact outKept_execClog _ _ _ _ _ ok
  | uld => exact outKept_execUld _ _ _ _ _ _ _ ok
  | ust => exact outKept_execUst _ _ _ _ _ _ _ ok
  | uatom => exact outKept_execUatom _ _ _ _ _ _ _ _ ok
  | bra => exact outKept_execBra _ _ ok
  | brc => exact outKept_execBrc _ _ _ _ ok
  | brp => exact outKept_execBrp _ _ _ _ ok
  | brx => exact outKept_execBrx _ _ ok
  | call => exact outKept_execCall _ _ ok
  | ret => exact outKept_execRet _ ok
  | exit => exact outKept_execExit _ ok
  | yield => exact outKept_execYield _ ok
  | nop => exact outKept_execNop _ ok
  | wait => exact outKept_execWait _ _ ok
  | sleep => exact outKept_execSleep _ _ ok
  | tret => exact outKept_execTret _ ok
  | tfence => exact outKept_execTfence _ ok
  | mfence => exact outKept_execMfence _ _ _ ok
  | rgrow => exact outKept_execRgrow _ _ ok
  | rshrink => exact outKept_execRshrink _ _ ok
  | trld => exact outKept_execTrld _ _ _ _ ok
  | trinv => exact outKept_execTrinv _ _ _ _ ok
  | rdsr => exact outKept_execRdsr _ _ _ ok
  | wrsr => exact outKept_execWrsr _ _ _ ok
  | flgs => exact outKept_execFlgs _ _ _ ok
  | binit => exact outKept_execBinit _ _ _ _ ok
  | barv => exact outKept_execBarv _ _ _ _ _ ok
  | bwait => exact outKept_execBwait _ _ _ _ _ ok
  | btry => exact outKept_execBtry _ _ _ _ _ ok
  | binv => exact outKept_execBinv _ _ _ ok
  | tcopy => exact outKept_execTcopy _ _ _ _ _ ok
  | tsto => exact outKept_execTsto _ _ _ _ _ ok
  | tpref => exact outKept_execTpref _ _ _ _ ok
  | mmap => exact outKept_execMmap _ _ _ _ _ _ _ _ _ ok
  | mmsc => exact outKept_execMmsc _ _ _ ok
  | tzero => exact outKept_execTzero _ _ _ ok
  | tepi => exact outKept_execTepi _ _ _ _ _ _ ok
  | chain => exact outKept_execChain _ _ _ ok
  | put => exact outKept_execPut _ _ _ ok
  | get => exact outKept_execGet _ _ _ ok
  | ratom => exact outKept_execRatom _ _ _ _ _ _ ok
  | notify => exact outKept_execNotify _ _ _ ok
  | waitn => exact outKept_execWaitn _ _ _ _ ok
  | rfence => exact outKept_execRfence _ ok
  | qpush => exact outKept_execQpush _ _ _ _ ok
  | pfence => exact outKept_execPfence _ _ _ ok
  | pfenceRel => exact outKept_execPfenceRel _ _ _ ok
  | vcq => exact outKept_execVcq _ _ _ ok
  | monr => exact outKept_execMonr _ _ _ _ ok
  | moncCfg => exact outKept_execMoncCfg _ _ _ ok
  | routeMapInvalidate => exact outKept_execRouteMapInvalidate _ ok
  | contextStatePropagate => exact outKept_execContextStatePropagate ok
  | stallCountExpiry => exact outKept_execStallCountExpiry _ ok
  | sleepExpiry => exact outKept_execSleepExpiry _ _ ok
  | waitHoldEnd => exact outKept_execWaitHoldEnd _ _ ok
  | mfenceHoldEnd => exact outKept_execMfenceHoldEnd _ _ ok
  | rgrowClaimServed => exact outKept_execRgrowClaimServed _ _ ok
  | claimDeadlock => exact outKept_execClaimDeadlock _ _ ok
  | trapEntry => exact outKept_execTrapEntry _ ok
  | exitDrainEnd => exact outKept_execExitDrainEnd _ ok
  | chainRetire => exact outKept_execChainRetire _ _ ok
  | mmaRetire => exact outKept_execMmaRetire _ _ ok
  | mmapBlockComplete => exact outKept_execMmapBlockComplete _ ok
  | mmapRetire => exact outKept_execMmapRetire _ ok
  | barvArrival => exact outKept_execBarvArrival _ _ ok
  | engineLanding => exact outKept_execEngineLanding _ _ ok
  | acp16Landing => exact outKept_execAcp16Landing _ _ ok
  | barrierTimeout => exact outKept_execBarrierTimeout _ _ ok
  | faultRecordEnqueue => exact outKept_execFaultRecordEnqueue _ ok
  | vcClaimDrained => exact outKept_execVcClaimDrained _ _ ok
  | vcSweepLine => exact outKept_execVcSweepLine _ _ ok
  | vcResizeEnd => exact outKept_execVcResizeEnd _ _ ok
  | vcDrainStart => exact outKept_execVcDrainStart _ _ ok
  | vcDrainEnd => exact outKept_execVcDrainEnd _ _ ok
  | loadReturn => exact outKept_execLoadReturn _ _ ok
  | storePerformed => exact outKept_execStorePerformed _ _ ok
  | homeOwnershipRequest => exact outKept_execHomeOwnershipRequest _ _ _ _ ok
  | protectionRefusal => exact outKept_execProtectionRefusal _ _ _ _ _ _ _ _ _ ok
  | haltComplete => exact outKept_execHaltComplete _ _ ok
  | restoreComplete => exact outKept_execRestoreComplete _ _ ok
  | progressBeat => exact outKept_execProgressBeat _ _ ok
  | heartbeat => exact outKept_execHeartbeat _ _ ok
  | teamPlacement => exact outKept_execTeamPlacement _ _ ok
  | create => exact outKept_execCreate _ _ _ ok
  | enable => exact outKept_execEnable _ ok
  | drain => exact outKept_execDrain _ ok
  | reset => exact outKept_execReset _ ok
  | destroy => exact outKept_execDestroy _ ok
  | qtailWrite => exact outKept_execQtailWrite _ _ ok
  | queuePacketRead => exact outKept_execQueuePacketRead ok
  | launch => exact outKept_execLaunch _ ok
  | waitPacket => exact outKept_execWaitPacket _ ok
  | waitPacketTimeout => exact outKept_execWaitPacketTimeout _ ok
  | signal => exact outKept_execSignal _ ok
  | copy => exact outKept_execCopy _ ok
  | vcdefPacket => exact outKept_execVcdefPacket _ ok
  | order => exact outKept_execOrder _ ok
  | stamp => exact outKept_execStamp _ ok
  | packetComplete => exact outKept_execPacketComplete _ ok
  | linkTrainingComplete => exact outKept_execLinkTrainingComplete _ _ _ _ _ _ ok
  | linkTrainingTimeout => exact outKept_execLinkTrainingTimeout _ _ ok
  | linkRetrainingTrigger => exact outKept_execLinkRetrainingTrigger _ _ ok
  | linkRelock => exact outKept_execLinkRelock _ _ ok
  | linkRetrainingTimeout => exact outKept_execLinkRetrainingTimeout _ _ ok
  | linkRetryTimer => exact outKept_execLinkRetryTimer _ _ ok
  | flitIdle => exact outKept_execFlitIdle _ _ _ ok
  | flitRequest => exact outKept_execFlitRequest _ _ _ _ ok
  | flitResponse => exact outKept_execFlitResponse _ _ _ _ ok
  | flitNak => exact outKept_execFlitNak _ _ _ ok
  | flitKeyControl => exact outKept_execFlitKeyControl _ _ _ _ ok
  | routerPacket => exact outKept_execRouterPacket _ _ ok
  | routeFailureNotice => exact outKept_execRouteFailureNotice _ _ _ ok
  | routeErrorNotice => exact outKept_execRouteErrorNotice _ _ ok
  | replacementRoute => exact outKept_execReplacementRoute _ _ _ _ _ ok
  | routeEntryReuse => exact outKept_execRouteEntryReuse _ ok
  | keyRolloverStart => exact outKept_execKeyRolloverStart _ _ _ ok
  | keyExchangeRetry => exact outKept_execKeyExchangeRetry _ _ ok
  | rolloverRetire => exact outKept_execRolloverRetire _ _ ok
  | keySlotExhausted => exact outKept_execKeySlotExhausted _ _ ok
  | xcellComplete => exact outKept_execXcellComplete _ ok
  | pfenceDrainEnd => exact outKept_execPfenceDrainEnd _ _ ok
  | remotePacketAtHome => exact outKept_execRemotePacketAtHome _ ok
  | remoteAck => exact outKept_execRemoteAck _ ok
  | remoteTimeout => exact outKept_execRemoteTimeout _ _ ok
  | rfenceHoldEnd => exact outKept_execRfenceHoldEnd _ _ ok
  | waitnTimeout => exact outKept_execWaitnTimeout _ _ ok
  | bucketMessage => exact outKept_execBucketMessage _ ok
  | bucketComplete => exact outKept_execBucketComplete _ _ ok
  | bucketFailure => exact outKept_execBucketFailure _ _ _ ok
  | bucketTimeout => exact outKept_execBucketTimeout _ _ ok
  | specialFunctionEntryTaken => exact outKept_execSpecialFunctionEntryTaken _ _ ok
  | specialFunctionResult => exact outKept_execSpecialFunctionResult _ _ ok
  | feedTimeout => exact outKept_execFeedTimeout _ _ ok
  | selfCheckDone => exact outKept_execSelfCheckDone _ _ ok
  | monitorPeriodicSample => exact outKept_execMonitorPeriodicSample _ _ ok
  | tileMoveRetire => exact outKept_execTileMoveRetire _ _ ok
  | tprefLanding => exact outKept_execTprefLanding _ _ ok
  | powerGood => exact outKept_execPowerGood _ ok
  | attestationRequest => exact outKept_execAttestationRequest _ ok
  | claim => exact outKept_execClaim _ ok
  | ownerKeyChange => exact outKept_execOwnerKeyChange _ _ _ _ ok
  | peerKeyAdd => exact outKept_execPeerKeyAdd _ _ _ ok
  | peerKeyRemove => exact outKept_execPeerKeyRemove _ _ _ ok
  | panelNumberChange => exact outKept_execPanelNumberChange _ _ _ ok
  | fatalIslandEvent => exact outKept_execFatalIslandEvent _ ok
  | registerPoison => exact outKept_execRegisterPoison _ _ _ _ _ ok
  | digitResidueMismatch => exact outKept_execDigitResidueMismatch _ _ ok
  | arrayResidueMismatch => exact outKept_execArrayResidueMismatch _ _ _ ok
  | frplayReplay => exact outKept_execFrplayReplay _ _ ok
  | frplayHandler => exact outKept_execFrplayHandler _ _ ok
  | frplayTerminate => exact outKept_execFrplayTerminate _ _ ok
  | frplayNone => exact outKept_execFrplayNone _ _ ok
  | bankFailure => exact outKept_execBankFailure _ _ _ ok
  | hbmUncorrectableError => exact outKept_execHbmUncorrectableError _ _ ok
  | hostCxlMemAccess => exact outKept_execHostCxlMemAccess _ _ _ ok
  | hostBackInvalidation => exact outKept_execHostBackInvalidation _ _ _ ok
  | hostCxlCacheSnoop => exact outKept_execHostCxlCacheSnoop _ _ _ ok
  | beatpWrite => exact outKept_execBeatpWrite _ _ ok
  | xcellSet => exact outKept_execXcellSet _ _ _ ok
  | xcellReset => exact outKept_execXcellReset _ _ _ ok
  | hpctlWrite => exact outKept_execHpctlWrite _ ok
  | ncvalWrite => exact outKept_execNcvalWrite _ _ ok
  | uncorrectableError => exact outKept_execUncorrectableError _ _ ok
  | teamMemoryError => exact outKept_execTeamMemoryError _ _ _ _ ok
  | lockstepMismatch => exact outKept_execLockstepMismatch ok
  | powerThrottle => exact outKept_execPowerThrottle _ ok
  | clockRecoveryStep => exact outKept_execClockRecoveryStep _ ok
  | overTemperature => exact outKept_execOverTemperature _ ok
  | pwrlimWrite => exact outKept_execPwrlimWrite _ _ ok
  | panelMonitorCfgWrite => exact outKept_execPanelMonitorCfgWrite _ _ ok
  | panelMonitorClrWrite => exact outKept_execPanelMonitorClrWrite _ ok
  | systemRegisterWrite => exact outKept_execSystemRegisterWrite _ _ _ ok
  | orderlyShutdown => exact outKept_execOrderlyShutdown ok
  | hostPortLinkChange => exact outKept_execHostPortLinkChange _ _ ok

/-- The state that the issuing fragment's fetch leaves. -/
def ranState : Ran → State
  | .instr s _ => s
  | .done s => s

theorem fetchedKept_of {s : State} {cx : Cx} {f : Fetched} (ok : ViewOk (memView s)) (h : fetch s cx = f) : FetchedKept f := by
  rw [← h]
  exact fetchedKept_fetch cx ok

theorem viewOk_runFetch {s : State} (ok : ViewOk (memView s)) : ViewOk (memView (ranState (runFetch s))) := by
  rw [runFetch]
  split
  · exact ok
  next cx _ =>
    split
    · exact viewOk_takeDue cx _ ok
    · split
      next h => exact fetchedKept_of ok h
      next h => exact viewOk_takeFault cx _ (fetchedKept_of ok h)
      next h =>
        rw [ranState, memView_markWaiting]
        exact fetchedKept_of ok h
      next h => exact viewOk_park cx _ _ 4 _ (fetchedKept_of ok h)

/-- A choice of the scheduler carried out in a state that time has passed in. -/
theorem outKept_step {s : State} (ok : ViewOk (memView s)) : OutKept (step s) := by
  have hpass := viewOk_passTime ok
  rw [step]
  split
  · exact outKept_exec (s := { passTime s with cur := none }) hpass _
  next rest _ _ => exact outKept_exec (s := { passTime s with agenda := rest, cur := none }) hpass _
  · split
    · exact outKept_exec (s := { passTime s with cur := none }) hpass _
    · rw [outKept_next, memView_wakeAll]
      exact hpass
    next c _ =>
      have hran := viewOk_runFetch (s := { passTime s with cur := some c }) hpass
      split
      next h =>
        rw [h] at hran
        exact outKept_exec hran _
      next h =>
        rw [h] at hran
        exact (outKept_next _).2 hran

/-- Settles O8: the form is a property of the view of the memories, and every operation that a step is made of keeps it. -/
theorem memoryFormKept : Obligations.MemoryFormKept := by
  intro s t ok h
  exact (viewOk_iff t).1 (outKept_step ((viewOk_iff s).2 ok) t h)

end Sys2Proof.Proofs
